-- ==== Sys2Proof/Word.lean ====
section
/-! DEFINITION. The word types of the model: what the manual treats as bits. Quantities the manual
only counts or compares are natural numbers. -/

namespace Sys2Proof

/-- One byte of memory, of a frame or of an image. -/
abbrev Byte := BitVec 8

/-- A vector lane, an accumulator entry, an FP32 or INT32 value (R38, R53). -/
abbrev Word := BitVec 32

/-- A 64-bit quantity: digests, time stamps, checker sums' digests (R60, R339). -/
abbrev Word64 := BitVec 64

/-- A cell slot of a bundle (R79). -/
abbrev CellSlot := BitVec 40

/-- A vector slot of a bundle (R80). -/
abbrev VecSlot := BitVec 64

/-- A mover slot or the control slot of a bundle (R82, R83). -/
abbrev MovSlot := BitVec 48

end Sys2Proof
end

