-- ==== Sys2Proof/Syntax.lean ====
section
/-! DEFINITION. The commands of the block: one constructor per row of the table of operations, and the
operand records they carry. A command carries what comes from outside the chip (a value written, a
message received, a measurement, what an error-correcting code found); everything else its meaning
takes from the state. -/

namespace Sys2Proof

/-- Sequencer A or B of a block (R86). -/
inductive SeqId where
  | a
  | b
  deriving DecidableEq, Repr

/-- The role a management path carries (R358). -/
inductive Role where
  | observer
  | owner
  | operator
  | vendor
  deriving DecidableEq, Repr

/-- A management path (R359); the codes of event 0xF003 follow it (R413). -/
inductive Path where
  | t1s
  | pcie
  | vc0
  deriving DecidableEq, Repr

/-- Who performs a dictionary access: its role, the path it came by and, on PCIe, the function. -/
structure Who where
  role : Role
  path : Path
  func : Nat
  deriving DecidableEq, Repr

/-- Two planned accesses that met in a bank cycle (R89): bank, winning and losing unit. -/
structure BankConflict where
  bank   : Nat
  winner : Nat
  loser  : Nat
  deriving DecidableEq, Repr

/-- What a code check found in one word or sector of an access (R96, R102). -/
inductive EccKind where
  | corrected
  | uncorrected
  deriving DecidableEq, Repr

/-- A word (8 bytes, SRAM) or sector (64 bytes, HBM) of the access, counted from its first, in which the
code check found an error. -/
structure EccHit where
  index : Nat
  kind  : EccKind
  deriving DecidableEq, Repr

/-- A copy of a slot as a consumer receives it: block, issuing sequencer and stamped SEQ (R86); whether it is
VEC1, the second slot for its consumer (R75); the bank conflicts its accesses met (R89); and what the code check
found in the four words of the descriptor it reads, if any. -/
structure Issue where
  block : Nat
  copy  : SeqId
  seq   : Nat
  second : Bool
  conflicts : List BankConflict
  desc  : List EccHit
  deriving DecidableEq, Repr

/-- A cell store in which a code check found an error (event 0x1001, R330): 0 weight, 1 scale, 2 operand. -/
structure CellEcc where
  store : Nat
  addr  : Nat
  kind  : EccKind
  deriving DecidableEq, Repr

/-- A fault that changed an element of a product tile: exclusive or of its word. -/
structure TileFlip where
  m    : Nat
  n    : Nat
  mask : Word
  deriving DecidableEq, Repr

/-- A fault that changed a predicted sum: a row or a column sum, exclusive or of its word. -/
structure SumFlip where
  row   : Bool
  index : Nat
  mask  : Word
  deriving DecidableEq, Repr

/-- The faults that strike one MUL: on the cell's tile and sums and, in a repeat, on those of CS. -/
structure MulFaults where
  ecc    : List CellEcc
  tile   : List TileFlip
  sums   : List SumFlip
  csTile : List TileFlip
  csSums : List SumFlip
  deriving DecidableEq, Repr

/-- The packet header of R149, `resv` its reserved bits, and the packet's data. -/
structure Packet where
  offset : Nat
  dst    : Nat
  src    : Nat
  vc     : Nat
  kind   : Nat
  len    : Nat
  dlen   : Nat
  epoch  : Nat
  detour : Bool
  hops   : Nat
  birth  : Nat
  eseq   : Nat
  incarn : Nat
  syn    : Bool
  dtag   : Nat
  spart  : Nat
  tgen   : Nat
  func   : Nat
  rid    : Nat
  sched  : Nat
  poison : Bool
  loc    : Bool
  resv   : Nat
  data   : List Byte
  deriving DecidableEq, Repr

/-- What a unit hands to the router to inject (R151, R166); the router stamps the rest. `target` is the
domain-relative chip number of the request's address, or a fabric chip number when `fabric` is set; `mover` is
the host command it serves; `ecc` what the code check found in the words that a read of this chip's own memory takes. -/
structure Inject where
  fabric : Bool
  target : Nat
  offset : Nat
  vc     : Nat
  kind   : Nat
  dtag   : Nat
  spart  : Nat
  tgen   : Nat
  func   : Nat
  rid    : Nat
  sched  : Nat
  poison : Bool
  loc    : Bool
  mover  : Option Nat
  ecc    : List EccHit
  data   : List Byte
  deriving DecidableEq, Repr

/-- The flit tag of R148. -/
structure FlitTag where
  vc    : Nat
  first : Bool
  last  : Bool
  index : Nat
  resv  : Nat
  deriving DecidableEq, Repr

/-- The body of a HELLO (R129); the lane states are those of the sender's receive lanes, `relit` the sender's transmit
wavelengths that a new laser module has returned since the last training (R132). -/
structure Hello where
  chip     : Nat
  port     : Nat
  gen      : Nat
  expected : Nat
  depth    : Nat
  lanes    : List Nat
  relit    : List Nat
  deriving DecidableEq, Repr

/-- One lane move: the leaving lane and the spare that takes its logical lane (R132). -/
structure LaneMove where
  lane  : Nat
  spare : Nat
  deriving DecidableEq, Repr

/-- Link control payloads (R129, R132, R133, R156, R160). -/
inductive LinkCtl where
  | hello (h : Hello)
  | spareReq (moves : List LaneMove)
  | spareOffer (lane cause : Nat)
  | spareGo (moves : List LaneMove)
  | pause (mask time : Nat)
  | creditSync (freed : List Nat)
  | depth (d : Nat)
  deriving DecidableEq, Repr

/-- The payload of a flit (R123): the 240 bytes of a DATA flit, link control, or zeros. -/
inductive Payload where
  | empty
  | data (bytes : List Byte)
  | ctl (c : LinkCtl)
  deriving DecidableEq, Repr

/-- A Guluem flit (R123): its header, `resv` the reserved bits, its payload and its last eight bytes. -/
structure Flit where
  type    : Nat
  seq     : Nat
  ack     : Nat
  ackv    : Bool
  crvc    : Nat
  crcnt   : Nat
  resv    : Nat
  payload : Payload
  crc     : Nat
  deriving DecidableEq, Repr

/-- A sequenced flit as it arrives, with what the code check found in the words that a read of this chip's memory takes which the
flit completes. -/
structure FlitArrival where
  flit : Flit
  ecc  : List EccHit
  deriving DecidableEq, Repr

/-- How a packet arrived: the tag words of its flits (R148); and what the code check found in the words that a read it asks for
takes. -/
structure Arrival where
  tags : List Nat
  ecc  : List EccHit
  deriving DecidableEq, Repr

/-- A SPARE_OFFER: the lane and the cause of R131. -/
structure Offer where
  lane  : Nat
  cause : Nat
  deriving DecidableEq, Repr

/-- Why a flit is lost (R125): its CRC or a reserved type, or an uncorrectable codeword, `first` where it is the first flit lost
with that codeword. -/
inductive FlitFail where
  | crc
  | codeword (first : Bool)
  deriving DecidableEq, Repr

/-- The header of a Clover message (R270). -/
structure ClvHdr where
  dtag   : Nat
  part   : Nat
  srole  : Nat
  sseq   : Nat
  sender : Nat
  tray   : Nat
  deriving DecidableEq, Repr

/-- The body of a HEARTBEAT (R272). -/
structure Heartbeat where
  alive   : Nat
  boot    : Nat
  traypos : Nat
  bootmode : Nat
  nbrUp   : Nat
  state   : Nat
  arbA    : Nat
  arbB    : Nat
  step    : Nat
  deriving DecidableEq, Repr

/-- The body of a REPORT (R271). -/
structure Report where
  subject : Nat
  alive   : Nat
  cause   : Nat
  port    : Nat
  deriving DecidableEq, Repr

/-- The body of a FAULT_NOTICE (R278). -/
structure Notice where
  subject   : Nat
  sboot     : Nat
  cause     : Nat
  reporters : Nat
  step      : Nat
  dsec      : Nat
  dns       : Nat
  arbiter   : Nat
  deriving DecidableEq, Repr

/-- The body of a VOTE (R282). -/
structure Vote where
  step    : Nat
  run     : Nat
  outcome : Nat
  flags   : Nat
  count   : Nat
  digest  : Nat
  rank    : Nat
  deriving DecidableEq, Repr

/-- The body of a COMMIT (R283). -/
structure Commit where
  step    : Nat
  run     : Nat
  outcome : Nat
  flags   : Nat
  target  : Nat
  prot    : Nat
  t0sec   : Nat
  t0ns    : Nat
  deriving DecidableEq, Repr

/-- The body of a READY (R284). -/
structure ReadyMsg where
  step     : Nat
  run      : Nat
  withdraw : Bool
  count    : Nat
  digest   : Nat
  startSec : Nat
  startNs  : Nat
  deriving DecidableEq, Repr

/-- The body of a ROLLED (R271). -/
structure RolledMsg where
  target : Nat
  gen    : Nat
  count  : Nat
  deriving DecidableEq, Repr

/-- The body of a RESUME (R271). -/
structure ResumeMsg where
  step  : Nat
  run   : Nat
  t0sec : Nat
  t0ns  : Nat
  deriving DecidableEq, Repr

/-- An ODAP frame as received or sent (R366). -/
structure Frame where
  srcMac  : Nat
  dstMac  : Nat
  ver     : Nat
  type    : Nat
  flags   : Nat
  role    : Nat
  srole   : Nat
  session : Nat
  sseq    : Nat
  dstPos  : Nat
  resv    : Nat := 0
  seq     : Nat
  tray    : Nat
  len     : Nat
  payload : List Byte
  tag     : List Byte
  deriving DecidableEq, Repr

/-- A memory request at a block or an HBM controller (R109). `part` is the requester's partition; `tag`
the domain tag of a remote source; `raw` a requester that may address the chip's own offsets. -/
structure MemReq where
  role   : Role
  part   : Nat
  func   : Nat
  remote : Bool
  tag    : Nat
  raw    : Bool
  planned : Bool
  unit   : Nat
  write  : Bool
  offset : Nat
  len    : Nat
  data   : List Byte
  poison : Bool
  ecc    : List EccHit
  deriving DecidableEq, Repr

/-- What a gatekeeper sees of a request (R317). -/
structure GkReq where
  unit   : Nat
  posted : Bool
  tgen   : Nat
  requester : Nat
  rid    : Nat
  deriving DecidableEq, Repr

/-- Where a planned delivery comes from (R82, R85). -/
inductive Delivery where
  | mover (block channel : Nat)
  | remote (block counter offset : Nat) (data : List Byte) (poison : Bool)
  | coll (part entry : Nat)
  deriving DecidableEq, Repr

/-- What zeroing clears: a block or a slice (R112). -/
inductive ZeroUnit where
  | block (b : Nat)
  | slice (n : Nat)
  deriving DecidableEq, Repr

/-- What identification of a laser module read (R140, R141). -/
structure ModuleInfo where
  vendor   : List Byte
  partNo   : List Byte
  serial   : List Byte
  pagesOk  : Bool
  lasersOk : Bool
  record   : List Byte
  deriving DecidableEq, Repr

/-- One wavelength's monitor reading: bias in units of 10 µA as in BOL, output power in µW, and the module's flags where the power
is below its low alarm (R131, R141, R143). -/
structure LaserSample where
  wave  : Nat
  bias  : Nat
  power : Nat
  low   : Option Nat
  deriving DecidableEq, Repr

/-- A read of a module's monitors (R140): the one of every second, or one on an interrupt. -/
structure Monitor where
  second  : Bool
  samples : List LaserSample
  deriving DecidableEq, Repr

/-- What the image of a boot slot check found (R306): each check passed or not. -/
structure BootCheck where
  crcOk  : Bool
  sigOk  : Bool
  version : Nat
  deriving DecidableEq, Repr

/-- What ended a bring-up stage (R305): its duration and what the stage's tests found: in stage 1 the strap's next reading
and the lists of the repair area whose CRC fails (R304), in stage 2 the checks of the image slots and the flash sectors
without a valid header, each with whether it is blank (R308), in stage 4 the stacks that failed with stage and channel. -/
structure StageEnd where
  durationMs : Nat
  badLists : List Nat
  ok       : Bool
  strapAdc : Nat
  unit     : Nat
  slotA    : BootCheck
  slotB    : BootCheck
  badSectors : List (Nat × Bool)
  stackFail : List (Nat × Nat × Nat)
  stewardHeard : Bool
  deriving DecidableEq, Repr

/-- A Ledger record before it is stored: code, source, data bytes and the LAYER and OPERATOR of a host
command that caused it (R325, R327). -/
structure Event where
  code   : Nat
  source : Nat
  data   : List Byte
  layer  : Option (Nat × Nat)
  deriving DecidableEq, Repr

/-- What address translation did for a command's host addresses (R176, R181): off for the function, done, or failed
at an address. -/
inductive Ats where
  | off
  | ok
  | fail (addr : Nat)
  deriving DecidableEq, Repr

/-- Where a host access to a function goes (R176, R177): an offset of one of its BARs, or a field of its configuration space: the
power state (0 D0, 3 D3hot), ATS Enable, and, of the physical function, the log2 of a virtual function's BAR2 size. -/
inductive HostAddr where
  | bar0 (off : Nat)
  | bar2 (off : Nat)
  | bar4 (off : Nat)
  | power
  | ats
  | vfBar2
  deriving DecidableEq, Repr

/-- What a read that clears names (R7): an entry's instance, or DB_ERR of a function's doorbell slot (R182). -/
inductive RcField where
  | entry (index sub inst : Nat)
  | dbErr (func queue : Nat)
  deriving DecidableEq, Repr

/-- A time message as it arrives (R204, R205): its port, the counter as the timestamp unit captured it, in units of 2^-16 ns, and
the message's bytes. -/
structure TimeMsg where
  port    : Nat
  capture : Int
  bytes   : List Byte
  deriving DecidableEq, Repr

/-- A page that Barrow reads to send it: the partition, and what the code check found in the page's sectors (R102). -/
structure PageRead where
  part : Nat
  ecc  : List EccHit
  deriving DecidableEq, Repr

/-- What a status reply says (R317): the status code (R189) and IN_RESET. -/
structure StatusBits where
  status  : Nat
  inReset : Bool
  deriving DecidableEq, Repr

/-- The content of a page: the bytes that are not 0 by their place, and the poisoned words (R266). -/
structure PageImage where
  bytes : List (Nat × Byte)
  bad   : List Nat
  deriving DecidableEq, Repr

/-- A buddy delta page on its way (R248, R260). -/
structure DeltaPage where
  srcChip : Nat
  srcPart : Nat
  gen     : Nat
  step    : Nat
  page    : Nat
  filling : Bool
  data    : PageImage
  deriving DecidableEq, Repr

/-- A buddy area header as the adopting spare reads it (R247, R262). -/
structure BuddyHeader where
  digest : Nat
  rank   : Nat
  step   : Nat
  pages  : Nat
  gen    : Nat
  deriving DecidableEq, Repr

/-- The reports an arbiter holds about a subject (R275, R277): who reported, the probe's tries, whether it has failed
and by which cause of R278, when the first report came, whether the arbiter is a substitute. -/
structure Inquiry where
  reporters : List Nat := []
  tries     : Nat := 0
  failed    : Bool := false
  cause     : Nat := 0
  sinceNs   : Int := 0
  probeNs   : Int := 0
  substitute : Bool := false
  deriving DecidableEq, Repr

/-- An ODAP session (R367, R368): its peer, the peer's place and the session's number; its role and keys; the client
nonce and the payload of its OPEN_ACK; L with the cached response and the CRC-32C of its request; the CRC-32C of the
request under way; whether it ends with that request; whether it is a steward's. -/
structure Session where
  peer    : Nat := 0
  peerNo  : Nat := 0
  number  : Nat := 0
  role    : Nat := 0
  l       : Nat := 0
  cached  : List Byte := []
  reqCrc  : Option Nat := none
  nonce   : List Byte := []
  key     : List Byte := []
  ack     : List Byte := []
  lastNs  : Int := 0
  running : Option Nat := none
  ending  : Bool := false
  steward : Bool := false
  deriving DecidableEq, Repr

/-- Who waits for the response to a relayed or forwarded request: a mailbox, a session's request, or the steward whose
relayed request this chip forwarded (its SSEQ and MAC). -/
inductive Asker where
  | mbox (key : Nat)
  | session (peer number seq : Nat)
  | relay (sseq mac : Nat)
  deriving DecidableEq, Repr

/-- A request relayed to a chip of the tray or forwarded over VC0 (R369, R373): its SSEQ or SEQ, the tray position or
fabric chip it goes to, the frame sent, who waits, and when it was sent. -/
structure Forward where
  key    : Nat
  target : Nat
  frame  : Frame
  asker  : Asker
  sentNs : Int := 0
  deriving DecidableEq, Repr

/-- The steward state that a copy carries (R287, R288): the next SSEQ, the sessions and the relays that wait, the pending
reports and probes, and the tray's health crossings of the cycle. -/
structure StewardState where
  sseq      : Nat
  sessions  : List Session
  relays    : List Forward
  inquiries : List (Nat × Inquiry)
  crossings : List (Nat × Nat)
  deriving DecidableEq, Repr

/-- A refresh command to a stack: whether it takes a reserved slot, and whether it is a refresh management command that the
stack requested (R101). -/
structure Refresh where
  reserved   : Bool := false
  management : Bool := false
  deriving DecidableEq, Repr

/-- The commands of the block, one per row of the table of operations. -/
inductive Instr where
  -- planned execution
  | segmentRelease (block : Nat)
  | streamFetch (block errA errB : Nat)
  | cellNop (i : Issue) (cell : Nat) (w : CellSlot)
  | ldw (i : Issue) (cell : Nat) (w : CellSlot) (ecc : List EccHit)
  | swap (i : Issue) (cell : Nat) (w : CellSlot)
  | lda (i : Issue) (cell : Nat) (w : CellSlot) (ecc : List EccHit)
  | mul (i : Issue) (cell : Nat) (w : CellSlot) (f : MulFaults)
  | sta (i : Issue) (cell : Nat) (w : CellSlot)
  | clra (i : Issue) (cell : Nat) (w : CellSlot)
  | vecNop (i : Issue) (w : VecSlot)
  | vld (i : Issue) (w : VecSlot) (ecc : List EccHit)
  | vst (i : Issue) (w : VecSlot)
  | gather (i : Issue) (w : VecSlot) (ecc : List EccHit)
  | scatter (i : Issue) (w : VecSlot)
  | scatterAdd (i : Issue) (w : VecSlot) (ecc : List EccHit)
  | bcast (i : Issue) (w : VecSlot)
  | add (i : Issue) (w : VecSlot)
  | sub (i : Issue) (w : VecSlot)
  | vecMul (i : Issue) (w : VecSlot)
  | fma (i : Issue) (w : VecSlot)
  | min (i : Issue) (w : VecSlot)
  | max (i : Issue) (w : VecSlot)
  | abs (i : Issue) (w : VecSlot)
  | neg (i : Issue) (w : VecSlot)
  | copysign (i : Issue) (w : VecSlot)
  | cmp (i : Issue) (w : VecSlot)
  | sel (i : Issue) (w : VecSlot)
  | iadd (i : Issue) (w : VecSlot)
  | isub (i : Issue) (w : VecSlot)
  | imul (i : Issue) (w : VecSlot)
  | shl (i : Issue) (w : VecSlot)
  | shr (i : Issue) (w : VecSlot)
  | and (i : Issue) (w : VecSlot)
  | or (i : Issue) (w : VecSlot)
  | xor (i : Issue) (w : VecSlot)
  | recip (i : Issue) (w : VecSlot)
  | sqrt (i : Issue) (w : VecSlot)
  | rsqrt (i : Issue) (w : VecSlot)
  | div (i : Issue) (w : VecSlot)
  | exp (i : Issue) (w : VecSlot)
  | exp2 (i : Issue) (w : VecSlot)
  | log (i : Issue) (w : VecSlot)
  | log2 (i : Issue) (w : VecSlot)
  | tanh (i : Issue) (w : VecSlot)
  | sigmoid (i : Issue) (w : VecSlot)
  | erf (i : Issue) (w : VecSlot)
  | sin (i : Issue) (w : VecSlot)
  | cos (i : Issue) (w : VecSlot)
  | cvt (i : Issue) (w : VecSlot)
  | cvtMx (i : Issue) (w : VecSlot)
  | rsum (i : Issue) (w : VecSlot)
  | rmax (i : Issue) (w : VecSlot)
  | rmin (i : Issue) (w : VecSlot)
  | argmax (i : Issue) (w : VecSlot)
  | argmin (i : Issue) (w : VecSlot)
  | mvNop (i : Issue) (channel : Nat) (w : MovSlot)
  | copy (i : Issue) (channel : Nat) (w : MovSlot) (ecc : List EccHit)
  | coll (i : Issue) (channel : Nat) (w : MovSlot) (ecc : List EccHit)
  | ctlNop (block : Nat) (w : MovSlot)
  | sync (block : Nat) (w : MovSlot)
  | stepEnd (block : Nat) (w : MovSlot)
  | loop (block : Nat) (w : MovSlot)
  | wait (block : Nat) (w : MovSlot)
  | finalize (i : Issue) (w : MovSlot)
  | dbase (block : Nat) (w : MovSlot)
  | arrivalDelivery (d : Delivery)
  | digestCompare (block maskA maskB : Nat)
  | yarrowVerdict (block : Nat)
  -- memory and partitions
  | sramEccWriteback (block word : Nat)
  | memoryRequest (r : MemReq)
  | journalCopy (part page : Nat)
  | hbmPatrolRead (stack sector : Nat) (ecc : Option EccKind) (last : Bool)
  | patrolOverrun (stack left : Nat)
  | hbmOdeccPoll (stack count : Nat)
  | zeroWatermarkPass (u : ZeroUnit) (mark : Nat)
  | zeroingComplete (u : ZeroUnit)
  | cmpPartOwner (who : Who) (inst value : Nat)
  | cmpPartTag (who : Who) (inst value : Nat)
  | cmpBlockPart (who : Who) (inst value : Nat)
  | memSlicePart (who : Who) (inst value : Nat)
  | memSliceUse (who : Who) (inst value : Nat)
  | memSliceHost (who : Who) (inst value : Nat)
  -- links and laser modules
  | fabPortAdmin (who : Who) (port value : Nat)
  | portFullRetrain (who : Who) (port : Nat)
  | portClearCounters (who : Who) (port : Nat)
  | fabLaneOutClr (who : Who) (inst value : Nat)
  | trainingAttemptFail (port stage lane : Nat) (noSignal : Bool)
  | portDownRetry (port : Nat)
  | hello (port : Nat) (h : Hello) (latency : Nat) (lanesPass : List Nat)
  | txSlot (port : Nat)
  | data (port : Nat) (a : FlitArrival)
  | nak (port : Nat) (f : Flit)
  | null (port : Nat) (f : Flit)
  | ackNullSend (port : Nat)
  | replayTimerExpiry (port : Nat)
  | laneWindowEnd (port : Nat) (counts : List (Nat × Nat))
  | lossOfLock (port : Nat) (lanes : List Nat)
  | spareReq (port : Nat) (moves : List LaneMove)
  | spareOffer (port : Nat) (o : Offer)
  | spareGo (port : Nat) (moves : List LaneMove)
  | fastRetrainResume (port : Nat)
  | widthReduction (port : Nat) (tx : Bool) (pass : List Nat)
  | creditSync (port : Nat) (freed : List Nat)
  | creditSyncSend (port : Nat)
  | pause (port mask time : Nat)
  | pauseSend (vc flits : Nat)
  | pauseExpiry (port vc : Nat)
  | clockUpstreamLoss (left : Bool)
  | fabClkUp (who : Who) (value : Nat)
  | moduleInsert (m : Nat)
  | moduleIdentified (m : Nat) (info : ModuleInfo)
  | moduleRemove (m : Nat)
  | laserMonitorRead (m : Nat) (r : Monitor)
  | laserFaultFlag (m wave flags : Nat)
  | laserHoursWrite (m : Nat)
  | bolWrite (m : Nat) (bias : List Nat)
  -- routing and flow control
  | packetInject (p : Inject)
  | packetRoute (port : Nat) (p : Packet) (a : Arrival)
  | packetEject (p : Packet) (ecc : List EccHit)
  | fabRtState (who : Who) (inst value : Nat)
  | fabEpochInj (who : Who) (value : Nat)
  | versionRetire (v : Nat)
  | portHoldExpiry (port : Nat)
  | e2eRetransmit (peer vc eseq : Nat)
  | e2eAckSend (peer vc : Nat)
  | windowAcknowledgement (peer vc cum : Nat) (bits : Word64) (resync : Bool) (incarn : Nat)
  | contextEvict (source : Bool) (peer vc : Nat)
  | shaperDecision (func : Nat)
  | fabShpRate (who : Who) (func value : Nat)
  | fabShpLevel (who : Who) (func : Nat) (value : Int)
  | fabDmap (who : Who) (inst value : Nat)
  | fabVc1Res (who : Who) (inst value : Nat)
  | collCombine (part entry chunk member : Nat) (data : List Byte) (poison : Bool)
  -- host interface
  | sqTailDb (func queue value : Nat)
  | cqHeadDb (func queue value : Nat)
  | queueEnable (func queue : Nat)
  | normalDisable (func queue : Nat)
  | forcedDisable (func queue : Nat)
  | queueContextWrite (func queue hi lo value : Nat)
  | sqFetch
  | nop (mover : Nat)
  | write (mover : Nat) (ats : Ats)
  | read (mover : Nat) (ats : Ats) (ecc : List EccHit)
  | hostCopy (mover : Nat) (ecc : List EccHit)
  | planLoad (mover : Nat) (ats : Ats)
  | planLoadChecksDone (part keep : Nat)
  | planRun (mover : Nat)
  | planStop (mover : Nat)
  | planUnload (mover : Nat)
  | fence (mover : Nat)
  | mark (mover : Nat)
  | hostMoverComplete (mover : Nat)
  | hostCmdTimeout (mover : Nat)
  | coalesceTimeout (queue : Nat)
  | functionNormalDisableAll (who : Who) (func : Nat)
  | functionForcedDisableAll (who : Who) (func : Nat)
  | functionReset (who : Who) (func : Nat)
  | functionLevelReset (func : Nat)
  | hotReset
  | vfEnableClear
  | hostFnQbase (who : Who) (func value : Nat)
  | hostFnQcount (who : Who) (func value : Nat)
  | windowAccess (func : Nat) (offset : HostAddr) (len : Nat) (write : Bool) (data : List Byte) (ecc : List EccHit)
  -- network time
  | timeIncr (who : Who) (value : Nat)
  | timeStepNs (who : Who) (value : Int)
  | offsetStepApply
  | timeMasterPort (who : Who) (value : Nat)
  | timeNowSec (who : Who)
  | syncSend
  | syncMessage (m : TimeMsg)
  | pdelayInitiate
  | pdelayReq (m : TimeMsg)
  | pdelayResp (m : TimeMsg)
  | syncLoss
  -- seal and rollback
  | sealVote (part : Nat)
  | deltaWaitExpiry (part : Nat)
  | vote (part child : Nat) (v : Vote)
  | commit (part : Nat) (c : Commit)
  | restoreComplete (part : Nat) (pages : List (Nat × PageImage))
  | rolled (part child : Nat) (m : RolledMsg)
  | rolledResend (part : Nat)
  | resume (part : Nat) (m : ResumeMsg)
  | ready (part child : Nat) (m : ReadyMsg)
  | deltaPageSend (r : PageRead)
  | deltaPageReceive (p : DeltaPage)
  | deltaPageAck (part step page : Nat) (filling refused : Bool)
  | fillingPageSend (r : PageRead)
  | mergeComplete (srcChip srcPart : Nat)
  | sealAdoptCmd (who : Who) (part : Nat) (h : BuddyHeader)
  | adoptionPullComplete (part : Nat) (pages : List (Nat × PageImage))
  | sealBuddy (who : Who) (part value : Nat)
  -- agreement and stewards
  | heartbeatSend
  | heartbeat (port : Nat) (h : ClvHdr) (b : Heartbeat)
  | neighbourMiss (port : Nat)
  | report (h : ClvHdr) (r : Report)
  | probeTimeout (subject : Nat)
  | probeAnswer (subject status : Nat) (auth : Bool)
  | reject (h : ClvHdr) (subject status : Nat)
  | arbWaitExpiry (subject : Nat)
  | faultNotice (port : Nat) (h : ClvHdr) (n : Notice)
  | stewardCycleEnd
  | stateCopy (complete crcOk swap : Bool) (copy : StewardState)
  | stateCopyMissing
  | clvStwCmd (who : Who) (value : Nat)
  -- reset, clocks and power
  | powerOn (adc : Nat)
  | porstnAssert (ns : Nat) (honour : Bool)
  | porstnHeld
  | porstnRelease (adc : Nat)
  | fccWatchdogExpiry
  | thermalTrip
  | thermalTripClear
  | warmReset (who : Who)
  | leaveRecoveryBoot (who : Who)
  | pcieFundamentalReset
  | rstDomCmd (who : Who) (unit value : Nat)
  | domainResetExit (unit : Nat) (fail : Option (Nat × Nat))
  | bringupStageEnd (e : StageEnd)
  | pwrGoodFall
  | pwrGoodTimeout
  | plannedTimerExpiry (unit operation : Nat)
  | gatekeeperRequest (r : GkReq)
  | statusReply (requester rid chip unit gen : Nat) (st : StatusBits)
  | replyReceive (requester rid chip unit gen : Nat) (data : List Byte) (poison : Bool)
  | rstImgData (who : Who) (bytes : List Byte)
  | imgErase (who : Who)
  | imgCheck (who : Who)
  | imgEraseDone
  | imgCheckDone (c : BootCheck)
  | droopStretch (ns windowNs : Nat)
  | powerCapOvershoot
  | pwrCapW (who : Who) (value : Nat)
  -- ledger and tally
  | ledgerRecord (e : Event)
  | ledgerQueueDrain
  | flashProgram (ok : Bool)
  | ldgFlushExpiry (ok : Bool)
  | flashEraseDone (sector : Nat) (ok : Bool)
  | ldgClear (who : Who) (value : Nat)
  | ldgOvr (who : Who) (slot value : Nat)
  | tallyStart (who : Who) (ch : Nat)
  | tallyStop (who : Who) (ch : Nat)
  | tallyClearLanes (who : Who) (ch : Nat)
  | tallyChunkRead (ch : Nat) (ecc : List EccHit)
  | tallyScanEnd (ch : Nat)
  | tallyPeriod (ch : Nat)
  | tlyLane (who : Who) (ch lane value : Nat)
  -- management
  | odapOpen (f : Frame)
  | odapClose (f : Frame)
  | sessionIdleTimeout (slot : Nat)
  | request (f : Frame)
  | relayReq (f : Frame)
  | relayResp (f : Frame)
  | relayTimeout (sseq : Nat)
  | probe (f : Frame)
  | status (f : Frame)
  | statusBroadcast
  | mboxGo (func box : Nat)
  | vc0MgmtRequest (h : ClvHdr) (f : Frame)
  | vc0MgmtResponse (h : ClvHdr) (f : Frame)
  | vc0MgmtTimeout (seq : Nat)
  | keyWrite (who : Who) (sub : Nat) (key : List Byte)
  | mgtKeyFabSel (who : Who) (value : Nat)
  | plcaBeaconLoss (lost : Bool)
  | registerWrite (who : Who) (index sub inst : Nat) (value : List Byte)
  -- observability
  | frzAt (who : Who) (value : Nat)
  | freezeFire
  | frzPodGo (who : Who)
  | trcFccMark (who : Who) (value : Nat)
  | traceRingDrain (region : Nat)
  | lifeSample (tempC vddMv powerW : Nat)
  | lifeSave
  | marginTestStart
  | marginStepDone (passed : Bool)
  -- rows the table adds at its end
  | timeCounterTick
  | flitCrcFailure (port : Nat) (fail : FlitFail)
  | fecAligned (port : Nat) (ok : Bool) (lanes : List Nat)
  | clockLockAcquired
  | pwrGoodRise
  | standbyPowerLoss
  | orderlyShutdown
  | policyClamp (cause : Nat) (clear : Bool)
  | powerCapHold (watts : Nat)
  | penaltyPointDecay (unit : Nat)
  | delayedRollbackStart (part : Nat)
  | pcieLinkUpOrDown (speed width : Nat) (flit : Bool)
  | aerUncorrectableError (func status : Nat)
  | atsInvalidation (func : Nat) (page : Nat)
  | vfEnableSet (numVfs : Nat)
  | perstRelease
  | rcRead (who : Who) (field : RcField)
  | hbmRefresh (stack : Nat) (kind : Refresh)
  deriving DecidableEq, Repr

end Sys2Proof
end

