-- ==== Sys2Proof/Decode.lean ====
section
/-! DEFINITION. The command a word spells. The table of operations gives no row any bits, so no word
spells a command. -/

namespace Sys2Proof

/-- The command whose bits, as the table of operations numbers them, are `w`: none, since the table gives
no row an encoding. -/
def decodeTableWord (_nbits _w : Nat) : Option Instr := none

end Sys2Proof
end

