-- ==== Sys2Proof/Config.lean ====
section
/-! DEFINITION. What one device fixes (fuses, identity, calibration) and the free values: results the manual
leaves open. None has a body, so nothing can be proved of a value. -/

namespace Sys2Proof.Config

open Sys2Proof

/-- Whether the device is a YV6128-18 (R2): its bin's clock limit is 1.8 GHz, else 1.5 GHz. -/
opaque bin18 : Bool

/-- ID_SERIAL (R376). -/
opaque serial : List Byte

/-- ID_EUI64 (R203). -/
opaque eui64 : Nat

/-- ID_MAC (R376). -/
opaque mac : Nat

/-- The fused rollback counter (R306). -/
opaque rollback : Nat

/-- The fused Vendor key (R371). -/
opaque vendorKey : List Byte

/-- TIME_CAL_TX_PS and TIME_CAL_RX_PS of a port (R205). -/
opaque calTx : Nat → Nat
opaque calRx : Nat → Nat

/-- The bits of an approximated vector function (R55) for an input: function code and operands. The manual
gives their accuracy and that they are the same on every device, not their values. -/
opaque approx : Nat → Word → Word → Word

/-- A place among the FP32 numbers within a function's ulp bound (R54). -/
opaque approxPlace : Nat → Word → Word → Nat

/-- The row of a sector of an HBM stack, and how many rows a stack's repair resources hold (R104): the manual
gives neither. -/
opaque hbmRow : Nat → Nat
opaque repairRows : Nat → Nat

/-- The fabric chip number of a position of the chip's tray (R274): the manual does not say how a chip knows
it. -/
opaque trayChip : Nat → Nat

/-- The MAC address of a position of the chip's tray (R369), and the identity of the tray that its bus gives (R270). -/
opaque trayMac : Nat → Nat
opaque trayId : Nat

/-- An integer shift by a negative count (R80): opcode, width, value and count. -/
opaque shiftNeg : Nat → Nat → Nat → Nat → Nat

/-- The lowest core voltage in mV that the monitors pass at a clock in kHz (R313): the measurement is the device's. -/
opaque avsMv : Nat → Nat

/-- An engine's counters at the n-th instant they are read or captured (R379): unit and counter. What the engines do in each
cycle is time, which the model leaves out. -/
opaque engineCount : Nat → Nat → Nat → Nat

/-- Word `k` of the n-th free value. -/
opaque freeWord : Nat → Nat → Word

/-- The n-th free value: a choice the manual leaves to the device. -/
opaque free : Nat → Nat

end Sys2Proof.Config
end

