-- ==== Sys2Proof/Machine/Bits.lean ====
section
/-! DEFINITION. Bit fields, little-endian bytes (R5), two's complement and small arithmetic. -/

namespace Sys2Proof.Machine

open Sys2Proof

/-- Bits `[lo + w - 1 : lo]` of a number. -/
def bits (n lo w : Nat) : Nat := n / 2 ^ lo % 2 ^ w

/-- Bit `k` of a number. -/
def bitOf (n k : Nat) : Bool := n / 2 ^ k % 2 == 1

/-- 1 or 0. -/
def b2n (b : Bool) : Nat := if b then 1 else 0

/-- A number with bits `[lo + w - 1 : lo]` replaced. -/
def setBits (n lo w v : Nat) : Nat :=
  n - bits n lo w * 2 ^ lo + (v % 2 ^ w) * 2 ^ lo

/-- The value of bytes, the first least significant (R5). -/
def leVal (bs : List Byte) : Nat :=
  match bs with
  | [] => 0
  | b :: r => b.toNat + 256 * leVal r

/-- `n` bytes of a number, the least significant first (R5). -/
def leBytes (n v : Nat) : List Byte :=
  match n with
  | 0 => []
  | n + 1 => BitVec.ofNat 8 (v % 256) :: leBytes n (v / 256)

/-- The value of bytes, the first most significant. -/
def beVal (bs : List Byte) : Nat := leVal bs.reverse

/-- `n` bytes of a number, the most significant first. -/
def beBytes (n v : Nat) : List Byte := (leBytes n v).reverse

/-- `w` bits of a byte string from offset `o`, little-endian. -/
def leField (bs : List Byte) (o n : Nat) : Nat := leVal ((bs.drop o).take n)

/-- `n` bytes of a string from an offset, zeros past its end. -/
def sliceZ (bs : List Byte) (o n : Nat) : List Byte :=
  let t := (bs.drop o).take n
  t ++ List.replicate (n - t.length) 0

/-- The two's complement value of the low `w` bits. -/
def toSigned (w n : Nat) : Int :=
  let m := n % 2 ^ w
  if 2 * m < 2 ^ w then (m : Int) else (m : Int) - (2 ^ w : Nat)

/-- The low `w` bits of an integer. -/
def ofSigned (w : Nat) (i : Int) : Nat := (i % (2 ^ w : Nat)).toNat

/-- `a / b` rounded up. -/
def ceilDiv (a b : Nat) : Nat := (a + (b - 1)) / b

/-- The least `k` with `n ≤ 2 ^ k`. -/
def ceilLog2 (n : Nat) : Nat := if n ≤ 1 then 0 else Nat.log2 (n - 1) + 1

/-- The bytes of ASCII text. -/
def ascii (t : String) : List Byte := t.toList.map fun c => BitVec.ofNat 8 c.toNat

/-- A list with its `k`th element replaced (unchanged past its end). -/
def setAt {α : Type} (l : List α) (k : Nat) (v : α) : List α :=
  match l, k with
  | [], _ => []
  | _ :: r, 0 => v :: r
  | x :: r, k + 1 => x :: setAt r k v

/-- The `k`th element, or a default past the end. -/
def getAt {α : Type} (d : α) (l : List α) (k : Nat) : α :=
  match l, k with
  | [], _ => d
  | x :: _, 0 => x
  | _ :: r, k + 1 => getAt d r k

/-- A number put in its place in a rising list. -/
def insNat (x : Nat) (l : List Nat) : List Nat :=
  match l with
  | [] => [x]
  | y :: r => if x ≤ y then x :: y :: r else y :: insNat x r

/-- A list of numbers sorted. -/
def sortNat (l : List Nat) : List Nat := l.foldr insNat []

/-- A list with an element added at its end unless it is there. -/
def addNew {α : Type} [DecidableEq α] (l : List α) (x : α) : List α := if x ∈ l then l else l ++ [x]

/-- How many bits of the low `w` are set. -/
def popcount (w n : Nat) : Nat :=
  match w with
  | 0 => 0
  | w + 1 => n % 2 + popcount w (n / 2)

/-- Exclusive or of two numbers. -/
def xorN (a b : Nat) : Nat := a ^^^ b

/-- Seconds completed from their low 32 bits to the instant nearest a chip's own time (R384). -/
def nearSec (own low : Nat) : Nat :=
  let lo := low % 2 ^ 32
  let base := own / 2 ^ 32 * 2 ^ 32 + lo
  if own + 2 ^ 31 < base ∧ 2 ^ 32 ≤ base then base - 2 ^ 32
  else if base + 2 ^ 31 < own then base + 2 ^ 32
  else base

end Sys2Proof.Machine
end

