-- ==== Sys2Proof/Machine/Crc.lean ====
section
/-! DEFINITION. Cyclic redundancy checks: CRC-64/XZ, CRC-32C, CRC-32 and CRC-24/OPENPGP. -/

namespace Sys2Proof.Machine

open Sys2Proof

/-- `n` shifts of a reflected register. -/
def crcRefBits (poly n c : Nat) : Nat :=
  match n with
  | 0 => c
  | n + 1 => crcRefBits poly n (if c % 2 = 1 then (c / 2) ^^^ poly else c / 2)

/-- A reflected CRC register after bytes. -/
def crcRef (poly : Nat) (c : Nat) (bs : List Byte) : Nat :=
  match bs with
  | [] => c
  | b :: r => crcRef poly (crcRefBits poly 8 (c ^^^ b.toNat)) r

/-- `n` shifts of a register of `w` bits that is not reflected. -/
def crcFwdBits (w poly n c : Nat) : Nat :=
  match n with
  | 0 => c
  | n + 1 =>
    crcFwdBits w poly n (if c / 2 ^ (w - 1) = 1 then (2 * c % 2 ^ w) ^^^ poly else 2 * c % 2 ^ w)

/-- A CRC register that is not reflected after bytes. -/
def crcFwd (w poly : Nat) (c : Nat) (bs : List Byte) : Nat :=
  match bs with
  | [] => c
  | b :: r => crcFwd w poly (crcFwdBits w poly 8 (c ^^^ (b.toNat * 2 ^ (w - 8)))) r

/-- All ones of `w` bits. -/
def ones (w : Nat) : Nat := 2 ^ w - 1

/-- The reflected polynomials of CRC-64/XZ, CRC-32C and CRC-32. -/
def polyXz : Nat := 0xC96C5795D7870F42
def polyC : Nat := 0x82F63B78
def poly32 : Nat := 0xEDB88320

/-- CRC-64/XZ of a byte string. -/
def crc64 (bs : List Byte) : Nat := crcRef polyXz (ones 64) bs ^^^ ones 64

/-- CRC-64/XZ of a string followed by more bytes, from the CRC of the string; 0 is that of the empty one. -/
def crc64Add (c : Nat) (bs : List Byte) : Nat := crcRef polyXz (c ^^^ ones 64) bs ^^^ ones 64

/-- CRC-32C of a byte string. -/
def crc32c (bs : List Byte) : Nat := crcRef polyC (ones 32) bs ^^^ ones 32

/-- CRC-24/OPENPGP of a byte string. -/
def crc24 (bs : List Byte) : Nat := crcFwd 24 0x864CFB 0xB704CE bs

end Sys2Proof.Machine
end

