-- ==== Sys2Proof/Machine/State.lean ====
section
/-! DEFINITION. The state of the block: every register, buffer, queue, counter, mode and pin the manual
gives the device, as plain data, and the queue of the commands that wait. Sparse tables list only the
entries that differ from a default; the default of each stands beside the operation that reads it. The
dictionary's entries (R350) are held by their number, `Machine/Registers.lean`. -/

namespace Sys2Proof.Machine

open Sys2Proof

/-- A sparse table: strictly rising keys, no entry equal to the table's default. -/
abbrev Map (α : Type) := List (Nat × α)

/-! ### Blocks -/

/-- A tile slot of a weight store with its scale slot (R37): the format it holds, none when empty (R44). -/
structure TileSlot where
  fmt    : Option Nat := none
  weight : List Byte := []
  scale  : List Byte := []
  poison : Bool := false
  deriving DecidableEq, Repr

/-- One word of an accumulator file (R38): its bits, whether the last MUL that wrote it was INT32, its
overflow mark (R42) and its poison mark (R17). -/
structure AccWord where
  bits   : Word := 0
  int    : Bool := false
  ovf    : Bool := false
  poison : Bool := false
  deriving DecidableEq, Repr

/-- One line of an operand buffer with its scale field (R38), each with its poison mark. -/
structure OpLine where
  bytes  : List Byte := []
  scale  : List Byte := []
  poison : Bool := false
  scalePoison : Bool := false
  deriving DecidableEq, Repr

/-- A cell: its own active and shadow slots, accumulators and operand buffer (R37, R38). -/
structure Cell where
  active : TileSlot := {}
  shadow : TileSlot := {}
  acc    : Map AccWord := []
  buf    : Map OpLine := []
  deriving DecidableEq, Repr

/-- A vector register: 1,024 lanes (R80) and the lanes that carry a poison mark. -/
structure VReg where
  lanes  : List Word := []
  poison : List Nat := []
  deriving DecidableEq, Repr

/-- A sequencer's report at SYNC or STEP_END (R87): the segment, its digest of it, and whether a consumer had taken its copy
since the segment's release (R88). -/
structure SeqReport where
  segment : Nat := 0
  digest  : Nat := 0
  took    : Bool := false
  deriving DecidableEq, Repr

/-- A bundle in a stream buffer: its segment, its number in the segment's stream, its bytes. -/
structure Fetched where
  segment : Nat := 0
  number  : Nat := 0
  bytes   : List Byte := []
  deriving DecidableEq, Repr

/-- A sequencer: the digest of the segment under way as formed so far, the report that waits for its comparison (R87), its
stream buffer (R78), and the segment and number of the bundle it fetches next. -/
structure Sequencer where
  digest : Nat := 0
  report : Option SeqReport := none
  buffer : List Fetched := []
  nextSeg : Nat := 0
  nextNo : Nat := 0
  deriving DecidableEq, Repr

/-- A consumer's expected number, whose copies it accepted since the release, the copy it accepted last, and whether it took
the second slot of that bundle, which only the vector unit has (R75, R86). -/
structure Consumer where
  expected : Nat := 0
  tookA : Bool := false
  tookB : Bool := false
  last : Option (SeqId × Nat) := none
  both : Bool := false
  deriving DecidableEq, Repr

/-- One level of a loop in progress (R83): first bundle, body length, passes left. -/
structure LoopLevel where
  first : Nat := 0
  body  : Nat := 0
  left  : Nat := 0
  deriving DecidableEq, Repr

/-- A transfer of a mover channel (R81, R82): the counter and block it reports to, its destination and its data,
in runs with and without poison; whether it has been written and waits for the journal copies of its pages (R244). -/
structure Transfer where
  counter : Nat := 0
  toBlock : Nat := 0
  dst     : Nat := 0
  runs    : List (List Byte × Bool) := []
  desc    : Nat := 0
  seq     : Nat := 0
  landing : Bool := false
  deriving DecidableEq, Repr

/-- A product tile with the sums of its checksum row and column (R50). -/
structure Tile where
  p  : List Word := []
  pr : List Word := []
  pc : List Word := []
  sr : List Word := []
  sc : List Word := []
  deriving DecidableEq, Repr

/-- A tile awaiting its verdict (R226): its shape, pairing, list entry, step, run, and in a repeat the
tile of CS (R230). -/
structure PendingTile where
  cell  : Nat := 0
  entry : Nat := 0
  step  : Nat := 0
  run   : Nat := 0
  wfmt  : Nat := 0
  afmt  : Nat := 0
  mRows : Nat := 0
  nCols : Nat := 0
  kDim  : Nat := 0
  tile  : Tile := {}
  rep   : Bool := false
  cs    : Option Tile := none
  deriving DecidableEq, Repr

/-- An entry of the repeat list (R229), with the count of inconsistent repeats (R231). -/
structure RepeatEntry where
  step    : Nat := 0
  entry   : Nat := 0
  cell    : Nat := 0
  digestA : Nat := 0
  incons  : Nat := 0
  deriving DecidableEq, Repr

/-- A trace record (R387). -/
structure TraceRec where
  seq      : Nat := 0
  operator : Nat := 0
  layer    : Nat := 0
  unit     : Nat := 0
  isEnd    : Bool := false
  time     : Nat := 0
  deriving DecidableEq, Repr

/-- A block (R8): cells C0 to C3 and CS, the slots CS mirrors, vector registers, arrival counters, the
sequencer pair, mover channels, checker and plan progress. `nonFinite` is what the checker's last verdict reports (R52). -/
structure Block where
  cells    : Map Cell := []
  csActive : Map TileSlot := []
  csShadow : Map TileSlot := []
  vregs    : Map VReg := []
  arrivals : Map Nat := []
  dbase    : Nat := 0
  seqA     : Sequencer := {}
  seqB     : Sequencer := {}
  pc       : Nat := 0
  loops    : List LoopLevel := []
  seqNo    : Nat := 0
  consumers : Map Consumer := []
  segment  : Nat := 0
  released : Bool := false
  syncDone : Bool := false
  ended    : Bool := false
  waiting  : Option (Nat × Nat) := none
  releaseNs : Int := 0
  movers   : Map (List Transfer) := []
  chkNext  : Nat := 0
  verdicts : List PendingTile := []
  repeats  : List RepeatEntry := []
  overflow : List RepeatEntry := []
  norms    : Map Nat := []
  sealedNorms : Map Nat := []
  falseAlarms : Map Nat := []
  settled  : List RepeatEntry := []
  streamFaults : Nat := 0
  nonFinite : List Nat := []
  trace    : List TraceRec := []
  noIssue  : Bool := false
  deriving DecidableEq, Repr

/-! ### Partitions -/

/-- The causes of a REFUSE vote (R252), as event 0xA002 codes them (R413). -/
structure Verdict where
  check    : Bool := false
  poison   : Bool := false
  slip     : Bool := false
  planErr  : Bool := false
  notice   : Bool := false
  deriving DecidableEq, Repr

/-- A write held until its page's journal copy completes (R244), or kept beside a journal entry (R257). -/
structure HeldWrite where
  page   : Nat := 0
  addr   : Nat := 0
  data   : List Byte := []
  poison : Bool := false
  deriving DecidableEq, Repr

/-- One page of a journal segment (R244): the view page and the journal page that holds its copy; the writes made to the
page between steps since, which no rollback undoes (R257). -/
structure JournalEntry where
  page  : Nat := 0
  jpage : Nat := 0
  later : List HeldWrite := []
  deriving DecidableEq, Repr

/-- A journal segment: the first writes of one step (R244). -/
structure JournalSeg where
  step    : Nat := 0
  entries : List JournalEntry := []
  deriving DecidableEq, Repr

/-- A partition (R107): its plan; its run (R187): the fetched command that a seal completes, its steps and start
instant, and the status it ends with; the replays of each step that a slip caused (R74); the READYs of the children with how many ranks this chip has reported; the votes,
the verdict and what refuses the seal; the journal and the writes it holds; the pages written in the step, between
steps, and those of them in the delta under way; the pages final, sent early, to send and not yet acknowledged; the
progress of Filling; how many runs and executions of steps it has begun; the rollback under way: the step it replays, whether memory is restored, whether from the buddy,
whether the domain then halts. -/
structure Part where
  staged   : List Byte := []
  stagedBy : Option Nat := none
  image    : List Byte := []
  run      : Option Nat := none
  runNo    : Nat := 0
  execNo   : Nat := 0
  limit    : Nat := 0
  startSec : Nat := 0
  startNs  : Nat := 0
  seals    : Nat := 0
  runStatus : Nat := 0
  t0       : Option (Nat × Nat) := none
  runGen   : Nat := 0
  readyOwn : Bool := false
  readyUp  : Nat := 0
  readyFrom : List (Nat × ReadyMsg) := []
  readyBad : List Nat := []
  resumed  : Bool := false
  stop     : Bool := false
  haltSlip : Bool := false
  haltAlarm : Bool := false
  tries    : Map Nat := []
  verdict  : Verdict := {}
  ownVote  : Option Vote := none
  childVotes : List (Nat × Vote) := []
  deltaExpired : Bool := false
  lateVotes : Nat := 0
  journal  : List JournalSeg := []
  journalFull : Bool := false
  held     : List HeldWrite := []
  written  : List Nat := []
  between  : List Nat := []
  betweenSent : List Nat := []
  final    : List Nat := []
  early    : List Nat := []
  toSend   : List (Nat × Nat) := []
  unacked  : List (Nat × Nat) := []
  fillNext : Nat := 0
  fillUnacked : List Nat := []
  replay   : Option Nat := none
  restored : Bool := false
  fromBuddy : Bool := false
  haltAfter : Bool := false
  rolledFrom : List (Nat × RolledMsg) := []
  rollbacks : List Int := []
  rollbackNs : Int := 0
  delayed  : Option (Nat × Bool) := none
  adoptNs  : Int := 0
  adoptStep : Nat := 0
  adoptGen : Nat := 0
  deriving DecidableEq, Repr

/-- A buddy area hosted for a partition of another chip (R247): header, copy, stage and merge. -/
structure BuddyArea where
  srcChip : Nat := 0
  srcPart : Nat := 0
  digest  : Nat := 0
  rank    : Nat := 0
  step    : Nat := 0
  copy    : Map PageImage := []
  stage   : List DeltaPage := []
  merging : Option Nat := none
  deriving DecidableEq, Repr

/-! ### Memory subsystem -/

/-- An access held behind a zeroing watermark (R114), in issue order. -/
structure HeldAccess where
  unit : ZeroUnit
  pos  : Nat := 0
  req  : MemReq
  addr : Nat := 0
  sinceNs : Int := 0
  mover : Option Nat := none
  deriving DecidableEq, Repr

/-- One execution of a step: the partition, the number of its run, the step, and which of the executions of its steps it is. -/
structure ExecId where
  part : Nat := 0
  run  : Nat := 0
  step : Nat := 0
  no   : Nat := 0
  deriving DecidableEq, Repr

/-- Error history of a line or row (R99, R104): corrected errors with their instants in powered seconds,
and the execution in which the last uncorrected error occurred. -/
structure ErrHist where
  corrected : List Nat := []
  uncorr : Option ExecId := none
  deriving DecidableEq, Repr

/-- A remap of a line to a spare row (R99): block, line, spare row. -/
structure Remap where
  block : Nat := 0
  line  : Nat := 0
  spare : Nat := 0
  deriving DecidableEq, Repr

/-- Memory controllers, zeroing and the repair area (R99 to R116, R304); `refreshes` and `rfms` count a stack's refresh and refresh
management commands (R101). -/
structure MemSys where
  held     : List HeldAccess := []
  writeback : List (Nat × Nat) := []
  lineErr  : Map ErrHist := []
  rowErr   : Map ErrHist := []
  toRemap  : List (Nat × Nat × Nat) := []
  remaps   : List Remap := []
  repairs  : List (Nat × Nat) := []
  substs   : List (Nat × Nat) := []
  toSubst  : List (Nat × Nat × Nat) := []
  patrol   : Map Nat := []
  refreshes : Map Nat := []
  rfms     : Map Nat := []
  selfRefresh : Bool := false
  deriving DecidableEq, Repr

/-! ### Fabric -/

/-- How a port in Training trains (R128). -/
inductive TrainKind where
  | bringup
  | full
  | width
  deriving DecidableEq, Repr

/-- A fast retrain of one direction (R133): whether SPARE_GO has passed, the moves, since when it runs. -/
structure FastRetrain where
  gone  : Bool := false
  moves : List LaneMove := []
  sinceNs : Int := 0
  deriving DecidableEq, Repr

/-- A packet waiting for a port (R153, R168): the packet, the port it came in by (7 for this chip) and the credit class it was
sent here under (R155); how many of its flits are displaced from their VC1 slots (R154); whether it is a copy of a multicast
packet on one of its branches (R169). -/
structure QPacket where
  pkt : Packet
  inPort : Nat := 7
  cls : Nat := 0
  displaced : Nat := 0
  branch : Bool := false
  deriving DecidableEq, Repr

/-- A packet being sent or received, flit by flit, on one virtual channel (R147); of one received, whether it has been dropped and
the rest of its flits is to be discarded (R150). -/
structure Partial where
  q    : QPacket
  next : Nat := 0
  dead : Bool := false
  deriving DecidableEq, Repr

/-- A flit in a retry buffer (R125): the flit, the packet it belongs to, and the partition in whose slots it was sent (R153). -/
structure Sent where
  flit : Flit
  pkt  : Option Packet := none
  planned : Option Nat := none
  deriving DecidableEq, Repr

/-- A port: link layer, training, lanes, credits, queues (R119 to R168). -/
structure Port where
  txNext   : Nat := 0
  txOldest : Nat := 0
  retry    : List Sent := []
  resend   : Nat := 0
  rewindSeq : Nat := 0
  rewinds  : Nat := 0
  rxExpected : Nat := 0
  naked    : Bool := false
  nakNs    : Int := 0
  nakDue   : Bool := false
  timerNs  : Int := 0
  unackedRx : Nat := 0
  train    : Option TrainKind := none
  attempts : Nat := 0
  fecUp    : Bool := false
  helloSent : Bool := false
  partner  : Option Hello := none
  clockDepth : Nat := 0
  txLanes  : Map Nat := []
  txRoles  : Map Nat := []
  txCause  : Map Nat := []
  relit    : List Nat := []
  outClr   : List Nat := []
  pendingMoves : List (Nat × Nat) := []
  pendingOffers : List (Nat × Nat) := []
  fastTx   : Option FastRetrain := none
  fastRx   : Option FastRetrain := none
  fullAfter : Bool := false
  sent     : Map Nat := []
  freed    : Map Nat := []
  rxFlits  : Nat := 0
  owed     : Map Nat := []
  txq      : Map (List QPacket) := []
  cur      : Map Partial := []
  rx       : Map Partial := []
  ctlq     : List LinkCtl := []
  slot     : Nat := 0
  pauseLeft : Map Nat := []
  vc0Used  : List Bool := []
  vc4Used  : List Bool := []
  vc3Turn  : Nat := 0
  downNs   : Option Int := none
  retryNs  : Int := 0
  holdDone : Bool := false
  restarts : Nat := 0
  deriving DecidableEq, Repr

/-- A laser module (R140 to R144). -/
structure Laser where
  record  : List Byte := []
  blank   : Bool := false
  lasingS : Nat := 0
  writtenH : Nat := 0
  lostWaves : List Nat := []
  lastSerial : List Byte := []
  removedLasing : Bool := false
  advised : List Nat := []
  deriving DecidableEq, Repr

/-- A packet that waits to be sent (R157, R161): whether it is sent as it stands, out of its window; and the domain-relative
number of its destination, where it has one, which the map of the version then Active turns into a chip (R162, R166). -/
structure Waiting where
  pkt   : Packet
  again : Bool := false
  rel   : Option Nat := none
  deriving DecidableEq, Repr

/-- A packet sent and not yet acknowledged (R157): its ESEQ, how often it has been resent and when it was last sent. -/
structure Unacked where
  eseq   : Nat
  pkt    : Packet
  tries  : Nat := 0
  sentNs : Int := 0
  deriving DecidableEq, Repr

/-- A source window context for one peer and virtual channel (R157, R158). -/
structure SrcCtx where
  incarn  : Nat := 0
  acked   : Bool := false
  next    : Nat := 0
  pending : List Unacked := []
  waiting : List Waiting := []
  createdMs : Nat := 0
  lastNs  : Int := 0
  deriving DecidableEq, Repr

/-- A receive window context (R157, R158). -/
structure RcvCtx where
  incarn   : Nat := 0
  expected : Nat := 0
  above    : List Nat := []
  sinceAck : Nat := 0
  lastNs   : Int := 0
  deriving DecidableEq, Repr

/-- A shaper's last refill instant and its function's injection queue (R161). -/
structure Shaper where
  lastNs : Int := 0
  queue  : List Waiting := []
  deriving DecidableEq, Repr

/-- A chunk that reached a collective (R171): chunk, member it came from, data, poison. -/
structure CollIn where
  chunk  : Nat := 0
  member : Nat := 0
  data   : List Byte := []
  poison : Bool := false
  deriving DecidableEq, Repr

/-- A collective of this chip (R171, R172): the entry of its partition's schedule, the block and counter that COLL
names once it has started, the chip's own operand in runs with and without poison, what has arrived, the finished chunks and
which of them are poisoned. -/
structure CollOp where
  part     : Nat := 0
  entry    : Nat := 0
  started  : Bool := false
  block    : Nat := 0
  counter  : Nat := 0
  seq      : Nat := 0
  own      : List (List Byte × Bool) := []
  arrived  : List CollIn := []
  results  : Map (List Byte) := []
  poisoned : List Nat := []
  deriving DecidableEq, Repr

/-- The router beyond its ports (R155 to R172): `chipId` is the chip number that the last training took (R174), `noCtx` the packets
that wait for a source context (R157), `reads` the read requests that wait for room for their replies (R159). -/
structure Router where
  drainNs  : Map Int := []
  src      : Map SrcCtx := []
  rcv      : Map RcvCtx := []
  shapers  : Map Shaper := []
  colls    : List CollOp := []
  ejectQ   : Map Nat := []
  pausedOn : Map Bool := []
  clkPort  : Option Nat := none
  chipId   : Nat := 0
  noCtx    : List Waiting := []
  reads    : List Inject := []
  deriving DecidableEq, Repr

/-! ### Host interface -/

/-- Queue states (R181). -/
inductive QState where
  | disabled
  | enabled
  | draining
  | zeroing
  deriving DecidableEq, Repr

/-- A queue context (R181) with its doorbell slot's DB_ERR (R182), phase (R188) and the coalescing count
of R191, with the instant of the first completion that waits. -/
structure QCtx where
  sqBase   : Nat := 0
  cqBase   : Nat := 0
  sqLog2   : Nat := 0
  cqLog2   : Nat := 0
  vector   : Nat := 0
  state    : QState := .disabled
  weight   : Nat := 1
  sqHead   : Nat := 0
  sqTail   : Nat := 0
  cqHead   : Nat := 0
  cqTail   : Nat := 0
  coalCount : Nat := 0
  coalUs   : Nat := 0
  inflight : Nat := 0
  dbErr    : Nat := 0
  phase    : Bool := false
  unsignalled : Nat := 0
  firstNs  : Int := 0
  disabledCmds : Nat := 0
  deriving DecidableEq, Repr

/-- A submission entry (R184). -/
structure Cmd where
  opcode   : Nat := 0
  flags    : Nat := 0
  cid      : Nat := 0
  part     : Nat := 0
  layer    : Nat := 0
  operator : Nat := 0
  timeoutUs : Nat := 0
  hostAddr : Nat := 0
  devAddr  : Nat := 0
  len      : Nat := 0
  arg0     : Nat := 0
  arg1     : Nat := 0
  resv     : Bool := false
  deriving DecidableEq, Repr

/-- A fetched command (R183 to R190): its global queue, function, whether it has started, when its timer expires,
and its outcome when it has finished (status, reason, result). Of a command that moves data: how far it has come,
the piece it holds on its way, in runs with and without poison, and the offset of the first affected word. -/
structure Mover where
  queue   : Nat := 0
  func    : Nat := 0
  cmd     : Cmd := {}
  started : Bool := false
  deadline : Option Int := none
  next    : Nat := 0
  got     : Bool := false
  runs    : List (List Byte × Bool) := []
  bad     : Option Nat := none
  outcome : Option (Nat × Nat × Nat) := none
  deriving DecidableEq, Repr

/-- A mailbox (R364), and whether a function reset makes it Idle when its request completes. -/
structure Mbox where
  target : Nat := 0xFFFFFFFF
  len    : Nat := 0
  state  : Nat := 0
  rlen   : Nat := 0
  flags  : Nat := 0
  req    : List Byte := []
  rsp    : List Byte := []
  toIdle  : Bool := false
  deriving DecidableEq, Repr

/-- The host interface (R176 to R195): queue contexts in use by global number, fetched commands by fetch order, the
round robin of R183, host memory; the functions with ATS enabled, the translation cache with the invalidations that wait; the
MSI-X table's words, of which one not listed is masked, and the pending bits; mailboxes; the functions in D3hot, the log2 of the
virtual functions' BAR2 size (R176, R177); LAYER and OPERATOR of the command that is being carried out (R184). -/
structure HostIf where
  queues  : Map QCtx := []
  movers  : Map Mover := []
  order   : Nat := 0
  rrFunc  : Nat := 0
  rrQueue : Map Nat := []
  rrTurn  : Option (Nat × Nat) := none
  mem     : List Host.Cell := []
  atsOn   : List Nat := []
  atsCache : List (Nat × Nat) := []
  invs    : List (Nat × Nat) := []
  msixTable : Map Nat := []
  pba     : List (Nat × Nat) := []
  mboxes  : Map Mbox := []
  perst   : Bool := false
  d3hot   : List Nat := []
  vfBar2  : Nat := 39
  cause   : Option (Nat × Nat) := none
  deriving DecidableEq, Repr

/-! ### Network time -/

/-- A port's delay measurement (R207), in units of 2^-16 ns: the request under way, by its sequence number and departure. -/
structure Pdelay where
  seq  : Nat := 0
  t1   : Option Int := none
  path : Int := 0
  deriving DecidableEq, Repr

/-- The time unit and the servo (R198 to R211): the counter, NS latched by path, the last 1,024 Syncs with
what slewing has moved in it, the frequency estimate, Syncs in bound, the master's identity, when the last
valid Sync came; and the island's uptime
(R300), in ticks of TCLK. -/
structure TimeUnit where
  sec     : Nat := 0
  ns      : Nat := 0
  frac    : Nat := 0
  latched : Map Nat := []
  pdelay  : Map Pdelay := []
  syncs   : List (Int × Int) := []
  slewed  : Int := 0
  estimate : Nat := 0x02000000
  good    : Nat := 0
  identity : Option Nat := none
  syncNs  : Int := 0
  holdNs  : Int := 0
  ptpSeq  : Nat := 0
  uptime  : Nat := 0
  deriving DecidableEq, Repr

/-! ### Agreement and stewards -/

/-- What a chip knows of the neighbour on a port (R272, R273, R275, R277): whether its heartbeats are watched, the last
one's fields, when its miss timer last started, when it was reported and whether to a substitute arbiter too. -/
structure Neighbour where
  watched : Bool := false
  boot    : Nat := 0
  nbrUp   : Nat := 0
  arbA    : Nat := 0xFFFFFFFF
  arbB    : Nat := 0xFFFFFFFF
  step    : Nat := 0xFFFFFFFF
  lastNs  : Int := 0
  reportNs : Int := 0
  resent  : Bool := false
  deriving DecidableEq, Repr

/-- SSEQ acceptance for one tray (R291). -/
structure SseqMap where
  high : Nat := 0
  seen : List Nat := []
  deriving DecidableEq, Repr

/-- Penalty points of one part (R293): fixed causes, decaying points in thousandths. -/
structure Penalty where
  fixed   : List (Nat × Nat) := []
  decay   : Nat := 0
  deriving DecidableEq, Repr

/-- The Clover state of the FCC and the steward state (R270 to R294): which tray positions
hold the active and standby roles, as far as this chip knows. -/
structure Clover where
  active   : Option Nat := some 0
  standby  : Option Nat := some 1
  alive    : Nat := 0
  nbrs     : Map Neighbour := []
  failed   : List (Nat × Nat) := []
  inquiries : Map Inquiry := []
  sseqs    : Map SseqMap := []
  swapNext : Bool := false
  copyValid : Bool := false
  penalties : Map Penalty := []
  crossings : List (Nat × Nat) := []
  deriving DecidableEq, Repr

/-! ### Reset, clocks, power -/

/-- A reset domain beyond its entries (R316): the instants of its last sixteen resets, in ms. -/
structure Domain where
  resets : List Nat := []
  deriving DecidableEq, Repr

/-- An outstanding request identifier (R318): its target, and the host command it serves. -/
structure OutReq where
  chip   : Nat := 0
  unit   : Nat := 0
  tgen   : Nat := 0
  resent : Bool := false
  mover  : Option Nat := none
  pkt    : Packet
  deriving DecidableEq, Repr

/-- A boot image slot (R306, R307): the bytes that differ from erased flash, 0xFF; erased since its last check; passed;
its version. -/
structure ImageSlot where
  bytes  : Map Byte := []
  erased : Bool := false
  passed : Bool := false
  version : Nat := 0
  deriving DecidableEq, Repr

/-- Boot modes (R301). -/
inductive BootMode where
  | normal
  | recovery
  | manufacturing
  | dormant
  deriving DecidableEq, Repr

/-- The always-on island, reset controller and retained state (R297 to R321, R405 to R411): the pins and rails; whether
the chip is held in reset; the stage its bring-up runs from; whether stage 1 failed and stage 2 is done; the boot mode;
whether a software warm reset overrides the strap's mode; whether the endpoint stays in Request Retry Status; the exits
of resets within 60 s; the last strap code; requesters' tables (R318, R319); the image slots; the tray key's copy
(R370); the open counter (R367). -/
structure ResetUnit where
  porstLow  : Bool := false
  lowSince  : Nat := 0
  pwrEn     : Bool := false
  pwrEnMs   : Nat := 0
  pwrGood   : Bool := false
  thermTrip : Bool := false
  standby   : Bool := false
  inReset   : Bool := false
  bootFrom  : Nat := 1
  stage1Bad : Bool := false
  stage2Done : Bool := false
  mode      : BootMode := .normal
  romRecovery : Bool := false
  rrs       : Bool := false
  exits     : List Nat := []
  lastCode  : Option Nat := none
  domains   : Map Domain := []
  remote    : List (Nat × Nat) := []
  outstanding : Map OutReq := []
  nextRid   : Nat := 0
  lates     : List (Nat × Nat) := []
  imgA      : ImageSlot := {}
  imgB      : ImageSlot := {}
  trayKey   : Option (List Byte) := none
  openCount : Nat := 0
  openSaved : Nat := 0
  deriving DecidableEq, Repr

/-- Clock and power control (R311 to R314): the causes of safety clamps in force, those that have cleared and are
released one step later, whether unplanned work is held, and the window accesses that wait. -/
structure PowerCtl where
  clamps   : List Nat := []
  clearing : List Nat := []
  holdUnplanned : Bool := false
  overNs   : Int := 0
  held     : List MemReq := []
  deriving DecidableEq, Repr

/-! ### Ledger and Tally -/

/-- A code's token bucket (R332, R333): thousand-millionths of a token, last refill, suppression. -/
structure Bucket where
  tokens  : Nat := 0
  lastNs  : Int := 0
  count   : Nat := 0
  firstNs : Int := 0
  deriving DecidableEq, Repr

/-- The Ledger (R325 to R338). `queue` holds records accepted and not yet drained, as bytes. -/
structure LedgerUnit where
  queue    : List (List Byte) := []
  lostPend : Nat := 0
  buckets  : Map Bucket := []
  volFirst : List (List Byte) := []
  volLast  : List (List Byte) := []
  volBase  : Nat := 0
  inFlash  : Nat := 0
  buffer   : List (Nat × List Byte) := []
  drained  : Nat := 0
  suspended : Bool := false
  bufDropPend : Nat := 0
  sectors  : Map (List (List Byte)) := []
  erases   : Map Nat := []
  skipped  : List Nat := []
  curLast  : Nat := 0
  erasing  : Option Nat := none
  clearing : List Nat := []
  deriving DecidableEq, Repr

/-- A Tally channel (R339 to R346), beyond its registers, which are entries: whether a scan runs, a period is armed,
stream mode is on; chunks folded, the value so far, whether a poisoned word was read, a stop asked for; the lanes that
have started; since when zeroing holds its next chunk (R114); when its next period begins. -/
structure TallyCh where
  running  : Bool := false
  armed    : Bool := false
  stream   : Bool := false
  chunk    : Nat := 0
  value    : Nat := 0
  poisoned : Bool := false
  stopReq  : Bool := false
  started  : List Nat := []
  heldNs   : Option Int := none
  dueNs    : Int := 0
  deriving DecidableEq, Repr

/-! ### Management and observability -/

/-- The management unit (R355 to R374). The first 16 forwarded requests are on their way, the others wait (R373). -/
structure Mgmt where
  sessions : List Session := []
  relays   : List Forward := []
  forwards : List Forward := []
  fwdSeq   : Nat := 0
  deriving DecidableEq, Repr

/-- The statistics of a watch point (R393). -/
structure WatchStats where
  step   : Nat := 0
  run    : Nat := 0
  format : Nat := 0
  count  : Nat := 0
  nan    : Nat := 0
  inf    : Nat := 0
  zero   : Nat := 0
  min    : Option Int := none
  max    : Option Int := none
  sum    : Int := 0
  sumsq  : Nat := 0
  hist   : List Nat := []
  digest : Nat := 0
  deriving DecidableEq, Repr

/-- A watch point in use (R392). -/
structure WatchPoint where
  part    : Nat := 0
  slot    : Nat := 0
  block   : Nat := 0
  desc    : Nat := 0
  ops     : Nat := 0
  base    : Int := 0
  width   : Nat := 0
  watchId : Nat := 0
  live    : WatchStats := {}
  sealed  : WatchStats := {}
  deriving DecidableEq, Repr

/-- A margin test in progress (R398): its region, the nominal supply in mV, the step under way, whether it is the second at
nominal. -/
structure MarginTest where
  region : Nat := 0
  nominal : Nat := 0
  step   : Nat := 0
  again  : Bool := false
  deriving DecidableEq, Repr

/-- A saved copy of the life record (R396): its sequence number and its entries that are not 0. -/
structure LifeCopy where
  seq     : Nat := 0
  entries : Map Nat := []
  deriving DecidableEq, Repr

/-- Freeze, trace, watch and life record state (R384 to R399): the freeze armed, the FCC's marks, watch points, the
margin test in progress, the region next in turn and the powered seconds at the last turn, the two copies of the life record; the counters' last capture, as the
number of its free values, and the blocks whose shadows have been cleared since. -/
structure Observe where
  freeze    : Option (Nat × Nat) := none
  marks     : Nat := 0
  watch     : List WatchPoint := []
  margin    : Option MarginTest := none
  marginNext : Nat := 0
  marginAtS : Nat := 0
  lifeCopies : Map LifeCopy := []
  capture   : Option Nat := none
  cleared   : List Nat := []
  deriving DecidableEq, Repr

/-! ### What the block sends -/

/-- A Clover message's body (R271). -/
inductive ClvBody where
  | heartbeat (b : Heartbeat)
  | report (r : Report)
  | reject (subject status : Nat)
  | notice (n : Notice)
  | vote (v : Vote)
  | commit (c : Commit)
  | rolled (m : RolledMsg)
  | resume (m : ResumeMsg)
  | ready (m : ReadyMsg)
  deriving DecidableEq, Repr

/-- What leaves the block, and what a unit hands over: a flit as it leaves on its port; a Clover or management message as the FCC
hands it to the router, whose VC0 packet then travels (R151); a packet delivered to the unit that another row's command stands
for. -/
inductive Out where
  | flit (port : Nat) (f : Flit)
  | clover (port : Option Nat) (dst : Nat) (h : ClvHdr) (b : ClvBody)
  | mgmt (dst msg : Nat) (f : Frame)
  | frame (f : Frame)
  | msix (func vector : Nat)
  | packet (p : Packet)
  | statusReply (requester rid unit gen : Nat) (st : StatusBits)
  | buddyPage (dst : Nat) (p : DeltaPage)
  | buddyAck (dst part step page : Nat) (filling refused : Bool)
  | probe (subject try_ : Nat)
  | stewardCopy (c : StewardState)
  | readReply (requester : Nat) (data : List Byte) (poison : Bool) (denied : Bool)
  | moduleWrite (m : Nat) (record : List Byte)
  | healthReport (unit band : Nat)
  | aerReport (func status : Nat)
  | atsDone (func page : Nat)
  | answer (who : Who) (reason : Nat)
  | value (who : Who) (v : Nat)
  deriving DecidableEq, Repr

/-- The state of the block. -/
structure State where
  pending : List Instr := []
  od      : Map Nat := []
  odBytes : Map (List Byte) := []
  mem     : List Host.Cell := []
  poison  : List Nat := []
  time    : TimeUnit := {}
  blocks  : Map Block := []
  parts   : Map Part := []
  buddies : List BuddyArea := []
  msys    : MemSys := {}
  ports   : Map Port := []
  lasers  : Map Laser := []
  router  : Router := {}
  host    : HostIf := {}
  clover  : Clover := {}
  rst     : ResetUnit := {}
  power   : PowerCtl := {}
  ledger  : LedgerUnit := {}
  tally   : Map TallyCh := []
  mgmt    : Mgmt := {}
  obs     : Observe := {}
  outbox  : List Out := []
  free    : Nat := 0
  deriving DecidableEq, Repr

/-- The block right after reset (R200, R297, R304, R350): every entry of the dictionary at its default, all
memory, tables and queues empty, standby power present and bring-up in its first stage. Internal state
for which the manual gives no reset value is 0 or empty (DESIGN CHOICE, log 1). -/
def State.reset : State :=
  { rst := { standby := true } }

/-- Why the block stops with a fault. No command of the table ends so: the manual gives every error an
effect (a status, a record, a verdict, a reset), and that is modelled. -/
inductive Fault where
  /-- No meaning raises this. It would be safe: the model would stop where the hardware goes on. -/
  | never
  deriving DecidableEq, Repr

/-- Why a command is refused by the model. -/
inductive Refusal where
  /-- The command has no meaning yet. Safe: the model stops where the hardware goes on. -/
  | notModelled (mnemonic : String)
  deriving DecidableEq, Repr

end Sys2Proof.Machine
end

