-- ==== Sys2Proof/Machine/Map.lean ====
section
/-! DEFINITION. Operations on sparse tables: reading with a default, writing in canonical form. -/

namespace Sys2Proof.Machine

open Sys2Proof

variable {α : Type}

/-- The value at a key, `d` where none is listed. -/
def mapGet (d : α) (m : Map α) (k : Nat) : α :=
  match m with
  | [] => d
  | (k', v) :: r => if k' = k then v else mapGet d r k

/-- Whether a key is listed. -/
def mapHas (m : Map α) (k : Nat) : Bool := m.any fun e => e.1 == k

/-- The value at a key, if listed. -/
def mapFind (m : Map α) (k : Nat) : Option α :=
  match m with
  | [] => none
  | (k', v) :: r => if k' = k then some v else mapFind r k

/-- The table without a key. -/
def mapDel (m : Map α) (k : Nat) : Map α := m.filter fun e => e.1 != k

/-- A key put in its place among rising keys. -/
def mapIns (m : Map α) (k : Nat) (v : α) : Map α :=
  match m with
  | [] => [(k, v)]
  | e :: r => if e.1 < k then e :: mapIns r k v else (k, v) :: e :: r

/-- The table with a value at a key. -/
def mapPut (m : Map α) (k : Nat) (v : α) : Map α := mapIns (mapDel m k) k v

/-- The table with a value at a key, which is not listed when it is the default. -/
def mapSet [DecidableEq α] (d : α) (m : Map α) (k : Nat) (v : α) : Map α :=
  if v = d then mapDel m k else mapPut m k v

/-- Keys strictly rising and above a bound. -/
def mapRising (lo : Nat) (m : Map α) : Bool :=
  match m with
  | [] => true
  | e :: r => decide (lo ≤ e.1) && mapRising (e.1 + 1) r

/-- The canonical form: keys strictly rise and no entry equals the default. -/
def mapWf [DecidableEq α] (d : α) (m : Map α) : Bool :=
  mapRising 0 m && m.all fun e => decide (e.2 ≠ d)

/-- `n` values from key `k` on of a table whose keys rise and are not below `k`. -/
def mapRun (d : α) (m : Map α) (k n : Nat) : List α :=
  match n with
  | 0 => []
  | n + 1 =>
    match m with
    | [] => d :: mapRun d [] (k + 1) n
    | e :: r => if e.1 = k then e.2 :: mapRun d r (k + 1) n else d :: mapRun d m (k + 1) n

/-- The values of `n` consecutive keys of a table whose keys rise. -/
def mapSlice (d : α) (m : Map α) (k n : Nat) : List α := mapRun d (m.filter fun e => decide (k ≤ e.1)) k n

/-- The entries of consecutive values that are not the default. -/
def mapNew [DecidableEq α] (d : α) (k : Nat) (vs : List α) : Map α :=
  match vs with
  | [] => []
  | v :: r => if v = d then mapNew d (k + 1) r else (k, v) :: mapNew d (k + 1) r

/-- Consecutive keys replaced from a list. -/
def mapSplice [DecidableEq α] (d : α) (m : Map α) (k : Nat) (vs : List α) : Map α :=
  (m.filter fun e => decide (e.1 < k)) ++ mapNew d k vs ++ m.filter fun e => decide (k + vs.length ≤ e.1)

end Sys2Proof.Machine
end

