-- ==== Sys2Proof/Machine/Registers.lean ====
section
/-! DEFINITION. The object dictionary's entries (R350, R375): index, subindex, type, access, default,
instance set and writable range of each, as the chapters' tables give them. A default the table does not
state is 0 (log 4). -/

namespace Sys2Proof.Machine

open Sys2Proof

/-- The types of R352. -/
inductive Ty where
  | u8 | u16 | u32 | u64 | i32 | i64 | f32 | bool
  | string (n : Nat)
  | domain (n : Nat)
  | record
  deriving DecidableEq, Repr

/-- The access codes of R7. -/
inductive Acc where
  | ro | rw | wo | rws | rw1c | rc | const
  deriving DecidableEq, Repr

/-- Instance sets (R350): those the chapters name. -/
inductive InstSet where
  | zero
  | upto (n : Nat)
  | stride (outer step inner : Nat)
  | rtDim
  | stages
  | engines
  | domains
  | parts
  deriving DecidableEq, Repr

/-- A dictionary entry. `dflt0` is the default of instance 0 where it differs; `range` the intervals a
write must lie in, none for the whole width; `mask` the bits that are not reserved (R6); `members` the
sizes of a record's members (R353). -/
structure Reg where
  name    : String
  index   : Nat
  sub     : Nat
  ty      : Ty
  acc     : Acc
  dflt    : Nat
  dflt0   : Nat
  inst    : InstSet
  range   : List (Nat × Nat)
  mask    : Nat
  members : List Nat
  deriving DecidableEq, Repr

/-- The size in bytes of a value of a type (R352), of a RECORD by its members. -/
def tySize (t : Ty) (members : List Nat) : Nat :=
  match t with
  | .u8 => 1
  | .u16 => 2
  | .u32 => 4
  | .u64 => 8
  | .i32 => 4
  | .i64 => 8
  | .f32 => 4
  | .bool => 1
  | .string n => n
  | .domain n => n
  | .record => members.foldl (· + ·) 0

/-- The code of a type (R352). -/
def tyCode (t : Ty) : Nat :=
  match t with
  | .u8 => 1
  | .u16 => 2
  | .u32 => 3
  | .u64 => 4
  | .i32 => 5
  | .i64 => 6
  | .f32 => 7
  | .bool => 8
  | .string _ => 9
  | .domain _ => 10
  | .record => 11

/-- The code of an access (R352). -/
def accCode (a : Acc) : Nat :=
  match a with
  | .ro => 1
  | .rw => 2
  | .wo => 3
  | .rws => 4
  | .rw1c => 5
  | .rc => 6
  | .const => 7

/-- Whether a type is carried as an octet string (R353) or packed record. -/
def tyBytes (t : Ty) : Bool :=
  match t with
  | .string _ => true
  | .domain _ => true
  | .record => true
  | _ => false

/-- Whether a unit number names an engine with counters (R378). -/
def engineUnit (u : Nat) : Bool :=
  let c := u / 4096
  if c == 1 then u % 8 ≤ 4 && u % 4096 < 1024
  else if c == 2 then (u / 128) % 32 ≤ 4
  else if c == 3 then (u / 16) % 256 ≤ 3 && u % 16 < 8
  else if c == 4 then u % 4096 < 12
  else if c == 5 then u % 4096 < 8
  else if c == 6 then u % 4096 < 8
  else if c == 7 then u % 4096 < 1024
  else false

/-- Whether a unit number names a reset domain (R315). -/
def domainUnit (u : Nat) : Bool :=
  let c := u / 4096
  if c == 1 then u % 8 ≤ 4 && u % 4096 < 1024
  else if c == 2 then 0x2300 ≤ u && u < 0x2380
  else if c == 3 then 0x3070 ≤ u && u < 0x3078
  else if c == 5 then 0x5000 ≤ u && u < 0x5008
  else if c == 6 then (0x6000 ≤ u && u < 0x6006) || u == 0x6008
  else if c == 7 then u == 0x7400
  else u == 0xE000

/-- Whether a unit number names a part with a health score (R293, R295). -/
def partUnit (u : Nat) : Bool :=
  (0x2300 ≤ u && u < 0x2380) || (0x5000 ≤ u && u < 0x5008) || (0x6000 ≤ u && u < 0x6006) ||
    (0xD000 ≤ u && u < 0xD002) || u == 0xE000

/-- Whether an instance set has an instance (R351). -/
def instIn (i : InstSet) (n : Nat) : Bool :=
  match i with
  | .zero => n == 0
  | .upto k => n < k
  | .stride o s m => n / s < o && n % s < m
  | .rtDim => n < 512 && (n / 64) % 4 < 3
  | .stages => 1 ≤ n && n ≤ 7
  | .engines => engineUnit n
  | .domains => domainUnit n
  | .parts => partUnit n

/-- The lowest instance of a set. -/
def instFirst (i : InstSet) : Nat :=
  match i with
  | .stages => 1
  | .engines => 0x1000
  | .domains => 0x1000
  | .parts => 0x2300
  | _ => 0

/-- One past the highest instance of a set. -/
def instEnd (i : InstSet) : Nat :=
  match i with
  | .zero => 1
  | .upto k => k
  | .stride o s m => (o - 1) * s + m
  | .rtDim => 448
  | .stages => 8
  | .engines => 0x7400
  | .domains => 0xE001
  | .parts => 0xE001

/-- Whether a set is sparse (R350): not contiguous. -/
def instSparse (i : InstSet) : Bool :=
  match i with
  | .zero => false
  | .upto _ => false
  | .stages => false
  | _ => true

/-- The instances of a set in ascending order. -/
def instList (i : InstSet) : List Nat :=
  (List.range (instEnd i)).filter (instIn i)

/-- An entry with no range beyond its width, no reserved bits and no members. -/
def mk (name : String) (index sub : Nat) (ty : Ty) (acc : Acc) (dflt : Nat) (inst : InstSet) : Reg :=
  { name := name, index := index, sub := sub, ty := ty, acc := acc, dflt := dflt, dflt0 := dflt,
    inst := inst, range := [], mask := 2 ^ 64 - 1, members := [] }

end Sys2Proof.Machine

namespace Sys2Proof.Machine.R

open Sys2Proof.Machine

/-- CMP_ARITH_STAT (R58). -/
def CMP_ARITH_STAT : Reg := mk "CMP_ARITH_STAT" 0x3040 0x00 .u8 .const 6 (.upto 128)

/-- CMP_ARITH_SAT (R58). -/
def CMP_ARITH_SAT : Reg := mk "CMP_ARITH_SAT" 0x3040 0x01 .u32 .ro 0 (.upto 128)

/-- CMP_ARITH_NAN (R58). -/
def CMP_ARITH_NAN : Reg := mk "CMP_ARITH_NAN" 0x3040 0x02 .u32 .ro 0 (.upto 128)

/-- CMP_ARITH_WRAP (R58). -/
def CMP_ARITH_WRAP : Reg := mk "CMP_ARITH_WRAP" 0x3040 0x03 .u32 .ro 0 (.upto 128)

/-- CMP_ARITH_TERN (R58). -/
def CMP_ARITH_TERN : Reg := mk "CMP_ARITH_TERN" 0x3040 0x04 .u32 .ro 0 (.upto 128)

/-- CMP_ARITH_DOMAIN (R58). -/
def CMP_ARITH_DOMAIN : Reg := mk "CMP_ARITH_DOMAIN" 0x3040 0x05 .u32 .ro 0 (.upto 128)

/-- CMP_ARITH_GIDX (R58). -/
def CMP_ARITH_GIDX : Reg := mk "CMP_ARITH_GIDX" 0x3040 0x06 .u32 .ro 0 (.upto 128)

/-- CMP_PLAN_SEED (R58). -/
def CMP_PLAN_SEED : Reg := mk "CMP_PLAN_SEED" 0x3041 0x00 .u64 .ro 0 (.upto 128)

/-- CMP_PLAN_STATE (R92). -/
def CMP_PLAN_STATE : Reg := mk "CMP_PLAN_STATE" 0x3000 0x00 .u8 .ro 0 (.upto 128)

/-- CMP_LOAD_STATUS (R92). -/
def CMP_LOAD_STATUS : Reg := mk "CMP_LOAD_STATUS" 0x3001 0x01 .u8 .ro 0 (.upto 128)

/-- CMP_LOAD_REASON (R92). -/
def CMP_LOAD_REASON : Reg := mk "CMP_LOAD_REASON" 0x3001 0x02 .u16 .ro 0 (.upto 128)

/-- CMP_LOAD_OFFSET (R92). -/
def CMP_LOAD_OFFSET : Reg := mk "CMP_LOAD_OFFSET" 0x3001 0x03 .u64 .ro 0 (.upto 128)

/-- CMP_LOAD_PLAN (R92). -/
def CMP_LOAD_PLAN : Reg := mk "CMP_LOAD_PLAN" 0x3001 0x04 .u64 .ro 0 (.upto 128)

/-- CMP_LOAD_OVER (R92). -/
def CMP_LOAD_OVER (k : Nat) : Reg := mk "CMP_LOAD_OVER" 0x3002 (0x1 + k) .u64 .ro 0 (.upto 128)

/-- CMP_LOAD_AVAIL (R92). -/
def CMP_LOAD_AVAIL (k : Nat) : Reg := mk "CMP_LOAD_AVAIL" 0x3003 (0x1 + k) .u64 .ro 0 (.upto 128)

/-- CMP_SLACK_LAST (R92). -/
def CMP_SLACK_LAST : Reg := mk "CMP_SLACK_LAST" 0x3010 0x01 .u32 .ro 0 (.upto 128)

/-- CMP_SLACK_MAX (R92). -/
def CMP_SLACK_MAX : Reg := mk "CMP_SLACK_MAX" 0x3010 0x02 .u32 .rc 0 (.upto 128)

/-- CMP_SLACK_MIN (R92). -/
def CMP_SLACK_MIN : Reg := mk "CMP_SLACK_MIN" 0x3010 0x03 .i32 .rc 0x7FFFFFFF (.upto 128)

/-- CMP_SLIPS (R92). -/
def CMP_SLIPS : Reg := mk "CMP_SLIPS" 0x3010 0x04 .u32 .ro 0 (.upto 128)

/-- CMP_SLIP_LAST (R92). -/
def CMP_SLIP_LAST : Reg := { mk "CMP_SLIP_LAST" 0x3011 0x01 .record .ro 0 .zero with members := [4, 2, 2, 4, 1] }

/-- CMP_SEQ_A (R92). -/
def CMP_SEQ_A : Reg := mk "CMP_SEQ_A" 0x3020 0x1 .u8 .ro 0 (.upto 128)

/-- CMP_SEQ_B (R92). -/
def CMP_SEQ_B : Reg := mk "CMP_SEQ_B" 0x3020 0x2 .u8 .ro 0 (.upto 128)

/-- CMP_SEQ_DUP (R92). -/
def CMP_SEQ_DUP : Reg := mk "CMP_SEQ_DUP" 0x3020 0x03 .u64 .ro 0 (.upto 128)

/-- CMP_PLAN_ERR_BANK (R92). -/
def CMP_PLAN_ERR_BANK : Reg := mk "CMP_PLAN_ERR_BANK" 0x3021 0x01 .u32 .ro 0 (.upto 128)

/-- CMP_PLAN_ERR_FINAL (R92). -/
def CMP_PLAN_ERR_FINAL : Reg := mk "CMP_PLAN_ERR_FINAL" 0x3021 0x02 .u32 .ro 0 (.upto 128)

/-- CMP_PLAN_ERR_EMPTY (R92). -/
def CMP_PLAN_ERR_EMPTY : Reg := mk "CMP_PLAN_ERR_EMPTY" 0x3021 0x03 .u32 .ro 0 (.upto 128)

/-- CMP_PLAN_ERR_CTR (R92). -/
def CMP_PLAN_ERR_CTR : Reg := mk "CMP_PLAN_ERR_CTR" 0x3021 0x04 .u32 .ro 0 (.upto 128)

/-- CMP_PLAN_ERR_FETCH (R92). -/
def CMP_PLAN_ERR_FETCH : Reg := mk "CMP_PLAN_ERR_FETCH" 0x3021 0x05 .u32 .ro 0 (.upto 128)

/-- CMP_PLAN_ERR_DESC (R92). -/
def CMP_PLAN_ERR_DESC : Reg := mk "CMP_PLAN_ERR_DESC" 0x3021 0x06 .u32 .ro 0 (.upto 128)

/-- CMP_PART_OWNER (R117). -/
def CMP_PART_OWNER : Reg := { mk "CMP_PART_OWNER" 0x3100 0x01 .u16 .rw 0xFFFF (.upto 128) with range := [(0, 1023), (0xFFFF, 0xFFFF)] }

/-- CMP_PART_TAG (R117). -/
def CMP_PART_TAG : Reg := mk "CMP_PART_TAG" 0x3100 0x02 .u16 .rw 0 (.upto 128)

/-- CMP_BLOCK_PART (R117). -/
def CMP_BLOCK_PART : Reg := { mk "CMP_BLOCK_PART" 0x3101 0x01 .u8 .rw 0xFF (.upto 128) with range := [(0, 127), (0xFF, 0xFF)] }

/-- MEM_SLICE_PART (R117). -/
def MEM_SLICE_PART : Reg := { mk "MEM_SLICE_PART" 0x3400 0x01 .u8 .rw 0xFF (.upto 384) with range := [(0, 127), (0xFF, 0xFF)] }

/-- MEM_SLICE_USE (R117). -/
def MEM_SLICE_USE : Reg := { mk "MEM_SLICE_USE" 0x3400 0x02 .u8 .rw 0 (.upto 384) with range := [(0, 3)] }

/-- MEM_SLICE_HOST (R117). -/
def MEM_SLICE_HOST : Reg := { mk "MEM_SLICE_HOST" 0x3400 0x03 .u32 .rw 0 (.upto 384) with mask := 0xFFFFFF }

/-- MEM_ZERO_BLOCK (R117). -/
def MEM_ZERO_BLOCK : Reg := mk "MEM_ZERO_BLOCK" 0x3401 0x01 .u8 .ro 0 (.upto 128)

/-- MEM_ZERO_LINE (R117). -/
def MEM_ZERO_LINE : Reg := mk "MEM_ZERO_LINE" 0x3401 0x02 .u16 .ro 0 (.upto 128)

/-- MEM_ZERO_SLICE (R117). -/
def MEM_ZERO_SLICE : Reg := mk "MEM_ZERO_SLICE" 0x3402 0x01 .u8 .ro 0 (.upto 384)

/-- MEM_ZERO_SECTOR (R117). -/
def MEM_ZERO_SECTOR : Reg := mk "MEM_ZERO_SECTOR" 0x3402 0x02 .u32 .ro 0 (.upto 384)

/-- MEM_ZERO_PART (R117). -/
def MEM_ZERO_PART : Reg := mk "MEM_ZERO_PART" 0x3403 0x01 .u16 .ro 0 .zero

/-- MEM_ZERO_HOLD (R117). -/
def MEM_ZERO_HOLD : Reg := mk "MEM_ZERO_HOLD" 0x3403 0x02 .u64 .ro 0 .zero

/-- MEM_ZERO_HOLD_MAX (R117). -/
def MEM_ZERO_HOLD_MAX : Reg := mk "MEM_ZERO_HOLD_MAX" 0x3403 0x03 .u32 .rc 0 .zero

/-- MEM_SRAM_CORR (R117). -/
def MEM_SRAM_CORR : Reg := mk "MEM_SRAM_CORR" 0x3410 0x01 .u32 .ro 0 (.upto 128)

/-- MEM_SRAM_UNCORR (R117). -/
def MEM_SRAM_UNCORR : Reg := mk "MEM_SRAM_UNCORR" 0x3410 0x02 .u32 .ro 0 (.upto 128)

/-- MEM_SRAM_POISON (R117). -/
def MEM_SRAM_POISON : Reg := mk "MEM_SRAM_POISON" 0x3410 0x03 .u32 .ro 0 (.upto 128)

/-- MEM_SRAM_SPARES (R117). -/
def MEM_SRAM_SPARES : Reg := mk "MEM_SRAM_SPARES" 0x3410 0x04 .u16 .ro 0 (.upto 128)

/-- MEM_HBM_CORR (R117). -/
def MEM_HBM_CORR : Reg := mk "MEM_HBM_CORR" 0x3411 0x01 .u64 .ro 0 (.upto 8)

/-- MEM_HBM_UNCORR (R117). -/
def MEM_HBM_UNCORR : Reg := mk "MEM_HBM_UNCORR" 0x3411 0x02 .u32 .ro 0 (.upto 8)

/-- MEM_HBM_POISON (R117). -/
def MEM_HBM_POISON : Reg := mk "MEM_HBM_POISON" 0x3411 0x03 .u32 .ro 0 (.upto 8)

/-- MEM_HBM_ODECC (R117). -/
def MEM_HBM_ODECC : Reg := mk "MEM_HBM_ODECC" 0x3411 0x04 .u64 .ro 0 (.upto 8)

/-- MEM_HBM_REPAIRS (R117). -/
def MEM_HBM_REPAIRS : Reg := mk "MEM_HBM_REPAIRS" 0x3411 0x05 .u16 .ro 0 (.upto 8)

/-- MEM_HBM_STATE (R117). -/
def MEM_HBM_STATE : Reg := mk "MEM_HBM_STATE" 0x3411 0x06 .u8 .ro 0 (.upto 8)

/-- MEM_PATROL_HOURS (R117). -/
def MEM_PATROL_HOURS : Reg := { mk "MEM_PATROL_HOURS" 0x3420 0x01 .u16 .rw 8 .zero with range := [(1, 168)] }

/-- MEM_PATROL_DONE (R117). -/
def MEM_PATROL_DONE : Reg := mk "MEM_PATROL_DONE" 0x3420 0x02 .u32 .ro 0 .zero

/-- FAB_PORT_ADMIN (R145). -/
def FAB_PORT_ADMIN : Reg := { mk "FAB_PORT_ADMIN" 0x4000 0x01 .u8 .rw 1 (.upto 6) with range := [(0, 1)] }

/-- FAB_PORT_STATE (R145). -/
def FAB_PORT_STATE : Reg := mk "FAB_PORT_STATE" 0x4000 0x02 .u8 .ro 0 (.upto 6)

/-- FAB_PORT_CAUSE (R145). -/
def FAB_PORT_CAUSE : Reg := mk "FAB_PORT_CAUSE" 0x4000 0x03 .u8 .ro 0 (.upto 6)

/-- FAB_PORT_WIDTH_RX (R145). -/
def FAB_PORT_WIDTH_RX : Reg := mk "FAB_PORT_WIDTH_RX" 0x4000 0x04 .u8 .ro 0 (.upto 6)

/-- FAB_PORT_WIDTH_TX (R145). -/
def FAB_PORT_WIDTH_TX : Reg := mk "FAB_PORT_WIDTH_TX" 0x4000 0x05 .u8 .ro 0 (.upto 6)

/-- FAB_PORT_CMD (R145). -/
def FAB_PORT_CMD : Reg := { mk "FAB_PORT_CMD" 0x4000 0x06 .u8 .wo 0 (.upto 6) with range := [(1, 2)] }

/-- FAB_PORT_EXPECT (R145). -/
def FAB_PORT_EXPECT : Reg := mk "FAB_PORT_EXPECT" 0x4000 0x07 .u32 .rw 0xFFFFFFFF (.upto 6)

/-- FAB_PORT_PARTNER (R145). -/
def FAB_PORT_PARTNER : Reg := mk "FAB_PORT_PARTNER" 0x4000 0x08 .u32 .ro 0xFFFFFFFF (.upto 6)

/-- FAB_PORT_LAT (R145). -/
def FAB_PORT_LAT : Reg := mk "FAB_PORT_LAT" 0x4000 0x09 .u32 .ro 0 (.upto 6)

/-- FAB_SPARE_POLICY (R145). -/
def FAB_SPARE_POLICY : Reg := { mk "FAB_SPARE_POLICY" 0x4000 0x0A .u8 .rw 0 (.upto 6) with range := [(0, 1)] }

/-- FAB_RETRY (R145). -/
def FAB_RETRY : Reg := mk "FAB_RETRY" 0x4001 0x01 .u64 .ro 0 (.upto 6)

/-- FAB_REPLAYED (R145). -/
def FAB_REPLAYED : Reg := mk "FAB_REPLAYED" 0x4001 0x02 .u64 .ro 0 (.upto 6)

/-- FAB_CRC_ERR (R145). -/
def FAB_CRC_ERR : Reg := mk "FAB_CRC_ERR" 0x4001 0x03 .u64 .ro 0 (.upto 6)

/-- FAB_FEC_UNCORR (R145). -/
def FAB_FEC_UNCORR : Reg := mk "FAB_FEC_UNCORR" 0x4001 0x04 .u64 .ro 0 (.upto 6)

/-- FAB_RETRAIN_FAST (R145). -/
def FAB_RETRAIN_FAST : Reg := mk "FAB_RETRAIN_FAST" 0x4001 0x05 .u32 .ro 0 (.upto 6)

/-- FAB_RETRAIN_FULL (R145). -/
def FAB_RETRAIN_FULL : Reg := mk "FAB_RETRAIN_FULL" 0x4001 0x06 .u32 .ro 0 (.upto 6)

/-- FAB_RETRY_MAX_NS (R145). -/
def FAB_RETRY_MAX_NS : Reg := mk "FAB_RETRY_MAX_NS" 0x4001 0x07 .u32 .rc 0 (.upto 6)

/-- FAB_REPLAY_NS (R145). -/
def FAB_REPLAY_NS : Reg := { mk "FAB_REPLAY_NS" 0x4002 0x01 .u32 .rw 4000 .zero with range := [(3000, 100000)] }

/-- FAB_RETRY_LIMIT (R145). -/
def FAB_RETRY_LIMIT : Reg := { mk "FAB_RETRY_LIMIT" 0x4002 0x02 .u8 .rw 8 .zero with range := [(2, 32)] }

/-- FAB_LANE_THR (R145). -/
def FAB_LANE_THR : Reg := { mk "FAB_LANE_THR" 0x4002 0x03 .u32 .rw 20000 .zero with range := [(100, 10000000)] }

/-- FAB_LANE_STATE (R145). -/
def FAB_LANE_STATE : Reg := mk "FAB_LANE_STATE" 0x4010 0x01 .u8 .ro 0 (.stride 6 32 18)

/-- FAB_LANE_ROLE (R145). -/
def FAB_LANE_ROLE : Reg := mk "FAB_LANE_ROLE" 0x4010 0x02 .u8 .ro 0xFF (.stride 6 32 18)

/-- FAB_LANE_CAUSE (R145). -/
def FAB_LANE_CAUSE : Reg := mk "FAB_LANE_CAUSE" 0x4010 0x03 .u8 .ro 0 (.stride 6 32 18)

/-- FAB_LANE_FECSYM (R145). -/
def FAB_LANE_FECSYM : Reg := mk "FAB_LANE_FECSYM" 0x4010 0x04 .u64 .ro 0 (.stride 6 32 18)

/-- FAB_LANE_WINDOW (R145). -/
def FAB_LANE_WINDOW : Reg := mk "FAB_LANE_WINDOW" 0x4010 0x05 .u32 .ro 0 (.stride 6 32 18)

/-- FAB_LANE_OUT_CLR (R145). -/
def FAB_LANE_OUT_CLR : Reg := { mk "FAB_LANE_OUT_CLR" 0x4010 0x06 .u8 .wo 0 (.stride 6 32 18) with range := [(1, 1)] }

/-- FAB_CLK_UP (R145). -/
def FAB_CLK_UP : Reg := { mk "FAB_CLK_UP" 0x4020 0x01 .u8 .rw 7 .zero with range := [(0, 5), (7, 7)] }

/-- FAB_CLK_ALT (R145). -/
def FAB_CLK_ALT : Reg := { mk "FAB_CLK_ALT" 0x4020 0x02 .u8 .rw 0xFF .zero with range := [(0, 5), (0xFF, 0xFF)] }

/-- FAB_CLK_STATE (R145). -/
def FAB_CLK_STATE : Reg := mk "FAB_CLK_STATE" 0x4020 0x03 .u8 .ro 3 .zero

/-- FAB_CLK_DEPTH (R145). -/
def FAB_CLK_DEPTH : Reg := mk "FAB_CLK_DEPTH" 0x4020 0x04 .u8 .ro 0 .zero

/-- FAB_LSR_STATE (R145). -/
def FAB_LSR_STATE : Reg := mk "FAB_LSR_STATE" 0x4400 0x01 .u8 .ro 0 (.upto 2)

/-- FAB_LSR_VENDOR (R145). -/
def FAB_LSR_VENDOR : Reg := mk "FAB_LSR_VENDOR" 0x4400 0x2 (.string 16) .ro 0 (.upto 2)

/-- FAB_LSR_PART (R145). -/
def FAB_LSR_PART : Reg := mk "FAB_LSR_PART" 0x4400 0x3 (.string 16) .ro 0 (.upto 2)

/-- FAB_LSR_SERIAL (R145). -/
def FAB_LSR_SERIAL : Reg := mk "FAB_LSR_SERIAL" 0x4400 0x4 (.string 16) .ro 0 (.upto 2)

/-- FAB_LSR_RATED_H (R145). -/
def FAB_LSR_RATED_H : Reg := mk "FAB_LSR_RATED_H" 0x4400 0x05 .u32 .ro 0 (.upto 2)

/-- FAB_LSR_HOURS (R145). -/
def FAB_LSR_HOURS : Reg := mk "FAB_LSR_HOURS" 0x4400 0x06 .u32 .ro 0 (.upto 2)

/-- FAB_LSR_ADVISE (R145). -/
def FAB_LSR_ADVISE : Reg := mk "FAB_LSR_ADVISE" 0x4400 0x07 .u8 .ro 0 (.upto 2)

/-- FAB_LSR_BIAS (R145). -/
def FAB_LSR_BIAS : Reg := mk "FAB_LSR_BIAS" 0x4401 0x01 .u32 .ro 0 (.stride 2 16 9)

/-- FAB_LSR_BIAS_RATIO (R145). -/
def FAB_LSR_BIAS_RATIO : Reg := mk "FAB_LSR_BIAS_RATIO" 0x4401 0x02 .u16 .ro 1000 (.stride 2 16 9)

/-- FAB_LSR_POWER (R145). -/
def FAB_LSR_POWER : Reg := mk "FAB_LSR_POWER" 0x4401 0x03 .u32 .ro 0 (.stride 2 16 9)

/-- FAB_LSR_ADV_RATIO (R145). -/
def FAB_LSR_ADV_RATIO : Reg := { mk "FAB_LSR_ADV_RATIO" 0x4402 0x01 .u16 .rw 1300 .zero with range := [(1050, 2000)] }

/-- FAB_LSR_SPARE_RATIO (R145). -/
def FAB_LSR_SPARE_RATIO : Reg := { mk "FAB_LSR_SPARE_RATIO" 0x4402 0x02 .u16 .rw 1500 .zero with range := [(1100, 2500)] }

/-- FAB_LSR_LIFE_PCT (R145). -/
def FAB_LSR_LIFE_PCT : Reg := { mk "FAB_LSR_LIFE_PCT" 0x4402 0x03 .u8 .rw 90 .zero with range := [(50, 100)] }

/-- FAB_LSR_DEF_LIFE_H (R145). -/
def FAB_LSR_DEF_LIFE_H : Reg := { mk "FAB_LSR_DEF_LIFE_H" 0x4402 0x04 .u32 .rw 50000 .zero with range := [(1000, 500000)] }

/-- FAB_CHIP_ID (R174). -/
def FAB_CHIP_ID : Reg := { mk "FAB_CHIP_ID" 0x4100 0x01 .u32 .rw 0 .zero with range := [(0, 131071)] }

/-- FAB_TORUS_DIM (R174). -/
def FAB_TORUS_DIM : Reg := { mk "FAB_TORUS_DIM" 0x4100 0x02 .u32 .rw 0 .zero with mask := 0x1FFFF }

/-- FAB_EPOCH_INJ (R174). -/
def FAB_EPOCH_INJ : Reg := { mk "FAB_EPOCH_INJ" 0x4100 0x03 .u8 .rw 0 .zero with range := [(0, 1)] }

/-- FAB_EPOCH_DRAIN_MS (R174). -/
def FAB_EPOCH_DRAIN_MS : Reg := { mk "FAB_EPOCH_DRAIN_MS" 0x4100 0x04 .u16 .rw 250 .zero with range := [(70, 20000)] }

/-- FAB_PORT_HOLD_MS (R174). -/
def FAB_PORT_HOLD_MS : Reg := { mk "FAB_PORT_HOLD_MS" 0x4100 0x05 .u16 .rw 50 .zero with range := [(1, 1000)] }

/-- FAB_PKT_LIFE_MS (R174). -/
def FAB_PKT_LIFE_MS : Reg := { mk "FAB_PKT_LIFE_MS" 0x4100 0x06 .u16 .rw 200 .zero with range := [(60, 10000)] }

/-- FAB_HOP_LIMIT (R174). -/
def FAB_HOP_LIMIT : Reg := { mk "FAB_HOP_LIMIT" 0x4100 0x07 .u8 .rw 160 .zero with range := [(8, 255)] }

/-- FAB_VC3_WEIGHT (R174). -/
def FAB_VC3_WEIGHT : Reg := { mk "FAB_VC3_WEIGHT" 0x4100 0x08 .u8 .rw 1 .zero with range := [(1, 15)] }

/-- FAB_PAUSE_ON (R174). -/
def FAB_PAUSE_ON : Reg := { mk "FAB_PAUSE_ON" 0x4100 0x09 .u16 .rw 1536 .zero with range := [(64, 2048)] }

/-- FAB_PAUSE_OFF (R174). -/
def FAB_PAUSE_OFF : Reg := { mk "FAB_PAUSE_OFF" 0x4100 0x0A .u16 .rw 512 .zero with range := [(0, 2047)] }

/-- FAB_PAUSE_TIME (R174). -/
def FAB_PAUSE_TIME : Reg := { mk "FAB_PAUSE_TIME" 0x4100 0x0B .u16 .rw 64 .zero with range := [(1, 65535)] }

/-- FAB_RT_STATE (R174). -/
def FAB_RT_STATE : Reg := { mk "FAB_RT_STATE" 0x4101 0x01 .u8 .rw 0 (.upto 2) with dflt0 := 1, range := [(0, 0)] }

/-- FAB_RT_DIM (R174). -/
def FAB_RT_DIM : Reg := { mk "FAB_RT_DIM" 0x4102 0x01 .u8 .rw 3 .rtDim with range := [(0, 3)] }

/-- FAB_DETOUR (R174). -/
def FAB_DETOUR : Reg := { mk "FAB_DETOUR" 0x4103 0x01 .u64 .rw 0 (.upto 2048) with mask := 0xFFFFFFFFFF800000 }

/-- FAB_DMAP (R174). -/
def FAB_DMAP : Reg := { mk "FAB_DMAP" 0x4104 0x01 .u64 .rw 0 (.upto 32) with mask := 0xFFFFFFFFFFFFE000 }

/-- FAB_DMAP_OVR (R174). -/
def FAB_DMAP_OVR : Reg := { mk "FAB_DMAP_OVR" 0x4105 0x01 .u64 .rw 0 (.upto 128) with mask := 0xFFFFFFFFFE000000 }

/-- FAB_VC_TX_PKT (R174). -/
def FAB_VC_TX_PKT : Reg := mk "FAB_VC_TX_PKT" 0x4110 0x01 .u64 .ro 0 (.stride 6 8 7)

/-- FAB_VC_RX_PKT (R174). -/
def FAB_VC_RX_PKT : Reg := mk "FAB_VC_RX_PKT" 0x4110 0x02 .u64 .ro 0 (.stride 6 8 7)

/-- FAB_VC_CREDIT (R174). -/
def FAB_VC_CREDIT : Reg := mk "FAB_VC_CREDIT" 0x4110 0x03 .u16 .ro 0 (.stride 6 8 7)

/-- FAB_VC_WAIT (R174). -/
def FAB_VC_WAIT : Reg := mk "FAB_VC_WAIT" 0x4110 0x04 .u64 .ro 0 (.stride 6 8 7)

/-- FAB_VC_PAUSED (R174). -/
def FAB_VC_PAUSED : Reg := mk "FAB_VC_PAUSED" 0x4110 0x05 .u32 .ro 0 (.stride 6 8 7)

/-- FAB_VC_HELD (R174). -/
def FAB_VC_HELD : Reg := mk "FAB_VC_HELD" 0x4110 0x06 .u32 .ro 0 (.stride 6 8 7)

/-- FAB_CREDIT_FIX (R174). -/
def FAB_CREDIT_FIX : Reg := mk "FAB_CREDIT_FIX" 0x4110 0x07 .u32 .ro 0 (.stride 6 8 7)

/-- FAB_VC1_RES (R174). -/
def FAB_VC1_RES : Reg := { mk "FAB_VC1_RES" 0x4112 0x01 .u16 .rw 0 (.upto 768) with range := [(0, 960)] }

/-- FAB_E2E_WIN (R174). -/
def FAB_E2E_WIN : Reg := { mk "FAB_E2E_WIN" 0x4120 0x01 .u16 .rw 64 .zero with range := [(1, 1024)] }

/-- FAB_E2E_WIN3 (R174). -/
def FAB_E2E_WIN3 : Reg := { mk "FAB_E2E_WIN3" 0x4120 0x02 .u16 .rw 256 .zero with range := [(1, 1024)] }

/-- FAB_E2E_RTO_US (R174). -/
def FAB_E2E_RTO_US : Reg := { mk "FAB_E2E_RTO_US" 0x4120 0x03 .u32 .rw 2000 .zero with range := [(100, 100000)] }

/-- FAB_E2E_RETRIES (R174). -/
def FAB_E2E_RETRIES : Reg := { mk "FAB_E2E_RETRIES" 0x4120 0x04 .u8 .rw 8 .zero with range := [(1, 32)] }

/-- FAB_E2E_CTX (R174). -/
def FAB_E2E_CTX : Reg := mk "FAB_E2E_CTX" 0x4120 0x05 .u32 .ro 0 .zero

/-- FAB_E2E_DUP (R174). -/
def FAB_E2E_DUP : Reg := mk "FAB_E2E_DUP" 0x4120 0x06 .u64 .ro 0 .zero

/-- FAB_E2E_RESYNC (R174). -/
def FAB_E2E_RESYNC : Reg := mk "FAB_E2E_RESYNC" 0x4120 0x07 .u32 .ro 0 .zero

/-- FAB_E2E_EXPIRED (R174). -/
def FAB_E2E_EXPIRED : Reg := mk "FAB_E2E_EXPIRED" 0x4120 0x08 .u32 .ro 0 .zero

/-- FAB_SHP_RATE (R174). -/
def FAB_SHP_RATE : Reg := mk "FAB_SHP_RATE" 0x4130 0x01 .u32 .rw 0xFFFFFFFF (.upto 1024)

/-- FAB_SHP_BURST (R174). -/
def FAB_SHP_BURST : Reg := { mk "FAB_SHP_BURST" 0x4130 0x02 .u32 .rw 65536 (.upto 1024) with range := [(4096, 16777216)] }

/-- FAB_SHP_LEVEL (R174). -/
def FAB_SHP_LEVEL : Reg := mk "FAB_SHP_LEVEL" 0x4130 0x03 .i64 .rw 0 (.upto 1024)

/-- FAB_SHP_HELD (R174). -/
def FAB_SHP_HELD : Reg := mk "FAB_SHP_HELD" 0x4130 0x04 .u64 .ro 0 (.upto 1024)

/-- FAB_DROP_AGE (R174). -/
def FAB_DROP_AGE : Reg := mk "FAB_DROP_AGE" 0x4140 0x1 .u64 .ro 0 .zero

/-- FAB_DROP_HOPS (R174). -/
def FAB_DROP_HOPS : Reg := mk "FAB_DROP_HOPS" 0x4140 0x2 .u64 .ro 0 .zero

/-- FAB_DROP_STALE (R174). -/
def FAB_DROP_STALE : Reg := mk "FAB_DROP_STALE" 0x4140 0x3 .u64 .ro 0 .zero

/-- FAB_DROP_NOROUTE (R174). -/
def FAB_DROP_NOROUTE : Reg := mk "FAB_DROP_NOROUTE" 0x4140 0x4 .u64 .ro 0 .zero

/-- FAB_DROP_BAD (R174). -/
def FAB_DROP_BAD : Reg := mk "FAB_DROP_BAD" 0x4140 0x5 .u64 .ro 0 .zero

/-- FAB_DROP_VC1 (R174). -/
def FAB_DROP_VC1 : Reg := mk "FAB_DROP_VC1" 0x4140 0x6 .u64 .ro 0 .zero

/-- FAB_DROP_MCAST (R174). -/
def FAB_DROP_MCAST : Reg := mk "FAB_DROP_MCAST" 0x4140 0x7 .u64 .ro 0 .zero

/-- FAB_DROP_AUTH (R174). -/
def FAB_DROP_AUTH : Reg := mk "FAB_DROP_AUTH" 0x4140 0x8 .u64 .ro 0 .zero

/-- HOST_LINK_SPEED (R196). -/
def HOST_LINK_SPEED : Reg := mk "HOST_LINK_SPEED" 0x5000 0x01 .u8 .ro 0 .zero

/-- HOST_LINK_WIDTH (R196). -/
def HOST_LINK_WIDTH : Reg := mk "HOST_LINK_WIDTH" 0x5000 0x02 .u8 .ro 0 .zero

/-- HOST_LINK_FLIT (R196). -/
def HOST_LINK_FLIT : Reg := mk "HOST_LINK_FLIT" 0x5000 0x03 .bool .ro 0 .zero

/-- HOST_NUM_VF (R196). -/
def HOST_NUM_VF : Reg := mk "HOST_NUM_VF" 0x5000 0x04 .u16 .ro 0 .zero

/-- HOST_FN_QBASE (R196). -/
def HOST_FN_QBASE : Reg := { mk "HOST_FN_QBASE" 0x5001 0x01 .u32 .rw 0 (.upto 1024) with range := [(0, 262143)] }

/-- HOST_FN_QCOUNT (R196). -/
def HOST_FN_QCOUNT : Reg := { mk "HOST_FN_QCOUNT" 0x5001 0x02 .u16 .rw 0 (.upto 1024) with dflt0 := 64, range := [(0, 4096)] }

/-- HOST_FN_WINPART (R196). -/
def HOST_FN_WINPART : Reg := { mk "HOST_FN_WINPART" 0x5001 0x03 .u8 .rw 0xFF (.upto 1024) with range := [(0, 127), (0xFF, 0xFF)] }

/-- HOST_FN_CTL (R196). -/
def HOST_FN_CTL : Reg := { mk "HOST_FN_CTL" 0x5001 0x04 .u8 .wo 0 (.upto 1024) with range := [(1, 3)] }

/-- HOST_FN_STATE (R196). -/
def HOST_FN_STATE : Reg := mk "HOST_FN_STATE" 0x5001 0x05 .u8 .ro 0 (.upto 1024)

/-- HOST_FN_CMDS (R196). -/
def HOST_FN_CMDS : Reg := mk "HOST_FN_CMDS" 0x5001 0x06 .u64 .ro 0 (.upto 1024)

/-- HOST_FN_DB_DROP (R196). -/
def HOST_FN_DB_DROP : Reg := mk "HOST_FN_DB_DROP" 0x5001 0x07 .u32 .ro 0 (.upto 1024)

/-- HOST_Q_FREE (R196). -/
def HOST_Q_FREE : Reg := mk "HOST_Q_FREE" 0x5002 0x01 .u32 .ro 262080 .zero

/-- TIME_NOW_SEC (R214). -/
def TIME_NOW_SEC : Reg := mk "TIME_NOW_SEC" 0x5800 0x01 .u64 .ro 0 .zero

/-- TIME_NOW_NS (R214). -/
def TIME_NOW_NS : Reg := mk "TIME_NOW_NS" 0x5800 0x02 .u32 .ro 0 .zero

/-- TIME_INCR (R214). -/
def TIME_INCR : Reg := { mk "TIME_INCR" 0x5801 0x01 .u32 .rws 0x02000000 .zero with range := [(0x01FF7CEE, 0x02008312)] }

/-- TIME_STEP_NS (R214). -/
def TIME_STEP_NS : Reg := mk "TIME_STEP_NS" 0x5801 0x02 .i64 .wo 0 .zero

/-- TIME_STEP_PEND (R214). -/
def TIME_STEP_PEND : Reg := mk "TIME_STEP_PEND" 0x5801 0x03 .i64 .ro 0 .zero

/-- TIME_SERVO (R214). -/
def TIME_SERVO : Reg := { mk "TIME_SERVO" 0x5802 0x01 .u8 .rw 1 .zero with range := [(0, 1)] }

/-- TIME_STEP_THR_NS (R214). -/
def TIME_STEP_THR_NS : Reg := { mk "TIME_STEP_THR_NS" 0x5802 0x02 .u32 .rw 1000 .zero with range := [(10, 1000000)] }

/-- TIME_SLEW_PPB (R214). -/
def TIME_SLEW_PPB : Reg := { mk "TIME_SLEW_PPB" 0x5802 0x03 .u16 .rw 500 .zero with range := [(30, 10000)] }

/-- TIME_MASTER_PORT (R214). -/
def TIME_MASTER_PORT : Reg := { mk "TIME_MASTER_PORT" 0x5803 0x01 .u8 .rw 7 .zero with range := [(0, 5), (7, 7)] }

/-- TIME_SYNC_LOG (R214). -/
def TIME_SYNC_LOG : Reg := { mk "TIME_SYNC_LOG" 0x5803 0x02 .u8 .rw 10 .zero with range := [(0, 12)] }

/-- TIME_PDELAY_LOG (R214). -/
def TIME_PDELAY_LOG : Reg := { mk "TIME_PDELAY_LOG" 0x5803 0x03 .u8 .rw 4 .zero with range := [(0, 12)] }

/-- TIME_SYNC_LOSS (R214). -/
def TIME_SYNC_LOSS : Reg := { mk "TIME_SYNC_LOSS" 0x5803 0x04 .u8 .rw 8 .zero with range := [(2, 255)] }

/-- TIME_STATE (R214). -/
def TIME_STATE : Reg := mk "TIME_STATE" 0x5804 0x01 .u8 .ro 0 .zero

/-- TIME_HOLDOVER (R214). -/
def TIME_HOLDOVER : Reg := mk "TIME_HOLDOVER" 0x5804 0x02 .bool .ro 0 .zero

/-- TIME_OFFSET_PS (R214). -/
def TIME_OFFSET_PS : Reg := mk "TIME_OFFSET_PS" 0x5804 0x03 .i32 .ro 0 .zero

/-- TIME_PATH_PS (R214). -/
def TIME_PATH_PS : Reg := mk "TIME_PATH_PS" 0x5804 0x04 .u32 .ro 0 .zero

/-- TIME_ALIGN_NS (R214). -/
def TIME_ALIGN_NS : Reg := { mk "TIME_ALIGN_NS" 0x5804 0x05 .u16 .rw 5 .zero with range := [(1, 1000)] }

/-- TIME_ALARM_NS (R214). -/
def TIME_ALARM_NS : Reg := { mk "TIME_ALARM_NS" 0x5804 0x06 .u16 .rw 50 .zero with range := [(1, 65535)] }

/-- TIME_ALIGN_EXC (R214). -/
def TIME_ALIGN_EXC : Reg := mk "TIME_ALIGN_EXC" 0x5804 0x07 .u32 .ro 0 .zero

/-- TIME_ASYM_PS (R214). -/
def TIME_ASYM_PS : Reg := { mk "TIME_ASYM_PS" 0x5810 0x01 .i32 .rw 0 (.upto 6) with range := [(0, 100000), (0xFFFE7960, 0xFFFFFFFF)] }

/-- TIME_CAL_TX_PS (R214). -/
def TIME_CAL_TX_PS : Reg := mk "TIME_CAL_TX_PS" 0x5810 0x02 .u32 .const 0 (.upto 6)

/-- TIME_CAL_RX_PS (R214). -/
def TIME_CAL_RX_PS : Reg := mk "TIME_CAL_RX_PS" 0x5810 0x03 .u32 .const 0 (.upto 6)

/-- TIME_SYNC_RX (R214). -/
def TIME_SYNC_RX : Reg := mk "TIME_SYNC_RX" 0x5810 0x04 .u64 .ro 0 (.upto 6)

/-- TIME_MSG_DROP (R214). -/
def TIME_MSG_DROP : Reg := mk "TIME_MSG_DROP" 0x5810 0x05 .u32 .ro 0 (.upto 6)

/-- CHK_FA_LIMIT (R240). -/
def CHK_FA_LIMIT : Reg := { mk "CHK_FA_LIMIT" 0x6000 0x01 .u8 .rw 4 .zero with range := [(1, 255)] }

/-- CHK_COVERAGE (R240). -/
def CHK_COVERAGE : Reg := mk "CHK_COVERAGE" 0x6001 0x01 .u32 .ro 1000000 (.upto 128)

/-- CHK_ENTRIES (R240). -/
def CHK_ENTRIES : Reg := mk "CHK_ENTRIES" 0x6001 0x02 .u32 .ro 0 (.upto 128)

/-- CHK_PASS (R240). -/
def CHK_PASS : Reg := mk "CHK_PASS" 0x6010 0x01 .u64 .ro 0 (.upto 128)

/-- CHK_FAIL (R240). -/
def CHK_FAIL : Reg := mk "CHK_FAIL" 0x6010 0x02 .u32 .ro 0 (.upto 128)

/-- CHK_TRANSIENT (R240). -/
def CHK_TRANSIENT : Reg := mk "CHK_TRANSIENT" 0x6010 0x03 .u32 .ro 0 (.upto 128)

/-- CHK_PERMANENT (R240). -/
def CHK_PERMANENT : Reg := mk "CHK_PERMANENT" 0x6010 0x04 .u16 .ro 0 (.upto 128)

/-- CHK_FALSE (R240). -/
def CHK_FALSE : Reg := mk "CHK_FALSE" 0x6010 0x05 .u32 .ro 0 (.upto 128)

/-- CHK_CHECKER_T (R240). -/
def CHK_CHECKER_T : Reg := mk "CHK_CHECKER_T" 0x6010 0x06 .u32 .ro 0 (.upto 128)

/-- CHK_INCONS (R240). -/
def CHK_INCONS : Reg := mk "CHK_INCONS" 0x6010 0x07 .u16 .ro 0 (.upto 128)

/-- CHK_WRAP (R240). -/
def CHK_WRAP : Reg := mk "CHK_WRAP" 0x6010 0x08 .u32 .ro 0 (.upto 128)

/-- CHK_PENDING (R240). -/
def CHK_PENDING : Reg := mk "CHK_PENDING" 0x6010 0x09 .u8 .ro 0 (.upto 128)

/-- CHK_PENDING_OVER (R240). -/
def CHK_PENDING_OVER : Reg := mk "CHK_PENDING_OVER" 0x6010 0x0A .u16 .ro 0 (.upto 128)

/-- CHK_QMAX (R240). -/
def CHK_QMAX : Reg := mk "CHK_QMAX" 0x6010 0x0B .u8 .rc 0 (.upto 128)

/-- CHK_SUBST (R240). -/
def CHK_SUBST : Reg := mk "CHK_SUBST" 0x6010 0x0C .u8 .ro 0xFF (.upto 128)

/-- CHK_LAST (R240). -/
def CHK_LAST : Reg := { mk "CHK_LAST" 0x6011 0x01 .record .ro 0 (.upto 128) with members := [4, 1, 2, 4, 1, 1, 1] }

/-- CHK_FA_LAST (R240). -/
def CHK_FA_LAST : Reg := { mk "CHK_FA_LAST" 0x6012 0x01 .record .ro 0 .zero with members := [1, 2, 4, 2, 4, 4] }

/-- SEAL_STEP (R268). -/
def SEAL_STEP : Reg := mk "SEAL_STEP" 0x6100 0x01 .u32 .ro 0 (.upto 128)

/-- SEAL_LAST (R268). -/
def SEAL_LAST : Reg := mk "SEAL_LAST" 0x6100 0x02 .u32 .ro 0xFFFFFFFF (.upto 128)

/-- SEAL_PROT (R268). -/
def SEAL_PROT : Reg := mk "SEAL_PROT" 0x6100 0x03 .u32 .ro 0xFFFFFFFF (.upto 128)

/-- SEAL_RUN (R268). -/
def SEAL_RUN : Reg := mk "SEAL_RUN" 0x6100 0x04 .u8 .ro 0 (.upto 128)

/-- SEAL_VOTE (R268). -/
def SEAL_VOTE : Reg := mk "SEAL_VOTE" 0x6100 0x05 .u8 .ro 0 (.upto 128)

/-- SEAL_LAT_LAST (R268). -/
def SEAL_LAT_LAST : Reg := mk "SEAL_LAT_LAST" 0x6100 0x06 .u32 .ro 0 (.upto 128)

/-- SEAL_LAT_MAX (R268). -/
def SEAL_LAT_MAX : Reg := mk "SEAL_LAT_MAX" 0x6100 0x07 .u32 .rc 0 (.upto 128)

/-- SEAL_COUNT (R268). -/
def SEAL_COUNT : Reg := mk "SEAL_COUNT" 0x6100 0x08 .u64 .ro 0 (.upto 128)

/-- SEAL_UNPROT (R268). -/
def SEAL_UNPROT : Reg := mk "SEAL_UNPROT" 0x6100 0x09 .u32 .ro 0 (.upto 128)

/-- SEAL_ROLLBACKS (R268). -/
def SEAL_ROLLBACKS : Reg := mk "SEAL_ROLLBACKS" 0x6100 0x0A .u32 .ro 0 (.upto 128)

/-- SEAL_NEXT_STEP (R268). -/
def SEAL_NEXT_STEP : Reg := { mk "SEAL_NEXT_STEP" 0x6100 0x0B .u32 .rw 0 (.upto 128) with range := [(0, 0xFFFFFFFE)] }

/-- SEAL_JNL_USED (R268). -/
def SEAL_JNL_USED : Reg := mk "SEAL_JNL_USED" 0x6101 0x01 .u32 .ro 0 (.upto 128)

/-- SEAL_JNL_MAX (R268). -/
def SEAL_JNL_MAX : Reg := mk "SEAL_JNL_MAX" 0x6101 0x02 .u32 .rc 0 (.upto 128)

/-- SEAL_JNL_STATE (R268). -/
def SEAL_JNL_STATE : Reg := mk "SEAL_JNL_STATE" 0x6101 0x03 .u8 .ro 0 (.upto 128)

/-- SEAL_JNL_OVF (R268). -/
def SEAL_JNL_OVF : Reg := mk "SEAL_JNL_OVF" 0x6101 0x04 .u32 .ro 0 (.upto 128)

/-- SEAL_BUDDY (R268). -/
def SEAL_BUDDY : Reg := { mk "SEAL_BUDDY" 0x6102 0x01 .u32 .rw 0xFFFFFFFF (.upto 128) with range := [(0, 131071), (0xFFFFFFFE, 0xFFFFFFFF)] }

/-- SEAL_BUDDY_STATE (R268). -/
def SEAL_BUDDY_STATE : Reg := mk "SEAL_BUDDY_STATE" 0x6102 0x02 .u8 .ro 0 (.upto 128)

/-- SEAL_BUDDY_SEAL (R268). -/
def SEAL_BUDDY_SEAL : Reg := mk "SEAL_BUDDY_SEAL" 0x6102 0x03 .u32 .ro 0xFFFFFFFF (.upto 128)

/-- SEAL_DELTA_EARLY (R268). -/
def SEAL_DELTA_EARLY : Reg := mk "SEAL_DELTA_EARLY" 0x6102 0x04 .u64 .ro 0 (.upto 128)

/-- SEAL_DELTA_STOP (R268). -/
def SEAL_DELTA_STOP : Reg := mk "SEAL_DELTA_STOP" 0x6102 0x05 .u64 .ro 0 (.upto 128)

/-- SEAL_DELTA_WAIT_MS (R268). -/
def SEAL_DELTA_WAIT_MS : Reg := { mk "SEAL_DELTA_WAIT_MS" 0x6102 0x06 .u16 .rw 100 (.upto 128) with range := [(0, 60000)] }

/-- SEAL_UNPROT_MAX (R268). -/
def SEAL_UNPROT_MAX : Reg := { mk "SEAL_UNPROT_MAX" 0x6102 0x07 .u8 .rw 4 (.upto 128) with range := [(1, 255)] }

/-- SEAL_SPARE_STATE (R268). -/
def SEAL_SPARE_STATE : Reg := mk "SEAL_SPARE_STATE" 0x6103 0x01 .u8 .ro 0 (.upto 128)

/-- SEAL_ADOPT_RANK (R268). -/
def SEAL_ADOPT_RANK : Reg := { mk "SEAL_ADOPT_RANK" 0x6103 0x02 .u32 .rw 0 (.upto 128) with range := [(0, 131071)] }

/-- SEAL_ADOPT_HOST (R268). -/
def SEAL_ADOPT_HOST : Reg := { mk "SEAL_ADOPT_HOST" 0x6103 0x03 .u32 .rw 0 (.upto 128) with range := [(0, 131071)] }

/-- SEAL_ADOPT_CMD (R268). -/
def SEAL_ADOPT_CMD : Reg := { mk "SEAL_ADOPT_CMD" 0x6103 0x04 .u8 .wo 0 (.upto 128) with range := [(1, 1)] }

/-- SEAL_ADOPT_RESULT (R268). -/
def SEAL_ADOPT_RESULT : Reg := mk "SEAL_ADOPT_RESULT" 0x6103 0x05 .u8 .ro 0 (.upto 128)

/-- CLV_HB_US (R295). -/
def CLV_HB_US : Reg := { mk "CLV_HB_US" 0x6200 0x01 .u16 .rw 100 .zero with range := [(50, 1000)] }

/-- CLV_HB_MISS (R295). -/
def CLV_HB_MISS : Reg := { mk "CLV_HB_MISS" 0x6200 0x02 .u8 .rw 20 .zero with range := [(4, 91)] }

/-- CLV_PROBE_US (R295). -/
def CLV_PROBE_US : Reg := { mk "CLV_PROBE_US" 0x6200 0x03 .u16 .rw 600 .zero with range := [(100, 4490)] }

/-- CLV_PROBE_TRIES (R295). -/
def CLV_PROBE_TRIES : Reg := { mk "CLV_PROBE_TRIES" 0x6200 0x04 .u8 .rw 2 .zero with range := [(1, 8)] }

/-- CLV_ARB_WAIT_US (R295). -/
def CLV_ARB_WAIT_US : Reg := { mk "CLV_ARB_WAIT_US" 0x6200 0x05 .u16 .rw 1500 .zero with range := [(200, 4590)] }

/-- CLV_TALLY_CH (R295). -/
def CLV_TALLY_CH : Reg := { mk "CLV_TALLY_CH" 0x6200 0x06 .u8 .rw 15 .zero with range := [(0, 15)] }

/-- CLV_NBR_STATE (R295). -/
def CLV_NBR_STATE : Reg := mk "CLV_NBR_STATE" 0x6201 0x01 .u8 .ro 0 (.upto 6)

/-- CLV_NBR_CHIP (R295). -/
def CLV_NBR_CHIP : Reg := mk "CLV_NBR_CHIP" 0x6201 0x02 .u32 .ro 0xFFFFFFFF (.upto 6)

/-- CLV_NBR_ALIVE (R295). -/
def CLV_NBR_ALIVE : Reg := mk "CLV_NBR_ALIVE" 0x6201 0x03 .u32 .ro 0 (.upto 6)

/-- CLV_NBR_GAPS (R295). -/
def CLV_NBR_GAPS : Reg := mk "CLV_NBR_GAPS" 0x6201 0x04 .u32 .ro 0 (.upto 6)

/-- CLV_NBR_REPEAT (R295). -/
def CLV_NBR_REPEAT : Reg := mk "CLV_NBR_REPEAT" 0x6201 0x05 .u32 .ro 0 (.upto 6)

/-- CLV_STATE (R295). -/
def CLV_STATE : Reg := mk "CLV_STATE" 0x6202 0x01 .u8 .ro 2 .zero

/-- CLV_FAILED_N (R295). -/
def CLV_FAILED_N : Reg := mk "CLV_FAILED_N" 0x6202 0x02 .u16 .ro 0 .zero

/-- CLV_NOTICES (R295). -/
def CLV_NOTICES : Reg := mk "CLV_NOTICES" 0x6202 0x03 .u32 .ro 0 .zero

/-- CLV_NOTICE_DUP (R295). -/
def CLV_NOTICE_DUP : Reg := mk "CLV_NOTICE_DUP" 0x6202 0x04 .u32 .ro 0 .zero

/-- CLV_REJECTS (R295). -/
def CLV_REJECTS : Reg := mk "CLV_REJECTS" 0x6202 0x05 .u32 .ro 0 .zero

/-- CLV_PROBE_LATE (R295). -/
def CLV_PROBE_LATE : Reg := mk "CLV_PROBE_LATE" 0x6202 0x06 .u32 .ro 0 .zero

/-- CLV_DECIDE_LAST_US (R295). -/
def CLV_DECIDE_LAST_US : Reg := mk "CLV_DECIDE_LAST_US" 0x6202 0x07 .u32 .ro 0 .zero

/-- CLV_DROP (R295). -/
def CLV_DROP : Reg := mk "CLV_DROP" 0x6202 0x08 .u32 .ro 0 .zero

/-- CLV_ROOT (R295). -/
def CLV_ROOT : Reg := { mk "CLV_ROOT" 0x6203 0x01 .u32 .rw 0xFFFFFFFF (.upto 128) with range := [(0, 131071), (0xFFFFFFFF, 0xFFFFFFFF)] }

/-- CLV_T0_MARGIN_US (R295). -/
def CLV_T0_MARGIN_US : Reg := { mk "CLV_T0_MARGIN_US" 0x6203 0x02 .u16 .rw 20 (.upto 128) with range := [(20, 10000)] }

/-- CLV_PARENT (R295). -/
def CLV_PARENT : Reg := mk "CLV_PARENT" 0x6203 0x03 .u32 .ro 0xFFFFFFFF (.upto 128)

/-- CLV_DEPTH (R295). -/
def CLV_DEPTH : Reg := mk "CLV_DEPTH" 0x6203 0x04 .u8 .ro 0 (.upto 128)

/-- CLV_STW_POS (R295). -/
def CLV_STW_POS : Reg := mk "CLV_STW_POS" 0x6210 0x01 .u8 .ro 0 .zero

/-- CLV_STW_ROLE (R295). -/
def CLV_STW_ROLE : Reg := mk "CLV_STW_ROLE" 0x6210 0x02 .u8 .ro 0 .zero

/-- CLV_STW_STATE (R295). -/
def CLV_STW_STATE : Reg := mk "CLV_STW_STATE" 0x6210 0x03 .u8 .ro 0 .zero

/-- CLV_STW_CMD (R295). -/
def CLV_STW_CMD : Reg := { mk "CLV_STW_CMD" 0x6210 0x04 .u8 .wo 0 .zero with range := [(1, 1)] }

/-- CLV_STW_SEQ (R295). -/
def CLV_STW_SEQ : Reg := mk "CLV_STW_SEQ" 0x6210 0x05 .u16 .ro 0 .zero

/-- CLV_STW_DUP (R295). -/
def CLV_STW_DUP : Reg := mk "CLV_STW_DUP" 0x6210 0x06 .u32 .ro 0 .zero

/-- CLV_STW_DIVERGE (R295). -/
def CLV_STW_DIVERGE : Reg := mk "CLV_STW_DIVERGE" 0x6210 0x07 .u32 .ro 0 .zero

/-- CLV_STW_COPY_ERR (R295). -/
def CLV_STW_COPY_ERR : Reg := mk "CLV_STW_COPY_ERR" 0x6210 0x08 .u32 .ro 0 .zero

/-- CLV_TRAY_ID (R295). -/
def CLV_TRAY_ID : Reg := mk "CLV_TRAY_ID" 0x6210 0x09 .u32 .ro 0 .zero

/-- HLT_SCORE (R295). -/
def HLT_SCORE : Reg := mk "HLT_SCORE" 0x9000 0x01 .u16 .ro 1000 .parts

/-- HLT_BAND (R295). -/
def HLT_BAND : Reg := mk "HLT_BAND" 0x9000 0x02 .u8 .ro 0 .parts

/-- HLT_PEN_FIXED (R295). -/
def HLT_PEN_FIXED : Reg := mk "HLT_PEN_FIXED" 0x9000 0x03 .u16 .ro 0 .parts

/-- HLT_PEN_DECAY (R295). -/
def HLT_PEN_DECAY : Reg := mk "HLT_PEN_DECAY" 0x9000 0x04 .u32 .ro 0 .parts

/-- HLT_ADVISE_THR (R295). -/
def HLT_ADVISE_THR : Reg := { mk "HLT_ADVISE_THR" 0x9001 0x01 .u16 .rw 400 .zero with range := [(100, 900)] }

/-- HLT_CRIT_THR (R295). -/
def HLT_CRIT_THR : Reg := { mk "HLT_CRIT_THR" 0x9001 0x02 .u16 .rw 150 .zero with range := [(0, 899)] }

/-- HLT_HALF_LIFE_H (R295). -/
def HLT_HALF_LIFE_H : Reg := { mk "HLT_HALF_LIFE_H" 0x9001 0x03 .u16 .rw 168 .zero with range := [(24, 8760)] }

/-- HLT_CHIP_SCORE (R295). -/
def HLT_CHIP_SCORE : Reg := mk "HLT_CHIP_SCORE" 0x9001 0x04 .u16 .ro 1000 .zero

/-- RST_IMG_SLOT (R307). -/
def RST_IMG_SLOT : Reg := { mk "RST_IMG_SLOT" 0x2040 0x01 .u8 .rw 0 .zero with range := [(0, 1)] }

/-- RST_IMG_OFFSET (R307). -/
def RST_IMG_OFFSET : Reg := { mk "RST_IMG_OFFSET" 0x2040 0x02 .u32 .rw 0 .zero with range := [(0, 8388607)] }

/-- RST_IMG_DATA (R307). -/
def RST_IMG_DATA : Reg := mk "RST_IMG_DATA" 0x2040 0x03 (.domain 1016) .wo 0 .zero

/-- RST_IMG_CMD (R307). -/
def RST_IMG_CMD : Reg := { mk "RST_IMG_CMD" 0x2040 0x04 .u8 .wo 0 .zero with range := [(1, 2)] }

/-- RST_IMG_STATE (R307). -/
def RST_IMG_STATE : Reg := mk "RST_IMG_STATE" 0x2040 0x05 .u8 .ro 0 .zero

/-- RST_CAUSE (R323). -/
def RST_CAUSE : Reg := mk "RST_CAUSE" 0x2000 0x01 .u32 .ro 0x00000001 .zero

/-- RST_CMD (R323). -/
def RST_CMD : Reg := { mk "RST_CMD" 0x2000 0x02 .u8 .wo 0 .zero with range := [(1, 2)] }

/-- RST_STAGE (R323). -/
def RST_STAGE : Reg := mk "RST_STAGE" 0x2000 0x03 .u8 .ro 1 .zero

/-- RST_BOOT (R323). -/
def RST_BOOT : Reg := mk "RST_BOOT" 0x2000 0x04 .u32 .ro 0 .zero

/-- RST_HELD (R323). -/
def RST_HELD : Reg := mk "RST_HELD" 0x2000 0x05 .bool .ro 0 .zero

/-- RST_GLITCH (R323). -/
def RST_GLITCH : Reg := mk "RST_GLITCH" 0x2000 0x06 .u32 .ro 0 .zero

/-- RST_STORM (R323). -/
def RST_STORM : Reg := mk "RST_STORM" 0x2000 0x07 .u8 .ro 0 .zero

/-- RST_WDT_MS (R323). -/
def RST_WDT_MS : Reg := { mk "RST_WDT_MS" 0x2000 0x08 .u16 .rws 500 .zero with range := [(100, 10000)] }

/-- RST_STAGE_MS (R323). -/
def RST_STAGE_MS : Reg := mk "RST_STAGE_MS" 0x2001 0x01 .u32 .ro 0 .stages

/-- RST_STRAP_CODE (R323). -/
def RST_STRAP_CODE : Reg := mk "RST_STRAP_CODE" 0x2002 0x01 .u8 .ro 0 .zero

/-- RST_STRAP_ADC (R323). -/
def RST_STRAP_ADC : Reg := mk "RST_STRAP_ADC" 0x2002 0x02 .u16 .ro 0 .zero

/-- RST_BKP (R323). -/
def RST_BKP : Reg := mk "RST_BKP" 0x2010 0x01 .u32 .rws 0 (.upto 32)

/-- RST_RMEM (R323). -/
def RST_RMEM : Reg := mk "RST_RMEM" 0x2011 0x01 (.domain 65536) .rws 0 .zero

/-- RST_DOM_CMD (R323). -/
def RST_DOM_CMD : Reg := { mk "RST_DOM_CMD" 0x2020 0x01 .u8 .wo 0 .domains with range := [(1, 1)] }

/-- RST_DOM_STATE (R323). -/
def RST_DOM_STATE : Reg := mk "RST_DOM_STATE" 0x2020 0x02 .u8 .ro 0 .domains

/-- RST_DOM_GEN (R323). -/
def RST_DOM_GEN : Reg := mk "RST_DOM_GEN" 0x2020 0x03 .u8 .ro 0 .domains

/-- RST_DOM_COUNT (R323). -/
def RST_DOM_COUNT : Reg := mk "RST_DOM_COUNT" 0x2020 0x04 .u32 .ro 0 .domains

/-- RST_GK_ANSWERS (R323). -/
def RST_GK_ANSWERS : Reg := mk "RST_GK_ANSWERS" 0x2020 0x05 .u32 .ro 0 .domains

/-- RST_GK_DROP (R323). -/
def RST_GK_DROP : Reg := mk "RST_GK_DROP" 0x2020 0x06 .u32 .ro 0 .domains

/-- RST_LATE (R323). -/
def RST_LATE : Reg := mk "RST_LATE" 0x2021 0x01 .u64 .ro 0 .zero

/-- RST_GEN_CACHE (R323). -/
def RST_GEN_CACHE : Reg := mk "RST_GEN_CACHE" 0x2021 0x02 .u16 .ro 0 .zero

/-- RST_TMO_MULT (R323). -/
def RST_TMO_MULT : Reg := { mk "RST_TMO_MULT" 0x2030 0x01 .u8 .rw 2 .zero with range := [(2, 16)] }

/-- RST_TMO_FLOOR_US (R323). -/
def RST_TMO_FLOOR_US : Reg := { mk "RST_TMO_FLOOR_US" 0x2030 0x02 .u32 .rw 100 .zero with range := [(100, 100000)] }

/-- RST_TMO_COUNT (R323). -/
def RST_TMO_COUNT : Reg := mk "RST_TMO_COUNT" 0x2030 0x03 .u32 .ro 0 .zero

/-- PWR_CCLK_KHZ (R323). -/
def PWR_CCLK_KHZ : Reg := mk "PWR_CCLK_KHZ" 0x2100 0x01 .u32 .ro 0 .zero

/-- PWR_CCLK_MAX_KHZ (R323). -/
def PWR_CCLK_MAX_KHZ : Reg := mk "PWR_CCLK_MAX_KHZ" 0x2100 0x02 .u32 .const 0 .zero

/-- PWR_STRETCH_NS (R323). -/
def PWR_STRETCH_NS : Reg := mk "PWR_STRETCH_NS" 0x2100 0x03 .u64 .ro 0 .zero

/-- PWR_CAP_W (R323). -/
def PWR_CAP_W : Reg := { mk "PWR_CAP_W" 0x2101 0x01 .u16 .rws 1600 .zero with range := [(300, 1600)] }

/-- PWR_NOW_W (R323). -/
def PWR_NOW_W : Reg := mk "PWR_NOW_W" 0x2101 0x02 .u16 .ro 0 .zero

/-- PWR_MAX_W (R323). -/
def PWR_MAX_W : Reg := mk "PWR_MAX_W" 0x2101 0x03 .u16 .rc 0 .zero

/-- PWR_OVER_MS (R323). -/
def PWR_OVER_MS : Reg := { mk "PWR_OVER_MS" 0x2101 0x04 .u16 .rw 10 .zero with range := [(1, 1000)] }

/-- PWR_AVS_GUARD_MV (R323). -/
def PWR_AVS_GUARD_MV : Reg := { mk "PWR_AVS_GUARD_MV" 0x2101 0x05 .u8 .rw 15 .zero with range := [(10, 50)] }

/-- PWR_VDD_MV (R323). -/
def PWR_VDD_MV : Reg := mk "PWR_VDD_MV" 0x2101 0x06 .u16 .ro 0 .zero

/-- PWR_TJ_CLAMP_C (R323). -/
def PWR_TJ_CLAMP_C : Reg := { mk "PWR_TJ_CLAMP_C" 0x2101 0x07 .u8 .rw 100 .zero with range := [(70, 105)] }

/-- PWR_TJ_MAX_C (R323). -/
def PWR_TJ_MAX_C : Reg := mk "PWR_TJ_MAX_C" 0x2101 0x08 .u8 .rc 0 .zero

/-- PWR_CLAMPS (R323). -/
def PWR_CLAMPS : Reg := mk "PWR_CLAMPS" 0x2101 0x09 .u32 .ro 0 .zero

/-- LDG_RATE (R349). -/
def LDG_RATE : Reg := { mk "LDG_RATE" 0x7000 0x01 .u8 .rw 8 .zero with range := [(1, 255)] }

/-- LDG_BURST (R349). -/
def LDG_BURST : Reg := { mk "LDG_BURST" 0x7000 0x02 .u8 .rw 32 .zero with range := [(1, 255)] }

/-- LDG_CLEAR (R349). -/
def LDG_CLEAR : Reg := { mk "LDG_CLEAR" 0x7000 0x03 .u8 .wo 0 .zero with range := [(1, 3)] }

/-- LDG_FLUSH_MS (R349). -/
def LDG_FLUSH_MS : Reg := { mk "LDG_FLUSH_MS" 0x7000 0x04 .u16 .rw 1000 .zero with range := [(10, 10000)] }

/-- LDG_OVR (R349). -/
def LDG_OVR : Reg := mk "LDG_OVR" 0x7001 0x01 .u32 .rw 0 (.upto 64)

/-- LDG_VOL_FIRST_N (R349). -/
def LDG_VOL_FIRST_N : Reg := mk "LDG_VOL_FIRST_N" 0x7002 0x01 .u16 .ro 0 .zero

/-- LDG_VOL_LAST_N (R349). -/
def LDG_VOL_LAST_N : Reg := mk "LDG_VOL_LAST_N" 0x7002 0x02 .u16 .ro 0 .zero

/-- LDG_PER_FIRST_N (R349). -/
def LDG_PER_FIRST_N : Reg := mk "LDG_PER_FIRST_N" 0x7002 0x03 .u16 .ro 0 .zero

/-- LDG_PER_LAST_N (R349). -/
def LDG_PER_LAST_N : Reg := mk "LDG_PER_LAST_N" 0x7002 0x04 .u16 .ro 0 .zero

/-- LDG_SUPPRESSED (R349). -/
def LDG_SUPPRESSED : Reg := mk "LDG_SUPPRESSED" 0x7002 0x05 .u64 .ro 0 .zero

/-- LDG_SUPP_PEND (R349). -/
def LDG_SUPP_PEND : Reg := mk "LDG_SUPP_PEND" 0x7002 0x06 .u16 .ro 0 .zero

/-- LDG_LOST (R349). -/
def LDG_LOST : Reg := mk "LDG_LOST" 0x7002 0x07 .u32 .ro 0 .zero

/-- LDG_FLASH_DROP (R349). -/
def LDG_FLASH_DROP : Reg := mk "LDG_FLASH_DROP" 0x7002 0x08 .u32 .ro 0 .zero

/-- LDG_FLASH_PEND (R349). -/
def LDG_FLASH_PEND : Reg := mk "LDG_FLASH_PEND" 0x7002 0x09 .u16 .ro 0 .zero

/-- LDG_FLASH_ERASE_MAX (R349). -/
def LDG_FLASH_ERASE_MAX : Reg := mk "LDG_FLASH_ERASE_MAX" 0x7002 0x0A .u32 .ro 0 .zero

/-- LDG_BADCRC (R349). -/
def LDG_BADCRC : Reg := mk "LDG_BADCRC" 0x7002 0x0B .u32 .ro 0 .zero

/-- LDG_REC_VOL_FIRST (R349). -/
def LDG_REC_VOL_FIRST : Reg := mk "LDG_REC_VOL_FIRST" 0x7010 0x1 (.domain 32) .ro 0 (.upto 512)

/-- LDG_REC_VOL_LAST (R349). -/
def LDG_REC_VOL_LAST : Reg := mk "LDG_REC_VOL_LAST" 0x7010 0x2 (.domain 32) .ro 0 (.upto 1536)

/-- LDG_REC_PER_FIRST (R349). -/
def LDG_REC_PER_FIRST : Reg := mk "LDG_REC_PER_FIRST" 0x7010 0x3 (.domain 32) .ro 0 (.upto 16384)

/-- LDG_REC_PER_LAST (R349). -/
def LDG_REC_PER_LAST : Reg := mk "LDG_REC_PER_LAST" 0x7010 0x4 (.domain 32) .ro 0 (.upto 49152)

/-- ID_VENDOR (R376). -/
def ID_VENDOR : Reg := mk "ID_VENDOR" 0x1000 0x01 (.string 16) .const 0 .zero

/-- ID_FAMILY (R376). -/
def ID_FAMILY : Reg := mk "ID_FAMILY" 0x1000 0x02 (.string 16) .const 0 .zero

/-- ID_PART (R376). -/
def ID_PART : Reg := mk "ID_PART" 0x1000 0x03 (.string 16) .const 0 .zero

/-- ID_STEPPING (R376). -/
def ID_STEPPING : Reg := mk "ID_STEPPING" 0x1000 0x04 (.string 4) .const 0 .zero

/-- ID_SERIAL (R376). -/
def ID_SERIAL : Reg := mk "ID_SERIAL" 0x1000 0x05 (.string 24) .const 0 .zero

/-- ID_EUI64 (R376). -/
def ID_EUI64 : Reg := mk "ID_EUI64" 0x1000 0x06 .u64 .const 0 .zero

/-- ID_MAC (R376). -/
def ID_MAC : Reg := mk "ID_MAC" 0x1000 0x07 .u64 .const 0 .zero

/-- ID_FW_VER (R376). -/
def ID_FW_VER : Reg := mk "ID_FW_VER" 0x1000 0x08 .u32 .ro 0 .zero

/-- ID_FW_SLOT (R376). -/
def ID_FW_SLOT : Reg := mk "ID_FW_SLOT" 0x1000 0x09 .u8 .ro 0 .zero

/-- ID_ROLLBACK (R376). -/
def ID_ROLLBACK : Reg := mk "ID_ROLLBACK" 0x1000 0x0A .u32 .ro 0 .zero

/-- ID_DICT_VER (R376). -/
def ID_DICT_VER : Reg := mk "ID_DICT_VER" 0x1000 0x0B .u16 .const 0x0001 .zero

/-- MGT_T1S_STATE (R376). -/
def MGT_T1S_STATE : Reg := mk "MGT_T1S_STATE" 0x1100 0x01 .u8 .ro 0 .zero

/-- MGT_PLCA_NODE (R376). -/
def MGT_PLCA_NODE : Reg := mk "MGT_PLCA_NODE" 0x1100 0x02 .u8 .ro 0 .zero

/-- MGT_PLCA_COUNT (R376). -/
def MGT_PLCA_COUNT : Reg := { mk "MGT_PLCA_COUNT" 0x1100 0x03 .u8 .rw 8 .zero with range := [(5, 32)] }

/-- MGT_PLCA_TO (R376). -/
def MGT_PLCA_TO : Reg := { mk "MGT_PLCA_TO" 0x1100 0x04 .u8 .rw 32 .zero with range := [(20, 255)] }

/-- MGT_SESS_IDLE_S (R376). -/
def MGT_SESS_IDLE_S : Reg := { mk "MGT_SESS_IDLE_S" 0x1100 0x05 .u16 .rw 60 .zero with range := [(10, 3600)] }

/-- MGT_RELAY_US (R376). -/
def MGT_RELAY_US : Reg := { mk "MGT_RELAY_US" 0x1100 0x06 .u32 .rw 2000 .zero with range := [(200, 100000)] }

/-- MGT_VC0_US (R376). -/
def MGT_VC0_US : Reg := { mk "MGT_VC0_US" 0x1100 0x07 .u32 .rw 2000 .zero with range := [(200, 100000)] }

/-- MGT_SESS (R376). -/
def MGT_SESS : Reg := { mk "MGT_SESS" 0x1101 0x01 .record .ro 0 (.upto 16) with members := [8, 1, 1, 4, 2] }

/-- MGT_OPENS (R376). -/
def MGT_OPENS : Reg := mk "MGT_OPENS" 0x1102 0x01 .u32 .ro 0 .zero

/-- MGT_AUTH_FAIL (R376). -/
def MGT_AUTH_FAIL : Reg := mk "MGT_AUTH_FAIL" 0x1102 0x02 .u32 .ro 0 .zero

/-- MGT_RX_DROP (R376). -/
def MGT_RX_DROP : Reg := mk "MGT_RX_DROP" 0x1102 0x03 .u32 .ro 0 .zero

/-- MGT_REPEATS (R376). -/
def MGT_REPEATS : Reg := mk "MGT_REPEATS" 0x1102 0x04 .u32 .ro 0 .zero

/-- MGT_SEQ_ERR (R376). -/
def MGT_SEQ_ERR : Reg := mk "MGT_SEQ_ERR" 0x1102 0x05 .u32 .ro 0 .zero

/-- MGT_RELAY_TMO (R376). -/
def MGT_RELAY_TMO : Reg := mk "MGT_RELAY_TMO" 0x1102 0x06 .u32 .ro 0 .zero

/-- MGT_WIN_REFUSED (R376). -/
def MGT_WIN_REFUSED : Reg := mk "MGT_WIN_REFUSED" 0x1102 0x07 .u32 .ro 0 .zero

/-- MGT_WIN_LAST (R376). -/
def MGT_WIN_LAST : Reg := mk "MGT_WIN_LAST" 0x1102 0x08 .u16 .rc 0 .zero

/-- MGT_GROUP (R376). -/
def MGT_GROUP (k : Nat) : Reg := mk "MGT_GROUP" 0x1110 (0x1 + k) .u32 .rw 0xFFFF0000 (.upto 256)

/-- MGT_KEY_OBS (R376). -/
def MGT_KEY_OBS : Reg := mk "MGT_KEY_OBS" 0x1120 0x01 (.domain 32) .wo 0 .zero

/-- MGT_KEY_OPR (R376). -/
def MGT_KEY_OPR : Reg := mk "MGT_KEY_OPR" 0x1120 0x02 (.domain 32) .wo 0 .zero

/-- MGT_KEY_TRAY (R376). -/
def MGT_KEY_TRAY : Reg := mk "MGT_KEY_TRAY" 0x1120 0x03 (.domain 32) .wo 0 .zero

/-- MGT_KEY_FAB0 (R376). -/
def MGT_KEY_FAB0 : Reg := mk "MGT_KEY_FAB0" 0x1120 0x4 (.domain 32) .wo 0 .zero

/-- MGT_KEY_FAB1 (R376). -/
def MGT_KEY_FAB1 : Reg := mk "MGT_KEY_FAB1" 0x1120 0x5 (.domain 32) .wo 0 .zero

/-- MGT_KEY_FAB_SEL (R376). -/
def MGT_KEY_FAB_SEL : Reg := { mk "MGT_KEY_FAB_SEL" 0x1120 0x06 .u8 .rw 0 .zero with range := [(0, 1)] }

/-- MGT_KEY_SET (R376). -/
def MGT_KEY_SET : Reg := mk "MGT_KEY_SET" 0x1120 0x07 .u8 .ro 0 .zero

/-- CNT_CYCLES (R401). -/
def CNT_CYCLES : Reg := mk "CNT_CYCLES" 0x8000 0x01 .u64 .ro 0 .engines

/-- CNT_BUSY (R401). -/
def CNT_BUSY : Reg := mk "CNT_BUSY" 0x8000 0x2 .u64 .ro 0 .engines

/-- CNT_STALLED (R401). -/
def CNT_STALLED : Reg := mk "CNT_STALLED" 0x8000 0x3 .u64 .ro 0 .engines

/-- CNT_IDLE (R401). -/
def CNT_IDLE : Reg := mk "CNT_IDLE" 0x8000 0x4 .u64 .ro 0 .engines

/-- CNT_REASON (R401). -/
def CNT_REASON : Reg := mk "CNT_REASON" 0x8000 0x05 .u8 .ro 0 .engines

/-- CNT_STALL (R401). -/
def CNT_STALL (k : Nat) : Reg := mk "CNT_STALL" 0x8000 (0x10 + k) .u64 .ro 0 .engines

/-- CNT_ALL (R401). -/
def CNT_ALL : Reg := { mk "CNT_ALL" 0x8000 0x20 .record .ro 0 .engines with members := [8, 8, 8, 8, 8, 8, 8, 8, 8, 8, 8, 8, 8, 8, 8, 8, 8, 8, 8, 8] }

/-- FRZ_AT (R401). -/
def FRZ_AT : Reg := mk "FRZ_AT" 0x8100 0x01 .u64 .rw 0 .zero

/-- FRZ_STATE (R401). -/
def FRZ_STATE : Reg := mk "FRZ_STATE" 0x8100 0x02 .u8 .ro 0 .zero

/-- FRZ_LAST (R401). -/
def FRZ_LAST : Reg := mk "FRZ_LAST" 0x8100 0x03 .u64 .ro 0 .zero

/-- FRZ_COUNT (R401). -/
def FRZ_COUNT : Reg := mk "FRZ_COUNT" 0x8100 0x04 .u32 .ro 0 .zero

/-- FRZ_MISSED (R401). -/
def FRZ_MISSED : Reg := mk "FRZ_MISSED" 0x8100 0x05 .u32 .ro 0 .zero

/-- FRZ_POD_AT (R401). -/
def FRZ_POD_AT : Reg := mk "FRZ_POD_AT" 0x8100 0x06 .u64 .rw 0 .zero

/-- FRZ_POD_BOX (R401). -/
def FRZ_POD_BOX : Reg := { mk "FRZ_POD_BOX" 0x8100 0x07 .u64 .rw 0 .zero with mask := 0x3FFFFFFFF }

/-- FRZ_POD_GO (R401). -/
def FRZ_POD_GO : Reg := { mk "FRZ_POD_GO" 0x8100 0x08 .u8 .wo 0 .zero with range := [(1, 1)] }

/-- TRC_MASK (R401). -/
def TRC_MASK : Reg := { mk "TRC_MASK" 0x8200 0x01 .u8 .rw 0x41 (.upto 128) with mask := 0x7F }

/-- TRC_RING_PAGE (R401). -/
def TRC_RING_PAGE : Reg := mk "TRC_RING_PAGE" 0x8200 0x02 .u32 .rw 0 (.upto 128)

/-- TRC_RING_PAGES (R401). -/
def TRC_RING_PAGES : Reg := { mk "TRC_RING_PAGES" 0x8200 0x03 .u16 .rw 0 (.upto 128) with range := [(0, 16384)] }

/-- TRC_HEAD (R401). -/
def TRC_HEAD : Reg := mk "TRC_HEAD" 0x8200 0x04 .u64 .ro 0 (.upto 128)

/-- TRC_DROP (R401). -/
def TRC_DROP : Reg := mk "TRC_DROP" 0x8200 0x05 .u64 .ro 0 (.upto 128)

/-- TRC_NEWEST (R401). -/
def TRC_NEWEST : Reg := mk "TRC_NEWEST" 0x8200 0x06 .u64 .ro 0 (.upto 128)

/-- TRC_FCC_MARK (R401). -/
def TRC_FCC_MARK : Reg := { mk "TRC_FCC_MARK" 0x8201 0x01 .u64 .wo 0 .zero with mask := 0xFFFFFFFFFFFF0000 }

/-- WCH_LIVE (R401). -/
def WCH_LIVE (k : Nat) : Reg := { mk "WCH_LIVE" 0x8300 (0x1 + k) .record .ro 0 (.upto 128) with members := [4, 1, 1, 4, 8, 4, 4, 4, 8, 8, 8, 4, 4, 4, 4, 4, 4, 4, 4, 4, 4, 4, 4, 4, 4, 4, 4, 4, 8] }

/-- WCH_SEALED (R401). -/
def WCH_SEALED (k : Nat) : Reg := { mk "WCH_SEALED" 0x8301 (0x1 + k) .record .ro 0 (.upto 128) with members := [4, 1, 1, 4, 8, 4, 4, 4, 8, 8, 8, 4, 4, 4, 4, 4, 4, 4, 4, 4, 4, 4, 4, 4, 4, 4, 4, 4, 8] }

/-- WCH_INACTIVE (R401). -/
def WCH_INACTIVE : Reg := mk "WCH_INACTIVE" 0x8302 0x01 .u16 .ro 0 .zero

/-- LIFE_POWERED_S (R401). -/
def LIFE_POWERED_S : Reg := mk "LIFE_POWERED_S" 0x9010 0x01 .u64 .ro 0 .zero

/-- LIFE_MAIN_S (R401). -/
def LIFE_MAIN_S : Reg := mk "LIFE_MAIN_S" 0x9010 0x02 .u64 .ro 0 .zero

/-- LIFE_ENERGY_J (R401). -/
def LIFE_ENERGY_J : Reg := mk "LIFE_ENERGY_J" 0x9010 0x03 .u64 .ro 0 .zero

/-- LIFE_POWER_ONS (R401). -/
def LIFE_POWER_ONS : Reg := mk "LIFE_POWER_ONS" 0x9010 0x04 .u32 .ro 0 .zero

/-- LIFE_TEMP_S (R401). -/
def LIFE_TEMP_S (k : Nat) : Reg := mk "LIFE_TEMP_S" 0x9010 (0x5 + k) .u64 .ro 0 .zero

/-- LIFE_VOLT_S (R401). -/
def LIFE_VOLT_S (k : Nat) : Reg := mk "LIFE_VOLT_S" 0x9010 (0xb + k) .u64 .ro 0 .zero

/-- LIFE_SRAM_CORR (R401). -/
def LIFE_SRAM_CORR : Reg := mk "LIFE_SRAM_CORR" 0x9010 0x11 .u64 .ro 0 .zero

/-- LIFE_SRAM_UNCORR (R401). -/
def LIFE_SRAM_UNCORR : Reg := mk "LIFE_SRAM_UNCORR" 0x9010 0x12 .u64 .ro 0 .zero

/-- LIFE_HBM_CORR (R401). -/
def LIFE_HBM_CORR : Reg := mk "LIFE_HBM_CORR" 0x9010 0x13 .u64 .ro 0 .zero

/-- LIFE_HBM_UNCORR (R401). -/
def LIFE_HBM_UNCORR : Reg := mk "LIFE_HBM_UNCORR" 0x9010 0x14 .u64 .ro 0 .zero

/-- LIFE_CELL_CORR (R401). -/
def LIFE_CELL_CORR : Reg := mk "LIFE_CELL_CORR" 0x9010 0x15 .u64 .ro 0 .zero

/-- LIFE_CELL_UNCORR (R401). -/
def LIFE_CELL_UNCORR : Reg := mk "LIFE_CELL_UNCORR" 0x9010 0x16 .u64 .ro 0 .zero

/-- LIFE_CHECK_FAIL (R401). -/
def LIFE_CHECK_FAIL : Reg := mk "LIFE_CHECK_FAIL" 0x9010 0x17 .u64 .ro 0 .zero

/-- LIFE_PERMANENT (R401). -/
def LIFE_PERMANENT : Reg := mk "LIFE_PERMANENT" 0x9010 0x18 .u32 .ro 0 .zero

/-- LIFE_RETRAINS (R401). -/
def LIFE_RETRAINS : Reg := mk "LIFE_RETRAINS" 0x9010 0x19 .u64 .ro 0 .zero

/-- LIFE_LANE_OUT (R401). -/
def LIFE_LANE_OUT : Reg := mk "LIFE_LANE_OUT" 0x9010 0x1A .u32 .ro 0 .zero

/-- LIFE_RESETS (R401). -/
def LIFE_RESETS : Reg := mk "LIFE_RESETS" 0x9010 0x1B .u32 .ro 0 .zero

/-- LIFE_TRIPS (R401). -/
def LIFE_TRIPS : Reg := mk "LIFE_TRIPS" 0x9010 0x1C .u32 .ro 0 .zero

/-- LIFE_MARGIN_H (R401). -/
def LIFE_MARGIN_H : Reg := { mk "LIFE_MARGIN_H" 0x9010 0x1D .u16 .rw 168 .zero with range := [(0, 0), (24, 8760)] }

/-- LIFE_MARGIN (R401). -/
def LIFE_MARGIN : Reg := { mk "LIFE_MARGIN" 0x9011 0x01 .record .ro 0 (.upto 8) with members := [8, 4, 1, 2, 2, 4] }

/-- LIFE_MARGIN_REF (R401). -/
def LIFE_MARGIN_REF : Reg := mk "LIFE_MARGIN_REF" 0x9012 0x01 .u16 .ro 0 (.stride 8 16 10)

/-- CNT_FRZ_CYCLES (R401). -/
def CNT_FRZ_CYCLES : Reg := mk "CNT_FRZ_CYCLES" 0x8001 0x01 .u64 .ro 0 .engines

/-- CNT_FRZ_BUSY (R401). -/
def CNT_FRZ_BUSY : Reg := mk "CNT_FRZ_BUSY" 0x8001 0x2 .u64 .ro 0 .engines

/-- CNT_FRZ_STALLED (R401). -/
def CNT_FRZ_STALLED : Reg := mk "CNT_FRZ_STALLED" 0x8001 0x3 .u64 .ro 0 .engines

/-- CNT_FRZ_IDLE (R401). -/
def CNT_FRZ_IDLE : Reg := mk "CNT_FRZ_IDLE" 0x8001 0x4 .u64 .ro 0 .engines

/-- CNT_FRZ_REASON (R401). -/
def CNT_FRZ_REASON : Reg := mk "CNT_FRZ_REASON" 0x8001 0x05 .u8 .ro 0 .engines

/-- CNT_FRZ_STALL (R401). -/
def CNT_FRZ_STALL (k : Nat) : Reg := mk "CNT_FRZ_STALL" 0x8001 (0x10 + k) .u64 .ro 0 .engines

/-- CNT_FRZ_ALL (R401). -/
def CNT_FRZ_ALL : Reg := { mk "CNT_FRZ_ALL" 0x8001 0x20 .record .ro 0 .engines with members := [8, 8, 8, 8, 8, 8, 8, 8, 8, 8, 8, 8, 8, 8, 8, 8, 8, 8, 8, 8] }

/-- TLY_CTL of a channel (R342, R343). -/
def TLY_CTL (ch : Nat) : Reg :=
  { mk "TLY_CTL" (0x7100 + ch % 16) 0x01 .u64 .rw 0xFFFF800000 .zero with mask := 0xFFFFFF87CF }

/-- TLY_STATUS of a channel (R342, R344). -/
def TLY_STATUS (ch : Nat) : Reg := mk "TLY_STATUS" (0x7100 + ch % 16) 0x02 .u64 .rw1c 0 .zero

/-- TLY_CMD of a channel (R342). -/
def TLY_CMD (ch : Nat) : Reg := mk "TLY_CMD" (0x7100 + ch % 16) 0x03 .u64 .wo 0 .zero

/-- TLY_START of a channel (R342). -/
def TLY_START (ch : Nat) : Reg := mk "TLY_START" (0x7100 + ch % 16) 0x04 .u64 .rw 0 .zero

/-- TLY_LEN of a channel (R342). -/
def TLY_LEN (ch : Nat) : Reg :=
  { mk "TLY_LEN" (0x7100 + ch % 16) 0x05 .u64 .rw 0 .zero with range := [(8, 2 ^ 47)] }

/-- TLY_CHUNK and TLY_PERIOD_MS of a channel (R342). -/
def TLY_CHUNK (ch : Nat) : Reg := mk "TLY_CHUNK" (0x7100 + ch % 16) 0x06 .u64 .rw 0 .zero

/-- TLY_STRIDE of a channel (R342). -/
def TLY_STRIDE (ch : Nat) : Reg := mk "TLY_STRIDE" (0x7100 + ch % 16) 0x07 .u64 .rw 0 .zero

/-- TLY_EXPECT of a channel (R342). -/
def TLY_EXPECT (ch : Nat) : Reg := mk "TLY_EXPECT" (0x7100 + ch % 16) 0x08 .u64 .rw 0 .zero

/-- TLY_RESULT of a channel (R342). -/
def TLY_RESULT (ch : Nat) : Reg := mk "TLY_RESULT" (0x7100 + ch % 16) 0x09 .u64 .ro 0 .zero

/-- TLY_DONE of a channel (R342). -/
def TLY_DONE (ch : Nat) : Reg := mk "TLY_DONE" (0x7100 + ch % 16) 0x0A .u64 .ro 0 .zero

/-- TLY_MISMATCHES of a channel (R342). -/
def TLY_MISMATCHES (ch : Nat) : Reg := mk "TLY_MISMATCHES" (0x7100 + ch % 16) 0x0B .u64 .ro 0 .zero

/-- TLY_LANE of a channel and lane (R342): last value, gaps and repeats, 16 bytes with the write-only
software input above them. -/
def TLY_LANE (ch lane : Nat) : Reg :=
  { mk "TLY_LANE" (0x7100 + ch % 16) (0x21 + lane) .record .ro 0 .zero with members := [4, 4, 4, 4] }

/-- The registers of one Tally channel (R342). -/
def tallyRegs (ch : Nat) : List Reg :=
  [TLY_CTL ch, TLY_STATUS ch, TLY_CMD ch, TLY_START ch, TLY_LEN ch, TLY_CHUNK ch, TLY_STRIDE ch,
   TLY_EXPECT ch, TLY_RESULT ch, TLY_DONE ch, TLY_MISMATCHES ch] ++
  (List.range 8).map (TLY_LANE ch)

/-- Entries of the dictionary, part 1. -/
def all0 : List Reg :=
  [CMP_ARITH_STAT, CMP_ARITH_SAT, CMP_ARITH_NAN, CMP_ARITH_WRAP, CMP_ARITH_TERN, CMP_ARITH_DOMAIN,
    CMP_ARITH_GIDX, CMP_PLAN_SEED, CMP_PLAN_STATE, CMP_LOAD_STATUS, CMP_LOAD_REASON, CMP_LOAD_OFFSET,
    CMP_LOAD_PLAN, (CMP_LOAD_OVER 0), (CMP_LOAD_OVER 1), (CMP_LOAD_OVER 2), (CMP_LOAD_OVER 3), (CMP_LOAD_OVER
    4), (CMP_LOAD_OVER 5), (CMP_LOAD_OVER 6), (CMP_LOAD_AVAIL 0), (CMP_LOAD_AVAIL 1), (CMP_LOAD_AVAIL 2),
    (CMP_LOAD_AVAIL 3), (CMP_LOAD_AVAIL 4), (CMP_LOAD_AVAIL 5), (CMP_LOAD_AVAIL 6), CMP_SLACK_LAST,
    CMP_SLACK_MAX, CMP_SLACK_MIN, CMP_SLIPS, CMP_SLIP_LAST, CMP_SEQ_A, CMP_SEQ_B, CMP_SEQ_DUP,
    CMP_PLAN_ERR_BANK, CMP_PLAN_ERR_FINAL, CMP_PLAN_ERR_EMPTY, CMP_PLAN_ERR_CTR, CMP_PLAN_ERR_FETCH]

/-- Entries of the dictionary, part 2. -/
def all1 : List Reg :=
  [CMP_PLAN_ERR_DESC, CMP_PART_OWNER, CMP_PART_TAG, CMP_BLOCK_PART, MEM_SLICE_PART, MEM_SLICE_USE,
    MEM_SLICE_HOST, MEM_ZERO_BLOCK, MEM_ZERO_LINE, MEM_ZERO_SLICE, MEM_ZERO_SECTOR, MEM_ZERO_PART,
    MEM_ZERO_HOLD, MEM_ZERO_HOLD_MAX, MEM_SRAM_CORR, MEM_SRAM_UNCORR, MEM_SRAM_POISON, MEM_SRAM_SPARES,
    MEM_HBM_CORR, MEM_HBM_UNCORR, MEM_HBM_POISON, MEM_HBM_ODECC, MEM_HBM_REPAIRS, MEM_HBM_STATE,
    MEM_PATROL_HOURS, MEM_PATROL_DONE, FAB_PORT_ADMIN, FAB_PORT_STATE, FAB_PORT_CAUSE, FAB_PORT_WIDTH_RX,
    FAB_PORT_WIDTH_TX, FAB_PORT_CMD, FAB_PORT_EXPECT, FAB_PORT_PARTNER, FAB_PORT_LAT, FAB_SPARE_POLICY,
    FAB_RETRY, FAB_REPLAYED, FAB_CRC_ERR, FAB_FEC_UNCORR]

/-- Entries of the dictionary, part 3. -/
def all2 : List Reg :=
  [FAB_RETRAIN_FAST, FAB_RETRAIN_FULL, FAB_RETRY_MAX_NS, FAB_REPLAY_NS, FAB_RETRY_LIMIT, FAB_LANE_THR,
    FAB_LANE_STATE, FAB_LANE_ROLE, FAB_LANE_CAUSE, FAB_LANE_FECSYM, FAB_LANE_WINDOW, FAB_LANE_OUT_CLR,
    FAB_CLK_UP, FAB_CLK_ALT, FAB_CLK_STATE, FAB_CLK_DEPTH, FAB_LSR_STATE, FAB_LSR_VENDOR, FAB_LSR_PART,
    FAB_LSR_SERIAL, FAB_LSR_RATED_H, FAB_LSR_HOURS, FAB_LSR_ADVISE, FAB_LSR_BIAS, FAB_LSR_BIAS_RATIO,
    FAB_LSR_POWER, FAB_LSR_ADV_RATIO, FAB_LSR_SPARE_RATIO, FAB_LSR_LIFE_PCT, FAB_LSR_DEF_LIFE_H, FAB_CHIP_ID,
    FAB_TORUS_DIM, FAB_EPOCH_INJ, FAB_EPOCH_DRAIN_MS, FAB_PORT_HOLD_MS, FAB_PKT_LIFE_MS, FAB_HOP_LIMIT,
    FAB_VC3_WEIGHT, FAB_PAUSE_ON, FAB_PAUSE_OFF]

/-- Entries of the dictionary, part 4. -/
def all3 : List Reg :=
  [FAB_PAUSE_TIME, FAB_RT_STATE, FAB_RT_DIM, FAB_DETOUR, FAB_DMAP, FAB_DMAP_OVR, FAB_VC_TX_PKT, FAB_VC_RX_PKT,
    FAB_VC_CREDIT, FAB_VC_WAIT, FAB_VC_PAUSED, FAB_VC_HELD, FAB_CREDIT_FIX, FAB_VC1_RES, FAB_E2E_WIN,
    FAB_E2E_WIN3, FAB_E2E_RTO_US, FAB_E2E_RETRIES, FAB_E2E_CTX, FAB_E2E_DUP, FAB_E2E_RESYNC, FAB_E2E_EXPIRED,
    FAB_SHP_RATE, FAB_SHP_BURST, FAB_SHP_LEVEL, FAB_SHP_HELD, FAB_DROP_AGE, FAB_DROP_HOPS, FAB_DROP_STALE,
    FAB_DROP_NOROUTE, FAB_DROP_BAD, FAB_DROP_VC1, FAB_DROP_MCAST, FAB_DROP_AUTH, HOST_LINK_SPEED,
    HOST_LINK_WIDTH, HOST_LINK_FLIT, HOST_NUM_VF, HOST_FN_QBASE, HOST_FN_QCOUNT]

/-- Entries of the dictionary, part 5. -/
def all4 : List Reg :=
  [HOST_FN_WINPART, HOST_FN_CTL, HOST_FN_STATE, HOST_FN_CMDS, HOST_FN_DB_DROP, HOST_Q_FREE, TIME_NOW_SEC,
    TIME_NOW_NS, TIME_INCR, TIME_STEP_NS, TIME_STEP_PEND, TIME_SERVO, TIME_STEP_THR_NS, TIME_SLEW_PPB,
    TIME_MASTER_PORT, TIME_SYNC_LOG, TIME_PDELAY_LOG, TIME_SYNC_LOSS, TIME_STATE, TIME_HOLDOVER,
    TIME_OFFSET_PS, TIME_PATH_PS, TIME_ALIGN_NS, TIME_ALARM_NS, TIME_ALIGN_EXC, TIME_ASYM_PS, TIME_CAL_TX_PS,
    TIME_CAL_RX_PS, TIME_SYNC_RX, TIME_MSG_DROP, CHK_FA_LIMIT, CHK_COVERAGE, CHK_ENTRIES, CHK_PASS, CHK_FAIL,
    CHK_TRANSIENT, CHK_PERMANENT, CHK_FALSE, CHK_CHECKER_T, CHK_INCONS]

/-- Entries of the dictionary, part 6. -/
def all5 : List Reg :=
  [CHK_WRAP, CHK_PENDING, CHK_PENDING_OVER, CHK_QMAX, CHK_SUBST, CHK_LAST, CHK_FA_LAST, SEAL_STEP, SEAL_LAST,
    SEAL_PROT, SEAL_RUN, SEAL_VOTE, SEAL_LAT_LAST, SEAL_LAT_MAX, SEAL_COUNT, SEAL_UNPROT, SEAL_ROLLBACKS,
    SEAL_NEXT_STEP, SEAL_JNL_USED, SEAL_JNL_MAX, SEAL_JNL_STATE, SEAL_JNL_OVF, SEAL_BUDDY, SEAL_BUDDY_STATE,
    SEAL_BUDDY_SEAL, SEAL_DELTA_EARLY, SEAL_DELTA_STOP, SEAL_DELTA_WAIT_MS, SEAL_UNPROT_MAX, SEAL_SPARE_STATE,
    SEAL_ADOPT_RANK, SEAL_ADOPT_HOST, SEAL_ADOPT_CMD, SEAL_ADOPT_RESULT, CLV_HB_US, CLV_HB_MISS, CLV_PROBE_US,
    CLV_PROBE_TRIES, CLV_ARB_WAIT_US, CLV_TALLY_CH]

/-- Entries of the dictionary, part 7. -/
def all6 : List Reg :=
  [CLV_NBR_STATE, CLV_NBR_CHIP, CLV_NBR_ALIVE, CLV_NBR_GAPS, CLV_NBR_REPEAT, CLV_STATE, CLV_FAILED_N,
    CLV_NOTICES, CLV_NOTICE_DUP, CLV_REJECTS, CLV_PROBE_LATE, CLV_DECIDE_LAST_US, CLV_DROP, CLV_ROOT,
    CLV_T0_MARGIN_US, CLV_PARENT, CLV_DEPTH, CLV_STW_POS, CLV_STW_ROLE, CLV_STW_STATE, CLV_STW_CMD,
    CLV_STW_SEQ, CLV_STW_DUP, CLV_STW_DIVERGE, CLV_STW_COPY_ERR, CLV_TRAY_ID, HLT_SCORE, HLT_BAND,
    HLT_PEN_FIXED, HLT_PEN_DECAY, HLT_ADVISE_THR, HLT_CRIT_THR, HLT_HALF_LIFE_H, HLT_CHIP_SCORE, RST_IMG_SLOT,
    RST_IMG_OFFSET, RST_IMG_DATA, RST_IMG_CMD, RST_IMG_STATE, RST_CAUSE]

/-- Entries of the dictionary, part 8. -/
def all7 : List Reg :=
  [RST_CMD, RST_STAGE, RST_BOOT, RST_HELD, RST_GLITCH, RST_STORM, RST_WDT_MS, RST_STAGE_MS, RST_STRAP_CODE,
    RST_STRAP_ADC, RST_BKP, RST_RMEM, RST_DOM_CMD, RST_DOM_STATE, RST_DOM_GEN, RST_DOM_COUNT, RST_GK_ANSWERS,
    RST_GK_DROP, RST_LATE, RST_GEN_CACHE, RST_TMO_MULT, RST_TMO_FLOOR_US, RST_TMO_COUNT, PWR_CCLK_KHZ,
    PWR_CCLK_MAX_KHZ, PWR_STRETCH_NS, PWR_CAP_W, PWR_NOW_W, PWR_MAX_W, PWR_OVER_MS, PWR_AVS_GUARD_MV,
    PWR_VDD_MV, PWR_TJ_CLAMP_C, PWR_TJ_MAX_C, PWR_CLAMPS, LDG_RATE, LDG_BURST, LDG_CLEAR, LDG_FLUSH_MS,
    LDG_OVR]

/-- Entries of the dictionary, part 9. -/
def all8 : List Reg :=
  [LDG_VOL_FIRST_N, LDG_VOL_LAST_N, LDG_PER_FIRST_N, LDG_PER_LAST_N, LDG_SUPPRESSED, LDG_SUPP_PEND, LDG_LOST,
    LDG_FLASH_DROP, LDG_FLASH_PEND, LDG_FLASH_ERASE_MAX, LDG_BADCRC, LDG_REC_VOL_FIRST, LDG_REC_VOL_LAST,
    LDG_REC_PER_FIRST, LDG_REC_PER_LAST, ID_VENDOR, ID_FAMILY, ID_PART, ID_STEPPING, ID_SERIAL, ID_EUI64,
    ID_MAC, ID_FW_VER, ID_FW_SLOT, ID_ROLLBACK, ID_DICT_VER, MGT_T1S_STATE, MGT_PLCA_NODE, MGT_PLCA_COUNT,
    MGT_PLCA_TO, MGT_SESS_IDLE_S, MGT_RELAY_US, MGT_VC0_US, MGT_SESS, MGT_OPENS, MGT_AUTH_FAIL, MGT_RX_DROP,
    MGT_REPEATS, MGT_SEQ_ERR, MGT_RELAY_TMO]

/-- Entries of the dictionary, part 10. -/
def all9 : List Reg :=
  [MGT_WIN_REFUSED, MGT_WIN_LAST, (MGT_GROUP 0), (MGT_GROUP 1), (MGT_GROUP 2), (MGT_GROUP 3), (MGT_GROUP 4),
    (MGT_GROUP 5), (MGT_GROUP 6), (MGT_GROUP 7), MGT_KEY_OBS, MGT_KEY_OPR, MGT_KEY_TRAY, MGT_KEY_FAB0,
    MGT_KEY_FAB1, MGT_KEY_FAB_SEL, MGT_KEY_SET, CNT_CYCLES, CNT_BUSY, CNT_STALLED, CNT_IDLE, CNT_REASON,
    (CNT_STALL 0), (CNT_STALL 1), (CNT_STALL 2), (CNT_STALL 3), (CNT_STALL 4), (CNT_STALL 5), (CNT_STALL 6),
    (CNT_STALL 7), (CNT_STALL 8), (CNT_STALL 9), (CNT_STALL 10), (CNT_STALL 11), (CNT_STALL 12), (CNT_STALL
    13), (CNT_STALL 14), (CNT_STALL 15), CNT_ALL, FRZ_AT]

/-- Entries of the dictionary, part 11. -/
def all10 : List Reg :=
  [FRZ_STATE, FRZ_LAST, FRZ_COUNT, FRZ_MISSED, FRZ_POD_AT, FRZ_POD_BOX, FRZ_POD_GO, TRC_MASK, TRC_RING_PAGE,
    TRC_RING_PAGES, TRC_HEAD, TRC_DROP, TRC_NEWEST, TRC_FCC_MARK, (WCH_LIVE 0), (WCH_LIVE 1), (WCH_LIVE 2),
    (WCH_LIVE 3), (WCH_LIVE 4), (WCH_LIVE 5), (WCH_LIVE 6), (WCH_LIVE 7), (WCH_LIVE 8), (WCH_LIVE 9),
    (WCH_LIVE 10), (WCH_LIVE 11), (WCH_LIVE 12), (WCH_LIVE 13), (WCH_LIVE 14), (WCH_LIVE 15), (WCH_LIVE 16),
    (WCH_LIVE 17), (WCH_LIVE 18), (WCH_LIVE 19), (WCH_LIVE 20), (WCH_LIVE 21), (WCH_LIVE 22), (WCH_LIVE 23),
    (WCH_LIVE 24), (WCH_LIVE 25)]

/-- Entries of the dictionary, part 12. -/
def all11 : List Reg :=
  [(WCH_LIVE 26), (WCH_LIVE 27), (WCH_LIVE 28), (WCH_LIVE 29), (WCH_LIVE 30), (WCH_LIVE 31), (WCH_LIVE 32),
    (WCH_LIVE 33), (WCH_LIVE 34), (WCH_LIVE 35), (WCH_LIVE 36), (WCH_LIVE 37), (WCH_LIVE 38), (WCH_LIVE 39),
    (WCH_LIVE 40), (WCH_LIVE 41), (WCH_LIVE 42), (WCH_LIVE 43), (WCH_LIVE 44), (WCH_LIVE 45), (WCH_LIVE 46),
    (WCH_LIVE 47), (WCH_LIVE 48), (WCH_LIVE 49), (WCH_LIVE 50), (WCH_LIVE 51), (WCH_LIVE 52), (WCH_LIVE 53),
    (WCH_LIVE 54), (WCH_LIVE 55), (WCH_LIVE 56), (WCH_LIVE 57), (WCH_LIVE 58), (WCH_LIVE 59), (WCH_LIVE 60),
    (WCH_LIVE 61), (WCH_LIVE 62), (WCH_LIVE 63), (WCH_SEALED 0), (WCH_SEALED 1)]

/-- Entries of the dictionary, part 13. -/
def all12 : List Reg :=
  [(WCH_SEALED 2), (WCH_SEALED 3), (WCH_SEALED 4), (WCH_SEALED 5), (WCH_SEALED 6), (WCH_SEALED 7), (WCH_SEALED
    8), (WCH_SEALED 9), (WCH_SEALED 10), (WCH_SEALED 11), (WCH_SEALED 12), (WCH_SEALED 13), (WCH_SEALED 14),
    (WCH_SEALED 15), (WCH_SEALED 16), (WCH_SEALED 17), (WCH_SEALED 18), (WCH_SEALED 19), (WCH_SEALED 20),
    (WCH_SEALED 21), (WCH_SEALED 22), (WCH_SEALED 23), (WCH_SEALED 24), (WCH_SEALED 25), (WCH_SEALED 26),
    (WCH_SEALED 27), (WCH_SEALED 28), (WCH_SEALED 29), (WCH_SEALED 30), (WCH_SEALED 31), (WCH_SEALED 32),
    (WCH_SEALED 33), (WCH_SEALED 34), (WCH_SEALED 35), (WCH_SEALED 36), (WCH_SEALED 37), (WCH_SEALED 38),
    (WCH_SEALED 39), (WCH_SEALED 40), (WCH_SEALED 41)]

/-- Entries of the dictionary, part 14. -/
def all13 : List Reg :=
  [(WCH_SEALED 42), (WCH_SEALED 43), (WCH_SEALED 44), (WCH_SEALED 45), (WCH_SEALED 46), (WCH_SEALED 47),
    (WCH_SEALED 48), (WCH_SEALED 49), (WCH_SEALED 50), (WCH_SEALED 51), (WCH_SEALED 52), (WCH_SEALED 53),
    (WCH_SEALED 54), (WCH_SEALED 55), (WCH_SEALED 56), (WCH_SEALED 57), (WCH_SEALED 58), (WCH_SEALED 59),
    (WCH_SEALED 60), (WCH_SEALED 61), (WCH_SEALED 62), (WCH_SEALED 63), WCH_INACTIVE, LIFE_POWERED_S,
    LIFE_MAIN_S, LIFE_ENERGY_J, LIFE_POWER_ONS, (LIFE_TEMP_S 0), (LIFE_TEMP_S 1), (LIFE_TEMP_S 2),
    (LIFE_TEMP_S 3), (LIFE_TEMP_S 4), (LIFE_TEMP_S 5), (LIFE_VOLT_S 0), (LIFE_VOLT_S 1), (LIFE_VOLT_S 2),
    (LIFE_VOLT_S 3), (LIFE_VOLT_S 4), (LIFE_VOLT_S 5), LIFE_SRAM_CORR]

/-- Entries of the dictionary, part 15. -/
def all14 : List Reg :=
  [LIFE_SRAM_UNCORR, LIFE_HBM_CORR, LIFE_HBM_UNCORR, LIFE_CELL_CORR, LIFE_CELL_UNCORR, LIFE_CHECK_FAIL,
    LIFE_PERMANENT, LIFE_RETRAINS, LIFE_LANE_OUT, LIFE_RESETS, LIFE_TRIPS, LIFE_MARGIN_H, LIFE_MARGIN,
    LIFE_MARGIN_REF, CNT_FRZ_CYCLES, CNT_FRZ_BUSY, CNT_FRZ_STALLED, CNT_FRZ_IDLE, CNT_FRZ_REASON,
    (CNT_FRZ_STALL 0), (CNT_FRZ_STALL 1), (CNT_FRZ_STALL 2), (CNT_FRZ_STALL 3), (CNT_FRZ_STALL 4),
    (CNT_FRZ_STALL 5), (CNT_FRZ_STALL 6), (CNT_FRZ_STALL 7), (CNT_FRZ_STALL 8), (CNT_FRZ_STALL 9),
    (CNT_FRZ_STALL 10), (CNT_FRZ_STALL 11), (CNT_FRZ_STALL 12), (CNT_FRZ_STALL 13), (CNT_FRZ_STALL 14),
    (CNT_FRZ_STALL 15), CNT_FRZ_ALL]

/-- Every entry of the dictionary (R375) but those of the Tally channels and DICT_INFO. -/
def allRegs : List Reg :=
  all0 ++ all1 ++ all2 ++ all3 ++ all4 ++ all5 ++ all6 ++ all7 ++ all8 ++ all9 ++ all10 ++ all11 ++ all12 ++ all13 ++ all14

end Sys2Proof.Machine.R
end

