-- ==== Sys2Proof/Machine/Ops.lean ====
section
/-! DEFINITION. The named operations on the state: one primitive update per field, dictionary entries, memory
with its poison marks, blocks, partitions, ports, time and what is sent. -/

namespace Sys2Proof.Machine

open Sys2Proof

/-! ### One update per field -/

/-- The state with its field `od` replaced. -/
def State.setOd (s : State) (x : Map Nat) : State := { s with od := x }

/-- The state with its field `odBytes` replaced. -/
def State.setOdBytes (s : State) (x : Map (List Byte)) : State := { s with odBytes := x }

/-- The state with its field `mem` replaced. -/
def State.setMem (s : State) (x : List Host.Cell) : State := { s with mem := x }

/-- The state with its field `poison` replaced. -/
def State.setPoison (s : State) (x : List Nat) : State := { s with poison := x }

/-- The state with its field `time` replaced. -/
def State.setTime (s : State) (x : TimeUnit) : State := { s with time := x }

/-- The state with its field `blocks` replaced. -/
def State.setBlocks (s : State) (x : Map Block) : State := { s with blocks := x }

/-- The state with its field `parts` replaced. -/
def State.setParts (s : State) (x : Map Part) : State := { s with parts := x }

/-- The state with its field `buddies` replaced. -/
def State.setBuddies (s : State) (x : List BuddyArea) : State := { s with buddies := x }

/-- The state with its field `msys` replaced. -/
def State.setMsys (s : State) (x : MemSys) : State := { s with msys := x }

/-- The state with its field `ports` replaced. -/
def State.setPorts (s : State) (x : Map Port) : State := { s with ports := x }

/-- The state with its field `lasers` replaced. -/
def State.setLasers (s : State) (x : Map Laser) : State := { s with lasers := x }

/-- The state with its field `router` replaced. -/
def State.setRouter (s : State) (x : Router) : State := { s with router := x }

/-- The state with its field `host` replaced. -/
def State.setHost (s : State) (x : HostIf) : State := { s with host := x }

/-- The state with its field `clover` replaced. -/
def State.setClover (s : State) (x : Clover) : State := { s with clover := x }

/-- The state with its field `rst` replaced. -/
def State.setRst (s : State) (x : ResetUnit) : State := { s with rst := x }

/-- The state with its field `power` replaced. -/
def State.setPower (s : State) (x : PowerCtl) : State := { s with power := x }

/-- The state with its field `ledger` replaced. -/
def State.setLedger (s : State) (x : LedgerUnit) : State := { s with ledger := x }

/-- The state with its field `tally` replaced. -/
def State.setTally (s : State) (x : Map TallyCh) : State := { s with tally := x }

/-- The state with its field `mgmt` replaced. -/
def State.setMgmt (s : State) (x : Mgmt) : State := { s with mgmt := x }

/-- The state with its field `obs` replaced. -/
def State.setObs (s : State) (x : Observe) : State := { s with obs := x }

/-- The state with its field `outbox` replaced. -/
def State.setOutbox (s : State) (x : List Out) : State := { s with outbox := x }

/-- The state with its field `free` replaced. -/
def State.setFree (s : State) (x : Nat) : State := { s with free := x }

/-! ### Dictionary entries (R350) -/

/-- The key of an entry's instance: its index, 8-bit subindex and 16-bit instance (R350). -/
def odKey (r : Reg) (i : Nat) : Nat := (r.index * 256 + r.sub % 256) * 65536 + i % 65536

/-- The default of an entry's instance. -/
def regDflt (r : Reg) (i : Nat) : Nat := if i % 65536 = 0 then r.dflt0 else r.dflt

/-- The value of an entry's instance. -/
def State.rd (s : State) (r : Reg) (i : Nat) : Nat := mapGet (regDflt r i) s.od (odKey r i)

/-- The width of an entry in bits. -/
def regBits (r : Reg) : Nat := 8 * tySize r.ty r.members

/-- An entry's instance set to a value, which keeps the entry's width. -/
def State.wr (s : State) (r : Reg) (i v : Nat) : State :=
  s.setOd (mapSet (regDflt r i) s.od (odKey r i) (v % 2 ^ regBits r))

/-- A counter advanced by `n`, modulo its width. -/
def State.bump (s : State) (r : Reg) (i n : Nat) : State := s.wr r i (s.rd r i + n)

/-- A counter advanced by `n` that stays at its largest value. -/
def State.bumpSat (s : State) (r : Reg) (i n : Nat) : State :=
  s.wr r i (min (s.rd r i + n) (2 ^ regBits r - 1))

/-- An entry raised to a value if that is larger, at most to its largest. -/
def State.raise (s : State) (r : Reg) (i v : Nat) : State := s.wr r i (max (s.rd r i) (min v (2 ^ regBits r - 1)))

/-- The value of a signed entry. -/
def State.rdI (s : State) (r : Reg) (i : Nat) : Int := toSigned (regBits r) (s.rd r i)

/-- A signed entry set. -/
def State.wrI (s : State) (r : Reg) (i : Nat) (v : Int) : State := s.wr r i (ofSigned (regBits r) v)

/-- The octets of a STRING or DOMAIN entry. -/
def State.rdB (s : State) (r : Reg) (i : Nat) : List Byte := mapGet [] s.odBytes (odKey r i)

/-- The octets of a STRING or DOMAIN entry set. -/
def State.wrB (s : State) (r : Reg) (i : Nat) (v : List Byte) : State :=
  s.setOdBytes (mapSet [] s.odBytes (odKey r i) v)

/-- Entries chosen by index, subindex and instance put back to their defaults. -/
def State.odClear (s : State) (p : Nat → Nat → Nat → Bool) : State :=
  s.setOd (s.od.filter fun e => !p (e.1 / 16777216) (e.1 / 65536 % 256) (e.1 % 65536))

/-- A record value from its members, packed in order from the least significant (R353). -/
def packRec (ms : List (Nat × Nat)) : Nat :=
  ms.foldr (fun m acc => m.2 % 2 ^ (8 * m.1) + 2 ^ (8 * m.1) * acc) 0

/-! ### Unit numbers (R10) -/

def uCell (b c : Nat) : Nat := 0x1000 + b * 8 + c
def uSeqA (b : Nat) : Nat := 0x2000 + b
def uSeqB (b : Nat) : Nat := 0x2080 + b
def uVec (b : Nat) : Nat := 0x2100 + b
def uMover (b : Nat) : Nat := 0x2180 + b
def uYarrow (b : Nat) : Nat := 0x2200 + b
def uHang (b : Nat) : Nat := 0x2280 + b
def uBlock (b : Nat) : Nat := 0x2300 + b
def uRegNoc (r : Nat) : Nat := 0x3000 + r
def uRegMover (r : Nat) : Nat := 0x3010 + r
def uMonitor (r : Nat) : Nat := 0x3020 + r
def uStaging (r : Nat) : Nat := 0x3030 + r
def uRegion (r : Nat) : Nat := 0x3070 + r
def uStop (n : Nat) : Nat := 0x4000 + n
def uHbm (n : Nat) : Nat := 0x5000 + n
def uPort (p : Nat) : Nat := 0x6000 + p
def uInject : Nat := 0x6006
def uCollUnit : Nat := 0x6007
def uRouter : Nat := 0x6008
def uFunc (f : Nat) : Nat := 0x7000 + f
def uEndpoint : Nat := 0x7400
def uTime : Nat := 0x8000
def uLaser (m : Nat) : Nat := 0xD000 + m
def uFcc : Nat := 0xE000

/-- The sequencer's unit number. -/
def uSeq (b : Nat) (c : SeqId) : Nat :=
  match c with
  | .a => uSeqA b
  | .b => uSeqB b

/-- The block of a unit number of a cell or of a block's engine. -/
def unitBlock (u : Nat) : Option Nat :=
  if u / 4096 = 1 then some (bits u 3 7)
  else if u / 4096 = 2 then some (bits u 0 7)
  else none

/-! ### Blocks, partitions, ports -/

/-- A block. -/
def State.block (s : State) (b : Nat) : Block := mapGet {} s.blocks b

/-- A block changed. -/
def State.modBlock (s : State) (b : Nat) (f : Block → Block) : State :=
  s.setBlocks (mapPut s.blocks b (f (s.block b)))

/-- A cell of a block; cell 4 is CS. -/
def Block.cell (k : Block) (c : Nat) : Cell := mapGet {} k.cells c

/-- A cell changed. -/
def Block.modCell (k : Block) (c : Nat) (f : Cell → Cell) : Block :=
  { k with cells := mapPut k.cells c (f (k.cell c)) }

/-- A partition. -/
def State.part (s : State) (p : Nat) : Part := mapGet {} s.parts p

/-- A partition changed. -/
def State.modPart (s : State) (p : Nat) (f : Part → Part) : State :=
  s.setParts (mapPut s.parts p (f (s.part p)))

/-- A port. -/
def State.port (s : State) (p : Nat) : Port := mapGet {} s.ports p

/-- A port changed. -/
def State.modPort (s : State) (p : Nat) (f : Port → Port) : State :=
  s.setPorts (mapPut s.ports p (f (s.port p)))

/-- A laser module. -/
def State.laser (s : State) (m : Nat) : Laser := mapGet {} s.lasers m

/-- A laser module changed. -/
def State.modLaser (s : State) (m : Nat) (f : Laser → Laser) : State :=
  s.setLasers (mapPut s.lasers m (f (s.laser m)))

/-- A Tally channel. -/
def State.chan (s : State) (c : Nat) : TallyCh := mapGet {} s.tally c

/-- A Tally channel changed. -/
def State.modChan (s : State) (c : Nat) (f : TallyCh → TallyCh) : State :=
  s.setTally (mapPut s.tally c (f (s.chan c)))

/-- Something sent. -/
def State.emit (s : State) (o : Out) : State := s.setOutbox (s.outbox ++ [o])

/-- Several things sent, in order. -/
def State.emitAll (s : State) (os : List Out) : State := s.setOutbox (s.outbox ++ os)

/-- The next free value's number taken. -/
def State.tick (s : State) : State := s.setFree (s.free + 1)

/-- A change made for each element of a list, in order. -/
def State.each {α : Type} (s : State) (l : List α) (f : State → α → State) : State :=
  match l with
  | [] => s
  | x :: r => (f s x).each r f

/-- A change made where a condition holds. -/
def State.when (s : State) (c : Bool) (f : State → State) : State := if c then f s else s

/-! ### Partitions and blocks -/

/-- Partition states (CMP_PLAN_STATE, R59). -/
def psEmpty : Nat := 0
def psLoading : Nat := 1
def psLoaded : Nat := 2
def psRunning : Nat := 3
def psStopped : Nat := 4
def psHalted : Nat := 5

/-- A partition's state. -/
def State.pstate (s : State) (p : Nat) : Nat := s.rd R.CMP_PLAN_STATE p

/-- The partition of a block, 0xFF for none (R107). -/
def State.partOf (s : State) (b : Nat) : Nat := s.rd R.CMP_BLOCK_PART b

/-- The blocks of a partition, lowest first. -/
def State.blocksOf (s : State) (p : Nat) : List Nat :=
  (List.range 128).filter fun b => s.partOf b == p

/-- Whether a partition is Running or Stopped for seal. -/
def State.active (s : State) (p : Nat) : Bool :=
  let st := s.pstate p
  st == psRunning || st == psStopped

/-- The step a record of a unit carries (R325). -/
def State.stepOf (s : State) (u : Nat) : Nat :=
  let other :=
    match (List.range 128).find? fun p => s.pstate p == psRunning with
    | some p => s.rd R.SEAL_STEP p
    | none => 0xFFFFFFFF
  match unitBlock u with
  | some b => if s.partOf b < 128 && s.active (s.partOf b) then s.rd R.SEAL_STEP (s.partOf b) else other
  | none => other

/-! ### Time (R198) -/

/-- Network time in nanoseconds. -/
def State.now (s : State) : Int := (s.time.sec * 1000000000 + s.time.ns : Nat)

/-- The time unit changed. -/
def State.modTime (s : State) (f : TimeUnit → TimeUnit) : State := s.setTime (f s.time)

/-- The reset unit changed. -/
def State.modRst (s : State) (f : ResetUnit → ResetUnit) : State := s.setRst (f s.rst)

/-! ### Memory (R94, R106, R112) -/

/-- The byte at a chip offset; memory nothing has written reads as 0 (R112). -/
def memByte (m : List Host.Cell) (a : Nat) : Byte := mapGet 0 m a

/-- `n` bytes from a chip offset, ascending. -/
def memRead (m : List Host.Cell) (a n : Nat) : List Byte := mapSlice 0 m a n

/-- Bytes written from a chip offset, ascending. -/
def memWrite (m : List Host.Cell) (a : Nat) (bs : List Byte) : List Host.Cell := mapSplice 0 m a bs

/-- `n` bytes of the state's memory. -/
def State.read (s : State) (a n : Nat) : List Byte := memRead s.mem a n

/-- The little-endian value of `n` bytes of memory. -/
def State.readLe (s : State) (a n : Nat) : Nat := leVal (s.read a n)

/-- Bytes written to memory; poison marks stay. -/
def State.write (s : State) (a : Nat) (bs : List Byte) : State := s.setMem (memWrite s.mem a bs)

/-- The 8-byte words that `n` bytes from `a` touch. -/
def wordsOf (a n : Nat) : List Nat :=
  if n = 0 then [] else (List.range ((a + n - 1) / 8 - a / 8 + 1)).map fun i => a / 8 + i

/-- The 8-byte words that `n` bytes from `a` cover whole. -/
def wordsIn (a n : Nat) : List Nat :=
  (wordsOf a n).filter fun w => decide (a ≤ 8 * w) && decide (8 * w + 8 ≤ a + n)

/-- Whether a byte range holds a poisoned word (R97). -/
def State.poisoned (s : State) (a n : Nat) : Bool :=
  s.poison.any fun w => decide (a < 8 * w + 8) && decide (8 * w < a + n)

/-- Where the SRAM begins among chip offsets, HBM below it (R106). -/
def hbmBytes : Nat := 0x6000000000

/-- Words in a codeword at a chip offset: 8 in a sector of HBM, 1 in SRAM (R96, R102). -/
def codeWords (a : Nat) : Nat := if a < hbmBytes then 8 else 1

/-- The words of the codewords that `n` bytes from `a` touch. -/
def codesOf (a n : Nat) : List Nat :=
  let g := codeWords a
  if n = 0 then [] else wordsOf (a / (8 * g) * (8 * g)) (((a + n - 1) / (8 * g) + 1 - a / (8 * g)) * (8 * g))

/-- Codewords that a byte range touches marked, or those it covers whole freed of their marks (R97). -/
def State.markPoison (s : State) (a n : Nat) (bad : Bool) : State :=
  if bad then s.setPoison (s.poison ++ (codesOf a n).filter fun w => !s.poison.contains w)
  else
    let g := codeWords a
    s.setPoison (s.poison.filter fun w => !(decide (a ≤ w / g * (8 * g)) && decide ((w / g + 1) * (8 * g) ≤ a + n)))

/-- A write with its poison mark. -/
def State.store (s : State) (a : Nat) (bs : List Byte) (bad : Bool) : State :=
  (s.write a bs).markPoison a bs.length bad

/-- A byte range cleared, marks and all (R112). -/
def State.clear (s : State) (a n : Nat) : State :=
  (s.setMem (s.mem.filter fun c => !(decide (a ≤ c.1) && decide (c.1 < a + n)))).markPoison a n false

/-- `n` bytes copied from `a` to `b`, poison marks with them. -/
def State.copyMem (s : State) (a b n : Nat) : State :=
  let cs := s.mem.filter fun c => decide (a ≤ c.1) && decide (c.1 < a + n)
  let ws := (s.poison.filter fun w => decide (a ≤ 8 * w) && decide (8 * w < a + n)).map fun w => w - a / 8 + b / 8
  let t := s.clear b n
  let u := t.setMem (cs.foldl (fun m c => mapSet 0 m (c.1 - a + b) c.2) t.mem)
  u.setPoison (u.poison ++ ws)

/-- Where the SRAM of a block begins (R106). -/
def sramBase (b : Nat) : Nat := 0x400000000000 + b * 0x800000

/-- Where the staging buffer of a region begins (R106). -/
def stagingBase (r : Nat) : Nat := 0x400040000000 + r * 0x100000

/-- The canonical form of memory: addresses strictly rise and no listed byte is 0. -/
abbrev Memory.wf (m : List Host.Cell) : Prop := mapWf (0 : Byte) m = true

end Sys2Proof.Machine
end

