-- ==== Sys2Proof/Machine/Record.lean ====
section
/-! DEFINITION. How a Ledger record is formed, rate-limited and accepted (R325 to R333). Every event that a
command raises goes through here. -/

namespace Sys2Proof.Machine

open Sys2Proof

/-- Fields packed from data byte 0, each at its width (R327). -/
def evFields (fs : List (Nat × Nat)) : List Byte := (fs.map fun f => leBytes f.1 f.2).flatten

/-- The twelve data bytes: the event's fields, and from byte 7 the LAYER and OPERATOR of a host command that
caused it (R327). Fields past their space are cut. -/
def evData (data : List Byte) (layer : Option (Nat × Nat)) : List Byte :=
  match layer with
  | none => sliceZ data 0 12
  | some (l, o) => sliceZ data 0 7 ++ leBytes 2 l ++ leBytes 3 o

/-- The 32 bytes of a record (R325), its time the network time (R326). -/
def recBytes (s : State) (code source : Nat) (data : List Byte) : List Byte :=
  let b := leBytes 4 s.time.ns ++ leBytes 4 s.time.sec ++ leBytes 2 code ++ leBytes 2 source ++
    leBytes 4 (s.stepOf source) ++ sliceZ data 0 12
  b ++ leBytes 4 (crc32c b)

/-- The Ledger changed. -/
def State.modLedger (s : State) (f : LedgerUnit → LedgerUnit) : State := s.setLedger (f s.ledger)

/-- A record put into the acceptance queue of 256, or lost and counted (R331). -/
def ldgEnqueue (s : State) (r : List Byte) : State :=
  if s.ledger.queue.length < 256 then
    s.modLedger fun l => { l with queue := l.queue ++ [r] }
  else (s.bumpSat R.LDG_LOST 0 1).modLedger fun l => { l with lostPend := l.lostPend + 1 }

/-- Rate and burst of a code: its override, else the general ones (R332). -/
def ldgLimit (s : State) (code : Nat) : Nat × Nat :=
  match (List.range 64).find? fun k =>
      s.rd R.LDG_OVR k != 0 && bits (s.rd R.LDG_OVR k) 16 16 == code with
  | some k => (bits (s.rd R.LDG_OVR k) 8 8, bits (s.rd R.LDG_OVR k) 0 8)
  | none => (s.rd R.LDG_RATE 0, s.rd R.LDG_BURST 0)

/-- The tokens of a bucket now, in thousand-millionths: full at the start, refilled continuously (R332). -/
def bucketNow (s : State) (code : Nat) : Nat :=
  let lim := ldgLimit s code
  match mapFind s.ledger.buckets code with
  | none => lim.2 * 1000000000
  | some b => min (lim.2 * 1000000000) (b.tokens + (s.now - b.lastNs).toNat * lim.1)

/-- A bucket set. -/
def ldgBucket (s : State) (code : Nat) (b : Bucket) : State :=
  s.modLedger fun l => { l with buckets := mapPut l.buckets code b }

/-- A record accepted after rate limiting, its code's suppression summary first (R333). -/
def ldgAccept (s : State) (code : Nat) (r : List Byte) (tokens : Nat) : State :=
  let b := mapGet {} s.ledger.buckets code
  let s1 :=
    if b.count = 0 then s
    else
      (ldgEnqueue s (recBytes s 0xF001 uFcc
        (evFields [(2, code), (4, b.count), (4, ((s.now - b.firstNs) / 1000000).toNat)]))).wr
        R.LDG_SUPP_PEND 0 (s.rd R.LDG_SUPP_PEND 0 - 1)
  ldgBucket (ldgEnqueue s1 r) code { tokens := tokens - 1000000000, lastNs := s.now }

/-- A record suppressed and counted (R332). -/
def ldgSuppress (s : State) (code tokens : Nat) : State :=
  let b := mapGet {} s.ledger.buckets code
  let s1 := s.bumpSat R.LDG_SUPPRESSED 0 1
  let s2 := if b.count = 0 then s1.bump R.LDG_SUPP_PEND 0 1 else s1
  ldgBucket s2 code
    { tokens := tokens, lastNs := s.now, count := b.count + 1,
      firstNs := if b.count = 0 then s.now else b.firstNs }

/-- A record of a code presented to the Ledger: limited, then accepted (R331, R332). -/
def ldgPresent (s : State) (code : Nat) (r : List Byte) : State :=
  if 0xF001 ≤ code ∧ code ≤ 0xF004 then ldgEnqueue s r
  else
    let t := bucketNow s code
    if 1000000000 ≤ t then ldgAccept s code r t else ldgSuppress s code t

/-- One event recorded (R15), with the LAYER and OPERATOR of the host command that caused it, if any. -/
def State.recordL (s : State) (code source : Nat) (fs : List (Nat × Nat)) (layer : Option (Nat × Nat)) : State :=
  ldgPresent s code (recBytes s code source (evData (evFields fs) layer))

/-- One event recorded; with the LAYER and OPERATOR of the host command that is being carried out (R184). -/
def State.record (s : State) (code source : Nat) (fs : List (Nat × Nat)) : State :=
  s.recordL code source fs s.host.cause

/-- One event recorded with data bytes given as octets. -/
def State.recordB (s : State) (code source : Nat) (data : List Byte) : State :=
  ldgPresent s code (recBytes s code source (evData data none))

end Sys2Proof.Machine
end

