-- ==== Sys2Proof/Machine/Access.lean ====
section
/-! DEFINITION. Power and reset of units, roles, and the checks of a write to an entry (R351 to R359, R362).
A refused write changes no state but the answer sent. -/

namespace Sys2Proof.Machine

open Sys2Proof

/-! ### Reasons (R362) -/

def rOk : Nat := 0
def rNoEntry : Nat := 0x0E01
def rNoInstance : Nat := 0x0E02
def rAccess : Nat := 0x0E03
def rRole : Nat := 0x0E04
def rSequence : Nat := 0x0E05
def rRange : Nat := 0x0E06
def rState : Nat := 0x0E07
def rTooLarge : Nat := 0x0E08
def rReset : Nat := 0x0E09
def rTimeout : Nat := 0x0E0A
def rMalformed : Nat := 0x0E0B
def rSkipped : Nat := 0x0E0C
def rKey : Nat := 0x0E0D

/-! ### Where entries are held (R298) -/

/-- What holds an entry: the always-on core, the FCC, the units on the main rails, or the flash. -/
inductive Home where
  | island
  | fcc
  | main
  | flash
  deriving DecidableEq, Repr

/-- Where an entry below 0x4000 is held. The error counters of R117 and the repair lists' counts are the always-on core's;
the keys are in the flash (R371). -/
def homeLow (idx sub : Nat) : Home :=
  if idx < 0x1100 then .island
  else if idx = 0x1120 then (if sub = 6 then .fcc else .flash)
  else if idx < 0x2000 then .fcc
  else if idx < 0x2021 then .island
  else if idx = 0x2021 then .main
  else if idx < 0x2100 then .fcc
  else if idx = 0x2100 then .main
  else if idx = 0x2101 then (if sub = 1 then .island else .fcc)
  else if idx = 0x3410 then .island
  else if idx = 0x3411 then (if sub = 6 then .main else .island)
  else .main

/-- Where an entry is held. The link and laser counters (R145) and the lanes that are Out (R132), time (R200), the fixed
health points (R293) and the Ledger counters (R349) are the always-on core's; the life record is in the flash (R396). -/
def homeOf (idx sub : Nat) : Home :=
  if idx < 0x4000 then homeLow idx sub
  else if idx = 0x4001 then .island
  else if idx = 0x4010 then (if sub = 2 then .main else .island)
  else if idx = 0x4400 ∨ idx = 0x4401 then .island
  else if idx = 0x4402 then .fcc
  else if idx < 0x5800 then .main
  else if idx < 0x6000 then .island
  else if idx < 0x6200 then .main
  else if idx < 0x7000 then .fcc
  else if idx = 0x7002 then .island
  else if idx < 0x8000 then .fcc
  else if idx < 0x8100 then .main
  else if idx = 0x8100 then .fcc
  else if idx < 0x9000 then .main
  else if idx = 0x9000 then .island
  else if idx = 0x9001 then .fcc
  else if idx = 0x9010 ∧ sub = 0x1D then .fcc
  else .flash

/-! ### Power and reset domains (R300, R315) -/

/-- Whether the main rails are up, the chip out of reset and not in recovery boot. -/
def State.mainUp (s : State) : Bool :=
  s.rst.pwrEn && s.rst.pwrGood && !s.rst.inReset && s.rd R.RST_STAGE 0 != 9

/-- The domains that contain a unit, innermost first (R315). -/
def domainsOf (u : Nat) : List Nat :=
  match u / 4096 with
  | 1 => [u, uBlock (bits u 3 7), uRegion (bits u 3 7 / 16)]
  | 2 => [uBlock (bits u 0 7), uRegion (bits u 0 7 / 16)]
  | 3 => [uRegion (bits u 0 3)]
  | 5 => [u]
  | 6 => if u = uRouter ∨ 6 ≤ u % 8 then [uRouter] else [u, uRouter]
  | 7 => [uEndpoint]
  | 14 => [uFcc]
  | _ => []

/-- Whether a unit's domain, or one that contains it, is in reset. -/
def State.inReset (s : State) (u : Nat) : Bool := (domainsOf u).any fun d => s.rd R.RST_DOM_STATE d != 0

/-- Whether a unit stands on the main rails. -/
def onMain (u : Nat) : Bool :=
  let c := u / 4096
  (decide (1 ≤ c) && decide (c ≤ 7))

/-- Whether bring-up has come so far that a unit of the main rails runs (R305): HBM and the fabric after stage 4, the
regions after stage 6, the endpoint after stage 7. In recovery boot only the endpoint runs, unless the boot ROM serves
(R300, R307). -/
def State.broughtUp (s : State) (u : Nat) : Bool :=
  let st := s.rd R.RST_STAGE 0
  match u / 4096 with
  | 5 => decide (5 ≤ st) && decide (st ≤ 8)
  | 6 => decide (5 ≤ st) && decide (st ≤ 8)
  | 7 => ((st == 8 && !s.rst.rrs) || (st == 9 && !s.rst.romRecovery)) && !s.host.perst
  | _ => decide (7 ≤ st) && decide (st ≤ 8)

/-- Whether a unit is powered and out of reset. -/
def State.unitUp (s : State) (u : Nat) : Bool :=
  (!onMain u || (s.rst.pwrEn && s.rst.pwrGood && !s.rst.inReset && s.broughtUp u)) && !s.inReset u

/-- The unit that holds an entry's instance, where it is not the always-on island. -/
def regUnit (r : Reg) (i : Nat) : Option Nat :=
  let x := r.index
  if x = 0x3040 ∨ x = 0x3010 ∨ x = 0x3020 ∨ x = 0x3021 ∨ x = 0x3410 ∨ x = 0x6010 ∨ x = 0x6011 then some (uBlock i)
  else if x = 0x3411 then some (uHbm i)
  else if x = 0x4000 ∨ x = 0x4001 then some (uPort i)
  else if x = 0x4010 then some (uPort (i / 32))
  else if x = 0x4110 then some (uPort (i / 8))
  else if x = 0x4002 ∨ (0x4100 ≤ x ∧ x < 0x4200) then some uRouter
  else if 0x5000 ≤ x ∧ x ≤ 0x5002 then some uEndpoint
  else if x = 0x8000 ∨ x = 0x8001 then some i
  else none

/-- Whether ROM recovery serves an entry (R307). -/
def romServes (r : Reg) : Bool :=
  r.index == 0x1000 || r.index == 0x2040 || (r.index == 0x2000 && (r.sub == 1 || r.sub == 3))

/-- Whether the FCC, or the boot ROM in its place, serves management: once stage 2 is over (R305, R307). -/
def State.fccUp (s : State) : Bool :=
  s.rst.standby && !s.rst.inReset && decide (3 ≤ s.rd R.RST_STAGE 0) && !s.inReset uFcc

/-- Whether an entry is one of the units on the main rails: compute, partitions and memory, fabric and host, result
checking and seals, counters, trace and watch (R375). -/
def mainIndex (x : Nat) : Bool :=
  (decide (0x3000 ≤ x) && decide (x < 0x4400)) || (decide (0x5000 ≤ x) && decide (x < 0x5800)) ||
    (decide (0x6000 ≤ x) && decide (x < 0x6200)) || (decide (0x8000 ≤ x) && decide (x < 0x9000) && x / 256 != 0x81)

/-- Whether the unit of an entry can be reached. -/
def State.entryUp (s : State) (r : Reg) (i : Nat) : Bool :=
  s.fccUp && (!s.rst.romRecovery || romServes r) && (!mainIndex r.index || (s.rst.pwrEn && s.rst.pwrGood)) &&
    (match regUnit r i with
     | none => true
     | some u => s.unitUp u)

/-! ### Roles (R358) -/

/-- Whether a partition belongs to a function (R179). -/
def State.owns (s : State) (f p : Nat) : Bool := s.rd R.CMP_PART_OWNER p == f && f != 0xFFFF

/-- Whether a function in the Owner role may write an entry (R196, R323). -/
def ownerWrites (f : Nat) (r : Reg) (i : Nat) : Bool :=
  r.index == 0x2011 || (r.index == 0x2010 && decide (8 ≤ i)) || (r.index == 0x5001 && r.sub == 3 && i == f)

/-- Whether a role may write an entry: the Operator all but a reset of the FCC domain, which is the
Vendor's (R315). -/
def roleWrites (w : Who) (r : Reg) (i : Nat) : Bool :=
  match w.role with
  | .observer => false
  | .owner => ownerWrites w.func r i
  | .operator => !(r.index == 0x2020 && i == uFcc)
  | .vendor => true

/-- Whether the chip serves a role now: in manufacturing test the Vendor's alone, in recovery boot the Operator's and the
Vendor's (R300, R302, R359). -/
def State.serves (s : State) (r : Role) : Bool :=
  r == .vendor || (s.rst.mode != .manufacturing && (r == .operator || s.rd R.RST_STAGE 0 != 9))

/-- Whether a value lies in an entry's range (R353). -/
def inRange (r : Reg) (v : Nat) : Bool :=
  decide (v < 2 ^ regBits r) && (r.ty != .bool || decide (v ≤ 1)) &&
    (r.range.isEmpty || r.range.any fun g => decide (g.1 ≤ v) && decide (v ≤ g.2))

/-- The first reason to refuse a write, 0 for none. -/
def checkWrite (s : State) (w : Who) (r : Reg) (i v : Nat) : Nat :=
  if instIn r.inst i = false then rNoInstance
  else if r.acc = .ro ∨ r.acc = .const ∨ (r.index = 0x2010 ∧ i < 8) then rAccess
  else if s.serves w.role = false ∨ roleWrites w r i = false then rRole
  else if s.entryUp r i = false then rReset
  else if inRange r v = false then rRange
  else rOk

/-- The outcome of a write: the state and the reason, 0 when it took effect. -/
abbrev Written := State × Nat

/-- A write refused by the device's state. -/
def deny (s : State) : Written := (s, rState)

/-- A write done. -/
def done (s : State) : Written := (s, rOk)

/-- A write checked, performed and answered. -/
def State.guard (s : State) (w : Who) (r : Reg) (i v : Nat) (f : State → Written) : State :=
  let c := checkWrite s w r i v
  if c = rOk then
    let t := f s
    t.1.emit (.answer w t.2)
  else s.emit (.answer w c)

end Sys2Proof.Machine
end

