-- ==== Sys2Proof/Machine/Health.lean ====
section
/-! DEFINITION. Health scores (R293, R294). -/

namespace Sys2Proof.Machine

open Sys2Proof

/-- The Clover state changed. -/
def State.modClover (s : State) (f : Clover → Clover) : State := s.setClover (f s.clover)

/-- The penalties of a part. -/
def State.penalty (s : State) (u : Nat) : Penalty := mapGet {} s.clover.penalties u

/-- The fixed points of a part. -/
def fixedPoints (p : Penalty) : Nat := (p.fixed.map (·.2)).foldl (· + ·) 0

/-- The score of penalty points (R293): 1,000 less the points, rounded down, at least 0. -/
def scoreOf (p : Penalty) : Nat := (1000000 - 1000 * fixedPoints p - p.decay) / 1000

/-- The band of a score (R294). -/
def bandOf (s : State) (score : Nat) : Nat :=
  if score ≤ s.rd R.HLT_CRIT_THR 0 then 2
  else if score ≤ s.rd R.HLT_ADVISE_THR 0 then 1
  else 0

/-- The lowest score of the chip's parts and the chip (R294). -/
def chipScore (s : State) : Nat :=
  (s.clover.penalties.map fun e => scoreOf e.2).foldl min 1000

/-- A crossing into a band, noted for the active steward's next cycle. -/
def noteCrossing (s : State) (u band score : Nat) : State :=
  let t := s.record (if band = 2 then 0xB031 else 0xB030) u [(2, score)]
  if s.rd R.CLV_STW_ROLE 0 = 1 then t.modClover fun c => { c with crossings := c.crossings ++ [(u, band)] }
  else t

/-- A part's score, points and band brought up to date; each band entered writes its event (R294). -/
def rescore (s : State) (u : Nat) : State :=
  let p := s.penalty u
  let sc := scoreOf p
  let old := s.rd R.HLT_BAND u
  let new := bandOf s sc
  let s1 := (((s.wr R.HLT_SCORE u sc).wr R.HLT_PEN_FIXED u (fixedPoints p)).wr R.HLT_PEN_DECAY u p.decay).wr
    R.HLT_BAND u new
  let s2 := s1.wr R.HLT_CHIP_SCORE 0 (chipScore s1)
  let s3 := if old = 0 ∧ 1 ≤ new then noteCrossing s2 u 1 sc else s2
  if old ≤ 1 ∧ new = 2 then noteCrossing s3 u 2 sc else s3

/-- A part's penalties changed. -/
def modPenalty (s : State) (u : Nat) (f : Penalty → Penalty) : State :=
  rescore (s.modClover fun c => { c with penalties := mapPut c.penalties u (f (s.penalty u)) }) u

/-- Fixed points added under a cause (R293). -/
def penFixed (s : State) (u cause pts : Nat) : State :=
  modPenalty s u fun p => { p with fixed := p.fixed ++ [(cause, pts)] }

/-- Fixed points of a cause removed. -/
def penUnfix (s : State) (u cause : Nat) : State :=
  modPenalty s u fun p => { p with fixed := p.fixed.filter fun e => e.1 != cause }

/-- Decaying points added (R293). -/
def penDecay (s : State) (u pts : Nat) : State :=
  modPenalty s u fun p => { p with decay := p.decay + 1000 * pts }

/-- Decaying points for each whole `per` that a counter passes as it goes from `a` to `b`. -/
def penPer (s : State) (u a b per pts : Nat) : State :=
  let n := b / per - a / per
  if n = 0 then s else penDecay s u (n * pts)

/-- Cause keys of fixed points. -/
def pcRemap : Nat := 1
def pcSubst : Nat := 2
def pcRepair : Nat := 3
def pcWidth : Nat := 4
def pcMargin (region : Nat) : Nat := 8 + region
def pcAdvice (bit : Nat) : Nat := 16 + bit
def pcLane (lane : Nat) : Nat := 64 + lane

/-- PENALTY_POINT_DECAY: HLT_HALF_LIFE_H of powered time passes (R293). -/
def execPenaltyPointDecay (unit : Nat) (s : State) : Host.Outcome State Fault Refusal :=
  .next (modPenalty s unit fun p => { p with decay := p.decay / 2 })

end Sys2Proof.Machine
end

