-- ==== Sys2Proof/Machine/PlanImage.lean ====
section
/-! DEFINITION. Reading a plan image (R59 to R62, R66) and a partition's view of memory (R61, R107, R108). -/

namespace Sys2Proof.Machine

open Sys2Proof

/-! ### Header and sections -/

/-- A little-endian field of an image. -/
def imgLe (im : List Byte) (o n : Nat) : Nat := leField im o n

def imgLen (im : List Byte) : Nat := imgLe im 0x008 8
def imgPlanId (im : List Byte) : Nat := imgLe im 0x010 8
def imgDigest (im : List Byte) : Nat := imgLe im 0x018 8
def imgSeed (im : List Byte) : Nat := imgLe im 0x020 8
def imgCclk (im : List Byte) : Nat := imgLe im 0x028 4
def imgSegments (im : List Byte) : Nat := imgLe im 0x02C 4
def imgSlipReplays (im : List Byte) : Nat := imgLe im 0x030 1
def imgFlags (im : List Byte) : Nat := imgLe im 0x034 4

/-- Offset and length of section `k`. -/
def secOff (im : List Byte) (k : Nat) : Nat := imgLe im (0x40 + 16 * k) 8
def secLen (im : List Byte) (k : Nat) : Nat := imgLe im (0x48 + 16 * k) 8

/-- A field of section `k`. -/
def secLe (im : List Byte) (k o n : Nat) : Nat := imgLe im (secOff im k + o) n

/-- The digest of an image (R60): CRC-64/XZ with its own field taken as 0. -/
def imageDigest (im : List Byte) : Nat :=
  crc64 (im.take 0x18 ++ List.replicate 8 0 ++ im.drop 0x20)

/-! ### Footprint (R62) -/

def fpBlocks (im : List Byte) : Nat := secLe im 0 0x00 4
def fpSram (im : List Byte) : Nat := secLe im 0 0x04 4
def fpHbm (im : List Byte) (r : Nat) : Nat := secLe im 0 (0x08 + 4 * r) 4
def fpJournal (im : List Byte) : Nat := secLe im 0 0x28 4
def fpKeep (im : List Byte) : Nat := secLe im 0 0x2C 4
def fpVc1 (im : List Byte) (p : Nat) : Nat := secLe im 0 (0x30 + 2 * p) 2
def fpChips (im : List Byte) : Nat := secLe im 0 0x3C 4

/-! ### Streams, descriptors, sync points, digests (R61, R66) -/

/-- Stream directory entry of plan block `b` and segment `g`: offset in section 2, bundles stored, bundles
issued. -/
def dirEntry (im : List Byte) (b g : Nat) : Nat × Nat × Nat :=
  let o := 16 * (b * imgSegments im + g)
  (secLe im 1 o 8, secLe im 1 (o + 8) 4, secLe im 1 (o + 12) 4)

/-- The stored bundle `i` of plan block `b` and segment `g`. -/
def bundleAt (im : List Byte) (b g i : Nat) : List Byte :=
  sliceZ im (secOff im 2 + (dirEntry im b g).1 + 64 * i) 64

/-- The stored bundles of a block and segment. -/
def bundlesOf (im : List Byte) (b g : Nat) : List (List Byte) :=
  (List.range (dirEntry im b g).2.1).map (bundleAt im b g)

/-- Offset in section 3 of plan block `b`'s descriptor table. -/
def descOff (im : List Byte) (b : Nat) : Nat :=
  match b with
  | 0 => 0
  | b + 1 => descOff im b + 16 + 32 * secLe im 3 (descOff im b + 4) 4

/-- Head of a block's descriptor table: first SRAM line and entry count. -/
def descLine (im : List Byte) (b : Nat) : Nat := secLe im 3 (descOff im b) 4
def descCount (im : List Byte) (b : Nat) : Nat := secLe im 3 (descOff im b + 4) 4

/-- The bytes of a block's descriptors. -/
def descBytes (im : List Byte) (b : Nat) : List Byte :=
  sliceZ im (secOff im 3 + descOff im b + 16) (32 * descCount im b)

/-- Sync point of segment `g`: OFFSET, NOMINAL, SLACK (R66). -/
def syncOffset (im : List Byte) (g : Nat) : Nat := secLe im 5 (16 * g) 8
def syncNominal (im : List Byte) (g : Nat) : Nat := secLe im 5 (16 * g + 8) 4
def syncSlack (im : List Byte) (g : Nat) : Nat := secLe im 5 (16 * g + 12) 4

/-- Segment digest of plan block `b` and segment `g`. -/
def segDigest (im : List Byte) (b g : Nat) : Nat := secLe im 6 (8 * (b * imgSegments im + g)) 8

/-- A stateful region (R61): first page, page count, flags. -/
def regionAt (im : List Byte) (k : Nat) : Nat × Nat × Nat :=
  (secLe im 9 (16 * k) 4, secLe im 9 (16 * k + 4) 4, secLe im 9 (16 * k + 8) 4)

/-- The stateful regions. -/
def regionsOf (im : List Byte) : List (Nat × Nat × Nat) :=
  (List.range (secLen im 9 / 16)).map (regionAt im)

/-- The flags of the stateful region that holds a page, 0 where none does. -/
def regionFlags (im : List Byte) (page : Nat) : Nat :=
  match (regionsOf im).find? fun g => decide (g.1 ≤ page) && decide (page < g.1 + g.2.1) with
  | some g => g.2.2 % 4
  | none => 0

/-- The kept pages in ascending order (R250). -/
def keptPages (im : List Byte) : List Nat :=
  sortNat (((regionsOf im).filter fun g => bitOf g.2.2 0).map fun g => (List.range g.2.1).map (g.1 + ·)).flatten

/-! ### Partitions' slices and views (R107, R108) -/

/-- The slices of a partition with a use in a stack, ascending. -/
def State.slices (s : State) (p use stack : Nat) : List Nat :=
  ((List.range 48).map (48 * stack + ·)).filter fun k =>
    s.rd R.MEM_SLICE_PART k == p && s.rd R.MEM_SLICE_USE k == use

/-- The slices of a partition with a use in any stack, ascending. -/
def State.slicesAll (s : State) (p use : Nat) : List Nat :=
  (List.range 384).filter fun k => s.rd R.MEM_SLICE_PART k == p && s.rd R.MEM_SLICE_USE k == use

/-- The slices of a partition with a use in stacks that have not failed (R100), ascending. -/
def State.slicesUp (s : State) (p use : Nat) : List Nat :=
  (s.slicesAll p use).filter fun k => s.rd R.MEM_HBM_STATE (k / 48) != 1

/-- Every slice of a partition. -/
def State.slicesOf (s : State) (p : Nat) : List Nat :=
  (List.range 384).filter fun k => s.rd R.MEM_SLICE_PART k == p

def gib : Nat := 0x40000000
def stackBytes : Nat := 0xC00000000
def sramStart : Nat := 0x400000000000
def sramBytes : Nat := 0x40000000
def blockBytes : Nat := 0x800000
def pageBytes : Nat := 65536

/-- The chip offset of an offset of a partition's view, none outside the view (R108). -/
def State.viewAddr (s : State) (p off : Nat) : Option Nat :=
  if off < hbmBytes then
    match (s.slices p 1 (off / stackBytes)).drop (off % stackBytes / gib) with
    | k :: _ => some (k * gib + off % gib)
    | [] => none
  else if sramStart ≤ off ∧ off < sramStart + sramBytes then
    match (s.blocksOf p).drop ((off - sramStart) / blockBytes) with
    | b :: _ => some (sramBase b + (off - sramStart) % blockBytes)
    | [] => none
  else none

/-- The pieces of a range at unit boundaries: (offset, length) each inside one slice or block. -/
def pieces (fuel unit off len : Nat) : List (Nat × Nat) :=
  match fuel with
  | 0 => []
  | n + 1 =>
    if len = 0 then []
    else
      let k := min len (unit - off % unit)
      (off, k) :: pieces n unit (off + k) (len - k)

/-- A range cut at 64 KiB pages. -/
def pagesOf (off len : Nat) : List (Nat × Nat) := pieces (len / pageBytes + 2) pageBytes off len

/-- A range of a view as ranges of the chip, none where any of it lies outside. -/
def State.viewRange (s : State) (p off len : Nat) : Option (List (Nat × Nat)) :=
  (pieces (len / blockBytes + 2) blockBytes off len).mapM fun c =>
    (s.viewAddr p c.1).map fun a => (a, c.2)

/-- The partition and view page of a chip offset in a plan slice. -/
def State.pageOf (s : State) (a : Nat) : Option (Nat × Nat) :=
  let k := a / gib
  if a < hbmBytes ∧ s.rd R.MEM_SLICE_USE k = 1 ∧ s.rd R.MEM_SLICE_PART k < 128 then
    let p := s.rd R.MEM_SLICE_PART k
    let i := ((s.slices p 1 (k / 48)).takeWhile fun x => x != k).length
    some (p, (k / 48) * 786432 + i * 16384 + a % gib / pageBytes)
  else none

/-- The chip offset of a view page, none outside the view. -/
def State.pageAddr (s : State) (p page : Nat) : Option Nat := s.viewAddr p (page * pageBytes)

/-- Where `n` bytes from offset `o` of a partition's image lie in its HBM (R64): the image fills the partition's plan slices in
ascending order from the first on, as the worked example of R118 has it. Bytes past the last slice lie nowhere. -/
def State.stageRange (s : State) (p o n : Nat) : List (Nat × Nat) :=
  (pieces (n / 0x40000000 + 2) 0x40000000 o n).filterMap fun c =>
    ((s.slicesUp p 1).drop (c.1 / 0x40000000)).head?.map fun k => (k * 0x40000000 + c.1 % 0x40000000, c.2)

/-- The image of a partition's plan. -/
def State.img (s : State) (p : Nat) : List Byte := (s.part p).image

/-- Whether a partition holds a plan. -/
def State.hasPlan (s : State) (p : Nat) : Bool := decide (psLoaded ≤ s.pstate p)

/-- The number of a block among its partition's (R61). -/
def State.planBlock (s : State) (b : Nat) : Nat :=
  ((s.blocksOf (s.partOf b)).takeWhile fun x => x != b).length

/-- Whether a replay of a step is under way: its run is not its first. -/
def State.replaying (s : State) (p : Nat) : Bool := decide (1 < s.rd R.SEAL_RUN p)

end Sys2Proof.Machine
end

