-- ==== Sys2Proof/Machine/Journal.lean ====
section
/-! DEFINITION. Writes to memory with the undo journal and the delta (R242 to R246, R248, R257). -/

namespace Sys2Proof.Machine

open Sys2Proof

/-! ### The verdict (R252) -/

/-- A cause of "do not seal" noted in a partition's verdict, while it has a step. -/
def doNotSeal (s : State) (p : Nat) (f : Verdict → Verdict) : State :=
  if p < 128 ∧ s.active p = true then s.modPart p fun q => { q with verdict := f q.verdict } else s

def vCheck (v : Verdict) : Verdict := { v with check := true }
def vPoison (v : Verdict) : Verdict := { v with poison := true }
def vSlip (v : Verdict) : Verdict := { v with slip := true }
def vPlanErr (v : Verdict) : Verdict := { v with planErr := true }
def vNotice (v : Verdict) : Verdict := { v with notice := true }

/-! ### Buddy state (R250) -/

def bNone : Nat := 0
def bFilling : Nat := 1
def bCurrent : Nat := 2
def bBehind : Nat := 3

/-- The buddy state set; a change writes event 0xA011 with its cause. -/
def setBuddyState (s : State) (p new cause : Nat) : State :=
  let old := s.rd R.SEAL_BUDDY_STATE p
  if old = new then s
  else (s.wr R.SEAL_BUDDY_STATE p new).record 0xA011 uFcc [(1, old), (1, new), (1, cause)]

/-! ### The journal (R244) -/

/-- The segment of a step. -/
def segOf (q : Part) (step : Nat) : JournalSeg := (q.journal.find? fun g => g.step == step).getD { step := step }

/-- Whether a step's segment holds a page. -/
def inSeg (q : Part) (step page : Nat) : Bool := (segOf q step).entries.any fun e => e.page == page

/-- Journal pages in use: one per entry and one index page for each 4,096 entries of a segment (R244). -/
def jnlUsed (q : Part) : Nat :=
  (q.journal.map fun g => g.entries.length + ceilDiv g.entries.length 4096).foldl (· + ·) 0

/-- The journal's size: the plan's JOURNAL_PAGES within the partition's journal slices. -/
def jnlSize (s : State) (p : Nat) : Nat :=
  min (fpJournal (s.img p)) (16384 * (s.slicesUp p 2).length)

/-- The pages whose first writes wait for a copy. -/
def heldPages (q : Part) : List Nat := (q.held.map (·.page)).foldl (fun l x => addNew l x) []

/-- Journal pages an additional entry of a step would bring into use, copies under way counted. -/
def jnlNeed (q : Part) (step : Nat) : Nat :=
  let n := (segOf q step).entries.length + (heldPages q).length
  jnlUsed q + (heldPages q).length + 1 + (ceilDiv (n + 1) 4096 - ceilDiv (segOf q step).entries.length 4096)

/-- The lowest journal page that no entry uses. -/
def jnlFree (s : State) (p : Nat) : Option Nat :=
  let used := ((s.part p).journal.map fun g => g.entries.map (·.jpage)).flatten
  (List.range (jnlSize s p)).find? fun k => !used.contains k

/-- The chip offset of a journal page. -/
def jnlAddr (s : State) (p k : Nat) : Nat :=
  (getAt 0 (s.slicesUp p 2) (k / 16384)) * gib + k % 16384 * pageBytes

/-- SEAL_JNL_USED and its largest value brought up to date. -/
def jnlCount (s : State) (p : Nat) : State :=
  let n := jnlUsed (s.part p)
  (s.wr R.SEAL_JNL_USED p n).raise R.SEAL_JNL_MAX p n

/-- A page noted as written in the step (R248); one that was final is a plan error (R90). -/
def noteWritten (s : State) (p page : Nat) : State :=
  s.modPart p fun q => { q with written := addNew q.written page }

/-- A page written between steps (R257): part of the next step's delta, and the buddy is Behind until then. -/
def noteBetween (s : State) (p page : Nat) : State :=
  let t := s.modPart p fun q => { q with between := addNew q.between page }
  if s.rd R.SEAL_BUDDY_STATE p = bCurrent then setBuddyState t p bBehind 0 else t

/-- A write to a page marked final (R90): a plan error counted, and its early delta is void. -/
def finalCheck (s : State) (p page blk : Nat) : State :=
  if (s.part p).final.contains page then
    (s.bumpSat R.CMP_PLAN_ERR_FINAL blk 1).modPart p fun q =>
      { q with early := q.early.filter fun x => x != page }
  else s

/-- A journal overflow (R246). -/
def jnlOverflow (s : State) (p : Nat) : State :=
  if s.rd R.SEAL_JNL_STATE p = 1 then s
  else
    let step := s.rd R.SEAL_STEP p
    (((s.wr R.SEAL_JNL_STATE p 1).bumpSat R.SEAL_JNL_OVF p 1).modPart p fun q => { q with journalFull := true }).record
      0xA005 uFcc [(4, step), (4, jnlUsed (s.part p))]

/-- The block whose counters take a requester's plan errors. -/
def errBlock (s : State) (p unit : Nat) : Nat :=
  (unitBlock unit).getD (((s.blocksOf p).head?).getD 0)

/-- A write between steps noted beside every journal entry of its page, so that no rollback undoes it (R257). -/
def noteLater (s : State) (p : Nat) (w : HeldWrite) : State :=
  s.modPart p fun q => { q with journal := q.journal.map fun g => { g with entries := g.entries.map fun e =>
    if e.page = w.page then { e with later := e.later ++ [w] } else e } }

/-- A write to a kept page while no step runs (R257): without a journal copy, part of the last seal and of the next delta. -/
def betweenWrite (s : State) (p page a : Nat) (bs : List Byte) (bad : Bool) : State :=
  noteBetween (noteLater (s.store a bs bad) p { page := page, addr := a, data := bs, poison := bad }) p page

/-- A write inside one HBM page at a chip offset, by a unit. -/
def pageWrite (s : State) (unit a : Nat) (bs : List Byte) (bad : Bool) : State :=
  match s.pageOf a with
  | none => s.store a bs bad
  | some (p, page) =>
    let fl := if s.hasPlan p then regionFlags (s.img p) page else 0
    let step := s.rd R.SEAL_STEP p
    if fl = 0 then s.store a bs bad
    else if s.pstate p ≠ psRunning then betweenWrite s p page a bs bad
    else if fl = 1 then
      doNotSeal ((noteWritten (s.store a bs bad) p page).record 0xA020 uFcc [(4, page), (2, unit)]) p vPlanErr
    else
      let s1 := finalCheck s p page (errBlock s p unit)
      let q := s1.part p
      if (heldPages q).contains page then
        s1.modPart p fun q => { q with held := q.held ++ [{ page := page, addr := a, data := bs, poison := bad }] }
      else if inSeg q step page ∨ s1.rd R.SEAL_JNL_STATE p = 1 then noteWritten (s1.store a bs bad) p page
      else if jnlNeed q step ≤ jnlSize s1 p then
        s1.modPart p fun q => { q with held := q.held ++ [{ page := page, addr := a, data := bs, poison := bad }] }
      else noteWritten ((jnlOverflow s1 p).store a bs bad) p page

/-- A write anywhere in the chip's HBM or SRAM, page by page. -/
def chipWrite (s : State) (unit a : Nat) (bs : List Byte) (bad : Bool) : State :=
  s.each (pagesOf a bs.length) fun t c =>
    pageWrite t unit c.1 ((bs.drop (c.1 - a)).take c.2) bad

/-- The pages of a step's delta that the buddy's state lets the chip send (R250): none without a copy, while it is Filling
only pages already sent. -/
def deltaOf (s : State) (p : Nat) (pages : List Nat) : List Nat :=
  let st := s.rd R.SEAL_BUDDY_STATE p
  let sent := (keptPages (s.img p)).take (s.part p).fillNext
  if st = bNone then [] else if st = bFilling then pages.filter fun x => sent.contains x else pages

/-- The step boundary (R248): the pages of the step's delta that are still to send. -/
def stepBoundary (s : State) (p : Nat) : State :=
  let step := s.rd R.SEAL_STEP p
  let q := s.part p
  let pages := (q.between.foldl addNew q.written).filter fun x => !q.early.contains x
  let mine := deltaOf s p pages
  s.modPart p fun q =>
    { q with toSend := q.toSend ++ mine.map fun x => (step, x), betweenSent := q.between, between := [] }

/-- A page noted as written in the step whose writes have waited for its copy; one that lands at the stop joins the step's
delta (log 56). -/
def noteLanded (s : State) (p page : Nat) : State :=
  let t := noteWritten s p page
  let e := (s.rd R.SEAL_STEP p, page)
  if s.pstate p = psStopped ∧ (s.part p).replay.isNone = true ∧ deltaOf s p [page] ≠ [] ∧ e ∉ (s.part p).toSend then
    t.modPart p fun q => { q with toSend := q.toSend ++ [e] }
  else t

/-- A page's first copy of a step recorded in its journal (R244). -/
def jnlEnter (s : State) (p page : Nat) : State :=
  let q := s.part p
  let step := s.rd R.SEAL_STEP p
  match jnlFree s p, s.pageAddr p page with
  | some k, some a =>
    let e : JournalEntry := { page := page, jpage := k }
    let seg := segOf q step
    let rest := q.journal.filter fun (g : JournalSeg) => g.step != step
    jnlCount ((s.copyMem a (jnlAddr s p k) pageBytes).modPart p fun q =>
      { q with journal := rest ++ [{ seg with entries := seg.entries ++ [e] }] }) p
  | _, _ => s

/-- A page's journal copy completed: its entry recorded, and the writes that waited landed (R244). Where the run has ended
meanwhile they land as writes between steps (R257). -/
def jnlCopyDone (s : State) (p page : Nat) : State :=
  let mine := (s.part p).held.filter fun h => h.page == page
  if mine = [] then s
  else
    let live := s.active p
    let s1 := if live then jnlEnter s p page else s
    let s2 := s1.modPart p fun q => { q with held := q.held.filter fun h => h.page != page }
    s2.each mine fun t h =>
      if live then noteLanded (t.store h.addr h.data h.poison) p page else betweenWrite t p page h.addr h.data h.poison

end Sys2Proof.Machine
end

