-- ==== Sys2Proof/Machine/Packet.lean ====
section
/-! DEFINITION. Words and bytes on a link: the flit (R123), the flit tag and the packet header (R147 to R149), and the bodies of
Clover and management messages (R270 to R284, R373). -/

namespace Sys2Proof.Machine

open Sys2Proof

/-- A word of fields packed from the least significant bit, each a width in bits and a value. -/
def packBits (l : List (Nat × Nat)) : Nat := l.foldr (fun f acc => f.2 % 2 ^ f.1 + 2 ^ f.1 * acc) 0

/-! ### Packets (R147 to R149) -/

/-- Flits of a packet of `n` data bytes (R147). -/
def flitsOf (n : Nat) : Nat := if n ≤ 200 then 1 else 1 + ceilDiv (n - 200) 232

/-- The most data that a packet's flits have room for. -/
def roomOf (flits : Nat) : Nat := 200 + 232 * (flits - 1)

/-- The most data of a packet (R147). -/
def maxData : Nat := 3680

/-- The flit tag as its word (R148). -/
def tagWord (t : FlitTag) : Nat :=
  packBits [(55, t.resv), (4, t.index), (1, b2n t.last), (1, b2n t.first), (3, t.vc)]

/-- The flit tag of a word. -/
def tagOfWord (w : Nat) : FlitTag :=
  { vc := bits w 61 3, first := bitOf w 60, last := bitOf w 59, index := bits w 55 4, resv := bits w 0 55 }

/-- The packet header as its word (R149). -/
def headerWord (p : Packet) : Nat :=
  packBits [(26, p.resv), (1, b2n p.loc), (1, b2n p.poison), (12, p.sched), (16, p.rid), (10, p.func), (4, p.tgen),
    (7, p.spart), (16, p.dtag), (1, b2n p.syn), (16, p.incarn), (16, p.eseq), (16, p.birth), (8, p.hops), (1, b2n p.detour),
    (1, p.epoch), (12, p.dlen), (4, p.len), (4, p.kind), (3, p.vc), (17, p.src), (17, p.dst), (47, p.offset)]

/-- The packet of a header word and data. -/
def packetOfWord (w : Nat) (data : List Byte) : Packet :=
  { offset := bits w 209 47, dst := bits w 192 17, src := bits w 175 17, vc := bits w 172 3, kind := bits w 168 4,
    len := bits w 164 4, dlen := bits w 152 12, epoch := bits w 151 1, detour := bitOf w 150, hops := bits w 142 8,
    birth := bits w 126 16, eseq := bits w 110 16, incarn := bits w 94 16, syn := bitOf w 93, dtag := bits w 77 16,
    spart := bits w 70 7, tgen := bits w 66 4, func := bits w 56 10, rid := bits w 40 16, sched := bits w 28 12,
    poison := bitOf w 27, loc := bitOf w 26, resv := bits w 0 26, data := data }

/-- The tag of flit `k` of a packet. -/
def flitTag (p : Packet) (k : Nat) : FlitTag :=
  { vc := p.vc, first := k == 0, last := k == p.len, index := k, resv := 0 }

/-- The payload of flit `k` of a packet (R147): its tag, in the first flit the header, then the data. -/
def flitPayload (p : Packet) (k : Nat) : List Byte :=
  leBytes 8 (tagWord (flitTag p k)) ++
    (if k = 0 then leBytes 32 (headerWord p) ++ sliceZ p.data 0 200 else sliceZ p.data (200 + 232 * (k - 1)) 232)

/-- A packet with data: DLEN and LEN say how much (R149). -/
def withData (p : Packet) (data : List Byte) : Packet :=
  { p with data := data, dlen := data.length, len := flitsOf data.length - 1 }

/-- Whether a packet's tags and header are sound (R150): the flits in order, their number LEN + 1, the same VC in all of them and
the header, no reserved value, and data that the flits have room for. -/
def wellFormed (p : Packet) (tags : List Nat) : Bool :=
  decide (p.vc ≤ 4) && decide (p.kind ≤ 9) && p.resv == 0 && decide (p.dlen ≤ min maxData (roomOf (p.len + 1))) &&
    tags == (List.range (p.len + 1)).map (fun k => tagWord (flitTag p k)) &&
    !(p.kind == 5 && (p.vc == 2 || p.vc == 3))

/-! ### Flits (R123) -/

/-- The bytes of a link control payload: its code, then its fields (log 35). -/
def ctlBytes (c : LinkCtl) : List Byte :=
  let moves (l : List LaneMove) : List Byte := (l.map fun m => leBytes 1 m.lane ++ leBytes 1 m.spare).flatten
  match c with
  | .hello h =>
    leBytes 1 0x01 ++ leBytes 4 h.chip ++ leBytes 1 h.port ++ leBytes 1 h.gen ++ leBytes 2 h.expected ++ leBytes 1 h.depth ++
      (h.lanes.map (leBytes 1)).flatten ++ (h.relit.map (leBytes 1)).flatten
  | .spareReq m => leBytes 1 0x10 ++ moves m
  | .spareOffer l cause => leBytes 1 0x11 ++ leBytes 1 l ++ leBytes 1 cause
  | .spareGo m => leBytes 1 0x12 ++ moves m
  | .pause mask time => leBytes 1 0x20 ++ leBytes 1 mask ++ leBytes 2 time
  | .creditSync f => leBytes 1 0x21 ++ (f.map (leBytes 2)).flatten
  | .depth d => leBytes 1 0x30 ++ leBytes 1 d

/-- The 240 bytes of a payload. -/
def payloadBytes (p : Payload) : List Byte :=
  match p with
  | .empty => sliceZ [] 0 240
  | .data bs => sliceZ bs 0 240
  | .ctl c => sliceZ (ctlBytes c) 0 240

/-- The header of a flit as its word. -/
def flitWord (f : Flit) : Nat :=
  packBits [(24, f.resv), (8, f.crcnt), (3, f.crvc), (1, b2n f.ackv), (12, f.ack), (12, f.seq), (4, f.type)]

/-- Bytes 0 to 247 of a flit. -/
def flitBody (f : Flit) : List Byte := leBytes 8 (flitWord f) ++ payloadBytes f.payload

/-- CRC-64/XZ of bytes 0 to 247 of a flit. -/
def flitCrc (f : Flit) : Nat := crc64 (flitBody f)

/-- The 256 bytes of a flit. -/
def flitBytes (f : Flit) : List Byte := flitBody f ++ leBytes 8 f.crc

/-- The DATA flit of 256 bytes. -/
def flitOfBytes (bs : List Byte) : Flit :=
  let w := leField bs 0 8
  { type := bits w 60 4, seq := bits w 48 12, ack := bits w 36 12, ackv := bitOf w 35, crvc := bits w 32 3, crcnt := bits w 24 8,
    resv := bits w 0 24, payload := .data (sliceZ bs 8 240), crc := leField bs 248 8 }

/-! ### Messages of the FCC (R270 to R284, R373) -/

/-- The type of a Clover message (R271). -/
def clvMsg (b : ClvBody) : Nat :=
  match b with
  | .heartbeat _ => 0x01
  | .report _ => 0x02
  | .reject _ _ => 0x03
  | .notice _ => 0x04
  | .vote _ => 0x10
  | .commit _ => 0x11
  | .rolled _ => 0x12
  | .resume _ => 0x13
  | .ready _ => 0x14

/-- The header of a Clover message (R270). -/
def clvHead (h : ClvHdr) (msg : Nat) : List Byte :=
  leBytes 1 msg ++ leBytes 1 1 ++ leBytes 2 h.dtag ++ leBytes 1 h.part ++ leBytes 1 h.srole ++ leBytes 2 h.sseq ++
    leBytes 4 h.sender ++ leBytes 4 h.tray

/-- The body of a Clover message, from byte 16 on (R271, R272, R278, R282 to R284). -/
def clvBody (b : ClvBody) : List Byte :=
  match b with
  | .heartbeat h =>
    leBytes 4 h.alive ++ leBytes 2 h.boot ++ leBytes 1 (h.traypos % 4 + 4 * (h.bootmode % 4)) ++ leBytes 1 h.nbrUp ++
      leBytes 1 h.state ++ leBytes 3 0 ++ leBytes 4 h.arbA ++ leBytes 4 h.arbB ++ leBytes 4 h.step
  | .report r => leBytes 4 r.subject ++ leBytes 4 r.alive ++ leBytes 1 r.cause ++ leBytes 1 r.port
  | .reject subject status => leBytes 4 subject ++ leBytes 1 status
  | .notice n =>
    leBytes 4 n.subject ++ leBytes 2 n.sboot ++ leBytes 1 n.cause ++ leBytes 1 n.reporters ++ leBytes 4 n.step ++
      leBytes 4 n.dsec ++ leBytes 4 n.dns ++ leBytes 4 n.arbiter
  | .vote v =>
    leBytes 4 v.step ++ leBytes 1 v.run ++ leBytes 1 v.outcome ++ leBytes 1 v.flags ++ leBytes 1 0 ++ leBytes 4 v.count ++
      leBytes 8 v.digest ++ leBytes 4 v.rank
  | .commit c =>
    leBytes 4 c.step ++ leBytes 1 c.run ++ leBytes 1 c.outcome ++ leBytes 1 c.flags ++ leBytes 1 0 ++ leBytes 4 c.target ++
      leBytes 4 c.prot ++ leBytes 4 c.t0sec ++ leBytes 4 c.t0ns
  | .rolled m => leBytes 4 m.target ++ leBytes 1 m.gen ++ leBytes 3 0 ++ leBytes 4 m.count
  | .resume m => leBytes 4 m.step ++ leBytes 1 m.run ++ leBytes 3 0 ++ leBytes 4 m.t0sec ++ leBytes 4 m.t0ns
  | .ready m =>
    leBytes 4 m.step ++ leBytes 1 m.run ++ leBytes 1 (b2n m.withdraw) ++ leBytes 2 0 ++ leBytes 4 m.count ++
      leBytes 8 m.digest ++ leBytes 4 m.startSec ++ leBytes 4 m.startNs

/-- A Clover message. -/
def clvBytes (h : ClvHdr) (b : ClvBody) : List Byte := clvHead h (clvMsg b) ++ clvBody b

/-- A forwarded request or response (R373): bytes 2 to 19 of the header of R366, then the operations. -/
def mgmtBytes (h : ClvHdr) (msg : Nat) (f : Frame) : List Byte :=
  clvHead h msg ++ beBytes 1 f.flags ++ beBytes 1 f.role ++ beBytes 1 f.srole ++ beBytes 1 f.session ++ beBytes 2 f.sseq ++
    beBytes 1 f.dstPos ++ [0] ++ beBytes 4 f.seq ++ beBytes 4 f.tray ++ beBytes 2 f.len ++ f.payload

/-- Whether a message's MSG is one of R271 or R373 and its VERSION is 1 (R270). -/
def clvKnown (bs : List Byte) : Bool :=
  [0x01, 0x02, 0x03, 0x04, 0x10, 0x11, 0x12, 0x13, 0x14, 0x20, 0x21].contains (leField bs 0 1) && leField bs 1 1 == 1

end Sys2Proof.Machine
end

