-- ==== Sys2Proof/Machine/Sha.lean ====
section
/-! DEFINITION. SHA-256 and HMAC-SHA-256 (FIPS 180-4, RFC 2104), which sessions and the steward link use
(R366, R367). -/

namespace Sys2Proof.Machine

open Sys2Proof

/-- The eight 32-bit words of a 256-bit number, the most significant first. -/
def words256 (n : Nat) : List Word := (List.range 8).map fun i => BitVec.ofNat 32 (n / 2 ^ (32 * (7 - i)))

/-- The 64 round constants of SHA-256 (FIPS 180-4, 4.2.2), eight to a number. -/
def roundKeys : List Word :=
  [0x428A2F9871374491B5C0FBCFE9B5DBA53956C25B59F111F1923F82A4AB1C5ED5,
   0xD807AA9812835B01243185BE550C7DC372BE5D7480DEB1FE9BDC06A7C19BF174,
   0xE49B69C1EFBE47860FC19DC6240CA1CC2DE92C6F4A7484AA5CB0A9DC76F988DA,
   0x983E5152A831C66DB00327C8BF597FC7C6E00BF3D5A7914706CA635114292967,
   0x27B70A852E1B21384D2C6DFC53380D13650A7354766A0ABB81C2C92E92722C85,
   0xA2BFE8A1A81A664BC24B8B70C76C51A3D192E819D6990624F40E3585106AA070,
   0x19A4C1161E376C082748774C34B0BCB5391C0CB34ED8AA4A5B9CCA4F682E6FF3,
   0x748F82EE78A5636F84C878148CC7020890BEFFFAA4506CEBBEF9A3F7C67178F2].flatMap words256

/-- The working variables of SHA-256. -/
structure Sha where
  a : Word
  b : Word
  c : Word
  d : Word
  e : Word
  f : Word
  g : Word
  h : Word
  deriving DecidableEq, Repr

/-- The initial hash value (FIPS 180-4, 5.3.3). -/
def shaStart : Sha :=
  match words256 0x6A09E667BB67AE853C6EF372A54FF53A510E527F9B05688C1F83D9AB5BE0CD19 with
  | [a, b, c, d, e, f, g, h] => ⟨a, b, c, d, e, f, g, h⟩
  | _ => ⟨0, 0, 0, 0, 0, 0, 0, 0⟩

/-- The exclusive or of three rotations of a word. -/
def spin (x : Word) (i j k : Nat) : Word := x.rotateRight i ^^^ x.rotateRight j ^^^ x.rotateRight k

/-- One round, under the round constant and the schedule word (FIPS 180-4, 6.2.2). -/
def shaRound (v : Sha) (k w : Word) : Sha :=
  let pick := v.g ^^^ (v.e &&& (v.f ^^^ v.g))
  let most := (v.a &&& v.b) ||| (v.c &&& (v.a ||| v.b))
  let up := w + k + pick + v.h + spin v.e 6 11 25
  { a := up + (most + spin v.a 2 13 22), b := v.a, c := v.b, d := v.c, e := v.d + up, f := v.e, g := v.f, h := v.g }

/-- The next word of the schedule from the last sixteen, oldest first. -/
def shaNext (w : List Word) : Word :=
  let early := getAt 0 w 1
  let late := getAt 0 w 14
  (early.rotateRight 7 ^^^ early.rotateRight 18 ^^^ early >>> 3) + getAt 0 w 0 +
    ((late.rotateRight 17 ^^^ late.rotateRight 19 ^^^ late >>> 10) + getAt 0 w 9)

/-- The rounds over the round constants left, the window holding the sixteen words in use. -/
def shaRounds (ks : List Word) (w : List Word) (s : Sha) : Sha :=
  match ks with
  | [] => s
  | k :: r => shaRounds r (w.drop 1 ++ [shaNext w]) (shaRound s k (getAt 0 w 0))

/-- The sixteen words of a block of 64 bytes. -/
def shaWords (bs : List Byte) : List Word :=
  (List.range 16).map fun i => BitVec.ofNat 32 (beVal ((bs.drop (4 * i)).take 4))

/-- One block. -/
def shaBlock (s : Sha) (bs : List Byte) : Sha :=
  let t := shaRounds roundKeys (shaWords bs) s
  ⟨s.a + t.a, s.b + t.b, s.c + t.c, s.d + t.d, s.e + t.e, s.f + t.f, s.g + t.g, s.h + t.h⟩

/-- `n` blocks. -/
def shaBlocks (n : Nat) (s : Sha) (bs : List Byte) : Sha :=
  match n with
  | 0 => s
  | n + 1 => shaBlocks n (shaBlock s (bs.take 64)) (bs.drop 64)

/-- SHA-256 of a byte string. -/
def sha256 (bs : List Byte) : List Byte :=
  let pad := (119 - bs.length % 64) % 64
  let m := bs ++ [0x80] ++ List.replicate pad 0 ++ beBytes 8 (8 * bs.length)
  let s := shaBlocks (m.length / 64) shaStart m
  ([s.a, s.b, s.c, s.d, s.e, s.f, s.g, s.h].map fun w => beBytes 4 w.toNat).flatten

/-- A key as HMAC uses it: 64 bytes. -/
def hmacKey (key : List Byte) : List Byte :=
  sliceZ (if 64 < key.length then sha256 key else key) 0 64

/-- HMAC-SHA-256. -/
def hmac (key msg : List Byte) : List Byte :=
  let k := hmacKey key
  sha256 ((k.map fun b => b ^^^ 0x5C) ++ sha256 ((k.map fun b => b ^^^ 0x36) ++ msg))

end Sys2Proof.Machine
end

