-- ==== Sys2Proof/Machine/Topo.lean ====
section
/-! DEFINITION. The torus, the domain map and the domain tree (R162, R282). -/

namespace Sys2Proof.Machine

open Sys2Proof

/-! ### Chip numbers and the domain map (R162) -/

def chipX (c : Nat) : Nat := bits c 0 6
def chipY (c : Nat) : Nat := bits c 6 6
def chipZ (c : Nat) : Nat := bits c 12 5

/-- A fabric chip number of coordinates. -/
def chipAt (x y z : Nat) : Nat := x + 64 * y + 4096 * z

def State.torusX (s : State) : Nat := bits (s.rd R.FAB_TORUS_DIM 0) 0 6 + 1
def State.torusY (s : State) : Nat := bits (s.rd R.FAB_TORUS_DIM 0) 6 6 + 1
def State.torusZ (s : State) : Nat := bits (s.rd R.FAB_TORUS_DIM 0) 12 5 + 1

/-- The chip's own fabric chip number: FAB_CHIP_ID as the last training took it (R174). -/
def State.me (s : State) : Nat := s.router.chipId

/-- The number of the chip beyond a port of a chip. -/
def beyondOf (s : State) (chip port : Nat) : Nat :=
  let x := chipX chip
  let y := chipY chip
  let z := chipZ chip
  let nx := s.torusX
  let ny := s.torusY
  let nz := s.torusZ
  match port with
  | 0 => chipAt ((x + 1) % nx) y z
  | 1 => chipAt ((x + (nx - 1)) % nx) y z
  | 2 => chipAt x ((y + 1) % ny) z
  | 3 => chipAt x ((y + (ny - 1)) % ny) z
  | 4 => chipAt x y ((z + 1) % nz)
  | _ => chipAt x y ((z + (nz - 1)) % nz)

/-- The number of the chip beyond a port. -/
def State.beyond (s : State) (port : Nat) : Nat := beyondOf s s.me port

/-- A domain map slot's fields. -/
structure DSlot where
  slot : Nat
  x0 : Nat
  y0 : Nat
  z0 : Nat
  ex : Nat
  ey : Nat
  ez : Nat
  deriving DecidableEq, Repr

/-- The valid slot of a version whose DTAG matches (R162). -/
def State.dslot (s : State) (ver dtag : Nat) : Option DSlot :=
  (((List.range 16).filter fun k =>
      let v := s.rd R.FAB_DMAP (16 * ver + k)
      bitOf v 63 && bits v 47 16 == dtag).head?).map fun k =>
    let v := s.rd R.FAB_DMAP (16 * ver + k)
    { slot := k, x0 := bits v 41 6, y0 := bits v 35 6, z0 := bits v 30 5, ex := bits v 24 6 + 1,
      ey := bits v 18 6 + 1, ez := bits v 13 5 + 1 }

/-- The override of a rank in a slot, if any. -/
def State.override (s : State) (ver slot rank : Nat) : Option Nat :=
  (((List.range 64).filter fun k =>
      let v := s.rd R.FAB_DMAP_OVR (64 * ver + k)
      bitOf v 63 && bits v 59 4 == slot && bits v 42 17 == rank).head?).map fun k =>
    bits (s.rd R.FAB_DMAP_OVR (64 * ver + k)) 25 17

/-- The fabric chip of a domain-relative chip number (R162). -/
def State.chipOf (s : State) (ver dtag r : Nat) : Option Nat :=
  match s.dslot ver dtag with
  | none => none
  | some d =>
    if d.ex * d.ey * d.ez ≤ r then none
    else
      match s.override ver d.slot r with
      | some c => some c
      | none =>
        some (chipAt ((d.x0 + r % d.ex) % s.torusX) ((d.y0 + r / d.ex % d.ey) % s.torusY)
          ((d.z0 + r / (d.ex * d.ey)) % s.torusZ))

/-- The version injected packets carry. -/
def State.injVer (s : State) : Nat := s.rd R.FAB_EPOCH_INJ 0

/-! ### The domain tree (R282) -/

/-- The ranks a slot maps to a fabric chip by its coordinates alone. -/
def rankAt (s : State) (d : DSlot) (c : Nat) : Option Nat :=
  let rx := (chipX c + (s.torusX - d.x0 % s.torusX)) % s.torusX
  let ry := (chipY c + (s.torusY - d.y0 % s.torusY)) % s.torusY
  let rz := (chipZ c + (s.torusZ - d.z0 % s.torusZ)) % s.torusZ
  if rx < d.ex ∧ ry < d.ey ∧ rz < d.ez then some (rx + d.ex * ry + d.ex * d.ey * rz) else none

/-- The rank of a fabric chip in a domain: named by an override, or by its place. -/
def State.rankOf (s : State) (dtag c : Nat) : Option Nat :=
  match s.dslot s.injVer dtag with
  | none => none
  | some d =>
    match (List.range 64).find? fun k =>
        let v := s.rd R.FAB_DMAP_OVR (64 * s.injVer + k)
        bitOf v 63 && bits v 59 4 == d.slot && bits v 25 17 == c with
    | some k => some (bits (s.rd R.FAB_DMAP_OVR (64 * s.injVer + k)) 42 17)
    | none =>
      match rankAt s d c with
      | some r => if (s.override s.injVer d.slot r).isNone then some r else none
      | none => none

/-- The domain tag of a partition. -/
def State.tagOf (s : State) (p : Nat) : Nat := s.rd R.CMP_PART_TAG p

/-- The domain slot of a partition; a domain of one chip where none is valid. -/
def State.domOf (s : State) (p : Nat) : DSlot :=
  (s.dslot s.injVer (s.tagOf p)).getD
    { slot := 0, x0 := chipX s.me, y0 := chipY s.me, z0 := chipZ s.me, ex := 1, ey := 1, ez := 1 }

/-- The chip's rank in a partition's domain. -/
def State.rank (s : State) (p : Nat) : Nat := (s.rankOf (s.tagOf p) s.me).getD 0

/-- The root rank: CLV_ROOT, or the middle of the box. -/
def State.root (s : State) (p : Nat) : Nat :=
  let d := s.domOf p
  let v := s.rd R.CLV_ROOT p
  if v = 0xFFFFFFFF then d.ex / 2 + d.ex * (d.ey / 2) + d.ex * d.ey * (d.ez / 2) else v

/-- One step of a coordinate toward another. -/
def toward (a b : Nat) : Nat := if a < b then a + 1 else if b < a then a - 1 else a

/-- The parent of a rank, none at the root. -/
def parentOf (d : DSlot) (root r : Nat) : Option Nat :=
  let x := r % d.ex
  let y := r / d.ex % d.ey
  let z := r / (d.ex * d.ey)
  let x' := root % d.ex
  let y' := root / d.ex % d.ey
  let z' := root / (d.ex * d.ey)
  if z ≠ z' then some (x + d.ex * y + d.ex * d.ey * toward z z')
  else if y ≠ y' then some (x + d.ex * toward y y' + d.ex * d.ey * z)
  else if x ≠ x' then some (toward x x' + d.ex * y + d.ex * d.ey * z)
  else none

/-- The children of a rank, lowest first. -/
def childrenOf (d : DSlot) (root r : Nat) : List Nat :=
  let near := [r + 1, r - 1, r + d.ex, r - d.ex, r + d.ex * d.ey, r - d.ex * d.ey]
  let real := near.filter fun c => decide (c < d.ex * d.ey * d.ez) && parentOf d root c == some r
  sortNat (real.foldl (fun l c => addNew l c) [])

/-- The depth of the tree: the most steps from a rank to the root. -/
def treeDepth (d : DSlot) (root : Nat) : Nat :=
  let x := root % d.ex
  let y := root / d.ex % d.ey
  let z := root / (d.ex * d.ey)
  max x (d.ex - 1 - x) + max y (d.ey - 1 - y) + max z (d.ez - 1 - z)

def State.parent (s : State) (p : Nat) : Option Nat := parentOf (s.domOf p) (s.root p) (s.rank p)
def State.children (s : State) (p : Nat) : List Nat := childrenOf (s.domOf p) (s.root p) (s.rank p)

/-- The fabric chip of a rank of a partition's domain; the chip itself in a domain of one. -/
def State.rankChip (s : State) (p r : Nat) : Nat := (s.chipOf s.injVer (s.tagOf p) r).getD s.me

/-- CLV_PARENT and CLV_DEPTH brought up to date. -/
def setTree (s : State) (p : Nat) : State :=
  (s.wr R.CLV_PARENT p ((s.parent p).getD 0xFFFFFFFF)).wr R.CLV_DEPTH p (treeDepth (s.domOf p) (s.root p))

end Sys2Proof.Machine
end

