-- ==== Sys2Proof/Machine/Fabric.lean ====
section
/-! DEFINITION. Queues, drops and routing by table versions (R155, R162 to R168, R174, R414), and the messages that the FCC
sends on VC0 (R151, R152, R270, R271, R372). -/

namespace Sys2Proof.Machine

open Sys2Proof

/-- The router changed. -/
def State.modRouter (s : State) (f : Router → Router) : State := s.setRouter (f s.router)

/-- Network time in ms modulo 65,536 (R149). -/
def State.nowMs (s : State) : Nat := (s.now / 1000000 % 65536).toNat

/-- Whether a port is Up. -/
def State.portUp (s : State) (p : Nat) : Bool := s.rd R.FAB_PORT_STATE p == 2

/-- The credit class of a packet (R155). -/
def classOf (p : Packet) : Nat :=
  if p.detour ∧ p.vc = 2 then 5 else if p.detour ∧ p.vc = 3 then 6 else p.vc

/-! ### Drops (R150, R163, R174, R414) -/

/-- The counter of a drop cause. -/
def dropReg (cause : Nat) : Reg :=
  match cause with
  | 1 => R.FAB_DROP_AGE
  | 2 => R.FAB_DROP_HOPS
  | 3 => R.FAB_DROP_STALE
  | 4 => R.FAB_DROP_NOROUTE
  | 5 => R.FAB_DROP_BAD
  | 6 => R.FAB_DROP_VC1
  | 7 => R.FAB_DROP_MCAST
  | _ => R.FAB_DROP_AUTH

/-- The partitions with a step under way whose domain tag is a packet's (R414). -/
def State.tagParts (s : State) (tag : Nat) : List Nat :=
  (List.range 128).filter fun p => s.active p && s.tagOf p == tag

/-- Every partition with a step under way. -/
def State.activeParts (s : State) : List Nat := (List.range 128).filter fun p => s.active p

/-- A drop counted and recorded; of a VC1 flit, "do not seal" for the partitions it concerns. -/
def dropAs (s : State) (unit cause vc src dst : Nat) (ps : List Nat) : State :=
  let s1 := (s.bumpSat (dropReg cause) 0 1).record 0x6040 unit [(1, cause), (1, vc), (4, src), (4, dst)]
  if vc = 1 then s1.each ps fun t p => doNotSeal t p vPlanErr else s1

/-- A packet dropped. -/
def dropPkt (s : State) (unit cause : Nat) (p : Packet) : State :=
  dropAs s unit cause p.vc p.src p.dst (s.tagParts p.dtag)

/-! ### Table versions (R162 to R165) -/

/-- A version's state: 0 Retired, 1 Active, 2 Draining, 3 Ready. -/
def State.verState (s : State) (v : Nat) : Nat := s.rd R.FAB_RT_STATE v

/-- The output port of dimension order: 6 none, 7 this chip in every dimension. -/
def dimPort (s : State) (v dst : Nat) : Nat :=
  let step (dim coord : Nat) : Nat := s.rd R.FAB_RT_DIM (v * 256 + dim * 64 + coord)
  let x := step 0 (chipX dst)
  let y := step 1 (chipY dst)
  let z := step 2 (chipZ dst)
  if x ≠ 0 then if x = 3 then 6 else x - 1
  else if y ≠ 0 then if y = 3 then 6 else y + 1
  else if z ≠ 0 then if z = 3 then 6 else z + 3
  else 7

/-- The lowest-numbered valid detour entry of a version that matches a destination at a port, if any: its new
port. -/
def detourOf (s : State) (v dst port : Nat) : Option Nat :=
  ((List.range 1024).find? fun k =>
      let e := s.rd R.FAB_DETOUR (1024 * v + k)
      let m := bits e 29 17
      bitOf e 63 && (dst &&& m) == (bits e 46 17 &&& m) && (bits e 26 3 == port || bits e 26 3 == 7)).map
    fun k => bits (s.rd R.FAB_DETOUR (1024 * v + k)) 23 3

/-! ### Queues (R155, R168) -/

/-- A packet queued at a port. -/
def queueAt (s : State) (port : Nat) (q : QPacket) : State :=
  s.modPort port fun o => { o with txq := mapPut o.txq q.pkt.vc (mapGet [] o.txq q.pkt.vc ++ [q]) }

/-- Credits owed to the sender for flits that leave their input buffer (R155); VC1 has none. -/
def giveBack (s : State) (inPort cls n : Nat) : State :=
  if 6 ≤ inPort ∨ cls = 1 then s
  else s.modPort inPort fun o =>
    { o with
      owed := mapSet 0 o.owed cls (mapGet 0 o.owed cls + n),
      freed := mapSet 0 o.freed cls ((mapGet 0 o.freed cls + n) % 65536) }

/-- The credits of a whole packet that leaves its input buffer. -/
def releasePkt (s : State) (q : QPacket) : State := giveBack s q.inPort q.cls (q.pkt.len + 1)

/-- The unit that drops a packet which came in by a port. -/
def inUnit (inPort : Nat) : Nat := if inPort < 6 then uPort inPort else uFcc

/-- A packet put on a port: queued, held under the port-down rules, or dropped after the hold (R163, R168). -/
def putOn (s : State) (port : Nat) (q : QPacket) : State :=
  if s.portUp port then queueAt s port q
  else if (q.pkt.vc = 4 ∧ q.pkt.kind = 6) ∨ (s.port port).downNs = none ∨ (s.port port).holdDone = true then
    dropPkt (releasePkt s q) (uPort port) 4 q.pkt
  else (queueAt s port q).bumpSat R.FAB_VC_HELD (port * 8 + classOf q.pkt) 1

/-- A packet routed to its next port by its version (R163); `hop` when it takes a hop here. -/
def forward (s : State) (q : QPacket) (hop : Bool) : State :=
  let p := q.pkt
  let lost (cause : Nat) : State := dropPkt (releasePkt s q) (inUnit q.inPort) cause p
  let d := dimPort s p.epoch p.dst
  if 6 ≤ d then lost 4
  else
    let out := detourOf s p.epoch p.dst d
    let hops := p.hops + b2n hop
    if s.rd R.FAB_HOP_LIMIT 0 < hops then lost 2
    else putOn s (out.getD d) { q with pkt := { p with hops := hops, detour := p.detour || out.isSome } }

/-- A packet stamped as it is injected now: the Active version, its birth, no hops (R149, R166). -/
def stamp (s : State) (p : Packet) : Packet :=
  { p with epoch := s.injVer, birth := s.nowMs, hops := 0, detour := false }

/-- A packet of this chip's own units, without data. -/
def ownPacket (s : State) (vc kind dst : Nat) : Packet :=
  stamp s { offset := 0, dst := dst, src := s.me, vc := vc, kind := kind, len := 0, dlen := 0, epoch := 0, detour := false,
            hops := 0, birth := 0, eseq := 0, incarn := 0, syn := false, dtag := 0, spart := 0, tgen := 0, func := 0, rid := 0,
            sched := 0, poison := false, loc := false, resv := 0, data := [] }

/-! ### VC0 (R151, R152, R372) -/

/-- Whether a key of 0x1120 is provisioned: not all zero (R371). -/
def keySet (s : State) (sub : Nat) : Bool :=
  (mapGet [] s.odBytes ((0x1120 * 256 + sub) * 65536)).any fun b => b != 0

/-- Whether the chip runs its VC0 traffic in open mode (R372). -/
def openMode (s : State) : Bool := !keySet s 4 && !keySet s 5

/-- The key of a fabric slot. -/
def fabKey (s : State) (slot : Nat) : List Byte := s.rdB (if slot = 0 then R.MGT_KEY_FAB0 else R.MGT_KEY_FAB1) 0

/-- The header as the tag of R152 covers it: the fields that routers rewrite count as 0, of a multicast packet also DST, which
names the chip a copy is for (log 35). -/
def macHead (p : Packet) : Nat :=
  headerWord { p with epoch := 0, detour := false, hops := 0, poison := false, dst := if p.kind = 5 then 0 else p.dst }

/-- The tag of a VC0 packet with a key, over its header and the data before the tag (R152). -/
def vc0Mac (key : List Byte) (p : Packet) (body : List Byte) : List Byte := (hmac key (leBytes 32 (macHead p) ++ body)).take 16

/-- A VC0 packet with data: the data and the tag, of the slot in use, or zeros in open mode (R152, R372). -/
def vc0Seal (s : State) (p : Packet) (body : List Byte) : Packet :=
  let q := withData p (body ++ List.replicate 16 0)
  if openMode s then q else { q with data := body ++ vc0Mac (fabKey s (s.rd R.MGT_KEY_FAB_SEL 0)) q body }

/-- The data of a VC0 packet before its tag. -/
def vc0Body (p : Packet) : List Byte := p.data.take (p.data.length - 16)

/-- Whether a VC0 packet's tag is good: zeros in open mode, else that of either provisioned slot (R152, R372). -/
def vc0Ok (s : State) (p : Packet) : Bool :=
  let tag := p.data.drop (p.data.length - 16)
  decide (16 ≤ p.data.length) &&
    (if openMode s then tag == List.replicate 16 0
     else [0, 1].any fun k => keySet s (4 + k) && tag == vc0Mac (fabKey s k) p (vc0Body p))

/-- A message of the FCC to another chip, as a VC0 packet of KIND 0x7 (R151, R270). -/
def vc0Send (s : State) (dst : Nat) (body : List Byte) : State :=
  if dst = s.me then s else forward s { pkt := vc0Seal s (ownPacket s 0 7 dst) body } true

/-- A message of the FCC to the link partner of a port that is Up (R271). -/
def vc0Local (s : State) (port : Nat) (body : List Byte) : State :=
  if s.portUp port then queueAt s port { pkt := vc0Seal s { ownPacket s 0 7 (s.beyond port) with loc := true } body } else s

/-- A Clover message handed to the router. -/
def clvEmit (s : State) (dst : Nat) (h : ClvHdr) (b : ClvBody) : State :=
  vc0Send (s.emit (.clover none dst h b)) dst (clvBytes h b)

/-- A Clover message for the link partner of a port handed to the router. -/
def clvLocal (s : State) (port : Nat) (h : ClvHdr) (b : ClvBody) : State :=
  vc0Local (s.emit (.clover (some port) (s.beyond port) h b)) port (clvBytes h b)

/-- A management message handed to the router (R373). -/
def mgmtEmit (s : State) (h : ClvHdr) (dst msg : Nat) (f : Frame) : State :=
  vc0Send (s.emit (.mgmt dst msg f)) dst (mgmtBytes h msg f)

/-! ### Clover messages (R270, R271) -/

/-- The header of a message of a partition, or of the chip (part 0xFF). -/
def clvHdr (s : State) (p : Nat) : ClvHdr :=
  { dtag := if p = 0xFF then 0 else s.tagOf p, part := p, srole := 0, sseq := 0, sender := s.me,
    tray := s.rd R.CLV_TRAY_ID 0 }

/-- Whether a chip is in the failed set (R280). -/
def State.isFailed (s : State) (c : Nat) : Bool := s.clover.failed.any fun e => e.1 == c

/-- A message sent to a chip. -/
def clvSend (s : State) (p dst : Nat) (b : ClvBody) : State := clvEmit s dst (clvHdr s p) b

/-- A message sent to a rank of a partition's domain. -/
def clvRank (s : State) (p r : Nat) (b : ClvBody) : State := clvSend s p (s.rankChip p r) b

/-- A steward's or arbiter's output: the active steward's and a Synced standby's carry the next SSEQ; a standby
that is not Synced sends nothing (R289, R291). -/
def stwHdr (s : State) : ClvHdr :=
  let role := s.rd R.CLV_STW_ROLE 0
  { clvHdr s 0xFF with srole := role, sseq := if role = 1 ∨ role = 2 then s.rd R.CLV_STW_SEQ 0 else 0 }

/-- Whether the chip may send steward outputs now. -/
def stwMay (s : State) : Bool := s.rd R.CLV_STW_ROLE 0 != 2 || s.rd R.CLV_STW_STATE 0 == 2

/-- One steward output made: the next SSEQ. -/
def stwNext (s : State) : State :=
  let role := s.rd R.CLV_STW_ROLE 0
  if role = 1 ∨ role = 2 then s.bump R.CLV_STW_SEQ 0 1 else s

/-- A steward's or arbiter's message to a chip. -/
def stwSend (s : State) (dst : Nat) (b : ClvBody) : State :=
  if stwMay s then stwNext (clvEmit s dst (stwHdr s) b) else s

/-- The arbiter of this chip and, when that is a steward pair, its standby (R274). -/
def State.arbiters (s : State) : Nat × Nat :=
  if s.rd R.CLV_STW_ROLE 0 = 1 then
    if s.rd R.CLV_STW_POS 0 = 2 then (0xFFFFFFFF, 0xFFFFFFFF) else (Config.trayChip 2, 0xFFFFFFFF)
  else
    match s.clover.active with
    | none => (0xFFFFFFFF, 0xFFFFFFFF)
    | some a =>
      (Config.trayChip a,
        match s.clover.standby with
        | some b => Config.trayChip b
        | none => 0xFFFFFFFF)

/-- A REPORT to an arbiter and, where there is one, its standby. -/
def sendReport (s : State) (arbA arbB : Nat) (r : Report) : State :=
  let s1 := if arbA = 0xFFFFFFFF then s else clvSend s 0xFF arbA (.report r)
  if arbB = 0xFFFFFFFF then s1 else clvSend s1 0xFF arbB (.report r)

/-- A chip fences itself: STATE Fenced and a REPORT of cause 3 about itself (R26, R275). -/
def fenceChip (s : State) : State :=
  if s.rd R.CLV_STATE 0 = 1 then s
  else
    let s1 := s.wr R.CLV_STATE 0 1
    sendReport s1 s1.arbiters.1 s1.arbiters.2 { subject := s1.me, alive := s1.clover.alive, cause := 3, port := 0xFF }

end Sys2Proof.Machine
end

