-- ==== Sys2Proof/Machine/Memory.lean ====
section
/-! DEFINITION. Block SRAM and HBM: error codes, the partition table's checks, zeroing and the patrol (R94 to
R118). -/

namespace Sys2Proof.Machine

open Sys2Proof

/-- The memory subsystem changed. -/
def State.modMsys (s : State) (f : MemSys → MemSys) : State := s.setMsys (f s.msys)

/-! ### Error codes (R96, R97, R99, R102, R104) -/

/-- Corrected errors of the last 24 hours of powered time. -/
def recentErrs (s : State) (h : ErrHist) : List Nat :=
  h.corrected.filter fun t => decide (s.rd R.LIFE_POWERED_S 0 < t + 86400)

/-- An SRAM line put on the list of lines to remap at the next stop (R99). -/
def wantRemap (s : State) (b line cause : Nat) : State :=
  if s.msys.toRemap.any fun r => r.1 == b && r.2.1 == line then s
  else s.modMsys fun m => { m with toRemap := m.toRemap ++ [(b, line, cause)] }

/-- The execution of a step that a partition is in, none outside a step. -/
def State.execOf (s : State) (p : Nat) : Option ExecId :=
  if p < 128 ∧ s.active p = true then
    some { part := p, run := (s.part p).runNo, step := s.rd R.SEAL_STEP p, no := (s.part p).execNo }
  else none

/-- Whether an error recurs: it occurred before in another execution of the same step of the same run, whose replay this one
is (R99, R104). -/
def recurs (old new : ExecId) : Bool :=
  old.part == new.part && old.run == new.run && old.step == new.step && old.no != new.no

/-- A corrected SRAM word of a block (R96, R99). -/
def sramCorrected (s : State) (b line word : Nat) : State :=
  let n := s.rd R.MEM_SRAM_CORR b
  let key := b * 65536 + line
  let h := mapGet {} s.msys.lineErr key
  let l := recentErrs s h ++ [s.rd R.LIFE_POWERED_S 0]
  let s1 := ((s.bumpSat R.MEM_SRAM_CORR b 1).bumpSat R.LIFE_SRAM_CORR 0 1).record 0x5001 (uBlock b)
    [(2, line), (1, line % 32)]
  let s2 := s1.modMsys fun m =>
    { m with
      lineErr := mapPut m.lineErr key { h with corrected := l }, writeback := m.writeback ++ [(b, word)] }
  let s3 := penPer s2 (uBlock b) n (n + 1) 1000 5
  if 8 ≤ l.length then wantRemap s3 b line 2 else s3

/-- An uncorrected SRAM word of a block read by a unit (R96, R99). -/
def sramUncorrected (s : State) (b line unit : Nat) : State :=
  let key := b * 65536 + line
  let h := mapGet {} s.msys.lineErr key
  let p := s.partOf b
  let s1 := ((s.bumpSat R.MEM_SRAM_UNCORR b 1).bumpSat R.LIFE_SRAM_UNCORR 0 1).record 0x5002 unit
    [(1, b), (2, line)]
  let s2 := doNotSeal s1 p vPoison
  match s.execOf p with
  | none => s2
  | some x =>
    let s3 := s2.modMsys fun m => { m with lineErr := mapPut m.lineErr key { h with uncorr := some x } }
    if h.uncorr.any fun o => recurs o x then wantRemap s3 b line 1 else s3

/-- A corrected HBM sector (R102, R104). -/
def hbmCorrected (s : State) (stack sector : Nat) : State :=
  let n := s.rd R.MEM_HBM_CORR stack
  let row := Config.hbmRow sector
  let key := stack * 2 ^ 32 + row
  let h := mapGet {} s.msys.rowErr key
  let l := recentErrs s h ++ [s.rd R.LIFE_POWERED_S 0]
  let s1 := ((s.bumpSat R.MEM_HBM_CORR stack 1).bumpSat R.LIFE_HBM_CORR 0 1).record 0x5010 (uHbm stack) [(4, sector)]
  let s2 := s1.modMsys fun m => { m with rowErr := mapPut m.rowErr key { h with corrected := l } }
  let s3 := penPer s2 (uHbm stack) n (n + 1) 100000 5
  if 64 ≤ l.length ∧ (s3.msys.repairs.contains (stack, row)) = false then
    let s4 := s3.modMsys fun m => { m with repairs := m.repairs ++ [(stack, row)] }
    let s5 := penFixed (s4.bumpSat R.MEM_HBM_REPAIRS stack 1) (uHbm stack) pcRepair 20
    if Config.repairRows stack < s5.rd R.MEM_HBM_REPAIRS stack then noteCrossing s5 (uHbm stack) 1 (scoreOf (s5.penalty (uHbm stack)))
    else s5
  else s3

/-- The partition whose slice holds a chip offset, 0xFF for none. -/
def State.slicePart (s : State) (a : Nat) : Nat := s.rd R.MEM_SLICE_PART (a / gib)

/-- An uncorrected HBM sector at a chip offset, read by a unit (R102, R104). -/
def hbmUncorrected (s : State) (a unit : Nat) : State :=
  let stack := a / stackBytes
  let sector := a % stackBytes / 64
  let key := 2 ^ 40 + a / 64
  let h := mapGet {} s.msys.rowErr key
  let p := s.slicePart a
  let s1 := ((s.bumpSat R.MEM_HBM_UNCORR stack 1).bumpSat R.LIFE_HBM_UNCORR 0 1).record 0x5011 (uHbm stack)
    [(4, sector), (2, unit)]
  let s2 := doNotSeal s1 p vPoison
  match s.execOf p with
  | none => s2
  | some x =>
    let s3 := s2.modMsys fun m => { m with rowErr := mapPut m.rowErr key { h with uncorr := some x } }
    if h.uncorr.any fun o => recurs o x then fenceChip (s3.record 0x5012 uFcc [(1, stack), (4, sector)]) else s3

/-! ### Host commands that wait (R114, R188, R190) -/

/-- The host interface changed. -/
def State.modHost (s : State) (f : HostIf → HostIf) : State := s.setHost (f s.host)

/-- A fetched command. -/
def State.mover (s : State) (m : Nat) : Mover := mapGet {} s.host.movers m

/-- A fetched command changed, where it is there. -/
def modMover (s : State) (m : Nat) (f : Mover → Mover) : State :=
  match mapFind s.host.movers m with
  | none => s
  | some x => s.modHost fun h => { h with movers := mapPut h.movers m (f x) }

/-- A fetched command finished, with its status, reason and result (R188); a first outcome stands (R195). -/
def moverDone (s : State) (m status reason result : Nat) : State :=
  modMover s m fun x => if x.outcome.isSome then x else { x with outcome := some (status, reason, result) }

/-! ### Plan loads that wait (R64, R92) -/

/-- CMP_LOAD written (R92). -/
def loadRegs (s : State) (p status reason offset plan : Nat) : State :=
  (((s.wr R.CMP_LOAD_STATUS p status).wr R.CMP_LOAD_REASON p reason).wr R.CMP_LOAD_OFFSET p offset).wr
    R.CMP_LOAD_PLAN p plan

/-- A staged image given up (R64, R193): zeroed, and the partition Empty again. -/
def dropStage (s : State) (p : Nat) : State :=
  if s.pstate p = psLoading then
    ((s.each (s.stageRange p 0 (s.part p).staged.length) fun t c => t.clear c.1 c.2).modPart p fun q =>
      { q with staged := [], stagedBy := none }).wr R.CMP_PLAN_STATE p psEmpty
  else s

/-- A plan load that ends before its checks: the staged image given up, the status in CMP_LOAD (R92), with the PLAN_ID as
far as it has arrived. -/
def endLoad (s : State) (m status reason : Nat) : State :=
  let p := (s.mover m).cmd.part
  if (s.mover m).cmd.opcode = 0x10 ∧ (s.part p).stagedBy = some m then
    loadRegs (dropStage s p) p status reason 0 (imgPlanId (s.part p).staged)
  else s

/-- A fetched command that ends without its effect, with its status, reason and result. -/
def moverFail (s : State) (m status reason result : Nat) : State :=
  moverDone (endLoad s m status reason) m status reason result

/-- A fetched command's timer moved on by a hold (R114, R190). -/
def moverPaused (s : State) (m : Nat) (ns : Int) : State :=
  modMover s m fun x => { x with deadline := x.deadline.map (· + ns) }

/-- Poisoned words of an SRAM range read, or poisoned sectors of an HBM range (R97). -/
def poisonReads (s : State) (a n : Nat) : State :=
  let ws := (wordsOf a n).filter fun w => s.poison.contains w
  if ws = [] then s
  else if a < hbmBytes then
    let secs := (ws.map (· / 8)).foldl (fun l x => addNew l x) []
    doNotSeal (s.bumpSat R.MEM_HBM_POISON (a / stackBytes) secs.length) (s.slicePart a) vPoison
  else if stagingBase 0 ≤ a then s
  else
    let b := (a - sramStart) / blockBytes
    doNotSeal (s.bumpSat R.MEM_SRAM_POISON b ws.length) (s.partOf b) vPoison

/-- An error in a word of a region's staging buffer. The manual names neither a counter nor an event for it: the model counts
none and writes the events of an SRAM word, from the buffer's unit (corrected) or the reader's, with 128 + region as the
block (log 106). -/
def stagingHit (s : State) (unit w : Nat) (kind : EccKind) : State :=
  let o := 8 * w - stagingBase 0
  let r := o / 0x100000 % 8
  let line := o % 0x100000 / 128
  match kind with
  | .corrected => s.record 0x5001 (uStaging r) [(2, line), (1, line % 32)]
  | .uncorrected => s.record 0x5002 unit [(1, 128 + r), (2, line)]

/-- What the code check found in one word or sector of an access at a chip offset. -/
def eccHit (s : State) (unit a : Nat) (e : EccHit) : State :=
  if a < hbmBytes then
    let x := (a / 64 + e.index) * 64
    match e.kind with
    | .corrected => hbmCorrected s (x / stackBytes) (x % stackBytes / 64)
    | .uncorrected => hbmUncorrected s x unit
  else if stagingBase 0 ≤ a then stagingHit s unit (a / 8 + e.index) e.kind
  else
    let w := a / 8 + e.index
    let b := (8 * w - sramStart) / blockBytes
    let line := (8 * w - sramStart) % blockBytes / 128
    match e.kind with
    | .corrected => sramCorrected s b line w
    | .uncorrected => sramUncorrected s b line unit

/-- The errors of one access in the order in which they are served: uncorrected before corrected (R16). -/
def eccOrder (es : List EccHit) : List EccHit :=
  (es.filter fun e => e.kind == .uncorrected) ++ es.filter fun e => e.kind == .corrected

/-- A read of a chip range by a unit: its errors counted, and whether its data is poisoned (R17, R96, R97). -/
def chipRead (s : State) (unit a n : Nat) (ecc : List EccHit) : State × List Byte × Bool :=
  let live := ecc.filter fun e =>
    if a < hbmBytes then !s.poisoned ((a / 64 + e.index) * 64) 64 else !s.poisoned ((a / 8 + e.index) * 8) 8
  let s1 := (poisonReads s a n).each (eccOrder live) fun t e => eccHit t unit a e
  (s1, s.read a n, s.poisoned a n || live.any fun e => e.kind == .uncorrected)

/-- SRAM_ECC_WRITEBACK: a corrected word is written back (R96); the value it holds is the corrected one. -/
def execSramEccWriteback (block word : Nat) (s : State) : Host.Outcome State Fault Refusal :=
  .next (s.modMsys fun m => { m with writeback := m.writeback.erase (block, word) })

/-! ### Zeroing (R112 to R116) -/

/-- Units of the chip still to zero (MEM_ZERO_PART). -/
def zeroLeft (s : State) : Nat :=
  ((List.range 128).filter fun b => s.rd R.MEM_ZERO_BLOCK b != 0).length +
    ((List.range 384).filter fun k => s.rd R.MEM_ZERO_SLICE k != 0).length

/-- Blocks and slices of a partition still to zero. -/
def zeroOf (s : State) (p : Nat) : Nat × Nat :=
  (((s.blocksOf p).filter fun b => s.rd R.MEM_ZERO_BLOCK b != 0).length,
    ((s.slicesOf p).filter fun k => s.rd R.MEM_ZERO_SLICE k != 0).length)

/-- Whether every block and slice of a partition is zeroed (R115). -/
def zeroDone (s : State) (p : Nat) : Bool := zeroOf s p == (0, 0)

/-- The stack's next waiting slice begins when none is under way (R113). -/
def zeroNext (s : State) (stack : Nat) : State :=
  let ks := (List.range 48).map (48 * stack + ·)
  if ks.any fun k => s.rd R.MEM_ZERO_SLICE k == 2 then s
  else
    match ks.find? fun k => s.rd R.MEM_ZERO_SLICE k == 1 with
    | some k => (s.wr R.MEM_ZERO_SLICE k 2).wr R.MEM_ZERO_SECTOR k 0
    | none => s

/-- A block's zeroing begins, or restarts with event 0x5031 and its cause (R116). -/
def zeroBlock (s : State) (b cause : Nat) : State :=
  let s1 := if s.rd R.MEM_ZERO_BLOCK b = 1 then s.record 0x5031 uFcc [(1, 1), (2, b), (1, cause)] else s
  (s1.wr R.MEM_ZERO_BLOCK b 1).wr R.MEM_ZERO_LINE b 0

/-- The keep set that a slice hosts is gone with the slice's contents (R112). -/
def dropHosted (s : State) (k : Nat) : State :=
  if s.rd R.MEM_SLICE_USE k = 3 then
    s.setBuddies (s.buddies.filter fun a => s.rd R.MEM_SLICE_HOST k != a.srcChip + 2 ^ 17 * a.srcPart)
  else s

/-- A slice's zeroing begins, or restarts with event 0x5031 and its cause. -/
def zeroSlice (s : State) (k cause : Nat) : State :=
  let s1 := if s.rd R.MEM_ZERO_SLICE k ≠ 0 then s.record 0x5031 uFcc [(1, 2), (2, k), (1, cause)] else s
  let st := if s.rd R.MEM_ZERO_SLICE k = 2 then 2 else 1
  ((dropHosted s1 k).wr R.MEM_ZERO_SLICE k st).wr R.MEM_ZERO_SECTOR k 0

/-- Blocks and slices of a partition put to zeroing, with event 0x5030 (R112). -/
def zeroStart (s : State) (p : Nat) (bs ks : List Nat) (cause : Nat) : State :=
  if bs = [] ∧ ks = [] then s
  else
    let s1 := (s.each bs fun t b => zeroBlock t b cause).each ks fun t k => zeroSlice t k cause
    let s2 := s1.each (List.range 8) zeroNext
    (s2.wr R.MEM_ZERO_PART 0 (zeroLeft s2)).record 0x5030 uFcc
      [(1, p), (4, bs.length), (4, ks.length), (1, 1)]

/-- What zeroing clears of a block beside its SRAM (R112), the checker store with it (R221). -/
def clearEngines (k : Block) : Block :=
  { k with
    cells := [], csActive := [], csShadow := [], vregs := [], arrivals := [],
    seqA := { k.seqA with buffer := [] }, seqB := { k.seqB with buffer := [] }, norms := [], sealedNorms := [] }

/-- A unit's bytes from its watermark up to another cleared; what was written below the watermark stays (R114). -/
def zeroBelow (s : State) (u : ZeroUnit) (mark : Nat) : State :=
  match u with
  | .block b =>
    let old := s.rd R.MEM_ZERO_LINE b
    s.clear (sramBase b + 128 * old) (128 * (min mark 65536 - old))
  | .slice k =>
    let old := s.rd R.MEM_ZERO_SECTOR k
    s.clear (k * gib + 64 * old) (64 * (min mark 16777216 - old))

/-- The 0x5030 record of a partition whose last block or slice is zeroed. -/
def zeroReport (s : State) (p : Nat) : State :=
  if zeroDone s p then s.record 0x5030 uFcc [(1, p), (4, (s.blocksOf p).length), (4, (s.slicesOf p).length), (1, 2)]
  else s

/-- A block's or slice's zeroing completed (R113). -/
def zeroComplete (s : State) (u : ZeroUnit) : State :=
  match u with
  | .block b =>
    if s.rd R.MEM_ZERO_BLOCK b = 0 then s
    else
      let s1 := ((zeroBelow s u 65536).modBlock b clearEngines).wr R.MEM_ZERO_BLOCK b 0
      let s2 := s1.wr R.MEM_ZERO_LINE b 0
      zeroReport (s2.wr R.MEM_ZERO_PART 0 (zeroLeft s2)) (s.partOf b)
  | .slice k =>
    if s.rd R.MEM_ZERO_SLICE k = 0 then s
    else
      let s1 := ((zeroBelow s u 16777216).wr R.MEM_ZERO_SLICE k 0).wr R.MEM_ZERO_SECTOR k 0
      let s2 := zeroNext s1 (k / 48)
      zeroReport (s2.wr R.MEM_ZERO_PART 0 (zeroLeft s2)) (s.rd R.MEM_SLICE_PART k)

/-! ### Requests (R108 to R110, R114) -/

/-- Whether a chip offset may be named without a view by a role (R106, R109): HBM and SRAM, and the staging
buffers by the Vendor. -/
def rawOk (role : Role) (off len : Nat) : Bool :=
  (decide (off + len ≤ hbmBytes)) ||
    (decide (sramStart ≤ off) && decide (off + len ≤ sramStart + sramBytes)) ||
    (role == .vendor && decide (stagingBase 0 ≤ off) && decide (off + len ≤ stagingBase 8))

/-- The chip ranges of a request, none where it is denied (R109). -/
def reqRange (s : State) (r : MemReq) : Option (List (Nat × Nat)) :=
  if r.raw then
    if (r.role = .operator ∨ r.role = .vendor) ∧ r.remote = false ∧ rawOk r.role r.offset r.len = true then
      some (pieces (r.len / blockBytes + 2) blockBytes r.offset r.len)
    else none
  else if 128 ≤ r.part then none
  else if r.remote = true ∧ s.tagOf r.part ≠ r.tag then none
  else if r.func ≠ 0xFFFF ∧ r.remote = false ∧ s.owns r.func r.part = false then none
  else s.viewRange r.part r.offset r.len

/-- The unit that owns a chip offset. -/
def targetUnit (a : Nat) : Nat :=
  if a < hbmBytes then uHbm (a / stackBytes)
  else if a < stagingBase 0 then uBlock ((a - sramStart) / blockBytes % 128)
  else uStaging ((a - stagingBase 0) / 0x100000 % 8)

/-- A request denied (R110): event 0x5020, and a plan error where it was planned. -/
def denyReq (s : State) (r : MemReq) : State :=
  let s1 := s.record 0x5020 (targetUnit r.offset) [(2, r.unit), (8, r.offset)]
  if r.planned then doNotSeal s1 r.part vPlanErr else s1

/-- The zeroing that holds a chip range, and its position there (R114). -/
def holdOf (s : State) (a n : Nat) : Option (ZeroUnit × Nat) :=
  if a < hbmBytes then
    let k := a / gib
    let last := (a % gib + n - 1) / 64
    if s.rd R.MEM_ZERO_SLICE k ≠ 0 ∧ s.rd R.MEM_ZERO_SECTOR k ≤ last then some (.slice k, last) else none
  else if a < sramStart + sramBytes then
    let b := (a - sramStart) / blockBytes
    let last := ((a - sramStart) % blockBytes + n - 1) / 128
    if s.rd R.MEM_ZERO_BLOCK b = 1 ∧ s.rd R.MEM_ZERO_LINE b ≤ last then some (.block b, last) else none
  else none

/-- A request's ranges written in order with its data. -/
def writeRange (s : State) (unit : Nat) (rs : List (Nat × Nat)) (data : List Byte) (bad : Bool) : State :=
  match rs with
  | [] => s
  | c :: r => writeRange (chipWrite s unit c.1 (data.take c.2) bad) unit r (data.drop c.2) bad

/-- A request's ranges read in order; the error hits count from the first word or sector of the first. -/
def readRange (s : State) (unit : Nat) (rs : List (Nat × Nat)) (ecc : List EccHit) : State × List Byte × Bool :=
  match rs with
  | [] => (s, [], false)
  | c :: r =>
    let step := if c.1 < hbmBytes then 64 else 8
    let n := ceilDiv (c.1 % step + c.2) step
    let here := ecc.filter fun e => decide (e.index < n)
    let later := (ecc.filter fun e => decide (n ≤ e.index)).map fun e => { e with index := e.index - n }
    let x := chipRead s unit c.1 c.2 here
    let y := readRange x.1 unit r later
    (y.1, x.2.1 ++ y.2.1, x.2.2 || y.2.2)

/-! ### Data in runs with and without poison (R97) -/

/-- A range cut into runs with and without poison: marked words, and what the code check could not correct. -/
def poisonRuns (s : State) (a : Nat) (ecc : List EccHit) (bs : List Byte) : List (List Byte × Bool) :=
  let hits := ecc.filter fun e => e.kind == .uncorrected
  if s.poisoned a bs.length = false ∧ hits = [] then [(bs, false)]
  else
    (pieces (bs.length / 8 + 2) 8 a bs.length).map fun c =>
      ((bs.drop (c.1 - a)).take c.2,
        s.poisoned c.1 c.2 || hits.any fun e =>
          if a < hbmBytes then c.1 / 64 == a / 64 + e.index else c.1 / 8 == a / 8 + e.index)

/-- Ranges read in order, in runs. -/
def readRuns (s : State) (unit : Nat) (rs : List (Nat × Nat)) (ecc : List EccHit) : State × List (List Byte × Bool) :=
  match rs with
  | [] => (s, [])
  | c :: r =>
    let step := if c.1 < hbmBytes then 64 else 8
    let n := ceilDiv (c.1 % step + c.2) step
    let here := ecc.filter fun e => decide (e.index < n)
    let later := (ecc.filter fun e => decide (n ≤ e.index)).map fun e => { e with index := e.index - n }
    let x := chipRead s unit c.1 c.2 here
    let y := readRuns x.1 unit r later
    (y.1, poisonRuns s c.1 here x.2.1 ++ y.2)

/-- The bytes of runs. -/
def runBytes (l : List (List Byte × Bool)) : List Byte := (l.map (·.1)).flatten

/-- Whether any byte from `o` on, `n` long, of runs is poisoned. -/
def runBad (l : List (List Byte × Bool)) (o n : Nat) : Bool :=
  match l with
  | [] => false
  | r :: rest => (r.2 && decide (o < r.1.length) && decide (0 < n)) || runBad rest (o - r.1.length) (n - (r.1.length - o))

/-- The offset of the first poisoned run. -/
def runFirst (l : List (List Byte × Bool)) : Option Nat :=
  match l with
  | [] => none
  | r :: rest => if r.2 then some 0 else (runFirst rest).map (· + r.1.length)

/-- A request served: a write lands, a read is answered. -/
def serveReq (s : State) (r : MemReq) (rs : List (Nat × Nat)) : State :=
  if r.write then writeRange s r.unit rs (sliceZ r.data 0 r.len) r.poison
  else
    let x := readRange s r.unit rs r.ecc
    x.1.emit (.readReply r.unit x.2.1 x.2.2 false)

/-- A request held behind a watermark (R114). -/
def holdReq (s : State) (r : MemReq) (rs : List (Nat × Nat)) (u : ZeroUnit) (pos : Nat) (m : Option Nat) : State :=
  let h : HeldAccess :=
    { unit := u, pos := pos, req := r, addr := (rs.head?.map (·.1)).getD 0, sinceNs := s.now, mover := m }
  (s.bumpSat R.MEM_ZERO_HOLD 0 1).modMsys fun q => { q with held := q.held ++ [h] }

/-- A request checked, then served, held or denied (R109, R110, R114). -/
def memRequest (s : State) (r : MemReq) : State :=
  match reqRange s r with
  | none =>
    let s1 := denyReq s r
    if r.write then s1 else s1.emit (.readReply r.unit (List.replicate r.len 0) false true)
  | some rs =>
    match rs.findSome? fun c => holdOf s c.1 c.2 with
    | some (u, pos) =>
      holdReq s r rs u pos none
    | none => serveReq s r rs

/-- A late reply or a stale one-way packet dropped, its first from each target and generation recorded (R319). -/
def dropLate (s : State) (unit gen chip : Nat) : State :=
  let s1 := s.bumpSat R.RST_LATE 0 1
  if s.rst.lates.contains (unit, gen) then s1
  else
    (s1.record 0xC011 uFcc [(2, unit), (1, gen), (4, chip)]).modRst fun r =>
      { r with lates := (r.lates ++ [(unit, gen)]).drop (r.lates.length - 63) }

/-- A held access released: checked again, since its owner may have changed; one whose owner has is dropped as
late (R116), with event 0xC011 the first time for its target and generation. A host command's goes on by itself. -/
def releaseHeld (s : State) (h : HeldAccess) : State :=
  let s1 := s.raise R.MEM_ZERO_HOLD_MAX 0 (s.now - h.sinceNs).toNat
  match h.mover with
  | some m => moverPaused s1 m (s.now - h.sinceNs)
  | none =>
    match reqRange s1 h.req with
    | none =>
      if h.req.write then denyReq s1 h.req
      else dropLate s1 (targetUnit h.addr) (s1.rd R.RST_DOM_GEN (targetUnit h.addr)) 0
    | some rs =>
      match rs.findSome? fun c => holdOf s1 c.1 c.2 with
      | some (u, pos) => s1.modMsys fun m => { m with held := m.held ++ [{ h with unit := u, pos := pos }] }
      | none => serveReq s1 h.req rs

/-- The held accesses of a unit below a watermark released; those that stay held keep their issue order. -/
def releaseBelow (s : State) (u : ZeroUnit) (mark : Nat) : State :=
  (s.modMsys fun m => { m with held := [] }).each s.msys.held fun t h =>
    if h.unit = u ∧ h.pos < mark then releaseHeld t h
    else t.modMsys fun m => { m with held := m.held ++ [h] }

/-! ### The patrol scrubber and refresh (R101, R103) -/

/-- HBM_PATROL_READ: one sector read, corrected and written back; the last of a patrol counts it (R103). A slice
being zeroed is skipped; the power cap may hold the patrol (R313). -/
def execHbmPatrolRead (stack sector : Nat) (ecc : Option EccKind) (last : Bool) (s : State) :
    Host.Outcome State Fault Refusal :=
  let a := stack * stackBytes + 64 * sector
  let s1 := s.modMsys fun m => { m with patrol := mapSet 0 m.patrol stack (sector + 1) }
  let s2 :=
    if s.rd R.MEM_ZERO_SLICE (a / gib) = 2 then s1
    else if s.poisoned a 64 = true then poisonReads s1 a 64
    else
      match ecc with
      | none => s1
      | some .corrected => hbmCorrected s1 stack sector
      | some .uncorrected => hbmUncorrected s1 a (uHbm stack)
  .next (if s.power.holdUnplanned then s
  else if last then
    (s2.bumpSat R.MEM_PATROL_DONE 0 1).modMsys fun m => { m with patrol := [] }
  else s2)

/-- PATROL_OVERRUN (R103). -/
def execPatrolOverrun (stack left : Nat) (s : State) : Host.Outcome State Fault Refusal :=
  .next (s.record 0x5016 (uHbm stack) [(4, left)])

/-- HBM_ODECC_POLL (R101). -/
def execHbmOdeccPoll (stack count : Nat) (s : State) : Host.Outcome State Fault Refusal :=
  .next (s.bumpSat R.MEM_HBM_ODECC stack count)

/-- HBM_REFRESH (R101): a refresh command issued, or a refresh management command that the stack requested; one that takes a
reserved slot costs slack alone. -/
def execHbmRefresh (stack : Nat) (kind : Refresh) (s : State) : Host.Outcome State Fault Refusal :=
  .next (s.modMsys fun m =>
    if kind.management then { m with rfms := mapSet 0 m.rfms stack (mapGet 0 m.rfms stack + 1) }
    else { m with refreshes := mapSet 0 m.refreshes stack (mapGet 0 m.refreshes stack + 1) })

end Sys2Proof.Machine
end

