-- ==== Sys2Proof/Machine/Partition.lean ====
section
/-! DEFINITION. The partition table's entries (R107, R111, R117) and the margin test that a write of the table
ends (R398, R399). -/

namespace Sys2Proof.Machine

open Sys2Proof

/-! ### Margin tests (R398, R399) -/

/-- The observability unit changed. -/
def State.modObs (s : State) (f : Observe → Observe) : State := s.setObs (f s.obs)

/-- The blocks of a region. -/
def regionBlocks (r : Nat) : List Nat := (List.range 16).map (16 * r + ·)

/-- The supply of the `k`th step of a margin test, in mV: nominal, then 5 mV lower each step. -/
def marginMv (m : MarginTest) (k : Nat) : Nat := m.nominal - 5 * k

/-- The lowest supply that has passed, 0 when none has. -/
def marginMin (m : MarginTest) : Nat := if m.step = 0 then 0 else marginMv m (m.step - 1)

/-- Network time as FRZ_AT and LIFE_MARGIN give it (R384): the low 32 bits of SEC in bits 63:32, NS below. -/
def timeU64 (sec ns : Nat) : Nat := sec % 2 ^ 32 * 2 ^ 32 + ns % 2 ^ 32

/-- A result recorded in LIFE_MARGIN: 1 passed, 2 failed at nominal, 3 aborted. -/
def marginRecord (s : State) (m : MarginTest) (result : Nat) : State :=
  let tests := s.rd R.LIFE_MARGIN m.region / 2 ^ 136
  s.wr R.LIFE_MARGIN m.region (packRec
    [(8, timeU64 s.time.sec s.time.ns), (4, s.rd R.PWR_CCLK_KHZ 0), (1, result), (2, marginMin m),
      (2, m.nominal), (4, tests + 1)])

/-- A margin test ended with its result; the region's blocks are zeroed. -/
def marginEnd (s : State) (result : Nat) : State :=
  match s.obs.margin with
  | none => s
  | some m =>
    zeroStart ((marginRecord s m result).modObs fun o => { o with margin := none }) 0xFF (regionBlocks m.region) [] 1

/-! ### The table (R111) -/

/-- Whether a partition, or none (0xFF), may have its blocks and slices changed: it is Empty. -/
def partFree (s : State) (p : Nat) : Bool := p == 0xFF || s.pstate p == psEmpty

/-- The counters of a block's engines and of its arithmetic cleared (R58, R382). -/
def clearBlockCounters (s : State) (b : Nat) : State :=
  (s.odClear fun idx _ inst => idx == 0x3040 && inst == b).modObs fun o => { o with cleared := addNew o.cleared b }

/-- The fetched commands that name a partition end with ACCESS_DENIED (R195). -/
def denyFetched (s : State) (p : Nat) : State :=
  s.setHost { s.host with
    movers := s.host.movers.map fun m =>
      (m.1, if m.2.cmd.part = p ∧ m.2.outcome = none then { m.2 with outcome := some (7, 0x0702, 0) } else m.2) }

/-- A partition's owner written (R111): its blocks and slices are zeroed and their counters cleared. -/
def partOwner (s : State) (p v : Nat) : Written :=
  if s.pstate p ≠ psEmpty then deny s
  else if s.rd R.CMP_PART_OWNER p = v then done s
  else
    let bs := s.blocksOf p
    let s1 := denyFetched ((s.wr R.CMP_PART_OWNER p v).each bs clearBlockCounters) p
    done (zeroStart s1 p bs (s1.slicesOf p) 1)

/-- A partition's domain tag written (R111). -/
def partTag (s : State) (p v : Nat) : Written :=
  if s.pstate p ≠ psEmpty then deny s else done (setTree (s.wr R.CMP_PART_TAG p v) p)

/-- A block's partition written (R111); a margin test of its region ends first (R398). -/
def blockPart (s : State) (b v : Nat) : Written :=
  if partFree s (s.partOf b) = false ∨ partFree s v = false then deny s
  else
    let s1 :=
      match s.obs.margin with
      | some m => if m.region = b / 16 then marginEnd s 3 else s
      | none => s
    if s1.partOf b = v then done s1
    else done (zeroStart (s1.wr R.CMP_BLOCK_PART b v) v [b] [] 1)

/-- Buddy areas that no slice hosts any longer are gone. -/
def dropAreas (s : State) : State :=
  s.setBuddies (s.buddies.filter fun a =>
    (List.range 384).any fun k => s.rd R.MEM_SLICE_USE k == 3 &&
      s.rd R.MEM_SLICE_HOST k == a.srcChip + 2 ^ 17 * a.srcPart)

/-- A slice's partition written (R111). -/
def slicePartW (s : State) (k v : Nat) : Written :=
  let old := s.rd R.MEM_SLICE_PART k
  if partFree s old = false ∨ partFree s v = false then deny s
  else if old = v then done s
  else done (zeroStart (s.wr R.MEM_SLICE_PART k v) v [] [k] 1)

/-- A slice's use written (R107, R111); MEM_SLICE_HOST returns to 0 (R117). -/
def sliceUse (s : State) (k v : Nat) : Written :=
  let p := s.rd R.MEM_SLICE_PART k
  if partFree s p = false then deny s
  else if s.rd R.MEM_SLICE_USE k = v then done s
  else done (zeroStart (dropAreas ((s.wr R.MEM_SLICE_USE k v).wr R.MEM_SLICE_HOST k 0)) p [] [k] 1)

/-- The hosted keep set of a buddy host slice written (R117). -/
def sliceHost (s : State) (k v : Nat) : Written :=
  if s.rd R.MEM_SLICE_USE k ≠ 3 then deny s else done (dropAreas (s.wr R.MEM_SLICE_HOST k (v &&& R.MEM_SLICE_HOST.mask)))

/-- CMP_PART_OWNER (R111). -/
def execCmpPartOwner (who : Who) (inst value : Nat) (s : State) : Host.Outcome State Fault Refusal :=
  .next (s.guard who R.CMP_PART_OWNER inst value fun s => partOwner s inst value)

/-- CMP_PART_TAG (R111). -/
def execCmpPartTag (who : Who) (inst value : Nat) (s : State) : Host.Outcome State Fault Refusal :=
  .next (s.guard who R.CMP_PART_TAG inst value fun s => partTag s inst value)

/-- CMP_BLOCK_PART (R111). -/
def execCmpBlockPart (who : Who) (inst value : Nat) (s : State) : Host.Outcome State Fault Refusal :=
  .next (s.guard who R.CMP_BLOCK_PART inst value fun s => blockPart s inst value)

/-- MEM_SLICE_PART (R111). -/
def execMemSlicePart (who : Who) (inst value : Nat) (s : State) : Host.Outcome State Fault Refusal :=
  .next (s.guard who R.MEM_SLICE_PART inst value fun s => slicePartW s inst value)

/-- MEM_SLICE_USE (R107, R111). -/
def execMemSliceUse (who : Who) (inst value : Nat) (s : State) : Host.Outcome State Fault Refusal :=
  .next (s.guard who R.MEM_SLICE_USE inst value fun s => sliceUse s inst value)

/-- MEM_SLICE_HOST (R117). -/
def execMemSliceHost (who : Who) (inst value : Nat) (s : State) : Host.Outcome State Fault Refusal :=
  .next (s.guard who R.MEM_SLICE_HOST inst value fun s => sliceHost s inst value)

end Sys2Proof.Machine
end

