-- ==== Sys2Proof/Machine/Freeze.lean ====
section
/-! DEFINITION. The freeze of the counters (R384 to R386). -/

namespace Sys2Proof.Machine

open Sys2Proof

/-- The instant in nanoseconds of a network time in the format of FRZ_AT (R384). -/
def freezeNs (s : State) (v : Nat) : Int := (nearSec s.time.sec (v / 2 ^ 32) * 1000000000 + v % 2 ^ 32 : Nat)

/-- FRZ_AT written: a freeze armed in place of any pending one, or an instant already past counted (R384). -/
def freezeArm (s : State) (v : Nat) : Written :=
  let s1 := s.wr R.FRZ_AT 0 v
  if freezeNs s v < s.now then
    done (((s1.bumpSat R.FRZ_MISSED 0 1).wr R.FRZ_STATE 0 0).modObs fun o => { o with freeze := none })
  else
    done ((s1.wr R.FRZ_STATE 0 1).modObs fun o =>
      { o with freeze := some (nearSec s.time.sec (v / 2 ^ 32), v % 2 ^ 32) })

/-- FRZ_AT (R384). -/
def execFrzAt (who : Who) (value : Nat) (s : State) : Host.Outcome State Fault Refusal :=
  .next (s.guard who R.FRZ_AT 0 value fun s => freezeArm s value)

/-- Every counter captured in its shadow (R385). -/
def shadowAll (s : State) : State := (s.modObs fun o => { o with capture := some s.free, cleared := [] }).tick

/-- FREEZE_FIRE (R385): the pending freeze fires at its instant. -/
def execFreezeFire (s : State) : Host.Outcome State Fault Refusal :=
  match s.obs.freeze with
  | none => .next s
  | some (sec, ns) =>
    if s.now < ((sec * 1000000000 + ns : Nat) : Int) then .next s
    else
      let s1 := ((shadowAll s).wr R.FRZ_LAST 0 (timeU64 sec ns)).bumpSat R.FRZ_COUNT 0 1
      .next ((s1.wr R.FRZ_STATE 0 0).modObs fun o => { o with freeze := none })

/-- Whether a coordinate lies in a range that runs in the plus direction and wraps (R169). -/
def inRing (lo hi n x : Nat) : Bool := decide ((x + (n - lo % n)) % n ≤ (hi + (n - lo % n)) % n)

/-- The six bounds of a box (R169). -/
structure Box where
  x0 : Nat
  x1 : Nat
  y0 : Nat
  y1 : Nat
  z0 : Nat
  z1 : Nat
  deriving DecidableEq, Repr

/-- A box from its 34 bits. -/
def boxOf (v : Nat) : Box :=
  { x0 := bits v 0 6, x1 := bits v 6 6, y0 := bits v 12 6, y1 := bits v 18 6, z0 := bits v 24 5, z1 := bits v 29 5 }

/-- Whether this chip lies in a box. -/
def State.inBox (s : State) (b : Box) : Bool :=
  inRing b.x0 b.x1 s.torusX (chipX s.me) && inRing b.y0 b.y1 s.torusY (chipY s.me) &&
    inRing b.z0 b.z1 s.torusZ (chipZ s.me)

end Sys2Proof.Machine
end

