-- ==== Sys2Proof/Machine/Fp.lean ====
section
/-! DEFINITION. Exact values, the element formats and their rounding (R27 to R34, R45 to R49). A value is
computed exactly and narrowed once. -/

namespace Sys2Proof.Machine

open Sys2Proof

/-- An exact value: (−1)^neg × m × 2^e, an infinity or a NaN. -/
inductive FV where
  | nan
  | inf (neg : Bool)
  | fin (neg : Bool) (m : Nat) (e : Int)
  deriving DecidableEq, Repr

/-- What an all-ones exponent means in a format (R30): another exponent; infinity and NaN; or, in E4M3, NaN
only with an all-ones mantissa. -/
inductive Top where
  | plain
  | ieee
  | e4m3
  deriving DecidableEq, Repr

/-- A floating-point element format (R30). -/
structure FFmt where
  eb   : Nat
  mb   : Nat
  bias : Nat
  top  : Top
  deriving DecidableEq, Repr

def fE2M1 : FFmt := ⟨2, 1, 1, .plain⟩
def fE2M3 : FFmt := ⟨2, 3, 1, .plain⟩
def fE3M2 : FFmt := ⟨3, 2, 3, .plain⟩
def fE4M3 : FFmt := ⟨4, 3, 7, .e4m3⟩
def fE5M2 : FFmt := ⟨5, 2, 15, .ieee⟩
def fFP16 : FFmt := ⟨5, 10, 15, .ieee⟩
def fBF16 : FFmt := ⟨8, 7, 127, .ieee⟩
def fFP32 : FFmt := ⟨8, 23, 127, .ieee⟩

/-- The rounding modes of R46 (the random bits of the element with the mode) and rounding away from zero,
which the magnitude sums of R50 use. -/
inductive Rnd where
  | near
  | zero
  | up
  | stoch (r : Nat)
  deriving DecidableEq, Repr

/-- Whether rounding takes the higher magnitude: `n` the lower, `rem` of `den` the distance above it. -/
def rndUp (mode : Rnd) (n rem den : Nat) : Bool :=
  match mode with
  | .near => decide (den < 2 * rem) || (decide (2 * rem = den) && n % 2 == 1)
  | .zero => false
  | .up => decide (0 < rem)
  | .stoch r => decide (0 < rem) && decide (65536 ≤ rem * 65536 / den + r)

/-- The magnitude m × 2^e rounded to a multiple of 2^q, in units of it. -/
def rndAt (mode : Rnd) (q : Int) (m : Nat) (e : Int) : Nat :=
  if q ≤ e then m * 2 ^ (e - q).toNat
  else
    let den := 2 ^ (q - e).toNat
    let n := m / den
    if rndUp mode n (m % den) den then n + 1 else n

/-- The exponent of the last place of m × 2^e in a format. -/
def ulpExp (f : FFmt) (m : Nat) (e : Int) : Int :=
  let low : Int := 1 - (f.bias : Int) - (f.mb : Int)
  if m = 0 then low else max low ((Nat.log2 m : Int) + e - (f.mb : Int))

/-- The largest finite magnitude of a format (R30), as m and e. -/
def maxFin (f : FFmt) : Nat × Int :=
  match f.top with
  | .plain => (2 ^ (f.mb + 1) - 1, (2 ^ f.eb : Nat) - 1 - (f.bias : Int) - (f.mb : Int))
  | .ieee => (2 ^ (f.mb + 1) - 1, (2 ^ f.eb : Nat) - 2 - (f.bias : Int) - (f.mb : Int))
  | .e4m3 => (2 ^ (f.mb + 1) - 2, (2 ^ f.eb : Nat) - 1 - (f.bias : Int) - (f.mb : Int))

/-- Comparison of magnitudes m × 2^e. -/
def magLt (m : Nat) (e : Int) (m' : Nat) (e' : Int) : Bool :=
  if e ≤ e' then decide (m < m' * 2 ^ (e' - e).toNat)
  else decide (m * 2 ^ (e - e').toNat < m')

/-- The bits of a representable finite value. -/
def encFin (f : FFmt) (neg : Bool) (m : Nat) (e : Int) : Nat :=
  let q := ulpExp f m e
  let n := if q ≤ e then m * 2 ^ (e - q).toNat else m / 2 ^ (q - e).toNat
  let s := b2n neg * 2 ^ (f.eb + f.mb)
  if n < 2 ^ f.mb then s + n
  else s + (q + (f.mb : Int) + (f.bias : Int)).toNat * 2 ^ f.mb + (n - 2 ^ f.mb)

/-- The bits of an infinity of a format that has one. -/
def encInf (f : FFmt) (neg : Bool) : Nat :=
  b2n neg * 2 ^ (f.eb + f.mb) + (2 ^ f.eb - 1) * 2 ^ f.mb

/-- The canonical NaN (R31). E5M2's is 0x7F, all ones below the sign, like E4M3's. -/
def encNan (f : FFmt) : Nat :=
  if f.eb + f.mb = 7 then 0x7F else (2 ^ f.eb - 1) * 2 ^ f.mb + 2 ^ (f.mb - 1)

/-- The value of an element's bits (R30). -/
def decF (f : FFmt) (w : Nat) : FV :=
  let neg := bitOf w (f.eb + f.mb)
  let e := bits w f.mb f.eb
  let m := bits w 0 f.mb
  let low : Int := 1 - (f.bias : Int) - (f.mb : Int)
  let ones := 2 ^ f.eb - 1
  if e = ones ∧ f.top = .ieee then (if m = 0 then .inf neg else .nan)
  else if e = ones ∧ f.top = .e4m3 ∧ m = 2 ^ f.mb - 1 then .nan
  else if e = 0 then .fin neg m low
  else .fin neg (2 ^ f.mb + m) (low + (e : Int) - 1)

/-- A narrowed element: its bits and whether it counts in CMP_ARITH_SAT and CMP_ARITH_NAN (R47). -/
structure Narrowed where
  bits : Nat
  sat  : Nat := 0
  nan  : Nat := 0
  deriving DecidableEq, Repr

/-- Conversion to a floating-point format (R46, R47). `ovf` propagates. An infinity to E4M3 with it gives the NaN under
toward-zero rounding as well, for which R47 has a row for finite overflow alone (log 103). -/
def toFloat (f : FFmt) (mode : Rnd) (ovf : Bool) (v : FV) : Narrowed :=
  let big := maxFin f
  match v with
  | .nan => { bits := encNan f }
  | .inf neg =>
    if f.top = .ieee then { bits := encInf f neg }
    else if ovf ∧ f.top = .e4m3 then { bits := encNan f, nan := 1 }
    else { bits := encFin f neg big.1 big.2, sat := 1 }
  | .fin neg m e =>
    let q := ulpExp f m e
    let n := rndAt mode q m e
    if magLt big.1 big.2 n q then
      if mode = .zero ∨ ovf = false ∨ f.top = .plain then { bits := encFin f neg big.1 big.2, sat := 1 }
      else if f.top = .e4m3 then { bits := encNan f, nan := 1 }
      else { bits := encInf f neg }
    else { bits := encFin f neg n q }

/-- Conversion to a two's complement integer of `w` bits (R46, R47). -/
def toInt (w : Nat) (mode : Rnd) (v : FV) : Narrowed :=
  let top := 2 ^ (w - 1)
  match v with
  | .nan => { bits := 0, nan := 1 }
  | .inf neg => { bits := if neg then top else top - 1, sat := 1 }
  | .fin neg m e =>
    let n := rndAt mode 0 m e
    if neg then
      if top < n then { bits := top, sat := 1 } else { bits := (2 ^ w - n) % 2 ^ w }
    else if top - 1 < n then { bits := top - 1, sat := 1 } else { bits := n }

/-! ### Exact arithmetic on values -/

/-- A value's signed mantissa at a lower exponent. -/
def scaled (neg : Bool) (m : Nat) (e lo : Int) : Int :=
  let x : Int := (m * 2 ^ (e - lo).toNat : Nat)
  if neg then -x else x

/-- A value of an integer and an exponent; zero is positive. -/
def ofDyadic (n e : Int) : FV := .fin (decide (n < 0)) n.natAbs e

/-- The value of an integer. -/
def ofInt (n : Int) : FV := ofDyadic n 0

/-- Exact sum. A zero sum of unlike signs is +0, as IEEE 754-2019 gives it. -/
def fvAdd (a b : FV) : FV :=
  match a, b with
  | .nan, _ => .nan
  | _, .nan => .nan
  | .inf x, .inf y => if x = y then .inf x else .nan
  | .inf x, .fin _ _ _ => .inf x
  | .fin _ _ _, .inf y => .inf y
  | .fin s m e, .fin s' m' e' =>
    let lo := min e e'
    let t := scaled s m e lo + scaled s' m' e' lo
    if t = 0 then .fin (s && s') 0 lo else ofDyadic t lo

/-- The negated value. -/
def fvNeg (a : FV) : FV :=
  match a with
  | .nan => .nan
  | .inf s => .inf (!s)
  | .fin s m e => .fin (!s) m e

/-- The magnitude. -/
def fvAbs (a : FV) : FV :=
  match a with
  | .nan => .nan
  | .inf _ => .inf false
  | .fin _ m e => .fin false m e

/-- Exact product. -/
def fvMul (a b : FV) : FV :=
  match a, b with
  | .nan, _ => .nan
  | _, .nan => .nan
  | .inf x, .inf y => .inf (x != y)
  | .inf x, .fin s m _ => if m = 0 then .nan else .inf (x != s)
  | .fin s m _, .inf y => if m = 0 then .nan else .inf (s != y)
  | .fin s m e, .fin s' m' e' => .fin (s != s') (m * m') (e + e')

/-- Whether a value is negative or −0. -/
def fvNeg? (a : FV) : Bool :=
  match a with
  | .nan => false
  | .inf s => s
  | .fin s _ _ => s

/-- Whether a value is a NaN. -/
def fvNan (a : FV) : Bool :=
  match a with
  | .nan => true
  | _ => false

/-- Whether a value is finite. -/
def fvFinite (a : FV) : Bool :=
  match a with
  | .fin _ _ _ => true
  | _ => false

/-- Whether a value is zero. -/
def fvZero (a : FV) : Bool :=
  match a with
  | .fin _ m _ => m == 0
  | _ => false

/-- Numerical order, false where a NaN takes part. -/
def fvLt (a b : FV) : Bool :=
  match a, b with
  | .nan, _ => false
  | _, .nan => false
  | .inf x, .inf y => x && !y
  | .inf x, .fin _ _ _ => x
  | .fin _ _ _, .inf y => !y
  | .fin s m e, .fin s' m' e' =>
    let lo := min e e'
    decide (scaled s m e lo < scaled s' m' e' lo)

/-- Numerical equality. -/
def fvEq (a b : FV) : Bool := !fvNan a && !fvNan b && !fvLt a b && !fvLt b a

/-! ### FP32 -/

/-- The value of an FP32 word. -/
def f32 (w : Word) : FV := decF fFP32 w.toNat

/-- Rounding to FP32, with infinity on overflow except toward zero (R54). -/
def rnd32 (mode : Rnd) (v : FV) : Narrowed := toFloat fFP32 mode true v

/-- The FP32 word nearest a value. -/
def near32 (v : FV) : Word := BitVec.ofNat 32 (rnd32 .near v).bits

/-- FP32 addition, nearest-even. -/
def add32 (a b : Word) : Word := near32 (fvAdd (f32 a) (f32 b))

/-- A pairwise tree over a list (R39, R56): each level combines adjacent results; an odd last one passes. -/
def pairUp {α : Type} (f : α → α → α) (l : List α) : List α :=
  match l with
  | a :: b :: r => f a b :: pairUp f r
  | l => l

/-- `k` levels of a pairwise tree. -/
def treeLevels {α : Type} (f : α → α → α) (k : Nat) (l : List α) : List α :=
  match k with
  | 0 => l
  | k + 1 => treeLevels f k (pairUp f l)

/-- The pairwise tree's root, `d` of no operands. -/
def treeSum {α : Type} (f : α → α → α) (d : α) (l : List α) : α :=
  match treeLevels f (ceilLog2 l.length) l with
  | [] => d
  | x :: _ => x

/-! ### Format codes (R27) -/

/-- The floating-point format of a format code: element format for MX codes. -/
def fmtFloat (c : Nat) : Option FFmt :=
  match c with
  | 3 => some fE4M3
  | 4 => some fE5M2
  | 5 => some fE2M1
  | 6 => some fE2M3
  | 7 => some fE3M2
  | 8 => some fE4M3
  | 9 => some fE5M2
  | 10 => some fBF16
  | 11 => some fFP16
  | 12 => some fFP32
  | _ => none

/-- The integer width of a format code. -/
def fmtInt (c : Nat) : Option Nat :=
  match c with
  | 0 => some 4
  | 1 => some 8
  | 13 => some 32
  | _ => none

/-- Whether a code is an MX format. -/
def fmtMx (c : Nat) : Bool := decide (5 ≤ c) && decide (c ≤ 9)

/-- Bits of an element in memory; a ternary element has no whole number of bits. -/
def fmtBits (c : Nat) : Nat :=
  match c with
  | 0 => 4
  | 1 => 8
  | 3 => 8
  | 4 => 8
  | 5 => 4
  | 6 => 6
  | 7 => 6
  | 8 => 8
  | 9 => 8
  | 10 => 16
  | 11 => 16
  | 12 => 32
  | 13 => 32
  | _ => 0

/-- The value of an element's bits under a format code. -/
def fmtVal (c : Nat) (w : Nat) : FV :=
  match fmtInt c with
  | some k => ofInt (toSigned k w)
  | none =>
    match fmtFloat c with
    | some f => decF f w
    | none => .fin false 0 0

/-- The element `j` of packed elements of a format (R28, R33): little-endian within its group. -/
def fmtElem (c : Nat) (bs : List Byte) (j : Nat) : Nat :=
  match fmtBits c with
  | 4 => bits (leField bs (j / 2) 1) (4 * (j % 2)) 4
  | 6 => bits (leField bs (3 * (j / 4)) 3) (6 * (j % 4)) 6
  | 8 => leField bs j 1
  | 16 => leField bs (2 * j) 2
  | 32 => leField bs (4 * j) 4
  | _ => 0

/-- Elements packed into bytes (R28, R33). -/
def packElems (c : Nat) (es : List Nat) : List Byte :=
  let w := fmtBits c
  leBytes (es.length * w / 8) (es.foldr (fun e acc => e % 2 ^ w + 2 ^ w * acc) 0)

/-- The value 2^(x − 127) of an E8M0 scale (R32), NaN for 0xFF. -/
def e8m0 (x : Nat) : FV := if x = 0xFF then .nan else .fin false 1 ((x : Int) - 127)

/-! ### Number control (R45) and stochastic rounding (R48) -/

/-- One round of the generator. -/
def srMix (z0 : Nat) : Nat :=
  let m := 2 ^ 64
  let z := (z0 + 0x9E3779B97F4A7C15) % m
  let z := (z ^^^ (z / 2 ^ 30)) * 0xBF58476D1CE4E5B9 % m
  let z := (z ^^^ (z / 2 ^ 27)) * 0x94D049BB133111EB % m
  z ^^^ (z / 2 ^ 31)

/-- The random word of an element (R48). -/
def srWord (seed step tensor index : Nat) : Nat :=
  let h := srMix (index % 2 ^ 40)
  let h := srMix (h ^^^ ((step % 2 ^ 32) * 2 ^ 24 + tensor % 2 ^ 24))
  srMix (h ^^^ seed)

/-- The key of stochastic rounding of an operation (R48). -/
structure SrKey where
  seed   : Nat
  step   : Nat
  tensor : Nat
  deriving DecidableEq, Repr

/-- The rounding of an NCTL for the element of an index (R45, R48). -/
def nctlRnd (nctl : Nat) (k : SrKey) (index : Nat) : Rnd :=
  match bits nctl 4 2 with
  | 0 => .near
  | 1 => .zero
  | _ => .stoch (srWord k.seed k.step k.tensor index % 65536)

/-- The format code of an NCTL. -/
def nctlFmt (nctl : Nat) : Nat := bits nctl 0 4

/-- The overflow field of an NCTL. -/
def nctlOvf (nctl : Nat) : Bool := bitOf nctl 6

/-- Narrowing of one value to a format that is not MX. To a code that names no element format beside a cell's weights
(ternary, 0x2), which R27 does not refuse elsewhere, it gives no bits; an MX code names its elements, without a scale
(log 103). -/
def narrow (nctl : Nat) (k : SrKey) (index : Nat) (v : FV) : Narrowed :=
  let mode := nctlRnd nctl k index
  match fmtInt (nctlFmt nctl) with
  | some w => toInt w mode v
  | none =>
    match fmtFloat (nctlFmt nctl) with
    | some f => toFloat f mode (nctlOvf nctl) v
    | none => { bits := 0 }

/-- A narrowed MX block: scale, elements and the counts of R47. -/
structure MxBlock where
  scale : Nat
  elems : List Nat
  sat   : Nat
  deriving DecidableEq, Repr

/-- The exponent of a format's largest finite value (R34). -/
def fmtEmax (c : Nat) : Int :=
  match c with
  | 5 => 2
  | 6 => 2
  | 7 => 4
  | 8 => 8
  | _ => 15

/-- floor(log2 |v|) of a finite non-zero value. -/
def fvLog2 (v : FV) : Int :=
  match v with
  | .fin _ m e => (Nat.log2 m : Int) + e
  | _ => 0

/-- The largest magnitude of finite values. -/
def fvAmax (vs : List FV) : FV :=
  vs.foldl (fun a v => if fvLt a (fvAbs v) then fvAbs v else a) (.fin false 0 0)

/-- Elements narrowed to an MX element format (R34), the first of index `i`. -/
def mxElems (f : FFmt) (nctl : Nat) (k : SrKey) (x : Int) (i : Nat) (vs : List FV) : List Narrowed :=
  match vs with
  | [] => []
  | v :: r =>
    toFloat f (nctlRnd nctl k i) false (fvMul v (.fin false 1 (-x))) :: mxElems f nctl k x (i + 1) r

/-- Conversion of a block of 32 values to an MX format (R34). The elements' indices rise from `i`. A block that an infinity or
a NaN makes NaN counts nothing; a code that is no MX format is taken for E2M1 (log 103). -/
def mxBlock (nctl : Nat) (k : SrKey) (i : Nat) (vs : List FV) : MxBlock :=
  let c := nctlFmt nctl
  let f := (fmtFloat c).getD fE2M1
  if vs.any fun v => !fvFinite v then { scale := 0xFF, elems := vs.map fun _ => 0, sat := 0 }
  else
    let amax := fvAmax vs
    if fvZero amax then { scale := 0x7F, elems := vs.map fun _ => 0, sat := 0 }
    else
      let x := min (max (fvLog2 amax - fmtEmax c) (-127)) 127
      let es := mxElems f nctl k x i vs
      { scale := (x + 127).toNat, elems := es.map (·.bits), sat := es.foldl (fun a e => a + e.sat) 0 }

end Sys2Proof.Machine
end

