-- ==== Sys2Proof/Machine/Flags.lean ====
section
/-! DEFINITION. The arithmetic status counters of a block (R58) and what each kind of result adds to them
(R47, R54). The block has no condition flags: these counters are what arithmetic reports. -/

namespace Sys2Proof.Machine

open Sys2Proof

/-- What operations add to a block's arithmetic counters. -/
structure Arith where
  sat  : Nat := 0
  nan  : Nat := 0
  wrap : Nat := 0
  tern : Nat := 0
  dom  : Nat := 0
  gidx : Nat := 0
  deriving DecidableEq, Repr

/-- The sum of two additions. -/
def Arith.add (a b : Arith) : Arith :=
  { sat := a.sat + b.sat, nan := a.nan + b.nan, wrap := a.wrap + b.wrap, tern := a.tern + b.tern,
    dom := a.dom + b.dom, gidx := a.gidx + b.gidx }

/-- The total of a list. -/
def arithSum (l : List Arith) : Arith := l.foldl Arith.add {}

/-- A block's counters advanced; they saturate (R58). -/
def countArith (s : State) (b : Nat) (a : Arith) : State :=
  (((((s.bumpSat R.CMP_ARITH_SAT b a.sat).bumpSat R.CMP_ARITH_NAN b a.nan).bumpSat R.CMP_ARITH_WRAP b a.wrap).bumpSat
    R.CMP_ARITH_TERN b a.tern).bumpSat R.CMP_ARITH_DOMAIN b a.dom).bumpSat R.CMP_ARITH_GIDX b a.gidx

/-- What a narrowed value adds (R47). -/
def Narrowed.arith (n : Narrowed) : Arith := { sat := n.sat, nan := n.nan }

/-- What a result of arithmetic in a format adds (R47, R54): its saturation, and a NaN made of inputs that were none. -/
def arithOf (f : FFmt) (n : Narrowed) (inputs : List FV) : Arith :=
  { sat := n.sat, nan := b2n (n.bits == encNan f && !inputs.any fvNan) }

/-- What an FP32 result adds. -/
def arith32 (n : Narrowed) (inputs : List FV) : Arith := arithOf fFP32 n inputs

end Sys2Proof.Machine
end

