-- ==== Sys2Proof/Machine/CellArith.lean ====
section
/-! DEFINITION. The cell multiply and its checksum sums as plain functions (R29, R36 to R41, R50, R51). -/

namespace Sys2Proof.Machine

open Sys2Proof

/-- How a pairing forms its group sums (R39). -/
inductive PairKind where
  | int
  | fp8
  | mx
  | half
  deriving DecidableEq, Repr

/-- An allowed pairing (R36): tile shape, groups per column. -/
structure Pairing where
  k : Nat
  n : Nat
  g : Nat
  kind : PairKind
  deriving DecidableEq, Repr

/-- The pairing of a weight and an activation format, none where R36 has none. -/
def pairing (w a : Nat) : Option Pairing :=
  if w = 0 ∧ a = 0 then some ⟨128, 128, 0, .int⟩
  else if w = 2 ∧ a = 1 then some ⟨128, 256, 0, .int⟩
  else if w ≤ 1 ∧ a ≤ 1 then some ⟨128, 64, 0, .int⟩
  else if w = 5 ∧ a = 5 then some ⟨128, 128, 4, .mx⟩
  else if (w = 3 ∨ w = 4) ∧ (a = 3 ∨ a = 4) then some ⟨128, 64, 4, .fp8⟩
  else if fmtMx w = true ∧ fmtMx a = true then some ⟨128, 64, 4, .mx⟩
  else if (w = 10 ∧ a = 10) ∨ (w = 11 ∧ a = 11) then some ⟨32, 64, 1, .half⟩
  else none

/-- Whether a MUL may use an accumulator type (R36). -/
def accAllowed (q : Pairing) (int : Bool) : Bool := q.kind == .int || !int

/-- Bytes of a weight column in its slot (R37). -/
def colBytes (w : Nat) : Nat :=
  match w with
  | 0 => 64
  | 5 => 64
  | 2 => 26
  | 6 => 96
  | 7 => 96
  | 10 => 64
  | 11 => 64
  | _ => 128

/-- The ternary weights of one byte: five digits, or zeros of an invalid byte (R29). -/
def ternByte (b : Byte) : List Int :=
  let v := b.toNat
  if 243 ≤ v then [0, 0, 0, 0, 0]
  else [((v % 3 : Nat) : Int) - 1, ((v / 3 % 3 : Nat) : Int) - 1, ((v / 9 % 3 : Nat) : Int) - 1,
    ((v / 27 % 3 : Nat) : Int) - 1, ((v / 81 % 3 : Nat) : Int) - 1]

/-- The `k` elements of a row or column as integers or as exact values. -/
def intRow (c k : Nat) (bs : List Byte) : List Int :=
  if c = 2 then ((bs.take 26).map ternByte).flatten.take k
  else (List.range k).map fun j => toSigned ((fmtInt c).getD 8) (fmtElem c bs j)

def fvRow (c k : Nat) (bs : List Byte) : List FV := (List.range k).map fun j => fmtVal c (fmtElem c bs j)

/-- Operands of a multiply: bytes and scales of each column or row. -/
structure Operand where
  fmt    : Nat
  bytes  : List (List Byte)
  scales : List (List Nat)
  deriving DecidableEq, Repr

/-- The dot product of integers. -/
def dotInt (a b : List Int) : Int := (a.zipWith (· * ·) b).foldl (· + ·) 0

/-- Zero taken as +0: a sum in fixed point has no sign of zero. -/
def plusZero (v : FV) : FV :=
  match v with
  | .fin s m e => if m = 0 then .fin false 0 e else .fin s m e
  | v => v

/-- One group sum (R39). -/
def groupSum (kind : PairKind) (a w : List FV) (xa xw : Nat) : Word :=
  match kind with
  | .half => treeSum add32 0 ((a.zipWith fvMul w).map near32)
  | .mx =>
    if xa = 0xFF ∨ xw = 0xFF then 0x7FC00000
    else
      near32 (fvMul (plusZero ((a.zipWith fvMul w).foldl fvAdd (.fin false 0 0)))
        (.fin false 1 ((xa : Int) + xw - 254)))
  | _ => near32 (plusZero ((a.zipWith fvMul w).foldl fvAdd (.fin false 0 0)))

/-- The product-tile value of a row and a column (R40). -/
def dotFp (q : Pairing) (a w : List FV) (sa sw : List Nat) : Word :=
  treeSum add32 0 ((List.range q.g).map fun g =>
    groupSum q.kind ((a.drop (32 * g)).take 32) ((w.drop (32 * g)).take 32) (getAt 0x7F sa g) (getAt 0x7F sw g))

/-- An integer modulo 2^32 as a word. -/
def intWord (i : Int) : Word := BitVec.ofNat 32 (ofSigned 32 i)

/-- The product tile, row by row. -/
def productTile (q : Pairing) (a w : Operand) : List Word :=
  match q.kind with
  | .int =>
    let ws := w.bytes.map (intRow w.fmt q.k)
    (a.bytes.map fun r => let ar := intRow a.fmt q.k r; ws.map fun c => intWord (dotInt ar c)).flatten
  | _ =>
    let ws := (w.bytes.zip w.scales).map fun c => (fvRow w.fmt q.k c.1, c.2)
    ((a.bytes.zip a.scales).map fun r =>
      let ar := fvRow a.fmt q.k r.1
      ws.map fun c => dotFp q ar c.1 r.2 c.2).flatten

/-- Whether the rows or columns of an operand hold no NaN, element or scale, one by one. -/
def cleanRows (k : Nat) (o : Operand) : List Bool :=
  List.zipWith (fun bs sc => (fmtInt o.fmt).isSome || o.fmt == 2 ||
      !((fvRow o.fmt k bs).any fvNan || (fmtMx o.fmt && sc.any (· == 0xFF)))) o.bytes o.scales

/-- Whether the operands of each product value, row by row, hold no NaN. -/
def cleanTile (q : Pairing) (a w : Operand) : List Bool :=
  let ws := cleanRows q.k w
  ((cleanRows q.k a).map fun r => ws.map fun c => r && c).flatten

/-! ### Checksum sums (R50) -/

/-- Rounding of a value to FP32 in a mode, kept as a value. -/
def round32 (mode : Rnd) (v : FV) : FV := decF fFP32 (rnd32 mode v).bits

/-- A pairwise tree of FP32 additions in a rounding mode. -/
def fpTree (mode : Rnd) (l : List FV) : FV := treeSum (fun a b => round32 mode (fvAdd a b)) (.fin false 0 0) l

/-- Elements with their MX scales applied exactly. -/
def scaledRow (c k : Nat) (bs : List Byte) (sc : List Nat) : List FV :=
  if fmtMx c then
    List.zipWith (fun (j : Nat) v => fvMul v (e8m0 (getAt 0x7F sc (j / 32)))) (List.range k) (fvRow c k bs)
  else fvRow c k bs

/-- The columns of rows. -/
def transposeOf {α : Type} (n : Nat) (d : α) (rows : List (List α)) : List (List α) :=
  (List.range n).map fun j => rows.map fun r => getAt d r j

/-- Sums of vectors against the sums of others (R50): for each of `vs`, Σ v[k] × (Σ of column k of `os`). -/
def checkSums (mode : Rnd) (k : Nat) (vs os : List (List FV)) : List Word :=
  let red := (transposeOf k (.fin false 0 0) os).map (fpTree mode)
  vs.map fun v => near32 (fpTree mode ((v.zipWith fvMul red).map (round32 mode)))

/-- The predicted sums and magnitude sums of a multiply (R50). -/
def predicted (q : Pairing) (a w : Operand) : List Word × List Word × List Word × List Word :=
  match q.kind with
  | .int =>
    let as := a.bytes.map (intRow a.fmt q.k)
    let ws := w.bytes.map (intRow w.fmt q.k)
    let wc := (transposeOf q.k 0 ws).map fun l => l.foldl (· + ·) 0
    let ac := (transposeOf q.k 0 as).map fun l => l.foldl (· + ·) 0
    (as.map fun r => intWord (dotInt r wc), ws.map fun c => intWord (dotInt ac c), [], [])
  | _ =>
    let as := (a.bytes.zip a.scales).map fun r => scaledRow a.fmt q.k r.1 r.2
    let ws := (w.bytes.zip w.scales).map fun r => scaledRow w.fmt q.k r.1 r.2
    let am := as.map fun r => r.map fvAbs
    let wm := ws.map fun r => r.map fvAbs
    (checkSums .near q.k as ws, checkSums .near q.k ws as, checkSums .up q.k am wm, checkSums .up q.k wm am)

/-- A multiply's tile with its sums. -/
def mulTile (q : Pairing) (a w : Operand) : Tile :=
  let s := predicted q a w
  { p := productTile q a w, pr := s.1, pc := s.2.1, sr := s.2.2.1, sc := s.2.2.2 }

/-- The tile of a multiply against an empty slot: zeros (R44). -/
def zeroTile (q : Pairing) (m : Nat) : Tile :=
  { p := List.replicate (m * q.n) 0, pr := List.replicate m 0, pc := List.replicate q.n 0,
    sr := List.replicate m 0, sc := List.replicate q.n 0 }

/-- A tile with the faults that struck it. -/
def strike (n : Nat) (t : Tile) (fs : List TileFlip) (ss : List SumFlip) : Tile :=
  let p := fs.foldl (fun l f => setAt l (f.m * n + f.n) (getAt 0 l (f.m * n + f.n) ^^^ f.mask)) t.p
  let pr := (ss.filter (·.row)).foldl (fun l f => setAt l f.index (getAt 0 l f.index ^^^ f.mask)) t.pr
  let pc := (ss.filter fun f => !f.row).foldl (fun l f => setAt l f.index (getAt 0 l f.index ^^^ f.mask)) t.pc
  { t with p := p, pr := pr, pc := pc }

/-! ### Accumulation (R41, R42) -/

/-- One entry after a product value, with what it counts: FP32 with one rounding, or INT32 modulo 2^32 with its overflow mark
(R41, R42). `clean` says that no operand of the entry is a NaN: a NaN is then one made (R47), counted once for the entry
(log 25). -/
def accEntry (int init : Bool) (intTile : Bool) (s2 : Word) (bad clean : Bool) (old : AccWord) (p : Word) :
    AccWord × Arith :=
  let start : AccWord := if init then {} else old
  if int then
    let t := toSigned 32 start.bits.toNat + toSigned 32 p.toNat
    let wraps := decide (t < -2147483648) || decide (2147483647 < t)
    ({ bits := intWord t, int := true, ovf := start.ovf || wraps, poison := start.poison || bad },
     { wrap := b2n wraps })
  else
    let v := if intTile then ofInt (toSigned 32 p.toNat) else f32 p
    let n := rnd32 .near (fvAdd (f32 start.bits) (fvMul (f32 s2) v))
    ({ bits := BitVec.ofNat 32 n.bits, int := false, ovf := start.ovf, poison := start.poison || bad },
     { nan := b2n (clean && n.bits == encNan fFP32 && !fvNan (f32 start.bits) && !fvNan (f32 s2)) })

/-- The FP32 words of a product tile's observed sums or integer sums modulo 2^32 (R50). -/
def observed (int : Bool) (l : List Word) : Word :=
  if int then intWord (l.foldl (fun a w => a + toSigned 32 w.toNat) 0) else treeSum add32 0 l

end Sys2Proof.Machine
end

