-- ==== Sys2Proof/Machine/Operands.lean ====
section
/-! DEFINITION. The fields of the slots of a bundle (R79, R80, R82, R83), descriptors (R84), the acceptance of
a slot by its consumer (R86), and what the plan's accesses to memory do. -/

namespace Sys2Proof.Machine

open Sys2Proof

/-! ### Slot fields -/

/-- Bits `[lo + n - 1 : lo]` of a slot. -/
def fld {w : Nat} (x : BitVec w) (lo n : Nat) : Nat := bits x.toNat lo n

/-- LDW (R79): weight format, SRAM line. -/
def ldwFmt (w : CellSlot) : Nat := fld w 32 4
def ldwLine (w : CellSlot) : Nat := fld w 16 16

/-- LDA: SRAM line, operand buffer line, SCL, line count. -/
def ldaLine (w : CellSlot) : Nat := fld w 20 16
def ldaBuf (w : CellSlot) : Nat := fld w 12 8
def ldaScl (w : CellSlot) : Bool := fld w 8 1 == 1
def ldaCount (w : CellSlot) : Nat := fld w 0 8 + 1

/-- MUL: activation format, M, accumulator base in words, INT32, INIT, CHK, operand buffer line of row 0. -/
def mulFmt (w : CellSlot) : Nat := fld w 32 4
def mulRows (w : CellSlot) : Nat := fld w 24 8 + 1
def mulBase (w : CellSlot) : Nat := 64 * fld w 16 8
def mulInt (w : CellSlot) : Bool := fld w 15 1 == 1
def mulInit (w : CellSlot) : Bool := fld w 14 1 == 1
def mulChk (w : CellSlot) : Bool := fld w 13 1 == 1
def mulLine (w : CellSlot) : Nat := fld w 0 8

/-- STA: descriptor, accumulator base in units of 64 words, rows, N. -/
def staDesc (w : CellSlot) : Nat := fld w 24 12
def staBase (w : CellSlot) : Nat := fld w 16 8
def staRows (w : CellSlot) : Nat := fld w 8 8 + 1
def staN (w : CellSlot) : Nat := 64 * 2 ^ fld w 6 2

/-- CLRA: base and count in units of 64 words. -/
def clraBase (w : CellSlot) : Nat := fld w 16 8
def clraCount (w : CellSlot) : Nat := fld w 8 8 + 1

/-- Vector slots (R80). -/
def vOp (w : VecSlot) : Nat := fld w 56 8
def vNctl (w : VecSlot) : Nat := fld w 48 8
def vD (w : VecSlot) : Nat := fld w 43 5
def vA (w : VecSlot) : Nat := fld w 38 5
def vB (w : VecSlot) : Nat := fld w 33 5
def vC (w : VecSlot) : Nat := fld w 28 5
def vSrc (w : VecSlot) : Nat := fld w 24 4
def vDesc (w : VecSlot) : Nat := fld w 16 8
def vImm (w : VecSlot) : Nat := fld w 0 16

/-- Mover slots (R82): descriptor or schedule entry, arrival counter, length in lines. -/
def mDesc (w : MovSlot) : Nat := fld w 32 12
def mCtr (w : MovSlot) : Nat := fld w 26 6
def mLines (w : MovSlot) : Nat := fld w 10 16

/-- Control slots (R83): the segment of SYNC and STEP_END, LOOP's count and body, WAIT's counter and amount,
FINALIZE's first page and count, DBASE's line. -/
def cSeg (w : MovSlot) : Nat := fld w 26 16
def loopCount (w : MovSlot) : Nat := fld w 22 20 + 1
def loopBody (w : MovSlot) : Nat := fld w 14 8 + 1
def waitCtr (w : MovSlot) : Nat := fld w 36 6
def waitAmt (w : MovSlot) : Nat := fld w 28 8
def finPage (w : MovSlot) : Nat := fld w 19 23
def finCount (w : MovSlot) : Nat := fld w 3 16 + 1
def dbaseLine (w : MovSlot) : Nat := fld w 26 16

/-! ### Descriptors (R84) -/

/-- A descriptor. -/
structure Desc where
  addrA  : Nat
  addrB  : Nat
  len    : Nat
  tensor : Nat
  nctl   : Nat
  ibase  : Nat
  pitch  : Nat
  deriving DecidableEq, Repr

/-- A descriptor of its 32 bytes. -/
def descOf (bs : List Byte) : Desc :=
  { addrA := leField bs 0 8, addrB := leField bs 8 8, len := leField bs 16 4, tensor := leField bs 20 3,
    nctl := leField bs 23 1, ibase := leField bs 24 5, pitch := leField bs 29 3 }

/-- Where the descriptor that a slot of a block names lies, counted from DBASE. -/
def State.descAt (s : State) (b n : Nat) : Nat := sramBase b + 128 * (s.block b).dbase + 32 * n

/-- The descriptor a slot of a block names. -/
def State.desc (s : State) (b n : Nat) : Desc := descOf (s.read (s.descAt b n) 32)

/-- Its index in the block's table. -/
def State.descIndex (s : State) (b n : Nat) : Nat :=
  let line := descLine (s.img (s.partOf b)) (s.planBlock b)
  ((s.block b).dbase - line) * 4 + n

/-- The key of stochastic rounding of a descriptor's operation in a block (R48). -/
def State.srKey (s : State) (b : Nat) (d : Desc) : SrKey :=
  { seed := imgSeed (s.img (s.partOf b)), step := s.rd R.SEAL_STEP (s.partOf b), tensor := d.tensor }

/-! ### The sequencer pair and its consumers (R86, R88) -/

/-- The consumers of a block: cells C0 to C3, the vector unit, the mover channels, the region mover. -/
def conCell (c : Nat) : Nat := c
def conVec : Nat := 5
def conMover (ch : Nat) : Nat := 6 + ch
def conRegion : Nat := 8

/-- A sequencer's state entry (R92). -/
def seqReg (c : SeqId) : Reg :=
  match c with
  | .a => R.CMP_SEQ_A
  | .b => R.CMP_SEQ_B

/-- The other sequencer. -/
def otherSeq (c : SeqId) : SeqId :=
  match c with
  | .a => .b
  | .b => .a

/-- Whether a sequencer is active. -/
def State.seqUp (s : State) (b : Nat) (c : SeqId) : Bool := s.rd (seqReg c) b == 0

/-- Whether any consumer took a sequencer's copy since the release (R86). -/
def Block.took (k : Block) (c : SeqId) : Bool :=
  k.consumers.any fun e =>
    match c with
    | .a => e.2.tookA
    | .b => e.2.tookB

/-- A sequencer failed (R88), by cause 1 digest, 2 order, 3 fetch, over a segment, with whether a consumer took its copy there.
With none left the FCC fences the chip (R87), but for two that stopped at fetch, after which the block issues nothing
more (R78). -/
def failSeqAt (s : State) (b : Nat) (c : SeqId) (cause seg : Nat) (took : Bool) : State :=
  if s.rd (seqReg c) b ≠ 0 then s
  else
    let st := if cause = 3 then 2 else 1
    let other := s.rd (seqReg (otherSeq c)) b
    let s1 := ((s.wr (seqReg c) b st).record 0x2011 (uSeq b c) [(1, cause), (2, seg)])
    let s2 := penDecay s1 (uBlock b) 100
    let s3 := if took then doNotSeal s2 (s.partOf b) vPlanErr else s2
    if other = 0 then s3
    else if other = 2 ∧ st = 2 then s3.modBlock b fun k => { k with noIssue := true }
    else fenceChip s3

/-- A sequencer failed in the segment under way. -/
def failSeq (s : State) (b : Nat) (c : SeqId) (cause : Nat) : State :=
  failSeqAt s b c cause (s.block b).segment ((s.block b).took c)

/-- A consumer of a block. -/
def Block.con (k : Block) (c : Nat) : Consumer := mapGet {} k.consumers c

/-- A consumer changed. -/
def Block.modCon (k : Block) (c : Nat) (f : Consumer → Consumer) : Block :=
  { k with consumers := mapPut k.consumers c (f (k.con c)) }

/-- A sequencer of a block. -/
def Block.seq (k : Block) (c : SeqId) : Sequencer :=
  match c with
  | .a => k.seqA
  | .b => k.seqB

/-- A sequencer changed. -/
def Block.modSeq (k : Block) (c : SeqId) (f : Sequencer → Sequencer) : Block :=
  match c with
  | .a => { k with seqA := f k.seqA }
  | .b => { k with seqB := f k.seqB }

/-- The bundle at the program's place in a sequencer's stream buffer (R78). -/
def Block.bundle (k : Block) (c : SeqId) : Option Fetched :=
  (k.seq c).buffer.find? fun f => f.segment == k.segment && f.number == k.pc

/-- Whether the sequencers issue the bundle at the program's place now: segment released and not closed (R68, R83), no WAIT
(R83), no STEP_END, and the bundle in the buffer of every active sequencer, one at least (R78). -/
def canIssue (s : State) (b : Nat) : Bool :=
  let k := s.block b
  let ready (c : SeqId) : Bool := !s.seqUp b c || (k.bundle c).isSome
  k.released && !k.syncDone && !k.ended && k.waiting.isNone && !k.noIssue && (s.seqUp b .a || s.seqUp b .b) &&
    ready .a && ready .b && s.unitUp (uBlock b)

/-- The place of a unit in the order that serves a bank's conflicts (R11, R89): sequencer, cells C0 to C3 and CS, vector unit,
mover, external. -/
def bankOrder (u : Nat) : Nat :=
  if u / 4096 = 1 then 1 + u % 8
  else if u / 4096 = 2 then
    match u / 128 % 32 with
    | 0 => 0
    | 1 => 0
    | 2 => 7
    | 3 => 8
    | _ => 9
  else 9

/-- Bank conflicts of a slot's accesses counted; of two units the one that the order puts first wins (R89). -/
def noteConflicts (s : State) (b : Nat) (l : List BankConflict) : State :=
  s.each l fun t c =>
    let first := decide (bankOrder c.winner ≤ bankOrder c.loser)
    (t.bumpSat R.CMP_PLAN_ERR_BANK b 1).record 0x2010 (uBlock b)
      [(1, c.bank), (2, if first then c.winner else c.loser), (2, if first then c.loser else c.winner)]

/-- A consumer after it accepted a copy of its first slot, or of its second. -/
def Consumer.take (k : Consumer) (i : Issue) : Consumer :=
  { k with
    expected := if i.second then k.expected else (k.expected + 1) % 2 ^ 24, tookA := k.tookA || i.copy == .a,
    tookB := k.tookB || i.copy == .b, last := some (i.copy, i.seq), both := i.second }

/-- A copy offered to a consumer (R86): the state after, and whether it is accepted. A copy of a bundle that the block does not
issue yet (R68, R76, R83) does nothing. The second slot of a bundle follows the first. -/
def accept (s : State) (i : Issue) (con : Nat) : State × Bool :=
  let b := i.block
  let k := (s.block b).con con
  let taken := (noteConflicts (s.modBlock b fun q => q.modCon con fun k => k.take i) b i.conflicts, true)
  let dup := (s.bumpSat R.CMP_SEQ_DUP b 1, false)
  if s.seqUp b i.copy = false ∨ s.unitUp (uBlock b) = false then (s, false)
  else if i.second then
    if (k.last.map (·.2)) ≠ some i.seq then (s, false)
    else if k.both then dup
    else if canIssue s b = true ∧ i.seq = (s.block b).seqNo then taken
    else (s, false)
  else if i.seq = (k.expected + (2 ^ 24 - 1)) % 2 ^ 24 then dup
  else if canIssue s b = false then (s, false)
  else if i.seq ≠ k.expected then (failSeq s b i.copy 2, false)
  else if k.expected = (s.block b).seqNo then taken
  else (s, false)

/-- A slot's effect, where its consumer accepts it. -/
def issueSlot (s : State) (i : Issue) (con : Nat) (f : State → State) : State :=
  let x := accept s i con
  if x.2 then f x.1 else x.1

/-! ### SRAM of the block -/

/-- The descriptor of a slot read by its sequencer (R13, R89), and whether its words are poisoned: every result of the slot
then is (R17). -/
def readDesc (s : State) (i : Issue) (n : Nat) : State × Desc × Bool :=
  let x := chipRead s (uSeq i.block i.copy) (s.descAt i.block n) 32 i.desc
  (x.1, descOf x.2.1, x.2.2)

/-- The chip ranges of consecutive lines of a block; line addresses wrap after line 65,535. -/
def lineRanges (b line n : Nat) : List (Nat × Nat) :=
  if line + n ≤ 65536 then [(sramBase b + 128 * line, 128 * n)]
  else [(sramBase b + 128 * line, 128 * (65536 - line)), (sramBase b, 128 * (line + n - 65536))]

/-- Lines read by a unit of the block. -/
def readLines (s : State) (unit b line n : Nat) (ecc : List EccHit) : State × List Byte × Bool :=
  readRange s unit (lineRanges b line n) ecc

/-- Lines read one by one, each with its own poison mark. -/
def readEach (s : State) (unit b line n : Nat) (ecc : List EccHit) : State × List (List Byte × Bool) :=
  match n with
  | 0 => (s, [])
  | n + 1 =>
    let here := ecc.filter fun e => decide (e.index < 16)
    let later := (ecc.filter fun e => decide (16 ≤ e.index)).map fun e => { e with index := e.index - 16 }
    let x := chipRead s unit (sramBase b + 128 * (line % 65536)) 128 here
    let y := readEach x.1 unit b (line + 1) n later
    (y.1, (x.2.1, x.2.2) :: y.2)

/-- The descriptor table of a block, as chip offset and length; empty without a plan, and in a block beyond the plan's. -/
def tableOf (s : State) (b : Nat) : Nat × Nat :=
  let p := s.partOf b
  if p < 128 ∧ s.hasPlan p = true ∧ s.planBlock b < fpBlocks (s.img p) then
    (sramBase b + 128 * descLine (s.img p) (s.planBlock b), 32 * descCount (s.img p) (s.planBlock b))
  else (0, 0)

/-- A planned write at a chip offset: what falls in a descriptor table is dropped and counted (R84). Of a write that lies partly
in the table the bytes outside it are stored, which is the model's choice (log 103). -/
def planWrite (s : State) (unit a : Nat) (bs : List Byte) (bad : Bool) : State :=
  if a < hbmBytes ∨ sramStart + sramBytes ≤ a then chipWrite s unit a bs bad
  else
    let b := (a - sramStart) / blockBytes
    let t := tableOf s b
    if t.1 < a + bs.length ∧ a < t.1 + t.2 then
      let s1 := s.bumpSat R.CMP_PLAN_ERR_DESC b 1
      let s2 := chipWrite s1 unit a (bs.take (t.1 - a)) bad
      let cut := t.1 + t.2 - a
      chipWrite s2 unit (t.1 + t.2) (bs.drop cut) bad
    else chipWrite s unit a bs bad

/-- A planned write of ranges in order. -/
def planWriteAll (s : State) (unit : Nat) (rs : List (Nat × Nat)) (bs : List Byte) (bad : Bool) : State :=
  match rs with
  | [] => s
  | c :: r => planWriteAll (planWrite s unit c.1 (bs.take c.2) bad) unit r (bs.drop c.2) bad

/-! ### Addresses of the plan (R61, R84, R105) -/

/-- Chip number and offset of a global address. -/
def gaChip (a : Nat) : Nat := a / 2 ^ 47
def gaOff (a : Nat) : Nat := a % 2 ^ 47

/-- Whether a global address names this chip, by its rank in the partition's domain. -/
def State.isLocal (s : State) (p a : Nat) : Bool := gaChip a == s.rank p

/-- The chip ranges of a plan address of a block, none where it is not local or lies outside the view. -/
def State.planRange (s : State) (b a n : Nat) : Option (List (Nat × Nat)) :=
  let p := s.partOf b
  if p < 128 ∧ s.isLocal p a = true then s.viewRange p (gaOff a) n else none

/-- A planned access denied (R110): event 0x5020 and a plan error that refuses the seal. -/
def denyPlan (s : State) (unit b a : Nat) : State :=
  doNotSeal (s.record 0x5020 (targetUnit (gaOff a)) [(2, unit), (8, gaOff a)]) (s.partOf b) vPlanErr

/-- A planned read; a denied one gives zeros (R110). -/
def planRead (s : State) (unit b a n : Nat) (ecc : List EccHit) : State × List Byte × Bool :=
  match s.planRange b a n with
  | some rs => readRange s unit rs ecc
  | none => (denyPlan s unit b a, List.replicate n 0, false)

/-- A planned write on this chip; a denied one is dropped (R110). -/
def planStore (s : State) (unit b a : Nat) (bs : List Byte) (bad : Bool) : State :=
  match s.planRange b a bs.length with
  | some rs => planWriteAll s unit rs bs bad
  | none => denyPlan s unit b a

end Sys2Proof.Machine
end

