-- ==== Sys2Proof/Machine/Elementary.lean ====
section
/-! DEFINITION. The exact values that the accuracy of the approximated functions is measured from (R54), as binary
fractions with `elemF` bits after the point: every value here is within 2^-300 of the function's. -/

namespace Sys2Proof.Machine

open Sys2Proof

/-- Bits after the binary point. -/
def elemF : Nat := 320

/-- The unit of the fractions. -/
def elemOne : Int := (2 ^ elemF : Nat)

/-- A product of fractions. -/
def fxMul (a b : Int) : Int := a * b / elemOne

/-- A quotient of fractions. -/
def fxDiv (a b : Int) : Int := if b = 0 then 0 else a * elemOne / b

/-- The sum of `p / n + p z / (n + 2) + …` over `k` terms: the inverse tangent, or its hyperbolic twin, of a number whose
square is −z or z. -/
def atanSum (k n : Nat) (p z : Int) : Int :=
  match k with
  | 0 => 0
  | k + 1 => p / (n : Int) + atanSum k (n + 2) (fxMul p z) z

/-- The sum of `p + p t / n + p t² / (n (n + 1)) + …` over `k` terms. -/
def expSum (k n : Nat) (p t : Int) : Int :=
  match k with
  | 0 => 0
  | k + 1 => p + expSum k (n + 1) (fxMul p t / (n : Int)) t

/-- The sum of `p − p t² / (n (n + 1)) + …` over `k` terms: the cosine from n = 1, the sine from n = 2. -/
def trigSum (k n : Nat) (p t2 : Int) : Int :=
  match k with
  | 0 => 0
  | k + 1 => p + trigSum k (n + 2) (-(fxMul p t2 / ((n * (n + 1) : Nat) : Int))) t2

/-- The sum of `p / (2 n + 1) − p t² / ((n + 1) (2 n + 3)) + …` over `k` terms. -/
def erfSum (k n : Nat) (p t2 : Int) : Int :=
  match k with
  | 0 => 0
  | k + 1 => p / ((2 * n + 1 : Nat) : Int) + erfSum k (n + 1) (-(fxMul p t2 / ((n + 1 : Nat) : Int))) t2

/-- The natural logarithm of 2. -/
def fxLn2 : Int := 2 * atanSum 110 1 (elemOne / 3) (elemOne / 9)

/-- Half of the ratio of a circle's length to its diameter, by Machin's formula. -/
def fxHalfPi : Int :=
  8 * atanSum 80 1 (elemOne / 5) (-(elemOne / 25)) - 2 * atanSum 30 1 (elemOne / 239) (-(elemOne / 57121))

/-- The largest `r` of `k` bits more with `r² ≤ n`. -/
def isqrt (k n r : Nat) : Nat :=
  match k with
  | 0 => r
  | k + 1 => isqrt k n (if (r + 2 ^ k) * (r + 2 ^ k) ≤ n then r + 2 ^ k else r)

/-- A square root of a fraction below 2^8. -/
def fxSqrt (a : Int) : Int := (isqrt 325 (a.toNat * 2 ^ elemF) 0 : Nat)

/-- A finite value as a fraction. -/
def fxOf (v : FV) : Int :=
  match v with
  | .fin s m e =>
    let n : Int := if 0 ≤ e + (elemF : Int) then (m * 2 ^ (e + (elemF : Int)).toNat : Nat)
      else (m / 2 ^ (-(e + (elemF : Int))).toNat : Nat)
    if s then -n else n
  | _ => 0

/-- A fraction as a value that is not taken for an exact one. -/
def fxVal (a : Int) : FV := ofDyadic (2 * a + 1) (-(elemF : Int) - 1)

/-- 2^y of a fraction, as a fraction from 1 to 2 and a power of 2 from −400 to 400; whether it is exact. -/
def exp2Of (y : Int) : Int × Int × Bool :=
  let n := min (max (y / elemOne) (-400)) 400
  let f := y % elemOne
  if f = 0 then (elemOne, n, true) else (expSum 90 1 elemOne (fxMul f fxLn2), n, false)

/-- 2^y as a value. -/
def exp2Val (y : Int) : FV :=
  let x := exp2Of y
  if x.2.2 then .fin false 1 x.2.1 else .fin false (2 * x.1 + 1).toNat (x.2.1 - (elemF : Int) - 1)

/-- The power of 2 that e^x is. -/
def toLog2 (x : Int) : Int := fxDiv x fxLn2

/-- A positive value as M × 2^E with M from 1 to 2. -/
def logParts (v : FV) : Int × Int :=
  let e := fvLog2 v
  (fxOf (fvMul v (.fin false 1 (-e))), e)

/-- The natural logarithm of a number from 1 to 2. -/
def lnOf (m : Int) : Int :=
  let z := fxDiv (m - elemOne) (m + elemOne)
  2 * atanSum 110 1 z (fxMul z z)

/-- ln of a positive value. -/
def lnVal (v : FV) : FV :=
  let x := logParts v
  fxVal (lnOf x.1 + x.2 * fxLn2)

/-- log2 of a positive value; exact for a power of 2. -/
def log2Val (v : FV) : FV :=
  let x := logParts v
  if x.1 = elemOne then ofInt x.2 else fxVal (fxDiv (lnOf x.1) fxLn2 + x.2 * elemOne)

/-- e^−|x| as a fraction. -/
def expDown (x : Int) : Int :=
  let y := exp2Of (toLog2 (-(x.natAbs : Int)))
  y.1 / ((2 ^ (-y.2.1).toNat : Nat) : Int)

/-- The value or its negative. -/
def fxSign (neg : Bool) (a : Int) : FV := if neg then fvNeg (fxVal a) else fxVal a

/-- tanh. -/
def tanhVal (v : FV) : FV :=
  let e := expDown (2 * fxOf v)
  fxSign (fvNeg? v) (fxDiv (elemOne - e) (elemOne + e))

/-- The logistic function. Far below 0 it is e^x, which it follows there within one part in 2^100. -/
def sigmoidVal (v : FV) : FV :=
  let x := fxOf v
  if x < -100 * elemOne then exp2Val (toLog2 x)
  else
    let e := expDown x
    if 0 ≤ x then fxVal (fxDiv elemOne (elemOne + e)) else fxVal (fxDiv e (elemOne + e))

/-- The error function; from 6 on it is 1 but for less than 2^-50. -/
def erfVal (v : FV) : FV :=
  let x := (fxOf v).natAbs
  if 6 * elemOne ≤ (x : Int) then fxSign (fvNeg? v) (elemOne - elemOne / 2 ^ 50)
  else
    let s := erfSum 250 0 x (fxMul x x)
    fxSign (fvNeg? v) (fxDiv s (fxSqrt (2 * fxHalfPi)) * 2)

/-- The sine of x and a number of right angles. -/
def sinAt (x : Int) (quarter : Int) : FV :=
  let q := (2 * x + fxHalfPi) / (2 * fxHalfPi)
  let r := x - q * fxHalfPi
  let r2 := fxMul r r
  match ((q + quarter) % 4).toNat with
  | 0 => fxVal (trigSum 40 2 r r2)
  | 1 => fxVal (trigSum 40 1 elemOne r2)
  | 2 => fxVal (-(trigSum 40 2 r r2))
  | _ => fxVal (-(trigSum 40 1 elemOne r2))

/-- sin and cos of a value. -/
def sinVal (v : FV) : FV := sinAt (fxOf v) 0
def cosVal (v : FV) : FV := sinAt (fxOf v) 1

end Sys2Proof.Machine
end

