-- ==== Sys2Proof/Machine/VecArith.lean ====
section
/-! DEFINITION. Vector arithmetic of one lane and reductions over lanes (R53 to R56, R80, R91), as plain
functions. An approximated result is a free choice within its accuracy bound. -/

namespace Sys2Proof.Machine

open Sys2Proof

/-- A lane's result and what it adds to the counters. -/
structure Lane where
  w : Word
  a : Arith := {}
  deriving DecidableEq, Repr

/-! ### FP32 lanes -/

/-- The rounding of a vector operation: nearest-even or toward zero (R80). -/
def vRnd (nctl : Nat) : Rnd := if bits nctl 4 2 = 1 then .zero else .near

/-- An FP32 result of exact arithmetic on inputs (R54). -/
def fpLane (nctl : Nat) (v : FV) (inputs : List FV) : Lane :=
  let n := rnd32 (vRnd nctl) v
  { w := BitVec.ofNat 32 n.bits, a := arith32 n inputs }

def laneAdd (nctl : Nat) (a b _c : Word) : Lane := fpLane nctl (fvAdd (f32 a) (f32 b)) [f32 a, f32 b]
def laneSub (nctl : Nat) (a b _c : Word) : Lane := fpLane nctl (fvAdd (f32 a) (fvNeg (f32 b))) [f32 a, f32 b]
def laneMul (nctl : Nat) (a b _c : Word) : Lane := fpLane nctl (fvMul (f32 a) (f32 b)) [f32 a, f32 b]
def laneFma (nctl : Nat) (a b c : Word) : Lane :=
  fpLane nctl (fvAdd (fvMul (f32 a) (f32 b)) (f32 c)) [f32 a, f32 b, f32 c]

/-- The canonical NaN in place of any NaN (R31). -/
def canon32 (w : Word) : Word := if fvNan (f32 w) then 0x7FC00000 else w

/-- An order of the FP32 numbers, −0 below +0, as R56 has it for max and min. -/
def ord32 (w : Word) : Int :=
  if bitOf w.toNat 31 then -((w.toNat % 2 ^ 31 : Nat) : Int) - 1 else ((w.toNat : Nat) : Int)

/-- The larger of two FP32 words; the canonical NaN where one is NaN. -/
def max32 (a b : Word) : Word :=
  if fvNan (f32 a) || fvNan (f32 b) then 0x7FC00000 else if ord32 a < ord32 b then b else a

/-- The smaller. -/
def min32 (a b : Word) : Word :=
  if fvNan (f32 a) || fvNan (f32 b) then 0x7FC00000 else if ord32 b < ord32 a then b else a

/-- Whether a CMP condition holds of an order: less, equal, neither means unordered. -/
def cmpHolds (cond : Nat) (lt eq gt : Bool) : Bool :=
  match cond with
  | 0 => eq
  | 1 => !eq
  | 2 => lt
  | 3 => lt || eq
  | 4 => gt
  | 5 => gt || eq
  | _ => false

/-! ### Sublanes (R91) -/

/-- The integer width of an operation's lanes. -/
def vWidth (nctl : Nat) : Nat := (fmtInt (nctlFmt nctl)).getD 32

/-- Whether an operation works on FP32. -/
def vFloat (nctl : Nat) : Bool := nctlFmt nctl == 12

/-- The sublanes of a word, `n` of `w` bits. -/
def sublanes (w n x : Nat) : List Nat :=
  match n with
  | 0 => []
  | n + 1 => x % 2 ^ w :: sublanes w n (x / 2 ^ w)

/-- A word of its sublanes. -/
def packLanes (w : Nat) (l : List Nat) : Word :=
  BitVec.ofNat 32 (l.foldr (fun e acc => e % 2 ^ w + 2 ^ w * acc) 0)

/-- The sublanes of a lane at a width. -/
def subs (w : Nat) (x : Word) : List Nat := sublanes w (32 / w) x.toNat

/-- An operation on each sublane: its bits and whether it saturated. -/
def subMap2 (w : Nat) (f : Nat → Nat → Nat × Nat) (a b : Word) : Lane :=
  let rs := (subs w a).zipWith f (subs w b)
  { w := packLanes w (rs.map (·.1)), a := { sat := (rs.map (·.2)).foldl (· + ·) 0 } }

/-- An exact integer result wrapped, or saturated and counted (R53). -/
def intRes (w : Nat) (sat : Bool) (v : Int) : Nat × Nat :=
  let hi : Int := (2 ^ (w - 1) : Nat)
  if sat then
    if hi ≤ v then (2 ^ (w - 1) - 1, 1) else if v < -hi then (2 ^ (w - 1), 1) else (ofSigned w v, 0)
  else (ofSigned w v, 0)

/-- A sublane operation on signed values. -/
def laneInt (nctl imm : Nat) (f : Int → Int → Int) (a b : Word) : Lane :=
  let w := vWidth nctl
  subMap2 w (fun x y => intRes w (bitOf imm 0) (f (toSigned w x) (toSigned w y))) a b

def laneIadd (nctl imm : Nat) (a b _c : Word) : Lane := laneInt nctl imm (· + ·) a b
def laneIsub (nctl imm : Nat) (a b _c : Word) : Lane := laneInt nctl imm (· - ·) a b
def laneImul (nctl imm : Nat) (a b _c : Word) : Lane := laneInt nctl imm (· * ·) a b

/-- SHL of a sublane; a negative count is open, and every count from 64 on gives what 64 gives. -/
def laneShl (nctl imm : Nat) (a b _c : Word) : Lane :=
  let w := vWidth nctl
  subMap2 w (fun x y =>
    let n := toSigned w y
    if n < 0 then (Config.shiftNeg 0x23 w x y % 2 ^ w, 0)
    else intRes w (bitOf imm 0) (toSigned w x * (2 ^ min n.toNat 64 : Nat))) a b

/-- SHR of a sublane, arithmetic with bit 1 of the immediate; a negative count is open. -/
def laneShr (nctl imm : Nat) (a b _c : Word) : Lane :=
  let w := vWidth nctl
  subMap2 w (fun x y =>
    let n := toSigned w y
    if n < 0 then (Config.shiftNeg 0x24 w x y % 2 ^ w, 0)
    else if bitOf imm 1 then (ofSigned w (toSigned w x / (2 ^ min n.toNat 64 : Nat)), 0)
    else (x / 2 ^ min n.toNat 64, 0)) a b

def laneAnd (a b _c : Word) : Lane := { w := a &&& b }
def laneOr (a b _c : Word) : Lane := { w := a ||| b }
def laneXor (a b _c : Word) : Lane := { w := a ^^^ b }

/-- An exact choice between values: FP32, or signed sublanes. -/
def laneMax (nctl : Nat) (a b _c : Word) : Lane :=
  if vFloat nctl then { w := max32 a b }
  else { (laneInt nctl 0 (fun x y => if x < y then y else x) a b) with a := {} }

def laneMin (nctl : Nat) (a b _c : Word) : Lane :=
  if vFloat nctl then { w := min32 a b }
  else { (laneInt nctl 0 (fun x y => if y < x then y else x) a b) with a := {} }

/-- The magnitude; of the most negative integer by bit 0 of the immediate, wrapped or saturated. -/
def laneAbs (nctl imm : Nat) (a _b _c : Word) : Lane :=
  if vFloat nctl then { w := canon32 (a &&& 0x7FFFFFFF) } else laneInt nctl imm (fun x _ => |x|) a a

def laneNeg (nctl imm : Nat) (a _b _c : Word) : Lane :=
  if vFloat nctl then { w := canon32 (a ^^^ 0x80000000) } else laneInt nctl imm (fun x _ => -x) a a

/-- The magnitude of the first operand with the sign of the second. -/
def laneCopysign (nctl imm : Nat) (a b _c : Word) : Lane :=
  if vFloat nctl then { w := canon32 ((a &&& 0x7FFFFFFF) ||| (b &&& 0x80000000)) }
  else laneInt nctl imm (fun x y => if y < 0 then -|x| else |x|) a b

/-- CMP: all ones or 0 in each lane or sublane. -/
def laneCmp (nctl imm : Nat) (a b _c : Word) : Lane :=
  let cond := imm % 8
  if vFloat nctl then
    let x := f32 a
    let y := f32 b
    { w := if cmpHolds cond (fvLt x y) (fvEq x y) (fvLt y x) then 0xFFFFFFFF else 0 }
  else
    let w := vWidth nctl
    subMap2 w (fun x y =>
      let p := toSigned w x
      let q := toSigned w y
      (if cmpHolds cond (decide (p < q)) (p == q) (decide (q < p)) then 2 ^ w - 1 else 0, 0)) a b

/-- SEL: the first operand where the third's bits are not 0, else the second. -/
def laneSel (nctl : Nat) (a b c : Word) : Lane :=
  if vFloat nctl then { w := canon32 (if c = 0 then b else a) }
  else
    let w := vWidth nctl
    { w := packLanes w (List.zipWith (fun (m : Nat) (p : Nat × Nat) => if m = 0 then p.2 else p.1) (subs w c)
        ((subs w a).zip (subs w b))) }

/-! ### Approximated functions (R54, R55) -/

/-- num / den × 2^e, exact to 64 bits below its last, with a sticky bit. -/
def ratio (neg : Bool) (num den : Nat) (e : Int) : FV :=
  let t := num * 2 ^ 64
  .fin neg (2 * (t / den) + (if t % den = 0 then 0 else 1)) (e - 65)

/-- The exact quotient of finite values, the divisor not 0. -/
def fvDiv (a b : FV) : FV :=
  match a, b with
  | .fin s m e, .fin s' m' e' => ratio (s != s') m m' (e - e')
  | _, _ => .nan

/-- The square root of num / den × 2^e, with a sticky bit. -/
def rootRatio (num den : Nat) (e : Int) : FV :=
  let odd := e % 2 = 1
  let n := if odd then 2 * num else num
  let h := if odd then (e - 1) / 2 else e / 2
  let t := n * 2 ^ 160 / den
  let r := isqrt 140 t 0
  let exact := decide (n * 2 ^ 160 % den = 0) && r * r == t
  .fin false (2 * r + (if exact then 0 else 1)) (h - 81)

/-- The square root of a value, not negative. -/
def fvSqrt (a : FV) : FV :=
  match a with
  | .fin _ m e => if m = 0 then a else rootRatio m 1 e
  | _ => a

/-- Its reciprocal, the value not 0. -/
def fvRsqrt (a : FV) : FV :=
  match a with
  | .fin _ m e => rootRatio 1 m (-e)
  | _ => .fin false 0 0

/-- The FP32 number `n` places above zero, or below it, with the sign reversed where `neg`. -/
def fpPlace (neg : Bool) (n : Int) : Word :=
  BitVec.ofNat 32 (n.natAbs + if neg != decide (n < 0) then 2 ^ 31 else 0)

/-- Whether an FP32 word lies within `k` ulp of a finite value (R54). One ulp is the distance between the two FP32
numbers that bracket the value; of a value that is itself an FP32 number, the distance to the next one of higher
magnitude. -/
def withinUlp (k : Nat) (v : FV) (w : Word) : Bool :=
  match v, fvAdd (f32 w) (fvNeg v) with
  | .fin _ m e, .fin _ d x => !magLt k (ulpExp fFP32 m e) d x
  | _, _ => false

/-- The FP32 numbers within `k` ulp of a finite value. -/
def ulpChoices (k : Nat) (v : FV) : List Word :=
  let t : Int := ((toFloat fFP32 .zero true v).bits % 2 ^ 31 : Nat)
  ((List.range (4 * k + 3)).map fun d => fpPlace (fvNeg? v) (t + (d : Int) - (2 * (k : Int) + 1))).filter (withinUlp k v)

/-- Whether a value rounds beyond the FP32 range (R54). -/
def beyond32 (nctl : Nat) (v : FV) : Bool :=
  let n := rnd32 (vRnd nctl) v
  n.sat != 0 || !fvFinite (decF fFP32 n.bits)

/-- An FP32 number within `k` ulp of an exact value, chosen by the device and always the same for the same inputs
(R54, R55); beyond the FP32 range, what the rounding mode gives. -/
def nearUlp (code nctl k : Nat) (v : FV) (a b : Word) : Lane :=
  if beyond32 nctl v then fpLane nctl v []
  else { w := getAt (near32 v) (ulpChoices k v) (Config.approxPlace code a b % (ulpChoices k v).length) }

/-- A special FP32 result with its NaN counted where the inputs held none. -/
def special (v : FV) (inputs : List FV) (dom : Bool) : Lane :=
  let n := rnd32 .near v
  { w := BitVec.ofNat 32 n.bits, a := (arith32 n inputs).add { dom := b2n dom } }

def one32 : FV := .fin false 1 0

def laneRecip (nctl : Nat) (a _b _c : Word) : Lane :=
  match f32 a with
  | .nan => special .nan [.nan] false
  | .inf s => special (.fin s 0 0) [.inf s] false
  | .fin s m e =>
    if m = 0 then special (.inf s) [.fin s m e] false
    else nearUlp 0x30 nctl 1 (fvDiv one32 (.fin s m e)) a 0

def laneSqrt (nctl : Nat) (a _b _c : Word) : Lane :=
  match f32 a with
  | .nan => special .nan [.nan] false
  | .inf s => special (if s then .nan else .inf false) [.inf s] false
  | .fin s m e =>
    if m = 0 then special (.fin s m e) [.fin s m e] false
    else if s then special .nan [.fin s m e] false
    else nearUlp 0x31 nctl 1 (fvSqrt (.fin s m e)) a 0

def laneRsqrt (nctl : Nat) (a _b _c : Word) : Lane :=
  match f32 a with
  | .nan => special .nan [.nan] false
  | .inf s => special (if s then .nan else .fin false 0 0) [.inf s] false
  | .fin s m e =>
    if m = 0 then special (.inf s) [.fin s m e] false
    else if s then special .nan [.fin s m e] false
    else nearUlp 0x32 nctl 1 (fvRsqrt (.fin s m e)) a 0

def laneDiv (nctl : Nat) (a b _c : Word) : Lane :=
  let x := f32 a
  let y := f32 b
  match x, y with
  | .nan, _ => special .nan [x, y] false
  | _, .nan => special .nan [x, y] false
  | .inf _, .inf _ => special .nan [x, y] false
  | .inf s, .fin s' _ _ => special (.inf (s != s')) [x, y] false
  | .fin s _ _, .inf s' => special (.fin (s != s') 0 0) [x, y] false
  | .fin s m _, .fin s' m' _ =>
    if m' = 0 then special (if m = 0 then .nan else .inf (s != s')) [x, y] false
    else if m = 0 then special (.fin (s != s') 0 0) [x, y] false
    else nearUlp 0x33 nctl 2 (fvDiv x y) a b

/-- A result that neither the manual nor IEEE 754-2019 states: the device's (log 10). -/
def approxLane (code : Nat) (a : Word) : Lane := { w := canon32 (Config.approx code a 0) }

/-- EXP and EXP2, within 2 ulp; at zero and infinity as IEEE 754-2019 gives them. -/
def laneExp (code nctl : Nat) (a _b _c : Word) : Lane :=
  match f32 a with
  | .nan => special .nan [.nan] false
  | .inf s => special (if s then .fin false 0 0 else .inf false) [.inf s] false
  | .fin s m e =>
    let x := fxOf (.fin s m e)
    if m = 0 then special one32 [] false
    else nearUlp code nctl 2 (exp2Val (if code = 0x35 then x else toLog2 x)) a 0

/-- LOG and LOG2, within 2 ulp; an input not above 0 is outside the domain. -/
def laneLog (code nctl : Nat) (a _b _c : Word) : Lane :=
  match f32 a with
  | .nan => special .nan [.nan] false
  | .inf s => if s then special .nan [.inf s] true else special (.inf false) [.inf s] false
  | .fin s m e =>
    if m = 0 then special (.inf true) [.fin s m e] true
    else if s then special .nan [.fin s m e] true
    else if a = 0x3F800000 then special (.fin false 0 0) [] false
    else nearUlp code nctl 2 (if code = 0x37 then log2Val (.fin s m e) else lnVal (.fin s m e)) a 0

/-- TANH, within 3 ulp. -/
def laneTanh (nctl : Nat) (a _b _c : Word) : Lane :=
  match f32 a with
  | .nan => special .nan [.nan] false
  | .inf s => special (.fin s 1 0) [.inf s] false
  | .fin s m e =>
    if m = 0 then special (.fin s m e) [] false else nearUlp 0x38 nctl 3 (tanhVal (.fin s m e)) a 0

/-- SIGMOID, within 3 ulp, and ERF, within 4. IEEE 754-2019 defines neither, so that of an infinity no result is
stated (log 10). -/
def laneSoft (code nctl : Nat) (a _b _c : Word) : Lane :=
  match f32 a with
  | .nan => special .nan [.nan] false
  | .inf _ => approxLane code a
  | .fin s m e =>
    if code = 0x39 then nearUlp code nctl 3 (sigmoidVal (.fin s m e)) a 0
    else nearUlp code nctl 4 (erfVal (.fin s m e)) a 0

/-- SIN and COS, within 2 ulp; an input beyond 1,024 in magnitude is outside the domain. -/
def laneTrig (code nctl : Nat) (a _b _c : Word) : Lane :=
  let x := f32 a
  if fvNan x then special .nan [x] false
  else if fvLt (.fin false 1024 0) (fvAbs x) then special .nan [x] true
  else if fvZero x then special (if code = 0x3B then x else one32) [] false
  else nearUlp code nctl 2 (if code = 0x3B then sinVal x else cosVal x) a 0

/-! ### Elements of a register (R91) -/

/-- Whether a format's elements occupy whole lanes of FP32. -/
def wholeLane (c : Nat) : Bool := (fmtInt c).isNone

/-- How many elements a register holds in a format. -/
def elemCount (c : Nat) : Nat := if wholeLane c then 1024 else 1024 * (32 / (fmtInt c).getD 32)

/-- The elements of a register in a format, by position: values for whole lanes, integers for sublanes. -/
def regElems (c : Nat) (lanes : List Word) : List FV :=
  if wholeLane c then lanes.map f32
  else (lanes.map fun x => (subs ((fmtInt c).getD 32) x).map fun e => ofInt (toSigned ((fmtInt c).getD 32) e)).flatten

/-- The lane that holds an element's position in a format. -/
def elemLane (c j : Nat) : Nat := if wholeLane c then j else j / (32 / (fmtInt c).getD 32)

/-- Elements narrowed one by one, the first of index `k` (R49). -/
def narrowAll (nctl : Nat) (key : SrKey) (k : Nat) (vs : List FV) : List Narrowed :=
  match vs with
  | [] => []
  | v :: r => narrow nctl key k v :: narrowAll nctl key (k + 1) r

/-- Groups of `n`. -/
def groupsOf {α : Type} (fuel n : Nat) (l : List α) : List (List α) :=
  match fuel with
  | 0 => []
  | f + 1 => if l.isEmpty then [] else l.take n :: groupsOf f n (l.drop n)

/-- Blocks of 32 narrowed to an MX format, the first element of index `k` (R34, R49). -/
def mxAll (nctl : Nat) (key : SrKey) (k : Nat) (gs : List (List FV)) : List MxBlock :=
  match gs with
  | [] => []
  | g :: r => mxBlock nctl key k g :: mxAll nctl key (k + 32) r

/-- The word of a value in a lane: FP32 for floating-point formats. -/
def laneOf (c : Nat) (n : Nat) : Word :=
  match fmtFloat c with
  | some f => near32 (decF f n)
  | none => BitVec.ofNat 32 n

/-! ### Reductions (R56) -/

/-- FP32 words summed in the tree. -/
def rsum32 (l : List Word) : Word := canon32 (treeSum add32 0 l)

/-- The first of two indexed values that is not less than the other by an order. -/
def argBest (better : Word → Word → Bool) (x y : Nat × Word) : Nat × Word :=
  if better y.2 x.2 then y else x

/-- ARGMAX or ARGMIN of FP32 lanes: the lowest lane that holds a NaN, else of the extreme. R56 does not say
whether −0 and +0 are equal extremes: −0 is below +0 here as well (log 103). -/
def arg32 (isMax : Bool) (l : List Word) : Nat :=
  let xs := (List.range l.length).zip l
  match xs.find? fun x => fvNan (f32 x.2) with
  | some x => x.1
  | none =>
    match xs with
    | [] => 0
    | x :: r =>
      (r.foldl (argBest fun a b => if isMax then decide (ord32 b < ord32 a) else decide (ord32 a < ord32 b)) x).1

/-- The same over signed integers, by lane. -/
def argInt (isMax : Bool) (l : List (Nat × Int)) : Nat :=
  match l with
  | [] => 0
  | x :: r =>
    (r.foldl (fun a b => if (if isMax then a.2 < b.2 else b.2 < a.2) then b else a) x).1

/-- The signed sublanes of lanes, each with its lane. -/
def intElems (w : Nat) (l : List Word) : List (Nat × Int) :=
  (((List.range l.length).zip l).map fun x => (subs w x.2).map fun e => (x.1, toSigned w e)).flatten

/-- One value in every sublane of a lane. -/
def splat (w : Nat) (v : Int) : Word := packLanes w (List.replicate (32 / w) (ofSigned w v))

/-- RSUM's result, written to every lane. -/
def redSum (nctl : Nat) (l : List Word) : Word :=
  if vFloat nctl then rsum32 l
  else BitVec.ofNat 32 (ofSigned 32 ((intElems (vWidth nctl) l).foldl (fun a e => a + e.2) 0))

/-- RMAX's and RMIN's. -/
def redBest (isMax : Bool) (nctl : Nat) (l : List Word) : Word :=
  if vFloat nctl then canon32 (treeSum (if isMax then max32 else min32) 0 l)
  else
    match intElems (vWidth nctl) l with
    | [] => 0
    | x :: r =>
      splat (vWidth nctl) (r.foldl (fun a e => if (if isMax then a < e.2 else e.2 < a) then e.2 else a) x.2)

/-- ARGMAX's and ARGMIN's: a lane number in the lanes' width. -/
def redArg (isMax : Bool) (nctl : Nat) (l : List Word) : Word :=
  if vFloat nctl then BitVec.ofNat 32 (arg32 isMax l)
  else splat (vWidth nctl) (argInt isMax (intElems (vWidth nctl) l))

end Sys2Proof.Machine
end

