-- ==== Sys2Proof/Machine/Checker.lean ====
section
/-! DEFINITION. Yarrow: the checks of a product tile, repeats, their classification and what follows from it
(R219 to R241). -/

namespace Sys2Proof.Machine

open Sys2Proof

/-! ### The check list (R219) -/

/-- Entry `k` of a block's check list: its 32 bytes. -/
def chkEntry (s : State) (b k : Nat) : List Byte :=
  let im := s.img (s.partOf b)
  let blocks := secLe im 7 0 4
  let first := secLe im 7 (64 + 8 * s.planBlock b) 4
  sliceZ im (secOff im 7 + 64 + 8 * blocks + 32 * (first + k)) 32

def ckFlags (e : List Byte) : Nat := leField e 0 1
def ckShift (e : List Byte) : Int := toSigned 8 (leField e 1 1)
def ckNan (e : List Byte) : Nat := leField e 2 2
def ckInf (e : List Byte) : Nat := leField e 4 2
def ckZero (e : List Byte) : Nat := leField e 6 2
def ckRmin (e : List Byte) : Nat := leField e 8 4
def ckRmax (e : List Byte) : Nat := leField e 12 4
def ckNlo (e : List Byte) : Word := BitVec.ofNat 32 (leField e 16 4)
def ckNhi (e : List Byte) : Word := BitVec.ofNat 32 (leField e 20 4)
def ckId (e : List Byte) : Nat := leField e 24 4
def ckNorm (e : List Byte) : Nat := bits (ckFlags e) 3 2

/-! ### The checks (R222 to R224) -/

/-- A failed check: its bit, the row or column coded as R240 codes it, observed value and bound as FP32. -/
structure Failure where
  bit   : Nat
  place : Nat
  seen  : Word
  bound : Word
  deriving DecidableEq, Repr

/-- The values of a tile's words. -/
def tileVal (int : Bool) (w : Word) : FV := if int then ofInt (toSigned 32 w.toNat) else f32 w

/-- The range check: the first finite element beyond a bound. -/
def checkRange (int : Bool) (e : List Byte) (p : List Word) : List Failure :=
  let lo := if int then ofInt (toSigned 32 (ckRmin e)) else decF fFP32 (ckRmin e)
  let hi := if int then ofInt (toSigned 32 (ckRmax e)) else decF fFP32 (ckRmax e)
  match p.find? fun w =>
      let v := tileVal int w
      fvFinite v && (fvLt v lo || fvLt hi v) with
  | some w =>
    let v := tileVal int w
    [{ bit := 0, place := 0xFFFF, seen := near32 v, bound := near32 (if fvLt v lo then lo else hi) }]
  | none => []

/-- One count check. -/
def checkCount (bit n limit : Nat) : List Failure :=
  if limit ≠ 0xFFFF ∧ limit < n then
    [{ bit := bit, place := 0xFFFF, seen := near32 (ofInt n), bound := near32 (ofInt limit) }]
  else []

/-- The count checks. -/
def checkCounts (int : Bool) (e : List Byte) (p : List Word) : List Failure :=
  let vs := p.map (tileVal int)
  let isInf (v : FV) := !fvNan v && !fvFinite v
  checkCount 1 (vs.filter fvNan).length (ckNan e) ++ checkCount 2 (vs.filter isInf).length (ckInf e) ++
    checkCount 3 (vs.filter fvZero).length (ckZero e)

/-- The tolerance of R51 with R223's shift, rounded once toward +infinity. -/
def tolerance (dg g dim k : Nat) (shift : Int) (mag : Word) : FV :=
  match f32 mag with
  | .fin _ m e =>
    let kk := 2 * (dg + ceilLog2 g + 2 * ceilLog2 dim + ceilLog2 k + 1)
    round32 .up (fvAdd (.fin false (kk * m) (e - 24 + shift)) (.fin false dim (-149)))
  | _ => .inf false

/-- Observed against predicted (R50 to R52): one row or column. -/
def checkSum (int : Bool) (bit place : Nat) (tol : FV) (o p : Word) : List Failure :=
  if int then
    if o = p then []
    else
      [{ bit := bit, place := place,
         seen := near32 (fvAbs (ofInt (toSigned 32 o.toNat - toSigned 32 p.toNat))), bound := 0 }]
  else
    let a := f32 o
    let b := f32 p
    if fvFinite a = false ∧ fvFinite b = false then []
    else
      let d := fvAbs (fvAdd a (fvNeg b))
      if fvFinite a ∧ fvFinite b ∧ !fvLt tol d then []
      else [{ bit := bit, place := place, seen := near32 d, bound := near32 tol }]

/-- The checksum check of a tile (R223). -/
def checkSumsOf (q : Pairing) (e : List Byte) (m : Nat) (t : Tile) : List Failure :=
  let int := q.kind == .int
  let dg := if q.kind = .half then 5 else 1
  let rows := groupsOf m q.n t.p
  let cols := transposeOf q.n 0 rows
  let row (i : Nat) : List Failure :=
    checkSum int 5 i (tolerance dg q.g q.n q.k (ckShift e) (getAt 0 t.sr i)) (observed int (getAt [] rows i))
      (getAt 0 t.pr i)
  let col (i : Nat) : List Failure :=
    checkSum int 6 (0x8000 + i) (tolerance dg q.g m q.k (ckShift e) (getAt 0 t.sc i))
      (observed int (getAt [] cols i)) (getAt 0 t.pc i)
  ((List.range m).map row).flatten ++ ((List.range q.n).map col).flatten

/-- The rows and columns, coded as R240 codes them, of which an observed or predicted sum is not finite (R52). -/
def nonFiniteOf (q : Pairing) (m : Nat) (t : Tile) : List Nat :=
  if q.kind = .int then []
  else
    let rows := groupsOf m q.n t.p
    let cols := transposeOf q.n 0 rows
    let bad (o p : Word) : Bool := !fvFinite (f32 o) || !fvFinite (f32 p)
    ((List.range m).filter fun i => bad (observed false (getAt [] rows i)) (getAt 0 t.pr i)) ++
      ((List.range q.n).filter fun i => bad (observed false (getAt [] cols i)) (getAt 0 t.pc i)).map (0x8000 + ·)

/-- The report of the rows and columns that a verdict's checksum check leaves to the plausibility checks (R52); the manual names
no place for it, and the model holds the last verdict's beside the block (log 104). -/
def reportNonFinite (s : State) (b : Nat) (e : List Byte) (q : Pairing) (m : Nat) (t : Tile) : State :=
  s.modBlock b fun k => { k with nonFinite := if bitOf (ckFlags e) 2 then nonFiniteOf q m t else [] }

/-- S, the sum of squares of the finite elements, element by element (R224): each square is rounded to FP32 before it is added
(DEDUCED, log 108). -/
def normSum (int : Bool) (p : List Word) : Word :=
  p.foldl (fun a w =>
    let v := tileVal int w
    if fvFinite v then add32 a (near32 (fvMul v v)) else a) 0

/-- Whether a value lies within the norm bounds; a NaN does not. -/
def inNorm (e : List Byte) (v : FV) : Bool :=
  !fvNan v && !fvLt v (f32 (ckNlo e)) && !fvLt (f32 (ckNhi e)) v

/-- The failure of a norm value. -/
def normFail (e : List Byte) (v : FV) : List Failure :=
  if inNorm e v then []
  else
    [{ bit := 4, place := 0xFFFF, seen := near32 v,
       bound := if fvLt v (f32 (ckNlo e)) then ckNlo e else ckNhi e }]

/-- An FP32 quotient, nearest-even, of values that are not negative. -/
def div32 (a b : FV) : FV :=
  match a, b with
  | .fin _ _ _, .inf _ => .fin false 0 0
  | .inf _, .inf _ => .nan
  | .inf s, _ => .inf s
  | .fin s m e, .fin s' m' e' => if m' = 0 then .nan else f32 (near32 (fvDiv (.fin s m e) (.fin s' m' e')))
  | _, _ => .nan

/-- The norm check (R224); a ratio passes while S of the last sealed step is 0. -/
def checkNorm (e : List Byte) (n : Nat) (sum sealedSum : Word) : List Failure :=
  match ckNorm e with
  | 1 =>
    let q := div32 (f32 sum) (ofInt n)
    normFail e (match q with
      | .fin _ _ _ => f32 (near32 (fvSqrt q))
      | v => v)
  | 2 => if fvZero (f32 sealedSum) then [] else normFail e (div32 (f32 sum) (f32 sealedSum))
  | _ => []

/-- The failures of a tile under an entry, in the order range, count, checksum, norm; and S. -/
def judge (q : Pairing) (e : List Byte) (m : Nat) (t : Tile) (sealedSum : Word) : List Failure × Word :=
  let int := q.kind == .int
  let f := ckFlags e
  let sum := normSum int t.p
  ((if bitOf f 0 then checkRange int e t.p else []) ++ (if bitOf f 1 then checkCounts int e t.p else []) ++
      (if bitOf f 2 then checkSumsOf q e m t else []) ++ checkNorm e (m * q.n) sum sealedSum, sum)

/-- The fail bits of failures (R240). -/
def failBits (fs : List Failure) : Nat := fs.foldl (fun a f => if bitOf a f.bit then a else a + 2 ^ f.bit) 0

/-- The digest of a tile (R229). -/
def tileDigest (t : Tile) : Nat := crc64 ((t.p.map fun w => leBytes 4 w.toNat).flatten)

/-! ### Records and lists -/

/-- CHK_LAST written (R240). -/
def chkLast (s : State) (b step run entry id cell fbits cls : Nat) : State :=
  s.wr R.CHK_LAST b (packRec [(4, step), (1, run), (2, entry), (4, id), (1, cell), (1, fbits), (1, cls)])

/-- CHK_PENDING and CHK_PENDING_OVER brought up to date. -/
def chkCounts (s : State) (b : Nat) : State :=
  let k := s.block b
  (s.wr R.CHK_PENDING b k.repeats.length).wr R.CHK_PENDING_OVER b (min k.overflow.length 0xFFFF)

/-- An entry put in its place on the repeat list, by ascending entry index (R233). -/
def insRepeat (r : RepeatEntry) (l : List RepeatEntry) : List RepeatEntry :=
  match l with
  | [] => [r]
  | x :: t => if r.entry < x.entry then r :: x :: t else x :: insRepeat r t

/-- A failure recorded for repeat: on the list of 64, or beyond it. -/
def listRepeat (s : State) (b : Nat) (r : RepeatEntry) : State :=
  let k := s.block b
  if (k.repeats ++ k.overflow).any fun x => x.step == r.step && x.entry == r.entry then s
  else
    chkCounts (s.modBlock b fun k =>
      if k.repeats.length < 64 then { k with repeats := insRepeat r k.repeats }
      else { k with overflow := k.overflow ++ [r] }) b

/-- Entries that wait beyond the list join it as places come free. -/
def refillRepeats (s : State) (b : Nat) : State :=
  let k := s.block b
  let n := 64 - k.repeats.length
  chkCounts (s.modBlock b fun k =>
    { k with repeats := (k.overflow.take n).foldl (fun l r => insRepeat r l) k.repeats, overflow := k.overflow.drop n }) b

/-- An entry that leaves the list. -/
def unlist (s : State) (b : Nat) (r : RepeatEntry) : State :=
  chkCounts (s.modBlock b fun k =>
    { k with
      repeats := k.repeats.filter fun x => !(x.step == r.step && x.entry == r.entry), settled := k.settled ++ [r] }) b

/-- Whether a step has an unclassified repeat in a partition's blocks (R233). -/
def unclassified (s : State) (p step : Nat) : Bool :=
  (s.blocksOf p).any fun b => ((s.block b).repeats ++ (s.block b).overflow).any fun r => r.step == step

/-- Whether a step and run are a partition's present ones: not those of a rollback under way or delayed (R228, R264). -/
def isCurrent (s : State) (p step run : Nat) : Bool :=
  s.active p && (s.part p).replay.isNone && (s.part p).delayed.isNone && s.rd R.SEAL_STEP p == step && s.rd R.SEAL_RUN p == run

/-! ### Classification (R231, R234) -/

/-- The classes of a repeat: with CS's digest and verdict, or without. -/
def classify (a b : Nat) (c : Option Nat) (vb vc : Bool) : List Nat :=
  match c with
  | none => if a = b then (if vb then [5] else [7]) else if vb then [1] else [6]
  | some c =>
    if b = c ∧ a ≠ b then (if vb && vc then [1] else if !vb && !vc then [1, 3] else [6])
    else if a = b ∧ b ≠ c then (if vc then [2] else [4])
    else if a = b ∧ b = c then
      (if vb && vc then [5] else if !vb && !vc then [3] else if vc then [2] else [6])
    else if a = c ∧ a ≠ b then [6]
    else [4]

/-- The FCC fences the chip over a class 4 or 7 (R231, R234). -/
def fenceClass (s : State) (b entry cls : Nat) : State :=
  fenceChip (s.record 0x9007 uFcc [(1, b), (2, entry), (1, cls)])

/-- A false alarm recorded and counted; at the limit the HALT flag (R237). -/
def falseAlarm (s : State) (b entry : Nat) (f : Failure) : State :=
  let id := ckId (chkEntry s b entry)
  let s1 := s.wr R.CHK_FA_LAST 0
    (packRec [(1, b), (2, entry), (4, id), (2, f.place), (4, f.seen.toNat), (4, f.bound.toNat)])
  let s2 := s1.record 0x9004 (uYarrow b) [(2, entry), (4, f.seen.toNat), (4, f.bound.toNat)]
  let n := mapGet 0 (s.block b).falseAlarms entry + 1
  let s3 := s2.modBlock b fun k => { k with falseAlarms := mapSet 0 k.falseAlarms entry n }
  if s.rd R.CHK_FA_LIMIT 0 ≤ n then s3.modPart (s.partOf b) fun p => { p with haltAlarm := true } else s3

/-- What one class does (R231, R241). -/
def actClass (s : State) (b : Nat) (r : RepeatEntry) (fs : List Failure) (cls : Nat) : State :=
  let p := s.partOf b
  match cls with
  | 1 =>
    penDecay ((s.bumpSat R.CHK_TRANSIENT b 1).record 0x9002 (uYarrow b) [(2, r.entry), (1, r.cell)]) (uBlock b) 10
  | 2 =>
    let s1 := ((s.bumpSat R.CHK_PERMANENT b 1).bumpSat R.LIFE_PERMANENT 0 1).record 0x9003 (uYarrow b)
      [(2, r.entry), (1, r.cell)]
    (doNotSeal s1 p vCheck).modMsys fun m =>
      { m with toSubst := m.toSubst ++ [(b, r.cell, r.entry)] }
  | 3 =>
    let s1 := s.bumpSat R.CHK_FALSE b 1
    match fs with
    | f :: _ => falseAlarm s1 b r.entry f
    | [] => s1
  | 5 =>
    penDecay ((s.bumpSat R.CHK_CHECKER_T b 1).record 0x9005 (uYarrow b) [(2, r.entry)]) (uBlock b) 10
  | 6 =>
    let s1 := (s.bumpSat R.CHK_INCONS b 1).record 0x9006 (uYarrow b) [(2, r.entry), (1, 1)]
    doNotSeal s1 p vCheck
  | _ => fenceClass s b r.entry cls

/-! ### Verdicts (R226 to R230) -/

/-- A first-run verdict: a failure is listed and refuses the seal (R229). Of an abandoned run only the listing of a failure
remains (R228, R239). -/
def firstVerdict (s0 : State) (b : Nat) (t : PendingTile) (q : Pairing) : State :=
  let e := chkEntry s0 b t.entry
  let s := reportNonFinite s0 b e q t.mRows t.tile
  let x := judge q e t.mRows t.tile (BitVec.ofNat 32 (mapGet 0 (s.block b).sealedNorms t.entry))
  let cur := isCurrent s (s.partOf b) t.step t.run
  let s1 :=
    if cur then s.modBlock b fun k => { k with norms := mapSet 0 k.norms t.entry x.2.toNat } else s
  if x.1 = [] then (if cur then s1.bumpSat R.CHK_PASS b 1 else s1)
  else
    let fb := failBits x.1
    let s2 := chkLast ((s1.bumpSat R.CHK_FAIL b 1).bumpSat R.LIFE_CHECK_FAIL 0 1) b t.step t.run t.entry (ckId e)
      t.cell fb 0
    let s3 := s2.record 0x9001 (uYarrow b) [(2, t.entry), (1, t.cell), (1, fb)]
    let s4 := listRepeat s3 b
      { step := t.step, entry := t.entry, cell := t.cell, digestA := tileDigest t.tile }
    if cur then doNotSeal s4 (s.partOf b) vCheck else s4

/-- The verdict of a repeat (R230, R231). Each of the two tiles that pass counts in CHK_PASS; of several failing checks a false
alarm reports the first, in the order range, counts, rows, columns, norm; CHK_LAST shows the cell's fail bits and the last class
(log 108). -/
def repeatVerdict (s0 : State) (b : Nat) (t : PendingTile) (q : Pairing) (r : RepeatEntry) : State :=
  if isCurrent s0 (s0.partOf b) t.step t.run then
    let e := chkEntry s0 b t.entry
    let s := reportNonFinite s0 b e q t.mRows t.tile
    let old := BitVec.ofNat 32 (mapGet 0 (s.block b).sealedNorms t.entry)
    let x := judge q e t.mRows t.tile old
    let y := t.cs.map fun c => judge q e t.mRows c old
    let vc :=
      match y with
      | some y => y.1 == []
      | none => false
    let c0 := classify r.digestA (tileDigest t.tile) (t.cs.map tileDigest) (x.1 == []) vc
    let cls := if c0 = [6] ∧ r.incons ≠ 0 then [4] else c0
    let good := (if x.1 = [] then 1 else 0) + (if vc then 1 else 0)
    let s1 := (s.modBlock b fun k => { k with norms := mapSet 0 k.norms t.entry x.2.toNat }).bumpSat R.CHK_PASS b good
    let s2 := chkLast s1 b t.step t.run t.entry (ckId e) r.cell (failBits x.1) (cls.getLast?.getD 0)
    let s3 := s2.each cls fun u c =>
      actClass u b r (if x.1 = [] then (y.map (·.1)).getD [] else x.1) c
    if cls = [6] then
      s3.modBlock b fun k =>
        { k with
          repeats := k.repeats.map fun z =>
            if z.step = r.step ∧ z.entry = r.entry then { z with incons := z.incons + 1 } else z }
    else unlist s3 b r
  else s0

/-- The oldest verdict of a block delivered (R226). -/
def deliverVerdict (s : State) (b : Nat) : State :=
  match (s.block b).verdicts with
  | [] => s
  | t :: rest =>
    let s1 := s.modBlock b fun k => { k with verdicts := rest }
    match pairing t.wfmt t.afmt with
    | none => s1
    | some q =>
      match t.rep, (s.block b).repeats.find? fun r => r.step == t.step && r.entry == t.entry with
      | true, some r => repeatVerdict s1 b t q r
      | true, none => s1
      | false, _ => firstVerdict s1 b t q

/-- A tile handed to Yarrow; with 16 awaiting, the oldest is delivered first (R226). -/
def enqueueTile (s : State) (b : Nat) (t : PendingTile) : State :=
  let s1 := if 16 ≤ (s.block b).verdicts.length then deliverVerdict s b else s
  let s2 := s1.modBlock b fun k => { k with verdicts := k.verdicts ++ [t] }
  s2.raise R.CHK_QMAX b (s2.block b).verdicts.length

/-- A wrap failure of an STA (R222, R229, R240). -/
def wrapFailure (s : State) (b cell base desc : Nat) : State :=
  let p := s.partOf b
  let s1 := chkLast (s.bumpSat R.CHK_WRAP b 1) b (s.rd R.SEAL_STEP p) (s.rd R.SEAL_RUN p) 0xFFFF 0 cell 0x80 0
  s1.record 0x9008 (uYarrow b) [(1, base), (2, desc)]

/-- The repeat list of a block cleared by a reset of its domain: one record per entry (R239). -/
def clearRepeats (s : State) (b : Nat) : State :=
  let k := s.block b
  let s1 := s.each (k.repeats ++ k.overflow) fun t r => t.record 0x9006 (uYarrow b) [(2, r.entry), (1, 2)]
  chkCounts (s1.modBlock b fun k => { k with repeats := [], overflow := [], settled := [] }) b

/-- YARROW_VERDICT (R226). -/
def execYarrowVerdict (block : Nat) (s : State) : Host.Outcome State Fault Refusal := .next (deliverVerdict s block)

end Sys2Proof.Machine
end

