-- ==== Sys2Proof/Machine/Trace.lean ====
section
/-! DEFINITION. Trace records (R387 to R389) and the tensor watch (R391 to R394). -/

namespace Sys2Proof.Machine

open Sys2Proof

/-- TIME of a trace record: nanoseconds modulo 2^47. -/
def State.traceTime (s : State) : Nat := (s.time.sec * 1000000000 + s.time.ns) % 2 ^ 47

/-- A record dropped (R389). -/
def traceDrop (s : State) (p : Nat) : State := s.bump R.TRC_DROP p 1

/-- A record of a source of a block into the block's FIFO, if its bit of TRC_MASK is set (R388, R389). -/
def traceOf (s : State) (b p bit : Nat) (r : TraceRec) : State :=
  if p ≥ 128 ∨ bitOf (s.rd R.TRC_MASK p) bit = false then s
  else if s.rd R.TRC_RING_PAGES p = 0 ∨ 64 ≤ (s.block b).trace.length then traceDrop s p
  else s.modBlock b fun k => { k with trace := k.trace ++ [r] }

/-- A record of planned work of a block: LAYER is the segment (R388). -/
def traceRec (s : State) (b bit unit op seq : Nat) (isEnd : Bool) : State :=
  traceOf s b (s.partOf b) bit
    { seq := seq % 2 ^ 24, operator := op % 2 ^ 24, layer := (s.block b).segment, unit := unit, isEnd := isEnd,
      time := s.traceTime }

/-- Begin and end records around an operation's effect. -/
def traced (s : State) (b bit unit op seq : Nat) (f : State → State) : State :=
  traceRec (f (traceRec s b bit unit op seq false)) b bit unit op seq true

/-! ### Tensor watch -/

/-- A count that saturates at 0xFFFF_FFFF (R393). -/
def sat32 (n : Nat) : Nat := min n 0xFFFFFFFF

/-- The histogram bin of an exponent (R393). -/
def histBin (base : Int) (width : Nat) (e : Int) : Nat :=
  if e < base then 0 else min ((e - base).toNat / width + 1) 15

/-- One value added to a point's statistics. -/
def watchValue (base : Int) (width : Nat) (isInt : Bool) (w : WatchStats) (v : FV) : WatchStats :=
  let h := if w.hist = [] then List.replicate 16 0 else w.hist
  match v with
  | .nan => { w with count := sat32 (w.count + 1), nan := sat32 (w.nan + 1), hist := h }
  | .inf _ => { w with count := sat32 (w.count + 1), inf := sat32 (w.inf + 1), hist := h }
  | .fin neg m e =>
    let x := near32 v
    let n : Int := scaled neg m e 0
    let key : Int := if isInt then n else (x.toNat : Nat)
    let less (a b : Int) : Bool :=
      if isInt then decide (a < b) else fvLt (f32 (BitVec.ofInt 32 a)) (f32 (BitVec.ofInt 32 b))
    let lo := match w.min with
      | none => key
      | some o => if less key o then key else o
    let hi := match w.max with
      | none => key
      | some o => if less o key then key else o
    let sum : Int :=
      if isInt then ((w.sum + n) % (2 ^ 64 : Nat)) else ((add32 (BitVec.ofInt 32 w.sum) x).toNat : Nat)
    let sq := near32 (fvMul (f32 x) (f32 x))
    let bin := histBin base width (fvLog2 v)
    { w with
      count := sat32 (w.count + 1), zero := if m = 0 then sat32 (w.zero + 1) else w.zero, min := some lo,
      max := some hi, sum := sum, sumsq := (add32 (BitVec.ofNat 32 w.sumsq) sq).toNat,
      hist := if m = 0 then h else setAt h bin (sat32 (getAt 0 h bin + 1)) }

/-- The values and bytes of an STA (bit 0) or VST (bit 1) fed to the points that watch it (R393). -/
def watchFeed (s : State) (b desc opBit fmt : Nat) (vs : List FV) (bs : List Byte) : State :=
  if s.obs.watch.any fun w => w.block == b && w.desc == desc && bitOf w.ops opBit then
    let p := s.partOf b
    s.setObs { s.obs with
      watch := s.obs.watch.map fun w =>
        if w.block = b ∧ w.desc = desc ∧ bitOf w.ops opBit = true then
          let l := vs.foldl (watchValue w.base w.width (fmtInt fmt).isSome) w.live
          { w with
            live :=
              { l with
                step := s.rd R.SEAL_STEP p, run := s.rd R.SEAL_RUN p, format := fmt, digest := crc64Add l.digest bs } }
        else w }
  else s

/-- An MX element times its block's scale, rounded to FP32 (R393). -/
def mxValue (c scale e : Nat) : FV := f32 (near32 (fvMul (fmtVal c e) (e8m0 scale)))

end Sys2Proof.Machine
end

