-- ==== Sys2Proof/Machine/Plan.lean ====
section
/-! DEFINITION. The control slot and the progress of a step in a block (R67 to R78, R83 to R90): release, fetch,
issue, slack, slips and the comparison of digests. -/

namespace Sys2Proof.Machine

open Sys2Proof

/-! ### Slips (R72 to R74) -/

/-- The instant T0 of a partition's step in nanoseconds of network time (R67). -/
def Part.t0Ns (q : Part) : Option Int := q.t0.map fun t => ((t.1 * 1000000000 + t.2 : Nat) : Int)

/-- What a slip does to a partition's step: "do not seal" (R73), and the HALT flag when the step has no replay left for a
slip (R74). -/
def slipStep (s : State) (p : Nat) : State :=
  let s1 := doNotSeal s p vSlip
  if imgSlipReplays (s.img p) < mapGet 0 (s.part p).tries (s.rd R.SEAL_STEP p) + 1 then
    s1.modPart p fun q => { q with haltSlip := true }
  else s1

/-- The record of a slip that a unit noted at a step: event 0x4010 and CMP_SLIP_LAST. -/
def slipRecord (s : State) (step unit seg late source : Nat) : State :=
  let l := min late 0xFFFFFFFF
  (s.record 0x4010 unit [(2, seg), (2, unit), (4, l), (1, source)]).wr R.CMP_SLIP_LAST 0
    (packRec [(4, step), (2, seg), (2, unit), (4, l), (1, source)])

/-- A slip of a partition's step noted by a unit: recorded, counted at a block, and the step's. -/
def slip (s : State) (p b unit seg late source : Nat) : State :=
  slipStep ((slipRecord s (s.rd R.SEAL_STEP p) unit seg late source).bumpSat R.CMP_SLIPS b 1) p

/-! ### Release (R67, R68) -/

/-- The active sequencer of lower engine number. -/
def State.leadSeq (s : State) (b : Nat) : Nat := if s.seqUp b .a then uSeqA b else uSeqB b

/-- Whether no block of a partition has released segment 0 of the step. -/
def State.stepFresh (s : State) (p : Nat) : Bool := (s.blocksOf p).all fun b => !(s.block b).released

/-- What the first release of a step does for the partition: final marks cleared (R90), and a slip of source 3
where the step runs below the plan's clock (R69, R72). -/
def stepStart (s : State) (p : Nat) : State :=
  let s1 := s.modPart p fun q => { q with final := [], early := [] }
  if s.rd R.PWR_CCLK_KHZ 0 < imgCclk (s.img p) then slip s1 p (((s.blocksOf p).head?).getD 0) uFcc 0 0 3 else s1

/-- A block at the start of a step. -/
def blockStart (k : Block) (line : Nat) : Block :=
  { k with
    arrivals := [], dbase := line, seqNo := 0,
    consumers := k.consumers.map fun e => (e.1, { e.2 with expected := 0, last := none, both := false }), norms := [],
    chkNext := 0, segment := 0, released := true, syncDone := false, ended := false, noIssue := false }

/-- A block at the release of a segment: no copies taken yet (R86), digests from the start (R87). -/
def segStart (k : Block) (now : Int) : Block :=
  { k with
    consumers := k.consumers.map fun e => (e.1, { e.2 with tookA := false, tookB := false }),
    seqA := { k.seqA with digest := 0 }, seqB := { k.seqB with digest := 0 }, pc := 0, loops := [], waiting := none,
    releaseNs := now }

/-- A block's sequencers before a step: their streams to be fetched from the first bundle on. -/
def Block.rewind (k : Block) : Block :=
  { k with
    seqA := { k.seqA with buffer := [], nextSeg := 0, nextNo := 0 },
    seqB := { k.seqB with buffer := [], nextSeg := 0, nextNo := 0 } }

/-- The live values of the watch points of a block at zero (R394). -/
def watchReset (s : State) (b : Nat) : State :=
  s.setObs { s.obs with
    watch := s.obs.watch.map fun w => if w.block = b then { w with live := {} } else w }

/-- The release of the block's next segment, with its trace record (R388). -/
def release (s : State) (b : Nat) (f : Block → Block) : State :=
  let p := s.partOf b
  let s1 := s.modBlock b fun k => segStart (f k) s.now
  traceRec s1 b 0 (s1.leadSeq b) (s.rd R.SEAL_RUN p) (s.rd R.SEAL_STEP p) false

/-- SEGMENT_RELEASE (R68): the first segment at or past T0, a later one at or past the sync point before it. -/
def execSegmentRelease (block : Nat) (s : State) : Host.Outcome State Fault Refusal :=
  let p := s.partOf block
  let k := s.block block
  match (s.part p).t0Ns with
  | none => .next s
  | some t0 =>
    if 128 ≤ p ∨ s.pstate p ≠ psRunning ∨ s.unitUp (uBlock block) = false ∨ k.ended = true then .next s
    else if k.released = false then
      if s.now < t0 then .next s
      else
        let s1 := if s.stepFresh p then stepStart s p else s
        .next (watchReset
          (release s1 block fun k => blockStart k (descLine (s.img p) (s.planBlock block))) block)
    else if k.syncDone = true ∧ t0 + (syncOffset (s.img p) k.segment : Nat) ≤ s.now then
      .next (release s block fun k => { k with segment := k.segment + 1, syncDone := false })
    else .next s

/-! ### Fetch (R78) -/

/-- Whether a bundle in a stream buffer may still issue: it lies in a later segment, or at the program's place or the start of
a loop under way, or after it. -/
def Block.needs (k : Block) (f : Fetched) : Bool :=
  let low := (k.loops.map (·.first)).foldl min k.pc
  !k.released || decide (k.segment < f.segment) || (f.segment == k.segment && !k.syncDone && decide (low ≤ f.number))

/-- Whether a bundle's CHECK matches (R77). -/
def checkOk (bs : List Byte) : Bool := crc24 (bs.take 58) == leField bs 61 3

/-- A bundle read for a sequencer from the plan's copy in HBM (R78): its bytes, and whether a word of it is poisoned; none while
the copy's stack is in reset. Of an image that the slices do not hold the model reads the bytes received (log 107). -/
def readBundle (s : State) (b : Nat) (c : SeqId) (o : Nat) : State × Option (List Byte × Bool) :=
  match s.stageRange (s.partOf b) o 64 with
  | [r] =>
    if s.inReset (targetUnit r.1) then (s, none)
    else
      let x := chipRead s (uSeq b c) r.1 r.2 []
      (x.1, some x.2)
  | _ => (s, some (sliceZ (s.img (s.partOf b)) o 64, false))

/-- A bundle put into a sequencer's buffer: beside what the copy holds, 0 the fetch is good, 1 it fails and is good when
repeated, 2 it fails twice and the sequencer stops. `n` bundles are its segment's. -/
def takeBundle (s : State) (b : Nat) (c : SeqId) (err n : Nat) (bs : List Byte) (bad : Bool) : State :=
  let k := s.block b
  let q := k.seq c
  let fails := if bad = true ∨ checkOk bs = false then 2 else min err 2
  let s1 :=
    if fails = 0 then s
    else (s.bumpSat R.CMP_PLAN_ERR_FETCH b fails).record 0x2012 (uSeq b c) [(3, k.seqNo), (1, fails)]
  if fails = 2 then failSeq s1 b c 3
  else
    let f : Fetched := { segment := q.nextSeg, number := q.nextNo, bytes := bs }
    let last := decide (n ≤ q.nextNo + 1)
    s1.modBlock b fun k => k.modSeq c fun q =>
      { q with
        buffer := q.buffer.filter k.needs ++ [f], nextSeg := if last then q.nextSeg + 1 else q.nextSeg,
        nextNo := if last then 0 else q.nextNo + 1 }

/-- The next bundle of the stream fetched into a sequencer's buffer of 1,024, where it has room. -/
def fetchOne (s : State) (b : Nat) (c : SeqId) (err : Nat) : State :=
  let k := s.block b
  let im := s.img (s.partOf b)
  let q := k.seq c
  let n := (dirEntry im (s.planBlock b) q.nextSeg).2.1
  if s.seqUp b c = false ∨ 1024 ≤ (q.buffer.filter k.needs).length ∨ imgSegments im ≤ q.nextSeg ∨ n ≤ q.nextNo then s
  else
    let x := readBundle s b c (secOff im 2 + (dirEntry im (s.planBlock b) q.nextSeg).1 + 64 * q.nextNo)
    match x.2 with
    | none => x.1
    | some d => takeBundle x.1 b c err n d.1 d.2

/-- STREAM_FETCH (R78): both buffers take the next bundle. -/
def execStreamFetch (block errA errB : Nat) (s : State) : Host.Outcome State Fault Refusal :=
  .next (if s.hasPlan (s.partOf block) ∧ s.unitUp (uBlock block) = true then
    fetchOne (fetchOne s block .a errA) block .b errB
  else s)

/-! ### Issue (R76, R83, R86, R87) -/

/-- Whether every consumer has taken its slots of the bundle under way: the control slot's effects follow them (R76). -/
def slotsTaken (k : Block) : Bool :=
  ([conCell 0, conCell 1, conCell 2, conCell 3, conVec, conMover 0, conMover 1].all fun c =>
    (k.con c).expected == (k.seqNo + 1) % 2 ^ 24) && (k.con conVec).both

/-- The place after a bundle, back at the start of a loop body with passes left (R83). -/
def loopBack (ls : List LoopLevel) (pc : Nat) : List LoopLevel × Nat :=
  match ls with
  | [] => ([], pc)
  | l :: r =>
    if pc = l.first + l.body then
      if l.left = 0 then loopBack r pc else ({ l with left := l.left - 1 } :: r, l.first)
    else (l :: r, pc)

/-- A bundle issued by the active sequencers: digests, SEQ, the place of the next (R86, R87). -/
def issueBundle (s : State) (b : Nat) : State :=
  let add (c : SeqId) (k : Block) : Block :=
    match k.bundle c with
    | some f => if s.seqUp b c then k.modSeq c fun q => { q with digest := crc64Add q.digest (f.bytes.take 58) } else k
    | none => k
  s.modBlock b fun k =>
    let n := (k.seqNo + 1) % 2 ^ 24
    let l := loopBack k.loops (k.pc + 1)
    let k1 := { add .b (add .a k) with seqNo := n, loops := l.1, pc := l.2 }
    k1.modCon conRegion fun c => { c with expected := n }

/-- A bundle whose other slots are taken issued to its end: its control slot's effect (R76). -/
def ctlIssue (s : State) (b : Nat) (f : State → State) : State :=
  if canIssue s b = true ∧ slotsTaken (s.block b) = true then f (issueBundle s b) else s

/-- A control NOP (R83). -/
def ctlNop (s : State) (b : Nat) : State := ctlIssue s b id

/-- CTL_NOP (R83). -/
def execCtlNop (block : Nat) (_w : MovSlot) (s : State) : Host.Outcome State Fault Refusal := .next (ctlNop s block)

/-! ### The end of a segment (R71, R83, R87) -/

/-- Plan errors of arrival counters (R85). -/
def ctrError (s : State) (b n : Nat) : State := doNotSeal (s.bumpSat R.CMP_PLAN_ERR_CTR b n) (s.partOf b) vPlanErr

/-- The slack of a segment that ends now (R71), and its slip when it is late (R72). -/
def slack (s : State) (b : Nat) : State :=
  let p := s.partOf b
  let g := (s.block b).segment
  match (s.part p).t0Ns with
  | none => s
  | some t0 =>
    let im := s.img p
    let left : Int := t0 + (syncOffset im g : Nat) - s.now
    let used : Nat := ((syncSlack im g : Nat) - left).toNat
    let s1 := ((s.wr R.CMP_SLACK_LAST b used).raise R.CMP_SLACK_MAX b used).wrI R.CMP_SLACK_MIN b
      (min (s.rdI R.CMP_SLACK_MIN b) left)
    if left < 0 then slip s1 p b (s.leadSeq b) g (-left).toNat 1 else s1

/-- The reports of the sequencers, the slack and the trace record at the end of a segment. -/
def segEnd (s : State) (b : Nat) : State :=
  let p := s.partOf b
  let s1 := slack s b
  let rep (k : Block) (c : SeqId) (q : Sequencer) : Sequencer :=
    { q with
      report := if s.seqUp b c then some { segment := k.segment, digest := q.digest, took := k.took c } else none }
  let s2 := s1.modBlock b fun k => { k with seqA := rep k .a k.seqA, seqB := rep k .b k.seqB }
  traceRec s2 b 0 (s2.leadSeq b) (s.rd R.SEAL_RUN p) (s.rd R.SEAL_STEP p) true

/-- SYNC's effect: the segment is closed. -/
def sync (s : State) (b : Nat) : State :=
  ctlIssue s b fun t => (segEnd t b).modBlock b fun k => { k with syncDone := true }

/-- SYNC (R83). -/
def execSync (block : Nat) (_w : MovSlot) (s : State) : Host.Outcome State Fault Refusal := .next (sync s block)

/-- STEP_END's effect: the block stops for the seal; once every block of the partition has, the partition is
Stopped for seal (R85, R252). -/
def stepEnd (s : State) (b : Nat) : State :=
  ctlIssue s b fun t =>
    let s1 := segEnd t b
    let left := ((s1.block b).arrivals.filter fun e => e.2 != 0).length
    let s2 := if left = 0 then s1 else ctrError s1 b left
    let s3 := s2.modBlock b fun k => { k.rewind with ended := true }
    let p := s.partOf b
    if (s3.blocksOf p).all fun c => (s3.block c).ended then
      stepBoundary (s3.wr R.CMP_PLAN_STATE p psStopped) p
    else s3

/-- STEP_END (R83). -/
def execStepEnd (block : Nat) (_w : MovSlot) (s : State) : Host.Outcome State Fault Refusal := .next (stepEnd s block)

/-! ### LOOP, WAIT, DBASE, FINALIZE -/

/-- LOOP's effect: the next bundles are a body issued as often as the count says. -/
def loop (s : State) (b : Nat) (w : MovSlot) : State :=
  ctlIssue s b fun t => t.modBlock b fun k =>
    { k with loops := { first := k.pc, body := loopBody w, left := loopCount w - 1 } :: k.loops }

/-- LOOP (R83). -/
def execLoop (block : Nat) (w : MovSlot) (s : State) : Host.Outcome State Fault Refusal := .next (loop s block w)

/-- An arrival counter of a block. -/
def Block.arrived (k : Block) (c : Nat) : Nat := mapGet 0 k.arrivals c

/-- An arrival counter set. -/
def Block.setArrived (k : Block) (c n : Nat) : Block := { k with arrivals := mapSet 0 k.arrivals c n }

/-- A WAIT that holds issue completes when its counter has the amount, which it takes away (R83). -/
def tryWait (s : State) (b : Nat) : State :=
  let k := s.block b
  match k.waiting with
  | none => s
  | some (c, n) =>
    if n ≤ k.arrived c then
      s.modBlock b fun k => { k.setArrived c (k.arrived c - n) with waiting := none }
    else s

/-- WAIT's effect: issue is held until the counter has the amount. -/
def wait (s : State) (b : Nat) (w : MovSlot) : State :=
  ctlIssue s b fun t => tryWait (t.modBlock b fun k => { k with waiting := some (waitCtr w, waitAmt w) }) b

/-- WAIT (R83). -/
def execWait (block : Nat) (w : MovSlot) (s : State) : Host.Outcome State Fault Refusal := .next (wait s block w)

/-- An arrival counter of a block increased; it stays at 255 (R85), and a WAIT on it may complete. -/
def arrive (s : State) (b c : Nat) : State :=
  let n := (s.block b).arrived c
  if 255 ≤ n then ctrError s b 1
  else tryWait (s.modBlock b fun k => k.setArrived c (n + 1)) b

/-- DBASE's effect: descriptors count from a line (R84). -/
def dbase (s : State) (b : Nat) (w : MovSlot) : State :=
  ctlIssue s b fun t => t.modBlock b fun k => { k with dbase := dbaseLine w }

/-- DBASE (R83). -/
def execDbase (block : Nat) (w : MovSlot) (s : State) : Host.Outcome State Fault Refusal := .next (dbase s block w)

/-- Pages marked final for the step (R90). -/
def markFinal (s : State) (p page n : Nat) : State :=
  s.modPart p fun q =>
    { q with final := q.final ++ ((List.range n).map (page + ·)).filter fun x => !q.final.contains x }

/-- FINALIZE's effect, once for both copies: the region mover marks the pages (R86, R90). -/
def finalize (s : State) (i : Issue) (w : MovSlot) : State :=
  if slotsTaken (s.block i.block) = true ∨ (accept s i conRegion).2 = false then
    issueSlot s i conRegion fun t =>
      markFinal (issueBundle t i.block) (t.partOf i.block) (finPage w) (finCount w)
  else s

/-- FINALIZE (R83, R90). -/
def execFinalize (i : Issue) (w : MovSlot) (s : State) : Host.Outcome State Fault Refusal := .next (finalize s i w)

/-! ### The comparison of digests (R87, R88, R238) -/

/-- A block stream fault: "do not seal"; the repeats that this run settled are listed again (R238); a second one
in the replay makes the FCC fence the chip. -/
def streamFault (s : State) (b : Nat) : State :=
  let p := s.partOf b
  let k := s.block b
  let s1 := doNotSeal s p vPlanErr
  let s2 := (s1.modBlock b fun k => { k with settled := [], streamFaults := k.streamFaults + 1 }).each k.settled
    fun t r => listRepeat t b r
  if s.replaying p = true ∧ k.streamFaults ≠ 0 then fenceChip s2 else s2

/-- The reports compared with their segment's digest; the masks are what faults changed in them. -/
def digestCompare (s : State) (b maskA maskB : Nat) : State :=
  let k := s.block b
  let ok (r : SeqReport) (mask : Nat) : Bool :=
    xorN r.digest mask == segDigest (s.img (s.partOf b)) (s.planBlock b) r.segment
  let s1 := s.modBlock b fun k =>
    { k with seqA := { k.seqA with report := none }, seqB := { k.seqB with report := none } }
  match k.seqA.report, k.seqB.report with
  | some x, some y =>
    if ok x maskA then if ok y maskB then s1 else failSeqAt s1 b .b 1 y.segment y.took
    else if ok y maskB then failSeqAt s1 b .a 1 x.segment x.took
    else streamFault s1 b
  | some x, none => if ok x maskA then s1 else failSeqAt s1 b .a 1 x.segment x.took
  | none, some y => if ok y maskB then s1 else failSeqAt s1 b .b 1 y.segment y.took
  | none, none => s1

/-- DIGEST_COMPARE (R87). -/
def execDigestCompare (block maskA maskB : Nat) (s : State) : Host.Outcome State Fault Refusal :=
  .next (digestCompare s block maskA maskB)

end Sys2Proof.Machine
end

