-- ==== Sys2Proof/Machine/Time.lean ====
section
/-! DEFINITION. Network time: the counter, offset steps, messages, the time tree and the servo (R198 to R215). Message
times are in units of 2^-16 ns. -/

namespace Sys2Proof.Machine

open Sys2Proof

/-! ### Units -/

/-- Picoseconds in units of 2^-16 ns, and back. -/
def ofPs (ps : Int) : Int := ps * 65536 / 1000
def toPs (u : Int) : Int := u * 1000 / 65536

/-- Nanoseconds in units of 2^-16 ns. -/
def ofNs (ns : Int) : Int := ns * 65536

/-- The counter in units of 2^-16 ns, FRAC truncated. -/
def State.now16 (s : State) : Int := ofNs s.now + (s.time.frac / 256 : Nat)

/-- The transmit timestamp of a port: the capture with the port's fused latency added (R205). -/
def State.txStamp (s : State) (port : Nat) : Int := s.now16 + ofPs (Config.calTx port : Nat)

/-- The receive timestamp of a port: a capture with the port's fused latency subtracted (R205). -/
def rxStamp (port : Nat) (capture : Int) : Int := capture - ofPs (Config.calRx port : Nat)

/-- An integer saturated to `w` bits, two's complement. -/
def satSigned (w : Nat) (v : Int) : Int := max (-(2 ^ (w - 1) : Nat)) (min v ((2 ^ (w - 1) : Nat) - 1))

/-! ### The counter and offset steps (R198, R201) -/

/-- Whether any partition of the chip is Running. -/
def State.running (s : State) : Bool := (List.range 128).any fun p => s.pstate p == psRunning

/-- The pending offset step. -/
def State.stepPend (s : State) : Int := s.rdI R.TIME_STEP_PEND 0

/-- The pending step applied where no partition is Running (R201); what the servo keeps is on the stepped counter from then on. -/
def applyStep (s : State) : State :=
  let d := s.stepPend
  if d = 0 ∨ s.running = true then s
  else
    let t := s.now + d
    let s1 := s.modTime fun u =>
      { u with
        sec := (t / 1000000000 % (2 ^ 48 : Nat)).toNat, ns := (t % 1000000000).toNat,
        syncs := u.syncs.map fun x => (x.1 + ofNs d, x.2 + ofNs d), syncNs := u.syncNs + d, holdNs := u.holdNs + d }
    (s1.wrI R.TIME_STEP_PEND 0 0).record 0x8004 uTime [(8, ofSigned 64 d)]

/-- One tick of TCLK (R198). -/
def tickCounter (s : State) : State :=
  s.modTime fun u =>
    let acc := u.ns * 2 ^ 24 + u.frac + s.rd R.TIME_INCR 0
    let top := 1000000000 * 2 ^ 24
    let a := if top ≤ acc then acc - top else acc
    { u with
      sec := if top ≤ acc then (u.sec + 1) % 2 ^ 48 else u.sec, ns := a / 2 ^ 24, frac := a % 2 ^ 24,
      uptime := u.uptime + 1 }

/-- The island's uptime in ms, which a time step cannot move (R300); TCLK runs at 500 MHz (R18). -/
def State.uptimeMs (s : State) : Nat := s.time.uptime / 500000

/-- A chip whose TIME_MASTER_PORT is 7 is the grandmaster (R210). -/
def grandmaster (s : State) : State :=
  if s.rd R.TIME_STATE 0 = 0 ∧ s.rd R.TIME_MASTER_PORT 0 = 7 then s.wr R.TIME_STATE 0 4 else s

/-- TIME_COUNTER_TICK (R198, R201). -/
def execTimeCounterTick (s : State) : Host.Outcome State Fault Refusal := .next (applyStep (tickCounter (grandmaster s)))

/-- OFFSET_STEP_APPLY (R201). -/
def execOffsetStepApply (s : State) : Host.Outcome State Fault Refusal := .next (applyStep s)

/-- TIME_INCR written (R199): the servo goes on from it. -/
def timeIncr (s : State) (v : Nat) : State :=
  (s.wr R.TIME_INCR 0 v).modTime fun u => { u with estimate := v, syncs := [], slewed := 0 }

/-- TIME_INCR (R199). -/
def execTimeIncr (who : Who) (value : Nat) (s : State) : Host.Outcome State Fault Refusal :=
  .next (s.guard who R.TIME_INCR 0 value fun s => done (timeIncr s value))

/-- A signed offset added to the pending sum, which waits while a partition is Running; a sum past its width is
refused (R201). -/
def stepNs (s : State) (v : Int) : Written :=
  let sum := s.stepPend + v
  if sum < -(2 ^ 63 : Nat) ∨ ((2 ^ 63 : Nat) : Int) ≤ sum then (s, rRange)
  else
    let s1 := s.wrI R.TIME_STEP_PEND 0 sum
    done (if s1.running then s1.record 0x8005 uTime [(8, ofSigned 64 sum)] else s1)

/-- TIME_STEP_NS (R201). -/
def execTimeStepNs (who : Who) (value : Int) (s : State) : Host.Outcome State Fault Refusal :=
  .next (s.guard who R.TIME_STEP_NS 0 (ofSigned 64 value) fun s => stepNs s (toSigned 64 (ofSigned 64 value)))

/-! ### Time states (R210) -/

def tsFree : Nat := 0
def tsAcquiring : Nat := 1
def tsLocked : Nat := 2
def tsHoldover : Nat := 3
def tsGrand : Nat := 4

/-- Whether the chip follows a master now. -/
def State.follows (s : State) : Bool := s.rd R.TIME_STATE 0 == tsAcquiring || s.rd R.TIME_STATE 0 == tsLocked

/-- Holdover entered from a state that follows a master, by cause: 1 no Sync, 2 the port left Up, 3 another identity, 4
TIME_MASTER_PORT written. -/
def timeHoldover (s : State) (cause : Nat) : State :=
  if s.follows then
    (((s.wr R.TIME_STATE 0 tsHoldover).wr R.TIME_HOLDOVER 0 1).modTime fun u =>
      { u with holdNs := s.now, good := 0, syncs := [], slewed := 0 }).record 0x8001 uTime
      [(1, cause), (4, s.rd R.TIME_INCR 0)]
  else s

/-- Holdover left for another state, with the offset of the Sync that ends it. -/
def leaveHoldover (s : State) (offset : Int) : State :=
  if s.rd R.TIME_STATE 0 = tsHoldover then
    (s.wr R.TIME_HOLDOVER 0 0).record 0x8002 uTime
      [(4, ((s.now - s.time.holdNs) / 1000000).toNat), (4, ofSigned 32 (satSigned 32 (toPs offset)))]
  else s

/-- The master port leaves Up (R210). -/
def masterLost (s : State) (port : Nat) : State := if s.rd R.TIME_MASTER_PORT 0 = port then timeHoldover s 2 else s

/-- A port's delay measurement. -/
def State.pdelayOf (s : State) (port : Nat) : Pdelay := mapGet {} s.time.pdelay port

/-- TIME_PATH_PS brought up to date. -/
def pathPs (s : State) : State :=
  s.wr R.TIME_PATH_PS 0 (min (toPs (s.pdelayOf (s.rd R.TIME_MASTER_PORT 0)).path).toNat 0xFFFFFFFF)

/-- TIME_MASTER_PORT written (R208, R210). -/
def masterPort (s : State) (v : Nat) : State :=
  let old := s.rd R.TIME_MASTER_PORT 0
  let s1 := (s.wr R.TIME_MASTER_PORT 0 v).modTime fun u => { u with identity := none, good := 0, syncNs := s.now }
  let s2 := if old = v then s1 else s1.record 0x8006 uTime [(1, old), (1, v)]
  let s3 :=
    if v = 7 then (leaveHoldover s2 0).wr R.TIME_STATE 0 tsGrand
    else if s2.rd R.TIME_STATE 0 = tsGrand then s2.wr R.TIME_STATE 0 tsAcquiring
    else timeHoldover s2 4
  pathPs s3

/-- TIME_MASTER_PORT (R208). -/
def execTimeMasterPort (who : Who) (value : Nat) (s : State) : Host.Outcome State Fault Refusal :=
  .next (s.guard who R.TIME_MASTER_PORT 0 value fun s => done (masterPort s value))

/-- TIME_SYNC_LOSS intervals in ns. -/
def syncLossNs (s : State) : Nat := s.rd R.TIME_SYNC_LOSS 0 * 1000000000 / 2 ^ s.rd R.TIME_SYNC_LOG 0

/-- SYNC_LOSS (R210): no valid Sync for TIME_SYNC_LOSS intervals. -/
def execSyncLoss (s : State) : Host.Outcome State Fault Refusal :=
  .next (if s.time.syncNs + (syncLossNs s : Nat) ≤ s.now then timeHoldover s 1 else s)

/-! ### Reading (R202) -/

/-- A path's number. -/
def pathNo (p : Path) : Nat :=
  match p with
  | .t1s => 1
  | .pcie => 2
  | .vc0 => 3

/-- NS latched for a path, with the seconds. -/
def latchTime (s : State) (p : Path) : State :=
  s.modTime fun u => { u with latched := mapSet 0 u.latched (pathNo p) u.ns }

/-- TIME_NOW_SEC (R202): seconds read, nanoseconds latched for the path. -/
def execTimeNowSec (who : Who) (s : State) : Host.Outcome State Fault Refusal :=
  .next ((latchTime s who.path).emit (.value who s.time.sec))

/-! ### Messages (R203, R204) -/

/-- A time message dropped. -/
def dropTime (s : State) (port : Nat) : State := s.bumpSat R.TIME_MSG_DROP port 1

/-- The ports that are Up. -/
def State.upPorts (s : State) : List Nat := (List.range 6).filter fun p => s.portUp p

/-- The next sequence number of a time message. -/
def nextPtp (s : State) : State := s.modTime fun u => { u with ptpSeq := (u.ptpSeq + 1) % 65536 }

/-- The sourcePortIdentity of a port: the device's EUI-64 and the port plus 1 (R203). -/
def portIdentity (port : Nat) : List Byte := beBytes 8 Config.eui64 ++ beBytes 2 (port + 1)

/-- The header of a time message of a length (R203, log 50), most significant byte first (R5). -/
def ptpHead (port type len seq log : Nat) (correction : Int) : List Byte :=
  beBytes 1 type ++ beBytes 1 0x12 ++ beBytes 2 len ++ beBytes 4 0 ++ beBytes 8 (ofSigned 64 correction) ++ beBytes 4 0 ++
    portIdentity port ++ beBytes 2 seq ++ beBytes 1 (if type = 0 then 0 else 5) ++ beBytes 1 log

/-- The big-endian value of bytes of a message. -/
def beField (bs : List Byte) (o n : Nat) : Nat := beVal ((bs.drop o).take n)

/-- Message types. -/
def mtSync : Nat := 0
def mtReq : Nat := 2
def mtResp : Nat := 3

/-- The type of a message. -/
def ptpType (bs : List Byte) : Nat := beField bs 0 1 % 16

/-- The bytes of a message of a type. -/
def ptpLen (type : Nat) : Nat := if type = mtSync then 44 else 54

/-- Whether a message is one the device takes: a type it supports, version 2, domain 0, one step, whole, a Sync with a time that is
one (R203, R204). -/
def ptpOk (bs : List Byte) : Bool :=
  let n := ptpLen (ptpType bs)
  [mtSync, mtReq, mtResp].contains (ptpType bs) && beField bs 1 1 % 16 == 2 && beField bs 4 1 == 0 &&
    !bitOf (beField bs 6 1) 1 && beField bs 2 2 == n && decide (n ≤ bs.length) &&
    (ptpType bs != mtSync || decide (beField bs 40 4 < 1000000000))

/-- The correctionField and the clockIdentity of a message. -/
def ptpCorrection (bs : List Byte) : Int := toSigned 64 (beField bs 8 8)
def ptpIdentity (bs : List Byte) : Nat := beField bs 20 8

/-- A time message queued on a port: one packet of one flit on VC4, for the link partner (R204). -/
def sendTime (s : State) (port : Nat) (bs : List Byte) : State :=
  if s.portUp port then
    queueAt s port { pkt := withData { ownPacket s 4 6 (s.beyond port) with loc := true } bs }
  else s

/-- A Sync sent on a port. -/
def sendSync (s : State) (port : Nat) : State :=
  nextPtp (sendTime s port
    (ptpHead port mtSync 44 s.time.ptpSeq ((256 - s.rd R.TIME_SYNC_LOG 0) % 256) 0 ++ beBytes 10 0))

/-- SYNC_SEND (R208): on each Up port but the master port. -/
def execSyncSend (s : State) : Host.Outcome State Fault Refusal :=
  .next (s.each (s.upPorts.filter fun p => p != s.rd R.TIME_MASTER_PORT 0) sendSync)

/-- A port's delay measurement changed. -/
def modPdelay (s : State) (port : Nat) (f : Pdelay → Pdelay) : State :=
  s.modTime fun u => { u with pdelay := mapPut u.pdelay port (f (s.pdelayOf port)) }

/-- A Pdelay_Req sent on a port (R207); its departure is not known yet. -/
def sendPdelay (s : State) (port : Nat) : State :=
  let n := s.time.ptpSeq
  nextPtp (sendTime (modPdelay s port fun d => { d with seq := n, t1 := none }) port
    (ptpHead port mtReq 54 n 0x7F 0 ++ beBytes 20 0))

/-- PDELAY_INITIATE (R207): on each Up port. -/
def execPdelayInitiate (s : State) : Host.Outcome State Fault Refusal := .next (s.each s.upPorts sendPdelay)

/-! ### Timestamps at departure (R206) -/

/-- The message in the payload of a flit, where it is a time message: behind the tag and the header. -/
def timeMsgOf (payload : List Byte) : Option (List Byte) :=
  let p := packetOfWord (leField payload 8 32) []
  if (tagOfWord (leField payload 0 8)).vc = 4 ∧ (tagOfWord (leField payload 0 8)).first = true ∧ p.kind = 6 ∧ p.loc = true then
    some (payload.drop 40)
  else none

/-- A message with the departure time inserted, in units of 2^-16 ns: of a Sync the time and its fraction, of a Pdelay_Resp the
time added to its correctionField (R206). -/
def stampMsg (t : Int) (bs : List Byte) : List Byte :=
  let ns := t / 65536
  if ptpType bs = mtSync then
    bs.take 8 ++ beBytes 8 (t % 65536).toNat ++ (bs.drop 16).take 18 ++ beBytes 6 (ns / 1000000000 % (2 ^ 48 : Nat)).toNat ++
      beBytes 4 (ns % 1000000000).toNat ++ bs.drop 44
  else if ptpType bs = mtResp then bs.take 8 ++ beBytes 8 (ofSigned 64 (ptpCorrection bs + t)) ++ bs.drop 16
  else bs

/-- The payload of a flit as a port sends it now, at every transmission (R206). -/
def stampOut (s : State) (port : Nat) (payload : List Byte) : List Byte :=
  match timeMsgOf payload with
  | some bs => payload.take 40 ++ stampMsg (s.txStamp port) bs
  | none => payload

/-- The departure of a Pdelay_Req noted (R207). -/
def noteDeparture (s : State) (port : Nat) (payload : List Byte) : State :=
  match timeMsgOf payload with
  | some bs =>
    if ptpType bs = mtReq ∧ beField bs 30 2 = (s.pdelayOf port).seq then
      modPdelay s port fun d => { d with t1 := some (s.txStamp port) }
    else s
  | none => s

/-! ### Delay (R206, R207) -/

/-- A Pdelay_Req taken: the response carries its receive time with the sign changed, to which the departure is added. -/
def pdelayReqRx (s : State) (port : Nat) (rx : Int) (bs : List Byte) : State :=
  sendTime s port
    (ptpHead port mtResp 54 (beField bs 30 2) 0x7F (-rx) ++ beBytes 10 0 ++ sliceZ bs 20 10)

/-- A Pdelay_Resp taken: the mean path delay; one that answers no request under way is dropped. -/
def pdelayRespRx (s : State) (port : Nat) (rx : Int) (bs : List Byte) : State :=
  let d := s.pdelayOf port
  match d.t1 with
  | none => dropTime s port
  | some t1 =>
    if beField bs 30 2 = d.seq ∧ (bs.drop 44).take 10 = portIdentity port then
      pathPs (modPdelay s port fun x => { x with t1 := none, path := ((rx - t1) - ptpCorrection bs) / 2 })
    else dropTime s port

/-- A delay exchange discarded with a link's retry state (R213). -/
def dropExchange (s : State) (port : Nat) : State :=
  if (s.pdelayOf port).t1.isSome then modPdelay s port fun d => { d with t1 := none } else s

/-! ### The servo (R209) -/

/-- An increment within the range of TIME_INCR (R199). -/
def clampIncr (v : Int) : Nat := (max 0x01FF7CEE (min v 0x02008312)).toNat

/-- The Syncs of the window as they would have been at another frequency estimate, seen from a Sync at `rx`. -/
def rebase (l : List (Int × Int)) (rx est v : Int) : List (Int × Int) := l.map fun x => (x.1, x.2 - (rx - x.1) * (v - est) / est)

/-- A Sync added to the last 1,024; a full window gives the frequency estimate, the increment that cancels the drift left by
slewing, rounded to the nearest. TIME_INCR follows it, with the slew under way. -/
def servoFreq (s : State) (rx offset : Int) : State :=
  let u := s.time
  let est : Int := (u.estimate : Nat)
  let incr : Int := (s.rd R.TIME_INCR 0 : Nat)
  let moved := match u.syncs.getLast? with
    | some x => u.slewed + (incr - est) * (rx - x.1) / est
    | none => 0
  let all := u.syncs ++ [(rx, offset - moved)]
  let w := all.drop (all.length - 1024)
  match w with
  | (rx0, o0) :: _ =>
    let own := rx - rx0
    if w.length < 1024 ∨ own ≤ 0 then s.modTime fun u => { u with syncs := w, slewed := moved }
    else
      let v := clampIncr ((2 * est * (own - (offset - moved - o0)) + own) / (2 * own))
      (s.wr R.TIME_INCR 0 (clampIncr (v + (incr - est)))).modTime fun u =>
        { u with estimate := v, syncs := rebase w rx est v, slewed := moved }
  | [] => s

/-- The largest change of TIME_INCR that slewing may make, in its units (R209). -/
def slewMax (s : State) : Nat := s.rd R.TIME_SLEW_PPB 0 * s.time.estimate / 1000000000

/-- Slewing: TIME_INCR moves from the estimate against the offset, by an amount the manual only bounds (a free value),
and returns to the estimate when the offset is removed. -/
def servoSlew (s : State) (offset : Int) : State :=
  let est : Int := (s.time.estimate : Nat)
  let incr : Int := (s.rd R.TIME_INCR 0 : Nat)
  if incr < est then (if offset ≤ 0 then s.wr R.TIME_INCR 0 s.time.estimate else s)
  else if est < incr then (if 0 ≤ offset then s.wr R.TIME_INCR 0 s.time.estimate else s)
  else if offset = 0 then s
  else
    let n : Int := (1 + Config.free s.free % max 1 (slewMax s) : Nat)
    s.tick.wr R.TIME_INCR 0 (clampIncr (if 0 < offset then est - n else est + n))

/-- A distance rounded to whole nanoseconds. -/
def roundNs (u : Int) : Int := (u + 32768) / 65536

/-- What the servo does with a Sync's offset. -/
def servo (s : State) (rx offset : Int) : State :=
  if s.rd R.TIME_SERVO 0 = 1 ∧ s.follows = true then
    let s1 := servoFreq s rx offset
    if ofNs (s.rd R.TIME_STEP_THR_NS 0 : Nat) < offset.natAbs ∧ s.running = false then (stepNs s1 (-roundNs offset)).1
    else if s.rd R.TIME_STATE 0 = tsLocked then servoSlew s1 offset
    else s1
  else s

/-! ### A Sync from the master port (R204, R207, R209 to R211) -/

/-- The offset of a Sync received at `rx` (R207). -/
def syncOffsetOf (s : State) (port : Nat) (rx : Int) (bs : List Byte) : Int :=
  rx - (ofNs ((beField bs 34 6 * 1000000000 + beField bs 40 4 : Nat) : Int) + ptpCorrection bs + (s.pdelayOf port).path +
    ofPs (s.rdI R.TIME_ASYM_PS port))

/-- Offset, exceedances and the alarm (R207, R211). -/
def noteOffset (s : State) (port : Nat) (offset : Int) : State :=
  let ps := satSigned 32 (toPs offset)
  let s1 := s.wrI R.TIME_OFFSET_PS 0 ps
  let far (ns : Nat) : Bool := decide (ofNs (ns : Nat) < offset.natAbs)
  let s2 := if far (s.rd R.TIME_ALIGN_NS 0) then s1.bumpSat R.TIME_ALIGN_EXC 0 1 else s1
  if far (s.rd R.TIME_ALARM_NS 0) then penDecay (s2.record 0x8003 uTime [(4, ofSigned 32 ps), (1, port)]) uFcc 10 else s2

/-- Acquiring, and Locked after 16 consecutive Syncs in bound. -/
def acquire (s : State) (offset : Int) : State :=
  if s.rd R.TIME_STATE 0 = tsAcquiring then
    let ok := decide ((offset.natAbs : Int) ≤ ofNs (s.rd R.TIME_ALIGN_NS 0 : Nat))
    let n := if ok then s.time.good + 1 else 0
    let s1 := s.modTime fun u => { u with good := n }
    if 16 ≤ n then s1.wr R.TIME_STATE 0 tsLocked else s1
  else s

/-- The first valid Sync of a free-running chip or of one in holdover. -/
def startAcquire (s : State) (offset : Int) : State :=
  if s.rd R.TIME_STATE 0 = tsFree ∨ s.rd R.TIME_STATE 0 = tsHoldover then
    ((leaveHoldover s offset).wr R.TIME_STATE 0 tsAcquiring).modTime fun u => { u with good := 0 }
  else s

/-- A valid Sync of the master port. Another identity than the last one's ends what follows a master (R210). -/
def syncRx (s : State) (port : Nat) (rx : Int) (bs : List Byte) : State :=
  let id := ptpIdentity bs
  let s1 := (s.bumpSat R.TIME_SYNC_RX port 1).modTime fun u => { u with identity := some id, syncNs := s.now }
  let offset := syncOffsetOf s port rx bs
  let changed : Option Nat := s.time.identity.filter fun i => i != id
  let s2 := match changed with
    | some i => s1.record 0x8006 uTime [(8, i), (8, id)]
    | none => s1
  if changed.isSome ∧ s.follows = true then noteOffset (timeHoldover s2 3) port offset
  else servo (acquire (noteOffset (startAcquire s2 offset) port offset) offset) rx offset

/-- A time message taken or dropped, with the counter as captured at its arrival (R203 to R205). -/
def timeRx (s : State) (m : TimeMsg) : State :=
  let rx := rxStamp m.port m.capture
  if ptpOk m.bytes = false ∨ s.portUp m.port = false then dropTime s m.port
  else if ptpType m.bytes = mtReq then pdelayReqRx s m.port rx m.bytes
  else if ptpType m.bytes = mtResp then pdelayRespRx s m.port rx m.bytes
  else if m.port = s.rd R.TIME_MASTER_PORT 0 then syncRx s m.port rx m.bytes
  else dropTime s m.port

/-- SYNC_MESSAGE (R204, R209). -/
def execSyncMessage (m : TimeMsg) (s : State) : Host.Outcome State Fault Refusal :=
  .next (if ptpType m.bytes = mtSync then timeRx s m else dropTime s m.port)

/-- PDELAY_REQ (R206): answered with the turnaround time. -/
def execPdelayReq (m : TimeMsg) (s : State) : Host.Outcome State Fault Refusal :=
  .next (if ptpType m.bytes = mtReq then timeRx s m else dropTime s m.port)

/-- PDELAY_RESP (R207): the mean path delay. -/
def execPdelayResp (m : TimeMsg) (s : State) : Host.Outcome State Fault Refusal :=
  .next (if ptpType m.bytes = mtResp then timeRx s m else dropTime s m.port)

end Sys2Proof.Machine
end

