-- ==== Sys2Proof/Machine/Router.lean ====
section
/-! DEFINITION. Packets, routing by table versions, end-to-end windows, shapers and gatekeepers (R147 to R174,
R317 to R319, R414). -/

namespace Sys2Proof.Machine

open Sys2Proof

/-- Whether a window governs a packet (R157, R159). -/
def windowed (p : Packet) : Bool :=
  (p.vc == 2 || p.vc == 3) && p.kind != 2 && p.kind != 3 && p.kind != 9

/-- A slip of source 2 of a VC1 packet at a port (R72): one record, and the step of each partition of the packet's domain. A chip
without one writes the record alone (log 19). -/
def slipTag (s : State) (port tag : Nat) : State :=
  let ps := s.tagParts tag
  let u := uPort port
  let first (t : State) (p : Nat) : Nat := ((t.blocksOf p).head?).getD 0
  let s1 := match ps with
    | p :: _ => slipRecord s (s.rd R.SEAL_STEP p) u (s.block (first s p)).segment 0 2
    | [] => slipRecord s (s.stepOf u) u 0xFFFF 0 2
  s1.each ps fun t p => slipStep (t.bumpSat R.CMP_SLIPS (first t p) 1) p

/-! ### Gatekeepers and late arrivals (R317, R319) -/

/-- The generation of a domain. -/
def State.genOf (s : State) (u : Nat) : Nat := s.rd R.RST_DOM_GEN u

/-- What a gatekeeper does with a request. -/
inductive GkAct where
  | pass
  | drop
  | answer (inReset : Bool)
  deriving DecidableEq, Repr

/-- The gatekeeper's decision. -/
def gateAct (s : State) (unit : Nat) (posted : Bool) (tgen : Nat) : GkAct :=
  if s.inReset unit then if posted then .drop else .answer true
  else if tgen % 16 = s.genOf unit then .pass
  else .answer false

/-- The data of a status reply (R317). -/
def statusBytes (unit gen : Nat) (st : StatusBits) : List Byte :=
  leBytes 1 st.status ++ leBytes 1 (gen % 16 + 16 * b2n st.inReset) ++ leBytes 2 unit ++ leBytes 4 0

/-- A status reply to a requester: of another chip a packet of KIND 0x9 on VC4 (R151, R317). -/
def statusReply (s : State) (requester rid unit : Nat) (st : StatusBits) : State :=
  let gen := s.genOf unit
  if requester = s.me then s.emit (.statusReply requester rid unit gen st)
  else
    forward s { pkt := withData { ownPacket s 4 9 requester with rid := rid, tgen := gen } (statusBytes unit gen st) } true

/-- The gatekeeper of a domain sees a request: its state after, and whether it passes. -/
def gatekeep (s : State) (unit : Nat) (posted : Bool) (tgen requester rid : Nat) : State × Bool :=
  match gateAct s unit posted tgen with
  | .pass => (s, true)
  | .drop => (s.bumpSat R.RST_GK_DROP unit 1, false)
  | .answer r =>
    (statusReply (s.bumpSat R.RST_GK_ANSWERS unit 1) requester rid unit { status := 2, inReset := r }, false)

/-- GATEKEEPER_REQUEST (R317). -/
def execGatekeeperRequest (r : GkReq) (s : State) : Host.Outcome State Fault Refusal :=
  .next (gatekeep s r.unit r.posted r.tgen r.requester r.rid).1

/-- The key of a remote domain. -/
def remoteKey (chip unit : Nat) : Nat := chip * 65536 + unit

/-- The generation a requester believes a target has (R318). -/
def State.knownGen (s : State) (chip unit : Nat) : Option Nat :=
  if chip = s.me then some (s.genOf unit)
  else (s.rst.remote.find? fun e => e.1 == remoteKey chip unit).map (·.2)

/-- A remote domain's generation noted, the least recently used of 4,096 forgotten. -/
def noteGen (s : State) (chip unit gen : Nat) : State :=
  if chip = s.me then s
  else
    let rest := s.rst.remote.filter fun e => e.1 != remoteKey chip unit
    let new := (rest ++ [(remoteKey chip unit, gen % 16)]).drop (rest.length - 4095)
    (s.modRst fun r => { r with remote := new }).wr R.RST_GEN_CACHE 0 new.length

/-! ### Serving requests from the fabric (R109, R317) -/

/-- The partition of this chip that a packet's request is for: its source partition's number where that carries the domain tag,
else the lowest that does (R109). -/
def State.partFor (s : State) (p : Packet) : Nat :=
  if s.tagOf p.spart = p.dtag then p.spart
  else ((List.range 128).find? fun k => s.tagOf k == p.dtag).getD p.spart

/-- A packet's request as the memory sees it. -/
def pktReq (s : State) (p : Packet) (write : Bool) (data : List Byte) (len : Nat) (ecc : List EccHit) : MemReq :=
  { role := .observer, part := s.partFor p, func := p.func, remote := true, tag := p.dtag, raw := false,
    planned := p.vc == 1, unit := uInject, write := write, offset := p.offset, len := len, data := data,
    poison := p.poison, ecc := ecc }

/-- The unit that a request's offset reaches on this chip. -/
def reqUnit (s : State) (r : MemReq) : Nat :=
  match reqRange s r with
  | some (c :: _) => targetUnit c.1
  | _ => targetUnit r.offset

/-! ### Completing host commands -/

/-- The outstanding identifiers of a mover retired (R318). -/
def retireMover (s : State) (m : Nat) : State :=
  s.modRst fun r => { r with outstanding := r.outstanding.filter fun e => e.2.mover != some m }

/-- The mover of an outstanding identifier. -/
def ridMover (s : State) (rid : Nat) : Option Nat := (mapFind s.rst.outstanding rid).bind (·.mover)

/-- An outstanding request ended with a status: its command completes and its other requests are late (R318). -/
def failRid (s : State) (rid status reason : Nat) : State :=
  match ridMover s rid with
  | some m => moverFail (retireMover s m) m status reason 0
  | none => s.modRst fun r => { r with outstanding := mapDel r.outstanding rid }

/-- An outstanding write acknowledged: its command has come so much further. -/
def endRid (s : State) (rid : Nat) : State :=
  match mapFind s.rst.outstanding rid with
  | none => s
  | some o =>
    let s1 := s.modRst fun r => { r with outstanding := mapDel r.outstanding rid }
    match o.mover with
    | none => s1
    | some m => modMover s1 m fun x => { x with next := x.next + o.pkt.data.length, got := false, runs := [] }

/-! ### Source windows and shapers (R157, R161) -/

/-- The key of a window context. -/
def ctxKey (peer vc : Nat) : Nat := peer * 8 + vc

/-- The window of a virtual channel. -/
def State.window (s : State) (vc : Nat) : Nat := if vc = 2 then s.rd R.FAB_E2E_WIN 0 else s.rd R.FAB_E2E_WIN3 0

/-- FAB_E2E_CTX brought up to date. -/
def ctxCount (s : State) : State :=
  s.wr R.FAB_E2E_CTX 0 (s.router.src.length % 65536 + s.router.rcv.length % 65536 * 65536)

/-- A source context changed. -/
def modSrc (s : State) (k : Nat) (f : SrcCtx → SrcCtx) : State :=
  ctxCount (s.modRouter fun r => { r with src := mapPut r.src k (f (mapGet {} r.src k)) })

/-- A windowed packet put into its context: sent with the next ESEQ, or waiting for room. -/
def windowSend (s : State) (w : Waiting) : State :=
  let p := w.pkt
  let k := ctxKey p.dst p.vc
  let old := mapGet {} s.router.src k
  let c : SrcCtx :=
    if mapHas s.router.src k then old else { incarn := s.nowMs, createdMs := s.nowMs, lastNs := s.now }
  if c.pending.length < s.window p.vc then
    let q := stamp s { p with eseq := c.next, incarn := c.incarn, syn := !c.acked }
    let s1 := modSrc s k fun _ =>
      { c with
        next := (c.next + 1) % 65536, pending := c.pending ++ [{ eseq := c.next, pkt := q, sentNs := s.now }],
        lastNs := s.now }
    forward s1 { pkt := q } true
  else modSrc s k fun _ => { c with waiting := c.waiting ++ [w] }

/-- What a shaper charges for a packet (R161). -/
def chargeOf (p : Packet) : Nat := (p.len + 1) * 256

/-- A function's shaper level refilled up to now at its rate (R161). -/
def shpRefill (s : State) (f : Nat) : State :=
  let rate := s.rd R.FAB_SHP_RATE f
  let sh := mapGet {} s.router.shapers f
  let s1 := s.modRouter fun r => { r with shapers := mapPut r.shapers f { sh with lastNs := s.now } }
  if rate = 0 ∨ rate = 0xFFFFFFFF then s1
  else
    let add : Int := (rate : Int) * (s.now - sh.lastNs) / 1000
    s1.wrI R.FAB_SHP_LEVEL f (min (s.rdI R.FAB_SHP_LEVEL f + add) (s.rd R.FAB_SHP_BURST f : Nat))

/-- Where a packet goes now: its domain-relative destination by the map of the version then Active (R162, R166). -/
def retarget (s : State) (w : Waiting) : Option Nat :=
  match w.rel with
  | some r => s.chipOf s.injVer w.pkt.dtag r
  | none => some w.pkt.dst

/-- A packet past its shaper: into its window, or as it stands. One without a source context where 16,384 are in use waits for
one (R157); one whose destination the map no longer has is denied (R162). -/
def depart (s : State) (w : Waiting) : State :=
  if w.again then forward s { pkt := stamp s w.pkt } true
  else
    match retarget s w with
    | none => failRid s w.pkt.rid 7 0
    | some dst =>
      let p := { w.pkt with dst := dst }
      let s1 := if dst = w.pkt.dst then s else s.modRst fun r =>
        { r with outstanding := r.outstanding.map fun e => if e.1 = p.rid then (e.1, { e.2 with chip := dst, pkt := p }) else e }
      if mapHas s.router.src (ctxKey dst p.vc) = false ∧ 16384 ≤ s.router.src.length then
        s1.modRouter fun r => { r with noCtx := r.noCtx ++ [{ w with pkt := p }] }
      else windowSend s1 { w with pkt := p }

/-- One decision of a function's shaper on the head of its injection queue (R161). -/
def shaperDecide (s : State) (f : Nat) : State :=
  match (mapGet {} s.router.shapers f).queue with
  | [] => s
  | w :: rest =>
    let s1 := shpRefill s f
    let rate := s.rd R.FAB_SHP_RATE f
    if rate = 0 ∨ (rate ≠ 0xFFFFFFFF ∧ s1.rdI R.FAB_SHP_LEVEL f < 0) then s1.bumpSat R.FAB_SHP_HELD f 1
    else
      let s2 := if rate = 0xFFFFFFFF then s1 else s1.wrI R.FAB_SHP_LEVEL f (s1.rdI R.FAB_SHP_LEVEL f - (chargeOf w.pkt : Nat))
      let s3 := s2.modRouter fun r =>
        { r with shapers := mapPut r.shapers f { mapGet {} r.shapers f with queue := rest } }
      depart s3 w

/-- SHAPER_DECISION (R161). -/
def execShaperDecision (func : Nat) (s : State) : Host.Outcome State Fault Refusal := .next (shaperDecide s func)

/-- A VC2 packet enters its function's injection queue, which its shaper serves at once where it may. -/
def shape (s : State) (w : Waiting) : State :=
  let f := w.pkt.func
  let first := (mapGet {} s.router.shapers f).queue = []
  let s1 := s.modRouter fun r =>
    let sh := mapGet {} r.shapers f
    { r with shapers := mapPut r.shapers f { sh with queue := sh.queue ++ [w] } }
  if first then shaperDecide s1 f else s1

/-- A windowed packet handed over: VC2 through its function's shaper (R161). -/
def handOver (s : State) (w : Waiting) : State := if w.pkt.vc = 2 then shape s w else depart s w

/-- FAB_SHP_RATE written: the level keeps its bytes and refills at the new rate from now (R161). -/
def shpRate (s : State) (f v : Nat) : Written := done ((shpRefill s f).wr R.FAB_SHP_RATE f v)

/-- FAB_SHP_RATE (R161). -/
def execFabShpRate (who : Who) (func value : Nat) (s : State) : Host.Outcome State Fault Refusal :=
  .next (s.guard who R.FAB_SHP_RATE func value fun s => shpRate s func value)

/-- FAB_SHP_LEVEL written, up to the burst (R161, R174). -/
def shpLevel (s : State) (f : Nat) (v : Int) : Written :=
  if (s.rd R.FAB_SHP_BURST f : Nat) < v then (s, rRange) else done ((shpRefill s f).wrI R.FAB_SHP_LEVEL f v)

/-- FAB_SHP_LEVEL (R161). -/
def execFabShpLevel (who : Who) (func : Nat) (value : Int) (s : State) : Host.Outcome State Fault Refusal :=
  .next (s.guard who R.FAB_SHP_LEVEL func (ofSigned 64 value) fun s => shpLevel s func value)

/-! ### Injection (R151, R166) -/

/-- A packet of an injection request, before its window and version. -/
def packetOf (s : State) (i : Inject) (dst tgen : Nat) : Packet :=
  withData
    { ownPacket s i.vc i.kind dst with
      offset := i.offset, dtag := i.dtag, spart := i.spart, tgen := tgen, func := i.func, rid := i.rid, sched := i.sched,
      poison := i.poison, loc := i.loc }
    i.data

/-- Whether a request waits for an answer or an acknowledgement under its identifier (R318). -/
def needsRid (i : Inject) : Bool := (i.vc == 2 && i.kind == 0) || ((i.vc == 2 || i.vc == 3) && i.kind == 1)

/-- The request noted as outstanding. -/
def noteOut (s : State) (i : Inject) (p : Packet) : State :=
  if needsRid i then
    s.modRst fun r =>
      { r with
        outstanding := mapPut r.outstanding i.rid
          { chip := p.dst, unit := targetUnit i.offset, tgen := p.tgen, mover := i.mover, pkt := p } }
  else s

/-! ### Acknowledgements (R157, R158) -/

/-- Packets that wait for room in a window sent. -/
def windowFill (fuel : Nat) (s : State) (k : Nat) : State :=
  match fuel with
  | 0 => s
  | n + 1 =>
    let c := mapGet {} s.router.src k
    match c.waiting with
    | [] => s
    | w :: rest =>
      if c.pending.length < s.window w.pkt.vc then
        windowFill n (depart (modSrc s k fun c => { c with waiting := rest }) w) k
      else s

/-- The packets of a context that an acknowledgement names. -/
def ackedBy (cum : Nat) (map_ : Nat) (e : Nat) : Bool :=
  let d := (e + (65536 - (cum + 1) % 65536)) % 65536
  decide (32768 ≤ d) || (decide (d < 64) && bitOf map_ d)

/-- A window acknowledgement's effect on its context. -/
def windowAck (s : State) (peer vc cum map_ incarn : Nat) : State :=
  let k := ctxKey peer vc
  match mapFind s.router.src k with
  | none => s
  | some c =>
    if c.incarn ≠ incarn then s
    else
      let out := c.pending.filter fun e => ackedBy cum map_ e.eseq
      let s1 := modSrc s k fun _ =>
        { c with acked := true, pending := c.pending.filter fun e => !ackedBy cum map_ e.eseq, lastNs := s.now }
      let s2 := s1.each out fun t e => if e.pkt.vc = 2 ∧ e.pkt.kind = 0 then endRid t e.pkt.rid else t
      windowFill 1025 s2 k

/-- A packet sent once more as it stands; on VC2 its shaper is charged again (R157, R161). -/
def sendAgain (s : State) (p : Packet) : State := handOver s { pkt := p, again := true }

/-- A RESYNC's effect (R158): a new incarnation, the outstanding packets renumbered from 0 with SYN and resent. Not
twice within 1 ms (R157). -/
def windowResync (s : State) (peer vc incarn : Nat) : State :=
  let k := ctxKey peer vc
  match mapFind s.router.src k with
  | none => s
  | some c =>
    if c.incarn ≠ incarn ∨ c.createdMs = s.nowMs then s
    else
      let new := s.nowMs
      let ps : List Unacked := (List.range c.pending.length).zip c.pending |>.map fun e =>
        { e.2 with
          eseq := e.1, pkt := stamp s { e.2.pkt with eseq := e.1, incarn := new, syn := true }, sentNs := s.now }
      let s1 := modSrc (s.record 0x6045 uFcc [(4, peer), (2, c.incarn), (2, new)]) k fun _ =>
        { c with
          incarn := new, acked := false, next := c.pending.length, pending := ps, createdMs := new, lastNs := s.now }
      s1.each ps fun t e => sendAgain t e.pkt

/-- The data of an acknowledgement: the virtual channel, the cumulative number, the map above it, and 1 in a RESYNC (log 35). -/
def ackBytes (vc cum map_ : Nat) (resync : Bool) : List Byte :=
  leBytes 1 vc ++ leBytes 2 cum ++ leBytes 8 map_ ++ leBytes 1 (b2n resync)

/-- A packet of KIND 0x3 taken (R157, R158). -/
def ackRx (s : State) (p : Packet) : State :=
  let vc := leField p.data 0 1
  if leField p.data 11 1 = 1 then windowResync s p.src vc p.incarn
  else windowAck s p.src vc (leField p.data 1 2) (leField p.data 3 8) p.incarn

/-! ### Arrival at this chip (R152, R157, R158, R260) -/

/-- Planned data written where it belongs; the counter that the last packet names rises at the block of its last byte (R82). Of an
older run generation it is late (R260), for a domain in reset it is dropped (R317). -/
def ejectPlanned (s : State) (p : Packet) (data : List Byte) : State :=
  let r := pktReq s p true data data.length []
  let u := reqUnit s r
  if p.tgen % 16 ≠ (s.part r.part).runGen then dropLate s u p.tgen p.src
  else if s.inReset u then s.bumpSat R.RST_GK_DROP u 1
  else
    match reqRange s r with
    | none => denyReq s r
    | some rs =>
      let s1 := planWriteAll s uInject rs data p.poison
      match p.rid, rs.getLast? with
      | c + 1, some x =>
        if p.kind = 0 ∧ hbmBytes ≤ x.1 then arrive s1 ((x.1 + x.2 - 1 - sramStart) / blockBytes) c else s1
      | _, _ => s1

/-- A status reply of ACCESS_DENIED for a denied request of another chip (R110, log 35). -/
def replyDenied (s : State) (p : Packet) (r : MemReq) : State :=
  statusReply (denyReq s r) p.src p.rid (reqUnit s r) { status := 7, inReset := false }

/-- A write from the fabric (R109, R317). -/
def ejectWrite (s : State) (p : Packet) : State :=
  let r := pktReq s p true p.data p.data.length []
  let g := gatekeep s (reqUnit s r) true p.tgen p.src p.rid
  if g.2 = false then g.1
  else if (reqRange g.1 r).isNone then replyDenied g.1 p r
  else memRequest g.1 r

/-- A read reply sent to the requester, with the generation at which its request was accepted (R317); on VC2 its function's shaper
governs it (R161). -/
def sendReply (s : State) (p : Packet) (gen : Nat) (data : List Byte) (bad : Bool) : State :=
  let q := withData
    { ownPacket s p.vc 2 p.src with
      dtag := p.dtag, spart := p.spart, tgen := gen, func := p.func, rid := p.rid, poison := bad }
    data
  if q.dst = s.me then s.emit (.packet q) else sendAgain s q

/-- A read from the fabric (R109, R110, R317): it names its length in its first 4 data bytes. One held by zeroing
is answered by the memory when it is released (R114). -/
def ejectRead (s : State) (p : Packet) (ecc : List EccHit) : State :=
  let r := pktReq s p false [] (min maxData (leField p.data 0 4)) ecc
  let u := reqUnit s r
  let g := gatekeep s u false p.tgen p.src p.rid
  if g.2 = false then g.1
  else
    match reqRange g.1 r with
    | none => replyDenied g.1 p r
    | some rs =>
      if (rs.findSome? fun c => holdOf g.1 c.1 c.2).isSome then memRequest g.1 r
      else
        let x := readRange g.1 uInject rs ecc
        sendReply x.1 p (s.genOf u) x.2.1 x.2.2

/-- A multicast copy written at its offset (R169): planned data on VC1; on VC0 a write of the Operator role, FRZ_AT by its direct
slot (R386) or memory; on VC4 a write as any other of another chip. -/
def ejectCast (s : State) (p : Packet) : State :=
  let data := p.data.drop 8
  if p.vc = 1 then ejectPlanned s p data
  else if p.vc = 0 ∧ p.offset = 0x500204000400 then (freezeArm s (leField data 0 8)).1
  else if p.vc = 0 then
    memRequest s { pktReq s p true data data.length [] with role := .operator, remote := false, raw := true }
  else ejectWrite s { p with data := data }

/-- A VC0 packet at its destination's FCC: one whose tag fails is dropped (R152), a Clover message that is not known too (R270). -/
def fccTake (s : State) (p : Packet) : State :=
  if vc0Ok s p = false then
    let s1 := (dropPkt s uFcc 8 p).record 0x6047 uFcc [(4, p.src), (1, p.kind)]
    if p.kind = 7 then s1.bumpSat R.CLV_DROP 0 1 else s1
  else if p.kind = 7 ∧ clvKnown p.data = false then s.bumpSat R.CLV_DROP 0 1
  else if p.kind = 5 then ejectCast s { p with data := vc0Body p }
  else s.emit (.packet p)

/-- A packet for the link partner, this chip: it goes to the FCC, a time message with its receive time (R163, R204, R205). -/
def localTake (s : State) (port : Nat) (p : Packet) : State :=
  if p.vc = 0 then fccTake s p
  else if p.vc = 4 ∧ p.kind = 6 then timeRx s { port := port, capture := s.now16, bytes := p.data }
  else s.emit (.packet p)

/-- Packets delivered by their channel and kind. -/
def deliverPkt (s : State) (p : Packet) (ecc : List EccHit) : State :=
  if p.vc = 0 then fccTake s p
  else if p.kind = 5 then ejectCast s p
  else if p.vc = 1 ∧ p.kind = 0 then ejectPlanned s p p.data
  else if p.vc = 2 ∧ p.kind = 0 then ejectWrite s p
  else if (p.vc = 2 ∨ p.vc = 3) ∧ p.kind = 1 then ejectRead s p ecc
  else if p.vc = 4 ∧ p.kind = 3 then ackRx s p
  else s.emit (.packet p)

/-! ### Receive windows (R157, R158) -/

/-- A receive context changed. -/
def modRcv (s : State) (k : Nat) (f : RcvCtx → RcvCtx) : State :=
  ctxCount (s.modRouter fun r => { r with rcv := mapPut r.rcv k (f (mapGet {} r.rcv k)) })

/-- The expected number past the packets already received above it. -/
def advance (fuel e : Nat) (above : List Nat) : Nat × List Nat :=
  match fuel with
  | 0 => (e, above)
  | n + 1 => if above.contains e then advance n ((e + 1) % 65536) (above.filter (· != e)) else (e, above)

/-- An acknowledgement sent to a source (R157). -/
def sendAck (s : State) (peer vc : Nat) (c : RcvCtx) (resync : Bool) : State :=
  let cum := (c.expected + 65535) % 65536
  let map_ := (c.above.map fun e => 2 ^ ((e + (65536 - c.expected)) % 65536)).foldl (· + ·) 0
  let p := withData { ownPacket s 4 3 peer with incarn := c.incarn } (ackBytes vc cum (map_ % 2 ^ 64) resync)
  forward s { pkt := p } true

/-- A packet in its window delivered once; any other is a duplicate, acknowledged again. -/
def windowTake (s : State) (k : Nat) (c : RcvCtx) (p : Packet) (ecc : List EccHit) : State :=
  let d := (p.eseq + (65536 - c.expected)) % 65536
  if d < s.window p.vc ∧ c.above.contains p.eseq = false then
    let n := if d = 0 then advance 1025 ((c.expected + 1) % 65536) c.above else (c.expected, c.above ++ [p.eseq])
    deliverPkt (modRcv s k fun _ =>
      { c with expected := n.1, above := n.2, sinceAck := c.sinceAck + 1, lastNs := s.now }) p ecc
  else
    modRcv (s.bumpSat R.FAB_E2E_DUP 0 1) k fun _ => { c with sinceAck := max c.sinceAck 1, lastNs := s.now }

/-- A packet without SYN that matches no context: dropped, and a RESYNC sent (R158). -/
def resync (s : State) (p : Packet) : State :=
  sendAck (s.bumpSat R.FAB_E2E_RESYNC 0 1) p.src p.vc { incarn := p.incarn } true

/-- A windowed packet at its receiver (R157, R158). Where 16,384 contexts are in use a new source's is dropped without an
acknowledgement, and the source resends it (log 33). -/
def windowReceive (s : State) (p : Packet) (ecc : List EccHit) : State :=
  let k := ctxKey p.src p.vc
  match mapFind s.router.rcv k with
  | none =>
    if p.syn = false then resync s p
    else if 16384 ≤ s.router.rcv.length then s
    else windowTake s k { incarn := p.incarn, lastNs := s.now } p ecc
  | some c =>
    let d := (p.incarn + (65536 - c.incarn)) % 65536
    if d = 0 then windowTake s k c p ecc
    else if 32767 < d then s
    else if p.syn then windowTake s k { incarn := p.incarn, lastNs := s.now } p ecc
    else resync s p

/-- A packet for this chip (R150, R152, R157). -/
def eject (s : State) (p : Packet) (ecc : List EccHit) : State :=
  if windowed p then windowReceive s p ecc else deliverPkt s p ecc

/-- PACKET_EJECT (R157). -/
def execPacketEject (p : Packet) (ecc : List EccHit) (s : State) : Host.Outcome State Fault Refusal :=
  .next (eject s p ecc)

/-! ### Multicast (R169) -/

/-- The corner of a box. -/
def cornerOf (b : Box) : Nat := chipAt b.x0 b.y0 b.z0

/-- A copy of a multicast packet sent on a port, for the chip beyond it; dropped where the port is down (R169, log 34). -/
def castCopy (s : State) (port : Nat) (p : Packet) : State :=
  let q := { p with hops := p.hops + 1, dst := s.beyond port }
  if s.rd R.FAB_HOP_LIMIT 0 < q.hops then dropPkt s (uPort port) 2 q
  else if s.portUp port then queueAt s port { pkt := q, branch := true }
  else
    let s1 := dropPkt s (uPort port) 7 q
    if p.vc = 1 then slipTag s1 port p.dtag else s1

/-- A multicast packet (R169): on its way to the corner, or a copy at a chip of the box, which takes it and sends
it on. A copy names the chip it is for in DST, which is ignored otherwise (log 34). -/
def castRoute (s : State) (q : QPacket) (ecc : List EccHit) : State :=
  let p := q.pkt
  let b := boxOf (leField p.data 0 8)
  let x := chipX s.me
  let y := chipY s.me
  let z := chipZ s.me
  let corner := s.me == cornerOf b
  let copy := !corner && p.dst == s.me && s.inBox b
  let onX := copy && q.inPort == 1
  let onY := copy && q.inPort == 3
  let onZ := copy && q.inPort == 5
  if (corner || onX || onY || onZ) = false then forward s { q with pkt := { p with dst := cornerOf b } } true
  else
    let s1 := releasePkt (deliverPkt s p ecc) q
    let s2 := if (corner || onX) && x != b.x1 then castCopy s1 0 p else s1
    let s3 := if (corner || onX || onY) && y != b.y1 then castCopy s2 2 p else s2
    if z ≠ b.z1 then castCopy s3 4 p else s3

/-- FRZ_POD_GO (R386): the freeze sent to the box as a VC0 multicast packet; this chip takes it as well if it lies there. -/
def freezePod (s : State) : Written :=
  let v := s.rd R.FRZ_POD_AT 0
  if freezeNs s v < s.now + 1000000 then deny s
  else
    let box := s.rd R.FRZ_POD_BOX 0
    let p := { ownPacket s 0 5 (cornerOf (boxOf box)) with offset := 0x500204000400 }
    done (castRoute s { pkt := vc0Seal s p (leBytes 8 box ++ leBytes 8 v) } [])

/-- FRZ_POD_GO (R386). -/
def execFrzPodGo (who : Who) (s : State) : Host.Outcome State Fault Refusal :=
  .next (s.guard who R.FRZ_POD_GO 0 1 freezePod)

/-! ### Routing (R163) -/

/-- Whether a packet is too old to travel on (R158). -/
def tooOld (s : State) (p : Packet) : Bool :=
  p.vc != 1 && decide (s.rd R.FAB_PKT_LIFE_MS 0 < (s.nowMs + (65536 - p.birth % 65536)) % 65536)

/-- An arriving packet routed, delivered here or dropped (R163). A packet for this chip leaves its input buffer at
once. -/
def route (s : State) (inPort : Nat) (p : Packet) (a : Arrival) : State :=
  let q : QPacket := { pkt := p, inPort := inPort, cls := classOf p }
  if wellFormed p a.tags = false then dropPkt (releasePkt s q) (inUnit inPort) 5 p
  else if tooOld s p then dropPkt (releasePkt s q) (inUnit inPort) 1 p
  else if p.loc then localTake (releasePkt s q) inPort p
  else if s.verState p.epoch = 0 then dropPkt (releasePkt s q) (inUnit inPort) 3 p
  else if p.kind = 5 then castRoute s q a.ecc
  else if p.dst = s.me then eject (releasePkt s q) p a.ecc
  else forward s q true

/-- PACKET_ROUTE (R163). -/
def execPacketRoute (port : Nat) (p : Packet) (a : Arrival) (s : State) : Host.Outcome State Fault Refusal :=
  .next (route s port p a)

/-! ### Injection by a unit (R151, R159, R162, R166) -/

/-- Flits that an ejection buffer holds for each of VC2 and VC3 (log 33). -/
def ejectRoom : Nat := 2048

/-- The flits of the reply that a read request asks for. -/
def replyFlits (p : Packet) : Nat := if p.kind = 1 then flitsOf (min maxData (leField p.data 0 4)) else 0

/-- The flits reserved for replies on a virtual channel (R159). -/
def reservedRoom (s : State) (vc : Nat) : Nat :=
  ((s.rst.outstanding.filter fun e => e.2.pkt.vc == vc).map fun e => replyFlits e.2.pkt).foldl (· + ·) 0

/-- Whether R151 lets a unit send a kind on a channel: none on VC0 but the FCC. -/
def vcAllows (vc kind : Nat) : Bool :=
  match vc with
  | 1 => [0, 4, 5].contains kind
  | 2 => [0, 1, 2].contains kind
  | 3 => [0, 1, 2].contains kind
  | 4 => [3, 5, 6, 8, 9].contains kind
  | _ => false

/-- A request to an address outside the domain map denied (R110, R162). -/
def injectDenied (s : State) (i : Inject) : State :=
  let s1 := s.record 0x5020 (targetUnit i.offset) [(2, uInject), (8, i.offset)]
  let s2 := if i.vc = 1 then doNotSeal s1 i.spart vPlanErr else s1
  match i.mover with
  | some m => moverFail s2 m 7 0 0
  | none => s2

/-- A packet injected (R166): stamped with the Active version, held by its shaper (VC2) and its window. One for an
address outside the domain map is denied (R162); a read waits for room for its reply (R159); what no unit sends on a channel is
not sent (R151). -/
def inject (s : State) (i : Inject) : State :=
  if vcAllows i.vc i.kind = false then s
  else
    match (if i.fabric then some i.target else s.chipOf s.injVer i.dtag i.target) with
    | none => injectDenied s i
    | some dst =>
      let tgen := if needsRid i then (s.knownGen dst (targetUnit i.offset)).getD 0 else i.tgen
      let p := packetOf s i dst tgen
      if i.kind = 5 then castRoute s { pkt := p } i.ecc
      else if dst = s.me then
        let s2 := deliverPkt (noteOut s i p) p i.ecc
        if i.vc = 2 ∧ i.kind = 0 then endRid s2 i.rid else s2
      else if i.kind = 1 ∧ ejectRoom < reservedRoom s i.vc + replyFlits p then
        s.modRouter fun r => { r with reads := r.reads ++ [i] }
      else if windowed p then
        handOver (noteOut s i p) { pkt := p, rel := if i.fabric then none else some i.target }
      else forward (noteOut s i p) { pkt := p } true

/-- PACKET_INJECT (R166). -/
def execPacketInject (p : Inject) (s : State) : Host.Outcome State Fault Refusal := .next (inject s p)

/-- Reads that waited for room for their replies sent, in order, as far as there is room. -/
def serveReads (s : State) : State :=
  let l := s.router.reads
  (s.modRouter fun r => { r with reads := [] }).each l inject

/-! ### Retransmission and contexts (R157, R158) -/

/-- A packet of a window given up (R157): its command completes with TIMEOUT. -/
def windowGiveUp (s : State) (peer vc : Nat) (e : Unacked) : State :=
  let k := ctxKey peer vc
  let s1 := modSrc s k fun c => { c with pending := c.pending.filter fun x => x.eseq != e.eseq }
  let s2 := (s1.bumpSat R.FAB_E2E_EXPIRED 0 1).record 0x6044 uFcc [(4, peer), (2, e.eseq), (1, vc)]
  windowFill 1025 (if vc = 2 ∨ e.pkt.kind = 1 then failRid s2 e.pkt.rid 1 0 else s2) k

/-- E2E_RETRANSMIT (R157): resent FAB_E2E_RTO_US after it was sent last, charged to its shaper again, with SYN until the first
acknowledgement; after FAB_E2E_RETRIES given up. -/
def execE2eRetransmit (peer vc eseq : Nat) (s : State) : Host.Outcome State Fault Refusal :=
  let k := ctxKey peer vc
  let c := mapGet {} s.router.src k
  match c.pending.find? fun e => e.eseq == eseq with
  | none => .next s
  | some e =>
    if s.now < e.sentNs + (1000 * s.rd R.FAB_E2E_RTO_US 0 : Nat) then .next s
    else if s.rd R.FAB_E2E_RETRIES 0 ≤ e.tries then .next (serveReads (windowGiveUp s peer vc e))
    else
      let e1 : Unacked := { e with pkt := { e.pkt with syn := !c.acked }, tries := e.tries + 1, sentNs := s.now }
      .next (sendAgain (modSrc s k fun c =>
        { c with pending := c.pending.map fun x => if x.eseq = eseq then e1 else x, lastNs := s.now }) e1.pkt)

/-- E2E_ACK_SEND (R157). -/
def execE2eAckSend (peer vc : Nat) (s : State) : Host.Outcome State Fault Refusal :=
  match mapFind s.router.rcv (ctxKey peer vc) with
  | none => .next s
  | some c =>
    if c.sinceAck = 0 then .next s
    else .next (sendAck (modRcv s (ctxKey peer vc) fun _ => { c with sinceAck := 0 }) peer vc c false)

/-- The packet that has waited longest for a source context takes the one that is free (R157). -/
def contextFreed (s : State) : State :=
  match s.router.noCtx with
  | [] => s
  | w :: rest => depart (s.modRouter fun r => { r with noCtx := rest }) w

/-- CONTEXT_EVICT (R158): an idle context is gone; a source after FAB_PKT_LIFE_MS, a receiver after twice that and
10 ms. -/
def execContextEvict (source : Bool) (peer vc : Nat) (s : State) : Host.Outcome State Fault Refusal :=
  let k := ctxKey peer vc
  let life := 1000000 * s.rd R.FAB_PKT_LIFE_MS 0
  if source then
    match mapFind s.router.src k with
    | some c =>
      if c.pending = [] ∧ c.waiting = [] ∧ c.lastNs + (life : Nat) ≤ s.now then
        .next (contextFreed (ctxCount (s.modRouter fun r => { r with src := mapDel r.src k })))
      else .next s
    | none => .next s
  else
    match mapFind s.router.rcv k with
    | some c =>
      if c.lastNs + (2 * life + 10000000 : Nat) ≤ s.now then
        .next (ctxCount (s.modRouter fun r => { r with rcv := mapDel r.rcv k }))
      else .next s
    | none => .next s

/-! ### Version changes (R165 to R167) -/

/-- FAB_RT_STATE written with 0: a Retired version becomes Ready. -/
def rtState (s : State) (v : Nat) : Written := if s.verState v ≠ 0 then deny s else done (s.wr R.FAB_RT_STATE v 3)

/-- FAB_RT_STATE (R165). -/
def execFabRtState (who : Who) (inst value : Nat) (s : State) : Host.Outcome State Fault Refusal :=
  .next (s.guard who R.FAB_RT_STATE inst value fun s => rtState s inst)

/-- FAB_EPOCH_INJ written: a Ready version becomes Active and the old one drains. -/
def epochInj (s : State) (v : Nat) : Written :=
  if s.verState v ≠ 3 then deny s
  else
    let old := s.injVer
    let s1 := ((s.wr R.FAB_RT_STATE old 2).wr R.FAB_RT_STATE v 1).wr R.FAB_EPOCH_INJ 0 v
    let s2 := (s1.modRouter fun r => { r with drainNs := mapPut r.drainNs old s.now }).record 0x6041 uFcc
      [(1, old), (1, v)]
    done (s2.each (List.range 128) setTree)

/-- FAB_EPOCH_INJ (R165). -/
def execFabEpochInj (who : Who) (value : Nat) (s : State) : Host.Outcome State Fault Refusal :=
  .next (s.guard who R.FAB_EPOCH_INJ 0 value fun s => epochInj s value)

/-- The packets of a version that wait at a port taken from its queues, with the lowering of FAB_VC_HELD where the port is down; a
packet begun completes as it is (R173), `begun` takes it too. -/
def takeHeld (s : State) (port v : Nat) (begun : Bool) : State × List QPacket :=
  let o := s.port port
  let mine (q : QPacket) : Bool := q.pkt.epoch == v
  let cur := if begun then (o.cur.map fun e => e.2.q).filter mine else []
  let out := cur ++ (o.txq.map fun e => e.2.filter mine).flatten
  let s1 := s.modPort port fun o =>
    { o with
      cur := if begun then o.cur.filter fun e => !mine e.2.q else o.cur,
      txq := o.txq.map fun e => (e.1, e.2.filter fun q => !mine q) }
  (s1.each out fun t q =>
    let k := port * 8 + classOf q.pkt
    t.wr R.FAB_VC_HELD k (t.rd R.FAB_VC_HELD k - 1), out)

/-- A packet of a version that is retired, held at a port: re-stamped with the Active version and routed by it; a copy on a branch
keeps its branch (R167, R169). -/
def restamp (s : State) (port : Nat) (q : QPacket) : State :=
  let q1 := { q with pkt := { q.pkt with epoch := s.injVer } }
  if q.branch then putOn s port q1 else forward s q1 false

/-- A Draining version retired: what the router still holds of it is re-stamped. -/
def retireVersion (s : State) (v : Nat) : State :=
  let s1 := s.wr R.FAB_RT_STATE v 0
  let x := (List.range 6).foldl
    (fun a p =>
      let t := takeHeld a.1 p v false
      (t.1, a.2 ++ t.2.map fun q => (p, q)))
    (s1, ([] : List (Nat × QPacket)))
  (x.1.each x.2 fun t e => restamp t e.1 e.2).record 0x6042 uFcc [(1, v), (4, x.2.length)]

/-- VERSION_RETIRE (R167), FAB_EPOCH_DRAIN_MS after the flip. -/
def execVersionRetire (v : Nat) (s : State) : Host.Outcome State Fault Refusal :=
  if s.verState v = 2 ∧
      mapGet 0 s.router.drainNs v + (1000000 * s.rd R.FAB_EPOCH_DRAIN_MS 0 : Nat) ≤ s.now then
    .next (retireVersion s v)
  else .next s

/-- A table entry of a version may be written while the version is Retired. -/
def verWrite (s : State) (r : Reg) (v i x : Nat) : Written :=
  if s.verState v ≠ 0 then deny s else done (s.wr r i (x &&& r.mask))

/-- FAB_DMAP written: no second valid slot of a version with the same tag (R162). -/
def dmapWrite (s : State) (i x : Nat) : Written :=
  let v := i / 16
  let twin := (List.range 16).any fun k =>
    let o := s.rd R.FAB_DMAP (16 * v + k)
    16 * v + k != i && bitOf o 63 && bits o 47 16 == bits x 47 16
  if bitOf x 63 = true ∧ twin = true then deny s else verWrite s R.FAB_DMAP v i x

/-- FAB_DMAP (R162). -/
def execFabDmap (who : Who) (inst value : Nat) (s : State) : Host.Outcome State Fault Refusal :=
  .next (s.guard who R.FAB_DMAP inst value fun s => dmapWrite s inst value)

/-! ### Port holds and reservations (R153, R168) -/

/-- A packet whose hold at a port ends (R168): by a detour of its version to another port, where it may be held in turn; else
dropped, a copy on a branch too, for which no detour counts (R169). The numbers sent and dropped rise. -/
def holdOne (port : Nat) (a : State × Nat × Nat) (q : QPacket) : State × Nat × Nat :=
  let s := a.1
  let out := (detourOf s q.pkt.epoch q.pkt.dst port).filter fun n => n != port
  match q.branch, out with
  | false, some n =>
    let d := if q.pkt.vc = 1 then q.pkt.len + 1 else q.displaced
    (putOn s n { q with pkt := { q.pkt with detour := true }, displaced := d }, a.2.1 + 1, a.2.2)
  | b, _ => (dropPkt (releasePkt s q) (uPort port) (if b then 7 else 4) q.pkt, a.2.1, a.2.2 + 1)

/-- The hold of a down port ended (R168); of a packet partly sent the whole goes by the detour (log 34). -/
def holdEnd (s : State) (port : Nat) : State :=
  let x := (List.range 2).foldl
    (fun a v => let t := takeHeld a.1 port v true; (t.1, a.2 ++ t.2)) (s, ([] : List QPacket))
  let s1 := (x.1.each (List.range 7) fun t v => t.wr R.FAB_VC_HELD (port * 8 + v) 0).modPort port fun o =>
    { o with holdDone := true }
  let y := x.2.foldl (holdOne port) (s1, 0, 0)
  y.1.record 0x6043 (uPort port) [(1, port), (4, x.2.length), (4, y.2.1), (4, y.2.2)]

/-- PORT_HOLD_EXPIRY (R168). -/
def execPortHoldExpiry (port : Nat) (s : State) : Host.Outcome State Fault Refusal :=
  match (s.port port).downNs with
  | none => .next s
  | some t =>
    if s.portUp port = false ∧ (s.port port).holdDone = false ∧
        t + (1000000 * s.rd R.FAB_PORT_HOLD_MS 0 : Nat) ≤ s.now then
      .next (holdEnd s port)
    else .next s

/-- FAB_VC1_RES written (R153): the partition is Empty and the port's sum stays within 960. -/
def vc1Res (s : State) (i v : Nat) : Written :=
  let port := i / 128
  let p := i % 128
  let sum := ((List.range 128).map fun q => if q = p then v else s.rd R.FAB_VC1_RES (port * 128 + q)).foldl (· + ·) 0
  if s.pstate p ≠ psEmpty ∨ 960 < sum then deny s else done (s.wr R.FAB_VC1_RES i v)

/-- FAB_VC1_RES (R153). -/
def execFabVc1Res (who : Who) (inst value : Nat) (s : State) : Host.Outcome State Fault Refusal :=
  .next (s.guard who R.FAB_VC1_RES inst value fun s => vc1Res s inst value)

end Sys2Proof.Machine
end

