-- ==== Sys2Proof/Machine/HostQueue.lean ====
section
/-! DEFINITION. Functions, queues, doorbells, fetch, completions and interrupts (R178 to R184, R188, R191). -/

namespace Sys2Proof.Machine

open Sys2Proof

/-! ### Functions and their queues (R179, R180) -/

/-- Whether a function is there: the physical one, or a virtual one that SR-IOV has enabled. -/
def State.present (s : State) (f : Nat) : Bool := decide (f ≤ s.rd R.HOST_NUM_VF 0) && decide (f < 1024)

/-- The first global queue and the queue count of a function. -/
def State.qbase (s : State) (f : Nat) : Nat := s.rd R.HOST_FN_QBASE f
def State.qcount (s : State) (f : Nat) : Nat := s.rd R.HOST_FN_QCOUNT f

/-- The global queue of a local one, while the endpoint decodes it. -/
def State.localQ (s : State) (f q : Nat) : Option Nat :=
  if s.present f = true ∧ q < s.qcount f ∧ s.unitUp uEndpoint = true then some (s.qbase f + q) else none

/-- The function that owns a global queue (R180). -/
def State.funcOf (s : State) (g : Nat) : Option Nat :=
  (List.range (s.rd R.HOST_NUM_VF 0 + 1)).find? fun f =>
    decide (s.qbase f ≤ g) && decide (g < s.qbase f + s.qcount f)

/-- A queue's context, and the context changed. -/
def State.queue (s : State) (g : Nat) : QCtx := mapGet {} s.host.queues g
def modQueue (s : State) (g : Nat) (f : QCtx → QCtx) : State :=
  s.modHost fun h => { h with queues := mapPut h.queues g (f (s.queue g)) }

/-- The function's name for a queue. -/
def State.qName (s : State) (f g : Nat) : Nat := g - s.qbase f

/-- Vectors of a function's MSI-X table (R176). -/
def vectorsOf (f : Nat) : Nat := if f = 0 then 2048 else 64

/-- The word of an MSI-X table entry: message address, message data and vector control, whose bit 0 masks the vector. An entry
not written since reset is masked, as PCI Express has it (log 44). -/
def State.msixWord (s : State) (f v : Nat) : Nat := mapGet (2 ^ 96) s.host.msixTable (f * 2048 + v)

/-- Whether a vector sends no message now: it is masked, or its function is in D3hot. -/
def State.masked (s : State) (f v : Nat) : Bool := bitOf (s.msixWord f v) 96 || s.host.d3hot.contains f

/-- A vector signalled, or pending where it is masked (R191). -/
def msix (s : State) (f v : Nat) : State :=
  if s.masked f v then s.modHost fun h => { h with pba := addNew h.pba (f, v) } else s.emit (.msix f v)

/-- The vectors of a function that were pending and are no longer masked signalled (R191). -/
def msixSweep (s : State) (f : Nat) : State :=
  let out := s.host.pba.filter fun e => e.1 == f && !s.masked e.1 e.2
  (s.modHost fun h => { h with pba := h.pba.filter fun e => !out.contains e }).emitAll (out.map fun e => .msix e.1 e.2)

/-! ### Doorbells (R182) -/

/-- A doorbell or context write that is refused, counted. -/
def dbDrop (s : State) (f : Nat) : State := s.bumpSat R.HOST_FN_DB_DROP f 1

/-- A refused doorbell: DB_ERR, the count and event 0x7011. -/
def dbRefuse (s : State) (f g err : Nat) : State :=
  (dbDrop (modQueue s g fun q => { q with dbErr := err }) f).record 0x7011 (uFunc f) [(2, s.qName f g), (1, err)]

/-- Entries of the submission and completion rings. -/
def QCtx.sqSize (q : QCtx) : Nat := 2 ^ q.sqLog2
def QCtx.cqSize (q : QCtx) : Nat := 2 ^ q.cqLog2

/-- Completion entries written and not yet freed. -/
def QCtx.cqUsed (q : QCtx) : Nat := (q.cqTail + (q.cqSize - q.cqHead)) % q.cqSize

/-- A write of SQ_TAIL_DB. -/
def sqTail (s : State) (f q value : Nat) : State :=
  match s.localQ f q with
  | none => s
  | some g =>
    if (s.queue g).state ≠ .enabled then dbRefuse s f g 1
    else if (s.queue g).sqSize ≤ value % 65536 then dbRefuse s f g 2
    else modQueue s g fun q => { q with sqTail := value % 65536 }

/-- SQ_TAIL_DB (R182). -/
def execSqTailDb (func queue value : Nat) (s : State) : Host.Outcome State Fault Refusal := .next (sqTail s func queue value)

/-- A write of CQ_HEAD_DB. -/
def cqHead (s : State) (f q value : Nat) : State :=
  match s.localQ f q with
  | none => s
  | some g =>
    let c := s.queue g
    let v := value % 65536
    if c.state ≠ .enabled then dbRefuse s f g 1
    else if c.cqSize ≤ v ∨ c.cqUsed < (v + (c.cqSize - c.cqHead)) % c.cqSize then dbRefuse s f g 3
    else modQueue s g fun q => { q with cqHead := v }

/-- CQ_HEAD_DB (R182). -/
def execCqHeadDb (func queue value : Nat) (s : State) : Host.Outcome State Fault Refusal := .next (cqHead s func queue value)

/-- Whether a context may be enabled (R182). -/
def ctxValid (f : Nat) (q : QCtx) : Bool :=
  q.sqBase % 4096 == 0 && q.cqBase % 4096 == 0 && decide (4 ≤ q.sqLog2) && decide (q.sqLog2 ≤ 16) &&
    decide (4 ≤ q.cqLog2) && decide (q.cqLog2 ≤ 16) && decide (q.vector < vectorsOf f)

/-- A queue enabled; a refused enable signals vector 0 (R191). -/
def queueEnable (s : State) (f q : Nat) : State :=
  match s.localQ f q with
  | none => s
  | some g =>
    if (s.queue g).state ≠ .disabled then s
    else if ctxValid f (s.queue g) then
      modQueue s g fun q =>
        { q with sqHead := 0, sqTail := 0, cqHead := 0, cqTail := 0, phase := true, state := .enabled }
    else msix (dbRefuse s f g 4) f 0

/-- QUEUE_ENABLE (R182). -/
def execQueueEnable (func queue : Nat) (s : State) : Host.Outcome State Fault Refusal := .next (queueEnable s func queue)

/-! ### Queue contexts (R181) -/

/-- QSTATE as the context shows it. -/
def qstate (q : QCtx) : Nat :=
  match q.state with
  | .disabled => 0
  | .enabled => 1
  | .draining => 2
  | .zeroing => 3

/-- A context as its 512-bit word. -/
def ctxWord (f : Nat) (q : QCtx) : Nat :=
  packRec [(8, q.sqBase), (8, q.cqBase), (1, q.sqLog2), (1, q.cqLog2), (2, f), (2, q.vector), (1, qstate q), (1, q.weight),
    (2, q.sqHead), (2, q.sqTail), (2, q.cqHead), (2, q.cqTail), (2, q.coalCount), (2, q.coalUs), (4, q.inflight)]

/-- A context with its writable fields taken from a word. -/
def ctxOf (q : QCtx) (w : Nat) : QCtx :=
  { q with
    sqBase := bits w 0 64, cqBase := bits w 64 64, sqLog2 := bits w 128 8, cqLog2 := bits w 136 8,
    vector := bits w 160 16, weight := bits w 184 8, coalCount := bits w 256 16, coalUs := bits w 272 16 }

/-- `n` bits from `lo` of a global queue's context written for its owner (0xFFFF none): its read-only fields stay, and where it is
not Disabled the write is dropped and counted. -/
def ctxWrite (s : State) (f g lo n value : Nat) : State :=
  if (s.queue g).state ≠ .disabled then dbDrop s f
  else modQueue s g fun q => ctxOf q (setBits (ctxWord f q) lo n value)

/-- QUEUE_CONTEXT_WRITE (R181): bits `[hi:lo]` of a Disabled queue's context. -/
def execQueueContextWrite (func queue hi lo value : Nat) (s : State) : Host.Outcome State Fault Refusal :=
  .next (match s.localQ func queue with
  | none => s
  | some g => ctxWrite s func g lo (hi + 1 - lo) value)

/-! ### Completions (R188, R191, R192) -/

/-- A queue's completion interrupt: at once, or coalesced. -/
def signal (s : State) (f g : Nat) : State :=
  let q := s.queue g
  if q.coalCount = 0 then msix s f q.vector
  else if q.coalCount ≤ q.unsignalled + 1 then msix (modQueue s g fun q => { q with unsignalled := 0 }) f q.vector
  else
    modQueue s g fun q =>
      { q with unsignalled := q.unsignalled + 1, firstNs := if q.unsignalled = 0 then s.now else q.firstNs }

/-- COALESCE_TIMEOUT (R191): the completions that wait are signalled once COAL_US has passed since the first. -/
def execCoalesceTimeout (queue : Nat) (s : State) : Host.Outcome State Fault Refusal :=
  let q := s.queue queue
  match s.funcOf queue with
  | some f =>
    if q.unsignalled = 0 ∨ s.now < q.firstNs + (1000 * q.coalUs : Nat) then .next s
    else .next (msix (modQueue s queue fun q => { q with unsignalled := 0 }) f q.vector)
  | none => .next s

/-- A queue that is Disabled now: event 0x7010 by its mode, 1 normal or 2 forced, and vector 0. -/
def queueDone (s : State) (f g mode : Nat) : State :=
  let n := (s.queue g).disabledCmds
  let s1 := modQueue s g fun q => { q with state := .disabled, disabledCmds := 0 }
  msix (s1.record 0x7010 (uFunc f) [(2, s.qName f g), (1, mode), (4, n)]) f 0

/-- A Draining queue whose last command has completed is Disabled (R192). -/
def drained (s : State) (f g : Nat) : State :=
  if (s.queue g).state = .draining ∧ (s.queue g).inflight = 0 then queueDone s f g 1 else s

/-- A completion entry's 16 bytes. -/
def cqEntry (q : QCtx) (c : Cmd) (status reason result : Nat) : List Byte :=
  leBytes 2 c.cid ++ leBytes 2 q.sqHead ++ leBytes 1 status ++ leBytes 1 (b2n q.phase) ++ leBytes 2 reason ++
    leBytes 8 result

/-- The 4 KiB host pages of a command's data. -/
def hostPages (c : Cmd) : Nat × Nat := (c.hostAddr / 4096, (c.hostAddr + c.len + 4095) / 4096)

/-- Whether a command under way uses a translation of a function, of one page or (all ones) of any. -/
def usesPage (s : State) (f page : Nat) : Bool :=
  s.host.movers.any fun e =>
    e.2.func == f && e.2.started && e.2.outcome.isNone &&
      (page == 2 ^ 52 - 1 || (decide ((hostPages e.2.cmd).1 ≤ page) && decide (page < (hostPages e.2.cmd).2)))

/-- Invalidations completed that no request holds up any longer (R176). -/
def invsDone (s : State) : State :=
  let out := s.host.invs.filter fun i => !usesPage s i.1 i.2
  (s.modHost fun h => { h with invs := h.invs.filter fun i => usesPage s i.1 i.2 }).emitAll
    (out.map fun i => .atsDone i.1 i.2)

/-- A finished command's completion entry written, its interrupt and its queue's drain after it (R188, R191, R197). -/
def complete (s : State) (m : Nat) : State :=
  match mapFind s.host.movers m with
  | none => s
  | some x =>
    match x.outcome with
    | none => s
    | some (status, reason, result) =>
      let g := x.queue
      let q := s.queue g
      let c := x.cmd
      let s1 :=
        if reason / 256 = 7 then
          s.recordL 0x7012 (uFunc x.func) [(2, s.qName x.func g), (2, c.cid), (1, status), (2, reason)]
            (some (c.layer, c.operator))
        else s
      let s2 := s1.modHost fun h =>
        { h with
          mem := memWrite h.mem (q.cqBase + 16 * q.cqTail) (cqEntry q c status reason result),
          movers := mapDel h.movers m }
      let tail := (q.cqTail + 1) % q.cqSize
      let s3 := modQueue s2 g fun q =>
        { q with
          cqTail := tail, phase := if tail = 0 then !q.phase else q.phase, inflight := q.inflight - 1,
          disabledCmds := q.disabledCmds + b2n (status == 4) }
      let s4 := s3.bumpSat R.HOST_FN_CMDS x.func 1
      let s5 := if bitOf c.flags 0 then signal s4 x.func g else s4
      invsDone (drained s5 x.func g)

/-- HOST_MOVER_COMPLETE (R188). -/
def execHostMoverComplete (mover : Nat) (s : State) : Host.Outcome State Fault Refusal := .next (complete s mover)

/-! ### Fetch (R183, R184) -/

/-- A submission entry. -/
def cmdOf (bs : List Byte) : Cmd :=
  { opcode := leField bs 0 1, flags := leField bs 1 1, cid := leField bs 2 2, part := leField bs 4 1,
    layer := leField bs 6 2, operator := leField bs 8 3, timeoutUs := leField bs 12 4, hostAddr := leField bs 16 8,
    devAddr := leField bs 24 8, len := leField bs 32 8, arg0 := leField bs 40 8, arg1 := leField bs 48 8,
    resv := leField bs 1 1 / 4 != 0 || leField bs 5 1 != 0 || leField bs 11 1 != 0 || leField bs 56 8 != 0 }

/-- Whether an entry is refused for a reserved opcode, field or value (R185). -/
def cmdBad (c : Cmd) : Bool :=
  c.resv || decide (128 ≤ c.part) || ([0, 1, 2, 3, 0x10, 0x11, 0x12, 0x13, 0x20, 0x21].contains c.opcode) == false ||
    (c.opcode == 0x10 && decide (2 ≤ c.arg0))

/-- Completion slots that a queue can still reserve: one entry of the ring stays free, so that a head equal to the
tail means none is used. -/
def QCtx.cqFree (q : QCtx) : Nat := q.cqSize - 1 - q.cqUsed - q.inflight

/-- Entries a queue has to fetch. -/
def QCtx.waiting (q : QCtx) : Nat := (q.sqTail + (q.sqSize - q.sqHead)) % q.sqSize

/-- Entries of a queue that one request fetches: up to 8 that follow one another in the ring. -/
def fetchNow (q : QCtx) (turn : Nat) : Nat :=
  if q.state = .enabled then min (min (min q.waiting q.cqFree) (min 8 turn)) (q.sqSize - q.sqHead) else 0

/-- A queue's turn in entries (R183); weights outside 1 to 16 count as the nearer end. -/
def QCtx.turn (q : QCtx) : Nat := min (max q.weight 1) 16

/-- The queues with something to fetch, of functions in D0: function, local queue and global queue. -/
def fetchable (s : State) : List (Nat × Nat × Nat) :=
  s.host.queues.filterMap fun e =>
    if fetchNow e.2 1 = 0 then none
    else ((s.funcOf e.1).filter fun f => !s.host.d3hot.contains f).map fun f => (f, s.qName f e.1, e.1)

/-- The least number of a list that is not below a bound, else the least. -/
def cyclicFrom (l : List Nat) (lo : Nat) : Option Nat :=
  match (sortNat l).find? fun x => decide (lo ≤ x) with
  | some x => some x
  | none => (sortNat l).head?

/-- `n` entries of a queue fetched. -/
def fetchN (n : Nat) (s : State) (f g : Nat) : State :=
  match n with
  | 0 => s
  | n + 1 =>
    let q := s.queue g
    let c := cmdOf (memRead s.host.mem (q.sqBase + 64 * q.sqHead) 64)
    let x : Mover :=
      { queue := g, func := f, cmd := c, outcome := if cmdBad c then some (9, 0x0701, 0) else none }
    let s1 := modQueue s g fun q => { q with sqHead := (q.sqHead + 1) % q.sqSize, inflight := q.inflight + 1 }
    fetchN n (s1.modHost fun h => { h with movers := mapPut h.movers h.order x, order := h.order + 1 }) f g

/-- SQ_FETCH (R183): one request, of the turn under way or the next one. -/
def execSqFetch (s : State) : Host.Outcome State Fault Refusal :=
  let l : List (Nat × Nat × Nat) := fetchable s
  let going : Option ((Nat × Nat × Nat) × Nat) :=
    match s.host.rrTurn with
    | some (g, n) => (l.find? fun x => x.2.2 == g && decide (n < (s.queue g).turn)).map fun x => (x, n)
    | none => none
  match going with
  | some (x, n) =>
    let k := fetchNow (s.queue x.2.2) ((s.queue x.2.2).turn - n)
    .next (fetchN k (s.modHost fun h => { h with rrTurn := some (x.2.2, n + k) }) x.1 x.2.2)
  | none =>
    match cyclicFrom (l.map (·.1)) s.host.rrFunc with
    | none => .next s
    | some f =>
      let qs := l.filter fun x => x.1 == f
      match cyclicFrom (qs.map (·.2.1)) (mapGet 0 s.host.rrQueue f) with
      | none => .next s
      | some q =>
        let g := s.qbase f + q
        let k := fetchNow (s.queue g) (s.queue g).turn
        .next (fetchN k (s.modHost fun h =>
          { h with rrFunc := f + 1, rrQueue := mapPut h.rrQueue f (q + 1), rrTurn := some (g, k) }) f g)

/-! ### Queue assignment (R180) -/

/-- Whether a function's queues may be assigned anew. -/
def assignOk (s : State) (f base count : Nat) : Bool :=
  decide (count ≤ if f = 0 then 4096 else 256) && decide (base + count ≤ 262144) &&
    ((List.range 1024).all fun k =>
      k == f || s.qcount k == 0 || count == 0 || decide (base + count ≤ s.qbase k) ||
        decide (s.qbase k + s.qcount k ≤ base)) &&
    s.host.queues.all fun e =>
      e.2.state == .disabled || !(decide (s.qbase f ≤ e.1) && decide (e.1 < s.qbase f + s.qcount f))

/-- A context that reads zero. -/
def zeroCtx : QCtx := { weight := 0 }

/-- HOST_Q_FREE brought up to date. -/
def qFree (s : State) : State :=
  s.wr R.HOST_Q_FREE 0 (262144 - ((List.range 1024).map s.qcount).foldl (· + ·) 0)

/-- A function's pairs assigned: contexts it did not have read zero. -/
def assign (s : State) (f base count : Nat) : Written :=
  if assignOk s f base count then
    let ob := s.qbase f
    let oc := s.qcount f
    let new := ((List.range count).map (base + ·)).filter fun g => !(decide (ob ≤ g) && decide (g < ob + oc))
    let s1 := (s.wr R.HOST_FN_QBASE f base).wr R.HOST_FN_QCOUNT f count
    done (qFree (s1.modHost fun h =>
      { h with queues := new.foldl (fun m g => mapPut m g zeroCtx) (h.queues.filter fun e =>
          !(decide (ob ≤ e.1) && decide (e.1 < ob + oc) && !(decide (base ≤ e.1) && decide (e.1 < base + count)))) }))
  else deny s

/-- HOST_FN_QBASE (R180). -/
def execHostFnQbase (who : Who) (func value : Nat) (s : State) : Host.Outcome State Fault Refusal :=
  .next (s.guard who R.HOST_FN_QBASE func value fun s => assign s func value (s.qcount func))

/-- HOST_FN_QCOUNT (R180). -/
def execHostFnQcount (who : Who) (func value : Nat) (s : State) : Host.Outcome State Fault Refusal :=
  .next (s.guard who R.HOST_FN_QCOUNT func value fun s => assign s func (s.qbase func) value)

/-! ### Translation (R176) -/

/-- ATS_INVALIDATION (R176): cached translations gone; it completes once nothing uses the old one. -/
def execAtsInvalidation (func page : Nat) (s : State) : Host.Outcome State Fault Refusal :=
  .next (invsDone (s.modHost fun h =>
    { h with
      atsCache := h.atsCache.filter fun e => !(e.1 == func && (page == 2 ^ 52 - 1 || e.2 == page)),
      invs := h.invs ++ [(func, page)] }))

/-- Whether every translation of a command's host pages is in the cache. -/
def allCached (s : State) (f : Nat) (c : Cmd) : Bool :=
  let p := hostPages c
  (List.range (p.2 - p.1)).all fun k => s.host.atsCache.contains (f, p.1 + k)

/-- A command's translations noted in the cache of 8,192. -/
def cachePages (s : State) (f : Nat) (c : Cmd) : State :=
  let p := hostPages c
  let new := ((List.range (min (p.2 - p.1) 8192)).map fun k => (f, p.1 + k)).filter fun e => !s.host.atsCache.contains e
  s.modHost fun h => { h with atsCache := (h.atsCache ++ new).drop (h.atsCache.length + new.length - 8192) }

/-! ### The PCIe link and virtual functions (R176, R179, R197) -/

/-- PCIE_LINK_UP_OR_DOWN (R197): speed 0 when down. -/
def execPcieLinkUpOrDown (speed width : Nat) (flit : Bool) (s : State) : Host.Outcome State Fault Refusal :=
  if s.unitUp uEndpoint = true ∧ s.host.perst = false then
    .next ((((s.wr R.HOST_LINK_SPEED 0 speed).wr R.HOST_LINK_WIDTH 0 width).wr R.HOST_LINK_FLIT 0 (b2n flit)).record
      0x7001 (uFunc 0) [(1, speed), (1, width), (1, b2n flit)])
  else .next s

/-- VF_ENABLE_SET (R179): the virtual functions are Active. -/
def execVfEnableSet (numVfs : Nat) (s : State) : Host.Outcome State Fault Refusal :=
  if s.unitUp uEndpoint then
    let n := min numVfs 1023
    .next ((s.wr R.HOST_NUM_VF 0 n).each ((List.range n).map (· + 1)) fun t f => t.wr R.HOST_FN_STATE f 1)
  else .next s

/-- AER_UNCORRECTABLE_ERROR (R197). -/
def execAerUncorrectableError (func status : Nat) (s : State) : Host.Outcome State Fault Refusal :=
  .next ((s.emit (.aerReport func status)).record 0x7020 (uFunc func) [(4, status)])

end Sys2Proof.Machine
end

