-- ==== Sys2Proof/Machine/Ring.lean ====
section
/-! DEFINITION. Trace rings (R387 to R390). -/

namespace Sys2Proof.Machine

open Sys2Proof

/-- The 16 bytes of a trace record (R387). -/
def traceBytes (r : TraceRec) : List Byte :=
  leBytes 16 (r.time % 2 ^ 47 + b2n r.isEnd * 2 ^ 47 + r.unit % 2 ^ 16 * 2 ^ 48 + r.layer % 2 ^ 16 * 2 ^ 64 +
    r.operator % 2 ^ 24 * 2 ^ 80 + r.seq % 2 ^ 24 * 2 ^ 104)

/-- The whole time of a record in nanoseconds: the latest instant up to now with its low 47 bits. -/
def traceFull (s : State) (r : TraceRec) : Nat :=
  let now := s.time.sec * 1000000000 + s.time.ns
  now - (now + (2 ^ 47 - r.time % 2 ^ 47)) % 2 ^ 47

/-- A record written to a partition's ring: in memory, without journal or delta (R390). -/
def ringPut (s : State) (p : Nat) (r : TraceRec) : State :=
  let n := s.rd R.TRC_RING_PAGES p
  if n = 0 then traceDrop s p
  else
    let h := s.rd R.TRC_HEAD p
    match s.viewAddr p (s.rd R.TRC_RING_PAGE p * pageBytes + h % (n * 4096) * 16) with
    | none => traceDrop s p
    | some a =>
      let t := traceFull s r
      let s1 := (s.store a (traceBytes r) false).wr R.TRC_HEAD p (h + 1)
      s1.wr R.TRC_NEWEST p (timeU64 (t / 1000000000) (t % 1000000000))

/-- A range marker (R388), where bit 6 of the partition's mask is set. -/
def ringMark (s : State) (p : Nat) (r : TraceRec) : State :=
  if bitOf (s.rd R.TRC_MASK p) 6 then ringPut s p r else s

end Sys2Proof.Machine
end

