-- ==== Sys2Proof/Machine/HostData.lean ====
section
/-! DEFINITION. Host commands that move data, markers, timers and the window (R178, R184 to R186, R190), replies to
their requests (R317 to R319) and what zeroing holds of them (R114). -/

namespace Sys2Proof.Machine

open Sys2Proof

/-! ### Starting a command (R185, R186) -/

/-- The commands of a mover's queue fetched before it, as far as they have not completed. -/
def earlierCmds (s : State) (m : Nat) : List Mover :=
  (s.host.movers.filter fun e => decide (e.1 < m) && e.2.queue == (s.mover m).queue).map (·.2)

/-- Whether a fetched command with an opcode may start: in queue order, an ordered one after every earlier one has
completed. -/
def mayBegin (s : State) (m op : Nat) : Bool :=
  match mapFind s.host.movers m with
  | none => false
  | some x =>
    x.cmd.opcode == op && !x.started && x.outcome.isNone && s.unitUp uEndpoint &&
      (earlierCmds s m).all (fun y => y.started || y.outcome.isSome) &&
      ((!bitOf x.cmd.flags 1 && op != 0x20) || (earlierCmds s m).isEmpty)

/-- The default timeout of a command in nanoseconds, none for PLAN_RUN (R190). -/
def dfltTimeout (c : Cmd) : Option Nat :=
  if c.opcode = 1 ∨ c.opcode = 2 ∨ c.opcode = 3 then some (100000 + c.len / 4)
  else if c.opcode = 0x10 then some (1000000000 + 200000000 * c.len / gib)
  else if c.opcode = 0x11 then none
  else some 100000

/-- A command started, its timer with it. -/
def begin_ (s : State) (m : Nat) : State :=
  modMover s m fun x =>
    let t := if x.cmd.timeoutUs = 0 then dfltTimeout x.cmd else some (1000 * x.cmd.timeoutUs)
    { x with started := true, deadline := t.map fun n => s.now + (n : Nat) }

/-- A command's effect once it may start. -/
def beginWith (s : State) (m op : Nat) (f : State → Cmd → Nat → State) : State :=
  if mayBegin s m op then f (begin_ s m) (s.mover m).cmd (s.mover m).func else s

/-- The same for a command on a partition that its function must own (R185). -/
def beginOwned (s : State) (m op : Nat) (f : State → Cmd → Nat → State) : State :=
  beginWith s m op fun t c fn => if t.owns fn c.part then f t c fn else moverDone t m 7 0x0702 0

/-- NOP (R185). -/
def execNop (mover : Nat) (s : State) : Host.Outcome State Fault Refusal :=
  .next (beginWith s mover 0 fun t _ _ => moverDone t mover 0 0 0)

/-- FENCE (R185): it starts once every earlier command of its queue has completed. -/
def execFence (mover : Nat) (s : State) : Host.Outcome State Fault Refusal :=
  .next (beginWith s mover 0x20 fun t _ _ => moverDone t mover 0 0 0)

/-- MARK (R185, R388). -/
def execMark (mover : Nat) (s : State) : Host.Outcome State Fault Refusal :=
  .next (beginOwned s mover 0x21 fun t c fn =>
    moverDone (ringMark t c.part
      { seq := c.cid, operator := c.operator, layer := c.layer, unit := uFunc fn, isEnd := bitOf c.arg0 0, time := t.traceTime })
      mover 0 0 0)

/-! ### Moving data piece by piece (R186) -/

/-- A command's source and destination addresses in the partition's view, none for host memory (or, of a load, the
staged image). -/
def srcOf (c : Cmd) : Option Nat :=
  if c.opcode = 2 ∨ c.opcode = 3 then some c.devAddr
  else if c.opcode = 0x10 ∧ bitOf c.arg0 0 = true then some c.arg1
  else none
def dstOf (c : Cmd) : Option Nat :=
  if c.opcode = 1 then some c.devAddr else if c.opcode = 3 then some c.arg0 else none

/-- Whether an address is on this chip, or in host memory. -/
def nearAddr (s : State) (c : Cmd) (a : Option Nat) : Bool := a.all fun x => s.isLocal c.part x

/-- The length of the piece a command moves next: all of it on this chip, else a packet's; of an image a page at most, each
held behind the watermark by itself (R118). -/
def pieceLen (s : State) (x : Mover) : Nat :=
  if x.cmd.opcode = 0x10 ∧ nearAddr s x.cmd (srcOf x.cmd) = true then min pageBytes (x.cmd.len - x.next)
  else if nearAddr s x.cmd (srcOf x.cmd) && nearAddr s x.cmd (dstOf x.cmd) then x.cmd.len - x.next
  else min 3584 (x.cmd.len - x.next)

/-- A command's request at this chip's memory. -/
def hostReq (x : Mover) (write : Bool) (a n : Nat) : MemReq :=
  { role := .observer, part := x.cmd.part, func := x.func, remote := false, tag := 0, raw := false, planned := false,
    unit := uFunc x.func, write := write, offset := gaOff a, len := n, data := [], poison := false, ecc := [] }

/-- A command's access denied (R110): event 0x5020, and ACCESS_DENIED. -/
def denyCmd (s : State) (m : Nat) (x : Mover) (a : Nat) : State :=
  let s1 := s.recordL 0x5020 (targetUnit (gaOff a)) [(2, uFunc x.func), (8, gaOff a)] (some (x.cmd.layer, x.cmd.operator))
  moverFail s1 m 7 0 0

/-- A request of a command to another chip injected under a new identifier (R318): on VC2, or VC3 for an image. -/
def sendCmd (s : State) (m : Nat) (x : Mover) (a kind : Nat) (data : List Byte) (bad : Bool) : State :=
  let p := x.cmd.part
  let rid := s.rst.nextRid
  inject (s.modRst fun r => { r with nextRid := (r.nextRid + 1) % 65536 })
    { fabric := false, target := gaChip a, offset := gaOff a, vc := if x.cmd.opcode = 0x10 then 3 else 2, kind := kind,
      dtag := s.tagOf p, spart := p, tgen := 0, func := x.func, rid := rid, sched := 0, poison := bad, loc := false,
      mover := some m, data := data, ecc := [] }

/-- The piece a command has read, with the first affected word noted. -/
def havePiece (s : State) (m : Nat) (l : List (List Byte × Bool)) : State :=
  modMover s m fun x =>
    { x with
      got := true, runs := l, bad := match x.bad with
        | some o => some o
        | none => (runFirst l).map (· + x.next) }

/-- Whether any of a request's ranges lies in a domain in reset (R317). -/
def downRange (s : State) (rs : List (Nat × Nat)) : Bool := rs.any fun c => s.inReset (targetUnit c.1)

/-- A command whose target is in reset (R186, R189). -/
def resetCmd (s : State) (m : Nat) : State := moverFail s m 2 0 0

/-- A command's next piece read: true once it is there. -/
def takePiece (s : State) (m : Nat) (x : Mover) (n : Nat) (ecc : List EccHit) : State × Bool :=
  match srcOf x.cmd with
  | none => (havePiece s m [(memRead s.host.mem (x.cmd.hostAddr + x.next) n, false)], true)
  | some base =>
    let a := base + x.next
    if s.isLocal x.cmd.part a = false then (sendCmd s m x a 1 (leBytes 4 n) false, false)
    else
      let r := hostReq x false a n
      match reqRange s r with
      | none => (denyCmd s m x a, false)
      | some rs =>
        if downRange s rs then (resetCmd s m, false)
        else match rs.findSome? fun c => holdOf s c.1 c.2 with
        | some (u, pos) => (holdReq s r rs u pos (some m), false)
        | none =>
          let y := readRuns s (uFunc x.func) rs ecc
          (havePiece y.1 m y.2, true)

/-- Runs written in order over chip ranges by a unit. -/
def writeRuns (s : State) (unit : Nat) (p off : Nat) (l : List (List Byte × Bool)) : State :=
  match l with
  | [] => s
  | r :: rest =>
    let s1 := match s.viewRange p off r.1.length with
      | some rs => writeRange s unit rs r.1 r.2
      | none => s
    writeRuns s1 unit p (off + r.1.length) rest

/-- Runs of an image written from an offset of it on, where it is staged (R64). -/
def stageRuns (s : State) (unit p off : Nat) (l : List (List Byte × Bool)) : State :=
  match l with
  | [] => s
  | r :: rest => stageRuns (writeRange s unit (s.stageRange p off r.1.length) r.1 r.2) unit p (off + r.1.length) rest

/-- A piece of an image staged in the partition's HBM, and kept as received for the checks (R64): true once it is there. -/
def stagePiece (s : State) (m : Nat) (x : Mover) (n : Nat) : State × Bool :=
  let p := x.cmd.part
  let rs := s.stageRange p x.next n
  if downRange s rs then (resetCmd s m, false)
  else
    match rs.findSome? fun c => holdOf s c.1 c.2 with
    | some (u, pos) => (holdReq s (hostReq x true x.next n) rs u pos (some m), false)
    | none =>
      ((stageRuns s (uFunc x.func) p x.next x.runs).modPart p fun q => { q with staged := q.staged ++ runBytes x.runs }, true)

/-- A piece done: the command goes on after it. -/
def nextPiece (s : State) (m n : Nat) : State :=
  modMover s m fun x => { x with next := x.next + n, got := false, runs := [] }

/-- A command's piece put where it belongs: true once it is there. -/
def putPiece (s : State) (m : Nat) (x : Mover) : State × Bool :=
  let n := (runBytes x.runs).length
  match dstOf x.cmd with
  | none =>
    if x.cmd.opcode = 2 then
      (nextPiece (s.modHost fun h => { h with mem := memWrite h.mem (x.cmd.hostAddr + x.next) (runBytes x.runs) }) m n, true)
    else
      let y := stagePiece s m x n
      if y.2 then (nextPiece y.1 m n, true) else y
  | some base =>
    let a := base + x.next
    if s.isLocal x.cmd.part a = false then (sendCmd s m x a 0 (runBytes x.runs) (runBad x.runs 0 n), false)
    else
      let r := hostReq x true a n
      match reqRange s r with
      | none => (denyCmd s m x a, false)
      | some rs =>
        if downRange s rs then (resetCmd s m, false)
        else match rs.findSome? fun c => holdOf s c.1 c.2 with
        | some (u, pos) => (holdReq s r rs u pos (some m), false)
        | none => (nextPiece (writeRuns s (uFunc x.func) x.cmd.part (gaOff a) x.runs) m n, true)

/-- Whether a command waits for a reply, an acknowledgement or a watermark. -/
def cmdWaits (s : State) (m : Nat) : Bool :=
  (s.rst.outstanding.any fun e => e.2.mover == some m) || s.msys.held.any fun h => h.mover == some m

/-- A command that has moved all its data: OK with the bytes moved, or UNCORRECTED with the first affected offset; a
load goes on with its checks. -/
def moved (s : State) (m : Nat) (x : Mover) : State :=
  if x.cmd.opcode = 0x10 then s
  else
    match x.bad with
    | some o => moverDone s m 8 0 o
    | none => moverDone s m 0 0 x.cmd.len

/-- A command's pieces moved until it waits or is done; the power cap may hold them (R313). -/
def runPieces (fuel : Nat) (s : State) (m : Nat) (ecc : List EccHit) : State :=
  match fuel with
  | 0 => s
  | n + 1 =>
    let x := s.mover m
    if x.started = false ∨ x.outcome.isSome = true ∨ cmdWaits s m = true ∨ s.power.holdUnplanned = true then s
    else if x.cmd.len ≤ x.next then moved s m x
    else
      let a := if x.got then (s, true) else takePiece s m x (pieceLen s x) ecc
      if a.2 then
        let b := putPiece a.1 m (a.1.mover m)
        if b.2 then runPieces n b.1 m [] else b.1
      else a.1

/-- A change made for a command, whose LAYER and OPERATOR every record of it carries (R184). -/
def asCmd (s : State) (c : Cmd) (f : State → State) : State :=
  (f (s.modHost fun h => { h with cause := some (c.layer, c.operator) })).modHost fun h => { h with cause := none }

/-- A command's pieces moved as far as they go. -/
def runCmd (s : State) (m : Nat) (ecc : List EccHit) : State :=
  asCmd s (s.mover m).cmd fun t => runPieces ((s.mover m).cmd.len / 3584 + 3) t m ecc

/-- Commands that move data, and have started and not finished. -/
def movingCmds (s : State) : List Nat :=
  (s.host.movers.filter fun e =>
    e.2.started && e.2.outcome.isNone && [1, 2, 3, 0x10].contains e.2.cmd.opcode).map (·.1)

/-- Every command that no longer waits goes on. -/
def resumeCmds (s : State) : State := s.each (movingCmds s) fun t m => runCmd t m []

/-! ### WRITE, READ, COPY (R185, R186) -/

/-- Data commands that hold a host mover. -/
def moversBusy (s : State) : Nat :=
  (s.host.movers.filter fun e =>
    e.2.started && e.2.outcome.isNone && [1, 2, 3].contains e.2.cmd.opcode).length

/-- Host addresses translated where the function has ATS enabled (R181): by the cache, or by what the translation requests
bring; a failed one is event 0x7014 and ACCESS_DENIED (R186). -/
def translate (s : State) (m : Nat) (c : Cmd) (fn : Nat) (ats : Ats) (f : State → State) : State :=
  match if s.host.atsOn.contains fn = false ∨ allCached s fn c = true then .off else ats with
  | .off => f s
  | .ok => f (cachePages s fn c)
  | .fail a =>
    moverFail (s.recordL 0x7014 (uFunc fn) [(8, a)] (some (c.layer, c.operator))) m 7 0x0704 0

/-- A data command: one of 16 host movers takes it, unless the power cap holds unplanned work (R313). -/
def dataCmd (s : State) (m op : Nat) (ats : Ats) (ecc : List EccHit) : State :=
  if 16 ≤ moversBusy s ∨ s.power.holdUnplanned = true then s
  else
    beginOwned s m op fun t c fn =>
      if c.len = 0 ∨ 2 ^ 40 < c.len then moverDone t m 9 0x0703 0
      else translate t m c fn ats fun u => runCmd u m ecc

/-- WRITE (R185). -/
def execWrite (mover : Nat) (ats : Ats) (s : State) : Host.Outcome State Fault Refusal := .next (dataCmd s mover 1 ats [])

/-- READ (R185). -/
def execRead (mover : Nat) (ats : Ats) (ecc : List EccHit) (s : State) : Host.Outcome State Fault Refusal :=
  .next (dataCmd s mover 2 ats ecc)

/-- COPY of a host queue (R185). -/
def execHostCopy (mover : Nat) (ecc : List EccHit) (s : State) : Host.Outcome State Fault Refusal :=
  .next (dataCmd s mover 3 .off ecc)

/-! ### Replies and acknowledgements (R157, R317 to R319) -/

/-- WINDOW_ACKNOWLEDGEMENT (R157, R158). -/
def execWindowAcknowledgement (peer vc cum : Nat) (bits : Word64) (resync : Bool) (incarn : Nat) (s : State) :
    Host.Outcome State Fault Refusal :=
  .next (resumeCmds (if resync then windowResync s peer vc incarn else windowAck s peer vc cum bits.toNat incarn))

/-- A reply's data taken by the command that asked for it. -/
def takeReply (s : State) (m : Nat) (data : List Byte) (bad : Bool) : State :=
  let x := s.mover m
  resumeCmds (havePiece s m [(sliceZ data 0 (pieceLen s x), bad)])

/-- REPLY_RECEIVE (R318): accepted where its identifier is outstanding with its generation, else late. -/
def execReplyReceive (requester rid chip unit gen : Nat) (data : List Byte) (poison : Bool) (s : State) :
    Host.Outcome State Fault Refusal :=
  if requester ≠ s.me then .next s
  else
    match mapFind s.rst.outstanding rid with
    | none => .next (dropLate s unit gen chip)
    | some o =>
      if o.tgen % 16 ≠ gen then .next (dropLate s unit gen chip)
      else
        let s1 := s.modRst fun r => { r with outstanding := mapDel r.outstanding rid }
        .next (serveReads (match o.mover with
          | some m => takeReply s1 m data poison
          | none => s1))

/-- STATUS_REPLY (R318): the generation noted; a request to an unknown domain that is running is sent again once, any
other ends its command with its status. One for an identifier that is not outstanding is late (R159). -/
def execStatusReply (requester rid chip unit gen : Nat) (st : StatusBits) (s : State) :
    Host.Outcome State Fault Refusal :=
  if requester ≠ s.me then .next s
  else
    match mapFind s.rst.outstanding rid with
    | none => .next (dropLate (noteGen s chip unit gen) unit gen chip)
    | some o =>
      if st.status ≠ 2 then .next (serveReads (failRid s rid st.status 0))
      else
      let known := (s.knownGen chip unit).isSome
      let s1 := noteGen s chip unit gen
      if known = false ∧ st.inReset = false ∧ o.resent = false then
        let p := { o.pkt with tgen := gen }
        let s2 := s1.modRst fun r =>
          { r with outstanding := mapPut r.outstanding rid { o with tgen := gen, resent := true, pkt := p } }
        .next (handOver s2 { pkt := p })
      else .next (serveReads (failRid s1 rid 2 0))

/-! ### What zeroing held (R113, R114) -/

/-- ZERO_WATERMARK_PASS (R114); zeroing stands still while the power cap holds unplanned work (R313). -/
def execZeroWatermarkPass (u : ZeroUnit) (mark : Nat) (s : State) : Host.Outcome State Fault Refusal :=
  match u with
  | .block b =>
    if s.rd R.MEM_ZERO_BLOCK b = 1 ∧ mark ≤ 65535 ∧ s.power.holdUnplanned = false then
      .next (resumeCmds (releaseBelow ((zeroBelow s u mark).wr R.MEM_ZERO_LINE b mark) u mark))
    else .next s
  | .slice k =>
    if s.rd R.MEM_ZERO_SLICE k = 2 ∧ mark ≤ 16777216 ∧ s.power.holdUnplanned = false then
      .next (resumeCmds (releaseBelow ((zeroBelow s u mark).wr R.MEM_ZERO_SECTOR k mark) u mark))
    else .next s

/-! ### Timers (R190) -/

/-- A fetched command given up: its requests retired, those that wait for room among them (R159, R190, R193). -/
def abandon (s : State) (m : Nat) : State :=
  serveReads (((retireMover s m).modRouter fun r => { r with reads := r.reads.filter fun i => i.mover != some m }).modMsys fun q =>
    { q with held := q.held.filter fun h => h.mover != some m })

/-- Whether a command's timer stands still: behind a watermark (R114), or before a run whose partition is being zeroed
(R115). -/
def timerHeld (s : State) (m : Nat) (x : Mover) : Bool :=
  (s.msys.held.any fun h => h.mover == some m) ||
    (x.cmd.opcode == 0x11 && s.pstate x.cmd.part == psLoaded && (s.part x.cmd.part).run == some m)

/-- HOST_CMD_TIMEOUT (R190): TIMEOUT, event 0x7013; a command that has completed, or whose timer stands still, does not
expire. -/
def execHostCmdTimeout (mover : Nat) (s : State) : Host.Outcome State Fault Refusal :=
  match mapFind s.host.movers mover with
  | none => .next s
  | some x =>
    match x.deadline with
    | none => .next s
    | some t =>
      if x.outcome.isSome = true ∨ s.now < t ∨ timerHeld s mover x = true then .next s
      else
        let s1 := s.recordL 0x7013 (uFunc x.func) [(2, s.qName x.func x.queue), (2, x.cmd.cid), (1, x.cmd.opcode)]
          (some (x.cmd.layer, x.cmd.operator))
        .next (moverFail (abandon s1 mover) mover 1 0 0)

end Sys2Proof.Machine
end

