-- ==== Sys2Proof/Machine/Mover.lean ====
section
/-! DEFINITION. The mover slots, deliveries and collectives (R81, R82, R85, R170 to R172). -/

namespace Sys2Proof.Machine

open Sys2Proof

/-- Mover NOP (R82). -/
def execMvNop (i : Issue) (channel : Nat) (_w : MovSlot) (s : State) : Host.Outcome State Fault Refusal :=
  .next (issueSlot s i (conMover channel) id)

/-! ### The router schedule section of a plan (R170) -/

/-- An entry of the router schedule. -/
structure Sched where
  kind  : Nat
  fmt   : Nat
  algo  : Nat
  dim   : Nat
  block : Nat
  desc  : Nat
  count : Nat
  memb  : Nat
  nmemb : Nat
  box   : Nat
  deriving DecidableEq, Repr

/-- The first entry and the entry count of a rank. -/
def schedDir (im : List Byte) (rank : Nat) : Nat × Nat :=
  (secLe im 4 (64 + 8 * rank) 4, secLe im 4 (68 + 8 * rank) 4)

/-- The ranks of the schedule. -/
def schedRanks (im : List Byte) : Nat := secLe im 4 0 4

/-- Entries of all ranks. -/
def schedTotal (im : List Byte) : Nat :=
  ((List.range (schedRanks im)).map fun r => (schedDir im r).1 + (schedDir im r).2).foldl max 0

/-- Where the entries begin, and where the member area does: after every entry of every rank. -/
def schedEntries (im : List Byte) : Nat := 64 + 8 * schedRanks im
def schedMembers (im : List Byte) : Nat := schedEntries im + 32 * schedTotal im

/-- Entry `k` of a rank. -/
def schedAt (im : List Byte) (rank k : Nat) : Sched :=
  let o := schedEntries im + 32 * ((schedDir im rank).1 + k)
  { kind := secLe im 4 o 1, fmt := secLe im 4 (o + 1) 1, algo := secLe im 4 (o + 2) 1, dim := secLe im 4 (o + 3) 1,
    block := secLe im 4 (o + 4) 2, desc := secLe im 4 (o + 6) 2, count := secLe im 4 (o + 8) 4,
    memb := secLe im 4 (o + 12) 4, nmemb := secLe im 4 (o + 16) 4, box := secLe im 4 (o + 20) 8 }

/-- The members of an entry, as domain-relative chip numbers. -/
def membersOf (im : List Byte) (e : Sched) : List Nat :=
  (List.range e.nmemb).map fun k => secLe im 4 (schedMembers im + e.memb + 4 * k) 4

/-- The departure entry of a plan block and descriptor (R170). -/
def departureOf (im : List Byte) (rank block desc : Nat) : Option Nat :=
  (List.range (if schedRanks im ≤ rank then 0 else (schedDir im rank).2)).find? fun k =>
    let e := schedAt im rank k
    e.kind == 1 && e.block == block && e.desc == desc

/-! ### COPY (R82) -/

/-- A planned source read in runs; a denied one gives zeros (R110). -/
def planRuns (s : State) (unit b a n : Nat) (ecc : List EccHit) : State × List (List Byte × Bool) :=
  match s.planRange b a n with
  | some rs => readRuns s unit rs ecc
  | none => (denyPlan s unit b a, [(List.replicate n 0, false)])

/-- Planned data put into packets of whole lines, at most 28 (R147), and injected on VC1; the last one names the arrival counter that
rises when it has been written, as its RID (R82, log 43). -/
def departPackets (fuel : Nat) (s : State) (i : Inject) (l : List (List Byte × Bool)) (o ctr : Nat) : State :=
  match fuel with
  | 0 => s
  | n + 1 =>
    let bs := ((runBytes l).drop o).take 3584
    if bs = [] then s
    else
      let last := (runBytes l).length ≤ o + bs.length
      let j := { i with
        offset := i.offset + o, poison := runBad l o bs.length, rid := if last then ctr + 1 else 0, data := bs }
      departPackets n (inject s j) i l (o + 3584) ctr

/-- An injection of a partition's planned data to a chip of its domain. -/
def planInject (s : State) (p target offset kind sched : Nat) : Inject :=
  { fabric := false, target := target, offset := offset, vc := 1, kind := kind, dtag := s.tagOf p, spart := p,
    tgen := (s.part p).runGen, func := s.rd R.CMP_PART_OWNER p, rid := 0, sched := sched, poison := false, loc := false,
    mover := none, ecc := [], data := [] }

/-- The block whose counter a local transfer reports to: the block of its last byte, or the issuing block for HBM
(R82). -/
def copyTo (s : State) (b dst n : Nat) : Nat :=
  match s.viewAddr (s.partOf b) (gaOff dst + n - 1) with
  | some a => if a < hbmBytes then b else (a - sramStart) / blockBytes
  | none => b

/-- COPY's effect: the source is read; a local transfer waits for its delivery, a departure leaves as planned VC1
packets bound to its schedule entry. -/
def copy (s : State) (i : Issue) (ch : Nat) (w : MovSlot) (ecc : List EccHit) : State :=
  let b := i.block
  let p := s.partOf b
  let r := readDesc s i (mDesc w)
  let d := r.2.1
  let n := if mLines w = 0 then d.len else 128 * mLines w
  let u := uMover b
  let s1 := traceRec r.1 b 4 u (mDesc w) i.seq false
  let y := planRuns s1 u b d.addrA n ecc
  let x := (y.1, y.2.map fun c => (c.1, r.2.2 || c.2))
  if s.isLocal p d.addrB then
    x.1.modBlock b fun k =>
      { k with
        movers := mapPut k.movers ch (mapGet [] k.movers ch ++
          [{ counter := mCtr w, toBlock := copyTo s b d.addrB n, dst := d.addrB, runs := x.2, desc := mDesc w,
             seq := i.seq }]) }
  else
    let e := (departureOf (s.img p) (s.rank p) (s.planBlock b) (s.descIndex b (mDesc w))).getD 0
    let s2 := departPackets (n / 3584 + 1) x.1 (planInject s p (gaChip d.addrB) (gaOff d.addrB) 0 e) x.2 0 (mCtr w)
    traceRec s2 b 4 u (mDesc w) i.seq true

/-- COPY (R82). -/
def execCopy (i : Issue) (channel : Nat) (w : MovSlot) (ecc : List EccHit) (s : State) :
    Host.Outcome State Fault Refusal :=
  .next (issueSlot s i (conMover channel) fun s => copy s i channel w ecc)

/-- Runs written in order from a plan address. -/
def storeRuns (s : State) (unit b a : Nat) (l : List (List Byte × Bool)) : State :=
  match l with
  | [] => s
  | r :: rest => storeRuns (planStore s unit b a r.1 r.2) unit b (a + r.1.length) rest

/-- Whether writes of a transfer still wait for journal copies (R244). -/
def transferHeld (s : State) (b : Nat) (t : Transfer) : Bool :=
  match s.planRange b t.dst (runBytes t.runs).length with
  | some rs => (s.part (s.partOf b)).held.any fun h => rs.any fun c => decide (c.1 ≤ h.addr) && decide (h.addr < c.1 + c.2)
  | none => false

/-- A channel's oldest transfer is over: its counter rises (R82), where its destination was not denied. -/
def transferEnd (s : State) (b ch : Nat) (t : Transfer) : State :=
  let s1 := s.modBlock b fun k => { k with movers := mapPut k.movers ch ((mapGet [] k.movers ch).drop 1) }
  let s2 := if (s.planRange b t.dst (runBytes t.runs).length).isSome then arrive s1 t.toBlock t.counter else s1
  traceRec s2 b 4 (uMover b) t.desc t.seq true

/-- The oldest transfer of a channel written and counted (R81, R82); the write to HBM is acknowledged when no part of it waits
for a journal copy any more. -/
def moverDelivery (s : State) (b ch : Nat) : State :=
  match mapGet [] (s.block b).movers ch with
  | [] => s
  | t :: rest =>
    if t.landing then s
    else
      let s1 := storeRuns s (uMover b) b t.dst t.runs
      if transferHeld s1 b t then
        s1.modBlock b fun k => { k with movers := mapPut k.movers ch ({ t with landing := true } :: rest) }
      else transferEnd s1 b ch t

/-- A channel's transfer that waited for journal copies is over where none of them is left. -/
def transferLanded (s : State) (b ch : Nat) : State :=
  match mapGet [] (s.block b).movers ch with
  | [] => s
  | t :: _ => if t.landing = true ∧ transferHeld s b t = false then transferEnd s b ch t else s

/-- The transfers of a partition that waited for journal copies acknowledged as far as none is left. -/
def transfersLanded (s : State) (p : Nat) : State :=
  s.each (s.blocksOf p) fun t b => t.each [0, 1] fun u ch => transferLanded u b ch

/-- JOURNAL_COPY (R244): what waited for the copy lands, and transfers to HBM with it. -/
def execJournalCopy (part page : Nat) (s : State) : Host.Outcome State Fault Refusal :=
  .next (transfersLanded (jnlCopyDone s part page) part)

/-! ### Collectives (R171, R172) -/

/-- The first element of chunk `j` of `n`. -/
def chunkAt (count n j : Nat) : Nat := j * count / n

/-- Bytes of an element. -/
def elemBytes (fmt : Nat) : Nat := fmtBits fmt / 8

/-- The collective units' add of one element, the earlier operand on the left (R172). -/
def collAdd1 (fmt a b : Nat) : Nat :=
  match fmtFloat fmt with
  | some f => (toFloat f .near true (fvAdd (fmtVal fmt a) (fmtVal fmt b))).bits
  | none => (a + b) % 2 ^ fmtBits fmt

/-- The elements of bytes. -/
def elemsOf (fmt : Nat) (bs : List Byte) : List Nat :=
  (List.range (bs.length / elemBytes fmt)).map fun k => leField bs (k * elemBytes fmt) (elemBytes fmt)

/-- Two chunks added element by element. -/
def collAdd (fmt : Nat) (a b : List Byte) : List Byte :=
  (((elemsOf fmt a).zip (elemsOf fmt b)).map fun x => leBytes (elemBytes fmt) (collAdd1 fmt x.1 x.2)).flatten

/-- The partition's image, this chip's number there, an entry of its schedule and the entry's members. -/
def collEntry (s : State) (p entry : Nat) : Sched := schedAt (s.img p) (s.rank p) entry
def collMembers (s : State) (p entry : Nat) : List Nat := membersOf (s.img p) (collEntry s p entry)

/-- This chip's place among members. -/
def placeOf (s : State) (p : Nat) (ms : List Nat) : Nat := (ms.takeWhile fun m => m != s.rank p).length

/-- The collective of a partition's entry. -/
def State.coll (s : State) (p entry : Nat) : CollOp :=
  (s.router.colls.find? fun c => c.part == p && c.entry == entry).getD { part := p, entry := entry }

/-- A collective changed. -/
def modColl (s : State) (p entry : Nat) (f : CollOp → CollOp) : State :=
  s.modRouter fun r =>
    { r with colls := (r.colls.filter fun c => !(c.part == p && c.entry == entry)) ++ [f (s.coll p entry)] }

/-- The descriptor an entry names by its index in the block's table (R170). -/
def collDesc (s : State) (p : Nat) (e : Sched) : Desc :=
  let b := getAt 0 (s.blocksOf p) e.block
  descOf (s.read (sramBase b + 128 * descLine (s.img p) e.block + 32 * e.desc) 32)

/-- Where chunk `j` lies in a chip's own operand and how long it is: of all elements, or the whole operand of an all-gather's
chunk. -/
def ownPlace (e : Sched) (n j : Nat) : Nat × Nat :=
  let z := elemBytes e.fmt
  if e.kind = 4 then (0, n)
  else (z * chunkAt e.count e.nmemb j, z * (chunkAt e.count e.nmemb (j + 1) - chunkAt e.count e.nmemb j))

/-- Chunk `j` of a chip's own operand, and whether any of it is poisoned (R172). -/
def ownChunk (e : Sched) (c : CollOp) (j : Nat) : List Byte × Bool :=
  let x := ownPlace e (runBytes c.own).length j
  (((runBytes c.own).drop x.1).take x.2, runBad c.own x.1 x.2)

/-- A chunk sent to a member in planned packets of whole lines; OFFSET says which chunk it is, from 2^30 on each, and where in it the
data lies (log 35). -/
def collSend (s : State) (p entry target chunk : Nat) (data : List Byte) (bad : Bool) : State :=
  let i := planInject s p target 0 4 entry
  (List.range (data.length / 3584 + 1)).foldl
    (fun t k =>
      inject t { i with offset := 2 ^ 30 * chunk + 3584 * k, poison := bad, data := (data.drop (3584 * k)).take 3584 })
    s

/-- The chunks a member's result holds: its own in a reduce-scatter, every one otherwise. -/
def collNeeds (e : Sched) (me : Nat) : List Nat := if e.kind = 3 then [me] else List.range e.nmemb

/-- A chunk of the result kept, its poison recorded (event 0x6048 when the collective completes). -/
def collKeep (s : State) (p entry chunk : Nat) (data : List Byte) (bad : Bool) : State :=
  modColl s p entry fun c =>
    { c with
      results := mapPut c.results chunk data, poisoned := if bad then addNew c.poisoned chunk else c.poisoned }

/-- A chunk finished at this member: kept where the result holds it, and sent to the members that need it. -/
def collFinish (s : State) (p entry chunk : Nat) (data : List Byte) (bad : Bool) : State :=
  let e := collEntry s p entry
  let ms := collMembers s p entry
  let me := placeOf s p ms
  let s1 := if (collNeeds e me).contains chunk then collKeep s p entry chunk data bad else s
  let dests : List Nat :=
    if e.kind = 3 then if chunk = me then [] else [chunk]
    else (List.range e.nmemb).filter fun k => k != me
  s1.each dests fun t k => collSend t p entry (getAt 0 ms k) chunk data bad

/-- A partial sum of a ring at this member (R171): its own operand added on the right, then finished or passed on. -/
def ringStep (s : State) (p entry chunk : Nat) (acc : List Byte) (bad : Bool) : State :=
  let e := collEntry s p entry
  let ms := collMembers s p entry
  let me := placeOf s p ms
  let c := s.coll p entry
  let x := ownChunk e c chunk
  let sum := collAdd e.fmt acc x.1
  if chunk = me then collFinish s p entry chunk sum (bad || x.2)
  else collSend s p entry (getAt 0 ms ((me + 1) % e.nmemb)) chunk sum (bad || x.2)

/-- A tree's chunk at m(0), once every member's operand is there (R171). -/
def treeStep (s : State) (p entry chunk : Nat) : State :=
  let e := collEntry s p entry
  let c := s.coll p entry
  let ins := (List.range e.nmemb).map fun m =>
    if m = 0 then some (ownChunk e c chunk)
    else (c.arrived.find? fun a => a.chunk == chunk && a.member == m).map fun a => (a.data, a.poison)
  if ins.all Option.isSome then
    let l := ins.filterMap id
    let s1 := modColl s p entry fun c => { c with arrived := c.arrived.filter fun a => a.chunk != chunk }
    collFinish s1 p entry chunk (treeSum (collAdd e.fmt) [] (l.map (·.1))) (l.any (·.2))
  else s

/-- A chunk that arrives at a collective under way: a result, a ring's partial sum or a tree's operand. -/
def collTake (s : State) (p entry : Nat) (a : CollIn) : State :=
  let e := collEntry s p entry
  let me := placeOf s p (collMembers s p entry)
  if e.kind = 4 then collKeep s p entry a.chunk a.data a.poison
  else if e.algo = 1 then
    if me = 0 then
      treeStep (modColl s p entry fun c => { c with arrived := c.arrived ++ [a] }) p entry a.chunk
    else collKeep s p entry a.chunk a.data a.poison
  else if a.member = a.chunk then collKeep s p entry a.chunk a.data a.poison
  else ringStep s p entry a.chunk a.data a.poison

/-- What a member does of itself when it starts: its own chunks sent on. -/
def collBegin (s : State) (p entry : Nat) : State :=
  let e := collEntry s p entry
  let ms := collMembers s p entry
  let me := placeOf s p ms
  let c := s.coll p entry
  if e.kind = 4 then collFinish s p entry me (ownChunk e c me).1 (ownChunk e c me).2
  else if e.algo = 1 then
    if me = 0 then s.each (List.range e.nmemb) fun t j => treeStep t p entry j
    else
      s.each (List.range e.nmemb) fun t j => collSend t p entry (getAt 0 ms 0) j (ownChunk e c j).1 (ownChunk e c j).2
  else
    let j := (me + (e.nmemb - 1)) % e.nmemb
    collSend s p entry (getAt 0 ms ((me + 1) % e.nmemb)) j (ownChunk e c j).1 (ownChunk e c j).2

/-- A planned multicast (R169, R170): the source sent to every chip of the box, whole lines beside the box in each packet
(R147). -/
def collCast (s : State) (p entry : Nat) (e : Sched) (l : List (List Byte × Bool)) (dst : Nat) : State :=
  let i := planInject s p (s.rank p) (gaOff dst) 5 entry
  (List.range (ceilDiv (runBytes l).length 3584)).foldl
    (fun t k =>
      let bs := ((runBytes l).drop (3584 * k)).take 3584
      inject t { i with
        offset := i.offset + 3584 * k, poison := runBad l (3584 * k) bs.length, data := leBytes 8 e.box ++ bs })
    s

/-- COLL's effect: the chip's own operand is read, and the collective starts with what has arrived already. -/
def coll (s : State) (i : Issue) (w : MovSlot) (ecc : List EccHit) : State :=
  let b := i.block
  let p := s.partOf b
  let k := mDesc w
  let e := collEntry s p k
  let d := collDesc s p e
  let me := placeOf s p (collMembers s p k)
  let z := elemBytes e.fmt
  let n :=
    if e.kind = 5 then d.len
    else if e.kind = 4 then z * (chunkAt e.count e.nmemb (me + 1) - chunkAt e.count e.nmemb me)
    else z * e.count
  let s1 := traceRec s b 5 (uMover b) k i.seq false
  let x := planRuns s1 (uMover b) b d.addrA n ecc
  let old := s.coll p k
  let s2 := modColl x.1 p k fun _ =>
    { part := p, entry := k, started := true, block := b, counter := mCtr w, seq := i.seq, own := x.2 }
  if e.kind = 5 then collCast s2 p k e x.2 d.addrB
  else (collBegin s2 p k).each old.arrived fun t a => collTake t p k a

/-- COLL (R82, R171). -/
def execColl (i : Issue) (channel : Nat) (w : MovSlot) (ecc : List EccHit) (s : State) :
    Host.Outcome State Fault Refusal :=
  .next (issueSlot s i (conMover channel) fun s => coll s i w ecc)

/-- COLL_COMBINE (R171): a chunk arrives; it waits for this chip's COLL if that has not been issued. -/
def execCollCombine (part entry chunk member : Nat) (data : List Byte) (poison : Bool) (s : State) :
    Host.Outcome State Fault Refusal :=
  let a : CollIn := { chunk := chunk, member := member, data := data, poison := poison }
  .next (if (s.coll part entry).started then collTake s part entry a
  else modColl s part entry fun c => { c with arrived := c.arrived ++ [a] })

/-- Where a chunk of a result lies in it. -/
def resultAt (e : Sched) (chunk : Nat) : Nat := if e.kind = 3 then 0 else elemBytes e.fmt * chunkAt e.count e.nmemb chunk

/-- A member's result written, and its arrival counter raised (R172). -/
def collDelivery (s : State) (p entry : Nat) : State :=
  let c := s.coll p entry
  let e := collEntry s p entry
  let me := placeOf s p (collMembers s p entry)
  if c.started = false ∨ (e.kind ≠ 5 ∧ ((collNeeds e me).all fun j => mapHas c.results j) = false) then s
  else
    let d := collDesc s p e
    let s1 := c.results.foldl
      (fun t r => planStore t (uMover c.block) c.block (d.addrB + resultAt e r.1) r.2 (c.poisoned.contains r.1)) s
    let s2 := s1.each c.poisoned fun t j => t.record 0x6048 uFcc [(2, entry), (4, j)]
    let s3 := s2.modRouter fun r => { r with colls := r.colls.filter fun x => !(x.part == p && x.entry == entry) }
    traceRec (arrive s3 c.block c.counter) c.block 5 (uMover c.block) entry c.seq true

/-- ARRIVAL_DELIVERY (R82, R85): a mover's transfer, planned data from another chip, the acknowledgement of a write to another
chip's HBM, which carries no data, or a collective's result. -/
def execArrivalDelivery (d : Delivery) (s : State) : Host.Outcome State Fault Refusal :=
  match d with
  | .mover b ch => .next (moverDelivery s b ch)
  | .remote b counter offset data poison =>
    let p := s.partOf b
    if data = [] then .next (arrive s b counter)
    else
    match s.viewRange p offset data.length with
    | some rs => .next (arrive (planWriteAll s uInject rs data poison) b counter)
    | none => .next (denyPlan s uInject b offset)
  | .coll part entry => .next (collDelivery s part entry)

end Sys2Proof.Machine
end

