-- ==== Sys2Proof/Machine/PlanCheck.lean ====
section
/-! DEFINITION. The checks of a plan load (R62, R63, R65, R66, R170, R219, R391, R415), one function per order of
R65's table. Each answers the image offsets of the items that fail it. -/

namespace Sys2Proof.Machine

open Sys2Proof

/-- A list with one failing offset where a condition does not hold. -/
def need (ok : Bool) (o : Nat) : List Nat := if ok then [] else [o]

/-! ### Orders 3 to 8: header and footprint -/

/-- Order 3: MAGIC, VERSION, HDR_LEN (R59). -/
def ckMagic (im : List Byte) : List Nat :=
  need (imgLe im 0 4 == 0x4C504C59) 0 ++ need (imgLe im 4 2 == 1) 4 ++ need (imgLe im 6 2 == 256) 6

/-- Order 4: IMAGE_LEN. -/
def ckLen (im : List Byte) : List Nat :=
  need (imgLen im % 64 == 0 && decide (imgLen im ≤ 2 ^ 32) && imgLen im == im.length) 8

/-- Order 5: IMAGE_DIGEST (R60). -/
def ckDigest (im : List Byte) : List Nat := need (imageDigest im == imgDigest im) 0x18

/-- Whether a section lies inside the image at a multiple of 64. -/
def secInside (im : List Byte) (k : Nat) : Bool :=
  secOff im k % 64 == 0 && decide (secOff im k + secLen im k ≤ imgLen im)

/-- Order 6: the footprint's entry. -/
def ckFootEntry (im : List Byte) : List Nat := need (secInside im 0 && secLen im 0 == 64) 0x40

/-- The bin's highest CCLK in kHz (R2). -/
def binKhz : Nat := if Config.bin18 then 1800000 else 1500000

/-- Order 7: ranges of the header and the footprint (R59, R62). -/
def ckRanges (im : List Byte) : List Nat :=
  let f := secOff im 0
  need (decide (900000 ≤ imgCclk im) && decide (imgCclk im ≤ binKhz)) 0x28 ++
    need (decide (1 ≤ imgSegments im) && decide (imgSegments im ≤ 65536)) 0x2C ++
    need (decide (imgSlipReplays im ≤ 15)) 0x30 ++
    need (decide (1 ≤ fpBlocks im) && decide (fpBlocks im ≤ 128)) f ++
    need (fpSram im % 128 == 0) (f + 4) ++
    need (decide (1 ≤ fpChips im) && decide (fpChips im ≤ 131072)) (f + 0x3C)

/-- Chips of a partition's domain. -/
def domChips (s : State) (p : Nat) : Nat := (s.domOf p).ex * (s.domOf p).ey * (s.domOf p).ez

/-- Needs and amounts of a resource, one pair for each region or port (R62); a failed stack has 0 pages (R100). `keep` is the buddy area the buddy chip
gives the partition. -/
def resPairs (s : State) (p keep : Nat) (im : List Byte) (k : Nat) : List (Nat × Nat) :=
  match k with
  | 0 => [(fpBlocks im, (s.blocksOf p).length)]
  | 1 => [(fpSram im, 8388608)]
  | 2 => (List.range 8).map fun r => (fpHbm im r, if s.rd R.MEM_HBM_STATE r = 1 then 0 else 16384 * (s.slices p 1 r).length)
  | 3 => [(fpJournal im, 16384 * (s.slicesUp p 2).length)]
  | 4 => [(fpKeep im, keep)]
  | 5 => (List.range 6).map fun q => (fpVc1 im q, s.rd R.FAB_VC1_RES (128 * q + p))
  | _ => [(fpChips im, domChips s p)]

/-- Of several pairs the first with the largest need less amount, with its place (R63). -/
def worst (i : Nat) (best : Nat × Nat × Nat) (l : List (Nat × Nat)) : Nat × Nat × Nat :=
  match l with
  | [] => best
  | x :: r => worst (i + 1) (if best.2.1 + x.2 < x.1 + best.2.2 then (i, x.1, x.2) else best) r

/-- A resource's place, need and amount as the load reports it (R63). -/
def resWorst (s : State) (p keep : Nat) (im : List Byte) (k : Nat) : Nat × Nat × Nat :=
  match resPairs s p keep im k with
  | [] => (0, 0, 0)
  | x :: r => worst 1 (0, x.1, x.2) r

/-- CMP_LOAD_OVER and CMP_LOAD_AVAIL of a resource; resources 2 and 5 carry their place in bits [63:56]. -/
def resOver (s : State) (p keep : Nat) (im : List Byte) (k : Nat) : Nat × Nat :=
  let w := resWorst s p keep im k
  let tag := if k = 2 ∨ k = 5 then w.1 * 2 ^ 56 else 0
  (if w.2.2 < w.2.1 then tag + (w.2.1 - w.2.2) else 0, tag + w.2.2)

/-- The footprint offset of a resource's field at a place. -/
def resField (k place : Nat) : Nat :=
  match k with
  | 0 => 0
  | 1 => 4
  | 2 => 8 + 4 * place
  | 3 => 0x28
  | 4 => 0x2C
  | 5 => 0x30 + 2 * place
  | _ => 0x3C

/-- Order 8: the footprint against the partition (R63). -/
def ckFoot (s : State) (p keep : Nat) (im : List Byte) : List Nat :=
  ((List.range 7).map fun k =>
    need ((resOver s p keep im k).1 == 0) (secOff im 0 + resField k (resWorst s p keep im k).1)).flatten

/-! ### Order 9: sections -/

/-- Whether two sections share a byte. -/
def overlap (im : List Byte) (j k : Nat) : Bool :=
  decide (0 < secLen im j) && decide (0 < secLen im k) && decide (secOff im j < secOff im k + secLen im k) &&
    decide (secOff im k < secOff im j + secLen im j)

/-- The place of sections: inside, aligned, apart from the header and each other, the reserved ones empty (R59,
R61). -/
def ckPlaces (im : List Byte) : List Nat :=
  ((List.range 12).map fun k =>
    let at_ := 0x40 + 16 * k
    if 10 ≤ k then need (secOff im k == 0 && secLen im k == 0) at_
    else
      need (secInside im k && (secLen im k == 0 || decide (256 ≤ secOff im k)) &&
        !((List.range 10).any fun j => j != k && overlap im j k)) at_).flatten

/-- Plan blocks times segments. -/
def cellsOf (im : List Byte) : Nat := fpBlocks im * imgSegments im

/-- Every plan block and segment. -/
def planCells (im : List Byte) : List (Nat × Nat) :=
  ((List.range (fpBlocks im)).map fun b => (List.range (imgSegments im)).map fun g => (b, g)).flatten

/-- Stream directory entries: aligned streams inside section 2. -/
def ckDir (im : List Byte) : List Nat :=
  need (secLen im 1 == 16 * cellsOf im) 0x58 ++
    ((planCells im).map fun c =>
      let e := dirEntry im c.1 c.2
      need (e.1 % 64 == 0 && decide (e.1 + 64 * e.2.1 ≤ secLen im 2))
        (secOff im 1 + 16 * (c.1 * imgSegments im + c.2))).flatten

/-- Descriptor tables inside section 3 and below line 65,536 (R84). -/
def ckTables (im : List Byte) : List Nat :=
  ((List.range (fpBlocks im)).map fun b =>
    need (decide (descOff im b + 16 + 32 * descCount im b ≤ secLen im 3) &&
      decide (descLine im b + ceilDiv (32 * descCount im b) 128 ≤ 65536)) (secOff im 3 + descOff im b)).flatten

/-- The image offset of a router schedule entry, of all of them by number. -/
def schedOff (im : List Byte) (k : Nat) : Nat := secOff im 4 + schedEntries im + 32 * k

/-- A field of a router schedule entry. -/
def schedFld (im : List Byte) (k o n : Nat) : Nat := imgLe im (schedOff im k + o) n

/-- A schedule entry's members. -/
def schedList (im : List Byte) (k : Nat) : List Nat :=
  (List.range (schedFld im k 16 4)).map fun j => secLe im 4 (schedMembers im + schedFld im k 12 4 + 4 * j) 4

/-- Whether members are the chips of one line of a dimension, in the plus direction, all of it (R170). -/
def ringOk (d : DSlot) (dim : Nat) (ms : List Nat) : Bool :=
  let ext := if dim = 0 then d.ex else if dim = 1 then d.ey else d.ez
  let stride := if dim = 0 then 1 else if dim = 1 then d.ex else d.ex * d.ey
  let c (r : Nat) : Nat := r / stride % ext
  let m0 := ms.headD 0
  ms.length == ext && decide (m0 < d.ex * d.ey * d.ez) &&
    (List.range ext).all fun j => getAt 0 ms j == m0 - c m0 * stride + (c m0 + j) % ext * stride

/-- A collective entry's members inside the member area, and a ring's rule (R170). -/
def ckMembers (s : State) (p : Nat) (im : List Byte) (k : Nat) : List Nat :=
  let kind := schedFld im k 0 1
  if 2 ≤ kind ∧ kind ≤ 4 then
    let n := schedFld im k 16 4
    let inside := decide (schedFld im k 12 4 + 4 * n ≤ secLe im 4 8 4)
    need inside (schedOff im k + 12) ++ need (decide (2 ≤ n) && decide (n ≤ 131072)) (schedOff im k + 16) ++
      (if inside = true ∧ schedFld im k 2 1 = 0 ∧ schedFld im k 3 1 ≤ 2 then
        need (ringOk (s.domOf p) (schedFld im k 3 1) (schedList im k)) (schedOff im k + 12)
      else [])
  else []

/-- The router schedule's structure, from its 64-byte head on (R170). -/
def ckSched (s : State) (p : Nat) (im : List Byte) : List Nat :=
  let o := secOff im 4
  let ranks := schedRanks im
  let head := decide (64 + 8 * ranks ≤ secLen im 4) && ranks == fpChips im && decide (secLe im 4 4 4 ≤ 4096)
  if head = false then [o]
  else
    ((List.range ranks).map fun r => need (decide ((schedDir im r).2 ≤ secLe im 4 4 4)) (o + 64 + 8 * r)).flatten ++
      need (decide (schedMembers im + secLe im 4 8 4 ≤ secLen im 4)) (o + 64) ++
      ((List.range (schedTotal im)).map (ckMembers s p im)).flatten

/-- First entry and entry count of a plan block's check list, and the offset of an entry. -/
def chkDir (im : List Byte) (b : Nat) : Nat × Nat := (secLe im 7 (64 + 8 * b) 4, secLe im 7 (68 + 8 * b) 4)
def chkOff (im : List Byte) (b k : Nat) : Nat := secOff im 7 + 64 + 8 * fpBlocks im + 32 * ((chkDir im b).1 + k)

/-- The check list's structure, from its 64-byte head on (R219). -/
def ckChecks (im : List Byte) : List Nat :=
  if decide (64 + 8 * fpBlocks im ≤ secLen im 7) && secLe im 7 0 4 == fpBlocks im then
    ((List.range (fpBlocks im)).map fun b =>
      need (decide ((chkDir im b).2 ≤ 1024) && decide (chkOff im b (chkDir im b).2 ≤ secOff im 7 + secLen im 7))
        (secOff im 7 + 64 + 8 * b)).flatten
  else [secOff im 7]

/-- How many watch list entries an image has, and where one lies (R391). -/
def wchCount (im : List Byte) : Nat := secLe im 8 0 4
def wchOff (im : List Byte) (k : Nat) : Nat := secOff im 8 + 64 + 32 * k

/-- The watch list's length: its 64-byte head and its entries (R391). -/
def ckWatch (im : List Byte) : List Nat :=
  need (decide (64 ≤ secLen im 8) && decide (64 + 32 * wchCount im ≤ secLen im 8)) (secOff im 8)

/-- Stateful region entries: page count and flags (R61, R242). -/
def ckRegions (im : List Byte) : List Nat :=
  need (secLen im 9 % 16 == 0) 0xD8 ++
    ((List.range (secLen im 9 / 16)).map fun k =>
      let g := regionAt im k
      need (g.2.1 != 0) (secOff im 9 + 16 * k + 4) ++
        need (g.2.2 == 1 || g.2.2 == 3) (secOff im 9 + 16 * k + 8)).flatten

/-- Order 9: sections. Structures are read once every section lies in its place. -/
def ckSections (s : State) (p : Nat) (im : List Byte) : List Nat :=
  match ckPlaces im with
  | [] =>
    ckDir im ++ ckTables im ++ need (secLen im 5 == 16 * imgSegments im) 0x98 ++
      need (decide (secLen im 6 ≤ 8 * cellsOf im)) 0xA8 ++ ckSched s p im ++ ckChecks im ++ ckWatch im ++ ckRegions im
  | l => l

/-! ### Bundles -/

/-- A stored bundle: its image offset and its 512 bits. -/
abbrev Stored := Nat × Nat

/-- The stored bundles of a plan block and segment. -/
def streamOf (im : List Byte) (b g : Nat) : List Stored :=
  let e := dirEntry im b g
  (List.range e.2.1).map fun i => (secOff im 2 + e.1 + 64 * i, leVal (bundleAt im b g i))

/-- Every stored bundle. -/
def allStored (im : List Byte) : List Stored := ((planCells im).map fun c => streamOf im c.1 c.2).flatten

/-- The slots of a bundle (R75). -/
def bCell (n c : Nat) : CellSlot := BitVec.ofNat 40 (bits n (40 * c) 40)
def bVec (n v : Nat) : VecSlot := BitVec.ofNat 64 (bits n (160 + 64 * v) 64)
def bMov (n v : Nat) : MovSlot := BitVec.ofNat 48 (bits n (288 + 48 * v) 48)
def bCtl (n : Nat) : MovSlot := BitVec.ofNat 48 (bits n 384 48)

/-- The opcodes of cell, mover and control slots. -/
def cOp (w : CellSlot) : Nat := fld w 36 4
def mOp (w : MovSlot) : Nat := fld w 44 4
def kOp (w : MovSlot) : Nat := fld w 42 6

/-- A check of each slot of a bundle: the failing slots' offsets. -/
def perSlot (x : Stored) (fc : CellSlot → Bool) (fv : VecSlot → Bool) (fm : MovSlot → Bool) (fk : MovSlot → Bool) :
    List Nat :=
  ((List.range 4).map fun c => need (fc (bCell x.2 c)) (x.1 + 5 * c)).flatten ++
    ((List.range 2).map fun v => need (fv (bVec x.2 v)) (x.1 + 20 + 8 * v)).flatten ++
    ((List.range 2).map fun v => need (fm (bMov x.2 v)) (x.1 + 36 + 6 * v)).flatten ++
    need (fk (bCtl x.2)) (x.1 + 48)

/-! ### Order 10: reserved fields -/

/-- Whether the reserved bits of a cell slot are 0 (R79). -/
def cellResvOk (w : CellSlot) : Bool :=
  match cOp w with
  | 0 => fld w 0 36 == 0
  | 1 => fld w 0 16 == 0
  | 2 => fld w 0 36 == 0
  | 3 => fld w 9 3 == 0
  | 4 => fld w 8 5 == 0
  | 5 => fld w 0 6 == 0
  | 6 => fld w 24 12 == 0 && fld w 0 8 == 0
  | _ => true

/-- Whether a vector slot's are (R80): those of NOP. -/
def vecResvOk (w : VecSlot) : Bool := vOp w != 0 || fld w 0 56 == 0

/-- Whether a mover slot's are (R82). -/
def movResvOk (w : MovSlot) : Bool :=
  match mOp w with
  | 0 => fld w 0 44 == 0
  | 1 => fld w 0 10 == 0
  | 2 => fld w 0 26 == 0
  | _ => true

/-- Whether the control slot's are (R83). -/
def ctlResvOk (w : MovSlot) : Bool :=
  match kOp w with
  | 0 => fld w 0 42 == 0
  | 1 => fld w 0 26 == 0
  | 2 => fld w 0 26 == 0
  | 3 => fld w 0 14 == 0
  | 4 => fld w 0 28 == 0
  | 5 => fld w 0 3 == 0
  | 6 => fld w 0 26 == 0
  | _ => true

/-- Whether `n` bytes of an image are 0. -/
def zeroAt (im : List Byte) (o n : Nat) : Bool := imgLe im o n == 0

/-- A schedule entry's fields that its kind requires to be 0, and its reserved bytes (R170). -/
def ckSchedZero (im : List Byte) (k : Nat) : List Nat :=
  let o := schedOff im k
  let kind := schedFld im k 0 1
  let coll := decide (2 ≤ kind) && decide (kind ≤ 4)
  need (coll || schedFld im k 1 1 == 0) (o + 1) ++ need (coll || schedFld im k 2 1 == 0) (o + 2) ++
    need (if kind = 5 then decide (schedFld im k 20 8 < 2 ^ 34) else schedFld im k 20 8 == 0) (o + 20) ++
    need (zeroAt im (o + 28) 4) (o + 28)

/-- Check entries of every plan block: block and number. -/
def chkEntries (im : List Byte) : List (Nat × Nat) :=
  ((List.range (fpBlocks im)).map fun b => (List.range (chkDir im b).2).map fun k => (b, k)).flatten

/-- Order 10: reserved fields. -/
def ckReserved (im : List Byte) : List Nat :=
  need (zeroAt im 0x31 3) 0x31 ++ need (decide (imgFlags im < 4)) 0x34 ++ need (zeroAt im 0x38 8) 0x38 ++
    ((allStored im).map fun x =>
      perSlot x cellResvOk vecResvOk movResvOk ctlResvOk ++ need (bits x.2 432 32 == 0) (x.1 + 54) ++
        need (bits x.2 464 24 == 0) (x.1 + 58)).flatten ++
    ((List.range (fpBlocks im)).map fun b =>
      need (zeroAt im (secOff im 3 + descOff im b + 8) 8) (secOff im 3 + descOff im b + 8)).flatten ++
    need (zeroAt im (secOff im 4 + 12) 52) (secOff im 4 + 12) ++
    ((List.range (schedTotal im)).map (ckSchedZero im)).flatten ++
    need (zeroAt im (secOff im 7 + 8) 56) (secOff im 7 + 8) ++
    ((chkEntries im).map fun c =>
      let o := chkOff im c.1 c.2
      need (decide (imgLe im o 1 < 32)) o ++ need (zeroAt im (o + 28) 4) (o + 28)).flatten ++
    need (zeroAt im (secOff im 8 + 4) 60) (secOff im 8 + 4) ++
    ((List.range (wchCount im)).map fun k =>
      let o := wchOff im k
      let ops := imgLe im (o + 8) 1
      let w := imgLe im (o + 11) 1
      need (ops != 0 && decide (ops < 4)) (o + 8) ++ need (zeroAt im (o + 9) 1) (o + 9) ++
        need (decide (1 ≤ w) && decide (w ≤ 16)) (o + 11) ++ need (zeroAt im (o + 16) 16) (o + 16)).flatten ++
    ((List.range (secLen im 9 / 16)).map fun k =>
      need (zeroAt im (secOff im 9 + 16 * k + 12) 4) (secOff im 9 + 16 * k + 12)).flatten

/-! ### Order 11: reserved codes -/

/-- Whether an NCTL holds no reserved encoding (R45). -/
def nctlOk (n : Nat) : Bool := decide (n < 128) && bits n 4 2 != 3 && decide (nctlFmt n < 14)

/-- Cell slot codes. -/
def cellCodeOk (w : CellSlot) : Bool :=
  match cOp w with
  | 1 => decide (ldwFmt w < 14)
  | 4 => decide (mulFmt w < 14)
  | 5 => fld w 6 2 != 3
  | op => decide (op ≤ 6)

/-- The formats an arithmetic operation may write (R80), none where the opcode is no arithmetic one. -/
def arithFmts (op : Nat) : Option (List Nat) :=
  if op = 0x08 ∨ (0x14 ≤ op ∧ op ≤ 0x1A) ∨ (0x50 ≤ op ∧ op ≤ 0x54) then some [0, 1, 12, 13]
  else if (0x10 ≤ op ∧ op ≤ 0x13) ∨ (0x30 ≤ op ∧ op ≤ 0x3C) then some [12]
  else if 0x20 ≤ op ∧ op ≤ 0x27 then some [0, 1, 13]
  else none

/-- Vector slot codes. -/
def vecCodeOk (w : VecSlot) : Bool :=
  let op := vOp w
  if op = 0 then true
  else
    nctlOk (vNctl w) && decide (vSrc w < 14) && (op != 0x19 || decide (vImm w % 8 ≤ 5)) &&
      match arithFmts op with
      | some l => l.contains (nctlFmt (vNctl w)) && decide (bits (vNctl w) 4 2 ≤ 1)
      | none => decide (op ≤ 5) || op == 0x40 || op == 0x41

/-- Mover and control slot codes. -/
def movCodeOk (w : MovSlot) : Bool := decide (mOp w ≤ 2)
def ctlCodeOk (w : MovSlot) : Bool := decide (kOp w ≤ 6) && (kOp w != 4 || waitAmt w != 0)

/-- A schedule entry's codes (R170). -/
def ckSchedCodes (im : List Byte) (k : Nat) : List Nat :=
  let o := schedOff im k
  let kind := schedFld im k 0 1
  let coll := decide (2 ≤ kind) && decide (kind ≤ 4)
  need (decide (1 ≤ kind) && decide (kind ≤ 5)) o ++
    need (!coll || [10, 12, 13].contains (schedFld im k 1 1)) (o + 1) ++
    need (!coll || decide (schedFld im k 2 1 ≤ 1)) (o + 2) ++ need (decide (schedFld im k 3 1 ≤ 2)) (o + 3)

/-- Whether two F32 bounds are in order and no NaN. -/
def f32Ordered (lo hi : Nat) : Bool :=
  let a := f32 (BitVec.ofNat 32 lo)
  let b := f32 (BitVec.ofNat 32 hi)
  !fvNan a && !fvNan b && !fvLt b a

/-- A check entry's values (R219), its bounds integers where its MULs have integer pairings. -/
def ckCheckValues (im : List Byte) (o : Nat) (int : Bool) : List Nat :=
  let rmin := imgLe im (o + 8) 4
  let rmax := imgLe im (o + 12) 4
  let nlo := imgLe im (o + 16) 4
  let tol := toSigned 8 (imgLe im (o + 1) 1)
  need (bits (imgLe im o 1) 3 2 != 3) o ++ need (decide (-2 ≤ tol) && decide (tol ≤ 6)) (o + 1) ++
    need (if int then decide (toSigned 32 rmin ≤ toSigned 32 rmax) else f32Ordered rmin rmax) (o + 12) ++
    need (f32Ordered 0 nlo) (o + 16) ++ need (f32Ordered nlo (imgLe im (o + 20) 4)) (o + 20)

/-! ### The walk of R415 -/

/-- The bundles of a stream in the order they issue: each loop body as often as its count says, or twice. The checks that walk a
stream come before the one that refuses broken loop rules (R65): through such a stream the model walks as the sequencer would,
and no further than the fuel (DESIGN CHOICE, log 107). -/
def issueOrder (twice : Bool) (fuel : Nat) (l : List Stored) (pc : Nat) (ls : List LoopLevel) : List Stored :=
  match fuel with
  | 0 => []
  | n + 1 =>
    match l.drop pc with
    | [] => []
    | x :: _ =>
      let w := bCtl x.2
      let nxt := loopBack ls (pc + 1)
      let ls' :=
        if kOp w = 3 then
          { first := nxt.2, body := loopBody w, left := if twice then 1 else loopCount w - 1 } :: nxt.1
        else nxt.1
      x :: issueOrder twice n l nxt.2 ls'

/-- What a walk tracks: DBASE and each cell's active and shadow formats. -/
structure Track where
  dbase : Nat := 0
  cells : List (Option Nat × Option Nat) := [(none, none), (none, none), (none, none), (none, none)]
  deriving DecidableEq, Repr

/-- The track after a bundle: LDW, SWAP and DBASE (R37, R83). -/
def Track.next (t : Track) (n : Nat) : Track :=
  { dbase := if kOp (bCtl n) = 6 then dbaseLine (bCtl n) else t.dbase,
    cells := (List.range 4).map fun c =>
      let x := getAt (none, none) t.cells c
      let w := bCell n c
      if cOp w = 1 then (x.1, some (ldwFmt w)) else if cOp w = 2 then (x.2, x.1) else x }

/-- Each bundle of a walk with the track it meets, and the track after the walk. -/
def trackAll (t : Track) (l : List Stored) : List (Stored × Track) × Track :=
  match l with
  | [] => ([], t)
  | x :: r =>
    let y := trackAll (t.next x.2) r
    ((x, t) :: y.1, y.2)

/-- A step's bundles of a plan block with each loop body taken twice. -/
def stepTwice (im : List Byte) (b : Nat) : List Stored :=
  ((List.range (imgSegments im)).map fun g =>
    let l := streamOf im b g
    issueOrder true (16 * l.length + 1) l 0 []).flatten

/-- The bundles of a plan block with the tracks of both passes of the step (R415). -/
def seenOf (im : List Byte) (b : Nat) : List (Stored × Track) :=
  let l := stepTwice im b
  let one := trackAll { dbase := descLine im b } l
  one.1 ++ (trackAll { one.2 with dbase := descLine im b } l).1

/-! ### Stream structure (R83) -/

/-- What a stream adds up to: failing offsets, bundles issued with loops unrolled, MULs and CHK MULs. -/
structure StreamSum where
  bad    : List Nat := []
  issued : Nat := 0
  muls   : Nat := 0
  chks   : Nat := 0
  deriving DecidableEq, Repr

/-- How many cell slots of a bundle satisfy a test. -/
def cellsWhere (n : Nat) (f : CellSlot → Bool) : Nat := ((List.range 4).filter fun c => f (bCell n c)).length

/-- The structure of a stream from bundle `i` on, with the ends and counts of the open loop bodies; `g` the segment
and `op` the control opcode its last bundle must have. -/
def streamSum (g op total : Nat) (l : List Stored) (i : Nat) (open_ : List (Nat × Nat)) : StreamSum :=
  match l with
  | [] => {}
  | x :: r =>
    let st := open_.filter fun e => decide (i < e.1)
    let mult := (st.map (·.2)).foldl (· * ·) 1
    let w := bCtl x.2
    let k := kOp w
    let end_ := i + 1 + loopBody w
    let ctlOk :=
      if r = [] then k == op && cSeg w == g
      else
        k != 1 && k != 2 &&
          (k != 3 || (decide (st.length < 4) && decide (end_ < total) && st.all fun e => decide (end_ ≤ e.1)))
    let ldws := ((List.range 4).map fun c =>
      need (cOp (bCell x.2 c) != 1 || decide (ldwLine (bCell x.2 c) + 72 ≤ 65536)) (x.1 + 5 * c)).flatten
    let rest := streamSum g op total r (i + 1) (if k = 3 then (end_, loopCount w) :: st else st)
    { bad := need ctlOk (x.1 + 48) ++ ldws ++ rest.bad, issued := mult + rest.issued,
      muls := mult * cellsWhere x.2 (fun c => cOp c == 4) + rest.muls,
      chks := mult * cellsWhere x.2 (fun c => cOp c == 4 && mulChk c) + rest.chks }

/-- The structure of a plan block's stream of a segment. -/
def sumOf (im : List Byte) (b g : Nat) : StreamSum :=
  let l := streamOf im b g
  streamSum g (if g + 1 = imgSegments im then 2 else 1) l.length l 0 []

/-- The totals of a plan block's step: MULs and CHK MULs. -/
def blockMuls (im : List Byte) (b : Nat) : Nat :=
  ((List.range (imgSegments im)).map fun g => (sumOf im b g).muls).foldl (· + ·) 0
def blockChks (im : List Byte) (b : Nat) : Nat :=
  ((List.range (imgSegments im)).map fun g => (sumOf im b g).chks).foldl (· + ·) 0

/-- The CHK MULs of a plan block's step in issue order (R220): bundle offset and cell. -/
def chkOrder (im : List Byte) (b : Nat) : List (Nat × Nat) :=
  ((List.range (imgSegments im)).map fun g =>
    ((issueOrder false (sumOf im b g).issued (streamOf im b g) 0 []).map fun x =>
      ((List.range 4).filter fun c => cOp (bCell x.2 c) == 4 && mulChk (bCell x.2 c)).map fun c =>
        (x.1, c)).flatten).flatten

/-! ### Order 12: pairings -/

/-- The pairing of a MUL with the format its active slot holds, or of an empty slot (R44). -/
def mulPairing (t : Track) (c : Nat) (w : CellSlot) : Option Pairing :=
  pairing (((getAt (none, none) t.cells c).1).getD (mulFmt w)) (mulFmt w)

/-- Whether a MUL keeps the pairing and accumulator rules (R36, R38, R415). -/
def mulOk (t : Track) (c : Nat) (w : CellSlot) : Bool :=
  match mulPairing t c w with
  | none => false
  | some q => accAllowed q (mulInt w) && decide (mulBase w + mulRows w * q.n ≤ 16384)

/-- Whether the MULs of a bundle's cell have integer pairings, over every track met. -/
def kindsOf (seen : List (Stored × Track)) (pos : Nat × Nat) : List Bool :=
  (seen.filter fun y => y.1.1 == pos.1).filterMap fun y =>
    (mulPairing y.2 pos.2 (bCell y.1.2 pos.2)).map fun q => q.kind == .int

/-- The pairings of each check entry of a plan block: true where one is an integer pairing, false where one is not. -/
def entryKinds (im : List Byte) (b : Nat) : List (List Bool) :=
  ((chkOrder im b).take (chkDir im b).2).map (kindsOf (seenOf im b))

/-- A check over each check entry with its pairings. -/
def perEntry (im : List Byte) (f : Nat → List Bool → List Nat) : List Nat :=
  ((List.range (fpBlocks im)).map fun b =>
    let ks := entryKinds im b
    ((List.range (chkDir im b).2).map fun k => f (chkOff im b k) (getAt [] ks k)).flatten).flatten

/-- Order 11: reserved codes. -/
def ckCodes (im : List Byte) : List Nat :=
  ((allStored im).map fun x => perSlot x cellCodeOk vecCodeOk movCodeOk ctlCodeOk).flatten ++
    ((List.range (fpBlocks im)).map fun b =>
      ((List.range (descCount im b)).map fun k =>
        let o := secOff im 3 + descOff im b + 16 + 32 * k + 23
        need (nctlOk (imgLe im o 1)) o).flatten).flatten ++
    ((List.range (schedTotal im)).map (ckSchedCodes im)).flatten ++
    perEntry im fun o ks => ckCheckValues im o (ks.contains true)

/-- Order 12: pairings, accumulators and what check entries serve. -/
def ckPairings (im : List Byte) : List Nat :=
  ((List.range (fpBlocks im)).map fun b =>
    ((seenOf im b).map fun y =>
      ((List.range 4).map fun c =>
        let w := bCell y.1.2 c
        need (cOp w != 4 || mulOk y.2 c w) (y.1.1 + 5 * c) ++
          need (cOp w != 6 || decide (clraBase w + clraCount w ≤ 256)) (y.1.1 + 5 * c)).flatten).flatten).flatten ++
    perEntry im fun o ks =>
      need (!(ks.contains true && ks.contains false)) o ++ need (!ks.contains true || imgLe im (o + 1) 1 == 0) (o + 1)

/-! ### Order 13: tensors -/

/-- The descriptor of a plan block that a slot reaches: its index, none beyond the table (R84). -/
def reach (im : List Byte) (b : Nat) (t : Track) (n : Nat) : Option Nat :=
  let line := descLine im b
  if line ≤ t.dbase ∧ (t.dbase - line) * 4 + n < descCount im b then some ((t.dbase - line) * 4 + n) else none

/-- A descriptor of a plan block's table and its image offset. -/
def descAtOff (im : List Byte) (b k : Nat) : Nat := secOff im 3 + descOff im b + 16 + 32 * k
def descAt (im : List Byte) (b k : Nat) : Desc := descOf (sliceZ im (descAtOff im b k) 32)

/-- Whether a vector operation narrows under its descriptor's tensor, and whether it reaches a descriptor at all:
VST and CVT_MX always, CVT for its tensor, VLD for MX scales (R80). -/
def vNarrows (w : VecSlot) : Bool := vOp w == 2 || vOp w == 0x40 || vOp w == 0x41
def vReaches (w : VecSlot) : Bool := vNarrows w || (vOp w == 1 && fmtMx (vSrc w))

/-- The descriptor fields that a bundle's slots reach: slot offset, descriptor field, and of an STA its slot, of a
vector operation its slot, of a COPY its slot. -/
inductive Use where
  | sta (w : CellSlot)
  | vec (w : VecSlot)
  | copy (w : MovSlot)
  deriving DecidableEq, Repr

/-- The descriptor uses of a bundle. -/
def usesOf (x : Stored) : List (Nat × Nat × Use) :=
  (((List.range 4).filter fun c => cOp (bCell x.2 c) == 5).map fun c =>
    (x.1 + 5 * c, staDesc (bCell x.2 c), Use.sta (bCell x.2 c))) ++
    (((List.range 2).filter fun v => vReaches (bVec x.2 v)).map fun v =>
      (x.1 + 20 + 8 * v, vDesc (bVec x.2 v), Use.vec (bVec x.2 v))) ++
    ((List.range 2).filter fun v => mOp (bMov x.2 v) == 1).map fun v =>
      (x.1 + 36 + 6 * v, mDesc (bMov x.2 v), Use.copy (bMov x.2 v))

/-- A check of each descriptor use of the streams: block, slot offset, table index and use; a use that lies beyond the
table is passed over, or answered. -/
def perUse (im : List Byte) (beyond : Bool) (f : Nat → Nat → Nat → Use → List Nat) : List Nat :=
  ((List.range (fpBlocks im)).map fun b =>
    ((seenOf im b).map fun y =>
      ((usesOf y.1).map fun u =>
        match reach im b y.2 u.2.1 with
        | some k => f b u.1 k u.2.2
        | none => if beyond then [u.1] else []).flatten).flatten).flatten

/-- The highest element index a use narrows, above its IBASE (R49). -/
def topIndex (d : Desc) (u : Use) : Option Nat :=
  match u with
  | .sta w => some ((staRows w - 1) * d.pitch + staN w - 1)
  | .vec w => if vNarrows w then some (elemCount (nctlFmt (vNctl w)) - 1) else none
  | .copy _ => none

/-- Order 13: element indices below 2^40. -/
def ckTensors (im : List Byte) : List Nat :=
  perUse im false fun b _ k u =>
    match topIndex (descAt im b k) u with
    | some n => need (decide ((descAt im b k).ibase + n < 2 ^ 40)) (descAtOff im b k + 24)
    | none => []

/-! ### Orders 14 to 17 -/

/-- Order 14: the CHECK of every stored bundle (R77). -/
def ckCrc (im : List Byte) : List Nat :=
  ((allStored im).map fun x => need (crc24 (leBytes 58 x.2) == bits x.2 488 24) (x.1 + 61)).flatten

/-- The router schedule entries of a rank: their numbers among all. -/
def ownSched (im : List Byte) (rank : Nat) : List Nat :=
  if schedRanks im ≤ rank then []
  else (List.range (schedDir im rank).2).map ((schedDir im rank).1 + ·)

/-- Slots of the streams that name a schedule entry of the rank it does not have. -/
def ckColls (im : List Byte) (rank : Nat) : List Nat :=
  ((allStored im).map fun x =>
    ((List.range 2).map fun v =>
      need (mOp (bMov x.2 v) != 2 || decide (mDesc (bMov x.2 v) < (ownSched im rank).length))
        (x.1 + 36 + 6 * v)).flatten).flatten

/-- The descriptors that schedule entries and watch entries name, inside their tables (R84, R391). -/
def ckNamed (im : List Byte) (rank : Nat) : List Nat :=
  let ok (b d : Nat) : Bool := decide (b < fpBlocks im) && decide (d < descCount im b)
  ((ownSched im rank).map fun k => need (ok (schedFld im k 4 2) (schedFld im k 6 2)) (schedOff im k + 6)).flatten ++
    ((List.range (wchCount im)).map fun k =>
      need (ok (imgLe im (wchOff im k + 4) 2) (imgLe im (wchOff im k + 6) 2)) (wchOff im k + 4)).flatten

/-- Order 15: the structure of the streams. -/
def ckStreams (im : List Byte) (rank : Nat) : List Nat :=
  ((planCells im).map fun c =>
    let e := secOff im 1 + 16 * (c.1 * imgSegments im + c.2)
    let q := sumOf im c.1 c.2
    q.bad ++ need ((streamOf im c.1 c.2) != []) (e + 8) ++
      need (q.issued == (dirEntry im c.1 c.2).2.2 && decide (q.issued ≤ syncNominal im c.2)) (e + 12)).flatten ++
    ((List.range (fpBlocks im)).map fun b =>
      need (blockChks im b == (chkDir im b).2) (secOff im 7 + 64 + 8 * b + 4)).flatten ++
    need (((List.range (fpBlocks im)).map (blockMuls im)).foldl (· + ·) 0 == secLe im 7 4 4) (secOff im 7 + 4) ++
    perUse im true (fun b o k u =>
      match u with
      | .copy _ =>
        need (gaChip (descAt im b k).addrB == rank || (departureOf im rank b k).isSome) o
      | _ => []) ++
    ckColls im rank ++ ckNamed im rank

/-- Order 16: the sync point list (R66). -/
def ckSync (im : List Byte) : List Nat :=
  ((List.range (imgSegments im)).map fun g =>
    let prev := if g = 0 then 0 else syncOffset im (g - 1)
    need (decide (1 ≤ syncNominal im g) && decide (syncSlack im g ≤ 1000000) &&
      syncOffset im g == prev + ceilDiv (syncNominal im g * 1000000) (imgCclk im) + syncSlack im g)
      (secOff im 5 + 16 * g)).flatten

/-- Order 17: a digest for every block and segment (R23, R61). -/
def ckDigests (im : List Byte) : List Nat :=
  need (decide (8 * cellsOf im ≤ secLen im 6)) (secOff im 6 + secLen im 6 / 8 * 8)

/-! ### Orders 18 and 19: addresses -/

/-- Bytes that a use reads or writes at ADDR_A and at ADDR_B (R79, R80, R82). -/
def useBytes (d : Desc) (u : Use) : Nat × Nat :=
  match u with
  | .sta w =>
    let c := nctlFmt d.nctl
    (ceilDiv (((staRows w - 1) * d.pitch + staN w) * fmtBits c) 8, if fmtMx c then staRows w * staN w / 32 else 0)
  | .vec w =>
    (if (vOp w = 1 ∧ fmtMx (vSrc w) = true) ∨ ((vOp w = 2 ∨ vOp w = 0x41) ∧ fmtMx (nctlFmt (vNctl w)) = true) then 32
     else 0, 0)
  | .copy w =>
    let n := if mLines w = 0 then d.len else 128 * mLines w
    (n, n)

/-- Bytes of a collective's operand and result on one chip (R171). -/
def collBytes (im : List Byte) (k rank : Nat) (d : Desc) : Nat × Nat :=
  let kind := schedFld im k 0 1
  if kind = 5 then (d.len, d.len)
  else
    let n := schedFld im k 16 4
    let eb := fmtBits (schedFld im k 1 1) / 8
    let all := eb * schedFld im k 8 4
    let j := ((schedList im k).takeWhile fun m => m != rank).length
    let own := eb * (chunkAt (schedFld im k 8 4) n (j + 1) - chunkAt (schedFld im k 8 4) n j)
    if kind = 3 then (all, own) else if kind = 4 then (own, all) else (all, all)

/-- Whether a range lies in the loading partition's view, whatever chip it names (R65). -/
def inView (s : State) (p a n : Nat) : Bool := n == 0 || (s.viewRange p (gaOff a) n).isSome

/-- Addresses of a descriptor with the bytes reached at them. -/
def addrsOf (im : List Byte) (b k : Nat) (n : Nat × Nat) : List (Nat × Nat × Nat) :=
  [(descAtOff im b k, (descAt im b k).addrA, n.1), (descAtOff im b k + 8, (descAt im b k).addrB, n.2)]

/-- A check of each address that slots and this rank's collectives reach: image offset, address, bytes. -/
def perAddr (im : List Byte) (rank : Nat) (f : Nat → Nat → Nat → List Nat) : List Nat :=
  let go (l : List (Nat × Nat × Nat)) : List Nat := (l.map fun x => if x.2.2 = 0 then [] else f x.1 x.2.1 x.2.2).flatten
  perUse im false (fun b _ k u => go (addrsOf im b k (useBytes (descAt im b k) u))) ++
    ((ownSched im rank).map fun k =>
      let b := schedFld im k 4 2
      let d := schedFld im k 6 2
      if schedFld im k 0 1 = 1 then [] else go (addrsOf im b d (collBytes im k rank (descAt im b d)))).flatten

/-- Stateful regions inside the view and apart (R61, R65), and pages that FINALIZE names journalled (R90). -/
def ckPages (s : State) (p : Nat) (im : List Byte) : List Nat :=
  ((List.range (secLen im 9 / 16)).map fun k =>
    let g := regionAt im k
    need (decide (g.1 + g.2.1 ≤ 6291456) && inView s p (pageBytes * g.1) (pageBytes * g.2.1) &&
      (List.range k).all fun j =>
        let h := regionAt im j
        decide (h.1 + h.2.1 ≤ g.1) || decide (g.1 + g.2.1 ≤ h.1)) (secOff im 9 + 16 * k)).flatten ++
    ((allStored im).map fun x =>
      need (kOp (bCtl x.2) != 5 ||
        (List.range (finCount (bCtl x.2))).all fun k => regionFlags im (finPage (bCtl x.2) + k) == 3) (x.1 + 48)).flatten

/-- Order 18: addresses and pages in the partition's view. -/
def ckView (s : State) (p : Nat) (im : List Byte) : List Nat :=
  perAddr im (s.rank p) (fun o a n => need (inView s p a n) o) ++ ckPages s p im

/-- Order 19: chip numbers below CHIPS. -/
def ckChips (im : List Byte) (rank : Nat) : List Nat :=
  perAddr im rank (fun o a _ => need (decide (gaChip a < fpChips im)) o) ++
    ((List.range (schedTotal im)).map fun k =>
      let kind := schedFld im k 0 1
      need (!(decide (2 ≤ kind) && decide (kind ≤ 4)) || (schedList im k).all fun m => decide (m < fpChips im))
        (schedOff im k + 12)).flatten

/-! ### The table of R65 -/

/-- A refused load: reason, status and image offset of the failing item. -/
structure LoadFail where
  reason : Nat
  status : Nat
  offset : Nat
  deriving DecidableEq, Repr

/-- The table of R65 from order 3 on: reason, status, failing items. -/
def loadTable (s : State) (p keep : Nat) (im : List Byte) : List (Nat × Nat × List Nat) :=
  [(0x0101, 9, ckMagic im), (0x0102, 9, ckLen im), (0x0201, 6, ckDigest im), (0x0103, 9, ckFootEntry im),
    (0x010B, 9, ckRanges im), (0x0301, 5, ckFoot s p keep im), (0x0103, 9, ckSections s p im),
    (0x0104, 9, ckReserved im), (0x0105, 9, ckCodes im), (0x0106, 9, ckPairings im), (0x0107, 9, ckTensors im),
    (0x0202, 6, ckCrc im), (0x0108, 9, ckStreams im (s.rank p)), (0x0109, 9, ckSync im), (0x010A, 9, ckDigests im),
    (0x0402, 7, ckView s p im), (0x010C, 9, ckChips im (s.rank p))]

/-- The first order that fails, with the lowest of its failing items. -/
def firstFail (l : List (Nat × Nat × List Nat)) : Option LoadFail :=
  match l with
  | [] => none
  | (reason, status, items) :: r =>
    match items with
    | [] => firstFail r
    | x :: xs => some { reason := reason, status := status, offset := xs.foldl min x }

/-- The first failing check of a load, in the table's order. -/
def loadCheck (s : State) (p keep : Nat) (im : List Byte) : Option LoadFail := firstFail (loadTable s p keep im)

end Sys2Proof.Machine
end

