-- ==== Sys2Proof/Machine/PlanLoad.lean ====
section
/-! DEFINITION. Loading and unloading a plan (R60 to R65, R92, R185, R220, R242, R268, R390, R392, R415). -/

namespace Sys2Proof.Machine

open Sys2Proof

/-! ### Watch points (R392) -/

/-- The watch points of a partition freed. -/
def freeWatch (s : State) (p : Nat) : State :=
  s.modObs fun o => { o with watch := o.watch.filter fun w => w.part != p }

/-- The watch entries of an image that apply to a rank: their numbers. -/
def wchOwn (im : List Byte) (rank : Nat) : List Nat :=
  (List.range (wchCount im)).filter fun k =>
    let r := imgLe im (wchOff im k) 4
    r == 0xFFFFFFFF || r == rank

/-- A watch point of an entry of a partition's image, as slot `n`. -/
def watchPoint (s : State) (p n k : Nat) (im : List Byte) : WatchPoint :=
  let o := wchOff im k
  { part := p, slot := n, block := getAt 0 (s.blocksOf p) (imgLe im (o + 4) 2), desc := imgLe im (o + 6) 2,
    ops := imgLe im (o + 8) 1, base := toSigned 8 (imgLe im (o + 10) 1), width := imgLe im (o + 11) 1,
    watchId := imgLe im (o + 12) 4 }

/-- The watch points of a loaded plan taken in entry order as long as any of the 64 is free; the rest counted in
WCH_INACTIVE. -/
def takeWatch (s : State) (p : Nat) (im : List Byte) : State :=
  let own := wchOwn im (s.rank p)
  let n := min own.length (64 - s.obs.watch.length)
  let new := (List.range n).map fun j => watchPoint s p (j + 1) (getAt 0 own j) im
  (s.modObs fun o => { o with watch := o.watch ++ new }).wr R.WCH_INACTIVE 0 (s.rd R.WCH_INACTIVE 0 + (own.length - n))

/-! ### A loaded plan -/

/-- A block as a load leaves it: every tile slot empty (R415), the repeat list and norms cleared (R221, R229), the
trace FIFO emptied (R390). -/
def loadBlock (k : Block) : Block :=
  { k with
    cells := k.cells.map fun c => (c.1, { c.2 with active := {}, shadow := {} }), csActive := [], csShadow := [],
    norms := [], sealedNorms := [], repeats := [], overflow := [], settled := [], falseAlarms := [],
    streamFaults := 0, trace := [], released := false, ended := false, syncDone := false, waiting := none,
    noIssue := false, arrivals := [], loops := [], pc := 0, seqNo := 0, segment := 0, seqA := {}, seqB := {},
    verdicts := [] }

/-- The counters of a block that a load clears: plan errors, slips and checks but CHK_SUBST (R92, R240); its
sequencers are active again (R88). -/
def loadBlockRegs (s : State) (b : Nat) : State :=
  ((s.odClear fun idx sub inst =>
      inst == b && (idx == 0x3021 || (idx == 0x3010 && sub == 4) || (idx == 0x6010 && sub != 0x0C))).wr
    R.CMP_SEQ_A b 0).wr R.CMP_SEQ_B b 0

/-- The seal and trace entries of a partition that a load returns to their defaults (R268, R390); software's own
(SEAL_NEXT_STEP, SEAL_BUDDY, the limits, adoption) and TRC_DROP stay. -/
def loadPartRegs (s : State) (p : Nat) : State :=
  s.odClear fun idx sub inst =>
    inst == p && ((idx == 0x6100 && sub != 0x0B) || idx == 0x6101 ||
      (idx == 0x6102 && decide (2 ≤ sub) && decide (sub ≤ 5)) || (idx == 0x8200 && sub != 5))

/-- The descriptor table of a plan block written to its SRAM line (R84), behind any zeroing. -/
def writeTable (s : State) (p j : Nat) (im : List Byte) : State :=
  let b := getAt 0 (s.blocksOf p) j
  let bs := descBytes im j
  if bs = [] then s
  else
    memRequest s
      { role := .operator, part := p, func := 0xFFFF, remote := false, tag := 0, raw := true, planned := false,
        unit := uFcc, write := true, offset := sramBase b + 128 * descLine im j, len := bs.length, data := bs,
        poison := false, ecc := [] }

/-- The trace records that a block's FIFO held, dropped with the ring's configuration. -/
def dropTrace (s : State) (p b : Nat) : State := s.bump R.TRC_DROP p (s.block b).trace.length

/-- Overshoot and amounts of every resource reported (R63). -/
def loadReport (s : State) (p keep : Nat) (im : List Byte) : State :=
  s.each (List.range 7) fun t k =>
    let r := resOver s p keep im k
    (t.wr (R.CMP_LOAD_OVER k) p r.1).wr (R.CMP_LOAD_AVAIL k) p r.2

/-- Whether an image passes orders 3 to 7, so that order 8 compares its footprint (R65). -/
def footRead (im : List Byte) : Bool :=
  (ckMagic im ++ ckLen im ++ ckDigest im ++ ckFootEntry im ++ ckRanges im).isEmpty

/-- No overshoot reported: the load failed before its footprint was compared. -/
def loadNone (s : State) (p : Nat) : State := s.each (List.range 7) fun t k => t.wr (R.CMP_LOAD_OVER k) p 0

/-- CHK_COVERAGE of a plan (R220). -/
def coverage (im : List Byte) : Nat :=
  let total := secLe im 7 4 4
  let chks := ((List.range (fpBlocks im)).map (blockChks im)).foldl (· + ·) 0
  if total = 0 then 1000000 else min 1000000 (1000000 * chks / total)

/-- A partition's spare state once its plan is Loaded on a dormant chip (R262). -/
def spareLoaded (s : State) (p : Nat) : State :=
  if s.rst.mode = .dormant then s.wr R.SEAL_SPARE_STATE p 2 else s

/-- A plan that passed every check becomes the partition's. -/
def loadPlan (s : State) (p : Nat) (im : List Byte) : State :=
  let bs := (s.blocksOf p).take (fpBlocks im)
  let s1 := (s.each (s.blocksOf p) fun t b => dropTrace t p b).each (s.blocksOf p) fun t b =>
    loadBlockRegs (t.modBlock b loadBlock) b
  let s2 := (loadPartRegs s1 p).modPart p fun q =>
    { image := im, runGen := q.runGen, rollbacks := q.rollbacks, runNo := q.runNo, execNo := q.execNo }
  let s3 := s2.each (List.range bs.length) fun t j => writeTable t p j im
  let s4 := ((s3.wr R.CMP_PLAN_SEED p (imgSeed im)).wr R.CHK_COVERAGE p (coverage im)).wr R.CHK_ENTRIES p
    (chkEntries im).length
  spareLoaded ((takeWatch (freeWatch s4 p) p im).wr R.CMP_PLAN_STATE p psLoaded) p

/-- A load refused by the table of R65: CMP_LOAD, event 0x4002, the command's completion; the staged image is
zeroed. -/
def refuseLoad (s : State) (m p status reason offset plan : Nat) (c : Cmd) : State :=
  let s1 := (loadRegs s p status reason offset plan).recordL 0x4002 uFcc [(1, p), (1, status), (2, reason)]
    (some (c.layer, c.operator))
  moverDone s1 m status reason 0

/-! ### Commands -/

/-- PLAN_LOAD (R64, R185): checks 1 and 2 of R65, then the image is staged. -/
def planLoad (s : State) (m : Nat) (ats : Ats) : State :=
  beginWith s m 0x10 fun t c fn =>
    let p := c.part
    if t.owns fn p = false then refuseLoad (loadNone t p) m p 7 0x0401 0 0 c
    else if t.pstate p ≠ psEmpty then refuseLoad (loadNone t p) m p 7 0x0403 0 0 c
    else
      let s1 := (t.modPart p fun q => { q with staged := [], stagedBy := some m }).wr R.CMP_PLAN_STATE p psLoading
      translate s1 m c fn (if bitOf c.arg0 0 then .off else ats) fun u => runCmd u m []

/-- PLAN_LOAD (R64). -/
def execPlanLoad (mover : Nat) (ats : Ats) (s : State) : Host.Outcome State Fault Refusal := .next (planLoad s mover ats)

/-- The checks of a staged image done (R64, R65). `keep` is the buddy area that the buddy chip answers. -/
def loadEnd (s : State) (p keep : Nat) : State :=
  match (s.part p).stagedBy with
  | none => s
  | some m =>
    let x := s.mover m
    if s.pstate p ≠ psLoading ∨ x.next < x.cmd.len then s
    else
      let im := (s.part p).staged
      let plan := imgPlanId im
      match x.bad with
      | some o => moverFail s m 8 0 o
      | none =>
        match loadCheck s p keep im with
        | some f =>
          let s1 := if footRead im = true then loadReport s p keep im else loadNone s p
          refuseLoad (dropStage s1 p) m p f.status f.reason f.offset plan x.cmd
        | none =>
          let s1 := loadRegs (loadReport (loadPlan s p im) p keep im) p 0 0 0 plan
          moverDone (s1.recordL 0x4001 uFcc [(1, p), (8, plan)] (some (x.cmd.layer, x.cmd.operator))) m 0 0 plan

/-- The same for the command that loads (R184). -/
def loadDone (s : State) (p keep : Nat) : State :=
  match (s.part p).stagedBy with
  | none => s
  | some m => asCmd s (s.mover m).cmd fun t => loadEnd t p keep

/-- PLAN_LOAD_CHECKS_DONE (R64, R65). -/
def execPlanLoadChecksDone (part keep : Nat) (s : State) : Host.Outcome State Fault Refusal :=
  .next (loadDone s part keep)

/-- A partition's plan given up: Empty, its watch points free, CMP_PLAN_SEED 0 (R58, R392). -/
def unload (s : State) (p : Nat) : State :=
  let s1 := (freeWatch s p).modPart p fun q => { runGen := q.runGen, rollbacks := q.rollbacks, runNo := q.runNo, execNo := q.execNo }
  let s2 := ((s1.wr R.CMP_PLAN_STATE p psEmpty).wr R.CMP_PLAN_SEED p 0).wr R.SEAL_BUDDY_STATE p bNone
  if s.rst.mode = .dormant then s2.wr R.SEAL_SPARE_STATE p 1 else s2

end Sys2Proof.Machine
end

