-- ==== Sys2Proof/Machine/Power.lean ====
section
/-! DEFINITION. The clock of a step, the power cap and the safety clamps (R69, R311 to R314). -/

namespace Sys2Proof.Machine

open Sys2Proof

/-! ### CCLK (R311) -/

/-- The power control changed. -/
def State.modPower (s : State) (f : PowerCtl → PowerCtl) : State := s.setPower (f s.power)

/-- The clock that the plans of the chip's active partitions and of partition `p` ask for: the least of them. -/
def planKhz (s : State) (p : Nat) : Nat :=
  (((List.range 128).filter fun q => s.active q && q != p).map fun q => imgCclk (s.img q)).foldl min (imgCclk (s.img p))

/-- The lowest clock of either bin (R2). -/
def floorKhz : Nat := 900000

/-- The clock under a clamp: 5 % less for a stretch (cause 3, R312), an unstated amount less for the others (R314); never
below the range of R2. -/
def clampKhz (s : State) (cause khz : Nat) : Nat :=
  if khz ≤ floorKhz then floorKhz
  else if cause = 3 then max floorKhz (khz * 95 / 100)
  else floorKhz + Config.free s.free % (khz - floorKhz)

/-- The core voltage for a clock (R313). -/
def State.vddFor (s : State) (khz : Nat) : Nat := Config.avsMv khz + s.rd R.PWR_AVS_GUARD_MV 0

/-- Whether a clock's predicted power fits the cap: the power last measured, scaled by frequency and the square of voltage
(R313). The measured energy of the previous step is taken from PWR_NOW_W, the one measurement that commands bring
(log 105). -/
def fitsCap (s : State) (khz : Nat) : Bool :=
  s.rd R.PWR_NOW_W 0 == 0 || s.rd R.PWR_CCLK_KHZ 0 == 0 || s.rd R.PWR_VDD_MV 0 == 0 ||
    decide (s.rd R.PWR_NOW_W 0 * khz * s.vddFor khz ^ 2 ≤
      s.rd R.PWR_CAP_W 0 * s.rd R.PWR_CCLK_KHZ 0 * s.rd R.PWR_VDD_MV 0 ^ 2)

/-- The highest clock of up to `n` kHz above the floor whose prediction fits the cap; the floor where none does. -/
def capFrom (s : State) (n : Nat) : Nat :=
  match n with
  | 0 => floorKhz
  | k + 1 => if fitsCap s (floorKhz + (k + 1)) then floorKhz + (k + 1) else capFrom s k

/-- The highest clock from the floor up to a limit whose prediction fits the cap. -/
def capKhz (s : State) (limit : Nat) : Nat := capFrom s (limit - floorKhz)

/-- The clock of a partition's next step: the least of the plan's, the bin's limit, what the cap allows and what the
clamps allow. -/
def stepKhz (s : State) (p : Nat) : Nat :=
  s.power.clamps.foldl (fun k c => clampKhz s c k) (capKhz s (min (planKhz s p) binKhz))

/-- Whether another partition is inside a step, where the clock, which is the chip's, does not change (R18). -/
def othersInStep (s : State) (p : Nat) : Bool :=
  (List.range 128).any fun q => q != p && s.pstate q == psRunning && (s.blocksOf q).any fun b => (s.block b).released

/-- The clock and the core voltage of a partition's next step set (R311, R313); a change writes event 0xC022. While another
partition is inside a step the clock stays (log 105). Clamps whose cause has cleared are released after this step. -/
def setClock (s : State) (p : Nat) : State :=
  let old := s.rd R.PWR_CCLK_KHZ 0
  let new := if othersInStep s p then old else stepKhz s p
  let s1 := ((s.wr R.PWR_CCLK_KHZ 0 new).wr R.PWR_VDD_MV 0 (s.vddFor new)).tick
  let s2 := s1.modPower fun w =>
    { w with clamps := w.clamps.filter fun c => !w.clearing.contains c, clearing := [] }
  if old = new then s2 else s2.record 0xC022 uFcc [(4, old), (4, new)]

/-! ### Clamps (R312, R314) -/

/-- A safety clamp begun: counted, event 0xC020. -/
def clamp (s : State) (cause : Nat) : State :=
  if s.power.clamps.contains cause then
    s.modPower fun w => { w with clearing := w.clearing.filter fun c => c != cause }
  else
    ((s.modPower fun w => { w with clamps := w.clamps ++ [cause] }).bumpSat R.PWR_CLAMPS 0 1).record 0xC020 uFcc
      [(1, cause), (4, s.rd R.PWR_CCLK_KHZ 0)]

/-- POLICY_CLAMP (R314): cause 1 junction temperature, 2 rail current; `clear` when the cause clears. -/
def execPolicyClamp (cause : Nat) (clear : Bool) (s : State) : Host.Outcome State Fault Refusal :=
  .next (if clear then
    if s.power.clamps.contains cause then s.modPower fun w => { w with clearing := addNew w.clearing cause } else s
  else clamp s cause)

/-- DROOP_STRETCH (R312): cycles stretched by `ns`, `windowNs` of it within 10 µs; past 200 ns a clamp holds for the
next step. -/
def execDroopStretch (ns windowNs : Nat) (s : State) : Host.Outcome State Fault Refusal :=
  let s1 := s.bumpSat R.PWR_STRETCH_NS 0 ns
  .next (if windowNs ≤ 200 then s1
  else (clamp (s1.record 0xC023 uFcc [(4, windowNs)]) 3).modPower fun w => { w with clearing := addNew w.clearing 3 })

/-! ### The cap (R313) -/

/-- The hold of unplanned work by the last 1 ms average; a hold released lets what waited go on. -/
def capHold (s : State) : State :=
  let isOver := decide (s.rd R.PWR_CAP_W 0 < s.rd R.PWR_NOW_W 0)
  let s1 := s.modPower fun w => { w with holdUnplanned := isOver, overNs := if isOver && !w.holdUnplanned then s.now else w.overNs }
  if isOver then s1
  else resumeCmds ((s1.modPower fun w => { w with held := [] }).each s1.power.held memRequest)

/-- POWER_CAP_HOLD (R313): a 1 ms average. -/
def execPowerCapHold (watts : Nat) (s : State) : Host.Outcome State Fault Refusal :=
  .next (capHold ((s.wr R.PWR_NOW_W 0 watts).raise R.PWR_MAX_W 0 watts))

/-- POWER_CAP_OVERSHOOT (R313): the average has stayed above the cap for PWR_OVER_MS. -/
def execPowerCapOvershoot (s : State) : Host.Outcome State Fault Refusal :=
  .next (if s.power.holdUnplanned = true ∧ s.power.overNs + (1000000 * s.rd R.PWR_OVER_MS 0 : Nat) ≤ s.now then
    s.record 0xC021 uFcc [(2, s.rd R.PWR_NOW_W 0), (2, s.rd R.PWR_CAP_W 0)]
  else s)

/-- PWR_CAP_W written (R313, R322): the hold at once, the clock from the next commit. -/
def powerCap (s : State) (v : Nat) : Written := done (capHold (s.wr R.PWR_CAP_W 0 v))

/-- PWR_CAP_W (R313). -/
def execPwrCapW (who : Who) (value : Nat) (s : State) : Host.Outcome State Fault Refusal :=
  .next (s.guard who R.PWR_CAP_W 0 value fun s => powerCap s value)

end Sys2Proof.Machine
end

