-- ==== Sys2Proof/Machine/Training.lean ====
section
/-! DEFINITION. Port states, training, lanes and sparing, clock syntonization (R127 to R138). -/

namespace Sys2Proof.Machine

open Sys2Proof

/-! ### Widths (R119) -/

def isOptical (port : Nat) : Bool := decide (4 ≤ port)
def nLanes (port : Nat) : Nat := if isOptical port then 9 else 18
def fullWidth (port : Nat) : Nat := if isOptical port then 8 else 16
def redWidth (port : Nat) : Nat := if isOptical port then 4 else 8

/-- The instance of a port's receive lane. -/
def laneKey (port l : Nat) : Nat := port * 32 + l

/-- Lane states (R145). -/
def lActive : Nat := 0
def lReady : Nat := 1
def lOut : Nat := 2
def lIdle : Nat := 3

/-- The state of a receive lane. -/
def State.lane (s : State) (port l : Nat) : Nat := s.rd R.FAB_LANE_STATE (laneKey port l)

/-- The receive lanes of a port in a state, ascending. -/
def State.lanesIn (s : State) (port st : Nat) : List Nat :=
  (List.range (nLanes port)).filter fun l => s.lane port l == st

/-- A link control payload queued for a port. -/
def ctlSend (s : State) (port : Nat) (c : LinkCtl) : State :=
  s.modPort port fun o => { o with ctlq := o.ctlq ++ [c] }

/-- Fixed points of a cause that a part does not have yet. -/
def penOnce (s : State) (u cause pts : Nat) : State :=
  if (s.penalty u).fixed.any fun e => e.1 == cause then s else penFixed s u cause pts

/-! ### Laser modules' records (R141) -/

/-- The module of an optical port. -/
def moduleOf (port : Nat) : Nat := port - 4

/-- A module's tracking record with HOURS brought up to date; CHECK once the BOL values are there. -/
def recordWith (l : Laser) (hours : Nat) : List Byte :=
  let b := l.record.take 6 ++ leBytes 4 hours ++ (l.record.drop 10).take 18
  if l.blank then b ++ l.record.drop 28 else b ++ leBytes 4 (crc32c b)

/-- HOURS written to the module. -/
def hoursWrite (s : State) (m : Nat) : State :=
  let l := s.laser m
  if l.record = [] then s
  else
    let r := recordWith l (s.rd R.FAB_LSR_HOURS m)
    (s.modLaser m fun l => { l with record := r, writtenH := s.rd R.FAB_LSR_HOURS m }).emit (.moduleWrite m r)

/-! ### Leaving and losing Up (R128, R168) -/

/-- Whether a link control payload belongs to a move of lanes, which ends when the port leaves Up (R136). -/
def isSpare (c : LinkCtl) : Bool :=
  match c with
  | .spareReq _ => true
  | .spareOffer _ _ => true
  | .spareGo _ => true
  | _ => false

/-- The packets of a port's queues, those partly sent among them, counted in FAB_VC_HELD by their class (R168, R174). -/
def countHeld (s : State) (port : Nat) : State :=
  let o := s.port port
  let l := (o.cur.map fun e => e.2.q) ++ (o.txq.map fun e => e.2).flatten
  s.each (List.range 7) fun t c => t.wr R.FAB_VC_HELD (port * 8 + c) (l.filter fun q => classOf q.pkt == c).length

/-- A port leaves Up: its packets are held from now on, time messages dropped at once (R168); what a fast retrain had under way is
abandoned (R136). -/
def leaveUp (s : State) (port : Nat) : State :=
  if s.portUp port = false then s
  else
    let timed (q : QPacket) : Bool := q.pkt.vc == 4 && q.pkt.kind == 6
    let old := (mapGet [] (s.port port).txq 4).filter timed
    let s1 := s.modPort port fun o =>
      { o with
        txq := o.txq.map (fun e => (e.1, e.2.filter fun q => !timed q)), ctlq := o.ctlq.filter fun c => !isSpare c,
        downNs := some s.now, holdDone := false, fastTx := none, fastRx := none, fullAfter := false, nakDue := false,
        pauseLeft := [] }
    masterLost (countHeld (s1.each old fun t q => dropPkt t (uPort port) 4 q.pkt) port) port

/-- A port goes Down with its cause. -/
def goDown (s : State) (port cause : Nat) : State :=
  let s1 := (leaveUp s port).modPort port fun o => { o with train := none, fecUp := false, helloSent := false }
  (((s1.wr R.FAB_PORT_STATE port 3).wr R.FAB_PORT_CAUSE port cause).modPort port fun o => { o with retryNs := s.now }).record
    0x6002 (uPort port) [(1, cause)]

/-- Whether a port has light: an electrical port, or an optical one with a module Ready or Lasing (R142). -/
def State.lit (s : State) (port : Nat) : Bool :=
  !isOptical port || s.rd R.FAB_LSR_STATE (moduleOf port) == 3 || s.rd R.FAB_LSR_STATE (moduleOf port) == 4

/-- Training begun (R128), with the chip number that FAB_CHIP_ID then holds (R174); an optical port's module begins to lase, and a port without one stays Down (R141). -/
def startTrain (s : State) (port : Nat) (k : TrainKind) : State :=
  if s.lit port = false then
    if s.rd R.FAB_PORT_STATE port = 3 ∧ s.rd R.FAB_PORT_CAUSE port = 5 then s else goDown s port 5
  else
    let s1 := if isOptical port then s.wr R.FAB_LSR_STATE (moduleOf port) 4 else s
    let s2 := ((leaveUp s1 port).wr R.FAB_PORT_STATE port 1).modPort port fun o =>
      { o with train := some k, attempts := 0, fecUp := false, helloSent := false }
    let s2 := s2.modRouter fun r => { r with chipId := s2.rd R.FAB_CHIP_ID 0 }
    if k = .bringup then s2
    else
      let s3 := (s2.bumpSat R.FAB_RETRAIN_FULL port 1).bumpSat R.LIFE_RETRAINS 0 1
      if k = .full then penDecay s3 (uPort port) 20 else s3

/-- A port out of Off, as FAB_PORT_ADMIN says (R128). -/
def leaveOff (s : State) (port : Nat) : State :=
  if s.rd R.FAB_PORT_ADMIN port = 1 then startTrain s port .bringup else s.wr R.FAB_PORT_STATE port 4

/-! ### Commands of a port -/

/-- FAB_PORT_ADMIN written (R128, R141, R142). -/
def portAdmin (s : State) (port v : Nat) : Written :=
  let s1 := s.wr R.FAB_PORT_ADMIN port v
  let st := s.rd R.FAB_PORT_STATE port
  if v = 0 then
    if st = 4 ∨ s.inReset (uPort port) = true then done s1
    else
      let s2 := ((leaveUp s1 port).modPort port fun o => { o with train := none }).wr R.FAB_PORT_STATE port 4
      if isOptical port ∧ s.rd R.FAB_LSR_STATE (moduleOf port) = 4 then
        done ((hoursWrite s2 (moduleOf port)).wr R.FAB_LSR_STATE (moduleOf port) 3)
      else done s2
  else if (st = 4 ∨ st = 0) ∧ s.inReset (uPort port) = false ∧ s.mainUp = true then done (startTrain s1 port .bringup)
  else done s1

/-- FAB_PORT_ADMIN (R128). -/
def execFabPortAdmin (who : Who) (port value : Nat) (s : State) : Host.Outcome State Fault Refusal :=
  .next (s.guard who R.FAB_PORT_ADMIN port value fun s => portAdmin s port value)

/-- FAB_PORT_CMD = 1, acting by the port's state (R128, R136). -/
def fullRetrain (s : State) (port : Nat) : Written :=
  let o := s.port port
  match s.rd R.FAB_PORT_STATE port with
  | 2 =>
    if o.fastTx.isSome ∨ o.fastRx.isSome then done (s.modPort port fun o => { o with fullAfter := true })
    else done (startTrain s port .full)
  | 3 => done (startTrain s port .full)
  | 1 => done s
  | _ => deny s

/-- PORT_FULL_RETRAIN (R128). -/
def execPortFullRetrain (who : Who) (port : Nat) (s : State) : Host.Outcome State Fault Refusal :=
  .next (s.guard who R.FAB_PORT_CMD port 1 fun s => fullRetrain s port)

/-- FAB_PORT_CMD = 2: the port's counters cleared (R145). -/
def clearPortCounters (s : State) (port : Nat) : State :=
  s.odClear fun idx sub i =>
    (idx == 0x4001 && i == port) || (idx == 0x4010 && (sub == 4 || sub == 5) && i / 32 == port)

/-- PORT_CLEAR_COUNTERS (R145). -/
def execPortClearCounters (who : Who) (port : Nat) (s : State) : Host.Outcome State Fault Refusal :=
  .next (s.guard who R.FAB_PORT_CMD port 2 fun s => done (clearPortCounters s port))

/-- FAB_LANE_OUT_CLR: an Out lane may return at the next full retrain (R132). -/
def outClr (s : State) (i : Nat) : Written :=
  done (s.modPort (i / 32) fun o => { o with outClr := addNew o.outClr (i % 32) })

/-- FAB_LANE_OUT_CLR (R132). -/
def execFabLaneOutClr (who : Who) (inst value : Nat) (s : State) : Host.Outcome State Fault Refusal :=
  .next (s.guard who R.FAB_LANE_OUT_CLR inst value fun s => outClr s inst)

/-- TRAINING_ATTEMPT_FAIL (R128): the third takes the port Down. -/
def execTrainingAttemptFail (port stage lane : Nat) (noSignal : Bool) (s : State) :
    Host.Outcome State Fault Refusal :=
  if s.rd R.FAB_PORT_STATE port ≠ 1 then .next s
  else
    let n := (s.port port).attempts + 1
    let s1 := (s.record 0x6003 (uPort port) [(1, stage), (1, lane)]).modPort port fun o =>
      { o with attempts := n, fecUp := false, helloSent := false }
    .next (if 3 ≤ n then goDown s1 port (if noSignal then 2 else 1) else s1)

/-- PORT_DOWN_RETRY (R128): 1 s after the port went Down, or after the last try where no training could begin. -/
def execPortDownRetry (port : Nat) (s : State) : Host.Outcome State Fault Refusal :=
  .next (if s.rd R.FAB_PORT_STATE port = 3 ∧ s.rd R.FAB_PORT_ADMIN port = 1 ∧ (s.port port).retryNs + 1000000000 ≤ s.now then
    startTrain (s.modPort port fun o => { o with retryNs := s.now }) port .full
  else s)

/-! ### Lanes (R131 to R136) -/

/-- A receive lane goes Out. -/
def laneOut (s : State) (port l : Nat) : State :=
  let s1 := (s.wr R.FAB_LANE_STATE (laneKey port l) lOut).wr R.FAB_LANE_ROLE (laneKey port l) 0xFF
  penOnce (s1.bumpSat R.LIFE_LANE_OUT 0 1) (uPort port) (pcLane l) 150

/-- A lane found faulty: its cause and event (R131, R146). -/
def laneFaulty (s : State) (port l cause : Nat) : State :=
  (s.wr R.FAB_LANE_CAUSE (laneKey port l) cause).record 0x6010 (uPort port)
    [(1, l), (1, cause), (4, s.rd R.FAB_LANE_WINDOW (laneKey port l))]

/-- Faulty lanes that must leave now: Ready ones go Out; Active ones move to spares by a fast retrain, or, when
they outnumber the spares, the width is reduced (R132, R134, R136). -/
def lanesLeave (s : State) (port : Nat) (ls : List Nat) : State :=
  let act := sortNat (ls.filter fun l => s.lane port l == lActive)
  let s1 := s.each (ls.filter fun l => s.lane port l == lReady) fun t l => laneOut t port l
  let o := s1.port port
  let used := match o.fastRx with
    | some f => f.moves.map fun (m : LaneMove) => m.spare
    | none => []
  let ready := (s1.lanesIn port lReady).filter fun l => !used.contains l
  if act = [] then s1
  else if ready.length < act.length then startTrain (s1.each act fun t l => laneOut t port l) port .width
  else
    let moves := (act.zip ready).map fun e => ({ lane := e.1, spare := e.2 } : LaneMove)
    match o.fastRx with
    | none => ctlSend (s1.modPort port fun o => { o with fastRx := some { moves := moves, sinceNs := s1.now } }) port (.spareReq moves)
    | some f =>
      if f.gone then
        s1.modPort port fun o =>
          { o with pendingMoves := o.pendingMoves ++ act.map fun l => (l, s1.rd R.FAB_LANE_CAUSE (laneKey port l)) }
      else
        ctlSend (s1.modPort port fun o => { o with fastRx := some { f with moves := f.moves ++ moves } }) port
          (.spareReq moves)

/-- Receive lanes found faulty by a cause: recorded, and moved at once or, by policy, at the next stop (R135). -/
def laneFaults (s : State) (port cause : Nat) (ls : List Nat) : State :=
  let o := s.port port
  let leaving := match o.fastRx with
    | some f => f.moves.map fun (m : LaneMove) => m.lane
    | none => []
  let wait := s.rd R.FAB_SPARE_POLICY port == 1 && (cause == 1 || cause == 3)
  let new := ls.filter fun l =>
    (s.lane port l == lActive || s.lane port l == lReady) && !leaving.contains l &&
      !(wait && o.pendingMoves.any fun e => e.1 == l)
  let s1 := s.each new fun t l => laneFaulty t port l cause
  let hold := new.filter fun l => wait && s.lane port l == lActive
  let now := new.filter fun l => !(wait && s.lane port l == lActive)
  let s2 := s1.modPort port fun o =>
    { o with
      pendingMoves := (o.pendingMoves.filter fun e => !now.contains e.1) ++ hold.map fun l => (l, cause) }
  lanesLeave s2 port now

/-- The moves that waited for a stop of the domain made on the ports that are Up (R135), offers for the port's own wavelengths
with them. -/
def spareAtStop (s : State) : State :=
  s.each ((List.range 6).filter fun p => s.portUp p) fun t port =>
    let o := t.port port
    let t1 := t.modPort port fun o => { o with pendingMoves := [], pendingOffers := [] }
    let t2 := t1.each o.pendingOffers fun u e => ctlSend u port (.spareOffer e.1 e.2)
    if o.pendingMoves = [] then t2 else lanesLeave t2 port (o.pendingMoves.map (·.1))

/-- LANE_WINDOW_END (R131). -/
def execLaneWindowEnd (port : Nat) (counts : List (Nat × Nat)) (s : State) : Host.Outcome State Fault Refusal :=
  let s1 := s.each counts fun t c =>
    (t.bumpSat R.FAB_LANE_FECSYM (laneKey port c.1) c.2).wr R.FAB_LANE_WINDOW (laneKey port c.1) c.2
  .next (if s.portUp port then
    laneFaults s1 port 1 ((counts.filter fun c => decide (s.rd R.FAB_LANE_THR 0 < c.2)).map (·.1))
  else s1)

/-- LOSS_OF_LOCK (R128, R131): of every lane, the port goes Down and the lanes keep their states (R136). -/
def execLossOfLock (port : Nat) (lanes : List Nat) (s : State) : Host.Outcome State Fault Refusal :=
  .next (if s.portUp port = false then s
  else if (s.lanesIn port lActive ++ s.lanesIn port lReady).all fun l => lanes.contains l then goDown s port 2
  else laneFaults s port 2 lanes)

/-- SPARE_REQ received by the transmitter: SPARE_GO follows at the next flit boundary; requests made before it
passes join it (R133, R136). -/
def spareReqRx (s : State) (port : Nat) (moves : List LaneMove) : State :=
  if s.portUp port = false then s
  else
    s.modPort port fun o =>
      let held := o.ctlq.any fun c =>
        match c with
        | .spareGo _ => true
        | _ => false
      if held then
        { o with
          ctlq := o.ctlq.map fun c =>
            match c with
            | .spareGo m => .spareGo (m ++ moves)
            | x => x }
      else { o with ctlq := .spareGo moves :: o.ctlq }

/-- SPARE_REQ (R132). -/
def execSpareReq (port : Nat) (moves : List LaneMove) (s : State) : Host.Outcome State Fault Refusal :=
  .next (spareReqRx s port moves)

/-- SPARE_OFFER received: the receiver's lane leaves, by the cause offered, and SPARE_REQ answers (R131, R132). -/
def spareOfferRx (s : State) (port : Nat) (o : Offer) : State :=
  if s.portUp port = true ∧ (s.lane port o.lane = lActive ∨ s.lane port o.lane = lReady) then
    lanesLeave (laneFaulty s port o.lane o.cause) port [o.lane]
  else s

/-- SPARE_OFFER (R132). -/
def execSpareOffer (port : Nat) (o : Offer) (s : State) : Host.Outcome State Fault Refusal := .next (spareOfferRx s port o)

/-- The receiver takes the logical lanes over on their spares (R133). -/
def switchLanes (s : State) (port : Nat) (moves : List LaneMove) : State :=
  s.each moves fun t m =>
    let role := t.rd R.FAB_LANE_ROLE (laneKey port m.lane)
    ((laneOut t port m.lane).wr R.FAB_LANE_STATE (laneKey port m.spare) lActive).wr R.FAB_LANE_ROLE
      (laneKey port m.spare) role

/-- SPARE_GO received: the lanes switch, unless the markers have switched them already (R133). -/
def spareGoRx (s : State) (port : Nat) (moves : List LaneMove) : State :=
  match (s.port port).fastRx with
  | some f =>
    if s.portUp port = true ∧ f.gone = false then
      (switchLanes s port moves).modPort port fun o => { o with fastRx := some { f with gone := true, moves := moves } }
    else s
  | none => s

/-- SPARE_GO (R133). -/
def execSpareGo (port : Nat) (moves : List LaneMove) (s : State) : Host.Outcome State Fault Refusal :=
  .next (spareGoRx s port moves)

/-- What follows a fast retrain: lanes that became faulty meanwhile, then a full retrain asked for (R136). -/
def afterFast (s : State) (port : Nat) : State :=
  let o := s.port port
  let due := o.pendingMoves.filter fun e =>
    !(s.rd R.FAB_SPARE_POLICY port == 1 && (e.2 == 1 || e.2 == 3))
  let s1 := s.modPort port fun o => { o with pendingMoves := o.pendingMoves.filter fun e => !due.contains e }
  let s2 := if due = [] then s1 else lanesLeave s1 port (due.map (·.1))
  if o.fullAfter ∧ o.fastTx = none ∧ (s2.port port).fastRx = none then
    startTrain (s2.modPort port fun o => { o with fullAfter := false }) port .full
  else s2

/-- A direction's width reduced, or restored (R134, R293). -/
def noteWidth (s : State) (port : Nat) (tx : Bool) (w : Nat) : State :=
  let old := s.rd (if tx then R.FAB_PORT_WIDTH_TX else R.FAB_PORT_WIDTH_RX) port
  let s1 := s.wr (if tx then R.FAB_PORT_WIDTH_TX else R.FAB_PORT_WIDTH_RX) port w
  if w = redWidth port ∧ old ≠ w then
    penOnce (s1.record 0x6012 (uPort port) [(1, b2n tx), (1, w)]) (uPort port) pcWidth 400
  else if s1.rd R.FAB_PORT_WIDTH_TX port = fullWidth port ∧ s1.rd R.FAB_PORT_WIDTH_RX port = fullWidth port ∧
      (s1.penalty (uPort port)).fixed.any (fun e => e.1 == pcWidth) = true then
    penUnfix s1 (uPort port) pcWidth
  else s1

/-- Receive lanes given their logical lanes: the first `w` of `ls` Active, the rest Ready. -/
def setLanes (s : State) (port w : Nat) (ls : List Nat) : State :=
  let act := sortNat (ls.take w)
  let s1 := s.each (ls.drop w) fun t l =>
    (t.wr R.FAB_LANE_STATE (laneKey port l) lReady).wr R.FAB_LANE_ROLE (laneKey port l) 0xFF
  s1.each ((List.range act.length).zip act) fun t e =>
    (t.wr R.FAB_LANE_STATE (laneKey port e.2) lActive).wr R.FAB_LANE_ROLE (laneKey port e.2) e.1

/-- Transmit lanes as the partner's receiver has them; a wavelength that a new laser module has returned is Ready (R132). -/
def setTxLanes (s : State) (port : Nat) (given : List Nat) : State :=
  let fresh := (s.port port).relit
  let sts := (List.range given.length).map fun l =>
    if fresh.contains l ∧ getAt lIdle given l = lOut then lReady else getAt lIdle given l
  let act := (List.range sts.length).filter fun l => getAt lIdle sts l == lActive
  noteWidth (s.modPort port fun o =>
    { o with
      txLanes := (List.range sts.length).map fun l => (l, getAt lIdle sts l),
      txRoles := (List.range act.length).map fun k => (getAt 0 act k, k) }) port true act.length

/-- A direction at its reduced width on the lowest lanes that pass, or the port Down; receive lanes that fail go Out with cause 5
(R131, R134). -/
def widthReduce (s : State) (port : Nat) (tx : Bool) (pass : List Nat) : State :=
  if s.rd R.FAB_PORT_STATE port ≠ 1 ∨ (s.port port).train ≠ some .width then s
  else
    let w := redWidth port
    let all := List.range (nLanes port)
    if tx then
      let ok := all.filter fun l => pass.contains l && mapGet 0 (s.port port).txLanes l != lOut
      if ok.length < w then goDown s port 1
      else
        setTxLanes s port (all.map fun l => if (ok.take w).contains l then lActive else if ok.contains l then lReady else lOut)
    else
      let ok := all.filter fun l => pass.contains l && s.lane port l != lOut
      let lost := all.filter fun l => !pass.contains l && s.lane port l != lOut
      let s1 := s.each lost fun t l => laneOut (laneFaulty t port l 5) port l
      if ok.length < w then goDown s1 port 1 else noteWidth (setLanes s1 port w ok) port false w

/-- WIDTH_REDUCTION (R134). -/
def execWidthReduction (port : Nat) (tx : Bool) (pass : List Nat) (s : State) : Host.Outcome State Fault Refusal :=
  .next (widthReduce s port tx pass)

/-! ### Clock syntonization (R137, R138) -/

/-- The clock depth told on every Up port (R138). -/
def tellDepth (s : State) : State :=
  s.each ((List.range 6).filter fun p => s.portUp p) fun t p => ctlSend t p (.depth (t.rd R.FAB_CLK_DEPTH 0))

/-- Holdover entered (R137); the record's source is the last upstream's port (R146). -/
def holdover (s : State) (last : Nat) : State := (s.wr R.FAB_CLK_STATE 0 1).record 0x6030 (uPort last) [(1, last)]

/-- A clock loop found at the upstream port (R138). -/
def clockLoop (s : State) (port d : Nat) : State := holdover (s.record 0x6032 (uPort port) [(1, d)]) port

/-- A new upstream port followed, and the clock depth told, or a clock loop found (R138). -/
def followPort (s : State) (port : Nat) : State :=
  let d := (s.port port).clockDepth
  let s1 := s.modRouter fun r => { r with clkPort := some port }
  if 253 ≤ d then clockLoop s1 port d
  else tellDepth ((s1.wr R.FAB_CLK_STATE 0 3).wr R.FAB_CLK_DEPTH 0 (d + 1))

/-- A neighbour's clock depth received (R138). -/
def depthRx (s : State) (port d : Nat) : State :=
  let s1 := s.modPort port fun o => { o with clockDepth := d }
  if s.router.clkPort ≠ some port ∨ s.rd R.FAB_CLK_STATE 0 = 2 then s1
  else if 253 ≤ d then clockLoop s1 port d
  else if s.rd R.FAB_CLK_DEPTH 0 = d + 1 then s1
  else tellDepth (s1.wr R.FAB_CLK_DEPTH 0 (d + 1))

/-- The upstream port changed from one to another, with its record (R137, R146). -/
def switchClock (s : State) (old new : Nat) : State :=
  followPort (if old = new then s else s.record 0x6031 (uPort new) [(1, old), (1, new)]) new

/-- The alternate port when it is Up, else holdover (R137). -/
def upstreamLoss (s : State) : State :=
  match s.router.clkPort with
  | none => s
  | some old =>
    let alt := s.rd R.FAB_CLK_ALT 0
    if alt < 6 ∧ alt ≠ old ∧ s.portUp alt = true then switchClock s old alt else holdover s old

/-- A port that has entered Up is followed again where FAB_CLK_UP names it and the clock has left it, and the alternate port where
the clock is in holdover (R137, log 40). -/
def clockBack (s : State) (port : Nat) : State :=
  let st := s.rd R.FAB_CLK_STATE 0
  if s.rd R.FAB_CLK_UP 0 = port ∧ st ≠ 2 then
    if s.router.clkPort = some port ∧ st ≠ 1 then s else switchClock s (s.router.clkPort.getD port) port
  else if s.rd R.FAB_CLK_ALT 0 = port ∧ st = 1 then switchClock s (s.router.clkPort.getD port) port
  else s

/-- CLOCK_UPSTREAM_LOSS (R137): the upstream port has left Up, or its recovered clock is lost. -/
def execClockUpstreamLoss (left : Bool) (s : State) : Host.Outcome State Fault Refusal :=
  match s.router.clkPort with
  | none => .next s
  | some p => .next (if left = true ∧ s.portUp p = true then s else upstreamLoss s)

/-- FAB_CLK_UP written: the root takes its own reference, another chip the named port (R137). -/
def clkUp (s : State) (v : Nat) : Written :=
  let s1 := s.wr R.FAB_CLK_UP 0 v
  if v = 7 then
    done (tellDepth (((s1.modRouter fun r => { r with clkPort := none }).wr R.FAB_CLK_STATE 0 2).wr R.FAB_CLK_DEPTH 0 0))
  else done (followPort s1 v)

/-- FAB_CLK_UP (R137). -/
def execFabClkUp (who : Who) (value : Nat) (s : State) : Host.Outcome State Fault Refusal :=
  .next (s.guard who R.FAB_CLK_UP 0 value fun s => clkUp s value)

/-- CLOCK_LOCK_ACQUIRED (R137). -/
def execClockLockAcquired (s : State) : Host.Outcome State Fault Refusal :=
  .next (if s.rd R.FAB_CLK_STATE 0 = 3 then s.wr R.FAB_CLK_STATE 0 (if s.router.clkPort = none then 2 else 0) else s)

end Sys2Proof.Machine
end

