-- ==== Sys2Proof/Machine/Seal.lean ====
section
/-! DEFINITION. The run and its start, the seal, rollback and restart (R187, R252 to R265, R282 to R284). -/

namespace Sys2Proof.Machine

open Sys2Proof

/-! ### Steps (R249, R265) -/

/-- The step before a step; all ones, none, before step 0. -/
def prevStep (n : Nat) : Nat := (n + 0xFFFFFFFF) % 2 ^ 32

/-- The step after a sealed one. -/
def nextStep (n : Nat) : Nat := (n + 1) % 2 ^ 32

/-- Whether a partition's plan has buddy copies, and whether it runs in compatibility mode (R59, R256). -/
def State.hasBuddy (s : State) (p : Nat) : Bool := bitOf (imgFlags (s.img p)) 0
def State.compat (s : State) (p : Nat) : Bool := bitOf (imgFlags (s.img p)) 1

/-- The fabric chip of a partition's buddy (R247): SEAL_BUDDY, or the X+ neighbour. -/
def State.buddyChip (s : State) (p : Nat) : Nat :=
  if s.rd R.SEAL_BUDDY p = 0xFFFFFFFF then s.beyond 0 else s.rd R.SEAL_BUDDY p

/-- The lead of the root's decisions in nanoseconds (R283). -/
def leadNs (s : State) (p : Nat) : Nat := 2500 * treeDepth (s.domOf p) (s.root p) + 1000 * s.rd R.CLV_T0_MARGIN_US p

/-- An instant of network time as seconds and nanoseconds. -/
def secOf (t : Int) : Nat := t.toNat / 1000000000
def nsOf (t : Int) : Nat := t.toNat % 1000000000

/-- The instant of seconds given by their low 32 bits, and nanoseconds. -/
def instant (s : State) (sec ns : Nat) : Int := (nearSec s.time.sec sec * 1000000000 + ns : Nat)

/-- The step boundary of the step under way: its last sync point (R67). -/
def boundary (s : State) (p : Nat) : Int :=
  ((s.part p).t0Ns.getD s.now) + (syncOffset (s.img p) (imgSegments (s.img p) - 1) : Nat)

/-- A message to the parent, or to every child. -/
def toParent (s : State) (p : Nat) (b : ClvBody) : State :=
  match s.parent p with
  | some r => clvRank s p r b
  | none => s
def toChildren (s : State) (p : Nat) (b : ClvBody) : State := s.each (s.children p) fun t r => clvRank t p r b

/-- Whether the chip has a rank in a partition's domain. -/
def State.inDomain (s : State) (p : Nat) : Bool :=
  (s.dslot s.injVer (s.tagOf p)).isNone || (s.rankOf (s.tagOf p) s.me).isSome

/-! ### Deltas and the buddy state (R248 to R253) -/

/-- Pages of deltas up to a step that the buddy has not acknowledged. -/
def deltaLeft (q : Part) (step : Nat) : List (Nat × Nat) :=
  (q.toSend ++ q.unacked).filter fun e => decide (e.1 ≤ step)

/-- SEAL_BUDDY_SEAL brought up to date: the newest step complete at the buddy. -/
def buddySeal (s : State) (p : Nat) : State :=
  let st := s.rd R.SEAL_BUDDY_STATE p
  let q := s.part p
  let last := if s.pstate p = psStopped then s.rd R.SEAL_STEP p else s.rd R.SEAL_LAST p
  if st = bCurrent ∨ st = bBehind then
    s.wr R.SEAL_BUDDY_SEAL p (((q.toSend ++ q.unacked).map fun e => prevStep e.1).foldl min last)
  else s

/-- A copy that is Behind and has every delta up to the last seal is Current (R250). -/
def catchUp (s : State) (p : Nat) : State :=
  let q := s.part p
  if s.rd R.SEAL_BUDDY_STATE p = bBehind ∧ deltaLeft q (s.rd R.SEAL_LAST p) = [] ∧ q.between = [] ∧
      (q.betweenSent = [] ∨ (q.toSend ++ q.unacked) = []) then
    (setBuddyState s p bCurrent 6).record 0xA007 uFcc [(4, s.rd R.SEAL_LAST p)]
  else s

/-- Filling begun, from the first page (R250). -/
def fillStart (s : State) (p cause : Nat) : State :=
  (setBuddyState s p bFilling cause).modPart p fun q =>
    { q with fillNext := 0, fillUnacked := [], toSend := [], unacked := [] }

/-- The copy gone (R250, R263). -/
def buddyNone (s : State) (p cause : Nat) : State :=
  (setBuddyState s p bNone cause).modPart p fun q =>
    { q with fillNext := 0, fillUnacked := [], toSend := [], unacked := [], between := [], betweenSent := [] }

/-! ### Steps begin and end -/

/-- A block outside a step: nothing issues. -/
def blockIdle (k : Block) : Block :=
  { k with
    released := false, ended := false, syncDone := false, waiting := none, noIssue := false, loops := [], pc := 0,
    seqNo := 0, arrivals := [],
    seqA := { k.seqA with buffer := [], nextSeg := 0, nextNo := 0 },
    seqB := { k.seqB with buffer := [], nextSeg := 0, nextNo := 0 } }

/-- Every block of a partition outside a step. -/
def stopBlocks (s : State) (p : Nat) : State := s.each (s.blocksOf p) fun t b => t.modBlock b blockIdle

/-- A step and run begin at their T0 (R67), at their clock (R311). -/
def stepBegin (s : State) (p step run sec ns : Nat) : State :=
  let s1 := ((s.wr R.CMP_PLAN_STATE p psRunning).wr R.SEAL_STEP p step).wr R.SEAL_RUN p run
  let s2 := (stopBlocks s1 p).modPart p fun q =>
    { q with
      t0 := some (nearSec s.time.sec sec, ns), resumed := true, verdict := {}, ownVote := none, childVotes := [],
      deltaExpired := false, journalFull := false, written := [], final := [], early := [], haltSlip := false,
      replay := none, restored := false, rolledFrom := [], execNo := q.execNo + 1 }
  setClock s2 p

/-- The run ended: its command completes with its last sealed step (R187). -/
def runEnd (s : State) (p state status reason : Nat) : State :=
  let q := s.part p
  let s1 := ((stopBlocks s p).wr R.CMP_PLAN_STATE p state).modPart p fun q =>
    { q with
      run := none, t0 := none, resumed := false, readyOwn := false, stop := false, haltSlip := false, haltAlarm := false,
      ownVote := none, childVotes := [], replay := none, restored := false, rolledFrom := [], delayed := none }
  match q.run with
  | some m => moverDone s1 m status reason (s.rd R.SEAL_LAST p)
  | none => s1

/-- Journal pages given up and zeroed (R245): the segments of steps from `from_` on. -/
def jnlZero (s : State) (p from_ : Nat) : State :=
  let out := (s.part p).journal.filter fun g => decide (from_ ≤ g.step)
  let s1 := s.each out fun t g => t.each g.entries fun u e => u.clear (jnlAddr u p e.jpage) pageBytes
  jnlCount (s1.modPart p fun q => { q with journal := q.journal.filter fun g => decide (g.step < from_) }) p

/-- A restart from host storage is required (R264). -/
def restart (s : State) (p cause : Nat) : State :=
  let s1 := s.record 0xA003 uFcc [(4, s.rd R.SEAL_STEP p), (4, s.rd R.SEAL_PROT p), (1, 4)]
  let s2 := transfersLanded ((jnlZero s1 p 0).modPart p fun q => { q with held := [], written := [] }) p
  runEnd (s2.record 0xA010 uFcc [(1, cause), (4, s.rd R.SEAL_LAST p)]) p psHalted 3 0x0708

/-! ### What a stop of the domain applies (R99, R135, R233, R235) -/

/-- A bank row's spare: the lowest of the eight that no remap of the bank uses. -/
def freeSpare (s : State) (b bank : Nat) : Option Nat :=
  (List.range 8).find? fun k =>
    !s.msys.remaps.any fun r => r.block == b && r.line % 32 == bank && r.spare == k

/-- The descriptor table of a block as far as a line holds it, written again (R99). -/
def rewriteTable (s : State) (b line : Nat) : State :=
  let im := s.img (s.partOf b)
  let j := s.planBlock b
  let first := descLine im j
  let bs := descBytes im j
  if s.hasPlan (s.partOf b) ∧ first ≤ line ∧ 128 * (line - first) < bs.length then
    s.write (sramBase b + 128 * line) ((bs.drop (128 * (line - first))).take 128)
  else s

/-- A line remapped to a spare row (R99): it reads as zeros; a bank without a spare row costs the chip. -/
def remapLine (s : State) (r : Nat × Nat × Nat) : State :=
  let b := r.1
  let line := r.2.1
  match freeSpare s b (line % 32) with
  | some k =>
    let s1 := (s.modMsys fun m =>
      { m with remaps := m.remaps ++ [{ block := b, line := line, spare := k }] }).bumpSat R.MEM_SRAM_SPARES b 1
    let s2 := rewriteTable (s1.clear (sramBase b + 128 * line) 128) b line
    penFixed (s2.record 0x5003 (uBlock b) [(2, line), (2, k), (1, r.2.2)]) (uBlock b) pcRemap 40
  | none => fenceChip (s.record 0x5004 uFcc [(1, b), (1, line % 32)])

/-- The remaps that waited for a stop of a partition's domain. -/
def remapAtStop (s : State) (p : Nat) : State :=
  let mine := s.msys.toRemap.filter fun r => s.partOf r.1 == p
  (s.modMsys fun m => { m with toRemap := m.toRemap.filter fun r => s.partOf r.1 != p }).each mine remapLine

/-- CS in the place of a cell (R235); a second cell of the block costs the chip. -/
def substitute (s : State) (e : Nat × Nat × Nat) : State :=
  let b := e.1
  if s.rd R.CHK_SUBST b = 0xFF then
    let s1 := (s.wr R.CHK_SUBST b e.2.1).modMsys fun m => { m with substs := m.substs ++ [(b, e.2.1)] }
    penFixed (s1.record 0x9010 uFcc [(1, b), (1, e.2.1)]) (uBlock b) pcSubst 600
  else if s.rd R.CHK_SUBST b = e.2.1 then s
  else fenceChip (s.record 0x9007 uFcc [(1, b), (2, e.2.2), (1, 2)])

/-- Substitutions of a list, of each block the lowest cell first. -/
def substAtStop (s : State) (p : Nat) : State :=
  let mine := s.msys.toSubst.filter fun e => s.partOf e.1 == p
  let s1 := s.modMsys fun m => { m with toSubst := m.toSubst.filter fun e => s.partOf e.1 != p }
  s1.each [0, 1, 2, 3, 4] fun t c => t.each (mine.filter fun e => e.2.1 == c) substitute

/-! ### Rollback (R258 to R261) -/

/-- The instants of rollbacks within the packet life. -/
def recentRolls (s : State) (p : Nat) : List Int :=
  (s.part p).rollbacks.filter fun t => decide (s.now < t + (1000000 * s.rd R.FAB_PKT_LIFE_MS 0 : Nat))

/-- Buddy areas hosted for a partition's domain: those of its plan. -/
def areaOf (s : State) (p : Nat) (a : BuddyArea) : Bool := a.digest == imgDigest (s.img p)

/-- What steps from `from_` on sent to a buddy, and what hosted areas have staged of them, given up (R260). -/
def giveUp (s : State) (p from_ : Nat) : State :=
  let t := s.modPart p fun x =>
    { x with
      toSend := x.toSend.filter fun e => decide (e.1 < from_), unacked := x.unacked.filter fun e => decide (e.1 < from_) }
  t.setBuddies (t.buddies.map fun a =>
    if areaOf s p a then { a with stage := a.stage.filter fun d => decide (d.step < from_) } else a)

/-- A rollback started (R260, R261): issue stops, the generation advances, and what the abandoned steps sent is
given up. -/
def rollBegin (s : State) (p from_ : Nat) (halt : Bool) : State :=
  let q := s.part p
  let meth := if s.rd R.SEAL_JNL_STATE p = 1 then 2 else 1
  let st := s.rd R.SEAL_BUDDY_STATE p
  let step := s.rd R.SEAL_STEP p
  if meth = 2 ∧ (st = bNone ∨ st = bFilling) then restart s p 3
  else
    let s1 := s.record 0xA003 uFcc [(4, s.rd R.SEAL_STEP p), (4, prevStep from_), (1, meth)]
    let s2 := ((stopBlocks s1 p).wr R.CMP_PLAN_STATE p psStopped).modPart p fun x =>
      { x with
        runGen := (x.runGen + 1) % 16, rollbacks := recentRolls s p ++ [s.now], rollbackNs := s.now, delayed := none,
        tries := if q.verdict.slip then mapPut x.tries step (mapGet 0 x.tries step + 1) else x.tries,
        seals := x.seals - (step - from_), t0 := none, ownVote := none, childVotes := [],
        replay := some from_, restored := false, rolledFrom := [], fromBuddy := decide (meth = 2), haltAfter := halt,
        between := x.betweenSent.foldl addNew x.between, betweenSent := [] }
    let s3 := s2.each (s.blocksOf p) fun t b => t.modBlock b fun k => { k with norms := [] }
    giveUp (s3.modRouter fun r => { r with colls := r.colls.filter fun c => c.part != p }) p from_

/-- A rollback to the seal before a step (R258). One under way takes the earlier target (R267); a sixteenth within the
packet life waits (R260). -/
def rollback (s : State) (p from_ : Nat) (halt : Bool) : State :=
  let q := s.part p
  match q.replay with
  | some r =>
    if from_ < r then
      giveUp (s.modPart p fun x =>
        { x with
          replay := some from_, restored := false, rolledFrom := [], haltAfter := halt || x.haltAfter,
          seals := x.seals - (r - from_) }) p from_
    else s
  | none =>
    if 15 ≤ (recentRolls s p).length then
      (stopBlocks s p).modPart p fun x =>
        { x with delayed := some (min from_ ((x.delayed.map (·.1)).getD from_), halt), t0 := none }
    else rollBegin s p from_ halt

/-- DELAYED_ROLLBACK_START (R260). -/
def delayedStart (s : State) (p : Nat) : State :=
  match (s.part p).delayed with
  | some (f, h) => if (recentRolls s p).length < 15 then rollBegin s p f h else s
  | none => s

/-- DELAYED_ROLLBACK_START (R260). -/
def execDelayedRollbackStart (part : Nat) (s : State) : Host.Outcome State Fault Refusal := .next (delayedStart s part)

/-- A journal entry's page written back, with the writes made to it between steps since (R257); its journal page zeroed. -/
def undoPage (s : State) (p a : Nat) (e : JournalEntry) : State :=
  let back := s.copyMem (jnlAddr s p e.jpage) a pageBytes
  (back.each e.later fun t w => t.store w.addr w.data w.poison).clear (jnlAddr s p e.jpage) pageBytes

/-- The undo of a segment: its pages written back, its journal pages zeroed (R245, R259). -/
def undoSeg (s : State) (p : Nat) (g : JournalSeg) : State :=
  s.each g.entries fun t e =>
    match t.pageAddr p e.page with
    | some a => undoPage t p a e
    | none => t

/-- The segments of a journal from a step on, newest first. -/
def segsFrom (q : Part) (from_ : Nat) : List JournalSeg :=
  let l := q.journal.filter fun g => decide (from_ ≤ g.step)
  (sortNat (l.map (·.step))).reverse.map fun n => segOf q n

/-- A page written from its image. -/
def putPage (s : State) (p : Nat) (e : Nat × PageImage) : State :=
  match s.pageAddr p e.1 with
  | some a =>
    let t := s.clear a pageBytes
    let m := e.2.bytes.foldl (fun m c => mapSet 0 m (a + c.1 % pageBytes) c.2) t.mem
    (t.setMem m).setPoison (t.poison ++ e.2.bad.map fun w => a / 8 + w % 8192)
  | none => s

/-- Whether movers, journal copies or a merge of a partition hold its restore up (R249, R261). -/
def restoreBusy (s : State) (p : Nat) : Bool :=
  ((s.blocksOf p).any fun b => (s.block b).movers.any fun e => e.2 != []) || (s.part p).held != [] ||
    s.buddies.any fun a => areaOf s p a && a.merging.isSome

/-- The number of chips of a partition's domain (R62). -/
def State.chips (s : State) (p : Nat) : Nat := fpChips (s.img p)

/-- The step and run that a RESUME names begin (R283, R284). -/
def resumeAct (s : State) (p : Nat) (m : ResumeMsg) : State :=
  let q := s.part p
  if q.replay = some m.step ∨ (q.replay = none ∧ q.resumed = false ∧ s.pstate p = psRunning ∧
      m.step = s.rd R.SEAL_STEP p ∧ m.run = s.rd R.SEAL_RUN p) then
    (stepBegin s p m.step m.run m.t0sec m.t0ns).modPart p fun x => { x with readyFrom := [], readyUp := 0, readyBad := [] }
  else s

/-- A RESUME passed down the tree, then acted on. -/
def resume (s : State) (p : Nat) (m : ResumeMsg) : State := resumeAct (toChildren s p (.resume m)) p m

/-- ROLLED sent up once the restore of the chip and of every child is complete; at the root, RESUME (R283). -/
def sendRolled (s : State) (p : Nat) : State :=
  let q := s.part p
  match q.replay with
  | none => s
  | some from_ =>
    let good := (s.children p).filterMap fun c =>
      (q.rolledFrom.find? fun e => e.1 == c && e.2.target == prevStep from_ && e.2.gen == q.runGen).map (·.2.count)
    let count := 1 + good.foldl (· + ·) 0
    if q.restored = false ∨ s.inDomain p = false ∨ good.length ≠ (s.children p).length then s
    else if (s.parent p).isSome then toParent s p (.rolled { target := prevStep from_, gen := q.runGen, count := count })
    else if count = s.chips p then
      let t := s.now + (leadNs s p : Nat)
      resume s p { step := from_, run := (s.rd R.SEAL_RUN p + 1) % 256, t0sec := secOf t % 2 ^ 32, t0ns := nsOf t }
    else s

/-- ROLLED_RESEND (R283). -/
def execRolledResend (part : Nat) (s : State) : Host.Outcome State Fault Refusal :=
  .next (if (s.parent part).isSome then sendRolled s part else s)

/-- A child's ROLLED (R283). -/
def rolledRx (s : State) (p child : Nat) (m : RolledMsg) : State :=
  if (s.part p).replay.isNone = true ∨ (s.children p).contains child = false then s
  else
    sendRolled (s.modPart p fun q =>
      { q with rolledFrom := (q.rolledFrom.filter fun e => e.1 != child) ++ [(child, m)] }) p

/-- A message of a rank acted on, unless its chip is in the failed set (R280). -/
def fromRank (s : State) (p r : Nat) (f : State → State) : State := if s.isFailed (s.rankChip p r) then s else f s

/-- A message of the parent acted on, unless its chip is in the failed set. -/
def fromParent (s : State) (p : Nat) (f : State → State) : State :=
  match s.parent p with
  | some r => fromRank s p r f
  | none => f s

/-- ROLLED (R283). -/
def execRolled (part child : Nat) (m : RolledMsg) (s : State) : Host.Outcome State Fault Refusal :=
  .next (fromRank s part child fun t => rolledRx t part child m)

/-- RESUME (R283, R284). -/
def execResume (part : Nat) (m : ResumeMsg) (s : State) : Host.Outcome State Fault Refusal :=
  .next (fromParent s part fun t => resume t part m)

/-- The domain halted over a persistent slip (R74); the chip that slipped writes event 0x4011. -/
def slipHalt (s : State) (p : Nat) : State :=
  let last := s.rd R.CMP_SLIP_LAST 0
  let s1 :=
    if (s.part p).haltSlip then
      s.record 0x4011 uFcc [(4, bits last 0 32), (2, bits last 32 16), (1, bits last 96 8)]
    else s
  runEnd s1 p psHalted 3 0

/-- A restore completed (R261): memory, then substitutions, remaps and lane moves, then the marks and counters. -/
def restoreDone (s : State) (p : Nat) (pages : List (Nat × PageImage)) : State :=
  let q := s.part p
  match q.replay with
  | none => s
  | some from_ =>
    if q.restored = true ∨ restoreBusy s p = true then s
    else
      let s1 := s.each (segsFrom q from_) fun t g => undoSeg t p g
      let s2 := jnlCount (s1.modPart p fun x =>
        { x with
          journal := x.journal.filter (fun g => decide (g.step < from_)), final := [], early := [], written := [],
          restored := true }) p
      let s3 := if q.fromBuddy then s2.each pages fun t e => putPage t p e else s2
      let s4 := spareAtStop (remapAtStop (substAtStop s3 p) p)
      let s5 := (s4.each (s.blocksOf p) refillRepeats).wr R.SEAL_LAST p (prevStep from_)
      let s6 := (s5.bumpSat R.SEAL_ROLLBACKS p 1).record 0xA004 uFcc
        [(4, prevStep from_), (4, ((s.now - q.rollbackNs) / 1000000).toNat)]
      let s7 :=
        if s.rd R.SEAL_BUDDY_STATE p = bFilling then
          s6.modPart p fun x => { x with fillNext := 0, fillUnacked := [], toSend := [], unacked := [] }
        else s6
      if q.haltAfter then slipHalt s7 p else sendRolled s7 p

/-- RESTORE_COMPLETE (R261); `pages` is what the buddy streamed (R259). -/
def execRestoreComplete (part : Nat) (pages : List (Nat × PageImage)) (s : State) : Host.Outcome State Fault Refusal :=
  .next (restoreDone s part pages)

/-! ### The commit (R245, R249, R254, R283) -/

/-- The input bits of event 0xA002 (R413). -/
def inputBits (v : Verdict) (listed : Bool) : Nat :=
  b2n (v.check || listed) + 2 * b2n v.poison + 4 * b2n v.slip + 8 * b2n v.planErr + 16 * b2n v.notice

/-- Journal segments up to a protected seal discarded; their pages return without zeroing (R245). -/
def jnlDiscard (s : State) (p prot : Nat) : State :=
  jnlCount ((s.wr R.SEAL_JNL_STATE p 0).modPart p fun q =>
    { q with journal := q.journal.filter fun g => decide (prot < g.step) }) p

/-- Merges begin in the areas hosted for a partition's domain (R249). -/
def mergeBegin (s : State) (p prot : Nat) : State :=
  s.setBuddies (s.buddies.map fun a => if areaOf s p a then { a with merging := some prot } else a)

/-- The sums and watch values of a step sealed (R224, R394). -/
def sealValues (s : State) (p step run : Nat) : State :=
  let s1 := s.each (s.blocksOf p) fun t b => t.modBlock b fun k =>
    { k with
      sealedNorms := k.norms, norms := [], settled := [], streamFaults := 0 }
  s1.setObs { s1.obs with
    watch := s1.obs.watch.map fun w =>
      if w.part = p then { w with sealed := { w.live with step := step, run := run } } else w }

/-- A step sealed: its records, and the journal where the seal is protected (R249, R254, R268). -/
def sealStep (s : State) (p : Nat) (c : Commit) : State :=
  let q := s.part p
  let lat := ((s.now - boundary s p) / 1000).toNat
  let s1 := (((s.wr R.SEAL_LAST p c.step).wr R.SEAL_PROT p c.prot).bumpSat R.SEAL_COUNT p 1).wr R.SEAL_LAT_LAST p
    (min lat 0xFFFFFFFF)
  let s2 := s1.raise R.SEAL_LAT_MAX p (min lat 0xFFFFFFFF)
  let s3 := if c.outcome = 0 then s2 else (s2.bumpSat R.SEAL_UNPROT p 1).record 0xA006 uFcc [(4, c.step), (4, c.prot)]
  let s4 := s3.record 0xA001 uFcc [(4, c.step), (1, b2n (c.outcome = 0)), (4, lat)]
  let s5 := if c.outcome = 0 then mergeBegin (jnlDiscard s4 p c.prot) p c.prot else s4
  let s6 := spareAtStop (remapAtStop (sealValues s5 p c.step c.run) p)
  let s7 := s6.modPart p fun x => { x with
    tries := mapDel x.tries c.step, seals := x.seals + 1, betweenSent := [], written := [] }
  let s8 :=
    if s.rd R.SEAL_BUDDY_STATE p = bFilling ∧ q.fillNext = (keptPages (s.img p)).length ∧ q.fillUnacked = [] ∧
        q.toSend ++ q.unacked = [] then setBuddyState s7 p bCurrent 5
    else catchUp s7 p
  buddySeal s8 p

/-- The domain halted after a seal over a false-alarm limit (R237); the chip whose entry reached it writes event
0x9011. -/
def alarmHalt (s : State) (p : Nat) : State :=
  let last := s.rd R.CHK_FA_LAST 0
  let s1 :=
    if (s.part p).haltAlarm then
      s.record 0x9011 uFcc [(1, bits last 0 8), (2, bits last 8 16), (4, bits last 24 32)]
    else s
  runEnd s1 p psHalted 3 0x0901

/-- A COMMIT acted on: a seal and what follows it, or a rollback. -/
def commitAct (s : State) (p : Nat) (c : Commit) : State :=
  let q := s.part p
  if s.rd R.SEAL_STEP p ≠ c.step ∨ s.rd R.SEAL_RUN p ≠ c.run ∨ s.active p = false then s
  else if c.outcome = 2 then
    let s1 := s.record 0xA002 uFcc [(4, c.step), (1, c.run), (1, inputBits q.verdict (unclassified s p c.step))]
    rollback s1 p (nextStep c.target) (bitOf c.flags 1)
  else if s.pstate p ≠ psStopped ∨ q.replay.isSome = true then s
  else
    let s1 := sealStep s p c
    if bitOf c.flags 1 then alarmHalt s1 p
    else if bitOf c.flags 0 then runEnd s1 p psLoaded q.runStatus 0
    else stepBegin s1 p (nextStep c.step) 1 c.t0sec c.t0ns

/-- A COMMIT passed down the tree, then acted on (R283). -/
def commit (s : State) (p : Nat) (c : Commit) : State := commitAct (toChildren s p (.commit c)) p c

/-- COMMIT (R283). -/
def execCommit (part : Nat) (c : Commit) (s : State) : Host.Outcome State Fault Refusal :=
  .next (fromParent s part fun t => commit t part c)

/-! ### Votes (R252 to R254, R282) -/

/-- Two votes combined. -/
def voteJoin (a b : Vote) : Vote :=
  { a with
    outcome := if a.digest = b.digest then max a.outcome b.outcome else 2,
    flags := (List.range 8).foldl (fun f k => if bitOf a.flags k || bitOf b.flags k then f + 2 ^ k else f) 0,
    count := a.count + b.count, rank := min a.rank b.rank }

/-- The root's decision on the combined vote (R254, R283). -/
def decide_ (s : State) (p : Nat) (v : Vote) : State :=
  let prot := s.rd R.SEAL_PROT p
  let t := s.now + (leadNs s p : Nat)
  let need := bitOf v.flags 3
  commit s p
    { step := v.step, run := v.run, outcome := v.outcome, flags := v.flags,
      target := if v.outcome = 2 then (if need then prot else s.rd R.SEAL_LAST p) else v.step,
      prot := if v.outcome = 0 then v.step else prot, t0sec := secOf t % 2 ^ 32, t0ns := nsOf t }

/-- The vote sent up once the chip's own and every child's are there; at the root, the decision. -/
def sendVote (s : State) (p : Nat) : State :=
  let q := s.part p
  match q.ownVote with
  | none => s
  | some own =>
    let kids := (s.children p).filterMap fun c => (q.childVotes.find? fun e => e.1 == c).map (·.2)
    if kids.length ≠ (s.children p).length then s
    else
      let v := kids.foldl voteJoin own
      if (s.parent p).isSome then toParent s p (.vote v)
      else if v.count = s.chips p then decide_ s p v
      else s

/-- A child's vote; one of a different step or run is late. -/
def voteRx (s : State) (p child : Nat) (v : Vote) : State :=
  let q := s.part p
  if s.active p = false ∨ q.replay.isSome = true ∨ v.step ≠ s.rd R.SEAL_STEP p ∨ v.run ≠ s.rd R.SEAL_RUN p ∨
      (s.children p).contains child = false ∨ (q.childVotes.any fun e => e.1 == child) = true then s
  else sendVote (s.modPart p fun q => { q with childVotes := q.childVotes ++ [(child, v)] }) p

/-- VOTE (R282). -/
def execVote (part child : Nat) (v : Vote) (s : State) : Host.Outcome State Fault Refusal :=
  .next (fromRank s part child fun t => voteRx t part child v)

/-- Whether the step under way is the last that the run may take (R187, R265). -/
def lastStep (s : State) (p : Nat) : Bool :=
  let q := s.part p
  (q.limit != 0 && q.seals + 1 == q.limit) || s.rd R.SEAL_STEP p == 0xFFFFFFFF

/-- The flags of the chip's vote of an outcome (R282). A false-alarm limit halts after a seal alone (R237, R254): a refusal
leaves its HALT flag to the replay's vote. -/
def voteFlags (s : State) (p outcome : Nat) : Nat :=
  let q := s.part p
  b2n (q.stop || lastStep s p) + 2 * b2n (q.haltSlip || (q.haltAlarm && outcome != 2)) + 4 * b2n q.journalFull +
    8 * b2n (s.rd R.SEAL_JNL_STATE p == 1)

/-- The chip's vote formed (R252, R253), once every verdict of the step is there and the delta is complete or no longer
waited for. -/
def sealVote (s : State) (p : Nat) : State :=
  let q := s.part p
  let step := s.rd R.SEAL_STEP p
  let st := s.rd R.SEAL_BUDDY_STATE p
  let refuse := q.verdict != {} || unclassified s p step
  let late := (st == bCurrent || st == bBehind) && (q.toSend ++ q.unacked) != []
  if s.pstate p ≠ psStopped ∨ q.replay.isSome = true ∨ q.delayed.isSome = true ∨ q.ownVote.isSome = true ∨
      s.rd R.CLV_STATE 0 = 1 ∨ ((s.blocksOf p).any fun b => (s.block b).verdicts != []) = true ∨
      (refuse = false ∧ late = true ∧ s.compat p = false ∧ q.deltaExpired = false) then s
  else
    let outcome := if refuse then 2 else if late then 1 else 0
    let own : Vote :=
      { step := step, run := s.rd R.SEAL_RUN p, outcome := outcome, flags := voteFlags s p outcome, count := 1,
        digest := imgDigest (s.img p), rank := if outcome = 2 then s.rank p else 0xFFFFFFFF }
    let s1 := s.wr R.SEAL_VOTE p (outcome + 16 * (own.flags % 8))
    let s2 := if outcome = 1 then setBuddyState s1 p bBehind 7 else s1
    sendVote (s2.modPart p fun q =>
      { q with
        ownVote := some own,
        lateVotes := if outcome = 0 then 0 else if outcome = 1 ∧ s.compat p = false then q.lateVotes + 1 else q.lateVotes }) p

/-- SEAL_VOTE (R252). -/
def execSealVote (part : Nat) (s : State) : Host.Outcome State Fault Refusal := .next (sealVote s part)

/-- The wait for the delta ends (R253), unless it has no limit. -/
def deltaExpiry (s : State) (p : Nat) : State :=
  let q := s.part p
  let ms := s.rd R.SEAL_DELTA_WAIT_MS p
  if s.pstate p ≠ psStopped ∨ q.ownVote.isSome = true ∨ ms = 0 ∨ s.rd R.SEAL_UNPROT_MAX p ≤ q.lateVotes ∨
      s.now < boundary s p + (1000000 * ms : Nat) then s
  else sealVote (s.modPart p fun q => { q with deltaExpired := true }) p

/-- DELTA_WAIT_EXPIRY (R253). -/
def execDeltaWaitExpiry (part : Nat) (s : State) : Host.Outcome State Fault Refusal := .next (deltaExpiry s part)

/-! ### The start of a run (R115, R187, R284) -/

/-- A READY of this chip's run. -/
def readyMsg (s : State) (p count sec ns : Nat) (withdraw : Bool) : ReadyMsg :=
  { step := s.rd R.SEAL_STEP p, run := 1, withdraw := withdraw, count := count, digest := imgDigest (s.img p),
    startSec := sec, startNs := ns }

/-- Whether a READY agrees with the chip's own step and plan. -/
def readySame (s : State) (p : Nat) (m : ReadyMsg) : Bool :=
  m.step == s.rd R.SEAL_STEP p && m.digest == imgDigest (s.img p)

/-- The later of two start instants. -/
def laterStart (s : State) (a b : Nat × Nat) : Nat × Nat := if instant s a.1 a.2 < instant s b.1 b.2 then b else a

/-- The first step's T0 named (R284): START where the tree's lead allows it; else later, with event 0xB007. -/
def nameStart (s : State) (p : Nat) (start : Nat × Nat) : State :=
  let want := instant s start.1 start.2
  let soon := s.now + (leadNs s p : Nat)
  let t := if soon ≤ want then want else soon
  let s1 :=
    if soon ≤ want then s
    else
      s.record 0xB007 uFcc
        [(4, s.rd R.SEAL_STEP p), (1, 1), (1, 0), (2, 0), (4, min ((soon - want) / 1000).toNat 0xFFFFFFFF)]
  resume s1 p { step := s.rd R.SEAL_STEP p, run := 1, t0sec := secOf t % 2 ^ 32, t0ns := nsOf t }

/-- READYs sent up as far as they go: first once the chip's own and every child's are there, then what has come since;
at the root, the start once all chips have reported (R284). -/
def sendReady (s : State) (p : Nat) : State :=
  let q := s.part p
  if q.readyOwn = false ∨ q.resumed = true then s
  else
    let good := q.readyFrom.filter fun e => readySame s p e.2
    let bad := ((q.readyFrom.filter fun e => !readySame s p e.2).map (·.1)).filter fun c => !q.readyBad.contains c
    let total := 1 + (good.map fun e => e.2.count).foldl (· + ·) 0
    let start := good.foldl (fun a e => laterStart s a (e.2.startSec, e.2.startNs)) (q.startSec, q.startNs)
    let all := (s.children p).all fun c => good.any fun e => e.1 == c && decide (0 < e.2.count)
    if (s.parent p).isSome then
      if q.readyUp = 0 ∧ all = false then s
      else if total ≤ q.readyUp then s
      else
        toParent (s.modPart p fun x => { x with readyUp := total }) p
          (.ready (readyMsg s p (total - q.readyUp) start.1 start.2 false))
    else
      let s1 :=
        if bad = [] then s
        else
          (s.record 0xB007 uFcc [(4, s.rd R.SEAL_STEP p), (1, 2), (1, 0), (2, 0), (4, 0)]).modPart p fun x =>
            { x with readyBad := x.readyBad ++ bad }
      if total = s.chips p then nameStart s1 p start else s1

/-- Ranks withdrawn: the root writes event 0xB007, any other rank that has reported them passes it on (R284). -/
def withdrawUp (s : State) (p n : Nat) : State :=
  let q := s.part p
  if (s.parent p).isNone then s.record 0xB007 uFcc [(4, s.rd R.SEAL_STEP p), (1, 3), (1, 0), (2, 0), (4, 0)]
  else if q.readyUp = 0 then s
  else
    toParent (s.modPart p fun x => { x with readyUp := x.readyUp - n }) p
      (.ready (readyMsg s p n q.startSec q.startNs true))

/-- A child's READY: counted, or its count withdrawn (R284). -/
def readyRx (s : State) (p child : Nat) (m : ReadyMsg) : State :=
  if (s.children p).contains child = false then s
  else
    let rest := (s.part p).readyFrom.filter fun e =>
      !(e.1 == child && e.2.step == m.step && e.2.digest == m.digest)
    let old := (s.part p).readyFrom.find? fun e => e.1 == child && e.2.step == m.step && e.2.digest == m.digest
    if m.withdraw then
      match old with
      | none => s
      | some o =>
        let s1 := s.modPart p fun q => { q with readyFrom := rest ++ [(child, { o.2 with count := o.2.count - m.count })] }
        if readySame s p m then withdrawUp s1 p m.count else s1
    else
      let new := match old with
        | none => m
        | some o =>
          let t := laterStart s (o.2.startSec, o.2.startNs) (m.startSec, m.startNs)
          { m with count := o.2.count + m.count, startSec := t.1, startNs := t.2 }
      sendReady (s.modPart p fun q => { q with readyFrom := rest ++ [(child, new)] }) p

/-- READY (R284). -/
def execReady (part child : Nat) (m : ReadyMsg) (s : State) : Host.Outcome State Fault Refusal :=
  .next (fromRank s part child fun t => readyRx t part child m)

/-- A run entered (R187, R250): Running with segment 0 unreleased, the journal of an earlier run given up, the copy
Filling or, where the plan has none, None; READY toward the root. -/
def runStart (s : State) (p : Nat) : State :=
  let step := s.rd R.SEAL_NEXT_STEP p
  let s1 := (((((s.wr R.CMP_PLAN_STATE p psRunning).wr R.SEAL_STEP p step).wr R.SEAL_RUN p 1).wr R.SEAL_LAST p
    (prevStep step)).wr R.SEAL_PROT p (prevStep step)).wr R.SEAL_JNL_STATE p 0
  let s2 := jnlCount ((stopBlocks s1 p).modPart p fun q =>
    { q with
      journal := [], journalFull := false, t0 := none, resumed := false, stop := false, haltSlip := false,
      haltAlarm := false, tries := [], verdict := {}, ownVote := none, childVotes := [], lateVotes := 0, seals := 0,
      written := [], between := [], betweenSent := [], final := [], early := [], readyOwn := true,
      readyUp := if s.rd R.SEAL_STEP p = step then q.readyUp else 0, replay := none, delayed := none, runNo := q.runNo + 1 }) p
  let s3 := s2.each (s.blocksOf p) fun t b => t.modBlock b fun k => { k with falseAlarms := [], norms := [] }
  let s4 := if s.hasBuddy p ∧ s.rd R.SEAL_BUDDY p ≠ 0xFFFFFFFE then fillStart s3 p 1 else buddyNone s3 p 1
  sendReady s4 p

/-- A run that waits for zeroing starts once its partition is zeroed (R115); its timer does not run meanwhile. A pending offset
step applies first, and the start instant is compared with the stepped counter (R213). -/
def tryRun (s : State) (p : Nat) : State :=
  if s.pstate p = psLoaded ∧ (s.part p).run.isSome = true ∧ zeroDone s p = true then runStart (applyStep s) p else s

/-- A run that has not received RESUME ends: the partition is Loaded again, and a READY sent is withdrawn (R284). -/
def runWithdraw (s : State) (p status : Nat) : State :=
  let q := s.part p
  let s1 := if q.readyOwn then withdrawUp (s.modPart p fun x => { x with readyOwn := false }) p 1 else s
  runEnd s1 p psLoaded status 0

/-- A run stopped (R187, R192 to R194, R284): at once before RESUME, else by the STOP flag of the next vote. Once its queue is
disabled it ends with DISABLED, whoever else stops it. -/
def runStop (s : State) (p status : Nat) : State :=
  let q := s.part p
  if s.active p = false ∧ q.run.isNone = true then s
  else if q.resumed = true ∨ q.replay.isSome = true then s.modPart p fun x => { x with stop := true, runStatus := max x.runStatus status }
  else runWithdraw s p status

end Sys2Proof.Machine
end

