-- ==== Sys2Proof/Machine/Buddy.lean ====
section
/-! DEFINITION. Buddy copies: deltas, Filling, merges, spare adoption and fault notices in a partition (R247 to R251,
R262 to R264, R267, R281). -/

namespace Sys2Proof.Machine

open Sys2Proof

/-! ### Sending pages (R248, R250) -/

/-- The content of a page of memory at a chip offset. -/
def pageImage (s : State) (a : Nat) : PageImage :=
  { bytes := (s.mem.filter fun c => decide (a ≤ c.1) && decide (c.1 < a + pageBytes)).map fun c => (c.1 - a, c.2),
    bad := (s.poison.filter fun w => decide (a ≤ 8 * w) && decide (8 * w < a + pageBytes)).map fun w => w - a / 8 }

/-- Where a delta page of a step is read: its journal entry of a later step, the earliest, else live memory. -/
def deltaAddr (s : State) (p step page : Nat) : Option Nat :=
  let q := s.part p
  let later := q.journal.filter fun g => decide (step < g.step) && g.entries.any fun e => e.page == page
  match sortNat (later.map (·.step)) with
  | n :: _ => ((segOf q n).entries.find? fun e => e.page == page).map fun e => jnlAddr s p e.jpage
  | [] => s.pageAddr p page

/-- The words of a page that a read cannot deliver: the sectors in which the code check found an uncorrected error. -/
def lostWords (ecc : List EccHit) : List Nat :=
  ((ecc.filter fun e => e.kind == .uncorrected).map fun e => (List.range 8).map fun k => 8 * e.index + k).flatten

/-- A page on its way to the buddy, read by Barrow at a chip offset with what the code check found there (R17, R97, R102). -/
def sendPage (s : State) (p step page : Nat) (filling : Bool) (a : Option Nat) (ecc : List EccHit) : State :=
  match a with
  | some x =>
    let image := pageImage s x
    (chipRead s uFcc x pageBytes ecc).1.emit (.buddyPage (s.buddyChip p)
      { srcChip := s.me, srcPart := p, gen := (s.part p).runGen, step := step, page := page, filling := filling,
        data := { image with bad := (lostWords ecc).foldl addNew image.bad } })
  | none => s

/-- Final pages whose writes have landed and which have not been sent: their deltas go early. -/
def earlyPages (s : State) (p : Nat) : List Nat :=
  let q := s.part p
  let sent := (keptPages (s.img p)).take q.fillNext
  if s.rd R.SEAL_BUDDY_STATE p = bNone then []
  else
    q.final.filter fun x =>
      q.written.contains x && !q.early.contains x && !(heldPages q).contains x &&
        (s.rd R.SEAL_BUDDY_STATE p != bFilling || sent.contains x)

/-- A page counted as streamed during a step or during a stop. -/
def countDelta (s : State) (p : Nat) : State :=
  if s.pstate p = psStopped then s.bumpSat R.SEAL_DELTA_STOP p 1 else s.bumpSat R.SEAL_DELTA_EARLY p 1

/-- The next delta page sent: one of an ended step, else a final page of the step under way. -/
def deltaSend (s : State) (p : Nat) (ecc : List EccHit) : State :=
  let q := s.part p
  match q.toSend with
  | (step, page) :: rest =>
    countDelta ((sendPage s p step page false (deltaAddr s p step page) ecc).modPart p fun x =>
      { x with toSend := rest, unacked := x.unacked ++ [(step, page)] }) p
  | [] =>
    match earlyPages s p with
    | page :: _ =>
      let step := s.rd R.SEAL_STEP p
      if s.pstate p = psRunning then
        countDelta ((sendPage s p step page false (s.pageAddr p page) ecc).modPart p fun x =>
          { x with early := x.early ++ [page], unacked := x.unacked ++ [(step, page)] }) p
      else s
    | [] => s

/-- DELTA_PAGE_SEND (R248). -/
def execDeltaPageSend (r : PageRead) (s : State) : Host.Outcome State Fault Refusal := .next (deltaSend s r.part r.ecc)

/-- FILLING_PAGE_SEND (R250): kept pages in ascending order; the power cap may hold it (R313). -/
def fillSend (s : State) (p : Nat) (ecc : List EccHit) : State :=
  let q := s.part p
  match (keptPages (s.img p)).drop q.fillNext with
  | page :: _ =>
    if s.rd R.SEAL_BUDDY_STATE p = bFilling ∧ s.power.holdUnplanned = false ∧ q.replay.isNone = true then
      (sendPage s p (s.rd R.SEAL_STEP p) page true (s.pageAddr p page) ecc).modPart p fun x =>
        { x with fillNext := x.fillNext + 1, fillUnacked := x.fillUnacked ++ [page] }
    else s
  | [] => s

/-- FILLING_PAGE_SEND (R250). -/
def execFillingPageSend (r : PageRead) (s : State) : Host.Outcome State Fault Refusal := .next (fillSend s r.part r.ecc)

/-- An acknowledgement: of a page, or a refusal by a full stage, after which Filling starts again (R251). -/
def pageAck (s : State) (p step page : Nat) (filling refused : Bool) : State :=
  let st := s.rd R.SEAL_BUDDY_STATE p
  if st = bNone then s
  else if refused then fillStart s p 4
  else if filling then s.modPart p fun q => { q with fillUnacked := q.fillUnacked.erase page }
  else buddySeal (catchUp (s.modPart p fun q => { q with unacked := q.unacked.erase (step, page) }) p) p

/-- DELTA_PAGE_ACK (R248). -/
def execDeltaPageAck (part step page : Nat) (filling refused : Bool) (s : State) : Host.Outcome State Fault Refusal :=
  .next (pageAck s part step page filling refused)

/-! ### The buddy's side (R247, R249, R251) -/

/-- Slices that host a chip's partition. -/
def hostSlices (s : State) (chip part : Nat) : Nat :=
  ((List.range 384).filter fun k =>
    s.rd R.MEM_SLICE_USE k == 3 && s.rd R.MEM_SLICE_HOST k == chip % 2 ^ 17 + 2 ^ 17 * part).length

/-- The partition of this chip in whose domain a chip has a rank. -/
def localOf (s : State) (chip : Nat) : Option Nat :=
  (List.range 128).find? fun p => s.hasPlan p && (s.rankOf (s.tagOf p) chip).isSome

/-- The area of a chip's partition. -/
def State.area (s : State) (chip part : Nat) : Option BuddyArea :=
  s.buddies.find? fun a => a.srcChip == chip && a.srcPart == part

/-- An area set. -/
def setArea (s : State) (a : BuddyArea) : State :=
  s.setBuddies ((s.buddies.filter fun x => !(x.srcChip == a.srcChip && x.srcPart == a.srcPart)) ++ [a])

/-- Pages that the stage of an area can hold: the rest of its pages after the header and the copy. -/
def stageSize (s : State) (a : BuddyArea) : Nat :=
  let have_ := 16384 * hostSlices s a.srcChip a.srcPart
  match localOf s a.srcChip with
  | some p => min (fpKeep (s.img p)) have_ - 1 - (keptPages (s.img p)).length
  | none => have_ - 1 - a.copy.length

/-- A page from a chip whose copy is here: into the copy or the stage, with an acknowledgement; a full stage drops both;
one of an older generation is late (R251, R260). -/
def pageRx (s : State) (d : DeltaPage) : State :=
  let ack (t : State) (refused : Bool) : State := t.emit (.buddyAck d.srcChip d.srcPart d.step d.page d.filling refused)
  let p := localOf s d.srcChip
  let stale := match p with
    | some x => (s.part x).runGen != d.gen
    | none => false
  if hostSlices s d.srcChip d.srcPart = 0 then ack s true
  else if stale then dropLate s (uHbm 0) d.gen d.srcChip
  else
    let new : BuddyArea := { srcChip := d.srcChip, srcPart := d.srcPart }
    let a0 := (s.area d.srcChip d.srcPart).getD new
    let a := match p with
      | some x => { a0 with digest := imgDigest (s.img x), rank := (s.rankOf (s.tagOf x) d.srcChip).getD 0 }
      | none => a0
    if d.filling then ack (setArea s { a with copy := mapPut a.copy d.page d.data }) false
    else if stageSize s a ≤ a.stage.length then ack (setArea s { a with copy := [], stage := [], merging := none }) true
    else ack (setArea s { a with stage := a.stage ++ [d] }) false

/-- DELTA_PAGE_RECEIVE (R248). -/
def execDeltaPageReceive (p : DeltaPage) (s : State) : Host.Outcome State Fault Refusal := .next (pageRx s p)

/-- A merge completed (R249): the stage's entries up to P into the copy, by ascending step. -/
def mergeDone (s : State) (chip part : Nat) : State :=
  match s.area chip part with
  | none => s
  | some a =>
    match a.merging with
    | none => s
    | some prot =>
      let mine := a.stage.filter fun d => decide (d.step ≤ prot)
      let steps := (mine.map (·.step)).foldl addNew []
      let ordered := ((sortNat steps).map fun n => mine.filter fun d => d.step == n).flatten
      setArea s
        { a with
          copy := ordered.foldl (fun m d => mapPut m d.page d.data) a.copy,
          stage := a.stage.filter fun d => decide (prot < d.step), step := prot, merging := none }

/-- MERGE_COMPLETE (R249). -/
def execMergeComplete (srcChip srcPart : Nat) (s : State) : Host.Outcome State Fault Refusal :=
  .next (mergeDone s srcChip srcPart)

/-! ### SEAL_BUDDY (R263) -/

/-- SEAL_BUDDY written: Filling starts, or no copy is kept. -/
def sealBuddy (s : State) (p v : Nat) : Written :=
  let st := s.pstate p
  if st = psLoaded ∨ st = psStopped ∨ st = psHalted then
    let s1 := s.wr R.SEAL_BUDDY p v
    done (if v = 0xFFFFFFFE ∨ s.hasBuddy p = false then buddyNone s1 p 2 else fillStart s1 p 2)
  else deny s

/-- SEAL_BUDDY (R263). -/
def execSealBuddy (who : Who) (part value : Nat) (s : State) : Host.Outcome State Fault Refusal :=
  .next (s.guard who R.SEAL_BUDDY part value fun s => sealBuddy s part value)

/-! ### Spare adoption (R24, R262) -/

/-- An adoption refused, with its status and reason; a digest that differs is order 20 of the load checks, whose status and
reason stand in CMP_LOAD too (R65). -/
def adoptRefuse (s : State) (p reason : Nat) : State :=
  let s0 := if reason = 0x0203 then loadRegs s p 6 reason 0x18 (imgPlanId (s.img p)) else s
  let s1 := ((s0.wr R.SEAL_ADOPT_RESULT p 6).wr R.SEAL_SPARE_STATE p 5).record 0xA032 uFcc [(1, 6), (2, reason)]
  s1.record 0xA010 uFcc [(1, 4), (4, s.rd R.SEAL_LAST p)]

/-- SEAL_ADOPT_CMD written on a Staged spare, with the buddy header it reads at the host: the spare's part of the rollback, whose
method is adoption (R259, R269, R413), starts with it. -/
def adopt (s : State) (p : Nat) (h : BuddyHeader) : Written :=
  if s.rd R.SEAL_SPARE_STATE p ≠ 2 then deny s
  else if h.digest ≠ imgDigest (s.img p) then done (adoptRefuse s p 0x0203)
  else if h.rank ≠ s.rd R.SEAL_ADOPT_RANK p then done (adoptRefuse s p 0x0204)
  else
    let s1 := (s.wr R.SEAL_SPARE_STATE p 3).modPart p fun q =>
      { q with adoptNs := s.now, adoptStep := h.step, adoptGen := h.gen % 16 }
    done ((s1.record 0xA030 uFcc [(4, h.rank), (4, s.rd R.SEAL_ADOPT_HOST p), (4, h.step)]).record 0xA003 uFcc
      [(4, nextStep h.step), (4, h.step), (1, 3)])

/-- SEAL_ADOPT_CMD (R262). -/
def execSealAdoptCmd (who : Who) (part : Nat) (h : BuddyHeader) (s : State) : Host.Outcome State Fault Refusal :=
  .next (s.guard who R.SEAL_ADOPT_CMD part 1 fun s => adopt s part h)

/-- The pull finished: the spare has P and the run generation, its copy at the host is Current, and it takes part in the
rollback's completion (R262, R263). While the partition is being zeroed its pages wait behind the watermark, and no step begins
(R114, R115): the pull is not finished. -/
def adopted (s : State) (p : Nat) (pages : List (Nat × PageImage)) : State :=
  if s.rd R.SEAL_SPARE_STATE p ≠ 3 ∨ zeroDone s p = false then s
  else
    let q := s.part p
    let s1 := s.each pages fun t e => putPage t p e
    let s2 := ((((s1.wr R.SEAL_LAST p q.adoptStep).wr R.SEAL_PROT p q.adoptStep).wr R.SEAL_STEP p (nextStep q.adoptStep)).wr
      R.SEAL_SPARE_STATE p 4).wr R.SEAL_ADOPT_RESULT p 0
    let s3 := setBuddyState (s2.wr R.SEAL_BUDDY p (s.rd R.SEAL_ADOPT_HOST p)) p bCurrent 8
    let s4 := (s3.wr R.CMP_PLAN_STATE p psStopped).modPart p fun x =>
      { x with runGen := q.adoptGen, replay := some (nextStep q.adoptStep), restored := true, rolledFrom := [] }
    let ms := ((s.now - q.adoptNs) / 1000000).toNat
    sendRolled ((s4.record 0xA031 uFcc [(4, s.rd R.SEAL_ADOPT_RANK p), (4, ms)]).record 0xA004 uFcc [(4, q.adoptStep), (4, ms)]) p

/-- ADOPTION_PULL_COMPLETE (R262). -/
def execAdoptionPullComplete (part : Nat) (pages : List (Nat × PageImage)) (s : State) :
    Host.Outcome State Fault Refusal := .next (adopted s part pages)

/-! ### A fault notice in a partition (R267, R281) -/

/-- The X+ neighbour of a chip. -/
def plusX (s : State) (c : Nat) : Nat := chipAt ((chipX c + 1) % s.torusX) (chipY c) (chipZ c)

/-- Whether a chip and the chip that keeps its copy by default are both lost, given the failed set. -/
def pairLost (s : State) (p subject : Nat) : Bool :=
  s.clover.failed.any fun f =>
    (s.rankOf (s.tagOf p) f.1).isSome && f.1 != subject && (f.1 == plusX s subject || subject == plusX s f.1)

/-- A notice acted on in one partition: the copy at a lost buddy is gone (R263); where its domain contains the subject, a step
under way is rolled back to P, and the root refuses the step it has not yet decided. -/
def partNotice (s : State) (p subject : Nat) : State :=
  let s1 :=
    if s.buddyChip p = subject ∧ s.rd R.SEAL_BUDDY_STATE p ≠ bNone then buddyNone s p 3 else s
  if (s.rankOf (s.tagOf p) subject).isNone ∨ s1.active p = false then s1
  else
    let s2 := doNotSeal s1 p vNotice
    if s.hasBuddy p = false then restart s2 p 1
    else if pairLost s2 p subject then restart s2 p 5
    else
      let prot := s.rd R.SEAL_PROT p
      let q := s.part p
      if q.replay.isSome = true ∨ q.delayed.isSome = true then rollback s2 p (nextStep prot) false
      else if (s.parent p).isNone then
        commit s2 p
          { step := s.rd R.SEAL_STEP p, run := s.rd R.SEAL_RUN p, outcome := 2, flags := 0, target := prot,
            prot := prot, t0sec := secOf (s.now + (leadNs s p : Nat)) % 2 ^ 32,
            t0ns := nsOf (s.now + (leadNs s p : Nat)) }
      else if s.pstate p = psRunning then rollback s2 p (nextStep prot) false
      else s2

end Sys2Proof.Machine
end

