-- ==== Sys2Proof/Machine/HostCtl.lean ====
section
/-! DEFINITION. Plan commands of a host queue, and disabling and resetting queues and functions (R113, R115, R185, R187,
R192 to R195). -/

namespace Sys2Proof.Machine

open Sys2Proof

/-! ### PLAN_RUN, PLAN_STOP, PLAN_UNLOAD (R185, R187) -/

/-- PLAN_RUN begun: the run starts, or waits until its partition is zeroed (R115). -/
def planRun (s : State) (m : Nat) : State :=
  beginOwned s m 0x11 fun t c _ =>
    let p := c.part
    if t.pstate p ≠ psLoaded ∨ (t.part p).run.isSome = true then moverDone t m 9 0x0706 0
    else
      tryRun (t.modPart p fun q =>
        { q with run := some m, limit := c.arg0, startSec := c.arg1 / 2 ^ 32, startNs := c.arg1 % 2 ^ 32, runStatus := 0 }) p

/-- PLAN_RUN (R187). -/
def execPlanRun (mover : Nat) (s : State) : Host.Outcome State Fault Refusal := .next (planRun s mover)

/-- PLAN_STOP (R187): it completes at once with the last sealed step; the run ends after the next seal. -/
def planStop (s : State) (m : Nat) : State :=
  beginOwned s m 0x12 fun t c _ =>
    let p := c.part
    if t.active p = false ∧ (t.part p).run.isNone = true then moverDone t m 9 0x0706 0
    else moverDone (runStop t p 0) m 0 0 (t.rd R.SEAL_LAST p)

/-- PLAN_STOP (R187). -/
def execPlanStop (mover : Nat) (s : State) : Host.Outcome State Fault Refusal := .next (planStop s mover)

/-- PLAN_UNLOAD (R185): Loaded or Halted to Empty; a run that has not received RESUME ends first (R284). -/
def planUnload (s : State) (m : Nat) : State :=
  beginOwned s m 0x13 fun t c _ =>
    let p := c.part
    let q := t.part p
    let t1 := if q.resumed = false ∧ q.replay.isNone = true then runStop t p 0 else t
    if t1.pstate p = psLoaded ∨ t1.pstate p = psHalted then moverDone (unload t1 p) m 0 0 0
    else moverDone t m 9 0x0706 0

/-- PLAN_UNLOAD (R185). -/
def execPlanUnload (mover : Nat) (s : State) : Host.Outcome State Fault Refusal := .next (planUnload s mover)

/-- A run that waits starts; its timer begins with it. -/
def runWaiting (s : State) (p : Nat) : State :=
  match (s.part p).run with
  | some m =>
    if s.pstate p = psLoaded ∧ zeroDone s p = true then
      tryRun (modMover s m fun x =>
        { x with
          deadline := if x.cmd.timeoutUs = 0 then none else some (s.now + (1000 * x.cmd.timeoutUs : Nat)) }) p
    else s
  | none => s

/-- ZEROING_COMPLETE (R113): what it held is released, and a run that waited for it starts (R115). -/
def execZeroingComplete (u : ZeroUnit) (s : State) : Host.Outcome State Fault Refusal :=
  let p := match u with
    | .block b => s.partOf b
    | .slice k => s.rd R.MEM_SLICE_PART k
  let s1 := resumeCmds (releaseBelow (zeroComplete s u) u (2 ^ 32))
  .next (if p < 128 then runWaiting s1 p else s1)

/-! ### Disabling a queue (R192, R193) -/

/-- The fetched commands of a queue, oldest first. -/
def queueCmds (s : State) (g : Nat) : List Nat := (s.host.movers.filter fun e => e.2.queue == g).map (·.1)

/-- A fetched PLAN_RUN ends as if by PLAN_STOP, with DISABLED. -/
def disableRun (s : State) (m : Nat) : State :=
  let x := s.mover m
  if x.cmd.opcode ≠ 0x11 ∨ x.outcome.isSome = true then s
  else if x.started ∧ (s.part x.cmd.part).run = some m then runStop s x.cmd.part 4
  else moverDone s m 4 0 (s.rd R.SEAL_LAST x.cmd.part)

/-- A normal disable of a queue (R192). -/
def normalDisable (s : State) (f g : Nat) : State :=
  if (s.queue g).state = .enabled then
    drained ((modQueue s g fun q => { q with state := .draining }).each (queueCmds s g) disableRun) f g
  else s

/-- NORMAL_DISABLE (R192). -/
def execNormalDisable (func queue : Nat) (s : State) : Host.Outcome State Fault Refusal :=
  .next (match s.localQ func queue with
  | some g => normalDisable s func g
  | none => s)

/-- A fetched command that a forced disable completes at once: its mover abandons it, a run goes on to its next seal. -/
def forceCmd (s : State) (m : Nat) : State :=
  let x := s.mover m
  let s1 :=
    if x.outcome.isSome then s
    else if x.cmd.opcode = 0x11 then
      let t := moverDone s m 4 0 (s.rd R.SEAL_LAST x.cmd.part)
      if x.started ∧ (s.part x.cmd.part).run = some m then runStop t x.cmd.part 4 else t
    else moverFail (abandon s m) m 4 0 0
  complete s1 m

/-- A forced disable of a queue (R193): every fetched command completes, the context is zeroed. -/
def forcedDisable (s : State) (f g : Nat) : State :=
  let st := (s.queue g).state
  if st = .enabled ∨ st = .draining then
    let s1 := (modQueue s g fun q => { q with state := .zeroing }).each (queueCmds s g) forceCmd
    queueDone (modQueue s1 g fun q => { zeroCtx with dbErr := q.dbErr, disabledCmds := q.disabledCmds }) f g 2
  else s

/-- FORCED_DISABLE (R193). -/
def execForcedDisable (func queue : Nat) (s : State) : Host.Outcome State Fault Refusal :=
  .next (match s.localQ func queue with
  | some g => forcedDisable s func g
  | none => s)

/-! ### Functions (R194) -/

/-- The global queues of a function that have a context. -/
def funcQueues (s : State) (f : Nat) : List Nat :=
  (s.host.queues.map (·.1)).filter fun g => decide (s.qbase f ≤ g) && decide (g < s.qbase f + s.qcount f)

/-- A normal or forced disable of every queue of a function. -/
def disableAll (s : State) (f : Nat) (force : Bool) : State :=
  s.each (funcQueues s f) fun t g => if force then forcedDisable t f g else normalDisable t f g

/-- HOST_FN_CTL = 1 (R194). -/
def execFunctionNormalDisableAll (who : Who) (func : Nat) (s : State) : Host.Outcome State Fault Refusal :=
  .next (s.guard who R.HOST_FN_CTL func 1 fun s => done (disableAll s func false))

/-- HOST_FN_CTL = 2 (R194). -/
def execFunctionForcedDisableAll (who : Who) (func : Nat) (s : State) : Host.Outcome State Fault Refusal :=
  .next (s.guard who R.HOST_FN_CTL func 2 fun s => done (disableAll s func true))

/-- A function reset with its cause: queues, MSI-X, ATS, the power state, mailboxes (R364), plans; event 0x7002 and vector 0 (R191, R194). -/
def resetOne (s : State) (cause f : Nat) : State :=
  let s1 := disableAll s f true
  let s2 := s1.modHost fun h =>
    { h with
      msixTable := h.msixTable.filter fun e => e.1 / 2048 != f, pba := h.pba.filter fun e => e.1 != f,
      atsOn := h.atsOn.filter (· != f), atsCache := h.atsCache.filter fun e => e.1 != f, d3hot := h.d3hot.filter (· != f)
      mboxes := h.mboxes.map fun e =>
        if e.1 / 16 = f then (e.1, if e.2.state = 1 then { e.2 with toIdle := true } else { e.2 with state := 0 }) else e }
  let s3 := s2.each ((List.range 128).filter fun p => s.owns f p) fun t p => runStop t p 4
  msix (s3.record 0x7002 (uFunc f) [(1, cause)]) f 0

/-- Every function that is there. -/
def allFuncs (s : State) : List Nat := (List.range 1024).filter s.present

/-- A reset of a function; of the physical one, of every function. -/
def funcReset (s : State) (cause f : Nat) : State :=
  if s.present f = false then s
  else s.each (if f = 0 then allFuncs s else [f]) fun t g => resetOne t cause g

/-- HOST_FN_CTL = 3 (R194). -/
def execFunctionReset (who : Who) (func : Nat) (s : State) : Host.Outcome State Fault Refusal :=
  .next (s.guard who R.HOST_FN_CTL func 3 fun s => done (funcReset s 2 func))

/-- FUNCTION_LEVEL_RESET (R194). -/
def execFunctionLevelReset (func : Nat) (s : State) : Host.Outcome State Fault Refusal := .next (funcReset s 1 func)

/-- HOT_RESET (R194): of the link, and so of every function. -/
def execHotReset (s : State) : Host.Outcome State Fault Refusal := .next (funcReset s 3 0)

/-- VF_ENABLE_CLEAR (R179, R194): every function is reset, and the virtual ones are gone. -/
def execVfEnableClear (s : State) : Host.Outcome State Fault Refusal :=
  let n := s.rd R.HOST_NUM_VF 0
  .next (((funcReset s 4 0).each ((List.range n).map (· + 1)) fun t f => t.wr R.HOST_FN_STATE f 0).wr R.HOST_NUM_VF 0 0)

end Sys2Proof.Machine
end

