-- ==== Sys2Proof/Machine/Tally.lean ====
section
/-! DEFINITION. Tally: scans, periods and streams of alive counters (R339 to R348). -/

namespace Sys2Proof.Machine

open Sys2Proof

/-! ### Registers (R342 to R344) -/

/-- A field of a channel's TLY_CTL. -/
def tlyCtl (s : State) (ch lo w : Nat) : Nat := bits (s.rd (R.TLY_CTL ch) 0) lo w

/-- A field of a channel's TLY_STATUS set. -/
def tlyStatus (s : State) (ch lo w v : Nat) : State :=
  s.wr (R.TLY_STATUS ch) 0 (setBits (s.rd (R.TLY_STATUS ch) 0) lo w v)

/-- BUSY brought up to date. -/
def tlyBusy (s : State) (ch : Nat) : State :=
  let c := s.chan ch
  tlyStatus s ch 0 1 (b2n (c.running || c.armed || c.stream))

/-- Whether a channel is the device's own: the boot ROM's channel 0 in stage 2, or the one the FCC owns (R347). -/
def tlyReserved (s : State) (ch : Nat) : Bool :=
  ch == s.rd R.CLV_TALLY_CH 0 || (ch == 0 && s.rd R.RST_STAGE 0 == 2)

def tlyLen (s : State) (ch : Nat) : Nat := s.rd (R.TLY_LEN ch) 0
def tlyChunk (s : State) (ch : Nat) : Nat := bits (s.rd (R.TLY_CHUNK ch) 0) 0 32
def tlyPeriod (s : State) (ch : Nat) : Nat := bits (s.rd (R.TLY_CHUNK ch) 0) 32 32

/-- The signal of a channel's function on a mismatch. -/
def tlySignal (s : State) (ch : Nat) : State :=
  let f := tlyCtl s ch 30 10
  if tlyCtl s ch 7 1 = 1 ∧ f ≠ 0x3FF ∧ s.present f = true then msix s f (tlyCtl s ch 15 8) else s

/-! ### Scans (R340, R341, R345) -/

/-- The value of an algorithm over more bytes (R339); over none it is 0. -/
def foldMore (alg value : Nat) (bs : List Byte) : Nat :=
  match alg with
  | 0 => crcRef polyC (value ^^^ ones 32) bs ^^^ ones 32
  | 1 => crc64Add value bs
  | 2 => (List.range (bs.length / 8)).foldl (fun a k => a ^^^ leField bs (8 * k) 8) value
  | _ => (List.range (bs.length / 8)).foldl (fun a k => (a + leField bs (8 * k) 8) % 2 ^ 64) value

/-- Whether a channel's registers describe a scan. -/
def scanValid (s : State) (ch : Nat) : Bool :=
  tlyChunk s ch != 0 && tlyLen s ch != 0 && tlyLen s ch % tlyChunk s ch == 0 &&
    decide (tlyChunk s ch ≤ s.rd (R.TLY_STRIDE ch) 0)

/-- A scan begun. -/
def scanStart (s : State) (ch : Nat) : State :=
  tlyBusy ((s.modChan ch fun c =>
    { c with running := true, chunk := 0, value := 0, poisoned := false, stopReq := false }).wr
      (R.TLY_DONE ch) 0 0) ch

/-- A scan ended (R345): its value, END, and what the end raises. -/
def scanEnd (s : State) (ch code : Nat) : State :=
  let c := s.chan ch
  let s1 := (s.modChan ch fun c => { c with running := false, stopReq := false }).wr (R.TLY_RESULT ch) 0 c.value
  let s2 := tlyStatus s1 ch 8 8 code
  let scans := bits (s.rd (R.TLY_STATUS ch) 0) 32 32
  let s3 := if code = 1 ∨ code = 2 ∨ code = 6 then tlyStatus s2 ch 32 32 (min (scans + 1) 0xFFFFFFFF) else s2
  let s4 := tlyBusy s3 ch
  if code = 2 then
    tlySignal (((tlyStatus s4 ch 4 1 1).bumpSat (R.TLY_MISMATCHES ch) 0 1).record 0xF010 uFcc
      [(1, ch), (1, code), (2, 0), (8, c.value)]) ch
  else if code = 3 ∨ code = 4 ∨ code = 6 then
    s4.record 0xF011 uFcc [(1, ch), (1, code), (2, 0), (8, s.rd (R.TLY_DONE ch) 0)]
  else s4

/-- TLY_CMD = 1 (R342, R345, R348): a scan, a period or stream mode starts. -/
def tallyStart (s : State) (ch : Nat) : Written :=
  let c := s.chan ch
  if tlyReserved s ch = true ∨ (c.running || c.armed || c.stream) = true then deny s
  else
    match tlyCtl s ch 2 2 with
    | 0 => if scanValid s ch then done (scanStart s ch) else deny s
    | 1 =>
      if scanValid s ch = true ∧ tlyPeriod s ch ≠ 0 then
        done (scanStart (s.modChan ch fun c => { c with armed := true, dueNs := s.now + (1000000 * tlyPeriod s ch : Nat) }) ch)
      else deny s
    | 2 => done (tlyBusy (s.modChan ch fun c => { c with stream := true }) ch)
    | _ => deny s

/-- TALLY_START (R345). -/
def execTallyStart (who : Who) (ch : Nat) (s : State) : Host.Outcome State Fault Refusal :=
  .next (s.guard who (R.TLY_CMD ch) 0 1 fun s => tallyStart s ch)

/-- TLY_CMD = 2 (R345): the scan ends at the next chunk boundary; period and stream mode end. -/
def tallyStop (s : State) (ch : Nat) : Written :=
  if tlyReserved s ch then deny s
  else
    done (tlyBusy (s.modChan ch fun c => { c with armed := false, stream := false, stopReq := c.running }) ch)

/-- TALLY_STOP (R345). -/
def execTallyStop (who : Who) (ch : Nat) (s : State) : Host.Outcome State Fault Refusal :=
  .next (s.guard who (R.TLY_CMD ch) 0 2 fun s => tallyStop s ch)

/-- TLY_CMD = 3 (R346): no lane has started. -/
def tallyClear (s : State) (ch : Nat) : Written :=
  if tlyReserved s ch then deny s else done (s.modChan ch fun c => { c with started := [] })

/-- TALLY_CLEAR_LANES (R346). -/
def execTallyClearLanes (who : Who) (ch : Nat) (s : State) : Host.Outcome State Fault Refusal :=
  .next (s.guard who (R.TLY_CMD ch) 0 3 fun s => tallyClear s ch)

/-- The request of a channel's next chunk. -/
def chunkReq (s : State) (ch : Nat) : MemReq :=
  let part := tlyCtl s ch 23 7
  { role := .operator, part := part, func := 0xFFFF, remote := false, tag := 0, raw := part == 0x7F, planned := false,
    unit := uFcc, write := false,
    offset := gaOff (s.rd (R.TLY_START ch) 0 + (s.chan ch).chunk * s.rd (R.TLY_STRIDE ch) 0), len := tlyChunk s ch,
    data := [], poison := false, ecc := [] }

/-- Whether a channel's next chunk lies on its own chip. -/
def chunkNear (s : State) (ch : Nat) : Bool :=
  let part := tlyCtl s ch 23 7
  let a := s.rd (R.TLY_START ch) 0 + (s.chan ch).chunk * s.rd (R.TLY_STRIDE ch) 0
  if part = 0x7F then gaChip a == 0 else s.isLocal part a

/-- Runs with the poisoned ones as zeros. -/
def zeroBad (l : List (List Byte × Bool)) : List Byte :=
  (l.map fun r => if r.2 then r.1.map (fun _ => 0) else r.1).flatten

/-- A chunk that zeroing holds counted once (R114). -/
def chunkHeld (s : State) (ch : Nat) : State :=
  if (s.chan ch).heldNs.isSome then s
  else (s.bumpSat R.MEM_ZERO_HOLD 0 1).modChan ch fun c => { c with heldNs := some s.now }

/-- A channel's hold over, with its length noted. -/
def chunkFree (s : State) (ch : Nat) : State :=
  match (s.chan ch).heldNs with
  | none => s
  | some t => (s.raise R.MEM_ZERO_HOLD_MAX 0 (s.now - t).toNat).modChan ch fun c => { c with heldNs := none }

/-- The next chunk of a scan folded; a stop asked for ends it first; one held by zeroing waits (R345). -/
def chunkRead (s : State) (ch : Nat) (ecc : List EccHit) : State :=
  let c := s.chan ch
  if c.running = false ∨ tlyLen s ch ≤ c.chunk * tlyChunk s ch then s
  else if c.stopReq then scanEnd (chunkFree s ch) ch 5
  else
    let r := chunkReq s ch
    match chunkNear s ch, reqRange s r with
    | true, some rs =>
      if downRange s rs then scanEnd (chunkFree s ch) ch 4
      else if (rs.findSome? fun x => holdOf s x.1 x.2).isSome = true then chunkHeld s ch
      else
        let y := readRuns (chunkFree s ch) uFcc rs ecc
        let bad := y.2.any fun x => x.2
        let s1 := if bad then tlyStatus y.1 ch 5 1 1 else y.1
        (s1.modChan ch fun c =>
          { c with
            chunk := c.chunk + 1, value := foldMore (tlyCtl s ch 0 2) c.value (zeroBad y.2),
            poisoned := c.poisoned || bad }).bump (R.TLY_DONE ch) 0 r.len
    | _, _ => scanEnd (denyReq (chunkFree s ch) r) ch 3

/-- TALLY_CHUNK_READ (R340). -/
def execTallyChunkRead (ch : Nat) (ecc : List EccHit) (s : State) : Host.Outcome State Fault Refusal :=
  .next (chunkRead s ch ecc)

/-- The end of a scan whose every chunk is folded (R345). -/
def scanFinish (s : State) (ch : Nat) : State :=
  let c := s.chan ch
  if c.running = false ∨ c.chunk * tlyChunk s ch < tlyLen s ch then s
  else if c.poisoned then scanEnd s ch 6
  else if tlyCtl s ch 6 1 = 1 ∧ s.rd (R.TLY_EXPECT ch) 0 ≠ c.value then scanEnd s ch 2
  else scanEnd s ch 1

/-- TALLY_SCAN_END (R345). -/
def execTallyScanEnd (ch : Nat) (s : State) : Host.Outcome State Fault Refusal := .next (scanFinish s ch)

/-- A period begins, TLY_PERIOD_MS after the one before: a scan, or an overrun (R345). -/
def periodBegin (s : State) (ch : Nat) : State :=
  if (s.chan ch).armed = false ∨ s.now < (s.chan ch).dueNs then s
  else
    let s1 := s.modChan ch fun c => { c with dueNs := c.dueNs + (1000000 * tlyPeriod s ch : Nat) }
    if (s.chan ch).running then (tlyStatus s1 ch 6 1 1).record 0xF013 uFcc [(1, ch), (4, tlyPeriod s ch)]
    else scanStart s1 ch

/-- TALLY_PERIOD (R345). -/
def execTallyPeriod (ch : Nat) (s : State) : Host.Outcome State Fault Refusal := .next (periodBegin s ch)

/-! ### Streams (R346) -/

/-- A lane's register: last value, gaps, repeats. -/
def laneSet (s : State) (ch lane last gaps reps : Nat) : State :=
  s.wr (R.TLY_LANE ch lane) 0 (packRec [(4, last), (4, gaps), (4, reps), (4, 0)])

/-- A value in a lane of a channel: in sequence, a gap or a repeat. -/
def streamValue (s : State) (ch lane v : Nat) : State :=
  let w := s.rd (R.TLY_LANE ch lane) 0
  let last := bits w 0 32
  let gaps := bits w 32 32
  let reps := bits w 64 32
  if (s.chan ch).started.contains lane = false then
    laneSet (s.modChan ch fun c => { c with started := c.started ++ [lane] }) ch lane v gaps reps
  else
    let d := (v + (2 ^ 32 - last)) % 2 ^ 32
    if d = 1 then laneSet s ch lane v gaps reps
    else
      let gap := decide (2 ≤ d) && decide (d < 2 ^ 31)
      let s1 :=
        if gap then laneSet s ch lane v (min (gaps + 1) 0xFFFFFFFF) reps
        else laneSet s ch lane last gaps (min (reps + 1) 0xFFFFFFFF)
      tlySignal (((tlyStatus s1 ch 4 1 1).bumpSat (R.TLY_MISMATCHES ch) 0 1).record 0xF012 uFcc
        [(1, ch), (1, lane), (1, b2n (!gap)), (1, 0), (4, last), (4, v)]) ch

/-- A software value for a lane, of a channel in stream mode. -/
def laneInput (s : State) (ch lane v : Nat) : Written :=
  if (s.chan ch).stream = false ∨ tlyCtl s ch 8 3 < lane then deny s else done (streamValue s ch lane v)

/-- TLY_LANE (R346): bits 127:96 of a lane written. -/
def execTlyLane (who : Who) (ch lane value : Nat) (s : State) : Host.Outcome State Fault Refusal :=
  .next (s.guard who { R.TLY_LANE ch lane with acc := .wo } 0 (value % 2 ^ 32) fun s => laneInput s ch lane (value % 2 ^ 32))

/-- A channel as the FCC owns it: stream mode on, six lanes (R347). -/
def clvChannel (s : State) (ch : Nat) : State :=
  tlyBusy ((s.wr (R.TLY_CTL ch) 0 (0xFFFF800000 + 5 * 2 ^ 8 + 2 * 2 ^ 2)).modChan ch fun c =>
    { c with running := false, armed := false, stream := true, started := [] }) ch

/-- A channel stopped, its registers at their reset values (R347). -/
def tallyReset (s : State) (ch : Nat) : State :=
  (s.odClear fun idx _ _ => idx == 0x7100 + ch % 16).setTally (mapDel s.tally ch)

/-- CLV_TALLY_CH written (R273, R347): the FCC leaves its channel and takes the new one, unless that is busy. -/
def tallyChan (s : State) (v : Nat) : Written :=
  let old := s.rd R.CLV_TALLY_CH 0
  let c := s.chan v
  if v = old then done s
  else if (c.running || c.armed || c.stream) = true then deny s
  else done (clvChannel ((tallyReset s old).wr R.CLV_TALLY_CH 0 v) v)

end Sys2Proof.Machine
end

