-- ==== Sys2Proof/Machine/Clover.lean ====
section
/-! DEFINITION. Heartbeats, the declaration of failed chips, fault notices and tray stewards (R270 to R281, R286 to
R292). -/

namespace Sys2Proof.Machine

open Sys2Proof

/-! ### What is known of neighbours -/

/-- The neighbour on a port, and the neighbour changed. -/
def State.nbr (s : State) (port : Nat) : Neighbour := mapGet {} s.clover.nbrs port
def modNbr (s : State) (port : Nat) (f : Neighbour → Neighbour) : State :=
  s.modClover fun c => { c with nbrs := mapPut c.nbrs port (f (s.nbr port)) }

/-- The port whose neighbour is a chip. -/
def nbrPort (s : State) (chip : Nat) : Option Nat :=
  (List.range 6).find? fun k => s.rd R.CLV_NBR_CHIP k == chip

/-- States of a neighbour (R295). -/
def nAlive : Nat := 1
def nMissing : Nat := 2
def nReported : Nat := 3
def nFailed : Nat := 4
def nChipAlive : Nat := 5

/-- The tray position of a chip of the own tray. -/
def posOf (chip : Nat) : Option Nat := (List.range 4).find? fun k => Config.trayChip k == chip

/-- The count of distinct live neighbours in a subject's last NBR_UP, if this chip has had a heartbeat of it. -/
def liveOf (s : State) (subject : Nat) : Option Nat :=
  (nbrPort s subject).map fun k =>
    (((List.range 6).filter fun j => bitOf (s.nbr k).nbrUp j).foldl (fun l j => addNew l (beyondOf s subject j)) []).length

/-! ### Steward sequence (R291) -/

/-- Whether a message's SSEQ is accepted, and the state after. -/
def sseqRx (s : State) (h : ClvHdr) : State × Bool :=
  if h.srole ≠ 1 ∧ h.srole ≠ 2 then (s, true)
  else
    let m := mapGet {} s.clover.sseqs h.tray
    let put (x : SseqMap) : State := s.modClover fun c => { c with sseqs := mapPut c.sseqs h.tray x }
    let d := (h.sseq + (65536 - m.high % 65536)) % 65536
    if 1 ≤ d ∧ d ≤ 32767 then
      let keep := m.seen.filter fun x => decide ((h.sseq + (65536 - x)) % 65536 ≤ 63)
      (put { high := h.sseq, seen := keep ++ [h.sseq] }, true)
    else if 65473 ≤ d ∧ m.seen.contains h.sseq = false then (put { m with seen := m.seen ++ [h.sseq] }, true)
    else (s.bumpSat R.CLV_STW_DUP 0 1, false)

/-- A message acted on: its sender is not in the failed set and its SSEQ is new (R280, R291). -/
def clvRx (s : State) (h : ClvHdr) (f : State → State) : State :=
  if s.isFailed h.sender then s
  else
    let x := sseqRx s h
    if x.2 then f x.1 else x.1

/-! ### Heartbeats (R272, R273) -/

/-- The boot mode of a heartbeat. -/
def bootCode (m : BootMode) : Nat :=
  match m with
  | .normal => 0
  | .recovery => 1
  | .manufacturing => 2
  | .dormant => 3

/-- The step of the lowest-numbered Running partition. -/
def runStep (s : State) : Nat :=
  match (List.range 128).find? fun p => s.pstate p == psRunning with
  | some p => s.rd R.SEAL_STEP p
  | none => 0xFFFFFFFF

/-- Ports whose neighbour is alive, as a mask. -/
def nbrUp (s : State) : Nat :=
  (List.range 6).foldl (fun m k => if s.rd R.CLV_NBR_STATE k = nAlive then m + 2 ^ k else m) 0

/-- HEARTBEAT_SEND (R272): on every Up port; not in recovery boot (R300). -/
def heartbeatSend (s : State) : State :=
  if s.mainUp = false then s
  else
    let arb := s.arbiters
    let b : Heartbeat :=
      { alive := (s.clover.alive + 1) % 2 ^ 32, boot := s.rd R.RST_BOOT 0 % 65536, traypos := s.rd R.CLV_STW_POS 0,
        bootmode := bootCode s.rst.mode, nbrUp := nbrUp s, state := s.rd R.CLV_STATE 0, arbA := arb.1, arbB := arb.2,
        step := runStep s }
    (s.modClover fun c => { c with alive := b.alive }).each s.upPorts fun t k =>
      clvLocal t k (clvHdr t 0xFF) (.heartbeat b)

/-- HEARTBEAT_SEND (R272). -/
def execHeartbeatSend (s : State) : Host.Outcome State Fault Refusal := .next (heartbeatSend s)

/-- The failed set with CLV_FAILED_N. -/
def setFailed (s : State) (l : List (Nat × Nat)) : State :=
  (s.modClover fun c => { c with failed := l }).wr R.CLV_FAILED_N 0 l.length

/-- A chip of the tray's steward positions is there again: it joins as standby (R290). -/
def stewardBack (s : State) (chip : Nat) : State :=
  match posOf chip with
  | some q =>
    if q < 2 ∧ s.clover.active ≠ some q ∧ s.clover.active.isSome = true ∧ s.clover.standby = none then
      s.modClover fun c => { c with standby := some q }
    else s
  | none => s

/-- A failed chip readmitted by a heartbeat of another BOOT (R280). -/
def readmit (s : State) (chip boot : Nat) : State :=
  stewardBack ((setFailed s (s.clover.failed.filter fun e => e.1 != chip)).record 0xB005 uFcc [(4, chip), (2, boot)]) chip

/-- A heartbeat accepted: the miss timer starts again, the neighbour is Alive. -/
def nbrAlive (s : State) (port : Nat) (h : ClvHdr) (b : Heartbeat) : State :=
  (((s.wr R.CLV_NBR_STATE port nAlive).wr R.CLV_NBR_CHIP port h.sender).wr R.CLV_NBR_ALIVE port b.alive).modClover fun c =>
    { c with
      nbrs := mapPut c.nbrs port
        { watched := true, boot := b.boot, nbrUp := b.nbrUp % 64, arbA := b.arbA, arbB := b.arbB, step := b.step,
          lastNs := s.now } }

/-- A heartbeat received on a port (R273, R280). -/
def heartbeatRx (s : State) (port : Nat) (h : ClvHdr) (b : Heartbeat) : State :=
  let old := s.clover.failed.find? fun e => e.1 == h.sender
  if s.portUp port = false ∨ (match old with | some e => e.2 == b.boot | none => false) = true then s
  else
    let s1 := if old.isSome then readmit s h.sender b.boot else s
    let s2 := streamValue s1 (s1.rd R.CLV_TALLY_CH 0) port b.alive
    let d := (b.alive + (2 ^ 32 - s.rd R.CLV_NBR_ALIVE port)) % 2 ^ 32
    if (s.nbr port).watched = false then nbrAlive s2 port h b
    else if 1 ≤ d ∧ d < 2 ^ 31 then
      nbrAlive (if d = 1 then s2 else s2.bumpSat R.CLV_NBR_GAPS port 1) port h b
    else s2.bumpSat R.CLV_NBR_REPEAT port 1

/-- HEARTBEAT (R273). -/
def execHeartbeat (port : Nat) (h : ClvHdr) (b : Heartbeat) (s : State) : Host.Outcome State Fault Refusal :=
  .next (heartbeatRx s port h b)

/-! ### Fault notices (R278 to R281, R290) -/

/-- A steward of the own tray lost: the standby takes over, the other stays alone, or P2 takes the role, and is then the arbiter
of P3 (R274, R290). -/
def stewardLost (s : State) (chip : Nat) : State :=
  match posOf chip with
  | none => s
  | some q =>
    let c := s.clover
    let role := s.rd R.CLV_STW_ROLE 0
    if c.active = some q then
      let s1 := s.modClover fun c => { c with active := c.standby, standby := none, swapNext := false }
      if role = 2 then
        ((((s1.wr R.CLV_STW_ROLE 0 1).wr R.CLV_STW_STATE 0 3).record 0xB020 uFcc
          [(4, chip), (4, s.me), (2, s.rd R.CLV_STW_SEQ 0)])).record 0xB021 uFcc [(4, chip)]
      else if role = 3 ∧ c.standby = none then
        (((s1.modClover fun c => { c with active := some (s.rd R.CLV_STW_POS 0) }).wr R.CLV_STW_ROLE 0 1).wr
          R.CLV_STW_STATE 0 3).record 0xB023 uFcc [(4, s.rd R.CLV_TRAY_ID 0)]
      else if c.standby = none ∧ q < 2 ∧ s.isFailed (Config.trayChip 2) = false then
        s1.modClover fun c => { c with active := some 2 }
      else s1
    else if c.standby = some q then
      let s1 := s.modClover fun c => { c with standby := none, swapNext := false }
      if role = 1 then (s1.wr R.CLV_STW_STATE 0 3).record 0xB021 uFcc [(4, chip)] else s1
    else s

/-- The subject into the failed set of 1,024 (R280). -/
def failAdd (s : State) (subject boot : Nat) : State :=
  match s.clover.failed with
  | e :: r =>
    if 1024 ≤ s.clover.failed.length then
      (setFailed s (r ++ [(subject, boot)])).record 0xB006 uFcc [(4, e.1)]
    else setFailed s (s.clover.failed ++ [(subject, boot)])
  | [] => setFailed s [(subject, boot)]

/-- The neighbour that a notice names is Failed; inquiries about it end, and its own reports are discarded (R292). -/
def noteFailed (s : State) (subject : Nat) : State :=
  let s1 := match nbrPort s subject with
    | some k => (s.wr R.CLV_NBR_STATE k nFailed).modClover fun c =>
        { c with nbrs := mapPut c.nbrs k { s.nbr k with watched := false } }
    | none => s
  s1.modClover fun c =>
    { c with
      inquiries := (mapDel c.inquiries subject).map fun e =>
        (e.1, { e.2 with reporters := e.2.reporters.filter fun r => r != subject }) }

/-- A first notice for a subject: flooded, then acted on (R279 to R281). -/
def noticeAct (s : State) (port : Option Nat) (h : ClvHdr) (n : Notice) : State :=
  let s1 := s.each (s.upPorts.filter fun k => some k != port) fun t k =>
    clvLocal t k h (.notice n)
  let s2 := failAdd (s1.bumpSat R.CLV_NOTICES 0 1) n.subject n.sboot
  let s3 := noteFailed (s2.record 0xB004 uFcc [(4, n.subject), (4, n.arbiter), (4, n.step)]) n.subject
  (stewardLost s3 n.subject).each (List.range 128) fun t p => partNotice t p n.subject

/-- FAULT_NOTICE (R279): one for a subject of the failed set is a duplicate. -/
def noticeRx (s : State) (port : Nat) (h : ClvHdr) (n : Notice) : State :=
  if s.isFailed h.sender then s
  else if s.isFailed n.subject then s.bumpSat R.CLV_NOTICE_DUP 0 1
  else clvRx s h fun t => noticeAct t (some port) h n

/-- FAULT_NOTICE (R279). -/
def execFaultNotice (port : Nat) (h : ClvHdr) (n : Notice) (s : State) : Host.Outcome State Fault Refusal :=
  .next (noticeRx s port h n)

/-! ### The arbiter (R274 to R278) -/

/-- An inquiry, and the inquiry changed. -/
def State.inquiry (s : State) (subject : Nat) : Inquiry := mapGet {} s.clover.inquiries subject
def modInq (s : State) (subject : Nat) (f : Inquiry → Inquiry) : State :=
  s.modClover fun c => { c with inquiries := mapPut c.inquiries subject (f (s.inquiry subject)) }

/-- Whether this chip is a subject's arbiter by position: an active or standby steward for the rest of its tray, P2 for
the active steward. -/
def arbiterOf (s : State) (subject : Nat) : Bool :=
  match posOf subject with
  | none => false
  | some q =>
    match s.rd R.CLV_STW_ROLE 0 with
    | 1 => s.clover.active != some q
    | 2 => s.clover.active != some q
    | 3 => s.clover.active == some q
    | _ => false

/-- A decision (R278): event 0xB003 and the FAULT_NOTICE. What the arbiter has not had of a subject's heartbeat is open:
BOOT is a free value, STEP none. -/
def declare_ (s : State) (subject cause : Nat) : State :=
  let q := s.inquiry subject
  let n := q.reporters.length
  let known := nbrPort s subject
  let notice : Notice :=
    { subject := subject,
      sboot := match known with
        | some k => (s.nbr k).boot
        | none => Config.free s.free % 65536,
      cause := cause, reporters := n,
      step := match known with
        | some k => (s.nbr k).step
        | none => 0xFFFFFFFF,
      dsec := s.time.sec % 2 ^ 32, dns := s.time.ns, arbiter := s.me }
  let s1 := (s.tick.record 0xB003 uFcc [(4, subject), (1, cause), (1, n)]).wr R.CLV_DECIDE_LAST_US 0
    (min ((s.now - q.sinceNs) / 1000).toNat 0xFFFFFFFF)
  noticeAct (stwNext s1) none (stwHdr s1) notice

/-- The decision taken if its conditions hold (R275, R277). -/
def tryDecide (s : State) (subject : Nat) : State :=
  let q := s.inquiry subject
  let n := (q.reporters.filter fun r => !s.isFailed r).length
  let live := liveOf s subject
  if s.isFailed subject = true ∨ stwMay s = false then s
  else if q.substitute then
    let need := match live with
      | some k => min k 3
      | none => 3
    if need ≤ n ∧ 0 < n then declare_ s subject 4 else s
  else
    let need := match live with
      | some k => if k < 2 then 1 else 2
      | none => 2
    if q.failed = true ∧ need ≤ n then declare_ s subject q.cause else s

/-- A probe sent to a subject over the tray's bus. -/
def sendProbe (s : State) (subject try_ : Nat) : State :=
  let s1 := modInq s subject fun q => { q with probeNs := s.now }
  if stwMay s then s1.emit (.probe subject try_) else s1

/-- A REPORT at this chip (R275, R277): the first starts the probe; a self-fence or a held reset decides at once. -/
def reportRx (s : State) (sender : Nat) (r : Report) : State :=
  let mine := arbiterOf s r.subject
  let role := s.rd R.CLV_STW_ROLE 0
  if s.isFailed r.subject = true ∨ s.isFailed sender = true ∨ (mine = false ∧ role ≠ 1 ∧ role ≠ 2) then s
  else
    let first := (mapFind s.clover.inquiries r.subject).isNone
    let s1 := modInq s r.subject fun q =>
      { q with
        reporters := addNew q.reporters sender, sinceNs := if first then s.now else q.sinceNs, substitute := !mine,
        tries := if first then 1 else q.tries }
    if r.cause = 3 ∨ r.cause = 4 then
      if stwMay s1 then declare_ s1 r.subject (if r.cause = 3 then 2 else 3) else s1
    else tryDecide (if first = true ∧ mine = true then sendProbe s1 r.subject 1 else s1) r.subject

/-- REPORT (R275). -/
def execReport (h : ClvHdr) (r : Report) (s : State) : Host.Outcome State Fault Refusal :=
  .next (clvRx s h fun t => reportRx t h.sender r)

/-- A report sent to an arbiter, which may be this chip. -/
def reportTo (s : State) (arb : Nat) (r : Report) : State :=
  if arb = 0xFFFFFFFF then s
  else if arb = s.me then reportRx s s.me r
  else clvSend s 0xFF arb (.report r)

/-- The probe failed, by a cause. -/
def probeFailed (s : State) (subject cause : Nat) : State :=
  tryDecide (modInq s subject fun q => { q with failed := true, cause := cause }) subject

/-- Another try of a probe, or the probe has failed (R275). -/
def probeAgain (s : State) (subject : Nat) : State :=
  match mapFind s.clover.inquiries subject with
  | none => s
  | some q =>
    if q.failed = true ∨ q.substitute = true then s
    else if q.tries < s.rd R.CLV_PROBE_TRIES 0 then
      sendProbe (modInq s subject fun q => { q with tries := q.tries + 1 }) subject (q.tries + 1)
    else probeFailed s subject 1

/-- PROBE_TIMEOUT (R275): no answer CLV_PROBE_US after the try. -/
def execProbeTimeout (subject : Nat) (s : State) : Host.Outcome State Fault Refusal :=
  .next (if s.now < (s.inquiry subject).probeNs + (1000 * s.rd R.CLV_PROBE_US 0 : Nat) then s else probeAgain s subject)

/-- A REJECT: the port's chip is alive, its link lost (R275). -/
def rejectRx (s : State) (subject : Nat) : State :=
  match nbrPort s subject with
  | some k => if s.rd R.CLV_NBR_STATE k = nReported then s.wr R.CLV_NBR_STATE k nChipAlive else s
  | none => s

/-- A probe's answer (R275, R276, R292, R370): one without authentication is a failed try. -/
def probeRx (s : State) (subject status : Nat) (auth : Bool) : State :=
  match mapFind s.clover.inquiries subject with
  | none => if s.isFailed subject then s.bumpSat R.CLV_PROBE_LATE 0 1 else s
  | some q =>
    if q.substitute then s
    else if auth = false then probeAgain s subject
    else if status = 0 then
      if q.failed then s.bumpSat R.CLV_PROBE_LATE 0 1
      else
        let s1 := (s.bumpSat R.CLV_REJECTS 0 1).record 0xB002 uFcc [(4, subject), (1, status)]
        (s1.modClover fun c => { c with inquiries := mapDel c.inquiries subject }).each q.reporters fun t r =>
          if r = t.me then rejectRx t subject else stwSend t r (.reject subject status)
    else probeFailed s subject (if status = 3 then 3 else 5)

/-- PROBE_ANSWER (R276). -/
def execProbeAnswer (subject status : Nat) (auth : Bool) (s : State) : Host.Outcome State Fault Refusal :=
  .next (probeRx s subject status auth)

/-! ### The reporter (R273, R275, R277) -/

/-- The substitute arbiter: the active steward of the own tray. -/
def substituteArb (s : State) : Nat :=
  match s.clover.active with
  | some a => Config.trayChip a
  | none => 0xFFFFFFFF

/-- The report of a missing neighbour. -/
def missReport (s : State) (port : Nat) : Report :=
  { subject := s.rd R.CLV_NBR_CHIP port, alive := s.rd R.CLV_NBR_ALIVE port, cause := 1, port := port }

/-- The miss timer of a neighbour expired: one REPORT to its arbiter and event 0xB001; to the substitute where the
neighbour has no arbiter or that one has failed. Where there is none to report to, the neighbour stays Missing (DEDUCED from the
states of R295, log 110). -/
def nbrMiss (s : State) (port : Nat) : State :=
  let n := s.nbr port
  let us := s.rd R.CLV_HB_MISS 0 * s.rd R.CLV_HB_US 0
  if n.watched = false ∨ s.rd R.CLV_NBR_STATE port ≠ nAlive ∨ s.now < n.lastNs + (1000 * us : Nat) then s
  else
    let sub := n.arbA = 0xFFFFFFFF ∨ s.isFailed n.arbA = true
    let r := missReport s port
    let none_ := sub ∧ substituteArb s = 0xFFFFFFFF
    let s1 := (s.wr R.CLV_NBR_STATE port (if none_ then nMissing else nReported)).record 0xB001 uFcc [(1, port), (4, r.subject), (4, r.alive)]
    let s2 := modNbr s1 port fun n => { n with reportNs := s.now, resent := decide sub }
    if sub then reportTo s2 (substituteArb s) r else reportTo (reportTo s2 n.arbA r) n.arbB r

/-- NEIGHBOUR_MISS (R273). -/
def execNeighbourMiss (port : Nat) (s : State) : Host.Outcome State Fault Refusal := .next (nbrMiss s port)

/-- REJECT (R275). -/
def execReject (h : ClvHdr) (subject _status : Nat) (s : State) : Host.Outcome State Fault Refusal :=
  .next (clvRx s h fun t => rejectRx t subject)

/-- CLV_ARB_WAIT_US passed without a decision, or the subject's arbiter is itself in the failed set: the report goes to the
substitute arbiter, once (R277). -/
def arbWait (s : State) (subject : Nat) : State :=
  match nbrPort s subject with
  | none => s
  | some k =>
    let n := s.nbr k
    if s.rd R.CLV_NBR_STATE k ≠ nReported ∨ n.resent = true ∨
        (s.isFailed n.arbA = false ∧ s.now < n.reportNs + (1000 * s.rd R.CLV_ARB_WAIT_US 0 : Nat)) then s
    else reportTo (modNbr s k fun n => { n with resent := true }) (substituteArb s) (missReport s k)

/-- ARB_WAIT_EXPIRY (R277). -/
def execArbWaitExpiry (subject : Nat) (s : State) : Host.Outcome State Fault Refusal := .next (arbWait s subject)

/-! ### Stewards (R287 to R290, R294) -/

/-- The steward state (R287). -/
def stewardState (s : State) : StewardState :=
  { sseq := s.rd R.CLV_STW_SEQ 0, sessions := s.mgmt.sessions.filter (·.steward), relays := s.mgmt.relays,
    inquiries := s.clover.inquiries, crossings := s.clover.crossings }

/-- Whether two steward states are the same, but for the instants at which each steward took its frames and the frames'
own sender. -/
def stewardSame (a b : StewardState) : Bool :=
  let ses (l : List Session) : List Session := l.map fun x => { x with lastNs := 0 }
  let inq (l : List (Nat × Inquiry)) : List (Nat × Inquiry) := l.map fun e => (e.1, { e.2 with sinceNs := 0, probeNs := 0 })
  a.sseq == b.sseq && ses a.sessions == ses b.sessions && a.relays.map (·.key) == b.relays.map (·.key) &&
    inq a.inquiries == inq b.inquiries

/-- A copy taken over: its sessions in place of the steward's own. -/
def takeCopy (s : State) (c : StewardState) : State :=
  ((s.wr R.CLV_STW_SEQ 0 c.sseq).setMgmt
    { s.mgmt with sessions := s.mgmt.sessions.filter (fun x => !x.steward) ++ c.sessions, relays := c.relays }).modClover
    fun v => { v with inquiries := c.inquiries, crossings := c.crossings }

/-- STEWARD_CYCLE_END (R288, R290, R294): the active steward reports crossings and sends its state; a swap asked for
takes place after the copy. The standby waits for the next copy. -/
def cycleEnd (s : State) : State :=
  match s.rd R.CLV_STW_ROLE 0 with
  | 1 =>
    let s1 := (s.emitAll (s.clover.crossings.map fun e => .healthReport e.1 e.2)).modClover fun c => { c with crossings := [] }
    match s.clover.standby with
    | none => s1
    | some b =>
      let s2 := (s1.emit (.stewardCopy (stewardState s))).wr R.CLV_STW_STATE 0 2
      if s.clover.swapNext then
        ((s2.wr R.CLV_STW_ROLE 0 2).wr R.CLV_STW_STATE 0 1).modClover fun c =>
          { c with active := some b, standby := c.active, swapNext := false, copyValid := true }
      else s2
  | 2 => s.modClover fun c => { c with copyValid := false }
  | _ => s

/-- STEWARD_CYCLE_END (R288). -/
def execStewardCycleEnd (s : State) : Host.Outcome State Fault Refusal := .next (cycleEnd s)

/-- A state copy at the standby (R288, R290): it replaces the standby's own state, with event 0xB022 where a Synced standby
finds a difference. `swap` says that the active steward gives its role up with it. -/
def copyRx (s : State) (complete crcOk swap : Bool) (c : StewardState) : State :=
  if s.rd R.CLV_STW_ROLE 0 ≠ 2 then s
  else if complete = false ∨ crcOk = false then s.bumpSat R.CLV_STW_COPY_ERR 0 1
  else
    let s1 :=
      if s.rd R.CLV_STW_STATE 0 = 2 ∧ stewardSame (stewardState s) c = false then
        (s.bumpSat R.CLV_STW_DIVERGE 0 1).record 0xB022 uFcc [(4, (s.time.sec * 1000 + s.time.ns / 1000000) % 2 ^ 32)]
      else s
    let s2 := ((takeCopy s1 c).wr R.CLV_STW_STATE 0 2).modClover fun c => { c with copyValid := true }
    if swap then
      (s2.wr R.CLV_STW_ROLE 0 1).modClover fun c => { c with active := c.standby, standby := c.active }
    else s2

/-- STATE_COPY (R288). -/
def execStateCopy (complete crcOk swap : Bool) (copy : StewardState) (s : State) : Host.Outcome State Fault Refusal :=
  .next (copyRx s complete crcOk swap copy)

/-- STATE_COPY_MISSING (R288): 0.6 ms after the boundary of a cycle of 1 ms, a Synced standby reports the active steward to the
arbiter, P2. -/
def copyMissing (s : State) : State :=
  match s.clover.active with
  | some a =>
    if 600000 ≤ s.time.ns % 1000000 ∧ s.rd R.CLV_STW_ROLE 0 = 2 ∧ s.rd R.CLV_STW_STATE 0 = 2 ∧ s.clover.copyValid = false then
      clvSend s 0xFF (Config.trayChip 2)
        (.report { subject := Config.trayChip a, alive := 0, cause := 2, port := 0xFF })
    else s
  | none => s

/-- STATE_COPY_MISSING (R288). -/
def execStateCopyMissing (s : State) : Host.Outcome State Fault Refusal := .next (copyMissing s)

/-- CLV_STW_CMD written (R290). -/
def stwCmd (s : State) : Written :=
  if s.rd R.CLV_STW_ROLE 0 = 1 ∧ s.clover.standby.isSome = true then
    done (s.modClover fun c => { c with swapNext := true })
  else deny s

/-- CLV_STW_CMD (R290). -/
def execClvStwCmd (who : Who) (value : Nat) (s : State) : Host.Outcome State Fault Refusal :=
  .next (s.guard who R.CLV_STW_CMD 0 value fun s => stwCmd s)

end Sys2Proof.Machine
end

