-- ==== Sys2Proof/Machine/Ledger.lean ====
section
/-! DEFINITION. The Ledger's stores and its commands (R331 to R337, R349). -/

namespace Sys2Proof.Machine

open Sys2Proof

/-! ### Stores -/

/-- The counts of LDG_VOL_FIRST_N to LDG_PER_LAST_N and LDG_FLASH_PEND brought up to date. -/
def ldgCounts (s : State) : State :=
  let n (f c : Nat) : Nat := ((mapSlice [] s.ledger.sectors f c).map List.length).foldl (· + ·) 0
  ((((s.wr R.LDG_VOL_FIRST_N 0 s.ledger.volFirst.length).wr R.LDG_VOL_LAST_N 0 s.ledger.volLast.length).wr
    R.LDG_PER_FIRST_N 0 (n 0 8)).wr R.LDG_PER_LAST_N 0 (n 8 24)).wr
    R.LDG_FLASH_PEND 0 (min 256 s.ledger.buffer.length)

/-- A record written to the volatile store: the first area, then the last area over its oldest (R334). -/
def volWrite (l : LedgerUnit) (r : List Byte) : LedgerUnit :=
  if l.volFirst.length < 512 then { l with volFirst := l.volFirst ++ [r] }
  else if l.volLast.length < 1536 then { l with volLast := l.volLast ++ [r] }
  else { l with volLast := l.volLast.drop 1 ++ [r] }

/-- A record written to both stores: the volatile one, and the write buffer of 256 or, when that is full, not
at all (R331, R336). -/
def ldgStore (s : State) (r : List Byte) : State :=
  let l := volWrite s.ledger r
  let q := l.drained
  if l.buffer.length < 256 then
    s.setLedger { l with buffer := l.buffer ++ [(q, r)], drained := q + 1 }
  else
    (s.bumpSat R.LDG_FLASH_DROP 0 1).setLedger
      { l with drained := q + 1, bufDropPend := l.bufDropPend + 1 }

/-- The 0xF004 records that wait for room: of the queue, and of the buffer (R331, R336). -/
def ldgLost (s : State) : State :=
  let s1 :=
    if s.ledger.lostPend ≠ 0 ∧ s.ledger.queue.length < 256 then
      (ldgEnqueue s (recBytes s 0xF004 uFcc (evFields [(4, s.ledger.lostPend), (1, 0)]))).modLedger
        fun l => { l with lostPend := 0 }
    else s
  if s1.ledger.bufDropPend ≠ 0 ∧ s1.ledger.buffer.length < 256 ∧ s1.ledger.queue.length < 256 then
    (ldgEnqueue s1 (recBytes s1 0xF004 uFcc (evFields [(4, s1.ledger.bufDropPend), (1, 1)]))).modLedger
      fun l => { l with bufDropPend := 0 }
  else s1

/-- A sector's header record (R330, R335). -/
def ldgHeader (s : State) (sec : Nat) : List Byte :=
  recBytes s 0xF002 uFcc
    (evFields [(4, 0x4C444753), (4, mapGet 0 s.ledger.erases sec), (2, sec), (1, if sec < 8 then 0 else 1)])

/-- A sector's records, header first. -/
def ldgSector (s : State) (sec : Nat) : List (List Byte) := mapGet [] s.ledger.sectors sec

/-- Whether a sector can take a record. -/
def ldgRoom (s : State) (sec : Nat) : Bool :=
  !s.ledger.skipped.contains sec && s.ledger.erasing != some sec && decide ((ldgSector s sec).length < 2048)

/-- The sectors of the last area from the current one on, in the order they fill, skipped ones left out. -/
def ldgLastOrder (s : State) : List Nat :=
  ((List.range 24).map fun j => 8 + (s.ledger.curLast + j) % 24).filter fun k => !s.ledger.skipped.contains k

/-- The sector the next record goes to (R335): the first area until it is full, then the last area's current
sector, or the next one, erased ahead of use. -/
def ldgTarget (s : State) : Option Nat :=
  match (List.range 8).find? (ldgRoom s) with
  | some k => some k
  | none => ((ldgLastOrder s).take 2).find? (ldgRoom s)

/-- An erase of a sector begun. -/
def ldgErase (s : State) (sec : Nat) : State :=
  s.modLedger fun l => { l with erasing := some sec, sectors := mapSet [] l.sectors sec [] }

/-- Records put into a sector, after its header where it holds none yet; a last-area sector that becomes half
full starts the erase of the next (R336). -/
def ldgPut (s : State) (sec : Nat) (rs : List (List Byte)) : State :=
  let old := if ldgSector s sec = [] then [ldgHeader s sec] else ldgSector s sec
  let new := old ++ rs
  let s1 := s.modLedger fun l =>
    { l with sectors := mapSet [] l.sectors sec new, curLast := if sec < 8 then l.curLast else sec - 8 }
  if 8 ≤ sec ∧ old.length < 1024 ∧ 1024 ≤ new.length ∧ s1.ledger.erasing = none then
    match (ldgLastOrder s1).drop 1 with
    | nxt :: _ => ldgErase s1 nxt
    | [] => s1
  else s1

/-- `n` waiting records programmed, at most to the end of the page under way, with the program's verification
(R336); a sector's first page begins with its header. While a clear erases, records wait; an erase ahead is suspended once 96 records wait. -/
def ldgProgram (s : State) (n : Nat) (ok : Bool) : State :=
  let l := s.ledger
  if l.clearing ≠ [] ∨ l.buffer = [] then s
  else if l.erasing ≠ none ∧ l.suspended = false ∧ l.buffer.length < 96 then s
  else
    match ldgTarget s with
    | none => s
    | some sec =>
      let pos := (ldgSector s sec).length
      let k := min (min n l.buffer.length) (8 - max 1 pos % 8)
      if ok then
        let s1 := ldgPut s sec ((l.buffer.take k).map (·.2))
        let s2 := s1.modLedger fun u =>
          { u with
            buffer := u.buffer.drop k, inFlash := ((l.buffer.take k).map (·.1 + 1)).foldl max u.inFlash,
            suspended := u.erasing != none && (u.buffer.drop k).length != 0 }
        ldgCounts (ldgLost s2)
      else
        (s.modLedger fun u => { u with skipped := u.skipped ++ [sec] }).record 0xF005 uFcc
          [(2, sec), (4, 32 * pos)]

/-- The records that wait programmed page by page, `n` pages at most. -/
def ldgFlush (n : Nat) (s : State) (ok : Bool) : State :=
  match n with
  | 0 => s
  | n + 1 => if s.ledger.buffer = [] then s else ldgFlush n (ldgProgram s 8 ok) ok

/-- The volatile records after the flash position put back into the write buffer, oldest first, as after a
reset that cleared it (R336). -/
def ldgRefill (s : State) : State :=
  let l := s.ledger
  let at_ (from_ : Nat) (rs : List (List Byte)) := (List.range rs.length).map fun i => (from_ + i, getAt [] rs i)
  let all := at_ l.volBase l.volFirst ++ at_ (l.drained - l.volLast.length) l.volLast
  ldgCounts (s.modLedger fun u => { u with buffer := all.filter fun e => decide (l.inFlash ≤ e.1) })

/-! ### Commands -/

/-- LEDGER_RECORD: a record arrives (R331, R332). -/
def execLedgerRecord (e : Event) (s : State) : Host.Outcome State Fault Refusal :=
  .next (ldgPresent s e.code (recBytes s e.code e.source (evData e.data e.layer)))

/-- LEDGER_QUEUE_DRAIN: one queued record goes to the stores (R331). -/
def execLedgerQueueDrain (s : State) : Host.Outcome State Fault Refusal :=
  match s.ledger.queue with
  | [] => .next (ldgLost s)
  | r :: rest =>
    .next (ldgCounts (ldgLost (ldgStore (s.modLedger fun l => { l with queue := rest }) r)))

/-- FLASH_PROGRAM: a ready page is programmed and verified (R336). -/
def execFlashProgram (ok : Bool) (s : State) : Host.Outcome State Fault Refusal :=
  .next (if 8 ≤ s.ledger.buffer.length ∨ s.ledger.suspended = true then ldgProgram s 8 ok else s)

/-- When the oldest record that waits to be programmed was written, in ns (R325); none waits: now. -/
def ldgOldest (s : State) : Int :=
  match s.ledger.buffer with
  | r :: _ => ((nearSec s.time.sec (leField r.2 4 4) * 1000000000 + leField r.2 0 4 : Nat) : Int)
  | [] => s.now

/-- LDG_FLUSH_EXPIRY: LDG_FLUSH_MS after the oldest the buffered records are programmed (R336). -/
def execLdgFlushExpiry (ok : Bool) (s : State) : Host.Outcome State Fault Refusal :=
  .next (if s.now < ldgOldest s + (1000000 * s.rd R.LDG_FLUSH_MS 0 : Nat) then s else if ok then ldgFlush 64 s ok else ldgProgram s 8 ok)

/-- The sector after an erase: its header written and its erase counted, or skipped until the next clear. -/
def ldgErased (s : State) (sec : Nat) (ok : Bool) : State :=
  if ok then
    let n := mapGet 0 s.ledger.erases sec + 1
    let s1 := (s.modLedger fun l => { l with erases := mapSet 0 l.erases sec n }).raise R.LDG_FLASH_ERASE_MAX 0 n
    s1.modLedger fun l => { l with sectors := mapSet [] l.sectors sec [ldgHeader s1 sec] }
  else
    (s.modLedger fun l => { l with skipped := l.skipped ++ [sec] }).record 0xF005 uFcc [(2, sec), (4, 0)]

/-- FLASH_ERASE_DONE: the erase under way completes; a clear goes on with its next sector (R336, R337). -/
def execFlashEraseDone (sector : Nat) (ok : Bool) (s : State) : Host.Outcome State Fault Refusal :=
  if s.ledger.erasing = some sector then
    let s1 := ldgErased (s.modLedger fun l =>
      { l with erasing := none, suspended := false, clearing := l.clearing.filter (· != sector) }) sector ok
    match s1.ledger.clearing with
    | nxt :: _ => .next (ldgCounts (ldgErase s1 nxt))
    | [] => .next (ldgCounts s1)
  else .next s

/-- A code of R413 for the path of a clear. -/
def pathCode (p : Path) : Nat :=
  match p with
  | .t1s => 1
  | .pcie => 2
  | .vc0 => 3

/-- The stores named by a clear discarded, the persistent one with the records that wait to be programmed into it, and
0xF003 written first in each (R337, log 87). -/
def ldgClear (s : State) (area : Nat) (p : Path) : Written :=
  if s.ledger.clearing ≠ [] then deny s
  else
    let l := s.ledger
    let vol := bitOf area 0
    let per := bitOf area 1
    let held := (if vol then l.volFirst.length + l.volLast.length else 0) +
      (if per then (l.sectors.map fun e => e.2.length - 1).foldl (· + ·) 0 + l.buffer.length else 0)
    let r := recBytes s 0xF003 uFcc (evFields [(1, area), (4, held), (1, pathCode p)])
    let l1 := { l with buckets := l.buckets.map fun b => (b.1, { b.2 with count := 0 }) }
    let l2 := if vol then { l1 with volFirst := [r], volLast := [], volBase := l.drained } else volWrite l1 r
    let l3 :=
      if per then
        { l2 with
          buffer := [(l2.drained, r)], inFlash := l2.drained, skipped := [], sectors := [], curLast := 0,
          suspended := false, clearing := List.range 32, erasing := some 0 }
      else if l2.buffer.length < 256 then { l2 with buffer := l2.buffer ++ [(l2.drained, r)] }
      else { l2 with bufDropPend := l2.bufDropPend + 1 }
    let miss := !per && decide (256 ≤ l2.buffer.length)
    let s1 := (s.setLedger { l3 with drained := l3.drained + 1 }).wr R.LDG_SUPP_PEND 0 0
    done (ldgCounts (if miss then s1.bumpSat R.LDG_FLASH_DROP 0 1 else s1))

/-- LDG_CLEAR (R337). -/
def execLdgClear (who : Who) (value : Nat) (s : State) : Host.Outcome State Fault Refusal :=
  .next (s.guard who R.LDG_CLEAR 0 value fun s => ldgClear s value who.path)

/-- A rate override written: a code may hold one slot only, and its rate and burst are at least 1 (R332,
R349). -/
def ldgOvr (s : State) (slot v : Nat) : Written :=
  if v = 0 then done (s.wr R.LDG_OVR slot 0)
  else if bits v 8 8 = 0 ∨ bits v 0 8 = 0 then (s, rRange)
  else if (List.range 64).any fun k =>
      k != slot && s.rd R.LDG_OVR k != 0 && bits (s.rd R.LDG_OVR k) 16 16 == bits v 16 16 then deny s
  else done (s.wr R.LDG_OVR slot v)

/-- LDG_OVR (R332). -/
def execLdgOvr (who : Who) (slot value : Nat) (s : State) : Host.Outcome State Fault Refusal :=
  .next (s.guard who R.LDG_OVR slot value fun s => ldgOvr s slot value)

end Sys2Proof.Machine
end

