-- ==== Sys2Proof/Machine/Domain.lean ====
section
/-! DEFINITION. What each reset clears, and the reset domains (R298, R303, R315 to R317). -/

namespace Sys2Proof.Machine

open Sys2Proof

/-! ### Entries -/

/-- Every entry of a home at its default. -/
def clearHome (s : State) (h : Home) : State :=
  (s.odClear fun idx sub _ => homeOf idx sub == h).setOdBytes
    (s.odBytes.filter fun e => homeOf (e.1 / 16777216) (e.1 / 65536 % 256) != h)

/-! ### The FCC (R298) -/

/-- Cause codes of 0xE002. -/
def seClose : Nat := 1
def seIdle : Nat := 2
def seKey : Nat := 3
def seReset : Nat := 4

/-- The 0xE002 record of a session's end (R367). -/
def sessionEnded (s : State) (x : Session) (cause : Nat) : State :=
  s.record 0xE002 uFcc [(1, x.number), (1, cause)]

/-- What the Ledger keeps when the FCC is reset: both stores and the flash position (R304, R334). -/
def ldgKept (l : LedgerUnit) : LedgerUnit :=
  { volFirst := l.volFirst, volLast := l.volLast, volBase := l.volBase, inFlash := l.inFlash, drained := l.drained, sectors := l.sectors,
    erases := l.erases, skipped := l.skipped, curLast := l.curLast }

/-- The FCC, Tally, the ODAP sessions and the steward state cleared. -/
def clearFcc (s : State) : State :=
  let open_ := s.mgmt.sessions
  let s1 := { clearHome s .fcc with
    tally := [], clover := { penalties := s.clover.penalties }, mgmt := {},
    obs := { s.obs with freeze := none, marks := 0, margin := none, marginNext := 0 },
    ledger := ldgKept s.ledger }
  ldgCounts (s1.each open_ fun t x => sessionEnded t x seReset)

/-! ### The units on the main rails (R298) -/

/-- A history without its last uncorrected error: no step that could recur is left (R99, R104). -/
def forgetSteps (m : Map ErrHist) : Map ErrHist := m.map fun e => (e.1, { e.2 with uncorr := none })

/-- The master port has left Up where it was Up (R210). -/
def portsLost (s : State) : State :=
  let p := s.rd R.TIME_MASTER_PORT 0
  if p < 6 ∧ s.portUp p = true then masterLost s p else s

/-- Compute, partitions and plans, memory, router and ports, and the endpoint cleared. Lanes that are Out stay so (R132);
the lists of the repair area and the instants of corrected errors stay. Every port leaves Up (R210), and the repeats listed are
written (R239). -/
def clearMain (s : State) : State :=
  { clearHome (portsLost (s.each (s.blocks.map (·.1)) clearRepeats)) .main with
    blocks := [], parts := [], buddies := [], router := {}, power := {}
    msys := { lineErr := forgetSteps s.msys.lineErr, rowErr := forgetSteps s.msys.rowErr, remaps := s.msys.remaps, repairs := s.msys.repairs,
              substs := s.msys.substs, selfRefresh := s.msys.selfRefresh }
    ports := s.ports.map fun e => (e.1, { outClr := e.2.outClr, relit := e.2.relit })
    host := { mem := s.host.mem, perst := s.host.perst }
    rst := { s.rst with remote := [], outstanding := [], lates := [] }
    obs := { s.obs with watch := [], margin := none, capture := none, cleared := [] }
    clover := { s.clover with nbrs := s.clover.nbrs.map fun e => (e.1, { e.2 with watched := false }) } }

/-- The lasers of modules that lase are off. -/
def lasersOff (s : State) : State :=
  s.each [0, 1] fun t m => if t.rd R.FAB_LSR_STATE m = 4 then t.wr R.FAB_LSR_STATE m 3 else t

/-! ### Domains (R315) -/

/-- The domains a domain contains. -/
def containedIn (u : Nat) : List Nat :=
  let block (b : Nat) : List Nat := uBlock b :: (List.range 5).map (uCell b)
  match u / 4096 with
  | 2 => (List.range 5).map (uCell (u % 128))
  | 3 => ((regionBlocks (u % 8)).map block).flatten
  | 6 => if u = uRouter then (List.range 6).map uPort else []
  | _ => []

/-- Every domain of the chip but the FCC's. -/
def mainDomains : List Nat :=
  ((List.range 8).map fun r => uRegion r :: containedIn (uRegion r)).flatten ++ (List.range 8).map uHbm ++
    uRouter :: containedIn uRouter ++ [uEndpoint]

/-- Whether planned work in progress keeps a domain from a requested reset. -/
def domBusy (s : State) (u : Nat) : Bool :=
  let plans := (List.range 128).filter s.active
  match u / 4096 with
  | 1 => s.active (s.partOf (bits u 3 7))
  | 2 => s.active (s.partOf (u % 128))
  | 3 => (regionBlocks (u % 8)).any fun b => s.active (s.partOf b)
  | 5 => plans.any fun p => fpHbm (s.img p) (u % 8) != 0
  | 6 => u == uRouter && plans.any fun p => decide (1 < fpChips (s.img p))
  | 7 => false
  | _ => (List.range 128).any fun p => s.pstate p == psRunning

/-- A cell cleared (R44), and with it the tiles that CS mirrors for it (R9) but where CS holds them in its place (R235). -/
def clearCell (k : Block) (c subst : Nat) : Block :=
  let k1 := k.modCell c fun _ => {}
  if c = 4 then { k1 with csActive := [], csShadow := [] }
  else if c = subst then k1
  else { k1 with csActive := mapDel k1.csActive c, csShadow := mapDel k1.csShadow c }

/-- A block cleared: its cells, sequencers, vector registers, counters, stream buffers and mover channels. -/
def clearBlock (s : State) (b : Nat) : State :=
  let s1 := s.modBlock b fun k =>
    { blockIdle k with
      cells := [], csActive := [], csShadow := [], vregs := [], seqA := {}, seqB := {}, consumers := [], movers := [],
      verdicts := [] }
  ((clearRepeats s1 b).wr R.CMP_SEQ_A b 0 |>.wr R.CMP_SEQ_B b 0).odClear fun idx _ i => idx == 0x3040 && i == b

/-- A stack's controller reset with the stack in self refresh: what waits there is abandoned; it trains. -/
def clearStack (s : State) (n : Nat) : State :=
  let here (h : HeldAccess) : Bool := match h.unit with
    | .slice k => k / 48 == n
    | .block _ => false
  let s1 := s.each (s.msys.held.filter here) fun t h =>
    match h.mover with
    | some m => resetCmd t m
    | none => t
  (s1.modMsys fun m => { m with held := m.held.filter fun h => !here h }).wr R.MEM_HBM_STATE n 2

/-- A port in Off: its retry state and credits are cleared, its held packets wait (R168). -/
def clearPort (s : State) (p : Nat) : State :=
  let s1 := (leaveUp s p).modPort p fun o =>
    { txq := o.txq, outClr := o.outClr, relit := o.relit, downNs := o.downNs, holdDone := o.holdDone }
  let s2 := (((s1.wr R.FAB_PORT_STATE p 0).wr R.FAB_PORT_CAUSE p 0).wr R.FAB_PORT_WIDTH_RX p 0).wr R.FAB_PORT_WIDTH_TX p 0
  let s3 := s2.wr R.FAB_PORT_PARTNER p 0xFFFFFFFF
  if isOptical p ∧ s3.rd R.FAB_LSR_STATE (moduleOf p) = 4 then s3.wr R.FAB_LSR_STATE (moduleOf p) 3 else s3

/-- The router's core, collective units and window contexts cleared, both table versions at their defaults, version 0 Active
(R165). The chip number and the port that FCLK follows stay: the one changes at a training, the other at the loss of its clock
(R137, R174). -/
def clearRouter (s : State) : State :=
  let s1 := (s.setRouter { chipId := s.router.chipId, clkPort := s.router.clkPort }).odClear fun idx sub _ =>
    (decide (0x4101 ≤ idx) && decide (idx ≤ 0x4105)) || (idx == 0x4120 && sub == 5) || (idx == 0x4110 && sub == 6) ||
      (idx == 0x4100 && sub == 3)
  s1.setPorts (s1.ports.map fun e => (e.1, { e.2 with txq := [], cur := [] }))

/-- The endpoint cleared after every function is reset (R194, R298). -/
def clearEndpoint (s : State) : State :=
  let s1 := s.each (allFuncs s) fun t f => resetOne t 0 f
  let s2 := s1.odClear fun idx _ _ => decide (0x5000 ≤ idx) && decide (idx ≤ 0x5002)
  (s2.modHost fun h => { mem := h.mem, perst := h.perst }).modRst fun r =>
    { r with outstanding := r.outstanding.filter fun e => e.2.mover.isNone }

/-- What a domain's reset clears. -/
def domClear (s : State) (u : Nat) : State :=
  match u / 4096 with
  | 1 => s.modBlock (bits u 3 7) fun k => clearCell k (u % 8) (s.rd R.CHK_SUBST (bits u 3 7))
  | 2 => clearBlock s (u % 128)
  | 3 => s.clear (stagingBase (u % 8)) 0x100000
  | 5 => clearStack s (u % 8)
  | 6 => if u = uRouter then clearRouter s else clearPort s (u % 8)
  | 7 => clearEndpoint s
  | 14 => (clearFcc s).wr R.CLV_STATE 0 (s.rd R.CLV_STATE 0)
  | _ => s

/-- The instant of a domain's reset noted (R316). -/
def domNote (s : State) (u : Nat) : State :=
  s.modRst fun r =>
    let l := (mapGet {} r.domains u).resets ++ [s.uptimeMs]
    { r with domains := mapPut r.domains u { resets := l.drop (l.length - 16) } }

/-- One domain enters reset, once: event 0xC010 with its cause and the generation it will leave with. -/
def domOne (s : State) (u cause : Nat) : State :=
  if s.rd R.RST_DOM_STATE u ≠ 0 then s
  else
    let s1 := domNote (domClear s u) u
    ((s1.wr R.RST_DOM_STATE u 1).bumpSat R.RST_DOM_COUNT u 1).record 0xC010 u
      [(1, cause), (1, (s.rd R.RST_DOM_GEN u + 1) % 16)]

/-- A domain and every domain it contains reset. -/
def domReset (s : State) (u cause : Nat) : State :=
  (domOne s u cause).each (containedIn u) fun t v => domOne t v 3

/-- RST_DOM_CMD written (R315). -/
def domCmd (s : State) (u : Nat) : Written := if domBusy s u then deny s else done (domReset s u 1)

/-- RST_DOM_CMD (R315). -/
def execRstDomCmd (who : Who) (unit value : Nat) (s : State) : Host.Outcome State Fault Refusal :=
  .next (s.guard who R.RST_DOM_CMD unit value fun s => domCmd s unit)

/-! ### The FCC begins (R287, R347, R370, R372) -/

/-- The tray role of a position; a returning P0 joins a steward that it hears as standby (R287, R290). -/
def stewardStart (s : State) (heard : Bool) : State :=
  match s.rd R.CLV_STW_POS 0, heard with
  | 0, false => s.wr R.CLV_STW_ROLE 0 1
  | 0, true =>
    ((s.wr R.CLV_STW_ROLE 0 2).wr R.CLV_STW_STATE 0 1).modClover fun c => { c with active := some 1, standby := some 0 }
  | 1, h => (s.wr R.CLV_STW_ROLE 0 2).wr R.CLV_STW_STATE 0 (b2n h)
  | 2, _ => s.wr R.CLV_STW_ROLE 0 3
  | _, _ => s


/-- The FCC starts: its Tally channel, the tray role, the tray key's copy in the always-on core. -/
def fccStart (s : State) (heard : Bool) : State :=
  let s1 := (stewardStart (clvChannel s (s.rd R.CLV_TALLY_CH 0)) heard).wr R.CLV_TRAY_ID 0 Config.trayId
  if keySet s 3 then s1.modRst fun r => { r with trayKey := some (s.rdB R.MGT_KEY_TRAY 0) } else s1

/-! ### Leaving reset (R316) -/

/-- What happens as a domain leaves reset: zeroing restarts (R116), a stack has trained or failed (R100), a port trains,
the endpoint's function is there, the FCC starts. -/
def domUp (s : State) (u : Nat) (fail : Option (Nat × Nat)) : State :=
  match u / 4096 with
  | 2 => if s.rd R.MEM_ZERO_BLOCK (u % 128) = 1 then zeroBlock s (u % 128) 2 else s
  | 5 =>
    let n := u % 8
    match fail with
    | some (stage, channel) => (s.wr R.MEM_HBM_STATE n 1).record 0x5015 u [(1, stage), (1, channel)]
    | none =>
      let ks := ((List.range 48).map (48 * n + ·)).filter fun k => s.rd R.MEM_ZERO_SLICE k == 2
      (s.wr R.MEM_HBM_STATE n 0).each ks fun t k => zeroSlice t k 3
  | 6 => if u = uRouter then s else leaveOff s (u % 8)
  | 7 => if s.host.perst then s else s.wr R.HOST_FN_STATE 0 1
  | 14 => fccStart s false
  | _ => s

/-- The instant, in ms, until which a domain's exit from its sixteenth reset within FAB_PKT_LIFE_MS is delayed. -/
def domHeld (s : State) (u : Nat) : Option Nat :=
  let life := s.rd R.FAB_PKT_LIFE_MS 0
  match (mapGet {} s.rst.domains u).resets with
  | first :: rest => if rest.length = 15 ∧ s.uptimeMs < first + life then some (first + life) else none
  | [] => none

/-- One domain leaves reset, or is delayed with event 0xC013. -/
def domExit (s : State) (u : Nat) (fail : Option (Nat × Nat)) : State :=
  let st := s.rd R.RST_DOM_STATE u
  if st = 0 then s
  else
    match domHeld s u with
    | some t =>
      if st = 1 then (s.wr R.RST_DOM_STATE u 2).record 0xC013 uFcc [(2, u), (4, t - s.uptimeMs)] else s
    | none => domUp ((s.wr R.RST_DOM_STATE u 0).wr R.RST_DOM_GEN u ((s.rd R.RST_DOM_GEN u + 1) % 16)) u fail

/-- DOMAIN_RESET_EXIT (R316): the domains it contains, whose resets are shorter, have left theirs. -/
def execDomainResetExit (unit : Nat) (fail : Option (Nat × Nat)) (s : State) : Host.Outcome State Fault Refusal :=
  .next (domExit (s.each (containedIn unit) fun t v => domExit t v none) unit fail)

/-! ### The endpoint's fundamental reset (R297, R298) -/

/-- PERST# asserted: the PCIe domain is in reset. -/
def perstLow (s : State) : State :=
  if s.host.perst then s
  else
    let s1 := (clearEndpoint s).modHost fun h => { h with perst := true }
    if s1.rd R.RST_DOM_STATE uEndpoint ≠ 0 then s1
    else ((domNote s1 uEndpoint).wr R.RST_DOM_STATE uEndpoint 1).bumpSat R.RST_DOM_COUNT uEndpoint 1

/-- PCIE_FUNDAMENTAL_RESET (R298). -/
def execPcieFundamentalReset (s : State) : Host.Outcome State Fault Refusal := .next (perstLow s)

/-- PERST_RELEASE (R297): the PCIe domain leaves reset and the endpoint trains again. -/
def execPerstRelease (s : State) : Host.Outcome State Fault Refusal :=
  .next (if s.host.perst then domExit (s.modHost fun h => { h with perst := false }) uEndpoint none else s)

end Sys2Proof.Machine
end

