-- ==== Sys2Proof/Machine/Boot.lean ====
section
/-! DEFINITION. Chip-level resets, power and bring-up (R297 to R308, R321, R405 to R411). -/

namespace Sys2Proof.Machine

open Sys2Proof

/-! ### The life record's copies (R396) -/

/-- The life record's entries. -/
def lifeEntries (s : State) : Map Nat :=
  s.od.filter fun e => decide (0x9010 ≤ e.1 / 16777216) && homeOf (e.1 / 16777216) (e.1 / 65536 % 256) == .flash

/-- The life record resumed from its copy with the higher sequence number; the time to the next margin test counts from here
(log 86). -/
def lifeResume (s : State) : State :=
  let cs := s.obs.lifeCopies.map (·.2)
  let best := cs.foldl (fun (b : LifeCopy) c => if b.seq < c.seq then c else b) {}
  let s1 := s.odClear fun idx sub _ => decide (0x9010 ≤ idx) && homeOf idx sub == .flash
  let life := best.entries.filter fun e =>
    decide (0x9010 ≤ e.1 / 16777216) && homeOf (e.1 / 16777216) (e.1 / 65536 % 256) == .flash
  let s2 := s1.setOd (life.foldl (fun m e => mapPut m e.1 e.2) s1.od)
  s2.modObs fun o => { o with marginAtS := s2.rd R.LIFE_POWERED_S 0 }

/-! ### The strap (R301, R302) -/

/-- The code of a reading: the window of ± 0.020 it lies in, 0xFF outside every one. -/
def strapCode (adc : Nat) : Nat :=
  match (List.range 16).find? fun k =>
      decide (1000 * (((32 * adc : Nat) : Int) - (((2 * k + 1) * 1023 : Nat) : Int)).natAbs ≤ 640 * 1023) with
  | some k => k
  | none => 0xFF

/-- The boot mode of a code; a fault gives recovery. -/
def strapMode (code : Nat) : BootMode :=
  if code = 0xFF then .recovery
  else match code % 4 with
  | 0 => .normal
  | 1 => .recovery
  | 2 => .manufacturing
  | _ => .dormant

/-- RST_CAUSE's bits set. -/
def causeBits (s : State) (bits_ : Nat) : State := s.wr R.RST_CAUSE 0 (s.rd R.RST_CAUSE 0 ||| bits_)

/-- Backup register 7: held, storm, the last strap code (R303). -/
def bkp7 (s : State) : State :=
  let c := s.rd R.RST_CAUSE 0
  s.wr R.RST_BKP 7 (bits c 5 1 + 2 * bits c 6 1 + 16 * s.rst.lastCode.getD 0)

/-- The strap read at the start of stages 1 and 2: position and boot mode; a fault and a change are recorded. -/
def readStrap (s : State) (adc : Nat) : State :=
  let code := strapCode adc
  let pos := if code = 0xFF then 3 else code / 4
  let s1 := ((s.wr R.RST_STRAP_ADC 0 adc).wr R.RST_STRAP_CODE 0 code).wr R.CLV_STW_POS 0 pos
  let s2 := s1.modRst fun r => { r with mode := strapMode code, lastCode := some code }
  let s3 := if code = 0xFF then (causeBits s2 128).record 0xC030 uFcc [(2, adc)] else s2
  match s.rst.lastCode with
  | some old => bkp7 (if old = code then s3 else s3.record 0xC031 uFcc [(1, old), (1, code)])
  | none => bkp7 s3

/-! ### Resets of the chip (R297 to R300) -/

/-- Recovery boot (R300): with the FCC's image, or by the boot ROM. -/
def recovery (s : State) (rom : Bool) : State :=
  (s.wr R.RST_STAGE 0 9).modRst fun r => { r with romRecovery := rom }

/-- Every domain's generation advanced as the chip leaves reset (R316). -/
def advanceGens (s : State) (fcc : Bool) : State :=
  s.each (if fcc then mainDomains ++ [uFcc] else mainDomains) fun t u =>
    (domNote t u).wr R.RST_DOM_GEN u ((t.rd R.RST_DOM_GEN u + 1) % 16)

/-- A chip-level reset begins: what it clears (R298), its cause, the stage that follows it. A second source while the chip is
held adds its bit (R322). -/
def resetBegin (s : State) (bit stage : Nat) : State :=
  if s.rst.inReset then causeBits s (2 ^ bit)
  else
    let fcc := decide (stage = 2)
    let s1 := lasersOff (advanceGens (clearMain s) fcc)
    let s2 := (if fcc then clearFcc s1 else s1).odClear fun idx sub _ => idx == 0x2020 && sub == 2
    let s3 := (((s2.wr R.RST_CAUSE 0 (2 ^ bit)).wr R.RST_HELD 0 0).wr R.CLV_STATE 0 2).wr R.RST_STAGE 0 stage
    s3.modRst fun r =>
      { r with inReset := true, stage2Done := false, romRecovery := false, rrs := false, bootFrom := stage }

/-- The exit of a reset recorded in the backup registers (R300, R303). -/
def noteExit (s : State) : State :=
  let t := s.uptimeMs
  let l := (s.rst.exits.filter fun x => decide (t ≤ x + 60000)) ++ [t]
  let n := s.rd R.RST_BOOT 0 + 1
  let s1 := ((s.modRst fun r => { r with exits := l }).wr R.RST_BOOT 0 n).wr R.RST_BKP 1 n
  let s2 := (s1.each [6, 5, 4, 3] fun u k => u.wr R.RST_BKP k (u.rd R.RST_BKP (k - 1))).wr R.RST_BKP 2 t
  s2.wr R.RST_STORM 0 (min l.length 255)

/-- A chip-level reset ends and bring-up runs from its stage (R297). The fifth exit within 60 s, and every later one, brings
the chip up in recovery boot (R300), unless software leaves recovery boot, which is a reset in normal mode. -/
def resetEnd (s : State) (leave : Bool) : State :=
  let rise (r : ResetUnit) : Bool := !r.pwrEn && r.bootFrom == 2
  let s1 := noteExit (s.modRst fun r =>
    { r with inReset := false, pwrEn := r.pwrEn || rise r, pwrEnMs := if rise r then s.uptimeMs else r.pwrEnMs })
  let storm := decide (5 ≤ s1.rst.exits.length) && !leave
  let s2 := if storm then (causeBits s1 64).record 0xC003 uFcc [(4, s1.rst.exits.length), (4, 60000)] else s1
  let s3 := if s2.rst.bootFrom = 2 then readStrap s2 (s2.rd R.RST_STRAP_ADC 0) else s2.bumpSat R.LIFE_RESETS 0 1
  let s4 := if leave then s3.modRst fun r => { r with mode := .normal } else s3
  let s5 := bkp7 (s4.wr R.RST_BKP 0 (s4.rd R.RST_CAUSE 0))
  if s5.rst.bootFrom ≠ 2 ∧ (storm = true ∨ s5.rst.mode = .recovery) then recovery s5 false else s5

/-- Whether the boot ROM must run again: a new image waits, no image runs, or the rails are down (R307, R407). -/
def romNeeded (s : State) : Bool :=
  s.rst.romRecovery || s.rd R.RST_IMG_STATE 0 == 4 || !(s.rst.pwrEn && s.rst.pwrGood)

/-- A warm reset (R297). -/
def warm (s : State) (leave : Bool) : State :=
  if s.rst.inReset then s else resetEnd (resetBegin s 4 (if romNeeded s then 2 else 3)) leave

/-- WARM_RESET (R297): RST_CMD = 1. -/
def execWarmReset (who : Who) (s : State) : Host.Outcome State Fault Refusal :=
  .next (s.guard who R.RST_CMD 0 1 fun s => done (warm s false))

/-- RST_CMD = 2, in recovery boot only. -/
def leaveRecovery (s : State) : Written := if s.rd R.RST_STAGE 0 = 9 then done (warm s true) else deny s

/-- LEAVE_RECOVERY_BOOT (R300): RST_CMD = 2. -/
def execLeaveRecoveryBoot (who : Who) (s : State) : Host.Outcome State Fault Refusal :=
  .next (s.guard who R.RST_CMD 0 2 fun s => leaveRecovery s)

/-- PORSTN_ASSERT (R299): a low pulse of a length in ns; between 8 µs and 10 µs the device may honour it or not. -/
def porstn (s : State) (ns : Nat) (honour : Bool) : State :=
  if s.rst.standby = false ∨ s.rst.porstLow = true then s
  else if ns < 8000 ∨ (ns < 10000 ∧ honour = false) then s.bumpSat R.RST_GLITCH 0 1
  else (resetBegin s 1 2).modRst fun r => { r with porstLow := true, lowSince := s.uptimeMs }

/-- PORSTN_ASSERT (R299). -/
def execPorstnAssert (ns : Nat) (honour : Bool) (s : State) : Host.Outcome State Fault Refusal := .next (porstn s ns honour)

/-- How long PORSTn has been low, in s. -/
def heldSeconds (s : State) : Nat := (s.uptimeMs - s.rst.lowSince) / 1000

/-- PORSTn low for more than 2 s (R299): RST_HELD, and event 0xC002, which the island writes into the volatile store
itself. -/
def porstnHeld (s : State) : State :=
  if s.rst.porstLow = false ∨ s.rd R.RST_HELD 0 = 1 ∨ s.uptimeMs ≤ s.rst.lowSince + 2000 then s
  else
    let s1 := bkp7 (causeBits (s.wr R.RST_HELD 0 1) 32)
    let r := recBytes s1 0xC002 uFcc (evFields [(4, heldSeconds s1)])
    ldgCounts (s1.modLedger fun l => { volWrite l r with drained := l.drained + 1 })

/-- PORSTN_HELD (R299). -/
def execPorstnHeld (s : State) : Host.Outcome State Fault Refusal := .next (porstnHeld s)

/-- PORSTN_RELEASE (R299): bring-up runs from stage 2, after a thermal trip only once that has cleared (R411). -/
def porstnUp (s : State) (adc : Nat) : State :=
  if s.rst.porstLow = false then s
  else
    let s1 := (s.modRst fun r => { r with porstLow := false }).wr R.RST_STRAP_ADC 0 adc
    if s.rst.thermTrip then s1 else resetEnd s1 false

/-- PORSTN_RELEASE (R299). -/
def execPorstnRelease (adc : Nat) (s : State) : Host.Outcome State Fault Refusal := .next (porstnUp s adc)

/-- FCC_WATCHDOG_EXPIRY (R297); the watchdog of an FCC that is held does not run. -/
def execFccWatchdogExpiry (s : State) : Host.Outcome State Fault Refusal :=
  .next (if s.rst.standby = false ∨ s.rst.inReset = true then s else resetEnd (resetBegin s 2 2) false)

/-- The thermal trip (R411): PWR_EN drops and the chip is held. -/
def trip (s : State) : State :=
  if s.rst.standby = false ∨ s.rst.thermTrip = true then s
  else (resetBegin s 3 2).modRst fun r => { r with thermTrip := true, pwrEn := false }

/-- THERMAL_TRIP (R411). -/
def execThermalTrip (s : State) : Host.Outcome State Fault Refusal := .next (trip s)

/-- Every sensor below 95 °C (R411). -/
def tripClear (s : State) : State :=
  if s.rst.thermTrip = false then s
  else
    let s1 := s.modRst fun r => { r with thermTrip := false }
    if s.rst.porstLow then s1 else resetEnd s1 false

/-- THERMAL_TRIP_CLEAR (R411). -/
def execThermalTripClear (s : State) : Host.Outcome State Fault Refusal := .next (tripClear s)

/-! ### Power (R405 to R407) -/

/-- What no loss of power takes: the flash (keys, the Ledger's persistent store, the life record's copies, the image slots
and the saved open counter), host memory, and what was sent. -/
def unpowered (s : State) : State :=
  let l := s.ledger
  ldgCounts
    { State.reset with
      pending := s.pending, outbox := s.outbox, free := s.free
      od := s.od.filter fun e => e.1 / 16777216 == 0x1120 && homeOf 0x1120 (e.1 / 65536 % 256) == .flash
      odBytes := s.odBytes.filter fun e => homeOf (e.1 / 16777216) (e.1 / 65536 % 256) == .flash
      host := { mem := s.host.mem, perst := s.host.perst }
      ledger := { sectors := l.sectors, erases := l.erases, skipped := l.skipped, curLast := l.curLast }
      obs := { lifeCopies := s.obs.lifeCopies }
      rst := { imgA := s.rst.imgA, imgB := s.rst.imgB, openCount := s.rst.openSaved + 1024, openSaved := s.rst.openSaved } }

/-- The highest erase count of the sectors' headers. -/
def eraseMax (s : State) : Nat := (s.ledger.erases.map (·.2)).foldl max 0

/-- POWER_ON (R297, R405): the standby rails are good; bring-up runs from stage 1, which reads the strap. -/
def powerOn (s : State) (adc : Nat) : State :=
  let s1 := (unpowered s).modRst fun r => { r with standby := true }
  readStrap (s1.wr R.LDG_FLASH_ERASE_MAX 0 (eraseMax s1)) adc

/-- POWER_ON (R297). -/
def execPowerOn (adc : Nat) (s : State) : Host.Outcome State Fault Refusal := .next (powerOn s adc)

/-- STANDBY_POWER_LOSS (R276): the island stops. -/
def execStandbyPowerLoss (s : State) : Host.Outcome State Fault Refusal := .next (unpowered s)

/-- Main rails lost or removed: every domain on them is in reset until the next bring-up; PWR_EN is low. -/
def railsDown (s : State) : State := (lasersOff (clearMain s)).modRst fun r => { r with pwrEn := false }

/-- PWR_GOOD_FALL (R407). -/
def execPwrGoodFall (s : State) : Host.Outcome State Fault Refusal :=
  let s1 := s.modRst fun r => { r with pwrGood := false }
  .next (if s.rst.pwrEn = true ∧ s.rst.pwrGood = true then railsDown s1 else s1)

/-- ORDERLY_SHUTDOWN (R406): every stack in self refresh, which no partition with a plan allows (R101); PWR_EN drops. -/
def execOrderlyShutdown (s : State) : Host.Outcome State Fault Refusal :=
  .next (if (List.range 128).any fun p => s.pstate p != psEmpty then s
    else railsDown (s.modMsys fun m => { m with selfRefresh := true }))

/-! ### Bring-up (R304 to R308) -/

/-- Stage 3 begins: at the later of PWR_GOOD and the end of stage 2 (R405). -/
def toStage3 (s : State) : State :=
  if s.rst.pwrGood then (s.wr R.RST_STAGE 0 3).modRst fun r => { r with stage2Done := false } else s

/-- PWR_GOOD_RISE (R405). -/
def execPwrGoodRise (s : State) : Host.Outcome State Fault Refusal :=
  let s1 := s.modRst fun r => { r with pwrGood := true }
  .next (if s.rst.pwrEn = true ∧ s.rst.stage2Done = true then toStage3 s1 else s1)

/-- PWR_GOOD not high 100 ms after PWR_EN (R405): PWR_EN drops, event 0xC004 with stage 3, recovery boot; while stage 2
still runs, after it. -/
def pwrTimeout (s : State) : State :=
  if s.rst.pwrEn = false ∨ s.rst.pwrGood = true ∨ s.uptimeMs < s.rst.pwrEnMs + 100 then s
  else
    let s1 := (s.modRst fun r => { r with pwrEn := false }).record 0xC004 uFcc [(1, 3), (2, uFcc), (1, 1)]
    if s.rst.stage2Done then recovery (s1.modRst fun r => { r with stage2Done := false }) false else s1

/-- PWR_GOOD_TIMEOUT (R405). -/
def execPwrGoodTimeout (s : State) : Host.Outcome State Fault Refusal := .next (pwrTimeout s)

/-- The first failing check of an image slot: 1 CRC, 2 signature, 3 version; 0 where it passes (R306). -/
def bootFail (c : BootCheck) : Nat :=
  if c.crcOk = false then 1 else if c.sigOk = false then 2 else if c.version < Config.rollback then 3 else 0

/-- A list of the repair area cleared: 1 SRAM remaps, 2 the HBM repair list, 3 substitutions (R304). -/
def dropList (s : State) (k : Nat) : State :=
  let s1 := s.modMsys fun m =>
    match k with
    | 1 => { m with remaps := [] }
    | 2 => { m with repairs := [] }
    | _ => { m with substs := [] }
  s1.record 0xC004 uFcc [(1, 1), (2, uFcc), (1, k)]

/-- Stage 1 ends (R304, R305): the lists that fail are cleared, PWR_EN rises, and stage 2 reads the strap. -/
def stage1End (s : State) (e : StageEnd) : State :=
  if e.ok then
    readStrap (((s.each e.badLists dropList).wr R.RST_STAGE 0 2).modRst fun r => { r with pwrEn := true, pwrEnMs := s.uptimeMs }) e.strapAdc
  else s.modRst fun r => { r with stage1Bad := true }

/-- A flash sector without a valid header (R308): erased again unless it is blank; its header and event 0xC006 are
written. -/
def sectorAgain (s : State) (x : Nat × Bool) : State :=
  let n := mapGet 0 s.ledger.erases x.1 + if x.2 then 0 else 1
  let s1 := (s.modLedger fun l => { l with erases := mapSet 0 l.erases x.1 n }).raise R.LDG_FLASH_ERASE_MAX 0 n
  (s1.modLedger fun l => { l with sectors := mapSet [] l.sectors x.1 [ldgHeader s1 x.1] }).record 0xC006 uFcc [(1, x.1)]

/-- What the FCC does as its image starts at stage 2: flash sectors, the records that flash lacks (R336), the life record
and its counts of resets, the failure of stage 1, open mode. -/
def fccBoot (s : State) (e : StageEnd) : State :=
  let c := s.rd R.RST_CAUSE 0
  let s1 := fccStart s e.stewardHeard
  let s2 := lifeResume (s1.each e.badSectors sectorAgain)
  let s3 := if bitOf c 0 then ldgCounts (s2.bumpSat R.LIFE_POWER_ONS 0 1) else (ldgRefill s2).bumpSat R.LIFE_RESETS 0 1
  let s4 := if bitOf c 3 then s3.bumpSat R.LIFE_TRIPS 0 1 else s3
  let s5 := if s4.rst.stage1Bad then
      (s4.modRst fun r => { r with stage1Bad := false }).record 0xC004 uFcc [(1, 1), (2, uFcc), (1, 1)]
    else s4
  if openMode s5 then s5.record 0xE005 uFcc [(1, 0), (1, 0)] else s5

/-- Stage 2 ends (R306): the image of slot A runs, or of B; with neither the boot ROM serves recovery (R307). -/
def stage2End (s : State) (e : StageEnd) : State :=
  let a := bootFail e.slotA
  let b := bootFail e.slotB
  let s1 := if a = 0 then s else s.record 0xC005 uFcc [(1, 0), (1, a)]
  let s2 := if a = 0 ∨ b = 0 then s1 else s1.record 0xC005 uFcc [(1, 1), (1, b)]
  if a ≠ 0 ∧ b ≠ 0 then recovery s2 true
  else
    let s3 := (s2.wr R.ID_FW_SLOT 0 (if a = 0 then 0 else 1)).wr R.ID_FW_VER 0
      (if a = 0 then e.slotA.version else e.slotB.version)
    let s4 := fccBoot s3 e
    if e.ok = false ∨ s4.rst.mode = .recovery ∨ s4.rst.pwrEn = false ∨ bitOf (s4.rd R.RST_CAUSE 0) 6 = true then
      recovery s4 false
    else toStage3 (s4.modRst fun r => { r with stage2Done := true })

/-- Stage 4 ends (R100, R104, R112): stacks are trained or failed, rows repaired, all memory zeroed; the ports train. -/
def stage4End (s : State) (e : StageEnd) : State :=
  let bad (n : Nat) : Bool := e.stackFail.any fun f => f.1 == n
  let s1 := s.each (List.range 8) fun t n => t.wr R.MEM_HBM_STATE n (b2n (bad n))
  let s2 := s1.each e.stackFail fun t f => t.record 0x5015 (uHbm f.1) [(1, f.2.1), (1, f.2.2)]
  let s3 := s2.each (s.msys.repairs.filter fun r => !bad r.1) fun t r => t.record 0x5013 (uHbm r.1) [(4, r.2)]
  (((s3.setMem []).setPoison []).wr R.RST_STAGE 0 5).each (List.range 6) leaveOff

/-- Stage 6 ends: substitutions are applied (R235); a block that cannot run leaves the chip Fenced. -/
def stage6End (s : State) (e : StageEnd) : State :=
  let s1 := s.each s.msys.substs fun t x => t.wr R.CHK_SUBST x.1 x.2
  let s2 := if e.ok then s1 else (s1.wr R.CLV_STATE 0 1).record 0xC004 uFcc [(1, 6), (2, e.unit), (1, 1)]
  s2.wr R.RST_STAGE 0 7

/-- How long bring-up has taken: the stages it ran. -/
def bringupMs (s : State) : Nat :=
  ((List.range 8).filter fun k => decide (s.rst.bootFrom ≤ k) && decide (1 ≤ k)).foldl
    (fun a k => a + s.rd R.RST_STAGE_MS k) 0

/-- Stage 7 ends: Ready (R305). The physical function is there, unless the stage failed; the chip is a member, unless it is
Fenced or in manufacturing test (R302); a dormant spare is Dormant. -/
def stage7End (s : State) (e : StageEnd) : State :=
  let s1 := (s.wr R.RST_STAGE 0 8).modRst fun r => { r with rrs := !e.ok }
  let s2 := if e.ok then s1.wr R.HOST_FN_STATE 0 (b2n (!s1.host.perst))
    else s1.record 0xC004 uFcc [(1, 7), (2, e.unit), (1, 1)]
  let s3 := if s2.rd R.CLV_STATE 0 = 2 ∧ s2.rst.mode ≠ .manufacturing then s2.wr R.CLV_STATE 0 0 else s2
  let s4 := if s3.rst.mode = .dormant then s3.each (List.range 128) fun t p => t.wr R.SEAL_SPARE_STATE p 1 else s3
  s4.record 0xC001 uFcc [(4, s4.rd R.RST_CAUSE 0), (4, s4.rd R.RST_BOOT 0), (4, bringupMs s4)]

/-- The stage under way ends (R305). -/
def stageEnd (s : State) (e : StageEnd) : State :=
  let k := s.rd R.RST_STAGE 0
  if s.rst.standby = false ∨ s.rst.inReset = true ∨ s.rst.stage2Done = true ∨ 8 ≤ k ∨
      (3 ≤ k ∧ (s.rst.pwrEn = false ∨ s.rst.pwrGood = false)) then s
  else
    let s1 := s.wr R.RST_STAGE_MS k e.durationMs
    match k with
    | 1 => stage1End s1 e
    | 2 => stage2End s1 e
    | 3 =>
      if e.ok then
        ((s1.modMsys fun m => { m with selfRefresh := false }).each (List.range 8) fun t n => t.wr R.MEM_HBM_STATE n 2).wr
          R.RST_STAGE 0 4
      else recovery s1 false
    | 4 => stage4End s1 e
    | 5 => s1.wr R.RST_STAGE 0 6
    | 6 => stage6End s1 e
    | _ => stage7End s1 e

/-- BRINGUP_STAGE_END (R305). -/
def execBringupStageEnd (e : StageEnd) (s : State) : Host.Outcome State Fault Refusal := .next (stageEnd s e)

/-! ### The recovery image service (R307) -/

/-- The image slot that RST_IMG_SLOT names, and that slot changed. -/
def imgSlot (s : State) : ImageSlot := if s.rd R.RST_IMG_SLOT 0 = 0 then s.rst.imgA else s.rst.imgB
def modImg (s : State) (f : ImageSlot → ImageSlot) : State :=
  s.modRst fun r => if s.rd R.RST_IMG_SLOT 0 = 0 then { r with imgA := f r.imgA } else { r with imgB := f r.imgB }

/-- Whether an erase or a check is under way. -/
def imgBusy (s : State) : Bool := s.rd R.RST_IMG_STATE 0 == 1 || s.rd R.RST_IMG_STATE 0 == 3

/-- Image bytes written at RST_IMG_OFFSET into a slot erased since its last check. -/
def imgData (s : State) (bytes : List Byte) : Written :=
  let o := s.rd R.RST_IMG_OFFSET 0
  if 1016 < bytes.length then (s, rRange)
  else if imgBusy s = true ∨ (imgSlot s).erased = false ∨ 8388608 < o + bytes.length then deny s
  else
    let s1 := modImg s fun i => { i with bytes := mapSplice 0xFF i.bytes o bytes }
    done ((s1.wr R.RST_IMG_OFFSET 0 (o + bytes.length)).wr R.RST_IMG_STATE 0 2)

/-- RST_IMG_DATA (R307). -/
def execRstImgData (who : Who) (bytes : List Byte) (s : State) : Host.Outcome State Fault Refusal :=
  .next (s.guard who R.RST_IMG_DATA 0 0 fun s => imgData s bytes)

/-- RST_IMG_CMD = 1: an erase begins. -/
def imgEraseCmd (s : State) : Written := if imgBusy s then deny s else done (s.wr R.RST_IMG_STATE 0 1)

/-- IMG_ERASE (R307). -/
def execImgErase (who : Who) (s : State) : Host.Outcome State Fault Refusal :=
  .next (s.guard who R.RST_IMG_CMD 0 1 fun s => imgEraseCmd s)

/-- RST_IMG_CMD = 2: a check begins; the slot takes no more bytes until it is erased again. -/
def imgCheckCmd (s : State) : Written :=
  if imgBusy s then deny s else done ((modImg s fun i => { i with erased := false }).wr R.RST_IMG_STATE 0 3)

/-- IMG_CHECK (R307). -/
def execImgCheck (who : Who) (s : State) : Host.Outcome State Fault Refusal :=
  .next (s.guard who R.RST_IMG_CMD 0 2 fun s => imgCheckCmd s)

/-- IMG_ERASE_DONE (R307). -/
def execImgEraseDone (s : State) : Host.Outcome State Fault Refusal :=
  .next (if s.rd R.RST_IMG_STATE 0 = 1 then (modImg s fun _ => { erased := true }).wr R.RST_IMG_STATE 0 0 else s)

/-- A check of the slot ends as R306 checks it; a check that fails writes event 0xC005. -/
def imgChecked (s : State) (c : BootCheck) : State :=
  if s.rd R.RST_IMG_STATE 0 ≠ 3 then s
  else
    let f := bootFail c
    let s1 := (modImg s fun i => { i with passed := decide (f = 0), version := c.version }).wr R.RST_IMG_STATE 0
      (if f = 0 then 4 else 5)
    if f = 0 then s1 else s1.record 0xC005 uFcc [(1, s.rd R.RST_IMG_SLOT 0), (1, f)]

/-- IMG_CHECK_DONE (R307). -/
def execImgCheckDone (c : BootCheck) (s : State) : Host.Outcome State Fault Refusal := .next (imgChecked s c)

/-! ### Hang recovery (R320, R321) -/

/-- The domain of an engine: the block of a block engine, the region of the region mover, the stack of its controller,
the port or the router of a router operation. -/
def engineDomain (u : Nat) : Nat :=
  match u / 4096 with
  | 1 => uBlock (bits u 3 7)
  | 2 => uBlock (bits u 0 7)
  | 3 => uRegion (bits u 0 3)
  | 5 => u
  | 6 => if bits u 0 4 < 6 then u else uRouter
  | _ => u

/-- A planned timer expires (R321): the engine's domain is reset, event 0xC012, the chip reports itself and warm
resets. -/
def hang (s : State) (u op : Nat) : State :=
  let step := s.stepOf u
  let s1 := domReset s (engineDomain u) 2
  let s2 := (s1.bumpSat R.RST_TMO_COUNT 0 1).record 0xC012 uFcc [(2, u), (2, op), (4, step)]
  warm (fenceChip s2) false

/-- The latency of a vector operation by its opcode, in cycles (R54); of a broadcast or a reduction, which the manual gives none,
the least of any, 2 (log 111). -/
def vecLatency (op : Nat) : Nat :=
  if op ≤ 0x05 then 16
  else if op ≤ 0x08 then 2
  else if op ≤ 0x13 then 4
  else if op ≤ 0x27 then 2
  else if op ≤ 0x32 then 8
  else if op = 0x33 then 12
  else if op ≤ 0x37 then 10
  else if op ≤ 0x39 then 12
  else if op ≤ 0x3C then 14
  else if op = 0x40 then 4
  else if op = 0x41 then 8
  else 2

/-- The planned cycles of an operation, coded as R413 codes it, in a segment whose NOMINAL is given (R320). A command brings an
operation's opcode and not its fields: an LDA or STA moves at least one line, a MUL has one row, a CLRA one unit (log 111). -/
def plannedCycles (op nominal : Nat) : Nat :=
  match op / 256 with
  | 1 =>
    match op % 256 with
    | 1 => 72 + 16
    | 3 => 1 + 16
    | 4 => 1 + 64
    | 5 => 1 + 16
    | 6 => 1 + 4
    | _ => nominal
  | 2 => vecLatency (op % 256)
  | _ => nominal

/-- The timer of an operation of a partition's plan, in ns (R320): RST_TMO_MULT times the planned cycles, and
RST_TMO_FLOOR_US. -/
def timerNs (s : State) (p op : Nat) : Nat :=
  let g := match s.blocksOf p with
    | b :: _ => (s.block b).segment
    | [] => 0
  s.rd R.RST_TMO_MULT 0 * plannedCycles op (syncNominal (s.img p) g) * 1000000 / max 1 (s.rd R.PWR_CCLK_KHZ 0) +
    1000 * s.rd R.RST_TMO_FLOOR_US 0

/-- Whether the timer of an operation of a partition can have expired: an operation of a step begins at its T0 or later. -/
def timerDue (s : State) (p op : Nat) : Bool :=
  s.active p &&
    match (s.part p).t0Ns with
    | some t => decide (t + (timerNs s p op : Nat) ≤ s.now)
    | none => false

/-- Whether an engine's timer expires: not in a block that waits at a SYNC or is outside a step, and not before it is due
(R320). -/
def timed (s : State) (u op : Nat) : Bool :=
  s.mainUp &&
    match unitBlock u with
    | some b =>
      timerDue s (s.partOf b) op && (s.block b).released && !(s.block b).syncDone && !(s.block b).ended
    | none => (List.range 128).any fun p => timerDue s p op

/-- PLANNED_TIMER_EXPIRY (R321). -/
def execPlannedTimerExpiry (unit operation : Nat) (s : State) : Host.Outcome State Fault Refusal :=
  .next (if timed s unit operation then hang s unit operation else s)

end Sys2Proof.Machine
end

