-- ==== Sys2Proof/Machine/Cell.lean ====
section
/-! DEFINITION. The cell slots of a bundle (R9, R35 to R44, R79) and the tile each checked multiply hands to
Yarrow (R220, R230). -/

namespace Sys2Proof.Machine

open Sys2Proof

/-! ### Cells, slots and CS (R9, R37, R235) -/

/-- The cell that a cell slot issues to: CS once it has taken the cell's place. -/
def State.cellOf (s : State) (b c : Nat) : Nat := if s.rd R.CHK_SUBST b = c then 4 else c

/-- A block's spare stands for a cell: no other substitution. -/
def State.spareFree (s : State) (b : Nat) : Bool := s.rd R.CHK_SUBST b == 0xFF

/-- The active slot that a cell slot multiplies with. -/
def activeSlot (s : State) (b c : Nat) : TileSlot :=
  if s.rd R.CHK_SUBST b = c then mapGet {} (s.block b).csActive c else ((s.block b).cell c).active

/-- The shadow slot written, and CS's copy with it; a substituted cell's own store is not written. -/
def setShadow (s : State) (b c : Nat) (t : TileSlot) : State :=
  let sub := s.rd R.CHK_SUBST b
  s.modBlock b fun k =>
    let k1 := if sub = c then k else k.modCell c fun x => { x with shadow := t }
    { k1 with csShadow := mapPut k1.csShadow c t }

/-- Active and shadow exchanged, in CS as well. -/
def swapSlots (s : State) (b c : Nat) : State :=
  let sub := s.rd R.CHK_SUBST b
  s.modBlock b fun k =>
    let k1 := if sub = c then k else k.modCell c fun x => { x with active := x.shadow, shadow := x.active }
    { k1 with
      csActive := mapPut k1.csActive c (mapGet {} k.csShadow c), csShadow := mapPut k1.csShadow c (mapGet {} k.csActive c) }

/-- A cell slot's effect in its cell, once for both copies (R86). -/
def cellSlot (s : State) (i : Issue) (c : Nat) (f : State → State) : State := issueSlot s i (conCell c) f

/-! ### LDW, LDA, CLRA -/

/-- LDW (R79): 64 lines of weights and 8 of scales into the shadow slot. -/
def ldw (s : State) (b c : Nat) (w : CellSlot) (ecc : List EccHit) : State :=
  let x := readLines s (uCell b (s.cellOf b c)) b (ldwLine w) 72 ecc
  setShadow x.1 b c
    { fmt := some (ldwFmt w), weight := x.2.1.take 8192, scale := x.2.1.drop 8192, poison := x.2.2 }

/-- The operand buffer lines from `k` on, each from a line read, wrapping after line 255. -/
def putLines (m : Map OpLine) (k : Nat) (ls : List (List Byte × Bool)) : Map OpLine :=
  match ls with
  | [] => m
  | l :: r =>
    putLines (mapPut m (k % 256) { mapGet {} m (k % 256) with bytes := l.1, poison := l.2 }) (k + 1) r

/-- The scale fields of the lines from `k` on (R38). -/
def putScales (m : Map OpLine) (k : Nat) (ls : List (List Byte × Bool)) : Map OpLine :=
  match ls with
  | [] => m
  | l :: r =>
    let o := mapGet {} m (k % 256)
    putScales (mapPut m (k % 256) { o with scale := l.1, scalePoison := l.2 }) (k + 1) r

/-- LDA (R79). -/
def lda (s : State) (b c : Nat) (w : CellSlot) (ecc : List EccHit) : State :=
  let ph := s.cellOf b c
  let n := ldaCount w
  let x := readEach s (uCell b ph) b (ldaLine w) n (ecc.filter fun e => decide (e.index < 16 * n))
  let s1 := x.1.modBlock b fun k => k.modCell ph fun q => { q with buf := putLines q.buf (ldaBuf w) x.2 }
  if ldaScl w then
    let far := (ecc.filter fun e => decide (16 * n ≤ e.index)).map fun e => { e with index := e.index - 16 * n }
    let y := readEach s1 (uCell b ph) b (ldaLine w + n) (ceilDiv (4 * n) 128) far
    let rows := (List.range n).map fun j =>
      let l := getAt ([], false) y.2 (j / 32)
      let a := sramBase b + 128 * ((ldaLine w + n + j / 32) % 65536) + 4 * (j % 32)
      (sliceZ l.1 (4 * (j % 32)) 4, s1.poisoned a 4 || far.any fun e => e.index == j / 2 && e.kind == .uncorrected)
    y.1.modBlock b fun k => k.modCell ph fun q => { q with buf := putScales q.buf (ldaBuf w) rows }
  else s1

/-- CLRA (R79): entries at 0, their marks cleared. -/
def clra (s : State) (b c : Nat) (w : CellSlot) : State :=
  let lo := 64 * clraBase w
  let hi := lo + 64 * clraCount w
  s.modBlock b fun k => k.modCell (s.cellOf b c) fun q =>
    { q with acc := q.acc.filter fun e => !(decide (lo ≤ e.1) && decide (e.1 < hi)) }

/-! ### MUL (R36 to R44) -/

/-- The activation rows of a multiply, from the cell's operand buffer (R38). -/
def actRows (q : Cell) (fmt m line : Nat) : Operand × Bool :=
  let ls := (List.range m).map fun r => mapGet ({} : OpLine) q.buf ((line + r) % 256)
  ({ fmt := fmt, bytes := ls.map fun l => sliceZ l.bytes 0 128, scales := ls.map fun l => (sliceZ l.scale 0 4).map (·.toNat) },
    ls.any fun l => l.poison || (fmtMx fmt && l.scalePoison))

/-- The weight columns of a slot (R37). -/
def weightCols (t : TileSlot) (fmt : Nat) (q : Pairing) : Operand :=
  let cb := colBytes fmt
  { fmt := fmt, bytes := (List.range q.n).map fun n => sliceZ t.weight (cb * n) cb,
    scales := (List.range q.n).map fun n => (sliceZ t.scale (q.g * n) q.g).map (·.toNat) }

/-- Invalid ternary bytes that a multiply decodes (R29). -/
def ternBad (o : Operand) : Nat :=
  if o.fmt = 2 then ((o.bytes.map fun c => (c.filter fun x => decide (243 ≤ x.toNat)).length).foldl (· + ·) 0) else 0

/-- The second-level scale of a slot (R35, R37). -/
def slotS2 (t : TileSlot) : Word := BitVec.ofNat 32 (leField t.scale 1020 4)

/-- Errors that the cell's own codes found (R13, R330), uncorrected ones served first (R16). -/
def cellEcc (s : State) (b ph : Nat) (es : List CellEcc) : State :=
  s.each ((es.filter fun e => e.kind == .uncorrected) ++ es.filter fun e => e.kind == .corrected) fun t e =>
    match e.kind with
    | .corrected => (t.bumpSat R.LIFE_CELL_CORR 0 1).record 0x1001 (uCell b ph) [(1, e.store), (2, e.addr)]
    | .uncorrected =>
      doNotSeal ((t.bumpSat R.LIFE_CELL_UNCORR 0 1).record 0x1002 (uCell b ph) [(1, e.store), (2, e.addr)])
        (t.partOf b) vPoison

/-- The tile of a multiply of a slot with rows; of zeros where the slot is empty (R44). -/
def tileOf (t : TileSlot) (q : Pairing) (fmt : Nat) (rows : Operand) : Tile :=
  if t.fmt = none then zeroTile q rows.bytes.length else mulTile q rows (weightCols t fmt q)

/-- A tile accumulated from word `base` on; nothing past word 16,383 (R41, R42, R415). -/
def accumulate (q : Cell) (base : Nat) (int init intTile : Bool) (s2 : Word) (bad : Bool) (clean : List Bool)
    (p : List Word) : Cell × Arith :=
  let old := mapSlice ({} : AccWord) q.acc base (min p.length (16384 - base))
  let rs := List.zipWith (fun o (x : Word × Bool) => accEntry int init intTile s2 bad x.2 o x.1) old (p.zip clean)
  ({ q with acc := mapSplice {} q.acc base (rs.map (·.1)) }, arithSum (rs.map (·.2)))

/-- A checked tile handed to Yarrow under the block's next entry, repeated on CS where it is listed (R220, R230,
R234). -/
def submitTile (s : State) (b c : Nat) (w : CellSlot) (q : Pairing) (fmt : Nat) (rows : Operand) (t : Tile)
    (f : MulFaults) : State :=
  let k := s.block b
  let p := s.partOf b
  let n := k.chkNext
  let step := s.rd R.SEAL_STEP p
  let rep := k.repeats.any fun r => r.step == step && r.entry == n
  let cs :=
    if rep ∧ s.spareFree b = true then
      some (strike q.n (tileOf (mapGet {} k.csActive c) q fmt rows) f.csTile f.csSums)
    else none
  enqueueTile (s.modBlock b fun k => { k with chkNext := n + 1 }) b
    { cell := c, entry := n, step := step, run := s.rd R.SEAL_RUN p, wfmt := fmt, afmt := mulFmt w,
      mRows := mulRows w, nCols := q.n, kDim := q.k, tile := t, rep := rep, cs := cs }

/-- MUL (R36 to R44, R79). A pairing or accumulator type that R36 does not allow, and a tile that passes word
16,383, are plan errors that refuse the seal. -/
def mul (s : State) (b c : Nat) (w : CellSlot) (f : MulFaults) : State :=
  let ph := s.cellOf b c
  let t := activeSlot s b c
  let fmt := t.fmt.getD (mulFmt w)
  let s0 := cellEcc s b ph f.ecc
  let s1 := if t.fmt = none then s0.bumpSat R.CMP_PLAN_ERR_EMPTY b 1 else s0
  match pairing fmt (mulFmt w) with
  | none => doNotSeal s1 (s.partOf b) vPlanErr
  | some q =>
    if accAllowed q (mulInt w) = false then doNotSeal s1 (s.partOf b) vPlanErr
    else
      let rows := actRows ((s.block b).cell ph) (mulFmt w) (mulRows w) (mulLine w)
      let tern := if t.fmt = none then 0 else ternBad (weightCols t fmt q)
      let tile := strike q.n (tileOf t q fmt rows.1) f.tile f.sums
      let bad := t.poison || rows.2 || decide (0 < tern) || f.ecc.any fun e => e.kind == .uncorrected
      let clean := if t.fmt = none then tile.p.map fun _ => true else cleanTile q rows.1 (weightCols t fmt q)
      let x := accumulate ((s.block b).cell ph) (mulBase w) (mulInt w) (mulInit w) (q.kind == .int) (slotS2 t) bad
        clean tile.p
      let s2 := countArith (s1.modBlock b fun k => k.modCell ph fun _ => x.1) b { x.2 with tern := tern }
      let s3 := if 0 < tern then doNotSeal s2 (s.partOf b) vPoison else s2
      let s4 := if 16384 < mulBase w + tile.p.length then doNotSeal s3 (s.partOf b) vPlanErr else s3
      if mulChk w then submitTile s4 b c w q fmt rows.1 tile f else s4

/-! ### STA (R79) -/

/-- Elements stored as a bit string from bit `o` of an address on; bits beside it stay (R28, R33). -/
def storeBits (s : State) (unit b addr o c : Nat) (es : List Nat) (bad : Bool) : State :=
  let w := fmtBits c
  if o % 8 = 0 then planStore s unit b (addr + o / 8) (packElems c es) bad
  else
    let n := (o % 8 + es.length * w + 7) / 8
    let old :=
      match s.planRange b (addr + o / 8) n with
      | some rs => (rs.map fun r => s.read r.1 r.2).flatten
      | none => []
    let v := es.foldr (fun e acc => e % 2 ^ w + 2 ^ w * acc) 0
    planStore s unit b (addr + o / 8) (leBytes n (setBits (leVal old) (o % 8) (es.length * w) v)) bad

/-- The accumulator words of a row; the manual gives none past word 16,383. -/
def accRow (s : State) (q : Cell) (first n : Nat) : List AccWord :=
  (mapSlice ({} : AccWord) q.acc first (min n (16384 - first))) ++
    (List.range (n - (16384 - first))).map fun k => { bits := Config.freeWord s.free (first + k) }

/-- The value STA converts. R38 gives a word no type and STA names none: the type of the MUL that wrote it last is the model's
choice (log 103). -/
def accVal (a : AccWord) : FV := if a.int then ofInt (toSigned 32 a.bits.toNat) else f32 a.bits

/-- One row of STA to a format that is not MX. -/
def staRow (s : State) (unit b desc : Nat) (d : Desc) (descBad : Bool) (m : Nat) (row : List AccWord) : State :=
  let c := nctlFmt d.nctl
  let ns := narrowAll d.nctl (s.srKey b d) (d.ibase + m * d.pitch) (row.map accVal)
  let es := ns.map (·.bits)
  let s1 := storeBits s unit b d.addrA (m * d.pitch * fmtBits c) c es (descBad || row.any (·.poison))
  watchFeed (countArith s1 b (arithSum (ns.map (·.arith)))) b desc 0 c (es.map (fmtVal c)) (packElems c es)

/-- One row of STA to an MX format, its scales after those of the rows before it. -/
def staMxRow (s : State) (unit b desc : Nat) (d : Desc) (descBad : Bool) (m : Nat) (row : List AccWord) : State :=
  let c := nctlFmt d.nctl
  let vs := row.map fun a => if a.int then f32 (near32 (accVal a)) else accVal a
  let bl := mxAll d.nctl (s.srKey b d) (d.ibase + m * d.pitch) (groupsOf 32 32 vs)
  let es := (bl.map (·.elems)).flatten
  let bad := descBad || row.any (·.poison)
  let s1 := storeBits s unit b d.addrA (m * d.pitch * fmtBits c) c es bad
  let s2 := planStore s1 unit b (d.addrB + m * (row.length / 32)) (bl.map fun x => BitVec.ofNat 8 x.scale) bad
  watchFeed (countArith s2 b { sat := (bl.map (·.sat)).foldl (· + ·) 0 }) b desc 0 c
    ((bl.map fun x => x.elems.map (mxValue c x.scale)).flatten) (packElems c es)

/-- STA (R79); a marked entry that is narrowed is a wrap failure (R42, R222). -/
def sta (s0 : State) (i : Issue) (c : Nat) (w : CellSlot) : State :=
  let b := i.block
  let e := readDesc s0 i (staDesc w)
  let s := e.1
  let ph := s.cellOf b c
  let q := (s.block b).cell ph
  let d := e.2.1
  let fmt := nctlFmt d.nctl
  let n := staN w
  let rows := (List.range (staRows w)).map fun m => (m, accRow s q (64 * staBase w + m * n) n)
  let wrap := decide (fmtBits fmt < 32) && rows.any fun r => r.2.any (·.ovf)
  let s1 := if wrap then wrapFailure s b c (staBase w) (staDesc w) else s
  let s2 := s1.each rows fun t r =>
    if fmtMx fmt then staMxRow t (uCell b ph) b (staDesc w) d e.2.2 r.1 r.2
    else staRow t (uCell b ph) b (staDesc w) d e.2.2 r.1 r.2
  if 16384 < 64 * staBase w + n * staRows w then s2.tick else s2

/-! ### Commands -/

/-- A traced cell slot (R388). -/
def cellTraced (s : State) (i : Issue) (c bit op : Nat) (f : State → State) : State :=
  cellSlot s i c fun s => traced s i.block bit (uCell i.block (s.cellOf i.block c)) op i.seq f

/-- NOP of a cell slot. -/
def execCellNop (i : Issue) (cell : Nat) (_w : CellSlot) (s : State) : Host.Outcome State Fault Refusal :=
  .next (cellSlot s i cell fun s => s)

/-- LDW (R79). -/
def execLdw (i : Issue) (cell : Nat) (w : CellSlot) (ecc : List EccHit) (s : State) :
    Host.Outcome State Fault Refusal :=
  .next (cellTraced s i cell 2 0xFFFFFF fun s => ldw s i.block cell w ecc)

/-- SWAP (R37, R79). -/
def execSwap (i : Issue) (cell : Nat) (_w : CellSlot) (s : State) : Host.Outcome State Fault Refusal :=
  .next (cellSlot s i cell fun s => swapSlots s i.block cell)

/-- LDA (R79). -/
def execLda (i : Issue) (cell : Nat) (w : CellSlot) (ecc : List EccHit) (s : State) :
    Host.Outcome State Fault Refusal :=
  .next (cellTraced s i cell 2 0xFFFFFF fun s => lda s i.block cell w ecc)

/-- MUL of a cell slot (R79). -/
def execMul (i : Issue) (cell : Nat) (w : CellSlot) (f : MulFaults) (s : State) :
    Host.Outcome State Fault Refusal :=
  .next (cellTraced s i cell 1 (if mulChk w then (s.block i.block).chkNext else 0xFFFFFF)
    fun s => mul s i.block cell w f)

/-- STA (R79). -/
def execSta (i : Issue) (cell : Nat) (w : CellSlot) (s : State) : Host.Outcome State Fault Refusal :=
  .next (cellTraced s i cell 2 (staDesc w) fun s => sta s i cell w)

/-- CLRA (R79). -/
def execClra (i : Issue) (cell : Nat) (w : CellSlot) (s : State) : Host.Outcome State Fault Refusal :=
  .next (cellSlot s i cell fun s => clra s i.block cell w)

end Sys2Proof.Machine
end

