-- ==== Sys2Proof/Machine/Entry.lean ====
section
/-! DEFINITION. Reading an entry of the dictionary: which entries there are, their descriptions, their values, and who may
read them (R350 to R359, R376, R395). -/

namespace Sys2Proof.Machine

open Sys2Proof

/-! ### Entries (R350, R354) -/

/-- The entry of an index and subindex. -/
def findReg (idx sub : Nat) : Option Reg :=
  if 0x7100 ≤ idx ∧ idx < 0x7110 then (R.tallyRegs (idx - 0x7100)).find? fun r => r.sub == sub
  else R.allRegs.find? fun r => r.index == idx && r.sub == sub

/-- How many instances a set has. -/
def instCount (i : InstSet) : Nat :=
  match i with
  | .zero => 1
  | .upto k => k
  | _ => (instList i).length

/-- FLAGS bit 1 of DICT_INFO: whether the Owner role may read the entry, of its own instances (R358, R395). -/
def ownerReads (idx : Nat) : Bool :=
  (decide (0x1000 ≤ idx) && decide (idx < 0x1100)) ||
    [0x9000, 0x9001, 0x3000, 0x3001, 0x3041, 0x3100, 0x4112, 0x6001, 0x6100, 0x6101, 0x6102, 0x6103, 0x6203, 0x8200, 0x8300,
      0x8301, 0x3010, 0x3020, 0x3021, 0x3040, 0x3101, 0x3401, 0x3410, 0x6010, 0x6011, 0x4130, 0x5001, 0x7010, 0x8000,
      0x8001].contains idx

/-- FLAGS of an entry (R354): no entry of the manual is the Vendor's alone or refuses group writes. -/
def dictFlags (r : Reg) : Nat :=
  b2n (instSparse r.inst) + 2 * b2n (ownerReads r.index) +
    4 * b2n (r.index == 0x2010 || r.index == 0x2011 || (r.index == 0x5001 && r.sub == 3))

/-- The members of DICT_INFO. -/
def dictMembers : List Nat := [1, 1, 2, 2, 2, 2, 1]

/-- The description of an entry: TYPE, ACCESS, SIZE, FIRST, LAST, COUNT, FLAGS. -/
def dictBytes (r : Reg) : List Byte :=
  leBytes 11 (packRec
    [(1, tyCode r.ty), (1, accCode r.acc), (2, tySize r.ty r.members), (2, instFirst r.inst), (2, instEnd r.inst - 1),
      (2, instCount r.inst), (1, dictFlags r)])

/-- DICT_INFO itself as an entry; its instances are the described indexes. -/
def dictReg (sub : Nat) : Reg :=
  { mk "DICT_INFO" 0x1010 sub .record .ro 0 (.upto 0xFE00) with members := dictMembers }

/-! ### Who may read (R358, R395) -/

/-- Whether a block is one of a function's. -/
def State.ownsBlock (s : State) (f b : Nat) : Bool := s.partOf b < 128 && s.owns f (s.partOf b)

/-- Whether a unit number counts as a function's: a cell or engine of its blocks, or itself (R338, R395). -/
def State.ownsUnit (s : State) (f u : Nat) : Bool :=
  u == uFunc f || (match unitBlock u with
    | some b => s.ownsBlock f b
    | none => false)

/-- Whether a function reads an entry's instance in the Owner role. -/
def ownerMay (s : State) (f : Nat) (r : Reg) (i : Nat) : Bool :=
  let x := r.index
  if (0x1000 ≤ x ∧ x < 0x1100) ∨ x = 0x9000 ∨ x = 0x9001 ∨ x = 0x7010 then true
  else if x = 0x8000 ∨ x = 0x8001 then s.ownsUnit f i
  else if x = 0x4130 ∨ x = 0x5001 then i == f
  else if x = 0x4112 then s.owns f (i % 128)
  else if [0x3010, 0x3020, 0x3021, 0x3040, 0x3101, 0x3401, 0x3410, 0x6010, 0x6011].contains x then s.ownsBlock f i
  else ownerReads x && s.owns f i

/-- Whether a requester may read an entry's instance. -/
def readable (s : State) (w : Who) (r : Reg) (i : Nat) : Bool :=
  s.serves w.role && (w.role != .owner || ownerMay s w.func r i)

/-- The first reason to refuse a read, 0 for none. -/
def checkRead (s : State) (w : Who) (r : Reg) (i : Nat) : Nat :=
  if instIn r.inst i = false then rNoInstance
  else if readable s w r i = false then rRole
  else if s.entryUp r i = false then rReset
  else rOk

/-! ### Values the state does not hold as entries -/

/-- One of an engine's counters at an instant (R379, R382): each a free value, with CYCLES the sum of the three categories,
STALLED the sum of its reasons, reason 0 at 0, and no current reason 7. -/
def engineCounter (n unit sub : Nat) : Nat :=
  let f (k : Nat) : Nat := Config.engineCount n unit k % 2 ^ 48
  let stall (k : Nat) : Nat := if k = 0 then 0 else f (0x10 + k)
  let stalled := ([1, 2, 3, 4, 5, 6, 8, 9, 10, 11, 12, 13, 14, 15].map stall).foldl (· + ·) 0 % 2 ^ 48
  match sub with
  | 1 => (f 2 + stalled + f 4) % 2 ^ 48
  | 2 => f 2
  | 3 => stalled
  | 4 => f 4
  | 5 => if f 5 % 16 = 7 then 0 else f 5 % 16
  | k => stall (k - 0x10)

/-- The value of a counter entry: one counter, or all of one cycle (R383). -/
def engineBytes (n unit sub : Nat) : List Byte :=
  if sub = 0x20 then
    (([1, 2, 3, 4] ++ (List.range 16).map (0x10 + ·)).map fun k => leBytes 8 (engineCounter n unit k)).flatten
  else leBytes (if sub = 5 then 1 else 8) (engineCounter n unit sub)

/-- A shadow's value (R385): zeros before the first capture and after an owner change of its block. -/
def shadowBytes (s : State) (unit sub : Nat) : List Byte :=
  let zero := List.replicate (if sub = 0x20 then 160 else if sub = 5 then 1 else 8) 0
  match s.obs.capture with
  | none => zero
  | some n =>
    match unitBlock unit with
    | some b => if s.obs.cleared.contains b then zero else engineBytes n unit sub
    | none => engineBytes n unit sub

/-- A record's bytes by slot (R338): absent slots read as erased flash. -/
def recordAt (l : List (List Byte)) (k : Nat) : List Byte := getAt (List.replicate 32 0xFF) l k

/-- The records of an area of the Ledger by slot; those still in the write buffer follow those in flash. -/
def ldgArea (s : State) (sub k : Nat) : List Byte :=
  let l := s.ledger
  let waiting := l.buffer.map (·.2)
  let first := (mapSlice [] l.sectors 0 8).flatten
  let last := ((List.range 24).map fun j => ldgSector s (8 + (l.curLast + 1 + j) % 24)).flatten
  let toFirst := (List.range 8).any (ldgRoom s)
  match sub with
  | 1 => recordAt l.volFirst k
  | 2 => recordAt l.volLast k
  | 3 => recordAt (if toFirst then first ++ waiting else first) k
  | _ => recordAt (if toFirst then last else last ++ waiting) k

/-- A watch point's values as their record (R401). -/
def watchBytes (id : Nat) (w : WatchStats) : List Byte :=
  let i64 (x : Option Int) : List Byte := leBytes 8 (ofSigned 64 (x.getD 0))
  leBytes 4 w.step ++ leBytes 1 w.run ++ leBytes 1 w.format ++ leBytes 4 id ++ leBytes 8 w.count ++ leBytes 4 w.nan ++
    leBytes 4 w.inf ++ leBytes 4 w.zero ++ i64 w.min ++ i64 w.max ++ i64 (some w.sum) ++ leBytes 4 w.sumsq ++
    ((List.range 16).map fun k => leBytes 4 (getAt 0 w.hist k)).flatten ++ leBytes 8 w.digest

/-- The point that a partition holds as a slot, and its bytes; a slot without a point reads 0. -/
def watchSlot (s : State) (p slot : Nat) (isSealed : Bool) : List Byte :=
  match s.obs.watch.find? fun w => w.part == p && w.slot == slot with
  | some w => watchBytes w.watchId (if isSealed then w.sealed else w.live)
  | none => List.replicate 130 0

/-- A session slot's record (R376): peer MAC, role, state, L, idle seconds. -/
def sessionBytes (s : State) (slot : Nat) : List Byte :=
  match s.mgmt.sessions.find? fun x => x.peerNo * 8 + x.number == slot with
  | some x =>
    leBytes 16 (packRec
      [(8, x.peer), (1, x.role), (1, 1), (4, x.l), (2, min 0xFFFF ((s.now - x.lastNs) / 1000000000).toNat)])
  | none => List.replicate 16 0

/-- The node ID on the tray bus (R365). -/
def plcaNode (s : State) : Nat :=
  match s.rd R.CLV_STW_ROLE 0 with
  | 1 => 0
  | 2 => 1
  | _ => s.rd R.CLV_STW_POS 0

/-- The octets of a STRING entry, padded with zeros. -/
def strBytes (n : Nat) (t : List Byte) : List Byte := sliceZ t 0 n

/-- The values of the identity entries (R376). -/
def idBytes (s : State) (r : Reg) : List Byte :=
  match r.sub with
  | 1 => strBytes 16 (ascii "Rhoentoft")
  | 2 => strBytes 16 (ascii "Yilros")
  | 3 => strBytes 16 (ascii (if Config.bin18 then "YV6128-18" else "YV6128-15"))
  | 4 => strBytes 4 (ascii "B1")
  | 5 => strBytes 24 Config.serial
  | 6 => leBytes 8 Config.eui64
  | 7 => leBytes 8 (Config.mac % 2 ^ 48)
  | 10 => leBytes 4 Config.rollback
  | _ => leBytes (tySize r.ty r.members) (s.rd r 0)

/-- A value as the entry holds it: octets, or a number in ascending bytes. -/
def plainBytes (s : State) (r : Reg) (i : Nat) : List Byte :=
  match r.ty with
  | .string n => strBytes n (s.rdB r i)
  | .domain _ => s.rdB r i
  | _ => leBytes (tySize r.ty r.members) (s.rd r i)

/-- The value of an entry's instance, little-endian. A write-only entry reads as zeros (R353). -/
def entryBytes (s : State) (w : Who) (r : Reg) (i : Nat) : List Byte :=
  if r.acc = .wo then List.replicate (tySize r.ty r.members) 0
  else
    match r.index with
    | 0x1000 => idBytes s r
    | 0x1010 => ((findReg i r.sub).map dictBytes).getD (dictBytes (dictReg r.sub))
    | 0x1100 => if r.sub = 2 then leBytes 1 (plcaNode s) else plainBytes s r i
    | 0x1101 => sessionBytes s i
    | 0x2000 =>
      if r.sub = 7 then leBytes 1 (min 255 (s.rst.exits.filter fun x => decide (s.uptimeMs ≤ x + 60000)).length)
      else plainBytes s r i
    | 0x2100 => if r.sub = 2 then leBytes 4 (if Config.bin18 then 1800000 else 1500000) else plainBytes s r i
    | 0x4130 => plainBytes (if r.sub = 3 then shpRefill s i else s) r i
    | 0x5800 => if r.sub = 1 then leBytes 8 s.time.sec else leBytes 4 (mapGet 0 s.time.latched (pathNo w.path))
    | 0x5810 =>
      if r.sub = 2 then leBytes 4 (Config.calTx i) else if r.sub = 3 then leBytes 4 (Config.calRx i) else plainBytes s r i
    | 0x7010 => ldgArea s r.sub i
    | 0x8000 => engineBytes s.free i r.sub
    | 0x8001 => shadowBytes s i r.sub
    | 0x8300 => watchSlot s i r.sub false
    | 0x8301 => watchSlot s i r.sub true
    | _ => plainBytes s r i

/-- What a read does besides answering: a read-clear entry returns to its default (R7), TIME_NOW_SEC latches (R202), a
level is refilled (R161), a record that fails its CRC is counted (R328). -/
def readEffect (s : State) (w : Who) (r : Reg) (i : Nat) : State :=
  if r.acc = .rc then s.wr r i (regDflt r i)
  else if r.index = 0x5800 ∧ r.sub = 1 then latchTime s w.path
  else if r.index = 0x4130 ∧ r.sub = 3 then shpRefill s i
  else if r.index = 0x8000 then s.tick
  else if r.index = 0x7010 then
    let b := ldgArea s r.sub i
    if b = List.replicate 32 0xFF ∨ leField b 28 4 = crc32c (b.take 28) then s else s.bumpSat R.LDG_BADCRC 0 1
  else s

/-- A record that the Owner role may read (R338): its SOURCE is a unit of its own. -/
def ownRecord (s : State) (w : Who) (r : Reg) (i : Nat) : Bool :=
  w.role != .owner || r.index != 0x7010 || s.ownsUnit w.func (leField (ldgArea s r.sub i) 10 2)

/-- One instance read: the state after, the value, and the reason to refuse it, 0 for none. -/
def readOne (s : State) (w : Who) (r : Reg) (i : Nat) : State × List Byte × Nat :=
  let c := checkRead s w r i
  if c ≠ rOk then (s, [], c)
  else if r.index = 0x1010 ∧ i ≠ 0x1010 ∧ (findReg i r.sub).isNone = true then (s, [], rNoEntry)
  else if ownRecord s w r i = false then (s, [], rRole)
  else (readEffect s w r i, entryBytes s w r i, rOk)

/-! ### Byte order (R353) -/

/-- Members in turn, each reversed. -/
def swapMembers (ms : List Nat) (bs : List Byte) : List Byte :=
  match ms with
  | [] => []
  | n :: r => (bs.take n).reverse ++ swapMembers r (bs.drop n)

/-- A value between its path's byte order and ascending bytes; octet strings are not swapped. -/
def wire (be : Bool) (r : Reg) (bs : List Byte) : List Byte :=
  if be then
    match r.ty with
    | .string _ => bs
    | .domain _ => bs
    | .record => swapMembers r.members bs
    | _ => bs.reverse
  else bs

/-! ### Reads that clear (R7) -/

/-- A read of a read-clear entry or of DB_ERR of a doorbell slot (R182): its value, and the field at its reset value. -/
def rcRead (s : State) (w : Who) (f : RcField) : State :=
  match f with
  | .dbErr fn q =>
    match s.localQ fn q with
    | some g =>
      let e := (s.queue g).dbErr
      (s.when (e != 0) fun t => modQueue t g fun c => { c with dbErr := 0 }).emit (.value w e)
    | none => s.emit (.value w 0)
  | .entry idx sub inst =>
    match findReg idx sub with
    | some r =>
      let x := readOne s w r inst
      if x.2.2 = rOk then x.1.emit (.value w (leVal x.2.1)) else s.emit (.answer w x.2.2)
    | none => s.emit (.answer w rNoEntry)

/-- RC_READ (R7). -/
def execRcRead (who : Who) (field : RcField) (s : State) : Host.Outcome State Fault Refusal := .next (rcRead s who field)

end Sys2Proof.Machine
end

