-- ==== Sys2Proof/Machine/Laser.lean ====
section
/-! DEFINITION. External laser modules (R140 to R144). -/

namespace Sys2Proof.Machine

open Sys2Proof

/-- The port of a module. -/
def portOf (m : Nat) : Nat := 4 + m

/-- Laser module states (R145). -/
def lsAbsent : Nat := 0
def lsIdentifying : Nat := 1
def lsRefused : Nat := 2
def lsReady : Nat := 3
def lsLasing : Nat := 4
def lsFault : Nat := 5

/-- Sixteen characters of a module's page 00h. -/
def chars16 (bs : List Byte) : List Byte := bs.take 16

/-- Whether a record is blank: MAGIC and bytes 134 to 159 all ones (R141). -/
def isBlank (r : List Byte) : Bool :=
  r.length == 32 && (r.take 2).all (· == 0xFF) && (r.drop 6).all (· == 0xFF)

/-- Whether a record is valid (R141). -/
def isValid (r : List Byte) : Bool :=
  r.length == 32 && leField r 0 2 == 0x564C && leField r 28 4 == crc32c (r.take 28)

/-- A record created in a blank one: MAGIC, a rated life, HOURS 0 (R141). -/
def createRecord (s : State) (r : List Byte) : List Byte :=
  let life := if leField r 2 4 = 0xFFFFFFFF then s.rd R.FAB_LSR_DEF_LIFE_H 0 else leField r 2 4
  leBytes 2 0x564C ++ leBytes 4 life ++ leBytes 4 0 ++ r.drop 10

/-- The beginning-of-life bias of a wavelength in units of 10 µA. -/
def bolOf (l : Laser) (w : Nat) : Nat := leField l.record (10 + 2 * w) 2

/-- MODULE_INSERT (R142). -/
def execModuleInsert (m : Nat) (s : State) : Host.Outcome State Fault Refusal :=
  .next (if s.rd R.FAB_LSR_STATE m = lsAbsent then s.wr R.FAB_LSR_STATE m lsIdentifying else s)

/-- Vendor, part and serial number as read from page 00h (R141). -/
def moduleNames (s : State) (m : Nat) (i : ModuleInfo) : State :=
  ((s.wrB R.FAB_LSR_VENDOR m (chars16 i.vendor)).wrB R.FAB_LSR_PART m (chars16 i.partNo)).wrB R.FAB_LSR_SERIAL m
    (chars16 i.serial)

/-- A module refused with its reason; its port stays Down (R141). -/
def moduleRefuse (s : State) (m reason : Nat) (i : ModuleInfo) : State :=
  let s1 := ((moduleNames s m i).wr R.FAB_LSR_STATE m lsRefused).record 0xD003 (uLaser m) [(1, reason)]
  if s.rd R.FAB_PORT_STATE (portOf m) = 3 then s1.wr R.FAB_PORT_CAUSE (portOf m) 5 else s1

/-- Advice bits and wavelengths restored by a module with a different serial number (R132, R143); the next HELLO tells the partner
of the wavelengths. -/
def newModule (s : State) (m : Nat) : State :=
  let s1 := [0, 1, 2].foldl (fun t b => penUnfix t (uLaser m) (pcAdvice b)) (s.wr R.FAB_LSR_ADVISE m 0)
  let s2 := s1.modPort (portOf m) fun o =>
    { o with
      txLanes := o.txLanes.map fun e =>
        if e.2 = lOut ∧ (mapGet 0 o.txCause e.1 = 3 ∨ mapGet 0 o.txCause e.1 = 4) then (e.1, lReady) else e,
      relit := (o.txCause.filter fun e => (e.2 == 3 || e.2 == 4) && mapGet lIdle o.txLanes e.1 == lOut).map (·.1),
      txCause := o.txCause.filter fun e => e.2 != 3 && e.2 != 4, pendingOffers := [] }
  s2.modLaser m fun l => { l with lostWaves := [], advised := [] }

/-- Identification ended (R141, R142). -/
def identified (s : State) (m : Nat) (i : ModuleInfo) : State :=
  if s.rd R.FAB_LSR_STATE m ≠ lsIdentifying then s
  else if i.pagesOk = false then moduleRefuse s m 1 i
  else if i.lasersOk = false then moduleRefuse s m 2 i
  else if isBlank i.record = false ∧ isValid i.record = false then moduleRefuse s m 3 i
  else
    let blank := isBlank i.record
    let r := if blank then createRecord s i.record else i.record
    let sn := chars16 i.serial
    let s1 := if (s.laser m).lastSerial = sn then s else newModule s m
    let s2 := s1.modLaser m fun l =>
      { l with
        record := r, blank := blank, lasingS := 0, writtenH := leField r 6 4, lastSerial := sn,
        removedLasing := false }
    let s3 := moduleNames s2 m i
    let s4 := ((s3.wr R.FAB_LSR_RATED_H m (leField r 2 4)).wr R.FAB_LSR_HOURS m (leField r 6 4)).wr R.FAB_LSR_STATE m
      lsReady
    let s5 := s4.each (List.range 9) fun t w => t.wr R.FAB_LSR_BIAS_RATIO (16 * m + w) 1000
    let s6 := if blank then s5.emit (.moduleWrite m r) else s5
    s6.recordB 0xD001 (uLaser m) (sliceZ sn 0 16 ++ leBytes 4 (leField r 2 4) ++ leBytes 4 (leField r 6 4))

/-- MODULE_IDENTIFIED (R141). -/
def execModuleIdentified (m : Nat) (info : ModuleInfo) (s : State) : Host.Outcome State Fault Refusal :=
  .next (identified s m info)

/-- MODULE_REMOVE (R144): the port of a lasing module goes Down at once; no lane goes Out. -/
def execModuleRemove (m : Nat) (s : State) : Host.Outcome State Fault Refusal :=
  let st := s.rd R.FAB_LSR_STATE m
  if st = lsAbsent then .next s
  else
    let sn := s.rdB R.FAB_LSR_SERIAL m
    let s1 := (s.recordB 0xD002 (uLaser m) (sliceZ sn 0 16 ++ leBytes 1 st)).wr R.FAB_LSR_STATE m lsAbsent
    let s2 := s1.modLaser m fun l => { l with record := [], blank := false, removedLasing := st == lsLasing }
    let up := s.rd R.FAB_PORT_STATE (portOf m)
    .next (if st = lsLasing ∧ (up = 1 ∨ up = 2) then goDown s2 (portOf m) 5 else s2)

/-! ### Wavelengths that fail (R131, R132, R142, R143) -/

/-- A transmit wavelength that must leave, by its cause: the receiver is offered the move, or the width is reduced. -/
def waveLeave (s : State) (port w cause : Nat) : State :=
  let o := s.port port
  if mapGet lIdle o.txLanes w = lReady then s.modPort port fun o => { o with txLanes := mapPut o.txLanes w lOut }
  else if mapGet lIdle o.txLanes w ≠ lActive then s
  else if o.txLanes.any fun e => e.2 == lReady then ctlSend s port (.spareOffer w cause)
  else startTrain (s.modPort port fun o => { o with txLanes := mapPut o.txLanes w lOut }) port .width

/-- A wavelength that its laser makes leave a port that is Up: at once, or by policy at the next stop (R135). -/
def waveDue (s : State) (port w cause : Nat) : State :=
  if cause = 3 ∧ s.rd R.FAB_SPARE_POLICY port = 1 then
    s.modPort port fun o => { o with pendingOffers := (o.pendingOffers.filter fun e => e.1 != w) ++ [(w, cause)] }
  else waveLeave (s.modPort port fun o => { o with pendingOffers := o.pendingOffers.filter fun e => e.1 != w }) port w cause

/-- A transmit wavelength faulty by its laser; where the port is not Up it leaves when the port is (R131, R142). -/
def waveFaulty (s : State) (m w cause : Nat) : State :=
  let port := portOf m
  let o := s.port port
  if mapGet 0 o.txCause w ≠ 0 ∧ (cause = 3 ∨ mapGet 0 o.txCause w = cause) then s
  else
    let s1 := s.modPort port fun o => { o with txCause := mapPut o.txCause w cause }
    if s.portUp port then waveDue s1 port w cause else s1

/-- The wavelengths whose lasers failed while the port was not Up leave it (R142). -/
def wavesDue (s : State) (port : Nat) : State :=
  s.each (s.port port).txCause fun t e =>
    if t.portUp port = true ∧ mapGet lIdle (t.port port).txLanes e.1 = lActive then waveDue t port e.1 e.2 else t

/-- A laser that failed (R142): its wavelength leaves; with every wavelength lost the module is in Fault. -/
def waveLost (s : State) (m w : Nat) : State :=
  let s1 := s.modLaser m fun l => { l with lostWaves := addNew l.lostWaves w }
  let s2 := waveFaulty s1 m w 4
  if 9 ≤ (s2.laser m).lostWaves.length ∧ s2.rd R.FAB_LSR_STATE m = lsLasing then
    let s3 := s2.wr R.FAB_LSR_STATE m lsFault
    if s3.rd R.FAB_PORT_STATE (portOf m) = 1 ∨ s3.rd R.FAB_PORT_STATE (portOf m) = 2 then goDown s3 (portOf m) 5 else s3
  else s2

/-- LASER_FAULT_FLAG (R142). -/
def execLaserFaultFlag (m wave flags : Nat) (s : State) : Host.Outcome State Fault Refusal :=
  .next (if s.rd R.FAB_LSR_STATE m = lsLasing then
    waveLost (s.record 0xD012 (uLaser m) [(1, wave), (1, flags)]) m wave
  else s)

/-! ### The monitors (R143) -/

/-- An advice bit set. -/
def advise (s : State) (m bit : Nat) : State :=
  let a := s.rd R.FAB_LSR_ADVISE m
  if bitOf a bit then s else penOnce (s.wr R.FAB_LSR_ADVISE m (a + 2 ^ bit)) (uLaser m) (pcAdvice bit) 300

/-- The bias ratio of a wavelength, in thousandths of its beginning-of-life bias (R141, R143). -/
def biasRatio (l : Laser) (x : LaserSample) : Nat :=
  if l.blank ∨ bolOf l x.wave = 0 then 1000 else x.bias * 1000 / bolOf l x.wave

/-- What the ratio of a wavelength calls for, once a second (R143). -/
def ratioRead (s : State) (m : Nat) (x : LaserSample) : State :=
  let ratio := biasRatio (s.laser m) x
  let s1 := s.wr R.FAB_LSR_BIAS_RATIO (16 * m + x.wave) ratio
  let s2 :=
    if ratio < s.rd R.FAB_LSR_ADV_RATIO 0 then s1.modLaser m fun l => { l with advised := l.advised.filter (· != x.wave) }
    else if (s.laser m).advised.contains x.wave then s1
    else
      ((advise s1 m 1).record 0xD010 (uLaser m) [(1, x.wave), (2, ratio)]).modLaser m fun l =>
        { l with advised := addNew l.advised x.wave }
  if s.rd R.FAB_LSR_SPARE_RATIO 0 ≤ ratio then waveFaulty s2 m x.wave 3 else s2

/-- One wavelength's reading; one whose power is below its low alarm has failed (R131), with its event the first time. -/
def waveRead (s : State) (m : Nat) (second : Bool) (x : LaserSample) : State :=
  let k := 16 * m + x.wave
  let s1 := (s.wr R.FAB_LSR_BIAS k (10 * x.bias)).wr R.FAB_LSR_POWER k x.power
  let s2 := if second then ratioRead s1 m x else s1
  match x.low with
  | some flags =>
    if (s2.laser m).lostWaves.contains x.wave then s2
    else waveLost (s2.record 0xD012 (uLaser m) [(1, x.wave), (1, flags)]) m x.wave
  | none => s2

/-- A second of lasing: HOURS with the life advice, and the advice that a spare is in use. -/
def lasingSecond (s : State) (m : Nat) : State :=
  let n := (s.laser m).lasingS + 1
  let s1 := s.modLaser m fun l => { l with lasingS := n }
  let h := s.rd R.FAB_LSR_HOURS m
  let s2 := if n % 3600 = 0 then s1.wr R.FAB_LSR_HOURS m (h + 1) else s1
  let hours := s2.rd R.FAB_LSR_HOURS m
  let rated := s.rd R.FAB_LSR_RATED_H m
  let due := s.rd R.FAB_LSR_LIFE_PCT 0 * rated ≤ 100 * hours
  let s3 :=
    if due ∧ bitOf (s.rd R.FAB_LSR_ADVISE m) 0 = false then
      (advise s2 m 0).record 0xD011 (uLaser m) [(4, hours), (4, rated)]
    else s2
  if mapGet lIdle (s.port (portOf m)).txLanes 8 = lActive then advise s3 m 2 else s3

/-- LASER_MONITOR_READ (R140, R143): every second, or on an interrupt, which adds no time. -/
def execLaserMonitorRead (m : Nat) (r : Monitor) (s : State) : Host.Outcome State Fault Refusal :=
  .next (if s.rd R.FAB_LSR_STATE m = lsLasing then
    (if r.second then lasingSecond s m else s).each r.samples fun t x => waveRead t m r.second x
  else s)

/-- LASER_HOURS_WRITE (R141), every 24 h of lasing. -/
def execLaserHoursWrite (m : Nat) (s : State) : Host.Outcome State Fault Refusal :=
  .next (if s.rd R.FAB_LSR_STATE m = lsLasing then hoursWrite s m else s)

/-- BOL_WRITE (R141): the beginning-of-life values taken after the first hour of lasing, then CHECK. -/
def execBolWrite (m : Nat) (bias : List Nat) (s : State) : Host.Outcome State Fault Refusal :=
  let l := s.laser m
  if l.blank = false ∨ s.rd R.FAB_LSR_STATE m ≠ lsLasing ∨ l.lasingS < 3600 then .next s
  else
    let b := l.record.take 10 ++ ((List.range 9).map fun w => leBytes 2 (getAt 0 bias w)).flatten
    let r := b ++ leBytes 4 (crc32c b)
    .next ((s.modLaser m fun l => { l with record := r, blank := false }).emit (.moduleWrite m r))

end Sys2Proof.Machine
end

