-- ==== Sys2Proof/Machine/Link.lean ====
section
/-! DEFINITION. The Guluem link layer, HELLO, credits, the calendar of an output port and PAUSE (R123 to R130,
R150, R153 to R156, R160). -/

namespace Sys2Proof.Machine

open Sys2Proof

/-! ### Credits (R155) -/

/-- The classes that have credits. -/
def crClasses : List Nat := [0, 2, 3, 4, 5, 6]

/-- The buffer of a class in flits. -/
def crSize (cls : Nat) : Nat :=
  match cls with
  | 0 => 128
  | 2 => 1536
  | 3 => 1536
  | 4 => 384
  | 5 => 512
  | 6 => 512
  | _ => 0

/-- The instance of a port's virtual channel or class. -/
def vcKey (port vc : Nat) : Nat := port * 8 + vc

/-- Every credit count at the full buffer size (R155). -/
def fullCredits (s : State) (port : Nat) : State :=
  (s.each crClasses fun t c => t.wr R.FAB_VC_CREDIT (vcKey port c) (crSize c)).modPort port fun o =>
    { o with sent := [], freed := [], owed := [], rxFlits := 0 }

/-! ### Sending flits (R123 to R126) -/

/-- The last sequence number accepted. -/
def lastAccepted (o : Port) : Nat := (o.rxExpected + 4095) % 4096

/-- The counts of freed flits whose credits have been returned, by class (R156). -/
def returned (o : Port) : List Nat :=
  (List.range 7).map fun c => (mapGet 0 o.freed c + (65536 - mapGet 0 o.owed c % 65536)) % 65536

/-- A payload as a port sends it now: a time message with its departure (R206), a CREDIT_SYNC with the counts of now (R156). -/
def payloadNow (s : State) (port : Nat) (p : Payload) : Payload :=
  match p with
  | .data bs => .data (stampOut s port bs)
  | .ctl (.creditSync _) => .ctl (.creditSync (returned (s.port port)))
  | x => x

/-- The class whose credits the next flit returns, and how many (R123). -/
def creditTurn (o : Port) : Nat × Nat :=
  let cls := (crClasses.find? fun c => mapGet 0 o.owed c != 0).getD 0
  (cls, min (mapGet 0 o.owed cls) 255)

/-- A flit put on the link with the port's acknowledgement and one credit return. -/
def sendFlit (s : State) (port type seq ack : Nat) (payload : Payload) : State :=
  let c := creditTurn (s.port port)
  let s1 := s.modPort port fun o => { o with owed := mapSet 0 o.owed c.1 (mapGet 0 o.owed c.1 - c.2), unackedRx := 0 }
  let f : Flit :=
    { type := type, seq := seq, ack := ack, ackv := true, crvc := c.1, crcnt := c.2, resv := 0,
      payload := payloadNow s1 port payload, crc := 0 }
  let s2 := match payload with
    | .data bs => noteDeparture s1 port bs
    | _ => s1
  s2.emit (.flit port { f with crc := flitCrc f })

/-- A sequenced flit sent and kept for retry as the FCC built it (R125, R206); the replay timer starts with the first. -/
def sendSeq (s : State) (port type : Nat) (payload : Payload) (pkt : Option Packet) (planned : Option Nat) : State :=
  let o := s.port port
  let f : Flit :=
    { type := type, seq := o.txNext, ack := 0, ackv := false, crvc := 0, crcnt := 0, resv := 0, payload := payload, crc := 0 }
  let s1 := s.modPort port fun o =>
    { o with
      txNext := (o.txNext + 1) % 4096, retry := o.retry ++ [{ flit := f, pkt := pkt, planned := planned }],
      timerNs := if o.retry = [] then s.now else o.timerNs }
  sendFlit s1 port type o.txNext (lastAccepted o) payload

/-- Whether a port's transmitter is silent in a fast retrain (R133). -/
def silent (o : Port) : Bool :=
  match o.fastTx with
  | some f => f.gone
  | none => false

/-- One NAK, until the number expected arrives (R125); it waits where the direction is silent (R133, R136). -/
def nakOnce (s : State) (port : Nat) : State :=
  let o := s.port port
  if o.naked then s
  else
    let s1 := if silent o then s else sendFlit s port 2 0 o.rxExpected .empty
    s1.modPort port fun o => { o with naked := true, nakNs := s.now, nakDue := silent o }

/-- An acknowledgement frees the retry buffer up to it; progress ends a row of rewinds (R125, R126). -/
def ackTo (s : State) (port a : Nat) : State :=
  let o := s.port port
  let n := (a + 1 + (4096 - o.txOldest)) % 4096
  if n = 0 ∨ o.retry.length < n then s
  else
    s.modPort port fun o =>
      { o with
        retry := o.retry.drop n, txOldest := (o.txOldest + n) % 4096, resend := min o.resend (o.retry.length - n),
        rewinds := 0, timerNs := s.now }

/-- A rewind to a sequence number: the flits from it are resent; too many in a row retrain the port (R125,
R126). -/
def rewind (s : State) (port e : Nat) : State :=
  let o := s.port port
  let skip := (e + (4096 - o.txOldest)) % 4096
  if o.retry.length ≤ skip then s
  else
    let n := if o.rewinds ≠ 0 ∧ o.rewindSeq = e then o.rewinds + 1 else 1
    let c := s.rd R.FAB_RETRY port
    let s1 := penPer (s.bumpSat R.FAB_RETRY port 1) (uPort port) c (c + 1) 10000 5
    let s2 := s1.modPort port fun o => { o with
      resend := o.retry.length - skip, rewindSeq := e, rewinds := n, timerNs := s.now }
    if s.rd R.FAB_RETRY_LIMIT 0 ≤ n then
      startTrain ((s2.record 0x6020 (uPort port) [(2, e), (4, n)]).modPort port fun o => { o with rewinds := 0 })
        port .full
    else s2

/-- The acknowledgement and the credit return of a flit applied (R124). -/
def applyHeader (s : State) (port : Nat) (f : Flit) : State :=
  let s1 := if f.ackv ∧ f.type ≠ 2 then ackTo s port f.ack else s
  if f.crcnt = 0 ∨ crClasses.contains f.crvc = false then s1
  else
    let k := vcKey port f.crvc
    s1.wr R.FAB_VC_CREDIT k (min (s1.rd R.FAB_VC_CREDIT k + f.crcnt) (crSize f.crvc))

/-- ACK_NULL_SEND (R126): a NULL flit carries the acknowledgement that no other flit carried; none where the direction is silent
(R133). -/
def execAckNullSend (port : Nat) (s : State) : Host.Outcome State Fault Refusal :=
  let o := s.port port
  .next (if s.portUp port = true ∧ o.unackedRx ≠ 0 ∧ silent o = false then sendFlit s port 0 0 (lastAccepted o) .empty else s)

/-- REPLAY_TIMER_EXPIRY (R126): FAB_REPLAY_NS without progress; the timer rests while the opposite direction is in a fast
retrain. -/
def execReplayTimerExpiry (port : Nat) (s : State) : Host.Outcome State Fault Refusal :=
  let o := s.port port
  .next (if s.portUp port = true ∧ o.retry ≠ [] ∧ o.fastRx = none ∧ o.timerNs + (s.rd R.FAB_REPLAY_NS 0 : Nat) ≤ s.now then
    rewind s port o.txOldest
  else s)

/-- FLIT_CRC_FAILURE (R125): a flit with a bad CRC or a reserved type, or one in an uncorrectable codeword, which is counted once
for all its flits (R145). -/
def execFlitCrcFailure (port : Nat) (fail : FlitFail) (s : State) : Host.Outcome State Fault Refusal :=
  .next (if s.portUp port then
    nakOnce (match fail with
      | .crc => s.bumpSat R.FAB_CRC_ERR port 1
      | .codeword true => s.bumpSat R.FAB_FEC_UNCORR port 1
      | .codeword false => s) port
  else s)

/-! ### HELLO (R127, R129, R130) -/

/-- The VC1 packets with flits in a port's retry buffer or partly sent, each once. -/
def sentPlanned (o : Port) : List Packet :=
  ((o.retry.filterMap (·.pkt) ++ o.cur.map fun e => e.2.q.pkt).filter fun p => p.vc == 1).foldl
    (fun l p => if l.contains p then l else l ++ [p]) []

/-- The retry state of a port discarded (R130): every packet partly received is dropped (R150), and every VC1 packet with flits that
are not acknowledged (R414); packets partly sent are lost (R168). -/
def dropPartials (s : State) (port : Nat) : State :=
  let o := s.port port
  let s1 := s.each (o.rx.filter fun e => !e.2.dead) fun t e => dropPkt t (uPort port) 5 e.2.q.pkt
  let s2 := s1.each (sentPlanned o) fun t p => dropPkt t (uPort port) 5 p
  let s3 := s2.each o.cur fun t e => giveBack t e.2.q.inPort e.2.q.cls (e.2.q.pkt.len + 1 - e.2.next)
  (dropExchange s3 port).modPort port fun o =>
    { o with
      rx := [], cur := [], retry := [], resend := 0, rewinds := 0, txNext := 0, txOldest := 0, rxExpected := 0 }

/-- Retry state resumed from the partner's expected number (R130). -/
def resumeRetry (s : State) (port expected : Nat) : State :=
  (ackTo s port ((expected + 4095) % 4096)).modPort port fun o =>
    { o with resend := o.retry.length, rewinds := 0, timerNs := s.now }

/-- The receive lanes after a training (R132, R134): the lanes that pass; an Out one only where FAB_LANE_OUT_CLR lets it return and
its cause is no laser's. -/
def trainLanes (s : State) (port : Nat) (pass : List Nat) : State :=
  let o := s.port port
  let all := List.range (nLanes port)
  let cause (l : Nat) := s.rd R.FAB_LANE_CAUSE (laneKey port l)
  let out (l : Nat) : Bool := s.lane port l == lOut
  let back := all.filter fun l => pass.contains l && out l && o.outClr.contains l && cause l != 3 && cause l != 4
  let ok := all.filter fun l => pass.contains l && (!out l || back.contains l)
  let lost := all.filter fun l => !pass.contains l && !out l
  let w :=
    if fullWidth port ≤ ok.length then fullWidth port else if redWidth port ≤ ok.length then redWidth port else 0
  let s1 := s.each lost fun t l => laneOut (laneFaulty t port l 5) port l
  let s2 := s1.each back fun t l => penUnfix (t.wr R.FAB_LANE_CAUSE (laneKey port l) 0) (uPort port) (pcLane l)
  noteWidth (setLanes s2 port w ok) port false w

/-- Receive wavelengths Out by a laser that the partner's new module has returned: Ready, where they pass (R132). -/
def relitLanes (s : State) (port : Nat) (relit pass : List Nat) : State :=
  let cause (l : Nat) := s.rd R.FAB_LANE_CAUSE (laneKey port l)
  s.each (relit.filter fun l => pass.contains l && s.lane port l == lOut && (cause l == 3 || cause l == 4)) fun t l =>
    penUnfix ((t.wr R.FAB_LANE_CAUSE (laneKey port l) 0).wr R.FAB_LANE_STATE (laneKey port l) lReady) (uPort port) (pcLane l)

/-- FAST_RETRAIN_RESUME (R133): the transmitter goes on, 3,400 ns after SPARE_GO, with a NAK that waited. -/
def execFastRetrainResume (port : Nat) (s : State) : Host.Outcome State Fault Refusal :=
  match (s.port port).fastTx with
  | none => .next s
  | some f =>
    if s.now < f.sinceNs + 3400 then .next s
    else
      let s1 := (s.modPort port fun o => { o with fastTx := none, nakDue := false }).bumpSat R.FAB_RETRAIN_FAST port 1
      let s2 := s1.record 0x6011 (uPort port) [(4, f.moves.length), (4, f.moves.length)]
      let s3 := if (s.port port).nakDue then sendFlit s2 port 2 0 (s.port port).rxExpected .empty else s2
      .next (afterFast s3 port)

/-- HELLO sent once FEC is aligned (R126, R129). -/
def sendHello (s : State) (port : Nat) : State :=
  let o := s.port port
  let h : Hello :=
    { chip := s.me, port := port, gen := s.genOf (uPort port), expected := o.rxExpected, depth := s.rd R.FAB_CLK_DEPTH 0,
      lanes := (List.range (nLanes port)).map fun l => s.lane port l, relit := o.relit }
  let f : Flit :=
    { type := 3, seq := 0, ack := lastAccepted o, ackv := true, crvc := 0, crcnt := 0, resv := 0, payload := .ctl (.hello h),
      crc := 0 }
  (s.modPort port fun o => { o with fecUp := true, helloSent := true }).emit (.flit port { f with crc := flitCrc f })

/-- The deskew of a fast retrain ended (R133): the lanes switch on the markers where SPARE_GO was lost, and the replay timer goes on
(R126); where the spares fail they go Out with cause 5 and the port retrains in full. -/
def deskewEnd (s : State) (port : Nat) (f : FastRetrain) (ok : Bool) : State :=
  let s1 := (if f.gone then s else switchLanes s port f.moves).modPort port fun o =>
    { o with fastRx := none, timerNs := o.timerNs + (s.now - f.sinceNs) }
  if ok then afterFast s1 port
  else startTrain (s1.each f.moves fun t m => laneOut (laneFaulty t port m.spare 5) port m.spare) port .full

/-- FEC_ALIGNED (R129, R133): in training the lanes that pass are settled and HELLO is sent; in a fast retrain the deskew ends. -/
def fecAligned (s : State) (port : Nat) (ok : Bool) (lanes : List Nat) : State :=
  match s.rd R.FAB_PORT_STATE port with
  | 1 =>
    if ok = false then s
    else sendHello (if (s.port port).train = some .width then s else trainLanes s port lanes) port
  | 2 =>
    match (s.port port).fastRx with
    | none => s
    | some f => deskewEnd s port f ok
  | _ => s

/-- FEC_ALIGNED (R129). -/
def execFecAligned (port : Nat) (ok : Bool) (lanes : List Nat) (s : State) : Host.Outcome State Fault Refusal :=
  .next (fecAligned s port ok lanes)

/-- What the FCC does as a port enters Up: its lane of the Clover channel starts afresh, and its neighbour is watched
only from the next heartbeat on (R273, R346). -/
def clvPortUp (s : State) (port : Nat) : State :=
  (s.modChan (s.rd R.CLV_TALLY_CH 0) fun c => { c with started := c.started.filter fun l => l != port }).modClover fun c =>
    { c with nbrs := mapPut c.nbrs port { mapGet {} c.nbrs port with watched := false } }

/-- A port enters Up (R129, R155): held VC1 packets leave as displaced flits (R168); what asked for a full retrain has had it. -/
def enterUp (s : State) (port : Nat) (h : Hello) : State :=
  let full := (s.port port).train != some .width
  let s1 := fullCredits ((s.wr R.FAB_PORT_STATE port 2).wr R.FAB_PORT_CAUSE port 0) port
  let moved (q : QPacket) : QPacket := if q.pkt.vc = 1 then { q with displaced := q.pkt.len + 1 } else q
  let s2 := s1.modPort port fun o =>
    { o with
      train := none, attempts := 0, partner := some h, downNs := none, holdDone := false, naked := false, relit := [],
      outClr := if full then [] else o.outClr, pendingMoves := if full then [] else o.pendingMoves,
      cur := o.cur.map (fun e => (e.1, { e.2 with q := moved e.2.q })), txq := o.txq.map (fun e => (e.1, e.2.map moved)) }
  let s3 := (List.range 7).foldl (fun t v => t.wr R.FAB_VC_HELD (vcKey port v) 0) s2
  let s4 := s3.record 0x6001 (uPort port)
    [(1, s3.rd R.FAB_PORT_WIDTH_RX port), (1, s3.rd R.FAB_PORT_WIDTH_TX port),
      (4, s3.rd R.FAB_PORT_PARTNER port), (4, s3.rd R.FAB_PORT_LAT port)]
  wavesDue (clockBack (depthRx (clvPortUp s4 port) port h.depth) port) port

/-- A partner's HELLO: latency, partner, lanes and retry state settled, and the port Up or Down. Of FAB_PORT_EXPECT bits 19 to 0
are compared; the manual gives bits 31 to 20 no meaning but in the value of all ones, and they are kept as written (log 95). -/
def helloRx (s : State) (port : Nat) (h : Hello) (latency : Nat) (pass : List Nat) : State :=
  let o := s.port port
  if s.rd R.FAB_PORT_STATE port ≠ 1 ∨ o.fecUp = false then s
  else
    let who := h.chip + h.port * 2 ^ 17
    let s1 := (s.wr R.FAB_PORT_PARTNER port who).wr R.FAB_PORT_LAT port latency
    let want := s.rd R.FAB_PORT_EXPECT port
    if (if isOptical port then 1150 else 150) < latency then goDown s1 port 4
    else if want ≠ 0xFFFFFFFF ∧ want % 2 ^ 20 ≠ who then
      goDown (s1.record 0x6004 (uPort port) [(4, h.chip), (1, h.port)]) port 3
    else
      let s3 := setTxLanes (relitLanes s1 port h.relit pass) port h.lanes
      if s3.rd R.FAB_PORT_WIDTH_RX port < redWidth port ∨ s3.rd R.FAB_PORT_WIDTH_TX port < redWidth port then
        goDown s3 port 1
      else
        let same : Bool :=
          match o.partner with
          | some q => q.chip == h.chip && q.port == h.port && q.gen == h.gen
          | none => false
        enterUp (if same then resumeRetry s3 port h.expected else dropPartials s3 port) port h

/-- HELLO (R129). -/
def execHello (port : Nat) (h : Hello) (latency : Nat) (lanesPass : List Nat) (s : State) :
    Host.Outcome State Fault Refusal :=
  .next (helloRx s port h latency lanesPass)

/-! ### PAUSE and CREDIT_SYNC (R156, R160) -/

/-- The flit times of a unit of TIME (R160). -/
def pauseUnit : Nat := 512

/-- The remaining time of a paused channel replaced. -/
def setPause (s : State) (port vc time : Nat) : State :=
  (s.wr R.FAB_VC_PAUSED (vcKey port vc) time).modPort port fun o =>
    { o with pauseLeft := mapSet 0 o.pauseLeft vc (pauseUnit * time) }

/-- A PAUSE received: the remaining time of the named channels replaced. -/
def pauseRx (s : State) (port mask time : Nat) : State :=
  let s1 := if bitOf mask 2 then setPause s port 2 time else s
  if bitOf mask 3 then setPause s1 port 3 time else s1

/-- PAUSE (R160). -/
def execPause (port mask time : Nat) (s : State) : Host.Outcome State Fault Refusal := .next (pauseRx s port mask time)

/-- PAUSE_EXPIRY (R160): TIME has run out. -/
def execPauseExpiry (port vc : Nat) (s : State) : Host.Outcome State Fault Refusal := .next (setPause s port vc 0)

/-- A flit time passes for a paused channel; what is left shows in units, rounded up (R174). -/
def pauseTick (s : State) (port vc : Nat) : State :=
  match mapGet 0 (s.port port).pauseLeft vc with
  | 0 => s
  | n + 1 =>
    (s.wr R.FAB_VC_PAUSED (vcKey port vc) (ceilDiv n pauseUnit)).modPort port fun o =>
      { o with pauseLeft := mapSet 0 o.pauseLeft vc n }

/-- A PAUSE put on every Up port. -/
def pauseAll (s : State) (vc time : Nat) : State :=
  s.each ((List.range 6).filter fun p => s.portUp p) fun t p => ctlSend t p (.pause (2 ^ vc) time)

/-- PAUSE_SEND (R160): an ejection queue holds so many flits now. -/
def execPauseSend (vc flits : Nat) (s : State) : Host.Outcome State Fault Refusal :=
  let on := mapGet false s.router.pausedOn vc
  let s1 := s.modRouter fun r => { r with ejectQ := mapSet 0 r.ejectQ vc flits }
  .next (if vc ≠ 2 ∧ vc ≠ 3 then s
  else if s.rd R.FAB_PAUSE_ON 0 ≤ flits ∧ on = false then
    pauseAll (s1.modRouter fun r => { r with pausedOn := mapPut r.pausedOn vc true }) vc (s.rd R.FAB_PAUSE_TIME 0)
  else if flits ≤ s.rd R.FAB_PAUSE_OFF 0 ∧ on = true then
    pauseAll (s1.modRouter fun r => { r with pausedOn := mapPut r.pausedOn vc false }) vc 0
  else s1)

/-- A CREDIT_SYNC received: credits set from the counts of freed flits, by class. -/
def creditSyncRx (s : State) (port : Nat) (freed : List Nat) : State :=
  s.each crClasses fun t c =>
    let k := vcKey port c
    let used := (mapGet 0 (t.port port).sent c + (65536 - getAt 0 freed c % 65536)) % 65536
    let new := crSize c - used
    let old := t.rd R.FAB_VC_CREDIT k
    let t1 := t.wr R.FAB_VC_CREDIT k new
    if old < new then t1.bumpSat R.FAB_CREDIT_FIX k (new - old) else t1

/-- CREDIT_SYNC (R156). -/
def execCreditSync (port : Nat) (freed : List Nat) (s : State) : Host.Outcome State Fault Refusal :=
  .next (creditSyncRx s port freed)

/-- CREDIT_SYNC_SEND (R156): the counts are those of the moment the flit leaves. -/
def execCreditSyncSend (port : Nat) (s : State) : Host.Outcome State Fault Refusal :=
  .next (if s.portUp port then
    ctlSend (s.modPort port fun o => { o with rxFlits := 0 }) port (.creditSync [])
  else s)

/-! ### Receiving (R124, R125, R147, R150) -/

/-- Link control delivered, once (R125). -/
def ctlRx (s : State) (port : Nat) (c : LinkCtl) : State :=
  match c with
  | .hello h =>
    helloRx s port h (s.rd R.FAB_PORT_LAT port)
      ((List.range (nLanes port)).filter fun l => s.lane port l != lOut)
  | .spareReq m => spareReqRx s port m
  | .spareOffer l cause => spareOfferRx s port { lane := l, cause := cause }
  | .spareGo m => spareGoRx s port m
  | .pause m t => pauseRx s port m t
  | .creditSync f => creditSyncRx s port f
  | .depth d => depthRx s port d

/-- Flits of VC1 packets in a port's input buffer. -/
def vc1Held (s : State) (port : Nat) : Nat :=
  let mine (q : QPacket) : Bool := q.inPort == port && q.pkt.vc == 1
  let sum (l : List Nat) : Nat := l.foldl (· + ·) 0
  let at1 (p : Nat) : Nat :=
    sum (((mapGet [] (s.port p).txq 1).filter mine).map fun q => q.pkt.len + 1) +
      sum (((s.port p).cur.filter fun e => mine e.2.q).map fun e => e.2.q.pkt.len + 1 - e.2.next)
  sum ((List.range 6).map at1) + ((mapFind (s.port port).rx 1).map fun r => if r.dead then 0 else r.next).getD 0

/-- The rest of a packet's flits to be discarded: none where the last one has come. -/
def deadRest (s : State) (port : Nat) (tag : FlitTag) (q : QPacket) : State :=
  s.modPort port fun o =>
    { o with rx := if tag.last then mapDel o.rx tag.vc else mapPut o.rx tag.vc { q := q, dead := true } }

/-- A packet being received dropped as malformed, with `n` flits of it in the buffer (R150). -/
def badPacket (s : State) (port n : Nat) (q : QPacket) : State :=
  dropPkt (giveBack s port q.cls n) (uPort port) 5 q.pkt

/-- A flit of a packet whose first flit never came (R150, R414): its packet dropped once. -/
def orphan (s : State) (port : Nat) (tag : FlitTag) : State :=
  let p := { ownPacket s tag.vc 0 0 with src := 0 }
  deadRest (dropAs (giveBack s port tag.vc 1) (uPort port) 5 tag.vc 0 0 s.activeParts) port tag { pkt := p, inPort := port }

/-- The flits received of a packet are all there: its data is cut to DLEN, and it is routed. -/
def packetWhole (s : State) (port : Nat) (q : QPacket) (tag : FlitTag) (ecc : List EccHit) : State :=
  let s1 := (s.modPort port fun o => { o with rx := mapDel o.rx tag.vc }).bumpSat R.FAB_VC_RX_PKT (vcKey port q.cls) 1
  let tags := (List.range (tag.index + 1)).map fun k =>
    tagWord { vc := tag.vc, first := k == 0, last := k == tag.index, index := k, resv := 0 }
  if q.pkt.vc = tag.vc ∧ q.pkt.len = tag.index then
    route s1 port { q.pkt with data := q.pkt.data.take q.pkt.dlen } { tags := tags, ecc := ecc }
  else badPacket s1 port (tag.index + 1) q

/-- A flit that a packet takes: the packet goes on, or is whole. -/
def packetNext (s : State) (port : Nat) (q : QPacket) (tag : FlitTag) (ecc : List EccHit) : State :=
  if tag.last then packetWhole s port q tag ecc
  else s.modPort port fun o => { o with rx := mapPut o.rx tag.vc { q := q, next := tag.index + 1 } }

/-- A first flit: the packet begins with its header and first 200 bytes. -/
def packetFirst (s : State) (port : Nat) (tag : FlitTag) (bs : List Byte) (ecc : List EccHit) : State :=
  let p := packetOfWord (leField bs 8 32) ((bs.drop 40).take 200)
  let q : QPacket := { pkt := p, inPort := port, cls := classOf { p with vc := tag.vc } }
  if tag.index = 0 ∧ tag.resv = 0 then packetNext s port q tag ecc else deadRest (badPacket s port 1 q) port tag q

/-- A VC1 flit that finds its buffer full (R155, R414). -/
def overflow (s : State) (port : Nat) (tag : FlitTag) (q : Option QPacket) : State :=
  let p := (q.map (·.pkt)).getD { ownPacket s 1 0 0 with src := 0 }
  let ps := match q with
    | some x => s.tagParts x.pkt.dtag
    | none => s.activeParts
  let part := match q with
    | some x => x.pkt.spart
    | none => 0xFF
  let s1 := (dropAs s (uPort port) 6 1 p.src p.dst ps).record 0x6046 (uPort port) [(1, port), (1, part)]
  deadRest s1 port tag { pkt := p, inPort := port }

/-- The payload of a DATA flit put into its packet; the last one routes the packet (R147, R150). -/
def dataRx (s : State) (port : Nat) (bs : List Byte) (ecc : List EccHit) : State :=
  let tag := tagOfWord (leField bs 0 8)
  let cur := mapFind (s.port port).rx tag.vc
  let live := cur.filter fun r => !r.dead
  if 5 ≤ tag.vc then dropAs s (uPort port) 5 tag.vc 0 0 []
  else if tag.vc = 1 ∧ 1536 ≤ vc1Held s port ∧ (tag.first = true ∨ live.isSome = true) then
    overflow s port tag (if tag.first then some { pkt := packetOfWord (leField bs 8 32) [], inPort := port }
      else live.map (·.q))
  else if tag.first then
    packetFirst (match live with
      | some r => badPacket s port r.next r.q
      | none => s) port tag bs ecc
  else
    match cur with
    | none => orphan s port tag
    | some r =>
      if r.dead then deadRest (giveBack s port r.q.cls 1) port tag r.q
      else if tag.index = r.next ∧ tag.resv = 0 then
        packetNext s port { r.q with pkt := { r.q.pkt with data := r.q.pkt.data ++ (bs.drop 8).take 232 } } tag ecc
      else deadRest (badPacket s port (r.next + 1) r.q) port tag r.q

/-- A sequenced flit with good CRC: delivered if it is the one expected, else discarded with one NAK. -/
def seqRx (s : State) (port : Nat) (f : Flit) (ecc : List EccHit) : State :=
  let o := s.port port
  if f.seq ≠ o.rxExpected then nakOnce s port
  else
    let s1 := if o.naked then s.raise R.FAB_RETRY_MAX_NS port (s.now - o.nakNs).toNat else s
    let s2 := s1.modPort port fun o =>
      { o with
        rxExpected := (o.rxExpected + 1) % 4096, naked := false, nakDue := false, unackedRx := o.unackedRx + 1,
        rxFlits := o.rxFlits + 1 }
    match f.payload with
    | .data bs => if f.type = 1 then dataRx s2 port bs ecc else s2
    | .ctl c => if f.type = 3 then ctlRx s2 port c else s2
    | .empty => s2

/-- A NAK: what came before is acknowledged, and the transmitter rewinds (R125). -/
def nakRx (s : State) (port : Nat) (f : Flit) : State :=
  rewind (ackTo (applyHeader s port f) port ((f.ack + 4095) % 4096)) port f.ack

/-- A flit received: with a bad CRC, or of a reserved type, it is a CRC failure (R124, R125). HELLO comes before the port is
Up. -/
def flitRx (s : State) (port : Nat) (f : Flit) (ecc : List EccHit) : State :=
  if s.portUp port = false then
    match f.payload with
    | .ctl (.hello h) => if f.crc = flitCrc f then ctlRx s port (.hello h) else s
    | _ => s
  else if f.crc ≠ flitCrc f ∨ 3 < f.type then nakOnce (s.bumpSat R.FAB_CRC_ERR port 1) port
  else
    match f.type with
    | 0 => applyHeader s port f
    | 2 => nakRx s port f
    | _ => seqRx (applyHeader s port f) port f ecc

/-- DATA (R125): a DATA or LINK_CTL flit. -/
def execData (port : Nat) (a : FlitArrival) (s : State) : Host.Outcome State Fault Refusal := .next (flitRx s port a.flit a.ecc)

/-- NAK (R125). -/
def execNak (port : Nat) (f : Flit) (s : State) : Host.Outcome State Fault Refusal :=
  .next (flitRx s port { f with type := 2 } [])

/-- NULL (R124). -/
def execNull (port : Nat) (f : Flit) (s : State) : Host.Outcome State Fault Refusal :=
  .next (flitRx s port { f with type := 0 } [])

/-! ### The calendar (R153, R154) -/

/-- One partition's slots placed in a frame of `n`: evenly, each in the first free slot from its place on. -/
def placeSlots (n : Nat) (cal : Map Nat) (p r : Nat) : Map Nat :=
  (List.range r).foldl
    (fun c k =>
      match (List.range n).find? fun d => !mapHas c ((k * n / r + d) % n) with
      | some d => mapPut c ((k * n / r + d) % n) p
      | none => c) cal

/-- The reservation of a partition on a port. -/
def State.vc1Res (s : State) (port p : Nat) : Nat := s.rd R.FAB_VC1_RES (port * 128 + p)

/-- A frame of `n` slots of a port, for the partitions `ps` in order. -/
def calendar (s : State) (port n : Nat) (ps : List Nat) : Map Nat :=
  ps.foldl (fun c p => placeSlots n c p (s.vc1Res port p)) []

/-- Whether a port sends at its reduced width, where each flit takes two slots (R154). -/
def narrowWidth (s : State) (port : Nat) : Bool := decide (s.rd R.FAB_PORT_WIDTH_TX port ≤ redWidth port)

/-- The partitions that keep their reservations at reduced width (R154). -/
def kept (s : State) (port : Nat) : List Nat :=
  (List.range 128).filter fun p => decide (((List.range (p + 1)).map (s.vc1Res port)).foldl (· + ·) 0 ≤ 480)

/-- The partition whose slot of the full frame a port's slot is. -/
def slotOwner (s : State) (port : Nat) : Option Nat :=
  mapFind (calendar s port 1024 (List.range 128)) (s.port port).slot

/-- The queue of a port's virtual channel. -/
def Port.queue (o : Port) (vc : Nat) : List QPacket := mapGet [] o.txq vc

/-- A slot's use noted for the priority shares of VC0 and VC4 (R153); `vc` 7 is none. -/
def markSlot (s : State) (port vc : Nat) : State :=
  s.modPort port fun o =>
    { o with vc0Used := ((vc == 0) :: o.vc0Used).take 1024, vc4Used := ((vc == 4) :: o.vc4Used).take 1024 }

/-- The next flit of a packet sent, in a partition's slot or not: its credit is taken and the sender's buffer freed. -/
def sendData (s : State) (port : Nat) (q : QPacket) (idx : Nat) (planned : Option Nat) : State :=
  let vc := q.pkt.vc
  let cls := classOf q.pkt
  let s1 := sendSeq s port 1 (.data (flitPayload q.pkt idx)) (some q.pkt) planned
  let s2 :=
    if vc = 1 then s1
    else
      (giveBack (s1.wr R.FAB_VC_CREDIT (vcKey port cls) (s1.rd R.FAB_VC_CREDIT (vcKey port cls) - 1)) q.inPort q.cls 1).modPort
        port fun o => { o with sent := mapSet 0 o.sent cls ((mapGet 0 o.sent cls + 1) % 65536) }
  let s3 := s2.modPort port fun o =>
    { o with
      cur := if q.pkt.len ≤ idx then mapDel o.cur vc else mapPut o.cur vc { q := q, next := idx + 1 },
      txq := if idx = 0 then mapPut o.txq vc ((o.queue vc).erase q) else o.txq }
  if q.pkt.len ≤ idx then s3.bumpSat R.FAB_VC_TX_PKT (vcKey port cls) 1 else s3

/-- The next VC1 flit of a partition that has not left its slots: of the packet being sent, or the first that waits (R153). -/
def bound (o : Port) (p : Nat) : Option (QPacket × Nat) :=
  match mapFind o.cur 1 with
  | some c => if c.q.pkt.spart = p ∧ c.q.displaced ≤ c.next then some (c.q, c.next) else none
  | none => ((o.queue 1).find? fun q => q.pkt.spart == p && q.displaced == 0).map fun q => (q, 0)

/-- A planned flit that cannot take its slot (R72, R154, R168): a slip, and the flit is displaced. Of the packets of the partition it
is the first with a flit still bound to its slots. -/
def displace (s : State) (port p : Nat) : State :=
  let o := s.port port
  let left (q : QPacket) (next : Nat) : Bool := q.pkt.spart == p && decide (max q.displaced next ≤ q.pkt.len)
  match o.cur.find? fun e => e.1 == 1 && left e.2.q e.2.next with
  | some e =>
    (slipTag s port e.2.q.pkt.dtag).modPort port fun o =>
      { o with cur := mapPut o.cur 1 { e.2 with q := { e.2.q with displaced := max e.2.q.displaced e.2.next + 1 } } }
  | none =>
    match (o.queue 1).find? fun q => left q 0 with
    | some q =>
      (slipTag s port q.pkt.dtag).modPort port fun o =>
        { o with
          txq := mapPut o.txq 1 ((o.queue 1).takeWhile (fun x => x != q) ++ { q with displaced := q.displaced + 1 } ::
            ((o.queue 1).dropWhile fun x => x != q).drop 1) }
    | none => s

/-- Whether a packet may start: its credits are there and its channel is not paused (R153, R155, R160). -/
def mayStart (s : State) (port : Nat) (q : QPacket) : Bool :=
  decide (q.pkt.len + 1 ≤ s.rd R.FAB_VC_CREDIT (vcKey port (classOf q.pkt))) &&
    s.rd R.FAB_VC_PAUSED (vcKey port q.pkt.vc) == 0

/-- The packet a channel would send next, and from which flit. -/
def nextOf (s : State) (port vc : Nat) : Option (QPacket × Nat) :=
  let o := s.port port
  match mapFind o.cur vc with
  | some c => some (c.q, c.next)
  | none =>
    match o.queue vc with
    | q :: _ => if mayStart s port q then some (q, 0) else none
    | [] => none

/-- The displaced VC1 flit served next. -/
def nextDisplaced (o : Port) : Option (QPacket × Nat) :=
  match mapFind o.cur 1 with
  | some c => if c.next < c.q.displaced then some (c.q, c.next) else none
  | none => ((o.queue 1).find? fun q => decide (0 < q.displaced)).map fun q => (q, 0)

/-- Whether a channel other than the named one waits. -/
def othersWait (o : Port) (vc : Nat) : Bool :=
  (o.txq.any fun e => e.1 != vc && e.2 != []) || o.cur.any fun e => e.1 != vc

/-- VC2 or VC3, by packet, VC3 in its weight (R153). -/
def pick23 (s : State) (port : Nat) : Option (QPacket × Nat) :=
  let o := s.port port
  let a := nextOf s port 2
  let b := nextOf s port 3
  if (mapFind o.cur 2).isSome then a
  else if (mapFind o.cur 3).isSome then b
  else if a.isNone ∨ (b.isSome ∧ o.vc3Turn < s.rd R.FAB_VC3_WEIGHT 0) then (if b.isSome then b else a)
  else a

/-- The flit of an unreserved slot (R153). -/
def pickFree (s : State) (port : Nat) : Option (QPacket × Nat) :=
  let o := s.port port
  let share (vc n : Nat) (used : List Bool) : Option (QPacket × Nat) :=
    if n ≤ (used.filter id).length ∧ othersWait o vc = true then none else nextOf s port vc
  match share 0 32 o.vc0Used with
  | some x => some x
  | none =>
    match share 4 64 o.vc4Used with
    | some x => some x
    | none =>
      match nextDisplaced o with
      | some x => some x
      | none => pick23 s port

/-- Ready packets that wait for credits counted by their class (R174). -/
def countWaits (s : State) (port : Nat) : State :=
  s.each [0, 2, 3, 4] fun t vc =>
    let o := t.port port
    match mapFind o.cur vc, o.queue vc with
    | none, q :: _ =>
      let k := vcKey port (classOf q.pkt)
      if t.rd R.FAB_VC_CREDIT k < q.pkt.len + 1 then t.bumpSat R.FAB_VC_WAIT k 1 else t
    | _, _ => t

/-- Link control sent (R123, R133): SPARE_GO moves the transmit lanes and makes the direction silent. -/
def sendCtl (s : State) (port : Nat) (c : LinkCtl) : State :=
  let s1 := sendSeq s port 3 (.ctl c) none none
  match c with
  | .spareGo m =>
    s1.modPort port fun o =>
      { o with
        fastTx := some { gone := true, moves := m, sinceNs := s.now },
        txLanes := m.foldl (fun l x => mapPut (mapPut l x.lane lOut) x.spare lActive) o.txLanes,
        txRoles := m.foldl (fun l x => mapPut (mapDel l x.lane) x.spare (mapGet 0 o.txRoles x.lane)) o.txRoles,
        pendingOffers := o.pendingOffers.filter fun e => !(m.any fun x => x.lane == e.1) }
  | _ => s1

/-- The next flit of a replay sent again (R125); the channel it belongs to, 7 for link control. -/
def replayNext (s : State) (port : Nat) : State × Nat :=
  let o := s.port port
  match o.retry.drop (o.retry.length - o.resend) with
  | f :: _ =>
    ((sendFlit (s.bumpSat R.FAB_REPLAYED port 1) port f.flit.type f.flit.seq (lastAccepted o) f.flit.payload).modPort port fun o =>
      { o with resend := o.resend - 1 }, (f.pkt.map (·.vc)).getD 7)
  | [] => (s, 7)

/-- An unreserved slot: a replay, link control, else the virtual channels in their order. The state after, and the channel served, 7
for none. -/
def freeSlot (s : State) (port : Nat) : State × Nat :=
  let o := s.port port
  if o.resend ≠ 0 then replayNext s port
  else if 2048 ≤ o.retry.length then (s, 7)
  else
    match o.ctlq with
    | c :: rest => (sendCtl (s.modPort port fun o => { o with ctlq := rest }) port c, 7)
    | [] =>
      match pickFree s port with
      | none => (s, 7)
      | some (q, i) =>
        let s1 := sendData s port q i none
        let turn := if q.pkt.len ≤ i ∧ q.pkt.vc = 3 then o.vc3Turn + 1 else if q.pkt.len ≤ i ∧ q.pkt.vc = 2 then 0 else o.vc3Turn
        (s1.modPort port fun o => { o with vc3Turn := turn }, q.pkt.vc)

/-- A reserved slot (R12, R153): the next VC1 flit of its partition, which a replay may be; no other traffic. -/
def plannedSlot (s : State) (port p : Nat) : State × Nat :=
  let o := s.port port
  if o.resend ≠ 0 then
    match o.retry.drop (o.retry.length - o.resend) with
    | f :: _ => if f.planned = some p then replayNext s port else (s, 7)
    | [] => (s, 7)
  else if 2048 ≤ o.retry.length then (s, 7)
  else
    match bound o p with
    | some (q, i) => (sendData s port q i (some p), 1)
    | none => (s, 7)

/-- A slot of a port that is Up. At reduced width the slots go in pairs, each for one flit, and the frame of 512 pairs holds the
reservations that are kept (R154, log 38); the flits of the others slip in their slots. -/
def upSlot (s : State) (port : Nat) : State × Nat :=
  let k := (s.port port).slot
  if silent (s.port port) then (s, 7)
  else if narrowWidth s port then
    let s1 := match slotOwner s port with
      | some p => if (kept s port).contains p then s else displace s port p
      | none => s
    if k % 2 = 1 then (s1, 7)
    else
      match mapFind (calendar s port 512 (kept s port)) (k / 2) with
      | some p => plannedSlot s1 port p
      | none => freeSlot s1 port
  else
    match slotOwner s port with
    | some p => plannedSlot s port p
    | none => freeSlot s port

/-- A slot of a port that is not Up: while packets are held, the planned flit of the slot slips (R168). -/
def downSlot (s : State) (port : Nat) : State :=
  match slotOwner s port with
  | some p => if (s.port port).downNs.isSome ∧ (s.port port).holdDone = false then displace s port p else s
  | none => s

/-- One slot of a port's calendar (R153). -/
def txSlot (s : State) (port : Nat) : State :=
  let next (t : State) : State := t.modPort port fun o => { o with slot := (o.slot + 1) % 1024 }
  if s.portUp port = false then markSlot (next (downSlot s port)) port 7
  else
    let s1 := countWaits (pauseTick (pauseTick s port 2) port 3) port
    let x := upSlot s1 port
    markSlot (next x.1) port x.2

/-- TX_SLOT (R153). -/
def execTxSlot (port : Nat) (s : State) : Host.Outcome State Fault Refusal := .next (txSlot s port)

end Sys2Proof.Machine
end

