-- ==== Sys2Proof/Machine/Observe.lean ====
section
/-! DEFINITION. Trace rings' drain, the life record and margin tests (R389, R396 to R399). -/

namespace Sys2Proof.Machine

open Sys2Proof

/-! ### The trace FIFOs (R389) -/

/-- The oldest record of a block's FIFO written to its partition's ring. -/
def drainOne (s : State) (b : Nat) : State :=
  match (s.block b).trace with
  | [] => s
  | r :: rest =>
    let s1 := s.modBlock b fun k => { k with trace := rest }
    if s.partOf b < 128 then ringPut s1 (s.partOf b) r else s1

/-- At most `n` records drained, those of the lowest block with any first. -/
def drainN (s : State) (region n : Nat) : State :=
  match n with
  | 0 => s
  | n + 1 =>
    match (regionBlocks region).find? fun b => (s.block b).trace != [] with
    | some b => drainN (drainOne s b) region n
    | none => s

/-- TRACE_RING_DRAIN (R389): a region drains up to 2 records. -/
def execTraceRingDrain (region : Nat) (s : State) : Host.Outcome State Fault Refusal :=
  .next (if region < 8 then drainN s region 2 else s)

/-! ### The life record (R396, R397) -/

/-- How many of the rising bounds a value reaches: its band. -/
def bandAt (bounds : List Nat) (v : Nat) : Nat := (bounds.filter fun b => decide (b ≤ v)).length

/-- A second of powered time: while the main rails are up, the bands of temperature and core voltage, and energy. -/
def lifeSecond (s : State) (tempC vddMv powerW : Nat) : State :=
  let s1 := s.bumpSat R.LIFE_POWERED_S 0 1
  if (s.rst.pwrEn && s.rst.pwrGood) = false then s1
  else
    let s2 := ((s1.bumpSat R.LIFE_MAIN_S 0 1).bumpSat (R.LIFE_TEMP_S (bandAt [40, 60, 80, 90, 100] tempC)) 0 1).bumpSat
      (R.LIFE_VOLT_S (bandAt [650, 700, 750, 800, 850] vddMv)) 0 1
    let s3 := ((s2.bumpSat R.LIFE_ENERGY_J 0 powerW).raise R.PWR_TJ_MAX_C 0 (min tempC 255)).wr R.PWR_NOW_W 0 powerW
    (s3.raise R.PWR_MAX_W 0 (min powerW 65535)).wr R.PWR_VDD_MV 0 vddMv

/-- LIFE_SAMPLE (R397). -/
def execLifeSample (tempC vddMv powerW : Nat) (s : State) : Host.Outcome State Fault Refusal :=
  .next (if s.fccUp then lifeSecond s tempC vddMv powerW else s)

/-- The powered seconds of the newest copy of the life record. -/
def lifeSavedS (s : State) : Nat :=
  (s.obs.lifeCopies.map fun e => mapGet 0 e.2.entries (odKey R.LIFE_POWERED_S 0)).foldl max 0

/-- LIFE_SAVE (R396): after an hour of powered time the whole record goes to the sector that was not written last, with the
next sequence number. -/
def lifeSave (s : State) : State :=
  let last := (s.obs.lifeCopies.map fun e => e.2.seq).foldl max 0
  if s.rd R.LIFE_POWERED_S 0 < lifeSavedS s + 3600 then s
  else
  let new : LifeCopy := { seq := last + 1, entries := lifeEntries s }
  s.modObs fun o => { o with lifeCopies := mapPut o.lifeCopies ((last + 1) % 2) new }

/-- LIFE_SAVE (R396). -/
def execLifeSave (s : State) : Host.Outcome State Fault Refusal := .next (if s.fccUp then lifeSave s else s)

/-! ### Margin tests (R398, R399) -/

/-- Whether all of a region's blocks are in no partition, or in Empty ones. -/
def regionFree (s : State) (r : Nat) : Bool := (regionBlocks r).all fun b => partFree s (s.partOf b)

/-- The next region in turn is tested LIFE_MARGIN_H hours of powered time after the turn before, if it is free; else its turn
passes. -/
def marginStart (s : State) : State :=
  let r := s.obs.marginNext
  if s.rd R.LIFE_MARGIN_H 0 = 0 ∨ s.rd R.LIFE_POWERED_S 0 < s.obs.marginAtS + 3600 * s.rd R.LIFE_MARGIN_H 0 ∨
      s.obs.margin.isSome = true ∨ (s.rst.pwrEn && s.rst.pwrGood) = false then s
  else
    let s1 := s.modObs fun o => { o with marginNext := (r + 1) % 8, marginAtS := s.rd R.LIFE_POWERED_S 0 }
    if regionFree s r then s1.modObs fun o => { o with margin := some { region := r, nominal := s.rd R.PWR_VDD_MV 0 } } else s1

/-- MARGIN_TEST_START (R398). -/
def execMarginTestStart (s : State) : Host.Outcome State Fault Refusal := .next (if s.fccUp then marginStart s else s)

/-- The clock bucket of a test (R399), none outside 0.9 GHz to 1.8 GHz. -/
def clockBucket (s : State) : Option Nat :=
  let k := (s.rd R.PWR_CCLK_KHZ 0 + 50000) / 100000
  if 9 ≤ k ∧ k ≤ 18 then some (k - 9) else none

/-- A passing result against the reference of its bucket: the first becomes it, one 25 mV or more above adds the fixed
points of R293. -/
def marginRef (s : State) (m : MarginTest) : State :=
  match clockBucket s with
  | none => s
  | some k =>
    let i := 16 * m.region + k
    let ref := s.rd R.LIFE_MARGIN_REF i
    let v := marginMin m
    if ref = 0 then s.wr R.LIFE_MARGIN_REF i v
    else if ref + 25 ≤ v then penOnce s uFcc (pcMargin m.region) 150
    else s

/-- A test that has passed at least at nominal ends: its result, and its reference. -/
def marginPass (s : State) (m : MarginTest) : State := marginEnd (marginRef s m) 1

/-- A step of a test ended: one that passed lowers the supply further, to at most 150 mV below nominal; the first that
fails ends the test. A region that fails at nominal is tested once more; the second time the chip is fenced. -/
def marginStep (s : State) (passed : Bool) : State :=
  match s.obs.margin with
  | none => s
  | some m =>
    if passed then
      let n := { m with step := m.step + 1 }
      if m.step = 30 then marginPass s n else s.modObs fun o => { o with margin := some n }
    else if m.step ≠ 0 then marginPass s m
    else if m.again = false then (marginRecord s m 2).modObs fun o => { o with margin := some { m with again := true } }
    else fenceChip ((marginEnd s 2).record 0xC004 uFcc [(1, 6), (2, uRegion m.region), (1, 1)])

/-- MARGIN_STEP_DONE (R398). -/
def execMarginStepDone (passed : Bool) (s : State) : Host.Outcome State Fault Refusal := .next (marginStep s passed)

end Sys2Proof.Machine
end

