-- ==== Sys2Proof/Machine/Writes.lean ====
section
/-! DEFINITION. Writing an entry of the dictionary: keys, and every entry's write by the rules of its chapter (R353, R358,
R371, R372). -/

namespace Sys2Proof.Machine

open Sys2Proof

/-! ### Keys (R371, R372) -/

/-- A session ends, with event 0xE002; one whose request still runs ends with it. -/
def endSession (s : State) (x : Session) (cause : Nat) : State :=
  let same (y : Session) : Bool := y.peer == x.peer && y.number == x.number
  if x.running.isSome then
    s.setMgmt { s.mgmt with sessions := s.mgmt.sessions.map fun y => if same y then { y with ending := true } else y }
  else sessionEnded (s.setMgmt { s.mgmt with sessions := s.mgmt.sessions.filter fun y => !same y }) x cause

/-- The role whose sessions a key opens: its ROLE of R366. -/
def keyRole (sub : Nat) : Option Nat := if sub = 1 then some 0 else if sub = 2 then some 1 else none

/-- A key written: 32 zero bytes make it unprovisioned; the sessions opened with it end, with event 0xE005. The selected
fabric slot keeps its key while the other is provisioned (R372). -/
def keyPut (s : State) (r : Reg) (key : List Byte) (p : Path) : Written :=
  let zero := key.all fun b => b == 0
  let sel := 4 + s.rd R.MGT_KEY_FAB_SEL 0
  if p = .vc0 then (s, rRole)
  else if zero = true ∧ r.sub = sel ∧ keySet s (9 - sel) = true then deny s
  else
    let s1 := s.wrB r 0 (if zero then [] else sliceZ key 0 32)
    let s2 := (s1.wr R.MGT_KEY_SET 0 (setBits (s.rd R.MGT_KEY_SET 0) (r.sub - 1) 1 (b2n (!zero)))).record 0xE005 uFcc
      [(1, r.sub), (1, pathCode p)]
    match keyRole r.sub with
    | some role => done (s2.each (s.mgmt.sessions.filter fun x => x.role == role) fun t x => endSession t x seKey)
    | none => done s2

/-- The entry of a key. -/
def keyReg (sub : Nat) : Reg :=
  match sub with
  | 1 => R.MGT_KEY_OBS
  | 2 => R.MGT_KEY_OPR
  | 3 => R.MGT_KEY_TRAY
  | 4 => R.MGT_KEY_FAB0
  | _ => R.MGT_KEY_FAB1

/-- Which slot is used for sending; not an unprovisioned one while either is provisioned. -/
def fabSel (s : State) (v : Nat) : Written :=
  if keySet s (4 + v) = false ∧ openMode s = false then deny s else done (s.wr R.MGT_KEY_FAB_SEL 0 v)

/-! ### Writes with a rule of their own, by chapter -/

/-- A write without behaviour of its own; reserved bits keep reading 0 (R6). -/
def plainWrite (s : State) (r : Reg) (i v : Nat) : Written := done (s.wr r i (v &&& r.mask))

/-- A plain write where a condition holds, else refused for its value. -/
def writeIf (s : State) (r : Reg) (i v : Nat) (c : Bool) : Written := if c then plainWrite s r i v else (s, rRange)

/-- Reset and the recovery image (R307, R323). -/
def writeReset (s : State) (r : Reg) (i v : Nat) (bs : List Byte) : Written :=
  match r.index, r.sub with
  | 0x2000, 2 => if v = 1 then done (warm s false) else leaveRecovery s
  | 0x2011, _ => done (s.wrB r i bs)
  | 0x2020, _ => domCmd s i
  | 0x2040, 1 =>
    if (v = s.rd R.ID_FW_SLOT 0 ∧ s.rst.romRecovery = false) ∨ imgBusy s = true then deny s else plainWrite s r i v
  | 0x2040, 3 => imgData s bs
  | 0x2040, 4 => if v = 1 then imgEraseCmd s else imgCheckCmd s
  | 0x2101, 1 => powerCap s v
  | _, _ => plainWrite s r i v

/-- Partitions (R111, R117). -/
def writePart (s : State) (r : Reg) (i v : Nat) : Written :=
  match r.index, r.sub with
  | 0x3100, 1 => partOwner s i v
  | 0x3100, 2 => partTag s i v
  | 0x3101, _ => blockPart s i v
  | 0x3400, 1 => slicePartW s i v
  | 0x3400, 2 => sliceUse s i v
  | 0x3400, 3 => sliceHost s i v
  | _, _ => plainWrite s r i v

/-- Links and laser modules (R145). -/
def writeLink (s : State) (r : Reg) (i v : Nat) : Written :=
  match r.index, r.sub with
  | 0x4000, 1 => portAdmin s i v
  | 0x4000, 6 => if v = 1 then fullRetrain s i else done (clearPortCounters s i)
  | 0x4010, 6 => outClr s i
  | 0x4020, 1 => clkUp s v
  | 0x4402, 2 => writeIf s r i v (decide (s.rd R.FAB_LSR_ADV_RATIO 0 ≤ v))
  | _, _ => plainWrite s r i v

/-- Routing and flow control (R174). -/
def writeRoute (s : State) (r : Reg) (i v : Nat) : Written :=
  match r.index, r.sub with
  | 0x4100, 3 => epochInj s v
  | 0x4100, 4 => writeIf s r i v (decide (s.rd R.FAB_PKT_LIFE_MS 0 + 10 ≤ v))
  | 0x4100, 5 => writeIf s r i v (decide (v < s.rd R.FAB_PKT_LIFE_MS 0))
  | 0x4100, 6 =>
    if s.rd R.FAB_EPOCH_DRAIN_MS 0 < v + 10 ∨ v ≤ s.rd R.FAB_PORT_HOLD_MS 0 then deny s else plainWrite s r i v
  | 0x4100, 9 => writeIf s r i v (decide (s.rd R.FAB_PAUSE_OFF 0 < v))
  | 0x4100, 10 => writeIf s r i v (decide (v < s.rd R.FAB_PAUSE_ON 0))
  | 0x4101, _ => rtState s i
  | 0x4102, _ => verWrite s r (i / 256) i v
  | 0x4103, _ => verWrite s r (i / 1024) i v
  | 0x4104, _ => dmapWrite s i v
  | 0x4105, _ => verWrite s r (i / 64) i v
  | 0x4112, _ => vc1Res s i v
  | 0x4130, 1 => shpRate s i v
  | 0x4130, 3 => shpLevel s i (toSigned 64 v)
  | _, _ => plainWrite s r i v

/-- Functions and network time (R180, R194, R196, R201, R214). -/
def writeHost (s : State) (r : Reg) (i v : Nat) : Written :=
  match r.index, r.sub with
  | 0x5001, 1 => assign s i v (s.qcount i)
  | 0x5001, 2 => assign s i (s.qbase i) v
  | 0x5001, 3 => if v = 0xFF ∨ s.owns i v = true then plainWrite s r i v else deny s
  | 0x5001, 4 => if v = 3 then done (funcReset s 2 i) else done (disableAll s i (v == 2))
  | 0x5801, 1 => done (timeIncr s v)
  | 0x5801, 2 => stepNs s (toSigned 64 v)
  | 0x5803, 1 => done (masterPort s v)
  | 0x5804, 6 => writeIf s r i v (decide (s.rd R.TIME_ALIGN_NS 0 ≤ v))
  | _, _ => plainWrite s r i v

/-- Whether the detection times keep every chip informed within 5 ms (R286, R295). -/
def clvInLimit (s : State) : Bool :=
  decide (s.rd R.CLV_HB_MISS 0 * s.rd R.CLV_HB_US 0 + s.rd R.CLV_ARB_WAIT_US 0 ≤ 4790) &&
    decide (s.rd R.CLV_PROBE_US 0 * s.rd R.CLV_PROBE_TRIES 0 + 100 ≤ s.rd R.CLV_ARB_WAIT_US 0)

/-- What a spare reads at the host as its adoption begins, where the command does not bring it: free values (R262). -/
def freeHeader (s : State) : BuddyHeader :=
  { digest := Config.free s.free, rank := Config.free (s.free + 1), step := Config.free (s.free + 2) % 2 ^ 32,
    pages := Config.free (s.free + 3), gen := Config.free (s.free + 4) }

/-- Seal, agreement and health (R265, R268, R286, R294, R295). -/
def writeSeal (s : State) (r : Reg) (i v : Nat) : Written :=
  match r.index, r.sub with
  | 0x6100, 11 => if s.pstate i = psLoaded then plainWrite s r i v else deny s
  | 0x6102, 1 => sealBuddy s i v
  | 0x6103, 2 => if s.rd R.SEAL_SPARE_STATE i = 2 then plainWrite s r i v else deny s
  | 0x6103, 4 => adopt (s.setFree (s.free + 5)) i (freeHeader s)
  | 0x6200, 6 => tallyChan s v
  | 0x6200, _ => if clvInLimit (s.wr r i v) then plainWrite s r i v else deny s
  | 0x6203, 1 =>
    if s.pstate i = psLoaded then done (setTree (s.wr r i v) i)
    else if s.pstate i = psEmpty then plainWrite s r i v
    else deny s
  | 0x6210, _ => stwCmd s
  | 0x9001, 2 =>
    if v < s.rd R.HLT_ADVISE_THR 0 then
      let s1 := s.wr r i v
      done (s1.each (s1.clover.penalties.map (·.1)) rescore)
    else (s, rRange)
  | 0x9001, 1 =>
    let s1 := s.wr r i v
    done (s1.each (s1.clover.penalties.map (·.1)) rescore)
  | _, _ => plainWrite s r i v

/-- A Tally register (R342, R344, R347): configuration only while BUSY is 0; flags cleared by writing 1; a reserved
channel's control and command refused. -/
def writeTally (s : State) (r : Reg) (v : Nat) : Written :=
  let ch := r.index - 0x7100
  let busy := bitOf (s.rd (R.TLY_STATUS ch) 0) 0
  let stage2 := ch == 0 && s.rd R.RST_STAGE 0 == 2
  let conf (c : Bool) : Written :=
    if busy = true ∨ stage2 = true ∨ (r.sub = 1 ∧ tlyReserved s ch = true) then deny s else writeIf s r 0 v c
  match r.sub with
  | 1 => conf true
  | 2 =>
    if stage2 then deny s
    else
      let x := s.rd r 0
      done (s.wr r 0 (x - (x &&& v &&& 0x70)))
  | 3 =>
    match v with
    | 1 => tallyStart s ch
    | 2 => tallyStop s ch
    | 3 => tallyClear s ch
    | _ => if tlyReserved s ch then deny s else done s
  | 4 => conf (v % 8 == 0)
  | 5 => conf (tlyChunk s ch == 0 || v % tlyChunk s ch == 0)
  | 6 =>
    let c := v % 2 ^ 32
    conf (decide (8 ≤ c) && decide (c ≤ 1048576) && c % 8 == 0 && decide (v / 2 ^ 32 ≤ 86400000))
  | 7 => conf (decide (tlyChunk s ch ≤ v))
  | 8 => conf true
  | sub => if stage2 then deny s else laneInput s ch (sub - 0x21) (v / 2 ^ 96 % 2 ^ 32)

/-- Whether a trace ring lies in the partition's plan slices, outside its stateful regions (R390). -/
def ringPlace (s : State) (p page n : Nat) : Bool :=
  n == 0 || (decide (page + n ≤ 6291456) && inView s p (page * pageBytes) (n * pageBytes) &&
    (regionsOf (s.img p)).all fun g => decide (g.1 + g.2.1 ≤ page) || decide (page + n ≤ g.1))

/-- A ring configured, while its partition is Loaded or Halted: records count from 0 again (R390). -/
def ringWrite (s : State) (r : Reg) (p v : Nat) : Written :=
  let s1 := s.wr r p v
  if (s.pstate p = psLoaded ∨ s.pstate p = psHalted) ∧
      ringPlace s p (s1.rd R.TRC_RING_PAGE p) (s1.rd R.TRC_RING_PAGES p) = true then
    done ((s1.wr R.TRC_HEAD p 0).wr R.TRC_NEWEST p 0)
  else deny s

/-- An FCC marker (R388): a record of the FCC into the ring of the partition it names. -/
def fccMark (s : State) (v : Nat) : Written :=
  let r : TraceRec :=
    { seq := s.obs.marks, operator := bits v 16 24, layer := bits v 40 16, unit := uFcc, isEnd := bitOf v 63,
      time := s.traceTime }
  done (ringMark (s.modObs fun o => { o with marks := (o.marks + 1) % 2 ^ 24 }) (bits v 56 7) r)

/-- Ledger, Tally and observability (R332, R337, R342, R384 to R390). -/
def writeObs (s : State) (w : Who) (r : Reg) (i v : Nat) : Written :=
  match r.index, r.sub with
  | 0x7000, 3 => ldgClear s v w.path
  | 0x7001, _ => ldgOvr s i v
  | 0x8100, 1 => freezeArm s v
  | 0x8100, 8 => freezePod s
  | 0x8200, 2 => ringWrite s r i v
  | 0x8200, 3 => ringWrite s r i v
  | 0x8201, _ => fccMark s v
  | x, _ => if 0x7100 ≤ x ∧ x < 0x7110 then writeTally s r v else plainWrite s r i v

/-- Management (R371, R372, R376). -/
def writeMgmt (s : State) (w : Who) (r : Reg) (i v : Nat) (bs : List Byte) : Written :=
  match r.index, r.sub with
  | 0x1120, 6 => fabSel s v
  | 0x1120, _ => keyPut s r bs w.path
  | _, _ => plainWrite s r i v

/-- The effect of an accepted write of a value, given as ascending bytes. -/
def writeEffect (s : State) (w : Who) (r : Reg) (i : Nat) (bs : List Byte) : Written :=
  let v := leVal bs
  let x := r.index
  if x < 0x2000 then writeMgmt s w r i v bs
  else if x < 0x3000 then writeReset s r i v bs
  else if x < 0x4000 then writePart s r i v
  else if x < 0x4100 ∨ 0x4400 ≤ x ∧ x < 0x5000 then writeLink s r i v
  else if x < 0x5000 then writeRoute s r i v
  else if x < 0x6000 then writeHost s r i v
  else if x < 0x7000 ∨ x = 0x9001 then writeSeal s r i v
  else writeObs s w r i v

/-- The entry as a write sees it: a Tally lane's input field is write-only (R346). -/
def writeReg (r : Reg) : Reg := if 0x7100 ≤ r.index ∧ r.index < 0x7110 ∧ 0x21 ≤ r.sub then { r with acc := .wo } else r

/-- Whether a value's length is the entry's: the whole size, or at most that for a DOMAIN (R353). -/
def lengthOk (r : Reg) (n : Nat) : Bool :=
  match r.ty with
  | .domain k => decide (n ≤ k)
  | _ => n == tySize r.ty r.members

/-- One instance written: the state, and the reason to refuse it, 0 where it took effect. -/
def writeOne (s : State) (w : Who) (r : Reg) (i : Nat) (bs : List Byte) : Written :=
  let r := writeReg r
  let c := checkWrite s w r i (if lengthOk r bs.length then leVal bs else 2 ^ regBits r)
  if c = rOk then writeEffect s w r i bs else (s, c)

/-! ### Commands -/

/-- KEY_WRITE (R371). -/
def execKeyWrite (who : Who) (sub : Nat) (key : List Byte) (s : State) : Host.Outcome State Fault Refusal :=
  .next (let t := writeOne s who (keyReg sub) 0 key
  t.1.emit (.answer who t.2))

/-- MGT_KEY_FAB_SEL (R372). -/
def execMgtKeyFabSel (who : Who) (value : Nat) (s : State) : Host.Outcome State Fault Refusal :=
  .next (s.guard who R.MGT_KEY_FAB_SEL 0 value fun s => fabSel s value)

/-- TRC_FCC_MARK (R388). -/
def execTrcFccMark (who : Who) (value : Nat) (s : State) : Host.Outcome State Fault Refusal :=
  .next (s.guard who R.TRC_FCC_MARK 0 value fun s => fccMark s value)

end Sys2Proof.Machine
end

