-- ==== Sys2Proof/Machine/Request.lean ====
section
/-! DEFINITION. Requests and their operations (R351, R355 to R357, R360 to R362), and a single write from a path. -/

namespace Sys2Proof.Machine

open Sys2Proof

/-! ### Operations and results (R360, R361) -/

/-- An operation of a request, its value as it was carried. -/
structure Op where
  op    : Nat
  sub   : Nat
  index : Nat
  inst  : Nat
  value : List Byte
  deriving DecidableEq, Repr

/-- A field in a path's byte order. -/
def fieldOf (be : Bool) (bs : List Byte) (o n : Nat) : Nat := if be then beVal ((bs.drop o).take n) else leField bs o n

/-- A field's bytes in a path's byte order. -/
def fieldTo (be : Bool) (n v : Nat) : List Byte := if be then beBytes n v else leBytes n v

/-- At most `n` operations that end exactly at the request's end, none where the framing fails. -/
def opsOf (be : Bool) (n : Nat) (bs : List Byte) : Option (List Op) :=
  if bs = [] then some []
  else
    match n with
    | 0 => none
    | n + 1 =>
      let len := fieldOf be bs 6 2
      if bs.length < 8 + len then none
      else
        (opsOf be n (bs.drop (8 + len))).map fun l =>
          { op := fieldOf be bs 0 1, sub := fieldOf be bs 1 1, index := fieldOf be bs 2 2, inst := fieldOf be bs 4 2,
            value := (bs.drop 8).take len } :: l

/-- An operation as a request carries it. -/
def opBytes (be : Bool) (o : Op) : List Byte :=
  fieldTo be 1 o.op ++ fieldTo be 1 o.sub ++ fieldTo be 2 o.index ++ fieldTo be 2 o.inst ++ fieldTo be 2 o.value.length ++
    o.value

/-- The entry an operation names. -/
def opReg (o : Op) : Option Reg := if o.index = 0x1010 then some (dictReg o.sub) else findReg o.index o.sub

/-- An operation's outcome: the reason, 0 with OK, the instances read or written, the value. -/
structure OpRes where
  reason : Nat
  count  : Nat := 0
  value  : List Byte := []
  deriving DecidableEq, Repr

/-- The status of a reason (R362). -/
def statusOf (reason : Nat) : Nat :=
  if reason = rOk then 0
  else if reason = rReset then 2
  else if reason = rTimeout then 1
  else if [rAccess, rRole, rRange, rState, rKey].contains reason then 7
  else 9

/-- A result as a response carries it. -/
def resBytes (be : Bool) (r : OpRes) : List Byte :=
  fieldTo be 1 (statusOf r.reason) ++ fieldTo be 2 r.reason ++ fieldTo be 2 r.count ++ fieldTo be 2 r.value.length ++ r.value

/-- A response of one result that a whole request gets. -/
def oneResult (be : Bool) (reason : Nat) : List Byte := resBytes be { reason := reason }

/-! ### Groups and broadcast (R355 to R357) -/

/-- The ranges of a group now. -/
def groupRanges (s : State) (g : Nat) : List (Nat × Nat) :=
  (List.range 8).map fun k => (s.rd (R.MGT_GROUP k) g / 65536, s.rd (R.MGT_GROUP k) g % 65536)

/-- The indexes that have an entry of a subindex. -/
def dictIndexes (sub : Nat) : List Nat :=
  let l := ((R.allRegs ++ ((List.range 16).map R.tallyRegs).flatten).filter fun r => r.sub == sub).map (·.index)
  sortNat (l.foldl addNew [0x1010])

/-- Every instance of an entry, ascending. -/
def allInsts (r : Reg) : List Nat := if r.index = 0x1010 then dictIndexes r.sub else instList r.inst

/-- The members of a group or of the broadcast. -/
def members (s : State) (r : Reg) (inst : Nat) : List Nat :=
  if inst = 0xFFFF then allInsts r
  else (allInsts r).filter fun i => (groupRanges s (inst - 0xFE00)).any fun g => decide (g.1 ≤ i) && decide (i ≤ g.2)

/-- Members read in turn: the first reason to refuse one ends it. -/
def readAll (s : State) (w : Who) (be : Bool) (r : Reg) (is : List Nat) : State × List Byte × Nat :=
  match is with
  | [] => (s, [], rOk)
  | i :: rest =>
    let x := readOne s w r i
    if x.2.2 ≠ rOk then (x.1, [], x.2.2)
    else
      let y := readAll x.1 w be r rest
      (y.1, wire be r x.2.1 ++ y.2.1, y.2.2)

/-- What a group write has done: the members written, and the first refused with its reason. -/
structure GroupRes where
  count : Nat := 0
  first : Option (Nat × Nat) := none
  deriving DecidableEq, Repr

/-- Members written in turn, each checked on its own (R356). -/
def writeAll (s : State) (w : Who) (r : Reg) (bs : List Byte) (is : List Nat) (g : GroupRes) : State × GroupRes :=
  match is with
  | [] => (s, g)
  | i :: rest =>
    let t := writeOne s w r i bs
    if t.2 = rOk then writeAll t.1 w r bs rest { g with count := g.count + 1 }
    else writeAll t.1 w r bs rest { g with first := g.first.orElse fun _ => some (i, t.2) }

/-! ### One operation -/

/-- A read that must fit into `room` bytes. -/
def runRead (s : State) (w : Who) (be : Bool) (r : Reg) (inst room : Nat) : State × OpRes :=
  let single := decide (inst < 0xFE00)
  if single = false ∧ r.acc = .rc then (s, { reason := rAccess })
  else
    let is :=
      if single then [inst]
      else (members s r inst).filter fun i => w.role != .owner || (ownerMay s w.func r i && ownRecord s w r i)
    let x := readAll s w be r is
    if x.2.2 ≠ rOk then (s, { reason := x.2.2 })
    else if room < 7 + x.2.1.length then (s, { reason := rTooLarge })
    else (x.1, { reason := rOk, count := is.length, value := x.2.1 })

/-- A write; a group or broadcast that is refused in part writes event 0xE007. -/
def runWrite (s : State) (w : Who) (be : Bool) (r : Reg) (inst : Nat) (value : List Byte) (room : Nat) : State × OpRes :=
  let bs := wire be r value
  let answer (g : GroupRes) : OpRes :=
    { reason := (g.first.map (·.2)).getD rOk, count := g.count, value := fieldTo be 2 ((g.first.map (·.1)).getD 0xFFFF) }
  if room < 9 then (s, { reason := rTooLarge })
  else if inst < 0xFE00 then
    let x := writeAll s w r bs [inst] {}
    (x.1, answer x.2)
  else
    let is := (members s r inst).filter fun i => w.role != .owner || ownerWrites w.func r i
    let x := writeAll s w r bs is {}
    match x.2.first with
    | some f => (x.1.record 0xE007 uFcc [(2, r.index), (1, r.sub), (2, f.1)], answer x.2)
    | none => (x.1, answer x.2)

/-- An operation run, its result within `room` bytes. -/
def runOp (s : State) (w : Who) (be : Bool) (o : Op) (room : Nat) : State × OpRes :=
  if (o.op ≠ 1 ∧ o.op ≠ 2) ∨ (o.op = 1 ∧ o.value ≠ []) then (s, { reason := rMalformed })
  else
    match opReg o with
    | none => (s, { reason := rNoEntry })
    | some r =>
      if 0xFF00 ≤ o.inst ∧ o.inst < 0xFFFF then (s, { reason := rNoInstance })
      else if o.op = 1 then runRead s w be r o.inst room
      else runWrite s w be r o.inst o.value room

/-! ### A request -/

/-- A result appended where it fits into the 1,024 bytes of a response. -/
def addRes (be : Bool) (out : List Byte) (r : OpRes) : List Byte :=
  if out.length + 7 + r.value.length ≤ 1024 then out ++ resBytes be r else out

/-- Operations run in order; with STOP_ON_ERR those after the first that is not OK are skipped. -/
def runOps (s : State) (w : Who) (be stop : Bool) (ops : List Op) (failed : Bool) (out : List Byte) : State × List Byte :=
  match ops with
  | [] => (s, out)
  | o :: rest =>
    if failed && stop then runOps s w be stop rest true (addRes be out { reason := rSkipped })
    else
      let x := runOp s w be o (1024 - out.length)
      runOps x.1 w be stop rest (failed || x.2.reason != rOk) (addRes be out x.2)

/-- A request run: the state and the response. -/
def runRequest (s : State) (w : Who) (be stop : Bool) (bs : List Byte) : State × List Byte :=
  match opsOf be 64 bs with
  | some (o :: ops) => runOps s w be stop (o :: ops) false []
  | _ => (s, oneResult be rMalformed)

/-! ### A single write (R353) -/

/-- REGISTER_WRITE: an entry, its instance, and the value in ascending bytes, as one operation of a request would carry it;
a group's members each. -/
def registerWrite (s : State) (w : Who) (index sub inst : Nat) (value : List Byte) : State :=
  let x := runOp s w false { op := 2, sub := sub, index := index, inst := inst, value := value } 1024
  x.1.emit (.answer w x.2.reason)

/-- REGISTER_WRITE (R353). -/
def execRegisterWrite (who : Who) (index sub inst : Nat) (value : List Byte) (s : State) :
    Host.Outcome State Fault Refusal :=
  .next (registerWrite s who index sub inst value)

end Sys2Proof.Machine
end

