-- ==== Sys2Proof/Machine/Odap.lean ====
section
/-! DEFINITION. ODAP on the tray bus, relays, management over VC0 and mailboxes (R364 to R374). -/

namespace Sys2Proof.Machine

open Sys2Proof

/-! ### Frames (R365, R366) -/

def tOpen : Nat := 0x01
def tOpenAck : Nat := 0x02
def tClose : Nat := 0x03
def tCloseAck : Nat := 0x04
def tRequest : Nat := 0x10
def tResponse : Nat := 0x11
def tRelayReq : Nat := 0x12
def tRelayResp : Nat := 0x13
def tProbe : Nat := 0x20
def tProbeAnswer : Nat := 0x21
def tStatus : Nat := 0x30

/-- The steward group address, the address of all stations, and this chip's own. -/
def groupMac : Nat := 0x030000005600
def allMac : Nat := 0x0300000056FF
def ownMac : Nat := Config.mac % 2 ^ 48

/-- The header (R366). -/
def frameHead (f : Frame) : List Byte :=
  beBytes 1 f.ver ++ beBytes 1 f.type ++ beBytes 1 f.flags ++ beBytes 1 f.role ++ beBytes 1 f.srole ++ beBytes 1 f.session ++
    beBytes 2 f.sseq ++ beBytes 1 f.dstPos ++ beBytes 1 f.resv ++ beBytes 4 f.seq ++ beBytes 4 f.tray ++ beBytes 2 f.len

/-- A frame's tag under a key. -/
def frameTag (key : List Byte) (f : Frame) : List Byte :=
  (hmac key (beBytes 6 f.srcMac ++ frameHead f ++ f.payload)).take 16

/-- A frame with its tag; without a key UNAUTH is set and the tag is zeros. -/
def tagged (key : Option (List Byte)) (f : Frame) : Frame :=
  match key with
  | some k => { f with tag := frameTag k f }
  | none =>
    let g := { f with flags := setBits f.flags 3 1 1 }
    { g with tag := List.replicate 16 0 }

/-- Whether a frame has a VER, TYPE and LEN that agree with it. -/
def frameOk (f : Frame) (type : Nat) : Bool :=
  f.ver == 1 && f.type == type && f.len == f.payload.length && decide (f.len ≤ 1024)

/-- A malformed frame dropped, or one whose tag is bad (R366). -/
def rxDrop (s : State) (f : Frame) : State :=
  (s.bumpSat R.MGT_RX_DROP 0 1).record 0xE003 uFcc [(8, f.srcMac), (1, f.type)]
def authFail (s : State) (f : Frame) : State :=
  (s.bumpSat R.MGT_AUTH_FAIL 0 1).record 0xE003 uFcc [(8, f.srcMac), (1, f.type)]

/-- Whether the chip is a steward. -/
def isSteward (s : State) : Bool := s.rd R.CLV_STW_ROLE 0 == 1 || s.rd R.CLV_STW_ROLE 0 == 2

/-- Whether a frame to the steward group is this chip's. -/
def forSteward (s : State) (f : Frame) : Bool := f.dstMac == groupMac && isSteward s

/-- Whether the FCC takes a frame: it runs, and the frame is the chip's own or a steward's. -/
def takes (s : State) (f : Frame) : Bool := s.fccUp && (f.dstMac == ownMac || forSteward s f)

/-- A frame of this chip, not yet tagged. -/
def newFrame (s : State) (dst type : Nat) (payload : List Byte) : Frame :=
  { srcMac := ownMac, dstMac := dst, ver := 1, type := type, flags := 0, role := 0, srole := 0, session := 0, sseq := 0,
    dstPos := 0xFE, seq := 0, tray := s.rd R.CLV_TRAY_ID 0, len := payload.length, payload := payload, tag := [] }

/-- A frame sent, as a steward's output with the next SSEQ or as a plain station's (R291). -/
def sendFrame (s : State) (steward : Bool) (key : Option (List Byte)) (f : Frame) : State :=
  if steward then
    if stwMay s then
      stwNext (s.emit (.frame (tagged key { f with srole := s.rd R.CLV_STW_ROLE 0, sseq := s.rd R.CLV_STW_SEQ 0 })))
    else s
  else s.emit (.frame (tagged key f))

/-- The tray key, where it is provisioned. -/
def trayKey (s : State) : Option (List Byte) := if keySet s 3 then some (s.rdB R.MGT_KEY_TRAY 0) else none

/-- Whether a frame's tag is that of the tray key. -/
def trayTagOk (s : State) (f : Frame) : Bool :=
  match trayKey s with
  | some k => !bitOf f.flags 3 && f.tag == frameTag k f
  | none => false

/-- The role a ROLE field names (R366, R373). -/
def roleOf (n : Nat) : Role :=
  match n with
  | 0 => .observer
  | 1 => .operator
  | 2 => .owner
  | _ => .vendor

/-! ### Sessions (R367) -/

/-- The session of a peer by its number, as a station's or a steward's. -/
def findSession (s : State) (peer number : Nat) (steward : Bool) : Option Session :=
  s.mgmt.sessions.find? fun x => x.peer == peer && x.number == number && x.steward == steward

/-- A session changed. -/
def modSession (s : State) (x : Session) (f : Session → Session) : State :=
  s.setMgmt { s.mgmt with sessions := s.mgmt.sessions.map fun y =>
    if y.peer = x.peer ∧ y.number = x.number then f y else y }

/-- A session taken off the list. -/
def dropSession (s : State) (x : Session) : State :=
  s.setMgmt { s.mgmt with sessions := s.mgmt.sessions.filter fun y => !(y.peer == x.peer && y.number == x.number) }

/-- The key of a role: the entry's, or the fused Vendor key (R371). -/
def roleKey (s : State) (role : Nat) : Option (List Byte) :=
  match role with
  | 0 => if keySet s 1 then some (s.rdB R.MGT_KEY_OBS 0) else none
  | 1 => if keySet s 2 then some (s.rdB R.MGT_KEY_OPR 0) else none
  | 3 => some Config.vendorKey
  | _ => none

/-- The places of the two peers that are free. -/
def freePeers (s : State) : List Nat := [0, 1].filter fun k => s.mgmt.sessions.all fun x => x.peerNo != k

/-- The session that has been idle longest. -/
def idlest (l : List Session) : Option Session :=
  match l with
  | [] => none
  | x :: r =>
    match idlest r with
    | some y => if y.lastNs < x.lastNs then some y else some x
    | none => some x

/-- An OPEN_ACK sent, with its session number. -/
def openAck (s : State) (f : Frame) (key : Option (List Byte)) (number : Nat) (payload : List Byte) : State :=
  sendFrame s (forSteward s f) key
    { newFrame s f.srcMac tOpenAck payload with role := f.role, session := number, seq := f.seq }

/-- An OPEN refused: SESSION 0xFF and reason 0x0E0D. -/
def refuseOpen (s : State) (f : Frame) (key : Option (List Byte)) : State := openAck s f key 0xFF (beBytes 2 rKey)

/-- A session opened at a place and number: nonce, session key, OPEN_ACK; event 0xE001. -/
def openAt (s : State) (f : Frame) (key : List Byte) (peerNo number : Nat) : State :=
  let c := s.rst.openCount
  let dev := (hmac key (f.payload ++ beBytes 4 (s.rd R.CLV_TRAY_ID 0) ++ beBytes 8 c)).take 16
  let ses := hmac key (f.payload ++ dev ++ beBytes 1 number ++ beBytes 1 f.role ++ beBytes 6 f.srcMac)
  let ack := dev ++ beBytes 2 (s.rd R.MGT_SESS_IDLE_S 0)
  let x : Session :=
    { peer := f.srcMac, peerNo := peerNo, number := number, role := f.role, nonce := f.payload, key := ses, ack := ack,
      lastNs := s.now, steward := forSteward s f }
  let s1 := (s.setMgmt { s.mgmt with sessions := s.mgmt.sessions ++ [x] }).modRst fun r =>
    { r with openCount := c + 1, openSaved := if (c + 1) % 1024 = 0 then c + 1 else r.openSaved }
  let s2 := (s1.bumpSat R.MGT_OPENS 0 1).record 0xE001 uFcc [(8, f.srcMac), (1, f.role), (1, number)]
  openAck s2 f (some key) number ack

/-- An accepted OPEN: a repeated one gets its OPEN_ACK again; a third peer is refused; a ninth session replaces the one
idle longest. -/
def openNew (s : State) (f : Frame) (key : List Byte) : State :=
  let mine := s.mgmt.sessions.filter fun x => x.peer == f.srcMac
  match mine.find? fun x => x.nonce == f.payload && x.role == f.role && x.steward == forSteward s f with
  | some x => openAck s f (some key) x.number x.ack
  | none =>
    match (mine.head?.map (·.peerNo)).orElse fun _ => (freePeers s).head? with
    | none => refuseOpen s f (some key)
    | some p =>
      match (List.range 8).find? fun n => mine.all fun x => x.number != n with
      | some n => openAt s f key p n
      | none =>
        match idlest mine with
        | some x => openAt (sessionEnded (dropSession s x) x seIdle) f key p x.number
        | none => s

/-- OPEN (R367). -/
def odapOpen (s : State) (f : Frame) : State :=
  if takes s f = false then s
  else if frameOk f tOpen = false ∨ f.payload.length ≠ 16 then rxDrop s f
  else
    match roleKey s f.role with
    | none => refuseOpen s f none
    | some key =>
      if f.tag ≠ frameTag key f then authFail s f
      else if s.serves (roleOf f.role) = false then refuseOpen s f (some key)
      else openNew s f key

/-- OPEN (R367). -/
def execOdapOpen (f : Frame) (s : State) : Host.Outcome State Fault Refusal := .next (odapOpen s f)

/-- CLOSE (R367). -/
def odapClose (s : State) (f : Frame) : State :=
  if takes s f = false then s
  else if frameOk f tClose = false then rxDrop s f
  else
    match findSession s f.srcMac f.session (forSteward s f) with
    | none => authFail s f
    | some x =>
      if f.tag ≠ frameTag x.key f then authFail s f
      else
        let s1 := sendFrame s x.steward (some x.key)
          { newFrame s f.srcMac tCloseAck [] with role := f.role, session := f.session, seq := f.seq }
        sessionEnded (dropSession s1 x) x seClose

/-- CLOSE (R367). -/
def execOdapClose (f : Frame) (s : State) : Host.Outcome State Fault Refusal := .next (odapClose s f)

/-- A session ends after MGT_SESS_IDLE_S without a request (R367). -/
def sessionIdle (s : State) (slot : Nat) : State :=
  match s.mgmt.sessions.find? fun x => x.peerNo * 8 + x.number == slot with
  | some x =>
    if x.running.isSome = true ∨ s.now < x.lastNs + (1000000000 * s.rd R.MGT_SESS_IDLE_S 0 : Nat) then s
    else sessionEnded (dropSession s x) x seIdle
  | none => s

/-- SESSION_IDLE_TIMEOUT (R367). -/
def execSessionIdleTimeout (slot : Nat) (s : State) : Host.Outcome State Fault Refusal := .next (sessionIdle s slot)

/-! ### Responses (R368, R371) -/

/-- A RESPONSE to a session. -/
def sendResponse (s : State) (x : Session) (seq : Nat) (payload : List Byte) : State :=
  sendFrame s x.steward (some x.key)
    { newFrame s x.peer tResponse payload with role := x.role, session := x.number, seq := seq }

/-- A session's request finished: its response cached and sent, L advanced; a session whose key was written ends. -/
def finish (s : State) (peer number seq : Nat) (payload : List Byte) : State :=
  match s.mgmt.sessions.find? fun x => x.peer == peer && x.number == number with
  | none => s
  | some x =>
    let s1 := sendResponse
      (modSession s x fun y => { y with cached := payload, l := seq, reqCrc := y.running, running := none }) x seq payload
    if x.ending then sessionEnded (dropSession s1 x) x seKey else s1

/-! ### Mailboxes (R364) -/

/-- The key of a function's mailbox. -/
def mboxKey (func box : Nat) : Nat := 16 * func + box

/-- A mailbox. -/
def State.mbox (s : State) (k : Nat) : Mbox := mapGet {} s.host.mboxes k

/-- A mailbox changed. -/
def modMbox (s : State) (k : Nat) (f : Mbox → Mbox) : State :=
  s.modHost fun h => { h with mboxes := mapPut h.mboxes k (f (s.mbox k)) }

/-- A mailbox's request finished: Done with its response, or Idle after a function reset. -/
def mboxDone (s : State) (k : Nat) (rsp : List Byte) : State :=
  modMbox s k fun b => { b with state := if b.toIdle then 0 else 2, toIdle := false, rlen := rsp.length, rsp := rsp }

/-! ### Relays (R369) -/

/-- A relayed result returned to the controller. -/
def relayDone (s : State) (r : Forward) (payload : List Byte) : State :=
  match r.asker with
  | .session peer number seq => finish s peer number seq payload
  | _ => s

/-- A relay taken off the list. -/
def dropRelay (s : State) (sseq : Nat) : State :=
  s.setMgmt { s.mgmt with relays := s.mgmt.relays.filter fun r => r.key != sseq }

/-- A RELAY_RESP's result at a steward. -/
def relayAnswer (s : State) (sseq : Nat) (payload : List Byte) : State :=
  match s.mgmt.relays.find? fun r => r.key == sseq with
  | some r => relayDone (dropRelay s sseq) r payload
  | none => s

/-- RELAY_RESP (R369). -/
def relayResp (s : State) (f : Frame) : State :=
  if s.fccUp = false ∨ forSteward s f = false then s
  else if frameOk f tRelayResp = false then rxDrop s f
  else if trayTagOk s f = false then authFail s f
  else relayAnswer s f.sseq f.payload

/-- RELAY_RESP (R369). -/
def execRelayResp (f : Frame) (s : State) : Host.Outcome State Fault Refusal := .next (relayResp s f)

/-- No RELAY_RESP after MGT_RELAY_US: TIMEOUT, event 0xE006. -/
def relayTimeout (s : State) (sseq : Nat) : State :=
  match s.mgmt.relays.find? fun r => r.key == sseq with
  | some r =>
    if s.now < r.sentNs + (1000 * s.rd R.MGT_RELAY_US 0 : Nat) then s
    else relayDone (((dropRelay s sseq).bumpSat R.MGT_RELAY_TMO 0 1).record 0xE006 uFcc [(1, r.target), (2, sseq)]) r
      (oneResult true rTimeout)
  | none => s

/-- RELAY_TIMEOUT (R369). -/
def execRelayTimeout (sseq : Nat) (s : State) : Host.Outcome State Fault Refusal := .next (relayTimeout s sseq)

/-- The target's answer to the stewards, of which it may be one. -/
def relayBack (s : State) (sseq : Nat) (payload : List Byte) : State :=
  let s1 := s.emit (.frame (tagged (trayKey s) { newFrame s groupMac tRelayResp payload with sseq := sseq }))
  if isSteward s then relayAnswer s1 sseq payload else s1

/-! ### Management over VC0 (R372, R373) -/

/-- The values of a result's instances in turn, from the order of VC0 to that of the mailbox. -/
def swapValues (r : Reg) (n : Nat) (bs : List Byte) : List Byte :=
  match n with
  | 0 => bs
  | n + 1 =>
    let k := match r.ty with
      | .domain _ => bs.length
      | _ => tySize r.ty r.members
    wire true r (bs.take k) ++ swapValues r n (bs.drop k)

/-- A response for a mailbox from one in the order of VC0. -/
def toMbox (ops : List Op) (bs : List Byte) : List Byte :=
  match ops with
  | [] => []
  | o :: rest =>
    if bs.length < 7 then []
    else
      let reason := fieldOf true bs 1 2
      let count := fieldOf true bs 3 2
      let len := fieldOf true bs 5 2
      let v := (bs.drop 7).take len
      let value :=
        if o.op = 2 then v.reverse
        else match opReg o with
          | some r => swapValues r count v
          | none => v
      resBytes false { reason := reason, count := count, value := value } ++ toMbox rest (bs.drop (7 + len))

/-- A mailbox's operations as VC0 carries them. -/
def fromMbox (ops : List Op) : List Byte :=
  (ops.map fun o =>
    match opReg o with
    | some r => opBytes true { o with value := wire true r o.value }
    | none => opBytes true o).flatten

/-- The response to a forwarded request given to who waits for it. -/
def fwdDone (s : State) (w : Forward) (payload : List Byte) : State :=
  match w.asker with
  | .mbox k => mboxDone s k (toMbox ((opsOf true 64 w.frame.payload).getD []) payload)
  | .session peer number seq => finish s peer number seq payload
  | .relay sseq _ => relayBack s sseq payload

/-- A forwarded request sent; its timer starts. -/
def fwdSend (s : State) (w : Forward) : State :=
  mgmtEmit (s.setMgmt { s.mgmt with forwards := s.mgmt.forwards.map fun x => if x.key = w.key then { x with sentNs := s.now } else x })
    (clvHdr s 0xFF) w.target 0x20 w.frame

/-- A forwarded request taken off the list; the one that now comes within the 16 outstanding is sent. -/
def fwdDrop (s : State) (key : Nat) : State :=
  let l := s.mgmt.forwards.filter fun w => w.key != key
  let s1 := s.setMgmt { s.mgmt with forwards := l }
  match l.drop 15 with
  | w :: _ => fwdSend s1 w
  | [] => s1

/-- A request forwarded to a fabric chip, in its role, with operations in the order of VC0; in open mode none is (R372). -/
def fwdNew (s : State) (asker : Asker) (target flags role : Nat) (ops : List Byte) : State :=
  let k := s.mgmt.fwdSeq
  let w : Forward :=
    { key := k, target := target, asker := asker,
      frame := { newFrame s 0 tRequest ops with flags := flags, role := role, seq := k } }
  if openMode s then fwdDone s w (oneResult true rKey)
  else
    let s1 := s.setMgmt { s.mgmt with forwards := s.mgmt.forwards ++ [w], fwdSeq := (k + 1) % 2 ^ 32 }
    if s.mgmt.forwards.length < 16 then fwdSend s1 w else s1

/-- A forwarded request on its way, by its SEQ. -/
def fwdFind (s : State) (key : Nat) : Option Forward := (s.mgmt.forwards.take 16).find? fun w => w.key == key

/-- VC0_MGMT_RESPONSE: an answer that comes late is dropped (R319). -/
def vc0Response (s : State) (h : ClvHdr) (f : Frame) : State :=
  match fwdFind s f.seq with
  | some w => if w.target = h.sender then fwdDone (fwdDrop s f.seq) w f.payload else dropLate s uFcc 0 h.sender
  | none => dropLate s uFcc 0 h.sender

/-- VC0_MGMT_RESPONSE (R373). -/
def execVc0MgmtResponse (h : ClvHdr) (f : Frame) (s : State) : Host.Outcome State Fault Refusal :=
  .next (if s.fccUp then clvRx s h fun t => vc0Response t h f else s)

/-- MGT_VC0_US passes without an answer: TIMEOUT, event 0xE006. -/
def vc0Timeout (s : State) (seq : Nat) : State :=
  match fwdFind s seq with
  | some w =>
    if s.now < w.sentNs + (1000 * s.rd R.MGT_VC0_US 0 : Nat) then s
    else fwdDone (((fwdDrop s seq).bumpSat R.MGT_RELAY_TMO 0 1).record 0xE006 uFcc [(1, 0xFF), (4, w.target)]) w
      (oneResult true rTimeout)
  | none => s

/-- VC0_MGMT_TIMEOUT (R373). -/
def execVc0MgmtTimeout (seq : Nat) (s : State) : Host.Outcome State Fault Refusal := .next (vc0Timeout s seq)

/-- VC0_MGMT_REQUEST: run at this chip and answered; refused in open mode, and for a Vendor or Owner role. -/
def vc0Request (s : State) (h : ClvHdr) (f : Frame) : State :=
  let x :=
    if openMode s then (s, oneResult true rKey)
    else if f.role ≠ 0 ∧ f.role ≠ 1 then (s, oneResult true rRole)
    else runRequest s { role := roleOf f.role, path := .vc0, func := 0 } true (bitOf f.flags 2) f.payload
  mgmtEmit x.1 (clvHdr x.1 0xFF) h.sender 0x21 { f with type := tResponse, payload := x.2, len := x.2.length }

/-- VC0_MGMT_REQUEST (R373). -/
def execVc0MgmtRequest (h : ClvHdr) (f : Frame) (s : State) : Host.Outcome State Fault Refusal :=
  .next (if s.fccUp then clvRx s h fun t => vc0Request t h f else s)

/-! ### Running a request (R360, R368, R369) -/

/-- A request that this chip runs or, with FABRIC, forwards to the chip that begins its payload; its result goes to who
asked. -/
def runHere (s : State) (asker : Asker) (flags role : Nat) (payload : List Byte) (done : State → List Byte → State) :
    State :=
  if bitOf flags 1 then
    if payload.length < 4 then done s (oneResult true rMalformed)
    else if beVal (payload.take 4) = s.me then
      let x := runRequest s { role := roleOf role, path := .t1s, func := 0 } true (bitOf flags 2) (payload.drop 4)
      done x.1 x.2
    else fwdNew s asker (beVal (payload.take 4)) flags role (payload.drop 4)
  else
    let x := runRequest s { role := roleOf role, path := .t1s, func := 0 } true (bitOf flags 2) payload
    done x.1 x.2

/-- A relayed request run at its target. -/
def relayRun (s : State) (f : Frame) : State :=
  runHere s (.relay f.sseq f.srcMac) f.flags f.role f.payload fun t out => relayBack t f.sseq out

/-- A steward's relayed request at its target, accepted once by its SSEQ (R291). -/
def relayTake (s : State) (f : Frame) : State :=
  let x := sseqRx s { dtag := 0, part := 0xFF, srole := f.srole, sseq := f.sseq, sender := 0, tray := f.tray }
  if x.2 then relayRun x.1 f else x.1

/-- RELAY_REQ (R369). -/
def relayReq (s : State) (f : Frame) : State :=
  if s.fccUp = false ∨ f.dstMac ≠ ownMac then s
  else if frameOk f tRelayReq = false then rxDrop s f
  else if trayTagOk s f = false then authFail s f
  else relayTake s f

/-- RELAY_REQ (R369). -/
def execRelayReq (f : Frame) (s : State) : Host.Outcome State Fault Refusal := .next (relayReq s f)

/-- A steward relays a session's request to a position of the tray; a steward that is the target takes its own copy too. -/
def relayOut (s : State) (x : Session) (f : Frame) : State :=
  let k := s.rd R.CLV_STW_SEQ 0
  let g := { newFrame s (Config.trayMac f.dstPos) tRelayReq f.payload with
             flags := f.flags &&& 6, role := x.role, dstPos := f.dstPos, srole := s.rd R.CLV_STW_ROLE 0, sseq := k }
  let w : Forward := { key := k, target := f.dstPos, frame := g, asker := .session x.peer x.number f.seq, sentNs := s.now }
  let s1 := sendFrame (s.setMgmt { s.mgmt with relays := s.mgmt.relays ++ [w] }) true (trayKey s) g
  if f.dstPos = s.rd R.CLV_STW_POS 0 ∧ stwMay s = true then relayTake s1 g else s1

/-- A request with the next SEQ: relayed by a steward, run by a station (R369). -/
def requestRun (s : State) (x : Session) (f : Frame) : State :=
  let s1 := modSession s x fun y => { y with running := some (crc32c f.payload) }
  let out (t : State) (p : List Byte) : State := finish t x.peer x.number f.seq p
  if x.steward then if f.dstPos < 4 then relayOut s1 x f else out s1 (oneResult true rMalformed)
  else if f.dstPos = 0xFE then runHere s1 (.session x.peer x.number f.seq) f.flags x.role f.payload out
  else out s1 (oneResult true rMalformed)

/-- A sequence error (R368): one result, event 0xE004, nothing run or cached. -/
def seqError (s : State) (x : Session) (f : Frame) : State :=
  let s1 := (s.bumpSat R.MGT_SEQ_ERR 0 1).record 0xE004 uFcc [(1, x.number), (4, f.seq), (4, x.l)]
  sendResponse s1 x f.seq (oneResult true rSequence)

/-- A session's request by its SEQ: the next one is run, the last one answered from the cache, one that still runs is not
repeated, any other is an error (R368). -/
def requestSeq (s : State) (x : Session) (f : Frame) : State :=
  let s1 := modSession s x fun y => { y with lastNs := s.now }
  let crc := crc32c f.payload
  let next := decide (f.seq = (x.l + 1) % 2 ^ 32)
  let old := f.seq == x.l && x.reqCrc == some crc
  let again := sendResponse (s1.bumpSat R.MGT_REPEATS 0 1) x f.seq x.cached
  match x.running with
  | some c => if next = true ∧ c = crc then s1 else if old then again else seqError s1 x f
  | none => if next then requestRun s1 x f else if old then again else seqError s1 x f

/-- REQUEST (R368). -/
def request (s : State) (f : Frame) : State :=
  if takes s f = false then s
  else if frameOk f tRequest = false then rxDrop s f
  else
    match findSession s f.srcMac f.session (forSteward s f) with
    | none => authFail s f
    | some x => if f.tag = frameTag x.key f then requestSeq s x f else authFail s f

/-- REQUEST (R368). -/
def execRequest (f : Frame) (s : State) : Host.Outcome State Fault Refusal := .next (request s f)

/-! ### Mailbox requests (R364, R373) -/

/-- A mailbox's request started: run here, or forwarded to another chip. -/
def mboxRun (s : State) (func k : Nat) : State :=
  let b := s.mbox k
  let w : Who := { role := if func = 0 then .operator else .owner, path := .pcie, func := func }
  let req := sliceZ b.req 0 b.len
  let s1 := modMbox s k fun b => { b with state := 1 }
  let bad := if 8 ≤ b.len ∧ b.len ≤ 1024 then (opsOf false 64 req).getD [] == [] else true
  if b.target = 0xFFFFFFFF ∨ b.target = s.me ∨ bad = true then
    let x := if 8 ≤ b.len ∧ b.len ≤ 1024 then runRequest s1 w false (bitOf b.flags 0) req else (s1, oneResult false rMalformed)
    mboxDone x.1 k x.2
  else if func ≠ 0 then mboxDone s1 k (oneResult false rRole)
  else fwdNew s1 (.mbox k) b.target (4 * (b.flags % 2)) 1 (fromMbox ((opsOf false 64 req).getD []))

/-- MBOX_GO = 1: dropped and counted while the mailbox is Busy (R364). -/
def mboxGo (s : State) (func box : Nat) : State :=
  let k := mboxKey func box
  if s.present func = false ∨ s.unitUp uEndpoint = false ∨ (if func = 0 then 16 ≤ box else 1 ≤ box) then s
  else if (s.mbox k).state = 1 then s.bumpSat R.HOST_FN_DB_DROP func 1
  else mboxRun s func k

/-- MBOX_GO (R364). -/
def execMboxGo (func box : Nat) (s : State) : Host.Outcome State Fault Refusal := .next (mboxGo s func box)

/-! ### Probes and status frames (R276, R299, R370) -/

/-- The status byte of a probe's answer (R276). -/
def probeStatus (s : State) : Nat :=
  let st := s.rd R.RST_STAGE 0
  if s.rst.porstLow = true ∧ s.rd R.RST_HELD 0 = 1 then 3
  else if st = 9 then 4
  else if s.rst.thermTrip = true ∨ (3 ≤ st ∧ (s.rst.pwrEn && s.rst.pwrGood) = false) then 2
  else if s.rst.inReset = true ∨ st < 8 then 4
  else if s.rd R.CLV_STATE 0 = 1 then 1
  else 0

/-- PROBE (R370): answered on standby power, under the tray key's copy; without a copy, UNAUTH. -/
def probe (s : State) (f : Frame) : State :=
  if s.rst.standby = false ∨ f.dstMac ≠ ownMac then s
  else if frameOk f tProbe = false ∨ f.payload.length ≠ 8 then rxDrop s f
  else
    let known := match s.rst.trayKey with
      | some k => !bitOf f.flags 3 && f.tag == frameTag k f
      | none => true
    if known then
      s.emit (.frame (tagged s.rst.trayKey
        { newFrame s f.srcMac tProbeAnswer
            (beBytes 1 (probeStatus s) ++ beBytes 2 (s.rd R.RST_BOOT 0) ++ f.payload) with seq := f.seq }))
    else authFail s f

/-- PROBE (R370). -/
def execProbe (f : Frame) (s : State) : Host.Outcome State Fault Refusal := .next (probe s f)

/-- STATUS_BROADCAST (R299): while PORSTn is held, to all stations. -/
def statusBroadcast (s : State) : State :=
  if s.rst.standby = true ∧ s.rst.porstLow = true ∧ s.rd R.RST_HELD 0 = 1 then
    s.emit (.frame (tagged s.rst.trayKey
      (newFrame s allMac tStatus
        (beBytes 1 3 ++ beBytes 1 (s.rd R.CLV_STW_POS 0) ++ beBytes 4 (s.rd R.RST_CAUSE 0) ++ beBytes 4 (s.rd R.RST_BOOT 0) ++
          beBytes 4 (heldSeconds s)))))
  else s

/-- STATUS_BROADCAST (R299). -/
def execStatusBroadcast (s : State) : Host.Outcome State Fault Refusal := .next (statusBroadcast s)

/-- A probe of a chip begun without a report (R370). -/
def startProbe (s : State) (subject : Nat) : State :=
  if s.isFailed subject = true ∨ (mapFind s.clover.inquiries subject).isSome = true then s
  else sendProbe (modInq s subject fun q => { q with tries := 1, sinceNs := s.now }) subject 1

/-- STATUS (R370): at the arbiter of a chip of its tray, a report of cause 4; without authentication a probe. -/
def statusRx (s : State) (f : Frame) : State :=
  let subject := Config.trayChip (beVal ((f.payload.drop 1).take 1))
  if s.fccUp = false ∨ f.dstMac ≠ allMac then s
  else if frameOk f tStatus = false ∨ f.payload.length ≠ 14 then rxDrop s f
  else if bitOf f.flags 3 = false ∧ trayTagOk s f = false then authFail s f
  else if f.tray ≠ s.rd R.CLV_TRAY_ID 0 ∨ arbiterOf s subject = false then s
  else if bitOf f.flags 3 then startProbe s subject
  else reportRx s s.me { subject := subject, alive := 0, cause := 4, port := 0xFF }

/-- STATUS (R370). -/
def execStatus (f : Frame) (s : State) : Host.Outcome State Fault Refusal := .next (statusRx s f)

/-! ### The tray bus (R365) -/

/-- PLCA beacons lost or back: CSMA/CD until they return; event 0xE010. -/
def plcaBeacon (s : State) (lost : Bool) : State :=
  let new := if lost then 2 else 1
  if s.fccUp = false ∨ s.rd R.MGT_T1S_STATE 0 = new then s
  else (s.wr R.MGT_T1S_STATE 0 new).record 0xE010 uFcc [(1, new), (1, plcaNode s)]

/-- PLCA_BEACON_LOSS (R365). -/
def execPlcaBeaconLoss (lost : Bool) (s : State) : Host.Outcome State Fault Refusal := .next (plcaBeacon s lost)

end Sys2Proof.Machine
end

