-- ==== Sys2Proof/Machine/Vector.lean ====
section
/-! DEFINITION. The vector slots of a bundle (R53 to R57, R80, R91). -/

namespace Sys2Proof.Machine

open Sys2Proof

/-! ### Registers -/

/-- The 1,024 lanes of a register. -/
def vLanes (s : State) (b r : Nat) : List Word :=
  let l := (mapGet {} (s.block b).vregs r).lanes
  l ++ List.replicate (1024 - l.length) 0

/-- The poisoned lanes of a register. -/
def vPoisoned (s : State) (b r : Nat) : List Nat := (mapGet {} (s.block b).vregs r).poison

/-- A register written. -/
def setVreg (s : State) (b r : Nat) (lanes : List Word) (bad : List Nat) : State :=
  s.modBlock b fun k => { k with vregs := mapPut k.vregs r { lanes := lanes, poison := bad } }

/-- The slot's effect in the vector unit, once for both copies (R86). -/
def vecSlot (s : State) (i : Issue) (f : State → State) : State := issueSlot s i conVec f

/-- A lane operation on the registers of a slot (R80): results, poison (R17) and counts (R58). -/
def vecLanes (s : State) (i : Issue) (w : VecSlot) (f : Word → Word → Word → Lane) : State :=
  vecSlot s i fun s =>
    let b := i.block
    let rs := List.zipWith (fun (x : Word) (y : Word × Word) => f x y.1 y.2) (vLanes s b (vA w))
      ((vLanes s b (vB w)).zip (vLanes s b (vC w)))
    let bad := (vPoisoned s b (vB w) ++ vPoisoned s b (vC w)).foldl addNew (vPoisoned s b (vA w))
    countArith (setVreg s b (vD w) (rs.map (·.w)) bad) b (arithSum (rs.map (·.a)))

/-- A lane operation that reads one register, or two. -/
def vecLanes1 (s : State) (i : Issue) (w : VecSlot) (f : Word → Word → Word → Lane) : State :=
  vecSlot s i fun s =>
    let b := i.block
    let rs := (vLanes s b (vA w)).map fun x => f x 0 0
    countArith (setVreg s b (vD w) (rs.map (·.w)) (vPoisoned s b (vA w))) b (arithSum (rs.map (·.a)))

def vecLanes2 (s : State) (i : Issue) (w : VecSlot) (f : Word → Word → Word → Lane) : State :=
  vecSlot s i fun s =>
    let b := i.block
    let rs := List.zipWith (fun x y => f x y 0) (vLanes s b (vA w)) (vLanes s b (vB w))
    let bad := (vPoisoned s b (vB w)).foldl addNew (vPoisoned s b (vA w))
    countArith (setVreg s b (vD w) (rs.map (·.w)) bad) b (arithSum (rs.map (·.a)))

/-- A reduction: one result in every lane, poisoned where any lane is. A NaN that a sum makes counts once for the reduction,
however many nodes of the tree made one (log 103). -/
def vecReduce (s : State) (i : Issue) (w : VecSlot) (f : List Word → Word) (sumNan : Bool) : State :=
  vecSlot s i fun s =>
    let b := i.block
    let l := vLanes s b (vA w)
    let r := f l
    let bad := if vPoisoned s b (vA w) = [] then [] else List.range 1024
    let made := sumNan && fvNan (f32 r) && !l.any fun x => fvNan (f32 x)
    countArith (setVreg s b (vD w) (List.replicate 1024 r) bad) b { nan := b2n made }

/-! ### Loads and stores -/

/-- Lines of SRAM a register takes in a format (R80). -/
def vBytes (c : Nat) : Nat := elemCount c * fmtBits c / 8

/-- The poisoned lanes of `n` elements of `w` bits read from bytes whose 8-byte words may be poisoned. -/
def lanesBad (s : State) (addr : Nat → Nat) (w n : Nat) (extra : List Nat) : List Nat :=
  (List.range n).filter fun j =>
    s.poisoned (addr (j * w / 8)) ((w + 7) / 8) || extra.contains (j * w / 64)

/-- The chip offset of byte `k` of lines from `line` on. -/
def lineByte (b line k : Nat) : Nat := sramBase b + (128 * line + k) % blockBytes

/-- The words of an access in which the check found an uncorrectable error. -/
def badWords (ecc : List EccHit) : List Nat :=
  (ecc.filter fun e => e.kind == .uncorrected).map (·.index)

/-- VLD (R80): elements widened exactly to FP32, or integers packed by sublane. Elements of an MX format are
scaled; one whose scaled value lies beyond the FP32 range is an infinity, which R47 does not count (log 103). -/
def vld (s : State) (i : Issue) (w : VecSlot) (ecc : List EccHit) : State :=
  let b := i.block
  let c := vSrc w
  let n := vBytes c
  let lines := ceilDiv n 128
  let near := ecc.filter fun e => decide (e.index < 16 * lines)
  let far := (ecc.filter fun e => decide (16 * lines ≤ e.index)).map fun e => { e with index := e.index - 16 * lines }
  let x := readLines s (uVec b) b (vImm w) lines near
  let bs := x.2.1
  let bad := if x.2.2 then lanesBad s (lineByte b (vImm w)) (if wholeLane c then fmtBits c else 32) 1024 (badWords near)
    else []
  if fmtMx c then
    let e := readDesc x.1 i (vDesc w)
    let y := planRead e.1 (uVec b) b e.2.1.addrA 32 far
    let ws := (List.range 1024).map fun j =>
      near32 (fvMul (fmtVal c (fmtElem c bs j)) (e8m0 (leField y.2.1 (j / 32) 1)))
    setVreg y.1 b (vD w) ws (if y.2.2 || e.2.2 then List.range 1024 else bad)
  else if wholeLane c then
    setVreg x.1 b (vD w) ((List.range 1024).map fun j => near32 (fmtVal c (fmtElem c bs j))) bad
  else setVreg x.1 b (vD w) ((List.range 1024).map fun j => BitVec.ofNat 32 (leField bs (4 * j) 4)) bad

/-- Bytes written to lines of the block, word by word where some are poisoned. -/
def storeLines (s : State) (unit b line : Nat) (bs : List Byte) (bad : Nat → Bool) : State :=
  let n := ceilDiv bs.length 8
  if (List.range n).any bad then
    s.each (List.range n) fun t k =>
      planWrite t unit (lineByte b line (8 * k)) ((bs.drop (8 * k)).take 8) (bad k)
  else planWriteAll s unit (lineRanges b line (ceilDiv bs.length 128)) bs false

/-- Elements padded with values the manual leaves open, where a register holds fewer than a format needs. -/
def padElems (s : State) (n : Nat) (es : List Nat) : List Nat :=
  es ++ (List.range (n - es.length)).map fun k => (Config.freeWord s.free k).toNat

/-- The lanes of a register that hold a poisoned lane's block of 32, which shares its scale (R17, R34). -/
def blocksBad (bad : List Nat) : List Nat :=
  (List.range 1024).filter fun j => bad.any fun k => k / 32 == j / 32

/-- The scales of MX blocks of a register stored, 8 to a word, poisoned where a block of the word is. -/
def storeScales (s : State) (b a : Nat) (sc : List Byte) (bad : Nat → Bool) : State :=
  s.each (List.range (ceilDiv sc.length 8)) fun t k =>
    planStore t (uVec b) b (a + 8 * k) ((sc.drop (8 * k)).take 8) ((List.range 8).any fun j => bad (8 * k + j))

/-- VST (R80): elements narrowed under NCTL; MX scales to ADDR_A. -/
def vst (s0 : State) (i : Issue) (w : VecSlot) : State :=
  let b := i.block
  let c := nctlFmt (vNctl w)
  let src := vSrc w
  let e := readDesc s0 i (vDesc w)
  let s := e.1
  let d := e.2.1
  let key := s.srKey b d
  let vs := (regElems src (vLanes s b (vA w))).take (elemCount c)
  let own := vPoisoned s b (vA w)
  let blockBad (g : Nat) : Bool := e.2.2 || (List.range 32).any fun t => own.contains (elemLane src (32 * g + t))
  let wordBad (k : Nat) : Bool :=
    e.2.2 || (List.range 17).any fun t =>
      let j := 64 * k / fmtBits c + t
      decide (j * fmtBits c < 64 * k + 64) && (if fmtMx c then blockBad (j / 32) else own.contains (elemLane src j))
  if fmtMx c then
    let bl := mxAll (vNctl w) key d.ibase (groupsOf 32 32 vs)
    let es := (bl.map (·.elems)).flatten
    let bs := packElems c es
    let sc := bl.map fun m => BitVec.ofNat 8 m.scale
    let s1 := storeLines s (uVec b) b (vImm w) bs wordBad
    let s2 := storeScales s1 b d.addrA sc blockBad
    let s3 := countArith s2 b { sat := (bl.map (·.sat)).foldl (· + ·) 0 }
    watchFeed s3 b (vDesc w) 1 c ((bl.map fun m => m.elems.map (mxValue c m.scale)).flatten) bs
  else
    let ns := narrowAll (vNctl w) key d.ibase vs
    let es := padElems s (elemCount c) (ns.map (·.bits))
    let bs := packElems c es
    let s1 := if ns.length < elemCount c then s.tick else s
    let s2 := storeLines s1 (uVec b) b (vImm w) bs wordBad
    let s3 := countArith s2 b (arithSum (ns.map (·.arith)))
    watchFeed s3 b (vDesc w) 1 c (es.map (fmtVal c)) bs

/-! ### Gather and scatter (R57) -/

/-- Bits of an element in memory, at least one. -/
def elemBits (c : Nat) : Nat := max 1 (fmtBits c)

/-- The bit offset in the block's SRAM of an element, none outside it. -/
def elemBit (w : VecSlot) (idx : Nat) : Option Nat :=
  let c := elemBits (vSrc w)
  let o := 1024 * vImm w + idx * c
  if o + c ≤ 8 * blockBytes then some o else none

/-- An element's bits in the block's SRAM. -/
def getElem (s : State) (b c o : Nat) : Nat :=
  bits (s.readLe (sramBase b + o / 8) 5) (o % 8) (elemBits c)

/-- An element written in the block's SRAM; the bits beside it stay. -/
def putElem (s : State) (b c o v : Nat) (bad : Bool) : State :=
  let n := (o % 8 + elemBits c + 7) / 8
  let old := s.readLe (sramBase b + o / 8) n
  planWrite s (uVec b) (sramBase b + o / 8) (leBytes n (setBits old (o % 8) (elemBits c) v)) bad

/-- What a lane of an element's bits holds: FP32, or a sign-extended integer. -/
def widenElem (c v : Nat) : Word :=
  match fmtInt c with
  | some k => BitVec.ofInt 32 (toSigned k v)
  | none => near32 (fmtVal c v)

/-- Whether a scatter's overflow propagates: to FP32, always (R54); to a narrower format R57 does not say, and the model goes by
the slot's OVF (log 103). -/
def scatterOvf (w : VecSlot) : Bool := vSrc w == 12 || nctlOvf (vNctl w)

/-- The bits of a lane's value in a slot's format. R57 gives the rounding of a scatter-add alone; a scatter to a format below
FP32 rounds to nearest-even too, and an integer keeps its low bits (log 103). -/
def narrowLane (w : VecSlot) (x : Word) : Narrowed :=
  match fmtInt (vSrc w), fmtFloat (vSrc w) with
  | some k, _ => { bits := x.toNat % 2 ^ k }
  | none, some f => toFloat f .near (scatterOvf w) (f32 x)
  | none, none => { bits := 0 }

/-- Lanes whose index lies outside the block's SRAM: counted, and a plan error of the block (R57). -/
def outsideLanes (s : State) (b n : Nat) : State :=
  if n = 0 then s else doNotSeal (countArith s b { gidx := n }) (s.partOf b) vPlanErr

/-- GATHER: each lane takes the element its index names; an index outside gives 0 (R57). -/
def gather (s : State) (i : Issue) (w : VecSlot) (ecc : List EccHit) : State :=
  let b := i.block
  let c := vSrc w
  let os := (vLanes s b (vA w)).map fun x => elemBit w x.toNat
  let s1 := s.each (eccOrder ecc) fun t e => eccHit t (uVec b) (sramBase b + 128 * vImm w) e
  let hit := badWords ecc
  let bad := (List.range 1024).filter fun j =>
    (vPoisoned s b (vA w)).contains j ||
      (match getAt none os j with
       | some o => s.poisoned (sramBase b + o / 8) 1 || hit.contains ((o - 1024 * vImm w) / 64)
       | none => false)
  let s2 := s1.each ((os.filterMap fun o => o.map fun o => o / 64).foldl addNew []) fun t k =>
    poisonReads t (sramBase b + 8 * k) 8
  let ws := os.map fun o =>
    match o with
    | some o => widenElem c (getElem s b c o)
    | none => 0
  outsideLanes (setVreg s2 b (vD w) ws bad) b (os.filter (·.isNone)).length

/-- The lanes of a scatter in ascending order: index and value, whether poisoned. -/
def scatterLanes (s : State) (i : Issue) (w : VecSlot) : List (Option Nat × Word × Bool) :=
  let b := i.block
  let pa := vPoisoned s b (vA w)
  let pb := vPoisoned s b (vB w)
  List.zipWith (fun (j : Nat) (p : Word × Word) => (elemBit w p.2.toNat, p.1, pa.contains j || pb.contains j))
    (List.range 1024) ((vLanes s b (vA w)).zip (vLanes s b (vB w)))

/-- SCATTER: the highest of lanes that name one element is written last (R57). -/
def scatter (s : State) (i : Issue) (w : VecSlot) : State :=
  let b := i.block
  let ls := scatterLanes s i w
  let s1 := s.each ls fun t l =>
    match l.1 with
    | some o =>
      let n := narrowLane w l.2.1
      countArith (putElem t b (vSrc w) o n.bits l.2.2) b n.arith
    | none => t
  outsideLanes s1 b (ls.filter fun l => l.1.isNone).length

/-- SCATTER_ADD: values added to their elements in ascending lane order (R57). -/
def scatterAdd (s : State) (i : Issue) (w : VecSlot) (ecc : List EccHit) : State :=
  let b := i.block
  let c := vSrc w
  let ls := scatterLanes s i w
  let hit := badWords ecc
  let s0 := s.each (eccOrder ecc) fun t e => eccHit t (uVec b) (sramBase b + 128 * vImm w) e
  let s1 := s0.each ((ls.filterMap fun l => l.1.map (· / 64)).foldl addNew []) fun t k =>
    poisonReads t (sramBase b + 8 * k) 8
  let s2 := s1.each ls fun t l =>
    match l.1 with
    | some o =>
      let old := getElem t b c o
      let bad := l.2.2 || t.poisoned (sramBase b + o / 8) 1 || hit.contains ((o - 1024 * vImm w) / 64)
      match fmtInt c, fmtFloat c with
      | some k, _ => putElem t b c o ((old + l.2.1.toNat) % 2 ^ k) bad
      | none, some f =>
        let n := toFloat f .near (scatterOvf w) (fvAdd (fmtVal c old) (f32 l.2.1))
        countArith (putElem t b c o n.bits bad) b (arithOf f n [fmtVal c old, f32 l.2.1])
      | none, none => t
    | none => t
  outsideLanes s2 b (ls.filter fun l => l.1.isNone).length

/-! ### Conversions -/

/-- CVT (R54, R80): each element at its position in the target format. To an MX format, which R80 leaves to CVT_MX, each element
is converted alone, without a scale (log 103). -/
def cvt (s0 : State) (i : Issue) (w : VecSlot) : State :=
  let b := i.block
  let c := nctlFmt (vNctl w)
  let e := readDesc s0 i (vDesc w)
  let s := e.1
  let d := e.2.1
  let vs := (regElems (vSrc w) (vLanes s b (vA w))).take (elemCount c)
  let ns := narrowAll (vNctl w) (s.srKey b d) d.ibase vs
  let s1 := if ns.length < elemCount c then s.tick else s
  let es := padElems s (elemCount c) (ns.map (·.bits))
  let k := (fmtInt c).getD 32
  let ws := if wholeLane c then es.map (laneOf c) else (groupsOf 1024 (32 / k) es).map (packLanes k)
  let srcLanes := (vPoisoned s b (vA w))
  let bad := (List.range 1024).filter fun l =>
    e.2.2 || (List.range (if wholeLane c then 1 else 32 / k)).any fun t =>
      srcLanes.contains (elemLane (vSrc w) (l * (if wholeLane c then 1 else 32 / k) + t))
  countArith (setVreg s1 b (vD w) ws bad) b (arithSum (ns.map (·.arith)))

/-- CVT_MX (R34, R80): groups of 32 lanes; the scales go to ADDR_A. Every element of a group depends on all its lanes. -/
def cvtMx (s0 : State) (i : Issue) (w : VecSlot) : State :=
  let b := i.block
  let c := nctlFmt (vNctl w)
  let e := readDesc s0 i (vDesc w)
  let s := e.1
  let d := e.2.1
  let bl := mxAll (vNctl w) (s.srKey b d) d.ibase (groupsOf 32 32 ((vLanes s b (vA w)).map f32))
  let bad := if e.2.2 then List.range 1024 else blocksBad (vPoisoned s b (vA w))
  let s1 := setVreg s b (vD w) ((bl.map fun m => m.elems.map (laneOf c)).flatten) bad
  let s2 := storeScales s1 b d.addrA (bl.map fun m => BitVec.ofNat 8 m.scale) fun g => bad.contains (32 * g)
  countArith s2 b { sat := (bl.map (·.sat)).foldl (· + ·) 0 }

/-- BCAST (R80): the immediate as BF16 or as a sign-extended integer in every lane or sublane. -/
def bcastWord (w : VecSlot) : Word :=
  if vFloat (vNctl w) then canon32 (BitVec.ofNat 32 (vImm w * 65536))
  else splat (vWidth (vNctl w)) (toSigned 16 (vImm w))

/-- A vector slot that leaves trace records (R388). -/
def vecTraced (s : State) (i : Issue) (w : VecSlot) (f : State → State) : State :=
  vecSlot s i fun s => traced s i.block 3 (uVec i.block) (vDesc w) i.seq f

/-! ### Commands -/

/-- NOP of a vector slot. -/
def execVecNop (i : Issue) (_w : VecSlot) (s : State) : Host.Outcome State Fault Refusal :=
  .next (vecSlot s i fun s => s)

/-- VLD (R80). -/
def execVld (i : Issue) (w : VecSlot) (ecc : List EccHit) (s : State) : Host.Outcome State Fault Refusal :=
  .next (vecTraced s i w fun s => vld s i w ecc)

/-- VST (R80). -/
def execVst (i : Issue) (w : VecSlot) (s : State) : Host.Outcome State Fault Refusal :=
  .next (vecTraced s i w fun s => vst s i w)

/-- GATHER (R57). -/
def execGather (i : Issue) (w : VecSlot) (ecc : List EccHit) (s : State) : Host.Outcome State Fault Refusal :=
  .next (vecTraced s i w fun s => gather s i w ecc)

/-- SCATTER (R57). -/
def execScatter (i : Issue) (w : VecSlot) (s : State) : Host.Outcome State Fault Refusal :=
  .next (vecTraced s i w fun s => scatter s i w)

/-- SCATTER_ADD (R57). -/
def execScatterAdd (i : Issue) (w : VecSlot) (ecc : List EccHit) (s : State) : Host.Outcome State Fault Refusal :=
  .next (vecTraced s i w fun s => scatterAdd s i w ecc)

/-- BCAST (R80). -/
def execBcast (i : Issue) (w : VecSlot) (s : State) : Host.Outcome State Fault Refusal :=
  .next (vecSlot s i fun s => setVreg s i.block (vD w) (List.replicate 1024 (bcastWord w)) [])

/-- ADD (R54). -/
def execAdd (i : Issue) (w : VecSlot) (s : State) : Host.Outcome State Fault Refusal :=
  .next (vecLanes2 s i w (laneAdd (vNctl w)))

/-- SUB (R54). -/
def execSub (i : Issue) (w : VecSlot) (s : State) : Host.Outcome State Fault Refusal :=
  .next (vecLanes2 s i w (laneSub (vNctl w)))

/-- MUL of a vector slot (R54). -/
def execVecMul (i : Issue) (w : VecSlot) (s : State) : Host.Outcome State Fault Refusal :=
  .next (vecLanes2 s i w (laneMul (vNctl w)))

/-- FMA: va × vb + vc (R54). -/
def execFma (i : Issue) (w : VecSlot) (s : State) : Host.Outcome State Fault Refusal :=
  .next (vecLanes s i w (laneFma (vNctl w)))

/-- MIN (R54). -/
def execMin (i : Issue) (w : VecSlot) (s : State) : Host.Outcome State Fault Refusal :=
  .next (vecLanes2 s i w (laneMin (vNctl w)))

/-- MAX (R54). -/
def execMax (i : Issue) (w : VecSlot) (s : State) : Host.Outcome State Fault Refusal :=
  .next (vecLanes2 s i w (laneMax (vNctl w)))

/-- ABS (R54). -/
def execAbs (i : Issue) (w : VecSlot) (s : State) : Host.Outcome State Fault Refusal :=
  .next (vecLanes1 s i w (laneAbs (vNctl w) (vImm w)))

/-- NEG (R54). -/
def execNeg (i : Issue) (w : VecSlot) (s : State) : Host.Outcome State Fault Refusal :=
  .next (vecLanes1 s i w (laneNeg (vNctl w) (vImm w)))

/-- COPYSIGN (R54). -/
def execCopysign (i : Issue) (w : VecSlot) (s : State) : Host.Outcome State Fault Refusal :=
  .next (vecLanes2 s i w (laneCopysign (vNctl w) (vImm w)))

/-- CMP (R80). -/
def execCmp (i : Issue) (w : VecSlot) (s : State) : Host.Outcome State Fault Refusal :=
  .next (vecLanes2 s i w (laneCmp (vNctl w) (vImm w)))

/-- SEL (R80). -/
def execSel (i : Issue) (w : VecSlot) (s : State) : Host.Outcome State Fault Refusal :=
  .next (vecLanes s i w (laneSel (vNctl w)))

/-- IADD (R53). -/
def execIadd (i : Issue) (w : VecSlot) (s : State) : Host.Outcome State Fault Refusal :=
  .next (vecLanes2 s i w (laneIadd (vNctl w) (vImm w)))

/-- ISUB (R53). -/
def execIsub (i : Issue) (w : VecSlot) (s : State) : Host.Outcome State Fault Refusal :=
  .next (vecLanes2 s i w (laneIsub (vNctl w) (vImm w)))

/-- IMUL (R53). -/
def execImul (i : Issue) (w : VecSlot) (s : State) : Host.Outcome State Fault Refusal :=
  .next (vecLanes2 s i w (laneImul (vNctl w) (vImm w)))

/-- SHL (R80). -/
def execShl (i : Issue) (w : VecSlot) (s : State) : Host.Outcome State Fault Refusal :=
  .next (vecLanes2 s i w (laneShl (vNctl w) (vImm w)))

/-- SHR (R80). -/
def execShr (i : Issue) (w : VecSlot) (s : State) : Host.Outcome State Fault Refusal :=
  .next (vecLanes2 s i w (laneShr (vNctl w) (vImm w)))

/-- AND (R80). -/
def execAnd (i : Issue) (w : VecSlot) (s : State) : Host.Outcome State Fault Refusal :=
  .next (vecLanes2 s i w laneAnd)

/-- OR (R80). -/
def execOr (i : Issue) (w : VecSlot) (s : State) : Host.Outcome State Fault Refusal :=
  .next (vecLanes2 s i w laneOr)

/-- XOR (R80). -/
def execXor (i : Issue) (w : VecSlot) (s : State) : Host.Outcome State Fault Refusal :=
  .next (vecLanes2 s i w laneXor)

/-- RECIP (R54). -/
def execRecip (i : Issue) (w : VecSlot) (s : State) : Host.Outcome State Fault Refusal :=
  .next (vecLanes1 s i w (laneRecip (vNctl w)))

/-- SQRT (R54). -/
def execSqrt (i : Issue) (w : VecSlot) (s : State) : Host.Outcome State Fault Refusal :=
  .next (vecLanes1 s i w (laneSqrt (vNctl w)))

/-- RSQRT (R54). -/
def execRsqrt (i : Issue) (w : VecSlot) (s : State) : Host.Outcome State Fault Refusal :=
  .next (vecLanes1 s i w (laneRsqrt (vNctl w)))

/-- DIV (R54). -/
def execDiv (i : Issue) (w : VecSlot) (s : State) : Host.Outcome State Fault Refusal :=
  .next (vecLanes2 s i w (laneDiv (vNctl w)))

/-- EXP (R54). -/
def execExp (i : Issue) (w : VecSlot) (s : State) : Host.Outcome State Fault Refusal :=
  .next (vecLanes1 s i w (laneExp 0x34 (vNctl w)))

/-- EXP2 (R54). -/
def execExp2 (i : Issue) (w : VecSlot) (s : State) : Host.Outcome State Fault Refusal :=
  .next (vecLanes1 s i w (laneExp 0x35 (vNctl w)))

/-- LOG (R54). -/
def execLog (i : Issue) (w : VecSlot) (s : State) : Host.Outcome State Fault Refusal :=
  .next (vecLanes1 s i w (laneLog 0x36 (vNctl w)))

/-- LOG2 (R54). -/
def execLog2 (i : Issue) (w : VecSlot) (s : State) : Host.Outcome State Fault Refusal :=
  .next (vecLanes1 s i w (laneLog 0x37 (vNctl w)))

/-- TANH (R54). -/
def execTanh (i : Issue) (w : VecSlot) (s : State) : Host.Outcome State Fault Refusal :=
  .next (vecLanes1 s i w (laneTanh (vNctl w)))

/-- SIGMOID (R54). -/
def execSigmoid (i : Issue) (w : VecSlot) (s : State) : Host.Outcome State Fault Refusal :=
  .next (vecLanes1 s i w (laneSoft 0x39 (vNctl w)))

/-- ERF (R54). -/
def execErf (i : Issue) (w : VecSlot) (s : State) : Host.Outcome State Fault Refusal :=
  .next (vecLanes1 s i w (laneSoft 0x3A (vNctl w)))

/-- SIN (R54). -/
def execSin (i : Issue) (w : VecSlot) (s : State) : Host.Outcome State Fault Refusal :=
  .next (vecLanes1 s i w (laneTrig 0x3B (vNctl w)))

/-- COS (R54). -/
def execCos (i : Issue) (w : VecSlot) (s : State) : Host.Outcome State Fault Refusal :=
  .next (vecLanes1 s i w (laneTrig 0x3C (vNctl w)))

/-- CVT (R54, R80). -/
def execCvt (i : Issue) (w : VecSlot) (s : State) : Host.Outcome State Fault Refusal :=
  .next (vecSlot s i fun s => cvt s i w)

/-- CVT_MX (R34, R80). -/
def execCvtMx (i : Issue) (w : VecSlot) (s : State) : Host.Outcome State Fault Refusal :=
  .next (vecTraced s i w fun s => cvtMx s i w)

/-- RSUM (R56). -/
def execRsum (i : Issue) (w : VecSlot) (s : State) : Host.Outcome State Fault Refusal :=
  .next (vecReduce s i w (redSum (vNctl w)) (vFloat (vNctl w)))

/-- RMAX (R56). -/
def execRmax (i : Issue) (w : VecSlot) (s : State) : Host.Outcome State Fault Refusal :=
  .next (vecReduce s i w (redBest true (vNctl w)) false)

/-- RMIN (R56). -/
def execRmin (i : Issue) (w : VecSlot) (s : State) : Host.Outcome State Fault Refusal :=
  .next (vecReduce s i w (redBest false (vNctl w)) false)

/-- ARGMAX (R56). -/
def execArgmax (i : Issue) (w : VecSlot) (s : State) : Host.Outcome State Fault Refusal :=
  .next (vecReduce s i w (redArg true (vNctl w)) false)

/-- ARGMIN (R56). -/
def execArgmin (i : Issue) (w : VecSlot) (s : State) : Host.Outcome State Fault Refusal :=
  .next (vecReduce s i w (redArg false (vNctl w)) false)

end Sys2Proof.Machine
end

