-- ==== Sys2Proof/Machine/Window.lean ====
section
/-! DEFINITION. A request to the chip's offsets (R106, R109): memory, the object dictionary window with its direct slots and
mailboxes (R363, R364), doorbell slots and queue contexts (R180 to R182), Tally's windows (R342) and the trace window (R390);
and a host access to a function's BARs and configuration space (R176 to R178). -/

namespace Sys2Proof.Machine

open Sys2Proof

def dictBase : Nat := 0x500000000000
def dictSize : Nat := 0x400000000
def doorBase : Nat := 0x600000000000
def ctxBase : Nat := 0x600100000000
def tallyBase : Nat := 0x700000000000
def traceBase : Nat := 0x700100000000

/-! ### Answers -/

/-- A read answered. -/
def winReply (s : State) (r : MemReq) (bs : List Byte) : State := s.emit (.readReply r.unit (sliceZ bs 0 r.len) false false)

/-- A direct access refused (R363): counted with its reason; a read returns zeros. -/
def winRefuse (s : State) (r : MemReq) (reason : Nat) : State :=
  let s1 := (s.bumpSat R.MGT_WIN_REFUSED 0 1).wr R.MGT_WIN_LAST 0 reason
  if r.write then s1 else winReply s1 r []

/-- Who performs a window access: the physical function or the FCC as the Operator role, a virtual one as the Owner. -/
def winWho (r : MemReq) : Who := { role := r.role, path := .pcie, func := r.func }

/-! ### Direct slots (R363) -/

/-- An access to an entry of at most 8 bytes: the whole slot, or its first 4 bytes for an entry of at most 4. -/
def slotAccess (s : State) (r : MemReq) (e : Reg) (inst byte : Nat) : State :=
  let size := tySize e.ty e.members
  if 8 < size ∨ byte ≠ 0 ∨ ¬(r.len = 8 ∨ (r.len = 4 ∧ size ≤ 4)) then winRefuse s r rMalformed
  else if r.write then
    let t := writeOne s (winWho r) e inst (sliceZ r.data 0 size)
    if t.2 = rOk then t.1 else winRefuse t.1 r t.2
  else
    let x := readOne s (winWho r) e inst
    if x.2.2 = rOk then winReply x.1 r x.2.1 else winRefuse x.1 r x.2.2

/-- A direct slot by its offset. -/
def directSlot (s : State) (r : MemReq) (off : Nat) : State :=
  let idx := off / 0x40000
  match findReg idx (off % 0x40000 / 0x400) with
  | some e => if 0x1000 ≤ idx ∧ idx < 0xA000 then slotAccess s r e (off % 0x400 / 8) (off % 8) else winRefuse s r rNoEntry
  | none => winRefuse s r rNoEntry

/-! ### Mailboxes (R364) -/

/-- The bytes of a mailbox. -/
def mboxImage (b : Mbox) : List Byte :=
  leBytes 4 b.target ++ leBytes 4 b.len ++ leBytes 4 0 ++ leBytes 4 b.state ++ leBytes 4 b.rlen ++ leBytes 4 b.flags ++
    List.replicate 1000 0 ++ sliceZ b.req 0 1024 ++ sliceZ b.rsp 0 1024

/-- A write to a field of a mailbox that is not Busy; one to a Busy one is dropped and counted. -/
def mboxWrite (s : State) (r : MemReq) (box o : Nat) : State :=
  let k := mboxKey r.func box
  let v := leVal (sliceZ r.data 0 4)
  let busy := (s.mbox k).state == 1
  let field (t : State) : State := if busy then t.bumpSat R.HOST_FN_DB_DROP r.func 1 else t
  if 0x400 ≤ o ∧ o + r.len ≤ 0x800 then
    if busy then field s
    else
      modMbox s k fun b =>
        let q := sliceZ b.req 0 1024
        { b with req := q.take (o - 0x400) ++ sliceZ r.data 0 r.len ++ q.drop (o - 0x400 + r.len) }
  else if r.len ≠ 4 ∨ o % 4 ≠ 0 then winRefuse s r rMalformed
  else
    match o with
    | 0x000 =>
      if busy then field s
      else if r.func ≠ 0 ∧ v ≠ 0xFFFFFFFF then winRefuse s r rRole
      else modMbox s k fun b => { b with target := v }
    | 0x004 =>
      if busy then field s
      else if 8 ≤ v ∧ v ≤ 1024 then modMbox s k fun b => { b with len := v }
      else winRefuse s r rRange
    | 0x008 => if busy then field s else if v = 1 then mboxGo s r.func box else s
    | 0x014 => if busy then field s else modMbox s k fun b => { b with flags := v % 2 }
    | 0x00C => winRefuse s r rAccess
    | 0x010 => winRefuse s r rAccess
    | _ => winRefuse s r (if 0x800 ≤ o ∧ o < 0xC00 then rAccess else rNoEntry)

/-- An access to a mailbox. -/
def mboxAccess (s : State) (r : MemReq) (box o : Nat) : State :=
  if r.write then mboxWrite s r box o
  else if o + r.len ≤ 0xC00 then winReply s r ((mboxImage (s.mbox (mboxKey r.func box))).drop o)
  else winRefuse s r rNoEntry

/-! ### The windows -/

/-- The object dictionary window: the whole for the physical function and the FCC; its one mailbox for a virtual function. -/
def dictAccess (s : State) (r : MemReq) : State :=
  let off := r.offset - dictBase
  if s.unitUp uEndpoint = false ∧ r.unit ≠ uFcc then s
  else if r.role = .owner then
    if off + r.len ≤ 0x1000 then mboxAccess s r 0 off else winRefuse s r rNoEntry
  else if off < 0x10000 then mboxAccess s r (off / 0x1000) (off % 0x1000)
  else directSlot s r off

/-! ### Doorbell slots and queue contexts (R180 to R182) -/

/-- A doorbell slot as it reads. -/
def slotWord (q : QCtx) : Nat := q.dbErr * 2 ^ 104 + qstate q * 2 ^ 96

/-- An access to a byte offset of a function's doorbell slots: a field is written by one aligned 32-bit write, any other write is
dropped (log 36); a read that takes DB_ERR clears it. -/
def doorAccess (s : State) (r : MemReq) (f o : Nat) : State :=
  match s.localQ f (o / 16) with
  | none => if r.write then s else winReply s r []
  | some g =>
    if r.write then
      let v := leVal (sliceZ r.data 0 4)
      if r.len ≠ 4 then s
      else
        match o % 16 with
        | 0 => sqTail s f (o / 16) v
        | 4 => cqHead s f (o / 16) v
        | 8 =>
          if v = 1 then queueEnable s f (o / 16)
          else if v = 2 then normalDisable s f g
          else if v = 3 then forcedDisable s f g
          else s
        | _ => s
    else
      let t := winReply s r ((leBytes 16 (slotWord (s.queue g))).drop (o % 16))
      if o % 16 ≤ 13 ∧ 13 < o % 16 + r.len then modQueue t g fun q => { q with dbErr := 0 } else t

/-- An access to a byte offset of a global queue's context. -/
def ctxAccess (s : State) (r : MemReq) (g o : Nat) : State :=
  let f := (s.funcOf g).getD 0xFFFF
  if s.unitUp uEndpoint = false then s
  else if r.write then ctxWrite s f g (8 * o) (8 * r.len) (leVal (sliceZ r.data 0 r.len))
  else winReply s r ((leBytes 64 (ctxWord f (s.queue g))).drop o)

/-! ### Tally and trace -/

/-- A channel's registers: 8 bytes each, and 16 bytes for each stream lane. -/
def tallyAccess (s : State) (r : MemReq) : State :=
  let ch := (r.offset - tallyBase) / 0x1000
  let o := r.offset % 0x1000
  if o < 0x100 then
    match findReg (0x7100 + ch % 16) (o / 8 + 1) with
    | some e => slotAccess s r e 0 (o % 8)
    | none => winRefuse s r rNoEntry
  else if o < 0x180 then
    let lane := (o - 0x100) / 16
    let b := o % 16
    let e := R.TLY_LANE ch lane
    if r.write then
      if b = 12 ∧ r.len = 4 then
        let t := writeOne s (winWho r) e 0 (List.replicate 12 0 ++ sliceZ r.data 0 4)
        if t.2 = rOk then t.1 else winRefuse t.1 r t.2
      else winRefuse s r rAccess
    else
      let x := readOne s (winWho r) e 0
      if x.2.2 = rOk then winReply x.1 r (x.2.1.drop b) else winRefuse x.1 r x.2.2
  else winRefuse s r rNoEntry

/-- A partition's area of the trace window: TRC_HEAD, TRC_DROP, TRC_NEWEST, then zeros; nothing there is written. -/
def traceAccess (s : State) (r : MemReq) : State :=
  let p := (r.offset - traceBase) / 0x200000
  let o := r.offset % 0x200000
  if r.write then winRefuse s r rAccess
  else
    winReply s r
      ((leBytes 8 (s.rd R.TRC_HEAD p) ++ leBytes 8 (s.rd R.TRC_DROP p) ++ leBytes 8 (s.rd R.TRC_NEWEST p)).drop o)

/-- Whether a request may address the chip's windows: not from another chip; the Operator, the Vendor, the physical
function; a function its own mailbox, whose offsets a request with `raw` gives (R363). -/
def windowOk (r : MemReq) : Bool :=
  r.raw && !r.remote &&
    (r.role == .operator || r.role == .vendor ||
      (r.role == .owner && r.func != 0 && decide (dictBase ≤ r.offset) && decide (r.offset < dictBase + dictSize)))

/-- Whether a request may address a queue's context or doorbell slot: a function its own queues', whose offsets a request with
`raw` gives. -/
def queueOk (s : State) (r : MemReq) (g : Nat) : Bool :=
  r.raw && !r.remote && (r.role == .operator || r.role == .vendor || (r.role == .owner && s.funcOf g == some r.func))

/-- The function of an offset in the doorbell window, and the global queue of its slot. -/
def doorFunc (r : MemReq) : Nat := (r.offset - doorBase) / 0x10000
def doorQueue (s : State) (r : MemReq) : Nat := s.qbase (doorFunc r) + (r.offset - doorBase) % 0x10000 / 16

/-- A request by its offset: a window, or memory. -/
def chipRequest (s : State) (r : MemReq) : State :=
  let inside (base size : Nat) : Bool := decide (base ≤ r.offset) && decide (r.offset + r.len ≤ base + size)
  if windowOk r = true ∧ inside dictBase dictSize = true then dictAccess s r
  else if inside doorBase 0x4000000 = true ∧ queueOk s r (doorQueue s r) = true then
    doorAccess s r (doorFunc r) ((r.offset - doorBase) % 0x10000)
  else if inside ctxBase 0x1000000 = true ∧ queueOk s r ((r.offset - ctxBase) / 64) = true then
    ctxAccess s r ((r.offset - ctxBase) / 64) ((r.offset - ctxBase) % 64)
  else if windowOk r = true ∧ inside tallyBase 0x10000 = true then tallyAccess s r
  else if windowOk r = true ∧ inside traceBase 0x10000000 = true then traceAccess s r
  else memRequest s r

/-- MEMORY_REQUEST (R109). -/
def execMemoryRequest (r : MemReq) (s : State) : Host.Outcome State Fault Refusal := .next (chipRequest s r)

/-! ### A function's BARs and configuration space (R176 to R178) -/

/-- A host access by a function to a chip offset. -/
def barReq (func offset len : Nat) (write raw : Bool) (part : Nat) (data : List Byte) (ecc : List EccHit) : MemReq :=
  { role := if func = 0 then .operator else .owner, part := part, func := func, remote := false, tag := 0, raw := raw,
    planned := false, unit := uFunc func, write := write, offset := offset, len := len, data := data, poison := false,
    ecc := ecc }

/-- The view offset of a BAR2 offset (R178). -/
def windowOff (o : Nat) : Option Nat :=
  if o < hbmBytes then some o
  else if o < hbmBytes + sramBytes then some (sramStart + (o - hbmBytes))
  else none

/-- An access to the partition window: served, held or denied as any request of its function; the power cap may hold it
(R313). An offset past a virtual function's BAR2 is not the function's. -/
def partWindow (s : State) (func o len : Nat) (write : Bool) (data : List Byte) (ecc : List EccHit) : State :=
  let p := s.rd R.HOST_FN_WINPART func
  let r := barReq func ((windowOff o).getD hbmBytes) len write (p == 0xFF && func == 0) p data ecc
  if func ≠ 0 ∧ 2 ^ s.host.vfBar2 < o + len then s
  else if s.power.holdUnplanned then s.setPower { s.power with held := s.power.held ++ [r] }
  else memRequest s r

/-- Where BAR0 of a function has its MSI-X table and its PBA. -/
def msixAt (f : Nat) : Nat := if f = 0 then 0x60000 else 0x18000
def pbaAt (f : Nat) : Nat := if f = 0 then 0x70000 else 0x1C000

/-- The bytes of a function's MSI-X table, and of its PBA. -/
def msixBytes (s : State) (f : Nat) : List Byte := ((List.range (vectorsOf f)).map fun v => leBytes 16 (s.msixWord f v)).flatten
def pbaBytes (s : State) (f : Nat) : List Byte :=
  (List.range (vectorsOf f / 8)).map fun k =>
    BitVec.ofNat 8 (((List.range 8).map fun j => if s.host.pba.contains (f, 8 * k + j) then 2 ^ j else 0).foldl (· + ·) 0)

/-- Bytes of an MSI-X table entry written; a vector that is no longer masked and was pending is signalled (R191). -/
def msixWrite (s : State) (f o : Nat) (data : List Byte) : State :=
  let v := o / 16
  let w := setBits (s.msixWord f v) (8 * (o % 16)) (8 * data.length) (leVal data)
  msixSweep (s.modHost fun h =>
    { h with msixTable := mapSet (2 ^ 96) h.msixTable (f * 2048 + v) (w % 2 ^ 128) }) f

/-- An access to BAR0 (R177): doorbell slots, queue contexts, the MSI-X table, the PBA; any other offset reads as zeros, and a
write there is dropped. -/
def barAccess (s : State) (func o len : Nat) (write : Bool) (data : List Byte) : State :=
  let r := barReq func 0 len write true 0 data []
  let inside (base size : Nat) : Bool := decide (base ≤ o) && decide (o + len ≤ base + size)
  if inside 0 (16 * s.qcount func) then chipRequest s { r with offset := doorBase + 0x10000 * func + o }
  else if inside 0x10000 (64 * s.qcount func) then chipRequest s { r with offset := ctxBase + 64 * s.qbase func + (o - 0x10000) }
  else if inside (msixAt func) (16 * vectorsOf func) then
    if write then msixWrite s func (o - msixAt func) (sliceZ data 0 len)
    else winReply s r ((msixBytes s func).drop (o - msixAt func))
  else if write then s
  else if inside (pbaAt func) (vectorsOf func / 8) then winReply s r ((pbaBytes s func).drop (o - pbaAt func))
  else winReply s r []

/-- A field of a function's configuration space written or read (R176). -/
def cfgAccess (s : State) (func : Nat) (a : HostAddr) (len : Nat) (write : Bool) (data : List Byte) : State :=
  let r := barReq func 0 len write true 0 data []
  let v := leVal (sliceZ data 0 len)
  let on (b : Bool) (l : List Nat) : List Nat := if b then addNew l func else l.filter (· != func)
  match a, write with
  | .power, true => msixSweep (s.modHost fun h => { h with d3hot := on (v % 4 == 3) h.d3hot }) func
  | .power, false => winReply s r (leBytes len (if s.host.d3hot.contains func then 3 else 0))
  | .ats, true =>
    s.modHost fun h =>
      { h with
        atsOn := on (v % 2 == 1) h.atsOn,
        atsCache := if v % 2 = 1 then h.atsCache else h.atsCache.filter fun e => e.1 != func }
  | .ats, false => winReply s r (leBytes len (b2n (s.host.atsOn.contains func)))
  | .vfBar2, true => if func = 0 ∧ 35 ≤ v ∧ v ≤ 39 then s.modHost fun h => { h with vfBar2 := v } else s
  | .vfBar2, false => winReply s r (leBytes len s.host.vfBar2)
  | _, _ => s

/-- A host access to a function. One in D3hot answers in its configuration space alone. -/
def hostAccess (s : State) (func : Nat) (a : HostAddr) (len : Nat) (write : Bool) (data : List Byte) (ecc : List EccHit) :
    State :=
  if s.present func = false ∨ s.unitUp uEndpoint = false then s
  else
    let d3 := s.host.d3hot.contains func
    match a with
    | .bar0 o => if d3 then s else barAccess s func o len write data
    | .bar2 o => if d3 then s else partWindow s func o len write data ecc
    | .bar4 o => if d3 then s else chipRequest s (barReq func (dictBase + o) len write true 0 data ecc)
    | _ => cfgAccess s func a len write data

/-- WINDOW_ACCESS (R176 to R178, R363). -/
def execWindowAccess (func : Nat) (offset : HostAddr) (len : Nat) (write : Bool) (data : List Byte) (ecc : List EccHit)
    (s : State) : Host.Outcome State Fault Refusal :=
  .next (hostAccess s func offset len write data ecc)

end Sys2Proof.Machine
end

