-- ==== Sys2Proof/Machine/Dispatch.lean ====
section
/-! DEFINITION. Which meaning each command has: one arm per constructor. -/

namespace Sys2Proof.Machine

open Sys2Proof

/-- The effect of a command on everything but the queue of waiting commands. -/
def exec (i : Instr) (s : State) : Host.Outcome State Fault Refusal :=
  match i with
  | .segmentRelease block => Sys2Proof.Machine.execSegmentRelease block s
  | .streamFetch block errA errB => Sys2Proof.Machine.execStreamFetch block errA errB s
  | .cellNop i0 cell w => Sys2Proof.Machine.execCellNop i0 cell w s
  | .ldw i0 cell w ecc => Sys2Proof.Machine.execLdw i0 cell w ecc s
  | .swap i0 cell w => Sys2Proof.Machine.execSwap i0 cell w s
  | .lda i0 cell w ecc => Sys2Proof.Machine.execLda i0 cell w ecc s
  | .mul i0 cell w f => Sys2Proof.Machine.execMul i0 cell w f s
  | .sta i0 cell w => Sys2Proof.Machine.execSta i0 cell w s
  | .clra i0 cell w => Sys2Proof.Machine.execClra i0 cell w s
  | .vecNop i0 w => Sys2Proof.Machine.execVecNop i0 w s
  | .vld i0 w ecc => Sys2Proof.Machine.execVld i0 w ecc s
  | .vst i0 w => Sys2Proof.Machine.execVst i0 w s
  | .gather i0 w ecc => Sys2Proof.Machine.execGather i0 w ecc s
  | .scatter i0 w => Sys2Proof.Machine.execScatter i0 w s
  | .scatterAdd i0 w ecc => Sys2Proof.Machine.execScatterAdd i0 w ecc s
  | .bcast i0 w => Sys2Proof.Machine.execBcast i0 w s
  | .add i0 w => Sys2Proof.Machine.execAdd i0 w s
  | .sub i0 w => Sys2Proof.Machine.execSub i0 w s
  | .vecMul i0 w => Sys2Proof.Machine.execVecMul i0 w s
  | .fma i0 w => Sys2Proof.Machine.execFma i0 w s
  | .min i0 w => Sys2Proof.Machine.execMin i0 w s
  | .max i0 w => Sys2Proof.Machine.execMax i0 w s
  | .abs i0 w => Sys2Proof.Machine.execAbs i0 w s
  | .neg i0 w => Sys2Proof.Machine.execNeg i0 w s
  | .copysign i0 w => Sys2Proof.Machine.execCopysign i0 w s
  | .cmp i0 w => Sys2Proof.Machine.execCmp i0 w s
  | .sel i0 w => Sys2Proof.Machine.execSel i0 w s
  | .iadd i0 w => Sys2Proof.Machine.execIadd i0 w s
  | .isub i0 w => Sys2Proof.Machine.execIsub i0 w s
  | .imul i0 w => Sys2Proof.Machine.execImul i0 w s
  | .shl i0 w => Sys2Proof.Machine.execShl i0 w s
  | .shr i0 w => Sys2Proof.Machine.execShr i0 w s
  | .and i0 w => Sys2Proof.Machine.execAnd i0 w s
  | .or i0 w => Sys2Proof.Machine.execOr i0 w s
  | .xor i0 w => Sys2Proof.Machine.execXor i0 w s
  | .recip i0 w => Sys2Proof.Machine.execRecip i0 w s
  | .sqrt i0 w => Sys2Proof.Machine.execSqrt i0 w s
  | .rsqrt i0 w => Sys2Proof.Machine.execRsqrt i0 w s
  | .div i0 w => Sys2Proof.Machine.execDiv i0 w s
  | .exp i0 w => Sys2Proof.Machine.execExp i0 w s
  | .exp2 i0 w => Sys2Proof.Machine.execExp2 i0 w s
  | .log i0 w => Sys2Proof.Machine.execLog i0 w s
  | .log2 i0 w => Sys2Proof.Machine.execLog2 i0 w s
  | .tanh i0 w => Sys2Proof.Machine.execTanh i0 w s
  | .sigmoid i0 w => Sys2Proof.Machine.execSigmoid i0 w s
  | .erf i0 w => Sys2Proof.Machine.execErf i0 w s
  | .sin i0 w => Sys2Proof.Machine.execSin i0 w s
  | .cos i0 w => Sys2Proof.Machine.execCos i0 w s
  | .cvt i0 w => Sys2Proof.Machine.execCvt i0 w s
  | .cvtMx i0 w => Sys2Proof.Machine.execCvtMx i0 w s
  | .rsum i0 w => Sys2Proof.Machine.execRsum i0 w s
  | .rmax i0 w => Sys2Proof.Machine.execRmax i0 w s
  | .rmin i0 w => Sys2Proof.Machine.execRmin i0 w s
  | .argmax i0 w => Sys2Proof.Machine.execArgmax i0 w s
  | .argmin i0 w => Sys2Proof.Machine.execArgmin i0 w s
  | .mvNop i0 channel w => Sys2Proof.Machine.execMvNop i0 channel w s
  | .copy i0 channel w ecc => Sys2Proof.Machine.execCopy i0 channel w ecc s
  | .coll i0 channel w ecc => Sys2Proof.Machine.execColl i0 channel w ecc s
  | .ctlNop block w => Sys2Proof.Machine.execCtlNop block w s
  | .sync block w => Sys2Proof.Machine.execSync block w s
  | .stepEnd block w => Sys2Proof.Machine.execStepEnd block w s
  | .loop block w => Sys2Proof.Machine.execLoop block w s
  | .wait block w => Sys2Proof.Machine.execWait block w s
  | .finalize i0 w => Sys2Proof.Machine.execFinalize i0 w s
  | .dbase block w => Sys2Proof.Machine.execDbase block w s
  | .arrivalDelivery d => Sys2Proof.Machine.execArrivalDelivery d s
  | .digestCompare block maskA maskB => Sys2Proof.Machine.execDigestCompare block maskA maskB s
  | .yarrowVerdict block => Sys2Proof.Machine.execYarrowVerdict block s
  | .sramEccWriteback block word => Sys2Proof.Machine.execSramEccWriteback block word s
  | .memoryRequest r => Sys2Proof.Machine.execMemoryRequest r s
  | .journalCopy part page => Sys2Proof.Machine.execJournalCopy part page s
  | .hbmPatrolRead stack sector ecc last => Sys2Proof.Machine.execHbmPatrolRead stack sector ecc last s
  | .patrolOverrun stack left => Sys2Proof.Machine.execPatrolOverrun stack left s
  | .hbmOdeccPoll stack count => Sys2Proof.Machine.execHbmOdeccPoll stack count s
  | .zeroWatermarkPass u mark => Sys2Proof.Machine.execZeroWatermarkPass u mark s
  | .zeroingComplete u => Sys2Proof.Machine.execZeroingComplete u s
  | .cmpPartOwner who inst value => Sys2Proof.Machine.execCmpPartOwner who inst value s
  | .cmpPartTag who inst value => Sys2Proof.Machine.execCmpPartTag who inst value s
  | .cmpBlockPart who inst value => Sys2Proof.Machine.execCmpBlockPart who inst value s
  | .memSlicePart who inst value => Sys2Proof.Machine.execMemSlicePart who inst value s
  | .memSliceUse who inst value => Sys2Proof.Machine.execMemSliceUse who inst value s
  | .memSliceHost who inst value => Sys2Proof.Machine.execMemSliceHost who inst value s
  | .fabPortAdmin who port value => Sys2Proof.Machine.execFabPortAdmin who port value s
  | .portFullRetrain who port => Sys2Proof.Machine.execPortFullRetrain who port s
  | .portClearCounters who port => Sys2Proof.Machine.execPortClearCounters who port s
  | .fabLaneOutClr who inst value => Sys2Proof.Machine.execFabLaneOutClr who inst value s
  | .trainingAttemptFail port stage lane noSignal => Sys2Proof.Machine.execTrainingAttemptFail port stage lane noSignal s
  | .portDownRetry port => Sys2Proof.Machine.execPortDownRetry port s
  | .hello port h latency lanesPass => Sys2Proof.Machine.execHello port h latency lanesPass s
  | .txSlot port => Sys2Proof.Machine.execTxSlot port s
  | .data port a => Sys2Proof.Machine.execData port a s
  | .nak port f => Sys2Proof.Machine.execNak port f s
  | .null port f => Sys2Proof.Machine.execNull port f s
  | .ackNullSend port => Sys2Proof.Machine.execAckNullSend port s
  | .replayTimerExpiry port => Sys2Proof.Machine.execReplayTimerExpiry port s
  | .laneWindowEnd port counts => Sys2Proof.Machine.execLaneWindowEnd port counts s
  | .lossOfLock port lanes => Sys2Proof.Machine.execLossOfLock port lanes s
  | .spareReq port moves => Sys2Proof.Machine.execSpareReq port moves s
  | .spareOffer port o => Sys2Proof.Machine.execSpareOffer port o s
  | .spareGo port moves => Sys2Proof.Machine.execSpareGo port moves s
  | .fastRetrainResume port => Sys2Proof.Machine.execFastRetrainResume port s
  | .widthReduction port tx pass => Sys2Proof.Machine.execWidthReduction port tx pass s
  | .creditSync port freed => Sys2Proof.Machine.execCreditSync port freed s
  | .creditSyncSend port => Sys2Proof.Machine.execCreditSyncSend port s
  | .pause port mask time => Sys2Proof.Machine.execPause port mask time s
  | .pauseSend vc flits => Sys2Proof.Machine.execPauseSend vc flits s
  | .pauseExpiry port vc => Sys2Proof.Machine.execPauseExpiry port vc s
  | .clockUpstreamLoss left => Sys2Proof.Machine.execClockUpstreamLoss left s
  | .fabClkUp who value => Sys2Proof.Machine.execFabClkUp who value s
  | .moduleInsert m => Sys2Proof.Machine.execModuleInsert m s
  | .moduleIdentified m info => Sys2Proof.Machine.execModuleIdentified m info s
  | .moduleRemove m => Sys2Proof.Machine.execModuleRemove m s
  | .laserMonitorRead m r => Sys2Proof.Machine.execLaserMonitorRead m r s
  | .laserFaultFlag m wave flags => Sys2Proof.Machine.execLaserFaultFlag m wave flags s
  | .laserHoursWrite m => Sys2Proof.Machine.execLaserHoursWrite m s
  | .bolWrite m bias => Sys2Proof.Machine.execBolWrite m bias s
  | .packetInject p => Sys2Proof.Machine.execPacketInject p s
  | .packetRoute port p a => Sys2Proof.Machine.execPacketRoute port p a s
  | .packetEject p ecc => Sys2Proof.Machine.execPacketEject p ecc s
  | .fabRtState who inst value => Sys2Proof.Machine.execFabRtState who inst value s
  | .fabEpochInj who value => Sys2Proof.Machine.execFabEpochInj who value s
  | .versionRetire v => Sys2Proof.Machine.execVersionRetire v s
  | .portHoldExpiry port => Sys2Proof.Machine.execPortHoldExpiry port s
  | .e2eRetransmit peer vc eseq => Sys2Proof.Machine.execE2eRetransmit peer vc eseq s
  | .e2eAckSend peer vc => Sys2Proof.Machine.execE2eAckSend peer vc s
  | .windowAcknowledgement peer vc cum bits resync incarn => Sys2Proof.Machine.execWindowAcknowledgement peer vc cum bits resync incarn s
  | .contextEvict source peer vc => Sys2Proof.Machine.execContextEvict source peer vc s
  | .shaperDecision func => Sys2Proof.Machine.execShaperDecision func s
  | .fabShpRate who func value => Sys2Proof.Machine.execFabShpRate who func value s
  | .fabShpLevel who func value => Sys2Proof.Machine.execFabShpLevel who func value s
  | .fabDmap who inst value => Sys2Proof.Machine.execFabDmap who inst value s
  | .fabVc1Res who inst value => Sys2Proof.Machine.execFabVc1Res who inst value s
  | .collCombine part entry chunk member data poison => Sys2Proof.Machine.execCollCombine part entry chunk member data poison s
  | .sqTailDb func queue value => Sys2Proof.Machine.execSqTailDb func queue value s
  | .cqHeadDb func queue value => Sys2Proof.Machine.execCqHeadDb func queue value s
  | .queueEnable func queue => Sys2Proof.Machine.execQueueEnable func queue s
  | .normalDisable func queue => Sys2Proof.Machine.execNormalDisable func queue s
  | .forcedDisable func queue => Sys2Proof.Machine.execForcedDisable func queue s
  | .queueContextWrite func queue hi lo value => Sys2Proof.Machine.execQueueContextWrite func queue hi lo value s
  | .sqFetch => Sys2Proof.Machine.execSqFetch s
  | .nop mover => Sys2Proof.Machine.execNop mover s
  | .write mover ats => Sys2Proof.Machine.execWrite mover ats s
  | .read mover ats ecc => Sys2Proof.Machine.execRead mover ats ecc s
  | .hostCopy mover ecc => Sys2Proof.Machine.execHostCopy mover ecc s
  | .planLoad mover ats => Sys2Proof.Machine.execPlanLoad mover ats s
  | .planLoadChecksDone part keep => Sys2Proof.Machine.execPlanLoadChecksDone part keep s
  | .planRun mover => Sys2Proof.Machine.execPlanRun mover s
  | .planStop mover => Sys2Proof.Machine.execPlanStop mover s
  | .planUnload mover => Sys2Proof.Machine.execPlanUnload mover s
  | .fence mover => Sys2Proof.Machine.execFence mover s
  | .mark mover => Sys2Proof.Machine.execMark mover s
  | .hostMoverComplete mover => Sys2Proof.Machine.execHostMoverComplete mover s
  | .hostCmdTimeout mover => Sys2Proof.Machine.execHostCmdTimeout mover s
  | .coalesceTimeout queue => Sys2Proof.Machine.execCoalesceTimeout queue s
  | .functionNormalDisableAll who func => Sys2Proof.Machine.execFunctionNormalDisableAll who func s
  | .functionForcedDisableAll who func => Sys2Proof.Machine.execFunctionForcedDisableAll who func s
  | .functionReset who func => Sys2Proof.Machine.execFunctionReset who func s
  | .functionLevelReset func => Sys2Proof.Machine.execFunctionLevelReset func s
  | .hotReset => Sys2Proof.Machine.execHotReset s
  | .vfEnableClear => Sys2Proof.Machine.execVfEnableClear s
  | .hostFnQbase who func value => Sys2Proof.Machine.execHostFnQbase who func value s
  | .hostFnQcount who func value => Sys2Proof.Machine.execHostFnQcount who func value s
  | .windowAccess func offset len write data ecc => Sys2Proof.Machine.execWindowAccess func offset len write data ecc s
  | .timeIncr who value => Sys2Proof.Machine.execTimeIncr who value s
  | .timeStepNs who value => Sys2Proof.Machine.execTimeStepNs who value s
  | .offsetStepApply => Sys2Proof.Machine.execOffsetStepApply s
  | .timeMasterPort who value => Sys2Proof.Machine.execTimeMasterPort who value s
  | .timeNowSec who => Sys2Proof.Machine.execTimeNowSec who s
  | .syncSend => Sys2Proof.Machine.execSyncSend s
  | .syncMessage m => Sys2Proof.Machine.execSyncMessage m s
  | .pdelayInitiate => Sys2Proof.Machine.execPdelayInitiate s
  | .pdelayReq m => Sys2Proof.Machine.execPdelayReq m s
  | .pdelayResp m => Sys2Proof.Machine.execPdelayResp m s
  | .syncLoss => Sys2Proof.Machine.execSyncLoss s
  | .sealVote part => Sys2Proof.Machine.execSealVote part s
  | .deltaWaitExpiry part => Sys2Proof.Machine.execDeltaWaitExpiry part s
  | .vote part child v => Sys2Proof.Machine.execVote part child v s
  | .commit part c => Sys2Proof.Machine.execCommit part c s
  | .restoreComplete part pages => Sys2Proof.Machine.execRestoreComplete part pages s
  | .rolled part child m => Sys2Proof.Machine.execRolled part child m s
  | .rolledResend part => Sys2Proof.Machine.execRolledResend part s
  | .resume part m => Sys2Proof.Machine.execResume part m s
  | .ready part child m => Sys2Proof.Machine.execReady part child m s
  | .deltaPageSend r => Sys2Proof.Machine.execDeltaPageSend r s
  | .deltaPageReceive p => Sys2Proof.Machine.execDeltaPageReceive p s
  | .deltaPageAck part step page filling refused => Sys2Proof.Machine.execDeltaPageAck part step page filling refused s
  | .fillingPageSend r => Sys2Proof.Machine.execFillingPageSend r s
  | .mergeComplete srcChip srcPart => Sys2Proof.Machine.execMergeComplete srcChip srcPart s
  | .sealAdoptCmd who part h => Sys2Proof.Machine.execSealAdoptCmd who part h s
  | .adoptionPullComplete part pages => Sys2Proof.Machine.execAdoptionPullComplete part pages s
  | .sealBuddy who part value => Sys2Proof.Machine.execSealBuddy who part value s
  | .heartbeatSend => Sys2Proof.Machine.execHeartbeatSend s
  | .heartbeat port h b => Sys2Proof.Machine.execHeartbeat port h b s
  | .neighbourMiss port => Sys2Proof.Machine.execNeighbourMiss port s
  | .report h r => Sys2Proof.Machine.execReport h r s
  | .probeTimeout subject => Sys2Proof.Machine.execProbeTimeout subject s
  | .probeAnswer subject status auth => Sys2Proof.Machine.execProbeAnswer subject status auth s
  | .reject h subject status => Sys2Proof.Machine.execReject h subject status s
  | .arbWaitExpiry subject => Sys2Proof.Machine.execArbWaitExpiry subject s
  | .faultNotice port h n => Sys2Proof.Machine.execFaultNotice port h n s
  | .stewardCycleEnd => Sys2Proof.Machine.execStewardCycleEnd s
  | .stateCopy complete crcOk swap copy => Sys2Proof.Machine.execStateCopy complete crcOk swap copy s
  | .stateCopyMissing => Sys2Proof.Machine.execStateCopyMissing s
  | .clvStwCmd who value => Sys2Proof.Machine.execClvStwCmd who value s
  | .powerOn adc => Sys2Proof.Machine.execPowerOn adc s
  | .porstnAssert ns honour => Sys2Proof.Machine.execPorstnAssert ns honour s
  | .porstnHeld => Sys2Proof.Machine.execPorstnHeld s
  | .porstnRelease adc => Sys2Proof.Machine.execPorstnRelease adc s
  | .fccWatchdogExpiry => Sys2Proof.Machine.execFccWatchdogExpiry s
  | .thermalTrip => Sys2Proof.Machine.execThermalTrip s
  | .thermalTripClear => Sys2Proof.Machine.execThermalTripClear s
  | .warmReset who => Sys2Proof.Machine.execWarmReset who s
  | .leaveRecoveryBoot who => Sys2Proof.Machine.execLeaveRecoveryBoot who s
  | .pcieFundamentalReset => Sys2Proof.Machine.execPcieFundamentalReset s
  | .rstDomCmd who unit value => Sys2Proof.Machine.execRstDomCmd who unit value s
  | .domainResetExit unit fail => Sys2Proof.Machine.execDomainResetExit unit fail s
  | .bringupStageEnd e => Sys2Proof.Machine.execBringupStageEnd e s
  | .pwrGoodFall => Sys2Proof.Machine.execPwrGoodFall s
  | .pwrGoodTimeout => Sys2Proof.Machine.execPwrGoodTimeout s
  | .plannedTimerExpiry unit operation => Sys2Proof.Machine.execPlannedTimerExpiry unit operation s
  | .gatekeeperRequest r => Sys2Proof.Machine.execGatekeeperRequest r s
  | .statusReply requester rid chip unit gen st => Sys2Proof.Machine.execStatusReply requester rid chip unit gen st s
  | .replyReceive requester rid chip unit gen data poison => Sys2Proof.Machine.execReplyReceive requester rid chip unit gen data poison s
  | .rstImgData who bytes => Sys2Proof.Machine.execRstImgData who bytes s
  | .imgErase who => Sys2Proof.Machine.execImgErase who s
  | .imgCheck who => Sys2Proof.Machine.execImgCheck who s
  | .imgEraseDone => Sys2Proof.Machine.execImgEraseDone s
  | .imgCheckDone c => Sys2Proof.Machine.execImgCheckDone c s
  | .droopStretch ns windowNs => Sys2Proof.Machine.execDroopStretch ns windowNs s
  | .powerCapOvershoot => Sys2Proof.Machine.execPowerCapOvershoot s
  | .pwrCapW who value => Sys2Proof.Machine.execPwrCapW who value s
  | .ledgerRecord e => Sys2Proof.Machine.execLedgerRecord e s
  | .ledgerQueueDrain => Sys2Proof.Machine.execLedgerQueueDrain s
  | .flashProgram ok => Sys2Proof.Machine.execFlashProgram ok s
  | .ldgFlushExpiry ok => Sys2Proof.Machine.execLdgFlushExpiry ok s
  | .flashEraseDone sector ok => Sys2Proof.Machine.execFlashEraseDone sector ok s
  | .ldgClear who value => Sys2Proof.Machine.execLdgClear who value s
  | .ldgOvr who slot value => Sys2Proof.Machine.execLdgOvr who slot value s
  | .tallyStart who ch => Sys2Proof.Machine.execTallyStart who ch s
  | .tallyStop who ch => Sys2Proof.Machine.execTallyStop who ch s
  | .tallyClearLanes who ch => Sys2Proof.Machine.execTallyClearLanes who ch s
  | .tallyChunkRead ch ecc => Sys2Proof.Machine.execTallyChunkRead ch ecc s
  | .tallyScanEnd ch => Sys2Proof.Machine.execTallyScanEnd ch s
  | .tallyPeriod ch => Sys2Proof.Machine.execTallyPeriod ch s
  | .tlyLane who ch lane value => Sys2Proof.Machine.execTlyLane who ch lane value s
  | .odapOpen f => Sys2Proof.Machine.execOdapOpen f s
  | .odapClose f => Sys2Proof.Machine.execOdapClose f s
  | .sessionIdleTimeout slot => Sys2Proof.Machine.execSessionIdleTimeout slot s
  | .request f => Sys2Proof.Machine.execRequest f s
  | .relayReq f => Sys2Proof.Machine.execRelayReq f s
  | .relayResp f => Sys2Proof.Machine.execRelayResp f s
  | .relayTimeout sseq => Sys2Proof.Machine.execRelayTimeout sseq s
  | .probe f => Sys2Proof.Machine.execProbe f s
  | .status f => Sys2Proof.Machine.execStatus f s
  | .statusBroadcast => Sys2Proof.Machine.execStatusBroadcast s
  | .mboxGo func box => Sys2Proof.Machine.execMboxGo func box s
  | .vc0MgmtRequest h f => Sys2Proof.Machine.execVc0MgmtRequest h f s
  | .vc0MgmtResponse h f => Sys2Proof.Machine.execVc0MgmtResponse h f s
  | .vc0MgmtTimeout seq => Sys2Proof.Machine.execVc0MgmtTimeout seq s
  | .keyWrite who sub key => Sys2Proof.Machine.execKeyWrite who sub key s
  | .mgtKeyFabSel who value => Sys2Proof.Machine.execMgtKeyFabSel who value s
  | .plcaBeaconLoss lost => Sys2Proof.Machine.execPlcaBeaconLoss lost s
  | .registerWrite who index sub inst value => Sys2Proof.Machine.execRegisterWrite who index sub inst value s
  | .frzAt who value => Sys2Proof.Machine.execFrzAt who value s
  | .freezeFire => Sys2Proof.Machine.execFreezeFire s
  | .frzPodGo who => Sys2Proof.Machine.execFrzPodGo who s
  | .trcFccMark who value => Sys2Proof.Machine.execTrcFccMark who value s
  | .traceRingDrain region => Sys2Proof.Machine.execTraceRingDrain region s
  | .lifeSample tempC vddMv powerW => Sys2Proof.Machine.execLifeSample tempC vddMv powerW s
  | .lifeSave => Sys2Proof.Machine.execLifeSave s
  | .marginTestStart => Sys2Proof.Machine.execMarginTestStart s
  | .marginStepDone passed => Sys2Proof.Machine.execMarginStepDone passed s
  | .timeCounterTick => Sys2Proof.Machine.execTimeCounterTick s
  | .flitCrcFailure port fail => Sys2Proof.Machine.execFlitCrcFailure port fail s
  | .fecAligned port ok lanes => Sys2Proof.Machine.execFecAligned port ok lanes s
  | .clockLockAcquired => Sys2Proof.Machine.execClockLockAcquired s
  | .pwrGoodRise => Sys2Proof.Machine.execPwrGoodRise s
  | .standbyPowerLoss => Sys2Proof.Machine.execStandbyPowerLoss s
  | .orderlyShutdown => Sys2Proof.Machine.execOrderlyShutdown s
  | .policyClamp cause clear => Sys2Proof.Machine.execPolicyClamp cause clear s
  | .powerCapHold watts => Sys2Proof.Machine.execPowerCapHold watts s
  | .penaltyPointDecay unit => Sys2Proof.Machine.execPenaltyPointDecay unit s
  | .delayedRollbackStart part => Sys2Proof.Machine.execDelayedRollbackStart part s
  | .pcieLinkUpOrDown speed width flit => Sys2Proof.Machine.execPcieLinkUpOrDown speed width flit s
  | .aerUncorrectableError func status => Sys2Proof.Machine.execAerUncorrectableError func status s
  | .atsInvalidation func page => Sys2Proof.Machine.execAtsInvalidation func page s
  | .vfEnableSet numVfs => Sys2Proof.Machine.execVfEnableSet numVfs s
  | .perstRelease => Sys2Proof.Machine.execPerstRelease s
  | .rcRead who field => Sys2Proof.Machine.execRcRead who field s
  | .hbmRefresh stack kind => Sys2Proof.Machine.execHbmRefresh stack kind s

end Sys2Proof.Machine
end

