-- ==== Sys2Proof/Safety.lean ====
section
/-! DEFINITION. What counts as a run that has not stopped; the places of the state that a command may change; the
invariant that every step keeps. -/

namespace Sys2Proof.Machine

open Sys2Proof

/-- The block is safe in a state when its next step answers a state: it neither faults nor is refused. -/
def Safe (s : State) : Prop := ∃ t, step s = .next t

/-- A command completes from a state, and the state it leaves has a property. -/
def Does (c : Instr) (s : State) (P : State → Prop) : Prop := ∃ t, exec c s = .next t ∧ P t

/-- A consumer takes a copy of a slot (R86). -/
def Taken (s : State) (i : Issue) (con : Nat) : Prop := (accept s i con).2 = true

/-- A write of an entry passes the checks of R353. -/
def Allowed (s : State) (w : Who) (r : Reg) (i v : Nat) : Prop := checkWrite s w r i v = rOk

/-! ### Places of the state

A place is a number. 0 to 21 are the fields of the state in their order, without the dictionary; a number from 0x1000 on
is a dictionary index (R350), with every entry and instance of it; 0x7100 stands for the sixteen Tally channels. In a
list of places, 31 stands for every index. -/

def plPending : Nat := 0
def plOdBytes : Nat := 1
def plMem : Nat := 2
def plPoison : Nat := 3
def plTime : Nat := 4
def plBlocks : Nat := 5
def plParts : Nat := 6
def plBuddies : Nat := 7
def plMsys : Nat := 8
def plPorts : Nat := 9
def plLasers : Nat := 10
def plRouter : Nat := 11
def plHost : Nat := 12
def plClover : Nat := 13
def plRst : Nat := 14
def plPower : Nat := 15
def plLedger : Nat := 16
def plTally : Nat := 17
def plMgmt : Nat := 18
def plObs : Nat := 19
def plOutbox : Nat := 20
def plFree : Nat := 21
def plDict : Nat := 31

/-- The place of a dictionary key. -/
def odPlace (k : Nat) : Nat :=
  let x := k / 16777216
  if 0x7100 ≤ x ∧ x < 0x7110 then 0x7100 else max x plDict

/-- Two states agree at a place. -/
def SameAt (p : Nat) (s t : State) : Prop :=
  match p with
  | 0 => s.pending = t.pending
  | 1 => s.odBytes = t.odBytes
  | 2 => s.mem = t.mem
  | 3 => s.poison = t.poison
  | 4 => s.time = t.time
  | 5 => s.blocks = t.blocks
  | 6 => s.parts = t.parts
  | 7 => s.buddies = t.buddies
  | 8 => s.msys = t.msys
  | 9 => s.ports = t.ports
  | 10 => s.lasers = t.lasers
  | 11 => s.router = t.router
  | 12 => s.host = t.host
  | 13 => s.clover = t.clover
  | 14 => s.rst = t.rst
  | 15 => s.power = t.power
  | 16 => s.ledger = t.ledger
  | 17 => s.tally = t.tally
  | 18 => s.mgmt = t.mgmt
  | 19 => s.obs = t.obs
  | 20 => s.outbox = t.outbox
  | 21 => s.free = t.free
  | x => ∀ k, odPlace k = x → mapFind s.od k = mapFind t.od k

/-- Two states agree at every place outside a list. -/
def SameBut (l : List Nat) (s t : State) : Prop :=
  ∀ p, p ∉ l → (plDict ∈ l → p < 22) → SameAt p s t

/-! ### What a statement says of a command -/

/-- A write completes: the state it leaves has a property, and the answer to its sender is that it took effect. -/
def Writes (w : Who) (c : Instr) (s : State) (P : State → Prop) : Prop :=
  Does c s fun t => P t ∧ t.outbox.getLast? = some (.answer w rOk)

/-- A write is turned away: nothing changes but the answer, which says why. -/
def TurnedAway (w : Who) (c : Instr) (s : State) (reason : Nat) : Prop := exec c s = .next (s.emit (.answer w reason))

/-- One event, and no other, was presented to the Ledger. -/
def Logged (s t : State) (code source : Nat) (fs : List (Nat × Nat)) : Prop := t.ledger = (s.record code source fs).ledger

/-- A counter advanced by `n` that stays at its largest value. -/
def Counted (s t : State) (r : Reg) (i n : Nat) : Prop := t.rd r i = min (s.rd r i + n) (2 ^ regBits r - 1)

/-- Every byte of memory outside a set of addresses is as it was. -/
def MemBut (inside : Nat → Prop) (s t : State) : Prop := ∀ a, ¬ inside a → memByte t.mem a = memByte s.mem a

/-- An address inside one of a list of ranges. -/
def Within (rs : List (Nat × Nat)) (a : Nat) : Prop := ∃ c ∈ rs, c.1 ≤ a ∧ a < c.1 + c.2

/-! ### What each command may change -/

/-- The places a command may change: fields of the state and dictionary indices. It changes nothing else, whatever its
operands and whatever the state. -/
def touches : Instr → List Nat
  | .segmentRelease .. =>
    [5, 6, 16, 19, 0x3010, 0x3011, 0x7002, 0x8200]
  | .streamFetch .. =>
    [5, 6, 8, 9, 13, 16, 20, 0x3020, 0x3021, 0x3410, 0x3411, 0x4110, 0x4140, 0x6202, 0x7002, 0x9000, 0x9001, 0x9010]
  | .cellNop .. | .swap .. | .clra .. | .vecNop .. | .bcast .. | .mvNop .. | .finalize .. =>
    [5, 6, 9, 13, 16, 20, 0x3020, 0x3021, 0x4110, 0x4140, 0x6202, 0x7002, 0x9000, 0x9001]
  | .ldw .. | .lda .. | .vld .. =>
    [5, 6, 8, 9, 13, 16, 20, 0x3020, 0x3021, 0x3410, 0x3411, 0x4110, 0x4140, 0x6202, 0x7002, 0x8200, 0x9000, 0x9001,
     0x9010]
  | .mul .. =>
    [5, 6, 8, 9, 13, 16, 20, 0x3020, 0x3021, 0x3040, 0x4110, 0x4140, 0x6010, 0x6011, 0x6012, 0x6202, 0x7002, 0x8200,
     0x9000, 0x9001, 0x9010]
  | .sta .. =>
    [2, 3, 5, 6, 8, 9, 13, 16, 19, 20, 21, 0x3020, 0x3021, 0x3040, 0x3410, 0x3411, 0x4110, 0x4140, 0x6010, 0x6011,
     0x6101, 0x6102, 0x6202, 0x7002, 0x8200, 0x9000, 0x9001, 0x9010]
  | .vst .. =>
    [2, 3, 5, 6, 8, 9, 13, 16, 19, 20, 21, 0x3020, 0x3021, 0x3040, 0x3410, 0x3411, 0x4110, 0x4140, 0x6101, 0x6102,
     0x6202, 0x7002, 0x8200, 0x9000, 0x9001, 0x9010]
  | .gather .. =>
    [5, 6, 8, 9, 13, 16, 20, 0x3020, 0x3021, 0x3040, 0x3410, 0x3411, 0x4110, 0x4140, 0x6202, 0x7002, 0x8200, 0x9000,
     0x9001, 0x9010]
  | .scatter .. =>
    [2, 3, 5, 6, 9, 13, 16, 20, 0x3020, 0x3021, 0x3040, 0x4110, 0x4140, 0x6101, 0x6102, 0x6202, 0x7002, 0x8200,
     0x9000, 0x9001]
  | .scatterAdd .. | .cvtMx .. =>
    [2, 3, 5, 6, 8, 9, 13, 16, 20, 0x3020, 0x3021, 0x3040, 0x3410, 0x3411, 0x4110, 0x4140, 0x6101, 0x6102, 0x6202,
     0x7002, 0x8200, 0x9000, 0x9001, 0x9010]
  | .add .. | .sub .. | .vecMul .. | .fma .. | .min .. | .max .. | .abs .. | .neg .. | .copysign .. | .cmp .. |
   .sel .. | .iadd .. | .isub .. | .imul .. | .shl .. | .shr .. | .and .. | .or .. | .xor .. | .recip .. | .sqrt .. |
   .rsqrt .. | .div .. | .exp .. | .exp2 .. | .log .. | .log2 .. | .tanh .. | .sigmoid .. | .erf .. | .sin .. |
   .cos .. | .rsum .. | .rmax .. | .rmin .. | .argmax .. | .argmin .. =>
    [5, 6, 9, 13, 16, 20, 0x3020, 0x3021, 0x3040, 0x4110, 0x4140, 0x6202, 0x7002, 0x9000, 0x9001]
  | .cvt .. =>
    [5, 6, 8, 9, 13, 16, 20, 21, 0x3020, 0x3021, 0x3040, 0x3410, 0x3411, 0x4110, 0x4140, 0x6202, 0x7002, 0x9000,
     0x9001, 0x9010]
  | .copy .. | .coll .. =>
    [2, 3, 5, 6, 8, 9, 11, 12, 13, 14, 16, 19, 20, 0x2020, 0x2021, 0x3000, 0x3001, 0x3010, 0x3011, 0x3020, 0x3021,
     0x3403, 0x3410, 0x3411, 0x4110, 0x4120, 0x4130, 0x4140, 0x6101, 0x6102, 0x6202, 0x7002, 0x8100, 0x8200, 0x9000,
     0x9001, 0x9010]
  | .ctlNop .. | .loop .. | .wait .. | .dbase .. =>
    [5]
  | .sync .. =>
    [5, 6, 16, 0x3010, 0x3011, 0x7002, 0x8200]
  | .stepEnd .. =>
    [5, 6, 16, 0x3000, 0x3010, 0x3011, 0x3021, 0x7002, 0x8200]
  | .arrivalDelivery .. =>
    [2, 3, 5, 6, 11, 16, 0x3021, 0x6101, 0x6102, 0x7002, 0x8200]
  | .digestCompare .. =>
    [5, 6, 9, 13, 16, 20, 0x3020, 0x4110, 0x4140, 0x6010, 0x6202, 0x7002, 0x9000, 0x9001]
  | .yarrowVerdict .. =>
    [5, 6, 8, 9, 13, 16, 20, 0x4110, 0x4140, 0x6010, 0x6011, 0x6012, 0x6202, 0x7002, 0x9000, 0x9001, 0x9010]
  | .sramEccWriteback .. | .hbmRefresh .. =>
    [8]
  | .memoryRequest .. | .windowAccess .. | .request .. | .relayReq .. | .mboxGo .. | .vc0MgmtRequest .. |
   .keyWrite .. | .registerWrite .. =>
    [1, 2, 3, 4, 5, 6, 7, 8, 9, 10, 11, 12, 13, 14, 15, 16, 17, 18, 19, 20, 21, 31]
  | .journalCopy .. =>
    [2, 3, 5, 6, 0x3021, 0x6101, 0x8200]
  | .hbmPatrolRead .. =>
    [6, 8, 9, 13, 16, 20, 0x3410, 0x3411, 0x3420, 0x4110, 0x4140, 0x6202, 0x7002, 0x9000, 0x9001, 0x9010]
  | .patrolOverrun .. | .powerCapOvershoot .. | .ledgerRecord .. | .ledgerQueueDrain .. | .flashProgram .. |
   .ldgFlushExpiry .. | .flashEraseDone .. =>
    [16, 0x7002]
  | .hbmOdeccPoll .. =>
    [0x3411]
  | .zeroWatermarkPass .. =>
    [2, 3, 5, 6, 8, 9, 11, 12, 13, 14, 16, 19, 20, 0x2020, 0x2021, 0x3000, 0x3001, 0x3010, 0x3011, 0x3021, 0x3401,
     0x3402, 0x3403, 0x3410, 0x3411, 0x4110, 0x4120, 0x4130, 0x4140, 0x6101, 0x6102, 0x6202, 0x7002, 0x8100, 0x9000,
     0x9001, 0x9010]
  | .zeroingComplete .. =>
    [2, 3, 4, 5, 6, 8, 9, 11, 12, 13, 14, 15, 16, 19, 20, 21, 0x2020, 0x2021, 0x2100, 0x2101, 0x3000, 0x3001, 0x3010,
     0x3011, 0x3021, 0x3401, 0x3402, 0x3403, 0x3410, 0x3411, 0x4110, 0x4120, 0x4130, 0x4140, 0x5801, 0x6100, 0x6101,
     0x6102, 0x6202, 0x7002, 0x8100, 0x9000, 0x9001, 0x9010]
  | .cmpPartOwner .. =>
    [7, 12, 16, 19, 20, 31]
  | .cmpPartTag .. =>
    [20, 0x3100, 0x6203]
  | .cmpBlockPart .. =>
    [7, 16, 19, 20, 0x3101, 0x3401, 0x3402, 0x3403, 0x7002, 0x9011]
  | .memSlicePart .. | .memSliceUse .. =>
    [7, 16, 20, 0x3400, 0x3401, 0x3402, 0x3403, 0x7002]
  | .memSliceHost .. =>
    [7, 20, 0x3400]
  | .fabPortAdmin .. =>
    [4, 6, 9, 10, 11, 13, 16, 20, 0x4000, 0x4001, 0x4110, 0x4140, 0x4400, 0x5804, 0x7002, 0x9000, 0x9001, 0x9010]
  | .portFullRetrain .. =>
    [4, 6, 9, 11, 13, 16, 20, 0x4000, 0x4001, 0x4110, 0x4140, 0x4400, 0x5804, 0x7002, 0x9000, 0x9001, 0x9010]
  | .portClearCounters .. | .fabDmap .. =>
    [20, 31]
  | .fabLaneOutClr .. =>
    [9, 20, 0x4010]
  | .trainingAttemptFail .. =>
    [4, 6, 9, 16, 0x4000, 0x4110, 0x4140, 0x5804, 0x7002]
  | .portDownRetry .. | .replayTimerExpiry .. =>
    [4, 6, 9, 11, 13, 16, 0x4000, 0x4001, 0x4110, 0x4140, 0x4400, 0x5804, 0x7002, 0x9000, 0x9001, 0x9010]
  | .hello .. =>
    [4, 6, 9, 11, 13, 16, 17, 0x4000, 0x4001, 0x4010, 0x4020, 0x4110, 0x4140, 0x4400, 0x5804, 0x7002, 0x9000, 0x9001,
     0x9010]
  | .txSlot .. =>
    [4, 6, 9, 16, 20, 0x3010, 0x3011, 0x4001, 0x4110, 0x7002]
  | .data .. | .nak .. | .null .. =>
    [2, 3, 4, 5, 6, 8, 9, 11, 12, 13, 14, 16, 17, 19, 20, 21, 0x2020, 0x2021, 0x3000, 0x3001, 0x3010, 0x3011, 0x3021,
     0x3403, 0x3410, 0x3411, 0x4000, 0x4001, 0x4010, 0x4020, 0x4110, 0x4120, 0x4130, 0x4140, 0x4400, 0x5801, 0x5804,
     0x5810, 0x6101, 0x6102, 0x6202, 0x7002, 0x8100, 0x9000, 0x9001, 0x9010]
  | .ackNullSend .. =>
    [4, 9, 20]
  | .laneWindowEnd .. | .lossOfLock .. | .spareOffer .. =>
    [4, 6, 9, 11, 13, 16, 0x4000, 0x4001, 0x4010, 0x4110, 0x4140, 0x4400, 0x5804, 0x7002, 0x9000, 0x9001, 0x9010]
  | .spareReq .. | .creditSyncSend .. =>
    [9]
  | .spareGo .. =>
    [9, 13, 16, 0x4010, 0x7002, 0x9000, 0x9001, 0x9010]
  | .fastRetrainResume .. | .fecAligned .. =>
    [4, 6, 9, 11, 13, 16, 20, 0x4000, 0x4001, 0x4010, 0x4110, 0x4140, 0x4400, 0x5804, 0x7002, 0x9000, 0x9001, 0x9010]
  | .widthReduction .. =>
    [4, 6, 9, 13, 16, 0x4000, 0x4010, 0x4110, 0x4140, 0x5804, 0x7002, 0x9000, 0x9001, 0x9010]
  | .creditSync .. =>
    [0x4110]
  | .pause .. | .pauseExpiry .. =>
    [9, 0x4110]
  | .pauseSend .. =>
    [9, 11]
  | .clockUpstreamLoss .. =>
    [9, 11, 16, 0x4020, 0x7002]
  | .fabClkUp .. =>
    [9, 11, 16, 20, 0x4020, 0x7002]
  | .moduleInsert .. =>
    [0x4400]
  | .moduleIdentified .. =>
    [1, 9, 10, 13, 16, 20, 0x4000, 0x4400, 0x4401, 0x7002, 0x9000, 0x9001]
  | .moduleRemove .. =>
    [4, 6, 9, 10, 16, 0x4000, 0x4110, 0x4140, 0x4400, 0x5804, 0x7002]
  | .laserMonitorRead .. =>
    [4, 6, 9, 10, 11, 13, 16, 0x4000, 0x4001, 0x4110, 0x4140, 0x4400, 0x4401, 0x5804, 0x7002, 0x9000, 0x9001, 0x9010]
  | .laserFaultFlag .. =>
    [4, 6, 9, 10, 11, 13, 16, 0x4000, 0x4001, 0x4110, 0x4140, 0x4400, 0x5804, 0x7002, 0x9000, 0x9001, 0x9010]
  | .laserHoursWrite .. | .bolWrite .. =>
    [10, 20]
  | .packetInject .. | .e2eRetransmit .. | .windowAcknowledgement .. | .collCombine .. | .write .. | .read .. |
   .hostCopy .. | .hostCmdTimeout .. | .statusReply .. | .replyReceive .. | .frzPodGo .. =>
    [2, 3, 5, 6, 8, 9, 11, 12, 13, 14, 16, 19, 20, 0x2020, 0x2021, 0x3000, 0x3001, 0x3010, 0x3011, 0x3021, 0x3403,
     0x3410, 0x3411, 0x4110, 0x4120, 0x4130, 0x4140, 0x6101, 0x6102, 0x6202, 0x7002, 0x8100, 0x9000, 0x9001, 0x9010]
  | .packetRoute .. =>
    [2, 3, 4, 5, 6, 8, 9, 11, 12, 13, 14, 16, 19, 20, 21, 0x2020, 0x2021, 0x3000, 0x3001, 0x3010, 0x3011, 0x3021,
     0x3403, 0x3410, 0x3411, 0x4110, 0x4120, 0x4130, 0x4140, 0x5801, 0x5804, 0x5810, 0x6101, 0x6102, 0x6202, 0x7002,
     0x8100, 0x9000, 0x9001, 0x9010]
  | .packetEject .. =>
    [2, 3, 5, 6, 8, 9, 11, 12, 13, 14, 16, 19, 20, 0x2020, 0x2021, 0x3000, 0x3001, 0x3021, 0x3403, 0x3410, 0x3411,
     0x4110, 0x4120, 0x4130, 0x4140, 0x6101, 0x6102, 0x6202, 0x7002, 0x8100, 0x9000, 0x9001, 0x9010]
  | .fabRtState .. =>
    [20, 0x4101]
  | .fabEpochInj .. =>
    [11, 16, 20, 0x4100, 0x4101, 0x6203, 0x7002]
  | .versionRetire .. =>
    [6, 9, 16, 0x4101, 0x4110, 0x4140, 0x7002]
  | .portHoldExpiry .. =>
    [6, 9, 16, 0x4110, 0x4140, 0x7002]
  | .e2eAckSend .. =>
    [6, 9, 11, 16, 0x4110, 0x4120, 0x4140, 0x7002]
  | .contextEvict .. =>
    [2, 3, 6, 9, 11, 12, 14, 16, 0x3000, 0x3001, 0x4110, 0x4120, 0x4140, 0x7002]
  | .shaperDecision .. =>
    [2, 3, 6, 9, 11, 12, 14, 16, 0x3000, 0x3001, 0x4110, 0x4120, 0x4130, 0x4140, 0x7002]
  | .fabShpRate .. | .fabShpLevel .. =>
    [11, 20, 0x4130]
  | .fabVc1Res .. =>
    [20, 0x4112]
  | .sqTailDb .. | .cqHeadDb .. =>
    [12, 16, 0x5001, 0x7002]
  | .queueEnable .. | .hostMoverComplete .. =>
    [12, 16, 20, 0x5001, 0x7002]
  | .normalDisable .. | .planStop .. =>
    [5, 6, 9, 12, 16, 20, 0x3000, 0x4110, 0x4140, 0x7002]
  | .forcedDisable .. | .functionNormalDisableAll .. | .functionForcedDisableAll .. | .functionReset .. |
   .functionLevelReset .. | .hotReset .. =>
    [2, 3, 5, 6, 8, 9, 11, 12, 13, 14, 16, 19, 20, 0x2020, 0x2021, 0x3000, 0x3001, 0x3010, 0x3011, 0x3021, 0x3403,
     0x3410, 0x3411, 0x4110, 0x4120, 0x4130, 0x4140, 0x5001, 0x6101, 0x6102, 0x6202, 0x7002, 0x8100, 0x9000, 0x9001,
     0x9010]
  | .queueContextWrite .. =>
    [12, 0x5001]
  | .sqFetch .. | .nop .. | .fence .. =>
    [12]
  | .planLoad .. =>
    [2, 3, 5, 6, 8, 9, 11, 12, 13, 14, 16, 19, 20, 0x2020, 0x2021, 0x3000, 0x3001, 0x3002, 0x3010, 0x3011, 0x3021,
     0x3403, 0x3410, 0x3411, 0x4110, 0x4120, 0x4130, 0x4140, 0x6101, 0x6102, 0x6202, 0x7002, 0x8100, 0x9000, 0x9001,
     0x9010]
  | .planLoadChecksDone .. =>
    [2, 3, 5, 6, 8, 9, 12, 13, 16, 19, 20, 31]
  | .planRun .. =>
    [4, 5, 6, 9, 12, 15, 16, 20, 21, 0x2100, 0x2101, 0x3000, 0x4110, 0x4140, 0x5801, 0x6100, 0x6101, 0x6102, 0x7002]
  | .planUnload .. =>
    [5, 6, 9, 12, 16, 19, 20, 0x3000, 0x3041, 0x4110, 0x4140, 0x6102, 0x6103, 0x7002]
  | .mark .. =>
    [2, 3, 12, 0x8200]
  | .coalesceTimeout .. | .atsInvalidation .. =>
    [12, 20]
  | .vfEnableClear .. =>
    [2, 3, 5, 6, 8, 9, 11, 12, 13, 14, 16, 19, 20, 0x2020, 0x2021, 0x3000, 0x3001, 0x3010, 0x3011, 0x3021, 0x3403,
     0x3410, 0x3411, 0x4110, 0x4120, 0x4130, 0x4140, 0x5000, 0x5001, 0x6101, 0x6102, 0x6202, 0x7002, 0x8100, 0x9000,
     0x9001, 0x9010]
  | .hostFnQbase .. | .hostFnQcount .. =>
    [12, 20, 0x5001, 0x5002]
  | .timeIncr .. =>
    [4, 20, 0x5801]
  | .timeStepNs .. =>
    [16, 20, 0x5801, 0x7002]
  | .offsetStepApply .. =>
    [4, 16, 0x5801, 0x7002]
  | .timeMasterPort .. =>
    [4, 16, 20, 0x5803, 0x5804, 0x7002]
  | .timeNowSec .. =>
    [4, 20]
  | .syncSend .. | .pdelayInitiate .. =>
    [4, 9]
  | .syncMessage .. | .pdelayReq .. | .pdelayResp .. =>
    [4, 9, 13, 16, 21, 0x5801, 0x5804, 0x5810, 0x7002, 0x9000, 0x9001]
  | .syncLoss .. =>
    [4, 16, 0x5804, 0x7002]
  | .sealVote .. | .deltaWaitExpiry .. | .vote .. | .commit .. =>
    [2, 3, 4, 5, 6, 7, 8, 9, 11, 12, 13, 15, 16, 19, 20, 21, 0x2100, 0x2101, 0x3000, 0x3021, 0x3410, 0x4000, 0x4001,
     0x4010, 0x4110, 0x4140, 0x4400, 0x5804, 0x6100, 0x6101, 0x6102, 0x6202, 0x7002, 0x8200, 0x9000, 0x9001, 0x9010]
  | .restoreComplete .. =>
    [2, 3, 4, 5, 6, 8, 9, 11, 12, 13, 15, 16, 20, 21, 0x2100, 0x2101, 0x3000, 0x3410, 0x4000, 0x4001, 0x4010, 0x4110,
     0x4140, 0x4400, 0x5804, 0x6010, 0x6100, 0x6101, 0x6202, 0x7002, 0x9000, 0x9001, 0x9010]
  | .rolled .. | .rolledResend .. | .resume .. | .ready .. =>
    [5, 6, 9, 15, 16, 20, 21, 0x2100, 0x2101, 0x3000, 0x4110, 0x4140, 0x6100, 0x7002]
  | .deltaPageSend .. =>
    [6, 8, 9, 13, 16, 20, 0x3410, 0x3411, 0x4110, 0x4140, 0x6102, 0x6202, 0x7002, 0x9000, 0x9001, 0x9010]
  | .deltaPageReceive .. =>
    [7, 14, 16, 20, 0x2021, 0x7002]
  | .deltaPageAck .. =>
    [6, 16, 0x6102, 0x7002]
  | .fillingPageSend .. =>
    [6, 8, 9, 13, 16, 20, 0x3410, 0x3411, 0x4110, 0x4140, 0x6202, 0x7002, 0x9000, 0x9001, 0x9010]
  | .mergeComplete .. =>
    [7]
  | .sealAdoptCmd .. =>
    [6, 16, 20, 0x3001, 0x6103, 0x7002]
  | .adoptionPullComplete .. =>
    [2, 3, 5, 6, 9, 15, 16, 20, 21, 0x2100, 0x2101, 0x3000, 0x4110, 0x4140, 0x6100, 0x6102, 0x6103, 0x7002]
  | .sealBuddy .. =>
    [6, 16, 20, 0x6102, 0x7002]
  | .heartbeatSend .. =>
    [9, 13, 20]
  | .heartbeat .. =>
    [12, 13, 16, 17, 20, 0x6201, 0x6202, 0x7002, 0x7100]
  | .neighbourMiss .. | .report .. | .probeTimeout .. | .probeAnswer .. | .arbWaitExpiry .. | .faultNotice .. =>
    [2, 3, 4, 5, 6, 7, 8, 9, 11, 12, 13, 15, 16, 19, 20, 21, 0x2100, 0x2101, 0x3000, 0x3021, 0x3410, 0x4000, 0x4001,
     0x4010, 0x4110, 0x4140, 0x4400, 0x5804, 0x6100, 0x6101, 0x6102, 0x6201, 0x6202, 0x6210, 0x7002, 0x8200, 0x9000,
     0x9001, 0x9010]
  | .reject .. =>
    [13, 0x6201, 0x6210]
  | .stewardCycleEnd .. | .clvStwCmd .. =>
    [13, 20, 0x6210]
  | .stateCopy .. =>
    [13, 16, 18, 0x6210, 0x7002]
  | .stateCopyMissing .. =>
    [6, 9, 16, 20, 0x4110, 0x4140, 0x7002]
  | .powerOn .. | .standbyPowerLoss .. =>
    [1, 2, 3, 4, 5, 6, 7, 8, 9, 10, 11, 12, 13, 14, 15, 16, 17, 18, 19, 31]
  | .porstnAssert .. | .fccWatchdogExpiry .. | .thermalTrip .. =>
    [1, 4, 5, 6, 7, 8, 9, 11, 12, 13, 14, 15, 16, 17, 18, 19, 31]
  | .porstnHeld .. =>
    [16, 0x2000, 0x2010, 0x7002]
  | .porstnRelease .. | .thermalTripClear .. =>
    [14, 16, 0x2000, 0x2002, 0x2010, 0x6210, 0x7002, 0x9010]
  | .warmReset .. | .leaveRecoveryBoot .. =>
    [1, 4, 5, 6, 7, 8, 9, 11, 12, 13, 14, 15, 16, 17, 18, 19, 20, 31]
  | .pcieFundamentalReset .. =>
    [2, 3, 5, 6, 8, 9, 11, 12, 13, 14, 16, 19, 20, 31]
  | .rstDomCmd .. =>
    [1, 2, 3, 4, 5, 6, 8, 9, 11, 12, 13, 14, 16, 17, 18, 19, 20, 31]
  | .domainResetExit .. =>
    [4, 6, 7, 9, 11, 13, 14, 16, 17, 0x2020, 0x3401, 0x3402, 0x3411, 0x4000, 0x4001, 0x4110, 0x4140, 0x4400, 0x5001,
     0x5804, 0x6210, 0x7002, 0x7100, 0x9000, 0x9001, 0x9010]
  | .bringupStageEnd .. =>
    [2, 3, 4, 6, 8, 9, 11, 13, 14, 16, 17, 19, 31]
  | .pwrGoodFall .. | .orderlyShutdown .. =>
    [1, 4, 5, 6, 7, 8, 9, 11, 12, 13, 14, 15, 16, 19, 31]
  | .pwrGoodTimeout .. =>
    [14, 16, 0x2000, 0x7002]
  | .plannedTimerExpiry .. =>
    [1, 2, 3, 4, 5, 6, 7, 8, 9, 11, 12, 13, 14, 15, 16, 17, 18, 19, 20, 31]
  | .gatekeeperRequest .. =>
    [6, 9, 16, 20, 0x2020, 0x4110, 0x4140, 0x7002]
  | .rstImgData .. | .imgCheck .. =>
    [14, 20, 0x2040]
  | .imgErase .. =>
    [20, 0x2040]
  | .imgEraseDone .. =>
    [14, 0x2040]
  | .imgCheckDone .. =>
    [14, 16, 0x2040, 0x7002]
  | .droopStretch .. =>
    [15, 16, 0x2100, 0x2101, 0x7002]
  | .pwrCapW .. | .powerCapHold .. =>
    [2, 3, 5, 6, 8, 9, 11, 12, 13, 14, 15, 16, 19, 20, 0x2020, 0x2021, 0x2101, 0x3000, 0x3001, 0x3010, 0x3011, 0x3021,
     0x3403, 0x3410, 0x3411, 0x4110, 0x4120, 0x4130, 0x4140, 0x6101, 0x6102, 0x6202, 0x7002, 0x8100, 0x9000, 0x9001,
     0x9010]
  | .ldgClear .. =>
    [16, 20, 0x7000, 0x7002]
  | .ldgOvr .. =>
    [20, 0x7001]
  | .tallyStart .. | .tallyStop .. | .tallyClearLanes .. =>
    [17, 20, 0x7100]
  | .tallyChunkRead .. =>
    [6, 8, 9, 12, 13, 16, 17, 20, 0x3403, 0x3410, 0x3411, 0x4110, 0x4140, 0x6202, 0x7002, 0x7100, 0x9000, 0x9001,
     0x9010]
  | .tallyScanEnd .. | .tlyLane .. =>
    [12, 16, 17, 20, 0x7002, 0x7100]
  | .tallyPeriod .. =>
    [16, 17, 0x7002, 0x7100]
  | .odapOpen .. =>
    [14, 16, 18, 20, 0x1102, 0x6210, 0x7002]
  | .odapClose .. | .relayResp .. | .relayTimeout .. =>
    [16, 18, 20, 0x1102, 0x6210, 0x7002]
  | .sessionIdleTimeout .. =>
    [16, 18, 0x7002]
  | .probe .. =>
    [16, 20, 0x1102, 0x7002]
  | .status .. =>
    [2, 3, 4, 5, 6, 7, 8, 9, 11, 12, 13, 15, 16, 19, 20, 21, 0x1102, 0x2100, 0x2101, 0x3000, 0x3021, 0x3410, 0x4000,
     0x4001, 0x4010, 0x4110, 0x4140, 0x4400, 0x5804, 0x6100, 0x6101, 0x6102, 0x6201, 0x6202, 0x6210, 0x7002, 0x8200,
     0x9000, 0x9001, 0x9010]
  | .statusBroadcast .. =>
    [20]
  | .vc0MgmtResponse .. =>
    [6, 9, 12, 13, 14, 16, 18, 20, 0x2021, 0x4110, 0x4140, 0x6210, 0x7002]
  | .vc0MgmtTimeout .. =>
    [6, 9, 12, 16, 18, 20, 0x1102, 0x4110, 0x4140, 0x6210, 0x7002]
  | .mgtKeyFabSel .. =>
    [20, 0x1120]
  | .plcaBeaconLoss .. =>
    [16, 0x1100, 0x7002]
  | .frzAt .. =>
    [19, 20, 0x8100]
  | .freezeFire .. =>
    [19, 21, 0x8100]
  | .trcFccMark .. =>
    [2, 3, 19, 20, 0x8200, 0x8201]
  | .traceRingDrain .. =>
    [2, 3, 5, 0x8200]
  | .lifeSample .. =>
    [0x2101, 0x9010]
  | .lifeSave .. | .marginTestStart .. =>
    [19]
  | .marginStepDone .. =>
    [6, 7, 9, 13, 16, 19, 20, 0x3401, 0x3402, 0x3403, 0x4110, 0x4140, 0x6202, 0x7002, 0x9000, 0x9001, 0x9011, 0x9012]
  | .timeCounterTick .. =>
    [4, 16, 0x5801, 0x5804, 0x7002]
  | .flitCrcFailure .. =>
    [4, 9, 20, 0x4001]
  | .clockLockAcquired .. =>
    [0x4020]
  | .pwrGoodRise .. =>
    [14, 0x2000]
  | .policyClamp .. =>
    [15, 16, 0x2101, 0x7002]
  | .penaltyPointDecay .. =>
    [13, 16, 0x7002, 0x9000, 0x9001]
  | .delayedRollbackStart .. =>
    [2, 3, 5, 6, 7, 11, 12, 16, 0x3000, 0x3021, 0x6101, 0x7002, 0x8200]
  | .pcieLinkUpOrDown .. =>
    [16, 0x5000, 0x7002]
  | .aerUncorrectableError .. =>
    [16, 20, 0x7002]
  | .vfEnableSet .. =>
    [0x5000, 0x5001]
  | .perstRelease .. =>
    [4, 6, 7, 9, 11, 12, 13, 14, 16, 17, 0x2020, 0x3401, 0x3402, 0x3411, 0x4000, 0x4001, 0x4110, 0x4140, 0x4400,
     0x5001, 0x5804, 0x6210, 0x7002, 0x7100, 0x9000, 0x9001, 0x9010]
  | .rcRead .. =>
    [4, 11, 12, 20, 21, 31]

/-! ### The invariant -/

/-- The state is well formed: device and host memory list only bytes that are not 0, at rising addresses, and every table
lists its keys in rising order, each once. -/
structure Wf (s : State) : Prop where
  mem     : Memory.wf s.mem
  hostMem : Memory.wf s.host.mem
  od      : mapRising 0 s.od = true
  odBytes : mapRising 0 s.odBytes = true
  blocks  : mapRising 0 s.blocks = true
  parts   : mapRising 0 s.parts = true
  ports   : mapRising 0 s.ports = true
  lasers  : mapRising 0 s.lasers = true
  tally   : mapRising 0 s.tally = true

/-- What was sent stays sent, and no free value is used twice. -/
def Onward (s t : State) : Prop := s.outbox <+: t.outbox ∧ s.free ≤ t.free

end Sys2Proof.Machine
end

