-- ==== Sys2Proof/Certificates/Slice0/Obligations.lean ====
section
/-! DEFINITION. The statements for the provers. Each says what commands of the table do, from every state that meets its
hypotheses; `Does c s P` has as its conclusion that the command answers a next state. -/

open Sys2Proof Sys2Proof.Machine

/-! ### The whole machine -/

/-- With a command at the front of the queue a step is that command's effect, with the rest of the queue waiting. With
none waiting the block idles, which is the model's choice (log 5). -/
def Obligations.StepRunsFrontCommand : Prop :=
  (∀ (c : Instr) (rest : List Instr) (s : State),
    step { s with pending := c :: rest } = exec c { s with pending := rest }) ∧
  ∀ s : State, s.pending = [] → step s = .next s

/-- Whatever its operands and whatever the state, a command changes only the places that `touches` lists for it: every
other field of the state, every other entry of the dictionary and, where memory is not listed, every byte of memory
stay as they were. -/
def Obligations.CommandsTouchOnlyTheirPlaces : Prop :=
  ∀ (c : Instr) (s t : State), exec c s = .next t →
    SameBut (touches c) s t ∧ (plMem ∉ touches c → ∀ a, memByte t.mem a = memByte s.mem a) ∧
      ∀ (r : Reg) (i : Nat), odPlace (odKey r i) ∉ touches c → plDict ∉ touches c → t.rd r i = s.rd r i

/-- Every step keeps the canonical form of memory and of every table, whatever the state and the command. -/
def Obligations.StepKeepsForm : Prop :=
  ∀ s t : State, Wf s → step s = .next t → Wf t

/-- The form holds after reset. -/
def Obligations.ResetHasForm : Prop := Wf State.reset

/-- No command waits on or consumes another: each leaves the queue as it is, sends only after what was already sent, and
draws only fresh free values. No command faults and none is refused. Choices of the model that it rests on: log 2,
3. -/
def Obligations.EveryCommandGoesOn : Prop :=
  ∀ (c : Instr) (s : State), ∃ t, exec c s = .next t ∧ t.pending = s.pending ∧ Onward s t

/-! ### Planned execution (03) -/

/-- The release of a segment (R67, R68). In a Running partition whose step has its instant T0, a block that has not
begun the step releases segment 0 at or past T0, with its arrival counters at 0 and every consumer expecting SEQ 0;
a block that has issued the SYNC of segment s releases segment s + 1 at or past sync point s. Before the instant
nothing happens. The control slot (R76, R83, R86, R87). While the block may issue and the bundle's other slots are
taken, CTL_NOP, LOOP, DBASE, WAIT and SYNC issue the bundle: SEQ advances modulo 2^24 and each active sequencer adds
the first 58 bytes of the bundle in its buffer to its digest. LOOP opens a level whose body starts at the next
bundle, DBASE moves the descriptor base, WAIT holds issue until its counter has the amount and then takes it away,
SYNC closes the segment. No other block changes and no memory. While the block may not issue, or a slot of the
bundle is not taken, none of them changes anything, nor does STEP_END. Choices of the model that it rests on: log
16, 19. -/
def Obligations.SegmentsAndControlSlots : Prop :=
   (∀ (s : State) (b : Nat) (t0 : Int), (s.part (s.partOf b)).t0Ns = some t0 → s.partOf b < 128 →
      s.pstate (s.partOf b) = psRunning → s.unitUp (uBlock b) = true → (s.block b).ended = false →
      ((s.block b).released = false → t0 ≤ s.now → Does (.segmentRelease b) s fun t =>
        (t.block b).released = true ∧ (t.block b).segment = 0 ∧ (t.block b).arrivals = [] ∧ (t.block b).seqNo = 0 ∧
          (t.block b).releaseNs = s.now ∧ (∀ e ∈ (t.block b).consumers, e.2.expected = 0) ∧
          (∀ c, c ≠ b → t.block c = s.block c) ∧ t.mem = s.mem) ∧
      ((s.block b).released = true → (s.block b).syncDone = true →
        t0 + (syncOffset (s.img (s.partOf b)) (s.block b).segment : Nat) ≤ s.now →
        Does (.segmentRelease b) s fun t =>
          (t.block b).segment = (s.block b).segment + 1 ∧ (t.block b).syncDone = false ∧
            (t.block b).releaseNs = s.now ∧ (t.block b).arrivals = (s.block b).arrivals ∧
            (∀ c, c ≠ b → t.block c = s.block c) ∧ t.mem = s.mem) ∧
      ((s.block b).released = false → s.now < t0 → Does (.segmentRelease b) s fun t => t = s)) ∧
   (∀ (s : State) (b : Nat) (w : MovSlot),
      let issued (t : State) : Prop :=
        (t.block b).seqNo = ((s.block b).seqNo + 1) % 2 ^ 24 ∧ (∀ c, c ≠ b → t.block c = s.block c) ∧ t.mem = s.mem
      (canIssue s b = true → slotsTaken (s.block b) = true →
        Does (.ctlNop b w) s (fun t => issued t ∧
          (∀ f, s.seqUp b .a = true → (s.block b).bundle .a = some f →
            (t.block b).seqA.digest = crc64Add (s.block b).seqA.digest (f.bytes.take 58)) ∧
          (∀ f, s.seqUp b .b = true → (s.block b).bundle .b = some f →
            (t.block b).seqB.digest = crc64Add (s.block b).seqB.digest (f.bytes.take 58))) ∧
        Does (.loop b w) s (fun t => issued t ∧
          (t.block b).loops.head? = some { first := (t.block b).pc, body := loopBody w, left := loopCount w - 1 }) ∧
        Does (.dbase b w) s (fun t => issued t ∧ (t.block b).dbase = dbaseLine w) ∧
        Does (.wait b w) s (fun t => issued t ∧
          if waitAmt w ≤ (s.block b).arrived (waitCtr w) then
            (t.block b).waiting = none ∧
              (t.block b).arrived (waitCtr w) = (s.block b).arrived (waitCtr w) - waitAmt w
          else (t.block b).waiting = some (waitCtr w, waitAmt w) ∧
            (t.block b).arrived (waitCtr w) = (s.block b).arrived (waitCtr w)) ∧
        Does (.sync b w) s (fun t => issued t ∧ (t.block b).syncDone = true)) ∧
      (canIssue s b = false ∨ slotsTaken (s.block b) = false → ∀ c ∈ [Instr.ctlNop b w, .loop b w, .dbase b w, .wait b w, .sync b w, .stepEnd b w],
        Does c s fun t => t = s))

/-- STEP_END, its bundle's other slots taken, ends the block's step and sets its streams back to their first bundle;
each arrival counter not 0 is one plan error (R85); when every other block of the partition has ended, the partition
is Stopped for seal (R83, R252). FINALIZE marks its pages final for the step, once for both copies (R86, R90).
Choices of the model that it rests on: log 16. -/
def Obligations.StepEndAndFinalize : Prop :=
  (∀ (s : State) (b : Nat) (w : MovSlot), canIssue s b = true → slotsTaken (s.block b) = true →
    Does (.stepEnd b w) s fun t => (t.block b).ended = true ∧ (t.block b).seqA.nextSeg = 0 ∧ (t.block b).seqB.nextNo = 0 ∧
      ((∃ e ∈ (s.block b).arrivals, e.2 ≠ 0) →
        Counted s t R.CMP_PLAN_ERR_CTR b ((s.block b).arrivals.filter fun e => e.2 != 0).length) ∧ (∀ c, c ≠ b → t.block c = s.block c) ∧
      ((∀ c ∈ s.blocksOf (s.partOf b), c ≠ b → (s.block c).ended = true) → t.pstate (s.partOf b) = psStopped) ∧
      ((∃ c ∈ s.blocksOf (s.partOf b), c ≠ b ∧ (s.block c).ended = false) →
        t.pstate (s.partOf b) = s.pstate (s.partOf b))) ∧
  ∀ (s : State) (i : Issue) (w : MovSlot), Taken s i conRegion → slotsTaken (s.block i.block) = true →
    Does (.finalize i w) s fun t =>
      ∀ x, finPage w ≤ x → x < finPage w + finCount w → x ∈ (t.part (s.partOf i.block)).final

/-- The stream buffers (R78). A sequencer with room for it takes the next bundle of its stream from the plan's copy:
where its words are sound and its CHECK passes it is the newest of the buffer, and the stream goes on with the next
one, or after a segment's last bundle with the next segment's first. A CHECK that fails twice stops the sequencer,
counts two fetch errors and leaves its buffer as it was. A stopped sequencer fetches nothing. An arrival counter
(R82, R85): the oldest transfer of a mover channel, planned data from another chip and a collective's result each
raise it by one where it is below 255 and nothing waits on it; a delivery at 255 leaves it there and refuses the
seal. The channel keeps its other transfers in order; a transfer of which a part waits for a journal copy stays the
oldest and raises nothing yet (R244). The acknowledgement of a write to another chip's HBM carries no data and
raises the counter (R82); planned data from another chip changes no byte outside the view's range. Choices of the
model that it rests on: log 18, 42, 43. -/
def Obligations.StreamsAndArrivals : Prop :=
   (∀ (s : State) (b errB : Nat), s.hasPlan (s.partOf b) = true → s.unitUp (uBlock b) = true →
      s.seqUp b .a = true → ((s.block b).seqA.buffer.filter (s.block b).needs).length < 1024 →
      (s.block b).seqA.nextSeg < imgSegments (s.img (s.partOf b)) →
      let dir := dirEntry (s.img (s.partOf b)) (s.planBlock b) (s.block b).seqA.nextSeg
      (s.block b).seqA.nextNo < dir.2.1 →
      ∀ d, (readBundle s b .a (secOff (s.img (s.partOf b)) 2 + dir.1 + 64 * (s.block b).seqA.nextNo)).2 = some d →
      (d.2 = false → checkOk d.1 = true → Does (.streamFetch b 0 errB) s (fun t =>
        (t.block b).seqA.buffer.getLast? =
            some { segment := (s.block b).seqA.nextSeg, number := (s.block b).seqA.nextNo, bytes := d.1 } ∧
          if dir.2.1 ≤ (s.block b).seqA.nextNo + 1 then
            (t.block b).seqA.nextSeg = (s.block b).seqA.nextSeg + 1 ∧ (t.block b).seqA.nextNo = 0
          else (t.block b).seqA.nextSeg = (s.block b).seqA.nextSeg ∧
            (t.block b).seqA.nextNo = (s.block b).seqA.nextNo + 1)) ∧
      (s.seqUp b .b = false → Does (.streamFetch b 2 errB) s fun t =>
        t.rd R.CMP_SEQ_A b = 2 ∧ Counted s t R.CMP_PLAN_ERR_FETCH b 2 ∧ (t.block b).seqA.buffer = (s.block b).seqA.buffer)) ∧
   ((∀ (s : State) (b counter offset : Nat) (data : List Byte) (poison : Bool) (rs : List (Nat × Nat)),
      s.viewRange (s.partOf b) offset data.length = some rs →
      ((s.block b).arrived counter < 255 → (s.block b).waiting = none →
        Does (.arrivalDelivery (.remote b counter offset [] poison)) s (fun t =>
          (t.block b).arrived counter = (s.block b).arrived counter + 1 ∧ t.mem = s.mem) ∧
        Does (.arrivalDelivery (.remote b counter offset data poison)) s fun t =>
          (t.block b).arrived counter = (s.block b).arrived counter + 1 ∧
          ∀ a, (∀ c ∈ rs, a < c.1 ∨ c.1 + c.2 ≤ a) → memByte t.mem a = memByte s.mem a) ∧
      (255 ≤ (s.block b).arrived counter → s.partOf b < 128 → s.active (s.partOf b) = true →
        Does (.arrivalDelivery (.remote b counter offset data poison)) s fun t =>
          (t.block b).arrived counter = (s.block b).arrived counter ∧
          (t.part (s.partOf b)).verdict.planErr = true)) ∧
    (∀ (s : State) (b ch : Nat) (x : Transfer) (rest : List Transfer), mapGet [] (s.block b).movers ch = x :: rest →
      x.landing = false →
      let held := transferHeld (storeRuns s (uMover b) b x.dst x.runs) b x
      (held = false → (s.planRange b x.dst (runBytes x.runs).length).isSome = true →
        (s.block x.toBlock).arrived x.counter < 255 → (s.block x.toBlock).waiting = none →
        Does (.arrivalDelivery (.mover b ch)) s fun t =>
          (t.block x.toBlock).arrived x.counter = (s.block x.toBlock).arrived x.counter + 1 ∧
            mapGet [] (t.block b).movers ch = rest) ∧
      (held = true → Does (.arrivalDelivery (.mover b ch)) s fun t =>
        (t.block x.toBlock).arrived x.counter = (s.block x.toBlock).arrived x.counter ∧
          mapGet [] (t.block b).movers ch = { x with landing := true } :: rest)) ∧
    ∀ (s : State) (p e : Nat), (s.coll p e).started = true →
      (∀ j ∈ collNeeds (collEntry s p e) (placeOf s p (collMembers s p e)), mapHas (s.coll p e).results j = true) →
      (s.block (s.coll p e).block).arrived (s.coll p e).counter < 255 → (s.block (s.coll p e).block).waiting = none →
      Does (.arrivalDelivery (.coll p e)) s fun t =>
        (t.block (s.coll p e).block).arrived (s.coll p e).counter =
            (s.block (s.coll p e).block).arrived (s.coll p e).counter + 1 ∧
          (t.coll p e).started = false)

/-- The comparison of digests (R87, R88), each report with the digest of the segment it was made in, also after the next
release. A sequencer whose report differs fails while the other's matches; where both match nothing fails; where
both differ the seal of the step is refused. The reports are used up. Verdicts (R226, R229). The oldest tile is
judged and leaves the queue. A first run that passes counts one pass, unless its run is abandoned, and lists
nothing; one that fails is counted, is on the repeat list with the digest of its tile and, in the step under way,
refuses the seal. Choices of the model that it rests on: log 18, 31. -/
def Obligations.DigestsAndVerdicts : Prop :=
   (∀ (s : State) (b maskA maskB : Nat) (x y : SeqReport), (s.block b).seqA.report = some x →
      (s.block b).seqB.report = some y →
      let want (r : SeqReport) := segDigest (s.img (s.partOf b)) (s.planBlock b) r.segment
      (xorN x.digest maskA = want x → xorN y.digest maskB = want y → Does (.digestCompare b maskA maskB) s fun t =>
        t.rd R.CMP_SEQ_A b = s.rd R.CMP_SEQ_A b ∧ t.rd R.CMP_SEQ_B b = s.rd R.CMP_SEQ_B b ∧
          (t.block b).seqA.report = none ∧ (t.block b).seqB.report = none) ∧
      (xorN x.digest maskA ≠ want x → xorN y.digest maskB = want y → s.rd R.CMP_SEQ_A b = 0 →
        Does (.digestCompare b maskA maskB) s fun t =>
          t.rd R.CMP_SEQ_A b = 1 ∧ t.rd R.CMP_SEQ_B b = s.rd R.CMP_SEQ_B b) ∧
      (xorN x.digest maskA = want x → xorN y.digest maskB ≠ want y → s.rd R.CMP_SEQ_B b = 0 →
        Does (.digestCompare b maskA maskB) s fun t =>
          t.rd R.CMP_SEQ_B b = 1 ∧ t.rd R.CMP_SEQ_A b = s.rd R.CMP_SEQ_A b) ∧
      (xorN x.digest maskA ≠ want x → xorN y.digest maskB ≠ want y → s.partOf b < 128 → s.active (s.partOf b) = true →
        Does (.digestCompare b maskA maskB) s fun t => (t.part (s.partOf b)).verdict.planErr = true)) ∧
   (∀ (s : State) (b : Nat) (x : PendingTile) (rest : List PendingTile) (q : Pairing),
      (s.block b).verdicts = x :: rest → x.rep = false → pairing x.wfmt x.afmt = some q → s.partOf b < 128 →
      let fails := (judge q (chkEntry s b x.entry) x.mRows x.tile (BitVec.ofNat 32 (mapGet 0 (s.block b).sealedNorms x.entry))).1
      (fails = [] → Does (.yarrowVerdict b) s fun t => (t.block b).verdicts = rest ∧
        Counted s t R.CHK_PASS b (if isCurrent s (s.partOf b) x.step x.run then 1 else 0) ∧
          (t.block b).repeats = (s.block b).repeats ∧ t.parts = s.parts ∧ t.mem = s.mem) ∧
      (fails ≠ [] → (s.block b).repeats.length < 64 →
        (∀ r ∈ (s.block b).repeats ++ (s.block b).overflow, ¬ (r.step = x.step ∧ r.entry = x.entry)) →
        Does (.yarrowVerdict b) s fun t => (t.block b).verdicts = rest ∧ Counted s t R.CHK_FAIL b 1 ∧
          { step := x.step, entry := x.entry, cell := x.cell, digestA := tileDigest x.tile } ∈ (t.block b).repeats ∧
          (t.block b).repeats.length = (s.block b).repeats.length + 1 ∧ t.mem = s.mem ∧
          (isCurrent s (s.partOf b) x.step x.run = true → (t.part (s.partOf b)).verdict.check = true)))

/-! ### Cells and the vector unit (02, 03) -/

/-- A slot is taken once for both copies (R86), shown on the NOPs. A first copy of the bundle the block issues, with the
SEQ its consumer expects, is taken: the consumer expects the next SEQ modulo 2^24. A copy with the SEQ before it is
a duplicate: it is counted and nothing else happens. A copy of a bundle that the block does not issue does nothing
(R68, R83). The cells, the vector registers and memory stay. Choices of the model that it rests on: log 17. -/
def Obligations.SlotsAreTakenOnce : Prop :=
  ∀ (s : State) (i : Issue) (cell ch : Nat) (w : CellSlot) (v : VecSlot) (m : MovSlot),
    i.second = false → s.seqUp i.block i.copy = true → s.unitUp (uBlock i.block) = true →
    ∀ x ∈ [(Instr.cellNop i cell w, conCell cell), (.vecNop i v, conVec), (.mvNop i ch m, conMover ch)],
      let k := mapGet {} (s.block i.block).consumers x.2
      (canIssue s i.block = true → i.seq = k.expected → k.expected = (s.block i.block).seqNo → Does x.1 s fun t =>
        (mapGet {} (t.block i.block).consumers x.2).expected = (k.expected + 1) % 2 ^ 24 ∧
          (t.block i.block).cells = (s.block i.block).cells ∧ (t.block i.block).vregs = (s.block i.block).vregs ∧
          t.mem = s.mem) ∧
      (i.seq = (k.expected + (2 ^ 24 - 1)) % 2 ^ 24 → Does x.1 s fun t =>
        Counted s t R.CMP_SEQ_DUP i.block 1 ∧ t.blocks = s.blocks ∧ t.mem = s.mem) ∧
      (canIssue s i.block = false → i.seq ≠ (k.expected + (2 ^ 24 - 1)) % 2 ^ 24 → Does x.1 s fun t => t = s)

/-- LDW, SWAP and CLRA (R9, R37, R79). LDW fills the shadow slot from 72 SRAM lines, 64 of weights and 8 of scales, in
the cell and in CS's copy of it. SWAP exchanges active and shadow, in CS as well. CLRA clears the accumulator words
it names and no others. A cell that CS stands for keeps its own store. None of them changes memory. LDA (R79):
consecutive SRAM lines into operand buffer lines that wrap after line 255; with SCL the scale fields too, four bytes
a line from the lines that follow. The accumulators and memory stay. Choices of the model that it rests on: log 23. -/
def Obligations.CellLoads : Prop :=
   (∀ (s : State) (i : Issue) (c : Nat) (w : CellSlot), Taken s i (conCell c) →
      let b := i.block
      (∀ ecc, Wf s → Does (.ldw i c w ecc) s fun t =>
        let sh := mapGet {} (t.block b).csShadow c
        sh.fmt = some (ldwFmt w) ∧ sh.weight.length = 8192 ∧ sh.scale.length = 1024 ∧
          (∀ j < 8192, sh.weight[j]? = some (memByte s.mem (lineByte b (ldwLine w) j))) ∧
          (∀ j < 1024, sh.scale[j]? = some (memByte s.mem (lineByte b (ldwLine w) (8192 + j)))) ∧
          (s.rd R.CHK_SUBST b ≠ c → ((t.block b).cell c).shadow = sh) ∧
          ((t.block b).cell c).active = ((s.block b).cell c).active ∧ t.mem = s.mem) ∧
      Does (.swap i c w) s (fun t =>
        mapGet {} (t.block b).csActive c = mapGet {} (s.block b).csShadow c ∧
          mapGet {} (t.block b).csShadow c = mapGet {} (s.block b).csActive c ∧
          (s.rd R.CHK_SUBST b ≠ c → ((t.block b).cell c).active = ((s.block b).cell c).shadow ∧
            ((t.block b).cell c).shadow = ((s.block b).cell c).active) ∧
          ((t.block b).cell c).acc = ((s.block b).cell c).acc ∧ t.mem = s.mem) ∧
      Does (.clra i c w) s fun t =>
        ∀ a, mapGet {} ((t.block b).cell (s.cellOf b c)).acc a =
            (if 64 * clraBase w ≤ a ∧ a < 64 * clraBase w + 64 * clraCount w then {}
             else mapGet {} ((s.block b).cell (s.cellOf b c)).acc a) ∧
          t.mem = s.mem) ∧
   (∀ (s : State) (i : Issue) (c : Nat) (w : CellSlot) (ecc : List EccHit), Taken s i (conCell c) →
      let b := i.block
      let ph := s.cellOf b c
      Wf s → Does (.lda i c w ecc) s fun t =>
        (∀ j < ldaCount w, ∀ q < 128,
          (mapGet {} ((t.block b).cell ph).buf ((ldaBuf w + j) % 256)).bytes[q]? =
            some (memByte s.mem (lineByte b (ldaLine w + j) q))) ∧
        (ldaScl w = true → ∀ j < ldaCount w, ∀ q < 4,
          (mapGet {} ((t.block b).cell ph).buf ((ldaBuf w + j) % 256)).scale[q]? =
            some (memByte s.mem (lineByte b (ldaLine w + ldaCount w) (4 * j + q)))) ∧
        ((t.block b).cell ph).acc = ((s.block b).cell ph).acc ∧ t.mem = s.mem)

/-- MUL into an accumulator (R36, R41, R42, R79): every word of the product tile up to word 16,383 is added into its
accumulator word, FP32 with one rounding of accumulator + s2 × p, or INT32 modulo 2^32 with the overflow mark; INIT
starts from zero. Every other word of the accumulator file stays, and so does memory. A pairing or accumulator type
that is not allowed refuses the seal and leaves the accumulators. Choices of the model that it rests on: log 21, 23,
25. -/
def Obligations.MultiplyAccumulates : Prop :=
  ∀ (s : State) (i : Issue) (c : Nat) (w : CellSlot) (f : MulFaults) (fmt : Nat), Taken s i (conCell c) →
    let b := i.block
    let ph := s.cellOf b c
    let slot := activeSlot s b c
    slot.fmt = some fmt →
    (∀ q, pairing fmt (mulFmt w) = some q → accAllowed q (mulInt w) = true →
      Does (.mul i c w f) s fun t =>
        let rows := actRows ((s.block b).cell ph) (mulFmt w) (mulRows w) (mulLine w)
        let p := (strike q.n (mulTile q rows.1 (weightCols slot fmt q)) f.tile f.sums).p
        (∀ k < p.length, mulBase w + k < 16384 →
          let file := mapSlice {} ((s.block b).cell ph).acc (mulBase w) (min p.length (16384 - mulBase w))
          let old : AccWord := if mulInit w then {} else getAt {} file k
          let new := mapGet {} ((t.block b).cell ph).acc (mulBase w + k)
          let x := getAt 0 p k
          if mulInt w then
            let sum := toSigned 32 old.bits.toNat + toSigned 32 x.toNat
            new.bits = intWord sum ∧ new.ovf = (old.ovf || decide (sum < -2147483648) || decide (2147483647 < sum))
          else new.bits = near32 (fvAdd (f32 old.bits)
            (fvMul (f32 (slotS2 slot)) (if q.kind = .int then ofInt (toSigned 32 x.toNat) else f32 x)))) ∧
        (∀ a, (a < mulBase w ∨ mulBase w + p.length ≤ a) →
          mapGet {} ((t.block b).cell ph).acc a = mapGet {} ((s.block b).cell ph).acc a) ∧ t.mem = s.mem) ∧
    ((∀ q, pairing fmt (mulFmt w) = some q → accAllowed q (mulInt w) = false) → s.partOf b < 128 →
      s.active (s.partOf b) = true → Does (.mul i c w f) s fun t =>
        (t.part (s.partOf b)).verdict.planErr = true ∧ ((t.block b).cell ph).acc = ((s.block b).cell ph).acc)

/-- STA (R28, R33, R79, R84): the bytes it may change are those of its rows, each at ADDR_A and the row's place by
PITCH, and for an MX format the scales at ADDR_B, where the address lies in the partition's view; every other byte
of memory stays. The accumulators stay. The bytes of the last row, which no other row overwrites, where they lie
whole in SRAM beside the descriptor table, are the row's accumulator words narrowed under the descriptor's NCTL; a
word's type is that of the multiply that wrote it last, the model's choice (log 103). Choices of the model that it
rests on: log 22, 23. -/
def Obligations.StoresOfAccumulators : Prop :=
  ∀ (s : State) (i : Issue) (c : Nat) (w : CellSlot), Taken s i (conCell c) →
    let b := i.block
    let d := s.desc b (staDesc w)
    let fmt := nctlFmt d.nctl
    let row (m a : Nat) : Prop := ∃ rs,
      s.planRange b (d.addrA + m * d.pitch * fmtBits fmt / 8)
        ((m * d.pitch * fmtBits fmt % 8 + staN w * fmtBits fmt + 7) / 8) = some rs ∧ ∃ r ∈ rs, r.1 ≤ a ∧ a < r.1 + r.2
    let scales (m a : Nat) : Prop := fmtMx fmt = true ∧ ∃ rs,
      s.planRange b (d.addrB + m * (staN w / 32)) (staN w / 32) = some rs ∧ ∃ r ∈ rs, r.1 ≤ a ∧ a < r.1 + r.2
    Does (.sta i c w) s fun t =>
      (∀ a, (∀ m < staRows w, ¬ row m a ∧ ¬ scales m a) → memByte t.mem a = memByte s.mem a) ∧
        ((t.block b).cell (s.cellOf b c)).acc = ((s.block b).cell (s.cellOf b c)).acc ∧
        let m := staRows w - 1
        let o := m * d.pitch * fmtBits fmt
        let words := mapSlice {} ((s.block b).cell (s.cellOf b c)).acc (64 * staBase w + m * staN w) (staN w)
        let bs := packElems fmt
          ((narrowAll d.nctl (s.srKey b d) (d.ibase + m * d.pitch) (words.map accVal)).map (·.bits))
        fmtMx fmt = false → o % 8 = 0 → 64 * staBase w + staN w * staRows w ≤ 16384 →
          ∀ r, s.planRange b (d.addrA + o / 8) bs.length = some [r] → hbmBytes ≤ r.1 →
          (let tab := tableOf s ((r.1 - sramStart) / blockBytes)
           r.1 + r.2 ≤ tab.1 ∨ tab.1 + tab.2 ≤ r.1) →
          ∀ q < bs.length, memByte t.mem (r.1 + q) = getAt 0 bs q

/-- Lane operations of the vector unit (R54, R80): with a slot taken, every lane of the destination is the operation on
that lane of the sources; the other registers and memory stay. Choices of the model that it rests on: log 10, 27,
29, 30. -/
def Obligations.LaneOperations : Prop :=
  ∀ (s : State) (i : Issue) (w : VecSlot), Taken s i conVec →
    let b := i.block
    let n := vNctl w
    let m := vImm w
    let a := vLanes s b (vA w)
    let bb := vLanes s b (vB w)
    let cc := vLanes s b (vC w)
    let gives (c : Instr) (r : List Word) : Prop := Does c s fun t =>
      vLanes t b (vD w) = r ∧ (∀ q, q ≠ vD w → vLanes t b q = vLanes s b q) ∧ t.mem = s.mem
    (∀ x ∈ [(Instr.add i w, laneAdd n), (.sub i w, laneSub n), (.vecMul i w, laneMul n), (.min i w, laneMin n),
        (.max i w, laneMax n), (.copysign i w, laneCopysign n m), (.cmp i w, laneCmp n m), (.iadd i w, laneIadd n m),
        (.isub i w, laneIsub n m), (.imul i w, laneImul n m), (.shl i w, laneShl n m), (.shr i w, laneShr n m),
        (.and i w, laneAnd), (.or i w, laneOr), (.xor i w, laneXor), (.div i w, laneDiv n)],
      gives x.1 (List.zipWith (fun u v => (x.2 u v 0).w) a bb)) ∧
    (∀ x ∈ [(Instr.abs i w, laneAbs n m), (.neg i w, laneNeg n m), (.recip i w, laneRecip n), (.sqrt i w, laneSqrt n),
        (.rsqrt i w, laneRsqrt n), (.exp i w, laneExp 0x34 n), (.exp2 i w, laneExp 0x35 n), (.log i w, laneLog 0x36 n),
        (.log2 i w, laneLog 0x37 n), (.tanh i w, laneTanh n), (.sigmoid i w, laneSoft 0x39 n), (.erf i w, laneSoft 0x3A n),
        (.sin i w, laneTrig 0x3B n), (.cos i w, laneTrig 0x3C n)],
      gives x.1 (a.map fun u => (x.2 u 0 0).w)) ∧
    ∀ x ∈ [(Instr.fma i w, laneFma n), (.sel i w, laneSel n)],
      gives x.1 (List.zipWith (fun u (v : Word × Word) => (x.2 u v.1 v.2).w) a (bb.zip cc))

/-- What lanes compute (R31, R54, R80): AND, OR and XOR act on the bits; in INT32 lanes IADD, ISUB and IMUL wrap where
the immediate does not ask for saturation; in FP32 lanes MIN and MAX give the canonical NaN where an operand is NaN,
and ABS gives a word without a sign. Reductions, BCAST and CVT (R56, R80). A reduction's one result stands in every
lane of the destination, BCAST's immediate in every lane, and CVT puts each element at its position; the other
registers and memory stay. Choices of the model that it rests on: log 27, 30. -/
def Obligations.LaneValuesAndReductions : Prop :=
   ((∀ x y z : Word, (laneAnd x y z).w = x &&& y ∧ (laneOr x y z).w = x ||| y ∧ (laneXor x y z).w = x ^^^ y) ∧
    (∀ (n m : Nat) (x y z : Word), vWidth n = 32 → bitOf m 0 = false →
      (laneIadd n m x y z).w = x + y ∧ (laneIsub n m x y z).w = x - y ∧ (laneImul n m x y z).w = x * y) ∧
    ∀ (n m : Nat) (x y z : Word), vFloat n = true →
      (fvNan (f32 x) = true ∨ fvNan (f32 y) = true →
        (laneMax n x y z).w = 0x7FC00000 ∧ (laneMin n x y z).w = 0x7FC00000) ∧
      (laneAbs n m x y z).w.toNat < 2 ^ 31) ∧
   (∀ (s : State) (i : Issue) (w : VecSlot), Taken s i conVec →
      let b := i.block
      let a := vLanes s b (vA w)
      let others (t : State) : Prop := (∀ q, q ≠ vD w → vLanes t b q = vLanes s b q) ∧ t.mem = s.mem
      (∀ x ∈ [(Instr.rsum i w, redSum (vNctl w) a), (.rmax i w, redBest true (vNctl w) a),
          (.rmin i w, redBest false (vNctl w) a), (.argmax i w, redArg true (vNctl w) a),
          (.argmin i w, redArg false (vNctl w) a), (.bcast i w, bcastWord w)],
        Does x.1 s fun t => (∀ j < 1024, (vLanes t b (vD w))[j]? = some x.2) ∧ others t) ∧
      Does (.cvt i w) s fun t => others t ∧
        (wholeLane (vSrc w) = true → wholeLane (nctlFmt (vNctl w)) = true → ∀ j < 1024,
          (vLanes t b (vD w))[j]? = some (laneOf (nctlFmt (vNctl w))
            (narrow (vNctl w) (s.srKey b (s.desc b (vDesc w))) ((s.desc b (vDesc w)).ibase + j)
              (f32 (getAt 0 a j))).bits)))

/-- Loads of the vector unit (R57, R80). VLD widens each element of a floating-point format to FP32 in its own lane and
packs integers as they stand; GATHER gives each lane the element its index names and 0 where the index lies outside
the block's SRAM. The other registers and memory stay. Stores of the vector unit (R57, R80, R84, R97). VST changes
only its lines of the block's SRAM and, for an MX format, the 32 scales at ADDR_A; SCATTER and SCATTER_ADD change
only the bytes of the elements that lanes name; CVT_MX changes only the 32 scales at ADDR_A. Every other byte of
memory stays. The bytes that VST writes of a register without poison, outside the descriptor table, are the
register's elements narrowed under NCTL. Choices of the model that it rests on: log 23, 27, 28. -/
def Obligations.VectorLoadsAndStores : Prop :=
   (∀ (s : State) (i : Issue) (w : VecSlot) (ecc : List EccHit), Taken s i conVec → Wf s →
      let b := i.block
      let c := vSrc w
      let others (t : State) : Prop := (∀ q, q ≠ vD w → vLanes t b q = vLanes s b q) ∧ t.mem = s.mem
      Does (.vld i w ecc) s (fun t => others t ∧
        let bs := (List.range (128 * ceilDiv (vBytes c) 128)).map fun k => memByte s.mem (lineByte b (vImm w) k)
        (fmtMx c = false → wholeLane c = true → ∀ j < 1024,
          (vLanes t b (vD w))[j]? = some (near32 (fmtVal c (fmtElem c bs j)))) ∧
        (wholeLane c = false → ∀ j < 1024, (vLanes t b (vD w))[j]? = some (BitVec.ofNat 32 (leField bs (4 * j) 4)))) ∧
      Does (.gather i w ecc) s fun t => others t ∧ ∀ j < 1024,
        (vLanes t b (vD w))[j]? = some (match elemBit w (getAt 0 (vLanes s b (vA w)) j).toNat with
          | some o => widenElem c (getElem s b c o)
          | none => 0)) ∧
   (∀ (s : State) (i : Issue) (w : VecSlot), Taken s i conVec →
      let b := i.block
      let c := nctlFmt (vNctl w)
      let lines := ceilDiv (vBytes c) 128
      let inLines (a : Nat) : Prop := ∃ r ∈ lineRanges b (vImm w) lines, r.1 ≤ a ∧ a < r.1 + r.2
      let inScales (a : Nat) : Prop := ∃ k < 4, ∃ rs, s.planRange b ((s.desc b (vDesc w)).addrA + 8 * k) 8 = some rs ∧ Within rs a
      let inElems (a : Nat) : Prop := ∃ x ∈ vLanes s b (vB w), ∃ o, elemBit w x.toNat = some o ∧
        sramBase b + o / 8 ≤ a ∧ a < sramBase b + o / 8 + (o % 8 + elemBits (vSrc w) + 7) / 8
      Does (.vst i w) s (fun t =>
        (∀ a, ¬ inLines a → (fmtMx c = true → ¬ inScales a) → memByte t.mem a = memByte s.mem a) ∧
        (fmtMx c = false → wholeLane (vSrc w) = true → wholeLane c = true → vPoisoned s b (vA w) = [] →
          (∀ q, vImm w + lines ≤ 65536 → q < vBytes c →
            ¬ ((tableOf s b).1 < sramBase b + 128 * vImm w + vBytes c ∧
              sramBase b + 128 * vImm w < (tableOf s b).1 + (tableOf s b).2) → b < 128 →
            memByte t.mem (sramBase b + 128 * vImm w + q) =
              getAt 0 (packElems c ((narrowAll (vNctl w) (s.srKey b (s.desc b (vDesc w))) (s.desc b (vDesc w)).ibase
                ((vLanes s b (vA w)).take 1024 |>.map f32)).map (·.bits))) q))) ∧
      Does (.scatter i w) s (fun t => ∀ a, ¬ inElems a → memByte t.mem a = memByte s.mem a) ∧
      (∀ ecc, Does (.scatterAdd i w ecc) s fun t => ∀ a, ¬ inElems a → memByte t.mem a = memByte s.mem a) ∧
      Does (.cvtMx i w) s fun t => (∀ a, ¬ inScales a → memByte t.mem a = memByte s.mem a) ∧
        ∀ q, q ≠ vD w → vLanes t b q = vLanes s b q)

/-! ### Memory (04) -/

/-- The housekeeping of memory (R96, R101, R103): a refresh, a refresh management command and a write-back change no
data; a patrol read moves its stack's position on, counts what the code check found and ends the patrol at its last
sector; the power cap may hold it. The undo journal's copy (R244): with a step under way, once a page's bytes are
copied to the journal page, its entry stands in the step's segment and the writes that waited for it have landed;
the copy holds the bytes the page held before them. Where the run has ended meanwhile the waiting writes land with
no entry (R257). A page for which nothing waits is left alone. Zeroing (R112 to R114). While a block or slice is
being zeroed its watermark stands where the last pass put it, and with nothing waiting for it the bytes that the
pass covers, from the watermark before to the new one, read as 0 and no other byte changes: what was written below
the watermark stays. When it completes the unit is no longer being zeroed, a block's stores are empty, its bytes
from the watermark on read as 0, and no other byte changes. Choices of the model that it rests on: log 12, 32, 92. -/
def Obligations.MemoryHousekeeping : Prop :=
   (∀ (s : State) (stack sector n word : Nat),
      Does (.sramEccWriteback stack word) s (fun t =>
        t.msys.writeback = s.msys.writeback.erase (stack, word) ∧ t.mem = s.mem) ∧
      (∀ x : Refresh, Does (.hbmRefresh stack x) s fun t => t.mem = s.mem ∧
        (x.management = false → mapGet 0 t.msys.refreshes stack = mapGet 0 s.msys.refreshes stack + 1 ∧
          t.msys.rfms = s.msys.rfms ∧ ∀ k, k ≠ stack → mapGet 0 t.msys.refreshes k = mapGet 0 s.msys.refreshes k) ∧
        (x.management = true → mapGet 0 t.msys.rfms stack = mapGet 0 s.msys.rfms stack + 1 ∧
          t.msys.refreshes = s.msys.refreshes)) ∧
      Does (.hbmOdeccPoll stack n) s (fun t => Counted s t R.MEM_HBM_ODECC stack n ∧ t.mem = s.mem) ∧
      Does (.patrolOverrun stack n) s (fun t => Logged s t 0x5016 (uHbm stack) [(4, n)]) ∧
      (s.power.holdUnplanned = true → ∀ e last, Does (.hbmPatrolRead stack sector e last) s fun t => t = s) ∧
      let a := stack * stackBytes + 64 * sector
      (stack < 8 → 64 * sector < stackBytes → s.power.holdUnplanned = false → s.rd R.MEM_ZERO_SLICE (a / gib) ≠ 2 →
        s.poisoned a 64 = false →
        Does (.hbmPatrolRead stack sector none false) s (fun t =>
          mapGet 0 t.msys.patrol stack = sector + 1 ∧ t.mem = s.mem ∧ t.od = s.od) ∧
        Does (.hbmPatrolRead stack sector none true) s (fun t =>
          t.msys.patrol = [] ∧ Counted s t R.MEM_PATROL_DONE 0 1 ∧ t.mem = s.mem) ∧
        Does (.hbmPatrolRead stack sector (some .corrected) false) s (fun t =>
          Counted s t R.MEM_HBM_CORR stack 1 ∧ t.mem = s.mem ∧ t.parts = s.parts) ∧
        Does (.hbmPatrolRead stack sector (some .uncorrected) false) s fun t =>
          Counted s t R.MEM_HBM_UNCORR stack 1 ∧ t.mem = s.mem ∧
            (s.slicePart a < 128 → s.active (s.slicePart a) = true → (t.part (s.slicePart a)).verdict.poison = true))) ∧
   (∀ (s : State) (p page : Nat),
      let mine := (s.part p).held.filter fun h => h.page == page
      (mine = [] → Does (.journalCopy p page) s fun t => t = s) ∧
      (mine ≠ [] → s.active p = false → Does (.journalCopy p page) s fun t =>
        (t.part p).journal = (s.part p).journal ∧ (t.part p).held = (s.part p).held.filter (fun h => h.page != page)) ∧
      (∀ k a, mine ≠ [] → s.active p = true → jnlFree s p = some k → s.pageAddr p page = some a → Wf s →
        Does (.journalCopy p page) s fun t =>
          inSeg (t.part p) (s.rd R.SEAL_STEP p) page = true ∧
            (t.part p).held = (s.part p).held.filter (fun h => h.page != page) ∧
            ((∀ h ∈ mine, h.addr + h.data.length ≤ jnlAddr s p k ∨ jnlAddr s p k + pageBytes ≤ h.addr) →
              ∀ j < pageBytes, memByte t.mem (jnlAddr s p k + j) = memByte s.mem (a + j)))) ∧
   (∀ (s : State) (mark b k : Nat), s.power.holdUnplanned = false → b < 128 → k < 384 →
      let quiet : Prop := s.msys.held = [] ∧ s.host.movers = []
      let line := s.rd R.MEM_ZERO_LINE b
      let sector := s.rd R.MEM_ZERO_SECTOR k
      let clears (t : State) (a n : Nat) : Prop :=
        MemBut (Within [(a, n)]) s t ∧ ∀ x, Within [(a, n)] x → memByte t.mem x = 0
      (s.rd R.MEM_ZERO_BLOCK b = 1 → mark ≤ 65535 → Does (.zeroWatermarkPass (.block b) mark) s fun t =>
        t.rd R.MEM_ZERO_LINE b = mark ∧ (quiet → clears t (sramBase b + 128 * line) (128 * (mark - line)))) ∧
      (s.rd R.MEM_ZERO_SLICE k = 2 → mark ≤ 16777216 → Does (.zeroWatermarkPass (.slice k) mark) s fun t =>
        t.rd R.MEM_ZERO_SECTOR k = mark ∧ (quiet → clears t (k * gib + 64 * sector) (64 * (mark - sector)))) ∧
      (s.rd R.MEM_ZERO_BLOCK b ≠ 0 → quiet → Does (.zeroingComplete (.block b)) s fun t =>
        t.rd R.MEM_ZERO_BLOCK b = 0 ∧ (t.block b).cells = [] ∧ (t.block b).vregs = [] ∧ (t.block b).arrivals = [] ∧
          clears t (sramBase b + 128 * line) (128 * (65536 - line))) ∧
      (s.rd R.MEM_ZERO_SLICE k ≠ 0 → quiet → Does (.zeroingComplete (.slice k)) s fun t =>
        t.rd R.MEM_ZERO_SLICE k = 0 ∧ clears t (k * gib + 64 * sector) (64 * (16777216 - sector))))

/-- Requests to memory (R108 to R110, R114). One that the partition table denies changes no memory and is recorded; a
read is answered with zeros marked denied. One that zeroing holds is counted and waits. Otherwise a read is answered
with the bytes of its ranges and changes none, and a write changes no byte outside its ranges; in a block's SRAM its
bytes are the data. Choices of the model that it rests on: log 12, 32. -/
def Obligations.MemoryRequests : Prop :=
  ∀ (s : State) (r : MemReq), r.offset < dictBase →
    (reqRange s r = none → r.planned = false → Does (.memoryRequest r) s fun t =>
      t.mem = s.mem ∧ Logged s t 0x5020 (targetUnit r.offset) [(2, r.unit), (8, r.offset)] ∧
        (r.write = false → t.outbox.getLast? = some (.readReply r.unit (List.replicate r.len 0) false true))) ∧
    ∀ rs, reqRange s r = some rs →
      ((∃ c ∈ rs, (holdOf s c.1 c.2).isSome = true) → Does (.memoryRequest r) s fun t =>
        t.mem = s.mem ∧ Counted s t R.MEM_ZERO_HOLD 0 1 ∧ t.msys.held.length = s.msys.held.length + 1 ∧
          t.outbox = s.outbox) ∧
      ((∀ c ∈ rs, holdOf s c.1 c.2 = none) →
        (r.write = false → Does (.memoryRequest r) s fun t => t.mem = s.mem ∧
          ∃ bad, t.outbox.getLast? = some (.readReply r.unit (rs.map fun c => s.read c.1 c.2).flatten bad false)) ∧
        (r.write = true → Does (.memoryRequest r) s fun t => MemBut (Within rs) s t ∧
          (∀ c, rs = [c] → hbmBytes ≤ c.1 → r.data.length = c.2 → r.len = c.2 →
            ∀ j < c.2, memByte t.mem (c.1 + j) = getAt 0 r.data j)))

/-- The partition table (R107, R111, R117). A new owner is written only while the partition is Empty, and its blocks and
slices are then zeroed from their start; so are a block and a slice that change partition and a slice that changes
use, whose hosted keep set returns to 0. A change of a partition that is not Empty is refused. Choices of the model
that it rests on: log 14, 32. -/
def Obligations.PartitionTable : Prop :=
  ∀ (s : State) (who : Who) (x v : Nat),
    (Allowed s who R.CMP_PART_OWNER x v →
      (s.pstate x = psEmpty → v ≠ s.rd R.CMP_PART_OWNER x → Writes who (.cmpPartOwner who x v) s fun t =>
        t.rd R.CMP_PART_OWNER x = v ∧ (∀ b ∈ s.blocksOf x, t.rd R.MEM_ZERO_BLOCK b = 1 ∧ t.rd R.MEM_ZERO_LINE b = 0) ∧
          ∀ k ∈ s.slicesOf x, t.rd R.MEM_ZERO_SLICE k ≠ 0 ∧ t.rd R.MEM_ZERO_SECTOR k = 0) ∧
      (s.pstate x ≠ psEmpty → TurnedAway who (.cmpPartOwner who x v) s rState)) ∧
    (Allowed s who R.CMP_PART_TAG x v →
      (s.pstate x = psEmpty → Writes who (.cmpPartTag who x v) s fun t => t.rd R.CMP_PART_TAG x = v ∧ t.mem = s.mem) ∧
      (s.pstate x ≠ psEmpty → TurnedAway who (.cmpPartTag who x v) s rState)) ∧
    (Allowed s who R.CMP_BLOCK_PART x v →
      (partFree s (s.partOf x) = true → partFree s v = true → s.obs.margin = none → v ≠ s.partOf x →
        Writes who (.cmpBlockPart who x v) s fun t =>
          t.partOf x = v ∧ t.rd R.MEM_ZERO_BLOCK x = 1 ∧ t.rd R.MEM_ZERO_LINE x = 0) ∧
      (partFree s (s.partOf x) = false ∨ partFree s v = false → TurnedAway who (.cmpBlockPart who x v) s rState)) ∧
    (Allowed s who R.MEM_SLICE_PART x v →
      (partFree s (s.rd R.MEM_SLICE_PART x) = true → partFree s v = true → v ≠ s.rd R.MEM_SLICE_PART x →
        Writes who (.memSlicePart who x v) s fun t => t.rd R.MEM_SLICE_PART x = v ∧ t.rd R.MEM_ZERO_SLICE x ≠ 0) ∧
      (partFree s (s.rd R.MEM_SLICE_PART x) = false ∨ partFree s v = false →
        TurnedAway who (.memSlicePart who x v) s rState)) ∧
    (Allowed s who R.MEM_SLICE_USE x v →
      (partFree s (s.rd R.MEM_SLICE_PART x) = true → v ≠ s.rd R.MEM_SLICE_USE x →
        Writes who (.memSliceUse who x v) s fun t =>
          t.rd R.MEM_SLICE_USE x = v ∧ t.rd R.MEM_SLICE_HOST x = 0 ∧ t.rd R.MEM_ZERO_SLICE x ≠ 0) ∧
      (partFree s (s.rd R.MEM_SLICE_PART x) = false → TurnedAway who (.memSliceUse who x v) s rState)) ∧
    (Allowed s who R.MEM_SLICE_HOST x v →
      (s.rd R.MEM_SLICE_USE x = 3 → Writes who (.memSliceHost who x v) s fun t =>
        t.rd R.MEM_SLICE_HOST x = v &&& R.MEM_SLICE_HOST.mask ∧ t.mem = s.mem) ∧
      (s.rd R.MEM_SLICE_USE x ≠ 3 → TurnedAway who (.memSliceHost who x v) s rState))

/-! ### Ports (05) -/

/-- The states of a port (R128, R142). FAB_PORT_ADMIN = 0 takes a port Off and 1 begins its bring-up; a full retrain, or
a retry 1 s after it went Down, puts a port that has light into Training and counts it; a failed attempt is recorded
and the third takes the port Down, by cause 2 without a signal and 1 otherwise; a retrain of a port that is Off or
in Reset is refused. No other port changes state. Choices of the model that it rests on: log 14, 40, 102. -/
def Obligations.PortStates : Prop :=
  ∀ (s : State) (who : Who) (port v : Nat), port < 6 →
    let others (t : State) : Prop := ∀ p, p < 6 → p ≠ port → t.rd R.FAB_PORT_STATE p = s.rd R.FAB_PORT_STATE p
    (Allowed s who R.FAB_PORT_ADMIN port v →
      (v = 0 → s.rd R.FAB_PORT_STATE port ≠ 4 → s.inReset (uPort port) = false →
        Writes who (.fabPortAdmin who port v) s fun t =>
          t.rd R.FAB_PORT_ADMIN port = 0 ∧ t.rd R.FAB_PORT_STATE port = 4 ∧ (t.port port).train = none ∧ others t) ∧
      (v = 1 → s.rd R.FAB_PORT_STATE port = 4 → s.inReset (uPort port) = false → s.mainUp = true → s.lit port = true →
        Writes who (.fabPortAdmin who port v) s fun t =>
          t.rd R.FAB_PORT_ADMIN port = 1 ∧ t.rd R.FAB_PORT_STATE port = 1 ∧ (t.port port).train = some .bringup ∧
            others t)) ∧
    (Allowed s who R.FAB_PORT_CMD port 1 →
      (s.rd R.FAB_PORT_STATE port = 3 → s.lit port = true → Writes who (.portFullRetrain who port) s fun t =>
        t.rd R.FAB_PORT_STATE port = 1 ∧ (t.port port).train = some .full ∧ (t.port port).attempts = 0 ∧
          Counted s t R.FAB_RETRAIN_FULL port 1 ∧ others t) ∧
      (s.rd R.FAB_PORT_STATE port = 4 ∨ s.rd R.FAB_PORT_STATE port = 0 →
        TurnedAway who (.portFullRetrain who port) s rState)) ∧
    (s.rd R.FAB_PORT_STATE port = 3 → s.rd R.FAB_PORT_ADMIN port = 1 → s.lit port = true →
      ((s.port port).retryNs + 1000000000 ≤ s.now → Does (.portDownRetry port) s fun t =>
        t.rd R.FAB_PORT_STATE port = 1 ∧ (t.port port).train = some .full ∧ Counted s t R.FAB_RETRAIN_FULL port 1 ∧
          others t) ∧
      (s.now < (s.port port).retryNs + 1000000000 → Does (.portDownRetry port) s fun t => t = s)) ∧
    (s.rd R.FAB_PORT_STATE port = 1 → ∀ stage lane dark,
      ((s.port port).attempts < 2 → Does (.trainingAttemptFail port stage lane dark) s fun t =>
        t.rd R.FAB_PORT_STATE port = 1 ∧ (t.port port).attempts = (s.port port).attempts + 1 ∧
          Logged s t 0x6003 (uPort port) [(1, stage), (1, lane)] ∧ others t) ∧
      ((s.port port).attempts = 2 → Does (.trainingAttemptFail port stage lane dark) s fun t =>
        t.rd R.FAB_PORT_STATE port = 3 ∧ t.rd R.FAB_PORT_CAUSE port = (if dark then 2 else 1) ∧
          (t.port port).train = none ∧ others t))

/-- HELLO in Training (R127, R129, R130, R134, R155). Once the codewords align the lanes that pass are settled and the
port sends its HELLO with its CRC. The partner's HELLO takes the port Down by cause 4 where the latency is past the
limit, by cause 3 where FAB_PORT_EXPECT names another partner, and by cause 1 where a direction has too few lanes;
otherwise the port is Up with that partner and latency, and every class has its whole buffer as credit. In a
training to reduced width the lanes that pass carry the reduced width, or the port goes Down by cause 1. Choices of
the model that it rests on: log 33, 39. -/
def Obligations.HelloBringsUp : Prop :=
  ∀ (s : State) (port lat : Nat) (h : Hello) (pass : List Nat), port < 6 → h.chip < 2 ^ 17 → h.port < 8 → lat < 2 ^ 32 →
    s.rd R.FAB_PORT_STATE port = 1 →
    let limit := if isOptical port then 1150 else 150
    let who := h.chip + h.port * 2 ^ 17
    let want := s.rd R.FAB_PORT_EXPECT port
    let sound := (List.range (nLanes port)).filter fun l => pass.contains l && s.lane port l != lOut
    let given := (h.lanes.filter fun st => st == lActive).length
    Does (.fecAligned port true pass) s (fun t => (t.port port).fecUp = true ∧
      (∃ f : Flit, ∃ m : Hello, t.outbox.getLast? = some (.flit port f) ∧ f.type = 3 ∧ f.seq = 0 ∧ f.payload = .ctl (.hello m) ∧
        f.ack = ((s.port port).rxExpected + 4095) % 4096 ∧ f.ackv = true ∧ f.crc = flitCrc f ∧ m.chip = s.me ∧
        m.port = port ∧ m.expected = (s.port port).rxExpected) ∧
      ((s.port port).train ≠ some .width → fullWidth port ≤ sound.length → t.rd R.FAB_PORT_WIDTH_RX port = fullWidth port) ∧
      ((s.port port).train ≠ some .width → (s.port port).outClr = [] → redWidth port ≤ sound.length →
        sound.length < fullWidth port → t.rd R.FAB_PORT_WIDTH_RX port = redWidth port)) ∧
    ((s.port port).fecUp = true →
      (limit < lat → Does (.hello port h lat pass) s fun t =>
        t.rd R.FAB_PORT_STATE port = 3 ∧ t.rd R.FAB_PORT_CAUSE port = 4) ∧
      (lat ≤ limit → want ≠ 0xFFFFFFFF → want % 2 ^ 20 ≠ who → Does (.hello port h lat pass) s fun t =>
        t.rd R.FAB_PORT_STATE port = 3 ∧ t.rd R.FAB_PORT_CAUSE port = 3) ∧
      (lat ≤ limit → want = 0xFFFFFFFF ∨ want % 2 ^ 20 = who →
        (redWidth port ≤ s.rd R.FAB_PORT_WIDTH_RX port → redWidth port ≤ given → given ≤ nLanes port →
          (∀ e ∈ (s.port port).txCause, getAt lIdle h.lanes e.1 ≠ lActive) → Does (.hello port h lat pass) s fun t =>
            t.rd R.FAB_PORT_STATE port = 2 ∧ t.rd R.FAB_PORT_WIDTH_TX port = given ∧
              t.rd R.FAB_PORT_PARTNER port = who ∧ t.rd R.FAB_PORT_LAT port = lat ∧ (t.port port).train = none ∧
              ∀ c ∈ crClasses, t.rd R.FAB_VC_CREDIT (vcKey port c) = crSize c) ∧
        (given < redWidth port → Does (.hello port h lat pass) s fun t =>
          t.rd R.FAB_PORT_STATE port = 3 ∧ t.rd R.FAB_PORT_CAUSE port = 1))) ∧
    ((s.port port).train = some .width →
      (redWidth port ≤ sound.length → Does (.widthReduction port false pass) s fun t =>
        t.rd R.FAB_PORT_WIDTH_RX port = redWidth port ∧ t.rd R.FAB_PORT_STATE port = 1) ∧
      (sound.length < redWidth port → Does (.widthReduction port false pass) s fun t =>
        t.rd R.FAB_PORT_STATE port = 3 ∧ t.rd R.FAB_PORT_CAUSE port = 1))

/-- A port's lanes (R131 to R133, R135, R145). A window's errors are counted for each lane and, past the threshold, move
an Active lane to a Ready one by a fast retrain; SPARE_OFFER does so by the cause it gives; SPARE_REQ queues
SPARE_GO at the transmitter; SPARE_GO gives the spare the leaving lane's logical lane; when the transmitter resumes,
3,400 ns after it, the fast retrain is counted; the loss of every lane takes the port Down by cause 2. FAB_PORT_CMD
= 2 clears the port's counters. Choices of the model that it rests on: log 39, 40, 102. -/
def Obligations.LanesAndSpares : Prop :=
  ∀ (s : State) (port : Nat), port < 6 →
    (s.portUp port = true →
      (∀ l n, l < nLanes port → n ≤ s.rd R.FAB_LANE_THR 0 → n < 2 ^ 32 → Does (.laneWindowEnd port [(l, n)]) s fun t =>
        Counted s t R.FAB_LANE_FECSYM (laneKey port l) n ∧ t.rd R.FAB_LANE_WINDOW (laneKey port l) = n ∧
          ∀ k, t.lane port k = s.lane port k) ∧
      (∀ l n spare, l < nLanes port → s.rd R.FAB_LANE_THR 0 < n → n < 2 ^ 32 → s.lane port l = lActive →
        s.rd R.FAB_SPARE_POLICY port ≠ 1 → (s.port port).fastRx = none → (s.lanesIn port lReady).head? = some spare →
        Does (.laneWindowEnd port [(l, n)]) s fun t =>
          (t.port port).fastRx = some { gone := false, moves := [{ lane := l, spare := spare }], sinceNs := s.now } ∧
            (t.port port).ctlq = (s.port port).ctlq ++ [.spareReq [{ lane := l, spare := spare }]] ∧
            t.rd R.FAB_LANE_CAUSE (laneKey port l) = 1) ∧
      (∀ moves, (∀ c ∈ (s.port port).ctlq, ∀ m, c ≠ .spareGo m) → Does (.spareReq port moves) s fun t =>
        (t.port port).ctlq = .spareGo moves :: (s.port port).ctlq) ∧
      (∀ l spare cause, l < nLanes port → s.lane port l = lActive → (s.port port).fastRx = none → cause = 3 ∨ cause = 4 →
        (s.lanesIn port lReady).head? = some spare → Does (.spareOffer port { lane := l, cause := cause }) s fun t =>
          (t.port port).ctlq = (s.port port).ctlq ++ [.spareReq [{ lane := l, spare := spare }]] ∧
            t.rd R.FAB_LANE_CAUSE (laneKey port l) = cause) ∧
      (∀ l spare f, l < nLanes port → spare < nLanes port → l ≠ spare → (s.port port).fastRx = some f → f.gone = false →
        Does (.spareGo port [{ lane := l, spare := spare }]) s fun t =>
          t.lane port l = lOut ∧ t.lane port spare = lActive ∧
            t.rd R.FAB_LANE_ROLE (laneKey port spare) = s.rd R.FAB_LANE_ROLE (laneKey port l) ∧
            t.rd R.FAB_LANE_ROLE (laneKey port l) = 0xFF ∧
            ∀ k, k < nLanes port → k ≠ l → k ≠ spare → t.lane port k = s.lane port k) ∧
      (∀ lanes, (∀ l ∈ s.lanesIn port lActive ++ s.lanesIn port lReady, lanes.contains l = true) →
        Does (.lossOfLock port lanes) s fun t =>
          t.rd R.FAB_PORT_STATE port = 3 ∧ t.rd R.FAB_PORT_CAUSE port = 2 ∧ ∀ k, t.lane port k = s.lane port k)) ∧
    (∀ f, (s.port port).fastTx = some f →
      ((s.port port).pendingMoves = [] → (s.port port).fullAfter = false → f.sinceNs + 3400 ≤ s.now →
        Does (.fastRetrainResume port) s fun t =>
          (t.port port).fastTx = none ∧ Counted s t R.FAB_RETRAIN_FAST port 1 ∧
            Logged s t 0x6011 (uPort port) [(4, f.moves.length), (4, f.moves.length)]) ∧
      (s.now < f.sinceNs + 3400 → Does (.fastRetrainResume port) s fun t => t = s)) ∧
    (∀ who l, Allowed s who R.FAB_LANE_OUT_CLR (laneKey port l) 1 → l < 32 →
      Writes who (.fabLaneOutClr who (laneKey port l) 1) s fun t =>
        l ∈ (t.port port).outClr ∧ ∀ k, t.lane port k = s.lane port k) ∧
    ∀ who, Allowed s who R.FAB_PORT_CMD port 2 → Writes who (.portClearCounters who port) s fun t =>
      (∀ r : Reg, r.index = 0x4001 → t.rd r port = regDflt r port ∧
        ∀ p, p < 6 → p ≠ port → t.rd r p = s.rd r p) ∧
      ∀ r : Reg, r.index ≠ 0x4001 → r.index ≠ 0x4010 → ∀ i, t.rd r i = s.rd r i

/-! ### The link layer (05) -/

/-- Sending (R123 to R126, R133, R153). An unreserved slot carries link control first, in a sequenced flit kept for
retry; a slot under a rewind sends the next kept flit again with its own number and counts it; each carries the
number last accepted and the CRC of its bytes. A NULL carries the acknowledgement that nothing else carried. While
the port is not Up a slot passes and sends nothing; a direction that is silent sends none of them. Choices of the
model that it rests on: log 33. -/
def Obligations.LinkSends : Prop :=
  ∀ (s : State) (port : Nat), port < 6 →
    let o := s.port port
    let last := (o.rxExpected + 4095) % 4096
    let free : Prop :=
      s.portUp port = true ∧ silent o = false ∧ narrowWidth s port = false ∧ slotOwner s port = none
    let sends (t : State) (P : Flit → Prop) : Prop := ∃ f : Flit, t.outbox = s.outbox ++ [.flit port f] ∧ f.ack = last ∧
      f.ackv = true ∧ f.crc = flitCrc f ∧ P f
    (free → o.resend = 0 → o.retry.length < 2048 →
      ∀ c rest, o.ctlq = c :: rest → (∀ m, c ≠ .spareGo m) → (∀ l, c ≠ .creditSync l) → Does (.txSlot port) s fun t =>
        (t.port port).slot = (o.slot + 1) % 1024 ∧ (t.port port).ctlq = rest ∧
          (t.port port).txNext = (o.txNext + 1) % 4096 ∧ (t.port port).retry.length = o.retry.length + 1 ∧
          sends t fun f => f.type = 3 ∧ f.seq = o.txNext ∧ f.payload = .ctl c) ∧
    (free → ∀ f rest, o.resend ≠ 0 → o.retry.drop (o.retry.length - o.resend) = f :: rest →
      (∀ l, f.flit.payload ≠ .ctl (.creditSync l)) → Does (.txSlot port) s fun t =>
        (t.port port).resend = o.resend - 1 ∧ (t.port port).retry = o.retry ∧ Counted s t R.FAB_REPLAYED port 1 ∧
          sends t fun g => g.type = f.flit.type ∧ g.seq = f.flit.seq ∧ g.payload = payloadNow s port f.flit.payload) ∧
    (s.portUp port = false → o.downNs = none → Does (.txSlot port) s fun t =>
      (t.port port).slot = (o.slot + 1) % 1024 ∧ t.outbox = s.outbox) ∧
    (s.portUp port = true → silent o = true → narrowWidth s port = false → Does (.txSlot port) s fun t => t.outbox = s.outbox) ∧
    (s.portUp port = true → o.unackedRx ≠ 0 →
      (silent o = false → Does (.ackNullSend port) s fun t =>
        (t.port port).unackedRx = 0 ∧ sends t fun f => f.type = 0 ∧ f.payload = .empty) ∧
      (silent o = true → Does (.ackNullSend port) s fun t => t = s))

/-- Receiving (R124 to R126, R145). A flit with a good CRC and the number expected is delivered and the next is
expected; one out of order and a flit with a bad CRC are discarded with one NAK of the number expected, at once or,
while the direction is silent, as it resumes, and no second before that number arrives; a bad CRC counts once, an
uncorrectable codeword once for its flits. An acknowledgement frees what it covers; a NAK, or the replay timer when
it has run, rewinds, which is counted; a credit return raises its class up to the buffer's size. Choices of the
model that it rests on: log 33, 38. -/
def Obligations.LinkReceives : Prop :=
  ∀ (s : State) (port : Nat) (f : Flit) (ecc : List EccHit), port < 6 → s.portUp port = true →
    let o := s.port port
    let nak (t : State) : Prop := (t.port port).naked = true ∧ (t.port port).rxExpected = o.rxExpected ∧
      if o.naked then t.outbox = s.outbox
      else if silent o then t.outbox = s.outbox ∧ (t.port port).nakDue = true
      else ∃ g : Flit, t.outbox = s.outbox ++ [.flit port g] ∧ g.type = 2 ∧ g.ack = o.rxExpected
    let bare : Prop := f.ackv = false ∧ f.crcnt = 0
    (∀ fail, Does (.flitCrcFailure port fail) s fun t => nak t ∧
      Counted s t R.FAB_CRC_ERR port (if fail = .crc then 1 else 0) ∧
      Counted s t R.FAB_FEC_UNCORR port (if fail = .codeword true then 1 else 0)) ∧
    (f.crc ≠ flitCrc f → Does (.data port ⟨f, ecc⟩) s fun t => nak t ∧ Counted s t R.FAB_CRC_ERR port 1) ∧
    (f.crc = flitCrc f →
      (bare → f.type = 1 ∨ f.type = 3 → f.seq = o.rxExpected → f.payload = .empty → Does (.data port ⟨f, ecc⟩) s fun t =>
        (t.port port).rxExpected = (o.rxExpected + 1) % 4096 ∧ (t.port port).naked = false ∧
          (t.port port).unackedRx = o.unackedRx + 1 ∧ t.outbox = s.outbox) ∧
      (bare → f.type = 1 ∨ f.type = 3 → f.seq ≠ o.rxExpected → Does (.data port ⟨f, ecc⟩) s nak) ∧
      (f.ackv = true → f.type = 0 → f.crcnt = 0 → ∀ n, n = (f.ack + 1 + (4096 - o.txOldest)) % 4096 → 0 < n →
        n ≤ o.retry.length → Does (.null port f) s fun t =>
          (t.port port).retry = o.retry.drop n ∧ (t.port port).txOldest = (o.txOldest + n) % 4096 ∧ t.outbox = s.outbox) ∧
      (f.ackv = false → f.type = 0 → f.crcnt ≠ 0 → crClasses.contains f.crvc = true → Does (.null port f) s fun t =>
        t.rd R.FAB_VC_CREDIT (vcKey port f.crvc) =
          min (s.rd R.FAB_VC_CREDIT (vcKey port f.crvc) + f.crcnt) (crSize f.crvc)) ∧
      (f.type = 2 → f.crcnt = 0 → f.ack = o.txOldest → o.txOldest < 4096 → o.retry ≠ [] → o.retry.length ≤ 2048 →
        1 < s.rd R.FAB_RETRY_LIMIT 0 → o.rewinds = 0 → Does (.nak port f) s fun t =>
          (t.port port).resend = o.retry.length ∧ (t.port port).retry = o.retry ∧ Counted s t R.FAB_RETRY port 1)) ∧
    (o.retry ≠ [] → o.txOldest < 4096 → o.fastRx = none →
      (o.timerNs + (s.rd R.FAB_REPLAY_NS 0 : Nat) ≤ s.now → 1 < s.rd R.FAB_RETRY_LIMIT 0 → o.rewinds = 0 →
        Does (.replayTimerExpiry port) s fun t =>
          (t.port port).resend = o.retry.length ∧ (t.port port).rewinds = 1 ∧ Counted s t R.FAB_RETRY port 1) ∧
      (s.now < o.timerNs + (s.rd R.FAB_REPLAY_NS 0 : Nat) → Does (.replayTimerExpiry port) s fun t => t = s))

/-- Credits and pauses (R155, R156, R160). CREDIT_SYNC sets each class from the counts, by its buffer's size; the sender
reports what it freed and has returned as the flit leaves; PAUSE replaces the time left of the channels it names and
of no other; an ejection queue past its mark pauses every Up port once. Choices of the model that it rests on: log
38. -/
def Obligations.CreditsAndPauses : Prop :=
  ∀ (s : State) (port : Nat), port < 6 →
    (∀ freed, Does (.creditSync port freed) s fun t => ∀ c ∈ crClasses,
        t.rd R.FAB_VC_CREDIT (vcKey port c) =
          crSize c - (mapGet 0 (s.port port).sent c + (65536 - getAt 0 freed c % 65536)) % 65536) ∧
    (s.portUp port = true → Does (.creditSyncSend port) s fun t =>
      (t.port port).rxFlits = 0 ∧ (t.port port).ctlq = (s.port port).ctlq ++ [.creditSync []]) ∧
    (∀ l, payloadNow s port (.ctl (.creditSync l)) = .ctl (.creditSync (returned (s.port port)))) ∧
    (∀ mask time, time < 65536 → Does (.pause port mask time) s fun t =>
      (∀ vc, vc = 2 ∨ vc = 3 → t.rd R.FAB_VC_PAUSED (vcKey port vc) =
        if bitOf mask vc then time else s.rd R.FAB_VC_PAUSED (vcKey port vc)) ∧
      ∀ vc, vc = 0 ∨ vc = 1 ∨ vc = 4 → t.rd R.FAB_VC_PAUSED (vcKey port vc) = s.rd R.FAB_VC_PAUSED (vcKey port vc)) ∧
    (∀ vc, vc < 8 → Does (.pauseExpiry port vc) s fun t => t.rd R.FAB_VC_PAUSED (vcKey port vc) = 0 ∧
      ∀ w, w < 8 → w ≠ vc → t.rd R.FAB_VC_PAUSED (vcKey port w) = s.rd R.FAB_VC_PAUSED (vcKey port w)) ∧
    ∀ vc flits, vc = 2 ∨ vc = 3 → s.rd R.FAB_PAUSE_ON 0 ≤ flits → mapGet false s.router.pausedOn vc = false →
      Does (.pauseSend vc flits) s fun t => mapGet false t.router.pausedOn vc = true ∧
        ∀ p, p < 6 → (t.port p).ctlq = if s.portUp p then
          (s.port p).ctlq ++ [.pause (2 ^ vc) (s.rd R.FAB_PAUSE_TIME 0)] else (s.port p).ctlq

/-! ### Clocks between chips and laser modules (05) -/

/-- Clock syntonization (R137, R138). The root takes its own reference at depth 0; another chip follows the named port
at its depth plus one; when the port followed is lost an Up alternate is followed instead, and with none the chip
holds over; a lock found ends the acquisition. Laser modules (R140 to R144). One inserted is identified; one whose
pages, lasers or record do not serve is refused by reason 1, 2 or 3; a valid one is Ready with the rated life and
hours of its record. While it lases its hours are written to it every 24 h, its wavelengths' bias and power are
read, each second one of lasing, and after an hour a blank record receives the beginning-of-life values. A laser
that fails is lost; a module removed while it lases takes its port Down by cause 5. Choices of the model that it
rests on: log 14, 39, 41. -/
def Obligations.ClockAndLasers : Prop :=
   (∀ (s : State) (who : Who) (port : Nat),
      (Allowed s who R.FAB_CLK_UP 0 7 → Writes who (.fabClkUp who 7) s fun t =>
        t.rd R.FAB_CLK_UP 0 = 7 ∧ t.rd R.FAB_CLK_STATE 0 = 2 ∧ t.rd R.FAB_CLK_DEPTH 0 = 0 ∧ t.router.clkPort = none) ∧
      (Allowed s who R.FAB_CLK_UP 0 port → port ≠ 7 → (s.port port).clockDepth < 253 →
        Writes who (.fabClkUp who port) s fun t =>
          t.rd R.FAB_CLK_UP 0 = port ∧ t.router.clkPort = some port ∧ t.rd R.FAB_CLK_STATE 0 = 3 ∧
            t.rd R.FAB_CLK_DEPTH 0 = (s.port port).clockDepth + 1) ∧
      (∀ old, s.router.clkPort = some old → ∀ left, left = false ∨ s.portUp old = false →
        let alt := s.rd R.FAB_CLK_ALT 0
        (alt < 6 → alt ≠ old → s.portUp alt = true → (s.port alt).clockDepth < 253 →
          Does (.clockUpstreamLoss left) s fun t =>
            t.router.clkPort = some alt ∧ t.rd R.FAB_CLK_STATE 0 = 3 ∧
              t.rd R.FAB_CLK_DEPTH 0 = (s.port alt).clockDepth + 1) ∧
        (6 ≤ alt → Does (.clockUpstreamLoss left) s fun t =>
          t.rd R.FAB_CLK_STATE 0 = 1 ∧ Logged s t 0x6030 (uPort old) [(1, old)])) ∧
      (s.rd R.FAB_CLK_STATE 0 = 3 → Does .clockLockAcquired s fun t =>
        t.rd R.FAB_CLK_STATE 0 = if s.router.clkPort = none then 2 else 0)) ∧
   (∀ (s : State) (m : Nat), m < 2 →
      let st := s.rd R.FAB_LSR_STATE m
      (st = lsAbsent → Does (.moduleInsert m) s fun t => t.rd R.FAB_LSR_STATE m = lsIdentifying) ∧
      (∀ i : ModuleInfo, st = lsIdentifying →
        (i.pagesOk = false ∨ i.lasersOk = false ∨ (isBlank i.record = false ∧ isValid i.record = false) →
          Does (.moduleIdentified m i) s fun t => t.rd R.FAB_LSR_STATE m = lsRefused ∧
            Logged s t 0xD003 (uLaser m) [(1, if i.pagesOk = false then 1 else if i.lasersOk = false then 2 else 3)]) ∧
        (i.pagesOk = true → i.lasersOk = true → isBlank i.record = false → isValid i.record = true →
          Does (.moduleIdentified m i) s fun t => t.rd R.FAB_LSR_STATE m = lsReady ∧
            t.rd R.FAB_LSR_RATED_H m = leField i.record 2 4 ∧ t.rd R.FAB_LSR_HOURS m = leField i.record 6 4 ∧
            (t.laser m).record = i.record ∧ t.rdB R.FAB_LSR_SERIAL m = i.serial.take 16)) ∧
      (st ≠ lsAbsent → Does (.moduleRemove m) s fun t => t.rd R.FAB_LSR_STATE m = lsAbsent ∧ (t.laser m).record = [] ∧
        (st = lsLasing → s.rd R.FAB_PORT_STATE (portOf m) = 1 ∨ s.rd R.FAB_PORT_STATE (portOf m) = 2 →
          t.rd R.FAB_PORT_STATE (portOf m) = 3 ∧ t.rd R.FAB_PORT_CAUSE (portOf m) = 5)) ∧
      (st = lsLasing →
        (∀ (x : LaserSample) (second : Bool), x.wave < 9 → x.low = none → x.bias < 400000000 → x.power < 2 ^ 32 →
          Does (.laserMonitorRead m ⟨second, [x]⟩) s fun t =>
            t.rd R.FAB_LSR_BIAS (16 * m + x.wave) = 10 * x.bias % 2 ^ regBits R.FAB_LSR_BIAS ∧
              t.rd R.FAB_LSR_POWER (16 * m + x.wave) = x.power % 2 ^ regBits R.FAB_LSR_POWER ∧
              (t.laser m).lasingS = (s.laser m).lasingS + b2n second) ∧
        (∀ wave flags, Does (.laserFaultFlag m wave flags) s fun t =>
          wave ∈ (t.laser m).lostWaves) ∧
        ((s.laser m).record ≠ [] → Does (.laserHoursWrite m) s fun t =>
          (t.laser m).record = recordWith (s.laser m) (s.rd R.FAB_LSR_HOURS m) ∧
            t.outbox = s.outbox ++ [.moduleWrite m (recordWith (s.laser m) (s.rd R.FAB_LSR_HOURS m))]) ∧
        (∀ bias, (s.laser m).blank = true → 3600 ≤ (s.laser m).lasingS → (s.laser m).record.length = 32 →
          Does (.bolWrite m bias) s fun t =>
            (t.laser m).blank = false ∧ ∀ w < 9, bolOf (t.laser m) w = getAt 0 bias w % 65536)))

/-! ### Routing and flow control (05) -/

/-- Words on a link (R123, R147 to R149). The 256 bits of a packet header give back every field of the packet they were
made of, the 64 bits of a flit tag every field of the tag, and the 256 bytes of a DATA flit the flit, each at every
value its fields admit. -/
def Obligations.WordsOnALink : Prop :=
  (∀ p : Packet, p.offset < 2 ^ 47 → p.dst < 2 ^ 17 → p.src < 2 ^ 17 → p.vc < 8 → p.kind < 16 → p.len < 16 →
    p.dlen < 2 ^ 12 → p.epoch < 2 → p.hops < 256 → p.birth < 65536 → p.eseq < 65536 → p.incarn < 65536 →
    p.dtag < 65536 → p.spart < 128 → p.tgen < 16 → p.func < 1024 → p.rid < 65536 → p.sched < 4096 →
    p.resv < 2 ^ 26 → headerWord p < 2 ^ 256 ∧ packetOfWord (headerWord p) p.data = p) ∧
  (∀ g : FlitTag, g.vc < 8 → g.index < 16 → g.resv < 2 ^ 55 → tagWord g < 2 ^ 64 ∧ tagOfWord (tagWord g) = g) ∧
  ∀ (f : Flit) (bs : List Byte), f.type < 16 → f.seq < 4096 → f.ack < 4096 → f.crvc < 8 → f.crcnt < 256 →
    f.resv < 2 ^ 24 → f.payload = .data bs → bs.length = 240 → f.crc < 2 ^ 64 →
    (flitBytes f).length = 256 ∧ flitOfBytes (flitBytes f) = f

/-- A packet on its way (R150, R151, R163). One that is malformed, too old, of a Retired version, without a route or
past the hop limit is dropped by its cause, which is counted; one for another chip with an Up port on its route
joins the end of that port's queue with one hop more. A packet handed over by a unit leaves with this chip as its
source, the Active version and one hop; one for an address outside the domain map is denied and recorded, and what
no unit sends on a channel is not sent. Choices of the model that it rests on: log 34, 37. -/
def Obligations.PacketsAreRouted : Prop :=
  (∀ (s : State) (port : Nat) (p : Packet) (a : Arrival), port < 6 →
    (wellFormed p a.tags = false → Does (.packetRoute port p a) s fun t => Counted s t R.FAB_DROP_BAD 0 1 ∧ t.mem = s.mem) ∧
    (wellFormed p a.tags = true → tooOld s p = true → Does (.packetRoute port p a) s fun t =>
      Counted s t R.FAB_DROP_AGE 0 1 ∧ t.mem = s.mem) ∧
    (wellFormed p a.tags = true → tooOld s p = false → p.loc = false →
      (s.verState p.epoch = 0 → Does (.packetRoute port p a) s fun t => Counted s t R.FAB_DROP_STALE 0 1) ∧
      (s.verState p.epoch ≠ 0 → p.kind ≠ 5 → p.dst ≠ s.me →
        let d := dimPort s p.epoch p.dst
        (6 ≤ d → Does (.packetRoute port p a) s fun t => Counted s t R.FAB_DROP_NOROUTE 0 1) ∧
        (d < 6 → s.rd R.FAB_HOP_LIMIT 0 < p.hops + 1 → Does (.packetRoute port p a) s fun t =>
          Counted s t R.FAB_DROP_HOPS 0 1) ∧
        (d < 6 → p.hops + 1 ≤ s.rd R.FAB_HOP_LIMIT 0 →
          let out := detourOf s p.epoch p.dst d
          s.portUp (out.getD d) = true → Does (.packetRoute port p a) s fun t =>
            (t.port (out.getD d)).queue p.vc = (s.port (out.getD d)).queue p.vc ++
              [{ pkt := { p with hops := p.hops + 1, detour := p.detour || out.isSome }, inPort := port,
                 cls := classOf p }] ∧
            t.od = s.od ∧ t.mem = s.mem)))) ∧
  ∀ (s : State) (i : Inject), i.mover = none →
    (vcAllows i.vc i.kind = false → Does (.packetInject i) s fun t => t = s) ∧
    (vcAllows i.vc i.kind = true →
      (i.fabric = false → s.chipOf s.injVer i.dtag i.target = none → i.vc ≠ 1 → Does (.packetInject i) s fun t =>
        Logged s t 0x5020 (targetUnit i.offset) [(2, uInject), (8, i.offset)] ∧ t.ports = s.ports) ∧
      (∀ dst, (if i.fabric then some i.target else s.chipOf s.injVer i.dtag i.target) = some dst → dst ≠ s.me →
        i.vc = 1 → i.kind = 0 → ∀ d, dimPort s s.injVer dst = d → d < 6 → detourOf s s.injVer dst d = none →
        s.portUp d = true → 1 ≤ s.rd R.FAB_HOP_LIMIT 0 → Does (.packetInject i) s fun t => ∃ q : QPacket,
          (t.port d).queue 1 = (s.port d).queue 1 ++ [q] ∧ q.pkt.src = s.me ∧ q.pkt.dst = dst ∧ q.pkt.epoch = s.injVer ∧
            q.pkt.hops = 1 ∧ q.pkt.data = i.data ∧ q.pkt.dlen = i.data.length ∧ q.pkt.offset = i.offset))

/-- Packets for this chip (R150, R152, R157, R158). VC0 whose tag fails is dropped and counted, and delivers nothing; a
Clover message whose tag is good goes on to the FCC. A windowed packet is taken once: the expected one moves its
context on, one received before is counted as a duplicate and changes no memory, one without SYN that matches no
context is dropped and answered by RESYNC, and with 16,384 contexts in use a new source's is dropped without an
answer. What no unit of the chip takes leaves to the FCC. Choices of the model that it rests on: log 35. -/
def Obligations.PacketsAreTakenOnce : Prop :=
  ∀ (s : State) (p : Packet) (ecc : List EccHit),
    (p.vc = 0 → vc0Ok s p = false → Does (.packetEject p ecc) s fun t =>
      Counted s t R.FAB_DROP_AUTH 0 1 ∧ t.outbox = s.outbox ∧ t.mem = s.mem) ∧
    (p.vc = 0 → vc0Ok s p = true → p.kind = 7 → clvKnown p.data = true → Does (.packetEject p ecc) s fun t =>
      t = s.emit (.packet p)) ∧
    (p.vc = 4 → p.kind = 6 ∨ p.kind = 8 ∨ p.kind = 9 → Does (.packetEject p ecc) s fun t => t = s.emit (.packet p)) ∧
    (windowed p = true → p.kind ≠ 5 → ∀ c, mapFind s.router.rcv (ctxKey p.src p.vc) = some c → c.incarn = p.incarn →
      p.incarn < 65536 →
      (p.eseq = c.expected → c.above = [] → c.expected < 65536 → 0 < s.window p.vc → Does (.packetEject p ecc) s fun t =>
        (mapGet {} t.router.rcv (ctxKey p.src p.vc)).expected = (c.expected + 1) % 65536 ∧
          (mapGet {} t.router.rcv (ctxKey p.src p.vc)).sinceAck = c.sinceAck + 1) ∧
      (c.above.contains p.eseq = true → Does (.packetEject p ecc) s fun t =>
        Counted s t R.FAB_E2E_DUP 0 1 ∧ t.mem = s.mem ∧ t.outbox = s.outbox ∧
          (mapGet {} t.router.rcv (ctxKey p.src p.vc)).expected = c.expected)) ∧
    (windowed p = true → mapFind s.router.rcv (ctxKey p.src p.vc) = none →
      (p.syn = false → Does (.packetEject p ecc) s fun t =>
        Counted s t R.FAB_E2E_RESYNC 0 1 ∧ t.mem = s.mem ∧ t.router = s.router ∧
          ∀ d, dimPort s s.injVer p.src = d → d < 6 → detourOf s s.injVer p.src d = none → s.portUp d = true →
            1 ≤ s.rd R.FAB_HOP_LIMIT 0 → ∃ q : QPacket, (t.port d).queue 4 = (s.port d).queue 4 ++ [q] ∧
              q.pkt.dst = p.src ∧ q.pkt.kind = 3 ∧ q.pkt.incarn = p.incarn ∧ leField q.pkt.data 11 1 = 1) ∧
      (p.syn = true → 16384 ≤ s.router.rcv.length → Does (.packetEject p ecc) s fun t => t = s))

/-- End-to-end windows (R157, R158). A retransmission, FAB_E2E_RTO_US after the packet was sent, counts its try; past
FAB_E2E_RETRIES the packet is given up, counted and recorded. An acknowledgement of the context's incarnation frees
the packets it names and no other; one of another incarnation changes no context. A receiver's waiting
acknowledgement is sent once. An idle context is forgotten. Choices of the model that it rests on: log 35, 36. -/
def Obligations.EndToEndWindows : Prop :=
  ∀ (s : State) (peer vc : Nat), vc = 2 ∨ vc = 3 →
    let k := ctxKey peer vc
    (∀ c eseq e, mapFind s.router.src k = some c → c.pending.find? (fun x => x.eseq == eseq) = some e →
      (s.now < e.sentNs + (1000 * s.rd R.FAB_E2E_RTO_US 0 : Nat) → Does (.e2eRetransmit peer vc eseq) s fun t => t = s) ∧
      (e.sentNs + (1000 * s.rd R.FAB_E2E_RTO_US 0 : Nat) ≤ s.now →
        (e.tries < s.rd R.FAB_E2E_RETRIES 0 → e.pkt.dst = peer → e.pkt.vc = vc → Does (.e2eRetransmit peer vc eseq) s fun t =>
          (mapGet {} t.router.src k).pending = c.pending.map fun x => if x.eseq = eseq then
            { e with pkt := { e.pkt with syn := !c.acked }, tries := e.tries + 1, sentNs := s.now } else x) ∧
        (s.rd R.FAB_E2E_RETRIES 0 ≤ e.tries → c.waiting = [] → s.router.reads = [] →
          Does (.e2eRetransmit peer vc eseq) s fun t =>
            (mapGet {} t.router.src k).pending = c.pending.filter (fun x => x.eseq != eseq) ∧
              Counted s t R.FAB_E2E_EXPIRED 0 1))) ∧
    (∀ c cum bits incarn, mapFind s.router.src k = some c → c.waiting = [] → s.host.movers = [] →
      s.rst.outstanding = [] →
      (incarn = c.incarn → Does (.windowAcknowledgement peer vc cum bits false incarn) s fun t =>
        (mapGet {} t.router.src k).pending = c.pending.filter (fun e => !ackedBy cum bits.toNat e.eseq) ∧
          (mapGet {} t.router.src k).acked = true) ∧
      (incarn ≠ c.incarn → Does (.windowAcknowledgement peer vc cum bits false incarn) s fun t =>
        t.router = s.router) ∧
      (incarn = c.incarn → c.createdMs ≠ s.nowMs → Does (.windowAcknowledgement peer vc cum bits true incarn) s fun t =>
        (mapGet {} t.router.src k).incarn = s.nowMs ∧ (mapGet {} t.router.src k).acked = false ∧
          (mapGet {} t.router.src k).pending.length = c.pending.length ∧
          (mapGet {} t.router.src k).next = c.pending.length)) ∧
    (∀ c, mapFind s.router.rcv k = some c → c.sinceAck ≠ 0 → Does (.e2eAckSend peer vc) s fun t =>
      (mapGet {} t.router.rcv k).sinceAck = 0 ∧ (mapGet {} t.router.rcv k).expected = c.expected ∧
        ∀ d, dimPort s s.injVer peer = d → d < 6 → detourOf s s.injVer peer d = none → s.portUp d = true →
          1 ≤ s.rd R.FAB_HOP_LIMIT 0 → ∃ q : QPacket, (t.port d).queue 4 = (s.port d).queue 4 ++ [q] ∧
            q.pkt.dst = peer ∧ q.pkt.kind = 3 ∧ leField q.pkt.data 1 2 = (c.expected + 65535) % 65536) ∧
    (∀ c, mapFind s.router.src k = some c → c.pending = [] → c.waiting = [] → s.router.noCtx = [] →
      c.lastNs + (1000000 * s.rd R.FAB_PKT_LIFE_MS 0 : Nat) ≤ s.now → Wf s → Does (.contextEvict true peer vc) s fun t =>
        mapFind t.router.src k = none ∧ t.router.rcv = s.router.rcv) ∧
    ∀ c, mapFind s.router.rcv k = some c →
      c.lastNs + (2000000 * s.rd R.FAB_PKT_LIFE_MS 0 + 10000000 : Nat) ≤ s.now → Wf s →
      Does (.contextEvict false peer vc) s fun t => mapFind t.router.rcv k = none ∧ t.router.src = s.router.src

/-- Table versions (R162, R165 to R168). Only a Retired version may be made Ready and only a Ready one Active; the
version that was Active then drains from that instant and is Retired when its time has passed. A domain map entry is
written only in a Retired version and without a second valid slot of its tag. The end of a port's hold leaves
nothing held there. Choices of the model that it rests on: log 14. -/
def Obligations.TableVersions : Prop :=
  ∀ (s : State) (who : Who) (v x : Nat),
    (Allowed s who R.FAB_RT_STATE v x →
      (s.verState v = 0 → Writes who (.fabRtState who v x) s fun t => t.verState v = 3) ∧
      (s.verState v ≠ 0 → TurnedAway who (.fabRtState who v x) s rState)) ∧
    (Allowed s who R.FAB_EPOCH_INJ 0 v →
      (s.verState v = 3 → s.injVer ≠ v → s.injVer < 2 → Writes who (.fabEpochInj who v) s fun t =>
        t.injVer = v ∧ t.verState v = 1 ∧ t.verState s.injVer = 2 ∧ mapGet 0 t.router.drainNs s.injVer = s.now) ∧
      (s.verState v ≠ 3 → TurnedAway who (.fabEpochInj who v) s rState)) ∧
    (s.verState v = 2 →
      (mapGet 0 s.router.drainNs v + (1000000 * s.rd R.FAB_EPOCH_DRAIN_MS 0 : Nat) ≤ s.now →
        Does (.versionRetire v) s fun t => t.verState v = 0) ∧
      (s.now < mapGet 0 s.router.drainNs v + (1000000 * s.rd R.FAB_EPOCH_DRAIN_MS 0 : Nat) →
        Does (.versionRetire v) s fun t => t = s)) ∧
    (Allowed s who R.FAB_DMAP v x →
      (s.verState (v / 16) = 0 → bitOf x 63 = false → Writes who (.fabDmap who v x) s fun t =>
        t.rd R.FAB_DMAP v = x &&& R.FAB_DMAP.mask) ∧
      (s.verState (v / 16) ≠ 0 → TurnedAway who (.fabDmap who v x) s rState)) ∧
    ∀ port t0, port < 6 → (s.port port).downNs = some t0 → s.portUp port = false → (s.port port).holdDone = false →
      t0 + (1000000 * s.rd R.FAB_PORT_HOLD_MS 0 : Nat) ≤ s.now → Does (.portHoldExpiry port) s fun t =>
        (t.port port).holdDone = true ∧ ∀ c < 7, t.rd R.FAB_VC_HELD (vcKey port c) = 0

/-- Shapers and reservations (R153, R161). A shaper at rate 0 holds the head of its queue and counts it; one with credit
sends the head and pays for it. A new rate leaves the level refilled up to now; a level past the burst is refused. A
reservation is refused while its partition holds a plan or where the port's sum would pass 960. Choices of the model
that it rests on: log 14, 38. -/
def Obligations.ShapersAndReservations : Prop :=
  ∀ (s : State) (who : Who) (f v : Nat),
    (∀ w rest, (mapGet {} s.router.shapers f).queue = w :: rest →
      (s.rd R.FAB_SHP_RATE f = 0 → Does (.shaperDecision f) s fun t =>
        Counted s t R.FAB_SHP_HELD f 1 ∧ (mapGet {} t.router.shapers f).queue = w :: rest ∧ t.ports = s.ports) ∧
      (s.rd R.FAB_SHP_RATE f ≠ 0 → s.rd R.FAB_SHP_RATE f ≠ 0xFFFFFFFF → w.again = true →
        0 ≤ (shpRefill s f).rdI R.FAB_SHP_LEVEL f → Does (.shaperDecision f) s fun t =>
          (mapGet {} t.router.shapers f).queue = rest ∧
            t.rd R.FAB_SHP_LEVEL f = ofSigned 64 ((shpRefill s f).rdI R.FAB_SHP_LEVEL f - (chargeOf w.pkt : Nat)))) ∧
    (Allowed s who R.FAB_SHP_RATE f v → Writes who (.fabShpRate who f v) s fun t =>
      t.rd R.FAB_SHP_RATE f = v ∧ t.rd R.FAB_SHP_LEVEL f = (shpRefill s f).rd R.FAB_SHP_LEVEL f) ∧
    (∀ x : Int, Allowed s who R.FAB_SHP_LEVEL f (ofSigned 64 x) →
      (x ≤ (s.rd R.FAB_SHP_BURST f : Nat) → Writes who (.fabShpLevel who f x) s fun t =>
        t.rd R.FAB_SHP_LEVEL f = ofSigned 64 x) ∧
      ((s.rd R.FAB_SHP_BURST f : Nat) < x → TurnedAway who (.fabShpLevel who f x) s rRange)) ∧
    (Allowed s who R.FAB_VC1_RES f v →
      let sum := ((List.range 128).map fun q =>
        if q = f % 128 then v else s.rd R.FAB_VC1_RES (f / 128 * 128 + q)).foldl (· + ·) 0
      (s.pstate (f % 128) = psEmpty → sum ≤ 960 → Writes who (.fabVc1Res who f v) s fun t => t.rd R.FAB_VC1_RES f = v) ∧
      (s.pstate (f % 128) ≠ psEmpty ∨ 960 < sum → TurnedAway who (.fabVc1Res who f v) s rState))

/-- COPY and COLL (R82, R171). A local COPY reads its source, changes no memory, and leaves one transfer more in its
channel, with the bytes of the source, for delivery at its destination. COLL starts its collective with the block
and counter it names. A chunk that comes before COLL waits for it; an all-gather's chunk that comes after is part of
the result. Choices of the model that it rests on: log 42, 43. -/
def Obligations.CopiesAndCollectives : Prop :=
  ∀ (s : State) (i : Issue) (ch : Nat) (w : MovSlot), Taken s i (conMover ch) →
    let b := i.block
    let p := s.partOf b
    let d := s.desc b (mDesc w)
    let n := if mLines w = 0 then d.len else 128 * mLines w
    (∀ rs, s.planRange b d.addrA n = some rs → s.isLocal p d.addrB = true →
      (∀ c ∈ rs, s.poisoned c.1 c.2 = false) → Does (.copy i ch w []) s fun t => t.mem = s.mem ∧ ∃ x : Transfer,
        mapGet [] (t.block b).movers ch = mapGet [] (s.block b).movers ch ++ [x] ∧ x.dst = d.addrB ∧
          x.counter = mCtr w ∧ runBytes x.runs = (rs.map fun c => s.read c.1 c.2).flatten) ∧
    (∀ ecc, Does (.coll i ch w ecc) s fun t =>
      (t.coll p (mDesc w)).started = true ∧ (t.coll p (mDesc w)).block = b ∧ (t.coll p (mDesc w)).counter = mCtr w) ∧
    ∀ part entry chunk member data bad,
      ((s.coll part entry).started = false → Does (.collCombine part entry chunk member data bad) s fun t =>
        (t.coll part entry).arrived = (s.coll part entry).arrived ++
          [{ chunk := chunk, member := member, data := data, poison := bad }] ∧ t.mem = s.mem) ∧
      ((s.coll part entry).started = true → (collEntry s part entry).kind = 4 →
        Does (.collCombine part entry chunk member data bad) s fun t =>
          mapGet [] (t.coll part entry).results chunk = data ∧ t.mem = s.mem)

/-! ### The host interface (06) -/

/-- Doorbells and queue contexts (R181, R182). On an enabled queue a tail or head inside its ring is taken and nothing
else of the context changes; one outside, or a doorbell of a queue that is not enabled, is refused with its DB_ERR
and counted. Enabling a valid context starts its rings at 0; an invalid one stays Disabled with DB_ERR 4. A context
is written only while its queue is Disabled, and its read-only fields stay. Choices of the model that it rests on:
log 64. -/
def Obligations.DoorbellsAndContexts : Prop :=
  ∀ (s : State) (f j v g : Nat), s.localQ f j = some g →
    let q := s.queue g
    let refused (t : State) (err : Nat) : Prop :=
      t.queue g = { q with dbErr := err } ∧ Counted s t R.HOST_FN_DB_DROP f 1 ∧ ∀ k, k ≠ g → t.queue k = s.queue k
    (q.state = .enabled →
      (v % 65536 < q.sqSize → Does (.sqTailDb f j v) s fun t =>
        t.queue g = { q with sqTail := v % 65536 } ∧ ∀ k, k ≠ g → t.queue k = s.queue k) ∧
      (q.sqSize ≤ v % 65536 → Does (.sqTailDb f j v) s fun t => refused t 2) ∧
      (v % 65536 < q.cqSize → (v % 65536 + (q.cqSize - q.cqHead)) % q.cqSize ≤ q.cqUsed → Does (.cqHeadDb f j v) s fun t =>
        t.queue g = { q with cqHead := v % 65536 } ∧ ∀ k, k ≠ g → t.queue k = s.queue k) ∧
      (q.cqSize ≤ v % 65536 → Does (.cqHeadDb f j v) s fun t => refused t 3)) ∧
    (q.state ≠ .enabled → Does (.sqTailDb f j v) s (fun t => refused t 1) ∧ Does (.cqHeadDb f j v) s fun t => refused t 1) ∧
    (q.state = .disabled →
      (ctxValid f q = true → Does (.queueEnable f j) s fun t => t.queue g =
        { q with sqHead := 0, sqTail := 0, cqHead := 0, cqTail := 0, phase := true, state := .enabled }) ∧
      (ctxValid f q = false → Does (.queueEnable f j) s fun t => (t.queue g).state = .disabled ∧ (t.queue g).dbErr = 4) ∧
      (∀ hi lo x, Does (.queueContextWrite f j hi lo x) s fun t =>
        (t.queue g).sqHead = q.sqHead ∧ (t.queue g).sqTail = q.sqTail ∧ (t.queue g).cqHead = q.cqHead ∧
          (t.queue g).cqTail = q.cqTail ∧ (t.queue g).inflight = q.inflight ∧ (t.queue g).state = .disabled ∧
          (hi = 63 → lo = 0 → x < 2 ^ 64 → (t.queue g).sqBase = x))) ∧
    (q.state ≠ .disabled → ∀ hi lo x, Does (.queueContextWrite f j hi lo x) s fun t =>
      t.queue g = q ∧ Counted s t R.HOST_FN_DB_DROP f 1)

/-- Fetch, completion and interrupts (R183, R188, R190, R191). With one queue to fetch from, its next entries become
fetched commands in their order and its head moves past them; with none, nothing is fetched. A finished command's
entry is written at the tail of its completion ring with its status, the command is gone and the function's count is
one more. A command whose timer expires ends with status 1. Completions that wait are signalled when the coalescing
time since the first has passed, and not before; a masked vector is pending. Choices of the model that it rests on:
log 44, 47. -/
def Obligations.FetchAndComplete : Prop :=
  ∀ s : State,
    (fetchable s = [] → Does .sqFetch s fun t => t = s) ∧
    (∀ f j g, fetchable s = [(f, j, g)] → s.qbase f + j = g → s.host.rrTurn = none → Wf s →
      let q := s.queue g
      let k := fetchNow q q.turn
      0 < k → Does .sqFetch s fun t =>
        t.host.order = s.host.order + k ∧ (t.queue g).sqHead = (q.sqHead + k) % q.sqSize ∧
          (t.queue g).inflight = q.inflight + k ∧ (t.queue g).sqTail = q.sqTail ∧ t.host.mem = s.host.mem ∧
          ∃ x, mapFind t.host.movers s.host.order = some x ∧ x.func = f ∧ x.queue = g ∧ x.started = false ∧
            x.cmd = cmdOf (memRead s.host.mem (q.sqBase + 64 * q.sqHead) 64)) ∧
    (∀ m x status reason result, mapFind s.host.movers m = some x → x.outcome = some (status, reason, result) → Wf s →
      let q := s.queue x.queue
      Does (.hostMoverComplete m) s fun t =>
        memRead t.host.mem (q.cqBase + 16 * q.cqTail) 16 = cqEntry q x.cmd status reason result ∧
          mapFind t.host.movers m = none ∧ (t.queue x.queue).cqTail = (q.cqTail + 1) % q.cqSize ∧
          (t.queue x.queue).inflight = q.inflight - 1 ∧ Counted s t R.HOST_FN_CMDS x.func 1) ∧
    (∀ m x d, mapFind s.host.movers m = some x → x.deadline = some d → x.outcome = none → d ≤ s.now →
      timerHeld s m x = false → Does (.hostCmdTimeout m) s fun t => (t.mover m).outcome = some (1, 0, 0)) ∧
    ∀ g f, s.funcOf g = some f → (s.queue g).unsignalled ≠ 0 →
      let due : Int := (s.queue g).firstNs + (1000 * (s.queue g).coalUs : Nat)
      (due ≤ s.now → Does (.coalesceTimeout g) s fun t => (t.queue g).unsignalled = 0 ∧
        (s.masked f (s.queue g).vector = false → t.outbox = s.outbox ++ [.msix f (s.queue g).vector]) ∧
        (s.masked f (s.queue g).vector = true → t.outbox = s.outbox ∧ (f, (s.queue g).vector) ∈ t.host.pba)) ∧
      (s.now < due → Does (.coalesceTimeout g) s fun t => t = s)

/-- Host commands that need no data (R185, R187, R388). NOP and FENCE complete with OK; MARK and the plan commands
complete with ACCESS_DENIED where their function does not own the partition. PLAN_RUN of a Loaded partition that is
still being zeroed waits; of one that is not Loaded it completes with status 9. PLAN_STOP of a run under way
completes at once with the last seal and the next vote stops the run. PLAN_UNLOAD leaves the partition Empty.
Choices of the model that it rests on: log 46, 48, 97. -/
def Obligations.PlanCommands : Prop :=
  ∀ (s : State) (m : Nat),
    let x := s.mover m
    let p := x.cmd.part
    let ends (c : Instr) (o : Nat × Nat × Nat) : Prop := Does c s fun t => (t.mover m).outcome = some o
    (mayBegin s m 0 = true → ends (.nop m) (0, 0, 0)) ∧ (mayBegin s m 0x20 = true → ends (.fence m) (0, 0, 0)) ∧
    (s.owns x.func p = false →
      (mayBegin s m 0x21 = true → ends (.mark m) (7, 0x0702, 0)) ∧ (mayBegin s m 0x11 = true → ends (.planRun m) (7, 0x0702, 0)) ∧
      (mayBegin s m 0x12 = true → ends (.planStop m) (7, 0x0702, 0)) ∧
      (mayBegin s m 0x13 = true → ends (.planUnload m) (7, 0x0702, 0))) ∧
    (s.owns x.func p = true →
      (mayBegin s m 0x21 = true → ends (.mark m) (0, 0, 0)) ∧
      (mayBegin s m 0x11 = true →
        (s.pstate p ≠ psLoaded → ends (.planRun m) (9, 0x0706, 0)) ∧
        (s.pstate p = psLoaded → (s.part p).run = none → zeroDone s p = false → Does (.planRun m) s fun t =>
          (t.part p).run = some m ∧ (t.part p).limit = x.cmd.arg0 ∧ t.pstate p = psLoaded ∧
            (t.mover m).outcome = none) ∧
        (s.pstate p = psLoaded → (s.part p).run = none → zeroDone s p = true → Does (.planRun m) s fun t =>
          t.pstate p = psRunning ∧ t.rd R.SEAL_STEP p = s.rd R.SEAL_NEXT_STEP p % 2 ^ 32)) ∧
      (mayBegin s m 0x12 = true → s.active p = true → (s.part p).resumed = true → Does (.planStop m) s fun t =>
        (t.mover m).outcome = some (0, 0, s.rd R.SEAL_LAST p) ∧ (t.part p).stop = true ∧ t.pstate p = s.pstate p) ∧
      (mayBegin s m 0x13 = true → s.pstate p = psHalted → (s.part p).run = none → p < 128 →
        Does (.planUnload m) s fun t =>
          (t.mover m).outcome = some (0, 0, 0) ∧ t.pstate p = psEmpty ∧ (t.part p).image = [] ∧
            t.rd R.CMP_PLAN_SEED p = 0))

/-- Data commands and loads (R64, R65, R178, R185, R186). On this chip WRITE puts its host bytes where its partition's
view says and nowhere else, READ brings the bytes of the view to host memory, COPY moves between two places of the
view, and each completes with OK and the bytes moved; a length of 0 is refused. A load by a function that does not
own the partition is refused by reason 0x0401; otherwise the partition is Loading and its image is staged in the
partition's plan slices; the checks done, it is Loaded, or Empty with the reason of the first that failed. A window
access is the request that its function may make. Choices of the model that it rests on: log 46, 47, 48, 49, 97. -/
def Obligations.DataCommands : Prop :=
  ∀ (s : State) (m : Nat),
    let x := s.mover m
    let c := x.cmd
    let p := c.part
    let view (a : Nat) (write : Bool) : Option (List (Nat × Nat)) := reqRange s (hostReq x write a c.len)
    let clear (rs : List (Nat × Nat)) : Prop :=
      (∀ r ∈ rs, holdOf s r.1 r.2 = none) ∧ downRange s rs = false
    let clean (rs : List (Nat × Nat)) : Prop := ∀ r ∈ rs, s.poisoned r.1 r.2 = false
    let ready (op : Nat) : Prop := mayBegin s m op = true ∧ moversBusy s < 16 ∧ s.power.holdUnplanned = false ∧
      s.owns x.func p = true ∧ cmdWaits s m = false ∧ x.next = 0 ∧ x.got = false ∧ x.bad = none
    let host := memRead s.host.mem c.hostAddr c.len
    (∀ op cmd, (op, cmd) ∈ [(1, Instr.write m .off), (2, .read m .off []), (3, .hostCopy m [])] → ready op → c.len = 0 →
      Does cmd s fun t => (t.mover m).outcome = some (9, 0x0703, 0) ∧ t.mem = s.mem) ∧
    (0 < c.len → c.len ≤ 2 ^ 40 →
      (∀ rs, ready 1 → s.isLocal p c.devAddr = true → view c.devAddr true = some rs → clear rs →
        Does (.write m .off) s fun t => (t.mover m).outcome = some (0, 0, c.len) ∧ MemBut (Within rs) s t ∧
          (∀ r, rs = [r] → hbmBytes ≤ r.1 → ∀ j < c.len, memByte t.mem (r.1 + j) = getAt 0 host j)) ∧
      (∀ rs, ready 2 → s.isLocal p c.devAddr = true → view c.devAddr false = some rs → clear rs → clean rs → Wf s →
        Does (.read m .off []) s fun t => (t.mover m).outcome = some (0, 0, c.len) ∧ t.mem = s.mem ∧
          memRead t.host.mem c.hostAddr c.len = (rs.map fun r => s.read r.1 r.2).flatten) ∧
      (∀ rs ws, ready 3 → s.isLocal p c.devAddr = true → s.isLocal p c.arg0 = true → view c.devAddr false = some rs →
        view c.arg0 true = some ws → clear rs → clean rs → clear ws → Does (.hostCopy m []) s fun t =>
          (t.mover m).outcome = some (0, 0, c.len) ∧ MemBut (Within ws) s t)) ∧
    (mayBegin s m 0x10 = true →
      (s.owns x.func p = false → Does (.planLoad m .off) s fun t =>
        (t.mover m).outcome = some (7, 0x0401, 0) ∧ t.rd R.CMP_LOAD_REASON p = 0x0401 ∧ t.pstate p = s.pstate p) ∧
      (s.owns x.func p = true → s.pstate p = psEmpty → p < 128 → bitOf c.arg0 0 = false → s.power.holdUnplanned = false →
        cmdWaits s m = false → x.next = 0 → x.got = false → 0 < c.len →
        (∀ k ∈ s.slicesUp p 1, s.rd R.MEM_ZERO_SLICE k = 0 ∧ s.inReset (uHbm (k / 48)) = false) →
        Does (.planLoad m .off) s fun t => t.pstate p = psLoading ∧ (t.part p).staged = host ∧
          (t.part p).stagedBy = some m ∧ (t.mover m).outcome = none ∧
          ∀ r, s.stageRange p 0 c.len = [r] → r.2 = c.len → ∀ j < c.len, memByte t.mem (r.1 + j) = getAt 0 host j)) ∧
    (∀ q keep, q < 128 → (s.part q).stagedBy = some m → mapHas s.host.movers m = true → s.pstate q = psLoading →
      c.len ≤ x.next → x.bad = none → x.outcome = none →
      (loadCheck s q keep (s.part q).staged = none → s.rst.mode = .normal → Does (.planLoadChecksDone q keep) s fun t =>
        t.pstate q = psLoaded ∧ (t.part q).image = (s.part q).staged ∧ t.rd R.CMP_LOAD_STATUS q = 0 ∧
          (t.mover m).outcome = some (0, 0, imgPlanId (s.part q).staged)) ∧
      ∀ e, loadCheck s q keep (s.part q).staged = some e → e.status < 256 → e.reason < 65536 →
        Does (.planLoadChecksDone q keep) s fun t =>
          t.pstate q = psEmpty ∧ (t.part q).staged = [] ∧ t.rd R.CMP_LOAD_STATUS q = e.status ∧
            t.rd R.CMP_LOAD_REASON q = e.reason ∧ (t.mover m).outcome = some (e.status, e.reason, 0)) ∧
    ∀ f off len write data ecc, s.present f = true → s.unitUp uEndpoint = true → s.host.d3hot.contains f = false →
      f = 0 ∨ off + len ≤ 2 ^ s.host.vfBar2 →
      let r := barReq f ((windowOff off).getD hbmBytes) len write (s.rd R.HOST_FN_WINPART f == 0xFF && f == 0)
        (s.rd R.HOST_FN_WINPART f) data ecc
      (s.power.holdUnplanned = false → Does (.windowAccess f (.bar2 off) len write data ecc) s fun t =>
        exec (.memoryRequest r) s = .next t) ∧
      (s.power.holdUnplanned = true → Does (.windowAccess f (.bar2 off) len write data ecc) s fun t =>
        t.power.held = s.power.held ++ [r] ∧ t.mem = s.mem)

/-- Disabling and resetting queues and functions (R179, R180, R192 to R194). A normal disable of an enabled queue drains
it, and with nothing fetched it is Disabled at once; a forced disable leaves it Disabled with its context zeroed. A
function's disable reaches each of its queues; its reset masks its MSI-X vectors and signals vector 0, and the
clearing of VF enable removes the virtual functions. Queue pairs are assigned only where the assignment is allowed.
The PCIe link (R176, R179, R197, R297, R298). A link change and an error are recorded, and shown; SR-IOV's virtual
functions are Active; an invalidation drops the translations it names; PERST# holds the endpoint in reset, and its
release takes it out. Choices of the model that it rests on: log 44, 45, 64, 72. -/
def Obligations.FunctionsAndLink : Prop :=
   (∀ (s : State) (who : Who) (f : Nat),
      let idle (t : State) : Prop := ∀ g ∈ funcQueues s f, (t.queue g).state ≠ .enabled
      let gone (t : State) : Prop := idle t ∧ ∀ g ∈ funcQueues s f, (t.queue g).state ≠ .draining
      let reset (t : State) : Prop := gone t ∧ ∀ v < 2048, t.msixWord f v = 2 ^ 96
      (∀ j g, s.localQ f j = some g →
        ((s.queue g).state = .enabled →
          ((s.queue g).inflight ≠ 0 → Does (.normalDisable f j) s fun t => (t.queue g).state = .draining) ∧
          ((s.queue g).inflight = 0 → queueCmds s g = [] → Does (.normalDisable f j) s fun t =>
            (t.queue g).state = .disabled ∧ (t.queue g).sqBase = (s.queue g).sqBase)) ∧
        ((s.queue g).state = .enabled ∨ (s.queue g).state = .draining → Does (.forcedDisable f j) s fun t =>
          (t.queue g).state = .disabled ∧ (t.queue g).sqBase = 0 ∧ (t.queue g).inflight = 0)) ∧
      (Allowed s who R.HOST_FN_CTL f 1 → Writes who (.functionNormalDisableAll who f) s idle) ∧
      (Allowed s who R.HOST_FN_CTL f 2 → Writes who (.functionForcedDisableAll who f) s gone) ∧
      (s.present f = true → (Allowed s who R.HOST_FN_CTL f 3 → Writes who (.functionReset who f) s reset) ∧
        Does (.functionLevelReset f) s reset ∧ Does .hotReset s reset ∧
        Does .vfEnableClear s (fun t => reset t ∧ t.rd R.HOST_NUM_VF 0 = 0 ∧ (f ≠ 0 → t.rd R.HOST_FN_STATE f = 0))) ∧
      ∀ v, (Allowed s who R.HOST_FN_QBASE f v →
          (assignOk s f v (s.qcount f) = true → Writes who (.hostFnQbase who f v) s fun t =>
            t.qbase f = v ∧ t.qcount f = s.qcount f) ∧
          (assignOk s f v (s.qcount f) = false → TurnedAway who (.hostFnQbase who f v) s rState)) ∧
        (Allowed s who R.HOST_FN_QCOUNT f v →
          (assignOk s f (s.qbase f) v = true → Writes who (.hostFnQcount who f v) s fun t =>
            t.qcount f = v ∧ t.qbase f = s.qbase f) ∧
          (assignOk s f (s.qbase f) v = false → TurnedAway who (.hostFnQcount who f v) s rState))) ∧
   (∀ (s : State) (f n : Nat),
      (∀ speed width flit, speed < 256 → width < 256 → s.unitUp uEndpoint = true → s.host.perst = false →
        Does (.pcieLinkUpOrDown speed width flit) s fun t =>
          t.rd R.HOST_LINK_SPEED 0 = speed ∧ t.rd R.HOST_LINK_WIDTH 0 = width ∧ t.rd R.HOST_LINK_FLIT 0 = b2n flit) ∧
      Does (.aerUncorrectableError f n) s (fun t =>
        t.outbox = s.outbox ++ [.aerReport f n] ∧ Logged s t 0x7020 (uFunc f) [(4, n)]) ∧
      (∀ page, Does (.atsInvalidation f page) s fun t =>
        (∀ e ∈ t.host.atsCache, ¬ (e.1 = f ∧ (page = 2 ^ 52 - 1 ∨ e.2 = page))) ∧
          (usesPage s f page = false → s.host.invs = [] → t.outbox = s.outbox ++ [.atsDone f page])) ∧
      (s.unitUp uEndpoint = true → n ≤ 1023 → Does (.vfEnableSet n) s fun t =>
        t.rd R.HOST_NUM_VF 0 = n ∧ ∀ k, 1 ≤ k → k ≤ n → t.rd R.HOST_FN_STATE k = 1) ∧
      (s.host.perst = false → Does .pcieFundamentalReset s fun t => t.host.perst = true ∧ t.unitUp uEndpoint = false) ∧
      (s.host.perst = true → Does .perstRelease s fun t => t.host.perst = false))

/-- Requests to domains and their replies (R317 to R319). A domain in reset drops a posted request and counts it, and
answers any other; outside a reset a request passes where it names the domain's generation and is answered where it
does not, on this chip or by a packet of VC4. A reply that nothing waits for, or of another generation, is late and
counted; one that is waited for takes its identifier away, and a READ puts its data in host memory and completes
with the last of it. A status reply notes the generation of a domain of another chip; the request is sent again once
to a running domain that was not known, and its command ends otherwise. One for another chip does nothing. Choices
of the model that it rests on: log 70, 98. -/
def Obligations.RequestsAndReplies : Prop :=
  ∀ s : State,
    (∀ r : GkReq,
      let down := s.inReset r.unit
      let answered : Prop := (down = true ∧ r.posted = false) ∨ (down = false ∧ r.tgen % 16 ≠ s.genOf r.unit)
      Does (.gatekeeperRequest r) s fun t => t.mem = s.mem ∧ t.parts = s.parts ∧ t.host = s.host ∧
        (down = true → r.posted = true → Counted s t R.RST_GK_DROP r.unit 1 ∧ t.outbox = s.outbox ∧ t.ports = s.ports) ∧
        (answered → Counted s t R.RST_GK_ANSWERS r.unit 1 ∧
          (r.requester = s.me → t.outbox = s.outbox ++
            [.statusReply r.requester r.rid r.unit (s.genOf r.unit) { status := 2, inReset := down }]) ∧
          (r.requester ≠ s.me → ∀ d, dimPort s s.injVer r.requester = d → d < 6 →
            detourOf s s.injVer r.requester d = none → s.portUp d = true → 1 ≤ s.rd R.FAB_HOP_LIMIT 0 →
            ∃ q : QPacket, (t.port d).queue 4 = (s.port d).queue 4 ++ [q] ∧ q.pkt.dst = r.requester ∧ q.pkt.kind = 9 ∧
              q.pkt.rid = r.rid ∧ q.pkt.tgen = s.genOf r.unit ∧
              q.pkt.data = statusBytes r.unit (s.genOf r.unit) { status := 2, inReset := down })) ∧
        (down = false → r.tgen % 16 = s.genOf r.unit → t = s)) ∧
    (∀ requester rid chip unit gen data bad,
      Does (.replyReceive requester rid chip unit gen data bad) s fun t =>
        (requester ≠ s.me → t = s) ∧
        (requester = s.me → (∀ o, mapFind s.rst.outstanding rid = some o → o.tgen % 16 ≠ gen) →
          Counted s t R.RST_LATE 0 1 ∧ t.mem = s.mem ∧ t.rst.outstanding = s.rst.outstanding ∧ t.host = s.host) ∧
        (∀ o, requester = s.me → mapFind s.rst.outstanding rid = some o → o.tgen % 16 = gen → s.router.reads = [] →
          (o.mover = none → mapFind t.rst.outstanding rid = none ∧ t.mem = s.mem ∧ t.rd R.RST_LATE 0 = s.rd R.RST_LATE 0) ∧
          ∀ m x, o.mover = some m → s.host.movers = [(m, x)] → s.rst.outstanding = [(rid, o)] → s.msys.held = [] →
            x.started = true → x.outcome = none → x.cmd.opcode = 2 → x.next < x.cmd.len →
            s.isLocal x.cmd.part (x.cmd.devAddr + x.next) = false → s.isLocal x.cmd.part x.cmd.devAddr = false →
            s.power.holdUnplanned = false → x.bad = none → bad = false → Wf s →
            let n := min 3584 (x.cmd.len - x.next)
            memRead t.host.mem (x.cmd.hostAddr + x.next) n = sliceZ data 0 n ∧
              (x.next + n = x.cmd.len → (t.mover m).outcome = some (0, 0, x.cmd.len)))) ∧
    ∀ requester rid chip unit gen (st : StatusBits), Does (.statusReply requester rid chip unit gen st) s fun t =>
      (requester ≠ s.me → t = s) ∧
      (requester = s.me → mapFind s.rst.outstanding rid = none → Counted s t R.RST_LATE 0 1 ∧ t.mem = s.mem ∧
        (chip ≠ s.me → t.knownGen chip unit = some (gen % 16))) ∧
      ∀ o m, requester = s.me → mapFind s.rst.outstanding rid = some o → o.mover = some m → mapHas s.host.movers m = true →
        (s.mover m).outcome = none →
        (st.status ≠ 2 → (t.mover m).outcome = some (st.status, 0, 0)) ∧
        (st.status = 2 → o.resent = true ∨ st.inReset = true ∨ (s.knownGen chip unit).isSome = true →
          (t.mover m).outcome = some (2, 0, 0) ∧ (chip ≠ s.me → t.knownGen chip unit = some (gen % 16))) ∧
        (st.status = 2 → o.resent = false → st.inReset = false → s.knownGen chip unit = none →
          (t.mover m).outcome = none ∧ t.knownGen chip unit = some (gen % 16) ∧
            mapFind t.rst.outstanding rid = some { o with tgen := gen, resent := true, pkt := { o.pkt with tgen := gen } })

/-! ### Checks and seals (08, 09) -/

/-- A leaf's vote (R252, R253, R282). Once its partition is Stopped for seal and every verdict is there, a chip without
children sends its parent one vote: REFUSE with its rank where anything refuses the seal, SEAL where nothing does
and its delta is complete; while its delta is late it waits, and when the wait ends it votes SEAL_LATE and its copy
is Behind. Votes and READYs of children, and the restore's reports (R282 to R284). Each is kept for its child once;
a vote of another step or run changes nothing. A chip that has restored tells its parent so, and again when asked.
Choices of the model that it rests on: log 52, 59, 66. -/
def Obligations.VotesOfChips : Prop :=
   (∀ (s : State) (p r : Nat), s.pstate p = psStopped → s.parent p = some r → s.children p = [] → (s.part p).replay = none →
      (s.part p).delayed = none → (s.part p).ownVote = none → s.rd R.CLV_STATE 0 ≠ 1 →
      (∀ b ∈ s.blocksOf p, (s.block b).verdicts = []) → p < 128 →
      let q := s.part p
      let st := s.rd R.SEAL_BUDDY_STATE p
      let refuse := q.verdict != {} || unclassified s p (s.rd R.SEAL_STEP p)
      let late := (st == bCurrent || st == bBehind) && (q.toSend ++ q.unacked) != []
      let votes (t : State) (outcome : Nat) : Prop := ∃ v : Vote, (t.part p).ownVote = some v ∧ v.outcome = outcome ∧
        v.step = s.rd R.SEAL_STEP p ∧ v.run = s.rd R.SEAL_RUN p ∧ v.count = 1 ∧ v.digest = imgDigest (s.img p) ∧
        t.rd R.SEAL_VOTE p % 16 = outcome ∧ t.outbox = s.outbox ++ [.clover none (s.rankChip p r) (clvHdr s p) (.vote v)]
      (refuse = true → Does (.sealVote p) s fun t => votes t 2 ∧ (t.part p).ownVote.map (·.rank) = some (s.rank p)) ∧
      (refuse = false → late = false → Does (.sealVote p) s fun t => votes t 0) ∧
      (refuse = false → late = true → s.compat p = false → q.deltaExpired = false →
        (Does (.sealVote p) s fun t => t = s) ∧
        (let ms := s.rd R.SEAL_DELTA_WAIT_MS p
        ms ≠ 0 → q.lateVotes < s.rd R.SEAL_UNPROT_MAX p →
          (boundary s p + (1000000 * ms : Nat) ≤ s.now → Does (.deltaWaitExpiry p) s fun t =>
            votes t 1 ∧ t.rd R.SEAL_BUDDY_STATE p = bBehind ∧ (t.part p).deltaExpired = true) ∧
          (s.now < boundary s p + (1000000 * ms : Nat) → Does (.deltaWaitExpiry p) s fun t => t = s)))) ∧
   (∀ (s : State) (p child : Nat), s.isFailed (s.rankChip p child) = false → child ∈ s.children p →
      let q := s.part p
      (∀ v : Vote, s.active p = true → q.replay = none → q.ownVote = none → (∀ e ∈ q.childVotes, e.1 ≠ child) →
        (v.step = s.rd R.SEAL_STEP p → v.run = s.rd R.SEAL_RUN p → Does (.vote p child v) s fun t =>
          (t.part p).childVotes = q.childVotes ++ [(child, v)] ∧ t.outbox = s.outbox) ∧
        (v.step ≠ s.rd R.SEAL_STEP p ∨ v.run ≠ s.rd R.SEAL_RUN p → Does (.vote p child v) s fun t => t = s)) ∧
      (∀ m : ReadyMsg, q.readyOwn = false → m.withdraw = false → (∀ e ∈ q.readyFrom, e.1 ≠ child) →
        Does (.ready p child m) s fun t => (t.part p).readyFrom = q.readyFrom ++ [(child, m)] ∧ t.outbox = s.outbox) ∧
      (∀ m : RolledMsg, q.replay.isSome = true → q.restored = false → Does (.rolled p child m) s fun t =>
        (t.part p).rolledFrom = (q.rolledFrom.filter fun e => e.1 != child) ++ [(child, m)] ∧ t.outbox = s.outbox) ∧
      ∀ (k r from_ : Nat), s.parent k = some r → s.children k = [] → (s.part k).replay = some from_ →
        (s.part k).restored = true → s.inDomain k = true → Does (.rolledResend k) s fun t =>
          t.outbox = s.outbox ++ [.clover none (s.rankChip k r) (clvHdr s k)
            (.rolled { target := prevStep from_, gen := (s.part k).runGen, count := 1 })] ∧ t.parts = s.parts)

/-- The commit at a leaf (R187, R245, R254, R283). A COMMIT of the step and run under way seals it: the last seal and P
are its own, one more seal is counted, and the next step begins at the T0 it names and a clock of the chip's range
(R2, R311); with STOP the partition is Loaded, with HALT it is Halted. A COMMIT that refuses rolls back: the
generation advances and the replay starts after the target. Any other COMMIT changes nothing here. Choices of the
model that it rests on: log 58, 59. -/
def Obligations.CommitsAtALeaf : Prop :=
  ∀ (s : State) (p : Nat) (c : Commit), s.children p = [] → (∀ r, s.parent p = some r → s.isFailed (s.rankChip p r) = false) →
    c.step < 2 ^ 32 → c.prot < 2 ^ 32 → p < 128 →
    let mine := c.step = s.rd R.SEAL_STEP p ∧ c.run = s.rd R.SEAL_RUN p ∧ s.active p = true
    (mine → s.pstate p = psStopped → (s.part p).replay = none → c.outcome ≤ 1 →
      (c.flags = 0 → Does (.commit p c) s fun t =>
        t.rd R.SEAL_LAST p = c.step ∧ t.rd R.SEAL_PROT p = c.prot ∧ Counted s t R.SEAL_COUNT p 1 ∧
          t.pstate p = psRunning ∧ t.rd R.SEAL_STEP p = nextStep c.step ∧ t.rd R.SEAL_RUN p = 1 ∧
          (t.part p).t0 = some (nearSec s.time.sec c.t0sec, c.t0ns) ∧
          (othersInStep s p = false → 900000 ≤ t.rd R.PWR_CCLK_KHZ 0 ∧ t.rd R.PWR_CCLK_KHZ 0 ≤ binKhz)) ∧
      (c.flags = 1 → Does (.commit p c) s fun t =>
        t.rd R.SEAL_LAST p = c.step ∧ t.pstate p = psLoaded ∧ (t.part p).run = none) ∧
      (c.flags = 2 → Does (.commit p c) s fun t => t.rd R.SEAL_LAST p = c.step ∧ t.pstate p = psHalted)) ∧
    (mine → c.outcome = 2 → c.flags = 0 → (s.part p).replay = none → (recentRolls s p).length < 15 →
      s.rd R.SEAL_JNL_STATE p ≠ 1 → Does (.commit p c) s fun t =>
        t.pstate p = psStopped ∧ (t.part p).replay = some (nextStep c.target) ∧
          (t.part p).runGen = ((s.part p).runGen + 1) % 16 ∧ t.rd R.SEAL_LAST p = s.rd R.SEAL_LAST p) ∧
    (¬ mine → Does (.commit p c) s fun t => t = s)

/-- Rollback and replay (R258 to R261, R283). A delayed rollback starts once fewer than fifteen are recent. A restore
writes the pages of the segment back from the journal, discards the segments of the steps abandoned, counts the
rollback and leaves the last seal before the replay. The RESUME of that step begins it. Choices of the model that it
rests on: log 60. -/
def Obligations.RollbackAndReplay : Prop :=
  ∀ (s : State) (p from_ : Nat), p < 128 →
    let q := s.part p
    (∀ halt, q.delayed = some (from_, halt) → (recentRolls s p).length < 15 → s.rd R.SEAL_JNL_STATE p ≠ 1 →
      Does (.delayedRollbackStart p) s fun t => (t.part p).replay = some from_ ∧ (t.part p).delayed = none ∧
        (t.part p).runGen = (q.runGen + 1) % 16 ∧ t.pstate p = psStopped) ∧
    (∀ r, q.replay = some from_ → q.restored = false → restoreBusy s p = false → q.haltAfter = false → q.fromBuddy = false →
      s.parent p = some r → s.children p = [] → Does (.restoreComplete p []) s fun t =>
        (t.part p).restored = true ∧ (∀ g ∈ (t.part p).journal, g.step < from_) ∧ t.rd R.SEAL_LAST p = prevStep from_ ∧
          Counted s t R.SEAL_ROLLBACKS p 1 ∧
          ∀ g e a, segsFrom q from_ = [g] → g.entries = [e] → s.pageAddr p e.page = some a → s.msys.toRemap = [] →
            (a + pageBytes ≤ jnlAddr s p e.jpage ∨ jnlAddr s p e.jpage + pageBytes ≤ a) → Wf s →
            (∀ w ∈ e.later, w.addr + w.data.length ≤ jnlAddr s p e.jpage ∨ jnlAddr s p e.jpage + pageBytes ≤ w.addr) →
            ∀ j < pageBytes,
              ((∀ w ∈ e.later, a + j < w.addr ∨ w.addr + w.data.length ≤ a + j) →
                memByte t.mem (a + j) = memByte s.mem (jnlAddr s p e.jpage + j)) ∧
              ∀ w, e.later = [w] → w.addr ≤ a + j → a + j < w.addr + w.data.length →
                memByte t.mem (a + j) = w.data.getD (a + j - w.addr) 0) ∧
    ∀ m : ResumeMsg, q.replay = some m.step → m.step < 2 ^ 32 → m.run < 256 → s.children p = [] →
      (∀ r, s.parent p = some r → s.isFailed (s.rankChip p r) = false) → Does (.resume p m) s fun t =>
        t.pstate p = psRunning ∧ t.rd R.SEAL_STEP p = m.step ∧ t.rd R.SEAL_RUN p = m.run ∧ (t.part p).replay = none ∧
          (t.part p).t0 = some (nearSec s.time.sec m.t0sec, m.t0ns)

/-- Deltas (R247 to R251). The next delta page goes to the buddy with its step and generation and waits for its
acknowledgement; a page of a copy that is Filling goes in its place; the words that an uncorrected error of the read
took are bad in the page sent (R17). At the buddy a delta page of a chip it hosts joins the stage, a Filling page
the copy, and both are acknowledged; one for no hosted area is refused. A refusal starts Filling again. A merge
moves the stage up to P into the copy. Choices of the model that it rests on: log 61, 62, 66. -/
def Obligations.BuddyCopies : Prop :=
  (∀ (s : State) (p step page : Nat),
    let q := s.part p
    let sent (stp : Nat) (fill : Bool) (a : Nat) (ecc : List EccHit) : Out := .buddyPage (s.buddyChip p)
      { srcChip := s.me, srcPart := p, gen := q.runGen, step := stp, page := page, filling := fill,
        data := { pageImage s a with bad := (lostWords ecc).foldl addNew (pageImage s a).bad } }
    (∀ rest a, q.toSend = (step, page) :: rest → deltaAddr s p step page = some a →
      (Does (.deltaPageSend ⟨p, []⟩) s fun t =>
        (t.part p).toSend = rest ∧ (t.part p).unacked = q.unacked ++ [(step, page)] ∧ t.mem = s.mem ∧
          t.outbox = s.outbox ++ [sent step false a []]) ∧
      ∀ ecc, Does (.deltaPageSend ⟨p, ecc⟩) s fun t => ∃ l, t.outbox = l ++ [sent step false a ecc]) ∧
    (∀ rest a, (keptPages (s.img p)).drop q.fillNext = page :: rest → s.rd R.SEAL_BUDDY_STATE p = bFilling →
      s.power.holdUnplanned = false → q.replay = none → s.pageAddr p page = some a →
      (Does (.fillingPageSend ⟨p, []⟩) s fun t =>
        (t.part p).fillNext = q.fillNext + 1 ∧ (t.part p).fillUnacked = q.fillUnacked ++ [page] ∧
          t.outbox = s.outbox ++ [sent (s.rd R.SEAL_STEP p) true a []]) ∧
      ∀ ecc, Does (.fillingPageSend ⟨p, ecc⟩) s fun t => ∃ l, t.outbox = l ++ [sent (s.rd R.SEAL_STEP p) true a ecc]) ∧
    (s.rd R.SEAL_BUDDY_STATE p = bFilling → Does (.deltaPageAck p step page true false) s fun t =>
      (t.part p).fillUnacked = q.fillUnacked.erase page) ∧
    (s.rd R.SEAL_BUDDY_STATE p = bCurrent → Does (.deltaPageAck p step page false false) s fun t =>
      (t.part p).unacked = q.unacked.erase (step, page)) ∧
    (s.rd R.SEAL_BUDDY_STATE p ≠ bNone → ∀ f, Does (.deltaPageAck p step page f true) s fun t =>
      t.rd R.SEAL_BUDDY_STATE p = bFilling ∧ (t.part p).fillNext = 0 ∧ (t.part p).unacked = [])) ∧
  ∀ (s : State) (d : DeltaPage),
    let answered (t : State) (refused : Bool) : Prop :=
      t.outbox = s.outbox ++ [.buddyAck d.srcChip d.srcPart d.step d.page d.filling refused] ∧ t.mem = s.mem
    (hostSlices s d.srcChip d.srcPart = 0 → Does (.deltaPageReceive d) s fun t => answered t true ∧ t.buddies = s.buddies) ∧
    (∀ a, 0 < hostSlices s d.srcChip d.srcPart → localOf s d.srcChip = none → s.area d.srcChip d.srcPart = some a →
      a.srcChip = d.srcChip → a.srcPart = d.srcPart →
      (d.filling = true → Does (.deltaPageReceive d) s fun t => answered t false ∧ ∃ b, t.area d.srcChip d.srcPart = some b ∧
        mapFind b.copy d.page = some d.data ∧ b.stage = a.stage) ∧
      (d.filling = false → a.stage.length < stageSize s a → Does (.deltaPageReceive d) s fun t =>
        answered t false ∧ ∃ b, t.area d.srcChip d.srcPart = some b ∧ b.stage = a.stage ++ [d] ∧ b.copy = a.copy)) ∧
    ∀ a prot, s.area d.srcChip d.srcPart = some a → a.merging = some prot → Does (.mergeComplete d.srcChip d.srcPart) s fun t =>
      ∃ b, t.area d.srcChip d.srcPart = some b ∧ b.merging = none ∧ b.step = prot ∧
        b.stage = (a.stage.filter fun x => decide (prot < x.step)) ∧ t.mem = s.mem

/-- Spares and the choice of buddy (R262, R263). A Staged spare whose header agrees pulls the copy, and one whose digest
or rank does not is refused by its reason; the pull done, which waits for zeroing (R115), it has the step of the
header as its last seal and takes part in the replay. SEAL_BUDDY is written between steps only. Choices of the model
that it rests on: log 60, 62. -/
def Obligations.SpareAdoption : Prop :=
  ∀ (s : State) (who : Who) (p : Nat), p < 128 →
    (∀ h, Allowed s who R.SEAL_ADOPT_CMD p 1 →
      (s.rd R.SEAL_SPARE_STATE p ≠ 2 → TurnedAway who (.sealAdoptCmd who p h) s rState) ∧
      (s.rd R.SEAL_SPARE_STATE p = 2 →
        (h.digest = imgDigest (s.img p) → h.rank = s.rd R.SEAL_ADOPT_RANK p → Writes who (.sealAdoptCmd who p h) s fun t =>
          t.rd R.SEAL_SPARE_STATE p = 3 ∧ (t.part p).adoptStep = h.step ∧ (t.part p).adoptGen = h.gen % 16) ∧
        (h.digest ≠ imgDigest (s.img p) ∨ h.rank ≠ s.rd R.SEAL_ADOPT_RANK p → Writes who (.sealAdoptCmd who p h) s fun t =>
          t.rd R.SEAL_SPARE_STATE p = 5 ∧ t.rd R.SEAL_ADOPT_RESULT p = 6))) ∧
    (∀ r, s.rd R.SEAL_SPARE_STATE p = 3 → zeroDone s p = true → (s.part p).adoptStep < 2 ^ 32 - 1 → s.parent p = some r → s.children p = [] →
      Does (.adoptionPullComplete p []) s fun t =>
        t.rd R.SEAL_SPARE_STATE p = 4 ∧ t.rd R.SEAL_LAST p = (s.part p).adoptStep ∧
          t.rd R.SEAL_STEP p = (s.part p).adoptStep + 1 ∧ (t.part p).runGen = (s.part p).adoptGen ∧
          (t.part p).replay = some ((s.part p).adoptStep + 1) ∧ t.pstate p = psStopped) ∧
    (zeroDone s p = false → Does (.adoptionPullComplete p []) s fun t => t = s) ∧
    ∀ v, Allowed s who R.SEAL_BUDDY p v →
      (s.pstate p = psLoaded ∨ s.pstate p = psStopped ∨ s.pstate p = psHalted → Writes who (.sealBuddy who p v) s fun t =>
        t.rd R.SEAL_BUDDY p = v ∧ t.rd R.SEAL_BUDDY_STATE p =
          if v = 0xFFFFFFFE ∨ s.hasBuddy p = false then bNone else bFilling) ∧
      (s.pstate p = psEmpty ∨ s.pstate p = psLoading ∨ s.pstate p = psRunning → TurnedAway who (.sealBuddy who p v) s rState)

/-! ### Network time (07) -/

/-- The counter (R198, R199, R201, R202, R208, R210). A tick adds TIME_INCR to NS and FRAC together and carries whole
seconds; with no pending step, or while a partition runs, nothing else moves. A pending step is applied whole where
no partition runs, with event 0x8004, and FRAC stays. TIME_INCR goes on from the value written; TIME_STEP_NS adds to
the pending step and a sum outside its width is refused. A read of TIME_NOW_SEC answers the seconds and latches NS
for its path. TIME_MASTER_PORT 7 makes a grandmaster; another port, or no Sync for TIME_SYNC_LOSS intervals, puts a
chip that follows a master into holdover with the increment it has. Choices of the model that it rests on: log 50,
93, 94. -/
def Obligations.NetworkTime : Prop :=
  ∀ (s : State) (who : Who),
    let acc := s.time.ns * 2 ^ 24 + s.time.frac + s.rd R.TIME_INCR 0
    let top := 1000000000 * 2 ^ 24
    let still : Prop := s.stepPend = 0 ∨ s.running = true
    (still → Does .timeCounterTick s fun t =>
      t.time.ns * 2 ^ 24 + t.time.frac = (if top ≤ acc then acc - top else acc) ∧
        t.time.sec = (if top ≤ acc then (s.time.sec + 1) % 2 ^ 48 else s.time.sec) ∧
        t.time.uptime = s.time.uptime + 1 ∧ t.rd R.TIME_INCR 0 = s.rd R.TIME_INCR 0) ∧
    (still → Does .offsetStepApply s fun t => t = s) ∧
    (s.stepPend ≠ 0 → s.running = false → 0 ≤ s.now + s.stepPend → s.now + s.stepPend < 2 ^ 48 * 1000000000 →
      Does .offsetStepApply s fun t => t.now = s.now + s.stepPend ∧ t.time.frac = s.time.frac ∧ t.stepPend = 0 ∧
        Logged (s.setTime t.time) t 0x8004 uTime [(8, ofSigned 64 s.stepPend)]) ∧
    (∀ v, Allowed s who R.TIME_INCR 0 v → Writes who (.timeIncr who v) s fun t =>
      t.rd R.TIME_INCR 0 = v ∧ t.time.estimate = v ∧ t.now = s.now ∧ t.time.frac = s.time.frac) ∧
    (∀ d : Int, -(2 ^ 63) ≤ d → d < 2 ^ 63 → Allowed s who R.TIME_STEP_NS 0 (ofSigned 64 d) →
      (-(2 ^ 63) ≤ s.stepPend + d → s.stepPend + d < 2 ^ 63 → Writes who (.timeStepNs who d) s fun t =>
        t.stepPend = s.stepPend + d ∧ t.time = s.time) ∧
      (s.stepPend + d < -(2 ^ 63) ∨ 2 ^ 63 ≤ s.stepPend + d → TurnedAway who (.timeStepNs who d) s rRange)) ∧
    Does (.timeNowSec who) s (fun t => t.outbox = s.outbox ++ [.value who s.time.sec] ∧
      mapGet 0 t.time.latched (pathNo who.path) = s.time.ns ∧ t.now = s.now) ∧
    (∀ v, Allowed s who R.TIME_MASTER_PORT 0 v → Writes who (.timeMasterPort who v) s fun t =>
      t.rd R.TIME_MASTER_PORT 0 = v ∧ t.now = s.now ∧ (v = 7 → t.rd R.TIME_STATE 0 = 4) ∧
        (v ≠ 7 → s.rd R.TIME_STATE 0 = 4 → t.rd R.TIME_STATE 0 = 1) ∧
        (v ≠ 7 → s.follows = true → t.rd R.TIME_STATE 0 = 3 ∧ t.rd R.TIME_HOLDOVER 0 = 1)) ∧
    (s.follows = true → s.time.syncNs + (syncLossNs s : Nat) ≤ s.now → Does .syncLoss s fun t => t.rd R.TIME_STATE 0 = 3 ∧ t.rd R.TIME_HOLDOVER 0 = 1 ∧
      t.rd R.TIME_INCR 0 = s.rd R.TIME_INCR 0 ∧ Logged s t 0x8001 uTime [(1, 1), (4, s.rd R.TIME_INCR 0)]) ∧
    (s.follows = false ∨ s.now < s.time.syncNs + (syncLossNs s : Nat) → Does .syncLoss s fun t => t = s)

/-- Time messages (R203 to R210). A Sync is queued on every Up port but the master port and a Pdelay_Req on every Up
port, each as one flit of VC4 for the link partner with the next sequence number. Its departure puts the time of
that transmission into a Sync and adds it to a response's correction, and is kept for a request. A request is
answered with its sequence number and, as correction, its receive time with the sign changed; the response that
answers the request under way gives the mean path delay of its port. A valid Sync of the master port is counted and
gives the offset, local time less the origin, its correction, the path delay and the asymmetry; the first one of a
chip that is free-running or in holdover begins Acquiring, the sixteenth in bound locks, another identity gives
holdover. Anything else is dropped and counted. Choices of the model that it rests on: log 50. -/
def Obligations.TimeMessages : Prop :=
  ∀ s : State,
    let vc4 (u : State) (p : Nat) : List QPacket := mapGet [] (u.port p).txq 4
    let message (q : QPacket) (p type seq : Nat) (correction : Int) : Prop :=
      q.pkt.vc = 4 ∧ q.pkt.kind = 6 ∧ q.pkt.loc = true ∧ q.pkt.len = 0 ∧ q.pkt.dst = s.beyond p ∧ ptpOk q.pkt.data = true ∧
        ptpType q.pkt.data = type ∧ beField q.pkt.data 30 2 = seq ∧ ptpCorrection q.pkt.data = correction ∧
          (q.pkt.data.drop 20).take 10 = portIdentity p
    let drops (c : Instr) (p : Nat) : Prop := Does c s fun t => Counted s t R.TIME_MSG_DROP p 1 ∧ t.outbox = s.outbox ∧ t.time = s.time
    (s.time.ptpSeq < 65536 →
      (let l := s.upPorts.filter fun p => p != s.rd R.TIME_MASTER_PORT 0
      Does .syncSend s fun t => t.outbox = s.outbox ∧ t.now = s.now ∧
        (∀ p, p ∉ l → vc4 t p = vc4 s p) ∧ ∀ k < l.length,
        let p := getAt 0 l k
        ∃ q, vc4 t p = vc4 s p ++ [q] ∧ message q p 0 ((s.time.ptpSeq + k) % 65536) 0) ∧
      Does .pdelayInitiate s fun t => t.outbox = s.outbox ∧ ∀ k < s.upPorts.length,
        let p := getAt 0 s.upPorts k
        (∃ q, vc4 t p = vc4 s p ++ [q] ∧ message q p 2 ((s.time.ptpSeq + k) % 65536) 0) ∧
          t.pdelayOf p = { s.pdelayOf p with seq := (s.time.ptpSeq + k) % 65536, t1 := none }) ∧
    (∀ (port : Nat) (payload bs : List Byte), timeMsgOf payload = some bs → 54 ≤ bs.length →
      let dep := s.txStamp port
      let out := (stampOut s port payload).drop 40
      (stampOut s port payload).take 40 = payload.take 40 ∧ out.length = bs.length ∧
        (ptpType bs = 0 → beField out 34 6 = (dep / 65536 / 1000000000 % (2 ^ 48 : Nat)).toNat ∧
          beField out 40 4 = (dep / 65536 % 1000000000).toNat ∧ ptpCorrection out = dep % 65536) ∧
        (ptpType bs = 3 → ptpCorrection out = toSigned 64 (ofSigned 64 (ptpCorrection bs + dep))) ∧
        (ptpType bs = 2 → out = bs ∧
          (noteDeparture s port payload).pdelayOf port = { s.pdelayOf port with
            t1 := if beField bs 30 2 = (s.pdelayOf port).seq then some dep else (s.pdelayOf port).t1 })) ∧
    ∀ m : TimeMsg,
      let ok : Prop := ptpOk m.bytes = true ∧ s.portUp m.port = true
      let rx := m.capture - ofPs (Config.calRx m.port : Nat)
      let answers : Prop := beField m.bytes 30 2 = (s.pdelayOf m.port).seq ∧ (m.bytes.drop 44).take 10 = portIdentity m.port
      (¬ (ok ∧ ptpType m.bytes = 2) → drops (.pdelayReq m) m.port) ∧
      (ok → ptpType m.bytes = 2 → Does (.pdelayReq m) s fun t => t.outbox = s.outbox ∧ t.time = s.time ∧
        ∃ q, vc4 t m.port = vc4 s m.port ++ [q] ∧
          message q m.port 3 (beField m.bytes 30 2) (toSigned 64 (ofSigned 64 (-rx))) ∧
            (q.pkt.data.drop 44).take 10 = (m.bytes.drop 20).take 10) ∧
      (¬ (ok ∧ ptpType m.bytes = 3 ∧ answers ∧ (s.pdelayOf m.port).t1.isSome = true) → drops (.pdelayResp m) m.port) ∧
      (ok → ptpType m.bytes = 3 → answers → ∀ t1, (s.pdelayOf m.port).t1 = some t1 → Does (.pdelayResp m) s fun t =>
        t.pdelayOf m.port = { s.pdelayOf m.port with t1 := none, path := (rx - t1 - ptpCorrection m.bytes) / 2 } ∧
          (s.rd R.TIME_MASTER_PORT 0 = m.port →
            t.rd R.TIME_PATH_PS 0 = min (toPs ((rx - t1 - ptpCorrection m.bytes) / 2)).toNat 0xFFFFFFFF)) ∧
      let offset := rx - (ofNs ((beField m.bytes 34 6 * 1000000000 + beField m.bytes 40 4 : Nat) : Int) + ptpCorrection m.bytes +
        (s.pdelayOf m.port).path + ofPs (s.rdI R.TIME_ASYM_PS m.port))
      let valid : Prop := ok ∧ ptpType m.bytes = 0 ∧ m.port = s.rd R.TIME_MASTER_PORT 0
      let id := ptpIdentity m.bytes
      (¬ valid → drops (.syncMessage m) m.port) ∧
      (valid → Does (.syncMessage m) s fun t => Counted s t R.TIME_SYNC_RX m.port 1 ∧ t.time.identity = some id ∧
        t.rdI R.TIME_OFFSET_PS 0 = satSigned 32 (toPs offset) ∧ t.now = s.now ∧ t.time.syncNs = s.now ∧
        (ofNs (s.rd R.TIME_ALIGN_NS 0 : Nat) < offset.natAbs → Counted s t R.TIME_ALIGN_EXC 0 1) ∧
        (s.rd R.TIME_SERVO 0 = 0 → t.rd R.TIME_INCR 0 = s.rd R.TIME_INCR 0) ∧
        (s.rd R.TIME_STATE 0 = 0 ∨ s.rd R.TIME_STATE 0 = 3 → t.rd R.TIME_STATE 0 = 1) ∧
        ((∀ i, s.time.identity = some i → i = id) → s.rd R.TIME_STATE 0 = 1 →
          (offset.natAbs : Int) ≤ ofNs (s.rd R.TIME_ALIGN_NS 0 : Nat) → t.rd R.TIME_STATE 0 = if 15 ≤ s.time.good then 2 else 1) ∧
        (∀ i, s.time.identity = some i → i ≠ id → s.follows = true → t.rd R.TIME_STATE 0 = 3))

/-! ### Agreement and stewards (10) -/

/-- Heartbeats, misses and probes (R272, R273, R275 to R277, R279, R280, R291). While the main rails are up the next
heartbeat leaves on every Up port. One that is the next of a watched neighbour makes it Alive and restarts its
timer, one further on counts a gap, one not after the last is counted as a repeat; a failed chip is heard only with
another BOOT, and is then no longer failed. A neighbour silent for its time is Reported to the arbiters it named;
before that nothing happens. The arbiter probes at the first report, tries again until CLV_PROBE_TRIES, and a live
answer ends the inquiry with a REJECT, which makes a reported neighbour alive at its reporter. A report without a
decision for its time, or whose arbiter has failed, goes once to the substitute arbiter. A new FAULT_NOTICE goes on
through every other Up port and its subject is failed; a second one, and one with a used SSEQ, is counted. Choices
of the model that it rests on: log 51, 52, 54. -/
def Obligations.NeighboursAndFaults : Prop :=
  ∀ s : State,
    (s.mainUp = false → Does .heartbeatSend s fun t => t = s) ∧
    (s.mainUp = true → Does .heartbeatSend s fun t => t.clover.alive = (s.clover.alive + 1) % 2 ^ 32 ∧
      ∃ b : Heartbeat, b.alive = t.clover.alive ∧ b.boot = s.rd R.RST_BOOT 0 % 65536 ∧ b.state = s.rd R.CLV_STATE 0 ∧
        b.nbrUp = nbrUp s ∧ b.step = runStep s ∧
        t.outbox = s.outbox ++ s.upPorts.map fun k => .clover (some k) (s.beyond k) (clvHdr s 0xFF) (.heartbeat b)) ∧
    (∀ (port : Nat) (h : ClvHdr) (b : Heartbeat), s.portUp port = true → port < 6 → h.sender < 2 ^ 32 → b.alive < 2 ^ 32 →
      let heard (t : State) : Prop := t.rd R.CLV_NBR_STATE port = 1 ∧ t.rd R.CLV_NBR_CHIP port = h.sender ∧
        t.rd R.CLV_NBR_ALIVE port = b.alive ∧ (t.nbr port).watched = true ∧ (t.nbr port).lastNs = s.now ∧ (t.nbr port).boot = b.boot
      let d := (b.alive + (2 ^ 32 - s.rd R.CLV_NBR_ALIVE port)) % 2 ^ 32
      (s.isFailed h.sender = false →
        ((s.nbr port).watched = false ∨ d = 1 → Does (.heartbeat port h b) s heard) ∧
        ((s.nbr port).watched = true → 1 < d → d < 2 ^ 31 → Does (.heartbeat port h b) s fun t =>
          heard t ∧ Counted s t R.CLV_NBR_GAPS port 1) ∧
        ((s.nbr port).watched = true → d = 0 ∨ 2 ^ 31 ≤ d → Does (.heartbeat port h b) s fun t =>
          t.clover = s.clover ∧ Counted s t R.CLV_NBR_REPEAT port 1)) ∧
      (∀ boot, (s.clover.failed.find? fun e => e.1 == h.sender) = some (h.sender, boot) →
        (boot = b.boot → Does (.heartbeat port h b) s fun t => t = s) ∧
        (boot ≠ b.boot → Does (.heartbeat port h b) s fun t => t.isFailed h.sender = false))) ∧
    (∀ port < 6,
      let n := s.nbr port
      let due : Prop := n.watched = true ∧ s.rd R.CLV_NBR_STATE port = 1 ∧
        n.lastNs + (1000 * (s.rd R.CLV_HB_MISS 0 * s.rd R.CLV_HB_US 0) : Nat) ≤ s.now
      let r : Report := { subject := s.rd R.CLV_NBR_CHIP port, alive := s.rd R.CLV_NBR_ALIVE port, cause := 1, port := port }
      (¬ due → Does (.neighbourMiss port) s fun t => t = s) ∧
      (due → n.arbA ≠ 0xFFFFFFFF → s.isFailed n.arbA = false → n.arbA ≠ s.me → n.arbB ≠ s.me → Does (.neighbourMiss port) s fun t =>
        t.rd R.CLV_NBR_STATE port = 3 ∧ (t.nbr port).reportNs = s.now ∧
          t.outbox = s.outbox ++ .clover none n.arbA (clvHdr s 0xFF) (.report r) ::
            if n.arbB = 0xFFFFFFFF then [] else [.clover none n.arbB (clvHdr s 0xFF) (.report r)])) ∧
    (∀ (h : ClvHdr) (r : Report), h.srole = 0 → s.isFailed h.sender = false →
      (s.isFailed r.subject = true → Does (.report h r) s fun t => t = s) ∧
      (s.isFailed r.subject = false → arbiterOf s r.subject = true → mapFind s.clover.inquiries r.subject = none → stwMay s = true →
        r.cause ≤ 2 → Does (.report h r) s fun t => t.outbox = s.outbox ++ [.probe r.subject 1] ∧
          mapFind t.clover.inquiries r.subject =
            some { reporters := [h.sender], sinceNs := s.now, tries := 1, probeNs := s.now })) ∧
    (∀ subject : Nat,
      (mapFind s.clover.inquiries subject = none → Does (.probeTimeout subject) s fun t => t = s) ∧
      (∀ q, mapFind s.clover.inquiries subject = some q → q.failed = false → q.substitute = false → stwMay s = true →
        (s.now < q.probeNs + (1000 * s.rd R.CLV_PROBE_US 0 : Nat) → Does (.probeTimeout subject) s fun t => t = s) ∧
        (q.probeNs + (1000 * s.rd R.CLV_PROBE_US 0 : Nat) ≤ s.now → q.tries < s.rd R.CLV_PROBE_TRIES 0 →
          Does (.probeTimeout subject) s fun t => t.outbox = s.outbox ++ [.probe subject (q.tries + 1)] ∧
            mapFind t.clover.inquiries subject = some { q with tries := q.tries + 1, probeNs := s.now }) ∧
        (q.probeNs + (1000 * s.rd R.CLV_PROBE_US 0 : Nat) ≤ s.now → s.rd R.CLV_PROBE_TRIES 0 ≤ q.tries → q.reporters = [] → Does (.probeTimeout subject) s fun t =>
          mapFind t.clover.inquiries subject = some { q with failed := true, cause := 1 }) ∧
        Does (.probeAnswer subject 0 true) s (fun t => mapFind t.clover.inquiries subject = none ∧
          Counted s t R.CLV_REJECTS 0 1 ∧ (s.me ∉ q.reporters → t.outbox.length = s.outbox.length + q.reporters.length))) ∧
      (mapFind s.clover.inquiries subject = none → s.isFailed subject = true → ∀ st auth, Does (.probeAnswer subject st auth) s fun t =>
        Counted s t R.CLV_PROBE_LATE 0 1 ∧ t.clover = s.clover)) ∧
    (∀ (h : ClvHdr) (subject st k : Nat), h.srole = 0 → s.isFailed h.sender = false → nbrPort s subject = some k →
      (s.rd R.CLV_NBR_STATE k = 3 → Does (.reject h subject st) s fun t => t.rd R.CLV_NBR_STATE k = 5 ∧ t.clover = s.clover) ∧
      (s.rd R.CLV_NBR_STATE k ≠ 3 → Does (.reject h subject st) s fun t => t = s)) ∧
    (∀ (subject k : Nat), nbrPort s subject = some k →
      let n := s.nbr k
      let due : Prop := s.rd R.CLV_NBR_STATE k = 3 ∧ n.resent = false ∧
        (s.isFailed n.arbA = true ∨ n.reportNs + (1000 * s.rd R.CLV_ARB_WAIT_US 0 : Nat) ≤ s.now)
      (¬ due → Does (.arbWaitExpiry subject) s fun t => t = s) ∧
      (due → Does (.arbWaitExpiry subject) s fun t => substituteArb s ≠ s.me → (t.nbr k).resent = true ∧
        (substituteArb s ≠ 0xFFFFFFFF → t.outbox = s.outbox ++ [.clover none (substituteArb s)
          (clvHdr s 0xFF) (.report { subject := s.rd R.CLV_NBR_CHIP k, alive := s.rd R.CLV_NBR_ALIVE k, cause := 1, port := k })]))) ∧
    ∀ (port : Nat) (h : ClvHdr) (n : Notice),
      (s.isFailed h.sender = true → Does (.faultNotice port h n) s fun t => t = s) ∧
      (s.isFailed h.sender = false →
        (s.isFailed n.subject = true → Does (.faultNotice port h n) s fun t =>
          Counted s t R.CLV_NOTICE_DUP 0 1 ∧ t.outbox = s.outbox ∧ t.clover = s.clover) ∧
        (s.isFailed n.subject = false → (sseqRx s h).2 = false → Does (.faultNotice port h n) s fun t =>
          Counted s t R.CLV_STW_DUP 0 1 ∧ t.outbox = s.outbox ∧ t.clover = s.clover) ∧
        (s.isFailed n.subject = false → (sseqRx s h).2 = true → Does (.faultNotice port h n) s fun t =>
          (∀ k ∈ s.upPorts, k ≠ port → Out.clover (some k) (s.beyond k) h (.notice n) ∈ t.outbox) ∧
            ((∀ p < 128, s.rankOf (s.tagOf p) n.subject = none) → t.isFailed n.subject = true ∧ Counted s t R.CLV_NOTICES 0 1)))

/-- Stewards and health (R287 to R290, R293, R294). At the end of its cycle the active steward reports its crossings and
sends its state to its standby, with which it changes places where that was asked for; the standby awaits the next
copy. A complete copy replaces the standby's inquiries, relays and SSEQ, and makes it Synced; a damaged one is
counted and leaves them. A Synced standby without a copy 0.6 ms into the cycle reports the active steward to P2.
CLV_STW_CMD is the active steward's, with a standby. Half the decaying points of a part go with each half life, and
its score is 1,000 less its points. Choices of the model that it rests on: log 53. -/
def Obligations.Stewards : Prop :=
  ∀ (s : State) (who : Who),
    (s.rd R.CLV_STW_ROLE 0 = 1 →
      let reports := s.clover.crossings.map fun e => Out.healthReport e.1 e.2
      (s.clover.standby = none → Does .stewardCycleEnd s fun t => t.clover.crossings = [] ∧ t.outbox = s.outbox ++ reports) ∧
      (∀ b, s.clover.standby = some b → Does .stewardCycleEnd s fun t =>
        t.clover.crossings = [] ∧ t.outbox = s.outbox ++ reports ++ [.stewardCopy (stewardState s)] ∧
          t.rd R.CLV_STW_ROLE 0 = (if s.clover.swapNext then 2 else 1) ∧
          (s.clover.swapNext = true → t.clover.active = some b ∧ t.clover.standby = s.clover.active))) ∧
    (s.rd R.CLV_STW_ROLE 0 = 2 →
      (Does .stewardCycleEnd s fun t => t.clover = { s.clover with copyValid := false } ∧ t.outbox = s.outbox) ∧
      ∀ c, (∀ swap, Does (.stateCopy true true swap c) s fun t => t.clover.inquiries = c.inquiries ∧ t.mgmt.relays = c.relays ∧
          t.rd R.CLV_STW_SEQ 0 = c.sseq % 65536 ∧ t.rd R.CLV_STW_STATE 0 = 2 ∧ t.clover.copyValid = true ∧
          t.rd R.CLV_STW_ROLE 0 = (if swap then 1 else 2)) ∧
        ∀ complete crc swap, complete = false ∨ crc = false → Does (.stateCopy complete crc swap c) s fun t =>
          Counted s t R.CLV_STW_COPY_ERR 0 1 ∧ t.clover = s.clover ∧ t.mgmt = s.mgmt) ∧
    (s.rd R.CLV_STW_ROLE 0 ≠ 2 → ∀ x y z c, Does (.stateCopy x y z c) s fun t => t = s) ∧
    (∀ a, s.clover.active = some a → s.rd R.CLV_STW_ROLE 0 = 2 → s.rd R.CLV_STW_STATE 0 = 2 →
      (s.time.ns % 1000000 < 600000 → Does .stateCopyMissing s fun t => t = s) ∧
      (600000 ≤ s.time.ns % 1000000 → s.clover.copyValid = false → Does .stateCopyMissing s fun t => t.outbox = s.outbox ++
        [.clover none (Config.trayChip 2) (clvHdr s 0xFF)
          (.report { subject := Config.trayChip a, alive := 0, cause := 2, port := 0xFF })]) ∧
      (s.clover.copyValid = true → Does .stateCopyMissing s fun t => t = s)) ∧
    (∀ v, Allowed s who R.CLV_STW_CMD 0 v →
      (s.rd R.CLV_STW_ROLE 0 = 1 → s.clover.standby.isSome = true → Writes who (.clvStwCmd who v) s fun t => t.clover.swapNext = true) ∧
      (s.rd R.CLV_STW_ROLE 0 ≠ 1 ∨ s.clover.standby = none → TurnedAway who (.clvStwCmd who v) s rState)) ∧
    ∀ u, Does (.penaltyPointDecay u) s fun t => t.penalty u = { s.penalty u with decay := (s.penalty u).decay / 2 } ∧
      t.rd R.HLT_SCORE u = (1000000 - 1000 * ((s.penalty u).fixed.map (·.2)).foldl (· + ·) 0 - (s.penalty u).decay / 2) / 1000 ∧
      (∀ v, v ≠ u → t.penalty v = s.penalty v)

/-! ### Resets, power and bring-up (11, 15) -/

/-- Chip-level resets (R297 to R300, R315, R316, R321, R411). PORSTn low for 10 us or more holds the chip in reset, its
compute, partitions, sessions and steward state cleared, the Ledger's stores kept; a shorter one of less than 8 us
is a glitch and nothing else; its rise, the watchdog and the end of a thermal trip run bring-up from stage 2 and
advance RST_BOOT. A trip drops PWR_EN. A warm reset keeps the sessions where the FCC's image goes on, and leaves
recovery boot only there. A domain is reset where no planned work keeps it, with the domains it contains, and leaves
reset with its next generation, unless its exit is held back. An engine that hangs takes the chip through a warm
reset. Choices of the model that it rests on: log 68, 69, 70, 71, 72, 75. -/
def Obligations.ChipResets : Prop :=
  ∀ (s : State) (who : Who),
    let booted (t : State) : Prop := t.rst.inReset = false ∧ t.rd R.RST_BOOT 0 = (s.rd R.RST_BOOT 0 + 1) % 2 ^ 32
    let cleared (t : State) : Prop := t.blocks = [] ∧ t.parts = [] ∧ t.mem = s.mem ∧ t.ledger.volFirst = s.ledger.volFirst ∧
      t.ledger.volLast = s.ledger.volLast ∧ t.ledger.sectors = s.ledger.sectors
    let fccCleared (t : State) : Prop := t.mgmt = {} ∧ t.tally = [] ∧ t.clover.failed = [] ∧ t.clover.inquiries = []
    (s.rst.standby = true → s.rst.porstLow = false →
      (∀ ns honour, ns < 8000 → Does (.porstnAssert ns honour) s fun t => Counted s t R.RST_GLITCH 0 1 ∧ t.rst = s.rst ∧ t.blocks = s.blocks) ∧
      (∀ ns honour, 10000 ≤ ns → Does (.porstnAssert ns honour) s fun t => t.rst.inReset = true ∧ t.rst.porstLow = true ∧
        (s.rst.inReset = false → cleared t ∧ fccCleared t ∧ t.rd R.RST_CAUSE 0 = 2 ∧ t.rd R.RST_STAGE 0 = 2 ∧ t.rst.bootFrom = 2))) ∧
    (s.rst.porstLow = true →
      (s.rd R.RST_HELD 0 ≠ 0 ∨ s.uptimeMs ≤ s.rst.lowSince + 2000 → Does .porstnHeld s fun t => t = s) ∧
      (s.rd R.RST_HELD 0 = 0 → s.rst.lowSince + 2000 < s.uptimeMs → Does .porstnHeld s fun t => t.rd R.RST_HELD 0 = 1 ∧ bitOf (t.rd R.RST_CAUSE 0) 5 = true ∧ t.rst = s.rst ∧
        (s.ledger.volFirst.length < 512 → t.ledger.volFirst.length = s.ledger.volFirst.length + 1)) ∧
      ∀ adc < 1024, (s.rst.thermTrip = true → Does (.porstnRelease adc) s fun t => t.rst = { s.rst with porstLow := false }) ∧
        (s.rst.thermTrip = false → s.rst.bootFrom = 2 → Does (.porstnRelease adc) s fun t => booted t ∧ t.rst.porstLow = false ∧
          t.rd R.RST_STRAP_ADC 0 = adc ∧ t.rst.mode = strapMode (strapCode adc) ∧ t.rst.pwrEn = true)) ∧
    (s.rst.porstLow = false → (Does .porstnHeld s fun t => t = s) ∧ ∀ adc, Does (.porstnRelease adc) s fun t => t = s) ∧
    (s.rst.standby = true →
      (s.rst.inReset = true → Does .fccWatchdogExpiry s fun t => t = s) ∧
      (s.rst.inReset = false → Does .fccWatchdogExpiry s fun t => booted t ∧ cleared t ∧ fccCleared t ∧
        bitOf (t.rd R.RST_CAUSE 0) 2 = true ∧ t.rd R.RST_STAGE 0 = 2) ∧
      (s.rst.thermTrip = false → Does .thermalTrip s fun t => t.rst.thermTrip = true ∧ t.rst.inReset = true ∧ t.rst.pwrEn = false ∧
        bitOf (t.rd R.RST_CAUSE 0) 3 = true ∧ (s.rst.inReset = false → cleared t ∧ t.rd R.RST_STAGE 0 = 2))) ∧
    (s.rst.thermTrip = false → Does .thermalTripClear s fun t => t = s) ∧
    (s.rst.thermTrip = true → s.rst.porstLow = false → Does .thermalTripClear s fun t => booted t ∧ t.rst.thermTrip = false) ∧
    (Allowed s who R.RST_CMD 0 1 → Writes who (.warmReset who) s fun t => booted t ∧ t.blocks = [] ∧ t.parts = [] ∧ t.mem = s.mem ∧
      bitOf (t.rd R.RST_CAUSE 0) 4 = true ∧ (romNeeded s = false → t.mgmt = s.mgmt ∧ t.tally = s.tally ∧ t.rst.bootFrom = 3 ∧
        t.rd R.RST_STAGE 0 ∈ [3, 9]) ∧ (romNeeded s = true → t.rd R.RST_STAGE 0 = 2)) ∧
    (Allowed s who R.RST_CMD 0 2 →
      (s.rd R.RST_STAGE 0 = 9 → Writes who (.leaveRecoveryBoot who) s fun t => booted t ∧ t.rst.mode = .normal ∧
        t.rd R.RST_STAGE 0 = if romNeeded s then 2 else 3) ∧
      (s.rd R.RST_STAGE 0 ≠ 9 → TurnedAway who (.leaveRecoveryBoot who) s rState)) ∧
    (∀ u v, Allowed s who R.RST_DOM_CMD u v →
      (domBusy s u = true → TurnedAway who (.rstDomCmd who u v) s rState) ∧
      (domBusy s u = false → s.rd R.RST_DOM_STATE u = 0 → Writes who (.rstDomCmd who u v) s fun t =>
        t.rd R.RST_DOM_STATE u = 1 ∧ Counted s t R.RST_DOM_COUNT u 1 ∧ t.rd R.RST_DOM_GEN u = s.rd R.RST_DOM_GEN u ∧
          ∀ x ∈ containedIn u, t.rd R.RST_DOM_STATE x ≠ 0)) ∧
    (∀ u fail, s.rd R.RST_DOM_STATE u = 1 → u < 65536 →
      (domHeld s u = none → Does (.domainResetExit u fail) s fun t =>
        t.rd R.RST_DOM_STATE u = 0 ∧ t.rd R.RST_DOM_GEN u = (s.rd R.RST_DOM_GEN u + 1) % 16) ∧
      (domHeld s u ≠ none → Does (.domainResetExit u fail) s fun t =>
        t.rd R.RST_DOM_STATE u = 2 ∧ t.rd R.RST_DOM_GEN u = s.rd R.RST_DOM_GEN u)) ∧
    ∀ u op, (timed s u op = false → Does (.plannedTimerExpiry u op) s fun t => t = s) ∧
      (timed s u op = true → u < 0xE000 → Does (.plannedTimerExpiry u op) s fun t => booted t ∧ t.blocks = [] ∧ t.parts = [] ∧
        bitOf (t.rd R.RST_CAUSE 0) 4 = true ∧ (romNeeded s = false → Counted s t R.RST_TMO_COUNT 0 1))

/-- Power and bring-up (R304 to R308, R405 to R407). Power-on starts at stage 1 from the flash and nothing else; a loss
of standby power stops the island. A loss of the main rails clears what they feed; where they come up after stage 2,
stage 3 begins; where they do not, bring-up ends in recovery boot. A shutdown waits for every plan to be gone. Each
stage that passes leads to the next: stage 1 raises PWR_EN, stage 2 takes the first slot whose checks pass, stage 4
leaves memory zeroed, stage 7 is Ready; both slots bad leave the boot ROM. The image service erases, takes bytes at
RST_IMG_OFFSET into an erased slot, and checks. The power cap and the safety clamps (R312 to R314). A clamp begins
once, is counted and recorded; when its cause clears it goes with the next step. Stretched time is counted, and past
200 ns in 10 us it clamps. Unplanned work is held exactly while the last average is above the cap, whichever of the
two changes. An average that stays above it for PWR_OVER_MS is recorded. Choices of the model that it rests on: log
63, 69, 72, 73, 74, 105. -/
def Obligations.PowerAndBringUp : Prop :=
   (∀ (s : State) (who : Who),
      (∀ adc < 1024, Does (.powerOn adc) s fun t => t.rst.standby = true ∧ t.rd R.RST_STAGE 0 = 1 ∧ bitOf (t.rd R.RST_CAUSE 0) 0 = true ∧
        t.rst.mode = strapMode (strapCode adc) ∧ t.mem = [] ∧ t.blocks = [] ∧ t.ledger.sectors = s.ledger.sectors ∧
          t.obs.lifeCopies = s.obs.lifeCopies ∧ t.rst.imgA = s.rst.imgA ∧ t.rst.imgB = s.rst.imgB ∧ t.outbox = s.outbox) ∧
      Does .standbyPowerLoss s (fun t => t.rst.standby = false ∧ t.mem = [] ∧ t.blocks = [] ∧ t.ledger.volFirst = [] ∧
        t.ledger.sectors = s.ledger.sectors ∧ t.obs.lifeCopies = s.obs.lifeCopies) ∧
      (s.rst.pwrEn = true → s.rst.pwrGood = true → Does .pwrGoodFall s fun t => t.rst.pwrEn = false ∧ t.rst.pwrGood = false ∧ t.blocks = [] ∧
        t.parts = [] ∧ t.mgmt = s.mgmt) ∧
      (s.rst.pwrEn = false ∨ s.rst.pwrGood = false → Does .pwrGoodFall s fun t => t = s.setRst { s.rst with pwrGood := false }) ∧
      Does .pwrGoodRise s (fun t => t.rst.pwrGood = true ∧ (s.rst.pwrEn = true → s.rst.stage2Done = true → t.rd R.RST_STAGE 0 = 3) ∧
        (s.rst.stage2Done = false → t.od = s.od)) ∧
      (s.rst.pwrEn = true → s.rst.pwrGood = false → s.rst.pwrEnMs + 100 ≤ s.uptimeMs → Does .pwrGoodTimeout s fun t => t.rst.pwrEn = false ∧
        Logged s t 0xC004 uFcc [(1, 3), (2, uFcc), (1, 1)] ∧ (s.rst.stage2Done = true → t.rd R.RST_STAGE 0 = 9)) ∧
      (s.rst.pwrEn = false ∨ s.rst.pwrGood = true ∨ s.uptimeMs < s.rst.pwrEnMs + 100 → Does .pwrGoodTimeout s fun t => t = s) ∧
      ((∀ p < 128, s.pstate p = psEmpty) → Does .orderlyShutdown s fun t => t.rst.pwrEn = false ∧ t.msys.selfRefresh = true ∧ t.blocks = []) ∧
      ((∃ p < 128, s.pstate p ≠ psEmpty) → Does .orderlyShutdown s fun t => t = s) ∧
      (∀ e : StageEnd,
        let k := s.rd R.RST_STAGE 0
        let runs : Prop := s.rst.standby = true ∧ s.rst.inReset = false ∧ s.rst.stage2Done = false ∧ k < 8 ∧
          (k < 3 ∨ (s.rst.pwrEn = true ∧ s.rst.pwrGood = true))
        (¬ runs → Does (.bringupStageEnd e) s fun t => t = s) ∧
        (runs →
          (k = 1 → e.ok = true → e.strapAdc < 1024 → Does (.bringupStageEnd e) s fun t => t.rd R.RST_STAGE 0 = 2 ∧ t.rst.pwrEn = true ∧
            t.rst.mode = strapMode (strapCode e.strapAdc)) ∧
          (k = 1 → e.ok = false → Does (.bringupStageEnd e) s fun t => t.rd R.RST_STAGE 0 = 1 ∧ t.rst.stage1Bad = true) ∧
          (k = 2 → bootFail e.slotA ≠ 0 → bootFail e.slotB ≠ 0 → Does (.bringupStageEnd e) s fun t =>
            t.rd R.RST_STAGE 0 = 9 ∧ t.rst.romRecovery = true) ∧
          (k = 2 → bootFail e.slotA = 0 ∨ bootFail e.slotB = 0 → e.ok = true → s.rst.mode ≠ .recovery → s.rst.pwrEn = true →
            s.rst.pwrGood = true → bitOf (s.rd R.RST_CAUSE 0) 6 = false → Does (.bringupStageEnd e) s fun t =>
              t.rd R.RST_STAGE 0 = 3 ∧ t.rd R.ID_FW_SLOT 0 = (if bootFail e.slotA = 0 then 0 else 1)) ∧
          (k = 3 → Does (.bringupStageEnd e) s fun t => t.rd R.RST_STAGE 0 = if e.ok then 4 else 9) ∧
          (k = 4 → Does (.bringupStageEnd e) s fun t => t.rd R.RST_STAGE 0 = 5 ∧ t.mem = [] ∧ t.poison = []) ∧
          (k = 5 → Does (.bringupStageEnd e) s fun t => t.rd R.RST_STAGE 0 = 6) ∧
          (k = 6 → Does (.bringupStageEnd e) s fun t => t.rd R.RST_STAGE 0 = 7) ∧
          (k = 7 → Does (.bringupStageEnd e) s fun t => t.rd R.RST_STAGE 0 = 8 ∧ t.rst.rrs = !e.ok ∧
            (s.rd R.CLV_STATE 0 = 2 → s.rst.mode ≠ .manufacturing → t.rd R.CLV_STATE 0 = 0)))) ∧
      (Allowed s who R.RST_IMG_CMD 0 1 →
        (imgBusy s = true → TurnedAway who (.imgErase who) s rState) ∧
        (imgBusy s = false → Writes who (.imgErase who) s fun t => t.rd R.RST_IMG_STATE 0 = 1 ∧ t.rst = s.rst)) ∧
      (Allowed s who R.RST_IMG_CMD 0 2 →
        (imgBusy s = true → TurnedAway who (.imgCheck who) s rState) ∧
        (imgBusy s = false → Writes who (.imgCheck who) s fun t => t.rd R.RST_IMG_STATE 0 = 3 ∧ (imgSlot t).erased = false)) ∧
      (Allowed s who R.RST_IMG_DATA 0 0 → ∀ bytes : List Byte, bytes.length ≤ 1016 →
        let o := s.rd R.RST_IMG_OFFSET 0
        (imgBusy s = false → (imgSlot s).erased = true → o + bytes.length ≤ 8388608 → Writes who (.rstImgData who bytes) s fun t =>
          t.rd R.RST_IMG_OFFSET 0 = o + bytes.length ∧ t.rd R.RST_IMG_STATE 0 = 2 ∧
            (imgSlot t).bytes = mapSplice 0xFF (imgSlot s).bytes o bytes) ∧
        (imgBusy s = true ∨ (imgSlot s).erased = false ∨ 8388608 < o + bytes.length →
          TurnedAway who (.rstImgData who bytes) s rState)) ∧
      (s.rd R.RST_IMG_STATE 0 = 1 → Does .imgEraseDone s fun t => t.rd R.RST_IMG_STATE 0 = 0 ∧ imgSlot t = { erased := true }) ∧
      (s.rd R.RST_IMG_STATE 0 ≠ 1 → Does .imgEraseDone s fun t => t = s) ∧
      ∀ c : BootCheck, (s.rd R.RST_IMG_STATE 0 = 3 → Does (.imgCheckDone c) s fun t =>
          t.rd R.RST_IMG_STATE 0 = (if bootFail c = 0 then 4 else 5) ∧ (imgSlot t).passed = decide (bootFail c = 0)) ∧
        (s.rd R.RST_IMG_STATE 0 ≠ 3 → Does (.imgCheckDone c) s fun t => t = s)) ∧
   (∀ (s : State) (who : Who),
      (∀ cause, s.power.clamps.contains cause = false →
        Does (.policyClamp cause false) s (fun t => t.power.clamps = s.power.clamps ++ [cause] ∧ Counted s t R.PWR_CLAMPS 0 1 ∧
          Logged s t 0xC020 uFcc [(1, cause), (4, s.rd R.PWR_CCLK_KHZ 0)] ∧ t.mem = s.mem) ∧
        Does (.policyClamp cause true) s fun t => t = s) ∧
      (∀ cause, s.power.clamps.contains cause = true →
        Does (.policyClamp cause true) s (fun t => t.power.clamps = s.power.clamps ∧ cause ∈ t.power.clearing ∧ t.od = s.od) ∧
        Does (.policyClamp cause false) s (fun t => t.power.clamps = s.power.clamps ∧ cause ∉ t.power.clearing ∧ t.od = s.od)) ∧
      (∀ ns win, (win ≤ 200 → Does (.droopStretch ns win) s fun t => Counted s t R.PWR_STRETCH_NS 0 ns ∧ t.power = s.power ∧ t.ledger = s.ledger) ∧
        (200 < win → Does (.droopStretch ns win) s fun t =>
          Counted s t R.PWR_STRETCH_NS 0 ns ∧ 3 ∈ t.power.clamps ∧ 3 ∈ t.power.clearing)) ∧
      (∀ w < 65536, Does (.powerCapHold w) s fun t => t.rd R.PWR_NOW_W 0 = w ∧ t.rd R.PWR_MAX_W 0 = max (s.rd R.PWR_MAX_W 0) w % 2 ^ 16 ∧
        t.power.holdUnplanned = decide (s.rd R.PWR_CAP_W 0 < w) ∧ t.power.clamps = s.power.clamps ∧
          (s.rd R.PWR_CAP_W 0 < w → t.mem = s.mem ∧ t.power.held = s.power.held)) ∧
      (∀ v, Allowed s who R.PWR_CAP_W 0 v → Writes who (.pwrCapW who v) s fun t => t.rd R.PWR_CAP_W 0 = v ∧
        t.power.holdUnplanned = decide (v < s.rd R.PWR_NOW_W 0) ∧ t.rd R.PWR_CCLK_KHZ 0 = s.rd R.PWR_CCLK_KHZ 0) ∧
      (∀ w, s.rd R.PWR_CAP_W 0 < w → w < 65536 → s.power.holdUnplanned = false → Does (.powerCapHold w) s fun t => t.power.overNs = s.now) ∧
      (s.power.holdUnplanned = true → s.power.overNs + (1000000 * s.rd R.PWR_OVER_MS 0 : Nat) ≤ s.now → Does .powerCapOvershoot s fun t =>
        Logged s t 0xC021 uFcc [(2, s.rd R.PWR_NOW_W 0), (2, s.rd R.PWR_CAP_W 0)] ∧ t.power = s.power) ∧
      (s.power.holdUnplanned = false ∨ s.now < s.power.overNs + (1000000 * s.rd R.PWR_OVER_MS 0 : Nat) →
        Does .powerCapOvershoot s fun t => t = s))

/-! ### The Ledger and Tally (12) -/

/-- The Ledger (R331 to R337). A record within its code's rate joins the queue of 256, one past its rate is suppressed
and counted, one that finds the queue full is lost and counted. The oldest of the queue goes to the volatile store
and, while it has room, to the write buffer. A ready page is programmed at the target sector, in order; a program
that fails leaves its records in the buffer and skips the sector. A finished erase leaves the sector its header. A
clear puts one record first in each store it empties, and is refused while another erases. An override is refused
without a rate or burst or for a code that has one. Choices of the model that it rests on: log 87. -/
def Obligations.LedgerStores : Prop :=
  ∀ (s : State) (who : Who),
    let l := s.ledger
    (∀ e : Event,
      let r := recBytes s e.code e.source (evData e.data e.layer)
      e.code < 0xF001 ∨ 0xF004 < e.code → (mapGet {} l.buckets e.code).count = 0 →
      (1000000000 ≤ bucketNow s e.code → l.queue.length < 256 → Does (.ledgerRecord e) s fun t => t.ledger.queue = l.queue ++ [r] ∧
        t.od = s.od ∧ (mapGet {} t.ledger.buckets e.code).tokens = bucketNow s e.code - 1000000000) ∧
      (1000000000 ≤ bucketNow s e.code → 256 ≤ l.queue.length → Does (.ledgerRecord e) s fun t =>
        t.ledger.queue = l.queue ∧ Counted s t R.LDG_LOST 0 1 ∧ t.ledger.lostPend = l.lostPend + 1) ∧
      (bucketNow s e.code < 1000000000 → Does (.ledgerRecord e) s fun t => t.ledger.queue = l.queue ∧ Counted s t R.LDG_SUPPRESSED 0 1)) ∧
    (l.lostPend = 0 → l.bufDropPend = 0 →
      (l.queue = [] → Does .ledgerQueueDrain s fun t => t = s) ∧
      (∀ r rest, l.queue = r :: rest →
        (Does .ledgerQueueDrain s fun t => t.ledger.queue = rest ∧ t.ledger.drained = l.drained + 1 ∧
          t.ledger.volFirst = (volWrite l r).volFirst ∧ t.ledger.volLast = (volWrite l r).volLast) ∧
        (l.buffer.length < 256 → Does .ledgerQueueDrain s fun t => t.ledger.buffer = l.buffer ++ [(l.drained, r)]) ∧
        (256 ≤ l.buffer.length → Does .ledgerQueueDrain s fun t => t.ledger.buffer = l.buffer ∧ Counted s t R.LDG_FLASH_DROP 0 1))) ∧
    (l.buffer.length < 8 → l.suspended = false → ∀ ok, Does (.flashProgram ok) s fun t => t = s) ∧
    (l.buffer = [] ∨ s.now < ldgOldest s + (1000000 * s.rd R.LDG_FLUSH_MS 0 : Nat) → ∀ ok, Does (.ldgFlushExpiry ok) s fun t => t = s) ∧
    (∀ sec, l.clearing = [] → l.erasing = none → ldgTarget s = some sec → (ldgSector s sec) ≠ [] →
      let pos := (ldgSector s sec).length
      (8 ≤ l.buffer.length → l.lostPend = 0 → l.bufDropPend = 0 → Does (.flashProgram true) s fun t =>
        (mapGet [] t.ledger.sectors sec).take pos = ldgSector s sec ∧
          (mapGet [] t.ledger.sectors sec).drop pos = (l.buffer.take (8 - max 1 pos % 8)).map (·.2) ∧
          t.ledger.buffer = l.buffer.drop (8 - max 1 pos % 8)) ∧
      (8 ≤ l.buffer.length → Does (.flashProgram false) s fun t => t.ledger.buffer = l.buffer ∧ sec ∈ t.ledger.skipped ∧
        mapGet [] t.ledger.sectors sec = ldgSector s sec) ∧
      (l.buffer ≠ [] → ldgOldest s + (1000000 * s.rd R.LDG_FLUSH_MS 0 : Nat) ≤ s.now → l.buffer.length ≤ 8 - max 1 pos % 8 → l.lostPend = 0 → l.bufDropPend = 0 →
        Does (.ldgFlushExpiry true) s fun t => t.ledger.buffer = [] ∧
          (mapGet [] t.ledger.sectors sec).drop pos = l.buffer.map (·.2))) ∧
    (∀ sec ok, (l.erasing ≠ some sec → Does (.flashEraseDone sec ok) s fun t => t = s) ∧
      (l.erasing = some sec → (l.clearing.filter (· != sec)) = [] → Does (.flashEraseDone sec ok) s fun t => t.ledger.erasing = none ∧
        t.ledger.clearing = [] ∧ (ok = false → sec ∈ t.ledger.skipped) ∧
        (ok = true → mapGet 0 t.ledger.erases sec = mapGet 0 l.erases sec + 1 ∧ ∃ h, mapGet [] t.ledger.sectors sec = [h]))) ∧
    (∀ v, Allowed s who R.LDG_CLEAR 0 v →
      (l.clearing ≠ [] → TurnedAway who (.ldgClear who v) s rState) ∧
      (l.clearing = [] → Writes who (.ldgClear who v) s fun t => ∃ r,
        (bitOf v 0 = true → t.ledger.volFirst = [r] ∧ t.ledger.volLast = []) ∧
        (bitOf v 1 = true → t.ledger.sectors = [] ∧ t.ledger.clearing = List.range 32 ∧ t.ledger.erasing = some 0 ∧
          t.ledger.buffer.map (·.2) = [r]) ∧ t.ledger.queue = l.queue)) ∧
    ∀ k v, Allowed s who R.LDG_OVR k v →
      (v = 0 → Writes who (.ldgOvr who k v) s fun t => t.rd R.LDG_OVR k = 0) ∧
      (v ≠ 0 → bits v 8 8 = 0 ∨ bits v 0 8 = 0 → TurnedAway who (.ldgOvr who k v) s rRange) ∧
      (v ≠ 0 → bits v 8 8 ≠ 0 → bits v 0 8 ≠ 0 →
        ((∃ j < 64, j ≠ k ∧ s.rd R.LDG_OVR j ≠ 0 ∧ bits (s.rd R.LDG_OVR j) 16 16 = bits v 16 16) →
          TurnedAway who (.ldgOvr who k v) s rState) ∧
        ((∀ j < 64, j ≠ k → s.rd R.LDG_OVR j = 0 ∨ bits (s.rd R.LDG_OVR j) 16 16 ≠ bits v 16 16) →
          Writes who (.ldgOvr who k v) s fun t => t.rd R.LDG_OVR k = v))

/-- Tally (R340, R342, R345, R346). A start is taken by a channel that is not the device's own, not busy and whose
registers describe a scan, which begins at chunk 0 with value 0. Each chunk is folded into the value; a stop asked
for ends the scan before the next. With every chunk folded the scan ends with its value in TLY_RESULT and its END, 1
or, where it is compared and differs, 2, counted. A period begins a scan once it is due, or marks an overrun. A
value in sequence in a lane is not a mismatch, and a gap is. Clearing forgets every lane's start. Choices of the
model that it rests on: log 65. -/
def Obligations.TallyScans : Prop :=
  ∀ (s : State) (who : Who) (ch : Nat), ch < 16 →
    let c := s.chan ch
    let own := tlyReserved s ch
    let idle := c.running = false ∧ c.armed = false ∧ c.stream = false
    let ends (t : State) (code : Nat) : Prop := (t.chan ch).running = false ∧ bits (t.rd (R.TLY_STATUS ch) 0) 8 8 = code ∧
      t.rd (R.TLY_RESULT ch) 0 = c.value % 2 ^ 64
    (Allowed s who (R.TLY_CMD ch) 0 1 →
      (own = true ∨ ¬ idle → TurnedAway who (.tallyStart who ch) s rState) ∧
      (own = false → idle → tlyCtl s ch 2 2 = 0 →
        (scanValid s ch = true → Writes who (.tallyStart who ch) s fun t => (t.chan ch).running = true ∧ (t.chan ch).chunk = 0 ∧
          (t.chan ch).value = 0 ∧ t.rd (R.TLY_DONE ch) 0 = 0 ∧ bitOf (t.rd (R.TLY_STATUS ch) 0) 0 = true) ∧
        (scanValid s ch = false → TurnedAway who (.tallyStart who ch) s rState)) ∧
      (own = false → idle → tlyCtl s ch 2 2 = 2 → Writes who (.tallyStart who ch) s fun t => (t.chan ch).stream = true)) ∧
    (Allowed s who (R.TLY_CMD ch) 0 2 → own = false → Writes who (.tallyStop who ch) s fun t =>
      t.chan ch = { c with armed := false, stream := false, stopReq := c.running }) ∧
    (Allowed s who (R.TLY_CMD ch) 0 3 → own = false → Writes who (.tallyClearLanes who ch) s fun t => t.chan ch = { c with started := [] }) ∧
    (c.running = false → (∀ ecc, Does (.tallyChunkRead ch ecc) s fun t => t = s) ∧ Does (.tallyScanEnd ch) s fun t => t = s) ∧
    (c.running = true → c.chunk * tlyChunk s ch < tlyLen s ch → ∀ ecc,
      (Does (.tallyScanEnd ch) s fun t => t = s) ∧
      (c.stopReq = true → Does (.tallyChunkRead ch ecc) s fun t => ends t 5) ∧
      ∀ rs, c.stopReq = false → chunkNear s ch = true → reqRange s (chunkReq s ch) = some rs → downRange s rs = false →
        (∀ x ∈ rs, holdOf s x.1 x.2 = none) → Does (.tallyChunkRead ch ecc) s fun t =>
          (t.chan ch).chunk = c.chunk + 1 ∧
            (t.chan ch).value = foldMore (tlyCtl s ch 0 2) c.value (zeroBad (readRuns s uFcc rs ecc).2) ∧ t.mem = s.mem) ∧
    (c.running = true → tlyLen s ch ≤ c.chunk * tlyChunk s ch → c.poisoned = false →
      (tlyCtl s ch 6 1 = 1 → s.rd (R.TLY_EXPECT ch) 0 ≠ c.value → Does (.tallyScanEnd ch) s fun t =>
        ends t 2 ∧ Counted s t (R.TLY_MISMATCHES ch) 0 1 ∧ bitOf (t.rd (R.TLY_STATUS ch) 0) 4 = true) ∧
      (tlyCtl s ch 6 1 = 0 ∨ s.rd (R.TLY_EXPECT ch) 0 = c.value → Does (.tallyScanEnd ch) s fun t => ends t 1 ∧
        t.rd (R.TLY_MISMATCHES ch) 0 = s.rd (R.TLY_MISMATCHES ch) 0)) ∧
    (c.armed = false ∨ s.now < c.dueNs → Does (.tallyPeriod ch) s fun t => t = s) ∧
    (c.armed = true → c.dueNs ≤ s.now →
      let due := c.dueNs + (1000000 * tlyPeriod s ch : Nat)
      (c.running = false → Does (.tallyPeriod ch) s fun t => (t.chan ch).running = true ∧ (t.chan ch).value = 0 ∧ (t.chan ch).dueNs = due) ∧
      (c.running = true → Does (.tallyPeriod ch) s fun t => bitOf (t.rd (R.TLY_STATUS ch) 0) 6 = true ∧ t.chan ch = { c with dueNs := due })) ∧
    ∀ lane v, lane < 8 → v < 2 ^ 32 → Allowed s who { R.TLY_LANE ch lane with acc := .wo } 0 v →
      let d := (v + (2 ^ 32 - bits (s.rd (R.TLY_LANE ch lane) 0) 0 32)) % 2 ^ 32
      let mismatch (t : State) (n : Nat) : Prop := Counted s t (R.TLY_MISMATCHES ch) 0 n
      (c.stream = false ∨ tlyCtl s ch 8 3 < lane → TurnedAway who (.tlyLane who ch lane v) s rState) ∧
      (c.stream = true → lane ≤ tlyCtl s ch 8 3 →
        (lane ∉ c.started → Writes who (.tlyLane who ch lane v) s fun t => lane ∈ (t.chan ch).started ∧
          bits (t.rd (R.TLY_LANE ch lane) 0) 0 32 = v) ∧
        (lane ∈ c.started → d = 1 → Writes who (.tlyLane who ch lane v) s fun t =>
          bits (t.rd (R.TLY_LANE ch lane) 0) 0 32 = v ∧ t.rd (R.TLY_MISMATCHES ch) 0 = s.rd (R.TLY_MISMATCHES ch) 0) ∧
        (lane ∈ c.started → 1 < d → d < 2 ^ 31 → Writes who (.tlyLane who ch lane v) s fun t =>
          bits (t.rd (R.TLY_LANE ch lane) 0) 0 32 = v ∧ mismatch t 1) ∧
        (lane ∈ c.started → d = 0 ∨ 2 ^ 31 ≤ d → Writes who (.tlyLane who ch lane v) s fun t => mismatch t 1))

/-! ### Management (13, 14) -/

/-- Sessions of the tray bus (R365 to R368). A frame the FCC does not take does nothing; a malformed one is dropped, and
one whose tag is not its key's is counted, each without effect on any session. An OPEN under its role's key opens a
session of the least free number; a CLOSE ends it, and so does an idle time without a request under way. A repeated
request is answered from the cache, one that still runs is not run again, one out of sequence is answered by
SEQUENCE, and the next one is run once: its response is cached and sent. Choices of the model that it rests on: log
79, 80. -/
def Obligations.OdapSessions : Prop :=
  ∀ (s : State) (f : Frame),
    let counted (c : Instr) (r : Reg) : Prop := Does c s fun t => Counted s t r 0 1 ∧ t.mgmt = s.mgmt ∧ t.outbox = s.outbox
    (takes s f = false → ∀ c ∈ [Instr.odapOpen f, .odapClose f, .request f], Does c s fun t => t = s) ∧
    (takes s f = true →
      (frameOk f 1 = false ∨ f.payload.length ≠ 16 → counted (.odapOpen f) R.MGT_RX_DROP) ∧
      (frameOk f 3 = false → counted (.odapClose f) R.MGT_RX_DROP) ∧ (frameOk f 0x10 = false → counted (.request f) R.MGT_RX_DROP) ∧
      (frameOk f 1 = true → f.payload.length = 16 →
        (roleKey s f.role = none → Does (.odapOpen f) s fun t => t.mgmt = s.mgmt) ∧
        (∀ key, roleKey s f.role = some key → f.tag ≠ frameTag key f → counted (.odapOpen f) R.MGT_AUTH_FAIL) ∧
        (∀ key, roleKey s f.role = some key → f.tag = frameTag key f → s.serves (roleOf f.role) = true →
          (∀ x ∈ s.mgmt.sessions, x.peer ≠ f.srcMac) →
          (freePeers s = [] → Does (.odapOpen f) s fun t => t.mgmt = s.mgmt) ∧
          (freePeers s ≠ [] → Does (.odapOpen f) s fun t => Counted s t R.MGT_OPENS 0 1 ∧ t.rst.openCount = s.rst.openCount + 1 ∧
            ∃ x, t.mgmt.sessions = s.mgmt.sessions ++ [x] ∧ x.peer = f.srcMac ∧ x.role = f.role ∧ x.number = 0 ∧ x.l = 0))) ∧
      (frameOk f 3 = true →
        (findSession s f.srcMac f.session (forSteward s f) = none → counted (.odapClose f) R.MGT_AUTH_FAIL) ∧
        ∀ x, findSession s f.srcMac f.session (forSteward s f) = some x → f.tag = frameTag x.key f → Does (.odapClose f) s fun t =>
          t.mgmt.sessions = s.mgmt.sessions.filter fun y => !(y.peer == f.srcMac && y.number == f.session)) ∧
      (frameOk f 0x10 = true → forSteward s f = false →
        (findSession s f.srcMac f.session false = none → counted (.request f) R.MGT_AUTH_FAIL) ∧
        ∀ x, findSession s f.srcMac f.session false = some x → f.tag = frameTag x.key f →
          (∀ y ∈ s.mgmt.sessions, y.peer = x.peer → y.number = x.number → y = x) →
          let answered (t : State) (payload : List Byte) : Prop := ∃ g, t.outbox = s.outbox ++ [.frame g] ∧ g.payload = payload ∧
            g.type = 0x11 ∧ g.session = x.number ∧ g.seq = f.seq ∧ g.dstMac = x.peer
          let ran (t : State) (payload : List Byte) : Prop := answered t payload ∧ ∃ y, findSession t x.peer x.number false = some y ∧
            y.l = f.seq ∧ y.cached = payload ∧ y.running = none
          (f.seq = x.l → x.reqCrc = some (crc32c f.payload) → Does (.request f) s fun t =>
            answered t x.cached ∧ Counted s t R.MGT_REPEATS 0 1) ∧
          (f.seq = (x.l + 1) % 2 ^ 32 → x.running = some (crc32c f.payload) → Does (.request f) s fun t => t.outbox = s.outbox ∧
            ∀ y, findSession t x.peer x.number false = some y → y = { x with lastNs := s.now }) ∧
          (x.running = none → f.seq ≠ x.l → f.seq ≠ (x.l + 1) % 2 ^ 32 → Does (.request f) s fun t =>
            answered t (oneResult true 0x0E05) ∧ Counted s t R.MGT_SEQ_ERR 0 1) ∧
          (x.running = none → f.seq = (x.l + 1) % 2 ^ 32 → x.ending = false →
            (f.dstPos ≠ 0xFE → Does (.request f) s fun t => ran t (oneResult true 0x0E0B)) ∧
            (∀ o, f.dstPos = 0xFE → bitOf f.flags 1 = false → opsOf true 64 f.payload = some [o] → o.op = 1 →
              let s1 := modSession (modSession s x fun y => { y with lastNs := s.now }) x fun y =>
                { y with running := some (crc32c f.payload) }
              Does (.request f) s fun t => ran t
                (resBytes true (runOp s1 { role := roleOf x.role, path := .t1s, func := 0 } true o 1024).2))))) ∧
    ∀ slot x, (s.mgmt.sessions.find? fun y => y.peerNo * 8 + y.number == slot) = some x →
      let due : Prop := x.running = none ∧ x.lastNs + (1000000000 * s.rd R.MGT_SESS_IDLE_S 0 : Nat) ≤ s.now
      (¬ due → Does (.sessionIdleTimeout slot) s fun t => t = s) ∧
      (due → Does (.sessionIdleTimeout slot) s fun t => t.outbox = s.outbox ∧
        t.mgmt.sessions = s.mgmt.sessions.filter fun y => !(y.peer == x.peer && y.number == x.number))

/-- Relays, mailboxes and management over VC0 (R276, R291, R299, R364, R369, R370, R372, R373). A relayed request is run
once by its SSEQ and answered to the stewards; its answer or its time out ends the relay. A mailbox takes no request
while Busy; one of its own chip is Done at once, one for another chip is the physical function's alone and waits for
its answer, which makes it Done. A request over VC0 is run here and answered, but not in open mode nor for another
role. A probe is answered with the chip's status; a held chip broadcasts its own. Choices of the model that it rests
on: log 80, 81, 82, 83. -/
def Obligations.ManagementPaths : Prop :=
  (∀ (s : State) (f : Frame),
    let badTag (c : Instr) : Prop := Does c s fun t => Counted s t R.MGT_AUTH_FAIL 0 1 ∧ t.mgmt = s.mgmt ∧ t.outbox = s.outbox
    let hdr : ClvHdr := { dtag := 0, part := 0xFF, srole := f.srole, sseq := f.sseq, sender := 0, tray := f.tray }
    (s.fccUp = false → ∀ c ∈ [Instr.relayReq f, .relayResp f, .status f], Does c s fun t => t = s) ∧
    (s.fccUp = true → f.dstMac = ownMac → frameOk f 0x12 = true →
      (trayTagOk s f = false → badTag (.relayReq f)) ∧
      (trayTagOk s f = true →
        ((sseqRx s hdr).2 = false → Does (.relayReq f) s fun t => Counted s t R.CLV_STW_DUP 0 1 ∧ t.outbox = s.outbox ∧ t.mgmt = s.mgmt) ∧
        (∀ o, (sseqRx s hdr).2 = true → isSteward s = false → bitOf f.flags 1 = false → opsOf true 64 f.payload = some [o] → o.op = 1 →
          Does (.relayReq f) s fun t => t.mgmt = s.mgmt ∧ ∃ g, t.outbox = s.outbox ++ [.frame g] ∧ g.type = 0x13 ∧
            g.sseq = f.sseq ∧ g.dstMac = groupMac ∧ g.payload =
              resBytes true (runOp (sseqRx s hdr).1 { role := roleOf f.role, path := .t1s, func := 0 } true o 1024).2))) ∧
    (s.fccUp = true → forSteward s f = true → frameOk f 0x13 = true →
      (trayTagOk s f = false → badTag (.relayResp f)) ∧
      (trayTagOk s f = true → Does (.relayResp f) s fun t => t.mgmt.relays =
        match s.mgmt.relays.find? fun r => r.key == f.sseq with
        | some _ => s.mgmt.relays.filter fun r => r.key != f.sseq
        | none => s.mgmt.relays)) ∧
    (s.rst.standby = false ∨ f.dstMac ≠ ownMac → Does (.probe f) s fun t => t = s) ∧
    (s.rst.standby = true → f.dstMac = ownMac → frameOk f 0x20 = true → f.payload.length = 8 → ∀ k, s.rst.trayKey = some k →
      (bitOf f.flags 3 = false → f.tag = frameTag k f → Does (.probe f) s fun t => ∃ g, t = s.emit (.frame g) ∧ g.type = 0x21 ∧
        g.seq = f.seq ∧ g.dstMac = f.srcMac ∧ g.payload = beBytes 1 (probeStatus s) ++ beBytes 2 (s.rd R.RST_BOOT 0) ++ f.payload) ∧
      (f.tag ≠ frameTag k f → badTag (.probe f))) ∧
    (s.fccUp = true → f.dstMac = allMac → frameOk f 0x30 = true → f.payload.length = 14 →
      let subject := Config.trayChip (beVal ((f.payload.drop 1).take 1))
      (bitOf f.flags 3 = false → trayTagOk s f = false → badTag (.status f)) ∧
      (bitOf f.flags 3 = true → arbiterOf s subject = false → Does (.status f) s fun t => t = s) ∧
      (bitOf f.flags 3 = true → f.tray = s.rd R.CLV_TRAY_ID 0 → arbiterOf s subject = true → s.isFailed subject = false →
        mapFind s.clover.inquiries subject = none → stwMay s = true → Does (.status f) s fun t =>
          t.outbox = s.outbox ++ [.probe subject 1])) ∧
    (∀ k r, (s.mgmt.relays.find? fun x => x.key == k) = some r → s.now < r.sentNs + (1000 * s.rd R.MGT_RELAY_US 0 : Nat) →
      Does (.relayTimeout k) s fun t => t = s) ∧
    (∀ k r, (s.mgmt.relays.find? fun x => x.key == k) = some r → r.sentNs + (1000 * s.rd R.MGT_RELAY_US 0 : Nat) ≤ s.now →
      Does (.relayTimeout k) s fun t => Counted s t R.MGT_RELAY_TMO 0 1 ∧ t.mgmt.relays = s.mgmt.relays.filter fun x => x.key != k) ∧
    (∀ k, (s.mgmt.relays.find? fun x => x.key == k) = none → Does (.relayTimeout k) s fun t => t = s) ∧
    let held : Prop := s.rst.standby = true ∧ s.rst.porstLow = true ∧ s.rd R.RST_HELD 0 = 1
    (¬ held → Does .statusBroadcast s fun t => t = s) ∧
    (held → Does .statusBroadcast s fun t => ∃ g, t = s.emit (.frame g) ∧ g.type = 0x30 ∧ g.dstMac = allMac ∧
      g.payload.take 2 = beBytes 1 3 ++ beBytes 1 (s.rd R.CLV_STW_POS 0))) ∧
  (∀ (s : State) (func box : Nat), s.present func = true → s.unitUp uEndpoint = true → (if func = 0 then box < 16 else box = 0) →
    let k := mboxKey func box
    let b := s.mbox k
    let ops := opsOf false 64 (sliceZ b.req 0 b.len)
    let whole : Prop := 8 ≤ b.len ∧ b.len ≤ 1024
    (b.state = 1 → Does (.mboxGo func box) s fun t => Counted s t R.HOST_FN_DB_DROP func 1 ∧ t.host = s.host ∧ t.outbox = s.outbox) ∧
    (b.state ≠ 1 →
      (¬ whole → Does (.mboxGo func box) s fun t => (t.mbox k).state = (if b.toIdle then 0 else 2) ∧ (t.mbox k).rsp = oneResult false 0x0E0B ∧
        t.outbox = s.outbox) ∧
      (∀ o, whole → b.target = 0xFFFFFFFF ∨ b.target = s.me → ops = some [o] → o.op = 1 → Does (.mboxGo func box) s fun t =>
        (t.mbox k).state = (if b.toIdle then 0 else 2) ∧ (t.mbox k).rsp =
          resBytes false (runOp (modMbox s k fun b => { b with state := 1 })
            { role := if func = 0 then .operator else .owner, path := .pcie, func := func } false o 1024).2) ∧
      (∀ o rest, whole → b.target ≠ 0xFFFFFFFF → b.target ≠ s.me → ops = some (o :: rest) →
        (func ≠ 0 → Does (.mboxGo func box) s fun t => (t.mbox k).rsp = oneResult false 0x0E04 ∧ t.outbox = s.outbox) ∧
        (func = 0 → openMode s = false → s.mgmt.forwards.length < 16 → Does (.mboxGo func box) s fun t => (t.mbox k).state = 1 ∧
          t.mgmt.forwards.length = s.mgmt.forwards.length + 1 ∧ ∃ g, t.outbox = s.outbox ++ [.mgmt b.target 0x20 g] ∧
            g.seq = s.mgmt.fwdSeq ∧ g.payload = fromMbox (o :: rest) ∧
              ∀ w, fwdFind t g.seq = some w → s.mgmt.forwards.all (fun x => x.key != g.seq) = true → w.sentNs = s.now)))) ∧
  ∀ (s : State) (h : ClvHdr) (f : Frame), s.fccUp = true → s.isFailed h.sender = false → h.srole = 0 →
    let back (u t : State) (payload : List Byte) : Prop := ∃ g, t = mgmtEmit u (clvHdr u 0xFF) h.sender 0x21 g ∧
      t.outbox = u.outbox ++ [.mgmt h.sender 0x21 g] ∧ g.payload = payload ∧ g.seq = f.seq
    (openMode s = true → Does (.vc0MgmtRequest h f) s fun t => back s t (oneResult true 0x0E0D)) ∧
    (openMode s = false → f.role ≠ 0 → f.role ≠ 1 → Does (.vc0MgmtRequest h f) s fun t => back s t (oneResult true 0x0E04)) ∧
    (openMode s = false → f.role = 0 ∨ f.role = 1 → Does (.vc0MgmtRequest h f) s fun t =>
      let x := runRequest s { role := roleOf f.role, path := .vc0, func := 0 } true (bitOf f.flags 2) f.payload
      back x.1 t x.2) ∧
    (∀ w k, fwdFind s f.seq = some w → w.asker = .mbox k →
      (w.target = h.sender → Does (.vc0MgmtResponse h f) s fun t => (t.mbox k).state = (if (s.mbox k).toIdle then 0 else 2) ∧
        t.mgmt.forwards = s.mgmt.forwards.filter fun v => v.key != f.seq) ∧
      (w.target ≠ h.sender → Does (.vc0MgmtResponse h f) s fun t => t.mgmt = s.mgmt ∧ t.host = s.host) ∧
      (s.now < w.sentNs + (1000 * s.rd R.MGT_VC0_US 0 : Nat) → Does (.vc0MgmtTimeout f.seq) s fun t => t = s) ∧
      (w.sentNs + (1000 * s.rd R.MGT_VC0_US 0 : Nat) ≤ s.now → Does (.vc0MgmtTimeout f.seq) s fun t => (t.mbox k).state = (if (s.mbox k).toIdle then 0 else 2) ∧
        Counted s t R.MGT_RELAY_TMO 0 1 ∧ t.mgmt.forwards = s.mgmt.forwards.filter fun v => v.key != f.seq)) ∧
    (fwdFind s f.seq = none → Does (.vc0MgmtTimeout f.seq) s fun t => t = s)

/-- Keys and entries (R7, R182, R353, R365, R371, R372). A key is stored whole, not over VC0, and MGT_KEY_SET says that
it is there. The fabric slot chosen for sending is provisioned. A write of an entry is its one instance's write; an
entry without a rule of its own takes the value. A read of a read-clear field answers its value and leaves it at its
default. Lost beacons put the tray bus into CSMA/CD until they return. Choices of the model that it rests on: log
14, 15, 79. -/
def Obligations.KeysAndEntries : Prop :=
  ∀ (s : State) (who : Who),
    (∀ sub ∈ [3, 4, 5], ∀ key : List Byte, key.length ≤ 32 → Allowed s who (keyReg sub) 0 (leVal key) →
      (who.path = .vc0 → TurnedAway who (.keyWrite who sub key) s rRole) ∧
      (who.path ≠ .vc0 → (key.any fun b => b != 0) = true → Writes who (.keyWrite who sub key) s fun t =>
        t.rdB (keyReg sub) 0 = sliceZ key 0 32 ∧ bitOf (t.rd R.MGT_KEY_SET 0) (sub - 1) = true ∧ t.mgmt = s.mgmt)) ∧
    (∀ v, Allowed s who R.MGT_KEY_FAB_SEL 0 v →
      (keySet s (4 + v) = true ∨ openMode s = true → Writes who (.mgtKeyFabSel who v) s fun t => t.rd R.MGT_KEY_FAB_SEL 0 = v) ∧
      (keySet s (4 + v) = false → openMode s = false → TurnedAway who (.mgtKeyFabSel who v) s rState)) ∧
    (∀ idx sub inst r bs, idx ≠ 0x1010 → findReg idx sub = some r → inst < 0xFE00 →
      exec (.registerWrite who idx sub inst bs) s =
        .next ((writeOne s who r inst bs).1.emit (.answer who (writeOne s who r inst bs).2))) ∧
    (∀ idx sub inst bs, idx ≠ 0x1010 → findReg idx sub = none → TurnedAway who (.registerWrite who idx sub inst bs) s rNoEntry) ∧
    (∀ r ∈ [R.MGT_SESS_IDLE_S, R.RST_TMO_MULT, R.PWR_OVER_MS, R.HOST_FN_CMDS], ∀ bs : List Byte, bs.length = tySize r.ty r.members →
      (Allowed s who r 0 (leVal bs) → Writes who (.registerWrite who r.index r.sub 0 bs) s fun t => t.rd r 0 = leVal bs &&& r.mask) ∧
      (checkWrite s who r 0 (leVal bs) ≠ rOk → TurnedAway who (.registerWrite who r.index r.sub 0 bs) s (checkWrite s who r 0 (leVal bs)))) ∧
    (∀ f j g, s.localQ f j = some g → Does (.rcRead who (.dbErr f j)) s fun t =>
      t.outbox = s.outbox ++ [.value who (s.queue g).dbErr] ∧ (t.queue g).dbErr = 0 ∧
        t.queue g = { s.queue g with dbErr := 0 } ∧ ∀ k, k ≠ g → t.queue k = s.queue k) ∧
    (checkRead s who R.PWR_MAX_W 0 = rOk → Does (.rcRead who (.entry 0x2101 3 0)) s fun t =>
      t.outbox = s.outbox ++ [.value who (s.rd R.PWR_MAX_W 0 % 2 ^ 16)] ∧ t.rd R.PWR_MAX_W 0 = 0) ∧
    ∀ lost : Bool,
      let new := if lost then 2 else 1
      (s.fccUp = false ∨ s.rd R.MGT_T1S_STATE 0 = new → Does (.plcaBeaconLoss lost) s fun t => t = s) ∧
      (s.fccUp = true → s.rd R.MGT_T1S_STATE 0 ≠ new → Does (.plcaBeaconLoss lost) s fun t =>
        t.rd R.MGT_T1S_STATE 0 = new ∧ Logged s t 0xE010 uFcc [(1, new), (1, plcaNode s)])

/-! ### Observability (14) -/

/-- The freeze, trace, the life record and margin tests (R384 to R390, R396 to R398). FRZ_AT arms one freeze for an
instant not past, in place of any other; at its instant the counters are captured and it is gone; the one for a box
is sent to its corner as a VC0 multicast packet, with 1 ms to spare. A marker of the FCC counts, and stands in the
ring of its partition where that records markers. A region drains two records of its lowest block with any. A second
of powered time is counted in its bands; a save, an hour of it after the last, is a copy with the next number. A
free region's margin test starts in its turn, when it is due; a pass lowers the supply, a failure at nominal is
tried again. Choices of the model that it rests on: log 11, 84, 86. -/
def Obligations.Observability : Prop :=
  ∀ (s : State) (who : Who),
    (∀ v, Allowed s who R.FRZ_AT 0 v →
      (freezeNs s v < s.now → Writes who (.frzAt who v) s fun t => t.obs.freeze = none ∧ t.rd R.FRZ_STATE 0 = 0 ∧
        Counted s t R.FRZ_MISSED 0 1 ∧ t.obs.capture = s.obs.capture) ∧
      (s.now ≤ freezeNs s v → Writes who (.frzAt who v) s fun t => t.rd R.FRZ_STATE 0 = 1 ∧
        t.obs.freeze = some (nearSec s.time.sec (v / 2 ^ 32), v % 2 ^ 32) ∧ t.obs.capture = s.obs.capture)) ∧
    (s.obs.freeze = none → Does .freezeFire s fun t => t = s) ∧
    (∀ sec ns, s.obs.freeze = some (sec, ns) →
      (s.now < ((sec * 1000000000 + ns : Nat) : Int) → Does .freezeFire s fun t => t = s) ∧
      (((sec * 1000000000 + ns : Nat) : Int) ≤ s.now → Does .freezeFire s fun t => t.obs.freeze = none ∧ t.obs.capture = some s.free ∧
        t.obs.cleared = [] ∧ t.free = s.free + 1 ∧ Counted s t R.FRZ_COUNT 0 1 ∧
          t.rd R.FRZ_LAST 0 = sec % 2 ^ 32 * 2 ^ 32 + ns % 2 ^ 32)) ∧
    (Allowed s who R.FRZ_POD_GO 0 1 →
      let v := s.rd R.FRZ_POD_AT 0
      (freezeNs s v < s.now + 1000000 → TurnedAway who (.frzPodGo who) s rState) ∧
      (s.now + 1000000 ≤ freezeNs s v → Writes who (.frzPodGo who) s fun t =>
        let corner := cornerOf (boxOf (s.rd R.FRZ_POD_BOX 0))
        let port := dimPort s s.injVer corner
        t.outbox = s.outbox ++ [.answer who 0] ∧
          (corner = s.me → openMode s = true → v < 2 ^ 64 → t.rd R.FRZ_STATE 0 = 1 ∧
            t.obs.freeze = some (nearSec s.time.sec (v / 2 ^ 32), v % 2 ^ 32)) ∧
          (corner ≠ s.me → t.obs = s.obs ∧ (port < 6 → detourOf s s.injVer corner port = none → 0 < s.rd R.FAB_HOP_LIMIT 0 →
            s.portUp port = true → ∃ q, mapGet [] (t.port port).txq 0 = mapGet [] (s.port port).txq 0 ++ [q] ∧
              q.pkt.vc = 0 ∧ q.pkt.kind = 5 ∧ q.pkt.dst = corner ∧ q.pkt.offset = 0x500204000400 ∧
                q.pkt.data.take 16 = leBytes 8 (s.rd R.FRZ_POD_BOX 0) ++ leBytes 8 v)))) ∧
    (∀ v, Allowed s who R.TRC_FCC_MARK 0 v →
      let p := bits v 56 7
      Writes who (.trcFccMark who v) s fun t => t.obs.marks = (s.obs.marks + 1) % 2 ^ 24 ∧
        (bitOf (s.rd R.TRC_MASK p) 6 = false → t.od = s.od ∧ t.mem = s.mem) ∧
        (bitOf (s.rd R.TRC_MASK p) 6 = true → s.rd R.TRC_RING_PAGES p ≠ 0 → s.rd R.TRC_HEAD p < 2 ^ 64 - 1 → ∀ a,
          s.viewAddr p (s.rd R.TRC_RING_PAGE p * pageBytes +
            s.rd R.TRC_HEAD p % (s.rd R.TRC_RING_PAGES p * 4096) * 16) = some a →
          t.rd R.TRC_HEAD p = s.rd R.TRC_HEAD p + 1 ∧ MemBut (Within [(a, 16)]) s t)) ∧
    (∀ region < 8,
      ((∀ b ∈ regionBlocks region, (s.block b).trace = []) → Does (.traceRingDrain region) s fun t => t = s) ∧
      (∀ b x y rest, (regionBlocks region).find? (fun k => (s.block k).trace != []) = some b → (s.block b).trace = x :: y :: rest →
        Does (.traceRingDrain region) s fun t => (t.block b).trace = rest ∧ ∀ k, k ≠ b → t.block k = s.block k)) ∧
    (s.fccUp = false → (∀ x y z, Does (.lifeSample x y z) s fun t => t = s) ∧ (Does .lifeSave s fun t => t = s) ∧
      Does .marginTestStart s fun t => t = s) ∧
    (s.fccUp = true →
      (∀ c v w, Does (.lifeSample c v w) s fun t => Counted s t R.LIFE_POWERED_S 0 1 ∧
        (s.rst.pwrEn = true → s.rst.pwrGood = true → Counted s t R.LIFE_MAIN_S 0 1 ∧ Counted s t R.LIFE_ENERGY_J 0 w ∧
          Counted s t (R.LIFE_TEMP_S (bandAt [40, 60, 80, 90, 100] c)) 0 1 ∧
          Counted s t (R.LIFE_VOLT_S (bandAt [650, 700, 750, 800, 850] v)) 0 1) ∧
        (s.rst.pwrEn = false → t.rd R.LIFE_MAIN_S 0 = s.rd R.LIFE_MAIN_S 0)) ∧
      (let last := (s.obs.lifeCopies.map fun e => e.2.seq).foldl max 0
      (s.rd R.LIFE_POWERED_S 0 < lifeSavedS s + 3600 → Does .lifeSave s fun t => t = s) ∧
      (lifeSavedS s + 3600 ≤ s.rd R.LIFE_POWERED_S 0 → Does .lifeSave s fun t => mapFind t.obs.lifeCopies ((last + 1) % 2) = some { seq := last + 1, entries := lifeEntries s } ∧
        mapFind t.obs.lifeCopies (last % 2) = mapFind s.obs.lifeCopies (last % 2) ∧ t.od = s.od)) ∧
      let due := s.obs.marginAtS + 3600 * s.rd R.LIFE_MARGIN_H 0
      (s.rd R.LIFE_MARGIN_H 0 = 0 ∨ s.rd R.LIFE_POWERED_S 0 < due → Does .marginTestStart s fun t => t = s) ∧
      (s.rd R.LIFE_MARGIN_H 0 ≠ 0 → due ≤ s.rd R.LIFE_POWERED_S 0 → s.obs.margin = none → s.rst.pwrEn = true → s.rst.pwrGood = true → Does .marginTestStart s fun t =>
        t.obs.marginNext = (s.obs.marginNext + 1) % 8 ∧ t.obs.marginAtS = s.rd R.LIFE_POWERED_S 0 ∧ t.obs.margin =
          if regionFree s s.obs.marginNext then some { region := s.obs.marginNext, nominal := s.rd R.PWR_VDD_MV 0 } else none)) ∧
    (∀ passed, s.obs.margin = none → Does (.marginStepDone passed) s fun t => t = s) ∧
    ∀ m, s.obs.margin = some m →
      (m.step ≠ 30 → Does (.marginStepDone true) s fun t => t.obs.margin = some { m with step := m.step + 1 } ∧ t.od = s.od) ∧
      (m.step = 30 ∨ (m.step ≠ 0 ∧ m.step < 30) → Does (.marginStepDone (decide (m.step = 30))) s fun t => t.obs.margin = none) ∧
      (m.step = 0 → m.again = false → Does (.marginStepDone false) s fun t => t.obs.margin = some { m with again := true }) ∧
      (m.step = 0 → m.again = true → Does (.marginStepDone false) s fun t => t.obs.margin = none)

/-- Refusals (R353, R358, R362). A write that the checks of an entry refuse, by whichever command it comes, changes
nothing but the answer, which gives the first reason. The Observer writes nothing; the Owner role writes its own
entries only; the Operator does not reset the FCC domain. Choices of the model that it rests on: log 14, 15, 77. -/
def Obligations.RefusedWrites : Prop :=
  (∀ (s : State) (who : Who) (i v : Nat),
    ∀ x ∈ [(Instr.cmpPartOwner who i v, R.CMP_PART_OWNER, i, v), (.cmpPartTag who i v, R.CMP_PART_TAG, i, v),
        (.cmpBlockPart who i v, R.CMP_BLOCK_PART, i, v), (.memSlicePart who i v, R.MEM_SLICE_PART, i, v),
        (.memSliceUse who i v, R.MEM_SLICE_USE, i, v), (.memSliceHost who i v, R.MEM_SLICE_HOST, i, v),
        (.fabPortAdmin who i v, R.FAB_PORT_ADMIN, i, v), (.fabDmap who i v, R.FAB_DMAP, i, v),
        (.fabRtState who i v, R.FAB_RT_STATE, i, v), (.fabEpochInj who v, R.FAB_EPOCH_INJ, 0, v),
        (.fabShpRate who i v, R.FAB_SHP_RATE, i, v), (.fabVc1Res who i v, R.FAB_VC1_RES, i, v),
        (.hostFnQbase who i v, R.HOST_FN_QBASE, i, v), (.hostFnQcount who i v, R.HOST_FN_QCOUNT, i, v),
        (.timeIncr who v, R.TIME_INCR, 0, v), (.timeMasterPort who v, R.TIME_MASTER_PORT, 0, v),
        (.sealBuddy who i v, R.SEAL_BUDDY, i, v), (.clvStwCmd who v, R.CLV_STW_CMD, 0, v), (.warmReset who, R.RST_CMD, 0, 1),
        (.leaveRecoveryBoot who, R.RST_CMD, 0, 2), (.rstDomCmd who i v, R.RST_DOM_CMD, i, v), (.imgErase who, R.RST_IMG_CMD, 0, 1),
        (.imgCheck who, R.RST_IMG_CMD, 0, 2), (.pwrCapW who v, R.PWR_CAP_W, 0, v), (.ldgClear who v, R.LDG_CLEAR, 0, v),
        (.ldgOvr who i v, R.LDG_OVR, i, v), (.tallyStart who i, R.TLY_CMD i, 0, 1), (.tallyStop who i, R.TLY_CMD i, 0, 2),
        (.tallyClearLanes who i, R.TLY_CMD i, 0, 3), (.mgtKeyFabSel who v, R.MGT_KEY_FAB_SEL, 0, v), (.frzAt who v, R.FRZ_AT, 0, v),
        (.frzPodGo who, R.FRZ_POD_GO, 0, 1), (.trcFccMark who v, R.TRC_FCC_MARK, 0, v)],
      ¬ Allowed s who x.2.1 x.2.2.1 x.2.2.2 → TurnedAway who x.1 s (checkWrite s who x.2.1 x.2.2.1 x.2.2.2)) ∧
  ∀ (s : State) (who : Who) (r : Reg) (i v : Nat), Allowed s who r i v →
    who.role ≠ .observer ∧ (who.role = .owner → ownerWrites who.func r i = true) ∧
      (who.role = .operator → ¬ (r.index = 0x2020 ∧ i = uFcc)) ∧ r.acc ≠ .ro ∧ v < 2 ^ regBits r ∧ s.fccUp = true

/-! ### Rules stated whole -/

/-- Offset steps (R201). A write adds its nanoseconds to the pending sum, and one that would overflow it is refused with
ACCESS_DENIED. At a tick with no partition Running the sum is applied to the counter as the rule's two lines say,
FRAC is that of the tick, the sum returns to 0 and event 0x8004 is written. While a partition is Running the step
waits, which event 0x8005 says as it is written; a partition that is Stopped for seal is not Running. -/
def Obligations.OffsetSteps : Prop :=
  ∀ (s : State) (who : Who),
    (s.running = true ↔ ∃ p < 128, s.pstate p = psRunning) ∧
    (∀ d : Int, -(2 ^ 63) ≤ d → d < 2 ^ 63 → Allowed s who R.TIME_STEP_NS 0 (ofSigned 64 d) →
      (-(2 ^ 63) ≤ s.stepPend + d → s.stepPend + d < 2 ^ 63 → Writes who (.timeStepNs who d) s fun t =>
        t.stepPend = s.stepPend + d ∧ t.time = s.time ∧
          (s.running = true → Logged s t 0x8005 uTime [(8, ofSigned 64 (s.stepPend + d))]) ∧
          (s.running = false → t.ledger = s.ledger)) ∧
      (s.stepPend + d < -(2 ^ 63) ∨ 2 ^ 63 ≤ s.stepPend + d →
        TurnedAway who (.timeStepNs who d) s rRange ∧ statusOf rRange = 7)) ∧
    let u := tickCounter (grandmaster s)
    (s.stepPend ≠ 0 → s.running = false → Does .timeCounterTick s fun t =>
      let x : Int := (u.time.sec * 1000000000 : Nat) + (u.time.ns : Nat) + s.stepPend
      t.time.sec = (x / 1000000000 % (2 ^ 48 : Nat)).toNat ∧ t.time.ns = (x % 1000000000).toNat ∧ t.time.frac = u.time.frac ∧
        t.stepPend = 0 ∧ Logged (u.setTime t.time) t 0x8004 uTime [(8, ofSigned 64 s.stepPend)]) ∧
    (s.stepPend ≠ 0 → s.running = true → Does .timeCounterTick s fun t => t = u ∧ t.stepPend = s.stepPend)

/-- A full stage (R251). A delta page that finds the stage of its partition's area full takes the stage and the copy
with it, of that area alone, and is answered with a refusal. At the sender a refusal makes the state Filling, with
event 0xA011 where it was another. -/
def Obligations.StageOverflow : Prop :=
  (∀ (s : State) (d : DeltaPage), d.filling = false → hostSlices s d.srcChip d.srcPart ≠ 0 →
    (∀ x, localOf s d.srcChip = some x → (s.part x).runGen = d.gen) →
    let a := (s.area d.srcChip d.srcPart).getD { srcChip := d.srcChip, srcPart := d.srcPart }
    stageSize s a ≤ a.stage.length → Does (.deltaPageReceive d) s fun t =>
      (∃ b, t.area d.srcChip d.srcPart = some b ∧ b.copy = [] ∧ b.stage = []) ∧
        (∀ c q, ¬ (c = d.srcChip ∧ q = d.srcPart) → t.area c q = s.area c q) ∧ t.mem = s.mem ∧
        t.outbox = s.outbox ++ [.buddyAck d.srcChip d.srcPart d.step d.page false true]) ∧
  ∀ (s : State) (p step page : Nat) (filling : Bool), s.rd R.SEAL_BUDDY_STATE p ≠ bNone →
    Does (.deltaPageAck p step page filling true) s fun t => t.rd R.SEAL_BUDDY_STATE p = bFilling ∧
      (s.rd R.SEAL_BUDDY_STATE p ≠ bFilling →
        Logged s t 0xA011 uFcc [(1, s.rd R.SEAL_BUDDY_STATE p), (1, bFilling), (1, 4)])

/-- SSEQ (R291). For a message with SROLE 1 or 2 a receiver keeps, for each TRAY, the highest SSEQ accepted and those
accepted up to 63 below it. One that is 1 to 32,767 above is accepted, marked and becomes the highest; one 1 to 63
below that has not been seen is accepted and marked; any other is dropped and counted in CLV_STW_DUP. So each output
is accepted at most once. A dropped FAULT_NOTICE has no other effect. -/
def Obligations.StewardSequence : Prop :=
  ∀ (s : State) (h : ClvHdr), h.srole = 1 ∨ h.srole = 2 →
    let m := mapGet {} s.clover.sseqs h.tray
    let d := (h.sseq + (65536 - m.high % 65536)) % 65536
    let r := sseqRx s h
    let kept (x : Nat) : Prop := x ∈ m.seen ∧ (h.sseq + (65536 - x)) % 65536 ≤ 63
    let now := mapGet {} r.1.clover.sseqs h.tray
    (1 ≤ d → d ≤ 32767 → r.2 = true ∧ now.high = h.sseq ∧ ∀ x, x ∈ now.seen ↔ kept x ∨ x = h.sseq) ∧
    (65473 ≤ d → h.sseq ∉ m.seen → r.2 = true ∧ now.high = m.high ∧ ∀ x, x ∈ now.seen ↔ x ∈ m.seen ∨ x = h.sseq) ∧
    (d = 0 ∨ (32767 < d ∧ d < 65473) ∨ (65473 ≤ d ∧ h.sseq ∈ m.seen) → r = (s.bumpSat R.CLV_STW_DUP 0 1, false)) ∧
    (∀ tray, tray ≠ h.tray → mapGet {} r.1.clover.sseqs tray = mapGet {} s.clover.sseqs tray) ∧
    (r.2 = true → (sseqRx r.1 h).2 = false) ∧
    ∀ port n, s.isFailed h.sender = false → s.isFailed n.subject = false → r.2 = false → exec (.faultNotice port h n) s = .next r.1
end

