-- ==== Sys2Proof/Laws/Map.lean ====
section
/-! SUPPORT. Laws of sparse tables: reading after writing, and the canonical form of every operation. -/

namespace Sys2Proof.Machine

open Sys2Proof

variable {α : Type}

/-! ### Reading -/

/-- The default is what is found, or the default. -/
theorem mapGet_eq_find (d : α) (m : Map α) (k : Nat) : mapGet d m k = (mapFind m k).getD d := by
  induction m with
  | nil => rfl
  | cons e r ih => simp only [mapGet, mapFind]; split <;> simp_all

theorem mapFind_mapDel_same (m : Map α) (k : Nat) : mapFind (mapDel m k) k = none := by
  induction m with
  | nil => rfl
  | cons e r ih =>
    simp only [mapDel, List.filter_cons] at ih ⊢
    split
    · rename_i h
      simp only [bne_iff_ne, ne_eq] at h
      simp [mapFind, h, ih]
    · exact ih

theorem mapFind_mapDel_other (m : Map α) {k j : Nat} (h : j ≠ k) : mapFind (mapDel m k) j = mapFind m j := by
  induction m with
  | nil => rfl
  | cons e r ih =>
    simp only [mapDel, List.filter_cons] at ih ⊢
    split
    · simp [mapFind, ih]
    · rename_i h'
      simp only [bne_iff_ne, ne_eq, Decidable.not_not] at h'
      simp [mapFind, h', Ne.symm h, ih]

theorem mapFind_mapIns_same (m : Map α) (k : Nat) (v : α) (h : mapFind m k = none) :
    mapFind (mapIns m k v) k = some v := by
  induction m with
  | nil => simp [mapIns, mapFind]
  | cons e r ih =>
    simp only [mapIns]
    split
    · rename_i hlt
      simp only [mapFind] at h ⊢
      split at h
      · cases h
      · rename_i hne
        simp [hne, ih h]
    · simp [mapFind]

theorem mapFind_mapIns_other (m : Map α) {k j : Nat} (v : α) (h : j ≠ k) :
    mapFind (mapIns m k v) j = mapFind m j := by
  induction m with
  | nil => simp [mapIns, mapFind, Ne.symm h]
  | cons e r ih =>
    simp only [mapIns]
    split
    · simp [mapFind, ih]
    · simp [mapFind, Ne.symm h]

/-- A value put at a key is read there. -/
theorem mapFind_mapPut_same (m : Map α) (k : Nat) (v : α) : mapFind (mapPut m k v) k = some v :=
  mapFind_mapIns_same _ _ _ (mapFind_mapDel_same m k)

/-- A value put at a key leaves every other key. -/
theorem mapFind_mapPut_other (m : Map α) {k j : Nat} (v : α) (h : j ≠ k) : mapFind (mapPut m k v) j = mapFind m j := by
  simp [mapPut, mapFind_mapIns_other _ _ h, mapFind_mapDel_other _ h]

theorem mapGet_mapPut_same (d : α) (m : Map α) (k : Nat) (v : α) : mapGet d (mapPut m k v) k = v := by
  simp [mapGet_eq_find, mapFind_mapPut_same]

theorem mapGet_mapPut_other (d : α) (m : Map α) {k j : Nat} (v : α) (h : j ≠ k) :
    mapGet d (mapPut m k v) j = mapGet d m j := by
  simp [mapGet_eq_find, mapFind_mapPut_other _ _ h]

/-- A value set at a key is read there, the default as well. -/
theorem mapGet_mapSet_same [DecidableEq α] (d : α) (m : Map α) (k : Nat) (v : α) : mapGet d (mapSet d m k v) k = v := by
  unfold mapSet
  split
  · rename_i h
    simp [mapGet_eq_find, mapFind_mapDel_same, h]
  · exact mapGet_mapPut_same d m k v

/-- A value set at a key leaves every other key. -/
theorem mapGet_mapSet_other [DecidableEq α] (d d' : α) (m : Map α) {k j : Nat} (v : α) (h : j ≠ k) :
    mapGet d (mapSet d' m k v) j = mapGet d m j := by
  unfold mapSet
  split
  · simp [mapGet_eq_find, mapFind_mapDel_other _ h]
  · exact mapGet_mapPut_other d m v h

theorem mapFind_filter (m : Map α) (p : Nat × α → Bool) (k : Nat) (h : ∀ v, p (k, v) = true) :
    mapFind (m.filter p) k = mapFind m k := by
  induction m with
  | nil => rfl
  | cons e r ih =>
    obtain ⟨a, v⟩ := e
    simp only [List.filter_cons]
    split
    · simp [mapFind, ih]
    · rename_i hp
      have : a ≠ k := by rintro rfl; exact hp (h v)
      simp [mapFind, this, ih]

/-! ### The canonical form -/

/-- Keys strictly rise. -/
abbrev Rising (m : Map α) : Prop := m.Pairwise fun a b => a.1 < b.1

theorem mapRising_iff (lo : Nat) (m : Map α) : mapRising lo m = true ↔ (∀ e ∈ m, lo ≤ e.1) ∧ Rising m := by
  induction m generalizing lo with
  | nil => simp [mapRising, Rising]
  | cons e r ih =>
    simp only [mapRising, Bool.and_eq_true, decide_eq_true_eq, ih, Rising, List.pairwise_cons, List.mem_cons]
    constructor
    · rintro ⟨h1, h2, h3⟩
      refine ⟨?_, fun a ha => Nat.lt_of_succ_le (h2 a ha), h3⟩
      rintro a (rfl | ha)
      · exact h1
      · exact Nat.le_trans h1 (Nat.le_of_lt (Nat.lt_of_succ_le (h2 a ha)))
    · rintro ⟨h1, h2, h3⟩
      exact ⟨h1 e (.inl rfl), fun a ha => h2 a ha, h3⟩

theorem mapWf_iff [DecidableEq α] (d : α) (m : Map α) : mapWf d m = true ↔ Rising m ∧ ∀ e ∈ m, e.2 ≠ d := by
  simp [mapWf, mapRising_iff]

theorem rising_filter {m : Map α} (p : Nat × α → Bool) (h : Rising m) : Rising (m.filter p) := h.filter p

theorem rising_mapDel {m : Map α} (k : Nat) (h : Rising m) : Rising (mapDel m k) := h.filter _

theorem mem_mapIns {m : Map α} {k : Nat} {v : α} {e : Nat × α} : e ∈ mapIns m k v ↔ e = (k, v) ∨ e ∈ m := by
  induction m with
  | nil => simp [mapIns]
  | cons x r ih =>
    simp only [mapIns]
    split
    · simp only [List.mem_cons, ih]; tauto
    · simp

theorem rising_mapIns {m : Map α} (k : Nat) (v : α) (h : Rising m) (hk : ∀ e ∈ m, e.1 ≠ k) : Rising (mapIns m k v) := by
  induction m with
  | nil => simp [mapIns, Rising]
  | cons x r ih =>
    have hr := List.pairwise_cons.1 h
    simp only [mapIns]
    split
    · rename_i hlt
      refine List.pairwise_cons.2 ⟨?_, ih hr.2 fun e he => hk e (.tail _ he)⟩
      intro e he
      rcases mem_mapIns.1 he with rfl | he
      · exact hlt
      · exact hr.1 e he
    · rename_i hlt
      have hx : k < x.1 := by
        have := hk x (.head _)
        omega
      refine List.pairwise_cons.2 ⟨?_, h⟩
      intro e he
      rcases List.mem_cons.1 he with rfl | he
      · exact hx
      · exact Nat.lt_trans hx (hr.1 e he)

theorem rising_mapPut {m : Map α} (k : Nat) (v : α) (h : Rising m) : Rising (mapPut m k v) := by
  refine rising_mapIns k v (rising_mapDel k h) ?_
  intro e he
  simpa using (List.mem_filter.1 he).2

theorem rising_mapSet [DecidableEq α] {m : Map α} (d : α) (k : Nat) (v : α) (h : Rising m) : Rising (mapSet d m k v) := by
  unfold mapSet
  split
  · exact rising_mapDel k h
  · exact rising_mapPut k v h

theorem rising_mapVals {β : Type} {m : Map α} (f : Nat × α → Nat × β) (hf : ∀ e, (f e).1 = e.1) (h : Rising m) :
    Rising (m.map f) := by
  refine List.pairwise_map.2 (h.imp ?_)
  intro a b hab
  simpa [hf] using hab

/-- Setting a value keeps the canonical form. -/
theorem mapWf_mapSet [DecidableEq α] {d : α} {m : Map α} (k : Nat) (v : α) (h : mapWf d m = true) :
    mapWf d (mapSet d m k v) = true := by
  rw [mapWf_iff] at h ⊢
  refine ⟨rising_mapSet d k v h.1, ?_⟩
  unfold mapSet
  split
  · exact fun e he => h.2 e (List.mem_filter.1 he).1
  · rename_i hv
    intro e he
    rcases mem_mapIns.1 he with rfl | he
    · exact hv
    · exact h.2 e (List.mem_filter.1 he).1

/-- Dropping entries keeps the canonical form. -/
theorem mapWf_filter [DecidableEq α] {d : α} {m : Map α} (p : Nat × α → Bool) (h : mapWf d m = true) :
    mapWf d (m.filter p) = true := by
  rw [mapWf_iff] at h ⊢
  exact ⟨rising_filter p h.1, fun e he => h.2 e (List.mem_filter.1 he).1⟩

theorem mapNew_spec [DecidableEq α] (d : α) (k : Nat) (vs : List α) :
    Rising (mapNew d k vs) ∧ ∀ e ∈ mapNew d k vs, k ≤ e.1 ∧ e.1 < k + vs.length ∧ e.2 ≠ d := by
  induction vs generalizing k with
  | nil => simp [mapNew, Rising]
  | cons v r ih =>
    have hi := ih (k + 1)
    simp only [mapNew]
    split
    · refine ⟨hi.1, fun e he => ?_⟩
      have := hi.2 e he
      simp only [List.length_cons]
      refine ⟨?_, ?_, this.2.2⟩ <;> omega
    · rename_i hv
      refine ⟨List.pairwise_cons.2 ⟨fun e he => (hi.2 e he).1, hi.1⟩, ?_⟩
      intro e he
      simp only [List.length_cons]
      rcases List.mem_cons.1 he with rfl | he
      · exact ⟨Nat.le_refl _, by omega, hv⟩
      · have := hi.2 e he
        refine ⟨?_, ?_, this.2.2⟩ <;> omega

/-- Replacing consecutive keys keeps the canonical form. -/
theorem mapWf_mapSplice [DecidableEq α] {d : α} {m : Map α} (k : Nat) (vs : List α) (h : mapWf d m = true) :
    mapWf d (mapSplice d m k vs) = true := by
  rw [mapWf_iff] at h ⊢
  have hn := mapNew_spec d k vs
  constructor
  · unfold mapSplice
    refine List.pairwise_append.2 ⟨List.pairwise_append.2 ⟨h.1.filter _, hn.1, ?_⟩, h.1.filter _, ?_⟩
    · intro a ha b hb
      have h1 := (List.mem_filter.1 ha).2
      have h2 := hn.2 b hb
      simp only [decide_eq_true_eq] at h1
      omega
    · intro a ha b hb
      have h2 := (List.mem_filter.1 hb).2
      simp only [decide_eq_true_eq] at h2
      rcases List.mem_append.1 ha with ha | ha
      · have h1 := (List.mem_filter.1 ha).2
        simp only [decide_eq_true_eq] at h1
        omega
      · have h1 := hn.2 a ha
        omega
  · intro e he
    simp only [mapSplice, List.mem_append] at he
    rcases he with (he | he) | he
    · exact h.2 e (List.mem_filter.1 he).1
    · exact (hn.2 e he).2.2
    · exact h.2 e (List.mem_filter.1 he).1

/-! ### Reading what was replaced -/

theorem mapFind_append (m n : Map α) (k : Nat) : mapFind (m ++ n) k = (mapFind m k).or (mapFind n k) := by
  induction m with
  | nil => rfl
  | cons e r ih => simp only [List.cons_append, mapFind]; split <;> simp_all

theorem mapFind_none {m : Map α} {k : Nat} (h : ∀ e ∈ m, e.1 ≠ k) : mapFind m k = none := by
  induction m with
  | nil => rfl
  | cons e r ih =>
    simp only [mapFind]
    rw [if_neg (h e (.head _))]
    exact ih fun x hx => h x (.tail _ hx)

theorem mapGet_mapNew [DecidableEq α] (d : α) (k : Nat) (vs : List α) (j : Nat) (h : k ≤ j) :
    mapGet d (mapNew d k vs) j = (vs[j - k]?).getD d := by
  induction vs generalizing k with
  | nil => rfl
  | cons v r ih =>
    simp only [mapNew]
    by_cases hj : j = k
    · subst hj
      split
      · rename_i hv
        rw [mapGet_eq_find, mapFind_none]
        · simp [hv]
        · intro e he
          have := (mapNew_spec d (j + 1) r).2 e he
          omega
      · simp [mapGet]
    · have h1 : k + 1 ≤ j := by omega
      have h2 : j - k = (j - (k + 1)) + 1 := by omega
      split
      · rw [ih _ h1, h2]; simp
      · simp only [mapGet]
        rw [if_neg (Ne.symm hj), ih _ h1, h2]
        simp

/-- What was replaced reads as the new values. -/
theorem mapGet_mapSplice_in [DecidableEq α] (d : α) (m : Map α) (k : Nat) (vs : List α) (j : Nat) (h1 : k ≤ j)
    (h2 : j < k + vs.length) : mapGet d (mapSplice d m k vs) j = (vs[j - k]?).getD d := by
  rw [mapGet_eq_find, mapSplice, mapFind_append, mapFind_append]
  have ha : mapFind (m.filter fun e => decide (e.1 < k)) j = none := by
    refine mapFind_none fun e he => ?_
    have := (List.mem_filter.1 he).2
    simp only [decide_eq_true_eq] at this
    omega
  have hb : mapFind (m.filter fun e => decide (k + vs.length ≤ e.1)) j = none := by
    refine mapFind_none fun e he => ?_
    have := (List.mem_filter.1 he).2
    simp only [decide_eq_true_eq] at this
    omega
  rw [ha, hb, Option.none_or, Option.or_none, ← mapGet_eq_find, mapGet_mapNew d k vs j h1]

/-- What lies outside the replaced keys reads as before. -/
theorem mapGet_mapSplice_out [DecidableEq α] (d : α) (m : Map α) (k : Nat) (vs : List α) (j : Nat)
    (h : j < k ∨ k + vs.length ≤ j) : mapGet d (mapSplice d m k vs) j = mapGet d m j := by
  rw [mapGet_eq_find, mapGet_eq_find, mapSplice, mapFind_append, mapFind_append]
  have hn : mapFind (mapNew d k vs) j = none := by
    refine mapFind_none fun e he => ?_
    have := (mapNew_spec d k vs).2 e he
    omega
  rw [hn, Option.or_none]
  rcases h with h | h
  · rw [mapFind_filter m _ j (fun _ => by simpa using h)]
    have hb : mapFind (m.filter fun e => decide (k + vs.length ≤ e.1)) j = none := by
      refine mapFind_none fun e he => ?_
      have := (List.mem_filter.1 he).2
      simp only [decide_eq_true_eq] at this
      omega
    rw [hb, Option.or_none]
  · have ha : mapFind (m.filter fun e => decide (e.1 < k)) j = none := by
      refine mapFind_none fun e he => ?_
      have := (List.mem_filter.1 he).2
      simp only [decide_eq_true_eq] at this
      omega
    rw [ha, Option.none_or, mapFind_filter m _ j (fun _ => by simpa using h)]

/-! ### Consecutive values -/

theorem length_mapRun (d : α) (m : Map α) (k n : Nat) : (mapRun d m k n).length = n := by
  induction n generalizing m k with
  | zero => rfl
  | succ n ih =>
    unfold mapRun
    split
    · simp [ih]
    · split <;> simp [ih]

@[simp] theorem length_mapSlice (d : α) (m : Map α) (k n : Nat) : (mapSlice d m k n).length = n := length_mapRun ..

theorem mapRun_get (d : α) (m : Map α) (k n j : Nat) (hm : Rising m) (hk : ∀ e ∈ m, k ≤ e.1) (hj : j < n) :
    (mapRun d m k n)[j]? = some (mapGet d m (k + j)) := by
  induction n generalizing m k j with
  | zero => omega
  | succ n ih =>
    cases m with
    | nil =>
      cases j with
      | zero => simp [mapRun, mapGet]
      | succ j => simpa [mapRun, mapGet] using ih [] (k + 1) j (by simp [Rising]) (by simp) (by omega)
    | cons e r =>
      have hr : Rising r := (List.pairwise_cons.1 hm).2
      have her := (List.pairwise_cons.1 hm).1
      have hke := hk e (.head _)
      by_cases he : e.1 = k
      · have e1 : mapRun d (e :: r) k (n + 1) = e.2 :: mapRun d r (k + 1) n := by simp [mapRun, he]
        rw [e1]
        cases j with
        | zero => simp [mapGet, he]
        | succ j =>
          have := ih r (k + 1) j hr (fun x hx => by have := her x hx; omega) (by omega)
          rw [List.getElem?_cons_succ, this]
          simp only [mapGet, he, show k + (j + 1) = k + 1 + j by omega]
          rw [if_neg (by omega)]
      · have e1 : mapRun d (e :: r) k (n + 1) = d :: mapRun d (e :: r) (k + 1) n := by simp [mapRun, he]
        rw [e1]
        cases j with
        | zero =>
          rw [List.getElem?_cons_zero, mapGet_eq_find,
            mapFind_none fun x hx => by
              rcases List.mem_cons.1 hx with rfl | hx
              · omega
              · have := her x hx; omega]
          rfl
        | succ j =>
          have := ih (e :: r) (k + 1) j hm
            (fun x hx => by
              rcases List.mem_cons.1 hx with rfl | hx
              · omega
              · have := her x hx; omega) (by omega)
          rw [List.getElem?_cons_succ, this, show k + (j + 1) = k + 1 + j by omega]

/-- Consecutive values of a table whose keys rise are its values one by one. -/
theorem mapSlice_get (d : α) {m : Map α} (k n j : Nat) (hm : Rising m) (hj : j < n) :
    (mapSlice d m k n)[j]? = some (mapGet d m (k + j)) := by
  rw [mapSlice, mapRun_get d _ k n j (rising_filter _ hm)
    (fun e he => by simpa using (List.mem_filter.1 he).2) hj]
  have : ∀ l : Map α, mapGet d (l.filter fun e => decide (k ≤ e.1)) (k + j) = mapGet d l (k + j) := by
    intro l
    rw [mapGet_eq_find, mapGet_eq_find, mapFind_filter _ _ _ (fun v => by simp)]
  rw [this]

end Sys2Proof.Machine
end

