-- ==== Sys2Proof/Laws/Keeps.lean ====
section
/-! SUPPORT. What a change of state keeps: the places outside a list, the invariant, what was sent. Each operation of the
model has one such law (`<name>_keeps`); laws of larger operations follow from those of the operations they call. -/

namespace Sys2Proof.Machine

open Sys2Proof

/-- A change from `s` to `t` touches no place outside `T`, keeps the invariant and goes onward. -/
structure Keeps (T : List Nat) (s t : State) : Prop where
  same : SameBut T s t
  wf   : Wf s → Wf t
  onward : Onward s t

/-- The same of a state that stands beside something else. -/
def KeepsP {α : Type} (T : List Nat) (s : State) (x : State × α) : Prop := Keeps T s x.1

/-- The same of an outcome. -/
def OutKeeps (T : List Nat) (s : State) (o : Host.Outcome State Fault Refusal) : Prop :=
  ∀ t, o = .next t → Keeps T s t

/-- Whether every place of one list is in another, or a dictionary index where the other has them all. -/
def subT (a b : List Nat) : Bool := a.all fun x => b.contains x || (decide (22 ≤ x) && b.contains 31)

/-- A list of places lies within another. -/
def Sub (a b : List Nat) : Prop := ∀ x ∈ a, x ∈ b ∨ (22 ≤ x ∧ 31 ∈ b)

theorem subT_sub {a b : List Nat} (h : subT a b = true) : Sub a b := by
  intro x hx
  have := (List.all_eq_true.1 h) x hx
  simpa using this

theorem Sub.trans {a b c : List Nat} (h : Sub a b) (h' : Sub b c) : Sub a c := by
  intro x hx
  rcases h x hx with hb | ⟨h22, hb⟩
  · exact h' x hb
  · rcases h' 31 hb with hc | ⟨_, hc⟩
    · exact .inr ⟨h22, hc⟩
    · exact .inr ⟨h22, hc⟩

theorem Sub.of {a b c : List Nat} (h : subT a b = true) (h' : Sub b c) : Sub a c := (subT_sub h).trans h'

theorem Sub.rfl {a : List Nat} : Sub a a := fun _ h => .inl h

theorem SameAt.refl (p : Nat) (s : State) : SameAt p s s := by
  unfold SameAt; split <;> simp

theorem SameAt.trans {p : Nat} {s t u : State} (h : SameAt p s t) (h' : SameAt p t u) : SameAt p s u := by
  unfold SameAt at *
  split at h <;> simp_all

theorem Keeps.refl (T : List Nat) (s : State) : Keeps T s s :=
  ⟨fun p _ _ => SameAt.refl p s, id, List.prefix_refl _, Nat.le_refl _⟩

theorem Keeps.trans {T : List Nat} {s t u : State} (h : Keeps T s t) (h' : Keeps T t u) : Keeps T s u :=
  ⟨fun p hp hd => (h.same p hp hd).trans (h'.same p hp hd), fun w => h'.wf (h.wf w),
    h.onward.1.trans h'.onward.1, Nat.le_trans h.onward.2 h'.onward.2⟩

theorem OutKeeps.next {T : List Nat} {s t : State} (h : Keeps T s t) : OutKeeps T s (.next t) := by
  rintro _ ⟨⟩; exact h

theorem Keeps.ite {T : List Nat} {s a b : State} {c : Prop} [Decidable c] (ha : Keeps T s a) (hb : Keeps T s b) :
    Keeps T s (if c then a else b) := by
  split <;> assumption

theorem KeepsP.mk {α : Type} {T : List Nat} {s t : State} {a : α} (h : Keeps T s t) : KeepsP T s (t, a) := h

theorem KeepsP.fst {α : Type} {T : List Nat} {s : State} {x : State × α} (h : KeepsP T s x) : Keeps T s x.1 := h

theorem KeepsP.ite {α : Type} {T : List Nat} {s : State} {a b : State × α} {c : Prop} [Decidable c]
    (ha : KeepsP T s a) (hb : KeepsP T s b) : KeepsP T s (if c then a else b) := by
  split <;> assumption

/-! ### One place at a time -/

/-- A change that touches one place keeps the rest. -/
theorem Keeps.one {T : List Nat} {s u t : State} (n : Nat) (hT : Sub [n] T) (h : Keeps T s u)
    (hs : ∀ p, p ≠ n → (22 ≤ n → n = plDict → p < 22) → SameAt p u t) (hw : Wf u → Wf t) (ho : Onward u t) :
    Keeps T s t := by
  refine h.trans ⟨fun p hp hd => ?_, hw, ho⟩
  rcases hT n (.head _) with hn | ⟨_, hn⟩
  · exact hs p (by rintro rfl; exact hp hn) fun _ e => hd (e ▸ hn)
  · have hp22 := hd hn
    exact hs p (by omega) fun _ _ => hp22

theorem setOdBytes_keeps {T : List Nat} {s u : State} {x : Map (List Byte)} (hx : Wf u → mapRising 0 x = true) (hT : Sub [1] T) (h : Keeps T s u) :
    Keeps T s (u.setOdBytes x) :=
  Keeps.one 1 hT h (fun p hp _ => by unfold SameAt; split <;> first | rfl | (exact absurd rfl hp) | (intros; rfl))
    (fun w => { w with odBytes := hx w }) ⟨List.prefix_refl _, Nat.le_refl _⟩

theorem setMem_keeps {T : List Nat} {s u : State} {x : List Host.Cell} (hx : Wf u → Memory.wf x) (hT : Sub [2] T) (h : Keeps T s u) :
    Keeps T s (u.setMem x) :=
  Keeps.one 2 hT h (fun p hp _ => by unfold SameAt; split <;> first | rfl | (exact absurd rfl hp) | (intros; rfl))
    (fun w => { w with mem := hx w }) ⟨List.prefix_refl _, Nat.le_refl _⟩

theorem setPoison_keeps {T : List Nat} {s u : State} {x : List Nat} (hT : Sub [3] T) (h : Keeps T s u) :
    Keeps T s (u.setPoison x) :=
  Keeps.one 3 hT h (fun p hp _ => by unfold SameAt; split <;> first | rfl | (exact absurd rfl hp) | (intros; rfl))
    (fun w => { w with }) ⟨List.prefix_refl _, Nat.le_refl _⟩

theorem setTime_keeps {T : List Nat} {s u : State} {x : TimeUnit} (hT : Sub [4] T) (h : Keeps T s u) :
    Keeps T s (u.setTime x) :=
  Keeps.one 4 hT h (fun p hp _ => by unfold SameAt; split <;> first | rfl | (exact absurd rfl hp) | (intros; rfl))
    (fun w => { w with }) ⟨List.prefix_refl _, Nat.le_refl _⟩

theorem setBlocks_keeps {T : List Nat} {s u : State} {x : Map Block} (hx : Wf u → mapRising 0 x = true) (hT : Sub [5] T) (h : Keeps T s u) :
    Keeps T s (u.setBlocks x) :=
  Keeps.one 5 hT h (fun p hp _ => by unfold SameAt; split <;> first | rfl | (exact absurd rfl hp) | (intros; rfl))
    (fun w => { w with blocks := hx w }) ⟨List.prefix_refl _, Nat.le_refl _⟩

theorem setParts_keeps {T : List Nat} {s u : State} {x : Map Part} (hx : Wf u → mapRising 0 x = true) (hT : Sub [6] T) (h : Keeps T s u) :
    Keeps T s (u.setParts x) :=
  Keeps.one 6 hT h (fun p hp _ => by unfold SameAt; split <;> first | rfl | (exact absurd rfl hp) | (intros; rfl))
    (fun w => { w with parts := hx w }) ⟨List.prefix_refl _, Nat.le_refl _⟩

theorem setBuddies_keeps {T : List Nat} {s u : State} {x : List BuddyArea} (hT : Sub [7] T) (h : Keeps T s u) :
    Keeps T s (u.setBuddies x) :=
  Keeps.one 7 hT h (fun p hp _ => by unfold SameAt; split <;> first | rfl | (exact absurd rfl hp) | (intros; rfl))
    (fun w => { w with }) ⟨List.prefix_refl _, Nat.le_refl _⟩

theorem setMsys_keeps {T : List Nat} {s u : State} {x : MemSys} (hT : Sub [8] T) (h : Keeps T s u) :
    Keeps T s (u.setMsys x) :=
  Keeps.one 8 hT h (fun p hp _ => by unfold SameAt; split <;> first | rfl | (exact absurd rfl hp) | (intros; rfl))
    (fun w => { w with }) ⟨List.prefix_refl _, Nat.le_refl _⟩

theorem setPorts_keeps {T : List Nat} {s u : State} {x : Map Port} (hx : Wf u → mapRising 0 x = true) (hT : Sub [9] T) (h : Keeps T s u) :
    Keeps T s (u.setPorts x) :=
  Keeps.one 9 hT h (fun p hp _ => by unfold SameAt; split <;> first | rfl | (exact absurd rfl hp) | (intros; rfl))
    (fun w => { w with ports := hx w }) ⟨List.prefix_refl _, Nat.le_refl _⟩

theorem setLasers_keeps {T : List Nat} {s u : State} {x : Map Laser} (hx : Wf u → mapRising 0 x = true) (hT : Sub [10] T) (h : Keeps T s u) :
    Keeps T s (u.setLasers x) :=
  Keeps.one 10 hT h (fun p hp _ => by unfold SameAt; split <;> first | rfl | (exact absurd rfl hp) | (intros; rfl))
    (fun w => { w with lasers := hx w }) ⟨List.prefix_refl _, Nat.le_refl _⟩

theorem setRouter_keeps {T : List Nat} {s u : State} {x : Router} (hT : Sub [11] T) (h : Keeps T s u) :
    Keeps T s (u.setRouter x) :=
  Keeps.one 11 hT h (fun p hp _ => by unfold SameAt; split <;> first | rfl | (exact absurd rfl hp) | (intros; rfl))
    (fun w => { w with }) ⟨List.prefix_refl _, Nat.le_refl _⟩

theorem setHost_keeps {T : List Nat} {s u : State} {x : HostIf} (hx : Wf u → Memory.wf x.mem) (hT : Sub [12] T) (h : Keeps T s u) :
    Keeps T s (u.setHost x) :=
  Keeps.one 12 hT h (fun p hp _ => by unfold SameAt; split <;> first | rfl | (exact absurd rfl hp) | (intros; rfl))
    (fun w => { w with hostMem := hx w }) ⟨List.prefix_refl _, Nat.le_refl _⟩

theorem setClover_keeps {T : List Nat} {s u : State} {x : Clover} (hT : Sub [13] T) (h : Keeps T s u) :
    Keeps T s (u.setClover x) :=
  Keeps.one 13 hT h (fun p hp _ => by unfold SameAt; split <;> first | rfl | (exact absurd rfl hp) | (intros; rfl))
    (fun w => { w with }) ⟨List.prefix_refl _, Nat.le_refl _⟩

theorem setRst_keeps {T : List Nat} {s u : State} {x : ResetUnit} (hT : Sub [14] T) (h : Keeps T s u) :
    Keeps T s (u.setRst x) :=
  Keeps.one 14 hT h (fun p hp _ => by unfold SameAt; split <;> first | rfl | (exact absurd rfl hp) | (intros; rfl))
    (fun w => { w with }) ⟨List.prefix_refl _, Nat.le_refl _⟩

theorem setPower_keeps {T : List Nat} {s u : State} {x : PowerCtl} (hT : Sub [15] T) (h : Keeps T s u) :
    Keeps T s (u.setPower x) :=
  Keeps.one 15 hT h (fun p hp _ => by unfold SameAt; split <;> first | rfl | (exact absurd rfl hp) | (intros; rfl))
    (fun w => { w with }) ⟨List.prefix_refl _, Nat.le_refl _⟩

theorem setLedger_keeps {T : List Nat} {s u : State} {x : LedgerUnit} (hT : Sub [16] T) (h : Keeps T s u) :
    Keeps T s (u.setLedger x) :=
  Keeps.one 16 hT h (fun p hp _ => by unfold SameAt; split <;> first | rfl | (exact absurd rfl hp) | (intros; rfl))
    (fun w => { w with }) ⟨List.prefix_refl _, Nat.le_refl _⟩

theorem setTally_keeps {T : List Nat} {s u : State} {x : Map TallyCh} (hx : Wf u → mapRising 0 x = true) (hT : Sub [17] T) (h : Keeps T s u) :
    Keeps T s (u.setTally x) :=
  Keeps.one 17 hT h (fun p hp _ => by unfold SameAt; split <;> first | rfl | (exact absurd rfl hp) | (intros; rfl))
    (fun w => { w with tally := hx w }) ⟨List.prefix_refl _, Nat.le_refl _⟩

theorem setMgmt_keeps {T : List Nat} {s u : State} {x : Mgmt} (hT : Sub [18] T) (h : Keeps T s u) :
    Keeps T s (u.setMgmt x) :=
  Keeps.one 18 hT h (fun p hp _ => by unfold SameAt; split <;> first | rfl | (exact absurd rfl hp) | (intros; rfl))
    (fun w => { w with }) ⟨List.prefix_refl _, Nat.le_refl _⟩

theorem setObs_keeps {T : List Nat} {s u : State} {x : Observe} (hT : Sub [19] T) (h : Keeps T s u) :
    Keeps T s (u.setObs x) :=
  Keeps.one 19 hT h (fun p hp _ => by unfold SameAt; split <;> first | rfl | (exact absurd rfl hp) | (intros; rfl))
    (fun w => { w with }) ⟨List.prefix_refl _, Nat.le_refl _⟩

theorem setOutbox_keeps {T : List Nat} {s u : State} {x : List Out} (hx : u.outbox <+: x) (hT : Sub [20] T) (h : Keeps T s u) :
    Keeps T s (u.setOutbox x) :=
  Keeps.one 20 hT h (fun p hp _ => by unfold SameAt; split <;> first | rfl | (exact absurd rfl hp) | (intros; rfl))
    (fun w => { w with }) ⟨hx, Nat.le_refl _⟩

theorem setFree_keeps {T : List Nat} {s u : State} {x : Nat} (hx : u.free ≤ x) (hT : Sub [21] T) (h : Keeps T s u) :
    Keeps T s (u.setFree x) :=
  Keeps.one 21 hT h (fun p hp _ => by unfold SameAt; split <;> first | rfl | (exact absurd rfl hp) | (intros; rfl))
    (fun w => { w with }) ⟨List.prefix_refl _, hx⟩

theorem setOd_keeps {T : List Nat} {s u : State} {x : Map Nat} (n : Nat)
    (hx : ∀ k, (n ≠ 31 → odPlace k ≠ n) → n ≠ 31 → mapFind u.od k = mapFind x k)
    (hr : Wf u → mapRising 0 x = true) (hT : Sub [n] T) (h : Keeps T s u) : Keeps T s (u.setOd x) := by
  refine Keeps.one n hT h (fun p hp hd => ?_) (fun w => { w with od := hr w }) ⟨List.prefix_refl _, Nat.le_refl _⟩
  unfold SameAt
  split
  all_goals try rfl
  intro k hk
  by_cases h31 : n = 31
  · have h22 : p < 22 := hd (by omega) h31
    interval_cases p <;> simp_all
  · exact hx k (fun _ hk' => hp (hk ▸ hk')) h31

end Sys2Proof.Machine
end

