-- ==== Sys2Proof/Laws/OpsKeeps.lean ====
section
/-! SUPPORT. What the named operations on the state keep. -/

namespace Sys2Proof.Machine

open Sys2Proof

variable {T : List Nat} {s u : State}

/-! ### Dictionary entries -/

/-- The place of an entry's index. -/
def regPlace (r : Reg) : Nat := if 0x7100 ≤ r.index ∧ r.index < 0x7110 then 0x7100 else max r.index 31

theorem odKey_index (r : Reg) (i : Nat) : odKey r i / 16777216 = r.index := by
  unfold odKey; omega

theorem odPlace_odKey (r : Reg) (i : Nat) : odPlace (odKey r i) = regPlace r := by
  simp only [odPlace, regPlace, odKey_index, plDict]

theorem Sub.reg {a : List Nat} (r : Reg) (h : Sub a T) (h31 : a.contains 31 = true) : Sub [regPlace r] T := by
  refine Sub.trans (b := a) (fun x hx => .inr ⟨?_, by simpa using h31⟩) h
  simp only [List.mem_singleton] at hx
  subst hx
  unfold regPlace
  split <;> omega

theorem wr_keeps {r : Reg} {i v : Nat} (hT : Sub [regPlace r] T) (h : Keeps T s u) : Keeps T s (u.wr r i v) := by
  refine setOd_keeps (regPlace r) (fun k hk h31 => ?_) (fun w => ?_) hT h
  · have hne : k ≠ odKey r i := fun e => hk h31 (e ▸ odPlace_odKey r i)
    unfold mapSet
    split
    · exact (mapFind_mapDel_other _ hne).symm
    · exact (mapFind_mapPut_other _ _ hne).symm
  · have := (mapRising_iff 0 _).1 w.od
    exact (mapRising_iff 0 _).2 ⟨fun _ _ => Nat.zero_le _, rising_mapSet _ _ _ this.2⟩

theorem bump_keeps {r : Reg} {i n : Nat} (hT : Sub [regPlace r] T) (h : Keeps T s u) : Keeps T s (u.bump r i n) :=
  wr_keeps hT h

theorem bumpSat_keeps {r : Reg} {i n : Nat} (hT : Sub [regPlace r] T) (h : Keeps T s u) : Keeps T s (u.bumpSat r i n) :=
  wr_keeps hT h

theorem raise_keeps {r : Reg} {i n : Nat} (hT : Sub [regPlace r] T) (h : Keeps T s u) : Keeps T s (u.raise r i n) :=
  wr_keeps hT h

theorem wrI_keeps {r : Reg} {i : Nat} {v : Int} (hT : Sub [regPlace r] T) (h : Keeps T s u) : Keeps T s (u.wrI r i v) :=
  wr_keeps hT h

theorem wrB_keeps {r : Reg} {i : Nat} {v : List Byte} (hT : Sub [1] T) (h : Keeps T s u) : Keeps T s (u.wrB r i v) :=
  setOdBytes_keeps (fun w => (mapRising_iff 0 _).2
    ⟨fun _ _ => Nat.zero_le _, rising_mapSet _ _ _ ((mapRising_iff 0 _).1 w.odBytes).2⟩) hT h

theorem odClear_keeps {p : Nat → Nat → Nat → Bool} (hT : Sub [31] T) (h : Keeps T s u) : Keeps T s (u.odClear p) :=
  setOd_keeps 31 (fun _ _ h31 => absurd rfl h31) (fun w => (mapRising_iff 0 _).2
    ⟨fun _ _ => Nat.zero_le _, rising_filter _ ((mapRising_iff 0 _).1 w.od).2⟩) hT h

/-! ### Tables -/

theorem rising_put {α : Type} {m : Map α} (k : Nat) (v : α) (h : mapRising 0 m = true) : mapRising 0 (mapPut m k v) = true :=
  (mapRising_iff 0 _).2 ⟨fun _ _ => Nat.zero_le _, rising_mapPut k v ((mapRising_iff 0 _).1 h).2⟩

theorem rising_del {α : Type} {m : Map α} (k : Nat) (h : mapRising 0 m = true) : mapRising 0 (mapDel m k) = true :=
  (mapRising_iff 0 _).2 ⟨fun _ _ => Nat.zero_le _, rising_mapDel k ((mapRising_iff 0 _).1 h).2⟩

theorem rising_fil {α : Type} {m : Map α} (p : Nat × α → Bool) (h : mapRising 0 m = true) :
    mapRising 0 (m.filter p) = true :=
  (mapRising_iff 0 _).2 ⟨fun _ _ => Nat.zero_le _, rising_filter p ((mapRising_iff 0 _).1 h).2⟩

theorem rising_vals {α : Type} {m : Map α} (f : Nat × α → Nat × α) (hf : ∀ e, (f e).1 = e.1) (h : mapRising 0 m = true) :
    mapRising 0 (m.map f) = true :=
  (mapRising_iff 0 _).2 ⟨fun _ _ => Nat.zero_le _, rising_mapVals f hf ((mapRising_iff 0 _).1 h).2⟩

theorem rising_puts {α : Type} (l m : Map α) (h : mapRising 0 m = true) :
    mapRising 0 (l.foldl (fun m e => mapPut m e.1 e.2) m) = true := by
  induction l generalizing m with
  | nil => exact h
  | cons e r ih => exact ih _ (rising_put _ _ h)

/-- A place of a list, where the list lies within another. -/
theorem Sub.mem {a : List Nat} {p : Nat} (h : Sub a T) (ha : a.contains p = true) (hp : p < 22) : p ∈ T := by
  rcases h p (by simpa using ha) with h | ⟨h, _⟩
  · exact h
  · omega

theorem modBlock_keeps {b : Nat} {f : Block → Block} (hT : Sub [5] T) (h : Keeps T s u) : Keeps T s (u.modBlock b f) :=
  setBlocks_keeps (fun w => rising_put _ _ w.blocks) hT h

theorem modPart_keeps {b : Nat} {f : Part → Part} (hT : Sub [6] T) (h : Keeps T s u) : Keeps T s (u.modPart b f) :=
  setParts_keeps (fun w => rising_put _ _ w.parts) hT h

theorem modPort_keeps {b : Nat} {f : Port → Port} (hT : Sub [9] T) (h : Keeps T s u) : Keeps T s (u.modPort b f) :=
  setPorts_keeps (fun w => rising_put _ _ w.ports) hT h

theorem modLaser_keeps {b : Nat} {f : Laser → Laser} (hT : Sub [10] T) (h : Keeps T s u) : Keeps T s (u.modLaser b f) :=
  setLasers_keeps (fun w => rising_put _ _ w.lasers) hT h

theorem modChan_keeps {b : Nat} {f : TallyCh → TallyCh} (hT : Sub [17] T) (h : Keeps T s u) : Keeps T s (u.modChan b f) :=
  setTally_keeps (fun w => rising_put _ _ w.tally) hT h

theorem modRst_keeps {f : ResetUnit → ResetUnit} (hT : Sub [14] T) (h : Keeps T s u) : Keeps T s (u.modRst f) :=
  setRst_keeps hT h

theorem modTime_keeps {f : TimeUnit → TimeUnit} (hT : Sub [4] T) (h : Keeps T s u) : Keeps T s (u.modTime f) :=
  setTime_keeps hT h

/-! ### What is sent, free values -/

theorem emit_keeps {o : Out} (hT : Sub [20] T) (h : Keeps T s u) : Keeps T s (u.emit o) :=
  setOutbox_keeps (List.prefix_append _ _) hT h

theorem emitAll_keeps {os : List Out} (hT : Sub [20] T) (h : Keeps T s u) : Keeps T s (u.emitAll os) :=
  setOutbox_keeps (List.prefix_append _ _) hT h

theorem tick_keeps (hT : Sub [21] T) (h : Keeps T s u) : Keeps T s u.tick := setFree_keeps (Nat.le_succ _) hT h

/-! ### Repetition and condition -/

theorem each_keeps {α : Type} {l : List α} {f : State → α → State} (hf : ∀ v x, Keeps T s v → Keeps T s (f v x))
    (h : Keeps T s u) : Keeps T s (u.each l f) := by
  induction l generalizing u with
  | nil => exact h
  | cons x r ih => exact ih (hf u x h)

theorem when_keeps {c : Bool} {f : State → State} (hf : ∀ v, Keeps T s v → Keeps T s (f v)) (h : Keeps T s u) :
    Keeps T s (u.when c f) := by
  unfold State.when
  split
  · exact hf u h
  · exact h

theorem foldl_keeps {α : Type} {l : List α} {f : State → α → State} (hf : ∀ v x, Keeps T s v → Keeps T s (f v x))
    (h : Keeps T s u) : Keeps T s (l.foldl f u) := by
  induction l generalizing u with
  | nil => exact h
  | cons x r ih => exact ih (hf u x h)

theorem foldl_keepsP {α β : Type} {l : List α} {f : State × β → α → State × β} {z : State × β}
    (hf : ∀ v x, KeepsP T s v → KeepsP T s (f v x)) (h : KeepsP T s z) : KeepsP T s (l.foldl f z) := by
  induction l generalizing z with
  | nil => exact h
  | cons x r ih => exact ih (hf z x h)

/-! ### Memory -/

theorem memWrite_wf {m : List Host.Cell} (a : Nat) (bs : List Byte) (h : Memory.wf m) : Memory.wf (memWrite m a bs) :=
  mapWf_mapSplice a bs h

theorem memSet_wf {m : List Host.Cell} (l : List Host.Cell) (f : Host.Cell → Nat) (h : Memory.wf m) :
    Memory.wf (l.foldl (fun m c => mapSet 0 m (f c) c.2) m) := by
  induction l generalizing m with
  | nil => exact h
  | cons c r ih => exact ih (mapWf_mapSet _ _ h)

theorem write_keeps {a : Nat} {bs : List Byte} (hT : Sub [2] T) (h : Keeps T s u) : Keeps T s (u.write a bs) :=
  setMem_keeps (fun w => memWrite_wf a bs w.mem) hT h

theorem markPoison_keeps {a n : Nat} {bad : Bool} (hT : Sub [3] T) (h : Keeps T s u) : Keeps T s (u.markPoison a n bad) := by
  unfold State.markPoison
  split <;> exact setPoison_keeps hT h

theorem store_keeps {a : Nat} {bs : List Byte} {bad : Bool} (hT : Sub [2, 3] T) (h : Keeps T s u) :
    Keeps T s (u.store a bs bad) :=
  markPoison_keeps (Sub.of rfl hT) (write_keeps (Sub.of rfl hT) h)

theorem clear_keeps {a n : Nat} (hT : Sub [2, 3] T) (h : Keeps T s u) : Keeps T s (u.clear a n) :=
  markPoison_keeps (Sub.of rfl hT) (setMem_keeps (fun w => mapWf_filter _ w.mem) (Sub.of rfl hT) h)

theorem copyMem_keeps {a b n : Nat} (hT : Sub [2, 3] T) (h : Keeps T s u) : Keeps T s (u.copyMem a b n) := by
  unfold State.copyMem
  refine setPoison_keeps (Sub.of rfl hT) (setMem_keeps (fun w => ?_) (Sub.of rfl hT) (clear_keeps hT h))
  exact memSet_wf _ _ w.mem

end Sys2Proof.Machine
end

