-- ==== Sys2Proof/Laws/KeepsRecord.lean ====
section
/-! SUPPORT. What the functions of `Machine/Record.lean` keep. -/

namespace Sys2Proof.Machine

open Sys2Proof

theorem modLedger_keeps {T : List Nat} {s u : State} {f : LedgerUnit → LedgerUnit}
    (hT : Sub [16] T) (h : Keeps T s u) : Keeps T s (State.modLedger u f) := by
  unfold State.modLedger
  repeat' first
    | with_reducible assumption
    | exact Sub.of rfl hT
    | with_reducible apply setLedger_keeps

theorem ldgEnqueue_keeps {T : List Nat} {s u : State} {r : List Byte}
    (hT : Sub [16, 0x7002] T) (h : Keeps T s u) : Keeps T s (ldgEnqueue u r) := by
  unfold ldgEnqueue
  repeat' first
    | with_reducible assumption
    | exact Sub.of rfl hT
    | with_reducible apply modLedger_keeps
    | with_reducible apply bumpSat_keeps
    | with_reducible refine Keeps.ite ?_ ?_

theorem ldgBucket_keeps {T : List Nat} {s u : State} {code : ℕ} {b : Bucket}
    (hT : Sub [16] T) (h : Keeps T s u) : Keeps T s (ldgBucket u code b) := by
  unfold ldgBucket
  repeat' first
    | with_reducible assumption
    | exact Sub.of rfl hT
    | with_reducible apply modLedger_keeps

theorem ldgAccept_keeps {T : List Nat} {s u : State} {code : ℕ} {r : List Byte} {tokens : ℕ}
    (hT : Sub [16, 0x7002] T) (h : Keeps T s u) : Keeps T s (ldgAccept u code r tokens) := by
  unfold ldgAccept
  repeat' first
    | with_reducible assumption
    | exact Sub.of rfl hT
    | with_reducible apply wr_keeps
    | with_reducible apply ldgEnqueue_keeps
    | with_reducible apply ldgBucket_keeps
    | with_reducible refine Keeps.ite ?_ ?_

theorem ldgSuppress_keeps {T : List Nat} {s u : State} {code : ℕ} {tokens : ℕ}
    (hT : Sub [16, 0x7002] T) (h : Keeps T s u) : Keeps T s (ldgSuppress u code tokens) := by
  unfold ldgSuppress
  repeat' first
    | with_reducible assumption
    | exact Sub.of rfl hT
    | with_reducible apply bumpSat_keeps
    | with_reducible apply bump_keeps
    | with_reducible apply ldgBucket_keeps
    | with_reducible refine Keeps.ite ?_ ?_

theorem ldgPresent_keeps {T : List Nat} {s u : State} {code : ℕ} {r : List Byte}
    (hT : Sub [16, 0x7002] T) (h : Keeps T s u) : Keeps T s (ldgPresent u code r) := by
  unfold ldgPresent
  repeat' first
    | with_reducible assumption
    | exact Sub.of rfl hT
    | with_reducible apply ldgEnqueue_keeps
    | with_reducible apply ldgAccept_keeps
    | with_reducible apply ldgSuppress_keeps
    | with_reducible refine Keeps.ite ?_ ?_

theorem recordL_keeps {T : List Nat} {s u : State} {code : ℕ} {source : ℕ} {fs : List (ℕ × ℕ)} {layer : Option (ℕ × ℕ)}
    (hT : Sub [16, 0x7002] T) (h : Keeps T s u) : Keeps T s (State.recordL u code source fs layer) := by
  unfold State.recordL
  repeat' first
    | with_reducible assumption
    | exact Sub.of rfl hT
    | with_reducible apply ldgPresent_keeps

theorem record_keeps {T : List Nat} {s u : State} {code : ℕ} {source : ℕ} {fs : List (ℕ × ℕ)}
    (hT : Sub [16, 0x7002] T) (h : Keeps T s u) : Keeps T s (State.record u code source fs) := by
  unfold State.record
  repeat' first
    | with_reducible assumption
    | exact Sub.of rfl hT
    | with_reducible apply recordL_keeps

theorem recordB_keeps {T : List Nat} {s u : State} {code : ℕ} {source : ℕ} {data : List Byte}
    (hT : Sub [16, 0x7002] T) (h : Keeps T s u) : Keeps T s (State.recordB u code source data) := by
  unfold State.recordB
  repeat' first
    | with_reducible assumption
    | exact Sub.of rfl hT
    | with_reducible apply ldgPresent_keeps

end Sys2Proof.Machine
end

