-- ==== Sys2Proof/Laws/KeepsAccess.lean ====
section
/-! SUPPORT. What the functions of `Machine/Access.lean` keep. -/

namespace Sys2Proof.Machine

open Sys2Proof

theorem done_keeps {T : List Nat} {s u : State}
    (hT : Sub [] T) (h : Keeps T s u) : KeepsP T s (done u) := by
  unfold done
  repeat' first
    | with_reducible assumption
    | exact Sub.of rfl hT
    | with_reducible refine Keeps.ite ?_ ?_
    | with_reducible refine KeepsP.ite ?_ ?_
    | with_reducible apply KeepsP.fst
    | with_reducible intro _
    | split
    | with_reducible apply KeepsP.mk

theorem guard_keeps {T : List Nat} {s u : State} {w : Who} {r : Reg} {i : ℕ} {v : ℕ} {f : State → Written} (hf : ∀ v, Keeps T s v → KeepsP T s (f v))
    (hT : Sub [20] T) (h : Keeps T s u) : Keeps T s (State.guard u w r i v f) := by
  unfold State.guard
  repeat' first
    | with_reducible assumption
    | exact Sub.of rfl hT
    | with_reducible apply emit_keeps
    | with_reducible apply hf
    | with_reducible refine Keeps.ite ?_ ?_
    | with_reducible refine KeepsP.ite ?_ ?_
    | with_reducible apply KeepsP.fst

theorem deny_keeps {T : List Nat} {s u : State}
    (hT : Sub [] T) (h : Keeps T s u) : KeepsP T s (deny u) := by
  unfold deny
  repeat' first
    | with_reducible assumption
    | exact Sub.of rfl hT
    | with_reducible refine Keeps.ite ?_ ?_
    | with_reducible refine KeepsP.ite ?_ ?_
    | with_reducible apply KeepsP.fst
    | with_reducible intro _
    | split
    | with_reducible apply KeepsP.mk

end Sys2Proof.Machine
end

