-- ==== Sys2Proof/Laws/KeepsHealth.lean ====
section
/-! SUPPORT. What the functions of `Machine/Health.lean` keep. -/

namespace Sys2Proof.Machine

open Sys2Proof

theorem modClover_keeps {T : List Nat} {s u : State} {f : Clover → Clover}
    (hT : Sub [13] T) (h : Keeps T s u) : Keeps T s (State.modClover u f) := by
  unfold State.modClover
  repeat' first
    | with_reducible assumption
    | exact Sub.of rfl hT
    | with_reducible apply setClover_keeps

theorem noteCrossing_keeps {T : List Nat} {s u : State} {u' : ℕ} {band : ℕ} {score : ℕ}
    (hT : Sub [13, 16, 0x7002] T) (h : Keeps T s u) : Keeps T s (noteCrossing u u' band score) := by
  unfold noteCrossing
  repeat' first
    | with_reducible assumption
    | exact Sub.of rfl hT
    | with_reducible apply record_keeps
    | with_reducible apply modClover_keeps
    | with_reducible refine Keeps.ite ?_ ?_

theorem rescore_keeps {T : List Nat} {s u : State} {u' : ℕ}
    (hT : Sub [13, 16, 0x7002, 0x9000, 0x9001] T) (h : Keeps T s u) : Keeps T s (rescore u u') := by
  unfold rescore
  repeat' first
    | with_reducible assumption
    | exact Sub.of rfl hT
    | with_reducible apply wr_keeps
    | with_reducible apply noteCrossing_keeps
    | with_reducible refine Keeps.ite ?_ ?_

theorem modPenalty_keeps {T : List Nat} {s u : State} {u' : ℕ} {f : Penalty → Penalty}
    (hT : Sub [13, 16, 0x7002, 0x9000, 0x9001] T) (h : Keeps T s u) : Keeps T s (modPenalty u u' f) := by
  unfold modPenalty
  repeat' first
    | with_reducible assumption
    | exact Sub.of rfl hT
    | with_reducible apply rescore_keeps
    | with_reducible apply modClover_keeps

theorem penUnfix_keeps {T : List Nat} {s u : State} {u' : ℕ} {cause : ℕ}
    (hT : Sub [13, 16, 0x7002, 0x9000, 0x9001] T) (h : Keeps T s u) : Keeps T s (penUnfix u u' cause) := by
  unfold penUnfix
  repeat' first
    | with_reducible assumption
    | exact Sub.of rfl hT
    | with_reducible apply modPenalty_keeps

theorem penDecay_keeps {T : List Nat} {s u : State} {u' : ℕ} {pts : ℕ}
    (hT : Sub [13, 16, 0x7002, 0x9000, 0x9001] T) (h : Keeps T s u) : Keeps T s (penDecay u u' pts) := by
  unfold penDecay
  repeat' first
    | with_reducible assumption
    | exact Sub.of rfl hT
    | with_reducible apply modPenalty_keeps

theorem penPer_keeps {T : List Nat} {s u : State} {u' : ℕ} {a : ℕ} {b : ℕ} {per : ℕ} {pts : ℕ}
    (hT : Sub [13, 16, 0x7002, 0x9000, 0x9001] T) (h : Keeps T s u) : Keeps T s (penPer u u' a b per pts) := by
  unfold penPer
  repeat' first
    | with_reducible assumption
    | exact Sub.of rfl hT
    | with_reducible apply penDecay_keeps
    | with_reducible refine Keeps.ite ?_ ?_

theorem penFixed_keeps {T : List Nat} {s u : State} {u' : ℕ} {cause : ℕ} {pts : ℕ}
    (hT : Sub [13, 16, 0x7002, 0x9000, 0x9001] T) (h : Keeps T s u) : Keeps T s (penFixed u u' cause pts) := by
  unfold penFixed
  repeat' first
    | with_reducible assumption
    | exact Sub.of rfl hT
    | with_reducible apply modPenalty_keeps

theorem execPenaltyPointDecay_keeps {u : State} {unit : ℕ} :
    OutKeeps [13, 16, 0x7002, 0x9000, 0x9001] u (execPenaltyPointDecay unit u) := by
  have h := Keeps.refl [13, 16, 0x7002, 0x9000, 0x9001] u
  have hT := Sub.rfl (a := [13, 16, 0x7002, 0x9000, 0x9001])
  unfold execPenaltyPointDecay
  repeat' first
    | with_reducible assumption
    | exact Sub.of rfl hT
    | with_reducible apply modPenalty_keeps
    | with_reducible apply OutKeeps.next

end Sys2Proof.Machine
end

