-- ==== Sys2Proof/Laws/KeepsJournal.lean ====
section
/-! SUPPORT. What the functions of `Machine/Journal.lean` keep. -/

namespace Sys2Proof.Machine

open Sys2Proof

theorem noteLater_keeps {T : List Nat} {s u : State} {p : ℕ} {w : HeldWrite}
    (hT : Sub [6] T) (h : Keeps T s u) : Keeps T s (noteLater u p w) := by
  unfold noteLater
  repeat' first
    | with_reducible assumption
    | exact Sub.of rfl hT
    | with_reducible apply modPart_keeps
    | with_reducible refine Keeps.ite ?_ ?_
    | with_reducible intro _
    | split

theorem jnlCount_keeps {T : List Nat} {s u : State} {p : ℕ}
    (hT : Sub [0x6101] T) (h : Keeps T s u) : Keeps T s (jnlCount u p) := by
  unfold jnlCount
  repeat' first
    | with_reducible assumption
    | exact Sub.of rfl hT
    | with_reducible apply raise_keeps
    | with_reducible apply wr_keeps

theorem finalCheck_keeps {T : List Nat} {s u : State} {p : ℕ} {page : ℕ} {blk : ℕ}
    (hT : Sub [6, 0x3021] T) (h : Keeps T s u) : Keeps T s (finalCheck u p page blk) := by
  unfold finalCheck
  repeat' first
    | with_reducible assumption
    | exact Sub.of rfl hT
    | with_reducible apply modPart_keeps
    | with_reducible apply bumpSat_keeps
    | with_reducible refine Keeps.ite ?_ ?_

theorem noteWritten_keeps {T : List Nat} {s u : State} {p : ℕ} {page : ℕ}
    (hT : Sub [6] T) (h : Keeps T s u) : Keeps T s (noteWritten u p page) := by
  unfold noteWritten
  repeat' first
    | with_reducible assumption
    | exact Sub.of rfl hT
    | with_reducible apply modPart_keeps

theorem jnlEnter_keeps {T : List Nat} {s u : State} {p : ℕ} {page : ℕ}
    (hT : Sub [2, 3, 6, 0x6101] T) (h : Keeps T s u) : Keeps T s (jnlEnter u p page) := by
  unfold jnlEnter
  repeat' first
    | with_reducible assumption
    | exact Sub.of rfl hT
    | with_reducible apply jnlCount_keeps
    | with_reducible apply modPart_keeps
    | with_reducible apply copyMem_keeps
    | with_reducible refine Keeps.ite ?_ ?_
    | (extract_lets +onlyGivenNames x; first | refine (fun hx => ?_ : Keeps _ _ x → _) ?_ | refine (fun hx => ?_ : KeepsP _ _ x → _) ?_ | skip)
    | with_reducible intro _
    | split

theorem noteLanded_keeps {T : List Nat} {s u : State} {p : ℕ} {page : ℕ}
    (hT : Sub [6] T) (h : Keeps T s u) : Keeps T s (noteLanded u p page) := by
  unfold noteLanded
  repeat' first
    | with_reducible assumption
    | exact Sub.of rfl hT
    | with_reducible apply noteWritten_keeps
    | with_reducible apply modPart_keeps
    | with_reducible refine Keeps.ite ?_ ?_

theorem setBuddyState_keeps {T : List Nat} {s u : State} {p : ℕ} {new : ℕ} {cause : ℕ}
    (hT : Sub [16, 0x6102, 0x7002] T) (h : Keeps T s u) : Keeps T s (setBuddyState u p new cause) := by
  unfold setBuddyState
  repeat' first
    | with_reducible assumption
    | exact Sub.of rfl hT
    | with_reducible apply record_keeps
    | with_reducible apply wr_keeps
    | with_reducible refine Keeps.ite ?_ ?_

theorem noteBetween_keeps {T : List Nat} {s u : State} {p : ℕ} {page : ℕ}
    (hT : Sub [6, 16, 0x6102, 0x7002] T) (h : Keeps T s u) : Keeps T s (noteBetween u p page) := by
  unfold noteBetween
  repeat' first
    | with_reducible assumption
    | exact Sub.of rfl hT
    | with_reducible apply modPart_keeps
    | with_reducible apply setBuddyState_keeps
    | with_reducible refine Keeps.ite ?_ ?_

theorem betweenWrite_keeps {T : List Nat} {s u : State} {p : ℕ} {page : ℕ} {a : ℕ} {bs : List Byte} {bad : Bool}
    (hT : Sub [2, 3, 6, 16, 0x6102, 0x7002] T) (h : Keeps T s u) : Keeps T s (betweenWrite u p page a bs bad) := by
  unfold betweenWrite
  repeat' first
    | with_reducible assumption
    | exact Sub.of rfl hT
    | with_reducible apply noteBetween_keeps
    | with_reducible apply noteLater_keeps
    | with_reducible apply store_keeps

theorem jnlCopyDone_keeps {T : List Nat} {s u : State} {p : ℕ} {page : ℕ}
    (hT : Sub [2, 3, 6, 16, 0x6101, 0x6102, 0x7002] T) (h : Keeps T s u) : Keeps T s (jnlCopyDone u p page) := by
  unfold jnlCopyDone
  repeat' first
    | with_reducible assumption
    | exact Sub.of rfl hT
    | with_reducible apply jnlEnter_keeps
    | with_reducible apply modPart_keeps
    | with_reducible apply each_keeps
    | with_reducible apply noteLanded_keeps
    | with_reducible apply store_keeps
    | with_reducible apply betweenWrite_keeps
    | with_reducible refine Keeps.ite ?_ ?_
    | (extract_lets +onlyGivenNames x; first | refine (fun hx => ?_ : Keeps _ _ x → _) ?_ | refine (fun hx => ?_ : KeepsP _ _ x → _) ?_ | skip)
    | with_reducible intro _

theorem jnlOverflow_keeps {T : List Nat} {s u : State} {p : ℕ}
    (hT : Sub [6, 16, 0x6101, 0x7002] T) (h : Keeps T s u) : Keeps T s (jnlOverflow u p) := by
  unfold jnlOverflow
  repeat' first
    | with_reducible assumption
    | exact Sub.of rfl hT
    | with_reducible apply record_keeps
    | with_reducible apply modPart_keeps
    | with_reducible apply bumpSat_keeps
    | with_reducible apply wr_keeps
    | with_reducible refine Keeps.ite ?_ ?_

theorem stepBoundary_keeps {T : List Nat} {s u : State} {p : ℕ}
    (hT : Sub [6] T) (h : Keeps T s u) : Keeps T s (stepBoundary u p) := by
  unfold stepBoundary
  repeat' first
    | with_reducible assumption
    | exact Sub.of rfl hT
    | with_reducible apply modPart_keeps

theorem doNotSeal_keeps {T : List Nat} {s u : State} {p : ℕ} {f : Verdict → Verdict}
    (hT : Sub [6] T) (h : Keeps T s u) : Keeps T s (doNotSeal u p f) := by
  unfold doNotSeal
  repeat' first
    | with_reducible assumption
    | exact Sub.of rfl hT
    | with_reducible apply modPart_keeps
    | with_reducible refine Keeps.ite ?_ ?_

theorem pageWrite_keeps {T : List Nat} {s u : State} {unit : ℕ} {a : ℕ} {bs : List Byte} {bad : Bool}
    (hT : Sub [2, 3, 6, 16, 0x3021, 0x6101, 0x6102, 0x7002] T) (h : Keeps T s u) : Keeps T s (pageWrite u unit a bs bad) := by
  unfold pageWrite
  repeat' first
    | with_reducible assumption
    | exact Sub.of rfl hT
    | with_reducible apply store_keeps
    | with_reducible apply betweenWrite_keeps
    | with_reducible apply doNotSeal_keeps
    | with_reducible apply record_keeps
    | with_reducible apply noteWritten_keeps
    | with_reducible apply finalCheck_keeps
    | with_reducible apply modPart_keeps
    | with_reducible apply jnlOverflow_keeps
    | with_reducible refine Keeps.ite ?_ ?_
    | (extract_lets +onlyGivenNames x; first | refine (fun hx => ?_ : Keeps _ _ x → _) ?_ | refine (fun hx => ?_ : KeepsP _ _ x → _) ?_ | skip)
    | with_reducible intro _
    | split

theorem chipWrite_keeps {T : List Nat} {s u : State} {unit : ℕ} {a : ℕ} {bs : List Byte} {bad : Bool}
    (hT : Sub [2, 3, 6, 16, 0x3021, 0x6101, 0x6102, 0x7002] T) (h : Keeps T s u) : Keeps T s (chipWrite u unit a bs bad) := by
  unfold chipWrite
  repeat' first
    | with_reducible assumption
    | exact Sub.of rfl hT
    | with_reducible apply each_keeps
    | with_reducible apply pageWrite_keeps
    | with_reducible refine Keeps.ite ?_ ?_
    | with_reducible intro _

end Sys2Proof.Machine
end

