-- ==== Sys2Proof/Laws/KeepsTopo.lean ====
section
/-! SUPPORT. What the functions of `Machine/Topo.lean` keep. -/

namespace Sys2Proof.Machine

open Sys2Proof

theorem setTree_keeps {T : List Nat} {s u : State} {p : ℕ}
    (hT : Sub [0x6203] T) (h : Keeps T s u) : Keeps T s (setTree u p) := by
  unfold setTree
  repeat' first
    | with_reducible assumption
    | exact Sub.of rfl hT
    | with_reducible apply wr_keeps

end Sys2Proof.Machine
end

