-- ==== Sys2Proof/Laws/KeepsFabric.lean ====
section
/-! SUPPORT. What the functions of `Machine/Fabric.lean` keep. -/

namespace Sys2Proof.Machine

open Sys2Proof

theorem dropReg_sub {a T : List Nat} {c : Nat} (ha : subT [0x4140] a = true) (hT : Sub a T) :
    Sub [regPlace (dropReg c)] T := by
  unfold dropReg; split <;> exact Sub.of ha hT

theorem dropAs_keeps {T : List Nat} {s u : State} {unit : ℕ} {cause : ℕ} {vc : ℕ} {src : ℕ} {dst : ℕ} {ps : List ℕ}
    (hT : Sub [6, 16, 0x4140, 0x7002] T) (h : Keeps T s u) : Keeps T s (dropAs u unit cause vc src dst ps) := by
  unfold dropAs
  repeat' first
    | with_reducible assumption
    | exact Sub.of rfl hT
    | with_reducible apply record_keeps
    | with_reducible apply bumpSat_keeps
    | with_reducible apply each_keeps
    | with_reducible apply doNotSeal_keeps
    | exact dropReg_sub rfl hT
    | with_reducible refine Keeps.ite ?_ ?_
    | (extract_lets +onlyGivenNames x; first | refine (fun hx => ?_ : Keeps _ _ x → _) ?_ | refine (fun hx => ?_ : KeepsP _ _ x → _) ?_ | skip)
    | with_reducible intro _

theorem dropPkt_keeps {T : List Nat} {s u : State} {unit : ℕ} {cause : ℕ} {p : Packet}
    (hT : Sub [6, 16, 0x4140, 0x7002] T) (h : Keeps T s u) : Keeps T s (dropPkt u unit cause p) := by
  unfold dropPkt
  repeat' first
    | with_reducible assumption
    | exact Sub.of rfl hT
    | with_reducible apply dropAs_keeps

theorem giveBack_keeps {T : List Nat} {s u : State} {inPort : ℕ} {cls : ℕ} {n : ℕ}
    (hT : Sub [9] T) (h : Keeps T s u) : Keeps T s (giveBack u inPort cls n) := by
  unfold giveBack
  repeat' first
    | with_reducible assumption
    | exact Sub.of rfl hT
    | with_reducible apply modPort_keeps
    | with_reducible refine Keeps.ite ?_ ?_

theorem releasePkt_keeps {T : List Nat} {s u : State} {q : QPacket}
    (hT : Sub [9] T) (h : Keeps T s u) : Keeps T s (releasePkt u q) := by
  unfold releasePkt
  repeat' first
    | with_reducible assumption
    | exact Sub.of rfl hT
    | with_reducible apply giveBack_keeps

theorem queueAt_keeps {T : List Nat} {s u : State} {port : ℕ} {q : QPacket}
    (hT : Sub [9] T) (h : Keeps T s u) : Keeps T s (queueAt u port q) := by
  unfold queueAt
  repeat' first
    | with_reducible assumption
    | exact Sub.of rfl hT
    | with_reducible apply modPort_keeps

theorem putOn_keeps {T : List Nat} {s u : State} {port : ℕ} {q : QPacket}
    (hT : Sub [6, 9, 16, 0x4110, 0x4140, 0x7002] T) (h : Keeps T s u) : Keeps T s (putOn u port q) := by
  unfold putOn
  repeat' first
    | with_reducible assumption
    | exact Sub.of rfl hT
    | with_reducible apply queueAt_keeps
    | with_reducible apply dropPkt_keeps
    | with_reducible apply releasePkt_keeps
    | with_reducible apply bumpSat_keeps
    | with_reducible refine Keeps.ite ?_ ?_

theorem forward_keeps {T : List Nat} {s u : State} {q : QPacket} {hop : Bool}
    (hT : Sub [6, 9, 16, 0x4110, 0x4140, 0x7002] T) (h : Keeps T s u) : Keeps T s (forward u q hop) := by
  unfold forward
  repeat' first
    | with_reducible assumption
    | exact Sub.of rfl hT
    | with_reducible apply dropPkt_keeps
    | with_reducible apply releasePkt_keeps
    | with_reducible apply putOn_keeps
    | with_reducible refine Keeps.ite ?_ ?_

theorem vc0Send_keeps {T : List Nat} {s u : State} {dst : ℕ} {body : List Byte}
    (hT : Sub [6, 9, 16, 0x4110, 0x4140, 0x7002] T) (h : Keeps T s u) : Keeps T s (vc0Send u dst body) := by
  unfold vc0Send
  repeat' first
    | with_reducible assumption
    | exact Sub.of rfl hT
    | with_reducible apply forward_keeps
    | with_reducible refine Keeps.ite ?_ ?_

theorem clvEmit_keeps {T : List Nat} {s u : State} {dst : ℕ} {h' : ClvHdr} {b : ClvBody}
    (hT : Sub [6, 9, 16, 20, 0x4110, 0x4140, 0x7002] T) (h : Keeps T s u) : Keeps T s (clvEmit u dst h' b) := by
  unfold clvEmit
  repeat' first
    | with_reducible assumption
    | exact Sub.of rfl hT
    | with_reducible apply vc0Send_keeps
    | with_reducible apply emit_keeps

theorem clvSend_keeps {T : List Nat} {s u : State} {p : ℕ} {dst : ℕ} {b : ClvBody}
    (hT : Sub [6, 9, 16, 20, 0x4110, 0x4140, 0x7002] T) (h : Keeps T s u) : Keeps T s (clvSend u p dst b) := by
  unfold clvSend
  repeat' first
    | with_reducible assumption
    | exact Sub.of rfl hT
    | with_reducible apply clvEmit_keeps

theorem stwNext_keeps {T : List Nat} {s u : State}
    (hT : Sub [0x6210] T) (h : Keeps T s u) : Keeps T s (stwNext u) := by
  unfold stwNext
  repeat' first
    | with_reducible assumption
    | exact Sub.of rfl hT
    | with_reducible apply bump_keeps
    | with_reducible refine Keeps.ite ?_ ?_

theorem stwSend_keeps {T : List Nat} {s u : State} {dst : ℕ} {b : ClvBody}
    (hT : Sub [6, 9, 16, 20, 0x4110, 0x4140, 0x6210, 0x7002] T) (h : Keeps T s u) : Keeps T s (stwSend u dst b) := by
  unfold stwSend
  repeat' first
    | with_reducible assumption
    | exact Sub.of rfl hT
    | with_reducible apply stwNext_keeps
    | with_reducible apply clvEmit_keeps
    | with_reducible refine Keeps.ite ?_ ?_

theorem sendReport_keeps {T : List Nat} {s u : State} {arbA : ℕ} {arbB : ℕ} {r : Report}
    (hT : Sub [6, 9, 16, 20, 0x4110, 0x4140, 0x7002] T) (h : Keeps T s u) : Keeps T s (sendReport u arbA arbB r) := by
  unfold sendReport
  repeat' first
    | with_reducible assumption
    | exact Sub.of rfl hT
    | with_reducible apply clvSend_keeps
    | with_reducible refine Keeps.ite ?_ ?_

theorem clvRank_keeps {T : List Nat} {s u : State} {p : ℕ} {r : ℕ} {b : ClvBody}
    (hT : Sub [6, 9, 16, 20, 0x4110, 0x4140, 0x7002] T) (h : Keeps T s u) : Keeps T s (clvRank u p r b) := by
  unfold clvRank
  repeat' first
    | with_reducible assumption
    | exact Sub.of rfl hT
    | with_reducible apply clvSend_keeps

theorem vc0Local_keeps {T : List Nat} {s u : State} {port : ℕ} {body : List Byte}
    (hT : Sub [9] T) (h : Keeps T s u) : Keeps T s (vc0Local u port body) := by
  unfold vc0Local
  repeat' first
    | with_reducible assumption
    | exact Sub.of rfl hT
    | with_reducible apply queueAt_keeps
    | with_reducible refine Keeps.ite ?_ ?_

theorem mgmtEmit_keeps {T : List Nat} {s u : State} {h' : ClvHdr} {dst : ℕ} {msg : ℕ} {f : Frame}
    (hT : Sub [6, 9, 16, 20, 0x4110, 0x4140, 0x7002] T) (h : Keeps T s u) : Keeps T s (mgmtEmit u h' dst msg f) := by
  unfold mgmtEmit
  repeat' first
    | with_reducible assumption
    | exact Sub.of rfl hT
    | with_reducible apply vc0Send_keeps
    | with_reducible apply emit_keeps

theorem modRouter_keeps {T : List Nat} {s u : State} {f : Router → Router}
    (hT : Sub [11] T) (h : Keeps T s u) : Keeps T s (State.modRouter u f) := by
  unfold State.modRouter
  repeat' first
    | with_reducible assumption
    | exact Sub.of rfl hT
    | with_reducible apply setRouter_keeps

theorem clvLocal_keeps {T : List Nat} {s u : State} {port : ℕ} {h' : ClvHdr} {b : ClvBody}
    (hT : Sub [9, 20] T) (h : Keeps T s u) : Keeps T s (clvLocal u port h' b) := by
  unfold clvLocal
  repeat' first
    | with_reducible assumption
    | exact Sub.of rfl hT
    | with_reducible apply vc0Local_keeps
    | with_reducible apply emit_keeps

theorem fenceChip_keeps {T : List Nat} {s u : State}
    (hT : Sub [6, 9, 16, 20, 0x4110, 0x4140, 0x6202, 0x7002] T) (h : Keeps T s u) : Keeps T s (fenceChip u) := by
  unfold fenceChip
  repeat' first
    | with_reducible assumption
    | exact Sub.of rfl hT
    | with_reducible apply wr_keeps
    | with_reducible apply sendReport_keeps
    | with_reducible refine Keeps.ite ?_ ?_

end Sys2Proof.Machine
end

