-- ==== Sys2Proof/Laws/KeepsMemory.lean ====
section
/-! SUPPORT. What the functions of `Machine/Memory.lean` keep. -/

namespace Sys2Proof.Machine

open Sys2Proof

theorem poisonReads_keeps {T : List Nat} {s u : State} {a : ℕ} {n : ℕ}
    (hT : Sub [6, 0x3410, 0x3411] T) (h : Keeps T s u) : Keeps T s (poisonReads u a n) := by
  unfold poisonReads
  repeat' first
    | with_reducible assumption
    | exact Sub.of rfl hT
    | with_reducible apply doNotSeal_keeps
    | with_reducible apply bumpSat_keeps
    | with_reducible refine Keeps.ite ?_ ?_

theorem zeroBlock_keeps {T : List Nat} {s u : State} {b : ℕ} {cause : ℕ}
    (hT : Sub [16, 0x3401, 0x7002] T) (h : Keeps T s u) : Keeps T s (zeroBlock u b cause) := by
  unfold zeroBlock
  repeat' first
    | with_reducible assumption
    | exact Sub.of rfl hT
    | with_reducible apply record_keeps
    | with_reducible apply wr_keeps
    | with_reducible refine Keeps.ite ?_ ?_

theorem dropHosted_keeps {T : List Nat} {s u : State} {k : ℕ}
    (hT : Sub [7] T) (h : Keeps T s u) : Keeps T s (dropHosted u k) := by
  unfold dropHosted
  repeat' first
    | with_reducible assumption
    | exact Sub.of rfl hT
    | with_reducible apply setBuddies_keeps
    | with_reducible refine Keeps.ite ?_ ?_

theorem zeroSlice_keeps {T : List Nat} {s u : State} {k : ℕ} {cause : ℕ}
    (hT : Sub [7, 16, 0x3402, 0x7002] T) (h : Keeps T s u) : Keeps T s (zeroSlice u k cause) := by
  unfold zeroSlice
  repeat' first
    | with_reducible assumption
    | exact Sub.of rfl hT
    | with_reducible apply record_keeps
    | with_reducible apply wr_keeps
    | with_reducible apply dropHosted_keeps
    | with_reducible refine Keeps.ite ?_ ?_

theorem zeroNext_keeps {T : List Nat} {s u : State} {stack : ℕ}
    (hT : Sub [0x3402] T) (h : Keeps T s u) : Keeps T s (zeroNext u stack) := by
  unfold zeroNext
  repeat' first
    | with_reducible assumption
    | exact Sub.of rfl hT
    | with_reducible apply wr_keeps
    | with_reducible refine Keeps.ite ?_ ?_
    | (extract_lets +onlyGivenNames x; first | refine (fun hx => ?_ : Keeps _ _ x → _) ?_ | refine (fun hx => ?_ : KeepsP _ _ x → _) ?_ | skip)
    | with_reducible intro _
    | split

theorem zeroStart_keeps {T : List Nat} {s u : State} {p : ℕ} {bs : List ℕ} {ks : List ℕ} {cause : ℕ}
    (hT : Sub [7, 16, 0x3401, 0x3402, 0x3403, 0x7002] T) (h : Keeps T s u) : Keeps T s (zeroStart u p bs ks cause) := by
  unfold zeroStart
  repeat' first
    | with_reducible assumption
    | exact Sub.of rfl hT
    | with_reducible apply each_keeps
    | with_reducible apply zeroBlock_keeps
    | with_reducible apply zeroSlice_keeps
    | with_reducible apply zeroNext_keeps
    | with_reducible apply record_keeps
    | with_reducible apply wr_keeps
    | with_reducible refine Keeps.ite ?_ ?_
    | (extract_lets +onlyGivenNames x; first | refine (fun hx => ?_ : Keeps _ _ x → _) ?_ | refine (fun hx => ?_ : KeepsP _ _ x → _) ?_ | skip)
    | with_reducible intro _

theorem modHost_keeps {T : List Nat} {s u : State} {f : HostIf → HostIf}
    (hf : ∀ x, Memory.wf x.mem → Memory.wf (f x).mem) (hT : Sub [12] T) (h : Keeps T s u) :
    Keeps T s (State.modHost u f) :=
  setHost_keeps (fun w => hf _ w.hostMem) hT h

theorem modMsys_keeps {T : List Nat} {s u : State} {f : MemSys → MemSys}
    (hT : Sub [8] T) (h : Keeps T s u) : Keeps T s (State.modMsys u f) := by
  unfold State.modMsys
  repeat' first
    | with_reducible assumption
    | exact Sub.of rfl hT
    | with_reducible apply setMsys_keeps

theorem wantRemap_keeps {T : List Nat} {s u : State} {b : ℕ} {line : ℕ} {cause : ℕ}
    (hT : Sub [8] T) (h : Keeps T s u) : Keeps T s (wantRemap u b line cause) := by
  unfold wantRemap
  repeat' first
    | with_reducible assumption
    | exact Sub.of rfl hT
    | with_reducible apply modMsys_keeps
    | with_reducible refine Keeps.ite ?_ ?_

theorem hbmCorrected_keeps {T : List Nat} {s u : State} {stack : ℕ} {sector : ℕ}
    (hT : Sub [8, 13, 16, 0x3411, 0x7002, 0x9000, 0x9001, 0x9010] T) (h : Keeps T s u) : Keeps T s (hbmCorrected u stack sector) := by
  unfold hbmCorrected
  repeat' first
    | with_reducible assumption
    | exact Sub.of rfl hT
    | with_reducible apply record_keeps
    | with_reducible apply bumpSat_keeps
    | with_reducible apply modMsys_keeps
    | with_reducible apply penPer_keeps
    | with_reducible apply penFixed_keeps
    | with_reducible apply noteCrossing_keeps
    | with_reducible refine Keeps.ite ?_ ?_

theorem hbmUncorrected_keeps {T : List Nat} {s u : State} {a : ℕ} {unit : ℕ}
    (hT : Sub [6, 8, 9, 16, 20, 0x3411, 0x4110, 0x4140, 0x6202, 0x7002, 0x9010] T) (h : Keeps T s u) : Keeps T s (hbmUncorrected u a unit) := by
  unfold hbmUncorrected
  repeat' first
    | with_reducible assumption
    | exact Sub.of rfl hT
    | with_reducible apply record_keeps
    | with_reducible apply bumpSat_keeps
    | with_reducible apply doNotSeal_keeps
    | with_reducible apply modMsys_keeps
    | with_reducible apply fenceChip_keeps
    | with_reducible refine Keeps.ite ?_ ?_
    | (extract_lets +onlyGivenNames x; first | refine (fun hx => ?_ : Keeps _ _ x → _) ?_ | refine (fun hx => ?_ : KeepsP _ _ x → _) ?_ | skip)
    | with_reducible intro _
    | split

theorem stagingHit_keeps {T : List Nat} {s u : State} {unit : ℕ} {w : ℕ} {kind : EccKind}
    (hT : Sub [16, 0x7002] T) (h : Keeps T s u) : Keeps T s (stagingHit u unit w kind) := by
  unfold stagingHit
  repeat' first
    | with_reducible assumption
    | exact Sub.of rfl hT
    | with_reducible apply record_keeps
    | with_reducible refine Keeps.ite ?_ ?_
    | (extract_lets +onlyGivenNames x; first | refine (fun hx => ?_ : Keeps _ _ x → _) ?_ | refine (fun hx => ?_ : KeepsP _ _ x → _) ?_ | skip)
    | with_reducible intro _
    | split

theorem sramCorrected_keeps {T : List Nat} {s u : State} {b : ℕ} {line : ℕ} {word : ℕ}
    (hT : Sub [8, 13, 16, 0x3410, 0x7002, 0x9000, 0x9001, 0x9010] T) (h : Keeps T s u) : Keeps T s (sramCorrected u b line word) := by
  unfold sramCorrected
  repeat' first
    | with_reducible assumption
    | exact Sub.of rfl hT
    | with_reducible apply record_keeps
    | with_reducible apply bumpSat_keeps
    | with_reducible apply modMsys_keeps
    | with_reducible apply penPer_keeps
    | with_reducible apply wantRemap_keeps
    | with_reducible refine Keeps.ite ?_ ?_

theorem sramUncorrected_keeps {T : List Nat} {s u : State} {b : ℕ} {line : ℕ} {unit : ℕ}
    (hT : Sub [6, 8, 16, 0x3410, 0x7002, 0x9010] T) (h : Keeps T s u) : Keeps T s (sramUncorrected u b line unit) := by
  unfold sramUncorrected
  repeat' first
    | with_reducible assumption
    | exact Sub.of rfl hT
    | with_reducible apply record_keeps
    | with_reducible apply bumpSat_keeps
    | with_reducible apply doNotSeal_keeps
    | with_reducible apply modMsys_keeps
    | with_reducible apply wantRemap_keeps
    | with_reducible refine Keeps.ite ?_ ?_
    | (extract_lets +onlyGivenNames x; first | refine (fun hx => ?_ : Keeps _ _ x → _) ?_ | refine (fun hx => ?_ : KeepsP _ _ x → _) ?_ | skip)
    | with_reducible intro _
    | split

theorem eccHit_keeps {T : List Nat} {s u : State} {unit : ℕ} {a : ℕ} {e : EccHit}
    (hT : Sub [6, 8, 9, 13, 16, 20, 0x3410, 0x3411, 0x4110, 0x4140, 0x6202, 0x7002, 0x9000, 0x9001, 0x9010] T) (h : Keeps T s u) : Keeps T s (eccHit u unit a e) := by
  unfold eccHit
  repeat' first
    | with_reducible assumption
    | exact Sub.of rfl hT
    | with_reducible apply hbmCorrected_keeps
    | with_reducible apply hbmUncorrected_keeps
    | with_reducible apply stagingHit_keeps
    | with_reducible apply sramCorrected_keeps
    | with_reducible apply sramUncorrected_keeps
    | with_reducible refine Keeps.ite ?_ ?_
    | (extract_lets +onlyGivenNames x; first | refine (fun hx => ?_ : Keeps _ _ x → _) ?_ | refine (fun hx => ?_ : KeepsP _ _ x → _) ?_ | skip)
    | with_reducible intro _
    | split

theorem chipRead_keeps {T : List Nat} {s u : State} {unit : ℕ} {a : ℕ} {n : ℕ} {ecc : List EccHit}
    (hT : Sub [6, 8, 9, 13, 16, 20, 0x3410, 0x3411, 0x4110, 0x4140, 0x6202, 0x7002, 0x9000, 0x9001, 0x9010] T) (h : Keeps T s u) : KeepsP T s (chipRead u unit a n ecc) := by
  unfold chipRead
  repeat' first
    | with_reducible assumption
    | exact Sub.of rfl hT
    | with_reducible apply each_keeps
    | with_reducible apply poisonReads_keeps
    | with_reducible apply eccHit_keeps
    | with_reducible refine Keeps.ite ?_ ?_
    | with_reducible refine KeepsP.ite ?_ ?_
    | with_reducible apply KeepsP.fst
    | (extract_lets +onlyGivenNames x; first | refine (fun hx => ?_ : Keeps _ _ x → _) ?_ | refine (fun hx => ?_ : KeepsP _ _ x → _) ?_ | skip)
    | with_reducible intro _
    | split
    | with_reducible apply KeepsP.mk

theorem readRange_keeps {T : List Nat} {s u : State} {unit : ℕ} {rs : List (ℕ × ℕ)} {ecc : List EccHit}
    (hT : Sub [6, 8, 9, 13, 16, 20, 0x3410, 0x3411, 0x4110, 0x4140, 0x6202, 0x7002, 0x9000, 0x9001, 0x9010] T) (h : Keeps T s u) : KeepsP T s (readRange u unit rs ecc) := by
  induction rs generalizing u unit ecc with
  | nil =>
    unfold readRange
    repeat' first
      | with_reducible assumption
      | exact Sub.of rfl hT
      | with_reducible apply chipRead_keeps
      | with_reducible apply ih
      | with_reducible refine Keeps.ite ?_ ?_
      | with_reducible refine KeepsP.ite ?_ ?_
      | with_reducible apply KeepsP.fst
      | with_reducible intro _
      | dsimp only
      | split
      | with_reducible apply KeepsP.mk
  | cons c r ih =>
    unfold readRange
    repeat' first
      | with_reducible assumption
      | exact Sub.of rfl hT
      | with_reducible apply chipRead_keeps
      | with_reducible apply ih
      | with_reducible refine Keeps.ite ?_ ?_
      | with_reducible refine KeepsP.ite ?_ ?_
      | with_reducible apply KeepsP.fst
      | with_reducible intro _
      | dsimp only
      | split
      | with_reducible apply KeepsP.mk

theorem loadRegs_keeps {T : List Nat} {s u : State} {p : ℕ} {status : ℕ} {reason : ℕ} {offset : ℕ} {plan : ℕ}
    (hT : Sub [0x3001] T) (h : Keeps T s u) : Keeps T s (loadRegs u p status reason offset plan) := by
  unfold loadRegs
  repeat' first
    | with_reducible assumption
    | exact Sub.of rfl hT
    | with_reducible apply wr_keeps

theorem dropStage_keeps {T : List Nat} {s u : State} {p : ℕ}
    (hT : Sub [2, 3, 6, 0x3000] T) (h : Keeps T s u) : Keeps T s (dropStage u p) := by
  unfold dropStage
  repeat' first
    | with_reducible assumption
    | exact Sub.of rfl hT
    | with_reducible apply wr_keeps
    | with_reducible apply modPart_keeps
    | with_reducible apply each_keeps
    | with_reducible apply clear_keeps
    | with_reducible refine Keeps.ite ?_ ?_
    | with_reducible intro _

theorem endLoad_keeps {T : List Nat} {s u : State} {m : ℕ} {status : ℕ} {reason : ℕ}
    (hT : Sub [2, 3, 6, 0x3000, 0x3001] T) (h : Keeps T s u) : Keeps T s (endLoad u m status reason) := by
  unfold endLoad
  repeat' first
    | with_reducible assumption
    | exact Sub.of rfl hT
    | with_reducible apply loadRegs_keeps
    | with_reducible apply dropStage_keeps
    | with_reducible refine Keeps.ite ?_ ?_

theorem modMover_keeps {T : List Nat} {s u : State} {m : ℕ} {f : Mover → Mover}
    (hT : Sub [12] T) (h : Keeps T s u) : Keeps T s (modMover u m f) := by
  unfold modMover
  repeat' first
    | with_reducible assumption
    | exact Sub.of rfl hT
    | with_reducible apply modHost_keeps
    | exact fun _ w => w
    | exact fun _ w => memWrite_wf _ _ w
    | with_reducible refine Keeps.ite ?_ ?_
    | with_reducible intro _
    | split

theorem execHbmRefresh_keeps {u : State} {stack : ℕ} {kind : Refresh} :
    OutKeeps [8] u (execHbmRefresh stack kind u) := by
  have h := Keeps.refl [8] u
  have hT := Sub.rfl (a := [8])
  unfold execHbmRefresh
  repeat' first
    | with_reducible assumption
    | exact Sub.of rfl hT
    | with_reducible apply modMsys_keeps
    | with_reducible apply OutKeeps.next

theorem zeroBelow_keeps {T : List Nat} {s u : State} {u' : ZeroUnit} {mark : ℕ}
    (hT : Sub [2, 3] T) (h : Keeps T s u) : Keeps T s (zeroBelow u u' mark) := by
  unfold zeroBelow
  repeat' first
    | with_reducible assumption
    | exact Sub.of rfl hT
    | with_reducible apply clear_keeps
    | with_reducible refine Keeps.ite ?_ ?_
    | (extract_lets +onlyGivenNames x; first | refine (fun hx => ?_ : Keeps _ _ x → _) ?_ | refine (fun hx => ?_ : KeepsP _ _ x → _) ?_ | skip)
    | with_reducible intro _
    | split

theorem zeroReport_keeps {T : List Nat} {s u : State} {p : ℕ}
    (hT : Sub [16, 0x7002] T) (h : Keeps T s u) : Keeps T s (zeroReport u p) := by
  unfold zeroReport
  repeat' first
    | with_reducible assumption
    | exact Sub.of rfl hT
    | with_reducible apply record_keeps
    | with_reducible refine Keeps.ite ?_ ?_

theorem moverPaused_keeps {T : List Nat} {s u : State} {m : ℕ} {ns : ℤ}
    (hT : Sub [12] T) (h : Keeps T s u) : Keeps T s (moverPaused u m ns) := by
  unfold moverPaused
  repeat' first
    | with_reducible assumption
    | exact Sub.of rfl hT
    | with_reducible apply modMover_keeps

theorem denyReq_keeps {T : List Nat} {s u : State} {r : MemReq}
    (hT : Sub [6, 16, 0x7002] T) (h : Keeps T s u) : Keeps T s (denyReq u r) := by
  unfold denyReq
  repeat' first
    | with_reducible assumption
    | exact Sub.of rfl hT
    | with_reducible apply record_keeps
    | with_reducible apply doNotSeal_keeps
    | with_reducible refine Keeps.ite ?_ ?_

theorem dropLate_keeps {T : List Nat} {s u : State} {unit : ℕ} {gen : ℕ} {chip : ℕ}
    (hT : Sub [14, 16, 0x2021, 0x7002] T) (h : Keeps T s u) : Keeps T s (dropLate u unit gen chip) := by
  unfold dropLate
  repeat' first
    | with_reducible assumption
    | exact Sub.of rfl hT
    | with_reducible apply bumpSat_keeps
    | with_reducible apply modRst_keeps
    | with_reducible apply record_keeps
    | with_reducible refine Keeps.ite ?_ ?_

theorem writeRange_keeps {T : List Nat} {s u : State} {unit : ℕ} {rs : List (ℕ × ℕ)} {data : List Byte} {bad : Bool}
    (hT : Sub [2, 3, 6, 16, 0x3021, 0x6101, 0x6102, 0x7002] T) (h : Keeps T s u) : Keeps T s (writeRange u unit rs data bad) := by
  induction rs generalizing u unit data bad with
  | nil =>
    unfold writeRange
    repeat' first
      | with_reducible assumption
      | exact Sub.of rfl hT
      | with_reducible apply chipWrite_keeps
      | with_reducible apply ih
      | with_reducible refine Keeps.ite ?_ ?_
      | with_reducible intro _
      | dsimp only
      | split
  | cons c r ih =>
    unfold writeRange
    repeat' first
      | with_reducible assumption
      | exact Sub.of rfl hT
      | with_reducible apply chipWrite_keeps
      | with_reducible apply ih
      | with_reducible refine Keeps.ite ?_ ?_
      | with_reducible intro _
      | dsimp only
      | split

theorem serveReq_keeps {T : List Nat} {s u : State} {r : MemReq} {rs : List (ℕ × ℕ)}
    (hT : Sub [2, 3, 6, 8, 9, 13, 16, 20, 0x3021, 0x3410, 0x3411, 0x4110, 0x4140, 0x6101, 0x6102, 0x6202, 0x7002, 0x9000, 0x9001, 0x9010] T) (h : Keeps T s u) : Keeps T s (serveReq u r rs) := by
  unfold serveReq
  repeat' first
    | with_reducible assumption
    | exact Sub.of rfl hT
    | with_reducible apply writeRange_keeps
    | with_reducible apply readRange_keeps
    | with_reducible apply emit_keeps
    | with_reducible refine Keeps.ite ?_ ?_
    | with_reducible refine KeepsP.ite ?_ ?_
    | with_reducible apply KeepsP.fst

theorem releaseHeld_keeps {T : List Nat} {s u : State} {h' : HeldAccess}
    (hT : Sub [2, 3, 6, 8, 9, 12, 13, 14, 16, 20, 0x2021, 0x3021, 0x3403, 0x3410, 0x3411, 0x4110, 0x4140, 0x6101, 0x6102, 0x6202, 0x7002, 0x9000, 0x9001, 0x9010] T) (h : Keeps T s u) : Keeps T s (releaseHeld u h') := by
  unfold releaseHeld
  repeat' first
    | with_reducible assumption
    | exact Sub.of rfl hT
    | with_reducible apply raise_keeps
    | with_reducible apply moverPaused_keeps
    | with_reducible apply denyReq_keeps
    | with_reducible apply dropLate_keeps
    | with_reducible apply modMsys_keeps
    | with_reducible apply serveReq_keeps
    | with_reducible refine Keeps.ite ?_ ?_
    | (extract_lets +onlyGivenNames x; first | refine (fun hx => ?_ : Keeps _ _ x → _) ?_ | refine (fun hx => ?_ : KeepsP _ _ x → _) ?_ | skip)
    | with_reducible intro _
    | split

theorem execSramEccWriteback_keeps {u : State} {block : ℕ} {word : ℕ} :
    OutKeeps [8] u (execSramEccWriteback block word u) := by
  have h := Keeps.refl [8] u
  have hT := Sub.rfl (a := [8])
  unfold execSramEccWriteback
  repeat' first
    | with_reducible assumption
    | exact Sub.of rfl hT
    | with_reducible apply modMsys_keeps
    | with_reducible apply OutKeeps.next

theorem holdReq_keeps {T : List Nat} {s u : State} {r : MemReq} {rs : List (ℕ × ℕ)} {u' : ZeroUnit} {pos : ℕ} {m : Option ℕ}
    (hT : Sub [8, 0x3403] T) (h : Keeps T s u) : Keeps T s (holdReq u r rs u' pos m) := by
  unfold holdReq
  repeat' first
    | with_reducible assumption
    | exact Sub.of rfl hT
    | with_reducible apply modMsys_keeps
    | with_reducible apply bumpSat_keeps

theorem memRequest_keeps {T : List Nat} {s u : State} {r : MemReq}
    (hT : Sub [2, 3, 6, 8, 9, 13, 16, 20, 0x3021, 0x3403, 0x3410, 0x3411, 0x4110, 0x4140, 0x6101, 0x6102, 0x6202, 0x7002, 0x9000, 0x9001, 0x9010] T) (h : Keeps T s u) : Keeps T s (memRequest u r) := by
  unfold memRequest
  repeat' first
    | with_reducible assumption
    | exact Sub.of rfl hT
    | with_reducible apply denyReq_keeps
    | with_reducible apply emit_keeps
    | with_reducible apply holdReq_keeps
    | with_reducible apply serveReq_keeps
    | with_reducible refine Keeps.ite ?_ ?_
    | (extract_lets +onlyGivenNames x; first | refine (fun hx => ?_ : Keeps _ _ x → _) ?_ | refine (fun hx => ?_ : KeepsP _ _ x → _) ?_ | skip)
    | with_reducible intro _
    | split

theorem readRuns_keeps {T : List Nat} {s u : State} {unit : ℕ} {rs : List (ℕ × ℕ)} {ecc : List EccHit}
    (hT : Sub [6, 8, 9, 13, 16, 20, 0x3410, 0x3411, 0x4110, 0x4140, 0x6202, 0x7002, 0x9000, 0x9001, 0x9010] T) (h : Keeps T s u) : KeepsP T s (readRuns u unit rs ecc) := by
  induction rs generalizing u unit ecc with
  | nil =>
    unfold readRuns
    repeat' first
      | with_reducible assumption
      | exact Sub.of rfl hT
      | with_reducible apply chipRead_keeps
      | with_reducible apply ih
      | with_reducible refine Keeps.ite ?_ ?_
      | with_reducible refine KeepsP.ite ?_ ?_
      | with_reducible apply KeepsP.fst
      | with_reducible intro _
      | dsimp only
      | split
      | with_reducible apply KeepsP.mk
  | cons c r ih =>
    unfold readRuns
    repeat' first
      | with_reducible assumption
      | exact Sub.of rfl hT
      | with_reducible apply chipRead_keeps
      | with_reducible apply ih
      | with_reducible refine Keeps.ite ?_ ?_
      | with_reducible refine KeepsP.ite ?_ ?_
      | with_reducible apply KeepsP.fst
      | with_reducible intro _
      | dsimp only
      | split
      | with_reducible apply KeepsP.mk

theorem execHbmPatrolRead_keeps {u : State} {stack : ℕ} {sector : ℕ} {ecc : Option EccKind} {last : Bool} :
    OutKeeps [6, 8, 9, 13, 16, 20, 0x3410, 0x3411, 0x3420, 0x4110, 0x4140, 0x6202, 0x7002, 0x9000, 0x9001, 0x9010] u (execHbmPatrolRead stack sector ecc last u) := by
  have h := Keeps.refl [6, 8, 9, 13, 16, 20, 0x3410, 0x3411, 0x3420, 0x4110, 0x4140, 0x6202, 0x7002, 0x9000, 0x9001, 0x9010] u
  have hT := Sub.rfl (a := [6, 8, 9, 13, 16, 20, 0x3410, 0x3411, 0x3420, 0x4110, 0x4140, 0x6202, 0x7002, 0x9000, 0x9001, 0x9010])
  unfold execHbmPatrolRead
  repeat' first
    | with_reducible assumption
    | exact Sub.of rfl hT
    | with_reducible apply modMsys_keeps
    | with_reducible apply poisonReads_keeps
    | with_reducible apply hbmCorrected_keeps
    | with_reducible apply hbmUncorrected_keeps
    | with_reducible apply bumpSat_keeps
    | with_reducible apply OutKeeps.next
    | with_reducible refine Keeps.ite ?_ ?_
    | (extract_lets +onlyGivenNames x; first | refine (fun hx => ?_ : Keeps _ _ x → _) ?_ | refine (fun hx => ?_ : KeepsP _ _ x → _) ?_ | skip)
    | with_reducible intro _
    | split

theorem moverDone_keeps {T : List Nat} {s u : State} {m : ℕ} {status : ℕ} {reason : ℕ} {result : ℕ}
    (hT : Sub [12] T) (h : Keeps T s u) : Keeps T s (moverDone u m status reason result) := by
  unfold moverDone
  repeat' first
    | with_reducible assumption
    | exact Sub.of rfl hT
    | with_reducible apply modMover_keeps

theorem execHbmOdeccPoll_keeps {u : State} {stack : ℕ} {count : ℕ} :
    OutKeeps [0x3411] u (execHbmOdeccPoll stack count u) := by
  have h := Keeps.refl [0x3411] u
  have hT := Sub.rfl (a := [0x3411])
  unfold execHbmOdeccPoll
  repeat' first
    | with_reducible assumption
    | exact Sub.of rfl hT
    | with_reducible apply bumpSat_keeps
    | with_reducible apply OutKeeps.next

theorem moverFail_keeps {T : List Nat} {s u : State} {m : ℕ} {status : ℕ} {reason : ℕ} {result : ℕ}
    (hT : Sub [2, 3, 6, 12, 0x3000, 0x3001] T) (h : Keeps T s u) : Keeps T s (moverFail u m status reason result) := by
  unfold moverFail
  repeat' first
    | with_reducible assumption
    | exact Sub.of rfl hT
    | with_reducible apply moverDone_keeps
    | with_reducible apply endLoad_keeps

theorem releaseBelow_keeps {T : List Nat} {s u : State} {u' : ZeroUnit} {mark : ℕ}
    (hT : Sub [2, 3, 6, 8, 9, 12, 13, 14, 16, 20, 0x2021, 0x3021, 0x3403, 0x3410, 0x3411, 0x4110, 0x4140, 0x6101, 0x6102, 0x6202, 0x7002, 0x9000, 0x9001, 0x9010] T) (h : Keeps T s u) : Keeps T s (releaseBelow u u' mark) := by
  unfold releaseBelow
  repeat' first
    | with_reducible assumption
    | exact Sub.of rfl hT
    | with_reducible apply each_keeps
    | with_reducible apply modMsys_keeps
    | with_reducible apply releaseHeld_keeps
    | with_reducible refine Keeps.ite ?_ ?_
    | with_reducible intro _

theorem zeroComplete_keeps {T : List Nat} {s u : State} {u' : ZeroUnit}
    (hT : Sub [2, 3, 5, 16, 0x3401, 0x3402, 0x3403, 0x7002] T) (h : Keeps T s u) : Keeps T s (zeroComplete u u') := by
  unfold zeroComplete
  repeat' first
    | with_reducible assumption
    | exact Sub.of rfl hT
    | with_reducible apply wr_keeps
    | with_reducible apply modBlock_keeps
    | with_reducible apply zeroBelow_keeps
    | with_reducible apply zeroReport_keeps
    | with_reducible apply zeroNext_keeps
    | with_reducible refine Keeps.ite ?_ ?_
    | (extract_lets +onlyGivenNames x; first | refine (fun hx => ?_ : Keeps _ _ x → _) ?_ | refine (fun hx => ?_ : KeepsP _ _ x → _) ?_ | skip)
    | with_reducible intro _
    | split

theorem execPatrolOverrun_keeps {u : State} {stack : ℕ} {left : ℕ} :
    OutKeeps [16, 0x7002] u (execPatrolOverrun stack left u) := by
  have h := Keeps.refl [16, 0x7002] u
  have hT := Sub.rfl (a := [16, 0x7002])
  unfold execPatrolOverrun
  repeat' first
    | with_reducible assumption
    | exact Sub.of rfl hT
    | with_reducible apply record_keeps
    | with_reducible apply OutKeeps.next

end Sys2Proof.Machine
end

