-- ==== Sys2Proof/Laws/KeepsPartition.lean ====
section
/-! SUPPORT. What the functions of `Machine/Partition.lean` keep. -/

namespace Sys2Proof.Machine

open Sys2Proof

theorem marginRecord_keeps {T : List Nat} {s u : State} {m : MarginTest} {result : ℕ}
    (hT : Sub [0x9011] T) (h : Keeps T s u) : Keeps T s (marginRecord u m result) := by
  unfold marginRecord
  repeat' first
    | with_reducible assumption
    | exact Sub.of rfl hT
    | with_reducible apply wr_keeps

theorem modObs_keeps {T : List Nat} {s u : State} {f : Observe → Observe}
    (hT : Sub [19] T) (h : Keeps T s u) : Keeps T s (State.modObs u f) := by
  unfold State.modObs
  repeat' first
    | with_reducible assumption
    | exact Sub.of rfl hT
    | with_reducible apply setObs_keeps

theorem dropAreas_keeps {T : List Nat} {s u : State}
    (hT : Sub [7] T) (h : Keeps T s u) : Keeps T s (dropAreas u) := by
  unfold dropAreas
  repeat' first
    | with_reducible assumption
    | exact Sub.of rfl hT
    | with_reducible apply setBuddies_keeps

theorem marginEnd_keeps {T : List Nat} {s u : State} {result : ℕ}
    (hT : Sub [7, 16, 19, 0x3401, 0x3402, 0x3403, 0x7002, 0x9011] T) (h : Keeps T s u) : Keeps T s (marginEnd u result) := by
  unfold marginEnd
  repeat' first
    | with_reducible assumption
    | exact Sub.of rfl hT
    | with_reducible apply zeroStart_keeps
    | with_reducible apply modObs_keeps
    | with_reducible apply marginRecord_keeps
    | with_reducible refine Keeps.ite ?_ ?_
    | with_reducible intro _
    | split

theorem blockPart_keeps {T : List Nat} {s u : State} {b : ℕ} {v : ℕ}
    (hT : Sub [7, 16, 19, 0x3101, 0x3401, 0x3402, 0x3403, 0x7002, 0x9011] T) (h : Keeps T s u) : KeepsP T s (blockPart u b v) := by
  unfold blockPart
  repeat' first
    | with_reducible assumption
    | exact Sub.of rfl hT
    | with_reducible apply deny_keeps
    | with_reducible apply marginEnd_keeps
    | with_reducible apply done_keeps
    | with_reducible apply zeroStart_keeps
    | with_reducible apply wr_keeps
    | with_reducible refine Keeps.ite ?_ ?_
    | with_reducible refine KeepsP.ite ?_ ?_
    | with_reducible apply KeepsP.fst
    | (extract_lets +onlyGivenNames x; first | refine (fun hx => ?_ : Keeps _ _ x → _) ?_ | refine (fun hx => ?_ : KeepsP _ _ x → _) ?_ | skip)
    | with_reducible intro _
    | split

theorem execCmpBlockPart_keeps {u : State} {who : Who} {inst : ℕ} {value : ℕ} :
    OutKeeps [7, 16, 19, 20, 0x3101, 0x3401, 0x3402, 0x3403, 0x7002, 0x9011] u (execCmpBlockPart who inst value u) := by
  have h := Keeps.refl [7, 16, 19, 20, 0x3101, 0x3401, 0x3402, 0x3403, 0x7002, 0x9011] u
  have hT := Sub.rfl (a := [7, 16, 19, 20, 0x3101, 0x3401, 0x3402, 0x3403, 0x7002, 0x9011])
  unfold execCmpBlockPart
  repeat' first
    | with_reducible assumption
    | exact Sub.of rfl hT
    | with_reducible apply guard_keeps
    | with_reducible apply blockPart_keeps
    | with_reducible apply OutKeeps.next
    | with_reducible refine Keeps.ite ?_ ?_
    | with_reducible refine KeepsP.ite ?_ ?_
    | with_reducible apply KeepsP.fst
    | with_reducible intro _

theorem clearBlockCounters_keeps {T : List Nat} {s u : State} {b : ℕ}
    (hT : Sub [19, 31] T) (h : Keeps T s u) : Keeps T s (clearBlockCounters u b) := by
  unfold clearBlockCounters
  repeat' first
    | with_reducible assumption
    | exact Sub.of rfl hT
    | with_reducible apply modObs_keeps
    | with_reducible apply odClear_keeps

theorem denyFetched_keeps {T : List Nat} {s u : State} {p : ℕ}
    (hT : Sub [12] T) (h : Keeps T s u) : Keeps T s (denyFetched u p) := by
  unfold denyFetched
  repeat' first
    | with_reducible assumption
    | exact Sub.of rfl hT
    | with_reducible apply setHost_keeps
    | exact fun w => w.hostMem

theorem partOwner_keeps {T : List Nat} {s u : State} {p : ℕ} {v : ℕ}
    (hT : Sub [7, 12, 16, 19, 31] T) (h : Keeps T s u) : KeepsP T s (partOwner u p v) := by
  unfold partOwner
  repeat' first
    | with_reducible assumption
    | exact Sub.of rfl hT
    | with_reducible apply deny_keeps
    | with_reducible apply done_keeps
    | with_reducible apply denyFetched_keeps
    | with_reducible apply each_keeps
    | with_reducible apply wr_keeps
    | with_reducible apply clearBlockCounters_keeps
    | with_reducible apply zeroStart_keeps
    | with_reducible refine Keeps.ite ?_ ?_
    | with_reducible refine KeepsP.ite ?_ ?_
    | with_reducible apply KeepsP.fst
    | exact Sub.reg _ hT rfl
    | (extract_lets +onlyGivenNames x; first | refine (fun hx => ?_ : Keeps _ _ x → _) ?_ | refine (fun hx => ?_ : KeepsP _ _ x → _) ?_ | skip)
    | with_reducible intro _

theorem execCmpPartOwner_keeps {u : State} {who : Who} {inst : ℕ} {value : ℕ} :
    OutKeeps [7, 12, 16, 19, 20, 31] u (execCmpPartOwner who inst value u) := by
  have h := Keeps.refl [7, 12, 16, 19, 20, 31] u
  have hT := Sub.rfl (a := [7, 12, 16, 19, 20, 31])
  unfold execCmpPartOwner
  repeat' first
    | with_reducible assumption
    | exact Sub.of rfl hT
    | with_reducible apply guard_keeps
    | with_reducible apply partOwner_keeps
    | with_reducible apply OutKeeps.next
    | with_reducible refine Keeps.ite ?_ ?_
    | with_reducible refine KeepsP.ite ?_ ?_
    | with_reducible apply KeepsP.fst
    | exact Sub.reg _ hT rfl
    | with_reducible intro _

theorem partTag_keeps {T : List Nat} {s u : State} {p : ℕ} {v : ℕ}
    (hT : Sub [0x3100, 0x6203] T) (h : Keeps T s u) : KeepsP T s (partTag u p v) := by
  unfold partTag
  repeat' first
    | with_reducible assumption
    | exact Sub.of rfl hT
    | with_reducible apply deny_keeps
    | with_reducible apply done_keeps
    | with_reducible apply setTree_keeps
    | with_reducible apply wr_keeps
    | with_reducible refine Keeps.ite ?_ ?_
    | with_reducible refine KeepsP.ite ?_ ?_

theorem sliceUse_keeps {T : List Nat} {s u : State} {k : ℕ} {v : ℕ}
    (hT : Sub [7, 16, 0x3400, 0x3401, 0x3402, 0x3403, 0x7002] T) (h : Keeps T s u) : KeepsP T s (sliceUse u k v) := by
  unfold sliceUse
  repeat' first
    | with_reducible assumption
    | exact Sub.of rfl hT
    | with_reducible apply deny_keeps
    | with_reducible apply done_keeps
    | with_reducible apply zeroStart_keeps
    | with_reducible apply dropAreas_keeps
    | with_reducible apply wr_keeps
    | with_reducible refine Keeps.ite ?_ ?_
    | with_reducible refine KeepsP.ite ?_ ?_

theorem execMemSliceUse_keeps {u : State} {who : Who} {inst : ℕ} {value : ℕ} :
    OutKeeps [7, 16, 20, 0x3400, 0x3401, 0x3402, 0x3403, 0x7002] u (execMemSliceUse who inst value u) := by
  have h := Keeps.refl [7, 16, 20, 0x3400, 0x3401, 0x3402, 0x3403, 0x7002] u
  have hT := Sub.rfl (a := [7, 16, 20, 0x3400, 0x3401, 0x3402, 0x3403, 0x7002])
  unfold execMemSliceUse
  repeat' first
    | with_reducible assumption
    | exact Sub.of rfl hT
    | with_reducible apply guard_keeps
    | with_reducible apply sliceUse_keeps
    | with_reducible apply OutKeeps.next
    | with_reducible refine Keeps.ite ?_ ?_
    | with_reducible refine KeepsP.ite ?_ ?_
    | with_reducible apply KeepsP.fst
    | with_reducible intro _

theorem sliceHost_keeps {T : List Nat} {s u : State} {k : ℕ} {v : ℕ}
    (hT : Sub [7, 0x3400] T) (h : Keeps T s u) : KeepsP T s (sliceHost u k v) := by
  unfold sliceHost
  repeat' first
    | with_reducible assumption
    | exact Sub.of rfl hT
    | with_reducible apply deny_keeps
    | with_reducible apply done_keeps
    | with_reducible apply dropAreas_keeps
    | with_reducible apply wr_keeps
    | with_reducible refine Keeps.ite ?_ ?_
    | with_reducible refine KeepsP.ite ?_ ?_

theorem slicePartW_keeps {T : List Nat} {s u : State} {k : ℕ} {v : ℕ}
    (hT : Sub [7, 16, 0x3400, 0x3401, 0x3402, 0x3403, 0x7002] T) (h : Keeps T s u) : KeepsP T s (slicePartW u k v) := by
  unfold slicePartW
  repeat' first
    | with_reducible assumption
    | exact Sub.of rfl hT
    | with_reducible apply deny_keeps
    | with_reducible apply done_keeps
    | with_reducible apply zeroStart_keeps
    | with_reducible apply wr_keeps
    | with_reducible refine Keeps.ite ?_ ?_
    | with_reducible refine KeepsP.ite ?_ ?_

theorem execCmpPartTag_keeps {u : State} {who : Who} {inst : ℕ} {value : ℕ} :
    OutKeeps [20, 0x3100, 0x6203] u (execCmpPartTag who inst value u) := by
  have h := Keeps.refl [20, 0x3100, 0x6203] u
  have hT := Sub.rfl (a := [20, 0x3100, 0x6203])
  unfold execCmpPartTag
  repeat' first
    | with_reducible assumption
    | exact Sub.of rfl hT
    | with_reducible apply guard_keeps
    | with_reducible apply partTag_keeps
    | with_reducible apply OutKeeps.next
    | with_reducible refine Keeps.ite ?_ ?_
    | with_reducible refine KeepsP.ite ?_ ?_
    | with_reducible apply KeepsP.fst
    | with_reducible intro _

theorem execMemSlicePart_keeps {u : State} {who : Who} {inst : ℕ} {value : ℕ} :
    OutKeeps [7, 16, 20, 0x3400, 0x3401, 0x3402, 0x3403, 0x7002] u (execMemSlicePart who inst value u) := by
  have h := Keeps.refl [7, 16, 20, 0x3400, 0x3401, 0x3402, 0x3403, 0x7002] u
  have hT := Sub.rfl (a := [7, 16, 20, 0x3400, 0x3401, 0x3402, 0x3403, 0x7002])
  unfold execMemSlicePart
  repeat' first
    | with_reducible assumption
    | exact Sub.of rfl hT
    | with_reducible apply guard_keeps
    | with_reducible apply slicePartW_keeps
    | with_reducible apply OutKeeps.next
    | with_reducible refine Keeps.ite ?_ ?_
    | with_reducible refine KeepsP.ite ?_ ?_
    | with_reducible apply KeepsP.fst
    | with_reducible intro _

theorem execMemSliceHost_keeps {u : State} {who : Who} {inst : ℕ} {value : ℕ} :
    OutKeeps [7, 20, 0x3400] u (execMemSliceHost who inst value u) := by
  have h := Keeps.refl [7, 20, 0x3400] u
  have hT := Sub.rfl (a := [7, 20, 0x3400])
  unfold execMemSliceHost
  repeat' first
    | with_reducible assumption
    | exact Sub.of rfl hT
    | with_reducible apply guard_keeps
    | with_reducible apply sliceHost_keeps
    | with_reducible apply OutKeeps.next
    | with_reducible refine Keeps.ite ?_ ?_
    | with_reducible refine KeepsP.ite ?_ ?_
    | with_reducible apply KeepsP.fst
    | with_reducible intro _

end Sys2Proof.Machine
end

