-- ==== Sys2Proof/Laws/KeepsFreeze.lean ====
section
/-! SUPPORT. What the functions of `Machine/Freeze.lean` keep. -/

namespace Sys2Proof.Machine

open Sys2Proof

theorem shadowAll_keeps {T : List Nat} {s u : State}
    (hT : Sub [19, 21] T) (h : Keeps T s u) : Keeps T s (shadowAll u) := by
  unfold shadowAll
  repeat' first
    | with_reducible assumption
    | exact Sub.of rfl hT
    | with_reducible apply tick_keeps
    | with_reducible apply modObs_keeps

theorem execFreezeFire_keeps {u : State} :
    OutKeeps [19, 21, 0x8100] u (execFreezeFire u) := by
  have h := Keeps.refl [19, 21, 0x8100] u
  have hT := Sub.rfl (a := [19, 21, 0x8100])
  unfold execFreezeFire
  repeat' first
    | with_reducible assumption
    | exact Sub.of rfl hT
    | with_reducible apply bumpSat_keeps
    | with_reducible apply wr_keeps
    | with_reducible apply shadowAll_keeps
    | with_reducible apply modObs_keeps
    | with_reducible apply OutKeeps.next
    | with_reducible refine Keeps.ite ?_ ?_
    | (extract_lets +onlyGivenNames x; first | refine (fun hx => ?_ : Keeps _ _ x → _) ?_ | refine (fun hx => ?_ : KeepsP _ _ x → _) ?_ | skip)
    | with_reducible intro _
    | split

theorem freezeArm_keeps {T : List Nat} {s u : State} {v : ℕ}
    (hT : Sub [19, 0x8100] T) (h : Keeps T s u) : KeepsP T s (freezeArm u v) := by
  unfold freezeArm
  repeat' first
    | with_reducible assumption
    | exact Sub.of rfl hT
    | with_reducible apply wr_keeps
    | with_reducible apply done_keeps
    | with_reducible apply modObs_keeps
    | with_reducible apply bumpSat_keeps
    | with_reducible refine Keeps.ite ?_ ?_
    | with_reducible refine KeepsP.ite ?_ ?_

theorem execFrzAt_keeps {u : State} {who : Who} {value : ℕ} :
    OutKeeps [19, 20, 0x8100] u (execFrzAt who value u) := by
  have h := Keeps.refl [19, 20, 0x8100] u
  have hT := Sub.rfl (a := [19, 20, 0x8100])
  unfold execFrzAt
  repeat' first
    | with_reducible assumption
    | exact Sub.of rfl hT
    | with_reducible apply guard_keeps
    | with_reducible apply freezeArm_keeps
    | with_reducible apply OutKeeps.next
    | with_reducible refine Keeps.ite ?_ ?_
    | with_reducible refine KeepsP.ite ?_ ?_
    | with_reducible apply KeepsP.fst
    | with_reducible intro _

end Sys2Proof.Machine
end

