-- ==== Sys2Proof/Laws/KeepsFlags.lean ====
section
/-! SUPPORT. What the functions of `Machine/Flags.lean` keep. -/

namespace Sys2Proof.Machine

open Sys2Proof

theorem countArith_keeps {T : List Nat} {s u : State} {b : ℕ} {a : Arith}
    (hT : Sub [0x3040] T) (h : Keeps T s u) : Keeps T s (countArith u b a) := by
  unfold countArith
  repeat' first
    | with_reducible assumption
    | exact Sub.of rfl hT
    | with_reducible apply bumpSat_keeps

end Sys2Proof.Machine
end

