-- ==== Sys2Proof/Laws/KeepsOperands.lean ====
section
/-! SUPPORT. What the functions of `Machine/Operands.lean` keep. -/

namespace Sys2Proof.Machine

open Sys2Proof

theorem seqReg_sub {a T : List Nat} {c : SeqId} (ha : subT [0x3020] a = true) (hT : Sub a T) :
    Sub [regPlace (seqReg c)] T := by
  cases c <;> exact Sub.of ha hT

theorem planWrite_keeps {T : List Nat} {s u : State} {unit : ℕ} {a : ℕ} {bs : List Byte} {bad : Bool}
    (hT : Sub [2, 3, 6, 16, 0x3021, 0x6101, 0x6102, 0x7002] T) (h : Keeps T s u) : Keeps T s (planWrite u unit a bs bad) := by
  unfold planWrite
  repeat' first
    | with_reducible assumption
    | exact Sub.of rfl hT
    | with_reducible apply chipWrite_keeps
    | with_reducible apply bumpSat_keeps
    | with_reducible refine Keeps.ite ?_ ?_

theorem planWriteAll_keeps {T : List Nat} {s u : State} {unit : ℕ} {rs : List (ℕ × ℕ)} {bs : List Byte} {bad : Bool}
    (hT : Sub [2, 3, 6, 16, 0x3021, 0x6101, 0x6102, 0x7002] T) (h : Keeps T s u) : Keeps T s (planWriteAll u unit rs bs bad) := by
  induction rs generalizing u unit bs bad with
  | nil =>
    unfold planWriteAll
    repeat' first
      | with_reducible assumption
      | exact Sub.of rfl hT
      | with_reducible apply planWrite_keeps
      | with_reducible apply ih
      | with_reducible refine Keeps.ite ?_ ?_
      | with_reducible intro _
      | dsimp only
      | split
  | cons c r ih =>
    unfold planWriteAll
    repeat' first
      | with_reducible assumption
      | exact Sub.of rfl hT
      | with_reducible apply planWrite_keeps
      | with_reducible apply ih
      | with_reducible refine Keeps.ite ?_ ?_
      | with_reducible intro _
      | dsimp only
      | split

theorem denyPlan_keeps {T : List Nat} {s u : State} {unit : ℕ} {b : ℕ} {a : ℕ}
    (hT : Sub [6, 16, 0x7002] T) (h : Keeps T s u) : Keeps T s (denyPlan u unit b a) := by
  unfold denyPlan
  repeat' first
    | with_reducible assumption
    | exact Sub.of rfl hT
    | with_reducible apply doNotSeal_keeps
    | with_reducible apply record_keeps

theorem planStore_keeps {T : List Nat} {s u : State} {unit : ℕ} {b : ℕ} {a : ℕ} {bs : List Byte} {bad : Bool}
    (hT : Sub [2, 3, 6, 16, 0x3021, 0x6101, 0x6102, 0x7002] T) (h : Keeps T s u) : Keeps T s (planStore u unit b a bs bad) := by
  unfold planStore
  repeat' first
    | with_reducible assumption
    | exact Sub.of rfl hT
    | with_reducible apply planWriteAll_keeps
    | with_reducible apply denyPlan_keeps
    | with_reducible refine Keeps.ite ?_ ?_
    | with_reducible intro _
    | split

theorem planRead_keeps {T : List Nat} {s u : State} {unit : ℕ} {b : ℕ} {a : ℕ} {n : ℕ} {ecc : List EccHit}
    (hT : Sub [6, 8, 9, 13, 16, 20, 0x3410, 0x3411, 0x4110, 0x4140, 0x6202, 0x7002, 0x9000, 0x9001, 0x9010] T) (h : Keeps T s u) : KeepsP T s (planRead u unit b a n ecc) := by
  unfold planRead
  repeat' first
    | with_reducible assumption
    | exact Sub.of rfl hT
    | with_reducible apply readRange_keeps
    | with_reducible apply denyPlan_keeps
    | with_reducible refine Keeps.ite ?_ ?_
    | with_reducible refine KeepsP.ite ?_ ?_
    | with_reducible apply KeepsP.fst
    | with_reducible intro _
    | split
    | with_reducible apply KeepsP.mk

theorem noteConflicts_keeps {T : List Nat} {s u : State} {b : ℕ} {l : List BankConflict}
    (hT : Sub [16, 0x3021, 0x7002] T) (h : Keeps T s u) : Keeps T s (noteConflicts u b l) := by
  unfold noteConflicts
  repeat' first
    | with_reducible assumption
    | exact Sub.of rfl hT
    | with_reducible apply each_keeps
    | with_reducible apply record_keeps
    | with_reducible apply bumpSat_keeps
    | with_reducible refine Keeps.ite ?_ ?_
    | (extract_lets +onlyGivenNames x; first | refine (fun hx => ?_ : Keeps _ _ x → _) ?_ | refine (fun hx => ?_ : KeepsP _ _ x → _) ?_ | skip)
    | with_reducible intro _

theorem failSeqAt_keeps {T : List Nat} {s u : State} {b : ℕ} {c : SeqId} {cause : ℕ} {seg : ℕ} {took : Bool}
    (hT : Sub [5, 6, 9, 13, 16, 20, 0x3020, 0x4110, 0x4140, 0x6202, 0x7002, 0x9000, 0x9001] T) (h : Keeps T s u) : Keeps T s (failSeqAt u b c cause seg took) := by
  unfold failSeqAt
  repeat' first
    | with_reducible assumption
    | exact Sub.of rfl hT
    | with_reducible apply record_keeps
    | with_reducible apply wr_keeps
    | with_reducible apply penDecay_keeps
    | with_reducible apply doNotSeal_keeps
    | with_reducible apply modBlock_keeps
    | with_reducible apply fenceChip_keeps
    | exact seqReg_sub rfl hT
    | with_reducible refine Keeps.ite ?_ ?_

theorem failSeq_keeps {T : List Nat} {s u : State} {b : ℕ} {c : SeqId} {cause : ℕ}
    (hT : Sub [5, 6, 9, 13, 16, 20, 0x3020, 0x4110, 0x4140, 0x6202, 0x7002, 0x9000, 0x9001] T) (h : Keeps T s u) : Keeps T s (failSeq u b c cause) := by
  unfold failSeq
  repeat' first
    | with_reducible assumption
    | exact Sub.of rfl hT
    | with_reducible apply failSeqAt_keeps

theorem accept_keeps {T : List Nat} {s u : State} {i : Issue} {con : ℕ}
    (hT : Sub [5, 6, 9, 13, 16, 20, 0x3020, 0x3021, 0x4110, 0x4140, 0x6202, 0x7002, 0x9000, 0x9001] T) (h : Keeps T s u) : KeepsP T s (accept u i con) := by
  unfold accept
  repeat' first
    | with_reducible assumption
    | exact Sub.of rfl hT
    | with_reducible apply noteConflicts_keeps
    | with_reducible apply modBlock_keeps
    | with_reducible apply bumpSat_keeps
    | with_reducible apply failSeq_keeps
    | with_reducible refine Keeps.ite ?_ ?_
    | with_reducible refine KeepsP.ite ?_ ?_
    | with_reducible apply KeepsP.fst
    | (extract_lets +onlyGivenNames x; first | refine (fun hx => ?_ : Keeps _ _ x → _) ?_ | refine (fun hx => ?_ : KeepsP _ _ x → _) ?_ | skip)
    | with_reducible intro _
    | split
    | with_reducible apply KeepsP.mk

theorem readLines_keeps {T : List Nat} {s u : State} {unit : ℕ} {b : ℕ} {line : ℕ} {n : ℕ} {ecc : List EccHit}
    (hT : Sub [6, 8, 9, 13, 16, 20, 0x3410, 0x3411, 0x4110, 0x4140, 0x6202, 0x7002, 0x9000, 0x9001, 0x9010] T) (h : Keeps T s u) : KeepsP T s (readLines u unit b line n ecc) := by
  unfold readLines
  repeat' first
    | with_reducible assumption
    | exact Sub.of rfl hT
    | with_reducible apply readRange_keeps

theorem issueSlot_keeps {T : List Nat} {s u : State} {i : Issue} {con : ℕ} {f : State → State} (hf : ∀ v, Keeps T s v → Keeps T s (f v))
    (hT : Sub [5, 6, 9, 13, 16, 20, 0x3020, 0x3021, 0x4110, 0x4140, 0x6202, 0x7002, 0x9000, 0x9001] T) (h : Keeps T s u) : Keeps T s (issueSlot u i con f) := by
  unfold issueSlot
  repeat' first
    | with_reducible assumption
    | exact Sub.of rfl hT
    | with_reducible apply accept_keeps
    | with_reducible apply hf
    | with_reducible refine Keeps.ite ?_ ?_
    | with_reducible refine KeepsP.ite ?_ ?_
    | with_reducible apply KeepsP.fst

theorem readEach_keeps {T : List Nat} {s u : State} {unit : ℕ} {b : ℕ} {line : ℕ} {n : ℕ} {ecc : List EccHit}
    (hT : Sub [6, 8, 9, 13, 16, 20, 0x3410, 0x3411, 0x4110, 0x4140, 0x6202, 0x7002, 0x9000, 0x9001, 0x9010] T) (h : Keeps T s u) : KeepsP T s (readEach u unit b line n ecc) := by
  induction n generalizing u unit b line ecc with
  | zero =>
    unfold readEach
    repeat' first
      | with_reducible assumption
      | exact Sub.of rfl hT
      | with_reducible apply chipRead_keeps
      | with_reducible apply ih
      | with_reducible refine Keeps.ite ?_ ?_
      | with_reducible refine KeepsP.ite ?_ ?_
      | with_reducible apply KeepsP.fst
      | with_reducible intro _
      | dsimp only
      | split
      | with_reducible apply KeepsP.mk
  | succ n ih =>
    unfold readEach
    repeat' first
      | with_reducible assumption
      | exact Sub.of rfl hT
      | with_reducible apply chipRead_keeps
      | with_reducible apply ih
      | with_reducible refine Keeps.ite ?_ ?_
      | with_reducible refine KeepsP.ite ?_ ?_
      | with_reducible apply KeepsP.fst
      | with_reducible intro _
      | dsimp only
      | split
      | with_reducible apply KeepsP.mk

theorem readDesc_keeps {T : List Nat} {s u : State} {i : Issue} {n : ℕ}
    (hT : Sub [6, 8, 9, 13, 16, 20, 0x3410, 0x3411, 0x4110, 0x4140, 0x6202, 0x7002, 0x9000, 0x9001, 0x9010] T) (h : Keeps T s u) : KeepsP T s (readDesc u i n) := by
  unfold readDesc
  repeat' first
    | with_reducible assumption
    | exact Sub.of rfl hT
    | with_reducible apply chipRead_keeps
    | with_reducible refine Keeps.ite ?_ ?_
    | with_reducible refine KeepsP.ite ?_ ?_
    | with_reducible apply KeepsP.fst
    | (extract_lets +onlyGivenNames x; first | refine (fun hx => ?_ : Keeps _ _ x → _) ?_ | refine (fun hx => ?_ : KeepsP _ _ x → _) ?_ | skip)
    | with_reducible intro _
    | split
    | with_reducible apply KeepsP.mk

end Sys2Proof.Machine
end

