-- ==== Sys2Proof/Laws/KeepsChecker.lean ====
section
/-! SUPPORT. What the functions of `Machine/Checker.lean` keep. -/

namespace Sys2Proof.Machine

open Sys2Proof

theorem chkCounts_keeps {T : List Nat} {s u : State} {b : ℕ}
    (hT : Sub [0x6010] T) (h : Keeps T s u) : Keeps T s (chkCounts u b) := by
  unfold chkCounts
  repeat' first
    | with_reducible assumption
    | exact Sub.of rfl hT
    | with_reducible apply wr_keeps

theorem refillRepeats_keeps {T : List Nat} {s u : State} {b : ℕ}
    (hT : Sub [5, 0x6010] T) (h : Keeps T s u) : Keeps T s (refillRepeats u b) := by
  unfold refillRepeats
  repeat' first
    | with_reducible assumption
    | exact Sub.of rfl hT
    | with_reducible apply chkCounts_keeps
    | with_reducible apply modBlock_keeps

theorem reportNonFinite_keeps {T : List Nat} {s u : State} {b : ℕ} {e : List Byte} {q : Pairing} {m : ℕ} {t : Tile}
    (hT : Sub [5] T) (h : Keeps T s u) : Keeps T s (reportNonFinite u b e q m t) := by
  unfold reportNonFinite
  repeat' first
    | with_reducible assumption
    | exact Sub.of rfl hT
    | with_reducible apply modBlock_keeps

theorem chkLast_keeps {T : List Nat} {s u : State} {b : ℕ} {step : ℕ} {run : ℕ} {entry : ℕ} {id : ℕ} {cell : ℕ} {fbits : ℕ} {cls : ℕ}
    (hT : Sub [0x6011] T) (h : Keeps T s u) : Keeps T s (chkLast u b step run entry id cell fbits cls) := by
  unfold chkLast
  repeat' first
    | with_reducible assumption
    | exact Sub.of rfl hT
    | with_reducible apply wr_keeps

theorem falseAlarm_keeps {T : List Nat} {s u : State} {b : ℕ} {entry : ℕ} {f : Failure}
    (hT : Sub [5, 6, 16, 0x6012, 0x7002] T) (h : Keeps T s u) : Keeps T s (falseAlarm u b entry f) := by
  unfold falseAlarm
  repeat' first
    | with_reducible assumption
    | exact Sub.of rfl hT
    | with_reducible apply wr_keeps
    | with_reducible apply record_keeps
    | with_reducible apply modBlock_keeps
    | with_reducible apply modPart_keeps
    | with_reducible refine Keeps.ite ?_ ?_

theorem fenceClass_keeps {T : List Nat} {s u : State} {b : ℕ} {entry : ℕ} {cls : ℕ}
    (hT : Sub [6, 9, 16, 20, 0x4110, 0x4140, 0x6202, 0x7002] T) (h : Keeps T s u) : Keeps T s (fenceClass u b entry cls) := by
  unfold fenceClass
  repeat' first
    | with_reducible assumption
    | exact Sub.of rfl hT
    | with_reducible apply fenceChip_keeps
    | with_reducible apply record_keeps

theorem actClass_keeps {T : List Nat} {s u : State} {b : ℕ} {r : RepeatEntry} {fs : List Failure} {cls : ℕ}
    (hT : Sub [5, 6, 8, 9, 13, 16, 20, 0x4110, 0x4140, 0x6010, 0x6012, 0x6202, 0x7002, 0x9000, 0x9001, 0x9010] T) (h : Keeps T s u) : Keeps T s (actClass u b r fs cls) := by
  unfold actClass
  repeat' first
    | with_reducible assumption
    | exact Sub.of rfl hT
    | with_reducible apply penDecay_keeps
    | with_reducible apply record_keeps
    | with_reducible apply bumpSat_keeps
    | with_reducible apply modMsys_keeps
    | with_reducible apply doNotSeal_keeps
    | with_reducible apply falseAlarm_keeps
    | with_reducible apply fenceClass_keeps
    | with_reducible refine Keeps.ite ?_ ?_
    | (extract_lets +onlyGivenNames x; first | refine (fun hx => ?_ : Keeps _ _ x → _) ?_ | refine (fun hx => ?_ : KeepsP _ _ x → _) ?_ | skip)
    | with_reducible intro _
    | split

theorem unlist_keeps {T : List Nat} {s u : State} {b : ℕ} {r : RepeatEntry}
    (hT : Sub [5, 0x6010] T) (h : Keeps T s u) : Keeps T s (unlist u b r) := by
  unfold unlist
  repeat' first
    | with_reducible assumption
    | exact Sub.of rfl hT
    | with_reducible apply chkCounts_keeps
    | with_reducible apply modBlock_keeps

theorem repeatVerdict_keeps {T : List Nat} {s u : State} {b : ℕ} {t : PendingTile} {q : Pairing} {r : RepeatEntry}
    (hT : Sub [5, 6, 8, 9, 13, 16, 20, 0x4110, 0x4140, 0x6010, 0x6011, 0x6012, 0x6202, 0x7002, 0x9000, 0x9001, 0x9010] T) (h : Keeps T s u) : Keeps T s (repeatVerdict u b t q r) := by
  unfold repeatVerdict
  repeat' first
    | with_reducible assumption
    | exact Sub.of rfl hT
    | with_reducible apply reportNonFinite_keeps
    | with_reducible apply bumpSat_keeps
    | with_reducible apply modBlock_keeps
    | with_reducible apply chkLast_keeps
    | with_reducible apply each_keeps
    | with_reducible apply actClass_keeps
    | with_reducible apply unlist_keeps
    | with_reducible refine Keeps.ite ?_ ?_
    | (extract_lets +onlyGivenNames x; first | refine (fun hx => ?_ : Keeps _ _ x → _) ?_ | refine (fun hx => ?_ : KeepsP _ _ x → _) ?_ | skip)
    | with_reducible intro _

theorem listRepeat_keeps {T : List Nat} {s u : State} {b : ℕ} {r : RepeatEntry}
    (hT : Sub [5, 0x6010] T) (h : Keeps T s u) : Keeps T s (listRepeat u b r) := by
  unfold listRepeat
  repeat' first
    | with_reducible assumption
    | exact Sub.of rfl hT
    | with_reducible apply chkCounts_keeps
    | with_reducible apply modBlock_keeps
    | with_reducible refine Keeps.ite ?_ ?_

theorem firstVerdict_keeps {T : List Nat} {s u : State} {b : ℕ} {t : PendingTile} {q : Pairing}
    (hT : Sub [5, 6, 16, 0x6010, 0x6011, 0x7002, 0x9010] T) (h : Keeps T s u) : Keeps T s (firstVerdict u b t q) := by
  unfold firstVerdict
  repeat' first
    | with_reducible assumption
    | exact Sub.of rfl hT
    | with_reducible apply reportNonFinite_keeps
    | with_reducible apply modBlock_keeps
    | with_reducible apply bumpSat_keeps
    | with_reducible apply chkLast_keeps
    | with_reducible apply record_keeps
    | with_reducible apply listRepeat_keeps
    | with_reducible apply doNotSeal_keeps
    | with_reducible refine Keeps.ite ?_ ?_

theorem deliverVerdict_keeps {T : List Nat} {s u : State} {b : ℕ}
    (hT : Sub [5, 6, 8, 9, 13, 16, 20, 0x4110, 0x4140, 0x6010, 0x6011, 0x6012, 0x6202, 0x7002, 0x9000, 0x9001, 0x9010] T) (h : Keeps T s u) : Keeps T s (deliverVerdict u b) := by
  unfold deliverVerdict
  repeat' first
    | with_reducible assumption
    | exact Sub.of rfl hT
    | with_reducible apply modBlock_keeps
    | with_reducible apply repeatVerdict_keeps
    | with_reducible apply firstVerdict_keeps
    | with_reducible refine Keeps.ite ?_ ?_
    | (extract_lets +onlyGivenNames x; first | refine (fun hx => ?_ : Keeps _ _ x → _) ?_ | refine (fun hx => ?_ : KeepsP _ _ x → _) ?_ | skip)
    | with_reducible intro _
    | split

theorem execYarrowVerdict_keeps {u : State} {block : ℕ} :
    OutKeeps [5, 6, 8, 9, 13, 16, 20, 0x4110, 0x4140, 0x6010, 0x6011, 0x6012, 0x6202, 0x7002, 0x9000, 0x9001, 0x9010] u (execYarrowVerdict block u) := by
  have h := Keeps.refl [5, 6, 8, 9, 13, 16, 20, 0x4110, 0x4140, 0x6010, 0x6011, 0x6012, 0x6202, 0x7002, 0x9000, 0x9001, 0x9010] u
  have hT := Sub.rfl (a := [5, 6, 8, 9, 13, 16, 20, 0x4110, 0x4140, 0x6010, 0x6011, 0x6012, 0x6202, 0x7002, 0x9000, 0x9001, 0x9010])
  unfold execYarrowVerdict
  repeat' first
    | with_reducible assumption
    | exact Sub.of rfl hT
    | with_reducible apply deliverVerdict_keeps
    | with_reducible apply OutKeeps.next

theorem clearRepeats_keeps {T : List Nat} {s u : State} {b : ℕ}
    (hT : Sub [5, 16, 0x6010, 0x7002] T) (h : Keeps T s u) : Keeps T s (clearRepeats u b) := by
  unfold clearRepeats
  repeat' first
    | with_reducible assumption
    | exact Sub.of rfl hT
    | with_reducible apply each_keeps
    | with_reducible apply record_keeps
    | with_reducible apply chkCounts_keeps
    | with_reducible apply modBlock_keeps
    | with_reducible refine Keeps.ite ?_ ?_
    | (extract_lets +onlyGivenNames x; first | refine (fun hx => ?_ : Keeps _ _ x → _) ?_ | refine (fun hx => ?_ : KeepsP _ _ x → _) ?_ | skip)
    | with_reducible intro _

theorem wrapFailure_keeps {T : List Nat} {s u : State} {b : ℕ} {cell : ℕ} {base : ℕ} {desc : ℕ}
    (hT : Sub [16, 0x6010, 0x6011, 0x7002] T) (h : Keeps T s u) : Keeps T s (wrapFailure u b cell base desc) := by
  unfold wrapFailure
  repeat' first
    | with_reducible assumption
    | exact Sub.of rfl hT
    | with_reducible apply chkLast_keeps
    | with_reducible apply bumpSat_keeps
    | with_reducible apply record_keeps

theorem enqueueTile_keeps {T : List Nat} {s u : State} {b : ℕ} {t : PendingTile}
    (hT : Sub [5, 6, 8, 9, 13, 16, 20, 0x4110, 0x4140, 0x6010, 0x6011, 0x6012, 0x6202, 0x7002, 0x9000, 0x9001, 0x9010] T) (h : Keeps T s u) : Keeps T s (enqueueTile u b t) := by
  unfold enqueueTile
  repeat' first
    | with_reducible assumption
    | exact Sub.of rfl hT
    | with_reducible apply deliverVerdict_keeps
    | with_reducible apply modBlock_keeps
    | with_reducible apply raise_keeps
    | with_reducible refine Keeps.ite ?_ ?_

end Sys2Proof.Machine
end

