-- ==== Sys2Proof/Laws/KeepsTrace.lean ====
section
/-! SUPPORT. What the functions of `Machine/Trace.lean` keep. -/

namespace Sys2Proof.Machine

open Sys2Proof

theorem traceDrop_keeps {T : List Nat} {s u : State} {p : ℕ}
    (hT : Sub [0x8200] T) (h : Keeps T s u) : Keeps T s (traceDrop u p) := by
  unfold traceDrop
  repeat' first
    | with_reducible assumption
    | exact Sub.of rfl hT
    | with_reducible apply bump_keeps

theorem traceOf_keeps {T : List Nat} {s u : State} {b : ℕ} {p : ℕ} {bit : ℕ} {r : TraceRec}
    (hT : Sub [5, 0x8200] T) (h : Keeps T s u) : Keeps T s (traceOf u b p bit r) := by
  unfold traceOf
  repeat' first
    | with_reducible assumption
    | exact Sub.of rfl hT
    | with_reducible apply traceDrop_keeps
    | with_reducible apply modBlock_keeps
    | with_reducible refine Keeps.ite ?_ ?_

theorem traceRec_keeps {T : List Nat} {s u : State} {b : ℕ} {bit : ℕ} {unit : ℕ} {op : ℕ} {seq : ℕ} {isEnd : Bool}
    (hT : Sub [5, 0x8200] T) (h : Keeps T s u) : Keeps T s (traceRec u b bit unit op seq isEnd) := by
  unfold traceRec
  repeat' first
    | with_reducible assumption
    | exact Sub.of rfl hT
    | with_reducible apply traceOf_keeps

theorem traced_keeps {T : List Nat} {s u : State} {b : ℕ} {bit : ℕ} {unit : ℕ} {op : ℕ} {seq : ℕ} {f : State → State} (hf : ∀ v, Keeps T s v → Keeps T s (f v))
    (hT : Sub [5, 0x8200] T) (h : Keeps T s u) : Keeps T s (traced u b bit unit op seq f) := by
  unfold traced
  repeat' first
    | with_reducible assumption
    | exact Sub.of rfl hT
    | with_reducible apply traceRec_keeps
    | with_reducible apply hf

theorem watchFeed_keeps {T : List Nat} {s u : State} {b : ℕ} {desc : ℕ} {opBit : ℕ} {fmt : ℕ} {vs : List FV} {bs : List Byte}
    (hT : Sub [19] T) (h : Keeps T s u) : Keeps T s (watchFeed u b desc opBit fmt vs bs) := by
  unfold watchFeed
  repeat' first
    | with_reducible assumption
    | exact Sub.of rfl hT
    | with_reducible apply setObs_keeps
    | with_reducible refine Keeps.ite ?_ ?_

end Sys2Proof.Machine
end

