-- ==== Sys2Proof/Laws/KeepsPlan.lean ====
section
/-! SUPPORT. What the functions of `Machine/Plan.lean` keep. -/

namespace Sys2Proof.Machine

open Sys2Proof

theorem markFinal_keeps {T : List Nat} {s u : State} {p : ℕ} {page : ℕ} {n : ℕ}
    (hT : Sub [6] T) (h : Keeps T s u) : Keeps T s (markFinal u p page n) := by
  unfold markFinal
  repeat' first
    | with_reducible assumption
    | exact Sub.of rfl hT
    | with_reducible apply modPart_keeps

theorem issueBundle_keeps {T : List Nat} {s u : State} {b : ℕ}
    (hT : Sub [5] T) (h : Keeps T s u) : Keeps T s (issueBundle u b) := by
  unfold issueBundle
  repeat' first
    | with_reducible assumption
    | exact Sub.of rfl hT
    | with_reducible apply modBlock_keeps

theorem finalize_keeps {T : List Nat} {s u : State} {i : Issue} {w : MovSlot}
    (hT : Sub [5, 6, 9, 13, 16, 20, 0x3020, 0x3021, 0x4110, 0x4140, 0x6202, 0x7002, 0x9000, 0x9001] T) (h : Keeps T s u) : Keeps T s (finalize u i w) := by
  unfold finalize
  repeat' first
    | with_reducible assumption
    | exact Sub.of rfl hT
    | with_reducible apply accept_keeps
    | with_reducible apply issueSlot_keeps
    | with_reducible apply markFinal_keeps
    | with_reducible apply issueBundle_keeps
    | with_reducible refine Keeps.ite ?_ ?_
    | with_reducible refine KeepsP.ite ?_ ?_
    | with_reducible apply KeepsP.fst
    | with_reducible intro _

theorem execFinalize_keeps {u : State} {i : Issue} {w : MovSlot} :
    OutKeeps [5, 6, 9, 13, 16, 20, 0x3020, 0x3021, 0x4110, 0x4140, 0x6202, 0x7002, 0x9000, 0x9001] u (execFinalize i w u) := by
  have h := Keeps.refl [5, 6, 9, 13, 16, 20, 0x3020, 0x3021, 0x4110, 0x4140, 0x6202, 0x7002, 0x9000, 0x9001] u
  have hT := Sub.rfl (a := [5, 6, 9, 13, 16, 20, 0x3020, 0x3021, 0x4110, 0x4140, 0x6202, 0x7002, 0x9000, 0x9001])
  unfold execFinalize
  repeat' first
    | with_reducible assumption
    | exact Sub.of rfl hT
    | with_reducible apply finalize_keeps
    | with_reducible apply OutKeeps.next

theorem tryWait_keeps {T : List Nat} {s u : State} {b : ℕ}
    (hT : Sub [5] T) (h : Keeps T s u) : Keeps T s (tryWait u b) := by
  unfold tryWait
  repeat' first
    | with_reducible assumption
    | exact Sub.of rfl hT
    | with_reducible apply modBlock_keeps
    | with_reducible refine Keeps.ite ?_ ?_
    | (extract_lets +onlyGivenNames x; first | refine (fun hx => ?_ : Keeps _ _ x → _) ?_ | refine (fun hx => ?_ : KeepsP _ _ x → _) ?_ | skip)
    | with_reducible intro _
    | split

theorem slipStep_keeps {T : List Nat} {s u : State} {p : ℕ}
    (hT : Sub [6] T) (h : Keeps T s u) : Keeps T s (slipStep u p) := by
  unfold slipStep
  repeat' first
    | with_reducible assumption
    | exact Sub.of rfl hT
    | with_reducible apply doNotSeal_keeps
    | with_reducible apply modPart_keeps
    | with_reducible refine Keeps.ite ?_ ?_

theorem slipRecord_keeps {T : List Nat} {s u : State} {step : ℕ} {unit : ℕ} {seg : ℕ} {late : ℕ} {source : ℕ}
    (hT : Sub [16, 0x3011, 0x7002] T) (h : Keeps T s u) : Keeps T s (slipRecord u step unit seg late source) := by
  unfold slipRecord
  repeat' first
    | with_reducible assumption
    | exact Sub.of rfl hT
    | with_reducible apply wr_keeps
    | with_reducible apply record_keeps

theorem slip_keeps {T : List Nat} {s u : State} {p : ℕ} {b : ℕ} {unit : ℕ} {seg : ℕ} {late : ℕ} {source : ℕ}
    (hT : Sub [6, 16, 0x3010, 0x3011, 0x7002] T) (h : Keeps T s u) : Keeps T s (slip u p b unit seg late source) := by
  unfold slip
  repeat' first
    | with_reducible assumption
    | exact Sub.of rfl hT
    | with_reducible apply slipStep_keeps
    | with_reducible apply bumpSat_keeps
    | with_reducible apply slipRecord_keeps

theorem slack_keeps {T : List Nat} {s u : State} {b : ℕ}
    (hT : Sub [6, 16, 0x3010, 0x3011, 0x7002] T) (h : Keeps T s u) : Keeps T s (slack u b) := by
  unfold slack
  repeat' first
    | with_reducible assumption
    | exact Sub.of rfl hT
    | with_reducible apply wrI_keeps
    | with_reducible apply raise_keeps
    | with_reducible apply wr_keeps
    | with_reducible apply slip_keeps
    | with_reducible refine Keeps.ite ?_ ?_
    | (extract_lets +onlyGivenNames x; first | refine (fun hx => ?_ : Keeps _ _ x → _) ?_ | refine (fun hx => ?_ : KeepsP _ _ x → _) ?_ | skip)
    | with_reducible intro _
    | split

theorem takeBundle_keeps {T : List Nat} {s u : State} {b : ℕ} {c : SeqId} {err : ℕ} {n : ℕ} {bs : List Byte} {bad : Bool}
    (hT : Sub [5, 6, 9, 13, 16, 20, 0x3020, 0x3021, 0x4110, 0x4140, 0x6202, 0x7002, 0x9000, 0x9001] T) (h : Keeps T s u) : Keeps T s (takeBundle u b c err n bs bad) := by
  unfold takeBundle
  repeat' first
    | with_reducible assumption
    | exact Sub.of rfl hT
    | with_reducible apply record_keeps
    | with_reducible apply bumpSat_keeps
    | with_reducible apply failSeq_keeps
    | with_reducible apply modBlock_keeps
    | with_reducible refine Keeps.ite ?_ ?_

theorem ctlIssue_keeps {T : List Nat} {s u : State} {b : ℕ} {f : State → State} (hf : ∀ v, Keeps T s v → Keeps T s (f v))
    (hT : Sub [5] T) (h : Keeps T s u) : Keeps T s (ctlIssue u b f) := by
  unfold ctlIssue
  repeat' first
    | with_reducible assumption
    | exact Sub.of rfl hT
    | with_reducible apply issueBundle_keeps
    | with_reducible apply hf
    | with_reducible refine Keeps.ite ?_ ?_

theorem dbase_keeps {T : List Nat} {s u : State} {b : ℕ} {w : MovSlot}
    (hT : Sub [5] T) (h : Keeps T s u) : Keeps T s (dbase u b w) := by
  unfold dbase
  repeat' first
    | with_reducible assumption
    | exact Sub.of rfl hT
    | with_reducible apply ctlIssue_keeps
    | with_reducible apply modBlock_keeps
    | with_reducible refine Keeps.ite ?_ ?_
    | with_reducible intro _

theorem wait_keeps {T : List Nat} {s u : State} {b : ℕ} {w : MovSlot}
    (hT : Sub [5] T) (h : Keeps T s u) : Keeps T s (wait u b w) := by
  unfold wait
  repeat' first
    | with_reducible assumption
    | exact Sub.of rfl hT
    | with_reducible apply ctlIssue_keeps
    | with_reducible apply tryWait_keeps
    | with_reducible apply modBlock_keeps
    | with_reducible refine Keeps.ite ?_ ?_
    | with_reducible intro _

theorem execWait_keeps {u : State} {block : ℕ} {w : MovSlot} :
    OutKeeps [5] u (execWait block w u) := by
  have h := Keeps.refl [5] u
  have hT := Sub.rfl (a := [5])
  unfold execWait
  repeat' first
    | with_reducible assumption
    | exact Sub.of rfl hT
    | with_reducible apply wait_keeps
    | with_reducible apply OutKeeps.next

theorem segEnd_keeps {T : List Nat} {s u : State} {b : ℕ}
    (hT : Sub [5, 6, 16, 0x3010, 0x3011, 0x7002, 0x8200] T) (h : Keeps T s u) : Keeps T s (segEnd u b) := by
  unfold segEnd
  repeat' first
    | with_reducible assumption
    | exact Sub.of rfl hT
    | with_reducible apply slack_keeps
    | with_reducible apply modBlock_keeps
    | with_reducible apply traceRec_keeps

theorem ctrError_keeps {T : List Nat} {s u : State} {b : ℕ} {n : ℕ}
    (hT : Sub [6, 0x3021] T) (h : Keeps T s u) : Keeps T s (ctrError u b n) := by
  unfold ctrError
  repeat' first
    | with_reducible assumption
    | exact Sub.of rfl hT
    | with_reducible apply doNotSeal_keeps
    | with_reducible apply bumpSat_keeps

theorem stepEnd_keeps {T : List Nat} {s u : State} {b : ℕ}
    (hT : Sub [5, 6, 16, 0x3000, 0x3010, 0x3011, 0x3021, 0x7002, 0x8200] T) (h : Keeps T s u) : Keeps T s (stepEnd u b) := by
  unfold stepEnd
  repeat' first
    | with_reducible assumption
    | exact Sub.of rfl hT
    | with_reducible apply ctlIssue_keeps
    | with_reducible apply segEnd_keeps
    | with_reducible apply ctrError_keeps
    | with_reducible apply modBlock_keeps
    | with_reducible apply stepBoundary_keeps
    | with_reducible apply wr_keeps
    | with_reducible refine Keeps.ite ?_ ?_
    | (extract_lets +onlyGivenNames x; first | refine (fun hx => ?_ : Keeps _ _ x → _) ?_ | refine (fun hx => ?_ : KeepsP _ _ x → _) ?_ | skip)
    | with_reducible intro _

theorem execStepEnd_keeps {u : State} {block : ℕ} {_w : MovSlot} :
    OutKeeps [5, 6, 16, 0x3000, 0x3010, 0x3011, 0x3021, 0x7002, 0x8200] u (execStepEnd block _w u) := by
  have h := Keeps.refl [5, 6, 16, 0x3000, 0x3010, 0x3011, 0x3021, 0x7002, 0x8200] u
  have hT := Sub.rfl (a := [5, 6, 16, 0x3000, 0x3010, 0x3011, 0x3021, 0x7002, 0x8200])
  unfold execStepEnd
  repeat' first
    | with_reducible assumption
    | exact Sub.of rfl hT
    | with_reducible apply stepEnd_keeps
    | with_reducible apply OutKeeps.next

theorem loop_keeps {T : List Nat} {s u : State} {b : ℕ} {w : MovSlot}
    (hT : Sub [5] T) (h : Keeps T s u) : Keeps T s (loop u b w) := by
  unfold loop
  repeat' first
    | with_reducible assumption
    | exact Sub.of rfl hT
    | with_reducible apply ctlIssue_keeps
    | with_reducible apply modBlock_keeps
    | with_reducible refine Keeps.ite ?_ ?_
    | with_reducible intro _

theorem stepStart_keeps {T : List Nat} {s u : State} {p : ℕ}
    (hT : Sub [6, 16, 0x3010, 0x3011, 0x7002] T) (h : Keeps T s u) : Keeps T s (stepStart u p) := by
  unfold stepStart
  repeat' first
    | with_reducible assumption
    | exact Sub.of rfl hT
    | with_reducible apply modPart_keeps
    | with_reducible apply slip_keeps
    | with_reducible refine Keeps.ite ?_ ?_

theorem ctlNop_keeps {T : List Nat} {s u : State} {b : ℕ}
    (hT : Sub [5] T) (h : Keeps T s u) : Keeps T s (ctlNop u b) := by
  unfold ctlNop
  repeat' first
    | with_reducible assumption
    | exact Sub.of rfl hT
    | with_reducible apply ctlIssue_keeps
    | exact (by assumption)
    | with_reducible refine Keeps.ite ?_ ?_
    | with_reducible intro _

theorem execCtlNop_keeps {u : State} {block : ℕ} {_w : MovSlot} :
    OutKeeps [5] u (execCtlNop block _w u) := by
  have h := Keeps.refl [5] u
  have hT := Sub.rfl (a := [5])
  unfold execCtlNop
  repeat' first
    | with_reducible assumption
    | exact Sub.of rfl hT
    | with_reducible apply ctlNop_keeps
    | with_reducible apply OutKeeps.next

theorem arrive_keeps {T : List Nat} {s u : State} {b : ℕ} {c : ℕ}
    (hT : Sub [5, 6, 0x3021] T) (h : Keeps T s u) : Keeps T s (arrive u b c) := by
  unfold arrive
  repeat' first
    | with_reducible assumption
    | exact Sub.of rfl hT
    | with_reducible apply ctrError_keeps
    | with_reducible apply tryWait_keeps
    | with_reducible apply modBlock_keeps
    | with_reducible refine Keeps.ite ?_ ?_

theorem sync_keeps {T : List Nat} {s u : State} {b : ℕ}
    (hT : Sub [5, 6, 16, 0x3010, 0x3011, 0x7002, 0x8200] T) (h : Keeps T s u) : Keeps T s (sync u b) := by
  unfold sync
  repeat' first
    | with_reducible assumption
    | exact Sub.of rfl hT
    | with_reducible apply ctlIssue_keeps
    | with_reducible apply modBlock_keeps
    | with_reducible apply segEnd_keeps
    | with_reducible refine Keeps.ite ?_ ?_
    | with_reducible intro _

theorem execSync_keeps {u : State} {block : ℕ} {_w : MovSlot} :
    OutKeeps [5, 6, 16, 0x3010, 0x3011, 0x7002, 0x8200] u (execSync block _w u) := by
  have h := Keeps.refl [5, 6, 16, 0x3010, 0x3011, 0x7002, 0x8200] u
  have hT := Sub.rfl (a := [5, 6, 16, 0x3010, 0x3011, 0x7002, 0x8200])
  unfold execSync
  repeat' first
    | with_reducible assumption
    | exact Sub.of rfl hT
    | with_reducible apply sync_keeps
    | with_reducible apply OutKeeps.next

theorem execLoop_keeps {u : State} {block : ℕ} {w : MovSlot} :
    OutKeeps [5] u (execLoop block w u) := by
  have h := Keeps.refl [5] u
  have hT := Sub.rfl (a := [5])
  unfold execLoop
  repeat' first
    | with_reducible assumption
    | exact Sub.of rfl hT
    | with_reducible apply loop_keeps
    | with_reducible apply OutKeeps.next

theorem watchReset_keeps {T : List Nat} {s u : State} {b : ℕ}
    (hT : Sub [19] T) (h : Keeps T s u) : Keeps T s (watchReset u b) := by
  unfold watchReset
  repeat' first
    | with_reducible assumption
    | exact Sub.of rfl hT
    | with_reducible apply setObs_keeps

theorem release_keeps {T : List Nat} {s u : State} {b : ℕ} {f : Block → Block}
    (hT : Sub [5, 0x8200] T) (h : Keeps T s u) : Keeps T s (release u b f) := by
  unfold release
  repeat' first
    | with_reducible assumption
    | exact Sub.of rfl hT
    | with_reducible apply modBlock_keeps
    | with_reducible apply traceRec_keeps

theorem execSegmentRelease_keeps {u : State} {block : ℕ} :
    OutKeeps [5, 6, 16, 19, 0x3010, 0x3011, 0x7002, 0x8200] u (execSegmentRelease block u) := by
  have h := Keeps.refl [5, 6, 16, 19, 0x3010, 0x3011, 0x7002, 0x8200] u
  have hT := Sub.rfl (a := [5, 6, 16, 19, 0x3010, 0x3011, 0x7002, 0x8200])
  unfold execSegmentRelease
  repeat' first
    | with_reducible assumption
    | exact Sub.of rfl hT
    | with_reducible apply stepStart_keeps
    | with_reducible apply watchReset_keeps
    | with_reducible apply release_keeps
    | with_reducible apply OutKeeps.next
    | with_reducible refine Keeps.ite ?_ ?_
    | (extract_lets +onlyGivenNames x; first | refine (fun hx => ?_ : Keeps _ _ x → _) ?_ | refine (fun hx => ?_ : KeepsP _ _ x → _) ?_ | skip)
    | with_reducible intro _
    | split

theorem streamFault_keeps {T : List Nat} {s u : State} {b : ℕ}
    (hT : Sub [5, 6, 9, 16, 20, 0x4110, 0x4140, 0x6010, 0x6202, 0x7002] T) (h : Keeps T s u) : Keeps T s (streamFault u b) := by
  unfold streamFault
  repeat' first
    | with_reducible assumption
    | exact Sub.of rfl hT
    | with_reducible apply doNotSeal_keeps
    | with_reducible apply each_keeps
    | with_reducible apply modBlock_keeps
    | with_reducible apply listRepeat_keeps
    | with_reducible apply fenceChip_keeps
    | with_reducible refine Keeps.ite ?_ ?_
    | (extract_lets +onlyGivenNames x; first | refine (fun hx => ?_ : Keeps _ _ x → _) ?_ | refine (fun hx => ?_ : KeepsP _ _ x → _) ?_ | skip)
    | with_reducible intro _

theorem digestCompare_keeps {T : List Nat} {s u : State} {b : ℕ} {maskA : ℕ} {maskB : ℕ}
    (hT : Sub [5, 6, 9, 13, 16, 20, 0x3020, 0x4110, 0x4140, 0x6010, 0x6202, 0x7002, 0x9000, 0x9001] T) (h : Keeps T s u) : Keeps T s (digestCompare u b maskA maskB) := by
  unfold digestCompare
  repeat' first
    | with_reducible assumption
    | exact Sub.of rfl hT
    | with_reducible apply modBlock_keeps
    | with_reducible apply failSeqAt_keeps
    | with_reducible apply streamFault_keeps
    | with_reducible refine Keeps.ite ?_ ?_
    | (extract_lets +onlyGivenNames x; first | refine (fun hx => ?_ : Keeps _ _ x → _) ?_ | refine (fun hx => ?_ : KeepsP _ _ x → _) ?_ | skip)
    | with_reducible intro _
    | split

theorem execDigestCompare_keeps {u : State} {block : ℕ} {maskA : ℕ} {maskB : ℕ} :
    OutKeeps [5, 6, 9, 13, 16, 20, 0x3020, 0x4110, 0x4140, 0x6010, 0x6202, 0x7002, 0x9000, 0x9001] u (execDigestCompare block maskA maskB u) := by
  have h := Keeps.refl [5, 6, 9, 13, 16, 20, 0x3020, 0x4110, 0x4140, 0x6010, 0x6202, 0x7002, 0x9000, 0x9001] u
  have hT := Sub.rfl (a := [5, 6, 9, 13, 16, 20, 0x3020, 0x4110, 0x4140, 0x6010, 0x6202, 0x7002, 0x9000, 0x9001])
  unfold execDigestCompare
  repeat' first
    | with_reducible assumption
    | exact Sub.of rfl hT
    | with_reducible apply digestCompare_keeps
    | with_reducible apply OutKeeps.next

theorem execDbase_keeps {u : State} {block : ℕ} {w : MovSlot} :
    OutKeeps [5] u (execDbase block w u) := by
  have h := Keeps.refl [5] u
  have hT := Sub.rfl (a := [5])
  unfold execDbase
  repeat' first
    | with_reducible assumption
    | exact Sub.of rfl hT
    | with_reducible apply dbase_keeps
    | with_reducible apply OutKeeps.next

theorem readBundle_keeps {T : List Nat} {s u : State} {b : ℕ} {c : SeqId} {o : ℕ}
    (hT : Sub [6, 8, 9, 13, 16, 20, 0x3410, 0x3411, 0x4110, 0x4140, 0x6202, 0x7002, 0x9000, 0x9001, 0x9010] T) (h : Keeps T s u) : KeepsP T s (readBundle u b c o) := by
  unfold readBundle
  repeat' first
    | with_reducible assumption
    | exact Sub.of rfl hT
    | with_reducible apply chipRead_keeps
    | with_reducible refine Keeps.ite ?_ ?_
    | with_reducible refine KeepsP.ite ?_ ?_
    | with_reducible apply KeepsP.fst
    | (extract_lets +onlyGivenNames x; first | refine (fun hx => ?_ : Keeps _ _ x → _) ?_ | refine (fun hx => ?_ : KeepsP _ _ x → _) ?_ | skip)
    | with_reducible intro _
    | split
    | with_reducible apply KeepsP.mk

theorem fetchOne_keeps {T : List Nat} {s u : State} {b : ℕ} {c : SeqId} {err : ℕ}
    (hT : Sub [5, 6, 8, 9, 13, 16, 20, 0x3020, 0x3021, 0x3410, 0x3411, 0x4110, 0x4140, 0x6202, 0x7002, 0x9000, 0x9001, 0x9010] T) (h : Keeps T s u) : Keeps T s (fetchOne u b c err) := by
  unfold fetchOne
  repeat' first
    | with_reducible assumption
    | exact Sub.of rfl hT
    | with_reducible apply readBundle_keeps
    | with_reducible apply takeBundle_keeps
    | with_reducible refine Keeps.ite ?_ ?_
    | with_reducible refine KeepsP.ite ?_ ?_
    | with_reducible apply KeepsP.fst
    | (extract_lets +onlyGivenNames x; first | refine (fun hx => ?_ : Keeps _ _ x → _) ?_ | refine (fun hx => ?_ : KeepsP _ _ x → _) ?_ | skip)
    | with_reducible intro _
    | split

theorem execStreamFetch_keeps {u : State} {block : ℕ} {errA : ℕ} {errB : ℕ} :
    OutKeeps [5, 6, 8, 9, 13, 16, 20, 0x3020, 0x3021, 0x3410, 0x3411, 0x4110, 0x4140, 0x6202, 0x7002, 0x9000, 0x9001, 0x9010] u (execStreamFetch block errA errB u) := by
  have h := Keeps.refl [5, 6, 8, 9, 13, 16, 20, 0x3020, 0x3021, 0x3410, 0x3411, 0x4110, 0x4140, 0x6202, 0x7002, 0x9000, 0x9001, 0x9010] u
  have hT := Sub.rfl (a := [5, 6, 8, 9, 13, 16, 20, 0x3020, 0x3021, 0x3410, 0x3411, 0x4110, 0x4140, 0x6202, 0x7002, 0x9000, 0x9001, 0x9010])
  unfold execStreamFetch
  repeat' first
    | with_reducible assumption
    | exact Sub.of rfl hT
    | with_reducible apply fetchOne_keeps
    | with_reducible apply OutKeeps.next
    | with_reducible refine Keeps.ite ?_ ?_

end Sys2Proof.Machine
end

