-- ==== Sys2Proof/Laws/KeepsTime.lean ====
section
/-! SUPPORT. What the functions of `Machine/Time.lean` keep. -/

namespace Sys2Proof.Machine

open Sys2Proof

theorem nextPtp_keeps {T : List Nat} {s u : State}
    (hT : Sub [4] T) (h : Keeps T s u) : Keeps T s (nextPtp u) := by
  unfold nextPtp
  repeat' first
    | with_reducible assumption
    | exact Sub.of rfl hT
    | with_reducible apply modTime_keeps

theorem sendTime_keeps {T : List Nat} {s u : State} {port : ℕ} {bs : List Byte}
    (hT : Sub [9] T) (h : Keeps T s u) : Keeps T s (sendTime u port bs) := by
  unfold sendTime
  repeat' first
    | with_reducible assumption
    | exact Sub.of rfl hT
    | with_reducible apply queueAt_keeps
    | with_reducible refine Keeps.ite ?_ ?_

theorem sendSync_keeps {T : List Nat} {s u : State} {port : ℕ}
    (hT : Sub [4, 9] T) (h : Keeps T s u) : Keeps T s (sendSync u port) := by
  unfold sendSync
  repeat' first
    | with_reducible assumption
    | exact Sub.of rfl hT
    | with_reducible apply nextPtp_keeps
    | with_reducible apply sendTime_keeps

theorem execSyncSend_keeps {u : State} :
    OutKeeps [4, 9] u (execSyncSend u) := by
  have h := Keeps.refl [4, 9] u
  have hT := Sub.rfl (a := [4, 9])
  unfold execSyncSend
  repeat' first
    | with_reducible assumption
    | exact Sub.of rfl hT
    | with_reducible apply each_keeps
    | with_reducible apply sendSync_keeps
    | with_reducible apply OutKeeps.next
    | with_reducible refine Keeps.ite ?_ ?_
    | with_reducible intro _

theorem applyStep_keeps {T : List Nat} {s u : State}
    (hT : Sub [4, 16, 0x5801, 0x7002] T) (h : Keeps T s u) : Keeps T s (applyStep u) := by
  unfold applyStep
  repeat' first
    | with_reducible assumption
    | exact Sub.of rfl hT
    | with_reducible apply modTime_keeps
    | with_reducible apply record_keeps
    | with_reducible apply wrI_keeps
    | with_reducible refine Keeps.ite ?_ ?_

theorem tickCounter_keeps {T : List Nat} {s u : State}
    (hT : Sub [4] T) (h : Keeps T s u) : Keeps T s (tickCounter u) := by
  unfold tickCounter
  repeat' first
    | with_reducible assumption
    | exact Sub.of rfl hT
    | with_reducible apply modTime_keeps

theorem grandmaster_keeps {T : List Nat} {s u : State}
    (hT : Sub [0x5804] T) (h : Keeps T s u) : Keeps T s (grandmaster u) := by
  unfold grandmaster
  repeat' first
    | with_reducible assumption
    | exact Sub.of rfl hT
    | with_reducible apply wr_keeps
    | with_reducible refine Keeps.ite ?_ ?_

theorem execTimeCounterTick_keeps {u : State} :
    OutKeeps [4, 16, 0x5801, 0x5804, 0x7002] u (execTimeCounterTick u) := by
  have h := Keeps.refl [4, 16, 0x5801, 0x5804, 0x7002] u
  have hT := Sub.rfl (a := [4, 16, 0x5801, 0x5804, 0x7002])
  unfold execTimeCounterTick
  repeat' first
    | with_reducible assumption
    | exact Sub.of rfl hT
    | with_reducible apply applyStep_keeps
    | with_reducible apply tickCounter_keeps
    | with_reducible apply grandmaster_keeps
    | with_reducible apply OutKeeps.next

theorem dropTime_keeps {T : List Nat} {s u : State} {port : ℕ}
    (hT : Sub [0x5810] T) (h : Keeps T s u) : Keeps T s (dropTime u port) := by
  unfold dropTime
  repeat' first
    | with_reducible assumption
    | exact Sub.of rfl hT
    | with_reducible apply bumpSat_keeps

theorem pdelayReqRx_keeps {T : List Nat} {s u : State} {port : ℕ} {rx : ℤ} {bs : List Byte}
    (hT : Sub [9] T) (h : Keeps T s u) : Keeps T s (pdelayReqRx u port rx bs) := by
  unfold pdelayReqRx
  repeat' first
    | with_reducible assumption
    | exact Sub.of rfl hT
    | with_reducible apply sendTime_keeps

theorem pathPs_keeps {T : List Nat} {s u : State}
    (hT : Sub [0x5804] T) (h : Keeps T s u) : Keeps T s (pathPs u) := by
  unfold pathPs
  repeat' first
    | with_reducible assumption
    | exact Sub.of rfl hT
    | with_reducible apply wr_keeps

theorem modPdelay_keeps {T : List Nat} {s u : State} {port : ℕ} {f : Pdelay → Pdelay}
    (hT : Sub [4] T) (h : Keeps T s u) : Keeps T s (modPdelay u port f) := by
  unfold modPdelay
  repeat' first
    | with_reducible assumption
    | exact Sub.of rfl hT
    | with_reducible apply modTime_keeps

theorem pdelayRespRx_keeps {T : List Nat} {s u : State} {port : ℕ} {rx : ℤ} {bs : List Byte}
    (hT : Sub [4, 0x5804, 0x5810] T) (h : Keeps T s u) : Keeps T s (pdelayRespRx u port rx bs) := by
  unfold pdelayRespRx
  repeat' first
    | with_reducible assumption
    | exact Sub.of rfl hT
    | with_reducible apply dropTime_keeps
    | with_reducible apply pathPs_keeps
    | with_reducible apply modPdelay_keeps
    | with_reducible refine Keeps.ite ?_ ?_
    | (extract_lets +onlyGivenNames x; first | refine (fun hx => ?_ : Keeps _ _ x → _) ?_ | refine (fun hx => ?_ : KeepsP _ _ x → _) ?_ | skip)
    | with_reducible intro _
    | split

theorem noteOffset_keeps {T : List Nat} {s u : State} {port : ℕ} {offset : ℤ}
    (hT : Sub [13, 16, 0x5804, 0x7002, 0x9000, 0x9001] T) (h : Keeps T s u) : Keeps T s (noteOffset u port offset) := by
  unfold noteOffset
  repeat' first
    | with_reducible assumption
    | exact Sub.of rfl hT
    | with_reducible apply wrI_keeps
    | with_reducible apply bumpSat_keeps
    | with_reducible apply penDecay_keeps
    | with_reducible apply record_keeps
    | with_reducible refine Keeps.ite ?_ ?_

theorem timeHoldover_keeps {T : List Nat} {s u : State} {cause : ℕ}
    (hT : Sub [4, 16, 0x5804, 0x7002] T) (h : Keeps T s u) : Keeps T s (timeHoldover u cause) := by
  unfold timeHoldover
  repeat' first
    | with_reducible assumption
    | exact Sub.of rfl hT
    | with_reducible apply record_keeps
    | with_reducible apply modTime_keeps
    | with_reducible apply wr_keeps
    | with_reducible refine Keeps.ite ?_ ?_

theorem servoFreq_keeps {T : List Nat} {s u : State} {rx : ℤ} {offset : ℤ}
    (hT : Sub [4, 0x5801] T) (h : Keeps T s u) : Keeps T s (servoFreq u rx offset) := by
  unfold servoFreq
  extract_lets u1 est incr moved all w
  generalize w = w'
  clear_value moved est incr
  cases w' with
  | nil => exact h
  | cons c r =>
    dsimp only
    refine Keeps.ite (modTime_keeps (Sub.of rfl hT) h) ?_
    exact modTime_keeps (Sub.of rfl hT) (wr_keeps (Sub.of rfl hT) h)


theorem stepNs_keeps {T : List Nat} {s u : State} {v : ℤ}
    (hT : Sub [16, 0x5801, 0x7002] T) (h : Keeps T s u) : KeepsP T s (stepNs u v) := by
  unfold stepNs
  repeat' first
    | with_reducible assumption
    | exact Sub.of rfl hT
    | with_reducible apply wrI_keeps
    | with_reducible apply done_keeps
    | with_reducible apply record_keeps
    | with_reducible refine Keeps.ite ?_ ?_
    | with_reducible refine KeepsP.ite ?_ ?_
    | with_reducible apply KeepsP.fst
    | (extract_lets +onlyGivenNames x; first | refine (fun hx => ?_ : Keeps _ _ x → _) ?_ | refine (fun hx => ?_ : KeepsP _ _ x → _) ?_ | skip)
    | with_reducible intro _
    | split
    | with_reducible apply KeepsP.mk

theorem servoSlew_keeps {T : List Nat} {s u : State} {offset : ℤ}
    (hT : Sub [21, 0x5801] T) (h : Keeps T s u) : Keeps T s (servoSlew u offset) := by
  unfold servoSlew
  repeat' first
    | with_reducible assumption
    | exact Sub.of rfl hT
    | with_reducible apply wr_keeps
    | with_reducible apply tick_keeps
    | with_reducible refine Keeps.ite ?_ ?_

theorem servo_keeps {T : List Nat} {s u : State} {rx : ℤ} {offset : ℤ}
    (hT : Sub [4, 16, 21, 0x5801, 0x7002] T) (h : Keeps T s u) : Keeps T s (servo u rx offset) := by
  unfold servo
  repeat' first
    | with_reducible assumption
    | exact Sub.of rfl hT
    | with_reducible apply servoFreq_keeps
    | with_reducible apply stepNs_keeps
    | with_reducible apply servoSlew_keeps
    | with_reducible refine Keeps.ite ?_ ?_
    | with_reducible refine KeepsP.ite ?_ ?_
    | with_reducible apply KeepsP.fst

theorem acquire_keeps {T : List Nat} {s u : State} {offset : ℤ}
    (hT : Sub [4, 0x5804] T) (h : Keeps T s u) : Keeps T s (acquire u offset) := by
  unfold acquire
  repeat' first
    | with_reducible assumption
    | exact Sub.of rfl hT
    | with_reducible apply modTime_keeps
    | with_reducible apply wr_keeps
    | with_reducible refine Keeps.ite ?_ ?_

theorem leaveHoldover_keeps {T : List Nat} {s u : State} {offset : ℤ}
    (hT : Sub [16, 0x5804, 0x7002] T) (h : Keeps T s u) : Keeps T s (leaveHoldover u offset) := by
  unfold leaveHoldover
  repeat' first
    | with_reducible assumption
    | exact Sub.of rfl hT
    | with_reducible apply record_keeps
    | with_reducible apply wr_keeps
    | with_reducible refine Keeps.ite ?_ ?_

theorem startAcquire_keeps {T : List Nat} {s u : State} {offset : ℤ}
    (hT : Sub [4, 16, 0x5804, 0x7002] T) (h : Keeps T s u) : Keeps T s (startAcquire u offset) := by
  unfold startAcquire
  repeat' first
    | with_reducible assumption
    | exact Sub.of rfl hT
    | with_reducible apply modTime_keeps
    | with_reducible apply wr_keeps
    | with_reducible apply leaveHoldover_keeps
    | with_reducible refine Keeps.ite ?_ ?_

theorem syncRx_keeps {T : List Nat} {s u : State} {port : ℕ} {rx : ℤ} {bs : List Byte}
    (hT : Sub [4, 13, 16, 21, 0x5801, 0x5804, 0x5810, 0x7002, 0x9000, 0x9001] T) (h : Keeps T s u) : Keeps T s (syncRx u port rx bs) := by
  unfold syncRx
  repeat' first
    | with_reducible assumption
    | exact Sub.of rfl hT
    | with_reducible apply modTime_keeps
    | with_reducible apply bumpSat_keeps
    | with_reducible apply record_keeps
    | with_reducible apply noteOffset_keeps
    | with_reducible apply timeHoldover_keeps
    | with_reducible apply servo_keeps
    | with_reducible apply acquire_keeps
    | with_reducible apply startAcquire_keeps
    | with_reducible refine Keeps.ite ?_ ?_
    | (extract_lets +onlyGivenNames x; first | refine (fun hx => ?_ : Keeps _ _ x → _) ?_ | refine (fun hx => ?_ : KeepsP _ _ x → _) ?_ | skip)
    | with_reducible intro _
    | split

theorem timeRx_keeps {T : List Nat} {s u : State} {m : TimeMsg}
    (hT : Sub [4, 9, 13, 16, 21, 0x5801, 0x5804, 0x5810, 0x7002, 0x9000, 0x9001] T) (h : Keeps T s u) : Keeps T s (timeRx u m) := by
  unfold timeRx
  repeat' first
    | with_reducible assumption
    | exact Sub.of rfl hT
    | with_reducible apply dropTime_keeps
    | with_reducible apply pdelayReqRx_keeps
    | with_reducible apply pdelayRespRx_keeps
    | with_reducible apply syncRx_keeps
    | with_reducible refine Keeps.ite ?_ ?_

theorem timeIncr_keeps {T : List Nat} {s u : State} {v : ℕ}
    (hT : Sub [4, 0x5801] T) (h : Keeps T s u) : Keeps T s (timeIncr u v) := by
  unfold timeIncr
  repeat' first
    | with_reducible assumption
    | exact Sub.of rfl hT
    | with_reducible apply modTime_keeps
    | with_reducible apply wr_keeps

theorem execTimeIncr_keeps {u : State} {who : Who} {value : ℕ} :
    OutKeeps [4, 20, 0x5801] u (execTimeIncr who value u) := by
  have h := Keeps.refl [4, 20, 0x5801] u
  have hT := Sub.rfl (a := [4, 20, 0x5801])
  unfold execTimeIncr
  repeat' first
    | with_reducible assumption
    | exact Sub.of rfl hT
    | with_reducible apply guard_keeps
    | with_reducible apply done_keeps
    | with_reducible apply timeIncr_keeps
    | with_reducible apply OutKeeps.next
    | with_reducible refine Keeps.ite ?_ ?_
    | with_reducible refine KeepsP.ite ?_ ?_
    | with_reducible apply KeepsP.fst
    | with_reducible intro _

theorem masterPort_keeps {T : List Nat} {s u : State} {v : ℕ}
    (hT : Sub [4, 16, 0x5803, 0x5804, 0x7002] T) (h : Keeps T s u) : Keeps T s (masterPort u v) := by
  unfold masterPort
  repeat' first
    | with_reducible assumption
    | exact Sub.of rfl hT
    | with_reducible apply modTime_keeps
    | with_reducible apply wr_keeps
    | with_reducible apply record_keeps
    | with_reducible apply leaveHoldover_keeps
    | with_reducible apply timeHoldover_keeps
    | with_reducible apply pathPs_keeps
    | with_reducible refine Keeps.ite ?_ ?_

theorem execTimeMasterPort_keeps {u : State} {who : Who} {value : ℕ} :
    OutKeeps [4, 16, 20, 0x5803, 0x5804, 0x7002] u (execTimeMasterPort who value u) := by
  have h := Keeps.refl [4, 16, 20, 0x5803, 0x5804, 0x7002] u
  have hT := Sub.rfl (a := [4, 16, 20, 0x5803, 0x5804, 0x7002])
  unfold execTimeMasterPort
  repeat' first
    | with_reducible assumption
    | exact Sub.of rfl hT
    | with_reducible apply guard_keeps
    | with_reducible apply done_keeps
    | with_reducible apply masterPort_keeps
    | with_reducible apply OutKeeps.next
    | with_reducible refine Keeps.ite ?_ ?_
    | with_reducible refine KeepsP.ite ?_ ?_
    | with_reducible apply KeepsP.fst
    | with_reducible intro _

theorem latchTime_keeps {T : List Nat} {s u : State} {p : Path}
    (hT : Sub [4] T) (h : Keeps T s u) : Keeps T s (latchTime u p) := by
  unfold latchTime
  repeat' first
    | with_reducible assumption
    | exact Sub.of rfl hT
    | with_reducible apply modTime_keeps

theorem execTimeNowSec_keeps {u : State} {who : Who} :
    OutKeeps [4, 20] u (execTimeNowSec who u) := by
  have h := Keeps.refl [4, 20] u
  have hT := Sub.rfl (a := [4, 20])
  unfold execTimeNowSec
  repeat' first
    | with_reducible assumption
    | exact Sub.of rfl hT
    | with_reducible apply emit_keeps
    | with_reducible apply latchTime_keeps
    | with_reducible apply OutKeeps.next

theorem masterLost_keeps {T : List Nat} {s u : State} {port : ℕ}
    (hT : Sub [4, 16, 0x5804, 0x7002] T) (h : Keeps T s u) : Keeps T s (masterLost u port) := by
  unfold masterLost
  repeat' first
    | with_reducible assumption
    | exact Sub.of rfl hT
    | with_reducible apply timeHoldover_keeps
    | with_reducible refine Keeps.ite ?_ ?_

theorem execPdelayResp_keeps {u : State} {m : TimeMsg} :
    OutKeeps [4, 9, 13, 16, 21, 0x5801, 0x5804, 0x5810, 0x7002, 0x9000, 0x9001] u (execPdelayResp m u) := by
  have h := Keeps.refl [4, 9, 13, 16, 21, 0x5801, 0x5804, 0x5810, 0x7002, 0x9000, 0x9001] u
  have hT := Sub.rfl (a := [4, 9, 13, 16, 21, 0x5801, 0x5804, 0x5810, 0x7002, 0x9000, 0x9001])
  unfold execPdelayResp
  repeat' first
    | with_reducible assumption
    | exact Sub.of rfl hT
    | with_reducible apply timeRx_keeps
    | with_reducible apply dropTime_keeps
    | with_reducible apply OutKeeps.next
    | with_reducible refine Keeps.ite ?_ ?_

theorem dropExchange_keeps {T : List Nat} {s u : State} {port : ℕ}
    (hT : Sub [4] T) (h : Keeps T s u) : Keeps T s (dropExchange u port) := by
  unfold dropExchange
  repeat' first
    | with_reducible assumption
    | exact Sub.of rfl hT
    | with_reducible apply modPdelay_keeps
    | with_reducible refine Keeps.ite ?_ ?_

theorem execTimeStepNs_keeps {u : State} {who : Who} {value : ℤ} :
    OutKeeps [16, 20, 0x5801, 0x7002] u (execTimeStepNs who value u) := by
  have h := Keeps.refl [16, 20, 0x5801, 0x7002] u
  have hT := Sub.rfl (a := [16, 20, 0x5801, 0x7002])
  unfold execTimeStepNs
  repeat' first
    | with_reducible assumption
    | exact Sub.of rfl hT
    | with_reducible apply guard_keeps
    | with_reducible apply stepNs_keeps
    | with_reducible apply OutKeeps.next
    | with_reducible refine Keeps.ite ?_ ?_
    | with_reducible refine KeepsP.ite ?_ ?_
    | with_reducible apply KeepsP.fst
    | with_reducible intro _

theorem execSyncLoss_keeps {u : State} :
    OutKeeps [4, 16, 0x5804, 0x7002] u (execSyncLoss u) := by
  have h := Keeps.refl [4, 16, 0x5804, 0x7002] u
  have hT := Sub.rfl (a := [4, 16, 0x5804, 0x7002])
  unfold execSyncLoss
  repeat' first
    | with_reducible assumption
    | exact Sub.of rfl hT
    | with_reducible apply timeHoldover_keeps
    | with_reducible apply OutKeeps.next
    | with_reducible refine Keeps.ite ?_ ?_

theorem execOffsetStepApply_keeps {u : State} :
    OutKeeps [4, 16, 0x5801, 0x7002] u (execOffsetStepApply u) := by
  have h := Keeps.refl [4, 16, 0x5801, 0x7002] u
  have hT := Sub.rfl (a := [4, 16, 0x5801, 0x7002])
  unfold execOffsetStepApply
  repeat' first
    | with_reducible assumption
    | exact Sub.of rfl hT
    | with_reducible apply applyStep_keeps
    | with_reducible apply OutKeeps.next

theorem execPdelayReq_keeps {u : State} {m : TimeMsg} :
    OutKeeps [4, 9, 13, 16, 21, 0x5801, 0x5804, 0x5810, 0x7002, 0x9000, 0x9001] u (execPdelayReq m u) := by
  have h := Keeps.refl [4, 9, 13, 16, 21, 0x5801, 0x5804, 0x5810, 0x7002, 0x9000, 0x9001] u
  have hT := Sub.rfl (a := [4, 9, 13, 16, 21, 0x5801, 0x5804, 0x5810, 0x7002, 0x9000, 0x9001])
  unfold execPdelayReq
  repeat' first
    | with_reducible assumption
    | exact Sub.of rfl hT
    | with_reducible apply timeRx_keeps
    | with_reducible apply dropTime_keeps
    | with_reducible apply OutKeeps.next
    | with_reducible refine Keeps.ite ?_ ?_

theorem execSyncMessage_keeps {u : State} {m : TimeMsg} :
    OutKeeps [4, 9, 13, 16, 21, 0x5801, 0x5804, 0x5810, 0x7002, 0x9000, 0x9001] u (execSyncMessage m u) := by
  have h := Keeps.refl [4, 9, 13, 16, 21, 0x5801, 0x5804, 0x5810, 0x7002, 0x9000, 0x9001] u
  have hT := Sub.rfl (a := [4, 9, 13, 16, 21, 0x5801, 0x5804, 0x5810, 0x7002, 0x9000, 0x9001])
  unfold execSyncMessage
  repeat' first
    | with_reducible assumption
    | exact Sub.of rfl hT
    | with_reducible apply timeRx_keeps
    | with_reducible apply dropTime_keeps
    | with_reducible apply OutKeeps.next
    | with_reducible refine Keeps.ite ?_ ?_

theorem noteDeparture_keeps {T : List Nat} {s u : State} {port : ℕ} {payload : List Byte}
    (hT : Sub [4] T) (h : Keeps T s u) : Keeps T s (noteDeparture u port payload) := by
  unfold noteDeparture
  repeat' first
    | with_reducible assumption
    | exact Sub.of rfl hT
    | with_reducible apply modPdelay_keeps
    | with_reducible refine Keeps.ite ?_ ?_
    | with_reducible intro _
    | split

theorem sendPdelay_keeps {T : List Nat} {s u : State} {port : ℕ}
    (hT : Sub [4, 9] T) (h : Keeps T s u) : Keeps T s (sendPdelay u port) := by
  unfold sendPdelay
  repeat' first
    | with_reducible assumption
    | exact Sub.of rfl hT
    | with_reducible apply nextPtp_keeps
    | with_reducible apply sendTime_keeps
    | with_reducible apply modPdelay_keeps

theorem execPdelayInitiate_keeps {u : State} :
    OutKeeps [4, 9] u (execPdelayInitiate u) := by
  have h := Keeps.refl [4, 9] u
  have hT := Sub.rfl (a := [4, 9])
  unfold execPdelayInitiate
  repeat' first
    | with_reducible assumption
    | exact Sub.of rfl hT
    | with_reducible apply each_keeps
    | with_reducible apply sendPdelay_keeps
    | with_reducible apply OutKeeps.next
    | with_reducible refine Keeps.ite ?_ ?_
    | with_reducible intro _

end Sys2Proof.Machine
end

