-- ==== Sys2Proof/Laws/KeepsRouter.lean ====
section
/-! SUPPORT. What the functions of `Machine/Router.lean` keep. -/

namespace Sys2Proof.Machine

open Sys2Proof

theorem shpRefill_keeps {T : List Nat} {s u : State} {f : ℕ}
    (hT : Sub [11, 0x4130] T) (h : Keeps T s u) : Keeps T s (shpRefill u f) := by
  unfold shpRefill
  repeat' first
    | with_reducible assumption
    | exact Sub.of rfl hT
    | with_reducible apply modRouter_keeps
    | with_reducible apply wrI_keeps
    | with_reducible refine Keeps.ite ?_ ?_

theorem shpRate_keeps {T : List Nat} {s u : State} {f : ℕ} {v : ℕ}
    (hT : Sub [11, 0x4130] T) (h : Keeps T s u) : KeepsP T s (shpRate u f v) := by
  unfold shpRate
  repeat' first
    | with_reducible assumption
    | exact Sub.of rfl hT
    | with_reducible apply done_keeps
    | with_reducible apply wr_keeps
    | with_reducible apply shpRefill_keeps

theorem execFabShpRate_keeps {u : State} {who : Who} {func : ℕ} {value : ℕ} :
    OutKeeps [11, 20, 0x4130] u (execFabShpRate who func value u) := by
  have h := Keeps.refl [11, 20, 0x4130] u
  have hT := Sub.rfl (a := [11, 20, 0x4130])
  unfold execFabShpRate
  repeat' first
    | with_reducible assumption
    | exact Sub.of rfl hT
    | with_reducible apply guard_keeps
    | with_reducible apply shpRate_keeps
    | with_reducible apply OutKeeps.next
    | with_reducible refine Keeps.ite ?_ ?_
    | with_reducible refine KeepsP.ite ?_ ?_
    | with_reducible apply KeepsP.fst
    | with_reducible intro _

theorem ejectPlanned_keeps {T : List Nat} {s u : State} {p : Packet} {data : List Byte}
    (hT : Sub [2, 3, 5, 6, 14, 16, 0x2020, 0x2021, 0x3021, 0x6101, 0x6102, 0x7002] T) (h : Keeps T s u) : Keeps T s (ejectPlanned u p data) := by
  unfold ejectPlanned
  repeat' first
    | with_reducible assumption
    | exact Sub.of rfl hT
    | with_reducible apply dropLate_keeps
    | with_reducible apply bumpSat_keeps
    | with_reducible apply denyReq_keeps
    | with_reducible apply planWriteAll_keeps
    | with_reducible apply arrive_keeps
    | with_reducible refine Keeps.ite ?_ ?_
    | (extract_lets +onlyGivenNames x; first | refine (fun hx => ?_ : Keeps _ _ x → _) ?_ | refine (fun hx => ?_ : KeepsP _ _ x → _) ?_ | skip)
    | with_reducible intro _
    | split

theorem statusReply_keeps {T : List Nat} {s u : State} {requester : ℕ} {rid : ℕ} {unit : ℕ} {st : StatusBits}
    (hT : Sub [6, 9, 16, 20, 0x4110, 0x4140, 0x7002] T) (h : Keeps T s u) : Keeps T s (statusReply u requester rid unit st) := by
  unfold statusReply
  repeat' first
    | with_reducible assumption
    | exact Sub.of rfl hT
    | with_reducible apply emit_keeps
    | with_reducible apply forward_keeps
    | with_reducible refine Keeps.ite ?_ ?_

theorem gatekeep_keeps {T : List Nat} {s u : State} {unit : ℕ} {posted : Bool} {tgen : ℕ} {requester : ℕ} {rid : ℕ}
    (hT : Sub [6, 9, 16, 20, 0x2020, 0x4110, 0x4140, 0x7002] T) (h : Keeps T s u) : KeepsP T s (gatekeep u unit posted tgen requester rid) := by
  unfold gatekeep
  repeat' first
    | with_reducible assumption
    | exact Sub.of rfl hT
    | with_reducible apply bumpSat_keeps
    | with_reducible apply statusReply_keeps
    | with_reducible refine Keeps.ite ?_ ?_
    | with_reducible refine KeepsP.ite ?_ ?_
    | with_reducible apply KeepsP.fst
    | with_reducible intro _
    | split
    | with_reducible apply KeepsP.mk

theorem replyDenied_keeps {T : List Nat} {s u : State} {p : Packet} {r : MemReq}
    (hT : Sub [6, 9, 16, 20, 0x4110, 0x4140, 0x7002] T) (h : Keeps T s u) : Keeps T s (replyDenied u p r) := by
  unfold replyDenied
  repeat' first
    | with_reducible assumption
    | exact Sub.of rfl hT
    | with_reducible apply statusReply_keeps
    | with_reducible apply denyReq_keeps

theorem ejectWrite_keeps {T : List Nat} {s u : State} {p : Packet}
    (hT : Sub [2, 3, 6, 8, 9, 13, 16, 20, 0x2020, 0x3021, 0x3403, 0x3410, 0x3411, 0x4110, 0x4140, 0x6101, 0x6102, 0x6202, 0x7002, 0x9000, 0x9001, 0x9010] T) (h : Keeps T s u) : Keeps T s (ejectWrite u p) := by
  unfold ejectWrite
  repeat' first
    | with_reducible assumption
    | exact Sub.of rfl hT
    | with_reducible apply gatekeep_keeps
    | with_reducible apply replyDenied_keeps
    | with_reducible apply memRequest_keeps
    | with_reducible refine Keeps.ite ?_ ?_
    | with_reducible refine KeepsP.ite ?_ ?_
    | with_reducible apply KeepsP.fst

theorem ejectCast_keeps {T : List Nat} {s u : State} {p : Packet}
    (hT : Sub [2, 3, 5, 6, 8, 9, 13, 14, 16, 19, 20, 0x2020, 0x2021, 0x3021, 0x3403, 0x3410, 0x3411, 0x4110, 0x4140, 0x6101, 0x6102, 0x6202, 0x7002, 0x8100, 0x9000, 0x9001, 0x9010] T) (h : Keeps T s u) : Keeps T s (ejectCast u p) := by
  unfold ejectCast
  repeat' first
    | with_reducible assumption
    | exact Sub.of rfl hT
    | with_reducible apply ejectPlanned_keeps
    | with_reducible apply freezeArm_keeps
    | with_reducible apply memRequest_keeps
    | with_reducible apply ejectWrite_keeps
    | with_reducible refine Keeps.ite ?_ ?_
    | with_reducible refine KeepsP.ite ?_ ?_
    | with_reducible apply KeepsP.fst

theorem fccTake_keeps {T : List Nat} {s u : State} {p : Packet}
    (hT : Sub [2, 3, 5, 6, 8, 9, 13, 14, 16, 19, 20, 0x2020, 0x2021, 0x3021, 0x3403, 0x3410, 0x3411, 0x4110, 0x4140, 0x6101, 0x6102, 0x6202, 0x7002, 0x8100, 0x9000, 0x9001, 0x9010] T) (h : Keeps T s u) : Keeps T s (fccTake u p) := by
  unfold fccTake
  repeat' first
    | with_reducible assumption
    | exact Sub.of rfl hT
    | with_reducible apply record_keeps
    | with_reducible apply dropPkt_keeps
    | with_reducible apply bumpSat_keeps
    | with_reducible apply ejectCast_keeps
    | with_reducible apply emit_keeps
    | with_reducible refine Keeps.ite ?_ ?_

theorem retireMover_keeps {T : List Nat} {s u : State} {m : ℕ}
    (hT : Sub [14] T) (h : Keeps T s u) : Keeps T s (retireMover u m) := by
  unfold retireMover
  repeat' first
    | with_reducible assumption
    | exact Sub.of rfl hT
    | with_reducible apply modRst_keeps

theorem failRid_keeps {T : List Nat} {s u : State} {rid : ℕ} {status : ℕ} {reason : ℕ}
    (hT : Sub [2, 3, 6, 12, 14, 0x3000, 0x3001] T) (h : Keeps T s u) : Keeps T s (failRid u rid status reason) := by
  unfold failRid
  repeat' first
    | with_reducible assumption
    | exact Sub.of rfl hT
    | with_reducible apply moverFail_keeps
    | with_reducible apply retireMover_keeps
    | with_reducible apply modRst_keeps
    | with_reducible refine Keeps.ite ?_ ?_
    | with_reducible intro _
    | split

theorem ctxCount_keeps {T : List Nat} {s u : State}
    (hT : Sub [0x4120] T) (h : Keeps T s u) : Keeps T s (ctxCount u) := by
  unfold ctxCount
  repeat' first
    | with_reducible assumption
    | exact Sub.of rfl hT
    | with_reducible apply wr_keeps

theorem modSrc_keeps {T : List Nat} {s u : State} {k : ℕ} {f : SrcCtx → SrcCtx}
    (hT : Sub [11, 0x4120] T) (h : Keeps T s u) : Keeps T s (modSrc u k f) := by
  unfold modSrc
  repeat' first
    | with_reducible assumption
    | exact Sub.of rfl hT
    | with_reducible apply ctxCount_keeps
    | with_reducible apply modRouter_keeps

theorem windowSend_keeps {T : List Nat} {s u : State} {w : Waiting}
    (hT : Sub [6, 9, 11, 16, 0x4110, 0x4120, 0x4140, 0x7002] T) (h : Keeps T s u) : Keeps T s (windowSend u w) := by
  unfold windowSend
  repeat' first
    | with_reducible assumption
    | exact Sub.of rfl hT
    | with_reducible apply modSrc_keeps
    | with_reducible apply forward_keeps
    | with_reducible refine Keeps.ite ?_ ?_

theorem depart_keeps {T : List Nat} {s u : State} {w : Waiting}
    (hT : Sub [2, 3, 6, 9, 11, 12, 14, 16, 0x3000, 0x3001, 0x4110, 0x4120, 0x4140, 0x7002] T) (h : Keeps T s u) : Keeps T s (depart u w) := by
  unfold depart
  repeat' first
    | with_reducible assumption
    | exact Sub.of rfl hT
    | with_reducible apply forward_keeps
    | with_reducible apply failRid_keeps
    | with_reducible apply modRst_keeps
    | with_reducible apply modRouter_keeps
    | with_reducible apply windowSend_keeps
    | with_reducible refine Keeps.ite ?_ ?_
    | (extract_lets +onlyGivenNames x; first | refine (fun hx => ?_ : Keeps _ _ x → _) ?_ | refine (fun hx => ?_ : KeepsP _ _ x → _) ?_ | skip)
    | with_reducible intro _
    | split

theorem shaperDecide_keeps {T : List Nat} {s u : State} {f : ℕ}
    (hT : Sub [2, 3, 6, 9, 11, 12, 14, 16, 0x3000, 0x3001, 0x4110, 0x4120, 0x4130, 0x4140, 0x7002] T) (h : Keeps T s u) : Keeps T s (shaperDecide u f) := by
  unfold shaperDecide
  repeat' first
    | with_reducible assumption
    | exact Sub.of rfl hT
    | with_reducible apply shpRefill_keeps
    | with_reducible apply bumpSat_keeps
    | with_reducible apply wrI_keeps
    | with_reducible apply modRouter_keeps
    | with_reducible apply depart_keeps
    | with_reducible refine Keeps.ite ?_ ?_
    | (extract_lets +onlyGivenNames x; first | refine (fun hx => ?_ : Keeps _ _ x → _) ?_ | refine (fun hx => ?_ : KeepsP _ _ x → _) ?_ | skip)
    | with_reducible intro _
    | split

theorem shape_keeps {T : List Nat} {s u : State} {w : Waiting}
    (hT : Sub [2, 3, 6, 9, 11, 12, 14, 16, 0x3000, 0x3001, 0x4110, 0x4120, 0x4130, 0x4140, 0x7002] T) (h : Keeps T s u) : Keeps T s (shape u w) := by
  unfold shape
  repeat' first
    | with_reducible assumption
    | exact Sub.of rfl hT
    | with_reducible apply modRouter_keeps
    | with_reducible apply shaperDecide_keeps
    | with_reducible refine Keeps.ite ?_ ?_

theorem handOver_keeps {T : List Nat} {s u : State} {w : Waiting}
    (hT : Sub [2, 3, 6, 9, 11, 12, 14, 16, 0x3000, 0x3001, 0x4110, 0x4120, 0x4130, 0x4140, 0x7002] T) (h : Keeps T s u) : Keeps T s (handOver u w) := by
  unfold handOver
  repeat' first
    | with_reducible assumption
    | exact Sub.of rfl hT
    | with_reducible apply shape_keeps
    | with_reducible apply depart_keeps
    | with_reducible refine Keeps.ite ?_ ?_

theorem sendAgain_keeps {T : List Nat} {s u : State} {p : Packet}
    (hT : Sub [2, 3, 6, 9, 11, 12, 14, 16, 0x3000, 0x3001, 0x4110, 0x4120, 0x4130, 0x4140, 0x7002] T) (h : Keeps T s u) : Keeps T s (sendAgain u p) := by
  unfold sendAgain
  repeat' first
    | with_reducible assumption
    | exact Sub.of rfl hT
    | with_reducible apply handOver_keeps

theorem sendReply_keeps {T : List Nat} {s u : State} {p : Packet} {gen : ℕ} {data : List Byte} {bad : Bool}
    (hT : Sub [2, 3, 6, 9, 11, 12, 14, 16, 20, 0x3000, 0x3001, 0x4110, 0x4120, 0x4130, 0x4140, 0x7002] T) (h : Keeps T s u) : Keeps T s (sendReply u p gen data bad) := by
  unfold sendReply
  repeat' first
    | with_reducible assumption
    | exact Sub.of rfl hT
    | with_reducible apply emit_keeps
    | with_reducible apply sendAgain_keeps
    | with_reducible refine Keeps.ite ?_ ?_

theorem ejectRead_keeps {T : List Nat} {s u : State} {p : Packet} {ecc : List EccHit}
    (hT : Sub [2, 3, 6, 8, 9, 11, 12, 13, 14, 16, 20, 0x2020, 0x3000, 0x3001, 0x3021, 0x3403, 0x3410, 0x3411, 0x4110, 0x4120, 0x4130, 0x4140, 0x6101, 0x6102, 0x6202, 0x7002, 0x9000, 0x9001, 0x9010] T) (h : Keeps T s u) : Keeps T s (ejectRead u p ecc) := by
  unfold ejectRead
  repeat' first
    | with_reducible assumption
    | exact Sub.of rfl hT
    | with_reducible apply gatekeep_keeps
    | with_reducible apply replyDenied_keeps
    | with_reducible apply memRequest_keeps
    | with_reducible apply readRange_keeps
    | with_reducible apply sendReply_keeps
    | with_reducible refine Keeps.ite ?_ ?_
    | with_reducible refine KeepsP.ite ?_ ?_
    | with_reducible apply KeepsP.fst
    | (extract_lets +onlyGivenNames x; first | refine (fun hx => ?_ : Keeps _ _ x → _) ?_ | refine (fun hx => ?_ : KeepsP _ _ x → _) ?_ | skip)
    | with_reducible intro _
    | split

theorem windowResync_keeps {T : List Nat} {s u : State} {peer : ℕ} {vc : ℕ} {incarn : ℕ}
    (hT : Sub [2, 3, 6, 9, 11, 12, 14, 16, 0x3000, 0x3001, 0x4110, 0x4120, 0x4130, 0x4140, 0x7002] T) (h : Keeps T s u) : Keeps T s (windowResync u peer vc incarn) := by
  unfold windowResync
  repeat' first
    | with_reducible assumption
    | exact Sub.of rfl hT
    | with_reducible apply modSrc_keeps
    | with_reducible apply record_keeps
    | with_reducible apply each_keeps
    | with_reducible apply sendAgain_keeps
    | with_reducible refine Keeps.ite ?_ ?_
    | (extract_lets +onlyGivenNames x; first | refine (fun hx => ?_ : Keeps _ _ x → _) ?_ | refine (fun hx => ?_ : KeepsP _ _ x → _) ?_ | skip)
    | with_reducible intro _
    | split

theorem endRid_keeps {T : List Nat} {s u : State} {rid : ℕ}
    (hT : Sub [12, 14] T) (h : Keeps T s u) : Keeps T s (endRid u rid) := by
  unfold endRid
  repeat' first
    | with_reducible assumption
    | exact Sub.of rfl hT
    | with_reducible apply modRst_keeps
    | with_reducible apply modMover_keeps
    | with_reducible refine Keeps.ite ?_ ?_
    | (extract_lets +onlyGivenNames x; first | refine (fun hx => ?_ : Keeps _ _ x → _) ?_ | refine (fun hx => ?_ : KeepsP _ _ x → _) ?_ | skip)
    | with_reducible intro _
    | split

theorem windowFill_keeps {T : List Nat} {s u : State} {fuel : ℕ} {k : ℕ}
    (hT : Sub [2, 3, 6, 9, 11, 12, 14, 16, 0x3000, 0x3001, 0x4110, 0x4120, 0x4140, 0x7002] T) (h : Keeps T s u) : Keeps T s (windowFill fuel u k) := by
  induction fuel generalizing u k with
  | zero =>
    unfold windowFill
    repeat' first
      | with_reducible assumption
      | exact Sub.of rfl hT
      | with_reducible apply depart_keeps
      | with_reducible apply modSrc_keeps
      | with_reducible apply ih
      | with_reducible refine Keeps.ite ?_ ?_
      | with_reducible intro _
      | dsimp only
      | split
  | succ n ih =>
    unfold windowFill
    repeat' first
      | with_reducible assumption
      | exact Sub.of rfl hT
      | with_reducible apply depart_keeps
      | with_reducible apply modSrc_keeps
      | with_reducible apply ih
      | with_reducible refine Keeps.ite ?_ ?_
      | with_reducible intro _
      | dsimp only
      | split

theorem windowAck_keeps {T : List Nat} {s u : State} {peer : ℕ} {vc : ℕ} {cum : ℕ} {map_ : ℕ} {incarn : ℕ}
    (hT : Sub [2, 3, 6, 9, 11, 12, 14, 16, 0x3000, 0x3001, 0x4110, 0x4120, 0x4140, 0x7002] T) (h : Keeps T s u) : Keeps T s (windowAck u peer vc cum map_ incarn) := by
  unfold windowAck
  repeat' first
    | with_reducible assumption
    | exact Sub.of rfl hT
    | with_reducible apply modSrc_keeps
    | with_reducible apply each_keeps
    | with_reducible apply endRid_keeps
    | with_reducible apply windowFill_keeps
    | with_reducible refine Keeps.ite ?_ ?_
    | (extract_lets +onlyGivenNames x; first | refine (fun hx => ?_ : Keeps _ _ x → _) ?_ | refine (fun hx => ?_ : KeepsP _ _ x → _) ?_ | skip)
    | with_reducible intro _
    | split

theorem ackRx_keeps {T : List Nat} {s u : State} {p : Packet}
    (hT : Sub [2, 3, 6, 9, 11, 12, 14, 16, 0x3000, 0x3001, 0x4110, 0x4120, 0x4130, 0x4140, 0x7002] T) (h : Keeps T s u) : Keeps T s (ackRx u p) := by
  unfold ackRx
  repeat' first
    | with_reducible assumption
    | exact Sub.of rfl hT
    | with_reducible apply windowResync_keeps
    | with_reducible apply windowAck_keeps
    | with_reducible refine Keeps.ite ?_ ?_

theorem deliverPkt_keeps {T : List Nat} {s u : State} {p : Packet} {ecc : List EccHit}
    (hT : Sub [2, 3, 5, 6, 8, 9, 11, 12, 13, 14, 16, 19, 20, 0x2020, 0x2021, 0x3000, 0x3001, 0x3021, 0x3403, 0x3410, 0x3411, 0x4110, 0x4120, 0x4130, 0x4140, 0x6101, 0x6102, 0x6202, 0x7002, 0x8100, 0x9000, 0x9001, 0x9010] T) (h : Keeps T s u) : Keeps T s (deliverPkt u p ecc) := by
  unfold deliverPkt
  repeat' first
    | with_reducible assumption
    | exact Sub.of rfl hT
    | with_reducible apply fccTake_keeps
    | with_reducible apply ejectCast_keeps
    | with_reducible apply ejectPlanned_keeps
    | with_reducible apply ejectWrite_keeps
    | with_reducible apply ejectRead_keeps
    | with_reducible apply ackRx_keeps
    | with_reducible apply emit_keeps
    | with_reducible refine Keeps.ite ?_ ?_

theorem modRcv_keeps {T : List Nat} {s u : State} {k : ℕ} {f : RcvCtx → RcvCtx}
    (hT : Sub [11, 0x4120] T) (h : Keeps T s u) : Keeps T s (modRcv u k f) := by
  unfold modRcv
  repeat' first
    | with_reducible assumption
    | exact Sub.of rfl hT
    | with_reducible apply ctxCount_keeps
    | with_reducible apply modRouter_keeps

theorem windowTake_keeps {T : List Nat} {s u : State} {k : ℕ} {c : RcvCtx} {p : Packet} {ecc : List EccHit}
    (hT : Sub [2, 3, 5, 6, 8, 9, 11, 12, 13, 14, 16, 19, 20, 0x2020, 0x2021, 0x3000, 0x3001, 0x3021, 0x3403, 0x3410, 0x3411, 0x4110, 0x4120, 0x4130, 0x4140, 0x6101, 0x6102, 0x6202, 0x7002, 0x8100, 0x9000, 0x9001, 0x9010] T) (h : Keeps T s u) : Keeps T s (windowTake u k c p ecc) := by
  unfold windowTake
  repeat' first
    | with_reducible assumption
    | exact Sub.of rfl hT
    | with_reducible apply deliverPkt_keeps
    | with_reducible apply modRcv_keeps
    | with_reducible apply bumpSat_keeps
    | with_reducible refine Keeps.ite ?_ ?_

theorem restamp_keeps {T : List Nat} {s u : State} {port : ℕ} {q : QPacket}
    (hT : Sub [6, 9, 16, 0x4110, 0x4140, 0x7002] T) (h : Keeps T s u) : Keeps T s (restamp u port q) := by
  unfold restamp
  repeat' first
    | with_reducible assumption
    | exact Sub.of rfl hT
    | with_reducible apply putOn_keeps
    | with_reducible apply forward_keeps
    | with_reducible refine Keeps.ite ?_ ?_

theorem sendAck_keeps {T : List Nat} {s u : State} {peer : ℕ} {vc : ℕ} {c : RcvCtx} {resync : Bool}
    (hT : Sub [6, 9, 16, 0x4110, 0x4140, 0x7002] T) (h : Keeps T s u) : Keeps T s (sendAck u peer vc c resync) := by
  unfold sendAck
  repeat' first
    | with_reducible assumption
    | exact Sub.of rfl hT
    | with_reducible apply forward_keeps

theorem holdOne_keeps {T : List Nat} {s : State} {port : Nat} {a : State × Nat × Nat} {q : QPacket}
    (hT : Sub [6, 9, 16, 0x4110, 0x4140, 0x7002] T) (h : KeepsP T s a) : KeepsP T s (holdOne port a q) := by
  have h' := KeepsP.fst h
  unfold holdOne
  extract_lets s1 out
  split
  · exact KeepsP.mk (putOn_keeps (Sub.of rfl hT) h')
  · exact KeepsP.mk (dropPkt_keeps (Sub.of rfl hT) (releasePkt_keeps (Sub.of rfl hT) h'))

theorem injectDenied_keeps {T : List Nat} {s u : State} {i : Inject}
    (hT : Sub [2, 3, 6, 12, 16, 0x3000, 0x3001, 0x7002] T) (h : Keeps T s u) : Keeps T s (injectDenied u i) := by
  unfold injectDenied
  repeat' first
    | with_reducible assumption
    | exact Sub.of rfl hT
    | with_reducible apply record_keeps
    | with_reducible apply doNotSeal_keeps
    | with_reducible apply moverFail_keeps
    | with_reducible refine Keeps.ite ?_ ?_
    | (extract_lets +onlyGivenNames x; first | refine (fun hx => ?_ : Keeps _ _ x → _) ?_ | refine (fun hx => ?_ : KeepsP _ _ x → _) ?_ | skip)
    | with_reducible intro _
    | split

theorem slipTag_keeps {T : List Nat} {s u : State} {port : ℕ} {tag : ℕ}
    (hT : Sub [6, 16, 0x3010, 0x3011, 0x7002] T) (h : Keeps T s u) : Keeps T s (slipTag u port tag) := by
  unfold slipTag
  repeat' first
    | with_reducible assumption
    | exact Sub.of rfl hT
    | with_reducible apply slipRecord_keeps
    | with_reducible apply each_keeps
    | with_reducible apply slipStep_keeps
    | with_reducible apply bumpSat_keeps
    | with_reducible refine Keeps.ite ?_ ?_
    | (extract_lets +onlyGivenNames x; first | refine (fun hx => ?_ : Keeps _ _ x → _) ?_ | refine (fun hx => ?_ : KeepsP _ _ x → _) ?_ | skip)
    | with_reducible intro _
    | split

theorem castCopy_keeps {T : List Nat} {s u : State} {port : ℕ} {p : Packet}
    (hT : Sub [6, 9, 16, 0x3010, 0x3011, 0x4140, 0x7002] T) (h : Keeps T s u) : Keeps T s (castCopy u port p) := by
  unfold castCopy
  repeat' first
    | with_reducible assumption
    | exact Sub.of rfl hT
    | with_reducible apply dropPkt_keeps
    | with_reducible apply queueAt_keeps
    | with_reducible apply slipTag_keeps
    | with_reducible refine Keeps.ite ?_ ?_

theorem castRoute_keeps {T : List Nat} {s u : State} {q : QPacket} {ecc : List EccHit}
    (hT : Sub [2, 3, 5, 6, 8, 9, 11, 12, 13, 14, 16, 19, 20, 0x2020, 0x2021, 0x3000, 0x3001, 0x3010, 0x3011, 0x3021, 0x3403, 0x3410, 0x3411, 0x4110, 0x4120, 0x4130, 0x4140, 0x6101, 0x6102, 0x6202, 0x7002, 0x8100, 0x9000, 0x9001, 0x9010] T) (h : Keeps T s u) : Keeps T s (castRoute u q ecc) := by
  unfold castRoute
  repeat' first
    | with_reducible assumption
    | exact Sub.of rfl hT
    | with_reducible apply forward_keeps
    | with_reducible apply releasePkt_keeps
    | with_reducible apply deliverPkt_keeps
    | with_reducible apply castCopy_keeps
    | with_reducible refine Keeps.ite ?_ ?_

theorem noteOut_keeps {T : List Nat} {s u : State} {i : Inject} {p : Packet}
    (hT : Sub [14] T) (h : Keeps T s u) : Keeps T s (noteOut u i p) := by
  unfold noteOut
  repeat' first
    | with_reducible assumption
    | exact Sub.of rfl hT
    | with_reducible apply modRst_keeps
    | with_reducible refine Keeps.ite ?_ ?_

theorem inject_keeps {T : List Nat} {s u : State} {i : Inject}
    (hT : Sub [2, 3, 5, 6, 8, 9, 11, 12, 13, 14, 16, 19, 20, 0x2020, 0x2021, 0x3000, 0x3001, 0x3010, 0x3011, 0x3021, 0x3403, 0x3410, 0x3411, 0x4110, 0x4120, 0x4130, 0x4140, 0x6101, 0x6102, 0x6202, 0x7002, 0x8100, 0x9000, 0x9001, 0x9010] T) (h : Keeps T s u) : Keeps T s (inject u i) := by
  unfold inject
  repeat' first
    | with_reducible assumption
    | exact Sub.of rfl hT
    | with_reducible apply injectDenied_keeps
    | with_reducible apply castRoute_keeps
    | with_reducible apply deliverPkt_keeps
    | with_reducible apply noteOut_keeps
    | with_reducible apply endRid_keeps
    | with_reducible apply modRouter_keeps
    | with_reducible apply handOver_keeps
    | with_reducible apply forward_keeps
    | with_reducible refine Keeps.ite ?_ ?_
    | (extract_lets +onlyGivenNames x; first | refine (fun hx => ?_ : Keeps _ _ x → _) ?_ | refine (fun hx => ?_ : KeepsP _ _ x → _) ?_ | skip)
    | with_reducible intro _
    | split

theorem serveReads_keeps {T : List Nat} {s u : State}
    (hT : Sub [2, 3, 5, 6, 8, 9, 11, 12, 13, 14, 16, 19, 20, 0x2020, 0x2021, 0x3000, 0x3001, 0x3010, 0x3011, 0x3021, 0x3403, 0x3410, 0x3411, 0x4110, 0x4120, 0x4130, 0x4140, 0x6101, 0x6102, 0x6202, 0x7002, 0x8100, 0x9000, 0x9001, 0x9010] T) (h : Keeps T s u) : Keeps T s (serveReads u) := by
  unfold serveReads
  repeat' first
    | with_reducible assumption
    | exact Sub.of rfl hT
    | with_reducible apply each_keeps
    | with_reducible apply modRouter_keeps
    | with_reducible apply inject_keeps
    | with_reducible refine Keeps.ite ?_ ?_
    | (extract_lets +onlyGivenNames x; first | refine (fun hx => ?_ : Keeps _ _ x → _) ?_ | refine (fun hx => ?_ : KeepsP _ _ x → _) ?_ | skip)
    | with_reducible intro _

theorem takeHeld_keeps {T : List Nat} {s u : State} {port : ℕ} {v : ℕ} {begun : Bool}
    (hT : Sub [9, 0x4110] T) (h : Keeps T s u) : KeepsP T s (takeHeld u port v begun) := by
  unfold takeHeld
  repeat' first
    | with_reducible assumption
    | exact Sub.of rfl hT
    | with_reducible apply modPort_keeps
    | with_reducible apply each_keeps
    | with_reducible apply wr_keeps
    | with_reducible refine Keeps.ite ?_ ?_
    | with_reducible refine KeepsP.ite ?_ ?_
    | with_reducible apply KeepsP.fst
    | (extract_lets +onlyGivenNames x; first | refine (fun hx => ?_ : Keeps _ _ x → _) ?_ | refine (fun hx => ?_ : KeepsP _ _ x → _) ?_ | skip)
    | with_reducible intro _
    | split
    | with_reducible apply KeepsP.mk

theorem windowGiveUp_keeps {T : List Nat} {s u : State} {peer : ℕ} {vc : ℕ} {e : Unacked}
    (hT : Sub [2, 3, 6, 9, 11, 12, 14, 16, 0x3000, 0x3001, 0x4110, 0x4120, 0x4140, 0x7002] T) (h : Keeps T s u) : Keeps T s (windowGiveUp u peer vc e) := by
  unfold windowGiveUp
  repeat' first
    | with_reducible assumption
    | exact Sub.of rfl hT
    | with_reducible apply modSrc_keeps
    | with_reducible apply record_keeps
    | with_reducible apply bumpSat_keeps
    | with_reducible apply windowFill_keeps
    | with_reducible apply failRid_keeps
    | with_reducible refine Keeps.ite ?_ ?_

theorem execE2eRetransmit_keeps {u : State} {peer : ℕ} {vc : ℕ} {eseq : ℕ} :
    OutKeeps [2, 3, 5, 6, 8, 9, 11, 12, 13, 14, 16, 19, 20, 0x2020, 0x2021, 0x3000, 0x3001, 0x3010, 0x3011, 0x3021, 0x3403, 0x3410, 0x3411, 0x4110, 0x4120, 0x4130, 0x4140, 0x6101, 0x6102, 0x6202, 0x7002, 0x8100, 0x9000, 0x9001, 0x9010] u (execE2eRetransmit peer vc eseq u) := by
  have h := Keeps.refl [2, 3, 5, 6, 8, 9, 11, 12, 13, 14, 16, 19, 20, 0x2020, 0x2021, 0x3000, 0x3001, 0x3010, 0x3011, 0x3021, 0x3403, 0x3410, 0x3411, 0x4110, 0x4120, 0x4130, 0x4140, 0x6101, 0x6102, 0x6202, 0x7002, 0x8100, 0x9000, 0x9001, 0x9010] u
  have hT := Sub.rfl (a := [2, 3, 5, 6, 8, 9, 11, 12, 13, 14, 16, 19, 20, 0x2020, 0x2021, 0x3000, 0x3001, 0x3010, 0x3011, 0x3021, 0x3403, 0x3410, 0x3411, 0x4110, 0x4120, 0x4130, 0x4140, 0x6101, 0x6102, 0x6202, 0x7002, 0x8100, 0x9000, 0x9001, 0x9010])
  unfold execE2eRetransmit
  repeat' first
    | with_reducible assumption
    | exact Sub.of rfl hT
    | with_reducible apply serveReads_keeps
    | with_reducible apply windowGiveUp_keeps
    | with_reducible apply sendAgain_keeps
    | with_reducible apply modSrc_keeps
    | with_reducible apply OutKeeps.next
    | with_reducible refine Keeps.ite ?_ ?_
    | (extract_lets +onlyGivenNames x; first | refine (fun hx => ?_ : Keeps _ _ x → _) ?_ | refine (fun hx => ?_ : KeepsP _ _ x → _) ?_ | skip)
    | with_reducible intro _
    | split

theorem holdEnd_keeps {T : List Nat} {s u : State} {port : ℕ}
    (hT : Sub [6, 9, 16, 0x4110, 0x4140, 0x7002] T) (h : Keeps T s u) : Keeps T s (holdEnd u port) := by
  unfold holdEnd
  repeat' first
    | with_reducible assumption
    | exact Sub.of rfl hT
    | with_reducible apply takeHeld_keeps
    | with_reducible apply modPort_keeps
    | with_reducible apply each_keeps
    | with_reducible apply wr_keeps
    | with_reducible apply holdOne_keeps
    | with_reducible apply record_keeps
    | with_reducible apply foldl_keepsP
    | exact holdOne_keeps (Sub.of rfl hT) (by assumption)
    | dsimp only
    | with_reducible refine Keeps.ite ?_ ?_
    | with_reducible refine KeepsP.ite ?_ ?_
    | with_reducible apply KeepsP.fst
    | (extract_lets +onlyGivenNames x; first | refine (fun hx => ?_ : Keeps _ _ x → _) ?_ | refine (fun hx => ?_ : KeepsP _ _ x → _) ?_ | skip)
    | with_reducible intro _
    | split
    | with_reducible apply KeepsP.mk

theorem execPortHoldExpiry_keeps {u : State} {port : ℕ} :
    OutKeeps [6, 9, 16, 0x4110, 0x4140, 0x7002] u (execPortHoldExpiry port u) := by
  have h := Keeps.refl [6, 9, 16, 0x4110, 0x4140, 0x7002] u
  have hT := Sub.rfl (a := [6, 9, 16, 0x4110, 0x4140, 0x7002])
  unfold execPortHoldExpiry
  repeat' first
    | with_reducible assumption
    | exact Sub.of rfl hT
    | with_reducible apply holdEnd_keeps
    | with_reducible apply OutKeeps.next
    | with_reducible refine Keeps.ite ?_ ?_
    | with_reducible intro _
    | split

theorem execShaperDecision_keeps {u : State} {func : ℕ} :
    OutKeeps [2, 3, 6, 9, 11, 12, 14, 16, 0x3000, 0x3001, 0x4110, 0x4120, 0x4130, 0x4140, 0x7002] u (execShaperDecision func u) := by
  have h := Keeps.refl [2, 3, 6, 9, 11, 12, 14, 16, 0x3000, 0x3001, 0x4110, 0x4120, 0x4130, 0x4140, 0x7002] u
  have hT := Sub.rfl (a := [2, 3, 6, 9, 11, 12, 14, 16, 0x3000, 0x3001, 0x4110, 0x4120, 0x4130, 0x4140, 0x7002])
  unfold execShaperDecision
  repeat' first
    | with_reducible assumption
    | exact Sub.of rfl hT
    | with_reducible apply shaperDecide_keeps
    | with_reducible apply OutKeeps.next

theorem verWrite_keeps {T : List Nat} {s u : State} {r : Reg} {v : ℕ} {i : ℕ} {x' : ℕ}
    (hT : Sub [31] T) (h : Keeps T s u) : KeepsP T s (verWrite u r v i x') := by
  unfold verWrite
  repeat' first
    | with_reducible assumption
    | exact Sub.of rfl hT
    | with_reducible apply deny_keeps
    | with_reducible apply done_keeps
    | with_reducible apply wr_keeps
    | with_reducible refine Keeps.ite ?_ ?_
    | with_reducible refine KeepsP.ite ?_ ?_
    | with_reducible apply KeepsP.fst
    | exact Sub.reg _ hT rfl

theorem rtState_keeps {T : List Nat} {s u : State} {v : ℕ}
    (hT : Sub [0x4101] T) (h : Keeps T s u) : KeepsP T s (rtState u v) := by
  unfold rtState
  repeat' first
    | with_reducible assumption
    | exact Sub.of rfl hT
    | with_reducible apply deny_keeps
    | with_reducible apply done_keeps
    | with_reducible apply wr_keeps
    | with_reducible refine Keeps.ite ?_ ?_
    | with_reducible refine KeepsP.ite ?_ ?_

theorem execFabRtState_keeps {u : State} {who : Who} {inst : ℕ} {value : ℕ} :
    OutKeeps [20, 0x4101] u (execFabRtState who inst value u) := by
  have h := Keeps.refl [20, 0x4101] u
  have hT := Sub.rfl (a := [20, 0x4101])
  unfold execFabRtState
  repeat' first
    | with_reducible assumption
    | exact Sub.of rfl hT
    | with_reducible apply guard_keeps
    | with_reducible apply rtState_keeps
    | with_reducible apply OutKeeps.next
    | with_reducible refine Keeps.ite ?_ ?_
    | with_reducible refine KeepsP.ite ?_ ?_
    | with_reducible apply KeepsP.fst
    | with_reducible intro _

theorem retireVersion_keeps {T : List Nat} {s u : State} {v : ℕ}
    (hT : Sub [6, 9, 16, 0x4101, 0x4110, 0x4140, 0x7002] T) (h : Keeps T s u) : Keeps T s (retireVersion u v) := by
  unfold retireVersion
  repeat' first
    | with_reducible assumption
    | exact Sub.of rfl hT
    | with_reducible apply wr_keeps
    | with_reducible apply takeHeld_keeps
    | with_reducible apply record_keeps
    | with_reducible apply each_keeps
    | with_reducible apply restamp_keeps
    | with_reducible apply foldl_keepsP
    | with_reducible refine Keeps.ite ?_ ?_
    | with_reducible refine KeepsP.ite ?_ ?_
    | with_reducible apply KeepsP.fst
    | (extract_lets +onlyGivenNames x; first | refine (fun hx => ?_ : Keeps _ _ x → _) ?_ | refine (fun hx => ?_ : KeepsP _ _ x → _) ?_ | skip)
    | with_reducible intro _
    | split
    | with_reducible apply KeepsP.mk

theorem execVersionRetire_keeps {u : State} {v : ℕ} :
    OutKeeps [6, 9, 16, 0x4101, 0x4110, 0x4140, 0x7002] u (execVersionRetire v u) := by
  have h := Keeps.refl [6, 9, 16, 0x4101, 0x4110, 0x4140, 0x7002] u
  have hT := Sub.rfl (a := [6, 9, 16, 0x4101, 0x4110, 0x4140, 0x7002])
  unfold execVersionRetire
  repeat' first
    | with_reducible assumption
    | exact Sub.of rfl hT
    | with_reducible apply retireVersion_keeps
    | with_reducible apply OutKeeps.next
    | with_reducible refine Keeps.ite ?_ ?_
    | with_reducible intro _
    | split

theorem resync_keeps {T : List Nat} {s u : State} {p : Packet}
    (hT : Sub [6, 9, 16, 0x4110, 0x4120, 0x4140, 0x7002] T) (h : Keeps T s u) : Keeps T s (resync u p) := by
  unfold resync
  repeat' first
    | with_reducible assumption
    | exact Sub.of rfl hT
    | with_reducible apply sendAck_keeps
    | with_reducible apply bumpSat_keeps

theorem windowReceive_keeps {T : List Nat} {s u : State} {p : Packet} {ecc : List EccHit}
    (hT : Sub [2, 3, 5, 6, 8, 9, 11, 12, 13, 14, 16, 19, 20, 0x2020, 0x2021, 0x3000, 0x3001, 0x3021, 0x3403, 0x3410, 0x3411, 0x4110, 0x4120, 0x4130, 0x4140, 0x6101, 0x6102, 0x6202, 0x7002, 0x8100, 0x9000, 0x9001, 0x9010] T) (h : Keeps T s u) : Keeps T s (windowReceive u p ecc) := by
  unfold windowReceive
  repeat' first
    | with_reducible assumption
    | exact Sub.of rfl hT
    | with_reducible apply resync_keeps
    | with_reducible apply windowTake_keeps
    | with_reducible refine Keeps.ite ?_ ?_
    | (extract_lets +onlyGivenNames x; first | refine (fun hx => ?_ : Keeps _ _ x → _) ?_ | refine (fun hx => ?_ : KeepsP _ _ x → _) ?_ | skip)
    | with_reducible intro _
    | split

theorem eject_keeps {T : List Nat} {s u : State} {p : Packet} {ecc : List EccHit}
    (hT : Sub [2, 3, 5, 6, 8, 9, 11, 12, 13, 14, 16, 19, 20, 0x2020, 0x2021, 0x3000, 0x3001, 0x3021, 0x3403, 0x3410, 0x3411, 0x4110, 0x4120, 0x4130, 0x4140, 0x6101, 0x6102, 0x6202, 0x7002, 0x8100, 0x9000, 0x9001, 0x9010] T) (h : Keeps T s u) : Keeps T s (eject u p ecc) := by
  unfold eject
  repeat' first
    | with_reducible assumption
    | exact Sub.of rfl hT
    | with_reducible apply windowReceive_keeps
    | with_reducible apply deliverPkt_keeps
    | with_reducible refine Keeps.ite ?_ ?_

theorem execPacketEject_keeps {u : State} {p : Packet} {ecc : List EccHit} :
    OutKeeps [2, 3, 5, 6, 8, 9, 11, 12, 13, 14, 16, 19, 20, 0x2020, 0x2021, 0x3000, 0x3001, 0x3021, 0x3403, 0x3410, 0x3411, 0x4110, 0x4120, 0x4130, 0x4140, 0x6101, 0x6102, 0x6202, 0x7002, 0x8100, 0x9000, 0x9001, 0x9010] u (execPacketEject p ecc u) := by
  have h := Keeps.refl [2, 3, 5, 6, 8, 9, 11, 12, 13, 14, 16, 19, 20, 0x2020, 0x2021, 0x3000, 0x3001, 0x3021, 0x3403, 0x3410, 0x3411, 0x4110, 0x4120, 0x4130, 0x4140, 0x6101, 0x6102, 0x6202, 0x7002, 0x8100, 0x9000, 0x9001, 0x9010] u
  have hT := Sub.rfl (a := [2, 3, 5, 6, 8, 9, 11, 12, 13, 14, 16, 19, 20, 0x2020, 0x2021, 0x3000, 0x3001, 0x3021, 0x3403, 0x3410, 0x3411, 0x4110, 0x4120, 0x4130, 0x4140, 0x6101, 0x6102, 0x6202, 0x7002, 0x8100, 0x9000, 0x9001, 0x9010])
  unfold execPacketEject
  repeat' first
    | with_reducible assumption
    | exact Sub.of rfl hT
    | with_reducible apply eject_keeps
    | with_reducible apply OutKeeps.next

theorem dmapWrite_keeps {T : List Nat} {s u : State} {i : ℕ} {x' : ℕ}
    (hT : Sub [31] T) (h : Keeps T s u) : KeepsP T s (dmapWrite u i x') := by
  unfold dmapWrite
  repeat' first
    | with_reducible assumption
    | exact Sub.of rfl hT
    | with_reducible apply deny_keeps
    | with_reducible apply verWrite_keeps
    | with_reducible refine Keeps.ite ?_ ?_
    | with_reducible refine KeepsP.ite ?_ ?_

theorem freezePod_keeps {T : List Nat} {s u : State}
    (hT : Sub [2, 3, 5, 6, 8, 9, 11, 12, 13, 14, 16, 19, 20, 0x2020, 0x2021, 0x3000, 0x3001, 0x3010, 0x3011, 0x3021, 0x3403, 0x3410, 0x3411, 0x4110, 0x4120, 0x4130, 0x4140, 0x6101, 0x6102, 0x6202, 0x7002, 0x8100, 0x9000, 0x9001, 0x9010] T) (h : Keeps T s u) : KeepsP T s (freezePod u) := by
  unfold freezePod
  repeat' first
    | with_reducible assumption
    | exact Sub.of rfl hT
    | with_reducible apply deny_keeps
    | with_reducible apply done_keeps
    | with_reducible apply castRoute_keeps
    | with_reducible refine Keeps.ite ?_ ?_
    | with_reducible refine KeepsP.ite ?_ ?_

theorem execFrzPodGo_keeps {u : State} {who : Who} :
    OutKeeps [2, 3, 5, 6, 8, 9, 11, 12, 13, 14, 16, 19, 20, 0x2020, 0x2021, 0x3000, 0x3001, 0x3010, 0x3011, 0x3021, 0x3403, 0x3410, 0x3411, 0x4110, 0x4120, 0x4130, 0x4140, 0x6101, 0x6102, 0x6202, 0x7002, 0x8100, 0x9000, 0x9001, 0x9010] u (execFrzPodGo who u) := by
  have h := Keeps.refl [2, 3, 5, 6, 8, 9, 11, 12, 13, 14, 16, 19, 20, 0x2020, 0x2021, 0x3000, 0x3001, 0x3010, 0x3011, 0x3021, 0x3403, 0x3410, 0x3411, 0x4110, 0x4120, 0x4130, 0x4140, 0x6101, 0x6102, 0x6202, 0x7002, 0x8100, 0x9000, 0x9001, 0x9010] u
  have hT := Sub.rfl (a := [2, 3, 5, 6, 8, 9, 11, 12, 13, 14, 16, 19, 20, 0x2020, 0x2021, 0x3000, 0x3001, 0x3010, 0x3011, 0x3021, 0x3403, 0x3410, 0x3411, 0x4110, 0x4120, 0x4130, 0x4140, 0x6101, 0x6102, 0x6202, 0x7002, 0x8100, 0x9000, 0x9001, 0x9010])
  unfold execFrzPodGo
  repeat' first
    | with_reducible assumption
    | exact Sub.of rfl hT
    | with_reducible apply guard_keeps
    | with_reducible apply freezePod_keeps
    | with_reducible apply OutKeeps.next
    | with_reducible refine Keeps.ite ?_ ?_
    | with_reducible refine KeepsP.ite ?_ ?_
    | with_reducible apply KeepsP.fst
    | with_reducible intro _

theorem execE2eAckSend_keeps {u : State} {peer : ℕ} {vc : ℕ} :
    OutKeeps [6, 9, 11, 16, 0x4110, 0x4120, 0x4140, 0x7002] u (execE2eAckSend peer vc u) := by
  have h := Keeps.refl [6, 9, 11, 16, 0x4110, 0x4120, 0x4140, 0x7002] u
  have hT := Sub.rfl (a := [6, 9, 11, 16, 0x4110, 0x4120, 0x4140, 0x7002])
  unfold execE2eAckSend
  repeat' first
    | with_reducible assumption
    | exact Sub.of rfl hT
    | with_reducible apply sendAck_keeps
    | with_reducible apply modRcv_keeps
    | with_reducible apply OutKeeps.next
    | with_reducible refine Keeps.ite ?_ ?_
    | with_reducible intro _
    | split

theorem localTake_keeps {T : List Nat} {s u : State} {port : ℕ} {p : Packet}
    (hT : Sub [2, 3, 4, 5, 6, 8, 9, 13, 14, 16, 19, 20, 21, 0x2020, 0x2021, 0x3021, 0x3403, 0x3410, 0x3411, 0x4110, 0x4140, 0x5801, 0x5804, 0x5810, 0x6101, 0x6102, 0x6202, 0x7002, 0x8100, 0x9000, 0x9001, 0x9010] T) (h : Keeps T s u) : Keeps T s (localTake u port p) := by
  unfold localTake
  repeat' first
    | with_reducible assumption
    | exact Sub.of rfl hT
    | with_reducible apply fccTake_keeps
    | with_reducible apply timeRx_keeps
    | with_reducible apply emit_keeps
    | with_reducible refine Keeps.ite ?_ ?_

theorem epochInj_keeps {T : List Nat} {s u : State} {v : ℕ}
    (hT : Sub [11, 16, 0x4100, 0x4101, 0x6203, 0x7002] T) (h : Keeps T s u) : KeepsP T s (epochInj u v) := by
  unfold epochInj
  repeat' first
    | with_reducible assumption
    | exact Sub.of rfl hT
    | with_reducible apply deny_keeps
    | with_reducible apply wr_keeps
    | with_reducible apply record_keeps
    | with_reducible apply modRouter_keeps
    | with_reducible apply done_keeps
    | with_reducible apply each_keeps
    | with_reducible apply setTree_keeps
    | with_reducible refine Keeps.ite ?_ ?_
    | with_reducible refine KeepsP.ite ?_ ?_
    | with_reducible apply KeepsP.fst
    | (extract_lets +onlyGivenNames x; first | refine (fun hx => ?_ : Keeps _ _ x → _) ?_ | refine (fun hx => ?_ : KeepsP _ _ x → _) ?_ | skip)
    | with_reducible intro _

theorem execFabEpochInj_keeps {u : State} {who : Who} {value : ℕ} :
    OutKeeps [11, 16, 20, 0x4100, 0x4101, 0x6203, 0x7002] u (execFabEpochInj who value u) := by
  have h := Keeps.refl [11, 16, 20, 0x4100, 0x4101, 0x6203, 0x7002] u
  have hT := Sub.rfl (a := [11, 16, 20, 0x4100, 0x4101, 0x6203, 0x7002])
  unfold execFabEpochInj
  repeat' first
    | with_reducible assumption
    | exact Sub.of rfl hT
    | with_reducible apply guard_keeps
    | with_reducible apply epochInj_keeps
    | with_reducible apply OutKeeps.next
    | with_reducible refine Keeps.ite ?_ ?_
    | with_reducible refine KeepsP.ite ?_ ?_
    | with_reducible apply KeepsP.fst
    | with_reducible intro _

theorem vc1Res_keeps {T : List Nat} {s u : State} {i : ℕ} {v : ℕ}
    (hT : Sub [0x4112] T) (h : Keeps T s u) : KeepsP T s (vc1Res u i v) := by
  unfold vc1Res
  repeat' first
    | with_reducible assumption
    | exact Sub.of rfl hT
    | with_reducible apply deny_keeps
    | with_reducible apply done_keeps
    | with_reducible apply wr_keeps
    | with_reducible refine Keeps.ite ?_ ?_
    | with_reducible refine KeepsP.ite ?_ ?_

theorem execFabVc1Res_keeps {u : State} {who : Who} {inst : ℕ} {value : ℕ} :
    OutKeeps [20, 0x4112] u (execFabVc1Res who inst value u) := by
  have h := Keeps.refl [20, 0x4112] u
  have hT := Sub.rfl (a := [20, 0x4112])
  unfold execFabVc1Res
  repeat' first
    | with_reducible assumption
    | exact Sub.of rfl hT
    | with_reducible apply guard_keeps
    | with_reducible apply vc1Res_keeps
    | with_reducible apply OutKeeps.next
    | with_reducible refine Keeps.ite ?_ ?_
    | with_reducible refine KeepsP.ite ?_ ?_
    | with_reducible apply KeepsP.fst
    | with_reducible intro _

theorem shpLevel_keeps {T : List Nat} {s u : State} {f : ℕ} {v : ℤ}
    (hT : Sub [11, 0x4130] T) (h : Keeps T s u) : KeepsP T s (shpLevel u f v) := by
  unfold shpLevel
  repeat' first
    | with_reducible assumption
    | exact Sub.of rfl hT
    | with_reducible apply done_keeps
    | with_reducible apply wrI_keeps
    | with_reducible apply shpRefill_keeps
    | with_reducible refine Keeps.ite ?_ ?_
    | with_reducible refine KeepsP.ite ?_ ?_
    | with_reducible apply KeepsP.fst
    | with_reducible intro _
    | split
    | with_reducible apply KeepsP.mk

theorem noteGen_keeps {T : List Nat} {s u : State} {chip : ℕ} {unit : ℕ} {gen : ℕ}
    (hT : Sub [14, 0x2021] T) (h : Keeps T s u) : Keeps T s (noteGen u chip unit gen) := by
  unfold noteGen
  repeat' first
    | with_reducible assumption
    | exact Sub.of rfl hT
    | with_reducible apply wr_keeps
    | with_reducible apply modRst_keeps
    | with_reducible refine Keeps.ite ?_ ?_

theorem contextFreed_keeps {T : List Nat} {s u : State}
    (hT : Sub [2, 3, 6, 9, 11, 12, 14, 16, 0x3000, 0x3001, 0x4110, 0x4120, 0x4140, 0x7002] T) (h : Keeps T s u) : Keeps T s (contextFreed u) := by
  unfold contextFreed
  repeat' first
    | with_reducible assumption
    | exact Sub.of rfl hT
    | with_reducible apply depart_keeps
    | with_reducible apply modRouter_keeps
    | with_reducible refine Keeps.ite ?_ ?_
    | with_reducible intro _
    | split

theorem execContextEvict_keeps {u : State} {source : Bool} {peer : ℕ} {vc : ℕ} :
    OutKeeps [2, 3, 6, 9, 11, 12, 14, 16, 0x3000, 0x3001, 0x4110, 0x4120, 0x4140, 0x7002] u (execContextEvict source peer vc u) := by
  have h := Keeps.refl [2, 3, 6, 9, 11, 12, 14, 16, 0x3000, 0x3001, 0x4110, 0x4120, 0x4140, 0x7002] u
  have hT := Sub.rfl (a := [2, 3, 6, 9, 11, 12, 14, 16, 0x3000, 0x3001, 0x4110, 0x4120, 0x4140, 0x7002])
  unfold execContextEvict
  repeat' first
    | with_reducible assumption
    | exact Sub.of rfl hT
    | with_reducible apply contextFreed_keeps
    | with_reducible apply ctxCount_keeps
    | with_reducible apply modRouter_keeps
    | with_reducible apply OutKeeps.next
    | with_reducible refine Keeps.ite ?_ ?_
    | (extract_lets +onlyGivenNames x; first | refine (fun hx => ?_ : Keeps _ _ x → _) ?_ | refine (fun hx => ?_ : KeepsP _ _ x → _) ?_ | skip)
    | with_reducible intro _
    | split

theorem route_keeps {T : List Nat} {s u : State} {inPort : ℕ} {p : Packet} {a : Arrival}
    (hT : Sub [2, 3, 4, 5, 6, 8, 9, 11, 12, 13, 14, 16, 19, 20, 21, 0x2020, 0x2021, 0x3000, 0x3001, 0x3010, 0x3011, 0x3021, 0x3403, 0x3410, 0x3411, 0x4110, 0x4120, 0x4130, 0x4140, 0x5801, 0x5804, 0x5810, 0x6101, 0x6102, 0x6202, 0x7002, 0x8100, 0x9000, 0x9001, 0x9010] T) (h : Keeps T s u) : Keeps T s (route u inPort p a) := by
  unfold route
  repeat' first
    | with_reducible assumption
    | exact Sub.of rfl hT
    | with_reducible apply dropPkt_keeps
    | with_reducible apply releasePkt_keeps
    | with_reducible apply localTake_keeps
    | with_reducible apply castRoute_keeps
    | with_reducible apply eject_keeps
    | with_reducible apply forward_keeps
    | with_reducible refine Keeps.ite ?_ ?_

theorem execPacketRoute_keeps {u : State} {port : ℕ} {p : Packet} {a : Arrival} :
    OutKeeps [2, 3, 4, 5, 6, 8, 9, 11, 12, 13, 14, 16, 19, 20, 21, 0x2020, 0x2021, 0x3000, 0x3001, 0x3010, 0x3011, 0x3021, 0x3403, 0x3410, 0x3411, 0x4110, 0x4120, 0x4130, 0x4140, 0x5801, 0x5804, 0x5810, 0x6101, 0x6102, 0x6202, 0x7002, 0x8100, 0x9000, 0x9001, 0x9010] u (execPacketRoute port p a u) := by
  have h := Keeps.refl [2, 3, 4, 5, 6, 8, 9, 11, 12, 13, 14, 16, 19, 20, 21, 0x2020, 0x2021, 0x3000, 0x3001, 0x3010, 0x3011, 0x3021, 0x3403, 0x3410, 0x3411, 0x4110, 0x4120, 0x4130, 0x4140, 0x5801, 0x5804, 0x5810, 0x6101, 0x6102, 0x6202, 0x7002, 0x8100, 0x9000, 0x9001, 0x9010] u
  have hT := Sub.rfl (a := [2, 3, 4, 5, 6, 8, 9, 11, 12, 13, 14, 16, 19, 20, 21, 0x2020, 0x2021, 0x3000, 0x3001, 0x3010, 0x3011, 0x3021, 0x3403, 0x3410, 0x3411, 0x4110, 0x4120, 0x4130, 0x4140, 0x5801, 0x5804, 0x5810, 0x6101, 0x6102, 0x6202, 0x7002, 0x8100, 0x9000, 0x9001, 0x9010])
  unfold execPacketRoute
  repeat' first
    | with_reducible assumption
    | exact Sub.of rfl hT
    | with_reducible apply route_keeps
    | with_reducible apply OutKeeps.next

theorem execPacketInject_keeps {u : State} {p : Inject} :
    OutKeeps [2, 3, 5, 6, 8, 9, 11, 12, 13, 14, 16, 19, 20, 0x2020, 0x2021, 0x3000, 0x3001, 0x3010, 0x3011, 0x3021, 0x3403, 0x3410, 0x3411, 0x4110, 0x4120, 0x4130, 0x4140, 0x6101, 0x6102, 0x6202, 0x7002, 0x8100, 0x9000, 0x9001, 0x9010] u (execPacketInject p u) := by
  have h := Keeps.refl [2, 3, 5, 6, 8, 9, 11, 12, 13, 14, 16, 19, 20, 0x2020, 0x2021, 0x3000, 0x3001, 0x3010, 0x3011, 0x3021, 0x3403, 0x3410, 0x3411, 0x4110, 0x4120, 0x4130, 0x4140, 0x6101, 0x6102, 0x6202, 0x7002, 0x8100, 0x9000, 0x9001, 0x9010] u
  have hT := Sub.rfl (a := [2, 3, 5, 6, 8, 9, 11, 12, 13, 14, 16, 19, 20, 0x2020, 0x2021, 0x3000, 0x3001, 0x3010, 0x3011, 0x3021, 0x3403, 0x3410, 0x3411, 0x4110, 0x4120, 0x4130, 0x4140, 0x6101, 0x6102, 0x6202, 0x7002, 0x8100, 0x9000, 0x9001, 0x9010])
  unfold execPacketInject
  repeat' first
    | with_reducible assumption
    | exact Sub.of rfl hT
    | with_reducible apply inject_keeps
    | with_reducible apply OutKeeps.next

theorem execGatekeeperRequest_keeps {u : State} {r : GkReq} :
    OutKeeps [6, 9, 16, 20, 0x2020, 0x4110, 0x4140, 0x7002] u (execGatekeeperRequest r u) := by
  have h := Keeps.refl [6, 9, 16, 20, 0x2020, 0x4110, 0x4140, 0x7002] u
  have hT := Sub.rfl (a := [6, 9, 16, 20, 0x2020, 0x4110, 0x4140, 0x7002])
  unfold execGatekeeperRequest
  repeat' first
    | with_reducible assumption
    | exact Sub.of rfl hT
    | with_reducible apply gatekeep_keeps
    | with_reducible apply OutKeeps.next
    | with_reducible refine Keeps.ite ?_ ?_
    | with_reducible refine KeepsP.ite ?_ ?_
    | with_reducible apply KeepsP.fst

theorem execFabDmap_keeps {u : State} {who : Who} {inst : ℕ} {value : ℕ} :
    OutKeeps [20, 31] u (execFabDmap who inst value u) := by
  have h := Keeps.refl [20, 31] u
  have hT := Sub.rfl (a := [20, 31])
  unfold execFabDmap
  repeat' first
    | with_reducible assumption
    | exact Sub.of rfl hT
    | with_reducible apply guard_keeps
    | with_reducible apply dmapWrite_keeps
    | with_reducible apply OutKeeps.next
    | with_reducible refine Keeps.ite ?_ ?_
    | with_reducible refine KeepsP.ite ?_ ?_
    | with_reducible apply KeepsP.fst
    | exact Sub.reg _ hT rfl
    | with_reducible intro _

theorem execFabShpLevel_keeps {u : State} {who : Who} {func : ℕ} {value : ℤ} :
    OutKeeps [11, 20, 0x4130] u (execFabShpLevel who func value u) := by
  have h := Keeps.refl [11, 20, 0x4130] u
  have hT := Sub.rfl (a := [11, 20, 0x4130])
  unfold execFabShpLevel
  repeat' first
    | with_reducible assumption
    | exact Sub.of rfl hT
    | with_reducible apply guard_keeps
    | with_reducible apply shpLevel_keeps
    | with_reducible apply OutKeeps.next
    | with_reducible refine Keeps.ite ?_ ?_
    | with_reducible refine KeepsP.ite ?_ ?_
    | with_reducible apply KeepsP.fst
    | with_reducible intro _

end Sys2Proof.Machine
end

