-- ==== Sys2Proof/Laws/KeepsHostQueue.lean ====
section
/-! SUPPORT. What the functions of `Machine/HostQueue.lean` keep. -/

namespace Sys2Proof.Machine

open Sys2Proof

theorem modQueue_keeps {T : List Nat} {s u : State} {g : ℕ} {f : QCtx → QCtx}
    (hT : Sub [12] T) (h : Keeps T s u) : Keeps T s (modQueue u g f) := by
  unfold modQueue
  repeat' first
    | with_reducible assumption
    | exact Sub.of rfl hT
    | with_reducible apply modHost_keeps
    | exact fun _ w => w

theorem fetchN_keeps {T : List Nat} {s u : State} {n : ℕ} {f : ℕ} {g : ℕ}
    (hT : Sub [12] T) (h : Keeps T s u) : Keeps T s (fetchN n u f g) := by
  induction n generalizing u f g with
  | zero =>
    unfold fetchN
    repeat' first
      | with_reducible assumption
      | exact Sub.of rfl hT
      | with_reducible apply modQueue_keeps
      | with_reducible apply modHost_keeps
      | exact fun _ w => w
      | exact fun _ w => memWrite_wf _ _ w
      | with_reducible apply ih
      | with_reducible refine Keeps.ite ?_ ?_
      | with_reducible intro _
      | dsimp only
      | split
  | succ n ih =>
    unfold fetchN
    repeat' first
      | with_reducible assumption
      | exact Sub.of rfl hT
      | with_reducible apply modQueue_keeps
      | with_reducible apply modHost_keeps
      | exact fun _ w => w
      | exact fun _ w => memWrite_wf _ _ w
      | with_reducible apply ih
      | with_reducible refine Keeps.ite ?_ ?_
      | with_reducible intro _
      | dsimp only
      | split

theorem execVfEnableSet_keeps {u : State} {numVfs : ℕ} :
    OutKeeps [0x5000, 0x5001] u (execVfEnableSet numVfs u) := by
  have h := Keeps.refl [0x5000, 0x5001] u
  have hT := Sub.rfl (a := [0x5000, 0x5001])
  unfold execVfEnableSet
  repeat' first
    | with_reducible assumption
    | exact Sub.of rfl hT
    | with_reducible apply each_keeps
    | with_reducible apply wr_keeps
    | with_reducible apply OutKeeps.next
    | with_reducible refine Keeps.ite ?_ ?_
    | (extract_lets +onlyGivenNames x; first | refine (fun hx => ?_ : Keeps _ _ x → _) ?_ | refine (fun hx => ?_ : KeepsP _ _ x → _) ?_ | skip)
    | with_reducible intro _
    | split

theorem execSqFetch_keeps {u : State} :
    OutKeeps [12] u (execSqFetch u) := by
  have h := Keeps.refl [12] u
  have hT := Sub.rfl (a := [12])
  unfold execSqFetch
  extract_lets l going
  clear_value going
  rcases going with _ | ⟨x, n⟩
  all_goals repeat' first
    | with_reducible assumption
    | exact Sub.of rfl hT
    | with_reducible apply fetchN_keeps
    | with_reducible apply modHost_keeps
    | with_reducible apply OutKeeps.next
    | exact fun _ w => w
    | dsimp only
    | split


theorem qFree_keeps {T : List Nat} {s u : State}
    (hT : Sub [0x5002] T) (h : Keeps T s u) : Keeps T s (qFree u) := by
  unfold qFree
  repeat' first
    | with_reducible assumption
    | exact Sub.of rfl hT
    | with_reducible apply wr_keeps

theorem assign_keeps {T : List Nat} {s u : State} {f : ℕ} {base : ℕ} {count : ℕ}
    (hT : Sub [12, 0x5001, 0x5002] T) (h : Keeps T s u) : KeepsP T s (assign u f base count) := by
  unfold assign
  repeat' first
    | with_reducible assumption
    | exact Sub.of rfl hT
    | with_reducible apply wr_keeps
    | with_reducible apply done_keeps
    | with_reducible apply qFree_keeps
    | with_reducible apply modHost_keeps
    | with_reducible apply deny_keeps
    | exact fun _ w => w
    | exact fun _ w => memWrite_wf _ _ w
    | with_reducible refine Keeps.ite ?_ ?_
    | with_reducible refine KeepsP.ite ?_ ?_

theorem execHostFnQcount_keeps {u : State} {who : Who} {func : ℕ} {value : ℕ} :
    OutKeeps [12, 20, 0x5001, 0x5002] u (execHostFnQcount who func value u) := by
  have h := Keeps.refl [12, 20, 0x5001, 0x5002] u
  have hT := Sub.rfl (a := [12, 20, 0x5001, 0x5002])
  unfold execHostFnQcount
  repeat' first
    | with_reducible assumption
    | exact Sub.of rfl hT
    | with_reducible apply guard_keeps
    | with_reducible apply assign_keeps
    | with_reducible apply OutKeeps.next
    | with_reducible refine Keeps.ite ?_ ?_
    | with_reducible refine KeepsP.ite ?_ ?_
    | with_reducible apply KeepsP.fst
    | with_reducible intro _

theorem dbDrop_keeps {T : List Nat} {s u : State} {f : ℕ}
    (hT : Sub [0x5001] T) (h : Keeps T s u) : Keeps T s (dbDrop u f) := by
  unfold dbDrop
  repeat' first
    | with_reducible assumption
    | exact Sub.of rfl hT
    | with_reducible apply bumpSat_keeps

theorem dbRefuse_keeps {T : List Nat} {s u : State} {f : ℕ} {g : ℕ} {err : ℕ}
    (hT : Sub [12, 16, 0x5001, 0x7002] T) (h : Keeps T s u) : Keeps T s (dbRefuse u f g err) := by
  unfold dbRefuse
  repeat' first
    | with_reducible assumption
    | exact Sub.of rfl hT
    | with_reducible apply record_keeps
    | with_reducible apply dbDrop_keeps
    | with_reducible apply modQueue_keeps

theorem sqTail_keeps {T : List Nat} {s u : State} {f : ℕ} {q : ℕ} {value : ℕ}
    (hT : Sub [12, 16, 0x5001, 0x7002] T) (h : Keeps T s u) : Keeps T s (sqTail u f q value) := by
  unfold sqTail
  repeat' first
    | with_reducible assumption
    | exact Sub.of rfl hT
    | with_reducible apply dbRefuse_keeps
    | with_reducible apply modQueue_keeps
    | with_reducible refine Keeps.ite ?_ ?_
    | with_reducible intro _
    | split

theorem msix_keeps {T : List Nat} {s u : State} {f : ℕ} {v : ℕ}
    (hT : Sub [12, 20] T) (h : Keeps T s u) : Keeps T s (msix u f v) := by
  unfold msix
  repeat' first
    | with_reducible assumption
    | exact Sub.of rfl hT
    | with_reducible apply modHost_keeps
    | with_reducible apply emit_keeps
    | exact fun _ w => w
    | exact fun _ w => memWrite_wf _ _ w
    | with_reducible refine Keeps.ite ?_ ?_

theorem queueDone_keeps {T : List Nat} {s u : State} {f : ℕ} {g : ℕ} {mode : ℕ}
    (hT : Sub [12, 16, 20, 0x7002] T) (h : Keeps T s u) : Keeps T s (queueDone u f g mode) := by
  unfold queueDone
  repeat' first
    | with_reducible assumption
    | exact Sub.of rfl hT
    | with_reducible apply modQueue_keeps
    | with_reducible apply msix_keeps
    | with_reducible apply record_keeps

theorem execPcieLinkUpOrDown_keeps {u : State} {speed : ℕ} {width : ℕ} {flit : Bool} :
    OutKeeps [16, 0x5000, 0x7002] u (execPcieLinkUpOrDown speed width flit u) := by
  have h := Keeps.refl [16, 0x5000, 0x7002] u
  have hT := Sub.rfl (a := [16, 0x5000, 0x7002])
  unfold execPcieLinkUpOrDown
  repeat' first
    | with_reducible assumption
    | exact Sub.of rfl hT
    | with_reducible apply record_keeps
    | with_reducible apply wr_keeps
    | with_reducible apply OutKeeps.next
    | with_reducible refine Keeps.ite ?_ ?_
    | with_reducible intro _
    | split

theorem queueEnable_keeps {T : List Nat} {s u : State} {f : ℕ} {q : ℕ}
    (hT : Sub [12, 16, 20, 0x5001, 0x7002] T) (h : Keeps T s u) : Keeps T s (queueEnable u f q) := by
  unfold queueEnable
  repeat' first
    | with_reducible assumption
    | exact Sub.of rfl hT
    | with_reducible apply modQueue_keeps
    | with_reducible apply msix_keeps
    | with_reducible apply dbRefuse_keeps
    | with_reducible refine Keeps.ite ?_ ?_
    | with_reducible intro _
    | split

theorem invsDone_keeps {T : List Nat} {s u : State}
    (hT : Sub [12, 20] T) (h : Keeps T s u) : Keeps T s (invsDone u) := by
  unfold invsDone
  repeat' first
    | with_reducible assumption
    | exact Sub.of rfl hT
    | with_reducible apply emitAll_keeps
    | with_reducible apply modHost_keeps
    | exact fun _ w => w

theorem execAtsInvalidation_keeps {u : State} {func : ℕ} {page : ℕ} :
    OutKeeps [12, 20] u (execAtsInvalidation func page u) := by
  have h := Keeps.refl [12, 20] u
  have hT := Sub.rfl (a := [12, 20])
  unfold execAtsInvalidation
  repeat' first
    | with_reducible assumption
    | exact Sub.of rfl hT
    | with_reducible apply invsDone_keeps
    | with_reducible apply modHost_keeps
    | exact fun _ w => w
    | exact fun _ w => memWrite_wf _ _ w
    | with_reducible apply OutKeeps.next

theorem ctxWrite_keeps {T : List Nat} {s u : State} {f : ℕ} {g : ℕ} {lo : ℕ} {n : ℕ} {value : ℕ}
    (hT : Sub [12, 0x5001] T) (h : Keeps T s u) : Keeps T s (ctxWrite u f g lo n value) := by
  unfold ctxWrite
  repeat' first
    | with_reducible assumption
    | exact Sub.of rfl hT
    | with_reducible apply dbDrop_keeps
    | with_reducible apply modQueue_keeps
    | with_reducible refine Keeps.ite ?_ ?_

theorem cqHead_keeps {T : List Nat} {s u : State} {f : ℕ} {q : ℕ} {value : ℕ}
    (hT : Sub [12, 16, 0x5001, 0x7002] T) (h : Keeps T s u) : Keeps T s (cqHead u f q value) := by
  unfold cqHead
  repeat' first
    | with_reducible assumption
    | exact Sub.of rfl hT
    | with_reducible apply dbRefuse_keeps
    | with_reducible apply modQueue_keeps
    | with_reducible refine Keeps.ite ?_ ?_
    | (extract_lets +onlyGivenNames x; first | refine (fun hx => ?_ : Keeps _ _ x → _) ?_ | refine (fun hx => ?_ : KeepsP _ _ x → _) ?_ | skip)
    | with_reducible intro _
    | split

theorem execCqHeadDb_keeps {u : State} {func : ℕ} {queue : ℕ} {value : ℕ} :
    OutKeeps [12, 16, 0x5001, 0x7002] u (execCqHeadDb func queue value u) := by
  have h := Keeps.refl [12, 16, 0x5001, 0x7002] u
  have hT := Sub.rfl (a := [12, 16, 0x5001, 0x7002])
  unfold execCqHeadDb
  repeat' first
    | with_reducible assumption
    | exact Sub.of rfl hT
    | with_reducible apply cqHead_keeps
    | with_reducible apply OutKeeps.next

theorem execQueueEnable_keeps {u : State} {func : ℕ} {queue : ℕ} :
    OutKeeps [12, 16, 20, 0x5001, 0x7002] u (execQueueEnable func queue u) := by
  have h := Keeps.refl [12, 16, 20, 0x5001, 0x7002] u
  have hT := Sub.rfl (a := [12, 16, 20, 0x5001, 0x7002])
  unfold execQueueEnable
  repeat' first
    | with_reducible assumption
    | exact Sub.of rfl hT
    | with_reducible apply queueEnable_keeps
    | with_reducible apply OutKeeps.next

theorem execAerUncorrectableError_keeps {u : State} {func : ℕ} {status : ℕ} :
    OutKeeps [16, 20, 0x7002] u (execAerUncorrectableError func status u) := by
  have h := Keeps.refl [16, 20, 0x7002] u
  have hT := Sub.rfl (a := [16, 20, 0x7002])
  unfold execAerUncorrectableError
  repeat' first
    | with_reducible assumption
    | exact Sub.of rfl hT
    | with_reducible apply record_keeps
    | with_reducible apply emit_keeps
    | with_reducible apply OutKeeps.next

theorem drained_keeps {T : List Nat} {s u : State} {f : ℕ} {g : ℕ}
    (hT : Sub [12, 16, 20, 0x7002] T) (h : Keeps T s u) : Keeps T s (drained u f g) := by
  unfold drained
  repeat' first
    | with_reducible assumption
    | exact Sub.of rfl hT
    | with_reducible apply queueDone_keeps
    | with_reducible refine Keeps.ite ?_ ?_

theorem signal_keeps {T : List Nat} {s u : State} {f : ℕ} {g : ℕ}
    (hT : Sub [12, 20] T) (h : Keeps T s u) : Keeps T s (signal u f g) := by
  unfold signal
  repeat' first
    | with_reducible assumption
    | exact Sub.of rfl hT
    | with_reducible apply msix_keeps
    | with_reducible apply modQueue_keeps
    | with_reducible refine Keeps.ite ?_ ?_

theorem complete_keeps {T : List Nat} {s u : State} {m : ℕ}
    (hT : Sub [12, 16, 20, 0x5001, 0x7002] T) (h : Keeps T s u) : Keeps T s (complete u m) := by
  unfold complete
  repeat' first
    | with_reducible assumption
    | exact Sub.of rfl hT
    | with_reducible apply recordL_keeps
    | with_reducible apply modHost_keeps
    | with_reducible apply modQueue_keeps
    | with_reducible apply bumpSat_keeps
    | with_reducible apply signal_keeps
    | with_reducible apply invsDone_keeps
    | with_reducible apply drained_keeps
    | exact fun _ w => w
    | exact fun _ w => memWrite_wf _ _ w
    | with_reducible refine Keeps.ite ?_ ?_
    | (extract_lets +onlyGivenNames x; first | refine (fun hx => ?_ : Keeps _ _ x → _) ?_ | refine (fun hx => ?_ : KeepsP _ _ x → _) ?_ | skip)
    | with_reducible intro _
    | split

theorem execHostMoverComplete_keeps {u : State} {mover : ℕ} :
    OutKeeps [12, 16, 20, 0x5001, 0x7002] u (execHostMoverComplete mover u) := by
  have h := Keeps.refl [12, 16, 20, 0x5001, 0x7002] u
  have hT := Sub.rfl (a := [12, 16, 20, 0x5001, 0x7002])
  unfold execHostMoverComplete
  repeat' first
    | with_reducible assumption
    | exact Sub.of rfl hT
    | with_reducible apply complete_keeps
    | with_reducible apply OutKeeps.next

theorem execQueueContextWrite_keeps {u : State} {func : ℕ} {queue : ℕ} {hi : ℕ} {lo : ℕ} {value : ℕ} :
    OutKeeps [12, 0x5001] u (execQueueContextWrite func queue hi lo value u) := by
  have h := Keeps.refl [12, 0x5001] u
  have hT := Sub.rfl (a := [12, 0x5001])
  unfold execQueueContextWrite
  repeat' first
    | with_reducible assumption
    | exact Sub.of rfl hT
    | with_reducible apply ctxWrite_keeps
    | with_reducible apply OutKeeps.next
    | with_reducible refine Keeps.ite ?_ ?_
    | with_reducible intro _
    | split

theorem execHostFnQbase_keeps {u : State} {who : Who} {func : ℕ} {value : ℕ} :
    OutKeeps [12, 20, 0x5001, 0x5002] u (execHostFnQbase who func value u) := by
  have h := Keeps.refl [12, 20, 0x5001, 0x5002] u
  have hT := Sub.rfl (a := [12, 20, 0x5001, 0x5002])
  unfold execHostFnQbase
  repeat' first
    | with_reducible assumption
    | exact Sub.of rfl hT
    | with_reducible apply guard_keeps
    | with_reducible apply assign_keeps
    | with_reducible apply OutKeeps.next
    | with_reducible refine Keeps.ite ?_ ?_
    | with_reducible refine KeepsP.ite ?_ ?_
    | with_reducible apply KeepsP.fst
    | with_reducible intro _

theorem msixSweep_keeps {T : List Nat} {s u : State} {f : ℕ}
    (hT : Sub [12, 20] T) (h : Keeps T s u) : Keeps T s (msixSweep u f) := by
  unfold msixSweep
  repeat' first
    | with_reducible assumption
    | exact Sub.of rfl hT
    | with_reducible apply emitAll_keeps
    | with_reducible apply modHost_keeps
    | exact fun _ w => w

theorem execCoalesceTimeout_keeps {u : State} {queue : ℕ} :
    OutKeeps [12, 20] u (execCoalesceTimeout queue u) := by
  have h := Keeps.refl [12, 20] u
  have hT := Sub.rfl (a := [12, 20])
  unfold execCoalesceTimeout
  repeat' first
    | with_reducible assumption
    | exact Sub.of rfl hT
    | with_reducible apply msix_keeps
    | with_reducible apply modQueue_keeps
    | with_reducible apply OutKeeps.next
    | with_reducible refine Keeps.ite ?_ ?_
    | (extract_lets +onlyGivenNames x; first | refine (fun hx => ?_ : Keeps _ _ x → _) ?_ | refine (fun hx => ?_ : KeepsP _ _ x → _) ?_ | skip)
    | with_reducible intro _
    | split

theorem execSqTailDb_keeps {u : State} {func : ℕ} {queue : ℕ} {value : ℕ} :
    OutKeeps [12, 16, 0x5001, 0x7002] u (execSqTailDb func queue value u) := by
  have h := Keeps.refl [12, 16, 0x5001, 0x7002] u
  have hT := Sub.rfl (a := [12, 16, 0x5001, 0x7002])
  unfold execSqTailDb
  repeat' first
    | with_reducible assumption
    | exact Sub.of rfl hT
    | with_reducible apply sqTail_keeps
    | with_reducible apply OutKeeps.next

theorem cachePages_keeps {T : List Nat} {s u : State} {f : ℕ} {c : Cmd}
    (hT : Sub [12] T) (h : Keeps T s u) : Keeps T s (cachePages u f c) := by
  unfold cachePages
  repeat' first
    | with_reducible assumption
    | exact Sub.of rfl hT
    | with_reducible apply modHost_keeps
    | exact fun _ w => w

end Sys2Proof.Machine
end

