-- ==== Sys2Proof/Laws/KeepsRing.lean ====
section
/-! SUPPORT. What the functions of `Machine/Ring.lean` keep. -/

namespace Sys2Proof.Machine

open Sys2Proof

theorem ringPut_keeps {T : List Nat} {s u : State} {p : ℕ} {r : TraceRec}
    (hT : Sub [2, 3, 0x8200] T) (h : Keeps T s u) : Keeps T s (ringPut u p r) := by
  unfold ringPut
  repeat' first
    | with_reducible assumption
    | exact Sub.of rfl hT
    | with_reducible apply traceDrop_keeps
    | with_reducible apply wr_keeps
    | with_reducible apply store_keeps
    | with_reducible refine Keeps.ite ?_ ?_
    | (extract_lets +onlyGivenNames x; first | refine (fun hx => ?_ : Keeps _ _ x → _) ?_ | refine (fun hx => ?_ : KeepsP _ _ x → _) ?_ | skip)
    | with_reducible intro _
    | split

theorem ringMark_keeps {T : List Nat} {s u : State} {p : ℕ} {r : TraceRec}
    (hT : Sub [2, 3, 0x8200] T) (h : Keeps T s u) : Keeps T s (ringMark u p r) := by
  unfold ringMark
  repeat' first
    | with_reducible assumption
    | exact Sub.of rfl hT
    | with_reducible apply ringPut_keeps
    | with_reducible refine Keeps.ite ?_ ?_

end Sys2Proof.Machine
end

