-- ==== Sys2Proof/Laws/KeepsHostData.lean ====
section
/-! SUPPORT. What the functions of `Machine/HostData.lean` keep. -/

namespace Sys2Proof.Machine

open Sys2Proof

theorem nextPiece_keeps {T : List Nat} {s u : State} {m : ℕ} {n : ℕ}
    (hT : Sub [12] T) (h : Keeps T s u) : Keeps T s (nextPiece u m n) := by
  unfold nextPiece
  repeat' first
    | with_reducible assumption
    | exact Sub.of rfl hT
    | with_reducible apply modMover_keeps

theorem begin__keeps {T : List Nat} {s u : State} {m : ℕ}
    (hT : Sub [12] T) (h : Keeps T s u) : Keeps T s (begin_ u m) := by
  unfold begin_
  repeat' first
    | with_reducible assumption
    | exact Sub.of rfl hT
    | with_reducible apply modMover_keeps

theorem beginWith_keeps {T : List Nat} {s u : State} {m : ℕ} {op : ℕ} {f : State → Cmd → ℕ → State} (hf : ∀ v x0 x1, Keeps T s v → Keeps T s (f v x0 x1))
    (hT : Sub [12] T) (h : Keeps T s u) : Keeps T s (beginWith u m op f) := by
  unfold beginWith
  repeat' first
    | with_reducible assumption
    | exact Sub.of rfl hT
    | with_reducible apply begin__keeps
    | with_reducible apply hf
    | with_reducible refine Keeps.ite ?_ ?_

theorem beginOwned_keeps {T : List Nat} {s u : State} {m : ℕ} {op : ℕ} {f : State → Cmd → ℕ → State} (hf : ∀ v x0 x1, Keeps T s v → Keeps T s (f v x0 x1))
    (hT : Sub [12] T) (h : Keeps T s u) : Keeps T s (beginOwned u m op f) := by
  unfold beginOwned
  repeat' first
    | with_reducible assumption
    | exact Sub.of rfl hT
    | with_reducible apply beginWith_keeps
    | with_reducible apply moverDone_keeps
    | with_reducible apply hf
    | with_reducible refine Keeps.ite ?_ ?_
    | with_reducible intro _

theorem execMark_keeps {u : State} {mover : ℕ} :
    OutKeeps [2, 3, 12, 0x8200] u (execMark mover u) := by
  have h := Keeps.refl [2, 3, 12, 0x8200] u
  have hT := Sub.rfl (a := [2, 3, 12, 0x8200])
  unfold execMark
  repeat' first
    | with_reducible assumption
    | exact Sub.of rfl hT
    | with_reducible apply beginOwned_keeps
    | with_reducible apply moverDone_keeps
    | with_reducible apply ringMark_keeps
    | with_reducible apply OutKeeps.next
    | with_reducible refine Keeps.ite ?_ ?_
    | with_reducible intro _

theorem asCmd_keeps {T : List Nat} {s u : State} {c : Cmd} {f : State → State} (hf : ∀ v, Keeps T s v → Keeps T s (f v))
    (hT : Sub [12] T) (h : Keeps T s u) : Keeps T s (asCmd u c f) := by
  unfold asCmd
  repeat' first
    | with_reducible assumption
    | exact Sub.of rfl hT
    | with_reducible apply modHost_keeps
    | exact fun _ w => w
    | exact fun _ w => memWrite_wf _ _ w
    | with_reducible apply hf

theorem moved_keeps {T : List Nat} {s u : State} {m : ℕ} {x' : Mover}
    (hT : Sub [12] T) (h : Keeps T s u) : Keeps T s (moved u m x') := by
  unfold moved
  repeat' first
    | with_reducible assumption
    | exact Sub.of rfl hT
    | with_reducible apply moverDone_keeps
    | with_reducible refine Keeps.ite ?_ ?_
    | with_reducible intro _
    | split

theorem havePiece_keeps {T : List Nat} {s u : State} {m : ℕ} {l : List (List Byte × Bool)}
    (hT : Sub [12] T) (h : Keeps T s u) : Keeps T s (havePiece u m l) := by
  unfold havePiece
  repeat' first
    | with_reducible assumption
    | exact Sub.of rfl hT
    | with_reducible apply modMover_keeps

theorem sendCmd_keeps {T : List Nat} {s u : State} {m : ℕ} {x' : Mover} {a : ℕ} {kind : ℕ} {data : List Byte} {bad : Bool}
    (hT : Sub [2, 3, 5, 6, 8, 9, 11, 12, 13, 14, 16, 19, 20, 0x2020, 0x2021, 0x3000, 0x3001, 0x3010, 0x3011, 0x3021, 0x3403, 0x3410, 0x3411, 0x4110, 0x4120, 0x4130, 0x4140, 0x6101, 0x6102, 0x6202, 0x7002, 0x8100, 0x9000, 0x9001, 0x9010] T) (h : Keeps T s u) : Keeps T s (sendCmd u m x' a kind data bad) := by
  unfold sendCmd
  repeat' first
    | with_reducible assumption
    | exact Sub.of rfl hT
    | with_reducible apply inject_keeps
    | with_reducible apply modRst_keeps

theorem denyCmd_keeps {T : List Nat} {s u : State} {m : ℕ} {x' : Mover} {a : ℕ}
    (hT : Sub [2, 3, 6, 12, 16, 0x3000, 0x3001, 0x7002] T) (h : Keeps T s u) : Keeps T s (denyCmd u m x' a) := by
  unfold denyCmd
  repeat' first
    | with_reducible assumption
    | exact Sub.of rfl hT
    | with_reducible apply recordL_keeps
    | with_reducible apply moverFail_keeps

theorem resetCmd_keeps {T : List Nat} {s u : State} {m : ℕ}
    (hT : Sub [2, 3, 6, 12, 0x3000, 0x3001] T) (h : Keeps T s u) : Keeps T s (resetCmd u m) := by
  unfold resetCmd
  repeat' first
    | with_reducible assumption
    | exact Sub.of rfl hT
    | with_reducible apply moverFail_keeps

theorem takePiece_keeps {T : List Nat} {s u : State} {m : ℕ} {x' : Mover} {n : ℕ} {ecc : List EccHit}
    (hT : Sub [2, 3, 5, 6, 8, 9, 11, 12, 13, 14, 16, 19, 20, 0x2020, 0x2021, 0x3000, 0x3001, 0x3010, 0x3011, 0x3021, 0x3403, 0x3410, 0x3411, 0x4110, 0x4120, 0x4130, 0x4140, 0x6101, 0x6102, 0x6202, 0x7002, 0x8100, 0x9000, 0x9001, 0x9010] T) (h : Keeps T s u) : KeepsP T s (takePiece u m x' n ecc) := by
  unfold takePiece
  repeat' first
    | with_reducible assumption
    | exact Sub.of rfl hT
    | with_reducible apply havePiece_keeps
    | with_reducible apply sendCmd_keeps
    | with_reducible apply denyCmd_keeps
    | with_reducible apply resetCmd_keeps
    | with_reducible apply holdReq_keeps
    | with_reducible apply readRuns_keeps
    | with_reducible refine Keeps.ite ?_ ?_
    | with_reducible refine KeepsP.ite ?_ ?_
    | with_reducible apply KeepsP.fst
    | (extract_lets +onlyGivenNames x; first | refine (fun hx => ?_ : Keeps _ _ x → _) ?_ | refine (fun hx => ?_ : KeepsP _ _ x → _) ?_ | skip)
    | with_reducible intro _
    | split
    | with_reducible apply KeepsP.mk

theorem stageRuns_keeps {T : List Nat} {s u : State} {unit : ℕ} {p : ℕ} {off : ℕ} {l : List (List Byte × Bool)}
    (hT : Sub [2, 3, 6, 16, 0x3021, 0x6101, 0x6102, 0x7002] T) (h : Keeps T s u) : Keeps T s (stageRuns u unit p off l) := by
  induction l generalizing u unit p off with
  | nil =>
    unfold stageRuns
    repeat' first
      | with_reducible assumption
      | exact Sub.of rfl hT
      | with_reducible apply writeRange_keeps
      | with_reducible apply ih
      | with_reducible refine Keeps.ite ?_ ?_
      | with_reducible intro _
      | dsimp only
      | split
  | cons c r ih =>
    unfold stageRuns
    repeat' first
      | with_reducible assumption
      | exact Sub.of rfl hT
      | with_reducible apply writeRange_keeps
      | with_reducible apply ih
      | with_reducible refine Keeps.ite ?_ ?_
      | with_reducible intro _
      | dsimp only
      | split

theorem stagePiece_keeps {T : List Nat} {s u : State} {m : ℕ} {x' : Mover} {n : ℕ}
    (hT : Sub [2, 3, 6, 8, 12, 16, 0x3000, 0x3001, 0x3021, 0x3403, 0x6101, 0x6102, 0x7002] T) (h : Keeps T s u) : KeepsP T s (stagePiece u m x' n) := by
  unfold stagePiece
  repeat' first
    | with_reducible assumption
    | exact Sub.of rfl hT
    | with_reducible apply resetCmd_keeps
    | with_reducible apply holdReq_keeps
    | with_reducible apply modPart_keeps
    | with_reducible apply stageRuns_keeps
    | with_reducible refine Keeps.ite ?_ ?_
    | with_reducible refine KeepsP.ite ?_ ?_
    | with_reducible apply KeepsP.fst
    | (extract_lets +onlyGivenNames x; first | refine (fun hx => ?_ : Keeps _ _ x → _) ?_ | refine (fun hx => ?_ : KeepsP _ _ x → _) ?_ | skip)
    | with_reducible intro _
    | split
    | with_reducible apply KeepsP.mk

theorem writeRuns_keeps {T : List Nat} {s u : State} {unit : ℕ} {p : ℕ} {off : ℕ} {l : List (List Byte × Bool)}
    (hT : Sub [2, 3, 6, 16, 0x3021, 0x6101, 0x6102, 0x7002] T) (h : Keeps T s u) : Keeps T s (writeRuns u unit p off l) := by
  induction l generalizing u unit p off with
  | nil =>
    unfold writeRuns
    repeat' first
      | with_reducible assumption
      | exact Sub.of rfl hT
      | with_reducible apply writeRange_keeps
      | with_reducible apply ih
      | with_reducible refine Keeps.ite ?_ ?_
      | with_reducible intro _
      | dsimp only
      | split
  | cons c r ih =>
    unfold writeRuns
    repeat' first
      | with_reducible assumption
      | exact Sub.of rfl hT
      | with_reducible apply writeRange_keeps
      | with_reducible apply ih
      | with_reducible refine Keeps.ite ?_ ?_
      | with_reducible intro _
      | dsimp only
      | split

theorem putPiece_keeps {T : List Nat} {s u : State} {m : ℕ} {x' : Mover}
    (hT : Sub [2, 3, 5, 6, 8, 9, 11, 12, 13, 14, 16, 19, 20, 0x2020, 0x2021, 0x3000, 0x3001, 0x3010, 0x3011, 0x3021, 0x3403, 0x3410, 0x3411, 0x4110, 0x4120, 0x4130, 0x4140, 0x6101, 0x6102, 0x6202, 0x7002, 0x8100, 0x9000, 0x9001, 0x9010] T) (h : Keeps T s u) : KeepsP T s (putPiece u m x') := by
  unfold putPiece
  repeat' first
    | with_reducible assumption
    | exact Sub.of rfl hT
    | with_reducible apply nextPiece_keeps
    | with_reducible apply modHost_keeps
    | with_reducible apply stagePiece_keeps
    | with_reducible apply sendCmd_keeps
    | with_reducible apply denyCmd_keeps
    | with_reducible apply resetCmd_keeps
    | with_reducible apply holdReq_keeps
    | with_reducible apply writeRuns_keeps
    | exact fun _ w => w
    | exact fun _ w => memWrite_wf _ _ w
    | with_reducible refine Keeps.ite ?_ ?_
    | with_reducible refine KeepsP.ite ?_ ?_
    | with_reducible apply KeepsP.fst
    | (extract_lets +onlyGivenNames x; first | refine (fun hx => ?_ : Keeps _ _ x → _) ?_ | refine (fun hx => ?_ : KeepsP _ _ x → _) ?_ | skip)
    | with_reducible intro _
    | split
    | with_reducible apply KeepsP.mk

theorem runPieces_keeps {T : List Nat} {s u : State} {fuel : ℕ} {m : ℕ} {ecc : List EccHit}
    (hT : Sub [2, 3, 5, 6, 8, 9, 11, 12, 13, 14, 16, 19, 20, 0x2020, 0x2021, 0x3000, 0x3001, 0x3010, 0x3011, 0x3021, 0x3403, 0x3410, 0x3411, 0x4110, 0x4120, 0x4130, 0x4140, 0x6101, 0x6102, 0x6202, 0x7002, 0x8100, 0x9000, 0x9001, 0x9010] T) (h : Keeps T s u) : Keeps T s (runPieces fuel u m ecc) := by
  induction fuel generalizing u m ecc with
  | zero =>
    unfold runPieces
    repeat' first
      | with_reducible assumption
      | exact Sub.of rfl hT
      | with_reducible apply moved_keeps
      | with_reducible apply takePiece_keeps
      | with_reducible apply putPiece_keeps
      | with_reducible apply ih
      | with_reducible refine Keeps.ite ?_ ?_
      | with_reducible refine KeepsP.ite ?_ ?_
      | with_reducible apply KeepsP.fst
      | with_reducible intro _
      | dsimp only
      | split
      | with_reducible apply KeepsP.mk
  | succ n ih =>
    unfold runPieces
    repeat' first
      | with_reducible assumption
      | exact Sub.of rfl hT
      | with_reducible apply moved_keeps
      | with_reducible apply takePiece_keeps
      | with_reducible apply putPiece_keeps
      | with_reducible apply ih
      | with_reducible refine Keeps.ite ?_ ?_
      | with_reducible refine KeepsP.ite ?_ ?_
      | with_reducible apply KeepsP.fst
      | with_reducible intro _
      | dsimp only
      | split
      | with_reducible apply KeepsP.mk

theorem runCmd_keeps {T : List Nat} {s u : State} {m : ℕ} {ecc : List EccHit}
    (hT : Sub [2, 3, 5, 6, 8, 9, 11, 12, 13, 14, 16, 19, 20, 0x2020, 0x2021, 0x3000, 0x3001, 0x3010, 0x3011, 0x3021, 0x3403, 0x3410, 0x3411, 0x4110, 0x4120, 0x4130, 0x4140, 0x6101, 0x6102, 0x6202, 0x7002, 0x8100, 0x9000, 0x9001, 0x9010] T) (h : Keeps T s u) : Keeps T s (runCmd u m ecc) := by
  unfold runCmd
  repeat' first
    | with_reducible assumption
    | exact Sub.of rfl hT
    | with_reducible apply asCmd_keeps
    | with_reducible apply runPieces_keeps
    | with_reducible refine Keeps.ite ?_ ?_
    | with_reducible intro _

theorem resumeCmds_keeps {T : List Nat} {s u : State}
    (hT : Sub [2, 3, 5, 6, 8, 9, 11, 12, 13, 14, 16, 19, 20, 0x2020, 0x2021, 0x3000, 0x3001, 0x3010, 0x3011, 0x3021, 0x3403, 0x3410, 0x3411, 0x4110, 0x4120, 0x4130, 0x4140, 0x6101, 0x6102, 0x6202, 0x7002, 0x8100, 0x9000, 0x9001, 0x9010] T) (h : Keeps T s u) : Keeps T s (resumeCmds u) := by
  unfold resumeCmds
  repeat' first
    | with_reducible assumption
    | exact Sub.of rfl hT
    | with_reducible apply each_keeps
    | with_reducible apply runCmd_keeps
    | with_reducible refine Keeps.ite ?_ ?_
    | with_reducible intro _

theorem takeReply_keeps {T : List Nat} {s u : State} {m : ℕ} {data : List Byte} {bad : Bool}
    (hT : Sub [2, 3, 5, 6, 8, 9, 11, 12, 13, 14, 16, 19, 20, 0x2020, 0x2021, 0x3000, 0x3001, 0x3010, 0x3011, 0x3021, 0x3403, 0x3410, 0x3411, 0x4110, 0x4120, 0x4130, 0x4140, 0x6101, 0x6102, 0x6202, 0x7002, 0x8100, 0x9000, 0x9001, 0x9010] T) (h : Keeps T s u) : Keeps T s (takeReply u m data bad) := by
  unfold takeReply
  repeat' first
    | with_reducible assumption
    | exact Sub.of rfl hT
    | with_reducible apply resumeCmds_keeps
    | with_reducible apply havePiece_keeps

theorem execFence_keeps {u : State} {mover : ℕ} :
    OutKeeps [12] u (execFence mover u) := by
  have h := Keeps.refl [12] u
  have hT := Sub.rfl (a := [12])
  unfold execFence
  repeat' first
    | with_reducible assumption
    | exact Sub.of rfl hT
    | with_reducible apply beginWith_keeps
    | with_reducible apply moverDone_keeps
    | with_reducible apply OutKeeps.next
    | with_reducible refine Keeps.ite ?_ ?_
    | with_reducible intro _

theorem abandon_keeps {T : List Nat} {s u : State} {m : ℕ}
    (hT : Sub [2, 3, 5, 6, 8, 9, 11, 12, 13, 14, 16, 19, 20, 0x2020, 0x2021, 0x3000, 0x3001, 0x3010, 0x3011, 0x3021, 0x3403, 0x3410, 0x3411, 0x4110, 0x4120, 0x4130, 0x4140, 0x6101, 0x6102, 0x6202, 0x7002, 0x8100, 0x9000, 0x9001, 0x9010] T) (h : Keeps T s u) : Keeps T s (abandon u m) := by
  unfold abandon
  repeat' first
    | with_reducible assumption
    | exact Sub.of rfl hT
    | with_reducible apply serveReads_keeps
    | with_reducible apply modMsys_keeps
    | with_reducible apply modRouter_keeps
    | with_reducible apply retireMover_keeps

theorem execHostCmdTimeout_keeps {u : State} {mover : ℕ} :
    OutKeeps [2, 3, 5, 6, 8, 9, 11, 12, 13, 14, 16, 19, 20, 0x2020, 0x2021, 0x3000, 0x3001, 0x3010, 0x3011, 0x3021, 0x3403, 0x3410, 0x3411, 0x4110, 0x4120, 0x4130, 0x4140, 0x6101, 0x6102, 0x6202, 0x7002, 0x8100, 0x9000, 0x9001, 0x9010] u (execHostCmdTimeout mover u) := by
  have h := Keeps.refl [2, 3, 5, 6, 8, 9, 11, 12, 13, 14, 16, 19, 20, 0x2020, 0x2021, 0x3000, 0x3001, 0x3010, 0x3011, 0x3021, 0x3403, 0x3410, 0x3411, 0x4110, 0x4120, 0x4130, 0x4140, 0x6101, 0x6102, 0x6202, 0x7002, 0x8100, 0x9000, 0x9001, 0x9010] u
  have hT := Sub.rfl (a := [2, 3, 5, 6, 8, 9, 11, 12, 13, 14, 16, 19, 20, 0x2020, 0x2021, 0x3000, 0x3001, 0x3010, 0x3011, 0x3021, 0x3403, 0x3410, 0x3411, 0x4110, 0x4120, 0x4130, 0x4140, 0x6101, 0x6102, 0x6202, 0x7002, 0x8100, 0x9000, 0x9001, 0x9010])
  unfold execHostCmdTimeout
  repeat' first
    | with_reducible assumption
    | exact Sub.of rfl hT
    | with_reducible apply recordL_keeps
    | with_reducible apply moverFail_keeps
    | with_reducible apply abandon_keeps
    | with_reducible apply OutKeeps.next
    | with_reducible refine Keeps.ite ?_ ?_
    | (extract_lets +onlyGivenNames x; first | refine (fun hx => ?_ : Keeps _ _ x → _) ?_ | refine (fun hx => ?_ : KeepsP _ _ x → _) ?_ | skip)
    | with_reducible intro _
    | split

theorem translate_keeps {T : List Nat} {s u : State} {m : ℕ} {c : Cmd} {fn : ℕ} {ats : Ats} {f : State → State} (hf : ∀ v, Keeps T s v → Keeps T s (f v))
    (hT : Sub [2, 3, 6, 12, 16, 0x3000, 0x3001, 0x7002] T) (h : Keeps T s u) : Keeps T s (translate u m c fn ats f) := by
  unfold translate
  repeat' first
    | with_reducible assumption
    | exact Sub.of rfl hT
    | with_reducible apply cachePages_keeps
    | with_reducible apply moverFail_keeps
    | with_reducible apply recordL_keeps
    | with_reducible apply hf
    | with_reducible refine Keeps.ite ?_ ?_
    | with_reducible intro _
    | split

theorem dataCmd_keeps {T : List Nat} {s u : State} {m : ℕ} {op : ℕ} {ats : Ats} {ecc : List EccHit}
    (hT : Sub [2, 3, 5, 6, 8, 9, 11, 12, 13, 14, 16, 19, 20, 0x2020, 0x2021, 0x3000, 0x3001, 0x3010, 0x3011, 0x3021, 0x3403, 0x3410, 0x3411, 0x4110, 0x4120, 0x4130, 0x4140, 0x6101, 0x6102, 0x6202, 0x7002, 0x8100, 0x9000, 0x9001, 0x9010] T) (h : Keeps T s u) : Keeps T s (dataCmd u m op ats ecc) := by
  unfold dataCmd
  repeat' first
    | with_reducible assumption
    | exact Sub.of rfl hT
    | with_reducible apply beginOwned_keeps
    | with_reducible apply moverDone_keeps
    | with_reducible apply translate_keeps
    | with_reducible apply runCmd_keeps
    | with_reducible refine Keeps.ite ?_ ?_
    | with_reducible intro _

theorem execNop_keeps {u : State} {mover : ℕ} :
    OutKeeps [12] u (execNop mover u) := by
  have h := Keeps.refl [12] u
  have hT := Sub.rfl (a := [12])
  unfold execNop
  repeat' first
    | with_reducible assumption
    | exact Sub.of rfl hT
    | with_reducible apply beginWith_keeps
    | with_reducible apply moverDone_keeps
    | with_reducible apply OutKeeps.next
    | with_reducible refine Keeps.ite ?_ ?_
    | with_reducible intro _

theorem execWindowAcknowledgement_keeps {u : State} {peer : ℕ} {vc : ℕ} {cum : ℕ} {bits : Word64} {resync : Bool} {incarn : ℕ} :
    OutKeeps [2, 3, 5, 6, 8, 9, 11, 12, 13, 14, 16, 19, 20, 0x2020, 0x2021, 0x3000, 0x3001, 0x3010, 0x3011, 0x3021, 0x3403, 0x3410, 0x3411, 0x4110, 0x4120, 0x4130, 0x4140, 0x6101, 0x6102, 0x6202, 0x7002, 0x8100, 0x9000, 0x9001, 0x9010] u (execWindowAcknowledgement peer vc cum bits resync incarn u) := by
  have h := Keeps.refl [2, 3, 5, 6, 8, 9, 11, 12, 13, 14, 16, 19, 20, 0x2020, 0x2021, 0x3000, 0x3001, 0x3010, 0x3011, 0x3021, 0x3403, 0x3410, 0x3411, 0x4110, 0x4120, 0x4130, 0x4140, 0x6101, 0x6102, 0x6202, 0x7002, 0x8100, 0x9000, 0x9001, 0x9010] u
  have hT := Sub.rfl (a := [2, 3, 5, 6, 8, 9, 11, 12, 13, 14, 16, 19, 20, 0x2020, 0x2021, 0x3000, 0x3001, 0x3010, 0x3011, 0x3021, 0x3403, 0x3410, 0x3411, 0x4110, 0x4120, 0x4130, 0x4140, 0x6101, 0x6102, 0x6202, 0x7002, 0x8100, 0x9000, 0x9001, 0x9010])
  unfold execWindowAcknowledgement
  repeat' first
    | with_reducible assumption
    | exact Sub.of rfl hT
    | with_reducible apply resumeCmds_keeps
    | with_reducible apply windowResync_keeps
    | with_reducible apply windowAck_keeps
    | with_reducible apply OutKeeps.next
    | with_reducible refine Keeps.ite ?_ ?_

theorem execHostCopy_keeps {u : State} {mover : ℕ} {ecc : List EccHit} :
    OutKeeps [2, 3, 5, 6, 8, 9, 11, 12, 13, 14, 16, 19, 20, 0x2020, 0x2021, 0x3000, 0x3001, 0x3010, 0x3011, 0x3021, 0x3403, 0x3410, 0x3411, 0x4110, 0x4120, 0x4130, 0x4140, 0x6101, 0x6102, 0x6202, 0x7002, 0x8100, 0x9000, 0x9001, 0x9010] u (execHostCopy mover ecc u) := by
  have h := Keeps.refl [2, 3, 5, 6, 8, 9, 11, 12, 13, 14, 16, 19, 20, 0x2020, 0x2021, 0x3000, 0x3001, 0x3010, 0x3011, 0x3021, 0x3403, 0x3410, 0x3411, 0x4110, 0x4120, 0x4130, 0x4140, 0x6101, 0x6102, 0x6202, 0x7002, 0x8100, 0x9000, 0x9001, 0x9010] u
  have hT := Sub.rfl (a := [2, 3, 5, 6, 8, 9, 11, 12, 13, 14, 16, 19, 20, 0x2020, 0x2021, 0x3000, 0x3001, 0x3010, 0x3011, 0x3021, 0x3403, 0x3410, 0x3411, 0x4110, 0x4120, 0x4130, 0x4140, 0x6101, 0x6102, 0x6202, 0x7002, 0x8100, 0x9000, 0x9001, 0x9010])
  unfold execHostCopy
  repeat' first
    | with_reducible assumption
    | exact Sub.of rfl hT
    | with_reducible apply dataCmd_keeps
    | with_reducible apply OutKeeps.next

theorem execStatusReply_keeps {u : State} {requester : ℕ} {rid : ℕ} {chip : ℕ} {unit : ℕ} {gen : ℕ} {st : StatusBits} :
    OutKeeps [2, 3, 5, 6, 8, 9, 11, 12, 13, 14, 16, 19, 20, 0x2020, 0x2021, 0x3000, 0x3001, 0x3010, 0x3011, 0x3021, 0x3403, 0x3410, 0x3411, 0x4110, 0x4120, 0x4130, 0x4140, 0x6101, 0x6102, 0x6202, 0x7002, 0x8100, 0x9000, 0x9001, 0x9010] u (execStatusReply requester rid chip unit gen st u) := by
  have h := Keeps.refl [2, 3, 5, 6, 8, 9, 11, 12, 13, 14, 16, 19, 20, 0x2020, 0x2021, 0x3000, 0x3001, 0x3010, 0x3011, 0x3021, 0x3403, 0x3410, 0x3411, 0x4110, 0x4120, 0x4130, 0x4140, 0x6101, 0x6102, 0x6202, 0x7002, 0x8100, 0x9000, 0x9001, 0x9010] u
  have hT := Sub.rfl (a := [2, 3, 5, 6, 8, 9, 11, 12, 13, 14, 16, 19, 20, 0x2020, 0x2021, 0x3000, 0x3001, 0x3010, 0x3011, 0x3021, 0x3403, 0x3410, 0x3411, 0x4110, 0x4120, 0x4130, 0x4140, 0x6101, 0x6102, 0x6202, 0x7002, 0x8100, 0x9000, 0x9001, 0x9010])
  unfold execStatusReply
  repeat' first
    | with_reducible assumption
    | exact Sub.of rfl hT
    | with_reducible apply dropLate_keeps
    | with_reducible apply noteGen_keeps
    | with_reducible apply serveReads_keeps
    | with_reducible apply failRid_keeps
    | with_reducible apply modRst_keeps
    | with_reducible apply handOver_keeps
    | with_reducible apply OutKeeps.next
    | with_reducible refine Keeps.ite ?_ ?_
    | (extract_lets +onlyGivenNames x; first | refine (fun hx => ?_ : Keeps _ _ x → _) ?_ | refine (fun hx => ?_ : KeepsP _ _ x → _) ?_ | skip)
    | with_reducible intro _
    | split

theorem execWrite_keeps {u : State} {mover : ℕ} {ats : Ats} :
    OutKeeps [2, 3, 5, 6, 8, 9, 11, 12, 13, 14, 16, 19, 20, 0x2020, 0x2021, 0x3000, 0x3001, 0x3010, 0x3011, 0x3021, 0x3403, 0x3410, 0x3411, 0x4110, 0x4120, 0x4130, 0x4140, 0x6101, 0x6102, 0x6202, 0x7002, 0x8100, 0x9000, 0x9001, 0x9010] u (execWrite mover ats u) := by
  have h := Keeps.refl [2, 3, 5, 6, 8, 9, 11, 12, 13, 14, 16, 19, 20, 0x2020, 0x2021, 0x3000, 0x3001, 0x3010, 0x3011, 0x3021, 0x3403, 0x3410, 0x3411, 0x4110, 0x4120, 0x4130, 0x4140, 0x6101, 0x6102, 0x6202, 0x7002, 0x8100, 0x9000, 0x9001, 0x9010] u
  have hT := Sub.rfl (a := [2, 3, 5, 6, 8, 9, 11, 12, 13, 14, 16, 19, 20, 0x2020, 0x2021, 0x3000, 0x3001, 0x3010, 0x3011, 0x3021, 0x3403, 0x3410, 0x3411, 0x4110, 0x4120, 0x4130, 0x4140, 0x6101, 0x6102, 0x6202, 0x7002, 0x8100, 0x9000, 0x9001, 0x9010])
  unfold execWrite
  repeat' first
    | with_reducible assumption
    | exact Sub.of rfl hT
    | with_reducible apply dataCmd_keeps
    | with_reducible apply OutKeeps.next

theorem execZeroWatermarkPass_keeps {u : State} {u' : ZeroUnit} {mark : ℕ} :
    OutKeeps [2, 3, 5, 6, 8, 9, 11, 12, 13, 14, 16, 19, 20, 0x2020, 0x2021, 0x3000, 0x3001, 0x3010, 0x3011, 0x3021, 0x3401, 0x3402, 0x3403, 0x3410, 0x3411, 0x4110, 0x4120, 0x4130, 0x4140, 0x6101, 0x6102, 0x6202, 0x7002, 0x8100, 0x9000, 0x9001, 0x9010] u (execZeroWatermarkPass u' mark u) := by
  have h := Keeps.refl [2, 3, 5, 6, 8, 9, 11, 12, 13, 14, 16, 19, 20, 0x2020, 0x2021, 0x3000, 0x3001, 0x3010, 0x3011, 0x3021, 0x3401, 0x3402, 0x3403, 0x3410, 0x3411, 0x4110, 0x4120, 0x4130, 0x4140, 0x6101, 0x6102, 0x6202, 0x7002, 0x8100, 0x9000, 0x9001, 0x9010] u
  have hT := Sub.rfl (a := [2, 3, 5, 6, 8, 9, 11, 12, 13, 14, 16, 19, 20, 0x2020, 0x2021, 0x3000, 0x3001, 0x3010, 0x3011, 0x3021, 0x3401, 0x3402, 0x3403, 0x3410, 0x3411, 0x4110, 0x4120, 0x4130, 0x4140, 0x6101, 0x6102, 0x6202, 0x7002, 0x8100, 0x9000, 0x9001, 0x9010])
  unfold execZeroWatermarkPass
  repeat' first
    | with_reducible assumption
    | exact Sub.of rfl hT
    | with_reducible apply resumeCmds_keeps
    | with_reducible apply releaseBelow_keeps
    | with_reducible apply wr_keeps
    | with_reducible apply zeroBelow_keeps
    | with_reducible apply OutKeeps.next
    | with_reducible refine Keeps.ite ?_ ?_
    | with_reducible intro _
    | split

theorem execReplyReceive_keeps {u : State} {requester : ℕ} {rid : ℕ} {chip : ℕ} {unit : ℕ} {gen : ℕ} {data : List Byte} {poison : Bool} :
    OutKeeps [2, 3, 5, 6, 8, 9, 11, 12, 13, 14, 16, 19, 20, 0x2020, 0x2021, 0x3000, 0x3001, 0x3010, 0x3011, 0x3021, 0x3403, 0x3410, 0x3411, 0x4110, 0x4120, 0x4130, 0x4140, 0x6101, 0x6102, 0x6202, 0x7002, 0x8100, 0x9000, 0x9001, 0x9010] u (execReplyReceive requester rid chip unit gen data poison u) := by
  have h := Keeps.refl [2, 3, 5, 6, 8, 9, 11, 12, 13, 14, 16, 19, 20, 0x2020, 0x2021, 0x3000, 0x3001, 0x3010, 0x3011, 0x3021, 0x3403, 0x3410, 0x3411, 0x4110, 0x4120, 0x4130, 0x4140, 0x6101, 0x6102, 0x6202, 0x7002, 0x8100, 0x9000, 0x9001, 0x9010] u
  have hT := Sub.rfl (a := [2, 3, 5, 6, 8, 9, 11, 12, 13, 14, 16, 19, 20, 0x2020, 0x2021, 0x3000, 0x3001, 0x3010, 0x3011, 0x3021, 0x3403, 0x3410, 0x3411, 0x4110, 0x4120, 0x4130, 0x4140, 0x6101, 0x6102, 0x6202, 0x7002, 0x8100, 0x9000, 0x9001, 0x9010])
  unfold execReplyReceive
  repeat' first
    | with_reducible assumption
    | exact Sub.of rfl hT
    | with_reducible apply dropLate_keeps
    | with_reducible apply modRst_keeps
    | with_reducible apply serveReads_keeps
    | with_reducible apply takeReply_keeps
    | with_reducible apply OutKeeps.next
    | with_reducible refine Keeps.ite ?_ ?_
    | (extract_lets +onlyGivenNames x; first | refine (fun hx => ?_ : Keeps _ _ x → _) ?_ | refine (fun hx => ?_ : KeepsP _ _ x → _) ?_ | skip)
    | with_reducible intro _
    | split

theorem execRead_keeps {u : State} {mover : ℕ} {ats : Ats} {ecc : List EccHit} :
    OutKeeps [2, 3, 5, 6, 8, 9, 11, 12, 13, 14, 16, 19, 20, 0x2020, 0x2021, 0x3000, 0x3001, 0x3010, 0x3011, 0x3021, 0x3403, 0x3410, 0x3411, 0x4110, 0x4120, 0x4130, 0x4140, 0x6101, 0x6102, 0x6202, 0x7002, 0x8100, 0x9000, 0x9001, 0x9010] u (execRead mover ats ecc u) := by
  have h := Keeps.refl [2, 3, 5, 6, 8, 9, 11, 12, 13, 14, 16, 19, 20, 0x2020, 0x2021, 0x3000, 0x3001, 0x3010, 0x3011, 0x3021, 0x3403, 0x3410, 0x3411, 0x4110, 0x4120, 0x4130, 0x4140, 0x6101, 0x6102, 0x6202, 0x7002, 0x8100, 0x9000, 0x9001, 0x9010] u
  have hT := Sub.rfl (a := [2, 3, 5, 6, 8, 9, 11, 12, 13, 14, 16, 19, 20, 0x2020, 0x2021, 0x3000, 0x3001, 0x3010, 0x3011, 0x3021, 0x3403, 0x3410, 0x3411, 0x4110, 0x4120, 0x4130, 0x4140, 0x6101, 0x6102, 0x6202, 0x7002, 0x8100, 0x9000, 0x9001, 0x9010])
  unfold execRead
  repeat' first
    | with_reducible assumption
    | exact Sub.of rfl hT
    | with_reducible apply dataCmd_keeps
    | with_reducible apply OutKeeps.next

end Sys2Proof.Machine
end

