-- ==== Sys2Proof/Laws/KeepsMover.lean ====
section
/-! SUPPORT. What the functions of `Machine/Mover.lean` keep. -/

namespace Sys2Proof.Machine

open Sys2Proof

theorem modColl_keeps {T : List Nat} {s u : State} {p : ℕ} {entry : ℕ} {f : CollOp → CollOp}
    (hT : Sub [11] T) (h : Keeps T s u) : Keeps T s (modColl u p entry f) := by
  unfold modColl
  repeat' first
    | with_reducible assumption
    | exact Sub.of rfl hT
    | with_reducible apply modRouter_keeps

theorem collKeep_keeps {T : List Nat} {s u : State} {p : ℕ} {entry : ℕ} {chunk : ℕ} {data : List Byte} {bad : Bool}
    (hT : Sub [11] T) (h : Keeps T s u) : Keeps T s (collKeep u p entry chunk data bad) := by
  unfold collKeep
  repeat' first
    | with_reducible assumption
    | exact Sub.of rfl hT
    | with_reducible apply modColl_keeps

theorem collSend_keeps {T : List Nat} {s u : State} {p : ℕ} {entry : ℕ} {target : ℕ} {chunk : ℕ} {data : List Byte} {bad : Bool}
    (hT : Sub [2, 3, 5, 6, 8, 9, 11, 12, 13, 14, 16, 19, 20, 0x2020, 0x2021, 0x3000, 0x3001, 0x3010, 0x3011, 0x3021, 0x3403, 0x3410, 0x3411, 0x4110, 0x4120, 0x4130, 0x4140, 0x6101, 0x6102, 0x6202, 0x7002, 0x8100, 0x9000, 0x9001, 0x9010] T) (h : Keeps T s u) : Keeps T s (collSend u p entry target chunk data bad) := by
  unfold collSend
  repeat' first
    | with_reducible assumption
    | exact Sub.of rfl hT
    | with_reducible apply inject_keeps
    | with_reducible apply foldl_keeps
    | with_reducible refine Keeps.ite ?_ ?_
    | (extract_lets +onlyGivenNames x; first | refine (fun hx => ?_ : Keeps _ _ x → _) ?_ | refine (fun hx => ?_ : KeepsP _ _ x → _) ?_ | skip)
    | with_reducible intro _

theorem collFinish_keeps {T : List Nat} {s u : State} {p : ℕ} {entry : ℕ} {chunk : ℕ} {data : List Byte} {bad : Bool}
    (hT : Sub [2, 3, 5, 6, 8, 9, 11, 12, 13, 14, 16, 19, 20, 0x2020, 0x2021, 0x3000, 0x3001, 0x3010, 0x3011, 0x3021, 0x3403, 0x3410, 0x3411, 0x4110, 0x4120, 0x4130, 0x4140, 0x6101, 0x6102, 0x6202, 0x7002, 0x8100, 0x9000, 0x9001, 0x9010] T) (h : Keeps T s u) : Keeps T s (collFinish u p entry chunk data bad) := by
  unfold collFinish
  repeat' first
    | with_reducible assumption
    | exact Sub.of rfl hT
    | with_reducible apply collKeep_keeps
    | with_reducible apply each_keeps
    | with_reducible apply collSend_keeps
    | with_reducible refine Keeps.ite ?_ ?_
    | (extract_lets +onlyGivenNames x; first | refine (fun hx => ?_ : Keeps _ _ x → _) ?_ | refine (fun hx => ?_ : KeepsP _ _ x → _) ?_ | skip)
    | with_reducible intro _

theorem ringStep_keeps {T : List Nat} {s u : State} {p : ℕ} {entry : ℕ} {chunk : ℕ} {acc : List Byte} {bad : Bool}
    (hT : Sub [2, 3, 5, 6, 8, 9, 11, 12, 13, 14, 16, 19, 20, 0x2020, 0x2021, 0x3000, 0x3001, 0x3010, 0x3011, 0x3021, 0x3403, 0x3410, 0x3411, 0x4110, 0x4120, 0x4130, 0x4140, 0x6101, 0x6102, 0x6202, 0x7002, 0x8100, 0x9000, 0x9001, 0x9010] T) (h : Keeps T s u) : Keeps T s (ringStep u p entry chunk acc bad) := by
  unfold ringStep
  repeat' first
    | with_reducible assumption
    | exact Sub.of rfl hT
    | with_reducible apply collFinish_keeps
    | with_reducible apply collSend_keeps
    | with_reducible refine Keeps.ite ?_ ?_

theorem collCast_keeps {T : List Nat} {s u : State} {p : ℕ} {entry : ℕ} {e : Sched} {l : List (List Byte × Bool)} {dst : ℕ}
    (hT : Sub [2, 3, 5, 6, 8, 9, 11, 12, 13, 14, 16, 19, 20, 0x2020, 0x2021, 0x3000, 0x3001, 0x3010, 0x3011, 0x3021, 0x3403, 0x3410, 0x3411, 0x4110, 0x4120, 0x4130, 0x4140, 0x6101, 0x6102, 0x6202, 0x7002, 0x8100, 0x9000, 0x9001, 0x9010] T) (h : Keeps T s u) : Keeps T s (collCast u p entry e l dst) := by
  unfold collCast
  repeat' first
    | with_reducible assumption
    | exact Sub.of rfl hT
    | with_reducible apply inject_keeps
    | with_reducible apply foldl_keeps
    | with_reducible refine Keeps.ite ?_ ?_
    | (extract_lets +onlyGivenNames x; first | refine (fun hx => ?_ : Keeps _ _ x → _) ?_ | refine (fun hx => ?_ : KeepsP _ _ x → _) ?_ | skip)
    | with_reducible intro _

theorem storeRuns_keeps {T : List Nat} {s u : State} {unit : ℕ} {b : ℕ} {a : ℕ} {l : List (List Byte × Bool)}
    (hT : Sub [2, 3, 6, 16, 0x3021, 0x6101, 0x6102, 0x7002] T) (h : Keeps T s u) : Keeps T s (storeRuns u unit b a l) := by
  induction l generalizing u unit b a with
  | nil =>
    unfold storeRuns
    repeat' first
      | with_reducible assumption
      | exact Sub.of rfl hT
      | with_reducible apply planStore_keeps
      | with_reducible apply ih
      | with_reducible refine Keeps.ite ?_ ?_
      | with_reducible intro _
      | dsimp only
      | split
  | cons c r ih =>
    unfold storeRuns
    repeat' first
      | with_reducible assumption
      | exact Sub.of rfl hT
      | with_reducible apply planStore_keeps
      | with_reducible apply ih
      | with_reducible refine Keeps.ite ?_ ?_
      | with_reducible intro _
      | dsimp only
      | split

theorem transferEnd_keeps {T : List Nat} {s u : State} {b : ℕ} {ch : ℕ} {t : Transfer}
    (hT : Sub [5, 6, 0x3021, 0x8200] T) (h : Keeps T s u) : Keeps T s (transferEnd u b ch t) := by
  unfold transferEnd
  repeat' first
    | with_reducible assumption
    | exact Sub.of rfl hT
    | with_reducible apply modBlock_keeps
    | with_reducible apply arrive_keeps
    | with_reducible apply traceRec_keeps
    | with_reducible refine Keeps.ite ?_ ?_

theorem moverDelivery_keeps {T : List Nat} {s u : State} {b : ℕ} {ch : ℕ}
    (hT : Sub [2, 3, 5, 6, 16, 0x3021, 0x6101, 0x6102, 0x7002, 0x8200] T) (h : Keeps T s u) : Keeps T s (moverDelivery u b ch) := by
  unfold moverDelivery
  repeat' first
    | with_reducible assumption
    | exact Sub.of rfl hT
    | with_reducible apply storeRuns_keeps
    | with_reducible apply modBlock_keeps
    | with_reducible apply transferEnd_keeps
    | with_reducible refine Keeps.ite ?_ ?_
    | (extract_lets +onlyGivenNames x; first | refine (fun hx => ?_ : Keeps _ _ x → _) ?_ | refine (fun hx => ?_ : KeepsP _ _ x → _) ?_ | skip)
    | with_reducible intro _
    | split

theorem collDelivery_keeps {T : List Nat} {s u : State} {p : ℕ} {entry : ℕ}
    (hT : Sub [2, 3, 5, 6, 11, 16, 0x3021, 0x6101, 0x6102, 0x7002, 0x8200] T) (h : Keeps T s u) : Keeps T s (collDelivery u p entry) := by
  unfold collDelivery
  repeat' first
    | with_reducible assumption
    | exact Sub.of rfl hT
    | with_reducible apply planStore_keeps
    | with_reducible apply each_keeps
    | with_reducible apply record_keeps
    | with_reducible apply modRouter_keeps
    | with_reducible apply traceRec_keeps
    | with_reducible apply arrive_keeps
    | with_reducible apply foldl_keeps
    | with_reducible refine Keeps.ite ?_ ?_
    | (extract_lets +onlyGivenNames x; first | refine (fun hx => ?_ : Keeps _ _ x → _) ?_ | refine (fun hx => ?_ : KeepsP _ _ x → _) ?_ | skip)
    | with_reducible intro _

theorem execArrivalDelivery_keeps {u : State} {d : Delivery} :
    OutKeeps [2, 3, 5, 6, 11, 16, 0x3021, 0x6101, 0x6102, 0x7002, 0x8200] u (execArrivalDelivery d u) := by
  have h := Keeps.refl [2, 3, 5, 6, 11, 16, 0x3021, 0x6101, 0x6102, 0x7002, 0x8200] u
  have hT := Sub.rfl (a := [2, 3, 5, 6, 11, 16, 0x3021, 0x6101, 0x6102, 0x7002, 0x8200])
  unfold execArrivalDelivery
  repeat' first
    | with_reducible assumption
    | exact Sub.of rfl hT
    | with_reducible apply moverDelivery_keeps
    | with_reducible apply arrive_keeps
    | with_reducible apply planWriteAll_keeps
    | with_reducible apply denyPlan_keeps
    | with_reducible apply collDelivery_keeps
    | with_reducible apply OutKeeps.next
    | with_reducible refine Keeps.ite ?_ ?_
    | (extract_lets +onlyGivenNames x; first | refine (fun hx => ?_ : Keeps _ _ x → _) ?_ | refine (fun hx => ?_ : KeepsP _ _ x → _) ?_ | skip)
    | with_reducible intro _
    | split

theorem planRuns_keeps {T : List Nat} {s u : State} {unit : ℕ} {b : ℕ} {a : ℕ} {n : ℕ} {ecc : List EccHit}
    (hT : Sub [6, 8, 9, 13, 16, 20, 0x3410, 0x3411, 0x4110, 0x4140, 0x6202, 0x7002, 0x9000, 0x9001, 0x9010] T) (h : Keeps T s u) : KeepsP T s (planRuns u unit b a n ecc) := by
  unfold planRuns
  repeat' first
    | with_reducible assumption
    | exact Sub.of rfl hT
    | with_reducible apply readRuns_keeps
    | with_reducible apply denyPlan_keeps
    | with_reducible refine Keeps.ite ?_ ?_
    | with_reducible refine KeepsP.ite ?_ ?_
    | with_reducible apply KeepsP.fst
    | with_reducible intro _
    | split
    | with_reducible apply KeepsP.mk

theorem departPackets_keeps {T : List Nat} {s u : State} {fuel : ℕ} {i : Inject} {l : List (List Byte × Bool)} {o : ℕ} {ctr : ℕ}
    (hT : Sub [2, 3, 5, 6, 8, 9, 11, 12, 13, 14, 16, 19, 20, 0x2020, 0x2021, 0x3000, 0x3001, 0x3010, 0x3011, 0x3021, 0x3403, 0x3410, 0x3411, 0x4110, 0x4120, 0x4130, 0x4140, 0x6101, 0x6102, 0x6202, 0x7002, 0x8100, 0x9000, 0x9001, 0x9010] T) (h : Keeps T s u) : Keeps T s (departPackets fuel u i l o ctr) := by
  induction fuel generalizing u i l o ctr with
  | zero =>
    unfold departPackets
    repeat' first
      | with_reducible assumption
      | exact Sub.of rfl hT
      | with_reducible apply inject_keeps
      | with_reducible apply ih
      | with_reducible refine Keeps.ite ?_ ?_
      | with_reducible intro _
      | dsimp only
      | split
  | succ n ih =>
    unfold departPackets
    repeat' first
      | with_reducible assumption
      | exact Sub.of rfl hT
      | with_reducible apply inject_keeps
      | with_reducible apply ih
      | with_reducible refine Keeps.ite ?_ ?_
      | with_reducible intro _
      | dsimp only
      | split

theorem copy_keeps {T : List Nat} {s u : State} {i : Issue} {ch : ℕ} {w : MovSlot} {ecc : List EccHit}
    (hT : Sub [2, 3, 5, 6, 8, 9, 11, 12, 13, 14, 16, 19, 20, 0x2020, 0x2021, 0x3000, 0x3001, 0x3010, 0x3011, 0x3021, 0x3403, 0x3410, 0x3411, 0x4110, 0x4120, 0x4130, 0x4140, 0x6101, 0x6102, 0x6202, 0x7002, 0x8100, 0x8200, 0x9000, 0x9001, 0x9010] T) (h : Keeps T s u) : Keeps T s (copy u i ch w ecc) := by
  unfold copy
  repeat' first
    | with_reducible assumption
    | exact Sub.of rfl hT
    | with_reducible apply readDesc_keeps
    | with_reducible apply traceRec_keeps
    | with_reducible apply planRuns_keeps
    | with_reducible apply modBlock_keeps
    | with_reducible apply departPackets_keeps
    | with_reducible refine Keeps.ite ?_ ?_
    | with_reducible refine KeepsP.ite ?_ ?_
    | with_reducible apply KeepsP.fst
    | (extract_lets +onlyGivenNames x; first | refine (fun hx => ?_ : Keeps _ _ x → _) ?_ | refine (fun hx => ?_ : KeepsP _ _ x → _) ?_ | skip)
    | with_reducible intro _
    | split
    | with_reducible apply KeepsP.mk

theorem execMvNop_keeps {u : State} {i : Issue} {channel : ℕ} {_w : MovSlot} :
    OutKeeps [5, 6, 9, 13, 16, 20, 0x3020, 0x3021, 0x4110, 0x4140, 0x6202, 0x7002, 0x9000, 0x9001] u (execMvNop i channel _w u) := by
  have h := Keeps.refl [5, 6, 9, 13, 16, 20, 0x3020, 0x3021, 0x4110, 0x4140, 0x6202, 0x7002, 0x9000, 0x9001] u
  have hT := Sub.rfl (a := [5, 6, 9, 13, 16, 20, 0x3020, 0x3021, 0x4110, 0x4140, 0x6202, 0x7002, 0x9000, 0x9001])
  unfold execMvNop
  repeat' first
    | with_reducible assumption
    | exact Sub.of rfl hT
    | with_reducible apply issueSlot_keeps
    | exact (by assumption)
    | with_reducible apply OutKeeps.next
    | with_reducible refine Keeps.ite ?_ ?_
    | with_reducible intro _

theorem treeStep_keeps {T : List Nat} {s u : State} {p : ℕ} {entry : ℕ} {chunk : ℕ}
    (hT : Sub [2, 3, 5, 6, 8, 9, 11, 12, 13, 14, 16, 19, 20, 0x2020, 0x2021, 0x3000, 0x3001, 0x3010, 0x3011, 0x3021, 0x3403, 0x3410, 0x3411, 0x4110, 0x4120, 0x4130, 0x4140, 0x6101, 0x6102, 0x6202, 0x7002, 0x8100, 0x9000, 0x9001, 0x9010] T) (h : Keeps T s u) : Keeps T s (treeStep u p entry chunk) := by
  unfold treeStep
  repeat' first
    | with_reducible assumption
    | exact Sub.of rfl hT
    | with_reducible apply modColl_keeps
    | with_reducible apply collFinish_keeps
    | with_reducible refine Keeps.ite ?_ ?_

theorem collBegin_keeps {T : List Nat} {s u : State} {p : ℕ} {entry : ℕ}
    (hT : Sub [2, 3, 5, 6, 8, 9, 11, 12, 13, 14, 16, 19, 20, 0x2020, 0x2021, 0x3000, 0x3001, 0x3010, 0x3011, 0x3021, 0x3403, 0x3410, 0x3411, 0x4110, 0x4120, 0x4130, 0x4140, 0x6101, 0x6102, 0x6202, 0x7002, 0x8100, 0x9000, 0x9001, 0x9010] T) (h : Keeps T s u) : Keeps T s (collBegin u p entry) := by
  unfold collBegin
  repeat' first
    | with_reducible assumption
    | exact Sub.of rfl hT
    | with_reducible apply collFinish_keeps
    | with_reducible apply each_keeps
    | with_reducible apply treeStep_keeps
    | with_reducible apply collSend_keeps
    | with_reducible refine Keeps.ite ?_ ?_
    | (extract_lets +onlyGivenNames x; first | refine (fun hx => ?_ : Keeps _ _ x → _) ?_ | refine (fun hx => ?_ : KeepsP _ _ x → _) ?_ | skip)
    | with_reducible intro _

theorem collTake_keeps {T : List Nat} {s u : State} {p : ℕ} {entry : ℕ} {a : CollIn}
    (hT : Sub [2, 3, 5, 6, 8, 9, 11, 12, 13, 14, 16, 19, 20, 0x2020, 0x2021, 0x3000, 0x3001, 0x3010, 0x3011, 0x3021, 0x3403, 0x3410, 0x3411, 0x4110, 0x4120, 0x4130, 0x4140, 0x6101, 0x6102, 0x6202, 0x7002, 0x8100, 0x9000, 0x9001, 0x9010] T) (h : Keeps T s u) : Keeps T s (collTake u p entry a) := by
  unfold collTake
  repeat' first
    | with_reducible assumption
    | exact Sub.of rfl hT
    | with_reducible apply collKeep_keeps
    | with_reducible apply treeStep_keeps
    | with_reducible apply modColl_keeps
    | with_reducible apply ringStep_keeps
    | with_reducible refine Keeps.ite ?_ ?_

theorem coll_keeps {T : List Nat} {s u : State} {i : Issue} {w : MovSlot} {ecc : List EccHit}
    (hT : Sub [2, 3, 5, 6, 8, 9, 11, 12, 13, 14, 16, 19, 20, 0x2020, 0x2021, 0x3000, 0x3001, 0x3010, 0x3011, 0x3021, 0x3403, 0x3410, 0x3411, 0x4110, 0x4120, 0x4130, 0x4140, 0x6101, 0x6102, 0x6202, 0x7002, 0x8100, 0x8200, 0x9000, 0x9001, 0x9010] T) (h : Keeps T s u) : Keeps T s (coll u i w ecc) := by
  unfold coll
  repeat' first
    | with_reducible assumption
    | exact Sub.of rfl hT
    | with_reducible apply traceRec_keeps
    | with_reducible apply planRuns_keeps
    | with_reducible apply modColl_keeps
    | with_reducible apply collCast_keeps
    | with_reducible apply each_keeps
    | with_reducible apply collBegin_keeps
    | with_reducible apply collTake_keeps
    | with_reducible refine Keeps.ite ?_ ?_
    | with_reducible refine KeepsP.ite ?_ ?_
    | with_reducible apply KeepsP.fst
    | (extract_lets +onlyGivenNames x; first | refine (fun hx => ?_ : Keeps _ _ x → _) ?_ | refine (fun hx => ?_ : KeepsP _ _ x → _) ?_ | skip)
    | with_reducible intro _

theorem transferLanded_keeps {T : List Nat} {s u : State} {b : ℕ} {ch : ℕ}
    (hT : Sub [5, 6, 0x3021, 0x8200] T) (h : Keeps T s u) : Keeps T s (transferLanded u b ch) := by
  unfold transferLanded
  repeat' first
    | with_reducible assumption
    | exact Sub.of rfl hT
    | with_reducible apply transferEnd_keeps
    | with_reducible refine Keeps.ite ?_ ?_
    | with_reducible intro _
    | split

theorem transfersLanded_keeps {T : List Nat} {s u : State} {p : ℕ}
    (hT : Sub [5, 6, 0x3021, 0x8200] T) (h : Keeps T s u) : Keeps T s (transfersLanded u p) := by
  unfold transfersLanded
  repeat' first
    | with_reducible assumption
    | exact Sub.of rfl hT
    | with_reducible apply each_keeps
    | with_reducible apply transferLanded_keeps
    | with_reducible refine Keeps.ite ?_ ?_
    | with_reducible intro _

theorem execJournalCopy_keeps {u : State} {part : ℕ} {page : ℕ} :
    OutKeeps [2, 3, 5, 6, 16, 0x3021, 0x6101, 0x6102, 0x7002, 0x8200] u (execJournalCopy part page u) := by
  have h := Keeps.refl [2, 3, 5, 6, 16, 0x3021, 0x6101, 0x6102, 0x7002, 0x8200] u
  have hT := Sub.rfl (a := [2, 3, 5, 6, 16, 0x3021, 0x6101, 0x6102, 0x7002, 0x8200])
  unfold execJournalCopy
  repeat' first
    | with_reducible assumption
    | exact Sub.of rfl hT
    | with_reducible apply transfersLanded_keeps
    | with_reducible apply jnlCopyDone_keeps
    | with_reducible apply OutKeeps.next

theorem execColl_keeps {u : State} {i : Issue} {channel : ℕ} {w : MovSlot} {ecc : List EccHit} :
    OutKeeps [2, 3, 5, 6, 8, 9, 11, 12, 13, 14, 16, 19, 20, 0x2020, 0x2021, 0x3000, 0x3001, 0x3010, 0x3011, 0x3020, 0x3021, 0x3403, 0x3410, 0x3411, 0x4110, 0x4120, 0x4130, 0x4140, 0x6101, 0x6102, 0x6202, 0x7002, 0x8100, 0x8200, 0x9000, 0x9001, 0x9010] u (execColl i channel w ecc u) := by
  have h := Keeps.refl [2, 3, 5, 6, 8, 9, 11, 12, 13, 14, 16, 19, 20, 0x2020, 0x2021, 0x3000, 0x3001, 0x3010, 0x3011, 0x3020, 0x3021, 0x3403, 0x3410, 0x3411, 0x4110, 0x4120, 0x4130, 0x4140, 0x6101, 0x6102, 0x6202, 0x7002, 0x8100, 0x8200, 0x9000, 0x9001, 0x9010] u
  have hT := Sub.rfl (a := [2, 3, 5, 6, 8, 9, 11, 12, 13, 14, 16, 19, 20, 0x2020, 0x2021, 0x3000, 0x3001, 0x3010, 0x3011, 0x3020, 0x3021, 0x3403, 0x3410, 0x3411, 0x4110, 0x4120, 0x4130, 0x4140, 0x6101, 0x6102, 0x6202, 0x7002, 0x8100, 0x8200, 0x9000, 0x9001, 0x9010])
  unfold execColl
  repeat' first
    | with_reducible assumption
    | exact Sub.of rfl hT
    | with_reducible apply issueSlot_keeps
    | with_reducible apply coll_keeps
    | with_reducible apply OutKeeps.next
    | with_reducible refine Keeps.ite ?_ ?_
    | with_reducible intro _

theorem execCopy_keeps {u : State} {i : Issue} {channel : ℕ} {w : MovSlot} {ecc : List EccHit} :
    OutKeeps [2, 3, 5, 6, 8, 9, 11, 12, 13, 14, 16, 19, 20, 0x2020, 0x2021, 0x3000, 0x3001, 0x3010, 0x3011, 0x3020, 0x3021, 0x3403, 0x3410, 0x3411, 0x4110, 0x4120, 0x4130, 0x4140, 0x6101, 0x6102, 0x6202, 0x7002, 0x8100, 0x8200, 0x9000, 0x9001, 0x9010] u (execCopy i channel w ecc u) := by
  have h := Keeps.refl [2, 3, 5, 6, 8, 9, 11, 12, 13, 14, 16, 19, 20, 0x2020, 0x2021, 0x3000, 0x3001, 0x3010, 0x3011, 0x3020, 0x3021, 0x3403, 0x3410, 0x3411, 0x4110, 0x4120, 0x4130, 0x4140, 0x6101, 0x6102, 0x6202, 0x7002, 0x8100, 0x8200, 0x9000, 0x9001, 0x9010] u
  have hT := Sub.rfl (a := [2, 3, 5, 6, 8, 9, 11, 12, 13, 14, 16, 19, 20, 0x2020, 0x2021, 0x3000, 0x3001, 0x3010, 0x3011, 0x3020, 0x3021, 0x3403, 0x3410, 0x3411, 0x4110, 0x4120, 0x4130, 0x4140, 0x6101, 0x6102, 0x6202, 0x7002, 0x8100, 0x8200, 0x9000, 0x9001, 0x9010])
  unfold execCopy
  repeat' first
    | with_reducible assumption
    | exact Sub.of rfl hT
    | with_reducible apply issueSlot_keeps
    | with_reducible apply copy_keeps
    | with_reducible apply OutKeeps.next
    | with_reducible refine Keeps.ite ?_ ?_
    | with_reducible intro _

theorem execCollCombine_keeps {u : State} {part : ℕ} {entry : ℕ} {chunk : ℕ} {member : ℕ} {data : List Byte} {poison : Bool} :
    OutKeeps [2, 3, 5, 6, 8, 9, 11, 12, 13, 14, 16, 19, 20, 0x2020, 0x2021, 0x3000, 0x3001, 0x3010, 0x3011, 0x3021, 0x3403, 0x3410, 0x3411, 0x4110, 0x4120, 0x4130, 0x4140, 0x6101, 0x6102, 0x6202, 0x7002, 0x8100, 0x9000, 0x9001, 0x9010] u (execCollCombine part entry chunk member data poison u) := by
  have h := Keeps.refl [2, 3, 5, 6, 8, 9, 11, 12, 13, 14, 16, 19, 20, 0x2020, 0x2021, 0x3000, 0x3001, 0x3010, 0x3011, 0x3021, 0x3403, 0x3410, 0x3411, 0x4110, 0x4120, 0x4130, 0x4140, 0x6101, 0x6102, 0x6202, 0x7002, 0x8100, 0x9000, 0x9001, 0x9010] u
  have hT := Sub.rfl (a := [2, 3, 5, 6, 8, 9, 11, 12, 13, 14, 16, 19, 20, 0x2020, 0x2021, 0x3000, 0x3001, 0x3010, 0x3011, 0x3021, 0x3403, 0x3410, 0x3411, 0x4110, 0x4120, 0x4130, 0x4140, 0x6101, 0x6102, 0x6202, 0x7002, 0x8100, 0x9000, 0x9001, 0x9010])
  unfold execCollCombine
  repeat' first
    | with_reducible assumption
    | exact Sub.of rfl hT
    | with_reducible apply collTake_keeps
    | with_reducible apply modColl_keeps
    | with_reducible apply OutKeeps.next
    | with_reducible refine Keeps.ite ?_ ?_

end Sys2Proof.Machine
end

