-- ==== Sys2Proof/Laws/KeepsPlanLoad.lean ====
section
/-! SUPPORT. What the functions of `Machine/PlanLoad.lean` keep. -/

namespace Sys2Proof.Machine

open Sys2Proof

theorem freeWatch_keeps {T : List Nat} {s u : State} {p : ℕ}
    (hT : Sub [19] T) (h : Keeps T s u) : Keeps T s (freeWatch u p) := by
  unfold freeWatch
  repeat' first
    | with_reducible assumption
    | exact Sub.of rfl hT
    | with_reducible apply modObs_keeps

theorem writeTable_keeps {T : List Nat} {s u : State} {p : ℕ} {j : ℕ} {im : List Byte}
    (hT : Sub [2, 3, 6, 8, 9, 13, 16, 20, 0x3021, 0x3403, 0x3410, 0x3411, 0x4110, 0x4140, 0x6101, 0x6102, 0x6202, 0x7002, 0x9000, 0x9001, 0x9010] T) (h : Keeps T s u) : Keeps T s (writeTable u p j im) := by
  unfold writeTable
  repeat' first
    | with_reducible assumption
    | exact Sub.of rfl hT
    | with_reducible apply memRequest_keeps
    | with_reducible refine Keeps.ite ?_ ?_

theorem unload_keeps {T : List Nat} {s u : State} {p : ℕ}
    (hT : Sub [6, 19, 0x3000, 0x3041, 0x6102, 0x6103] T) (h : Keeps T s u) : Keeps T s (unload u p) := by
  unfold unload
  repeat' first
    | with_reducible assumption
    | exact Sub.of rfl hT
    | with_reducible apply modPart_keeps
    | with_reducible apply freeWatch_keeps
    | with_reducible apply wr_keeps
    | with_reducible refine Keeps.ite ?_ ?_

theorem refuseLoad_keeps {T : List Nat} {s u : State} {m : ℕ} {p : ℕ} {status : ℕ} {reason : ℕ} {offset : ℕ} {plan : ℕ} {c : Cmd}
    (hT : Sub [12, 16, 0x3001, 0x7002] T) (h : Keeps T s u) : Keeps T s (refuseLoad u m p status reason offset plan c) := by
  unfold refuseLoad
  repeat' first
    | with_reducible assumption
    | exact Sub.of rfl hT
    | with_reducible apply recordL_keeps
    | with_reducible apply loadRegs_keeps
    | with_reducible apply moverDone_keeps

theorem loadNone_keeps {T : List Nat} {s u : State} {p : ℕ}
    (hT : Sub [0x3002] T) (h : Keeps T s u) : Keeps T s (loadNone u p) := by
  unfold loadNone
  repeat' first
    | with_reducible assumption
    | exact Sub.of rfl hT
    | with_reducible apply each_keeps
    | with_reducible apply wr_keeps
    | with_reducible refine Keeps.ite ?_ ?_
    | with_reducible intro _

theorem planLoad_keeps {T : List Nat} {s u : State} {m : ℕ} {ats : Ats}
    (hT : Sub [2, 3, 5, 6, 8, 9, 11, 12, 13, 14, 16, 19, 20, 0x2020, 0x2021, 0x3000, 0x3001, 0x3002, 0x3010, 0x3011, 0x3021, 0x3403, 0x3410, 0x3411, 0x4110, 0x4120, 0x4130, 0x4140, 0x6101, 0x6102, 0x6202, 0x7002, 0x8100, 0x9000, 0x9001, 0x9010] T) (h : Keeps T s u) : Keeps T s (planLoad u m ats) := by
  unfold planLoad
  repeat' first
    | with_reducible assumption
    | exact Sub.of rfl hT
    | with_reducible apply beginWith_keeps
    | with_reducible apply refuseLoad_keeps
    | with_reducible apply loadNone_keeps
    | with_reducible apply wr_keeps
    | with_reducible apply modPart_keeps
    | with_reducible apply translate_keeps
    | with_reducible apply runCmd_keeps
    | with_reducible refine Keeps.ite ?_ ?_
    | (extract_lets +onlyGivenNames x; first | refine (fun hx => ?_ : Keeps _ _ x → _) ?_ | refine (fun hx => ?_ : KeepsP _ _ x → _) ?_ | skip)
    | with_reducible intro _

theorem loadReport_keeps {T : List Nat} {s u : State} {p : ℕ} {keep : ℕ} {im : List Byte}
    (hT : Sub [0x3002, 0x3003] T) (h : Keeps T s u) : Keeps T s (loadReport u p keep im) := by
  unfold loadReport
  repeat' first
    | with_reducible assumption
    | exact Sub.of rfl hT
    | with_reducible apply each_keeps
    | with_reducible apply wr_keeps
    | with_reducible refine Keeps.ite ?_ ?_
    | (extract_lets +onlyGivenNames x; first | refine (fun hx => ?_ : Keeps _ _ x → _) ?_ | refine (fun hx => ?_ : KeepsP _ _ x → _) ?_ | skip)
    | with_reducible intro _

theorem dropTrace_keeps {T : List Nat} {s u : State} {p : ℕ} {b : ℕ}
    (hT : Sub [0x8200] T) (h : Keeps T s u) : Keeps T s (dropTrace u p b) := by
  unfold dropTrace
  repeat' first
    | with_reducible assumption
    | exact Sub.of rfl hT
    | with_reducible apply bump_keeps

theorem loadBlockRegs_keeps {T : List Nat} {s u : State} {b : ℕ}
    (hT : Sub [31] T) (h : Keeps T s u) : Keeps T s (loadBlockRegs u b) := by
  unfold loadBlockRegs
  repeat' first
    | with_reducible assumption
    | exact Sub.of rfl hT
    | with_reducible apply wr_keeps
    | with_reducible apply odClear_keeps

theorem loadPartRegs_keeps {T : List Nat} {s u : State} {p : ℕ}
    (hT : Sub [31] T) (h : Keeps T s u) : Keeps T s (loadPartRegs u p) := by
  unfold loadPartRegs
  repeat' first
    | with_reducible assumption
    | exact Sub.of rfl hT
    | with_reducible apply odClear_keeps

theorem spareLoaded_keeps {T : List Nat} {s u : State} {p : ℕ}
    (hT : Sub [0x6103] T) (h : Keeps T s u) : Keeps T s (spareLoaded u p) := by
  unfold spareLoaded
  repeat' first
    | with_reducible assumption
    | exact Sub.of rfl hT
    | with_reducible apply wr_keeps
    | with_reducible refine Keeps.ite ?_ ?_

theorem takeWatch_keeps {T : List Nat} {s u : State} {p : ℕ} {im : List Byte}
    (hT : Sub [19, 0x8302] T) (h : Keeps T s u) : Keeps T s (takeWatch u p im) := by
  unfold takeWatch
  repeat' first
    | with_reducible assumption
    | exact Sub.of rfl hT
    | with_reducible apply wr_keeps
    | with_reducible apply modObs_keeps

theorem loadPlan_keeps {T : List Nat} {s u : State} {p : ℕ} {im : List Byte}
    (hT : Sub [2, 3, 5, 6, 8, 9, 13, 16, 19, 20, 31] T) (h : Keeps T s u) : Keeps T s (loadPlan u p im) := by
  unfold loadPlan
  repeat' first
    | with_reducible assumption
    | exact Sub.of rfl hT
    | with_reducible apply each_keeps
    | with_reducible apply dropTrace_keeps
    | with_reducible apply loadBlockRegs_keeps
    | with_reducible apply modBlock_keeps
    | with_reducible apply modPart_keeps
    | with_reducible apply loadPartRegs_keeps
    | with_reducible apply writeTable_keeps
    | with_reducible apply wr_keeps
    | with_reducible apply spareLoaded_keeps
    | with_reducible apply takeWatch_keeps
    | with_reducible apply freeWatch_keeps
    | with_reducible refine Keeps.ite ?_ ?_
    | exact Sub.reg _ hT rfl
    | (extract_lets +onlyGivenNames x; first | refine (fun hx => ?_ : Keeps _ _ x → _) ?_ | refine (fun hx => ?_ : KeepsP _ _ x → _) ?_ | skip)
    | with_reducible intro _

theorem loadEnd_keeps {T : List Nat} {s u : State} {p : ℕ} {keep : ℕ}
    (hT : Sub [2, 3, 5, 6, 8, 9, 12, 13, 16, 19, 20, 31] T) (h : Keeps T s u) : Keeps T s (loadEnd u p keep) := by
  unfold loadEnd
  repeat' first
    | with_reducible assumption
    | exact Sub.of rfl hT
    | with_reducible apply moverFail_keeps
    | with_reducible apply loadReport_keeps
    | with_reducible apply loadNone_keeps
    | with_reducible apply refuseLoad_keeps
    | with_reducible apply dropStage_keeps
    | with_reducible apply loadRegs_keeps
    | with_reducible apply loadPlan_keeps
    | with_reducible apply moverDone_keeps
    | with_reducible apply recordL_keeps
    | with_reducible refine Keeps.ite ?_ ?_
    | exact Sub.reg _ hT rfl
    | (extract_lets +onlyGivenNames x; first | refine (fun hx => ?_ : Keeps _ _ x → _) ?_ | refine (fun hx => ?_ : KeepsP _ _ x → _) ?_ | skip)
    | with_reducible intro _
    | split

theorem loadDone_keeps {T : List Nat} {s u : State} {p : ℕ} {keep : ℕ}
    (hT : Sub [2, 3, 5, 6, 8, 9, 12, 13, 16, 19, 20, 31] T) (h : Keeps T s u) : Keeps T s (loadDone u p keep) := by
  unfold loadDone
  repeat' first
    | with_reducible assumption
    | exact Sub.of rfl hT
    | with_reducible apply asCmd_keeps
    | with_reducible apply loadEnd_keeps
    | with_reducible refine Keeps.ite ?_ ?_
    | exact Sub.reg _ hT rfl
    | with_reducible intro _
    | split

theorem execPlanLoad_keeps {u : State} {mover : ℕ} {ats : Ats} :
    OutKeeps [2, 3, 5, 6, 8, 9, 11, 12, 13, 14, 16, 19, 20, 0x2020, 0x2021, 0x3000, 0x3001, 0x3002, 0x3010, 0x3011, 0x3021, 0x3403, 0x3410, 0x3411, 0x4110, 0x4120, 0x4130, 0x4140, 0x6101, 0x6102, 0x6202, 0x7002, 0x8100, 0x9000, 0x9001, 0x9010] u (execPlanLoad mover ats u) := by
  have h := Keeps.refl [2, 3, 5, 6, 8, 9, 11, 12, 13, 14, 16, 19, 20, 0x2020, 0x2021, 0x3000, 0x3001, 0x3002, 0x3010, 0x3011, 0x3021, 0x3403, 0x3410, 0x3411, 0x4110, 0x4120, 0x4130, 0x4140, 0x6101, 0x6102, 0x6202, 0x7002, 0x8100, 0x9000, 0x9001, 0x9010] u
  have hT := Sub.rfl (a := [2, 3, 5, 6, 8, 9, 11, 12, 13, 14, 16, 19, 20, 0x2020, 0x2021, 0x3000, 0x3001, 0x3002, 0x3010, 0x3011, 0x3021, 0x3403, 0x3410, 0x3411, 0x4110, 0x4120, 0x4130, 0x4140, 0x6101, 0x6102, 0x6202, 0x7002, 0x8100, 0x9000, 0x9001, 0x9010])
  unfold execPlanLoad
  repeat' first
    | with_reducible assumption
    | exact Sub.of rfl hT
    | with_reducible apply planLoad_keeps
    | with_reducible apply OutKeeps.next

theorem execPlanLoadChecksDone_keeps {u : State} {part : ℕ} {keep : ℕ} :
    OutKeeps [2, 3, 5, 6, 8, 9, 12, 13, 16, 19, 20, 31] u (execPlanLoadChecksDone part keep u) := by
  have h := Keeps.refl [2, 3, 5, 6, 8, 9, 12, 13, 16, 19, 20, 31] u
  have hT := Sub.rfl (a := [2, 3, 5, 6, 8, 9, 12, 13, 16, 19, 20, 31])
  unfold execPlanLoadChecksDone
  repeat' first
    | with_reducible assumption
    | exact Sub.of rfl hT
    | with_reducible apply loadDone_keeps
    | with_reducible apply OutKeeps.next

end Sys2Proof.Machine
end

