-- ==== Sys2Proof/Laws/KeepsPower.lean ====
section
/-! SUPPORT. What the functions of `Machine/Power.lean` keep. -/

namespace Sys2Proof.Machine

open Sys2Proof

theorem modPower_keeps {T : List Nat} {s u : State} {f : PowerCtl → PowerCtl}
    (hT : Sub [15] T) (h : Keeps T s u) : Keeps T s (State.modPower u f) := by
  unfold State.modPower
  repeat' first
    | with_reducible assumption
    | exact Sub.of rfl hT
    | with_reducible apply setPower_keeps

theorem clamp_keeps {T : List Nat} {s u : State} {cause : ℕ}
    (hT : Sub [15, 16, 0x2101, 0x7002] T) (h : Keeps T s u) : Keeps T s (clamp u cause) := by
  unfold clamp
  repeat' first
    | with_reducible assumption
    | exact Sub.of rfl hT
    | with_reducible apply modPower_keeps
    | with_reducible apply record_keeps
    | with_reducible apply bumpSat_keeps
    | with_reducible refine Keeps.ite ?_ ?_

theorem execDroopStretch_keeps {u : State} {ns : ℕ} {windowNs : ℕ} :
    OutKeeps [15, 16, 0x2100, 0x2101, 0x7002] u (execDroopStretch ns windowNs u) := by
  have h := Keeps.refl [15, 16, 0x2100, 0x2101, 0x7002] u
  have hT := Sub.rfl (a := [15, 16, 0x2100, 0x2101, 0x7002])
  unfold execDroopStretch
  repeat' first
    | with_reducible assumption
    | exact Sub.of rfl hT
    | with_reducible apply bumpSat_keeps
    | with_reducible apply modPower_keeps
    | with_reducible apply clamp_keeps
    | with_reducible apply record_keeps
    | with_reducible apply OutKeeps.next
    | with_reducible refine Keeps.ite ?_ ?_

theorem capHold_keeps {T : List Nat} {s u : State}
    (hT : Sub [2, 3, 5, 6, 8, 9, 11, 12, 13, 14, 15, 16, 19, 20, 0x2020, 0x2021, 0x3000, 0x3001, 0x3010, 0x3011, 0x3021, 0x3403, 0x3410, 0x3411, 0x4110, 0x4120, 0x4130, 0x4140, 0x6101, 0x6102, 0x6202, 0x7002, 0x8100, 0x9000, 0x9001, 0x9010] T) (h : Keeps T s u) : Keeps T s (capHold u) := by
  unfold capHold
  repeat' first
    | with_reducible assumption
    | exact Sub.of rfl hT
    | with_reducible apply modPower_keeps
    | with_reducible apply resumeCmds_keeps
    | with_reducible apply each_keeps
    | with_reducible apply memRequest_keeps
    | with_reducible refine Keeps.ite ?_ ?_
    | (extract_lets +onlyGivenNames x; first | refine (fun hx => ?_ : Keeps _ _ x → _) ?_ | refine (fun hx => ?_ : KeepsP _ _ x → _) ?_ | skip)
    | with_reducible intro _

theorem powerCap_keeps {T : List Nat} {s u : State} {v : ℕ}
    (hT : Sub [2, 3, 5, 6, 8, 9, 11, 12, 13, 14, 15, 16, 19, 20, 0x2020, 0x2021, 0x2101, 0x3000, 0x3001, 0x3010, 0x3011, 0x3021, 0x3403, 0x3410, 0x3411, 0x4110, 0x4120, 0x4130, 0x4140, 0x6101, 0x6102, 0x6202, 0x7002, 0x8100, 0x9000, 0x9001, 0x9010] T) (h : Keeps T s u) : KeepsP T s (powerCap u v) := by
  unfold powerCap
  repeat' first
    | with_reducible assumption
    | exact Sub.of rfl hT
    | with_reducible apply done_keeps
    | with_reducible apply capHold_keeps
    | with_reducible apply wr_keeps

theorem execPolicyClamp_keeps {u : State} {cause : ℕ} {clear : Bool} :
    OutKeeps [15, 16, 0x2101, 0x7002] u (execPolicyClamp cause clear u) := by
  have h := Keeps.refl [15, 16, 0x2101, 0x7002] u
  have hT := Sub.rfl (a := [15, 16, 0x2101, 0x7002])
  unfold execPolicyClamp
  repeat' first
    | with_reducible assumption
    | exact Sub.of rfl hT
    | with_reducible apply modPower_keeps
    | with_reducible apply clamp_keeps
    | with_reducible apply OutKeeps.next
    | with_reducible refine Keeps.ite ?_ ?_

theorem execPowerCapOvershoot_keeps {u : State} :
    OutKeeps [16, 0x7002] u (execPowerCapOvershoot u) := by
  have h := Keeps.refl [16, 0x7002] u
  have hT := Sub.rfl (a := [16, 0x7002])
  unfold execPowerCapOvershoot
  repeat' first
    | with_reducible assumption
    | exact Sub.of rfl hT
    | with_reducible apply record_keeps
    | with_reducible apply OutKeeps.next
    | with_reducible refine Keeps.ite ?_ ?_

theorem execPowerCapHold_keeps {u : State} {watts : ℕ} :
    OutKeeps [2, 3, 5, 6, 8, 9, 11, 12, 13, 14, 15, 16, 19, 20, 0x2020, 0x2021, 0x2101, 0x3000, 0x3001, 0x3010, 0x3011, 0x3021, 0x3403, 0x3410, 0x3411, 0x4110, 0x4120, 0x4130, 0x4140, 0x6101, 0x6102, 0x6202, 0x7002, 0x8100, 0x9000, 0x9001, 0x9010] u (execPowerCapHold watts u) := by
  have h := Keeps.refl [2, 3, 5, 6, 8, 9, 11, 12, 13, 14, 15, 16, 19, 20, 0x2020, 0x2021, 0x2101, 0x3000, 0x3001, 0x3010, 0x3011, 0x3021, 0x3403, 0x3410, 0x3411, 0x4110, 0x4120, 0x4130, 0x4140, 0x6101, 0x6102, 0x6202, 0x7002, 0x8100, 0x9000, 0x9001, 0x9010] u
  have hT := Sub.rfl (a := [2, 3, 5, 6, 8, 9, 11, 12, 13, 14, 15, 16, 19, 20, 0x2020, 0x2021, 0x2101, 0x3000, 0x3001, 0x3010, 0x3011, 0x3021, 0x3403, 0x3410, 0x3411, 0x4110, 0x4120, 0x4130, 0x4140, 0x6101, 0x6102, 0x6202, 0x7002, 0x8100, 0x9000, 0x9001, 0x9010])
  unfold execPowerCapHold
  repeat' first
    | with_reducible assumption
    | exact Sub.of rfl hT
    | with_reducible apply capHold_keeps
    | with_reducible apply raise_keeps
    | with_reducible apply wr_keeps
    | with_reducible apply OutKeeps.next

theorem execPwrCapW_keeps {u : State} {who : Who} {value : ℕ} :
    OutKeeps [2, 3, 5, 6, 8, 9, 11, 12, 13, 14, 15, 16, 19, 20, 0x2020, 0x2021, 0x2101, 0x3000, 0x3001, 0x3010, 0x3011, 0x3021, 0x3403, 0x3410, 0x3411, 0x4110, 0x4120, 0x4130, 0x4140, 0x6101, 0x6102, 0x6202, 0x7002, 0x8100, 0x9000, 0x9001, 0x9010] u (execPwrCapW who value u) := by
  have h := Keeps.refl [2, 3, 5, 6, 8, 9, 11, 12, 13, 14, 15, 16, 19, 20, 0x2020, 0x2021, 0x2101, 0x3000, 0x3001, 0x3010, 0x3011, 0x3021, 0x3403, 0x3410, 0x3411, 0x4110, 0x4120, 0x4130, 0x4140, 0x6101, 0x6102, 0x6202, 0x7002, 0x8100, 0x9000, 0x9001, 0x9010] u
  have hT := Sub.rfl (a := [2, 3, 5, 6, 8, 9, 11, 12, 13, 14, 15, 16, 19, 20, 0x2020, 0x2021, 0x2101, 0x3000, 0x3001, 0x3010, 0x3011, 0x3021, 0x3403, 0x3410, 0x3411, 0x4110, 0x4120, 0x4130, 0x4140, 0x6101, 0x6102, 0x6202, 0x7002, 0x8100, 0x9000, 0x9001, 0x9010])
  unfold execPwrCapW
  repeat' first
    | with_reducible assumption
    | exact Sub.of rfl hT
    | with_reducible apply guard_keeps
    | with_reducible apply powerCap_keeps
    | with_reducible apply OutKeeps.next
    | with_reducible refine Keeps.ite ?_ ?_
    | with_reducible refine KeepsP.ite ?_ ?_
    | with_reducible apply KeepsP.fst
    | with_reducible intro _

theorem setClock_keeps {T : List Nat} {s u : State} {p : ℕ}
    (hT : Sub [15, 16, 21, 0x2100, 0x2101, 0x7002] T) (h : Keeps T s u) : Keeps T s (setClock u p) := by
  unfold setClock
  repeat' first
    | with_reducible assumption
    | exact Sub.of rfl hT
    | with_reducible apply tick_keeps
    | with_reducible apply wr_keeps
    | with_reducible apply modPower_keeps
    | with_reducible apply record_keeps
    | with_reducible refine Keeps.ite ?_ ?_

end Sys2Proof.Machine
end

