-- ==== Sys2Proof/Laws/KeepsTraining.lean ====
section
/-! SUPPORT. What the functions of `Machine/Training.lean` keep. -/

namespace Sys2Proof.Machine

open Sys2Proof

theorem penOnce_keeps {T : List Nat} {s u : State} {u' : ℕ} {cause : ℕ} {pts : ℕ}
    (hT : Sub [13, 16, 0x7002, 0x9000, 0x9001] T) (h : Keeps T s u) : Keeps T s (penOnce u u' cause pts) := by
  unfold penOnce
  repeat' first
    | with_reducible assumption
    | exact Sub.of rfl hT
    | with_reducible apply penFixed_keeps
    | with_reducible refine Keeps.ite ?_ ?_

theorem laneOut_keeps {T : List Nat} {s u : State} {port : ℕ} {l : ℕ}
    (hT : Sub [13, 16, 0x4010, 0x7002, 0x9000, 0x9001, 0x9010] T) (h : Keeps T s u) : Keeps T s (laneOut u port l) := by
  unfold laneOut
  repeat' first
    | with_reducible assumption
    | exact Sub.of rfl hT
    | with_reducible apply wr_keeps
    | with_reducible apply penOnce_keeps
    | with_reducible apply bumpSat_keeps

theorem switchLanes_keeps {T : List Nat} {s u : State} {port : ℕ} {moves : List LaneMove}
    (hT : Sub [13, 16, 0x4010, 0x7002, 0x9000, 0x9001, 0x9010] T) (h : Keeps T s u) : Keeps T s (switchLanes u port moves) := by
  unfold switchLanes
  repeat' first
    | with_reducible assumption
    | exact Sub.of rfl hT
    | with_reducible apply each_keeps
    | with_reducible apply wr_keeps
    | with_reducible apply laneOut_keeps
    | with_reducible refine Keeps.ite ?_ ?_
    | (extract_lets +onlyGivenNames x; first | refine (fun hx => ?_ : Keeps _ _ x → _) ?_ | refine (fun hx => ?_ : KeepsP _ _ x → _) ?_ | skip)
    | with_reducible intro _

theorem ctlSend_keeps {T : List Nat} {s u : State} {port : ℕ} {c : LinkCtl}
    (hT : Sub [9] T) (h : Keeps T s u) : Keeps T s (ctlSend u port c) := by
  unfold ctlSend
  repeat' first
    | with_reducible assumption
    | exact Sub.of rfl hT
    | with_reducible apply modPort_keeps

theorem tellDepth_keeps {T : List Nat} {s u : State}
    (hT : Sub [9] T) (h : Keeps T s u) : Keeps T s (tellDepth u) := by
  unfold tellDepth
  repeat' first
    | with_reducible assumption
    | exact Sub.of rfl hT
    | with_reducible apply each_keeps
    | with_reducible apply ctlSend_keeps
    | with_reducible refine Keeps.ite ?_ ?_
    | with_reducible intro _

theorem outClr_keeps {T : List Nat} {s u : State} {i : ℕ}
    (hT : Sub [9] T) (h : Keeps T s u) : KeepsP T s (outClr u i) := by
  unfold outClr
  repeat' first
    | with_reducible assumption
    | exact Sub.of rfl hT
    | with_reducible apply done_keeps
    | with_reducible apply modPort_keeps

theorem holdover_keeps {T : List Nat} {s u : State} {last : ℕ}
    (hT : Sub [16, 0x4020, 0x7002] T) (h : Keeps T s u) : Keeps T s (holdover u last) := by
  unfold holdover
  repeat' first
    | with_reducible assumption
    | exact Sub.of rfl hT
    | with_reducible apply record_keeps
    | with_reducible apply wr_keeps

theorem clockLoop_keeps {T : List Nat} {s u : State} {port : ℕ} {d : ℕ}
    (hT : Sub [16, 0x4020, 0x7002] T) (h : Keeps T s u) : Keeps T s (clockLoop u port d) := by
  unfold clockLoop
  repeat' first
    | with_reducible assumption
    | exact Sub.of rfl hT
    | with_reducible apply holdover_keeps
    | with_reducible apply record_keeps

theorem followPort_keeps {T : List Nat} {s u : State} {port : ℕ}
    (hT : Sub [9, 11, 16, 0x4020, 0x7002] T) (h : Keeps T s u) : Keeps T s (followPort u port) := by
  unfold followPort
  repeat' first
    | with_reducible assumption
    | exact Sub.of rfl hT
    | with_reducible apply modRouter_keeps
    | with_reducible apply clockLoop_keeps
    | with_reducible apply tellDepth_keeps
    | with_reducible apply wr_keeps
    | with_reducible refine Keeps.ite ?_ ?_

theorem clkUp_keeps {T : List Nat} {s u : State} {v : ℕ}
    (hT : Sub [9, 11, 16, 0x4020, 0x7002] T) (h : Keeps T s u) : KeepsP T s (clkUp u v) := by
  unfold clkUp
  repeat' first
    | with_reducible assumption
    | exact Sub.of rfl hT
    | with_reducible apply wr_keeps
    | with_reducible apply done_keeps
    | with_reducible apply tellDepth_keeps
    | with_reducible apply modRouter_keeps
    | with_reducible apply followPort_keeps
    | with_reducible refine Keeps.ite ?_ ?_
    | with_reducible refine KeepsP.ite ?_ ?_

theorem execFabClkUp_keeps {u : State} {who : Who} {value : ℕ} :
    OutKeeps [9, 11, 16, 20, 0x4020, 0x7002] u (execFabClkUp who value u) := by
  have h := Keeps.refl [9, 11, 16, 20, 0x4020, 0x7002] u
  have hT := Sub.rfl (a := [9, 11, 16, 20, 0x4020, 0x7002])
  unfold execFabClkUp
  repeat' first
    | with_reducible assumption
    | exact Sub.of rfl hT
    | with_reducible apply guard_keeps
    | with_reducible apply clkUp_keeps
    | with_reducible apply OutKeeps.next
    | with_reducible refine Keeps.ite ?_ ?_
    | with_reducible refine KeepsP.ite ?_ ?_
    | with_reducible apply KeepsP.fst
    | with_reducible intro _

theorem laneFaulty_keeps {T : List Nat} {s u : State} {port : ℕ} {l : ℕ} {cause : ℕ}
    (hT : Sub [16, 0x4010, 0x7002] T) (h : Keeps T s u) : Keeps T s (laneFaulty u port l cause) := by
  unfold laneFaulty
  repeat' first
    | with_reducible assumption
    | exact Sub.of rfl hT
    | with_reducible apply record_keeps
    | with_reducible apply wr_keeps

theorem countHeld_keeps {T : List Nat} {s u : State} {port : ℕ}
    (hT : Sub [0x4110] T) (h : Keeps T s u) : Keeps T s (countHeld u port) := by
  unfold countHeld
  repeat' first
    | with_reducible assumption
    | exact Sub.of rfl hT
    | with_reducible apply each_keeps
    | with_reducible apply wr_keeps
    | with_reducible refine Keeps.ite ?_ ?_
    | (extract_lets +onlyGivenNames x; first | refine (fun hx => ?_ : Keeps _ _ x → _) ?_ | refine (fun hx => ?_ : KeepsP _ _ x → _) ?_ | skip)
    | with_reducible intro _

theorem leaveUp_keeps {T : List Nat} {s u : State} {port : ℕ}
    (hT : Sub [4, 6, 9, 16, 0x4110, 0x4140, 0x5804, 0x7002] T) (h : Keeps T s u) : Keeps T s (leaveUp u port) := by
  unfold leaveUp
  repeat' first
    | with_reducible assumption
    | exact Sub.of rfl hT
    | with_reducible apply modPort_keeps
    | with_reducible apply masterLost_keeps
    | with_reducible apply countHeld_keeps
    | with_reducible apply each_keeps
    | with_reducible apply dropPkt_keeps
    | with_reducible apply foldl_keeps
    | with_reducible refine Keeps.ite ?_ ?_
    | (extract_lets +onlyGivenNames x; first | refine (fun hx => ?_ : Keeps _ _ x → _) ?_ | refine (fun hx => ?_ : KeepsP _ _ x → _) ?_ | skip)
    | with_reducible intro _

theorem goDown_keeps {T : List Nat} {s u : State} {port : ℕ} {cause : ℕ}
    (hT : Sub [4, 6, 9, 16, 0x4000, 0x4110, 0x4140, 0x5804, 0x7002] T) (h : Keeps T s u) : Keeps T s (goDown u port cause) := by
  unfold goDown
  repeat' first
    | with_reducible assumption
    | exact Sub.of rfl hT
    | with_reducible apply modPort_keeps
    | with_reducible apply leaveUp_keeps
    | with_reducible apply record_keeps
    | with_reducible apply wr_keeps

theorem startTrain_keeps {T : List Nat} {s u : State} {port : ℕ} {k : TrainKind}
    (hT : Sub [4, 6, 9, 11, 13, 16, 0x4000, 0x4001, 0x4110, 0x4140, 0x4400, 0x5804, 0x7002, 0x9000, 0x9001, 0x9010] T) (h : Keeps T s u) : Keeps T s (startTrain u port k) := by
  unfold startTrain
  repeat' first
    | with_reducible assumption
    | exact Sub.of rfl hT
    | with_reducible apply goDown_keeps
    | with_reducible apply wr_keeps
    | with_reducible apply modPort_keeps
    | with_reducible apply leaveUp_keeps
    | with_reducible apply modRouter_keeps
    | with_reducible apply bumpSat_keeps
    | with_reducible apply penDecay_keeps
    | with_reducible refine Keeps.ite ?_ ?_

theorem lanesLeave_keeps {T : List Nat} {s u : State} {port : ℕ} {ls : List ℕ}
    (hT : Sub [4, 6, 9, 11, 13, 16, 0x4000, 0x4001, 0x4010, 0x4110, 0x4140, 0x4400, 0x5804, 0x7002, 0x9000, 0x9001, 0x9010] T) (h : Keeps T s u) : Keeps T s (lanesLeave u port ls) := by
  unfold lanesLeave
  repeat' first
    | with_reducible assumption
    | exact Sub.of rfl hT
    | with_reducible apply each_keeps
    | with_reducible apply laneOut_keeps
    | with_reducible apply startTrain_keeps
    | with_reducible apply ctlSend_keeps
    | with_reducible apply modPort_keeps
    | with_reducible refine Keeps.ite ?_ ?_
    | (extract_lets +onlyGivenNames x; first | refine (fun hx => ?_ : Keeps _ _ x → _) ?_ | refine (fun hx => ?_ : KeepsP _ _ x → _) ?_ | skip)
    | with_reducible intro _
    | split

theorem laneFaults_keeps {T : List Nat} {s u : State} {port : ℕ} {cause : ℕ} {ls : List ℕ}
    (hT : Sub [4, 6, 9, 11, 13, 16, 0x4000, 0x4001, 0x4010, 0x4110, 0x4140, 0x4400, 0x5804, 0x7002, 0x9000, 0x9001, 0x9010] T) (h : Keeps T s u) : Keeps T s (laneFaults u port cause ls) := by
  unfold laneFaults
  repeat' first
    | with_reducible assumption
    | exact Sub.of rfl hT
    | with_reducible apply each_keeps
    | with_reducible apply laneFaulty_keeps
    | with_reducible apply modPort_keeps
    | with_reducible apply lanesLeave_keeps
    | with_reducible refine Keeps.ite ?_ ?_
    | (extract_lets +onlyGivenNames x; first | refine (fun hx => ?_ : Keeps _ _ x → _) ?_ | refine (fun hx => ?_ : KeepsP _ _ x → _) ?_ | skip)
    | with_reducible intro _

theorem execLaneWindowEnd_keeps {u : State} {port : ℕ} {counts : List (ℕ × ℕ)} :
    OutKeeps [4, 6, 9, 11, 13, 16, 0x4000, 0x4001, 0x4010, 0x4110, 0x4140, 0x4400, 0x5804, 0x7002, 0x9000, 0x9001, 0x9010] u (execLaneWindowEnd port counts u) := by
  have h := Keeps.refl [4, 6, 9, 11, 13, 16, 0x4000, 0x4001, 0x4010, 0x4110, 0x4140, 0x4400, 0x5804, 0x7002, 0x9000, 0x9001, 0x9010] u
  have hT := Sub.rfl (a := [4, 6, 9, 11, 13, 16, 0x4000, 0x4001, 0x4010, 0x4110, 0x4140, 0x4400, 0x5804, 0x7002, 0x9000, 0x9001, 0x9010])
  unfold execLaneWindowEnd
  repeat' first
    | with_reducible assumption
    | exact Sub.of rfl hT
    | with_reducible apply each_keeps
    | with_reducible apply wr_keeps
    | with_reducible apply bumpSat_keeps
    | with_reducible apply laneFaults_keeps
    | with_reducible apply OutKeeps.next
    | with_reducible refine Keeps.ite ?_ ?_
    | (extract_lets +onlyGivenNames x; first | refine (fun hx => ?_ : Keeps _ _ x → _) ?_ | refine (fun hx => ?_ : KeepsP _ _ x → _) ?_ | skip)
    | with_reducible intro _

theorem switchClock_keeps {T : List Nat} {s u : State} {old : ℕ} {new : ℕ}
    (hT : Sub [9, 11, 16, 0x4020, 0x7002] T) (h : Keeps T s u) : Keeps T s (switchClock u old new) := by
  unfold switchClock
  repeat' first
    | with_reducible assumption
    | exact Sub.of rfl hT
    | with_reducible apply followPort_keeps
    | with_reducible apply record_keeps
    | with_reducible refine Keeps.ite ?_ ?_

theorem clockBack_keeps {T : List Nat} {s u : State} {port : ℕ}
    (hT : Sub [9, 11, 16, 0x4020, 0x7002] T) (h : Keeps T s u) : Keeps T s (clockBack u port) := by
  unfold clockBack
  repeat' first
    | with_reducible assumption
    | exact Sub.of rfl hT
    | with_reducible apply switchClock_keeps
    | with_reducible refine Keeps.ite ?_ ?_

theorem upstreamLoss_keeps {T : List Nat} {s u : State}
    (hT : Sub [9, 11, 16, 0x4020, 0x7002] T) (h : Keeps T s u) : Keeps T s (upstreamLoss u) := by
  unfold upstreamLoss
  repeat' first
    | with_reducible assumption
    | exact Sub.of rfl hT
    | with_reducible apply switchClock_keeps
    | with_reducible apply holdover_keeps
    | with_reducible refine Keeps.ite ?_ ?_
    | (extract_lets +onlyGivenNames x; first | refine (fun hx => ?_ : Keeps _ _ x → _) ?_ | refine (fun hx => ?_ : KeepsP _ _ x → _) ?_ | skip)
    | with_reducible intro _
    | split

theorem spareReqRx_keeps {T : List Nat} {s u : State} {port : ℕ} {moves : List LaneMove}
    (hT : Sub [9] T) (h : Keeps T s u) : Keeps T s (spareReqRx u port moves) := by
  unfold spareReqRx
  repeat' first
    | with_reducible assumption
    | exact Sub.of rfl hT
    | with_reducible apply modPort_keeps
    | with_reducible refine Keeps.ite ?_ ?_

theorem spareOfferRx_keeps {T : List Nat} {s u : State} {port : ℕ} {o : Offer}
    (hT : Sub [4, 6, 9, 11, 13, 16, 0x4000, 0x4001, 0x4010, 0x4110, 0x4140, 0x4400, 0x5804, 0x7002, 0x9000, 0x9001, 0x9010] T) (h : Keeps T s u) : Keeps T s (spareOfferRx u port o) := by
  unfold spareOfferRx
  repeat' first
    | with_reducible assumption
    | exact Sub.of rfl hT
    | with_reducible apply lanesLeave_keeps
    | with_reducible apply laneFaulty_keeps
    | with_reducible refine Keeps.ite ?_ ?_

theorem execSpareOffer_keeps {u : State} {port : ℕ} {o : Offer} :
    OutKeeps [4, 6, 9, 11, 13, 16, 0x4000, 0x4001, 0x4010, 0x4110, 0x4140, 0x4400, 0x5804, 0x7002, 0x9000, 0x9001, 0x9010] u (execSpareOffer port o u) := by
  have h := Keeps.refl [4, 6, 9, 11, 13, 16, 0x4000, 0x4001, 0x4010, 0x4110, 0x4140, 0x4400, 0x5804, 0x7002, 0x9000, 0x9001, 0x9010] u
  have hT := Sub.rfl (a := [4, 6, 9, 11, 13, 16, 0x4000, 0x4001, 0x4010, 0x4110, 0x4140, 0x4400, 0x5804, 0x7002, 0x9000, 0x9001, 0x9010])
  unfold execSpareOffer
  repeat' first
    | with_reducible assumption
    | exact Sub.of rfl hT
    | with_reducible apply spareOfferRx_keeps
    | with_reducible apply OutKeeps.next

theorem execFabLaneOutClr_keeps {u : State} {who : Who} {inst : ℕ} {value : ℕ} :
    OutKeeps [9, 20, 0x4010] u (execFabLaneOutClr who inst value u) := by
  have h := Keeps.refl [9, 20, 0x4010] u
  have hT := Sub.rfl (a := [9, 20, 0x4010])
  unfold execFabLaneOutClr
  repeat' first
    | with_reducible assumption
    | exact Sub.of rfl hT
    | with_reducible apply guard_keeps
    | with_reducible apply outClr_keeps
    | with_reducible apply OutKeeps.next
    | with_reducible refine Keeps.ite ?_ ?_
    | with_reducible refine KeepsP.ite ?_ ?_
    | with_reducible apply KeepsP.fst
    | with_reducible intro _

theorem noteWidth_keeps {T : List Nat} {s u : State} {port : ℕ} {tx : Bool} {w : ℕ}
    (hT : Sub [13, 16, 0x4000, 0x7002, 0x9000, 0x9001] T) (h : Keeps T s u) : Keeps T s (noteWidth u port tx w) := by
  unfold noteWidth
  repeat' first
    | with_reducible assumption
    | exact Sub.of rfl hT
    | with_reducible apply wr_keeps
    | with_reducible apply penOnce_keeps
    | with_reducible apply record_keeps
    | with_reducible apply penUnfix_keeps
    | with_reducible refine Keeps.ite ?_ ?_
    | (extract_lets +onlyGivenNames x; first | refine (fun hx => ?_ : Keeps _ _ x → _) ?_ | refine (fun hx => ?_ : KeepsP _ _ x → _) ?_ | skip)
    | with_reducible intro _
    | split

theorem setTxLanes_keeps {T : List Nat} {s u : State} {port : ℕ} {given : List ℕ}
    (hT : Sub [9, 13, 16, 0x4000, 0x7002, 0x9000, 0x9001] T) (h : Keeps T s u) : Keeps T s (setTxLanes u port given) := by
  unfold setTxLanes
  repeat' first
    | with_reducible assumption
    | exact Sub.of rfl hT
    | with_reducible apply noteWidth_keeps
    | with_reducible apply modPort_keeps

theorem setLanes_keeps {T : List Nat} {s u : State} {port : ℕ} {w : ℕ} {ls : List ℕ}
    (hT : Sub [0x4010] T) (h : Keeps T s u) : Keeps T s (setLanes u port w ls) := by
  unfold setLanes
  repeat' first
    | with_reducible assumption
    | exact Sub.of rfl hT
    | with_reducible apply each_keeps
    | with_reducible apply wr_keeps
    | with_reducible refine Keeps.ite ?_ ?_
    | (extract_lets +onlyGivenNames x; first | refine (fun hx => ?_ : Keeps _ _ x → _) ?_ | refine (fun hx => ?_ : KeepsP _ _ x → _) ?_ | skip)
    | with_reducible intro _

theorem widthReduce_keeps {T : List Nat} {s u : State} {port : ℕ} {tx : Bool} {pass : List ℕ}
    (hT : Sub [4, 6, 9, 13, 16, 0x4000, 0x4010, 0x4110, 0x4140, 0x5804, 0x7002, 0x9000, 0x9001, 0x9010] T) (h : Keeps T s u) : Keeps T s (widthReduce u port tx pass) := by
  unfold widthReduce
  repeat' first
    | with_reducible assumption
    | exact Sub.of rfl hT
    | with_reducible apply goDown_keeps
    | with_reducible apply setTxLanes_keeps
    | with_reducible apply each_keeps
    | with_reducible apply laneOut_keeps
    | with_reducible apply laneFaulty_keeps
    | with_reducible apply noteWidth_keeps
    | with_reducible apply setLanes_keeps
    | with_reducible refine Keeps.ite ?_ ?_
    | (extract_lets +onlyGivenNames x; first | refine (fun hx => ?_ : Keeps _ _ x → _) ?_ | refine (fun hx => ?_ : KeepsP _ _ x → _) ?_ | skip)
    | with_reducible intro _

theorem execWidthReduction_keeps {u : State} {port : ℕ} {tx : Bool} {pass : List ℕ} :
    OutKeeps [4, 6, 9, 13, 16, 0x4000, 0x4010, 0x4110, 0x4140, 0x5804, 0x7002, 0x9000, 0x9001, 0x9010] u (execWidthReduction port tx pass u) := by
  have h := Keeps.refl [4, 6, 9, 13, 16, 0x4000, 0x4010, 0x4110, 0x4140, 0x5804, 0x7002, 0x9000, 0x9001, 0x9010] u
  have hT := Sub.rfl (a := [4, 6, 9, 13, 16, 0x4000, 0x4010, 0x4110, 0x4140, 0x5804, 0x7002, 0x9000, 0x9001, 0x9010])
  unfold execWidthReduction
  repeat' first
    | with_reducible assumption
    | exact Sub.of rfl hT
    | with_reducible apply widthReduce_keeps
    | with_reducible apply OutKeeps.next

theorem execPortDownRetry_keeps {u : State} {port : ℕ} :
    OutKeeps [4, 6, 9, 11, 13, 16, 0x4000, 0x4001, 0x4110, 0x4140, 0x4400, 0x5804, 0x7002, 0x9000, 0x9001, 0x9010] u (execPortDownRetry port u) := by
  have h := Keeps.refl [4, 6, 9, 11, 13, 16, 0x4000, 0x4001, 0x4110, 0x4140, 0x4400, 0x5804, 0x7002, 0x9000, 0x9001, 0x9010] u
  have hT := Sub.rfl (a := [4, 6, 9, 11, 13, 16, 0x4000, 0x4001, 0x4110, 0x4140, 0x4400, 0x5804, 0x7002, 0x9000, 0x9001, 0x9010])
  unfold execPortDownRetry
  repeat' first
    | with_reducible assumption
    | exact Sub.of rfl hT
    | with_reducible apply startTrain_keeps
    | with_reducible apply modPort_keeps
    | with_reducible apply OutKeeps.next
    | with_reducible refine Keeps.ite ?_ ?_

theorem hoursWrite_keeps {T : List Nat} {s u : State} {m : ℕ}
    (hT : Sub [10, 20] T) (h : Keeps T s u) : Keeps T s (hoursWrite u m) := by
  unfold hoursWrite
  repeat' first
    | with_reducible assumption
    | exact Sub.of rfl hT
    | with_reducible apply emit_keeps
    | with_reducible apply modLaser_keeps
    | with_reducible refine Keeps.ite ?_ ?_

theorem portAdmin_keeps {T : List Nat} {s u : State} {port : ℕ} {v : ℕ}
    (hT : Sub [4, 6, 9, 10, 11, 13, 16, 20, 0x4000, 0x4001, 0x4110, 0x4140, 0x4400, 0x5804, 0x7002, 0x9000, 0x9001, 0x9010] T) (h : Keeps T s u) : KeepsP T s (portAdmin u port v) := by
  unfold portAdmin
  repeat' first
    | with_reducible assumption
    | exact Sub.of rfl hT
    | with_reducible apply wr_keeps
    | with_reducible apply done_keeps
    | with_reducible apply modPort_keeps
    | with_reducible apply leaveUp_keeps
    | with_reducible apply hoursWrite_keeps
    | with_reducible apply startTrain_keeps
    | with_reducible refine Keeps.ite ?_ ?_
    | with_reducible refine KeepsP.ite ?_ ?_

theorem execLossOfLock_keeps {u : State} {port : ℕ} {lanes : List ℕ} :
    OutKeeps [4, 6, 9, 11, 13, 16, 0x4000, 0x4001, 0x4010, 0x4110, 0x4140, 0x4400, 0x5804, 0x7002, 0x9000, 0x9001, 0x9010] u (execLossOfLock port lanes u) := by
  have h := Keeps.refl [4, 6, 9, 11, 13, 16, 0x4000, 0x4001, 0x4010, 0x4110, 0x4140, 0x4400, 0x5804, 0x7002, 0x9000, 0x9001, 0x9010] u
  have hT := Sub.rfl (a := [4, 6, 9, 11, 13, 16, 0x4000, 0x4001, 0x4010, 0x4110, 0x4140, 0x4400, 0x5804, 0x7002, 0x9000, 0x9001, 0x9010])
  unfold execLossOfLock
  repeat' first
    | with_reducible assumption
    | exact Sub.of rfl hT
    | with_reducible apply goDown_keeps
    | with_reducible apply laneFaults_keeps
    | with_reducible apply OutKeeps.next
    | with_reducible refine Keeps.ite ?_ ?_

theorem execClockUpstreamLoss_keeps {u : State} {left : Bool} :
    OutKeeps [9, 11, 16, 0x4020, 0x7002] u (execClockUpstreamLoss left u) := by
  have h := Keeps.refl [9, 11, 16, 0x4020, 0x7002] u
  have hT := Sub.rfl (a := [9, 11, 16, 0x4020, 0x7002])
  unfold execClockUpstreamLoss
  repeat' first
    | with_reducible assumption
    | exact Sub.of rfl hT
    | with_reducible apply upstreamLoss_keeps
    | with_reducible apply OutKeeps.next
    | with_reducible refine Keeps.ite ?_ ?_
    | with_reducible intro _
    | split

theorem fullRetrain_keeps {T : List Nat} {s u : State} {port : ℕ}
    (hT : Sub [4, 6, 9, 11, 13, 16, 0x4000, 0x4001, 0x4110, 0x4140, 0x4400, 0x5804, 0x7002, 0x9000, 0x9001, 0x9010] T) (h : Keeps T s u) : KeepsP T s (fullRetrain u port) := by
  unfold fullRetrain
  repeat' first
    | with_reducible assumption
    | exact Sub.of rfl hT
    | with_reducible apply done_keeps
    | with_reducible apply modPort_keeps
    | with_reducible apply startTrain_keeps
    | with_reducible apply deny_keeps
    | with_reducible refine Keeps.ite ?_ ?_
    | with_reducible refine KeepsP.ite ?_ ?_
    | with_reducible apply KeepsP.fst
    | (extract_lets +onlyGivenNames x; first | refine (fun hx => ?_ : Keeps _ _ x → _) ?_ | refine (fun hx => ?_ : KeepsP _ _ x → _) ?_ | skip)
    | with_reducible intro _
    | split

theorem clearPortCounters_keeps {T : List Nat} {s u : State} {port : ℕ}
    (hT : Sub [31] T) (h : Keeps T s u) : Keeps T s (clearPortCounters u port) := by
  unfold clearPortCounters
  repeat' first
    | with_reducible assumption
    | exact Sub.of rfl hT
    | with_reducible apply odClear_keeps

theorem execPortClearCounters_keeps {u : State} {who : Who} {port : ℕ} :
    OutKeeps [20, 31] u (execPortClearCounters who port u) := by
  have h := Keeps.refl [20, 31] u
  have hT := Sub.rfl (a := [20, 31])
  unfold execPortClearCounters
  repeat' first
    | with_reducible assumption
    | exact Sub.of rfl hT
    | with_reducible apply guard_keeps
    | with_reducible apply done_keeps
    | with_reducible apply clearPortCounters_keeps
    | with_reducible apply OutKeeps.next
    | with_reducible refine Keeps.ite ?_ ?_
    | with_reducible refine KeepsP.ite ?_ ?_
    | with_reducible apply KeepsP.fst
    | exact Sub.reg _ hT rfl
    | with_reducible intro _

theorem afterFast_keeps {T : List Nat} {s u : State} {port : ℕ}
    (hT : Sub [4, 6, 9, 11, 13, 16, 0x4000, 0x4001, 0x4010, 0x4110, 0x4140, 0x4400, 0x5804, 0x7002, 0x9000, 0x9001, 0x9010] T) (h : Keeps T s u) : Keeps T s (afterFast u port) := by
  unfold afterFast
  repeat' first
    | with_reducible assumption
    | exact Sub.of rfl hT
    | with_reducible apply modPort_keeps
    | with_reducible apply lanesLeave_keeps
    | with_reducible apply startTrain_keeps
    | with_reducible refine Keeps.ite ?_ ?_

theorem spareGoRx_keeps {T : List Nat} {s u : State} {port : ℕ} {moves : List LaneMove}
    (hT : Sub [9, 13, 16, 0x4010, 0x7002, 0x9000, 0x9001, 0x9010] T) (h : Keeps T s u) : Keeps T s (spareGoRx u port moves) := by
  unfold spareGoRx
  repeat' first
    | with_reducible assumption
    | exact Sub.of rfl hT
    | with_reducible apply modPort_keeps
    | with_reducible apply switchLanes_keeps
    | with_reducible refine Keeps.ite ?_ ?_
    | with_reducible intro _
    | split

theorem execSpareGo_keeps {u : State} {port : ℕ} {moves : List LaneMove} :
    OutKeeps [9, 13, 16, 0x4010, 0x7002, 0x9000, 0x9001, 0x9010] u (execSpareGo port moves u) := by
  have h := Keeps.refl [9, 13, 16, 0x4010, 0x7002, 0x9000, 0x9001, 0x9010] u
  have hT := Sub.rfl (a := [9, 13, 16, 0x4010, 0x7002, 0x9000, 0x9001, 0x9010])
  unfold execSpareGo
  repeat' first
    | with_reducible assumption
    | exact Sub.of rfl hT
    | with_reducible apply spareGoRx_keeps
    | with_reducible apply OutKeeps.next

theorem execFabPortAdmin_keeps {u : State} {who : Who} {port : ℕ} {value : ℕ} :
    OutKeeps [4, 6, 9, 10, 11, 13, 16, 20, 0x4000, 0x4001, 0x4110, 0x4140, 0x4400, 0x5804, 0x7002, 0x9000, 0x9001, 0x9010] u (execFabPortAdmin who port value u) := by
  have h := Keeps.refl [4, 6, 9, 10, 11, 13, 16, 20, 0x4000, 0x4001, 0x4110, 0x4140, 0x4400, 0x5804, 0x7002, 0x9000, 0x9001, 0x9010] u
  have hT := Sub.rfl (a := [4, 6, 9, 10, 11, 13, 16, 20, 0x4000, 0x4001, 0x4110, 0x4140, 0x4400, 0x5804, 0x7002, 0x9000, 0x9001, 0x9010])
  unfold execFabPortAdmin
  repeat' first
    | with_reducible assumption
    | exact Sub.of rfl hT
    | with_reducible apply guard_keeps
    | with_reducible apply portAdmin_keeps
    | with_reducible apply OutKeeps.next
    | with_reducible refine Keeps.ite ?_ ?_
    | with_reducible refine KeepsP.ite ?_ ?_
    | with_reducible apply KeepsP.fst
    | with_reducible intro _

theorem execClockLockAcquired_keeps {u : State} :
    OutKeeps [0x4020] u (execClockLockAcquired u) := by
  have h := Keeps.refl [0x4020] u
  have hT := Sub.rfl (a := [0x4020])
  unfold execClockLockAcquired
  repeat' first
    | with_reducible assumption
    | exact Sub.of rfl hT
    | with_reducible apply wr_keeps
    | with_reducible apply OutKeeps.next
    | with_reducible refine Keeps.ite ?_ ?_

theorem leaveOff_keeps {T : List Nat} {s u : State} {port : ℕ}
    (hT : Sub [4, 6, 9, 11, 13, 16, 0x4000, 0x4001, 0x4110, 0x4140, 0x4400, 0x5804, 0x7002, 0x9000, 0x9001, 0x9010] T) (h : Keeps T s u) : Keeps T s (leaveOff u port) := by
  unfold leaveOff
  repeat' first
    | with_reducible assumption
    | exact Sub.of rfl hT
    | with_reducible apply startTrain_keeps
    | with_reducible apply wr_keeps
    | with_reducible refine Keeps.ite ?_ ?_

theorem spareAtStop_keeps {T : List Nat} {s u : State}
    (hT : Sub [4, 6, 9, 11, 13, 16, 0x4000, 0x4001, 0x4010, 0x4110, 0x4140, 0x4400, 0x5804, 0x7002, 0x9000, 0x9001, 0x9010] T) (h : Keeps T s u) : Keeps T s (spareAtStop u) := by
  unfold spareAtStop
  repeat' first
    | with_reducible assumption
    | exact Sub.of rfl hT
    | with_reducible apply each_keeps
    | with_reducible apply modPort_keeps
    | with_reducible apply ctlSend_keeps
    | with_reducible apply lanesLeave_keeps
    | with_reducible refine Keeps.ite ?_ ?_
    | (extract_lets +onlyGivenNames x; first | refine (fun hx => ?_ : Keeps _ _ x → _) ?_ | refine (fun hx => ?_ : KeepsP _ _ x → _) ?_ | skip)
    | with_reducible intro _

theorem execTrainingAttemptFail_keeps {u : State} {port : ℕ} {stage : ℕ} {lane : ℕ} {noSignal : Bool} :
    OutKeeps [4, 6, 9, 16, 0x4000, 0x4110, 0x4140, 0x5804, 0x7002] u (execTrainingAttemptFail port stage lane noSignal u) := by
  have h := Keeps.refl [4, 6, 9, 16, 0x4000, 0x4110, 0x4140, 0x5804, 0x7002] u
  have hT := Sub.rfl (a := [4, 6, 9, 16, 0x4000, 0x4110, 0x4140, 0x5804, 0x7002])
  unfold execTrainingAttemptFail
  repeat' first
    | with_reducible assumption
    | exact Sub.of rfl hT
    | with_reducible apply modPort_keeps
    | with_reducible apply record_keeps
    | with_reducible apply goDown_keeps
    | with_reducible apply OutKeeps.next
    | with_reducible refine Keeps.ite ?_ ?_
    | (extract_lets +onlyGivenNames x; first | refine (fun hx => ?_ : Keeps _ _ x → _) ?_ | refine (fun hx => ?_ : KeepsP _ _ x → _) ?_ | skip)
    | with_reducible intro _
    | split

theorem depthRx_keeps {T : List Nat} {s u : State} {port : ℕ} {d : ℕ}
    (hT : Sub [9, 16, 0x4020, 0x7002] T) (h : Keeps T s u) : Keeps T s (depthRx u port d) := by
  unfold depthRx
  repeat' first
    | with_reducible assumption
    | exact Sub.of rfl hT
    | with_reducible apply modPort_keeps
    | with_reducible apply clockLoop_keeps
    | with_reducible apply tellDepth_keeps
    | with_reducible apply wr_keeps
    | with_reducible refine Keeps.ite ?_ ?_

theorem execPortFullRetrain_keeps {u : State} {who : Who} {port : ℕ} :
    OutKeeps [4, 6, 9, 11, 13, 16, 20, 0x4000, 0x4001, 0x4110, 0x4140, 0x4400, 0x5804, 0x7002, 0x9000, 0x9001, 0x9010] u (execPortFullRetrain who port u) := by
  have h := Keeps.refl [4, 6, 9, 11, 13, 16, 20, 0x4000, 0x4001, 0x4110, 0x4140, 0x4400, 0x5804, 0x7002, 0x9000, 0x9001, 0x9010] u
  have hT := Sub.rfl (a := [4, 6, 9, 11, 13, 16, 20, 0x4000, 0x4001, 0x4110, 0x4140, 0x4400, 0x5804, 0x7002, 0x9000, 0x9001, 0x9010])
  unfold execPortFullRetrain
  repeat' first
    | with_reducible assumption
    | exact Sub.of rfl hT
    | with_reducible apply guard_keeps
    | with_reducible apply fullRetrain_keeps
    | with_reducible apply OutKeeps.next
    | with_reducible refine Keeps.ite ?_ ?_
    | with_reducible refine KeepsP.ite ?_ ?_
    | with_reducible apply KeepsP.fst
    | with_reducible intro _

theorem execSpareReq_keeps {u : State} {port : ℕ} {moves : List LaneMove} :
    OutKeeps [9] u (execSpareReq port moves u) := by
  have h := Keeps.refl [9] u
  have hT := Sub.rfl (a := [9])
  unfold execSpareReq
  repeat' first
    | with_reducible assumption
    | exact Sub.of rfl hT
    | with_reducible apply spareReqRx_keeps
    | with_reducible apply OutKeeps.next

end Sys2Proof.Machine
end

