-- ==== Sys2Proof/Laws/KeepsSeal.lean ====
section
/-! SUPPORT. What the functions of `Machine/Seal.lean` keep. -/

namespace Sys2Proof.Machine

open Sys2Proof

theorem giveUp_keeps {T : List Nat} {s u : State} {p : ℕ} {from_ : ℕ}
    (hT : Sub [6, 7] T) (h : Keeps T s u) : Keeps T s (giveUp u p from_) := by
  unfold giveUp
  repeat' first
    | with_reducible assumption
    | exact Sub.of rfl hT
    | with_reducible apply modPart_keeps
    | with_reducible apply setBuddies_keeps

theorem toParent_keeps {T : List Nat} {s u : State} {p : ℕ} {b : ClvBody}
    (hT : Sub [6, 9, 16, 20, 0x4110, 0x4140, 0x7002] T) (h : Keeps T s u) : Keeps T s (toParent u p b) := by
  unfold toParent
  repeat' first
    | with_reducible assumption
    | exact Sub.of rfl hT
    | with_reducible apply clvRank_keeps
    | with_reducible refine Keeps.ite ?_ ?_
    | with_reducible intro _
    | split

theorem stopBlocks_keeps {T : List Nat} {s u : State} {p : ℕ}
    (hT : Sub [5] T) (h : Keeps T s u) : Keeps T s (stopBlocks u p) := by
  unfold stopBlocks
  repeat' first
    | with_reducible assumption
    | exact Sub.of rfl hT
    | with_reducible apply each_keeps
    | with_reducible apply modBlock_keeps
    | with_reducible refine Keeps.ite ?_ ?_
    | with_reducible intro _

theorem jnlZero_keeps {T : List Nat} {s u : State} {p : ℕ} {from_ : ℕ}
    (hT : Sub [2, 3, 6, 0x6101] T) (h : Keeps T s u) : Keeps T s (jnlZero u p from_) := by
  unfold jnlZero
  repeat' first
    | with_reducible assumption
    | exact Sub.of rfl hT
    | with_reducible apply each_keeps
    | with_reducible apply clear_keeps
    | with_reducible apply jnlCount_keeps
    | with_reducible apply modPart_keeps
    | with_reducible refine Keeps.ite ?_ ?_
    | (extract_lets +onlyGivenNames x; first | refine (fun hx => ?_ : Keeps _ _ x → _) ?_ | refine (fun hx => ?_ : KeepsP _ _ x → _) ?_ | skip)
    | with_reducible intro _

theorem runEnd_keeps {T : List Nat} {s u : State} {p : ℕ} {state : ℕ} {status : ℕ} {reason : ℕ}
    (hT : Sub [5, 6, 12, 0x3000] T) (h : Keeps T s u) : Keeps T s (runEnd u p state status reason) := by
  unfold runEnd
  repeat' first
    | with_reducible assumption
    | exact Sub.of rfl hT
    | with_reducible apply modPart_keeps
    | with_reducible apply wr_keeps
    | with_reducible apply stopBlocks_keeps
    | with_reducible apply moverDone_keeps
    | with_reducible refine Keeps.ite ?_ ?_
    | (extract_lets +onlyGivenNames x; first | refine (fun hx => ?_ : Keeps _ _ x → _) ?_ | refine (fun hx => ?_ : KeepsP _ _ x → _) ?_ | skip)
    | with_reducible intro _
    | split

theorem restart_keeps {T : List Nat} {s u : State} {p : ℕ} {cause : ℕ}
    (hT : Sub [2, 3, 5, 6, 12, 16, 0x3000, 0x3021, 0x6101, 0x7002, 0x8200] T) (h : Keeps T s u) : Keeps T s (restart u p cause) := by
  unfold restart
  repeat' first
    | with_reducible assumption
    | exact Sub.of rfl hT
    | with_reducible apply record_keeps
    | with_reducible apply transfersLanded_keeps
    | with_reducible apply modPart_keeps
    | with_reducible apply jnlZero_keeps
    | with_reducible apply runEnd_keeps

theorem rollBegin_keeps {T : List Nat} {s u : State} {p : ℕ} {from_ : ℕ} {halt : Bool}
    (hT : Sub [2, 3, 5, 6, 7, 11, 12, 16, 0x3000, 0x3021, 0x6101, 0x7002, 0x8200] T) (h : Keeps T s u) : Keeps T s (rollBegin u p from_ halt) := by
  unfold rollBegin
  repeat' first
    | with_reducible assumption
    | exact Sub.of rfl hT
    | with_reducible apply restart_keeps
    | with_reducible apply record_keeps
    | with_reducible apply modPart_keeps
    | with_reducible apply wr_keeps
    | with_reducible apply stopBlocks_keeps
    | with_reducible apply each_keeps
    | with_reducible apply modBlock_keeps
    | with_reducible apply giveUp_keeps
    | with_reducible apply modRouter_keeps
    | with_reducible refine Keeps.ite ?_ ?_
    | (extract_lets +onlyGivenNames x; first | refine (fun hx => ?_ : Keeps _ _ x → _) ?_ | refine (fun hx => ?_ : KeepsP _ _ x → _) ?_ | skip)
    | with_reducible intro _

theorem rollback_keeps {T : List Nat} {s u : State} {p : ℕ} {from_ : ℕ} {halt : Bool}
    (hT : Sub [2, 3, 5, 6, 7, 11, 12, 16, 0x3000, 0x3021, 0x6101, 0x7002, 0x8200] T) (h : Keeps T s u) : Keeps T s (rollback u p from_ halt) := by
  unfold rollback
  repeat' first
    | with_reducible assumption
    | exact Sub.of rfl hT
    | with_reducible apply giveUp_keeps
    | with_reducible apply modPart_keeps
    | with_reducible apply stopBlocks_keeps
    | with_reducible apply rollBegin_keeps
    | with_reducible refine Keeps.ite ?_ ?_
    | (extract_lets +onlyGivenNames x; first | refine (fun hx => ?_ : Keeps _ _ x → _) ?_ | refine (fun hx => ?_ : KeepsP _ _ x → _) ?_ | skip)
    | with_reducible intro _
    | split

theorem delayedStart_keeps {T : List Nat} {s u : State} {p : ℕ}
    (hT : Sub [2, 3, 5, 6, 7, 11, 12, 16, 0x3000, 0x3021, 0x6101, 0x7002, 0x8200] T) (h : Keeps T s u) : Keeps T s (delayedStart u p) := by
  unfold delayedStart
  repeat' first
    | with_reducible assumption
    | exact Sub.of rfl hT
    | with_reducible apply rollBegin_keeps
    | with_reducible refine Keeps.ite ?_ ?_
    | with_reducible intro _
    | split

theorem execDelayedRollbackStart_keeps {u : State} {part : ℕ} :
    OutKeeps [2, 3, 5, 6, 7, 11, 12, 16, 0x3000, 0x3021, 0x6101, 0x7002, 0x8200] u (execDelayedRollbackStart part u) := by
  have h := Keeps.refl [2, 3, 5, 6, 7, 11, 12, 16, 0x3000, 0x3021, 0x6101, 0x7002, 0x8200] u
  have hT := Sub.rfl (a := [2, 3, 5, 6, 7, 11, 12, 16, 0x3000, 0x3021, 0x6101, 0x7002, 0x8200])
  unfold execDelayedRollbackStart
  repeat' first
    | with_reducible assumption
    | exact Sub.of rfl hT
    | with_reducible apply delayedStart_keeps
    | with_reducible apply OutKeeps.next

theorem undoPage_keeps {T : List Nat} {s u : State} {p : ℕ} {a : ℕ} {e : JournalEntry}
    (hT : Sub [2, 3] T) (h : Keeps T s u) : Keeps T s (undoPage u p a e) := by
  unfold undoPage
  repeat' first
    | with_reducible assumption
    | exact Sub.of rfl hT
    | with_reducible apply copyMem_keeps
    | with_reducible apply clear_keeps
    | with_reducible apply each_keeps
    | with_reducible apply store_keeps
    | with_reducible refine Keeps.ite ?_ ?_
    | (extract_lets +onlyGivenNames x; first | refine (fun hx => ?_ : Keeps _ _ x → _) ?_ | refine (fun hx => ?_ : KeepsP _ _ x → _) ?_ | skip)
    | with_reducible intro _
    | split
    | unfold x

theorem undoSeg_keeps {T : List Nat} {s u : State} {p : ℕ} {g : JournalSeg}
    (hT : Sub [2, 3] T) (h : Keeps T s u) : Keeps T s (undoSeg u p g) := by
  unfold undoSeg
  repeat' first
    | with_reducible assumption
    | exact Sub.of rfl hT
    | with_reducible apply each_keeps
    | with_reducible apply undoPage_keeps
    | with_reducible refine Keeps.ite ?_ ?_
    | with_reducible intro _
    | split

theorem putPage_keeps {T : List Nat} {s u : State} {p : ℕ} {e : ℕ × PageImage}
    (hT : Sub [2, 3] T) (h : Keeps T s u) : Keeps T s (putPage u p e) := by
  unfold putPage
  repeat' first
    | with_reducible assumption
    | exact Sub.of rfl hT
    | with_reducible apply clear_keeps
    | with_reducible apply setPoison_keeps
    | with_reducible apply setMem_keeps
    | exact memSet_wf _ _ (Wf.mem (by assumption))
    | with_reducible refine Keeps.ite ?_ ?_
    | (extract_lets +onlyGivenNames x; first | refine (fun hx => ?_ : Keeps _ _ x → _) ?_ | refine (fun hx => ?_ : KeepsP _ _ x → _) ?_ | skip)
    | with_reducible intro _
    | split

theorem rewriteTable_keeps {T : List Nat} {s u : State} {b : ℕ} {line : ℕ}
    (hT : Sub [2] T) (h : Keeps T s u) : Keeps T s (rewriteTable u b line) := by
  unfold rewriteTable
  repeat' first
    | with_reducible assumption
    | exact Sub.of rfl hT
    | with_reducible apply write_keeps
    | with_reducible refine Keeps.ite ?_ ?_

theorem remapLine_keeps {T : List Nat} {s u : State} {r : ℕ × ℕ × ℕ}
    (hT : Sub [2, 3, 6, 8, 9, 13, 16, 20, 0x3410, 0x4110, 0x4140, 0x6202, 0x7002, 0x9000, 0x9001] T) (h : Keeps T s u) : Keeps T s (remapLine u r) := by
  unfold remapLine
  repeat' first
    | with_reducible assumption
    | exact Sub.of rfl hT
    | with_reducible apply bumpSat_keeps
    | with_reducible apply modMsys_keeps
    | with_reducible apply rewriteTable_keeps
    | with_reducible apply clear_keeps
    | with_reducible apply penFixed_keeps
    | with_reducible apply record_keeps
    | with_reducible apply fenceChip_keeps
    | with_reducible refine Keeps.ite ?_ ?_
    | (extract_lets +onlyGivenNames x; first | refine (fun hx => ?_ : Keeps _ _ x → _) ?_ | refine (fun hx => ?_ : KeepsP _ _ x → _) ?_ | skip)
    | with_reducible intro _
    | split

theorem remapAtStop_keeps {T : List Nat} {s u : State} {p : ℕ}
    (hT : Sub [2, 3, 6, 8, 9, 13, 16, 20, 0x3410, 0x4110, 0x4140, 0x6202, 0x7002, 0x9000, 0x9001] T) (h : Keeps T s u) : Keeps T s (remapAtStop u p) := by
  unfold remapAtStop
  repeat' first
    | with_reducible assumption
    | exact Sub.of rfl hT
    | with_reducible apply each_keeps
    | with_reducible apply modMsys_keeps
    | with_reducible apply remapLine_keeps
    | with_reducible refine Keeps.ite ?_ ?_
    | (extract_lets +onlyGivenNames x; first | refine (fun hx => ?_ : Keeps _ _ x → _) ?_ | refine (fun hx => ?_ : KeepsP _ _ x → _) ?_ | skip)
    | with_reducible intro _

theorem substitute_keeps {T : List Nat} {s u : State} {e : ℕ × ℕ × ℕ}
    (hT : Sub [6, 8, 9, 13, 16, 20, 0x4110, 0x4140, 0x6010, 0x6202, 0x7002, 0x9000, 0x9001] T) (h : Keeps T s u) : Keeps T s (substitute u e) := by
  unfold substitute
  repeat' first
    | with_reducible assumption
    | exact Sub.of rfl hT
    | with_reducible apply modMsys_keeps
    | with_reducible apply wr_keeps
    | with_reducible apply penFixed_keeps
    | with_reducible apply record_keeps
    | with_reducible apply fenceChip_keeps
    | with_reducible refine Keeps.ite ?_ ?_

theorem substAtStop_keeps {T : List Nat} {s u : State} {p : ℕ}
    (hT : Sub [6, 8, 9, 13, 16, 20, 0x4110, 0x4140, 0x6010, 0x6202, 0x7002, 0x9000, 0x9001] T) (h : Keeps T s u) : Keeps T s (substAtStop u p) := by
  unfold substAtStop
  repeat' first
    | with_reducible assumption
    | exact Sub.of rfl hT
    | with_reducible apply modMsys_keeps
    | with_reducible apply each_keeps
    | with_reducible apply substitute_keeps
    | with_reducible refine Keeps.ite ?_ ?_
    | (extract_lets +onlyGivenNames x; first | refine (fun hx => ?_ : Keeps _ _ x → _) ?_ | refine (fun hx => ?_ : KeepsP _ _ x → _) ?_ | skip)
    | with_reducible intro _

theorem slipHalt_keeps {T : List Nat} {s u : State} {p : ℕ}
    (hT : Sub [5, 6, 12, 16, 0x3000, 0x7002] T) (h : Keeps T s u) : Keeps T s (slipHalt u p) := by
  unfold slipHalt
  repeat' first
    | with_reducible assumption
    | exact Sub.of rfl hT
    | with_reducible apply record_keeps
    | with_reducible apply runEnd_keeps
    | with_reducible refine Keeps.ite ?_ ?_

theorem stepBegin_keeps {T : List Nat} {s u : State} {p : ℕ} {step : ℕ} {run : ℕ} {sec : ℕ} {ns : ℕ}
    (hT : Sub [5, 6, 15, 16, 21, 0x2100, 0x2101, 0x3000, 0x6100, 0x7002] T) (h : Keeps T s u) : Keeps T s (stepBegin u p step run sec ns) := by
  unfold stepBegin
  repeat' first
    | with_reducible assumption
    | exact Sub.of rfl hT
    | with_reducible apply wr_keeps
    | with_reducible apply modPart_keeps
    | with_reducible apply stopBlocks_keeps
    | with_reducible apply setClock_keeps

theorem resumeAct_keeps {T : List Nat} {s u : State} {p : ℕ} {m : ResumeMsg}
    (hT : Sub [5, 6, 15, 16, 21, 0x2100, 0x2101, 0x3000, 0x6100, 0x7002] T) (h : Keeps T s u) : Keeps T s (resumeAct u p m) := by
  unfold resumeAct
  repeat' first
    | with_reducible assumption
    | exact Sub.of rfl hT
    | with_reducible apply modPart_keeps
    | with_reducible apply stepBegin_keeps
    | with_reducible refine Keeps.ite ?_ ?_

theorem toChildren_keeps {T : List Nat} {s u : State} {p : ℕ} {b : ClvBody}
    (hT : Sub [6, 9, 16, 20, 0x4110, 0x4140, 0x7002] T) (h : Keeps T s u) : Keeps T s (toChildren u p b) := by
  unfold toChildren
  repeat' first
    | with_reducible assumption
    | exact Sub.of rfl hT
    | with_reducible apply each_keeps
    | with_reducible apply clvRank_keeps
    | with_reducible refine Keeps.ite ?_ ?_
    | with_reducible intro _

theorem resume_keeps {T : List Nat} {s u : State} {p : ℕ} {m : ResumeMsg}
    (hT : Sub [5, 6, 9, 15, 16, 20, 21, 0x2100, 0x2101, 0x3000, 0x4110, 0x4140, 0x6100, 0x7002] T) (h : Keeps T s u) : Keeps T s (resume u p m) := by
  unfold resume
  repeat' first
    | with_reducible assumption
    | exact Sub.of rfl hT
    | with_reducible apply resumeAct_keeps
    | with_reducible apply toChildren_keeps

theorem sendRolled_keeps {T : List Nat} {s u : State} {p : ℕ}
    (hT : Sub [5, 6, 9, 15, 16, 20, 21, 0x2100, 0x2101, 0x3000, 0x4110, 0x4140, 0x6100, 0x7002] T) (h : Keeps T s u) : Keeps T s (sendRolled u p) := by
  unfold sendRolled
  repeat' first
    | with_reducible assumption
    | exact Sub.of rfl hT
    | with_reducible apply toParent_keeps
    | with_reducible apply resume_keeps
    | with_reducible refine Keeps.ite ?_ ?_
    | (extract_lets +onlyGivenNames x; first | refine (fun hx => ?_ : Keeps _ _ x → _) ?_ | refine (fun hx => ?_ : KeepsP _ _ x → _) ?_ | skip)
    | with_reducible intro _
    | split

theorem restoreDone_keeps {T : List Nat} {s u : State} {p : ℕ} {pages : List (ℕ × PageImage)}
    (hT : Sub [2, 3, 4, 5, 6, 8, 9, 11, 12, 13, 15, 16, 20, 21, 0x2100, 0x2101, 0x3000, 0x3410, 0x4000, 0x4001, 0x4010, 0x4110, 0x4140, 0x4400, 0x5804, 0x6010, 0x6100, 0x6101, 0x6202, 0x7002, 0x9000, 0x9001, 0x9010] T) (h : Keeps T s u) : Keeps T s (restoreDone u p pages) := by
  unfold restoreDone
  repeat' first
    | with_reducible assumption
    | exact Sub.of rfl hT
    | with_reducible apply each_keeps
    | with_reducible apply undoSeg_keeps
    | with_reducible apply jnlCount_keeps
    | with_reducible apply modPart_keeps
    | with_reducible apply putPage_keeps
    | with_reducible apply spareAtStop_keeps
    | with_reducible apply remapAtStop_keeps
    | with_reducible apply substAtStop_keeps
    | with_reducible apply wr_keeps
    | with_reducible apply refillRepeats_keeps
    | with_reducible apply record_keeps
    | with_reducible apply bumpSat_keeps
    | with_reducible apply slipHalt_keeps
    | with_reducible apply sendRolled_keeps
    | with_reducible refine Keeps.ite ?_ ?_
    | (extract_lets +onlyGivenNames x; first | refine (fun hx => ?_ : Keeps _ _ x → _) ?_ | refine (fun hx => ?_ : KeepsP _ _ x → _) ?_ | skip)
    | with_reducible intro _
    | split

theorem execRestoreComplete_keeps {u : State} {part : ℕ} {pages : List (ℕ × PageImage)} :
    OutKeeps [2, 3, 4, 5, 6, 8, 9, 11, 12, 13, 15, 16, 20, 21, 0x2100, 0x2101, 0x3000, 0x3410, 0x4000, 0x4001, 0x4010, 0x4110, 0x4140, 0x4400, 0x5804, 0x6010, 0x6100, 0x6101, 0x6202, 0x7002, 0x9000, 0x9001, 0x9010] u (execRestoreComplete part pages u) := by
  have h := Keeps.refl [2, 3, 4, 5, 6, 8, 9, 11, 12, 13, 15, 16, 20, 21, 0x2100, 0x2101, 0x3000, 0x3410, 0x4000, 0x4001, 0x4010, 0x4110, 0x4140, 0x4400, 0x5804, 0x6010, 0x6100, 0x6101, 0x6202, 0x7002, 0x9000, 0x9001, 0x9010] u
  have hT := Sub.rfl (a := [2, 3, 4, 5, 6, 8, 9, 11, 12, 13, 15, 16, 20, 21, 0x2100, 0x2101, 0x3000, 0x3410, 0x4000, 0x4001, 0x4010, 0x4110, 0x4140, 0x4400, 0x5804, 0x6010, 0x6100, 0x6101, 0x6202, 0x7002, 0x9000, 0x9001, 0x9010])
  unfold execRestoreComplete
  repeat' first
    | with_reducible assumption
    | exact Sub.of rfl hT
    | with_reducible apply restoreDone_keeps
    | with_reducible apply OutKeeps.next

theorem mergeBegin_keeps {T : List Nat} {s u : State} {p : ℕ} {prot : ℕ}
    (hT : Sub [7] T) (h : Keeps T s u) : Keeps T s (mergeBegin u p prot) := by
  unfold mergeBegin
  repeat' first
    | with_reducible assumption
    | exact Sub.of rfl hT
    | with_reducible apply setBuddies_keeps

theorem jnlDiscard_keeps {T : List Nat} {s u : State} {p : ℕ} {prot : ℕ}
    (hT : Sub [6, 0x6101] T) (h : Keeps T s u) : Keeps T s (jnlDiscard u p prot) := by
  unfold jnlDiscard
  repeat' first
    | with_reducible assumption
    | exact Sub.of rfl hT
    | with_reducible apply jnlCount_keeps
    | with_reducible apply modPart_keeps
    | with_reducible apply wr_keeps

theorem sealValues_keeps {T : List Nat} {s u : State} {p : ℕ} {step : ℕ} {run : ℕ}
    (hT : Sub [5, 19] T) (h : Keeps T s u) : Keeps T s (sealValues u p step run) := by
  unfold sealValues
  repeat' first
    | with_reducible assumption
    | exact Sub.of rfl hT
    | with_reducible apply each_keeps
    | with_reducible apply modBlock_keeps
    | with_reducible apply setObs_keeps
    | with_reducible refine Keeps.ite ?_ ?_
    | (extract_lets +onlyGivenNames x; first | refine (fun hx => ?_ : Keeps _ _ x → _) ?_ | refine (fun hx => ?_ : KeepsP _ _ x → _) ?_ | skip)
    | with_reducible intro _

theorem catchUp_keeps {T : List Nat} {s u : State} {p : ℕ}
    (hT : Sub [16, 0x6102, 0x7002] T) (h : Keeps T s u) : Keeps T s (catchUp u p) := by
  unfold catchUp
  repeat' first
    | with_reducible assumption
    | exact Sub.of rfl hT
    | with_reducible apply record_keeps
    | with_reducible apply setBuddyState_keeps
    | with_reducible refine Keeps.ite ?_ ?_

theorem buddySeal_keeps {T : List Nat} {s u : State} {p : ℕ}
    (hT : Sub [0x6102] T) (h : Keeps T s u) : Keeps T s (buddySeal u p) := by
  unfold buddySeal
  repeat' first
    | with_reducible assumption
    | exact Sub.of rfl hT
    | with_reducible apply wr_keeps
    | with_reducible refine Keeps.ite ?_ ?_

theorem sealStep_keeps {T : List Nat} {s u : State} {p : ℕ} {c : Commit}
    (hT : Sub [2, 3, 4, 5, 6, 7, 8, 9, 11, 13, 16, 19, 20, 0x3410, 0x4000, 0x4001, 0x4010, 0x4110, 0x4140, 0x4400, 0x5804, 0x6100, 0x6101, 0x6102, 0x6202, 0x7002, 0x9000, 0x9001, 0x9010] T) (h : Keeps T s u) : Keeps T s (sealStep u p c) := by
  unfold sealStep
  repeat' first
    | with_reducible assumption
    | exact Sub.of rfl hT
    | with_reducible apply wr_keeps
    | with_reducible apply bumpSat_keeps
    | with_reducible apply raise_keeps
    | with_reducible apply record_keeps
    | with_reducible apply mergeBegin_keeps
    | with_reducible apply jnlDiscard_keeps
    | with_reducible apply spareAtStop_keeps
    | with_reducible apply remapAtStop_keeps
    | with_reducible apply sealValues_keeps
    | with_reducible apply modPart_keeps
    | with_reducible apply setBuddyState_keeps
    | with_reducible apply catchUp_keeps
    | with_reducible apply buddySeal_keeps
    | with_reducible refine Keeps.ite ?_ ?_

theorem alarmHalt_keeps {T : List Nat} {s u : State} {p : ℕ}
    (hT : Sub [5, 6, 12, 16, 0x3000, 0x7002] T) (h : Keeps T s u) : Keeps T s (alarmHalt u p) := by
  unfold alarmHalt
  repeat' first
    | with_reducible assumption
    | exact Sub.of rfl hT
    | with_reducible apply record_keeps
    | with_reducible apply runEnd_keeps
    | with_reducible refine Keeps.ite ?_ ?_

theorem commitAct_keeps {T : List Nat} {s u : State} {p : ℕ} {c : Commit}
    (hT : Sub [2, 3, 4, 5, 6, 7, 8, 9, 11, 12, 13, 15, 16, 19, 20, 21, 0x2100, 0x2101, 0x3000, 0x3021, 0x3410, 0x4000, 0x4001, 0x4010, 0x4110, 0x4140, 0x4400, 0x5804, 0x6100, 0x6101, 0x6102, 0x6202, 0x7002, 0x8200, 0x9000, 0x9001, 0x9010] T) (h : Keeps T s u) : Keeps T s (commitAct u p c) := by
  unfold commitAct
  repeat' first
    | with_reducible assumption
    | exact Sub.of rfl hT
    | with_reducible apply record_keeps
    | with_reducible apply rollback_keeps
    | with_reducible apply sealStep_keeps
    | with_reducible apply alarmHalt_keeps
    | with_reducible apply runEnd_keeps
    | with_reducible apply stepBegin_keeps
    | with_reducible refine Keeps.ite ?_ ?_

theorem commit_keeps {T : List Nat} {s u : State} {p : ℕ} {c : Commit}
    (hT : Sub [2, 3, 4, 5, 6, 7, 8, 9, 11, 12, 13, 15, 16, 19, 20, 21, 0x2100, 0x2101, 0x3000, 0x3021, 0x3410, 0x4000, 0x4001, 0x4010, 0x4110, 0x4140, 0x4400, 0x5804, 0x6100, 0x6101, 0x6102, 0x6202, 0x7002, 0x8200, 0x9000, 0x9001, 0x9010] T) (h : Keeps T s u) : Keeps T s (commit u p c) := by
  unfold commit
  repeat' first
    | with_reducible assumption
    | exact Sub.of rfl hT
    | with_reducible apply commitAct_keeps
    | with_reducible apply toChildren_keeps

theorem decide__keeps {T : List Nat} {s u : State} {p : ℕ} {v : Vote}
    (hT : Sub [2, 3, 4, 5, 6, 7, 8, 9, 11, 12, 13, 15, 16, 19, 20, 21, 0x2100, 0x2101, 0x3000, 0x3021, 0x3410, 0x4000, 0x4001, 0x4010, 0x4110, 0x4140, 0x4400, 0x5804, 0x6100, 0x6101, 0x6102, 0x6202, 0x7002, 0x8200, 0x9000, 0x9001, 0x9010] T) (h : Keeps T s u) : Keeps T s (decide_ u p v) := by
  unfold decide_
  repeat' first
    | with_reducible assumption
    | exact Sub.of rfl hT
    | with_reducible apply commit_keeps

theorem sendVote_keeps {T : List Nat} {s u : State} {p : ℕ}
    (hT : Sub [2, 3, 4, 5, 6, 7, 8, 9, 11, 12, 13, 15, 16, 19, 20, 21, 0x2100, 0x2101, 0x3000, 0x3021, 0x3410, 0x4000, 0x4001, 0x4010, 0x4110, 0x4140, 0x4400, 0x5804, 0x6100, 0x6101, 0x6102, 0x6202, 0x7002, 0x8200, 0x9000, 0x9001, 0x9010] T) (h : Keeps T s u) : Keeps T s (sendVote u p) := by
  unfold sendVote
  repeat' first
    | with_reducible assumption
    | exact Sub.of rfl hT
    | with_reducible apply toParent_keeps
    | with_reducible apply decide__keeps
    | with_reducible refine Keeps.ite ?_ ?_
    | (extract_lets +onlyGivenNames x; first | refine (fun hx => ?_ : Keeps _ _ x → _) ?_ | refine (fun hx => ?_ : KeepsP _ _ x → _) ?_ | skip)
    | with_reducible intro _
    | split

theorem sealVote_keeps {T : List Nat} {s u : State} {p : ℕ}
    (hT : Sub [2, 3, 4, 5, 6, 7, 8, 9, 11, 12, 13, 15, 16, 19, 20, 21, 0x2100, 0x2101, 0x3000, 0x3021, 0x3410, 0x4000, 0x4001, 0x4010, 0x4110, 0x4140, 0x4400, 0x5804, 0x6100, 0x6101, 0x6102, 0x6202, 0x7002, 0x8200, 0x9000, 0x9001, 0x9010] T) (h : Keeps T s u) : Keeps T s (sealVote u p) := by
  unfold sealVote
  repeat' first
    | with_reducible assumption
    | exact Sub.of rfl hT
    | with_reducible apply wr_keeps
    | with_reducible apply setBuddyState_keeps
    | with_reducible apply sendVote_keeps
    | with_reducible apply modPart_keeps
    | with_reducible refine Keeps.ite ?_ ?_

theorem deltaExpiry_keeps {T : List Nat} {s u : State} {p : ℕ}
    (hT : Sub [2, 3, 4, 5, 6, 7, 8, 9, 11, 12, 13, 15, 16, 19, 20, 21, 0x2100, 0x2101, 0x3000, 0x3021, 0x3410, 0x4000, 0x4001, 0x4010, 0x4110, 0x4140, 0x4400, 0x5804, 0x6100, 0x6101, 0x6102, 0x6202, 0x7002, 0x8200, 0x9000, 0x9001, 0x9010] T) (h : Keeps T s u) : Keeps T s (deltaExpiry u p) := by
  unfold deltaExpiry
  repeat' first
    | with_reducible assumption
    | exact Sub.of rfl hT
    | with_reducible apply sealVote_keeps
    | with_reducible apply modPart_keeps
    | with_reducible refine Keeps.ite ?_ ?_

theorem execDeltaWaitExpiry_keeps {u : State} {part : ℕ} :
    OutKeeps [2, 3, 4, 5, 6, 7, 8, 9, 11, 12, 13, 15, 16, 19, 20, 21, 0x2100, 0x2101, 0x3000, 0x3021, 0x3410, 0x4000, 0x4001, 0x4010, 0x4110, 0x4140, 0x4400, 0x5804, 0x6100, 0x6101, 0x6102, 0x6202, 0x7002, 0x8200, 0x9000, 0x9001, 0x9010] u (execDeltaWaitExpiry part u) := by
  have h := Keeps.refl [2, 3, 4, 5, 6, 7, 8, 9, 11, 12, 13, 15, 16, 19, 20, 21, 0x2100, 0x2101, 0x3000, 0x3021, 0x3410, 0x4000, 0x4001, 0x4010, 0x4110, 0x4140, 0x4400, 0x5804, 0x6100, 0x6101, 0x6102, 0x6202, 0x7002, 0x8200, 0x9000, 0x9001, 0x9010] u
  have hT := Sub.rfl (a := [2, 3, 4, 5, 6, 7, 8, 9, 11, 12, 13, 15, 16, 19, 20, 21, 0x2100, 0x2101, 0x3000, 0x3021, 0x3410, 0x4000, 0x4001, 0x4010, 0x4110, 0x4140, 0x4400, 0x5804, 0x6100, 0x6101, 0x6102, 0x6202, 0x7002, 0x8200, 0x9000, 0x9001, 0x9010])
  unfold execDeltaWaitExpiry
  repeat' first
    | with_reducible assumption
    | exact Sub.of rfl hT
    | with_reducible apply deltaExpiry_keeps
    | with_reducible apply OutKeeps.next

theorem withdrawUp_keeps {T : List Nat} {s u : State} {p : ℕ} {n : ℕ}
    (hT : Sub [6, 9, 16, 20, 0x4110, 0x4140, 0x7002] T) (h : Keeps T s u) : Keeps T s (withdrawUp u p n) := by
  unfold withdrawUp
  repeat' first
    | with_reducible assumption
    | exact Sub.of rfl hT
    | with_reducible apply record_keeps
    | with_reducible apply toParent_keeps
    | with_reducible apply modPart_keeps
    | with_reducible refine Keeps.ite ?_ ?_

theorem runWithdraw_keeps {T : List Nat} {s u : State} {p : ℕ} {status : ℕ}
    (hT : Sub [5, 6, 9, 12, 16, 20, 0x3000, 0x4110, 0x4140, 0x7002] T) (h : Keeps T s u) : Keeps T s (runWithdraw u p status) := by
  unfold runWithdraw
  repeat' first
    | with_reducible assumption
    | exact Sub.of rfl hT
    | with_reducible apply withdrawUp_keeps
    | with_reducible apply modPart_keeps
    | with_reducible apply runEnd_keeps
    | with_reducible refine Keeps.ite ?_ ?_

theorem runStop_keeps {T : List Nat} {s u : State} {p : ℕ} {status : ℕ}
    (hT : Sub [5, 6, 9, 12, 16, 20, 0x3000, 0x4110, 0x4140, 0x7002] T) (h : Keeps T s u) : Keeps T s (runStop u p status) := by
  unfold runStop
  repeat' first
    | with_reducible assumption
    | exact Sub.of rfl hT
    | with_reducible apply modPart_keeps
    | with_reducible apply runWithdraw_keeps
    | with_reducible refine Keeps.ite ?_ ?_

theorem nameStart_keeps {T : List Nat} {s u : State} {p : ℕ} {start : ℕ × ℕ}
    (hT : Sub [5, 6, 9, 15, 16, 20, 21, 0x2100, 0x2101, 0x3000, 0x4110, 0x4140, 0x6100, 0x7002] T) (h : Keeps T s u) : Keeps T s (nameStart u p start) := by
  unfold nameStart
  repeat' first
    | with_reducible assumption
    | exact Sub.of rfl hT
    | with_reducible apply record_keeps
    | with_reducible apply resume_keeps
    | with_reducible refine Keeps.ite ?_ ?_

theorem sendReady_keeps {T : List Nat} {s u : State} {p : ℕ}
    (hT : Sub [5, 6, 9, 15, 16, 20, 21, 0x2100, 0x2101, 0x3000, 0x4110, 0x4140, 0x6100, 0x7002] T) (h : Keeps T s u) : Keeps T s (sendReady u p) := by
  unfold sendReady
  repeat' first
    | with_reducible assumption
    | exact Sub.of rfl hT
    | with_reducible apply toParent_keeps
    | with_reducible apply modPart_keeps
    | with_reducible apply record_keeps
    | with_reducible apply nameStart_keeps
    | with_reducible refine Keeps.ite ?_ ?_

theorem fromRank_keeps {T : List Nat} {s u : State} {p : ℕ} {r : ℕ} {f : State → State} (hf : ∀ v, Keeps T s v → Keeps T s (f v))
    (hT : Sub [] T) (h : Keeps T s u) : Keeps T s (fromRank u p r f) := by
  unfold fromRank
  repeat' first
    | with_reducible assumption
    | exact Sub.of rfl hT
    | with_reducible apply hf
    | with_reducible refine Keeps.ite ?_ ?_

theorem fromParent_keeps {T : List Nat} {s u : State} {p : ℕ} {f : State → State} (hf : ∀ v, Keeps T s v → Keeps T s (f v))
    (hT : Sub [] T) (h : Keeps T s u) : Keeps T s (fromParent u p f) := by
  unfold fromParent
  repeat' first
    | with_reducible assumption
    | exact Sub.of rfl hT
    | with_reducible apply fromRank_keeps
    | with_reducible apply hf
    | with_reducible refine Keeps.ite ?_ ?_
    | with_reducible intro _
    | split

theorem execResume_keeps {u : State} {part : ℕ} {m : ResumeMsg} :
    OutKeeps [5, 6, 9, 15, 16, 20, 21, 0x2100, 0x2101, 0x3000, 0x4110, 0x4140, 0x6100, 0x7002] u (execResume part m u) := by
  have h := Keeps.refl [5, 6, 9, 15, 16, 20, 21, 0x2100, 0x2101, 0x3000, 0x4110, 0x4140, 0x6100, 0x7002] u
  have hT := Sub.rfl (a := [5, 6, 9, 15, 16, 20, 21, 0x2100, 0x2101, 0x3000, 0x4110, 0x4140, 0x6100, 0x7002])
  unfold execResume
  repeat' first
    | with_reducible assumption
    | exact Sub.of rfl hT
    | with_reducible apply fromParent_keeps
    | with_reducible apply resume_keeps
    | with_reducible apply OutKeeps.next
    | with_reducible refine Keeps.ite ?_ ?_
    | with_reducible intro _

theorem voteRx_keeps {T : List Nat} {s u : State} {p : ℕ} {child : ℕ} {v : Vote}
    (hT : Sub [2, 3, 4, 5, 6, 7, 8, 9, 11, 12, 13, 15, 16, 19, 20, 21, 0x2100, 0x2101, 0x3000, 0x3021, 0x3410, 0x4000, 0x4001, 0x4010, 0x4110, 0x4140, 0x4400, 0x5804, 0x6100, 0x6101, 0x6102, 0x6202, 0x7002, 0x8200, 0x9000, 0x9001, 0x9010] T) (h : Keeps T s u) : Keeps T s (voteRx u p child v) := by
  unfold voteRx
  repeat' first
    | with_reducible assumption
    | exact Sub.of rfl hT
    | with_reducible apply sendVote_keeps
    | with_reducible apply modPart_keeps
    | with_reducible refine Keeps.ite ?_ ?_

theorem execVote_keeps {u : State} {part : ℕ} {child : ℕ} {v : Vote} :
    OutKeeps [2, 3, 4, 5, 6, 7, 8, 9, 11, 12, 13, 15, 16, 19, 20, 21, 0x2100, 0x2101, 0x3000, 0x3021, 0x3410, 0x4000, 0x4001, 0x4010, 0x4110, 0x4140, 0x4400, 0x5804, 0x6100, 0x6101, 0x6102, 0x6202, 0x7002, 0x8200, 0x9000, 0x9001, 0x9010] u (execVote part child v u) := by
  have h := Keeps.refl [2, 3, 4, 5, 6, 7, 8, 9, 11, 12, 13, 15, 16, 19, 20, 21, 0x2100, 0x2101, 0x3000, 0x3021, 0x3410, 0x4000, 0x4001, 0x4010, 0x4110, 0x4140, 0x4400, 0x5804, 0x6100, 0x6101, 0x6102, 0x6202, 0x7002, 0x8200, 0x9000, 0x9001, 0x9010] u
  have hT := Sub.rfl (a := [2, 3, 4, 5, 6, 7, 8, 9, 11, 12, 13, 15, 16, 19, 20, 21, 0x2100, 0x2101, 0x3000, 0x3021, 0x3410, 0x4000, 0x4001, 0x4010, 0x4110, 0x4140, 0x4400, 0x5804, 0x6100, 0x6101, 0x6102, 0x6202, 0x7002, 0x8200, 0x9000, 0x9001, 0x9010])
  unfold execVote
  repeat' first
    | with_reducible assumption
    | exact Sub.of rfl hT
    | with_reducible apply fromRank_keeps
    | with_reducible apply voteRx_keeps
    | with_reducible apply OutKeeps.next
    | with_reducible refine Keeps.ite ?_ ?_
    | with_reducible intro _

theorem readyRx_keeps {T : List Nat} {s u : State} {p : ℕ} {child : ℕ} {m : ReadyMsg}
    (hT : Sub [5, 6, 9, 15, 16, 20, 21, 0x2100, 0x2101, 0x3000, 0x4110, 0x4140, 0x6100, 0x7002] T) (h : Keeps T s u) : Keeps T s (readyRx u p child m) := by
  unfold readyRx
  repeat' first
    | with_reducible assumption
    | exact Sub.of rfl hT
    | with_reducible apply modPart_keeps
    | with_reducible apply withdrawUp_keeps
    | with_reducible apply sendReady_keeps
    | with_reducible refine Keeps.ite ?_ ?_
    | (extract_lets +onlyGivenNames x; first | refine (fun hx => ?_ : Keeps _ _ x → _) ?_ | refine (fun hx => ?_ : KeepsP _ _ x → _) ?_ | skip)
    | with_reducible intro _
    | split

theorem fillStart_keeps {T : List Nat} {s u : State} {p : ℕ} {cause : ℕ}
    (hT : Sub [6, 16, 0x6102, 0x7002] T) (h : Keeps T s u) : Keeps T s (fillStart u p cause) := by
  unfold fillStart
  repeat' first
    | with_reducible assumption
    | exact Sub.of rfl hT
    | with_reducible apply modPart_keeps
    | with_reducible apply setBuddyState_keeps

theorem buddyNone_keeps {T : List Nat} {s u : State} {p : ℕ} {cause : ℕ}
    (hT : Sub [6, 16, 0x6102, 0x7002] T) (h : Keeps T s u) : Keeps T s (buddyNone u p cause) := by
  unfold buddyNone
  repeat' first
    | with_reducible assumption
    | exact Sub.of rfl hT
    | with_reducible apply modPart_keeps
    | with_reducible apply setBuddyState_keeps

theorem runStart_keeps {T : List Nat} {s u : State} {p : ℕ}
    (hT : Sub [5, 6, 9, 15, 16, 20, 21, 0x2100, 0x2101, 0x3000, 0x4110, 0x4140, 0x6100, 0x6101, 0x6102, 0x7002] T) (h : Keeps T s u) : Keeps T s (runStart u p) := by
  unfold runStart
  repeat' first
    | with_reducible assumption
    | exact Sub.of rfl hT
    | with_reducible apply wr_keeps
    | with_reducible apply jnlCount_keeps
    | with_reducible apply modPart_keeps
    | with_reducible apply stopBlocks_keeps
    | with_reducible apply each_keeps
    | with_reducible apply modBlock_keeps
    | with_reducible apply fillStart_keeps
    | with_reducible apply buddyNone_keeps
    | with_reducible apply sendReady_keeps
    | with_reducible refine Keeps.ite ?_ ?_
    | (extract_lets +onlyGivenNames x; first | refine (fun hx => ?_ : Keeps _ _ x → _) ?_ | refine (fun hx => ?_ : KeepsP _ _ x → _) ?_ | skip)
    | with_reducible intro _

theorem execReady_keeps {u : State} {part : ℕ} {child : ℕ} {m : ReadyMsg} :
    OutKeeps [5, 6, 9, 15, 16, 20, 21, 0x2100, 0x2101, 0x3000, 0x4110, 0x4140, 0x6100, 0x7002] u (execReady part child m u) := by
  have h := Keeps.refl [5, 6, 9, 15, 16, 20, 21, 0x2100, 0x2101, 0x3000, 0x4110, 0x4140, 0x6100, 0x7002] u
  have hT := Sub.rfl (a := [5, 6, 9, 15, 16, 20, 21, 0x2100, 0x2101, 0x3000, 0x4110, 0x4140, 0x6100, 0x7002])
  unfold execReady
  repeat' first
    | with_reducible assumption
    | exact Sub.of rfl hT
    | with_reducible apply fromRank_keeps
    | with_reducible apply readyRx_keeps
    | with_reducible apply OutKeeps.next
    | with_reducible refine Keeps.ite ?_ ?_
    | with_reducible intro _

theorem rolledRx_keeps {T : List Nat} {s u : State} {p : ℕ} {child : ℕ} {m : RolledMsg}
    (hT : Sub [5, 6, 9, 15, 16, 20, 21, 0x2100, 0x2101, 0x3000, 0x4110, 0x4140, 0x6100, 0x7002] T) (h : Keeps T s u) : Keeps T s (rolledRx u p child m) := by
  unfold rolledRx
  repeat' first
    | with_reducible assumption
    | exact Sub.of rfl hT
    | with_reducible apply sendRolled_keeps
    | with_reducible apply modPart_keeps
    | with_reducible refine Keeps.ite ?_ ?_

theorem execRolled_keeps {u : State} {part : ℕ} {child : ℕ} {m : RolledMsg} :
    OutKeeps [5, 6, 9, 15, 16, 20, 21, 0x2100, 0x2101, 0x3000, 0x4110, 0x4140, 0x6100, 0x7002] u (execRolled part child m u) := by
  have h := Keeps.refl [5, 6, 9, 15, 16, 20, 21, 0x2100, 0x2101, 0x3000, 0x4110, 0x4140, 0x6100, 0x7002] u
  have hT := Sub.rfl (a := [5, 6, 9, 15, 16, 20, 21, 0x2100, 0x2101, 0x3000, 0x4110, 0x4140, 0x6100, 0x7002])
  unfold execRolled
  repeat' first
    | with_reducible assumption
    | exact Sub.of rfl hT
    | with_reducible apply fromRank_keeps
    | with_reducible apply rolledRx_keeps
    | with_reducible apply OutKeeps.next
    | with_reducible refine Keeps.ite ?_ ?_
    | with_reducible intro _

theorem execSealVote_keeps {u : State} {part : ℕ} :
    OutKeeps [2, 3, 4, 5, 6, 7, 8, 9, 11, 12, 13, 15, 16, 19, 20, 21, 0x2100, 0x2101, 0x3000, 0x3021, 0x3410, 0x4000, 0x4001, 0x4010, 0x4110, 0x4140, 0x4400, 0x5804, 0x6100, 0x6101, 0x6102, 0x6202, 0x7002, 0x8200, 0x9000, 0x9001, 0x9010] u (execSealVote part u) := by
  have h := Keeps.refl [2, 3, 4, 5, 6, 7, 8, 9, 11, 12, 13, 15, 16, 19, 20, 21, 0x2100, 0x2101, 0x3000, 0x3021, 0x3410, 0x4000, 0x4001, 0x4010, 0x4110, 0x4140, 0x4400, 0x5804, 0x6100, 0x6101, 0x6102, 0x6202, 0x7002, 0x8200, 0x9000, 0x9001, 0x9010] u
  have hT := Sub.rfl (a := [2, 3, 4, 5, 6, 7, 8, 9, 11, 12, 13, 15, 16, 19, 20, 21, 0x2100, 0x2101, 0x3000, 0x3021, 0x3410, 0x4000, 0x4001, 0x4010, 0x4110, 0x4140, 0x4400, 0x5804, 0x6100, 0x6101, 0x6102, 0x6202, 0x7002, 0x8200, 0x9000, 0x9001, 0x9010])
  unfold execSealVote
  repeat' first
    | with_reducible assumption
    | exact Sub.of rfl hT
    | with_reducible apply sealVote_keeps
    | with_reducible apply OutKeeps.next

theorem tryRun_keeps {T : List Nat} {s u : State} {p : ℕ}
    (hT : Sub [4, 5, 6, 9, 15, 16, 20, 21, 0x2100, 0x2101, 0x3000, 0x4110, 0x4140, 0x5801, 0x6100, 0x6101, 0x6102, 0x7002] T) (h : Keeps T s u) : Keeps T s (tryRun u p) := by
  unfold tryRun
  repeat' first
    | with_reducible assumption
    | exact Sub.of rfl hT
    | with_reducible apply runStart_keeps
    | with_reducible apply applyStep_keeps
    | with_reducible refine Keeps.ite ?_ ?_

theorem execCommit_keeps {u : State} {part : ℕ} {c : Commit} :
    OutKeeps [2, 3, 4, 5, 6, 7, 8, 9, 11, 12, 13, 15, 16, 19, 20, 21, 0x2100, 0x2101, 0x3000, 0x3021, 0x3410, 0x4000, 0x4001, 0x4010, 0x4110, 0x4140, 0x4400, 0x5804, 0x6100, 0x6101, 0x6102, 0x6202, 0x7002, 0x8200, 0x9000, 0x9001, 0x9010] u (execCommit part c u) := by
  have h := Keeps.refl [2, 3, 4, 5, 6, 7, 8, 9, 11, 12, 13, 15, 16, 19, 20, 21, 0x2100, 0x2101, 0x3000, 0x3021, 0x3410, 0x4000, 0x4001, 0x4010, 0x4110, 0x4140, 0x4400, 0x5804, 0x6100, 0x6101, 0x6102, 0x6202, 0x7002, 0x8200, 0x9000, 0x9001, 0x9010] u
  have hT := Sub.rfl (a := [2, 3, 4, 5, 6, 7, 8, 9, 11, 12, 13, 15, 16, 19, 20, 21, 0x2100, 0x2101, 0x3000, 0x3021, 0x3410, 0x4000, 0x4001, 0x4010, 0x4110, 0x4140, 0x4400, 0x5804, 0x6100, 0x6101, 0x6102, 0x6202, 0x7002, 0x8200, 0x9000, 0x9001, 0x9010])
  unfold execCommit
  repeat' first
    | with_reducible assumption
    | exact Sub.of rfl hT
    | with_reducible apply fromParent_keeps
    | with_reducible apply commit_keeps
    | with_reducible apply OutKeeps.next
    | with_reducible refine Keeps.ite ?_ ?_
    | with_reducible intro _

theorem execRolledResend_keeps {u : State} {part : ℕ} :
    OutKeeps [5, 6, 9, 15, 16, 20, 21, 0x2100, 0x2101, 0x3000, 0x4110, 0x4140, 0x6100, 0x7002] u (execRolledResend part u) := by
  have h := Keeps.refl [5, 6, 9, 15, 16, 20, 21, 0x2100, 0x2101, 0x3000, 0x4110, 0x4140, 0x6100, 0x7002] u
  have hT := Sub.rfl (a := [5, 6, 9, 15, 16, 20, 21, 0x2100, 0x2101, 0x3000, 0x4110, 0x4140, 0x6100, 0x7002])
  unfold execRolledResend
  repeat' first
    | with_reducible assumption
    | exact Sub.of rfl hT
    | with_reducible apply sendRolled_keeps
    | with_reducible apply OutKeeps.next
    | with_reducible refine Keeps.ite ?_ ?_

end Sys2Proof.Machine
end

