-- ==== Sys2Proof/Laws/KeepsBuddy.lean ====
section
/-! SUPPORT. What the functions of `Machine/Buddy.lean` keep. -/

namespace Sys2Proof.Machine

open Sys2Proof

theorem sendPage_keeps {T : List Nat} {s u : State} {p : ℕ} {step : ℕ} {page : ℕ} {filling : Bool} {a : Option ℕ} {ecc : List EccHit}
    (hT : Sub [6, 8, 9, 13, 16, 20, 0x3410, 0x3411, 0x4110, 0x4140, 0x6202, 0x7002, 0x9000, 0x9001, 0x9010] T) (h : Keeps T s u) : Keeps T s (sendPage u p step page filling a ecc) := by
  unfold sendPage
  repeat' first
    | with_reducible assumption
    | exact Sub.of rfl hT
    | with_reducible apply emit_keeps
    | with_reducible apply chipRead_keeps
    | with_reducible refine Keeps.ite ?_ ?_
    | with_reducible refine KeepsP.ite ?_ ?_
    | with_reducible apply KeepsP.fst
    | (extract_lets +onlyGivenNames x; first | refine (fun hx => ?_ : Keeps _ _ x → _) ?_ | refine (fun hx => ?_ : KeepsP _ _ x → _) ?_ | skip)
    | with_reducible intro _
    | split

theorem fillSend_keeps {T : List Nat} {s u : State} {p : ℕ} {ecc : List EccHit}
    (hT : Sub [6, 8, 9, 13, 16, 20, 0x3410, 0x3411, 0x4110, 0x4140, 0x6202, 0x7002, 0x9000, 0x9001, 0x9010] T) (h : Keeps T s u) : Keeps T s (fillSend u p ecc) := by
  unfold fillSend
  repeat' first
    | with_reducible assumption
    | exact Sub.of rfl hT
    | with_reducible apply modPart_keeps
    | with_reducible apply sendPage_keeps
    | with_reducible refine Keeps.ite ?_ ?_
    | (extract_lets +onlyGivenNames x; first | refine (fun hx => ?_ : Keeps _ _ x → _) ?_ | refine (fun hx => ?_ : KeepsP _ _ x → _) ?_ | skip)
    | with_reducible intro _
    | split

theorem pageAck_keeps {T : List Nat} {s u : State} {p : ℕ} {step : ℕ} {page : ℕ} {filling : Bool} {refused : Bool}
    (hT : Sub [6, 16, 0x6102, 0x7002] T) (h : Keeps T s u) : Keeps T s (pageAck u p step page filling refused) := by
  unfold pageAck
  repeat' first
    | with_reducible assumption
    | exact Sub.of rfl hT
    | with_reducible apply fillStart_keeps
    | with_reducible apply modPart_keeps
    | with_reducible apply buddySeal_keeps
    | with_reducible apply catchUp_keeps
    | with_reducible refine Keeps.ite ?_ ?_

theorem execDeltaPageAck_keeps {u : State} {part : ℕ} {step : ℕ} {page : ℕ} {filling : Bool} {refused : Bool} :
    OutKeeps [6, 16, 0x6102, 0x7002] u (execDeltaPageAck part step page filling refused u) := by
  have h := Keeps.refl [6, 16, 0x6102, 0x7002] u
  have hT := Sub.rfl (a := [6, 16, 0x6102, 0x7002])
  unfold execDeltaPageAck
  repeat' first
    | with_reducible assumption
    | exact Sub.of rfl hT
    | with_reducible apply pageAck_keeps
    | with_reducible apply OutKeeps.next

theorem setArea_keeps {T : List Nat} {s u : State} {a : BuddyArea}
    (hT : Sub [7] T) (h : Keeps T s u) : Keeps T s (setArea u a) := by
  unfold setArea
  repeat' first
    | with_reducible assumption
    | exact Sub.of rfl hT
    | with_reducible apply setBuddies_keeps

theorem mergeDone_keeps {T : List Nat} {s u : State} {chip : ℕ} {part : ℕ}
    (hT : Sub [7] T) (h : Keeps T s u) : Keeps T s (mergeDone u chip part) := by
  unfold mergeDone
  repeat' first
    | with_reducible assumption
    | exact Sub.of rfl hT
    | with_reducible apply setArea_keeps
    | with_reducible refine Keeps.ite ?_ ?_
    | (extract_lets +onlyGivenNames x; first | refine (fun hx => ?_ : Keeps _ _ x → _) ?_ | refine (fun hx => ?_ : KeepsP _ _ x → _) ?_ | skip)
    | with_reducible intro _
    | split

theorem execMergeComplete_keeps {u : State} {srcChip : ℕ} {srcPart : ℕ} :
    OutKeeps [7] u (execMergeComplete srcChip srcPart u) := by
  have h := Keeps.refl [7] u
  have hT := Sub.rfl (a := [7])
  unfold execMergeComplete
  repeat' first
    | with_reducible assumption
    | exact Sub.of rfl hT
    | with_reducible apply mergeDone_keeps
    | with_reducible apply OutKeeps.next

theorem pageRx_keeps {T : List Nat} {s u : State} {d : DeltaPage}
    (hT : Sub [7, 14, 16, 20, 0x2021, 0x7002] T) (h : Keeps T s u) : Keeps T s (pageRx u d) := by
  unfold pageRx
  repeat' first
    | with_reducible assumption
    | exact Sub.of rfl hT
    | with_reducible apply emit_keeps
    | with_reducible apply dropLate_keeps
    | with_reducible apply setArea_keeps
    | with_reducible refine Keeps.ite ?_ ?_

theorem execDeltaPageReceive_keeps {u : State} {p : DeltaPage} :
    OutKeeps [7, 14, 16, 20, 0x2021, 0x7002] u (execDeltaPageReceive p u) := by
  have h := Keeps.refl [7, 14, 16, 20, 0x2021, 0x7002] u
  have hT := Sub.rfl (a := [7, 14, 16, 20, 0x2021, 0x7002])
  unfold execDeltaPageReceive
  repeat' first
    | with_reducible assumption
    | exact Sub.of rfl hT
    | with_reducible apply pageRx_keeps
    | with_reducible apply OutKeeps.next

theorem adoptRefuse_keeps {T : List Nat} {s u : State} {p : ℕ} {reason : ℕ}
    (hT : Sub [16, 0x3001, 0x6103, 0x7002] T) (h : Keeps T s u) : Keeps T s (adoptRefuse u p reason) := by
  unfold adoptRefuse
  repeat' first
    | with_reducible assumption
    | exact Sub.of rfl hT
    | with_reducible apply loadRegs_keeps
    | with_reducible apply record_keeps
    | with_reducible apply wr_keeps
    | with_reducible refine Keeps.ite ?_ ?_

theorem adopted_keeps {T : List Nat} {s u : State} {p : ℕ} {pages : List (ℕ × PageImage)}
    (hT : Sub [2, 3, 5, 6, 9, 15, 16, 20, 21, 0x2100, 0x2101, 0x3000, 0x4110, 0x4140, 0x6100, 0x6102, 0x6103, 0x7002] T) (h : Keeps T s u) : Keeps T s (adopted u p pages) := by
  unfold adopted
  repeat' first
    | with_reducible assumption
    | exact Sub.of rfl hT
    | with_reducible apply each_keeps
    | with_reducible apply putPage_keeps
    | with_reducible apply wr_keeps
    | with_reducible apply setBuddyState_keeps
    | with_reducible apply modPart_keeps
    | with_reducible apply sendRolled_keeps
    | with_reducible apply record_keeps
    | with_reducible refine Keeps.ite ?_ ?_
    | (extract_lets +onlyGivenNames x; first | refine (fun hx => ?_ : Keeps _ _ x → _) ?_ | refine (fun hx => ?_ : KeepsP _ _ x → _) ?_ | skip)
    | with_reducible intro _

theorem sealBuddy_keeps {T : List Nat} {s u : State} {p : ℕ} {v : ℕ}
    (hT : Sub [6, 16, 0x6102, 0x7002] T) (h : Keeps T s u) : KeepsP T s (sealBuddy u p v) := by
  unfold sealBuddy
  repeat' first
    | with_reducible assumption
    | exact Sub.of rfl hT
    | with_reducible apply wr_keeps
    | with_reducible apply done_keeps
    | with_reducible apply buddyNone_keeps
    | with_reducible apply fillStart_keeps
    | with_reducible apply deny_keeps
    | with_reducible refine Keeps.ite ?_ ?_
    | with_reducible refine KeepsP.ite ?_ ?_

theorem adopt_keeps {T : List Nat} {s u : State} {p : ℕ} {h' : BuddyHeader}
    (hT : Sub [6, 16, 0x3001, 0x6103, 0x7002] T) (h : Keeps T s u) : KeepsP T s (adopt u p h') := by
  unfold adopt
  repeat' first
    | with_reducible assumption
    | exact Sub.of rfl hT
    | with_reducible apply deny_keeps
    | with_reducible apply done_keeps
    | with_reducible apply adoptRefuse_keeps
    | with_reducible apply modPart_keeps
    | with_reducible apply wr_keeps
    | with_reducible apply record_keeps
    | with_reducible refine Keeps.ite ?_ ?_
    | with_reducible refine KeepsP.ite ?_ ?_

theorem execSealAdoptCmd_keeps {u : State} {who : Who} {part : ℕ} {h' : BuddyHeader} :
    OutKeeps [6, 16, 20, 0x3001, 0x6103, 0x7002] u (execSealAdoptCmd who part h' u) := by
  have h := Keeps.refl [6, 16, 20, 0x3001, 0x6103, 0x7002] u
  have hT := Sub.rfl (a := [6, 16, 20, 0x3001, 0x6103, 0x7002])
  unfold execSealAdoptCmd
  repeat' first
    | with_reducible assumption
    | exact Sub.of rfl hT
    | with_reducible apply guard_keeps
    | with_reducible apply adopt_keeps
    | with_reducible apply OutKeeps.next
    | with_reducible refine Keeps.ite ?_ ?_
    | with_reducible refine KeepsP.ite ?_ ?_
    | with_reducible apply KeepsP.fst
    | with_reducible intro _

theorem countDelta_keeps {T : List Nat} {s u : State} {p : ℕ}
    (hT : Sub [0x6102] T) (h : Keeps T s u) : Keeps T s (countDelta u p) := by
  unfold countDelta
  repeat' first
    | with_reducible assumption
    | exact Sub.of rfl hT
    | with_reducible apply bumpSat_keeps
    | with_reducible refine Keeps.ite ?_ ?_

theorem partNotice_keeps {T : List Nat} {s u : State} {p : ℕ} {subject : ℕ}
    (hT : Sub [2, 3, 4, 5, 6, 7, 8, 9, 11, 12, 13, 15, 16, 19, 20, 21, 0x2100, 0x2101, 0x3000, 0x3021, 0x3410, 0x4000, 0x4001, 0x4010, 0x4110, 0x4140, 0x4400, 0x5804, 0x6100, 0x6101, 0x6102, 0x6202, 0x7002, 0x8200, 0x9000, 0x9001, 0x9010] T) (h : Keeps T s u) : Keeps T s (partNotice u p subject) := by
  unfold partNotice
  repeat' first
    | with_reducible assumption
    | exact Sub.of rfl hT
    | with_reducible apply buddyNone_keeps
    | with_reducible apply doNotSeal_keeps
    | with_reducible apply restart_keeps
    | with_reducible apply rollback_keeps
    | with_reducible apply commit_keeps
    | with_reducible refine Keeps.ite ?_ ?_

theorem execAdoptionPullComplete_keeps {u : State} {part : ℕ} {pages : List (ℕ × PageImage)} :
    OutKeeps [2, 3, 5, 6, 9, 15, 16, 20, 21, 0x2100, 0x2101, 0x3000, 0x4110, 0x4140, 0x6100, 0x6102, 0x6103, 0x7002] u (execAdoptionPullComplete part pages u) := by
  have h := Keeps.refl [2, 3, 5, 6, 9, 15, 16, 20, 21, 0x2100, 0x2101, 0x3000, 0x4110, 0x4140, 0x6100, 0x6102, 0x6103, 0x7002] u
  have hT := Sub.rfl (a := [2, 3, 5, 6, 9, 15, 16, 20, 21, 0x2100, 0x2101, 0x3000, 0x4110, 0x4140, 0x6100, 0x6102, 0x6103, 0x7002])
  unfold execAdoptionPullComplete
  repeat' first
    | with_reducible assumption
    | exact Sub.of rfl hT
    | with_reducible apply adopted_keeps
    | with_reducible apply OutKeeps.next

theorem deltaSend_keeps {T : List Nat} {s u : State} {p : ℕ} {ecc : List EccHit}
    (hT : Sub [6, 8, 9, 13, 16, 20, 0x3410, 0x3411, 0x4110, 0x4140, 0x6102, 0x6202, 0x7002, 0x9000, 0x9001, 0x9010] T) (h : Keeps T s u) : Keeps T s (deltaSend u p ecc) := by
  unfold deltaSend
  repeat' first
    | with_reducible assumption
    | exact Sub.of rfl hT
    | with_reducible apply countDelta_keeps
    | with_reducible apply modPart_keeps
    | with_reducible apply sendPage_keeps
    | with_reducible refine Keeps.ite ?_ ?_
    | (extract_lets +onlyGivenNames x; first | refine (fun hx => ?_ : Keeps _ _ x → _) ?_ | refine (fun hx => ?_ : KeepsP _ _ x → _) ?_ | skip)
    | with_reducible intro _
    | split

theorem execSealBuddy_keeps {u : State} {who : Who} {part : ℕ} {value : ℕ} :
    OutKeeps [6, 16, 20, 0x6102, 0x7002] u (execSealBuddy who part value u) := by
  have h := Keeps.refl [6, 16, 20, 0x6102, 0x7002] u
  have hT := Sub.rfl (a := [6, 16, 20, 0x6102, 0x7002])
  unfold execSealBuddy
  repeat' first
    | with_reducible assumption
    | exact Sub.of rfl hT
    | with_reducible apply guard_keeps
    | with_reducible apply sealBuddy_keeps
    | with_reducible apply OutKeeps.next
    | with_reducible refine Keeps.ite ?_ ?_
    | with_reducible refine KeepsP.ite ?_ ?_
    | with_reducible apply KeepsP.fst
    | with_reducible intro _

theorem execDeltaPageSend_keeps {u : State} {r : PageRead} :
    OutKeeps [6, 8, 9, 13, 16, 20, 0x3410, 0x3411, 0x4110, 0x4140, 0x6102, 0x6202, 0x7002, 0x9000, 0x9001, 0x9010] u (execDeltaPageSend r u) := by
  have h := Keeps.refl [6, 8, 9, 13, 16, 20, 0x3410, 0x3411, 0x4110, 0x4140, 0x6102, 0x6202, 0x7002, 0x9000, 0x9001, 0x9010] u
  have hT := Sub.rfl (a := [6, 8, 9, 13, 16, 20, 0x3410, 0x3411, 0x4110, 0x4140, 0x6102, 0x6202, 0x7002, 0x9000, 0x9001, 0x9010])
  unfold execDeltaPageSend
  repeat' first
    | with_reducible assumption
    | exact Sub.of rfl hT
    | with_reducible apply deltaSend_keeps
    | with_reducible apply OutKeeps.next

theorem execFillingPageSend_keeps {u : State} {r : PageRead} :
    OutKeeps [6, 8, 9, 13, 16, 20, 0x3410, 0x3411, 0x4110, 0x4140, 0x6202, 0x7002, 0x9000, 0x9001, 0x9010] u (execFillingPageSend r u) := by
  have h := Keeps.refl [6, 8, 9, 13, 16, 20, 0x3410, 0x3411, 0x4110, 0x4140, 0x6202, 0x7002, 0x9000, 0x9001, 0x9010] u
  have hT := Sub.rfl (a := [6, 8, 9, 13, 16, 20, 0x3410, 0x3411, 0x4110, 0x4140, 0x6202, 0x7002, 0x9000, 0x9001, 0x9010])
  unfold execFillingPageSend
  repeat' first
    | with_reducible assumption
    | exact Sub.of rfl hT
    | with_reducible apply fillSend_keeps
    | with_reducible apply OutKeeps.next

end Sys2Proof.Machine
end

