-- ==== Sys2Proof/Laws/KeepsHostCtl.lean ====
section
/-! SUPPORT. What the functions of `Machine/HostCtl.lean` keep. -/

namespace Sys2Proof.Machine

open Sys2Proof

theorem disableRun_keeps {T : List Nat} {s u : State} {m : ℕ}
    (hT : Sub [5, 6, 9, 12, 16, 20, 0x3000, 0x4110, 0x4140, 0x7002] T) (h : Keeps T s u) : Keeps T s (disableRun u m) := by
  unfold disableRun
  repeat' first
    | with_reducible assumption
    | exact Sub.of rfl hT
    | with_reducible apply runStop_keeps
    | with_reducible apply moverDone_keeps
    | with_reducible refine Keeps.ite ?_ ?_

theorem forceCmd_keeps {T : List Nat} {s u : State} {m : ℕ}
    (hT : Sub [2, 3, 5, 6, 8, 9, 11, 12, 13, 14, 16, 19, 20, 0x2020, 0x2021, 0x3000, 0x3001, 0x3010, 0x3011, 0x3021, 0x3403, 0x3410, 0x3411, 0x4110, 0x4120, 0x4130, 0x4140, 0x5001, 0x6101, 0x6102, 0x6202, 0x7002, 0x8100, 0x9000, 0x9001, 0x9010] T) (h : Keeps T s u) : Keeps T s (forceCmd u m) := by
  unfold forceCmd
  repeat' first
    | with_reducible assumption
    | exact Sub.of rfl hT
    | with_reducible apply moverDone_keeps
    | with_reducible apply runStop_keeps
    | with_reducible apply moverFail_keeps
    | with_reducible apply abandon_keeps
    | with_reducible apply complete_keeps
    | with_reducible refine Keeps.ite ?_ ?_

theorem forcedDisable_keeps {T : List Nat} {s u : State} {f : ℕ} {g : ℕ}
    (hT : Sub [2, 3, 5, 6, 8, 9, 11, 12, 13, 14, 16, 19, 20, 0x2020, 0x2021, 0x3000, 0x3001, 0x3010, 0x3011, 0x3021, 0x3403, 0x3410, 0x3411, 0x4110, 0x4120, 0x4130, 0x4140, 0x5001, 0x6101, 0x6102, 0x6202, 0x7002, 0x8100, 0x9000, 0x9001, 0x9010] T) (h : Keeps T s u) : Keeps T s (forcedDisable u f g) := by
  unfold forcedDisable
  repeat' first
    | with_reducible assumption
    | exact Sub.of rfl hT
    | with_reducible apply each_keeps
    | with_reducible apply modQueue_keeps
    | with_reducible apply forceCmd_keeps
    | with_reducible apply queueDone_keeps
    | with_reducible refine Keeps.ite ?_ ?_
    | (extract_lets +onlyGivenNames x; first | refine (fun hx => ?_ : Keeps _ _ x → _) ?_ | refine (fun hx => ?_ : KeepsP _ _ x → _) ?_ | skip)
    | with_reducible intro _

theorem normalDisable_keeps {T : List Nat} {s u : State} {f : ℕ} {g : ℕ}
    (hT : Sub [5, 6, 9, 12, 16, 20, 0x3000, 0x4110, 0x4140, 0x7002] T) (h : Keeps T s u) : Keeps T s (normalDisable u f g) := by
  unfold normalDisable
  repeat' first
    | with_reducible assumption
    | exact Sub.of rfl hT
    | with_reducible apply drained_keeps
    | with_reducible apply each_keeps
    | with_reducible apply modQueue_keeps
    | with_reducible apply disableRun_keeps
    | with_reducible refine Keeps.ite ?_ ?_
    | with_reducible intro _

theorem disableAll_keeps {T : List Nat} {s u : State} {f : ℕ} {force : Bool}
    (hT : Sub [2, 3, 5, 6, 8, 9, 11, 12, 13, 14, 16, 19, 20, 0x2020, 0x2021, 0x3000, 0x3001, 0x3010, 0x3011, 0x3021, 0x3403, 0x3410, 0x3411, 0x4110, 0x4120, 0x4130, 0x4140, 0x5001, 0x6101, 0x6102, 0x6202, 0x7002, 0x8100, 0x9000, 0x9001, 0x9010] T) (h : Keeps T s u) : Keeps T s (disableAll u f force) := by
  unfold disableAll
  repeat' first
    | with_reducible assumption
    | exact Sub.of rfl hT
    | with_reducible apply each_keeps
    | with_reducible apply forcedDisable_keeps
    | with_reducible apply normalDisable_keeps
    | with_reducible refine Keeps.ite ?_ ?_
    | with_reducible intro _

theorem resetOne_keeps {T : List Nat} {s u : State} {cause : ℕ} {f : ℕ}
    (hT : Sub [2, 3, 5, 6, 8, 9, 11, 12, 13, 14, 16, 19, 20, 0x2020, 0x2021, 0x3000, 0x3001, 0x3010, 0x3011, 0x3021, 0x3403, 0x3410, 0x3411, 0x4110, 0x4120, 0x4130, 0x4140, 0x5001, 0x6101, 0x6102, 0x6202, 0x7002, 0x8100, 0x9000, 0x9001, 0x9010] T) (h : Keeps T s u) : Keeps T s (resetOne u cause f) := by
  unfold resetOne
  repeat' first
    | with_reducible assumption
    | exact Sub.of rfl hT
    | with_reducible apply disableAll_keeps
    | with_reducible apply modHost_keeps
    | with_reducible apply each_keeps
    | with_reducible apply runStop_keeps
    | with_reducible apply msix_keeps
    | with_reducible apply record_keeps
    | exact fun _ w => w
    | exact fun _ w => memWrite_wf _ _ w
    | with_reducible refine Keeps.ite ?_ ?_
    | (extract_lets +onlyGivenNames x; first | refine (fun hx => ?_ : Keeps _ _ x → _) ?_ | refine (fun hx => ?_ : KeepsP _ _ x → _) ?_ | skip)
    | with_reducible intro _

theorem funcReset_keeps {T : List Nat} {s u : State} {cause : ℕ} {f : ℕ}
    (hT : Sub [2, 3, 5, 6, 8, 9, 11, 12, 13, 14, 16, 19, 20, 0x2020, 0x2021, 0x3000, 0x3001, 0x3010, 0x3011, 0x3021, 0x3403, 0x3410, 0x3411, 0x4110, 0x4120, 0x4130, 0x4140, 0x5001, 0x6101, 0x6102, 0x6202, 0x7002, 0x8100, 0x9000, 0x9001, 0x9010] T) (h : Keeps T s u) : Keeps T s (funcReset u cause f) := by
  unfold funcReset
  repeat' first
    | with_reducible assumption
    | exact Sub.of rfl hT
    | with_reducible apply each_keeps
    | with_reducible apply resetOne_keeps
    | with_reducible refine Keeps.ite ?_ ?_
    | with_reducible intro _

theorem execFunctionReset_keeps {u : State} {who : Who} {func : ℕ} :
    OutKeeps [2, 3, 5, 6, 8, 9, 11, 12, 13, 14, 16, 19, 20, 0x2020, 0x2021, 0x3000, 0x3001, 0x3010, 0x3011, 0x3021, 0x3403, 0x3410, 0x3411, 0x4110, 0x4120, 0x4130, 0x4140, 0x5001, 0x6101, 0x6102, 0x6202, 0x7002, 0x8100, 0x9000, 0x9001, 0x9010] u (execFunctionReset who func u) := by
  have h := Keeps.refl [2, 3, 5, 6, 8, 9, 11, 12, 13, 14, 16, 19, 20, 0x2020, 0x2021, 0x3000, 0x3001, 0x3010, 0x3011, 0x3021, 0x3403, 0x3410, 0x3411, 0x4110, 0x4120, 0x4130, 0x4140, 0x5001, 0x6101, 0x6102, 0x6202, 0x7002, 0x8100, 0x9000, 0x9001, 0x9010] u
  have hT := Sub.rfl (a := [2, 3, 5, 6, 8, 9, 11, 12, 13, 14, 16, 19, 20, 0x2020, 0x2021, 0x3000, 0x3001, 0x3010, 0x3011, 0x3021, 0x3403, 0x3410, 0x3411, 0x4110, 0x4120, 0x4130, 0x4140, 0x5001, 0x6101, 0x6102, 0x6202, 0x7002, 0x8100, 0x9000, 0x9001, 0x9010])
  unfold execFunctionReset
  repeat' first
    | with_reducible assumption
    | exact Sub.of rfl hT
    | with_reducible apply guard_keeps
    | with_reducible apply done_keeps
    | with_reducible apply funcReset_keeps
    | with_reducible apply OutKeeps.next
    | with_reducible refine Keeps.ite ?_ ?_
    | with_reducible refine KeepsP.ite ?_ ?_
    | with_reducible apply KeepsP.fst
    | with_reducible intro _

theorem planRun_keeps {T : List Nat} {s u : State} {m : ℕ}
    (hT : Sub [4, 5, 6, 9, 12, 15, 16, 20, 21, 0x2100, 0x2101, 0x3000, 0x4110, 0x4140, 0x5801, 0x6100, 0x6101, 0x6102, 0x7002] T) (h : Keeps T s u) : Keeps T s (planRun u m) := by
  unfold planRun
  repeat' first
    | with_reducible assumption
    | exact Sub.of rfl hT
    | with_reducible apply beginOwned_keeps
    | with_reducible apply moverDone_keeps
    | with_reducible apply tryRun_keeps
    | with_reducible apply modPart_keeps
    | with_reducible refine Keeps.ite ?_ ?_
    | (extract_lets +onlyGivenNames x; first | refine (fun hx => ?_ : Keeps _ _ x → _) ?_ | refine (fun hx => ?_ : KeepsP _ _ x → _) ?_ | skip)
    | with_reducible intro _

theorem execFunctionNormalDisableAll_keeps {u : State} {who : Who} {func : ℕ} :
    OutKeeps [2, 3, 5, 6, 8, 9, 11, 12, 13, 14, 16, 19, 20, 0x2020, 0x2021, 0x3000, 0x3001, 0x3010, 0x3011, 0x3021, 0x3403, 0x3410, 0x3411, 0x4110, 0x4120, 0x4130, 0x4140, 0x5001, 0x6101, 0x6102, 0x6202, 0x7002, 0x8100, 0x9000, 0x9001, 0x9010] u (execFunctionNormalDisableAll who func u) := by
  have h := Keeps.refl [2, 3, 5, 6, 8, 9, 11, 12, 13, 14, 16, 19, 20, 0x2020, 0x2021, 0x3000, 0x3001, 0x3010, 0x3011, 0x3021, 0x3403, 0x3410, 0x3411, 0x4110, 0x4120, 0x4130, 0x4140, 0x5001, 0x6101, 0x6102, 0x6202, 0x7002, 0x8100, 0x9000, 0x9001, 0x9010] u
  have hT := Sub.rfl (a := [2, 3, 5, 6, 8, 9, 11, 12, 13, 14, 16, 19, 20, 0x2020, 0x2021, 0x3000, 0x3001, 0x3010, 0x3011, 0x3021, 0x3403, 0x3410, 0x3411, 0x4110, 0x4120, 0x4130, 0x4140, 0x5001, 0x6101, 0x6102, 0x6202, 0x7002, 0x8100, 0x9000, 0x9001, 0x9010])
  unfold execFunctionNormalDisableAll
  repeat' first
    | with_reducible assumption
    | exact Sub.of rfl hT
    | with_reducible apply guard_keeps
    | with_reducible apply done_keeps
    | with_reducible apply disableAll_keeps
    | with_reducible apply OutKeeps.next
    | with_reducible refine Keeps.ite ?_ ?_
    | with_reducible refine KeepsP.ite ?_ ?_
    | with_reducible apply KeepsP.fst
    | with_reducible intro _

theorem planUnload_keeps {T : List Nat} {s u : State} {m : ℕ}
    (hT : Sub [5, 6, 9, 12, 16, 19, 20, 0x3000, 0x3041, 0x4110, 0x4140, 0x6102, 0x6103, 0x7002] T) (h : Keeps T s u) : Keeps T s (planUnload u m) := by
  unfold planUnload
  repeat' first
    | with_reducible assumption
    | exact Sub.of rfl hT
    | with_reducible apply beginOwned_keeps
    | with_reducible apply runStop_keeps
    | with_reducible apply moverDone_keeps
    | with_reducible apply unload_keeps
    | with_reducible refine Keeps.ite ?_ ?_
    | (extract_lets +onlyGivenNames x; first | refine (fun hx => ?_ : Keeps _ _ x → _) ?_ | refine (fun hx => ?_ : KeepsP _ _ x → _) ?_ | skip)
    | with_reducible intro _

theorem execPlanUnload_keeps {u : State} {mover : ℕ} :
    OutKeeps [5, 6, 9, 12, 16, 19, 20, 0x3000, 0x3041, 0x4110, 0x4140, 0x6102, 0x6103, 0x7002] u (execPlanUnload mover u) := by
  have h := Keeps.refl [5, 6, 9, 12, 16, 19, 20, 0x3000, 0x3041, 0x4110, 0x4140, 0x6102, 0x6103, 0x7002] u
  have hT := Sub.rfl (a := [5, 6, 9, 12, 16, 19, 20, 0x3000, 0x3041, 0x4110, 0x4140, 0x6102, 0x6103, 0x7002])
  unfold execPlanUnload
  repeat' first
    | with_reducible assumption
    | exact Sub.of rfl hT
    | with_reducible apply planUnload_keeps
    | with_reducible apply OutKeeps.next

theorem runWaiting_keeps {T : List Nat} {s u : State} {p : ℕ}
    (hT : Sub [4, 5, 6, 9, 12, 15, 16, 20, 21, 0x2100, 0x2101, 0x3000, 0x4110, 0x4140, 0x5801, 0x6100, 0x6101, 0x6102, 0x7002] T) (h : Keeps T s u) : Keeps T s (runWaiting u p) := by
  unfold runWaiting
  repeat' first
    | with_reducible assumption
    | exact Sub.of rfl hT
    | with_reducible apply tryRun_keeps
    | with_reducible apply modMover_keeps
    | with_reducible refine Keeps.ite ?_ ?_
    | with_reducible intro _
    | split

theorem execZeroingComplete_keeps {u : State} {u' : ZeroUnit} :
    OutKeeps [2, 3, 4, 5, 6, 8, 9, 11, 12, 13, 14, 15, 16, 19, 20, 21, 0x2020, 0x2021, 0x2100, 0x2101, 0x3000, 0x3001, 0x3010, 0x3011, 0x3021, 0x3401, 0x3402, 0x3403, 0x3410, 0x3411, 0x4110, 0x4120, 0x4130, 0x4140, 0x5801, 0x6100, 0x6101, 0x6102, 0x6202, 0x7002, 0x8100, 0x9000, 0x9001, 0x9010] u (execZeroingComplete u' u) := by
  have h := Keeps.refl [2, 3, 4, 5, 6, 8, 9, 11, 12, 13, 14, 15, 16, 19, 20, 21, 0x2020, 0x2021, 0x2100, 0x2101, 0x3000, 0x3001, 0x3010, 0x3011, 0x3021, 0x3401, 0x3402, 0x3403, 0x3410, 0x3411, 0x4110, 0x4120, 0x4130, 0x4140, 0x5801, 0x6100, 0x6101, 0x6102, 0x6202, 0x7002, 0x8100, 0x9000, 0x9001, 0x9010] u
  have hT := Sub.rfl (a := [2, 3, 4, 5, 6, 8, 9, 11, 12, 13, 14, 15, 16, 19, 20, 21, 0x2020, 0x2021, 0x2100, 0x2101, 0x3000, 0x3001, 0x3010, 0x3011, 0x3021, 0x3401, 0x3402, 0x3403, 0x3410, 0x3411, 0x4110, 0x4120, 0x4130, 0x4140, 0x5801, 0x6100, 0x6101, 0x6102, 0x6202, 0x7002, 0x8100, 0x9000, 0x9001, 0x9010])
  unfold execZeroingComplete
  repeat' first
    | with_reducible assumption
    | exact Sub.of rfl hT
    | with_reducible apply resumeCmds_keeps
    | with_reducible apply releaseBelow_keeps
    | with_reducible apply zeroComplete_keeps
    | with_reducible apply runWaiting_keeps
    | with_reducible apply OutKeeps.next
    | with_reducible refine Keeps.ite ?_ ?_

theorem execNormalDisable_keeps {u : State} {func : ℕ} {queue : ℕ} :
    OutKeeps [5, 6, 9, 12, 16, 20, 0x3000, 0x4110, 0x4140, 0x7002] u (execNormalDisable func queue u) := by
  have h := Keeps.refl [5, 6, 9, 12, 16, 20, 0x3000, 0x4110, 0x4140, 0x7002] u
  have hT := Sub.rfl (a := [5, 6, 9, 12, 16, 20, 0x3000, 0x4110, 0x4140, 0x7002])
  unfold execNormalDisable
  repeat' first
    | with_reducible assumption
    | exact Sub.of rfl hT
    | with_reducible apply normalDisable_keeps
    | with_reducible apply OutKeeps.next
    | with_reducible refine Keeps.ite ?_ ?_
    | with_reducible intro _
    | split

theorem execForcedDisable_keeps {u : State} {func : ℕ} {queue : ℕ} :
    OutKeeps [2, 3, 5, 6, 8, 9, 11, 12, 13, 14, 16, 19, 20, 0x2020, 0x2021, 0x3000, 0x3001, 0x3010, 0x3011, 0x3021, 0x3403, 0x3410, 0x3411, 0x4110, 0x4120, 0x4130, 0x4140, 0x5001, 0x6101, 0x6102, 0x6202, 0x7002, 0x8100, 0x9000, 0x9001, 0x9010] u (execForcedDisable func queue u) := by
  have h := Keeps.refl [2, 3, 5, 6, 8, 9, 11, 12, 13, 14, 16, 19, 20, 0x2020, 0x2021, 0x3000, 0x3001, 0x3010, 0x3011, 0x3021, 0x3403, 0x3410, 0x3411, 0x4110, 0x4120, 0x4130, 0x4140, 0x5001, 0x6101, 0x6102, 0x6202, 0x7002, 0x8100, 0x9000, 0x9001, 0x9010] u
  have hT := Sub.rfl (a := [2, 3, 5, 6, 8, 9, 11, 12, 13, 14, 16, 19, 20, 0x2020, 0x2021, 0x3000, 0x3001, 0x3010, 0x3011, 0x3021, 0x3403, 0x3410, 0x3411, 0x4110, 0x4120, 0x4130, 0x4140, 0x5001, 0x6101, 0x6102, 0x6202, 0x7002, 0x8100, 0x9000, 0x9001, 0x9010])
  unfold execForcedDisable
  repeat' first
    | with_reducible assumption
    | exact Sub.of rfl hT
    | with_reducible apply forcedDisable_keeps
    | with_reducible apply OutKeeps.next
    | with_reducible refine Keeps.ite ?_ ?_
    | with_reducible intro _
    | split

theorem planStop_keeps {T : List Nat} {s u : State} {m : ℕ}
    (hT : Sub [5, 6, 9, 12, 16, 20, 0x3000, 0x4110, 0x4140, 0x7002] T) (h : Keeps T s u) : Keeps T s (planStop u m) := by
  unfold planStop
  repeat' first
    | with_reducible assumption
    | exact Sub.of rfl hT
    | with_reducible apply beginOwned_keeps
    | with_reducible apply moverDone_keeps
    | with_reducible apply runStop_keeps
    | with_reducible refine Keeps.ite ?_ ?_
    | (extract_lets +onlyGivenNames x; first | refine (fun hx => ?_ : Keeps _ _ x → _) ?_ | refine (fun hx => ?_ : KeepsP _ _ x → _) ?_ | skip)
    | with_reducible intro _

theorem execPlanRun_keeps {u : State} {mover : ℕ} :
    OutKeeps [4, 5, 6, 9, 12, 15, 16, 20, 21, 0x2100, 0x2101, 0x3000, 0x4110, 0x4140, 0x5801, 0x6100, 0x6101, 0x6102, 0x7002] u (execPlanRun mover u) := by
  have h := Keeps.refl [4, 5, 6, 9, 12, 15, 16, 20, 21, 0x2100, 0x2101, 0x3000, 0x4110, 0x4140, 0x5801, 0x6100, 0x6101, 0x6102, 0x7002] u
  have hT := Sub.rfl (a := [4, 5, 6, 9, 12, 15, 16, 20, 21, 0x2100, 0x2101, 0x3000, 0x4110, 0x4140, 0x5801, 0x6100, 0x6101, 0x6102, 0x7002])
  unfold execPlanRun
  repeat' first
    | with_reducible assumption
    | exact Sub.of rfl hT
    | with_reducible apply planRun_keeps
    | with_reducible apply OutKeeps.next

theorem execFunctionLevelReset_keeps {u : State} {func : ℕ} :
    OutKeeps [2, 3, 5, 6, 8, 9, 11, 12, 13, 14, 16, 19, 20, 0x2020, 0x2021, 0x3000, 0x3001, 0x3010, 0x3011, 0x3021, 0x3403, 0x3410, 0x3411, 0x4110, 0x4120, 0x4130, 0x4140, 0x5001, 0x6101, 0x6102, 0x6202, 0x7002, 0x8100, 0x9000, 0x9001, 0x9010] u (execFunctionLevelReset func u) := by
  have h := Keeps.refl [2, 3, 5, 6, 8, 9, 11, 12, 13, 14, 16, 19, 20, 0x2020, 0x2021, 0x3000, 0x3001, 0x3010, 0x3011, 0x3021, 0x3403, 0x3410, 0x3411, 0x4110, 0x4120, 0x4130, 0x4140, 0x5001, 0x6101, 0x6102, 0x6202, 0x7002, 0x8100, 0x9000, 0x9001, 0x9010] u
  have hT := Sub.rfl (a := [2, 3, 5, 6, 8, 9, 11, 12, 13, 14, 16, 19, 20, 0x2020, 0x2021, 0x3000, 0x3001, 0x3010, 0x3011, 0x3021, 0x3403, 0x3410, 0x3411, 0x4110, 0x4120, 0x4130, 0x4140, 0x5001, 0x6101, 0x6102, 0x6202, 0x7002, 0x8100, 0x9000, 0x9001, 0x9010])
  unfold execFunctionLevelReset
  repeat' first
    | with_reducible assumption
    | exact Sub.of rfl hT
    | with_reducible apply funcReset_keeps
    | with_reducible apply OutKeeps.next

theorem execVfEnableClear_keeps {u : State} :
    OutKeeps [2, 3, 5, 6, 8, 9, 11, 12, 13, 14, 16, 19, 20, 0x2020, 0x2021, 0x3000, 0x3001, 0x3010, 0x3011, 0x3021, 0x3403, 0x3410, 0x3411, 0x4110, 0x4120, 0x4130, 0x4140, 0x5000, 0x5001, 0x6101, 0x6102, 0x6202, 0x7002, 0x8100, 0x9000, 0x9001, 0x9010] u (execVfEnableClear u) := by
  have h := Keeps.refl [2, 3, 5, 6, 8, 9, 11, 12, 13, 14, 16, 19, 20, 0x2020, 0x2021, 0x3000, 0x3001, 0x3010, 0x3011, 0x3021, 0x3403, 0x3410, 0x3411, 0x4110, 0x4120, 0x4130, 0x4140, 0x5000, 0x5001, 0x6101, 0x6102, 0x6202, 0x7002, 0x8100, 0x9000, 0x9001, 0x9010] u
  have hT := Sub.rfl (a := [2, 3, 5, 6, 8, 9, 11, 12, 13, 14, 16, 19, 20, 0x2020, 0x2021, 0x3000, 0x3001, 0x3010, 0x3011, 0x3021, 0x3403, 0x3410, 0x3411, 0x4110, 0x4120, 0x4130, 0x4140, 0x5000, 0x5001, 0x6101, 0x6102, 0x6202, 0x7002, 0x8100, 0x9000, 0x9001, 0x9010])
  unfold execVfEnableClear
  repeat' first
    | with_reducible assumption
    | exact Sub.of rfl hT
    | with_reducible apply wr_keeps
    | with_reducible apply each_keeps
    | with_reducible apply funcReset_keeps
    | with_reducible apply OutKeeps.next
    | with_reducible refine Keeps.ite ?_ ?_
    | (extract_lets +onlyGivenNames x; first | refine (fun hx => ?_ : Keeps _ _ x → _) ?_ | refine (fun hx => ?_ : KeepsP _ _ x → _) ?_ | skip)
    | with_reducible intro _

theorem execPlanStop_keeps {u : State} {mover : ℕ} :
    OutKeeps [5, 6, 9, 12, 16, 20, 0x3000, 0x4110, 0x4140, 0x7002] u (execPlanStop mover u) := by
  have h := Keeps.refl [5, 6, 9, 12, 16, 20, 0x3000, 0x4110, 0x4140, 0x7002] u
  have hT := Sub.rfl (a := [5, 6, 9, 12, 16, 20, 0x3000, 0x4110, 0x4140, 0x7002])
  unfold execPlanStop
  repeat' first
    | with_reducible assumption
    | exact Sub.of rfl hT
    | with_reducible apply planStop_keeps
    | with_reducible apply OutKeeps.next

theorem execFunctionForcedDisableAll_keeps {u : State} {who : Who} {func : ℕ} :
    OutKeeps [2, 3, 5, 6, 8, 9, 11, 12, 13, 14, 16, 19, 20, 0x2020, 0x2021, 0x3000, 0x3001, 0x3010, 0x3011, 0x3021, 0x3403, 0x3410, 0x3411, 0x4110, 0x4120, 0x4130, 0x4140, 0x5001, 0x6101, 0x6102, 0x6202, 0x7002, 0x8100, 0x9000, 0x9001, 0x9010] u (execFunctionForcedDisableAll who func u) := by
  have h := Keeps.refl [2, 3, 5, 6, 8, 9, 11, 12, 13, 14, 16, 19, 20, 0x2020, 0x2021, 0x3000, 0x3001, 0x3010, 0x3011, 0x3021, 0x3403, 0x3410, 0x3411, 0x4110, 0x4120, 0x4130, 0x4140, 0x5001, 0x6101, 0x6102, 0x6202, 0x7002, 0x8100, 0x9000, 0x9001, 0x9010] u
  have hT := Sub.rfl (a := [2, 3, 5, 6, 8, 9, 11, 12, 13, 14, 16, 19, 20, 0x2020, 0x2021, 0x3000, 0x3001, 0x3010, 0x3011, 0x3021, 0x3403, 0x3410, 0x3411, 0x4110, 0x4120, 0x4130, 0x4140, 0x5001, 0x6101, 0x6102, 0x6202, 0x7002, 0x8100, 0x9000, 0x9001, 0x9010])
  unfold execFunctionForcedDisableAll
  repeat' first
    | with_reducible assumption
    | exact Sub.of rfl hT
    | with_reducible apply guard_keeps
    | with_reducible apply done_keeps
    | with_reducible apply disableAll_keeps
    | with_reducible apply OutKeeps.next
    | with_reducible refine Keeps.ite ?_ ?_
    | with_reducible refine KeepsP.ite ?_ ?_
    | with_reducible apply KeepsP.fst
    | with_reducible intro _

theorem execHotReset_keeps {u : State} :
    OutKeeps [2, 3, 5, 6, 8, 9, 11, 12, 13, 14, 16, 19, 20, 0x2020, 0x2021, 0x3000, 0x3001, 0x3010, 0x3011, 0x3021, 0x3403, 0x3410, 0x3411, 0x4110, 0x4120, 0x4130, 0x4140, 0x5001, 0x6101, 0x6102, 0x6202, 0x7002, 0x8100, 0x9000, 0x9001, 0x9010] u (execHotReset u) := by
  have h := Keeps.refl [2, 3, 5, 6, 8, 9, 11, 12, 13, 14, 16, 19, 20, 0x2020, 0x2021, 0x3000, 0x3001, 0x3010, 0x3011, 0x3021, 0x3403, 0x3410, 0x3411, 0x4110, 0x4120, 0x4130, 0x4140, 0x5001, 0x6101, 0x6102, 0x6202, 0x7002, 0x8100, 0x9000, 0x9001, 0x9010] u
  have hT := Sub.rfl (a := [2, 3, 5, 6, 8, 9, 11, 12, 13, 14, 16, 19, 20, 0x2020, 0x2021, 0x3000, 0x3001, 0x3010, 0x3011, 0x3021, 0x3403, 0x3410, 0x3411, 0x4110, 0x4120, 0x4130, 0x4140, 0x5001, 0x6101, 0x6102, 0x6202, 0x7002, 0x8100, 0x9000, 0x9001, 0x9010])
  unfold execHotReset
  repeat' first
    | with_reducible assumption
    | exact Sub.of rfl hT
    | with_reducible apply funcReset_keeps
    | with_reducible apply OutKeeps.next

end Sys2Proof.Machine
end

