-- ==== Sys2Proof/Laws/KeepsTally.lean ====
section
/-! SUPPORT. What the functions of `Machine/Tally.lean` keep. -/

namespace Sys2Proof.Machine

open Sys2Proof

/-- A register of a Tally channel stands at the channels' one place. -/
theorem tly_sub {a T : List Nat} {r : Reg} (ch : Nat) (hr : r.index = 0x7100 + ch % 16) (ha : subT [0x7100] a = true)
    (hT : Sub a T) : Sub [regPlace r] T := by
  have : regPlace r = 0x7100 := by
    unfold regPlace; split
    · rfl
    · omega
  exact this ▸ Sub.of ha hT

theorem tlyStatus_keeps {T : List Nat} {s u : State} {ch : ℕ} {lo : ℕ} {w : ℕ} {v : ℕ}
    (hT : Sub [0x7100] T) (h : Keeps T s u) : Keeps T s (tlyStatus u ch lo w v) := by
  unfold tlyStatus
  repeat' first
    | with_reducible assumption
    | exact Sub.of rfl hT
    | with_reducible apply wr_keeps
    | exact tly_sub _ rfl rfl hT

theorem tlyBusy_keeps {T : List Nat} {s u : State} {ch : ℕ}
    (hT : Sub [0x7100] T) (h : Keeps T s u) : Keeps T s (tlyBusy u ch) := by
  unfold tlyBusy
  repeat' first
    | with_reducible assumption
    | exact Sub.of rfl hT
    | with_reducible apply tlyStatus_keeps

theorem clvChannel_keeps {T : List Nat} {s u : State} {ch : ℕ}
    (hT : Sub [17, 0x7100] T) (h : Keeps T s u) : Keeps T s (clvChannel u ch) := by
  unfold clvChannel
  repeat' first
    | with_reducible assumption
    | exact Sub.of rfl hT
    | with_reducible apply tlyBusy_keeps
    | with_reducible apply modChan_keeps
    | with_reducible apply wr_keeps
    | exact tly_sub _ rfl rfl hT

theorem tallyReset_keeps {T : List Nat} {s u : State} {ch : ℕ}
    (hT : Sub [17, 31] T) (h : Keeps T s u) : Keeps T s (tallyReset u ch) := by
  unfold tallyReset
  repeat' first
    | with_reducible assumption
    | exact Sub.of rfl hT
    | with_reducible apply setTally_keeps
    | with_reducible apply odClear_keeps
    | exact fun w => rising_del _ w.tally

theorem tallyChan_keeps {T : List Nat} {s u : State} {v : ℕ}
    (hT : Sub [17, 31] T) (h : Keeps T s u) : KeepsP T s (tallyChan u v) := by
  unfold tallyChan
  repeat' first
    | with_reducible assumption
    | exact Sub.of rfl hT
    | with_reducible apply done_keeps
    | with_reducible apply deny_keeps
    | with_reducible apply clvChannel_keeps
    | with_reducible apply wr_keeps
    | with_reducible apply tallyReset_keeps
    | with_reducible refine Keeps.ite ?_ ?_
    | with_reducible refine KeepsP.ite ?_ ?_

theorem chunkFree_keeps {T : List Nat} {s u : State} {ch : ℕ}
    (hT : Sub [17, 0x3403] T) (h : Keeps T s u) : Keeps T s (chunkFree u ch) := by
  unfold chunkFree
  repeat' first
    | with_reducible assumption
    | exact Sub.of rfl hT
    | with_reducible apply modChan_keeps
    | with_reducible apply raise_keeps
    | with_reducible refine Keeps.ite ?_ ?_
    | with_reducible intro _
    | split

theorem scanStart_keeps {T : List Nat} {s u : State} {ch : ℕ}
    (hT : Sub [17, 0x7100] T) (h : Keeps T s u) : Keeps T s (scanStart u ch) := by
  unfold scanStart
  repeat' first
    | with_reducible assumption
    | exact Sub.of rfl hT
    | with_reducible apply tlyBusy_keeps
    | with_reducible apply wr_keeps
    | with_reducible apply modChan_keeps
    | exact tly_sub _ rfl rfl hT

theorem periodBegin_keeps {T : List Nat} {s u : State} {ch : ℕ}
    (hT : Sub [16, 17, 0x7002, 0x7100] T) (h : Keeps T s u) : Keeps T s (periodBegin u ch) := by
  unfold periodBegin
  repeat' first
    | with_reducible assumption
    | exact Sub.of rfl hT
    | with_reducible apply modChan_keeps
    | with_reducible apply record_keeps
    | with_reducible apply tlyStatus_keeps
    | with_reducible apply scanStart_keeps
    | exact tly_sub _ rfl rfl hT
    | with_reducible refine Keeps.ite ?_ ?_

theorem execTallyPeriod_keeps {u : State} {ch : ℕ} :
    OutKeeps [16, 17, 0x7002, 0x7100] u (execTallyPeriod ch u) := by
  have h := Keeps.refl [16, 17, 0x7002, 0x7100] u
  have hT := Sub.rfl (a := [16, 17, 0x7002, 0x7100])
  unfold execTallyPeriod
  repeat' first
    | with_reducible assumption
    | exact Sub.of rfl hT
    | with_reducible apply periodBegin_keeps
    | exact tly_sub _ rfl rfl hT
    | with_reducible apply OutKeeps.next

theorem tallyClear_keeps {T : List Nat} {s u : State} {ch : ℕ}
    (hT : Sub [17] T) (h : Keeps T s u) : KeepsP T s (tallyClear u ch) := by
  unfold tallyClear
  repeat' first
    | with_reducible assumption
    | exact Sub.of rfl hT
    | with_reducible apply deny_keeps
    | with_reducible apply done_keeps
    | with_reducible apply modChan_keeps
    | with_reducible refine Keeps.ite ?_ ?_
    | with_reducible refine KeepsP.ite ?_ ?_

theorem laneSet_keeps {T : List Nat} {s u : State} {ch : ℕ} {lane : ℕ} {last : ℕ} {gaps : ℕ} {reps : ℕ}
    (hT : Sub [0x7100] T) (h : Keeps T s u) : Keeps T s (laneSet u ch lane last gaps reps) := by
  unfold laneSet
  repeat' first
    | with_reducible assumption
    | exact Sub.of rfl hT
    | with_reducible apply wr_keeps
    | exact tly_sub _ rfl rfl hT

theorem tlySignal_keeps {T : List Nat} {s u : State} {ch : ℕ}
    (hT : Sub [12, 20] T) (h : Keeps T s u) : Keeps T s (tlySignal u ch) := by
  unfold tlySignal
  repeat' first
    | with_reducible assumption
    | exact Sub.of rfl hT
    | with_reducible apply msix_keeps
    | with_reducible refine Keeps.ite ?_ ?_

theorem streamValue_keeps {T : List Nat} {s u : State} {ch : ℕ} {lane : ℕ} {v : ℕ}
    (hT : Sub [12, 16, 17, 20, 0x7002, 0x7100] T) (h : Keeps T s u) : Keeps T s (streamValue u ch lane v) := by
  unfold streamValue
  repeat' first
    | with_reducible assumption
    | exact Sub.of rfl hT
    | with_reducible apply laneSet_keeps
    | with_reducible apply modChan_keeps
    | with_reducible apply tlySignal_keeps
    | with_reducible apply record_keeps
    | with_reducible apply bumpSat_keeps
    | with_reducible apply tlyStatus_keeps
    | exact tly_sub _ rfl rfl hT
    | with_reducible refine Keeps.ite ?_ ?_

theorem laneInput_keeps {T : List Nat} {s u : State} {ch : ℕ} {lane : ℕ} {v : ℕ}
    (hT : Sub [12, 16, 17, 20, 0x7002, 0x7100] T) (h : Keeps T s u) : KeepsP T s (laneInput u ch lane v) := by
  unfold laneInput
  repeat' first
    | with_reducible assumption
    | exact Sub.of rfl hT
    | with_reducible apply deny_keeps
    | with_reducible apply done_keeps
    | with_reducible apply streamValue_keeps
    | exact tly_sub _ rfl rfl hT
    | with_reducible refine Keeps.ite ?_ ?_
    | with_reducible refine KeepsP.ite ?_ ?_

theorem scanEnd_keeps {T : List Nat} {s u : State} {ch : ℕ} {code : ℕ}
    (hT : Sub [12, 16, 17, 20, 0x7002, 0x7100] T) (h : Keeps T s u) : Keeps T s (scanEnd u ch code) := by
  unfold scanEnd
  repeat' first
    | with_reducible assumption
    | exact Sub.of rfl hT
    | with_reducible apply wr_keeps
    | with_reducible apply modChan_keeps
    | with_reducible apply tlyStatus_keeps
    | with_reducible apply tlyBusy_keeps
    | with_reducible apply tlySignal_keeps
    | with_reducible apply record_keeps
    | with_reducible apply bumpSat_keeps
    | exact tly_sub _ rfl rfl hT
    | with_reducible refine Keeps.ite ?_ ?_

theorem chunkHeld_keeps {T : List Nat} {s u : State} {ch : ℕ}
    (hT : Sub [17, 0x3403] T) (h : Keeps T s u) : Keeps T s (chunkHeld u ch) := by
  unfold chunkHeld
  repeat' first
    | with_reducible assumption
    | exact Sub.of rfl hT
    | with_reducible apply modChan_keeps
    | with_reducible apply bumpSat_keeps
    | with_reducible refine Keeps.ite ?_ ?_

theorem chunkRead_keeps {T : List Nat} {s u : State} {ch : ℕ} {ecc : List EccHit}
    (hT : Sub [6, 8, 9, 12, 13, 16, 17, 20, 0x3403, 0x3410, 0x3411, 0x4110, 0x4140, 0x6202, 0x7002, 0x7100, 0x9000, 0x9001, 0x9010] T) (h : Keeps T s u) : Keeps T s (chunkRead u ch ecc) := by
  unfold chunkRead
  repeat' first
    | with_reducible assumption
    | exact Sub.of rfl hT
    | with_reducible apply scanEnd_keeps
    | with_reducible apply chunkFree_keeps
    | with_reducible apply chunkHeld_keeps
    | with_reducible apply readRuns_keeps
    | with_reducible apply tlyStatus_keeps
    | with_reducible apply bump_keeps
    | with_reducible apply modChan_keeps
    | with_reducible apply denyReq_keeps
    | exact tly_sub _ rfl rfl hT
    | with_reducible refine Keeps.ite ?_ ?_
    | with_reducible refine KeepsP.ite ?_ ?_
    | with_reducible apply KeepsP.fst
    | (extract_lets +onlyGivenNames x; first | refine (fun hx => ?_ : Keeps _ _ x → _) ?_ | refine (fun hx => ?_ : KeepsP _ _ x → _) ?_ | skip)
    | with_reducible intro _
    | split

theorem execTallyClearLanes_keeps {u : State} {who : Who} {ch : ℕ} :
    OutKeeps [17, 20, 0x7100] u (execTallyClearLanes who ch u) := by
  have h := Keeps.refl [17, 20, 0x7100] u
  have hT := Sub.rfl (a := [17, 20, 0x7100])
  unfold execTallyClearLanes
  repeat' first
    | with_reducible assumption
    | exact Sub.of rfl hT
    | with_reducible apply guard_keeps
    | with_reducible apply tallyClear_keeps
    | exact tly_sub _ rfl rfl hT
    | with_reducible apply OutKeeps.next
    | with_reducible refine Keeps.ite ?_ ?_
    | with_reducible refine KeepsP.ite ?_ ?_
    | with_reducible apply KeepsP.fst
    | with_reducible intro _

theorem tallyStart_keeps {T : List Nat} {s u : State} {ch : ℕ}
    (hT : Sub [17, 0x7100] T) (h : Keeps T s u) : KeepsP T s (tallyStart u ch) := by
  unfold tallyStart
  repeat' first
    | with_reducible assumption
    | exact Sub.of rfl hT
    | with_reducible apply deny_keeps
    | with_reducible apply done_keeps
    | with_reducible apply scanStart_keeps
    | with_reducible apply modChan_keeps
    | with_reducible apply tlyBusy_keeps
    | exact tly_sub _ rfl rfl hT
    | with_reducible refine Keeps.ite ?_ ?_
    | with_reducible refine KeepsP.ite ?_ ?_
    | with_reducible apply KeepsP.fst
    | (extract_lets +onlyGivenNames x; first | refine (fun hx => ?_ : Keeps _ _ x → _) ?_ | refine (fun hx => ?_ : KeepsP _ _ x → _) ?_ | skip)
    | with_reducible intro _
    | split

theorem tallyStop_keeps {T : List Nat} {s u : State} {ch : ℕ}
    (hT : Sub [17, 0x7100] T) (h : Keeps T s u) : KeepsP T s (tallyStop u ch) := by
  unfold tallyStop
  repeat' first
    | with_reducible assumption
    | exact Sub.of rfl hT
    | with_reducible apply deny_keeps
    | with_reducible apply done_keeps
    | with_reducible apply tlyBusy_keeps
    | with_reducible apply modChan_keeps
    | exact tly_sub _ rfl rfl hT
    | with_reducible refine Keeps.ite ?_ ?_
    | with_reducible refine KeepsP.ite ?_ ?_

theorem scanFinish_keeps {T : List Nat} {s u : State} {ch : ℕ}
    (hT : Sub [12, 16, 17, 20, 0x7002, 0x7100] T) (h : Keeps T s u) : Keeps T s (scanFinish u ch) := by
  unfold scanFinish
  repeat' first
    | with_reducible assumption
    | exact Sub.of rfl hT
    | with_reducible apply scanEnd_keeps
    | exact tly_sub _ rfl rfl hT
    | with_reducible refine Keeps.ite ?_ ?_

theorem execTallyStop_keeps {u : State} {who : Who} {ch : ℕ} :
    OutKeeps [17, 20, 0x7100] u (execTallyStop who ch u) := by
  have h := Keeps.refl [17, 20, 0x7100] u
  have hT := Sub.rfl (a := [17, 20, 0x7100])
  unfold execTallyStop
  repeat' first
    | with_reducible assumption
    | exact Sub.of rfl hT
    | with_reducible apply guard_keeps
    | with_reducible apply tallyStop_keeps
    | exact tly_sub _ rfl rfl hT
    | with_reducible apply OutKeeps.next
    | with_reducible refine Keeps.ite ?_ ?_
    | with_reducible refine KeepsP.ite ?_ ?_
    | with_reducible apply KeepsP.fst
    | with_reducible intro _

theorem execTlyLane_keeps {u : State} {who : Who} {ch : ℕ} {lane : ℕ} {value : ℕ} :
    OutKeeps [12, 16, 17, 20, 0x7002, 0x7100] u (execTlyLane who ch lane value u) := by
  have h := Keeps.refl [12, 16, 17, 20, 0x7002, 0x7100] u
  have hT := Sub.rfl (a := [12, 16, 17, 20, 0x7002, 0x7100])
  unfold execTlyLane
  repeat' first
    | with_reducible assumption
    | exact Sub.of rfl hT
    | with_reducible apply guard_keeps
    | with_reducible apply laneInput_keeps
    | exact tly_sub _ rfl rfl hT
    | with_reducible apply OutKeeps.next
    | with_reducible refine Keeps.ite ?_ ?_
    | with_reducible refine KeepsP.ite ?_ ?_
    | with_reducible apply KeepsP.fst
    | (extract_lets +onlyGivenNames x; first | refine (fun hx => ?_ : Keeps _ _ x → _) ?_ | refine (fun hx => ?_ : KeepsP _ _ x → _) ?_ | skip)
    | with_reducible intro _

theorem execTallyScanEnd_keeps {u : State} {ch : ℕ} :
    OutKeeps [12, 16, 17, 20, 0x7002, 0x7100] u (execTallyScanEnd ch u) := by
  have h := Keeps.refl [12, 16, 17, 20, 0x7002, 0x7100] u
  have hT := Sub.rfl (a := [12, 16, 17, 20, 0x7002, 0x7100])
  unfold execTallyScanEnd
  repeat' first
    | with_reducible assumption
    | exact Sub.of rfl hT
    | with_reducible apply scanFinish_keeps
    | exact tly_sub _ rfl rfl hT
    | with_reducible apply OutKeeps.next

theorem execTallyStart_keeps {u : State} {who : Who} {ch : ℕ} :
    OutKeeps [17, 20, 0x7100] u (execTallyStart who ch u) := by
  have h := Keeps.refl [17, 20, 0x7100] u
  have hT := Sub.rfl (a := [17, 20, 0x7100])
  unfold execTallyStart
  repeat' first
    | with_reducible assumption
    | exact Sub.of rfl hT
    | with_reducible apply guard_keeps
    | with_reducible apply tallyStart_keeps
    | exact tly_sub _ rfl rfl hT
    | with_reducible apply OutKeeps.next
    | with_reducible refine Keeps.ite ?_ ?_
    | with_reducible refine KeepsP.ite ?_ ?_
    | with_reducible apply KeepsP.fst
    | with_reducible intro _

theorem execTallyChunkRead_keeps {u : State} {ch : ℕ} {ecc : List EccHit} :
    OutKeeps [6, 8, 9, 12, 13, 16, 17, 20, 0x3403, 0x3410, 0x3411, 0x4110, 0x4140, 0x6202, 0x7002, 0x7100, 0x9000, 0x9001, 0x9010] u (execTallyChunkRead ch ecc u) := by
  have h := Keeps.refl [6, 8, 9, 12, 13, 16, 17, 20, 0x3403, 0x3410, 0x3411, 0x4110, 0x4140, 0x6202, 0x7002, 0x7100, 0x9000, 0x9001, 0x9010] u
  have hT := Sub.rfl (a := [6, 8, 9, 12, 13, 16, 17, 20, 0x3403, 0x3410, 0x3411, 0x4110, 0x4140, 0x6202, 0x7002, 0x7100, 0x9000, 0x9001, 0x9010])
  unfold execTallyChunkRead
  repeat' first
    | with_reducible assumption
    | exact Sub.of rfl hT
    | with_reducible apply chunkRead_keeps
    | exact tly_sub _ rfl rfl hT
    | with_reducible apply OutKeeps.next

end Sys2Proof.Machine
end

