-- ==== Sys2Proof/Laws/KeepsClover.lean ====
section
/-! SUPPORT. What the functions of `Machine/Clover.lean` keep. -/

namespace Sys2Proof.Machine

open Sys2Proof

theorem modNbr_keeps {T : List Nat} {s u : State} {port : ℕ} {f : Neighbour → Neighbour}
    (hT : Sub [13] T) (h : Keeps T s u) : Keeps T s (modNbr u port f) := by
  unfold modNbr
  repeat' first
    | with_reducible assumption
    | exact Sub.of rfl hT
    | with_reducible apply modClover_keeps

theorem stewardBack_keeps {T : List Nat} {s u : State} {chip : ℕ}
    (hT : Sub [13] T) (h : Keeps T s u) : Keeps T s (stewardBack u chip) := by
  unfold stewardBack
  repeat' first
    | with_reducible assumption
    | exact Sub.of rfl hT
    | with_reducible apply modClover_keeps
    | with_reducible refine Keeps.ite ?_ ?_
    | with_reducible intro _
    | split

theorem setFailed_keeps {T : List Nat} {s u : State} {l : List (ℕ × ℕ)}
    (hT : Sub [13, 0x6202] T) (h : Keeps T s u) : Keeps T s (setFailed u l) := by
  unfold setFailed
  repeat' first
    | with_reducible assumption
    | exact Sub.of rfl hT
    | with_reducible apply wr_keeps
    | with_reducible apply modClover_keeps

theorem readmit_keeps {T : List Nat} {s u : State} {chip : ℕ} {boot : ℕ}
    (hT : Sub [13, 16, 0x6202, 0x7002] T) (h : Keeps T s u) : Keeps T s (readmit u chip boot) := by
  unfold readmit
  repeat' first
    | with_reducible assumption
    | exact Sub.of rfl hT
    | with_reducible apply stewardBack_keeps
    | with_reducible apply record_keeps
    | with_reducible apply setFailed_keeps

theorem failAdd_keeps {T : List Nat} {s u : State} {subject : ℕ} {boot : ℕ}
    (hT : Sub [13, 16, 0x6202, 0x7002] T) (h : Keeps T s u) : Keeps T s (failAdd u subject boot) := by
  unfold failAdd
  repeat' first
    | with_reducible assumption
    | exact Sub.of rfl hT
    | with_reducible apply record_keeps
    | with_reducible apply setFailed_keeps
    | with_reducible refine Keeps.ite ?_ ?_
    | with_reducible intro _
    | split

theorem noteFailed_keeps {T : List Nat} {s u : State} {subject : ℕ}
    (hT : Sub [13, 0x6201] T) (h : Keeps T s u) : Keeps T s (noteFailed u subject) := by
  unfold noteFailed
  repeat' first
    | with_reducible assumption
    | exact Sub.of rfl hT
    | with_reducible apply modClover_keeps
    | with_reducible apply wr_keeps
    | with_reducible refine Keeps.ite ?_ ?_
    | (extract_lets +onlyGivenNames x; first | refine (fun hx => ?_ : Keeps _ _ x → _) ?_ | refine (fun hx => ?_ : KeepsP _ _ x → _) ?_ | skip)
    | with_reducible intro _
    | split

theorem stewardLost_keeps {T : List Nat} {s u : State} {chip : ℕ}
    (hT : Sub [13, 16, 0x6210, 0x7002] T) (h : Keeps T s u) : Keeps T s (stewardLost u chip) := by
  unfold stewardLost
  repeat' first
    | with_reducible assumption
    | exact Sub.of rfl hT
    | with_reducible apply modClover_keeps
    | with_reducible apply record_keeps
    | with_reducible apply wr_keeps
    | with_reducible refine Keeps.ite ?_ ?_
    | (extract_lets +onlyGivenNames x; first | refine (fun hx => ?_ : Keeps _ _ x → _) ?_ | refine (fun hx => ?_ : KeepsP _ _ x → _) ?_ | skip)
    | with_reducible intro _
    | split

theorem noticeAct_keeps {T : List Nat} {s u : State} {port : Option ℕ} {h' : ClvHdr} {n : Notice}
    (hT : Sub [2, 3, 4, 5, 6, 7, 8, 9, 11, 12, 13, 15, 16, 19, 20, 21, 0x2100, 0x2101, 0x3000, 0x3021, 0x3410, 0x4000, 0x4001, 0x4010, 0x4110, 0x4140, 0x4400, 0x5804, 0x6100, 0x6101, 0x6102, 0x6201, 0x6202, 0x6210, 0x7002, 0x8200, 0x9000, 0x9001, 0x9010] T) (h : Keeps T s u) : Keeps T s (noticeAct u port h' n) := by
  unfold noticeAct
  repeat' first
    | with_reducible assumption
    | exact Sub.of rfl hT
    | with_reducible apply each_keeps
    | with_reducible apply clvLocal_keeps
    | with_reducible apply failAdd_keeps
    | with_reducible apply bumpSat_keeps
    | with_reducible apply noteFailed_keeps
    | with_reducible apply record_keeps
    | with_reducible apply stewardLost_keeps
    | with_reducible apply partNotice_keeps
    | with_reducible refine Keeps.ite ?_ ?_
    | (extract_lets +onlyGivenNames x; first | refine (fun hx => ?_ : Keeps _ _ x → _) ?_ | refine (fun hx => ?_ : KeepsP _ _ x → _) ?_ | skip)
    | with_reducible intro _

theorem declare__keeps {T : List Nat} {s u : State} {subject : ℕ} {cause : ℕ}
    (hT : Sub [2, 3, 4, 5, 6, 7, 8, 9, 11, 12, 13, 15, 16, 19, 20, 21, 0x2100, 0x2101, 0x3000, 0x3021, 0x3410, 0x4000, 0x4001, 0x4010, 0x4110, 0x4140, 0x4400, 0x5804, 0x6100, 0x6101, 0x6102, 0x6201, 0x6202, 0x6210, 0x7002, 0x8200, 0x9000, 0x9001, 0x9010] T) (h : Keeps T s u) : Keeps T s (declare_ u subject cause) := by
  unfold declare_
  repeat' first
    | with_reducible assumption
    | exact Sub.of rfl hT
    | with_reducible apply wr_keeps
    | with_reducible apply record_keeps
    | with_reducible apply tick_keeps
    | with_reducible apply noticeAct_keeps
    | with_reducible apply stwNext_keeps

theorem tryDecide_keeps {T : List Nat} {s u : State} {subject : ℕ}
    (hT : Sub [2, 3, 4, 5, 6, 7, 8, 9, 11, 12, 13, 15, 16, 19, 20, 21, 0x2100, 0x2101, 0x3000, 0x3021, 0x3410, 0x4000, 0x4001, 0x4010, 0x4110, 0x4140, 0x4400, 0x5804, 0x6100, 0x6101, 0x6102, 0x6201, 0x6202, 0x6210, 0x7002, 0x8200, 0x9000, 0x9001, 0x9010] T) (h : Keeps T s u) : Keeps T s (tryDecide u subject) := by
  unfold tryDecide
  repeat' first
    | with_reducible assumption
    | exact Sub.of rfl hT
    | with_reducible apply declare__keeps
    | with_reducible refine Keeps.ite ?_ ?_

theorem modInq_keeps {T : List Nat} {s u : State} {subject : ℕ} {f : Inquiry → Inquiry}
    (hT : Sub [13] T) (h : Keeps T s u) : Keeps T s (modInq u subject f) := by
  unfold modInq
  repeat' first
    | with_reducible assumption
    | exact Sub.of rfl hT
    | with_reducible apply modClover_keeps

theorem sendProbe_keeps {T : List Nat} {s u : State} {subject : ℕ} {try_ : ℕ}
    (hT : Sub [13, 20] T) (h : Keeps T s u) : Keeps T s (sendProbe u subject try_) := by
  unfold sendProbe
  repeat' first
    | with_reducible assumption
    | exact Sub.of rfl hT
    | with_reducible apply modInq_keeps
    | with_reducible apply emit_keeps
    | with_reducible refine Keeps.ite ?_ ?_

theorem reportRx_keeps {T : List Nat} {s u : State} {sender : ℕ} {r : Report}
    (hT : Sub [2, 3, 4, 5, 6, 7, 8, 9, 11, 12, 13, 15, 16, 19, 20, 21, 0x2100, 0x2101, 0x3000, 0x3021, 0x3410, 0x4000, 0x4001, 0x4010, 0x4110, 0x4140, 0x4400, 0x5804, 0x6100, 0x6101, 0x6102, 0x6201, 0x6202, 0x6210, 0x7002, 0x8200, 0x9000, 0x9001, 0x9010] T) (h : Keeps T s u) : Keeps T s (reportRx u sender r) := by
  unfold reportRx
  repeat' first
    | with_reducible assumption
    | exact Sub.of rfl hT
    | with_reducible apply modInq_keeps
    | with_reducible apply declare__keeps
    | with_reducible apply tryDecide_keeps
    | with_reducible apply sendProbe_keeps
    | with_reducible refine Keeps.ite ?_ ?_

theorem reportTo_keeps {T : List Nat} {s u : State} {arb : ℕ} {r : Report}
    (hT : Sub [2, 3, 4, 5, 6, 7, 8, 9, 11, 12, 13, 15, 16, 19, 20, 21, 0x2100, 0x2101, 0x3000, 0x3021, 0x3410, 0x4000, 0x4001, 0x4010, 0x4110, 0x4140, 0x4400, 0x5804, 0x6100, 0x6101, 0x6102, 0x6201, 0x6202, 0x6210, 0x7002, 0x8200, 0x9000, 0x9001, 0x9010] T) (h : Keeps T s u) : Keeps T s (reportTo u arb r) := by
  unfold reportTo
  repeat' first
    | with_reducible assumption
    | exact Sub.of rfl hT
    | with_reducible apply reportRx_keeps
    | with_reducible apply clvSend_keeps
    | with_reducible refine Keeps.ite ?_ ?_

theorem copyMissing_keeps {T : List Nat} {s u : State}
    (hT : Sub [6, 9, 16, 20, 0x4110, 0x4140, 0x7002] T) (h : Keeps T s u) : Keeps T s (copyMissing u) := by
  unfold copyMissing
  repeat' first
    | with_reducible assumption
    | exact Sub.of rfl hT
    | with_reducible apply clvSend_keeps
    | with_reducible refine Keeps.ite ?_ ?_
    | with_reducible intro _
    | split

theorem probeFailed_keeps {T : List Nat} {s u : State} {subject : ℕ} {cause : ℕ}
    (hT : Sub [2, 3, 4, 5, 6, 7, 8, 9, 11, 12, 13, 15, 16, 19, 20, 21, 0x2100, 0x2101, 0x3000, 0x3021, 0x3410, 0x4000, 0x4001, 0x4010, 0x4110, 0x4140, 0x4400, 0x5804, 0x6100, 0x6101, 0x6102, 0x6201, 0x6202, 0x6210, 0x7002, 0x8200, 0x9000, 0x9001, 0x9010] T) (h : Keeps T s u) : Keeps T s (probeFailed u subject cause) := by
  unfold probeFailed
  repeat' first
    | with_reducible assumption
    | exact Sub.of rfl hT
    | with_reducible apply tryDecide_keeps
    | with_reducible apply modInq_keeps

theorem probeAgain_keeps {T : List Nat} {s u : State} {subject : ℕ}
    (hT : Sub [2, 3, 4, 5, 6, 7, 8, 9, 11, 12, 13, 15, 16, 19, 20, 21, 0x2100, 0x2101, 0x3000, 0x3021, 0x3410, 0x4000, 0x4001, 0x4010, 0x4110, 0x4140, 0x4400, 0x5804, 0x6100, 0x6101, 0x6102, 0x6201, 0x6202, 0x6210, 0x7002, 0x8200, 0x9000, 0x9001, 0x9010] T) (h : Keeps T s u) : Keeps T s (probeAgain u subject) := by
  unfold probeAgain
  repeat' first
    | with_reducible assumption
    | exact Sub.of rfl hT
    | with_reducible apply sendProbe_keeps
    | with_reducible apply modInq_keeps
    | with_reducible apply probeFailed_keeps
    | with_reducible refine Keeps.ite ?_ ?_
    | with_reducible intro _
    | split

theorem execProbeTimeout_keeps {u : State} {subject : ℕ} :
    OutKeeps [2, 3, 4, 5, 6, 7, 8, 9, 11, 12, 13, 15, 16, 19, 20, 21, 0x2100, 0x2101, 0x3000, 0x3021, 0x3410, 0x4000, 0x4001, 0x4010, 0x4110, 0x4140, 0x4400, 0x5804, 0x6100, 0x6101, 0x6102, 0x6201, 0x6202, 0x6210, 0x7002, 0x8200, 0x9000, 0x9001, 0x9010] u (execProbeTimeout subject u) := by
  have h := Keeps.refl [2, 3, 4, 5, 6, 7, 8, 9, 11, 12, 13, 15, 16, 19, 20, 21, 0x2100, 0x2101, 0x3000, 0x3021, 0x3410, 0x4000, 0x4001, 0x4010, 0x4110, 0x4140, 0x4400, 0x5804, 0x6100, 0x6101, 0x6102, 0x6201, 0x6202, 0x6210, 0x7002, 0x8200, 0x9000, 0x9001, 0x9010] u
  have hT := Sub.rfl (a := [2, 3, 4, 5, 6, 7, 8, 9, 11, 12, 13, 15, 16, 19, 20, 21, 0x2100, 0x2101, 0x3000, 0x3021, 0x3410, 0x4000, 0x4001, 0x4010, 0x4110, 0x4140, 0x4400, 0x5804, 0x6100, 0x6101, 0x6102, 0x6201, 0x6202, 0x6210, 0x7002, 0x8200, 0x9000, 0x9001, 0x9010])
  unfold execProbeTimeout
  repeat' first
    | with_reducible assumption
    | exact Sub.of rfl hT
    | with_reducible apply probeAgain_keeps
    | with_reducible apply OutKeeps.next
    | with_reducible refine Keeps.ite ?_ ?_

theorem nbrAlive_keeps {T : List Nat} {s u : State} {port : ℕ} {h' : ClvHdr} {b : Heartbeat}
    (hT : Sub [13, 0x6201] T) (h : Keeps T s u) : Keeps T s (nbrAlive u port h' b) := by
  unfold nbrAlive
  repeat' first
    | with_reducible assumption
    | exact Sub.of rfl hT
    | with_reducible apply modClover_keeps
    | with_reducible apply wr_keeps

theorem heartbeatSend_keeps {T : List Nat} {s u : State}
    (hT : Sub [9, 13, 20] T) (h : Keeps T s u) : Keeps T s (heartbeatSend u) := by
  unfold heartbeatSend
  repeat' first
    | with_reducible assumption
    | exact Sub.of rfl hT
    | with_reducible apply each_keeps
    | with_reducible apply modClover_keeps
    | with_reducible apply clvLocal_keeps
    | with_reducible refine Keeps.ite ?_ ?_
    | (extract_lets +onlyGivenNames x; first | refine (fun hx => ?_ : Keeps _ _ x → _) ?_ | refine (fun hx => ?_ : KeepsP _ _ x → _) ?_ | skip)
    | with_reducible intro _

theorem stwCmd_keeps {T : List Nat} {s u : State}
    (hT : Sub [13] T) (h : Keeps T s u) : KeepsP T s (stwCmd u) := by
  unfold stwCmd
  repeat' first
    | with_reducible assumption
    | exact Sub.of rfl hT
    | with_reducible apply done_keeps
    | with_reducible apply modClover_keeps
    | with_reducible apply deny_keeps
    | with_reducible refine Keeps.ite ?_ ?_
    | with_reducible refine KeepsP.ite ?_ ?_

theorem sseqRx_keeps {T : List Nat} {s u : State} {h' : ClvHdr}
    (hT : Sub [13, 0x6210] T) (h : Keeps T s u) : KeepsP T s (sseqRx u h') := by
  unfold sseqRx
  repeat' first
    | with_reducible assumption
    | exact Sub.of rfl hT
    | with_reducible apply modClover_keeps
    | with_reducible apply bumpSat_keeps
    | with_reducible refine Keeps.ite ?_ ?_
    | with_reducible refine KeepsP.ite ?_ ?_
    | with_reducible apply KeepsP.fst
    | (extract_lets +onlyGivenNames x; first | refine (fun hx => ?_ : Keeps _ _ x → _) ?_ | refine (fun hx => ?_ : KeepsP _ _ x → _) ?_ | skip)
    | with_reducible intro _
    | split
    | with_reducible apply KeepsP.mk

theorem clvRx_keeps {T : List Nat} {s u : State} {h' : ClvHdr} {f : State → State} (hf : ∀ v, Keeps T s v → Keeps T s (f v))
    (hT : Sub [13, 0x6210] T) (h : Keeps T s u) : Keeps T s (clvRx u h' f) := by
  unfold clvRx
  repeat' first
    | with_reducible assumption
    | exact Sub.of rfl hT
    | with_reducible apply sseqRx_keeps
    | with_reducible apply hf
    | with_reducible refine Keeps.ite ?_ ?_
    | with_reducible refine KeepsP.ite ?_ ?_
    | with_reducible apply KeepsP.fst

theorem execReport_keeps {u : State} {h' : ClvHdr} {r : Report} :
    OutKeeps [2, 3, 4, 5, 6, 7, 8, 9, 11, 12, 13, 15, 16, 19, 20, 21, 0x2100, 0x2101, 0x3000, 0x3021, 0x3410, 0x4000, 0x4001, 0x4010, 0x4110, 0x4140, 0x4400, 0x5804, 0x6100, 0x6101, 0x6102, 0x6201, 0x6202, 0x6210, 0x7002, 0x8200, 0x9000, 0x9001, 0x9010] u (execReport h' r u) := by
  have h := Keeps.refl [2, 3, 4, 5, 6, 7, 8, 9, 11, 12, 13, 15, 16, 19, 20, 21, 0x2100, 0x2101, 0x3000, 0x3021, 0x3410, 0x4000, 0x4001, 0x4010, 0x4110, 0x4140, 0x4400, 0x5804, 0x6100, 0x6101, 0x6102, 0x6201, 0x6202, 0x6210, 0x7002, 0x8200, 0x9000, 0x9001, 0x9010] u
  have hT := Sub.rfl (a := [2, 3, 4, 5, 6, 7, 8, 9, 11, 12, 13, 15, 16, 19, 20, 21, 0x2100, 0x2101, 0x3000, 0x3021, 0x3410, 0x4000, 0x4001, 0x4010, 0x4110, 0x4140, 0x4400, 0x5804, 0x6100, 0x6101, 0x6102, 0x6201, 0x6202, 0x6210, 0x7002, 0x8200, 0x9000, 0x9001, 0x9010])
  unfold execReport
  repeat' first
    | with_reducible assumption
    | exact Sub.of rfl hT
    | with_reducible apply clvRx_keeps
    | with_reducible apply reportRx_keeps
    | with_reducible apply OutKeeps.next
    | with_reducible refine Keeps.ite ?_ ?_
    | with_reducible intro _

theorem noticeRx_keeps {T : List Nat} {s u : State} {port : ℕ} {h' : ClvHdr} {n : Notice}
    (hT : Sub [2, 3, 4, 5, 6, 7, 8, 9, 11, 12, 13, 15, 16, 19, 20, 21, 0x2100, 0x2101, 0x3000, 0x3021, 0x3410, 0x4000, 0x4001, 0x4010, 0x4110, 0x4140, 0x4400, 0x5804, 0x6100, 0x6101, 0x6102, 0x6201, 0x6202, 0x6210, 0x7002, 0x8200, 0x9000, 0x9001, 0x9010] T) (h : Keeps T s u) : Keeps T s (noticeRx u port h' n) := by
  unfold noticeRx
  repeat' first
    | with_reducible assumption
    | exact Sub.of rfl hT
    | with_reducible apply bumpSat_keeps
    | with_reducible apply clvRx_keeps
    | with_reducible apply noticeAct_keeps
    | with_reducible refine Keeps.ite ?_ ?_
    | with_reducible intro _

theorem execFaultNotice_keeps {u : State} {port : ℕ} {h' : ClvHdr} {n : Notice} :
    OutKeeps [2, 3, 4, 5, 6, 7, 8, 9, 11, 12, 13, 15, 16, 19, 20, 21, 0x2100, 0x2101, 0x3000, 0x3021, 0x3410, 0x4000, 0x4001, 0x4010, 0x4110, 0x4140, 0x4400, 0x5804, 0x6100, 0x6101, 0x6102, 0x6201, 0x6202, 0x6210, 0x7002, 0x8200, 0x9000, 0x9001, 0x9010] u (execFaultNotice port h' n u) := by
  have h := Keeps.refl [2, 3, 4, 5, 6, 7, 8, 9, 11, 12, 13, 15, 16, 19, 20, 21, 0x2100, 0x2101, 0x3000, 0x3021, 0x3410, 0x4000, 0x4001, 0x4010, 0x4110, 0x4140, 0x4400, 0x5804, 0x6100, 0x6101, 0x6102, 0x6201, 0x6202, 0x6210, 0x7002, 0x8200, 0x9000, 0x9001, 0x9010] u
  have hT := Sub.rfl (a := [2, 3, 4, 5, 6, 7, 8, 9, 11, 12, 13, 15, 16, 19, 20, 21, 0x2100, 0x2101, 0x3000, 0x3021, 0x3410, 0x4000, 0x4001, 0x4010, 0x4110, 0x4140, 0x4400, 0x5804, 0x6100, 0x6101, 0x6102, 0x6201, 0x6202, 0x6210, 0x7002, 0x8200, 0x9000, 0x9001, 0x9010])
  unfold execFaultNotice
  repeat' first
    | with_reducible assumption
    | exact Sub.of rfl hT
    | with_reducible apply noticeRx_keeps
    | with_reducible apply OutKeeps.next

theorem execStateCopyMissing_keeps {u : State} :
    OutKeeps [6, 9, 16, 20, 0x4110, 0x4140, 0x7002] u (execStateCopyMissing u) := by
  have h := Keeps.refl [6, 9, 16, 20, 0x4110, 0x4140, 0x7002] u
  have hT := Sub.rfl (a := [6, 9, 16, 20, 0x4110, 0x4140, 0x7002])
  unfold execStateCopyMissing
  repeat' first
    | with_reducible assumption
    | exact Sub.of rfl hT
    | with_reducible apply copyMissing_keeps
    | with_reducible apply OutKeeps.next

theorem arbWait_keeps {T : List Nat} {s u : State} {subject : ℕ}
    (hT : Sub [2, 3, 4, 5, 6, 7, 8, 9, 11, 12, 13, 15, 16, 19, 20, 21, 0x2100, 0x2101, 0x3000, 0x3021, 0x3410, 0x4000, 0x4001, 0x4010, 0x4110, 0x4140, 0x4400, 0x5804, 0x6100, 0x6101, 0x6102, 0x6201, 0x6202, 0x6210, 0x7002, 0x8200, 0x9000, 0x9001, 0x9010] T) (h : Keeps T s u) : Keeps T s (arbWait u subject) := by
  unfold arbWait
  repeat' first
    | with_reducible assumption
    | exact Sub.of rfl hT
    | with_reducible apply reportTo_keeps
    | with_reducible apply modNbr_keeps
    | with_reducible refine Keeps.ite ?_ ?_
    | (extract_lets +onlyGivenNames x; first | refine (fun hx => ?_ : Keeps _ _ x → _) ?_ | refine (fun hx => ?_ : KeepsP _ _ x → _) ?_ | skip)
    | with_reducible intro _
    | split

theorem execArbWaitExpiry_keeps {u : State} {subject : ℕ} :
    OutKeeps [2, 3, 4, 5, 6, 7, 8, 9, 11, 12, 13, 15, 16, 19, 20, 21, 0x2100, 0x2101, 0x3000, 0x3021, 0x3410, 0x4000, 0x4001, 0x4010, 0x4110, 0x4140, 0x4400, 0x5804, 0x6100, 0x6101, 0x6102, 0x6201, 0x6202, 0x6210, 0x7002, 0x8200, 0x9000, 0x9001, 0x9010] u (execArbWaitExpiry subject u) := by
  have h := Keeps.refl [2, 3, 4, 5, 6, 7, 8, 9, 11, 12, 13, 15, 16, 19, 20, 21, 0x2100, 0x2101, 0x3000, 0x3021, 0x3410, 0x4000, 0x4001, 0x4010, 0x4110, 0x4140, 0x4400, 0x5804, 0x6100, 0x6101, 0x6102, 0x6201, 0x6202, 0x6210, 0x7002, 0x8200, 0x9000, 0x9001, 0x9010] u
  have hT := Sub.rfl (a := [2, 3, 4, 5, 6, 7, 8, 9, 11, 12, 13, 15, 16, 19, 20, 21, 0x2100, 0x2101, 0x3000, 0x3021, 0x3410, 0x4000, 0x4001, 0x4010, 0x4110, 0x4140, 0x4400, 0x5804, 0x6100, 0x6101, 0x6102, 0x6201, 0x6202, 0x6210, 0x7002, 0x8200, 0x9000, 0x9001, 0x9010])
  unfold execArbWaitExpiry
  repeat' first
    | with_reducible assumption
    | exact Sub.of rfl hT
    | with_reducible apply arbWait_keeps
    | with_reducible apply OutKeeps.next

theorem rejectRx_keeps {T : List Nat} {s u : State} {subject : ℕ}
    (hT : Sub [0x6201] T) (h : Keeps T s u) : Keeps T s (rejectRx u subject) := by
  unfold rejectRx
  repeat' first
    | with_reducible assumption
    | exact Sub.of rfl hT
    | with_reducible apply wr_keeps
    | with_reducible refine Keeps.ite ?_ ?_
    | with_reducible intro _
    | split

theorem execHeartbeatSend_keeps {u : State} :
    OutKeeps [9, 13, 20] u (execHeartbeatSend u) := by
  have h := Keeps.refl [9, 13, 20] u
  have hT := Sub.rfl (a := [9, 13, 20])
  unfold execHeartbeatSend
  repeat' first
    | with_reducible assumption
    | exact Sub.of rfl hT
    | with_reducible apply heartbeatSend_keeps
    | with_reducible apply OutKeeps.next

theorem nbrMiss_keeps {T : List Nat} {s u : State} {port : ℕ}
    (hT : Sub [2, 3, 4, 5, 6, 7, 8, 9, 11, 12, 13, 15, 16, 19, 20, 21, 0x2100, 0x2101, 0x3000, 0x3021, 0x3410, 0x4000, 0x4001, 0x4010, 0x4110, 0x4140, 0x4400, 0x5804, 0x6100, 0x6101, 0x6102, 0x6201, 0x6202, 0x6210, 0x7002, 0x8200, 0x9000, 0x9001, 0x9010] T) (h : Keeps T s u) : Keeps T s (nbrMiss u port) := by
  unfold nbrMiss
  repeat' first
    | with_reducible assumption
    | exact Sub.of rfl hT
    | with_reducible apply record_keeps
    | with_reducible apply wr_keeps
    | with_reducible apply modNbr_keeps
    | with_reducible apply reportTo_keeps
    | with_reducible refine Keeps.ite ?_ ?_

theorem execNeighbourMiss_keeps {u : State} {port : ℕ} :
    OutKeeps [2, 3, 4, 5, 6, 7, 8, 9, 11, 12, 13, 15, 16, 19, 20, 21, 0x2100, 0x2101, 0x3000, 0x3021, 0x3410, 0x4000, 0x4001, 0x4010, 0x4110, 0x4140, 0x4400, 0x5804, 0x6100, 0x6101, 0x6102, 0x6201, 0x6202, 0x6210, 0x7002, 0x8200, 0x9000, 0x9001, 0x9010] u (execNeighbourMiss port u) := by
  have h := Keeps.refl [2, 3, 4, 5, 6, 7, 8, 9, 11, 12, 13, 15, 16, 19, 20, 21, 0x2100, 0x2101, 0x3000, 0x3021, 0x3410, 0x4000, 0x4001, 0x4010, 0x4110, 0x4140, 0x4400, 0x5804, 0x6100, 0x6101, 0x6102, 0x6201, 0x6202, 0x6210, 0x7002, 0x8200, 0x9000, 0x9001, 0x9010] u
  have hT := Sub.rfl (a := [2, 3, 4, 5, 6, 7, 8, 9, 11, 12, 13, 15, 16, 19, 20, 21, 0x2100, 0x2101, 0x3000, 0x3021, 0x3410, 0x4000, 0x4001, 0x4010, 0x4110, 0x4140, 0x4400, 0x5804, 0x6100, 0x6101, 0x6102, 0x6201, 0x6202, 0x6210, 0x7002, 0x8200, 0x9000, 0x9001, 0x9010])
  unfold execNeighbourMiss
  repeat' first
    | with_reducible assumption
    | exact Sub.of rfl hT
    | with_reducible apply nbrMiss_keeps
    | with_reducible apply OutKeeps.next

theorem heartbeatRx_keeps {T : List Nat} {s u : State} {port : ℕ} {h' : ClvHdr} {b : Heartbeat}
    (hT : Sub [12, 13, 16, 17, 20, 0x6201, 0x6202, 0x7002, 0x7100] T) (h : Keeps T s u) : Keeps T s (heartbeatRx u port h' b) := by
  unfold heartbeatRx
  repeat' first
    | with_reducible assumption
    | exact Sub.of rfl hT
    | with_reducible apply readmit_keeps
    | with_reducible apply streamValue_keeps
    | with_reducible apply nbrAlive_keeps
    | with_reducible apply bumpSat_keeps
    | with_reducible refine Keeps.ite ?_ ?_

theorem probeRx_keeps {T : List Nat} {s u : State} {subject : ℕ} {status : ℕ} {auth : Bool}
    (hT : Sub [2, 3, 4, 5, 6, 7, 8, 9, 11, 12, 13, 15, 16, 19, 20, 21, 0x2100, 0x2101, 0x3000, 0x3021, 0x3410, 0x4000, 0x4001, 0x4010, 0x4110, 0x4140, 0x4400, 0x5804, 0x6100, 0x6101, 0x6102, 0x6201, 0x6202, 0x6210, 0x7002, 0x8200, 0x9000, 0x9001, 0x9010] T) (h : Keeps T s u) : Keeps T s (probeRx u subject status auth) := by
  unfold probeRx
  repeat' first
    | with_reducible assumption
    | exact Sub.of rfl hT
    | with_reducible apply bumpSat_keeps
    | with_reducible apply probeAgain_keeps
    | with_reducible apply record_keeps
    | with_reducible apply each_keeps
    | with_reducible apply modClover_keeps
    | with_reducible apply rejectRx_keeps
    | with_reducible apply stwSend_keeps
    | with_reducible apply probeFailed_keeps
    | with_reducible refine Keeps.ite ?_ ?_
    | (extract_lets +onlyGivenNames x; first | refine (fun hx => ?_ : Keeps _ _ x → _) ?_ | refine (fun hx => ?_ : KeepsP _ _ x → _) ?_ | skip)
    | with_reducible intro _
    | split

theorem execProbeAnswer_keeps {u : State} {subject : ℕ} {status : ℕ} {auth : Bool} :
    OutKeeps [2, 3, 4, 5, 6, 7, 8, 9, 11, 12, 13, 15, 16, 19, 20, 21, 0x2100, 0x2101, 0x3000, 0x3021, 0x3410, 0x4000, 0x4001, 0x4010, 0x4110, 0x4140, 0x4400, 0x5804, 0x6100, 0x6101, 0x6102, 0x6201, 0x6202, 0x6210, 0x7002, 0x8200, 0x9000, 0x9001, 0x9010] u (execProbeAnswer subject status auth u) := by
  have h := Keeps.refl [2, 3, 4, 5, 6, 7, 8, 9, 11, 12, 13, 15, 16, 19, 20, 21, 0x2100, 0x2101, 0x3000, 0x3021, 0x3410, 0x4000, 0x4001, 0x4010, 0x4110, 0x4140, 0x4400, 0x5804, 0x6100, 0x6101, 0x6102, 0x6201, 0x6202, 0x6210, 0x7002, 0x8200, 0x9000, 0x9001, 0x9010] u
  have hT := Sub.rfl (a := [2, 3, 4, 5, 6, 7, 8, 9, 11, 12, 13, 15, 16, 19, 20, 21, 0x2100, 0x2101, 0x3000, 0x3021, 0x3410, 0x4000, 0x4001, 0x4010, 0x4110, 0x4140, 0x4400, 0x5804, 0x6100, 0x6101, 0x6102, 0x6201, 0x6202, 0x6210, 0x7002, 0x8200, 0x9000, 0x9001, 0x9010])
  unfold execProbeAnswer
  repeat' first
    | with_reducible assumption
    | exact Sub.of rfl hT
    | with_reducible apply probeRx_keeps
    | with_reducible apply OutKeeps.next

theorem cycleEnd_keeps {T : List Nat} {s u : State}
    (hT : Sub [13, 20, 0x6210] T) (h : Keeps T s u) : Keeps T s (cycleEnd u) := by
  unfold cycleEnd
  repeat' first
    | with_reducible assumption
    | exact Sub.of rfl hT
    | with_reducible apply modClover_keeps
    | with_reducible apply emitAll_keeps
    | with_reducible apply wr_keeps
    | with_reducible apply emit_keeps
    | with_reducible refine Keeps.ite ?_ ?_
    | (extract_lets +onlyGivenNames x; first | refine (fun hx => ?_ : Keeps _ _ x → _) ?_ | refine (fun hx => ?_ : KeepsP _ _ x → _) ?_ | skip)
    | with_reducible intro _
    | split

theorem execStewardCycleEnd_keeps {u : State} :
    OutKeeps [13, 20, 0x6210] u (execStewardCycleEnd u) := by
  have h := Keeps.refl [13, 20, 0x6210] u
  have hT := Sub.rfl (a := [13, 20, 0x6210])
  unfold execStewardCycleEnd
  repeat' first
    | with_reducible assumption
    | exact Sub.of rfl hT
    | with_reducible apply cycleEnd_keeps
    | with_reducible apply OutKeeps.next

theorem takeCopy_keeps {T : List Nat} {s u : State} {c : StewardState}
    (hT : Sub [13, 18, 0x6210] T) (h : Keeps T s u) : Keeps T s (takeCopy u c) := by
  unfold takeCopy
  repeat' first
    | with_reducible assumption
    | exact Sub.of rfl hT
    | with_reducible apply modClover_keeps
    | with_reducible apply setMgmt_keeps
    | with_reducible apply wr_keeps

theorem copyRx_keeps {T : List Nat} {s u : State} {complete : Bool} {crcOk : Bool} {swap : Bool} {c : StewardState}
    (hT : Sub [13, 16, 18, 0x6210, 0x7002] T) (h : Keeps T s u) : Keeps T s (copyRx u complete crcOk swap c) := by
  unfold copyRx
  repeat' first
    | with_reducible assumption
    | exact Sub.of rfl hT
    | with_reducible apply bumpSat_keeps
    | with_reducible apply record_keeps
    | with_reducible apply modClover_keeps
    | with_reducible apply wr_keeps
    | with_reducible apply takeCopy_keeps
    | with_reducible refine Keeps.ite ?_ ?_

theorem execReject_keeps {u : State} {h' : ClvHdr} {subject : ℕ} {_status : ℕ} :
    OutKeeps [13, 0x6201, 0x6210] u (execReject h' subject _status u) := by
  have h := Keeps.refl [13, 0x6201, 0x6210] u
  have hT := Sub.rfl (a := [13, 0x6201, 0x6210])
  unfold execReject
  repeat' first
    | with_reducible assumption
    | exact Sub.of rfl hT
    | with_reducible apply clvRx_keeps
    | with_reducible apply rejectRx_keeps
    | with_reducible apply OutKeeps.next
    | with_reducible refine Keeps.ite ?_ ?_
    | with_reducible intro _

theorem execStateCopy_keeps {u : State} {complete : Bool} {crcOk : Bool} {swap : Bool} {copy : StewardState} :
    OutKeeps [13, 16, 18, 0x6210, 0x7002] u (execStateCopy complete crcOk swap copy u) := by
  have h := Keeps.refl [13, 16, 18, 0x6210, 0x7002] u
  have hT := Sub.rfl (a := [13, 16, 18, 0x6210, 0x7002])
  unfold execStateCopy
  repeat' first
    | with_reducible assumption
    | exact Sub.of rfl hT
    | with_reducible apply copyRx_keeps
    | with_reducible apply OutKeeps.next

theorem execHeartbeat_keeps {u : State} {port : ℕ} {h' : ClvHdr} {b : Heartbeat} :
    OutKeeps [12, 13, 16, 17, 20, 0x6201, 0x6202, 0x7002, 0x7100] u (execHeartbeat port h' b u) := by
  have h := Keeps.refl [12, 13, 16, 17, 20, 0x6201, 0x6202, 0x7002, 0x7100] u
  have hT := Sub.rfl (a := [12, 13, 16, 17, 20, 0x6201, 0x6202, 0x7002, 0x7100])
  unfold execHeartbeat
  repeat' first
    | with_reducible assumption
    | exact Sub.of rfl hT
    | with_reducible apply heartbeatRx_keeps
    | with_reducible apply OutKeeps.next

theorem execClvStwCmd_keeps {u : State} {who : Who} {value : ℕ} :
    OutKeeps [13, 20, 0x6210] u (execClvStwCmd who value u) := by
  have h := Keeps.refl [13, 20, 0x6210] u
  have hT := Sub.rfl (a := [13, 20, 0x6210])
  unfold execClvStwCmd
  repeat' first
    | with_reducible assumption
    | exact Sub.of rfl hT
    | with_reducible apply guard_keeps
    | with_reducible apply stwCmd_keeps
    | with_reducible apply OutKeeps.next
    | with_reducible refine Keeps.ite ?_ ?_
    | with_reducible refine KeepsP.ite ?_ ?_
    | with_reducible apply KeepsP.fst
    | with_reducible intro _

end Sys2Proof.Machine
end

