-- ==== Sys2Proof/Laws/KeepsLedger.lean ====
section
/-! SUPPORT. What the functions of `Machine/Ledger.lean` keep. -/

namespace Sys2Proof.Machine

open Sys2Proof

theorem ldgErase_keeps {T : List Nat} {s u : State} {sec : ℕ}
    (hT : Sub [16] T) (h : Keeps T s u) : Keeps T s (ldgErase u sec) := by
  unfold ldgErase
  repeat' first
    | with_reducible assumption
    | exact Sub.of rfl hT
    | with_reducible apply modLedger_keeps

theorem ldgPut_keeps {T : List Nat} {s u : State} {sec : ℕ} {rs : List (List Byte)}
    (hT : Sub [16] T) (h : Keeps T s u) : Keeps T s (ldgPut u sec rs) := by
  unfold ldgPut
  repeat' first
    | with_reducible assumption
    | exact Sub.of rfl hT
    | with_reducible apply modLedger_keeps
    | with_reducible apply ldgErase_keeps
    | with_reducible refine Keeps.ite ?_ ?_
    | (extract_lets +onlyGivenNames x; first | refine (fun hx => ?_ : Keeps _ _ x → _) ?_ | refine (fun hx => ?_ : KeepsP _ _ x → _) ?_ | skip)
    | with_reducible intro _
    | split

theorem ldgCounts_keeps {T : List Nat} {s u : State}
    (hT : Sub [0x7002] T) (h : Keeps T s u) : Keeps T s (ldgCounts u) := by
  unfold ldgCounts
  repeat' first
    | with_reducible assumption
    | exact Sub.of rfl hT
    | with_reducible apply wr_keeps

theorem ldgLost_keeps {T : List Nat} {s u : State}
    (hT : Sub [16, 0x7002] T) (h : Keeps T s u) : Keeps T s (ldgLost u) := by
  unfold ldgLost
  repeat' first
    | with_reducible assumption
    | exact Sub.of rfl hT
    | with_reducible apply modLedger_keeps
    | with_reducible apply ldgEnqueue_keeps
    | with_reducible refine Keeps.ite ?_ ?_

theorem ldgProgram_keeps {T : List Nat} {s u : State} {n : ℕ} {ok : Bool}
    (hT : Sub [16, 0x7002] T) (h : Keeps T s u) : Keeps T s (ldgProgram u n ok) := by
  unfold ldgProgram
  repeat' first
    | with_reducible assumption
    | exact Sub.of rfl hT
    | with_reducible apply ldgPut_keeps
    | with_reducible apply modLedger_keeps
    | with_reducible apply ldgCounts_keeps
    | with_reducible apply ldgLost_keeps
    | with_reducible apply record_keeps
    | with_reducible refine Keeps.ite ?_ ?_
    | (extract_lets +onlyGivenNames x; first | refine (fun hx => ?_ : Keeps _ _ x → _) ?_ | refine (fun hx => ?_ : KeepsP _ _ x → _) ?_ | skip)
    | with_reducible intro _
    | split

theorem ldgFlush_keeps {T : List Nat} {s u : State} {n : ℕ} {ok : Bool}
    (hT : Sub [16, 0x7002] T) (h : Keeps T s u) : Keeps T s (ldgFlush n u ok) := by
  induction n generalizing u ok with
  | zero =>
    unfold ldgFlush
    repeat' first
      | with_reducible assumption
      | exact Sub.of rfl hT
      | with_reducible apply ldgProgram_keeps
      | with_reducible apply ih
      | with_reducible refine Keeps.ite ?_ ?_
      | with_reducible intro _
      | dsimp only
      | split
  | succ n ih =>
    unfold ldgFlush
    repeat' first
      | with_reducible assumption
      | exact Sub.of rfl hT
      | with_reducible apply ldgProgram_keeps
      | with_reducible apply ih
      | with_reducible refine Keeps.ite ?_ ?_
      | with_reducible intro _
      | dsimp only
      | split

theorem execLdgFlushExpiry_keeps {u : State} {ok : Bool} :
    OutKeeps [16, 0x7002] u (execLdgFlushExpiry ok u) := by
  have h := Keeps.refl [16, 0x7002] u
  have hT := Sub.rfl (a := [16, 0x7002])
  unfold execLdgFlushExpiry
  repeat' first
    | with_reducible assumption
    | exact Sub.of rfl hT
    | with_reducible apply ldgFlush_keeps
    | with_reducible apply ldgProgram_keeps
    | with_reducible apply OutKeeps.next
    | with_reducible refine Keeps.ite ?_ ?_

theorem ldgErased_keeps {T : List Nat} {s u : State} {sec : ℕ} {ok : Bool}
    (hT : Sub [16, 0x7002] T) (h : Keeps T s u) : Keeps T s (ldgErased u sec ok) := by
  unfold ldgErased
  repeat' first
    | with_reducible assumption
    | exact Sub.of rfl hT
    | with_reducible apply raise_keeps
    | with_reducible apply modLedger_keeps
    | with_reducible apply record_keeps
    | with_reducible refine Keeps.ite ?_ ?_

theorem execFlashEraseDone_keeps {u : State} {sector : ℕ} {ok : Bool} :
    OutKeeps [16, 0x7002] u (execFlashEraseDone sector ok u) := by
  have h := Keeps.refl [16, 0x7002] u
  have hT := Sub.rfl (a := [16, 0x7002])
  unfold execFlashEraseDone
  repeat' first
    | with_reducible assumption
    | exact Sub.of rfl hT
    | with_reducible apply ldgErased_keeps
    | with_reducible apply modLedger_keeps
    | with_reducible apply ldgCounts_keeps
    | with_reducible apply ldgErase_keeps
    | with_reducible apply OutKeeps.next
    | with_reducible refine Keeps.ite ?_ ?_
    | (extract_lets +onlyGivenNames x; first | refine (fun hx => ?_ : Keeps _ _ x → _) ?_ | refine (fun hx => ?_ : KeepsP _ _ x → _) ?_ | skip)
    | with_reducible intro _
    | split

theorem ldgOvr_keeps {T : List Nat} {s u : State} {slot : ℕ} {v : ℕ}
    (hT : Sub [0x7001] T) (h : Keeps T s u) : KeepsP T s (ldgOvr u slot v) := by
  unfold ldgOvr
  repeat' first
    | with_reducible assumption
    | exact Sub.of rfl hT
    | with_reducible apply done_keeps
    | with_reducible apply wr_keeps
    | with_reducible apply deny_keeps
    | with_reducible refine Keeps.ite ?_ ?_
    | with_reducible refine KeepsP.ite ?_ ?_
    | with_reducible apply KeepsP.fst
    | with_reducible intro _
    | split
    | with_reducible apply KeepsP.mk

theorem execLdgOvr_keeps {u : State} {who : Who} {slot : ℕ} {value : ℕ} :
    OutKeeps [20, 0x7001] u (execLdgOvr who slot value u) := by
  have h := Keeps.refl [20, 0x7001] u
  have hT := Sub.rfl (a := [20, 0x7001])
  unfold execLdgOvr
  repeat' first
    | with_reducible assumption
    | exact Sub.of rfl hT
    | with_reducible apply guard_keeps
    | with_reducible apply ldgOvr_keeps
    | with_reducible apply OutKeeps.next
    | with_reducible refine Keeps.ite ?_ ?_
    | with_reducible refine KeepsP.ite ?_ ?_
    | with_reducible apply KeepsP.fst
    | with_reducible intro _

theorem ldgClear_keeps {T : List Nat} {s u : State} {area : ℕ} {p : Path}
    (hT : Sub [16, 0x7002] T) (h : Keeps T s u) : KeepsP T s (ldgClear u area p) := by
  unfold ldgClear
  repeat' first
    | with_reducible assumption
    | exact Sub.of rfl hT
    | with_reducible apply deny_keeps
    | with_reducible apply wr_keeps
    | with_reducible apply setLedger_keeps
    | with_reducible apply done_keeps
    | with_reducible apply ldgCounts_keeps
    | with_reducible apply bumpSat_keeps
    | with_reducible refine Keeps.ite ?_ ?_
    | with_reducible refine KeepsP.ite ?_ ?_

theorem execLdgClear_keeps {u : State} {who : Who} {value : ℕ} :
    OutKeeps [16, 20, 0x7000, 0x7002] u (execLdgClear who value u) := by
  have h := Keeps.refl [16, 20, 0x7000, 0x7002] u
  have hT := Sub.rfl (a := [16, 20, 0x7000, 0x7002])
  unfold execLdgClear
  repeat' first
    | with_reducible assumption
    | exact Sub.of rfl hT
    | with_reducible apply guard_keeps
    | with_reducible apply ldgClear_keeps
    | with_reducible apply OutKeeps.next
    | with_reducible refine Keeps.ite ?_ ?_
    | with_reducible refine KeepsP.ite ?_ ?_
    | with_reducible apply KeepsP.fst
    | with_reducible intro _

theorem ldgRefill_keeps {T : List Nat} {s u : State}
    (hT : Sub [16, 0x7002] T) (h : Keeps T s u) : Keeps T s (ldgRefill u) := by
  unfold ldgRefill
  repeat' first
    | with_reducible assumption
    | exact Sub.of rfl hT
    | with_reducible apply ldgCounts_keeps
    | with_reducible apply modLedger_keeps

theorem ldgStore_keeps {T : List Nat} {s u : State} {r : List Byte}
    (hT : Sub [16, 0x7002] T) (h : Keeps T s u) : Keeps T s (ldgStore u r) := by
  unfold ldgStore
  repeat' first
    | with_reducible assumption
    | exact Sub.of rfl hT
    | with_reducible apply setLedger_keeps
    | with_reducible apply bumpSat_keeps
    | with_reducible refine Keeps.ite ?_ ?_

theorem execLedgerRecord_keeps {u : State} {e : Event} :
    OutKeeps [16, 0x7002] u (execLedgerRecord e u) := by
  have h := Keeps.refl [16, 0x7002] u
  have hT := Sub.rfl (a := [16, 0x7002])
  unfold execLedgerRecord
  repeat' first
    | with_reducible assumption
    | exact Sub.of rfl hT
    | with_reducible apply ldgPresent_keeps
    | with_reducible apply OutKeeps.next

theorem execLedgerQueueDrain_keeps {u : State} :
    OutKeeps [16, 0x7002] u (execLedgerQueueDrain u) := by
  have h := Keeps.refl [16, 0x7002] u
  have hT := Sub.rfl (a := [16, 0x7002])
  unfold execLedgerQueueDrain
  repeat' first
    | with_reducible assumption
    | exact Sub.of rfl hT
    | with_reducible apply ldgLost_keeps
    | with_reducible apply ldgCounts_keeps
    | with_reducible apply ldgStore_keeps
    | with_reducible apply modLedger_keeps
    | with_reducible apply OutKeeps.next
    | with_reducible refine Keeps.ite ?_ ?_
    | with_reducible intro _
    | split

theorem execFlashProgram_keeps {u : State} {ok : Bool} :
    OutKeeps [16, 0x7002] u (execFlashProgram ok u) := by
  have h := Keeps.refl [16, 0x7002] u
  have hT := Sub.rfl (a := [16, 0x7002])
  unfold execFlashProgram
  repeat' first
    | with_reducible assumption
    | exact Sub.of rfl hT
    | with_reducible apply ldgProgram_keeps
    | with_reducible apply OutKeeps.next
    | with_reducible refine Keeps.ite ?_ ?_

end Sys2Proof.Machine
end

