-- ==== Sys2Proof/Laws/KeepsDomain.lean ====
section
/-! SUPPORT. What the functions of `Machine/Domain.lean` keep. -/

namespace Sys2Proof.Machine

open Sys2Proof

theorem stewardStart_keeps {T : List Nat} {s u : State} {heard : Bool}
    (hT : Sub [13, 0x6210] T) (h : Keeps T s u) : Keeps T s (stewardStart u heard) := by
  unfold stewardStart
  repeat' first
    | with_reducible assumption
    | exact Sub.of rfl hT
    | with_reducible apply wr_keeps
    | with_reducible apply modClover_keeps
    | with_reducible refine Keeps.ite ?_ ?_
    | with_reducible intro _
    | split

theorem fccStart_keeps {T : List Nat} {s u : State} {heard : Bool}
    (hT : Sub [13, 14, 17, 0x6210, 0x7100] T) (h : Keeps T s u) : Keeps T s (fccStart u heard) := by
  unfold fccStart
  repeat' first
    | with_reducible assumption
    | exact Sub.of rfl hT
    | with_reducible apply wr_keeps
    | with_reducible apply stewardStart_keeps
    | with_reducible apply clvChannel_keeps
    | with_reducible apply modRst_keeps
    | with_reducible refine Keeps.ite ?_ ?_

theorem domUp_keeps {T : List Nat} {s u : State} {u' : ℕ} {fail : Option (ℕ × ℕ)}
    (hT : Sub [4, 6, 7, 9, 11, 13, 14, 16, 17, 0x3401, 0x3402, 0x3411, 0x4000, 0x4001, 0x4110, 0x4140, 0x4400, 0x5001, 0x5804, 0x6210, 0x7002, 0x7100, 0x9000, 0x9001, 0x9010] T) (h : Keeps T s u) : Keeps T s (domUp u u' fail) := by
  unfold domUp
  repeat' first
    | with_reducible assumption
    | exact Sub.of rfl hT
    | with_reducible apply zeroBlock_keeps
    | with_reducible apply record_keeps
    | with_reducible apply wr_keeps
    | with_reducible apply each_keeps
    | with_reducible apply zeroSlice_keeps
    | with_reducible apply leaveOff_keeps
    | with_reducible apply fccStart_keeps
    | with_reducible refine Keeps.ite ?_ ?_
    | (extract_lets +onlyGivenNames x; first | refine (fun hx => ?_ : Keeps _ _ x → _) ?_ | refine (fun hx => ?_ : KeepsP _ _ x → _) ?_ | skip)
    | with_reducible intro _
    | split

theorem domExit_keeps {T : List Nat} {s u : State} {u' : ℕ} {fail : Option (ℕ × ℕ)}
    (hT : Sub [4, 6, 7, 9, 11, 13, 14, 16, 17, 0x2020, 0x3401, 0x3402, 0x3411, 0x4000, 0x4001, 0x4110, 0x4140, 0x4400, 0x5001, 0x5804, 0x6210, 0x7002, 0x7100, 0x9000, 0x9001, 0x9010] T) (h : Keeps T s u) : Keeps T s (domExit u u' fail) := by
  unfold domExit
  repeat' first
    | with_reducible assumption
    | exact Sub.of rfl hT
    | with_reducible apply record_keeps
    | with_reducible apply wr_keeps
    | with_reducible apply domUp_keeps
    | with_reducible refine Keeps.ite ?_ ?_
    | (extract_lets +onlyGivenNames x; first | refine (fun hx => ?_ : Keeps _ _ x → _) ?_ | refine (fun hx => ?_ : KeepsP _ _ x → _) ?_ | skip)
    | with_reducible intro _
    | split

theorem execDomainResetExit_keeps {u : State} {unit : ℕ} {fail : Option (ℕ × ℕ)} :
    OutKeeps [4, 6, 7, 9, 11, 13, 14, 16, 17, 0x2020, 0x3401, 0x3402, 0x3411, 0x4000, 0x4001, 0x4110, 0x4140, 0x4400, 0x5001, 0x5804, 0x6210, 0x7002, 0x7100, 0x9000, 0x9001, 0x9010] u (execDomainResetExit unit fail u) := by
  have h := Keeps.refl [4, 6, 7, 9, 11, 13, 14, 16, 17, 0x2020, 0x3401, 0x3402, 0x3411, 0x4000, 0x4001, 0x4110, 0x4140, 0x4400, 0x5001, 0x5804, 0x6210, 0x7002, 0x7100, 0x9000, 0x9001, 0x9010] u
  have hT := Sub.rfl (a := [4, 6, 7, 9, 11, 13, 14, 16, 17, 0x2020, 0x3401, 0x3402, 0x3411, 0x4000, 0x4001, 0x4110, 0x4140, 0x4400, 0x5001, 0x5804, 0x6210, 0x7002, 0x7100, 0x9000, 0x9001, 0x9010])
  unfold execDomainResetExit
  repeat' first
    | with_reducible assumption
    | exact Sub.of rfl hT
    | with_reducible apply domExit_keeps
    | with_reducible apply each_keeps
    | with_reducible apply OutKeeps.next
    | with_reducible refine Keeps.ite ?_ ?_
    | with_reducible intro _

theorem clearPort_keeps {T : List Nat} {s u : State} {p : ℕ}
    (hT : Sub [4, 6, 9, 16, 0x4000, 0x4110, 0x4140, 0x4400, 0x5804, 0x7002] T) (h : Keeps T s u) : Keeps T s (clearPort u p) := by
  unfold clearPort
  repeat' first
    | with_reducible assumption
    | exact Sub.of rfl hT
    | with_reducible apply modPort_keeps
    | with_reducible apply leaveUp_keeps
    | with_reducible apply wr_keeps
    | with_reducible refine Keeps.ite ?_ ?_

theorem domNote_keeps {T : List Nat} {s u : State} {u' : ℕ}
    (hT : Sub [14] T) (h : Keeps T s u) : Keeps T s (domNote u u') := by
  unfold domNote
  repeat' first
    | with_reducible assumption
    | exact Sub.of rfl hT
    | with_reducible apply modRst_keeps

theorem clearBlock_keeps {T : List Nat} {s u : State} {b : ℕ}
    (hT : Sub [5, 16, 31] T) (h : Keeps T s u) : Keeps T s (clearBlock u b) := by
  unfold clearBlock
  repeat' first
    | with_reducible assumption
    | exact Sub.of rfl hT
    | with_reducible apply modBlock_keeps
    | with_reducible apply odClear_keeps
    | with_reducible apply wr_keeps
    | with_reducible apply clearRepeats_keeps

theorem clearStack_keeps {T : List Nat} {s u : State} {n : ℕ}
    (hT : Sub [2, 3, 6, 8, 12, 0x3000, 0x3001, 0x3411] T) (h : Keeps T s u) : Keeps T s (clearStack u n) := by
  unfold clearStack
  repeat' first
    | with_reducible assumption
    | exact Sub.of rfl hT
    | with_reducible apply each_keeps
    | with_reducible apply resetCmd_keeps
    | with_reducible apply wr_keeps
    | with_reducible apply modMsys_keeps
    | with_reducible refine Keeps.ite ?_ ?_
    | (extract_lets +onlyGivenNames x; first | refine (fun hx => ?_ : Keeps _ _ x → _) ?_ | refine (fun hx => ?_ : KeepsP _ _ x → _) ?_ | skip)
    | with_reducible intro _
    | split

theorem clearRouter_keeps {T : List Nat} {s u : State}
    (hT : Sub [9, 11, 31] T) (h : Keeps T s u) : Keeps T s (clearRouter u) := by
  unfold clearRouter
  repeat' first
    | with_reducible assumption
    | exact Sub.of rfl hT
    | with_reducible apply odClear_keeps
    | with_reducible apply setRouter_keeps
    | with_reducible apply setPorts_keeps
    | exact fun w => rising_vals _ (fun _ => rfl) w.ports

theorem clearEndpoint_keeps {T : List Nat} {s u : State}
    (hT : Sub [2, 3, 5, 6, 8, 9, 11, 12, 13, 14, 16, 19, 20, 31] T) (h : Keeps T s u) : Keeps T s (clearEndpoint u) := by
  unfold clearEndpoint
  repeat' first
    | with_reducible assumption
    | exact Sub.of rfl hT
    | with_reducible apply each_keeps
    | with_reducible apply resetOne_keeps
    | with_reducible apply odClear_keeps
    | with_reducible apply modRst_keeps
    | with_reducible apply modHost_keeps
    | exact fun _ w => w
    | exact fun _ w => memWrite_wf _ _ w
    | with_reducible refine Keeps.ite ?_ ?_
    | exact Sub.reg _ hT rfl
    | (extract_lets +onlyGivenNames x; first | refine (fun hx => ?_ : Keeps _ _ x → _) ?_ | refine (fun hx => ?_ : KeepsP _ _ x → _) ?_ | skip)
    | with_reducible intro _

theorem clearHome_keeps {T : List Nat} {s u : State} {h' : Home}
    (hT : Sub [1, 31] T) (h : Keeps T s u) : Keeps T s (clearHome u h') := by
  unfold clearHome
  repeat' first
    | with_reducible assumption
    | exact Sub.of rfl hT
    | with_reducible apply setOdBytes_keeps
    | with_reducible apply odClear_keeps
    | exact fun w => rising_fil _ w.odBytes

theorem sessionEnded_keeps {T : List Nat} {s u : State} {x' : Session} {cause : ℕ}
    (hT : Sub [16, 0x7002] T) (h : Keeps T s u) : Keeps T s (sessionEnded u x' cause) := by
  unfold sessionEnded
  repeat' first
    | with_reducible assumption
    | exact Sub.of rfl hT
    | with_reducible apply record_keeps

theorem clearFcc_keeps {T : List Nat} {s u : State}
    (hT : Sub [1, 13, 16, 17, 18, 19, 31] T) (h : Keeps T s u) : Keeps T s (clearFcc u) := by
  unfold clearFcc
  have h1 := clearHome_keeps (h' := .fcc) (Sub.of rfl hT) h
  refine ldgCounts_keeps (Sub.of rfl hT) (each_keeps (fun v x hv => sessionEnded_keeps (Sub.of rfl hT) hv)
    (h1.trans ⟨fun p hp hd => ?_, fun w => { w with tally := rfl }, List.prefix_refl _, Nat.le_refl _⟩))
  unfold SameAt; split <;> first | rfl | exact absurd (hT.mem rfl (by decide)) hp | (intros; rfl)


theorem domClear_keeps {T : List Nat} {s u : State} {u' : ℕ}
    (hT : Sub [1, 2, 3, 4, 5, 6, 8, 9, 11, 12, 13, 14, 16, 17, 18, 19, 20, 31] T) (h : Keeps T s u) : Keeps T s (domClear u u') := by
  unfold domClear
  repeat' first
    | with_reducible assumption
    | exact Sub.of rfl hT
    | with_reducible apply modBlock_keeps
    | with_reducible apply clearBlock_keeps
    | with_reducible apply clear_keeps
    | with_reducible apply clearStack_keeps
    | with_reducible apply clearRouter_keeps
    | with_reducible apply clearPort_keeps
    | with_reducible apply clearEndpoint_keeps
    | with_reducible apply wr_keeps
    | with_reducible apply clearFcc_keeps
    | with_reducible refine Keeps.ite ?_ ?_
    | exact Sub.reg _ hT rfl
    | with_reducible intro _
    | split

theorem domOne_keeps {T : List Nat} {s u : State} {u' : ℕ} {cause : ℕ}
    (hT : Sub [1, 2, 3, 4, 5, 6, 8, 9, 11, 12, 13, 14, 16, 17, 18, 19, 20, 31] T) (h : Keeps T s u) : Keeps T s (domOne u u' cause) := by
  unfold domOne
  repeat' first
    | with_reducible assumption
    | exact Sub.of rfl hT
    | with_reducible apply domNote_keeps
    | with_reducible apply domClear_keeps
    | with_reducible apply record_keeps
    | with_reducible apply bumpSat_keeps
    | with_reducible apply wr_keeps
    | with_reducible refine Keeps.ite ?_ ?_

theorem domReset_keeps {T : List Nat} {s u : State} {u' : ℕ} {cause : ℕ}
    (hT : Sub [1, 2, 3, 4, 5, 6, 8, 9, 11, 12, 13, 14, 16, 17, 18, 19, 20, 31] T) (h : Keeps T s u) : Keeps T s (domReset u u' cause) := by
  unfold domReset
  repeat' first
    | with_reducible assumption
    | exact Sub.of rfl hT
    | with_reducible apply each_keeps
    | with_reducible apply domOne_keeps
    | with_reducible refine Keeps.ite ?_ ?_
    | exact Sub.reg _ hT rfl
    | with_reducible intro _

theorem portsLost_keeps {T : List Nat} {s u : State}
    (hT : Sub [4, 16, 0x5804, 0x7002] T) (h : Keeps T s u) : Keeps T s (portsLost u) := by
  unfold portsLost
  repeat' first
    | with_reducible assumption
    | exact Sub.of rfl hT
    | with_reducible apply masterLost_keeps
    | with_reducible refine Keeps.ite ?_ ?_

theorem clearMain_keeps {T : List Nat} {s u : State}
    (hT : Sub [1, 4, 5, 6, 7, 8, 9, 11, 12, 13, 14, 15, 16, 19, 31] T) (h : Keeps T s u) : Keeps T s (clearMain u) := by
  unfold clearMain
  have h1 := clearHome_keeps (h' := .main) (Sub.of rfl hT) (portsLost_keeps (Sub.of rfl hT)
    (each_keeps (l := u.blocks.map (·.1)) (fun v x hv => clearRepeats_keeps (b := x) (Sub.of rfl hT) hv) h))
  refine ⟨fun p hp hd => (h1.same p hp hd).trans ?_, fun ws => ?_, h1.onward⟩
  · unfold SameAt; split <;> first | rfl | exact absurd (hT.mem rfl (by decide)) hp | (intros; rfl)
  · have w := h1.wf ws
    have wu := h.wf ws
    exact { w with hostMem := wu.hostMem, blocks := rfl, parts := rfl, ports := rising_vals _ (fun _ => rfl) wu.ports }


theorem perstLow_keeps {T : List Nat} {s u : State}
    (hT : Sub [2, 3, 5, 6, 8, 9, 11, 12, 13, 14, 16, 19, 20, 31] T) (h : Keeps T s u) : Keeps T s (perstLow u) := by
  unfold perstLow
  repeat' first
    | with_reducible assumption
    | exact Sub.of rfl hT
    | with_reducible apply modHost_keeps
    | with_reducible apply clearEndpoint_keeps
    | with_reducible apply bumpSat_keeps
    | with_reducible apply wr_keeps
    | with_reducible apply domNote_keeps
    | exact fun _ w => w
    | exact fun _ w => memWrite_wf _ _ w
    | with_reducible refine Keeps.ite ?_ ?_

theorem domCmd_keeps {T : List Nat} {s u : State} {u' : ℕ}
    (hT : Sub [1, 2, 3, 4, 5, 6, 8, 9, 11, 12, 13, 14, 16, 17, 18, 19, 20, 31] T) (h : Keeps T s u) : KeepsP T s (domCmd u u') := by
  unfold domCmd
  repeat' first
    | with_reducible assumption
    | exact Sub.of rfl hT
    | with_reducible apply deny_keeps
    | with_reducible apply done_keeps
    | with_reducible apply domReset_keeps
    | with_reducible refine Keeps.ite ?_ ?_
    | with_reducible refine KeepsP.ite ?_ ?_

theorem execPerstRelease_keeps {u : State} :
    OutKeeps [4, 6, 7, 9, 11, 12, 13, 14, 16, 17, 0x2020, 0x3401, 0x3402, 0x3411, 0x4000, 0x4001, 0x4110, 0x4140, 0x4400, 0x5001, 0x5804, 0x6210, 0x7002, 0x7100, 0x9000, 0x9001, 0x9010] u (execPerstRelease u) := by
  have h := Keeps.refl [4, 6, 7, 9, 11, 12, 13, 14, 16, 17, 0x2020, 0x3401, 0x3402, 0x3411, 0x4000, 0x4001, 0x4110, 0x4140, 0x4400, 0x5001, 0x5804, 0x6210, 0x7002, 0x7100, 0x9000, 0x9001, 0x9010] u
  have hT := Sub.rfl (a := [4, 6, 7, 9, 11, 12, 13, 14, 16, 17, 0x2020, 0x3401, 0x3402, 0x3411, 0x4000, 0x4001, 0x4110, 0x4140, 0x4400, 0x5001, 0x5804, 0x6210, 0x7002, 0x7100, 0x9000, 0x9001, 0x9010])
  unfold execPerstRelease
  repeat' first
    | with_reducible assumption
    | exact Sub.of rfl hT
    | with_reducible apply domExit_keeps
    | with_reducible apply modHost_keeps
    | exact fun _ w => w
    | exact fun _ w => memWrite_wf _ _ w
    | with_reducible apply OutKeeps.next
    | with_reducible refine Keeps.ite ?_ ?_

theorem lasersOff_keeps {T : List Nat} {s u : State}
    (hT : Sub [0x4400] T) (h : Keeps T s u) : Keeps T s (lasersOff u) := by
  unfold lasersOff
  repeat' first
    | with_reducible assumption
    | exact Sub.of rfl hT
    | with_reducible apply each_keeps
    | with_reducible apply wr_keeps
    | with_reducible refine Keeps.ite ?_ ?_
    | with_reducible intro _

theorem execRstDomCmd_keeps {u : State} {who : Who} {unit : ℕ} {value : ℕ} :
    OutKeeps [1, 2, 3, 4, 5, 6, 8, 9, 11, 12, 13, 14, 16, 17, 18, 19, 20, 31] u (execRstDomCmd who unit value u) := by
  have h := Keeps.refl [1, 2, 3, 4, 5, 6, 8, 9, 11, 12, 13, 14, 16, 17, 18, 19, 20, 31] u
  have hT := Sub.rfl (a := [1, 2, 3, 4, 5, 6, 8, 9, 11, 12, 13, 14, 16, 17, 18, 19, 20, 31])
  unfold execRstDomCmd
  repeat' first
    | with_reducible assumption
    | exact Sub.of rfl hT
    | with_reducible apply guard_keeps
    | with_reducible apply domCmd_keeps
    | with_reducible apply OutKeeps.next
    | with_reducible refine Keeps.ite ?_ ?_
    | with_reducible refine KeepsP.ite ?_ ?_
    | with_reducible apply KeepsP.fst
    | exact Sub.reg _ hT rfl
    | with_reducible intro _

theorem execPcieFundamentalReset_keeps {u : State} :
    OutKeeps [2, 3, 5, 6, 8, 9, 11, 12, 13, 14, 16, 19, 20, 31] u (execPcieFundamentalReset u) := by
  have h := Keeps.refl [2, 3, 5, 6, 8, 9, 11, 12, 13, 14, 16, 19, 20, 31] u
  have hT := Sub.rfl (a := [2, 3, 5, 6, 8, 9, 11, 12, 13, 14, 16, 19, 20, 31])
  unfold execPcieFundamentalReset
  repeat' first
    | with_reducible assumption
    | exact Sub.of rfl hT
    | with_reducible apply perstLow_keeps
    | with_reducible apply OutKeeps.next

end Sys2Proof.Machine
end

