-- ==== Sys2Proof/Laws/KeepsBoot.lean ====
section
/-! SUPPORT. What the functions of `Machine/Boot.lean` keep. -/

namespace Sys2Proof.Machine

open Sys2Proof

theorem causeBits_keeps {T : List Nat} {s u : State} {bits_ : ℕ}
    (hT : Sub [0x2000] T) (h : Keeps T s u) : Keeps T s (causeBits u bits_) := by
  unfold causeBits
  repeat' first
    | with_reducible assumption
    | exact Sub.of rfl hT
    | with_reducible apply wr_keeps

theorem advanceGens_keeps {T : List Nat} {s u : State} {fcc : Bool}
    (hT : Sub [14, 0x2020] T) (h : Keeps T s u) : Keeps T s (advanceGens u fcc) := by
  unfold advanceGens
  repeat' first
    | with_reducible assumption
    | exact Sub.of rfl hT
    | with_reducible apply each_keeps
    | with_reducible apply wr_keeps
    | with_reducible apply domNote_keeps
    | with_reducible refine Keeps.ite ?_ ?_
    | with_reducible intro _

theorem resetBegin_keeps {T : List Nat} {s u : State} {bit : ℕ} {stage : ℕ}
    (hT : Sub [1, 4, 5, 6, 7, 8, 9, 11, 12, 13, 14, 15, 16, 17, 18, 19, 31] T) (h : Keeps T s u) : Keeps T s (resetBegin u bit stage) := by
  unfold resetBegin
  repeat' first
    | with_reducible assumption
    | exact Sub.of rfl hT
    | with_reducible apply causeBits_keeps
    | with_reducible apply lasersOff_keeps
    | with_reducible apply advanceGens_keeps
    | with_reducible apply clearMain_keeps
    | with_reducible apply odClear_keeps
    | with_reducible apply clearFcc_keeps
    | with_reducible apply wr_keeps
    | with_reducible apply modRst_keeps
    | with_reducible refine Keeps.ite ?_ ?_

theorem trip_keeps {T : List Nat} {s u : State}
    (hT : Sub [1, 4, 5, 6, 7, 8, 9, 11, 12, 13, 14, 15, 16, 17, 18, 19, 31] T) (h : Keeps T s u) : Keeps T s (trip u) := by
  unfold trip
  repeat' first
    | with_reducible assumption
    | exact Sub.of rfl hT
    | with_reducible apply modRst_keeps
    | with_reducible apply resetBegin_keeps
    | with_reducible refine Keeps.ite ?_ ?_

theorem execThermalTrip_keeps {u : State} :
    OutKeeps [1, 4, 5, 6, 7, 8, 9, 11, 12, 13, 14, 15, 16, 17, 18, 19, 31] u (execThermalTrip u) := by
  have h := Keeps.refl [1, 4, 5, 6, 7, 8, 9, 11, 12, 13, 14, 15, 16, 17, 18, 19, 31] u
  have hT := Sub.rfl (a := [1, 4, 5, 6, 7, 8, 9, 11, 12, 13, 14, 15, 16, 17, 18, 19, 31])
  unfold execThermalTrip
  repeat' first
    | with_reducible assumption
    | exact Sub.of rfl hT
    | with_reducible apply trip_keeps
    | with_reducible apply OutKeeps.next

theorem lifeResume_keeps {T : List Nat} {s u : State}
    (hT : Sub [19, 31] T) (h : Keeps T s u) : Keeps T s (lifeResume u) := by
  unfold lifeResume
  extract_lets cs best s1 life s2
  exact modObs_keeps (Sub.of rfl hT) (setOd_keeps 31 (fun _ _ h31 => absurd rfl h31)
    (fun w => rising_puts _ _ w.od) (Sub.of rfl hT) (odClear_keeps (Sub.of rfl hT) h))


theorem porstn_keeps {T : List Nat} {s u : State} {ns : ℕ} {honour : Bool}
    (hT : Sub [1, 4, 5, 6, 7, 8, 9, 11, 12, 13, 14, 15, 16, 17, 18, 19, 31] T) (h : Keeps T s u) : Keeps T s (porstn u ns honour) := by
  unfold porstn
  repeat' first
    | with_reducible assumption
    | exact Sub.of rfl hT
    | with_reducible apply bumpSat_keeps
    | with_reducible apply modRst_keeps
    | with_reducible apply resetBegin_keeps
    | with_reducible refine Keeps.ite ?_ ?_

theorem noteExit_keeps {T : List Nat} {s u : State}
    (hT : Sub [14, 0x2000, 0x2010] T) (h : Keeps T s u) : Keeps T s (noteExit u) := by
  unfold noteExit
  repeat' first
    | with_reducible assumption
    | exact Sub.of rfl hT
    | with_reducible apply wr_keeps
    | with_reducible apply modRst_keeps
    | with_reducible apply each_keeps
    | with_reducible refine Keeps.ite ?_ ?_
    | (extract_lets +onlyGivenNames x; first | refine (fun hx => ?_ : Keeps _ _ x → _) ?_ | refine (fun hx => ?_ : KeepsP _ _ x → _) ?_ | skip)
    | with_reducible intro _

theorem bkp7_keeps {T : List Nat} {s u : State}
    (hT : Sub [0x2010] T) (h : Keeps T s u) : Keeps T s (bkp7 u) := by
  unfold bkp7
  repeat' first
    | with_reducible assumption
    | exact Sub.of rfl hT
    | with_reducible apply wr_keeps

theorem readStrap_keeps {T : List Nat} {s u : State} {adc : ℕ}
    (hT : Sub [14, 16, 0x2000, 0x2002, 0x2010, 0x6210, 0x7002] T) (h : Keeps T s u) : Keeps T s (readStrap u adc) := by
  unfold readStrap
  repeat' first
    | with_reducible assumption
    | exact Sub.of rfl hT
    | with_reducible apply wr_keeps
    | with_reducible apply modRst_keeps
    | with_reducible apply record_keeps
    | with_reducible apply causeBits_keeps
    | with_reducible apply bkp7_keeps
    | with_reducible refine Keeps.ite ?_ ?_
    | (extract_lets +onlyGivenNames x; first | refine (fun hx => ?_ : Keeps _ _ x → _) ?_ | refine (fun hx => ?_ : KeepsP _ _ x → _) ?_ | skip)
    | with_reducible intro _
    | split

theorem recovery_keeps {T : List Nat} {s u : State} {rom : Bool}
    (hT : Sub [14, 0x2000] T) (h : Keeps T s u) : Keeps T s (recovery u rom) := by
  unfold recovery
  repeat' first
    | with_reducible assumption
    | exact Sub.of rfl hT
    | with_reducible apply modRst_keeps
    | with_reducible apply wr_keeps

theorem resetEnd_keeps {T : List Nat} {s u : State} {leave : Bool}
    (hT : Sub [14, 16, 0x2000, 0x2002, 0x2010, 0x6210, 0x7002, 0x9010] T) (h : Keeps T s u) : Keeps T s (resetEnd u leave) := by
  unfold resetEnd
  repeat' first
    | with_reducible assumption
    | exact Sub.of rfl hT
    | with_reducible apply noteExit_keeps
    | with_reducible apply modRst_keeps
    | with_reducible apply record_keeps
    | with_reducible apply causeBits_keeps
    | with_reducible apply readStrap_keeps
    | with_reducible apply bumpSat_keeps
    | with_reducible apply bkp7_keeps
    | with_reducible apply wr_keeps
    | with_reducible apply recovery_keeps
    | with_reducible refine Keeps.ite ?_ ?_

theorem tripClear_keeps {T : List Nat} {s u : State}
    (hT : Sub [14, 16, 0x2000, 0x2002, 0x2010, 0x6210, 0x7002, 0x9010] T) (h : Keeps T s u) : Keeps T s (tripClear u) := by
  unfold tripClear
  repeat' first
    | with_reducible assumption
    | exact Sub.of rfl hT
    | with_reducible apply modRst_keeps
    | with_reducible apply resetEnd_keeps
    | with_reducible refine Keeps.ite ?_ ?_

theorem dropList_keeps {T : List Nat} {s u : State} {k : ℕ}
    (hT : Sub [8, 16, 0x7002] T) (h : Keeps T s u) : Keeps T s (dropList u k) := by
  unfold dropList
  repeat' first
    | with_reducible assumption
    | exact Sub.of rfl hT
    | with_reducible apply modMsys_keeps
    | with_reducible apply record_keeps

theorem stage1End_keeps {T : List Nat} {s u : State} {e : StageEnd}
    (hT : Sub [8, 14, 16, 0x2000, 0x2002, 0x2010, 0x6210, 0x7002] T) (h : Keeps T s u) : Keeps T s (stage1End u e) := by
  unfold stage1End
  repeat' first
    | with_reducible assumption
    | exact Sub.of rfl hT
    | with_reducible apply readStrap_keeps
    | with_reducible apply modRst_keeps
    | with_reducible apply wr_keeps
    | with_reducible apply each_keeps
    | with_reducible apply dropList_keeps
    | with_reducible refine Keeps.ite ?_ ?_
    | with_reducible intro _

theorem sectorAgain_keeps {T : List Nat} {s u : State} {x' : ℕ × Bool}
    (hT : Sub [16, 0x7002] T) (h : Keeps T s u) : Keeps T s (sectorAgain u x') := by
  unfold sectorAgain
  repeat' first
    | with_reducible assumption
    | exact Sub.of rfl hT
    | with_reducible apply raise_keeps
    | with_reducible apply modLedger_keeps
    | with_reducible apply record_keeps

theorem fccBoot_keeps {T : List Nat} {s u : State} {e : StageEnd}
    (hT : Sub [13, 14, 16, 17, 19, 31] T) (h : Keeps T s u) : Keeps T s (fccBoot u e) := by
  unfold fccBoot
  repeat' first
    | with_reducible assumption
    | exact Sub.of rfl hT
    | with_reducible apply fccStart_keeps
    | with_reducible apply lifeResume_keeps
    | with_reducible apply each_keeps
    | with_reducible apply sectorAgain_keeps
    | with_reducible apply ldgCounts_keeps
    | with_reducible apply bumpSat_keeps
    | with_reducible apply ldgRefill_keeps
    | with_reducible apply record_keeps
    | with_reducible apply modRst_keeps
    | with_reducible refine Keeps.ite ?_ ?_
    | exact Sub.reg _ hT rfl
    | (extract_lets +onlyGivenNames x; first | refine (fun hx => ?_ : Keeps _ _ x → _) ?_ | refine (fun hx => ?_ : KeepsP _ _ x → _) ?_ | skip)
    | with_reducible intro _

theorem toStage3_keeps {T : List Nat} {s u : State}
    (hT : Sub [14, 0x2000] T) (h : Keeps T s u) : Keeps T s (toStage3 u) := by
  unfold toStage3
  repeat' first
    | with_reducible assumption
    | exact Sub.of rfl hT
    | with_reducible apply modRst_keeps
    | with_reducible apply wr_keeps
    | with_reducible refine Keeps.ite ?_ ?_

theorem stage2End_keeps {T : List Nat} {s u : State} {e : StageEnd}
    (hT : Sub [13, 14, 16, 17, 19, 31] T) (h : Keeps T s u) : Keeps T s (stage2End u e) := by
  unfold stage2End
  repeat' first
    | with_reducible assumption
    | exact Sub.of rfl hT
    | with_reducible apply record_keeps
    | with_reducible apply recovery_keeps
    | with_reducible apply wr_keeps
    | with_reducible apply fccBoot_keeps
    | with_reducible apply toStage3_keeps
    | with_reducible apply modRst_keeps
    | with_reducible refine Keeps.ite ?_ ?_

theorem stage4End_keeps {T : List Nat} {s u : State} {e : StageEnd}
    (hT : Sub [2, 3, 4, 6, 9, 11, 13, 16, 0x2000, 0x3411, 0x4000, 0x4001, 0x4110, 0x4140, 0x4400, 0x5804, 0x7002, 0x9000, 0x9001, 0x9010] T) (h : Keeps T s u) : Keeps T s (stage4End u e) := by
  unfold stage4End
  repeat' first
    | with_reducible assumption
    | exact Sub.of rfl hT
    | with_reducible apply each_keeps
    | with_reducible apply wr_keeps
    | with_reducible apply record_keeps
    | with_reducible apply setPoison_keeps
    | with_reducible apply setMem_keeps
    | with_reducible apply leaveOff_keeps
    | exact fun _ => rfl
    | with_reducible refine Keeps.ite ?_ ?_
    | (extract_lets +onlyGivenNames x; first | refine (fun hx => ?_ : Keeps _ _ x → _) ?_ | refine (fun hx => ?_ : KeepsP _ _ x → _) ?_ | skip)
    | with_reducible intro _

theorem stage6End_keeps {T : List Nat} {s u : State} {e : StageEnd}
    (hT : Sub [16, 0x2000, 0x6010, 0x6202, 0x7002] T) (h : Keeps T s u) : Keeps T s (stage6End u e) := by
  unfold stage6End
  repeat' first
    | with_reducible assumption
    | exact Sub.of rfl hT
    | with_reducible apply each_keeps
    | with_reducible apply wr_keeps
    | with_reducible apply record_keeps
    | with_reducible refine Keeps.ite ?_ ?_
    | (extract_lets +onlyGivenNames x; first | refine (fun hx => ?_ : Keeps _ _ x → _) ?_ | refine (fun hx => ?_ : KeepsP _ _ x → _) ?_ | skip)
    | with_reducible intro _

theorem stage7End_keeps {T : List Nat} {s u : State} {e : StageEnd}
    (hT : Sub [14, 16, 0x2000, 0x5001, 0x6103, 0x6202, 0x7002] T) (h : Keeps T s u) : Keeps T s (stage7End u e) := by
  unfold stage7End
  repeat' first
    | with_reducible assumption
    | exact Sub.of rfl hT
    | with_reducible apply modRst_keeps
    | with_reducible apply wr_keeps
    | with_reducible apply record_keeps
    | with_reducible apply each_keeps
    | with_reducible refine Keeps.ite ?_ ?_
    | (extract_lets +onlyGivenNames x; first | refine (fun hx => ?_ : Keeps _ _ x → _) ?_ | refine (fun hx => ?_ : KeepsP _ _ x → _) ?_ | skip)
    | with_reducible intro _

theorem stageEnd_keeps {T : List Nat} {s u : State} {e : StageEnd}
    (hT : Sub [2, 3, 4, 6, 8, 9, 11, 13, 14, 16, 17, 19, 31] T) (h : Keeps T s u) : Keeps T s (stageEnd u e) := by
  unfold stageEnd
  repeat' first
    | with_reducible assumption
    | exact Sub.of rfl hT
    | with_reducible apply wr_keeps
    | with_reducible apply stage1End_keeps
    | with_reducible apply stage2End_keeps
    | with_reducible apply each_keeps
    | with_reducible apply modMsys_keeps
    | with_reducible apply recovery_keeps
    | with_reducible apply stage4End_keeps
    | with_reducible apply stage6End_keeps
    | with_reducible apply stage7End_keeps
    | with_reducible refine Keeps.ite ?_ ?_
    | exact Sub.reg _ hT rfl
    | (extract_lets +onlyGivenNames x; first | refine (fun hx => ?_ : Keeps _ _ x → _) ?_ | refine (fun hx => ?_ : KeepsP _ _ x → _) ?_ | skip)
    | with_reducible intro _
    | split

theorem railsDown_keeps {T : List Nat} {s u : State}
    (hT : Sub [1, 4, 5, 6, 7, 8, 9, 11, 12, 13, 14, 15, 16, 19, 31] T) (h : Keeps T s u) : Keeps T s (railsDown u) := by
  unfold railsDown
  repeat' first
    | with_reducible assumption
    | exact Sub.of rfl hT
    | with_reducible apply modRst_keeps
    | with_reducible apply lasersOff_keeps
    | with_reducible apply clearMain_keeps

theorem execOrderlyShutdown_keeps {u : State} :
    OutKeeps [1, 4, 5, 6, 7, 8, 9, 11, 12, 13, 14, 15, 16, 19, 31] u (execOrderlyShutdown u) := by
  have h := Keeps.refl [1, 4, 5, 6, 7, 8, 9, 11, 12, 13, 14, 15, 16, 19, 31] u
  have hT := Sub.rfl (a := [1, 4, 5, 6, 7, 8, 9, 11, 12, 13, 14, 15, 16, 19, 31])
  unfold execOrderlyShutdown
  repeat' first
    | with_reducible assumption
    | exact Sub.of rfl hT
    | with_reducible apply railsDown_keeps
    | with_reducible apply modMsys_keeps
    | with_reducible apply OutKeeps.next
    | with_reducible refine Keeps.ite ?_ ?_

theorem modImg_keeps {T : List Nat} {s u : State} {f : ImageSlot → ImageSlot}
    (hT : Sub [14] T) (h : Keeps T s u) : Keeps T s (modImg u f) := by
  unfold modImg
  repeat' first
    | with_reducible assumption
    | exact Sub.of rfl hT
    | with_reducible apply modRst_keeps

theorem imgData_keeps {T : List Nat} {s u : State} {bytes : List Byte}
    (hT : Sub [14, 0x2040] T) (h : Keeps T s u) : KeepsP T s (imgData u bytes) := by
  unfold imgData
  repeat' first
    | with_reducible assumption
    | exact Sub.of rfl hT
    | with_reducible apply deny_keeps
    | with_reducible apply modImg_keeps
    | with_reducible apply done_keeps
    | with_reducible apply wr_keeps
    | with_reducible refine Keeps.ite ?_ ?_
    | with_reducible refine KeepsP.ite ?_ ?_
    | with_reducible apply KeepsP.fst
    | (extract_lets +onlyGivenNames x; first | refine (fun hx => ?_ : Keeps _ _ x → _) ?_ | refine (fun hx => ?_ : KeepsP _ _ x → _) ?_ | skip)
    | with_reducible intro _
    | split
    | with_reducible apply KeepsP.mk

theorem pwrTimeout_keeps {T : List Nat} {s u : State}
    (hT : Sub [14, 16, 0x2000, 0x7002] T) (h : Keeps T s u) : Keeps T s (pwrTimeout u) := by
  unfold pwrTimeout
  repeat' first
    | with_reducible assumption
    | exact Sub.of rfl hT
    | with_reducible apply record_keeps
    | with_reducible apply modRst_keeps
    | with_reducible apply recovery_keeps
    | with_reducible refine Keeps.ite ?_ ?_

theorem porstnHeld_keeps {T : List Nat} {s u : State}
    (hT : Sub [16, 0x2000, 0x2010, 0x7002] T) (h : Keeps T s u) : Keeps T s (porstnHeld u) := by
  unfold porstnHeld
  repeat' first
    | with_reducible assumption
    | exact Sub.of rfl hT
    | with_reducible apply bkp7_keeps
    | with_reducible apply causeBits_keeps
    | with_reducible apply wr_keeps
    | with_reducible apply ldgCounts_keeps
    | with_reducible apply modLedger_keeps
    | with_reducible refine Keeps.ite ?_ ?_

theorem execPorstnHeld_keeps {u : State} :
    OutKeeps [16, 0x2000, 0x2010, 0x7002] u (execPorstnHeld u) := by
  have h := Keeps.refl [16, 0x2000, 0x2010, 0x7002] u
  have hT := Sub.rfl (a := [16, 0x2000, 0x2010, 0x7002])
  unfold execPorstnHeld
  repeat' first
    | with_reducible assumption
    | exact Sub.of rfl hT
    | with_reducible apply porstnHeld_keeps
    | with_reducible apply OutKeeps.next

theorem warm_keeps {T : List Nat} {s u : State} {leave : Bool}
    (hT : Sub [1, 4, 5, 6, 7, 8, 9, 11, 12, 13, 14, 15, 16, 17, 18, 19, 31] T) (h : Keeps T s u) : Keeps T s (warm u leave) := by
  unfold warm
  repeat' first
    | with_reducible assumption
    | exact Sub.of rfl hT
    | with_reducible apply resetEnd_keeps
    | with_reducible apply resetBegin_keeps
    | with_reducible refine Keeps.ite ?_ ?_

theorem leaveRecovery_keeps {T : List Nat} {s u : State}
    (hT : Sub [1, 4, 5, 6, 7, 8, 9, 11, 12, 13, 14, 15, 16, 17, 18, 19, 31] T) (h : Keeps T s u) : KeepsP T s (leaveRecovery u) := by
  unfold leaveRecovery
  repeat' first
    | with_reducible assumption
    | exact Sub.of rfl hT
    | with_reducible apply done_keeps
    | with_reducible apply warm_keeps
    | with_reducible apply deny_keeps
    | with_reducible refine Keeps.ite ?_ ?_
    | with_reducible refine KeepsP.ite ?_ ?_

theorem execLeaveRecoveryBoot_keeps {u : State} {who : Who} :
    OutKeeps [1, 4, 5, 6, 7, 8, 9, 11, 12, 13, 14, 15, 16, 17, 18, 19, 20, 31] u (execLeaveRecoveryBoot who u) := by
  have h := Keeps.refl [1, 4, 5, 6, 7, 8, 9, 11, 12, 13, 14, 15, 16, 17, 18, 19, 20, 31] u
  have hT := Sub.rfl (a := [1, 4, 5, 6, 7, 8, 9, 11, 12, 13, 14, 15, 16, 17, 18, 19, 20, 31])
  unfold execLeaveRecoveryBoot
  repeat' first
    | with_reducible assumption
    | exact Sub.of rfl hT
    | with_reducible apply guard_keeps
    | with_reducible apply leaveRecovery_keeps
    | with_reducible apply OutKeeps.next
    | with_reducible refine Keeps.ite ?_ ?_
    | with_reducible refine KeepsP.ite ?_ ?_
    | with_reducible apply KeepsP.fst
    | exact Sub.reg _ hT rfl
    | with_reducible intro _

theorem unpowered_keeps {T : List Nat} {s u : State}
    (hT : Sub [1, 2, 3, 4, 5, 6, 7, 8, 9, 10, 11, 12, 13, 14, 15, 16, 17, 18, 19, 31] T) (h : Keeps T s u) : Keeps T s (unpowered u) := by
  unfold unpowered
  refine ldgCounts_keeps (Sub.of rfl hT) (h.trans ⟨fun p hp hd => ?_, fun w => ?_, List.prefix_refl _, Nat.le_refl _⟩)
  · unfold SameAt; split <;> first | rfl | exact absurd (hT.mem rfl (by decide)) hp | skip
    rename_i h22
    rcases hT 31 (by simp) with h31 | ⟨_, h31⟩ <;>
      · have := hd h31
        interval_cases p <;> simp_all
  · exact { mem := rfl, hostMem := w.hostMem, od := rising_fil _ w.od, odBytes := rising_fil _ w.odBytes,
            blocks := rfl, parts := rfl, ports := rfl, lasers := rfl, tally := rfl }


theorem execPwrGoodFall_keeps {u : State} :
    OutKeeps [1, 4, 5, 6, 7, 8, 9, 11, 12, 13, 14, 15, 16, 19, 31] u (execPwrGoodFall u) := by
  have h := Keeps.refl [1, 4, 5, 6, 7, 8, 9, 11, 12, 13, 14, 15, 16, 19, 31] u
  have hT := Sub.rfl (a := [1, 4, 5, 6, 7, 8, 9, 11, 12, 13, 14, 15, 16, 19, 31])
  unfold execPwrGoodFall
  repeat' first
    | with_reducible assumption
    | exact Sub.of rfl hT
    | with_reducible apply modRst_keeps
    | with_reducible apply railsDown_keeps
    | with_reducible apply OutKeeps.next
    | with_reducible refine Keeps.ite ?_ ?_

theorem execPorstnAssert_keeps {u : State} {ns : ℕ} {honour : Bool} :
    OutKeeps [1, 4, 5, 6, 7, 8, 9, 11, 12, 13, 14, 15, 16, 17, 18, 19, 31] u (execPorstnAssert ns honour u) := by
  have h := Keeps.refl [1, 4, 5, 6, 7, 8, 9, 11, 12, 13, 14, 15, 16, 17, 18, 19, 31] u
  have hT := Sub.rfl (a := [1, 4, 5, 6, 7, 8, 9, 11, 12, 13, 14, 15, 16, 17, 18, 19, 31])
  unfold execPorstnAssert
  repeat' first
    | with_reducible assumption
    | exact Sub.of rfl hT
    | with_reducible apply porstn_keeps
    | with_reducible apply OutKeeps.next

theorem execThermalTripClear_keeps {u : State} :
    OutKeeps [14, 16, 0x2000, 0x2002, 0x2010, 0x6210, 0x7002, 0x9010] u (execThermalTripClear u) := by
  have h := Keeps.refl [14, 16, 0x2000, 0x2002, 0x2010, 0x6210, 0x7002, 0x9010] u
  have hT := Sub.rfl (a := [14, 16, 0x2000, 0x2002, 0x2010, 0x6210, 0x7002, 0x9010])
  unfold execThermalTripClear
  repeat' first
    | with_reducible assumption
    | exact Sub.of rfl hT
    | with_reducible apply tripClear_keeps
    | with_reducible apply OutKeeps.next

theorem hang_keeps {T : List Nat} {s u : State} {u' : ℕ} {op : ℕ}
    (hT : Sub [1, 2, 3, 4, 5, 6, 7, 8, 9, 11, 12, 13, 14, 15, 16, 17, 18, 19, 20, 31] T) (h : Keeps T s u) : Keeps T s (hang u u' op) := by
  unfold hang
  repeat' first
    | with_reducible assumption
    | exact Sub.of rfl hT
    | with_reducible apply domReset_keeps
    | with_reducible apply record_keeps
    | with_reducible apply bumpSat_keeps
    | with_reducible apply warm_keeps
    | with_reducible apply fenceChip_keeps

theorem execPlannedTimerExpiry_keeps {u : State} {unit : ℕ} {operation : ℕ} :
    OutKeeps [1, 2, 3, 4, 5, 6, 7, 8, 9, 11, 12, 13, 14, 15, 16, 17, 18, 19, 20, 31] u (execPlannedTimerExpiry unit operation u) := by
  have h := Keeps.refl [1, 2, 3, 4, 5, 6, 7, 8, 9, 11, 12, 13, 14, 15, 16, 17, 18, 19, 20, 31] u
  have hT := Sub.rfl (a := [1, 2, 3, 4, 5, 6, 7, 8, 9, 11, 12, 13, 14, 15, 16, 17, 18, 19, 20, 31])
  unfold execPlannedTimerExpiry
  repeat' first
    | with_reducible assumption
    | exact Sub.of rfl hT
    | with_reducible apply hang_keeps
    | with_reducible apply OutKeeps.next
    | with_reducible refine Keeps.ite ?_ ?_

theorem imgChecked_keeps {T : List Nat} {s u : State} {c : BootCheck}
    (hT : Sub [14, 16, 0x2040, 0x7002] T) (h : Keeps T s u) : Keeps T s (imgChecked u c) := by
  unfold imgChecked
  repeat' first
    | with_reducible assumption
    | exact Sub.of rfl hT
    | with_reducible apply wr_keeps
    | with_reducible apply modImg_keeps
    | with_reducible apply record_keeps
    | with_reducible refine Keeps.ite ?_ ?_

theorem execImgCheckDone_keeps {u : State} {c : BootCheck} :
    OutKeeps [14, 16, 0x2040, 0x7002] u (execImgCheckDone c u) := by
  have h := Keeps.refl [14, 16, 0x2040, 0x7002] u
  have hT := Sub.rfl (a := [14, 16, 0x2040, 0x7002])
  unfold execImgCheckDone
  repeat' first
    | with_reducible assumption
    | exact Sub.of rfl hT
    | with_reducible apply imgChecked_keeps
    | with_reducible apply OutKeeps.next

theorem execRstImgData_keeps {u : State} {who : Who} {bytes : List Byte} :
    OutKeeps [14, 20, 0x2040] u (execRstImgData who bytes u) := by
  have h := Keeps.refl [14, 20, 0x2040] u
  have hT := Sub.rfl (a := [14, 20, 0x2040])
  unfold execRstImgData
  repeat' first
    | with_reducible assumption
    | exact Sub.of rfl hT
    | with_reducible apply guard_keeps
    | with_reducible apply imgData_keeps
    | with_reducible apply OutKeeps.next
    | with_reducible refine Keeps.ite ?_ ?_
    | with_reducible refine KeepsP.ite ?_ ?_
    | with_reducible apply KeepsP.fst
    | with_reducible intro _

theorem execImgEraseDone_keeps {u : State} :
    OutKeeps [14, 0x2040] u (execImgEraseDone u) := by
  have h := Keeps.refl [14, 0x2040] u
  have hT := Sub.rfl (a := [14, 0x2040])
  unfold execImgEraseDone
  repeat' first
    | with_reducible assumption
    | exact Sub.of rfl hT
    | with_reducible apply wr_keeps
    | with_reducible apply modImg_keeps
    | with_reducible apply OutKeeps.next
    | with_reducible refine Keeps.ite ?_ ?_

theorem execWarmReset_keeps {u : State} {who : Who} :
    OutKeeps [1, 4, 5, 6, 7, 8, 9, 11, 12, 13, 14, 15, 16, 17, 18, 19, 20, 31] u (execWarmReset who u) := by
  have h := Keeps.refl [1, 4, 5, 6, 7, 8, 9, 11, 12, 13, 14, 15, 16, 17, 18, 19, 20, 31] u
  have hT := Sub.rfl (a := [1, 4, 5, 6, 7, 8, 9, 11, 12, 13, 14, 15, 16, 17, 18, 19, 20, 31])
  unfold execWarmReset
  repeat' first
    | with_reducible assumption
    | exact Sub.of rfl hT
    | with_reducible apply guard_keeps
    | with_reducible apply done_keeps
    | with_reducible apply warm_keeps
    | with_reducible apply OutKeeps.next
    | with_reducible refine Keeps.ite ?_ ?_
    | with_reducible refine KeepsP.ite ?_ ?_
    | with_reducible apply KeepsP.fst
    | exact Sub.reg _ hT rfl
    | with_reducible intro _

theorem porstnUp_keeps {T : List Nat} {s u : State} {adc : ℕ}
    (hT : Sub [14, 16, 0x2000, 0x2002, 0x2010, 0x6210, 0x7002, 0x9010] T) (h : Keeps T s u) : Keeps T s (porstnUp u adc) := by
  unfold porstnUp
  repeat' first
    | with_reducible assumption
    | exact Sub.of rfl hT
    | with_reducible apply wr_keeps
    | with_reducible apply modRst_keeps
    | with_reducible apply resetEnd_keeps
    | with_reducible refine Keeps.ite ?_ ?_

theorem execPwrGoodTimeout_keeps {u : State} :
    OutKeeps [14, 16, 0x2000, 0x7002] u (execPwrGoodTimeout u) := by
  have h := Keeps.refl [14, 16, 0x2000, 0x7002] u
  have hT := Sub.rfl (a := [14, 16, 0x2000, 0x7002])
  unfold execPwrGoodTimeout
  repeat' first
    | with_reducible assumption
    | exact Sub.of rfl hT
    | with_reducible apply pwrTimeout_keeps
    | with_reducible apply OutKeeps.next

theorem imgEraseCmd_keeps {T : List Nat} {s u : State}
    (hT : Sub [0x2040] T) (h : Keeps T s u) : KeepsP T s (imgEraseCmd u) := by
  unfold imgEraseCmd
  repeat' first
    | with_reducible assumption
    | exact Sub.of rfl hT
    | with_reducible apply deny_keeps
    | with_reducible apply done_keeps
    | with_reducible apply wr_keeps
    | with_reducible refine Keeps.ite ?_ ?_
    | with_reducible refine KeepsP.ite ?_ ?_

theorem execImgErase_keeps {u : State} {who : Who} :
    OutKeeps [20, 0x2040] u (execImgErase who u) := by
  have h := Keeps.refl [20, 0x2040] u
  have hT := Sub.rfl (a := [20, 0x2040])
  unfold execImgErase
  repeat' first
    | with_reducible assumption
    | exact Sub.of rfl hT
    | with_reducible apply guard_keeps
    | with_reducible apply imgEraseCmd_keeps
    | with_reducible apply OutKeeps.next
    | with_reducible refine Keeps.ite ?_ ?_
    | with_reducible refine KeepsP.ite ?_ ?_
    | with_reducible apply KeepsP.fst
    | with_reducible intro _

theorem imgCheckCmd_keeps {T : List Nat} {s u : State}
    (hT : Sub [14, 0x2040] T) (h : Keeps T s u) : KeepsP T s (imgCheckCmd u) := by
  unfold imgCheckCmd
  repeat' first
    | with_reducible assumption
    | exact Sub.of rfl hT
    | with_reducible apply deny_keeps
    | with_reducible apply done_keeps
    | with_reducible apply wr_keeps
    | with_reducible apply modImg_keeps
    | with_reducible refine Keeps.ite ?_ ?_
    | with_reducible refine KeepsP.ite ?_ ?_

theorem execImgCheck_keeps {u : State} {who : Who} :
    OutKeeps [14, 20, 0x2040] u (execImgCheck who u) := by
  have h := Keeps.refl [14, 20, 0x2040] u
  have hT := Sub.rfl (a := [14, 20, 0x2040])
  unfold execImgCheck
  repeat' first
    | with_reducible assumption
    | exact Sub.of rfl hT
    | with_reducible apply guard_keeps
    | with_reducible apply imgCheckCmd_keeps
    | with_reducible apply OutKeeps.next
    | with_reducible refine Keeps.ite ?_ ?_
    | with_reducible refine KeepsP.ite ?_ ?_
    | with_reducible apply KeepsP.fst
    | with_reducible intro _

theorem powerOn_keeps {T : List Nat} {s u : State} {adc : ℕ}
    (hT : Sub [1, 2, 3, 4, 5, 6, 7, 8, 9, 10, 11, 12, 13, 14, 15, 16, 17, 18, 19, 31] T) (h : Keeps T s u) : Keeps T s (powerOn u adc) := by
  unfold powerOn
  repeat' first
    | with_reducible assumption
    | exact Sub.of rfl hT
    | with_reducible apply modRst_keeps
    | with_reducible apply unpowered_keeps
    | with_reducible apply readStrap_keeps
    | with_reducible apply wr_keeps

theorem execPowerOn_keeps {u : State} {adc : ℕ} :
    OutKeeps [1, 2, 3, 4, 5, 6, 7, 8, 9, 10, 11, 12, 13, 14, 15, 16, 17, 18, 19, 31] u (execPowerOn adc u) := by
  have h := Keeps.refl [1, 2, 3, 4, 5, 6, 7, 8, 9, 10, 11, 12, 13, 14, 15, 16, 17, 18, 19, 31] u
  have hT := Sub.rfl (a := [1, 2, 3, 4, 5, 6, 7, 8, 9, 10, 11, 12, 13, 14, 15, 16, 17, 18, 19, 31])
  unfold execPowerOn
  repeat' first
    | with_reducible assumption
    | exact Sub.of rfl hT
    | with_reducible apply powerOn_keeps
    | with_reducible apply OutKeeps.next

theorem execFccWatchdogExpiry_keeps {u : State} :
    OutKeeps [1, 4, 5, 6, 7, 8, 9, 11, 12, 13, 14, 15, 16, 17, 18, 19, 31] u (execFccWatchdogExpiry u) := by
  have h := Keeps.refl [1, 4, 5, 6, 7, 8, 9, 11, 12, 13, 14, 15, 16, 17, 18, 19, 31] u
  have hT := Sub.rfl (a := [1, 4, 5, 6, 7, 8, 9, 11, 12, 13, 14, 15, 16, 17, 18, 19, 31])
  unfold execFccWatchdogExpiry
  repeat' first
    | with_reducible assumption
    | exact Sub.of rfl hT
    | with_reducible apply resetEnd_keeps
    | with_reducible apply resetBegin_keeps
    | with_reducible apply OutKeeps.next
    | with_reducible refine Keeps.ite ?_ ?_

theorem execPorstnRelease_keeps {u : State} {adc : ℕ} :
    OutKeeps [14, 16, 0x2000, 0x2002, 0x2010, 0x6210, 0x7002, 0x9010] u (execPorstnRelease adc u) := by
  have h := Keeps.refl [14, 16, 0x2000, 0x2002, 0x2010, 0x6210, 0x7002, 0x9010] u
  have hT := Sub.rfl (a := [14, 16, 0x2000, 0x2002, 0x2010, 0x6210, 0x7002, 0x9010])
  unfold execPorstnRelease
  repeat' first
    | with_reducible assumption
    | exact Sub.of rfl hT
    | with_reducible apply porstnUp_keeps
    | with_reducible apply OutKeeps.next

theorem execPwrGoodRise_keeps {u : State} :
    OutKeeps [14, 0x2000] u (execPwrGoodRise u) := by
  have h := Keeps.refl [14, 0x2000] u
  have hT := Sub.rfl (a := [14, 0x2000])
  unfold execPwrGoodRise
  repeat' first
    | with_reducible assumption
    | exact Sub.of rfl hT
    | with_reducible apply modRst_keeps
    | with_reducible apply toStage3_keeps
    | with_reducible apply OutKeeps.next
    | with_reducible refine Keeps.ite ?_ ?_

theorem execBringupStageEnd_keeps {u : State} {e : StageEnd} :
    OutKeeps [2, 3, 4, 6, 8, 9, 11, 13, 14, 16, 17, 19, 31] u (execBringupStageEnd e u) := by
  have h := Keeps.refl [2, 3, 4, 6, 8, 9, 11, 13, 14, 16, 17, 19, 31] u
  have hT := Sub.rfl (a := [2, 3, 4, 6, 8, 9, 11, 13, 14, 16, 17, 19, 31])
  unfold execBringupStageEnd
  repeat' first
    | with_reducible assumption
    | exact Sub.of rfl hT
    | with_reducible apply stageEnd_keeps
    | with_reducible apply OutKeeps.next

theorem execStandbyPowerLoss_keeps {u : State} :
    OutKeeps [1, 2, 3, 4, 5, 6, 7, 8, 9, 10, 11, 12, 13, 14, 15, 16, 17, 18, 19, 31] u (execStandbyPowerLoss u) := by
  have h := Keeps.refl [1, 2, 3, 4, 5, 6, 7, 8, 9, 10, 11, 12, 13, 14, 15, 16, 17, 18, 19, 31] u
  have hT := Sub.rfl (a := [1, 2, 3, 4, 5, 6, 7, 8, 9, 10, 11, 12, 13, 14, 15, 16, 17, 18, 19, 31])
  unfold execStandbyPowerLoss
  repeat' first
    | with_reducible assumption
    | exact Sub.of rfl hT
    | with_reducible apply unpowered_keeps
    | with_reducible apply OutKeeps.next

end Sys2Proof.Machine
end

