-- ==== Sys2Proof/Laws/KeepsCell.lean ====
section
/-! SUPPORT. What the functions of `Machine/Cell.lean` keep. -/

namespace Sys2Proof.Machine

open Sys2Proof

theorem storeBits_keeps {T : List Nat} {s u : State} {unit : ℕ} {b : ℕ} {addr : ℕ} {o : ℕ} {c : ℕ} {es : List ℕ} {bad : Bool}
    (hT : Sub [2, 3, 6, 16, 0x3021, 0x6101, 0x6102, 0x7002] T) (h : Keeps T s u) : Keeps T s (storeBits u unit b addr o c es bad) := by
  unfold storeBits
  repeat' first
    | with_reducible assumption
    | exact Sub.of rfl hT
    | with_reducible apply planStore_keeps
    | with_reducible refine Keeps.ite ?_ ?_

theorem staRow_keeps {T : List Nat} {s u : State} {unit : ℕ} {b : ℕ} {desc : ℕ} {d : Desc} {descBad : Bool} {m : ℕ} {row : List AccWord}
    (hT : Sub [2, 3, 6, 16, 19, 0x3021, 0x3040, 0x6101, 0x6102, 0x7002] T) (h : Keeps T s u) : Keeps T s (staRow u unit b desc d descBad m row) := by
  unfold staRow
  repeat' first
    | with_reducible assumption
    | exact Sub.of rfl hT
    | with_reducible apply storeBits_keeps
    | with_reducible apply watchFeed_keeps
    | with_reducible apply countArith_keeps

theorem cellEcc_keeps {T : List Nat} {s u : State} {b : ℕ} {ph : ℕ} {es : List CellEcc}
    (hT : Sub [6, 16, 0x7002, 0x9010] T) (h : Keeps T s u) : Keeps T s (cellEcc u b ph es) := by
  unfold cellEcc
  repeat' first
    | with_reducible assumption
    | exact Sub.of rfl hT
    | with_reducible apply each_keeps
    | with_reducible apply record_keeps
    | with_reducible apply bumpSat_keeps
    | with_reducible apply doNotSeal_keeps
    | with_reducible refine Keeps.ite ?_ ?_
    | with_reducible intro _
    | split

theorem setShadow_keeps {T : List Nat} {s u : State} {b : ℕ} {c : ℕ} {t : TileSlot}
    (hT : Sub [5] T) (h : Keeps T s u) : Keeps T s (setShadow u b c t) := by
  unfold setShadow
  repeat' first
    | with_reducible assumption
    | exact Sub.of rfl hT
    | with_reducible apply modBlock_keeps

theorem ldw_keeps {T : List Nat} {s u : State} {b : ℕ} {c : ℕ} {w : CellSlot} {ecc : List EccHit}
    (hT : Sub [5, 6, 8, 9, 13, 16, 20, 0x3410, 0x3411, 0x4110, 0x4140, 0x6202, 0x7002, 0x9000, 0x9001, 0x9010] T) (h : Keeps T s u) : Keeps T s (ldw u b c w ecc) := by
  unfold ldw
  repeat' first
    | with_reducible assumption
    | exact Sub.of rfl hT
    | with_reducible apply readLines_keeps
    | with_reducible apply setShadow_keeps
    | with_reducible refine Keeps.ite ?_ ?_
    | with_reducible refine KeepsP.ite ?_ ?_
    | with_reducible apply KeepsP.fst

theorem staMxRow_keeps {T : List Nat} {s u : State} {unit : ℕ} {b : ℕ} {desc : ℕ} {d : Desc} {descBad : Bool} {m : ℕ} {row : List AccWord}
    (hT : Sub [2, 3, 6, 16, 19, 0x3021, 0x3040, 0x6101, 0x6102, 0x7002] T) (h : Keeps T s u) : Keeps T s (staMxRow u unit b desc d descBad m row) := by
  unfold staMxRow
  repeat' first
    | with_reducible assumption
    | exact Sub.of rfl hT
    | with_reducible apply storeBits_keeps
    | with_reducible apply planStore_keeps
    | with_reducible apply watchFeed_keeps
    | with_reducible apply countArith_keeps

theorem sta_keeps {T : List Nat} {s u : State} {i : Issue} {c : ℕ} {w : CellSlot}
    (hT : Sub [2, 3, 6, 8, 9, 13, 16, 19, 20, 21, 0x3021, 0x3040, 0x3410, 0x3411, 0x4110, 0x4140, 0x6010, 0x6011, 0x6101, 0x6102, 0x6202, 0x7002, 0x9000, 0x9001, 0x9010] T) (h : Keeps T s u) : Keeps T s (sta u i c w) := by
  unfold sta
  repeat' first
    | with_reducible assumption
    | exact Sub.of rfl hT
    | with_reducible apply readDesc_keeps
    | with_reducible apply wrapFailure_keeps
    | with_reducible apply each_keeps
    | with_reducible apply staMxRow_keeps
    | with_reducible apply staRow_keeps
    | with_reducible apply tick_keeps
    | with_reducible refine Keeps.ite ?_ ?_
    | with_reducible refine KeepsP.ite ?_ ?_
    | with_reducible apply KeepsP.fst
    | (extract_lets +onlyGivenNames x; first | refine (fun hx => ?_ : Keeps _ _ x → _) ?_ | refine (fun hx => ?_ : KeepsP _ _ x → _) ?_ | skip)
    | with_reducible intro _

theorem cellSlot_keeps {T : List Nat} {s u : State} {i : Issue} {c : ℕ} {f : State → State} (hf : ∀ v, Keeps T s v → Keeps T s (f v))
    (hT : Sub [5, 6, 9, 13, 16, 20, 0x3020, 0x3021, 0x4110, 0x4140, 0x6202, 0x7002, 0x9000, 0x9001] T) (h : Keeps T s u) : Keeps T s (cellSlot u i c f) := by
  unfold cellSlot
  repeat' first
    | with_reducible assumption
    | exact Sub.of rfl hT
    | with_reducible apply issueSlot_keeps

theorem clra_keeps {T : List Nat} {s u : State} {b : ℕ} {c : ℕ} {w : CellSlot}
    (hT : Sub [5] T) (h : Keeps T s u) : Keeps T s (clra u b c w) := by
  unfold clra
  repeat' first
    | with_reducible assumption
    | exact Sub.of rfl hT
    | with_reducible apply modBlock_keeps

theorem execClra_keeps {u : State} {i : Issue} {cell : ℕ} {w : CellSlot} :
    OutKeeps [5, 6, 9, 13, 16, 20, 0x3020, 0x3021, 0x4110, 0x4140, 0x6202, 0x7002, 0x9000, 0x9001] u (execClra i cell w u) := by
  have h := Keeps.refl [5, 6, 9, 13, 16, 20, 0x3020, 0x3021, 0x4110, 0x4140, 0x6202, 0x7002, 0x9000, 0x9001] u
  have hT := Sub.rfl (a := [5, 6, 9, 13, 16, 20, 0x3020, 0x3021, 0x4110, 0x4140, 0x6202, 0x7002, 0x9000, 0x9001])
  unfold execClra
  repeat' first
    | with_reducible assumption
    | exact Sub.of rfl hT
    | with_reducible apply cellSlot_keeps
    | with_reducible apply clra_keeps
    | with_reducible apply OutKeeps.next
    | with_reducible refine Keeps.ite ?_ ?_
    | with_reducible intro _

theorem cellTraced_keeps {T : List Nat} {s u : State} {i : Issue} {c : ℕ} {bit : ℕ} {op : ℕ} {f : State → State} (hf : ∀ v, Keeps T s v → Keeps T s (f v))
    (hT : Sub [5, 6, 9, 13, 16, 20, 0x3020, 0x3021, 0x4110, 0x4140, 0x6202, 0x7002, 0x8200, 0x9000, 0x9001] T) (h : Keeps T s u) : Keeps T s (cellTraced u i c bit op f) := by
  unfold cellTraced
  repeat' first
    | with_reducible assumption
    | exact Sub.of rfl hT
    | with_reducible apply cellSlot_keeps
    | with_reducible apply traced_keeps
    | with_reducible apply hf
    | with_reducible refine Keeps.ite ?_ ?_
    | with_reducible intro _

theorem execSta_keeps {u : State} {i : Issue} {cell : ℕ} {w : CellSlot} :
    OutKeeps [2, 3, 5, 6, 8, 9, 13, 16, 19, 20, 21, 0x3020, 0x3021, 0x3040, 0x3410, 0x3411, 0x4110, 0x4140, 0x6010, 0x6011, 0x6101, 0x6102, 0x6202, 0x7002, 0x8200, 0x9000, 0x9001, 0x9010] u (execSta i cell w u) := by
  have h := Keeps.refl [2, 3, 5, 6, 8, 9, 13, 16, 19, 20, 21, 0x3020, 0x3021, 0x3040, 0x3410, 0x3411, 0x4110, 0x4140, 0x6010, 0x6011, 0x6101, 0x6102, 0x6202, 0x7002, 0x8200, 0x9000, 0x9001, 0x9010] u
  have hT := Sub.rfl (a := [2, 3, 5, 6, 8, 9, 13, 16, 19, 20, 21, 0x3020, 0x3021, 0x3040, 0x3410, 0x3411, 0x4110, 0x4140, 0x6010, 0x6011, 0x6101, 0x6102, 0x6202, 0x7002, 0x8200, 0x9000, 0x9001, 0x9010])
  unfold execSta
  repeat' first
    | with_reducible assumption
    | exact Sub.of rfl hT
    | with_reducible apply cellTraced_keeps
    | with_reducible apply sta_keeps
    | with_reducible apply OutKeeps.next
    | with_reducible refine Keeps.ite ?_ ?_
    | with_reducible intro _

theorem submitTile_keeps {T : List Nat} {s u : State} {b : ℕ} {c : ℕ} {w : CellSlot} {q : Pairing} {fmt : ℕ} {rows : Operand} {t : Tile} {f : MulFaults}
    (hT : Sub [5, 6, 8, 9, 13, 16, 20, 0x4110, 0x4140, 0x6010, 0x6011, 0x6012, 0x6202, 0x7002, 0x9000, 0x9001, 0x9010] T) (h : Keeps T s u) : Keeps T s (submitTile u b c w q fmt rows t f) := by
  unfold submitTile
  repeat' first
    | with_reducible assumption
    | exact Sub.of rfl hT
    | with_reducible apply enqueueTile_keeps
    | with_reducible apply modBlock_keeps

theorem swapSlots_keeps {T : List Nat} {s u : State} {b : ℕ} {c : ℕ}
    (hT : Sub [5] T) (h : Keeps T s u) : Keeps T s (swapSlots u b c) := by
  unfold swapSlots
  repeat' first
    | with_reducible assumption
    | exact Sub.of rfl hT
    | with_reducible apply modBlock_keeps

theorem execSwap_keeps {u : State} {i : Issue} {cell : ℕ} {_w : CellSlot} :
    OutKeeps [5, 6, 9, 13, 16, 20, 0x3020, 0x3021, 0x4110, 0x4140, 0x6202, 0x7002, 0x9000, 0x9001] u (execSwap i cell _w u) := by
  have h := Keeps.refl [5, 6, 9, 13, 16, 20, 0x3020, 0x3021, 0x4110, 0x4140, 0x6202, 0x7002, 0x9000, 0x9001] u
  have hT := Sub.rfl (a := [5, 6, 9, 13, 16, 20, 0x3020, 0x3021, 0x4110, 0x4140, 0x6202, 0x7002, 0x9000, 0x9001])
  unfold execSwap
  repeat' first
    | with_reducible assumption
    | exact Sub.of rfl hT
    | with_reducible apply cellSlot_keeps
    | with_reducible apply swapSlots_keeps
    | with_reducible apply OutKeeps.next
    | with_reducible refine Keeps.ite ?_ ?_
    | with_reducible intro _

theorem execCellNop_keeps {u : State} {i : Issue} {cell : ℕ} {_w : CellSlot} :
    OutKeeps [5, 6, 9, 13, 16, 20, 0x3020, 0x3021, 0x4110, 0x4140, 0x6202, 0x7002, 0x9000, 0x9001] u (execCellNop i cell _w u) := by
  have h := Keeps.refl [5, 6, 9, 13, 16, 20, 0x3020, 0x3021, 0x4110, 0x4140, 0x6202, 0x7002, 0x9000, 0x9001] u
  have hT := Sub.rfl (a := [5, 6, 9, 13, 16, 20, 0x3020, 0x3021, 0x4110, 0x4140, 0x6202, 0x7002, 0x9000, 0x9001])
  unfold execCellNop
  repeat' first
    | with_reducible assumption
    | exact Sub.of rfl hT
    | with_reducible apply cellSlot_keeps
    | with_reducible apply OutKeeps.next
    | with_reducible refine Keeps.ite ?_ ?_
    | with_reducible intro _

theorem mul_keeps {T : List Nat} {s u : State} {b : ℕ} {c : ℕ} {w : CellSlot} {f : MulFaults}
    (hT : Sub [5, 6, 8, 9, 13, 16, 20, 0x3021, 0x3040, 0x4110, 0x4140, 0x6010, 0x6011, 0x6012, 0x6202, 0x7002, 0x9000, 0x9001, 0x9010] T) (h : Keeps T s u) : Keeps T s (mul u b c w f) := by
  unfold mul
  repeat' first
    | with_reducible assumption
    | exact Sub.of rfl hT
    | with_reducible apply cellEcc_keeps
    | with_reducible apply bumpSat_keeps
    | with_reducible apply doNotSeal_keeps
    | with_reducible apply countArith_keeps
    | with_reducible apply modBlock_keeps
    | with_reducible apply submitTile_keeps
    | with_reducible refine Keeps.ite ?_ ?_
    | (extract_lets +onlyGivenNames x; first | refine (fun hx => ?_ : Keeps _ _ x → _) ?_ | refine (fun hx => ?_ : KeepsP _ _ x → _) ?_ | skip)
    | with_reducible intro _
    | split

theorem execMul_keeps {u : State} {i : Issue} {cell : ℕ} {w : CellSlot} {f : MulFaults} :
    OutKeeps [5, 6, 8, 9, 13, 16, 20, 0x3020, 0x3021, 0x3040, 0x4110, 0x4140, 0x6010, 0x6011, 0x6012, 0x6202, 0x7002, 0x8200, 0x9000, 0x9001, 0x9010] u (execMul i cell w f u) := by
  have h := Keeps.refl [5, 6, 8, 9, 13, 16, 20, 0x3020, 0x3021, 0x3040, 0x4110, 0x4140, 0x6010, 0x6011, 0x6012, 0x6202, 0x7002, 0x8200, 0x9000, 0x9001, 0x9010] u
  have hT := Sub.rfl (a := [5, 6, 8, 9, 13, 16, 20, 0x3020, 0x3021, 0x3040, 0x4110, 0x4140, 0x6010, 0x6011, 0x6012, 0x6202, 0x7002, 0x8200, 0x9000, 0x9001, 0x9010])
  unfold execMul
  repeat' first
    | with_reducible assumption
    | exact Sub.of rfl hT
    | with_reducible apply cellTraced_keeps
    | with_reducible apply mul_keeps
    | with_reducible apply OutKeeps.next
    | with_reducible refine Keeps.ite ?_ ?_
    | with_reducible intro _

theorem lda_keeps {T : List Nat} {s u : State} {b : ℕ} {c : ℕ} {w : CellSlot} {ecc : List EccHit}
    (hT : Sub [5, 6, 8, 9, 13, 16, 20, 0x3410, 0x3411, 0x4110, 0x4140, 0x6202, 0x7002, 0x9000, 0x9001, 0x9010] T) (h : Keeps T s u) : Keeps T s (lda u b c w ecc) := by
  unfold lda
  repeat' first
    | with_reducible assumption
    | exact Sub.of rfl hT
    | with_reducible apply readEach_keeps
    | with_reducible apply modBlock_keeps
    | with_reducible refine Keeps.ite ?_ ?_
    | with_reducible refine KeepsP.ite ?_ ?_
    | with_reducible apply KeepsP.fst

theorem execLda_keeps {u : State} {i : Issue} {cell : ℕ} {w : CellSlot} {ecc : List EccHit} :
    OutKeeps [5, 6, 8, 9, 13, 16, 20, 0x3020, 0x3021, 0x3410, 0x3411, 0x4110, 0x4140, 0x6202, 0x7002, 0x8200, 0x9000, 0x9001, 0x9010] u (execLda i cell w ecc u) := by
  have h := Keeps.refl [5, 6, 8, 9, 13, 16, 20, 0x3020, 0x3021, 0x3410, 0x3411, 0x4110, 0x4140, 0x6202, 0x7002, 0x8200, 0x9000, 0x9001, 0x9010] u
  have hT := Sub.rfl (a := [5, 6, 8, 9, 13, 16, 20, 0x3020, 0x3021, 0x3410, 0x3411, 0x4110, 0x4140, 0x6202, 0x7002, 0x8200, 0x9000, 0x9001, 0x9010])
  unfold execLda
  repeat' first
    | with_reducible assumption
    | exact Sub.of rfl hT
    | with_reducible apply cellTraced_keeps
    | with_reducible apply lda_keeps
    | with_reducible apply OutKeeps.next
    | with_reducible refine Keeps.ite ?_ ?_
    | with_reducible intro _

theorem execLdw_keeps {u : State} {i : Issue} {cell : ℕ} {w : CellSlot} {ecc : List EccHit} :
    OutKeeps [5, 6, 8, 9, 13, 16, 20, 0x3020, 0x3021, 0x3410, 0x3411, 0x4110, 0x4140, 0x6202, 0x7002, 0x8200, 0x9000, 0x9001, 0x9010] u (execLdw i cell w ecc u) := by
  have h := Keeps.refl [5, 6, 8, 9, 13, 16, 20, 0x3020, 0x3021, 0x3410, 0x3411, 0x4110, 0x4140, 0x6202, 0x7002, 0x8200, 0x9000, 0x9001, 0x9010] u
  have hT := Sub.rfl (a := [5, 6, 8, 9, 13, 16, 20, 0x3020, 0x3021, 0x3410, 0x3411, 0x4110, 0x4140, 0x6202, 0x7002, 0x8200, 0x9000, 0x9001, 0x9010])
  unfold execLdw
  repeat' first
    | with_reducible assumption
    | exact Sub.of rfl hT
    | with_reducible apply cellTraced_keeps
    | with_reducible apply ldw_keeps
    | with_reducible apply OutKeeps.next
    | with_reducible refine Keeps.ite ?_ ?_
    | with_reducible intro _

end Sys2Proof.Machine
end

