-- ==== Sys2Proof/Laws/KeepsEntry.lean ====
section
/-! SUPPORT. What the functions of `Machine/Entry.lean` keep. -/

namespace Sys2Proof.Machine

open Sys2Proof

theorem readEffect_keeps {T : List Nat} {s u : State} {w : Who} {r : Reg} {i : ℕ}
    (hT : Sub [4, 11, 21, 31] T) (h : Keeps T s u) : Keeps T s (readEffect u w r i) := by
  unfold readEffect
  repeat' first
    | with_reducible assumption
    | exact Sub.of rfl hT
    | with_reducible apply wr_keeps
    | with_reducible apply latchTime_keeps
    | with_reducible apply shpRefill_keeps
    | with_reducible apply tick_keeps
    | with_reducible apply bumpSat_keeps
    | with_reducible refine Keeps.ite ?_ ?_
    | exact Sub.reg _ hT rfl

theorem readOne_keeps {T : List Nat} {s u : State} {w : Who} {r : Reg} {i : ℕ}
    (hT : Sub [4, 11, 21, 31] T) (h : Keeps T s u) : KeepsP T s (readOne u w r i) := by
  unfold readOne
  repeat' first
    | with_reducible assumption
    | exact Sub.of rfl hT
    | with_reducible apply readEffect_keeps
    | with_reducible refine Keeps.ite ?_ ?_
    | with_reducible refine KeepsP.ite ?_ ?_
    | with_reducible apply KeepsP.fst
    | exact Sub.reg _ hT rfl
    | (extract_lets +onlyGivenNames x; first | refine (fun hx => ?_ : Keeps _ _ x → _) ?_ | refine (fun hx => ?_ : KeepsP _ _ x → _) ?_ | skip)
    | with_reducible intro _
    | split
    | with_reducible apply KeepsP.mk

theorem rcRead_keeps {T : List Nat} {s u : State} {w : Who} {f : RcField}
    (hT : Sub [4, 11, 12, 20, 21, 31] T) (h : Keeps T s u) : Keeps T s (rcRead u w f) := by
  unfold rcRead
  repeat' first
    | with_reducible assumption
    | exact Sub.of rfl hT
    | with_reducible apply emit_keeps
    | with_reducible apply when_keeps
    | with_reducible apply modQueue_keeps
    | with_reducible apply readOne_keeps
    | with_reducible refine Keeps.ite ?_ ?_
    | with_reducible refine KeepsP.ite ?_ ?_
    | with_reducible apply KeepsP.fst
    | exact Sub.reg _ hT rfl
    | (extract_lets +onlyGivenNames x; first | refine (fun hx => ?_ : Keeps _ _ x → _) ?_ | refine (fun hx => ?_ : KeepsP _ _ x → _) ?_ | skip)
    | with_reducible intro _
    | split

theorem execRcRead_keeps {u : State} {who : Who} {field : RcField} :
    OutKeeps [4, 11, 12, 20, 21, 31] u (execRcRead who field u) := by
  have h := Keeps.refl [4, 11, 12, 20, 21, 31] u
  have hT := Sub.rfl (a := [4, 11, 12, 20, 21, 31])
  unfold execRcRead
  repeat' first
    | with_reducible assumption
    | exact Sub.of rfl hT
    | with_reducible apply rcRead_keeps
    | with_reducible apply OutKeeps.next

end Sys2Proof.Machine
end

