-- ==== Sys2Proof/Laws/KeepsLaser.lean ====
section
/-! SUPPORT. What the functions of `Machine/Laser.lean` keep. -/

namespace Sys2Proof.Machine

open Sys2Proof

theorem moduleNames_keeps {T : List Nat} {s u : State} {m : ℕ} {i : ModuleInfo}
    (hT : Sub [1, 0x4400] T) (h : Keeps T s u) : Keeps T s (moduleNames u m i) := by
  unfold moduleNames
  repeat' first
    | with_reducible assumption
    | exact Sub.of rfl hT
    | with_reducible apply wrB_keeps

theorem moduleRefuse_keeps {T : List Nat} {s u : State} {m : ℕ} {reason : ℕ} {i : ModuleInfo}
    (hT : Sub [1, 16, 0x4000, 0x4400, 0x7002] T) (h : Keeps T s u) : Keeps T s (moduleRefuse u m reason i) := by
  unfold moduleRefuse
  repeat' first
    | with_reducible assumption
    | exact Sub.of rfl hT
    | with_reducible apply record_keeps
    | with_reducible apply wr_keeps
    | with_reducible apply moduleNames_keeps
    | with_reducible refine Keeps.ite ?_ ?_

theorem newModule_keeps {T : List Nat} {s u : State} {m : ℕ}
    (hT : Sub [9, 10, 13, 16, 0x4400, 0x7002, 0x9000, 0x9001] T) (h : Keeps T s u) : Keeps T s (newModule u m) := by
  unfold newModule
  repeat' first
    | with_reducible assumption
    | exact Sub.of rfl hT
    | with_reducible apply penUnfix_keeps
    | with_reducible apply wr_keeps
    | with_reducible apply modPort_keeps
    | with_reducible apply modLaser_keeps
    | with_reducible apply foldl_keeps
    | with_reducible refine Keeps.ite ?_ ?_
    | (extract_lets +onlyGivenNames x; first | refine (fun hx => ?_ : Keeps _ _ x → _) ?_ | refine (fun hx => ?_ : KeepsP _ _ x → _) ?_ | skip)
    | with_reducible intro _

theorem identified_keeps {T : List Nat} {s u : State} {m : ℕ} {i : ModuleInfo}
    (hT : Sub [1, 9, 10, 13, 16, 20, 0x4000, 0x4400, 0x4401, 0x7002, 0x9000, 0x9001] T) (h : Keeps T s u) : Keeps T s (identified u m i) := by
  unfold identified
  repeat' first
    | with_reducible assumption
    | exact Sub.of rfl hT
    | with_reducible apply moduleRefuse_keeps
    | with_reducible apply newModule_keeps
    | with_reducible apply modLaser_keeps
    | with_reducible apply moduleNames_keeps
    | with_reducible apply wr_keeps
    | with_reducible apply each_keeps
    | with_reducible apply emit_keeps
    | with_reducible apply recordB_keeps
    | with_reducible refine Keeps.ite ?_ ?_
    | (extract_lets +onlyGivenNames x; first | refine (fun hx => ?_ : Keeps _ _ x → _) ?_ | refine (fun hx => ?_ : KeepsP _ _ x → _) ?_ | skip)
    | with_reducible intro _

theorem execModuleIdentified_keeps {u : State} {m : ℕ} {info : ModuleInfo} :
    OutKeeps [1, 9, 10, 13, 16, 20, 0x4000, 0x4400, 0x4401, 0x7002, 0x9000, 0x9001] u (execModuleIdentified m info u) := by
  have h := Keeps.refl [1, 9, 10, 13, 16, 20, 0x4000, 0x4400, 0x4401, 0x7002, 0x9000, 0x9001] u
  have hT := Sub.rfl (a := [1, 9, 10, 13, 16, 20, 0x4000, 0x4400, 0x4401, 0x7002, 0x9000, 0x9001])
  unfold execModuleIdentified
  repeat' first
    | with_reducible assumption
    | exact Sub.of rfl hT
    | with_reducible apply identified_keeps
    | with_reducible apply OutKeeps.next

theorem execBolWrite_keeps {u : State} {m : ℕ} {bias : List ℕ} :
    OutKeeps [10, 20] u (execBolWrite m bias u) := by
  have h := Keeps.refl [10, 20] u
  have hT := Sub.rfl (a := [10, 20])
  unfold execBolWrite
  repeat' first
    | with_reducible assumption
    | exact Sub.of rfl hT
    | with_reducible apply emit_keeps
    | with_reducible apply modLaser_keeps
    | with_reducible apply OutKeeps.next
    | with_reducible refine Keeps.ite ?_ ?_
    | (extract_lets +onlyGivenNames x; first | refine (fun hx => ?_ : Keeps _ _ x → _) ?_ | refine (fun hx => ?_ : KeepsP _ _ x → _) ?_ | skip)
    | with_reducible intro _
    | split

theorem advise_keeps {T : List Nat} {s u : State} {m : ℕ} {bit : ℕ}
    (hT : Sub [13, 16, 0x4400, 0x7002, 0x9000, 0x9001] T) (h : Keeps T s u) : Keeps T s (advise u m bit) := by
  unfold advise
  repeat' first
    | with_reducible assumption
    | exact Sub.of rfl hT
    | with_reducible apply penOnce_keeps
    | with_reducible apply wr_keeps
    | with_reducible refine Keeps.ite ?_ ?_

theorem waveLeave_keeps {T : List Nat} {s u : State} {port : ℕ} {w : ℕ} {cause : ℕ}
    (hT : Sub [4, 6, 9, 11, 13, 16, 0x4000, 0x4001, 0x4110, 0x4140, 0x4400, 0x5804, 0x7002, 0x9000, 0x9001, 0x9010] T) (h : Keeps T s u) : Keeps T s (waveLeave u port w cause) := by
  unfold waveLeave
  repeat' first
    | with_reducible assumption
    | exact Sub.of rfl hT
    | with_reducible apply modPort_keeps
    | with_reducible apply ctlSend_keeps
    | with_reducible apply startTrain_keeps
    | with_reducible refine Keeps.ite ?_ ?_

theorem waveDue_keeps {T : List Nat} {s u : State} {port : ℕ} {w : ℕ} {cause : ℕ}
    (hT : Sub [4, 6, 9, 11, 13, 16, 0x4000, 0x4001, 0x4110, 0x4140, 0x4400, 0x5804, 0x7002, 0x9000, 0x9001, 0x9010] T) (h : Keeps T s u) : Keeps T s (waveDue u port w cause) := by
  unfold waveDue
  repeat' first
    | with_reducible assumption
    | exact Sub.of rfl hT
    | with_reducible apply modPort_keeps
    | with_reducible apply waveLeave_keeps
    | with_reducible refine Keeps.ite ?_ ?_

theorem waveFaulty_keeps {T : List Nat} {s u : State} {m : ℕ} {w : ℕ} {cause : ℕ}
    (hT : Sub [4, 6, 9, 11, 13, 16, 0x4000, 0x4001, 0x4110, 0x4140, 0x4400, 0x5804, 0x7002, 0x9000, 0x9001, 0x9010] T) (h : Keeps T s u) : Keeps T s (waveFaulty u m w cause) := by
  unfold waveFaulty
  repeat' first
    | with_reducible assumption
    | exact Sub.of rfl hT
    | with_reducible apply modPort_keeps
    | with_reducible apply waveDue_keeps
    | with_reducible refine Keeps.ite ?_ ?_

theorem ratioRead_keeps {T : List Nat} {s u : State} {m : ℕ} {x' : LaserSample}
    (hT : Sub [4, 6, 9, 10, 11, 13, 16, 0x4000, 0x4001, 0x4110, 0x4140, 0x4400, 0x4401, 0x5804, 0x7002, 0x9000, 0x9001, 0x9010] T) (h : Keeps T s u) : Keeps T s (ratioRead u m x') := by
  unfold ratioRead
  repeat' first
    | with_reducible assumption
    | exact Sub.of rfl hT
    | with_reducible apply wr_keeps
    | with_reducible apply modLaser_keeps
    | with_reducible apply record_keeps
    | with_reducible apply advise_keeps
    | with_reducible apply waveFaulty_keeps
    | with_reducible refine Keeps.ite ?_ ?_

theorem waveLost_keeps {T : List Nat} {s u : State} {m : ℕ} {w : ℕ}
    (hT : Sub [4, 6, 9, 10, 11, 13, 16, 0x4000, 0x4001, 0x4110, 0x4140, 0x4400, 0x5804, 0x7002, 0x9000, 0x9001, 0x9010] T) (h : Keeps T s u) : Keeps T s (waveLost u m w) := by
  unfold waveLost
  repeat' first
    | with_reducible assumption
    | exact Sub.of rfl hT
    | with_reducible apply modLaser_keeps
    | with_reducible apply waveFaulty_keeps
    | with_reducible apply wr_keeps
    | with_reducible apply goDown_keeps
    | with_reducible refine Keeps.ite ?_ ?_

theorem waveRead_keeps {T : List Nat} {s u : State} {m : ℕ} {second : Bool} {x' : LaserSample}
    (hT : Sub [4, 6, 9, 10, 11, 13, 16, 0x4000, 0x4001, 0x4110, 0x4140, 0x4400, 0x4401, 0x5804, 0x7002, 0x9000, 0x9001, 0x9010] T) (h : Keeps T s u) : Keeps T s (waveRead u m second x') := by
  unfold waveRead
  repeat' first
    | with_reducible assumption
    | exact Sub.of rfl hT
    | with_reducible apply wr_keeps
    | with_reducible apply ratioRead_keeps
    | with_reducible apply waveLost_keeps
    | with_reducible apply record_keeps
    | with_reducible refine Keeps.ite ?_ ?_
    | (extract_lets +onlyGivenNames x; first | refine (fun hx => ?_ : Keeps _ _ x → _) ?_ | refine (fun hx => ?_ : KeepsP _ _ x → _) ?_ | skip)
    | with_reducible intro _
    | split

theorem execModuleRemove_keeps {u : State} {m : ℕ} :
    OutKeeps [4, 6, 9, 10, 16, 0x4000, 0x4110, 0x4140, 0x4400, 0x5804, 0x7002] u (execModuleRemove m u) := by
  have h := Keeps.refl [4, 6, 9, 10, 16, 0x4000, 0x4110, 0x4140, 0x4400, 0x5804, 0x7002] u
  have hT := Sub.rfl (a := [4, 6, 9, 10, 16, 0x4000, 0x4110, 0x4140, 0x4400, 0x5804, 0x7002])
  unfold execModuleRemove
  repeat' first
    | with_reducible assumption
    | exact Sub.of rfl hT
    | with_reducible apply wr_keeps
    | with_reducible apply recordB_keeps
    | with_reducible apply modLaser_keeps
    | with_reducible apply goDown_keeps
    | with_reducible apply OutKeeps.next
    | with_reducible refine Keeps.ite ?_ ?_
    | (extract_lets +onlyGivenNames x; first | refine (fun hx => ?_ : Keeps _ _ x → _) ?_ | refine (fun hx => ?_ : KeepsP _ _ x → _) ?_ | skip)
    | with_reducible intro _
    | split

theorem execLaserHoursWrite_keeps {u : State} {m : ℕ} :
    OutKeeps [10, 20] u (execLaserHoursWrite m u) := by
  have h := Keeps.refl [10, 20] u
  have hT := Sub.rfl (a := [10, 20])
  unfold execLaserHoursWrite
  repeat' first
    | with_reducible assumption
    | exact Sub.of rfl hT
    | with_reducible apply hoursWrite_keeps
    | with_reducible apply OutKeeps.next
    | with_reducible refine Keeps.ite ?_ ?_

theorem lasingSecond_keeps {T : List Nat} {s u : State} {m : ℕ}
    (hT : Sub [10, 13, 16, 0x4400, 0x7002, 0x9000, 0x9001] T) (h : Keeps T s u) : Keeps T s (lasingSecond u m) := by
  unfold lasingSecond
  repeat' first
    | with_reducible assumption
    | exact Sub.of rfl hT
    | with_reducible apply modLaser_keeps
    | with_reducible apply wr_keeps
    | with_reducible apply record_keeps
    | with_reducible apply advise_keeps
    | with_reducible refine Keeps.ite ?_ ?_

theorem execModuleInsert_keeps {u : State} {m : ℕ} :
    OutKeeps [0x4400] u (execModuleInsert m u) := by
  have h := Keeps.refl [0x4400] u
  have hT := Sub.rfl (a := [0x4400])
  unfold execModuleInsert
  repeat' first
    | with_reducible assumption
    | exact Sub.of rfl hT
    | with_reducible apply wr_keeps
    | with_reducible apply OutKeeps.next
    | with_reducible refine Keeps.ite ?_ ?_

theorem execLaserFaultFlag_keeps {u : State} {m : ℕ} {wave : ℕ} {flags : ℕ} :
    OutKeeps [4, 6, 9, 10, 11, 13, 16, 0x4000, 0x4001, 0x4110, 0x4140, 0x4400, 0x5804, 0x7002, 0x9000, 0x9001, 0x9010] u (execLaserFaultFlag m wave flags u) := by
  have h := Keeps.refl [4, 6, 9, 10, 11, 13, 16, 0x4000, 0x4001, 0x4110, 0x4140, 0x4400, 0x5804, 0x7002, 0x9000, 0x9001, 0x9010] u
  have hT := Sub.rfl (a := [4, 6, 9, 10, 11, 13, 16, 0x4000, 0x4001, 0x4110, 0x4140, 0x4400, 0x5804, 0x7002, 0x9000, 0x9001, 0x9010])
  unfold execLaserFaultFlag
  repeat' first
    | with_reducible assumption
    | exact Sub.of rfl hT
    | with_reducible apply waveLost_keeps
    | with_reducible apply record_keeps
    | with_reducible apply OutKeeps.next
    | with_reducible refine Keeps.ite ?_ ?_

theorem execLaserMonitorRead_keeps {u : State} {m : ℕ} {r : Monitor} :
    OutKeeps [4, 6, 9, 10, 11, 13, 16, 0x4000, 0x4001, 0x4110, 0x4140, 0x4400, 0x4401, 0x5804, 0x7002, 0x9000, 0x9001, 0x9010] u (execLaserMonitorRead m r u) := by
  have h := Keeps.refl [4, 6, 9, 10, 11, 13, 16, 0x4000, 0x4001, 0x4110, 0x4140, 0x4400, 0x4401, 0x5804, 0x7002, 0x9000, 0x9001, 0x9010] u
  have hT := Sub.rfl (a := [4, 6, 9, 10, 11, 13, 16, 0x4000, 0x4001, 0x4110, 0x4140, 0x4400, 0x4401, 0x5804, 0x7002, 0x9000, 0x9001, 0x9010])
  unfold execLaserMonitorRead
  repeat' first
    | with_reducible assumption
    | exact Sub.of rfl hT
    | with_reducible apply each_keeps
    | with_reducible apply lasingSecond_keeps
    | with_reducible apply waveRead_keeps
    | with_reducible apply OutKeeps.next
    | with_reducible refine Keeps.ite ?_ ?_
    | with_reducible intro _

theorem wavesDue_keeps {T : List Nat} {s u : State} {port : ℕ}
    (hT : Sub [4, 6, 9, 11, 13, 16, 0x4000, 0x4001, 0x4110, 0x4140, 0x4400, 0x5804, 0x7002, 0x9000, 0x9001, 0x9010] T) (h : Keeps T s u) : Keeps T s (wavesDue u port) := by
  unfold wavesDue
  repeat' first
    | with_reducible assumption
    | exact Sub.of rfl hT
    | with_reducible apply each_keeps
    | with_reducible apply waveDue_keeps
    | with_reducible refine Keeps.ite ?_ ?_
    | with_reducible intro _

end Sys2Proof.Machine
end

