-- ==== Sys2Proof/Laws/KeepsLink.lean ====
section
/-! SUPPORT. What the functions of `Machine/Link.lean` keep. -/

namespace Sys2Proof.Machine

open Sys2Proof

theorem sendFlit_keeps {T : List Nat} {s u : State} {port : ℕ} {type : ℕ} {seq : ℕ} {ack : ℕ} {payload : Payload}
    (hT : Sub [4, 9, 20] T) (h : Keeps T s u) : Keeps T s (sendFlit u port type seq ack payload) := by
  unfold sendFlit
  repeat' first
    | with_reducible assumption
    | exact Sub.of rfl hT
    | with_reducible apply modPort_keeps
    | with_reducible apply noteDeparture_keeps
    | with_reducible apply emit_keeps
    | with_reducible refine Keeps.ite ?_ ?_
    | (extract_lets +onlyGivenNames x; first | refine (fun hx => ?_ : Keeps _ _ x → _) ?_ | refine (fun hx => ?_ : KeepsP _ _ x → _) ?_ | skip)
    | with_reducible intro _
    | split

theorem execAckNullSend_keeps {u : State} {port : ℕ} :
    OutKeeps [4, 9, 20] u (execAckNullSend port u) := by
  have h := Keeps.refl [4, 9, 20] u
  have hT := Sub.rfl (a := [4, 9, 20])
  unfold execAckNullSend
  repeat' first
    | with_reducible assumption
    | exact Sub.of rfl hT
    | with_reducible apply sendFlit_keeps
    | with_reducible apply OutKeeps.next
    | with_reducible refine Keeps.ite ?_ ?_

theorem relitLanes_keeps {T : List Nat} {s u : State} {port : ℕ} {relit : List ℕ} {pass : List ℕ}
    (hT : Sub [13, 16, 0x4010, 0x7002, 0x9000, 0x9001] T) (h : Keeps T s u) : Keeps T s (relitLanes u port relit pass) := by
  unfold relitLanes
  repeat' first
    | with_reducible assumption
    | exact Sub.of rfl hT
    | with_reducible apply each_keeps
    | with_reducible apply penUnfix_keeps
    | with_reducible apply wr_keeps
    | with_reducible refine Keeps.ite ?_ ?_
    | (extract_lets +onlyGivenNames x; first | refine (fun hx => ?_ : Keeps _ _ x → _) ?_ | refine (fun hx => ?_ : KeepsP _ _ x → _) ?_ | skip)
    | with_reducible intro _

theorem fullCredits_keeps {T : List Nat} {s u : State} {port : ℕ}
    (hT : Sub [9, 0x4110] T) (h : Keeps T s u) : Keeps T s (fullCredits u port) := by
  unfold fullCredits
  repeat' first
    | with_reducible assumption
    | exact Sub.of rfl hT
    | with_reducible apply modPort_keeps
    | with_reducible apply each_keeps
    | with_reducible apply wr_keeps
    | with_reducible refine Keeps.ite ?_ ?_
    | with_reducible intro _

theorem clvPortUp_keeps {T : List Nat} {s u : State} {port : ℕ}
    (hT : Sub [13, 17] T) (h : Keeps T s u) : Keeps T s (clvPortUp u port) := by
  unfold clvPortUp
  repeat' first
    | with_reducible assumption
    | exact Sub.of rfl hT
    | with_reducible apply modClover_keeps
    | with_reducible apply modChan_keeps

theorem enterUp_keeps {T : List Nat} {s u : State} {port : ℕ} {h' : Hello}
    (hT : Sub [4, 6, 9, 11, 13, 16, 17, 0x4000, 0x4001, 0x4020, 0x4110, 0x4140, 0x4400, 0x5804, 0x7002, 0x9000, 0x9001, 0x9010] T) (h : Keeps T s u) : Keeps T s (enterUp u port h') := by
  unfold enterUp
  repeat' first
    | with_reducible assumption
    | exact Sub.of rfl hT
    | with_reducible apply fullCredits_keeps
    | with_reducible apply wr_keeps
    | with_reducible apply modPort_keeps
    | with_reducible apply record_keeps
    | with_reducible apply wavesDue_keeps
    | with_reducible apply clockBack_keeps
    | with_reducible apply depthRx_keeps
    | with_reducible apply clvPortUp_keeps
    | with_reducible apply foldl_keeps
    | with_reducible refine Keeps.ite ?_ ?_
    | (extract_lets +onlyGivenNames x; first | refine (fun hx => ?_ : Keeps _ _ x → _) ?_ | refine (fun hx => ?_ : KeepsP _ _ x → _) ?_ | skip)
    | with_reducible intro _

theorem ackTo_keeps {T : List Nat} {s u : State} {port : ℕ} {a : ℕ}
    (hT : Sub [9] T) (h : Keeps T s u) : Keeps T s (ackTo u port a) := by
  unfold ackTo
  repeat' first
    | with_reducible assumption
    | exact Sub.of rfl hT
    | with_reducible apply modPort_keeps
    | with_reducible refine Keeps.ite ?_ ?_

theorem resumeRetry_keeps {T : List Nat} {s u : State} {port : ℕ} {expected : ℕ}
    (hT : Sub [9] T) (h : Keeps T s u) : Keeps T s (resumeRetry u port expected) := by
  unfold resumeRetry
  repeat' first
    | with_reducible assumption
    | exact Sub.of rfl hT
    | with_reducible apply modPort_keeps
    | with_reducible apply ackTo_keeps

theorem dropPartials_keeps {T : List Nat} {s u : State} {port : ℕ}
    (hT : Sub [4, 6, 9, 16, 0x4140, 0x7002] T) (h : Keeps T s u) : Keeps T s (dropPartials u port) := by
  unfold dropPartials
  repeat' first
    | with_reducible assumption
    | exact Sub.of rfl hT
    | with_reducible apply each_keeps
    | with_reducible apply dropPkt_keeps
    | with_reducible apply giveBack_keeps
    | with_reducible apply modPort_keeps
    | with_reducible apply dropExchange_keeps
    | with_reducible refine Keeps.ite ?_ ?_
    | (extract_lets +onlyGivenNames x; first | refine (fun hx => ?_ : Keeps _ _ x → _) ?_ | refine (fun hx => ?_ : KeepsP _ _ x → _) ?_ | skip)
    | with_reducible intro _

theorem helloRx_keeps {T : List Nat} {s u : State} {port : ℕ} {h' : Hello} {latency : ℕ} {pass : List ℕ}
    (hT : Sub [4, 6, 9, 11, 13, 16, 17, 0x4000, 0x4001, 0x4010, 0x4020, 0x4110, 0x4140, 0x4400, 0x5804, 0x7002, 0x9000, 0x9001, 0x9010] T) (h : Keeps T s u) : Keeps T s (helloRx u port h' latency pass) := by
  unfold helloRx
  repeat' first
    | with_reducible assumption
    | exact Sub.of rfl hT
    | with_reducible apply wr_keeps
    | with_reducible apply goDown_keeps
    | with_reducible apply record_keeps
    | with_reducible apply setTxLanes_keeps
    | with_reducible apply relitLanes_keeps
    | with_reducible apply enterUp_keeps
    | with_reducible apply resumeRetry_keeps
    | with_reducible apply dropPartials_keeps
    | with_reducible refine Keeps.ite ?_ ?_

theorem setPause_keeps {T : List Nat} {s u : State} {port : ℕ} {vc : ℕ} {time : ℕ}
    (hT : Sub [9, 0x4110] T) (h : Keeps T s u) : Keeps T s (setPause u port vc time) := by
  unfold setPause
  repeat' first
    | with_reducible assumption
    | exact Sub.of rfl hT
    | with_reducible apply modPort_keeps
    | with_reducible apply wr_keeps

theorem pauseRx_keeps {T : List Nat} {s u : State} {port : ℕ} {mask : ℕ} {time : ℕ}
    (hT : Sub [9, 0x4110] T) (h : Keeps T s u) : Keeps T s (pauseRx u port mask time) := by
  unfold pauseRx
  repeat' first
    | with_reducible assumption
    | exact Sub.of rfl hT
    | with_reducible apply setPause_keeps
    | with_reducible refine Keeps.ite ?_ ?_

theorem creditSyncRx_keeps {T : List Nat} {s u : State} {port : ℕ} {freed : List ℕ}
    (hT : Sub [0x4110] T) (h : Keeps T s u) : Keeps T s (creditSyncRx u port freed) := by
  unfold creditSyncRx
  repeat' first
    | with_reducible assumption
    | exact Sub.of rfl hT
    | with_reducible apply each_keeps
    | with_reducible apply wr_keeps
    | with_reducible apply bumpSat_keeps
    | with_reducible refine Keeps.ite ?_ ?_
    | (extract_lets +onlyGivenNames x; first | refine (fun hx => ?_ : Keeps _ _ x → _) ?_ | refine (fun hx => ?_ : KeepsP _ _ x → _) ?_ | skip)
    | with_reducible intro _

theorem ctlRx_keeps {T : List Nat} {s u : State} {port : ℕ} {c : LinkCtl}
    (hT : Sub [4, 6, 9, 11, 13, 16, 17, 0x4000, 0x4001, 0x4010, 0x4020, 0x4110, 0x4140, 0x4400, 0x5804, 0x7002, 0x9000, 0x9001, 0x9010] T) (h : Keeps T s u) : Keeps T s (ctlRx u port c) := by
  unfold ctlRx
  repeat' first
    | with_reducible assumption
    | exact Sub.of rfl hT
    | with_reducible apply helloRx_keeps
    | with_reducible apply spareReqRx_keeps
    | with_reducible apply spareOfferRx_keeps
    | with_reducible apply spareGoRx_keeps
    | with_reducible apply pauseRx_keeps
    | with_reducible apply creditSyncRx_keeps
    | with_reducible apply depthRx_keeps
    | with_reducible refine Keeps.ite ?_ ?_
    | with_reducible intro _
    | split

theorem nakOnce_keeps {T : List Nat} {s u : State} {port : ℕ}
    (hT : Sub [4, 9, 20] T) (h : Keeps T s u) : Keeps T s (nakOnce u port) := by
  unfold nakOnce
  repeat' first
    | with_reducible assumption
    | exact Sub.of rfl hT
    | with_reducible apply sendFlit_keeps
    | with_reducible apply modPort_keeps
    | with_reducible refine Keeps.ite ?_ ?_

theorem applyHeader_keeps {T : List Nat} {s u : State} {port : ℕ} {f : Flit}
    (hT : Sub [9, 0x4110] T) (h : Keeps T s u) : Keeps T s (applyHeader u port f) := by
  unfold applyHeader
  repeat' first
    | with_reducible assumption
    | exact Sub.of rfl hT
    | with_reducible apply ackTo_keeps
    | with_reducible apply wr_keeps
    | with_reducible refine Keeps.ite ?_ ?_

theorem rewind_keeps {T : List Nat} {s u : State} {port : ℕ} {e : ℕ}
    (hT : Sub [4, 6, 9, 11, 13, 16, 0x4000, 0x4001, 0x4110, 0x4140, 0x4400, 0x5804, 0x7002, 0x9000, 0x9001, 0x9010] T) (h : Keeps T s u) : Keeps T s (rewind u port e) := by
  unfold rewind
  repeat' first
    | with_reducible assumption
    | exact Sub.of rfl hT
    | with_reducible apply penPer_keeps
    | with_reducible apply bumpSat_keeps
    | with_reducible apply modPort_keeps
    | with_reducible apply startTrain_keeps
    | with_reducible apply record_keeps
    | with_reducible refine Keeps.ite ?_ ?_

theorem nakRx_keeps {T : List Nat} {s u : State} {port : ℕ} {f : Flit}
    (hT : Sub [4, 6, 9, 11, 13, 16, 0x4000, 0x4001, 0x4110, 0x4140, 0x4400, 0x5804, 0x7002, 0x9000, 0x9001, 0x9010] T) (h : Keeps T s u) : Keeps T s (nakRx u port f) := by
  unfold nakRx
  repeat' first
    | with_reducible assumption
    | exact Sub.of rfl hT
    | with_reducible apply rewind_keeps
    | with_reducible apply ackTo_keeps
    | with_reducible apply applyHeader_keeps

theorem deadRest_keeps {T : List Nat} {s u : State} {port : ℕ} {tag : FlitTag} {q : QPacket}
    (hT : Sub [9] T) (h : Keeps T s u) : Keeps T s (deadRest u port tag q) := by
  unfold deadRest
  repeat' first
    | with_reducible assumption
    | exact Sub.of rfl hT
    | with_reducible apply modPort_keeps

theorem overflow_keeps {T : List Nat} {s u : State} {port : ℕ} {tag : FlitTag} {q : Option QPacket}
    (hT : Sub [6, 9, 16, 0x4140, 0x7002] T) (h : Keeps T s u) : Keeps T s (overflow u port tag q) := by
  unfold overflow
  repeat' first
    | with_reducible assumption
    | exact Sub.of rfl hT
    | with_reducible apply record_keeps
    | with_reducible apply dropAs_keeps
    | with_reducible apply deadRest_keeps

theorem badPacket_keeps {T : List Nat} {s u : State} {port : ℕ} {n : ℕ} {q : QPacket}
    (hT : Sub [6, 9, 16, 0x4140, 0x7002] T) (h : Keeps T s u) : Keeps T s (badPacket u port n q) := by
  unfold badPacket
  repeat' first
    | with_reducible assumption
    | exact Sub.of rfl hT
    | with_reducible apply dropPkt_keeps
    | with_reducible apply giveBack_keeps

theorem packetWhole_keeps {T : List Nat} {s u : State} {port : ℕ} {q : QPacket} {tag : FlitTag} {ecc : List EccHit}
    (hT : Sub [2, 3, 4, 5, 6, 8, 9, 11, 12, 13, 14, 16, 19, 20, 21, 0x2020, 0x2021, 0x3000, 0x3001, 0x3010, 0x3011, 0x3021, 0x3403, 0x3410, 0x3411, 0x4110, 0x4120, 0x4130, 0x4140, 0x5801, 0x5804, 0x5810, 0x6101, 0x6102, 0x6202, 0x7002, 0x8100, 0x9000, 0x9001, 0x9010] T) (h : Keeps T s u) : Keeps T s (packetWhole u port q tag ecc) := by
  unfold packetWhole
  repeat' first
    | with_reducible assumption
    | exact Sub.of rfl hT
    | with_reducible apply bumpSat_keeps
    | with_reducible apply modPort_keeps
    | with_reducible apply route_keeps
    | with_reducible apply badPacket_keeps
    | with_reducible refine Keeps.ite ?_ ?_

theorem packetNext_keeps {T : List Nat} {s u : State} {port : ℕ} {q : QPacket} {tag : FlitTag} {ecc : List EccHit}
    (hT : Sub [2, 3, 4, 5, 6, 8, 9, 11, 12, 13, 14, 16, 19, 20, 21, 0x2020, 0x2021, 0x3000, 0x3001, 0x3010, 0x3011, 0x3021, 0x3403, 0x3410, 0x3411, 0x4110, 0x4120, 0x4130, 0x4140, 0x5801, 0x5804, 0x5810, 0x6101, 0x6102, 0x6202, 0x7002, 0x8100, 0x9000, 0x9001, 0x9010] T) (h : Keeps T s u) : Keeps T s (packetNext u port q tag ecc) := by
  unfold packetNext
  repeat' first
    | with_reducible assumption
    | exact Sub.of rfl hT
    | with_reducible apply packetWhole_keeps
    | with_reducible apply modPort_keeps
    | with_reducible refine Keeps.ite ?_ ?_

theorem packetFirst_keeps {T : List Nat} {s u : State} {port : ℕ} {tag : FlitTag} {bs : List Byte} {ecc : List EccHit}
    (hT : Sub [2, 3, 4, 5, 6, 8, 9, 11, 12, 13, 14, 16, 19, 20, 21, 0x2020, 0x2021, 0x3000, 0x3001, 0x3010, 0x3011, 0x3021, 0x3403, 0x3410, 0x3411, 0x4110, 0x4120, 0x4130, 0x4140, 0x5801, 0x5804, 0x5810, 0x6101, 0x6102, 0x6202, 0x7002, 0x8100, 0x9000, 0x9001, 0x9010] T) (h : Keeps T s u) : Keeps T s (packetFirst u port tag bs ecc) := by
  unfold packetFirst
  repeat' first
    | with_reducible assumption
    | exact Sub.of rfl hT
    | with_reducible apply packetNext_keeps
    | with_reducible apply deadRest_keeps
    | with_reducible apply badPacket_keeps
    | with_reducible refine Keeps.ite ?_ ?_

theorem orphan_keeps {T : List Nat} {s u : State} {port : ℕ} {tag : FlitTag}
    (hT : Sub [6, 9, 16, 0x4140, 0x7002] T) (h : Keeps T s u) : Keeps T s (orphan u port tag) := by
  unfold orphan
  repeat' first
    | with_reducible assumption
    | exact Sub.of rfl hT
    | with_reducible apply deadRest_keeps
    | with_reducible apply dropAs_keeps
    | with_reducible apply giveBack_keeps

theorem dataRx_keeps {T : List Nat} {s u : State} {port : ℕ} {bs : List Byte} {ecc : List EccHit}
    (hT : Sub [2, 3, 4, 5, 6, 8, 9, 11, 12, 13, 14, 16, 19, 20, 21, 0x2020, 0x2021, 0x3000, 0x3001, 0x3010, 0x3011, 0x3021, 0x3403, 0x3410, 0x3411, 0x4110, 0x4120, 0x4130, 0x4140, 0x5801, 0x5804, 0x5810, 0x6101, 0x6102, 0x6202, 0x7002, 0x8100, 0x9000, 0x9001, 0x9010] T) (h : Keeps T s u) : Keeps T s (dataRx u port bs ecc) := by
  unfold dataRx
  repeat' first
    | with_reducible assumption
    | exact Sub.of rfl hT
    | with_reducible apply dropAs_keeps
    | with_reducible apply overflow_keeps
    | with_reducible apply packetFirst_keeps
    | with_reducible apply badPacket_keeps
    | with_reducible apply orphan_keeps
    | with_reducible apply deadRest_keeps
    | with_reducible apply giveBack_keeps
    | with_reducible apply packetNext_keeps
    | with_reducible refine Keeps.ite ?_ ?_
    | (extract_lets +onlyGivenNames x; first | refine (fun hx => ?_ : Keeps _ _ x → _) ?_ | refine (fun hx => ?_ : KeepsP _ _ x → _) ?_ | skip)
    | with_reducible intro _
    | split

theorem seqRx_keeps {T : List Nat} {s u : State} {port : ℕ} {f : Flit} {ecc : List EccHit}
    (hT : Sub [2, 3, 4, 5, 6, 8, 9, 11, 12, 13, 14, 16, 17, 19, 20, 21, 0x2020, 0x2021, 0x3000, 0x3001, 0x3010, 0x3011, 0x3021, 0x3403, 0x3410, 0x3411, 0x4000, 0x4001, 0x4010, 0x4020, 0x4110, 0x4120, 0x4130, 0x4140, 0x4400, 0x5801, 0x5804, 0x5810, 0x6101, 0x6102, 0x6202, 0x7002, 0x8100, 0x9000, 0x9001, 0x9010] T) (h : Keeps T s u) : Keeps T s (seqRx u port f ecc) := by
  unfold seqRx
  repeat' first
    | with_reducible assumption
    | exact Sub.of rfl hT
    | with_reducible apply nakOnce_keeps
    | with_reducible apply raise_keeps
    | with_reducible apply modPort_keeps
    | with_reducible apply dataRx_keeps
    | with_reducible apply ctlRx_keeps
    | with_reducible refine Keeps.ite ?_ ?_
    | (extract_lets +onlyGivenNames x; first | refine (fun hx => ?_ : Keeps _ _ x → _) ?_ | refine (fun hx => ?_ : KeepsP _ _ x → _) ?_ | skip)
    | with_reducible intro _
    | split

theorem flitRx_keeps {T : List Nat} {s u : State} {port : ℕ} {f : Flit} {ecc : List EccHit}
    (hT : Sub [2, 3, 4, 5, 6, 8, 9, 11, 12, 13, 14, 16, 17, 19, 20, 21, 0x2020, 0x2021, 0x3000, 0x3001, 0x3010, 0x3011, 0x3021, 0x3403, 0x3410, 0x3411, 0x4000, 0x4001, 0x4010, 0x4020, 0x4110, 0x4120, 0x4130, 0x4140, 0x4400, 0x5801, 0x5804, 0x5810, 0x6101, 0x6102, 0x6202, 0x7002, 0x8100, 0x9000, 0x9001, 0x9010] T) (h : Keeps T s u) : Keeps T s (flitRx u port f ecc) := by
  unfold flitRx
  repeat' first
    | with_reducible assumption
    | exact Sub.of rfl hT
    | with_reducible apply ctlRx_keeps
    | with_reducible apply nakOnce_keeps
    | with_reducible apply bumpSat_keeps
    | with_reducible apply applyHeader_keeps
    | with_reducible apply nakRx_keeps
    | with_reducible apply seqRx_keeps
    | with_reducible refine Keeps.ite ?_ ?_
    | with_reducible intro _
    | split

theorem execNull_keeps {u : State} {port : ℕ} {f : Flit} :
    OutKeeps [2, 3, 4, 5, 6, 8, 9, 11, 12, 13, 14, 16, 17, 19, 20, 21, 0x2020, 0x2021, 0x3000, 0x3001, 0x3010, 0x3011, 0x3021, 0x3403, 0x3410, 0x3411, 0x4000, 0x4001, 0x4010, 0x4020, 0x4110, 0x4120, 0x4130, 0x4140, 0x4400, 0x5801, 0x5804, 0x5810, 0x6101, 0x6102, 0x6202, 0x7002, 0x8100, 0x9000, 0x9001, 0x9010] u (execNull port f u) := by
  have h := Keeps.refl [2, 3, 4, 5, 6, 8, 9, 11, 12, 13, 14, 16, 17, 19, 20, 21, 0x2020, 0x2021, 0x3000, 0x3001, 0x3010, 0x3011, 0x3021, 0x3403, 0x3410, 0x3411, 0x4000, 0x4001, 0x4010, 0x4020, 0x4110, 0x4120, 0x4130, 0x4140, 0x4400, 0x5801, 0x5804, 0x5810, 0x6101, 0x6102, 0x6202, 0x7002, 0x8100, 0x9000, 0x9001, 0x9010] u
  have hT := Sub.rfl (a := [2, 3, 4, 5, 6, 8, 9, 11, 12, 13, 14, 16, 17, 19, 20, 21, 0x2020, 0x2021, 0x3000, 0x3001, 0x3010, 0x3011, 0x3021, 0x3403, 0x3410, 0x3411, 0x4000, 0x4001, 0x4010, 0x4020, 0x4110, 0x4120, 0x4130, 0x4140, 0x4400, 0x5801, 0x5804, 0x5810, 0x6101, 0x6102, 0x6202, 0x7002, 0x8100, 0x9000, 0x9001, 0x9010])
  unfold execNull
  repeat' first
    | with_reducible assumption
    | exact Sub.of rfl hT
    | with_reducible apply flitRx_keeps
    | with_reducible apply OutKeeps.next

theorem countWaits_keeps {T : List Nat} {s u : State} {port : ℕ}
    (hT : Sub [0x4110] T) (h : Keeps T s u) : Keeps T s (countWaits u port) := by
  unfold countWaits
  repeat' first
    | with_reducible assumption
    | exact Sub.of rfl hT
    | with_reducible apply each_keeps
    | with_reducible apply bumpSat_keeps
    | with_reducible refine Keeps.ite ?_ ?_
    | (extract_lets +onlyGivenNames x; first | refine (fun hx => ?_ : Keeps _ _ x → _) ?_ | refine (fun hx => ?_ : KeepsP _ _ x → _) ?_ | skip)
    | with_reducible intro _
    | split

theorem replayNext_keeps {T : List Nat} {s u : State} {port : ℕ}
    (hT : Sub [4, 9, 20, 0x4001] T) (h : Keeps T s u) : KeepsP T s (replayNext u port) := by
  unfold replayNext
  repeat' first
    | with_reducible assumption
    | exact Sub.of rfl hT
    | with_reducible apply modPort_keeps
    | with_reducible apply sendFlit_keeps
    | with_reducible apply bumpSat_keeps
    | with_reducible refine Keeps.ite ?_ ?_
    | with_reducible refine KeepsP.ite ?_ ?_
    | with_reducible apply KeepsP.fst
    | (extract_lets +onlyGivenNames x; first | refine (fun hx => ?_ : Keeps _ _ x → _) ?_ | refine (fun hx => ?_ : KeepsP _ _ x → _) ?_ | skip)
    | with_reducible intro _
    | split
    | with_reducible apply KeepsP.mk

theorem sendSeq_keeps {T : List Nat} {s u : State} {port : ℕ} {type : ℕ} {payload : Payload} {pkt : Option Packet} {planned : Option ℕ}
    (hT : Sub [4, 9, 20] T) (h : Keeps T s u) : Keeps T s (sendSeq u port type payload pkt planned) := by
  unfold sendSeq
  repeat' first
    | with_reducible assumption
    | exact Sub.of rfl hT
    | with_reducible apply modPort_keeps
    | with_reducible apply sendFlit_keeps

theorem sendData_keeps {T : List Nat} {s u : State} {port : ℕ} {q : QPacket} {idx : ℕ} {planned : Option ℕ}
    (hT : Sub [4, 9, 20, 0x4110] T) (h : Keeps T s u) : Keeps T s (sendData u port q idx planned) := by
  unfold sendData
  repeat' first
    | with_reducible assumption
    | exact Sub.of rfl hT
    | with_reducible apply sendSeq_keeps
    | with_reducible apply modPort_keeps
    | with_reducible apply giveBack_keeps
    | with_reducible apply wr_keeps
    | with_reducible apply bumpSat_keeps
    | with_reducible apply foldl_keeps
    | with_reducible refine Keeps.ite ?_ ?_

theorem plannedSlot_keeps {T : List Nat} {s u : State} {port : ℕ} {p : ℕ}
    (hT : Sub [4, 9, 20, 0x4001, 0x4110] T) (h : Keeps T s u) : KeepsP T s (plannedSlot u port p) := by
  unfold plannedSlot
  repeat' first
    | with_reducible assumption
    | exact Sub.of rfl hT
    | with_reducible apply replayNext_keeps
    | with_reducible apply sendData_keeps
    | with_reducible refine Keeps.ite ?_ ?_
    | with_reducible refine KeepsP.ite ?_ ?_
    | with_reducible apply KeepsP.fst
    | (extract_lets +onlyGivenNames x; first | refine (fun hx => ?_ : Keeps _ _ x → _) ?_ | refine (fun hx => ?_ : KeepsP _ _ x → _) ?_ | skip)
    | with_reducible intro _
    | split
    | with_reducible apply KeepsP.mk

theorem markSlot_keeps {T : List Nat} {s u : State} {port : ℕ} {vc : ℕ}
    (hT : Sub [9] T) (h : Keeps T s u) : Keeps T s (markSlot u port vc) := by
  unfold markSlot
  repeat' first
    | with_reducible assumption
    | exact Sub.of rfl hT
    | with_reducible apply modPort_keeps

theorem sendCtl_keeps {T : List Nat} {s u : State} {port : ℕ} {c : LinkCtl}
    (hT : Sub [4, 9, 20] T) (h : Keeps T s u) : Keeps T s (sendCtl u port c) := by
  unfold sendCtl
  repeat' first
    | with_reducible assumption
    | exact Sub.of rfl hT
    | with_reducible apply sendSeq_keeps
    | with_reducible apply modPort_keeps
    | with_reducible refine Keeps.ite ?_ ?_
    | (extract_lets +onlyGivenNames x; first | refine (fun hx => ?_ : Keeps _ _ x → _) ?_ | refine (fun hx => ?_ : KeepsP _ _ x → _) ?_ | skip)
    | with_reducible intro _
    | split

theorem execHello_keeps {u : State} {port : ℕ} {h' : Hello} {latency : ℕ} {lanesPass : List ℕ} :
    OutKeeps [4, 6, 9, 11, 13, 16, 17, 0x4000, 0x4001, 0x4010, 0x4020, 0x4110, 0x4140, 0x4400, 0x5804, 0x7002, 0x9000, 0x9001, 0x9010] u (execHello port h' latency lanesPass u) := by
  have h := Keeps.refl [4, 6, 9, 11, 13, 16, 17, 0x4000, 0x4001, 0x4010, 0x4020, 0x4110, 0x4140, 0x4400, 0x5804, 0x7002, 0x9000, 0x9001, 0x9010] u
  have hT := Sub.rfl (a := [4, 6, 9, 11, 13, 16, 17, 0x4000, 0x4001, 0x4010, 0x4020, 0x4110, 0x4140, 0x4400, 0x5804, 0x7002, 0x9000, 0x9001, 0x9010])
  unfold execHello
  repeat' first
    | with_reducible assumption
    | exact Sub.of rfl hT
    | with_reducible apply helloRx_keeps
    | with_reducible apply OutKeeps.next

theorem execFastRetrainResume_keeps {u : State} {port : ℕ} :
    OutKeeps [4, 6, 9, 11, 13, 16, 20, 0x4000, 0x4001, 0x4010, 0x4110, 0x4140, 0x4400, 0x5804, 0x7002, 0x9000, 0x9001, 0x9010] u (execFastRetrainResume port u) := by
  have h := Keeps.refl [4, 6, 9, 11, 13, 16, 20, 0x4000, 0x4001, 0x4010, 0x4110, 0x4140, 0x4400, 0x5804, 0x7002, 0x9000, 0x9001, 0x9010] u
  have hT := Sub.rfl (a := [4, 6, 9, 11, 13, 16, 20, 0x4000, 0x4001, 0x4010, 0x4110, 0x4140, 0x4400, 0x5804, 0x7002, 0x9000, 0x9001, 0x9010])
  unfold execFastRetrainResume
  repeat' first
    | with_reducible assumption
    | exact Sub.of rfl hT
    | with_reducible apply bumpSat_keeps
    | with_reducible apply modPort_keeps
    | with_reducible apply record_keeps
    | with_reducible apply sendFlit_keeps
    | with_reducible apply afterFast_keeps
    | with_reducible apply OutKeeps.next
    | with_reducible refine Keeps.ite ?_ ?_
    | (extract_lets +onlyGivenNames x; first | refine (fun hx => ?_ : Keeps _ _ x → _) ?_ | refine (fun hx => ?_ : KeepsP _ _ x → _) ?_ | skip)
    | with_reducible intro _
    | split

theorem deskewEnd_keeps {T : List Nat} {s u : State} {port : ℕ} {f : FastRetrain} {ok : Bool}
    (hT : Sub [4, 6, 9, 11, 13, 16, 0x4000, 0x4001, 0x4010, 0x4110, 0x4140, 0x4400, 0x5804, 0x7002, 0x9000, 0x9001, 0x9010] T) (h : Keeps T s u) : Keeps T s (deskewEnd u port f ok) := by
  unfold deskewEnd
  repeat' first
    | with_reducible assumption
    | exact Sub.of rfl hT
    | with_reducible apply modPort_keeps
    | with_reducible apply switchLanes_keeps
    | with_reducible apply afterFast_keeps
    | with_reducible apply startTrain_keeps
    | with_reducible apply each_keeps
    | with_reducible apply laneOut_keeps
    | with_reducible apply laneFaulty_keeps
    | with_reducible refine Keeps.ite ?_ ?_
    | (extract_lets +onlyGivenNames x; first | refine (fun hx => ?_ : Keeps _ _ x → _) ?_ | refine (fun hx => ?_ : KeepsP _ _ x → _) ?_ | skip)
    | with_reducible intro _

theorem execPause_keeps {u : State} {port : ℕ} {mask : ℕ} {time : ℕ} :
    OutKeeps [9, 0x4110] u (execPause port mask time u) := by
  have h := Keeps.refl [9, 0x4110] u
  have hT := Sub.rfl (a := [9, 0x4110])
  unfold execPause
  repeat' first
    | with_reducible assumption
    | exact Sub.of rfl hT
    | with_reducible apply pauseRx_keeps
    | with_reducible apply OutKeeps.next

theorem execCreditSync_keeps {u : State} {port : ℕ} {freed : List ℕ} :
    OutKeeps [0x4110] u (execCreditSync port freed u) := by
  have h := Keeps.refl [0x4110] u
  have hT := Sub.rfl (a := [0x4110])
  unfold execCreditSync
  repeat' first
    | with_reducible assumption
    | exact Sub.of rfl hT
    | with_reducible apply creditSyncRx_keeps
    | with_reducible apply OutKeeps.next

theorem execCreditSyncSend_keeps {u : State} {port : ℕ} :
    OutKeeps [9] u (execCreditSyncSend port u) := by
  have h := Keeps.refl [9] u
  have hT := Sub.rfl (a := [9])
  unfold execCreditSyncSend
  repeat' first
    | with_reducible assumption
    | exact Sub.of rfl hT
    | with_reducible apply ctlSend_keeps
    | with_reducible apply modPort_keeps
    | with_reducible apply OutKeeps.next
    | with_reducible refine Keeps.ite ?_ ?_

theorem execReplayTimerExpiry_keeps {u : State} {port : ℕ} :
    OutKeeps [4, 6, 9, 11, 13, 16, 0x4000, 0x4001, 0x4110, 0x4140, 0x4400, 0x5804, 0x7002, 0x9000, 0x9001, 0x9010] u (execReplayTimerExpiry port u) := by
  have h := Keeps.refl [4, 6, 9, 11, 13, 16, 0x4000, 0x4001, 0x4110, 0x4140, 0x4400, 0x5804, 0x7002, 0x9000, 0x9001, 0x9010] u
  have hT := Sub.rfl (a := [4, 6, 9, 11, 13, 16, 0x4000, 0x4001, 0x4110, 0x4140, 0x4400, 0x5804, 0x7002, 0x9000, 0x9001, 0x9010])
  unfold execReplayTimerExpiry
  repeat' first
    | with_reducible assumption
    | exact Sub.of rfl hT
    | with_reducible apply rewind_keeps
    | with_reducible apply OutKeeps.next
    | with_reducible refine Keeps.ite ?_ ?_

theorem sendHello_keeps {T : List Nat} {s u : State} {port : ℕ}
    (hT : Sub [9, 20] T) (h : Keeps T s u) : Keeps T s (sendHello u port) := by
  unfold sendHello
  repeat' first
    | with_reducible assumption
    | exact Sub.of rfl hT
    | with_reducible apply emit_keeps
    | with_reducible apply modPort_keeps

theorem displace_keeps {T : List Nat} {s u : State} {port : ℕ} {p : ℕ}
    (hT : Sub [6, 9, 16, 0x3010, 0x3011, 0x7002] T) (h : Keeps T s u) : Keeps T s (displace u port p) := by
  unfold displace
  repeat' first
    | with_reducible assumption
    | exact Sub.of rfl hT
    | with_reducible apply modPort_keeps
    | with_reducible apply slipTag_keeps
    | with_reducible refine Keeps.ite ?_ ?_
    | (extract_lets +onlyGivenNames x; first | refine (fun hx => ?_ : Keeps _ _ x → _) ?_ | refine (fun hx => ?_ : KeepsP _ _ x → _) ?_ | skip)
    | with_reducible intro _
    | split

theorem downSlot_keeps {T : List Nat} {s u : State} {port : ℕ}
    (hT : Sub [6, 9, 16, 0x3010, 0x3011, 0x7002] T) (h : Keeps T s u) : Keeps T s (downSlot u port) := by
  unfold downSlot
  repeat' first
    | with_reducible assumption
    | exact Sub.of rfl hT
    | with_reducible apply displace_keeps
    | with_reducible refine Keeps.ite ?_ ?_
    | with_reducible intro _
    | split

theorem pauseTick_keeps {T : List Nat} {s u : State} {port : ℕ} {vc : ℕ}
    (hT : Sub [9, 0x4110] T) (h : Keeps T s u) : Keeps T s (pauseTick u port vc) := by
  unfold pauseTick
  repeat' first
    | with_reducible assumption
    | exact Sub.of rfl hT
    | with_reducible apply modPort_keeps
    | with_reducible apply wr_keeps
    | with_reducible refine Keeps.ite ?_ ?_
    | with_reducible intro _
    | split

theorem freeSlot_keeps {T : List Nat} {s u : State} {port : ℕ}
    (hT : Sub [4, 9, 20, 0x4001, 0x4110] T) (h : Keeps T s u) : KeepsP T s (freeSlot u port) := by
  unfold freeSlot
  repeat' first
    | with_reducible assumption
    | exact Sub.of rfl hT
    | with_reducible apply replayNext_keeps
    | with_reducible apply sendCtl_keeps
    | with_reducible apply modPort_keeps
    | with_reducible apply sendData_keeps
    | with_reducible refine Keeps.ite ?_ ?_
    | with_reducible refine KeepsP.ite ?_ ?_
    | with_reducible apply KeepsP.fst
    | (extract_lets +onlyGivenNames x; first | refine (fun hx => ?_ : Keeps _ _ x → _) ?_ | refine (fun hx => ?_ : KeepsP _ _ x → _) ?_ | skip)
    | with_reducible intro _
    | split
    | with_reducible apply KeepsP.mk

theorem upSlot_keeps {T : List Nat} {s u : State} {port : ℕ}
    (hT : Sub [4, 6, 9, 16, 20, 0x3010, 0x3011, 0x4001, 0x4110, 0x7002] T) (h : Keeps T s u) : KeepsP T s (upSlot u port) := by
  unfold upSlot
  repeat' first
    | with_reducible assumption
    | exact Sub.of rfl hT
    | with_reducible apply displace_keeps
    | with_reducible apply plannedSlot_keeps
    | with_reducible apply freeSlot_keeps
    | with_reducible refine Keeps.ite ?_ ?_
    | with_reducible refine KeepsP.ite ?_ ?_
    | with_reducible apply KeepsP.fst
    | (extract_lets +onlyGivenNames x; first | refine (fun hx => ?_ : Keeps _ _ x → _) ?_ | refine (fun hx => ?_ : KeepsP _ _ x → _) ?_ | skip)
    | with_reducible intro _
    | split
    | with_reducible apply KeepsP.mk

theorem txSlot_keeps {T : List Nat} {s u : State} {port : ℕ}
    (hT : Sub [4, 6, 9, 16, 20, 0x3010, 0x3011, 0x4001, 0x4110, 0x7002] T) (h : Keeps T s u) : Keeps T s (txSlot u port) := by
  unfold txSlot
  repeat' first
    | with_reducible assumption
    | exact Sub.of rfl hT
    | with_reducible apply modPort_keeps
    | with_reducible apply markSlot_keeps
    | with_reducible apply downSlot_keeps
    | with_reducible apply countWaits_keeps
    | with_reducible apply pauseTick_keeps
    | with_reducible apply upSlot_keeps
    | with_reducible refine Keeps.ite ?_ ?_
    | with_reducible refine KeepsP.ite ?_ ?_
    | with_reducible apply KeepsP.fst

theorem execFlitCrcFailure_keeps {u : State} {port : ℕ} {fail : FlitFail} :
    OutKeeps [4, 9, 20, 0x4001] u (execFlitCrcFailure port fail u) := by
  have h := Keeps.refl [4, 9, 20, 0x4001] u
  have hT := Sub.rfl (a := [4, 9, 20, 0x4001])
  unfold execFlitCrcFailure
  repeat' first
    | with_reducible assumption
    | exact Sub.of rfl hT
    | with_reducible apply nakOnce_keeps
    | with_reducible apply bumpSat_keeps
    | with_reducible apply OutKeeps.next
    | with_reducible refine Keeps.ite ?_ ?_
    | with_reducible intro _
    | split

theorem execPauseExpiry_keeps {u : State} {port : ℕ} {vc : ℕ} :
    OutKeeps [9, 0x4110] u (execPauseExpiry port vc u) := by
  have h := Keeps.refl [9, 0x4110] u
  have hT := Sub.rfl (a := [9, 0x4110])
  unfold execPauseExpiry
  repeat' first
    | with_reducible assumption
    | exact Sub.of rfl hT
    | with_reducible apply setPause_keeps
    | with_reducible apply OutKeeps.next

theorem trainLanes_keeps {T : List Nat} {s u : State} {port : ℕ} {pass : List ℕ}
    (hT : Sub [13, 16, 0x4000, 0x4010, 0x7002, 0x9000, 0x9001, 0x9010] T) (h : Keeps T s u) : Keeps T s (trainLanes u port pass) := by
  unfold trainLanes
  repeat' first
    | with_reducible assumption
    | exact Sub.of rfl hT
    | with_reducible apply each_keeps
    | with_reducible apply laneOut_keeps
    | with_reducible apply laneFaulty_keeps
    | with_reducible apply penUnfix_keeps
    | with_reducible apply wr_keeps
    | with_reducible apply noteWidth_keeps
    | with_reducible apply setLanes_keeps
    | with_reducible refine Keeps.ite ?_ ?_
    | (extract_lets +onlyGivenNames x; first | refine (fun hx => ?_ : Keeps _ _ x → _) ?_ | refine (fun hx => ?_ : KeepsP _ _ x → _) ?_ | skip)
    | with_reducible intro _

theorem fecAligned_keeps {T : List Nat} {s u : State} {port : ℕ} {ok : Bool} {lanes : List ℕ}
    (hT : Sub [4, 6, 9, 11, 13, 16, 20, 0x4000, 0x4001, 0x4010, 0x4110, 0x4140, 0x4400, 0x5804, 0x7002, 0x9000, 0x9001, 0x9010] T) (h : Keeps T s u) : Keeps T s (fecAligned u port ok lanes) := by
  unfold fecAligned
  repeat' first
    | with_reducible assumption
    | exact Sub.of rfl hT
    | with_reducible apply sendHello_keeps
    | with_reducible apply trainLanes_keeps
    | with_reducible apply deskewEnd_keeps
    | with_reducible refine Keeps.ite ?_ ?_
    | with_reducible intro _
    | split

theorem execFecAligned_keeps {u : State} {port : ℕ} {ok : Bool} {lanes : List ℕ} :
    OutKeeps [4, 6, 9, 11, 13, 16, 20, 0x4000, 0x4001, 0x4010, 0x4110, 0x4140, 0x4400, 0x5804, 0x7002, 0x9000, 0x9001, 0x9010] u (execFecAligned port ok lanes u) := by
  have h := Keeps.refl [4, 6, 9, 11, 13, 16, 20, 0x4000, 0x4001, 0x4010, 0x4110, 0x4140, 0x4400, 0x5804, 0x7002, 0x9000, 0x9001, 0x9010] u
  have hT := Sub.rfl (a := [4, 6, 9, 11, 13, 16, 20, 0x4000, 0x4001, 0x4010, 0x4110, 0x4140, 0x4400, 0x5804, 0x7002, 0x9000, 0x9001, 0x9010])
  unfold execFecAligned
  repeat' first
    | with_reducible assumption
    | exact Sub.of rfl hT
    | with_reducible apply fecAligned_keeps
    | with_reducible apply OutKeeps.next

theorem pauseAll_keeps {T : List Nat} {s u : State} {vc : ℕ} {time : ℕ}
    (hT : Sub [9] T) (h : Keeps T s u) : Keeps T s (pauseAll u vc time) := by
  unfold pauseAll
  repeat' first
    | with_reducible assumption
    | exact Sub.of rfl hT
    | with_reducible apply each_keeps
    | with_reducible apply ctlSend_keeps
    | with_reducible refine Keeps.ite ?_ ?_
    | with_reducible intro _

theorem execTxSlot_keeps {u : State} {port : ℕ} :
    OutKeeps [4, 6, 9, 16, 20, 0x3010, 0x3011, 0x4001, 0x4110, 0x7002] u (execTxSlot port u) := by
  have h := Keeps.refl [4, 6, 9, 16, 20, 0x3010, 0x3011, 0x4001, 0x4110, 0x7002] u
  have hT := Sub.rfl (a := [4, 6, 9, 16, 20, 0x3010, 0x3011, 0x4001, 0x4110, 0x7002])
  unfold execTxSlot
  repeat' first
    | with_reducible assumption
    | exact Sub.of rfl hT
    | with_reducible apply txSlot_keeps
    | with_reducible apply OutKeeps.next

theorem execPauseSend_keeps {u : State} {vc : ℕ} {flits : ℕ} :
    OutKeeps [9, 11] u (execPauseSend vc flits u) := by
  have h := Keeps.refl [9, 11] u
  have hT := Sub.rfl (a := [9, 11])
  unfold execPauseSend
  repeat' first
    | with_reducible assumption
    | exact Sub.of rfl hT
    | with_reducible apply modRouter_keeps
    | with_reducible apply pauseAll_keeps
    | with_reducible apply OutKeeps.next
    | with_reducible refine Keeps.ite ?_ ?_

theorem execData_keeps {u : State} {port : ℕ} {a : FlitArrival} :
    OutKeeps [2, 3, 4, 5, 6, 8, 9, 11, 12, 13, 14, 16, 17, 19, 20, 21, 0x2020, 0x2021, 0x3000, 0x3001, 0x3010, 0x3011, 0x3021, 0x3403, 0x3410, 0x3411, 0x4000, 0x4001, 0x4010, 0x4020, 0x4110, 0x4120, 0x4130, 0x4140, 0x4400, 0x5801, 0x5804, 0x5810, 0x6101, 0x6102, 0x6202, 0x7002, 0x8100, 0x9000, 0x9001, 0x9010] u (execData port a u) := by
  have h := Keeps.refl [2, 3, 4, 5, 6, 8, 9, 11, 12, 13, 14, 16, 17, 19, 20, 21, 0x2020, 0x2021, 0x3000, 0x3001, 0x3010, 0x3011, 0x3021, 0x3403, 0x3410, 0x3411, 0x4000, 0x4001, 0x4010, 0x4020, 0x4110, 0x4120, 0x4130, 0x4140, 0x4400, 0x5801, 0x5804, 0x5810, 0x6101, 0x6102, 0x6202, 0x7002, 0x8100, 0x9000, 0x9001, 0x9010] u
  have hT := Sub.rfl (a := [2, 3, 4, 5, 6, 8, 9, 11, 12, 13, 14, 16, 17, 19, 20, 21, 0x2020, 0x2021, 0x3000, 0x3001, 0x3010, 0x3011, 0x3021, 0x3403, 0x3410, 0x3411, 0x4000, 0x4001, 0x4010, 0x4020, 0x4110, 0x4120, 0x4130, 0x4140, 0x4400, 0x5801, 0x5804, 0x5810, 0x6101, 0x6102, 0x6202, 0x7002, 0x8100, 0x9000, 0x9001, 0x9010])
  unfold execData
  repeat' first
    | with_reducible assumption
    | exact Sub.of rfl hT
    | with_reducible apply flitRx_keeps
    | with_reducible apply OutKeeps.next

theorem execNak_keeps {u : State} {port : ℕ} {f : Flit} :
    OutKeeps [2, 3, 4, 5, 6, 8, 9, 11, 12, 13, 14, 16, 17, 19, 20, 21, 0x2020, 0x2021, 0x3000, 0x3001, 0x3010, 0x3011, 0x3021, 0x3403, 0x3410, 0x3411, 0x4000, 0x4001, 0x4010, 0x4020, 0x4110, 0x4120, 0x4130, 0x4140, 0x4400, 0x5801, 0x5804, 0x5810, 0x6101, 0x6102, 0x6202, 0x7002, 0x8100, 0x9000, 0x9001, 0x9010] u (execNak port f u) := by
  have h := Keeps.refl [2, 3, 4, 5, 6, 8, 9, 11, 12, 13, 14, 16, 17, 19, 20, 21, 0x2020, 0x2021, 0x3000, 0x3001, 0x3010, 0x3011, 0x3021, 0x3403, 0x3410, 0x3411, 0x4000, 0x4001, 0x4010, 0x4020, 0x4110, 0x4120, 0x4130, 0x4140, 0x4400, 0x5801, 0x5804, 0x5810, 0x6101, 0x6102, 0x6202, 0x7002, 0x8100, 0x9000, 0x9001, 0x9010] u
  have hT := Sub.rfl (a := [2, 3, 4, 5, 6, 8, 9, 11, 12, 13, 14, 16, 17, 19, 20, 21, 0x2020, 0x2021, 0x3000, 0x3001, 0x3010, 0x3011, 0x3021, 0x3403, 0x3410, 0x3411, 0x4000, 0x4001, 0x4010, 0x4020, 0x4110, 0x4120, 0x4130, 0x4140, 0x4400, 0x5801, 0x5804, 0x5810, 0x6101, 0x6102, 0x6202, 0x7002, 0x8100, 0x9000, 0x9001, 0x9010])
  unfold execNak
  repeat' first
    | with_reducible assumption
    | exact Sub.of rfl hT
    | with_reducible apply flitRx_keeps
    | with_reducible apply OutKeeps.next

end Sys2Proof.Machine
end

