-- ==== Sys2Proof/Laws/KeepsObserve.lean ====
section
/-! SUPPORT. What the functions of `Machine/Observe.lean` keep. -/

namespace Sys2Proof.Machine

open Sys2Proof

theorem lifeSave_keeps {T : List Nat} {s u : State}
    (hT : Sub [19] T) (h : Keeps T s u) : Keeps T s (lifeSave u) := by
  unfold lifeSave
  repeat' first
    | with_reducible assumption
    | exact Sub.of rfl hT
    | with_reducible apply modObs_keeps
    | with_reducible refine Keeps.ite ?_ ?_

theorem drainOne_keeps {T : List Nat} {s u : State} {b : ℕ}
    (hT : Sub [2, 3, 5, 0x8200] T) (h : Keeps T s u) : Keeps T s (drainOne u b) := by
  unfold drainOne
  repeat' first
    | with_reducible assumption
    | exact Sub.of rfl hT
    | with_reducible apply modBlock_keeps
    | with_reducible apply ringPut_keeps
    | with_reducible refine Keeps.ite ?_ ?_
    | (extract_lets +onlyGivenNames x; first | refine (fun hx => ?_ : Keeps _ _ x → _) ?_ | refine (fun hx => ?_ : KeepsP _ _ x → _) ?_ | skip)
    | with_reducible intro _
    | split

theorem drainN_keeps {T : List Nat} {s u : State} {region : ℕ} {n : ℕ}
    (hT : Sub [2, 3, 5, 0x8200] T) (h : Keeps T s u) : Keeps T s (drainN u region n) := by
  induction n generalizing u region with
  | zero =>
    unfold drainN
    repeat' first
      | with_reducible assumption
      | exact Sub.of rfl hT
      | with_reducible apply drainOne_keeps
      | with_reducible apply ih
      | with_reducible refine Keeps.ite ?_ ?_
      | with_reducible intro _
      | dsimp only
      | split
  | succ n ih =>
    unfold drainN
    repeat' first
      | with_reducible assumption
      | exact Sub.of rfl hT
      | with_reducible apply drainOne_keeps
      | with_reducible apply ih
      | with_reducible refine Keeps.ite ?_ ?_
      | with_reducible intro _
      | dsimp only
      | split

theorem execTraceRingDrain_keeps {u : State} {region : ℕ} :
    OutKeeps [2, 3, 5, 0x8200] u (execTraceRingDrain region u) := by
  have h := Keeps.refl [2, 3, 5, 0x8200] u
  have hT := Sub.rfl (a := [2, 3, 5, 0x8200])
  unfold execTraceRingDrain
  repeat' first
    | with_reducible assumption
    | exact Sub.of rfl hT
    | with_reducible apply drainN_keeps
    | with_reducible apply OutKeeps.next
    | with_reducible refine Keeps.ite ?_ ?_

theorem marginStart_keeps {T : List Nat} {s u : State}
    (hT : Sub [19] T) (h : Keeps T s u) : Keeps T s (marginStart u) := by
  unfold marginStart
  repeat' first
    | with_reducible assumption
    | exact Sub.of rfl hT
    | with_reducible apply modObs_keeps
    | with_reducible refine Keeps.ite ?_ ?_

theorem marginRef_keeps {T : List Nat} {s u : State} {m : MarginTest}
    (hT : Sub [13, 16, 0x7002, 0x9000, 0x9001, 0x9012] T) (h : Keeps T s u) : Keeps T s (marginRef u m) := by
  unfold marginRef
  repeat' first
    | with_reducible assumption
    | exact Sub.of rfl hT
    | with_reducible apply wr_keeps
    | with_reducible apply penOnce_keeps
    | with_reducible refine Keeps.ite ?_ ?_
    | (extract_lets +onlyGivenNames x; first | refine (fun hx => ?_ : Keeps _ _ x → _) ?_ | refine (fun hx => ?_ : KeepsP _ _ x → _) ?_ | skip)
    | with_reducible intro _
    | split

theorem marginPass_keeps {T : List Nat} {s u : State} {m : MarginTest}
    (hT : Sub [7, 13, 16, 19, 0x3401, 0x3402, 0x3403, 0x7002, 0x9000, 0x9001, 0x9011, 0x9012] T) (h : Keeps T s u) : Keeps T s (marginPass u m) := by
  unfold marginPass
  repeat' first
    | with_reducible assumption
    | exact Sub.of rfl hT
    | with_reducible apply marginEnd_keeps
    | with_reducible apply marginRef_keeps

theorem marginStep_keeps {T : List Nat} {s u : State} {passed : Bool}
    (hT : Sub [6, 7, 9, 13, 16, 19, 20, 0x3401, 0x3402, 0x3403, 0x4110, 0x4140, 0x6202, 0x7002, 0x9000, 0x9001, 0x9011, 0x9012] T) (h : Keeps T s u) : Keeps T s (marginStep u passed) := by
  unfold marginStep
  repeat' first
    | with_reducible assumption
    | exact Sub.of rfl hT
    | with_reducible apply marginPass_keeps
    | with_reducible apply modObs_keeps
    | with_reducible apply marginRecord_keeps
    | with_reducible apply fenceChip_keeps
    | with_reducible apply record_keeps
    | with_reducible apply marginEnd_keeps
    | with_reducible refine Keeps.ite ?_ ?_
    | (extract_lets +onlyGivenNames x; first | refine (fun hx => ?_ : Keeps _ _ x → _) ?_ | refine (fun hx => ?_ : KeepsP _ _ x → _) ?_ | skip)
    | with_reducible intro _
    | split

theorem execMarginStepDone_keeps {u : State} {passed : Bool} :
    OutKeeps [6, 7, 9, 13, 16, 19, 20, 0x3401, 0x3402, 0x3403, 0x4110, 0x4140, 0x6202, 0x7002, 0x9000, 0x9001, 0x9011, 0x9012] u (execMarginStepDone passed u) := by
  have h := Keeps.refl [6, 7, 9, 13, 16, 19, 20, 0x3401, 0x3402, 0x3403, 0x4110, 0x4140, 0x6202, 0x7002, 0x9000, 0x9001, 0x9011, 0x9012] u
  have hT := Sub.rfl (a := [6, 7, 9, 13, 16, 19, 20, 0x3401, 0x3402, 0x3403, 0x4110, 0x4140, 0x6202, 0x7002, 0x9000, 0x9001, 0x9011, 0x9012])
  unfold execMarginStepDone
  repeat' first
    | with_reducible assumption
    | exact Sub.of rfl hT
    | with_reducible apply marginStep_keeps
    | with_reducible apply OutKeeps.next

theorem lifeSecond_keeps {T : List Nat} {s u : State} {tempC : ℕ} {vddMv : ℕ} {powerW : ℕ}
    (hT : Sub [0x2101, 0x9010] T) (h : Keeps T s u) : Keeps T s (lifeSecond u tempC vddMv powerW) := by
  unfold lifeSecond
  repeat' first
    | with_reducible assumption
    | exact Sub.of rfl hT
    | with_reducible apply bumpSat_keeps
    | with_reducible apply wr_keeps
    | with_reducible apply raise_keeps
    | with_reducible refine Keeps.ite ?_ ?_

theorem execLifeSave_keeps {u : State} :
    OutKeeps [19] u (execLifeSave u) := by
  have h := Keeps.refl [19] u
  have hT := Sub.rfl (a := [19])
  unfold execLifeSave
  repeat' first
    | with_reducible assumption
    | exact Sub.of rfl hT
    | with_reducible apply lifeSave_keeps
    | with_reducible apply OutKeeps.next
    | with_reducible refine Keeps.ite ?_ ?_

theorem execMarginTestStart_keeps {u : State} :
    OutKeeps [19] u (execMarginTestStart u) := by
  have h := Keeps.refl [19] u
  have hT := Sub.rfl (a := [19])
  unfold execMarginTestStart
  repeat' first
    | with_reducible assumption
    | exact Sub.of rfl hT
    | with_reducible apply marginStart_keeps
    | with_reducible apply OutKeeps.next
    | with_reducible refine Keeps.ite ?_ ?_

theorem execLifeSample_keeps {u : State} {tempC : ℕ} {vddMv : ℕ} {powerW : ℕ} :
    OutKeeps [0x2101, 0x9010] u (execLifeSample tempC vddMv powerW u) := by
  have h := Keeps.refl [0x2101, 0x9010] u
  have hT := Sub.rfl (a := [0x2101, 0x9010])
  unfold execLifeSample
  repeat' first
    | with_reducible assumption
    | exact Sub.of rfl hT
    | with_reducible apply lifeSecond_keeps
    | with_reducible apply OutKeeps.next
    | with_reducible refine Keeps.ite ?_ ?_

end Sys2Proof.Machine
end

