-- ==== Sys2Proof/Laws/KeepsWrites.lean ====
section
/-! SUPPORT. What the functions of `Machine/Writes.lean` keep. -/

namespace Sys2Proof.Machine

open Sys2Proof

theorem fccMark_keeps {T : List Nat} {s u : State} {v : ℕ}
    (hT : Sub [2, 3, 19, 0x8200] T) (h : Keeps T s u) : KeepsP T s (fccMark u v) := by
  unfold fccMark
  repeat' first
    | with_reducible assumption
    | exact Sub.of rfl hT
    | with_reducible apply done_keeps
    | with_reducible apply ringMark_keeps
    | with_reducible apply modObs_keeps

theorem plainWrite_keeps {T : List Nat} {s u : State} {r : Reg} {i : ℕ} {v : ℕ}
    (hT : Sub [31] T) (h : Keeps T s u) : KeepsP T s (plainWrite u r i v) := by
  unfold plainWrite
  repeat' first
    | with_reducible assumption
    | exact Sub.of rfl hT
    | with_reducible apply done_keeps
    | with_reducible apply wr_keeps
    | with_reducible refine Keeps.ite ?_ ?_
    | with_reducible refine KeepsP.ite ?_ ?_
    | with_reducible apply KeepsP.fst
    | exact Sub.reg _ hT rfl

theorem writeReset_keeps {T : List Nat} {s u : State} {r : Reg} {i : ℕ} {v : ℕ} {bs : List Byte}
    (hT : Sub [1, 2, 3, 4, 5, 6, 7, 8, 9, 11, 12, 13, 14, 15, 16, 17, 18, 19, 20, 31] T) (h : Keeps T s u) : KeepsP T s (writeReset u r i v bs) := by
  unfold writeReset
  repeat' first
    | with_reducible assumption
    | exact Sub.of rfl hT
    | with_reducible apply done_keeps
    | with_reducible apply warm_keeps
    | with_reducible apply leaveRecovery_keeps
    | with_reducible apply wrB_keeps
    | with_reducible apply domCmd_keeps
    | with_reducible apply deny_keeps
    | with_reducible apply plainWrite_keeps
    | with_reducible apply imgData_keeps
    | with_reducible apply imgEraseCmd_keeps
    | with_reducible apply imgCheckCmd_keeps
    | with_reducible apply powerCap_keeps
    | with_reducible refine Keeps.ite ?_ ?_
    | with_reducible refine KeepsP.ite ?_ ?_
    | with_reducible apply KeepsP.fst
    | exact Sub.reg _ hT rfl
    | with_reducible intro _
    | split

theorem writeIf_keeps {T : List Nat} {s u : State} {r : Reg} {i : ℕ} {v : ℕ} {c : Bool}
    (hT : Sub [31] T) (h : Keeps T s u) : KeepsP T s (writeIf u r i v c) := by
  unfold writeIf
  repeat' first
    | with_reducible assumption
    | exact Sub.of rfl hT
    | with_reducible apply plainWrite_keeps
    | with_reducible refine Keeps.ite ?_ ?_
    | with_reducible refine KeepsP.ite ?_ ?_
    | with_reducible apply KeepsP.fst
    | exact Sub.reg _ hT rfl
    | with_reducible intro _
    | split
    | with_reducible apply KeepsP.mk

theorem writeRoute_keeps {T : List Nat} {s u : State} {r : Reg} {i : ℕ} {v : ℕ}
    (hT : Sub [11, 16, 31] T) (h : Keeps T s u) : KeepsP T s (writeRoute u r i v) := by
  unfold writeRoute
  repeat' first
    | with_reducible assumption
    | exact Sub.of rfl hT
    | with_reducible apply epochInj_keeps
    | with_reducible apply writeIf_keeps
    | with_reducible apply deny_keeps
    | with_reducible apply plainWrite_keeps
    | with_reducible apply rtState_keeps
    | with_reducible apply verWrite_keeps
    | with_reducible apply dmapWrite_keeps
    | with_reducible apply vc1Res_keeps
    | with_reducible apply shpRate_keeps
    | with_reducible apply shpLevel_keeps
    | with_reducible refine Keeps.ite ?_ ?_
    | with_reducible refine KeepsP.ite ?_ ?_
    | with_reducible apply KeepsP.fst
    | exact Sub.reg _ hT rfl
    | with_reducible intro _
    | split

theorem writeTally_keeps {T : List Nat} {s u : State} {r : Reg} {v : ℕ}
    (hT : Sub [12, 16, 17, 20, 31] T) (h : Keeps T s u) : KeepsP T s (writeTally u r v) := by
  unfold writeTally
  repeat' first
    | with_reducible assumption
    | exact Sub.of rfl hT
    | with_reducible apply deny_keeps
    | with_reducible apply writeIf_keeps
    | with_reducible apply done_keeps
    | with_reducible apply wr_keeps
    | with_reducible apply tallyStart_keeps
    | with_reducible apply tallyStop_keeps
    | with_reducible apply tallyClear_keeps
    | with_reducible apply laneInput_keeps
    | with_reducible refine Keeps.ite ?_ ?_
    | with_reducible refine KeepsP.ite ?_ ?_
    | with_reducible apply KeepsP.fst
    | exact Sub.reg _ hT rfl
    | (extract_lets +onlyGivenNames x; first | refine (fun hx => ?_ : Keeps _ _ x → _) ?_ | refine (fun hx => ?_ : KeepsP _ _ x → _) ?_ | skip)
    | with_reducible intro _
    | split

theorem writeLink_keeps {T : List Nat} {s u : State} {r : Reg} {i : ℕ} {v : ℕ}
    (hT : Sub [4, 6, 9, 10, 11, 13, 16, 20, 31] T) (h : Keeps T s u) : KeepsP T s (writeLink u r i v) := by
  unfold writeLink
  repeat' first
    | with_reducible assumption
    | exact Sub.of rfl hT
    | with_reducible apply portAdmin_keeps
    | with_reducible apply fullRetrain_keeps
    | with_reducible apply done_keeps
    | with_reducible apply clearPortCounters_keeps
    | with_reducible apply outClr_keeps
    | with_reducible apply clkUp_keeps
    | with_reducible apply writeIf_keeps
    | with_reducible apply plainWrite_keeps
    | with_reducible refine Keeps.ite ?_ ?_
    | with_reducible refine KeepsP.ite ?_ ?_
    | with_reducible apply KeepsP.fst
    | exact Sub.reg _ hT rfl
    | with_reducible intro _
    | split

theorem fabSel_keeps {T : List Nat} {s u : State} {v : ℕ}
    (hT : Sub [0x1120] T) (h : Keeps T s u) : KeepsP T s (fabSel u v) := by
  unfold fabSel
  repeat' first
    | with_reducible assumption
    | exact Sub.of rfl hT
    | with_reducible apply deny_keeps
    | with_reducible apply done_keeps
    | with_reducible apply wr_keeps
    | with_reducible refine Keeps.ite ?_ ?_
    | with_reducible refine KeepsP.ite ?_ ?_

theorem execMgtKeyFabSel_keeps {u : State} {who : Who} {value : ℕ} :
    OutKeeps [20, 0x1120] u (execMgtKeyFabSel who value u) := by
  have h := Keeps.refl [20, 0x1120] u
  have hT := Sub.rfl (a := [20, 0x1120])
  unfold execMgtKeyFabSel
  repeat' first
    | with_reducible assumption
    | exact Sub.of rfl hT
    | with_reducible apply guard_keeps
    | with_reducible apply fabSel_keeps
    | with_reducible apply OutKeeps.next
    | with_reducible refine Keeps.ite ?_ ?_
    | with_reducible refine KeepsP.ite ?_ ?_
    | with_reducible apply KeepsP.fst
    | with_reducible intro _

theorem writeHost_keeps {T : List Nat} {s u : State} {r : Reg} {i : ℕ} {v : ℕ}
    (hT : Sub [2, 3, 4, 5, 6, 8, 9, 11, 12, 13, 14, 16, 19, 20, 31] T) (h : Keeps T s u) : KeepsP T s (writeHost u r i v) := by
  unfold writeHost
  repeat' first
    | with_reducible assumption
    | exact Sub.of rfl hT
    | with_reducible apply assign_keeps
    | with_reducible apply plainWrite_keeps
    | with_reducible apply deny_keeps
    | with_reducible apply done_keeps
    | with_reducible apply funcReset_keeps
    | with_reducible apply disableAll_keeps
    | with_reducible apply timeIncr_keeps
    | with_reducible apply stepNs_keeps
    | with_reducible apply masterPort_keeps
    | with_reducible apply writeIf_keeps
    | with_reducible refine Keeps.ite ?_ ?_
    | with_reducible refine KeepsP.ite ?_ ?_
    | with_reducible apply KeepsP.fst
    | exact Sub.reg _ hT rfl
    | with_reducible intro _
    | split

theorem endSession_keeps {T : List Nat} {s u : State} {x' : Session} {cause : ℕ}
    (hT : Sub [16, 18, 0x7002] T) (h : Keeps T s u) : Keeps T s (endSession u x' cause) := by
  unfold endSession
  repeat' first
    | with_reducible assumption
    | exact Sub.of rfl hT
    | with_reducible apply setMgmt_keeps
    | with_reducible apply sessionEnded_keeps
    | with_reducible refine Keeps.ite ?_ ?_

theorem keyPut_keeps {T : List Nat} {s u : State} {r : Reg} {key : List Byte} {p : Path}
    (hT : Sub [1, 16, 18, 31] T) (h : Keeps T s u) : KeepsP T s (keyPut u r key p) := by
  unfold keyPut
  repeat' first
    | with_reducible assumption
    | exact Sub.of rfl hT
    | with_reducible apply deny_keeps
    | with_reducible apply wrB_keeps
    | with_reducible apply record_keeps
    | with_reducible apply wr_keeps
    | with_reducible apply done_keeps
    | with_reducible apply each_keeps
    | with_reducible apply endSession_keeps
    | with_reducible refine Keeps.ite ?_ ?_
    | with_reducible refine KeepsP.ite ?_ ?_
    | with_reducible apply KeepsP.fst
    | exact Sub.reg _ hT rfl
    | (extract_lets +onlyGivenNames x; first | refine (fun hx => ?_ : Keeps _ _ x → _) ?_ | refine (fun hx => ?_ : KeepsP _ _ x → _) ?_ | skip)
    | with_reducible intro _
    | split
    | with_reducible apply KeepsP.mk

theorem writeMgmt_keeps {T : List Nat} {s u : State} {w : Who} {r : Reg} {i : ℕ} {v : ℕ} {bs : List Byte}
    (hT : Sub [1, 16, 18, 31] T) (h : Keeps T s u) : KeepsP T s (writeMgmt u w r i v bs) := by
  unfold writeMgmt
  repeat' first
    | with_reducible assumption
    | exact Sub.of rfl hT
    | with_reducible apply fabSel_keeps
    | with_reducible apply keyPut_keeps
    | with_reducible apply plainWrite_keeps
    | with_reducible refine Keeps.ite ?_ ?_
    | with_reducible refine KeepsP.ite ?_ ?_
    | with_reducible apply KeepsP.fst
    | exact Sub.reg _ hT rfl
    | with_reducible intro _
    | split

theorem writePart_keeps {T : List Nat} {s u : State} {r : Reg} {i : ℕ} {v : ℕ}
    (hT : Sub [7, 12, 16, 19, 31] T) (h : Keeps T s u) : KeepsP T s (writePart u r i v) := by
  unfold writePart
  repeat' first
    | with_reducible assumption
    | exact Sub.of rfl hT
    | with_reducible apply partOwner_keeps
    | with_reducible apply partTag_keeps
    | with_reducible apply blockPart_keeps
    | with_reducible apply slicePartW_keeps
    | with_reducible apply sliceUse_keeps
    | with_reducible apply sliceHost_keeps
    | with_reducible apply plainWrite_keeps
    | with_reducible refine Keeps.ite ?_ ?_
    | with_reducible refine KeepsP.ite ?_ ?_
    | with_reducible apply KeepsP.fst
    | exact Sub.reg _ hT rfl
    | with_reducible intro _
    | split

theorem writeSeal_keeps {T : List Nat} {s u : State} {r : Reg} {i : ℕ} {v : ℕ}
    (hT : Sub [6, 13, 16, 17, 21, 31] T) (h : Keeps T s u) : KeepsP T s (writeSeal u r i v) := by
  unfold writeSeal
  repeat' first
    | with_reducible assumption
    | exact Sub.of rfl hT
    | with_reducible apply plainWrite_keeps
    | with_reducible apply deny_keeps
    | with_reducible apply sealBuddy_keeps
    | with_reducible apply adopt_keeps
    | with_reducible apply setFree_keeps
    | with_reducible apply tallyChan_keeps
    | with_reducible apply wr_keeps
    | with_reducible apply done_keeps
    | with_reducible apply setTree_keeps
    | with_reducible apply stwCmd_keeps
    | with_reducible apply each_keeps
    | with_reducible apply rescore_keeps
    | exact Nat.le_add_right _ _
    | with_reducible refine Keeps.ite ?_ ?_
    | with_reducible refine KeepsP.ite ?_ ?_
    | with_reducible apply KeepsP.fst
    | exact Sub.reg _ hT rfl
    | (extract_lets +onlyGivenNames x; first | refine (fun hx => ?_ : Keeps _ _ x → _) ?_ | refine (fun hx => ?_ : KeepsP _ _ x → _) ?_ | skip)
    | with_reducible intro _
    | split
    | with_reducible apply KeepsP.mk

theorem ringWrite_keeps {T : List Nat} {s u : State} {r : Reg} {p : ℕ} {v : ℕ}
    (hT : Sub [31] T) (h : Keeps T s u) : KeepsP T s (ringWrite u r p v) := by
  unfold ringWrite
  repeat' first
    | with_reducible assumption
    | exact Sub.of rfl hT
    | with_reducible apply wr_keeps
    | with_reducible apply done_keeps
    | with_reducible apply deny_keeps
    | with_reducible refine Keeps.ite ?_ ?_
    | with_reducible refine KeepsP.ite ?_ ?_
    | with_reducible apply KeepsP.fst
    | exact Sub.reg _ hT rfl

theorem writeObs_keeps {T : List Nat} {s u : State} {w : Who} {r : Reg} {i : ℕ} {v : ℕ}
    (hT : Sub [2, 3, 5, 6, 8, 9, 11, 12, 13, 14, 16, 17, 19, 20, 31] T) (h : Keeps T s u) : KeepsP T s (writeObs u w r i v) := by
  unfold writeObs
  repeat' first
    | with_reducible assumption
    | exact Sub.of rfl hT
    | with_reducible apply ldgClear_keeps
    | with_reducible apply ldgOvr_keeps
    | with_reducible apply freezeArm_keeps
    | with_reducible apply freezePod_keeps
    | with_reducible apply ringWrite_keeps
    | with_reducible apply fccMark_keeps
    | with_reducible apply writeTally_keeps
    | with_reducible apply plainWrite_keeps
    | with_reducible refine Keeps.ite ?_ ?_
    | with_reducible refine KeepsP.ite ?_ ?_
    | with_reducible apply KeepsP.fst
    | exact Sub.reg _ hT rfl
    | with_reducible intro _
    | split

theorem writeEffect_keeps {T : List Nat} {s u : State} {w : Who} {r : Reg} {i : ℕ} {bs : List Byte}
    (hT : Sub [1, 2, 3, 4, 5, 6, 7, 8, 9, 10, 11, 12, 13, 14, 15, 16, 17, 18, 19, 20, 21, 31] T) (h : Keeps T s u) : KeepsP T s (writeEffect u w r i bs) := by
  unfold writeEffect
  repeat' first
    | with_reducible assumption
    | exact Sub.of rfl hT
    | with_reducible apply writeMgmt_keeps
    | with_reducible apply writeReset_keeps
    | with_reducible apply writePart_keeps
    | with_reducible apply writeLink_keeps
    | with_reducible apply writeRoute_keeps
    | with_reducible apply writeHost_keeps
    | with_reducible apply writeSeal_keeps
    | with_reducible apply writeObs_keeps
    | with_reducible refine Keeps.ite ?_ ?_
    | with_reducible refine KeepsP.ite ?_ ?_

theorem writeOne_keeps {T : List Nat} {s u : State} {w : Who} {r : Reg} {i : ℕ} {bs : List Byte}
    (hT : Sub [1, 2, 3, 4, 5, 6, 7, 8, 9, 10, 11, 12, 13, 14, 15, 16, 17, 18, 19, 20, 21, 31] T) (h : Keeps T s u) : KeepsP T s (writeOne u w r i bs) := by
  unfold writeOne
  repeat' first
    | with_reducible assumption
    | exact Sub.of rfl hT
    | with_reducible apply writeEffect_keeps
    | with_reducible refine Keeps.ite ?_ ?_
    | with_reducible refine KeepsP.ite ?_ ?_
    | with_reducible apply KeepsP.fst
    | exact Sub.reg _ hT rfl
    | (extract_lets +onlyGivenNames x; first | refine (fun hx => ?_ : Keeps _ _ x → _) ?_ | refine (fun hx => ?_ : KeepsP _ _ x → _) ?_ | skip)
    | with_reducible intro _
    | split
    | with_reducible apply KeepsP.mk

theorem execKeyWrite_keeps {u : State} {who : Who} {sub : ℕ} {key : List Byte} :
    OutKeeps [1, 2, 3, 4, 5, 6, 7, 8, 9, 10, 11, 12, 13, 14, 15, 16, 17, 18, 19, 20, 21, 31] u (execKeyWrite who sub key u) := by
  have h := Keeps.refl [1, 2, 3, 4, 5, 6, 7, 8, 9, 10, 11, 12, 13, 14, 15, 16, 17, 18, 19, 20, 21, 31] u
  have hT := Sub.rfl (a := [1, 2, 3, 4, 5, 6, 7, 8, 9, 10, 11, 12, 13, 14, 15, 16, 17, 18, 19, 20, 21, 31])
  unfold execKeyWrite
  repeat' first
    | with_reducible assumption
    | exact Sub.of rfl hT
    | with_reducible apply writeOne_keeps
    | with_reducible apply emit_keeps
    | with_reducible apply OutKeeps.next
    | with_reducible refine Keeps.ite ?_ ?_
    | with_reducible refine KeepsP.ite ?_ ?_
    | with_reducible apply KeepsP.fst

theorem execTrcFccMark_keeps {u : State} {who : Who} {value : ℕ} :
    OutKeeps [2, 3, 19, 20, 0x8200, 0x8201] u (execTrcFccMark who value u) := by
  have h := Keeps.refl [2, 3, 19, 20, 0x8200, 0x8201] u
  have hT := Sub.rfl (a := [2, 3, 19, 20, 0x8200, 0x8201])
  unfold execTrcFccMark
  repeat' first
    | with_reducible assumption
    | exact Sub.of rfl hT
    | with_reducible apply guard_keeps
    | with_reducible apply fccMark_keeps
    | with_reducible apply OutKeeps.next
    | with_reducible refine Keeps.ite ?_ ?_
    | with_reducible refine KeepsP.ite ?_ ?_
    | with_reducible apply KeepsP.fst
    | with_reducible intro _

end Sys2Proof.Machine
end

