-- ==== Sys2Proof/Laws/KeepsRequest.lean ====
section
/-! SUPPORT. What the functions of `Machine/Request.lean` keep. -/

namespace Sys2Proof.Machine

open Sys2Proof

theorem readAll_keeps {T : List Nat} {s u : State} {w : Who} {be : Bool} {r : Reg} {is : List ℕ}
    (hT : Sub [4, 11, 21, 31] T) (h : Keeps T s u) : KeepsP T s (readAll u w be r is) := by
  induction is generalizing u w be r with
  | nil =>
    unfold readAll
    repeat' first
      | with_reducible assumption
      | exact Sub.of rfl hT
      | with_reducible apply readOne_keeps
      | with_reducible apply ih
      | with_reducible refine Keeps.ite ?_ ?_
      | with_reducible refine KeepsP.ite ?_ ?_
      | with_reducible apply KeepsP.fst
      | exact Sub.reg _ hT rfl
      | with_reducible intro _
      | dsimp only
      | split
      | with_reducible apply KeepsP.mk
  | cons c r ih =>
    unfold readAll
    repeat' first
      | with_reducible assumption
      | exact Sub.of rfl hT
      | with_reducible apply readOne_keeps
      | with_reducible apply ih
      | with_reducible refine Keeps.ite ?_ ?_
      | with_reducible refine KeepsP.ite ?_ ?_
      | with_reducible apply KeepsP.fst
      | exact Sub.reg _ hT rfl
      | with_reducible intro _
      | dsimp only
      | split
      | with_reducible apply KeepsP.mk

theorem runRead_keeps {T : List Nat} {s u : State} {w : Who} {be : Bool} {r : Reg} {inst : ℕ} {room : ℕ}
    (hT : Sub [4, 11, 21, 31] T) (h : Keeps T s u) : KeepsP T s (runRead u w be r inst room) := by
  unfold runRead
  repeat' first
    | with_reducible assumption
    | exact Sub.of rfl hT
    | with_reducible apply readAll_keeps
    | with_reducible refine Keeps.ite ?_ ?_
    | with_reducible refine KeepsP.ite ?_ ?_
    | with_reducible apply KeepsP.fst
    | exact Sub.reg _ hT rfl
    | (extract_lets +onlyGivenNames x; first | refine (fun hx => ?_ : Keeps _ _ x → _) ?_ | refine (fun hx => ?_ : KeepsP _ _ x → _) ?_ | skip)
    | with_reducible intro _
    | split
    | with_reducible apply KeepsP.mk

theorem writeAll_keeps {T : List Nat} {s u : State} {w : Who} {r : Reg} {bs : List Byte} {is : List ℕ} {g : GroupRes}
    (hT : Sub [1, 2, 3, 4, 5, 6, 7, 8, 9, 10, 11, 12, 13, 14, 15, 16, 17, 18, 19, 20, 21, 31] T) (h : Keeps T s u) : KeepsP T s (writeAll u w r bs is g) := by
  induction is generalizing u w r bs g with
  | nil =>
    unfold writeAll
    repeat' first
      | with_reducible assumption
      | exact Sub.of rfl hT
      | with_reducible apply writeOne_keeps
      | with_reducible apply ih
      | with_reducible refine Keeps.ite ?_ ?_
      | with_reducible refine KeepsP.ite ?_ ?_
      | with_reducible apply KeepsP.fst
      | exact Sub.reg _ hT rfl
      | with_reducible intro _
      | dsimp only
      | split
      | with_reducible apply KeepsP.mk
  | cons c r ih =>
    unfold writeAll
    repeat' first
      | with_reducible assumption
      | exact Sub.of rfl hT
      | with_reducible apply writeOne_keeps
      | with_reducible apply ih
      | with_reducible refine Keeps.ite ?_ ?_
      | with_reducible refine KeepsP.ite ?_ ?_
      | with_reducible apply KeepsP.fst
      | exact Sub.reg _ hT rfl
      | with_reducible intro _
      | dsimp only
      | split
      | with_reducible apply KeepsP.mk

theorem runWrite_keeps {T : List Nat} {s u : State} {w : Who} {be : Bool} {r : Reg} {inst : ℕ} {value : List Byte} {room : ℕ}
    (hT : Sub [1, 2, 3, 4, 5, 6, 7, 8, 9, 10, 11, 12, 13, 14, 15, 16, 17, 18, 19, 20, 21, 31] T) (h : Keeps T s u) : KeepsP T s (runWrite u w be r inst value room) := by
  unfold runWrite
  repeat' first
    | with_reducible assumption
    | exact Sub.of rfl hT
    | with_reducible apply writeAll_keeps
    | with_reducible apply record_keeps
    | with_reducible refine Keeps.ite ?_ ?_
    | with_reducible refine KeepsP.ite ?_ ?_
    | with_reducible apply KeepsP.fst
    | exact Sub.reg _ hT rfl
    | (extract_lets +onlyGivenNames x; first | refine (fun hx => ?_ : Keeps _ _ x → _) ?_ | refine (fun hx => ?_ : KeepsP _ _ x → _) ?_ | skip)
    | with_reducible intro _
    | split
    | with_reducible apply KeepsP.mk

theorem runOp_keeps {T : List Nat} {s u : State} {w : Who} {be : Bool} {o : Op} {room : ℕ}
    (hT : Sub [1, 2, 3, 4, 5, 6, 7, 8, 9, 10, 11, 12, 13, 14, 15, 16, 17, 18, 19, 20, 21, 31] T) (h : Keeps T s u) : KeepsP T s (runOp u w be o room) := by
  unfold runOp
  repeat' first
    | with_reducible assumption
    | exact Sub.of rfl hT
    | with_reducible apply runRead_keeps
    | with_reducible apply runWrite_keeps
    | with_reducible refine Keeps.ite ?_ ?_
    | with_reducible refine KeepsP.ite ?_ ?_
    | with_reducible apply KeepsP.fst
    | exact Sub.reg _ hT rfl
    | with_reducible intro _
    | split
    | with_reducible apply KeepsP.mk

theorem runOps_keeps {T : List Nat} {s u : State} {w : Who} {be : Bool} {stop : Bool} {ops : List Op} {failed : Bool} {out : List Byte}
    (hT : Sub [1, 2, 3, 4, 5, 6, 7, 8, 9, 10, 11, 12, 13, 14, 15, 16, 17, 18, 19, 20, 21, 31] T) (h : Keeps T s u) : KeepsP T s (runOps u w be stop ops failed out) := by
  induction ops generalizing u w be stop failed out with
  | nil =>
    unfold runOps
    repeat' first
      | with_reducible assumption
      | exact Sub.of rfl hT
      | with_reducible apply runOp_keeps
      | with_reducible apply ih
      | with_reducible refine Keeps.ite ?_ ?_
      | with_reducible refine KeepsP.ite ?_ ?_
      | with_reducible apply KeepsP.fst
      | exact Sub.reg _ hT rfl
      | with_reducible intro _
      | dsimp only
      | split
      | with_reducible apply KeepsP.mk
  | cons c r ih =>
    unfold runOps
    repeat' first
      | with_reducible assumption
      | exact Sub.of rfl hT
      | with_reducible apply runOp_keeps
      | with_reducible apply ih
      | with_reducible refine Keeps.ite ?_ ?_
      | with_reducible refine KeepsP.ite ?_ ?_
      | with_reducible apply KeepsP.fst
      | exact Sub.reg _ hT rfl
      | with_reducible intro _
      | dsimp only
      | split
      | with_reducible apply KeepsP.mk

theorem registerWrite_keeps {T : List Nat} {s u : State} {w : Who} {index : ℕ} {sub : ℕ} {inst : ℕ} {value : List Byte}
    (hT : Sub [1, 2, 3, 4, 5, 6, 7, 8, 9, 10, 11, 12, 13, 14, 15, 16, 17, 18, 19, 20, 21, 31] T) (h : Keeps T s u) : Keeps T s (registerWrite u w index sub inst value) := by
  unfold registerWrite
  repeat' first
    | with_reducible assumption
    | exact Sub.of rfl hT
    | with_reducible apply runOp_keeps
    | with_reducible apply emit_keeps
    | with_reducible refine Keeps.ite ?_ ?_
    | with_reducible refine KeepsP.ite ?_ ?_
    | with_reducible apply KeepsP.fst

theorem execRegisterWrite_keeps {u : State} {who : Who} {index : ℕ} {sub : ℕ} {inst : ℕ} {value : List Byte} :
    OutKeeps [1, 2, 3, 4, 5, 6, 7, 8, 9, 10, 11, 12, 13, 14, 15, 16, 17, 18, 19, 20, 21, 31] u (execRegisterWrite who index sub inst value u) := by
  have h := Keeps.refl [1, 2, 3, 4, 5, 6, 7, 8, 9, 10, 11, 12, 13, 14, 15, 16, 17, 18, 19, 20, 21, 31] u
  have hT := Sub.rfl (a := [1, 2, 3, 4, 5, 6, 7, 8, 9, 10, 11, 12, 13, 14, 15, 16, 17, 18, 19, 20, 21, 31])
  unfold execRegisterWrite
  repeat' first
    | with_reducible assumption
    | exact Sub.of rfl hT
    | with_reducible apply registerWrite_keeps
    | with_reducible apply OutKeeps.next

theorem runRequest_keeps {T : List Nat} {s u : State} {w : Who} {be : Bool} {stop : Bool} {bs : List Byte}
    (hT : Sub [1, 2, 3, 4, 5, 6, 7, 8, 9, 10, 11, 12, 13, 14, 15, 16, 17, 18, 19, 20, 21, 31] T) (h : Keeps T s u) : KeepsP T s (runRequest u w be stop bs) := by
  unfold runRequest
  repeat' first
    | with_reducible assumption
    | exact Sub.of rfl hT
    | with_reducible apply runOps_keeps
    | with_reducible refine Keeps.ite ?_ ?_
    | with_reducible refine KeepsP.ite ?_ ?_
    | with_reducible apply KeepsP.fst
    | exact Sub.reg _ hT rfl
    | with_reducible intro _
    | split
    | with_reducible apply KeepsP.mk

end Sys2Proof.Machine
end

