-- ==== Sys2Proof/Laws/KeepsOdap.lean ====
section
/-! SUPPORT. What the functions of `Machine/Odap.lean` keep. -/

namespace Sys2Proof.Machine

open Sys2Proof

theorem plcaBeacon_keeps {T : List Nat} {s u : State} {lost : Bool}
    (hT : Sub [16, 0x1100, 0x7002] T) (h : Keeps T s u) : Keeps T s (plcaBeacon u lost) := by
  unfold plcaBeacon
  repeat' first
    | with_reducible assumption
    | exact Sub.of rfl hT
    | with_reducible apply record_keeps
    | with_reducible apply wr_keeps
    | with_reducible refine Keeps.ite ?_ ?_

theorem execPlcaBeaconLoss_keeps {u : State} {lost : Bool} :
    OutKeeps [16, 0x1100, 0x7002] u (execPlcaBeaconLoss lost u) := by
  have h := Keeps.refl [16, 0x1100, 0x7002] u
  have hT := Sub.rfl (a := [16, 0x1100, 0x7002])
  unfold execPlcaBeaconLoss
  repeat' first
    | with_reducible assumption
    | exact Sub.of rfl hT
    | with_reducible apply plcaBeacon_keeps
    | with_reducible apply OutKeeps.next

theorem fwdSend_keeps {T : List Nat} {s u : State} {w : Forward}
    (hT : Sub [6, 9, 16, 18, 20, 0x4110, 0x4140, 0x7002] T) (h : Keeps T s u) : Keeps T s (fwdSend u w) := by
  unfold fwdSend
  repeat' first
    | with_reducible assumption
    | exact Sub.of rfl hT
    | with_reducible apply mgmtEmit_keeps
    | with_reducible apply setMgmt_keeps

theorem rxDrop_keeps {T : List Nat} {s u : State} {f : Frame}
    (hT : Sub [16, 0x1102, 0x7002] T) (h : Keeps T s u) : Keeps T s (rxDrop u f) := by
  unfold rxDrop
  repeat' first
    | with_reducible assumption
    | exact Sub.of rfl hT
    | with_reducible apply record_keeps
    | with_reducible apply bumpSat_keeps

theorem authFail_keeps {T : List Nat} {s u : State} {f : Frame}
    (hT : Sub [16, 0x1102, 0x7002] T) (h : Keeps T s u) : Keeps T s (authFail u f) := by
  unfold authFail
  repeat' first
    | with_reducible assumption
    | exact Sub.of rfl hT
    | with_reducible apply record_keeps
    | with_reducible apply bumpSat_keeps

theorem startProbe_keeps {T : List Nat} {s u : State} {subject : ℕ}
    (hT : Sub [13, 20] T) (h : Keeps T s u) : Keeps T s (startProbe u subject) := by
  unfold startProbe
  repeat' first
    | with_reducible assumption
    | exact Sub.of rfl hT
    | with_reducible apply sendProbe_keeps
    | with_reducible apply modInq_keeps
    | with_reducible refine Keeps.ite ?_ ?_

theorem statusRx_keeps {T : List Nat} {s u : State} {f : Frame}
    (hT : Sub [2, 3, 4, 5, 6, 7, 8, 9, 11, 12, 13, 15, 16, 19, 20, 21, 0x1102, 0x2100, 0x2101, 0x3000, 0x3021, 0x3410, 0x4000, 0x4001, 0x4010, 0x4110, 0x4140, 0x4400, 0x5804, 0x6100, 0x6101, 0x6102, 0x6201, 0x6202, 0x6210, 0x7002, 0x8200, 0x9000, 0x9001, 0x9010] T) (h : Keeps T s u) : Keeps T s (statusRx u f) := by
  unfold statusRx
  repeat' first
    | with_reducible assumption
    | exact Sub.of rfl hT
    | with_reducible apply rxDrop_keeps
    | with_reducible apply authFail_keeps
    | with_reducible apply startProbe_keeps
    | with_reducible apply reportRx_keeps
    | with_reducible refine Keeps.ite ?_ ?_

theorem execStatus_keeps {u : State} {f : Frame} :
    OutKeeps [2, 3, 4, 5, 6, 7, 8, 9, 11, 12, 13, 15, 16, 19, 20, 21, 0x1102, 0x2100, 0x2101, 0x3000, 0x3021, 0x3410, 0x4000, 0x4001, 0x4010, 0x4110, 0x4140, 0x4400, 0x5804, 0x6100, 0x6101, 0x6102, 0x6201, 0x6202, 0x6210, 0x7002, 0x8200, 0x9000, 0x9001, 0x9010] u (execStatus f u) := by
  have h := Keeps.refl [2, 3, 4, 5, 6, 7, 8, 9, 11, 12, 13, 15, 16, 19, 20, 21, 0x1102, 0x2100, 0x2101, 0x3000, 0x3021, 0x3410, 0x4000, 0x4001, 0x4010, 0x4110, 0x4140, 0x4400, 0x5804, 0x6100, 0x6101, 0x6102, 0x6201, 0x6202, 0x6210, 0x7002, 0x8200, 0x9000, 0x9001, 0x9010] u
  have hT := Sub.rfl (a := [2, 3, 4, 5, 6, 7, 8, 9, 11, 12, 13, 15, 16, 19, 20, 21, 0x1102, 0x2100, 0x2101, 0x3000, 0x3021, 0x3410, 0x4000, 0x4001, 0x4010, 0x4110, 0x4140, 0x4400, 0x5804, 0x6100, 0x6101, 0x6102, 0x6201, 0x6202, 0x6210, 0x7002, 0x8200, 0x9000, 0x9001, 0x9010])
  unfold execStatus
  repeat' first
    | with_reducible assumption
    | exact Sub.of rfl hT
    | with_reducible apply statusRx_keeps
    | with_reducible apply OutKeeps.next

theorem modMbox_keeps {T : List Nat} {s u : State} {k : ℕ} {f : Mbox → Mbox}
    (hT : Sub [12] T) (h : Keeps T s u) : Keeps T s (modMbox u k f) := by
  unfold modMbox
  repeat' first
    | with_reducible assumption
    | exact Sub.of rfl hT
    | with_reducible apply modHost_keeps
    | exact fun _ w => w

theorem mboxDone_keeps {T : List Nat} {s u : State} {k : ℕ} {rsp : List Byte}
    (hT : Sub [12] T) (h : Keeps T s u) : Keeps T s (mboxDone u k rsp) := by
  unfold mboxDone
  repeat' first
    | with_reducible assumption
    | exact Sub.of rfl hT
    | with_reducible apply modMbox_keeps

theorem sendFrame_keeps {T : List Nat} {s u : State} {steward : Bool} {key : Option (List Byte)} {f : Frame}
    (hT : Sub [20, 0x6210] T) (h : Keeps T s u) : Keeps T s (sendFrame u steward key f) := by
  unfold sendFrame
  repeat' first
    | with_reducible assumption
    | exact Sub.of rfl hT
    | with_reducible apply stwNext_keeps
    | with_reducible apply emit_keeps
    | with_reducible refine Keeps.ite ?_ ?_

theorem sendResponse_keeps {T : List Nat} {s u : State} {x' : Session} {seq : ℕ} {payload : List Byte}
    (hT : Sub [20, 0x6210] T) (h : Keeps T s u) : Keeps T s (sendResponse u x' seq payload) := by
  unfold sendResponse
  repeat' first
    | with_reducible assumption
    | exact Sub.of rfl hT
    | with_reducible apply sendFrame_keeps

theorem modSession_keeps {T : List Nat} {s u : State} {x' : Session} {f : Session → Session}
    (hT : Sub [18] T) (h : Keeps T s u) : Keeps T s (modSession u x' f) := by
  unfold modSession
  repeat' first
    | with_reducible assumption
    | exact Sub.of rfl hT
    | with_reducible apply setMgmt_keeps

theorem dropSession_keeps {T : List Nat} {s u : State} {x' : Session}
    (hT : Sub [18] T) (h : Keeps T s u) : Keeps T s (dropSession u x') := by
  unfold dropSession
  repeat' first
    | with_reducible assumption
    | exact Sub.of rfl hT
    | with_reducible apply setMgmt_keeps

theorem finish_keeps {T : List Nat} {s u : State} {peer : ℕ} {number : ℕ} {seq : ℕ} {payload : List Byte}
    (hT : Sub [16, 18, 20, 0x6210, 0x7002] T) (h : Keeps T s u) : Keeps T s (finish u peer number seq payload) := by
  unfold finish
  repeat' first
    | with_reducible assumption
    | exact Sub.of rfl hT
    | with_reducible apply sendResponse_keeps
    | with_reducible apply modSession_keeps
    | with_reducible apply sessionEnded_keeps
    | with_reducible apply dropSession_keeps
    | with_reducible refine Keeps.ite ?_ ?_
    | (extract_lets +onlyGivenNames x; first | refine (fun hx => ?_ : Keeps _ _ x → _) ?_ | refine (fun hx => ?_ : KeepsP _ _ x → _) ?_ | skip)
    | with_reducible intro _
    | split

theorem relayDone_keeps {T : List Nat} {s u : State} {r : Forward} {payload : List Byte}
    (hT : Sub [16, 18, 20, 0x6210, 0x7002] T) (h : Keeps T s u) : Keeps T s (relayDone u r payload) := by
  unfold relayDone
  repeat' first
    | with_reducible assumption
    | exact Sub.of rfl hT
    | with_reducible apply finish_keeps
    | with_reducible refine Keeps.ite ?_ ?_
    | with_reducible intro _
    | split

theorem dropRelay_keeps {T : List Nat} {s u : State} {sseq : ℕ}
    (hT : Sub [18] T) (h : Keeps T s u) : Keeps T s (dropRelay u sseq) := by
  unfold dropRelay
  repeat' first
    | with_reducible assumption
    | exact Sub.of rfl hT
    | with_reducible apply setMgmt_keeps

theorem relayAnswer_keeps {T : List Nat} {s u : State} {sseq : ℕ} {payload : List Byte}
    (hT : Sub [16, 18, 20, 0x6210, 0x7002] T) (h : Keeps T s u) : Keeps T s (relayAnswer u sseq payload) := by
  unfold relayAnswer
  repeat' first
    | with_reducible assumption
    | exact Sub.of rfl hT
    | with_reducible apply relayDone_keeps
    | with_reducible apply dropRelay_keeps
    | with_reducible refine Keeps.ite ?_ ?_
    | with_reducible intro _
    | split

theorem relayBack_keeps {T : List Nat} {s u : State} {sseq : ℕ} {payload : List Byte}
    (hT : Sub [16, 18, 20, 0x6210, 0x7002] T) (h : Keeps T s u) : Keeps T s (relayBack u sseq payload) := by
  unfold relayBack
  repeat' first
    | with_reducible assumption
    | exact Sub.of rfl hT
    | with_reducible apply emit_keeps
    | with_reducible apply relayAnswer_keeps
    | with_reducible refine Keeps.ite ?_ ?_

theorem fwdDone_keeps {T : List Nat} {s u : State} {w : Forward} {payload : List Byte}
    (hT : Sub [12, 16, 18, 20, 0x6210, 0x7002] T) (h : Keeps T s u) : Keeps T s (fwdDone u w payload) := by
  unfold fwdDone
  repeat' first
    | with_reducible assumption
    | exact Sub.of rfl hT
    | with_reducible apply mboxDone_keeps
    | with_reducible apply finish_keeps
    | with_reducible apply relayBack_keeps
    | with_reducible refine Keeps.ite ?_ ?_
    | with_reducible intro _
    | split

theorem fwdNew_keeps {T : List Nat} {s u : State} {asker : Asker} {target : ℕ} {flags : ℕ} {role : ℕ} {ops : List Byte}
    (hT : Sub [6, 9, 12, 16, 18, 20, 0x4110, 0x4140, 0x6210, 0x7002] T) (h : Keeps T s u) : Keeps T s (fwdNew u asker target flags role ops) := by
  unfold fwdNew
  repeat' first
    | with_reducible assumption
    | exact Sub.of rfl hT
    | with_reducible apply fwdDone_keeps
    | with_reducible apply setMgmt_keeps
    | with_reducible apply fwdSend_keeps
    | with_reducible refine Keeps.ite ?_ ?_

theorem runHere_keeps {T : List Nat} {s u : State} {asker : Asker} {flags : ℕ} {role : ℕ} {payload : List Byte} {done : State → List Byte → State} (hdone : ∀ v x0, Keeps T s v → Keeps T s (done v x0))
    (hT : Sub [1, 2, 3, 4, 5, 6, 7, 8, 9, 10, 11, 12, 13, 14, 15, 16, 17, 18, 19, 20, 21, 31] T) (h : Keeps T s u) : Keeps T s (runHere u asker flags role payload done) := by
  unfold runHere
  repeat' first
    | with_reducible assumption
    | exact Sub.of rfl hT
    | with_reducible apply runRequest_keeps
    | with_reducible apply fwdNew_keeps
    | with_reducible apply hdone
    | with_reducible refine Keeps.ite ?_ ?_
    | with_reducible refine KeepsP.ite ?_ ?_
    | with_reducible apply KeepsP.fst

theorem relayRun_keeps {T : List Nat} {s u : State} {f : Frame}
    (hT : Sub [1, 2, 3, 4, 5, 6, 7, 8, 9, 10, 11, 12, 13, 14, 15, 16, 17, 18, 19, 20, 21, 31] T) (h : Keeps T s u) : Keeps T s (relayRun u f) := by
  unfold relayRun
  repeat' first
    | with_reducible assumption
    | exact Sub.of rfl hT
    | with_reducible apply runHere_keeps
    | with_reducible apply relayBack_keeps
    | with_reducible refine Keeps.ite ?_ ?_
    | exact Sub.reg _ hT rfl
    | with_reducible intro _

theorem relayTimeout_keeps {T : List Nat} {s u : State} {sseq : ℕ}
    (hT : Sub [16, 18, 20, 0x1102, 0x6210, 0x7002] T) (h : Keeps T s u) : Keeps T s (relayTimeout u sseq) := by
  unfold relayTimeout
  repeat' first
    | with_reducible assumption
    | exact Sub.of rfl hT
    | with_reducible apply relayDone_keeps
    | with_reducible apply record_keeps
    | with_reducible apply bumpSat_keeps
    | with_reducible apply dropRelay_keeps
    | with_reducible refine Keeps.ite ?_ ?_
    | with_reducible intro _
    | split

theorem execRelayTimeout_keeps {u : State} {sseq : ℕ} :
    OutKeeps [16, 18, 20, 0x1102, 0x6210, 0x7002] u (execRelayTimeout sseq u) := by
  have h := Keeps.refl [16, 18, 20, 0x1102, 0x6210, 0x7002] u
  have hT := Sub.rfl (a := [16, 18, 20, 0x1102, 0x6210, 0x7002])
  unfold execRelayTimeout
  repeat' first
    | with_reducible assumption
    | exact Sub.of rfl hT
    | with_reducible apply relayTimeout_keeps
    | with_reducible apply OutKeeps.next

theorem statusBroadcast_keeps {T : List Nat} {s u : State}
    (hT : Sub [20] T) (h : Keeps T s u) : Keeps T s (statusBroadcast u) := by
  unfold statusBroadcast
  repeat' first
    | with_reducible assumption
    | exact Sub.of rfl hT
    | with_reducible apply emit_keeps
    | with_reducible refine Keeps.ite ?_ ?_

theorem seqError_keeps {T : List Nat} {s u : State} {x' : Session} {f : Frame}
    (hT : Sub [16, 20, 0x1102, 0x6210, 0x7002] T) (h : Keeps T s u) : Keeps T s (seqError u x' f) := by
  unfold seqError
  repeat' first
    | with_reducible assumption
    | exact Sub.of rfl hT
    | with_reducible apply record_keeps
    | with_reducible apply bumpSat_keeps
    | with_reducible apply sendResponse_keeps

theorem openAck_keeps {T : List Nat} {s u : State} {f : Frame} {key : Option (List Byte)} {number : ℕ} {payload : List Byte}
    (hT : Sub [20, 0x6210] T) (h : Keeps T s u) : Keeps T s (openAck u f key number payload) := by
  unfold openAck
  repeat' first
    | with_reducible assumption
    | exact Sub.of rfl hT
    | with_reducible apply sendFrame_keeps

theorem refuseOpen_keeps {T : List Nat} {s u : State} {f : Frame} {key : Option (List Byte)}
    (hT : Sub [20, 0x6210] T) (h : Keeps T s u) : Keeps T s (refuseOpen u f key) := by
  unfold refuseOpen
  repeat' first
    | with_reducible assumption
    | exact Sub.of rfl hT
    | with_reducible apply openAck_keeps

theorem relayTake_keeps {T : List Nat} {s u : State} {f : Frame}
    (hT : Sub [1, 2, 3, 4, 5, 6, 7, 8, 9, 10, 11, 12, 13, 14, 15, 16, 17, 18, 19, 20, 21, 31] T) (h : Keeps T s u) : Keeps T s (relayTake u f) := by
  unfold relayTake
  repeat' first
    | with_reducible assumption
    | exact Sub.of rfl hT
    | with_reducible apply sseqRx_keeps
    | with_reducible apply relayRun_keeps
    | with_reducible refine Keeps.ite ?_ ?_
    | with_reducible refine KeepsP.ite ?_ ?_
    | with_reducible apply KeepsP.fst

theorem relayOut_keeps {T : List Nat} {s u : State} {x' : Session} {f : Frame}
    (hT : Sub [1, 2, 3, 4, 5, 6, 7, 8, 9, 10, 11, 12, 13, 14, 15, 16, 17, 18, 19, 20, 21, 31] T) (h : Keeps T s u) : Keeps T s (relayOut u x' f) := by
  unfold relayOut
  repeat' first
    | with_reducible assumption
    | exact Sub.of rfl hT
    | with_reducible apply sendFrame_keeps
    | with_reducible apply setMgmt_keeps
    | with_reducible apply relayTake_keeps
    | with_reducible refine Keeps.ite ?_ ?_

theorem vc0Request_keeps {T : List Nat} {s u : State} {h' : ClvHdr} {f : Frame}
    (hT : Sub [1, 2, 3, 4, 5, 6, 7, 8, 9, 10, 11, 12, 13, 14, 15, 16, 17, 18, 19, 20, 21, 31] T) (h : Keeps T s u) : Keeps T s (vc0Request u h' f) := by
  unfold vc0Request
  repeat' first
    | with_reducible assumption
    | exact Sub.of rfl hT
    | with_reducible apply runRequest_keeps
    | with_reducible apply mgmtEmit_keeps
    | with_reducible refine Keeps.ite ?_ ?_
    | with_reducible refine KeepsP.ite ?_ ?_
    | with_reducible apply KeepsP.fst
    | exact Sub.reg _ hT rfl
    | (extract_lets +onlyGivenNames x; first | refine (fun hx => ?_ : Keeps _ _ x → _) ?_ | refine (fun hx => ?_ : KeepsP _ _ x → _) ?_ | skip)
    | with_reducible intro _
    | split
    | with_reducible apply KeepsP.mk

theorem execVc0MgmtRequest_keeps {u : State} {h' : ClvHdr} {f : Frame} :
    OutKeeps [1, 2, 3, 4, 5, 6, 7, 8, 9, 10, 11, 12, 13, 14, 15, 16, 17, 18, 19, 20, 21, 31] u (execVc0MgmtRequest h' f u) := by
  have h := Keeps.refl [1, 2, 3, 4, 5, 6, 7, 8, 9, 10, 11, 12, 13, 14, 15, 16, 17, 18, 19, 20, 21, 31] u
  have hT := Sub.rfl (a := [1, 2, 3, 4, 5, 6, 7, 8, 9, 10, 11, 12, 13, 14, 15, 16, 17, 18, 19, 20, 21, 31])
  unfold execVc0MgmtRequest
  repeat' first
    | with_reducible assumption
    | exact Sub.of rfl hT
    | with_reducible apply clvRx_keeps
    | with_reducible apply vc0Request_keeps
    | with_reducible apply OutKeeps.next
    | with_reducible refine Keeps.ite ?_ ?_
    | exact Sub.reg _ hT rfl
    | with_reducible intro _

theorem fwdDrop_keeps {T : List Nat} {s u : State} {key : ℕ}
    (hT : Sub [6, 9, 16, 18, 20, 0x4110, 0x4140, 0x7002] T) (h : Keeps T s u) : Keeps T s (fwdDrop u key) := by
  unfold fwdDrop
  repeat' first
    | with_reducible assumption
    | exact Sub.of rfl hT
    | with_reducible apply setMgmt_keeps
    | with_reducible apply fwdSend_keeps
    | with_reducible refine Keeps.ite ?_ ?_
    | (extract_lets +onlyGivenNames x; first | refine (fun hx => ?_ : Keeps _ _ x → _) ?_ | refine (fun hx => ?_ : KeepsP _ _ x → _) ?_ | skip)
    | with_reducible intro _
    | split

theorem openAt_keeps {T : List Nat} {s u : State} {f : Frame} {key : List Byte} {peerNo : ℕ} {number : ℕ}
    (hT : Sub [14, 16, 18, 20, 0x1102, 0x6210, 0x7002] T) (h : Keeps T s u) : Keeps T s (openAt u f key peerNo number) := by
  unfold openAt
  repeat' first
    | with_reducible assumption
    | exact Sub.of rfl hT
    | with_reducible apply modRst_keeps
    | with_reducible apply setMgmt_keeps
    | with_reducible apply record_keeps
    | with_reducible apply bumpSat_keeps
    | with_reducible apply openAck_keeps

theorem openNew_keeps {T : List Nat} {s u : State} {f : Frame} {key : List Byte}
    (hT : Sub [14, 16, 18, 20, 0x1102, 0x6210, 0x7002] T) (h : Keeps T s u) : Keeps T s (openNew u f key) := by
  unfold openNew
  repeat' first
    | with_reducible assumption
    | exact Sub.of rfl hT
    | with_reducible apply openAck_keeps
    | with_reducible apply refuseOpen_keeps
    | with_reducible apply openAt_keeps
    | with_reducible apply sessionEnded_keeps
    | with_reducible apply dropSession_keeps
    | with_reducible refine Keeps.ite ?_ ?_
    | (extract_lets +onlyGivenNames x; first | refine (fun hx => ?_ : Keeps _ _ x → _) ?_ | refine (fun hx => ?_ : KeepsP _ _ x → _) ?_ | skip)
    | with_reducible intro _
    | split

theorem odapOpen_keeps {T : List Nat} {s u : State} {f : Frame}
    (hT : Sub [14, 16, 18, 20, 0x1102, 0x6210, 0x7002] T) (h : Keeps T s u) : Keeps T s (odapOpen u f) := by
  unfold odapOpen
  repeat' first
    | with_reducible assumption
    | exact Sub.of rfl hT
    | with_reducible apply rxDrop_keeps
    | with_reducible apply refuseOpen_keeps
    | with_reducible apply authFail_keeps
    | with_reducible apply openNew_keeps
    | with_reducible refine Keeps.ite ?_ ?_
    | with_reducible intro _
    | split

theorem execOdapOpen_keeps {u : State} {f : Frame} :
    OutKeeps [14, 16, 18, 20, 0x1102, 0x6210, 0x7002] u (execOdapOpen f u) := by
  have h := Keeps.refl [14, 16, 18, 20, 0x1102, 0x6210, 0x7002] u
  have hT := Sub.rfl (a := [14, 16, 18, 20, 0x1102, 0x6210, 0x7002])
  unfold execOdapOpen
  repeat' first
    | with_reducible assumption
    | exact Sub.of rfl hT
    | with_reducible apply odapOpen_keeps
    | with_reducible apply OutKeeps.next

theorem vc0Response_keeps {T : List Nat} {s u : State} {h' : ClvHdr} {f : Frame}
    (hT : Sub [6, 9, 12, 14, 16, 18, 20, 0x2021, 0x4110, 0x4140, 0x6210, 0x7002] T) (h : Keeps T s u) : Keeps T s (vc0Response u h' f) := by
  unfold vc0Response
  repeat' first
    | with_reducible assumption
    | exact Sub.of rfl hT
    | with_reducible apply fwdDone_keeps
    | with_reducible apply fwdDrop_keeps
    | with_reducible apply dropLate_keeps
    | with_reducible refine Keeps.ite ?_ ?_
    | with_reducible intro _
    | split

theorem execVc0MgmtResponse_keeps {u : State} {h' : ClvHdr} {f : Frame} :
    OutKeeps [6, 9, 12, 13, 14, 16, 18, 20, 0x2021, 0x4110, 0x4140, 0x6210, 0x7002] u (execVc0MgmtResponse h' f u) := by
  have h := Keeps.refl [6, 9, 12, 13, 14, 16, 18, 20, 0x2021, 0x4110, 0x4140, 0x6210, 0x7002] u
  have hT := Sub.rfl (a := [6, 9, 12, 13, 14, 16, 18, 20, 0x2021, 0x4110, 0x4140, 0x6210, 0x7002])
  unfold execVc0MgmtResponse
  repeat' first
    | with_reducible assumption
    | exact Sub.of rfl hT
    | with_reducible apply clvRx_keeps
    | with_reducible apply vc0Response_keeps
    | with_reducible apply OutKeeps.next
    | with_reducible refine Keeps.ite ?_ ?_
    | with_reducible intro _

theorem requestRun_keeps {T : List Nat} {s u : State} {x' : Session} {f : Frame}
    (hT : Sub [1, 2, 3, 4, 5, 6, 7, 8, 9, 10, 11, 12, 13, 14, 15, 16, 17, 18, 19, 20, 21, 31] T) (h : Keeps T s u) : Keeps T s (requestRun u x' f) := by
  unfold requestRun
  repeat' first
    | with_reducible assumption
    | exact Sub.of rfl hT
    | with_reducible apply modSession_keeps
    | with_reducible apply finish_keeps
    | with_reducible apply relayOut_keeps
    | with_reducible apply runHere_keeps
    | with_reducible refine Keeps.ite ?_ ?_
    | exact Sub.reg _ hT rfl
    | (extract_lets +onlyGivenNames x; first | refine (fun hx => ?_ : Keeps _ _ x → _) ?_ | refine (fun hx => ?_ : KeepsP _ _ x → _) ?_ | skip)
    | with_reducible intro _

theorem relayResp_keeps {T : List Nat} {s u : State} {f : Frame}
    (hT : Sub [16, 18, 20, 0x1102, 0x6210, 0x7002] T) (h : Keeps T s u) : Keeps T s (relayResp u f) := by
  unfold relayResp
  repeat' first
    | with_reducible assumption
    | exact Sub.of rfl hT
    | with_reducible apply rxDrop_keeps
    | with_reducible apply authFail_keeps
    | with_reducible apply relayAnswer_keeps
    | with_reducible refine Keeps.ite ?_ ?_

theorem execRelayResp_keeps {u : State} {f : Frame} :
    OutKeeps [16, 18, 20, 0x1102, 0x6210, 0x7002] u (execRelayResp f u) := by
  have h := Keeps.refl [16, 18, 20, 0x1102, 0x6210, 0x7002] u
  have hT := Sub.rfl (a := [16, 18, 20, 0x1102, 0x6210, 0x7002])
  unfold execRelayResp
  repeat' first
    | with_reducible assumption
    | exact Sub.of rfl hT
    | with_reducible apply relayResp_keeps
    | with_reducible apply OutKeeps.next

theorem relayReq_keeps {T : List Nat} {s u : State} {f : Frame}
    (hT : Sub [1, 2, 3, 4, 5, 6, 7, 8, 9, 10, 11, 12, 13, 14, 15, 16, 17, 18, 19, 20, 21, 31] T) (h : Keeps T s u) : Keeps T s (relayReq u f) := by
  unfold relayReq
  repeat' first
    | with_reducible assumption
    | exact Sub.of rfl hT
    | with_reducible apply rxDrop_keeps
    | with_reducible apply authFail_keeps
    | with_reducible apply relayTake_keeps
    | with_reducible refine Keeps.ite ?_ ?_

theorem execRelayReq_keeps {u : State} {f : Frame} :
    OutKeeps [1, 2, 3, 4, 5, 6, 7, 8, 9, 10, 11, 12, 13, 14, 15, 16, 17, 18, 19, 20, 21, 31] u (execRelayReq f u) := by
  have h := Keeps.refl [1, 2, 3, 4, 5, 6, 7, 8, 9, 10, 11, 12, 13, 14, 15, 16, 17, 18, 19, 20, 21, 31] u
  have hT := Sub.rfl (a := [1, 2, 3, 4, 5, 6, 7, 8, 9, 10, 11, 12, 13, 14, 15, 16, 17, 18, 19, 20, 21, 31])
  unfold execRelayReq
  repeat' first
    | with_reducible assumption
    | exact Sub.of rfl hT
    | with_reducible apply relayReq_keeps
    | with_reducible apply OutKeeps.next

theorem execStatusBroadcast_keeps {u : State} :
    OutKeeps [20] u (execStatusBroadcast u) := by
  have h := Keeps.refl [20] u
  have hT := Sub.rfl (a := [20])
  unfold execStatusBroadcast
  repeat' first
    | with_reducible assumption
    | exact Sub.of rfl hT
    | with_reducible apply statusBroadcast_keeps
    | with_reducible apply OutKeeps.next

theorem requestSeq_keeps {T : List Nat} {s u : State} {x' : Session} {f : Frame}
    (hT : Sub [1, 2, 3, 4, 5, 6, 7, 8, 9, 10, 11, 12, 13, 14, 15, 16, 17, 18, 19, 20, 21, 31] T) (h : Keeps T s u) : Keeps T s (requestSeq u x' f) := by
  unfold requestSeq
  repeat' first
    | with_reducible assumption
    | exact Sub.of rfl hT
    | with_reducible apply modSession_keeps
    | with_reducible apply sendResponse_keeps
    | with_reducible apply bumpSat_keeps
    | with_reducible apply seqError_keeps
    | with_reducible apply requestRun_keeps
    | with_reducible refine Keeps.ite ?_ ?_
    | exact Sub.reg _ hT rfl
    | (extract_lets +onlyGivenNames x; first | refine (fun hx => ?_ : Keeps _ _ x → _) ?_ | refine (fun hx => ?_ : KeepsP _ _ x → _) ?_ | skip)
    | with_reducible intro _
    | split

theorem sessionIdle_keeps {T : List Nat} {s u : State} {slot : ℕ}
    (hT : Sub [16, 18, 0x7002] T) (h : Keeps T s u) : Keeps T s (sessionIdle u slot) := by
  unfold sessionIdle
  repeat' first
    | with_reducible assumption
    | exact Sub.of rfl hT
    | with_reducible apply sessionEnded_keeps
    | with_reducible apply dropSession_keeps
    | with_reducible refine Keeps.ite ?_ ?_
    | with_reducible intro _
    | split

theorem execSessionIdleTimeout_keeps {u : State} {slot : ℕ} :
    OutKeeps [16, 18, 0x7002] u (execSessionIdleTimeout slot u) := by
  have h := Keeps.refl [16, 18, 0x7002] u
  have hT := Sub.rfl (a := [16, 18, 0x7002])
  unfold execSessionIdleTimeout
  repeat' first
    | with_reducible assumption
    | exact Sub.of rfl hT
    | with_reducible apply sessionIdle_keeps
    | with_reducible apply OutKeeps.next

theorem request_keeps {T : List Nat} {s u : State} {f : Frame}
    (hT : Sub [1, 2, 3, 4, 5, 6, 7, 8, 9, 10, 11, 12, 13, 14, 15, 16, 17, 18, 19, 20, 21, 31] T) (h : Keeps T s u) : Keeps T s (request u f) := by
  unfold request
  repeat' first
    | with_reducible assumption
    | exact Sub.of rfl hT
    | with_reducible apply rxDrop_keeps
    | with_reducible apply authFail_keeps
    | with_reducible apply requestSeq_keeps
    | with_reducible refine Keeps.ite ?_ ?_
    | exact Sub.reg _ hT rfl
    | with_reducible intro _
    | split

theorem probe_keeps {T : List Nat} {s u : State} {f : Frame}
    (hT : Sub [16, 20, 0x1102, 0x7002] T) (h : Keeps T s u) : Keeps T s (probe u f) := by
  unfold probe
  repeat' first
    | with_reducible assumption
    | exact Sub.of rfl hT
    | with_reducible apply rxDrop_keeps
    | with_reducible apply emit_keeps
    | with_reducible apply authFail_keeps
    | with_reducible refine Keeps.ite ?_ ?_

theorem odapClose_keeps {T : List Nat} {s u : State} {f : Frame}
    (hT : Sub [16, 18, 20, 0x1102, 0x6210, 0x7002] T) (h : Keeps T s u) : Keeps T s (odapClose u f) := by
  unfold odapClose
  repeat' first
    | with_reducible assumption
    | exact Sub.of rfl hT
    | with_reducible apply rxDrop_keeps
    | with_reducible apply authFail_keeps
    | with_reducible apply sendFrame_keeps
    | with_reducible apply sessionEnded_keeps
    | with_reducible apply dropSession_keeps
    | with_reducible refine Keeps.ite ?_ ?_
    | (extract_lets +onlyGivenNames x; first | refine (fun hx => ?_ : Keeps _ _ x → _) ?_ | refine (fun hx => ?_ : KeepsP _ _ x → _) ?_ | skip)
    | with_reducible intro _
    | split

theorem execOdapClose_keeps {u : State} {f : Frame} :
    OutKeeps [16, 18, 20, 0x1102, 0x6210, 0x7002] u (execOdapClose f u) := by
  have h := Keeps.refl [16, 18, 20, 0x1102, 0x6210, 0x7002] u
  have hT := Sub.rfl (a := [16, 18, 20, 0x1102, 0x6210, 0x7002])
  unfold execOdapClose
  repeat' first
    | with_reducible assumption
    | exact Sub.of rfl hT
    | with_reducible apply odapClose_keeps
    | with_reducible apply OutKeeps.next

theorem mboxRun_keeps {T : List Nat} {s u : State} {func : ℕ} {k : ℕ}
    (hT : Sub [1, 2, 3, 4, 5, 6, 7, 8, 9, 10, 11, 12, 13, 14, 15, 16, 17, 18, 19, 20, 21, 31] T) (h : Keeps T s u) : Keeps T s (mboxRun u func k) := by
  unfold mboxRun
  repeat' first
    | with_reducible assumption
    | exact Sub.of rfl hT
    | with_reducible apply modMbox_keeps
    | with_reducible apply runRequest_keeps
    | with_reducible apply mboxDone_keeps
    | with_reducible apply fwdNew_keeps
    | with_reducible refine Keeps.ite ?_ ?_
    | with_reducible refine KeepsP.ite ?_ ?_
    | with_reducible apply KeepsP.fst
    | exact Sub.reg _ hT rfl
    | (extract_lets +onlyGivenNames x; first | refine (fun hx => ?_ : Keeps _ _ x → _) ?_ | refine (fun hx => ?_ : KeepsP _ _ x → _) ?_ | skip)
    | with_reducible intro _
    | split
    | with_reducible apply KeepsP.mk

theorem mboxGo_keeps {T : List Nat} {s u : State} {func : ℕ} {box : ℕ}
    (hT : Sub [1, 2, 3, 4, 5, 6, 7, 8, 9, 10, 11, 12, 13, 14, 15, 16, 17, 18, 19, 20, 21, 31] T) (h : Keeps T s u) : Keeps T s (mboxGo u func box) := by
  unfold mboxGo
  repeat' first
    | with_reducible assumption
    | exact Sub.of rfl hT
    | with_reducible apply bumpSat_keeps
    | with_reducible apply mboxRun_keeps
    | with_reducible refine Keeps.ite ?_ ?_

theorem execMboxGo_keeps {u : State} {func : ℕ} {box : ℕ} :
    OutKeeps [1, 2, 3, 4, 5, 6, 7, 8, 9, 10, 11, 12, 13, 14, 15, 16, 17, 18, 19, 20, 21, 31] u (execMboxGo func box u) := by
  have h := Keeps.refl [1, 2, 3, 4, 5, 6, 7, 8, 9, 10, 11, 12, 13, 14, 15, 16, 17, 18, 19, 20, 21, 31] u
  have hT := Sub.rfl (a := [1, 2, 3, 4, 5, 6, 7, 8, 9, 10, 11, 12, 13, 14, 15, 16, 17, 18, 19, 20, 21, 31])
  unfold execMboxGo
  repeat' first
    | with_reducible assumption
    | exact Sub.of rfl hT
    | with_reducible apply mboxGo_keeps
    | with_reducible apply OutKeeps.next

theorem execProbe_keeps {u : State} {f : Frame} :
    OutKeeps [16, 20, 0x1102, 0x7002] u (execProbe f u) := by
  have h := Keeps.refl [16, 20, 0x1102, 0x7002] u
  have hT := Sub.rfl (a := [16, 20, 0x1102, 0x7002])
  unfold execProbe
  repeat' first
    | with_reducible assumption
    | exact Sub.of rfl hT
    | with_reducible apply probe_keeps
    | with_reducible apply OutKeeps.next

theorem vc0Timeout_keeps {T : List Nat} {s u : State} {seq : ℕ}
    (hT : Sub [6, 9, 12, 16, 18, 20, 0x1102, 0x4110, 0x4140, 0x6210, 0x7002] T) (h : Keeps T s u) : Keeps T s (vc0Timeout u seq) := by
  unfold vc0Timeout
  repeat' first
    | with_reducible assumption
    | exact Sub.of rfl hT
    | with_reducible apply fwdDone_keeps
    | with_reducible apply record_keeps
    | with_reducible apply bumpSat_keeps
    | with_reducible apply fwdDrop_keeps
    | with_reducible refine Keeps.ite ?_ ?_
    | with_reducible intro _
    | split

theorem execVc0MgmtTimeout_keeps {u : State} {seq : ℕ} :
    OutKeeps [6, 9, 12, 16, 18, 20, 0x1102, 0x4110, 0x4140, 0x6210, 0x7002] u (execVc0MgmtTimeout seq u) := by
  have h := Keeps.refl [6, 9, 12, 16, 18, 20, 0x1102, 0x4110, 0x4140, 0x6210, 0x7002] u
  have hT := Sub.rfl (a := [6, 9, 12, 16, 18, 20, 0x1102, 0x4110, 0x4140, 0x6210, 0x7002])
  unfold execVc0MgmtTimeout
  repeat' first
    | with_reducible assumption
    | exact Sub.of rfl hT
    | with_reducible apply vc0Timeout_keeps
    | with_reducible apply OutKeeps.next

theorem execRequest_keeps {u : State} {f : Frame} :
    OutKeeps [1, 2, 3, 4, 5, 6, 7, 8, 9, 10, 11, 12, 13, 14, 15, 16, 17, 18, 19, 20, 21, 31] u (execRequest f u) := by
  have h := Keeps.refl [1, 2, 3, 4, 5, 6, 7, 8, 9, 10, 11, 12, 13, 14, 15, 16, 17, 18, 19, 20, 21, 31] u
  have hT := Sub.rfl (a := [1, 2, 3, 4, 5, 6, 7, 8, 9, 10, 11, 12, 13, 14, 15, 16, 17, 18, 19, 20, 21, 31])
  unfold execRequest
  repeat' first
    | with_reducible assumption
    | exact Sub.of rfl hT
    | with_reducible apply request_keeps
    | with_reducible apply OutKeeps.next

end Sys2Proof.Machine
end

