-- ==== Sys2Proof/Laws/KeepsVector.lean ====
section
/-! SUPPORT. What the functions of `Machine/Vector.lean` keep. -/

namespace Sys2Proof.Machine

open Sys2Proof

theorem putElem_keeps {T : List Nat} {s u : State} {b : ℕ} {c : ℕ} {o : ℕ} {v : ℕ} {bad : Bool}
    (hT : Sub [2, 3, 6, 16, 0x3021, 0x6101, 0x6102, 0x7002] T) (h : Keeps T s u) : Keeps T s (putElem u b c o v bad) := by
  unfold putElem
  repeat' first
    | with_reducible assumption
    | exact Sub.of rfl hT
    | with_reducible apply planWrite_keeps

theorem vecSlot_keeps {T : List Nat} {s u : State} {i : Issue} {f : State → State} (hf : ∀ v, Keeps T s v → Keeps T s (f v))
    (hT : Sub [5, 6, 9, 13, 16, 20, 0x3020, 0x3021, 0x4110, 0x4140, 0x6202, 0x7002, 0x9000, 0x9001] T) (h : Keeps T s u) : Keeps T s (vecSlot u i f) := by
  unfold vecSlot
  repeat' first
    | with_reducible assumption
    | exact Sub.of rfl hT
    | with_reducible apply issueSlot_keeps

theorem setVreg_keeps {T : List Nat} {s u : State} {b : ℕ} {r : ℕ} {lanes : List Word} {bad : List ℕ}
    (hT : Sub [5] T) (h : Keeps T s u) : Keeps T s (setVreg u b r lanes bad) := by
  unfold setVreg
  repeat' first
    | with_reducible assumption
    | exact Sub.of rfl hT
    | with_reducible apply modBlock_keeps

theorem vecLanes2_keeps {T : List Nat} {s u : State} {i : Issue} {w : VecSlot} {f : Word → Word → Word → Lane}
    (hT : Sub [5, 6, 9, 13, 16, 20, 0x3020, 0x3021, 0x3040, 0x4110, 0x4140, 0x6202, 0x7002, 0x9000, 0x9001] T) (h : Keeps T s u) : Keeps T s (vecLanes2 u i w f) := by
  unfold vecLanes2
  repeat' first
    | with_reducible assumption
    | exact Sub.of rfl hT
    | with_reducible apply vecSlot_keeps
    | with_reducible apply countArith_keeps
    | with_reducible apply setVreg_keeps
    | with_reducible refine Keeps.ite ?_ ?_
    | (extract_lets +onlyGivenNames x; first | refine (fun hx => ?_ : Keeps _ _ x → _) ?_ | refine (fun hx => ?_ : KeepsP _ _ x → _) ?_ | skip)
    | with_reducible intro _

theorem execSub_keeps {u : State} {i : Issue} {w : VecSlot} :
    OutKeeps [5, 6, 9, 13, 16, 20, 0x3020, 0x3021, 0x3040, 0x4110, 0x4140, 0x6202, 0x7002, 0x9000, 0x9001] u (execSub i w u) := by
  have h := Keeps.refl [5, 6, 9, 13, 16, 20, 0x3020, 0x3021, 0x3040, 0x4110, 0x4140, 0x6202, 0x7002, 0x9000, 0x9001] u
  have hT := Sub.rfl (a := [5, 6, 9, 13, 16, 20, 0x3020, 0x3021, 0x3040, 0x4110, 0x4140, 0x6202, 0x7002, 0x9000, 0x9001])
  unfold execSub
  repeat' first
    | with_reducible assumption
    | exact Sub.of rfl hT
    | with_reducible apply vecLanes2_keeps
    | with_reducible apply OutKeeps.next

theorem execImul_keeps {u : State} {i : Issue} {w : VecSlot} :
    OutKeeps [5, 6, 9, 13, 16, 20, 0x3020, 0x3021, 0x3040, 0x4110, 0x4140, 0x6202, 0x7002, 0x9000, 0x9001] u (execImul i w u) := by
  have h := Keeps.refl [5, 6, 9, 13, 16, 20, 0x3020, 0x3021, 0x3040, 0x4110, 0x4140, 0x6202, 0x7002, 0x9000, 0x9001] u
  have hT := Sub.rfl (a := [5, 6, 9, 13, 16, 20, 0x3020, 0x3021, 0x3040, 0x4110, 0x4140, 0x6202, 0x7002, 0x9000, 0x9001])
  unfold execImul
  repeat' first
    | with_reducible assumption
    | exact Sub.of rfl hT
    | with_reducible apply vecLanes2_keeps
    | with_reducible apply OutKeeps.next

theorem vecTraced_keeps {T : List Nat} {s u : State} {i : Issue} {w : VecSlot} {f : State → State} (hf : ∀ v, Keeps T s v → Keeps T s (f v))
    (hT : Sub [5, 6, 9, 13, 16, 20, 0x3020, 0x3021, 0x4110, 0x4140, 0x6202, 0x7002, 0x8200, 0x9000, 0x9001] T) (h : Keeps T s u) : Keeps T s (vecTraced u i w f) := by
  unfold vecTraced
  repeat' first
    | with_reducible assumption
    | exact Sub.of rfl hT
    | with_reducible apply vecSlot_keeps
    | with_reducible apply traced_keeps
    | with_reducible apply hf
    | with_reducible refine Keeps.ite ?_ ?_
    | with_reducible intro _

theorem outsideLanes_keeps {T : List Nat} {s u : State} {b : ℕ} {n : ℕ}
    (hT : Sub [6, 0x3040] T) (h : Keeps T s u) : Keeps T s (outsideLanes u b n) := by
  unfold outsideLanes
  repeat' first
    | with_reducible assumption
    | exact Sub.of rfl hT
    | with_reducible apply doNotSeal_keeps
    | with_reducible apply countArith_keeps
    | with_reducible refine Keeps.ite ?_ ?_

theorem execVecNop_keeps {u : State} {i : Issue} {_w : VecSlot} :
    OutKeeps [5, 6, 9, 13, 16, 20, 0x3020, 0x3021, 0x4110, 0x4140, 0x6202, 0x7002, 0x9000, 0x9001] u (execVecNop i _w u) := by
  have h := Keeps.refl [5, 6, 9, 13, 16, 20, 0x3020, 0x3021, 0x4110, 0x4140, 0x6202, 0x7002, 0x9000, 0x9001] u
  have hT := Sub.rfl (a := [5, 6, 9, 13, 16, 20, 0x3020, 0x3021, 0x4110, 0x4140, 0x6202, 0x7002, 0x9000, 0x9001])
  unfold execVecNop
  repeat' first
    | with_reducible assumption
    | exact Sub.of rfl hT
    | with_reducible apply vecSlot_keeps
    | with_reducible apply OutKeeps.next
    | with_reducible refine Keeps.ite ?_ ?_
    | with_reducible intro _

theorem gather_keeps {T : List Nat} {s u : State} {i : Issue} {w : VecSlot} {ecc : List EccHit}
    (hT : Sub [5, 6, 8, 9, 13, 16, 20, 0x3040, 0x3410, 0x3411, 0x4110, 0x4140, 0x6202, 0x7002, 0x9000, 0x9001, 0x9010] T) (h : Keeps T s u) : Keeps T s (gather u i w ecc) := by
  unfold gather
  repeat' first
    | with_reducible assumption
    | exact Sub.of rfl hT
    | with_reducible apply each_keeps
    | with_reducible apply eccHit_keeps
    | with_reducible apply poisonReads_keeps
    | with_reducible apply outsideLanes_keeps
    | with_reducible apply setVreg_keeps
    | with_reducible refine Keeps.ite ?_ ?_
    | (extract_lets +onlyGivenNames x; first | refine (fun hx => ?_ : Keeps _ _ x → _) ?_ | refine (fun hx => ?_ : KeepsP _ _ x → _) ?_ | skip)
    | with_reducible intro _

theorem vecReduce_keeps {T : List Nat} {s u : State} {i : Issue} {w : VecSlot} {f : List Word → Word} {sumNan : Bool}
    (hT : Sub [5, 6, 9, 13, 16, 20, 0x3020, 0x3021, 0x3040, 0x4110, 0x4140, 0x6202, 0x7002, 0x9000, 0x9001] T) (h : Keeps T s u) : Keeps T s (vecReduce u i w f sumNan) := by
  unfold vecReduce
  repeat' first
    | with_reducible assumption
    | exact Sub.of rfl hT
    | with_reducible apply vecSlot_keeps
    | with_reducible apply countArith_keeps
    | with_reducible apply setVreg_keeps
    | with_reducible refine Keeps.ite ?_ ?_
    | (extract_lets +onlyGivenNames x; first | refine (fun hx => ?_ : Keeps _ _ x → _) ?_ | refine (fun hx => ?_ : KeepsP _ _ x → _) ?_ | skip)
    | with_reducible intro _

theorem execArgmax_keeps {u : State} {i : Issue} {w : VecSlot} :
    OutKeeps [5, 6, 9, 13, 16, 20, 0x3020, 0x3021, 0x3040, 0x4110, 0x4140, 0x6202, 0x7002, 0x9000, 0x9001] u (execArgmax i w u) := by
  have h := Keeps.refl [5, 6, 9, 13, 16, 20, 0x3020, 0x3021, 0x3040, 0x4110, 0x4140, 0x6202, 0x7002, 0x9000, 0x9001] u
  have hT := Sub.rfl (a := [5, 6, 9, 13, 16, 20, 0x3020, 0x3021, 0x3040, 0x4110, 0x4140, 0x6202, 0x7002, 0x9000, 0x9001])
  unfold execArgmax
  repeat' first
    | with_reducible assumption
    | exact Sub.of rfl hT
    | with_reducible apply vecReduce_keeps
    | with_reducible apply OutKeeps.next

theorem vecLanes_keeps {T : List Nat} {s u : State} {i : Issue} {w : VecSlot} {f : Word → Word → Word → Lane}
    (hT : Sub [5, 6, 9, 13, 16, 20, 0x3020, 0x3021, 0x3040, 0x4110, 0x4140, 0x6202, 0x7002, 0x9000, 0x9001] T) (h : Keeps T s u) : Keeps T s (vecLanes u i w f) := by
  unfold vecLanes
  repeat' first
    | with_reducible assumption
    | exact Sub.of rfl hT
    | with_reducible apply vecSlot_keeps
    | with_reducible apply countArith_keeps
    | with_reducible apply setVreg_keeps
    | with_reducible refine Keeps.ite ?_ ?_
    | (extract_lets +onlyGivenNames x; first | refine (fun hx => ?_ : Keeps _ _ x → _) ?_ | refine (fun hx => ?_ : KeepsP _ _ x → _) ?_ | skip)
    | with_reducible intro _

theorem execFma_keeps {u : State} {i : Issue} {w : VecSlot} :
    OutKeeps [5, 6, 9, 13, 16, 20, 0x3020, 0x3021, 0x3040, 0x4110, 0x4140, 0x6202, 0x7002, 0x9000, 0x9001] u (execFma i w u) := by
  have h := Keeps.refl [5, 6, 9, 13, 16, 20, 0x3020, 0x3021, 0x3040, 0x4110, 0x4140, 0x6202, 0x7002, 0x9000, 0x9001] u
  have hT := Sub.rfl (a := [5, 6, 9, 13, 16, 20, 0x3020, 0x3021, 0x3040, 0x4110, 0x4140, 0x6202, 0x7002, 0x9000, 0x9001])
  unfold execFma
  repeat' first
    | with_reducible assumption
    | exact Sub.of rfl hT
    | with_reducible apply vecLanes_keeps
    | with_reducible apply OutKeeps.next

theorem cvt_keeps {T : List Nat} {s u : State} {i : Issue} {w : VecSlot}
    (hT : Sub [5, 6, 8, 9, 13, 16, 20, 21, 0x3040, 0x3410, 0x3411, 0x4110, 0x4140, 0x6202, 0x7002, 0x9000, 0x9001, 0x9010] T) (h : Keeps T s u) : Keeps T s (cvt u i w) := by
  unfold cvt
  repeat' first
    | with_reducible assumption
    | exact Sub.of rfl hT
    | with_reducible apply readDesc_keeps
    | with_reducible apply tick_keeps
    | with_reducible apply countArith_keeps
    | with_reducible apply setVreg_keeps
    | with_reducible refine Keeps.ite ?_ ?_
    | with_reducible refine KeepsP.ite ?_ ?_
    | with_reducible apply KeepsP.fst

theorem vecLanes1_keeps {T : List Nat} {s u : State} {i : Issue} {w : VecSlot} {f : Word → Word → Word → Lane}
    (hT : Sub [5, 6, 9, 13, 16, 20, 0x3020, 0x3021, 0x3040, 0x4110, 0x4140, 0x6202, 0x7002, 0x9000, 0x9001] T) (h : Keeps T s u) : Keeps T s (vecLanes1 u i w f) := by
  unfold vecLanes1
  repeat' first
    | with_reducible assumption
    | exact Sub.of rfl hT
    | with_reducible apply vecSlot_keeps
    | with_reducible apply countArith_keeps
    | with_reducible apply setVreg_keeps
    | with_reducible refine Keeps.ite ?_ ?_
    | (extract_lets +onlyGivenNames x; first | refine (fun hx => ?_ : Keeps _ _ x → _) ?_ | refine (fun hx => ?_ : KeepsP _ _ x → _) ?_ | skip)
    | with_reducible intro _

theorem execExp_keeps {u : State} {i : Issue} {w : VecSlot} :
    OutKeeps [5, 6, 9, 13, 16, 20, 0x3020, 0x3021, 0x3040, 0x4110, 0x4140, 0x6202, 0x7002, 0x9000, 0x9001] u (execExp i w u) := by
  have h := Keeps.refl [5, 6, 9, 13, 16, 20, 0x3020, 0x3021, 0x3040, 0x4110, 0x4140, 0x6202, 0x7002, 0x9000, 0x9001] u
  have hT := Sub.rfl (a := [5, 6, 9, 13, 16, 20, 0x3020, 0x3021, 0x3040, 0x4110, 0x4140, 0x6202, 0x7002, 0x9000, 0x9001])
  unfold execExp
  repeat' first
    | with_reducible assumption
    | exact Sub.of rfl hT
    | with_reducible apply vecLanes1_keeps
    | with_reducible apply OutKeeps.next

theorem scatter_keeps {T : List Nat} {s u : State} {i : Issue} {w : VecSlot}
    (hT : Sub [2, 3, 6, 16, 0x3021, 0x3040, 0x6101, 0x6102, 0x7002] T) (h : Keeps T s u) : Keeps T s (scatter u i w) := by
  unfold scatter
  repeat' first
    | with_reducible assumption
    | exact Sub.of rfl hT
    | with_reducible apply each_keeps
    | with_reducible apply countArith_keeps
    | with_reducible apply putElem_keeps
    | with_reducible apply outsideLanes_keeps
    | with_reducible refine Keeps.ite ?_ ?_
    | (extract_lets +onlyGivenNames x; first | refine (fun hx => ?_ : Keeps _ _ x → _) ?_ | refine (fun hx => ?_ : KeepsP _ _ x → _) ?_ | skip)
    | with_reducible intro _
    | split

theorem execScatter_keeps {u : State} {i : Issue} {w : VecSlot} :
    OutKeeps [2, 3, 5, 6, 9, 13, 16, 20, 0x3020, 0x3021, 0x3040, 0x4110, 0x4140, 0x6101, 0x6102, 0x6202, 0x7002, 0x8200, 0x9000, 0x9001] u (execScatter i w u) := by
  have h := Keeps.refl [2, 3, 5, 6, 9, 13, 16, 20, 0x3020, 0x3021, 0x3040, 0x4110, 0x4140, 0x6101, 0x6102, 0x6202, 0x7002, 0x8200, 0x9000, 0x9001] u
  have hT := Sub.rfl (a := [2, 3, 5, 6, 9, 13, 16, 20, 0x3020, 0x3021, 0x3040, 0x4110, 0x4140, 0x6101, 0x6102, 0x6202, 0x7002, 0x8200, 0x9000, 0x9001])
  unfold execScatter
  repeat' first
    | with_reducible assumption
    | exact Sub.of rfl hT
    | with_reducible apply vecTraced_keeps
    | with_reducible apply scatter_keeps
    | with_reducible apply OutKeeps.next
    | with_reducible refine Keeps.ite ?_ ?_
    | with_reducible intro _

theorem execXor_keeps {u : State} {i : Issue} {w : VecSlot} :
    OutKeeps [5, 6, 9, 13, 16, 20, 0x3020, 0x3021, 0x3040, 0x4110, 0x4140, 0x6202, 0x7002, 0x9000, 0x9001] u (execXor i w u) := by
  have h := Keeps.refl [5, 6, 9, 13, 16, 20, 0x3020, 0x3021, 0x3040, 0x4110, 0x4140, 0x6202, 0x7002, 0x9000, 0x9001] u
  have hT := Sub.rfl (a := [5, 6, 9, 13, 16, 20, 0x3020, 0x3021, 0x3040, 0x4110, 0x4140, 0x6202, 0x7002, 0x9000, 0x9001])
  unfold execXor
  repeat' first
    | with_reducible assumption
    | exact Sub.of rfl hT
    | with_reducible apply vecLanes2_keeps
    | with_reducible apply OutKeeps.next

theorem execOr_keeps {u : State} {i : Issue} {w : VecSlot} :
    OutKeeps [5, 6, 9, 13, 16, 20, 0x3020, 0x3021, 0x3040, 0x4110, 0x4140, 0x6202, 0x7002, 0x9000, 0x9001] u (execOr i w u) := by
  have h := Keeps.refl [5, 6, 9, 13, 16, 20, 0x3020, 0x3021, 0x3040, 0x4110, 0x4140, 0x6202, 0x7002, 0x9000, 0x9001] u
  have hT := Sub.rfl (a := [5, 6, 9, 13, 16, 20, 0x3020, 0x3021, 0x3040, 0x4110, 0x4140, 0x6202, 0x7002, 0x9000, 0x9001])
  unfold execOr
  repeat' first
    | with_reducible assumption
    | exact Sub.of rfl hT
    | with_reducible apply vecLanes2_keeps
    | with_reducible apply OutKeeps.next

theorem execShl_keeps {u : State} {i : Issue} {w : VecSlot} :
    OutKeeps [5, 6, 9, 13, 16, 20, 0x3020, 0x3021, 0x3040, 0x4110, 0x4140, 0x6202, 0x7002, 0x9000, 0x9001] u (execShl i w u) := by
  have h := Keeps.refl [5, 6, 9, 13, 16, 20, 0x3020, 0x3021, 0x3040, 0x4110, 0x4140, 0x6202, 0x7002, 0x9000, 0x9001] u
  have hT := Sub.rfl (a := [5, 6, 9, 13, 16, 20, 0x3020, 0x3021, 0x3040, 0x4110, 0x4140, 0x6202, 0x7002, 0x9000, 0x9001])
  unfold execShl
  repeat' first
    | with_reducible assumption
    | exact Sub.of rfl hT
    | with_reducible apply vecLanes2_keeps
    | with_reducible apply OutKeeps.next

theorem execArgmin_keeps {u : State} {i : Issue} {w : VecSlot} :
    OutKeeps [5, 6, 9, 13, 16, 20, 0x3020, 0x3021, 0x3040, 0x4110, 0x4140, 0x6202, 0x7002, 0x9000, 0x9001] u (execArgmin i w u) := by
  have h := Keeps.refl [5, 6, 9, 13, 16, 20, 0x3020, 0x3021, 0x3040, 0x4110, 0x4140, 0x6202, 0x7002, 0x9000, 0x9001] u
  have hT := Sub.rfl (a := [5, 6, 9, 13, 16, 20, 0x3020, 0x3021, 0x3040, 0x4110, 0x4140, 0x6202, 0x7002, 0x9000, 0x9001])
  unfold execArgmin
  repeat' first
    | with_reducible assumption
    | exact Sub.of rfl hT
    | with_reducible apply vecReduce_keeps
    | with_reducible apply OutKeeps.next

theorem execSin_keeps {u : State} {i : Issue} {w : VecSlot} :
    OutKeeps [5, 6, 9, 13, 16, 20, 0x3020, 0x3021, 0x3040, 0x4110, 0x4140, 0x6202, 0x7002, 0x9000, 0x9001] u (execSin i w u) := by
  have h := Keeps.refl [5, 6, 9, 13, 16, 20, 0x3020, 0x3021, 0x3040, 0x4110, 0x4140, 0x6202, 0x7002, 0x9000, 0x9001] u
  have hT := Sub.rfl (a := [5, 6, 9, 13, 16, 20, 0x3020, 0x3021, 0x3040, 0x4110, 0x4140, 0x6202, 0x7002, 0x9000, 0x9001])
  unfold execSin
  repeat' first
    | with_reducible assumption
    | exact Sub.of rfl hT
    | with_reducible apply vecLanes1_keeps
    | with_reducible apply OutKeeps.next

theorem vld_keeps {T : List Nat} {s u : State} {i : Issue} {w : VecSlot} {ecc : List EccHit}
    (hT : Sub [5, 6, 8, 9, 13, 16, 20, 0x3410, 0x3411, 0x4110, 0x4140, 0x6202, 0x7002, 0x9000, 0x9001, 0x9010] T) (h : Keeps T s u) : Keeps T s (vld u i w ecc) := by
  unfold vld
  repeat' first
    | with_reducible assumption
    | exact Sub.of rfl hT
    | with_reducible apply readLines_keeps
    | with_reducible apply readDesc_keeps
    | with_reducible apply planRead_keeps
    | with_reducible apply setVreg_keeps
    | with_reducible refine Keeps.ite ?_ ?_
    | with_reducible refine KeepsP.ite ?_ ?_
    | with_reducible apply KeepsP.fst

theorem execVld_keeps {u : State} {i : Issue} {w : VecSlot} {ecc : List EccHit} :
    OutKeeps [5, 6, 8, 9, 13, 16, 20, 0x3020, 0x3021, 0x3410, 0x3411, 0x4110, 0x4140, 0x6202, 0x7002, 0x8200, 0x9000, 0x9001, 0x9010] u (execVld i w ecc u) := by
  have h := Keeps.refl [5, 6, 8, 9, 13, 16, 20, 0x3020, 0x3021, 0x3410, 0x3411, 0x4110, 0x4140, 0x6202, 0x7002, 0x8200, 0x9000, 0x9001, 0x9010] u
  have hT := Sub.rfl (a := [5, 6, 8, 9, 13, 16, 20, 0x3020, 0x3021, 0x3410, 0x3411, 0x4110, 0x4140, 0x6202, 0x7002, 0x8200, 0x9000, 0x9001, 0x9010])
  unfold execVld
  repeat' first
    | with_reducible assumption
    | exact Sub.of rfl hT
    | with_reducible apply vecTraced_keeps
    | with_reducible apply vld_keeps
    | with_reducible apply OutKeeps.next
    | with_reducible refine Keeps.ite ?_ ?_
    | with_reducible intro _

theorem storeScales_keeps {T : List Nat} {s u : State} {b : ℕ} {a : ℕ} {sc : List Byte} {bad : ℕ → Bool}
    (hT : Sub [2, 3, 6, 16, 0x3021, 0x6101, 0x6102, 0x7002] T) (h : Keeps T s u) : Keeps T s (storeScales u b a sc bad) := by
  unfold storeScales
  repeat' first
    | with_reducible assumption
    | exact Sub.of rfl hT
    | with_reducible apply each_keeps
    | with_reducible apply planStore_keeps
    | with_reducible refine Keeps.ite ?_ ?_
    | with_reducible intro _

theorem execCopysign_keeps {u : State} {i : Issue} {w : VecSlot} :
    OutKeeps [5, 6, 9, 13, 16, 20, 0x3020, 0x3021, 0x3040, 0x4110, 0x4140, 0x6202, 0x7002, 0x9000, 0x9001] u (execCopysign i w u) := by
  have h := Keeps.refl [5, 6, 9, 13, 16, 20, 0x3020, 0x3021, 0x3040, 0x4110, 0x4140, 0x6202, 0x7002, 0x9000, 0x9001] u
  have hT := Sub.rfl (a := [5, 6, 9, 13, 16, 20, 0x3020, 0x3021, 0x3040, 0x4110, 0x4140, 0x6202, 0x7002, 0x9000, 0x9001])
  unfold execCopysign
  repeat' first
    | with_reducible assumption
    | exact Sub.of rfl hT
    | with_reducible apply vecLanes2_keeps
    | with_reducible apply OutKeeps.next

theorem execMax_keeps {u : State} {i : Issue} {w : VecSlot} :
    OutKeeps [5, 6, 9, 13, 16, 20, 0x3020, 0x3021, 0x3040, 0x4110, 0x4140, 0x6202, 0x7002, 0x9000, 0x9001] u (execMax i w u) := by
  have h := Keeps.refl [5, 6, 9, 13, 16, 20, 0x3020, 0x3021, 0x3040, 0x4110, 0x4140, 0x6202, 0x7002, 0x9000, 0x9001] u
  have hT := Sub.rfl (a := [5, 6, 9, 13, 16, 20, 0x3020, 0x3021, 0x3040, 0x4110, 0x4140, 0x6202, 0x7002, 0x9000, 0x9001])
  unfold execMax
  repeat' first
    | with_reducible assumption
    | exact Sub.of rfl hT
    | with_reducible apply vecLanes2_keeps
    | with_reducible apply OutKeeps.next

theorem execErf_keeps {u : State} {i : Issue} {w : VecSlot} :
    OutKeeps [5, 6, 9, 13, 16, 20, 0x3020, 0x3021, 0x3040, 0x4110, 0x4140, 0x6202, 0x7002, 0x9000, 0x9001] u (execErf i w u) := by
  have h := Keeps.refl [5, 6, 9, 13, 16, 20, 0x3020, 0x3021, 0x3040, 0x4110, 0x4140, 0x6202, 0x7002, 0x9000, 0x9001] u
  have hT := Sub.rfl (a := [5, 6, 9, 13, 16, 20, 0x3020, 0x3021, 0x3040, 0x4110, 0x4140, 0x6202, 0x7002, 0x9000, 0x9001])
  unfold execErf
  repeat' first
    | with_reducible assumption
    | exact Sub.of rfl hT
    | with_reducible apply vecLanes1_keeps
    | with_reducible apply OutKeeps.next

theorem execAbs_keeps {u : State} {i : Issue} {w : VecSlot} :
    OutKeeps [5, 6, 9, 13, 16, 20, 0x3020, 0x3021, 0x3040, 0x4110, 0x4140, 0x6202, 0x7002, 0x9000, 0x9001] u (execAbs i w u) := by
  have h := Keeps.refl [5, 6, 9, 13, 16, 20, 0x3020, 0x3021, 0x3040, 0x4110, 0x4140, 0x6202, 0x7002, 0x9000, 0x9001] u
  have hT := Sub.rfl (a := [5, 6, 9, 13, 16, 20, 0x3020, 0x3021, 0x3040, 0x4110, 0x4140, 0x6202, 0x7002, 0x9000, 0x9001])
  unfold execAbs
  repeat' first
    | with_reducible assumption
    | exact Sub.of rfl hT
    | with_reducible apply vecLanes1_keeps
    | with_reducible apply OutKeeps.next

theorem execSel_keeps {u : State} {i : Issue} {w : VecSlot} :
    OutKeeps [5, 6, 9, 13, 16, 20, 0x3020, 0x3021, 0x3040, 0x4110, 0x4140, 0x6202, 0x7002, 0x9000, 0x9001] u (execSel i w u) := by
  have h := Keeps.refl [5, 6, 9, 13, 16, 20, 0x3020, 0x3021, 0x3040, 0x4110, 0x4140, 0x6202, 0x7002, 0x9000, 0x9001] u
  have hT := Sub.rfl (a := [5, 6, 9, 13, 16, 20, 0x3020, 0x3021, 0x3040, 0x4110, 0x4140, 0x6202, 0x7002, 0x9000, 0x9001])
  unfold execSel
  repeat' first
    | with_reducible assumption
    | exact Sub.of rfl hT
    | with_reducible apply vecLanes_keeps
    | with_reducible apply OutKeeps.next

theorem execSqrt_keeps {u : State} {i : Issue} {w : VecSlot} :
    OutKeeps [5, 6, 9, 13, 16, 20, 0x3020, 0x3021, 0x3040, 0x4110, 0x4140, 0x6202, 0x7002, 0x9000, 0x9001] u (execSqrt i w u) := by
  have h := Keeps.refl [5, 6, 9, 13, 16, 20, 0x3020, 0x3021, 0x3040, 0x4110, 0x4140, 0x6202, 0x7002, 0x9000, 0x9001] u
  have hT := Sub.rfl (a := [5, 6, 9, 13, 16, 20, 0x3020, 0x3021, 0x3040, 0x4110, 0x4140, 0x6202, 0x7002, 0x9000, 0x9001])
  unfold execSqrt
  repeat' first
    | with_reducible assumption
    | exact Sub.of rfl hT
    | with_reducible apply vecLanes1_keeps
    | with_reducible apply OutKeeps.next

theorem execBcast_keeps {u : State} {i : Issue} {w : VecSlot} :
    OutKeeps [5, 6, 9, 13, 16, 20, 0x3020, 0x3021, 0x4110, 0x4140, 0x6202, 0x7002, 0x9000, 0x9001] u (execBcast i w u) := by
  have h := Keeps.refl [5, 6, 9, 13, 16, 20, 0x3020, 0x3021, 0x4110, 0x4140, 0x6202, 0x7002, 0x9000, 0x9001] u
  have hT := Sub.rfl (a := [5, 6, 9, 13, 16, 20, 0x3020, 0x3021, 0x4110, 0x4140, 0x6202, 0x7002, 0x9000, 0x9001])
  unfold execBcast
  repeat' first
    | with_reducible assumption
    | exact Sub.of rfl hT
    | with_reducible apply vecSlot_keeps
    | with_reducible apply setVreg_keeps
    | with_reducible apply OutKeeps.next
    | with_reducible refine Keeps.ite ?_ ?_
    | with_reducible intro _

theorem storeLines_keeps {T : List Nat} {s u : State} {unit : ℕ} {b : ℕ} {line : ℕ} {bs : List Byte} {bad : ℕ → Bool}
    (hT : Sub [2, 3, 6, 16, 0x3021, 0x6101, 0x6102, 0x7002] T) (h : Keeps T s u) : Keeps T s (storeLines u unit b line bs bad) := by
  unfold storeLines
  repeat' first
    | with_reducible assumption
    | exact Sub.of rfl hT
    | with_reducible apply each_keeps
    | with_reducible apply planWrite_keeps
    | with_reducible apply planWriteAll_keeps
    | with_reducible refine Keeps.ite ?_ ?_
    | (extract_lets +onlyGivenNames x; first | refine (fun hx => ?_ : Keeps _ _ x → _) ?_ | refine (fun hx => ?_ : KeepsP _ _ x → _) ?_ | skip)
    | with_reducible intro _

theorem vst_keeps {T : List Nat} {s u : State} {i : Issue} {w : VecSlot}
    (hT : Sub [2, 3, 6, 8, 9, 13, 16, 19, 20, 21, 0x3021, 0x3040, 0x3410, 0x3411, 0x4110, 0x4140, 0x6101, 0x6102, 0x6202, 0x7002, 0x9000, 0x9001, 0x9010] T) (h : Keeps T s u) : Keeps T s (vst u i w) := by
  unfold vst
  repeat' first
    | with_reducible assumption
    | exact Sub.of rfl hT
    | with_reducible apply readDesc_keeps
    | with_reducible apply storeLines_keeps
    | with_reducible apply storeScales_keeps
    | with_reducible apply countArith_keeps
    | with_reducible apply watchFeed_keeps
    | with_reducible apply tick_keeps
    | with_reducible refine Keeps.ite ?_ ?_
    | with_reducible refine KeepsP.ite ?_ ?_
    | with_reducible apply KeepsP.fst

theorem execVst_keeps {u : State} {i : Issue} {w : VecSlot} :
    OutKeeps [2, 3, 5, 6, 8, 9, 13, 16, 19, 20, 21, 0x3020, 0x3021, 0x3040, 0x3410, 0x3411, 0x4110, 0x4140, 0x6101, 0x6102, 0x6202, 0x7002, 0x8200, 0x9000, 0x9001, 0x9010] u (execVst i w u) := by
  have h := Keeps.refl [2, 3, 5, 6, 8, 9, 13, 16, 19, 20, 21, 0x3020, 0x3021, 0x3040, 0x3410, 0x3411, 0x4110, 0x4140, 0x6101, 0x6102, 0x6202, 0x7002, 0x8200, 0x9000, 0x9001, 0x9010] u
  have hT := Sub.rfl (a := [2, 3, 5, 6, 8, 9, 13, 16, 19, 20, 21, 0x3020, 0x3021, 0x3040, 0x3410, 0x3411, 0x4110, 0x4140, 0x6101, 0x6102, 0x6202, 0x7002, 0x8200, 0x9000, 0x9001, 0x9010])
  unfold execVst
  repeat' first
    | with_reducible assumption
    | exact Sub.of rfl hT
    | with_reducible apply vecTraced_keeps
    | with_reducible apply vst_keeps
    | with_reducible apply OutKeeps.next
    | with_reducible refine Keeps.ite ?_ ?_
    | with_reducible intro _

theorem cvtMx_keeps {T : List Nat} {s u : State} {i : Issue} {w : VecSlot}
    (hT : Sub [2, 3, 5, 6, 8, 9, 13, 16, 20, 0x3021, 0x3040, 0x3410, 0x3411, 0x4110, 0x4140, 0x6101, 0x6102, 0x6202, 0x7002, 0x9000, 0x9001, 0x9010] T) (h : Keeps T s u) : Keeps T s (cvtMx u i w) := by
  unfold cvtMx
  repeat' first
    | with_reducible assumption
    | exact Sub.of rfl hT
    | with_reducible apply readDesc_keeps
    | with_reducible apply setVreg_keeps
    | with_reducible apply storeScales_keeps
    | with_reducible apply countArith_keeps
    | with_reducible refine KeepsP.ite ?_ ?_
    | with_reducible apply KeepsP.fst

theorem execCvtMx_keeps {u : State} {i : Issue} {w : VecSlot} :
    OutKeeps [2, 3, 5, 6, 8, 9, 13, 16, 20, 0x3020, 0x3021, 0x3040, 0x3410, 0x3411, 0x4110, 0x4140, 0x6101, 0x6102, 0x6202, 0x7002, 0x8200, 0x9000, 0x9001, 0x9010] u (execCvtMx i w u) := by
  have h := Keeps.refl [2, 3, 5, 6, 8, 9, 13, 16, 20, 0x3020, 0x3021, 0x3040, 0x3410, 0x3411, 0x4110, 0x4140, 0x6101, 0x6102, 0x6202, 0x7002, 0x8200, 0x9000, 0x9001, 0x9010] u
  have hT := Sub.rfl (a := [2, 3, 5, 6, 8, 9, 13, 16, 20, 0x3020, 0x3021, 0x3040, 0x3410, 0x3411, 0x4110, 0x4140, 0x6101, 0x6102, 0x6202, 0x7002, 0x8200, 0x9000, 0x9001, 0x9010])
  unfold execCvtMx
  repeat' first
    | with_reducible assumption
    | exact Sub.of rfl hT
    | with_reducible apply vecTraced_keeps
    | with_reducible apply cvtMx_keeps
    | with_reducible apply OutKeeps.next
    | with_reducible refine Keeps.ite ?_ ?_
    | with_reducible intro _

theorem execCvt_keeps {u : State} {i : Issue} {w : VecSlot} :
    OutKeeps [5, 6, 8, 9, 13, 16, 20, 21, 0x3020, 0x3021, 0x3040, 0x3410, 0x3411, 0x4110, 0x4140, 0x6202, 0x7002, 0x9000, 0x9001, 0x9010] u (execCvt i w u) := by
  have h := Keeps.refl [5, 6, 8, 9, 13, 16, 20, 21, 0x3020, 0x3021, 0x3040, 0x3410, 0x3411, 0x4110, 0x4140, 0x6202, 0x7002, 0x9000, 0x9001, 0x9010] u
  have hT := Sub.rfl (a := [5, 6, 8, 9, 13, 16, 20, 21, 0x3020, 0x3021, 0x3040, 0x3410, 0x3411, 0x4110, 0x4140, 0x6202, 0x7002, 0x9000, 0x9001, 0x9010])
  unfold execCvt
  repeat' first
    | with_reducible assumption
    | exact Sub.of rfl hT
    | with_reducible apply vecSlot_keeps
    | with_reducible apply cvt_keeps
    | with_reducible apply OutKeeps.next
    | with_reducible refine Keeps.ite ?_ ?_
    | with_reducible intro _

theorem execLog2_keeps {u : State} {i : Issue} {w : VecSlot} :
    OutKeeps [5, 6, 9, 13, 16, 20, 0x3020, 0x3021, 0x3040, 0x4110, 0x4140, 0x6202, 0x7002, 0x9000, 0x9001] u (execLog2 i w u) := by
  have h := Keeps.refl [5, 6, 9, 13, 16, 20, 0x3020, 0x3021, 0x3040, 0x4110, 0x4140, 0x6202, 0x7002, 0x9000, 0x9001] u
  have hT := Sub.rfl (a := [5, 6, 9, 13, 16, 20, 0x3020, 0x3021, 0x3040, 0x4110, 0x4140, 0x6202, 0x7002, 0x9000, 0x9001])
  unfold execLog2
  repeat' first
    | with_reducible assumption
    | exact Sub.of rfl hT
    | with_reducible apply vecLanes1_keeps
    | with_reducible apply OutKeeps.next

theorem execRsum_keeps {u : State} {i : Issue} {w : VecSlot} :
    OutKeeps [5, 6, 9, 13, 16, 20, 0x3020, 0x3021, 0x3040, 0x4110, 0x4140, 0x6202, 0x7002, 0x9000, 0x9001] u (execRsum i w u) := by
  have h := Keeps.refl [5, 6, 9, 13, 16, 20, 0x3020, 0x3021, 0x3040, 0x4110, 0x4140, 0x6202, 0x7002, 0x9000, 0x9001] u
  have hT := Sub.rfl (a := [5, 6, 9, 13, 16, 20, 0x3020, 0x3021, 0x3040, 0x4110, 0x4140, 0x6202, 0x7002, 0x9000, 0x9001])
  unfold execRsum
  repeat' first
    | with_reducible assumption
    | exact Sub.of rfl hT
    | with_reducible apply vecReduce_keeps
    | with_reducible apply OutKeeps.next

theorem execAnd_keeps {u : State} {i : Issue} {w : VecSlot} :
    OutKeeps [5, 6, 9, 13, 16, 20, 0x3020, 0x3021, 0x3040, 0x4110, 0x4140, 0x6202, 0x7002, 0x9000, 0x9001] u (execAnd i w u) := by
  have h := Keeps.refl [5, 6, 9, 13, 16, 20, 0x3020, 0x3021, 0x3040, 0x4110, 0x4140, 0x6202, 0x7002, 0x9000, 0x9001] u
  have hT := Sub.rfl (a := [5, 6, 9, 13, 16, 20, 0x3020, 0x3021, 0x3040, 0x4110, 0x4140, 0x6202, 0x7002, 0x9000, 0x9001])
  unfold execAnd
  repeat' first
    | with_reducible assumption
    | exact Sub.of rfl hT
    | with_reducible apply vecLanes2_keeps
    | with_reducible apply OutKeeps.next

theorem execRmax_keeps {u : State} {i : Issue} {w : VecSlot} :
    OutKeeps [5, 6, 9, 13, 16, 20, 0x3020, 0x3021, 0x3040, 0x4110, 0x4140, 0x6202, 0x7002, 0x9000, 0x9001] u (execRmax i w u) := by
  have h := Keeps.refl [5, 6, 9, 13, 16, 20, 0x3020, 0x3021, 0x3040, 0x4110, 0x4140, 0x6202, 0x7002, 0x9000, 0x9001] u
  have hT := Sub.rfl (a := [5, 6, 9, 13, 16, 20, 0x3020, 0x3021, 0x3040, 0x4110, 0x4140, 0x6202, 0x7002, 0x9000, 0x9001])
  unfold execRmax
  repeat' first
    | with_reducible assumption
    | exact Sub.of rfl hT
    | with_reducible apply vecReduce_keeps
    | with_reducible apply OutKeeps.next

theorem execShr_keeps {u : State} {i : Issue} {w : VecSlot} :
    OutKeeps [5, 6, 9, 13, 16, 20, 0x3020, 0x3021, 0x3040, 0x4110, 0x4140, 0x6202, 0x7002, 0x9000, 0x9001] u (execShr i w u) := by
  have h := Keeps.refl [5, 6, 9, 13, 16, 20, 0x3020, 0x3021, 0x3040, 0x4110, 0x4140, 0x6202, 0x7002, 0x9000, 0x9001] u
  have hT := Sub.rfl (a := [5, 6, 9, 13, 16, 20, 0x3020, 0x3021, 0x3040, 0x4110, 0x4140, 0x6202, 0x7002, 0x9000, 0x9001])
  unfold execShr
  repeat' first
    | with_reducible assumption
    | exact Sub.of rfl hT
    | with_reducible apply vecLanes2_keeps
    | with_reducible apply OutKeeps.next

theorem execRmin_keeps {u : State} {i : Issue} {w : VecSlot} :
    OutKeeps [5, 6, 9, 13, 16, 20, 0x3020, 0x3021, 0x3040, 0x4110, 0x4140, 0x6202, 0x7002, 0x9000, 0x9001] u (execRmin i w u) := by
  have h := Keeps.refl [5, 6, 9, 13, 16, 20, 0x3020, 0x3021, 0x3040, 0x4110, 0x4140, 0x6202, 0x7002, 0x9000, 0x9001] u
  have hT := Sub.rfl (a := [5, 6, 9, 13, 16, 20, 0x3020, 0x3021, 0x3040, 0x4110, 0x4140, 0x6202, 0x7002, 0x9000, 0x9001])
  unfold execRmin
  repeat' first
    | with_reducible assumption
    | exact Sub.of rfl hT
    | with_reducible apply vecReduce_keeps
    | with_reducible apply OutKeeps.next

theorem execDiv_keeps {u : State} {i : Issue} {w : VecSlot} :
    OutKeeps [5, 6, 9, 13, 16, 20, 0x3020, 0x3021, 0x3040, 0x4110, 0x4140, 0x6202, 0x7002, 0x9000, 0x9001] u (execDiv i w u) := by
  have h := Keeps.refl [5, 6, 9, 13, 16, 20, 0x3020, 0x3021, 0x3040, 0x4110, 0x4140, 0x6202, 0x7002, 0x9000, 0x9001] u
  have hT := Sub.rfl (a := [5, 6, 9, 13, 16, 20, 0x3020, 0x3021, 0x3040, 0x4110, 0x4140, 0x6202, 0x7002, 0x9000, 0x9001])
  unfold execDiv
  repeat' first
    | with_reducible assumption
    | exact Sub.of rfl hT
    | with_reducible apply vecLanes2_keeps
    | with_reducible apply OutKeeps.next

theorem execCmp_keeps {u : State} {i : Issue} {w : VecSlot} :
    OutKeeps [5, 6, 9, 13, 16, 20, 0x3020, 0x3021, 0x3040, 0x4110, 0x4140, 0x6202, 0x7002, 0x9000, 0x9001] u (execCmp i w u) := by
  have h := Keeps.refl [5, 6, 9, 13, 16, 20, 0x3020, 0x3021, 0x3040, 0x4110, 0x4140, 0x6202, 0x7002, 0x9000, 0x9001] u
  have hT := Sub.rfl (a := [5, 6, 9, 13, 16, 20, 0x3020, 0x3021, 0x3040, 0x4110, 0x4140, 0x6202, 0x7002, 0x9000, 0x9001])
  unfold execCmp
  repeat' first
    | with_reducible assumption
    | exact Sub.of rfl hT
    | with_reducible apply vecLanes2_keeps
    | with_reducible apply OutKeeps.next

theorem execTanh_keeps {u : State} {i : Issue} {w : VecSlot} :
    OutKeeps [5, 6, 9, 13, 16, 20, 0x3020, 0x3021, 0x3040, 0x4110, 0x4140, 0x6202, 0x7002, 0x9000, 0x9001] u (execTanh i w u) := by
  have h := Keeps.refl [5, 6, 9, 13, 16, 20, 0x3020, 0x3021, 0x3040, 0x4110, 0x4140, 0x6202, 0x7002, 0x9000, 0x9001] u
  have hT := Sub.rfl (a := [5, 6, 9, 13, 16, 20, 0x3020, 0x3021, 0x3040, 0x4110, 0x4140, 0x6202, 0x7002, 0x9000, 0x9001])
  unfold execTanh
  repeat' first
    | with_reducible assumption
    | exact Sub.of rfl hT
    | with_reducible apply vecLanes1_keeps
    | with_reducible apply OutKeeps.next

theorem scatterAdd_keeps {T : List Nat} {s u : State} {i : Issue} {w : VecSlot} {ecc : List EccHit}
    (hT : Sub [2, 3, 6, 8, 9, 13, 16, 20, 0x3021, 0x3040, 0x3410, 0x3411, 0x4110, 0x4140, 0x6101, 0x6102, 0x6202, 0x7002, 0x9000, 0x9001, 0x9010] T) (h : Keeps T s u) : Keeps T s (scatterAdd u i w ecc) := by
  unfold scatterAdd
  repeat' first
    | with_reducible assumption
    | exact Sub.of rfl hT
    | with_reducible apply each_keeps
    | with_reducible apply eccHit_keeps
    | with_reducible apply poisonReads_keeps
    | with_reducible apply putElem_keeps
    | with_reducible apply countArith_keeps
    | with_reducible apply outsideLanes_keeps
    | with_reducible refine Keeps.ite ?_ ?_
    | (extract_lets +onlyGivenNames x; first | refine (fun hx => ?_ : Keeps _ _ x → _) ?_ | refine (fun hx => ?_ : KeepsP _ _ x → _) ?_ | skip)
    | with_reducible intro _
    | split

theorem execExp2_keeps {u : State} {i : Issue} {w : VecSlot} :
    OutKeeps [5, 6, 9, 13, 16, 20, 0x3020, 0x3021, 0x3040, 0x4110, 0x4140, 0x6202, 0x7002, 0x9000, 0x9001] u (execExp2 i w u) := by
  have h := Keeps.refl [5, 6, 9, 13, 16, 20, 0x3020, 0x3021, 0x3040, 0x4110, 0x4140, 0x6202, 0x7002, 0x9000, 0x9001] u
  have hT := Sub.rfl (a := [5, 6, 9, 13, 16, 20, 0x3020, 0x3021, 0x3040, 0x4110, 0x4140, 0x6202, 0x7002, 0x9000, 0x9001])
  unfold execExp2
  repeat' first
    | with_reducible assumption
    | exact Sub.of rfl hT
    | with_reducible apply vecLanes1_keeps
    | with_reducible apply OutKeeps.next

theorem execScatterAdd_keeps {u : State} {i : Issue} {w : VecSlot} {ecc : List EccHit} :
    OutKeeps [2, 3, 5, 6, 8, 9, 13, 16, 20, 0x3020, 0x3021, 0x3040, 0x3410, 0x3411, 0x4110, 0x4140, 0x6101, 0x6102, 0x6202, 0x7002, 0x8200, 0x9000, 0x9001, 0x9010] u (execScatterAdd i w ecc u) := by
  have h := Keeps.refl [2, 3, 5, 6, 8, 9, 13, 16, 20, 0x3020, 0x3021, 0x3040, 0x3410, 0x3411, 0x4110, 0x4140, 0x6101, 0x6102, 0x6202, 0x7002, 0x8200, 0x9000, 0x9001, 0x9010] u
  have hT := Sub.rfl (a := [2, 3, 5, 6, 8, 9, 13, 16, 20, 0x3020, 0x3021, 0x3040, 0x3410, 0x3411, 0x4110, 0x4140, 0x6101, 0x6102, 0x6202, 0x7002, 0x8200, 0x9000, 0x9001, 0x9010])
  unfold execScatterAdd
  repeat' first
    | with_reducible assumption
    | exact Sub.of rfl hT
    | with_reducible apply vecTraced_keeps
    | with_reducible apply scatterAdd_keeps
    | with_reducible apply OutKeeps.next
    | with_reducible refine Keeps.ite ?_ ?_
    | with_reducible intro _

theorem execCos_keeps {u : State} {i : Issue} {w : VecSlot} :
    OutKeeps [5, 6, 9, 13, 16, 20, 0x3020, 0x3021, 0x3040, 0x4110, 0x4140, 0x6202, 0x7002, 0x9000, 0x9001] u (execCos i w u) := by
  have h := Keeps.refl [5, 6, 9, 13, 16, 20, 0x3020, 0x3021, 0x3040, 0x4110, 0x4140, 0x6202, 0x7002, 0x9000, 0x9001] u
  have hT := Sub.rfl (a := [5, 6, 9, 13, 16, 20, 0x3020, 0x3021, 0x3040, 0x4110, 0x4140, 0x6202, 0x7002, 0x9000, 0x9001])
  unfold execCos
  repeat' first
    | with_reducible assumption
    | exact Sub.of rfl hT
    | with_reducible apply vecLanes1_keeps
    | with_reducible apply OutKeeps.next

theorem execVecMul_keeps {u : State} {i : Issue} {w : VecSlot} :
    OutKeeps [5, 6, 9, 13, 16, 20, 0x3020, 0x3021, 0x3040, 0x4110, 0x4140, 0x6202, 0x7002, 0x9000, 0x9001] u (execVecMul i w u) := by
  have h := Keeps.refl [5, 6, 9, 13, 16, 20, 0x3020, 0x3021, 0x3040, 0x4110, 0x4140, 0x6202, 0x7002, 0x9000, 0x9001] u
  have hT := Sub.rfl (a := [5, 6, 9, 13, 16, 20, 0x3020, 0x3021, 0x3040, 0x4110, 0x4140, 0x6202, 0x7002, 0x9000, 0x9001])
  unfold execVecMul
  repeat' first
    | with_reducible assumption
    | exact Sub.of rfl hT
    | with_reducible apply vecLanes2_keeps
    | with_reducible apply OutKeeps.next

theorem execGather_keeps {u : State} {i : Issue} {w : VecSlot} {ecc : List EccHit} :
    OutKeeps [5, 6, 8, 9, 13, 16, 20, 0x3020, 0x3021, 0x3040, 0x3410, 0x3411, 0x4110, 0x4140, 0x6202, 0x7002, 0x8200, 0x9000, 0x9001, 0x9010] u (execGather i w ecc u) := by
  have h := Keeps.refl [5, 6, 8, 9, 13, 16, 20, 0x3020, 0x3021, 0x3040, 0x3410, 0x3411, 0x4110, 0x4140, 0x6202, 0x7002, 0x8200, 0x9000, 0x9001, 0x9010] u
  have hT := Sub.rfl (a := [5, 6, 8, 9, 13, 16, 20, 0x3020, 0x3021, 0x3040, 0x3410, 0x3411, 0x4110, 0x4140, 0x6202, 0x7002, 0x8200, 0x9000, 0x9001, 0x9010])
  unfold execGather
  repeat' first
    | with_reducible assumption
    | exact Sub.of rfl hT
    | with_reducible apply vecTraced_keeps
    | with_reducible apply gather_keeps
    | with_reducible apply OutKeeps.next
    | with_reducible refine Keeps.ite ?_ ?_
    | with_reducible intro _

theorem execLog_keeps {u : State} {i : Issue} {w : VecSlot} :
    OutKeeps [5, 6, 9, 13, 16, 20, 0x3020, 0x3021, 0x3040, 0x4110, 0x4140, 0x6202, 0x7002, 0x9000, 0x9001] u (execLog i w u) := by
  have h := Keeps.refl [5, 6, 9, 13, 16, 20, 0x3020, 0x3021, 0x3040, 0x4110, 0x4140, 0x6202, 0x7002, 0x9000, 0x9001] u
  have hT := Sub.rfl (a := [5, 6, 9, 13, 16, 20, 0x3020, 0x3021, 0x3040, 0x4110, 0x4140, 0x6202, 0x7002, 0x9000, 0x9001])
  unfold execLog
  repeat' first
    | with_reducible assumption
    | exact Sub.of rfl hT
    | with_reducible apply vecLanes1_keeps
    | with_reducible apply OutKeeps.next

theorem execMin_keeps {u : State} {i : Issue} {w : VecSlot} :
    OutKeeps [5, 6, 9, 13, 16, 20, 0x3020, 0x3021, 0x3040, 0x4110, 0x4140, 0x6202, 0x7002, 0x9000, 0x9001] u (execMin i w u) := by
  have h := Keeps.refl [5, 6, 9, 13, 16, 20, 0x3020, 0x3021, 0x3040, 0x4110, 0x4140, 0x6202, 0x7002, 0x9000, 0x9001] u
  have hT := Sub.rfl (a := [5, 6, 9, 13, 16, 20, 0x3020, 0x3021, 0x3040, 0x4110, 0x4140, 0x6202, 0x7002, 0x9000, 0x9001])
  unfold execMin
  repeat' first
    | with_reducible assumption
    | exact Sub.of rfl hT
    | with_reducible apply vecLanes2_keeps
    | with_reducible apply OutKeeps.next

theorem execRecip_keeps {u : State} {i : Issue} {w : VecSlot} :
    OutKeeps [5, 6, 9, 13, 16, 20, 0x3020, 0x3021, 0x3040, 0x4110, 0x4140, 0x6202, 0x7002, 0x9000, 0x9001] u (execRecip i w u) := by
  have h := Keeps.refl [5, 6, 9, 13, 16, 20, 0x3020, 0x3021, 0x3040, 0x4110, 0x4140, 0x6202, 0x7002, 0x9000, 0x9001] u
  have hT := Sub.rfl (a := [5, 6, 9, 13, 16, 20, 0x3020, 0x3021, 0x3040, 0x4110, 0x4140, 0x6202, 0x7002, 0x9000, 0x9001])
  unfold execRecip
  repeat' first
    | with_reducible assumption
    | exact Sub.of rfl hT
    | with_reducible apply vecLanes1_keeps
    | with_reducible apply OutKeeps.next

theorem execIsub_keeps {u : State} {i : Issue} {w : VecSlot} :
    OutKeeps [5, 6, 9, 13, 16, 20, 0x3020, 0x3021, 0x3040, 0x4110, 0x4140, 0x6202, 0x7002, 0x9000, 0x9001] u (execIsub i w u) := by
  have h := Keeps.refl [5, 6, 9, 13, 16, 20, 0x3020, 0x3021, 0x3040, 0x4110, 0x4140, 0x6202, 0x7002, 0x9000, 0x9001] u
  have hT := Sub.rfl (a := [5, 6, 9, 13, 16, 20, 0x3020, 0x3021, 0x3040, 0x4110, 0x4140, 0x6202, 0x7002, 0x9000, 0x9001])
  unfold execIsub
  repeat' first
    | with_reducible assumption
    | exact Sub.of rfl hT
    | with_reducible apply vecLanes2_keeps
    | with_reducible apply OutKeeps.next

theorem execNeg_keeps {u : State} {i : Issue} {w : VecSlot} :
    OutKeeps [5, 6, 9, 13, 16, 20, 0x3020, 0x3021, 0x3040, 0x4110, 0x4140, 0x6202, 0x7002, 0x9000, 0x9001] u (execNeg i w u) := by
  have h := Keeps.refl [5, 6, 9, 13, 16, 20, 0x3020, 0x3021, 0x3040, 0x4110, 0x4140, 0x6202, 0x7002, 0x9000, 0x9001] u
  have hT := Sub.rfl (a := [5, 6, 9, 13, 16, 20, 0x3020, 0x3021, 0x3040, 0x4110, 0x4140, 0x6202, 0x7002, 0x9000, 0x9001])
  unfold execNeg
  repeat' first
    | with_reducible assumption
    | exact Sub.of rfl hT
    | with_reducible apply vecLanes1_keeps
    | with_reducible apply OutKeeps.next

theorem execSigmoid_keeps {u : State} {i : Issue} {w : VecSlot} :
    OutKeeps [5, 6, 9, 13, 16, 20, 0x3020, 0x3021, 0x3040, 0x4110, 0x4140, 0x6202, 0x7002, 0x9000, 0x9001] u (execSigmoid i w u) := by
  have h := Keeps.refl [5, 6, 9, 13, 16, 20, 0x3020, 0x3021, 0x3040, 0x4110, 0x4140, 0x6202, 0x7002, 0x9000, 0x9001] u
  have hT := Sub.rfl (a := [5, 6, 9, 13, 16, 20, 0x3020, 0x3021, 0x3040, 0x4110, 0x4140, 0x6202, 0x7002, 0x9000, 0x9001])
  unfold execSigmoid
  repeat' first
    | with_reducible assumption
    | exact Sub.of rfl hT
    | with_reducible apply vecLanes1_keeps
    | with_reducible apply OutKeeps.next

theorem execAdd_keeps {u : State} {i : Issue} {w : VecSlot} :
    OutKeeps [5, 6, 9, 13, 16, 20, 0x3020, 0x3021, 0x3040, 0x4110, 0x4140, 0x6202, 0x7002, 0x9000, 0x9001] u (execAdd i w u) := by
  have h := Keeps.refl [5, 6, 9, 13, 16, 20, 0x3020, 0x3021, 0x3040, 0x4110, 0x4140, 0x6202, 0x7002, 0x9000, 0x9001] u
  have hT := Sub.rfl (a := [5, 6, 9, 13, 16, 20, 0x3020, 0x3021, 0x3040, 0x4110, 0x4140, 0x6202, 0x7002, 0x9000, 0x9001])
  unfold execAdd
  repeat' first
    | with_reducible assumption
    | exact Sub.of rfl hT
    | with_reducible apply vecLanes2_keeps
    | with_reducible apply OutKeeps.next

theorem execRsqrt_keeps {u : State} {i : Issue} {w : VecSlot} :
    OutKeeps [5, 6, 9, 13, 16, 20, 0x3020, 0x3021, 0x3040, 0x4110, 0x4140, 0x6202, 0x7002, 0x9000, 0x9001] u (execRsqrt i w u) := by
  have h := Keeps.refl [5, 6, 9, 13, 16, 20, 0x3020, 0x3021, 0x3040, 0x4110, 0x4140, 0x6202, 0x7002, 0x9000, 0x9001] u
  have hT := Sub.rfl (a := [5, 6, 9, 13, 16, 20, 0x3020, 0x3021, 0x3040, 0x4110, 0x4140, 0x6202, 0x7002, 0x9000, 0x9001])
  unfold execRsqrt
  repeat' first
    | with_reducible assumption
    | exact Sub.of rfl hT
    | with_reducible apply vecLanes1_keeps
    | with_reducible apply OutKeeps.next

theorem execIadd_keeps {u : State} {i : Issue} {w : VecSlot} :
    OutKeeps [5, 6, 9, 13, 16, 20, 0x3020, 0x3021, 0x3040, 0x4110, 0x4140, 0x6202, 0x7002, 0x9000, 0x9001] u (execIadd i w u) := by
  have h := Keeps.refl [5, 6, 9, 13, 16, 20, 0x3020, 0x3021, 0x3040, 0x4110, 0x4140, 0x6202, 0x7002, 0x9000, 0x9001] u
  have hT := Sub.rfl (a := [5, 6, 9, 13, 16, 20, 0x3020, 0x3021, 0x3040, 0x4110, 0x4140, 0x6202, 0x7002, 0x9000, 0x9001])
  unfold execIadd
  repeat' first
    | with_reducible assumption
    | exact Sub.of rfl hT
    | with_reducible apply vecLanes2_keeps
    | with_reducible apply OutKeeps.next

end Sys2Proof.Machine
end

