-- ==== Sys2Proof/Laws/KeepsWindow.lean ====
section
/-! SUPPORT. What the functions of `Machine/Window.lean` keep. -/

namespace Sys2Proof.Machine

open Sys2Proof

theorem winReply_keeps {T : List Nat} {s u : State} {r : MemReq} {bs : List Byte}
    (hT : Sub [20] T) (h : Keeps T s u) : Keeps T s (winReply u r bs) := by
  unfold winReply
  repeat' first
    | with_reducible assumption
    | exact Sub.of rfl hT
    | with_reducible apply emit_keeps

theorem winRefuse_keeps {T : List Nat} {s u : State} {r : MemReq} {reason : ℕ}
    (hT : Sub [20, 0x1102] T) (h : Keeps T s u) : Keeps T s (winRefuse u r reason) := by
  unfold winRefuse
  repeat' first
    | with_reducible assumption
    | exact Sub.of rfl hT
    | with_reducible apply wr_keeps
    | with_reducible apply bumpSat_keeps
    | with_reducible apply winReply_keeps
    | with_reducible refine Keeps.ite ?_ ?_

theorem slotAccess_keeps {T : List Nat} {s u : State} {r : MemReq} {e : Reg} {inst : ℕ} {byte : ℕ}
    (hT : Sub [1, 2, 3, 4, 5, 6, 7, 8, 9, 10, 11, 12, 13, 14, 15, 16, 17, 18, 19, 20, 21, 31] T) (h : Keeps T s u) : Keeps T s (slotAccess u r e inst byte) := by
  unfold slotAccess
  repeat' first
    | with_reducible assumption
    | exact Sub.of rfl hT
    | with_reducible apply winRefuse_keeps
    | with_reducible apply writeOne_keeps
    | with_reducible apply readOne_keeps
    | with_reducible apply winReply_keeps
    | with_reducible refine Keeps.ite ?_ ?_
    | with_reducible refine KeepsP.ite ?_ ?_
    | with_reducible apply KeepsP.fst

theorem tallyAccess_keeps {T : List Nat} {s u : State} {r : MemReq}
    (hT : Sub [1, 2, 3, 4, 5, 6, 7, 8, 9, 10, 11, 12, 13, 14, 15, 16, 17, 18, 19, 20, 21, 31] T) (h : Keeps T s u) : Keeps T s (tallyAccess u r) := by
  unfold tallyAccess
  repeat' first
    | with_reducible assumption
    | exact Sub.of rfl hT
    | with_reducible apply slotAccess_keeps
    | with_reducible apply winRefuse_keeps
    | with_reducible apply writeOne_keeps
    | with_reducible apply readOne_keeps
    | with_reducible apply winReply_keeps
    | with_reducible refine Keeps.ite ?_ ?_
    | with_reducible refine KeepsP.ite ?_ ?_
    | with_reducible apply KeepsP.fst
    | exact Sub.reg _ hT rfl
    | (extract_lets +onlyGivenNames x; first | refine (fun hx => ?_ : Keeps _ _ x → _) ?_ | refine (fun hx => ?_ : KeepsP _ _ x → _) ?_ | skip)
    | with_reducible intro _
    | split

theorem mboxWrite_keeps {T : List Nat} {s u : State} {r : MemReq} {box : ℕ} {o : ℕ}
    (hT : Sub [1, 2, 3, 4, 5, 6, 7, 8, 9, 10, 11, 12, 13, 14, 15, 16, 17, 18, 19, 20, 21, 31] T) (h : Keeps T s u) : Keeps T s (mboxWrite u r box o) := by
  unfold mboxWrite
  repeat' first
    | with_reducible assumption
    | exact Sub.of rfl hT
    | with_reducible apply bumpSat_keeps
    | with_reducible apply modMbox_keeps
    | with_reducible apply winRefuse_keeps
    | with_reducible apply mboxGo_keeps
    | with_reducible refine Keeps.ite ?_ ?_
    | exact Sub.reg _ hT rfl
    | (extract_lets +onlyGivenNames x; first | refine (fun hx => ?_ : Keeps _ _ x → _) ?_ | refine (fun hx => ?_ : KeepsP _ _ x → _) ?_ | skip)
    | with_reducible intro _
    | split

theorem mboxAccess_keeps {T : List Nat} {s u : State} {r : MemReq} {box : ℕ} {o : ℕ}
    (hT : Sub [1, 2, 3, 4, 5, 6, 7, 8, 9, 10, 11, 12, 13, 14, 15, 16, 17, 18, 19, 20, 21, 31] T) (h : Keeps T s u) : Keeps T s (mboxAccess u r box o) := by
  unfold mboxAccess
  repeat' first
    | with_reducible assumption
    | exact Sub.of rfl hT
    | with_reducible apply mboxWrite_keeps
    | with_reducible apply winReply_keeps
    | with_reducible apply winRefuse_keeps
    | with_reducible refine Keeps.ite ?_ ?_

theorem directSlot_keeps {T : List Nat} {s u : State} {r : MemReq} {off : ℕ}
    (hT : Sub [1, 2, 3, 4, 5, 6, 7, 8, 9, 10, 11, 12, 13, 14, 15, 16, 17, 18, 19, 20, 21, 31] T) (h : Keeps T s u) : Keeps T s (directSlot u r off) := by
  unfold directSlot
  repeat' first
    | with_reducible assumption
    | exact Sub.of rfl hT
    | with_reducible apply slotAccess_keeps
    | with_reducible apply winRefuse_keeps
    | with_reducible refine Keeps.ite ?_ ?_
    | exact Sub.reg _ hT rfl
    | (extract_lets +onlyGivenNames x; first | refine (fun hx => ?_ : Keeps _ _ x → _) ?_ | refine (fun hx => ?_ : KeepsP _ _ x → _) ?_ | skip)
    | with_reducible intro _
    | split

theorem dictAccess_keeps {T : List Nat} {s u : State} {r : MemReq}
    (hT : Sub [1, 2, 3, 4, 5, 6, 7, 8, 9, 10, 11, 12, 13, 14, 15, 16, 17, 18, 19, 20, 21, 31] T) (h : Keeps T s u) : Keeps T s (dictAccess u r) := by
  unfold dictAccess
  repeat' first
    | with_reducible assumption
    | exact Sub.of rfl hT
    | with_reducible apply mboxAccess_keeps
    | with_reducible apply winRefuse_keeps
    | with_reducible apply directSlot_keeps
    | with_reducible refine Keeps.ite ?_ ?_

theorem doorAccess_keeps {T : List Nat} {s u : State} {r : MemReq} {f : ℕ} {o : ℕ}
    (hT : Sub [2, 3, 5, 6, 8, 9, 11, 12, 13, 14, 16, 19, 20, 0x2020, 0x2021, 0x3000, 0x3001, 0x3010, 0x3011, 0x3021, 0x3403, 0x3410, 0x3411, 0x4110, 0x4120, 0x4130, 0x4140, 0x5001, 0x6101, 0x6102, 0x6202, 0x7002, 0x8100, 0x9000, 0x9001, 0x9010] T) (h : Keeps T s u) : Keeps T s (doorAccess u r f o) := by
  unfold doorAccess
  repeat' first
    | with_reducible assumption
    | exact Sub.of rfl hT
    | with_reducible apply winReply_keeps
    | with_reducible apply sqTail_keeps
    | with_reducible apply cqHead_keeps
    | with_reducible apply queueEnable_keeps
    | with_reducible apply normalDisable_keeps
    | with_reducible apply forcedDisable_keeps
    | with_reducible apply modQueue_keeps
    | with_reducible refine Keeps.ite ?_ ?_
    | (extract_lets +onlyGivenNames x; first | refine (fun hx => ?_ : Keeps _ _ x → _) ?_ | refine (fun hx => ?_ : KeepsP _ _ x → _) ?_ | skip)
    | with_reducible intro _
    | split

theorem ctxAccess_keeps {T : List Nat} {s u : State} {r : MemReq} {g : ℕ} {o : ℕ}
    (hT : Sub [12, 20, 0x5001] T) (h : Keeps T s u) : Keeps T s (ctxAccess u r g o) := by
  unfold ctxAccess
  repeat' first
    | with_reducible assumption
    | exact Sub.of rfl hT
    | with_reducible apply ctxWrite_keeps
    | with_reducible apply winReply_keeps
    | with_reducible refine Keeps.ite ?_ ?_

theorem traceAccess_keeps {T : List Nat} {s u : State} {r : MemReq}
    (hT : Sub [20, 0x1102] T) (h : Keeps T s u) : Keeps T s (traceAccess u r) := by
  unfold traceAccess
  repeat' first
    | with_reducible assumption
    | exact Sub.of rfl hT
    | with_reducible apply winRefuse_keeps
    | with_reducible apply winReply_keeps
    | with_reducible refine Keeps.ite ?_ ?_

theorem chipRequest_keeps {T : List Nat} {s u : State} {r : MemReq}
    (hT : Sub [1, 2, 3, 4, 5, 6, 7, 8, 9, 10, 11, 12, 13, 14, 15, 16, 17, 18, 19, 20, 21, 31] T) (h : Keeps T s u) : Keeps T s (chipRequest u r) := by
  unfold chipRequest
  repeat' first
    | with_reducible assumption
    | exact Sub.of rfl hT
    | with_reducible apply dictAccess_keeps
    | with_reducible apply doorAccess_keeps
    | with_reducible apply ctxAccess_keeps
    | with_reducible apply tallyAccess_keeps
    | with_reducible apply traceAccess_keeps
    | with_reducible apply memRequest_keeps
    | with_reducible refine Keeps.ite ?_ ?_

theorem msixWrite_keeps {T : List Nat} {s u : State} {f : ℕ} {o : ℕ} {data : List Byte}
    (hT : Sub [12, 20] T) (h : Keeps T s u) : Keeps T s (msixWrite u f o data) := by
  unfold msixWrite
  repeat' first
    | with_reducible assumption
    | exact Sub.of rfl hT
    | with_reducible apply msixSweep_keeps
    | with_reducible apply modHost_keeps
    | exact fun _ w => w

theorem barAccess_keeps {T : List Nat} {s u : State} {func : ℕ} {o : ℕ} {len : ℕ} {write : Bool} {data : List Byte}
    (hT : Sub [1, 2, 3, 4, 5, 6, 7, 8, 9, 10, 11, 12, 13, 14, 15, 16, 17, 18, 19, 20, 21, 31] T) (h : Keeps T s u) : Keeps T s (barAccess u func o len write data) := by
  unfold barAccess
  repeat' first
    | with_reducible assumption
    | exact Sub.of rfl hT
    | with_reducible apply chipRequest_keeps
    | with_reducible apply msixWrite_keeps
    | with_reducible apply winReply_keeps
    | with_reducible refine Keeps.ite ?_ ?_

theorem partWindow_keeps {T : List Nat} {s u : State} {func : ℕ} {o : ℕ} {len : ℕ} {write : Bool} {data : List Byte} {ecc : List EccHit}
    (hT : Sub [2, 3, 6, 8, 9, 13, 15, 16, 20, 0x3021, 0x3403, 0x3410, 0x3411, 0x4110, 0x4140, 0x6101, 0x6102, 0x6202, 0x7002, 0x9000, 0x9001, 0x9010] T) (h : Keeps T s u) : Keeps T s (partWindow u func o len write data ecc) := by
  unfold partWindow
  repeat' first
    | with_reducible assumption
    | exact Sub.of rfl hT
    | with_reducible apply setPower_keeps
    | with_reducible apply memRequest_keeps
    | with_reducible refine Keeps.ite ?_ ?_

theorem cfgAccess_keeps {T : List Nat} {s u : State} {func : ℕ} {a : HostAddr} {len : ℕ} {write : Bool} {data : List Byte}
    (hT : Sub [12, 20] T) (h : Keeps T s u) : Keeps T s (cfgAccess u func a len write data) := by
  unfold cfgAccess
  repeat' first
    | with_reducible assumption
    | exact Sub.of rfl hT
    | with_reducible apply msixSweep_keeps
    | with_reducible apply modHost_keeps
    | with_reducible apply winReply_keeps
    | exact fun _ w => w
    | exact fun _ w => memWrite_wf _ _ w
    | with_reducible refine Keeps.ite ?_ ?_
    | (extract_lets +onlyGivenNames x; first | refine (fun hx => ?_ : Keeps _ _ x → _) ?_ | refine (fun hx => ?_ : KeepsP _ _ x → _) ?_ | skip)
    | with_reducible intro _
    | split

theorem hostAccess_keeps {T : List Nat} {s u : State} {func : ℕ} {a : HostAddr} {len : ℕ} {write : Bool} {data : List Byte} {ecc : List EccHit}
    (hT : Sub [1, 2, 3, 4, 5, 6, 7, 8, 9, 10, 11, 12, 13, 14, 15, 16, 17, 18, 19, 20, 21, 31] T) (h : Keeps T s u) : Keeps T s (hostAccess u func a len write data ecc) := by
  unfold hostAccess
  repeat' first
    | with_reducible assumption
    | exact Sub.of rfl hT
    | with_reducible apply barAccess_keeps
    | with_reducible apply partWindow_keeps
    | with_reducible apply chipRequest_keeps
    | with_reducible apply cfgAccess_keeps
    | with_reducible refine Keeps.ite ?_ ?_
    | exact Sub.reg _ hT rfl
    | (extract_lets +onlyGivenNames x; first | refine (fun hx => ?_ : Keeps _ _ x → _) ?_ | refine (fun hx => ?_ : KeepsP _ _ x → _) ?_ | skip)
    | with_reducible intro _
    | split

theorem execMemoryRequest_keeps {u : State} {r : MemReq} :
    OutKeeps [1, 2, 3, 4, 5, 6, 7, 8, 9, 10, 11, 12, 13, 14, 15, 16, 17, 18, 19, 20, 21, 31] u (execMemoryRequest r u) := by
  have h := Keeps.refl [1, 2, 3, 4, 5, 6, 7, 8, 9, 10, 11, 12, 13, 14, 15, 16, 17, 18, 19, 20, 21, 31] u
  have hT := Sub.rfl (a := [1, 2, 3, 4, 5, 6, 7, 8, 9, 10, 11, 12, 13, 14, 15, 16, 17, 18, 19, 20, 21, 31])
  unfold execMemoryRequest
  repeat' first
    | with_reducible assumption
    | exact Sub.of rfl hT
    | with_reducible apply chipRequest_keeps
    | with_reducible apply OutKeeps.next

theorem execWindowAccess_keeps {u : State} {func : ℕ} {offset : HostAddr} {len : ℕ} {write : Bool} {data : List Byte} {ecc : List EccHit} :
    OutKeeps [1, 2, 3, 4, 5, 6, 7, 8, 9, 10, 11, 12, 13, 14, 15, 16, 17, 18, 19, 20, 21, 31] u (execWindowAccess func offset len write data ecc u) := by
  have h := Keeps.refl [1, 2, 3, 4, 5, 6, 7, 8, 9, 10, 11, 12, 13, 14, 15, 16, 17, 18, 19, 20, 21, 31] u
  have hT := Sub.rfl (a := [1, 2, 3, 4, 5, 6, 7, 8, 9, 10, 11, 12, 13, 14, 15, 16, 17, 18, 19, 20, 21, 31])
  unfold execWindowAccess
  repeat' first
    | with_reducible assumption
    | exact Sub.of rfl hT
    | with_reducible apply hostAccess_keeps
    | with_reducible apply OutKeeps.next

end Sys2Proof.Machine
end

