-- ==== Sys2Proof/Laws/PerInstr.lean ====
section
/-! SUPPORT. For each command of the table: the places that `touches` lists for it are places of the state, and the queue
is none of them. -/

namespace Sys2Proof.Laws.Placed

open Sys2Proof Sys2Proof.Machine

/-- Every place listed for a command is a field of the state but the queue, the whole dictionary, or a dictionary index. -/
def Statement (c : Instr) : Prop :=
  ((touches c).all fun p => p != plPending && (decide (p ≤ plFree) || p == plDict || decide (0x1000 ≤ p))) = true

theorem segmentRelease : ∀ x0, Statement (.segmentRelease x0) := fun _ => rfl
theorem streamFetch : ∀ x0 x1 x2, Statement (.streamFetch x0 x1 x2) := fun _ _ _ => rfl
theorem cellNop : ∀ x0 x1 x2, Statement (.cellNop x0 x1 x2) := fun _ _ _ => rfl
theorem ldw : ∀ x0 x1 x2 x3, Statement (.ldw x0 x1 x2 x3) := fun _ _ _ _ => rfl
theorem swap : ∀ x0 x1 x2, Statement (.swap x0 x1 x2) := fun _ _ _ => rfl
theorem lda : ∀ x0 x1 x2 x3, Statement (.lda x0 x1 x2 x3) := fun _ _ _ _ => rfl
theorem mul : ∀ x0 x1 x2 x3, Statement (.mul x0 x1 x2 x3) := fun _ _ _ _ => rfl
theorem sta : ∀ x0 x1 x2, Statement (.sta x0 x1 x2) := fun _ _ _ => rfl
theorem clra : ∀ x0 x1 x2, Statement (.clra x0 x1 x2) := fun _ _ _ => rfl
theorem vecNop : ∀ x0 x1, Statement (.vecNop x0 x1) := fun _ _ => rfl
theorem vld : ∀ x0 x1 x2, Statement (.vld x0 x1 x2) := fun _ _ _ => rfl
theorem vst : ∀ x0 x1, Statement (.vst x0 x1) := fun _ _ => rfl
theorem gather : ∀ x0 x1 x2, Statement (.gather x0 x1 x2) := fun _ _ _ => rfl
theorem scatter : ∀ x0 x1, Statement (.scatter x0 x1) := fun _ _ => rfl
theorem scatterAdd : ∀ x0 x1 x2, Statement (.scatterAdd x0 x1 x2) := fun _ _ _ => rfl
theorem bcast : ∀ x0 x1, Statement (.bcast x0 x1) := fun _ _ => rfl
theorem add : ∀ x0 x1, Statement (.add x0 x1) := fun _ _ => rfl
theorem sub : ∀ x0 x1, Statement (.sub x0 x1) := fun _ _ => rfl
theorem vecMul : ∀ x0 x1, Statement (.vecMul x0 x1) := fun _ _ => rfl
theorem fma : ∀ x0 x1, Statement (.fma x0 x1) := fun _ _ => rfl
theorem min : ∀ x0 x1, Statement (.min x0 x1) := fun _ _ => rfl
theorem max : ∀ x0 x1, Statement (.max x0 x1) := fun _ _ => rfl
theorem abs : ∀ x0 x1, Statement (.abs x0 x1) := fun _ _ => rfl
theorem neg : ∀ x0 x1, Statement (.neg x0 x1) := fun _ _ => rfl
theorem copysign : ∀ x0 x1, Statement (.copysign x0 x1) := fun _ _ => rfl
theorem cmp : ∀ x0 x1, Statement (.cmp x0 x1) := fun _ _ => rfl
theorem sel : ∀ x0 x1, Statement (.sel x0 x1) := fun _ _ => rfl
theorem iadd : ∀ x0 x1, Statement (.iadd x0 x1) := fun _ _ => rfl
theorem isub : ∀ x0 x1, Statement (.isub x0 x1) := fun _ _ => rfl
theorem imul : ∀ x0 x1, Statement (.imul x0 x1) := fun _ _ => rfl
theorem shl : ∀ x0 x1, Statement (.shl x0 x1) := fun _ _ => rfl
theorem shr : ∀ x0 x1, Statement (.shr x0 x1) := fun _ _ => rfl
theorem and : ∀ x0 x1, Statement (.and x0 x1) := fun _ _ => rfl
theorem or : ∀ x0 x1, Statement (.or x0 x1) := fun _ _ => rfl
theorem xor : ∀ x0 x1, Statement (.xor x0 x1) := fun _ _ => rfl
theorem recip : ∀ x0 x1, Statement (.recip x0 x1) := fun _ _ => rfl
theorem sqrt : ∀ x0 x1, Statement (.sqrt x0 x1) := fun _ _ => rfl
theorem rsqrt : ∀ x0 x1, Statement (.rsqrt x0 x1) := fun _ _ => rfl
theorem div : ∀ x0 x1, Statement (.div x0 x1) := fun _ _ => rfl
theorem exp : ∀ x0 x1, Statement (.exp x0 x1) := fun _ _ => rfl
theorem exp2 : ∀ x0 x1, Statement (.exp2 x0 x1) := fun _ _ => rfl
theorem log : ∀ x0 x1, Statement (.log x0 x1) := fun _ _ => rfl
theorem log2 : ∀ x0 x1, Statement (.log2 x0 x1) := fun _ _ => rfl
theorem tanh : ∀ x0 x1, Statement (.tanh x0 x1) := fun _ _ => rfl
theorem sigmoid : ∀ x0 x1, Statement (.sigmoid x0 x1) := fun _ _ => rfl
theorem erf : ∀ x0 x1, Statement (.erf x0 x1) := fun _ _ => rfl
theorem sin : ∀ x0 x1, Statement (.sin x0 x1) := fun _ _ => rfl
theorem cos : ∀ x0 x1, Statement (.cos x0 x1) := fun _ _ => rfl
theorem cvt : ∀ x0 x1, Statement (.cvt x0 x1) := fun _ _ => rfl
theorem cvtMx : ∀ x0 x1, Statement (.cvtMx x0 x1) := fun _ _ => rfl
theorem rsum : ∀ x0 x1, Statement (.rsum x0 x1) := fun _ _ => rfl
theorem rmax : ∀ x0 x1, Statement (.rmax x0 x1) := fun _ _ => rfl
theorem rmin : ∀ x0 x1, Statement (.rmin x0 x1) := fun _ _ => rfl
theorem argmax : ∀ x0 x1, Statement (.argmax x0 x1) := fun _ _ => rfl
theorem argmin : ∀ x0 x1, Statement (.argmin x0 x1) := fun _ _ => rfl
theorem mvNop : ∀ x0 x1 x2, Statement (.mvNop x0 x1 x2) := fun _ _ _ => rfl
theorem copy : ∀ x0 x1 x2 x3, Statement (.copy x0 x1 x2 x3) := fun _ _ _ _ => rfl
theorem coll : ∀ x0 x1 x2 x3, Statement (.coll x0 x1 x2 x3) := fun _ _ _ _ => rfl
theorem ctlNop : ∀ x0 x1, Statement (.ctlNop x0 x1) := fun _ _ => rfl
theorem sync : ∀ x0 x1, Statement (.sync x0 x1) := fun _ _ => rfl
theorem stepEnd : ∀ x0 x1, Statement (.stepEnd x0 x1) := fun _ _ => rfl
theorem loop : ∀ x0 x1, Statement (.loop x0 x1) := fun _ _ => rfl
theorem wait : ∀ x0 x1, Statement (.wait x0 x1) := fun _ _ => rfl
theorem finalize : ∀ x0 x1, Statement (.finalize x0 x1) := fun _ _ => rfl
theorem dbase : ∀ x0 x1, Statement (.dbase x0 x1) := fun _ _ => rfl
theorem arrivalDelivery : ∀ x0, Statement (.arrivalDelivery x0) := fun _ => rfl
theorem digestCompare : ∀ x0 x1 x2, Statement (.digestCompare x0 x1 x2) := fun _ _ _ => rfl
theorem yarrowVerdict : ∀ x0, Statement (.yarrowVerdict x0) := fun _ => rfl
theorem sramEccWriteback : ∀ x0 x1, Statement (.sramEccWriteback x0 x1) := fun _ _ => rfl
theorem memoryRequest : ∀ x0, Statement (.memoryRequest x0) := fun _ => rfl
theorem journalCopy : ∀ x0 x1, Statement (.journalCopy x0 x1) := fun _ _ => rfl
theorem hbmPatrolRead : ∀ x0 x1 x2 x3, Statement (.hbmPatrolRead x0 x1 x2 x3) := fun _ _ _ _ => rfl
theorem patrolOverrun : ∀ x0 x1, Statement (.patrolOverrun x0 x1) := fun _ _ => rfl
theorem hbmOdeccPoll : ∀ x0 x1, Statement (.hbmOdeccPoll x0 x1) := fun _ _ => rfl
theorem zeroWatermarkPass : ∀ x0 x1, Statement (.zeroWatermarkPass x0 x1) := fun _ _ => rfl
theorem zeroingComplete : ∀ x0, Statement (.zeroingComplete x0) := fun _ => rfl
theorem cmpPartOwner : ∀ x0 x1 x2, Statement (.cmpPartOwner x0 x1 x2) := fun _ _ _ => rfl
theorem cmpPartTag : ∀ x0 x1 x2, Statement (.cmpPartTag x0 x1 x2) := fun _ _ _ => rfl
theorem cmpBlockPart : ∀ x0 x1 x2, Statement (.cmpBlockPart x0 x1 x2) := fun _ _ _ => rfl
theorem memSlicePart : ∀ x0 x1 x2, Statement (.memSlicePart x0 x1 x2) := fun _ _ _ => rfl
theorem memSliceUse : ∀ x0 x1 x2, Statement (.memSliceUse x0 x1 x2) := fun _ _ _ => rfl
theorem memSliceHost : ∀ x0 x1 x2, Statement (.memSliceHost x0 x1 x2) := fun _ _ _ => rfl
theorem fabPortAdmin : ∀ x0 x1 x2, Statement (.fabPortAdmin x0 x1 x2) := fun _ _ _ => rfl
theorem portFullRetrain : ∀ x0 x1, Statement (.portFullRetrain x0 x1) := fun _ _ => rfl
theorem portClearCounters : ∀ x0 x1, Statement (.portClearCounters x0 x1) := fun _ _ => rfl
theorem fabLaneOutClr : ∀ x0 x1 x2, Statement (.fabLaneOutClr x0 x1 x2) := fun _ _ _ => rfl
theorem trainingAttemptFail : ∀ x0 x1 x2 x3, Statement (.trainingAttemptFail x0 x1 x2 x3) := fun _ _ _ _ => rfl
theorem portDownRetry : ∀ x0, Statement (.portDownRetry x0) := fun _ => rfl
theorem hello : ∀ x0 x1 x2 x3, Statement (.hello x0 x1 x2 x3) := fun _ _ _ _ => rfl
theorem txSlot : ∀ x0, Statement (.txSlot x0) := fun _ => rfl
theorem data : ∀ x0 x1, Statement (.data x0 x1) := fun _ _ => rfl
theorem nak : ∀ x0 x1, Statement (.nak x0 x1) := fun _ _ => rfl
theorem null : ∀ x0 x1, Statement (.null x0 x1) := fun _ _ => rfl
theorem ackNullSend : ∀ x0, Statement (.ackNullSend x0) := fun _ => rfl
theorem replayTimerExpiry : ∀ x0, Statement (.replayTimerExpiry x0) := fun _ => rfl
theorem laneWindowEnd : ∀ x0 x1, Statement (.laneWindowEnd x0 x1) := fun _ _ => rfl
theorem lossOfLock : ∀ x0 x1, Statement (.lossOfLock x0 x1) := fun _ _ => rfl
theorem spareReq : ∀ x0 x1, Statement (.spareReq x0 x1) := fun _ _ => rfl
theorem spareOffer : ∀ x0 x1, Statement (.spareOffer x0 x1) := fun _ _ => rfl
theorem spareGo : ∀ x0 x1, Statement (.spareGo x0 x1) := fun _ _ => rfl
theorem fastRetrainResume : ∀ x0, Statement (.fastRetrainResume x0) := fun _ => rfl
theorem widthReduction : ∀ x0 x1 x2, Statement (.widthReduction x0 x1 x2) := fun _ _ _ => rfl
theorem creditSync : ∀ x0 x1, Statement (.creditSync x0 x1) := fun _ _ => rfl
theorem creditSyncSend : ∀ x0, Statement (.creditSyncSend x0) := fun _ => rfl
theorem pause : ∀ x0 x1 x2, Statement (.pause x0 x1 x2) := fun _ _ _ => rfl
theorem pauseSend : ∀ x0 x1, Statement (.pauseSend x0 x1) := fun _ _ => rfl
theorem pauseExpiry : ∀ x0 x1, Statement (.pauseExpiry x0 x1) := fun _ _ => rfl
theorem clockUpstreamLoss : ∀ x0, Statement (.clockUpstreamLoss x0) := fun _ => rfl
theorem fabClkUp : ∀ x0 x1, Statement (.fabClkUp x0 x1) := fun _ _ => rfl
theorem moduleInsert : ∀ x0, Statement (.moduleInsert x0) := fun _ => rfl
theorem moduleIdentified : ∀ x0 x1, Statement (.moduleIdentified x0 x1) := fun _ _ => rfl
theorem moduleRemove : ∀ x0, Statement (.moduleRemove x0) := fun _ => rfl
theorem laserMonitorRead : ∀ x0 x1, Statement (.laserMonitorRead x0 x1) := fun _ _ => rfl
theorem laserFaultFlag : ∀ x0 x1 x2, Statement (.laserFaultFlag x0 x1 x2) := fun _ _ _ => rfl
theorem laserHoursWrite : ∀ x0, Statement (.laserHoursWrite x0) := fun _ => rfl
theorem bolWrite : ∀ x0 x1, Statement (.bolWrite x0 x1) := fun _ _ => rfl
theorem packetInject : ∀ x0, Statement (.packetInject x0) := fun _ => rfl
theorem packetRoute : ∀ x0 x1 x2, Statement (.packetRoute x0 x1 x2) := fun _ _ _ => rfl
theorem packetEject : ∀ x0 x1, Statement (.packetEject x0 x1) := fun _ _ => rfl
theorem fabRtState : ∀ x0 x1 x2, Statement (.fabRtState x0 x1 x2) := fun _ _ _ => rfl
theorem fabEpochInj : ∀ x0 x1, Statement (.fabEpochInj x0 x1) := fun _ _ => rfl
theorem versionRetire : ∀ x0, Statement (.versionRetire x0) := fun _ => rfl
theorem portHoldExpiry : ∀ x0, Statement (.portHoldExpiry x0) := fun _ => rfl
theorem e2eRetransmit : ∀ x0 x1 x2, Statement (.e2eRetransmit x0 x1 x2) := fun _ _ _ => rfl
theorem e2eAckSend : ∀ x0 x1, Statement (.e2eAckSend x0 x1) := fun _ _ => rfl
theorem windowAcknowledgement : ∀ x0 x1 x2 x3 x4 x5, Statement (.windowAcknowledgement x0 x1 x2 x3 x4 x5) := fun _ _ _ _ _ _ => rfl
theorem contextEvict : ∀ x0 x1 x2, Statement (.contextEvict x0 x1 x2) := fun _ _ _ => rfl
theorem shaperDecision : ∀ x0, Statement (.shaperDecision x0) := fun _ => rfl
theorem fabShpRate : ∀ x0 x1 x2, Statement (.fabShpRate x0 x1 x2) := fun _ _ _ => rfl
theorem fabShpLevel : ∀ x0 x1 x2, Statement (.fabShpLevel x0 x1 x2) := fun _ _ _ => rfl
theorem fabDmap : ∀ x0 x1 x2, Statement (.fabDmap x0 x1 x2) := fun _ _ _ => rfl
theorem fabVc1Res : ∀ x0 x1 x2, Statement (.fabVc1Res x0 x1 x2) := fun _ _ _ => rfl
theorem collCombine : ∀ x0 x1 x2 x3 x4 x5, Statement (.collCombine x0 x1 x2 x3 x4 x5) := fun _ _ _ _ _ _ => rfl
theorem sqTailDb : ∀ x0 x1 x2, Statement (.sqTailDb x0 x1 x2) := fun _ _ _ => rfl
theorem cqHeadDb : ∀ x0 x1 x2, Statement (.cqHeadDb x0 x1 x2) := fun _ _ _ => rfl
theorem queueEnable : ∀ x0 x1, Statement (.queueEnable x0 x1) := fun _ _ => rfl
theorem normalDisable : ∀ x0 x1, Statement (.normalDisable x0 x1) := fun _ _ => rfl
theorem forcedDisable : ∀ x0 x1, Statement (.forcedDisable x0 x1) := fun _ _ => rfl
theorem queueContextWrite : ∀ x0 x1 x2 x3 x4, Statement (.queueContextWrite x0 x1 x2 x3 x4) := fun _ _ _ _ _ => rfl
theorem sqFetch : Statement .sqFetch := rfl
theorem nop : ∀ x0, Statement (.nop x0) := fun _ => rfl
theorem write : ∀ x0 x1, Statement (.write x0 x1) := fun _ _ => rfl
theorem read : ∀ x0 x1 x2, Statement (.read x0 x1 x2) := fun _ _ _ => rfl
theorem hostCopy : ∀ x0 x1, Statement (.hostCopy x0 x1) := fun _ _ => rfl
theorem planLoad : ∀ x0 x1, Statement (.planLoad x0 x1) := fun _ _ => rfl
theorem planLoadChecksDone : ∀ x0 x1, Statement (.planLoadChecksDone x0 x1) := fun _ _ => rfl
theorem planRun : ∀ x0, Statement (.planRun x0) := fun _ => rfl
theorem planStop : ∀ x0, Statement (.planStop x0) := fun _ => rfl
theorem planUnload : ∀ x0, Statement (.planUnload x0) := fun _ => rfl
theorem fence : ∀ x0, Statement (.fence x0) := fun _ => rfl
theorem mark : ∀ x0, Statement (.mark x0) := fun _ => rfl
theorem hostMoverComplete : ∀ x0, Statement (.hostMoverComplete x0) := fun _ => rfl
theorem hostCmdTimeout : ∀ x0, Statement (.hostCmdTimeout x0) := fun _ => rfl
theorem coalesceTimeout : ∀ x0, Statement (.coalesceTimeout x0) := fun _ => rfl
theorem functionNormalDisableAll : ∀ x0 x1, Statement (.functionNormalDisableAll x0 x1) := fun _ _ => rfl
theorem functionForcedDisableAll : ∀ x0 x1, Statement (.functionForcedDisableAll x0 x1) := fun _ _ => rfl
theorem functionReset : ∀ x0 x1, Statement (.functionReset x0 x1) := fun _ _ => rfl
theorem functionLevelReset : ∀ x0, Statement (.functionLevelReset x0) := fun _ => rfl
theorem hotReset : Statement .hotReset := rfl
theorem vfEnableClear : Statement .vfEnableClear := rfl
theorem hostFnQbase : ∀ x0 x1 x2, Statement (.hostFnQbase x0 x1 x2) := fun _ _ _ => rfl
theorem hostFnQcount : ∀ x0 x1 x2, Statement (.hostFnQcount x0 x1 x2) := fun _ _ _ => rfl
theorem windowAccess : ∀ x0 x1 x2 x3 x4 x5, Statement (.windowAccess x0 x1 x2 x3 x4 x5) := fun _ _ _ _ _ _ => rfl
theorem timeIncr : ∀ x0 x1, Statement (.timeIncr x0 x1) := fun _ _ => rfl
theorem timeStepNs : ∀ x0 x1, Statement (.timeStepNs x0 x1) := fun _ _ => rfl
theorem offsetStepApply : Statement .offsetStepApply := rfl
theorem timeMasterPort : ∀ x0 x1, Statement (.timeMasterPort x0 x1) := fun _ _ => rfl
theorem timeNowSec : ∀ x0, Statement (.timeNowSec x0) := fun _ => rfl
theorem syncSend : Statement .syncSend := rfl
theorem syncMessage : ∀ x0, Statement (.syncMessage x0) := fun _ => rfl
theorem pdelayInitiate : Statement .pdelayInitiate := rfl
theorem pdelayReq : ∀ x0, Statement (.pdelayReq x0) := fun _ => rfl
theorem pdelayResp : ∀ x0, Statement (.pdelayResp x0) := fun _ => rfl
theorem syncLoss : Statement .syncLoss := rfl
theorem sealVote : ∀ x0, Statement (.sealVote x0) := fun _ => rfl
theorem deltaWaitExpiry : ∀ x0, Statement (.deltaWaitExpiry x0) := fun _ => rfl
theorem vote : ∀ x0 x1 x2, Statement (.vote x0 x1 x2) := fun _ _ _ => rfl
theorem commit : ∀ x0 x1, Statement (.commit x0 x1) := fun _ _ => rfl
theorem restoreComplete : ∀ x0 x1, Statement (.restoreComplete x0 x1) := fun _ _ => rfl
theorem rolled : ∀ x0 x1 x2, Statement (.rolled x0 x1 x2) := fun _ _ _ => rfl
theorem rolledResend : ∀ x0, Statement (.rolledResend x0) := fun _ => rfl
theorem resume : ∀ x0 x1, Statement (.resume x0 x1) := fun _ _ => rfl
theorem ready : ∀ x0 x1 x2, Statement (.ready x0 x1 x2) := fun _ _ _ => rfl
theorem deltaPageSend : ∀ x0, Statement (.deltaPageSend x0) := fun _ => rfl
theorem deltaPageReceive : ∀ x0, Statement (.deltaPageReceive x0) := fun _ => rfl
theorem deltaPageAck : ∀ x0 x1 x2 x3 x4, Statement (.deltaPageAck x0 x1 x2 x3 x4) := fun _ _ _ _ _ => rfl
theorem fillingPageSend : ∀ x0, Statement (.fillingPageSend x0) := fun _ => rfl
theorem mergeComplete : ∀ x0 x1, Statement (.mergeComplete x0 x1) := fun _ _ => rfl
theorem sealAdoptCmd : ∀ x0 x1 x2, Statement (.sealAdoptCmd x0 x1 x2) := fun _ _ _ => rfl
theorem adoptionPullComplete : ∀ x0 x1, Statement (.adoptionPullComplete x0 x1) := fun _ _ => rfl
theorem sealBuddy : ∀ x0 x1 x2, Statement (.sealBuddy x0 x1 x2) := fun _ _ _ => rfl
theorem heartbeatSend : Statement .heartbeatSend := rfl
theorem heartbeat : ∀ x0 x1 x2, Statement (.heartbeat x0 x1 x2) := fun _ _ _ => rfl
theorem neighbourMiss : ∀ x0, Statement (.neighbourMiss x0) := fun _ => rfl
theorem report : ∀ x0 x1, Statement (.report x0 x1) := fun _ _ => rfl
theorem probeTimeout : ∀ x0, Statement (.probeTimeout x0) := fun _ => rfl
theorem probeAnswer : ∀ x0 x1 x2, Statement (.probeAnswer x0 x1 x2) := fun _ _ _ => rfl
theorem reject : ∀ x0 x1 x2, Statement (.reject x0 x1 x2) := fun _ _ _ => rfl
theorem arbWaitExpiry : ∀ x0, Statement (.arbWaitExpiry x0) := fun _ => rfl
theorem faultNotice : ∀ x0 x1 x2, Statement (.faultNotice x0 x1 x2) := fun _ _ _ => rfl
theorem stewardCycleEnd : Statement .stewardCycleEnd := rfl
theorem stateCopy : ∀ x0 x1 x2 x3, Statement (.stateCopy x0 x1 x2 x3) := fun _ _ _ _ => rfl
theorem stateCopyMissing : Statement .stateCopyMissing := rfl
theorem clvStwCmd : ∀ x0 x1, Statement (.clvStwCmd x0 x1) := fun _ _ => rfl
theorem powerOn : ∀ x0, Statement (.powerOn x0) := fun _ => rfl
theorem porstnAssert : ∀ x0 x1, Statement (.porstnAssert x0 x1) := fun _ _ => rfl
theorem porstnHeld : Statement .porstnHeld := rfl
theorem porstnRelease : ∀ x0, Statement (.porstnRelease x0) := fun _ => rfl
theorem fccWatchdogExpiry : Statement .fccWatchdogExpiry := rfl
theorem thermalTrip : Statement .thermalTrip := rfl
theorem thermalTripClear : Statement .thermalTripClear := rfl
theorem warmReset : ∀ x0, Statement (.warmReset x0) := fun _ => rfl
theorem leaveRecoveryBoot : ∀ x0, Statement (.leaveRecoveryBoot x0) := fun _ => rfl
theorem pcieFundamentalReset : Statement .pcieFundamentalReset := rfl
theorem rstDomCmd : ∀ x0 x1 x2, Statement (.rstDomCmd x0 x1 x2) := fun _ _ _ => rfl
theorem domainResetExit : ∀ x0 x1, Statement (.domainResetExit x0 x1) := fun _ _ => rfl
theorem bringupStageEnd : ∀ x0, Statement (.bringupStageEnd x0) := fun _ => rfl
theorem pwrGoodFall : Statement .pwrGoodFall := rfl
theorem pwrGoodTimeout : Statement .pwrGoodTimeout := rfl
theorem plannedTimerExpiry : ∀ x0 x1, Statement (.plannedTimerExpiry x0 x1) := fun _ _ => rfl
theorem gatekeeperRequest : ∀ x0, Statement (.gatekeeperRequest x0) := fun _ => rfl
theorem statusReply : ∀ x0 x1 x2 x3 x4 x5, Statement (.statusReply x0 x1 x2 x3 x4 x5) := fun _ _ _ _ _ _ => rfl
theorem replyReceive : ∀ x0 x1 x2 x3 x4 x5 x6, Statement (.replyReceive x0 x1 x2 x3 x4 x5 x6) := fun _ _ _ _ _ _ _ => rfl
theorem rstImgData : ∀ x0 x1, Statement (.rstImgData x0 x1) := fun _ _ => rfl
theorem imgErase : ∀ x0, Statement (.imgErase x0) := fun _ => rfl
theorem imgCheck : ∀ x0, Statement (.imgCheck x0) := fun _ => rfl
theorem imgEraseDone : Statement .imgEraseDone := rfl
theorem imgCheckDone : ∀ x0, Statement (.imgCheckDone x0) := fun _ => rfl
theorem droopStretch : ∀ x0 x1, Statement (.droopStretch x0 x1) := fun _ _ => rfl
theorem powerCapOvershoot : Statement .powerCapOvershoot := rfl
theorem pwrCapW : ∀ x0 x1, Statement (.pwrCapW x0 x1) := fun _ _ => rfl
theorem ledgerRecord : ∀ x0, Statement (.ledgerRecord x0) := fun _ => rfl
theorem ledgerQueueDrain : Statement .ledgerQueueDrain := rfl
theorem flashProgram : ∀ x0, Statement (.flashProgram x0) := fun _ => rfl
theorem ldgFlushExpiry : ∀ x0, Statement (.ldgFlushExpiry x0) := fun _ => rfl
theorem flashEraseDone : ∀ x0 x1, Statement (.flashEraseDone x0 x1) := fun _ _ => rfl
theorem ldgClear : ∀ x0 x1, Statement (.ldgClear x0 x1) := fun _ _ => rfl
theorem ldgOvr : ∀ x0 x1 x2, Statement (.ldgOvr x0 x1 x2) := fun _ _ _ => rfl
theorem tallyStart : ∀ x0 x1, Statement (.tallyStart x0 x1) := fun _ _ => rfl
theorem tallyStop : ∀ x0 x1, Statement (.tallyStop x0 x1) := fun _ _ => rfl
theorem tallyClearLanes : ∀ x0 x1, Statement (.tallyClearLanes x0 x1) := fun _ _ => rfl
theorem tallyChunkRead : ∀ x0 x1, Statement (.tallyChunkRead x0 x1) := fun _ _ => rfl
theorem tallyScanEnd : ∀ x0, Statement (.tallyScanEnd x0) := fun _ => rfl
theorem tallyPeriod : ∀ x0, Statement (.tallyPeriod x0) := fun _ => rfl
theorem tlyLane : ∀ x0 x1 x2 x3, Statement (.tlyLane x0 x1 x2 x3) := fun _ _ _ _ => rfl
theorem odapOpen : ∀ x0, Statement (.odapOpen x0) := fun _ => rfl
theorem odapClose : ∀ x0, Statement (.odapClose x0) := fun _ => rfl
theorem sessionIdleTimeout : ∀ x0, Statement (.sessionIdleTimeout x0) := fun _ => rfl
theorem request : ∀ x0, Statement (.request x0) := fun _ => rfl
theorem relayReq : ∀ x0, Statement (.relayReq x0) := fun _ => rfl
theorem relayResp : ∀ x0, Statement (.relayResp x0) := fun _ => rfl
theorem relayTimeout : ∀ x0, Statement (.relayTimeout x0) := fun _ => rfl
theorem probe : ∀ x0, Statement (.probe x0) := fun _ => rfl
theorem status : ∀ x0, Statement (.status x0) := fun _ => rfl
theorem statusBroadcast : Statement .statusBroadcast := rfl
theorem mboxGo : ∀ x0 x1, Statement (.mboxGo x0 x1) := fun _ _ => rfl
theorem vc0MgmtRequest : ∀ x0 x1, Statement (.vc0MgmtRequest x0 x1) := fun _ _ => rfl
theorem vc0MgmtResponse : ∀ x0 x1, Statement (.vc0MgmtResponse x0 x1) := fun _ _ => rfl
theorem vc0MgmtTimeout : ∀ x0, Statement (.vc0MgmtTimeout x0) := fun _ => rfl
theorem keyWrite : ∀ x0 x1 x2, Statement (.keyWrite x0 x1 x2) := fun _ _ _ => rfl
theorem mgtKeyFabSel : ∀ x0 x1, Statement (.mgtKeyFabSel x0 x1) := fun _ _ => rfl
theorem plcaBeaconLoss : ∀ x0, Statement (.plcaBeaconLoss x0) := fun _ => rfl
theorem registerWrite : ∀ x0 x1 x2 x3 x4, Statement (.registerWrite x0 x1 x2 x3 x4) := fun _ _ _ _ _ => rfl
theorem frzAt : ∀ x0 x1, Statement (.frzAt x0 x1) := fun _ _ => rfl
theorem freezeFire : Statement .freezeFire := rfl
theorem frzPodGo : ∀ x0, Statement (.frzPodGo x0) := fun _ => rfl
theorem trcFccMark : ∀ x0 x1, Statement (.trcFccMark x0 x1) := fun _ _ => rfl
theorem traceRingDrain : ∀ x0, Statement (.traceRingDrain x0) := fun _ => rfl
theorem lifeSample : ∀ x0 x1 x2, Statement (.lifeSample x0 x1 x2) := fun _ _ _ => rfl
theorem lifeSave : Statement .lifeSave := rfl
theorem marginTestStart : Statement .marginTestStart := rfl
theorem marginStepDone : ∀ x0, Statement (.marginStepDone x0) := fun _ => rfl
theorem timeCounterTick : Statement .timeCounterTick := rfl
theorem flitCrcFailure : ∀ x0 x1, Statement (.flitCrcFailure x0 x1) := fun _ _ => rfl
theorem fecAligned : ∀ x0 x1 x2, Statement (.fecAligned x0 x1 x2) := fun _ _ _ => rfl
theorem clockLockAcquired : Statement .clockLockAcquired := rfl
theorem pwrGoodRise : Statement .pwrGoodRise := rfl
theorem standbyPowerLoss : Statement .standbyPowerLoss := rfl
theorem orderlyShutdown : Statement .orderlyShutdown := rfl
theorem policyClamp : ∀ x0 x1, Statement (.policyClamp x0 x1) := fun _ _ => rfl
theorem powerCapHold : ∀ x0, Statement (.powerCapHold x0) := fun _ => rfl
theorem penaltyPointDecay : ∀ x0, Statement (.penaltyPointDecay x0) := fun _ => rfl
theorem delayedRollbackStart : ∀ x0, Statement (.delayedRollbackStart x0) := fun _ => rfl
theorem pcieLinkUpOrDown : ∀ x0 x1 x2, Statement (.pcieLinkUpOrDown x0 x1 x2) := fun _ _ _ => rfl
theorem aerUncorrectableError : ∀ x0 x1, Statement (.aerUncorrectableError x0 x1) := fun _ _ => rfl
theorem atsInvalidation : ∀ x0 x1, Statement (.atsInvalidation x0 x1) := fun _ _ => rfl
theorem vfEnableSet : ∀ x0, Statement (.vfEnableSet x0) := fun _ => rfl
theorem perstRelease : Statement .perstRelease := rfl
theorem rcRead : ∀ x0 x1, Statement (.rcRead x0 x1) := fun _ _ => rfl
theorem hbmRefresh : ∀ x0 x1, Statement (.hbmRefresh x0 x1) := fun _ _ => rfl

end Sys2Proof.Laws.Placed
end

