-- ==== Sys2Proof/Laws/State.lean ====
section
/-! SUPPORT. What each update of a field leaves and sets, so that no later proof unfolds a record update. -/

namespace Sys2Proof.Machine

open Sys2Proof

variable (s : State)

/-! ### setOd -/

@[simp] theorem State.setOd_pending (x : Map Nat) : (s.setOd x).pending = s.pending := rfl
@[simp] theorem State.setOd_od (x : Map Nat) : (s.setOd x).od = x := rfl
@[simp] theorem State.setOd_odBytes (x : Map Nat) : (s.setOd x).odBytes = s.odBytes := rfl
@[simp] theorem State.setOd_mem (x : Map Nat) : (s.setOd x).mem = s.mem := rfl
@[simp] theorem State.setOd_poison (x : Map Nat) : (s.setOd x).poison = s.poison := rfl
@[simp] theorem State.setOd_time (x : Map Nat) : (s.setOd x).time = s.time := rfl
@[simp] theorem State.setOd_blocks (x : Map Nat) : (s.setOd x).blocks = s.blocks := rfl
@[simp] theorem State.setOd_parts (x : Map Nat) : (s.setOd x).parts = s.parts := rfl
@[simp] theorem State.setOd_buddies (x : Map Nat) : (s.setOd x).buddies = s.buddies := rfl
@[simp] theorem State.setOd_msys (x : Map Nat) : (s.setOd x).msys = s.msys := rfl
@[simp] theorem State.setOd_ports (x : Map Nat) : (s.setOd x).ports = s.ports := rfl
@[simp] theorem State.setOd_lasers (x : Map Nat) : (s.setOd x).lasers = s.lasers := rfl
@[simp] theorem State.setOd_router (x : Map Nat) : (s.setOd x).router = s.router := rfl
@[simp] theorem State.setOd_host (x : Map Nat) : (s.setOd x).host = s.host := rfl
@[simp] theorem State.setOd_clover (x : Map Nat) : (s.setOd x).clover = s.clover := rfl
@[simp] theorem State.setOd_rst (x : Map Nat) : (s.setOd x).rst = s.rst := rfl
@[simp] theorem State.setOd_power (x : Map Nat) : (s.setOd x).power = s.power := rfl
@[simp] theorem State.setOd_ledger (x : Map Nat) : (s.setOd x).ledger = s.ledger := rfl
@[simp] theorem State.setOd_tally (x : Map Nat) : (s.setOd x).tally = s.tally := rfl
@[simp] theorem State.setOd_mgmt (x : Map Nat) : (s.setOd x).mgmt = s.mgmt := rfl
@[simp] theorem State.setOd_obs (x : Map Nat) : (s.setOd x).obs = s.obs := rfl
@[simp] theorem State.setOd_outbox (x : Map Nat) : (s.setOd x).outbox = s.outbox := rfl
@[simp] theorem State.setOd_free (x : Map Nat) : (s.setOd x).free = s.free := rfl

/-! ### setOdBytes -/

@[simp] theorem State.setOdBytes_pending (x : Map (List Byte)) : (s.setOdBytes x).pending = s.pending := rfl
@[simp] theorem State.setOdBytes_od (x : Map (List Byte)) : (s.setOdBytes x).od = s.od := rfl
@[simp] theorem State.setOdBytes_odBytes (x : Map (List Byte)) : (s.setOdBytes x).odBytes = x := rfl
@[simp] theorem State.setOdBytes_mem (x : Map (List Byte)) : (s.setOdBytes x).mem = s.mem := rfl
@[simp] theorem State.setOdBytes_poison (x : Map (List Byte)) : (s.setOdBytes x).poison = s.poison := rfl
@[simp] theorem State.setOdBytes_time (x : Map (List Byte)) : (s.setOdBytes x).time = s.time := rfl
@[simp] theorem State.setOdBytes_blocks (x : Map (List Byte)) : (s.setOdBytes x).blocks = s.blocks := rfl
@[simp] theorem State.setOdBytes_parts (x : Map (List Byte)) : (s.setOdBytes x).parts = s.parts := rfl
@[simp] theorem State.setOdBytes_buddies (x : Map (List Byte)) : (s.setOdBytes x).buddies = s.buddies := rfl
@[simp] theorem State.setOdBytes_msys (x : Map (List Byte)) : (s.setOdBytes x).msys = s.msys := rfl
@[simp] theorem State.setOdBytes_ports (x : Map (List Byte)) : (s.setOdBytes x).ports = s.ports := rfl
@[simp] theorem State.setOdBytes_lasers (x : Map (List Byte)) : (s.setOdBytes x).lasers = s.lasers := rfl
@[simp] theorem State.setOdBytes_router (x : Map (List Byte)) : (s.setOdBytes x).router = s.router := rfl
@[simp] theorem State.setOdBytes_host (x : Map (List Byte)) : (s.setOdBytes x).host = s.host := rfl
@[simp] theorem State.setOdBytes_clover (x : Map (List Byte)) : (s.setOdBytes x).clover = s.clover := rfl
@[simp] theorem State.setOdBytes_rst (x : Map (List Byte)) : (s.setOdBytes x).rst = s.rst := rfl
@[simp] theorem State.setOdBytes_power (x : Map (List Byte)) : (s.setOdBytes x).power = s.power := rfl
@[simp] theorem State.setOdBytes_ledger (x : Map (List Byte)) : (s.setOdBytes x).ledger = s.ledger := rfl
@[simp] theorem State.setOdBytes_tally (x : Map (List Byte)) : (s.setOdBytes x).tally = s.tally := rfl
@[simp] theorem State.setOdBytes_mgmt (x : Map (List Byte)) : (s.setOdBytes x).mgmt = s.mgmt := rfl
@[simp] theorem State.setOdBytes_obs (x : Map (List Byte)) : (s.setOdBytes x).obs = s.obs := rfl
@[simp] theorem State.setOdBytes_outbox (x : Map (List Byte)) : (s.setOdBytes x).outbox = s.outbox := rfl
@[simp] theorem State.setOdBytes_free (x : Map (List Byte)) : (s.setOdBytes x).free = s.free := rfl

/-! ### setMem -/

@[simp] theorem State.setMem_pending (x : List Host.Cell) : (s.setMem x).pending = s.pending := rfl
@[simp] theorem State.setMem_od (x : List Host.Cell) : (s.setMem x).od = s.od := rfl
@[simp] theorem State.setMem_odBytes (x : List Host.Cell) : (s.setMem x).odBytes = s.odBytes := rfl
@[simp] theorem State.setMem_mem (x : List Host.Cell) : (s.setMem x).mem = x := rfl
@[simp] theorem State.setMem_poison (x : List Host.Cell) : (s.setMem x).poison = s.poison := rfl
@[simp] theorem State.setMem_time (x : List Host.Cell) : (s.setMem x).time = s.time := rfl
@[simp] theorem State.setMem_blocks (x : List Host.Cell) : (s.setMem x).blocks = s.blocks := rfl
@[simp] theorem State.setMem_parts (x : List Host.Cell) : (s.setMem x).parts = s.parts := rfl
@[simp] theorem State.setMem_buddies (x : List Host.Cell) : (s.setMem x).buddies = s.buddies := rfl
@[simp] theorem State.setMem_msys (x : List Host.Cell) : (s.setMem x).msys = s.msys := rfl
@[simp] theorem State.setMem_ports (x : List Host.Cell) : (s.setMem x).ports = s.ports := rfl
@[simp] theorem State.setMem_lasers (x : List Host.Cell) : (s.setMem x).lasers = s.lasers := rfl
@[simp] theorem State.setMem_router (x : List Host.Cell) : (s.setMem x).router = s.router := rfl
@[simp] theorem State.setMem_host (x : List Host.Cell) : (s.setMem x).host = s.host := rfl
@[simp] theorem State.setMem_clover (x : List Host.Cell) : (s.setMem x).clover = s.clover := rfl
@[simp] theorem State.setMem_rst (x : List Host.Cell) : (s.setMem x).rst = s.rst := rfl
@[simp] theorem State.setMem_power (x : List Host.Cell) : (s.setMem x).power = s.power := rfl
@[simp] theorem State.setMem_ledger (x : List Host.Cell) : (s.setMem x).ledger = s.ledger := rfl
@[simp] theorem State.setMem_tally (x : List Host.Cell) : (s.setMem x).tally = s.tally := rfl
@[simp] theorem State.setMem_mgmt (x : List Host.Cell) : (s.setMem x).mgmt = s.mgmt := rfl
@[simp] theorem State.setMem_obs (x : List Host.Cell) : (s.setMem x).obs = s.obs := rfl
@[simp] theorem State.setMem_outbox (x : List Host.Cell) : (s.setMem x).outbox = s.outbox := rfl
@[simp] theorem State.setMem_free (x : List Host.Cell) : (s.setMem x).free = s.free := rfl

/-! ### setPoison -/

@[simp] theorem State.setPoison_pending (x : List Nat) : (s.setPoison x).pending = s.pending := rfl
@[simp] theorem State.setPoison_od (x : List Nat) : (s.setPoison x).od = s.od := rfl
@[simp] theorem State.setPoison_odBytes (x : List Nat) : (s.setPoison x).odBytes = s.odBytes := rfl
@[simp] theorem State.setPoison_mem (x : List Nat) : (s.setPoison x).mem = s.mem := rfl
@[simp] theorem State.setPoison_poison (x : List Nat) : (s.setPoison x).poison = x := rfl
@[simp] theorem State.setPoison_time (x : List Nat) : (s.setPoison x).time = s.time := rfl
@[simp] theorem State.setPoison_blocks (x : List Nat) : (s.setPoison x).blocks = s.blocks := rfl
@[simp] theorem State.setPoison_parts (x : List Nat) : (s.setPoison x).parts = s.parts := rfl
@[simp] theorem State.setPoison_buddies (x : List Nat) : (s.setPoison x).buddies = s.buddies := rfl
@[simp] theorem State.setPoison_msys (x : List Nat) : (s.setPoison x).msys = s.msys := rfl
@[simp] theorem State.setPoison_ports (x : List Nat) : (s.setPoison x).ports = s.ports := rfl
@[simp] theorem State.setPoison_lasers (x : List Nat) : (s.setPoison x).lasers = s.lasers := rfl
@[simp] theorem State.setPoison_router (x : List Nat) : (s.setPoison x).router = s.router := rfl
@[simp] theorem State.setPoison_host (x : List Nat) : (s.setPoison x).host = s.host := rfl
@[simp] theorem State.setPoison_clover (x : List Nat) : (s.setPoison x).clover = s.clover := rfl
@[simp] theorem State.setPoison_rst (x : List Nat) : (s.setPoison x).rst = s.rst := rfl
@[simp] theorem State.setPoison_power (x : List Nat) : (s.setPoison x).power = s.power := rfl
@[simp] theorem State.setPoison_ledger (x : List Nat) : (s.setPoison x).ledger = s.ledger := rfl
@[simp] theorem State.setPoison_tally (x : List Nat) : (s.setPoison x).tally = s.tally := rfl
@[simp] theorem State.setPoison_mgmt (x : List Nat) : (s.setPoison x).mgmt = s.mgmt := rfl
@[simp] theorem State.setPoison_obs (x : List Nat) : (s.setPoison x).obs = s.obs := rfl
@[simp] theorem State.setPoison_outbox (x : List Nat) : (s.setPoison x).outbox = s.outbox := rfl
@[simp] theorem State.setPoison_free (x : List Nat) : (s.setPoison x).free = s.free := rfl

/-! ### setTime -/

@[simp] theorem State.setTime_pending (x : TimeUnit) : (s.setTime x).pending = s.pending := rfl
@[simp] theorem State.setTime_od (x : TimeUnit) : (s.setTime x).od = s.od := rfl
@[simp] theorem State.setTime_odBytes (x : TimeUnit) : (s.setTime x).odBytes = s.odBytes := rfl
@[simp] theorem State.setTime_mem (x : TimeUnit) : (s.setTime x).mem = s.mem := rfl
@[simp] theorem State.setTime_poison (x : TimeUnit) : (s.setTime x).poison = s.poison := rfl
@[simp] theorem State.setTime_time (x : TimeUnit) : (s.setTime x).time = x := rfl
@[simp] theorem State.setTime_blocks (x : TimeUnit) : (s.setTime x).blocks = s.blocks := rfl
@[simp] theorem State.setTime_parts (x : TimeUnit) : (s.setTime x).parts = s.parts := rfl
@[simp] theorem State.setTime_buddies (x : TimeUnit) : (s.setTime x).buddies = s.buddies := rfl
@[simp] theorem State.setTime_msys (x : TimeUnit) : (s.setTime x).msys = s.msys := rfl
@[simp] theorem State.setTime_ports (x : TimeUnit) : (s.setTime x).ports = s.ports := rfl
@[simp] theorem State.setTime_lasers (x : TimeUnit) : (s.setTime x).lasers = s.lasers := rfl
@[simp] theorem State.setTime_router (x : TimeUnit) : (s.setTime x).router = s.router := rfl
@[simp] theorem State.setTime_host (x : TimeUnit) : (s.setTime x).host = s.host := rfl
@[simp] theorem State.setTime_clover (x : TimeUnit) : (s.setTime x).clover = s.clover := rfl
@[simp] theorem State.setTime_rst (x : TimeUnit) : (s.setTime x).rst = s.rst := rfl
@[simp] theorem State.setTime_power (x : TimeUnit) : (s.setTime x).power = s.power := rfl
@[simp] theorem State.setTime_ledger (x : TimeUnit) : (s.setTime x).ledger = s.ledger := rfl
@[simp] theorem State.setTime_tally (x : TimeUnit) : (s.setTime x).tally = s.tally := rfl
@[simp] theorem State.setTime_mgmt (x : TimeUnit) : (s.setTime x).mgmt = s.mgmt := rfl
@[simp] theorem State.setTime_obs (x : TimeUnit) : (s.setTime x).obs = s.obs := rfl
@[simp] theorem State.setTime_outbox (x : TimeUnit) : (s.setTime x).outbox = s.outbox := rfl
@[simp] theorem State.setTime_free (x : TimeUnit) : (s.setTime x).free = s.free := rfl

/-! ### setBlocks -/

@[simp] theorem State.setBlocks_pending (x : Map Block) : (s.setBlocks x).pending = s.pending := rfl
@[simp] theorem State.setBlocks_od (x : Map Block) : (s.setBlocks x).od = s.od := rfl
@[simp] theorem State.setBlocks_odBytes (x : Map Block) : (s.setBlocks x).odBytes = s.odBytes := rfl
@[simp] theorem State.setBlocks_mem (x : Map Block) : (s.setBlocks x).mem = s.mem := rfl
@[simp] theorem State.setBlocks_poison (x : Map Block) : (s.setBlocks x).poison = s.poison := rfl
@[simp] theorem State.setBlocks_time (x : Map Block) : (s.setBlocks x).time = s.time := rfl
@[simp] theorem State.setBlocks_blocks (x : Map Block) : (s.setBlocks x).blocks = x := rfl
@[simp] theorem State.setBlocks_parts (x : Map Block) : (s.setBlocks x).parts = s.parts := rfl
@[simp] theorem State.setBlocks_buddies (x : Map Block) : (s.setBlocks x).buddies = s.buddies := rfl
@[simp] theorem State.setBlocks_msys (x : Map Block) : (s.setBlocks x).msys = s.msys := rfl
@[simp] theorem State.setBlocks_ports (x : Map Block) : (s.setBlocks x).ports = s.ports := rfl
@[simp] theorem State.setBlocks_lasers (x : Map Block) : (s.setBlocks x).lasers = s.lasers := rfl
@[simp] theorem State.setBlocks_router (x : Map Block) : (s.setBlocks x).router = s.router := rfl
@[simp] theorem State.setBlocks_host (x : Map Block) : (s.setBlocks x).host = s.host := rfl
@[simp] theorem State.setBlocks_clover (x : Map Block) : (s.setBlocks x).clover = s.clover := rfl
@[simp] theorem State.setBlocks_rst (x : Map Block) : (s.setBlocks x).rst = s.rst := rfl
@[simp] theorem State.setBlocks_power (x : Map Block) : (s.setBlocks x).power = s.power := rfl
@[simp] theorem State.setBlocks_ledger (x : Map Block) : (s.setBlocks x).ledger = s.ledger := rfl
@[simp] theorem State.setBlocks_tally (x : Map Block) : (s.setBlocks x).tally = s.tally := rfl
@[simp] theorem State.setBlocks_mgmt (x : Map Block) : (s.setBlocks x).mgmt = s.mgmt := rfl
@[simp] theorem State.setBlocks_obs (x : Map Block) : (s.setBlocks x).obs = s.obs := rfl
@[simp] theorem State.setBlocks_outbox (x : Map Block) : (s.setBlocks x).outbox = s.outbox := rfl
@[simp] theorem State.setBlocks_free (x : Map Block) : (s.setBlocks x).free = s.free := rfl

/-! ### setParts -/

@[simp] theorem State.setParts_pending (x : Map Part) : (s.setParts x).pending = s.pending := rfl
@[simp] theorem State.setParts_od (x : Map Part) : (s.setParts x).od = s.od := rfl
@[simp] theorem State.setParts_odBytes (x : Map Part) : (s.setParts x).odBytes = s.odBytes := rfl
@[simp] theorem State.setParts_mem (x : Map Part) : (s.setParts x).mem = s.mem := rfl
@[simp] theorem State.setParts_poison (x : Map Part) : (s.setParts x).poison = s.poison := rfl
@[simp] theorem State.setParts_time (x : Map Part) : (s.setParts x).time = s.time := rfl
@[simp] theorem State.setParts_blocks (x : Map Part) : (s.setParts x).blocks = s.blocks := rfl
@[simp] theorem State.setParts_parts (x : Map Part) : (s.setParts x).parts = x := rfl
@[simp] theorem State.setParts_buddies (x : Map Part) : (s.setParts x).buddies = s.buddies := rfl
@[simp] theorem State.setParts_msys (x : Map Part) : (s.setParts x).msys = s.msys := rfl
@[simp] theorem State.setParts_ports (x : Map Part) : (s.setParts x).ports = s.ports := rfl
@[simp] theorem State.setParts_lasers (x : Map Part) : (s.setParts x).lasers = s.lasers := rfl
@[simp] theorem State.setParts_router (x : Map Part) : (s.setParts x).router = s.router := rfl
@[simp] theorem State.setParts_host (x : Map Part) : (s.setParts x).host = s.host := rfl
@[simp] theorem State.setParts_clover (x : Map Part) : (s.setParts x).clover = s.clover := rfl
@[simp] theorem State.setParts_rst (x : Map Part) : (s.setParts x).rst = s.rst := rfl
@[simp] theorem State.setParts_power (x : Map Part) : (s.setParts x).power = s.power := rfl
@[simp] theorem State.setParts_ledger (x : Map Part) : (s.setParts x).ledger = s.ledger := rfl
@[simp] theorem State.setParts_tally (x : Map Part) : (s.setParts x).tally = s.tally := rfl
@[simp] theorem State.setParts_mgmt (x : Map Part) : (s.setParts x).mgmt = s.mgmt := rfl
@[simp] theorem State.setParts_obs (x : Map Part) : (s.setParts x).obs = s.obs := rfl
@[simp] theorem State.setParts_outbox (x : Map Part) : (s.setParts x).outbox = s.outbox := rfl
@[simp] theorem State.setParts_free (x : Map Part) : (s.setParts x).free = s.free := rfl

/-! ### setBuddies -/

@[simp] theorem State.setBuddies_pending (x : List BuddyArea) : (s.setBuddies x).pending = s.pending := rfl
@[simp] theorem State.setBuddies_od (x : List BuddyArea) : (s.setBuddies x).od = s.od := rfl
@[simp] theorem State.setBuddies_odBytes (x : List BuddyArea) : (s.setBuddies x).odBytes = s.odBytes := rfl
@[simp] theorem State.setBuddies_mem (x : List BuddyArea) : (s.setBuddies x).mem = s.mem := rfl
@[simp] theorem State.setBuddies_poison (x : List BuddyArea) : (s.setBuddies x).poison = s.poison := rfl
@[simp] theorem State.setBuddies_time (x : List BuddyArea) : (s.setBuddies x).time = s.time := rfl
@[simp] theorem State.setBuddies_blocks (x : List BuddyArea) : (s.setBuddies x).blocks = s.blocks := rfl
@[simp] theorem State.setBuddies_parts (x : List BuddyArea) : (s.setBuddies x).parts = s.parts := rfl
@[simp] theorem State.setBuddies_buddies (x : List BuddyArea) : (s.setBuddies x).buddies = x := rfl
@[simp] theorem State.setBuddies_msys (x : List BuddyArea) : (s.setBuddies x).msys = s.msys := rfl
@[simp] theorem State.setBuddies_ports (x : List BuddyArea) : (s.setBuddies x).ports = s.ports := rfl
@[simp] theorem State.setBuddies_lasers (x : List BuddyArea) : (s.setBuddies x).lasers = s.lasers := rfl
@[simp] theorem State.setBuddies_router (x : List BuddyArea) : (s.setBuddies x).router = s.router := rfl
@[simp] theorem State.setBuddies_host (x : List BuddyArea) : (s.setBuddies x).host = s.host := rfl
@[simp] theorem State.setBuddies_clover (x : List BuddyArea) : (s.setBuddies x).clover = s.clover := rfl
@[simp] theorem State.setBuddies_rst (x : List BuddyArea) : (s.setBuddies x).rst = s.rst := rfl
@[simp] theorem State.setBuddies_power (x : List BuddyArea) : (s.setBuddies x).power = s.power := rfl
@[simp] theorem State.setBuddies_ledger (x : List BuddyArea) : (s.setBuddies x).ledger = s.ledger := rfl
@[simp] theorem State.setBuddies_tally (x : List BuddyArea) : (s.setBuddies x).tally = s.tally := rfl
@[simp] theorem State.setBuddies_mgmt (x : List BuddyArea) : (s.setBuddies x).mgmt = s.mgmt := rfl
@[simp] theorem State.setBuddies_obs (x : List BuddyArea) : (s.setBuddies x).obs = s.obs := rfl
@[simp] theorem State.setBuddies_outbox (x : List BuddyArea) : (s.setBuddies x).outbox = s.outbox := rfl
@[simp] theorem State.setBuddies_free (x : List BuddyArea) : (s.setBuddies x).free = s.free := rfl

/-! ### setMsys -/

@[simp] theorem State.setMsys_pending (x : MemSys) : (s.setMsys x).pending = s.pending := rfl
@[simp] theorem State.setMsys_od (x : MemSys) : (s.setMsys x).od = s.od := rfl
@[simp] theorem State.setMsys_odBytes (x : MemSys) : (s.setMsys x).odBytes = s.odBytes := rfl
@[simp] theorem State.setMsys_mem (x : MemSys) : (s.setMsys x).mem = s.mem := rfl
@[simp] theorem State.setMsys_poison (x : MemSys) : (s.setMsys x).poison = s.poison := rfl
@[simp] theorem State.setMsys_time (x : MemSys) : (s.setMsys x).time = s.time := rfl
@[simp] theorem State.setMsys_blocks (x : MemSys) : (s.setMsys x).blocks = s.blocks := rfl
@[simp] theorem State.setMsys_parts (x : MemSys) : (s.setMsys x).parts = s.parts := rfl
@[simp] theorem State.setMsys_buddies (x : MemSys) : (s.setMsys x).buddies = s.buddies := rfl
@[simp] theorem State.setMsys_msys (x : MemSys) : (s.setMsys x).msys = x := rfl
@[simp] theorem State.setMsys_ports (x : MemSys) : (s.setMsys x).ports = s.ports := rfl
@[simp] theorem State.setMsys_lasers (x : MemSys) : (s.setMsys x).lasers = s.lasers := rfl
@[simp] theorem State.setMsys_router (x : MemSys) : (s.setMsys x).router = s.router := rfl
@[simp] theorem State.setMsys_host (x : MemSys) : (s.setMsys x).host = s.host := rfl
@[simp] theorem State.setMsys_clover (x : MemSys) : (s.setMsys x).clover = s.clover := rfl
@[simp] theorem State.setMsys_rst (x : MemSys) : (s.setMsys x).rst = s.rst := rfl
@[simp] theorem State.setMsys_power (x : MemSys) : (s.setMsys x).power = s.power := rfl
@[simp] theorem State.setMsys_ledger (x : MemSys) : (s.setMsys x).ledger = s.ledger := rfl
@[simp] theorem State.setMsys_tally (x : MemSys) : (s.setMsys x).tally = s.tally := rfl
@[simp] theorem State.setMsys_mgmt (x : MemSys) : (s.setMsys x).mgmt = s.mgmt := rfl
@[simp] theorem State.setMsys_obs (x : MemSys) : (s.setMsys x).obs = s.obs := rfl
@[simp] theorem State.setMsys_outbox (x : MemSys) : (s.setMsys x).outbox = s.outbox := rfl
@[simp] theorem State.setMsys_free (x : MemSys) : (s.setMsys x).free = s.free := rfl

/-! ### setPorts -/

@[simp] theorem State.setPorts_pending (x : Map Port) : (s.setPorts x).pending = s.pending := rfl
@[simp] theorem State.setPorts_od (x : Map Port) : (s.setPorts x).od = s.od := rfl
@[simp] theorem State.setPorts_odBytes (x : Map Port) : (s.setPorts x).odBytes = s.odBytes := rfl
@[simp] theorem State.setPorts_mem (x : Map Port) : (s.setPorts x).mem = s.mem := rfl
@[simp] theorem State.setPorts_poison (x : Map Port) : (s.setPorts x).poison = s.poison := rfl
@[simp] theorem State.setPorts_time (x : Map Port) : (s.setPorts x).time = s.time := rfl
@[simp] theorem State.setPorts_blocks (x : Map Port) : (s.setPorts x).blocks = s.blocks := rfl
@[simp] theorem State.setPorts_parts (x : Map Port) : (s.setPorts x).parts = s.parts := rfl
@[simp] theorem State.setPorts_buddies (x : Map Port) : (s.setPorts x).buddies = s.buddies := rfl
@[simp] theorem State.setPorts_msys (x : Map Port) : (s.setPorts x).msys = s.msys := rfl
@[simp] theorem State.setPorts_ports (x : Map Port) : (s.setPorts x).ports = x := rfl
@[simp] theorem State.setPorts_lasers (x : Map Port) : (s.setPorts x).lasers = s.lasers := rfl
@[simp] theorem State.setPorts_router (x : Map Port) : (s.setPorts x).router = s.router := rfl
@[simp] theorem State.setPorts_host (x : Map Port) : (s.setPorts x).host = s.host := rfl
@[simp] theorem State.setPorts_clover (x : Map Port) : (s.setPorts x).clover = s.clover := rfl
@[simp] theorem State.setPorts_rst (x : Map Port) : (s.setPorts x).rst = s.rst := rfl
@[simp] theorem State.setPorts_power (x : Map Port) : (s.setPorts x).power = s.power := rfl
@[simp] theorem State.setPorts_ledger (x : Map Port) : (s.setPorts x).ledger = s.ledger := rfl
@[simp] theorem State.setPorts_tally (x : Map Port) : (s.setPorts x).tally = s.tally := rfl
@[simp] theorem State.setPorts_mgmt (x : Map Port) : (s.setPorts x).mgmt = s.mgmt := rfl
@[simp] theorem State.setPorts_obs (x : Map Port) : (s.setPorts x).obs = s.obs := rfl
@[simp] theorem State.setPorts_outbox (x : Map Port) : (s.setPorts x).outbox = s.outbox := rfl
@[simp] theorem State.setPorts_free (x : Map Port) : (s.setPorts x).free = s.free := rfl

/-! ### setLasers -/

@[simp] theorem State.setLasers_pending (x : Map Laser) : (s.setLasers x).pending = s.pending := rfl
@[simp] theorem State.setLasers_od (x : Map Laser) : (s.setLasers x).od = s.od := rfl
@[simp] theorem State.setLasers_odBytes (x : Map Laser) : (s.setLasers x).odBytes = s.odBytes := rfl
@[simp] theorem State.setLasers_mem (x : Map Laser) : (s.setLasers x).mem = s.mem := rfl
@[simp] theorem State.setLasers_poison (x : Map Laser) : (s.setLasers x).poison = s.poison := rfl
@[simp] theorem State.setLasers_time (x : Map Laser) : (s.setLasers x).time = s.time := rfl
@[simp] theorem State.setLasers_blocks (x : Map Laser) : (s.setLasers x).blocks = s.blocks := rfl
@[simp] theorem State.setLasers_parts (x : Map Laser) : (s.setLasers x).parts = s.parts := rfl
@[simp] theorem State.setLasers_buddies (x : Map Laser) : (s.setLasers x).buddies = s.buddies := rfl
@[simp] theorem State.setLasers_msys (x : Map Laser) : (s.setLasers x).msys = s.msys := rfl
@[simp] theorem State.setLasers_ports (x : Map Laser) : (s.setLasers x).ports = s.ports := rfl
@[simp] theorem State.setLasers_lasers (x : Map Laser) : (s.setLasers x).lasers = x := rfl
@[simp] theorem State.setLasers_router (x : Map Laser) : (s.setLasers x).router = s.router := rfl
@[simp] theorem State.setLasers_host (x : Map Laser) : (s.setLasers x).host = s.host := rfl
@[simp] theorem State.setLasers_clover (x : Map Laser) : (s.setLasers x).clover = s.clover := rfl
@[simp] theorem State.setLasers_rst (x : Map Laser) : (s.setLasers x).rst = s.rst := rfl
@[simp] theorem State.setLasers_power (x : Map Laser) : (s.setLasers x).power = s.power := rfl
@[simp] theorem State.setLasers_ledger (x : Map Laser) : (s.setLasers x).ledger = s.ledger := rfl
@[simp] theorem State.setLasers_tally (x : Map Laser) : (s.setLasers x).tally = s.tally := rfl
@[simp] theorem State.setLasers_mgmt (x : Map Laser) : (s.setLasers x).mgmt = s.mgmt := rfl
@[simp] theorem State.setLasers_obs (x : Map Laser) : (s.setLasers x).obs = s.obs := rfl
@[simp] theorem State.setLasers_outbox (x : Map Laser) : (s.setLasers x).outbox = s.outbox := rfl
@[simp] theorem State.setLasers_free (x : Map Laser) : (s.setLasers x).free = s.free := rfl

/-! ### setRouter -/

@[simp] theorem State.setRouter_pending (x : Router) : (s.setRouter x).pending = s.pending := rfl
@[simp] theorem State.setRouter_od (x : Router) : (s.setRouter x).od = s.od := rfl
@[simp] theorem State.setRouter_odBytes (x : Router) : (s.setRouter x).odBytes = s.odBytes := rfl
@[simp] theorem State.setRouter_mem (x : Router) : (s.setRouter x).mem = s.mem := rfl
@[simp] theorem State.setRouter_poison (x : Router) : (s.setRouter x).poison = s.poison := rfl
@[simp] theorem State.setRouter_time (x : Router) : (s.setRouter x).time = s.time := rfl
@[simp] theorem State.setRouter_blocks (x : Router) : (s.setRouter x).blocks = s.blocks := rfl
@[simp] theorem State.setRouter_parts (x : Router) : (s.setRouter x).parts = s.parts := rfl
@[simp] theorem State.setRouter_buddies (x : Router) : (s.setRouter x).buddies = s.buddies := rfl
@[simp] theorem State.setRouter_msys (x : Router) : (s.setRouter x).msys = s.msys := rfl
@[simp] theorem State.setRouter_ports (x : Router) : (s.setRouter x).ports = s.ports := rfl
@[simp] theorem State.setRouter_lasers (x : Router) : (s.setRouter x).lasers = s.lasers := rfl
@[simp] theorem State.setRouter_router (x : Router) : (s.setRouter x).router = x := rfl
@[simp] theorem State.setRouter_host (x : Router) : (s.setRouter x).host = s.host := rfl
@[simp] theorem State.setRouter_clover (x : Router) : (s.setRouter x).clover = s.clover := rfl
@[simp] theorem State.setRouter_rst (x : Router) : (s.setRouter x).rst = s.rst := rfl
@[simp] theorem State.setRouter_power (x : Router) : (s.setRouter x).power = s.power := rfl
@[simp] theorem State.setRouter_ledger (x : Router) : (s.setRouter x).ledger = s.ledger := rfl
@[simp] theorem State.setRouter_tally (x : Router) : (s.setRouter x).tally = s.tally := rfl
@[simp] theorem State.setRouter_mgmt (x : Router) : (s.setRouter x).mgmt = s.mgmt := rfl
@[simp] theorem State.setRouter_obs (x : Router) : (s.setRouter x).obs = s.obs := rfl
@[simp] theorem State.setRouter_outbox (x : Router) : (s.setRouter x).outbox = s.outbox := rfl
@[simp] theorem State.setRouter_free (x : Router) : (s.setRouter x).free = s.free := rfl

/-! ### setHost -/

@[simp] theorem State.setHost_pending (x : HostIf) : (s.setHost x).pending = s.pending := rfl
@[simp] theorem State.setHost_od (x : HostIf) : (s.setHost x).od = s.od := rfl
@[simp] theorem State.setHost_odBytes (x : HostIf) : (s.setHost x).odBytes = s.odBytes := rfl
@[simp] theorem State.setHost_mem (x : HostIf) : (s.setHost x).mem = s.mem := rfl
@[simp] theorem State.setHost_poison (x : HostIf) : (s.setHost x).poison = s.poison := rfl
@[simp] theorem State.setHost_time (x : HostIf) : (s.setHost x).time = s.time := rfl
@[simp] theorem State.setHost_blocks (x : HostIf) : (s.setHost x).blocks = s.blocks := rfl
@[simp] theorem State.setHost_parts (x : HostIf) : (s.setHost x).parts = s.parts := rfl
@[simp] theorem State.setHost_buddies (x : HostIf) : (s.setHost x).buddies = s.buddies := rfl
@[simp] theorem State.setHost_msys (x : HostIf) : (s.setHost x).msys = s.msys := rfl
@[simp] theorem State.setHost_ports (x : HostIf) : (s.setHost x).ports = s.ports := rfl
@[simp] theorem State.setHost_lasers (x : HostIf) : (s.setHost x).lasers = s.lasers := rfl
@[simp] theorem State.setHost_router (x : HostIf) : (s.setHost x).router = s.router := rfl
@[simp] theorem State.setHost_host (x : HostIf) : (s.setHost x).host = x := rfl
@[simp] theorem State.setHost_clover (x : HostIf) : (s.setHost x).clover = s.clover := rfl
@[simp] theorem State.setHost_rst (x : HostIf) : (s.setHost x).rst = s.rst := rfl
@[simp] theorem State.setHost_power (x : HostIf) : (s.setHost x).power = s.power := rfl
@[simp] theorem State.setHost_ledger (x : HostIf) : (s.setHost x).ledger = s.ledger := rfl
@[simp] theorem State.setHost_tally (x : HostIf) : (s.setHost x).tally = s.tally := rfl
@[simp] theorem State.setHost_mgmt (x : HostIf) : (s.setHost x).mgmt = s.mgmt := rfl
@[simp] theorem State.setHost_obs (x : HostIf) : (s.setHost x).obs = s.obs := rfl
@[simp] theorem State.setHost_outbox (x : HostIf) : (s.setHost x).outbox = s.outbox := rfl
@[simp] theorem State.setHost_free (x : HostIf) : (s.setHost x).free = s.free := rfl

/-! ### setClover -/

@[simp] theorem State.setClover_pending (x : Clover) : (s.setClover x).pending = s.pending := rfl
@[simp] theorem State.setClover_od (x : Clover) : (s.setClover x).od = s.od := rfl
@[simp] theorem State.setClover_odBytes (x : Clover) : (s.setClover x).odBytes = s.odBytes := rfl
@[simp] theorem State.setClover_mem (x : Clover) : (s.setClover x).mem = s.mem := rfl
@[simp] theorem State.setClover_poison (x : Clover) : (s.setClover x).poison = s.poison := rfl
@[simp] theorem State.setClover_time (x : Clover) : (s.setClover x).time = s.time := rfl
@[simp] theorem State.setClover_blocks (x : Clover) : (s.setClover x).blocks = s.blocks := rfl
@[simp] theorem State.setClover_parts (x : Clover) : (s.setClover x).parts = s.parts := rfl
@[simp] theorem State.setClover_buddies (x : Clover) : (s.setClover x).buddies = s.buddies := rfl
@[simp] theorem State.setClover_msys (x : Clover) : (s.setClover x).msys = s.msys := rfl
@[simp] theorem State.setClover_ports (x : Clover) : (s.setClover x).ports = s.ports := rfl
@[simp] theorem State.setClover_lasers (x : Clover) : (s.setClover x).lasers = s.lasers := rfl
@[simp] theorem State.setClover_router (x : Clover) : (s.setClover x).router = s.router := rfl
@[simp] theorem State.setClover_host (x : Clover) : (s.setClover x).host = s.host := rfl
@[simp] theorem State.setClover_clover (x : Clover) : (s.setClover x).clover = x := rfl
@[simp] theorem State.setClover_rst (x : Clover) : (s.setClover x).rst = s.rst := rfl
@[simp] theorem State.setClover_power (x : Clover) : (s.setClover x).power = s.power := rfl
@[simp] theorem State.setClover_ledger (x : Clover) : (s.setClover x).ledger = s.ledger := rfl
@[simp] theorem State.setClover_tally (x : Clover) : (s.setClover x).tally = s.tally := rfl
@[simp] theorem State.setClover_mgmt (x : Clover) : (s.setClover x).mgmt = s.mgmt := rfl
@[simp] theorem State.setClover_obs (x : Clover) : (s.setClover x).obs = s.obs := rfl
@[simp] theorem State.setClover_outbox (x : Clover) : (s.setClover x).outbox = s.outbox := rfl
@[simp] theorem State.setClover_free (x : Clover) : (s.setClover x).free = s.free := rfl

/-! ### setRst -/

@[simp] theorem State.setRst_pending (x : ResetUnit) : (s.setRst x).pending = s.pending := rfl
@[simp] theorem State.setRst_od (x : ResetUnit) : (s.setRst x).od = s.od := rfl
@[simp] theorem State.setRst_odBytes (x : ResetUnit) : (s.setRst x).odBytes = s.odBytes := rfl
@[simp] theorem State.setRst_mem (x : ResetUnit) : (s.setRst x).mem = s.mem := rfl
@[simp] theorem State.setRst_poison (x : ResetUnit) : (s.setRst x).poison = s.poison := rfl
@[simp] theorem State.setRst_time (x : ResetUnit) : (s.setRst x).time = s.time := rfl
@[simp] theorem State.setRst_blocks (x : ResetUnit) : (s.setRst x).blocks = s.blocks := rfl
@[simp] theorem State.setRst_parts (x : ResetUnit) : (s.setRst x).parts = s.parts := rfl
@[simp] theorem State.setRst_buddies (x : ResetUnit) : (s.setRst x).buddies = s.buddies := rfl
@[simp] theorem State.setRst_msys (x : ResetUnit) : (s.setRst x).msys = s.msys := rfl
@[simp] theorem State.setRst_ports (x : ResetUnit) : (s.setRst x).ports = s.ports := rfl
@[simp] theorem State.setRst_lasers (x : ResetUnit) : (s.setRst x).lasers = s.lasers := rfl
@[simp] theorem State.setRst_router (x : ResetUnit) : (s.setRst x).router = s.router := rfl
@[simp] theorem State.setRst_host (x : ResetUnit) : (s.setRst x).host = s.host := rfl
@[simp] theorem State.setRst_clover (x : ResetUnit) : (s.setRst x).clover = s.clover := rfl
@[simp] theorem State.setRst_rst (x : ResetUnit) : (s.setRst x).rst = x := rfl
@[simp] theorem State.setRst_power (x : ResetUnit) : (s.setRst x).power = s.power := rfl
@[simp] theorem State.setRst_ledger (x : ResetUnit) : (s.setRst x).ledger = s.ledger := rfl
@[simp] theorem State.setRst_tally (x : ResetUnit) : (s.setRst x).tally = s.tally := rfl
@[simp] theorem State.setRst_mgmt (x : ResetUnit) : (s.setRst x).mgmt = s.mgmt := rfl
@[simp] theorem State.setRst_obs (x : ResetUnit) : (s.setRst x).obs = s.obs := rfl
@[simp] theorem State.setRst_outbox (x : ResetUnit) : (s.setRst x).outbox = s.outbox := rfl
@[simp] theorem State.setRst_free (x : ResetUnit) : (s.setRst x).free = s.free := rfl

/-! ### setPower -/

@[simp] theorem State.setPower_pending (x : PowerCtl) : (s.setPower x).pending = s.pending := rfl
@[simp] theorem State.setPower_od (x : PowerCtl) : (s.setPower x).od = s.od := rfl
@[simp] theorem State.setPower_odBytes (x : PowerCtl) : (s.setPower x).odBytes = s.odBytes := rfl
@[simp] theorem State.setPower_mem (x : PowerCtl) : (s.setPower x).mem = s.mem := rfl
@[simp] theorem State.setPower_poison (x : PowerCtl) : (s.setPower x).poison = s.poison := rfl
@[simp] theorem State.setPower_time (x : PowerCtl) : (s.setPower x).time = s.time := rfl
@[simp] theorem State.setPower_blocks (x : PowerCtl) : (s.setPower x).blocks = s.blocks := rfl
@[simp] theorem State.setPower_parts (x : PowerCtl) : (s.setPower x).parts = s.parts := rfl
@[simp] theorem State.setPower_buddies (x : PowerCtl) : (s.setPower x).buddies = s.buddies := rfl
@[simp] theorem State.setPower_msys (x : PowerCtl) : (s.setPower x).msys = s.msys := rfl
@[simp] theorem State.setPower_ports (x : PowerCtl) : (s.setPower x).ports = s.ports := rfl
@[simp] theorem State.setPower_lasers (x : PowerCtl) : (s.setPower x).lasers = s.lasers := rfl
@[simp] theorem State.setPower_router (x : PowerCtl) : (s.setPower x).router = s.router := rfl
@[simp] theorem State.setPower_host (x : PowerCtl) : (s.setPower x).host = s.host := rfl
@[simp] theorem State.setPower_clover (x : PowerCtl) : (s.setPower x).clover = s.clover := rfl
@[simp] theorem State.setPower_rst (x : PowerCtl) : (s.setPower x).rst = s.rst := rfl
@[simp] theorem State.setPower_power (x : PowerCtl) : (s.setPower x).power = x := rfl
@[simp] theorem State.setPower_ledger (x : PowerCtl) : (s.setPower x).ledger = s.ledger := rfl
@[simp] theorem State.setPower_tally (x : PowerCtl) : (s.setPower x).tally = s.tally := rfl
@[simp] theorem State.setPower_mgmt (x : PowerCtl) : (s.setPower x).mgmt = s.mgmt := rfl
@[simp] theorem State.setPower_obs (x : PowerCtl) : (s.setPower x).obs = s.obs := rfl
@[simp] theorem State.setPower_outbox (x : PowerCtl) : (s.setPower x).outbox = s.outbox := rfl
@[simp] theorem State.setPower_free (x : PowerCtl) : (s.setPower x).free = s.free := rfl

/-! ### setLedger -/

@[simp] theorem State.setLedger_pending (x : LedgerUnit) : (s.setLedger x).pending = s.pending := rfl
@[simp] theorem State.setLedger_od (x : LedgerUnit) : (s.setLedger x).od = s.od := rfl
@[simp] theorem State.setLedger_odBytes (x : LedgerUnit) : (s.setLedger x).odBytes = s.odBytes := rfl
@[simp] theorem State.setLedger_mem (x : LedgerUnit) : (s.setLedger x).mem = s.mem := rfl
@[simp] theorem State.setLedger_poison (x : LedgerUnit) : (s.setLedger x).poison = s.poison := rfl
@[simp] theorem State.setLedger_time (x : LedgerUnit) : (s.setLedger x).time = s.time := rfl
@[simp] theorem State.setLedger_blocks (x : LedgerUnit) : (s.setLedger x).blocks = s.blocks := rfl
@[simp] theorem State.setLedger_parts (x : LedgerUnit) : (s.setLedger x).parts = s.parts := rfl
@[simp] theorem State.setLedger_buddies (x : LedgerUnit) : (s.setLedger x).buddies = s.buddies := rfl
@[simp] theorem State.setLedger_msys (x : LedgerUnit) : (s.setLedger x).msys = s.msys := rfl
@[simp] theorem State.setLedger_ports (x : LedgerUnit) : (s.setLedger x).ports = s.ports := rfl
@[simp] theorem State.setLedger_lasers (x : LedgerUnit) : (s.setLedger x).lasers = s.lasers := rfl
@[simp] theorem State.setLedger_router (x : LedgerUnit) : (s.setLedger x).router = s.router := rfl
@[simp] theorem State.setLedger_host (x : LedgerUnit) : (s.setLedger x).host = s.host := rfl
@[simp] theorem State.setLedger_clover (x : LedgerUnit) : (s.setLedger x).clover = s.clover := rfl
@[simp] theorem State.setLedger_rst (x : LedgerUnit) : (s.setLedger x).rst = s.rst := rfl
@[simp] theorem State.setLedger_power (x : LedgerUnit) : (s.setLedger x).power = s.power := rfl
@[simp] theorem State.setLedger_ledger (x : LedgerUnit) : (s.setLedger x).ledger = x := rfl
@[simp] theorem State.setLedger_tally (x : LedgerUnit) : (s.setLedger x).tally = s.tally := rfl
@[simp] theorem State.setLedger_mgmt (x : LedgerUnit) : (s.setLedger x).mgmt = s.mgmt := rfl
@[simp] theorem State.setLedger_obs (x : LedgerUnit) : (s.setLedger x).obs = s.obs := rfl
@[simp] theorem State.setLedger_outbox (x : LedgerUnit) : (s.setLedger x).outbox = s.outbox := rfl
@[simp] theorem State.setLedger_free (x : LedgerUnit) : (s.setLedger x).free = s.free := rfl

/-! ### setTally -/

@[simp] theorem State.setTally_pending (x : Map TallyCh) : (s.setTally x).pending = s.pending := rfl
@[simp] theorem State.setTally_od (x : Map TallyCh) : (s.setTally x).od = s.od := rfl
@[simp] theorem State.setTally_odBytes (x : Map TallyCh) : (s.setTally x).odBytes = s.odBytes := rfl
@[simp] theorem State.setTally_mem (x : Map TallyCh) : (s.setTally x).mem = s.mem := rfl
@[simp] theorem State.setTally_poison (x : Map TallyCh) : (s.setTally x).poison = s.poison := rfl
@[simp] theorem State.setTally_time (x : Map TallyCh) : (s.setTally x).time = s.time := rfl
@[simp] theorem State.setTally_blocks (x : Map TallyCh) : (s.setTally x).blocks = s.blocks := rfl
@[simp] theorem State.setTally_parts (x : Map TallyCh) : (s.setTally x).parts = s.parts := rfl
@[simp] theorem State.setTally_buddies (x : Map TallyCh) : (s.setTally x).buddies = s.buddies := rfl
@[simp] theorem State.setTally_msys (x : Map TallyCh) : (s.setTally x).msys = s.msys := rfl
@[simp] theorem State.setTally_ports (x : Map TallyCh) : (s.setTally x).ports = s.ports := rfl
@[simp] theorem State.setTally_lasers (x : Map TallyCh) : (s.setTally x).lasers = s.lasers := rfl
@[simp] theorem State.setTally_router (x : Map TallyCh) : (s.setTally x).router = s.router := rfl
@[simp] theorem State.setTally_host (x : Map TallyCh) : (s.setTally x).host = s.host := rfl
@[simp] theorem State.setTally_clover (x : Map TallyCh) : (s.setTally x).clover = s.clover := rfl
@[simp] theorem State.setTally_rst (x : Map TallyCh) : (s.setTally x).rst = s.rst := rfl
@[simp] theorem State.setTally_power (x : Map TallyCh) : (s.setTally x).power = s.power := rfl
@[simp] theorem State.setTally_ledger (x : Map TallyCh) : (s.setTally x).ledger = s.ledger := rfl
@[simp] theorem State.setTally_tally (x : Map TallyCh) : (s.setTally x).tally = x := rfl
@[simp] theorem State.setTally_mgmt (x : Map TallyCh) : (s.setTally x).mgmt = s.mgmt := rfl
@[simp] theorem State.setTally_obs (x : Map TallyCh) : (s.setTally x).obs = s.obs := rfl
@[simp] theorem State.setTally_outbox (x : Map TallyCh) : (s.setTally x).outbox = s.outbox := rfl
@[simp] theorem State.setTally_free (x : Map TallyCh) : (s.setTally x).free = s.free := rfl

/-! ### setMgmt -/

@[simp] theorem State.setMgmt_pending (x : Mgmt) : (s.setMgmt x).pending = s.pending := rfl
@[simp] theorem State.setMgmt_od (x : Mgmt) : (s.setMgmt x).od = s.od := rfl
@[simp] theorem State.setMgmt_odBytes (x : Mgmt) : (s.setMgmt x).odBytes = s.odBytes := rfl
@[simp] theorem State.setMgmt_mem (x : Mgmt) : (s.setMgmt x).mem = s.mem := rfl
@[simp] theorem State.setMgmt_poison (x : Mgmt) : (s.setMgmt x).poison = s.poison := rfl
@[simp] theorem State.setMgmt_time (x : Mgmt) : (s.setMgmt x).time = s.time := rfl
@[simp] theorem State.setMgmt_blocks (x : Mgmt) : (s.setMgmt x).blocks = s.blocks := rfl
@[simp] theorem State.setMgmt_parts (x : Mgmt) : (s.setMgmt x).parts = s.parts := rfl
@[simp] theorem State.setMgmt_buddies (x : Mgmt) : (s.setMgmt x).buddies = s.buddies := rfl
@[simp] theorem State.setMgmt_msys (x : Mgmt) : (s.setMgmt x).msys = s.msys := rfl
@[simp] theorem State.setMgmt_ports (x : Mgmt) : (s.setMgmt x).ports = s.ports := rfl
@[simp] theorem State.setMgmt_lasers (x : Mgmt) : (s.setMgmt x).lasers = s.lasers := rfl
@[simp] theorem State.setMgmt_router (x : Mgmt) : (s.setMgmt x).router = s.router := rfl
@[simp] theorem State.setMgmt_host (x : Mgmt) : (s.setMgmt x).host = s.host := rfl
@[simp] theorem State.setMgmt_clover (x : Mgmt) : (s.setMgmt x).clover = s.clover := rfl
@[simp] theorem State.setMgmt_rst (x : Mgmt) : (s.setMgmt x).rst = s.rst := rfl
@[simp] theorem State.setMgmt_power (x : Mgmt) : (s.setMgmt x).power = s.power := rfl
@[simp] theorem State.setMgmt_ledger (x : Mgmt) : (s.setMgmt x).ledger = s.ledger := rfl
@[simp] theorem State.setMgmt_tally (x : Mgmt) : (s.setMgmt x).tally = s.tally := rfl
@[simp] theorem State.setMgmt_mgmt (x : Mgmt) : (s.setMgmt x).mgmt = x := rfl
@[simp] theorem State.setMgmt_obs (x : Mgmt) : (s.setMgmt x).obs = s.obs := rfl
@[simp] theorem State.setMgmt_outbox (x : Mgmt) : (s.setMgmt x).outbox = s.outbox := rfl
@[simp] theorem State.setMgmt_free (x : Mgmt) : (s.setMgmt x).free = s.free := rfl

/-! ### setObs -/

@[simp] theorem State.setObs_pending (x : Observe) : (s.setObs x).pending = s.pending := rfl
@[simp] theorem State.setObs_od (x : Observe) : (s.setObs x).od = s.od := rfl
@[simp] theorem State.setObs_odBytes (x : Observe) : (s.setObs x).odBytes = s.odBytes := rfl
@[simp] theorem State.setObs_mem (x : Observe) : (s.setObs x).mem = s.mem := rfl
@[simp] theorem State.setObs_poison (x : Observe) : (s.setObs x).poison = s.poison := rfl
@[simp] theorem State.setObs_time (x : Observe) : (s.setObs x).time = s.time := rfl
@[simp] theorem State.setObs_blocks (x : Observe) : (s.setObs x).blocks = s.blocks := rfl
@[simp] theorem State.setObs_parts (x : Observe) : (s.setObs x).parts = s.parts := rfl
@[simp] theorem State.setObs_buddies (x : Observe) : (s.setObs x).buddies = s.buddies := rfl
@[simp] theorem State.setObs_msys (x : Observe) : (s.setObs x).msys = s.msys := rfl
@[simp] theorem State.setObs_ports (x : Observe) : (s.setObs x).ports = s.ports := rfl
@[simp] theorem State.setObs_lasers (x : Observe) : (s.setObs x).lasers = s.lasers := rfl
@[simp] theorem State.setObs_router (x : Observe) : (s.setObs x).router = s.router := rfl
@[simp] theorem State.setObs_host (x : Observe) : (s.setObs x).host = s.host := rfl
@[simp] theorem State.setObs_clover (x : Observe) : (s.setObs x).clover = s.clover := rfl
@[simp] theorem State.setObs_rst (x : Observe) : (s.setObs x).rst = s.rst := rfl
@[simp] theorem State.setObs_power (x : Observe) : (s.setObs x).power = s.power := rfl
@[simp] theorem State.setObs_ledger (x : Observe) : (s.setObs x).ledger = s.ledger := rfl
@[simp] theorem State.setObs_tally (x : Observe) : (s.setObs x).tally = s.tally := rfl
@[simp] theorem State.setObs_mgmt (x : Observe) : (s.setObs x).mgmt = s.mgmt := rfl
@[simp] theorem State.setObs_obs (x : Observe) : (s.setObs x).obs = x := rfl
@[simp] theorem State.setObs_outbox (x : Observe) : (s.setObs x).outbox = s.outbox := rfl
@[simp] theorem State.setObs_free (x : Observe) : (s.setObs x).free = s.free := rfl

/-! ### setOutbox -/

@[simp] theorem State.setOutbox_pending (x : List Out) : (s.setOutbox x).pending = s.pending := rfl
@[simp] theorem State.setOutbox_od (x : List Out) : (s.setOutbox x).od = s.od := rfl
@[simp] theorem State.setOutbox_odBytes (x : List Out) : (s.setOutbox x).odBytes = s.odBytes := rfl
@[simp] theorem State.setOutbox_mem (x : List Out) : (s.setOutbox x).mem = s.mem := rfl
@[simp] theorem State.setOutbox_poison (x : List Out) : (s.setOutbox x).poison = s.poison := rfl
@[simp] theorem State.setOutbox_time (x : List Out) : (s.setOutbox x).time = s.time := rfl
@[simp] theorem State.setOutbox_blocks (x : List Out) : (s.setOutbox x).blocks = s.blocks := rfl
@[simp] theorem State.setOutbox_parts (x : List Out) : (s.setOutbox x).parts = s.parts := rfl
@[simp] theorem State.setOutbox_buddies (x : List Out) : (s.setOutbox x).buddies = s.buddies := rfl
@[simp] theorem State.setOutbox_msys (x : List Out) : (s.setOutbox x).msys = s.msys := rfl
@[simp] theorem State.setOutbox_ports (x : List Out) : (s.setOutbox x).ports = s.ports := rfl
@[simp] theorem State.setOutbox_lasers (x : List Out) : (s.setOutbox x).lasers = s.lasers := rfl
@[simp] theorem State.setOutbox_router (x : List Out) : (s.setOutbox x).router = s.router := rfl
@[simp] theorem State.setOutbox_host (x : List Out) : (s.setOutbox x).host = s.host := rfl
@[simp] theorem State.setOutbox_clover (x : List Out) : (s.setOutbox x).clover = s.clover := rfl
@[simp] theorem State.setOutbox_rst (x : List Out) : (s.setOutbox x).rst = s.rst := rfl
@[simp] theorem State.setOutbox_power (x : List Out) : (s.setOutbox x).power = s.power := rfl
@[simp] theorem State.setOutbox_ledger (x : List Out) : (s.setOutbox x).ledger = s.ledger := rfl
@[simp] theorem State.setOutbox_tally (x : List Out) : (s.setOutbox x).tally = s.tally := rfl
@[simp] theorem State.setOutbox_mgmt (x : List Out) : (s.setOutbox x).mgmt = s.mgmt := rfl
@[simp] theorem State.setOutbox_obs (x : List Out) : (s.setOutbox x).obs = s.obs := rfl
@[simp] theorem State.setOutbox_outbox (x : List Out) : (s.setOutbox x).outbox = x := rfl
@[simp] theorem State.setOutbox_free (x : List Out) : (s.setOutbox x).free = s.free := rfl

/-! ### setFree -/

@[simp] theorem State.setFree_pending (x : Nat) : (s.setFree x).pending = s.pending := rfl
@[simp] theorem State.setFree_od (x : Nat) : (s.setFree x).od = s.od := rfl
@[simp] theorem State.setFree_odBytes (x : Nat) : (s.setFree x).odBytes = s.odBytes := rfl
@[simp] theorem State.setFree_mem (x : Nat) : (s.setFree x).mem = s.mem := rfl
@[simp] theorem State.setFree_poison (x : Nat) : (s.setFree x).poison = s.poison := rfl
@[simp] theorem State.setFree_time (x : Nat) : (s.setFree x).time = s.time := rfl
@[simp] theorem State.setFree_blocks (x : Nat) : (s.setFree x).blocks = s.blocks := rfl
@[simp] theorem State.setFree_parts (x : Nat) : (s.setFree x).parts = s.parts := rfl
@[simp] theorem State.setFree_buddies (x : Nat) : (s.setFree x).buddies = s.buddies := rfl
@[simp] theorem State.setFree_msys (x : Nat) : (s.setFree x).msys = s.msys := rfl
@[simp] theorem State.setFree_ports (x : Nat) : (s.setFree x).ports = s.ports := rfl
@[simp] theorem State.setFree_lasers (x : Nat) : (s.setFree x).lasers = s.lasers := rfl
@[simp] theorem State.setFree_router (x : Nat) : (s.setFree x).router = s.router := rfl
@[simp] theorem State.setFree_host (x : Nat) : (s.setFree x).host = s.host := rfl
@[simp] theorem State.setFree_clover (x : Nat) : (s.setFree x).clover = s.clover := rfl
@[simp] theorem State.setFree_rst (x : Nat) : (s.setFree x).rst = s.rst := rfl
@[simp] theorem State.setFree_power (x : Nat) : (s.setFree x).power = s.power := rfl
@[simp] theorem State.setFree_ledger (x : Nat) : (s.setFree x).ledger = s.ledger := rfl
@[simp] theorem State.setFree_tally (x : Nat) : (s.setFree x).tally = s.tally := rfl
@[simp] theorem State.setFree_mgmt (x : Nat) : (s.setFree x).mgmt = s.mgmt := rfl
@[simp] theorem State.setFree_obs (x : Nat) : (s.setFree x).obs = s.obs := rfl
@[simp] theorem State.setFree_outbox (x : Nat) : (s.setFree x).outbox = s.outbox := rfl
@[simp] theorem State.setFree_free (x : Nat) : (s.setFree x).free = x := rfl

end Sys2Proof.Machine
end

