-- ==== Sys2Proof/Laws/Reads.lean ====
section
/-! SUPPORT. What reading an entry, a block, a partition, a port or memory gives after each update. -/

namespace Sys2Proof.Machine

open Sys2Proof

variable (s : State)

/-! ### Updates of one field in terms of its setter -/

@[simp] theorem State.modTime_eq (f : TimeUnit → TimeUnit) : s.modTime f = s.setTime (f s.time) := rfl
@[simp] theorem State.modMsys_eq (f : MemSys → MemSys) : s.modMsys f = s.setMsys (f s.msys) := rfl
@[simp] theorem State.modHost_eq (f : HostIf → HostIf) : s.modHost f = s.setHost (f s.host) := rfl
@[simp] theorem State.modClover_eq (f : Clover → Clover) : s.modClover f = s.setClover (f s.clover) := rfl
@[simp] theorem State.modObs_eq (f : Observe → Observe) : s.modObs f = s.setObs (f s.obs) := rfl
@[simp] theorem State.modPower_eq (f : PowerCtl → PowerCtl) : s.modPower f = s.setPower (f s.power) := rfl
@[simp] theorem State.modLedger_eq (f : LedgerUnit → LedgerUnit) : s.modLedger f = s.setLedger (f s.ledger) := rfl
@[simp] theorem State.modRouter_eq (f : Router → Router) : s.modRouter f = s.setRouter (f s.router) := rfl
@[simp] theorem State.modRst_eq (f : ResetUnit → ResetUnit) : s.modRst f = s.setRst (f s.rst) := rfl
@[simp] theorem State.emit_eq (x : Out) : s.emit x = s.setOutbox (s.outbox ++ [x]) := rfl
@[simp] theorem State.emitAll_eq (x : List Out) : s.emitAll x = s.setOutbox (s.outbox ++ x) := rfl
@[simp] theorem State.tick_eq : s.tick = s.setFree (s.free + 1) := rfl

/-! ### Dictionary entries -/

theorem odKey_ne {r q : Reg} {i j : Nat} (h : r.index * 256 + r.sub % 256 ≠ q.index * 256 + q.sub % 256) :
    odKey r i ≠ odKey q j := by
  intro e
  have e' := congrArg (· / 65536) e
  simp only [odKey] at e'
  rw [Nat.mul_comm _ 65536, Nat.mul_comm _ 65536, Nat.mul_add_div (by decide), Nat.mul_add_div (by decide),
    Nat.div_eq_of_lt (Nat.mod_lt _ (by decide)), Nat.div_eq_of_lt (Nat.mod_lt _ (by decide))] at e'
  exact h (by simpa using e')

theorem odKey_inst {r : Reg} {i j : Nat} (h : i % 65536 ≠ j % 65536) : odKey r i ≠ odKey r j := by
  intro e
  unfold odKey at e
  exact h (Nat.add_left_cancel e)

/-- An entry written reads back, within its width. -/
@[simp] theorem rd_wr_same (r : Reg) (i v : Nat) : (s.wr r i v).rd r i = v % 2 ^ regBits r :=
  mapGet_mapSet_same (regDflt r i) s.od (odKey r i) _

/-- A write leaves every other instance and entry. -/
theorem rd_wr_other {r q : Reg} {i j : Nat} (v : Nat) (h : odKey r i ≠ odKey q j) : (s.wr q j v).rd r i = s.rd r i := by
  exact mapGet_mapSet_other _ _ _ _ h

/-- Entries with another index or subindex keep their values. -/
theorem rd_wr_ne {r q : Reg} {i j : Nat} (v : Nat) (h : r.index * 256 + r.sub % 256 ≠ q.index * 256 + q.sub % 256) :
    (s.wr q j v).rd r i = s.rd r i :=
  rd_wr_other s v (odKey_ne h)

/-- Other instances keep their values. -/
theorem rd_wr_inst {r : Reg} {i j : Nat} (v : Nat) (h : i % 65536 ≠ j % 65536) : (s.wr r j v).rd r i = s.rd r i :=
  rd_wr_other s v (odKey_inst h)

theorem bump_eq (r : Reg) (i n : Nat) : s.bump r i n = s.wr r i (s.rd r i + n) := rfl
theorem bumpSat_eq (r : Reg) (i n : Nat) : s.bumpSat r i n = s.wr r i (min (s.rd r i + n) (2 ^ regBits r - 1)) := rfl
theorem raise_eq (r : Reg) (i v : Nat) : s.raise r i v = s.wr r i (max (s.rd r i) (min v (2 ^ regBits r - 1))) := rfl

/-- A counter that stays at its largest value. -/
@[simp] theorem rd_bumpSat_same (r : Reg) (i n : Nat) :
    (s.bumpSat r i n).rd r i = min (s.rd r i + n) (2 ^ regBits r - 1) := by
  have h : 0 < 2 ^ regBits r := Nat.pow_pos (by omega)
  rw [bumpSat_eq, rd_wr_same, Nat.mod_eq_of_lt (by omega)]

@[simp] theorem rd_setOdBytes (x : Map (List Byte)) (r : Reg) (i : Nat) : (s.setOdBytes x).rd r i = s.rd r i := rfl
@[simp] theorem rd_setMem (x : List Host.Cell) (r : Reg) (i : Nat) : (s.setMem x).rd r i = s.rd r i := rfl
@[simp] theorem rd_setPoison (x : List Nat) (r : Reg) (i : Nat) : (s.setPoison x).rd r i = s.rd r i := rfl
@[simp] theorem rd_setTime (x : TimeUnit) (r : Reg) (i : Nat) : (s.setTime x).rd r i = s.rd r i := rfl
@[simp] theorem rd_setBlocks (x : Map Block) (r : Reg) (i : Nat) : (s.setBlocks x).rd r i = s.rd r i := rfl
@[simp] theorem rd_setParts (x : Map Part) (r : Reg) (i : Nat) : (s.setParts x).rd r i = s.rd r i := rfl
@[simp] theorem rd_setBuddies (x : List BuddyArea) (r : Reg) (i : Nat) : (s.setBuddies x).rd r i = s.rd r i := rfl
@[simp] theorem rd_setMsys (x : MemSys) (r : Reg) (i : Nat) : (s.setMsys x).rd r i = s.rd r i := rfl
@[simp] theorem rd_setPorts (x : Map Port) (r : Reg) (i : Nat) : (s.setPorts x).rd r i = s.rd r i := rfl
@[simp] theorem rd_setLasers (x : Map Laser) (r : Reg) (i : Nat) : (s.setLasers x).rd r i = s.rd r i := rfl
@[simp] theorem rd_setRouter (x : Router) (r : Reg) (i : Nat) : (s.setRouter x).rd r i = s.rd r i := rfl
@[simp] theorem rd_setHost (x : HostIf) (r : Reg) (i : Nat) : (s.setHost x).rd r i = s.rd r i := rfl
@[simp] theorem rd_setClover (x : Clover) (r : Reg) (i : Nat) : (s.setClover x).rd r i = s.rd r i := rfl
@[simp] theorem rd_setRst (x : ResetUnit) (r : Reg) (i : Nat) : (s.setRst x).rd r i = s.rd r i := rfl
@[simp] theorem rd_setPower (x : PowerCtl) (r : Reg) (i : Nat) : (s.setPower x).rd r i = s.rd r i := rfl
@[simp] theorem rd_setLedger (x : LedgerUnit) (r : Reg) (i : Nat) : (s.setLedger x).rd r i = s.rd r i := rfl
@[simp] theorem rd_setTally (x : Map TallyCh) (r : Reg) (i : Nat) : (s.setTally x).rd r i = s.rd r i := rfl
@[simp] theorem rd_setMgmt (x : Mgmt) (r : Reg) (i : Nat) : (s.setMgmt x).rd r i = s.rd r i := rfl
@[simp] theorem rd_setObs (x : Observe) (r : Reg) (i : Nat) : (s.setObs x).rd r i = s.rd r i := rfl
@[simp] theorem rd_setOutbox (x : List Out) (r : Reg) (i : Nat) : (s.setOutbox x).rd r i = s.rd r i := rfl
@[simp] theorem rd_setFree (x : Nat) (r : Reg) (i : Nat) : (s.setFree x).rd r i = s.rd r i := rfl
@[simp] theorem wr_pending (r : Reg) (i v : Nat) : (s.wr r i v).pending = s.pending := rfl
@[simp] theorem bumpSat_pending (r : Reg) (i v : Nat) : (s.bumpSat r i v).pending = s.pending := rfl
@[simp] theorem wr_odBytes (r : Reg) (i v : Nat) : (s.wr r i v).odBytes = s.odBytes := rfl
@[simp] theorem bumpSat_odBytes (r : Reg) (i v : Nat) : (s.bumpSat r i v).odBytes = s.odBytes := rfl
@[simp] theorem wr_mem (r : Reg) (i v : Nat) : (s.wr r i v).mem = s.mem := rfl
@[simp] theorem bumpSat_mem (r : Reg) (i v : Nat) : (s.bumpSat r i v).mem = s.mem := rfl
@[simp] theorem wr_poison (r : Reg) (i v : Nat) : (s.wr r i v).poison = s.poison := rfl
@[simp] theorem bumpSat_poison (r : Reg) (i v : Nat) : (s.bumpSat r i v).poison = s.poison := rfl
@[simp] theorem wr_time (r : Reg) (i v : Nat) : (s.wr r i v).time = s.time := rfl
@[simp] theorem bumpSat_time (r : Reg) (i v : Nat) : (s.bumpSat r i v).time = s.time := rfl
@[simp] theorem wr_blocks (r : Reg) (i v : Nat) : (s.wr r i v).blocks = s.blocks := rfl
@[simp] theorem bumpSat_blocks (r : Reg) (i v : Nat) : (s.bumpSat r i v).blocks = s.blocks := rfl
@[simp] theorem wr_parts (r : Reg) (i v : Nat) : (s.wr r i v).parts = s.parts := rfl
@[simp] theorem bumpSat_parts (r : Reg) (i v : Nat) : (s.bumpSat r i v).parts = s.parts := rfl
@[simp] theorem wr_buddies (r : Reg) (i v : Nat) : (s.wr r i v).buddies = s.buddies := rfl
@[simp] theorem bumpSat_buddies (r : Reg) (i v : Nat) : (s.bumpSat r i v).buddies = s.buddies := rfl
@[simp] theorem wr_msys (r : Reg) (i v : Nat) : (s.wr r i v).msys = s.msys := rfl
@[simp] theorem bumpSat_msys (r : Reg) (i v : Nat) : (s.bumpSat r i v).msys = s.msys := rfl
@[simp] theorem wr_ports (r : Reg) (i v : Nat) : (s.wr r i v).ports = s.ports := rfl
@[simp] theorem bumpSat_ports (r : Reg) (i v : Nat) : (s.bumpSat r i v).ports = s.ports := rfl
@[simp] theorem wr_lasers (r : Reg) (i v : Nat) : (s.wr r i v).lasers = s.lasers := rfl
@[simp] theorem bumpSat_lasers (r : Reg) (i v : Nat) : (s.bumpSat r i v).lasers = s.lasers := rfl
@[simp] theorem wr_router (r : Reg) (i v : Nat) : (s.wr r i v).router = s.router := rfl
@[simp] theorem bumpSat_router (r : Reg) (i v : Nat) : (s.bumpSat r i v).router = s.router := rfl
@[simp] theorem wr_host (r : Reg) (i v : Nat) : (s.wr r i v).host = s.host := rfl
@[simp] theorem bumpSat_host (r : Reg) (i v : Nat) : (s.bumpSat r i v).host = s.host := rfl
@[simp] theorem wr_clover (r : Reg) (i v : Nat) : (s.wr r i v).clover = s.clover := rfl
@[simp] theorem bumpSat_clover (r : Reg) (i v : Nat) : (s.bumpSat r i v).clover = s.clover := rfl
@[simp] theorem wr_rst (r : Reg) (i v : Nat) : (s.wr r i v).rst = s.rst := rfl
@[simp] theorem bumpSat_rst (r : Reg) (i v : Nat) : (s.bumpSat r i v).rst = s.rst := rfl
@[simp] theorem wr_power (r : Reg) (i v : Nat) : (s.wr r i v).power = s.power := rfl
@[simp] theorem bumpSat_power (r : Reg) (i v : Nat) : (s.bumpSat r i v).power = s.power := rfl
@[simp] theorem wr_ledger (r : Reg) (i v : Nat) : (s.wr r i v).ledger = s.ledger := rfl
@[simp] theorem bumpSat_ledger (r : Reg) (i v : Nat) : (s.bumpSat r i v).ledger = s.ledger := rfl
@[simp] theorem wr_tally (r : Reg) (i v : Nat) : (s.wr r i v).tally = s.tally := rfl
@[simp] theorem bumpSat_tally (r : Reg) (i v : Nat) : (s.bumpSat r i v).tally = s.tally := rfl
@[simp] theorem wr_mgmt (r : Reg) (i v : Nat) : (s.wr r i v).mgmt = s.mgmt := rfl
@[simp] theorem bumpSat_mgmt (r : Reg) (i v : Nat) : (s.bumpSat r i v).mgmt = s.mgmt := rfl
@[simp] theorem wr_obs (r : Reg) (i v : Nat) : (s.wr r i v).obs = s.obs := rfl
@[simp] theorem bumpSat_obs (r : Reg) (i v : Nat) : (s.bumpSat r i v).obs = s.obs := rfl
@[simp] theorem wr_outbox (r : Reg) (i v : Nat) : (s.wr r i v).outbox = s.outbox := rfl
@[simp] theorem bumpSat_outbox (r : Reg) (i v : Nat) : (s.bumpSat r i v).outbox = s.outbox := rfl
@[simp] theorem wr_free (r : Reg) (i v : Nat) : (s.wr r i v).free = s.free := rfl
@[simp] theorem bumpSat_free (r : Reg) (i v : Nat) : (s.bumpSat r i v).free = s.free := rfl

/-! ### Blocks, partitions, ports, channels -/

@[simp] theorem block_modBlock_same (b : Nat) (f : Block → Block) : (s.modBlock b f).block b = f (s.block b) := by
  simp [State.block, State.modBlock, mapGet_mapPut_same]

theorem block_modBlock_other {b c : Nat} (f : Block → Block) (h : c ≠ b) : (s.modBlock b f).block c = s.block c := by
  simp [State.block, State.modBlock, mapGet_mapPut_other _ _ _ h]

@[simp] theorem part_modPart_same (p : Nat) (f : Part → Part) : (s.modPart p f).part p = f (s.part p) := by
  simp [State.part, State.modPart, mapGet_mapPut_same]

theorem part_modPart_other {p q : Nat} (f : Part → Part) (h : q ≠ p) : (s.modPart p f).part q = s.part q := by
  simp [State.part, State.modPart, mapGet_mapPut_other _ _ _ h]

@[simp] theorem port_modPort_same (p : Nat) (f : Port → Port) : (s.modPort p f).port p = f (s.port p) := by
  simp [State.port, State.modPort, mapGet_mapPut_same]

theorem port_modPort_other {p q : Nat} (f : Port → Port) (h : q ≠ p) : (s.modPort p f).port q = s.port q := by
  simp [State.port, State.modPort, mapGet_mapPut_other _ _ _ h]

@[simp] theorem laser_modLaser_same (m : Nat) (f : Laser → Laser) : (s.modLaser m f).laser m = f (s.laser m) := by
  simp [State.laser, State.modLaser, mapGet_mapPut_same]

@[simp] theorem chan_modChan_same (c : Nat) (f : TallyCh → TallyCh) : (s.modChan c f).chan c = f (s.chan c) := by
  simp [State.chan, State.modChan, mapGet_mapPut_same]

@[simp] theorem rd_modBlock (b : Nat) (f : Block → Block) (r : Reg) (i : Nat) : (s.modBlock b f).rd r i = s.rd r i := rfl
@[simp] theorem modBlock_pending (b : Nat) (f : Block → Block) : (s.modBlock b f).pending = s.pending := rfl
@[simp] theorem modBlock_odBytes (b : Nat) (f : Block → Block) : (s.modBlock b f).odBytes = s.odBytes := rfl
@[simp] theorem modBlock_mem (b : Nat) (f : Block → Block) : (s.modBlock b f).mem = s.mem := rfl
@[simp] theorem modBlock_poison (b : Nat) (f : Block → Block) : (s.modBlock b f).poison = s.poison := rfl
@[simp] theorem modBlock_time (b : Nat) (f : Block → Block) : (s.modBlock b f).time = s.time := rfl
@[simp] theorem modBlock_parts (b : Nat) (f : Block → Block) : (s.modBlock b f).parts = s.parts := rfl
@[simp] theorem modBlock_buddies (b : Nat) (f : Block → Block) : (s.modBlock b f).buddies = s.buddies := rfl
@[simp] theorem modBlock_msys (b : Nat) (f : Block → Block) : (s.modBlock b f).msys = s.msys := rfl
@[simp] theorem modBlock_ports (b : Nat) (f : Block → Block) : (s.modBlock b f).ports = s.ports := rfl
@[simp] theorem modBlock_lasers (b : Nat) (f : Block → Block) : (s.modBlock b f).lasers = s.lasers := rfl
@[simp] theorem modBlock_router (b : Nat) (f : Block → Block) : (s.modBlock b f).router = s.router := rfl
@[simp] theorem modBlock_host (b : Nat) (f : Block → Block) : (s.modBlock b f).host = s.host := rfl
@[simp] theorem modBlock_clover (b : Nat) (f : Block → Block) : (s.modBlock b f).clover = s.clover := rfl
@[simp] theorem modBlock_rst (b : Nat) (f : Block → Block) : (s.modBlock b f).rst = s.rst := rfl
@[simp] theorem modBlock_power (b : Nat) (f : Block → Block) : (s.modBlock b f).power = s.power := rfl
@[simp] theorem modBlock_ledger (b : Nat) (f : Block → Block) : (s.modBlock b f).ledger = s.ledger := rfl
@[simp] theorem modBlock_tally (b : Nat) (f : Block → Block) : (s.modBlock b f).tally = s.tally := rfl
@[simp] theorem modBlock_mgmt (b : Nat) (f : Block → Block) : (s.modBlock b f).mgmt = s.mgmt := rfl
@[simp] theorem modBlock_obs (b : Nat) (f : Block → Block) : (s.modBlock b f).obs = s.obs := rfl
@[simp] theorem modBlock_outbox (b : Nat) (f : Block → Block) : (s.modBlock b f).outbox = s.outbox := rfl
@[simp] theorem modBlock_free (b : Nat) (f : Block → Block) : (s.modBlock b f).free = s.free := rfl
@[simp] theorem modBlock_od (b : Nat) (f : Block → Block) : (s.modBlock b f).od = s.od := rfl
@[simp] theorem rd_modPart (b : Nat) (f : Part → Part) (r : Reg) (i : Nat) : (s.modPart b f).rd r i = s.rd r i := rfl
@[simp] theorem modPart_pending (b : Nat) (f : Part → Part) : (s.modPart b f).pending = s.pending := rfl
@[simp] theorem modPart_odBytes (b : Nat) (f : Part → Part) : (s.modPart b f).odBytes = s.odBytes := rfl
@[simp] theorem modPart_mem (b : Nat) (f : Part → Part) : (s.modPart b f).mem = s.mem := rfl
@[simp] theorem modPart_poison (b : Nat) (f : Part → Part) : (s.modPart b f).poison = s.poison := rfl
@[simp] theorem modPart_time (b : Nat) (f : Part → Part) : (s.modPart b f).time = s.time := rfl
@[simp] theorem modPart_blocks (b : Nat) (f : Part → Part) : (s.modPart b f).blocks = s.blocks := rfl
@[simp] theorem modPart_buddies (b : Nat) (f : Part → Part) : (s.modPart b f).buddies = s.buddies := rfl
@[simp] theorem modPart_msys (b : Nat) (f : Part → Part) : (s.modPart b f).msys = s.msys := rfl
@[simp] theorem modPart_ports (b : Nat) (f : Part → Part) : (s.modPart b f).ports = s.ports := rfl
@[simp] theorem modPart_lasers (b : Nat) (f : Part → Part) : (s.modPart b f).lasers = s.lasers := rfl
@[simp] theorem modPart_router (b : Nat) (f : Part → Part) : (s.modPart b f).router = s.router := rfl
@[simp] theorem modPart_host (b : Nat) (f : Part → Part) : (s.modPart b f).host = s.host := rfl
@[simp] theorem modPart_clover (b : Nat) (f : Part → Part) : (s.modPart b f).clover = s.clover := rfl
@[simp] theorem modPart_rst (b : Nat) (f : Part → Part) : (s.modPart b f).rst = s.rst := rfl
@[simp] theorem modPart_power (b : Nat) (f : Part → Part) : (s.modPart b f).power = s.power := rfl
@[simp] theorem modPart_ledger (b : Nat) (f : Part → Part) : (s.modPart b f).ledger = s.ledger := rfl
@[simp] theorem modPart_tally (b : Nat) (f : Part → Part) : (s.modPart b f).tally = s.tally := rfl
@[simp] theorem modPart_mgmt (b : Nat) (f : Part → Part) : (s.modPart b f).mgmt = s.mgmt := rfl
@[simp] theorem modPart_obs (b : Nat) (f : Part → Part) : (s.modPart b f).obs = s.obs := rfl
@[simp] theorem modPart_outbox (b : Nat) (f : Part → Part) : (s.modPart b f).outbox = s.outbox := rfl
@[simp] theorem modPart_free (b : Nat) (f : Part → Part) : (s.modPart b f).free = s.free := rfl
@[simp] theorem modPart_od (b : Nat) (f : Part → Part) : (s.modPart b f).od = s.od := rfl
@[simp] theorem rd_modPort (b : Nat) (f : Port → Port) (r : Reg) (i : Nat) : (s.modPort b f).rd r i = s.rd r i := rfl
@[simp] theorem modPort_pending (b : Nat) (f : Port → Port) : (s.modPort b f).pending = s.pending := rfl
@[simp] theorem modPort_odBytes (b : Nat) (f : Port → Port) : (s.modPort b f).odBytes = s.odBytes := rfl
@[simp] theorem modPort_mem (b : Nat) (f : Port → Port) : (s.modPort b f).mem = s.mem := rfl
@[simp] theorem modPort_poison (b : Nat) (f : Port → Port) : (s.modPort b f).poison = s.poison := rfl
@[simp] theorem modPort_time (b : Nat) (f : Port → Port) : (s.modPort b f).time = s.time := rfl
@[simp] theorem modPort_blocks (b : Nat) (f : Port → Port) : (s.modPort b f).blocks = s.blocks := rfl
@[simp] theorem modPort_parts (b : Nat) (f : Port → Port) : (s.modPort b f).parts = s.parts := rfl
@[simp] theorem modPort_buddies (b : Nat) (f : Port → Port) : (s.modPort b f).buddies = s.buddies := rfl
@[simp] theorem modPort_msys (b : Nat) (f : Port → Port) : (s.modPort b f).msys = s.msys := rfl
@[simp] theorem modPort_lasers (b : Nat) (f : Port → Port) : (s.modPort b f).lasers = s.lasers := rfl
@[simp] theorem modPort_router (b : Nat) (f : Port → Port) : (s.modPort b f).router = s.router := rfl
@[simp] theorem modPort_host (b : Nat) (f : Port → Port) : (s.modPort b f).host = s.host := rfl
@[simp] theorem modPort_clover (b : Nat) (f : Port → Port) : (s.modPort b f).clover = s.clover := rfl
@[simp] theorem modPort_rst (b : Nat) (f : Port → Port) : (s.modPort b f).rst = s.rst := rfl
@[simp] theorem modPort_power (b : Nat) (f : Port → Port) : (s.modPort b f).power = s.power := rfl
@[simp] theorem modPort_ledger (b : Nat) (f : Port → Port) : (s.modPort b f).ledger = s.ledger := rfl
@[simp] theorem modPort_tally (b : Nat) (f : Port → Port) : (s.modPort b f).tally = s.tally := rfl
@[simp] theorem modPort_mgmt (b : Nat) (f : Port → Port) : (s.modPort b f).mgmt = s.mgmt := rfl
@[simp] theorem modPort_obs (b : Nat) (f : Port → Port) : (s.modPort b f).obs = s.obs := rfl
@[simp] theorem modPort_outbox (b : Nat) (f : Port → Port) : (s.modPort b f).outbox = s.outbox := rfl
@[simp] theorem modPort_free (b : Nat) (f : Port → Port) : (s.modPort b f).free = s.free := rfl
@[simp] theorem modPort_od (b : Nat) (f : Port → Port) : (s.modPort b f).od = s.od := rfl
@[simp] theorem rd_modLaser (b : Nat) (f : Laser → Laser) (r : Reg) (i : Nat) : (s.modLaser b f).rd r i = s.rd r i := rfl
@[simp] theorem modLaser_pending (b : Nat) (f : Laser → Laser) : (s.modLaser b f).pending = s.pending := rfl
@[simp] theorem modLaser_odBytes (b : Nat) (f : Laser → Laser) : (s.modLaser b f).odBytes = s.odBytes := rfl
@[simp] theorem modLaser_mem (b : Nat) (f : Laser → Laser) : (s.modLaser b f).mem = s.mem := rfl
@[simp] theorem modLaser_poison (b : Nat) (f : Laser → Laser) : (s.modLaser b f).poison = s.poison := rfl
@[simp] theorem modLaser_time (b : Nat) (f : Laser → Laser) : (s.modLaser b f).time = s.time := rfl
@[simp] theorem modLaser_blocks (b : Nat) (f : Laser → Laser) : (s.modLaser b f).blocks = s.blocks := rfl
@[simp] theorem modLaser_parts (b : Nat) (f : Laser → Laser) : (s.modLaser b f).parts = s.parts := rfl
@[simp] theorem modLaser_buddies (b : Nat) (f : Laser → Laser) : (s.modLaser b f).buddies = s.buddies := rfl
@[simp] theorem modLaser_msys (b : Nat) (f : Laser → Laser) : (s.modLaser b f).msys = s.msys := rfl
@[simp] theorem modLaser_ports (b : Nat) (f : Laser → Laser) : (s.modLaser b f).ports = s.ports := rfl
@[simp] theorem modLaser_router (b : Nat) (f : Laser → Laser) : (s.modLaser b f).router = s.router := rfl
@[simp] theorem modLaser_host (b : Nat) (f : Laser → Laser) : (s.modLaser b f).host = s.host := rfl
@[simp] theorem modLaser_clover (b : Nat) (f : Laser → Laser) : (s.modLaser b f).clover = s.clover := rfl
@[simp] theorem modLaser_rst (b : Nat) (f : Laser → Laser) : (s.modLaser b f).rst = s.rst := rfl
@[simp] theorem modLaser_power (b : Nat) (f : Laser → Laser) : (s.modLaser b f).power = s.power := rfl
@[simp] theorem modLaser_ledger (b : Nat) (f : Laser → Laser) : (s.modLaser b f).ledger = s.ledger := rfl
@[simp] theorem modLaser_tally (b : Nat) (f : Laser → Laser) : (s.modLaser b f).tally = s.tally := rfl
@[simp] theorem modLaser_mgmt (b : Nat) (f : Laser → Laser) : (s.modLaser b f).mgmt = s.mgmt := rfl
@[simp] theorem modLaser_obs (b : Nat) (f : Laser → Laser) : (s.modLaser b f).obs = s.obs := rfl
@[simp] theorem modLaser_outbox (b : Nat) (f : Laser → Laser) : (s.modLaser b f).outbox = s.outbox := rfl
@[simp] theorem modLaser_free (b : Nat) (f : Laser → Laser) : (s.modLaser b f).free = s.free := rfl
@[simp] theorem modLaser_od (b : Nat) (f : Laser → Laser) : (s.modLaser b f).od = s.od := rfl
@[simp] theorem rd_modChan (b : Nat) (f : TallyCh → TallyCh) (r : Reg) (i : Nat) : (s.modChan b f).rd r i = s.rd r i := rfl
@[simp] theorem modChan_pending (b : Nat) (f : TallyCh → TallyCh) : (s.modChan b f).pending = s.pending := rfl
@[simp] theorem modChan_odBytes (b : Nat) (f : TallyCh → TallyCh) : (s.modChan b f).odBytes = s.odBytes := rfl
@[simp] theorem modChan_mem (b : Nat) (f : TallyCh → TallyCh) : (s.modChan b f).mem = s.mem := rfl
@[simp] theorem modChan_poison (b : Nat) (f : TallyCh → TallyCh) : (s.modChan b f).poison = s.poison := rfl
@[simp] theorem modChan_time (b : Nat) (f : TallyCh → TallyCh) : (s.modChan b f).time = s.time := rfl
@[simp] theorem modChan_blocks (b : Nat) (f : TallyCh → TallyCh) : (s.modChan b f).blocks = s.blocks := rfl
@[simp] theorem modChan_parts (b : Nat) (f : TallyCh → TallyCh) : (s.modChan b f).parts = s.parts := rfl
@[simp] theorem modChan_buddies (b : Nat) (f : TallyCh → TallyCh) : (s.modChan b f).buddies = s.buddies := rfl
@[simp] theorem modChan_msys (b : Nat) (f : TallyCh → TallyCh) : (s.modChan b f).msys = s.msys := rfl
@[simp] theorem modChan_ports (b : Nat) (f : TallyCh → TallyCh) : (s.modChan b f).ports = s.ports := rfl
@[simp] theorem modChan_lasers (b : Nat) (f : TallyCh → TallyCh) : (s.modChan b f).lasers = s.lasers := rfl
@[simp] theorem modChan_router (b : Nat) (f : TallyCh → TallyCh) : (s.modChan b f).router = s.router := rfl
@[simp] theorem modChan_host (b : Nat) (f : TallyCh → TallyCh) : (s.modChan b f).host = s.host := rfl
@[simp] theorem modChan_clover (b : Nat) (f : TallyCh → TallyCh) : (s.modChan b f).clover = s.clover := rfl
@[simp] theorem modChan_rst (b : Nat) (f : TallyCh → TallyCh) : (s.modChan b f).rst = s.rst := rfl
@[simp] theorem modChan_power (b : Nat) (f : TallyCh → TallyCh) : (s.modChan b f).power = s.power := rfl
@[simp] theorem modChan_ledger (b : Nat) (f : TallyCh → TallyCh) : (s.modChan b f).ledger = s.ledger := rfl
@[simp] theorem modChan_mgmt (b : Nat) (f : TallyCh → TallyCh) : (s.modChan b f).mgmt = s.mgmt := rfl
@[simp] theorem modChan_obs (b : Nat) (f : TallyCh → TallyCh) : (s.modChan b f).obs = s.obs := rfl
@[simp] theorem modChan_outbox (b : Nat) (f : TallyCh → TallyCh) : (s.modChan b f).outbox = s.outbox := rfl
@[simp] theorem modChan_free (b : Nat) (f : TallyCh → TallyCh) : (s.modChan b f).free = s.free := rfl
@[simp] theorem modChan_od (b : Nat) (f : TallyCh → TallyCh) : (s.modChan b f).od = s.od := rfl

/-! ### What a law of change gives -/

/-- A change that touches an index neither by its number nor as one of all keeps its entries. -/
theorem Keeps.rd {T : List Nat} {s t : State} (h : Keeps T s t) (r : Reg) (i : Nat)
    (hr : (T.contains (regPlace r) || T.contains 31) = false) : t.rd r i = s.rd r i := by
  simp only [Bool.or_eq_false_iff, List.contains_eq_mem, decide_eq_false_iff_not] at hr
  have h22 : ¬ regPlace r < 22 := by unfold regPlace; split <;> omega
  have := h.same (regPlace r) hr.1 (fun h31 => absurd h31 hr.2)
  unfold SameAt at this
  have key : ∀ k, odPlace k = regPlace r → mapFind s.od k = mapFind t.od k := by
    split at this <;> first | (exfalso; rename_i hp; exact h22 (by omega)) | exact this
  unfold State.rd
  rw [mapGet_eq_find, mapGet_eq_find, key _ (odPlace_odKey r i)]

/-- A change that does not touch a field keeps it. -/
theorem Keeps.at {T : List Nat} {s t : State} (h : Keeps T s t) (p : Nat) (hp : T.contains p = false) (h22 : p < 22) :
    SameAt p s t :=
  h.same p (by simpa using hp) fun _ => h22

/-! ### Writes with a check (R353) -/

theorem guard_ok {w : Who} {r : Reg} {i v : Nat} {f : State → Written} (h : checkWrite s w r i v = rOk) :
    s.guard w r i v f = (f s).1.emit (.answer w (f s).2) := by
  simp [State.guard, h]

/-- A refused write changes nothing but what is answered. -/
theorem guard_refused {w : Who} {r : Reg} {i v : Nat} {f : State → Written} (h : checkWrite s w r i v ≠ rOk) :
    s.guard w r i v f = s.emit (.answer w (checkWrite s w r i v)) := by
  simp [State.guard, h]

/-! ### Memory -/

/-- A byte outside what is written stays. -/
theorem memByte_write_out (m : List Host.Cell) (a : Nat) (bs : List Byte) (j : Nat) (h : j < a ∨ a + bs.length ≤ j) :
    memByte (memWrite m a bs) j = memByte m j :=
  mapGet_mapSplice_out 0 m a bs j h

/-- A byte written reads back. -/
theorem memByte_write_in (m : List Host.Cell) (a : Nat) (bs : List Byte) (j : Nat) (h1 : a ≤ j) (h2 : j < a + bs.length) :
    memByte (memWrite m a bs) j = (bs[j - a]?).getD 0 :=
  mapGet_mapSplice_in 0 m a bs j h1 h2

end Sys2Proof.Machine
end

