-- ==== Sys2Proof/Laws/Stores.lean ====
section
/-! SUPPORT. Which bytes of memory the shared storing operations can change: none outside the range they are given. -/

namespace Sys2Proof.Machine

open Sys2Proof

/-- Every byte outside a set of addresses reads as before. -/
structure MemOut (P : Nat → Prop) (s t : State) : Prop where
  same : ∀ j, ¬ P j → memByte t.mem j = memByte s.mem j

/-- The addresses of a range. -/
def InRange (a n j : Nat) : Prop := a ≤ j ∧ j < a + n

/-- The addresses of a list of ranges. -/
def InRanges (rs : List (Nat × Nat)) (j : Nat) : Prop := ∃ c ∈ rs, InRange c.1 c.2 j

variable {P Q : Nat → Prop} {s t u : State} {a : Nat} {bs : List Byte}

theorem MemOut.refl (P : Nat → Prop) (s : State) : MemOut P s s := ⟨fun _ _ => rfl⟩

theorem MemOut.trans (h : MemOut P s t) (h' : MemOut P t u) : MemOut P s u :=
  ⟨fun j hj => (h'.same j hj).trans (h.same j hj)⟩

theorem MemOut.mono (h : MemOut P s t) (hpq : ∀ j, P j → Q j) : MemOut Q s t :=
  ⟨fun j hj => h.same j fun hp => hj (hpq j hp)⟩

theorem MemOut.of_eq {s t : State} (h : t.mem = s.mem) : MemOut P s t := ⟨fun _ _ => by rw [h]⟩

theorem Keeps.mem {T : List Nat} (h : Keeps T s t) (h2 : T.contains 2 = false) : t.mem = s.mem := (h.at 2 h2 (by decide)).symm

theorem Keeps.blocks {T : List Nat} (h : Keeps T s t) (h5 : T.contains 5 = false) : t.blocks = s.blocks :=
  (h.at 5 h5 (by decide)).symm

theorem Keeps.block {T : List Nat} (h : Keeps T s t) (h5 : T.contains 5 = false) (b : Nat) : t.block b = s.block b := by
  unfold State.block; rw [h.blocks h5]

theorem Keeps.parts {T : List Nat} (h : Keeps T s t) (h6 : T.contains 6 = false) : t.parts = s.parts :=
  (h.at 6 h6 (by decide)).symm

/-- A change that does not touch memory, after one that keeps to a set. -/
theorem MemOut.keeps {T : List Nat} (h : MemOut P s t) (k : Keeps T t u) (h2 : T.contains 2 = false) : MemOut P s u :=
  h.trans (.of_eq (k.mem h2))

theorem MemOut.each {α : Type} {l : List α} {f : State → α → State} (hf : ∀ v, ∀ x ∈ l, MemOut P v (f v x)) :
    MemOut P s (s.each l f) := by
  induction l generalizing s with
  | nil => exact .refl _ _
  | cons x r ih => exact (hf s x (.head _)).trans (ih fun v y hy => hf v y (.tail _ hy))

theorem markPoison_mem (s : State) (a n : Nat) (bad : Bool) : (s.markPoison a n bad).mem = s.mem := by
  unfold State.markPoison; split <;> rfl

theorem store_out (s : State) (a : Nat) (bs : List Byte) (bad : Bool) :
    MemOut (InRange a bs.length) s (s.store a bs bad) := ⟨fun j hj => by
  unfold State.store
  rw [markPoison_mem]
  exact memByte_write_out s.mem a bs j (by unfold InRange at hj; omega)⟩

theorem MemOut.store (h : MemOut (InRange a bs.length) s u) (bad : Bool) : MemOut (InRange a bs.length) s (u.store a bs bad) :=
  h.trans (store_out u a bs bad)

theorem MemOut.modPart (h : MemOut P s u) (p : Nat) (f : Part → Part) : MemOut P s (u.modPart p f) :=
  ⟨h.same⟩

theorem MemOut.ite {c : Prop} [Decidable c] {a b : State} (ha : MemOut P s a) (hb : MemOut P s b) :
    MemOut P s (if c then a else b) := by
  split <;> assumption

/-- A write inside a page changes only the bytes it writes; it may hold them back for the page's journal copy. -/
theorem pageWrite_out (s : State) (unit a : Nat) (bs : List Byte) (bad : Bool) :
    MemOut (InRange a bs.length) s (pageWrite s unit a bs bad) := by
  have h := MemOut.refl (InRange a bs.length) s
  unfold pageWrite
  cases s.pageOf a with
  | none => exact h.store bad
  | some x =>
    dsimp only [betweenWrite]
    repeat' first
      | with_reducible exact h
      | with_reducible refine MemOut.ite ?_ ?_
      | with_reducible refine MemOut.store ?_ bad
      | with_reducible refine MemOut.modPart ?_ _ _
      | with_reducible refine MemOut.keeps ?_ (noteWritten_keeps Sub.rfl (Keeps.refl _ _)) rfl
      | with_reducible refine MemOut.keeps ?_ (noteLater_keeps Sub.rfl (Keeps.refl _ _)) rfl
      | with_reducible refine MemOut.keeps ?_ (noteBetween_keeps Sub.rfl (Keeps.refl _ _)) rfl
      | with_reducible refine MemOut.keeps ?_ (doNotSeal_keeps Sub.rfl (Keeps.refl _ _)) rfl
      | with_reducible refine MemOut.keeps ?_ (record_keeps Sub.rfl (Keeps.refl _ _)) rfl
      | with_reducible refine MemOut.keeps ?_ (jnlOverflow_keeps Sub.rfl (Keeps.refl _ _)) rfl
      | with_reducible refine MemOut.keeps ?_ (finalCheck_keeps Sub.rfl (Keeps.refl _ _)) rfl

theorem pieces_in {fuel unit off len : Nat} : ∀ c ∈ pieces fuel unit off len, off ≤ c.1 ∧ c.1 + c.2 ≤ off + len := by
  induction fuel generalizing off len with
  | zero => simp [pieces]
  | succ n ih =>
    intro c hc
    unfold pieces at hc
    split at hc
    · cases hc
    · simp only [List.mem_cons] at hc
      rcases hc with rfl | hc
      · simp only; omega
      · have := ih c hc
        omega

/-- A write to the chip's memory changes only the bytes it writes. -/
theorem chipWrite_out (s : State) (unit a : Nat) (bs : List Byte) (bad : Bool) :
    MemOut (InRange a bs.length) s (chipWrite s unit a bs bad) := by
  refine MemOut.each fun v c hc => (pageWrite_out v unit c.1 _ bad).mono fun j hj => ?_
  have := pieces_in c hc
  simp only [InRange, List.length_take, List.length_drop] at hj ⊢
  omega

/-- A planned write changes only the bytes it writes, less those of a descriptor table. -/
theorem planWrite_out (s : State) (unit a : Nat) (bs : List Byte) (bad : Bool) :
    MemOut (InRange a bs.length) s (planWrite s unit a bs bad) := by
  unfold planWrite
  refine MemOut.ite (chipWrite_out ..) ?_
  dsimp only
  split
  · rename_i h
    refine MemOut.trans ?_ ((chipWrite_out ..).mono fun j hj => ?_)
    · refine MemOut.trans (MemOut.of_eq (t := s.bumpSat _ _ _) rfl) ((chipWrite_out ..).mono fun j hj => ?_)
      simp only [InRange, List.length_take] at hj ⊢
      omega
    · simp only [InRange, List.length_drop] at hj ⊢
      omega
  · exact chipWrite_out ..

theorem planWriteAll_out (s : State) (unit : Nat) (rs : List (Nat × Nat)) (bs : List Byte) (bad : Bool) :
    MemOut (InRanges rs) s (planWriteAll s unit rs bs bad) := by
  induction rs generalizing s bs with
  | nil => exact .refl _ _
  | cons c r ih =>
    refine ((planWrite_out ..).mono fun j hj => ⟨c, .head _, ?_⟩).trans
      ((ih _ _).mono fun j ⟨d, hd, hj⟩ => ⟨d, .tail _ hd, hj⟩)
    simp only [InRange, List.length_take] at hj ⊢
    omega

/-- A write of the plan changes only the chip ranges its address names, and nothing where it is denied. -/
theorem planStore_out (s : State) (unit b a : Nat) (bs : List Byte) (bad : Bool) :
    MemOut (fun j => ∃ rs, s.planRange b a bs.length = some rs ∧ InRanges rs j) s (planStore s unit b a bs bad) := by
  unfold planStore
  split
  · rename_i rs h
    exact (planWriteAll_out ..).mono fun j hj => ⟨rs, h, hj⟩
  · exact .of_eq ((denyPlan_keeps Sub.rfl (Keeps.refl _ _)).mem rfl)

/-! ### What a place in SRAM holds after a write -/

theorem pageOf_sram (s : State) {a : Nat} (h : hbmBytes ≤ a) : s.pageOf a = none := by
  unfold State.pageOf
  simp only [ite_eq_right_iff]
  intro hc
  omega

/-- Pieces that start at `off` and are written in order leave each address what its piece wrote. -/
theorem each_pieces {f : State → Nat × Nat → State} {g : Nat → Byte} {U lo hi : Nat} (hU : 0 < U)
    (hout : ∀ t c, lo ≤ c.1 → MemOut (InRange c.1 c.2) t (f t c))
    (hin : ∀ t c j, lo ≤ c.1 → c.1 + c.2 ≤ hi → InRange c.1 c.2 j → memByte (f t c).mem j = g j) {fuel off len : Nat} (h0 : lo ≤ off)
    (h1 : off + len ≤ hi)     (hf : len / U + (if off % U = 0 then 1 else 2) ≤ fuel) (s : State) :
    ∀ j, InRange off len j → memByte (s.each (pieces fuel U off len) f).mem j = g j := by
  induction fuel generalizing off len s with
  | zero =>
    exfalso
    generalize len / U = x at hf
    split at hf <;> omega
  | succ n ih =>
    intro j hj
    have hlen : len ≠ 0 := by unfold InRange at hj; omega
    have hk : 0 < U - off % U := Nat.sub_pos_of_lt (Nat.mod_lt _ hU)
    unfold pieces
    simp only [hlen, if_false, State.each]
    by_cases hjk : j < off + min len (U - off % U)
    · have out : MemOut (fun x => off + min len (U - off % U) ≤ x) (f s (off, min len (U - off % U)))
          ((f s (off, min len (U - off % U))).each
            (pieces n U (off + min len (U - off % U)) (len - min len (U - off % U))) f) := by
        refine MemOut.each fun v c hc => (hout v c ?_).mono fun x hx => ?_
        · have := pieces_in c hc; omega
        · have := pieces_in c hc
          unfold InRange at hx
          omega
      rw [out.same j (by omega)]
      exact hin s _ j h0 (by simp only; omega) ⟨hj.1, hjk⟩
    · refine ih (by omega) (by omega) ?_ _ j ⟨by omega, by unfold InRange at hj; omega⟩
      by_cases hl : len ≤ U - off % U
      · unfold InRange at hj; omega
      · have hm : min len (U - off % U) = U - off % U := by omega
        rw [hm]
        have ha : (off + (U - off % U)) % U = 0 := by
          have h1 : off + (U - off % U) = U * (off / U + 1) := by
            have := Nat.div_add_mod off U
            have := Nat.mod_lt off hU
            rw [Nat.mul_add, Nat.mul_one]; omega
          rw [h1]; exact Nat.mul_mod_right _ _
        rw [if_pos ha]
        split at hf
        · rename_i h0
          rw [h0, Nat.sub_zero]
          have h1 : (len - U) / U = len / U - 1 := by simpa using Nat.sub_mul_div len U 1
          have h2 : 0 < len / U := Nat.div_pos (by omega) hU
          rw [h1]
          generalize len / U = x at *
          omega
        · have : (len - (U - off % U)) / U ≤ len / U := Nat.div_le_div_right (by omega)
          generalize len / U = x at *
          generalize (len - (U - off % U)) / U = y at *
          omega

/-- What is written to SRAM lands. -/
theorem chipWrite_in (s : State) (unit a : Nat) (bs : List Byte) (bad : Bool) (h : hbmBytes ≤ a) :
    ∀ j, InRange a bs.length j → memByte (chipWrite s unit a bs bad).mem j = (bs[j - a]?).getD 0 := by
  refine each_pieces (lo := a) (hi := a + bs.length) (U := pageBytes) (by decide) (fun t c _ => ?_)
    (fun t c j hc hi hj => ?_) (Nat.le_refl _) (Nat.le_refl _) (by split <;> omega) s
  · refine (pageWrite_out ..).mono fun x hx => ?_
    simp only [InRange, List.length_take, List.length_drop] at hx ⊢
    omega
  · simp only [pageWrite, pageOf_sram t (Nat.le_trans h hc)]
    unfold State.store
    rw [markPoison_mem]
    unfold InRange at hj
    have hl : j < c.1 + ((bs.drop (c.1 - a)).take c.2).length := by
      simp only [List.length_take, List.length_drop]; omega
    refine (memByte_write_in t.mem c.1 ((bs.drop (c.1 - a)).take c.2) j hj.1 hl).trans ?_
    rw [List.getElem?_take_of_lt (by omega), List.getElem?_drop]
    congr 2; omega

/-- What the plan writes to SRAM outside a descriptor table lands. -/
theorem planWrite_in (s : State) (unit a : Nat) (bs : List Byte) (bad : Bool) (h : hbmBytes ≤ a)
    (ht : ¬ (a < sramStart + sramBytes ∧ (tableOf s ((a - sramStart) / blockBytes)).1 < a + bs.length ∧
      a < (tableOf s ((a - sramStart) / blockBytes)).1 + (tableOf s ((a - sramStart) / blockBytes)).2)) :
    ∀ j, InRange a bs.length j → memByte (planWrite s unit a bs bad).mem j = (bs[j - a]?).getD 0 := by
  unfold planWrite
  split
  · exact chipWrite_in s unit a bs bad h
  · rename_i hc
    dsimp only
    rw [if_neg (fun e => ht ⟨by omega, e.1, e.2⟩)]
    exact chipWrite_in s unit a bs bad h

end Sys2Proof.Machine
end

