-- ==== Sys2Proof/WellFormed.lean ====
section
/-! DEFINITION. Which commands a sender can give: each unit that a command names is one of the device's. Values that an
entry's write carries are not bounded here: the write itself refuses one out of range (R353). -/

namespace Sys2Proof

/-- A copy of a slot: one of the 128 blocks (R8) and a SEQ of 24 bits (R86). -/
def Issue.wellFormed (i : Issue) : Bool := decide (i.block < 128) && decide (i.seq < 2 ^ 24)

/-- A unit that zeroing clears: one of the 128 blocks or of the 384 slices (R107). -/
def ZeroUnit.wellFormed (u : ZeroUnit) : Bool :=
  match u with
  | .block b => decide (b < 128)
  | .slice n => decide (n < 384)

/-- Where a delivery comes from: a channel of a block's mover (R82), a block and one of its 64 counters (R85), or a
collective of a partition. -/
def Delivery.wellFormed (d : Delivery) : Bool :=
  match d with
  | .mover block channel => decide (block < 128) && decide (channel < 2)
  | .remote block counter _ _ _ => decide (block < 128) && decide (counter < 64)
  | .coll part _ => decide (part < 128)

/-- The units a command names: 128 blocks of four cells and two mover channels (R8, R82), 128 partitions (R107), six
ports (R119), eight stacks (R101) and regions, two laser modules (R140), 1,024 functions (R179), 16 Tally channels (R339).
Where the table's row names no unit, every operand is well formed. -/
def Instr.wellFormed (c : Instr) : Bool :=
  match c with
  | .segmentRelease block | .streamFetch block _ _ | .ctlNop block _ | .sync block _ | .stepEnd block _
  | .loop block _ | .wait block _ | .dbase block _ | .digestCompare block _ _ | .yarrowVerdict block
  | .sramEccWriteback block _ =>
    decide (block < 128)
  | .cellNop i cell _ | .ldw i cell _ _ | .swap i cell _ | .lda i cell _ _ | .mul i cell _ _ | .sta i cell _
  | .clra i cell _ =>
    i.wellFormed && decide (cell < 4)
  | .vecNop i _ | .vld i _ _ | .vst i _ | .gather i _ _ | .scatter i _ | .scatterAdd i _ _ | .bcast i _
  | .add i _ | .sub i _ | .vecMul i _ | .fma i _ | .min i _ | .max i _ | .abs i _ | .neg i _ | .copysign i _
  | .cmp i _ | .sel i _ | .iadd i _ | .isub i _ | .imul i _ | .shl i _ | .shr i _ | .and i _ | .or i _
  | .xor i _ | .recip i _ | .sqrt i _ | .rsqrt i _ | .div i _ | .exp i _ | .exp2 i _ | .log i _ | .log2 i _
  | .tanh i _ | .sigmoid i _ | .erf i _ | .sin i _ | .cos i _ | .cvt i _ | .cvtMx i _ | .rsum i _ | .rmax i _
  | .rmin i _ | .argmax i _ | .argmin i _ | .finalize i _ =>
    i.wellFormed
  | .mvNop i channel _ | .copy i channel _ _ | .coll i channel _ _ =>
    i.wellFormed && decide (channel < 2)
  | .arrivalDelivery d =>
    d.wellFormed
  | .deltaPageSend r | .fillingPageSend r =>
    decide (r.part < 128)
  | .memoryRequest r =>
    decide (r.func < 1024)
  | .journalCopy part _ | .collCombine part _ _ _ _ _ | .planLoadChecksDone part _ | .sealVote part
  | .deltaWaitExpiry part | .vote part _ _ | .commit part _ | .restoreComplete part _ | .rolled part _ _
  | .rolledResend part | .resume part _ | .ready part _ _ | .deltaPageAck part _ _ _ _
  | .sealAdoptCmd _ part _ | .adoptionPullComplete part _ | .sealBuddy _ part _
  | .delayedRollbackStart part =>
    decide (part < 128)
  | .hbmPatrolRead stack _ _ _ | .patrolOverrun stack _ | .hbmOdeccPoll stack _ | .hbmRefresh stack _ =>
    decide (stack < 8)
  | .zeroWatermarkPass u _ | .zeroingComplete u =>
    u.wellFormed
  | .cmpPartOwner _ _ _ | .cmpPartTag _ _ _ | .cmpBlockPart _ _ _ | .memSlicePart _ _ _ | .memSliceUse _ _ _
  | .memSliceHost _ _ _ | .fabLaneOutClr _ _ _ | .clockUpstreamLoss _ | .fabClkUp _ _ | .packetInject _
  | .packetEject _ _ | .fabRtState _ _ _ | .fabEpochInj _ _ | .versionRetire _ | .fabDmap _ _ _
  | .fabVc1Res _ _ _ | .sqFetch | .nop _ | .write _ _ | .read _ _ _ | .hostCopy _ _ | .planLoad _ _
  | .planRun _ | .planStop _ | .planUnload _ | .fence _ | .mark _ | .hostMoverComplete _ | .hostCmdTimeout _
  | .coalesceTimeout _ | .hotReset | .vfEnableClear | .timeIncr _ _ | .timeStepNs _ _ | .offsetStepApply
  | .timeMasterPort _ _ | .timeNowSec _ | .syncSend | .syncMessage _ | .pdelayInitiate | .pdelayReq _
  | .pdelayResp _ | .syncLoss | .deltaPageReceive _ | .mergeComplete _ _ | .heartbeatSend | .report _ _
  | .probeTimeout _ | .probeAnswer _ _ _ | .reject _ _ _ | .arbWaitExpiry _ | .stewardCycleEnd
  | .stateCopy _ _ _ _ | .stateCopyMissing | .clvStwCmd _ _ | .powerOn _ | .porstnAssert _ _ | .porstnHeld
  | .porstnRelease _ | .fccWatchdogExpiry | .thermalTrip | .thermalTripClear | .warmReset _
  | .leaveRecoveryBoot _ | .pcieFundamentalReset | .rstDomCmd _ _ _ | .domainResetExit _ _ | .bringupStageEnd _
  | .pwrGoodFall | .pwrGoodTimeout | .plannedTimerExpiry _ _ | .gatekeeperRequest _ | .statusReply _ _ _ _ _ _
  | .replyReceive _ _ _ _ _ _ _ | .rstImgData _ _ | .imgErase _ | .imgCheck _ | .imgEraseDone | .imgCheckDone _
  | .droopStretch _ _ | .powerCapOvershoot | .pwrCapW _ _ | .ledgerRecord _ | .ledgerQueueDrain
  | .flashProgram _ | .ldgFlushExpiry _ | .flashEraseDone _ _ | .ldgClear _ _ | .ldgOvr _ _ _ | .odapOpen _
  | .odapClose _ | .sessionIdleTimeout _ | .request _ | .relayReq _ | .relayResp _ | .relayTimeout _ | .probe _
  | .status _ | .statusBroadcast | .vc0MgmtRequest _ _ | .vc0MgmtResponse _ _ | .vc0MgmtTimeout _
  | .keyWrite _ _ _ | .mgtKeyFabSel _ _ | .plcaBeaconLoss _ | .registerWrite _ _ _ _ _ | .frzAt _ _
  | .freezeFire | .frzPodGo _ | .trcFccMark _ _ | .lifeSample _ _ _ | .lifeSave | .marginTestStart
  | .marginStepDone _ | .timeCounterTick | .clockLockAcquired | .pwrGoodRise | .standbyPowerLoss
  | .orderlyShutdown | .policyClamp _ _ | .powerCapHold _ | .penaltyPointDecay _ | .pcieLinkUpOrDown _ _ _
  | .vfEnableSet _ | .perstRelease | .rcRead _ _ =>
    true
  | .fabPortAdmin _ port _ | .portFullRetrain _ port | .portClearCounters _ port
  | .trainingAttemptFail port _ _ _ | .portDownRetry port | .hello port _ _ _ | .txSlot port | .data port _
  | .nak port _ | .null port _ | .ackNullSend port | .replayTimerExpiry port | .laneWindowEnd port _
  | .lossOfLock port _ | .spareReq port _ | .spareOffer port _ | .spareGo port _ | .fastRetrainResume port
  | .widthReduction port _ _ | .creditSync port _ | .creditSyncSend port | .pause port _ _
  | .packetRoute port _ _ | .portHoldExpiry port | .heartbeat port _ _ | .neighbourMiss port
  | .faultNotice port _ _ | .flitCrcFailure port _ | .fecAligned port _ _ =>
    decide (port < 6)
  | .pauseSend vc _ | .e2eRetransmit _ vc _ | .e2eAckSend _ vc | .windowAcknowledgement _ vc _ _ _ _
  | .contextEvict _ _ vc =>
    decide (vc < 8)
  | .pauseExpiry port vc =>
    decide (port < 6) && decide (vc < 8)
  | .moduleInsert m | .moduleIdentified m _ | .moduleRemove m | .laserMonitorRead m _ | .laserFaultFlag m _ _
  | .laserHoursWrite m | .bolWrite m _ =>
    decide (m < 2)
  | .shaperDecision func | .fabShpRate _ func _ | .fabShpLevel _ func _ | .sqTailDb func _ _
  | .cqHeadDb func _ _ | .queueEnable func _ | .normalDisable func _ | .forcedDisable func _
  | .queueContextWrite func _ _ _ _ | .functionNormalDisableAll _ func | .functionForcedDisableAll _ func
  | .functionReset _ func | .functionLevelReset func | .hostFnQbase _ func _ | .hostFnQcount _ func _
  | .windowAccess func _ _ _ _ _ | .mboxGo func _ | .aerUncorrectableError func _ | .atsInvalidation func _ =>
    decide (func < 1024)
  | .tallyStart _ ch | .tallyStop _ ch | .tallyClearLanes _ ch | .tallyChunkRead ch _ | .tallyScanEnd ch
  | .tallyPeriod ch | .tlyLane _ ch _ _ =>
    decide (ch < 16)
  | .traceRingDrain region =>
    decide (region < 8)

end Sys2Proof
end

