-- ==== Sys2Proof/Tests/Slice0.lean ====
section
/-! SUPPORT. Tests: an ill-formed term for each check of WellFormed, small runs of one step, and for every statement with
hypotheses concrete states and operands that meet them. -/

namespace Sys2Proof.Tests

open Sys2Proof Sys2Proof.Machine

/- One at a time: the evaluations below would otherwise all start at once. -/
set_option Elab.async false

/-! ### Ill-formed commands are refused (R8, R82, R85, R86, R101, R107, R119, R140, R179, R339) -/

/-- A copy of a slot for block 0. -/
def iss (block copyB seq : Nat) : Issue :=
  { block := block, copy := if copyB = 0 then .a else .b, seq := seq, second := false, conflicts := [], desc := [] }

/-- A read of a function that no device has. -/
def req1024 : MemReq :=
  { role := .owner, part := 0, func := 1024, remote := false, tag := 0, raw := false, planned := false, unit := 0,
    write := false, offset := 0, len := 8, data := [], poison := false, ecc := [] }

theorem test_wf_block : (Instr.segmentRelease 128).wellFormed = false ∧ (Instr.segmentRelease 127).wellFormed = true := by decide
theorem test_wf_cell : (Instr.swap (iss 0 0 0) 4 0).wellFormed = false ∧
    (Instr.swap (iss 0 0 0) 3 0).wellFormed = true := by decide
theorem test_wf_issue_block : (Instr.cvt (iss 128 0 0) 0).wellFormed = false := by decide
theorem test_wf_issue_seq : (Instr.cvt (iss 0 0 (2 ^ 24)) 0).wellFormed = false := by decide
theorem test_wf_channel : (Instr.mvNop (iss 0 0 0) 2 0).wellFormed = false := by decide
theorem test_wf_delivery_mover : (Instr.arrivalDelivery (.mover 0 2)).wellFormed = false := by decide
theorem test_wf_delivery_counter : (Instr.arrivalDelivery (.remote 0 64 0 [] false)).wellFormed = false := by decide
theorem test_wf_delivery_part : (Instr.arrivalDelivery (.coll 128 0)).wellFormed = false := by decide
theorem test_wf_part : (Instr.sealVote 128).wellFormed = false ∧ (Instr.sealVote 127).wellFormed = true := by decide
theorem test_wf_stack : (Instr.hbmOdeccPoll 8 1).wellFormed = false := by decide
theorem test_wf_zero_block : (Instr.zeroingComplete (.block 128)).wellFormed = false := by decide
theorem test_wf_zero_slice : (Instr.zeroingComplete (.slice 384)).wellFormed = false := by decide
theorem test_wf_port : (Instr.txSlot 6).wellFormed = false ∧ (Instr.txSlot 5).wellFormed = true := by decide
theorem test_wf_vc : (Instr.pauseExpiry 0 8).wellFormed = false ∧ (Instr.pauseSend 8 0).wellFormed = false := by decide
theorem test_wf_module : (Instr.moduleInsert 2).wellFormed = false := by decide
theorem test_wf_function : (Instr.sqTailDb 1024 0 0).wellFormed = false := by decide
theorem test_wf_request : (Instr.memoryRequest req1024).wellFormed = false := by decide
theorem test_wf_channel_tally : (Instr.tallyScanEnd 16).wellFormed = false := by decide
theorem test_wf_region : (Instr.traceRingDrain 8).wellFormed = false := by decide

/-! ### Worked examples of the manual and known answers of the standards it names -/

/-- The device at power-on with its bring-up over: main rails good, stage 8. -/
def up : State :=
  { State.reset with rst := { standby := true, pwrEn := true, pwrGood := true, stage2Done := true } }.wr R.RST_STAGE 0 8

/-- The Operator on the host's path. -/
def opr : Who := { role := .operator, path := .pcie, func := 0 }

/-- The state after a command. -/
def aft (c : Instr) (s : State) : State :=
  match exec c s with
  | .next t => t
  | .fault _ => s
  | .refused _ => s

/-- The column of the example of R44: activations of the first block, then weights. -/
def mxA : List Byte := [0xC3, 0x15, 0xA7] ++ List.replicate 13 0
def mxW : List Byte := [0x17, 0x3E, 0xB5] ++ List.replicate 13 0

/-- 02, worked example: the first group sum is 32.5. -/
theorem test_mx_group : groupSum .mx (fvRow 5 32 mxA) (fvRow 5 32 mxW) 0x7E 0x81 = 0x42020000 := by decide +kernel

/-- 02, worked example: the tile tree's tie goes to the even code. -/
theorem test_tile_tree : treeSum add32 0 [0x42020000, 0xC0E00000, 0x36400000, 0x3F800000] = 0x41D40002 := by decide +kernel

/-- 02, worked example: the accumulator entry rounds once. -/
theorem test_acc_entry :
    (accEntry false false false 0x3F000000 false true { bits := 0x42800000 } 0x41D40002).1.bits = 0x429A8000 := by
  decide +kernel

/-- R47: of finite overflow to E4M3 with OVF = 0 the result is the largest finite value, 448. -/
theorem test_e4m3_saturates : (toFloat fE4M3 .near false (f32 0x47C35000)).bits = 0x7E := by decide +kernel

/-- 06, worked example: a packet of 16 flits takes 4,096 bytes of the level. -/
theorem test_charge : flitsOf 3680 = 16 ∧ 256 * flitsOf 3680 = 4096 := by decide +kernel

/-- R147: the last byte count of one flit and the first of two. -/
theorem test_flits : flitsOf 200 = 1 ∧ flitsOf 201 = 2 ∧ flitsOf 432 = 2 ∧ flitsOf 433 = 3 := by decide +kernel

/-- 06, worked example: debt across a change of rate, from −3,072 bytes at 10 bytes a nanosecond over 100 ns. -/
def inDebt : State :=
  (((up.wr R.FAB_SHP_BURST 18 65536).wr R.FAB_SHP_RATE 18 10000).wrI R.FAB_SHP_LEVEL 18 (-3072)).modTime
    fun u => { u with ns := 100 }

theorem test_shaper_debt :
    let t := aft (.fabShpRate opr 18 2000) inDebt
    t.rdI R.FAB_SHP_LEVEL 18 = -2072 ∧ t.rd R.FAB_SHP_RATE 18 = 2000 := by decide +kernel

/-- R199: the ends of TIME_INCR's range, and the values past them. -/
theorem test_time_incr :
    (aft (.timeIncr opr 0x01FF7CEE) up).rd R.TIME_INCR 0 = 0x01FF7CEE ∧
      (aft (.timeIncr opr 0x02008312) up).rd R.TIME_INCR 0 = 0x02008312 ∧
      (aft (.timeIncr opr 0x01FF7CED) up).rd R.TIME_INCR 0 = 0x02000000 ∧
      (aft (.timeIncr opr 0x02008313) up).rd R.TIME_INCR 0 = 0x02000000 := by decide +kernel

/-- 08, worked example: a step of −37,412 ns with no partition Running acts at the next tick. -/
theorem test_offset_step :
    let s := up.modTime fun u => { u with sec := 2, ns := 300000000 }
    (aft .offsetStepApply (aft (.timeStepNs opr (-37412)) s)).now = 2299962588 := by decide +kernel

/-- R384: seconds completed across a change of their upper bits. -/
theorem test_near_sec :
    nearSec 0x1FFFFFFF0 5 = 0x200000005 ∧ nearSec 0x200000005 0xFFFFFFF0 = 0x1FFFFFFF0 ∧ nearSec 7 5 = 5 := by
  decide +kernel

/-- R148: a flit tag's word, VC in bits 63 to 61, FIRST 60, LAST 59, INDEX 58 to 55. -/
theorem test_tag_word :
    tagWord { vc := 2, first := true, last := false, index := 0, resv := 0 } = 2 * 2 ^ 61 + 2 ^ 60 ∧
      tagOfWord (3 * 2 ^ 61 + 2 ^ 59 + 5 * 2 ^ 55) = { vc := 3, first := false, last := true, index := 5, resv := 0 } := by
  decide +kernel

/-- R387: a trace record's fields in its 128 bits. -/
theorem test_trace_record :
    traceBytes { seq := 1, operator := 2, layer := 3, unit := 0x2125, isEnd := true, time := 5 } =
      [5, 0, 0, 0, 0, 0x80, 0x25, 0x21, 3, 0, 2, 0, 0, 1, 0, 0] := by decide +kernel

/-- R399: round(CCLK / 100,000) − 9 at both ends of the range. -/
theorem test_clock_bucket :
    clockBucket (up.wr R.PWR_CCLK_KHZ 0 900000) = some 0 ∧ clockBucket (up.wr R.PWR_CCLK_KHZ 0 1800000) = some 9 := by
  decide +kernel

/-- The check values of CRC-64/XZ and CRC-32C. -/
theorem test_crc :
    crc64 (ascii "123456789") = 0x995DC9BBDF1939FA ∧ crc32c (ascii "123456789") = 0xE3069283 := by decide +kernel

/-- FIPS 180-4: SHA-256 of "abc". -/
theorem test_sha256 :
    sha256 (ascii "abc") =
      beBytes 32 0xBA7816BF8F01CFEA414140DE5DAE2223B00361A396177A9CB410FF61F20015AD := by decide +kernel

/-- RFC 4231, test case 2. -/
theorem test_hmac :
    hmac (ascii "Jefe") (ascii "what do ya want for nothing?") =
      beBytes 32 0x5BDCC146BF60754E6A042426089575C75A003F089D2739839DEC58B964EC3843 := by decide +kernel

/-- R384: an instant already past arms nothing and is counted. -/
theorem test_freeze_past :
    let s := up.modTime fun u => { u with sec := 7200 }
    let t := aft (.frzAt opr (7199 * 2 ^ 32)) s
    t.rd R.FRZ_MISSED 0 = 1 ∧ t.rd R.FRZ_STATE 0 = 0 ∧ (aft (.frzAt opr (7201 * 2 ^ 32)) s).rd R.FRZ_STATE 0 = 1 := by
  decide +kernel

/-! ### Scenarios: a device, a partition with a plan, a run -/

def splice (l : List Byte) (o : Nat) (bs : List Byte) : List Byte := l.take o ++ bs ++ l.drop (o + bs.length)
/-- A field of an image put in its place among fields in rising order. -/
def putField (f : Nat × Nat × Nat) : List (Nat × Nat × Nat) → List (Nat × Nat × Nat)
  | [] => [f]
  | g :: l => if f.1 < g.1 then f :: g :: l else g :: putField f l
/-- Fields in rising order laid out from a place on, zeros between and to the end. -/
def layFields (n : Nat) : Nat → List (Nat × Nat × Nat) → List Byte
  | a, [] => List.replicate (n - a) 0
  | a, f :: l => List.replicate (f.1 - a) 0 ++ leBytes f.2.1 f.2.2 ++ layFields n (f.1 + f.2.1) l
/-- An image of n bytes from fields: place, bytes, value. -/
def image (n : Nat) (fs : List (Nat × Nat × Nat)) : List Byte :=
  layFields n 0 (fs.foldl (fun l f => putField f l) [])
/-- Two plan blocks, two segments: sections at 0x200 apart from 0x200. -/
def sec (k : Nat) : Nat := 0x100 + 0x100 * k
def im0 : List Byte := image 0xC00 ([(0x008,8,0xC00),(0x010,8,0x77),(0x02C,4,2),(0x020,8,5),(0x028,4,1500000)] ++
  (List.range 10).flatMap (fun k => [(0x40+16*k,8,sec k),(0x48+16*k,8,if k = 9 then 32 else 0x100)]) ++
  [(sec 0,4,2),(sec 0+4,4,64),(sec 0+8,4,1),(sec 0 + 0x3C,4,1),(sec 0+0x28,4,4),(sec 0+0x2C,4,8),
   (sec 1,8,0),(sec 1+8,4,2),(sec 1+12,4,3),(sec 1+16,8,128),(sec 1+24,4,1),(sec 1+28,4,1),
   (sec 1+32,8,0),(sec 1+40,4,1),(sec 1+44,4,1),(sec 1+48,8,64),(sec 1+56,4,1),(sec 1+60,4,1),
   (sec 2,8,0x1122334455667788),(sec 2+64,8,0x99),(sec 2+128,8,0x77),
   (sec 3,4,100),(sec 3+4,4,2),(sec 3+80,4,100),(sec 3+84,4,1),
   (sec 4,4,2),(sec 4+64,4,0),(sec 4+68,4,2),(sec 4+80,1,4),(sec 4+88,4,128),(sec 4+96,4,2),(sec 4+112,1,2),(sec 4+120,4,128),(sec 4+128,4,2),(sec 4+144,4,0),(sec 4+148,4,1),
   (sec 5,8,1000),(sec 5+8,4,900),(sec 5+12,4,100),(sec 5+16,8,2000),(sec 5+24,4,1900),(sec 5+28,4,100),
   (sec 6,8,11),(sec 6+8,8,12),(sec 6+16,8,13),(sec 6+24,8,14),
   (sec 9,4,0),(sec 9+4,4,2),(sec 9+8,4,1),(sec 9+16,4,5),(sec 9+20,4,3),(sec 9+24,4,2)])
def okB (k : Nat) : List Byte := let b := leBytes 58 (k * 2 ^ 100); b ++ leBytes 3 0 ++ leBytes 3 (crc24 b)
def im1 : List Byte := (List.range 4).foldl (fun l k => splice l (sec 2 + 64 * k) (okB k)) im0
/-- Blocks 0 and 1 in partition 3, slice 0 for its plan, owner function 2, plan loaded. -/
def part3 : State :=
  let s := ((up.wr R.CMP_BLOCK_PART 0 3).wr R.CMP_BLOCK_PART 1 3).wr R.CMP_PART_OWNER 3 2
  let s := ((s.wr R.MEM_SLICE_PART 0 3).wr R.MEM_SLICE_USE 0 1).wr R.CMP_PART_TAG 3 9
  (((s.wr R.MEM_SLICE_PART 1 3).wr R.MEM_SLICE_USE 1 2).wr R.MEM_SLICE_PART 2 3).wr R.MEM_SLICE_USE 2 3
/-- A domain of tag 9 of 2 x 1 x 1 chips of which this is rank 0. -/
def dom3 (s : State) : State := (s.wr R.FAB_TORUS_DIM 0 (1 + 64*0)).wr R.FAB_DMAP 0 (2^63 + 9 * 2^47 + 1 * 2^24)
def loaded : State := (dom3 part3 |>.wr R.CMP_PLAN_STATE 3 2).modPart 3 fun q => { q with image := im0 }
def running : State := (loaded.wr R.CMP_PLAN_STATE 3 3 |>.wr R.SEAL_STEP 3 5 |>.wr R.SEAL_RUN 3 1).modPart 3 fun q =>
  { q with t0 := some (0, 100) }
def bufOf (j : Nat) : List Fetched := (List.range 2).flatMap fun g => (List.range 3).map fun n => { segment := g, number := n, bytes := sliceZ im0 (sec 2 + 64 * n + 64 * g) 64 }
def rel : State := (running.modTime fun t => { t with ns := 200 }).each [0,1] fun s b => s.modBlock b fun k => { k with released := true, seqA := { k.seqA with buffer := bufOf 0 }, seqB := { k.seqB with buffer := bufOf 0 } }
def takeAll (k : Block) : Block :=
  { k with
    consumers := (sortNat [conCell 0, conCell 1, conCell 2, conCell 3, conVec, conMover 0, conMover 1]).map fun c =>
      (c, { expected := (k.seqNo + 1) % 2 ^ 24, last := some (.a, k.seqNo), both := true }) }
def relT : State := rel.each [0,1] fun s b => s.modBlock b takeAll
/-- The smallest plan: one block, one segment, one bundle that ends the step. -/
def okBundle : List Byte :=
  let b := leBytes 58 (2 * 2 ^ (384 + 42))
  b ++ leBytes 3 0 ++ leBytes 3 (crc24 b)
def okHead : List Byte := image 0x3C0 ([(0,4,0x4C504C59),(4,2,1),(6,2,256),(8,8,0x3C0),(0x10,8,0x55),(0x20,8,3),(0x28,4,1000000),(0x2C,4,1),
  (0x40,8,0x100),(0x48,8,64),(0x50,8,0x140),(0x58,8,16),(0x60,8,0x180),(0x68,8,64),(0x70,8,0x1C0),(0x78,8,16),(0x90,8,0x200),(0x98,8,16),(0xA0,8,0x240),(0xA8,8,8),
  (0x80,8,0x280),(0x88,8,72),(0xB0,8,0x300),(0xB8,8,72),(0xC0,8,0x380),(0xC8,8,64),(0x280,4,1),(0x300,4,1),
  (0x100,4,1),(0x13C,4,1),(0x148,4,1),(0x14C,4,1),(0x200,8,15),(0x208,4,10),(0x20C,4,5)])
def okPlan : List Byte :=
  let a := splice okHead 0x180 okBundle
  splice a 0x18 (leBytes 8 10238729791782990515)
/-- a descriptor's bytes -/
def dsc (a b len tensor nctl ibase pitch : Nat) : List Byte :=
  leBytes 8 a ++ leBytes 8 b ++ leBytes 4 len ++ leBytes 3 tensor ++ leBytes 1 nctl ++ leBytes 5 ibase ++ leBytes 3 pitch
def vS : Nat := 0x400000000000
/-- descriptors 0.. of block 0 at line 0, data at line 16.. and HBM page 0 -/
def withMem (s : State) : State :=
  (((s.write (sramBase 0) ((List.range 8).flatMap fun k => dsc (if k % 2 = 0 then 0x100 else vS + 0x800) (if k % 4 < 2 then 0x4000 else vS + 0x8000 + k*0x100) (if k % 3 = 0 then 256 else 128) k 0 (vS + 0x800) (64 + 64*(k%3)))).write 0x100 ((List.range 64).map fun k => BitVec.ofNat 8 (k * 7 + 1))).write (sramBase 0 + 0x800) ((List.range 128).map fun k => BitVec.ofNat 8 (k * 13 + k / 256)))
def mrel : State := withMem rel

/-! ### States and operands that meet the hypotheses of each statement, clause by clause; a statement joined of parts has one for each -/

namespace B01

theorem witness_segment_release :
    (let s : State := running
     let s : State := s.modTime fun t => { t with ns := 1000 }
     let b : Nat := 0
     let t0 : Int := 100
     ((s.part (s.partOf b)).t0Ns = some t0) ∧ (s.partOf b < 128) ∧ (s.pstate (s.partOf b) = psRunning) ∧ (s.unitUp (uBlock b) = true) ∧ ((s.block b).ended = false) ∧ ((s.block b).released = false) ∧ (t0 ≤ s.now)) ∧
    (let s : State := rel
     let s : State := { s with router := { s.router with colls := [{ part := 3, entry := 0, started := true, block := 0, counter := 2, results := [(0, List.replicate 128 1), (1, List.replicate 128 2)] }] } }
     let s : State := s.wr R.CMP_SEQ_A 1 0
     let s : State := s.modBlock 1 fun k => { k with released := true, syncDone := true }
     let s : State := s.modTime fun t => { t with ns := 100000 }
     let b : Nat := 1
     let t0 : Int := 100
     ((s.part (s.partOf b)).t0Ns = some t0) ∧ (s.partOf b < 128) ∧ (s.pstate (s.partOf b) = psRunning) ∧ (s.unitUp (uBlock b) = true) ∧ ((s.block b).ended = false) ∧ ((s.block b).released = true) ∧ ((s.block b).syncDone = true) ∧ (t0 + ↑(syncOffset (s.img (s.partOf b)) (s.block b).segment) ≤ s.now)) ∧
    (let s : State := running
     let b : Nat := 0
     let t0 : Int := 100
     ((s.part (s.partOf b)).t0Ns = some t0) ∧ (s.partOf b < 128) ∧ (s.pstate (s.partOf b) = psRunning) ∧ (s.unitUp (uBlock b) = true) ∧ ((s.block b).ended = false) ∧ ((s.block b).released = false) ∧ (s.now < t0)) :=
  ⟨by decide +kernel,
   by decide +kernel,
   by decide +kernel⟩

theorem witness_control_slots :
    (let s : State := relT
     let b : Nat := 0
     (canIssue s b = true) ∧ (slotsTaken (s.block b) = true)) ∧
    (let s : State := up
     let b : Nat := 0
     let w : MovSlot := 0x000000000001#48
     let c : Instr := Sys2Proof.Instr.loop 0 0x000000000001#48
     (canIssue s b = false ∨ slotsTaken (s.block b) = false) ∧ (c ∈ [Instr.ctlNop b w, Instr.loop b w, Instr.dbase b w, Instr.wait b w, Instr.sync b w, Instr.stepEnd b w])) :=
  ⟨by decide +kernel,
   by decide +kernel⟩

theorem witness_step_end_and_finalize :
    (let s : State := relT
     let b : Nat := 1
     (canIssue s b = true) ∧ (slotsTaken (s.block b) = true)) ∧
    (let s : State := relT
     let i : Issue := { block := 0, copy := Sys2Proof.SeqId.b, seq := 0, second := false, conflicts := [], desc := [] }
     Taken s i conRegion ∧ (slotsTaken (s.block i.block) = true)) :=
  ⟨by decide +kernel,
   by unfold Taken; decide +kernel⟩

theorem witness_stream_fetch :
    (let s : State := (loaded.modPart 3 fun q => { q with image := im1 }).wr R.MEM_SLICE_USE 0 0
     let b : Nat := 0
     let d : List Byte × Bool := (sliceZ im1 0x300 64, false)
     (s.hasPlan (s.partOf b) = true) ∧ (s.unitUp (uBlock b) = true) ∧ (s.seqUp b SeqId.a = true) ∧ ((List.filter (s.block b).needs (s.block b).seqA.buffer).length < 1024) ∧ ((s.block b).seqA.nextSeg < imgSegments (s.img (s.partOf b))) ∧ ((s.block b).seqA.nextNo < (dirEntry (s.img (s.partOf b)) (s.planBlock b) (s.block b).seqA.nextSeg).2.1) ∧ ((readBundle s b SeqId.a (secOff (s.img (s.partOf b)) 2 + (dirEntry (s.img (s.partOf b)) (s.planBlock b) (s.block b).seqA.nextSeg).1 + 64 * (s.block b).seqA.nextNo)).2 = some d) ∧ (d.2 = false) ∧ (checkOk d.1 = true)) ∧
    (let s : State := loaded
     let s : State := s.wr R.CMP_SEQ_B 0 1
     let b : Nat := 0
     let d : List Byte × Bool := ([0x00#8, 0x00#8, 0x00#8, 0x00#8, 0x00#8, 0x00#8, 0x00#8, 0x00#8, 0x00#8, 0x00#8, 0x00#8, 0x00#8, 0x00#8, 0x00#8, 0x00#8, 0x00#8, 0x00#8, 0x00#8, 0x00#8, 0x00#8, 0x00#8, 0x00#8, 0x00#8, 0x00#8, 0x00#8, 0x00#8, 0x00#8, 0x00#8, 0x00#8, 0x00#8, 0x00#8, 0x00#8, 0x00#8, 0x00#8, 0x00#8, 0x00#8, 0x00#8, 0x00#8, 0x00#8, 0x00#8, 0x00#8, 0x00#8, 0x00#8, 0x00#8, 0x00#8, 0x00#8, 0x00#8, 0x00#8, 0x00#8, 0x00#8, 0x00#8, 0x00#8, 0x00#8, 0x00#8, 0x00#8, 0x00#8, 0x00#8, 0x00#8, 0x00#8, 0x00#8, 0x00#8, 0x00#8, 0x00#8, 0x00#8], false)
     (s.hasPlan (s.partOf b) = true) ∧ (s.unitUp (uBlock b) = true) ∧ (s.seqUp b SeqId.a = true) ∧ ((List.filter (s.block b).needs (s.block b).seqA.buffer).length < 1024) ∧ ((s.block b).seqA.nextSeg < imgSegments (s.img (s.partOf b))) ∧ ((s.block b).seqA.nextNo < (dirEntry (s.img (s.partOf b)) (s.planBlock b) (s.block b).seqA.nextSeg).2.1) ∧ ((readBundle s b SeqId.a (secOff (s.img (s.partOf b)) 2 + (dirEntry (s.img (s.partOf b)) (s.planBlock b) (s.block b).seqA.nextSeg).1 + 64 * (s.block b).seqA.nextNo)).2 = some d) ∧ (s.seqUp b SeqId.b = false)) :=
  ⟨by decide +kernel,
   by decide +kernel⟩

theorem witness_digest_compare :
    (let s : State := relT
     let s : State := s.modBlock 1 fun k => { k with seqA := { k.seqA with report := some { segment := k.segment, digest := if 6 % 2 = 0 then segDigest im0 1 k.segment else 6 } } , seqB := { k.seqB with report := some { segment := k.segment, digest := if 6 % 3 = 0 then segDigest im0 1 k.segment else 6 } }}
     let s : State := s.wr R.CMP_SEQ_A 1 0
     let b : Nat := 1
     let maskA : Nat := 0
     let maskB : Nat := 0
     let x : SeqReport := { segment := 0, digest := 13, took := false }
     let y : SeqReport := { segment := 0, digest := 13, took := false }
     ((s.block b).seqA.report = some x) ∧ ((s.block b).seqB.report = some y) ∧ (xorN x.digest maskA = segDigest (s.img (s.partOf b)) (s.planBlock b) x.segment) ∧ (xorN y.digest maskB = segDigest (s.img (s.partOf b)) (s.planBlock b) y.segment)) ∧
    (let s : State := up
     let s : State := s.modBlock 1 fun k => { k with seqA := { k.seqA with report := some { segment := k.segment, digest := if 1 % 2 = 0 then segDigest im0 1 k.segment else 1 } } , seqB := { k.seqB with report := some { segment := k.segment, digest := if 1 % 3 = 0 then segDigest im0 1 k.segment else 1 } }}
     let b : Nat := 1
     let maskA : Nat := 7
     let maskB : Nat := 1
     let x : SeqReport := { segment := 0, digest := 1, took := false }
     let y : SeqReport := { segment := 0, digest := 1, took := false }
     ((s.block b).seqA.report = some x) ∧ ((s.block b).seqB.report = some y) ∧ (xorN x.digest maskA ≠ segDigest (s.img (s.partOf b)) (s.planBlock b) x.segment) ∧ (xorN y.digest maskB = segDigest (s.img (s.partOf b)) (s.planBlock b) y.segment) ∧ (s.rd R.CMP_SEQ_A b = 0)) ∧
    (let s : State := relT
     let s : State := s.modBlock 0 fun k => { k with seqB := { k.seqB with nextNo := 0, nextSeg := 0, report := some { segment := k.segment, digest := if 0 % 2 = 0 then segDigest im0 0 k.segment else 0 } } }
     let s : State := s.modBlock 0 fun k => { k with seqA := { k.seqA with report := some { segment := k.segment, digest := if 0 % 2 = 0 then segDigest im0 0 k.segment else 0 } } , seqB := { k.seqB with report := some { segment := k.segment, digest := if 0 % 3 = 0 then segDigest im0 0 k.segment else 0 } }}
     let b : Nat := 0
     let maskA : Nat := 0
     let maskB : Nat := 4
     let x : SeqReport := { segment := 0, digest := 11, took := false }
     let y : SeqReport := { segment := 0, digest := 11, took := false }
     ((s.block b).seqA.report = some x) ∧ ((s.block b).seqB.report = some y) ∧ (xorN x.digest maskA = segDigest (s.img (s.partOf b)) (s.planBlock b) x.segment) ∧ (xorN y.digest maskB ≠ segDigest (s.img (s.partOf b)) (s.planBlock b) y.segment) ∧ (s.rd R.CMP_SEQ_B b = 0)) ∧
    (let s : State := rel
     let s : State := s.modBlock 0 fun k => { k with seqA := { k.seqA with report := some { segment := k.segment, digest := if 1 % 2 = 0 then segDigest im0 0 k.segment else 1 } } , seqB := { k.seqB with report := some { segment := k.segment, digest := if 1 % 3 = 0 then segDigest im0 0 k.segment else 1 } }}
     let b : Nat := 0
     let maskA : Nat := 1
     let maskB : Nat := 7
     let x : SeqReport := { segment := 0, digest := 1, took := false }
     let y : SeqReport := { segment := 0, digest := 1, took := false }
     ((s.block b).seqA.report = some x) ∧ ((s.block b).seqB.report = some y) ∧ (xorN x.digest maskA ≠ segDigest (s.img (s.partOf b)) (s.planBlock b) x.segment) ∧ (xorN y.digest maskB ≠ segDigest (s.img (s.partOf b)) (s.planBlock b) y.segment) ∧ (s.partOf b < 128) ∧ (s.active (s.partOf b) = true)) :=
  ⟨by decide +kernel,
   by decide +kernel,
   by decide +kernel,
   by decide +kernel⟩

theorem witness_arrivals :
    (let s : State := running
     let b : Nat := 4
     let counter : Nat := 3
     let offset : Nat := 0
     let data : List Byte := []
     let rs : List (Nat × Nat) := []
     (s.viewRange (s.partOf b) offset data.length = some rs) ∧ ((s.block b).arrived counter < 255) ∧ ((s.block b).waiting = none)) ∧
    (let s : State := rel
     let s : State := s.modTime fun t => { t with ns := 53 }
     let s : State := s.modPart 3 fun q => { q with image := im1 }
     let s : State := s.modBlock 0 fun k => { k with movers := [(0, [{ counter := 2, toBlock := 0, dst := if 6 % 2 == 0 then 0x100 else vS + 64 * 6, runs := [(List.replicate 64 7, false)]}])] }
     let s : State := s.modBlock 0 fun k => { k with arrivals := mapSet 0 k.arrivals 0 (if 0 % 3 == 0 then 255 else 0 % 256), waiting := if 0 < 3 then none else some (0%4, 0)}
     let b : Nat := 0
     let counter : Nat := 0
     let offset : Nat := 1
     let data : List Byte := [0x00#8, 0x5b#8]
     let rs : List (Nat × Nat) := [(1, 2)]
     (s.viewRange (s.partOf b) offset data.length = some rs) ∧ (255 ≤ (s.block b).arrived counter) ∧ (s.partOf b < 128) ∧ (s.active (s.partOf b) = true)) ∧
    (let s : State := running
     let s : State := s.modBlock 1 fun k => { k with movers := [(0, [{ counter := 2, toBlock := 1, dst := if 2 % 2 == 0 then 0x100 else vS + 64 * 2, runs := [(List.replicate 64 7, false)]}])] }
     let b : Nat := 1
     let ch : Nat := 0
     let x : Transfer := { counter := 2, toBlock := 1, dst := 256, runs := [([0x07#8, 0x07#8, 0x07#8, 0x07#8, 0x07#8, 0x07#8, 0x07#8, 0x07#8, 0x07#8, 0x07#8, 0x07#8, 0x07#8, 0x07#8, 0x07#8, 0x07#8, 0x07#8, 0x07#8, 0x07#8, 0x07#8, 0x07#8, 0x07#8, 0x07#8, 0x07#8, 0x07#8, 0x07#8, 0x07#8, 0x07#8, 0x07#8, 0x07#8, 0x07#8, 0x07#8, 0x07#8, 0x07#8, 0x07#8, 0x07#8, 0x07#8, 0x07#8, 0x07#8, 0x07#8, 0x07#8, 0x07#8, 0x07#8, 0x07#8, 0x07#8, 0x07#8, 0x07#8, 0x07#8, 0x07#8, 0x07#8, 0x07#8, 0x07#8, 0x07#8, 0x07#8, 0x07#8, 0x07#8, 0x07#8, 0x07#8, 0x07#8, 0x07#8, 0x07#8, 0x07#8, 0x07#8, 0x07#8, 0x07#8], false)], desc := 0, seq := 0, landing := false }
     let rest : List Transfer := []
     (mapGet [] (s.block b).movers ch = x :: rest) ∧ (x.landing = false) ∧ (transferHeld (storeRuns s (uMover b) b x.dst x.runs) b x = false) ∧ ((s.planRange b x.dst (runBytes x.runs).length).isSome = true) ∧ ((s.block x.toBlock).arrived x.counter < 255) ∧ ((s.block x.toBlock).waiting = none)) ∧
    (let s : State := relT
     let x : Transfer := { counter := 1, toBlock := 0, dst := 0x100, runs := [(List.replicate 64 7, false)] }
     let rest : List Transfer := []
     let b : Nat := 0
     let ch : Nat := 0
     let s : State := s.modBlock b fun k => { k with movers := [(ch, [x])] }
     let a : Nat := match s.planRange b 0x100 64 with | some (c :: _) => c.1 | _ => 0
     let s : State := s.modPart 3 fun q => { q with held := [{ page := 0, addr := a, data := [1], poison := false }] }
     (mapGet [] (s.block b).movers ch = x :: rest) ∧ (x.landing = false) ∧ (transferHeld (storeRuns s (uMover b) b x.dst x.runs) b x = true)) ∧
    (let s : State := rel
     let s : State := { s with router := { s.router with colls := [{ part := 3, entry := 0, started := true, block := 1, counter := 1, results := [(0, List.replicate 128 1), (1, List.replicate 128 2)] }] } }
     let s : State := s.wr R.CMP_BLOCK_PART 1 (if 4096 % 2 == 0 then 3 else 0xFF)
     let s : State := s.each (List.range 2) fun s k => s.modBlock k fun q => { q with consumers := [(5, { expected := 5 })] }
     let p : Nat := 3
     let e : Nat := 0
     ((s.coll p e).started = true) ∧ (∀ j ∈ collNeeds (collEntry s p e) (placeOf s p (collMembers s p e)), mapHas (s.coll p e).results j = true) ∧ ((s.block (s.coll p e).block).arrived (s.coll p e).counter < 255) ∧ ((s.block (s.coll p e).block).waiting = none)) :=
  ⟨by decide +kernel,
   by decide +kernel,
   by decide +kernel,
   by decide +kernel,
   by decide +kernel⟩

end B01

namespace B02

def words (f : Nat → Nat) : List Word := (List.range 1024).map fun k => BitVec.ofNat 32 (f k)
def vr : Map VReg := [(0, {lanes := words fun k => k * 3}), (1, {lanes := words fun k => 0x3F800000 + k * 65537}), (2, {lanes := words fun k => (k * 2654435761) % 2^32}), (3, { lanes := words fun k => 0xFF800000 + k, poison := [5, 17]})]
def slotOf (fmt : Nat) : TileSlot := { fmt := some fmt, weight := (List.range 8192).map fun k => BitVec.ofNat 8 (k * 5 + 1), scale := List.replicate 1024 127 }
def cells (f : Nat) : Map Cell := (List.range 5).map fun c => (c, { active := slotOf f, shadow := slotOf (f+1), acc := [(3, {bits := 0x3F800000}), (64, {bits := 5, int := true}), (16380, {bits := 7})], buf := (List.range 8).map fun k => (k, {bytes := (List.range 128).map fun j => BitVec.ofNat 8 (j * k), scale := [127,127,127,128]}) })
def vrel : State := mrel.modBlock 0 fun k => { k with vregs := vr, cells := cells 2, csActive := [(0, slotOf 2), (1, slotOf 3)] }
def vrelI : State := mrel.modBlock 0 fun k => { k with vregs := vr, cells := cells 8, csActive := [(0, slotOf 8), (1, slotOf 3)] }

theorem witness_slots_are_taken_once :
    (let s : State := vrel
     let i : Issue := { block := 0, copy := Sys2Proof.SeqId.a, seq := 0, second := false, conflicts := [], desc := [] }
     let cell : Nat := 0
     let ch : Nat := 1
     let w : CellSlot := 0x0e00c815ab#40
     let v : VecSlot := 0x000018c03d07a25a#64
     let m : MovSlot := 0x000000000009#48
     let x : Instr × Nat := (Sys2Proof.Instr.cellNop { block := 0, copy := Sys2Proof.SeqId.a, seq := 0, second := false, conflicts := [], desc := [] } 0 0x0e00c815ab#40, 0)
     (i.second = false) ∧ (s.seqUp i.block i.copy = true) ∧ (s.unitUp (uBlock i.block) = true) ∧ (x ∈ [(Instr.cellNop i cell w, conCell cell), (Instr.vecNop i v, conVec), (Instr.mvNop i ch m, conMover ch)]) ∧ (canIssue s i.block = true) ∧ (i.seq = (mapGet { } (s.block i.block).consumers x.2).expected) ∧ ((mapGet { } (s.block i.block).consumers x.2).expected = (s.block i.block).seqNo)) ∧
    (let s : State := vrelI
     let s : State := s.modBlock 0 fun k => { k with consumers := [(6, { expected := 1, last := some (.a, 0)})] }
     let i : Issue := { block := 0, copy := Sys2Proof.SeqId.b, seq := 0, second := false, conflicts := [], desc := [] }
     let cell : Nat := 6
     let ch : Nat := 1
     let w : CellSlot := 0x0d00d94945#40
     let v : VecSlot := 0x00e01802060790d6#64
     let m : MovSlot := 0x000000000000#48
     let x : Instr × Nat := (Sys2Proof.Instr.cellNop { block := 0, copy := Sys2Proof.SeqId.b, seq := 0, second := false, conflicts := [], desc := [] } 6 0x0d00d94945#40, 6)
     (i.second = false) ∧ (s.seqUp i.block i.copy = true) ∧ (s.unitUp (uBlock i.block) = true) ∧ (x ∈ [(Instr.cellNop i cell w, conCell cell), (Instr.vecNop i v, conVec), (Instr.mvNop i ch m, conMover ch)]) ∧ (i.seq = ((mapGet { } (s.block i.block).consumers x.2).expected + (2 ^ 24 - 1)) % 2 ^ 24)) ∧
    (let s : State := running
     let i : Issue := { block := 0, copy := .a, seq := 0, second := false, conflicts := [], desc := [] }
     let cell : Nat := 0
     let ch : Nat := 0
     let w : CellSlot := 0
     let v : VecSlot := 0
     let m : MovSlot := 0
     let x : Instr × Nat := (.cellNop i cell w, conCell cell)
     (i.second = false) ∧ (s.seqUp i.block i.copy = true) ∧ (s.unitUp (uBlock i.block) = true) ∧ (x ∈ [(Instr.cellNop i cell w, conCell cell), (Instr.vecNop i v, conVec), (Instr.mvNop i ch m, conMover ch)]) ∧ (canIssue s i.block = false) ∧ (i.seq ≠ ((mapGet { } (s.block i.block).consumers x.2).expected + (2 ^ 24 - 1)) % 2 ^ 24)) :=
  ⟨by decide +kernel,
   by decide +kernel,
   by decide +kernel⟩

theorem witness_cell_slots :
    (let s : State := vrel
     let i : Issue := { block := 1, copy := Sys2Proof.SeqId.a, seq := 0, second := false, conflicts := [], desc := [] }
     let c : Nat := 1
     Taken s i (conCell c) ∧ Wf s) ∧
    (let s : State := vrel
     let i : Issue := { block := 0, copy := Sys2Proof.SeqId.b, seq := 0, second := false, conflicts := [], desc := [] }
     let c : Nat := 6
     Taken s i (conCell c)) :=
  ⟨⟨by unfold Taken; decide +kernel, by constructor <;> decide +kernel⟩,
   by unfold Taken; decide +kernel⟩

theorem witness_lda :
    (let s : State := vrel
     let i : Issue := { block := 0, copy := Sys2Proof.SeqId.b, seq := 0, second := false, conflicts := [], desc := [] }
     let c : Nat := 6
     Taken s i (conCell c) ∧ Wf s) :=
  ⟨by unfold Taken; decide +kernel, by constructor <;> decide +kernel⟩

theorem witness_multiply_accumulates :
    (let s : State := vrel
     let s : State := { s with poison := [sramBase 0 / 8 + 0x100 + 128 % 64] }
     let s : State := s.wr R.CMP_SEQ_B 0 0
     let s : State := s.modBlock 0 fun k => { k with consumers := [(4, { expected := 1, last := some (.a, 0)})] }
     let s : State := s.modBlock 0 fun k => { k with consumers := [(6, { expected := 1, last := some (.a, 0)})] }
     let i : Issue := { block := 0, copy := Sys2Proof.SeqId.b, seq := 0, second := false, conflicts := [], desc := [] }
     let c : Nat := 1
     let w : CellSlot := 0x0101150316#40
     let fmt : Nat := 2
     let q : Pairing := { k := 128, n := 256, g := 0, kind := Sys2Proof.Machine.PairKind.int }
     Taken s i (conCell c) ∧ ((activeSlot s i.block c).fmt = some fmt) ∧ (pairing fmt (mulFmt w) = some q) ∧ (accAllowed q (mulInt w) = true)) ∧
    (let s : State := vrel
     let s : State := s.modBlock 0 fun k => { k with consumers := [(4, { expected := 1, last := some (.a, 0)})] }
     let i : Issue := { block := 0, copy := Sys2Proof.SeqId.b, seq := 0, second := false, conflicts := [], desc := [] }
     let c : Nat := 3
     let w : CellSlot := 0x0e00667e7b#40
     let fmt : Nat := 2
     Taken s i (conCell c) ∧ ((activeSlot s i.block c).fmt = some fmt) ∧ (∀ (q : Pairing), pairing fmt (mulFmt w) = some q → accAllowed q (mulInt w) = false) ∧ (s.partOf i.block < 128) ∧ (s.active (s.partOf i.block) = true)) :=
  ⟨by unfold Taken; decide +kernel,
   by unfold Taken; decide +kernel⟩

theorem witness_stores_of_accumulators :
    (let s : State := vrel
     let i : Issue := { block := 0, copy := Sys2Proof.SeqId.a, seq := 0, second := false, conflicts := [], desc := [] }
     let c : Nat := 0
     Taken s i (conCell c)) :=
  by unfold Taken; decide +kernel

theorem witness_lane_operations :
    (let s : State := vrel
     let i : Issue := { block := 0, copy := Sys2Proof.SeqId.a, seq := 0, second := false, conflicts := [], desc := [] }
     Taken s i conVec) :=
  by unfold Taken; decide +kernel

theorem witness_reductions :
    (let s : State := vrel
     let i : Issue := { block := 1, copy := Sys2Proof.SeqId.b, seq := 0, second := false, conflicts := [], desc := [] }
     Taken s i conVec) :=
  by unfold Taken; decide +kernel

theorem witness_vector_loads :
    (let s : State := vrel
     let i : Issue := { block := 0, copy := Sys2Proof.SeqId.a, seq := 0, second := false, conflicts := [], desc := [] }
     Taken s i conVec ∧ Wf s) :=
  ⟨by unfold Taken; decide +kernel, by constructor <;> decide +kernel⟩

theorem witness_vector_stores :
    (let s : State := vrel
     let i : Issue := { block := 0, copy := Sys2Proof.SeqId.a, seq := 0, second := false, conflicts := [], desc := [] }
     Taken s i conVec) :=
  by unfold Taken; decide +kernel

end B02

namespace B03

def idle3 : State := withMem (dom3 part3)

theorem witness_memory_upkeep :
    (let s : State := up
     let s : State := { s with power := { s.power with holdUnplanned := true } }
     s.power.holdUnplanned = true) ∧
    (let s : State := up
     let stack : Nat := 3
     let sector : Nat := 1
     (stack < 8) ∧ (64 * sector < stackBytes) ∧ (s.power.holdUnplanned = false) ∧ (s.rd R.MEM_ZERO_SLICE ((stack * stackBytes + 64 * sector) / gib) ≠ 2) ∧ (s.poisoned (stack * stackBytes + 64 * sector) 64 = false)) :=
  ⟨by decide +kernel,
   by decide +kernel⟩

theorem witness_memory_requests :
    (let s : State := idle3
     let r : MemReq := { role := Sys2Proof.Role.owner, part := 255, func := 0, remote := true, tag := 9, raw := true, planned := false, unit := 8448, write := false, offset := 256, len := 8, data := [], poison := false, ecc := [] }
     (r.offset < dictBase) ∧ (reqRange s r = none) ∧ (r.planned = false)) ∧
    (let s : State := idle3
     let s : State := s.wr R.MEM_ZERO_SLICE 0 0
     let s : State := s.each (List.range 8) fun s k => (s.wr R.MEM_ZERO_BLOCK k 1).wr R.MEM_ZERO_SLICE k 2
     let r : MemReq := { role := Sys2Proof.Role.operator, part := 3, func := 2, remote := false, tag := 9, raw := true, planned := false, unit := 24582, write := false, offset := 256, len := 8, data := [], poison := true, ecc := [] }
     let rs : List (Nat × Nat) := [(256, 8)]
     (r.offset < dictBase) ∧ (reqRange s r = some rs) ∧ (∃ c ∈ rs, (holdOf s c.1 c.2).isSome = true)) ∧
    (let s : State := idle3
     let r : MemReq := { role := Sys2Proof.Role.operator, part := 0, func := 2, remote := false, tag := 9, raw := true, planned := false, unit := 8448, write := false, offset := 256, len := 8, data := [], poison := true, ecc := [] }
     let rs : List (Nat × Nat) := [(256, 8)]
     (r.offset < dictBase) ∧ (reqRange s r = some rs) ∧ (∀ c ∈ rs, holdOf s c.1 c.2 = none) ∧ (r.write = false)) ∧
    (let s : State := up
     let r : MemReq := { role := Sys2Proof.Role.operator, part := 3, func := 2, remote := false, tag := 9, raw := true, planned := false, unit := 8448, write := true, offset := 1342177280, len := 0, data := [], poison := true, ecc := [] }
     let rs : List (Nat × Nat) := []
     (r.offset < dictBase) ∧ (reqRange s r = some rs) ∧ (∀ c ∈ rs, holdOf s c.1 c.2 = none) ∧ (r.write = true)) :=
  ⟨by decide +kernel,
   by decide +kernel,
   by decide +kernel,
   by decide +kernel⟩

theorem witness_journal_copy :
    (let s : State := idle3
     let p : Nat := 7
     let page : Nat := 0
     List.filter (fun h => h.page == page) (s.part p).held = []) ∧
    (let s : State := idle3
     let s : State := s.modPart 3 fun q => { q with held := [{page := 0, addr := 0x110, data := [1,2,3]}, { page := 0, addr := 0x10000 * 0 + 8, data := [5]}] }
     let p : Nat := 3
     let page : Nat := 0
     (List.filter (fun h => h.page == page) (s.part p).held ≠ []) ∧ (s.active p = false)) ∧
    (let s : State := mrel.modPart 3 fun q => { q with held := [{page := 0, addr := 0x110, data := [1,2,3]}, { page := 0, addr := 8, data := [5]}] }
     let s : State := s.modBlock 0 fun k => { k with vregs := [(1, {})], arrivals := [(1,4)] }
     let s : State := { s with power := { s.power with holdUnplanned := true } }
     let s : State := s.wr R.MEM_ZERO_BLOCK 0 0
     let s : State := s.wr R.MEM_ZERO_SLICE 3 1
     let p : Nat := 3
     let page : Nat := 0
     let k : Nat := 0
     let a : Nat := 0
     (List.filter (fun h => h.page == page) (s.part p).held ≠ []) ∧ (s.active p = true) ∧ (jnlFree s p = some k) ∧ (s.pageAddr p page = some a) ∧ Wf s) :=
  ⟨by decide +kernel,
   by decide +kernel,
   ⟨by decide +kernel, by decide +kernel, by decide +kernel, by decide +kernel, by constructor <;> decide +kernel⟩⟩

theorem witness_zeroing :
    (let s : State := idle3
     let s : State := s.wr R.MEM_ZERO_BLOCK 0 1
     let mark : Nat := 3
     let b : Nat := 0
     let k : Nat := 0
     (s.power.holdUnplanned = false) ∧ (b < 128) ∧ (k < 384) ∧ (s.rd R.MEM_ZERO_BLOCK b = 1) ∧ (mark ≤ 65535)) ∧
    (let s : State := idle3
     let s : State := s.wr R.MEM_ZERO_SLICE 3 2
     let mark : Nat := 0
     let b : Nat := 3
     let k : Nat := 3
     (s.power.holdUnplanned = false) ∧ (b < 128) ∧ (k < 384) ∧ (s.rd R.MEM_ZERO_SLICE k = 2) ∧ (mark ≤ 16777216)) ∧
    (let s : State := idle3
     let s : State := s.wr R.MEM_ZERO_BLOCK 0 2
     let b : Nat := 0
     let k : Nat := 1
     (s.power.holdUnplanned = false) ∧ (b < 128) ∧ (k < 384) ∧ (s.rd R.MEM_ZERO_BLOCK b ≠ 0) ∧ (s.msys.held = [] ∧ s.host.movers = [])) ∧
    (let s : State := up
     let s : State := s.wr R.MEM_ZERO_SLICE 0 1
     let b : Nat := 1
     let k : Nat := 0
     (s.power.holdUnplanned = false) ∧ (b < 128) ∧ (k < 384) ∧ (s.rd R.MEM_ZERO_SLICE k ≠ 0) ∧ (s.msys.held = [] ∧ s.host.movers = [])) :=
  ⟨by decide +kernel,
   by decide +kernel,
   by decide +kernel,
   by decide +kernel⟩

theorem witness_partition_table :
    (let s : State := up
     let who : Who := { role := Sys2Proof.Role.vendor, path := Sys2Proof.Path.vc0, func := 2 }
     let x : Nat := 1
     let v : Nat := 4
     Allowed s who R.CMP_PART_OWNER x v ∧ (s.pstate x = psEmpty) ∧ (v ≠ s.rd R.CMP_PART_OWNER x)) ∧
    (let s : State := idle3
     let s : State := { s with poison := [8, 0x40, 0] }
     let s : State := s.wr R.MEM_ZERO_BLOCK 0 0
     let s : State := s.modMsys fun m => { m with writeback := [(0, 1)] }
     let s : State := s.wr R.CMP_PLAN_STATE 3 5
     let who : Who := { role := Sys2Proof.Role.vendor, path := Sys2Proof.Path.vc0, func := 0 }
     let x : Nat := 3
     let v : Nat := 3
     Allowed s who R.CMP_PART_OWNER x v ∧ (s.pstate x ≠ psEmpty)) ∧
    (let s : State := up
     let who : Who := { role := Sys2Proof.Role.vendor, path := Sys2Proof.Path.vc0, func := 2 }
     let x : Nat := 1
     let v : Nat := 4
     Allowed s who R.CMP_PART_TAG x v ∧ (s.pstate x = psEmpty)) ∧
    (let s : State := idle3
     let s : State := { s with poison := [8, 0x40, 0] }
     let s : State := s.wr R.MEM_ZERO_BLOCK 0 0
     let s : State := s.modMsys fun m => { m with writeback := [(0, 1)] }
     let s : State := s.wr R.CMP_PLAN_STATE 3 5
     let who : Who := { role := Sys2Proof.Role.vendor, path := Sys2Proof.Path.vc0, func := 0 }
     let x : Nat := 3
     let v : Nat := 3
     Allowed s who R.CMP_PART_TAG x v ∧ (s.pstate x ≠ psEmpty)) ∧
    (let s : State := up
     let who : Who := { role := Sys2Proof.Role.vendor, path := Sys2Proof.Path.vc0, func := 2 }
     let x : Nat := 1
     let v : Nat := 4
     Allowed s who R.CMP_BLOCK_PART x v ∧ (partFree s (s.partOf x) = true) ∧ (partFree s v = true) ∧ (s.obs.margin = none) ∧ (v ≠ s.partOf x)) ∧
    (let s : State := idle3
     let s : State := s.wr R.CMP_PLAN_STATE 3 3
     let who : Who := { role := Sys2Proof.Role.vendor, path := Sys2Proof.Path.t1s, func := 0 }
     let x : Nat := 1
     let v : Nat := 15
     Allowed s who R.CMP_BLOCK_PART x v ∧ (partFree s (s.partOf x) = false ∨ partFree s v = false)) ∧
    (let s : State := up
     let who : Who := { role := Sys2Proof.Role.vendor, path := Sys2Proof.Path.vc0, func := 2 }
     let x : Nat := 1
     let v : Nat := 4
     Allowed s who R.MEM_SLICE_PART x v ∧ (partFree s (s.rd R.MEM_SLICE_PART x) = true) ∧ (partFree s v = true) ∧ (v ≠ s.rd R.MEM_SLICE_PART x)) ∧
    (let s : State := idle3
     let s : State := s.wr R.CMP_PLAN_STATE 3 3
     let who : Who := { role := Sys2Proof.Role.vendor, path := Sys2Proof.Path.t1s, func := 0 }
     let x : Nat := 1
     let v : Nat := 15
     Allowed s who R.MEM_SLICE_PART x v ∧ (partFree s (s.rd R.MEM_SLICE_PART x) = false ∨ partFree s v = false)) ∧
    (let s : State := up
     let who : Who := { role := Sys2Proof.Role.vendor, path := Sys2Proof.Path.t1s, func := 2 }
     let x : Nat := 1
     let v : Nat := 1
     Allowed s who R.MEM_SLICE_USE x v ∧ (partFree s (s.rd R.MEM_SLICE_PART x) = true) ∧ (v ≠ s.rd R.MEM_SLICE_USE x)) ∧
    (let s : State := idle3
     let s : State := s.wr R.CMP_PLAN_STATE 3 1
     let s : State := s.wr R.MEM_SLICE_USE 0 0
     let who : Who := { role := Sys2Proof.Role.vendor, path := Sys2Proof.Path.vc0, func := 0 }
     let x : Nat := 1
     let v : Nat := 1
     Allowed s who R.MEM_SLICE_USE x v ∧ (partFree s (s.rd R.MEM_SLICE_PART x) = false)) ∧
    (let s : State := idle3
     let who : Who := { role := Sys2Proof.Role.operator, path := Sys2Proof.Path.t1s, func := 0 }
     let x : Nat := 2
     let v : Nat := 7
     Allowed s who R.MEM_SLICE_HOST x v ∧ (s.rd R.MEM_SLICE_USE x = 3)) ∧
    (let s : State := up
     let who : Who := { role := Sys2Proof.Role.vendor, path := Sys2Proof.Path.vc0, func := 2 }
     let x : Nat := 1
     let v : Nat := 4
     Allowed s who R.MEM_SLICE_HOST x v ∧ (s.rd R.MEM_SLICE_USE x ≠ 3)) :=
  ⟨by unfold Allowed; decide +kernel,
   by unfold Allowed; decide +kernel,
   by unfold Allowed; decide +kernel,
   by unfold Allowed; decide +kernel,
   by unfold Allowed; decide +kernel,
   by unfold Allowed; decide +kernel,
   by unfold Allowed; decide +kernel,
   by unfold Allowed; decide +kernel,
   by unfold Allowed; decide +kernel,
   by unfold Allowed; decide +kernel,
   by unfold Allowed; decide +kernel,
   by unfold Allowed; decide +kernel⟩

end B03

namespace B04

def pts (f : Nat → State → State) (s : State) : State := s.each (List.range 6) fun s p => f p s
def upP : State := ((pts (fun p s => s.wr R.FAB_PORT_STATE p 2) up).wr R.FAB_LSR_STATE 0 4).wr R.FAB_LSR_STATE 1 3
def ps (k : Nat) : State := pts (fun p s => s.wr R.FAB_PORT_STATE p k) upP
def lanes (k : Nat) (s : State) : State := pts (fun p s => s.each (List.range 32) fun s l => if l < nLanes p then s.wr R.FAB_LANE_STATE (laneKey p l) (if l < (if isOptical p then 8 else 16) then 0 else k) else s) s
def crcOn (f : Flit) : Flit := { f with crc := flitCrc f }
def someFlit : Flit := crcOn ⟨3, 7, 4095, true, 0, 0, 0, .ctl (.pause 4 9), 0⟩
def sent (n : Nat) : Sent := { flit := { someFlit with seq := n }, planned := if n % 2 = 0 then some 9 else none }
def full (s : State) : State := pts (fun p s => (s.wr R.FAB_PORT_WIDTH_TX p (fullWidth p)).wr R.FAB_PORT_WIDTH_RX p (fullWidth p)) s
def late (s : State) : State := s.modTime fun t => { t with sec := 9, ns := 77 }
def fulls : State := full (lanes lReady upP)
def wide : State := pts (fun p s => s.modPort p fun k => { k with train := some .width, fecUp := true }) (lanes lReady (ps 1))

theorem witness_port_states :
    (let s : State := ps 1
     let who : Who := { role := Sys2Proof.Role.vendor, path := Sys2Proof.Path.vc0, func := 7 }
     let port : Nat := 5
     let v : Nat := 0
     (port < 6) ∧ Allowed s who R.FAB_PORT_ADMIN port v ∧ (v = 0) ∧ (s.rd R.FAB_PORT_STATE port ≠ 4) ∧ (s.inReset (uPort port) = false)) ∧
    (let s : State := ps 4
     let who : Who := { role := Sys2Proof.Role.vendor, path := Sys2Proof.Path.pcie, func := 1 }
     let port : Nat := 4
     let v : Nat := 1
     (port < 6) ∧ Allowed s who R.FAB_PORT_ADMIN port v ∧ (v = 1) ∧ (s.rd R.FAB_PORT_STATE port = 4) ∧ (s.inReset (uPort port) = false) ∧ (s.mainUp = true) ∧ (s.lit port = true)) ∧
    (let s : State := ps 3
     let who : Who := { role := Sys2Proof.Role.vendor, path := Sys2Proof.Path.vc0, func := 0 }
     let port : Nat := 1
     (port < 6) ∧ Allowed s who R.FAB_PORT_CMD port 1 ∧ (s.rd R.FAB_PORT_STATE port = 3) ∧ (s.lit port = true)) ∧
    (let s : State := ps 4
     let who : Who := { role := Sys2Proof.Role.vendor, path := Sys2Proof.Path.t1s, func := 1 }
     let port : Nat := 1
     (port < 6) ∧ Allowed s who R.FAB_PORT_CMD port 1 ∧ (s.rd R.FAB_PORT_STATE port = 4 ∨ s.rd R.FAB_PORT_STATE port = 0)) ∧
    (let s : State := late (ps 3)
     let port : Nat := 0
     (port < 6) ∧ (s.rd R.FAB_PORT_STATE port = 3) ∧ (s.rd R.FAB_PORT_ADMIN port = 1) ∧ (s.lit port = true) ∧ ((s.port port).retryNs + 1000000000 ≤ s.now)) ∧
    (let s : State := ps 3
     let port : Nat := 0
     (port < 6) ∧ (s.rd R.FAB_PORT_STATE port = 3) ∧ (s.rd R.FAB_PORT_ADMIN port = 1) ∧ (s.lit port = true) ∧ (s.now < (s.port port).retryNs + 1000000000)) ∧
    (let s : State := ps 1
     let port : Nat := 1
     (port < 6) ∧ (s.rd R.FAB_PORT_STATE port = 1) ∧ ((s.port port).attempts < 2)) ∧
    (let s : State := full (lanes lReady (ps 1))
     let s : State := pts (fun p s => s.modPort p fun k => { k with attempts := 2 }) s
     let port : Nat := 1
     (port < 6) ∧ (s.rd R.FAB_PORT_STATE port = 1) ∧ ((s.port port).attempts = 2)) :=
  ⟨by unfold Allowed; decide +kernel,
   by unfold Allowed; decide +kernel,
   by unfold Allowed; decide +kernel,
   by unfold Allowed; decide +kernel,
   by decide +kernel,
   by decide +kernel,
   by decide +kernel,
   by decide +kernel⟩

theorem witness_hello_brings_up :
    (let s : State := lanes lReady (ps 1)
     let port : Nat := 2
     let lat : Nat := 5
     let h : Hello := { chip := 7, port := 3, gen := 1, expected := 1, depth := 0, lanes := [], relit := [] }
     (port < 6) ∧ (h.chip < 2 ^ 17) ∧ (h.port < 8) ∧ (lat < 2 ^ 32) ∧ (s.rd R.FAB_PORT_STATE port = 1)) ∧
    (let s : State := wide
     let s : State := s.modLaser 1 fun k => { k with record := List.replicate 32 (BitVec.ofNat 8 1), blank := false, lasingS := 1 * 600}
     let s : State := s.modPort 5 fun k => { k with retry := k.retry ++ [sent 1], resend := 1 }
     let s : State := s.wr R.FAB_CLK_ALT 0 (if 2 % 2 == 0 then 3 else 0xFF)
     let port : Nat := 1
     let lat : Nat := 444
     let h : Hello := { chip := 6, port := 5, gen := 1, expected := 2, depth := 31, lanes := [3, 48], relit := [60, 1] }
     (port < 6) ∧ (h.chip < 2 ^ 17) ∧ (h.port < 8) ∧ (lat < 2 ^ 32) ∧ (s.rd R.FAB_PORT_STATE port = 1) ∧ ((s.port port).fecUp = true) ∧ ((if isOptical port = true then 1150 else 150) < lat)) ∧
    (let s : State := wide
     let s : State := s.wr R.FAB_PORT_EXPECT 0 4
     let s : State := s.modPort 1 fun k => { k with retry := [sent 3], resend := 1 }
     let s : State := s.wr R.FAB_LANE_STATE (laneKey 5 0) 0
     let port : Nat := 0
     let lat : Nat := 47
     let h : Hello := { chip := 16, port := 0, gen := 7, expected := 8, depth := 1, lanes := [], relit := [967, 5] }
     (port < 6) ∧ (h.chip < 2 ^ 17) ∧ (h.port < 8) ∧ (lat < 2 ^ 32) ∧ (s.rd R.FAB_PORT_STATE port = 1) ∧ ((s.port port).fecUp = true) ∧ (lat ≤ if isOptical port = true then 1150 else 150) ∧ (s.rd R.FAB_PORT_EXPECT port ≠ 4294967295) ∧ (s.rd R.FAB_PORT_EXPECT port % 2 ^ 20 ≠ h.chip + h.port * 2 ^ 17)) ∧
    (let s : State := (full (lanes lReady (ps 1))).modPort 1 fun k => { k with fecUp := true }
     let port : Nat := 1
     let lat : Nat := 100
     let h : Hello := { chip := 2, port := 1, gen := 3, expected := 0, depth := 1, lanes := List.replicate 16 lActive, relit := [] }
     (port < 6) ∧ (h.chip < 2 ^ 17) ∧ (h.port < 8) ∧ (lat < 2 ^ 32) ∧ (s.rd R.FAB_PORT_STATE port = 1) ∧ ((s.port port).fecUp = true) ∧ (lat ≤ if isOptical port = true then 1150 else 150) ∧ (s.rd R.FAB_PORT_EXPECT port = 4294967295 ∨ s.rd R.FAB_PORT_EXPECT port % 2 ^ 20 = h.chip + h.port * 2 ^ 17) ∧ (redWidth port ≤ s.rd R.FAB_PORT_WIDTH_RX port) ∧ (redWidth port ≤ (List.filter (fun st => st == lActive) h.lanes).length) ∧ ((List.filter (fun st => st == lActive) h.lanes).length ≤ nLanes port) ∧ (∀ e ∈ (s.port port).txCause, getAt lIdle h.lanes e.1 ≠ lActive)) ∧
    (let s : State := wide
     let port : Nat := 0
     let lat : Nat := 0
     let h : Hello := { chip := 31, port := 7, gen := 0, expected := 1, depth := 0, lanes := [], relit := [] }
     (port < 6) ∧ (h.chip < 2 ^ 17) ∧ (h.port < 8) ∧ (lat < 2 ^ 32) ∧ (s.rd R.FAB_PORT_STATE port = 1) ∧ ((s.port port).fecUp = true) ∧ (lat ≤ if isOptical port = true then 1150 else 150) ∧ (s.rd R.FAB_PORT_EXPECT port = 4294967295 ∨ s.rd R.FAB_PORT_EXPECT port % 2 ^ 20 = h.chip + h.port * 2 ^ 17) ∧ ((List.filter (fun st => st == lActive) h.lanes).length < redWidth port)) ∧
    (let s : State := wide
     let port : Nat := 1
     let lat : Nat := 0
     let h : Hello := { chip := 7, port := 6, gen := 2, expected := 6, depth := 4, lanes := [0, 41], relit := [] }
     let pass : List Nat := [1, 2, 4, 5, 7, 8, 10, 11, 13, 14, 16, 17, 19]
     (port < 6) ∧ (h.chip < 2 ^ 17) ∧ (h.port < 8) ∧ (lat < 2 ^ 32) ∧ (s.rd R.FAB_PORT_STATE port = 1) ∧ ((s.port port).train = some TrainKind.width) ∧ (redWidth port ≤ (List.filter (fun l => pass.contains l && s.lane port l != lOut) (List.range (nLanes port))).length)) ∧
    (let s : State := wide
     let port : Nat := 0
     let lat : Nat := 0
     let h : Hello := { chip := 31, port := 7, gen := 0, expected := 1, depth := 0, lanes := [], relit := [] }
     let pass : List Nat := []
     (port < 6) ∧ (h.chip < 2 ^ 17) ∧ (h.port < 8) ∧ (lat < 2 ^ 32) ∧ (s.rd R.FAB_PORT_STATE port = 1) ∧ ((s.port port).train = some TrainKind.width) ∧ ((List.filter (fun l => pass.contains l && s.lane port l != lOut) (List.range (nLanes port))).length < redWidth port)) :=
  ⟨by decide +kernel,
   by decide +kernel,
   by decide +kernel,
   by decide +kernel,
   by decide +kernel,
   by decide +kernel,
   by decide +kernel⟩

theorem witness_lanes_and_spares :
    (let s : State := lanes lReady upP
     let port : Nat := 1
     let l : Nat := 7
     let n : Nat := 0
     (port < 6) ∧ (s.portUp port = true) ∧ (l < nLanes port) ∧ (n ≤ s.rd R.FAB_LANE_THR 0) ∧ (n < 2 ^ 32)) ∧
    (let s : State := (lanes lReady upP).wr R.FAB_LANE_THR 0 500
     let port : Nat := 1
     let l : Nat := 0
     let n : Nat := 501
     let spare : Nat := 16
     (port < 6) ∧ (s.portUp port = true) ∧ (l < nLanes port) ∧ (s.rd R.FAB_LANE_THR 0 < n) ∧ (n < 2 ^ 32) ∧ (s.lane port l = lActive) ∧ (s.rd R.FAB_SPARE_POLICY port ≠ 1) ∧ ((s.port port).fastRx = none) ∧ ((s.lanesIn port lReady).head? = some spare)) ∧
    (let s : State := lanes lReady upP
     let port : Nat := 1
     (port < 6) ∧ (s.portUp port = true) ∧ (∀ c ∈ (s.port port).ctlq, ∀ (m : List LaneMove), c ≠ LinkCtl.spareGo m)) ∧
    (let s : State := fulls
     let port : Nat := 0
     let l : Nat := 0
     let spare : Nat := 16
     let cause : Nat := 3
     (port < 6) ∧ (s.portUp port = true) ∧ (l < nLanes port) ∧ (s.lane port l = lActive) ∧ ((s.port port).fastRx = none) ∧ (cause = 3 ∨ cause = 4) ∧ ((s.lanesIn port lReady).head? = some spare)) ∧
    (let s : State := upP
     let port : Nat := 1
     let l : Nat := 0
     let spare : Nat := 16
     let f : FastRetrain := { gone := false, moves := [⟨0, 16⟩], sinceNs := 0 }
     let s : State := s.modPort 1 fun k => { k with fastRx := some f }
     (port < 6) ∧ (s.portUp port = true) ∧ (l < nLanes port) ∧ (spare < nLanes port) ∧ (l ≠ spare) ∧ ((s.port port).fastRx = some f) ∧ (f.gone = false)) ∧
    (let s : State := fulls
     let port : Nat := 0
     let lanes : List Nat := [0, 1, 2, 3, 4, 5, 6, 7, 8, 9, 10, 11, 12, 13, 14, 15, 16, 17, 18, 19]
     (port < 6) ∧ (s.portUp port = true) ∧ (∀ l ∈ s.lanesIn port lActive ++ s.lanesIn port lReady, lanes.contains l = true)) ∧
    (let s : State := late fulls
     let s : State := s.modPort 5 fun k => { k with fastTx := some { gone := false, moves := [⟨5,3⟩] } }
     let port : Nat := 5
     let f : FastRetrain := { gone := false, moves := [{ lane := 5, spare := 3 }], sinceNs := 0 }
     (port < 6) ∧ ((s.port port).fastTx = some f) ∧ ((s.port port).pendingMoves = []) ∧ ((s.port port).fullAfter = false) ∧ (f.sinceNs + 3400 ≤ s.now)) ∧
    (let s : State := lanes lReady upP
     let s : State := pts (fun p s => s.modPort p fun k => { k with fastTx := some { gone := true, moves := [⟨0,3⟩], sinceNs := 0 } }) s
     let port : Nat := 0
     let f : FastRetrain := { gone := true, moves := [{ lane := 0, spare := 3 }], sinceNs := 0 }
     (port < 6) ∧ ((s.port port).fastTx = some f) ∧ (s.now < f.sinceNs + 3400)) ∧
    (let s : State := lanes lReady upP
     let port : Nat := 1
     let who : Who := { role := Sys2Proof.Role.vendor, path := Sys2Proof.Path.vc0, func := 1 }
     let l : Nat := 1
     (port < 6) ∧ Allowed s who R.FAB_LANE_OUT_CLR (laneKey port l) 1 ∧ (l < 32)) ∧
    (let s : State := ps 1
     let port : Nat := 2
     let who : Who := { role := Sys2Proof.Role.vendor, path := Sys2Proof.Path.vc0, func := 1 }
     (port < 6) ∧ Allowed s who R.FAB_PORT_CMD port 2) :=
  ⟨by decide +kernel,
   by decide +kernel,
   ⟨by decide +kernel, by decide +kernel, fun _ h _ => absurd (List.ne_nil_of_mem h) (by decide +kernel)⟩,
   by decide +kernel,
   by decide +kernel,
   by decide +kernel,
   by decide +kernel,
   by decide +kernel,
   by unfold Allowed; decide +kernel,
   by unfold Allowed; decide +kernel⟩

theorem witness_link_sends :
    (let s : State := fulls
     let s : State := s.modPort 1 fun k => { k with ctlq := [.depth 2] }
     let port : Nat := 1
     let c : LinkCtl := Sys2Proof.LinkCtl.depth 2
     let rest : List LinkCtl := []
     (port < 6) ∧ (s.portUp port = true ∧ silent (s.port port) = false ∧ narrowWidth s port = false ∧ slotOwner s port = none) ∧ ((s.port port).resend = 0) ∧ ((s.port port).retry.length < 2048) ∧ ((s.port port).ctlq = c :: rest) ∧ (∀ (m : List LaneMove), c ≠ LinkCtl.spareGo m) ∧ (∀ (l : List ℕ), c ≠ LinkCtl.creditSync l)) ∧
    (let s : State := fulls
     let s : State := pts (fun p s => s.modPort p fun k => { k with retry := [sent 1, sent 7], resend := 1 }) s
     let port : Nat := 0
     let f : Sent := { flit := { type := 3, seq := 7, ack := 4095, ackv := true, crvc := 0, crcnt := 0, resv := 0, payload := Sys2Proof.Payload.ctl (Sys2Proof.LinkCtl.pause 4 9), crc := 14188176575786263882 }, pkt := none, planned := none }
     let rest : List Sent := []
     (port < 6) ∧ (s.portUp port = true ∧ silent (s.port port) = false ∧ narrowWidth s port = false ∧ slotOwner s port = none) ∧ ((s.port port).resend ≠ 0) ∧ (List.drop ((s.port port).retry.length - (s.port port).resend) (s.port port).retry = f :: rest) ∧ (∀ (l : List ℕ), f.flit.payload ≠ Payload.ctl (LinkCtl.creditSync l))) ∧
    (let s : State := lanes lReady (ps 1)
     let port : Nat := 1
     (port < 6) ∧ (s.portUp port = false) ∧ ((s.port port).downNs = none)) ∧
    (let s : State := late fulls
     let s : State := pts (fun p s => s.modPort p fun k => { k with fastTx := some { gone := true, moves := [⟨2,3⟩], sinceNs := 0 } }) s
     let port : Nat := 1
     (port < 6) ∧ (s.portUp port = true) ∧ (silent (s.port port) = true) ∧ (narrowWidth s port = false)) ∧
    (let s : State := fulls
     let s : State := s.modPort 0 fun k => { k with unackedRx := 1 }
     let port : Nat := 0
     (port < 6) ∧ (s.portUp port = true) ∧ ((s.port port).unackedRx ≠ 0) ∧ (silent (s.port port) = false)) ∧
    (let s : State := upP.modPort 1 fun k => { k with unackedRx := 1, fastTx := some { gone := true, moves := [⟨0, 16⟩], sinceNs := 0 } }
     let port : Nat := 1
     (port < 6) ∧ (s.portUp port = true) ∧ ((s.port port).unackedRx ≠ 0) ∧ (silent (s.port port) = true)) :=
  ⟨⟨by decide +kernel, by decide +kernel, by decide +kernel, by decide +kernel, by decide +kernel, (by intro _ e; cases e), (by intro _ e; cases e)⟩,
   ⟨by decide +kernel, by decide +kernel, by decide +kernel, by decide +kernel, (by intro _ e; cases e)⟩,
   by decide +kernel,
   by decide +kernel,
   by decide +kernel,
   by decide +kernel⟩

theorem witness_link_receives :
    (let s : State := lanes lReady upP
     let port : Nat := 0
     (port < 6) ∧ (s.portUp port = true)) ∧
    (let s : State := lanes lReady upP
     let port : Nat := 0
     let f : Flit := { type := 1, seq := 2, ack := 1, ackv := false, crvc := 6, crcnt := 0, resv := 0, payload := Sys2Proof.Payload.empty, crc := 5 }
     (port < 6) ∧ (s.portUp port = true) ∧ (f.crc ≠ flitCrc f)) ∧
    (let s : State := fulls
     let s : State := s.modPort 5 fun k => { k with fecUp := true }
     let port : Nat := 1
     let f : Flit := { type := 1, seq := 0, ack := 1, ackv := false, crvc := 1, crcnt := 0, resv := 0, payload := Sys2Proof.Payload.empty, crc := 2874821191590710440 }
     (port < 6) ∧ (s.portUp port = true) ∧ (f.crc = flitCrc f) ∧ (f.ackv = false ∧ f.crcnt = 0) ∧ (f.type = 1 ∨ f.type = 3) ∧ (f.seq = (s.port port).rxExpected) ∧ (f.payload = Payload.empty)) ∧
    (let s : State := lanes lReady upP
     let port : Nat := 0
     let f : Flit := { type := 3, seq := 1, ack := 0, ackv := false, crvc := 0, crcnt := 0, resv := 0, payload := Sys2Proof.Payload.empty, crc := 13767865294693243822 }
     (port < 6) ∧ (s.portUp port = true) ∧ (f.crc = flitCrc f) ∧ (f.ackv = false ∧ f.crcnt = 0) ∧ (f.type = 1 ∨ f.type = 3) ∧ (f.seq ≠ (s.port port).rxExpected)) ∧
    (let s : State := late fulls
     let s : State := s.modPort 1 fun k => { k with retry := [sent 5, sent 7], resend := 1 + 5 % 2 }
     let s : State := { s with router := { s.router with clkPort := some 0 } }
     let port : Nat := 1
     let f : Flit := { type := 0, seq := 2, ack := 1, ackv := true, crvc := 6, crcnt := 0, resv := 0, payload := Sys2Proof.Payload.empty, crc := 9645985834682047264 }
     let n : Nat := 2
     (port < 6) ∧ (s.portUp port = true) ∧ (f.crc = flitCrc f) ∧ (f.ackv = true) ∧ (f.type = 0) ∧ (f.crcnt = 0) ∧ (n = (f.ack + 1 + (4096 - (s.port port).txOldest)) % 4096) ∧ (0 < n) ∧ (n ≤ (s.port port).retry.length)) ∧
    (let s : State := late fulls
     let s : State := s.wr R.FAB_LSR_STATE 1 4
     let s : State := s.wr R.FAB_PORT_EXPECT 0 58
     let s : State := s.wr R.FAB_PORT_ADMIN 0 0
     let s : State := s.wr R.FAB_LANE_THR 0 45
     let port : Nat := 4
     let f : Flit := { type := 0, seq := 0, ack := 0, ackv := false, crvc := 4, crcnt := 3, resv := 0, payload := Sys2Proof.Payload.data [0x6a#8], crc := 13835146823350490651 }
     (port < 6) ∧ (s.portUp port = true) ∧ (f.crc = flitCrc f) ∧ (f.ackv = false) ∧ (f.type = 0) ∧ (f.crcnt ≠ 0) ∧ (crClasses.contains f.crvc = true)) ∧
    (let s : State := fulls
     let s : State := pts (fun p s => s.modPort p fun k => { k with retry := [sent 0, sent 7], resend := 0 }) s
     let port : Nat := 3
     let f : Flit := { type := 2, seq := 1, ack := 0, ackv := true, crvc := 5, crcnt := 0, resv := 0, payload := Sys2Proof.Payload.data [], crc := 9783761366236257506 }
     (port < 6) ∧ (s.portUp port = true) ∧ (f.crc = flitCrc f) ∧ (f.type = 2) ∧ (f.crcnt = 0) ∧ (f.ack = (s.port port).txOldest) ∧ ((s.port port).txOldest < 4096) ∧ ((s.port port).retry ≠ []) ∧ ((s.port port).retry.length ≤ 2048) ∧ (1 < s.rd R.FAB_RETRY_LIMIT 0) ∧ ((s.port port).rewinds = 0)) ∧
    (let s : State := late fulls
     let s : State := s.modPort 1 fun k => { k with retry := [sent 5, sent 7], resend := 1 + 5 % 2 }
     let s : State := { s with router := { s.router with clkPort := some 0 } }
     let port : Nat := 1
     (port < 6) ∧ (s.portUp port = true) ∧ ((s.port port).retry ≠ []) ∧ ((s.port port).txOldest < 4096) ∧ ((s.port port).fastRx = none) ∧ ((s.port port).timerNs + ↑(s.rd R.FAB_REPLAY_NS 0) ≤ s.now) ∧ (1 < s.rd R.FAB_RETRY_LIMIT 0) ∧ ((s.port port).rewinds = 0)) ∧
    (let s : State := upP
     let s : State := pts (fun p s => s.modPort p fun k => { k with retry := [sent 0, sent 7], resend := 0 }) s
     let s : State := s.modLaser 0 fun k => { k with record := List.replicate 32 (BitVec.ofNat 8 1), blank := false, lasingS := 1 * 600}
     let s : State := s.wr R.FAB_CLK_STATE 0 1
     let port : Nat := 4
     (port < 6) ∧ (s.portUp port = true) ∧ ((s.port port).retry ≠ []) ∧ ((s.port port).txOldest < 4096) ∧ ((s.port port).fastRx = none) ∧ (s.now < (s.port port).timerNs + ↑(s.rd R.FAB_REPLAY_NS 0))) :=
  ⟨by decide +kernel,
   by decide +kernel,
   by decide +kernel,
   by decide +kernel,
   by decide +kernel,
   by decide +kernel,
   by decide +kernel,
   by decide +kernel,
   by decide +kernel⟩

theorem witness_credits_and_pauses :
    (let port : Nat := 0
     port < 6) ∧
    (let s : State := lanes lReady upP
     let port : Nat := 1
     (port < 6) ∧ (s.portUp port = true)) ∧
    (let port : Nat := 1
     let time : Nat := 7
     (port < 6) ∧ (time < 65536)) ∧
    (let port : Nat := 1
     let vc : Nat := 1
     (port < 6) ∧ (vc < 8)) ∧
    (let s : State := lanes lReady (ps 1)
     let port : Nat := 1
     let vc : Nat := 3
     let flits : Nat := 4096
     (port < 6) ∧ (vc = 2 ∨ vc = 3) ∧ (s.rd R.FAB_PAUSE_ON 0 ≤ flits) ∧ (mapGet false s.router.pausedOn vc = false)) :=
  ⟨by decide +kernel,
   by decide +kernel,
   by decide +kernel,
   by decide +kernel,
   by decide +kernel⟩

theorem witness_clock_follows_upstream :
    (let s : State := lanes lReady (ps 1)
     let who : Who := { role := Sys2Proof.Role.vendor, path := Sys2Proof.Path.t1s, func := 0 }
     Allowed s who R.FAB_CLK_UP 0 7) ∧
    (let s : State := lanes lReady (ps 1)
     let who : Who := { role := Sys2Proof.Role.vendor, path := Sys2Proof.Path.t1s, func := 0 }
     let port : Nat := 1
     Allowed s who R.FAB_CLK_UP 0 port ∧ (port ≠ 7) ∧ ((s.port port).clockDepth < 253)) ∧
    (let s : State := lanes lReady upP
     let s : State := { s with router := { s.router with clkPort := some 1 } }
     let s : State := s.wr R.FAB_CLK_ALT 0 (if 0 % 2 == 0 then 0 else 0xFF)
     let old : Nat := 1
     let left : Bool := false
     (s.router.clkPort = some old) ∧ (left = false ∨ s.portUp old = false) ∧ (s.rd R.FAB_CLK_ALT 0 < 6) ∧ (s.rd R.FAB_CLK_ALT 0 ≠ old) ∧ (s.portUp (s.rd R.FAB_CLK_ALT 0) = true) ∧ ((s.port (s.rd R.FAB_CLK_ALT 0)).clockDepth < 253)) ∧
    (let s : State := upP
     let s : State := { s with router := { s.router with clkPort := some 3 } }
     let old : Nat := 3
     let left : Bool := false
     (s.router.clkPort = some old) ∧ (left = false ∨ s.portUp old = false) ∧ (6 ≤ s.rd R.FAB_CLK_ALT 0)) ∧
    (let s : State := lanes lReady (ps 1)
     s.rd R.FAB_CLK_STATE 0 = 3) :=
  ⟨by unfold Allowed; decide +kernel,
   by unfold Allowed; decide +kernel,
   by decide +kernel,
   by decide +kernel,
   by decide +kernel⟩

theorem witness_laser_modules :
    (let s : State := up
     let m : Nat := 0
     (m < 2) ∧ (s.rd R.FAB_LSR_STATE m = lsAbsent)) ∧
    (let s : State := lanes lReady (ps 1)
     let s : State := s.wr R.FAB_LSR_STATE 0 1
     let m : Nat := 0
     let i : ModuleInfo := { vendor := [], partNo := [], serial := [0x41#8, 0x41#8, 0x41#8, 0x41#8, 0x41#8, 0x41#8, 0x41#8, 0x41#8, 0x41#8, 0x41#8, 0x41#8, 0x41#8, 0x41#8, 0x41#8, 0x41#8, 0x41#8, 0x41#8, 0x41#8, 0x41#8, 0x41#8], pagesOk := false, lasersOk := true, record := [0x01#8, 0x01#8, 0x01#8, 0x01#8, 0x01#8, 0x01#8, 0x01#8, 0x01#8, 0x01#8, 0x01#8, 0x01#8, 0x01#8, 0x01#8, 0x01#8, 0x01#8, 0x01#8, 0x01#8, 0x01#8, 0x01#8, 0x01#8, 0x01#8, 0x01#8, 0x01#8, 0x01#8, 0x01#8, 0x01#8, 0x01#8, 0x01#8, 0x01#8, 0x01#8, 0x01#8, 0x01#8] }
     (m < 2) ∧ (s.rd R.FAB_LSR_STATE m = lsIdentifying) ∧ (i.pagesOk = false ∨ i.lasersOk = false ∨ isBlank i.record = false ∧ isValid i.record = false)) ∧
    (let s : State := lanes lReady (ps 1)
     let s : State := s.wr R.FAB_LSR_STATE 0 1
     let m : Nat := 0
     let i : ModuleInfo := { vendor := [], partNo := [], serial := [0x41#8, 0x41#8, 0x41#8, 0x41#8, 0x41#8, 0x41#8, 0x41#8, 0x41#8, 0x41#8, 0x41#8, 0x41#8, 0x41#8, 0x41#8, 0x41#8, 0x41#8, 0x41#8, 0x41#8, 0x41#8, 0x41#8, 0x41#8], pagesOk := true, lasersOk := true, record := [0x4c#8, 0x56#8, 0xe8#8, 0x03#8, 0x00#8, 0x00#8, 0x4d#8, 0x00#8, 0x00#8, 0x00#8, 0x05#8, 0x05#8, 0x05#8, 0x05#8, 0x05#8, 0x05#8, 0x05#8, 0x05#8, 0x05#8, 0x05#8, 0x05#8, 0x05#8, 0x05#8, 0x05#8, 0x05#8, 0x05#8, 0x05#8, 0x05#8, 0x7e#8, 0x00#8, 0xb9#8, 0x74#8] }
     (m < 2) ∧ (s.rd R.FAB_LSR_STATE m = lsIdentifying) ∧ (i.pagesOk = true) ∧ (i.lasersOk = true) ∧ (isBlank i.record = false) ∧ (isValid i.record = true)) ∧
    (let s : State := ps 4
     let m : Nat := 0
     (m < 2) ∧ (s.rd R.FAB_LSR_STATE m ≠ lsAbsent)) ∧
    (let s : State := lanes lReady (ps 1)
     let m : Nat := 0
     let x : LaserSample := { wave := 1, bias := 0, power := 1, low := none }
     (m < 2) ∧ (s.rd R.FAB_LSR_STATE m = lsLasing) ∧ (x.wave < 9) ∧ (x.low = none) ∧ (x.bias < 400000000) ∧ (x.power < 2 ^ 32)) ∧
    (let s : State := ps 4
     let m : Nat := 0
     (m < 2) ∧ (s.rd R.FAB_LSR_STATE m = lsLasing)) ∧
    (let s : State := lanes lReady (ps 1)
     let s : State := s.modLaser 0 fun k => { k with record := List.replicate 32 (BitVec.ofNat 8 3), blank := false, lasingS := 3 * 600}
     let m : Nat := 0
     (m < 2) ∧ (s.rd R.FAB_LSR_STATE m = lsLasing) ∧ ((s.laser m).record ≠ [])) ∧
    (let s : State := upP
     let s : State := s.wr R.FAB_LANE_THR 0 0
     let s : State := s.modLaser 0 fun k => { k with record := List.replicate 32 (BitVec.ofNat 8 100000), blank := true, lasingS := 100000 * 600}
     let m : Nat := 0
     (m < 2) ∧ (s.rd R.FAB_LSR_STATE m = lsLasing) ∧ ((s.laser m).blank = true) ∧ (3600 ≤ (s.laser m).lasingS) ∧ ((s.laser m).record.length = 32)) :=
  ⟨by decide +kernel,
   by decide +kernel,
   by decide +kernel,
   by decide +kernel,
   by decide +kernel,
   by decide +kernel,
   by decide +kernel,
   by decide +kernel⟩

end B04

namespace B05

def pts (f : Nat → State → State) (s : State) : State := s.each (List.range 6) fun s p => f p s
def upN (s : State) : State := pts (fun p s => s.wr R.FAB_PORT_STATE p 2) s
/-- chip 0 of a 4x2x2 torus; version 0 routes: x coordinate 1 by port 0, 2 by port 1, y=1 port 2, z=1 port 4 -/
def routed (s : State) : State :=
  let s := s.wr R.FAB_TORUS_DIM 0 (3 + 64 + 4096)
  let d (s : State) (dim c v : Nat) := s.wr R.FAB_RT_DIM (dim * 64 + c) v
  let s := d (d (d (d s 0 0 0) 0 1 1) 0 2 1) 0 3 2
  let s := d (d s 1 0 0) 1 1 1
  d (d s 2 0 0) 2 1 1
def net : State := upN (routed (withMem loaded))
def pk (k : Nat) : Packet := { offset := 0x100, dst := 1, src := 2, vc := 2, kind := 0, len := 0, dlen := 4, epoch := 0, detour := false, hops := 1, birth := 0, eseq := k, incarn := 0, syn := false, dtag := 9, spart := 3, tgen := 0, func := 2, rid := k, sched := 0, poison := false, loc := false, resv := 0, data := [1,2,3,4] }
def netP : State := upN (routed mrel)
/-- A table of one key repeated holds no other. -/
theorem mapFind_replicate {α : Type} (a : Nat) (c : α) (k : Nat) (h : (a == k) = false) :
    ∀ n, mapFind (List.replicate n (a, c)) k = none
  | 0 => rfl
  | n + 1 => by simp [List.replicate_succ, mapFind, show a ≠ k by simpa using h, mapFind_replicate a c k h n]

theorem witness_packets_are_routed :
    (let port : Nat := 1
     let p : Packet := { offset := 6, dst := 0, src := 2, vc := 0, kind := 6, len := 0, dlen := 4, epoch := 0, detour := false, hops := 1, birth := 0, eseq := 0, incarn := 7, syn := true, dtag := 9, spart := 3, tgen := 0, func := 2, rid := 0, sched := 0, poison := false, loc := true, resv := 0, data := [0x01#8, 0x02#8, 0x03#8, 0x04#8] }
     let a : Arrival := { tags := [], ecc := [] }
     (port < 6) ∧ (wellFormed p a.tags = false)) ∧
    (let s : State := upN (routed loaded)
     let port : Nat := 1
     let p : Packet := { pk 0 with birth := 1 }
     let a : Arrival := { tags := [tagWord (flitTag p 0)], ecc := [] }
     (port < 6) ∧ (wellFormed p a.tags = true) ∧ (tooOld s p = true)) ∧
    (let s : State := upN (routed loaded)
     let port : Nat := 1
     let p : Packet := { pk 0 with epoch := 1 }
     let a : Arrival := { tags := [tagWord (flitTag p 0)], ecc := [] }
     (port < 6) ∧ (wellFormed p a.tags = true) ∧ (tooOld s p = false) ∧ (p.loc = false) ∧ (s.verState p.epoch = 0)) ∧
    (let s : State := upN (routed loaded)
     let port : Nat := 1
     let p : Packet := { pk 0 with dst := 5 }
     let a : Arrival := { tags := [tagWord (flitTag p 0)], ecc := [] }
     (port < 6) ∧ (wellFormed p a.tags = true) ∧ (tooOld s p = false) ∧ (p.loc = false) ∧ (s.verState p.epoch ≠ 0) ∧ (p.kind ≠ 5) ∧ (p.dst ≠ s.me) ∧ (6 ≤ dimPort s p.epoch p.dst)) ∧
    (let s : State := upN (routed loaded)
     let port : Nat := 1
     let p : Packet := { pk 0 with dst := 1, hops := 160 }
     let a : Arrival := { tags := [tagWord (flitTag p 0)], ecc := [] }
     (port < 6) ∧ (wellFormed p a.tags = true) ∧ (tooOld s p = false) ∧ (p.loc = false) ∧ (s.verState p.epoch ≠ 0) ∧ (p.kind ≠ 5) ∧ (p.dst ≠ s.me) ∧ (dimPort s p.epoch p.dst < 6) ∧ (s.rd R.FAB_HOP_LIMIT 0 < p.hops + 1)) ∧
    (let s : State := upN (routed loaded)
     let port : Nat := 1
     let p : Packet := { pk 0 with dst := 1 }
     let a : Arrival := { tags := [tagWord (flitTag p 0)], ecc := [] }
     (port < 6) ∧ (wellFormed p a.tags = true) ∧ (tooOld s p = false) ∧ (p.loc = false) ∧ (s.verState p.epoch ≠ 0) ∧ (p.kind ≠ 5) ∧ (p.dst ≠ s.me) ∧ (dimPort s p.epoch p.dst < 6) ∧ (p.hops + 1 ≤ s.rd R.FAB_HOP_LIMIT 0) ∧ (s.portUp ((detourOf s p.epoch p.dst (dimPort s p.epoch p.dst)).getD (dimPort s p.epoch p.dst)) = true)) ∧
    (let i : Inject := { fabric := true, target := 3, offset := 1, vc := 1, kind := 2, dtag := 9, spart := 3, tgen := 0, func := 2, rid := 3, sched := 0, poison := false, loc := false, mover := none, ecc := [], data := [0x01#8, 0x02#8] }
     (i.mover = none) ∧ (vcAllows i.vc i.kind = false)) ∧
    (let s : State := up
     let i : Inject := { fabric := false, target := 0, offset := 7, vc := 3, kind := 1, dtag := 9, spart := 3, tgen := 0, func := 2, rid := 3, sched := 0, poison := false, loc := false, mover := none, ecc := [], data := [0x01#8, 0x02#8] }
     (i.mover = none) ∧ (vcAllows i.vc i.kind = true) ∧ (i.fabric = false) ∧ (s.chipOf s.injVer i.dtag i.target = none) ∧ (i.vc ≠ 1)) ∧
    (let s : State := netP
     let i : Inject := { fabric := true, target := 2, offset := 0, vc := 1, kind := 0, dtag := 9, spart := 3, tgen := 0, func := 2, rid := 3, sched := 0, poison := false, loc := false, mover := none, ecc := [], data := [0x01#8, 0x02#8] }
     let dst : Nat := 2
     let d : Nat := 0
     (i.mover = none) ∧ (vcAllows i.vc i.kind = true) ∧ ((if i.fabric = true then some i.target else s.chipOf s.injVer i.dtag i.target) = some dst) ∧ (dst ≠ s.me) ∧ (i.vc = 1) ∧ (i.kind = 0) ∧ (dimPort s s.injVer dst = d) ∧ (d < 6) ∧ (detourOf s s.injVer dst d = none) ∧ (s.portUp d = true) ∧ (1 ≤ s.rd R.FAB_HOP_LIMIT 0)) :=
  ⟨by decide +kernel,
   by decide +kernel,
   by decide +kernel,
   by decide +kernel,
   by decide +kernel,
   by decide +kernel,
   by decide +kernel,
   by decide +kernel,
   by decide +kernel⟩

theorem witness_packets_are_taken_once :
    (let s : State := up
     let p : Packet := { offset := 1, dst := 0, src := 2, vc := 0, kind := 3, len := 0, dlen := 4, epoch := 0, detour := false, hops := 6, birth := 0, eseq := 0, incarn := 0, syn := true, dtag := 9, spart := 3, tgen := 0, func := 2, rid := 0, sched := 0, poison := false, loc := true, resv := 0, data := [0x01#8, 0x02#8, 0x03#8, 0x04#8] }
     (p.vc = 0) ∧ (vc0Ok s p = false)) ∧
    (let s : State := upN (routed loaded)
     let p : Packet := { pk 0 with dst := 0, vc := 0, kind := 7, dlen := 30, data := [1, 1] ++ List.replicate 28 0 }
     (p.vc = 0) ∧ (vc0Ok s p = true) ∧ (p.kind = 7) ∧ (clvKnown p.data = true)) ∧
    (let s : State := netP
     let s : State := s.wr R.FAB_PORT_STATE 0 2
     let s : State := { s with router := { s.router with rcv := [(ctxKey 1 2, { expected := 4, incarn := 0, sinceAck := 1, above := if 0 < 2 then [3] else [] }), (ctxKey 2 2, { expected := 4, incarn := 0, above := if 0 < 2 then [] else [3,4] }), (ctxKey 2 3, { expected := 1, incarn := 7, sinceAck := 1 })] } }
     let p : Packet := { offset := 63, dst := 5, src := 2, vc := 2, kind := 1, len := 0, dlen := 4, epoch := 0, detour := false, hops := 1, birth := 65000, eseq := 4, incarn := 0, syn := false, dtag := 9, spart := 3, tgen := 0, func := 2, rid := 0, sched := 0, poison := false, loc := false, resv := 0, data := [0x01#8, 0x02#8, 0x03#8, 0x04#8] }
     let c : RcvCtx := { incarn := 0, expected := 4, above := [], sinceAck := 0, lastNs := 0 }
     (windowed p = true) ∧ (p.kind ≠ 5) ∧ (mapFind s.router.rcv (ctxKey p.src p.vc) = some c) ∧ (c.incarn = p.incarn) ∧ (p.incarn < 65536) ∧ (p.eseq = c.expected) ∧ (c.above = []) ∧ (c.expected < 65536) ∧ (0 < s.window p.vc)) ∧
    (let s : State := up
     let s : State := { s with router := { s.router with rcv := [(ctxKey 1 2, { expected := 0, incarn := 0, sinceAck := 0, above := if 0 < 2 then [3] else [] }), (ctxKey 2 2, { expected := 0, incarn := 0, above := if 0 < 2 then [] else [3,4] }), (ctxKey 2 3, { expected := 1, incarn := 7, sinceAck := 1 })] } }
     let s : State := { s with router := { s.router with src := [(ctxKey 1 2, { pending := [], incarn := 1, createdMs := 1, lastNs := 0 }), (ctxKey 1 3, {lastNs := 1})] } }
     let p : Packet := { offset := 50, dst := 5, src := 1, vc := 2, kind := 4, len := 0, dlen := 4, epoch := 0, detour := false, hops := 4096, birth := 0, eseq := 3, incarn := 0, syn := true, dtag := 9, spart := 3, tgen := 0, func := 2, rid := 0, sched := 0, poison := false, loc := true, resv := 0, data := [0x01#8, 0x02#8, 0x03#8, 0x04#8] }
     let c : RcvCtx := { incarn := 0, expected := 0, above := [3], sinceAck := 0, lastNs := 0 }
     (windowed p = true) ∧ (p.kind ≠ 5) ∧ (mapFind s.router.rcv (ctxKey p.src p.vc) = some c) ∧ (c.incarn = p.incarn) ∧ (p.incarn < 65536) ∧ (c.above.contains p.eseq = true)) ∧
    (let s : State := netP
     let p : Packet := { offset := 1, dst := 0, src := 1, vc := 2, kind := 4, len := 0, dlen := 4, epoch := 0, detour := false, hops := 3, birth := 0, eseq := 0, incarn := 0, syn := false, dtag := 9, spart := 3, tgen := 0, func := 2, rid := 0, sched := 0, poison := false, loc := false, resv := 0, data := [0x01#8, 0x02#8, 0x03#8, 0x04#8] }
     (windowed p = true) ∧ (mapFind s.router.rcv (ctxKey p.src p.vc) = none) ∧ (p.syn = false)) ∧
    (let s : State := upN (routed loaded)
     let s : State := { s with router := { s.router with rcv := List.replicate 16384 (1, { expected := 0, incarn := 0 }) } }
     let p : Packet := { pk 0 with syn := true }
     (windowed p = true) ∧ (mapFind s.router.rcv (ctxKey p.src p.vc) = none) ∧ (p.syn = true) ∧ (16384 ≤ List.length s.router.rcv)) ∧
    (let s : State := upN (routed loaded)
     let p : Packet := { pk 0 with dst := 0, vc := 4, kind := 6 }
     (p.vc = 4) ∧ (p.kind = 6 ∨ p.kind = 8 ∨ p.kind = 9)) :=
  ⟨by decide +kernel,
   by decide +kernel,
   by decide +kernel,
   by decide +kernel,
   by decide +kernel,
   ⟨by decide +kernel, mapFind_replicate 1 _ _ (by decide) 16384, rfl, Nat.le_of_eq (List.length_replicate ..).symm⟩,
   by decide +kernel⟩

theorem witness_end_to_end_windows :
    (let peer : Nat := 1
     let vc : Nat := 2
     let eseq : Nat := 1
     let e : Unacked := { eseq := 1, pkt := pk 1, tries := 0 }
     let c : SrcCtx := { pending := [e], incarn := 1, next := 2 }
     let s : State := { up with router := { up.router with src := [(ctxKey peer vc, c)] } }
     (vc = 2 ∨ vc = 3) ∧ (mapFind s.router.src (ctxKey peer vc) = some c) ∧ (List.find? (fun x => x.eseq == eseq) c.pending = some e) ∧ (s.now < e.sentNs + ↑(1000 * s.rd R.FAB_E2E_RTO_US 0))) ∧
    (let peer : Nat := 1
     let vc : Nat := 2
     let eseq : Nat := 1
     let e : Unacked := { eseq := 1, pkt := pk 1, tries := 0 }
     let c : SrcCtx := { pending := [e], incarn := 1, next := 2 }
     let s : State := { (up.modTime fun t => { t with sec := 9 }) with router := { up.router with src := [(ctxKey peer vc, c)] } }
     (vc = 2 ∨ vc = 3) ∧ (mapFind s.router.src (ctxKey peer vc) = some c) ∧ (List.find? (fun x => x.eseq == eseq) c.pending = some e) ∧ (e.sentNs + ↑(1000 * s.rd R.FAB_E2E_RTO_US 0) ≤ s.now) ∧ (e.tries < s.rd R.FAB_E2E_RETRIES 0) ∧ (e.pkt.dst = peer) ∧ (e.pkt.vc = vc)) ∧
    (let peer : Nat := 1
     let vc : Nat := 2
     let eseq : Nat := 1
     let e : Unacked := { eseq := 1, pkt := pk 1, tries := 99 }
     let c : SrcCtx := { pending := [e], incarn := 1, next := 2 }
     let s : State := { (up.modTime fun t => { t with sec := 9 }) with router := { up.router with src := [(ctxKey peer vc, c)] } }
     (vc = 2 ∨ vc = 3) ∧ (mapFind s.router.src (ctxKey peer vc) = some c) ∧ (List.find? (fun x => x.eseq == eseq) c.pending = some e) ∧ (e.sentNs + ↑(1000 * s.rd R.FAB_E2E_RTO_US 0) ≤ s.now) ∧ (s.rd R.FAB_E2E_RETRIES 0 ≤ e.tries) ∧ (c.waiting = []) ∧ (s.router.reads = [])) ∧
    (let s : State := netP
     let s : State := { s with router := { s.router with src := [(ctxKey 1 2, { pending := [], incarn := 0, createdMs := 1, lastNs := 0 }), (ctxKey 1 3, {lastNs := 6})] } }
     let peer : Nat := 1
     let vc : Nat := 3
     let c : SrcCtx := { incarn := 0, acked := false, next := 0, pending := [], waiting := [], createdMs := 0, lastNs := 6 }
     let incarn : Nat := 0
     (vc = 2 ∨ vc = 3) ∧ (mapFind s.router.src (ctxKey peer vc) = some c) ∧ (c.waiting = []) ∧ (s.host.movers = []) ∧ (s.rst.outstanding = []) ∧ (incarn = c.incarn)) ∧
    (let s : State := netP
     let s : State := { s with router := { s.router with src := [(ctxKey 1 2, { pending := [], incarn := 0, createdMs := 1, lastNs := 0 }), (ctxKey 1 3, {lastNs := 6})] } }
     let peer : Nat := 1
     let vc : Nat := 3
     let c : SrcCtx := { incarn := 0, acked := false, next := 0, pending := [], waiting := [], createdMs := 0, lastNs := 6 }
     let incarn : Nat := 3
     (vc = 2 ∨ vc = 3) ∧ (mapFind s.router.src (ctxKey peer vc) = some c) ∧ (c.waiting = []) ∧ (s.host.movers = []) ∧ (s.rst.outstanding = []) ∧ (incarn ≠ c.incarn)) ∧
    (let s : State := netP
     let s : State := s.wr R.FAB_DETOUR 0 (2^63 + 7 * 2^26 + 2 * 2^23)
     let s : State := { s with time := { s.time with sec := 6 } }
     let s : State := s.wr R.FAB_SHP_RATE 0 0
     let s : State := { s with router := { s.router with src := [(ctxKey 1 2, { pending := [], incarn := 0, createdMs := 0, lastNs := 0 }), (ctxKey 1 3, {lastNs := 0})] } }
     let peer : Nat := 1
     let vc : Nat := 2
     let c : SrcCtx := { incarn := 0, acked := false, next := 0, pending := [], waiting := [], createdMs := 0, lastNs := 0 }
     let incarn : Nat := 0
     (vc = 2 ∨ vc = 3) ∧ (mapFind s.router.src (ctxKey peer vc) = some c) ∧ (c.waiting = []) ∧ (s.host.movers = []) ∧ (s.rst.outstanding = []) ∧ (incarn = c.incarn) ∧ (c.createdMs ≠ s.nowMs)) ∧
    (let s : State := netP
     let s : State := { s with router := { s.router with rcv := [(ctxKey 1 2, { expected := 0, incarn := 0, sinceAck := 1, above := if 3 < 2 then [3] else [] }), (ctxKey 2 2, { expected := 0, incarn := 0, above := if 3 < 2 then [] else [3,4] }), (ctxKey 2 3, { expected := 1, incarn := 7, sinceAck := 1 })] } }
     let peer : Nat := 1
     let vc : Nat := 2
     let c : RcvCtx := { incarn := 0, expected := 0, above := [], sinceAck := 1, lastNs := 0 }
     (vc = 2 ∨ vc = 3) ∧ (mapFind s.router.rcv (ctxKey peer vc) = some c) ∧ (c.sinceAck ≠ 0)) ∧
    (let s : State := netP
     let s : State := s.wr R.FAB_DETOUR 0 (2^63 + 7 * 2^26 + 2 * 2^23)
     let s : State := { s with time := { s.time with sec := 6 } }
     let s : State := s.wr R.FAB_SHP_RATE 0 0
     let s : State := { s with router := { s.router with src := [(ctxKey 1 2, { pending := [], incarn := 0, createdMs := 0, lastNs := 0 }), (ctxKey 1 3, {lastNs := 0})] } }
     let peer : Nat := 1
     let vc : Nat := 2
     let c : SrcCtx := { incarn := 0, acked := false, next := 0, pending := [], waiting := [], createdMs := 0, lastNs := 0 }
     (vc = 2 ∨ vc = 3) ∧ (mapFind s.router.src (ctxKey peer vc) = some c) ∧ (c.pending = []) ∧ (c.waiting = []) ∧ (s.router.noCtx = []) ∧ (c.lastNs + ↑(1000000 * s.rd R.FAB_PKT_LIFE_MS 0) ≤ s.now) ∧ Wf s) ∧
    (let s : State := mrel
     let s : State := { s with time := { s.time with sec := 9 } }
     let s : State := s.wr R.FAB_SHP_RATE 0 0
     let s : State := { s with router := { s.router with rcv := [(ctxKey 1 2, { expected := 1, incarn := 0, sinceAck := 0, above := if 0 < 2 then [3] else [] }), (ctxKey 2 2, { expected := 1, incarn := 0, above := if 0 < 2 then [] else [3,4] }), (ctxKey 2 3, { expected := 1, incarn := 7, sinceAck := 1 })] } }
     let s : State := { s with time := { s.time with sec := 1 } }
     let peer : Nat := 1
     let vc : Nat := 2
     let c : RcvCtx := { incarn := 0, expected := 1, above := [3], sinceAck := 0, lastNs := 0 }
     (vc = 2 ∨ vc = 3) ∧ (mapFind s.router.rcv (ctxKey peer vc) = some c) ∧ (c.lastNs + ↑(2000000 * s.rd R.FAB_PKT_LIFE_MS 0 + 10000000) ≤ s.now) ∧ Wf s) :=
  ⟨by decide +kernel,
   by decide +kernel,
   by decide +kernel,
   by decide +kernel,
   by decide +kernel,
   by decide +kernel,
   by decide +kernel,
   ⟨by decide +kernel, by decide +kernel, by decide +kernel, by decide +kernel, by decide +kernel, by decide +kernel, by constructor <;> decide +kernel⟩,
   ⟨by decide +kernel, by decide +kernel, by decide +kernel, by constructor <;> decide +kernel⟩⟩

theorem witness_table_versions :
    (let s : State := netP
     let who : Who := { role := Sys2Proof.Role.vendor, path := Sys2Proof.Path.vc0, func := 2 }
     let v : Nat := 1
     let x : Nat := 0
     Allowed s who R.FAB_RT_STATE v x ∧ (s.verState v = 0)) ∧
    (let s : State := up
     let who : Who := { role := Sys2Proof.Role.vendor, path := Sys2Proof.Path.vc0, func := 2 }
     let v : Nat := 0
     let x : Nat := 0
     Allowed s who R.FAB_RT_STATE v x ∧ (s.verState v ≠ 0)) ∧
    (let s : State := up
     let s : State := s.wr R.FAB_RT_STATE 1 3
     let s : State := s.wr R.FAB_EPOCH_INJ 0 0
     let who : Who := { role := Sys2Proof.Role.vendor, path := Sys2Proof.Path.vc0, func := 2 }
     let v : Nat := 1
     Allowed s who R.FAB_EPOCH_INJ 0 v ∧ (s.verState v = 3) ∧ (s.injVer ≠ v) ∧ (s.injVer < 2)) ∧
    (let s : State := up
     let who : Who := { role := Sys2Proof.Role.vendor, path := Sys2Proof.Path.vc0, func := 2 }
     let v : Nat := 0
     Allowed s who R.FAB_EPOCH_INJ 0 v ∧ (s.verState v ≠ 3)) ∧
    (let s : State := netP
     let s : State := s.wr R.FAB_RT_STATE 1 2
     let s : State := { s with time := { s.time with sec := 29 } }
     let s : State := { s with time := { s.time with ns := 0 } }
     let s : State := { s with router := { s.router with drainNs := [(0, 1), (1, 0)] } }
     let v : Nat := 1
     (s.verState v = 2) ∧ (mapGet 0 s.router.drainNs v + ↑(1000000 * s.rd R.FAB_EPOCH_DRAIN_MS 0) ≤ s.now)) ∧
    (let s : State := up
     let s : State := s.wr R.FAB_RT_STATE 0 2
     let s : State := s.wr R.FAB_EPOCH_INJ 0 0
     let s : State := s.wr R.FAB_EPOCH_INJ 0 1
     let v : Nat := 0
     (s.verState v = 2) ∧ (s.now < mapGet 0 s.router.drainNs v + ↑(1000000 * s.rd R.FAB_EPOCH_DRAIN_MS 0))) ∧
    (let s : State := netP
     let who : Who := { role := Sys2Proof.Role.vendor, path := Sys2Proof.Path.pcie, func := 2 }
     let v : Nat := 19
     let x : Nat := 1
     Allowed s who R.FAB_DMAP v x ∧ (s.verState (v / 16) = 0) ∧ (bitOf x 63 = false)) ∧
    (let s : State := up
     let who : Who := { role := Sys2Proof.Role.vendor, path := Sys2Proof.Path.t1s, func := 2 }
     let v : Nat := 4
     let x : Nat := 3
     Allowed s who R.FAB_DMAP v x ∧ (s.verState (v / 16) ≠ 0)) ∧
    (let s : State := up
     let s : State := s.wr R.FAB_SHP_RATE 0 55
     let s : State := s.modPort 1 fun k => { k with downNs := some 47 }
     let s : State := s.wr R.FAB_SHP_RATE 0 1
     let s : State := { s with time := { s.time with sec := 1 } }
     let port : Nat := 1
     let t0 : Int := 47
     (port < 6) ∧ ((s.port port).downNs = some t0) ∧ (s.portUp port = false) ∧ ((s.port port).holdDone = false) ∧ (t0 + ↑(1000000 * s.rd R.FAB_PORT_HOLD_MS 0) ≤ s.now)) :=
  ⟨by unfold Allowed; decide +kernel,
   by unfold Allowed; decide +kernel,
   by unfold Allowed; decide +kernel,
   by unfold Allowed; decide +kernel,
   by decide +kernel,
   by decide +kernel,
   by unfold Allowed; decide +kernel,
   by unfold Allowed; decide +kernel,
   by decide +kernel⟩

theorem witness_shapers_and_reservations :
    (let s : State := up
     let s : State := { s with router := { s.router with shapers := [(0%3, { queue := [{ pkt := pk 1, again := false }, { pkt := pk 2 }] })] } }
     let s : State := s.wr R.FAB_VC1_RES (128 * 5 + 1 % 128) 1
     let s : State := s.wr R.FAB_SHP_RATE 0 0
     let s : State := { s with router := { s.router with src := [(ctxKey 1 2, { pending := [], incarn := 0, createdMs := 1, lastNs := 0 }), (ctxKey 1 3, {lastNs := 6})] } }
     let f : Nat := 0
     let w : Waiting := { pkt := { offset := 256, dst := 1, src := 2, vc := 2, kind := 0, len := 0, dlen := 4, epoch := 0, detour := false, hops := 1, birth := 0, eseq := 1, incarn := 0, syn := false, dtag := 9, spart := 3, tgen := 0, func := 2, rid := 1, sched := 0, poison := false, loc := false, resv := 0, data := [0x01#8, 0x02#8, 0x03#8, 0x04#8] }, again := false, rel := none }
     let rest : List Waiting := [{ pkt := { offset := 256, dst := 1, src := 2, vc := 2, kind := 0, len := 0, dlen := 4, epoch := 0, detour := false, hops := 1, birth := 0, eseq := 2, incarn := 0, syn := false, dtag := 9, spart := 3, tgen := 0, func := 2, rid := 2, sched := 0, poison := false, loc := false, resv := 0, data := [0x01#8, 0x02#8, 0x03#8, 0x04#8] }, again := false, rel := none }]
     ((mapGet { } s.router.shapers f).queue = w :: rest) ∧ (s.rd R.FAB_SHP_RATE f = 0)) ∧
    (let s : State := net
     let s : State := { s with router := { s.router with shapers := [(0%3, { queue := [{ pkt := pk 1, again := true }, { pkt := pk 2 }] })] } }
     let s : State := s.wr R.FAB_PORT_STATE 4 4
     let s : State := s.wr R.FAB_SHP_RATE 0 1
     let s : State := s.wr R.FAB_RT_STATE 0 0
     let f : Nat := 0
     let w : Waiting := { pkt := { offset := 256, dst := 1, src := 2, vc := 2, kind := 0, len := 0, dlen := 4, epoch := 0, detour := false, hops := 1, birth := 0, eseq := 1, incarn := 0, syn := false, dtag := 9, spart := 3, tgen := 0, func := 2, rid := 1, sched := 0, poison := false, loc := false, resv := 0, data := [0x01#8, 0x02#8, 0x03#8, 0x04#8] }, again := true, rel := none }
     let rest : List Waiting := [{ pkt := { offset := 256, dst := 1, src := 2, vc := 2, kind := 0, len := 0, dlen := 4, epoch := 0, detour := false, hops := 1, birth := 0, eseq := 2, incarn := 0, syn := false, dtag := 9, spart := 3, tgen := 0, func := 2, rid := 2, sched := 0, poison := false, loc := false, resv := 0, data := [0x01#8, 0x02#8, 0x03#8, 0x04#8] }, again := false, rel := none }]
     ((mapGet { } s.router.shapers f).queue = w :: rest) ∧ (s.rd R.FAB_SHP_RATE f ≠ 0) ∧ (s.rd R.FAB_SHP_RATE f ≠ 4294967295) ∧ (w.again = true) ∧ (0 ≤ (shpRefill s f).rdI R.FAB_SHP_LEVEL f)) ∧
    (let s : State := netP
     let who : Who := { role := Sys2Proof.Role.vendor, path := Sys2Proof.Path.vc0, func := 0 }
     let f : Nat := 0
     let v : Nat := 0
     Allowed s who R.FAB_SHP_RATE f v) ∧
    (let s : State := netP
     let who : Who := { role := Sys2Proof.Role.vendor, path := Sys2Proof.Path.vc0, func := 0 }
     let f : Nat := 0
     let x : Int := 0
     Allowed s who R.FAB_SHP_LEVEL f (ofSigned 64 x) ∧ (x ≤ ↑(s.rd R.FAB_SHP_BURST f))) ∧
    (let s : State := netP
     let s : State := s.wr R.FAB_RT_STATE 0 2
     let s : State := s.wr R.FAB_SHP_BURST 1 0
     let who : Who := { role := Sys2Proof.Role.operator, path := Sys2Proof.Path.pcie, func := 2 }
     let f : Nat := 1
     let x : Int := 1
     Allowed s who R.FAB_SHP_LEVEL f (ofSigned 64 x) ∧ (↑(s.rd R.FAB_SHP_BURST f) < x)) ∧
    (let s : State := netP
     let who : Who := { role := Sys2Proof.Role.vendor, path := Sys2Proof.Path.vc0, func := 0 }
     let f : Nat := 0
     let v : Nat := 0
     Allowed s who R.FAB_VC1_RES f v ∧ (s.pstate (f % 128) = psEmpty) ∧ (List.foldl (fun x1 x2 => x1 + x2) 0 (List.map (fun q => if q = f % 128 then v else s.rd R.FAB_VC1_RES (f / 128 * 128 + q)) (List.range 128)) ≤ 960)) ∧
    (let s : State := netP
     let who : Who := { role := Sys2Proof.Role.operator, path := Sys2Proof.Path.pcie, func := 2 }
     let f : Nat := 3
     let v : Nat := 2
     Allowed s who R.FAB_VC1_RES f v ∧ (s.pstate (f % 128) ≠ psEmpty ∨ 960 < List.foldl (fun x1 x2 => x1 + x2) 0 (List.map (fun q => if q = f % 128 then v else s.rd R.FAB_VC1_RES (f / 128 * 128 + q)) (List.range 128)))) :=
  ⟨by decide +kernel,
   by decide +kernel,
   by unfold Allowed; decide +kernel,
   by unfold Allowed; decide +kernel,
   by unfold Allowed; decide +kernel,
   by unfold Allowed; decide +kernel,
   by unfold Allowed; decide +kernel⟩

theorem witness_copies_and_collectives :
    (let s : State := netP
     let i : Issue := { block := 1, copy := Sys2Proof.SeqId.a, seq := 0, second := false, conflicts := [], desc := [] }
     let ch : Nat := 2
     let w : MovSlot := 0x0000dc000000#48
     let rs : List (Nat × Nat) := []
     Taken s i (conMover ch) ∧ (s.planRange i.block (s.desc i.block (mDesc w)).addrA (if mLines w = 0 then (s.desc i.block (mDesc w)).len else 128 * mLines w) = some rs) ∧ (s.isLocal (s.partOf i.block) (s.desc i.block (mDesc w)).addrB = true) ∧ (∀ c ∈ rs, s.poisoned c.1 c.2 = false)) ∧
    (let s : State := netP
     let i : Issue := { block := 0, copy := Sys2Proof.SeqId.a, seq := 0, second := false, conflicts := [], desc := [] }
     let ch : Nat := 1
     Taken s i (conMover ch)) ∧
    (let s : State := netP
     let i : Issue := { block := 0, copy := Sys2Proof.SeqId.a, seq := 0, second := false, conflicts := [], desc := [] }
     let ch : Nat := 1
     let part : Nat := 1
     let entry : Nat := 1
     Taken s i (conMover ch) ∧ ((s.coll part entry).started = false)) ∧
    (let i : Issue := { block := 0, copy := .a, seq := 0, second := false, conflicts := [], desc := [] }
     let ch : Nat := 1
     let part : Nat := 3
     let entry : Nat := 0
     let s : State := { rel with router := { rel.router with colls := [{ part := 3, entry := 0, started := true, block := 0, counter := 1 }] } }
     Taken s i (conMover ch) ∧ ((s.coll part entry).started = true) ∧ ((collEntry s part entry).kind = 4)) :=
  ⟨by unfold Taken; decide +kernel,
   by unfold Taken; decide +kernel,
   by unfold Taken; decide +kernel,
   by unfold Taken; decide +kernel⟩

end B05

namespace B06

def hst (s : State) : State := ((((s.wr R.HOST_NUM_VF 0 3).wr R.HOST_FN_QBASE 0 0).wr R.HOST_FN_QCOUNT 0 4).wr R.HOST_FN_QBASE 2 8).wr R.HOST_FN_QCOUNT 2 2 |>.wr R.HOST_FN_STATE 0 1 |>.wr R.HOST_FN_STATE 2 1
def q0 : QCtx := { sqBase := 0x10000, cqBase := 0x20000, sqLog2 := 4, cqLog2 := 4, state := .enabled, phase := true, sqTail := 3 }
def cmdBytes (op fl cid part : Nat) (host dev len a0 a1 : Nat) : List Byte :=
  leBytes 1 op ++ leBytes 1 fl ++ leBytes 2 cid ++ leBytes 1 part ++ leBytes 7 0 ++ leBytes 4 0 ++ leBytes 8 host ++ leBytes 8 dev ++ leBytes 8 len ++ leBytes 8 a0 ++ leBytes 8 a1 ++ leBytes 8 0
def hmem : List Host.Cell := memWrite (memWrite [] 0x10000 (cmdBytes 1 0 7 3 0x30000 0x100 64 0 0 ++ cmdBytes 0 0 8 3 0 0 0 0 0 ++ cmdBytes 0x20 0 9 3 0 0 0 0 0)) 0x30000 ((List.range 256).map fun k => BitVec.ofNat 8 (k + 9))
def withQ (s : State) : State := s.modHost fun h => { h with mem := hmem, queues := [(0, q0), (8, { q0 with sqBase := 0x40000, vector := 1 })] }
def mv (op k : Nat) : Mover := { queue := if k % 2 = 0 then 8 else 0, func := if k % 3 = 2 then 0 else 2, cmd := { opcode := op, part := 3, hostAddr := 0x30000, devAddr := 0x100, len := if k % 5 = 4 then 0 else 64, arg0 := if op = 3 then 0x4000 else 0 } }
def withM (op k : Nat) (s : State) : State := s.modHost fun h => { h with movers := [(0, mv op k)], order := 1 }
def H0 : State := hst (withMem loaded)
def H : State := withQ H0
def ops : List Nat := [0,1,2,3,0x10,0x11,0x12,0x13,0x20,0x21]
def mvs (s : State) : List State := ops.flatMap fun o => [withM o 0 s, withM o 2 s]
def basesL : List State := [up, H0, H, H, hst up, withQ (hst (withMem rel))] ++ mvs H ++ mvs (withQ (hst mrel)) ++ mvs (withQ (hst (withMem (dom3 part3))))
/-- A CRC register over a string and another. -/
theorem crcRef_append (poly : Nat) : ∀ (c : Nat) (a b : List Byte),
    crcRef poly c (a ++ b) = crcRef poly (crcRef poly c a) b
  | _, [], _ => rfl
  | c, x :: a, b => crcRef_append poly (crcRefBits poly 8 (c ^^^ x.toNat)) a b
/-- A CRC register taken 60 bytes at a time, through given values. -/
theorem crcRef_steps (bs : List Byte) (d : List Nat) : ∀ n,
    (∀ k < n, crcRef polyXz (getAt 0 d k) ((bs.drop (60 * k)).take 60) = getAt 0 d (k + 1)) →
    crcRef polyXz (getAt 0 d 0) (bs.take (60 * n)) = getAt 0 d n
  | 0, _ => rfl
  | n + 1, h => by
    rw [show 60 * (n + 1) = 60 * n + 60 from rfl, List.take_add, crcRef_append,
      crcRef_steps bs d n fun k hk => h k (Nat.lt_succ_of_lt hk), h n (Nat.lt_succ_self n)]
/-- The CRC register after each 60 bytes of the smallest plan. -/
def crcsOk : List Nat :=
  [ones 64, 8523857681570897556, 6193683978051097576, 13488178874742804334, 2018766850492454715,
    938745574905412273, 12026375306366390407, 5972277275973660614, 61073938623887644, 12790796477616359360,
    12310966154984714103, 16216275330417131444, 14062782046960985596, 7348640439058358778, 3690030983109056147,
    15549309350725993627, 8208014281926561100]
theorem imageDigest_of (im : List Byte) (d : List Nat) (n : Nat)
    (hs : ∀ k < n, crcRef polyXz (getAt 0 d k) (((im.take 0x18 ++ List.replicate 8 0 ++ im.drop 0x20).drop (60 * k)).take 60) =
      getAt 0 d (k + 1)) (h0 : getAt 0 d 0 = ones 64)
    (hl : (im.take 0x18 ++ List.replicate 8 0 ++ im.drop 0x20).length ≤ 60 * n) :
    imageDigest im = getAt 0 d n ^^^ ones 64 := by
  have h := crcRef_steps _ d n hs
  rw [List.take_of_length_le hl, h0] at h
  rw [imageDigest, crc64, h]
theorem okPlan_length : (okPlan.take 0x18 ++ List.replicate 8 0 ++ okPlan.drop 0x20).length ≤ 60 * 16 := by decide +kernel
theorem okPlan_steps : ∀ k < 16, crcRef polyXz (getAt 0 crcsOk k)
    (((okPlan.take 0x18 ++ List.replicate 8 0 ++ okPlan.drop 0x20).drop (60 * k)).take 60) = getAt 0 crcsOk (k + 1) := by
  decide +kernel
/-- The digest of the smallest plan is the one it carries. -/
theorem okPlan_digest : imageDigest okPlan = 10238729791782990515 :=
  (imageDigest_of okPlan crcsOk 16 okPlan_steps rfl okPlan_length).trans (by decide +kernel)
theorem okPlan_ranges : ckRanges okPlan = [] := by
  unfold ckRanges binKhz
  generalize Config.bin18 = b
  cases b <;> decide +kernel
/-- Partition 3 while it loads the smallest plan. -/
def loading : State :=
  ((hst (part3.wr R.CMP_PLAN_STATE 3 1)).modHost fun h => { h with movers := [(0, { mv 0x10 0 with next := 64 })], order := 1 }).modPart 3 fun q => { q with stagedBy := some 0, staged := okPlan }
theorem okPlan_loads : loadCheck loading 3 0 okPlan = none := by
  have h1 : ckMagic okPlan = [] := by decide +kernel
  have h2 : ckLen okPlan = [] := by decide +kernel
  have h3 : ckDigest okPlan = [] := by unfold ckDigest; rw [okPlan_digest]; decide +kernel
  have h4 : ckFootEntry okPlan = [] := by decide +kernel
  have h5 := okPlan_ranges
  have h6 : ckFoot loading 3 0 okPlan = [] := by decide +kernel
  have h7 : ckSections loading 3 okPlan = [] := by decide +kernel
  have h8 : ckReserved okPlan = [] ∧ ckCodes okPlan = [] ∧ ckPairings okPlan = [] ∧ ckTensors okPlan = [] ∧
    ckCrc okPlan = [] ∧ ckStreams okPlan (loading.rank 3) = [] ∧ ckSync okPlan = [] ∧ ckDigests okPlan = [] := by decide +kernel
  have h9 : ckView loading 3 okPlan = [] ∧ ckChips okPlan (loading.rank 3) = [] := by decide +kernel
  simp only [loadCheck, loadTable, firstFail, h1, h2, h3, h4, h5, h6, h7, h8, h9]

theorem witness_doorbells_and_contexts :
    (let s : State := (getAt up basesL 9)
     let f : Nat := 2
     let j : Nat := 0
     let v : Nat := 0
     let g : Nat := 8
     (s.localQ f j = some g) ∧ ((s.queue g).state = QState.enabled) ∧ (v % 65536 < (s.queue g).sqSize)) ∧
    (let s : State := (getAt up basesL 7)
     let f : Nat := 0
     let j : Nat := 0
     let v : Nat := 58
     let g : Nat := 0
     (s.localQ f j = some g) ∧ ((s.queue g).state = QState.enabled) ∧ ((s.queue g).sqSize ≤ v % 65536)) ∧
    (let s : State := (getAt up basesL 9)
     let f : Nat := 2
     let j : Nat := 0
     let v : Nat := 0
     let g : Nat := 8
     (s.localQ f j = some g) ∧ ((s.queue g).state = QState.enabled) ∧ (v % 65536 < (s.queue g).cqSize) ∧ ((v % 65536 + ((s.queue g).cqSize - (s.queue g).cqHead)) % (s.queue g).cqSize ≤ (s.queue g).cqUsed)) ∧
    (let s : State := (getAt up basesL 7)
     let f : Nat := 0
     let j : Nat := 0
     let v : Nat := 58
     let g : Nat := 0
     (s.localQ f j = some g) ∧ ((s.queue g).state = QState.enabled) ∧ ((s.queue g).cqSize ≤ v % 65536)) ∧
    (let s : State := (getAt up basesL 4)
     let f : Nat := 0
     let j : Nat := 2
     let g : Nat := 2
     (s.localQ f j = some g) ∧ ((s.queue g).state ≠ QState.enabled)) ∧
    (let s : State := (getAt up basesL 37)
     let s : State := modQueue s (if 2 < 3 then 0 else 8) fun q => { q with state := if 0 % 4 = 0 then .disabled else if 0 % 4 = 1 then .enabled else if 0 % 4 = 2 then .draining else .zeroing }
     let f : Nat := 0
     let j : Nat := 0
     let g : Nat := 0
     (s.localQ f j = some g) ∧ ((s.queue g).state = QState.disabled) ∧ (ctxValid f (s.queue g) = true)) ∧
    (let s : State := (getAt up basesL 4)
     let f : Nat := 0
     let j : Nat := 2
     let g : Nat := 2
     (s.localQ f j = some g) ∧ ((s.queue g).state = QState.disabled) ∧ (ctxValid f (s.queue g) = false)) ∧
    (let s : State := (getAt up basesL 4)
     let f : Nat := 0
     let j : Nat := 2
     let g : Nat := 2
     (s.localQ f j = some g) ∧ ((s.queue g).state = QState.disabled)) ∧
    (let s : State := (getAt up basesL 9)
     let f : Nat := 2
     let j : Nat := 0
     let g : Nat := 8
     (s.localQ f j = some g) ∧ ((s.queue g).state ≠ QState.disabled)) :=
  ⟨by decide +kernel,
   by decide +kernel,
   by decide +kernel,
   by decide +kernel,
   by decide +kernel,
   by decide +kernel,
   by decide +kernel,
   by decide +kernel,
   by decide +kernel⟩

theorem witness_fetch_and_complete :
    (let s : State := (getAt up basesL 1)
     fetchable s = []) ∧
    (let s : State := (getAt up basesL 9)
     let s : State := modQueue s (if 3 < 3 then 0 else 8) fun q => { q with state := if 14 % 4 = 0 then .disabled else if 14 % 4 = 1 then .enabled else if 14 % 4 = 2 then .draining else .zeroing }
     let f : Nat := 0
     let j : Nat := 0
     let g : Nat := 0
     (fetchable s = [(f, j, g)]) ∧ (s.qbase f + j = g) ∧ (s.host.rrTurn = none) ∧ Wf s ∧ (0 < fetchNow (s.queue g) (s.queue g).turn)) ∧
    (let s : State := (getAt up basesL 7)
     let s : State := { s with host := { s.host with movers := s.host.movers.map fun e => (e.1, { e.2 with outcome := some (5, 5, 5) }) } }
     let m : Nat := 0
     let x : Mover := { queue := 8, func := 0, cmd := { opcode := 0, flags := 0, cid := 0, part := 3, layer := 0, operator := 0, timeoutUs := 0, hostAddr := 196608, devAddr := 256, len := 64, arg0 := 0, arg1 := 0, resv := false }, started := false, deadline := none, next := 0, got := false, runs := [], bad := none, outcome := some (5, 5, 5) }
     let status : Nat := 5
     let reason : Nat := 5
     let result : Nat := 5
     (mapFind s.host.movers m = some x) ∧ (x.outcome = some (status, reason, result)) ∧ Wf s) ∧
    (let s : State := (getAt up basesL 27)
     let s : State := { s with host := { s.host with movers := s.host.movers.map fun e => (e.1, { e.2 with deadline := some 0 }) } }
     let m : Nat := 0
     let x : Mover := { queue := 8, func := 0, cmd := { opcode := 0, flags := 0, cid := 0, part := 3, layer := 0, operator := 0, timeoutUs := 0, hostAddr := 196608, devAddr := 256, len := 64, arg0 := 0, arg1 := 0, resv := false }, started := false, deadline := some 0, next := 0, got := false, runs := [], bad := none, outcome := none }
     let d : Int := 0
     (mapFind s.host.movers m = some x) ∧ (x.deadline = some d) ∧ (x.outcome = none) ∧ (d ≤ s.now) ∧ (timerHeld s m x = false)) ∧
    (let s : State := (getAt up basesL 0)
     let s : State := modQueue s (if 0 < 3 then 0 else 8) fun q => { q with cqTail := 1, cqHead := 0, unsignalled := 1 }
     let g : Nat := 0
     let f : Nat := 0
     (s.funcOf g = some f) ∧ ((s.queue g).unsignalled ≠ 0) ∧ ((s.queue g).firstNs + ↑(1000 * (s.queue g).coalUs) ≤ s.now)) ∧
    (let s : State := (hst up).modHost fun h => { h with queues := [(0, { q0 with unsignalled := 1, firstNs := 0, coalUs := 50 })] }
     let g : Nat := 0
     let f : Nat := 0
     (s.funcOf g = some f) ∧ ((s.queue g).unsignalled ≠ 0) ∧ (s.now < (s.queue g).firstNs + ↑(1000 * (s.queue g).coalUs))) :=
  ⟨by decide +kernel,
   ⟨by decide +kernel, by decide +kernel, by decide +kernel, by constructor <;> decide +kernel, by decide +kernel⟩,
   ⟨by decide +kernel, by decide +kernel, by constructor <;> decide +kernel⟩,
   by decide +kernel,
   by decide +kernel,
   by decide +kernel⟩

theorem witness_plan_commands :
    (let s : State := (getAt up basesL 7)
     let m : Nat := 0
     mayBegin s m 0 = true) ∧
    (let s : State := (getAt up basesL 63)
     let m : Nat := 0
     mayBegin s m 32 = true) ∧
    (let s : State := (getAt up basesL 45)
     let m : Nat := 0
     (s.owns (s.mover m).func (s.mover m).cmd.part = false) ∧ (mayBegin s m 33 = true)) ∧
    (let s : State := (getAt up basesL 17)
     let m : Nat := 0
     (s.owns (s.mover m).func (s.mover m).cmd.part = false) ∧ (mayBegin s m 17 = true)) ∧
    (let s : State := (getAt up basesL 19)
     let m : Nat := 0
     (s.owns (s.mover m).func (s.mover m).cmd.part = false) ∧ (mayBegin s m 18 = true)) ∧
    (let s : State := (getAt up basesL 41)
     let m : Nat := 0
     (s.owns (s.mover m).func (s.mover m).cmd.part = false) ∧ (mayBegin s m 19 = true)) ∧
    (let s : State := (getAt up basesL 24)
     let m : Nat := 0
     (s.owns (s.mover m).func (s.mover m).cmd.part = true) ∧ (mayBegin s m 33 = true)) ∧
    (let s : State := (getAt up basesL 36)
     let m : Nat := 0
     (s.owns (s.mover m).func (s.mover m).cmd.part = true) ∧ (mayBegin s m 17 = true) ∧ (s.pstate (s.mover m).cmd.part ≠ psLoaded)) ∧
    (let m : Nat := 0
     let s : State := withM 0x11 0 (hst (loaded.wr R.MEM_ZERO_BLOCK 0 1))
     (s.owns (s.mover m).func (s.mover m).cmd.part = true) ∧ (mayBegin s m 17 = true) ∧ (s.pstate (s.mover m).cmd.part = psLoaded) ∧ ((s.part (s.mover m).cmd.part).run = none) ∧ (zeroDone s (s.mover m).cmd.part = false)) ∧
    (let s : State := (getAt up basesL 16)
     let m : Nat := 0
     (s.owns (s.mover m).func (s.mover m).cmd.part = true) ∧ (mayBegin s m 17 = true) ∧ (s.pstate (s.mover m).cmd.part = psLoaded) ∧ ((s.part (s.mover m).cmd.part).run = none) ∧ (zeroDone s (s.mover m).cmd.part = true)) ∧
    (let m : Nat := 0
     let s : State := (withM 0x12 0 (hst rel)).modPart 3 fun q => { q with resumed := true }
     (s.owns (s.mover m).func (s.mover m).cmd.part = true) ∧ (mayBegin s m 18 = true) ∧ (s.active (s.mover m).cmd.part = true) ∧ ((s.part (s.mover m).cmd.part).resumed = true)) ∧
    (let m : Nat := 0
     let s : State := withM 0x13 0 (hst (loaded.wr R.CMP_PLAN_STATE 3 5))
     (s.owns (s.mover m).func (s.mover m).cmd.part = true) ∧ (mayBegin s m 19 = true) ∧ (s.pstate (s.mover m).cmd.part = psHalted) ∧ ((s.part (s.mover m).cmd.part).run = none) ∧ ((s.mover m).cmd.part < 128)) :=
  ⟨by decide +kernel,
   by decide +kernel,
   by decide +kernel,
   by decide +kernel,
   by decide +kernel,
   by decide +kernel,
   by decide +kernel,
   by decide +kernel,
   by decide +kernel,
   by decide +kernel,
   by decide +kernel,
   by decide +kernel⟩

theorem witness_data_commands :
    (let m : Nat := 0
     let s : State := withM 1 4 (hst loaded)
     (mayBegin s m 1 = true ∧ moversBusy s < 16 ∧ s.power.holdUnplanned = false ∧ s.owns (s.mover m).func (s.mover m).cmd.part = true ∧ cmdWaits s m = false ∧ (s.mover m).next = 0 ∧ (s.mover m).got = false ∧ (s.mover m).bad = none) ∧ ((s.mover m).cmd.len = 0)) ∧
    (let m : Nat := 0
     let s : State := withM 2 4 (hst loaded)
     (mayBegin s m 2 = true ∧ moversBusy s < 16 ∧ s.power.holdUnplanned = false ∧ s.owns (s.mover m).func (s.mover m).cmd.part = true ∧ cmdWaits s m = false ∧ (s.mover m).next = 0 ∧ (s.mover m).got = false ∧ (s.mover m).bad = none) ∧ ((s.mover m).cmd.len = 0)) ∧
    (let m : Nat := 0
     let s : State := withM 3 4 (hst loaded)
     (mayBegin s m 3 = true ∧ moversBusy s < 16 ∧ s.power.holdUnplanned = false ∧ s.owns (s.mover m).func (s.mover m).cmd.part = true ∧ cmdWaits s m = false ∧ (s.mover m).next = 0 ∧ (s.mover m).got = false ∧ (s.mover m).bad = none) ∧ ((s.mover m).cmd.len = 0)) ∧
    (let s : State := (getAt up basesL 8)
     let m : Nat := 0
     let rs : List (Nat × Nat) := [(256, 64)]
     (0 < (s.mover m).cmd.len) ∧ ((s.mover m).cmd.len ≤ 2 ^ 40) ∧ (mayBegin s m 1 = true ∧ moversBusy s < 16 ∧ s.power.holdUnplanned = false ∧ s.owns (s.mover m).func (s.mover m).cmd.part = true ∧ cmdWaits s m = false ∧ (s.mover m).next = 0 ∧ (s.mover m).got = false ∧ (s.mover m).bad = none) ∧ (s.isLocal (s.mover m).cmd.part (s.mover m).cmd.devAddr = true) ∧ (reqRange s (hostReq (s.mover m) true (s.mover m).cmd.devAddr (s.mover m).cmd.len) = some rs) ∧ ((∀ r ∈ rs, holdOf s r.1 r.2 = none) ∧ downRange s rs = false)) ∧
    (let s : State := (getAt up basesL 10)
     let m : Nat := 0
     let rs : List (Nat × Nat) := [(256, 64)]
     (0 < (s.mover m).cmd.len) ∧ ((s.mover m).cmd.len ≤ 2 ^ 40) ∧ (mayBegin s m 2 = true ∧ moversBusy s < 16 ∧ s.power.holdUnplanned = false ∧ s.owns (s.mover m).func (s.mover m).cmd.part = true ∧ cmdWaits s m = false ∧ (s.mover m).next = 0 ∧ (s.mover m).got = false ∧ (s.mover m).bad = none) ∧ (s.isLocal (s.mover m).cmd.part (s.mover m).cmd.devAddr = true) ∧ (reqRange s (hostReq (s.mover m) false (s.mover m).cmd.devAddr (s.mover m).cmd.len) = some rs) ∧ ((∀ r ∈ rs, holdOf s r.1 r.2 = none) ∧ downRange s rs = false) ∧ (∀ r ∈ rs, s.poisoned r.1 r.2 = false) ∧ Wf s) ∧
    (let s : State := (getAt up basesL 32)
     let m : Nat := 0
     let rs : List (Nat × Nat) := [(256, 64)]
     let ws : List (Nat × Nat) := [(16384, 64)]
     (0 < (s.mover m).cmd.len) ∧ ((s.mover m).cmd.len ≤ 2 ^ 40) ∧ (mayBegin s m 3 = true ∧ moversBusy s < 16 ∧ s.power.holdUnplanned = false ∧ s.owns (s.mover m).func (s.mover m).cmd.part = true ∧ cmdWaits s m = false ∧ (s.mover m).next = 0 ∧ (s.mover m).got = false ∧ (s.mover m).bad = none) ∧ (s.isLocal (s.mover m).cmd.part (s.mover m).cmd.devAddr = true) ∧ (s.isLocal (s.mover m).cmd.part (s.mover m).cmd.arg0 = true) ∧ (reqRange s (hostReq (s.mover m) false (s.mover m).cmd.devAddr (s.mover m).cmd.len) = some rs) ∧ (reqRange s (hostReq (s.mover m) true (s.mover m).cmd.arg0 (s.mover m).cmd.len) = some ws) ∧ ((∀ r ∈ rs, holdOf s r.1 r.2 = none) ∧ downRange s rs = false) ∧ (∀ r ∈ rs, s.poisoned r.1 r.2 = false) ∧ ((∀ r ∈ ws, holdOf s r.1 r.2 = none) ∧ downRange s ws = false)) ∧
    (let s : State := (getAt up basesL 15)
     let m : Nat := 0
     (mayBegin s m 16 = true) ∧ (s.owns (s.mover m).func (s.mover m).cmd.part = false)) ∧
    (let s : State := (getAt up basesL 54)
     let m : Nat := 0
     (mayBegin s m 16 = true) ∧ (s.owns (s.mover m).func (s.mover m).cmd.part = true) ∧ (s.pstate (s.mover m).cmd.part = psEmpty) ∧ ((s.mover m).cmd.part < 128) ∧ (bitOf (s.mover m).cmd.arg0 0 = false) ∧ (s.power.holdUnplanned = false) ∧ (cmdWaits s m = false) ∧ ((s.mover m).next = 0) ∧ ((s.mover m).got = false) ∧ (0 < (s.mover m).cmd.len) ∧ (∀ k ∈ s.slicesUp (s.mover m).cmd.part 1, s.rd R.MEM_ZERO_SLICE k = 0 ∧ s.inReset (uHbm (k / 48)) = false)) ∧
    (let m : Nat := 0
     let q : Nat := 3
     let keep : Nat := 0
     let s : State := loading
     (q < 128) ∧ ((s.part q).stagedBy = some m) ∧ (mapHas s.host.movers m = true) ∧ (s.pstate q = psLoading) ∧ ((s.mover m).cmd.len ≤ (s.mover m).next) ∧ ((s.mover m).bad = none) ∧ ((s.mover m).outcome = none) ∧ (loadCheck s q keep (s.part q).staged = none) ∧ (s.rst.mode = BootMode.normal)) ∧
    (let m : Nat := 0
     let q : Nat := 3
     let keep : Nat := 0
     let s : State := (hst (part3.wr R.CMP_PLAN_STATE 3 1)).modHost fun h => { h with movers := [(0, { mv 0x10 0 with next := 64 })], order := 1 }
     let s : State := s.modPart 3 fun q => { q with stagedBy := some 0, staged := [] }
     let e : LoadFail := { reason := 257, status := 9, offset := 0 }
     (q < 128) ∧ ((s.part q).stagedBy = some m) ∧ (mapHas s.host.movers m = true) ∧ (s.pstate q = psLoading) ∧ ((s.mover m).cmd.len ≤ (s.mover m).next) ∧ ((s.mover m).bad = none) ∧ ((s.mover m).outcome = none) ∧ (loadCheck s q keep (s.part q).staged = some e) ∧ (e.status < 256) ∧ (e.reason < 65536)) ∧
    (let s : State := (getAt up basesL 7)
     let f : Nat := 1
     let off : Nat := 1
     let len : Nat := 2
     (s.present f = true) ∧ (s.unitUp uEndpoint = true) ∧ (s.host.d3hot.contains f = false) ∧ (f = 0 ∨ off + len ≤ 2 ^ s.host.vfBar2) ∧ (s.power.holdUnplanned = false)) ∧
    (let s : State := (getAt up basesL 9)
     let s : State := { s with power := { s.power with holdUnplanned := true } }
     let f : Nat := 0
     let off : Nat := 3
     let len : Nat := 1
     (s.present f = true) ∧ (s.unitUp uEndpoint = true) ∧ (s.host.d3hot.contains f = false) ∧ (f = 0 ∨ off + len ≤ 2 ^ s.host.vfBar2) ∧ (s.power.holdUnplanned = true)) :=
  ⟨by decide +kernel,
   by decide +kernel,
   by decide +kernel,
   by decide +kernel,
   ⟨by decide +kernel, by decide +kernel, by decide +kernel, by decide +kernel, by decide +kernel, by decide +kernel, by decide +kernel, by constructor <;> decide +kernel⟩,
   by decide +kernel,
   by decide +kernel,
   by decide +kernel,
   ⟨by decide +kernel, by decide +kernel, by decide +kernel, by decide +kernel, by decide +kernel, by decide +kernel, by decide +kernel, okPlan_loads, by decide +kernel⟩,
   by decide +kernel,
   by decide +kernel,
   by decide +kernel⟩

theorem witness_disable_and_reset :
    (let s : State := (getAt up basesL 19)
     let s : State := modQueue s (if 0 < 3 then 0 else 8) fun q => { q with sqTail := 2, sqHead := 0, inflight := 2 }
     let f : Nat := 0
     let j : Nat := 0
     let g : Nat := 0
     (s.localQ f j = some g) ∧ ((s.queue g).state = QState.enabled) ∧ ((s.queue g).inflight ≠ 0)) ∧
    (let s : State := (getAt up basesL 9)
     let f : Nat := 0
     let j : Nat := 0
     let g : Nat := 0
     (s.localQ f j = some g) ∧ ((s.queue g).state = QState.enabled) ∧ ((s.queue g).inflight = 0) ∧ (queueCmds s g = [])) ∧
    (let s : State := (getAt up basesL 9)
     let f : Nat := 0
     let j : Nat := 0
     let g : Nat := 0
     (s.localQ f j = some g) ∧ ((s.queue g).state = QState.enabled ∨ (s.queue g).state = QState.draining)) ∧
    (let s : State := (getAt up basesL 3)
     let who : Who := { role := Sys2Proof.Role.vendor, path := Sys2Proof.Path.t1s, func := 0 }
     let f : Nat := 1
     Allowed s who R.HOST_FN_CTL f 1) ∧
    (let s : State := (getAt up basesL 3)
     let who : Who := { role := Sys2Proof.Role.vendor, path := Sys2Proof.Path.t1s, func := 0 }
     let f : Nat := 1
     Allowed s who R.HOST_FN_CTL f 2) ∧
    (let s : State := (getAt up basesL 3)
     let who : Who := { role := Sys2Proof.Role.vendor, path := Sys2Proof.Path.t1s, func := 0 }
     let f : Nat := 1
     (s.present f = true) ∧ Allowed s who R.HOST_FN_CTL f 3) ∧
    (let s : State := (getAt up basesL 6)
     let f : Nat := 3
     s.present f = true) ∧
    (let s : State := (getAt up basesL 3)
     let who : Who := { role := Sys2Proof.Role.vendor, path := Sys2Proof.Path.t1s, func := 0 }
     let f : Nat := 1
     let v : Nat := 1
     Allowed s who R.HOST_FN_QBASE f v ∧ (assignOk s f v (s.qcount f) = true)) ∧
    (let s : State := (getAt up basesL 6)
     let who : Who := { role := Sys2Proof.Role.vendor, path := Sys2Proof.Path.vc0, func := 0 }
     let f : Nat := 0
     let v : Nat := 1
     Allowed s who R.HOST_FN_QBASE f v ∧ (assignOk s f v (s.qcount f) = false)) ∧
    (let s : State := (getAt up basesL 2)
     let who : Who := { role := Sys2Proof.Role.vendor, path := Sys2Proof.Path.t1s, func := 2 }
     let f : Nat := 7
     let v : Nat := 0
     Allowed s who R.HOST_FN_QCOUNT f v ∧ (assignOk s f (s.qbase f) v = true)) ∧
    (let s : State := (getAt up basesL 3)
     let who : Who := { role := Sys2Proof.Role.vendor, path := Sys2Proof.Path.t1s, func := 0 }
     let f : Nat := 1
     let v : Nat := 1
     Allowed s who R.HOST_FN_QCOUNT f v ∧ (assignOk s f (s.qbase f) v = false)) :=
  ⟨by decide +kernel,
   by decide +kernel,
   by decide +kernel,
   by unfold Allowed; decide +kernel,
   by unfold Allowed; decide +kernel,
   by unfold Allowed; decide +kernel,
   by decide +kernel,
   by unfold Allowed; decide +kernel,
   by unfold Allowed; decide +kernel,
   by unfold Allowed; decide +kernel,
   by unfold Allowed; decide +kernel⟩

theorem witness_pcie_link :
    (let s : State := (getAt up basesL 6)
     let speed : Nat := 2
     let width : Nat := 0
     (speed < 256) ∧ (width < 256) ∧ (s.unitUp uEndpoint = true) ∧ (s.host.perst = false)) ∧
    (let s : State := (getAt up basesL 1)
     let n : Nat := 2
     (s.unitUp uEndpoint = true) ∧ (n ≤ 1023)) ∧
    (let s : State := (getAt up basesL 1)
     s.host.perst = false) ∧
    (let s : State := (getAt up basesL 1)
     let s : State := { s with host := { s.host with perst := true } }
     s.host.perst = true) :=
  ⟨by decide +kernel,
   by decide +kernel,
   by decide +kernel,
   by decide +kernel⟩

end B06

namespace B07

def st (s : State) : State := s.wr R.CMP_PLAN_STATE 3 4
def tile (k : Nat) : PendingTile := { cell := k % 4, entry := k % 3, step := if k % 2 = 0 then 5 else 4, run := 1, wfmt := if k % 7 = 6 then 10 else 0, afmt := if k % 7 = 6 then 10 else 0, mRows := 1, nCols := 128, kDim := 64, tile := { p := (List.range 128).map fun j => BitVec.ofNat 32 (if k % 3 = 0 then 0 else j * k) } }
def leaf0 : State := st (mrel.wr R.SEAL_BUDDY_STATE 3 0)
def hb0 (s : State) : State := (s.wr R.SEAL_BUDDY_STATE 3 2).wr R.SEAL_UNPROT_MAX 3 2
def leafW : State := (hb0 leaf0).modPart 3 fun q => { q with toSend := [(5,0)] }
def two : State := (((st (leaf0.wr R.FAB_CHIP_ID 0 1)).wr R.CMP_PART_TAG 4 9).wr R.CLV_ROOT 4 0).modPart 4 fun q => { q with replay := some 5, restored := true }
def roll : State := (leaf0).modPart 3 fun q => { q with journal := [{ step := 5, entries := [{ page := 0, jpage := 1 }] }, { step := 4 }], replay := some 5 }
def leaf : State := st (mrel.wr R.SEAL_BUDDY_STATE 3 0)
def withKids (s : State) : State := s.wr R.FAB_CHIP_ID 0 1
def hb (s : State) : State := s.wr R.SEAL_BUDDY_STATE 3 2
def jnl (s : State) : State := s.modPart 3 fun q => { q with journal := [{ step := 5, entries := [{ page := 0, jpage := 1 }] }, ], replay := some 5 }
def host (s : State) : State := { ((s.wr R.MEM_SLICE_PART 2 3).wr R.MEM_SLICE_USE 2 3).wr R.MEM_SLICE_HOST 2 (7 * 128 + 9) with buddies := [{ srcChip := 7, srcPart := 9, stage := [], merging := some 3 }] }
def spare (k : Nat) : State := (st mrel |>.wr R.CMP_PLAN_STATE 3 2).wr R.SEAL_SPARE_STATE 3 k

theorem witness_verdicts_of_tiles :
    (let x : PendingTile := { cell := 0, entry := 0, step := 5, run := 1, wfmt := 0, afmt := 0, mRows := 1, nCols := 128, kDim := 64, tile := { p := [7, 8] } }
     let rest : List PendingTile := []
     let q : Pairing := { k := 128, n := 128, g := 0, kind := .int }
     let s : State := (st rel).modBlock 0 fun k => { k with verdicts := [x] }
     let b : Nat := 0
     ((s.block b).verdicts = x :: rest) ∧ (x.rep = false) ∧ (pairing x.wfmt x.afmt = some q) ∧ (s.partOf b < 128) ∧ ((judge q (chkEntry s b x.entry) x.mRows x.tile (BitVec.ofNat 32 (mapGet 0 (s.block b).sealedNorms x.entry))).1 = [])) ∧
    (let x : PendingTile := { cell := 0, entry := 0, step := 5, run := 1, wfmt := 0, afmt := 0, mRows := 1, nCols := 128, kDim := 64, tile := { p := [7, 8] } }
     let rest : List PendingTile := []
     let q : Pairing := { k := 128, n := 128, g := 0, kind := .int }
     let s : State := ((st rel).modPart 3 fun q => { q with image := splice (splice im0 0x800 [1]) 0x848 [1, 0, 0xFF, 0xFF, 0xFF, 0xFF, 0xFF, 0xFF] }).modBlock 0 fun k => { k with verdicts := [x] }
     let b : Nat := 0
     ((s.block b).verdicts = x :: rest) ∧ (x.rep = false) ∧ (pairing x.wfmt x.afmt = some q) ∧ (s.partOf b < 128) ∧ ((judge q (chkEntry s b x.entry) x.mRows x.tile (BitVec.ofNat 32 (mapGet 0 (s.block b).sealedNorms x.entry))).1 ≠ []) ∧ ((s.block b).repeats.length < 64) ∧ (∀ r ∈ (s.block b).repeats ++ (s.block b).overflow, ¬(r.step = x.step ∧ r.entry = x.entry))) :=
  ⟨by decide +kernel,
   by decide +kernel⟩

theorem witness_leaf_votes :
    (let s : State := leafW
     let s : State := s.modPart 3 fun q => { q with verdict := { q.verdict with poison := true } }
     let p : Nat := 3
     let r : Nat := 1
     (s.pstate p = psStopped) ∧ (s.parent p = some r) ∧ (s.children p = []) ∧ ((s.part p).replay = none) ∧ ((s.part p).delayed = none) ∧ ((s.part p).ownVote = none) ∧ (s.rd R.CLV_STATE 0 ≠ 1) ∧ (∀ b ∈ s.blocksOf p, (s.block b).verdicts = []) ∧ (p < 128) ∧ (((s.part p).verdict != { } || unclassified s p (s.rd R.SEAL_STEP p)) = true)) ∧
    (let s : State := leaf
     let p : Nat := 3
     let r : Nat := 1
     (s.pstate p = psStopped) ∧ (s.parent p = some r) ∧ (s.children p = []) ∧ ((s.part p).replay = none) ∧ ((s.part p).delayed = none) ∧ ((s.part p).ownVote = none) ∧ (s.rd R.CLV_STATE 0 ≠ 1) ∧ (∀ b ∈ s.blocksOf p, (s.block b).verdicts = []) ∧ (p < 128) ∧ (((s.part p).verdict != { } || unclassified s p (s.rd R.SEAL_STEP p)) = false) ∧ (((s.rd R.SEAL_BUDDY_STATE p == bCurrent || s.rd R.SEAL_BUDDY_STATE p == bBehind) && (s.part p).toSend ++ (s.part p).unacked != []) = false)) ∧
    (let s : State := leafW
     let p : Nat := 3
     let r : Nat := 1
     (s.pstate p = psStopped) ∧ (s.parent p = some r) ∧ (s.children p = []) ∧ ((s.part p).replay = none) ∧ ((s.part p).delayed = none) ∧ ((s.part p).ownVote = none) ∧ (s.rd R.CLV_STATE 0 ≠ 1) ∧ (∀ b ∈ s.blocksOf p, (s.block b).verdicts = []) ∧ (p < 128) ∧ (((s.part p).verdict != { } || unclassified s p (s.rd R.SEAL_STEP p)) = false) ∧ (((s.rd R.SEAL_BUDDY_STATE p == bCurrent || s.rd R.SEAL_BUDDY_STATE p == bBehind) && (s.part p).toSend ++ (s.part p).unacked != []) = true) ∧ (s.compat p = false) ∧ ((s.part p).deltaExpired = false)) ∧
    (let s : State := leafW
     let s : State := { s with time := { s.time with sec := 41, ns := 5 } }
     let p : Nat := 3
     let r : Nat := 1
     (s.pstate p = psStopped) ∧ (s.parent p = some r) ∧ (s.children p = []) ∧ ((s.part p).replay = none) ∧ ((s.part p).delayed = none) ∧ ((s.part p).ownVote = none) ∧ (s.rd R.CLV_STATE 0 ≠ 1) ∧ (∀ b ∈ s.blocksOf p, (s.block b).verdicts = []) ∧ (p < 128) ∧ (((s.part p).verdict != { } || unclassified s p (s.rd R.SEAL_STEP p)) = false) ∧ (((s.rd R.SEAL_BUDDY_STATE p == bCurrent || s.rd R.SEAL_BUDDY_STATE p == bBehind) && (s.part p).toSend ++ (s.part p).unacked != []) = true) ∧ (s.compat p = false) ∧ ((s.part p).deltaExpired = false) ∧ (s.rd R.SEAL_DELTA_WAIT_MS p ≠ 0) ∧ ((s.part p).lateVotes < s.rd R.SEAL_UNPROT_MAX p) ∧ (boundary s p + ↑(1000000 * s.rd R.SEAL_DELTA_WAIT_MS p) ≤ s.now)) ∧
    (let s : State := leafW
     let p : Nat := 3
     let r : Nat := 1
     (s.pstate p = psStopped) ∧ (s.parent p = some r) ∧ (s.children p = []) ∧ ((s.part p).replay = none) ∧ ((s.part p).delayed = none) ∧ ((s.part p).ownVote = none) ∧ (s.rd R.CLV_STATE 0 ≠ 1) ∧ (∀ b ∈ s.blocksOf p, (s.block b).verdicts = []) ∧ (p < 128) ∧ (((s.part p).verdict != { } || unclassified s p (s.rd R.SEAL_STEP p)) = false) ∧ (((s.rd R.SEAL_BUDDY_STATE p == bCurrent || s.rd R.SEAL_BUDDY_STATE p == bBehind) && (s.part p).toSend ++ (s.part p).unacked != []) = true) ∧ (s.compat p = false) ∧ ((s.part p).deltaExpired = false) ∧ (s.rd R.SEAL_DELTA_WAIT_MS p ≠ 0) ∧ ((s.part p).lateVotes < s.rd R.SEAL_UNPROT_MAX p) ∧ (s.now < boundary s p + ↑(1000000 * s.rd R.SEAL_DELTA_WAIT_MS p))) :=
  ⟨by decide +kernel,
   by decide +kernel,
   by decide +kernel,
   by decide +kernel,
   by decide +kernel⟩

theorem witness_children_report :
    (let s : State := withKids leaf
     let s : State := s.modPart 3 fun q => { q with replay := if 1035 % 3 = 0 then none else some 5 }
     let s : State := s.wr R.CLV_ROOT 3 0
     let s : State := s.wr R.SEAL_ADOPT_RANK 3 1
     let p : Nat := 3
     let child : Nat := 1
     let v : Vote := { step := 5, run := 1, outcome := 2, flags := 0, count := 1, digest := 5, rank := 0 }
     (s.isFailed (s.rankChip p child) = false) ∧ (child ∈ s.children p) ∧ (s.active p = true) ∧ ((s.part p).replay = none) ∧ ((s.part p).ownVote = none) ∧ (∀ e ∈ (s.part p).childVotes, e.1 ≠ child) ∧ (v.step = s.rd R.SEAL_STEP p) ∧ (v.run = s.rd R.SEAL_RUN p)) ∧
    (let s : State := withKids leaf
     let s : State := s.modPart 3 fun q => { q with replay := if 1035 % 3 = 0 then none else some 5 }
     let s : State := s.wr R.CLV_ROOT 3 0
     let s : State := s.wr R.SEAL_ADOPT_RANK 3 1
     let p : Nat := 3
     let child : Nat := 1
     let v : Vote := { step := 5, run := 2, outcome := 0, flags := 0, count := 1, digest := 5, rank := 2 }
     (s.isFailed (s.rankChip p child) = false) ∧ (child ∈ s.children p) ∧ (s.active p = true) ∧ ((s.part p).replay = none) ∧ ((s.part p).ownVote = none) ∧ (∀ e ∈ (s.part p).childVotes, e.1 ≠ child) ∧ (v.step ≠ s.rd R.SEAL_STEP p ∨ v.run ≠ s.rd R.SEAL_RUN p)) ∧
    (let s : State := jnl (withKids leaf)
     let s : State := s.wr R.CLV_ROOT 3 0
     let p : Nat := 3
     let child : Nat := 1
     let m : ReadyMsg := { step := 5, run := 1, withdraw := false, count := 1, digest := 0, startSec := 0, startNs := 5 }
     (s.isFailed (s.rankChip p child) = false) ∧ (child ∈ s.children p) ∧ ((s.part p).readyOwn = false) ∧ (m.withdraw = false) ∧ (∀ e ∈ (s.part p).readyFrom, e.1 ≠ child)) ∧
    (let s : State := jnl (withKids leaf)
     let s : State := s.wr R.CLV_ROOT 3 0
     let p : Nat := 3
     let child : Nat := 1
     (s.isFailed (s.rankChip p child) = false) ∧ (child ∈ s.children p) ∧ ((s.part p).replay.isSome = true) ∧ ((s.part p).restored = false)) ∧
    (let s : State := ((leaf0.wr R.CMP_PART_TAG 4 9).wr R.CLV_ROOT 4 0).modPart 3 fun q => { q with replay := some 5, restored := true }
     let p : Nat := 4
     let child : Nat := 1
     let k : Nat := 3
     let r : Nat := 1
     let from_ : Nat := 5
     (s.isFailed (s.rankChip p child) = false) ∧ (child ∈ s.children p) ∧ (s.parent k = some r) ∧ (s.children k = []) ∧ ((s.part k).replay = some from_) ∧ ((s.part k).restored = true) ∧ (s.inDomain k = true)) :=
  ⟨by decide +kernel,
   by decide +kernel,
   by decide +kernel,
   by decide +kernel,
   by decide +kernel⟩

theorem witness_commits_at_a_leaf :
    (let s : State := leaf
     let p : Nat := 3
     let c : Commit := { step := 5, run := 1, outcome := 0, flags := 0, target := 2, prot := 5, t0sec := 2, t0ns := 7 }
     (s.children p = []) ∧ (∀ (r : ℕ), s.parent p = some r → s.isFailed (s.rankChip p r) = false) ∧ (c.step < 2 ^ 32) ∧ (c.prot < 2 ^ 32) ∧ (p < 128) ∧ (c.step = s.rd R.SEAL_STEP p ∧ c.run = s.rd R.SEAL_RUN p ∧ s.active p = true) ∧ (s.pstate p = psStopped) ∧ ((s.part p).replay = none) ∧ (c.outcome ≤ 1) ∧ (c.flags = 0)) ∧
    (let s : State := leaf
     let p : Nat := 3
     let c : Commit := { step := 5, run := 1, outcome := 0, flags := 1, target := 1, prot := 4, t0sec := 1, t0ns := 76 }
     (s.children p = []) ∧ (∀ (r : ℕ), s.parent p = some r → s.isFailed (s.rankChip p r) = false) ∧ (c.step < 2 ^ 32) ∧ (c.prot < 2 ^ 32) ∧ (p < 128) ∧ (c.step = s.rd R.SEAL_STEP p ∧ c.run = s.rd R.SEAL_RUN p ∧ s.active p = true) ∧ (s.pstate p = psStopped) ∧ ((s.part p).replay = none) ∧ (c.outcome ≤ 1) ∧ (c.flags = 1)) ∧
    (let s : State := leaf
     let p : Nat := 3
     let c : Commit := { step := 5, run := 1, outcome := 1, flags := 2, target := 1, prot := 3, t0sec := 3, t0ns := 24 }
     (s.children p = []) ∧ (∀ (r : ℕ), s.parent p = some r → s.isFailed (s.rankChip p r) = false) ∧ (c.step < 2 ^ 32) ∧ (c.prot < 2 ^ 32) ∧ (p < 128) ∧ (c.step = s.rd R.SEAL_STEP p ∧ c.run = s.rd R.SEAL_RUN p ∧ s.active p = true) ∧ (s.pstate p = psStopped) ∧ ((s.part p).replay = none) ∧ (c.outcome ≤ 1) ∧ (c.flags = 2)) ∧
    (let s : State := two
     let p : Nat := 3
     let c : Commit := { step := 5, run := 1, outcome := 2, flags := 0, target := 1, prot := 1, t0sec := 0, t0ns := 8 }
     (s.children p = []) ∧ (∀ (r : ℕ), s.parent p = some r → s.isFailed (s.rankChip p r) = false) ∧ (c.step < 2 ^ 32) ∧ (c.prot < 2 ^ 32) ∧ (p < 128) ∧ (c.step = s.rd R.SEAL_STEP p ∧ c.run = s.rd R.SEAL_RUN p ∧ s.active p = true) ∧ (c.outcome = 2) ∧ (c.flags = 0) ∧ ((s.part p).replay = none) ∧ ((recentRolls s p).length < 15) ∧ (s.rd R.SEAL_JNL_STATE p ≠ 1)) ∧
    (let s : State := two
     let p : Nat := 3
     let c : Commit := { step := 4, run := 1, outcome := 2, flags := 0, target := 0, prot := 3, t0sec := 2, t0ns := 2 }
     (s.children p = []) ∧ (∀ (r : ℕ), s.parent p = some r → s.isFailed (s.rankChip p r) = false) ∧ (c.step < 2 ^ 32) ∧ (c.prot < 2 ^ 32) ∧ (p < 128) ∧ (¬(c.step = s.rd R.SEAL_STEP p ∧ c.run = s.rd R.SEAL_RUN p ∧ s.active p = true))) :=
  ⟨by decide +kernel,
   by decide +kernel,
   by decide +kernel,
   by decide +kernel,
   by decide +kernel⟩

theorem witness_rollback_and_replay :
    (let s : State := withKids leaf
     let s : State := s.modPart 3 fun q => { q with delayed := some (5, 1 = 0) }
     let p : Nat := 3
     let from_ : Nat := 5
     let halt : Bool := false
     (p < 128) ∧ ((s.part p).delayed = some (from_, halt)) ∧ ((recentRolls s p).length < 15) ∧ (s.rd R.SEAL_JNL_STATE p ≠ 1)) ∧
    (let s : State := roll
     let p : Nat := 3
     let from_ : Nat := 5
     let r : Nat := 1
     (p < 128) ∧ ((s.part p).replay = some from_) ∧ ((s.part p).restored = false) ∧ (restoreBusy s p = false) ∧ ((s.part p).haltAfter = false) ∧ ((s.part p).fromBuddy = false) ∧ (s.parent p = some r) ∧ (s.children p = [])) ∧
    (let s : State := roll
     let p : Nat := 3
     let m : ResumeMsg := { step := 5, run := 0, t0sec := 0, t0ns := 0 }
     (p < 128) ∧ ((s.part p).replay = some m.step) ∧ (m.step < 2 ^ 32) ∧ (m.run < 256) ∧ (s.children p = []) ∧ (∀ (r : ℕ), s.parent p = some r → s.isFailed (s.rankChip p r) = false)) :=
  ⟨by decide +kernel,
   by decide +kernel,
   by decide +kernel⟩

theorem witness_buddy_copies :
    (let s : State := (hb0 rel).modPart 3 fun q => { q with toSend := [(5, 0), (5, 1)] }
     let p : Nat := 3
     let step : Nat := 5
     let page : Nat := 0
     let rest : List (Nat × Nat) := [(5, 1)]
     let a : Nat := (match s.pageAddr 3 0 with | some a => a | none => 0)
     ((s.part p).toSend = (step, page) :: rest) ∧ (deltaAddr s p step page = some a)) ∧
    (let s : State := (rel.wr R.SEAL_BUDDY_STATE 3 1).modPart 3 fun q => { q with fillNext := 0 }
     let p : Nat := 3
     let page : Nat := 0
     let rest : List Nat := (keptPages (s.img p)).drop 1
     let a : Nat := (match s.pageAddr 3 0 with | some a => a | none => 0)
     (List.drop (s.part p).fillNext (keptPages (s.img p)) = page :: rest) ∧ (s.rd R.SEAL_BUDDY_STATE p = bFilling) ∧ (s.power.holdUnplanned = false) ∧ ((s.part p).replay = none) ∧ (s.pageAddr p page = some a)) ∧
    (let s : State := leafW
     let s : State := s.wr R.SEAL_BUDDY_STATE 3 1
     let p : Nat := 3
     s.rd R.SEAL_BUDDY_STATE p = bFilling) ∧
    (let s : State := hb leaf
     let p : Nat := 3
     s.rd R.SEAL_BUDDY_STATE p = bCurrent) ∧
    (let s : State := hb leaf
     let p : Nat := 3
     s.rd R.SEAL_BUDDY_STATE p ≠ bNone) ∧
    (let s : State := leafW
     let d : DeltaPage := { srcChip := 1, srcPart := 3, gen := 1, step := 2, page := 8, filling := true, data := { bytes := [(0, 0x05#8)], bad := [] } }
     hostSlices s d.srcChip d.srcPart = 0) ∧
    (let a : BuddyArea := { srcChip := 7, srcPart := 9 }
     let s : State := { ((up.wr R.MEM_SLICE_PART 2 3).wr R.MEM_SLICE_USE 2 3).wr R.MEM_SLICE_HOST 2 (7 + 2 ^ 17 * 9) with buddies := [a] }
     let d : DeltaPage := { srcChip := 7, srcPart := 9, gen := 0, step := 4, page := 1, filling := true, data := { bytes := [(0, 5)], bad := [] } }
     (0 < hostSlices s d.srcChip d.srcPart) ∧ (localOf s d.srcChip = none) ∧ (s.area d.srcChip d.srcPart = some a) ∧ (a.srcChip = d.srcChip) ∧ (a.srcPart = d.srcPart) ∧ (d.filling = true)) ∧
    (let a : BuddyArea := { srcChip := 7, srcPart := 9 }
     let s : State := { ((up.wr R.MEM_SLICE_PART 2 3).wr R.MEM_SLICE_USE 2 3).wr R.MEM_SLICE_HOST 2 (7 + 2 ^ 17 * 9) with buddies := [a] }
     let d : DeltaPage := { srcChip := 7, srcPart := 9, gen := 0, step := 4, page := 1, filling := false, data := { bytes := [(0, 5)], bad := [] } }
     (0 < hostSlices s d.srcChip d.srcPart) ∧ (localOf s d.srcChip = none) ∧ (s.area d.srcChip d.srcPart = some a) ∧ (a.srcChip = d.srcChip) ∧ (a.srcPart = d.srcPart) ∧ (d.filling = false) ∧ (a.stage.length < stageSize s a)) ∧
    (let s : State := host leaf
     let d : DeltaPage := { srcChip := 7, srcPart := 9, gen := 0, step := 2, page := 2, filling := true, data := { bytes := [(0, 0x05#8)], bad := [] } }
     let a : BuddyArea := { srcChip := 7, srcPart := 9, digest := 0, rank := 0, step := 0, copy := [], stage := [], merging := some 3 }
     let prot : Nat := 3
     (s.area d.srcChip d.srcPart = some a) ∧ (a.merging = some prot)) :=
  ⟨by decide +kernel,
   by decide +kernel,
   by decide +kernel,
   by decide +kernel,
   by decide +kernel,
   by decide +kernel,
   by decide +kernel,
   by decide +kernel,
   by decide +kernel⟩

theorem witness_spare_adoption :
    (let s : State := roll
     let who : Who := { role := Sys2Proof.Role.vendor, path := Sys2Proof.Path.t1s, func := 0 }
     let p : Nat := 3
     (p < 128) ∧ Allowed s who R.SEAL_ADOPT_CMD p 1 ∧ (s.rd R.SEAL_SPARE_STATE p ≠ 2)) ∧
    (let s : State := spare 2
     let who : Who := { role := Sys2Proof.Role.operator, path := Sys2Proof.Path.vc0, func := 2 }
     let p : Nat := 3
     let h : BuddyHeader := { digest := 0, rank := 0, step := 2, pages := 0, gen := 3 }
     (p < 128) ∧ Allowed s who R.SEAL_ADOPT_CMD p 1 ∧ (s.rd R.SEAL_SPARE_STATE p = 2) ∧ (h.digest = imgDigest (s.img p)) ∧ (h.rank = s.rd R.SEAL_ADOPT_RANK p)) ∧
    (let s : State := spare 2
     let who : Who := { role := Sys2Proof.Role.operator, path := Sys2Proof.Path.vc0, func := 2 }
     let p : Nat := 3
     let h : BuddyHeader := { digest := 1, rank := 0, step := 0, pages := 0, gen := 2 }
     (p < 128) ∧ Allowed s who R.SEAL_ADOPT_CMD p 1 ∧ (s.rd R.SEAL_SPARE_STATE p = 2) ∧ (h.digest ≠ imgDigest (s.img p) ∨ h.rank ≠ s.rd R.SEAL_ADOPT_RANK p)) ∧
    (let s : State := spare 3
     let p : Nat := 3
     let r : Nat := 1
     (p < 128) ∧ (s.rd R.SEAL_SPARE_STATE p = 3) ∧ (zeroDone s p = true) ∧ ((s.part p).adoptStep < 2 ^ 32 - 1) ∧ (s.parent p = some r) ∧ (s.children p = [])) ∧
    (let s : State := part3.wr R.MEM_ZERO_BLOCK 0 1
     let p : Nat := 3
     (p < 128) ∧ (zeroDone s p = false)) ∧
    (let s : State := roll
     let who : Who := { role := Sys2Proof.Role.vendor, path := Sys2Proof.Path.t1s, func := 0 }
     let p : Nat := 3
     let v : Nat := 3
     (p < 128) ∧ Allowed s who R.SEAL_BUDDY p v ∧ (s.pstate p = psLoaded ∨ s.pstate p = psStopped ∨ s.pstate p = psHalted)) ∧
    (let s : State := leaf
     let who : Who := { role := Sys2Proof.Role.vendor, path := Sys2Proof.Path.t1s, func := 2 }
     let p : Nat := 1
     let v : Nat := 4
     (p < 128) ∧ Allowed s who R.SEAL_BUDDY p v ∧ (s.pstate p = psEmpty ∨ s.pstate p = psLoading ∨ s.pstate p = psRunning)) :=
  ⟨by unfold Allowed; decide +kernel,
   by unfold Allowed; decide +kernel,
   by unfold Allowed; decide +kernel,
   by decide +kernel,
   by decide +kernel,
   by unfold Allowed; decide +kernel,
   by unfold Allowed; decide +kernel⟩

end B07

namespace B08

def pts (f : Nat → State → State) (s : State) : State := s.each (List.range 6) fun s p => f p s
def upN (s : State) : State := pts (fun p s => s.wr R.FAB_PORT_STATE p 2) s
def net : State := (upN (withMem loaded)).wr R.FAB_TORUS_DIM 0 (3 + 64 + 4096)
def nbrs (s : State) : State := pts (fun p s => ((s.wr R.CLV_NBR_STATE p 1).wr R.CLV_NBR_CHIP p (p + 1)).wr R.CLV_NBR_ALIVE p 7) { s with clover := { s.clover with nbrs := (List.range 6).map fun p => (p, { watched := true, boot := 3, arbA := 4, arbB := if p % 2 = 0 then 0xFFFFFFFF else 5 }) } }
def stw (r : Nat) (s : State) : State := (s.wr R.CLV_STW_ROLE 0 r).wr R.CLV_STW_STATE 0 2
def late (s : State) : State := { s with time := { s.time with sec := 9, ns := 77 } }
def inq (k : Nat) (s : State) : State := { s with clover := { s.clover with inquiries := [(0, { reporters := if k % 2 = 0 then [1] else [], tries := k % 4, failed := k % 5 == 4, probeNs := if k % 3 = 0 then 9000000077 else 0 })] } }

theorem witness_network_time :
    (let s : State := up
     s.stepPend = 0 ∨ s.running = true) ∧
    (let s : State := up
     let s : State := s.wr R.TIME_STEP_PEND 0 (2^63 - 1 - 36)
     (s.stepPend ≠ 0) ∧ (s.running = false) ∧ (0 ≤ s.now + s.stepPend) ∧ (s.now + s.stepPend < 2 ^ 48 * 1000000000)) ∧
    (let s : State := up
     let who : Who := { role := .vendor, path := .vc0, func := 0 }
     let v : Nat := 0x02000001
     Allowed s who R.TIME_INCR 0 v) ∧
    (let s : State := up
     let who : Who := { role := Sys2Proof.Role.vendor, path := Sys2Proof.Path.vc0, func := 0 }
     let d : Int := 1
     (-2 ^ 63 ≤ d) ∧ (d < 2 ^ 63) ∧ Allowed s who R.TIME_STEP_NS 0 (ofSigned 64 d) ∧ (-2 ^ 63 ≤ s.stepPend + d) ∧ (s.stepPend + d < 2 ^ 63)) ∧
    (let s : State := up
     let s : State := s.wr R.TIME_STEP_PEND 0 (2^63 + 1)
     let who : Who := { role := Sys2Proof.Role.operator, path := Sys2Proof.Path.vc0, func := 0 }
     let d : Int := -2
     (-2 ^ 63 ≤ d) ∧ (d < 2 ^ 63) ∧ Allowed s who R.TIME_STEP_NS 0 (ofSigned 64 d) ∧ (s.stepPend + d < -2 ^ 63 ∨ 2 ^ 63 ≤ s.stepPend + d)) ∧
    (let s : State := up
     let who : Who := { role := Sys2Proof.Role.vendor, path := Sys2Proof.Path.vc0, func := 0 }
     let v : Nat := 4
     Allowed s who R.TIME_MASTER_PORT 0 v) ∧
    (let s : State := up
     let s : State := (s.wr R.TIME_MASTER_PORT 0 2).wr R.TIME_STATE 0 (1 + 65535 % 2)
     let s : State := s.wr R.TIME_INCR 0 (0x02000000 + 4)
     let s : State := { s with time := { s.time with sec := 2^48-1, ns := 999999999, frac := 16777215 - 38 } }
     (s.follows = true) ∧ (s.time.syncNs + ↑(syncLossNs s) ≤ s.now)) ∧
    (let s : State := up
     s.follows = false ∨ s.now < s.time.syncNs + ↑(syncLossNs s)) :=
  ⟨by decide +kernel,
   by decide +kernel,
   by unfold Allowed; decide +kernel,
   by unfold Allowed; decide +kernel,
   by unfold Allowed; decide +kernel,
   by unfold Allowed; decide +kernel,
   by decide +kernel,
   by decide +kernel⟩

theorem witness_time_messages :
    (let s : State := up
     s.time.ptpSeq < 65536) ∧
    (let s : State := up
     let m : TimeMsg := { port := 2, capture := 0, bytes := [0x12#8, 0x00#8, 0x2c#8, 0x00#8, 0x00#8, 0x00#8, 0x00#8, 0xff#8, 0xff#8, 0xff#8, 0xff#8, 0xff#8, 0xff#8, 0xff#8, 0xf9#8, 0x00#8, 0x00#8, 0x00#8, 0x00#8, 0x00#8, 0x00#8, 0x00#8, 0x00#8, 0x00#8, 0x00#8, 0x00#8, 0x05#8, 0x00#8, 0x03#8, 0x00#8, 0x00#8, 0x00#8, 0x00#8, 0x00#8, 0x00#8, 0x00#8, 0x00#8, 0x00#8, 0x09#8, 0x00#8, 0x00#8, 0x00#8, 0x01#8] }
     ¬((ptpOk m.bytes = true ∧ s.portUp m.port = true) ∧ ptpType m.bytes = 2)) ∧
    (let s : State := stw 3 net
     let m : TimeMsg := { port := 2, capture := 4, bytes := [0x02#8, 0x12#8, 0x00#8, 0x36#8, 0x00#8, 0x00#8, 0x00#8, 0x00#8, 0xff#8, 0xff#8, 0xff#8, 0xff#8, 0xff#8, 0xff#8, 0xff#8, 0x80#8, 0x00#8, 0x00#8, 0x00#8, 0x00#8, 0x00#8, 0x00#8, 0x00#8, 0x00#8, 0x00#8, 0x00#8, 0x00#8, 0x05#8, 0x00#8, 0x03#8, 0x00#8, 0x01#8, 0x00#8, 0x00#8, 0x00#8, 0x00#8, 0x00#8, 0x00#8, 0x00#8, 0x00#8, 0x00#8, 0x00#8, 0x00#8, 0x00#8, 0x00#8, 0x00#8, 0x00#8, 0x00#8, 0x00#8, 0x00#8, 0x00#8, 0x00#8, 0x00#8, 0x00#8] }
     (ptpOk m.bytes = true ∧ s.portUp m.port = true) ∧ (ptpType m.bytes = 2)) ∧
    (let s : State := up
     let m : TimeMsg := { port := 2, capture := 0, bytes := [0x12#8, 0x00#8, 0x2c#8, 0x00#8, 0x00#8, 0x00#8, 0x00#8, 0xff#8, 0xff#8, 0xff#8, 0xff#8, 0xff#8, 0xff#8, 0xff#8, 0xf9#8, 0x00#8, 0x00#8, 0x00#8, 0x00#8, 0x00#8, 0x00#8, 0x00#8, 0x00#8, 0x00#8, 0x00#8, 0x00#8, 0x05#8, 0x00#8, 0x03#8, 0x00#8, 0x00#8, 0x00#8, 0x00#8, 0x00#8, 0x00#8, 0x00#8, 0x00#8, 0x00#8, 0x09#8, 0x00#8, 0x00#8, 0x00#8, 0x01#8] }
     ¬((ptpOk m.bytes = true ∧ s.portUp m.port = true) ∧ ptpType m.bytes = 3 ∧ (beField m.bytes 30 2 = (s.pdelayOf m.port).seq ∧ List.take 10 (List.drop 44 m.bytes) = portIdentity m.port) ∧ (s.pdelayOf m.port).t1.isSome = true)) ∧
    (let s : State := late (upN up)
     let s : State := s.modTime fun t => { t with pdelay := [(2, { t1 := some 0 })] }
     let head : List Byte := [3, 0x12, 0, 54] ++ List.replicate 40 0
     let m : TimeMsg := { port := 2, capture := 65543, bytes := head ++ portIdentity 2 }
     let t1 : Int := 0
     (ptpOk m.bytes = true ∧ s.portUp m.port = true) ∧ (ptpType m.bytes = 3) ∧ (beField m.bytes 30 2 = (s.pdelayOf m.port).seq ∧ List.take 10 (List.drop 44 m.bytes) = portIdentity m.port) ∧ ((s.pdelayOf m.port).t1 = some t1)) ∧
    (let s : State := up
     let m : TimeMsg := { port := 2, capture := 0, bytes := [0x12#8, 0x00#8, 0x2c#8, 0x00#8, 0x00#8, 0x00#8, 0x00#8, 0xff#8, 0xff#8, 0xff#8, 0xff#8, 0xff#8, 0xff#8, 0xff#8, 0xf9#8, 0x00#8, 0x00#8, 0x00#8, 0x00#8, 0x00#8, 0x00#8, 0x00#8, 0x00#8, 0x00#8, 0x00#8, 0x00#8, 0x05#8, 0x00#8, 0x03#8, 0x00#8, 0x00#8, 0x00#8, 0x00#8, 0x00#8, 0x00#8, 0x00#8, 0x00#8, 0x00#8, 0x09#8, 0x00#8, 0x00#8, 0x00#8, 0x01#8] }
     ¬((ptpOk m.bytes = true ∧ s.portUp m.port = true) ∧ ptpType m.bytes = 0 ∧ m.port = s.rd R.TIME_MASTER_PORT 0)) ∧
    (let s : State := net.wr R.TIME_MASTER_PORT 0 2
     let m : TimeMsg := { port := 2, capture := 3, bytes := [0x00#8, 0x12#8, 0x00#8, 0x2c#8, 0x00#8, 0x00#8, 0x00#8, 0x00#8, 0xff#8, 0xff#8, 0xff#8, 0xff#8, 0xff#8, 0xff#8, 0xff#8, 0xfe#8, 0x00#8, 0x00#8, 0x00#8, 0x00#8, 0x00#8, 0x00#8, 0x00#8, 0x00#8, 0x00#8, 0x00#8, 0x00#8, 0x06#8, 0x00#8, 0x03#8, 0x00#8, 0x00#8, 0x00#8, 0x00#8, 0x00#8, 0x00#8, 0x00#8, 0x00#8, 0x00#8, 0x00#8, 0x00#8, 0x00#8, 0x00#8, 0x00#8] }
     (ptpOk m.bytes = true ∧ s.portUp m.port = true) ∧ ptpType m.bytes = 0 ∧ m.port = s.rd R.TIME_MASTER_PORT 0) :=
  ⟨by decide +kernel,
   by decide +kernel,
   by decide +kernel,
   by decide +kernel,
   ⟨by decide +kernel, by decide +kernel, ⟨by decide +kernel, rfl⟩, by decide +kernel⟩,
   by decide +kernel,
   by decide +kernel⟩

theorem witness_neighbours_and_faults :
    (let s : State := up
     let s : State := { s with rst := { s.rst with pwrGood := false } }
     s.mainUp = false) ∧
    (let s : State := up
     s.mainUp = true) ∧
    (let s : State := inq 0 (stw 1 net)
     let port : Nat := 5
     let h : ClvHdr := { dtag := 9, part := 3, srole := 0, sseq := 0, sender := 1, tray := 0 }
     let b : Heartbeat := { alive := 8, boot := 3, traypos := 0, bootmode := 0, nbrUp := 63, state := 0, arbA := 4, arbB := 4294967295, step := 5 }
     (s.portUp port = true) ∧ (port < 6) ∧ (h.sender < 2 ^ 32) ∧ (b.alive < 2 ^ 32) ∧ (s.isFailed h.sender = false) ∧ ((s.nbr port).watched = false ∨ (b.alive + (2 ^ 32 - s.rd R.CLV_NBR_ALIVE port)) % 2 ^ 32 = 1)) ∧
    (let s : State := nbrs net
     let port : Nat := 3
     let h : ClvHdr := { dtag := 9, part := 3, srole := 0, sseq := 1, sender := 2, tray := 1 }
     let b : Heartbeat := { alive := 9, boot := 4, traypos := 0, bootmode := 0, nbrUp := 63, state := 0, arbA := 4, arbB := 4294967295, step := 5 }
     (s.portUp port = true) ∧ (port < 6) ∧ (h.sender < 2 ^ 32) ∧ (b.alive < 2 ^ 32) ∧ (s.isFailed h.sender = false) ∧ ((s.nbr port).watched = true) ∧ (1 < (b.alive + (2 ^ 32 - s.rd R.CLV_NBR_ALIVE port)) % 2 ^ 32) ∧ ((b.alive + (2 ^ 32 - s.rd R.CLV_NBR_ALIVE port)) % 2 ^ 32 < 2 ^ 31)) ∧
    (let s : State := nbrs net
     let port : Nat := 3
     let h : ClvHdr := { dtag := 9, part := 3, srole := 0, sseq := 1, sender := 2, tray := 1 }
     let b : Heartbeat := { alive := 0, boot := 3, traypos := 0, bootmode := 0, nbrUp := 63, state := 0, arbA := 4, arbB := 4294967295, step := 5 }
     (s.portUp port = true) ∧ (port < 6) ∧ (h.sender < 2 ^ 32) ∧ (b.alive < 2 ^ 32) ∧ (s.isFailed h.sender = false) ∧ ((s.nbr port).watched = true) ∧ ((b.alive + (2 ^ 32 - s.rd R.CLV_NBR_ALIVE port)) % 2 ^ 32 = 0 ∨ 2 ^ 31 ≤ (b.alive + (2 ^ 32 - s.rd R.CLV_NBR_ALIVE port)) % 2 ^ 32)) ∧
    (let s : State := stw 2 net
     let s : State := { s with clover := { s.clover with failed := [(1, 3)] } }
     let port : Nat := 1
     let h : ClvHdr := { dtag := 9, part := 3, srole := 0, sseq := 7, sender := 1, tray := 0 }
     let b : Heartbeat := { alive := 8, boot := 3, traypos := 0, bootmode := 0, nbrUp := 63, state := 0, arbA := 4, arbB := 4294967295, step := 5 }
     let boot : Nat := 3
     (s.portUp port = true) ∧ (port < 6) ∧ (h.sender < 2 ^ 32) ∧ (b.alive < 2 ^ 32) ∧ (List.find? (fun e => e.1 == h.sender) s.clover.failed = some (h.sender, boot)) ∧ (boot = b.boot)) ∧
    (let s : State := stw 2 net
     let s : State := { s with clover := { s.clover with failed := [(1, 3)] } }
     let port : Nat := 1
     let h : ClvHdr := { dtag := 9, part := 3, srole := 0, sseq := 7, sender := 1, tray := 0 }
     let b : Heartbeat := { alive := 7, boot := 4, traypos := 0, bootmode := 0, nbrUp := 63, state := 0, arbA := 4, arbB := 4294967295, step := 5 }
     let boot : Nat := 3
     (s.portUp port = true) ∧ (port < 6) ∧ (h.sender < 2 ^ 32) ∧ (b.alive < 2 ^ 32) ∧ (List.find? (fun e => e.1 == h.sender) s.clover.failed = some (h.sender, boot)) ∧ (boot ≠ b.boot)) ∧
    (let s : State := up
     let port : Nat := 5
     (port < 6) ∧ (¬((s.nbr port).watched = true ∧ s.rd R.CLV_NBR_STATE port = 1 ∧ (s.nbr port).lastNs + ↑(1000 * (s.rd R.CLV_HB_MISS 0 * s.rd R.CLV_HB_US 0)) ≤ s.now))) ∧
    (let s : State := late (nbrs net)
     let port : Nat := 4
     (port < 6) ∧ ((s.nbr port).watched = true ∧ s.rd R.CLV_NBR_STATE port = 1 ∧ (s.nbr port).lastNs + ↑(1000 * (s.rd R.CLV_HB_MISS 0 * s.rd R.CLV_HB_US 0)) ≤ s.now) ∧ ((s.nbr port).arbA ≠ 4294967295) ∧ (s.isFailed (s.nbr port).arbA = false) ∧ ((s.nbr port).arbA ≠ s.me) ∧ ((s.nbr port).arbB ≠ s.me)) ∧
    (let s : State := up
     let s : State := { s with clover := { s.clover with failed := [(0, 3)] } }
     let h : ClvHdr := { dtag := 9, part := 3, srole := 0, sseq := 6, sender := 1, tray := 0 }
     let r : Report := { subject := 0, alive := 7, cause := 0, port := 1 }
     (h.srole = 0) ∧ (s.isFailed h.sender = false) ∧ (s.isFailed r.subject = true)) ∧
    (let s : State := (up.wr R.CLV_STW_ROLE 0 1).modClover fun c => { c with active := some 1 }
     let h : ClvHdr := { dtag := 9, part := 3, srole := 0, sseq := 5, sender := 1, tray := 1 }
     let r : Report := { subject := Config.trayChip 0, alive := 8, cause := 0, port := 3 }
     (h.srole = 0) ∧ (s.isFailed h.sender = false) ∧ (s.isFailed r.subject = false) ∧ (arbiterOf s r.subject = true) ∧ (mapFind s.clover.inquiries r.subject = none) ∧ (stwMay s = true) ∧ (r.cause ≤ 2)) ∧
    (let s : State := up
     let subject : Nat := 0
     mapFind s.clover.inquiries subject = none) ∧
    (let s : State := up
     let s : State := { s with rst := { s.rst with pwrGood := false } }
     let s : State := { s with time := { s.time with pdelay := [(2, { t1 := some 0, seq := 0 })] } }
     let s : State := { s with time := { s.time with ns := 999999998 + 4 % 2, frac := 16777215 - 0 } }
     let s : State := inq 1 s
     let subject : Nat := 0
     let q : Inquiry := { reporters := [], tries := 1, failed := false, cause := 0, sinceNs := 0, probeNs := 0, substitute := false }
     (mapFind s.clover.inquiries subject = some q) ∧ (q.failed = false) ∧ (q.substitute = false) ∧ (stwMay s = true) ∧ (q.probeNs + ↑(1000 * s.rd R.CLV_PROBE_US 0) ≤ s.now) ∧ (q.tries < s.rd R.CLV_PROBE_TRIES 0)) ∧
    (let s : State := inq 7 (stw 1 net)
     let s : State := { s with time := { s.time with sec := 2^48-1, ns := 999999999, frac := 16777215 - 4 } }
     let subject : Nat := 0
     let q : Inquiry := { reporters := [], tries := 3, failed := false, cause := 0, sinceNs := 0, probeNs := 0, substitute := false }
     (mapFind s.clover.inquiries subject = some q) ∧ (q.failed = false) ∧ (q.substitute = false) ∧ (stwMay s = true) ∧ (q.probeNs + ↑(1000 * s.rd R.CLV_PROBE_US 0) ≤ s.now) ∧ (s.rd R.CLV_PROBE_TRIES 0 ≤ q.tries) ∧ (q.reporters = [])) ∧
    (let s : State := up
     let s : State := inq 7 s
     let subject : Nat := 0
     let q : Inquiry := { reporters := [], tries := 3, failed := false, cause := 0, sinceNs := 0, probeNs := 0, substitute := false }
     (mapFind s.clover.inquiries subject = some q) ∧ (q.failed = false) ∧ (q.substitute = false) ∧ (stwMay s = true)) ∧
    (let s : State := up
     let s : State := { s with clover := { s.clover with failed := [(0, 3)] } }
     let subject : Nat := 0
     (mapFind s.clover.inquiries subject = none) ∧ (s.isFailed subject = true)) ∧
    (let s : State := (up.wr R.CLV_NBR_STATE 0 3).wr R.CLV_NBR_CHIP 0 7
     let h : ClvHdr := { dtag := 9, part := 3, srole := 0, sseq := 5, sender := 1, tray := 1 }
     let subject : Nat := 7
     let k : Nat := 0
     (h.srole = 0) ∧ (s.isFailed h.sender = false) ∧ (nbrPort s subject = some k) ∧ (s.rd R.CLV_NBR_STATE k = 3)) ∧
    (let s : State := up.wr R.CLV_NBR_CHIP 0 7
     let h : ClvHdr := { dtag := 9, part := 3, srole := 0, sseq := 5, sender := 1, tray := 1 }
     let subject : Nat := 7
     let k : Nat := 0
     (h.srole = 0) ∧ (s.isFailed h.sender = false) ∧ (nbrPort s subject = some k) ∧ (s.rd R.CLV_NBR_STATE k ≠ 3)) ∧
    (let s : State := up.wr R.CLV_NBR_CHIP 0 7
     let subject : Nat := 7
     let k : Nat := 0
     (nbrPort s subject = some k) ∧ (¬(s.rd R.CLV_NBR_STATE k = 3 ∧ (s.nbr k).resent = false ∧ (s.isFailed (s.nbr k).arbA = true ∨ (s.nbr k).reportNs + ↑(1000 * s.rd R.CLV_ARB_WAIT_US 0) ≤ s.now)))) ∧
    (let s : State := late ((up.wr R.CLV_NBR_STATE 0 3).wr R.CLV_NBR_CHIP 0 7)
     let subject : Nat := 7
     let k : Nat := 0
     (nbrPort s subject = some k) ∧ (s.rd R.CLV_NBR_STATE k = 3 ∧ (s.nbr k).resent = false ∧ (s.isFailed (s.nbr k).arbA = true ∨ (s.nbr k).reportNs + ↑(1000 * s.rd R.CLV_ARB_WAIT_US 0) ≤ s.now))) ∧
    (let s : State := up
     let s : State := { s with clover := { s.clover with failed := [(1, 3)] } }
     let h : ClvHdr := { dtag := 9, part := 3, srole := 2, sseq := 7, sender := 1, tray := 1 }
     s.isFailed h.sender = true) ∧
    (let s : State := up
     let s : State := { s with clover := { s.clover with failed := [(0, 3)] } }
     let h : ClvHdr := { dtag := 9, part := 3, srole := 0, sseq := 32769, sender := 1, tray := 1 }
     let n : Notice := { subject := 0, sboot := 7, cause := 1, reporters := 2, step := 5, dsec := 0, dns := 0, arbiter := 1 }
     (s.isFailed h.sender = false) ∧ (s.isFailed n.subject = true)) ∧
    (let s : State := up
     let h : ClvHdr := { dtag := 9, part := 3, srole := 2, sseq := 0, sender := 1, tray := 0 }
     let n : Notice := { subject := 2, sboot := 7, cause := 2, reporters := 2, step := 5, dsec := 0, dns := 0, arbiter := 1 }
     (s.isFailed h.sender = false) ∧ (s.isFailed n.subject = false) ∧ ((sseqRx s h).2 = false)) ∧
    (let s : State := up
     let h : ClvHdr := { dtag := 9, part := 3, srole := 2, sseq := 1, sender := 1, tray := 1 }
     let n : Notice := { subject := 2, sboot := 8, cause := 2, reporters := 2, step := 5, dsec := 0, dns := 0, arbiter := 1 }
     (s.isFailed h.sender = false) ∧ (s.isFailed n.subject = false) ∧ ((sseqRx s h).2 = true)) :=
  ⟨by decide +kernel,
   by decide +kernel,
   by decide +kernel,
   by decide +kernel,
   by decide +kernel,
   by decide +kernel,
   by decide +kernel,
   by decide +kernel,
   by decide +kernel,
   by decide +kernel,
   ⟨rfl, by decide +kernel, by decide +kernel, by unfold arbiterOf; rw [show posOf (Config.trayChip 0) = some 0 from by simp [posOf, List.range, List.range.loop]]; decide +kernel, by decide +kernel, by decide +kernel, by decide +kernel⟩,
   by decide +kernel,
   by decide +kernel,
   by decide +kernel,
   by decide +kernel,
   by decide +kernel,
   by decide +kernel,
   by decide +kernel,
   by decide +kernel,
   by decide +kernel,
   by decide +kernel,
   by decide +kernel,
   by decide +kernel,
   by decide +kernel⟩

theorem witness_stewards :
    (let s : State := stw 1 net
     let s : State := { s with clover := { s.clover with standby := if 6 % 2 = 0 then none else some 1, swapNext := false, crossings := [(3,4)] } }
     (s.rd R.CLV_STW_ROLE 0 = 1) ∧ (s.clover.standby = none)) ∧
    (let s : State := up
     let s : State := s.wr R.CLV_STW_ROLE 0 1
     let s : State := s.wr R.TIME_ASYM_PS 0 2
     let s : State := (s.wr R.TIME_STATE 0 2)
     let b : Nat := 1
     (s.rd R.CLV_STW_ROLE 0 = 1) ∧ (s.clover.standby = some b)) ∧
    (let s : State := up
     let s : State := s.wr R.CLV_STW_ROLE 0 2
     s.rd R.CLV_STW_ROLE 0 = 2) ∧
    (let s : State := up
     let s : State := s.wr R.CLV_STW_ROLE 0 2
     let complete : Bool := false
     let crc : Bool := true
     (s.rd R.CLV_STW_ROLE 0 = 2) ∧ (complete = false ∨ crc = false)) ∧
    (let s : State := up
     s.rd R.CLV_STW_ROLE 0 ≠ 2) ∧
    (let s : State := stw 2 net
     let a : Nat := 0
     (s.clover.active = some a) ∧ (s.rd R.CLV_STW_ROLE 0 = 2) ∧ (s.rd R.CLV_STW_STATE 0 = 2) ∧ (s.time.ns % 1000000 < 600000)) ∧
    (let s : State := stw 2 net
     let s : State := { s with time := { s.time with ns := 999999998 + 1 % 2, frac := 16777215 - 0 } }
     let a : Nat := 0
     (s.clover.active = some a) ∧ (s.rd R.CLV_STW_ROLE 0 = 2) ∧ (s.rd R.CLV_STW_STATE 0 = 2) ∧ (600000 ≤ s.time.ns % 1000000) ∧ (s.clover.copyValid = false)) ∧
    (let s : State := up
     let s : State := s.wr R.CLV_STW_ROLE 0 1
     let s : State := s.wr R.TIME_ASYM_PS 0 2
     let s : State := (s.wr R.TIME_STATE 0 2)
     let who : Who := { role := Sys2Proof.Role.vendor, path := Sys2Proof.Path.t1s, func := 0 }
     let v : Nat := 1
     Allowed s who R.CLV_STW_CMD 0 v ∧ (s.rd R.CLV_STW_ROLE 0 = 1) ∧ (s.clover.standby.isSome = true)) ∧
    (let s : State := up
     let who : Who := { role := Sys2Proof.Role.vendor, path := Sys2Proof.Path.t1s, func := 2 }
     let v : Nat := 1
     Allowed s who R.CLV_STW_CMD 0 v ∧ (s.rd R.CLV_STW_ROLE 0 ≠ 1 ∨ s.clover.standby = none)) :=
  ⟨by decide +kernel,
   by decide +kernel,
   by decide +kernel,
   by decide +kernel,
   by decide +kernel,
   by decide +kernel,
   by decide +kernel,
   by unfold Allowed; decide +kernel,
   by unfold Allowed; decide +kernel⟩

end B08

namespace B09

def net : State := (withMem loaded)
def lowS (s : State) : State := { s with rst := { s.rst with porstLow := true, inReset := true, bootFrom := 2 } }
def tripS (s : State) : State := { s with rst := { s.rst with thermTrip := true, inReset := true, bootFrom := 2 } }
def bring (k : Nat) : State := (up.wr R.RST_STAGE 0 k).setRst { up.rst with stage2Done := false, pwrEn := decide (2 < k), pwrGood := decide (2 < k), mode := .normal }
def pwr (b : Bool) (s : State) : State := { s with rst := { s.rst with pwrEn := b, pwrGood := b } }
def recB (k : Nat) : List Byte := List.replicate 32 (BitVec.ofNat 8 k)
def ldgS (k : Nat) (s : State) : State := { s with ledger := { s.ledger with queue := (List.range (k % 3)).map recB, buffer := (List.range (k % 20)).map fun j => (j, recB j) } }
def ldgBig (k n : Nat) (s : State) : State := { s with ledger := { s.ledger with queue := (List.range (if k % 2 = 0 then 256 else 2)).map recB, buffer := (List.range n).map fun j => (j, recB j) } }
def sect (k : Nat) (s : State) : State := { s with ledger := { s.ledger with sectors := [(0, (List.range (k % 30 + 1)).map recB)] } }
def tl (ch k : Nat) (s : State) : State := (((s.wr (R.TLY_CHUNK ch) 0 8).wr (R.TLY_LEN ch) 0 (if k % 5 = 4 then 13 else 32)).wr (R.TLY_STRIDE ch) 0 (8 * (k % 3))).wr (R.TLY_START ch) 0 (if k % 2 = 0 then 0x100 else vS) |>.wr (R.TLY_CTL ch) 0 ((k % 4) + (k / 4 % 3) * 4 + (k / 12 % 2) * 64 + (k / 24 % 8) * 256 + (if k % 2 = 0 then 3 else 0x7F) * 2 ^ 23)
def run (ch k : Nat) (s : State) : State := s.modChan ch fun c => { c with running := k % 2 = 0, armed := k / 2 % 2 = 0, stream := k / 4 % 2 = 1, chunk := k / 3 % 5, value := k, started := [0, 2], stopReq := k % 7 = 0 }

theorem witness_chip_resets :
    (let s : State := bring 3
     let ns : Nat := 6
     (s.rst.standby = true) ∧ (s.rst.porstLow = false) ∧ (ns < 8000)) ∧
    (let s : State := bring 3
     let ns : Nat := 16384
     (s.rst.standby = true) ∧ (s.rst.porstLow = false) ∧ (10000 ≤ ns)) ∧
    (let s : State := lowS up
     (s.rst.porstLow = true) ∧ (s.rd R.RST_HELD 0 ≠ 0 ∨ s.uptimeMs ≤ s.rst.lowSince + 2000)) ∧
    (let s : State := { lowS up with time := { up.time with uptime := 3000 * 500000 } }
     (s.rst.porstLow = true) ∧ (s.rd R.RST_HELD 0 = 0) ∧ (s.rst.lowSince + 2000 < s.uptimeMs)) ∧
    (let s : State := tripS (lowS up)
     let adc : Nat := 0
     (s.rst.porstLow = true) ∧ (adc < 1024) ∧ (s.rst.thermTrip = true)) ∧
    (let s : State := lowS up
     let adc : Nat := 0
     (s.rst.porstLow = true) ∧ (adc < 1024) ∧ (s.rst.thermTrip = false) ∧ (s.rst.bootFrom = 2)) ∧
    (let s : State := bring 3
     s.rst.porstLow = false) ∧
    (let s : State := lowS up
     (s.rst.standby = true) ∧ (s.rst.inReset = true)) ∧
    (let s : State := bring 3
     (s.rst.standby = true) ∧ (s.rst.inReset = false)) ∧
    (let s : State := bring 3
     (s.rst.standby = true) ∧ (s.rst.thermTrip = false)) ∧
    (let s : State := bring 3
     s.rst.thermTrip = false) ∧
    (let s : State := tripS net
     (s.rst.thermTrip = true) ∧ (s.rst.porstLow = false)) ∧
    (let s : State := up
     let who : Who := { role := Sys2Proof.Role.vendor, path := Sys2Proof.Path.vc0, func := 0 }
     Allowed s who R.RST_CMD 0 1) ∧
    (let s : State := up.wr R.RST_STAGE 0 9
     let who : Who := { role := .vendor, path := .pcie, func := 0 }
     Allowed s who R.RST_CMD 0 2 ∧ (s.rd R.RST_STAGE 0 = 9)) ∧
    (let s : State := up
     let who : Who := { role := Sys2Proof.Role.vendor, path := Sys2Proof.Path.vc0, func := 0 }
     Allowed s who R.RST_CMD 0 2 ∧ (s.rd R.RST_STAGE 0 ≠ 9)) ∧
    (let s : State := rel
     let who : Who := { role := .operator, path := .pcie, func := 0 }
     let u : Nat := uBlock 0
     let v : Nat := 1
     Allowed s who R.RST_DOM_CMD u v ∧ (domBusy s u = true)) ∧
    (let s : State := bring 6
     let who : Who := { role := Sys2Proof.Role.operator, path := Sys2Proof.Path.pcie, func := 0 }
     let u : Nat := 4096
     let v : Nat := 1
     Allowed s who R.RST_DOM_CMD u v ∧ (domBusy s u = false) ∧ (s.rd R.RST_DOM_STATE u = 0)) ∧
    (let s : State := bring 6
     let s : State := (s.wr R.RST_DOM_STATE (4096 * 4) 1).wr R.RST_DOM_STATE 1 1
     let u : Nat := 1
     (s.rd R.RST_DOM_STATE u = 1) ∧ (u < 65536) ∧ (domHeld s u = none)) ∧
    (let u : Nat := uBlock 0
     let s : State := (up.wr R.RST_DOM_STATE u 1).setRst { up.rst with domains := [(u, { resets := List.replicate 16 5 })] }
     (s.rd R.RST_DOM_STATE u = 1) ∧ (u < 65536) ∧ (domHeld s u ≠ none)) ∧
    (let s : State := bring 3
     let u : Nat := 0
     let op : Nat := 2
     timed s u op = false) ∧
    (let s : State := rel.modTime fun t => { t with sec := 2 ^ 40 }
     let u : Nat := uBlock 0
     let op : Nat := 0
     (timed s u op = true) ∧ (u < 57344)) ∧
    (let s : State := up
     s.rst.porstLow = false) :=
  ⟨by decide +kernel,
   by decide +kernel,
   by decide +kernel,
   by decide +kernel,
   by decide +kernel,
   by decide +kernel,
   by decide +kernel,
   by decide +kernel,
   by decide +kernel,
   by decide +kernel,
   by decide +kernel,
   by decide +kernel,
   by unfold Allowed; decide +kernel,
   by unfold Allowed; decide +kernel,
   by unfold Allowed; decide +kernel,
   by unfold Allowed; decide +kernel,
   by unfold Allowed; decide +kernel,
   by decide +kernel,
   by decide +kernel,
   by decide +kernel,
   by decide +kernel,
   by decide +kernel⟩

theorem witness_power_and_bring_up :
    (let adc : Nat := 5
     adc < 1024) ∧
    (let s : State := bring 3
     (s.rst.pwrEn = true) ∧ (s.rst.pwrGood = true)) ∧
    (let s : State := bring 2
     s.rst.pwrEn = false ∨ s.rst.pwrGood = false) ∧
    (let s : State := { (pwr true up).setRst { up.rst with pwrEn := true, pwrGood := false } with time := { up.time with uptime := 200 * 500000 } }
     (s.rst.pwrEn = true) ∧ (s.rst.pwrGood = false) ∧ (s.rst.pwrEnMs + 100 ≤ s.uptimeMs)) ∧
    (let s : State := bring 3
     s.rst.pwrEn = false ∨ s.rst.pwrGood = true ∨ s.uptimeMs < s.rst.pwrEnMs + 100) ∧
    (let s : State := bring 3
     ∀ p < 128, s.pstate p = psEmpty) ∧
    (let s : State := net
     ∃ p < 128, s.pstate p ≠ psEmpty) ∧
    (let s : State := tripS (lowS up)
     ¬(s.rst.standby = true ∧ s.rst.inReset = false ∧ s.rst.stage2Done = false ∧ s.rd R.RST_STAGE 0 < 8 ∧ (s.rd R.RST_STAGE 0 < 3 ∨ s.rst.pwrEn = true ∧ s.rst.pwrGood = true))) ∧
    (let s : State := bring 1
     let e : StageEnd := { durationMs := 0, badLists := [], ok := true, strapAdc := 600, unit := 1, slotA := { crcOk := true, sigOk := true, version := 2 }, slotB := { crcOk := true, sigOk := true, version := 0 }, badSectors := [], stackFail := [], stewardHeard := false }
     (s.rst.standby = true ∧ s.rst.inReset = false ∧ s.rst.stage2Done = false ∧ s.rd R.RST_STAGE 0 < 8 ∧ (s.rd R.RST_STAGE 0 < 3 ∨ s.rst.pwrEn = true ∧ s.rst.pwrGood = true)) ∧ (s.rd R.RST_STAGE 0 = 1) ∧ (e.ok = true) ∧ (e.strapAdc < 1024)) ∧
    (let s : State := bring 1
     let e : StageEnd := { durationMs := 0, badLists := [], ok := false, strapAdc := 905, unit := 0, slotA := { crcOk := true, sigOk := true, version := 1 }, slotB := { crcOk := false, sigOk := true, version := 2 }, badSectors := [], stackFail := [], stewardHeard := true }
     (s.rst.standby = true ∧ s.rst.inReset = false ∧ s.rst.stage2Done = false ∧ s.rd R.RST_STAGE 0 < 8 ∧ (s.rd R.RST_STAGE 0 < 3 ∨ s.rst.pwrEn = true ∧ s.rst.pwrGood = true)) ∧ (s.rd R.RST_STAGE 0 = 1) ∧ (e.ok = false)) ∧
    (let s : State := bring 2
     let e : StageEnd := { durationMs := 5, badLists := [], ok := true, strapAdc := 65, unit := 0, slotA := { crcOk := false, sigOk := true, version := 3 }, slotB := { crcOk := false, sigOk := true, version := 1 }, badSectors := [], stackFail := [], stewardHeard := false }
     (s.rst.standby = true ∧ s.rst.inReset = false ∧ s.rst.stage2Done = false ∧ s.rd R.RST_STAGE 0 < 8 ∧ (s.rd R.RST_STAGE 0 < 3 ∨ s.rst.pwrEn = true ∧ s.rst.pwrGood = true)) ∧ (s.rd R.RST_STAGE 0 = 2) ∧ (bootFail e.slotA ≠ 0) ∧ (bootFail e.slotB ≠ 0)) ∧
    (let s : State := pwr true (bring 2)
     let e : StageEnd := { durationMs := 1, badLists := [], ok := true, strapAdc := 651, unit := 1, slotA := { crcOk := true, sigOk := true, version := Config.rollback }, slotB := { crcOk := true, sigOk := true, version := 2 }, badSectors := [], stackFail := [], stewardHeard := false }
     (s.rst.standby = true ∧ s.rst.inReset = false ∧ s.rst.stage2Done = false ∧ s.rd R.RST_STAGE 0 < 8 ∧ (s.rd R.RST_STAGE 0 < 3 ∨ s.rst.pwrEn = true ∧ s.rst.pwrGood = true)) ∧ (s.rd R.RST_STAGE 0 = 2) ∧ (bootFail e.slotA = 0 ∨ bootFail e.slotB = 0) ∧ (e.ok = true) ∧ (s.rst.mode ≠ BootMode.recovery) ∧ (s.rst.pwrEn = true) ∧ (s.rst.pwrGood = true) ∧ (bitOf (s.rd R.RST_CAUSE 0) 6 = false)) ∧
    (let s : State := bring 3
     (s.rst.standby = true ∧ s.rst.inReset = false ∧ s.rst.stage2Done = false ∧ s.rd R.RST_STAGE 0 < 8 ∧ (s.rd R.RST_STAGE 0 < 3 ∨ s.rst.pwrEn = true ∧ s.rst.pwrGood = true)) ∧ (s.rd R.RST_STAGE 0 = 3)) ∧
    (let s : State := bring 4
     (s.rst.standby = true ∧ s.rst.inReset = false ∧ s.rst.stage2Done = false ∧ s.rd R.RST_STAGE 0 < 8 ∧ (s.rd R.RST_STAGE 0 < 3 ∨ s.rst.pwrEn = true ∧ s.rst.pwrGood = true)) ∧ (s.rd R.RST_STAGE 0 = 4)) ∧
    (let s : State := bring 5
     (s.rst.standby = true ∧ s.rst.inReset = false ∧ s.rst.stage2Done = false ∧ s.rd R.RST_STAGE 0 < 8 ∧ (s.rd R.RST_STAGE 0 < 3 ∨ s.rst.pwrEn = true ∧ s.rst.pwrGood = true)) ∧ (s.rd R.RST_STAGE 0 = 5)) ∧
    (let s : State := bring 6
     (s.rst.standby = true ∧ s.rst.inReset = false ∧ s.rst.stage2Done = false ∧ s.rd R.RST_STAGE 0 < 8 ∧ (s.rd R.RST_STAGE 0 < 3 ∨ s.rst.pwrEn = true ∧ s.rst.pwrGood = true)) ∧ (s.rd R.RST_STAGE 0 = 6)) ∧
    (let s : State := bring 7
     (s.rst.standby = true ∧ s.rst.inReset = false ∧ s.rst.stage2Done = false ∧ s.rd R.RST_STAGE 0 < 8 ∧ (s.rd R.RST_STAGE 0 < 3 ∨ s.rst.pwrEn = true ∧ s.rst.pwrGood = true)) ∧ (s.rd R.RST_STAGE 0 = 7)) ∧
    (let s : State := bring 3
     let s : State := { s with power := { s.power with clamps := [0, 3], clearing := if 1 % 2 = 0 then [0] else [], holdUnplanned := true } }
     let s : State := s.wr R.RST_IMG_OFFSET 0 257
     let s : State := s.wr R.RST_IMG_STATE 0 3
     let who : Who := { role := Sys2Proof.Role.operator, path := Sys2Proof.Path.vc0, func := 0 }
     Allowed s who R.RST_IMG_CMD 0 1 ∧ (imgBusy s = true)) ∧
    (let s : State := up
     let who : Who := { role := Sys2Proof.Role.vendor, path := Sys2Proof.Path.t1s, func := 2 }
     Allowed s who R.RST_IMG_CMD 0 1 ∧ (imgBusy s = false)) ∧
    (let s : State := bring 3
     let s : State := { s with power := { s.power with clamps := [0, 3], clearing := if 1 % 2 = 0 then [0] else [], holdUnplanned := true } }
     let s : State := s.wr R.RST_IMG_OFFSET 0 257
     let s : State := s.wr R.RST_IMG_STATE 0 3
     let who : Who := { role := Sys2Proof.Role.operator, path := Sys2Proof.Path.vc0, func := 0 }
     Allowed s who R.RST_IMG_CMD 0 2 ∧ (imgBusy s = true)) ∧
    (let s : State := up
     let who : Who := { role := Sys2Proof.Role.vendor, path := Sys2Proof.Path.t1s, func := 2 }
     Allowed s who R.RST_IMG_CMD 0 2 ∧ (imgBusy s = false)) ∧
    (let s : State := up
     let s : State := { s with rst := { s.rst with imgA := { s.rst.imgA with erased := true } } }
     let who : Who := { role := Sys2Proof.Role.operator, path := Sys2Proof.Path.t1s, func := 0 }
     let bytes : List Byte := []
     Allowed s who R.RST_IMG_DATA 0 0 ∧ (bytes.length ≤ 1016) ∧ (imgBusy s = false) ∧ ((imgSlot s).erased = true) ∧ (s.rd R.RST_IMG_OFFSET 0 + bytes.length ≤ 8388608)) ∧
    (let s : State := ldgBig 0 256 up
     let who : Who := { role := Sys2Proof.Role.vendor, path := Sys2Proof.Path.vc0, func := 2 }
     let bytes : List Byte := []
     Allowed s who R.RST_IMG_DATA 0 0 ∧ (bytes.length ≤ 1016) ∧ (imgBusy s = true ∨ (imgSlot s).erased = false ∨ 8388608 < s.rd R.RST_IMG_OFFSET 0 + bytes.length)) ∧
    (let s : State := bring 1
     let s : State := tl 0 7 s
     let s : State := { s with rst := { s.rst with standby := false } }
     let s : State := s.wr R.RST_IMG_STATE 0 1
     let s : State := s.wr R.PWR_CAP_W 0 1
     s.rd R.RST_IMG_STATE 0 = 1) ∧
    (let s : State := bring 3
     s.rd R.RST_IMG_STATE 0 ≠ 1) ∧
    (let s : State := bring 3
     let s : State := { s with power := { s.power with clamps := [0, 3], clearing := if 1 % 2 = 0 then [0] else [], holdUnplanned := true } }
     let s : State := s.wr R.RST_IMG_OFFSET 0 257
     let s : State := s.wr R.RST_IMG_STATE 0 3
     s.rd R.RST_IMG_STATE 0 = 3) ∧
    (let s : State := bring 3
     s.rd R.RST_IMG_STATE 0 ≠ 3) :=
  ⟨by decide +kernel,
   by decide +kernel,
   by decide +kernel,
   by decide +kernel,
   by decide +kernel,
   by decide +kernel,
   by decide +kernel,
   by decide +kernel,
   by decide +kernel,
   by decide +kernel,
   by decide +kernel,
   ⟨by decide +kernel, by decide +kernel, Or.inl (by simp [bootFail]), rfl, by decide +kernel, by decide +kernel, by decide +kernel, by decide +kernel⟩,
   by decide +kernel,
   by decide +kernel,
   by decide +kernel,
   by decide +kernel,
   by decide +kernel,
   by unfold Allowed; decide +kernel,
   by unfold Allowed; decide +kernel,
   by unfold Allowed; decide +kernel,
   by unfold Allowed; decide +kernel,
   by unfold Allowed; decide +kernel,
   by unfold Allowed; decide +kernel,
   by decide +kernel,
   by decide +kernel,
   by decide +kernel,
   by decide +kernel⟩

theorem witness_power_cap :
    (let s : State := up
     let cause : Nat := 1
     s.power.clamps.contains cause = false) ∧
    (let s : State := tripS (lowS up)
     let s : State := { s with power := { s.power with clamps := [1, 3], clearing := if 1 % 2 = 0 then [1] else [], holdUnplanned := true } }
     let s : State := s.wr R.RST_STAGE 0 2
     let cause : Nat := 3
     s.power.clamps.contains cause = true) ∧
    (let win : Nat := 2
     win ≤ 200) ∧
    (let win : Nat := 337
     200 < win) ∧
    (let w : Nat := 1
     w < 65536) ∧
    (let s : State := up
     let who : Who := { role := Sys2Proof.Role.operator, path := Sys2Proof.Path.t1s, func := 2 }
     let v : Nat := 777
     Allowed s who R.PWR_CAP_W 0 v) ∧
    (let s : State := bring 2
     let w : Nat := 4096
     (s.rd R.PWR_CAP_W 0 < w) ∧ (w < 65536) ∧ (s.power.holdUnplanned = false)) ∧
    (let s : State := run 1 4 (tl 1 2 net)
     let s : State := { s with power := { s.power with clamps := [0, 3], clearing := if 0 % 2 = 0 then [0] else [], holdUnplanned := true } }
     let s : State := { s with rst := { s.rst with stage2Done := false } }
     let s : State := (s.wr R.RST_DOM_STATE (4096 * 2) 0).wr R.RST_DOM_STATE 0 1
     let s : State := { s with time := { s.time with sec := 1 } }
     (s.power.holdUnplanned = true) ∧ (s.power.overNs + ↑(1000000 * s.rd R.PWR_OVER_MS 0) ≤ s.now)) ∧
    (let s : State := up
     s.power.holdUnplanned = false ∨ s.now < s.power.overNs + ↑(1000000 * s.rd R.PWR_OVER_MS 0)) :=
  ⟨by decide +kernel,
   by decide +kernel,
   by decide +kernel,
   by decide +kernel,
   by decide +kernel,
   by unfold Allowed; decide +kernel,
   by decide +kernel,
   by decide +kernel,
   by decide +kernel⟩

theorem witness_ledger_stores :
    (let s : State := bring 1
     let e : Event := { code := 8210, source := 0, data := [0x01#8, 0x02#8], layer := none }
     (e.code < 61441 ∨ 61444 < e.code) ∧ ((mapGet { } s.ledger.buckets e.code).count = 0) ∧ (1000000000 ≤ bucketNow s e.code) ∧ (s.ledger.queue.length < 256)) ∧
    (let s : State := ldgBig 0 256 up
     let e : Event := { code := 8210, source := 7, data := [0x01#8, 0x02#8], layer := none }
     (e.code < 61441 ∨ 61444 < e.code) ∧ ((mapGet { } s.ledger.buckets e.code).count = 0) ∧ (1000000000 ≤ bucketNow s e.code) ∧ (256 ≤ s.ledger.queue.length)) ∧
    (let s : State := bring 5
     let s : State := { s with ledger := { s.ledger with buckets := [(0x5016, { tokens := 6 * 100000000, lastNs := 0 })] } }
     let e : Event := { code := 20502, source := 1, data := [0x01#8, 0x02#8], layer := none }
     (e.code < 61441 ∨ 61444 < e.code) ∧ ((mapGet { } s.ledger.buckets e.code).count = 0) ∧ (bucketNow s e.code < 1000000000)) ∧
    (let s : State := bring 1
     (s.ledger.lostPend = 0) ∧ (s.ledger.bufDropPend = 0) ∧ (s.ledger.queue = [])) ∧
    (let s : State := bring 3
     let s : State := ldgS 1 s
     let r : List Byte := [0x00#8, 0x00#8, 0x00#8, 0x00#8, 0x00#8, 0x00#8, 0x00#8, 0x00#8, 0x00#8, 0x00#8, 0x00#8, 0x00#8, 0x00#8, 0x00#8, 0x00#8, 0x00#8, 0x00#8, 0x00#8, 0x00#8, 0x00#8, 0x00#8, 0x00#8, 0x00#8, 0x00#8, 0x00#8, 0x00#8, 0x00#8, 0x00#8, 0x00#8, 0x00#8, 0x00#8, 0x00#8]
     let rest : List (List Byte) := []
     (s.ledger.lostPend = 0) ∧ (s.ledger.bufDropPend = 0) ∧ (s.ledger.queue = r :: rest)) ∧
    (let s : State := bring 3
     let s : State := ldgS 1 s
     let r : List Byte := [0x00#8, 0x00#8, 0x00#8, 0x00#8, 0x00#8, 0x00#8, 0x00#8, 0x00#8, 0x00#8, 0x00#8, 0x00#8, 0x00#8, 0x00#8, 0x00#8, 0x00#8, 0x00#8, 0x00#8, 0x00#8, 0x00#8, 0x00#8, 0x00#8, 0x00#8, 0x00#8, 0x00#8, 0x00#8, 0x00#8, 0x00#8, 0x00#8, 0x00#8, 0x00#8, 0x00#8, 0x00#8]
     let rest : List (List Byte) := []
     (s.ledger.lostPend = 0) ∧ (s.ledger.bufDropPend = 0) ∧ (s.ledger.queue = r :: rest) ∧ (s.ledger.buffer.length < 256)) ∧
    (let s : State := tl 0 1 net
     let s : State := ldgBig 1 (200 + 24582 % 100) s
     let s : State := { s with rst := { s.rst with stage2Done := true } }
     let r : List Byte := [0x00#8, 0x00#8, 0x00#8, 0x00#8, 0x00#8, 0x00#8, 0x00#8, 0x00#8, 0x00#8, 0x00#8, 0x00#8, 0x00#8, 0x00#8, 0x00#8, 0x00#8, 0x00#8, 0x00#8, 0x00#8, 0x00#8, 0x00#8, 0x00#8, 0x00#8, 0x00#8, 0x00#8, 0x00#8, 0x00#8, 0x00#8, 0x00#8, 0x00#8, 0x00#8, 0x00#8, 0x00#8]
     let rest : List (List Byte) := [[0x01#8, 0x01#8, 0x01#8, 0x01#8, 0x01#8, 0x01#8, 0x01#8, 0x01#8, 0x01#8, 0x01#8, 0x01#8, 0x01#8, 0x01#8, 0x01#8, 0x01#8, 0x01#8, 0x01#8, 0x01#8, 0x01#8, 0x01#8, 0x01#8, 0x01#8, 0x01#8, 0x01#8, 0x01#8, 0x01#8, 0x01#8, 0x01#8, 0x01#8, 0x01#8, 0x01#8, 0x01#8]]
     (s.ledger.lostPend = 0) ∧ (s.ledger.bufDropPend = 0) ∧ (s.ledger.queue = r :: rest) ∧ (256 ≤ s.ledger.buffer.length)) ∧
    (let s : State := bring 1
     (s.ledger.buffer.length < 8) ∧ (s.ledger.suspended = false)) ∧
    (let s : State := bring 1
     s.ledger.buffer = [] ∨ s.now < ldgOldest s + ↑(1000000 * s.rd R.LDG_FLUSH_MS 0)) ∧
    (let s : State := sect 7 (ldgS 10 net)
     let sec : Nat := 0
     (s.ledger.clearing = []) ∧ (s.ledger.erasing = none) ∧ (ldgTarget s = some sec) ∧ (ldgSector s sec ≠ []) ∧ (8 ≤ s.ledger.buffer.length) ∧ (s.ledger.lostPend = 0) ∧ (s.ledger.bufDropPend = 0)) ∧
    (let s : State := sect 7 (ldgS 10 net)
     let sec : Nat := 0
     (s.ledger.clearing = []) ∧ (s.ledger.erasing = none) ∧ (ldgTarget s = some sec) ∧ (ldgSector s sec ≠ []) ∧ (8 ≤ s.ledger.buffer.length)) ∧
    (let s : State := sect 3 (ldgS 2 net)
     let s : State := s.wr R.PWR_NOW_W 0 2
     let s : State := { s with time := { s.time with sec := 2 } }
     let s : State := tl 0 486 s
     let sec : Nat := 0
     (s.ledger.clearing = []) ∧ (s.ledger.erasing = none) ∧ (ldgTarget s = some sec) ∧ (ldgSector s sec ≠ []) ∧ (s.ledger.buffer ≠ []) ∧ (ldgOldest s + ↑(1000000 * s.rd R.LDG_FLUSH_MS 0) ≤ s.now) ∧ (s.ledger.buffer.length ≤ 8 - max 1 (ldgSector s sec).length % 8) ∧ (s.ledger.lostPend = 0) ∧ (s.ledger.bufDropPend = 0)) ∧
    (let s : State := bring 1
     let sec : Nat := 0
     s.ledger.erasing ≠ some sec) ∧
    (let s : State := bring 4
     let s : State := { s with ledger := { s.ledger with erasing := some 1, clearing := if 1 % 2 = 0 then [] else [1] } }
     let sec : Nat := 1
     (s.ledger.erasing = some sec) ∧ (List.filter (fun x => x != sec) s.ledger.clearing = [])) ∧
    (let s : State := bring 6
     let s : State := { s with ledger := { s.ledger with erasing := some 1, clearing := if 3 % 2 = 0 then [] else [1] } }
     let s : State := s.wr (R.TLY_EXPECT 0) 0 3
     let s : State := { s with rst := { s.rst with stage2Done := false } }
     let s : State := { s with ledger := { s.ledger with buckets := [(0x5016, { tokens := 26 * 100000000, lastNs := 0 })] } }
     let who : Who := { role := Sys2Proof.Role.operator, path := Sys2Proof.Path.vc0, func := 0 }
     let v : Nat := 1
     Allowed s who R.LDG_CLEAR 0 v ∧ (s.ledger.clearing ≠ [])) ∧
    (let s : State := up
     let who : Who := { role := Sys2Proof.Role.vendor, path := Sys2Proof.Path.vc0, func := 2 }
     let v : Nat := 1
     Allowed s who R.LDG_CLEAR 0 v ∧ (s.ledger.clearing = [])) ∧
    (let s : State := bring 3
     let who : Who := { role := Sys2Proof.Role.operator, path := Sys2Proof.Path.vc0, func := 0 }
     let k : Nat := 9
     let v : Nat := 0
     Allowed s who R.LDG_OVR k v ∧ (v = 0)) ∧
    (let s : State := up
     let who : Who := { role := Sys2Proof.Role.vendor, path := Sys2Proof.Path.vc0, func := 2 }
     let k : Nat := 7
     let v : Nat := 1
     Allowed s who R.LDG_OVR k v ∧ (v ≠ 0) ∧ (bits v 8 8 = 0 ∨ bits v 0 8 = 0)) ∧
    (let s : State := up.wr R.LDG_OVR 2 (0x5016 * 65536 + 0x0101)
     let who : Who := { role := .operator, path := .pcie, func := 0 }
     let k : Nat := 3
     let v : Nat := 0x5016 * 65536 + 0x0203
     Allowed s who R.LDG_OVR k v ∧ (v ≠ 0) ∧ (bits v 8 8 ≠ 0) ∧ (bits v 0 8 ≠ 0) ∧ (∃ j < 64, j ≠ k ∧ s.rd R.LDG_OVR j ≠ 0 ∧ bits (s.rd R.LDG_OVR j) 16 16 = bits v 16 16)) ∧
    (let s : State := up
     let who : Who := { role := Sys2Proof.Role.vendor, path := Sys2Proof.Path.vc0, func := 2 }
     let k : Nat := 1
     let v : Nat := 325
     Allowed s who R.LDG_OVR k v ∧ (v ≠ 0) ∧ (bits v 8 8 ≠ 0) ∧ (bits v 0 8 ≠ 0) ∧ (∀ j < 64, j ≠ k → s.rd R.LDG_OVR j = 0 ∨ bits (s.rd R.LDG_OVR j) 16 16 ≠ bits v 16 16)) :=
  ⟨by decide +kernel,
   by decide +kernel,
   by decide +kernel,
   by decide +kernel,
   by decide +kernel,
   by decide +kernel,
   by decide +kernel,
   by decide +kernel,
   by decide +kernel,
   by decide +kernel,
   by decide +kernel,
   by decide +kernel,
   by decide +kernel,
   by decide +kernel,
   by unfold Allowed; decide +kernel,
   by unfold Allowed; decide +kernel,
   by unfold Allowed; decide +kernel,
   by unfold Allowed; decide +kernel,
   by unfold Allowed; decide +kernel,
   by unfold Allowed; decide +kernel⟩

theorem witness_tally_scans :
    (let s : State := up.modChan 1 fun c => { c with running := true }
     let who : Who := { role := .vendor, path := .vc0, func := 0 }
     let ch : Nat := 1
     (ch < 16) ∧ Allowed s who (R.TLY_CMD ch) 0 1 ∧ (tlyReserved s ch = true ∨ ¬((s.chan ch).running = false ∧ (s.chan ch).armed = false ∧ (s.chan ch).stream = false))) ∧
    (let s : State := bring 6
     let s : State := { s with rst := { s.rst with standby := true } }
     let s : State := tl 0 1 s
     let s : State := pwr (false) s
     let who : Who := { role := Sys2Proof.Role.operator, path := Sys2Proof.Path.pcie, func := 0 }
     let ch : Nat := 0
     (ch < 16) ∧ Allowed s who (R.TLY_CMD ch) 0 1 ∧ (tlyReserved s ch = false) ∧ ((s.chan ch).running = false ∧ (s.chan ch).armed = false ∧ (s.chan ch).stream = false) ∧ (tlyCtl s ch 2 2 = 0) ∧ (scanValid s ch = true)) ∧
    (let s : State := sect 3 (ldgS 2 net)
     let s : State := tl 0 44 s
     let s : State := { s with power := { s.power with clamps := [0, 3], clearing := if 1 % 2 = 0 then [0] else [], holdUnplanned := true } }
     let who : Who := { role := Sys2Proof.Role.operator, path := Sys2Proof.Path.t1s, func := 0 }
     let ch : Nat := 0
     (ch < 16) ∧ Allowed s who (R.TLY_CMD ch) 0 1 ∧ (tlyReserved s ch = false) ∧ ((s.chan ch).running = false ∧ (s.chan ch).armed = false ∧ (s.chan ch).stream = false) ∧ (tlyCtl s ch 2 2 = 2)) ∧
    (let s : State := up
     let who : Who := { role := Sys2Proof.Role.vendor, path := Sys2Proof.Path.t1s, func := 0 }
     let ch : Nat := 1
     (ch < 16) ∧ Allowed s who (R.TLY_CMD ch) 0 2 ∧ (tlyReserved s ch = false)) ∧
    (let s : State := up
     let who : Who := { role := Sys2Proof.Role.vendor, path := Sys2Proof.Path.t1s, func := 0 }
     let ch : Nat := 1
     (ch < 16) ∧ Allowed s who (R.TLY_CMD ch) 0 3 ∧ (tlyReserved s ch = false)) ∧
    (let s : State := lowS up
     let ch : Nat := 0
     (ch < 16) ∧ ((s.chan ch).running = false)) ∧
    (let s : State := run 0 0 (tl 0 1 net)
     let ch : Nat := 0
     (ch < 16) ∧ ((s.chan ch).running = true) ∧ ((s.chan ch).chunk * tlyChunk s ch < tlyLen s ch) ∧ ((s.chan ch).stopReq = true)) ∧
    (let s : State := run 1 4 (tl 1 2 net)
     let ch : Nat := 1
     let rs : List (Nat × Nat) := [(272, 8)]
     (ch < 16) ∧ ((s.chan ch).running = true) ∧ ((s.chan ch).chunk * tlyChunk s ch < tlyLen s ch) ∧ ((s.chan ch).stopReq = false) ∧ (chunkNear s ch = true) ∧ (reqRange s (chunkReq s ch) = some rs) ∧ (downRange s rs = false) ∧ (∀ x ∈ rs, holdOf s x.1 x.2 = none)) ∧
    (let ch : Nat := 1
     let s : State := ((up.wr (R.TLY_CTL ch) 0 64).wr (R.TLY_EXPECT ch) 0 7 |>.wr (R.TLY_LEN ch) 0 8 |>.wr (R.TLY_CHUNK ch) 0 8).modChan ch fun c => { c with running := true, chunk := 9, value := 8 }
     (ch < 16) ∧ ((s.chan ch).running = true) ∧ (tlyLen s ch ≤ (s.chan ch).chunk * tlyChunk s ch) ∧ ((s.chan ch).poisoned = false) ∧ (tlyCtl s ch 6 1 = 1) ∧ (s.rd (R.TLY_EXPECT ch) 0 ≠ (s.chan ch).value)) ∧
    (let s : State := bring 3
     let s : State := run 1 2 s
     let ch : Nat := 1
     (ch < 16) ∧ ((s.chan ch).running = true) ∧ (tlyLen s ch ≤ (s.chan ch).chunk * tlyChunk s ch) ∧ ((s.chan ch).poisoned = false) ∧ (tlyCtl s ch 6 1 = 0 ∨ s.rd (R.TLY_EXPECT ch) 0 = (s.chan ch).value)) ∧
    (let s : State := lowS up
     let ch : Nat := 0
     (ch < 16) ∧ ((s.chan ch).armed = false ∨ s.now < (s.chan ch).dueNs)) ∧
    (let s : State := bring 4
     let s : State := { s with rst := { s.rst with imgA := { s.rst.imgA with erased := true } } }
     let s : State := { s with rst := { s.rst with domains := [(0, { resets := List.range 16 })] } }
     let s : State := run 1 1 s
     let s : State := { s with rst := { s.rst with romRecovery := true } }
     let ch : Nat := 1
     (ch < 16) ∧ ((s.chan ch).armed = true) ∧ ((s.chan ch).dueNs ≤ s.now) ∧ ((s.chan ch).running = false)) ∧
    (let s : State := bring 2
     let s : State := run 1 804 s
     let s : State := s.wr R.LDG_OVR 5 (5 * 65536 + 257)
     let ch : Nat := 1
     (ch < 16) ∧ ((s.chan ch).armed = true) ∧ ((s.chan ch).dueNs ≤ s.now) ∧ ((s.chan ch).running = true)) ∧
    (let s : State := up
     let who : Who := { role := Sys2Proof.Role.vendor, path := Sys2Proof.Path.t1s, func := 0 }
     let ch : Nat := 1
     let lane : Nat := 0
     let v : Nat := 6
     (ch < 16) ∧ (lane < 8) ∧ (v < 2 ^ 32) ∧ (Allowed s who { R.TLY_LANE ch lane with acc := .wo } 0 v) ∧ ((s.chan ch).stream = false ∨ tlyCtl s ch 8 3 < lane)) ∧
    (let ch : Nat := 1
     let lane : Nat := 0
     let v : Nat := 9
     let who : Who := { role := .vendor, path := .pcie, func := 0 }
     let s : State := (up.wr (R.TLY_CTL ch) 0 8).modChan ch fun c => { c with stream := true }
     (ch < 16) ∧ (lane < 8) ∧ (v < 2 ^ 32) ∧ (Allowed s who { R.TLY_LANE ch lane with acc := .wo } 0 v) ∧ ((s.chan ch).stream = true) ∧ (lane ≤ tlyCtl s ch 8 3) ∧ lane ∉ (s.chan ch).started) ∧
    (let s : State := run 1 4 (tl 1 2 net)
     let who : Who := { role := Sys2Proof.Role.vendor, path := Sys2Proof.Path.t1s, func := 2 }
     let ch : Nat := 1
     let lane : Nat := 0
     let v : Nat := 1
     (ch < 16) ∧ (lane < 8) ∧ (v < 2 ^ 32) ∧ (Allowed s who { R.TLY_LANE ch lane with acc := .wo } 0 v) ∧ ((s.chan ch).stream = true) ∧ (lane ≤ tlyCtl s ch 8 3) ∧ (lane ∈ (s.chan ch).started) ∧ ((v + (2 ^ 32 - bits (s.rd (R.TLY_LANE ch lane) 0) 0 32)) % 2 ^ 32 = 1)) ∧
    (let s : State := bring 4
     let s : State := { s with rst := { s.rst with romRecovery := false } }
     let s : State := { s with ledger := { s.ledger with buckets := [(0x5016, { tokens := 5 * 100000000, lastNs := 0 })] } }
     let s : State := s.wr R.PWR_CAP_W 0 49184
     let s : State := run 0 1076 s
     let who : Who := { role := Sys2Proof.Role.operator, path := Sys2Proof.Path.pcie, func := 0 }
     let ch : Nat := 0
     let lane : Nat := 0
     let v : Nat := 5
     (ch < 16) ∧ (lane < 8) ∧ (v < 2 ^ 32) ∧ (Allowed s who { R.TLY_LANE ch lane with acc := .wo } 0 v) ∧ ((s.chan ch).stream = true) ∧ (lane ≤ tlyCtl s ch 8 3) ∧ (lane ∈ (s.chan ch).started) ∧ (1 < (v + (2 ^ 32 - bits (s.rd (R.TLY_LANE ch lane) 0) 0 32)) % 2 ^ 32) ∧ ((v + (2 ^ 32 - bits (s.rd (R.TLY_LANE ch lane) 0) 0 32)) % 2 ^ 32 < 2 ^ 31)) ∧
    (let s : State := bring 4
     let s : State := { s with rst := { s.rst with romRecovery := false } }
     let s : State := { s with ledger := { s.ledger with buckets := [(0x5016, { tokens := 5 * 100000000, lastNs := 0 })] } }
     let s : State := s.wr R.PWR_CAP_W 0 49184
     let s : State := run 0 1076 s
     let who : Who := { role := Sys2Proof.Role.operator, path := Sys2Proof.Path.pcie, func := 0 }
     let ch : Nat := 0
     let lane : Nat := 0
     let v : Nat := 0
     (ch < 16) ∧ (lane < 8) ∧ (v < 2 ^ 32) ∧ (Allowed s who { R.TLY_LANE ch lane with acc := .wo } 0 v) ∧ ((s.chan ch).stream = true) ∧ (lane ≤ tlyCtl s ch 8 3) ∧ (lane ∈ (s.chan ch).started) ∧ ((v + (2 ^ 32 - bits (s.rd (R.TLY_LANE ch lane) 0) 0 32)) % 2 ^ 32 = 0 ∨ 2 ^ 31 ≤ (v + (2 ^ 32 - bits (s.rd (R.TLY_LANE ch lane) 0) 0 32)) % 2 ^ 32)) ∧
    (let s : State := up
     let who : Who := { role := .vendor, path := .vc0, func := 0 }
     let ch : Nat := 1
     Allowed s who (R.TLY_CMD ch) 0 1 ∧ (tlyReserved s ch = false) ∧ ((s.chan ch).running = false) ∧ (tlyCtl s ch 2 2 = 0) ∧ (scanValid s ch = false)) :=
  ⟨by unfold Allowed; decide +kernel,
   by unfold Allowed; decide +kernel,
   by unfold Allowed; decide +kernel,
   by unfold Allowed; decide +kernel,
   by unfold Allowed; decide +kernel,
   by decide +kernel,
   by decide +kernel,
   by decide +kernel,
   by decide +kernel,
   by decide +kernel,
   by decide +kernel,
   by decide +kernel,
   by decide +kernel,
   by unfold Allowed; decide +kernel,
   by unfold Allowed; decide +kernel,
   by unfold Allowed; decide +kernel,
   by unfold Allowed; decide +kernel,
   by unfold Allowed; decide +kernel,
   by unfold Allowed; decide +kernel⟩

end B09

/-! ### The whole machine and the rules stated whole -/

theorem witness_step_runs_front_command : up.pending = [] := by decide +kernel

theorem witness_commands_touch_only_their_places :
    (∃ t, exec .syncLoss up = .next t) ∧ plMem ∉ touches .syncLoss ∧ plDict ∉ touches .syncLoss ∧
      odPlace (odKey R.SEAL_STEP 3) ∉ touches .syncLoss :=
  ⟨⟨_, rfl⟩, by decide +kernel, by decide +kernel, by decide +kernel⟩

theorem witness_step_keeps_form : Wf up ∧ ∃ t, step { up with pending := [.syncLoss] } = .next t :=
  ⟨by constructor <;> decide +kernel, _, rfl⟩

theorem witness_words_on_a_link :
    (let p : Packet := { offset := 2 ^ 47 - 1, dst := 2 ^ 17 - 1, src := 2 ^ 17 - 1, vc := 4, kind := 9, len := 15, dlen := 3680, epoch := 1, detour := true, hops := 255, birth := 65535, eseq := 65535, incarn := 65535, syn := true, dtag := 65535, spart := 127, tgen := 15, func := 1023, rid := 65535, sched := 4095, poison := true, loc := true, resv := 0, data := [1] }
     p.offset < 2 ^ 47 ∧ p.dst < 2 ^ 17 ∧ p.src < 2 ^ 17 ∧ p.vc < 8 ∧ p.kind < 16 ∧ p.len < 16 ∧ p.dlen < 2 ^ 12 ∧ p.epoch < 2 ∧
      p.hops < 256 ∧ p.birth < 65536 ∧ p.eseq < 65536 ∧ p.incarn < 65536 ∧ p.dtag < 65536 ∧ p.spart < 128 ∧ p.tgen < 16 ∧
      p.func < 1024 ∧ p.rid < 65536 ∧ p.sched < 4096 ∧ p.resv < 2 ^ 26) ∧
    (let g : FlitTag := { vc := 4, first := true, last := false, index := 15, resv := 0 }
     g.vc < 8 ∧ g.index < 16 ∧ g.resv < 2 ^ 55) ∧
    (let f : Flit := ⟨1, 4095, 4095, true, 6, 255, 0, .data (List.replicate 240 7), 2 ^ 64 - 1⟩
     f.type < 16 ∧ f.seq < 4096 ∧ f.ack < 4096 ∧ f.crvc < 8 ∧ f.crcnt < 256 ∧ f.resv < 2 ^ 24 ∧
      f.payload = .data (List.replicate 240 7) ∧ (List.replicate 240 (7 : Byte)).length = 240 ∧ f.crc < 2 ^ 64) := by
  refine ⟨?_, ?_, ?_⟩ <;> decide +kernel

theorem witness_offset_steps :
    (let who : Who := { role := .vendor, path := .vc0, func := 0 }
     Allowed up who R.TIME_STEP_NS 0 (ofSigned 64 5) ∧ up.stepPend + 5 < 2 ^ 63 ∧ up.running = false) ∧
    (let who : Who := { role := .vendor, path := .vc0, func := 0 }
     let s : State := up.wr R.TIME_STEP_PEND 0 (2 ^ 63 - 1)
     Allowed s who R.TIME_STEP_NS 0 (ofSigned 64 1) ∧ 2 ^ 63 ≤ s.stepPend + 1) ∧
    (let s : State := up.wr R.TIME_STEP_PEND 0 5
     s.stepPend ≠ 0 ∧ s.running = false) ∧
    (let s : State := running.wr R.TIME_STEP_PEND 0 5
     s.stepPend ≠ 0 ∧ s.running = true) := by
  unfold Allowed
  refine ⟨?_, ?_, ?_, ?_⟩ <;> decide +kernel

/-- Rank 1's pages are kept here, and their stage holds eight. -/
def fullStage : State :=
  let page (k : Nat) : DeltaPage := { srcChip := 1, srcPart := 9, gen := 0, step := k, page := k, filling := false, data := { bytes := [], bad := [] } }
  { ((loaded.wr R.MEM_SLICE_PART 2 3).wr R.MEM_SLICE_USE 2 3).wr R.MEM_SLICE_HOST 2 (1 + 2 ^ 17 * 9) with
    buddies := [{ srcChip := 1, srcPart := 9, stage := (List.range 8).map page }] }

theorem fullStage_local : localOf fullStage 1 = some 3 := by decide +kernel

theorem witness_stage_overflow :
    (let s : State := fullStage
     let d : DeltaPage := { srcChip := 1, srcPart := 9, gen := 0, step := 9, page := 9, filling := false, data := { bytes := [], bad := [] } }
     let a := (s.area d.srcChip d.srcPart).getD { srcChip := d.srcChip, srcPart := d.srcPart }
     d.filling = false ∧ hostSlices s d.srcChip d.srcPart ≠ 0 ∧ (∀ x, localOf s d.srcChip = some x → (s.part x).runGen = d.gen) ∧
      stageSize s a ≤ a.stage.length) ∧
    (let s : State := running.wr R.SEAL_BUDDY_STATE 3 2
     s.rd R.SEAL_BUDDY_STATE 3 ≠ bNone ∧ s.rd R.SEAL_BUDDY_STATE 3 ≠ bFilling) :=
  ⟨⟨rfl, by decide +kernel, fun x h => by cases fullStage_local.symm.trans h; decide +kernel, by decide +kernel⟩, by decide +kernel⟩

theorem witness_steward_sequence :
    (let h : ClvHdr := { dtag := 9, part := 3, srole := 1, sseq := 5, sender := 2, tray := 1 }
     let n : Notice := { subject := 7, sboot := 1, cause := 1, reporters := 1, step := 0, dsec := 0, dns := 0, arbiter := 2 }
     let at_ (high : Nat) (seen : List Nat) : State := up.modClover fun c => { c with sseqs := [(1, { high := high, seen := seen })] }
     let d (high : Nat) : Nat := (h.sseq + (65536 - high % 65536)) % 65536
     (h.srole = 1 ∨ h.srole = 2) ∧ (1 ≤ d 0 ∧ d 0 ≤ 32767) ∧ (65473 ≤ d 10 ∧ h.sseq ∉ [10]) ∧ d 5 = 0 ∧
      (sseqRx (at_ 0 []) h).2 = true ∧ (sseqRx (at_ 10 [10]) h).2 = true ∧
      ((at_ 5 [5]).isFailed h.sender = false ∧ (at_ 5 [5]).isFailed n.subject = false ∧ (sseqRx (at_ 5 [5]) h).2 = false)) := by
  decide +kernel

/-! ### Management -/

/-- A key, and a device with the keys of Observer, Operator and tray. -/
def key (n : Nat) : List Byte := (List.range 32).map fun k => BitVec.ofNat 8 (k + n)
def keyed (s : State) : State := ((s.wrB R.MGT_KEY_OBS 0 (key 1)).wrB R.MGT_KEY_OPR 0 (key 2)).wrB R.MGT_KEY_TRAY 0 (key 3)
/-- A device with the fabric key, and one with sessions. -/
def sealed_ : State := up.wrB R.MGT_KEY_FAB0 0 (key 4)
def withSes (l : List Session) : State := { keyed up with mgmt := { up.mgmt with sessions := l } }
/-- A frame of a type to a station, and one with its tag. -/
def frm (dst type : Nat) (payload : List Byte) : Frame :=
  { srcMac := 5, dstMac := dst, ver := 1, type := type, flags := 0, role := 1, srole := 0, session := 0, sseq := 3, dstPos := 0xFE,
    seq := 3, tray := 0, len := payload.length, payload := payload, tag := [] }
def signed (k : List Byte) (f : Frame) : Frame := { f with tag := frameTag k f }
/-- A request that reads one entry, in either byte order, and its operation. -/
def readOp (be : Bool) : List Byte :=
  let b (n v : Nat) : List Byte := if be then beBytes n v else leBytes n v
  b 1 1 ++ b 1 3 ++ b 2 0x2101 ++ b 2 0 ++ b 2 0
def theOp : Op := { op := 1, sub := 3, index := 0x2101, inst := 0, value := [] }
/-- A session of the sender of `frm`. -/
def sess (l : Nat) (crc running : Option Nat) : Session :=
  { peer := 5, number := 0, role := 1, l := l, cached := [1, 2], reqCrc := crc, running := running, key := key 9 }

theorem takes_own {s : State} {f : Frame} (hs : s.fccUp = true) (hd : f.dstMac = ownMac) : takes s f = true := by
  simp [takes, hs, hd]
theorem no_steward {s : State} (f : Frame) (h : isSteward s = false) : forSteward s f = false := by simp [forSteward, h]
theorem find_own {s : State} {f : Frame} {r : Option Session} (h : isSteward s = false)
    (hf : findSession s f.srcMac f.session false = r) : findSession s f.srcMac f.session (forSteward s f) = r := by
  rw [no_steward f h]; exact hf
theorem tag_signed (k : List Byte) (f : Frame) : (signed k f).tag = frameTag k (signed k f) := rfl
theorem fccUp_mgmt (s : State) (m : Mgmt) : ({ s with mgmt := m } : State).fccUp = s.fccUp := rfl
theorem isSteward_mgmt (s : State) (m : Mgmt) : isSteward { s with mgmt := m } = isSteward s := rfl
theorem withSes_up (l : List Session) : (withSes l).fccUp = true ∧ isSteward (withSes l) = false :=
  ⟨(fccUp_mgmt _ _).trans (by decide +kernel), (isSteward_mgmt _ _).trans (by decide +kernel)⟩
theorem tag_long {k : List Byte} {f : Frame} (h : f.tag.length = 17) : f.tag ≠ frameTag k f := by
  intro e
  have := congrArg List.length e
  rw [h, frameTag, List.length_take] at this
  omega
theorem tray_ok {s : State} {f : Frame} {k : List Byte} (hk : trayKey s = some k) (hb : bitOf f.flags 3 = false)
    (ht : f.tag = frameTag k f) : trayTagOk s f = true := by
  unfold trayTagOk; rw [hk]; simp only [hb, ← ht, beq_self_eq_true]; rfl
theorem arbiterOf_none {s : State} (x : Nat) (h : s.rd R.CLV_STW_ROLE 0 = 0) : arbiterOf s x = false := by
  unfold arbiterOf; rw [h]; cases posOf x <;> rfl
theorem arbiterOf_zero {s : State} (h : s.rd R.CLV_STW_ROLE 0 = 1) (ha : s.clover.active = some 1) :
    arbiterOf s (Config.trayChip 0) = true := by
  unfold arbiterOf
  rw [show posOf (Config.trayChip 0) = some 0 from by simp [posOf, List.range, List.range.loop]]
  simp only [h, ha]; decide

theorem witness_odap_sessions :
    (let f := frm 7 1 []
     takes State.reset f = false ∧ Instr.odapOpen f ∈ [Instr.odapOpen f, .odapClose f, .request f]) ∧
    (let f := frm ownMac 2 []
     takes (keyed up) f = true ∧ (frameOk f 1 = false ∨ f.payload.length ≠ 16) ∧ frameOk f 3 = false ∧ frameOk f 0x10 = false) ∧
    (let f := frm ownMac 1 (List.replicate 16 7)
     takes up f = true ∧ frameOk f 1 = true ∧ f.payload.length = 16 ∧ roleKey up f.role = none) ∧
    (let f := { frm ownMac 1 (List.replicate 16 7) with tag := List.replicate 17 0 }
     takes (keyed up) f = true ∧ frameOk f 1 = true ∧ f.payload.length = 16 ∧ roleKey (keyed up) f.role = some (key 2) ∧
      f.tag ≠ frameTag (key 2) f) ∧
    (let f := signed (key 2) (frm ownMac 1 (List.replicate 16 7))
     takes (keyed up) f = true ∧ frameOk f 1 = true ∧ f.payload.length = 16 ∧ roleKey (keyed up) f.role = some (key 2) ∧
      f.tag = frameTag (key 2) f ∧ (keyed up).serves (roleOf f.role) = true ∧
      (∀ x ∈ (keyed up).mgmt.sessions, x.peer ≠ f.srcMac) ∧ freePeers (keyed up) ≠ []) ∧
    (let f := signed (key 2) (frm ownMac 1 (List.replicate 16 7))
     let s := withSes [{ sess 2 none none with peer := 8 }, { sess 2 none none with peer := 9, peerNo := 1 }]
     takes s f = true ∧ frameOk f 1 = true ∧ f.payload.length = 16 ∧ roleKey s f.role = some (key 2) ∧
      f.tag = frameTag (key 2) f ∧ s.serves (roleOf f.role) = true ∧
      (∀ x ∈ s.mgmt.sessions, x.peer ≠ f.srcMac) ∧ freePeers s = []) ∧
    (let f := frm ownMac 3 []
     takes (keyed up) f = true ∧ frameOk f 3 = true ∧ findSession (keyed up) f.srcMac f.session (forSteward (keyed up) f) = none) ∧
    (let x := sess 2 none none
     let f := signed x.key (frm ownMac 3 [])
     let s := withSes [x]
     takes s f = true ∧ frameOk f 3 = true ∧ findSession s f.srcMac f.session (forSteward s f) = some x ∧ f.tag = frameTag x.key f) ∧
    (let f := frm ownMac 0x10 (readOp true)
     takes (keyed up) f = true ∧ frameOk f 0x10 = true ∧ forSteward (keyed up) f = false ∧
      findSession (keyed up) f.srcMac f.session false = none) :=
  ⟨⟨by decide +kernel, by simp⟩, ⟨takes_own (by decide +kernel) rfl, by decide +kernel, by decide +kernel, by decide +kernel⟩,
   ⟨takes_own (by decide +kernel) rfl, by decide +kernel, by decide +kernel, by decide +kernel⟩,
   ⟨takes_own (by decide +kernel) rfl, by decide +kernel, by decide +kernel, by decide +kernel, tag_long (by decide +kernel)⟩,
   ⟨takes_own (by decide +kernel) rfl, by decide +kernel, by decide +kernel, by decide +kernel, tag_signed _ _, by decide +kernel,
    by decide +kernel, by decide +kernel⟩,
   ⟨takes_own (by decide +kernel) rfl, by decide +kernel, by decide +kernel, by decide +kernel, tag_signed _ _, by decide +kernel,
    by decide +kernel, by decide +kernel⟩,
   ⟨takes_own (by decide +kernel) rfl, by decide +kernel, find_own (by decide +kernel) (by decide +kernel)⟩,
   ⟨takes_own (by decide +kernel) rfl, by decide +kernel, find_own (by decide +kernel) (by decide +kernel), tag_signed _ _⟩,
   ⟨takes_own (by decide +kernel) rfl, by decide +kernel, no_steward _ (by decide +kernel), by decide +kernel⟩⟩

/-- What the clauses on a request of a known session ask together. -/
def Known (s : State) (f : Frame) (x : Session) : Prop :=
  takes s f = true ∧ frameOk f 0x10 = true ∧ forSteward s f = false ∧ findSession s f.srcMac f.session false = some x ∧
    f.tag = frameTag x.key f ∧ ∀ y ∈ s.mgmt.sessions, y.peer = x.peer → y.number = x.number → y = x

theorem known (x : Session) (f : Frame) (hd : f.dstMac = ownMac) (hf : frameOk f 0x10 = true) (ht : f.tag = frameTag x.key f)
    (hs : (findSession (withSes [x]) f.srcMac f.session false) = some x) : Known (withSes [x]) f x := by
  refine ⟨takes_own (withSes_up _).1 hd, hf, no_steward _ (withSes_up _).2, hs, ht, ?_⟩
  intro y hy _ _
  exact List.mem_singleton.mp hy

theorem witness_odap_requests :
    (let x := sess 3 (some (crc32c (readOp true))) none
     let f := signed x.key (frm ownMac 0x10 (readOp true))
     Known (withSes [x]) f x ∧ f.seq = x.l ∧ x.reqCrc = some (crc32c f.payload)) ∧
    (let x := sess 2 none (some (crc32c (readOp true)))
     let f := signed x.key (frm ownMac 0x10 (readOp true))
     Known (withSes [x]) f x ∧ f.seq = (x.l + 1) % 2 ^ 32 ∧ x.running = some (crc32c f.payload)) ∧
    (let x := sess 7 none none
     let f := signed x.key (frm ownMac 0x10 (readOp true))
     Known (withSes [x]) f x ∧ x.running = none ∧ f.seq ≠ x.l ∧ f.seq ≠ (x.l + 1) % 2 ^ 32) ∧
    (let x := sess 2 none none
     let f := signed x.key { frm ownMac 0x10 (readOp true) with dstPos := 1 }
     Known (withSes [x]) f x ∧ x.running = none ∧ f.seq = (x.l + 1) % 2 ^ 32 ∧ x.ending = false ∧ f.dstPos ≠ 0xFE) ∧
    (let x := sess 2 none none
     let f := signed x.key (frm ownMac 0x10 (readOp true))
     Known (withSes [x]) f x ∧ x.running = none ∧ f.seq = (x.l + 1) % 2 ^ 32 ∧ x.ending = false ∧ f.dstPos = 0xFE ∧
      bitOf f.flags 1 = false ∧ opsOf true 64 f.payload = some [theOp] ∧ theOp.op = 1) ∧
    (let x := sess 2 none none
     let s := withSes [x]
     let slot := 0
     (s.mgmt.sessions.find? fun y => y.peerNo * 8 + y.number == slot) = some x ∧
      ¬ (x.running = none ∧ x.lastNs + (1000000000 * s.rd R.MGT_SESS_IDLE_S 0 : Nat) ≤ s.now)) ∧
    (let x := sess 2 none none
     let s := { withSes [x] with time := { up.time with sec := 2 ^ 40 } }
     let slot := 0
     (s.mgmt.sessions.find? fun y => y.peerNo * 8 + y.number == slot) = some x ∧
      x.running = none ∧ x.lastNs + (1000000000 * s.rd R.MGT_SESS_IDLE_S 0 : Nat) ≤ s.now) :=
  ⟨⟨known _ _ rfl (by decide +kernel) (tag_signed _ _) (by decide +kernel), rfl, rfl⟩,
   ⟨known _ _ rfl (by decide +kernel) (tag_signed _ _) (by decide +kernel), rfl, rfl⟩,
   ⟨known _ _ rfl (by decide +kernel) (tag_signed _ _) (by decide +kernel), rfl, by decide +kernel, by decide +kernel⟩,
   ⟨known _ _ rfl (by decide +kernel) (tag_signed _ _) (by decide +kernel), rfl, rfl, rfl, by decide +kernel⟩,
   ⟨known _ _ rfl (by decide +kernel) (tag_signed _ _) (by decide +kernel), rfl, rfl, rfl, rfl, by decide +kernel, by decide +kernel, rfl⟩,
   by decide +kernel, by decide +kernel⟩

/-- The header a relayed frame is taken under. -/
def hdrOf (f : Frame) : ClvHdr := { dtag := 0, part := 0xFF, srole := f.srole, sseq := f.sseq, sender := 0, tray := f.tray }
def stwd : State := keyed (up.wr R.CLV_STW_ROLE 0 1)
def relay (at_ : Int) : Forward := { key := 3, target := 4, frame := frm 7 0x12 [], asker := .session 5 0 3, sentNs := at_ }

theorem witness_management_frames :
    (let f := frm 7 0x12 []
     State.reset.fccUp = false ∧ Instr.relayReq f ∈ [Instr.relayReq f, .relayResp f, .status f]) ∧
    (let f := frm ownMac 0x12 []
     up.fccUp = true ∧ f.dstMac = ownMac ∧ frameOk f 0x12 = true ∧ trayTagOk up f = false) ∧
    (let f := signed (key 3) { frm ownMac 0x12 (readOp true) with srole := 1 }
     let s := { keyed up with clover := { up.clover with sseqs := [(0, { high := 3, seen := [3] })] } }
     s.fccUp = true ∧ f.dstMac = ownMac ∧ frameOk f 0x12 = true ∧ trayTagOk s f = true ∧ (sseqRx s (hdrOf f)).2 = false) ∧
    (let f := signed (key 3) { frm ownMac 0x12 (readOp true) with srole := 1 }
     let s := keyed up
     s.fccUp = true ∧ f.dstMac = ownMac ∧ frameOk f 0x12 = true ∧ trayTagOk s f = true ∧ (sseqRx s (hdrOf f)).2 = true ∧
      isSteward s = false ∧ bitOf f.flags 1 = false ∧ opsOf true 64 f.payload = some [theOp] ∧ theOp.op = 1) ∧
    (let f := frm groupMac 0x13 []
     let s := up.wr R.CLV_STW_ROLE 0 1
     s.fccUp = true ∧ forSteward s f = true ∧ frameOk f 0x13 = true ∧ trayTagOk s f = false) ∧
    (let f := signed (key 3) (frm groupMac 0x13 [])
     stwd.fccUp = true ∧ forSteward stwd f = true ∧ frameOk f 0x13 = true ∧ trayTagOk stwd f = true) ∧
    (let f := frm 7 0x20 []
     (up.setRst { up.rst with standby := false }).rst.standby = false ∨ f.dstMac ≠ ownMac) ∧
    (let f := signed (key 3) (frm ownMac 0x20 (List.replicate 8 7))
     let s := up.setRst { up.rst with trayKey := some (key 3) }
     s.rst.standby = true ∧ f.dstMac = ownMac ∧ frameOk f 0x20 = true ∧ f.payload.length = 8 ∧ s.rst.trayKey = some (key 3) ∧
      bitOf f.flags 3 = false ∧ f.tag = frameTag (key 3) f) ∧
    (let f := { frm ownMac 0x20 (List.replicate 8 7) with tag := List.replicate 17 0 }
     let s := up.setRst { up.rst with trayKey := some (key 3) }
     s.rst.standby = true ∧ f.dstMac = ownMac ∧ frameOk f 0x20 = true ∧ f.payload.length = 8 ∧ s.rst.trayKey = some (key 3) ∧
      f.tag ≠ frameTag (key 3) f) ∧
    (let f := frm allMac 0x30 (List.replicate 14 0)
     up.fccUp = true ∧ f.dstMac = allMac ∧ frameOk f 0x30 = true ∧ f.payload.length = 14 ∧ bitOf f.flags 3 = false ∧
      trayTagOk up f = false) ∧
    (let f := { frm allMac 0x30 (List.replicate 14 0) with flags := 8 }
     up.fccUp = true ∧ f.dstMac = allMac ∧ frameOk f 0x30 = true ∧ f.payload.length = 14 ∧ bitOf f.flags 3 = true ∧
      arbiterOf up (Config.trayChip (beVal ((f.payload.drop 1).take 1))) = false) ∧
    (let f := { frm allMac 0x30 (List.replicate 14 0) with flags := 8 }
     let s := (up.wr R.CLV_STW_ROLE 0 1).modClover fun c => { c with active := some 1 }
     let subject := Config.trayChip (beVal ((f.payload.drop 1).take 1))
     s.fccUp = true ∧ f.dstMac = allMac ∧ frameOk f 0x30 = true ∧ f.payload.length = 14 ∧ bitOf f.flags 3 = true ∧
      f.tray = s.rd R.CLV_TRAY_ID 0 ∧ arbiterOf s subject = true ∧ s.isFailed subject = false ∧
      mapFind s.clover.inquiries subject = none ∧ stwMay s = true) ∧
    (let s := { up with mgmt := { up.mgmt with relays := [relay 0] } }
     (s.mgmt.relays.find? fun x => x.key == 3) = some (relay 0) ∧ s.now < (relay 0).sentNs + (1000 * s.rd R.MGT_RELAY_US 0 : Nat)) ∧
    (let s := { up with mgmt := { up.mgmt with relays := [relay 0] }, time := { up.time with sec := 900 } }
     (s.mgmt.relays.find? fun x => x.key == 3) = some (relay 0) ∧ (relay 0).sentNs + (1000 * s.rd R.MGT_RELAY_US 0 : Nat) ≤ s.now) ∧
    (up.mgmt.relays.find? fun x => x.key == 3) = none ∧
    ¬ (up.rst.standby = true ∧ up.rst.porstLow = true ∧ up.rd R.RST_HELD 0 = 1) ∧
    (let s := (up.setRst { up.rst with porstLow := true }).wr R.RST_HELD 0 1
     s.rst.standby = true ∧ s.rst.porstLow = true ∧ s.rd R.RST_HELD 0 = 1) :=
  ⟨⟨by decide +kernel, by simp⟩, ⟨by decide +kernel, rfl, by decide +kernel, by decide +kernel⟩,
   ⟨by decide +kernel, rfl, by decide +kernel, tray_ok (k := key 3) (by decide +kernel) (by decide +kernel) (tag_signed _ _), by decide +kernel⟩,
   ⟨by decide +kernel, rfl, by decide +kernel, tray_ok (k := key 3) (by decide +kernel) (by decide +kernel) (tag_signed _ _), by decide +kernel,
    by decide +kernel, by decide +kernel, by decide +kernel, rfl⟩,
   ⟨by decide +kernel, by decide +kernel, by decide +kernel, by decide +kernel⟩,
   ⟨by decide +kernel, by decide +kernel, by decide +kernel, tray_ok (k := key 3) (by decide +kernel) (by decide +kernel) (tag_signed _ _)⟩,
   Or.inl (by decide +kernel), ⟨by decide +kernel, rfl, by decide +kernel, by decide +kernel, rfl, by decide +kernel, tag_signed _ _⟩,
   ⟨by decide +kernel, rfl, by decide +kernel, by decide +kernel, rfl, tag_long (by decide +kernel)⟩,
   ⟨by decide +kernel, rfl, by decide +kernel, by decide +kernel, by decide +kernel, by decide +kernel⟩,
   ⟨by decide +kernel, rfl, by decide +kernel, by decide +kernel, by decide +kernel, arbiterOf_none _ (by decide +kernel)⟩,
   ⟨by decide +kernel, rfl, by decide +kernel, by decide +kernel, by decide +kernel, by decide +kernel,
    arbiterOf_zero (by decide +kernel) (by decide +kernel), by decide +kernel, by decide +kernel, by decide +kernel⟩,
   by decide +kernel, by decide +kernel, by decide +kernel, by decide +kernel, by decide +kernel⟩

def withBox (k : Nat) (b : Mbox) (s : State) : State := { s with host := { s.host with mboxes := [(k, b)] } }
def hostUp (s : State) : State := s.wr R.HOST_NUM_VF 0 3

theorem witness_management_mailboxes :
    (let s := withBox 0 { state := 1 } up
     s.present 0 = true ∧ s.unitUp uEndpoint = true ∧ (if 0 = 0 then 3 < 16 else 3 = 0) ∧ (s.mbox (mboxKey 0 0)).state = 1) ∧
    (let s := withBox 0 { len := 3 } up
     (s.mbox (mboxKey 0 0)).state ≠ 1 ∧ ¬ (8 ≤ (s.mbox (mboxKey 0 0)).len ∧ (s.mbox (mboxKey 0 0)).len ≤ 1024)) ∧
    (let b : Mbox := { len := 8, req := readOp false }
     let s := withBox 0 b up
     (s.mbox (mboxKey 0 0)).state ≠ 1 ∧ (8 ≤ b.len ∧ b.len ≤ 1024) ∧ (b.target = 0xFFFFFFFF ∨ b.target = s.me) ∧
      opsOf false 64 (sliceZ b.req 0 b.len) = some [theOp] ∧ theOp.op = 1) ∧
    (let b : Mbox := { target := 4, len := 8, req := readOp false }
     let s := withBox (mboxKey 2 0) b (hostUp up)
     s.present 2 = true ∧ s.unitUp uEndpoint = true ∧ (s.mbox (mboxKey 2 0)) = b ∧ b.state ≠ 1 ∧ (8 ≤ b.len ∧ b.len ≤ 1024) ∧
      b.target ≠ 0xFFFFFFFF ∧ b.target ≠ s.me ∧ opsOf false 64 (sliceZ b.req 0 b.len) = some (theOp :: [])) ∧
    (let b : Mbox := { target := 4, len := 8, req := readOp false }
     let s := withBox 0 b sealed_
     s.present 0 = true ∧ s.unitUp uEndpoint = true ∧ (s.mbox (mboxKey 0 0)) = b ∧ b.target ≠ s.me ∧
      opsOf false 64 (sliceZ b.req 0 b.len) = some (theOp :: []) ∧ openMode s = false ∧ s.mgmt.forwards.length < 16) ∧
    (let h : ClvHdr := { dtag := 0, part := 0xFF, srole := 0, sseq := 0, sender := 4, tray := 0 }
     up.fccUp = true ∧ up.isFailed h.sender = false ∧ h.srole = 0 ∧ openMode up = true ∧ fwdFind up 3 = none) ∧
    (let h : ClvHdr := { dtag := 0, part := 0xFF, srole := 0, sseq := 0, sender := 4, tray := 0 }
     sealed_.fccUp = true ∧ sealed_.isFailed h.sender = false ∧ openMode sealed_ = false ∧
      ((frm 7 0x10 []).role = 0 ∨ (frm 7 0x10 []).role = 1) ∧
      ({ frm 7 0x10 [] with role := 2 } : Frame).role ≠ 0 ∧ ({ frm 7 0x10 [] with role := 2 } : Frame).role ≠ 1) ∧
    (let w : Forward := { relay 0 with asker := .mbox 0 }
     let s := { up with mgmt := { up.mgmt with forwards := [w] } }
     fwdFind s 3 = some w ∧ w.asker = .mbox 0 ∧ w.target = 4 ∧ w.target ≠ 5 ∧
      s.now < w.sentNs + (1000 * s.rd R.MGT_VC0_US 0 : Nat)) ∧
    (let w : Forward := { relay 0 with asker := .mbox 0 }
     let s := { up with mgmt := { up.mgmt with forwards := [w] }, time := { up.time with sec := 900 } }
     fwdFind s 3 = some w ∧ w.asker = .mbox 0 ∧ w.sentNs + (1000 * s.rd R.MGT_VC0_US 0 : Nat) ≤ s.now) := by
  refine ⟨?_, ?_, ?_, ?_, ?_, ?_, ?_, ?_, ?_⟩ <;> decide +kernel

theorem witness_keys_and_entries :
    (let who : Who := { role := .vendor, path := .vc0, func := 0 }
     3 ∈ [3, 4, 5] ∧ (key 5).length ≤ 32 ∧ Allowed up who (keyReg 3) 0 (leVal (key 5)) ∧ who.path = .vc0) ∧
    (let who : Who := { role := .vendor, path := .t1s, func := 0 }
     (key 5).length ≤ 32 ∧ Allowed up who (keyReg 5) 0 (leVal (key 5)) ∧ who.path ≠ .vc0 ∧ ((key 5).any fun b => b != 0) = true) ∧
    (let who : Who := { role := .operator, path := .t1s, func := 0 }
     Allowed up who R.MGT_KEY_FAB_SEL 0 1 ∧ (keySet up (4 + 1) = true ∨ openMode up = true)) ∧
    (let who : Who := { role := .operator, path := .t1s, func := 0 }
     Allowed sealed_ who R.MGT_KEY_FAB_SEL 0 1 ∧ keySet sealed_ (4 + 1) = false ∧ openMode sealed_ = false) ∧
    (findReg 0x2101 3 = some R.PWR_MAX_W ∧ findReg 0x7FFF 1 = none) ∧
    (let who : Who := { role := .operator, path := .t1s, func := 0 }
     let bs := leBytes (tySize R.MGT_SESS_IDLE_S.ty R.MGT_SESS_IDLE_S.members) 60
     R.MGT_SESS_IDLE_S ∈ [R.MGT_SESS_IDLE_S, R.RST_TMO_MULT, R.PWR_OVER_MS, R.HOST_FN_CMDS] ∧
      bs.length = tySize R.MGT_SESS_IDLE_S.ty R.MGT_SESS_IDLE_S.members ∧ Allowed up who R.MGT_SESS_IDLE_S 0 (leVal bs)) ∧
    (let who : Who := { role := .observer, path := .t1s, func := 0 }
     let bs := leBytes (tySize R.RST_TMO_MULT.ty R.RST_TMO_MULT.members) 1
     bs.length = tySize R.RST_TMO_MULT.ty R.RST_TMO_MULT.members ∧ checkWrite up who R.RST_TMO_MULT 0 (leVal bs) ≠ rOk) ∧
    (let who : Who := { role := .observer, path := .t1s, func := 0 }
     (up.wr R.HOST_FN_QCOUNT 0 4).localQ 0 1 = some 1 ∧ checkRead up who R.PWR_MAX_W 0 = rOk) ∧
    (State.reset.fccUp = false ∧ up.fccUp = true ∧ up.rd R.MGT_T1S_STATE 0 ≠ 2) := by
  unfold Allowed
  refine ⟨?_, ?_, ?_, ?_, ?_, ?_, ?_, ?_, ?_⟩ <;> decide +kernel

theorem witness_observability :
    (let who : Who := { role := .operator, path := .pcie, func := 0 }
     let s := up.modTime fun u => { u with sec := 7200 }
     Allowed s who R.FRZ_AT 0 (7199 * 2 ^ 32) ∧ freezeNs s (7199 * 2 ^ 32) < s.now ∧
      Allowed s who R.FRZ_AT 0 (7201 * 2 ^ 32) ∧ s.now ≤ freezeNs s (7201 * 2 ^ 32)) ∧
    up.obs.freeze = none ∧
    (let s := up.modObs fun o => { o with freeze := some (1, 5) }
     s.obs.freeze = some (1, 5) ∧ s.now < ((1 * 1000000000 + 5 : Nat) : Int)) ∧
    (let s := (up.modObs fun o => { o with freeze := some (1, 5) }).modTime fun u => { u with sec := 2 }
     s.obs.freeze = some (1, 5) ∧ ((1 * 1000000000 + 5 : Nat) : Int) ≤ s.now) ∧
    (let who : Who := { role := .operator, path := .pcie, func := 0 }
     let s := up.wr R.FRZ_POD_AT 0 (7201 * 2 ^ 32)
     Allowed s who R.FRZ_POD_GO 0 1 ∧ s.now + 1000000 ≤ freezeNs s (s.rd R.FRZ_POD_AT 0) ∧
      Allowed up who R.FRZ_POD_GO 0 1 ∧ freezeNs up (up.rd R.FRZ_POD_AT 0) < up.now + 1000000) ∧
    (let who : Who := { role := .operator, path := .pcie, func := 0 }
     Allowed up who R.TRC_FCC_MARK 0 5) ∧
    (∀ b ∈ regionBlocks 1, (up.block b).trace = []) ∧
    (let x : TraceRec := {}
     let s := up.modBlock 0 fun k => { k with trace := [x, { x with seq := 1 }] }
     (regionBlocks 0).find? (fun k => (s.block k).trace != []) = some 0 ∧ (s.block 0).trace = x :: { x with seq := 1 } :: []) ∧
    State.reset.fccUp = false ∧
    (up.fccUp = true ∧ up.rst.pwrEn = true ∧ up.rst.pwrGood = true ∧ up.rd R.LIFE_POWERED_S 0 < lifeSavedS up + 3600) ∧
    (let s := up.setRst { up.rst with pwrEn := false }
     s.fccUp = true ∧ s.rst.pwrEn = false) ∧
    (let s := up.wr R.LIFE_POWERED_S 0 100000000
     s.fccUp = true ∧ lifeSavedS s + 3600 ≤ s.rd R.LIFE_POWERED_S 0) ∧
    (let s := (up.wr R.LIFE_POWERED_S 0 100000000).wr R.LIFE_MARGIN_H 0 1
     s.fccUp = true ∧ s.rd R.LIFE_MARGIN_H 0 ≠ 0 ∧ s.obs.marginAtS + 3600 * s.rd R.LIFE_MARGIN_H 0 ≤ s.rd R.LIFE_POWERED_S 0 ∧
      s.obs.margin = none ∧ s.rst.pwrEn = true ∧ s.rst.pwrGood = true) ∧
    (let s := up.wr R.LIFE_MARGIN_H 0 0
     s.rd R.LIFE_MARGIN_H 0 = 0 ∨ s.rd R.LIFE_POWERED_S 0 < s.obs.marginAtS + 3600 * s.rd R.LIFE_MARGIN_H 0) ∧
    (let m (step : Nat) (again : Bool) : MarginTest := { region := 1, nominal := 700, step := step, again := again }
     let s (x : MarginTest) : State := up.modObs fun o => { o with margin := some x }
     (s (m 5 false)).obs.margin = some (m 5 false) ∧ (m 5 false).step ≠ 30 ∧ (m 30 false).step = 30 ∧
      ((m 5 false).step ≠ 0 ∧ (m 5 false).step < 30) ∧ ((m 0 false).step = 0 ∧ (m 0 false).again = false) ∧
      ((m 0 true).step = 0 ∧ (m 0 true).again = true)) := by
  unfold Allowed
  refine ⟨?_, ?_, ?_, ?_, ?_, ?_, ?_, ?_, ?_, ?_, ?_, ?_, ?_, ?_, ?_⟩ <;> decide +kernel

theorem witness_refused_writes :
    (let who : Who := { role := .observer, path := .pcie, func := 0 }
     ¬ Allowed up who R.CMP_PART_OWNER 0 0) ∧
    (let who : Who := { role := .owner, path := .pcie, func := 2 }
     ¬ Allowed up who R.FAB_DMAP 0 1) ∧
    (let who : Who := { role := .operator, path := .pcie, func := 0 }
     Allowed up who R.FAB_DMAP 0 1 ∧ ¬ Allowed State.reset who R.FAB_DMAP 0 1) := by
  unfold Allowed
  refine ⟨?_, ?_, ?_⟩ <;> decide +kernel

/-- The restored page of `RollbackAndReplay`: a journal entry with one later write, in the page and outside its journal page. -/
theorem witness_restored_page :
    let w : HeldWrite := { page := 0, addr := ((B07.roll.pageAddr 3 0).getD 0) + 8, data := [3, 4] }
    let e : JournalEntry := { page := 0, jpage := 1, later := [w] }
    let g : JournalSeg := { step := 5, entries := [e] }
    let s := B07.roll.modPart 3 fun q => { q with journal := [g, { step := 4 }] }
    let a := (s.pageAddr 3 0).getD 0
    segsFrom (s.part 3) 5 = [g] ∧ s.pageAddr 3 0 = some a ∧ s.msys.toRemap = [] ∧
      (a + pageBytes ≤ jnlAddr s 3 1 ∨ jnlAddr s 3 1 + pageBytes ≤ a) ∧ Wf s ∧
      (w.addr + w.data.length ≤ jnlAddr s 3 1 ∨ jnlAddr s 3 1 + pageBytes ≤ w.addr) ∧
      (w.addr ≤ a + 9 ∧ a + 9 < w.addr + w.data.length) := by
  refine ⟨?_, ?_, ?_, ?_, ⟨?_, ?_, ?_, ?_, ?_, ?_, ?_, ?_, ?_⟩, ?_, ?_⟩ <;> decide +kernel

end Sys2Proof.Tests
end

section
/-! The offset steps of R201: two's complement entries, the events a change of an entry leaves alike, a write of
TIME_STEP_NS and a tick with a step pending. -/

namespace Sys2Proof.Machine

open Sys2Proof

/-! ### Signed entries -/

/-- The two's complement value is the balanced remainder. -/
theorem toSigned_eq_bmod (w n : Nat) : toSigned w n = Int.bmod n (2 ^ w) := by
  simp only [toSigned, Int.bmod]
  generalize 2 ^ w = m
  push_cast
  split <;> split <;> omega

theorem toSigned_ofSigned {w : Nat} {v : Int} (hlo : -(2 ^ w) ≤ 2 * v) (hhi : 2 * v < 2 ^ w) :
    toSigned w (ofSigned w v) = v := by
  have hpos : (0 : Int) < (2 ^ w : Nat) := by positivity
  rw [toSigned_eq_bmod, ofSigned, Int.toNat_of_nonneg (Int.emod_nonneg _ hpos.ne'), Int.emod_bmod]
  push_cast at hpos
  apply Int.bmod_eq_of_le <;> push_cast <;> omega

theorem ofSigned_lt (w : Nat) (v : Int) : ofSigned w v < 2 ^ w := by
  have hpos : (0 : Int) < (2 ^ w : Nat) := by positivity
  have hlt := Int.emod_lt_of_pos v hpos
  unfold ofSigned
  omega

/-- A signed entry written with a value of its width reads back. -/
theorem rdI_wrI_same (s : State) {r : Reg} (i : Nat) {v : Int} (hlo : -(2 ^ regBits r) ≤ 2 * v)
    (hhi : 2 * v < 2 ^ regBits r) : (s.wrI r i v).rdI r i = v := by
  rw [State.rdI, State.wrI, rd_wr_same, Nat.mod_eq_of_lt (ofSigned_lt _ _), toSigned_ofSigned hlo hhi]

@[simp] theorem wrI_time (s : State) (r : Reg) (i : Nat) (v : Int) : (s.wrI r i v).time = s.time := rfl

@[simp] theorem wrI_ledger (s : State) (r : Reg) (i : Nat) (v : Int) : (s.wrI r i v).ledger = s.ledger := rfl

/-! ### What an event takes from the state (R325 to R333) -/

/-- The entries that decide whether a record is accepted, and its STEP field. -/
def ledgerReads : List Reg :=
  [R.CMP_PLAN_STATE, R.CMP_BLOCK_PART, R.SEAL_STEP, R.LDG_OVR, R.LDG_RATE, R.LDG_BURST]

/-- Two states in which every event leaves the same Ledger (`SameRecords.record_ledger`). -/
structure SameRecords (s t : State) : Prop where
  time : s.time = t.time
  ledger : s.ledger = t.ledger
  cause : s.host.cause = t.host.cause
  rd : ∀ r ∈ ledgerReads, ∀ i, s.rd r i = t.rd r i

theorem ldgEnqueue_ledger_congr {s t : State} (h : s.ledger = t.ledger) (r : List Byte) :
    (ldgEnqueue s r).ledger = (ldgEnqueue t r).ledger := by
  unfold ldgEnqueue
  rw [h]
  split <;> simp [h]

theorem ldgBucket_ledger_congr {s t : State} (h : s.ledger = t.ledger) (code : Nat) (b : Bucket) :
    (ldgBucket s code b).ledger = (ldgBucket t code b).ledger := by
  simp [ldgBucket, h]

namespace SameRecords

variable {s t : State} (h : SameRecords s t)

include h

theorem pstate_eq (p : Nat) : s.pstate p = t.pstate p := h.rd R.CMP_PLAN_STATE (by simp [ledgerReads]) p

theorem running_eq : s.running = t.running := by simp only [State.running, h.pstate_eq]

theorem now_eq : s.now = t.now := by rw [State.now, State.now, h.time]

theorem stepOf_eq (u : Nat) : s.stepOf u = t.stepOf u := by
  have hplan : s.pstate = t.pstate := funext h.pstate_eq
  have hpart : s.partOf = t.partOf := funext (h.rd R.CMP_BLOCK_PART (by simp [ledgerReads]))
  have hstep : s.rd R.SEAL_STEP = t.rd R.SEAL_STEP := funext (h.rd R.SEAL_STEP (by simp [ledgerReads]))
  unfold State.stepOf State.active
  rw [hplan, hpart, hstep]

theorem recBytes_eq (code source : Nat) (data : List Byte) :
    recBytes s code source data = recBytes t code source data := by
  simp only [recBytes, h.time, h.stepOf_eq]

theorem bucketNow_eq (code : Nat) : bucketNow s code = bucketNow t code := by
  have hovr := h.rd R.LDG_OVR (by simp [ledgerReads])
  have hrate := h.rd R.LDG_RATE (by simp [ledgerReads])
  have hburst := h.rd R.LDG_BURST (by simp [ledgerReads])
  simp only [bucketNow, ldgLimit, hovr, hrate, hburst, h.ledger, h.now_eq]

theorem ldgAccept_ledger (code : Nat) (r : List Byte) (tokens : Nat) :
    (ldgAccept s code r tokens).ledger = (ldgAccept t code r tokens).ledger := by
  simp only [ldgAccept, h.ledger, h.now_eq, h.recBytes_eq]
  apply ldgBucket_ledger_congr
  apply ldgEnqueue_ledger_congr
  split
  · exact h.ledger
  · exact ldgEnqueue_ledger_congr h.ledger _

theorem ldgSuppress_ledger (code tokens : Nat) :
    (ldgSuppress s code tokens).ledger = (ldgSuppress t code tokens).ledger := by
  simp only [ldgSuppress, h.ledger, h.now_eq]
  apply ldgBucket_ledger_congr
  split <;> exact h.ledger

theorem ldgPresent_ledger (code : Nat) (r : List Byte) :
    (ldgPresent s code r).ledger = (ldgPresent t code r).ledger := by
  simp only [ldgPresent, h.bucketNow_eq]
  split
  · exact ldgEnqueue_ledger_congr h.ledger r
  · split
    · exact h.ldgAccept_ledger code r _
    · exact h.ldgSuppress_ledger code _

theorem record_ledger (code source : Nat) (fs : List (Nat × Nat)) :
    (s.record code source fs).ledger = (t.record code source fs).ledger := by
  simp only [State.record, State.recordL, h.cause, h.recBytes_eq]
  exact h.ldgPresent_ledger code _

end SameRecords

@[simp] theorem record_time (s : State) (code source : Nat) (fs : List (Nat × Nat)) :
    (s.record code source fs).time = s.time :=
  ((record_keeps Sub.rfl (Keeps.refl _ s)).at plTime (by decide) (by decide)).symm

@[simp] theorem record_stepPend (s : State) (code source : Nat) (fs : List (Nat × Nat)) :
    (s.record code source fs).stepPend = s.stepPend :=
  congrArg (toSigned _) ((record_keeps Sub.rfl (Keeps.refl _ s)).rd R.TIME_STEP_PEND 0 (by decide))

/-! ### The pending sum (R201) -/

@[simp] theorem stepPend_setOutbox (s : State) (x : List Out) : (s.setOutbox x).stepPend = s.stepPend := rfl

theorem running_iff (s : State) : s.running = true ↔ ∃ p < 128, s.pstate p = psRunning := by
  simp [State.running]

/-- The pending sum is no entry that an event reads. -/
theorem sameRecords_wrI_stepPend (s : State) (v : Int) : SameRecords (s.wrI R.TIME_STEP_PEND 0 v) s where
  time := rfl
  ledger := rfl
  cause := rfl
  rd r hr i := by
    have hne : ∀ q ∈ ledgerReads, q.index * 256 + q.sub % 256 ≠ R.TIME_STEP_PEND.index * 256 + R.TIME_STEP_PEND.sub % 256 := by
      decide
    exact rd_wr_ne s _ (hne r hr)

/-- A sum of 64 bits written is the pending sum from then on. -/
theorem stepPend_wrI (s : State) {v : Int} (hlo : -(2 ^ 63) ≤ v) (hhi : v < 2 ^ 63) :
    (s.wrI R.TIME_STEP_PEND 0 v).stepPend = v := by
  have hbits : regBits R.TIME_STEP_PEND = 64 := rfl
  apply rdI_wrI_same <;> rw [hbits] <;> omega

/-! ### A write of TIME_STEP_NS (R201) -/

theorem stepNs_of_overflow {s : State} {v : Int} (h : s.stepPend + v < -(2 ^ 63) ∨ 2 ^ 63 ≤ s.stepPend + v) :
    stepNs s v = (s, rRange) := if_pos (by exact_mod_cast h)

/-- A sum within its width is kept, and recorded where it has to wait. -/
theorem stepNs_of_fits {s : State} {v : Int} (hlo : -(2 ^ 63) ≤ s.stepPend + v) (hhi : s.stepPend + v < 2 ^ 63) :
    let s1 := s.wrI R.TIME_STEP_PEND 0 (s.stepPend + v)
    stepNs s v = done (if s.running then s1.record 0x8005 uTime [(8, ofSigned 64 (s.stepPend + v))] else s1) := by
  have hfits : ¬ (s.stepPend + v < -(2 ^ 63 : Nat) ∨ ((2 ^ 63 : Nat) : Int) ≤ s.stepPend + v) := by
    push_cast
    omega
  rw [← (sameRecords_wrI_stepPend s (s.stepPend + v)).running_eq]
  exact if_neg hfits

/-- A write that passes the checks acts with the number that was written. -/
theorem exec_timeStepNs_allowed {s : State} {who : Who} {d : Int} (hlo : -(2 ^ 63) ≤ d) (hhi : d < 2 ^ 63)
    (hok : Allowed s who R.TIME_STEP_NS 0 (ofSigned 64 d)) :
    exec (.timeStepNs who d) s = .next ((stepNs s d).1.emit (.answer who (stepNs s d).2)) := by
  have hd : toSigned 64 (ofSigned 64 d) = d := toSigned_ofSigned (by omega) (by omega)
  change Host.Outcome.next (s.guard who _ _ _ _) = _
  rw [guard_ok s hok, hd]

theorem timeStepNs_of_fits {s : State} {who : Who} {d : Int} (hlo : -(2 ^ 63) ≤ d) (hhi : d < 2 ^ 63)
    (hok : Allowed s who R.TIME_STEP_NS 0 (ofSigned 64 d)) (hslo : -(2 ^ 63) ≤ s.stepPend + d)
    (hshi : s.stepPend + d < 2 ^ 63) :
    Writes who (.timeStepNs who d) s fun t =>
      t.stepPend = s.stepPend + d ∧ t.time = s.time ∧
        (s.running = true → Logged s t 0x8005 uTime [(8, ofSigned 64 (s.stepPend + d))]) ∧
        (s.running = false → t.ledger = s.ledger) := by
  refine ⟨_, exec_timeStepNs_allowed hlo hhi hok, ?_, by simp [stepNs_of_fits hslo hshi, done]⟩
  have hpend := stepPend_wrI s hslo hshi
  have hled := (sameRecords_wrI_stepPend s (s.stepPend + d)).record_ledger
  rw [stepNs_of_fits hslo hshi]
  cases hrun : s.running with
  | false => simp [done, hpend]
  | true => simp [done, hpend, Logged, hled]

theorem timeStepNs_of_overflow {s : State} {who : Who} {d : Int} (hlo : -(2 ^ 63) ≤ d) (hhi : d < 2 ^ 63)
    (hok : Allowed s who R.TIME_STEP_NS 0 (ofSigned 64 d))
    (hover : s.stepPend + d < -(2 ^ 63) ∨ 2 ^ 63 ≤ s.stepPend + d) :
    TurnedAway who (.timeStepNs who d) s rRange := by
  rw [TurnedAway, exec_timeStepNs_allowed hlo hhi hok, stepNs_of_overflow hover]

/-! ### A tick with a step pending (R198, R201) -/

/-- The time unit with a step of `d` ns applied: the counter by R201's two lines, and what the servo keeps moved by as
much. -/
def steppedTime (u : TimeUnit) (d : Int) : TimeUnit :=
  let t := (u.sec * 1000000000 + u.ns : Nat) + d
  { u with
    sec := (t / 1000000000 % (2 ^ 48 : Nat)).toNat, ns := (t % 1000000000).toNat,
    syncs := u.syncs.map fun x => (x.1 + ofNs d, x.2 + ofNs d), syncNs := u.syncNs + d, holdNs := u.holdNs + d }

theorem applyStep_of_still {s : State} (h : s.stepPend = 0 ∨ s.running = true) : applyStep s = s := if_pos h

theorem applyStep_of_due {s : State} (hd : s.stepPend ≠ 0) (hrun : s.running = false) :
    applyStep s = ((s.setTime (steppedTime s.time s.stepPend)).wrI R.TIME_STEP_PEND 0 0).record 0x8004 uTime
      [(8, ofSigned 64 s.stepPend)] := if_neg (by simp [hd, hrun])

theorem applyStep_due_time {s : State} (hd : s.stepPend ≠ 0) (hrun : s.running = false) :
    (applyStep s).time = steppedTime s.time s.stepPend := by
  rw [applyStep_of_due hd hrun, record_time]
  rfl

theorem applyStep_due_stepPend {s : State} (hd : s.stepPend ≠ 0) (hrun : s.running = false) :
    (applyStep s).stepPend = 0 := by
  rw [applyStep_of_due hd hrun, record_stepPend]
  exact stepPend_wrI _ (by decide) (by decide)

/-- The event of an applied step carries the time the step leaves. -/
theorem applyStep_due_logged {s : State} (hd : s.stepPend ≠ 0) (hrun : s.running = false) :
    Logged (s.setTime (applyStep s).time) (applyStep s) 0x8004 uTime [(8, ofSigned 64 s.stepPend)] := by
  rw [Logged, applyStep_due_time hd hrun, applyStep_of_due hd hrun]
  exact (sameRecords_wrI_stepPend _ 0).record_ledger ..

/-- The tick before the step moves the counter and TIME_STATE, and neither the pending sum nor a plan state. -/
theorem tickCounter_grandmaster_keeps (s : State) : Keeps [4, 0x5804] s (tickCounter (grandmaster s)) :=
  tickCounter_keeps (Sub.of rfl Sub.rfl) (grandmaster_keeps (Sub.of rfl Sub.rfl) (Keeps.refl _ s))

theorem tickCounter_grandmaster_stepPend (s : State) : (tickCounter (grandmaster s)).stepPend = s.stepPend :=
  congrArg (toSigned _) ((tickCounter_grandmaster_keeps s).rd R.TIME_STEP_PEND 0 (by decide))

theorem tickCounter_grandmaster_running (s : State) : (tickCounter (grandmaster s)).running = s.running := by
  have hp (p : Nat) : (tickCounter (grandmaster s)).pstate p = s.pstate p :=
    (tickCounter_grandmaster_keeps s).rd R.CMP_PLAN_STATE p (by decide)
  simp only [State.running, hp]

/-- A tick with a step due, in terms of the state that the count leaves. -/
theorem timeCounterTick_of_due {s : State} (hd : s.stepPend ≠ 0) (hrun : s.running = false) :
    let u := tickCounter (grandmaster s)
    Does .timeCounterTick s fun t =>
      t.time = steppedTime u.time s.stepPend ∧ t.stepPend = 0 ∧
        Logged (u.setTime t.time) t 0x8004 uTime [(8, ofSigned 64 s.stepPend)] := by
  rw [← tickCounter_grandmaster_stepPend s] at hd ⊢
  rw [← tickCounter_grandmaster_running s] at hrun
  exact ⟨_, rfl, applyStep_due_time hd hrun, applyStep_due_stepPend hd hrun, applyStep_due_logged hd hrun⟩

theorem timeCounterTick_of_running {s : State} (hrun : s.running = true) :
    Does .timeCounterTick s fun t => t = tickCounter (grandmaster s) :=
  ⟨_, rfl, applyStep_of_still (.inr ((tickCounter_grandmaster_running s).trans hrun))⟩

/-- Settles O58: a write adds to the pending sum or is turned away, and a tick applies the sum whole once no partition
is Running. -/
theorem offsetSteps : Obligations.OffsetSteps := by
  intro s who
  refine ⟨running_iff s, fun d hlo hhi hok => ⟨?fits, ?overflow⟩, ?due, ?waits⟩
  case fits => exact timeStepNs_of_fits hlo hhi hok
  case overflow => exact fun hover => ⟨timeStepNs_of_overflow hlo hhi hok hover, rfl⟩
  case due =>
    intro hd hrun
    obtain ⟨t, ht, htime, hpend, hlog⟩ := timeCounterTick_of_due hd hrun
    refine ⟨t, ht, ?_, ?_, ?_, hpend, hlog⟩ <;> simp [htime, steppedTime]
  case waits =>
    intro _ hrun
    obtain ⟨t, ht, rfl⟩ := timeCounterTick_of_running hrun
    exact ⟨_, ht, rfl, tickCounter_grandmaster_stepPend s⟩

end Sys2Proof.Machine
end

section
/-! The full stage of R251: what setting one area leaves of the others, a delta page that finds the stage full, and the
sender's return to Filling. -/

namespace Sys2Proof.Machine

open Sys2Proof

/-! ### The areas of the buddy (R247) -/

/-- The area that a page goes to: the one that stands, or a new one. -/
def areaFor (s : State) (d : DeltaPage) : BuddyArea :=
  (s.area d.srcChip d.srcPart).getD { srcChip := d.srcChip, srcPart := d.srcPart }

/-- An area that was found is of the chip and partition it was looked up by. -/
theorem src_of_area {s : State} {c q : Nat} {a : BuddyArea} (h : s.area c q = some a) : a.srcChip = c ∧ a.srcPart = q := by
  simpa using List.find?_some h

theorem areaFor_src (s : State) (d : DeltaPage) : (areaFor s d).srcChip = d.srcChip ∧ (areaFor s d).srcPart = d.srcPart := by
  unfold areaFor
  cases h : s.area d.srcChip d.srcPart with
  | none => exact ⟨rfl, rfl⟩
  | some a => exact src_of_area h

/-- An area is looked up among those that stay when one is set, and then in the one set. -/
theorem area_setArea (s : State) (a : BuddyArea) (c q : Nat) :
    (setArea s a).area c q =
      (s.buddies.find? fun x => decide (¬ (x.srcChip = a.srcChip ∧ x.srcPart = a.srcPart) ∧ x.srcChip = c ∧ x.srcPart = q)).or
        (if a.srcChip = c ∧ a.srcPart = q then some a else none) := by
  simp [State.area, setArea, List.find?_append, List.find?_filter, List.find?_singleton]

theorem area_setArea_same (s : State) (a : BuddyArea) : (setArea s a).area a.srcChip a.srcPart = some a := by
  rw [area_setArea, if_pos ⟨rfl, rfl⟩, List.find?_eq_none.2, Option.none_or]
  grind

theorem area_setArea_other (s : State) {a : BuddyArea} {c q : Nat} (h : ¬ (c = a.srcChip ∧ q = a.srcPart)) :
    (setArea s a).area c q = s.area c q := by
  rw [area_setArea, if_neg fun e => h ⟨e.1.symm, e.2.symm⟩, Option.or_none, State.area]
  congr 1
  grind

/-! ### A delta page that finds the stage full (R251) -/

/-- The stage and the copy of the page's area are gone, and the page is refused. -/
theorem pageRx_of_full {s : State} {d : DeltaPage} (hfill : d.filling = false)
    (hhost : hostSlices s d.srcChip d.srcPart ≠ 0)
    (hgen : ∀ x, localOf s d.srcChip = some x → (s.part x).runGen = d.gen)
    (hfull : stageSize s (areaFor s d) ≤ (areaFor s d).stage.length) :
    ∃ b : BuddyArea, b.srcChip = d.srcChip ∧ b.srcPart = d.srcPart ∧ b.copy = [] ∧ b.stage = [] ∧
      pageRx s d = (setArea s b).emit (.buddyAck d.srcChip d.srcPart d.step d.page false true) := by
  obtain ⟨hchip, hpart⟩ := areaFor_src s d
  cases hp : localOf s d.srcChip with
  | none =>
    refine ⟨{ areaFor s d with copy := [], stage := [], merging := none }, hchip, hpart, rfl, rfl, ?_⟩
    simp only [pageRx, hp, hfill, hhost]
    exact if_pos hfull
  | some x =>
    refine ⟨{ areaFor s d with
      digest := imgDigest (s.img x), rank := (s.rankOf (s.tagOf x) d.srcChip).getD 0,
      copy := [], stage := [], merging := none }, hchip, hpart, rfl, rfl, ?_⟩
    simp only [pageRx, hp, hfill, hhost, hgen x hp, bne_self_eq_false]
    exact if_pos hfull

theorem deltaPageReceive_of_full {s : State} {d : DeltaPage} (hfill : d.filling = false)
    (hhost : hostSlices s d.srcChip d.srcPart ≠ 0)
    (hgen : ∀ x, localOf s d.srcChip = some x → (s.part x).runGen = d.gen)
    (hfull : stageSize s (areaFor s d) ≤ (areaFor s d).stage.length) :
    Does (.deltaPageReceive d) s fun t =>
      (∃ b, t.area d.srcChip d.srcPart = some b ∧ b.copy = [] ∧ b.stage = []) ∧
        (∀ c q, ¬ (c = d.srcChip ∧ q = d.srcPart) → t.area c q = s.area c q) ∧ t.mem = s.mem ∧
        t.outbox = s.outbox ++ [.buddyAck d.srcChip d.srcPart d.step d.page false true] := by
  obtain ⟨b, hchip, hpart, hcopy, hstage, hrx⟩ := pageRx_of_full hfill hhost hgen hfull
  refine ⟨pageRx s d, rfl, ?_⟩
  rw [hrx, ← hchip, ← hpart]
  exact ⟨⟨b, area_setArea_same s b, hcopy, hstage⟩, fun c q hne => area_setArea_other s hne, rfl, rfl⟩

/-! ### A refusal at the sender (R250, R251) -/

/-- An entry that no record reads changes no event. -/
theorem sameRecords_wr (s : State) {r : Reg} (i v : Nat)
    (hr : ∀ q ∈ ledgerReads, q.index * 256 + q.sub % 256 ≠ r.index * 256 + r.sub % 256) :
    SameRecords (s.wr r i v) s where
  time := rfl
  ledger := rfl
  cause := rfl
  rd q hq _ := rd_wr_ne s v (hr q hq)

theorem rd_setBuddyState (s : State) (p : Nat) {new : Nat} (cause : Nat) (hnew : new < 2 ^ 8) :
    (setBuddyState s p new cause).rd R.SEAL_BUDDY_STATE p = new := by
  by_cases hsame : s.rd R.SEAL_BUDDY_STATE p = new
  · rw [setBuddyState, if_pos hsame, hsame]
  · rw [setBuddyState, if_neg hsame, (record_keeps Sub.rfl (Keeps.refl _ _)).rd R.SEAL_BUDDY_STATE p (by decide), rd_wr_same]
    exact Nat.mod_eq_of_lt hnew

/-- A change of the buddy state writes its event. -/
theorem setBuddyState_logged {s : State} {p new : Nat} (cause : Nat) (hne : s.rd R.SEAL_BUDDY_STATE p ≠ new) :
    Logged s (setBuddyState s p new cause) 0xA011 uFcc [(1, s.rd R.SEAL_BUDDY_STATE p), (1, new), (1, cause)] := by
  rw [Logged, setBuddyState, if_neg hne]
  exact (sameRecords_wr s p new (by decide)).record_ledger ..

theorem rd_fillStart (s : State) (p cause : Nat) : (fillStart s p cause).rd R.SEAL_BUDDY_STATE p = bFilling :=
  rd_setBuddyState s p cause (by decide)

theorem fillStart_logged {s : State} {p : Nat} (cause : Nat) (hne : s.rd R.SEAL_BUDDY_STATE p ≠ bFilling) :
    Logged s (fillStart s p cause) 0xA011 uFcc [(1, s.rd R.SEAL_BUDDY_STATE p), (1, bFilling), (1, cause)] :=
  setBuddyState_logged cause hne

/-- A refusal starts Filling again, with cause 4. -/
theorem pageAck_refused {s : State} {p : Nat} (step page : Nat) (filling : Bool) (h : s.rd R.SEAL_BUDDY_STATE p ≠ bNone) :
    pageAck s p step page filling true = fillStart s p 4 := if_neg h

theorem deltaPageAck_refused {s : State} {p : Nat} (step page : Nat) (filling : Bool)
    (h : s.rd R.SEAL_BUDDY_STATE p ≠ bNone) :
    Does (.deltaPageAck p step page filling true) s fun t => t = fillStart s p 4 :=
  ⟨_, rfl, pageAck_refused step page filling h⟩

/-- Settles O59: the full stage takes the copy with it and refuses, and the refusal starts Filling at the sender. -/
theorem stageOverflow : Obligations.StageOverflow := by
  refine ⟨fun s d hfill hhost hgen => deltaPageReceive_of_full hfill hhost hgen, ?sender⟩
  case sender =>
    intro s p step page filling h
    obtain ⟨t, ht, rfl⟩ := deltaPageAck_refused step page filling h
    exact ⟨_, ht, rd_fillStart s p 4, fillStart_logged 4⟩

end Sys2Proof.Machine
end

section
/-! The steward sequence of R291: what a receiver keeps for a tray, the three ways it handles a steward's output, and
that an output it has accepted is dropped when it comes again. -/

namespace Sys2Proof.Machine

open Sys2Proof

/-! ### The map of one tray (R291) -/

/-- How far an SSEQ is above the highest one accepted: `d` of R291. -/
def SseqMap.ahead (m : SseqMap) (x : Nat) : Nat := (x + (65536 - m.high % 65536)) % 65536

/-- The map with a new highest SSEQ: what is more than 63 below it is forgotten. -/
def SseqMap.advance (m : SseqMap) (x : Nat) : SseqMap :=
  { high := x, seen := (m.seen.filter fun y => decide ((x + (65536 - y)) % 65536 ≤ 63)) ++ [x] }

/-- The map with a late copy marked. -/
def SseqMap.mark (m : SseqMap) (x : Nat) : SseqMap := { m with seen := m.seen ++ [x] }

/-- An SSEQ that the receiver drops: the highest itself, one too old, or a late one seen before. -/
def SseqMap.Drops (m : SseqMap) (x : Nat) : Prop :=
  m.ahead x = 0 ∨ (32767 < m.ahead x ∧ m.ahead x < 65473) ∨ (65473 ≤ m.ahead x ∧ x ∈ m.seen)

/-- What is neither newer nor a late output not yet seen is dropped. -/
theorem SseqMap.drops_of_not {m : SseqMap} {x : Nat} (hnewer : ¬ (1 ≤ m.ahead x ∧ m.ahead x ≤ 32767))
    (hlate : ¬ (65473 ≤ m.ahead x ∧ x ∉ m.seen)) : m.Drops x := by
  obtain hlow | hhigh := Nat.lt_or_ge (m.ahead x) 65473
  · have : m.ahead x = 0 ∨ (32767 < m.ahead x ∧ m.ahead x < 65473) := by omega
    exact this.imp_right .inl
  · exact .inr (.inr ⟨hhigh, not_not.1 fun hnew => hlate ⟨hhigh, hnew⟩⟩)

theorem SseqMap.mem_seen_advance (m : SseqMap) (x y : Nat) :
    y ∈ (m.advance x).seen ↔ (y ∈ m.seen ∧ (x + (65536 - y)) % 65536 ≤ 63) ∨ y = x := by
  simp [advance]

theorem SseqMap.mem_seen_mark (m : SseqMap) (x y : Nat) : y ∈ (m.mark x).seen ↔ y ∈ m.seen ∨ y = x := by
  simp [mark]

theorem SseqMap.ahead_advance (m : SseqMap) (x : Nat) : (m.advance x).ahead x = 0 := by
  simp only [ahead, advance]
  omega

/-- The new highest SSEQ is dropped from then on. -/
theorem SseqMap.drops_advance (m : SseqMap) (x : Nat) : (m.advance x).Drops x := .inl (m.ahead_advance x)

/-- A late copy once marked is dropped from then on. -/
theorem SseqMap.drops_mark {m : SseqMap} {x : Nat} (hlate : 65473 ≤ m.ahead x) : (m.mark x).Drops x :=
  .inr (.inr ⟨hlate, (m.mem_seen_mark x x).2 (.inr rfl)⟩)

/-! ### The map of each tray -/

/-- What the receiver keeps for a tray. -/
def sseqsOf (s : State) (tray : Nat) : SseqMap := mapGet {} s.clover.sseqs tray

/-- The state that keeps another map for a tray. -/
def setSseqs (s : State) (tray : Nat) (m : SseqMap) : State :=
  s.modClover fun c => { c with sseqs := mapPut c.sseqs tray m }

theorem sseqsOf_setSseqs_same (s : State) (tray : Nat) (m : SseqMap) : sseqsOf (setSseqs s tray m) tray = m :=
  mapGet_mapPut_same ..

theorem sseqsOf_setSseqs_other (s : State) {tray k : Nat} (m : SseqMap) (h : k ≠ tray) :
    sseqsOf (setSseqs s tray m) k = sseqsOf s k :=
  mapGet_mapPut_other _ _ _ h

/-! ### A steward's output at a receiver -/

section
variable {s : State} {h : ClvHdr} (hrole : h.srole = 1 ∨ h.srole = 2)
include hrole

/-- The procedure of R291, by what it does to the tray's map. -/
theorem sseqRx_steward :
    sseqRx s h =
      let m := sseqsOf s h.tray
      if 1 ≤ m.ahead h.sseq ∧ m.ahead h.sseq ≤ 32767 then (setSseqs s h.tray (m.advance h.sseq), true)
      else if 65473 ≤ m.ahead h.sseq ∧ m.seen.contains h.sseq = false then (setSseqs s h.tray (m.mark h.sseq), true)
      else (s.bumpSat R.CLV_STW_DUP 0 1, false) :=
  if_neg (by omega)

theorem sseqRx_newer (hlo : 1 ≤ (sseqsOf s h.tray).ahead h.sseq) (hhi : (sseqsOf s h.tray).ahead h.sseq ≤ 32767) :
    sseqRx s h = (setSseqs s h.tray ((sseqsOf s h.tray).advance h.sseq), true) :=
  (sseqRx_steward hrole).trans (if_pos ⟨hlo, hhi⟩)

theorem sseqRx_late (hlate : 65473 ≤ (sseqsOf s h.tray).ahead h.sseq) (hnew : h.sseq ∉ (sseqsOf s h.tray).seen) :
    sseqRx s h = (setSseqs s h.tray ((sseqsOf s h.tray).mark h.sseq), true) := by
  rw [sseqRx_steward hrole, if_neg (by omega), if_pos ⟨hlate, by simpa using hnew⟩]

theorem sseqRx_of_drops (hdrop : (sseqsOf s h.tray).Drops h.sseq) :
    sseqRx s h = (s.bumpSat R.CLV_STW_DUP 0 1, false) := by
  obtain hsame | ⟨hlo, hhi⟩ | ⟨hlate, hseen⟩ := hdrop
  case inl => rw [sseqRx_steward hrole, if_neg (by omega), if_neg (by omega)]
  case inr.inl => rw [sseqRx_steward hrole, if_neg (by omega), if_neg (by omega)]
  case inr.inr => rw [sseqRx_steward hrole, if_neg (by omega), if_neg (by simp [hseen])]

/-- An output is dropped and only counted, or accepted with a map for its tray that drops it from then on. -/
theorem sseqRx_cases :
    sseqRx s h = (s.bumpSat R.CLV_STW_DUP 0 1, false) ∨
      ∃ m : SseqMap, m.Drops h.sseq ∧ sseqRx s h = (setSseqs s h.tray m, true) := by
  by_cases hnewer : 1 ≤ (sseqsOf s h.tray).ahead h.sseq ∧ (sseqsOf s h.tray).ahead h.sseq ≤ 32767
  · exact .inr ⟨_, SseqMap.drops_advance .., sseqRx_newer hrole hnewer.1 hnewer.2⟩
  by_cases hlate : 65473 ≤ (sseqsOf s h.tray).ahead h.sseq ∧ h.sseq ∉ (sseqsOf s h.tray).seen
  · exact .inr ⟨_, SseqMap.drops_mark hlate.1, sseqRx_late hrole hlate.1 hlate.2⟩
  · exact .inl (sseqRx_of_drops hrole (SseqMap.drops_of_not hnewer hlate))

/-- No output of one tray touches what is kept for another. -/
theorem sseqsOf_sseqRx_other {tray : Nat} (hne : tray ≠ h.tray) : sseqsOf (sseqRx s h).1 tray = sseqsOf s tray := by
  obtain hrx | ⟨m, -, hrx⟩ := sseqRx_cases (s := s) hrole
  · simp [hrx, sseqsOf]
  · rw [hrx]
    exact sseqsOf_setSseqs_other s m hne

/-- An output is accepted at most once. -/
theorem sseqRx_again (hacc : (sseqRx s h).2 = true) : (sseqRx (sseqRx s h).1 h).2 = false := by
  obtain hrx | ⟨m, hdrop, hrx⟩ := sseqRx_cases (s := s) hrole
  · simp [hrx] at hacc
  · rw [hrx, sseqRx_of_drops hrole]
    rwa [sseqsOf_setSseqs_same]

end

/-- A message whose SSEQ is not accepted is not acted on. -/
theorem clvRx_of_dropped {s : State} {h : ClvHdr} (f : State → State) (hsender : s.isFailed h.sender = false)
    (hdrop : (sseqRx s h).2 = false) : clvRx s h f = (sseqRx s h).1 := by
  simp [clvRx, hsender, hdrop]

theorem noticeRx_of_dropped {s : State} (port : Nat) {h : ClvHdr} {n : Notice} (hsender : s.isFailed h.sender = false)
    (hsubject : s.isFailed n.subject = false) (hdrop : (sseqRx s h).2 = false) :
    noticeRx s port h n = (sseqRx s h).1 := by
  simp [noticeRx, hsender, hsubject, clvRx_of_dropped _ hsender hdrop]

/-- Settles O60: by the three ways of R291 to handle a steward's output, each leaving a map that drops it from then on. -/
theorem stewardSequence : Obligations.StewardSequence := by
  intro s h hrole
  refine ⟨?newer, ?late, sseqRx_of_drops hrole, fun _ => sseqsOf_sseqRx_other hrole, sseqRx_again hrole, ?notice⟩
  case newer =>
    intro hlo hhi
    rw [sseqRx_newer hrole hlo hhi, ← sseqsOf, sseqsOf_setSseqs_same]
    exact ⟨rfl, rfl, SseqMap.mem_seen_advance _ _⟩
  case late =>
    intro hlate hnew
    rw [sseqRx_late hrole hlate hnew, ← sseqsOf, sseqsOf_setSseqs_same]
    exact ⟨rfl, rfl, SseqMap.mem_seen_mark _ _⟩
  case notice =>
    intro port n hsender hsubject hdrop
    exact congrArg Host.Outcome.next (noticeRx_of_dropped port hsender hsubject hdrop)

end Sys2Proof.Machine
end

section
/-! What holds of every command: it has a next state, and from one law of change for each command follow the form it
keeps and what it appends. The list of places that `touches` gives is too short for one command, the journal copy. -/

namespace Sys2Proof.Machine

open Sys2Proof

/-! ### Every command has a next state -/

/-- No meaning ends in a fault or a refusal: each ends in a next state at once, or after the tests listed. -/
theorem exec_next (c : Instr) (s : State) : ∃ t, exec c s = .next t := by
  cases c
  case'
    freezeFire | segmentRelease | e2eRetransmit | e2eAckSend | contextEvict | versionRetire | portHoldExpiry |
    coalesceTimeout | sqFetch | pcieLinkUpOrDown | vfEnableSet | replyReceive | statusReply | zeroWatermarkPass |
    hostCmdTimeout | arrivalDelivery | trainingAttemptFail | clockUpstreamLoss | ledgerQueueDrain | flashEraseDone |
    moduleRemove | bolWrite | fastRetrainResume =>
    simp only [exec,
      execFreezeFire, execSegmentRelease, execE2eRetransmit, execE2eAckSend, execContextEvict, execVersionRetire,
      execPortHoldExpiry, execCoalesceTimeout, execSqFetch, execPcieLinkUpOrDown, execVfEnableSet, execReplyReceive,
      execStatusReply, execZeroWatermarkPass, execHostCmdTimeout, execArrivalDelivery, execTrainingAttemptFail,
      execClockUpstreamLoss, execLedgerQueueDrain, execFlashEraseDone, execModuleRemove, execBolWrite,
      execFastRetrainResume]
    repeat' split
  all_goals exact ⟨_, rfl⟩

/-! ### What every command keeps -/

/-- The places that a command can change: those of `touches`, and for the journal copy those of a write that lands
between steps as well, the buddy state and its event (R250, R257). -/
def reaches : Instr → List Nat
  | .journalCopy .. => [2, 3, 5, 6, 16, 0x3021, 0x6101, 0x6102, 0x7002, 0x8200]
  | c => touches c

/-- Each command keeps every other place, keeps the form, and goes onward. -/
theorem exec_keeps (c : Instr) (s : State) : OutKeeps (reaches c) s (exec c s) := by
  cases c with
  | segmentRelease => exact execSegmentRelease_keeps
  | streamFetch => exact execStreamFetch_keeps
  | cellNop _ _ w => exact execCellNop_keeps (_w := w)
  | ldw => exact execLdw_keeps
  | swap _ _ w => exact execSwap_keeps (_w := w)
  | lda => exact execLda_keeps
  | mul => exact execMul_keeps
  | sta => exact execSta_keeps
  | clra => exact execClra_keeps
  | vecNop _ w => exact execVecNop_keeps (_w := w)
  | vld => exact execVld_keeps
  | vst => exact execVst_keeps
  | gather => exact execGather_keeps
  | scatter => exact execScatter_keeps
  | scatterAdd => exact execScatterAdd_keeps
  | bcast => exact execBcast_keeps
  | add => exact execAdd_keeps
  | sub => exact execSub_keeps
  | vecMul => exact execVecMul_keeps
  | fma => exact execFma_keeps
  | min => exact execMin_keeps
  | max => exact execMax_keeps
  | abs => exact execAbs_keeps
  | neg => exact execNeg_keeps
  | copysign => exact execCopysign_keeps
  | cmp => exact execCmp_keeps
  | sel => exact execSel_keeps
  | iadd => exact execIadd_keeps
  | isub => exact execIsub_keeps
  | imul => exact execImul_keeps
  | shl => exact execShl_keeps
  | shr => exact execShr_keeps
  | and => exact execAnd_keeps
  | or => exact execOr_keeps
  | xor => exact execXor_keeps
  | recip => exact execRecip_keeps
  | sqrt => exact execSqrt_keeps
  | rsqrt => exact execRsqrt_keeps
  | div => exact execDiv_keeps
  | exp => exact execExp_keeps
  | exp2 => exact execExp2_keeps
  | log => exact execLog_keeps
  | log2 => exact execLog2_keeps
  | tanh => exact execTanh_keeps
  | sigmoid => exact execSigmoid_keeps
  | erf => exact execErf_keeps
  | sin => exact execSin_keeps
  | cos => exact execCos_keeps
  | cvt => exact execCvt_keeps
  | cvtMx => exact execCvtMx_keeps
  | rsum => exact execRsum_keeps
  | rmax => exact execRmax_keeps
  | rmin => exact execRmin_keeps
  | argmax => exact execArgmax_keeps
  | argmin => exact execArgmin_keeps
  | mvNop _ _ w => exact execMvNop_keeps (_w := w)
  | copy => exact execCopy_keeps
  | coll => exact execColl_keeps
  | ctlNop _ w => exact execCtlNop_keeps (_w := w)
  | sync _ w => exact execSync_keeps (_w := w)
  | stepEnd _ w => exact execStepEnd_keeps (_w := w)
  | loop => exact execLoop_keeps
  | wait => exact execWait_keeps
  | finalize => exact execFinalize_keeps
  | dbase => exact execDbase_keeps
  | arrivalDelivery => exact execArrivalDelivery_keeps
  | digestCompare => exact execDigestCompare_keeps
  | yarrowVerdict => exact execYarrowVerdict_keeps
  | sramEccWriteback => exact execSramEccWriteback_keeps
  | memoryRequest => exact execMemoryRequest_keeps
  | journalCopy => exact execJournalCopy_keeps
  | hbmPatrolRead => exact execHbmPatrolRead_keeps
  | patrolOverrun => exact execPatrolOverrun_keeps
  | hbmOdeccPoll => exact execHbmOdeccPoll_keeps
  | zeroWatermarkPass => exact execZeroWatermarkPass_keeps
  | zeroingComplete => exact execZeroingComplete_keeps
  | cmpPartOwner => exact execCmpPartOwner_keeps
  | cmpPartTag => exact execCmpPartTag_keeps
  | cmpBlockPart => exact execCmpBlockPart_keeps
  | memSlicePart => exact execMemSlicePart_keeps
  | memSliceUse => exact execMemSliceUse_keeps
  | memSliceHost => exact execMemSliceHost_keeps
  | fabPortAdmin => exact execFabPortAdmin_keeps
  | portFullRetrain => exact execPortFullRetrain_keeps
  | portClearCounters => exact execPortClearCounters_keeps
  | fabLaneOutClr => exact execFabLaneOutClr_keeps
  | trainingAttemptFail => exact execTrainingAttemptFail_keeps
  | portDownRetry => exact execPortDownRetry_keeps
  | hello => exact execHello_keeps
  | txSlot => exact execTxSlot_keeps
  | data => exact execData_keeps
  | nak => exact execNak_keeps
  | null => exact execNull_keeps
  | ackNullSend => exact execAckNullSend_keeps
  | replayTimerExpiry => exact execReplayTimerExpiry_keeps
  | laneWindowEnd => exact execLaneWindowEnd_keeps
  | lossOfLock => exact execLossOfLock_keeps
  | spareReq => exact execSpareReq_keeps
  | spareOffer => exact execSpareOffer_keeps
  | spareGo => exact execSpareGo_keeps
  | fastRetrainResume => exact execFastRetrainResume_keeps
  | widthReduction => exact execWidthReduction_keeps
  | creditSync => exact execCreditSync_keeps
  | creditSyncSend => exact execCreditSyncSend_keeps
  | pause => exact execPause_keeps
  | pauseSend => exact execPauseSend_keeps
  | pauseExpiry => exact execPauseExpiry_keeps
  | clockUpstreamLoss => exact execClockUpstreamLoss_keeps
  | fabClkUp => exact execFabClkUp_keeps
  | moduleInsert => exact execModuleInsert_keeps
  | moduleIdentified => exact execModuleIdentified_keeps
  | moduleRemove => exact execModuleRemove_keeps
  | laserMonitorRead => exact execLaserMonitorRead_keeps
  | laserFaultFlag => exact execLaserFaultFlag_keeps
  | laserHoursWrite => exact execLaserHoursWrite_keeps
  | bolWrite => exact execBolWrite_keeps
  | packetInject => exact execPacketInject_keeps
  | packetRoute => exact execPacketRoute_keeps
  | packetEject => exact execPacketEject_keeps
  | fabRtState => exact execFabRtState_keeps
  | fabEpochInj => exact execFabEpochInj_keeps
  | versionRetire => exact execVersionRetire_keeps
  | portHoldExpiry => exact execPortHoldExpiry_keeps
  | e2eRetransmit => exact execE2eRetransmit_keeps
  | e2eAckSend => exact execE2eAckSend_keeps
  | windowAcknowledgement => exact execWindowAcknowledgement_keeps
  | contextEvict => exact execContextEvict_keeps
  | shaperDecision => exact execShaperDecision_keeps
  | fabShpRate => exact execFabShpRate_keeps
  | fabShpLevel => exact execFabShpLevel_keeps
  | fabDmap => exact execFabDmap_keeps
  | fabVc1Res => exact execFabVc1Res_keeps
  | collCombine => exact execCollCombine_keeps
  | sqTailDb => exact execSqTailDb_keeps
  | cqHeadDb => exact execCqHeadDb_keeps
  | queueEnable => exact execQueueEnable_keeps
  | normalDisable => exact execNormalDisable_keeps
  | forcedDisable => exact execForcedDisable_keeps
  | queueContextWrite => exact execQueueContextWrite_keeps
  | sqFetch => exact execSqFetch_keeps
  | nop => exact execNop_keeps
  | write => exact execWrite_keeps
  | read => exact execRead_keeps
  | hostCopy => exact execHostCopy_keeps
  | planLoad => exact execPlanLoad_keeps
  | planLoadChecksDone => exact execPlanLoadChecksDone_keeps
  | planRun => exact execPlanRun_keeps
  | planStop => exact execPlanStop_keeps
  | planUnload => exact execPlanUnload_keeps
  | fence => exact execFence_keeps
  | mark => exact execMark_keeps
  | hostMoverComplete => exact execHostMoverComplete_keeps
  | hostCmdTimeout => exact execHostCmdTimeout_keeps
  | coalesceTimeout => exact execCoalesceTimeout_keeps
  | functionNormalDisableAll => exact execFunctionNormalDisableAll_keeps
  | functionForcedDisableAll => exact execFunctionForcedDisableAll_keeps
  | functionReset => exact execFunctionReset_keeps
  | functionLevelReset => exact execFunctionLevelReset_keeps
  | hotReset => exact execHotReset_keeps
  | vfEnableClear => exact execVfEnableClear_keeps
  | hostFnQbase => exact execHostFnQbase_keeps
  | hostFnQcount => exact execHostFnQcount_keeps
  | windowAccess => exact execWindowAccess_keeps
  | timeIncr => exact execTimeIncr_keeps
  | timeStepNs => exact execTimeStepNs_keeps
  | offsetStepApply => exact execOffsetStepApply_keeps
  | timeMasterPort => exact execTimeMasterPort_keeps
  | timeNowSec => exact execTimeNowSec_keeps
  | syncSend => exact execSyncSend_keeps
  | syncMessage => exact execSyncMessage_keeps
  | pdelayInitiate => exact execPdelayInitiate_keeps
  | pdelayReq => exact execPdelayReq_keeps
  | pdelayResp => exact execPdelayResp_keeps
  | syncLoss => exact execSyncLoss_keeps
  | sealVote => exact execSealVote_keeps
  | deltaWaitExpiry => exact execDeltaWaitExpiry_keeps
  | vote => exact execVote_keeps
  | commit => exact execCommit_keeps
  | restoreComplete => exact execRestoreComplete_keeps
  | rolled => exact execRolled_keeps
  | rolledResend => exact execRolledResend_keeps
  | resume => exact execResume_keeps
  | ready => exact execReady_keeps
  | deltaPageSend => exact execDeltaPageSend_keeps
  | deltaPageReceive => exact execDeltaPageReceive_keeps
  | deltaPageAck => exact execDeltaPageAck_keeps
  | fillingPageSend => exact execFillingPageSend_keeps
  | mergeComplete => exact execMergeComplete_keeps
  | sealAdoptCmd => exact execSealAdoptCmd_keeps
  | adoptionPullComplete => exact execAdoptionPullComplete_keeps
  | sealBuddy => exact execSealBuddy_keeps
  | heartbeatSend => exact execHeartbeatSend_keeps
  | heartbeat => exact execHeartbeat_keeps
  | neighbourMiss => exact execNeighbourMiss_keeps
  | report => exact execReport_keeps
  | probeTimeout => exact execProbeTimeout_keeps
  | probeAnswer => exact execProbeAnswer_keeps
  | reject _ _ status => exact execReject_keeps (_status := status)
  | arbWaitExpiry => exact execArbWaitExpiry_keeps
  | faultNotice => exact execFaultNotice_keeps
  | stewardCycleEnd => exact execStewardCycleEnd_keeps
  | stateCopy => exact execStateCopy_keeps
  | stateCopyMissing => exact execStateCopyMissing_keeps
  | clvStwCmd => exact execClvStwCmd_keeps
  | powerOn => exact execPowerOn_keeps
  | porstnAssert => exact execPorstnAssert_keeps
  | porstnHeld => exact execPorstnHeld_keeps
  | porstnRelease => exact execPorstnRelease_keeps
  | fccWatchdogExpiry => exact execFccWatchdogExpiry_keeps
  | thermalTrip => exact execThermalTrip_keeps
  | thermalTripClear => exact execThermalTripClear_keeps
  | warmReset => exact execWarmReset_keeps
  | leaveRecoveryBoot => exact execLeaveRecoveryBoot_keeps
  | pcieFundamentalReset => exact execPcieFundamentalReset_keeps
  | rstDomCmd => exact execRstDomCmd_keeps
  | domainResetExit => exact execDomainResetExit_keeps
  | bringupStageEnd => exact execBringupStageEnd_keeps
  | pwrGoodFall => exact execPwrGoodFall_keeps
  | pwrGoodTimeout => exact execPwrGoodTimeout_keeps
  | plannedTimerExpiry => exact execPlannedTimerExpiry_keeps
  | gatekeeperRequest => exact execGatekeeperRequest_keeps
  | statusReply => exact execStatusReply_keeps
  | replyReceive => exact execReplyReceive_keeps
  | rstImgData => exact execRstImgData_keeps
  | imgErase => exact execImgErase_keeps
  | imgCheck => exact execImgCheck_keeps
  | imgEraseDone => exact execImgEraseDone_keeps
  | imgCheckDone => exact execImgCheckDone_keeps
  | droopStretch => exact execDroopStretch_keeps
  | powerCapOvershoot => exact execPowerCapOvershoot_keeps
  | pwrCapW => exact execPwrCapW_keeps
  | ledgerRecord => exact execLedgerRecord_keeps
  | ledgerQueueDrain => exact execLedgerQueueDrain_keeps
  | flashProgram => exact execFlashProgram_keeps
  | ldgFlushExpiry => exact execLdgFlushExpiry_keeps
  | flashEraseDone => exact execFlashEraseDone_keeps
  | ldgClear => exact execLdgClear_keeps
  | ldgOvr => exact execLdgOvr_keeps
  | tallyStart => exact execTallyStart_keeps
  | tallyStop => exact execTallyStop_keeps
  | tallyClearLanes => exact execTallyClearLanes_keeps
  | tallyChunkRead => exact execTallyChunkRead_keeps
  | tallyScanEnd => exact execTallyScanEnd_keeps
  | tallyPeriod => exact execTallyPeriod_keeps
  | tlyLane => exact execTlyLane_keeps
  | odapOpen => exact execOdapOpen_keeps
  | odapClose => exact execOdapClose_keeps
  | sessionIdleTimeout => exact execSessionIdleTimeout_keeps
  | request => exact execRequest_keeps
  | relayReq => exact execRelayReq_keeps
  | relayResp => exact execRelayResp_keeps
  | relayTimeout => exact execRelayTimeout_keeps
  | probe => exact execProbe_keeps
  | status => exact execStatus_keeps
  | statusBroadcast => exact execStatusBroadcast_keeps
  | mboxGo => exact execMboxGo_keeps
  | vc0MgmtRequest => exact execVc0MgmtRequest_keeps
  | vc0MgmtResponse => exact execVc0MgmtResponse_keeps
  | vc0MgmtTimeout => exact execVc0MgmtTimeout_keeps
  | keyWrite => exact execKeyWrite_keeps
  | mgtKeyFabSel => exact execMgtKeyFabSel_keeps
  | plcaBeaconLoss => exact execPlcaBeaconLoss_keeps
  | registerWrite => exact execRegisterWrite_keeps
  | frzAt => exact execFrzAt_keeps
  | freezeFire => exact execFreezeFire_keeps
  | frzPodGo => exact execFrzPodGo_keeps
  | trcFccMark => exact execTrcFccMark_keeps
  | traceRingDrain => exact execTraceRingDrain_keeps
  | lifeSample => exact execLifeSample_keeps
  | lifeSave => exact execLifeSave_keeps
  | marginTestStart => exact execMarginTestStart_keeps
  | marginStepDone => exact execMarginStepDone_keeps
  | timeCounterTick => exact execTimeCounterTick_keeps
  | flitCrcFailure => exact execFlitCrcFailure_keeps
  | fecAligned => exact execFecAligned_keeps
  | clockLockAcquired => exact execClockLockAcquired_keeps
  | pwrGoodRise => exact execPwrGoodRise_keeps
  | standbyPowerLoss => exact execStandbyPowerLoss_keeps
  | orderlyShutdown => exact execOrderlyShutdown_keeps
  | policyClamp => exact execPolicyClamp_keeps
  | powerCapHold => exact execPowerCapHold_keeps
  | penaltyPointDecay => exact execPenaltyPointDecay_keeps
  | delayedRollbackStart => exact execDelayedRollbackStart_keeps
  | pcieLinkUpOrDown => exact execPcieLinkUpOrDown_keeps
  | aerUncorrectableError => exact execAerUncorrectableError_keeps
  | atsInvalidation => exact execAtsInvalidation_keeps
  | vfEnableSet => exact execVfEnableSet_keeps
  | perstRelease => exact execPerstRelease_keeps
  | rcRead => exact execRcRead_keeps
  | hbmRefresh => exact execHbmRefresh_keeps

/-- No command touches the queue. -/
theorem pending_not_reached (c : Instr) : plPending ∉ reaches c := by
  have h : (reaches c).contains plPending = false := by cases c <;> rfl
  simpa using h

theorem exec_pending {c : Instr} {s t : State} (h : exec c s = .next t) : t.pending = s.pending :=
  ((exec_keeps c s t h).same plPending (pending_not_reached c) fun _ => by decide).symm

/-- The queue is no part of the form. -/
theorem wf_setPending {s : State} (h : Wf s) (l : List Instr) : Wf { s with pending := l } := ⟨h.1, h.2, h.3, h.4, h.5, h.6, h.7, h.8, h.9⟩

/-- Settles O1: by the definition of a step. -/
theorem stepRunsFrontCommand : Obligations.StepRunsFrontCommand := by
  refine ⟨fun c rest s => rfl, fun s hidle => ?_⟩
  rw [step, hidle]

/-- Settles O4: every table is empty at reset. -/
theorem resetHasForm : Obligations.ResetHasForm := ⟨rfl, rfl, rfl, rfl, rfl, rfl, rfl, rfl, rfl⟩

/-- Settles O3: the law of each command keeps the form, and taking it from the queue changes nothing of it. -/
theorem stepKeepsForm : Obligations.StepKeepsForm := by
  intro s t hwf hstep
  unfold step at hstep
  split at hstep
  next => cases hstep; exact hwf
  next c rest _ => exact (exec_keeps c _ t hstep).wf (wf_setPending hwf rest)

/-- Settles O5: the law of each command goes onward and never reaches the queue. -/
theorem everyCommandGoesOn : Obligations.EveryCommandGoesOn := by
  intro c s
  obtain ⟨t, ht⟩ := exec_next c s
  exact ⟨t, ht, exec_pending ht, (exec_keeps c s t ht).onward⟩

/-! ### A journal copy that ends after the run (R244, R257) -/

/-- A partition whose run has ended and whose buddy's copy is Current, with one write still waiting for its page's
journal copy. -/
def copyAfterRun : State :=
  (State.reset.wr R.SEAL_BUDDY_STATE 0 bCurrent).modPart 0 fun q => { q with held := [{}] }

/-- The write lands between steps, so the buddy's copy is Behind. -/
theorem journalCopy_copyAfterRun :
    Does (.journalCopy 0 0) copyAfterRun fun t => t.rd R.SEAL_BUDDY_STATE 0 = bBehind := by
  refine ⟨_, rfl, ?_⟩
  have hlanded : (jnlCopyDone copyAfterRun 0 0).rd R.SEAL_BUDDY_STATE 0 = bBehind := by decide +kernel
  exact ((transfersLanded_keeps Sub.rfl (Keeps.refl _ _)).rd R.SEAL_BUDDY_STATE 0 (by decide)).trans hlanded

/-- Refutes O2: a journal copy whose run has ended lands its write between steps, which sets the buddy state Behind, and
the entry 0x6102 is not listed for it. -/
theorem not_commandsTouchOnlyTheirPlaces : ¬ Obligations.CommandsTouchOnlyTheirPlaces := by
  intro h
  obtain ⟨t, ht, hbehind⟩ := journalCopy_copyAfterRun
  obtain ⟨-, -, hentries⟩ := h _ _ t ht
  have hsame := hentries R.SEAL_BUDDY_STATE 0 (by rw [odPlace_odKey, touches]; decide) (by decide)
  have hcurrent : copyAfterRun.rd R.SEAL_BUDDY_STATE 0 = bCurrent := by rw [copyAfterRun, rd_modPart, rd_wr_same]; rfl
  rw [hbehind, hcurrent] at hsame
  exact absurd hsame (by decide)

end Sys2Proof.Machine
end

section
/-! The layouts of R123 and R147 to R149: a field of a packed word read back at its place, and the bytes of a number. -/

namespace Sys2Proof.Machine

open Sys2Proof

/-! ### Fields of a packed word -/

/-- The bits that a list of fields takes. -/
def packWidth (l : List (Nat × Nat)) : Nat := (l.map (·.1)).sum

theorem packBits_cons (w v : Nat) (l : List (Nat × Nat)) : packBits ((w, v) :: l) = v % 2 ^ w + 2 ^ w * packBits l := rfl

theorem packBits_lt (l : List (Nat × Nat)) : packBits l < 2 ^ packWidth l := by
  induction l with
  | nil => simp [packBits, packWidth]
  | cons f l ih =>
    obtain ⟨w, v⟩ := f
    have hv : v % 2 ^ w < 2 ^ w := Nat.mod_lt _ (by positivity)
    calc packBits ((w, v) :: l) < 2 ^ w * (packBits l + 1) := by rw [packBits_cons]; linarith
      _ ≤ 2 ^ w * 2 ^ packWidth l := Nat.mul_le_mul_left _ ih
      _ = 2 ^ packWidth ((w, v) :: l) := by simp [packWidth, pow_add]

theorem packBits_lt_of_width {l : List (Nat × Nat)} {n : Nat} (h : packWidth l = n) : packBits l < 2 ^ n := h ▸ packBits_lt l

/-- The first field stands at the least significant bits. -/
theorem bits_packBits_head (w v : Nat) (l : List (Nat × Nat)) : bits (packBits ((w, v) :: l)) 0 w = v % 2 ^ w := by
  simp [bits, packBits_cons]

/-- Past the first field stand the others. -/
theorem bits_packBits_tail {w lo : Nat} (v n : Nat) (l : List (Nat × Nat)) (h : w ≤ lo) :
    bits (packBits ((w, v) :: l)) lo n = bits (packBits l) (lo - w) n := by
  have hpos : 0 < 2 ^ w := by positivity
  have hsplit : 2 ^ lo = 2 ^ w * 2 ^ (lo - w) := by rw [← pow_add, Nat.add_sub_cancel' h]
  rw [bits, bits, packBits_cons, hsplit, ← Nat.div_div_eq_div_mul, Nat.add_mul_div_left _ _ hpos,
    Nat.div_eq_of_lt (Nat.mod_lt _ hpos), Nat.zero_add]

theorem bitOf_eq_bits (n k : Nat) : bitOf n k = (bits n k 1 == 1) := rfl

theorem b2n_mod_two_beq (b : Bool) : (b2n b % 2 == 1) = b := by cases b <;> rfl

/-! ### Bytes of a number (R5) -/

@[simp] theorem length_leBytes (n v : Nat) : (leBytes n v).length = n := by
  induction n generalizing v with
  | zero => rfl
  | succ n ih => simp [leBytes, ih]

theorem leVal_leBytes (n v : Nat) : leVal (leBytes n v) = v % 256 ^ n := by
  induction n generalizing v with
  | zero => simp [leBytes, leVal, Nat.mod_one]
  | succ n ih => simp [leBytes, leVal, ih, pow_succ', Nat.mod_mul]

theorem leVal_leBytes_of_lt {n v : Nat} (h : v < 2 ^ (8 * n)) : leVal (leBytes n v) = v := by
  rw [leVal_leBytes, Nat.mod_eq_of_lt (by rwa [pow_mul] at h)]

/-- A slice that is all of a string. -/
theorem sliceZ_all {bs : List Byte} {n : Nat} (h : bs.length = n) : sliceZ bs 0 n = bs := by
  subst h
  simp [sliceZ]

/-! ### The header and the tag (R148, R149) -/

theorem headerWord_lt (p : Packet) : headerWord p < 2 ^ 256 := by
  unfold headerWord
  exact packBits_lt_of_width (by simp [packWidth])

theorem packetOfWord_headerWord {p : Packet} (hoffset : p.offset < 2 ^ 47) (hdst : p.dst < 2 ^ 17) (hsrc : p.src < 2 ^ 17)
    (hvc : p.vc < 8) (hkind : p.kind < 16) (hlen : p.len < 16) (hdlen : p.dlen < 2 ^ 12) (hepoch : p.epoch < 2)
    (hhops : p.hops < 256) (hbirth : p.birth < 65536) (heseq : p.eseq < 65536) (hincarn : p.incarn < 65536)
    (hdtag : p.dtag < 65536) (hspart : p.spart < 128) (htgen : p.tgen < 16) (hfunc : p.func < 1024) (hrid : p.rid < 65536)
    (hsched : p.sched < 4096) (hresv : p.resv < 2 ^ 26) : packetOfWord (headerWord p) p.data = p := by
  obtain ⟨⟩ := p
  simp only at *
  simp (disch := omega) only [packetOfWord, headerWord, bitOf_eq_bits, bits_packBits_tail, Nat.reduceSub, bits_packBits_head,
    Nat.mod_eq_of_lt, pow_one, b2n_mod_two_beq]

theorem tagWord_lt (g : FlitTag) : tagWord g < 2 ^ 64 := packBits_lt_of_width rfl

theorem tagOfWord_tagWord {g : FlitTag} (hvc : g.vc < 8) (hindex : g.index < 16) (hresv : g.resv < 2 ^ 55) :
    tagOfWord (tagWord g) = g := by
  obtain ⟨⟩ := g
  simp only at *
  simp (disch := omega) only [tagOfWord, tagWord, bitOf_eq_bits, bits_packBits_tail, Nat.reduceSub, bits_packBits_head,
    Nat.mod_eq_of_lt, pow_one, b2n_mod_two_beq]

/-! ### The DATA flit (R123) -/

theorem flitWord_lt (f : Flit) : flitWord f < 2 ^ 64 := packBits_lt_of_width rfl

section
variable {f : Flit} {bs : List Byte} (hpay : f.payload = .data bs) (hbs : bs.length = 240)
include hpay hbs

theorem flitBytes_data : flitBytes f = leBytes 8 (flitWord f) ++ (bs ++ leBytes 8 f.crc) := by
  rw [flitBytes, flitBody, hpay, payloadBytes, sliceZ_all hbs, List.append_assoc]

theorem length_flitBytes : (flitBytes f).length = 256 := by simp [flitBytes_data hpay hbs, hbs]

/-- The three parts of a flit's bytes. -/
theorem flitBytes_parts (hcrc : f.crc < 2 ^ 64) :
    leField (flitBytes f) 0 8 = flitWord f ∧ sliceZ (flitBytes f) 8 240 = bs ∧ leField (flitBytes f) 248 8 = f.crc := by
  rw [flitBytes_data hpay hbs]
  refine ⟨?_, ?_, ?_⟩
  · rw [leField, List.drop_zero, List.take_left' (length_leBytes ..), leVal_leBytes_of_lt (flitWord_lt f)]
  · rw [sliceZ, List.drop_left' (length_leBytes ..), List.take_left' hbs]
    simp [hbs]
  · rw [leField, ← List.append_assoc, List.drop_left' (by simp [hbs]), List.take_of_length_le (by simp),
      leVal_leBytes_of_lt hcrc]

theorem flitOfBytes_flitBytes (htype : f.type < 16) (hseq : f.seq < 4096) (hack : f.ack < 4096) (hcrvc : f.crvc < 8)
    (hcrcnt : f.crcnt < 256) (hresv : f.resv < 2 ^ 24) (hcrc : f.crc < 2 ^ 64) : flitOfBytes (flitBytes f) = f := by
  obtain ⟨hword, hdata, hlast⟩ := flitBytes_parts hpay hbs hcrc
  simp only [flitOfBytes, hword, hdata, hlast, ← hpay]
  obtain ⟨⟩ := f
  simp only at *
  simp (disch := omega) only [flitWord, bitOf_eq_bits, bits_packBits_tail, Nat.reduceSub, bits_packBits_head,
    Nat.mod_eq_of_lt, pow_one, b2n_mod_two_beq]

end

/-- Settles O27: each field is read back from its place in the packed word. -/
theorem wordsOnALink : Obligations.WordsOnALink := by
  refine ⟨?header, fun g hvc hindex hresv => ⟨tagWord_lt g, tagOfWord_tagWord hvc hindex hresv⟩, ?flit⟩
  case header =>
    intro p hoffset hdst hsrc hvc hkind hlen hdlen hepoch hhops hbirth heseq hincarn hdtag hspart htgen hfunc hrid hsched hresv
    exact ⟨headerWord_lt p, packetOfWord_headerWord hoffset hdst hsrc hvc hkind hlen hdlen hepoch hhops hbirth heseq hincarn
      hdtag hspart htgen hfunc hrid hsched hresv⟩
  case flit =>
    intro f bs htype hseq hack hcrvc hcrcnt hresv hpay hbs hcrc
    exact ⟨length_flitBytes hpay hbs, flitOfBytes_flitBytes hpay hbs htype hseq hack hcrvc hcrcnt hresv hcrc⟩

end Sys2Proof.Machine
end

section
/-! The release of a segment and the control slot (R67 to R90): what each leaves of the blocks, and the verdicts,
counters and pages that the end of a step changes. -/

namespace Sys2Proof.Machine

open Sys2Proof

theorem does_intro {c : Instr} {s t : State} {P : State → Prop} (h : exec c s = .next t) (hp : P t) : Does c s P := ⟨t, h, hp⟩

/-! ### Fields that a law of change leaves -/

section
variable {T : List Nat} {s t : State} (h : Keeps T s t)
include h

theorem Keeps.time_eq (hp : T.contains 4 = false) : t.time = s.time := (h.at 4 hp (by decide)).symm

theorem Keeps.now_eq (hp : T.contains 4 = false) : t.now = s.now := by rw [State.now, State.now, h.time_eq hp]

theorem Keeps.part_eq (hp : T.contains 6 = false) (p : Nat) : t.part p = s.part p := by
  rw [State.part, State.part, h.parts hp]

theorem Keeps.partOf_eq (hp : (T.contains 0x3101 || T.contains 31) = false) (b : Nat) : t.partOf b = s.partOf b :=
  h.rd R.CMP_BLOCK_PART b hp

theorem Keeps.pstate_eq (hp : (T.contains 0x3000 || T.contains 31) = false) (p : Nat) : t.pstate p = s.pstate p :=
  h.rd R.CMP_PLAN_STATE p hp

theorem Keeps.blocksOf_eq (hp : (T.contains 0x3101 || T.contains 31) = false) (p : Nat) : t.blocksOf p = s.blocksOf p := by
  simp only [State.blocksOf, h.partOf_eq hp]

end

/-! ### Changes of one block -/

/-- Only one block is changed. -/
def OnlyBlock (b : Nat) (s t : State) : Prop := ∀ c, c ≠ b → t.block c = s.block c

theorem OnlyBlock.trans {b : Nat} {s t u : State} (h : OnlyBlock b s t) (h' : OnlyBlock b t u) : OnlyBlock b s u :=
  fun c hc => (h' c hc).trans (h c hc)

theorem OnlyBlock.of_keeps {T : List Nat} {s t : State} (b : Nat) (h : Keeps T s t) (h5 : T.contains 5 = false) :
    OnlyBlock b s t := fun c _ => h.block h5 c

theorem onlyBlock_modBlock (s : State) (b : Nat) (f : Block → Block) : OnlyBlock b s (s.modBlock b f) :=
  fun _ hc => block_modBlock_other s f hc

/-- A trace record changes at most the FIFO of its block (R389). -/
theorem traceRec_block (s : State) (b bit unit op seq : Nat) (isEnd : Bool) :
    ∃ l, (traceRec s b bit unit op seq isEnd).block b = { s.block b with trace := l } := by
  unfold traceRec traceOf
  split
  · exact ⟨_, rfl⟩
  · split
    · exact ⟨_, rfl⟩
    · exact ⟨_, block_modBlock_same ..⟩

theorem onlyBlock_traceRec (s : State) (b bit unit op seq : Nat) (isEnd : Bool) :
    OnlyBlock b s (traceRec s b bit unit op seq isEnd) := by
  unfold traceRec traceOf
  split
  · exact fun _ _ => rfl
  · split
    · exact fun _ _ => rfl
    · exact onlyBlock_modBlock s b _

/-! ### Release (R67, R68) -/

/-- The block released is at the segment's start, but for its trace. -/
theorem release_block (s : State) (b : Nat) (f : Block → Block) :
    ∃ l, (release s b f).block b = { segStart (f (s.block b)) s.now with trace := l } := by
  obtain ⟨l, hl⟩ := traceRec_block (s.modBlock b fun k => segStart (f k) s.now) b 0
    ((s.modBlock b fun k => segStart (f k) s.now).leadSeq b) (s.rd R.SEAL_RUN (s.partOf b)) (s.rd R.SEAL_STEP (s.partOf b)) false
  exact ⟨l, by rw [release, hl, block_modBlock_same]⟩

theorem onlyBlock_release (s : State) (b : Nat) (f : Block → Block) : OnlyBlock b s (release s b f) :=
  (onlyBlock_modBlock s b _).trans (onlyBlock_traceRec _ _ _ _ _ _ _)

theorem release_mem (s : State) (b : Nat) (f : Block → Block) : (release s b f).mem = s.mem :=
  (release_keeps Sub.rfl (Keeps.refl _ s)).mem (by decide)

/-- What the first release of a step does for the partition, or nothing. -/
theorem firstRelease_keeps (s : State) (p : Nat) :
    Keeps [6, 16, 0x3010, 0x3011, 0x7002] s (if s.stepFresh p then stepStart s p else s) :=
  Keeps.ite (stepStart_keeps Sub.rfl (Keeps.refl _ s)) (Keeps.refl _ s)

section
variable {s : State} {b : Nat} {t0 : Int} (ht0 : (s.part (s.partOf b)).t0Ns = some t0) (hpart : s.partOf b < 128)
  (hrun : s.pstate (s.partOf b) = psRunning) (hup : s.unitUp (uBlock b) = true) (hended : (s.block b).ended = false)
include ht0 hpart hrun hup hended

/-- SEGMENT_RELEASE in a Running partition whose step has its instant. -/
theorem exec_segmentRelease :
    exec (.segmentRelease b) s =
      if (s.block b).released = false then
        if s.now < t0 then .next s
        else .next (watchReset (release (if s.stepFresh (s.partOf b) then stepStart s (s.partOf b) else s) b fun k =>
          blockStart k (descLine (s.img (s.partOf b)) (s.planBlock b))) b)
      else if (s.block b).syncDone = true ∧ t0 + (syncOffset (s.img (s.partOf b)) (s.block b).segment : Nat) ≤ s.now then
        .next (release s b fun k => { k with segment := k.segment + 1, syncDone := false })
      else .next s := by
  have hok : ¬ (128 ≤ s.partOf b ∨ s.pstate (s.partOf b) ≠ psRunning ∨ s.unitUp (uBlock b) = false ∨ (s.block b).ended = true) := by
    simp [hpart, hrun, hup, hended]
  simp only [exec, execSegmentRelease, ht0, if_neg hok]

theorem segmentRelease_first (hrel : (s.block b).released = false) (hnow : t0 ≤ s.now) :
    Does (.segmentRelease b) s fun t =>
      (t.block b).released = true ∧ (t.block b).segment = 0 ∧ (t.block b).arrivals = [] ∧ (t.block b).seqNo = 0 ∧
        (t.block b).releaseNs = s.now ∧ (∀ e ∈ (t.block b).consumers, e.2.expected = 0) ∧
        (∀ c, c ≠ b → t.block c = s.block c) ∧ t.mem = s.mem := by
  have hfirst := firstRelease_keeps s (s.partOf b)
  refine ⟨_, by rw [exec_segmentRelease ht0 hpart hrun hup hended, if_pos hrel, if_neg (not_lt.2 hnow)], ?_⟩
  generalize (if s.stepFresh (s.partOf b) then stepStart s (s.partOf b) else s) = s1 at hfirst
  generalize descLine (s.img (s.partOf b)) (s.planBlock b) = line
  have hwatch (u : State) : (watchReset u b).block = u.block ∧ (watchReset u b).mem = u.mem := ⟨rfl, rfl⟩
  obtain ⟨l, hl⟩ := release_block s1 b fun k => blockStart k line
  rw [(hwatch _).1, (hwatch _).2, hl, release_mem]
  refine ⟨rfl, rfl, rfl, rfl, hfirst.now_eq (by decide), ?_,
    (OnlyBlock.of_keeps b hfirst (by decide)).trans (onlyBlock_release _ _ _), hfirst.mem (by decide)⟩
  intro e he
  simp only [segStart, blockStart, List.map_map, List.mem_map] at he
  obtain ⟨x, -, rfl⟩ := he
  rfl

theorem segmentRelease_next (hrel : (s.block b).released = true) (hsync : (s.block b).syncDone = true)
    (hnow : t0 + (syncOffset (s.img (s.partOf b)) (s.block b).segment : Nat) ≤ s.now) :
    Does (.segmentRelease b) s fun t =>
      (t.block b).segment = (s.block b).segment + 1 ∧ (t.block b).syncDone = false ∧
        (t.block b).releaseNs = s.now ∧ (t.block b).arrivals = (s.block b).arrivals ∧
        (∀ c, c ≠ b → t.block c = s.block c) ∧ t.mem = s.mem := by
  refine ⟨_, by rw [exec_segmentRelease ht0 hpart hrun hup hended, if_neg (by simp [hrel]), if_pos ⟨hsync, hnow⟩], ?_⟩
  obtain ⟨l, hl⟩ := release_block s b fun k => { k with segment := k.segment + 1, syncDone := false }
  rw [hl]
  exact ⟨rfl, rfl, rfl, rfl, onlyBlock_release _ _ _, release_mem ..⟩

theorem segmentRelease_early (hrel : (s.block b).released = false) (hnow : s.now < t0) :
    Does (.segmentRelease b) s fun t => t = s :=
  ⟨_, by rw [exec_segmentRelease ht0 hpart hrun hup hended, if_pos hrel, if_pos hnow], rfl⟩

end

/-! ### A bundle issued (R76, R86, R87) -/

/-- A block with the bundle of one sequencer's buffer added to its digest, where the sequencer is active. -/
def Block.addDigest (k : Block) (up : Bool) (c : SeqId) : Block :=
  match k.bundle c with
  | some f => if up then k.modSeq c fun q => { q with digest := crc64Add q.digest (f.bytes.take 58) } else k
  | none => k

/-- A block with both digests advanced. -/
def Block.addDigests (k : Block) (upA upB : Bool) : Block := (k.addDigest upA .a).addDigest upB .b

theorem addDigest_a_eq (k : Block) (up : Bool) : ∃ d, k.addDigest up .a = { k with seqA := { k.seqA with digest := d } } := by
  unfold Block.addDigest
  split
  · split <;> exact ⟨_, rfl⟩
  · exact ⟨_, rfl⟩

theorem addDigest_b_eq (k : Block) (up : Bool) : ∃ d, k.addDigest up .b = { k with seqB := { k.seqB with digest := d } } := by
  unfold Block.addDigest
  split
  · split <;> exact ⟨_, rfl⟩
  · exact ⟨_, rfl⟩

/-- The digests are all that adding to them changes. -/
theorem addDigests_eq (k : Block) (upA upB : Bool) :
    ∃ x y, k.addDigests upA upB = { k with seqA := { k.seqA with digest := x }, seqB := { k.seqB with digest := y } } := by
  obtain ⟨x, hx⟩ := addDigest_a_eq k upA
  obtain ⟨y, hy⟩ := addDigest_b_eq (k.addDigest upA .a) upB
  exact ⟨x, y, by rw [Block.addDigests, hy, hx]⟩

theorem addDigests_digestA {k : Block} {f : Fetched} (upB : Bool) (h : k.bundle .a = some f) :
    (k.addDigests true upB).seqA.digest = crc64Add k.seqA.digest (f.bytes.take 58) := by
  obtain ⟨d, hd⟩ := addDigest_b_eq (k.addDigest true .a) upB
  rw [Block.addDigests, hd, Block.addDigest, h]
  rfl

theorem addDigests_digestB {k : Block} {f : Fetched} (upA : Bool) (h : k.bundle .b = some f) :
    (k.addDigests upA true).seqB.digest = crc64Add k.seqB.digest (f.bytes.take 58) := by
  obtain ⟨d, hd⟩ := addDigest_a_eq k upA
  have hb : (k.addDigest upA .a).bundle .b = some f := by rw [hd]; exact h
  rw [Block.addDigests, Block.addDigest, hb, hd]
  rfl

/-- What issuing a bundle leaves of a block: all but the digests, SEQ, the place in the program and the region mover. -/
theorem issueBundle_block (s : State) (b : Nat) :
    ∃ ls pc cs, (issueBundle s b).block b =
      { (s.block b).addDigests (s.seqUp b .a) (s.seqUp b .b) with
        seqNo := ((s.block b).seqNo + 1) % 2 ^ 24, loops := ls, pc := pc, consumers := cs } :=
  ⟨_, _, _, block_modBlock_same ..⟩

theorem onlyBlock_issueBundle (s : State) (b : Nat) : OnlyBlock b s (issueBundle s b) := onlyBlock_modBlock s b _

theorem issueBundle_seqNo (s : State) (b : Nat) :
    ((issueBundle s b).block b).seqNo = ((s.block b).seqNo + 1) % 2 ^ 24 := by
  obtain ⟨ls, pc, cs, h⟩ := issueBundle_block s b
  rw [h]

theorem issueBundle_arrivals (s : State) (b : Nat) : ((issueBundle s b).block b).arrivals = (s.block b).arrivals := by
  obtain ⟨ls, pc, cs, h⟩ := issueBundle_block s b
  obtain ⟨x, y, hk⟩ := addDigests_eq (s.block b) (s.seqUp b .a) (s.seqUp b .b)
  rw [h, hk]

theorem issueBundle_digestA {s : State} {b : Nat} {f : Fetched} (hup : s.seqUp b .a = true)
    (hf : (s.block b).bundle .a = some f) :
    ((issueBundle s b).block b).seqA.digest = crc64Add (s.block b).seqA.digest (f.bytes.take 58) := by
  obtain ⟨ls, pc, cs, h⟩ := issueBundle_block s b
  rw [h, hup]
  exact addDigests_digestA _ hf

theorem issueBundle_digestB {s : State} {b : Nat} {f : Fetched} (hup : s.seqUp b .b = true)
    (hf : (s.block b).bundle .b = some f) :
    ((issueBundle s b).block b).seqB.digest = crc64Add (s.block b).seqB.digest (f.bytes.take 58) := by
  obtain ⟨ls, pc, cs, h⟩ := issueBundle_block s b
  rw [h, hup]
  exact addDigests_digestB _ hf

theorem ctlIssue_of_ready {s : State} {b : Nat} (hcan : canIssue s b = true) (htaken : slotsTaken (s.block b) = true)
    (f : State → State) : ctlIssue s b f = f (issueBundle s b) := if_pos ⟨hcan, htaken⟩

theorem ctlIssue_of_idle {s : State} {b : Nat} (h : canIssue s b = false ∨ slotsTaken (s.block b) = false)
    (f : State → State) : ctlIssue s b f = s := by
  refine if_neg fun ⟨hcan, htaken⟩ => ?_
  obtain h | h := h
  · exact absurd (hcan.symm.trans h) (by decide)
  · exact absurd (htaken.symm.trans h) (by decide)

/-! ### The end of a segment (R71, R87) -/

/-- The end of a segment leaves of a block all but its reports and its trace. -/
theorem segEnd_block (s : State) (b : Nat) :
    ∃ x y l, (segEnd s b).block b =
      { s.block b with seqA := { (s.block b).seqA with report := x }, seqB := { (s.block b).seqB with report := y }, trace := l } := by
  have hslack : (slack s b).block b = s.block b := (slack_keeps Sub.rfl (Keeps.refl _ s)).block (by decide) b
  unfold segEnd
  dsimp only
  obtain ⟨l, hl⟩ := traceRec_block _ b 0 _ (s.rd R.SEAL_RUN (s.partOf b)) (s.rd R.SEAL_STEP (s.partOf b)) true
  rw [hl, block_modBlock_same, hslack]
  exact ⟨_, _, _, rfl⟩

theorem onlyBlock_segEnd (s : State) (b : Nat) : OnlyBlock b s (segEnd s b) :=
  ((OnlyBlock.of_keeps b (slack_keeps Sub.rfl (Keeps.refl _ s)) (by decide)).trans (onlyBlock_modBlock _ b _)).trans
    (onlyBlock_traceRec _ _ _ _ _ _ _)

theorem segEnd_seqNo (s : State) (b : Nat) : ((segEnd s b).block b).seqNo = (s.block b).seqNo := by
  obtain ⟨x, y, l, h⟩ := segEnd_block s b
  rw [h]

theorem segEnd_arrivals (s : State) (b : Nat) : ((segEnd s b).block b).arrivals = (s.block b).arrivals := by
  obtain ⟨x, y, l, h⟩ := segEnd_block s b
  rw [h]

/-! ### What a control slot's effect leaves (R83) -/

/-- A bundle of a block is issued: its SEQ advances, and neither another block nor memory changes. -/
def Issued (b : Nat) (s t : State) : Prop :=
  (t.block b).seqNo = ((s.block b).seqNo + 1) % 2 ^ 24 ∧ (∀ c, c ≠ b → t.block c = s.block c) ∧ t.mem = s.mem

theorem issued_issueBundle (s : State) (b : Nat) : Issued b s (issueBundle s b) :=
  ⟨issueBundle_seqNo s b, onlyBlock_issueBundle s b, rfl⟩

theorem Issued.modBlock {b : Nat} {s t : State} (h : Issued b s t) {f : Block → Block} (hf : ∀ k, (f k).seqNo = k.seqNo) :
    Issued b s (t.modBlock b f) := by
  obtain ⟨hseq, hother, hmem⟩ := h
  exact ⟨by rw [block_modBlock_same, hf, hseq], fun c hc => (block_modBlock_other _ _ hc).trans (hother c hc), hmem⟩

theorem Issued.segEnd {b : Nat} {s t : State} (h : Issued b s t) : Issued b s (segEnd t b) := by
  obtain ⟨hseq, hother, hmem⟩ := h
  exact ⟨(segEnd_seqNo t b).trans hseq, fun c hc => (onlyBlock_segEnd t b c hc).trans (hother c hc),
    ((segEnd_keeps Sub.rfl (Keeps.refl _ t)).mem (by decide)).trans hmem⟩

section
variable {s : State} {b : Nat} (w : MovSlot) (hcan : canIssue s b = true) (htaken : slotsTaken (s.block b) = true)
include hcan htaken

theorem ctlNop_of_ready : Does (.ctlNop b w) s fun t => t = issueBundle s b :=
  ⟨_, rfl, ctlIssue_of_ready hcan htaken id⟩

theorem loop_of_ready : Does (.loop b w) s fun t => Issued b s t ∧
    (t.block b).loops.head? = some { first := (t.block b).pc, body := loopBody w, left := loopCount w - 1 } := by
  refine ⟨_, congrArg Host.Outcome.next (ctlIssue_of_ready hcan htaken _), (issued_issueBundle s b).modBlock fun _ => rfl, ?_⟩
  rw [block_modBlock_same]
  rfl

theorem dbase_of_ready : Does (.dbase b w) s fun t => Issued b s t ∧ (t.block b).dbase = dbaseLine w := by
  refine ⟨_, congrArg Host.Outcome.next (ctlIssue_of_ready hcan htaken _), (issued_issueBundle s b).modBlock fun _ => rfl, ?_⟩
  rw [block_modBlock_same]

theorem sync_of_ready : Does (.sync b w) s fun t => Issued b s t ∧ (t.block b).syncDone = true := by
  refine ⟨_, congrArg Host.Outcome.next (ctlIssue_of_ready hcan htaken _), (issued_issueBundle s b).segEnd.modBlock fun _ => rfl, ?_⟩
  rw [block_modBlock_same]

theorem wait_of_ready : Does (.wait b w) s fun t => Issued b s t ∧
    if waitAmt w ≤ (s.block b).arrived (waitCtr w) then
      (t.block b).waiting = none ∧ (t.block b).arrived (waitCtr w) = (s.block b).arrived (waitCtr w) - waitAmt w
    else (t.block b).waiting = some (waitCtr w, waitAmt w) ∧
      (t.block b).arrived (waitCtr w) = (s.block b).arrived (waitCtr w) := by
  refine ⟨_, congrArg Host.Outcome.next (ctlIssue_of_ready hcan htaken _), ?_⟩
  have hissued := (issued_issueBundle s b).modBlock (f := fun k => { k with waiting := some (waitCtr w, waitAmt w) }) fun _ => rfl
  have harr : ((issueBundle s b).block b).arrived (waitCtr w) = (s.block b).arrived (waitCtr w) := by
    rw [Block.arrived, issueBundle_arrivals, Block.arrived]
  generalize hu : ((issueBundle s b).modBlock b fun k => { k with waiting := some (waitCtr w, waitAmt w) }) = u at hissued
  have huwait : (u.block b).waiting = some (waitCtr w, waitAmt w) := by rw [← hu, block_modBlock_same]
  have huarr : (u.block b).arrived (waitCtr w) = (s.block b).arrived (waitCtr w) := by
    rw [← hu, block_modBlock_same, ← harr]
    rfl
  simp only [tryWait, huwait, huarr]
  split
  · refine ⟨hissued.modBlock fun _ => rfl, ?_⟩
    rw [block_modBlock_same]
    exact ⟨rfl, by rw [← huarr]; exact mapGet_mapSet_same ..⟩
  · exact ⟨hissued, huwait, huarr⟩

end

/-- Settles O6: a release starts the block's segment, and a control slot's effect follows the bundle it issues. -/
theorem segmentsAndControlSlots : Obligations.SegmentsAndControlSlots := by
  refine ⟨fun s b t0 ht0 hpart hrun hup hended => ⟨?first, ?next, ?early⟩, fun s b w => ⟨fun hcan htaken => ?issue, ?idle⟩⟩
  case first => exact segmentRelease_first ht0 hpart hrun hup hended
  case next => exact segmentRelease_next ht0 hpart hrun hup hended
  case early => exact segmentRelease_early ht0 hpart hrun hup hended
  case issue =>
    obtain ⟨t, ht, rfl⟩ := ctlNop_of_ready w hcan htaken
    exact ⟨⟨_, ht, issued_issueBundle s b, fun _ => issueBundle_digestA, fun _ => issueBundle_digestB⟩,
      loop_of_ready w hcan htaken, dbase_of_ready w hcan htaken, wait_of_ready w hcan htaken, sync_of_ready w hcan htaken⟩
  case idle =>
    intro hidle c hc
    simp only [List.mem_cons, List.not_mem_nil, or_false] at hc
    obtain rfl | rfl | rfl | rfl | rfl | rfl := hc <;> exact ⟨_, rfl, ctlIssue_of_idle hidle _⟩

/-! ### The end of a step (R83, R85, R252) -/

/-- The block at the end of its step: what is left in the arrival counters is a plan error. -/
def stepLeft (s : State) (b : Nat) : State :=
  let u := segEnd (issueBundle s b) b
  let left := ((s.block b).arrivals.filter fun e => e.2 != 0).length
  if left = 0 then u else ctrError u b left

/-- The block's step ended, and its streams back at their first bundle. -/
def stepOver (s : State) (b : Nat) : State := (stepLeft s b).modBlock b fun k => { k.rewind with ended := true }

theorem segEnd_issueBundle_keeps (s : State) (b : Nat) :
    Keeps [5, 6, 16, 0x3010, 0x3011, 0x7002, 0x8200] s (segEnd (issueBundle s b) b) :=
  segEnd_keeps Sub.rfl (issueBundle_keeps (Sub.of rfl Sub.rfl) (Keeps.refl _ s))

theorem stepOver_keeps (s : State) (b : Nat) :
    Keeps [5, 6, 16, 0x3010, 0x3011, 0x3021, 0x7002, 0x8200] s (stepOver s b) := by
  have h := segEnd_keeps (b := b) (Sub.of rfl Sub.rfl) (issueBundle_keeps (b := b) (Sub.of rfl Sub.rfl)
    (Keeps.refl [5, 6, 16, 0x3010, 0x3011, 0x3021, 0x7002, 0x8200] s))
  exact modBlock_keeps (Sub.of rfl Sub.rfl) (Keeps.ite h (ctrError_keeps (Sub.of rfl Sub.rfl) h))

theorem onlyBlock_stepOver (s : State) (b : Nat) : OnlyBlock b s (stepOver s b) := by
  have hseg := (onlyBlock_issueBundle s b).trans (onlyBlock_segEnd _ b)
  have herr (n : Nat) : OnlyBlock b (segEnd (issueBundle s b) b) (ctrError (segEnd (issueBundle s b) b) b n) :=
    OnlyBlock.of_keeps b (ctrError_keeps Sub.rfl (Keeps.refl _ _)) (by decide)
  refine OnlyBlock.trans ?_ (onlyBlock_modBlock _ b _)
  unfold stepLeft
  dsimp only
  split
  · exact hseg
  · exact hseg.trans (herr _)

/-- One plan error for each arrival counter that is not 0. -/
theorem stepOver_counted {s : State} {b : Nat} (h : ∃ e ∈ (s.block b).arrivals, e.2 ≠ 0) :
    Counted s (stepOver s b) R.CMP_PLAN_ERR_CTR b ((s.block b).arrivals.filter fun e => e.2 != 0).length := by
  have hleft : ((s.block b).arrivals.filter fun e => e.2 != 0).length ≠ 0 := by
    obtain ⟨e, he, hne⟩ := h
    exact Nat.ne_of_gt (List.length_pos_of_mem (List.mem_filter.2 ⟨he, by simpa using hne⟩))
  have hbefore := (segEnd_issueBundle_keeps s b).rd R.CMP_PLAN_ERR_CTR b (by decide)
  have hseal (u : State) (p : Nat) : (doNotSeal u p vPlanErr).rd R.CMP_PLAN_ERR_CTR b = u.rd R.CMP_PLAN_ERR_CTR b :=
    (doNotSeal_keeps Sub.rfl (Keeps.refl _ u)).rd _ _ (by decide)
  rw [Counted, stepOver, rd_modBlock, stepLeft, if_neg hleft, ctrError, hseal, rd_bumpSat_same, hbefore]

/-- STEP_END of a bundle whose slots are taken: with every block of the partition ended it is Stopped for seal. -/
theorem stepEnd_of_ready {s : State} {b : Nat} (hcan : canIssue s b = true) (htaken : slotsTaken (s.block b) = true) :
    stepEnd s b =
      if ((stepOver s b).blocksOf (s.partOf b)).all fun c => ((stepOver s b).block c).ended then
        stepBoundary ((stepOver s b).wr R.CMP_PLAN_STATE (s.partOf b) psStopped) (s.partOf b)
      else stepOver s b := by
  rw [stepEnd, ctlIssue_of_ready hcan htaken]
  simp only [segEnd_arrivals, issueBundle_arrivals]
  rfl

/-- The block itself has ended; the others are as they were. -/
theorem ended_stepOver (s : State) (b c : Nat) : ((stepOver s b).block c).ended = true ↔ c = b ∨ (s.block c).ended = true := by
  by_cases hc : c = b
  · subst hc
    simp [stepOver]
  · simp [hc, onlyBlock_stepOver s b c hc]

theorem allEnded_iff (s : State) (b : Nat) :
    (((stepOver s b).blocksOf (s.partOf b)).all fun c => ((stepOver s b).block c).ended) = true ↔
      ∀ c ∈ s.blocksOf (s.partOf b), c ≠ b → (s.block c).ended = true := by
  rw [(stepOver_keeps s b).blocksOf_eq (by decide), List.all_eq_true]
  exact forall₂_congr fun c _ => by rw [ended_stepOver]; tauto

/-- The new plan state and what the partition sends change neither the blocks nor the error counters. -/
theorem stepBoundary_wr_keeps (u : State) (p v : Nat) :
    Keeps [6, 0x3000] u (stepBoundary (u.wr R.CMP_PLAN_STATE p v) p) :=
  stepBoundary_keeps (Sub.of rfl Sub.rfl) (wr_keeps (Sub.of rfl Sub.rfl) (Keeps.refl _ u))

theorem stepEnd_keeps_stepOver {s : State} {b : Nat} (hcan : canIssue s b = true) (htaken : slotsTaken (s.block b) = true) :
    Keeps [6, 0x3000] (stepOver s b) (stepEnd s b) := by
  rw [stepEnd_of_ready hcan htaken]
  exact Keeps.ite (stepBoundary_wr_keeps ..) (Keeps.refl _ _)

theorem pstate_stepBoundary_wr (u : State) (p v : Nat) (hv : v < 2 ^ 8) :
    (stepBoundary (u.wr R.CMP_PLAN_STATE p v) p).pstate p = v := by
  rw [(stepBoundary_keeps Sub.rfl (Keeps.refl _ _)).pstate_eq (by decide), State.pstate, rd_wr_same]
  exact Nat.mod_eq_of_lt hv

theorem stepEnd_of_taken {s : State} {b : Nat} (w : MovSlot) (hcan : canIssue s b = true)
    (htaken : slotsTaken (s.block b) = true) :
    Does (.stepEnd b w) s fun t => (t.block b).ended = true ∧ (t.block b).seqA.nextSeg = 0 ∧ (t.block b).seqB.nextNo = 0 ∧
      ((∃ e ∈ (s.block b).arrivals, e.2 ≠ 0) →
        Counted s t R.CMP_PLAN_ERR_CTR b ((s.block b).arrivals.filter fun e => e.2 != 0).length) ∧
      (∀ c, c ≠ b → t.block c = s.block c) ∧
      ((∀ c ∈ s.blocksOf (s.partOf b), c ≠ b → (s.block c).ended = true) → t.pstate (s.partOf b) = psStopped) ∧
      ((∃ c ∈ s.blocksOf (s.partOf b), c ≠ b ∧ (s.block c).ended = false) →
        t.pstate (s.partOf b) = s.pstate (s.partOf b)) := by
  refine does_intro (t := stepEnd s b) rfl ?_
  have hkeep := stepEnd_keeps_stepOver hcan htaken
  have hblock : ((stepOver s b).block b) = { ((stepLeft s b).block b).rewind with ended := true } := block_modBlock_same ..
  rw [hkeep.block (by decide) b, hblock]
  refine ⟨rfl, rfl, rfl, fun h => ?_, fun c hc => ?_, fun hall => ?_, fun ⟨c, hmem, hne, hopen⟩ => ?_⟩
  · rw [Counted, hkeep.rd R.CMP_PLAN_ERR_CTR b (by decide)]
    exact stepOver_counted h
  · rw [hkeep.block (by decide) c]
    exact onlyBlock_stepOver s b c hc
  · rw [stepEnd_of_ready hcan htaken, if_pos ((allEnded_iff s b).2 hall)]
    exact pstate_stepBoundary_wr _ _ _ (by decide)
  · rw [stepEnd_of_ready hcan htaken, if_neg fun h => ?_, (stepOver_keeps s b).pstate_eq (by decide)]
    rw [(allEnded_iff s b).1 h c hmem hne] at hopen
    exact absurd hopen (by decide)

/-! ### FINALIZE (R86, R90) -/

theorem issueSlot_of_taken {s : State} {i : Issue} {con : Nat} (h : Taken s i con) (f : State → State) :
    issueSlot s i con f = f (accept s i con).1 := if_pos h

/-- The pages of a mark are final. -/
theorem mem_final_markFinal (s : State) (p page n x : Nat) (hlo : page ≤ x) (hhi : x < page + n) :
    x ∈ ((markFinal s p page n).part p).final := by
  have hx : x ∈ (List.range n).map (page + ·) := List.mem_map.2 ⟨x - page, List.mem_range.2 (by omega), by omega⟩
  rw [markFinal, part_modPart_same]
  by_cases hold : x ∈ (s.part p).final
  · exact List.mem_append_left _ hold
  · exact List.mem_append_right _ (List.mem_filter.2 ⟨hx, by simpa using hold⟩)

theorem finalize_of_taken {s : State} {i : Issue} (w : MovSlot) (h : Taken s i conRegion)
    (htaken : slotsTaken (s.block i.block) = true) :
    Does (.finalize i w) s fun t =>
      ∀ x, finPage w ≤ x → x < finPage w + finCount w → x ∈ (t.part (s.partOf i.block)).final := by
  refine ⟨_, congrArg Host.Outcome.next ((if_pos (.inl htaken)).trans (issueSlot_of_taken h _)), fun x hlo hhi => ?_⟩
  rw [(accept_keeps Sub.rfl (Keeps.refl _ s)).fst.partOf_eq (by decide)]
  exact mem_final_markFinal _ _ _ _ _ hlo hhi

/-- Settles O7: the end of a step counts what is left and stops the partition with the last block, and FINALIZE marks. -/
theorem stepEndAndFinalize : Obligations.StepEndAndFinalize :=
  ⟨fun _ _ w hcan htaken => stepEnd_of_taken w hcan htaken, fun _ _ w h htaken => finalize_of_taken w h htaken⟩

end Sys2Proof.Machine
end

section
/-! The stream buffers and the arrival counters (R78, R82, R85): what a fetch leaves of each sequencer, and how a
delivery raises the counter it names. -/

namespace Sys2Proof.Machine

open Sys2Proof

/-! ### A fetch and a sequencer that stops (R78, R88) -/

/-- Every field of a block but whether it may issue. -/
theorem failSeqAt_block (s : State) (b : Nat) (c : SeqId) (cause seg : Nat) (took : Bool) :
    ∃ n, (failSeqAt s b c cause seg took).block b = { s.block b with noIssue := n } := by
  unfold failSeqAt
  split
  · exact ⟨_, rfl⟩
  · extract_lets st other s1 s2 s3
    have h2 : Keeps [6, 9, 13, 16, 0x3020, 0x7002, 0x9000, 0x9001] s s2 :=
      penDecay_keeps (Sub.of rfl Sub.rfl) (record_keeps (Sub.of rfl Sub.rfl)
        (wr_keeps (seqReg_sub rfl Sub.rfl) (Keeps.refl _ s)))
    have h3 : Keeps [6, 9, 13, 16, 0x3020, 0x7002, 0x9000, 0x9001] s s3 :=
      Keeps.ite (doNotSeal_keeps (Sub.of rfl Sub.rfl) h2) h2
    have hb : s3.block b = s.block b := h3.block (by decide) b
    split
    · exact ⟨_, hb⟩
    · split
      · exact ⟨true, by rw [block_modBlock_same, hb]⟩
      · exact ⟨_, by rw [(fenceChip_keeps Sub.rfl (Keeps.refl _ s3)).block (by decide), hb]⟩

/-- A stop at fetch of the first sequencer, while active, is noted in its register; what follows from it leaves both. -/
theorem failSeqAt_stop {s : State} {b : Nat} (h : s.rd R.CMP_SEQ_A b = 0) (seg : Nat) (took : Bool) :
    Keeps [5, 6, 9, 13, 16, 20, 0x4110, 0x4140, 0x6202, 0x7002, 0x9000, 0x9001] (s.wr R.CMP_SEQ_A b 2)
      (failSeqAt s b .a 3 seg took) := by
  have hreg : s.rd (seqReg .a) b = 0 := h
  simp only [failSeqAt, hreg, ne_eq, not_true, if_false, if_true]
  have h0 := Keeps.refl [5, 6, 9, 13, 16, 20, 0x4110, 0x4140, 0x6202, 0x7002, 0x9000, 0x9001] (s.wr R.CMP_SEQ_A b 2)
  have h2 := penDecay_keeps (u' := uBlock b) (pts := 100) (Sub.of rfl Sub.rfl)
    (record_keeps (code := 0x2011) (source := uSeq b .a) (fs := [(1, 3), (2, seg)]) (Sub.of rfl Sub.rfl) h0)
  have h3 := Keeps.ite (c := took = true) (doNotSeal_keeps (p := s.partOf b) (f := vPlanErr) (Sub.of rfl Sub.rfl) h2) h2
  exact Keeps.ite h3 (Keeps.ite (modBlock_keeps (Sub.of rfl Sub.rfl) h3) (fenceChip_keeps (Sub.of rfl Sub.rfl) h3))

/-- A fetch for the second sequencer leaves the first and the registers of the block. -/
theorem fetchOne_b_seqA (s : State) (b err : Nat) : ((fetchOne s b .b err).block b).seqA = (s.block b).seqA := by
  have hread (o : Nat) : (readBundle s b .b o).1.block b = s.block b :=
    (readBundle_keeps Sub.rfl (Keeps.refl _ s)).fst.block (by decide) b
  have htake (u : State) (n : Nat) (bs : List Byte) (bad : Bool) (hu : u.block b = s.block b) :
      ((takeBundle u b .b err n bs bad).block b).seqA = (s.block b).seqA := by
    unfold takeBundle
    extract_lets k q fails s1
    have h1 : s1.block b = s.block b :=
      ((Keeps.ite (Keeps.refl _ u) (record_keeps (Sub.of rfl Sub.rfl) (bumpSat_keeps (Sub.of rfl Sub.rfl)
        (Keeps.refl [16, 0x3021, 0x7002] u)))).block (by decide) b).trans hu
    split
    · obtain ⟨x, hx⟩ := failSeqAt_block s1 b .b 3 (s1.block b).segment ((s1.block b).took .b)
      rw [failSeq, hx, h1]
    · rw [block_modBlock_same, h1]
      rfl
  unfold fetchOne
  dsimp only
  split
  · rfl
  · split
    · rw [hread]
    · exact htake _ _ _ _ (hread _)

/-- A sequencer that stopped fetches nothing. -/
theorem fetchOne_of_stopped {s : State} {b : Nat} {c : SeqId} (h : s.seqUp b c = false) (err : Nat) :
    fetchOne s b c err = s := if_pos (.inl h)

/-- Whether a sequencer's fetch finds a bundle to take. -/
def FetchReady (s : State) (b : Nat) (n : Nat) : Prop :=
  s.seqUp b .a = true ∧ ((s.block b).seqA.buffer.filter (s.block b).needs).length < 1024 ∧
    (s.block b).seqA.nextSeg < imgSegments (s.img (s.partOf b)) ∧ (s.block b).seqA.nextNo < n

theorem fetchOne_of_ready {s : State} {b errA : Nat} {d : List Byte × Bool}
    (h : FetchReady s b (dirEntry (s.img (s.partOf b)) (s.planBlock b) (s.block b).seqA.nextSeg).2.1)
    (hd : (readBundle s b .a (secOff (s.img (s.partOf b)) 2 +
      (dirEntry (s.img (s.partOf b)) (s.planBlock b) (s.block b).seqA.nextSeg).1 + 64 * (s.block b).seqA.nextNo)).2 = some d) :
    ∃ u, Keeps [6, 8, 9, 13, 16, 20, 0x3410, 0x3411, 0x4110, 0x4140, 0x6202, 0x7002, 0x9000, 0x9001, 0x9010] s u ∧
      fetchOne s b .a errA =
        takeBundle u b .a errA (dirEntry (s.img (s.partOf b)) (s.planBlock b) (s.block b).seqA.nextSeg).2.1 d.1 d.2 := by
  obtain ⟨hup, hroom, hseg, hno⟩ := h
  refine ⟨(readBundle s b .a (secOff (s.img (s.partOf b)) 2 +
    (dirEntry (s.img (s.partOf b)) (s.planBlock b) (s.block b).seqA.nextSeg).1 + 64 * (s.block b).seqA.nextNo)).1,
    (readBundle_keeps Sub.rfl (Keeps.refl _ s)).fst, ?_⟩
  have hgo : ¬ (s.seqUp b .a = false ∨ 1024 ≤ ((s.block b).seqA.buffer.filter (s.block b).needs).length ∨
      imgSegments (s.img (s.partOf b)) ≤ (s.block b).seqA.nextSeg ∨
      (dirEntry (s.img (s.partOf b)) (s.planBlock b) (s.block b).seqA.nextSeg).2.1 ≤ (s.block b).seqA.nextNo) := by
    simp [hup, hroom, hseg, hno]
  exact (if_neg hgo).trans (by simp only [Block.seq, hd])

/-- A good fetch puts the bundle at the end of the buffer, and the stream goes on. -/
theorem takeBundle_good {u : State} {b n : Nat} {bs : List Byte} (hcheck : checkOk bs = true) :
    (takeBundle u b .a 0 n bs false).block b =
      (u.block b).modSeq .a fun q => { q with
        buffer := q.buffer.filter (u.block b).needs ++ [{ segment := (u.block b).seqA.nextSeg, number := (u.block b).seqA.nextNo, bytes := bs }],
        nextSeg := if decide (n ≤ (u.block b).seqA.nextNo + 1) then q.nextSeg + 1 else q.nextSeg,
        nextNo := if decide (n ≤ (u.block b).seqA.nextNo + 1) then 0 else q.nextNo + 1 } := by
  simp only [takeBundle, hcheck, Block.seq, reduceCtorEq, or_self, if_false, Nat.zero_min, if_true, OfNat.zero_ne_ofNat,
    block_modBlock_same]
  rfl

/-- A CHECK that fails twice stops the sequencer and counts two errors. -/
theorem takeBundle_bad {u : State} {b n : Nat} {bs : List Byte} {bad : Bool} (hup : u.seqUp b .a = true) :
    let t := takeBundle u b .a 2 n bs bad
    t.rd R.CMP_SEQ_A b = 2 ∧ t.rd R.CMP_SEQ_B b = u.rd R.CMP_SEQ_B b ∧ Counted u t R.CMP_PLAN_ERR_FETCH b 2 ∧
      (t.block b).seqA.buffer = (u.block b).seqA.buffer := by
  have hrec (x y : Nat) : Keeps [16, 0x7002] (u.bumpSat R.CMP_PLAN_ERR_FETCH b 2)
      ((u.bumpSat R.CMP_PLAN_ERR_FETCH b 2).record 0x2012 (uSeq b .a) [(3, x), (1, y)]) :=
    record_keeps Sub.rfl (Keeps.refl _ _)
  have hreg : u.rd R.CMP_SEQ_A b = 0 := by simpa [State.seqUp, seqReg] using hup
  have hfails : (if bad = true ∨ checkOk bs = false then 2 else min 2 2) = 2 := by split <;> rfl
  simp only [takeBundle, hfails, if_true, if_neg (show ¬ (2 = 0) by decide), failSeq]
  generalize hs1 : (u.bumpSat R.CMP_PLAN_ERR_FETCH b 2).record 0x2012 (uSeq b .a) _ = s1
  have h1 : Keeps [16, 0x7002] (u.bumpSat R.CMP_PLAN_ERR_FETCH b 2) s1 := hs1 ▸ hrec _ _
  have hseq : s1.rd R.CMP_SEQ_A b = 0 := by
    rw [h1.rd _ _ (by decide), bumpSat_eq, rd_wr_ne _ _ (by decide), hreg]
  have hfail : Keeps _ s1 (failSeqAt s1 b .a 3 (s1.block b).segment ((s1.block b).took .a)) :=
    failSeqAt_keeps Sub.rfl (Keeps.refl _ s1)
  obtain ⟨x, hx⟩ := failSeqAt_block s1 b .a 3 (s1.block b).segment ((s1.block b).took .a)
  have hstop := failSeqAt_stop hseq (s1.block b).segment ((s1.block b).took .a)
  refine ⟨?_, ?_, ?_, ?_⟩
  · rw [hstop.rd _ _ (by decide), rd_wr_same]
    rfl
  · rw [hstop.rd _ _ (by decide), rd_wr_ne _ _ (by decide), h1.rd _ _ (by decide), bumpSat_eq, rd_wr_ne _ _ (by decide)]
  · rw [Counted, hfail.rd _ _ (by decide), h1.rd _ _ (by decide), rd_bumpSat_same]
  · rw [hx, h1.block (by decide)]
    rfl

/-! ### Arrival counters (R82, R85) -/

theorem arrived_setArrived (k : Block) (c n : Nat) : (k.setArrived c n).arrived c = n := mapGet_mapSet_same ..

/-- A delivery raises a counter below 255 for which nothing waits. -/
theorem arrive_of_room {s : State} {b c : Nat} (hroom : (s.block b).arrived c < 255) (hwait : (s.block b).waiting = none) :
    arrive s b c = s.modBlock b fun k => k.setArrived c ((s.block b).arrived c + 1) := by
  have hw : ((s.modBlock b fun k => k.setArrived c ((s.block b).arrived c + 1)).block b).waiting = none := by
    rw [block_modBlock_same]
    exact hwait
  rw [arrive, if_neg (Nat.not_le.2 hroom), tryWait]
  simp only [hw]

theorem arrived_arrive {s : State} {b c : Nat} (hroom : (s.block b).arrived c < 255) (hwait : (s.block b).waiting = none) :
    ((arrive s b c).block b).arrived c = (s.block b).arrived c + 1 := by
  rw [arrive_of_room hroom hwait, block_modBlock_same, arrived_setArrived]

theorem arrive_mem (s : State) (b c : Nat) : (arrive s b c).mem = s.mem :=
  (arrive_keeps Sub.rfl (Keeps.refl _ s)).mem (by decide)

/-- A refused seal is noted in a partition that has a step. -/
theorem doNotSeal_part {s : State} {p : Nat} (hp : p < 128) (ha : s.active p = true) (f : Verdict → Verdict) :
    (doNotSeal s p f).part p = { s.part p with verdict := f (s.part p).verdict } := by
  rw [doNotSeal, if_pos ⟨hp, ha⟩, part_modPart_same]

theorem Keeps.active_eq {T : List Nat} {s t : State} (h : Keeps T s t) (hp : (T.contains 0x3000 || T.contains 31) = false)
    (p : Nat) : t.active p = s.active p := by
  simp only [State.active, h.pstate_eq hp]

/-- A delivery to a counter at 255 leaves it there and refuses the seal. -/
theorem arrive_of_full {s : State} {b c : Nat} (hfull : 255 ≤ (s.block b).arrived c) (hp : s.partOf b < 128)
    (ha : s.active (s.partOf b) = true) :
    (arrive s b c).block b = s.block b ∧ ((arrive s b c).part (s.partOf b)).verdict.planErr = true := by
  have hbump : Keeps [0x3021] s (s.bumpSat R.CMP_PLAN_ERR_CTR b 1) := bumpSat_keeps (Sub.of rfl Sub.rfl) (Keeps.refl _ s)
  have hact : (s.bumpSat R.CMP_PLAN_ERR_CTR b 1).active (s.partOf b) = true := by rw [hbump.active_eq (by decide), ha]
  rw [arrive, if_pos hfull, ctrError]
  exact ⟨(doNotSeal_keeps Sub.rfl (Keeps.refl _ _)).block (by decide) b, by rw [doNotSeal_part hp hact]; rfl⟩

/-- Planned data from another chip, or the acknowledgement of a write. -/
theorem exec_remote {s : State} {b counter offset : Nat} {data : List Byte} {poison : Bool} {rs : List (Nat × Nat)}
    (hrs : s.viewRange (s.partOf b) offset data.length = some rs) :
    exec (.arrivalDelivery (.remote b counter offset data poison)) s =
      .next (arrive (if data = [] then s else planWriteAll s uInject rs data poison) b counter) := by
  simp only [exec, execArrivalDelivery, hrs]
  split <;> rfl

theorem remoteWrite_keeps (s : State) (rs : List (Nat × Nat)) (data : List Byte) (poison : Bool) :
    Keeps [2, 3, 6, 16, 0x3021, 0x6101, 0x6102, 0x7002] s (if data = [] then s else planWriteAll s uInject rs data poison) :=
  Keeps.ite (Keeps.refl _ s) (planWriteAll_keeps Sub.rfl (Keeps.refl _ s))

theorem remote_of_room {s : State} {b counter offset : Nat} {data : List Byte} {rs : List (Nat × Nat)} (poison : Bool)
    (hrs : s.viewRange (s.partOf b) offset data.length = some rs) (hroom : (s.block b).arrived counter < 255)
    (hwait : (s.block b).waiting = none) :
    Does (.arrivalDelivery (.remote b counter offset data poison)) s fun t =>
      (t.block b).arrived counter = (s.block b).arrived counter + 1 ∧
      ∀ a, (∀ c ∈ rs, a < c.1 ∨ c.1 + c.2 ≤ a) → memByte t.mem a = memByte s.mem a := by
  refine ⟨_, exec_remote hrs, ?_⟩
  have hb := (remoteWrite_keeps s rs data poison).block (by decide) b
  refine ⟨?_, fun a ha => ?_⟩
  · rw [arrived_arrive (by rwa [hb]) (by rwa [hb]), hb]
  · rw [arrive_mem]
    split
    · rfl
    · refine (planWriteAll_out s uInject rs data poison).same a fun ⟨c, hc, hlo, hhi⟩ => ?_
      have := ha c hc
      omega

theorem remote_of_full {s : State} {b counter offset : Nat} {data : List Byte} {rs : List (Nat × Nat)} (poison : Bool)
    (hrs : s.viewRange (s.partOf b) offset data.length = some rs) (hfull : 255 ≤ (s.block b).arrived counter)
    (hp : s.partOf b < 128) (ha : s.active (s.partOf b) = true) :
    Does (.arrivalDelivery (.remote b counter offset data poison)) s fun t =>
      (t.block b).arrived counter = (s.block b).arrived counter ∧ (t.part (s.partOf b)).verdict.planErr = true := by
  refine ⟨_, exec_remote hrs, ?_⟩
  have hkeep := remoteWrite_keeps s rs data poison
  generalize (if data = [] then s else planWriteAll s uInject rs data poison) = u at hkeep
  have hb := hkeep.block (by decide) b
  have hpart := hkeep.partOf_eq (by decide) b
  obtain ⟨hblock, hverdict⟩ := arrive_of_full (s := u) (b := b) (c := counter) (by rwa [hb]) (by rwa [hpart])
    (by rwa [hpart, hkeep.active_eq (by decide)])
  exact ⟨by rw [hblock, hb], by rwa [← hpart]⟩

/-! ### Transfers of a mover channel (R81, R82) -/

/-- The places from which a partition's view and its chip's rank follow: slices, blocks, tags and the domain map. -/
def viewPlaces : List Nat := [11, 0x3100, 0x3101, 0x3400, 0x4100, 0x4104, 0x4105]

/-- None of a list of changes reaches the views. -/
def ViewFree (T : List Nat) : Prop := ∀ p ∈ viewPlaces, (T.contains p || T.contains 31) = false

theorem Keeps.viewRange_eq {T : List Nat} {s t : State} (h : Keeps T s t) (hT : ViewFree T) (p off n : Nat) :
    t.viewRange p off n = s.viewRange p off n := by
  have hslices (p use k : Nat) : t.slices p use k = s.slices p use k := by
    simp only [State.slices, h.rd R.MEM_SLICE_PART _ (hT _ (by decide)), h.rd R.MEM_SLICE_USE _ (hT _ (by decide))]
  simp only [State.viewRange, State.viewAddr, hslices, h.blocksOf_eq (hT _ (by decide))]

theorem Keeps.rank_eq {T : List Nat} {s t : State} (h : Keeps T s t) (hT : ViewFree T) (p : Nat) : t.rank p = s.rank p := by
  have h11 := hT 11 (by decide)
  rw [Bool.or_eq_false_iff] at h11
  have hme : t.me = s.me := congrArg Router.chipId (h.at 11 h11.1 (by decide)).symm
  have hx : t.torusX = s.torusX := by rw [State.torusX, State.torusX, h.rd R.FAB_TORUS_DIM _ (hT _ (by decide))]
  have hy : t.torusY = s.torusY := by rw [State.torusY, State.torusY, h.rd R.FAB_TORUS_DIM _ (hT _ (by decide))]
  have hz : t.torusZ = s.torusZ := by rw [State.torusZ, State.torusZ, h.rd R.FAB_TORUS_DIM _ (hT _ (by decide))]
  have hver : t.injVer = s.injVer := h.rd R.FAB_EPOCH_INJ 0 (hT _ (by decide))
  have htag : t.tagOf p = s.tagOf p := h.rd R.CMP_PART_TAG p (hT _ (by decide))
  have hslot (v d : Nat) : t.dslot v d = s.dslot v d := by
    simp only [State.dslot, h.rd R.FAB_DMAP _ (hT _ (by decide))]
  have hovr (v d r : Nat) : t.override v d r = s.override v d r := by
    simp only [State.override, h.rd R.FAB_DMAP_OVR _ (hT _ (by decide))]
  have hat (d : DSlot) (c : Nat) : rankAt t d c = rankAt s d c := by simp only [rankAt, hx, hy, hz]
  simp only [State.rank, State.rankOf, hver, htag, hme, hslot, hovr, hat, h.rd R.FAB_DMAP_OVR _ (hT _ (by decide))]

/-- A change that leaves the views leaves the ranges of planned addresses. -/
theorem Keeps.planRange_eq {T : List Nat} {s t : State} (h : Keeps T s t) (hT : ViewFree T) (b a n : Nat) :
    t.planRange b a n = s.planRange b a n := by
  rw [State.planRange, State.planRange, State.isLocal, State.isLocal, h.partOf_eq (hT _ (by decide)), h.rank_eq hT,
    h.viewRange_eq hT]

/-- A trace record changes of any block at most its trace. -/
theorem traceRec_only_trace (s : State) (b bit unit op seq : Nat) (isEnd : Bool) (c : Nat) :
    ∃ l, (traceRec s b bit unit op seq isEnd).block c = { s.block c with trace := l } := by
  by_cases hc : c = b
  · exact hc ▸ traceRec_block ..
  · exact ⟨_, onlyBlock_traceRec s b bit unit op seq isEnd c hc⟩

/-- What writing a transfer can change. -/
theorem landed_keeps (s : State) (b : Nat) (x : Transfer) :
    Keeps [2, 3, 6, 16, 0x3021, 0x6101, 0x6102, 0x7002] s (storeRuns s (uMover b) b x.dst x.runs) :=
  storeRuns_keeps Sub.rfl (Keeps.refl _ s)

section
variable {s : State} {b ch : Nat} {x : Transfer} {rest : List Transfer} (hx : mapGet [] (s.block b).movers ch = x :: rest)
  (hl : x.landing = false)
include hx hl

/-- The oldest transfer of a channel, written; it ends, or it waits for a journal copy. -/
theorem exec_moverDelivery :
    exec (.arrivalDelivery (.mover b ch)) s = .next
      (let s1 := storeRuns s (uMover b) b x.dst x.runs
      if transferHeld s1 b x then
        s1.modBlock b fun k => { k with movers := mapPut k.movers ch ({ x with landing := true } :: rest) }
      else transferEnd s1 b ch x) := by
  simp only [exec, execArrivalDelivery, moverDelivery, hx, hl]
  rfl

theorem mover_of_held (hheld : transferHeld (storeRuns s (uMover b) b x.dst x.runs) b x = true) :
    Does (.arrivalDelivery (.mover b ch)) s fun t =>
      (t.block x.toBlock).arrived x.counter = (s.block x.toBlock).arrived x.counter ∧
        mapGet [] (t.block b).movers ch = { x with landing := true } :: rest := by
  refine ⟨_, exec_moverDelivery hx hl, ?_⟩
  have hblock := (landed_keeps s b x).block (by decide)
  dsimp only
  rw [if_pos hheld]
  refine ⟨?_, by rw [block_modBlock_same, mapGet_mapPut_same]⟩
  by_cases hb : x.toBlock = b
  · rw [hb, block_modBlock_same, hblock]
    rfl
  · rw [block_modBlock_other _ _ hb, hblock]

theorem mover_of_free (hheld : transferHeld (storeRuns s (uMover b) b x.dst x.runs) b x = false)
    (hdst : (s.planRange b x.dst (runBytes x.runs).length).isSome = true)
    (hroom : (s.block x.toBlock).arrived x.counter < 255) (hwait : (s.block x.toBlock).waiting = none) :
    Does (.arrivalDelivery (.mover b ch)) s fun t =>
      (t.block x.toBlock).arrived x.counter = (s.block x.toBlock).arrived x.counter + 1 ∧
        mapGet [] (t.block b).movers ch = rest := by
  refine ⟨_, exec_moverDelivery hx hl, ?_⟩
  have hkeep := landed_keeps s b x
  have hblock := hkeep.block (by decide)
  have hdst' := hdst
  rw [← hkeep.planRange_eq (by unfold ViewFree; decide)] at hdst'
  dsimp only
  rw [hheld, if_neg (by decide), transferEnd, if_pos hdst']
  generalize storeRuns s (uMover b) b x.dst x.runs = u at hblock
  generalize hv : (u.modBlock b fun k => { k with movers := mapPut k.movers ch ((mapGet [] k.movers ch).drop 1) }) = v
  have hmovers : mapGet [] (v.block b).movers ch = rest := by
    rw [← hv, block_modBlock_same, mapGet_mapPut_same, hblock, hx]
    rfl
  have hv' : (v.block x.toBlock).arrivals = (s.block x.toBlock).arrivals ∧ (v.block x.toBlock).waiting = (s.block x.toBlock).waiting := by
    rw [← hv]
    by_cases hb : x.toBlock = b
    · rw [hb, block_modBlock_same, hblock]
      exact ⟨rfl, rfl⟩
    · rw [block_modBlock_other _ _ hb, hblock]
      exact ⟨rfl, rfl⟩
  obtain ⟨harr, hw⟩ := hv'
  have harrived : (v.block x.toBlock).arrived x.counter = (s.block x.toBlock).arrived x.counter := by
    rw [Block.arrived, harr, Block.arrived]
  have hnew := arrive_of_room (s := v) (by rwa [harrived]) (by rwa [hw])
  obtain ⟨l, hl⟩ := traceRec_only_trace (arrive v x.toBlock x.counter) b 4 (uMover b) x.desc x.seq true x.toBlock
  obtain ⟨m, hm⟩ := traceRec_only_trace (arrive v x.toBlock x.counter) b 4 (uMover b) x.desc x.seq true b
  rw [hl, hm, hnew]
  refine ⟨?_, ?_⟩
  · rw [block_modBlock_same, harrived]
    simp only [Block.arrived, Block.setArrived, mapGet_mapSet_same]
  · rw [← hmovers]
    by_cases hb : b = x.toBlock
    · rw [hb, block_modBlock_same]
      rfl
    · rw [block_modBlock_other _ _ hb]

end

/-! ### The result of a collective (R172) -/

/-- The chunks of a result written. -/
def collWritten (s : State) (p e : Nat) : State :=
  (s.coll p e).results.foldl
    (fun t r => planStore t (uMover (s.coll p e).block) (s.coll p e).block
      ((collDesc s p (collEntry s p e)).addrB + resultAt (collEntry s p e) r.1) r.2 ((s.coll p e).poisoned.contains r.1)) s

/-- The state before the counter rises: the results written, their poison recorded, and the collective over. -/
def collOver (s : State) (p e : Nat) : State :=
  ((collWritten s p e).each (s.coll p e).poisoned fun t j => t.record 0x6048 uFcc [(2, e), (4, j)]).modRouter fun r =>
    { r with colls := r.colls.filter fun x => !(x.part == p && x.entry == e) }

theorem collOver_keeps (s : State) (p e : Nat) :
    Keeps [2, 3, 6, 11, 16, 0x3021, 0x6101, 0x6102, 0x7002] s (collOver s p e) := by
  have h : Keeps [2, 3, 6, 11, 16, 0x3021, 0x6101, 0x6102, 0x7002] s (collWritten s p e) :=
    foldl_keeps (fun v x hv => planStore_keeps (Sub.of rfl Sub.rfl) hv) (Keeps.refl _ s)
  exact modRouter_keeps (Sub.of rfl Sub.rfl) (each_keeps (fun v x hv => record_keeps (Sub.of rfl Sub.rfl) hv) h)

theorem exec_collDelivery {s : State} {p e : Nat} (hstart : (s.coll p e).started = true)
    (hall : ∀ j ∈ collNeeds (collEntry s p e) (placeOf s p (collMembers s p e)), mapHas (s.coll p e).results j = true) :
    exec (.arrivalDelivery (.coll p e)) s = .next (traceRec (arrive (collOver s p e) (s.coll p e).block (s.coll p e).counter)
      (s.coll p e).block 5 (uMover (s.coll p e).block) e (s.coll p e).seq true) := by
  have hdone : ¬ ((s.coll p e).started = false ∨ ((collEntry s p e).kind ≠ 5 ∧
      ((collNeeds (collEntry s p e) (placeOf s p (collMembers s p e))).all fun j => mapHas (s.coll p e).results j) = false)) := by
    have : ((collNeeds (collEntry s p e) (placeOf s p (collMembers s p e))).all fun j => mapHas (s.coll p e).results j) = true :=
      List.all_eq_true.2 hall
    simp [hstart, this]
  exact congrArg Host.Outcome.next (if_neg hdone)

/-- A collective that is over is not started. -/
theorem collOver_started (s : State) (p e : Nat) : ((collOver s p e).coll p e).started = false := by
  have hnone : (collOver s p e).router.colls.find? (fun c => c.part == p && c.entry == e) = none := by
    rw [List.find?_eq_none]
    intro c hc
    obtain ⟨-, hne⟩ := List.mem_filter.1 hc
    simpa [← not_and_or] using hne
  rw [State.coll, hnone]
  rfl

theorem collDelivery_of_complete {s : State} {p e : Nat} (hstart : (s.coll p e).started = true)
    (hall : ∀ j ∈ collNeeds (collEntry s p e) (placeOf s p (collMembers s p e)), mapHas (s.coll p e).results j = true)
    (hroom : (s.block (s.coll p e).block).arrived (s.coll p e).counter < 255)
    (hwait : (s.block (s.coll p e).block).waiting = none) :
    Does (.arrivalDelivery (.coll p e)) s fun t =>
      (t.block (s.coll p e).block).arrived (s.coll p e).counter =
          (s.block (s.coll p e).block).arrived (s.coll p e).counter + 1 ∧
        (t.coll p e).started = false := by
  refine ⟨_, exec_collDelivery hstart hall, ?_⟩
  have hblock := (collOver_keeps s p e).block (by decide) (s.coll p e).block
  have hend : Keeps [5, 6, 0x3021, 0x8200] (collOver s p e)
      (traceRec (arrive (collOver s p e) (s.coll p e).block (s.coll p e).counter)
        (s.coll p e).block 5 (uMover (s.coll p e).block) e (s.coll p e).seq true) :=
    traceRec_keeps (Sub.of rfl Sub.rfl) (arrive_keeps (Sub.of rfl Sub.rfl) (Keeps.refl _ _))
  obtain ⟨l, hl⟩ := traceRec_only_trace (arrive (collOver s p e) (s.coll p e).block (s.coll p e).counter)
    (s.coll p e).block 5 (uMover (s.coll p e).block) e (s.coll p e).seq true (s.coll p e).block
  refine ⟨?_, ?_⟩
  · rw [hl, ← hblock]
    exact arrived_arrive (by rwa [hblock]) (by rwa [hblock])
  · have hrouter := (hend.at 11 (by decide) (by decide)).symm
    rw [← collOver_started s p e]
    generalize traceRec _ _ _ _ _ _ _ = t at hrouter
    rw [State.coll, hrouter, State.coll]

/-! ### The obligation -/

section
variable {s : State} {b : Nat} {d : List Byte × Bool} (hplan : s.hasPlan (s.partOf b) = true) (hunit : s.unitUp (uBlock b) = true)
  (h : FetchReady s b (dirEntry (s.img (s.partOf b)) (s.planBlock b) (s.block b).seqA.nextSeg).2.1)
  (hd : (readBundle s b .a (secOff (s.img (s.partOf b)) 2 +
    (dirEntry (s.img (s.partOf b)) (s.planBlock b) (s.block b).seqA.nextSeg).1 + 64 * (s.block b).seqA.nextNo)).2 = some d)
include hplan hunit h hd

theorem streamFetch_good (errB : Nat) (hbad : d.2 = false) (hcheck : checkOk d.1 = true) :
    Does (.streamFetch b 0 errB) s fun t =>
      (t.block b).seqA.buffer.getLast? =
          some { segment := (s.block b).seqA.nextSeg, number := (s.block b).seqA.nextNo, bytes := d.1 } ∧
        if (dirEntry (s.img (s.partOf b)) (s.planBlock b) (s.block b).seqA.nextSeg).2.1 ≤ (s.block b).seqA.nextNo + 1 then
          (t.block b).seqA.nextSeg = (s.block b).seqA.nextSeg + 1 ∧ (t.block b).seqA.nextNo = 0
        else (t.block b).seqA.nextSeg = (s.block b).seqA.nextSeg ∧
          (t.block b).seqA.nextNo = (s.block b).seqA.nextNo + 1 := by
  obtain ⟨u, hu, heq⟩ := fetchOne_of_ready (errA := 0) h hd
  refine ⟨_, congrArg Host.Outcome.next (if_pos ⟨hplan, hunit⟩), ?_⟩
  have hblock := hu.block (by decide) b
  beta_reduce
  rw [fetchOne_b_seqA, heq, hbad, takeBundle_good hcheck, hblock]
  dsimp only [Block.modSeq]
  refine ⟨List.getLast?_concat .., ?_⟩
  split
  case isTrue hlast => simp [hlast]
  case isFalse hmore => simp [hmore]

theorem streamFetch_bad (errB : Nat) (hb : s.seqUp b .b = false) :
    Does (.streamFetch b 2 errB) s fun t =>
      t.rd R.CMP_SEQ_A b = 2 ∧ Counted s t R.CMP_PLAN_ERR_FETCH b 2 ∧ (t.block b).seqA.buffer = (s.block b).seqA.buffer := by
  obtain ⟨u, hu, heq⟩ := fetchOne_of_ready (errA := 2) h hd
  refine ⟨_, congrArg Host.Outcome.next (if_pos ⟨hplan, hunit⟩), ?_⟩
  have hup : u.seqUp b .a = true := by
    rw [State.seqUp, seqReg, hu.rd R.CMP_SEQ_A b (by decide)]
    exact h.1
  obtain ⟨hregA, hregB, hcount, hbuf⟩ := takeBundle_bad (n := (dirEntry (s.img (s.partOf b)) (s.planBlock b) (s.block b).seqA.nextSeg).2.1)
    (bs := d.1) (bad := d.2) hup
  have hstop : (fetchOne s b .a 2).seqUp b .b = false := by
    rw [State.seqUp, seqReg, heq, hregB, hu.rd R.CMP_SEQ_B b (by decide)]
    exact hb
  beta_reduce
  rw [fetchOne_of_stopped hstop, heq]
  refine ⟨hregA, ?_, ?_⟩
  · rw [Counted, hcount, hu.rd R.CMP_PLAN_ERR_FETCH b (by decide)]
  · rw [hbuf, hu.block (by decide)]

end

/-- Settles O8: a fetch puts its bundle at the end of the buffer or stops the sequencer, and each kind of arrival
raises the counter it names. -/
theorem streamsAndArrivals : Obligations.StreamsAndArrivals := by
  refine ⟨fun s b errB hplan hunit hup hroom hseg hno d hd => ⟨fun hbad hcheck => ?good, fun hb => ?bad⟩,
    ⟨fun s b counter offset data poison rs hrs => ⟨fun hroom hwait => ⟨?ack, ?data⟩, fun hfull hp ha => ?full⟩,
      fun s b ch x rest hx hl => ⟨fun hheld hdst hroom hwait => ?free, fun hheld => ?held⟩,
      fun s p e hstart hall hroom hwait => ?coll⟩⟩
  case good => exact streamFetch_good hplan hunit ⟨hup, hroom, hseg, hno⟩ hd errB hbad hcheck
  case bad => exact streamFetch_bad hplan hunit ⟨hup, hroom, hseg, hno⟩ hd errB hb
  case ack =>
    refine ⟨_, rfl, arrived_arrive hroom hwait, arrive_mem ..⟩
  case data => exact remote_of_room poison hrs hroom hwait
  case full => exact remote_of_full poison hrs hfull hp ha
  case free => exact mover_of_free hx hl hheld hdst hroom hwait
  case held => exact mover_of_held hx hl hheld
  case coll => exact collDelivery_of_complete hstart hall hroom hwait

end Sys2Proof.Machine
end

section
/-! A command run on a concrete state, and the statement on verdicts that it refutes. -/

namespace Sys2Proof.Machine

open Sys2Proof

/-! ### Runs of concrete commands -/

/-- Whether the state that a command leaves passes a test. -/
def After (c : Instr) (s : State) (test : State → Bool) : Bool :=
  match exec c s with
  | .next t => test t
  | _ => false

theorem after_eq {c : Instr} {s t : State} (h : exec c s = .next t) (test : State → Bool) : After c s test = test t := by
  rw [After, h]

/-- A property that excludes what the run shows is not what the command does. -/
theorem not_does {c : Instr} {s : State} {P : State → Prop} {test : State → Bool} (hrun : After c s test = true)
    (hexcl : ∀ t, test t = true → ¬ P t) : ¬ Does c s P := by
  rintro ⟨t, ht, hp⟩
  exact hexcl t ((after_eq ht test).symm.trans hrun) hp

/-! ### A verdict of an abandoned run (R226, R229) -/

/-- A first run's tile, of INT8 operands, that has no rows to judge. -/
def emptyTile : PendingTile := {}

/-- A block whose oldest tile is of no run under way, and whose CHK_PASS holds more than its 64 bits. -/
def widePass : State :=
  { ({} : State) with
    od := [(odKey R.CMP_BLOCK_PART 0, 0), (odKey R.CHK_PASS 0, 2 ^ 64)]
    blocks := [(0, { verdicts := [emptyTile] })] }

/-- The verdict counts nothing. -/
theorem yarrowVerdict_widePass : After (.yarrowVerdict 0) widePass (fun t => t.rd R.CHK_PASS 0 == 2 ^ 64) = true := by
  decide +kernel

/-- Refutes O9: a pass of an abandoned run counts nothing, so a CHK_PASS past its width stays where it is, and is not the
least of its value and its largest one; the statement takes every state, also one that no run reaches. -/
theorem not_digestsAndVerdicts : ¬ Obligations.DigestsAndVerdicts := by
  rintro ⟨-, hverdict⟩
  obtain ⟨hpass, -⟩ := hverdict widePass 0 emptyTile [] ⟨128, 128, 0, .int⟩ rfl rfl (by decide) (by decide +kernel)
  refine not_does yarrowVerdict_widePass (fun t ht => ?_) (hpass (by decide +kernel))
  rintro ⟨-, hcount, -⟩
  rw [Counted, show isCurrent widePass (widePass.partOf 0) emptyTile.step emptyTile.run = false by decide +kernel,
    eq_of_beq ht, show widePass.rd R.CHK_PASS 0 = 2 ^ 64 by decide +kernel] at hcount
  exact absurd hcount (by decide)

end Sys2Proof.Machine
end

section
/-! The consumers of a bundle's slots (R86): what accepting a copy leaves. -/

namespace Sys2Proof.Machine

open Sys2Proof

/-! ### A copy taken, a duplicate, and one too early -/

/-- Conflicts of banks are counted and recorded, no more. -/
theorem noteConflicts_left (s : State) (b : Nat) (l : List BankConflict) :
    Keeps [16, 0x3021, 0x7002] s (noteConflicts s b l) := noteConflicts_keeps Sub.rfl (Keeps.refl _ s)

/-- The state after a copy is taken. -/
def takenState (s : State) (i : Issue) (con : Nat) : State :=
  noteConflicts (s.modBlock i.block fun q => q.modCon con fun k => k.take i) i.block i.conflicts

theorem takenState_keeps (s : State) (i : Issue) (con : Nat) : Keeps [5, 16, 0x3021, 0x7002] s (takenState s i con) :=
  noteConflicts_keeps (Sub.of rfl Sub.rfl) (modBlock_keeps (Sub.of rfl Sub.rfl) (Keeps.refl _ s))

theorem takenState_block (s : State) (i : Issue) (con : Nat) :
    (takenState s i con).block i.block = (s.block i.block).modCon con fun k => k.take i := by
  rw [takenState, (noteConflicts_left _ _ _).block (by decide), block_modBlock_same]

/-- Accepting a copy takes it in just one way. -/
theorem accept_of_taken {s : State} {i : Issue} {con : Nat} (h : Taken s i con) : (accept s i con).1 = takenState s i con := by
  unfold Taken accept at h
  unfold accept
  dsimp only at h ⊢
  repeat' split at h
  all_goals simp_all [takenState]

section
variable {s : State} {i : Issue} {con : Nat} (hsecond : i.second = false) (hseq : s.seqUp i.block i.copy = true)
  (hunit : s.unitUp (uBlock i.block) = true)
include hsecond hseq hunit

/-- A first copy offered to a consumer of an active sequencer's block. -/
theorem accept_first :
    accept s i con =
      if i.seq = (((s.block i.block).con con).expected + (2 ^ 24 - 1)) % 2 ^ 24 then (s.bumpSat R.CMP_SEQ_DUP i.block 1, false)
      else if canIssue s i.block = false then (s, false)
      else if i.seq ≠ ((s.block i.block).con con).expected then (failSeq s i.block i.copy 2, false)
      else if ((s.block i.block).con con).expected = (s.block i.block).seqNo then (takenState s i con, true)
      else (s, false) := by
  have hup : ¬ (s.seqUp i.block i.copy = false ∨ s.unitUp (uBlock i.block) = false) := by simp [hseq, hunit]
  refine (if_neg hup).trans ?_
  rw [hsecond]
  rfl

theorem taken_first (hcan : canIssue s i.block = true) (hexp : i.seq = ((s.block i.block).con con).expected)
    (hno : ((s.block i.block).con con).expected = (s.block i.block).seqNo) : accept s i con = (takenState s i con, true) := by
  have hnot : ¬ i.seq = (((s.block i.block).con con).expected + (2 ^ 24 - 1)) % 2 ^ 24 := by omega
  rw [accept_first hsecond hseq hunit, if_neg hnot, if_neg (by simp [hcan]), if_neg (by simp [hexp]), if_pos hno]

end

/-- A NOP's slot has no effect of its own. -/
theorem exec_nop {s : State} {i : Issue} {cell ch : Nat} {w : CellSlot} {v : VecSlot} {m : MovSlot} {x : Instr × Nat}
    (hx : x ∈ [(Instr.cellNop i cell w, conCell cell), (.vecNop i v, conVec), (.mvNop i ch m, conMover ch)]) :
    exec x.1 s = .next (accept s i x.2).1 := by
  have hid (con : Nat) : issueSlot s i con id = (accept s i con).1 := by
    unfold issueSlot
    dsimp only
    split <;> rfl
  simp only [List.mem_cons, List.not_mem_nil, or_false] at hx
  obtain rfl | rfl | rfl := hx <;> exact congrArg Host.Outcome.next (hid _)

/-- Settles O10: the cases of accepting a first copy, on the NOPs. -/
theorem slotsAreTakenOnce : Obligations.SlotsAreTakenOnce := by
  intro s i cell ch w v m hsecond hseq hunit x hx
  have hexec := exec_nop (s := s) hx
  refine ⟨fun hcan hexp hno => ⟨_, hexec, ?_⟩, fun hdup => ⟨_, hexec, ?_⟩, fun hcan hdup => ⟨_, hexec, ?_⟩⟩
  · rw [taken_first hsecond hseq hunit hcan hexp hno]
    dsimp only
    rw [takenState_block, (takenState_keeps s i x.2).mem (by decide)]
    refine ⟨?_, rfl, rfl, rfl⟩
    simp only [Block.modCon, mapGet_mapPut_same, Consumer.take, hsecond]
    rfl
  · rw [accept_first hsecond hseq hunit, Block.con, if_pos hdup]
    exact ⟨rd_bumpSat_same .., rfl, rfl⟩
  · rw [accept_first hsecond hseq hunit, Block.con, if_neg hdup, if_pos hcan]

end Sys2Proof.Machine
end

section
/-! Three statements that a state outside every run refutes: housekeeping of memory, lanes, and receiving on a link. -/

namespace Sys2Proof.Machine

open Sys2Proof

/-! ### A transfer marked as waiting for journal copies that waits for none (R244) -/

/-- Block 0 of partition 0 has one transfer marked as waiting for journal copies; the partition holds no write. -/
def landingTransfer : State :=
  { ({} : State) with
    od := [(odKey R.CMP_BLOCK_PART 0, 0)]
    blocks := [(0, { movers := [(0, [{ landing := true }])] })] }

/-- A journal copy of any page acknowledges the transfer, since nothing of it waits. -/
theorem journalCopy_landingTransfer :
    After (.journalCopy 0 0) landingTransfer (fun t => (mapGet [] (t.block 0).movers 0).length == 0) = true := by
  decide +kernel

/-- Refutes O17: a journal copy of a page for which nothing waits still ends a transfer that is marked as waiting and of
which no write is held, so the state changes; the statement takes every state, also one that no run reaches. -/
theorem not_memoryHousekeeping : ¬ Obligations.MemoryHousekeeping := by
  rintro ⟨-, hcopy, -⟩
  obtain ⟨halone, -⟩ := hcopy landingTransfer 0 0
  refine not_does journalCopy_landingTransfer (fun t ht heq => ?_) (halone (by decide +kernel))
  rw [heq] at ht
  exact absurd ht (by decide +kernel)

/-! ### A logical lane past its register's width (R133) -/

/-- Port 0 is Up in a fast retrain of its receive direction, and the register of lane 0's logical lane holds more than
its 8 bits. -/
def wideRole : State :=
  { ({} : State) with
    od := [(odKey R.FAB_PORT_STATE 0, 2), (odKey R.FAB_LANE_ROLE (laneKey 0 0), 256)]
    ports := [(0, { fastRx := some {} })] }

/-- The spare receives the value without its ninth bit. -/
theorem spareGo_wideRole :
    After (.spareGo 0 [{ lane := 0, spare := 1 }]) wideRole (fun t => t.rd R.FAB_LANE_ROLE (laneKey 0 1) == 0) = true := by
  decide +kernel

/-- Refutes O22: the logical lane that SPARE_GO copies is cut to the register's 8 bits, so a FAB_LANE_ROLE past its width
does not reach the spare whole; the statement takes every state, also one that no run reaches. -/
theorem not_lanesAndSpares : ¬ Obligations.LanesAndSpares := by
  intro h
  obtain ⟨hup, -⟩ := h wideRole 0 (by decide)
  obtain ⟨-, -, -, -, hgo, -⟩ := hup (by decide +kernel)
  have hdoes := hgo 0 1 {} (by decide) (by decide) (by decide) (by decide +kernel) rfl
  refine not_does spareGo_wideRole (fun t ht => ?_) hdoes
  rintro ⟨-, -, hrole, -⟩
  rw [eq_of_beq ht] at hrole
  exact absurd hrole (by decide +kernel)

/-! ### A count of CRC errors past its register's width (R126) -/

/-- Port 0 is Up and its FAB_CRC_ERR holds more than its 64 bits. -/
def wideCrcErrors : State :=
  { ({} : State) with od := [(odKey R.FAB_PORT_STATE 0, 2), (odKey R.FAB_CRC_ERR 0, 2 ^ 64)] }

/-- A flit of an uncorrectable codeword counts no CRC error. -/
theorem flitCrcFailure_wideCrcErrors :
    After (.flitCrcFailure 0 (.codeword false)) wideCrcErrors (fun t => t.rd R.FAB_CRC_ERR 0 == 2 ^ 64) = true := by
  decide +kernel

/-- Refutes O24: a flit of an uncorrectable codeword counts no CRC error, so a FAB_CRC_ERR past its width stays where it
is, and is not the least of its value and its largest one; the statement takes every state, also one that no run
reaches. -/
theorem not_linkReceives : ¬ Obligations.LinkReceives := by
  intro h
  obtain ⟨hcrc, -⟩ := h wideCrcErrors 0 ⟨0, 0, 0, false, 0, 0, 0, .empty, 0⟩ [] (by decide) (by decide +kernel)
  refine not_does flitCrcFailure_wideCrcErrors (fun t ht => ?_) (hcrc (.codeword false))
  rintro ⟨-, hcount, -⟩
  rw [Counted, eq_of_beq ht, show wideCrcErrors.rd R.FAB_CRC_ERR 0 = 2 ^ 64 by decide +kernel] at hcount
  exact absurd hcount (by decide)

end Sys2Proof.Machine
end

section
/-! Fields of the state that a law of change leaves, and doorbells and queue contexts (R181, R182). -/

namespace Sys2Proof.Machine

open Sys2Proof

/-! ### Fields that a law of change leaves -/

section
variable {T : List Nat} {s t : State} (h : Keeps T s t)
include h

theorem Keeps.poison_eq (hp : T.contains 3 = false) : t.poison = s.poison := (h.at 3 hp (by decide)).symm
theorem Keeps.buddies_eq (hp : T.contains 7 = false) : t.buddies = s.buddies := (h.at 7 hp (by decide)).symm
theorem Keeps.msys_eq (hp : T.contains 8 = false) : t.msys = s.msys := (h.at 8 hp (by decide)).symm
theorem Keeps.ports_eq (hp : T.contains 9 = false) : t.ports = s.ports := (h.at 9 hp (by decide)).symm
theorem Keeps.router_eq (hp : T.contains 11 = false) : t.router = s.router := (h.at 11 hp (by decide)).symm
theorem Keeps.host_eq (hp : T.contains 12 = false) : t.host = s.host := (h.at 12 hp (by decide)).symm
theorem Keeps.clover_eq (hp : T.contains 13 = false) : t.clover = s.clover := (h.at 13 hp (by decide)).symm
theorem Keeps.rst_eq (hp : T.contains 14 = false) : t.rst = s.rst := (h.at 14 hp (by decide)).symm
theorem Keeps.power_eq (hp : T.contains 15 = false) : t.power = s.power := (h.at 15 hp (by decide)).symm
theorem Keeps.ledger_eq (hp : T.contains 16 = false) : t.ledger = s.ledger := (h.at 16 hp (by decide)).symm
theorem Keeps.tally_eq (hp : T.contains 17 = false) : t.tally = s.tally := (h.at 17 hp (by decide)).symm
theorem Keeps.mgmt_eq (hp : T.contains 18 = false) : t.mgmt = s.mgmt := (h.at 18 hp (by decide)).symm
theorem Keeps.obs_eq (hp : T.contains 19 = false) : t.obs = s.obs := (h.at 19 hp (by decide)).symm
theorem Keeps.outbox_eq (hp : T.contains 20 = false) : t.outbox = s.outbox := (h.at 20 hp (by decide)).symm
theorem Keeps.free_eq (hp : T.contains 21 = false) : t.free = s.free := (h.at 21 hp (by decide)).symm

theorem Keeps.port_eq (hp : T.contains 9 = false) (k : Nat) : t.port k = s.port k := by
  rw [State.port, State.port, h.ports_eq hp]

end

/-! ### A record in the Ledger changes the Ledger alone -/

section
variable (s : State) (code source : Nat) (fs : List (Nat × Nat))

theorem keeps_record : Keeps [16, 0x7002] s (s.record code source fs) := record_keeps Sub.rfl (Keeps.refl _ s)

theorem rd_record (r : Reg) (i : Nat) (h : ([16, 0x7002].contains (regPlace r) || [16, 0x7002].contains 31) = false) :
    (s.record code source fs).rd r i = s.rd r i := (keeps_record s code source fs).rd r i h

@[simp] theorem record_mem : (s.record code source fs).mem = s.mem := (keeps_record s code source fs).mem rfl
@[simp] theorem record_poison : (s.record code source fs).poison = s.poison := (keeps_record s code source fs).poison_eq rfl
@[simp] theorem record_blocks : (s.record code source fs).blocks = s.blocks := (keeps_record s code source fs).blocks rfl
@[simp] theorem record_parts : (s.record code source fs).parts = s.parts := (keeps_record s code source fs).parts rfl
@[simp] theorem record_buddies : (s.record code source fs).buddies = s.buddies := (keeps_record s code source fs).buddies_eq rfl
@[simp] theorem record_msys : (s.record code source fs).msys = s.msys := (keeps_record s code source fs).msys_eq rfl
@[simp] theorem record_ports : (s.record code source fs).ports = s.ports := (keeps_record s code source fs).ports_eq rfl
@[simp] theorem record_router : (s.record code source fs).router = s.router := (keeps_record s code source fs).router_eq rfl
@[simp] theorem record_host : (s.record code source fs).host = s.host := (keeps_record s code source fs).host_eq rfl
@[simp] theorem record_clover : (s.record code source fs).clover = s.clover := (keeps_record s code source fs).clover_eq rfl
@[simp] theorem record_rst : (s.record code source fs).rst = s.rst := (keeps_record s code source fs).rst_eq rfl
@[simp] theorem record_power : (s.record code source fs).power = s.power := (keeps_record s code source fs).power_eq rfl
@[simp] theorem record_tally : (s.record code source fs).tally = s.tally := (keeps_record s code source fs).tally_eq rfl
@[simp] theorem record_mgmt : (s.record code source fs).mgmt = s.mgmt := (keeps_record s code source fs).mgmt_eq rfl
@[simp] theorem record_obs : (s.record code source fs).obs = s.obs := (keeps_record s code source fs).obs_eq rfl
@[simp] theorem record_outbox : (s.record code source fs).outbox = s.outbox := (keeps_record s code source fs).outbox_eq rfl
@[simp] theorem record_free : (s.record code source fs).free = s.free := (keeps_record s code source fs).free_eq rfl
@[simp] theorem record_part (p : Nat) : (s.record code source fs).part p = s.part p := (keeps_record s code source fs).part_eq rfl p
@[simp] theorem record_block (b : Nat) : (s.record code source fs).block b = s.block b := (keeps_record s code source fs).block rfl b
@[simp] theorem record_port (k : Nat) : (s.record code source fs).port k = s.port k := (keeps_record s code source fs).port_eq rfl k
@[simp] theorem record_now : (s.record code source fs).now = s.now := (keeps_record s code source fs).now_eq rfl

end

/-! ### What is sent changes nothing else -/

section
variable (s : State) (o : Out)

@[simp] theorem rd_emit (r : Reg) (i : Nat) : (s.emit o).rd r i = s.rd r i := rfl
@[simp] theorem emit_outbox : (s.emit o).outbox = s.outbox ++ [o] := rfl
@[simp] theorem emit_mem : (s.emit o).mem = s.mem := rfl
@[simp] theorem emit_time : (s.emit o).time = s.time := rfl
@[simp] theorem emit_parts : (s.emit o).parts = s.parts := rfl
@[simp] theorem emit_buddies : (s.emit o).buddies = s.buddies := rfl
@[simp] theorem emit_msys : (s.emit o).msys = s.msys := rfl
@[simp] theorem emit_ports : (s.emit o).ports = s.ports := rfl
@[simp] theorem emit_router : (s.emit o).router = s.router := rfl
@[simp] theorem emit_host : (s.emit o).host = s.host := rfl
@[simp] theorem emit_clover : (s.emit o).clover = s.clover := rfl
@[simp] theorem emit_rst : (s.emit o).rst = s.rst := rfl
@[simp] theorem emit_power : (s.emit o).power = s.power := rfl
@[simp] theorem emit_ledger : (s.emit o).ledger = s.ledger := rfl
@[simp] theorem emit_mgmt : (s.emit o).mgmt = s.mgmt := rfl
@[simp] theorem emit_obs : (s.emit o).obs = s.obs := rfl
@[simp] theorem emit_part (p : Nat) : (s.emit o).part p = s.part p := rfl
@[simp] theorem emit_block (b : Nat) : (s.emit o).block b = s.block b := rfl
@[simp] theorem emit_port (k : Nat) : (s.emit o).port k = s.port k := rfl

end

/-! ### Queue contexts -/

section
variable (s : State)

@[simp] theorem queue_modQueue_same (g : Nat) (f : QCtx → QCtx) : (modQueue s g f).queue g = f (s.queue g) := by
  simp [State.queue, modQueue, State.modHost, mapGet_mapPut_same]

theorem queue_modQueue_other {g k : Nat} (f : QCtx → QCtx) (h : k ≠ g) : (modQueue s g f).queue k = s.queue k := by
  simp [State.queue, modQueue, State.modHost, mapGet_mapPut_other _ _ _ h]

theorem queue_congr {t : State} (h : t.host = s.host) (k : Nat) : t.queue k = s.queue k := by
  rw [State.queue, State.queue, h]

@[simp] theorem queue_record (code source : Nat) (fs : List (Nat × Nat)) (k : Nat) :
    (s.record code source fs).queue k = s.queue k := queue_congr s (record_host ..) k

@[simp] theorem queue_bumpSat (r : Reg) (i n k : Nat) : (s.bumpSat r i n).queue k = s.queue k := rfl

@[simp] theorem rd_modQueue (g : Nat) (f : QCtx → QCtx) (r : Reg) (i : Nat) : (modQueue s g f).rd r i = s.rd r i := rfl

/-- Signalling a vector leaves every queue's context. -/
@[simp] theorem queue_msix (f v k : Nat) : (msix s f v).queue k = s.queue k := by
  unfold msix; split <;> rfl

end

/-! ### Doorbells (R182) -/

section
variable {s : State} {f j g : Nat}

/-- A refused doorbell gives its error, counts and leaves every other queue. -/
theorem dbRefuse_spec (s : State) (f g err : Nat) :
    (dbRefuse s f g err).queue g = { s.queue g with dbErr := err } ∧ Counted s (dbRefuse s f g err) R.HOST_FN_DB_DROP f 1 ∧
      ∀ k, k ≠ g → (dbRefuse s f g err).queue k = s.queue k := by
  refine ⟨by simp [dbRefuse, dbDrop], ?_, fun k hk => by simp [dbRefuse, dbDrop, queue_modQueue_other _ _ hk]⟩
  rw [Counted, dbRefuse, rd_record _ _ _ _ _ _ (by decide), dbDrop, rd_bumpSat_same, rd_modQueue]

theorem sqTail_of_disabled (hg : s.localQ f j = some g) (v : Nat) (h : (s.queue g).state ≠ .enabled) :
    sqTail s f j v = dbRefuse s f g 1 := by simp [sqTail, hg, h]

theorem sqTail_of_out {v : Nat} (hg : s.localQ f j = some g) (h : (s.queue g).state = .enabled)
    (hv : (s.queue g).sqSize ≤ v % 65536) : sqTail s f j v = dbRefuse s f g 2 := by simp [sqTail, hg, h, hv]

theorem sqTail_of_in {v : Nat} (hg : s.localQ f j = some g) (h : (s.queue g).state = .enabled)
    (hv : v % 65536 < (s.queue g).sqSize) : sqTail s f j v = modQueue s g fun q => { q with sqTail := v % 65536 } := by
  simp [sqTail, hg, h, hv]

theorem cqHead_of_disabled (hg : s.localQ f j = some g) (v : Nat) (h : (s.queue g).state ≠ .enabled) :
    cqHead s f j v = dbRefuse s f g 1 := by simp [cqHead, hg, h]

theorem cqHead_of_out {v : Nat} (hg : s.localQ f j = some g) (h : (s.queue g).state = .enabled)
    (hv : (s.queue g).cqSize ≤ v % 65536) : cqHead s f j v = dbRefuse s f g 3 := by simp [cqHead, hg, h, hv]

theorem cqHead_of_in {v : Nat} (hg : s.localQ f j = some g) (h : (s.queue g).state = .enabled)
    (hv : v % 65536 < (s.queue g).cqSize)
    (hu : (v % 65536 + ((s.queue g).cqSize - (s.queue g).cqHead)) % (s.queue g).cqSize ≤ (s.queue g).cqUsed) :
    cqHead s f j v = modQueue s g fun q => { q with cqHead := v % 65536 } := by
  simp [cqHead, hg, h, hv, hu]

/-! ### Queue contexts enabled and written (R181, R182) -/

theorem queueEnable_of_valid (hg : s.localQ f j = some g) (h : (s.queue g).state = .disabled) (hv : ctxValid f (s.queue g) = true) :
    queueEnable s f j = modQueue s g fun q =>
      { q with sqHead := 0, sqTail := 0, cqHead := 0, cqTail := 0, phase := true, state := .enabled } := by
  simp [queueEnable, hg, h, hv]

theorem queueEnable_of_invalid (hg : s.localQ f j = some g) (h : (s.queue g).state = .disabled)
    (hv : ctxValid f (s.queue g) = false) : queueEnable s f j = msix (dbRefuse s f g 4) f 0 := by
  simp [queueEnable, hg, h, hv]

/-- The low 64 bits written read back. -/
theorem bits_setBits_low (n : Nat) {x : Nat} (h : x < 2 ^ 64) : bits (setBits n 0 64 x) 0 64 = x := by
  simp only [bits, setBits]
  omega

theorem exec_queueContextWrite (hg : s.localQ f j = some g) (hi lo x : Nat) :
    exec (.queueContextWrite f j hi lo x) s = .next (ctxWrite s f g lo (hi + 1 - lo) x) := by
  show Host.Outcome.next _ = _
  rw [hg]

end

/-- Settles O34: each doorbell, enable and context write by the case of the queue's state and of the value. -/
theorem doorbellsAndContexts : Obligations.DoorbellsAndContexts := by
  intro s f j v g hg
  have refused (err : Nat) := dbRefuse_spec s f g err
  refine ⟨fun he => ⟨fun hv => ?_, fun hv => ?_, fun hv hu => ?_, fun hv => ?_⟩, fun hd => ⟨?_, ?_⟩, fun hd => ⟨fun hv => ?_,
    fun hv => ?_, fun hi lo x => ?_⟩, fun hd hi lo x => ?_⟩
  · exact ⟨_, congrArg Host.Outcome.next (sqTail_of_in hg he hv), queue_modQueue_same .., fun k hk => queue_modQueue_other _ _ hk⟩
  · exact ⟨_, congrArg Host.Outcome.next (sqTail_of_out hg he hv), refused 2⟩
  · exact ⟨_, congrArg Host.Outcome.next (cqHead_of_in hg he hv hu), queue_modQueue_same .., fun k hk => queue_modQueue_other _ _ hk⟩
  · exact ⟨_, congrArg Host.Outcome.next (cqHead_of_out hg he hv), refused 3⟩
  · exact ⟨_, congrArg Host.Outcome.next (sqTail_of_disabled hg v hd), refused 1⟩
  · exact ⟨_, congrArg Host.Outcome.next (cqHead_of_disabled hg v hd), refused 1⟩
  · exact ⟨_, congrArg Host.Outcome.next (queueEnable_of_valid hg hd hv), queue_modQueue_same ..⟩
  · refine ⟨_, congrArg Host.Outcome.next (queueEnable_of_invalid hg hd hv), ?_⟩
    beta_reduce
    rw [queue_msix, (refused 4).1]
    exact ⟨hd, rfl⟩
  · refine ⟨_, exec_queueContextWrite hg hi lo x, ?_⟩
    beta_reduce
    rw [ctxWrite, if_neg (fun h => h hd), queue_modQueue_same]
    refine ⟨rfl, rfl, rfl, rfl, rfl, hd, ?_⟩
    rintro rfl rfl hx
    exact bits_setBits_low _ hx
  · refine ⟨_, exec_queueContextWrite hg hi lo x, ?_⟩
    beta_reduce
    rw [ctxWrite, if_pos hd]
    exact ⟨rfl, rd_bumpSat_same ..⟩

end Sys2Proof.Machine
end

section
/-! Writes with a check: what a command whose write is checked does (R353), and what the checks say of the role
(R358, R362). -/

namespace Sys2Proof.Machine

open Sys2Proof

/-! ### Commands that are one checked write -/

/-- A command that is a checked write of a value to an entry, by some effect. -/
def IsGuarded (w : Who) (c : Instr) (s : State) (r : Reg) (i v : Nat) : Prop :=
  ∃ f, exec c s = .next (s.guard w r i v f)

theorem IsGuarded.turnedAway {w : Who} {c : Instr} {s : State} {r : Reg} {i v : Nat} (h : IsGuarded w c s r i v)
    (hn : ¬ Allowed s w r i v) : TurnedAway w c s (checkWrite s w r i v) := by
  obtain ⟨f, hf⟩ := h
  rw [TurnedAway, hf, guard_refused s hn]

section
variable {w : Who} {c : Instr} {s t : State} {r : Reg} {i v : Nat} {f : State → Written}

/-- A checked write that passes, with its effect. -/
theorem writes_of_guard {P : State → Prop} (hc : exec c s = .next (s.guard w r i v f)) (h : Allowed s w r i v)
    (hf : f s = done t) (hp : P (t.emit (.answer w rOk))) : Writes w c s P := by
  refine ⟨_, hc, ?_⟩
  rw [guard_ok s h, hf]
  exact ⟨hp, by simp [done, State.emit, State.setOutbox]⟩

/-- A checked write that passes the checks and is refused by the device's state. -/
theorem turnedAway_of_guard {reason : Nat} (hc : exec c s = .next (s.guard w r i v f)) (h : Allowed s w r i v)
    (hf : f s = (s, reason)) : TurnedAway w c s reason := by
  rw [TurnedAway, hc, guard_ok s h, hf]

end

/-! ### What the checks of a write imply -/

section
variable {s : State} {w : Who} {r : Reg} {i v : Nat}

/-- A write that the checks allow passed each of them. -/
theorem allowed_iff : Allowed s w r i v ↔ instIn r.inst i = true ∧ ¬ (r.acc = .ro ∨ r.acc = .const ∨ (r.index = 0x2010 ∧ i < 8)) ∧
    ¬ (s.serves w.role = false ∨ roleWrites w r i = false) ∧ s.entryUp r i = true ∧ inRange r v = true := by
  unfold Allowed checkWrite
  split_ifs <;> simp_all [rNoInstance, rAccess, rRole, rReset, rRange, rOk]

theorem inRange_lt (h : inRange r v = true) : v < 2 ^ regBits r := by
  simp only [inRange, Bool.and_eq_true, decide_eq_true_eq] at h
  exact h.1.1

theorem Allowed.lt (h : Allowed s w r i v) : v < 2 ^ regBits r := inRange_lt (allowed_iff.1 h).2.2.2.2

theorem Allowed.entryUp (h : Allowed s w r i v) : s.entryUp r i = true := (allowed_iff.1 h).2.2.2.1

theorem Allowed.fccUp (h : Allowed s w r i v) : s.fccUp = true := by
  have hup := h.entryUp
  simp only [State.entryUp, Bool.and_eq_true] at hup
  exact hup.1.1.1

theorem Allowed.roleWrites (h : Allowed s w r i v) : roleWrites w r i = true := by
  obtain ⟨-, -, hrole, -⟩ := allowed_iff.1 h
  exact Bool.eq_true_of_not_eq_false fun e => hrole (.inr e)

theorem Allowed.acc_ne_ro (h : Allowed s w r i v) : r.acc ≠ .ro := fun e => (allowed_iff.1 h).2.1 (.inl e)

end

/-- Settles O57: each listed command is one checked write, and the checks include that of the role. -/
theorem refusedWrites : Obligations.RefusedWrites := by
  refine ⟨fun s who i v x hx hn => IsGuarded.turnedAway ?_ hn, fun s who r i v h => ?_⟩
  · revert x
    repeat refine List.forall_mem_cons.2 ⟨fun _ => ⟨_, rfl⟩, ?_⟩
    simp
  · have hrole := h.roleWrites
    refine ⟨?_, ?_, ?_, h.acc_ne_ro, h.lt, h.fccUp⟩
    · intro e
      simp [roleWrites, e] at hrole
    · intro e
      simpa [roleWrites, e] using hrole
    · rintro e ⟨hi, hu⟩
      simp [roleWrites, e, hi, hu] at hrole

end Sys2Proof.Machine
end

section
/-! Messages of the FCC on VC0: a packet that is not of VC1 changes only the queues of the ports and the counters of the
fabric, and what a unit sends stands at the end of what was sent before it (R151, R270, R271). -/

namespace Sys2Proof.Machine

open Sys2Proof

/-- A change that keeps to some places keeps to more. -/
theorem Keeps.mono {S T : List Nat} {s t : State} (h : Keeps S s t) (hST : Sub S T) : Keeps T s t := by
  refine ⟨fun p hp hd => h.same p (fun hS => ?_) fun h31 => ?_, h.wf, h.onward⟩
  · rcases hST p hS with hT | ⟨h22, hT⟩
    · exact hp hT
    · exact absurd (hd hT) (by omega)
  · rcases hST 31 h31 with hT | ⟨-, hT⟩ <;> exact hd hT

/-! ### Packets of other channels than VC1 on their way -/

/-- The places that a packet on its way changes where it is not of VC1. -/
def wayPlaces : List Nat := [9, 16, 0x4110, 0x4140, 0x7002]

theorem dropReg_place (cause : Nat) : regPlace (dropReg cause) = 0x4140 := by unfold dropReg; split <;> rfl

section
variable {s : State}

theorem dropPkt_way {unit cause : Nat} {p : Packet} (h : p.vc ≠ 1) : Keeps [16, 0x4140, 0x7002] s (dropPkt s unit cause p) := by
  unfold dropPkt dropAs
  rw [if_neg h]
  refine record_keeps (.of rfl Sub.rfl) (bumpSat_keeps ?_ (Keeps.refl _ _))
  rw [dropReg_place]
  exact .of rfl Sub.rfl

/-- A packet dropped, its buffer's room given back. -/
theorem lostPkt_way {unit cause : Nat} {q : QPacket} {p : Packet} (h : p.vc ≠ 1) :
    Keeps wayPlaces s (dropPkt (releasePkt s q) unit cause p) :=
  (releasePkt_keeps (.of rfl Sub.rfl) (Keeps.refl _ s)).trans ((dropPkt_way h).mono (.of rfl Sub.rfl))

theorem putOn_way {port : Nat} {q : QPacket} (h : q.pkt.vc ≠ 1) : Keeps wayPlaces s (putOn s port q) := by
  have queued : Keeps wayPlaces s (queueAt s port q) := queueAt_keeps (.of rfl Sub.rfl) (Keeps.refl _ s)
  unfold putOn
  exact .ite queued (.ite (lostPkt_way h) (bumpSat_keeps (.of rfl Sub.rfl) queued))

theorem forward_way {q : QPacket} {hop : Bool} (h : q.pkt.vc ≠ 1) : Keeps wayPlaces s (forward s q hop) := by
  unfold forward
  exact .ite (lostPkt_way h) (.ite (lostPkt_way h) (putOn_way h))

theorem vc0Seal_vc (s : State) (p : Packet) (body : List Byte) : (vc0Seal s p body).vc = p.vc := by
  unfold vc0Seal; split <;> rfl

theorem vc0Send_way {dst : Nat} {body : List Byte} : Keeps wayPlaces s (vc0Send s dst body) := by
  unfold vc0Send
  refine .ite (Keeps.refl _ s) (forward_way ?_)
  rw [vc0Seal_vc]
  exact Nat.zero_ne_one

theorem vc0Local_way {port : Nat} {body : List Byte} : Keeps wayPlaces s (vc0Local s port body) := by
  unfold vc0Local
  exact .ite (queueAt_keeps (.of rfl Sub.rfl) (Keeps.refl _ s)) (Keeps.refl _ s)

end

/-! ### Clover and management messages -/

/-- The places that a message of the FCC changes. -/
def sendPlaces : List Nat := [9, 16, 20, 0x4110, 0x4140, 0x7002]

section
variable (s : State)

theorem emit_way (o : Out) : Keeps sendPlaces s (s.emit o) := emit_keeps (.of rfl Sub.rfl) (Keeps.refl _ s)

theorem clvEmit_way (dst : Nat) (h : ClvHdr) (b : ClvBody) : Keeps sendPlaces s (clvEmit s dst h b) :=
  (emit_way s _).trans (vc0Send_way.mono (.of rfl Sub.rfl))

@[simp] theorem clvEmit_outbox (dst : Nat) (h : ClvHdr) (b : ClvBody) :
    (clvEmit s dst h b).outbox = s.outbox ++ [.clover none dst h b] := by
  unfold clvEmit
  rw [vc0Send_way.outbox_eq rfl]
  rfl

theorem clvLocal_way (port : Nat) (h : ClvHdr) (b : ClvBody) : Keeps sendPlaces s (clvLocal s port h b) :=
  (emit_way s _).trans (vc0Local_way.mono (.of rfl Sub.rfl))

@[simp] theorem clvLocal_outbox (port : Nat) (h : ClvHdr) (b : ClvBody) :
    (clvLocal s port h b).outbox = s.outbox ++ [.clover (some port) (s.beyond port) h b] := by
  unfold clvLocal
  rw [vc0Local_way.outbox_eq rfl]
  rfl

@[simp] theorem mgmtEmit_outbox (h : ClvHdr) (dst msg : Nat) (f : Frame) :
    (mgmtEmit s h dst msg f).outbox = s.outbox ++ [.mgmt dst msg f] := by
  unfold mgmtEmit
  rw [vc0Send_way.outbox_eq rfl]
  rfl

theorem clvSend_way (p dst : Nat) (b : ClvBody) : Keeps sendPlaces s (clvSend s p dst b) := clvEmit_way ..

theorem clvRank_way (p r : Nat) (b : ClvBody) : Keeps sendPlaces s (clvRank s p r b) := clvSend_way ..

theorem clvRank_outbox (p r : Nat) (b : ClvBody) :
    (clvRank s p r b).outbox = s.outbox ++ [.clover none (s.rankChip p r) (clvHdr s p) b] := clvEmit_outbox ..

end

/-! ### The tree of a partition (R282) -/

/-- The places from which a chip's place in the tree of a partition and the header of its messages follow. -/
def treePlaces : List Nat := [11, 0x3100, 0x4100, 0x4104, 0x4105, 0x6203, 0x6210]

/-- None of a list of changes reaches the trees. -/
def TreeFree (T : List Nat) : Prop := ∀ p ∈ treePlaces, (T.contains p || T.contains 31) = false

section
variable {T : List Nat} {s t : State} (h : Keeps T s t) (hT : TreeFree T)
include h hT

theorem Keeps.me_eq : t.me = s.me := by
  have h11 := hT 11 (by decide)
  rw [Bool.or_eq_false_iff] at h11
  exact congrArg Router.chipId (h.at 11 h11.1 (by decide)).symm

theorem Keeps.injVer_eq : t.injVer = s.injVer := h.rd R.FAB_EPOCH_INJ 0 (hT _ (by decide))

theorem Keeps.tagOf_eq (p : Nat) : t.tagOf p = s.tagOf p := h.rd R.CMP_PART_TAG p (hT _ (by decide))

theorem Keeps.torus_eq : t.torusX = s.torusX ∧ t.torusY = s.torusY ∧ t.torusZ = s.torusZ := by
  refine ⟨?_, ?_, ?_⟩ <;>
    simp only [State.torusX, State.torusY, State.torusZ, h.rd R.FAB_TORUS_DIM _ (hT _ (by decide))]

theorem Keeps.dslot_eq (v d : Nat) : t.dslot v d = s.dslot v d := by
  simp only [State.dslot, h.rd R.FAB_DMAP _ (hT _ (by decide))]

theorem Keeps.override_eq (v d r : Nat) : t.override v d r = s.override v d r := by
  simp only [State.override, h.rd R.FAB_DMAP_OVR _ (hT _ (by decide))]

theorem Keeps.rankOf_eq (d c : Nat) : t.rankOf d c = s.rankOf d c := by
  obtain ⟨hx, hy, hz⟩ := h.torus_eq hT
  have hat (d : DSlot) (c : Nat) : rankAt t d c = rankAt s d c := by simp only [rankAt, hx, hy, hz]
  simp only [State.rankOf, h.injVer_eq hT, h.dslot_eq hT, h.override_eq hT, hat, h.rd R.FAB_DMAP_OVR _ (hT _ (by decide))]

theorem Keeps.chipOf_eq (v d r : Nat) : t.chipOf v d r = s.chipOf v d r := by
  obtain ⟨hx, hy, hz⟩ := h.torus_eq hT
  simp only [State.chipOf, h.dslot_eq hT, h.override_eq hT, hx, hy, hz]

theorem Keeps.domOf_eq (p : Nat) : t.domOf p = s.domOf p := by
  simp only [State.domOf, h.injVer_eq hT, h.tagOf_eq hT, h.dslot_eq hT, h.me_eq hT]

theorem Keeps.treeRank_eq (p : Nat) : t.rank p = s.rank p := by
  simp only [State.rank, h.tagOf_eq hT, h.me_eq hT, h.rankOf_eq hT]

theorem Keeps.root_eq (p : Nat) : t.root p = s.root p := by
  simp only [State.root, h.domOf_eq hT, h.rd R.CLV_ROOT _ (hT _ (by decide))]

theorem Keeps.parent_eq (p : Nat) : t.parent p = s.parent p := by
  simp only [State.parent, h.domOf_eq hT, h.root_eq hT, h.treeRank_eq hT]

theorem Keeps.children_eq (p : Nat) : t.children p = s.children p := by
  simp only [State.children, h.domOf_eq hT, h.root_eq hT, h.treeRank_eq hT]

theorem Keeps.rankChip_eq (p r : Nat) : t.rankChip p r = s.rankChip p r := by
  simp only [State.rankChip, h.injVer_eq hT, h.tagOf_eq hT, h.chipOf_eq hT, h.me_eq hT]

theorem Keeps.clvHdr_eq (p : Nat) : clvHdr t p = clvHdr s p := by
  simp only [clvHdr, h.tagOf_eq hT, h.me_eq hT, h.rd R.CLV_TRAY_ID _ (hT _ (by decide))]

end

theorem treeFree_sendPlaces : TreeFree sendPlaces := by unfold TreeFree; decide

section
variable {s : State} {p : Nat}

theorem toChildren_nil (h : s.children p = []) (b : ClvBody) : toChildren s p b = s := by simp [toChildren, h, State.each]

theorem toParent_way (b : ClvBody) : Keeps sendPlaces s (toParent s p b) := by
  unfold toParent
  split
  · exact clvRank_way ..
  · exact Keeps.refl _ s

end

end Sys2Proof.Machine
end

section
/-! Spares and the choice of buddy (R262, R263). -/

namespace Sys2Proof.Machine

open Sys2Proof

/-! ### Writes of entries leave blocks, partitions and ports -/

section
variable (s : State) (r : Reg) (i v : Nat)

@[simp] theorem part_wr (p : Nat) : (s.wr r i v).part p = s.part p := rfl
@[simp] theorem block_wr (b : Nat) : (s.wr r i v).block b = s.block b := rfl
@[simp] theorem port_wr (k : Nat) : (s.wr r i v).port k = s.port k := rfl
@[simp] theorem part_bumpSat (p : Nat) : (s.bumpSat r i v).part p = s.part p := rfl
@[simp] theorem block_bumpSat (b : Nat) : (s.bumpSat r i v).block b = s.block b := rfl
@[simp] theorem port_bumpSat (k : Nat) : (s.bumpSat r i v).port k = s.port k := rfl

end

/-! ### The buddy state of a partition (R250) -/

section
variable (s : State) (p new cause : Nat)

theorem setBuddyState_way : Keeps [16, 0x6102, 0x7002] s (setBuddyState s p new cause) := setBuddyState_keeps Sub.rfl (Keeps.refl _ s)

theorem rd_setBuddyState_out (r : Reg) (i : Nat)
    (h : ([16, 0x6102, 0x7002].contains (regPlace r) || [16, 0x6102, 0x7002].contains 31) = false) :
    (setBuddyState s p new cause).rd r i = s.rd r i := (setBuddyState_way s p new cause).rd r i h

@[simp] theorem part_setBuddyState (k : Nat) : (setBuddyState s p new cause).part k = s.part k :=
  (setBuddyState_way s p new cause).part_eq rfl k

@[simp] theorem outbox_setBuddyState : (setBuddyState s p new cause).outbox = s.outbox :=
  (setBuddyState_way s p new cause).outbox_eq rfl

@[simp] theorem mem_setBuddyState : (setBuddyState s p new cause).mem = s.mem := (setBuddyState_way s p new cause).mem rfl

end

/-! ### Taking part in a rollback's completion (R283) -/

/-- A chip with a parent that takes part in a rollback's completion sends at most a message. -/
theorem sendRolled_way {s : State} {p r : Nat} (h : s.parent p = some r) : Keeps sendPlaces s (sendRolled s p) := by
  have hsome : (s.parent p).isSome = true := by rw [h]; rfl
  unfold sendRolled
  dsimp only
  cases (s.part p).replay with
  | none => exact Keeps.refl _ s
  | some from_ =>
    dsimp only
    rw [if_pos hsome]
    exact .ite (Keeps.refl _ s) (toParent_way _)

/-! ### The end of a pull (R262) -/

/-- The state of a spare whose pull brought no page, before it takes part in the rollback's completion. -/
def adoptState (s : State) (p : Nat) : State :=
  let q := s.part p
  let s2 := ((((s.wr R.SEAL_LAST p q.adoptStep).wr R.SEAL_PROT p q.adoptStep).wr R.SEAL_STEP p (nextStep q.adoptStep)).wr
    R.SEAL_SPARE_STATE p 4).wr R.SEAL_ADOPT_RESULT p 0
  let s3 := setBuddyState (s2.wr R.SEAL_BUDDY p (s.rd R.SEAL_ADOPT_HOST p)) p bCurrent 8
  let s4 := (s3.wr R.CMP_PLAN_STATE p psStopped).modPart p fun x =>
    { x with runGen := q.adoptGen, replay := some (nextStep q.adoptStep), restored := true, rolledFrom := [] }
  let ms := ((s.now - q.adoptNs) / 1000000).toNat
  (s4.record 0xA031 uFcc [(4, s.rd R.SEAL_ADOPT_RANK p), (4, ms)]).record 0xA004 uFcc [(4, q.adoptStep), (4, ms)]

theorem adopted_nil {s : State} {p : Nat} (hs : s.rd R.SEAL_SPARE_STATE p = 3) (hz : zeroDone s p = true) :
    adopted s p [] = sendRolled (adoptState s p) p := if_neg (by simp [hs, hz])

theorem adopted_zeroing {s : State} {p : Nat} (hz : zeroDone s p = false) (pages : List (Nat × PageImage)) :
    adopted s p pages = s := if_pos (.inr hz)

section
variable (s : State) (p : Nat)

theorem adoptState_way : Keeps [6, 16, 0x3000, 0x6100, 0x6102, 0x6103, 0x7002] s (adoptState s p) := by
  refine record_keeps (.of rfl Sub.rfl) (record_keeps (.of rfl Sub.rfl) (modPart_keeps (.of rfl Sub.rfl) (wr_keeps (.of rfl Sub.rfl)
    (setBuddyState_keeps (.of rfl Sub.rfl) ?_))))
  repeat refine wr_keeps (.of rfl Sub.rfl) ?_
  exact Keeps.refl _ s

theorem adoptState_part : (adoptState s p).part p = { s.part p with
    runGen := (s.part p).adoptGen, replay := some (nextStep (s.part p).adoptStep), restored := true, rolledFrom := [] } := by
  simp only [adoptState, record_part, part_modPart_same, part_wr, part_setBuddyState]

theorem adoptState_rd :
    (adoptState s p).rd R.SEAL_SPARE_STATE p = 4 ∧ (adoptState s p).rd R.SEAL_LAST p = (s.part p).adoptStep % 2 ^ 32 ∧
      (adoptState s p).rd R.SEAL_STEP p = nextStep (s.part p).adoptStep ∧ (adoptState s p).pstate p = psStopped := by
  simp (disch := decide) only [adoptState, State.pstate, rd_record, rd_setBuddyState_out, rd_modPart, rd_wr_ne, rd_wr_same]
  exact ⟨rfl, rfl, Nat.mod_eq_of_lt (Nat.mod_lt _ (by decide)), rfl⟩

end

/-- What the completion of a pull leaves, at a rank with a parent. -/
theorem sendRolled_adoptState {s : State} {p r : Nat} (hr : s.parent p = some r) :
    Keeps sendPlaces (adoptState s p) (sendRolled (adoptState s p) p) := by
  refine sendRolled_way (r := r) ?_
  rw [(adoptState_way s p).parent_eq (by unfold TreeFree; decide), hr]

/-! ### SEAL_ADOPT_CMD and SEAL_BUDDY (R262, R263) -/

section
variable {s : State} {p : Nat} {h : BuddyHeader}

/-- A spare whose header agrees, before its events. -/
def pullState (s : State) (p : Nat) (h : BuddyHeader) : State :=
  (s.wr R.SEAL_SPARE_STATE p 3).modPart p fun q => { q with adoptNs := s.now, adoptStep := h.step, adoptGen := h.gen % 16 }

theorem adopt_agrees (hs : s.rd R.SEAL_SPARE_STATE p = 2) (hd : h.digest = imgDigest (s.img p))
    (hr : h.rank = s.rd R.SEAL_ADOPT_RANK p) : ∃ a b, adopt s p h =
      done (((pullState s p h).record 0xA030 uFcc a).record 0xA003 uFcc b) :=
  ⟨_, _, by rw [adopt, if_neg (fun e => e hs), if_neg (fun e => e hd), if_neg (fun e => e hr)]; rfl⟩

theorem adopt_differs (hs : s.rd R.SEAL_SPARE_STATE p = 2)
    (hd : h.digest ≠ imgDigest (s.img p) ∨ h.rank ≠ s.rd R.SEAL_ADOPT_RANK p) : ∃ k, adopt s p h = done (adoptRefuse s p k) := by
  unfold adopt
  rw [if_neg (fun e => e hs)]
  split_ifs
  · exact ⟨_, rfl⟩
  · exact ⟨_, rfl⟩
  · simp_all

theorem adoptRefuse_rd (s : State) (p reason : Nat) :
    (adoptRefuse s p reason).rd R.SEAL_SPARE_STATE p = 5 ∧ (adoptRefuse s p reason).rd R.SEAL_ADOPT_RESULT p = 6 := by
  simp (disch := decide) only [adoptRefuse, rd_record, rd_wr_ne, rd_wr_same]
  exact ⟨rfl, rfl⟩

theorem rd_buddyNone (s : State) (p cause : Nat) : (buddyNone s p cause).rd R.SEAL_BUDDY_STATE p = bNone :=
  rd_setBuddyState s p cause (by decide)

/-- Neither a copy begun nor a copy given up changes the choice of buddy. -/
theorem rd_buddy_setBuddyState (s : State) (p new cause : Nat) :
    (setBuddyState s p new cause).rd R.SEAL_BUDDY p = s.rd R.SEAL_BUDDY p := by
  dsimp only [setBuddyState]
  split
  · rfl
  · simp (disch := decide) only [rd_record, rd_wr_ne]

end

/-- Settles O44: by the checks of the header, the end of the pull, and the partition's state. -/
theorem spareAdoption : Obligations.SpareAdoption := by
  intro s who p _
  refine ⟨fun h ha => ⟨fun hs => turnedAway_of_guard rfl ha (if_pos hs), fun hs => ⟨fun hd hr => ?_, fun hd => ?_⟩⟩,
    fun r hs hz hlt hr _ => ?_, fun hz => ⟨_, rfl, adopted_zeroing hz []⟩, fun v ha => ⟨fun hst => ?_, fun hst => ?_⟩⟩
  · obtain ⟨a, b, hadopt⟩ := adopt_agrees hs hd hr
    refine writes_of_guard rfl ha hadopt ?_
    have hpart (u : State) : (u.emit (.answer who rOk)).part p = u.part p := rfl
    rw [hpart, record_part, record_part, pullState, part_modPart_same]
    refine ⟨?_, rfl, rfl⟩
    show State.rd _ _ _ = 3
    simp (disch := decide) only [State.emit, rd_setOutbox, rd_record, rd_modPart, rd_wr_same]
    rfl
  · obtain ⟨k, hadopt⟩ := adopt_differs hs hd
    exact writes_of_guard rfl ha hadopt (adoptRefuse_rd s p k)
  · refine ⟨_, congrArg Host.Outcome.next (adopted_nil hs hz), ?_⟩
    have hk := sendRolled_adoptState hr
    obtain ⟨hspare, hlast, hstep, hst⟩ := adoptState_rd s p
    have hnext : nextStep (s.part p).adoptStep = (s.part p).adoptStep + 1 := Nat.mod_eq_of_lt (by omega)
    beta_reduce
    rw [hk.rd _ _ (by decide), hk.rd _ _ (by decide), hk.rd _ _ (by decide), hk.part_eq (by decide), hk.pstate_eq (by decide),
      hspare, hlast, hstep, hst, adoptState_part, hnext]
    exact ⟨rfl, Nat.mod_eq_of_lt (by omega), rfl, rfl, rfl, rfl⟩
  · have hv : v < 2 ^ 32 := ha.lt
    refine writes_of_guard rfl ha (if_pos hst) ?_
    show State.rd _ _ _ = v ∧ State.rd _ _ _ = _
    simp only [State.emit, rd_setOutbox]
    split
    · refine ⟨?_, rd_buddyNone ..⟩
      rw [buddyNone, rd_modPart, rd_buddy_setBuddyState, rd_wr_same]
      exact Nat.mod_eq_of_lt hv
    · refine ⟨?_, rd_fillStart ..⟩
      rw [fillStart, rd_modPart, rd_buddy_setBuddyState, rd_wr_same]
      exact Nat.mod_eq_of_lt hv
  · refine turnedAway_of_guard rfl ha (if_neg ?_)
    rintro (h | h | h) <;> rcases hst with h' | h' | h' <;> rw [h] at h' <;> exact absurd h' (by decide)

end Sys2Proof.Machine
end

section
/-! A leaf's vote, and what is kept of children's votes and reports (R252, R253, R282 to R284). -/

namespace Sys2Proof.Machine

open Sys2Proof

/-! ### The vote of a leaf (R252, R253) -/

section
variable {s : State} {p r : Nat}

/-- Whether anything refuses the seal of the step under way. -/
def refuses (s : State) (p : Nat) : Bool := (s.part p).verdict != {} || unclassified s p (s.rd R.SEAL_STEP p)

/-- Whether the delta of a copy that is kept is not complete. -/
def deltaLate (s : State) (p : Nat) : Bool :=
  (s.rd R.SEAL_BUDDY_STATE p == bCurrent || s.rd R.SEAL_BUDDY_STATE p == bBehind) &&
    ((s.part p).toSend ++ (s.part p).unacked) != []

/-- The chip's own vote of an outcome. -/
def ownVoteOf (s : State) (p outcome : Nat) : Vote :=
  { step := s.rd R.SEAL_STEP p, run := s.rd R.SEAL_RUN p, outcome := outcome, flags := voteFlags s p outcome, count := 1,
    digest := imgDigest (s.img p), rank := if outcome = 2 then s.rank p else 0xFFFFFFFF }

/-- The state with the chip's vote formed, before it is sent. -/
def voteState (s : State) (p outcome : Nat) : State :=
  let s1 := s.wr R.SEAL_VOTE p (outcome + 16 * (voteFlags s p outcome % 8))
  let s2 := if outcome = 1 then setBuddyState s1 p bBehind 7 else s1
  s2.modPart p fun q =>
    { q with
      ownVote := some (ownVoteOf s p outcome),
      lateVotes := if outcome = 0 then 0 else if outcome = 1 ∧ s.compat p = false then q.lateVotes + 1 else q.lateVotes }

/-- A chip may vote: its partition is Stopped for seal, not rolled back, and every verdict is there. -/
structure MayVote (s : State) (p : Nat) : Prop where
  stopped : s.pstate p = psStopped
  replay : (s.part p).replay = none
  delayed : (s.part p).delayed = none
  own : (s.part p).ownVote = none
  fenced : s.rd R.CLV_STATE 0 ≠ 1
  judged : ∀ b ∈ s.blocksOf p, (s.block b).verdicts = []

theorem sealVote_of_may (h : MayVote s p)
    (hw : ¬ (refuses s p = false ∧ deltaLate s p = true ∧ s.compat p = false ∧ (s.part p).deltaExpired = false)) :
    sealVote s p = sendVote (voteState s p (if refuses s p then 2 else if deltaLate s p then 1 else 0)) p := by
  have hjudged : ((s.blocksOf p).any fun b => (s.block b).verdicts != []) = false := by
    rw [List.any_eq_false]
    intro b hb
    simp [h.judged b hb]
  refine if_neg ?_
  simp only [h.stopped, h.replay, h.delayed, h.own, h.fenced, hjudged]
  simpa [refuses, deltaLate] using hw

theorem sealVote_waits (hr : refuses s p = false) (hl : deltaLate s p = true) (hc : s.compat p = false)
    (he : (s.part p).deltaExpired = false) : sealVote s p = s :=
  if_pos (.inr (.inr (.inr (.inr (.inr (.inr ⟨hr, hl, hc, he⟩))))))

/-- A leaf sends its vote to its parent. -/
theorem sendVote_leaf {own : Vote} (ho : (s.part p).ownVote = some own) (hc : s.children p = []) (hr : s.parent p = some r) :
    sendVote s p = clvRank s p r (.vote own) := by
  unfold sendVote
  simp [ho, hc, hr, toParent]

theorem voteState_way (s : State) (p outcome : Nat) : Keeps [6, 16, 0x6100, 0x6102, 0x7002] s (voteState s p outcome) := by
  have hwr : Keeps [6, 16, 0x6100, 0x6102, 0x7002] s (s.wr R.SEAL_VOTE p (outcome + 16 * (voteFlags s p outcome % 8))) :=
    wr_keeps (.of rfl Sub.rfl) (Keeps.refl _ s)
  dsimp only [voteState]
  refine modPart_keeps (.of rfl Sub.rfl) ?_
  exact .ite (setBuddyState_keeps (.of rfl Sub.rfl) hwr) hwr

theorem voteState_ownVote (s : State) (p outcome : Nat) :
    ((voteState s p outcome).part p).ownVote = some (ownVoteOf s p outcome) := by
  simp [voteState]

theorem voteState_deltaExpired (s : State) (p outcome : Nat) :
    ((voteState s p outcome).part p).deltaExpired = (s.part p).deltaExpired := by
  dsimp only [voteState]
  rw [part_modPart_same]
  split <;> simp

theorem voteState_vote (s : State) (p : Nat) {outcome : Nat} (ho : outcome ≤ 2) :
    (voteState s p outcome).rd R.SEAL_VOTE p % 16 = outcome := by
  have hwr : (s.wr R.SEAL_VOTE p (outcome + 16 * (voteFlags s p outcome % 8))).rd R.SEAL_VOTE p % 16 = outcome := by
    rw [rd_wr_same, show regBits R.SEAL_VOTE = 8 from rfl]
    omega
  dsimp only [voteState]
  rw [rd_modPart]
  split
  · rwa [rd_setBuddyState_out _ _ _ _ _ _ (by decide)]
  · exact hwr

theorem voteState_behind (s : State) (p : Nat) : (voteState s p 1).rd R.SEAL_BUDDY_STATE p = bBehind := by
  dsimp only [voteState]
  rw [rd_modPart, if_pos rfl, rd_setBuddyState _ _ _ (by decide)]

theorem voteState_outbox (s : State) (p outcome : Nat) : (voteState s p outcome).outbox = s.outbox :=
  (voteState_way s p outcome).outbox_eq rfl

/-- The vote of a leaf is kept, stands in SEAL_VOTE and goes to its parent. -/
theorem leafVote (hc : s.children p = []) (hr : s.parent p = some r) {outcome : Nat} (ho : outcome ≤ 2) :
    let t := sendVote (voteState s p outcome) p
    (t.part p).ownVote = some (ownVoteOf s p outcome) ∧ t.rd R.SEAL_VOTE p % 16 = outcome ∧
      t.outbox = s.outbox ++ [.clover none (s.rankChip p r) (clvHdr s p) (.vote (ownVoteOf s p outcome))] ∧
      t.rd R.SEAL_BUDDY_STATE p = (voteState s p outcome).rd R.SEAL_BUDDY_STATE p ∧
      (t.part p).deltaExpired = (s.part p).deltaExpired := by
  have hv := voteState_way s p outcome
  have htree : TreeFree [6, 16, 0x6100, 0x6102, 0x7002] := by unfold TreeFree; decide
  dsimp only
  rw [sendVote_leaf (voteState_ownVote ..) ((hv.children_eq htree p).trans hc) ((hv.parent_eq htree p).trans hr)]
  have hk := clvRank_way (voteState s p outcome) p r (.vote (ownVoteOf s p outcome))
  rw [hk.part_eq (by decide), hk.rd _ _ (by decide), hk.rd _ _ (by decide), clvRank_outbox, voteState_outbox,
    hv.rankChip_eq htree, hv.clvHdr_eq htree]
  exact ⟨voteState_ownVote .., voteState_vote s p ho, rfl, rfl, voteState_deltaExpired ..⟩

end

/-! ### The wait for a delta (R253) -/

section
variable {s : State} {p : Nat}

theorem deltaExpiry_early (h : s.now < boundary s p + (1000000 * s.rd R.SEAL_DELTA_WAIT_MS p : Nat)) : deltaExpiry s p = s :=
  if_pos (.inr (.inr (.inr (.inr h))))

theorem deltaExpiry_due (hm : MayVote s p) (hms : s.rd R.SEAL_DELTA_WAIT_MS p ≠ 0)
    (hl : (s.part p).lateVotes < s.rd R.SEAL_UNPROT_MAX p)
    (hd : boundary s p + (1000000 * s.rd R.SEAL_DELTA_WAIT_MS p : Nat) ≤ s.now) :
    deltaExpiry s p = sealVote (s.modPart p fun q => { q with deltaExpired := true }) p := by
  refine if_neg ?_
  simp only [hm.stopped, hm.own, hms, Option.isSome_none, ne_eq, not_true_eq_false, Bool.false_eq_true, false_or, not_or]
  exact ⟨by omega, by omega⟩

/-- That the wait is over changes nothing on which a vote depends but itself. -/
theorem MayVote.expired (h : MayVote s p) : MayVote (s.modPart p fun q => { q with deltaExpired := true }) p where
  stopped := h.stopped
  replay := by rw [part_modPart_same]; exact h.replay
  delayed := by rw [part_modPart_same]; exact h.delayed
  own := by rw [part_modPart_same]; exact h.own
  fenced := h.fenced
  judged := h.judged

theorem refuses_expired (s : State) (p : Nat) :
    refuses (s.modPart p fun q => { q with deltaExpired := true }) p = refuses s p := by
  unfold refuses
  rw [part_modPart_same]
  rfl

theorem deltaLate_expired (s : State) (p : Nat) :
    deltaLate (s.modPart p fun q => { q with deltaExpired := true }) p = deltaLate s p := by
  unfold deltaLate
  rw [part_modPart_same]
  rfl

theorem img_expired (s : State) (p : Nat) : (s.modPart p fun q => { q with deltaExpired := true }).img p = s.img p := by
  unfold State.img
  rw [part_modPart_same]

end

/-! ### Votes, READYs and the restore's reports of children (R282 to R284) -/

section
variable {s : State} {p child : Nat}

theorem fromRank_alive (h : s.isFailed (s.rankChip p child) = false) (f : State → State) : fromRank s p child f = f s := by
  rw [fromRank, h]
  rfl

theorem not_any_child {α : Type} {l : List (Nat × α)} (h : ∀ e ∈ l, e.1 ≠ child) : (l.any fun e => e.1 == child) = false := by
  rw [List.any_eq_false]
  intro e he
  simpa using h e he

theorem sendVote_none (h : (s.part p).ownVote = none) : sendVote s p = s := by
  unfold sendVote
  simp [h]

theorem voteRx_new (hc : child ∈ s.children p) {v : Vote} (ha : s.active p = true) (hr : (s.part p).replay = none)
    (ho : (s.part p).ownVote = none) (hn : ∀ e ∈ (s.part p).childVotes, e.1 ≠ child) (hs : v.step = s.rd R.SEAL_STEP p)
    (hu : v.run = s.rd R.SEAL_RUN p) :
    voteRx s p child v = s.modPart p fun q => { q with childVotes := q.childVotes ++ [(child, v)] } := by
  refine (if_neg ?_).trans (sendVote_none ?_)
  · simp [ha, hr, hs, hu, hc, not_any_child hn]
  · rw [part_modPart_same]
    exact ho

theorem voteRx_stale {v : Vote} (h : v.step ≠ s.rd R.SEAL_STEP p ∨ v.run ≠ s.rd R.SEAL_RUN p) : voteRx s p child v = s :=
  if_pos (.inr (.inr (h.elim .inl fun hr => .inr (.inl hr))))

theorem sendReady_none (h : (s.part p).readyOwn = false) : sendReady s p = s := by
  unfold sendReady
  simp [h]

theorem readyRx_new (hc : child ∈ s.children p) {m : ReadyMsg} (ho : (s.part p).readyOwn = false) (hw : m.withdraw = false)
    (hn : ∀ e ∈ (s.part p).readyFrom, e.1 ≠ child) :
    readyRx s p child m = s.modPart p fun q => { q with readyFrom := (s.part p).readyFrom ++ [(child, m)] } := by
  have hfind : ((s.part p).readyFrom.find? fun e => e.1 == child && e.2.step == m.step && e.2.digest == m.digest) = none := by
    rw [List.find?_eq_none]
    intro e he
    simp [hn e he]
  have hrest : ((s.part p).readyFrom.filter fun e => !(e.1 == child && e.2.step == m.step && e.2.digest == m.digest)) =
      (s.part p).readyFrom := by
    rw [List.filter_eq_self]
    intro e he
    simp [hn e he]
  have hin : (s.children p).contains child = true := List.contains_iff_mem.2 hc
  unfold readyRx
  simp only [hin, hw, hfind, hrest, Bool.true_eq_false, Bool.false_eq_true, if_false]
  refine sendReady_none ?_
  rw [part_modPart_same]
  exact ho

theorem sendRolled_none (h : (s.part p).restored = false) : sendRolled s p = s := by
  unfold sendRolled
  dsimp only
  split
  · rfl
  · exact if_pos (.inl h)

theorem rolledRx_new (hc : child ∈ s.children p) {m : RolledMsg} (hr : (s.part p).replay.isSome = true)
    (hn : (s.part p).restored = false) :
    rolledRx s p child m = s.modPart p fun q =>
      { q with rolledFrom := (q.rolledFrom.filter fun e => e.1 != child) ++ [(child, m)] } := by
  refine (if_neg ?_).trans (sendRolled_none ?_)
  · obtain ⟨n, hn⟩ := Option.isSome_iff_exists.1 hr
    simp [hn, hc]
  · rw [part_modPart_same]
    exact hn

/-- A leaf that has restored tells its parent so. -/
theorem sendRolled_leaf {r from_ : Nat} (hr : s.parent p = some r) (hc : s.children p = []) (hp : (s.part p).replay = some from_)
    (hd : (s.part p).restored = true) (hi : s.inDomain p = true) :
    sendRolled s p = clvRank s p r (.rolled { target := prevStep from_, gen := (s.part p).runGen, count := 1 }) := by
  unfold sendRolled
  simp [hr, hc, hp, hd, hi, toParent]

end

/-- Settles O40: a leaf's vote by what refuses it and by its delta; a child's message by whether it is kept already. -/
theorem votesOfChips : Obligations.VotesOfChips := by
  refine ⟨fun s p r hst hr hc hrep hdel hown hfen hjud _ => ?_, fun s p child halive hchild => ⟨fun v ha hrep hown hnew =>
    ⟨fun hs hu => ?_, fun hs => ?_⟩, fun m hown hw hnew => ?_, fun m hrep hres => ?_, fun k r from_ hr hc hrep hres hdom => ?_⟩⟩
  · have hmay : MayVote s p := ⟨hst, hrep, hdel, hown, hfen, hjud⟩
    refine ⟨fun href => ?_, fun href hlate => ?_, fun href hlate hcompat hexp => ⟨⟨_, rfl, ?_⟩, fun hms hlv => ⟨fun hdue => ?_, fun hearly => ?_⟩⟩⟩
    · have heq := sealVote_of_may hmay (fun h => by rw [show refuses s p = true from href] at h; exact absurd h.1 (by decide))
      rw [show refuses s p = true from href, if_pos rfl] at heq
      obtain ⟨ho, hv, hout, -, -⟩ := leafVote hc hr (outcome := 2) (by decide)
      refine ⟨_, congrArg Host.Outcome.next heq, ⟨_, ho, rfl, rfl, rfl, rfl, rfl, hv, hout⟩, ?_⟩
      rw [ho]
      rfl
    · have heq := sealVote_of_may hmay (fun h => by rw [show deltaLate s p = false from hlate] at h; exact absurd h.2.1 (by decide))
      rw [show refuses s p = false from href, show deltaLate s p = false from hlate, if_neg (by decide), if_neg (by decide)] at heq
      obtain ⟨ho, hv, hout, -, -⟩ := leafVote hc hr (outcome := 0) (by decide)
      exact ⟨_, congrArg Host.Outcome.next heq, _, ho, rfl, rfl, rfl, rfl, rfl, hv, hout⟩
    · exact sealVote_waits href hlate hcompat hexp
    · have heq := sealVote_of_may hmay.expired (fun h => by
        have h4 := h.2.2.2
        rw [part_modPart_same] at h4
        cases h4)
      rw [refuses_expired, deltaLate_expired, show refuses s p = false from href, show deltaLate s p = true from hlate,
        if_neg (by decide), if_pos rfl] at heq
      obtain ⟨ho, hv, hout, hb, hx⟩ := leafVote (s := s.modPart p fun q => { q with deltaExpired := true }) hc hr (outcome := 1) (by decide)
      refine ⟨_, congrArg Host.Outcome.next ((deltaExpiry_due hmay hms hlv hdue).trans heq),
        ⟨_, ho, rfl, rfl, rfl, rfl, ?_, hv, hout⟩, hb.trans (voteState_behind ..), hx.trans ?_⟩
      · exact congrArg imgDigest (img_expired s p)
      · rw [part_modPart_same]
    · exact ⟨_, rfl, deltaExpiry_early hearly⟩
  · refine ⟨_, congrArg Host.Outcome.next ((fromRank_alive halive _).trans (voteRx_new hchild ha hrep hown hnew hs hu)), ?_, rfl⟩
    rw [part_modPart_same]
  · exact ⟨_, rfl, (fromRank_alive halive _).trans (voteRx_stale hs)⟩
  · refine ⟨_, congrArg Host.Outcome.next ((fromRank_alive halive _).trans (readyRx_new hchild hown hw hnew)), ?_, rfl⟩
    rw [part_modPart_same]
  · refine ⟨_, congrArg Host.Outcome.next ((fromRank_alive halive _).trans (rolledRx_new hchild hrep hres)), ?_, rfl⟩
    rw [part_modPart_same]
  · have hsome : (s.parent k).isSome = true := by rw [hr]; rfl
    refine ⟨_, congrArg Host.Outcome.next ((if_pos hsome).trans (sendRolled_leaf hr hc hrep hres hdom)), clvRank_outbox .., ?_⟩
    exact (clvRank_way ..).parts rfl

end Sys2Proof.Machine
end

section
/-! Deltas and Filling pages at the sender and at the buddy (R247 to R251). -/

namespace Sys2Proof.Machine

open Sys2Proof

/-! ### Reads of poisoned words change of a partition at most its verdict (R17) -/

theorem doNotSeal_only_verdict (s : State) (k : Nat) (f : Verdict → Verdict) (p : Nat) :
    ∃ v, (doNotSeal s k f).part p = { s.part p with verdict := v } := by
  unfold doNotSeal
  split
  · by_cases hp : p = k
    · subst hp
      exact ⟨_, part_modPart_same ..⟩
    · exact ⟨_, part_modPart_other s _ hp⟩
  · exact ⟨_, rfl⟩

theorem poisonReads_only_verdict (s : State) (a n p : Nat) :
    ∃ v, (poisonReads s a n).part p = { s.part p with verdict := v } := by
  dsimp only [poisonReads]
  split_ifs
  · exact ⟨_, rfl⟩
  · exact doNotSeal_only_verdict ..
  · exact ⟨_, rfl⟩
  · exact doNotSeal_only_verdict ..

section
variable (s : State) (unit a n : Nat)

/-- A read in which the code check found nothing. -/
theorem chipRead_clean : (chipRead s unit a n []).1 = poisonReads s a n := rfl

theorem poisonReads_way : Keeps [6, 0x3410, 0x3411] s (poisonReads s a n) := poisonReads_keeps Sub.rfl (Keeps.refl _ s)

end

/-! ### Pages on their way to the buddy (R248, R250) -/

/-- A page as it leaves for the buddy. -/
def pageOut (s : State) (p step page : Nat) (filling : Bool) (a : Nat) (ecc : List EccHit) : Out :=
  .buddyPage (s.buddyChip p)
    { srcChip := s.me, srcPart := p, gen := (s.part p).runGen, step := step, page := page, filling := filling,
      data := { pageImage s a with bad := (lostWords ecc).foldl addNew (pageImage s a).bad } }

section
variable (s : State) (p step page : Nat) (filling : Bool) (a : Nat) (ecc : List EccHit)

theorem sendPage_some : sendPage s p step page filling (some a) ecc =
    (chipRead s uFcc a pageBytes ecc).1.emit (pageOut s p step page filling a ecc) := rfl

theorem sendPage_outbox : (sendPage s p step page filling (some a) ecc).outbox =
    (chipRead s uFcc a pageBytes ecc).1.outbox ++ [pageOut s p step page filling a ecc] := rfl

/-- A page in whose read the code check found nothing goes out alone. -/
theorem sendPage_clean :
    (sendPage s p step page filling (some a) []).outbox = s.outbox ++ [pageOut s p step page filling a []] ∧
      (sendPage s p step page filling (some a) []).mem = s.mem ∧
      ∃ v, (sendPage s p step page filling (some a) []).part p = { s.part p with verdict := v } := by
  have hk := poisonReads_way s a pageBytes
  rw [sendPage_outbox, sendPage_some, chipRead_clean, hk.outbox_eq rfl, emit_mem, emit_part]
  exact ⟨rfl, hk.mem rfl, poisonReads_only_verdict ..⟩

theorem countDelta_way : Keeps [0x6102] s (countDelta s p) := countDelta_keeps Sub.rfl (Keeps.refl _ s)

end

section
variable {s : State} {p step page a : Nat}

/-- What is sent of a delta, before it is counted. -/
def deltaSent (s : State) (p step page a : Nat) (rest : List (Nat × Nat)) (ecc : List EccHit) : State :=
  (sendPage s p step page false (some a) ecc).modPart p fun x =>
    { x with toSend := rest, unacked := x.unacked ++ [(step, page)] }

theorem deltaSend_head {rest : List (Nat × Nat)} (h : (s.part p).toSend = (step, page) :: rest)
    (ha : deltaAddr s p step page = some a) (ecc : List EccHit) :
    deltaSend s p ecc = countDelta (deltaSent s p step page a rest ecc) p := by
  unfold deltaSend
  simp only [h, ha]
  rfl

/-- What is sent of a copy that is Filling. -/
def fillSent (s : State) (p page a : Nat) (ecc : List EccHit) : State :=
  (sendPage s p (s.rd R.SEAL_STEP p) page true (some a) ecc).modPart p fun x =>
    { x with fillNext := x.fillNext + 1, fillUnacked := x.fillUnacked ++ [page] }

theorem fillSend_next {rest : List Nat} (h : (keptPages (s.img p)).drop (s.part p).fillNext = page :: rest)
    (hb : s.rd R.SEAL_BUDDY_STATE p = bFilling) (hp : s.power.holdUnplanned = false) (hr : (s.part p).replay = none)
    (ha : s.pageAddr p page = some a) (ecc : List EccHit) : fillSend s p ecc = fillSent s p page a ecc := by
  unfold fillSend
  simp only [h, hb, hp, hr, ha, Option.isNone_none, and_self, if_true]
  rfl

theorem deltaSent_outbox (s : State) (p step page a : Nat) (rest : List (Nat × Nat)) (ecc : List EccHit) :
    (deltaSent s p step page a rest ecc).outbox =
      (chipRead s uFcc a pageBytes ecc).1.outbox ++ [pageOut s p step page false a ecc] := by
  rw [deltaSent, modPart_outbox, sendPage_outbox]

theorem fillSent_outbox (s : State) (p page a : Nat) (ecc : List EccHit) : (fillSent s p page a ecc).outbox =
    (chipRead s uFcc a pageBytes ecc).1.outbox ++ [pageOut s p (s.rd R.SEAL_STEP p) page true a ecc] := by
  rw [fillSent, modPart_outbox, sendPage_outbox]

/-! ### Acknowledgements (R248, R251) -/

theorem pageAck_filling (h : s.rd R.SEAL_BUDDY_STATE p = bFilling) : pageAck s p step page true false =
    s.modPart p fun q => { q with fillUnacked := q.fillUnacked.erase page } := by
  unfold pageAck
  simp [h, bFilling, bNone]

/-- A delta's acknowledgement takes the page from those that wait for one; what follows changes no partition. -/
theorem pageAck_delta (h : s.rd R.SEAL_BUDDY_STATE p = bCurrent) : ∃ u, pageAck s p step page false false = u ∧
    u.part p = { s.part p with unacked := (s.part p).unacked.erase (step, page) } := by
  refine ⟨_, rfl, ?_⟩
  have hcatch (t : State) : Keeps [16, 0x6102, 0x7002] t (catchUp t p) := catchUp_keeps Sub.rfl (Keeps.refl _ t)
  have hseal (t : State) : Keeps [0x6102] t (buddySeal t p) := buddySeal_keeps Sub.rfl (Keeps.refl _ t)
  simp only [pageAck, h, show ¬ bCurrent = bNone by decide, if_false, Bool.false_eq_true]
  rw [(hseal _).part_eq rfl, (hcatch _).part_eq rfl, part_modPart_same]

end

/-! ### The buddy's side (R247, R249, R251) -/

section
variable {s : State} {d : DeltaPage}

theorem area_setArea_key (a : BuddyArea) {chip part : Nat} (hc : a.srcChip = chip) (hp : a.srcPart = part) :
    (setArea s a).area chip part = some a := by
  subst hc hp
  exact area_setArea_same s a

theorem pageRx_none (h : hostSlices s d.srcChip d.srcPart = 0) :
    pageRx s d = s.emit (.buddyAck d.srcChip d.srcPart d.step d.page d.filling true) := by
  unfold pageRx
  simp [h]

variable {a : BuddyArea} (hs : 0 < hostSlices s d.srcChip d.srcPart) (hl : localOf s d.srcChip = none)
  (ha : s.area d.srcChip d.srcPart = some a)
include hs hl ha

theorem pageRx_filling (hf : d.filling = true) : pageRx s d =
    (setArea s { a with copy := mapPut a.copy d.page d.data }).emit
      (.buddyAck d.srcChip d.srcPart d.step d.page d.filling false) := by
  unfold pageRx
  simp [hl, ha, hf, Nat.ne_of_gt hs]

theorem pageRx_delta (hf : d.filling = false) (hroom : a.stage.length < stageSize s a) : pageRx s d =
    (setArea s { a with stage := a.stage ++ [d] }).emit (.buddyAck d.srcChip d.srcPart d.step d.page d.filling false) := by
  unfold pageRx
  simp [hl, ha, hf, Nat.ne_of_gt hs, Nat.not_le.2 hroom]

end

/-- A merge leaves the later deltas in the stage. -/
theorem mergeDone_some {s : State} {chip part prot : Nat} {a : BuddyArea} (ha : s.area chip part = some a)
    (hm : a.merging = some prot) : ∃ copy, mergeDone s chip part = setArea s
      { a with copy := copy, stage := a.stage.filter (fun x => decide (prot < x.step)), step := prot, merging := none } := by
  unfold mergeDone
  simp only [ha, hm]
  exact ⟨_, rfl⟩

theorem area_src {s : State} {chip part : Nat} {a : BuddyArea} (h : s.area chip part = some a) :
    a.srcChip = chip ∧ a.srcPart = part := by
  have := List.find?_some h
  simpa using this

/-- Settles O43: pages and acknowledgements by their kind, at the sender and at the buddy. -/
theorem buddyCopies : Obligations.BuddyCopies := by
  refine ⟨fun s p step page => ⟨fun rest a hq ha => ⟨?_, fun ecc => ?_⟩, fun rest a hq hb hp hr ha => ⟨?_, fun ecc => ?_⟩,
    fun hb => ?_, fun hb => ?_, fun hb f => ?_⟩, fun s d => ⟨fun h => ?_, fun a hs hl ha hc hp => ⟨fun hf => ?_, fun hf hroom => ?_⟩,
    fun a prot ha hm => ?_⟩⟩
  · obtain ⟨hout, hmem, v, hpart⟩ := sendPage_clean s p step page false a
    refine ⟨_, congrArg Host.Outcome.next (deltaSend_head hq ha []), ?_⟩
    have hk := countDelta_way (deltaSent s p step page a rest []) p
    beta_reduce
    rw [hk.part_eq rfl, hk.mem rfl, hk.outbox_eq rfl, deltaSent, part_modPart_same, hpart, modPart_mem, modPart_outbox]
    exact ⟨rfl, rfl, hmem, hout⟩
  · refine ⟨_, congrArg Host.Outcome.next (deltaSend_head hq ha ecc), (chipRead s uFcc a pageBytes ecc).1.outbox, ?_⟩
    rw [(countDelta_way _ p).outbox_eq rfl]
    exact deltaSent_outbox ..
  · obtain ⟨hout, hmem, v, hpart⟩ := sendPage_clean s p (s.rd R.SEAL_STEP p) page true a
    refine ⟨_, congrArg Host.Outcome.next (fillSend_next hq hb hp hr ha []), ?_⟩
    beta_reduce
    rw [fillSent, part_modPart_same, hpart, modPart_outbox]
    exact ⟨rfl, rfl, hout⟩
  · exact ⟨_, congrArg Host.Outcome.next (fillSend_next hq hb hp hr ha ecc), _, fillSent_outbox ..⟩
  · refine ⟨_, congrArg Host.Outcome.next (pageAck_filling hb), ?_⟩
    beta_reduce
    rw [part_modPart_same]
  · obtain ⟨u, hu, hpart⟩ := pageAck_delta (step := step) (page := page) hb
    refine ⟨u, congrArg Host.Outcome.next hu, ?_⟩
    beta_reduce
    rw [hpart]
  · refine ⟨_, congrArg Host.Outcome.next (pageAck_refused step page f hb), rd_fillStart .., ?_⟩
    rw [fillStart, part_modPart_same]
    exact ⟨rfl, rfl⟩
  · exact ⟨_, congrArg Host.Outcome.next (pageRx_none h), ⟨rfl, rfl⟩, rfl⟩
  · refine ⟨_, congrArg Host.Outcome.next (pageRx_filling hs hl ha hf), ⟨rfl, rfl⟩, _, area_setArea_key _ hc hp, ?_, rfl⟩
    exact mapFind_mapPut_same ..
  · exact ⟨_, congrArg Host.Outcome.next (pageRx_delta hs hl ha hf hroom), ⟨rfl, rfl⟩, _, area_setArea_key _ hc hp, rfl, rfl⟩
  · obtain ⟨copy, hmerge⟩ := mergeDone_some ha hm
    obtain ⟨hc, hp⟩ := area_src ha
    exact ⟨_, congrArg Host.Outcome.next hmerge, _, area_setArea_key _ hc hp, rfl, rfl, rfl, rfl⟩

end Sys2Proof.Machine
end

section
/-! A COMMIT at a leaf: the seal, the next step and its clock, the end of the run, and a rollback (R245, R254, R283,
R311). -/

namespace Sys2Proof.Machine

open Sys2Proof

/-! ### Changes of the blocks of one partition -/

section
variable {s : State} {l : List Nat} {c : Nat}

theorem each_modBlock_other (f : Block → Block) (h : c ∉ l) : (s.each l fun t b => t.modBlock b f).block c = s.block c := by
  induction l generalizing s with
  | nil => rfl
  | cons b rest ih =>
    rw [List.mem_cons, not_or] at h
    exact (ih h.2).trans (block_modBlock_other s f h.1)

theorem each_modBlock_part (f : Block → Block) (p : Nat) : (s.each l fun t b => t.modBlock b f).part p = s.part p := by
  induction l generalizing s with
  | nil => rfl
  | cons b rest ih => exact ih

theorem mem_blocksOf {s : State} {p b : Nat} (h : b ∈ s.blocksOf p) : s.partOf b = p := by
  simpa [State.blocksOf] using (List.mem_filter.1 h).2

end

/-! ### Seconds of network time: a port that leaves Up may put the chip into holdover, which moves no clock (R210) -/

/-- Two states at the same instant of network time. -/
def SameClock (s t : State) : Prop := t.time.sec = s.time.sec ∧ t.time.ns = s.time.ns

section
variable {s t u : State}

theorem SameClock.refl (s : State) : SameClock s s := ⟨rfl, rfl⟩

theorem SameClock.trans (h : SameClock s t) (h' : SameClock t u) : SameClock s u := ⟨h'.1.trans h.1, h'.2.trans h.2⟩

theorem SameClock.of_keeps {T : List Nat} (h : Keeps T s t) (hT : T.contains 4 = false) : SameClock s t := by
  rw [SameClock, h.time_eq hT]
  exact ⟨rfl, rfl⟩

theorem SameClock.now (h : SameClock s t) : t.now = s.now := by rw [State.now, State.now, h.1, h.2]

theorem SameClock.ite {c : Prop} [Decidable c] {a b : State} (ha : SameClock s a) (hb : SameClock s b) :
    SameClock s (if c then a else b) := by
  split <;> assumption

theorem SameClock.each {α : Type} {l : List α} {f : State → α → State} (hf : ∀ v, ∀ x, SameClock v (f v x)) : SameClock s (s.each l f) := by
  induction l generalizing s with
  | nil => exact .refl s
  | cons x rest ih => exact (hf s x).trans ih

end

theorem masterLost_clock (s : State) (port : Nat) : SameClock s (masterLost s port) := by
  unfold masterLost timeHoldover
  refine .ite (.ite ?_ (.refl s)) (.refl s)
  rw [SameClock, record_time]
  exact ⟨rfl, rfl⟩

theorem leaveUp_clock (s : State) (port : Nat) : SameClock s (leaveUp s port) := by
  unfold leaveUp
  refine .ite (.refl s) (SameClock.trans ?_ (masterLost_clock _ port))
  refine SameClock.of_keeps (T := [6, 9, 16, 0x4110, 0x4140, 0x7002]) ?_ (by decide)
  exact countHeld_keeps (.of rfl Sub.rfl) (each_keeps (fun v q h => dropPkt_keeps (.of rfl Sub.rfl) h)
    (modPort_keeps (.of rfl Sub.rfl) (Keeps.refl _ s)))

theorem goDown_clock (s : State) (port cause : Nat) : SameClock s (goDown s port cause) := by
  refine (leaveUp_clock s port).trans (.of_keeps (T := [9, 16, 0x4000, 0x7002]) ?_ (by decide))
  exact record_keeps (.of rfl Sub.rfl) (modPort_keeps (.of rfl Sub.rfl) (wr_keeps (.of rfl Sub.rfl) (wr_keeps (.of rfl Sub.rfl)
    (modPort_keeps (.of rfl Sub.rfl) (Keeps.refl _ _)))))

theorem startTrain_clock (s : State) (port : Nat) (k : TrainKind) : SameClock s (startTrain s port k) := by
  unfold startTrain
  refine .ite (.ite (.refl s) (goDown_clock ..)) ?_
  have hlaser : SameClock s (if isOptical port then s.wr R.FAB_LSR_STATE (moduleOf port) 4 else s) :=
    .ite ⟨rfl, rfl⟩ (.refl s)
  have hup := hlaser.trans (leaveUp_clock _ port)
  refine .ite hup (.ite ?_ hup)
  exact SameClock.trans hup (.of_keeps (T := [9, 11, 13, 16, 0x7002, 0x9000, 0x9001, 0x4000, 0x4001, 0x9010])
    (penDecay_keeps (.of rfl Sub.rfl) (bumpSat_keeps (.of rfl Sub.rfl) (bumpSat_keeps (.of rfl Sub.rfl)
      (modRouter_keeps (.of rfl Sub.rfl) (modPort_keeps (.of rfl Sub.rfl) (wr_keeps (.of rfl Sub.rfl) (Keeps.refl _ _))))))) (by decide))

theorem laneOut_clock (s : State) (port l : Nat) : SameClock s (laneOut s port l) :=
  .of_keeps (T := [13, 16, 0x4010, 0x7002, 0x9000, 0x9001, 0x9010]) (laneOut_keeps Sub.rfl (Keeps.refl _ s)) (by decide)

theorem lanesLeave_clock (s : State) (port : Nat) (ls : List Nat) : SameClock s (lanesLeave s port ls) := by
  unfold lanesLeave
  have hout (v : State) (l : List Nat) : SameClock v (v.each l fun t l => laneOut t port l) := .each fun v x => laneOut_clock v port x
  refine .ite (hout ..) (.ite ?_ ?_)
  · exact (hout ..).trans ((hout ..).trans (startTrain_clock ..))
  · refine (hout s (ls.filter fun l => s.lane port l == lReady)).trans ?_
    generalize (s.each (ls.filter fun l => s.lane port l == lReady) fun t l => laneOut t port l) = v
    dsimp only
    cases (v.port port).fastRx with
    | none => exact ⟨rfl, rfl⟩
    | some f => exact .ite ⟨rfl, rfl⟩ ⟨rfl, rfl⟩

theorem spareAtStop_clock (s : State) : SameClock s (spareAtStop s) := by
  refine SameClock.each fun v port => ?_
  have hoffer : SameClock v ((v.modPort port fun o => { o with pendingMoves := [], pendingOffers := [] }).each
      (v.port port).pendingOffers fun u e => ctlSend u port (.spareOffer e.1 e.2)) :=
    .of_keeps (T := [9]) (each_keeps (fun _ _ h => modPort_keeps (.of rfl Sub.rfl) h)
      (modPort_keeps (.of rfl Sub.rfl) (Keeps.refl _ v))) (by decide)
  exact .ite hoffer (hoffer.trans (lanesLeave_clock ..))

/-! ### The seal of a step (R245, R254) -/

/-- The seal's own registers, and the record of a seal without a copy. -/
def sealHead (s : State) (p : Nat) (c : Commit) : State :=
  let lat := ((s.now - boundary s p) / 1000).toNat
  let s1 := (((s.wr R.SEAL_LAST p c.step).wr R.SEAL_PROT p c.prot).bumpSat R.SEAL_COUNT p 1).wr R.SEAL_LAT_LAST p
    (min lat 0xFFFFFFFF)
  let s2 := s1.raise R.SEAL_LAT_MAX p (min lat 0xFFFFFFFF)
  if c.outcome = 0 then s2 else (s2.bumpSat R.SEAL_UNPROT p 1).record 0xA006 uFcc [(4, c.step), (4, c.prot)]

/-- What a seal changes besides its own registers. -/
def sealPlaces : List Nat :=
  [2, 3, 4, 5, 6, 7, 8, 9, 11, 13, 16, 19, 20, 0x3410, 0x4000, 0x4001, 0x4010, 0x4110, 0x4140, 0x4400, 0x5804, 0x6101,
   0x6102, 0x6202, 0x7002, 0x9000, 0x9001, 0x9010]

section
variable {s : State} {p : Nat} {c : Commit}

/-- A seal up to the journal and the hosted copies that it discards and merges. -/
def sealJnl (s : State) (p : Nat) (c : Commit) : State :=
  let s4 := (sealHead s p c).record 0xA001 uFcc
    [(4, c.step), (1, b2n (c.outcome = 0)), (4, ((s.now - boundary s p) / 1000).toNat)]
  if c.outcome = 0 then mergeBegin (jnlDiscard s4 p c.prot) p c.prot else s4

/-- A seal up to what a stop applies to the lanes. -/
def sealMid (s : State) (p : Nat) (c : Commit) : State := remapAtStop (sealValues (sealJnl s p c) p c.step c.run) p

theorem sealJnl_keeps : Keeps [6, 7, 16, 0x6101, 0x7002] (sealHead s p c) (sealJnl s p c) := by
  dsimp only [sealJnl]
  exact .ite
    (mergeBegin_keeps (.of rfl Sub.rfl) (jnlDiscard_keeps (.of rfl Sub.rfl) (record_keeps (.of rfl Sub.rfl) (Keeps.refl _ _))))
    (record_keeps (.of rfl Sub.rfl) (Keeps.refl _ _))

/-- What ends a seal: the partition's own account of it, and the state of its copy (`whole`: it is Current). -/
def sealTail (u : State) (p step : Nat) (whole : Bool) : State :=
  let s7 := u.modPart p fun x => { x with tries := mapDel x.tries step, seals := x.seals + 1, betweenSent := [], written := [] }
  buddySeal (if whole then setBuddyState s7 p bCurrent 5 else catchUp s7 p) p

theorem sealStep_eq (s : State) (p : Nat) (c : Commit) :
    ∃ b : Bool, sealStep s p c = sealTail (spareAtStop (sealMid s p c)) p c.step b := by
  refine ⟨decide (s.rd R.SEAL_BUDDY_STATE p = bFilling ∧ (s.part p).fillNext = (keptPages (s.img p)).length ∧
    (s.part p).fillUnacked = [] ∧ (s.part p).toSend ++ (s.part p).unacked = []), ?_⟩
  simp only [sealTail, decide_eq_true_eq]
  rfl

theorem sealTail_keeps (u : State) (p step : Nat) (b : Bool) : Keeps [6, 16, 0x6102, 0x7002] u (sealTail u p step b) := by
  dsimp only [sealTail]
  exact buddySeal_keeps (.of rfl Sub.rfl) (.ite
    (setBuddyState_keeps (.of rfl Sub.rfl) (modPart_keeps (.of rfl Sub.rfl) (Keeps.refl _ u)))
    (catchUp_keeps (.of rfl Sub.rfl) (modPart_keeps (.of rfl Sub.rfl) (Keeps.refl _ u))))

theorem sealMid_keeps : Keeps [2, 3, 5, 6, 7, 8, 9, 13, 16, 19, 20, 0x3410, 0x4110, 0x4140, 0x6101, 0x6202, 0x7002, 0x9000, 0x9001]
    (sealHead s p c) (sealMid s p c) :=
  remapAtStop_keeps (.of rfl Sub.rfl) (sealValues_keeps (.of rfl Sub.rfl)
    (sealJnl_keeps.mono (.of rfl Sub.rfl)))

theorem sealStep_rest (s : State) (p : Nat) (c : Commit) : Keeps sealPlaces (sealHead s p c) (sealStep s p c) := by
  obtain ⟨b, hb⟩ := sealStep_eq s p c
  rw [hb]
  exact ((sealMid_keeps.mono (.of rfl Sub.rfl)).trans ((spareAtStop_keeps (.of rfl Sub.rfl) (Keeps.refl sealPlaces _)))).trans
    ((sealTail_keeps ..).mono (.of rfl Sub.rfl))

theorem sealHead_keeps (s : State) (p : Nat) (c : Commit) : Keeps [16, 0x6100, 0x7002] s (sealHead s p c) := by
  dsimp only [sealHead]
  refine .ite ?_ (record_keeps (.of rfl Sub.rfl) (bumpSat_keeps (.of rfl Sub.rfl) ?_))
  all_goals exact raise_keeps (.of rfl Sub.rfl) (wr_keeps (.of rfl Sub.rfl) (bumpSat_keeps (.of rfl Sub.rfl)
    (wr_keeps (.of rfl Sub.rfl) (wr_keeps (.of rfl Sub.rfl) (Keeps.refl _ s)))))

theorem sealStep_clock (s : State) (p : Nat) (c : Commit) : SameClock s (sealStep s p c) := by
  obtain ⟨b, hb⟩ := sealStep_eq s p c
  rw [hb]
  exact ((SameClock.of_keeps (sealHead_keeps s p c) (by decide)).trans (.of_keeps sealMid_keeps (by decide))).trans
    ((spareAtStop_clock _).trans (.of_keeps (sealTail_keeps ..) (by decide)))

theorem rd_raise_ne {r q : Reg} {i j v : Nat} (h : r.index * 256 + r.sub % 256 ≠ q.index * 256 + q.sub % 256) :
    (s.raise q j v).rd r i = s.rd r i := rd_wr_ne _ _ h

theorem rd_bumpSat_ne {r q : Reg} {i j v : Nat} (h : r.index * 256 + r.sub % 256 ≠ q.index * 256 + q.sub % 256) :
    (s.bumpSat q j v).rd r i = s.rd r i := rd_wr_ne _ _ h

/-- A register of the seal that neither its latency nor its count of unprotected seals is. -/
theorem rd_sealHead (r : Reg) (h1 : r.index * 256 + r.sub % 256 ≠ R.SEAL_LAT_MAX.index * 256 + R.SEAL_LAT_MAX.sub % 256)
    (h2 : r.index * 256 + r.sub % 256 ≠ R.SEAL_LAT_LAST.index * 256 + R.SEAL_LAT_LAST.sub % 256)
    (h3 : r.index * 256 + r.sub % 256 ≠ R.SEAL_UNPROT.index * 256 + R.SEAL_UNPROT.sub % 256) 
    (h4 : ([16, 0x7002].contains (regPlace r) || [16, 0x7002].contains 31) = false) (i : Nat) :
    (sealHead s p c).rd r i = (((s.wr R.SEAL_LAST p c.step).wr R.SEAL_PROT p c.prot).bumpSat R.SEAL_COUNT p 1).rd r i := by
  unfold sealHead
  split
  · rw [rd_raise_ne h1, rd_wr_ne _ _ h2]
  · rw [rd_record _ _ _ _ _ _ h4, rd_bumpSat_ne h3, rd_raise_ne h1, rd_wr_ne _ _ h2]

/-- A seal's own registers (R245, R254). -/
theorem sealStep_regs (s : State) (p : Nat) (c : Commit) (hstep : c.step < 2 ^ 32) (hprot : c.prot < 2 ^ 32) :
    (sealStep s p c).rd R.SEAL_LAST p = c.step ∧ (sealStep s p c).rd R.SEAL_PROT p = c.prot ∧
      Counted s (sealStep s p c) R.SEAL_COUNT p 1 := by
  have hrest (r : Reg) (h) := (sealStep_rest s p c).rd r p h
  refine ⟨?_, ?_, ?_⟩
  · rw [hrest R.SEAL_LAST (by decide), rd_sealHead R.SEAL_LAST (by decide) (by decide) (by decide) (by decide),
      rd_bumpSat_ne (by decide), rd_wr_ne _ _ (by decide), rd_wr_same]
    exact Nat.mod_eq_of_lt hstep
  · rw [hrest R.SEAL_PROT (by decide), rd_sealHead R.SEAL_PROT (by decide) (by decide) (by decide) (by decide),
      rd_bumpSat_ne (by decide), rd_wr_same]
    exact Nat.mod_eq_of_lt hprot
  · rw [Counted, hrest R.SEAL_COUNT (by decide), rd_sealHead R.SEAL_COUNT (by decide) (by decide) (by decide) (by decide),
      rd_bumpSat_same, rd_wr_ne _ _ (by decide), rd_wr_ne _ _ (by decide)]

theorem sealStep_pstate (s : State) (p : Nat) (c : Commit) (q : Nat) : (sealStep s p c).pstate q = s.pstate q := by
  rw [(sealStep_rest s p c).pstate_eq (by decide), (sealHead_keeps s p c).pstate_eq (by decide)]

theorem sealStep_blocksOf (s : State) (p : Nat) (c : Commit) (q : Nat) : (sealStep s p c).blocksOf q = s.blocksOf q := by
  rw [(sealStep_rest s p c).blocksOf_eq (by decide), (sealHead_keeps s p c).blocksOf_eq (by decide)]

theorem sealValues_other {u : State} {step run b : Nat} (hb : b ∉ u.blocksOf p) : (sealValues u p step run).block b = u.block b :=
  each_modBlock_other _ hb

/-- A seal touches no block of another partition. -/
theorem sealStep_other {b : Nat} (hb : b ∉ s.blocksOf p) : (sealStep s p c).block b = s.block b := by
  obtain ⟨w, hw⟩ := sealStep_eq s p c
  have hjnl := (sealHead_keeps s p c).mono (T := [6, 7, 16, 0x6100, 0x6101, 0x7002]) (.of rfl Sub.rfl) |>.trans
    (sealJnl_keeps.mono (.of rfl Sub.rfl))
  calc (sealStep s p c).block b
      = (spareAtStop (sealMid s p c)).block b := by rw [hw, (sealTail_keeps ..).block (by decide)]
    _ = (sealMid s p c).block b := (spareAtStop_keeps Sub.rfl (Keeps.refl _ _)).block (by decide) b
    _ = (sealValues (sealJnl s p c) p c.step c.run).block b := (remapAtStop_keeps Sub.rfl (Keeps.refl _ _)).block (by decide) b
    _ = (sealJnl s p c).block b := sealValues_other (by rwa [hjnl.blocksOf_eq (by decide)])
    _ = s.block b := hjnl.block (by decide) b

end

/-! ### The clock of a step (R2, R311) -/

theorem any_congr_mem {α : Type} {l : List α} {f g : α → Bool} (h : ∀ x ∈ l, f x = g x) : l.any f = l.any g := by
  rw [Bool.eq_iff_iff, List.any_eq_true, List.any_eq_true]
  exact exists_congr fun x => and_congr_right fun hx => by rw [h x hx]

/-- The frequency of a step begins from the partitions that are in one. -/
theorem othersInStep_eq {s t : State} {p : Nat} (hp : ∀ q < 128, q ≠ p → t.pstate q = s.pstate q)
    (hb : ∀ q, t.blocksOf q = s.blocksOf q) (hk : ∀ b, b ∉ s.blocksOf p → t.block b = s.block b) :
    othersInStep t p = othersInStep s p := by
  refine any_congr_mem fun q hq => ?_
  by_cases hqp : q = p
  · simp [hqp]
  · have hblocks : ((t.blocksOf q).any fun b => (t.block b).released) = (s.blocksOf q).any fun b => (s.block b).released := by
      rw [hb]
      refine any_congr_mem fun b hbq => ?_
      rw [hk b fun hbp => hqp ((mem_blocksOf hbq).symm.trans (mem_blocksOf hbp))]
    rw [hp q (List.mem_range.1 hq) hqp, hblocks]

section
variable {s : State}

theorem clampKhz_range (cause khz : Nat) (h : floorKhz ≤ khz) : floorKhz ≤ clampKhz s cause khz ∧ clampKhz s cause khz ≤ khz := by
  unfold clampKhz
  split
  · omega
  · split
    · exact ⟨Nat.le_max_left .., by omega⟩
    · have := Nat.mod_lt (Config.free s.free) (show 0 < khz - floorKhz by omega)
      omega

theorem clamps_range (l : List Nat) (khz : Nat) (h : floorKhz ≤ khz) :
    floorKhz ≤ l.foldl (fun k c => clampKhz s c k) khz ∧ l.foldl (fun k c => clampKhz s c k) khz ≤ khz := by
  induction l generalizing khz with
  | nil => exact ⟨h, Nat.le_refl _⟩
  | cons c rest ih =>
    obtain ⟨h1, h2⟩ := clampKhz_range (s := s) c khz h
    obtain ⟨h3, h4⟩ := ih _ h1
    exact ⟨h3, h4.trans h2⟩

theorem capFrom_range (n : Nat) : floorKhz ≤ capFrom s n ∧ capFrom s n ≤ floorKhz + n := by
  induction n with
  | zero => exact ⟨Nat.le_refl _, Nat.le_refl _⟩
  | succ k ih =>
    unfold capFrom
    split <;> omega

theorem floorKhz_le_binKhz : floorKhz ≤ binKhz ∧ binKhz < 2 ^ 32 := by
  unfold floorKhz binKhz
  split <;> omega

/-- The clock of a step lies between its floor and the part's bin. -/
theorem stepKhz_range (p : Nat) : floorKhz ≤ stepKhz s p ∧ stepKhz s p ≤ binKhz := by
  obtain ⟨h1, h2⟩ := capFrom_range (s := s) (min (planKhz s p) binKhz - floorKhz)
  obtain ⟨h3, h4⟩ := clamps_range (s := s) s.power.clamps _ h1
  have := floorKhz_le_binKhz
  exact ⟨h3, by unfold stepKhz capKhz; omega⟩

theorem setClock_khz {p : Nat} (h : othersInStep s p = false) : (setClock s p).rd R.PWR_CCLK_KHZ 0 = stepKhz s p := by
  have hlt : stepKhz s p % 2 ^ regBits R.PWR_CCLK_KHZ = stepKhz s p :=
    Nat.mod_eq_of_lt (Nat.lt_of_le_of_lt (stepKhz_range p).2 floorKhz_le_binKhz.2)
  have hw (v : Nat) : ((s.wr R.PWR_CCLK_KHZ 0 (stepKhz s p)).wr R.PWR_VDD_MV 0 v).rd R.PWR_CCLK_KHZ 0 = stepKhz s p := by
    rw [rd_wr_ne _ _ (by decide), rd_wr_same, hlt]
  unfold setClock
  simp only [h, Bool.false_eq_true, if_false]
  split
  · exact hw _
  · rw [rd_record _ _ _ _ _ _ (by decide)]
    exact hw _

end

/-! ### A step begins, a run ends -/

section
variable {s : State} {p : Nat}

theorem pstate_wr_other {p q v : Nat} (hp : p < 128) (hq : q < 128) (h : q ≠ p) : (s.wr R.CMP_PLAN_STATE p v).pstate q = s.pstate q :=
  rd_wr_inst s v (by omega)

theorem stopBlocks_other {b : Nat} (h : b ∉ s.blocksOf p) : (stopBlocks s p).block b = s.block b := each_modBlock_other _ h

theorem stopBlocks_part (q : Nat) : (stopBlocks s p).part q = s.part q := each_modBlock_part ..

theorem stopBlocks_keep : Keeps [5] s (stopBlocks s p) := stopBlocks_keeps Sub.rfl (Keeps.refl _ s)

/-- A partition at the begin of a step, its clock not yet chosen. -/
def beginState (s : State) (p step run sec ns : Nat) : State :=
  let s1 := ((s.wr R.CMP_PLAN_STATE p psRunning).wr R.SEAL_STEP p step).wr R.SEAL_RUN p run
  (stopBlocks s1 p).modPart p fun q =>
    { q with
      t0 := some (nearSec s.time.sec sec, ns), resumed := true, verdict := {}, ownVote := none, childVotes := [],
      deltaExpired := false, journalFull := false, written := [], final := [], early := [], haltSlip := false,
      replay := none, restored := false, rolledFrom := [], execNo := q.execNo + 1 }

variable {step run sec ns : Nat}

theorem stepBegin_eq : stepBegin s p step run sec ns = setClock (beginState s p step run sec ns) p := rfl

theorem beginState_regs : Keeps [5, 6] (((s.wr R.CMP_PLAN_STATE p psRunning).wr R.SEAL_STEP p step).wr R.SEAL_RUN p run)
    (beginState s p step run sec ns) := by
  dsimp only [beginState]
  exact modPart_keeps (.of rfl Sub.rfl) (stopBlocks_keeps (.of rfl Sub.rfl) (Keeps.refl _ _))

/-- A step that begins (R67, R283): its partition runs, its number, run and instant are those given, no replay goes on. -/
theorem stepBegin_spec (hstep : step < 2 ^ 32) (hrun : run < 256) :
    (stepBegin s p step run sec ns).pstate p = psRunning ∧ (stepBegin s p step run sec ns).rd R.SEAL_STEP p = step ∧
      (stepBegin s p step run sec ns).rd R.SEAL_RUN p = run ∧ ((stepBegin s p step run sec ns).part p).replay = none ∧
      ((stepBegin s p step run sec ns).part p).t0 = some (nearSec s.time.sec sec, ns) := by
  have hclock : Keeps [15, 16, 21, 0x2100, 0x2101, 0x7002] (beginState s p step run sec ns) (stepBegin s p step run sec ns) :=
    setClock_keeps Sub.rfl (Keeps.refl _ _)
  have hpart : (beginState s p step run sec ns).part p = _ := part_modPart_same ..
  have hrd (r : Reg) (h) (h') : (stepBegin s p step run sec ns).rd r p =
      (((s.wr R.CMP_PLAN_STATE p psRunning).wr R.SEAL_STEP p step).wr R.SEAL_RUN p run).rd r p :=
    (hclock.rd r p h).trans (beginState_regs.rd r p h')
  refine ⟨?_, ?_, ?_, ?_, ?_⟩
  · rw [State.pstate, hrd R.CMP_PLAN_STATE (by decide) (by decide), rd_wr_ne _ _ (by decide), rd_wr_ne _ _ (by decide), rd_wr_same]
    rfl
  · rw [hrd R.SEAL_STEP (by decide) (by decide), rd_wr_ne _ _ (by decide), rd_wr_same]
    exact Nat.mod_eq_of_lt hstep
  · rw [hrd R.SEAL_RUN (by decide) (by decide), rd_wr_same]
    exact Nat.mod_eq_of_lt hrun
  · rw [hclock.part_eq (by decide), hpart]
  · rw [hclock.part_eq (by decide), hpart]

theorem stepBegin_seal (r : Reg) (h : ([15, 16, 21, 0x2100, 0x2101, 0x7002].contains (regPlace r) ||
      [15, 16, 21, 0x2100, 0x2101, 0x7002].contains 31) = false) (h' : ([5, 6].contains (regPlace r) || [5, 6].contains 31) = false)
    (h1 : r.index * 256 + r.sub % 256 ≠ R.CMP_PLAN_STATE.index * 256 + R.CMP_PLAN_STATE.sub % 256)
    (h2 : r.index * 256 + r.sub % 256 ≠ R.SEAL_STEP.index * 256 + R.SEAL_STEP.sub % 256)
    (h3 : r.index * 256 + r.sub % 256 ≠ R.SEAL_RUN.index * 256 + R.SEAL_RUN.sub % 256) (i : Nat) :
    (stepBegin s p step run sec ns).rd r i = s.rd r i := by
  rw [stepBegin_eq, (setClock_keeps Sub.rfl (Keeps.refl _ _)).rd r i h, beginState_regs.rd r i h', rd_wr_ne _ _ h3,
    rd_wr_ne _ _ h2, rd_wr_ne _ _ h1]

/-- The clock of a step that begins while no other partition is in one (R2, R311). -/
theorem stepBegin_khz (hp : p < 128) (h : othersInStep s p = false) :
    (stepBegin s p step run sec ns).rd R.PWR_CCLK_KHZ 0 = stepKhz (beginState s p step run sec ns) p := by
  refine setClock_khz ((othersInStep_eq (t := beginState s p step run sec ns) (fun q hq hqp => ?_) (fun q => ?_) fun b hb => ?_).trans h)
  · rw [beginState_regs.pstate_eq (by decide), State.pstate, rd_wr_ne _ _ (by decide), rd_wr_ne _ _ (by decide)]
    exact pstate_wr_other hp hq hqp
  · rw [beginState_regs.blocksOf_eq (by decide)]
    exact (wr_keeps (.of rfl Sub.rfl) (wr_keeps (.of rfl Sub.rfl)
      (wr_keeps (.of rfl Sub.rfl) (Keeps.refl [0x3000, 0x6100] s)))).blocksOf_eq (by decide) q
  · refine (stopBlocks_other ?_)
    rwa [(wr_keeps (.of rfl Sub.rfl) (wr_keeps (.of rfl Sub.rfl)
      (wr_keeps (.of rfl Sub.rfl) (Keeps.refl [0x3000, 0x6100] s)))).blocksOf_eq (by decide) p]

/-- A run that ends leaves its partition in the state given, with no run. -/
theorem runEnd_spec (s : State) (p state status reason : Nat) (hs : state < 2 ^ 8) :
    (runEnd s p state status reason).pstate p = state ∧ ((runEnd s p state status reason).part p).run = none := by
  have hmain (m : Nat) (v : State) : (moverDone v m status reason (s.rd R.SEAL_LAST p)).pstate p = v.pstate p ∧
      (moverDone v m status reason (s.rd R.SEAL_LAST p)).part p = v.part p :=
    have h := moverDone_keeps (T := [12]) (.of rfl Sub.rfl) (Keeps.refl _ v)
    ⟨h.pstate_eq rfl p, h.part_eq rfl p⟩
  have hst (f : Part → Part) : (((stopBlocks s p).wr R.CMP_PLAN_STATE p state).modPart p f).pstate p = state :=
    (rd_wr_same ..).trans (Nat.mod_eq_of_lt hs)
  unfold runEnd
  dsimp only
  split
  · rw [(hmain ..).1, (hmain ..).2, part_modPart_same]
    exact ⟨hst _, rfl⟩
  · rw [part_modPart_same]
    exact ⟨hst _, rfl⟩

theorem alarmHalt_pstate (s : State) (p : Nat) : (alarmHalt s p).pstate p = psHalted := (runEnd_spec _ p psHalted 3 0x0901 (by decide)).1

theorem giveUp_part (v : State) (p from_ : Nat) : (giveUp v p from_).part p = { v.part p with
    toSend := (v.part p).toSend.filter fun e => decide (e.1 < from_),
    unacked := (v.part p).unacked.filter fun e => decide (e.1 < from_) } := by
  unfold giveUp
  dsimp only
  rw [show ∀ (u : State) x, (u.setBuddies x).part p = u.part p from fun _ _ => rfl, part_modPart_same]

/-- A rollback that begins from a whole journal: the partition stops, its generation advances and a replay waits (R258). -/
theorem rollBegin_spec (s : State) (p from_ : Nat) (halt : Bool) (hj : s.rd R.SEAL_JNL_STATE p ≠ 1) :
    (rollBegin s p from_ halt).pstate p = psStopped ∧ ((rollBegin s p from_ halt).part p).replay = some from_ ∧
      ((rollBegin s p from_ halt).part p).delayed = none ∧
      ((rollBegin s p from_ halt).part p).runGen = ((s.part p).runGen + 1) % 16 ∧
      ∀ i, (rollBegin s p from_ halt).rd R.SEAL_LAST i = s.rd R.SEAL_LAST i := by
  have heq : ∃ f : Part → Part, (∀ x, (f x).replay = some from_ ∧ (f x).delayed = none ∧ (f x).runGen = (x.runGen + 1) % 16) ∧
      ∃ fs : List (Nat × Nat), ∃ g : Router → Router, rollBegin s p from_ halt =
        giveUp (((((stopBlocks (s.record 0xA003 uFcc fs) p).wr R.CMP_PLAN_STATE p psStopped).modPart p f).each (s.blocksOf p)
          fun t b => t.modBlock b fun k => { k with norms := [] }).modRouter g) p from_ := by
    unfold rollBegin
    simp only [hj, if_false, show ¬ (1 = 2) by decide, false_and]
    exact ⟨_, fun x => ⟨rfl, rfl, rfl⟩, _, _, rfl⟩
  obtain ⟨f, hf, fs, g, heq⟩ := heq
  have hpart : ((rollBegin s p from_ halt).part p) = { f (s.part p) with
      toSend := (f (s.part p)).toSend.filter fun e => decide (e.1 < from_),
      unacked := (f (s.part p)).unacked.filter fun e => decide (e.1 < from_) } := by
    rw [heq, giveUp_part]
    have hw : (((((stopBlocks (s.record 0xA003 uFcc fs) p).wr R.CMP_PLAN_STATE p psStopped).modPart p f).each (s.blocksOf p)
          fun t b => t.modBlock b fun k => { k with norms := [] }).modRouter g).part p = f (s.part p) := by
      refine (each_modBlock_part ..).trans ((part_modPart_same ..).trans (congrArg f ?_))
      rw [part_wr, stopBlocks_part, record_part]
    rw [hw]
  have hregs (r : Reg) (i : Nat) (h : ([5, 6, 7, 11].contains (regPlace r) || [5, 6, 7, 11].contains 31) = false) :
      (rollBegin s p from_ halt).rd r i = ((stopBlocks (s.record 0xA003 uFcc fs) p).wr R.CMP_PLAN_STATE p psStopped).rd r i := by
    rw [heq]
    exact (giveUp_keeps (.of rfl Sub.rfl) (modRouter_keeps (.of rfl Sub.rfl) (each_keeps (fun v b h => modBlock_keeps (.of rfl Sub.rfl) h)
      (modPart_keeps (.of rfl Sub.rfl) (Keeps.refl [5, 6, 7, 11] _))))).rd r i h
  obtain ⟨hrep, hdel, hgen⟩ := hf (s.part p)
  rw [hpart]
  refine ⟨(hregs _ _ (by decide)).trans (rd_wr_same ..), hrep, hdel, hgen, fun i => ?_⟩
  rw [hregs _ _ (by decide), rd_wr_ne _ _ (by decide), stopBlocks_keep.rd _ _ (by decide), rd_record _ _ _ _ _ _ (by decide)]

theorem recentRolls_record (s : State) (code source : Nat) (fs : List (Nat × Nat)) (p : Nat) :
    recentRolls (s.record code source fs) p = recentRolls s p := by
  unfold recentRolls
  rw [record_part, record_now, rd_record _ _ _ _ _ _ (by decide)]

theorem rollback_begins {from_ : Nat} {halt : Bool} (hr : (s.part p).replay = none) (hn : (recentRolls s p).length < 15) :
    rollback s p from_ halt = rollBegin s p from_ halt := by
  unfold rollback
  simp only [hr, show ¬ 15 ≤ (recentRolls s p).length by omega, if_false]

end

/-! ### The COMMIT (R254, R283) -/

section
variable {s : State} {p : Nat} {c : Commit}

theorem commit_leaf (hc : s.children p = []) (ha : ∀ r, s.parent p = some r → s.isFailed (s.rankChip p r) = false) :
    exec (.commit p c) s = .next (commitAct s p c) := by
  have hcom : commit s p c = commitAct s p c := congrArg (commitAct · p c) (toChildren_nil hc _)
  refine congrArg Host.Outcome.next (Eq.trans ?_ hcom)
  unfold fromParent
  split
  · rename_i r hr
    exact fromRank_alive (ha r hr) _
  · rfl

theorem commitAct_notMine (h : ¬ (c.step = s.rd R.SEAL_STEP p ∧ c.run = s.rd R.SEAL_RUN p ∧ s.active p = true)) :
    commitAct s p c = s := by
  refine if_pos ?_
  by_contra hn
  simp only [not_or, ne_eq, not_not, Bool.not_eq_false] at hn
  exact h ⟨hn.1.symm, hn.2.1.symm, hn.2.2⟩

theorem commitAct_seals (hs : c.step = s.rd R.SEAL_STEP p) (hr : c.run = s.rd R.SEAL_RUN p) (ha : s.active p = true)
    (hst : s.pstate p = psStopped) (hrep : (s.part p).replay = none) (ho : c.outcome ≤ 1) :
    commitAct s p c =
      if bitOf c.flags 1 then alarmHalt (sealStep s p c) p
      else if bitOf c.flags 0 then runEnd (sealStep s p c) p psLoaded (s.part p).runStatus 0
      else stepBegin (sealStep s p c) p (nextStep c.step) 1 c.t0sec c.t0ns := by
  unfold commitAct
  simp [← hs, ← hr, ha, hst, hrep, show c.outcome ≠ 2 by omega]

theorem commitAct_rolls (hs : c.step = s.rd R.SEAL_STEP p) (hr : c.run = s.rd R.SEAL_RUN p) (ha : s.active p = true)
    (ho : c.outcome = 2) : commitAct s p c =
      rollback (s.record 0xA002 uFcc [(4, c.step), (1, c.run), (1, inputBits (s.part p).verdict (unclassified s p c.step))]) p
        (nextStep c.target) (bitOf c.flags 1) := by
  unfold commitAct
  simp [← hs, ← hr, ha, ho]

end

/-- Settles O41: a COMMIT by its flags and outcome; the seal's own registers stand through what the stop applies, and
the instant of the next step is read on the same clock. -/
theorem commitsAtALeaf : Obligations.CommitsAtALeaf := by
  intro s p c hc halive hstep hprot hp mine
  refine ⟨fun ⟨hs, hr, ha⟩ hst hrep ho => ⟨fun hfl => ?_, fun hfl => ?_, fun hfl => ?_⟩, fun ⟨hs, hr, ha⟩ ho hfl hrep hn hj => ?_, fun hm => ?_⟩
  · have heq := commitAct_seals hs hr ha hst hrep ho
    rw [hfl, if_neg (by decide), if_neg (by decide)] at heq
    obtain ⟨hlast, hprotd, hcount⟩ := sealStep_regs s p c hstep hprot
    obtain ⟨hrun, hnext, hone, -, ht0⟩ := stepBegin_spec (s := sealStep s p c) (p := p) (step := nextStep c.step) (run := 1)
      (sec := c.t0sec) (ns := c.t0ns) (Nat.mod_lt _ (by decide)) (by decide)
    refine ⟨_, (commit_leaf hc halive).trans (congrArg Host.Outcome.next heq), ?_, ?_, ?_, hrun, hnext, hone, ?_, fun hoth => ?_⟩
    · rw [stepBegin_seal _ (by decide) (by decide) (by decide) (by decide) (by decide), hlast]
    · rw [stepBegin_seal _ (by decide) (by decide) (by decide) (by decide) (by decide), hprotd]
    · rw [Counted, stepBegin_seal _ (by decide) (by decide) (by decide) (by decide) (by decide), hcount]
    · rw [ht0, (sealStep_clock s p c).1]
    · have hothers : othersInStep (sealStep s p c) p = false :=
        (othersInStep_eq (fun q _ _ => sealStep_pstate s p c q) (sealStep_blocksOf s p c) fun b hb => sealStep_other hb).trans hoth
      rw [stepBegin_khz hp hothers]
      exact stepKhz_range p
  · have heq := commitAct_seals hs hr ha hst hrep ho
    rw [hfl, if_neg (by decide), if_pos (by decide)] at heq
    obtain ⟨hloaded, hnone⟩ := runEnd_spec (sealStep s p c) p psLoaded (s.part p).runStatus 0 (by decide)
    refine ⟨_, (commit_leaf hc halive).trans (congrArg Host.Outcome.next heq), ?_, hloaded, hnone⟩
    rw [(runEnd_keeps Sub.rfl (Keeps.refl _ _)).rd _ _ (by decide), (sealStep_regs s p c hstep hprot).1]
  · have heq := commitAct_seals hs hr ha hst hrep ho
    rw [hfl, if_pos (by decide)] at heq
    refine ⟨_, (commit_leaf hc halive).trans (congrArg Host.Outcome.next heq), ?_, alarmHalt_pstate ..⟩
    rw [(alarmHalt_keeps Sub.rfl (Keeps.refl _ _)).rd _ _ (by decide), (sealStep_regs s p c hstep hprot).1]
  · have heq := commitAct_rolls hs hr ha ho
    rw [hfl, rollback_begins (by rwa [record_part]) (by rwa [recentRolls_record])] at heq
    obtain ⟨hstop, hreplay, -, hgen, hlast⟩ := rollBegin_spec (s.record 0xA002 uFcc [(4, c.step), (1, c.run),
      (1, inputBits (s.part p).verdict (unclassified s p c.step))]) p (nextStep c.target) (bitOf 0 1)
      (by rwa [rd_record _ _ _ _ _ _ (by decide)])
    refine ⟨_, (commit_leaf hc halive).trans (congrArg Host.Outcome.next heq), hstop, hreplay, ?_, ?_⟩
    · rw [hgen, record_part]
    · rw [hlast, rd_record _ _ _ _ _ _ (by decide)]
  · exact ⟨_, commit_leaf hc halive, commitAct_notMine hm⟩

end Sys2Proof.Machine
end

section
/-! The restore of a partition from its undo journal, what the stop applies in it, and the RESUME at the root (R257 to R261,
R283). -/

namespace Sys2Proof.Machine

open Sys2Proof

/-! ### The restore (R245, R257 to R261) -/

section
variable (s : State) (p from_ : Nat)

/-- Memory undone back to a step: every segment since it, newest first. -/
def undone : State := s.each (segsFrom (s.part p) from_) fun t g => undoSeg t p g

/-- The partition's own marks of a restore. -/
def restoredPart : State :=
  jnlCount ((undone s p from_).modPart p fun x =>
    { x with
      journal := x.journal.filter (fun g => decide (g.step < from_)), final := [], early := [], written := [], restored := true }) p

/-- What the stop of a domain applies at a restore. -/
def restoreStop : State := spareAtStop (remapAtStop (substAtStop (restoredPart s p from_) p) p)

/-- The last seal and the count of a restore. -/
def restoreCounted : State :=
  ((((restoreStop s p from_).each (s.blocksOf p) refillRepeats).wr R.SEAL_LAST p (prevStep from_)).bumpSat
    R.SEAL_ROLLBACKS p 1).record 0xA004 uFcc
      [(4, prevStep from_), (4, ((s.now - (s.part p).rollbackNs) / 1000000).toNat)]

/-- A restore from the journal of a partition that goes on, before it is told. -/
def restoreMarked : State :=
  if s.rd R.SEAL_BUDDY_STATE p = bFilling then
    (restoreCounted s p from_).modPart p fun x => { x with fillNext := 0, fillUnacked := [], toSend := [], unacked := [] }
  else restoreCounted s p from_

variable {s p from_}

theorem restoreDone_eq (hrep : (s.part p).replay = some from_) (hres : (s.part p).restored = false) (hb : restoreBusy s p = false)
    (hh : (s.part p).haltAfter = false) (hf : (s.part p).fromBuddy = false) :
    restoreDone s p [] = sendRolled (restoreMarked s p from_) p := by
  unfold restoreDone
  simp only [hrep, hres, hb, hh, hf, Bool.false_eq_true, or_self, if_false, restoreMarked, restoreCounted, restoreStop,
    restoredPart, undone]

/-- At the root a ROLLED of the last chip resumes the step, and the partition is no longer one that has restored (R283). -/
theorem sendRolled_resumes (hroot : s.parent p = none) (hrep : (s.part p).replay = some from_) (hres : (s.part p).restored = true)
    (hdom : s.inDomain p = true) {good : List Nat}
    (hgood : ((s.children p).filterMap fun c => ((s.part p).rolledFrom.find? fun e =>
      e.1 == c && e.2.target == prevStep from_ && e.2.gen == (s.part p).runGen).map (·.2.count)) = good)
    (hall : good.length = (s.children p).length) (hcount : 1 + good.foldl (· + ·) 0 = s.chips p) :
    ((sendRolled s p).part p).restored = false := by
  have htold (b : ClvBody) : Keeps sendPlaces s (toChildren s p b) :=
    each_keeps (fun v r h => h.trans (clvRank_way v p r b)) (Keeps.refl _ s)
  unfold sendRolled
  simp only [hrep, hgood, hres, hdom, hall, hroot, hcount, Bool.true_eq_false, ne_eq, not_true_eq_false, or_self, if_false, Option.isSome_none,
    Bool.false_eq_true, if_true, resume, resumeAct, (htold _).part_eq rfl, true_or]
  rw [part_modPart_same, stepBegin_eq, (setClock_keeps Sub.rfl (Keeps.refl _ _)).part_eq (by decide), beginState, part_modPart_same]

end

/-! ### A move of lanes that waits for the stop (R135, R174) -/

/-- A chip of rank 1 in a domain of two, whose FAB_CHIP_ID names rank 0 from the next training on: a move of lanes waits
for the stop, no lane is Ready, so the port trains; its copy of the other chip's ROLLED is there. -/
def lateMove : State :=
  { ({} : State) with
    od := [(odKey R.FAB_PORT_STATE 0, 2), (odKey R.FAB_TORUS_DIM 0, 1), (odKey R.FAB_DMAP 0, 2 ^ 63 + 2 ^ 24), (odKey R.CLV_ROOT 0, 0)]
    parts := [(0, { replay := some 5, rolledFrom := [(1, { target := 4, gen := 0, count := 1 })],
                    image := List.replicate 60 0 ++ [2, 0, 0, 0] })]
    ports := [(0, { pendingMoves := [(0, 1)] })]
    router := { ({} : Router) with chipId := 1 } }

/-- The restore's own training makes the chip the root, and the restore ends in the RESUME of the step. -/
theorem restoreDone_lateMove : ((restoreDone lateMove 0 []).part 0).restored = false := by
  rw [restoreDone_eq (from_ := 5) rfl rfl (by decide +kernel) rfl rfl]
  exact sendRolled_resumes (from_ := 5) (by decide +kernel) (by decide +kernel) (by decide +kernel) (by decide +kernel) rfl
    (by decide +kernel) (by decide +kernel)

/-- Refutes O42: a restore applies the lane moves that wait for the stop before it tells its parent; a training among them
takes a new FAB_CHIP_ID, by which the chip can be the root, and then resumes the step at once and is not `restored`. -/
theorem not_rollbackAndReplay : ¬ Obligations.RollbackAndReplay := by
  intro h
  obtain ⟨-, hrestore, -⟩ := h lateMove 0 5 (by decide)
  obtain ⟨t, ht, hrestored, -⟩ := hrestore 0 rfl rfl (by decide +kernel) rfl rfl (by decide +kernel) (by decide +kernel)
  have heq : restoreDone lateMove 0 [] = t := Host.Outcome.next.inj ht
  rw [← heq, restoreDone_lateMove] at hrestored
  cases hrestored

end Sys2Proof.Machine
end

section
/-! Network time: the counter and its tick, the pending step, the master port, the latch and holdover (R198 to R210). -/

namespace Sys2Proof.Machine

open Sys2Proof

/-! ### What a record reads of the time unit -/

section
variable {s : State} {u : TimeUnit}

/-- The time unit with another account of the servo, the counter as it stands. -/
def SameCounter (s : State) (u : TimeUnit) : Prop := u.sec = s.time.sec ∧ u.ns = s.time.ns

theorem now_setTime (h : SameCounter s u) : (s.setTime u).now = s.now := by
  rw [State.now, State.now, ← h.1, ← h.2]
  rfl

theorem recBytes_setTime (h : SameCounter s u) (code source : Nat) (data : List Byte) :
    recBytes (s.setTime u) code source data = recBytes s code source data := by
  rw [recBytes, recBytes, ← h.1, ← h.2]
  rfl

theorem bucketNow_setTime (h : SameCounter s u) (code : Nat) : bucketNow (s.setTime u) code = bucketNow s code := by
  unfold bucketNow
  rw [now_setTime h]
  rfl

theorem ldgAccept_setTime (h : SameCounter s u) (code : Nat) (r : List Byte) (tokens : Nat) :
    (ldgAccept (s.setTime u) code r tokens).ledger = (ldgAccept s code r tokens).ledger := by
  have hled : (s.setTime u).ledger = s.ledger := rfl
  simp only [ldgAccept, hled, now_setTime h, recBytes_setTime h]
  apply ldgBucket_ledger_congr
  apply ldgEnqueue_ledger_congr
  split
  · rfl
  · exact ldgEnqueue_ledger_congr (s := s.setTime u) (t := s) rfl _

theorem ldgSuppress_setTime (h : SameCounter s u) (code tokens : Nat) :
    (ldgSuppress (s.setTime u) code tokens).ledger = (ldgSuppress s code tokens).ledger := by
  have hled : (s.setTime u).ledger = s.ledger := rfl
  simp only [ldgSuppress, hled, now_setTime h]
  apply ldgBucket_ledger_congr
  split <;> rfl

/-- A record is the same event whatever the servo keeps beside the counter. -/
theorem record_setTime (h : SameCounter s u) (code source : Nat) (fs : List (Nat × Nat)) :
    ((s.setTime u).record code source fs).ledger = (s.record code source fs).ledger := by
  have hhost : (s.setTime u).host = s.host := rfl
  simp only [State.record, State.recordL, ldgPresent, recBytes_setTime h, bucketNow_setTime h, hhost]
  split
  · exact ldgEnqueue_ledger_congr (s := s.setTime u) (t := s) rfl _
  · split
    · exact ldgAccept_setTime h ..
    · exact ldgSuppress_setTime h ..

end

/-! ### The tick (R198) -/

section
variable (s : State)

theorem grandmaster_keeps' : Keeps [0x5804] s (grandmaster s) := grandmaster_keeps Sub.rfl (Keeps.refl _ s)

/-- The time unit after one tick of an increment: FRAC in parts of `b`, a second of `top` parts, seconds modulo `w`. -/
def tickedTime (b top w : Nat) (u : TimeUnit) (incr : Nat) : TimeUnit :=
  let acc := u.ns * b + u.frac + incr
  let a := if top ≤ acc then acc - top else acc
  { u with
    sec := if top ≤ acc then (u.sec + 1) % w else u.sec, ns := a / b, frac := a % b, uptime := u.uptime + 1 }

theorem tickedTime_count (b top w : Nat) (u : TimeUnit) (incr : Nat) :
    (tickedTime b top w u incr).ns * b + (tickedTime b top w u incr).frac =
      if top ≤ u.ns * b + u.frac + incr then u.ns * b + u.frac + incr - top else u.ns * b + u.frac + incr :=
  Nat.div_add_mod' _ _

theorem tickCounter_time : (tickCounter (grandmaster s)).time =
      tickedTime (2 ^ 24) (1000000000 * 2 ^ 24) (2 ^ 48) s.time (s.rd R.TIME_INCR 0) ∧
    (tickCounter (grandmaster s)).rd R.TIME_INCR 0 = s.rd R.TIME_INCR 0 := by
  have hincr : (grandmaster s).rd R.TIME_INCR 0 = s.rd R.TIME_INCR 0 := by
    unfold grandmaster
    split
    · exact rd_wr_ne _ _ (by decide)
    · rfl
  have hcount : (tickCounter (grandmaster s)).time =
      tickedTime (2 ^ 24) (1000000000 * 2 ^ 24) (2 ^ 48) (grandmaster s).time ((grandmaster s).rd R.TIME_INCR 0) := rfl
  exact ⟨by rw [hcount, hincr, (grandmaster_keeps' s).time_eq rfl], (rd_setTime ..).trans hincr⟩

theorem applyStep_still (h : s.stepPend = 0 ∨ s.running = true) : applyStep (tickCounter (grandmaster s)) = tickCounter (grandmaster s) :=
  applyStep_of_still (h.imp (tickCounter_grandmaster_stepPend s).trans (tickCounter_grandmaster_running s).trans)

end

/-! ### Holdover (R210) -/

section
variable {s : State}

/-- A chip that follows a master enters holdover with the increment it has. -/
theorem timeHoldover_spec (cause : Nat) (h : s.follows = true) :
    (timeHoldover s cause).rd R.TIME_STATE 0 = 3 ∧ (timeHoldover s cause).rd R.TIME_HOLDOVER 0 = 1 ∧
      (timeHoldover s cause).rd R.TIME_INCR 0 = s.rd R.TIME_INCR 0 ∧
      Logged s (timeHoldover s cause) 0x8001 uTime [(1, cause), (4, s.rd R.TIME_INCR 0)] := by
  rw [show timeHoldover s cause = (((s.wr R.TIME_STATE 0 tsHoldover).wr R.TIME_HOLDOVER 0 1).setTime { s.time with
      holdNs := s.now, good := 0, syncs := [], slewed := 0 }).record 0x8001 uTime [(1, cause), (4, s.rd R.TIME_INCR 0)] from if_pos h]
  have hrd (r : Reg) (hr) := rd_record (((s.wr R.TIME_STATE 0 tsHoldover).wr R.TIME_HOLDOVER 0 1).setTime { s.time with
      holdNs := s.now, good := 0, syncs := [], slewed := 0 }) 0x8001 uTime [(1, cause), (4, s.rd R.TIME_INCR 0)] r 0 hr
  refine ⟨?_, ?_, ?_, ?_⟩
  · rw [hrd _ (by decide), rd_setTime, rd_wr_ne _ _ (by decide), rd_wr_same]
    rfl
  · rw [hrd _ (by decide), rd_setTime, rd_wr_same]
    rfl
  · rw [hrd _ (by decide), rd_setTime, rd_wr_ne _ _ (by decide), rd_wr_ne _ _ (by decide)]
  · rw [Logged]
    refine (record_setTime ?_ ..).trans (((sameRecords_wr _ _ _ (by decide)).record_ledger ..).trans
      ((sameRecords_wr _ _ _ (by decide)).record_ledger ..))
    exact ⟨rfl, rfl⟩

theorem timeHoldover_free (cause : Nat) (h : s.follows = false) : timeHoldover s cause = s := if_neg (by rw [h]; decide)

/-! ### The master port (R208, R210) -/

/-- The master port written, the state not yet changed. -/
def masterNamed (s : State) (v : Nat) : State :=
  let old := s.rd R.TIME_MASTER_PORT 0
  let s1 := (s.wr R.TIME_MASTER_PORT 0 v).modTime fun u => { u with identity := none, good := 0, syncNs := s.now }
  if old = v then s1 else s1.record 0x8006 uTime [(1, old), (1, v)]

theorem masterNamed_clock (v : Nat) : SameClock s (masterNamed s v) := by
  dsimp only [masterNamed]
  refine .ite ⟨rfl, rfl⟩ ?_
  rw [SameClock, record_time]
  exact ⟨rfl, rfl⟩

theorem rd_masterNamed (r : Reg) (h : ([16, 0x7002].contains (regPlace r) || [16, 0x7002].contains 31) = false) (v : Nat) :
    (masterNamed s v).rd r 0 = (s.wr R.TIME_MASTER_PORT 0 v).rd r 0 := by
  dsimp only [masterNamed]
  split
  · rfl
  · exact rd_record _ _ _ _ _ _ h

/-- The state of the time tree after a write of the master port. -/
def masterState (s : State) (v : Nat) : State :=
  let s2 := masterNamed s v
  if v = 7 then (leaveHoldover s2 0).wr R.TIME_STATE 0 tsGrand
  else if s2.rd R.TIME_STATE 0 = tsGrand then s2.wr R.TIME_STATE 0 tsAcquiring
  else timeHoldover s2 4

theorem leaveHoldover_keeps' (offset : Int) : Keeps [16, 0x5804, 0x7002] s (leaveHoldover s offset) :=
  leaveHoldover_keeps Sub.rfl (Keeps.refl _ s)

theorem masterState_clock (v : Nat) : SameClock s (masterState s v) := by
  refine (masterNamed_clock v).trans ?_
  dsimp only [masterState]
  refine .ite ((SameClock.of_keeps (leaveHoldover_keeps' 0) (by decide)).trans ⟨rfl, rfl⟩) (.ite ⟨rfl, rfl⟩ ?_)
  unfold timeHoldover
  refine .ite ?_ (.refl _)
  rw [SameClock, record_time]
  exact ⟨rfl, rfl⟩

/-- A write of the master port by its value and the state before it. -/
theorem masterPort_spec {v : Nat} (hv : v < 2 ^ 8) :
    (masterPort s v).rd R.TIME_MASTER_PORT 0 = v ∧ (masterPort s v).now = s.now ∧
      (v = 7 → (masterPort s v).rd R.TIME_STATE 0 = 4) ∧
      (v ≠ 7 → s.rd R.TIME_STATE 0 = 4 → (masterPort s v).rd R.TIME_STATE 0 = 1) ∧
      (v ≠ 7 → s.follows = true → (masterPort s v).rd R.TIME_STATE 0 = 3 ∧ (masterPort s v).rd R.TIME_HOLDOVER 0 = 1) := by
  have hpath : SameClock (masterState s v) (pathPs (masterState s v)) := ⟨rfl, rfl⟩
  have hstate : (masterNamed s v).rd R.TIME_STATE 0 = s.rd R.TIME_STATE 0 :=
    (rd_masterNamed R.TIME_STATE (by decide) v).trans (rd_wr_ne _ _ (by decide))
  have hread (r : Reg) (h : r.index * 256 + r.sub % 256 ≠ R.TIME_PATH_PS.index * 256 + R.TIME_PATH_PS.sub % 256) :
      (masterPort s v).rd r 0 = (masterState s v).rd r 0 := rd_wr_ne _ _ h
  refine ⟨?_, ?_, fun h7 => ?_, fun h7 h4 => ?_, fun h7 hf => ?_⟩
  · have hnamed : (masterNamed s v).rd R.TIME_MASTER_PORT 0 = v :=
      (rd_masterNamed R.TIME_MASTER_PORT (by decide) v).trans ((rd_wr_same ..).trans (Nat.mod_eq_of_lt hv))
    rw [hread _ (by decide)]
    dsimp only [masterState]
    split_ifs
    · rw [rd_wr_ne _ _ (by decide), (leaveHoldover_keeps' 0).rd _ _ (by decide), hnamed]
    · rw [rd_wr_ne _ _ (by decide), hnamed]
    · rw [(timeHoldover_keeps Sub.rfl (Keeps.refl _ _)).rd _ _ (by decide), hnamed]
  · exact ((masterState_clock v).trans hpath).now
  · rw [hread _ (by decide), show masterState s v = _ from if_pos h7, rd_wr_same]
    rfl
  · rw [hread _ (by decide), show masterState s v = _ from (if_neg h7).trans (if_pos (hstate.trans h4)), rd_wr_same]
    rfl
  · have hne : ¬ (masterNamed s v).rd R.TIME_STATE 0 = tsGrand := by
      rw [hstate]
      intro h
      rw [State.follows, h] at hf
      exact absurd hf (by decide)
    have hfol : (masterNamed s v).follows = true := by rwa [State.follows, hstate]
    rw [hread _ (by decide), hread _ (by decide), show masterState s v = _ from (if_neg h7).trans (if_neg hne)]
    exact ⟨(timeHoldover_spec 4 hfol).1, (timeHoldover_spec 4 hfol).2.1⟩

end

/-- Seconds and nanoseconds of an instant of the counter's range make up that instant. -/
theorem counter_split (w : Nat) {t : Int} (hlo : 0 ≤ t) (hhi : t < w * 1000000000) :
    (((t / 1000000000 % w).toNat * 1000000000 + (t % 1000000000).toNat : Nat) : Int) = t := by
  have hdiv : t / 1000000000 % w = t / 1000000000 := Int.emod_eq_of_lt (by omega) (by omega)
  rw [hdiv]
  omega

/-- Settles O45: the tick and the step by whether a step is due; each write by what it stores; holdover by whether a
master is followed. -/
theorem networkTime : Obligations.NetworkTime := by
  intro s who acc top still
  refine ⟨fun hstill => ?_, fun hstill => ?_, fun hd hrun hlo hhi => ?_, fun v hok => ?_, fun d hlo hhi hok => ⟨fun hslo hshi => ?_,
    fun hover => ?_⟩, ?_, fun v hok => ?_, fun hf hdue => ?_, fun hn => ?_⟩
  · refine ⟨_, congrArg Host.Outcome.next (applyStep_still s hstill), ?_⟩
    obtain ⟨htime, hincr⟩ := tickCounter_time s
    rw [htime]
    exact ⟨tickedTime_count .., rfl, rfl, hincr⟩
  · exact ⟨_, rfl, applyStep_of_still hstill⟩
  · refine ⟨_, rfl, ?_, ?_, applyStep_due_stepPend hd hrun, applyStep_due_logged hd hrun⟩
    · rw [State.now, applyStep_due_time hd hrun]
      exact counter_split _ hlo hhi
    · rw [applyStep_due_time hd hrun]
      rfl
  · refine writes_of_guard rfl hok (t := timeIncr s v) rfl ⟨?_, rfl, rfl, rfl⟩
    exact (rd_wr_same ..).trans (Nat.mod_eq_of_lt hok.lt)
  · obtain ⟨t, ht, ⟨hp, htime, -, -⟩, hans⟩ := timeStepNs_of_fits hlo hhi hok hslo hshi
    exact ⟨t, ht, ⟨hp, htime⟩, hans⟩
  · exact timeStepNs_of_overflow hlo hhi hok hover
  · exact ⟨_, rfl, rfl, mapGet_mapSet_same .., rfl⟩
  · obtain ⟨hport, hnow, hgrand, hleft, hfol⟩ := masterPort_spec (s := s) hok.lt
    exact writes_of_guard rfl hok (t := masterPort s v) rfl ⟨hport, hnow, hgrand, hleft, hfol⟩
  · obtain ⟨hst, hhold, hincr, hlog⟩ := timeHoldover_spec 1 hf
    exact ⟨_, congrArg Host.Outcome.next (if_pos hdue), hst, hhold, hincr, hlog⟩
  · refine ⟨_, rfl, ?_⟩
    rcases hn with hn | hn
    · rw [timeHoldover_free 1 hn, ite_self]
    · exact if_neg (by omega)

end Sys2Proof.Machine
end

section
/-! Time messages: the fields of their bytes, what queues them, what a departure writes into them and what their arrival
does (R203 to R210). -/

namespace Sys2Proof.Machine

open Sys2Proof

/-! ### Fields of bytes, most significant first (R5) -/

section
variable {a b bs : List Byte} {k n o v : Nat}

@[simp] theorem length_beBytes (n v : Nat) : (beBytes n v).length = n := by simp [beBytes]

theorem beVal_beBytes (n v : Nat) : beVal (beBytes n v) = v % 256 ^ n := by
  rw [beVal, beBytes, List.reverse_reverse, leVal_leBytes]

theorem leVal_lt (bs : List Byte) : leVal bs < 256 ^ bs.length := by
  induction bs with
  | nil => simp [leVal]
  | cons x r ih =>
    have hx := x.isLt
    rw [leVal, List.length_cons, pow_succ]
    omega

theorem beField_lt (bs : List Byte) (o n : Nat) : beField bs o n < 256 ^ n := by
  refine Nat.lt_of_lt_of_le (leVal_lt _) (Nat.pow_le_pow_right (by decide) ?_)
  simp

/-- A field behind a part of a message. -/
theorem beField_skip (h : a.length = k) (hk : k ≤ o) : beField (a ++ b) o n = beField b (o - k) n := by
  rw [beField, beField, List.drop_append, List.drop_eq_nil_of_le (by omega), List.nil_append, h]

/-- The field that begins a message. -/
theorem beField_here : beField (beBytes n v ++ b) 0 n = v % 256 ^ n := by
  rw [beField, List.drop_zero, List.take_append_of_le_length (by simp), List.take_of_length_le (by simp), beVal_beBytes]

/-- A part of a message behind another. -/
theorem drop_skip (h : a.length = k) (hk : k ≤ o) : (a ++ b).drop o = b.drop (o - k) := by
  rw [List.drop_append, List.drop_eq_nil_of_le (by omega), List.nil_append, h]

@[simp] theorem length_portIdentity (p : Nat) : (portIdentity p).length = 10 := by simp [portIdentity]

end

/-! ### The messages that the device makes (R203, log 50) -/

section
variable (p type len seq log : Nat) (c : Int) (tail : List Byte)

/-- A message in its fields. -/
theorem ptpHead_fields : ptpHead p type len seq log c ++ tail = beBytes 1 type ++ (beBytes 1 0x12 ++ (beBytes 2 len ++ (beBytes 1 0 ++
    (beBytes 1 0 ++ (beBytes 1 0 ++ (beBytes 1 0 ++ (beBytes 8 (ofSigned 64 c) ++ (beBytes 4 0 ++ (portIdentity p ++ (beBytes 2 seq ++
      (beBytes 1 (if type = 0 then 0 else 5) ++ (beBytes 1 log ++ tail)))))))))))) := by
  have hzero : beBytes 4 0 = beBytes 1 0 ++ (beBytes 1 0 ++ (beBytes 1 0 ++ beBytes 1 0)) := by decide
  rw [ptpHead, hzero]
  simp only [List.append_assoc]

theorem ptpHead_length : (ptpHead p type len seq log c).length = 34 := by simp [ptpHead]

theorem ptpHead_type : ptpType (ptpHead p type len seq log c ++ tail) = type % 256 % 16 := by
  rw [ptpType, ptpHead_fields, beField_here, Nat.pow_one]

theorem ptpHead_seq : beField (ptpHead p type len seq log c ++ tail) 30 2 = seq % 65536 := by
  rw [ptpHead_fields]
  simp (disch := first | decide | simp) only [beField_skip (length_beBytes _ _), beField_skip (length_portIdentity _)]
  exact beField_here

theorem ptpHead_correction : ptpCorrection (ptpHead p type len seq log c ++ tail) = toSigned 64 (ofSigned 64 c) := by
  rw [ptpCorrection, ptpHead_fields]
  simp (disch := decide) only [beField_skip (length_beBytes _ _)]
  rw [beField_here, Nat.mod_eq_of_lt (show ofSigned 64 c < 256 ^ 8 from ofSigned_lt 64 c)]

theorem ptpHead_identity : ((ptpHead p type len seq log c ++ tail).drop 20).take 10 = portIdentity p := by
  rw [ptpHead_fields]
  simp (disch := decide) only [drop_skip (length_beBytes _ _)]
  simp

theorem ptpHead_ok (ht : type = 0 ∨ type = 2 ∨ type = 3) (hlen : len = ptpLen type) (htail : len ≤ 34 + tail.length)
    (hns : type = 0 → beField tail 6 4 < 1000000000) : ptpOk (ptpHead p type len seq log c ++ tail) = true := by
  have hversion : beField (ptpHead p type len seq log c ++ tail) 1 1 = 0x12 := by
    rw [ptpHead_fields]
    simp (disch := decide) only [beField_skip (length_beBytes _ _)]
    exact beField_here
  have hdomain : beField (ptpHead p type len seq log c ++ tail) 4 1 = 0 := by
    rw [ptpHead_fields]
    simp (disch := decide) only [beField_skip (length_beBytes _ _)]
    exact beField_here
  have hflags : beField (ptpHead p type len seq log c ++ tail) 6 1 = 0 := by
    rw [ptpHead_fields]
    simp (disch := decide) only [beField_skip (length_beBytes _ _)]
    exact beField_here
  have hlength : beField (ptpHead p type len seq log c ++ tail) 2 2 = len := by
    rw [ptpHead_fields]
    simp (disch := decide) only [beField_skip (length_beBytes _ _)]
    refine beField_here.trans (Nat.mod_eq_of_lt ?_)
    rw [hlen, ptpLen]
    split <;> decide
  have htime : beField (ptpHead p type len seq log c ++ tail) 40 4 = beField tail 6 4 :=
    beField_skip (ptpHead_length ..) (by decide)
  have htype : ptpType (ptpHead p type len seq log c ++ tail) = type := by
    rw [ptpHead_type]
    omega
  have hsize : (ptpHead p type len seq log c ++ tail).length = 34 + tail.length := by
    rw [List.length_append, ptpHead_length]
  have htake : [mtSync, mtReq, mtResp].contains type = true := by
    rcases ht with rfl | rfl | rfl <;> decide
  have hbound : (type != mtSync || decide (beField tail 6 4 < 1000000000)) = true := by
    by_cases h0 : type = 0
    · simp [hns h0]
    · simp [mtSync, h0]
  unfold ptpOk
  simp only [htype, hversion, hdomain, hflags, hlength, hsize, htime, ← hlen, htail, htake, hbound, beq_self_eq_true]
  decide

end

/-! ### A time message on a port's queue (R204) -/

/-- The packets of VC4 that wait on a port. -/
def vc4Queue (s : State) (p : Nat) : List QPacket := mapGet [] (s.port p).txq 4

/-- A packet of one flit that carries a time message of a port for its link partner. -/
structure IsTimeMsg (dst : Nat) (q : QPacket) (p type seq : Nat) (correction : Int) : Prop where
  vc : q.pkt.vc = 4
  kind : q.pkt.kind = 6
  loc : q.pkt.loc = true
  len : q.pkt.len = 0
  dst : q.pkt.dst = dst
  ok : ptpOk q.pkt.data = true
  type : ptpType q.pkt.data = type
  seq : beField q.pkt.data 30 2 = seq
  correction : ptpCorrection q.pkt.data = correction
  identity : (q.pkt.data.drop 20).take 10 = portIdentity p

/-- A time message of bytes as it is queued. -/
def timePacket (s : State) (port : Nat) (bs : List Byte) : QPacket :=
  { pkt := withData { ownPacket s 4 6 (s.beyond port) with loc := true } bs }

theorem sendTime_up {s : State} {port : Nat} {bs : List Byte} (h : s.portUp port = true) :
    sendTime s port bs = queueAt s port (timePacket s port bs) := if_pos h

theorem queueAt_vc4 (s : State) (port : Nat) {q : QPacket} (h : q.pkt.vc = 4) :
    vc4Queue (queueAt s port q) port = vc4Queue s port ++ [q] ∧ ∀ j, j ≠ port → vc4Queue (queueAt s port q) j = vc4Queue s j := by
  unfold queueAt vc4Queue
  refine ⟨?_, fun j hj => ?_⟩
  · rw [port_modPort_same]
    dsimp only
    rw [h, mapGet_mapPut_same]
  · rw [port_modPort_other s _ hj]

theorem timePacket_isMsg {s : State} {port type len seq log : Nat} {c : Int} {tail : List Byte} (ht : type = 0 ∨ type = 2 ∨ type = 3)
    (hlen : len = ptpLen type) (htail : len = 34 + tail.length) (hns : type = 0 → beField tail 6 4 < 1000000000)
    (hseq : seq < 65536) :
    IsTimeMsg (s.beyond port) (timePacket s port (ptpHead port type len seq log c ++ tail)) port type seq
      (toSigned 64 (ofSigned 64 c)) where
  vc := rfl
  kind := rfl
  loc := rfl
  len := by
    have hsize : (ptpHead port type len seq log c ++ tail).length = len := by rw [List.length_append, ptpHead_length, htail]
    show flitsOf (ptpHead port type len seq log c ++ tail).length - 1 = 0
    rw [hsize, hlen, ptpLen]
    split <;> decide
  dst := rfl
  ok := ptpHead_ok _ _ _ _ _ _ _ ht hlen (Nat.le_of_eq htail) hns
  type := (ptpHead_type ..).trans (by omega)
  seq := (ptpHead_seq ..).trans (Nat.mod_eq_of_lt hseq)
  correction := ptpHead_correction ..
  identity := ptpHead_identity ..

/-! ### Messages sent on several ports (R207, R208) -/

/-- One message of a type sent on a port, with what it makes of the port's delay measurement. -/
structure TimeSend (type : Nat) (g : Pdelay → Nat → Pdelay) (s : State) (p : Nat) (t : State) : Prop where
  queued : ∃ q, vc4Queue t p = vc4Queue s p ++ [q] ∧ IsTimeMsg (s.beyond p) q p type s.time.ptpSeq 0
  others : ∀ j, j ≠ p → vc4Queue t j = vc4Queue s j ∧ t.pdelayOf j = s.pdelayOf j
  delay : t.pdelayOf p = g (s.pdelayOf p) s.time.ptpSeq
  seq : t.time.ptpSeq = (s.time.ptpSeq + 1) % 65536
  outbox : t.outbox = s.outbox
  now : t.now = s.now
  beyond : t.beyond = s.beyond
  up : t.portUp = s.portUp

/-- A message sent on each of several ports. -/
structure TimeSends (type : Nat) (g : Pdelay → Nat → Pdelay) (s : State) (l : List Nat) (t : State) : Prop where
  queued : ∀ k < l.length, ∃ q, vc4Queue t (getAt 0 l k) = vc4Queue s (getAt 0 l k) ++ [q] ∧
    IsTimeMsg (s.beyond (getAt 0 l k)) q (getAt 0 l k) type ((s.time.ptpSeq + k) % 65536) 0
  others : ∀ j, j ∉ l → vc4Queue t j = vc4Queue s j ∧ t.pdelayOf j = s.pdelayOf j
  delay : ∀ k < l.length, t.pdelayOf (getAt 0 l k) = g (s.pdelayOf (getAt 0 l k)) ((s.time.ptpSeq + k) % 65536)
  outbox : t.outbox = s.outbox
  now : t.now = s.now

theorem getAt_mem {l : List Nat} {k : Nat} (h : k < l.length) : getAt 0 l k ∈ l := by
  induction l generalizing k with
  | nil => cases h
  | cons x rest ih =>
    cases k with
    | zero => exact .head _
    | succ k => exact .tail _ (ih (by simpa using h))

/-- Messages sent in the order of the ports carry numbers in that order. -/
theorem each_timeSends {type : Nat} {g : Pdelay → Nat → Pdelay} {f : State → Nat → State}
    (hf : ∀ s p, s.portUp p = true → s.time.ptpSeq < 65536 → TimeSend type g s p (f s p)) {l : List Nat} (hl : l.Nodup) :
    ∀ s : State, (∀ p ∈ l, s.portUp p = true) → s.time.ptpSeq < 65536 → TimeSends type g s l (s.each l f) := by
  induction l with
  | nil => exact fun s _ _ => ⟨fun k hk => absurd hk (Nat.not_lt_zero k), fun _ _ => ⟨rfl, rfl⟩, fun k hk => absurd hk (Nat.not_lt_zero k), rfl, rfl⟩
  | cons p rest ih =>
    intro s hup hseq
    obtain ⟨hp, hrest⟩ := List.nodup_cons.1 hl
    have one := hf s p (hup p (.head _)) hseq
    have more := ih hrest (f s p) (fun j hj => by rw [one.up]; exact hup j (.tail _ hj)) (by rw [one.seq]; omega)
    have hnum (k : Nat) : ((f s p).time.ptpSeq + k) % 65536 = (s.time.ptpSeq + (k + 1)) % 65536 := by
      rw [one.seq]
      omega
    refine ⟨fun k hk => ?_, fun j hj => ?_, fun k hk => ?_, more.outbox.trans one.outbox, more.now.trans one.now⟩
    · cases k with
      | zero =>
        obtain ⟨q, hq, hmsg⟩ := one.queued
        refine ⟨q, ((more.others p hp).1).trans hq, ?_⟩
        rw [Nat.add_zero, Nat.mod_eq_of_lt hseq]
        exact hmsg
      | succ k =>
        have hk' : k < rest.length := by simpa using hk
        obtain ⟨q, hq, hmsg⟩ := more.queued k hk'
        have hne : getAt 0 rest k ≠ p := fun h => hp (h ▸ getAt_mem hk')
        rw [one.beyond, hnum] at hmsg
        exact ⟨q, hq.trans (by rw [(one.others _ hne).1]; rfl), hmsg⟩
    · rw [List.mem_cons, not_or] at hj
      exact ⟨(more.others j hj.2).1.trans (one.others j hj.1).1, (more.others j hj.2).2.trans (one.others j hj.1).2⟩
    · cases k with
      | zero =>
        rw [Nat.add_zero, Nat.mod_eq_of_lt hseq]
        exact (more.others p hp).2.trans one.delay
      | succ k =>
        have hk' : k < rest.length := by simpa using hk
        have hne : getAt 0 rest k ≠ p := fun h => hp (h ▸ getAt_mem hk')
        refine (more.delay k hk').trans ?_
        rw [hnum, (one.others _ hne).2]
        rfl

theorem upPorts_nodup (s : State) : s.upPorts.Nodup := List.Nodup.filter _ List.nodup_range

theorem mem_upPorts {s : State} {p : Nat} (h : p ∈ s.upPorts) : s.portUp p = true := by
  simpa using (List.mem_filter.1 h).2

theorem sendSync_sends (s : State) (p : Nat) (hup : s.portUp p = true) (hseq : s.time.ptpSeq < 65536) :
    TimeSend 0 (fun d _ => d) s p (sendSync s p) := by
  unfold sendSync
  rw [sendTime_up hup]
  obtain ⟨hq, hother⟩ := queueAt_vc4 s p (q := timePacket s p (ptpHead p mtSync 44 s.time.ptpSeq ((256 - s.rd R.TIME_SYNC_LOG 0) % 256) 0 ++
    beBytes 10 0)) rfl
  exact
    { queued := ⟨_, hq, timePacket_isMsg (.inl rfl) rfl rfl (fun _ => by decide) hseq⟩
      others := fun j hj => ⟨hother j hj, rfl⟩
      delay := rfl
      seq := rfl
      outbox := rfl
      now := rfl
      beyond := rfl
      up := rfl }

theorem sendPdelay_sends (s : State) (p : Nat) (hup : s.portUp p = true) (hseq : s.time.ptpSeq < 65536) :
    TimeSend 2 (fun d n => { d with seq := n, t1 := none }) s p (sendPdelay s p) := by
  unfold sendPdelay
  have hup' : (modPdelay s p fun d => { d with seq := s.time.ptpSeq, t1 := none }).portUp p = true := hup
  dsimp only
  rw [sendTime_up hup']
  obtain ⟨hq, hother⟩ := queueAt_vc4 (modPdelay s p fun d => { d with seq := s.time.ptpSeq, t1 := none }) p
    (q := timePacket (modPdelay s p fun d => { d with seq := s.time.ptpSeq, t1 := none }) p
      (ptpHead p mtReq 54 s.time.ptpSeq 0x7F 0 ++ beBytes 20 0)) rfl
  exact
    { queued := ⟨_, hq, timePacket_isMsg (.inr (.inl rfl)) rfl rfl (fun h => absurd h (by decide)) hseq⟩
      others := fun j hj => ⟨hother j hj, mapGet_mapPut_other _ _ _ hj⟩
      delay := mapGet_mapPut_same ..
      seq := rfl
      outbox := rfl
      now := rfl
      beyond := rfl
      up := rfl }

/-! ### What a departure writes (R206, R207) -/

section
variable {s : State} {port : Nat} {payload bs : List Byte}

theorem timeMsgOf_drop (h : timeMsgOf payload = some bs) : bs = payload.drop 40 := by
  unfold timeMsgOf at h
  dsimp only at h
  split at h
  · exact (Option.some.inj h).symm
  · cases h

theorem stampOut_some (h : timeMsgOf payload = some bs) : stampOut s port payload = payload.take 40 ++ stampMsg (s.txStamp port) bs := by
  rw [stampOut, h]

/-- The first 40 bytes of a flit with a time message stay. -/
theorem stampOut_parts (h : timeMsgOf payload = some bs) (hlen : 54 ≤ bs.length) :
    (stampOut s port payload).take 40 = payload.take 40 ∧ (stampOut s port payload).drop 40 = stampMsg (s.txStamp port) bs := by
  have hlong : (payload.take 40).length = 40 := by
    have hd := timeMsgOf_drop h
    rw [hd, List.length_drop] at hlen
    rw [List.length_take]
    omega
  rw [stampOut_some h]
  exact ⟨by rw [List.take_append_of_le_length (by omega), List.take_of_length_le (by omega)],
    by rw [List.drop_append_of_le_length (by omega), List.drop_eq_nil_of_le (by omega), List.nil_append]⟩

variable {t : Int}

theorem stampMsg_sync (ht : ptpType bs = 0) : stampMsg t bs = bs.take 8 ++ (beBytes 8 (t % 65536).toNat ++ ((bs.drop 16).take 18 ++
    (beBytes 6 (t / 65536 / 1000000000 % (2 ^ 48 : Nat)).toNat ++ (beBytes 4 (t / 65536 % 1000000000).toNat ++ bs.drop 44)))) := by
  refine (if_pos ht).trans ?_
  simp only [List.append_assoc]

theorem stampMsg_resp (ht : ptpType bs = 3) :
    stampMsg t bs = bs.take 8 ++ (beBytes 8 (ofSigned 64 (ptpCorrection bs + t)) ++ bs.drop 16) := by
  refine (if_neg (by rw [ht]; decide)).trans ((if_pos ht).trans ?_)
  rw [List.append_assoc]

theorem stampMsg_other (h0 : ptpType bs ≠ 0) (h3 : ptpType bs ≠ 3) : stampMsg t bs = bs :=
  (if_neg h0).trans (if_neg h3)

theorem length_stampMsg (h : 54 ≤ bs.length) : (stampMsg t bs).length = bs.length := by
  by_cases h0 : ptpType bs = 0
  · rw [stampMsg_sync h0]
    simp
    omega
  · by_cases h3 : ptpType bs = 3
    · rw [stampMsg_resp h3]
      simp
      omega
    · rw [stampMsg_other h0 h3]

theorem length_take_of_le {k : Nat} (h : k ≤ bs.length) : (bs.take k).length = k := by simp [h]

/-- A Sync leaves with the time of its departure. -/
theorem stampMsg_sync_fields (ht : ptpType bs = 0) (h : 54 ≤ bs.length) :
    beField (stampMsg t bs) 34 6 = (t / 65536 / 1000000000 % (2 ^ 48 : Nat)).toNat ∧
      beField (stampMsg t bs) 40 4 = (t / 65536 % 1000000000).toNat ∧ ptpCorrection (stampMsg t bs) = t % 65536 := by
  have hhead := length_take_of_le (bs := bs) (k := 8) (by omega)
  have hmid : ((bs.drop 16).take 18).length = 18 := by
    rw [List.length_take, List.length_drop]
    omega
  rw [stampMsg_sync ht]
  refine ⟨?_, ?_, ?_⟩
  · rw [beField_skip hhead (by decide), beField_skip (length_beBytes ..) (by decide), beField_skip hmid (by decide)]
    exact beField_here.trans (Nat.mod_eq_of_lt (by omega))
  · rw [beField_skip hhead (by decide), beField_skip (length_beBytes ..) (by decide), beField_skip hmid (by decide),
      beField_skip (length_beBytes ..) (by decide)]
    exact beField_here.trans (Nat.mod_eq_of_lt (by omega))
  · rw [ptpCorrection, beField_skip hhead (by decide)]
    rw [show beField _ (8 - 8) 8 = _ from beField_here]
    have hsmall : (t % 65536).toNat < 65536 := by omega
    rw [Nat.mod_eq_of_lt (by omega), toSigned]
    rw [Nat.mod_eq_of_lt (by omega), if_pos (by omega)]
    omega

theorem stampMsg_resp_correction (ht : ptpType bs = 3) (h : 54 ≤ bs.length) :
    ptpCorrection (stampMsg t bs) = toSigned 64 (ofSigned 64 (ptpCorrection bs + t)) := by
  rw [stampMsg_resp ht, ptpCorrection, beField_skip (length_take_of_le (by omega)) (by decide)]
  rw [show beField _ (8 - 8) 8 = _ from beField_here, Nat.mod_eq_of_lt (show ofSigned 64 _ < 256 ^ 8 from ofSigned_lt 64 _)]

/-- The departure of a request is kept where it is the one under way. -/
theorem noteDeparture_req (h : timeMsgOf payload = some bs) (ht : ptpType bs = 2) :
    (noteDeparture s port payload).pdelayOf port = { s.pdelayOf port with
      t1 := if beField bs 30 2 = (s.pdelayOf port).seq then some (s.txStamp port) else (s.pdelayOf port).t1 } := by
  rw [noteDeparture, h]
  dsimp only
  split
  · next hc =>
    rw [if_pos hc.2]
    exact mapGet_mapPut_same ..
  · next hc => rw [if_neg fun hs => hc ⟨ht, hs⟩]

end

/-! ### Arrivals (R204 to R210) -/

section
variable {s : State} {m : TimeMsg}

theorem dropTime_drops (s : State) (p : Nat) : Counted s (dropTime s p) R.TIME_MSG_DROP p 1 ∧ (dropTime s p).outbox = s.outbox ∧
    (dropTime s p).time = s.time := ⟨rd_bumpSat_same .., rfl, rfl⟩

theorem timeRx_bad (h : ¬ (ptpOk m.bytes = true ∧ s.portUp m.port = true)) : timeRx s m = dropTime s m.port := by
  refine if_pos ?_
  rcases hok : ptpOk m.bytes with _ | _
  · exact .inl rfl
  · exact .inr (Bool.eq_false_of_not_eq_true fun hup => h ⟨hok, hup⟩)

theorem timeRx_req (hok : ptpOk m.bytes = true ∧ s.portUp m.port = true) (ht : ptpType m.bytes = 2) :
    timeRx s m = pdelayReqRx s m.port (rxStamp m.port m.capture) m.bytes :=
  (if_neg (by simp [hok.1, hok.2])).trans (if_pos ht)

theorem timeRx_resp (hok : ptpOk m.bytes = true ∧ s.portUp m.port = true) (ht : ptpType m.bytes = 3) :
    timeRx s m = pdelayRespRx s m.port (rxStamp m.port m.capture) m.bytes :=
  (if_neg (by simp [hok.1, hok.2])).trans ((if_neg (by rw [ht]; decide)).trans (if_pos ht))

theorem timeRx_sync (hok : ptpOk m.bytes = true ∧ s.portUp m.port = true) (ht : ptpType m.bytes = 0) :
    timeRx s m = if m.port = s.rd R.TIME_MASTER_PORT 0 then syncRx s m.port (rxStamp m.port m.capture) m.bytes
      else dropTime s m.port :=
  (if_neg (by simp [hok.1, hok.2])).trans ((if_neg (by rw [ht]; decide)).trans (if_neg (by rw [ht]; decide)))

theorem sliceZ_within {bs : List Byte} {o n : Nat} (h : o + n ≤ bs.length) : sliceZ bs o n = (bs.drop o).take n := by
  have hlen : ((bs.drop o).take n).length = n := by simp; omega
  simp only [sliceZ, hlen, Nat.sub_self, List.replicate_zero, List.append_nil]

theorem ptpOk_length {bs : List Byte} (h : ptpOk bs = true) (ht : ptpType bs = 2) : 54 ≤ bs.length := by
  simp only [ptpOk, ht, Bool.and_eq_true, decide_eq_true_eq] at h
  exact h.1.2

/-- A request is answered with its number, its own identity, and its receive time with the sign changed (R206). -/
theorem pdelayReqRx_answers (hok : ptpOk m.bytes = true ∧ s.portUp m.port = true) (ht : ptpType m.bytes = 2) (rx : Int) :
    ∃ q, vc4Queue (pdelayReqRx s m.port rx m.bytes) m.port = vc4Queue s m.port ++ [q] ∧
      IsTimeMsg (s.beyond m.port) q m.port 3 (beField m.bytes 30 2) (toSigned 64 (ofSigned 64 (-rx))) ∧
      (q.pkt.data.drop 44).take 10 = (m.bytes.drop 20).take 10 := by
  have hlen := ptpOk_length hok.1 ht
  have hslice : (sliceZ m.bytes 20 10).length = 10 := by
    rw [sliceZ_within (by omega), List.length_take, List.length_drop]
    omega
  unfold pdelayReqRx
  rw [sendTime_up hok.2, List.append_assoc]
  refine ⟨_, (queueAt_vc4 s m.port rfl).1, timePacket_isMsg (.inr (.inr rfl)) rfl ?_ (fun h => absurd h (by decide)) (beField_lt _ _ _), ?_⟩
  · rw [List.length_append, length_beBytes, hslice]
  · show (List.drop 44 (ptpHead m.port mtResp 54 _ 0x7F (-rx) ++ (beBytes 10 0 ++ sliceZ m.bytes 20 10))).take 10 = _
    rw [drop_skip (ptpHead_length ..) (by decide), drop_skip (length_beBytes ..) (by decide)]
    simp only [List.drop_zero, show 44 - 34 - 10 = 0 from rfl]
    rw [List.take_of_length_le (by omega), sliceZ_within (by omega)]

/-- A response to the request under way gives the mean path delay (R207). -/
theorem pdelayRespRx_takes {port : Nat} {rx t1 : Int} {bs : List Byte} (h1 : (s.pdelayOf port).t1 = some t1)
    (ha : beField bs 30 2 = (s.pdelayOf port).seq ∧ (bs.drop 44).take 10 = portIdentity port) :
    pdelayRespRx s port rx bs = pathPs (modPdelay s port fun x => { x with t1 := none, path := ((rx - t1) - ptpCorrection bs) / 2 }) := by
  unfold pdelayRespRx
  simp only [h1, ha, and_self, if_true]

/-- TIME_PATH_PS follows the delay of the master port. -/
theorem pathPs_master {port : Nat} {f : Pdelay → Pdelay} (h : s.rd R.TIME_MASTER_PORT 0 = port) :
    (pathPs (modPdelay s port f)).rd R.TIME_PATH_PS 0 = min (toPs (f (s.pdelayOf port)).path).toNat 0xFFFFFFFF := by
  have hd : (modPdelay s port f).pdelayOf ((modPdelay s port f).rd R.TIME_MASTER_PORT 0) = f (s.pdelayOf port) := by
    rw [show (modPdelay s port f).rd R.TIME_MASTER_PORT 0 = port from h]
    exact mapGet_mapPut_same ..
  rw [pathPs, hd, rd_wr_same]
  exact Nat.mod_eq_of_lt (Nat.lt_of_le_of_lt (Nat.min_le_right ..) (by decide))

theorem pdelayRespRx_drops {port : Nat} {rx : Int} {bs : List Byte}
    (h : ¬ ((beField bs 30 2 = (s.pdelayOf port).seq ∧ (bs.drop 44).take 10 = portIdentity port) ∧
      (s.pdelayOf port).t1.isSome = true)) : pdelayRespRx s port rx bs = dropTime s port := by
  unfold pdelayRespRx
  dsimp only
  split
  · rfl
  · next t1 h1 => exact if_neg fun ha => h ⟨ha, by rw [h1]; rfl⟩

end

/-! ### A Sync of the master port (R207 to R211) -/

section
variable {s : State} {offset : Int}

/-- The offset and what exceeds a bound, before an alarm (R207, R211). -/
def offsetNoted (s : State) (offset : Int) : State :=
  let s1 := s.wrI R.TIME_OFFSET_PS 0 (satSigned 32 (toPs offset))
  if decide (ofNs (s.rd R.TIME_ALIGN_NS 0 : Nat) < offset.natAbs) then s1.bumpSat R.TIME_ALIGN_EXC 0 1 else s1

theorem noteOffset_alarm (s : State) (port : Nat) (offset : Int) :
    Keeps [13, 16, 0x7002, 0x9000, 0x9001] (offsetNoted s offset) (noteOffset s port offset) := by
  dsimp only [noteOffset]
  exact .ite (penDecay_keeps (.of rfl Sub.rfl) (record_keeps (.of rfl Sub.rfl) (Keeps.refl _ _))) (.refl _ _)

theorem offsetNoted_time (s : State) (offset : Int) : (offsetNoted s offset).time = s.time := by
  dsimp only [offsetNoted]
  split <;> rfl

theorem noteOffset_time (s : State) (port : Nat) (offset : Int) : (noteOffset s port offset).time = s.time :=
  ((noteOffset_alarm s port offset).time_eq (by decide)).trans (offsetNoted_time s offset)

theorem satSigned_range (v : Int) : -(2 ^ 32) ≤ 2 * satSigned 32 v ∧ 2 * satSigned 32 v < 2 ^ 32 := by
  unfold satSigned
  omega

theorem noteOffset_offset (s : State) (port : Nat) (offset : Int) :
    (noteOffset s port offset).rdI R.TIME_OFFSET_PS 0 = satSigned 32 (toPs offset) := by
  have hw : (s.wrI R.TIME_OFFSET_PS 0 (satSigned 32 (toPs offset))).rdI R.TIME_OFFSET_PS 0 = satSigned 32 (toPs offset) :=
    rdI_wrI_same _ _ (satSigned_range _).1 (satSigned_range _).2
  rw [State.rdI, (noteOffset_alarm s port offset).rd _ _ (by decide), ← State.rdI]
  dsimp only [offsetNoted]
  split
  · rw [State.rdI, rd_bumpSat_ne (by decide)]
    exact hw
  · exact hw

theorem noteOffset_exceeds (s : State) (port : Nat) {offset : Int} (h : ofNs (s.rd R.TIME_ALIGN_NS 0 : Nat) < offset.natAbs) :
    Counted s (noteOffset s port offset) R.TIME_ALIGN_EXC 0 1 := by
  rw [Counted, (noteOffset_alarm s port offset).rd _ _ (by decide), offsetNoted, if_pos (decide_eq_true h), rd_bumpSat_same]
  exact congrArg (fun n => min (n + 1) (2 ^ regBits R.TIME_ALIGN_EXC - 1)) (rd_wr_ne _ _ (by decide))

/-- An entry that is neither the offset nor the count of what exceeds its bound. -/
theorem rd_noteOffset (s : State) (port : Nat) (offset : Int) {r : Reg}
    (h : ([13, 16, 0x7002, 0x9000, 0x9001].contains (regPlace r) || [13, 16, 0x7002, 0x9000, 0x9001].contains 31) = false)
    (h1 : r.index * 256 + r.sub % 256 ≠ R.TIME_OFFSET_PS.index * 256 + R.TIME_OFFSET_PS.sub % 256)
    (h2 : r.index * 256 + r.sub % 256 ≠ R.TIME_ALIGN_EXC.index * 256 + R.TIME_ALIGN_EXC.sub % 256) (i : Nat) :
    (noteOffset s port offset).rd r i = s.rd r i := by
  have hw : (s.wrI R.TIME_OFFSET_PS 0 (satSigned 32 (toPs offset))).rd r i = s.rd r i := rd_wr_ne _ _ h1
  rw [(noteOffset_alarm s port offset).rd r i h]
  dsimp only [offsetNoted]
  split
  · rw [rd_bumpSat_ne h2, hw]
  · exact hw

/-- The time unit with another account of the servo: the clock and the last Sync stand. -/
structure SameSync (s t : State) : Prop where
  identity : t.time.identity = s.time.identity
  syncNs : t.time.syncNs = s.time.syncNs
  clock : SameClock s t

theorem SameSync.of_time {t : State} (h : t.time = s.time) : SameSync s t := ⟨by rw [h], by rw [h], by rw [SameClock, h]; exact ⟨rfl, rfl⟩⟩

theorem SameSync.trans {t u : State} (h : SameSync s t) (h' : SameSync t u) : SameSync s u :=
  ⟨h'.identity.trans h.identity, h'.syncNs.trans h.syncNs, h.clock.trans h'.clock⟩

theorem SameSync.refl (s : State) : SameSync s s := .of_time rfl

theorem SameSync.ite {c : Prop} [Decidable c] {a b : State} (ha : SameSync s a) (hb : SameSync s b) :
    SameSync s (if c then a else b) := by split <;> assumption

theorem SameSync.modTime (f : TimeUnit → TimeUnit) (h1 : (f s.time).identity = s.time.identity)
    (h2 : (f s.time).syncNs = s.time.syncNs) (h3 : SameCounter s (f s.time)) : SameSync s (s.modTime f) := ⟨h1, h2, h3⟩

theorem timeHoldover_sync (s : State) (cause : Nat) : SameSync s (timeHoldover s cause) := by
  unfold timeHoldover
  refine .ite ?_ (.refl s)
  exact SameSync.trans (t := (((s.wr R.TIME_STATE 0 tsHoldover).wr R.TIME_HOLDOVER 0 1).modTime fun u =>
      { u with holdNs := s.now, good := 0, syncs := [], slewed := 0 })) ⟨rfl, rfl, rfl, rfl⟩ (.of_time (record_time ..))

theorem startAcquire_sync (s : State) (offset : Int) : SameSync s (startAcquire s offset) := by
  unfold startAcquire
  exact .ite (.trans (.of_time ((leaveHoldover_keeps' offset).time_eq (by decide))) ⟨rfl, rfl, rfl, rfl⟩) (.refl s)

theorem acquire_sync (s : State) (offset : Int) : SameSync s (acquire s offset) := by
  unfold acquire
  exact .ite (.ite ⟨rfl, rfl, rfl, rfl⟩ ⟨rfl, rfl, rfl, rfl⟩) (.refl s)

theorem servoFreq_sync (s : State) (rx offset : Int) : SameSync s (servoFreq s rx offset) := by
  unfold servoFreq
  dsimp only
  split
  · refine .ite (.modTime _ rfl rfl ⟨rfl, rfl⟩) (.trans (.of_time ?_) (.modTime _ rfl rfl ⟨rfl, rfl⟩))
    rfl
  · exact .refl s

theorem stepNs_time (s : State) (v : Int) : (stepNs s v).1.time = s.time := by
  by_cases h : s.stepPend + v < -(2 ^ 63) ∨ 2 ^ 63 ≤ s.stepPend + v
  · rw [stepNs_of_overflow h]
  · rw [not_or, not_lt, not_le] at h
    rw [stepNs_of_fits h.1 h.2]
    cases s.running with
    | false => rfl
    | true => exact (congrArg State.time (if_pos rfl)).trans (record_time ..)

theorem servo_sync (s : State) (rx offset : Int) : SameSync s (servo s rx offset) := by
  unfold servo
  refine .ite ?_ (.refl s)
  refine (servoFreq_sync s rx offset).trans (.ite (.of_time ?_) (.ite (.of_time ?_) (.refl _)))
  · exact stepNs_time ..
  · exact (servoSlew_keeps Sub.rfl (Keeps.refl _ _)).time_eq (by decide)

/-- A Sync counted, with the identity it came with. -/
def syncSeen (s : State) (port id : Nat) : State :=
  let s1 := (s.bumpSat R.TIME_SYNC_RX port 1).modTime fun u => { u with identity := some id, syncNs := s.now }
  match s.time.identity.filter fun i => i != id with
  | some i => s1.record 0x8006 uTime [(8, i), (8, id)]
  | none => s1

theorem syncSeen_time (s : State) (port id : Nat) :
    (syncSeen s port id).time = { s.time with identity := some id, syncNs := s.now } := by
  dsimp only [syncSeen]
  split
  · rw [record_time]
    rfl
  · rfl

theorem rd_syncSeen (s : State) (port id : Nat) (r : Reg) (i : Nat)
    (h : ([16, 0x7002].contains (regPlace r) || [16, 0x7002].contains 31) = false) :
    (syncSeen s port id).rd r i = (s.bumpSat R.TIME_SYNC_RX port 1).rd r i := by
  dsimp only [syncSeen]
  split
  · exact rd_record _ _ _ _ _ _ h
  · rfl

/-- Whether another identity than the last one's ends what a chip follows. -/
def strangeSync (s : State) (id : Nat) : Bool := (s.time.identity.filter fun i => i != id).isSome && s.follows

/-- A Sync acted on, by whether its identity is another. -/
theorem syncRx_eq (s : State) (port : Nat) (rx : Int) (bs : List Byte) : syncRx s port rx bs =
    (let u := syncSeen s port (ptpIdentity bs)
    let offset := syncOffsetOf s port rx bs
    if strangeSync s (ptpIdentity bs) = true then noteOffset (timeHoldover u 3) port offset
    else servo (acquire (noteOffset (startAcquire u offset) port offset) offset) rx offset) := by
  unfold strangeSync
  simp only [Bool.and_eq_true]
  rfl

/-- A Sync that leaves the identity and enters no holdover passes through the servo. -/
def syncPlain (u : State) (port : Nat) (rx offset : Int) : State :=
  servo (acquire (noteOffset (startAcquire u offset) port offset) offset) rx offset

theorem syncPlain_sync (u : State) (port : Nat) (rx offset : Int) : SameSync u (syncPlain u port rx offset) :=
  (startAcquire_sync u offset).trans ((SameSync.of_time (noteOffset_time ..)).trans ((acquire_sync ..).trans (servo_sync ..)))

theorem rd_acquire (s : State) (offset : Int) {r : Reg} (h : r.index * 256 + r.sub % 256 ≠ R.TIME_STATE.index * 256 + R.TIME_STATE.sub % 256)
    (i : Nat) : (acquire s offset).rd r i = s.rd r i := by
  unfold acquire
  dsimp only
  split
  · generalize (if decide ((offset.natAbs : Int) ≤ ofNs (s.rd R.TIME_ALIGN_NS 0 : Nat)) then s.time.good + 1 else 0) = n
    split
    · exact rd_wr_ne _ _ h
    · rfl
  · rfl

theorem rd_startAcquire (s : State) (offset : Int) {r : Reg} (h : ([16, 0x7002].contains (regPlace r) || [16, 0x7002].contains 31) = false)
    (h1 : r.index * 256 + r.sub % 256 ≠ R.TIME_STATE.index * 256 + R.TIME_STATE.sub % 256)
    (h2 : r.index * 256 + r.sub % 256 ≠ R.TIME_HOLDOVER.index * 256 + R.TIME_HOLDOVER.sub % 256) (i : Nat) :
    (startAcquire s offset).rd r i = s.rd r i := by
  unfold startAcquire leaveHoldover
  split
  · rw [show ∀ (t : State) (f : TimeUnit → TimeUnit), (t.modTime f).rd r i = t.rd r i from fun _ _ => rfl, rd_wr_ne _ _ h1]
    split
    · rw [rd_record _ _ _ _ _ _ h, rd_wr_ne _ _ h2]
    · rfl
  · rfl

theorem servo_way (s : State) (rx offset : Int) : Keeps [4, 16, 21, 0x5801, 0x7002] s (servo s rx offset) :=
  servo_keeps Sub.rfl (Keeps.refl _ s)

theorem servo_off {rx : Int} (h : s.rd R.TIME_SERVO 0 = 0) : servo s rx offset = s :=
  if_neg fun hc => by rw [h] at hc; exact absurd hc.1 (by decide)

/-! The states of the time tree as a Sync passes. -/

theorem rd_modTime (f : TimeUnit → TimeUnit) (r : Reg) (i : Nat) : (s.modTime f).rd r i = s.rd r i := rfl

/-- A chip that is free-running or in holdover begins Acquiring. -/
theorem startAcquire_free (h : s.rd R.TIME_STATE 0 = 0 ∨ s.rd R.TIME_STATE 0 = 3) :
    (startAcquire s offset).rd R.TIME_STATE 0 = 1 ∧ (startAcquire s offset).time.good = 0 := by
  rw [show startAcquire s offset = _ from if_pos h]
  refine ⟨?_, rfl⟩
  rw [rd_modTime, rd_wr_same]
  rfl

theorem startAcquire_other (h0 : s.rd R.TIME_STATE 0 ≠ 0) (h3 : s.rd R.TIME_STATE 0 ≠ 3) : startAcquire s offset = s :=
  if_neg fun h => h.elim h0 h3

/-- Sixteen Syncs in bound lock. -/
theorem acquire_state (h : s.rd R.TIME_STATE 0 = 1) :
    (acquire s offset).rd R.TIME_STATE 0 =
      if 16 ≤ (if (offset.natAbs : Int) ≤ ofNs (s.rd R.TIME_ALIGN_NS 0 : Nat) then s.time.good + 1 else 0) then 2 else 1 := by
  rw [show acquire s offset = _ from if_pos h]
  simp only [decide_eq_true_eq]
  generalize (if (offset.natAbs : Int) ≤ ofNs (s.rd R.TIME_ALIGN_NS 0 : Nat) then s.time.good + 1 else 0) = n
  split
  · exact rd_wr_same ..
  · exact h

theorem rd_syncSeen_other (port id : Nat) {r : Reg} (h : ([16, 0x7002].contains (regPlace r) || [16, 0x7002].contains 31) = false)
    (h1 : r.index * 256 + r.sub % 256 ≠ R.TIME_SYNC_RX.index * 256 + R.TIME_SYNC_RX.sub % 256) (i : Nat) :
    (syncSeen s port id).rd r i = s.rd r i := (rd_syncSeen s port id r i h).trans (rd_bumpSat_ne h1)

theorem syncSeen_count (port id : Nat) : Counted s (syncSeen s port id) R.TIME_SYNC_RX port 1 := by
  rw [Counted, rd_syncSeen _ _ _ _ _ (by decide), rd_bumpSat_same]

theorem rd_timeHoldover_other (cause : Nat) {r : Reg} (h : ([16, 0x7002].contains (regPlace r) || [16, 0x7002].contains 31) = false)
    (h1 : r.index * 256 + r.sub % 256 ≠ R.TIME_STATE.index * 256 + R.TIME_STATE.sub % 256)
    (h2 : r.index * 256 + r.sub % 256 ≠ R.TIME_HOLDOVER.index * 256 + R.TIME_HOLDOVER.sub % 256) (i : Nat) :
    (timeHoldover s cause).rd r i = s.rd r i := by
  unfold timeHoldover
  split
  · rw [rd_record _ _ _ _ _ _ h]
    rw [rd_modTime, rd_wr_ne _ _ h2, rd_wr_ne _ _ h1]
  · rfl

/-- A Sync that passes through the servo notes its offset and counts what exceeds the bound. -/
theorem syncPlain_offset (s : State) (port : Nat) (rx offset : Int) :
    (syncPlain s port rx offset).rdI R.TIME_OFFSET_PS 0 = satSigned 32 (toPs offset) ∧
      (ofNs (s.rd R.TIME_ALIGN_NS 0 : Nat) < offset.natAbs → Counted s (syncPlain s port rx offset) R.TIME_ALIGN_EXC 0 1) := by
  have hs (r : Reg) (h) (h1) (h2) := rd_startAcquire s offset (r := r) h h1 h2 0
  refine ⟨?_, fun hex => ?_⟩
  · rw [State.rdI, syncPlain, (servo_way ..).rd _ _ (by decide), rd_acquire _ _ (by decide), ← State.rdI, noteOffset_offset]
  · have hcount := noteOffset_exceeds (startAcquire s offset) port (offset := offset) (by rwa [hs _ (by decide) (by decide) (by decide)])
    rw [Counted, syncPlain, (servo_way ..).rd _ _ (by decide), rd_acquire _ _ (by decide), hcount, hs _ (by decide) (by decide) (by decide)]

theorem rd_syncPlain (port : Nat) (rx : Int) {r : Reg}
    (h : ([4, 13, 16, 21, 0x5801, 0x5804, 0x7002, 0x9000, 0x9001].contains (regPlace r) ||
      [4, 13, 16, 21, 0x5801, 0x5804, 0x7002, 0x9000, 0x9001].contains 31) = false) (i : Nat) :
    (syncPlain s port rx offset).rd r i = s.rd r i :=
  Keeps.rd (servo_keeps (.of rfl Sub.rfl) (acquire_keeps (.of rfl Sub.rfl) (noteOffset_keeps (.of rfl Sub.rfl)
    (startAcquire_keeps (.of rfl Sub.rfl) (Keeps.refl [4, 13, 16, 21, 0x5801, 0x5804, 0x7002, 0x9000, 0x9001] s))))) r i h

/-- Without the servo the increment stands. -/
theorem syncPlain_incr (port : Nat) (rx : Int) (h : s.rd R.TIME_SERVO 0 = 0) :
    (syncPlain s port rx offset).rd R.TIME_INCR 0 = s.rd R.TIME_INCR 0 := by
  have hk : Keeps [4, 13, 16, 0x5804, 0x7002, 0x9000, 0x9001] s
      (acquire (noteOffset (startAcquire s offset) port offset) offset) :=
    acquire_keeps (.of rfl Sub.rfl) (noteOffset_keeps (.of rfl Sub.rfl) (startAcquire_keeps (.of rfl Sub.rfl) (Keeps.refl _ s)))
  rw [syncPlain, servo_off (by rwa [hk.rd _ _ (by decide)]), hk.rd _ _ (by decide)]

/-- What the servo makes of a Sync leaves the state that acquiring gave. -/
theorem syncPlain_state (port : Nat) (rx : Int) : (syncPlain s port rx offset).rd R.TIME_STATE 0 =
    (acquire (noteOffset (startAcquire s offset) port offset) offset).rd R.TIME_STATE 0 := (servo_way ..).rd _ _ (by decide)

theorem syncPlain_free (port : Nat) (rx : Int) (h : s.rd R.TIME_STATE 0 = 0 ∨ s.rd R.TIME_STATE 0 = 3) :
    (syncPlain s port rx offset).rd R.TIME_STATE 0 = 1 := by
  obtain ⟨hst, hgood⟩ := startAcquire_free (offset := offset) h
  rw [syncPlain_state, acquire_state (by rwa [rd_noteOffset _ _ _ (by decide) (by decide) (by decide)]), noteOffset_time, hgood]
  refine if_neg ?_
  split <;> decide

theorem syncPlain_locks (port : Nat) (rx : Int) (h : s.rd R.TIME_STATE 0 = 1)
    (hin : (offset.natAbs : Int) ≤ ofNs (s.rd R.TIME_ALIGN_NS 0 : Nat)) :
    (syncPlain s port rx offset).rd R.TIME_STATE 0 = if 15 ≤ s.time.good then 2 else 1 := by
  have hsame : startAcquire s offset = s := startAcquire_other (by rw [h]; decide) (by rw [h]; decide)
  have hread (r : Reg) (h) (h1) (h2) := rd_noteOffset s port offset (r := r) h h1 h2 0
  rw [syncPlain_state, hsame, acquire_state (by rwa [hread _ (by decide) (by decide) (by decide)]),
    hread _ (by decide) (by decide) (by decide), if_pos hin, noteOffset_time]
  exact if_congr (by omega) rfl rfl

end

/-- A Sync of another identity than the one followed: holdover, and its offset noted. -/
theorem syncRx_strange {s : State} {port : Nat} {rx : Int} {bs : List Byte} (h : strangeSync s (ptpIdentity bs) = true) :
    syncRx s port rx bs =
      noteOffset (timeHoldover (syncSeen s port (ptpIdentity bs)) 3) port (syncOffsetOf s port rx bs) := by
  rw [syncRx_eq]
  exact if_pos h

theorem syncRx_plain {s : State} {port : Nat} {rx : Int} {bs : List Byte} (h : strangeSync s (ptpIdentity bs) = false) :
    syncRx s port rx bs = syncPlain (syncSeen s port (ptpIdentity bs)) port rx (syncOffsetOf s port rx bs) := by
  rw [syncRx_eq]
  exact if_neg (by rw [h]; decide)

section
variable {s : State} {port : Nat} {rx : Int} {bs : List Byte}

theorem syncSeen_sync (s : State) (port id : Nat) : (syncSeen s port id).time.identity = some id ∧
    (syncSeen s port id).time.syncNs = s.now ∧ SameClock s (syncSeen s port id) := by
  rw [SameClock, syncSeen_time]
  exact ⟨rfl, rfl, rfl, rfl⟩

/-- What a Sync of the master port leaves, whatever its identity. -/
theorem syncRx_takes (s : State) (port : Nat) (rx : Int) (bs : List Byte) :
    Counted s (syncRx s port rx bs) R.TIME_SYNC_RX port 1 ∧ (syncRx s port rx bs).time.identity = some (ptpIdentity bs) ∧
      (syncRx s port rx bs).rdI R.TIME_OFFSET_PS 0 = satSigned 32 (toPs (syncOffsetOf s port rx bs)) ∧
      (syncRx s port rx bs).now = s.now ∧ (syncRx s port rx bs).time.syncNs = s.now ∧
      (ofNs (s.rd R.TIME_ALIGN_NS 0 : Nat) < (syncOffsetOf s port rx bs).natAbs →
        Counted s (syncRx s port rx bs) R.TIME_ALIGN_EXC 0 1) := by
  obtain ⟨hid, hns, hclock⟩ := syncSeen_sync s port (ptpIdentity bs)
  have hcount := syncSeen_count (s := s) port (ptpIdentity bs)
  have hseen (r : Reg) (h) (h1) := rd_syncSeen_other (s := s) port (ptpIdentity bs) (r := r) h h1 0
  generalize hoff : syncOffsetOf s port rx bs = offset
  cases hstr : strangeSync s (ptpIdentity bs) with
  | true =>
    rw [syncRx_strange hstr, hoff]
    have hsync := (timeHoldover_sync (syncSeen s port (ptpIdentity bs)) 3).trans
      (.of_time (noteOffset_time _ port offset))
    have hhold (r : Reg) (h) (h1) (h2) (i : Nat) := rd_timeHoldover_other (s := syncSeen s port (ptpIdentity bs)) 3 (r := r) h h1 h2 i
    refine ⟨?_, hsync.identity.trans hid, noteOffset_offset .., hsync.clock.now.trans hclock.now, hsync.syncNs.trans hns, fun hex => ?_⟩
    · rw [Counted, rd_noteOffset _ _ _ (by decide) (by decide) (by decide), hhold _ (by decide) (by decide) (by decide), hcount]
    · have hx := noteOffset_exceeds (timeHoldover (syncSeen s port (ptpIdentity bs)) 3) port (offset := offset)
        (by rwa [hhold _ (by decide) (by decide) (by decide), hseen _ (by decide) (by decide)])
      rw [Counted, hx, hhold _ (by decide) (by decide) (by decide), hseen _ (by decide) (by decide)]
  | false =>
    rw [syncRx_plain hstr, hoff]
    have hsync := syncPlain_sync (syncSeen s port (ptpIdentity bs)) port rx offset
    obtain ⟨hps, hx⟩ := syncPlain_offset (syncSeen s port (ptpIdentity bs)) port rx offset
    refine ⟨?_, hsync.identity.trans hid, hps, hsync.clock.now.trans hclock.now, hsync.syncNs.trans hns, fun hex => ?_⟩
    · rw [Counted, rd_syncPlain _ _ (by decide), hcount]
    · rw [Counted, hx (by rwa [hseen _ (by decide) (by decide)]), hseen _ (by decide) (by decide)]

theorem syncRx_incr (h : s.rd R.TIME_SERVO 0 = 0) : (syncRx s port rx bs).rd R.TIME_INCR 0 = s.rd R.TIME_INCR 0 := by
  cases hstr : strangeSync s (ptpIdentity bs) with
  | true =>
    rw [syncRx_strange hstr, rd_noteOffset _ _ _ (by decide) (by decide) (by decide),
      rd_timeHoldover_other _ (by decide) (by decide) (by decide), rd_syncSeen_other _ _ (by decide) (by decide)]
  | false =>
    rw [syncRx_plain hstr, syncPlain_incr _ _ (by rwa [rd_syncSeen_other _ _ (by decide) (by decide)]),
      rd_syncSeen_other _ _ (by decide) (by decide)]

theorem syncSeen_state (id : Nat) : (syncSeen s port id).rd R.TIME_STATE 0 = s.rd R.TIME_STATE 0 :=
  rd_syncSeen_other _ _ (by decide) (by decide) 0

theorem syncRx_free (h : s.rd R.TIME_STATE 0 = 0 ∨ s.rd R.TIME_STATE 0 = 3) : (syncRx s port rx bs).rd R.TIME_STATE 0 = 1 := by
  have hf : s.follows = false := by
    unfold State.follows
    rcases h with h | h <;> rw [h] <;> rfl
  rw [syncRx_plain (by rw [strangeSync, hf, Bool.and_false])]
  exact syncPlain_free _ _ (by rwa [syncSeen_state])

theorem syncRx_locks (hid : ∀ i, s.time.identity = some i → i = ptpIdentity bs) (h : s.rd R.TIME_STATE 0 = 1)
    (hin : ((syncOffsetOf s port rx bs).natAbs : Int) ≤ ofNs (s.rd R.TIME_ALIGN_NS 0 : Nat)) :
    (syncRx s port rx bs).rd R.TIME_STATE 0 = if 15 ≤ s.time.good then 2 else 1 := by
  have hsame : (s.time.identity.filter fun i => i != ptpIdentity bs) = none := by
    cases hi : s.time.identity with
    | none => rfl
    | some i => simp [hid i hi]
  rw [syncRx_plain (by rw [strangeSync, hsame]; rfl), syncPlain_locks _ _ (by rwa [syncSeen_state])
    (by rwa [rd_syncSeen_other _ _ (by decide) (by decide)]), syncSeen_time]

theorem syncRx_leaves {i : Nat} (hid : s.time.identity = some i) (hne : i ≠ ptpIdentity bs) (hf : s.follows = true) :
    (syncRx s port rx bs).rd R.TIME_STATE 0 = 3 := by
  have hstr : strangeSync s (ptpIdentity bs) = true := by simp [strangeSync, hid, hne, hf]
  rw [syncRx_strange hstr, rd_noteOffset _ _ _ (by decide) (by decide) (by decide)]
  refine (timeHoldover_spec 3 ?_).1
  rwa [State.follows, syncSeen_state]

end

/-- Settles O46: sending by the ports in their order, a departure by the type of its message, an arrival by what it answers,
and a Sync by whether its identity is the one followed. -/
theorem timeMessages : Obligations.TimeMessages := by
  intro s vc4 message drops
  have hmsg {p type seq : Nat} {c : Int} {q : QPacket} (h : IsTimeMsg (s.beyond p) q p type seq c) : message q p type seq c :=
    ⟨h.vc, h.kind, h.loc, h.len, h.dst, h.ok, h.type, h.seq, h.correction, h.identity⟩
  refine ⟨fun hseq => ⟨?_, ?_⟩, fun port payload bs hp hlen => ?_, fun m => ?_⟩
  · have hsends := each_timeSends sendSync_sends ((upPorts_nodup s).filter fun p => p != s.rd R.TIME_MASTER_PORT 0) s
      (fun p hp => mem_upPorts (List.mem_filter.1 hp).1) hseq
    refine ⟨_, rfl, hsends.outbox, hsends.now, fun p hp => (hsends.others p hp).1, fun k hk => ?_⟩
    obtain ⟨q, hq, hm⟩ := hsends.queued k hk
    exact ⟨q, hq, hmsg hm⟩
  · have hsends := each_timeSends sendPdelay_sends (upPorts_nodup s) s (fun p hp => mem_upPorts hp) hseq
    refine ⟨_, rfl, hsends.outbox, fun k hk => ?_⟩
    obtain ⟨q, hq, hm⟩ := hsends.queued k hk
    exact ⟨⟨q, hq, hmsg hm⟩, hsends.delay k hk⟩
  · obtain ⟨hhead, htail⟩ := stampOut_parts (s := s) (port := port) hp hlen
    intro dep out
    have hout : out = stampMsg dep bs := htail
    rw [hout]
    refine ⟨hhead, length_stampMsg hlen, fun h => stampMsg_sync_fields h hlen, fun h => stampMsg_resp_correction h hlen, fun h =>
      ⟨stampMsg_other (by rw [h]; decide) (by rw [h]; decide), noteDeparture_req hp h⟩⟩
  · intro ok rx answers
    refine ⟨fun hn => ?_, fun hok ht => ?_, fun hn => ?_, fun hok ht ha t1 h1 => ?_, fun hn => ?_, fun hv => ?_⟩
    · refine ⟨_, congrArg Host.Outcome.next ?_, dropTime_drops s m.port⟩
      by_cases ht : ptpType m.bytes = 2
      · exact (if_pos ht).trans (timeRx_bad fun hok => hn ⟨hok, ht⟩)
      · exact if_neg ht
    · obtain ⟨q, hq, hm, hid⟩ := pdelayReqRx_answers hok ht (rxStamp m.port m.capture)
      refine ⟨_, congrArg Host.Outcome.next ((if_pos ht).trans (timeRx_req hok ht)), ?_, ?_, q, hq, hmsg hm, hid⟩ <;>
        rw [pdelayReqRx, sendTime_up hok.2] <;> rfl
    · refine ⟨_, congrArg Host.Outcome.next ?_, dropTime_drops s m.port⟩
      by_cases ht : ptpType m.bytes = 3
      · refine (if_pos ht).trans ?_
        by_cases hok : ptpOk m.bytes = true ∧ s.portUp m.port = true
        · exact (timeRx_resp hok ht).trans (pdelayRespRx_drops fun ha => hn ⟨hok, ht, ha.1, ha.2⟩)
        · exact timeRx_bad hok
      · exact if_neg ht
    · refine ⟨_, congrArg Host.Outcome.next ((if_pos ht).trans ((timeRx_resp hok ht).trans (pdelayRespRx_takes h1 ha))), ?_, fun hm => ?_⟩
      · exact mapGet_mapPut_same ..
      · exact pathPs_master hm
    · refine ⟨_, congrArg Host.Outcome.next ?_, dropTime_drops s m.port⟩
      by_cases ht : ptpType m.bytes = 0
      · refine (if_pos ht).trans ?_
        by_cases hok : ptpOk m.bytes = true ∧ s.portUp m.port = true
        · exact (timeRx_sync hok ht).trans (if_neg fun hp => hn ⟨hok, ht, hp⟩)
        · exact timeRx_bad hok
      · exact if_neg ht
    · obtain ⟨hok, ht, hp⟩ := hv
      obtain ⟨hcount, hid, hps, hnow, hns, hex⟩ := syncRx_takes s m.port rx m.bytes
      exact ⟨_, congrArg Host.Outcome.next ((if_pos ht).trans ((timeRx_sync hok ht).trans (if_pos hp))), hcount, hid, hps, hnow, hns, hex,
        syncRx_incr, syncRx_free, syncRx_locks, fun i hi hne hf => syncRx_leaves hi hne hf⟩

end Sys2Proof.Machine
end

section
/-! Heartbeats, misses, probes, rejects and fault notices (R272 to R280, R291). -/

namespace Sys2Proof.Machine

open Sys2Proof

/-! ### One message on each of several ports (R271, R272, R279) -/

theorem Keeps.beyond_eq {T : List Nat} {s t : State} (h : Keeps T s t) (hT : TreeFree T) (k : Nat) : t.beyond k = s.beyond k := by
  obtain ⟨hx, hy, hz⟩ := h.torus_eq hT
  simp only [State.beyond, beyondOf, h.me_eq hT, hx, hy, hz]

theorem each_clvLocal {g : State → ClvHdr} {hd : ClvHdr} (b : ClvBody) (l : List Nat) (s : State)
    (hg : ∀ t, Keeps sendPlaces s t → g t = hd) :
    (s.each l fun t k => clvLocal t k (g t) b).outbox = s.outbox ++ l.map (fun k => .clover (some k) (s.beyond k) hd b) ∧
      Keeps sendPlaces s (s.each l fun t k => clvLocal t k (g t) b) := by
  induction l generalizing s with
  | nil => exact ⟨(List.append_nil _).symm, .refl _ s⟩
  | cons k rest ih =>
    have hk := clvLocal_way s k (g s) b
    obtain ⟨hout, hkeep⟩ := ih (clvLocal s k (g s) b) fun t ht => hg t (hk.trans ht)
    refine ⟨hout.trans ?_, hk.trans hkeep⟩
    rw [show (clvLocal s k (g s) b).beyond = s.beyond from funext (hk.beyond_eq treeFree_sendPlaces), clvLocal_outbox, hg s (.refl _ s),
      List.map_cons, List.append_assoc]
    rfl

/-! ### Heartbeats (R272, R273, R280) -/

section
variable {s : State} {port : Nat} {h : ClvHdr} {b : Heartbeat}

theorem not_failed_find (hf : s.isFailed h.sender = false) : (s.clover.failed.find? fun e => e.1 == h.sender) = none := by
  rw [List.find?_eq_none]
  exact fun e he => by simpa using (List.any_eq_false.1 hf) e he

theorem streamValue_way (s : State) (ch lane v : Nat) : Keeps [12, 16, 17, 20, 0x7002, 0x7100] s (streamValue s ch lane v) :=
  streamValue_keeps Sub.rfl (Keeps.refl _ s)

/-- What a neighbour's heartbeat leaves where it is taken. -/
structure Heard (s : State) (port : Nat) (h : ClvHdr) (b : Heartbeat) (t : State) : Prop where
  state : t.rd R.CLV_NBR_STATE port = 1
  chip : t.rd R.CLV_NBR_CHIP port = h.sender
  alive : t.rd R.CLV_NBR_ALIVE port = b.alive
  watched : (t.nbr port).watched = true
  last : (t.nbr port).lastNs = s.now
  boot : (t.nbr port).boot = b.boot

theorem nbrAlive_heard (hs : h.sender < 2 ^ 32) (ha : b.alive < 2 ^ 32) : Heard s port h b (nbrAlive s port h b) := by
  have hnbr : (nbrAlive s port h b).nbr port = 
      { watched := true, boot := b.boot, nbrUp := b.nbrUp % 64, arbA := b.arbA, arbB := b.arbB, step := b.step, lastNs := s.now } := mapGet_mapPut_same ..
  have hrd (r : Reg) : (nbrAlive s port h b).rd r port =
      (((s.wr R.CLV_NBR_STATE port nAlive).wr R.CLV_NBR_CHIP port h.sender).wr R.CLV_NBR_ALIVE port b.alive).rd r port := rfl
  refine ⟨?_, ?_, ?_, by rw [hnbr], by rw [hnbr], by rw [hnbr]⟩
  · rw [hrd, rd_wr_ne _ _ (by decide), rd_wr_ne _ _ (by decide), rd_wr_same]
    rfl
  · rw [hrd, rd_wr_ne _ _ (by decide), rd_wr_same]
    exact Nat.mod_eq_of_lt hs
  · rw [hrd, rd_wr_same]
    exact Nat.mod_eq_of_lt ha

theorem rd_nbrAlive_other {r : Reg} (h1 : r.index * 256 + r.sub % 256 ≠ R.CLV_NBR_STATE.index * 256 + R.CLV_NBR_STATE.sub % 256)
    (h2 : r.index * 256 + r.sub % 256 ≠ R.CLV_NBR_CHIP.index * 256 + R.CLV_NBR_CHIP.sub % 256)
    (h3 : r.index * 256 + r.sub % 256 ≠ R.CLV_NBR_ALIVE.index * 256 + R.CLV_NBR_ALIVE.sub % 256) (i : Nat) :
    (nbrAlive s port h b).rd r i = s.rd r i :=
  (rd_wr_ne _ _ h3).trans ((rd_wr_ne _ _ h2).trans (rd_wr_ne _ _ h1))

/-- How much further the counter of a heartbeat is than the last one's. -/
def aliveAhead (s : State) (port : Nat) (b : Heartbeat) : Nat := (b.alive + (2 ^ 32 - s.rd R.CLV_NBR_ALIVE port)) % 2 ^ 32

/-- What a heartbeat does once its sender is readmitted and its value is in the lane. -/
def heartbeatTake (s t : State) (port : Nat) (h : ClvHdr) (b : Heartbeat) : State :=
  if (s.nbr port).watched = false then nbrAlive t port h b
  else if 1 ≤ aliveAhead s port b ∧ aliveAhead s port b < 2 ^ 31 then
    nbrAlive (if aliveAhead s port b = 1 then t else t.bumpSat R.CLV_NBR_GAPS port 1) port h b
  else t.bumpSat R.CLV_NBR_REPEAT port 1

theorem heartbeatRx_known (hup : s.portUp port = true) (hf : s.isFailed h.sender = false) :
    heartbeatRx s port h b = heartbeatTake s (streamValue s (s.rd R.CLV_TALLY_CH 0) port b.alive) port h b := by
  unfold heartbeatRx
  simp only [not_failed_find hf, hup, Bool.true_eq_false, Bool.false_eq_true, or_self, if_false, Option.isSome_none]
  rfl

theorem heartbeatRx_failed {boot : Nat} (hup : s.portUp port = true)
    (hf : (s.clover.failed.find? fun e => e.1 == h.sender) = some (h.sender, boot)) :
    heartbeatRx s port h b = if boot = b.boot then s else
      heartbeatTake s (streamValue (readmit s h.sender b.boot) ((readmit s h.sender b.boot).rd R.CLV_TALLY_CH 0) port b.alive) port h b := by
  unfold heartbeatRx
  simp only [hf, hup, Bool.true_eq_false, false_or, beq_iff_eq, Option.isSome_some, if_true]
  rfl

theorem heartbeatTake_clover (t : State) : (heartbeatTake s t port h b).clover.failed = t.clover.failed := by
  unfold heartbeatTake
  split
  · rfl
  · split
    · split <;> rfl
    · rfl

/-- A failed chip readmitted is no longer failed. -/
theorem readmit_failed (s : State) (chip boot : Nat) : (readmit s chip boot).clover.failed = s.clover.failed.filter fun e => e.1 != chip := by
  have hback (t : State) : (stewardBack t chip).clover.failed = t.clover.failed := by
    unfold stewardBack
    split
    · split <;> rfl
    · rfl
  rw [readmit, hback, (keeps_record ..).clover_eq rfl]
  rfl

theorem heartbeatTake_heard {t : State} (hs : h.sender < 2 ^ 32) (ha : b.alive < 2 ^ 32) (hnow : t.now = s.now)
    (hd : (s.nbr port).watched = false ∨ aliveAhead s port b = 1) : Heard s port h b (heartbeatTake s t port h b) := by
  have hheard : Heard s port h b (nbrAlive t port h b) := by
    have h0 := nbrAlive_heard (s := t) (port := port) hs ha
    exact ⟨h0.state, h0.chip, h0.alive, h0.watched, h0.last.trans hnow, h0.boot⟩
  unfold heartbeatTake
  split
  · exact hheard
  · next hw =>
    have h1 := hd.resolve_left hw
    rw [h1, if_pos (by decide), if_pos rfl]
    exact hheard

theorem heartbeatTake_gap {t : State} (hs : h.sender < 2 ^ 32) (ha : b.alive < 2 ^ 32) (hnow : t.now = s.now)
    (hg : t.rd R.CLV_NBR_GAPS port = s.rd R.CLV_NBR_GAPS port) (hw : (s.nbr port).watched = true)
    (h1 : 1 < aliveAhead s port b) (h2 : aliveAhead s port b < 2 ^ 31) :
    Heard s port h b (heartbeatTake s t port h b) ∧ Counted s (heartbeatTake s t port h b) R.CLV_NBR_GAPS port 1 := by
  have heq : heartbeatTake s t port h b = nbrAlive (t.bumpSat R.CLV_NBR_GAPS port 1) port h b := by
    unfold heartbeatTake
    rw [if_neg (by rw [hw]; decide), if_pos ⟨by omega, h2⟩, if_neg (by omega)]
  rw [heq]
  have h0 := nbrAlive_heard (s := t.bumpSat R.CLV_NBR_GAPS port 1) (port := port) hs ha
  refine ⟨⟨h0.state, h0.chip, h0.alive, h0.watched, h0.last.trans hnow, h0.boot⟩, ?_⟩
  rw [Counted, rd_nbrAlive_other (by decide) (by decide) (by decide), rd_bumpSat_same, hg]

theorem heartbeatTake_repeat {t : State} (hw : (s.nbr port).watched = true) (hd : aliveAhead s port b = 0 ∨ 2 ^ 31 ≤ aliveAhead s port b) :
    heartbeatTake s t port h b = t.bumpSat R.CLV_NBR_REPEAT port 1 := by
  unfold heartbeatTake
  rw [if_neg (by rw [hw]; decide), if_neg (by omega)]

end

/-! ### A neighbour that is missed, and its reports (R273, R275, R277) -/

section
variable {s : State} {port k : Nat}

theorem nbr_modNbr (f : Neighbour → Neighbour) : (modNbr s port f).nbr port = f (s.nbr port) := mapGet_mapPut_same ..

theorem reportTo_none (r : Report) : reportTo s 0xFFFFFFFF r = s := if_pos rfl

theorem reportTo_other {arb : Nat} (r : Report) (h : arb ≠ 0xFFFFFFFF) (hme : arb ≠ s.me) :
    reportTo s arb r = clvSend s 0xFF arb (.report r) := (if_neg h).trans (if_neg hme)

/-- A report to other chips changes the router and the outbox alone. -/
theorem reportTo_way {arb : Nat} (r : Report) (hme : arb ≠ s.me) : Keeps sendPlaces s (reportTo s arb r) := by
  by_cases h : arb = 0xFFFFFFFF
  · rw [h, reportTo_none]
    exact .refl _ s
  · rw [reportTo_other r h hme]
    exact clvSend_way ..

theorem reportTo_outbox {arb : Nat} (r : Report) (hme : arb ≠ s.me) : (reportTo s arb r).outbox =
    s.outbox ++ if arb = 0xFFFFFFFF then [] else [.clover none arb (clvHdr s 0xFF) (.report r)] := by
  by_cases h : arb = 0xFFFFFFFF
  · rw [h, reportTo_none, if_pos rfl, List.append_nil]
  · rw [reportTo_other r h hme, if_neg h]
    exact clvEmit_outbox ..

theorem nbrMiss_early (h : ¬ ((s.nbr port).watched = true ∧ s.rd R.CLV_NBR_STATE port = 1 ∧
    (s.nbr port).lastNs + (1000 * (s.rd R.CLV_HB_MISS 0 * s.rd R.CLV_HB_US 0) : Nat) ≤ s.now)) : nbrMiss s port = s := by
  refine if_pos ?_
  by_contra hn
  simp only [not_or, Bool.not_eq_false, ne_eq, not_not, Int.not_lt] at hn
  exact h hn

/-- A neighbour noted as reported. -/
def missNoted (s : State) (port : Nat) : State :=
  let r := missReport s port
  modNbr ((s.wr R.CLV_NBR_STATE port nReported).record 0xB001 uFcc [(1, port), (4, r.subject), (4, r.alive)]) port fun n =>
    { n with reportNs := s.now, resent := false }

theorem nbrMiss_due (h : (s.nbr port).watched = true ∧ s.rd R.CLV_NBR_STATE port = 1 ∧
      (s.nbr port).lastNs + (1000 * (s.rd R.CLV_HB_MISS 0 * s.rd R.CLV_HB_US 0) : Nat) ≤ s.now)
    (ha : (s.nbr port).arbA ≠ 0xFFFFFFFF) (hf : s.isFailed (s.nbr port).arbA = false) :
    nbrMiss s port = reportTo (reportTo (missNoted s port) (s.nbr port).arbA (missReport s port)) (s.nbr port).arbB (missReport s port) := by
  obtain ⟨hw, hst, hdue⟩ := h
  have hnow : ¬ s.now < (s.nbr port).lastNs + (1000 * (s.rd R.CLV_HB_MISS 0 * s.rd R.CLV_HB_US 0) : Nat) := by omega
  unfold nbrMiss
  simp only [hw, hst, hnow, ha, hf, nAlive, Bool.true_eq_false, Bool.false_eq_true, ne_eq, not_true_eq_false, or_self, false_and, if_false,
    decide_false]
  rfl

theorem missNoted_way (s : State) (port : Nat) : Keeps [13, 16, 0x6201, 0x7002] s (missNoted s port) := by
  dsimp only [missNoted, modNbr]
  exact modClover_keeps (.of rfl Sub.rfl) (record_keeps (.of rfl Sub.rfl) (wr_keeps (.of rfl Sub.rfl) (Keeps.refl _ s)))

theorem treeFree_noted : TreeFree [13, 16, 0x6201, 0x7002] := by unfold TreeFree; decide

theorem missNoted_spec (s : State) (port : Nat) : (missNoted s port).rd R.CLV_NBR_STATE port = 3 ∧
    ((missNoted s port).nbr port).reportNs = s.now := by
  refine ⟨?_, ?_⟩
  · have h := rd_record (s.wr R.CLV_NBR_STATE port nReported) 0xB001 uFcc
      [(1, port), (4, (missReport s port).subject), (4, (missReport s port).alive)] R.CLV_NBR_STATE port (by decide)
    exact h.trans (rd_wr_same ..)
  · dsimp only [missNoted]
    rw [nbr_modNbr]

/-- The substitute arbiter is told once (R277). -/
theorem arbWait_early {subject : Nat} (hk : nbrPort s subject = some k)
    (h : ¬ (s.rd R.CLV_NBR_STATE k = 3 ∧ (s.nbr k).resent = false ∧ (s.isFailed (s.nbr k).arbA = true ∨
      (s.nbr k).reportNs + (1000 * s.rd R.CLV_ARB_WAIT_US 0 : Nat) ≤ s.now))) : arbWait s subject = s := by
  unfold arbWait
  rw [hk]
  refine if_pos ?_
  by_contra hn
  simp only [not_or, Bool.not_eq_true, ne_eq, not_not, not_and, Int.not_lt] at hn
  refine h ⟨hn.1, hn.2.1, ?_⟩
  cases hf : s.isFailed (s.nbr k).arbA with
  | true => exact .inl rfl
  | false => exact .inr (hn.2.2 hf)

theorem arbWait_due {subject : Nat} (hk : nbrPort s subject = some k)
    (h : s.rd R.CLV_NBR_STATE k = 3 ∧ (s.nbr k).resent = false ∧ (s.isFailed (s.nbr k).arbA = true ∨
      (s.nbr k).reportNs + (1000 * s.rd R.CLV_ARB_WAIT_US 0 : Nat) ≤ s.now)) :
    arbWait s subject = reportTo (modNbr s k fun n => { n with resent := true }) (substituteArb s) (missReport s k) := by
  obtain ⟨hst, hre, hdue⟩ := h
  unfold arbWait
  rw [hk]
  refine if_neg ?_
  simp only [hst, hre, nReported, ne_eq, not_true_eq_false, Bool.false_eq_true, false_or, not_and, Int.not_lt]
  intro hf
  rw [hf] at hdue
  simpa using hdue

end

/-! ### The arbiter's inquiries (R275, R276) -/

section
variable {s : State} {subject : Nat}

theorem clvRx_own {h : ClvHdr} (hf : s.isFailed h.sender = false) (hr : h.srole = 0) (f : State → State) : clvRx s h f = f s := by
  unfold clvRx sseqRx
  simp only [hf, hr, Bool.false_eq_true, if_false, ne_eq, show ¬ (0 = 1) by decide, show ¬ (0 = 2) by decide, not_false_eq_true, and_self,
    if_true]

theorem inquiry_modInq (f : Inquiry → Inquiry) : mapFind (modInq s subject f).clover.inquiries subject = some (f (s.inquiry subject)) :=
  mapFind_mapPut_same ..

theorem inquiry_eq (t : State) : t.inquiry subject = (mapFind t.clover.inquiries subject).getD {} := mapGet_eq_find ..

theorem inquiry_of_find {q : Inquiry} (h : mapFind s.clover.inquiries subject = some q) : s.inquiry subject = q := by
  rw [inquiry_eq, h]
  rfl

theorem inquiry_of_none (h : mapFind s.clover.inquiries subject = none) : s.inquiry subject = {} := by
  rw [inquiry_eq, h]
  rfl

/-- A probe sent: its instant is kept with the inquiry. -/
theorem sendProbe_spec {q : Inquiry} (hq : mapFind s.clover.inquiries subject = some q) (hm : stwMay s = true) (n : Nat) :
    (sendProbe s subject n).outbox = s.outbox ++ [.probe subject n] ∧
      mapFind (sendProbe s subject n).clover.inquiries subject = some { q with probeNs := s.now } := by
  have heq : sendProbe s subject n = (modInq s subject fun q => { q with probeNs := s.now }).emit (.probe subject n) := if_pos hm
  rw [heq]
  refine ⟨rfl, ?_⟩
  rw [show ∀ (t : State) o, (t.emit o).clover = t.clover from fun _ _ => rfl, inquiry_modInq, inquiry_of_find hq]

/-- An inquiry whose probe has not failed is not decided by the arbiter by position. -/
theorem tryDecide_open {q : Inquiry} (hq : mapFind s.clover.inquiries subject = some q) (hs : q.substitute = false) (hf : q.failed = false) :
    tryDecide s subject = s := by
  unfold tryDecide
  simp only [inquiry_of_find hq, hs, hf, Bool.false_eq_true, false_and, if_false, ite_self]

/-- Nor is one without reporters. -/
theorem tryDecide_alone {q : Inquiry} (hq : mapFind s.clover.inquiries subject = some q) (hs : q.substitute = false)
    (hr : q.reporters = []) : tryDecide s subject = s := by
  have hneed : ¬ (match liveOf s subject with | some k => if k < 2 then 1 else 2 | none => 2) ≤ 0 := by
    cases liveOf s subject with
    | none => decide
    | some k =>
      dsimp only
      split <;> decide
  unfold tryDecide
  simp only [inquiry_of_find hq, hs, hr, Bool.false_eq_true, if_false, List.filter_nil, List.length_nil]
  split
  · rfl
  · exact if_neg fun hc => hneed hc.2

/-- The first report of a subject starts its probe (R275). -/
theorem reportRx_first {sender : Nat} {r : Report} (hf : s.isFailed sender = false) (hs : s.isFailed r.subject = false)
    (hm : arbiterOf s r.subject = true) (hq : mapFind s.clover.inquiries r.subject = none) (hmay : stwMay s = true) (hc : r.cause ≤ 2) :
    (reportRx s sender r).outbox = s.outbox ++ [.probe r.subject 1] ∧
      mapFind (reportRx s sender r).clover.inquiries r.subject =
        some { reporters := [sender], sinceNs := s.now, tries := 1, probeNs := s.now } := by
  have hopen : mapFind (modInq s r.subject fun q => { q with
      reporters := addNew q.reporters sender, sinceNs := s.now, substitute := false, tries := 1 }).clover.inquiries r.subject =
      some { reporters := [sender], sinceNs := s.now, tries := 1 } := by
    rw [inquiry_modInq, inquiry_of_none hq]
    rfl
  obtain ⟨hout, hfind⟩ := sendProbe_spec hopen hmay 1
  have heq : reportRx s sender r = tryDecide (sendProbe (modInq s r.subject fun q => { q with
      reporters := addNew q.reporters sender, sinceNs := s.now, substitute := false, tries := 1 }) r.subject 1) r.subject := by
    unfold reportRx
    simp only [hf, hs, hm, hq, Bool.false_eq_true, Bool.true_eq_false, false_and, or_self, if_false, Option.isNone_none, if_true, and_self,
      Bool.not_true, show ¬ (r.cause = 3 ∨ r.cause = 4) by omega]
  rw [heq, tryDecide_open hfind rfl rfl]
  exact ⟨hout, hfind⟩

theorem probeAgain_tries {q : Inquiry} (hq : mapFind s.clover.inquiries subject = some q) (hf : q.failed = false)
    (hs : q.substitute = false) (ht : q.tries < s.rd R.CLV_PROBE_TRIES 0) : probeAgain s subject =
      sendProbe (modInq s subject fun q => { q with tries := q.tries + 1 }) subject (q.tries + 1) := by
  unfold probeAgain
  simp only [hq, hf, hs, ht, Bool.false_eq_true, or_self, if_false, if_true]

theorem probeAgain_fails {q : Inquiry} (hq : mapFind s.clover.inquiries subject = some q) (hf : q.failed = false)
    (hs : q.substitute = false) (ht : s.rd R.CLV_PROBE_TRIES 0 ≤ q.tries) : probeAgain s subject = probeFailed s subject 1 := by
  unfold probeAgain
  simp only [hq, hf, hs, Nat.not_lt.2 ht, Bool.false_eq_true, or_self, if_false]

theorem probeAgain_none (hq : mapFind s.clover.inquiries subject = none) : probeAgain s subject = s := by
  unfold probeAgain
  rw [hq]

theorem probeTimeout_eq {q : Inquiry} (hq : mapFind s.clover.inquiries subject = some q) : exec (.probeTimeout subject) s =
    .next (if s.now < q.probeNs + (1000 * s.rd R.CLV_PROBE_US 0 : Nat) then s else probeAgain s subject) := by
  rw [← inquiry_of_find hq]
  rfl

/-! A live answer. -/

theorem stwNext_way (s : State) : Keeps [0x6210] s (stwNext s) := stwNext_keeps Sub.rfl (Keeps.refl _ s)

def rejectPlaces : List Nat := 0x6201 :: 0x6210 :: sendPlaces

/-- One reporter told that its neighbour is alive. -/
def tellAlive (subject status : Nat) (t : State) (r : Nat) : State :=
  if r = t.me then rejectRx t subject else stwSend t r (.reject subject status)

theorem stwSend_way (t : State) (dst : Nat) (b : ClvBody) : Keeps rejectPlaces t (stwSend t dst b) := by
  unfold stwSend
  exact .ite (((clvEmit_way ..).mono (.of rfl Sub.rfl)).trans ((stwNext_way _).mono (.of rfl Sub.rfl))) (.refl _ t)

theorem tellAlive_way (subject status : Nat) (t : State) (r : Nat) : Keeps rejectPlaces t (tellAlive subject status t r) :=
  .ite (rejectRx_keeps (.of rfl Sub.rfl) (Keeps.refl _ t)) (stwSend_way ..)

theorem rd_stwNext_other (t : State) {r : Reg} (h : r.index * 256 + r.sub % 256 ≠ R.CLV_STW_SEQ.index * 256 + R.CLV_STW_SEQ.sub % 256) :
    (stwNext t).rd r 0 = t.rd r 0 := by
  unfold stwNext
  dsimp only
  split
  · exact rd_wr_ne _ _ h
  · rfl

theorem stwMay_stwSend (t : State) (dst : Nat) (b : ClvBody) : stwMay (stwSend t dst b) = stwMay t := by
  unfold stwSend
  split
  · have hk := clvEmit_way t dst (stwHdr t) b
    simp only [stwMay, rd_stwNext_other _ (r := R.CLV_STW_ROLE) (by decide), rd_stwNext_other _ (r := R.CLV_STW_STATE) (by decide),
      hk.rd R.CLV_STW_ROLE 0 (by decide), hk.rd R.CLV_STW_STATE 0 (by decide)]
  · rfl

theorem stwSend_outbox {t : State} (h : stwMay t = true) (dst : Nat) (b : ClvBody) :
    (stwSend t dst b).outbox = t.outbox ++ [.clover none dst (stwHdr t) b] := by
  unfold stwSend
  rw [if_pos h, (stwNext_way _).outbox_eq rfl, clvEmit_outbox]

/-- Every reporter but this chip is sent one REJECT. -/
theorem each_tellAlive (subject status : Nat) (l : List Nat) : ∀ t : State, t.me ∉ l → stwMay t = true →
    (t.each l (tellAlive subject status)).outbox.length = t.outbox.length + l.length := by
  induction l with
  | nil => exact fun t _ _ => rfl
  | cons r rest ih =>
    intro t hme hmay
    rw [List.mem_cons, not_or] at hme
    have htell : tellAlive subject status t r = stwSend t r (.reject subject status) := if_neg (Ne.symm hme.1)
    have hsame : (tellAlive subject status t r).me = t.me :=
      congrArg Router.chipId ((tellAlive_way subject status t r).router_eq (by decide))
    refine (ih (tellAlive subject status t r) (by rw [hsame]; exact hme.2) (by rw [htell, stwMay_stwSend]; exact hmay)).trans ?_
    rw [htell, stwSend_outbox hmay, List.length_append, List.length_cons, List.length_cons, List.length_nil]
    omega

/-- The inquiry closed by a live answer, before its reporters are told. -/
def inquiryClosed (s : State) (subject status : Nat) : State :=
  ((s.bumpSat R.CLV_REJECTS 0 1).record 0xB002 uFcc [(4, subject), (1, status)]).modClover fun c =>
    { c with inquiries := mapDel c.inquiries subject }

theorem probeRx_live {q : Inquiry} (hq : mapFind s.clover.inquiries subject = some q) (hf : q.failed = false) (hs : q.substitute = false) :
    probeRx s subject 0 true = (inquiryClosed s subject 0).each q.reporters (tellAlive subject 0) := by
  unfold probeRx
  simp only [hq, hf, hs, Bool.false_eq_true, Bool.true_eq_false, if_false, if_true]
  rfl

theorem inquiryClosed_spec (s : State) (subject status : Nat) : mapFind (inquiryClosed s subject status).clover.inquiries subject = none ∧
    Counted s (inquiryClosed s subject status) R.CLV_REJECTS 0 1 ∧ (inquiryClosed s subject status).outbox = s.outbox ∧
    (inquiryClosed s subject status).me = s.me ∧ stwMay (inquiryClosed s subject status) = stwMay s := by
  have hk : Keeps [13, 16, 0x6202, 0x7002] s (inquiryClosed s subject status) :=
    modClover_keeps (.of rfl Sub.rfl) (record_keeps (.of rfl Sub.rfl) (bumpSat_keeps (.of rfl Sub.rfl) (Keeps.refl _ s)))
  refine ⟨mapFind_mapDel_same .., ?_, hk.outbox_eq (by decide), congrArg Router.chipId (hk.router_eq (by decide)), ?_⟩
  · have h := rd_record (s.bumpSat R.CLV_REJECTS 0 1) 0xB002 uFcc [(4, subject), (1, status)] R.CLV_REJECTS 0 (by decide)
    exact h.trans (rd_bumpSat_same ..)
  · simp only [stwMay, hk.rd R.CLV_STW_ROLE 0 (by decide), hk.rd R.CLV_STW_STATE 0 (by decide)]

theorem each_tellAlive_way (subject status : Nat) (l : List Nat) (t : State) :
    Keeps rejectPlaces t (t.each l (tellAlive subject status)) :=
  each_keeps (fun v r h => h.trans (tellAlive_way subject status v r)) (Keeps.refl _ t)

end

/-! ### A fault notice (R278 to R281) -/

/-- A rank is read from the domain map alone. -/
theorem rankOf_congr {s t : State} (hver : t.rd R.FAB_EPOCH_INJ 0 = s.rd R.FAB_EPOCH_INJ 0)
    (hdim : t.rd R.FAB_TORUS_DIM 0 = s.rd R.FAB_TORUS_DIM 0) (hmap : ∀ i, t.rd R.FAB_DMAP i = s.rd R.FAB_DMAP i)
    (hovr : ∀ i, t.rd R.FAB_DMAP_OVR i = s.rd R.FAB_DMAP_OVR i) (d c : Nat) : t.rankOf d c = s.rankOf d c := by
  have hinj : t.injVer = s.injVer := hver
  have hslot (v d : Nat) : t.dslot v d = s.dslot v d := by simp only [State.dslot, hmap]
  have hover (v d r : Nat) : t.override v d r = s.override v d r := by simp only [State.override, hovr]
  have hx : t.torusX = s.torusX := by simp only [State.torusX, hdim]
  have hy : t.torusY = s.torusY := by simp only [State.torusY, hdim]
  have hz : t.torusZ = s.torusZ := by simp only [State.torusZ, hdim]
  have hat (d : DSlot) (c : Nat) : rankAt t d c = rankAt s d c := by simp only [rankAt, hx, hy, hz]
  simp only [State.rankOf, hinj, hslot, hover, hat, hovr]

/-- A state in which a chip has no rank in any partition's domain. -/
def NoRank (s : State) (subject : Nat) : Prop := ∀ p < 128, s.rankOf (s.tagOf p) subject = none

theorem NoRank.keeps {T : List Nat} {s t : State} {subject : Nat} (h : NoRank s subject) (hk : Keeps T s t)
    (hT : ∀ p ∈ [0x3100, 0x4100, 0x4104, 0x4105], (T.contains p || T.contains 31) = false) : NoRank t subject := by
  intro p hp
  have htag : t.tagOf p = s.tagOf p := hk.rd R.CMP_PART_TAG p (hT _ (by decide))
  rw [htag, rankOf_congr (s := s) (hk.rd _ _ (hT _ (by decide))) (hk.rd _ _ (hT _ (by decide))) (fun i => hk.rd _ _ (hT _ (by decide)))
    fun i => hk.rd _ _ (hT _ (by decide))]
  exact h p hp

section
variable {s : State} {port : Nat} {h : ClvHdr} {n : Notice}

def buddyPlaces : List Nat := [6, 16, 0x6102, 0x7002]

/-- In a partition of whose domain the chip is not, at most the buddy is lost. -/
theorem partNotice_noRank {p subject : Nat} (hr : s.rankOf (s.tagOf p) subject = none) : Keeps buddyPlaces s (partNotice s p subject) := by
  unfold partNotice
  dsimp only
  rw [hr, if_pos (.inl rfl)]
  exact .ite (buddyNone_keeps (.of rfl Sub.rfl) (Keeps.refl _ s)) (.refl _ s)

theorem each_partNotice_noRank {subject : Nat} (l : List Nat) (hl : ∀ p ∈ l, p < 128) : ∀ t : State, NoRank t subject →
    Keeps buddyPlaces t (t.each l fun t p => partNotice t p subject) := by
  induction l with
  | nil => exact fun t _ => .refl _ t
  | cons p rest ih =>
    intro t ht
    have hp := partNotice_noRank (ht p (hl p (.head _)))
    exact hp.trans (ih (fun q hq => hl q (.tail _ hq)) _ (ht.keeps hp (by decide)))

/-- The state of a first notice that has been passed on. -/
def noticeSent (s : State) (port : Option Nat) (h : ClvHdr) (n : Notice) : State :=
  s.each (s.upPorts.filter fun k => some k != port) fun t k => clvLocal t k h (.notice n)

/-- The subject of a first notice entered in the failed set. -/
def noticeFailed (s : State) (port : Option Nat) (h : ClvHdr) (n : Notice) : State :=
  failAdd ((noticeSent s port h n).bumpSat R.CLV_NOTICES 0 1) n.subject n.sboot

/-- What else a first notice makes of its subject, before the partitions hear of it. -/
def noticeNoted (s : State) (port : Option Nat) (h : ClvHdr) (n : Notice) : State :=
  stewardLost (noteFailed ((noticeFailed s port h n).record 0xB004 uFcc [(4, n.subject), (4, n.arbiter), (4, n.step)]) n.subject) n.subject

theorem noticeAct_eq (port : Option Nat) : noticeAct s port h n =
    (noticeNoted s port h n).each (List.range 128) fun t p => partNotice t p n.subject := rfl

theorem noticeSent_spec (port : Option Nat) : (noticeSent s port h n).outbox =
      s.outbox ++ (s.upPorts.filter fun k => some k != port).map (fun k => .clover (some k) (s.beyond k) h (.notice n)) ∧
    Keeps sendPlaces s (noticeSent s port h n) :=
  each_clvLocal (g := fun _ => h) (.notice n) _ s fun _ _ => rfl

theorem noticeNoted_way (port : Option Nat) : Keeps (13 :: 0x6201 :: 0x6202 :: 0x6210 :: sendPlaces) s (noticeNoted s port h n) :=
  stewardLost_keeps (.of rfl Sub.rfl) (noteFailed_keeps (.of rfl Sub.rfl) (record_keeps (.of rfl Sub.rfl)
    (failAdd_keeps (.of rfl Sub.rfl) (bumpSat_keeps (.of rfl Sub.rfl) ((noticeSent_spec port).2.mono (.of rfl Sub.rfl))))))

/-- A first notice is passed on through every other port that is Up, whatever follows. -/
theorem noticeAct_sends (port : Option Nat) {k : Nat} (hk : k ∈ s.upPorts) (hne : some k ≠ port) :
    Out.clover (some k) (s.beyond k) h (.notice n) ∈ (noticeAct s port h n).outbox := by
  have hsent : Out.clover (some k) (s.beyond k) h (.notice n) ∈ (noticeSent s port h n).outbox := by
    rw [(noticeSent_spec port).1]
    exact List.mem_append_right _ (List.mem_map.2 ⟨k, List.mem_filter.2 ⟨hk, by simpa using hne⟩, rfl⟩)
  have hnoted : Keeps [6, 13, 16, 0x6201, 0x6202, 0x6210, 0x7002] (noticeSent s port h n) (noticeNoted s port h n) :=
    stewardLost_keeps (.of rfl Sub.rfl) (noteFailed_keeps (.of rfl Sub.rfl) (record_keeps (.of rfl Sub.rfl)
      (failAdd_keeps (.of rfl Sub.rfl) (bumpSat_keeps (.of rfl Sub.rfl) (Keeps.refl _ _)))))
  have hparts : Keeps [31, 2, 3, 4, 5, 6, 7, 8, 9, 11, 12, 13, 15, 16, 19, 20, 21] (noticeNoted s port h n) (noticeAct s port h n) :=
    each_keeps (fun _ _ h => partNotice_keeps (.of rfl Sub.rfl) h) (Keeps.refl _ _)
  exact (hnoted.onward.1.trans hparts.onward.1).subset hsent

theorem failAdd_failed (s : State) (subject boot : Nat) : (failAdd s subject boot).isFailed subject = true := by
  have hset (t : State) (l : List (Nat × Nat)) : (setFailed t l).clover.failed = l := rfl
  have hlast (l : List (Nat × Nat)) : (l ++ [(subject, boot)]).any (fun e => e.1 == subject) = true := by simp
  unfold failAdd State.isFailed
  split
  · split
    · rw [(keeps_record ..).clover_eq rfl, hset, hlast]
    · rw [hset, hlast]
  · rw [hset]
    simp

theorem noteFailed_failedSet (s : State) (subject : Nat) : (noteFailed s subject).clover.failed = s.clover.failed := by
  unfold noteFailed
  cases nbrPort s subject <;> rfl

theorem stewardLost_failedSet (s : State) (chip : Nat) : (stewardLost s chip).clover.failed = s.clover.failed := by
  have hrec (t : State) (code source : Nat) (fs : List (Nat × Nat)) : (t.record code source fs).clover = t.clover :=
    (keeps_record ..).clover_eq rfl
  unfold stewardLost
  split
  · rfl
  · dsimp only
    split_ifs
    · rw [hrec, hrec]
      rfl
    · rw [hrec]
      rfl
    · rfl
    · rfl
    · rw [hrec]
      rfl
    · rfl
    · rfl

theorem rd_stewardLost_notices (s : State) (chip : Nat) : (stewardLost s chip).rd R.CLV_NOTICES 0 = s.rd R.CLV_NOTICES 0 :=
  (stewardLost_keeps Sub.rfl (Keeps.refl _ s)).rd _ _ (by decide)

theorem rd_failAdd_notices (s : State) (subject boot : Nat) : (failAdd s subject boot).rd R.CLV_NOTICES 0 = s.rd R.CLV_NOTICES 0 := by
  have hset (t : State) (l : List (Nat × Nat)) : (setFailed t l).rd R.CLV_NOTICES 0 = t.rd R.CLV_NOTICES 0 := rd_wr_ne _ _ (by decide)
  unfold failAdd
  split
  · split
    · rw [rd_record _ _ _ _ _ _ (by decide), hset]
    · exact hset ..
  · exact hset ..

theorem noticeNoted_spec (port : Option Nat) : (noticeNoted s port h n).isFailed n.subject = true ∧
    Counted s (noticeNoted s port h n) R.CLV_NOTICES 0 1 := by
  refine ⟨?_, ?_⟩
  · unfold State.isFailed noticeNoted
    rw [stewardLost_failedSet, noteFailed_failedSet, (keeps_record ..).clover_eq rfl]
    exact failAdd_failed ..
  · rw [Counted, noticeNoted, rd_stewardLost_notices, (noteFailed_keeps Sub.rfl (Keeps.refl _ _)).rd _ _ (by decide),
      rd_record _ _ _ _ _ _ (by decide), noticeFailed, rd_failAdd_notices, rd_bumpSat_same, (noticeSent_spec port).2.rd _ _ (by decide)]

/-- A first notice of a chip in no partition's domain: it is failed, and counted. -/
theorem noticeAct_fails (port : Option Nat) (hr : NoRank s n.subject) :
    (noticeAct s port h n).isFailed n.subject = true ∧ Counted s (noticeAct s port h n) R.CLV_NOTICES 0 1 := by
  have hk := each_partNotice_noRank (subject := n.subject) (List.range 128) (fun p hp => List.mem_range.1 hp) _
    (hr.keeps (noticeNoted_way (h := h) (n := n) port) (by decide))
  obtain ⟨hf, hc⟩ := noticeNoted_spec (s := s) (h := h) (n := n) port
  rw [noticeAct_eq]
  refine ⟨?_, ?_⟩
  · rw [State.isFailed, hk.clover_eq (by decide)]
    exact hf
  · rw [Counted, hk.rd _ _ (by decide), hc]

theorem noticeRx_known (hs : s.isFailed h.sender = false) (hn : s.isFailed n.subject = true) :
    noticeRx s port h n = s.bumpSat R.CLV_NOTICE_DUP 0 1 := (if_neg (by rw [hs]; decide)).trans (if_pos hn)

theorem noticeRx_new (hs : s.isFailed h.sender = false) (hn : s.isFailed n.subject = false) :
    noticeRx s port h n = if (sseqRx s h).2 then noticeAct (sseqRx s h).1 (some port) h n else (sseqRx s h).1 := by
  refine (if_neg (by rw [hs]; decide)).trans ((if_neg (by rw [hn]; decide)).trans ?_)
  exact if_neg (by rw [hs]; decide)

/-- A sequence number of a steward that was used is counted. -/
theorem sseqRx_used (hu : (sseqRx s h).2 = false) : (sseqRx s h).1 = s.bumpSat R.CLV_STW_DUP 0 1 := by
  unfold sseqRx at hu ⊢
  split at hu
  · cases hu
  · next hrole =>
    rw [if_neg hrole]
    dsimp only at hu ⊢
    split_ifs at hu ⊢
    rfl

theorem sseqRx_taken (hu : (sseqRx s h).2 = true) : Keeps [13] s (sseqRx s h).1 := by
  unfold sseqRx at hu ⊢
  dsimp only at hu ⊢
  split_ifs at hu ⊢
  · exact .refl _ s
  · dsimp only
    exact modClover_keeps Sub.rfl (Keeps.refl _ s)
  · dsimp only
    exact modClover_keeps Sub.rfl (Keeps.refl _ s)

end

/-! ### The obligation -/

section
variable {s : State}

/-- The heartbeat of a chip at an instant. -/
def heartbeatOf (s : State) : Heartbeat :=
  { alive := (s.clover.alive + 1) % 2 ^ 32, boot := s.rd R.RST_BOOT 0 % 65536, traypos := s.rd R.CLV_STW_POS 0,
    bootmode := bootCode s.rst.mode, nbrUp := nbrUp s, state := s.rd R.CLV_STATE 0, arbA := s.arbiters.1, arbB := s.arbiters.2,
    step := runStep s }

theorem heartbeatSend_up (h : s.mainUp = true) :
    (heartbeatSend s).clover.alive = (s.clover.alive + 1) % 2 ^ 32 ∧
      (heartbeatSend s).outbox = s.outbox ++ s.upPorts.map fun k =>
        .clover (some k) (s.beyond k) (clvHdr s 0xFF) (.heartbeat (heartbeatOf s)) := by
  have heq : heartbeatSend s = (s.modClover fun c => { c with alive := (s.clover.alive + 1) % 2 ^ 32 }).each s.upPorts fun t k =>
      clvLocal t k (clvHdr t 0xFF) (.heartbeat (heartbeatOf s)) := if_neg (by rw [h]; decide)
  obtain ⟨hout, hkeep⟩ := each_clvLocal (g := fun t => clvHdr t 0xFF) (hd := clvHdr s 0xFF) (.heartbeat (heartbeatOf s)) s.upPorts
    (s.modClover fun c => { c with alive := (s.clover.alive + 1) % 2 ^ 32 })
    fun t ht => ht.clvHdr_eq treeFree_sendPlaces 0xFF
  rw [heq]
  exact ⟨congrArg (·.alive) (hkeep.clover_eq rfl), hout⟩

theorem rejectRx_reported {subject k : Nat} (hk : nbrPort s subject = some k) :
    rejectRx s subject = if s.rd R.CLV_NBR_STATE k = 3 then s.wr R.CLV_NBR_STATE k nChipAlive else s := by
  unfold rejectRx
  rw [hk]
  rfl

end

/-- Settles O47: each message and timer by the state of its neighbour or inquiry; what goes on to other chips moves nothing
that the next message reads. -/
theorem neighboursAndFaults : Obligations.NeighboursAndFaults := by
  intro s
  refine ⟨fun h => ⟨_, rfl, if_pos h⟩, fun h => ?_, fun port h b hup _ hs ha => ?_, fun port _ => ?_, fun h r hrole hsender => ?_,
    fun subject => ⟨fun hq => ?_, fun q hq hf hsub hmay => ⟨fun hnow => ?_, fun hdue htries => ?_, fun hdue htries hrep => ?_, ?_⟩,
      fun hq hfailed st auth => ?_⟩, fun h subject st k hrole hsender hk => ?_, fun subject k hk => ?_, fun port h n => ?_⟩
  · obtain ⟨halive, hout⟩ := heartbeatSend_up h
    exact ⟨_, rfl, halive, heartbeatOf s, halive.symm, rfl, rfl, rfl, rfl, hout⟩
  · intro heard d
    have hd : d = aliveAhead s port b := rfl
    have hheard {t : State} (ht : Heard s port h b t) : heard t := ⟨ht.state, ht.chip, ht.alive, ht.watched, ht.last, ht.boot⟩
    have hway := streamValue_way s (s.rd R.CLV_TALLY_CH 0) port b.alive
    refine ⟨fun hf => ?_, fun boot hf => ?_⟩
    · have heq := congrArg (Host.Outcome.next (φ := Fault) (ρ := Refusal)) (heartbeatRx_known (b := b) hup hf)
      refine ⟨fun hnew => ⟨_, heq, hheard (heartbeatTake_heard hs ha (hway.now_eq (by decide)) hnew)⟩, fun hw h1 h2 => ?_, fun hw hr => ?_⟩
      · obtain ⟨hh, hc⟩ := heartbeatTake_gap (h := h) hs ha (hway.now_eq (by decide)) (hway.rd R.CLV_NBR_GAPS port (by decide)) hw h1 h2
        exact ⟨_, heq, hheard hh, hc⟩
      · rw [heartbeatTake_repeat hw hr] at heq
        refine ⟨_, heq, hway.clover_eq (by decide), ?_⟩
        rw [Counted, rd_bumpSat_same, hway.rd _ _ (by decide)]
    · have heq := heartbeatRx_failed (b := b) hup hf
      refine ⟨fun hb => ⟨_, rfl, heq.trans (if_pos hb)⟩, fun hb => ⟨_, congrArg Host.Outcome.next (heq.trans (if_neg hb)), ?_⟩⟩
      beta_reduce
      rw [State.isFailed.eq_1, heartbeatTake_clover, (streamValue_way ..).clover_eq (by decide), readmit_failed]
      simp
  · intro n due r
    refine ⟨fun hn => ⟨_, rfl, nbrMiss_early hn⟩, fun hdue hA hf hAme hBme => ?_⟩
    have hnoted := missNoted_way s port
    have hme : (missNoted s port).me = s.me := hnoted.me_eq treeFree_noted
    have hA' : (s.nbr port).arbA ≠ (missNoted s port).me := by rw [hme]; exact hAme
    have hfirst := reportTo_way (s := missNoted s port) (missReport s port) hA'
    have hB' : (s.nbr port).arbB ≠ (reportTo (missNoted s port) (s.nbr port).arbA (missReport s port)).me := by
      rw [hfirst.me_eq treeFree_sendPlaces, hme]
      exact hBme
    have hboth := hfirst.trans (reportTo_way (missReport s port) hB')
    obtain ⟨hst, hns⟩ := missNoted_spec s port
    refine ⟨_, congrArg Host.Outcome.next (nbrMiss_due hdue hA hf), ?_, ?_, ?_⟩
    · rw [hboth.rd _ _ (by decide), hst]
    · rw [State.nbr, hboth.clover_eq (by decide)]
      exact hns
    · rw [reportTo_outbox _ hB', reportTo_outbox _ hA', if_neg hA, hnoted.outbox_eq (by decide), hfirst.clvHdr_eq treeFree_sendPlaces,
        hnoted.clvHdr_eq treeFree_noted, List.append_assoc]
      rfl
  · have heq (t : State) (ht : reportRx s h.sender r = t) : exec (.report h r) s = .next t :=
      congrArg Host.Outcome.next ((clvRx_own hsender hrole _).trans ht)
    refine ⟨fun hfail => ⟨_, heq _ rfl, if_pos (.inl hfail)⟩, fun hfail hm hq hmay hc => ⟨_, heq _ rfl, reportRx_first hsender hfail hm hq hmay hc⟩⟩
  · refine ⟨_, rfl, ?_⟩
    rw [probeAgain_none hq, ite_self]
  · exact ⟨_, probeTimeout_eq hq, if_pos hnow⟩
  · have hopen : mapFind (modInq s subject fun q => { q with tries := q.tries + 1 }).clover.inquiries subject =
        some { q with tries := q.tries + 1 } := by rw [inquiry_modInq, inquiry_of_find hq]
    obtain ⟨hout, hfind⟩ := sendProbe_spec hopen hmay (q.tries + 1)
    refine ⟨_, (probeTimeout_eq hq).trans (congrArg Host.Outcome.next ((if_neg (by omega)).trans (probeAgain_tries hq hf hsub htries))), hout, hfind⟩
  · have hfailed : mapFind (modInq s subject fun q => { q with failed := true, cause := 1 }).clover.inquiries subject =
        some { q with failed := true, cause := 1 } := by rw [inquiry_modInq, inquiry_of_find hq]
    refine ⟨_, (probeTimeout_eq hq).trans (congrArg Host.Outcome.next ((if_neg (by omega)).trans (probeAgain_fails hq hf hsub htries))), ?_⟩
    rw [probeFailed, tryDecide_alone hfailed hsub hrep]
    exact hfailed
  · obtain ⟨hnone, hcount, hout, hme, hmay'⟩ := inquiryClosed_spec s subject 0
    have htold := each_tellAlive_way subject 0 q.reporters (inquiryClosed s subject 0)
    refine ⟨_, congrArg Host.Outcome.next (probeRx_live hq hf hsub), ?_, ?_, fun hne => ?_⟩
    · rw [htold.clover_eq (by decide), hnone]
    · rw [Counted, htold.rd _ _ (by decide), hcount]
    · rw [each_tellAlive _ _ _ _ (by rwa [hme]) (by rwa [hmay']), hout]
  · refine ⟨s.bumpSat R.CLV_PROBE_LATE 0 1, congrArg Host.Outcome.next ?_, rd_bumpSat_same .., rfl⟩
    unfold probeRx
    rw [hq]
    exact if_pos hfailed
  · have heq := (clvRx_own hsender hrole fun t => rejectRx t subject).trans (rejectRx_reported hk)
    refine ⟨fun hst => ⟨_, congrArg Host.Outcome.next (heq.trans (if_pos hst)), rd_wr_same .., rfl⟩, fun hst =>
      ⟨_, rfl, heq.trans (if_neg hst)⟩⟩
  · intro n due
    refine ⟨fun hn => ⟨_, rfl, arbWait_early hk hn⟩, fun hdue => ⟨_, congrArg Host.Outcome.next (arbWait_due hk hdue), fun hsub => ?_⟩⟩
    have hsub' : substituteArb s ≠ (modNbr s k fun n => { n with resent := true }).me := hsub
    refine ⟨?_, fun hsome => ?_⟩
    · rw [State.nbr, (reportTo_way _ hsub').clover_eq (by decide)]
      exact congrArg (·.resent) (nbr_modNbr _)
    · rw [reportTo_outbox _ hsub', if_neg hsome]
      rfl
  · refine ⟨fun hf => ⟨_, rfl, if_pos hf⟩, fun hs => ⟨fun hn => ?_, fun hn hu => ?_, fun hn hu => ?_⟩⟩
    · exact ⟨_, congrArg Host.Outcome.next (noticeRx_known hs hn), rd_bumpSat_same .., rfl, rfl⟩
    · refine ⟨s.bumpSat R.CLV_STW_DUP 0 1, congrArg Host.Outcome.next ?_, rd_bumpSat_same .., rfl, rfl⟩
      rw [noticeRx_new hs hn, hu, if_neg (by decide), sseqRx_used hu]
    · have hway := sseqRx_taken hu
      have heq := noticeRx_new (port := port) hs hn
      rw [hu, if_pos rfl] at heq
      refine ⟨_, congrArg Host.Outcome.next heq, fun k hk hne => ?_, fun hr => ?_⟩
      · have hup : (sseqRx s h).1.upPorts = s.upPorts := by
          simp only [State.upPorts, State.portUp, hway.rd R.FAB_PORT_STATE _ (by decide)]
        have hsent := noticeAct_sends (s := (sseqRx s h).1) (h := h) (n := n) (some port) (k := k) (by rwa [hup]) (by simpa using hne)
        rwa [hway.beyond_eq (by unfold TreeFree; decide)] at hsent
      · obtain ⟨hf, hc⟩ := noticeAct_fails (s := (sseqRx s h).1) (h := h) (n := n) (some port) (NoRank.keeps hr hway (by decide))
        exact ⟨hf, by rw [Counted, hc, hway.rd _ _ (by decide)]⟩

end Sys2Proof.Machine
end

section
/-! Stewards and health scores (R287 to R290, R293, R294). -/

namespace Sys2Proof.Machine

open Sys2Proof

/-! ### The active steward's cycle and the standby's copy (R287, R288, R290) -/

theorem rd_modClover (s : State) (f : Clover → Clover) (r : Reg) (i : Nat) : (s.modClover f).rd r i = s.rd r i := rfl

section
variable {s : State}

theorem cycleEnd_alone (hrole : s.rd R.CLV_STW_ROLE 0 = 1) (hb : s.clover.standby = none) :
    cycleEnd s = (s.emitAll (s.clover.crossings.map fun e => .healthReport e.1 e.2)).modClover fun c => { c with crossings := [] } := by
  simp only [cycleEnd, hrole, hb]

/-- The active steward's state with its crossings reported and its copy sent. -/
def copySent (s : State) : State :=
  (((s.emitAll (s.clover.crossings.map fun e => .healthReport e.1 e.2)).modClover fun c => { c with crossings := [] }).emit
    (.stewardCopy (stewardState s))).wr R.CLV_STW_STATE 0 2

theorem cycleEnd_standby {b : Nat} (hrole : s.rd R.CLV_STW_ROLE 0 = 1) (hb : s.clover.standby = some b) :
    cycleEnd s = if s.clover.swapNext then
        (((copySent s).wr R.CLV_STW_ROLE 0 2).wr R.CLV_STW_STATE 0 1).modClover fun c =>
          { c with active := some b, standby := c.active, swapNext := false, copyValid := true }
      else copySent s := by
  simp only [cycleEnd, hrole, hb, copySent]

theorem cycleEnd_waits (hrole : s.rd R.CLV_STW_ROLE 0 = 2) : cycleEnd s = s.modClover fun c => { c with copyValid := false } := by
  simp only [cycleEnd, hrole]

/-- A copy of the standby that differs from it is counted and recorded. -/
def divergeNoted (s : State) (c : StewardState) : State :=
  if s.rd R.CLV_STW_STATE 0 = 2 ∧ stewardSame (stewardState s) c = false then
    (s.bumpSat R.CLV_STW_DIVERGE 0 1).record 0xB022 uFcc [(4, (s.time.sec * 1000 + s.time.ns / 1000000) % 2 ^ 32)]
  else s

theorem divergeNoted_role (c : StewardState) : (divergeNoted s c).rd R.CLV_STW_ROLE 0 = s.rd R.CLV_STW_ROLE 0 := by
  unfold divergeNoted
  split
  · rw [rd_record _ _ _ _ _ _ (by decide), rd_bumpSat_ne (by decide)]
  · rfl

/-- The standby with a complete copy in place of its own state. -/
def copyTaken (s : State) (c : StewardState) : State :=
  ((takeCopy (divergeNoted s c) c).wr R.CLV_STW_STATE 0 2).modClover fun c => { c with copyValid := true }

theorem copyRx_whole (hrole : s.rd R.CLV_STW_ROLE 0 = 2) (swap : Bool) (c : StewardState) :
    copyRx s true true swap c = if swap then
        ((copyTaken s c).wr R.CLV_STW_ROLE 0 1).modClover fun c => { c with active := c.standby, standby := c.active }
      else copyTaken s c := by
  simp only [copyRx, hrole, ne_eq, not_true_eq_false, if_false, Bool.true_eq_false, or_self]
  rfl

theorem copyTaken_role (c : StewardState) : (copyTaken s c).rd R.CLV_STW_ROLE 0 = s.rd R.CLV_STW_ROLE 0 := by
  simp (disch := decide) only [copyTaken, takeCopy, rd_modClover, rd_wr_ne, rd_setMgmt, divergeNoted_role]

theorem copyTaken_seq (c : StewardState) : (copyTaken s c).rd R.CLV_STW_SEQ 0 = c.sseq % 65536 := by
  simp (disch := decide) only [copyTaken, takeCopy, rd_modClover, rd_wr_ne, rd_setMgmt, rd_wr_same]
  rfl

theorem copyTaken_state (c : StewardState) : (copyTaken s c).rd R.CLV_STW_STATE 0 = 2 :=
  (rd_modClover ..).trans (rd_wr_same ..)

theorem copyRx_damaged {complete crc swap : Bool} {c : StewardState} (hrole : s.rd R.CLV_STW_ROLE 0 = 2)
    (h : complete = false ∨ crc = false) : copyRx s complete crc swap c = s.bumpSat R.CLV_STW_COPY_ERR 0 1 :=
  (if_neg (by simpa using hrole)).trans (if_pos h)

end

/-! ### A part's penalty points and its score (R293, R294) -/

section
variable (s : State) (u : Nat)

/-- The registers of a part's score written. -/
def scored (s : State) (u : Nat) : State :=
  let p := s.penalty u
  let s1 := (((s.wr R.HLT_SCORE u (scoreOf p)).wr R.HLT_PEN_FIXED u (fixedPoints p)).wr R.HLT_PEN_DECAY u p.decay).wr
    R.HLT_BAND u (bandOf s (scoreOf p))
  s1.wr R.HLT_CHIP_SCORE 0 (chipScore s1)

theorem scored_penalty (v : Nat) : (scored s u).penalty v = s.penalty v := rfl

theorem scored_score : (scored s u).rd R.HLT_SCORE u = scoreOf (s.penalty u) := by
  dsimp only [scored]
  rw [rd_wr_ne _ _ (by decide), rd_wr_ne _ _ (by decide), rd_wr_ne _ _ (by decide), rd_wr_ne _ _ (by decide), rd_wr_same]
  exact Nat.mod_eq_of_lt (by rw [scoreOf]; exact Nat.lt_of_le_of_lt (Nat.div_le_div_right (by omega)) (by decide : 1000000 / 1000 < 2 ^ 16))

variable (band score : Nat)

theorem noteCrossing_penalty (v : Nat) : (noteCrossing s u band score).penalty v = s.penalty v := by
  unfold noteCrossing State.penalty
  dsimp only
  split
  · show mapGet {} (s.record _ _ _).clover.penalties v = _
    rw [record_clover]
  · rw [record_clover]

theorem noteCrossing_score (v : Nat) : (noteCrossing s u band score).rd R.HLT_SCORE v = s.rd R.HLT_SCORE v :=
  (noteCrossing_keeps Sub.rfl (Keeps.refl _ s)).rd _ _ (by decide)

/-- Besides its registers, a part's new score only notes the bands that it enters. -/
theorem rescore_spec : (∀ v, (rescore s u).penalty v = s.penalty v) ∧ (rescore s u).rd R.HLT_SCORE u = scoreOf (s.penalty u) := by
  have h (t : State) (ht : (∀ v, t.penalty v = s.penalty v) ∧ t.rd R.HLT_SCORE u = scoreOf (s.penalty u)) (c : Prop) [Decidable c]
      (band : Nat) : (∀ v, (if c then noteCrossing t u band (scoreOf (s.penalty u)) else t).penalty v = s.penalty v) ∧
        (if c then noteCrossing t u band (scoreOf (s.penalty u)) else t).rd R.HLT_SCORE u = scoreOf (s.penalty u) := by
    split
    · exact ⟨fun v => (noteCrossing_penalty ..).trans (ht.1 v), (noteCrossing_score ..).trans ht.2⟩
    · exact ht
  exact h _ (h (scored s u) ⟨scored_penalty s u, scored_score s u⟩ _ 1) _ 2

end

/-- Settles O48: by the steward's role, and a part's score is written before the bands it enters are noted. -/
theorem stewards : Obligations.Stewards := by
  intro s who
  refine ⟨fun hrole => ⟨fun hb => ⟨_, congrArg Host.Outcome.next (cycleEnd_alone hrole hb), rfl, rfl⟩, fun b hb =>
      ⟨_, congrArg Host.Outcome.next (cycleEnd_standby hrole hb), ?_⟩⟩,
    fun hrole => ⟨⟨_, congrArg Host.Outcome.next (cycleEnd_waits hrole), rfl, rfl⟩, fun c => ⟨fun swap =>
      ⟨_, congrArg Host.Outcome.next (copyRx_whole hrole swap c), ?_⟩, fun complete crc swap h =>
      ⟨_, congrArg Host.Outcome.next (copyRx_damaged hrole h), rd_bumpSat_same .., rfl, rfl⟩⟩⟩,
    fun hrole x y z c => ⟨_, rfl, if_pos hrole⟩, fun a ha hrole hst => ⟨fun hns => ⟨_, rfl, ?_⟩, fun hns hv => ⟨_, rfl, ?_⟩, fun hv => ⟨_, rfl, ?_⟩⟩,
    fun v hok => ⟨fun hrole hb => writes_of_guard rfl hok (if_pos ⟨hrole, hb⟩) rfl, fun h => turnedAway_of_guard rfl hok (if_neg ?_)⟩,
    fun u => ?_⟩
  · cases hsw : s.clover.swapNext with
    | false =>
      refine ⟨rfl, rfl, ?_, nofun⟩
      simp (disch := decide) only [Bool.false_eq_true, if_false, copySent, rd_modClover, rd_wr_ne, rd_emit, State.emitAll, rd_setOutbox, hrole]
    | true =>
      refine ⟨rfl, rfl, ?_, fun _ => ⟨rfl, rfl⟩⟩
      simp (disch := decide) only [if_true, rd_modClover, rd_wr_ne, rd_wr_same]
      rfl
  · cases swap with
    | false => exact ⟨rfl, rfl, copyTaken_seq c, copyTaken_state c, rfl, (copyTaken_role c).trans hrole⟩
    | true =>
      refine ⟨rfl, rfl, ?_, ?_, rfl, ?_⟩
      · simp (disch := decide) only [if_true, rd_modClover, rd_wr_ne, copyTaken_seq]
      · simp (disch := decide) only [if_true, rd_modClover, rd_wr_ne, copyTaken_state]
      · simp only [if_true, rd_modClover, rd_wr_same]
        rfl
  · simp only [copyMissing, ha]
    exact if_neg fun h => by omega
  · simp only [copyMissing, ha]
    rw [if_pos ⟨hns, hrole, hst, hv⟩]
    exact clvEmit_outbox ..
  · simp only [copyMissing, ha]
    exact if_neg (by simp [hv])
  · rintro ⟨hrole, hb⟩
    rcases h with h | h
    · exact h hrole
    · simp [h] at hb
  · refine ⟨_, rfl, ?_⟩
    obtain ⟨hpen, hscore⟩ := rescore_spec (s.modClover fun c => { c with penalties := mapPut c.penalties u { s.penalty u with decay := (s.penalty u).decay / 2 } }) u
    have hown : (s.modClover fun c => { c with penalties := mapPut c.penalties u { s.penalty u with decay := (s.penalty u).decay / 2 } }).penalty u =
        { s.penalty u with decay := (s.penalty u).decay / 2 } := mapGet_mapPut_same ..
    rw [hown] at hscore
    exact ⟨(hpen u).trans hown, hscore, fun v hv => (hpen v).trans (mapGet_mapPut_other _ _ _ hv)⟩

end Sys2Proof.Machine
end

section
/-! Host commands that need no data, and the plan commands of a partition's function (R185, R187, R284). -/

namespace Sys2Proof.Machine

open Sys2Proof

/-! ### A fetched command that may begin (R185, R188) -/

section
variable {s : State} {m op : Nat}

/-- A command that may begin is one of the fetched ones and has no outcome. -/
theorem mover_of_mayBegin (h : mayBegin s m op = true) : mapFind s.host.movers m = some (s.mover m) ∧ (s.mover m).outcome = none := by
  unfold mayBegin at h
  cases hf : mapFind s.host.movers m with
  | none => simp [hf] at h
  | some x =>
    have hx : s.mover m = x := by rw [State.mover, mapGet_eq_find, hf]; rfl
    simp only [hf, Bool.and_eq_true, Option.isNone_iff_eq_none] at h
    exact ⟨by rw [hx], by rw [hx]; exact h.1.1.1.2⟩

theorem mapFind_mover {x : Mover} (f : Mover → Mover) (h : mapFind s.host.movers m = some x) :
    mapFind (modMover s m f).host.movers m = some (f x) := by
  unfold modMover
  rw [h]
  exact mapFind_mapPut_same ..

theorem mover_of_find {x : Mover} (h : mapFind s.host.movers m = some x) : s.mover m = x := by
  rw [State.mover, mapGet_eq_find, h]
  rfl

/-- A command that begins keeps its outcome open. -/
theorem begin_mover (h : mayBegin s m op = true) :
    ∃ x, mapFind (begin_ s m).host.movers m = some x ∧ x.outcome = none := by
  obtain ⟨hf, ho⟩ := mover_of_mayBegin h
  exact ⟨_, mapFind_mover _ hf, ho⟩

theorem begin_way (s : State) (m : Nat) : Keeps [12] s (begin_ s m) := begin__keeps Sub.rfl (Keeps.refl _ s)

theorem beginWith_may (h : mayBegin s m op = true) (f : State → Cmd → Nat → State) :
    beginWith s m op f = f (begin_ s m) (s.mover m).cmd (s.mover m).func := if_pos h

theorem owns_begin (f p : Nat) : (begin_ s m).owns f p = s.owns f p := by
  rw [State.owns, State.owns, (begin_way s m).rd _ _ (by decide)]

theorem beginOwned_may (h : mayBegin s m op = true) (ho : s.owns (s.mover m).func (s.mover m).cmd.part = true)
    (f : State → Cmd → Nat → State) : beginOwned s m op f = f (begin_ s m) (s.mover m).cmd (s.mover m).func :=
  (beginWith_may h _).trans (if_pos ((owns_begin ..).trans ho))

theorem beginOwned_denied (h : mayBegin s m op = true) (ho : s.owns (s.mover m).func (s.mover m).cmd.part = false)
    (f : State → Cmd → Nat → State) : beginOwned s m op f = moverDone (begin_ s m) m 7 0x0702 0 :=
  (beginWith_may h _).trans (if_neg (by rw [owns_begin, ho]; decide))

/-- The first outcome of a command stands. -/
theorem moverDone_outcome {x : Mover} (h : mapFind s.host.movers m = some x) (ho : x.outcome = none) (status reason result : Nat) :
    ((moverDone s m status reason result).mover m).outcome = some (status, reason, result) := by
  rw [moverDone, mover_of_find (mapFind_mover _ h)]
  simp [ho]

/-- A command that begins completes with what its effect says, where the effect leaves the fetched commands. -/
theorem outcome_of_begun {t : State} (h : mayBegin s m op = true) (ht : t.host = (begin_ s m).host) (status reason result : Nat) :
    ((moverDone t m status reason result).mover m).outcome = some (status, reason, result) := by
  obtain ⟨x, hx, ho⟩ := begin_mover h
  exact moverDone_outcome (by rw [ht]; exact hx) ho ..

theorem moverDone_way (s : State) (m status reason result : Nat) : Keeps [12] s (moverDone s m status reason result) :=
  moverDone_keeps Sub.rfl (Keeps.refl _ s)

end

/-! ### PLAN_RUN (R115, R187, R284) -/

section
variable {s : State} {p : Nat}

/-- A chip whose partition has been told to resume is in its step, or has not yet begun it. -/
theorem resumeAct_step (m : ResumeMsg) (hst : s.pstate p = psRunning) (hm : m.step = s.rd R.SEAL_STEP p) (hlt : m.step < 2 ^ 32) (hrun : m.run < 256) :
    (resumeAct s p m).pstate p = psRunning ∧ (resumeAct s p m).rd R.SEAL_STEP p = s.rd R.SEAL_STEP p := by
  unfold resumeAct
  dsimp only
  split
  · obtain ⟨hrunning, hstep, -, -, -⟩ := stepBegin_spec (s := s) (p := p) (sec := m.t0sec) (ns := m.t0ns) hlt hrun
    have hkeep (v : State) (f : Part → Part) : Keeps [6] v (v.modPart p f) := modPart_keeps Sub.rfl (Keeps.refl _ v)
    exact ⟨((hkeep ..).pstate_eq rfl p).trans hrunning, ((hkeep ..).rd _ _ (by decide)).trans (hstep.trans hm)⟩
  · exact ⟨hst, rfl⟩

/-- A partition in the step `n`. -/
def InStep (s : State) (p n : Nat) : Prop := s.pstate p = psRunning ∧ s.rd R.SEAL_STEP p = n

theorem InStep.of_keeps {T : List Nat} {t : State} {n : Nat} (h : Keeps T s t) (hp : (T.contains 0x3000 || T.contains 31) = false) (hr : (T.contains 0x6100 || T.contains 31) = false)
    (hs : InStep s p n) : InStep t p n := ⟨(h.pstate_eq hp p).trans hs.1, (h.rd R.SEAL_STEP p hr).trans hs.2⟩

theorem toChildren_way (s : State) (p : Nat) (b : ClvBody) : Keeps sendPlaces s (toChildren s p b) :=
  each_keeps (fun v r h => h.trans (clvRank_way v p r b)) (Keeps.refl _ s)

theorem nameStart_step {n : Nat} (start : Nat × Nat) (hn : n < 2 ^ 32) (h : InStep s p n) : InStep (nameStart s p start) p n := by
  have hgo (v : State) (hv : InStep v p n) (sec ns : Nat) :
      InStep (resume v p { step := s.rd R.SEAL_STEP p, run := 1, t0sec := sec, t0ns := ns }) p n := by
    have hw := hv.of_keeps (toChildren_way v p (.resume { step := s.rd R.SEAL_STEP p, run := 1, t0sec := sec, t0ns := ns })) (by decide) (by decide)
    obtain ⟨h1, h2⟩ := resumeAct_step { step := s.rd R.SEAL_STEP p, run := 1, t0sec := sec, t0ns := ns } hw.1 (h.2.trans hw.2.symm) (h.2.trans_lt hn) (show 1 < 256 by decide)
    exact ⟨h1, h2.trans hw.2⟩
  unfold nameStart
  dsimp only
  refine hgo _ ?_ _ _
  split
  · exact h
  · exact h.of_keeps (keeps_record ..) (by decide) (by decide)

theorem sendReady_step {n : Nat} (hn : n < 2 ^ 32) (h : InStep s p n) : InStep (sendReady s p) p n := by
  unfold sendReady
  dsimp only
  split_ifs
  · exact h
  · exact h
  · exact h
  · exact h.of_keeps (toParent_keeps Sub.rfl (modPart_keeps (.of rfl Sub.rfl) (Keeps.refl _ s))) (by decide) (by decide)
  · exact nameStart_step _ hn h
  · exact nameStart_step _ hn (h.of_keeps (modPart_keeps (.of rfl Sub.rfl) (record_keeps (T := [6, 16, 0x7002]) (.of rfl Sub.rfl) (Keeps.refl _ s))) (by decide) (by decide))
  · exact h
  · exact h.of_keeps (modPart_keeps (.of rfl Sub.rfl) (record_keeps (T := [6, 16, 0x7002]) (.of rfl Sub.rfl) (Keeps.refl _ s))) (by decide) (by decide)

/-- The registers of a run that is entered. -/
def runRegs (s : State) (p : Nat) : State :=
  let step := s.rd R.SEAL_NEXT_STEP p
  (((((s.wr R.CMP_PLAN_STATE p psRunning).wr R.SEAL_STEP p step).wr R.SEAL_RUN p 1).wr R.SEAL_LAST p
    (prevStep step)).wr R.SEAL_PROT p (prevStep step)).wr R.SEAL_JNL_STATE p 0

theorem runRegs_step (s : State) (p : Nat) : InStep (runRegs s p) p (s.rd R.SEAL_NEXT_STEP p % 2 ^ 32) := by
  constructor
  · dsimp only [runRegs, State.pstate]
    simp (disch := decide) only [rd_wr_ne, rd_wr_same]
    rfl
  · dsimp only [runRegs]
    simp (disch := decide) only [rd_wr_ne, rd_wr_same]
    rfl

/-- A run that is entered, its copy and its READY still to come. -/
def runMid (s : State) (p : Nat) : State :=
  (jnlCount ((stopBlocks (runRegs s p) p).modPart p fun q =>
    { q with
      journal := [], journalFull := false, t0 := none, resumed := false, stop := false, haltSlip := false,
      haltAlarm := false, tries := [], verdict := {}, ownVote := none, childVotes := [], lateVotes := 0, seals := 0,
      written := [], between := [], betweenSent := [], final := [], early := [], readyOwn := true,
      readyUp := if s.rd R.SEAL_STEP p = s.rd R.SEAL_NEXT_STEP p then q.readyUp else 0, replay := none, delayed := none, runNo := q.runNo + 1 }) p).each
    (s.blocksOf p) fun t b => t.modBlock b fun k => { k with falseAlarms := [], norms := [] }

theorem runStart_step (s : State) (p : Nat) : InStep (runStart s p) p (s.rd R.SEAL_NEXT_STEP p % 2 ^ 32) := by
  refine sendReady_step (Nat.mod_lt _ (by decide)) ((runRegs_step s p).of_keeps (T := [5, 6, 16, 0x6101, 0x6102, 0x7002]) ?_ (by decide) (by decide))
  have hmid : Keeps [5, 6, 16, 0x6101, 0x6102, 0x7002] (runRegs s p) (runMid s p) :=
    each_keeps (fun v b hv => modBlock_keeps (.of rfl Sub.rfl) hv) (jnlCount_keeps (.of rfl Sub.rfl) (modPart_keeps (.of rfl Sub.rfl)
      (stopBlocks_keeps (.of rfl Sub.rfl) (Keeps.refl _ _))))
  split
  · exact fillStart_keeps (.of rfl Sub.rfl) hmid
  · exact buddyNone_keeps (.of rfl Sub.rfl) hmid

theorem Keeps.zeroDone_eq {T : List Nat} {t : State} (h : Keeps T s t) (h1 : (T.contains 0x3101 || T.contains 31) = false)
    (h2 : (T.contains 0x3400 || T.contains 31) = false) (h3 : (T.contains 0x3401 || T.contains 31) = false)
    (h4 : (T.contains 0x3402 || T.contains 31) = false) (q : Nat) : zeroDone t q = zeroDone s q := by
  simp only [zeroDone, zeroOf, State.slicesOf, h.blocksOf_eq h1, h.rd R.MEM_SLICE_PART _ h2, h.rd R.MEM_ZERO_BLOCK _ h3, h.rd R.MEM_ZERO_SLICE _ h4]

theorem tryRun_waits (hz : zeroDone s p = false) : tryRun s p = s := if_neg fun h => by simp [hz] at h

theorem tryRun_goes (hst : s.pstate p = psLoaded) (hr : (s.part p).run.isSome = true) (hz : zeroDone s p = true) :
    InStep (tryRun s p) p (s.rd R.SEAL_NEXT_STEP p % 2 ^ 32) := by
  rw [show tryRun s p = runStart (applyStep s) p from if_pos ⟨hst, hr, hz⟩,
    show s.rd R.SEAL_NEXT_STEP p = (applyStep s).rd R.SEAL_NEXT_STEP p from ((applyStep_keeps Sub.rfl (Keeps.refl _ s)).rd _ _ (by decide)).symm]
  exact runStart_step ..

end

/-- A partition whose run is named by the command that begins it. -/
def runNamed (s : State) (m : Nat) : State :=
  (begin_ s m).modPart (s.mover m).cmd.part fun q =>
    { q with
      run := some m, limit := (s.mover m).cmd.arg0, startSec := (s.mover m).cmd.arg1 / 2 ^ 32, startNs := (s.mover m).cmd.arg1 % 2 ^ 32,
      runStatus := 0 }

theorem runNamed_way (s : State) (m : Nat) : Keeps [6, 12] s (runNamed s m) :=
  modPart_keeps (.of rfl Sub.rfl) (begin__keeps (.of rfl Sub.rfl) (Keeps.refl _ s))

theorem planRun_goes {s : State} {m : Nat} (h : mayBegin s m 0x11 = true) (ho : s.owns (s.mover m).func (s.mover m).cmd.part = true)
    (hst : s.pstate (s.mover m).cmd.part = psLoaded) (hrun : (s.part (s.mover m).cmd.part).run = none) :
    planRun s m = tryRun (runNamed s m) (s.mover m).cmd.part := by
  have hbegin := begin_way s m
  refine (beginOwned_may h ho _).trans (if_neg ?_)
  rw [hbegin.pstate_eq (by decide), hbegin.part_eq (by decide), hst, hrun]
  decide

/-! ### PLAN_STOP and PLAN_UNLOAD (R185, R187) -/

section
variable {s : State} {p : Nat}

theorem runStop_later (status : Nat) (ha : s.active p = true) (hr : (s.part p).resumed = true) :
    runStop s p status = s.modPart p fun x => { x with stop := true, runStatus := max x.runStatus status } :=
  (if_neg fun h => by simp [ha] at h).trans (if_pos (.inl hr))

theorem runStop_idle (status : Nat) (ha : s.active p = false) (hr : (s.part p).run = none) : runStop s p status = s :=
  if_pos ⟨ha, by rw [hr]; rfl⟩

theorem active_of_halted (h : s.pstate p = psHalted) : s.active p = false := by
  rw [State.active, h]
  rfl

theorem unload_spec (s : State) (p : Nat) : (unload s p).pstate p = psEmpty ∧ ((unload s p).part p).image = [] ∧
    (unload s p).rd R.CMP_PLAN_SEED p = 0 ∧ (unload s p).host = s.host := by
  have hpart (v : State) (f : Part → Part) : (((v.modPart p f).wr R.CMP_PLAN_STATE p psEmpty).wr R.CMP_PLAN_SEED p 0).part p = f (v.part p) :=
    part_modPart_same ..
  have himg (v : State) : (v.wr R.SEAL_BUDDY_STATE p bNone).part p = v.part p := rfl
  have hspare (v : State) : (v.wr R.SEAL_SPARE_STATE p 1).part p = v.part p := rfl
  unfold unload
  dsimp only
  split
  · refine ⟨?_, ?_, ?_, rfl⟩
    · simp (disch := decide) only [State.pstate, rd_wr_ne, rd_wr_same]
      rfl
    · rw [hspare, himg, hpart]
    · simp (disch := decide) only [rd_wr_ne, rd_wr_same]
      rfl
  · refine ⟨?_, ?_, ?_, rfl⟩
    · simp (disch := decide) only [State.pstate, rd_wr_ne, rd_wr_same]
      rfl
    · rw [himg, hpart]
    · simp (disch := decide) only [rd_wr_ne, rd_wr_same]
      rfl

end

theorem ringMark_way (s : State) (p : Nat) (r : TraceRec) : (ringMark s p r).host = s.host :=
  (ringMark_keeps Sub.rfl (Keeps.refl _ s)).host_eq (by decide)

/-- Settles O36: each command begins, and its effect leaves the fetched commands as they are. -/
theorem planCommands : Obligations.PlanCommands := by
  intro s m x p ends
  have hdone {op : Nat} {c : Instr} {t : State} {o : Nat × Nat × Nat} (h : mayBegin s m op = true) (hc : exec c s = .next (moverDone t m o.1 o.2.1 o.2.2))
      (ht : t.host = (begin_ s m).host) : ends c o := ⟨_, hc, outcome_of_begun h ht ..⟩
  have hbegin := begin_way s m
  refine ⟨fun h => hdone h (congrArg Host.Outcome.next (beginWith_may h _)) rfl, fun h => hdone h (congrArg Host.Outcome.next (beginWith_may h _)) rfl,
    fun ho => ?_, fun ho => ⟨fun h => hdone h (congrArg Host.Outcome.next (beginOwned_may h ho _)) (ringMark_way ..), fun h => ⟨fun hst => ?_, fun hst hrun hz => ?_,
      fun hst hrun hz => ?_⟩, fun h ha hres => ?_, fun h hst hrun hp => ?_⟩⟩
  · have hdeny {op : Nat} {c : Instr} {f : State → Cmd → Nat → State} (h : mayBegin s m op = true) (hc : exec c s = .next (beginOwned s m op f)) : ends c (7, 0x0702, 0) :=
      hdone h (hc.trans (congrArg Host.Outcome.next (beginOwned_denied h ho f))) rfl
    exact ⟨fun h => hdeny h rfl, fun h => hdeny h rfl, fun h => hdeny h rfl, fun h => hdeny h rfl⟩
  · refine hdone h (congrArg Host.Outcome.next ((beginOwned_may h ho _).trans (if_pos (.inl ?_)))) rfl
    rwa [hbegin.pstate_eq (by decide)]
  · have hgo := planRun_goes h ho hst hrun
    have hnamed := runNamed_way s m
    refine ⟨_, congrArg Host.Outcome.next (hgo.trans (tryRun_waits ((hnamed.zeroDone_eq (by decide) (by decide) (by decide) (by decide) p).trans hz))), ?_, ?_, ?_, ?_⟩
    · exact congrArg Part.run (part_modPart_same ..)
    · exact congrArg Part.limit (part_modPart_same ..)
    · exact (hnamed.pstate_eq (by decide) p).trans hst
    · obtain ⟨y, hy, hopen⟩ := begin_mover h
      exact (congrArg Mover.outcome (mover_of_find hy)).trans hopen
  · have hnamed := runNamed_way s m
    obtain ⟨hrunning, hstep⟩ := tryRun_goes (s := runNamed s m) (p := p) ((hnamed.pstate_eq (by decide) p).trans hst)
      (by rw [runNamed, part_modPart_same]; rfl) ((hnamed.zeroDone_eq (by decide) (by decide) (by decide) (by decide) p).trans hz)
    exact ⟨_, congrArg Host.Outcome.next (planRun_goes h ho hst hrun), hrunning, hstep.trans (by rw [hnamed.rd _ _ (by decide)])⟩
  · have hpart : (begin_ s m).part p = s.part p := hbegin.part_eq (by decide) p
    have hstop := runStop_later (s := begin_ s m) (p := p) 0 ((hbegin.active_eq (by decide) p).trans ha) (by rw [hpart]; exact hres)
    have heq : planStop s m = moverDone ((begin_ s m).modPart p fun x => { x with stop := true, runStatus := max x.runStatus 0 }) m 0 0
        (s.rd R.SEAL_LAST p) := by
      refine (beginOwned_may h ho _).trans ((if_neg fun e => ?_).trans ?_)
      · rw [hbegin.active_eq (by decide), ha] at e
        exact absurd e.1 (by decide)
      · rw [hstop, hbegin.rd _ _ (by decide)]
    have hway := moverDone_way ((begin_ s m).modPart p fun x => { x with stop := true, runStatus := max x.runStatus 0 }) m 0 0 (s.rd R.SEAL_LAST p)
    refine ⟨_, congrArg Host.Outcome.next heq, outcome_of_begun (t := (begin_ s m).modPart p _) h rfl .., ?_, ?_⟩
    · rw [hway.part_eq (by decide), part_modPart_same]
    · exact (hway.pstate_eq (by decide) p).trans (hbegin.pstate_eq (by decide) p)
  · have hpart : (begin_ s m).part p = s.part p := hbegin.part_eq (by decide) p
    have hhalt : (begin_ s m).pstate p = psHalted := (hbegin.pstate_eq (by decide) p).trans hst
    obtain ⟨hempty, himg, hseed, hhost⟩ := unload_spec (begin_ s m) p
    have hway := moverDone_way (unload (begin_ s m) p) m 0 0 0
    have heq : planUnload s m = moverDone (unload (begin_ s m) p) m 0 0 0 := by
      refine (beginOwned_may h ho _).trans ?_
      have hidle (c : Prop) [Decidable c] : (if c then runStop (begin_ s m) p 0 else begin_ s m) = begin_ s m := by
        rw [runStop_idle 0 (active_of_halted hhalt) (by rw [hpart]; exact hrun), ite_self]
      dsimp only
      rw [hidle]
      exact if_pos (.inr hhalt)
    refine ⟨_, congrArg Host.Outcome.next heq, outcome_of_begun h hhost .., ?_, ?_, ?_⟩
    · exact (hway.pstate_eq (by decide) p).trans hempty
    · rw [hway.part_eq (by decide), himg]
    · exact (hway.rd _ _ (by decide)).trans hseed

end Sys2Proof.Machine
end

section
/-! What requests to other chips and their ends carry along: relations of two states that the paths of a request keep, and one of
them, what a request of one fetched command leaves of another (R159, R190, R318). -/

namespace Sys2Proof.Machine

open Sys2Proof

/-! ### Relations that a request's path keeps -/

/-- A relation of two states that every part of a request's path keeps: changes outside the host interface, the requests
outstanding and the functions' entries, the ends of requests, and what is noted of the requests allowed. -/
structure ReqRel where
  rel : State → State → Prop
  ok : Inject → Prop
  refl : ∀ s, rel s s
  trans : ∀ {s t u}, rel s t → rel t u → rel s u
  keeps : ∀ {T s t}, Keeps T s t → T.contains 12 = false → T.contains 14 = false → (T.contains 0x5001 || T.contains 31) = false →
    t.me = s.me → rel s t
  out : ∀ {s t}, t.rst.outstanding = s.rst.outstanding → t.rst.remote = s.rst.remote → t.host = s.host → t.od = s.od → t.me = s.me → rel s t
  retarget : ∀ s rid dst (p : Packet), rel s (s.modRst fun r => { r with
    outstanding := r.outstanding.map fun e => if e.1 = rid then (e.1, { e.2 with chip := dst, pkt := p }) else e })
  failRid : ∀ s rid status reason, rel s (failRid s rid status reason)
  endRid : ∀ s rid, rel s (endRid s rid)
  note : ∀ s i p, ok i → rel s (noteOut s i p)
  denied : ∀ s i, ok i → rel s (injectDenied s i)

/-- Two states in such a relation. -/
structure Along (C : ReqRel) (s t : State) : Prop where
  holds : C.rel s t

section
variable {C : ReqRel} {s t u : State}

theorem Along.refl (C : ReqRel) (s : State) : Along C s s := ⟨C.refl s⟩

theorem Along.trans (h : Along C s t) (h' : Along C t u) : Along C s u := ⟨C.trans h.holds h'.holds⟩

theorem Along.of_keeps {T : List Nat} (h : Keeps T s t) (h12 : T.contains 12 = false) (h14 : T.contains 14 = false)
    (hfn : (T.contains 0x5001 || T.contains 31) = false) (h11 : T.contains 11 = false) : Along C s t :=
  ⟨C.keeps h h12 h14 hfn (by rw [State.me, State.me, h.router_eq h11])⟩

/-- A change of the router that leaves the chip's number. -/
theorem Along.of_router {T : List Nat} (h : Keeps T s t) (h12 : T.contains 12 = false) (h14 : T.contains 14 = false)
    (hfn : (T.contains 0x5001 || T.contains 31) = false) (hme : t.me = s.me) : Along C s t := ⟨C.keeps h h12 h14 hfn hme⟩

theorem Along.of_out (ho : t.rst.outstanding = s.rst.outstanding) (hr : t.rst.remote = s.rst.remote) (hh : t.host = s.host) (hod : t.od = s.od)
    (hme : t.me = s.me) : Along C s t := ⟨C.out ho hr hh hod hme⟩

theorem Along.each {α : Type} {l : List α} {f : State → α → State} (hf : ∀ v, ∀ x ∈ l, Along C v (f v x)) : Along C s (s.each l f) := by
  induction l generalizing s with
  | nil => exact .refl C s
  | cons x rest ih =>
    exact (hf s x (List.mem_cons_self ..)).trans (ih fun v y hy => hf v y (List.mem_cons_of_mem _ hy))

theorem Along.ite {c : Prop} [Decidable c] {a b : State} (ha : c → Along C s a) (hb : ¬ c → Along C s b) : Along C s (if c then a else b) := by
  split
  · exact ha ‹_›
  · exact hb ‹_›

/-- A counter of another index than the functions' entries. -/
theorem Along.of_count {r : Reg} (h : ([regPlace r].contains 0x5001 || [regPlace r].contains 31) = false) (h12 : [regPlace r].contains 12 = false)
    (h14 : [regPlace r].contains 14 = false) (h11 : [regPlace r].contains 11 = false) (i n : Nat) : Along C s (s.bumpSat r i n) :=
  .of_keeps (bumpSat_keeps Sub.rfl (Keeps.refl _ s)) h12 h14 h h11

theorem failRid_along (rid status reason : Nat) : Along C s (failRid s rid status reason) := ⟨C.failRid ..⟩

theorem endRid_along (rid : Nat) : Along C s (endRid s rid) := ⟨C.endRid ..⟩

theorem noteOut_along {i : Inject} (h : C.ok i) (p : Packet) : Along C s (noteOut s i p) := ⟨C.note _ _ _ h⟩

theorem retarget_along (rid dst : Nat) (p : Packet) : Along C s (s.modRst fun r => { r with
    outstanding := r.outstanding.map fun e => if e.1 = rid then (e.1, { e.2 with chip := dst, pkt := p }) else e }) := ⟨C.retarget ..⟩

theorem injectDenied_along {i : Inject} (h : C.ok i) : Along C s (injectDenied s i) := ⟨C.denied _ _ h⟩

/-! ### Windows and shapers (R157, R161) -/

theorem forward_along (q : QPacket) (b : Bool) : Along C s (forward s q b) := .of_keeps (forward_keeps Sub.rfl (Keeps.refl _ s)) rfl rfl rfl rfl

theorem modRouter_along (f : Router → Router) (hf : (f s.router).chipId = s.router.chipId) : Along C s (s.modRouter f) := .of_out rfl rfl rfl rfl hf

theorem modSrc_along (k : Nat) (f : SrcCtx → SrcCtx) : Along C s (modSrc s k f) := .of_router (modSrc_keeps Sub.rfl (Keeps.refl _ s)) rfl rfl rfl rfl

theorem forward_keep_router (s : State) (q : QPacket) (hop : Bool) : (forward s q hop).router = s.router :=
  (forward_keeps Sub.rfl (Keeps.refl _ s)).router_eq rfl

theorem windowSend_me (s : State) (w : Waiting) : (windowSend s w).me = s.me := by
  unfold windowSend
  dsimp only
  generalize (if mapHas s.router.src (ctxKey w.pkt.dst w.pkt.vc) then mapGet {} s.router.src (ctxKey w.pkt.dst w.pkt.vc)
    else { incarn := s.nowMs, createdMs := s.nowMs, lastNs := s.now }) = c
  split
  · rw [State.me, forward_keep_router]
    rfl
  · rfl

theorem windowSend_along (w : Waiting) : Along C s (windowSend s w) := .of_router (windowSend_keeps Sub.rfl (Keeps.refl _ s)) rfl rfl rfl (windowSend_me s w)

theorem depart_along (w : Waiting) : Along C s (depart s w) := by
  unfold depart
  refine .ite (fun _ => forward_along ..) fun _ => ?_
  split
  · exact failRid_along ..
  next dst _ =>
    dsimp only
    have hs1 : Along C s (if dst = w.pkt.dst then s else s.modRst fun r => { r with
        outstanding := r.outstanding.map fun e => if e.1 = w.pkt.rid then (e.1, { e.2 with chip := dst, pkt := { w.pkt with dst := dst } }) else e }) :=
      .ite (fun _ => .refl C s) fun _ => retarget_along ..
    exact .ite (fun _ => hs1.trans (modRouter_along _ rfl)) fun _ => hs1.trans (windowSend_along _)

theorem shpRefill_me (s : State) (f : Nat) : (shpRefill s f).me = s.me := by
  unfold shpRefill
  dsimp only
  split <;> rfl

theorem shaperDecide_along (f : Nat) : Along C s (shaperDecide s f) := by
  unfold shaperDecide
  split
  · exact .refl C s
  · dsimp only
    have hrefill : Along C s (shpRefill s f) := .of_router (shpRefill_keeps Sub.rfl (Keeps.refl _ s)) rfl rfl rfl (shpRefill_me s f)
    refine .ite (fun _ => hrefill.trans (.of_count rfl rfl rfl rfl ..)) fun _ => hrefill.trans (Along.trans (Along.trans ?_ (modRouter_along _ rfl)) (depart_along _))
    exact .ite (fun _ => .refl C _) fun _ => .of_keeps (wrI_keeps Sub.rfl (Keeps.refl _ _)) rfl rfl rfl rfl

theorem shape_along (w : Waiting) : Along C s (shape s w) := by
  unfold shape
  dsimp only
  exact .ite (fun _ => (modRouter_along _ rfl).trans (shaperDecide_along _)) fun _ => modRouter_along _ rfl

theorem handOver_along (w : Waiting) : Along C s (handOver s w) := .ite (fun _ => shape_along w) fun _ => depart_along w

theorem windowFill_along (fuel k : Nat) : Along C s (windowFill fuel s k) := by
  induction fuel generalizing s with
  | zero => exact .refl C s
  | succ n ih =>
    unfold windowFill
    dsimp only
    split
    · exact .refl C s
    · exact .ite (fun _ => ((modSrc_along ..).trans (depart_along _)).trans ih) fun _ => .refl C s

theorem windowAck_along (peer vc cum map_ incarn : Nat) : Along C s (windowAck s peer vc cum map_ incarn) := by
  unfold windowAck
  dsimp only
  split
  · exact .refl C s
  · exact .ite (fun _ => .refl C s) fun _ => ((modSrc_along ..).trans
      (.each fun v e _ => .ite (fun _ => endRid_along _) fun _ => .refl C v)).trans (windowFill_along ..)

theorem windowResync_along (peer vc incarn : Nat) : Along C s (windowResync s peer vc incarn) := by
  unfold windowResync
  dsimp only
  split
  · exact .refl C s
  · exact .ite (fun _ => .refl C s) fun _ => ((Along.of_keeps (keeps_record ..) rfl rfl rfl rfl).trans (modSrc_along ..)).trans
      (.each fun v e _ => handOver_along _)

theorem ackRx_along (p : Packet) : Along C s (ackRx s p) := .ite (fun _ => windowResync_along ..) fun _ => windowAck_along ..

/-! ### Packets taken here (R109, R169, R317) -/

theorem dropLate_along (unit gen chip : Nat) : Along C s (dropLate s unit gen chip) := by
  unfold dropLate
  dsimp only
  refine .ite (fun _ => .of_count rfl rfl rfl rfl ..) fun _ => Along.trans (t := (s.bumpSat R.RST_LATE 0 1).record 0xC011 uFcc [(2, unit), (1, gen), (4, chip)])
    (.of_keeps (T := [16, 0x2021, 0x7002]) (record_keeps (.of rfl Sub.rfl) (bumpSat_keeps (.of rfl Sub.rfl) (Keeps.refl _ s))) rfl rfl rfl rfl) (.of_out rfl rfl rfl rfl rfl)

theorem memRequest_along (r : MemReq) : Along C s (memRequest s r) := .of_keeps (memRequest_keeps Sub.rfl (Keeps.refl _ s)) rfl rfl rfl rfl

theorem ejectPlanned_along (p : Packet) (data : List Byte) : Along C s (ejectPlanned s p data) := by
  unfold ejectPlanned
  dsimp only
  refine .ite (fun _ => dropLate_along ..) fun _ => .ite (fun _ => .of_count rfl rfl rfl rfl ..) fun _ => ?_
  split
  · exact .of_keeps (denyReq_keeps Sub.rfl (Keeps.refl _ s)) rfl rfl rfl rfl
  · have hwrite {rs : List (Nat × Nat)} : Keeps [2, 3, 5, 6, 16, 0x2020, 0x2021, 0x3021, 0x6101, 0x6102, 0x7002] s
        (planWriteAll s uInject rs data p.poison) := planWriteAll_keeps (.of rfl Sub.rfl) (Keeps.refl _ s)
    split
    · exact .ite (fun _ => .of_keeps (arrive_keeps (.of rfl Sub.rfl) hwrite) rfl rfl rfl rfl) fun _ => .of_keeps hwrite rfl rfl rfl rfl
    · exact .of_keeps hwrite rfl rfl rfl rfl

theorem ejectWrite_along (p : Packet) : Along C s (ejectWrite s p) := .of_keeps (ejectWrite_keeps Sub.rfl (Keeps.refl _ s)) rfl rfl rfl rfl

theorem sendReply_along (p : Packet) (gen : Nat) (data : List Byte) (bad : Bool) : Along C s (sendReply s p gen data bad) := by
  unfold sendReply
  dsimp only
  exact .ite (fun _ => .of_out rfl rfl rfl rfl rfl) fun _ => handOver_along _

theorem ejectRead_along (p : Packet) (ecc : List EccHit) : Along C s (ejectRead s p ecc) := by
  unfold ejectRead
  dsimp only
  have hgate (u g c r : Nat) : Along C s (gatekeep s u false g c r).1 := .of_keeps (gatekeep_keeps Sub.rfl (Keeps.refl _ s)) rfl rfl rfl rfl
  refine .ite (fun _ => hgate ..) fun _ => ?_
  split
  · exact (hgate ..).trans (.of_keeps (replyDenied_keeps Sub.rfl (Keeps.refl _ _)) rfl rfl rfl rfl)
  · exact .ite (fun _ => (hgate ..).trans (memRequest_along _)) fun _ =>
      ((hgate ..).trans (.of_keeps (readRange_keeps Sub.rfl (Keeps.refl _ _)) rfl rfl rfl rfl)).trans (sendReply_along ..)

theorem ejectCast_along (p : Packet) : Along C s (ejectCast s p) := by
  unfold ejectCast
  dsimp only
  exact .ite (fun _ => ejectPlanned_along ..) fun _ => .ite (fun _ => .of_keeps (freezeArm_keeps Sub.rfl (Keeps.refl _ s)) rfl rfl rfl rfl) fun _ =>
    .ite (fun _ => memRequest_along _) fun _ => ejectWrite_along _

theorem fccTake_along (p : Packet) : Along C s (fccTake s p) := by
  unfold fccTake
  dsimp only
  have hdrop : Keeps [6, 16, 0x4110, 0x4140, 0x7002] s ((dropPkt s uFcc 8 p).record 0x6047 uFcc [(4, p.src), (1, p.kind)]) :=
    record_keeps (.of rfl Sub.rfl) (dropPkt_keeps (.of rfl Sub.rfl) (Keeps.refl _ s))
  refine .ite (fun _ => .ite (fun _ => (Along.of_keeps hdrop rfl rfl rfl rfl).trans (.of_count rfl rfl rfl rfl ..)) fun _ => .of_keeps hdrop rfl rfl rfl rfl) fun _ => ?_
  exact .ite (fun _ => .of_count rfl rfl rfl rfl ..) fun _ => .ite (fun _ => ejectCast_along _) fun _ => .of_out rfl rfl rfl rfl rfl

theorem deliverPkt_along (p : Packet) (ecc : List EccHit) : Along C s (deliverPkt s p ecc) := by
  unfold deliverPkt
  exact .ite (fun _ => fccTake_along p) fun _ => .ite (fun _ => ejectCast_along p) fun _ => .ite (fun _ => ejectPlanned_along ..) fun _ =>
    .ite (fun _ => ejectWrite_along p) fun _ => .ite (fun _ => ejectRead_along ..) fun _ => .ite (fun _ => ackRx_along p) fun _ => .of_out rfl rfl rfl rfl rfl

theorem castRoute_along (q : QPacket) (ecc : List EccHit) : Along C s (castRoute s q ecc) := by
  have hcopy {v : State} (port : Nat) (p : Packet) : Along C v (castCopy v port p) := .of_keeps (castCopy_keeps Sub.rfl (Keeps.refl _ v)) rfl rfl rfl rfl
  have hmaybe {v : State} (c : Prop) [Decidable c] (port : Nat) (p : Packet) : Along C v (if c then castCopy v port p else v) :=
    .ite (fun _ => hcopy ..) fun _ => .refl C v
  unfold castRoute
  dsimp only
  refine .ite (fun _ => forward_along ..) fun _ => ?_
  exact ((((deliverPkt_along ..).trans (.of_keeps (releasePkt_keeps Sub.rfl (Keeps.refl _ _)) rfl rfl rfl rfl)).trans (hmaybe ..)).trans
    (hmaybe ..)).trans (hmaybe ..)

/-! ### Requests sent (R159, R166) -/

theorem inject_along {i : Inject} (h : C.ok i) : Along C s (inject s i) := by
  unfold inject
  refine .ite (fun _ => .refl C s) fun _ => ?_
  split
  · exact injectDenied_along h
  · dsimp only
    refine .ite (fun _ => castRoute_along ..) fun _ => .ite (fun _ => ?_) fun _ => .ite (fun _ => modRouter_along _ rfl) fun _ =>
      .ite (fun _ => (noteOut_along h _).trans (handOver_along _)) fun _ => (noteOut_along h _).trans (forward_along ..)
    have htaken {p : Packet} : Along C s (deliverPkt (noteOut s i p) p i.ecc) := (noteOut_along h p).trans (deliverPkt_along ..)
    exact .ite (fun _ => htaken.trans (endRid_along _)) fun _ => htaken

theorem serveReads_along (h : ∀ i ∈ s.router.reads, C.ok i) : Along C s (serveReads s) :=
  (modRouter_along _ rfl).trans (.each fun _ i hi => inject_along (h i hi))

end

/-! ### A fetched command left alone -/

section
variable {m : Nat} {s t u : State}

/-- No identifier is outstanding for a fetched command. -/
def NoRids (m : Nat) (s : State) : Prop := ∀ e ∈ s.rst.outstanding, e.2.mover ≠ some m

/-- A change that leaves a fetched command for which no identifier is outstanding, and makes none outstanding for it. -/
structure Aloof (m : Nat) (s t : State) : Prop where
  keep : NoRids m s → NoRids m t ∧ mapFind t.host.movers m = mapFind s.host.movers m

theorem Aloof.refl (m : Nat) (s : State) : Aloof m s s := ⟨fun h => ⟨h, rfl⟩⟩

theorem Aloof.trans (h : Aloof m s t) (h' : Aloof m t u) : Aloof m s u := ⟨fun hs =>
  have ⟨ht, hf⟩ := h.keep hs
  have ⟨hu, hf'⟩ := h'.keep ht
  ⟨hu, hf'.trans hf⟩⟩

theorem Aloof.of_keeps {T : List Nat} (h : Keeps T s t) (h12 : T.contains 12 = false) (h14 : T.contains 14 = false) : Aloof m s t :=
  ⟨fun hs => ⟨by rw [NoRids, h.rst_eq h14]; exact hs, by rw [h.host_eq h12]⟩⟩

theorem Aloof.of_out (ho : t.rst.outstanding = s.rst.outstanding) (hh : t.host = s.host) : Aloof m s t :=
  ⟨fun hs => ⟨by rw [NoRids, ho]; exact hs, by rw [hh]⟩⟩

theorem Aloof.ite {c : Prop} [Decidable c] {a b : State} (ha : c → Aloof m s a) (hb : ¬ c → Aloof m s b) : Aloof m s (if c then a else b) := by
  split
  · exact ha ‹_›
  · exact hb ‹_›

/-! ### Ends of requests (R318) -/

theorem mapFind_mem {α : Type} {l : Map α} {k : Nat} {v : α} (h : mapFind l k = some v) : (k, v) ∈ l := by
  induction l with
  | nil => simp [mapFind] at h
  | cons e rest ih =>
    obtain ⟨k', v'⟩ := e
    simp only [mapFind] at h
    split at h
    next hk => simp_all
    next => exact List.mem_cons_of_mem _ (ih h)

theorem mover_modMover_other {n : Nat} (f : Mover → Mover) (h : m ≠ n) : mapFind (modMover s n f).host.movers m = mapFind s.host.movers m := by
  unfold modMover
  split
  · rfl
  · exact mapFind_mapPut_other _ _ h

theorem modMover_aloof {n : Nat} (f : Mover → Mover) (h : m ≠ n) : Aloof m s (modMover s n f) :=
  ⟨fun hs => ⟨by
    rw [NoRids, (modMover_keeps (T := [12]) Sub.rfl (Keeps.refl _ s)).rst_eq (by decide)]
    exact hs, mover_modMover_other f h⟩⟩

theorem moverFail_aloof {n : Nat} (h : m ≠ n) (status reason result : Nat) : Aloof m s (moverFail s n status reason result) :=
  (Aloof.of_keeps (endLoad_keeps Sub.rfl (Keeps.refl _ s)) rfl rfl).trans (modMover_aloof _ h)

theorem ridMover_ne (hs : NoRids m s) {rid n : Nat} (h : ridMover s rid = some n) : m ≠ n := by
  rintro rfl
  obtain ⟨o, ho, hm⟩ := Option.bind_eq_some_iff.1 h
  exact hs (rid, o) (mapFind_mem ho) hm

theorem retireMover_aloof (n : Nat) : Aloof m s (retireMover s n) :=
  ⟨fun hs => ⟨fun e he => hs e (List.mem_filter.1 he).1, rfl⟩⟩

theorem dropRid_aloof (rid : Nat) : Aloof m s (s.modRst fun r => { r with outstanding := mapDel r.outstanding rid }) :=
  ⟨fun hs => ⟨fun e he => hs e (List.mem_filter.1 he).1, rfl⟩⟩

theorem failRid_aloof (rid status reason : Nat) : Aloof m s (failRid s rid status reason) := by
  constructor
  intro hs
  unfold failRid
  split
  · exact ((retireMover_aloof _).trans (moverFail_aloof (ridMover_ne hs ‹_›) ..)).keep hs
  · exact (dropRid_aloof rid).keep hs

theorem endRid_aloof (rid : Nat) : Aloof m s (endRid s rid) := by
  constructor
  intro hs
  unfold endRid
  split
  · exact ⟨hs, rfl⟩
  next o ho =>
    dsimp only
    split
    · exact (dropRid_aloof rid).keep hs
    next n hn =>
      have hne : m ≠ n := fun e => hs (rid, o) (mapFind_mem ho) (by rw [hn, e])
      exact ((dropRid_aloof rid).trans (modMover_aloof _ hne)).keep hs

theorem noteOut_aloof {i : Inject} (h : i.mover ≠ some m) (p : Packet) : Aloof m s (noteOut s i p) := by
  refine .ite (fun _ => ⟨fun hs => ⟨fun e he => ?_, rfl⟩⟩) fun _ => .refl m s
  rcases mem_mapIns.1 he with rfl | he
  · exact h
  · exact hs e (List.mem_filter.1 he).1

/-- The requests of an identifier that go to another chip now. -/
theorem retarget_aloof (rid dst : Nat) (p : Packet) : Aloof m s (s.modRst fun r => { r with
    outstanding := r.outstanding.map fun e => if e.1 = rid then (e.1, { e.2 with chip := dst, pkt := p }) else e }) := by
  refine ⟨fun hs => ⟨fun e he => ?_, rfl⟩⟩
  obtain ⟨e', he', rfl⟩ := List.mem_map.1 he
  split
  · exact hs e' he'
  · exact hs e' he'

theorem injectDenied_aloof {i : Inject} (h : i.mover ≠ some m) : Aloof m s (injectDenied s i) := by
  unfold injectDenied
  dsimp only
  have hrec : Aloof m s (s.record 0x5020 (targetUnit i.offset) [(2, uInject), (8, i.offset)]) := .of_keeps (keeps_record ..) rfl rfl
  have hs2 (c : Prop) [Decidable c] (v : State) : Aloof m v (if c then doNotSeal v i.spart vPlanErr else v) :=
    .ite (fun _ => .of_keeps (doNotSeal_keeps Sub.rfl (Keeps.refl _ v)) rfl rfl) fun _ => .refl m v
  split
  next n hn => exact (hrec.trans (hs2 ..)).trans (moverFail_aloof (fun e => h (by rw [hn, e])) ..)
  next => exact hrec.trans (hs2 ..)

/-- The requests of other commands leave a fetched command alone. -/
def aloofRel (m : Nat) : ReqRel where
  rel := Aloof m
  ok := fun i => i.mover ≠ some m
  refl := .refl m
  trans := .trans
  keeps := fun h h12 h14 _ _ => .of_keeps h h12 h14
  out := fun ho _ hh _ _ => .of_out ho hh
  retarget := fun _ => retarget_aloof
  failRid := fun _ => failRid_aloof
  endRid := fun _ => endRid_aloof
  note := fun _ _ p h => noteOut_aloof h p
  denied := fun _ _ h => injectDenied_aloof h

/-- A fetched command given up stays as it was, and no identifier is outstanding for it (R190). -/
theorem abandon_mover (s : State) (m : Nat) : mapFind (abandon s m).host.movers m = mapFind s.host.movers m := by
  refine ((serveReads_along (C := aloofRel m) fun i hi => ?_).holds.keep fun e he => ?_).2
  · simpa [aloofRel] using (List.mem_filter.1 hi).2
  · simpa using (List.mem_filter.1 he).2

end

end Sys2Proof.Machine
end

section
/-! Fetching commands, their completions, their timers and coalesced interrupts (R183, R188, R190, R191). -/

namespace Sys2Proof.Machine

open Sys2Proof

/-! ### Fetching (R183) -/

section
variable {s : State} {f g k : Nat}

/-- The command of an entry at the head of a queue. -/
def headCmd (s : State) (f g : Nat) : Mover :=
  let c := cmdOf (memRead s.host.mem ((s.queue g).sqBase + 64 * (s.queue g).sqHead) 64)
  { queue := g, func := f, cmd := c, outcome := if cmdBad c then some (9, 0x0701, 0) else none }

/-- A queue with the entry at its head fetched. -/
def fetched (s : State) (f g : Nat) : State :=
  (modQueue s g fun q => { q with sqHead := (q.sqHead + 1) % q.sqSize, inflight := q.inflight + 1 }).modHost
    fun h => { h with movers := mapPut h.movers h.order (headCmd s f g), order := h.order + 1 }

theorem fetchN_succ (n : Nat) (s : State) : fetchN (n + 1) s f g = fetchN n (fetched s f g) f g := rfl

theorem fetched_queue (s : State) (f g : Nat) :
    (fetched s f g).queue g = { s.queue g with sqHead := ((s.queue g).sqHead + 1) % (s.queue g).sqSize, inflight := (s.queue g).inflight + 1 } :=
  queue_modQueue_same s g fun q => { q with sqHead := (q.sqHead + 1) % q.sqSize, inflight := q.inflight + 1 }

/-- Entries fetched are counted among the commands fetched, and leave host memory and every command fetched before them. -/
theorem fetchN_host (k : Nat) (s : State) : (fetchN k s f g).host.order = s.host.order + k ∧ (fetchN k s f g).host.mem = s.host.mem ∧
    ∀ n < s.host.order, mapFind (fetchN k s f g).host.movers n = mapFind s.host.movers n := by
  induction k generalizing s with
  | zero => exact ⟨rfl, rfl, fun _ _ => rfl⟩
  | succ k ih =>
    obtain ⟨ho, hm, hf⟩ := ih (fetched s f g)
    have hone : (fetched s f g).host.order = s.host.order + 1 := rfl
    refine ⟨?_, hm, fun n hn => (hf n (by omega)).trans (mapFind_mapPut_other _ _ (by show n ≠ s.host.order; omega))⟩
    rw [fetchN_succ, ho, hone]
    omega

/-- Entries fetched move their queue's head past them. -/
theorem fetchN_queue (k : Nat) (s : State) : (fetchN (k + 1) s f g).queue g = { s.queue g with
    sqHead := ((s.queue g).sqHead + (k + 1)) % (s.queue g).sqSize, inflight := (s.queue g).inflight + (k + 1) } := by
  induction k generalizing s with
  | zero => exact fetched_queue s f g
  | succ k ih =>
    rw [fetchN_succ, ih, fetched_queue]
    simp only [QCtx.mk.injEq, true_and, and_true, QCtx.sqSize, Nat.mod_add_mod]
    exact ⟨by rw [Nat.add_assoc, Nat.add_comm 1], by omega⟩

theorem fetchN_first (k : Nat) (s : State) : mapFind (fetchN (k + 1) s f g).host.movers s.host.order = some (headCmd s f g) :=
  ((fetchN_host k (fetched s f g)).2.2 _ (by show s.host.order < s.host.order + 1; omega)).trans (mapFind_mapPut_same ..)

theorem cyclicFrom_single (a lo : Nat) : cyclicFrom [a] lo = some a := by
  unfold cyclicFrom
  by_cases h : lo ≤ a <;> simp [sortNat, insNat, h]

/-- The one queue with something to fetch has its turn next, where no turn is under way. -/
theorem sqFetch_single {j : Nat} (hl : fetchable s = [(f, j, g)]) (hg : s.qbase f + j = g) (ht : s.host.rrTurn = none) :
    execSqFetch s = .next (fetchN (fetchNow (s.queue g) (s.queue g).turn) (s.modHost fun h =>
      { h with rrFunc := f + 1, rrQueue := mapPut h.rrQueue f (j + 1), rrTurn := some (g, fetchNow (s.queue g) (s.queue g).turn) }) f g) := by
  unfold execSqFetch
  simp only [hl, ht, List.map_cons, List.map_nil, cyclicFrom_single, beq_self_eq_true, List.filter_cons_of_pos, List.filter_nil, hg]

end

/-! ### Completions (R188, R191, R192) -/

theorem memRead_memWrite {l : List Host.Cell} (a : Nat) (bs : List Byte) (h : Memory.wf l) : memRead (memWrite l a bs) a bs.length = bs := by
  refine List.ext_getElem? fun j => ?_
  by_cases hj : j < bs.length
  · rw [memRead, mapSlice_get 0 a _ j ((mapWf_iff 0 _).1 (memWrite_wf a bs h)).1 hj, memWrite,
      mapGet_mapSplice_in 0 l a bs (a + j) (by omega) (by omega), Nat.add_sub_cancel_left, List.getElem?_eq_getElem hj]
    rfl
  · rw [List.getElem?_eq_none (by simpa [memRead] using hj), List.getElem?_eq_none (by omega)]

section
variable {s t u : State} {f g : Nat}

/-- Interrupts and the drain of a queue leave host memory, the fetched commands and the queue's rings. -/
structure RingsKept (g : Nat) (s t : State) : Prop where
  mem      : t.host.mem = s.host.mem
  movers   : t.host.movers = s.host.movers
  cqTail   : (t.queue g).cqTail = (s.queue g).cqTail
  inflight : (t.queue g).inflight = (s.queue g).inflight
  rd       : ∀ i, t.rd R.HOST_FN_CMDS i = s.rd R.HOST_FN_CMDS i

theorem RingsKept.refl (g : Nat) (s : State) : RingsKept g s s := ⟨rfl, rfl, rfl, rfl, fun _ => rfl⟩

theorem RingsKept.trans (h : RingsKept g s t) (h' : RingsKept g t u) : RingsKept g s u :=
  ⟨h'.mem.trans h.mem, h'.movers.trans h.movers, h'.cqTail.trans h.cqTail, h'.inflight.trans h.inflight, fun i => (h'.rd i).trans (h.rd i)⟩

theorem msix_rings (v : Nat) : RingsKept g s (msix s f v) := by
  unfold msix
  split <;> exact ⟨rfl, rfl, rfl, rfl, fun _ => rfl⟩

theorem modQueue_rings {c : QCtx → QCtx} (h1 : (c (s.queue g)).cqTail = (s.queue g).cqTail)
    (h2 : (c (s.queue g)).inflight = (s.queue g).inflight) : RingsKept g s (modQueue s g c) :=
  ⟨rfl, rfl, by rw [queue_modQueue_same, h1], by rw [queue_modQueue_same, h2], fun _ => rfl⟩

theorem signal_rings : RingsKept g s (signal s f g) := by
  unfold signal
  dsimp only
  split_ifs
  · exact msix_rings _
  · exact (modQueue_rings rfl rfl).trans (msix_rings _)
  · exact modQueue_rings rfl rfl

theorem record_rings (code source : Nat) (fs : List (Nat × Nat)) : RingsKept g s (s.record code source fs) :=
  ⟨by rw [record_host], by rw [record_host], by rw [queue_record], by rw [queue_record], fun i => rd_record _ _ _ _ _ i (by decide)⟩

theorem drained_rings : RingsKept g s (drained s f g) := by
  unfold drained queueDone
  dsimp only
  split
  · exact ((modQueue_rings rfl rfl).trans (record_rings ..)).trans (msix_rings _)
  · exact .refl g s

theorem invsDone_rings : RingsKept g s (invsDone s) := ⟨rfl, rfl, rfl, rfl, fun _ => rfl⟩

/-- A queue's completion entry written and its command gone, before the interrupt. -/
def entryPut (s : State) (m : Nat) (x : Mover) (status reason result : Nat) : State :=
  (modQueue (s.modHost fun h =>
    { h with
      mem := memWrite h.mem ((s.queue x.queue).cqBase + 16 * (s.queue x.queue).cqTail) (cqEntry (s.queue x.queue) x.cmd status reason result),
      movers := mapDel h.movers m }) x.queue fun q =>
    { q with
      cqTail := ((s.queue x.queue).cqTail + 1) % (s.queue x.queue).cqSize,
      phase := if ((s.queue x.queue).cqTail + 1) % (s.queue x.queue).cqSize = 0 then !q.phase else q.phase, inflight := q.inflight - 1,
      disabledCmds := q.disabledCmds + b2n (status == 4) }).bumpSat R.HOST_FN_CMDS x.func 1

/-- The completion of a finished command: its record where the reason is one of commands, its entry, and what the queue does then. -/
theorem complete_eq {m status reason result : Nat} {x : Mover} (hx : mapFind s.host.movers m = some x)
    (ho : x.outcome = some (status, reason, result)) : ∃ v, v.host = s.host ∧ (∀ i, v.rd R.HOST_FN_CMDS i = s.rd R.HOST_FN_CMDS i) ∧
      RingsKept x.queue (entryPut v m x status reason result) (complete s m) := by
  have hq {v : State} (h : v.host = s.host) : v.queue x.queue = s.queue x.queue := queue_congr s h _
  have hrest (v : State) (c : Prop) [Decidable c] : RingsKept x.queue v (invsDone (drained (if c then signal v x.func x.queue else v) x.func x.queue)) := by
    refine RingsKept.trans (RingsKept.trans ?_ drained_rings) invsDone_rings
    split
    · exact signal_rings
    · exact .refl _ v
  by_cases h7 : reason / 256 = 7
  · have hrec := recordL_keeps (code := 0x7012) (source := uFunc x.func) (fs := [(2, s.qName x.func x.queue), (2, x.cmd.cid), (1, status), (2, reason)])
      (layer := some (x.cmd.layer, x.cmd.operator)) Sub.rfl (Keeps.refl _ s)
    refine ⟨_, hrec.host_eq (by decide), fun i => hrec.rd _ i (by decide), ?_⟩
    unfold complete
    simp only [hx, ho, if_pos h7, entryPut, hq (hrec.host_eq (by decide))]
    exact hrest ..
  · refine ⟨s, rfl, fun _ => rfl, ?_⟩
    unfold complete
    simp only [hx, ho, if_neg h7]
    exact hrest ..

theorem entryPut_queue (m : Nat) (x : Mover) (status reason result : Nat) : (entryPut s m x status reason result).queue x.queue = { s.queue x.queue with
    cqTail := ((s.queue x.queue).cqTail + 1) % (s.queue x.queue).cqSize,
    phase := if ((s.queue x.queue).cqTail + 1) % (s.queue x.queue).cqSize = 0 then !(s.queue x.queue).phase else (s.queue x.queue).phase,
    inflight := (s.queue x.queue).inflight - 1, disabledCmds := (s.queue x.queue).disabledCmds + b2n (status == 4) } := by
  rw [entryPut, queue_bumpSat, queue_modQueue_same]
  rfl

theorem length_cqEntry (q : QCtx) (c : Cmd) (status reason result : Nat) : (cqEntry q c status reason result).length = 16 := by
  simp [cqEntry]

end

/-! ### Timers (R190) -/

/-- A command whose timer has run gives up its requests and ends. -/
theorem hostCmdTimeout_expires {s : State} {m : Nat} {x : Mover} {d : Int} (hx : mapFind s.host.movers m = some x) (hd : x.deadline = some d)
    (ho : x.outcome = none) (hdue : d ≤ s.now) (hheld : timerHeld s m x = false) :
    Does (.hostCmdTimeout m) s fun t => (t.mover m).outcome = some (1, 0, 0) := by
  have heq : execHostCmdTimeout m s = .next (moverFail (abandon (s.recordL 0x7013 (uFunc x.func)
      [(2, s.qName x.func x.queue), (2, x.cmd.cid), (1, x.cmd.opcode)] (some (x.cmd.layer, x.cmd.operator))) m) m 1 0 0) := by
    unfold execHostCmdTimeout
    simp only [hx, hd]
    exact if_neg (by simp [ho, hdue, hheld])
  refine ⟨_, heq, moverDone_outcome (x := x) ?_ ho ..⟩
  rw [(endLoad_keeps Sub.rfl (Keeps.refl _ _)).host_eq (by decide), abandon_mover,
    (recordL_keeps Sub.rfl (Keeps.refl _ s)).host_eq (by decide), hx]

theorem mem_addNew {α : Type} [DecidableEq α] (l : List α) (x : α) : x ∈ addNew l x := by
  unfold addNew
  split
  · assumption
  · exact List.mem_append_right _ (List.mem_singleton_self x)

/-! ### Coalesced interrupts (R191) -/

section
variable {s : State} {f g : Nat}

theorem coalesce_due (hf : s.funcOf g = some f) (hu : (s.queue g).unsignalled ≠ 0) (h : (s.queue g).firstNs + (1000 * (s.queue g).coalUs : Nat) ≤ s.now) :
    execCoalesceTimeout g s = .next (msix (modQueue s g fun q => { q with unsignalled := 0 }) f (s.queue g).vector) := by
  unfold execCoalesceTimeout
  simp only [hf]
  exact if_neg (by omega)

theorem coalesce_early (hf : s.funcOf g = some f) (h : s.now < (s.queue g).firstNs + (1000 * (s.queue g).coalUs : Nat)) :
    execCoalesceTimeout g s = .next s := by
  unfold execCoalesceTimeout
  simp only [hf]
  exact if_pos (.inr h)

theorem msix_masked {v : Nat} (h : s.masked f v = true) : msix s f v = s.modHost fun h => { h with pba := addNew h.pba (f, v) } := if_pos h

theorem msix_sent {v : Nat} (h : s.masked f v = false) : msix s f v = s.emit (.msix f v) := if_neg (by simp [h])

end

/-- Settles O35: entries are fetched one after another, a completion writes its entry before its interrupt, and a command given up stays as it
was until its timeout ends it. -/
theorem fetchAndComplete : Obligations.FetchAndComplete := by
  intro s
  refine ⟨fun hl => ⟨s, ?_, rfl⟩, fun f j g hl hg ht _ => ?_, fun m x status reason result hx ho hwf => ?_,
    fun m x d hx hd ho hdue hheld => hostCmdTimeout_expires hx hd ho hdue hheld, fun g f hf hu => ⟨fun hdue => ?_, fun h => ⟨s, coalesce_early hf h, rfl⟩⟩⟩
  · show execSqFetch s = _
    unfold execSqFetch
    cases hturn : s.host.rrTurn <;> simp [hl, cyclicFrom, sortNat]
  · intro q k hk
    obtain ⟨n, hn⟩ : ∃ n, k = n + 1 := ⟨k - 1, by omega⟩
    refine ⟨_, sqFetch_single hl hg ht, ?_⟩
    rw [show fetchNow (s.queue g) (s.queue g).turn = n + 1 from hn, hn]
    generalize hs1 : (s.modHost fun h => { h with rrFunc := f + 1, rrQueue := mapPut h.rrQueue f (j + 1), rrTurn := some (g, n + 1) }) = s1
    have horder : s1.host.order = s.host.order := by rw [← hs1]; rfl
    have hq : s1.queue g = q := by rw [← hs1]; rfl
    have hmem : s1.host.mem = s.host.mem := by rw [← hs1]; rfl
    obtain ⟨ho, hm, -⟩ := fetchN_host (f := f) (g := g) (n + 1) s1
    have hqueue := fetchN_queue (f := f) (g := g) n s1
    rw [hq] at hqueue
    refine ⟨ho.trans (by rw [horder]), by rw [hqueue], by rw [hqueue], by rw [hqueue], hm.trans hmem, headCmd s1 f g, ?_, rfl, rfl, rfl, ?_⟩
    · rw [← horder]
      exact fetchN_first n s1
    · simp only [headCmd, hq, hmem]
  · intro q
    obtain ⟨v, hhost, hrd, h⟩ := complete_eq hx ho
    have hq : v.queue x.queue = s.queue x.queue := queue_congr s hhost _
    refine ⟨_, rfl, ?_, ?_, ?_, ?_, ?_⟩
    · rw [h.mem]
      have := memRead_memWrite (q.cqBase + 16 * q.cqTail) (cqEntry q x.cmd status reason result) hwf.hostMem
      rw [length_cqEntry] at this
      simp only [entryPut, hq, hhost, modQueue, State.modHost]
      exact this
    · rw [h.movers]
      exact mapFind_none fun e he => by simpa using (List.mem_filter.1 he).2
    · rw [h.cqTail, entryPut_queue, hq]
    · rw [h.inflight, entryPut_queue, hq]
    · rw [Counted, h.rd, entryPut, rd_bumpSat_same, rd_modQueue]
      exact congrArg (fun n => min (n + 1) _) (hrd x.func)
  · have hmask : (modQueue s g fun q => { q with unsignalled := 0 }).masked f (s.queue g).vector = s.masked f (s.queue g).vector := rfl
    refine ⟨_, coalesce_due hf hu hdue, by rw [queue_msix, queue_modQueue_same], fun hm => ?_, fun hm => ?_⟩
    · rw [msix_sent (hmask.trans hm)]
      rfl
    · rw [msix_masked (hmask.trans hm)]
      exact ⟨rfl, mem_addNew ..⟩

end Sys2Proof.Machine
end

section
/-! Credits and pauses of a port's channels (R155, R156, R160). -/

namespace Sys2Proof.Machine

open Sys2Proof

section
variable {s : State} {port : Nat}

/-- Two channels of a port have registers of their own. -/
theorem rd_wr_vc {r : Reg} {v w : Nat} (x : Nat) (hv : v < 8) (hw : w < 8) (h : w ≠ v) :
    (s.wr r (vcKey port v) x).rd r (vcKey port w) = s.rd r (vcKey port w) := rd_wr_inst s x (by unfold vcKey; omega)

/-! ### CREDIT_SYNC (R156) -/

/-- The credit of a class by the count of its freed flits. -/
def creditBy (s : State) (port : Nat) (freed : List Nat) (c : Nat) : Nat :=
  crSize c - (mapGet 0 (s.port port).sent c + (65536 - getAt 0 freed c % 65536)) % 65536

/-- One class's credit set from its count. -/
def creditSet (t : State) (port : Nat) (freed : List Nat) (c : Nat) : State :=
  let t1 := t.wr R.FAB_VC_CREDIT (vcKey port c) (creditBy t port freed c)
  if t.rd R.FAB_VC_CREDIT (vcKey port c) < creditBy t port freed c then
    t1.bumpSat R.FAB_CREDIT_FIX (vcKey port c) (creditBy t port freed c - t.rd R.FAB_VC_CREDIT (vcKey port c))
  else t1

theorem creditSet_ports (freed : List Nat) (c : Nat) : (creditSet s port freed c).ports = s.ports := by
  unfold creditSet
  dsimp only
  split <;> rfl

theorem creditBy_set (freed : List Nat) (c d : Nat) : creditBy (creditSet s port freed c) port freed d = creditBy s port freed d := by
  simp only [creditBy, State.port, creditSet_ports]

theorem rd_creditSet (freed : List Nat) (c d : Nat) : (creditSet s port freed c).rd R.FAB_VC_CREDIT (vcKey port d) =
    (s.wr R.FAB_VC_CREDIT (vcKey port c) (creditBy s port freed c)).rd R.FAB_VC_CREDIT (vcKey port d) := by
  unfold creditSet
  dsimp only
  split
  · exact rd_bumpSat_ne (by decide)
  · rfl

theorem crSize_lt (c : Nat) : crSize c < 65536 := by
  unfold crSize
  split <;> decide

/-- The classes of a list each have the credit of their own count. -/
theorem creditSync_each (freed : List Nat) (l : List Nat) (hl : ∀ c ∈ l, c < 8) (hnd : l.Nodup) (s : State) :
    (∀ c ∈ l, (s.each l fun t c => creditSet t port freed c).rd R.FAB_VC_CREDIT (vcKey port c) = creditBy s port freed c) ∧
      ∀ c < 8, c ∉ l → (s.each l fun t c => creditSet t port freed c).rd R.FAB_VC_CREDIT (vcKey port c) = s.rd R.FAB_VC_CREDIT (vcKey port c) := by
  induction l generalizing s with
  | nil => exact ⟨nofun, fun _ _ _ => rfl⟩
  | cons d rest ih =>
    obtain ⟨hd, hrest⟩ := List.nodup_cons.1 hnd
    obtain ⟨hin, hout⟩ := ih (fun c hc => hl c (List.mem_cons_of_mem _ hc)) hrest (creditSet s port freed d)
    have hd8 : d < 8 := hl d (List.mem_cons_self ..)
    refine ⟨fun c hc => ?_, fun c hc hn => ?_⟩
    · rcases List.mem_cons.1 hc with rfl | hc
      · refine (hout c hd8 hd).trans ((rd_creditSet ..).trans ((rd_wr_same ..).trans (Nat.mod_eq_of_lt ?_)))
        exact Nat.lt_of_le_of_lt (Nat.sub_le ..) (crSize_lt c)
      · exact (hin c hc).trans (creditBy_set ..)
    · obtain ⟨hcd, hcr⟩ := not_or.1 (mt List.mem_cons.2 hn)
      exact (hout c hc hcr).trans ((rd_creditSet ..).trans (rd_wr_vc _ hd8 hc hcd))

/-! ### PAUSE (R160) -/

theorem rd_setPause_same (vc time : Nat) (h : time < 2 ^ 32) : (setPause s port vc time).rd R.FAB_VC_PAUSED (vcKey port vc) = time :=
  (rd_wr_same ..).trans (Nat.mod_eq_of_lt h)

theorem rd_setPause_other {v w : Nat} (time : Nat) (hv : v < 8) (hw : w < 8) (h : w ≠ v) :
    (setPause s port v time).rd R.FAB_VC_PAUSED (vcKey port w) = s.rd R.FAB_VC_PAUSED (vcKey port w) := rd_wr_vc _ hv hw h

/-- A channel paused where the mask names it. -/
theorem rd_maybePause {v w time : Nat} (mask : Nat) (hv : v < 8) (hw : w < 8) (ht : time < 2 ^ 32) :
    (if bitOf mask v then setPause s port v time else s).rd R.FAB_VC_PAUSED (vcKey port w) =
      if w = v ∧ bitOf mask v = true then time else s.rd R.FAB_VC_PAUSED (vcKey port w) := by
  by_cases hb : bitOf mask v = true
  · rw [if_pos hb]
    by_cases hwv : w = v
    · rw [if_pos ⟨hwv, hb⟩, hwv, rd_setPause_same v time ht]
    · rw [if_neg fun h => hwv h.1, rd_setPause_other time hv hw hwv]
  · rw [if_neg hb, if_neg fun h : w = v ∧ bitOf mask v = true => hb h.2]

/-- One link control on each of several ports. -/
theorem each_ctlSend (c : LinkCtl) (l : List Nat) (hnd : l.Nodup) (s : State) (p : Nat) :
    ((s.each l fun t p => ctlSend t p c).port p).ctlq = if p ∈ l then (s.port p).ctlq ++ [c] else (s.port p).ctlq := by
  induction l generalizing s with
  | nil => rfl
  | cons k rest ih =>
    obtain ⟨hk, hrest⟩ := List.nodup_cons.1 hnd
    rw [State.each, ih hrest]
    by_cases hpk : p = k
    · subst hpk
      rw [if_neg hk, if_pos (List.mem_cons_self ..), ctlSend, port_modPort_same]
    · rw [ctlSend, port_modPort_other _ _ hpk]
      simp only [List.mem_cons, hpk, false_or]

end

/-- Settles O25: each class and channel has registers of its own. -/
theorem creditsAndPauses : Obligations.CreditsAndPauses := by
  intro s port hp
  refine ⟨fun freed => ⟨_, rfl, fun c hc => (creditSync_each freed crClasses (by decide) (by decide) s).1 c hc⟩, fun hup => ⟨_, congrArg Host.Outcome.next (if_pos hup), ?_⟩,
    fun _ => rfl, fun mask time ht => ⟨_, rfl, ?_⟩, fun vc hvc => ⟨_, rfl, rd_setPause_same vc 0 (by decide), fun w hw h => rd_setPause_other 0 hvc hw h⟩,
    fun vc flits hvc hon hoff => ?_⟩
  · beta_reduce
    rw [ctlSend, port_modPort_same, port_modPort_same]
    exact ⟨rfl, rfl⟩
  · have ht' : time < 2 ^ 32 := by omega
    have hpause (w : Nat) (hw : w < 8) := (rd_maybePause (s := if bitOf mask 2 then setPause s port 2 time else s) (v := 3) (w := w) mask (by decide) hw ht').trans
      (by rw [rd_maybePause mask (by decide) hw ht'])
    refine ⟨fun vc hvc => ?_, fun vc hvc => ?_⟩
    · refine (hpause vc (by omega)).trans ?_
      rcases hvc with rfl | rfl <;> simp
    · refine (hpause vc (by omega)).trans ?_
      rcases hvc with rfl | rfl | rfl <;> simp
  · have heq : execPauseSend vc flits s = .next (pauseAll ((s.modRouter fun r => { r with ejectQ := mapSet 0 r.ejectQ vc flits }).modRouter
        fun r => { r with pausedOn := mapPut r.pausedOn vc true }) vc (s.rd R.FAB_PAUSE_TIME 0)) :=
      congrArg Host.Outcome.next ((if_neg (by omega)).trans (if_pos ⟨hon, hoff⟩))
    have hway (v : State) (time : Nat) : (pauseAll v vc time).router = v.router :=
      (each_keeps (T := [9]) (fun w p h => modPort_keeps Sub.rfl h) (Keeps.refl _ v)).router_eq (by decide)
    refine ⟨_, heq, ?_, fun p hp6 => ?_⟩
    · rw [hway]
      exact mapGet_mapPut_same ..
    · refine (each_ctlSend _ _ (List.Nodup.filter _ List.nodup_range) _ p).trans ?_
      simp only [List.mem_filter, List.mem_range, hp6, true_and]
      rfl

end Sys2Proof.Machine
end

section
/-! Requests to memory: denied, held and served (R108 to R110, R114). -/

namespace Sys2Proof.Machine

open Sys2Proof

section
variable {s : State} {r : MemReq} {rs : List (Nat × Nat)}

/-- Below the dictionary no window lies: a request goes to memory. -/
theorem chipRequest_low (h : r.offset < dictBase) : chipRequest s r = memRequest s r := by
  have hout (base size : Nat) (hb : dictBase ≤ base) : (decide (base ≤ r.offset) && decide (r.offset + r.len ≤ base + size)) = false := by
    rw [decide_eq_false (by omega), Bool.false_and]
  unfold chipRequest
  dsimp only
  simp only [hout dictBase dictSize (Nat.le_refl _), hout doorBase 0x4000000 (by decide), hout ctxBase 0x1000000 (by decide),
    hout tallyBase 0x10000 (by decide), hout traceBase 0x10000000 (by decide), Bool.false_eq_true, and_false, false_and, if_false]

/-! ### Denied and held (R110, R114) -/

theorem memRequest_denied (h : reqRange s r = none) : memRequest s r =
    if r.write then denyReq s r else (denyReq s r).emit (.readReply r.unit (List.replicate r.len 0) false true) := by
  unfold memRequest
  rw [h]

theorem denyReq_unplanned (h : r.planned = false) : denyReq s r = s.record 0x5020 (targetUnit r.offset) [(2, r.unit), (8, r.offset)] :=
  if_neg (by simp [h])

theorem memRequest_held (h : reqRange s r = some rs) (hh : ∃ c ∈ rs, (holdOf s c.1 c.2).isSome = true) :
    ∃ u pos, memRequest s r = holdReq s r rs u pos none := by
  obtain ⟨c, hc, hold⟩ := hh
  unfold memRequest
  rw [h]
  cases hf : rs.findSome? fun c => holdOf s c.1 c.2 with
  | none =>
    rw [List.findSome?_eq_none_iff.1 hf c hc] at hold
    cases hold
  | some x => exact ⟨x.1, x.2, by simp only [hf]⟩

/-! ### Served (R109) -/

theorem memRequest_served (h : reqRange s r = some rs) (hh : ∀ c ∈ rs, holdOf s c.1 c.2 = none) : memRequest s r = serveReq s r rs := by
  unfold memRequest
  rw [h]
  simp only [List.findSome?_eq_none_iff.2 hh]

/-- What a read of ranges answers: their bytes. -/
theorem readRange_bytes (unit : Nat) (rs : List (Nat × Nat)) (ecc : List EccHit) (s : State) :
    (readRange s unit rs ecc).2.1 = (rs.map fun c => s.read c.1 c.2).flatten := by
  induction rs generalizing s ecc with
  | nil => rfl
  | cons c rest ih =>
    rw [readRange, List.map_cons, List.flatten_cons]
    dsimp only
    rw [ih]
    simp only [State.read, (chipRead_keeps Sub.rfl (Keeps.refl _ s)).fst.mem rfl]
    rfl

theorem readRange_mem (unit : Nat) (ecc : List EccHit) : (readRange s unit rs ecc).1.mem = s.mem :=
  (readRange_keeps Sub.rfl (Keeps.refl _ s)).fst.mem rfl

theorem writeRange_out (unit : Nat) (rs : List (Nat × Nat)) (data : List Byte) (bad : Bool) (s : State) :
    MemOut (InRanges rs) s (writeRange s unit rs data bad) := by
  induction rs generalizing s data with
  | nil => exact .refl _ s
  | cons c rest ih =>
    refine ((chipWrite_out ..).mono fun j hj => ⟨c, List.mem_cons_self .., ?_⟩).trans ((ih _ _).mono fun j ⟨d, hd, hj⟩ => ⟨d, List.mem_cons_of_mem _ hd, hj⟩)
    simp only [InRange, List.length_take] at hj ⊢
    omega

theorem getAt_eq_getElem {α : Type} (d : α) (l : List α) (k : Nat) : getAt d l k = (l[k]?).getD d := by
  induction l generalizing k with
  | nil => cases k <;> rfl
  | cons x rest ih => cases k with
    | zero => rfl
    | succ k => exact ih k

theorem memBut_of_memOut {t : State} (h : MemOut (InRanges rs) s t) : MemBut (Within rs) s t := h.same

end

/-- Settles O18: below the dictionary a request goes to memory, where the table denies it, a watermark holds it or it is served. -/
theorem memoryRequests : Obligations.MemoryRequests := by
  intro s r hlow
  have hexec {t : State} (h : memRequest s r = t) : exec (.memoryRequest r) s = .next t := congrArg Host.Outcome.next ((chipRequest_low hlow).trans h)
  refine ⟨fun hden hpl => ⟨_, hexec (memRequest_denied hden), ?_⟩, fun rs hrs => ⟨fun hh => ?_, fun hh => ⟨fun hw => ?_, fun hw => ?_⟩⟩⟩
  · rw [denyReq_unplanned hpl]
    cases hw : r.write with
    | true => exact ⟨record_mem .., rfl, nofun⟩
    | false => exact ⟨record_mem .., rfl, fun _ => by simp⟩
  · obtain ⟨u, pos, h⟩ := memRequest_held hrs hh
    exact ⟨_, hexec h, rfl, rd_bumpSat_same .., by simp [holdReq, State.modMsys], rfl⟩
  · refine ⟨_, hexec ((memRequest_served hrs hh).trans (if_neg (by simp [hw]))), readRange_mem .., (readRange s r.unit rs r.ecc).2.2, ?_⟩
    rw [emit_outbox, List.getLast?_concat, readRange_bytes]
  · refine ⟨_, hexec ((memRequest_served hrs hh).trans (if_pos hw)), memBut_of_memOut (writeRange_out ..), ?_⟩
    rintro c rfl hc hlen hn j hj
    rw [writeRange, writeRange, sliceZ_all (hlen.trans hn.symm), List.take_of_length_le (by omega), chipWrite_in _ _ _ _ _ hc _ ⟨by omega, by omega⟩,
      Nat.add_sub_cancel_left, getAt_eq_getElem]

end Sys2Proof.Machine
end

section
/-! The plan's image in a partition through reads and planned writes (R96, R97, R110), and the descriptor a slot reads (R13, R89). -/

namespace Sys2Proof.Machine

open Sys2Proof

/-! ### Partitions keep their plan -/

section
variable {s t u : State}

/-- Every partition has the image it had. -/
structure SamePlans (s t : State) : Prop where
  image : ∀ p, (t.part p).image = (s.part p).image

theorem SamePlans.refl (s : State) : SamePlans s s := ⟨fun _ => rfl⟩

theorem SamePlans.trans (h : SamePlans s t) (h' : SamePlans t u) : SamePlans s u := ⟨fun p => (h'.image p).trans (h.image p)⟩

theorem SamePlans.of_keeps {T : List Nat} (h : Keeps T s t) (h6 : T.contains 6 = false) : SamePlans s t := ⟨fun p => by rw [h.part_eq h6]⟩

theorem SamePlans.of_verdict (h : ∀ p, ∃ v, t.part p = { s.part p with verdict := v }) : SamePlans s t := ⟨fun p => by
  obtain ⟨v, hv⟩ := h p
  rw [hv]⟩

theorem SamePlans.modPart (p : Nat) {f : Part → Part} (hf : ∀ q, (f q).image = q.image) : SamePlans s (s.modPart p f) := ⟨fun k => by
  by_cases hk : k = p
  · rw [hk, part_modPart_same, hf]
  · rw [part_modPart_other _ _ hk]⟩

theorem SamePlans.ite {c : Prop} [Decidable c] {a b : State} (ha : SamePlans s a) (hb : SamePlans s b) : SamePlans s (if c then a else b) := by
  split <;> assumption

theorem SamePlans.each {α : Type} {l : List α} {f : State → α → State} (hf : ∀ v, ∀ x, SamePlans v (f v x)) : SamePlans s (s.each l f) := by
  induction l generalizing s with
  | nil => exact .refl s
  | cons x rest ih => exact (hf s x).trans ih

theorem doNotSeal_plans (s : State) (p : Nat) (f : Verdict → Verdict) : SamePlans s (doNotSeal s p f) := .of_verdict fun k => doNotSeal_only_verdict s p f k

/-! ### Reads (R17, R96, R97, R102) -/

theorem maybeSend_way (s : State) (c : Prop) [Decidable c] (a : Nat) (r : Report) :
    Keeps sendPlaces s (if c then s else clvSend s 0xFF a (.report r)) := by
  split
  · exact .refl _ s
  · exact clvSend_way ..

theorem sendReport_way (a b : Nat) (r : Report) : Keeps sendPlaces s (sendReport s a b r) :=
  (maybeSend_way s (a = 0xFFFFFFFF) a r).trans (maybeSend_way _ (b = 0xFFFFFFFF) b r)

theorem fenceChip_plans (s : State) : SamePlans s (fenceChip s) :=
  .ite (.refl s) (.trans (.of_keeps (T := [0x6202]) (wr_keeps Sub.rfl (Keeps.refl _ s)) rfl) (.of_keeps (sendReport_way ..) rfl))

theorem hbmUncorrected_plans (s : State) (a unit : Nat) : SamePlans s (hbmUncorrected s a unit) := by
  unfold hbmUncorrected
  dsimp only
  have hrec : SamePlans s (((s.bumpSat R.MEM_HBM_UNCORR (a / stackBytes) 1).bumpSat R.LIFE_HBM_UNCORR 0 1).record 0x5011 (uHbm (a / stackBytes))
      [(4, a % stackBytes / 64), (2, unit)]) :=
    .of_keeps (record_keeps (T := [16, 0x3411, 0x7002, 0x9010]) (.of rfl Sub.rfl) (bumpSat_keeps (.of rfl Sub.rfl) (bumpSat_keeps (.of rfl Sub.rfl) (Keeps.refl _ s)))) rfl
  have hseal := hrec.trans (doNotSeal_plans _ (s.slicePart a) vPoison)
  split
  · exact hseal
  · have hrow (f : MemSys → MemSys) (v : State) : SamePlans v (v.modMsys f) := ⟨fun _ => rfl⟩
    exact .ite (((hseal.trans (hrow ..)).trans (.of_keeps (keeps_record ..) rfl)).trans (fenceChip_plans _)) (hseal.trans (hrow ..))

theorem sramUncorrected_plans (s : State) (b line unit : Nat) : SamePlans s (sramUncorrected s b line unit) := by
  unfold sramUncorrected
  dsimp only
  have hrec : SamePlans s (((s.bumpSat R.MEM_SRAM_UNCORR b 1).bumpSat R.LIFE_SRAM_UNCORR 0 1).record 0x5002 unit [(1, b), (2, line)]) :=
    .of_keeps (record_keeps (T := [16, 0x3410, 0x7002, 0x9010]) (.of rfl Sub.rfl) (bumpSat_keeps (.of rfl Sub.rfl) (bumpSat_keeps (.of rfl Sub.rfl) (Keeps.refl _ s)))) rfl
  have hseal := hrec.trans (doNotSeal_plans _ (s.partOf b) vPoison)
  split
  · exact hseal
  · have hrow (f : MemSys → MemSys) (v : State) : SamePlans v (v.modMsys f) := ⟨fun _ => rfl⟩
    exact .ite ((hseal.trans (hrow ..)).trans (.of_keeps (wantRemap_keeps Sub.rfl (Keeps.refl _ _)) rfl)) (hseal.trans (hrow ..))

theorem eccHit_plans (s : State) (unit a : Nat) (e : EccHit) : SamePlans s (eccHit s unit a e) := by
  unfold eccHit
  dsimp only
  refine .ite ?_ (.ite (.of_keeps (stagingHit_keeps Sub.rfl (Keeps.refl _ s)) rfl) ?_)
  · cases e.kind with
    | corrected => exact .of_keeps (hbmCorrected_keeps Sub.rfl (Keeps.refl _ s)) rfl
    | uncorrected => exact hbmUncorrected_plans ..
  · cases e.kind with
    | corrected => exact .of_keeps (sramCorrected_keeps Sub.rfl (Keeps.refl _ s)) rfl
    | uncorrected => exact sramUncorrected_plans ..

theorem chipRead_plans (s : State) (unit a n : Nat) (ecc : List EccHit) : SamePlans s (chipRead s unit a n ecc).1 :=
  .trans (.of_verdict fun p => poisonReads_only_verdict s a n p) (.each fun v e => eccHit_plans v unit a e)

theorem record_plans (s : State) (code source : Nat) (fs : List (Nat × Nat)) : SamePlans s (s.record code source fs) := .of_keeps (keeps_record ..) rfl

theorem bumpSat_plans (s : State) (r : Reg) (i n : Nat) : SamePlans s (s.bumpSat r i n) := ⟨fun _ => rfl⟩

theorem wr_plans (s : State) (r : Reg) (i v : Nat) : SamePlans s (s.wr r i v) := ⟨fun _ => rfl⟩

theorem denyPlan_plans (s : State) (unit b a : Nat) : SamePlans s (denyPlan s unit b a) :=
  (record_plans s 0x5020 (targetUnit (gaOff a)) [(2, unit), (8, gaOff a)]).trans (doNotSeal_plans ..)

/-! ### Writes (R84, R90, R244, R246, R257) -/

theorem store_plans (s : State) (a : Nat) (bs : List Byte) (bad : Bool) : SamePlans s (s.store a bs bad) :=
  .of_keeps (store_keeps Sub.rfl (Keeps.refl _ s)) rfl

theorem noteWritten_plans (s : State) (p page : Nat) : SamePlans s (noteWritten s p page) := .modPart p fun _ => rfl

theorem betweenWrite_plans (s : State) (p page a : Nat) (bs : List Byte) (bad : Bool) : SamePlans s (betweenWrite s p page a bs bad) := by
  unfold betweenWrite noteBetween noteLater
  dsimp only
  have h := (store_plans s a bs bad).trans (SamePlans.modPart p (f := fun q => { q with journal := q.journal.map fun g => { g with
    entries := g.entries.map fun e => if e.page = page then { e with later := e.later ++ [{ page := page, addr := a, data := bs, poison := bad }] } else e } })
    fun _ => rfl)
  have h' := h.trans (SamePlans.modPart p (f := fun q => { q with between := addNew q.between page }) fun _ => rfl)
  exact .ite (h'.trans (.of_keeps (setBuddyState_way ..) rfl)) h'

theorem finalCheck_plans (s : State) (p page blk : Nat) : SamePlans s (finalCheck s p page blk) := by
  unfold finalCheck
  refine .ite ((bumpSat_plans ..).trans (.modPart p ?_)) (.refl s)
  exact fun _ => rfl

theorem jnlOverflow_plans (s : State) (p : Nat) : SamePlans s (jnlOverflow s p) := by
  unfold jnlOverflow
  dsimp only
  refine .ite (.refl s) ((((wr_plans ..).trans (bumpSat_plans ..)).trans (.modPart p ?_)).trans (record_plans ..))
  exact fun _ => rfl

theorem pageWrite_plans (s : State) (unit a : Nat) (bs : List Byte) (bad : Bool) : SamePlans s (pageWrite s unit a bs bad) := by
  have hhold (p : Nat) (h : HeldWrite) (v : State) : SamePlans v (v.modPart p fun q => { q with held := q.held ++ [h] }) := .modPart p fun _ => rfl
  unfold pageWrite
  split
  · exact store_plans ..
  next p page _ =>
    dsimp only
    have hcheck := finalCheck_plans s p page (errBlock s p unit)
    refine .ite (store_plans ..) (.ite (betweenWrite_plans ..) (.ite ?_ (.ite (hcheck.trans (hhold ..)) (.ite ?_ (.ite (hcheck.trans (hhold ..)) ?_)))))
    · exact (((store_plans ..).trans (noteWritten_plans ..)).trans (record_plans ..)).trans (doNotSeal_plans ..)
    · exact (hcheck.trans (store_plans ..)).trans (noteWritten_plans ..)
    · exact ((hcheck.trans (jnlOverflow_plans ..)).trans (store_plans ..)).trans (noteWritten_plans ..)

theorem chipWrite_plans (s : State) (unit a : Nat) (bs : List Byte) (bad : Bool) : SamePlans s (chipWrite s unit a bs bad) :=
  .each fun v c => pageWrite_plans v unit c.1 _ bad

theorem planWrite_plans (s : State) (unit a : Nat) (bs : List Byte) (bad : Bool) : SamePlans s (planWrite s unit a bs bad) := by
  unfold planWrite
  dsimp only
  refine .ite (chipWrite_plans ..) (.ite (((bumpSat_plans ..).trans (chipWrite_plans ..)).trans (chipWrite_plans ..))
    (chipWrite_plans ..))

theorem planWriteAll_plans (unit : Nat) (rs : List (Nat × Nat)) (bs : List Byte) (bad : Bool) (s : State) :
    SamePlans s (planWriteAll s unit rs bs bad) := by
  induction rs generalizing s bs with
  | nil => exact .refl s
  | cons c rest ih => exact (planWrite_plans ..).trans (ih ..)

theorem planStore_plans (s : State) (unit b a : Nat) (bs : List Byte) (bad : Bool) : SamePlans s (planStore s unit b a bs bad) := by
  unfold planStore
  split
  · exact planWriteAll_plans ..
  · exact denyPlan_plans ..

end

/-! ### What a planned operation keeps of a block's place in its plan -/

section
variable {s t : State} {T : List Nat}

/-- The descriptor table of a block is that of its partition's plan, which planned work keeps. -/
theorem tableOf_eq (h : Keeps T s t) (hp : SamePlans s t) (h1 : (T.contains 0x3101 || T.contains 31) = false)
    (h2 : (T.contains 0x3000 || T.contains 31) = false) (b : Nat) : tableOf t b = tableOf s b := by
  simp only [tableOf, State.hasPlan, State.planBlock, State.img, h.partOf_eq h1, h.blocksOf_eq h1, h.pstate_eq h2, hp.image]
  exact if_congr Iff.rfl rfl rfl

/-- The key of stochastic rounding is that of the plan and the step. -/
theorem srKey_eq (h : Keeps T s t) (hp : SamePlans s t) (h1 : (T.contains 0x3101 || T.contains 31) = false)
    (h2 : (T.contains 0x6100 || T.contains 31) = false) (b : Nat) (d : Desc) : t.srKey b d = s.srKey b d := by
  simp only [State.srKey, State.img, h.partOf_eq h1, hp.image, h.rd R.SEAL_STEP _ h2]

/-- The descriptor of a slot is that of the block's table in memory. -/
theorem desc_eq (hd : (t.block b).dbase = (s.block b).dbase) (hm : t.mem = s.mem) (n : Nat) : t.desc b n = s.desc b n := by
  simp only [State.desc, State.descAt, State.read, hd, hm]

end

/-! ### A slot that reads its descriptor -/

section
variable (s : State) (i : Issue) (n : Nat)

theorem readDesc_desc : (readDesc s i n).2.1 = s.desc i.block n := rfl

theorem readDesc_way : Keeps [6, 8, 9, 13, 16, 20, 0x3410, 0x3411, 0x4110, 0x4140, 0x6202, 0x7002, 0x9000, 0x9001, 0x9010] s (readDesc s i n).1 :=
  (chipRead_keeps Sub.rfl (Keeps.refl _ s)).fst

theorem readDesc_plans : SamePlans s (readDesc s i n).1 := chipRead_plans ..

theorem takenState_plans (con : Nat) : SamePlans s (takenState s i con) := .of_keeps (takenState_keeps ..) rfl

theorem takenState_mem (con : Nat) : (takenState s i con).mem = s.mem := (takenState_keeps ..).mem rfl

theorem takenState_desc (con : Nat) : (takenState s i con).desc i.block n = s.desc i.block n :=
  desc_eq (by rw [takenState_block]; rfl) (takenState_mem ..) n

end

end Sys2Proof.Machine
end

section
/-! The vector unit's registers and its lane operations, reductions and conversions (R54, R56, R80). -/

namespace Sys2Proof.Machine

open Sys2Proof

/-! ### Registers -/

section
variable {s t : State} {b r q : Nat}

theorem length_vLanes (s : State) (b r : Nat) : 1024 ≤ (vLanes s b r).length := by
  simp only [vLanes, List.length_append, List.length_replicate]
  omega

theorem vLanes_of_vregs (h : (t.block b).vregs = (s.block b).vregs) (r : Nat) : vLanes t b r = vLanes s b r := by
  simp only [vLanes, h]

theorem vLanes_setVreg_same {l : List Word} (bad : List Nat) (h : 1024 ≤ l.length) : vLanes (setVreg s b r l bad) b r = l := by
  rw [vLanes, setVreg, block_modBlock_same]
  simp [mapGet_mapPut_same, h]

theorem vLanes_setVreg_other (l : List Word) (bad : List Nat) (h : q ≠ r) : vLanes (setVreg s b r l bad) b q = vLanes s b q := by
  simp only [vLanes, setVreg, block_modBlock_same, mapGet_mapPut_other _ _ _ h]

theorem takenState_vregs (s : State) (i : Issue) (con : Nat) : ((takenState s i con).block i.block).vregs = (s.block i.block).vregs := by
  rw [takenState_block]
  rfl

theorem countArith_way (s : State) (b : Nat) (a : Arith) : Keeps [0x3040] s (countArith s b a) := countArith_keeps Sub.rfl (Keeps.refl _ s)

end

/-! ### A result put into a register (R54) -/

/-- A register written, the other registers and memory as they were. -/
def RegSet (b d : Nat) (l : List Word) (s t : State) : Prop :=
  vLanes t b d = l ∧ (∀ q, q ≠ d → vLanes t b q = vLanes s b q) ∧ t.mem = s.mem

section
variable {s u : State} {i : Issue}

/-- A result counted and put into a register of a state that has a block's registers and memory still. -/
theorem regSet_counted {b d : Nat} {l : List Word} (hv : (u.block b).vregs = (s.block b).vregs) (hm : u.mem = s.mem) (bad : List Nat) (a : Arith)
    (hl : 1024 ≤ l.length) : RegSet b d l s (countArith (setVreg u b d l bad) b a) := by
  have hblock := (countArith_way (setVreg u b d l bad) b a).block (by decide) b
  have hkeep (q : Nat) : vLanes (countArith (setVreg u b d l bad) b a) b q = vLanes (setVreg u b d l bad) b q :=
    vLanes_of_vregs (congrArg Block.vregs hblock) q
  refine ⟨(hkeep d).trans (vLanes_setVreg_same bad hl), fun q hq => ?_, ?_⟩
  · rw [hkeep, vLanes_setVreg_other _ _ hq, vLanes_of_vregs hv]
  · exact ((countArith_way ..).mem (by decide)).trans hm

variable (htaken : Taken s i conVec)
include htaken

/-- The effect of a slot that is taken. -/
theorem vecSlot_taken (f : State → State) : vecSlot s i f = f (takenState s i conVec) := by
  rw [vecSlot, issueSlot_of_taken htaken, accept_of_taken htaken]

theorem vecLanes1_sets (w : VecSlot) (f : Word → Word → Word → Lane) :
    RegSet i.block (vD w) ((vLanes s i.block (vA w)).map fun u => (f u 0 0).w) s (vecLanes1 s i w f) := by
  rw [vecLanes1, vecSlot_taken htaken]
  dsimp only
  rw [vLanes_of_vregs (takenState_vregs s i conVec), List.map_map]
  refine regSet_counted (takenState_vregs ..) (takenState_mem ..) _ _ ?_
  simpa using length_vLanes ..

theorem vecLanes2_sets (w : VecSlot) (f : Word → Word → Word → Lane) :
    RegSet i.block (vD w) (List.zipWith (fun u v => (f u v 0).w) (vLanes s i.block (vA w)) (vLanes s i.block (vB w))) s (vecLanes2 s i w f) := by
  rw [vecLanes2, vecSlot_taken htaken]
  dsimp only
  rw [vLanes_of_vregs (takenState_vregs s i conVec), vLanes_of_vregs (takenState_vregs s i conVec), List.map_zipWith]
  refine regSet_counted (takenState_vregs ..) (takenState_mem ..) _ _ ?_
  rw [List.length_zipWith]
  exact le_min (length_vLanes ..) (length_vLanes ..)

theorem vecLanes3_sets (w : VecSlot) (f : Word → Word → Word → Lane) :
    RegSet i.block (vD w) (List.zipWith (fun u (v : Word × Word) => (f u v.1 v.2).w) (vLanes s i.block (vA w))
      ((vLanes s i.block (vB w)).zip (vLanes s i.block (vC w)))) s (vecLanes s i w f) := by
  rw [vecLanes, vecSlot_taken htaken]
  dsimp only
  rw [vLanes_of_vregs (takenState_vregs s i conVec), vLanes_of_vregs (takenState_vregs s i conVec),
    vLanes_of_vregs (takenState_vregs s i conVec), List.map_zipWith]
  refine regSet_counted (takenState_vregs ..) (takenState_mem ..) _ _ ?_
  rw [List.length_zipWith, List.length_zip]
  exact le_min (length_vLanes ..) (le_min (length_vLanes ..) (length_vLanes ..))

theorem vecReduce_sets (w : VecSlot) (f : List Word → Word) (sumNan : Bool) :
    RegSet i.block (vD w) (List.replicate 1024 (f (vLanes s i.block (vA w)))) s (vecReduce s i w f sumNan) := by
  rw [vecReduce, vecSlot_taken htaken]
  dsimp only
  rw [vLanes_of_vregs (takenState_vregs s i conVec)]
  exact regSet_counted (takenState_vregs ..) (takenState_mem ..) _ _ List.length_replicate.ge

end

/-- Settles O14: each operation is one of three shapes, by the registers it reads. -/
theorem laneOperations : Obligations.LaneOperations := by
  intro s i w htaken b n m a bb cc gives
  refine ⟨fun x hx => ?_, fun x hx => ?_, fun x hx => ?_⟩
  · revert x
    repeat refine List.forall_mem_cons.2 ⟨⟨_, rfl, vecLanes2_sets htaken w _⟩, ?_⟩
    simp
  · revert x
    repeat refine List.forall_mem_cons.2 ⟨⟨_, rfl, vecLanes1_sets htaken w _⟩, ?_⟩
    simp
  · revert x
    repeat refine List.forall_mem_cons.2 ⟨⟨_, rfl, vecLanes3_sets htaken w _⟩, ?_⟩
    simp

/-! ### Integer and floating-point lanes (R31, R54) -/

section
variable {n m : Nat} (x y z : Word)

theorem packLanes_one (v : Int) : packLanes 32 [ofSigned 32 v] = BitVec.ofInt 32 v := by
  refine BitVec.eq_of_toNat_eq ?_
  simp only [packLanes, ofSigned, List.foldr_cons, List.foldr_nil, Nat.mul_zero, Nat.add_zero, BitVec.toNat_ofNat, BitVec.toNat_ofInt]
  omega

theorem toSigned_toNat : toSigned 32 (x.toNat % 2 ^ 32) = x.toInt := by
  simp only [toSigned, BitVec.toInt, Nat.mod_mod]
  rw [Nat.mod_eq_of_lt x.isLt]

/-- In one lane of 32 bits an exact integer result wraps where nothing saturates. -/
theorem laneInt_wraps (hw : vWidth n = 32) (hm : bitOf m 0 = false) (f : Int → Int → Int) :
    (laneInt n m f x y).w = BitVec.ofInt 32 (f x.toInt y.toInt) := by
  simp only [laneInt, hw, hm, subMap2, subs, Nat.reduceDiv, sublanes, List.zipWith_cons_cons, List.zipWith_nil_right, List.map_cons, List.map_nil, intRes,
    Bool.false_eq_true, if_false, packLanes_one, toSigned_toNat]

theorem canon32_abs_lt : (canon32 (x &&& 0x7FFFFFFF)).toNat < 2 ^ 31 := by
  unfold canon32
  split
  · decide
  · rw [BitVec.toNat_and]
    exact Nat.lt_of_le_of_lt Nat.and_le_right (by decide)

end

/-! ### Conversions (R49, R54, R80) -/

section
variable {s u : State} {i : Issue}

/-- A register written leaves the other registers and memory, whatever its lanes. -/
theorem others_counted {b d : Nat} (hv : (u.block b).vregs = (s.block b).vregs) (hm : u.mem = s.mem) (l : List Word) (bad : List Nat) (a : Arith) :
    (∀ q, q ≠ d → vLanes (countArith (setVreg u b d l bad) b a) b q = vLanes s b q) ∧ (countArith (setVreg u b d l bad) b a).mem = s.mem := by
  refine ⟨fun q hq => ?_, ((countArith_way ..).mem (by decide)).trans hm⟩
  rw [vLanes_of_vregs (congrArg Block.vregs ((countArith_way ..).block (by decide) b)), vLanes_setVreg_other _ _ hq, vLanes_of_vregs hv]

theorem length_narrowAll (nctl : Nat) (key : SrKey) (k : Nat) (vs : List FV) : (narrowAll nctl key k vs).length = vs.length := by
  induction vs generalizing k with
  | nil => rfl
  | cons v rest ih => simp [narrowAll, ih]

theorem narrowAll_get (nctl : Nat) (key : SrKey) (k : Nat) (vs : List FV) (j : Nat) :
    (narrowAll nctl key k vs)[j]? = (vs[j]?).map (narrow nctl key (k + j)) := by
  induction vs generalizing k j with
  | nil => rfl
  | cons v rest ih => cases j with
    | zero => rfl
    | succ j => simp only [narrowAll, List.getElem?_cons_succ, ih, Nat.add_right_comm, Nat.add_assoc]

/-- Elements of whole lanes, one for each lane of the register. -/
theorem regElems_whole {c c' : Nat} (h : wholeLane c = true) (h' : wholeLane c' = true) (l : List Word) :
    (regElems c l).take (elemCount c') = (l.map f32).take 1024 := by
  rw [regElems, elemCount, if_pos h, if_pos h']

theorem padElems_full {n : Nat} {es : List Nat} (h : es.length = n) : padElems s n es = es := by
  simp [padElems, h]

theorem tick_vregs (b : Nat) (c : Prop) [Decidable c] : ((if c then s.tick else s).block b).vregs = (s.block b).vregs := by
  split <;> rfl

theorem tick_mem (c : Prop) [Decidable c] : (if c then s.tick else s).mem = s.mem := by
  split <;> rfl

/-- The state in which a slot that is taken has read its descriptor. -/
def descState (s : State) (i : Issue) (con n : Nat) : State := (readDesc (takenState s i con) i n).1

theorem descState_way (con n : Nat) : Keeps [5, 6, 8, 9, 13, 16, 20, 0x3021, 0x3410, 0x3411, 0x4110, 0x4140, 0x6202, 0x7002, 0x9000, 0x9001, 0x9010] s
    (descState s i con n) :=
  ((takenState_keeps ..).mono (.of rfl Sub.rfl)).trans ((readDesc_way ..).mono (.of rfl Sub.rfl))

theorem descState_block (con n b : Nat) : (descState s i con n).block b = (takenState s i con).block b := (readDesc_way ..).block rfl b

theorem descState_mem (con n : Nat) : (descState s i con n).mem = s.mem := (descState_way ..).mem rfl

theorem descState_plans (con n : Nat) : SamePlans s (descState s i con n) := (takenState_plans ..).trans (readDesc_plans ..)

theorem descState_vregs (con n : Nat) : ((descState s i con n).block i.block).vregs = (s.block i.block).vregs := by
  rw [descState_block, takenState_vregs]

theorem descState_srKey (con n b : Nat) (d : Desc) : (descState s i con n).srKey b d = s.srKey b d :=
  srKey_eq (descState_way ..) (descState_plans ..) rfl rfl b d

/-- What CVT puts into its register where both formats have one element for each lane. -/
theorem cvt_lanes {w : VecSlot} (hsrc : wholeLane (vSrc w) = true) (hdst : wholeLane (nctlFmt (vNctl w)) = true) {j : Nat} (hj : j < 1024) :
    (vLanes (cvt (takenState s i conVec) i w) i.block (vD w))[j]? = some (laneOf (nctlFmt (vNctl w))
      (narrow (vNctl w) (s.srKey i.block (s.desc i.block (vDesc w))) ((s.desc i.block (vDesc w)).ibase + j)
        (f32 (getAt 0 (vLanes s i.block (vA w)) j))).bits) := by
  have hdesc : (readDesc (takenState s i conVec) i (vDesc w)).2.1 = s.desc i.block (vDesc w) := (readDesc_desc ..).trans (takenState_desc ..)
  have hcount : elemCount (nctlFmt (vNctl w)) = 1024 := if_pos hdst
  have hlen := length_vLanes s i.block (vA w)
  unfold cvt
  dsimp only
  rw [show (readDesc (takenState s i conVec) i (vDesc w)).1 = descState s i conVec (vDesc w) from rfl, hdesc, vLanes_of_vregs (descState_vregs ..),
    descState_srKey, regElems_whole hsrc hdst, hcount, if_pos hdst, padElems_full (by simp [length_narrowAll, hlen]),
    vLanes_of_vregs (congrArg Block.vregs ((countArith_way ..).block (by decide) _)), vLanes_setVreg_same _ (by simp [length_narrowAll, hlen])]
  rw [List.getElem?_map, List.getElem?_map, narrowAll_get, List.getElem?_take_of_lt hj, List.getElem?_map, getAt_eq_getElem,
    List.getElem?_eq_getElem (by omega : j < (vLanes s i.block (vA w)).length)]
  rfl

theorem cvt_others (w : VecSlot) : (∀ q, q ≠ vD w → vLanes (cvt (takenState s i conVec) i w) i.block q = vLanes s i.block q) ∧
    (cvt (takenState s i conVec) i w).mem = s.mem := by
  unfold cvt
  dsimp only
  refine others_counted ?_ ?_ _ _ _
  · rw [tick_vregs]
    exact descState_vregs ..
  · rw [tick_mem]
    exact descState_mem ..

end

/-- Settles O15: integer lanes of 32 bits are exact results kept to 32 bits, and a reduction or a conversion writes one register. -/
theorem laneValuesAndReductions : Obligations.LaneValuesAndReductions := by
  refine ⟨⟨fun _ _ _ => ⟨rfl, rfl, rfl⟩, fun n m x y z hw hm => ⟨?_, ?_, ?_⟩, fun n m x y z hf => ⟨fun h => ?_, ?_⟩⟩, fun s i w htaken => ?_⟩
  · rw [laneIadd, laneInt_wraps x y hw hm, BitVec.ofInt_add, BitVec.ofInt_toInt, BitVec.ofInt_toInt]
  · rw [laneIsub, laneInt_wraps x y hw hm, Int.sub_eq_add_neg, BitVec.ofInt_add, BitVec.ofInt_neg, BitVec.ofInt_toInt, BitVec.ofInt_toInt, BitVec.sub_eq_add_neg]
  · rw [laneImul, laneInt_wraps x y hw hm, BitVec.ofInt_mul, BitVec.ofInt_toInt, BitVec.ofInt_toInt]
  · have hnan : (fvNan (f32 x) || fvNan (f32 y)) = true := Bool.or_eq_true_iff.2 h
    simp only [laneMax, laneMin, hf, if_true, max32, min32, hnan, and_self]
  · simp only [laneAbs, hf, if_true]
    exact canon32_abs_lt x
  · intro b a others
    have hred {c : Instr} {r : Word} {f : List Word → Word} {sumNan : Bool} (hc : exec c s = .next (vecReduce s i w f sumNan))
        (hr : f (vLanes s i.block (vA w)) = r) : Does c s fun t => (∀ j < 1024, (vLanes t b (vD w))[j]? = some r) ∧ others t := by
      obtain ⟨hlanes, hothers⟩ := vecReduce_sets htaken w f sumNan
      refine ⟨_, hc, fun j hj => ?_, hothers⟩
      rw [hlanes, hr, List.getElem?_replicate_of_lt hj]
    refine ⟨?_, ⟨_, congrArg Host.Outcome.next (vecSlot_taken htaken _), cvt_others w, fun hsrc hdst j hj => cvt_lanes hsrc hdst hj⟩⟩
    refine List.forall_mem_cons.2 ⟨hred rfl rfl, List.forall_mem_cons.2 ⟨hred rfl rfl, List.forall_mem_cons.2 ⟨hred rfl rfl,
      List.forall_mem_cons.2 ⟨hred rfl rfl, List.forall_mem_cons.2 ⟨hred rfl rfl, List.forall_mem_cons.2 ⟨?_, by simp⟩⟩⟩⟩⟩⟩
    refine ⟨_, congrArg Host.Outcome.next (vecSlot_taken htaken _), fun j hj => ?_, fun q hq => ?_, takenState_mem ..⟩
    · rw [vLanes_setVreg_same _ List.length_replicate.ge, List.getElem?_replicate_of_lt hj]
    · rw [vLanes_setVreg_other _ _ hq, vLanes_of_vregs (takenState_vregs ..)]

end Sys2Proof.Machine
end

section
/-! Loads and stores of the vector unit (R57, R80, R84, R97). -/

namespace Sys2Proof.Machine

open Sys2Proof

/-! ### Bytes of consecutive lines of a block -/

section
variable {s : State}

/-- Bytes of memory, one by one. -/
theorem read_eq_map (hwf : Memory.wf s.mem) (a n : Nat) : s.read a n = (List.range n).map fun k => memByte s.mem (a + k) := by
  refine List.ext_getElem? fun j => ?_
  rw [List.getElem?_map]
  by_cases hj : j < n
  · rw [State.read, memRead, mapSlice_get 0 a n j ((mapWf_iff 0 _).1 hwf).1 hj, List.getElem?_range hj]
    rfl
  · rw [List.getElem?_eq_none (by simpa [State.read, memRead] using hj), List.getElem?_eq_none (by simpa using hj)]
    rfl

theorem lineByte_inside {b line k : Nat} (h : 128 * line + k < blockBytes) : lineByte b line k = sramBase b + 128 * line + k := by
  rw [lineByte, Nat.mod_eq_of_lt h, Nat.add_assoc]

theorem lineByte_wrapped {b line k : Nat} (h : blockBytes ≤ 128 * line + k) (h' : 128 * line + k < 2 * blockBytes) :
    lineByte b line k = sramBase b + (128 * line + k - blockBytes) := by
  rw [lineByte, Nat.mod_eq_sub_mod h, Nat.mod_eq_of_lt (by omega)]

/-- The bytes read of consecutive lines, whose addresses wrap after line 65,535. -/
theorem readLines_bytes (hwf : Memory.wf s.mem) (unit b : Nat) {line n : Nat} (ecc : List EccHit) (hline : line < 65536) (hn : n ≤ 65536) :
    (readLines s unit b line n ecc).2.1 = (List.range (128 * n)).map fun k => memByte s.mem (lineByte b line k) := by
  have hsize : blockBytes = 128 * 65536 := rfl
  rw [readLines, readRange_bytes, lineRanges]
  split
  · simp only [List.map_cons, List.map_nil, List.flatten_cons, List.flatten_nil, List.append_nil, read_eq_map hwf]
    refine List.map_congr_left fun k hk => ?_
    rw [lineByte_inside (by have := List.mem_range.1 hk; omega)]
  · have hsum : 128 * n = 128 * (65536 - line) + 128 * (line + n - 65536) := by omega
    simp only [List.map_cons, List.map_nil, List.flatten_cons, List.flatten_nil, List.append_nil, read_eq_map hwf]
    rw [hsum, List.range_add, List.map_append, List.map_map]
    refine congrArg₂ (· ++ ·) ?_ ?_
    · refine List.map_congr_left fun k hk => ?_
      rw [lineByte_inside (by have := List.mem_range.1 hk; omega)]
    · refine List.map_congr_left fun k hk => ?_
      have := List.mem_range.1 hk
      rw [Function.comp_apply, lineByte_wrapped (by omega) (by omega), show 128 * line + (128 * (65536 - line) + k) - blockBytes = k by omega]

theorem vBytes_le (c : Nat) : vBytes c ≤ 4096 := by
  match c with
  | 0 | 1 | 2 | 3 | 4 | 5 | 6 | 7 | 8 | 9 | 10 | 11 | 12 | 13 => decide
  | n + 14 => simp [vBytes, fmtBits]

theorem vImm_lt (w : VecSlot) : vImm w < 65536 := Nat.mod_lt _ (by decide)

end

/-! ### A slot that leaves trace records -/

section
variable {s u : State} {i : Issue} {w : VecSlot}

/-- The state on which a traced slot of the vector unit acts. -/
def vecIn (s : State) (i : Issue) (w : VecSlot) : State := traceRec (takenState s i conVec) i.block 3 (uVec i.block) (vDesc w) i.seq false

theorem vecTraced_taken (h : Taken s i conVec) (f : State → State) :
    vecTraced s i w f = traceRec (f (vecIn s i w)) i.block 3 (uVec i.block) (vDesc w) i.seq true := vecSlot_taken h _

theorem traceRec_way (s : State) (b bit unit op seq : Nat) (isEnd : Bool) : Keeps [5, 0x8200] s (traceRec s b bit unit op seq isEnd) :=
  traceRec_keeps Sub.rfl (Keeps.refl _ s)

theorem traceRec_vregs (s : State) (b bit unit op seq : Nat) (isEnd : Bool) :
    ((traceRec s b bit unit op seq isEnd).block b).vregs = (s.block b).vregs := by
  obtain ⟨l, hl⟩ := traceRec_block s b bit unit op seq isEnd
  rw [hl]

theorem traceRec_dbase (s : State) (b bit unit op seq : Nat) (isEnd : Bool) :
    ((traceRec s b bit unit op seq isEnd).block b).dbase = (s.block b).dbase := by
  obtain ⟨l, hl⟩ := traceRec_block s b bit unit op seq isEnd
  rw [hl]

theorem vecIn_way (s : State) (i : Issue) (w : VecSlot) : Keeps [5, 16, 0x3021, 0x7002, 0x8200] s (vecIn s i w) :=
  ((takenState_keeps ..).mono (.of rfl Sub.rfl)).trans ((traceRec_way ..).mono (.of rfl Sub.rfl))

theorem vecIn_vregs (s : State) (i : Issue) (w : VecSlot) : ((vecIn s i w).block i.block).vregs = (s.block i.block).vregs :=
  (traceRec_vregs ..).trans (takenState_vregs ..)

theorem vecIn_mem (s : State) (i : Issue) (w : VecSlot) : (vecIn s i w).mem = s.mem := (vecIn_way ..).mem rfl

theorem vecIn_desc (s : State) (i : Issue) (w : VecSlot) (n : Nat) : (vecIn s i w).desc i.block n = s.desc i.block n :=
  desc_eq ((traceRec_dbase ..).trans (by rw [takenState_block]; rfl)) (vecIn_mem ..) n

/-- A register set, and trace records after it. -/
theorem regSet_traced {b d bit unit op seq : Nat} {l : List Word} {isEnd : Bool} (h : RegSet b d l s u) : RegSet b d l s (traceRec u b bit unit op seq isEnd) :=
  have hv (q : Nat) := vLanes_of_vregs (traceRec_vregs u b bit unit op seq isEnd) q
  ⟨(hv d).trans h.1, fun q hq => (hv q).trans (h.2.1 q hq), ((traceRec_way ..).mem rfl).trans h.2.2⟩

theorem regSet_of {b d : Nat} {l : List Word} (hv : (u.block b).vregs = (s.block b).vregs) (hm : u.mem = s.mem) (bad : List Nat)
    (hl : 1024 ≤ l.length) : RegSet b d l s (setVreg u b d l bad) :=
  ⟨vLanes_setVreg_same bad hl, fun q hq => (vLanes_setVreg_other l bad hq).trans (vLanes_of_vregs hv q), hm⟩

end

/-! ### Loads (R57, R80) -/

section
variable {s : State} {i : Issue} {w : VecSlot}

/-- The bytes of the lines that VLD reads. -/
def vldBytes (s : State) (i : Issue) (w : VecSlot) : List Byte :=
  (List.range (128 * ceilDiv (vBytes (vSrc w)) 128)).map fun k => memByte s.mem (lineByte i.block (vImm w) k)

/-- The state in which VLD has read its lines. -/
def vldRead (s : State) (i : Issue) (w : VecSlot) (ecc : List EccHit) : State :=
  (readLines (vecIn s i w) (uVec i.block) i.block (vImm w) (ceilDiv (vBytes (vSrc w)) 128)
    (ecc.filter fun e => decide (e.index < 16 * ceilDiv (vBytes (vSrc w)) 128))).1

theorem vldRead_bytes (hwf : Wf s) (ecc : List EccHit) : (readLines (vecIn s i w) (uVec i.block) i.block (vImm w) (ceilDiv (vBytes (vSrc w)) 128)
    ecc).2.1 = vldBytes s i w := by
  have hsmall : ceilDiv (vBytes (vSrc w)) 128 ≤ 65536 := by
    have := vBytes_le (vSrc w)
    unfold ceilDiv
    omega
  rw [readLines_bytes (by rw [vecIn_mem]; exact hwf.mem) _ _ _ (vImm_lt w) hsmall, vecIn_mem]
  rfl

theorem vldRead_way (ecc : List EccHit) :
    Keeps [6, 8, 9, 13, 16, 20, 0x3410, 0x3411, 0x4110, 0x4140, 0x6202, 0x7002, 0x9000, 0x9001, 0x9010] (vecIn s i w) (vldRead s i w ecc) :=
  (readLines_keeps Sub.rfl (Keeps.refl _ _)).fst

theorem vldRead_vregs (ecc : List EccHit) : ((vldRead s i w ecc).block i.block).vregs = (s.block i.block).vregs := by
  rw [(vldRead_way ecc).block rfl, vecIn_vregs]

theorem vldRead_mem (ecc : List EccHit) : (vldRead s i w ecc).mem = s.mem := ((vldRead_way ecc).mem rfl).trans (vecIn_mem ..)

/-- What VLD puts into its register. -/
theorem vld_sets (hwf : Wf s) (ecc : List EccHit) : ∃ l, RegSet i.block (vD w) l s (vld (vecIn s i w) i w ecc) ∧ l.length = 1024 ∧
    (fmtMx (vSrc w) = false → wholeLane (vSrc w) = true → l = (List.range 1024).map fun j => near32 (fmtVal (vSrc w) (fmtElem (vSrc w) (vldBytes s i w) j))) ∧
    (fmtMx (vSrc w) = false → wholeLane (vSrc w) = false → l = (List.range 1024).map fun j => BitVec.ofNat 32 (leField (vldBytes s i w) (4 * j) 4)) := by
  have hlen (f : Nat → Word) : ((List.range 1024).map f).length = 1024 := by simp only [List.length_map, List.length_range]
  have hset {f : Nat → Word} (bad : List Nat) : RegSet i.block (vD w) ((List.range 1024).map f) s (setVreg (vldRead s i w ecc) i.block (vD w) ((List.range 1024).map f) bad) :=
    regSet_of (vldRead_vregs ecc) (vldRead_mem ecc) bad (hlen f).ge
  unfold vld
  dsimp only
  rw [vldRead_bytes hwf]
  cases hmx : fmtMx (vSrc w) with
  | true =>
    rw [if_pos rfl]
    have hkeep (v : State) (a : Nat) (es : List EccHit) : Keeps [6, 8, 9, 13, 16, 20, 0x3410, 0x3411, 0x4110, 0x4140, 0x6202, 0x7002, 0x9000, 0x9001, 0x9010] v
        (planRead v (uVec i.block) i.block a 32 es).1 := (planRead_keeps Sub.rfl (Keeps.refl _ v)).fst
    refine ⟨_, regSet_of ?_ ?_ _ (hlen _).ge, hlen _, nofun, nofun⟩
    · rw [(hkeep ..).block rfl, (readDesc_way ..).block rfl]
      exact vldRead_vregs ecc
    · rw [(hkeep ..).mem rfl, (readDesc_way ..).mem rfl]
      exact vldRead_mem ecc
  | false =>
    rw [if_neg (by decide)]
    cases hwhole : wholeLane (vSrc w) with
    | true => exact ⟨_, hset _, hlen _, fun _ _ => rfl, nofun⟩
    | false => exact ⟨_, hset _, hlen _, nofun, fun _ _ => rfl⟩

/-- A format of sublanes is no MX format. -/
theorem fmtMx_of_sublanes {c : Nat} (h : wholeLane c = false) : fmtMx c = false := by
  unfold wholeLane fmtInt at h
  split at h <;> simp_all [fmtMx]

theorem outsideLanes_way (s : State) (b n : Nat) : Keeps [6, 0x3040] s (outsideLanes s b n) := outsideLanes_keeps Sub.rfl (Keeps.refl _ s)

/-- What GATHER puts into its register. -/
theorem gather_sets (ecc : List EccHit) : RegSet i.block (vD w) ((vLanes s i.block (vA w)).map fun x =>
    match elemBit w x.toNat with
    | some o => widenElem (vSrc w) (getElem s i.block (vSrc w) o)
    | none => 0) s (gather (vecIn s i w) i w ecc) := by
  unfold gather
  dsimp only
  rw [vLanes_of_vregs (vecIn_vregs s i w), List.map_map]
  have hpoison (v : State) (l : List Nat) (f : Nat → Nat) : Keeps [6, 8, 9, 13, 16, 20, 0x3410, 0x3411, 0x4110, 0x4140, 0x6202, 0x7002, 0x9000, 0x9001, 0x9010] v
      (v.each l fun t k => poisonReads t (f k) 8) := each_keeps (fun t k h => poisonReads_keeps (.of rfl Sub.rfl) h) (Keeps.refl _ v)
  have hecc (v : State) (l : List EccHit) (u a : Nat) : Keeps [6, 8, 9, 13, 16, 20, 0x3410, 0x3411, 0x4110, 0x4140, 0x6202, 0x7002, 0x9000, 0x9001, 0x9010] v
      (v.each l fun t e => eccHit t u a e) := each_keeps (fun t k h => eccHit_keeps (.of rfl Sub.rfl) h) (Keeps.refl _ v)
  have hmem (o : Nat) : getElem (vecIn s i w) i.block (vSrc w) o = getElem s i.block (vSrc w) o := by
    simp only [getElem, State.readLe, State.read, vecIn_mem]
  have hset (v : State) (hv : Keeps [6, 8, 9, 13, 16, 20, 0x3410, 0x3411, 0x4110, 0x4140, 0x6202, 0x7002, 0x9000, 0x9001, 0x9010] (vecIn s i w) v) (l : List Word)
      (bad : List Nat) (n : Nat) (hl : 1024 ≤ l.length) : RegSet i.block (vD w) l s (outsideLanes (setVreg v i.block (vD w) l bad) i.block n) := by
    obtain ⟨h1, h2, h3⟩ := regSet_of (s := s) (u := v) (d := vD w) (l := l) ((congrArg Block.vregs (hv.block rfl i.block)).trans (vecIn_vregs ..))
      ((hv.mem rfl).trans (vecIn_mem ..)) bad hl
    have hb (q : Nat) := vLanes_of_vregs (congrArg Block.vregs ((outsideLanes_way (setVreg v i.block (vD w) l bad) i.block n).block rfl i.block)) q
    exact ⟨(hb _).trans h1, fun q hq => (hb q).trans (h2 q hq), ((outsideLanes_way ..).mem rfl).trans h3⟩
  refine cast (congrArg (fun l => RegSet i.block (vD w) l s _) ?_) (hset _ ((hecc ..).trans (hpoison ..)) _ _ _ ?_)
  · simp only [hmem]
    rfl
  · simpa using length_vLanes ..

end

end Sys2Proof.Machine
end

section
/-! Stores of the vector unit: the bytes they may change, and the bytes that VST writes (R57, R80, R84, R97). -/

namespace Sys2Proof.Machine

open Sys2Proof

/-! ### Lines stored (R80, R84) -/

section
variable {s t u : State} {b line : Nat} {bs : List Byte}

theorem each_append {α : Type} (f : State → α → State) (l l' : List α) (s : State) : s.each (l ++ l') f = (s.each l f).each l' f := by
  induction l generalizing s with
  | nil => rfl
  | cons x rest ih => exact ih (f s x)

theorem each_range_succ (f : State → Nat → State) (n : Nat) (s : State) : s.each (List.range (n + 1)) f = f (s.each (List.range n) f) n := by
  rw [List.range_succ, each_append]
  rfl

/-- A place of consecutive lines: where a byte of a block is whose position lies in them. -/
def InLines (b line n a : Nat) : Prop := ∃ r ∈ lineRanges b line n, r.1 ≤ a ∧ a < r.1 + r.2

theorem inLines_of_lineByte {k n : Nat} (hline : line < 65536) (hn : n ≤ 65536) (hk : k < 128 * n) : InLines b line n (lineByte b line k) := by
  have hsize : blockBytes = 128 * 65536 := rfl
  unfold InLines lineRanges
  split
  · refine ⟨_, List.mem_cons_self .., ?_⟩
    rw [lineByte_inside (by omega)]
    constructor <;> dsimp only <;> omega
  · by_cases hin : 128 * line + k < blockBytes
    · refine ⟨_, List.mem_cons_self .., ?_⟩
      rw [lineByte_inside hin]
      constructor <;> dsimp only <;> omega
    · refine ⟨_, List.mem_cons_of_mem _ (List.mem_cons_self ..), ?_⟩
      rw [lineByte_wrapped (by omega) (by omega)]
      constructor <;> dsimp only <;> omega

/-- The bytes of an aligned word of lines have consecutive addresses. -/
theorem lineByte_word (b line k : Nat) {j : Nat} (hj : j < 8) : lineByte b line (8 * k + j) = lineByte b line (8 * k) + j := by
  simp only [lineByte, blockBytes]
  omega

theorem inLines_of_word {k n a : Nat} (hline : line < 65536) (hn : n ≤ 65536) (h : InRange (lineByte b line (8 * k)) (((bs.drop (8 * k)).take 8).length) a)
    (hlen : bs.length ≤ 128 * n) : InLines b line n a := by
  obtain ⟨hlo, hhi⟩ := h
  simp only [List.length_take, List.length_drop] at hhi
  rw [show a = lineByte b line (8 * k) + (a - lineByte b line (8 * k)) by omega, ← lineByte_word b line k (by omega)]
  exact inLines_of_lineByte hline hn (by omega)

theorem storeLines_out (unit : Nat) (bad : Nat → Bool) {n : Nat} (hline : line < 65536) (hn : n ≤ 65536) (hlen : ceilDiv bs.length 128 = n) (s : State) :
    MemOut (InLines b line n) s (storeLines s unit b line bs bad) := by
  have hbound : bs.length ≤ 128 * n := by
    unfold ceilDiv at hlen
    omega
  unfold storeLines
  dsimp only
  split
  · exact MemOut.each fun v k _ => (planWrite_out v unit _ _ (bad k)).mono fun a ha => inLines_of_word hline hn ha hbound
  · rw [hlen]
    exact planWriteAll_out ..

/-- The word-by-word stores of lines leave each byte stored so far as the string says. -/
theorem storeWords_in (unit : Nat) (bad : Nat → Bool) (hb : b < 128) (hfit : 128 * line + bs.length ≤ blockBytes)
    (htab : ¬ ((tableOf s b).1 < sramBase b + 128 * line + bs.length ∧ sramBase b + 128 * line < (tableOf s b).1 + (tableOf s b).2)) (n : Nat) :
    ∀ q, q < 8 * n → q < bs.length → memByte ((s.each (List.range n) fun t k =>
      planWrite t unit (lineByte b line (8 * k)) ((bs.drop (8 * k)).take 8) (bad k)).mem) (sramBase b + 128 * line + q) = getAt 0 bs q := by
  induction n with
  | zero => intro q hq; omega
  | succ n ih =>
    intro q hq hlen
    rw [each_range_succ]
    generalize hv : s.each (List.range n) (fun t k => planWrite t unit (lineByte b line (8 * k)) ((bs.drop (8 * k)).take 8) (bad k)) = v at ih ⊢
    have hway : Keeps [2, 3, 6, 16, 0x3021, 0x6101, 0x6102, 0x7002] s v := by
      rw [← hv]
      exact each_keeps (fun t k h => planWrite_keeps Sub.rfl h) (Keeps.refl _ s)
    have hplans : SamePlans s v := by
      rw [← hv]
      exact .each fun t k => planWrite_plans ..
    have htable : tableOf v b = tableOf s b := tableOf_eq hway hplans (by decide) (by decide) b
    by_cases hn : q < 8 * n
    · refine ((planWrite_out ..).same _ ?_).trans (ih q hn hlen)
      rintro ⟨hlo, hhi⟩
      simp only [List.length_take, List.length_drop] at hhi
      rw [lineByte_inside (by omega)] at hlo
      omega
    · have haddr : lineByte b line (8 * n) = sramBase b + 128 * line + 8 * n := lineByte_inside (by omega)
      have hwlen : ((bs.drop (8 * n)).take 8).length = min 8 (bs.length - 8 * n) := by simp
      have hbase : sramBase b = 0x400000000000 + b * 0x800000 := rfl
      have hblock : (lineByte b line (8 * n) - sramStart) / blockBytes = b := by
        rw [haddr, hbase]
        simp only [sramStart, blockBytes] at *
        omega
      rw [planWrite_in v unit _ _ (bad n) (by rw [haddr, hbase]; simp only [hbmBytes]; omega) ?_ _ ⟨by omega, by omega⟩]
      · rw [haddr, getAt_eq_getElem, List.getElem?_take_of_lt (by omega), List.getElem?_drop]
        congr 2
        omega
      · rw [hblock, htable, haddr]
        omega

/-- The bytes stored in lines that do not wrap and lie beside the descriptor table are the string's. -/
theorem storeLines_in (unit : Nat) (bad : Nat → Bool) (hb : b < 128) (hfit : line + ceilDiv bs.length 128 ≤ 65536)
    (htab : ¬ ((tableOf s b).1 < sramBase b + 128 * line + bs.length ∧ sramBase b + 128 * line < (tableOf s b).1 + (tableOf s b).2)) {q : Nat}
    (hq : q < bs.length) : memByte (storeLines s unit b line bs bad).mem (sramBase b + 128 * line + q) = getAt 0 bs q := by
  have hlen : bs.length ≤ 128 * ceilDiv bs.length 128 := by
    unfold ceilDiv
    omega
  have hfit' : 128 * line + bs.length ≤ blockBytes := by
    have hsize : blockBytes = 128 * 65536 := rfl
    omega
  unfold storeLines
  dsimp only
  split
  · exact storeWords_in unit bad hb hfit' htab _ q (by unfold ceilDiv; omega) hq
  · rw [lineRanges, if_pos hfit, planWriteAll, planWriteAll, List.take_of_length_le hlen]
    have hbase : sramBase b = 0x400000000000 + b * 0x800000 := rfl
    have hblock : (sramBase b + 128 * line - sramStart) / blockBytes = b := by
      rw [hbase]
      simp only [sramStart, blockBytes] at *
      omega
    rw [planWrite_in s unit _ _ false (by rw [hbase]; simp only [hbmBytes]; omega) ?_ _ ⟨by omega, by omega⟩]
    · rw [getAt_eq_getElem, Nat.add_sub_cancel_left]
    · rw [hblock]
      omega

end

/-! ### Scales stored (R33, R80) -/

section
variable {s : State} {b a : Nat} {sc : List Byte}

/-- Changes in order, each of a state that the changes before it leave in the places that matter. -/
theorem memOut_each {α : Type} {T : List Nat} {P : Nat → Prop} {f : State → α → State} {l : List α}
    (hf : ∀ v x, x ∈ l → Keeps T s v → MemOut P v (f v x) ∧ Keeps T s (f v x)) (u : State) (hu : Keeps T s u) : MemOut P u (u.each l f) := by
  induction l generalizing u with
  | nil => exact .refl _ u
  | cons x rest ih =>
    obtain ⟨hout, hkeep⟩ := hf u x (List.mem_cons_self ..) hu
    exact hout.trans (ih (fun v y hy => hf v y (List.mem_cons_of_mem _ hy)) _ hkeep)

/-- A place of the 32 scales from an address of the plan on. -/
def InScales (s : State) (b a x : Nat) : Prop := ∃ k < 4, ∃ rs, s.planRange b (a + 8 * k) 8 = some rs ∧ Within rs x

theorem planRange_stored {t : State} (h : Keeps [2, 3, 6, 16, 0x3021, 0x6101, 0x6102, 0x7002] s t) (a n : Nat) : t.planRange b a n = s.planRange b a n :=
  h.planRange_eq (by unfold ViewFree; decide) b a n

theorem storeScales_out (bad : Nat → Bool) (hsc : sc.length = 32) (s : State) : MemOut (InScales s b a) s (storeScales s b a sc bad) := by
  have hn : ceilDiv sc.length 8 = 4 := by rw [hsc]; rfl
  rw [storeScales, hn]
  refine memOut_each (s := s) (T := [2, 3, 6, 16, 0x3021, 0x6101, 0x6102, 0x7002]) (fun v k hk hv => ⟨?_, planStore_keeps Sub.rfl hv⟩) s (Keeps.refl _ s)
  have hk4 : k < 4 := List.mem_range.1 hk
  refine (planStore_out ..).mono fun x ⟨rs, hrs, hx⟩ => ⟨k, hk4, rs, ?_, hx⟩
  have hlen : ((sc.drop (8 * k)).take 8).length = 8 := by
    rw [List.length_take, List.length_drop, hsc]
    omega
  rwa [hlen, planRange_stored hv] at hrs

end

/-! ### Elements of a register in a format (R28, R33, R34) -/

section
variable {nctl : Nat} {key : SrKey}

theorem length_packElems (c : Nat) (es : List Nat) : (packElems c es).length = es.length * fmtBits c / 8 := by simp [packElems]

theorem length_mxElems (f : FFmt) (x : Int) (k : Nat) (vs : List FV) : (mxElems f nctl key x k vs).length = vs.length := by
  induction vs generalizing k with
  | nil => rfl
  | cons v rest ih => simp [mxElems, ih]

theorem length_mxBlock (k : Nat) (vs : List FV) : (mxBlock nctl key k vs).elems.length = vs.length := by
  unfold mxBlock
  dsimp only
  split_ifs <;> simp [length_mxElems]

theorem length_mxAll (k : Nat) (gs : List (List FV)) : (mxAll nctl key k gs).length = gs.length := by
  induction gs generalizing k with
  | nil => rfl
  | cons g rest ih => simp [mxAll, ih]

theorem length_mxAll_elems (k : Nat) (gs : List (List FV)) : ((mxAll nctl key k gs).map (·.elems)).flatten.length = gs.flatten.length := by
  induction gs generalizing k with
  | nil => rfl
  | cons g rest ih => simp only [mxAll, List.map_cons, List.flatten_cons, List.length_append, length_mxBlock, ih]

theorem flatten_groupsOf {α : Type} (fuel n : Nat) (l : List α) : (groupsOf fuel n l).flatten = l.take (fuel * n) := by
  induction fuel generalizing l with
  | zero => simp [groupsOf]
  | succ f ih =>
    unfold groupsOf
    split
    next h => simp [List.isEmpty_iff.1 h]
    next => rw [List.flatten_cons, ih, Nat.succ_mul, Nat.add_comm, List.take_add]

theorem length_groupsOf {α : Type} {fuel n : Nat} {l : List α} (hn : 0 < n) (h : fuel * n ≤ l.length) : (groupsOf fuel n l).length = fuel := by
  induction fuel generalizing l with
  | zero => rfl
  | succ f ih =>
    rw [Nat.succ_mul] at h
    unfold groupsOf
    rw [if_neg (by rw [List.isEmpty_iff]; rintro rfl; simp at h; omega), List.length_cons, ih (by rw [List.length_drop]; omega)]

theorem length_sublanes (w n x : Nat) : (sublanes w n x).length = n := by
  induction n generalizing x with
  | zero => rfl
  | succ n ih => simp [sublanes, ih]

theorem le_length_flatten {α β : Type} (f : α → List β) (hf : ∀ x, 0 < (f x).length) (l : List α) : l.length ≤ (l.map f).flatten.length := by
  induction l with
  | nil => exact Nat.le_refl _
  | cons x rest ih =>
    have := hf x
    simp only [List.map_cons, List.flatten_cons, List.length_append, List.length_cons]
    omega

/-- A register holds at least one element for each lane. -/
theorem le_length_regElems (c : Nat) (l : List Word) : l.length ≤ (regElems c l).length := by
  unfold regElems
  split
  · simp
  next h =>
    refine le_length_flatten _ (fun x => ?_) l
    rw [List.length_map, subs, length_sublanes]
    unfold wholeLane fmtInt at h
    unfold fmtInt
    split at h <;> simp_all

/-- Values enough for the 32 blocks of a register. -/
theorem mxAll_register {vs : List FV} (k : Nat) (h : 1024 ≤ vs.length) : (mxAll nctl key k (groupsOf 32 32 vs)).length = 32 ∧
    ((mxAll nctl key k (groupsOf 32 32 vs)).map (·.elems)).flatten.length = 1024 := by
  refine ⟨by rw [length_mxAll, length_groupsOf (by decide) h], ?_⟩
  rw [length_mxAll_elems, flatten_groupsOf, List.length_take]
  omega

theorem elemCount_mx {c : Nat} (h : fmtMx c = true) : elemCount c = 1024 := by
  refine if_pos ?_
  unfold wholeLane
  simp only [fmtMx, Bool.and_eq_true, decide_eq_true_eq] at h
  unfold fmtInt
  split <;> simp_all

end

end Sys2Proof.Machine
end

section
/-! VST, SCATTER, SCATTER_ADD and CVT_MX (R54, R57, R80). -/

namespace Sys2Proof.Machine

open Sys2Proof

section
variable {s t : State} {i : Issue} {w : VecSlot}

/-! ### The state on which a store acts -/

/-- The state in which a traced slot has read its descriptor. -/
def storeIn (s : State) (i : Issue) (w : VecSlot) : State := (readDesc (vecIn s i w) i (vDesc w)).1

theorem storeIn_way (s : State) (i : Issue) (w : VecSlot) :
    Keeps [5, 6, 8, 9, 13, 16, 20, 0x3021, 0x3410, 0x3411, 0x4110, 0x4140, 0x6202, 0x7002, 0x8200, 0x9000, 0x9001, 0x9010] s (storeIn s i w) :=
  ((vecIn_way ..).mono (.of rfl Sub.rfl)).trans ((readDesc_way ..).mono (.of rfl Sub.rfl))

theorem storeIn_mem (s : State) (i : Issue) (w : VecSlot) : (storeIn s i w).mem = s.mem := (storeIn_way s i w).mem rfl

theorem storeIn_vregs (s : State) (i : Issue) (w : VecSlot) : ((storeIn s i w).block i.block).vregs = (s.block i.block).vregs := by
  rw [storeIn, (readDesc_way ..).block rfl, vecIn_vregs]

theorem storeIn_plans (s : State) (i : Issue) (w : VecSlot) : SamePlans s (storeIn s i w) :=
  ((takenState_plans ..).trans (.of_keeps (T := [5, 0x8200]) (traceRec_way ..) rfl)).trans (readDesc_plans ..)

theorem storeIn_desc (s : State) (i : Issue) (w : VecSlot) : (readDesc (vecIn s i w) i (vDesc w)).2.1 = s.desc i.block (vDesc w) :=
  (readDesc_desc ..).trans (vecIn_desc ..)

theorem storeIn_inScales {a x : Nat} (h : InScales (storeIn s i w) i.block a x) : InScales s i.block a x := by
  obtain ⟨k, hk, rs, hrs, hx⟩ := h
  exact ⟨k, hk, rs, ((storeIn_way s i w).planRange_eq (by unfold ViewFree; decide) ..).symm.trans hrs, hx⟩

theorem MemOut.from_storeIn {P : Nat → Prop} (h : MemOut P (storeIn s i w) t) : MemOut P s t := (MemOut.of_eq (storeIn_mem s i w)).trans h

/-- What follows a store leaves memory: counts, a watch point and a trace record. -/
theorem storeEnd_mem (u : State) (b bit unit op seq fmt : Nat) (a : Arith) (vs : List FV) (bs : List Byte) :
    (traceRec (watchFeed (countArith u b a) b op 1 fmt vs bs) b bit unit op seq true).mem = u.mem :=
  ((traceRec_way ..).mem rfl).trans (((watchFeed_keeps Sub.rfl (Keeps.refl _ _)).mem rfl).trans ((countArith_way ..).mem rfl))

/-! ### VST (R80) -/

/-- The elements of a register that VST narrows. -/
def vstValues (s : State) (i : Issue) (w : VecSlot) : List FV := (regElems (vSrc w) (vLanes s i.block (vA w))).take (elemCount (nctlFmt (vNctl w)))

/-- The bits of the elements that VST stores in a format without scales. -/
def vstElems (s : State) (i : Issue) (w : VecSlot) : List Nat :=
  padElems (storeIn s i w) (elemCount (nctlFmt (vNctl w)))
    ((narrowAll (vNctl w) ((storeIn s i w).srKey i.block (s.desc i.block (vDesc w))) (s.desc i.block (vDesc w)).ibase (vstValues s i w)).map (·.bits))

theorem length_vstElems : (vstElems s i w).length = elemCount (nctlFmt (vNctl w)) := by
  simp only [vstElems, padElems, vstValues, List.length_append, List.length_map, List.length_range, length_narrowAll, List.length_take]
  omega

theorem length_vst_bytes {c : Nat} {es : List Nat} (h : es.length = elemCount c) : (packElems c es).length = vBytes c := by
  rw [length_packElems, h, vBytes]

theorem ceilDiv_lines (c : Nat) : ceilDiv (vBytes c) 128 ≤ 65536 := by
  have := vBytes_le c
  unfold ceilDiv
  omega

/-- The state after the lines of VST in a format without scales, before what follows a store. -/
theorem vst_plain (hmx : fmtMx (nctlFmt (vNctl w)) = false) (bit unit seq : Nat) : ∃ (v : State) (bad : Nat → Bool),
    (v = (storeIn s i w).tick ∨ v = storeIn s i w) ∧
    (traceRec (vst (vecIn s i w) i w) i.block bit unit (vDesc w) seq true).mem =
      (storeLines v (uVec i.block) i.block (vImm w) (packElems (nctlFmt (vNctl w)) (vstElems s i w)) bad).mem := by
  refine ⟨if (narrowAll (vNctl w) ((storeIn s i w).srKey i.block (s.desc i.block (vDesc w))) (s.desc i.block (vDesc w)).ibase
    (vstValues s i w)).length < elemCount (nctlFmt (vNctl w)) then (storeIn s i w).tick else storeIn s i w, ?_, ?_, ?_⟩
  rotate_left
  · split
    · exact .inl rfl
    · exact .inr rfl
  · unfold vst
    dsimp only
    rw [storeIn_desc, show (readDesc (vecIn s i w) i (vDesc w)).1 = storeIn s i w from rfl, if_neg (by simp [hmx]),
      vLanes_of_vregs (storeIn_vregs s i w), storeEnd_mem]
    rfl

/-- The state after the lines and scales of VST in an MX format. -/
theorem vst_scaled (hmx : fmtMx (nctlFmt (vNctl w)) = true) (bit unit seq : Nat) : ∃ (bl : List MxBlock) (bad bad' : Nat → Bool),
    bl.length = 32 ∧ (bl.map (·.elems)).flatten.length = 1024 ∧
    (traceRec (vst (vecIn s i w) i w) i.block bit unit (vDesc w) seq true).mem =
      (storeScales (storeLines (storeIn s i w) (uVec i.block) i.block (vImm w) (packElems (nctlFmt (vNctl w)) (bl.map (·.elems)).flatten) bad)
        i.block (s.desc i.block (vDesc w)).addrA (bl.map fun m => BitVec.ofNat 8 m.scale) bad').mem := by
  have hvals : 1024 ≤ (vstValues s i w).length := by
    rw [vstValues, elemCount_mx hmx, List.length_take]
    have := le_length_regElems (vSrc w) (vLanes s i.block (vA w))
    have := length_vLanes s i.block (vA w)
    omega
  obtain ⟨hlen, helems⟩ := mxAll_register (nctl := vNctl w) (key := (storeIn s i w).srKey i.block (s.desc i.block (vDesc w)))
    (s.desc i.block (vDesc w)).ibase hvals
  refine ⟨_, ?_, ?_, hlen, helems, ?_⟩
  rotate_left 2
  · unfold vst
    dsimp only
    rw [storeIn_desc, show (readDesc (vecIn s i w) i (vDesc w)).1 = storeIn s i w from rfl, if_pos hmx,
      vLanes_of_vregs (storeIn_vregs s i w), storeEnd_mem]
    rfl

/-- VST changes only its lines and, for an MX format, its scales. -/
theorem vst_out (bit unit seq a : Nat) (hlines : ¬ InLines i.block (vImm w) (ceilDiv (vBytes (nctlFmt (vNctl w))) 128) a)
    (hscales : fmtMx (nctlFmt (vNctl w)) = true → ¬ InScales s i.block (s.desc i.block (vDesc w)).addrA a) :
    memByte (traceRec (vst (vecIn s i w) i w) i.block bit unit (vDesc w) seq true).mem a = memByte s.mem a := by
  cases hmx : fmtMx (nctlFmt (vNctl w)) with
  | false =>
    obtain ⟨v, bad, hv, hmem⟩ := vst_plain (s := s) (i := i) hmx bit unit seq
    have hvm : v.mem = s.mem := by
      obtain rfl | rfl := hv
      · exact storeIn_mem s i w
      · exact storeIn_mem s i w
    rw [hmem, (storeLines_out _ bad (vImm_lt w) (ceilDiv_lines _) (by rw [length_vst_bytes length_vstElems]) v).same a hlines, hvm]
  | true =>
    obtain ⟨bl, bad, bad', hlen, helems, hmem⟩ := vst_scaled (s := s) (i := i) hmx bit unit seq
    have hstore := storeLines_out (uVec i.block) bad (vImm_lt w) (ceilDiv_lines (nctlFmt (vNctl w))) (b := i.block)
      (bs := packElems (nctlFmt (vNctl w)) (bl.map (·.elems)).flatten) (by rw [length_vst_bytes (helems.trans (elemCount_mx hmx).symm)]) (storeIn s i w)
    rw [hmem, (storeScales_out bad' (by rw [List.length_map, hlen]) _).same a ?_, hstore.same a hlines, storeIn_mem]
    rintro ⟨k, hk, rs, hrs, hin⟩
    rw [planRange_stored ((storeLines_keeps Sub.rfl (Keeps.refl _ _)).mono (.of rfl Sub.rfl))] at hrs
    exact hscales hmx (storeIn_inScales ⟨k, hk, rs, hrs, hin⟩)

/-- The bytes of VST in a format of whole lanes, beside the descriptor table. -/
theorem vst_in (bit unit seq : Nat) {q : Nat} (hmx : fmtMx (nctlFmt (vNctl w)) = false) (hsrc : wholeLane (vSrc w) = true)
    (hdst : wholeLane (nctlFmt (vNctl w)) = true) (hfit : vImm w + ceilDiv (vBytes (nctlFmt (vNctl w))) 128 ≤ 65536) (hq : q < vBytes (nctlFmt (vNctl w)))
    (htab : ¬ ((tableOf s i.block).1 < sramBase i.block + 128 * vImm w + vBytes (nctlFmt (vNctl w)) ∧
      sramBase i.block + 128 * vImm w < (tableOf s i.block).1 + (tableOf s i.block).2)) (hb : i.block < 128) :
    memByte (traceRec (vst (vecIn s i w) i w) i.block bit unit (vDesc w) seq true).mem (sramBase i.block + 128 * vImm w + q) =
      getAt 0 (packElems (nctlFmt (vNctl w)) ((narrowAll (vNctl w) (s.srKey i.block (s.desc i.block (vDesc w))) (s.desc i.block (vDesc w)).ibase
        (((vLanes s i.block (vA w)).take 1024).map f32)).map (·.bits))) q := by
  obtain ⟨v, bad, hv, hmem⟩ := vst_plain (s := s) (i := i) hmx bit unit seq
  have hkey : (storeIn s i w).srKey i.block (s.desc i.block (vDesc w)) = s.srKey i.block (s.desc i.block (vDesc w)) :=
    srKey_eq (storeIn_way s i w) (storeIn_plans s i w) (by decide) (by decide) _ _
  have htable : tableOf v i.block = tableOf s i.block := by
    have hin := tableOf_eq (storeIn_way s i w) (storeIn_plans s i w) (by decide) (by decide) i.block
    obtain rfl | rfl := hv
    · exact hin
    · exact hin
  have hvals : vstValues s i w = ((vLanes s i.block (vA w)).take 1024).map f32 := by
    rw [vstValues, regElems_whole hsrc hdst, List.map_take]
  have helems : vstElems s i w = (narrowAll (vNctl w) (s.srKey i.block (s.desc i.block (vDesc w))) (s.desc i.block (vDesc w)).ibase
      (((vLanes s i.block (vA w)).take 1024).map f32)).map (·.bits) := by
    rw [vstElems, hkey, hvals]
    refine padElems_full ?_
    have := length_vLanes s i.block (vA w)
    rw [List.length_map, length_narrowAll, List.length_map, List.length_take, elemCount, if_pos hdst]
    omega
  have hlen : (packElems (nctlFmt (vNctl w)) (vstElems s i w)).length = vBytes (nctlFmt (vNctl w)) := length_vst_bytes length_vstElems
  rw [hmem, storeLines_in _ _ hb (by rw [hlen]; exact hfit) (by rw [hlen, htable]; exact htab) (by rw [hlen]; exact hq), helems]

/-! ### SCATTER and SCATTER_ADD (R57) -/

/-- A place of an element that a lane names. -/
def InElems (s : State) (i : Issue) (w : VecSlot) (a : Nat) : Prop := ∃ x ∈ vLanes s i.block (vB w), ∃ o, elemBit w x.toNat = some o ∧
  sramBase i.block + o / 8 ≤ a ∧ a < sramBase i.block + o / 8 + (o % 8 + elemBits (vSrc w) + 7) / 8

theorem putElem_out (b c o v : Nat) (bad : Bool) (u : State) :
    MemOut (InRange (sramBase b + o / 8) ((o % 8 + elemBits c + 7) / 8)) u (putElem u b c o v bad) :=
  (planWrite_out ..).mono fun a ha => by simpa [leBytes] using ha

/-- A lane of a scatter names its element by the lane's index. -/
theorem inElems_of_lane {u : State} (hu : (u.block i.block).vregs = (s.block i.block).vregs) {l : Option Nat × Word × Bool} (hl : l ∈ scatterLanes u i w)
    {o a : Nat} (ho : l.1 = some o) (ha : InRange (sramBase i.block + o / 8) ((o % 8 + elemBits (vSrc w) + 7) / 8) a) : InElems s i w a := by
  obtain ⟨k, hk, rfl⟩ := List.mem_iff_getElem.1 hl
  simp only [scatterLanes, List.getElem_zipWith] at ho
  refine ⟨_, ?_, o, ho, ha⟩
  rw [← vLanes_of_vregs hu]
  exact (List.of_mem_zip (List.getElem_mem _)).2

theorem scatter_out : MemOut (InElems s i w) s (scatter (vecIn s i w) i w) := by
  unfold scatter
  dsimp only
  refine ((MemOut.of_eq (vecIn_mem s i w)).trans (MemOut.each fun v l hl => ?_)).trans (MemOut.of_eq ((outsideLanes_way ..).mem rfl))
  split
  · rename_i o ho
    exact ((putElem_out ..).mono fun a ha => inElems_of_lane (vecIn_vregs s i w) hl ho ha).trans (MemOut.of_eq ((countArith_way ..).mem rfl))
  · exact .refl _ _

theorem scatterAdd_out (ecc : List EccHit) : MemOut (InElems s i w) s (scatterAdd (vecIn s i w) i w ecc) := by
  have hpoison (v : State) (l : List Nat) (f : Nat → Nat) : (v.each l fun t k => poisonReads t (f k) 8).mem = v.mem :=
    (each_keeps (fun t k h => poisonReads_keeps Sub.rfl h) (Keeps.refl _ v)).mem rfl
  have hecc (v : State) (l : List EccHit) (u a : Nat) : (v.each l fun t e => eccHit t u a e).mem = v.mem :=
    (each_keeps (fun t k h => eccHit_keeps Sub.rfl h) (Keeps.refl _ v)).mem rfl
  unfold scatterAdd
  dsimp only
  refine ((MemOut.of_eq ?_).trans (MemOut.each fun v l hl => ?_)).trans (MemOut.of_eq ((outsideLanes_way ..).mem rfl))
  · rw [hpoison, hecc, vecIn_mem]
  · split
    · rename_i o ho
      have hput (n : Nat) (bad : Bool) : MemOut (InElems s i w) v (putElem v i.block (vSrc w) o n bad) :=
        (putElem_out ..).mono fun a ha => inElems_of_lane (vecIn_vregs s i w) hl ho ha
      split
      · exact hput ..
      · exact (hput ..).trans (MemOut.of_eq ((countArith_way ..).mem rfl))
      · exact .refl _ _
    · exact .refl _ _

/-! ### CVT_MX (R33, R80) -/

/-- The state after CVT_MX. -/
theorem cvtMx_state : ∃ (l : List Word) (sc : List Byte) (bad : List Nat) (bad' : Nat → Bool) (a : Arith), sc.length = 32 ∧
    cvtMx (vecIn s i w) i w = countArith (storeScales (setVreg (storeIn s i w) i.block (vD w) l bad) i.block (s.desc i.block (vDesc w)).addrA sc bad') i.block a := by
  have hlen : (mxAll (vNctl w) ((storeIn s i w).srKey i.block (s.desc i.block (vDesc w))) (s.desc i.block (vDesc w)).ibase
      (groupsOf 32 32 ((vLanes (storeIn s i w) i.block (vA w)).map f32))).length = 32 :=
    (mxAll_register _ (by rw [List.length_map]; exact length_vLanes ..)).1
  unfold cvtMx
  dsimp only
  rw [storeIn_desc, show (readDesc (vecIn s i w) i (vDesc w)).1 = storeIn s i w from rfl]
  exact ⟨_, _, _, _, _, (List.length_map ..).trans hlen, rfl⟩

/-- CVT_MX changes only its scales, and of the registers only its own. -/
theorem cvtMx_out : MemOut (InScales s i.block (s.desc i.block (vDesc w)).addrA) s (cvtMx (vecIn s i w) i w) ∧
    ∀ q, q ≠ vD w → vLanes (cvtMx (vecIn s i w) i w) i.block q = vLanes s i.block q := by
  obtain ⟨l, sc, bad, bad', ar, hlen, heq⟩ := cvtMx_state (s := s) (i := i) (w := w)
  rw [heq]
  have hset : Keeps [5] (storeIn s i w) (setVreg (storeIn s i w) i.block (vD w) l bad) := setVreg_keeps Sub.rfl (Keeps.refl _ _)
  constructor
  · refine ((MemOut.of_eq (hset.mem rfl)).trans ((storeScales_out bad' hlen _).mono fun a ha => ?_)).trans (MemOut.of_eq ((countArith_way ..).mem rfl)) |>.from_storeIn
    obtain ⟨k, hk, rs, hrs, hin⟩ := ha
    exact storeIn_inScales ⟨k, hk, rs, (hset.planRange_eq (by unfold ViewFree; decide) ..).symm.trans hrs, hin⟩
  · intro q hq
    rw [vLanes_of_vregs (congrArg Block.vregs ((countArith_way ..).block rfl i.block)),
      vLanes_of_vregs (congrArg Block.vregs ((storeScales_keeps Sub.rfl (Keeps.refl _ _)).block rfl i.block)), vLanes_setVreg_other _ _ hq,
      vLanes_of_vregs (storeIn_vregs s i w)]

end

/-- Settles O16: loads set one register of what their lines hold, and stores change their own lines, elements and scales. -/
theorem vectorLoadsAndStores : Obligations.VectorLoadsAndStores := by
  refine ⟨fun s i w ecc htaken hwf => ?_, fun s i w htaken => ?_⟩
  · intro b c others
    obtain ⟨l, hset, -, hwhole, hint⟩ := vld_sets (i := i) (w := w) hwf ecc
    obtain ⟨hlanes, hothers, hmem⟩ := regSet_traced (bit := 3) (unit := uVec i.block) (op := vDesc w) (seq := i.seq) (isEnd := true) hset
    refine ⟨⟨_, congrArg Host.Outcome.next (vecTraced_taken htaken _), ⟨hothers, hmem⟩, fun hmx hw j hj => ?_, fun hw j hj => ?_⟩, ?_⟩
    · rw [hlanes, hwhole hmx hw, List.getElem?_map, List.getElem?_range hj]
      rfl
    · rw [hlanes, hint (fmtMx_of_sublanes hw) hw, List.getElem?_map, List.getElem?_range hj]
      rfl
    · obtain ⟨hlanes, hothers, hmem⟩ := regSet_traced (bit := 3) (unit := uVec i.block) (op := vDesc w) (seq := i.seq) (isEnd := true)
        (gather_sets (s := s) (i := i) (w := w) ecc)
      refine ⟨_, congrArg Host.Outcome.next (vecTraced_taken htaken _), ⟨hothers, hmem⟩, fun j hj => ?_⟩
      have hlen : j < (vLanes s i.block (vA w)).length := Nat.lt_of_lt_of_le hj (length_vLanes ..)
      rw [hlanes, List.getElem?_map, getAt_eq_getElem, List.getElem?_eq_getElem hlen]
      rfl
  · intro b c lines inLines inScales inElems
    have hend (u : State) : (traceRec u i.block 3 (uVec i.block) (vDesc w) i.seq true).mem = u.mem := (traceRec_way ..).mem rfl
    refine ⟨⟨_, congrArg Host.Outcome.next (vecTraced_taken htaken _), fun a hl hsc => vst_out _ _ _ a hl hsc,
      fun hmx hsrc hdst _ q hfit hq htab hb => vst_in _ _ _ hmx hsrc hdst hfit hq htab hb⟩,
      ⟨_, congrArg Host.Outcome.next (vecTraced_taken htaken _), fun a ha => ?_⟩, fun ecc => ⟨_, congrArg Host.Outcome.next (vecTraced_taken htaken _), fun a ha => ?_⟩,
      ⟨_, congrArg Host.Outcome.next (vecTraced_taken htaken _), fun a ha => ?_, fun q hq => ?_⟩⟩
    · rw [hend]
      exact scatter_out.same a ha
    · rw [hend]
      exact (scatterAdd_out ecc).same a ha
    · rw [hend]
      exact cvtMx_out.1.same a ha
    · rw [vLanes_of_vregs (traceRec_vregs ..)]
      exact cvtMx_out.2 q hq

end Sys2Proof.Machine
end

section
/-! Writes of the partition table (R107, R111, R117). -/

namespace Sys2Proof.Machine

open Sys2Proof

/-! ### Entries cleared -/

section
variable {s t : State}

/-- A clearing of entries leaves the instances it does not name. -/
theorem rd_odClear {p : Nat → Nat → Nat → Bool} {r : Reg} {i : Nat} (h : p (odKey r i / 16777216) (odKey r i / 65536 % 256) (odKey r i % 65536) = false) :
    (s.odClear p).rd r i = s.rd r i := by
  simp only [State.rd, mapGet_eq_find]
  refine congrArg (Option.getD · _) (mapFind_filter _ _ _ fun _ => ?_)
  simp only [h, Bool.not_false]

theorem rd_clearBlockCounters (bs : List Nat) {r : Reg} (i : Nat) (h : r.index ≠ 0x3040) : (s.each bs clearBlockCounters).rd r i = s.rd r i := by
  induction bs generalizing s with
  | nil => rfl
  | cons b rest ih =>
    have hclear : (clearBlockCounters s b).rd r i = s.rd r i := by
      refine rd_odClear (s := s) (p := fun idx _ inst => idx == 0x3040 && inst == b) ?_
      rw [odKey_index, beq_false_of_ne h, Bool.false_and]
    exact ih.trans hclear

end

/-! ### Zeroing begins (R112) -/

section
variable {s : State} {b k cause : Nat}

/-- A block is being zeroed from its first line. -/
def BlockZeroing (s : State) (b : Nat) : Prop := s.rd R.MEM_ZERO_BLOCK b = 1 ∧ s.rd R.MEM_ZERO_LINE b = 0

/-- A slice is to be zeroed from its first sector. -/
def SliceZeroing (s : State) (k : Nat) : Prop := s.rd R.MEM_ZERO_SLICE k ≠ 0 ∧ s.rd R.MEM_ZERO_SECTOR k = 0

theorem zeroBlock_zeroing (s : State) (b cause : Nat) : BlockZeroing (zeroBlock s b cause) b := by
  unfold zeroBlock
  dsimp only
  constructor
  · rw [rd_wr_ne _ _ (by decide), rd_wr_same]
    rfl
  · rw [rd_wr_same]
    rfl

theorem zeroBlock_other {b' : Nat} (hb : b < 128) (hb' : b' < 128) (h : BlockZeroing s b) : BlockZeroing (zeroBlock s b' cause) b := by
  obtain rfl | hne := eq_or_ne b b'
  · exact zeroBlock_zeroing ..
  · have hrec (r : Reg) (hr : regPlace r = 0x3401) : (if s.rd R.MEM_ZERO_BLOCK b' = 1 then s.record 0x5031 uFcc [(1, 1), (2, b'), (1, cause)] else s).rd r b = s.rd r b := by
      split
      · refine (keeps_record ..).rd r b ?_
        rw [hr]
        rfl
      · rfl
    unfold zeroBlock
    dsimp only
    constructor
    · rw [rd_wr_ne _ _ (by decide), rd_wr_inst _ _ (by omega), hrec _ rfl, h.1]
    · rw [rd_wr_inst _ _ (by omega), rd_wr_ne _ _ (by decide), hrec _ rfl, h.2]

theorem each_zeroBlock {bs : List Nat} (hbs : ∀ b ∈ bs, b < 128) (hb : b < 128) (h : b ∈ bs ∨ BlockZeroing s b) :
    BlockZeroing (s.each bs fun t b => zeroBlock t b cause) b := by
  induction bs generalizing s with
  | nil => exact h.resolve_left (List.not_mem_nil)
  | cons b' rest ih =>
    refine ih (fun c hc => hbs c (List.mem_cons_of_mem _ hc)) ?_
    rcases h with hin | h
    · obtain rfl | hin := List.mem_cons.1 hin
      · exact .inr (zeroBlock_zeroing ..)
      · exact .inl hin
    · exact .inr (zeroBlock_other hb (hbs b' (List.mem_cons_self ..)) h)

theorem zeroSlice_zeroing (s : State) (k cause : Nat) : SliceZeroing (zeroSlice s k cause) k := by
  unfold zeroSlice
  dsimp only
  constructor
  · rw [rd_wr_ne _ _ (by decide), rd_wr_same]
    split <;> decide
  · rw [rd_wr_same]
    rfl

/-- Values written to the state and the sector of a slice leave another slice, and start this one. -/
theorem SliceZeroing.wr {k' st : Nat} (hk : k < 384) (hk' : k' < 384) (hst : st = 1 ∨ st = 2) (h : SliceZeroing s k) :
    SliceZeroing ((s.wr R.MEM_ZERO_SLICE k' st).wr R.MEM_ZERO_SECTOR k' 0) k := by
  obtain rfl | hne := eq_or_ne k k'
  · constructor
    · rw [rd_wr_ne _ _ (by decide), rd_wr_same]
      obtain rfl | rfl := hst <;> decide
    · rw [rd_wr_same]
      rfl
  · constructor
    · rw [rd_wr_ne _ _ (by decide), rd_wr_inst _ _ (by omega)]
      exact h.1
    · rw [rd_wr_inst _ _ (by omega), rd_wr_ne _ _ (by decide)]
      exact h.2

theorem dropHosted_od (s : State) (k : Nat) : (dropHosted s k).od = s.od := by
  unfold dropHosted
  split <;> rfl

theorem SliceZeroing.congr {t : State} (h : SliceZeroing s k) (he : ∀ r : Reg, regPlace r = 0x3402 → t.rd r k = s.rd r k) : SliceZeroing t k :=
  ⟨(he _ rfl).trans_ne h.1, (he _ rfl).trans h.2⟩

theorem SliceZeroing.emit {e : Out} (h : SliceZeroing s k) : SliceZeroing (s.emit e) k := h.congr fun _ _ => rd_emit ..

theorem BlockZeroing.emit {e : Out} (h : BlockZeroing s b) : BlockZeroing (s.emit e) b := ⟨(rd_emit ..).trans h.1, (rd_emit ..).trans h.2⟩

theorem zeroSlice_other {k' : Nat} (hk : k < 384) (hk' : k' < 384) (h : SliceZeroing s k) : SliceZeroing (zeroSlice s k' cause) k := by
  unfold zeroSlice
  dsimp only
  refine .wr hk hk' (by split <;> simp) (h.congr fun r hr => ?_)
  rw [State.rd, dropHosted_od]
  split
  · refine (keeps_record ..).rd r k ?_
    rw [hr]
    rfl
  · rfl

theorem each_zeroSlice {ks : List Nat} (hks : ∀ k ∈ ks, k < 384) (hk : k < 384) (h : k ∈ ks ∨ SliceZeroing s k) :
    SliceZeroing (s.each ks fun t k => zeroSlice t k cause) k := by
  induction ks generalizing s with
  | nil => exact h.resolve_left (List.not_mem_nil)
  | cons k' rest ih =>
    refine ih (fun c hc => hks c (List.mem_cons_of_mem _ hc)) ?_
    rcases h with hin | h
    · obtain rfl | hin := List.mem_cons.1 hin
      · exact .inr (zeroSlice_zeroing ..)
      · exact .inl hin
    · exact .inr (zeroSlice_other hk (hks k' (List.mem_cons_self ..)) h)

theorem zeroNext_other {stack : Nat} (hst : stack < 8) (hk : k < 384) (h : SliceZeroing s k) : SliceZeroing (zeroNext s stack) k := by
  unfold zeroNext
  dsimp only
  split
  · exact h
  · split
    · rename_i k' hfind
      obtain ⟨j, hj, rfl⟩ := List.mem_map.1 (List.mem_of_find?_eq_some hfind)
      have hj' := List.mem_range.1 hj
      exact h.wr hk (by omega) (.inr rfl)
    · exact h

theorem each_zeroNext {l : List Nat} (hl : ∀ n ∈ l, n < 8) (hk : k < 384) (h : SliceZeroing s k) : SliceZeroing (s.each l zeroNext) k := by
  induction l generalizing s with
  | nil => exact h
  | cons n rest ih => exact ih (fun c hc => hl c (List.mem_cons_of_mem _ hc)) (zeroNext_other (hl n (List.mem_cons_self ..)) hk h)

/-- Blocks and slices put to zeroing are zeroed from their start. -/
theorem zeroStart_zeroing {p : Nat} {bs ks : List Nat} (hbs : ∀ b ∈ bs, b < 128) (hks : ∀ k ∈ ks, k < 384) :
    (∀ b ∈ bs, BlockZeroing (zeroStart s p bs ks cause) b) ∧ ∀ k ∈ ks, SliceZeroing (zeroStart s p bs ks cause) k := by
  unfold zeroStart
  split
  · rename_i h
    obtain ⟨rfl, rfl⟩ := h
    exact ⟨nofun, nofun⟩
  · have hend (u : State) (r : Reg) (i : Nat) (hr : regPlace r = 0x3401 ∨ regPlace r = 0x3402) (n : Nat) (fs : List (Nat × Nat)) :
        ((u.wr R.MEM_ZERO_PART 0 n).record 0x5030 uFcc fs).rd r i = u.rd r i := by
      have hk : Keeps [0x3403, 16, 0x7002] u ((u.wr R.MEM_ZERO_PART 0 n).record 0x5030 uFcc fs) := record_keeps (.of rfl Sub.rfl) (wr_keeps (.of rfl Sub.rfl) (Keeps.refl _ u))
      refine hk.rd r i ?_
      obtain hr | hr := hr <;> rw [hr] <;> rfl
    refine ⟨fun b hb => ?_, fun k hk => ?_⟩
    · have hkeep (u : State) : Keeps [7, 16, 0x3402, 0x7002] u ((u.each ks fun t k => zeroSlice t k cause).each (List.range 8) zeroNext) :=
        each_keeps (fun t n h => zeroNext_keeps (.of rfl Sub.rfl) h) (each_keeps (fun t n h => zeroSlice_keeps Sub.rfl h) (Keeps.refl _ u))
      obtain ⟨h1, h2⟩ := each_zeroBlock (s := s) (cause := cause) hbs (hbs b hb) (.inl hb)
      exact ⟨(hend _ _ _ (.inl rfl) _ _).trans (((hkeep _).rd R.MEM_ZERO_BLOCK b rfl).trans h1),
        (hend _ _ _ (.inl rfl) _ _).trans (((hkeep _).rd R.MEM_ZERO_LINE b rfl).trans h2)⟩
    · exact (each_zeroNext (fun n hn => List.mem_range.1 hn) (hks k hk) (each_zeroSlice hks (hks k hk) (.inl hk))).congr
        fun r hr => hend _ _ _ (.inr hr) _ _

theorem zeroStart_way (s : State) (p : Nat) (bs ks : List Nat) (cause : Nat) : Keeps [7, 16, 0x3401, 0x3402, 0x3403, 0x7002] s (zeroStart s p bs ks cause) :=
  zeroStart_keeps Sub.rfl (Keeps.refl _ s)

end

/-! ### The table's writes (R111) -/

section
variable {s : State} {who : Who} {x v : Nat}

theorem Allowed.inst_lt {r : Reg} {n : Nat} (hr : r.inst = .upto n) (h : Allowed s who r x v) : x < n := by
  obtain ⟨hin, -⟩ := allowed_iff.1 h
  rw [hr] at hin
  simpa [instIn] using hin

theorem mod_of_allowed {r : Reg} (h : Allowed s who r x v) : v % 2 ^ regBits r = v := Nat.mod_eq_of_lt h.lt

/-- A new owner of an Empty partition is written, and its blocks and slices are to be zeroed. -/
theorem partOwner_spec (h : Allowed s who R.CMP_PART_OWNER x v) (he : s.pstate x = psEmpty) (hne : v ≠ s.rd R.CMP_PART_OWNER x) :
    ∃ t, partOwner s x v = done t ∧ t.rd R.CMP_PART_OWNER x = v ∧ (∀ b ∈ s.blocksOf x, BlockZeroing t b) ∧ ∀ k ∈ s.slicesOf x, SliceZeroing t k := by
  have hbefore (r : Reg) (i : Nat) (hr : r.index ≠ 0x3040) :
      (denyFetched ((s.wr R.CMP_PART_OWNER x v).each (s.blocksOf x) clearBlockCounters) x).rd r i = (s.wr R.CMP_PART_OWNER x v).rd r i := rd_clearBlockCounters _ i hr
  have hslices : (denyFetched ((s.wr R.CMP_PART_OWNER x v).each (s.blocksOf x) clearBlockCounters) x).slicesOf x = s.slicesOf x := by
    unfold State.slicesOf
    refine List.filter_congr fun k _ => ?_
    rw [hbefore R.MEM_SLICE_PART k (by decide), rd_wr_ne _ _ (by decide)]
  refine ⟨_, (if_neg (not_not.2 he)).trans (if_neg hne.symm), ?_⟩
  rw [hslices]
  refine ⟨?_, zeroStart_zeroing (fun b hb => List.mem_range.1 (List.mem_filter.1 hb).1) (fun k hk => List.mem_range.1 (List.mem_filter.1 hk).1)⟩
  rw [(zeroStart_way ..).rd R.CMP_PART_OWNER x rfl, hbefore _ _ (by decide), rd_wr_same, mod_of_allowed h]

/-- A block that changes partition is to be zeroed. -/
theorem blockPart_spec (h : Allowed s who R.CMP_BLOCK_PART x v) (hold : partFree s (s.partOf x) = true) (hnew : partFree s v = true)
    (hm : s.obs.margin = none) (hne : v ≠ s.partOf x) : ∃ t, blockPart s x v = done t ∧ t.partOf x = v ∧ BlockZeroing t x := by
  have heq : blockPart s x v = done (zeroStart (s.wr R.CMP_BLOCK_PART x v) v [x] [] 1) := by
    unfold blockPart
    rw [if_neg (by simp [hold, hnew]), hm]
    exact if_neg hne.symm
  refine ⟨_, heq, ?_, (zeroStart_zeroing (by simpa using h.inst_lt rfl) (by simp)).1 x (List.mem_singleton.2 rfl)⟩
  rw [State.partOf, (zeroStart_way ..).rd R.CMP_BLOCK_PART x rfl, rd_wr_same, mod_of_allowed h]

/-- A slice that changes partition is to be zeroed. -/
theorem slicePart_spec (h : Allowed s who R.MEM_SLICE_PART x v) (hold : partFree s (s.rd R.MEM_SLICE_PART x) = true) (hnew : partFree s v = true)
    (hne : v ≠ s.rd R.MEM_SLICE_PART x) : ∃ t, slicePartW s x v = done t ∧ t.rd R.MEM_SLICE_PART x = v ∧ SliceZeroing t x := by
  refine ⟨_, (if_neg (by simp [hold, hnew])).trans (if_neg hne.symm), ?_, (zeroStart_zeroing (by simp) (by simpa using h.inst_lt rfl)).2 x (List.mem_singleton.2 rfl)⟩
  rw [(zeroStart_way ..).rd R.MEM_SLICE_PART x rfl, rd_wr_same, mod_of_allowed h]

/-- A slice that changes use hosts nothing and is to be zeroed. -/
theorem sliceUse_spec (h : Allowed s who R.MEM_SLICE_USE x v) (hold : partFree s (s.rd R.MEM_SLICE_PART x) = true) (hne : v ≠ s.rd R.MEM_SLICE_USE x) :
    ∃ t, sliceUse s x v = done t ∧ t.rd R.MEM_SLICE_USE x = v ∧ t.rd R.MEM_SLICE_HOST x = 0 ∧ SliceZeroing t x := by
  have hway (u : State) : Keeps [7, 16, 0x3401, 0x3402, 0x3403, 0x7002] u (zeroStart (dropAreas u) (s.rd R.MEM_SLICE_PART x) [] [x] 1) :=
    zeroStart_keeps Sub.rfl (dropAreas_keeps (.of rfl Sub.rfl) (Keeps.refl _ u))
  refine ⟨_, (if_neg (by simp [hold])).trans (if_neg hne.symm), ?_, ?_, (zeroStart_zeroing (by simp) (by simpa using h.inst_lt rfl)).2 x (List.mem_singleton.2 rfl)⟩
  · rw [(hway _).rd R.MEM_SLICE_USE x rfl, rd_wr_ne _ _ (by decide), rd_wr_same, mod_of_allowed h]
  · rw [(hway _).rd R.MEM_SLICE_HOST x rfl, rd_wr_same]
    rfl

end

/-- Settles O19: a change of the table is made only where its partition is Empty, and what changes hands is then zeroed from its start. -/
theorem partitionTable : Obligations.PartitionTable := by
  intro s who x v
  refine ⟨fun h => ⟨fun he hne => ?_, fun he => ?_⟩, fun h => ⟨fun he => ?_, fun he => ?_⟩, fun h => ⟨fun hold hnew hm hne => ?_, fun hn => ?_⟩,
    fun h => ⟨fun hold hnew hne => ?_, fun hn => ?_⟩, fun h => ⟨fun hold hne => ?_, fun hn => ?_⟩, fun h => ⟨fun he => ?_, fun he => ?_⟩⟩
  · obtain ⟨t, ht, hv, hb, hk⟩ := partOwner_spec h he hne
    exact writes_of_guard rfl h ht ⟨(rd_emit ..).trans hv, fun b hin => (hb b hin).emit, fun k hin => (hk k hin).emit⟩
  · exact turnedAway_of_guard rfl h (if_pos he)
  · have hway (u : State) : Keeps [0x6203] u (setTree u x) := setTree_keeps Sub.rfl (Keeps.refl _ u)
    have htag : partTag s x v = done (setTree (s.wr R.CMP_PART_TAG x v) x) := if_neg (not_not.2 he)
    refine writes_of_guard rfl h htag ⟨?_, ?_⟩
    · rw [rd_emit, (hway _).rd R.CMP_PART_TAG x rfl, rd_wr_same, mod_of_allowed h]
    · exact (hway (s.wr R.CMP_PART_TAG x v)).mem rfl
  · exact turnedAway_of_guard rfl h (if_pos he)
  · obtain ⟨t, ht, hp, hz⟩ := blockPart_spec h hold hnew hm hne
    exact writes_of_guard rfl h ht ⟨(rd_emit ..).trans hp, hz.emit⟩
  · exact turnedAway_of_guard rfl h (if_pos hn)
  · obtain ⟨t, ht, hp, hz⟩ := slicePart_spec h hold hnew hne
    exact writes_of_guard rfl h ht ⟨(rd_emit ..).trans hp, hz.emit.1⟩
  · exact turnedAway_of_guard rfl h (if_pos hn)
  · obtain ⟨t, ht, hp, hhost, hz⟩ := sliceUse_spec h hold hne
    exact writes_of_guard rfl h ht ⟨(rd_emit ..).trans hp, (rd_emit ..).trans hhost, hz.emit.1⟩
  · exact turnedAway_of_guard rfl h (if_pos hn)
  · have hway (u : State) : Keeps [7] u (dropAreas u) := dropAreas_keeps Sub.rfl (Keeps.refl _ u)
    have hhost : sliceHost s x v = done (dropAreas (s.wr R.MEM_SLICE_HOST x (v &&& R.MEM_SLICE_HOST.mask))) := if_neg (not_not.2 he)
    refine writes_of_guard rfl h hhost ⟨?_, ?_⟩
    · rw [rd_emit, (hway _).rd R.MEM_SLICE_HOST x rfl, rd_wr_same]
      exact Nat.mod_eq_of_lt (Nat.lt_of_le_of_lt Nat.and_le_right (by decide))
    · exact (hway (s.wr R.MEM_SLICE_HOST x (v &&& R.MEM_SLICE_HOST.mask))).mem rfl
  · exact turnedAway_of_guard rfl h (if_pos he)

end Sys2Proof.Machine
end

section
/-! The states of a port (R128, R142). -/

namespace Sys2Proof.Machine

open Sys2Proof

section
variable {s t : State} {port : Nat}

/-- No other port changes state. -/
def OtherPorts (s : State) (port : Nat) (t : State) : Prop := ∀ p, p < 6 → p ≠ port → t.rd R.FAB_PORT_STATE p = s.rd R.FAB_PORT_STATE p

theorem leaveUp_way (s : State) (port : Nat) : Keeps [4, 6, 9, 16, 0x4110, 0x4140, 0x5804, 0x7002] s (leaveUp s port) := leaveUp_keeps Sub.rfl (Keeps.refl _ s)

theorem penDecay_way (s : State) (u pts : Nat) : Keeps [13, 16, 0x7002, 0x9000, 0x9001] s (penDecay s u pts) := penDecay_keeps Sub.rfl (Keeps.refl _ s)

/-- A port's state written, and what the change leaves alone. -/
theorem otherPorts_wr {u : State} {v : Nat} (hport : port < 6) (hu : ∀ p, u.rd R.FAB_PORT_STATE p = s.rd R.FAB_PORT_STATE p)
    (ht : ∀ p, t.rd R.FAB_PORT_STATE p = (u.wr R.FAB_PORT_STATE port v).rd R.FAB_PORT_STATE p) : OtherPorts s port t := by
  intro p hp hne
  rw [ht, rd_wr_inst _ _ (by omega), hu]

/-! ### Training begins (R128) -/

/-- A port with light that leaves Up, if it was, and trains. -/
def trained (s : State) (port : Nat) (k : TrainKind) : State :=
  let s1 := if isOptical port then s.wr R.FAB_LSR_STATE (moduleOf port) 4 else s
  let s2 := ((leaveUp s1 port).wr R.FAB_PORT_STATE port 1).modPort port fun o =>
    { o with train := some k, attempts := 0, fecUp := false, helloSent := false }
  s2.modRouter fun r => { r with chipId := s2.rd R.FAB_CHIP_ID 0 }

theorem startTrain_bringup (h : s.lit port = true) : startTrain s port .bringup = trained s port .bringup :=
  if_neg (by simp [h])

theorem startTrain_full (h : s.lit port = true) : startTrain s port .full =
    penDecay (((trained s port .full).bumpSat R.FAB_RETRAIN_FULL port 1).bumpSat R.LIFE_RETRAINS 0 1) (uPort port) 20 :=
  if_neg (by simp [h])

/-- The entries of ports of a state to which leaving Up is applied. -/
theorem trained_before (s : State) (port : Nat) (r : Reg) (i : Nat) (hr : regPlace r = 0x4000 ∨ regPlace r = 0x4001) :
    (leaveUp (if isOptical port then s.wr R.FAB_LSR_STATE (moduleOf port) 4 else s) port).rd r i = s.rd r i := by
  have hlaser : Keeps [0x4400] s (if isOptical port then s.wr R.FAB_LSR_STATE (moduleOf port) 4 else s) :=
    .ite (wr_keeps Sub.rfl (Keeps.refl _ s)) (Keeps.refl _ s)
  rw [(leaveUp_way ..).rd r i (by obtain hr | hr := hr <;> rw [hr] <;> rfl), hlaser.rd r i (by obtain hr | hr := hr <;> rw [hr] <;> rfl)]

/-- A port that trains is in Training from its first attempt. -/
structure Trains (s : State) (port : Nat) (k : TrainKind) (t : State) : Prop where
  state : t.rd R.FAB_PORT_STATE port = 1
  train : (t.port port).train = some k
  attempts : (t.port port).attempts = 0
  others : OtherPorts s port t

theorem port_modRouter (f : Router → Router) (k : Nat) : (s.modRouter f).port k = s.port k := rfl

theorem trained_trains (hport : port < 6) (k : TrainKind) : Trains s port k (trained s port k) where
  state := rd_wr_same ..
  train := by
    unfold trained
    dsimp only
    rw [port_modRouter, port_modPort_same]
  attempts := by
    unfold trained
    dsimp only
    rw [port_modRouter, port_modPort_same]
  others := otherPorts_wr hport (fun p => trained_before s port _ p (.inl rfl)) fun _ => rfl

theorem Trains.bringup (hport : port < 6) (h : s.lit port = true) : Trains s port .bringup (startTrain s port .bringup) := by
  rw [startTrain_bringup h]
  exact trained_trains hport _

theorem Trains.full (hport : port < 6) (h : s.lit port = true) : Trains s port .full (startTrain s port .full) ∧
    Counted s (startTrain s port .full) R.FAB_RETRAIN_FULL port 1 := by
  rw [startTrain_full h]
  have hway (u : State) : Keeps [11, 13, 16, 0x4001, 0x7002, 0x9000, 0x9001, 0x9010] u
      (penDecay ((u.bumpSat R.FAB_RETRAIN_FULL port 1).bumpSat R.LIFE_RETRAINS 0 1) (uPort port) 20) :=
    penDecay_keeps (.of rfl Sub.rfl) (bumpSat_keeps (.of rfl Sub.rfl) (bumpSat_keeps (.of rfl Sub.rfl) (Keeps.refl _ u)))
  obtain ⟨hstate, htrain, hattempts, hothers⟩ := trained_trains (s := s) hport .full
  refine ⟨⟨?_, ?_, ?_, fun p hp hne => ?_⟩, ?_⟩
  · rw [(hway _).rd R.FAB_PORT_STATE port rfl, hstate]
  · rw [(hway _).port_eq rfl, htrain]
  · rw [(hway _).port_eq rfl, hattempts]
  · rw [(hway _).rd R.FAB_PORT_STATE p rfl, hothers p hp hne]
  · rw [Counted, (penDecay_way ..).rd R.FAB_RETRAIN_FULL port rfl, rd_bumpSat_ne (by decide), rd_bumpSat_same]
    have hbefore : (trained s port .full).rd R.FAB_RETRAIN_FULL port = s.rd R.FAB_RETRAIN_FULL port :=
      (rd_wr_ne (s := leaveUp _ port) _ (by decide)).trans (trained_before s port R.FAB_RETRAIN_FULL port (.inr rfl))
    rw [hbefore]

theorem Trains.emit {k : TrainKind} (h : Trains s port k t) (o : Out) : Trains s port k (t.emit o) := ⟨h.1, h.2, h.3, h.4⟩

/-- What a state shares with another before training begins. -/
theorem Trains.from {k : TrainKind} {u : State} (hu : ∀ p, u.rd R.FAB_PORT_STATE p = s.rd R.FAB_PORT_STATE p) (h : Trains u port k t) : Trains s port k t :=
  ⟨h.1, h.2, h.3, fun p hp hne => (h.4 p hp hne).trans (hu p)⟩

/-! ### A port goes Down, or Off (R128, R142) -/

/-- A port that goes Down gives its cause and trains no longer. -/
theorem goDown_spec (hport : port < 6) (cause : Nat) : (goDown s port cause).rd R.FAB_PORT_STATE port = 3 ∧
    (goDown s port cause).rd R.FAB_PORT_CAUSE port = cause % 256 ∧ ((goDown s port cause).port port).train = none ∧ OtherPorts s port (goDown s port cause) := by
  refine ⟨?_, ?_, ?_, fun p hp hne => ?_⟩
  · unfold goDown
    rw [rd_record _ _ _ _ _ _ (by decide), rd_modPort, rd_wr_ne _ _ (by decide), rd_wr_same]
    rfl
  · unfold goDown
    rw [rd_record _ _ _ _ _ _ (by decide), rd_modPort, rd_wr_same]
    rfl
  · unfold goDown
    rw [(keeps_record ..).port_eq rfl, port_modPort_same, port_wr, port_wr, port_modPort_same]
  · unfold goDown
    rw [rd_record _ _ _ _ _ _ (by decide), rd_modPort, rd_wr_ne _ _ (by decide), rd_wr_inst _ _ (by omega), rd_modPort,
      (leaveUp_way ..).rd R.FAB_PORT_STATE p rfl]

/-- A port taken Off has left Up and trains no longer. -/
theorem portOff_spec (hport : port < 6) (hst : s.rd R.FAB_PORT_STATE port ≠ 4) (hreset : s.inReset (uPort port) = false) :
    ∃ t, portAdmin s port 0 = done t ∧ t.rd R.FAB_PORT_ADMIN port = 0 ∧ t.rd R.FAB_PORT_STATE port = 4 ∧ (t.port port).train = none ∧ OtherPorts s port t := by
  let u := ((leaveUp (s.wr R.FAB_PORT_ADMIN port 0) port).modPort port fun o => { o with train := none }).wr R.FAB_PORT_STATE port 4
  have hu : u.rd R.FAB_PORT_ADMIN port = 0 ∧ u.rd R.FAB_PORT_STATE port = 4 ∧ (u.port port).train = none ∧ OtherPorts s port u := by
    refine ⟨?_, rd_wr_same .., ?_, otherPorts_wr hport (fun p => ?_) fun _ => rfl⟩
    · rw [rd_wr_ne _ _ (by decide), rd_modPort, (leaveUp_way ..).rd R.FAB_PORT_ADMIN port rfl, rd_wr_same]
      rfl
    · rw [port_wr, port_modPort_same]
    · rw [rd_modPort, (leaveUp_way ..).rd R.FAB_PORT_STATE p rfl, rd_wr_ne _ _ (by decide)]
  have hlaser : Keeps [10, 20, 0x4400] u ((hoursWrite u (moduleOf port)).wr R.FAB_LSR_STATE (moduleOf port) 3) :=
    wr_keeps (.of rfl Sub.rfl) (hoursWrite_keeps (.of rfl Sub.rfl) (Keeps.refl _ u))
  unfold portAdmin
  dsimp only
  rw [if_pos rfl, if_neg (by simp [hst, hreset])]
  split
  · obtain ⟨h1, h2, h3, h4⟩ := hu
    exact ⟨_, rfl, (hlaser.rd R.FAB_PORT_ADMIN port rfl).trans h1, (hlaser.rd R.FAB_PORT_STATE port rfl).trans h2, (congrArg Port.train (hlaser.port_eq rfl port)).trans h3,
      fun p hp hne => (hlaser.rd R.FAB_PORT_STATE p rfl).trans (h4 p hp hne)⟩
  · exact ⟨_, rfl, hu⟩

/-- The bring-up of a port that is Off begins. -/
theorem portOn_spec (hport : port < 6) (hst : s.rd R.FAB_PORT_STATE port = 4) (hreset : s.inReset (uPort port) = false) (hmain : s.mainUp = true)
    (hlit : s.lit port = true) : ∃ t, portAdmin s port 1 = done t ∧ t.rd R.FAB_PORT_ADMIN port = 1 ∧ Trains s port .bringup t := by
  have hlit' : (s.wr R.FAB_PORT_ADMIN port 1).lit port = true := by
    rw [← hlit, State.lit, State.lit, rd_wr_ne _ _ (by decide)]
  have heq : portAdmin s port 1 = done (startTrain (s.wr R.FAB_PORT_ADMIN port 1) port .bringup) := by
    unfold portAdmin
    dsimp only
    rw [if_neg (by decide), if_pos ⟨.inl hst, hreset, hmain⟩]
  refine ⟨_, heq, ?_, (Trains.bringup hport hlit').from fun p => rd_wr_ne _ _ (by decide)⟩
  rw [startTrain_bringup hlit']
  exact (rd_wr_ne _ _ (by decide)).trans ((trained_before _ port R.FAB_PORT_ADMIN port (.inl rfl)).trans (rd_wr_same ..))

end

/-- Settles O20: a port's state follows its commands, and no command of one port moves another. -/
theorem portStates : Obligations.PortStates := by
  intro s who port v hport others
  refine ⟨fun h => ⟨fun hv hst hreset => ?_, fun hv hst hreset hmain hlit => ?_⟩, fun h => ⟨fun hst hlit => ?_, fun hst => ?_⟩,
    fun hst hadmin hlit => ⟨fun htime => ?_, fun htime => ?_⟩, fun hst stage lane dark => ⟨fun hn => ?_, fun hn => ?_⟩⟩
  · subst hv
    obtain ⟨t, ht, hp⟩ := portOff_spec hport hst hreset
    exact writes_of_guard rfl h ht hp
  · subst hv
    obtain ⟨t, ht, hadmin, htrains⟩ := portOn_spec hport hst hreset hmain hlit
    exact writes_of_guard rfl h ht ⟨hadmin, htrains.state, htrains.train, htrains.others⟩
  · have heq : fullRetrain s port = done (startTrain s port .full) := by
      unfold fullRetrain
      dsimp only
      split <;> simp_all
    obtain ⟨htrains, hcount⟩ := Trains.full hport hlit
    exact writes_of_guard rfl h heq ⟨htrains.state, htrains.train, htrains.attempts, hcount, htrains.others⟩
  · have heq : fullRetrain s port = deny s := by
      unfold fullRetrain
      dsimp only
      split <;> simp_all
    exact turnedAway_of_guard rfl h heq
  · have hlit' : (s.modPort port fun o => { o with retryNs := s.now }).lit port = true := hlit
    obtain ⟨htrains, hcount⟩ := Trains.full hport hlit'
    exact ⟨_, congrArg Host.Outcome.next (if_pos ⟨hst, hadmin, htime⟩), htrains.state, htrains.train, hcount, htrains.others⟩
  · exact ⟨_, congrArg Host.Outcome.next (if_neg fun h => by omega), rfl⟩
  · have hattempts (f : State) (hf : f.ports = s.ports) : (f.port port).attempts = (s.port port).attempts := by rw [State.port, State.port, hf]
    refine ⟨_, (if_neg (not_not.2 hst)).trans (congrArg Host.Outcome.next (if_neg (by omega))), ?_, ?_, rfl, fun p _ _ => ?_⟩
    · rw [rd_modPort, rd_record _ _ _ _ _ _ (by decide), hst]
    · rw [port_modPort_same]
    · rw [rd_modPort, rd_record _ _ _ _ _ _ (by decide)]
  · obtain ⟨h3, hcause, htrain, hothers⟩ := goDown_spec (s := (s.record 0x6003 (uPort port) [(1, stage), (1, lane)]).modPort port fun o =>
      { o with attempts := (s.port port).attempts + 1, fecUp := false, helloSent := false }) hport (if dark then 2 else 1)
    refine ⟨_, (if_neg (not_not.2 hst)).trans (congrArg Host.Outcome.next (if_pos (by omega))), h3, hcause.trans (by cases dark <;> rfl), htrain,
      fun p hp hne => (hothers p hp hne).trans ?_⟩
    rw [rd_modPort, rd_record _ _ _ _ _ _ (by decide)]

end Sys2Proof.Machine
end

section
/-! The versions of the router's tables, the shapers and the reservations of VC1 (R153, R161 to R168). -/

namespace Sys2Proof.Machine

open Sys2Proof

/-! ### The end of a hold (R168) -/

/-- A packet of the channel 8, which no port has: its place among the counts of port 0 is that of channel 0 of port 1. -/
def strayPacket : Packet :=
  { offset := 0, dst := 0, src := 0, vc := 8, kind := 0, len := 0, dlen := 0, epoch := 0, detour := false, hops := 0, birth := 0, eseq := 0,
    incarn := 0, syn := false, dtag := 0, spart := 0, tgen := 0, func := 0, rid := 0, sched := 0, poison := false, loc := false, resv := 0, data := [] }

/-- Port 1's hold has run out; its packet has a detour to port 0, whose hold has not. -/
def strayHold : State :=
  { ({} : State) with
    od := [(odKey R.FAB_DETOUR 0, 2 ^ 63 + 7 * 2 ^ 26)]
    ports := [(0, { downNs := some 0 }), (1, { downNs := some (-1000000000000), txq := [(0, [{ pkt := strayPacket }])] })] }

/-- Refutes O31, by its clause on the end of a hold: the statement holds a state with a packet of no virtual channel (VC 8), whose
detour to port 0 is counted as held at the place of channel 0 of port 1, which the clause says is empty. For packets of the
channels 0 to 6 the places of two ports are apart. -/
theorem not_tableVersions : ¬ Obligations.TableVersions := by
  intro h
  obtain ⟨-, -, -, -, hhold⟩ := h strayHold ⟨.operator, .t1s, 0⟩ 0 0
  refine not_does (test := fun t => t.rd R.FAB_VC_HELD (vcKey 1 0) == 1) ?_ (fun t ht hp => ?_)
    (hhold 1 (-1000000000000) (by decide) rfl rfl rfl (by decide +kernel))
  · decide +kernel
  · have hzero := hp.2 0 (by decide)
    rw [hzero] at ht
    cases ht

/-! ### Shapers (R161) -/

section
variable {s : State} {f : Nat}

theorem shpRefill_rd (s : State) (f : Nat) {r : Reg} (i : Nat) (hr : r.index * 256 + r.sub % 256 ≠ R.FAB_SHP_LEVEL.index * 256 + R.FAB_SHP_LEVEL.sub % 256) :
    (shpRefill s f).rd r i = s.rd r i := by
  unfold shpRefill
  dsimp only
  split
  · rfl
  · exact rd_wr_ne _ _ hr

theorem shpRefill_queue (s : State) (f : Nat) : (mapGet {} (shpRefill s f).router.shapers f).queue = (mapGet {} s.router.shapers f).queue := by
  have hput : (mapGet {} (mapPut s.router.shapers f { mapGet {} s.router.shapers f with lastNs := s.now }) f).queue = (mapGet {} s.router.shapers f).queue := by
    rw [mapGet_mapPut_same]
  unfold shpRefill
  dsimp only
  split
  · exact hput
  · exact hput

theorem shpRefill_ports (s : State) (f : Nat) : (shpRefill s f).ports = s.ports := by
  unfold shpRefill
  dsimp only
  split <;> rfl

/-- A level written is read as it stands, whatever its sign. -/
theorem rd_wrI_level (s : State) (f : Nat) (x : Int) : (s.wrI R.FAB_SHP_LEVEL f x).rd R.FAB_SHP_LEVEL f = ofSigned 64 x :=
  (rd_wr_same ..).trans (Nat.mod_eq_of_lt (ofSigned_lt ..))

theorem shaperDecide_stopped {w : Waiting} {rest : List Waiting} (hq : (mapGet {} s.router.shapers f).queue = w :: rest) (hrate : s.rd R.FAB_SHP_RATE f = 0) :
    shaperDecide s f = (shpRefill s f).bumpSat R.FAB_SHP_HELD f 1 := by
  unfold shaperDecide
  rw [hq]
  exact if_pos (.inl hrate)

/-- The state in which the head of a shaper's queue leaves, paid for. -/
def shaperPaid (s : State) (f : Nat) (w : Waiting) (rest : List Waiting) : State :=
  ((shpRefill s f).wrI R.FAB_SHP_LEVEL f ((shpRefill s f).rdI R.FAB_SHP_LEVEL f - (chargeOf w.pkt : Nat))).modRouter fun r =>
    { r with shapers := mapPut r.shapers f { mapGet {} r.shapers f with queue := rest } }

theorem shaperDecide_again {w : Waiting} {rest : List Waiting} (hq : (mapGet {} s.router.shapers f).queue = w :: rest) (hrate : s.rd R.FAB_SHP_RATE f ≠ 0)
    (hmax : s.rd R.FAB_SHP_RATE f ≠ 0xFFFFFFFF) (hagain : w.again = true) (hlevel : 0 ≤ (shpRefill s f).rdI R.FAB_SHP_LEVEL f) :
    shaperDecide s f = forward (shaperPaid s f w rest) { pkt := stamp (shaperPaid s f w rest) w.pkt } true := by
  unfold shaperDecide
  rw [hq]
  dsimp only
  rw [if_neg (by omega), if_neg hmax]
  exact if_pos hagain

theorem forward_keep (s : State) (q : QPacket) (hop : Bool) : Keeps [6, 9, 16, 0x4110, 0x4140, 0x7002] s (forward s q hop) := forward_keeps Sub.rfl (Keeps.refl _ s)

end

/-- Settles O32: what a shaper holds, sends and refills, and the bounds of its level and of a port's reservations. -/
theorem shapersAndReservations : Obligations.ShapersAndReservations := by
  intro s who f v
  refine ⟨fun w rest hq => ⟨fun hrate => ⟨_, congrArg Host.Outcome.next (shaperDecide_stopped hq hrate), ?_, ?_, ?_⟩,
    fun hrate hmax hagain hlevel => ⟨_, congrArg Host.Outcome.next (shaperDecide_again hq hrate hmax hagain hlevel), ?_, ?_⟩⟩,
    fun h => ?_, fun x h => ⟨fun hx => ?_, fun hx => ?_⟩, fun h => ⟨fun he hsum => ?_, fun hn => ?_⟩⟩
  · rw [Counted, rd_bumpSat_same, shpRefill_rd s f f (by decide)]
  · exact (shpRefill_queue s f).trans hq
  · exact shpRefill_ports s f
  · rw [(forward_keep ..).router_eq rfl]
    exact congrArg Shaper.queue (mapGet_mapPut_same ..)
  · rw [(forward_keep ..).rd R.FAB_SHP_LEVEL f rfl]
    exact rd_wrI_level ..
  · refine writes_of_guard rfl h rfl ⟨?_, ?_⟩
    · rw [rd_emit, rd_wr_same, Nat.mod_eq_of_lt h.lt]
    · rw [rd_emit, rd_wr_ne _ _ (by decide)]
  · have heq : shpLevel s f x = done ((shpRefill s f).wrI R.FAB_SHP_LEVEL f x) := if_neg (by omega)
    exact writes_of_guard rfl h heq (rd_wrI_level ..)
  · have heq : shpLevel s f x = (s, rRange) := if_pos hx
    exact turnedAway_of_guard rfl h heq
  · have heq : vc1Res s f v = done (s.wr R.FAB_VC1_RES f v) := if_neg (by
      rintro (hp | hs)
      · exact hp he
      · exact absurd hsum (Nat.not_le.2 hs))
    refine writes_of_guard rfl h heq ?_
    rw [rd_emit, rd_wr_same, Nat.mod_eq_of_lt h.lt]
  · have heq : vc1Res s f v = deny s := if_pos hn
    exact turnedAway_of_guard rfl h heq

end Sys2Proof.Machine
end

section
/-! Loads and exchanges of a cell: LDW, SWAP, CLRA and LDA (R9, R37, R79). -/

namespace Sys2Proof.Machine

open Sys2Proof

/-! ### The state in which a cell's slot acts -/

/-- The cells of a block, CS's copies of their slots, and what stands for what. -/
structure SameCells (s t : State) (b : Nat) : Prop where
  cells : (t.block b).cells = (s.block b).cells
  active : (t.block b).csActive = (s.block b).csActive
  shadow : (t.block b).csShadow = (s.block b).csShadow
  subst : t.rd R.CHK_SUBST b = s.rd R.CHK_SUBST b
  mem : t.mem = s.mem

section
variable {s t u : State} {b : Nat}

theorem SameCells.refl (s : State) (b : Nat) : SameCells s s b := ⟨rfl, rfl, rfl, rfl, rfl⟩

theorem SameCells.trans (h : SameCells s t b) (h' : SameCells t u b) : SameCells s u b :=
  ⟨h'.1.trans h.1, h'.2.trans h.2, h'.3.trans h.3, h'.4.trans h.4, h'.5.trans h.5⟩

theorem SameCells.of_keeps {T : List Nat} (h : Keeps T s t) (hb : T.contains 5 = false) (hr : (T.contains 0x6010 || T.contains 31) = false)
    (hm : T.contains 2 = false) : SameCells s t b :=
  have hblock := h.block hb b
  ⟨congrArg Block.cells hblock, congrArg Block.csActive hblock, congrArg Block.csShadow hblock, h.rd _ _ hr, h.mem hm⟩

theorem SameCells.cellOf (h : SameCells s t b) (c : Nat) : t.cellOf b c = s.cellOf b c := by
  rw [State.cellOf, State.cellOf, h.subst]

theorem SameCells.cell (h : SameCells s t b) (c : Nat) : (t.block b).cell c = (s.block b).cell c := by
  rw [Block.cell, Block.cell, h.cells]

theorem takenState_cells (s : State) (i : Issue) (con : Nat) : SameCells s (takenState s i con) i.block :=
  ⟨by rw [takenState_block]; rfl, by rw [takenState_block]; rfl, by rw [takenState_block]; rfl,
    (takenState_keeps ..).rd _ _ rfl, (takenState_keeps ..).mem rfl⟩

theorem traceRec_cells (s : State) (b bit unit op seq : Nat) (isEnd : Bool) : SameCells s (traceRec s b bit unit op seq isEnd) b := by
  obtain ⟨l, hl⟩ := traceRec_block s b bit unit op seq isEnd
  exact ⟨by rw [hl], by rw [hl], by rw [hl], (traceRec_way ..).rd _ _ rfl, (traceRec_way ..).mem rfl⟩

/-- The state in which a traced slot of a cell acts. -/
def cellIn (s : State) (i : Issue) (c bit op : Nat) : State :=
  traceRec (takenState s i (conCell c)) i.block bit (uCell i.block (s.cellOf i.block c)) op i.seq false

theorem cellIn_cells (s : State) (i : Issue) (c bit op : Nat) : SameCells s (cellIn s i c bit op) i.block :=
  (takenState_cells ..).trans (traceRec_cells ..)

theorem cellSlot_taken {i : Issue} {c : Nat} (h : Taken s i (conCell c)) (f : State → State) : cellSlot s i c f = f (takenState s i (conCell c)) := by
  rw [cellSlot, issueSlot_of_taken h, accept_of_taken h]

theorem cellTraced_taken {i : Issue} {c : Nat} (h : Taken s i (conCell c)) (bit op : Nat) (f : State → State) :
    cellTraced s i c bit op f = traceRec (f (cellIn s i c bit op)) i.block bit (uCell i.block (s.cellOf i.block c)) op i.seq true := by
  rw [cellTraced, cellSlot_taken h, traced, (takenState_cells ..).cellOf, cellIn]

end

/-! ### Lines read one by one (R84) -/

section
variable {s : State} {b : Nat}

/-- The bytes of a line. -/
def lineOf (s : State) (b line : Nat) : List Byte := (List.range 128).map fun q => memByte s.mem (lineByte b line q)

theorem lineOf_get (s : State) (b line : Nat) {q : Nat} (hq : q < 128) : (lineOf s b line)[q]? = some (memByte s.mem (lineByte b line q)) := by
  rw [lineOf, List.getElem?_map, List.getElem?_range hq]
  rfl

theorem read_line (hwf : Memory.wf s.mem) (line : Nat) : s.read (sramBase b + 128 * (line % 65536)) 128 = lineOf s b line := by
  rw [read_eq_map hwf]
  refine List.map_congr_left fun q hq => ?_
  have := List.mem_range.1 hq
  have hsize : blockBytes = 128 * 65536 := rfl
  rw [lineByte, hsize, show sramBase b + 128 * (line % 65536) + q = sramBase b + (128 * line + q) % (128 * 65536) by omega]

theorem length_readEach (s : State) (unit b line n : Nat) (ecc : List EccHit) : (readEach s unit b line n ecc).2.length = n := by
  induction n generalizing s line ecc with
  | zero => rfl
  | succ n ih => exact congrArg (· + 1) (ih ..)

/-- The first line read, and the rest of a state with the same memory. -/
theorem readEach_succ (s : State) (unit b line n : Nat) (ecc : List EccHit) : ∃ v bad ecc', v.mem = s.mem ∧
    (readEach s unit b line (n + 1) ecc).2 = (s.read (sramBase b + 128 * (line % 65536)) 128, bad) :: (readEach v unit b (line + 1) n ecc').2 :=
  ⟨_, _, _, (chipRead_keeps Sub.rfl (Keeps.refl _ s)).fst.mem rfl, rfl⟩

theorem readEach_get (hwf : Memory.wf s.mem) (unit line n : Nat) (ecc : List EccHit) {j : Nat} (hj : j < n) :
    ∃ bad, (readEach s unit b line n ecc).2[j]? = some (lineOf s b (line + j), bad) := by
  induction n generalizing s line ecc j with
  | zero => omega
  | succ n ih =>
    obtain ⟨v, bad, ecc', hmem, heq⟩ := readEach_succ s unit b line n ecc
    rw [heq, read_line hwf]
    cases j with
    | zero => exact ⟨bad, rfl⟩
    | succ j =>
      obtain ⟨bad', h⟩ := ih (s := v) (by rw [hmem]; exact hwf) (line + 1) ecc' (j := j) (by omega)
      refine ⟨bad', h.trans ?_⟩
      rw [lineOf, lineOf, hmem, show line + 1 + j = line + (j + 1) by omega]

theorem readEach_way (s : State) (unit b line n : Nat) (ecc : List EccHit) :
    Keeps [6, 8, 9, 13, 16, 20, 0x3410, 0x3411, 0x4110, 0x4140, 0x6202, 0x7002, 0x9000, 0x9001, 0x9010] s (readEach s unit b line n ecc).1 :=
  (readEach_keeps Sub.rfl (Keeps.refl _ s)).fst

theorem readEach_cells (unit b line n : Nat) (ecc : List EccHit) (c : Nat) : SameCells s (readEach s unit b line n ecc).1 c :=
  .of_keeps (readEach_way ..) rfl rfl rfl

end

/-! ### The operand buffer (R38, R79) -/

section
variable {m : Map OpLine} {ls : List (List Byte × Bool)}

theorem putLines_other (k : Nat) {x : Nat} (h : ∀ j < ls.length, x ≠ (k + j) % 256) : mapGet {} (putLines m k ls) x = mapGet {} m x := by
  induction ls generalizing m k with
  | nil => rfl
  | cons l rest ih =>
    refine (ih (k + 1) fun j hj => ?_).trans (mapGet_mapPut_other _ _ _ (h 0 (Nat.succ_pos _)))
    rw [Nat.add_assoc, Nat.add_comm 1 j]
    exact h (j + 1) (by simpa using hj)

theorem putScales_other (k : Nat) {x : Nat} (h : ∀ j < ls.length, x ≠ (k + j) % 256) : mapGet {} (putScales m k ls) x = mapGet {} m x := by
  induction ls generalizing m k with
  | nil => rfl
  | cons l rest ih =>
    refine (ih (k + 1) fun j hj => ?_).trans (mapGet_mapPut_other _ _ _ (h 0 (Nat.succ_pos _)))
    rw [Nat.add_assoc, Nat.add_comm 1 j]
    exact h (j + 1) (by simpa using hj)

/-- Lines put into the buffer, no more than it has, keep their bytes. -/
theorem putLines_get (k : Nat) (hlen : ls.length ≤ 256) {j : Nat} {l : List Byte × Bool} (hj : ls[j]? = some l) :
    (mapGet {} (putLines m k ls) ((k + j) % 256)).bytes = l.1 := by
  induction ls generalizing m k j with
  | nil => cases hj
  | cons l' rest ih =>
    rw [List.length_cons] at hlen
    cases j with
    | zero =>
      obtain rfl : l' = l := by simpa using hj
      rw [putLines, putLines_other (k + 1) fun j hj => by omega, Nat.add_zero, mapGet_mapPut_same]
    | succ j =>
      rw [putLines, show k + (j + 1) = k + 1 + j by omega]
      exact ih (k + 1) (by omega) (by simpa using hj)

theorem putScales_get (k : Nat) (hlen : ls.length ≤ 256) {j : Nat} {l : List Byte × Bool} (hj : ls[j]? = some l) :
    (mapGet {} (putScales m k ls) ((k + j) % 256)).scale = l.1 := by
  induction ls generalizing m k j with
  | nil => cases hj
  | cons l' rest ih =>
    rw [List.length_cons] at hlen
    cases j with
    | zero =>
      obtain rfl : l' = l := by simpa using hj
      rw [putScales, putScales_other (k + 1) fun j hj => by omega, Nat.add_zero, mapGet_mapPut_same]
    | succ j =>
      rw [putScales, show k + (j + 1) = k + 1 + j by omega]
      exact ih (k + 1) (by omega) (by simpa using hj)

/-- Scale fields leave the bytes of the buffer. -/
theorem putScales_bytes (k x : Nat) : (mapGet {} (putScales m k ls) x).bytes = (mapGet {} m x).bytes := by
  induction ls generalizing m k with
  | nil => rfl
  | cons l rest ih =>
    rw [putScales, ih]
    obtain rfl | hne := eq_or_ne x (k % 256)
    · rw [mapGet_mapPut_same]
    · rw [mapGet_mapPut_other _ _ _ hne]

end

/-! ### LDW, SWAP and CLRA (R9, R37, R79) -/

section
variable {s t u : State} {b c : Nat}

theorem ldwLine_lt (w : CellSlot) : ldwLine w < 65536 := Nat.mod_lt _ (by decide)

theorem cell_modCell_same (k : Block) (c : Nat) (f : Cell → Cell) : (k.modCell c f).cell c = f (k.cell c) := mapGet_mapPut_same ..

/-- A shadow slot written: CS's copy is it, and so is the cell's own unless CS stands for the cell. -/
theorem setShadow_spec (u : State) (b c : Nat) (sh : TileSlot) : mapGet {} ((setShadow u b c sh).block b).csShadow c = sh ∧
    (u.rd R.CHK_SUBST b ≠ c → (((setShadow u b c sh).block b).cell c).shadow = sh) ∧
    (((setShadow u b c sh).block b).cell c).active = ((u.block b).cell c).active ∧ (setShadow u b c sh).mem = u.mem := by
  unfold setShadow
  dsimp only
  rw [block_modBlock_same]
  refine ⟨mapGet_mapPut_same .., fun hne => ?_, ?_, rfl⟩
  · rw [if_neg hne]
    simp only [Block.cell, Block.modCell, mapGet_mapPut_same]
  · split
    · rfl
    · simp only [Block.cell, Block.modCell, mapGet_mapPut_same]

/-- What LDW puts into a shadow slot. -/
def ldwSlot (s : State) (b : Nat) (w : CellSlot) (bad : Bool) : TileSlot :=
  { fmt := some (ldwFmt w), weight := ((List.range (128 * 72)).map fun k => memByte s.mem (lineByte b (ldwLine w) k)).take 8192,
    scale := ((List.range (128 * 72)).map fun k => memByte s.mem (lineByte b (ldwLine w) k)).drop 8192, poison := bad }

theorem ldw_eq (hwf : Memory.wf u.mem) (w : CellSlot) (ecc : List EccHit) : ∃ v bad, SameCells u v b ∧ ldw u b c w ecc = setShadow v b c (ldwSlot u b w bad) := by
  refine ⟨(readLines u (uCell b (u.cellOf b c)) b (ldwLine w) 72 ecc).1, (readLines u (uCell b (u.cellOf b c)) b (ldwLine w) 72 ecc).2.2,
    .of_keeps (readLines_keeps Sub.rfl (Keeps.refl _ u)).fst rfl rfl rfl, ?_⟩
  unfold ldw ldwSlot
  dsimp only
  rw [readLines_bytes hwf _ _ _ (ldwLine_lt w) (by decide)]

theorem ldwSlot_weight (s : State) (b : Nat) (w : CellSlot) (bad : Bool) : (ldwSlot s b w bad).weight.length = 8192 ∧
    ∀ j < 8192, (ldwSlot s b w bad).weight[j]? = some (memByte s.mem (lineByte b (ldwLine w) j)) := by
  refine ⟨by simp only [ldwSlot, List.length_take, List.length_map, List.length_range]; rfl, fun j hj => ?_⟩
  rw [ldwSlot, List.getElem?_take_of_lt hj, List.getElem?_map, List.getElem?_range (by omega)]
  rfl

theorem ldwSlot_scale (s : State) (b : Nat) (w : CellSlot) (bad : Bool) : (ldwSlot s b w bad).scale.length = 1024 ∧
    ∀ j < 1024, (ldwSlot s b w bad).scale[j]? = some (memByte s.mem (lineByte b (ldwLine w) (8192 + j))) := by
  refine ⟨by simp only [ldwSlot, List.length_drop, List.length_map, List.length_range], fun j hj => ?_⟩
  rw [ldwSlot, List.getElem?_drop, List.getElem?_map, List.getElem?_range (by omega)]
  rfl

/-- Active and shadow slots exchanged, in CS as in the cell unless CS stands for it. -/
theorem swapSlots_spec (u : State) (b c : Nat) : mapGet {} ((swapSlots u b c).block b).csActive c = mapGet {} (u.block b).csShadow c ∧
    mapGet {} ((swapSlots u b c).block b).csShadow c = mapGet {} (u.block b).csActive c ∧
    (u.rd R.CHK_SUBST b ≠ c → (((swapSlots u b c).block b).cell c).active = ((u.block b).cell c).shadow ∧
      (((swapSlots u b c).block b).cell c).shadow = ((u.block b).cell c).active) ∧
    (((swapSlots u b c).block b).cell c).acc = ((u.block b).cell c).acc := by
  unfold swapSlots
  dsimp only
  rw [block_modBlock_same]
  refine ⟨mapGet_mapPut_same .., mapGet_mapPut_same .., fun hne => ?_, ?_⟩
  · rw [if_neg hne]
    simp only [Block.cell, Block.modCell, mapGet_mapPut_same, and_self]
  · split
    · rfl
    · simp only [Block.cell, Block.modCell, mapGet_mapPut_same]

theorem clra_spec (u : State) (b c : Nat) (w : CellSlot) (a : Nat) : mapGet {} (((clra u b c w).block b).cell (u.cellOf b c)).acc a =
    if 64 * clraBase w ≤ a ∧ a < 64 * clraBase w + 64 * clraCount w then {} else mapGet {} ((u.block b).cell (u.cellOf b c)).acc a := by
  unfold clra
  dsimp only
  rw [block_modBlock_same, cell_modCell_same]
  split
  · rename_i h
    rw [mapGet_eq_find, mapFind_none]
    · rfl
    · simp only [List.mem_filter]
      rintro e ⟨-, he⟩ rfl
      simp [h.1, h.2] at he
  · rename_i h
    rw [mapGet_eq_find, mapGet_eq_find, mapFind_filter _ _ _ fun v => ?_]
    rw [Bool.not_eq_true', ← Bool.decide_and, decide_eq_false_iff_not]
    exact h

end

/-! ### LDA (R79) -/

section
variable {s t u : State} {b c : Nat} {w : CellSlot}

theorem ldaCount_le (w : CellSlot) : ldaCount w ≤ 256 := Nat.mod_lt _ (by decide)

/-- The state in which LDA has put its lines into the operand buffer. -/
def ldaBytes (u : State) (b c : Nat) (w : CellSlot) (ecc : List EccHit) : State :=
  (readEach u (uCell b (u.cellOf b c)) b (ldaLine w) (ldaCount w) ecc).1.modBlock b fun k => k.modCell (u.cellOf b c) fun q =>
    { q with buf := putLines q.buf (ldaBuf w) (readEach u (uCell b (u.cellOf b c)) b (ldaLine w) (ldaCount w) ecc).2 }

/-- The scale fields of LDA, four bytes a line of the lines read. -/
def ldaFields (w : CellSlot) (ls : List (List Byte × Bool)) (bad : Nat → Bool) : List (List Byte × Bool) :=
  (List.range (ldaCount w)).map fun j => (sliceZ (getAt ([], false) ls (j / 32)).1 (4 * (j % 32)) 4, bad j)

theorem lda_plain (h : ldaScl w = false) (ecc : List EccHit) : ∃ ecc', lda u b c w ecc = ldaBytes u b c w ecc' := by
  unfold lda
  dsimp only
  rw [if_neg (by simp [h])]
  exact ⟨_, rfl⟩

theorem lda_scaled (h : ldaScl w = true) (ecc : List EccHit) : ∃ ecc' far bad, lda u b c w ecc =
    (readEach (ldaBytes u b c w ecc') (uCell b (u.cellOf b c)) b (ldaLine w + ldaCount w) (ceilDiv (4 * ldaCount w) 128) far).1.modBlock b
      fun k => k.modCell (u.cellOf b c) fun q => { q with buf := putScales q.buf (ldaBuf w) (ldaFields w
        (readEach (ldaBytes u b c w ecc') (uCell b (u.cellOf b c)) b (ldaLine w + ldaCount w) (ceilDiv (4 * ldaCount w) 128) far).2 bad) } := by
  unfold lda
  dsimp only
  rw [if_pos h]
  exact ⟨_, _, _, rfl⟩

theorem ldaBytes_mem (u : State) (b c : Nat) (w : CellSlot) (ecc : List EccHit) : (ldaBytes u b c w ecc).mem = u.mem := (readEach_way ..).mem rfl

theorem ldaBytes_cell (u : State) (b c : Nat) (w : CellSlot) (ecc : List EccHit) : ((ldaBytes u b c w ecc).block b).cell (u.cellOf b c) =
    { (u.block b).cell (u.cellOf b c) with
      buf := putLines ((u.block b).cell (u.cellOf b c)).buf (ldaBuf w) (readEach u (uCell b (u.cellOf b c)) b (ldaLine w) (ldaCount w) ecc).2 } := by
  rw [ldaBytes, block_modBlock_same, cell_modCell_same, (readEach_cells ..).cell]

theorem ldaBytes_get (hwf : Memory.wf u.mem) (ecc : List EccHit) {j q : Nat} (hj : j < ldaCount w) (hq : q < 128) :
    (mapGet {} (((ldaBytes u b c w ecc).block b).cell (u.cellOf b c)).buf ((ldaBuf w + j) % 256)).bytes[q]? =
      some (memByte u.mem (lineByte b (ldaLine w + j) q)) := by
  obtain ⟨bad, hread⟩ := readEach_get (b := b) hwf (uCell b (u.cellOf b c)) (ldaLine w) (ldaCount w) ecc hj
  rw [ldaBytes_cell, putLines_get _ (by rw [length_readEach]; exact ldaCount_le w) hread, lineOf_get _ _ _ hq]

/-- A line's scale field is its four bytes of the lines read. -/
theorem ldaFields_get (hwf : Memory.wf u.mem) (unit line : Nat) (far : List EccHit) (bad : Nat → Bool) {j q : Nat} (hj : j < ldaCount w) (hq : q < 4) :
    ∃ l, (ldaFields w (readEach u unit b line (ceilDiv (4 * ldaCount w) 128) far).2 bad)[j]? = some l ∧ l.1[q]? = some (memByte u.mem (lineByte b line (4 * j + q))) := by
  obtain ⟨flag, hread⟩ := readEach_get (b := b) hwf unit line (ceilDiv (4 * ldaCount w) 128) far (j := j / 32) (by unfold ceilDiv; omega)
  refine ⟨(sliceZ (lineOf u b (line + j / 32)) (4 * (j % 32)) 4, bad j), ?_, ?_⟩
  · rw [ldaFields, List.getElem?_map, List.getElem?_range hj, Option.map_some, getAt_eq_getElem, hread]
    rfl
  · have hlen : (lineOf u b (line + j / 32)).length = 128 := by simp only [lineOf, List.length_map, List.length_range]
    have haddr : lineByte b (line + j / 32) (4 * (j % 32) + q) = lineByte b line (4 * j + q) := by
      rw [lineByte, lineByte, show 128 * (line + j / 32) + (4 * (j % 32) + q) = 128 * line + (4 * j + q) by omega]
    rw [sliceZ_within (by omega), List.getElem?_take_of_lt hq, List.getElem?_drop, lineOf_get _ _ _ (by omega), haddr]

/-- What LDA does to its cell. -/
theorem lda_spec (hwf : Memory.wf u.mem) (ecc : List EccHit) :
    (∀ j < ldaCount w, ∀ q < 128, (mapGet {} (((lda u b c w ecc).block b).cell (u.cellOf b c)).buf ((ldaBuf w + j) % 256)).bytes[q]? =
      some (memByte u.mem (lineByte b (ldaLine w + j) q))) ∧
    (ldaScl w = true → ∀ j < ldaCount w, ∀ q < 4, (mapGet {} (((lda u b c w ecc).block b).cell (u.cellOf b c)).buf ((ldaBuf w + j) % 256)).scale[q]? =
      some (memByte u.mem (lineByte b (ldaLine w + ldaCount w) (4 * j + q)))) ∧
    (((lda u b c w ecc).block b).cell (u.cellOf b c)).acc = ((u.block b).cell (u.cellOf b c)).acc ∧ (lda u b c w ecc).mem = u.mem := by
  cases hscl : ldaScl w with
  | false =>
    obtain ⟨ecc', heq⟩ := lda_plain (u := u) (b := b) (c := c) hscl ecc
    rw [heq]
    refine ⟨fun j hj q hq => ldaBytes_get hwf ecc' hj hq, nofun, ?_, ldaBytes_mem ..⟩
    rw [ldaBytes_cell]
  | true =>
    obtain ⟨ecc', far, bad, heq⟩ := lda_scaled (u := u) (b := b) (c := c) hscl ecc
    have hwf' : Memory.wf (ldaBytes u b c w ecc').mem := by
      rw [ldaBytes_mem]
      exact hwf
    rw [heq, block_modBlock_same, cell_modCell_same, (readEach_cells ..).cell]
    refine ⟨fun j hj q hq => ?_, fun _ j hj q hq => ?_, ?_, ?_⟩
    · dsimp only
      rw [putScales_bytes]
      exact ldaBytes_get hwf ecc' hj hq
    · obtain ⟨l, hl, hbyte⟩ := ldaFields_get (b := b) hwf' (uCell b (u.cellOf b c)) (ldaLine w + ldaCount w) far bad hj hq
      dsimp only
      rw [putScales_get _ (by simpa [ldaFields] using ldaCount_le w) hl, hbyte, ldaBytes_mem]
    · rw [ldaBytes_cell]
    · exact ((readEach_way ..).mem rfl).trans (ldaBytes_mem ..)

end

/-- Settles O11: each load and exchange of a cell moves its own slots, lines and words, and none changes memory. -/
theorem cellLoads : Obligations.CellLoads := by
  refine ⟨fun s i c w htaken => ?_, fun s i c w ecc htaken => ?_⟩
  · intro b
    refine ⟨fun ecc hwf => ?_, ?_, ?_⟩
    · have hin := cellIn_cells s i c 2 0xFFFFFF
      obtain ⟨v, bad, hv, heq⟩ := ldw_eq (u := cellIn s i c 2 0xFFFFFF) (b := b) (c := c) (by rw [hin.mem]; exact hwf.mem) w ecc
      have hslot : ldwSlot (cellIn s i c 2 0xFFFFFF) b w bad = ldwSlot s b w bad := by rw [ldwSlot, ldwSlot, hin.mem]
      have hsv := hin.trans hv
      obtain ⟨hshadow, hcell, hactive, hmem⟩ := setShadow_spec v b c (ldwSlot s b w bad)
      obtain ⟨hwlen, hweight⟩ := ldwSlot_weight s b w bad
      obtain ⟨hslen, hscale⟩ := ldwSlot_scale s b w bad
      have hend := traceRec_cells (setShadow v b c (ldwSlot s b w bad)) b 2 (uCell b (s.cellOf b c)) 0xFFFFFF i.seq true
      refine ⟨_, congrArg Host.Outcome.next (cellTraced_taken htaken ..), ?_⟩
      rw [heq, hslot]
      beta_reduce
      rw [hend.shadow, hend.cell, hend.mem, hshadow]
      exact ⟨rfl, hwlen, hslen, hweight, hscale, fun hne => hcell (by rwa [hsv.subst]), hactive.trans (congrArg Cell.active (hsv.cell c)), hmem.trans hsv.mem⟩
    · have hin := takenState_cells s i (conCell c)
      obtain ⟨hactive, hshadow, hcell, hacc⟩ := swapSlots_spec (takenState s i (conCell c)) b c
      rw [hin.shadow] at hactive
      rw [hin.active] at hshadow
      rw [hin.cell, hin.subst] at hcell
      rw [hin.cell] at hacc
      exact ⟨_, congrArg Host.Outcome.next (cellSlot_taken htaken _), hactive, hshadow, hcell, hacc, hin.mem⟩
    · have hin := takenState_cells s i (conCell c)
      refine ⟨_, congrArg Host.Outcome.next (cellSlot_taken htaken _), fun a => ⟨?_, hin.mem⟩⟩
      have hacc := clra_spec (takenState s i (conCell c)) b c w a
      rw [hin.cellOf, hin.cell] at hacc
      exact hacc
  · intro b ph hwf
    have hin := cellIn_cells s i c 2 0xFFFFFF
    have hend (u : State) := traceRec_cells u b 2 (uCell b (s.cellOf b c)) 0xFFFFFF i.seq true
    obtain ⟨hbytes, hscale, hacc, hmem⟩ := lda_spec (u := cellIn s i c 2 0xFFFFFF) (b := b) (c := c) (w := w) (by rw [hin.mem]; exact hwf.mem) ecc
    rw [hin.cellOf, hin.mem] at hbytes hscale
    rw [hin.cellOf, hin.cell] at hacc
    refine ⟨_, congrArg Host.Outcome.next (cellTraced_taken htaken ..), ?_⟩
    beta_reduce
    rw [(hend _).cell, (hend _).mem]
    exact ⟨hbytes, hscale, hacc, hmem.trans hin.mem⟩

end Sys2Proof.Machine
end

section
/-! MUL: the words that a multiply accumulates (R36, R41, R42, R79). -/

namespace Sys2Proof.Machine

open Sys2Proof

/-! ### What leaves every cell alone -/

/-- Every cell of every block stays. -/
structure CellsStay (s t : State) : Prop where
  cells : ∀ b, (t.block b).cells = (s.block b).cells

section
variable {s t u : State}

theorem CellsStay.refl (s : State) : CellsStay s s := ⟨fun _ => rfl⟩

theorem CellsStay.trans (h : CellsStay s t) (h' : CellsStay t u) : CellsStay s u := ⟨fun b => (h'.cells b).trans (h.cells b)⟩

theorem CellsStay.of_keeps {T : List Nat} (h : Keeps T s t) (hb : T.contains 5 = false) : CellsStay s t := ⟨fun b => congrArg Block.cells (h.block hb b)⟩

theorem CellsStay.ite {p : Prop} [Decidable p] (h : CellsStay s t) (h' : CellsStay s u) : CellsStay s (if p then t else u) := by
  split
  · exact h
  · exact h'

theorem CellsStay.modBlock {b : Nat} {f : Block → Block} (h : CellsStay s t) (hf : ∀ k, (f k).cells = k.cells) : CellsStay s (t.modBlock b f) := by
  refine h.trans ⟨fun c => ?_⟩
  obtain rfl | hne := eq_or_ne c b
  · rw [block_modBlock_same, hf]
  · rw [block_modBlock_other _ _ hne]

theorem CellsStay.of_blocks (h : CellsStay s t) (hu : u.blocks = t.blocks) : CellsStay s u := h.trans ⟨fun b => by rw [State.block, State.block, hu]⟩

theorem CellsStay.wr {r : Reg} {i v : Nat} (h : CellsStay s t) : CellsStay s (t.wr r i v) := h.of_blocks rfl

theorem CellsStay.bumpSat {r : Reg} {i v : Nat} (h : CellsStay s t) : CellsStay s (t.bumpSat r i v) := h.of_blocks rfl

theorem CellsStay.modPart {p : Nat} {f : Part → Part} (h : CellsStay s t) : CellsStay s (t.modPart p f) := h.of_blocks rfl

theorem CellsStay.record {code source : Nat} {fs : List (Nat × Nat)} (h : CellsStay s t) : CellsStay s (t.record code source fs) :=
  h.trans (.of_keeps (keeps_record ..) rfl)

theorem CellsStay.doNotSeal {p : Nat} {f : Verdict → Verdict} (h : CellsStay s t) : CellsStay s (Machine.doNotSeal t p f) :=
  h.trans (.of_keeps (T := [6]) (doNotSeal_keeps Sub.rfl (Keeps.refl _ t)) rfl)

theorem CellsStay.penDecay {k pts : Nat} (h : CellsStay s t) : CellsStay s (Machine.penDecay t k pts) := h.trans (.of_keeps (penDecay_way ..) rfl)

theorem CellsStay.chkCounts {b : Nat} (h : CellsStay s t) : CellsStay s (Machine.chkCounts t b) := h.of_blocks rfl

theorem CellsStay.chkLast {b step run entry id cell fbits cls : Nat} (h : CellsStay s t) : CellsStay s (Machine.chkLast t b step run entry id cell fbits cls) :=
  h.of_blocks rfl

theorem CellsStay.listRepeat {b : Nat} {r : RepeatEntry} (h : CellsStay s t) : CellsStay s (Machine.listRepeat t b r) := by
  unfold Machine.listRepeat
  dsimp only
  refine .ite h (.chkCounts (.modBlock h fun k => ?_))
  split <;> rfl

theorem CellsStay.falseAlarm {b entry : Nat} {f : Failure} (h : CellsStay s t) : CellsStay s (Machine.falseAlarm t b entry f) := by
  unfold Machine.falseAlarm
  dsimp only
  exact .ite (.modPart (.modBlock (.record (.wr h)) fun _ => rfl)) (.modBlock (.record (.wr h)) fun _ => rfl)

theorem CellsStay.each {α : Type} {f : State → α → State} {l : List α} (h : CellsStay s t) (hf : ∀ v x, CellsStay s v → CellsStay s (f v x)) :
    CellsStay s (t.each l f) := by
  induction l generalizing t with
  | nil => exact h
  | cons x rest ih => exact ih (hf t x h)

/-- What a class of a repeat does leaves every cell. -/
theorem CellsStay.actClass {b cls : Nat} {r : RepeatEntry} {fs : List Failure} (h : CellsStay s t) : CellsStay s (Machine.actClass t b r fs cls) := by
  unfold Machine.actClass
  dsimp only
  split
  · exact .penDecay (.record (.bumpSat h))
  · exact .of_blocks (.doNotSeal (.record (.bumpSat (.bumpSat h)))) rfl
  · split
    · exact .falseAlarm (.bumpSat h)
    · exact .bumpSat h
  · exact .penDecay (.record (.bumpSat h))
  · exact .doNotSeal (.record (.bumpSat h))
  · exact h.trans (.of_keeps (T := [6, 9, 16, 20, 0x4110, 0x4140, 0x6202, 0x7002]) (fenceClass_keeps Sub.rfl (Keeps.refl _ t)) rfl)

theorem CellsStay.firstVerdict {b : Nat} {x : PendingTile} {q : Pairing} (h : CellsStay s t) : CellsStay s (Machine.firstVerdict t b x q) := by
  have hrep (e : List Byte) : CellsStay s (reportNonFinite t b e q x.mRows x.tile) := .modBlock h fun _ => rfl
  unfold Machine.firstVerdict
  dsimp only
  refine .ite (.ite (.bumpSat ?_) ?_) (.ite (.doNotSeal (.listRepeat (.record (.chkLast (.bumpSat (.bumpSat ?_)))))) (.listRepeat (.record (.chkLast (.bumpSat (.bumpSat ?_))))))
  all_goals exact .ite (.modBlock (hrep _) fun _ => rfl) (hrep _)

theorem CellsStay.repeatVerdict {b : Nat} {x : PendingTile} {q : Pairing} {r : RepeatEntry} (h : CellsStay s t) : CellsStay s (Machine.repeatVerdict t b x q r) := by
  unfold Machine.repeatVerdict
  refine .ite ?_ h
  dsimp only
  refine .ite (.modBlock (.each (.chkLast (.bumpSat ?_)) fun _ _ => .actClass) fun _ => rfl)
    (.chkCounts (.modBlock (.each (.chkLast (.bumpSat ?_)) fun _ _ => .actClass) fun _ => rfl))
  all_goals exact .modBlock (.modBlock h fun _ => rfl) fun _ => rfl

theorem CellsStay.deliverVerdict {b : Nat} (h : CellsStay s t) : CellsStay s (Machine.deliverVerdict t b) := by
  unfold Machine.deliverVerdict
  split
  · exact h
  · dsimp only
    split
    · exact .modBlock h fun _ => rfl
    · split
      · exact .repeatVerdict (.modBlock h fun _ => rfl)
      · exact .modBlock h fun _ => rfl
      · exact .firstVerdict (.modBlock h fun _ => rfl)

theorem CellsStay.submitTile {b c fmt : Nat} {w : CellSlot} {q : Pairing} {rows : Operand} {x : Tile} {f : MulFaults} (h : CellsStay s t) :
    CellsStay s (Machine.submitTile t b c w q fmt rows x f) := by
  unfold Machine.submitTile enqueueTile
  dsimp only
  exact .wr (.modBlock (.ite (.deliverVerdict (.modBlock h fun _ => rfl)) (.modBlock h fun _ => rfl)) fun _ => rfl)

end

/-! ### Accumulation (R41, R42) -/

section
variable {q : Cell} {base : Nat} {int init intTile bad : Bool} {s2 : Word} {clean : List Bool} {p : List Word}

/-- A word of the accumulator before the tile is added. -/
def accOld (q : Cell) (base : Nat) (p : List Word) (k : Nat) : AccWord := getAt {} (mapSlice {} q.acc base (min p.length (16384 - base))) k

theorem accumulate_in (hclean : clean.length = p.length) {k : Nat} (hk : k < p.length) (hbase : base + k < 16384) :
    ∃ c, mapGet {} (accumulate q base int init intTile s2 bad clean p).1.acc (base + k) = (accEntry int init intTile s2 bad c (accOld q base p k) (getAt 0 p k)).1 := by
  have hold : k < (mapSlice {} q.acc base (min p.length (16384 - base))).length := by
    rw [length_mapSlice]
    omega
  refine ⟨clean[k], ?_⟩
  unfold accumulate
  dsimp only
  rw [mapGet_mapSplice_in _ _ _ _ _ (by omega) (by simp [hclean]; omega), Nat.add_sub_cancel_left, List.getElem?_map, List.getElem?_zipWith, accOld,
    getAt_eq_getElem, getAt_eq_getElem, List.getElem?_eq_getElem hold, List.getElem?_eq_getElem hk, List.getElem?_eq_getElem (by simp [hclean]; omega)]
  simp

theorem accumulate_out {a : Nat} (h : a < base ∨ base + p.length ≤ a) :
    mapGet {} (accumulate q base int init intTile s2 bad clean p).1.acc a = mapGet {} q.acc a := by
  unfold accumulate
  dsimp only
  refine mapGet_mapSplice_out _ _ _ _ _ ?_
  simp only [List.length_map, List.length_zipWith, List.length_zip, length_mapSlice]
  omega

/-! ### The size of a product tile (R36, R40) -/

theorem length_setAt {α : Type} (l : List α) (k : Nat) (v : α) : (setAt l k v).length = l.length := by
  induction l generalizing k with
  | nil => rfl
  | cons x rest ih => cases k with
    | zero => rfl
    | succ k => exact congrArg (· + 1) (ih k)

theorem length_strike (n : Nat) (t : Tile) (fs : List TileFlip) (ss : List SumFlip) : (strike n t fs ss).p.length = t.p.length := by
  unfold strike
  dsimp only
  generalize t.p = l
  induction fs generalizing l with
  | nil => rfl
  | cons f rest ih => exact (ih _).trans (length_setAt ..)

theorem length_flatten_rows {α β γ : Type} (l : List α) (m : List β) (f : α → β → γ) : (l.map fun r => m.map fun c => f r c).flatten.length = l.length * m.length := by
  induction l with
  | nil => simp
  | cons x rest ih =>
    rw [List.map_cons, List.flatten_cons, List.length_append, ih, List.length_map, List.length_cons]
    ring

/-- A tile has a product for each row and column that have both bytes and scales. -/
theorem length_cleanTile (q : Pairing) {a w : Operand} (ha : a.bytes.length = a.scales.length) (hw : w.bytes.length = w.scales.length) :
    (cleanTile q a w).length = (productTile q a w).length := by
  have hclean : (cleanTile q a w).length = a.bytes.length * w.bytes.length := by
    rw [cleanTile, length_flatten_rows]
    simp [cleanRows, ha, hw]
  rw [hclean, productTile]
  split
  · exact ((length_flatten_rows ..).trans (by simp)).symm
  · exact ((length_flatten_rows ..).trans (by simp [ha, hw])).symm

end

/-! ### MUL (R36, R79) -/

section
variable {s u : State} {b c fmt : Nat} {w : CellSlot} {f : MulFaults} {q : Pairing}

/-- The rows that a multiply takes from its cell. -/
def mulRowsOf (u : State) (b c : Nat) (w : CellSlot) : Operand := (actRows ((u.block b).cell (u.cellOf b c)) (mulFmt w) (mulRows w) (mulLine w)).1

/-- The product tile that a multiply accumulates. -/
def mulProducts (u : State) (b c fmt : Nat) (w : CellSlot) (f : MulFaults) (q : Pairing) : List Word :=
  (strike q.n (mulTile q (mulRowsOf u b c w) (weightCols (activeSlot u b c) fmt q)) f.tile f.sums).p

theorem length_mulProducts : (cleanTile q (mulRowsOf u b c w) (weightCols (activeSlot u b c) fmt q)).length = (mulProducts u b c fmt w f q).length := by
  rw [mulProducts, length_strike]
  exact length_cleanTile q (by simp [mulRowsOf, actRows]) (by simp [weightCols])

/-- The cell after a multiply that R36 allows. -/
theorem mul_cell (hfmt : (activeSlot u b c).fmt = some fmt) (hpair : pairing fmt (mulFmt w) = some q) (hacc : accAllowed q (mulInt w) = true) :
    ∃ bad, ((mul u b c w f).block b).cell (u.cellOf b c) = (accumulate ((u.block b).cell (u.cellOf b c)) (mulBase w) (mulInt w) (mulInit w) (q.kind == .int)
      (slotS2 (activeSlot u b c)) bad (cleanTile q (mulRowsOf u b c w) (weightCols (activeSlot u b c) fmt q)) (mulProducts u b c fmt w f q)).1 := by
  let bad := (activeSlot u b c).poison || (actRows ((u.block b).cell (u.cellOf b c)) (mulFmt w) (mulRows w) (mulLine w)).2 ||
    decide (0 < ternBad (weightCols (activeSlot u b c) fmt q)) || f.ecc.any fun e => e.kind == .uncorrected
  let x := (accumulate ((u.block b).cell (u.cellOf b c)) (mulBase w) (mulInt w) (mulInit w) (q.kind == .int)
      (slotS2 (activeSlot u b c)) bad (cleanTile q (mulRowsOf u b c w) (weightCols (activeSlot u b c) fmt q)) (mulProducts u b c fmt w f q)).1
  have hstay : CellsStay ((cellEcc u b (u.cellOf b c) f.ecc).modBlock b fun k => k.modCell (u.cellOf b c) fun _ => x) (mul u b c w f) := by
    unfold mul
    dsimp only
    rw [hfmt]
    simp only [Option.getD_some, hpair, hacc, reduceCtorEq, if_false, tileOf, hfmt]
    refine .ite (.submitTile ?_) ?_
    all_goals
      refine .ite (.doNotSeal ?_) ?_
      all_goals
        refine .ite (.doNotSeal ?_) ?_
        all_goals exact .of_keeps (countArith_way ..) rfl
  refine ⟨bad, ?_⟩
  rw [Block.cell, hstay.cells, block_modBlock_same]
  exact cell_modCell_same ..

/-- A multiply that R36 does not allow refuses the seal and leaves the cells. -/
theorem mul_refused (hfmt : (activeSlot u b c).fmt = some fmt) (h : ∀ q, pairing fmt (mulFmt w) = some q → accAllowed q (mulInt w) = false) :
    mul u b c w f = doNotSeal (cellEcc u b (u.cellOf b c) f.ecc) (u.partOf b) vPlanErr := by
  unfold mul
  dsimp only
  rw [hfmt]
  simp only [Option.getD_some, reduceCtorEq, if_false]
  split
  · rfl
  · rename_i q hq
    rw [if_pos (h q hq)]

theorem mul_mem (u : State) (b c : Nat) (w : CellSlot) (f : MulFaults) : (mul u b c w f).mem = u.mem := (mul_keeps Sub.rfl (Keeps.refl _ u)).mem rfl

theorem SameCells.activeSlot (h : SameCells s u b) (c : Nat) : Machine.activeSlot u b c = Machine.activeSlot s b c := by
  rw [Machine.activeSlot, Machine.activeSlot, h.subst, h.active, h.cell]

end

/-- The state in which MUL acts. -/
def mulIn (s : State) (i : Issue) (c : Nat) (w : CellSlot) : State := cellIn s i c 1 (if mulChk w then (s.block i.block).chkNext else 0xFFFFFF)

theorem cellIn_way (s : State) (i : Issue) (c bit op : Nat) : Keeps [5, 16, 0x3021, 0x7002, 0x8200] s (cellIn s i c bit op) :=
  ((takenState_keeps ..).mono (.of rfl Sub.rfl)).trans ((traceRec_way ..).mono (.of rfl Sub.rfl))

theorem cellEcc_way (u : State) (b ph : Nat) (es : List CellEcc) : Keeps [6, 16, 0x7002, 0x9010] u (cellEcc u b ph es) := cellEcc_keeps Sub.rfl (Keeps.refl _ u)

theorem exec_mul {s : State} {i : Issue} {c : Nat} (h : Taken s i (conCell c)) (w : CellSlot) (f : MulFaults) : ∃ bit unit op seq,
    exec (.mul i c w f) s = .next (traceRec (mul (mulIn s i c w) i.block c w f) i.block bit unit op seq true) :=
  ⟨_, _, _, _, congrArg Host.Outcome.next (cellTraced_taken h ..)⟩

/-- Settles O12: each product of the tile is added into its own accumulator word, and a pairing that is not allowed refuses the seal. -/
theorem multiplyAccumulates : Obligations.MultiplyAccumulates := by
  intro s i c w f fmt htaken b ph slot hfmt
  have hin : SameCells s (mulIn s i c w) i.block := cellIn_cells ..
  have hfmt' : (activeSlot (mulIn s i c w) i.block c).fmt = some fmt := by
    rw [hin.activeSlot]
    exact hfmt
  obtain ⟨bit, unit, op, seq, hexec⟩ := exec_mul htaken w f
  refine ⟨fun q hq hacc => ⟨_, hexec, ?_⟩, fun hrefused hp hactive => ⟨_, hexec, ?_⟩⟩
  · beta_reduce
    intro rows p
    have hprod : mulProducts (mulIn s i c w) i.block c fmt w f q = p := by
      rw [mulProducts, mulRowsOf, hin.activeSlot, hin.cellOf, hin.cell]
    obtain ⟨bad, hcell⟩ := mul_cell (f := f) hfmt' hq hacc
    have hlen := length_mulProducts (u := mulIn s i c w) (b := i.block) (c := c) (fmt := fmt) (w := w) (f := f) (q := q)
    rw [hprod] at hcell hlen
    rw [hin.activeSlot] at hlen
    rw [hin.activeSlot, hin.cellOf, hin.cell] at hcell
    rw [(traceRec_cells ..).cell, (traceRec_cells ..).mem, hcell]
    refine ⟨fun k hk hbase => ?_, fun a ha => accumulate_out ha, (mul_mem ..).trans hin.mem⟩
    obtain ⟨cl, hnew⟩ := accumulate_in (q := (s.block i.block).cell (s.cellOf i.block c)) (int := mulInt w) (init := mulInit w) (intTile := q.kind == .int) (bad := bad)
      (s2 := slotS2 (activeSlot s i.block c)) hlen hk hbase
    rw [hnew, accEntry, accOld]
    cases mulInt w with
    | true => exact ⟨rfl, (Bool.or_assoc ..).symm⟩
    | false => simp only [near32, beq_iff_eq, Bool.false_eq_true, if_false]; rfl
  · have hpart : (mulIn s i c w).partOf i.block = s.partOf i.block := (cellIn_way ..).partOf_eq rfl _
    have hactive' : (cellEcc (mulIn s i c w) i.block ((mulIn s i c w).cellOf i.block c) f.ecc).active (s.partOf i.block) = true :=
      ((cellEcc_way ..).active_eq rfl _).trans (((cellIn_way ..).active_eq rfl _).trans hactive)
    rw [mul_refused hfmt' hrefused, hpart]
    constructor
    · rw [(traceRec_way ..).part_eq rfl, doNotSeal_part hp hactive']
      rfl
    · rw [(traceRec_cells ..).cell, Block.cell, Block.cell,
        (CellsStay.doNotSeal (.of_keeps (cellEcc_way ..) rfl) : CellsStay (mulIn s i c w) (doNotSeal _ _ _)).cells, hin.cells]

end Sys2Proof.Machine
end

section
/-! STA: the bytes that a store of accumulators may change, and those of its last row (R28, R33, R79, R84). -/

namespace Sys2Proof.Machine

open Sys2Proof

/-! ### Sizes -/

section
variable {s t u : State} {b : Nat}

/-- Blocks of a string of whole blocks. -/
theorem length_groupsOf_mul {α : Type} {fuel n k : Nat} {l : List α} (hn : 0 < n) (hk : k ≤ fuel) (h : l.length = n * k) : (groupsOf fuel n l).length = k := by
  induction fuel generalizing k l with
  | zero =>
    obtain rfl : k = 0 := by omega
    rfl
  | succ f ih =>
    unfold groupsOf
    cases k with
    | zero =>
      rw [Nat.mul_zero, List.length_eq_zero_iff] at h
      rw [if_pos (by simp [h])]
      rfl
    | succ k =>
      rw [Nat.mul_succ] at h
      rw [if_neg (by rw [List.isEmpty_iff]; rintro rfl; simp at h; omega), List.length_cons, ih (k := k) (by omega) (by rw [List.length_drop]; omega)]

/-- The words stored by a row. -/
theorem length_accRow (u : State) (q : Cell) (first n : Nat) : (accRow u q first n).length = n := by
  rw [accRow, List.length_append, length_mapSlice, List.length_map, List.length_range]
  omega

theorem accRow_whole (u : State) (q : Cell) {first n : Nat} (h : first + n ≤ 16384) : accRow u q first n = mapSlice {} q.acc first n := by
  rw [accRow, show n - (16384 - first) = 0 by omega, show min n (16384 - first) = n by omega]
  exact List.append_nil _

/-- The words of a row are whole blocks of 32, 16 at most. -/
theorem staN_blocks (w : CellSlot) : staN w = 32 * (staN w / 32) ∧ staN w / 32 ≤ 32 := by
  have hfld : fld w 6 2 < 4 := Nat.mod_lt _ (by decide)
  unfold staN
  generalize fld w 6 2 = k at hfld
  match k, hfld with
  | 0, _ | 1, _ | 2, _ | 3, _ => decide

theorem staN_bits (w : CellSlot) (c : Nat) : staN w * fmtBits c % 8 = 0 := by
  obtain ⟨h, -⟩ := staN_blocks w
  rw [h, show 32 * (staN w / 32) * fmtBits c = 8 * (4 * (staN w / 32) * fmtBits c) by ring, Nat.mul_mod_right]

/-- Where a range is one piece it is the whole of it. -/
theorem planRange_single {a n : Nat} {r : Nat × Nat} (h : u.planRange b a n = some [r]) : r.2 = n := by
  unfold State.planRange State.viewRange at h
  dsimp only at h
  split at h
  · rw [show n / blockBytes + 2 = n / blockBytes + 1 + 1 from rfl, pieces] at h
    split at h
    · simp at h
    · dsimp only at h
      rw [pieces] at h
      split at h
      · simp only [List.mapM_cons, List.mapM_nil, Option.pure_def, Option.bind_eq_bind, Option.bind_some, Option.map_eq_some_iff, Option.bind_eq_some_iff,
          Option.some.injEq, List.cons.injEq, and_true] at h
        obtain ⟨c, ⟨a', -, rfl⟩, rfl⟩ := h
        dsimp only
        omega
      · simp only [List.mapM_cons, Option.pure_def, Option.bind_eq_bind, Option.bind_eq_some_iff, Option.some.injEq, List.cons.injEq] at h
        obtain ⟨_, _, _, ⟨_, _, _, _, hcons⟩, _, hnil⟩ := h
        rw [hnil] at hcons
        cases hcons
  · cases h

end

/-! ### A row stored (R33, R79) -/

section
variable {s t u : State} {b : Nat}

/-- The bytes of `n` elements of a format stored from bit `o` of an address on. -/
def InBits (s : State) (b addr o c n x : Nat) : Prop := ∃ rs, s.planRange b (addr + o / 8) ((o % 8 + n * fmtBits c + 7) / 8) = some rs ∧ InRanges rs x

theorem storeBits_out (unit addr o c : Nat) {es : List Nat} (bad : Bool) (hes : es.length * fmtBits c % 8 = 0) (u : State) :
    MemOut (InBits u b addr o c es.length) u (storeBits u unit b addr o c es bad) := by
  unfold storeBits
  dsimp only
  split
  · rename_i ho
    refine (planStore_out ..).mono fun x ⟨rs, hrs, hx⟩ => ⟨rs, ?_, hx⟩
    rwa [length_packElems, show es.length * fmtBits c / 8 = (o % 8 + es.length * fmtBits c + 7) / 8 by omega] at hrs
  · refine (planStore_out ..).mono fun x ⟨rs, hrs, hx⟩ => ⟨rs, ?_, hx⟩
    rwa [length_leBytes] at hrs

theorem watchFeed_mem (u : State) (b desc opBit fmt : Nat) (vs : List FV) (bs : List Byte) (a : Arith) :
    (watchFeed (countArith u b a) b desc opBit fmt vs bs).mem = u.mem :=
  ((watchFeed_keeps Sub.rfl (Keeps.refl _ _)).mem rfl).trans ((countArith_way ..).mem rfl)

/-- A row of a format that is not MX changes its own bytes. -/
theorem staRow_out (unit desc : Nat) (d : Desc) (descBad : Bool) (m : Nat) {row : List AccWord} (hrow : row.length * fmtBits (nctlFmt d.nctl) % 8 = 0) (u : State) :
    MemOut (InBits u b d.addrA (m * d.pitch * fmtBits (nctlFmt d.nctl)) (nctlFmt d.nctl) row.length) u (staRow u unit b desc d descBad m row) := by
  have hlen (key : SrKey) (k : Nat) : ((narrowAll d.nctl key k (row.map accVal)).map (·.bits)).length = row.length := by
    simp only [List.length_map, length_narrowAll]
  have hstore (es : List Nat) (hes : es.length = row.length) (bad : Bool) : MemOut (InBits u b d.addrA (m * d.pitch * fmtBits (nctlFmt d.nctl)) (nctlFmt d.nctl) row.length) u
      (storeBits u unit b d.addrA (m * d.pitch * fmtBits (nctlFmt d.nctl)) (nctlFmt d.nctl) es bad) := by
    have := storeBits_out (b := b) unit d.addrA (m * d.pitch * fmtBits (nctlFmt d.nctl)) (nctlFmt d.nctl) bad (es := es) (by rw [hes]; exact hrow) u
    rwa [hes] at this
  exact (hstore _ (hlen _ _) _).trans (.of_eq (watchFeed_mem ..))

/-- A row of an MX format changes its own bytes and its scales. -/
theorem staMxRow_out (unit desc : Nat) (d : Desc) (descBad : Bool) (m : Nat) {row : List AccWord} (hrow : row.length * fmtBits (nctlFmt d.nctl) % 8 = 0)
    {k : Nat} (hk : row.length = 32 * k) (hk32 : k ≤ 32) (u : State) :
    MemOut (fun x => InBits u b d.addrA (m * d.pitch * fmtBits (nctlFmt d.nctl)) (nctlFmt d.nctl) row.length x ∨
      ∃ rs, u.planRange b (d.addrB + m * k) k = some rs ∧ InRanges rs x) u (staMxRow u unit b desc d descBad m row) := by
  have helems (key : SrKey) (n : Nat) (f : AccWord → FV) : ((mxAll d.nctl key n (groupsOf 32 32 (row.map f))).map (·.elems)).flatten.length = row.length := by
    rw [length_mxAll_elems, flatten_groupsOf, List.length_take, List.length_map]
    omega
  have hscales (key : SrKey) (n : Nat) (f : AccWord → FV) (g : MxBlock → Byte) : ((mxAll d.nctl key n (groupsOf 32 32 (row.map f))).map g).length = k := by
    rw [List.length_map, length_mxAll, length_groupsOf_mul (by decide) hk32 (by rw [List.length_map]; exact hk)]
  have hstore (es : List Nat) (hes : es.length = row.length) (sc : List Byte) (hsc : sc.length = k) (bad : Bool) :
      MemOut (fun x => InBits u b d.addrA (m * d.pitch * fmtBits (nctlFmt d.nctl)) (nctlFmt d.nctl) row.length x ∨
        ∃ rs, u.planRange b (d.addrB + m * k) k = some rs ∧ InRanges rs x) u
      (planStore (storeBits u unit b d.addrA (m * d.pitch * fmtBits (nctlFmt d.nctl)) (nctlFmt d.nctl) es bad) unit b (d.addrB + m * (row.length / 32)) sc bad) := by
    have hbits := storeBits_out (b := b) unit d.addrA (m * d.pitch * fmtBits (nctlFmt d.nctl)) (nctlFmt d.nctl) bad (es := es) (by rw [hes]; exact hrow) u
    rw [hes] at hbits
    refine (hbits.mono fun x hx => .inl hx).trans ((planStore_out ..).mono fun x ⟨rs, hrs, hx⟩ => .inr ⟨rs, ?_, hx⟩)
    rwa [planRange_stored (storeBits_keeps Sub.rfl (Keeps.refl _ u)), hsc, hk, Nat.mul_div_cancel_left k (by decide)] at hrs
  exact (hstore _ (helems _ _ _) _ (hscales _ _ _ _) _).trans (.of_eq (watchFeed_mem ..))

theorem storeBits_plans (unit addr o c : Nat) (es : List Nat) (bad : Bool) (u : State) : SamePlans u (storeBits u unit b addr o c es bad) := by
  unfold storeBits
  dsimp only
  split
  · exact planStore_plans ..
  · exact planStore_plans ..

theorem watchFeed_plans (u : State) (b desc opBit fmt : Nat) (vs : List FV) (bs : List Byte) (a : Arith) :
    SamePlans u (watchFeed (countArith u b a) b desc opBit fmt vs bs) :=
  .of_keeps (T := [19, 0x3040]) (watchFeed_keeps (.of rfl Sub.rfl) (countArith_keeps (.of rfl Sub.rfl) (Keeps.refl _ u))) rfl

theorem staRow_plans (unit desc : Nat) (d : Desc) (descBad : Bool) (m : Nat) (row : List AccWord) (u : State) :
    SamePlans u (staRow u unit b desc d descBad m row) := (storeBits_plans ..).trans (watchFeed_plans ..)

theorem staMxRow_plans (unit desc : Nat) (d : Desc) (descBad : Bool) (m : Nat) (row : List AccWord) (u : State) :
    SamePlans u (staMxRow u unit b desc d descBad m row) := ((storeBits_plans ..).trans (planStore_plans ..)).trans (watchFeed_plans ..)

end

/-! ### STA (R79) -/

section
variable {s : State} {i : Issue} {c : Nat} {w : CellSlot}

/-- The state in which STA has read its descriptor. -/
def staIn (s : State) (i : Issue) (c : Nat) (w : CellSlot) : State := (readDesc (cellIn s i c 2 (staDesc w)) i (staDesc w)).1

/-- The rows that STA stores, each with its number. -/
def staRowsOf (s : State) (i : Issue) (c : Nat) (w : CellSlot) : List (Nat × List AccWord) :=
  (List.range (staRows w)).map fun m => (m, accRow (staIn s i c w) ((s.block i.block).cell (s.cellOf i.block c)) (64 * staBase w + m * staN w) (staN w))

/-- One row stored. -/
def staOne (s : State) (i : Issue) (c : Nat) (w : CellSlot) (descBad : Bool) (t : State) (r : Nat × List AccWord) : State :=
  if fmtMx (nctlFmt (s.desc i.block (staDesc w)).nctl) then
    staMxRow t (uCell i.block (s.cellOf i.block c)) i.block (staDesc w) (s.desc i.block (staDesc w)) descBad r.1 r.2
  else staRow t (uCell i.block (s.cellOf i.block c)) i.block (staDesc w) (s.desc i.block (staDesc w)) descBad r.1 r.2

/-- The places that STA's own work may touch before its rows, and with them. -/
theorem staIn_way (s : State) (i : Issue) (c : Nat) (w : CellSlot) :
    Keeps [5, 6, 8, 9, 13, 16, 20, 0x3021, 0x3410, 0x3411, 0x4110, 0x4140, 0x6202, 0x7002, 0x8200, 0x9000, 0x9001, 0x9010] s (staIn s i c w) :=
  ((cellIn_way ..).mono (.of rfl Sub.rfl)).trans ((readDesc_way ..).mono (.of rfl Sub.rfl))

theorem staIn_cells (s : State) (i : Issue) (c : Nat) (w : CellSlot) : SameCells s (staIn s i c w) i.block :=
  (cellIn_cells ..).trans (.of_keeps (readDesc_way ..) rfl rfl rfl)

theorem cellIn_desc (s : State) (i : Issue) (c bit op n : Nat) : (cellIn s i c bit op).desc i.block n = s.desc i.block n :=
  desc_eq ((traceRec_dbase ..).trans (by rw [takenState_block]; rfl)) (cellIn_cells ..).mem n

theorem staIn_plans (s : State) (i : Issue) (c : Nat) (w : CellSlot) : SamePlans s (staIn s i c w) :=
  ((takenState_plans ..).trans (.of_keeps (T := [5, 0x8200]) (traceRec_way ..) rfl)).trans (readDesc_plans ..)

/-- The state before the rows, a wrap failure counted where a marked word is narrowed (R42, R222). -/
def staMarked (s : State) (i : Issue) (c : Nat) (w : CellSlot) : State :=
  if decide (fmtBits (nctlFmt (s.desc i.block (staDesc w)).nctl) < 32) && (staRowsOf s i c w).any fun r => r.2.any (·.ovf) then
    wrapFailure (staIn s i c w) i.block c (staBase w) (staDesc w)
  else staIn s i c w

theorem staMarked_way (s : State) (i : Issue) (c : Nat) (w : CellSlot) : Keeps [16, 0x6010, 0x6011, 0x7002] (staIn s i c w) (staMarked s i c w) :=
  .ite (wrapFailure_keeps Sub.rfl (Keeps.refl _ _)) (Keeps.refl _ _)

/-- STA is its rows, stored one by one. -/
theorem sta_eq (s : State) (i : Issue) (c : Nat) (w : CellSlot) : ∃ bad,
    sta (cellIn s i c 2 (staDesc w)) i c w = (staMarked s i c w).each (staRowsOf s i c w) (staOne s i c w bad) ∨
      sta (cellIn s i c 2 (staDesc w)) i c w = ((staMarked s i c w).each (staRowsOf s i c w) (staOne s i c w bad)).tick := by
  have hcell : ((staIn s i c w).block i.block).cell ((staIn s i c w).cellOf i.block c) = (s.block i.block).cell (s.cellOf i.block c) := by
    rw [(staIn_cells ..).cellOf, (staIn_cells ..).cell]
  have hdesc : (readDesc (cellIn s i c 2 (staDesc w)) i (staDesc w)).2.1 = s.desc i.block (staDesc w) := (readDesc_desc ..).trans (cellIn_desc ..)
  unfold sta
  dsimp only
  rw [show (readDesc (cellIn s i c 2 (staDesc w)) i (staDesc w)).1 = staIn s i c w from rfl, hdesc, hcell, (staIn_cells ..).cellOf]
  refine ⟨(readDesc (cellIn s i c 2 (staDesc w)) i (staDesc w)).2.2, ?_⟩
  split
  · exact .inr rfl
  · exact .inl rfl

/-- The places that STA may touch up to some of its rows. -/
def staPlaces : List Nat :=
  [2, 3, 5, 6, 8, 9, 13, 16, 19, 20, 0x3021, 0x3040, 0x3410, 0x3411, 0x4110, 0x4140, 0x6010, 0x6011, 0x6101, 0x6102, 0x6202, 0x7002, 0x8200, 0x9000, 0x9001, 0x9010]

theorem staOne_way (bad : Bool) (t : State) (r : Nat × List AccWord) : Keeps [2, 3, 6, 16, 19, 0x3021, 0x3040, 0x6101, 0x6102, 0x7002] t (staOne s i c w bad t r) := by
  unfold staOne
  exact .ite (staMxRow_keeps Sub.rfl (Keeps.refl _ t)) (staRow_keeps Sub.rfl (Keeps.refl _ t))

theorem staOne_plans (bad : Bool) (t : State) (r : Nat × List AccWord) : SamePlans t (staOne s i c w bad t r) := by
  unfold staOne
  exact .ite (staMxRow_plans ..) (staRow_plans ..)

/-- The bytes of a row: its elements and, for an MX format, its scales. -/
def InRow (s : State) (i : Issue) (w : CellSlot) (m x : Nat) : Prop :=
  InBits s i.block (s.desc i.block (staDesc w)).addrA (m * (s.desc i.block (staDesc w)).pitch * fmtBits (nctlFmt (s.desc i.block (staDesc w)).nctl))
    (nctlFmt (s.desc i.block (staDesc w)).nctl) (staN w) x ∨
  (fmtMx (nctlFmt (s.desc i.block (staDesc w)).nctl) = true ∧
    ∃ rs, s.planRange i.block ((s.desc i.block (staDesc w)).addrB + m * (staN w / 32)) (staN w / 32) = some rs ∧ InRanges rs x)

theorem staPlaces_view : ViewFree staPlaces := by unfold ViewFree; decide

/-- A row stored after others changes its own bytes. -/
theorem staOne_out (bad : Bool) {t : State} (ht : Keeps staPlaces s t) {r : Nat × List AccWord} (hr : r.2.length = staN w) :
    MemOut (InRow s i w r.1) t (staOne s i c w bad t r) := by
  obtain ⟨hblocks, h32⟩ := staN_blocks w
  have hbits : r.2.length * fmtBits (nctlFmt (s.desc i.block (staDesc w)).nctl) % 8 = 0 := by
    rw [hr]
    exact staN_bits ..
  have hrange (a n : Nat) : t.planRange i.block a n = s.planRange i.block a n := ht.planRange_eq staPlaces_view ..
  unfold staOne
  split
  · rename_i hmx
    refine (staMxRow_out _ _ _ bad r.1 hbits (hr.trans hblocks) h32 t).mono fun x hx => ?_
    obtain ⟨rs, hrs, hin⟩ | ⟨rs, hrs, hin⟩ := hx
    · rw [hrange, hr] at hrs
      exact .inl ⟨rs, hrs, hin⟩
    · rw [hrange] at hrs
      exact .inr ⟨hmx, rs, hrs, hin⟩
  · refine (staRow_out _ _ _ bad r.1 hbits t).mono fun x ⟨rs, hrs, hin⟩ => .inl ⟨rs, ?_, hin⟩
    rwa [hrange, hr] at hrs

theorem mem_staRowsOf {r : Nat × List AccWord} (h : r ∈ staRowsOf s i c w) : r.1 < staRows w ∧ r.2.length = staN w := by
  obtain ⟨m, hm, rfl⟩ := List.mem_map.1 h
  exact ⟨List.mem_range.1 hm, length_accRow ..⟩

/-- The rows stored change their own bytes. -/
theorem staRows_out (bad : Bool) {v : State} (hv : Keeps staPlaces s v) :
    MemOut (fun x => ∃ m < staRows w, InRow s i w m x) v (v.each (staRowsOf s i c w) (staOne s i c w bad)) := by
  refine memOut_each (s := s) (T := staPlaces) (fun t r hr ht => ?_) v hv
  obtain ⟨hm, hlen⟩ := mem_staRowsOf hr
  exact ⟨(staOne_out bad ht hlen).mono fun x hx => ⟨r.1, hm, hx⟩, ht.trans ((staOne_way ..).mono (.of rfl Sub.rfl))⟩

/-- The bytes of the last row, where they are one piece of SRAM beside the descriptor table. -/
theorem staRows_in (bad : Bool) {v : State} (hv : Keeps staPlaces s v) (hplans : SamePlans s v) (hmx : fmtMx (nctlFmt (s.desc i.block (staDesc w)).nctl) = false)
    (ho : (staRows w - 1) * (s.desc i.block (staDesc w)).pitch * fmtBits (nctlFmt (s.desc i.block (staDesc w)).nctl) % 8 = 0)
    (hfit : 64 * staBase w + staN w * staRows w ≤ 16384) {bs : List Byte}
    (hbs : bs = packElems (nctlFmt (s.desc i.block (staDesc w)).nctl) ((narrowAll (s.desc i.block (staDesc w)).nctl (s.srKey i.block (s.desc i.block (staDesc w)))
      ((s.desc i.block (staDesc w)).ibase + (staRows w - 1) * (s.desc i.block (staDesc w)).pitch)
      ((mapSlice {} ((s.block i.block).cell (s.cellOf i.block c)).acc (64 * staBase w + (staRows w - 1) * staN w) (staN w)).map accVal)).map (·.bits)))
    {r : Nat × Nat} (hr : s.planRange i.block ((s.desc i.block (staDesc w)).addrA +
      (staRows w - 1) * (s.desc i.block (staDesc w)).pitch * fmtBits (nctlFmt (s.desc i.block (staDesc w)).nctl) / 8) bs.length = some [r])
    (hsram : hbmBytes ≤ r.1) (htab : r.1 + r.2 ≤ (tableOf s ((r.1 - sramStart) / blockBytes)).1 ∨
      (tableOf s ((r.1 - sramStart) / blockBytes)).1 + (tableOf s ((r.1 - sramStart) / blockBytes)).2 ≤ r.1) {q : Nat} (hq : q < bs.length) :
    memByte (v.each (staRowsOf s i c w) (staOne s i c w bad)).mem (r.1 + q) = getAt 0 bs q := by
  have hrows : staRows w = (staRows w - 1) + 1 := by
    unfold staRows
    omega
  have hword : 64 * staBase w + (staRows w - 1) * staN w + staN w ≤ 16384 := by
    rw [hrows, Nat.mul_add, Nat.mul_one, Nat.mul_comm (staN w)] at hfit
    omega
  have hsplit : staRowsOf s i c w = (List.range (staRows w - 1)).map (fun m => (m, accRow (staIn s i c w) ((s.block i.block).cell (s.cellOf i.block c))
      (64 * staBase w + m * staN w) (staN w))) ++ [(staRows w - 1, mapSlice {} ((s.block i.block).cell (s.cellOf i.block c)).acc
        (64 * staBase w + (staRows w - 1) * staN w) (staN w))] := by
    conv_lhs => rw [staRowsOf, hrows, List.range_succ, List.map_append, List.map_cons, List.map_nil, accRow_whole _ _ hword]
  have hlen := planRange_single hr
  rw [hsplit, each_append]
  generalize hl : List.map (fun m => (m, accRow (staIn s i c w) ((s.block i.block).cell (s.cellOf i.block c)) (64 * staBase w + m * staN w) (staN w)))
    (List.range (staRows w - 1)) = l
  generalize ht : v.each l (staOne s i c w bad) = t
  have hkeep : Keeps staPlaces s t := by
    rw [← ht]
    exact hv.trans (each_keeps (fun u r h => h.trans ((staOne_way ..).mono (.of rfl Sub.rfl))) (Keeps.refl _ v))
  have hsame : SamePlans s t := by
    rw [← ht]
    exact hplans.trans (.each fun u r => staOne_plans ..)
  have hkey : t.srKey i.block (s.desc i.block (staDesc w)) = s.srKey i.block (s.desc i.block (staDesc w)) := srKey_eq hkeep hsame rfl rfl _ _
  have htable (b : Nat) : tableOf t b = tableOf s b := tableOf_eq hkeep hsame rfl rfl b
  have hrange : t.planRange i.block ((s.desc i.block (staDesc w)).addrA + (staRows w - 1) * (s.desc i.block (staDesc w)).pitch *
      fmtBits (nctlFmt (s.desc i.block (staDesc w)).nctl) / 8) bs.length = some [r] := (hkeep.planRange_eq staPlaces_view ..).trans hr
  have hstore : (t.each [(staRows w - 1, mapSlice {} ((s.block i.block).cell (s.cellOf i.block c)).acc (64 * staBase w + (staRows w - 1) * staN w) (staN w))]
      (staOne s i c w bad)).mem = (planWrite t (uCell i.block (s.cellOf i.block c)) r.1 bs (bad || (mapSlice ({} : AccWord)
        ((s.block i.block).cell (s.cellOf i.block c)).acc (64 * staBase w + (staRows w - 1) * staN w) (staN w)).any (·.poison))).mem := by
    rw [State.each, State.each, staOne, if_neg (by simp [hmx]), staRow]
    dsimp only
    rw [watchFeed_mem, storeBits, if_pos ho, hkey, ← hbs, planStore, hrange]
    dsimp only
    rw [planWriteAll, planWriteAll, hlen, List.take_length]
  rw [hstore, planWrite_in t _ _ _ _ hsram ?_ _ ⟨by omega, by omega⟩, getAt_eq_getElem, Nat.add_sub_cancel_left]
  rw [htable, ← hlen]
  omega

end

/-- Settles O13: rows and scales are stored where the descriptor says, and the last row's bytes are its words narrowed. -/
theorem storesOfAccumulators : Obligations.StoresOfAccumulators := by
  intro s i c w htaken b d fmt row scales
  obtain ⟨bad, hsta⟩ := sta_eq s i c w
  have hin : Keeps staPlaces s (staMarked s i c w) := ((staIn_way ..).mono (.of rfl Sub.rfl)).trans ((staMarked_way ..).mono (.of rfl Sub.rfl))
  have hplans : SamePlans s (staMarked s i c w) := (staIn_plans ..).trans (.of_keeps (staMarked_way ..) rfl)
  have hmem0 : (staMarked s i c w).mem = s.mem := ((staMarked_way ..).mem rfl).trans (staIn_cells ..).mem
  have hmem : (traceRec (sta (cellIn s i c 2 (staDesc w)) i c w) i.block 2 (uCell i.block (s.cellOf i.block c)) (staDesc w) i.seq true).mem =
      ((staMarked s i c w).each (staRowsOf s i c w) (staOne s i c w bad)).mem := by
    rw [(traceRec_cells ..).mem]
    obtain h | h := hsta <;> rw [h]
    rfl
  refine ⟨_, congrArg Host.Outcome.next (cellTraced_taken htaken ..), ?_⟩
  beta_reduce
  rw [hmem]
  refine ⟨fun a ha => ?_, ?_, ?_⟩
  · rw [(staRows_out bad hin).same a, hmem0]
    rintro ⟨m, hm, hx | ⟨hmx, hx⟩⟩
    · exact (ha m hm).1 hx
    · exact (ha m hm).2 ⟨hmx, hx⟩
  · rw [(traceRec_cells ..).cell]
    have hkeep : Keeps _ (cellIn s i c 2 (staDesc w)) _ := sta_keeps (i := i) (c := c) (w := w) Sub.rfl (Keeps.refl _ _)
    rw [hkeep.block rfl, (cellIn_cells ..).cell]
  · intro m o words bs hmx ho hfit r hr hsram htab q hq
    exact staRows_in bad hin hplans hmx ho hfit rfl hr hsram htab hq

end Sys2Proof.Machine
end

section
/-! The freeze, trace, the life record and margin tests (R384 to R390, R396 to R398). -/

namespace Sys2Proof.Machine

open Sys2Proof

theorem Keeps.viewAddr_eq {T : List Nat} {s t : State} (h : Keeps T s t) (hT : ViewFree T) (p off : Nat) : t.viewAddr p off = s.viewAddr p off := by
  have hslices (p use k : Nat) : t.slices p use k = s.slices p use k := by
    simp only [State.slices, h.rd R.MEM_SLICE_PART _ (hT _ (by decide)), h.rd R.MEM_SLICE_USE _ (hT _ (by decide))]
  simp only [State.viewAddr, hslices, h.blocksOf_eq (hT _ (by decide))]

/-! ### The freeze (R384, R385) -/

section
variable {s : State} {v : Nat}

@[simp] theorem rd_modObs (f : Observe → Observe) (r : Reg) (i : Nat) : (s.modObs f).rd r i = s.rd r i := rfl

theorem freezeArm_missed (h : freezeNs s v < s.now) : ∃ t, freezeArm s v = done t ∧ t.obs.freeze = none ∧ t.rd R.FRZ_STATE 0 = 0 ∧
    Counted s t R.FRZ_MISSED 0 1 ∧ t.obs.capture = s.obs.capture := by
  refine ⟨_, if_pos h, rfl, ?_, ?_, rfl⟩
  · rw [rd_modObs, rd_wr_same]
    rfl
  · rw [Counted, rd_modObs, rd_wr_ne _ _ (by decide), rd_bumpSat_same, rd_wr_ne _ _ (by decide)]

/-- The state after a freeze is armed. -/
def armed (s : State) (v : Nat) : State := ((s.wr R.FRZ_AT 0 v).wr R.FRZ_STATE 0 1).modObs fun o =>
  { o with freeze := some (nearSec s.time.sec (v / 2 ^ 32), v % 2 ^ 32) }

theorem freezeArm_done (h : s.now ≤ freezeNs s v) : freezeArm s v = done (armed s v) := if_neg (Int.not_lt.2 h)

/-- A freeze armed for an instant not past. -/
theorem armed_spec (s : State) (v : Nat) : (armed s v).rd R.FRZ_STATE 0 = 1 ∧
    (armed s v).obs.freeze = some (nearSec s.time.sec (v / 2 ^ 32), v % 2 ^ 32) ∧ (armed s v).obs.capture = s.obs.capture := by
  refine ⟨?_, rfl, rfl⟩
  rw [armed, rd_modObs, rd_wr_same]
  rfl

/-- The state after a freeze has fired. -/
def frozen (s : State) (sec ns : Nat) : State :=
  (((((shadowAll s).wr R.FRZ_LAST 0 (timeU64 sec ns)).bumpSat R.FRZ_COUNT 0 1).wr R.FRZ_STATE 0 0)).modObs fun o => { o with freeze := none }

theorem frozen_last (s : State) (sec ns : Nat) : (frozen s sec ns).rd R.FRZ_LAST 0 = sec % 2 ^ 32 * 2 ^ 32 + ns % 2 ^ 32 := by
  rw [frozen, rd_modObs, rd_wr_ne _ _ (by decide), rd_bumpSat_ne (by decide), rd_wr_same]
  refine Nat.mod_eq_of_lt ?_
  show sec % 2 ^ 32 * 2 ^ 32 + ns % 2 ^ 32 < 2 ^ 64
  omega

theorem frozen_count (s : State) (sec ns : Nat) : Counted s (frozen s sec ns) R.FRZ_COUNT 0 1 := by
  rw [Counted, frozen, rd_modObs, rd_wr_ne _ _ (by decide), rd_bumpSat_same, rd_wr_ne _ _ (by decide)]
  rfl

end

/-! ### The freeze of a box (R169, R386) -/

section
variable {s u : State}

/-- The coordinates of a box lie in the 64 bits that a packet carries. -/
theorem boxOf_mod (v : Nat) : boxOf (v % 2 ^ 64) = boxOf v := by
  unfold boxOf bits
  simp only [Box.mk.injEq]
  refine ⟨?_, ?_, ?_, ?_, ?_, ?_⟩ <;> omega

/-- The packet of a freeze sent to its box. -/
def freezePacket (s : State) : Packet :=
  vc0Seal s { ownPacket s 0 5 (cornerOf (boxOf (s.rd R.FRZ_POD_BOX 0))) with offset := 0x500204000400 }
    (leBytes 8 (s.rd R.FRZ_POD_BOX 0) ++ leBytes 8 (s.rd R.FRZ_POD_AT 0))

theorem vc0Seal_head (s : State) (p : Packet) (body : List Byte) : (vc0Seal s p body).vc = p.vc ∧ (vc0Seal s p body).kind = p.kind ∧
    (vc0Seal s p body).dst = p.dst ∧ (vc0Seal s p body).offset = p.offset ∧ (vc0Seal s p body).epoch = p.epoch ∧ (vc0Seal s p body).hops = p.hops := by
  unfold vc0Seal
  dsimp only
  split <;> exact ⟨rfl, rfl, rfl, rfl, rfl, rfl⟩

theorem vc0Seal_data (s : State) (p : Packet) (body : List Byte) : ∃ tag, (vc0Seal s p body).data = body ++ tag := by
  unfold vc0Seal
  dsimp only
  split
  · exact ⟨_, rfl⟩
  · exact ⟨_, rfl⟩

theorem vc0Seal_open (h : openMode s = true) (p : Packet) (body : List Byte) : (vc0Seal s p body).data = body ++ List.replicate 16 0 := by
  unfold vc0Seal
  dsimp only
  rw [if_pos h]
  rfl

theorem freezePacket_box (s : State) : boxOf (leField (freezePacket s).data 0 8) = boxOf (s.rd R.FRZ_POD_BOX 0) := by
  obtain ⟨tag, htag⟩ := vc0Seal_data s { ownPacket s 0 5 (cornerOf (boxOf (s.rd R.FRZ_POD_BOX 0))) with offset := 0x500204000400 }
    (leBytes 8 (s.rd R.FRZ_POD_BOX 0) ++ leBytes 8 (s.rd R.FRZ_POD_AT 0))
  rw [freezePacket, htag, leField, List.drop_zero, List.append_assoc, List.take_left' (length_leBytes ..), leVal_leBytes]
  exact boxOf_mod _

theorem freezePacket_take (s : State) : (freezePacket s).data.take 16 = leBytes 8 (s.rd R.FRZ_POD_BOX 0) ++ leBytes 8 (s.rd R.FRZ_POD_AT 0) := by
  obtain ⟨tag, htag⟩ := vc0Seal_data s { ownPacket s 0 5 (cornerOf (boxOf (s.rd R.FRZ_POD_BOX 0))) with offset := 0x500204000400 }
    (leBytes 8 (s.rd R.FRZ_POD_BOX 0) ++ leBytes 8 (s.rd R.FRZ_POD_AT 0))
  rw [freezePacket, htag, List.take_left' (by simp)]

/-- What the header of the packet of a freeze says. -/
structure FreezeHead (s : State) (p : Packet) : Prop where
  vc : p.vc = 0
  kind : p.kind = 5
  dst : p.dst = cornerOf (boxOf (s.rd R.FRZ_POD_BOX 0))
  offset : p.offset = 0x500204000400
  epoch : p.epoch = s.injVer
  hops : p.hops = 0

theorem freezePacket_head (s : State) : FreezeHead s (freezePacket s) := by
  obtain ⟨hvc, hkind, hdst, hoff, hepoch, hhops⟩ := vc0Seal_head s { ownPacket s 0 5 (cornerOf (boxOf (s.rd R.FRZ_POD_BOX 0))) with offset := 0x500204000400 }
    (leBytes 8 (s.rd R.FRZ_POD_BOX 0) ++ leBytes 8 (s.rd R.FRZ_POD_AT 0))
  exact ⟨hvc, hkind, hdst, hoff, hepoch, hhops⟩

/-- Its chip takes the packet of a freeze: it arms the freeze that the packet carries, or the packet is dropped. -/
theorem deliver_freezePacket (s : State) : deliverPkt s (freezePacket s) [] =
    if vc0Ok s (freezePacket s) = false then (dropPkt s uFcc 8 (freezePacket s)).record 0x6047 uFcc [(4, (freezePacket s).src), (1, 5)]
    else (freezeArm s (leField ((vc0Body (freezePacket s)).drop 8) 0 8)).1 := by
  have hhead := freezePacket_head s
  generalize freezePacket s = p at hhead
  unfold deliverPkt fccTake ejectCast
  simp only [hhead.vc, hhead.kind, hhead.offset, if_true, and_self, if_false, false_and, zero_ne_one, Nat.reduceEqDiff]

/-- In open mode the packet of a freeze that reaches its chip arms it. -/
theorem deliver_freezePacket_open (hopen : openMode s = true) (hv : s.rd R.FRZ_POD_AT 0 < 2 ^ 64) :
    deliverPkt s (freezePacket s) [] = (freezeArm s (s.rd R.FRZ_POD_AT 0)).1 := by
  have hdata : (freezePacket s).data = (leBytes 8 (s.rd R.FRZ_POD_BOX 0) ++ leBytes 8 (s.rd R.FRZ_POD_AT 0)) ++ List.replicate 16 0 := vc0Seal_open hopen ..
  have hbody : vc0Body (freezePacket s) = leBytes 8 (s.rd R.FRZ_POD_BOX 0) ++ leBytes 8 (s.rd R.FRZ_POD_AT 0) := by
    rw [vc0Body, hdata, List.take_left' (by simp)]
  have hok : vc0Ok s (freezePacket s) = true := by
    unfold vc0Ok
    dsimp only
    rw [if_pos hopen, hdata, List.drop_left' (by simp)]
    simp
  rw [deliver_freezePacket, if_neg (by simp [hok]), hbody, List.drop_left' (length_leBytes ..), leField, List.drop_zero, List.take_of_length_le (by simp),
    leVal_leBytes_of_lt hv]

/-- A packet of a freeze that reaches its chip sends nothing to others beside the ports. -/
theorem deliver_freezePacket_outbox (s : State) : (deliverPkt s (freezePacket s) []).outbox = s.outbox := by
  rw [deliver_freezePacket]
  split
  · exact ((keeps_record ..).outbox_eq rfl).trans ((dropPkt_way (by rw [(freezePacket_head s).vc]; decide)).outbox_eq rfl)
  · exact (freezeArm_keeps (T := [19, 0x8100]) Sub.rfl (Keeps.refl _ s)).fst.outbox_eq rfl

/-- What a chip that takes a multicast packet does after it. -/
theorem castRoute_taken {p : Packet} (h : s.me = cornerOf (boxOf (leField p.data 0 8))) :
    Keeps [6, 9, 16, 0x3010, 0x3011, 0x4140, 0x7002] (deliverPkt s p []) (castRoute s { pkt := p } []) := by
  unfold castRoute
  dsimp only
  rw [if_neg (by simp [h])]
  have hrel : Keeps [6, 9, 16, 0x3010, 0x3011, 0x4140, 0x7002] (deliverPkt s p []) (releasePkt (deliverPkt s p []) { pkt := p }) :=
    releasePkt_keeps (.of rfl Sub.rfl) (Keeps.refl _ _)
  have hcopy {v : State} (hv : Keeps [6, 9, 16, 0x3010, 0x3011, 0x4140, 0x7002] (deliverPkt s p []) v) (c : Prop) [Decidable c] (port : Nat) :
      Keeps [6, 9, 16, 0x3010, 0x3011, 0x4140, 0x7002] (deliverPkt s p []) (if c then castCopy v port p else v) :=
    .ite (castCopy_keeps Sub.rfl hv) hv
  exact hcopy (hcopy (hcopy hrel _ 0) _ 2) _ 4

/-- A multicast packet on its way to its corner is forwarded. -/
theorem castRoute_onward {p : Packet} (h : s.me ≠ cornerOf (boxOf (leField p.data 0 8))) :
    castRoute s { pkt := p } [] = forward s { pkt := { p with dst := cornerOf (boxOf (leField p.data 0 8)) } } true := by
  unfold castRoute
  dsimp only
  rw [if_pos (by simp [h])]

/-- A packet forwarded to an Up port without a detour joins the end of its queue. -/
theorem forward_queued {q : QPacket} {port : Nat} (hd : dimPort s q.pkt.epoch q.pkt.dst = port) (hport : port < 6)
    (hdet : detourOf s q.pkt.epoch q.pkt.dst port = none) (hops : q.pkt.hops + 1 ≤ s.rd R.FAB_HOP_LIMIT 0) (hup : s.portUp port = true) :
    forward s q true = queueAt s port { q with pkt := { q.pkt with hops := q.pkt.hops + 1, detour := q.pkt.detour || false } } := by
  unfold forward
  dsimp only
  rw [hd, if_neg (by omega), hdet, if_neg (by simp only [b2n]; exact Nat.not_lt.2 hops), Option.getD_none, putOn, if_pos hup]
  rfl

theorem queueAt_txq (s : State) (port : Nat) {q : QPacket} {c : Nat} (hc : q.pkt.vc = c) :
    mapGet [] ((queueAt s port q).port port).txq c = mapGet [] (s.port port).txq c ++ [q] := by
  rw [queueAt, port_modPort_same, ← hc]
  exact mapGet_mapPut_same ..

end

/-! ### Markers and the trace rings (R388, R389) -/

section
variable {s : State} {p : Nat} {r : TraceRec}

theorem length_traceBytes (r : TraceRec) : (traceBytes r).length = 16 := length_leBytes ..

theorem ringPut_way (s : State) (p : Nat) (r : TraceRec) : Keeps [2, 3, 0x8200] s (ringPut s p r) := ringPut_keeps Sub.rfl (Keeps.refl _ s)

/-- A record put into a ring: at the head, which moves on. -/
theorem ringPut_spec {a : Nat} (hn : s.rd R.TRC_RING_PAGES p ≠ 0) (hh : s.rd R.TRC_HEAD p < 2 ^ 64 - 1)
    (ha : s.viewAddr p (s.rd R.TRC_RING_PAGE p * pageBytes + s.rd R.TRC_HEAD p % (s.rd R.TRC_RING_PAGES p * 4096) * 16) = some a) :
    (ringPut s p r).rd R.TRC_HEAD p = s.rd R.TRC_HEAD p + 1 ∧ MemBut (Within [(a, 16)]) s (ringPut s p r) := by
  unfold ringPut
  dsimp only
  rw [if_neg hn, ha]
  dsimp only
  constructor
  · rw [rd_wr_ne _ _ (by decide), rd_wr_same]
    refine Nat.mod_eq_of_lt ?_
    show s.rd R.TRC_HEAD p + 1 < 2 ^ 64
    omega
  · intro x hx
    refine (store_out s a (traceBytes r) false).same x fun hin => hx ?_
    rw [length_traceBytes] at hin
    exact ⟨_, List.mem_singleton.2 rfl, hin⟩

/-- A drain of a block with two records takes both. -/
theorem drainOne_trace {b : Nat} {x : TraceRec} {rest : List TraceRec} (h : (s.block b).trace = x :: rest) :
    ((drainOne s b).block b).trace = rest ∧ ∀ k, k ≠ b → (drainOne s b).block k = s.block k := by
  have hmod : ((s.modBlock b fun k => { k with trace := rest }).block b).trace = rest ∧
      ∀ k, k ≠ b → (s.modBlock b fun k => { k with trace := rest }).block k = s.block k :=
    ⟨by rw [block_modBlock_same], fun k hk => block_modBlock_other _ _ hk⟩
  unfold drainOne
  rw [h]
  dsimp only
  split
  · rw [(ringPut_way ..).block rfl]
    exact ⟨hmod.1, fun k hk => ((ringPut_way ..).block rfl k).trans (hmod.2 k hk)⟩
  · exact hmod

theorem drainN_succ {region n b : Nat} (h : (regionBlocks region).find? (fun k => (s.block k).trace != []) = some b) :
    drainN s region (n + 1) = drainN (drainOne s b) region n := by
  rw [drainN, h]

end

/-! ### The life record (R396, R397) -/

section
variable {s : State}

theorem bandAt_le (bounds : List Nat) (v : Nat) : bandAt bounds v ≤ bounds.length := List.length_filter_le ..

/-- The entries of the life record that a second of main power counts. -/
def lifeCounted (s : State) (c v w : Nat) : State :=
  ((((s.bumpSat R.LIFE_POWERED_S 0 1).bumpSat R.LIFE_MAIN_S 0 1).bumpSat (R.LIFE_TEMP_S (bandAt [40, 60, 80, 90, 100] c)) 0 1).bumpSat
    (R.LIFE_VOLT_S (bandAt [650, 700, 750, 800, 850] v)) 0 1).bumpSat R.LIFE_ENERGY_J 0 w

theorem lifeSecond_way (hen : s.rst.pwrEn = true) (hgood : s.rst.pwrGood = true) (c v w : Nat) : Keeps [0x2101] (lifeCounted s c v w) (lifeSecond s c v w) := by
  unfold lifeSecond
  dsimp only
  rw [hen, hgood, if_neg (by decide)]
  exact wr_keeps Sub.rfl (raise_keeps Sub.rfl (wr_keeps Sub.rfl (raise_keeps Sub.rfl (Keeps.refl _ _))))

/-- A second with the main rails up. -/
theorem lifeCounted_spec (c v w : Nat) : Counted s (lifeCounted s c v w) R.LIFE_POWERED_S 0 1 ∧ Counted s (lifeCounted s c v w) R.LIFE_MAIN_S 0 1 ∧
    Counted s (lifeCounted s c v w) R.LIFE_ENERGY_J 0 w ∧
    Counted s (lifeCounted s c v w) (R.LIFE_TEMP_S (bandAt [40, 60, 80, 90, 100] c)) 0 1 ∧
    Counted s (lifeCounted s c v w) (R.LIFE_VOLT_S (bandAt [650, 700, 750, 800, 850] v)) 0 1 := by
  have ht : bandAt [40, 60, 80, 90, 100] c ≤ 5 := bandAt_le ..
  have hv : bandAt [650, 700, 750, 800, 850] v ≤ 5 := bandAt_le ..
  unfold lifeCounted
  generalize bandAt [40, 60, 80, 90, 100] c = m at ht
  generalize bandAt [650, 700, 750, 800, 850] v = n at hv
  have htemp (q : Reg) (hq : q.index = 0x9010 ∧ (q.sub < 5 ∨ 10 < q.sub) ∧ q.sub < 256) : q.index * 256 + q.sub % 256 ≠
      (R.LIFE_TEMP_S m).index * 256 + (R.LIFE_TEMP_S m).sub % 256 := by
    show q.index * 256 + q.sub % 256 ≠ 0x9010 * 256 + (5 + m) % 256
    omega
  have hvolt (q : Reg) (hq : q.index = 0x9010 ∧ q.sub < 11) : q.index * 256 + q.sub % 256 ≠ (R.LIFE_VOLT_S n).index * 256 + (R.LIFE_VOLT_S n).sub % 256 := by
    show q.index * 256 + q.sub % 256 ≠ 0x9010 * 256 + (11 + n) % 256
    omega
  have hband (q r : Reg) (hq : q.index = 0x9010 ∧ q.sub < 5) (hr : r.index = 0x9010 ∧ 5 ≤ r.sub ∧ r.sub < 256) :
      r.index * 256 + r.sub % 256 ≠ q.index * 256 + q.sub % 256 := by omega
  have hm : (R.LIFE_TEMP_S m).index = 0x9010 ∧ 5 ≤ (R.LIFE_TEMP_S m).sub ∧ (R.LIFE_TEMP_S m).sub < 256 := ⟨rfl, by show 5 ≤ 5 + m; omega, by show 5 + m < 256; omega⟩
  have hn : (R.LIFE_VOLT_S n).index = 0x9010 ∧ 5 ≤ (R.LIFE_VOLT_S n).sub ∧ (R.LIFE_VOLT_S n).sub < 256 := ⟨rfl, by show 5 ≤ 11 + n; omega, by show 11 + n < 256; omega⟩
  refine ⟨?_, ?_, ?_, ?_, ?_⟩
  · rw [Counted, rd_bumpSat_ne (by decide), rd_bumpSat_ne (hvolt _ (by decide)), rd_bumpSat_ne (htemp _ (by decide)), rd_bumpSat_ne (by decide), rd_bumpSat_same]
  · rw [Counted, rd_bumpSat_ne (by decide), rd_bumpSat_ne (hvolt _ (by decide)), rd_bumpSat_ne (htemp _ (by decide)), rd_bumpSat_same, rd_bumpSat_ne (by decide)]
  · rw [Counted, rd_bumpSat_same, rd_bumpSat_ne (hvolt _ (by decide)), rd_bumpSat_ne (htemp _ (by decide)), rd_bumpSat_ne (by decide), rd_bumpSat_ne (by decide)]
  · rw [Counted, rd_bumpSat_ne (hband R.LIFE_ENERGY_J _ (by decide) hm), rd_bumpSat_ne (hvolt (R.LIFE_TEMP_S m) ⟨rfl, by show 5 + m < 11; omega⟩), rd_bumpSat_same,
      rd_bumpSat_ne (hband R.LIFE_MAIN_S _ (by decide) hm), rd_bumpSat_ne (hband R.LIFE_POWERED_S _ (by decide) hm)]
  · rw [Counted, rd_bumpSat_ne (hband R.LIFE_ENERGY_J _ (by decide) hn), rd_bumpSat_same,
      rd_bumpSat_ne (htemp (R.LIFE_VOLT_S n) ⟨rfl, .inr (by show 10 < 11 + n; omega), by show 11 + n < 256; omega⟩),
      rd_bumpSat_ne (hband R.LIFE_MAIN_S _ (by decide) hn), rd_bumpSat_ne (hband R.LIFE_POWERED_S _ (by decide) hn)]

end

/-! ### Margin tests (R398) -/

section
variable {s : State} {m : MarginTest}

theorem marginEnd_none (s : State) (result : Nat) : (marginEnd s result).obs.margin = none := by
  unfold marginEnd
  split
  · assumption
  · exact congrArg Observe.margin ((zeroStart_way ..).obs_eq rfl)

theorem marginPass_none (s : State) (m : MarginTest) : (marginPass s m).obs.margin = none := marginEnd_none ..

/-- A test that fails twice at nominal ends with the chip fenced. -/
theorem fenceChip_obs (s : State) : (fenceChip s).obs = s.obs :=
  (fenceChip_keeps (T := [6, 9, 16, 20, 0x4110, 0x4140, 0x6202, 0x7002]) Sub.rfl (Keeps.refl _ s)).obs_eq rfl

end

/-! ### The commands -/

section
variable {s : State}

theorem freezeFire_fires {sec ns : Nat} (hsome : s.obs.freeze = some (sec, ns)) (hat : ((sec * 1000000000 + ns : Nat) : Int) ≤ s.now) :
    exec .freezeFire s = .next (frozen s sec ns) := by
  show execFreezeFire s = _
  rw [execFreezeFire, hsome]
  exact if_neg (Int.not_lt.2 hat)

theorem freezeFire_idle (h : s.obs.freeze = none) : exec .freezeFire s = .next s := by
  show execFreezeFire s = _
  rw [execFreezeFire, h]

theorem freezeFire_waits {sec ns : Nat} (hsome : s.obs.freeze = some (sec, ns)) (hbefore : s.now < ((sec * 1000000000 + ns : Nat) : Int)) :
    exec .freezeFire s = .next s := by
  show execFreezeFire s = _
  rw [execFreezeFire, hsome]
  exact if_pos hbefore

/-- The freeze of a box is refused where less than 1 ms is left. -/
theorem freezePod_late (h : freezeNs s (s.rd R.FRZ_POD_AT 0) < s.now + 1000000) : freezePod s = deny s := by
  unfold freezePod
  dsimp only
  rw [if_pos h]

theorem freezePod_sent (h : s.now + 1000000 ≤ freezeNs s (s.rd R.FRZ_POD_AT 0)) : freezePod s = done (castRoute s { pkt := freezePacket s } []) := by
  unfold freezePod
  dsimp only
  rw [if_neg (Int.not_lt.2 h)]
  rfl

/-- The freeze of a box that this chip is the corner of. -/
theorem freezePod_own (h : s.now + 1000000 ≤ freezeNs s (s.rd R.FRZ_POD_AT 0)) (hme : cornerOf (boxOf (s.rd R.FRZ_POD_BOX 0)) = s.me) :
    (castRoute s { pkt := freezePacket s } []).outbox = s.outbox ∧ (openMode s = true → s.rd R.FRZ_POD_AT 0 < 2 ^ 64 →
      (castRoute s { pkt := freezePacket s } []).rd R.FRZ_STATE 0 = 1 ∧ (castRoute s { pkt := freezePacket s } []).obs.freeze =
        some (nearSec s.time.sec (s.rd R.FRZ_POD_AT 0 / 2 ^ 32), s.rd R.FRZ_POD_AT 0 % 2 ^ 32)) := by
  have hway := castRoute_taken (s := s) (p := freezePacket s) (by rw [freezePacket_box, hme])
  refine ⟨(hway.outbox_eq rfl).trans (deliver_freezePacket_outbox s), fun hopen hv => ?_⟩
  obtain ⟨hstate, hfreeze, -⟩ := armed_spec s (s.rd R.FRZ_POD_AT 0)
  rw [hway.rd R.FRZ_STATE 0 rfl, hway.obs_eq rfl, deliver_freezePacket_open hopen hv, freezeArm_done (by omega)]
  exact ⟨hstate, hfreeze⟩

/-- The freeze of a box whose corner is another chip. -/
theorem freezePod_onward (hme : cornerOf (boxOf (s.rd R.FRZ_POD_BOX 0)) ≠ s.me) : castRoute s { pkt := freezePacket s } [] =
    forward s { pkt := { freezePacket s with dst := cornerOf (boxOf (s.rd R.FRZ_POD_BOX 0)) } } true := by
  rw [castRoute_onward (by rw [freezePacket_box]; exact hme.symm), freezePacket_box]

/-- Where the way to the corner is open, the packet joins the queue of its port. -/
theorem freezePod_queued {port : Nat} (hme : cornerOf (boxOf (s.rd R.FRZ_POD_BOX 0)) ≠ s.me)
    (hd : dimPort s s.injVer (cornerOf (boxOf (s.rd R.FRZ_POD_BOX 0))) = port) (hport : port < 6)
    (hdet : detourOf s s.injVer (cornerOf (boxOf (s.rd R.FRZ_POD_BOX 0))) port = none) (hops : 0 < s.rd R.FAB_HOP_LIMIT 0) (hup : s.portUp port = true) :
    ∃ q, mapGet [] ((castRoute s { pkt := freezePacket s } []).port port).txq 0 = mapGet [] (s.port port).txq 0 ++ [q] ∧ q.pkt.vc = 0 ∧ q.pkt.kind = 5 ∧
      q.pkt.dst = cornerOf (boxOf (s.rd R.FRZ_POD_BOX 0)) ∧ q.pkt.offset = 0x500204000400 ∧
      q.pkt.data.take 16 = leBytes 8 (s.rd R.FRZ_POD_BOX 0) ++ leBytes 8 (s.rd R.FRZ_POD_AT 0) := by
  have hhead := freezePacket_head s
  rw [freezePod_onward hme, forward_queued (port := port) (by simp only [hhead.epoch]; exact hd) hport (by simp only [hhead.epoch]; exact hdet)
    (by simp only [hhead.hops]; exact hops) hup]
  exact ⟨_, queueAt_txq _ _ hhead.vc, hhead.vc, hhead.kind, rfl, hhead.offset, freezePacket_take s⟩

/-- The marker that the FCC writes. -/
def markRec (s : State) (v : Nat) : TraceRec :=
  { seq := s.obs.marks, operator := bits v 16 24, layer := bits v 40 16, unit := uFcc, isEnd := bitOf v 63, time := s.traceTime }

/-- The state in which the FCC's marker is counted. -/
def marked (s : State) : State := s.modObs fun o => { o with marks := (o.marks + 1) % 2 ^ 24 }

theorem marked_marks (s : State) : (marked s).obs.marks = (s.obs.marks + 1) % 2 ^ 24 := rfl

@[simp] theorem rd_marked (s : State) (r : Reg) (i : Nat) : (marked s).rd r i = s.rd r i := rfl

theorem marked_way (s : State) : Keeps [19] s (marked s) := modObs_keeps Sub.rfl (Keeps.refl _ s)

theorem viewAddr_marked (s : State) (p a : Nat) : (marked s).viewAddr p a = s.viewAddr p a :=
  (marked_way s).viewAddr_eq (by unfold ViewFree; decide) p a

theorem fccMark_eq (s : State) (v : Nat) : fccMark s v =
    done (if bitOf (s.rd R.TRC_MASK (bits v 56 7)) 6 then ringPut (marked s) (bits v 56 7) (markRec s v) else marked s) := rfl

/-- Two records of the lowest block with any. -/
theorem drainN_two {region b : Nat} {x y : TraceRec} {rest : List TraceRec} (hfind : (regionBlocks region).find? (fun k => (s.block k).trace != []) = some b)
    (htrace : (s.block b).trace = x :: y :: rest) :
    ((drainN s region 2).block b).trace = rest ∧ ∀ k, k ≠ b → (drainN s region 2).block k = s.block k := by
  obtain ⟨h1, hother1⟩ := drainOne_trace htrace
  have hfind' : (regionBlocks region).find? (fun k => ((drainOne s b).block k).trace != []) = some b := by
    rw [List.find?_eq_some_iff_append] at hfind ⊢
    obtain ⟨-, as, bs, hsplit, has⟩ := hfind
    refine ⟨by simp [h1], as, bs, hsplit, fun k hk => ?_⟩
    have hne : k ≠ b := by
      rintro rfl
      simpa [htrace] using has k hk
    rw [hother1 k hne]
    exact has k hk
  obtain ⟨h2, hother2⟩ := drainOne_trace h1
  rw [drainN_succ hfind, drainN_succ hfind']
  exact ⟨h2, fun k hk => (hother2 k hk).trans (hother1 k hk)⟩

theorem drainN_idle {region : Nat} (h : ∀ b ∈ regionBlocks region, (s.block b).trace = []) (n : Nat) : drainN s region n = s := by
  have hnone : (regionBlocks region).find? (fun k => (s.block k).trace != []) = none := by
    rw [List.find?_eq_none]
    intro b hb
    simp [h b hb]
  cases n with
  | zero => rfl
  | succ n => rw [drainN, hnone]

theorem lifeSecond_off (hen : s.rst.pwrEn = false) (c v w : Nat) : lifeSecond s c v w = s.bumpSat R.LIFE_POWERED_S 0 1 := by
  unfold lifeSecond
  dsimp only
  rw [hen]
  rfl

theorem lifeSecond_powered (c v w : Nat) : Counted s (lifeSecond s c v w) R.LIFE_POWERED_S 0 1 := by
  cases hmain : s.rst.pwrEn && s.rst.pwrGood with
  | false =>
    unfold lifeSecond
    dsimp only
    rw [hmain, if_pos rfl]
    exact rd_bumpSat_same ..
  | true =>
    obtain ⟨hen, hgood⟩ := Bool.and_eq_true_iff.1 hmain
    exact ((lifeSecond_way hen hgood c v w).rd R.LIFE_POWERED_S 0 rfl).trans (lifeCounted_spec c v w).1

end

section
variable {s : State} {who : Who}

theorem frzAt_writes {v : Nat} (h : Allowed s who R.FRZ_AT 0 v) :
    (freezeNs s v < s.now → Writes who (.frzAt who v) s fun t => t.obs.freeze = none ∧ t.rd R.FRZ_STATE 0 = 0 ∧ Counted s t R.FRZ_MISSED 0 1 ∧
      t.obs.capture = s.obs.capture) ∧
    (s.now ≤ freezeNs s v → Writes who (.frzAt who v) s fun t => t.rd R.FRZ_STATE 0 = 1 ∧
      t.obs.freeze = some (nearSec s.time.sec (v / 2 ^ 32), v % 2 ^ 32) ∧ t.obs.capture = s.obs.capture) := by
  refine ⟨fun hpast => ?_, fun hahead => ?_⟩
  · obtain ⟨t, ht, h1, h2, h3, h4⟩ := freezeArm_missed hpast
    exact writes_of_guard rfl h ht (by
      rw [emit_obs, rd_emit, Counted, rd_emit]
      exact ⟨h1, h2, h3, h4⟩)
  · obtain ⟨h1, h2, h3⟩ := armed_spec s v
    exact writes_of_guard rfl h (freezeArm_done hahead) (by
      rw [emit_obs, rd_emit]
      exact ⟨h1, h2, h3⟩)

theorem trcFccMark_writes {v : Nat} (h : Allowed s who R.TRC_FCC_MARK 0 v) :
    Writes who (.trcFccMark who v) s fun t => t.obs.marks = (s.obs.marks + 1) % 2 ^ 24 ∧
      (bitOf (s.rd R.TRC_MASK (bits v 56 7)) 6 = false → t.od = s.od ∧ t.mem = s.mem) ∧
      (bitOf (s.rd R.TRC_MASK (bits v 56 7)) 6 = true → s.rd R.TRC_RING_PAGES (bits v 56 7) ≠ 0 → s.rd R.TRC_HEAD (bits v 56 7) < 2 ^ 64 - 1 → ∀ a,
        s.viewAddr (bits v 56 7) (s.rd R.TRC_RING_PAGE (bits v 56 7) * pageBytes +
          s.rd R.TRC_HEAD (bits v 56 7) % (s.rd R.TRC_RING_PAGES (bits v 56 7) * 4096) * 16) = some a →
        t.rd R.TRC_HEAD (bits v 56 7) = s.rd R.TRC_HEAD (bits v 56 7) + 1 ∧ MemBut (Within [(a, 16)]) s t) := by
  refine writes_of_guard rfl h (fccMark_eq s v) ?_
  simp only [emit_obs, rd_emit, emit_mem]
  cases hmask : bitOf (s.rd R.TRC_MASK (bits v 56 7)) 6 with
  | false =>
    rw [if_neg Bool.false_ne_true]
    exact ⟨marked_marks s, fun _ => ⟨rfl, rfl⟩, nofun⟩
  | true =>
    rw [if_pos rfl, (ringPut_way ..).obs_eq rfl]
    refine ⟨marked_marks s, nofun, fun _ hn hh a ha => ?_⟩
    obtain ⟨hhead, hmem⟩ := ringPut_spec (s := marked s) (r := markRec s v) (by rwa [rd_marked]) (by rwa [rd_marked])
      (by rwa [rd_marked, rd_marked, rd_marked, viewAddr_marked])
    exact ⟨hhead, hmem⟩

theorem freezePod_writes (h : Allowed s who R.FRZ_POD_GO 0 1) (hahead : s.now + 1000000 ≤ freezeNs s (s.rd R.FRZ_POD_AT 0)) :
    Writes who (.frzPodGo who) s fun t =>
      t.outbox = s.outbox ++ [.answer who 0] ∧
        (cornerOf (boxOf (s.rd R.FRZ_POD_BOX 0)) = s.me → openMode s = true → s.rd R.FRZ_POD_AT 0 < 2 ^ 64 → t.rd R.FRZ_STATE 0 = 1 ∧
          t.obs.freeze = some (nearSec s.time.sec (s.rd R.FRZ_POD_AT 0 / 2 ^ 32), s.rd R.FRZ_POD_AT 0 % 2 ^ 32)) ∧
        (cornerOf (boxOf (s.rd R.FRZ_POD_BOX 0)) ≠ s.me → t.obs = s.obs ∧
          (dimPort s s.injVer (cornerOf (boxOf (s.rd R.FRZ_POD_BOX 0))) < 6 →
            detourOf s s.injVer (cornerOf (boxOf (s.rd R.FRZ_POD_BOX 0))) (dimPort s s.injVer (cornerOf (boxOf (s.rd R.FRZ_POD_BOX 0)))) = none →
            0 < s.rd R.FAB_HOP_LIMIT 0 → s.portUp (dimPort s s.injVer (cornerOf (boxOf (s.rd R.FRZ_POD_BOX 0)))) = true →
            ∃ q, mapGet [] (t.port (dimPort s s.injVer (cornerOf (boxOf (s.rd R.FRZ_POD_BOX 0))))).txq 0 =
              mapGet [] (s.port (dimPort s s.injVer (cornerOf (boxOf (s.rd R.FRZ_POD_BOX 0))))).txq 0 ++ [q] ∧
              q.pkt.vc = 0 ∧ q.pkt.kind = 5 ∧ q.pkt.dst = cornerOf (boxOf (s.rd R.FRZ_POD_BOX 0)) ∧ q.pkt.offset = 0x500204000400 ∧
                q.pkt.data.take 16 = leBytes 8 (s.rd R.FRZ_POD_BOX 0) ++ leBytes 8 (s.rd R.FRZ_POD_AT 0))) := by
  refine writes_of_guard rfl h (freezePod_sent hahead) ?_
  rw [emit_outbox, emit_obs, rd_emit]
  refine ⟨?_, fun hme hopen hv => (freezePod_own hahead hme).2 hopen hv, fun hme => ⟨?_, fun hport hdet hops hup => ?_⟩⟩
  · refine congrArg (· ++ [Out.answer who 0]) ?_
    by_cases hme : cornerOf (boxOf (s.rd R.FRZ_POD_BOX 0)) = s.me
    · exact (freezePod_own hahead hme).1
    · rw [freezePod_onward hme]
      exact (forward_keep ..).outbox_eq rfl
  · rw [freezePod_onward hme]
    exact (forward_keep ..).obs_eq rfl
  · rw [emit_port]
    exact freezePod_queued hme rfl hport hdet hops hup

theorem lifeSave_copies (hdue : lifeSavedS s + 3600 ≤ s.rd R.LIFE_POWERED_S 0) :
    mapFind (lifeSave s).obs.lifeCopies (((s.obs.lifeCopies.map fun e => e.2.seq).foldl max 0 + 1) % 2) =
      some { seq := (s.obs.lifeCopies.map fun e => e.2.seq).foldl max 0 + 1, entries := lifeEntries s } ∧
    mapFind (lifeSave s).obs.lifeCopies ((s.obs.lifeCopies.map fun e => e.2.seq).foldl max 0 % 2) =
      mapFind s.obs.lifeCopies ((s.obs.lifeCopies.map fun e => e.2.seq).foldl max 0 % 2) ∧ (lifeSave s).od = s.od := by
  unfold lifeSave
  dsimp only
  rw [if_neg (Nat.not_lt.2 hdue)]
  refine ⟨mapFind_mapPut_same .., mapFind_mapPut_other _ _ ?_, rfl⟩
  omega

theorem marginStart_turn (hh : s.rd R.LIFE_MARGIN_H 0 ≠ 0) (hdue : s.obs.marginAtS + 3600 * s.rd R.LIFE_MARGIN_H 0 ≤ s.rd R.LIFE_POWERED_S 0)
    (hnone : s.obs.margin = none) (hen : s.rst.pwrEn = true) (hgood : s.rst.pwrGood = true) :
    (marginStart s).obs.marginNext = (s.obs.marginNext + 1) % 8 ∧ (marginStart s).obs.marginAtS = s.rd R.LIFE_POWERED_S 0 ∧
      (marginStart s).obs.margin = if regionFree s s.obs.marginNext then some { region := s.obs.marginNext, nominal := s.rd R.PWR_VDD_MV 0 } else none := by
  unfold marginStart
  dsimp only
  rw [if_neg (by simp only [hnone, hen, hgood]; simp; omega)]
  split
  · exact ⟨rfl, rfl, rfl⟩
  · exact ⟨rfl, rfl, hnone⟩

theorem lifeSample_does (hup : s.fccUp = true) (c v w : Nat) : Does (.lifeSample c v w) s fun t => Counted s t R.LIFE_POWERED_S 0 1 ∧
    (s.rst.pwrEn = true → s.rst.pwrGood = true → Counted s t R.LIFE_MAIN_S 0 1 ∧ Counted s t R.LIFE_ENERGY_J 0 w ∧
      Counted s t (R.LIFE_TEMP_S (bandAt [40, 60, 80, 90, 100] c)) 0 1 ∧ Counted s t (R.LIFE_VOLT_S (bandAt [650, 700, 750, 800, 850] v)) 0 1) ∧
    (s.rst.pwrEn = false → t.rd R.LIFE_MAIN_S 0 = s.rd R.LIFE_MAIN_S 0) := by
  refine ⟨_, congrArg Host.Outcome.next (if_pos hup), lifeSecond_powered c v w, fun hen hgood => ?_, fun hen => ?_⟩
  · obtain ⟨-, hmain, henergy, htemp, hvolt⟩ := lifeCounted_spec (s := s) c v w
    have hway (r : Reg) (hr : regPlace r = 0x9010) : (lifeSecond s c v w).rd r 0 = (lifeCounted s c v w).rd r 0 :=
      (lifeSecond_way hen hgood c v w).rd r 0 (by rw [hr]; rfl)
    exact ⟨(hway _ rfl).trans hmain, (hway _ rfl).trans henergy, (hway _ rfl).trans htemp, (hway _ rfl).trans hvolt⟩
  · rw [lifeSecond_off hen, rd_bumpSat_ne (by decide)]

theorem marginStep_spec {m : MarginTest} (hm : s.obs.margin = some m) :
    (m.step ≠ 30 → Does (.marginStepDone true) s fun t => t.obs.margin = some { m with step := m.step + 1 } ∧ t.od = s.od) ∧
    (m.step = 30 ∨ (m.step ≠ 0 ∧ m.step < 30) → Does (.marginStepDone (decide (m.step = 30))) s fun t => t.obs.margin = none) ∧
    (m.step = 0 → m.again = false → Does (.marginStepDone false) s fun t => t.obs.margin = some { m with again := true }) ∧
    (m.step = 0 → m.again = true → Does (.marginStepDone false) s fun t => t.obs.margin = none) := by
  have hexec (passed : Bool) : exec (.marginStepDone passed) s = .next (marginStep s passed) := rfl
  unfold marginStep at hexec
  rw [hm] at hexec
  dsimp only at hexec
  refine ⟨fun hstep => ⟨_, (hexec true).trans (congrArg Host.Outcome.next ((if_pos rfl).trans (if_neg hstep))), rfl, rfl⟩, fun hstep => ?_, fun hstep hagain => ?_, fun hstep hagain => ?_⟩
  · rcases hstep with h30 | ⟨h0, h30⟩
    · rw [decide_eq_true h30]
      exact ⟨_, (hexec true).trans (congrArg Host.Outcome.next ((if_pos rfl).trans (if_pos h30))), marginPass_none ..⟩
    · rw [decide_eq_false (by omega)]
      exact ⟨_, (hexec false).trans (congrArg Host.Outcome.next ((if_neg (by decide)).trans (if_pos h0))), marginPass_none ..⟩
  · exact ⟨_, (hexec false).trans (congrArg Host.Outcome.next ((if_neg (by decide)).trans ((if_neg (not_not.2 hstep)).trans (if_pos hagain)))), rfl⟩
  · refine ⟨_, (hexec false).trans (congrArg Host.Outcome.next ((if_neg (by decide)).trans ((if_neg (not_not.2 hstep)).trans (if_neg (by simp [hagain]))))), ?_⟩
    beta_reduce
    rw [fenceChip_obs]
    exact (congrArg Observe.margin ((keeps_record ..).obs_eq rfl)).trans (marginEnd_none ..)

end

/-- Settles O56: the freeze, markers, the trace rings, the life record and margin tests go on as stated. -/
theorem observability : Obligations.Observability := by
  intro s who
  refine ⟨fun v h => frzAt_writes h, fun hnone => ⟨_, freezeFire_idle hnone, rfl⟩, fun sec ns hsome => ⟨fun hbefore => ⟨_, freezeFire_waits hsome hbefore, rfl⟩,
      fun hat => ⟨_, freezeFire_fires hsome hat, rfl, rfl, rfl, rfl, frozen_count .., frozen_last ..⟩⟩, fun h => ?_,
    fun v h => trcFccMark_writes h, fun region hregion => ⟨fun hempty => ⟨_, congrArg Host.Outcome.next ((if_pos hregion).trans (drainN_idle hempty 2)), rfl⟩,
      fun b x y rest hfind htrace => ⟨_, congrArg Host.Outcome.next (if_pos hregion), drainN_two hfind htrace⟩⟩,
    fun hdown => ⟨fun x y z => ⟨_, congrArg Host.Outcome.next (if_neg (by simp [hdown])), rfl⟩, ⟨_, congrArg Host.Outcome.next (if_neg (by simp [hdown])), rfl⟩,
      ⟨_, congrArg Host.Outcome.next (if_neg (by simp [hdown])), rfl⟩⟩, fun hup => ⟨lifeSample_does hup, ⟨fun hsoon => ⟨_, congrArg Host.Outcome.next ((if_pos hup).trans (if_pos hsoon)), rfl⟩,
      fun hdue => ⟨_, congrArg Host.Outcome.next (if_pos hup), lifeSave_copies hdue⟩⟩,
      fun hnot => ⟨_, congrArg Host.Outcome.next ((if_pos hup).trans (if_pos (by tauto))), rfl⟩,
      fun hh hdue hnone hen hgood => ⟨_, congrArg Host.Outcome.next (if_pos hup), marginStart_turn hh hdue hnone hen hgood⟩⟩,
    fun passed hnone => ⟨_, ?_, rfl⟩, fun m hm => marginStep_spec hm⟩
  · refine ⟨fun hlate => turnedAway_of_guard rfl h (freezePod_late hlate), fun hahead => freezePod_writes h hahead⟩
  · show Host.Outcome.next (marginStep s passed) = _
    rw [marginStep, hnone]

end Sys2Proof.Machine
end

section
/-! Keys, generic writes of an entry, reads that clear and the tray bus's beacons (R7, R182, R353, R365, R371, R372). -/

namespace Sys2Proof.Machine

open Sys2Proof

/-! ### Keys (R371, R372) -/

section
variable {s t : State} {who : Who}

theorem rdB_wrB_same (s : State) (r : Reg) (i : Nat) (v : List Byte) : (s.wrB r i v).rdB r i = v := mapGet_mapSet_same ..

@[simp] theorem rd_wrB (s : State) (r q : Reg) (i j : Nat) (v : List Byte) : (s.wrB r i v).rd q j = s.rd q j := rfl

/-- A bit set in a byte stays set when the byte is written. -/
theorem bitOf_setBits_one (n : Nat) {k : Nat} (h : k < 8) : bitOf (setBits n k 1 1 % 2 ^ 8) k = true := by
  have hk : k = 0 ∨ k = 1 ∨ k = 2 ∨ k = 3 ∨ k = 4 ∨ k = 5 ∨ k = 6 ∨ k = 7 := by omega
  rcases hk with rfl | rfl | rfl | rfl | rfl | rfl | rfl | rfl <;> simp only [bitOf, bits, setBits, beq_iff_eq] <;> omega

/-- A single write of an entry that passes its checks. -/
theorem writeOne_allowed {r : Reg} {i : Nat} {bs : List Byte} (hr : writeReg r = r) (hlen : lengthOk r bs.length = true) (h : Allowed s who r i (leVal bs)) :
    writeOne s who r i bs = writeEffect s who r i bs := by
  rw [Allowed] at h
  rw [writeOne, hr, hlen, if_pos rfl, if_pos h]

theorem writeOne_refused {r : Reg} {i : Nat} {bs : List Byte} (hr : writeReg r = r) (hlen : lengthOk r bs.length = true) (h : checkWrite s who r i (leVal bs) ≠ rOk) :
    writeOne s who r i bs = (s, checkWrite s who r i (leVal bs)) := by
  rw [writeOne, hr, hlen, if_pos rfl, if_neg h]

/-- The state after a key that is not all zero is written. -/
def keyed (s : State) (r : Reg) (key : List Byte) (p : Path) : State :=
  ((s.wrB r 0 (sliceZ key 0 32)).wr R.MGT_KEY_SET 0 (setBits (s.rd R.MGT_KEY_SET 0) (r.sub - 1) 1 1)).record 0xE005 uFcc [(1, r.sub), (1, pathCode p)]

theorem keyed_spec {r : Reg} (hsub : r.sub < 9) (key : List Byte) (p : Path) :
    (keyed s r key p).rdB r 0 = sliceZ key 0 32 ∧ bitOf ((keyed s r key p).rd R.MGT_KEY_SET 0) (r.sub - 1) = true ∧ (keyed s r key p).mgmt = s.mgmt := by
  have hkey : (keyed s r key p).rdB r 0 = (s.wrB r 0 (sliceZ key 0 32)).rdB r 0 :=
    congrArg (fun m => mapGet [] m (odKey r 0)) ((keeps_record ..).at 1 rfl (by decide)).symm
  refine ⟨hkey.trans (rdB_wrB_same ..), ?_, (keeps_record ..).mgmt_eq rfl⟩
  rw [keyed, rd_record _ _ _ _ _ _ (by decide), rd_wr_same]
  exact bitOf_setBits_one _ (by omega)

theorem keyPut_keyed {r : Reg} {key : List Byte} {p : Path} (hp : p ≠ .vc0) (hkey : (key.any fun b => b != 0) = true) (hrole : keyRole r.sub = none) :
    keyPut s r key p = done (keyed s r key p) := by
  have hzero : (key.all fun b => b == 0) = false := by
    rw [← Bool.not_eq_true, List.all_eq_true]
    intro hall
    obtain ⟨b, hb, hne⟩ := List.any_eq_true.1 hkey
    simp [eq_of_beq (hall b hb)] at hne
  simp only [keyPut, hzero, hp, hrole, keyed, if_false, Bool.false_eq_true, false_and, Bool.not_false, b2n, if_true]

/-- The three keys that open no session. -/
theorem keyReg_facts : ∀ sub ∈ [3, 4, 5], writeReg (keyReg sub) = keyReg sub ∧ (keyReg sub).ty = .domain 32 ∧ (keyReg sub).sub = sub ∧
    keyRole sub = none := by decide

theorem writeEffect_key {sub : Nat} (hsub : sub ∈ [3, 4, 5]) (key : List Byte) : writeEffect s who (keyReg sub) 0 key = keyPut s (keyReg sub) key who.path := by
  simp only [List.mem_cons, List.not_mem_nil, or_false] at hsub
  rcases hsub with rfl | rfl | rfl <;> rfl

theorem keyWrite_done {sub : Nat} {key : List Byte} (hsub : sub ∈ [3, 4, 5]) (hlen : key.length ≤ 32) (h : Allowed s who (keyReg sub) 0 (leVal key)) :
    (who.path = .vc0 → TurnedAway who (.keyWrite who sub key) s rRole) ∧
    (who.path ≠ .vc0 → (key.any fun b => b != 0) = true → Writes who (.keyWrite who sub key) s fun t =>
      t.rdB (keyReg sub) 0 = sliceZ key 0 32 ∧ bitOf (t.rd R.MGT_KEY_SET 0) (sub - 1) = true ∧ t.mgmt = s.mgmt) := by
  obtain ⟨hreg, hty, hs, hrole⟩ := keyReg_facts sub hsub
  have hone : writeOne s who (keyReg sub) 0 key = keyPut s (keyReg sub) key who.path :=
    (writeOne_allowed hreg (by simp [lengthOk, hty, hlen]) h).trans (writeEffect_key hsub key)
  have hexec : exec (.keyWrite who sub key) s = .next ((keyPut s (keyReg sub) key who.path).1.emit (.answer who (keyPut s (keyReg sub) key who.path).2)) := by
    rw [← hone]
    rfl
  refine ⟨fun hp => ?_, fun hp hkey => ?_⟩
  · rw [TurnedAway, hexec, keyPut, if_pos hp]
  · have h9 : (keyReg sub).sub < 9 := by
      rw [hs]
      simp only [List.mem_cons, List.not_mem_nil, or_false] at hsub
      omega
    obtain ⟨hkeyed, hbit, hmgmt⟩ := keyed_spec (s := s) h9 key who.path
    rw [keyPut_keyed hp hkey (by rwa [hs])] at hexec
    rw [hs] at hbit
    exact ⟨_, hexec, ⟨hkeyed, hbit, hmgmt⟩, List.getLast?_concat⟩

theorem fabSel_writes {v : Nat} (h : Allowed s who R.MGT_KEY_FAB_SEL 0 v) :
    (keySet s (4 + v) = true ∨ openMode s = true → Writes who (.mgtKeyFabSel who v) s fun t => t.rd R.MGT_KEY_FAB_SEL 0 = v) ∧
    (keySet s (4 + v) = false → openMode s = false → TurnedAway who (.mgtKeyFabSel who v) s rState) := by
  refine ⟨fun hset => ?_, fun hset hopen => turnedAway_of_guard rfl h (if_pos ⟨hset, hopen⟩)⟩
  have hnot : ¬ (keySet s (4 + v) = false ∧ openMode s = false) := by
    rintro ⟨h1, h2⟩
    simp [h1, h2] at hset
  refine writes_of_guard rfl h (if_neg hnot) ?_
  rw [rd_emit, rd_wr_same]
  exact Nat.mod_eq_of_lt h.lt

/-! ### A single write of an entry (R353) -/

theorem writeAll_one (r : Reg) (bs : List Byte) (i : Nat) :
    (writeAll s who r bs [i] {}).1 = (writeOne s who r i bs).1 ∧ ((writeAll s who r bs [i] {}).2.first.map (·.2)).getD rOk = (writeOne s who r i bs).2 := by
  simp only [writeAll]
  split
  · exact ⟨rfl, by simp_all⟩
  · exact ⟨rfl, rfl⟩

theorem registerWrite_found {idx sub inst : Nat} {r : Reg} {bs : List Byte} (hidx : idx ≠ 0x1010) (hfind : findReg idx sub = some r) (hinst : inst < 0xFE00) :
    exec (.registerWrite who idx sub inst bs) s = .next ((writeOne s who r inst bs).1.emit (.answer who (writeOne s who r inst bs).2)) := by
  obtain ⟨hstate, hreason⟩ := writeAll_one (s := s) (who := who) r bs inst
  have hop : runOp s who false { op := 2, sub := sub, index := idx, inst := inst, value := bs } 1024 = runWrite s who false r inst bs 1024 := by
    have hnot : ¬ (0xFF00 ≤ inst ∧ inst < 0xFFFF) := by omega
    simp [runOp, opReg, hidx, hfind, hnot]
  have hrun : (runWrite s who false r inst bs 1024).1 = (writeOne s who r inst bs).1 ∧ (runWrite s who false r inst bs 1024).2.reason = (writeOne s who r inst bs).2 := by
    simp [runWrite, hinst, wire, hstate, ← hreason]
  rw [show exec (.registerWrite who idx sub inst bs) s = .next (registerWrite s who idx sub inst bs) from rfl, registerWrite, hop, hrun.1, hrun.2]

theorem registerWrite_absent {idx sub : Nat} (hidx : idx ≠ 0x1010) (hfind : findReg idx sub = none) (inst : Nat) (bs : List Byte) :
    TurnedAway who (.registerWrite who idx sub inst bs) s rNoEntry := by
  have hop : runOp s who false { op := 2, sub := sub, index := idx, inst := inst, value := bs } 1024 = (s, { reason := rNoEntry }) := by
    simp [runOp, opReg, hidx, hfind]
  rw [TurnedAway, show exec (.registerWrite who idx sub inst bs) s = .next (registerWrite s who idx sub inst bs) from rfl, registerWrite, hop]

/-- Entries without a rule of their own. -/
def plainRegs : List Reg := [R.MGT_SESS_IDLE_S, R.RST_TMO_MULT, R.PWR_OVER_MS, R.HOST_FN_CMDS]

theorem plainRegs_facts : ∀ r ∈ plainRegs, writeReg r = r ∧ r.index ≠ 0x1010 ∧ findReg r.index r.sub = some r := by decide

theorem plainRegs_length {r : Reg} (hr : r ∈ plainRegs) {n : Nat} (h : n = tySize r.ty r.members) : lengthOk r n = true := by
  simp only [plainRegs, List.mem_cons, List.not_mem_nil, or_false] at hr
  rcases hr with rfl | rfl | rfl | rfl <;> exact beq_iff_eq.2 h

theorem plainRegs_effect {r : Reg} (hr : r ∈ plainRegs) (bs : List Byte) : writeEffect s who r 0 bs = plainWrite s r 0 (leVal bs) := by
  simp only [plainRegs, List.mem_cons, List.not_mem_nil, or_false] at hr
  rcases hr with rfl | rfl | rfl | rfl <;> rfl

theorem registerWrite_plain {r : Reg} (hr : r ∈ plainRegs) {bs : List Byte} (hlen : bs.length = tySize r.ty r.members) :
    (Allowed s who r 0 (leVal bs) → Writes who (.registerWrite who r.index r.sub 0 bs) s fun t => t.rd r 0 = leVal bs &&& r.mask) ∧
    (checkWrite s who r 0 (leVal bs) ≠ rOk → TurnedAway who (.registerWrite who r.index r.sub 0 bs) s (checkWrite s who r 0 (leVal bs))) := by
  obtain ⟨hreg, hidx, hfind⟩ := plainRegs_facts r hr
  have hexec := registerWrite_found (s := s) (who := who) (inst := 0) (bs := bs) hidx hfind (by decide)
  refine ⟨fun h => ?_, fun h => ?_⟩
  · rw [writeOne_allowed hreg (plainRegs_length hr hlen) h, plainRegs_effect hr] at hexec
    refine ⟨_, hexec, ?_, List.getLast?_concat⟩
    beta_reduce
    rw [rd_emit, plainWrite, done, rd_wr_same]
    exact Nat.mod_eq_of_lt (lt_of_le_of_lt Nat.and_le_left h.lt)
  · rw [writeOne_refused hreg (plainRegs_length hr hlen) h] at hexec
    exact hexec

/-! ### Reads that clear (R7, R182) and beacons (R365) -/

theorem dbErr_read {f j g : Nat} (hg : s.localQ f j = some g) : Does (.rcRead who (.dbErr f j)) s fun t =>
    t.outbox = s.outbox ++ [.value who (s.queue g).dbErr] ∧ (t.queue g).dbErr = 0 ∧
      t.queue g = { s.queue g with dbErr := 0 } ∧ ∀ k, k ≠ g → t.queue k = s.queue k := by
  have hexec : exec (.rcRead who (.dbErr f j)) s =
      .next ((s.when ((s.queue g).dbErr != 0) fun t => modQueue t g fun c => { c with dbErr := 0 }).emit (.value who (s.queue g).dbErr)) := by
    show Host.Outcome.next (rcRead s who (.dbErr f j)) = _
    simp only [rcRead, hg]
  have hqueue (u : State) (o : Out) (k : Nat) : (u.emit o).queue k = u.queue k := rfl
  refine ⟨_, hexec, ?_⟩
  beta_reduce
  rw [emit_outbox, hqueue]
  by_cases h : (s.queue g).dbErr = 0
  · have hwhen : (s.when ((s.queue g).dbErr != 0) fun t => modQueue t g fun c => { c with dbErr := 0 }) = s := if_neg (by simp [h])
    rw [hwhen]
    refine ⟨rfl, h, ?_, fun k _ => hqueue ..⟩
    rw [← h]
  · have hwhen : (s.when ((s.queue g).dbErr != 0) fun t => modQueue t g fun c => { c with dbErr := 0 }) = modQueue s g fun c => { c with dbErr := 0 } :=
      if_pos (by simp [h])
    rw [hwhen, queue_modQueue_same]
    refine ⟨rfl, rfl, rfl, fun k hk => ?_⟩
    rw [hqueue, queue_modQueue_other _ _ hk]

theorem pwrMax_read (h : checkRead s who R.PWR_MAX_W 0 = rOk) : Does (.rcRead who (.entry 0x2101 3 0)) s fun t =>
    t.outbox = s.outbox ++ [.value who (s.rd R.PWR_MAX_W 0 % 2 ^ 16)] ∧ t.rd R.PWR_MAX_W 0 = 0 := by
  have hread : readOne s who R.PWR_MAX_W 0 = (s.wr R.PWR_MAX_W 0 0, leBytes 2 (s.rd R.PWR_MAX_W 0), rOk) := by
    rw [readOne, if_neg (not_not.2 h), if_neg (by decide), if_neg]
    · rfl
    · simp [ownRecord, R.PWR_MAX_W, mk]
  have hfind : findReg 0x2101 3 = some R.PWR_MAX_W := by decide
  have hexec : exec (.rcRead who (.entry 0x2101 3 0)) s = .next ((s.wr R.PWR_MAX_W 0 0).emit (.value who (leVal (leBytes 2 (s.rd R.PWR_MAX_W 0))))) := by
    show Host.Outcome.next (rcRead s who (.entry 0x2101 3 0)) = _
    simp only [rcRead, hfind, hread, if_true]
  refine ⟨_, hexec, ?_, ?_⟩
  · rw [emit_outbox, leVal_leBytes]
    rfl
  · rw [rd_emit, rd_wr_same]
    rfl

theorem beaconLoss_spec (lost : Bool) :
    (s.fccUp = false ∨ s.rd R.MGT_T1S_STATE 0 = (if lost then 2 else 1) → Does (.plcaBeaconLoss lost) s fun t => t = s) ∧
    (s.fccUp = true → s.rd R.MGT_T1S_STATE 0 ≠ (if lost then 2 else 1) → Does (.plcaBeaconLoss lost) s fun t =>
      t.rd R.MGT_T1S_STATE 0 = (if lost then 2 else 1) ∧ Logged s t 0xE010 uFcc [(1, if lost then 2 else 1), (1, plcaNode s)]) := by
  refine ⟨fun h => ⟨_, congrArg Host.Outcome.next (if_pos h), rfl⟩, fun hup hnew => ⟨_, congrArg Host.Outcome.next (if_neg (by simp [hup, hnew])), ?_, ?_⟩⟩
  · rw [rd_record _ _ _ _ _ _ (by decide), rd_wr_same]
    cases lost <;> rfl
  · exact (sameRecords_wr _ _ _ (by decide)).record_ledger ..
end

/-- Settles O55: keys, writes of entries, reads that clear and the tray bus's beacons go on as stated. -/
theorem keysAndEntries : Obligations.KeysAndEntries := by
  intro s who
  refine ⟨fun sub hsub key hlen h => keyWrite_done hsub hlen h, fun v h => fabSel_writes h, fun idx sub inst r bs hidx hfind hinst => registerWrite_found hidx hfind hinst,
    fun idx sub inst bs hidx hfind => registerWrite_absent hidx hfind inst bs, fun r hr bs hlen => registerWrite_plain hr hlen, fun f j g hg => dbErr_read hg, pwrMax_read, fun lost => beaconLoss_spec lost⟩

end Sys2Proof.Machine
end

section
/-! Tally: scans, periods and lanes (R340, R342, R345, R346). -/

namespace Sys2Proof.Machine

open Sys2Proof

/-! ### The registers of a channel (R342) -/

section
variable {s t : State} {ch : Nat} {r q : Reg}

theorem regPlace_tly (hr : r.index = 0x7100 + ch % 16) : regPlace r = 0x7100 := by
  rw [regPlace, hr, if_pos (by omega)]

/-- What a frame without Tally's registers leaves of a channel. -/
theorem Keeps.tly {T : List Nat} (h : Keeps T s t) (hT : (T.contains 0x7100 || T.contains 31) = false) (hr : r.index = 0x7100 + ch % 16) (i : Nat) :
    t.rd r i = s.rd r i := h.rd r i (by rwa [regPlace_tly hr])

theorem Keeps.chan_eq {T : List Nat} (h : Keeps T s t) (hT : T.contains 17 = false) (ch : Nat) : t.chan ch = s.chan ch := by
  rw [State.chan, State.chan, h.tally_eq hT]

@[simp] theorem chan_wr (i v : Nat) : (s.wr r i v).chan ch = s.chan ch := rfl

@[simp] theorem chan_tlyStatus (lo w v : Nat) : (tlyStatus s ch lo w v).chan ch = s.chan ch := rfl

@[simp] theorem chan_tlyBusy : (tlyBusy s ch).chan ch = s.chan ch := rfl

theorem rd_tlyStatus_ne (hr : r.index = 0x7100 + ch % 16) (hsub : (r.sub % 256 == 2) = false) (lo w v i : Nat) : (tlyStatus s ch lo w v).rd r i = s.rd r i :=
  rd_wr_ne _ _ (by
    rw [hr]
    show (0x7100 + ch % 16) * 256 + r.sub % 256 ≠ (0x7100 + ch % 16) * 256 + 2
    have := ne_of_beq_false hsub
    omega)

theorem rd_wr_tly (hr : r.index = 0x7100 + ch % 16) (hq : q.index = 0x7100 + ch % 16) (hsub : (r.sub % 256 == q.sub % 256) = false) (v i j : Nat) :
    (s.wr q j v).rd r i = s.rd r i := rd_wr_ne _ _ (by
  have := ne_of_beq_false hsub
  rw [hr, hq]
  omega)

theorem rd_tlyStatus (lo w v : Nat) : (tlyStatus s ch lo w v).rd (R.TLY_STATUS ch) 0 = setBits (s.rd (R.TLY_STATUS ch) 0) lo w v % 2 ^ 64 := rd_wr_same ..

/-- END of a channel's status (R344). -/
def tlyEndCode (s : State) (ch : Nat) : Nat := bits (s.rd (R.TLY_STATUS ch) 0) 8 8

theorem tlyEndCode_set {code : Nat} (h : code < 256) : tlyEndCode (tlyStatus s ch 8 8 code) ch = code := by
  rw [tlyEndCode, rd_tlyStatus]
  simp only [bits, setBits]
  omega

theorem tlyEndCode_scans (v : Nat) : tlyEndCode (tlyStatus s ch 32 32 v) ch = tlyEndCode s ch := by
  rw [tlyEndCode, rd_tlyStatus, tlyEndCode]
  simp only [bits, setBits]
  omega

theorem tlyEndCode_mismatch : tlyEndCode (tlyStatus s ch 4 1 1) ch = tlyEndCode s ch := by
  rw [tlyEndCode, rd_tlyStatus, tlyEndCode]
  simp only [bits, setBits]
  omega

theorem tlyEndCode_busy : tlyEndCode (tlyBusy s ch) ch = tlyEndCode s ch := by
  rw [tlyEndCode, tlyBusy, rd_tlyStatus, tlyEndCode]
  simp only [bits, setBits]
  omega

theorem busy_tlyBusy (h : ((s.chan ch).running || (s.chan ch).armed || (s.chan ch).stream) = true) : bitOf ((tlyBusy s ch).rd (R.TLY_STATUS ch) 0) 0 = true := by
  rw [tlyBusy, rd_tlyStatus, h]
  simp only [bitOf, bits, setBits, b2n, beq_iff_eq, if_true]
  omega

theorem bit4_tlyStatus : bitOf ((tlyStatus s ch 4 1 1).rd (R.TLY_STATUS ch) 0) 4 = true := by
  rw [rd_tlyStatus]
  simp only [bitOf, bits, setBits, beq_iff_eq]
  omega

theorem bit6_tlyStatus : bitOf ((tlyStatus s ch 6 1 1).rd (R.TLY_STATUS ch) 0) 6 = true := by
  rw [rd_tlyStatus]
  simp only [bitOf, bits, setBits, beq_iff_eq]
  omega

/-- A mismatch counted, recorded and signalled (R345, R346). -/
def mismatched (s : State) (ch code : Nat) (fs : List (Nat × Nat)) : State :=
  tlySignal (((tlyStatus s ch 4 1 1).bumpSat (R.TLY_MISMATCHES ch) 0 1).record code uFcc fs) ch

theorem mismatched_way (s : State) (ch code : Nat) (fs : List (Nat × Nat)) :
    Keeps [12, 16, 20, 0x7002] ((tlyStatus s ch 4 1 1).bumpSat (R.TLY_MISMATCHES ch) 0 1) (mismatched s ch code fs) :=
  tlySignal_keeps (.of rfl Sub.rfl) (record_keeps (.of rfl Sub.rfl) (Keeps.refl _ _))

theorem mismatched_spec (s : State) (ch code : Nat) (fs : List (Nat × Nat)) :
    Counted s (mismatched s ch code fs) (R.TLY_MISMATCHES ch) 0 1 ∧ bitOf ((mismatched s ch code fs).rd (R.TLY_STATUS ch) 0) 4 = true ∧
    (mismatched s ch code fs).chan ch = s.chan ch ∧ tlyEndCode (mismatched s ch code fs) ch = tlyEndCode s ch := by
  have hway := mismatched_way s ch code fs
  have hstatus : (mismatched s ch code fs).rd (R.TLY_STATUS ch) 0 = (tlyStatus s ch 4 1 1).rd (R.TLY_STATUS ch) 0 :=
    (hway.tly (ch := ch) rfl rfl 0).trans (rd_wr_tly (ch := ch) rfl rfl rfl _ _ _)
  refine ⟨?_, hstatus ▸ bit4_tlyStatus, hway.chan_eq rfl ch, ?_⟩
  · rw [Counted, hway.tly (ch := ch) rfl rfl, rd_bumpSat_same, rd_tlyStatus_ne rfl rfl]
  · rw [tlyEndCode, hstatus]
    exact tlyEndCode_mismatch

/-- Registers of the channel but its status and its mismatches stay at a mismatch. -/
theorem rd_mismatched (hr : r.index = 0x7100 + ch % 16) (h2 : (r.sub % 256 == 2) = false) (h11 : (r.sub % 256 == 11) = false) (code : Nat) (fs : List (Nat × Nat)) (i : Nat) :
    (mismatched s ch code fs).rd r i = s.rd r i := by
  rw [(mismatched_way s ch code fs).tly (ch := ch) rfl hr, State.bumpSat, rd_wr_tly (ch := ch) (q := R.TLY_MISMATCHES ch) hr rfl h11, rd_tlyStatus_ne hr h2]

/-! ### A scan's start and end (R345) -/

theorem scanStart_spec : ((scanStart s ch).chan ch = { s.chan ch with running := true, chunk := 0, value := 0, poisoned := false, stopReq := false }) ∧
    (scanStart s ch).rd (R.TLY_DONE ch) 0 = 0 ∧ bitOf ((scanStart s ch).rd (R.TLY_STATUS ch) 0) 0 = true := by
  have hchan : (scanStart s ch).chan ch = { s.chan ch with running := true, chunk := 0, value := 0, poisoned := false, stopReq := false } := by
    rw [scanStart, chan_tlyBusy, chan_wr, chan_modChan_same]
  refine ⟨hchan, ?_, ?_⟩
  · rw [scanStart, tlyBusy, rd_tlyStatus_ne rfl rfl, rd_wr_same]
    rfl
  · refine busy_tlyBusy ?_
    rw [chan_wr, chan_modChan_same]
    rfl

/-- The state with a scan ended, before what its end raises. -/
def scanDone (s : State) (ch code : Nat) : State :=
  tlyBusy (if code = 1 ∨ code = 2 ∨ code = 6 then
      tlyStatus (tlyStatus ((s.modChan ch fun c => { c with running := false, stopReq := false }).wr (R.TLY_RESULT ch) 0 (s.chan ch).value) ch 8 8 code) ch 32 32
        (min (bits (s.rd (R.TLY_STATUS ch) 0) 32 32 + 1) 0xFFFFFFFF)
    else tlyStatus ((s.modChan ch fun c => { c with running := false, stopReq := false }).wr (R.TLY_RESULT ch) 0 (s.chan ch).value) ch 8 8 code) ch

theorem scanDone_spec {code : Nat} (hcode : code < 256) : ((scanDone s ch code).chan ch).running = false ∧ tlyEndCode (scanDone s ch code) ch = code ∧
    (scanDone s ch code).rd (R.TLY_RESULT ch) 0 = (s.chan ch).value % 2 ^ 64 ∧ (scanDone s ch code).rd (R.TLY_MISMATCHES ch) 0 = s.rd (R.TLY_MISMATCHES ch) 0 := by
  have hrun (u : State) : (((u.modChan ch fun c => { c with running := false, stopReq := false }).wr (R.TLY_RESULT ch) 0 (s.chan ch).value).chan ch).running = false := by
    rw [chan_wr, chan_modChan_same]
  rw [scanDone, chan_tlyBusy, tlyEndCode_busy, tlyBusy, rd_tlyStatus_ne rfl rfl, rd_tlyStatus_ne rfl rfl]
  split
  · rw [chan_tlyStatus, chan_tlyStatus, tlyEndCode_scans, tlyEndCode_set hcode, rd_tlyStatus_ne rfl rfl, rd_tlyStatus_ne rfl rfl, rd_tlyStatus_ne rfl rfl,
      rd_tlyStatus_ne rfl rfl, rd_wr_same, rd_wr_tly (ch := ch) rfl rfl rfl]
    exact ⟨hrun s, rfl, rfl, rfl⟩
  · rw [chan_tlyStatus, tlyEndCode_set hcode, rd_tlyStatus_ne rfl rfl, rd_tlyStatus_ne rfl rfl, rd_wr_same, rd_wr_tly (ch := ch) rfl rfl rfl]
    exact ⟨hrun s, rfl, rfl, rfl⟩

/-- The end of a scan that raises nothing: a pass or a stop. -/
theorem scanEnd_quiet {code : Nat} (h2 : code ≠ 2) (h : ¬ (code = 3 ∨ code = 4 ∨ code = 6)) : scanEnd s ch code = scanDone s ch code := by
  unfold scanEnd
  dsimp only
  rw [if_neg h2, if_neg h]
  rfl

theorem scanEnd_mismatch : scanEnd s ch 2 = mismatched (scanDone s ch 2) ch 0xF010 [(1, ch), (1, 2), (2, 0), (8, (s.chan ch).value)] := by
  unfold scanEnd
  dsimp only
  rw [if_pos rfl]
  rfl

/-! ### A chunk (R340) -/

/-- What a read of runs brings comes from memory and the poison marks alone. -/
theorem readRuns_congr {unit : Nat} (rs : List (Nat × Nat)) (ecc : List EccHit) {s t : State} (hmem : t.mem = s.mem) (hpoison : t.poison = s.poison) :
    (readRuns t unit rs ecc).2 = (readRuns s unit rs ecc).2 := by
  induction rs generalizing s t ecc with
  | nil => rfl
  | cons c rest ih =>
    have hs (u : State) (a n : Nat) (e : List EccHit) : Keeps _ u (chipRead u unit a n e).1 := (chipRead_keeps Sub.rfl (Keeps.refl _ u)).fst
    have hpois (a n : Nat) : t.poisoned a n = s.poisoned a n := by rw [State.poisoned, State.poisoned, hpoison]
    have hbytes (e : List EccHit) : (chipRead t unit c.1 c.2 e).2.1 = (chipRead s unit c.1 c.2 e).2.1 := congrArg (fun m => memRead m c.1 c.2) hmem
    have hruns (e : List EccHit) (bs : List Byte) : poisonRuns t c.1 e bs = poisonRuns s c.1 e bs := by simp only [poisonRuns, hpois]
    rw [readRuns, readRuns]
    dsimp only
    rw [hbytes, hruns, ih]
    · rw [(hs t ..).mem rfl, (hs s ..).mem rfl, hmem]
    · rw [(hs t ..).poison_eq rfl, (hs s ..).poison_eq rfl, hpoison]

theorem chunkFree_way (s : State) (ch : Nat) : Keeps [17, 0x3403] s (chunkFree s ch) := chunkFree_keeps Sub.rfl (Keeps.refl _ s)

theorem chunkFree_chan : (chunkFree s ch).chan ch = { s.chan ch with heldNs := none } := by
  unfold chunkFree
  cases hheld : (s.chan ch).heldNs with
  | none =>
    show s.chan ch = _
    rw [← hheld]
  | some x => exact chan_modChan_same ..

/-- The next chunk folded. -/
theorem chunkRead_folds {rs : List (Nat × Nat)} {ecc : List EccHit} (hrun : (s.chan ch).running = true) (hmore : (s.chan ch).chunk * tlyChunk s ch < tlyLen s ch)
    (hstop : (s.chan ch).stopReq = false) (hnear : chunkNear s ch = true) (hrs : reqRange s (chunkReq s ch) = some rs) (hdown : downRange s rs = false)
    (hhold : ∀ x ∈ rs, holdOf s x.1 x.2 = none) : ((chunkRead s ch ecc).chan ch).chunk = (s.chan ch).chunk + 1 ∧
      ((chunkRead s ch ecc).chan ch).value = foldMore (tlyCtl s ch 0 2) (s.chan ch).value (zeroBad (readRuns s uFcc rs ecc).2) ∧ (chunkRead s ch ecc).mem = s.mem := by
  have hfree := chunkFree_way s ch
  have hnone : ¬ (rs.findSome? fun x => holdOf s x.1 x.2).isSome = true := by
    rw [List.findSome?_eq_none_iff.2 hhold]
    exact Bool.false_ne_true
  have hread : Keeps _ (chunkFree s ch) (readRuns (chunkFree s ch) uFcc rs ecc).1 := (readRuns_keeps Sub.rfl (Keeps.refl _ _)).fst
  have hruns := readRuns_congr (unit := uFcc) rs ecc (hfree.mem rfl) (hfree.poison_eq rfl)
  have hchan : (readRuns (chunkFree s ch) uFcc rs ecc).1.chan ch = { s.chan ch with heldNs := none } := (hread.chan_eq rfl ch).trans chunkFree_chan
  have hmem : (readRuns (chunkFree s ch) uFcc rs ecc).1.mem = s.mem := (hread.mem rfl).trans (hfree.mem rfl)
  unfold chunkRead
  dsimp only
  rw [if_neg (by rw [hrun]; simp; omega), if_neg (by simp [hstop]), hnear, hrs]
  dsimp only
  rw [if_neg (by simp [hdown]), if_neg hnone, State.bump, chan_wr, chan_modChan_same, hruns]
  split
  · rw [chan_tlyStatus, hchan]
    exact ⟨rfl, rfl, hmem⟩
  · rw [hchan]
    exact ⟨rfl, rfl, hmem⟩

theorem chunkRead_stopped {ecc : List EccHit} (hrun : (s.chan ch).running = true) (hmore : (s.chan ch).chunk * tlyChunk s ch < tlyLen s ch)
    (hstop : (s.chan ch).stopReq = true) : chunkRead s ch ecc = scanDone (chunkFree s ch) ch 5 := by
  unfold chunkRead
  dsimp only
  rw [if_neg (by rw [hrun]; simp; omega), if_pos hstop, scanEnd_quiet (by decide) (by decide)]

/-! ### Lanes (R346) -/

theorem laneSet_last {lane v : Nat} (hv : v < 2 ^ 32) (gaps reps : Nat) : bits ((laneSet s ch lane v gaps reps).rd (R.TLY_LANE ch lane) 0) 0 32 = v := by
  have hrd : (laneSet s ch lane v gaps reps).rd (R.TLY_LANE ch lane) 0 = packRec [(4, v), (4, gaps), (4, reps), (4, 0)] % 2 ^ 128 := rd_wr_same ..
  rw [hrd]
  simp only [packRec, List.foldr_cons, List.foldr_nil, bits]
  omega

theorem laneSet_mismatches {lane : Nat} (hlane : lane < 8) (last gaps reps : Nat) : (laneSet s ch lane last gaps reps).rd (R.TLY_MISMATCHES ch) 0 = s.rd (R.TLY_MISMATCHES ch) 0 :=
  rd_wr_tly (ch := ch) rfl rfl (beq_false_of_ne (by
    show 11 ≠ (0x21 + lane) % 256
    omega)) _ _ _

/-- The step of a lane from its last value. -/
def laneStep (s : State) (ch lane v : Nat) : Nat := (v + (2 ^ 32 - bits (s.rd (R.TLY_LANE ch lane) 0) 0 32)) % 2 ^ 32

theorem streamValue_first {lane v : Nat} (hv : v < 2 ^ 32) (h : lane ∉ (s.chan ch).started) :
    lane ∈ ((streamValue s ch lane v).chan ch).started ∧ bits ((streamValue s ch lane v).rd (R.TLY_LANE ch lane) 0) 0 32 = v := by
  unfold streamValue
  dsimp only
  rw [if_pos (by simpa using h)]
  refine ⟨?_, laneSet_last hv ..⟩
  rw [laneSet, chan_wr, chan_modChan_same]
  simp

theorem streamValue_next {lane v : Nat} (hlane : lane < 8) (hv : v < 2 ^ 32) (h : lane ∈ (s.chan ch).started) (hstep : laneStep s ch lane v = 1) :
    bits ((streamValue s ch lane v).rd (R.TLY_LANE ch lane) 0) 0 32 = v ∧ (streamValue s ch lane v).rd (R.TLY_MISMATCHES ch) 0 = s.rd (R.TLY_MISMATCHES ch) 0 := by
  rw [laneStep] at hstep
  unfold streamValue
  dsimp only
  rw [if_neg (by simpa using h), if_pos hstep]
  exact ⟨laneSet_last hv .., laneSet_mismatches hlane ..⟩

/-- A value out of sequence is a mismatch; past a gap it is the lane's last one. -/
theorem streamValue_broken {lane v : Nat} (hlane : lane < 8) (hv : v < 2 ^ 32) (h : lane ∈ (s.chan ch).started) (hstep : laneStep s ch lane v ≠ 1) :
    Counted s (streamValue s ch lane v) (R.TLY_MISMATCHES ch) 0 1 ∧
      (2 ≤ laneStep s ch lane v → laneStep s ch lane v < 2 ^ 31 → bits ((streamValue s ch lane v).rd (R.TLY_LANE ch lane) 0) 0 32 = v) := by
  have hcount (u : State) (fs : List (Nat × Nat)) (hu : u.rd (R.TLY_MISMATCHES ch) 0 = s.rd (R.TLY_MISMATCHES ch) 0) :
      Counted s (mismatched u ch 0xF012 fs) (R.TLY_MISMATCHES ch) 0 1 := by
    have hcount := (mismatched_spec u ch 0xF012 fs).1
    rwa [Counted, hu] at hcount
  rw [laneStep] at hstep
  unfold streamValue
  dsimp only
  rw [if_neg (by simpa using h), if_neg hstep]
  refine ⟨hcount _ _ ?_, fun h2 h31 => ?_⟩
  · split <;> exact laneSet_mismatches hlane ..
  · rw [if_pos (by rw [Bool.and_eq_true]; exact ⟨decide_eq_true h2, decide_eq_true h31⟩)]
    refine (congrArg (bits · 0 32) (rd_mismatched (s := laneSet s ch lane v _ _) (r := R.TLY_LANE ch lane) rfl ?_ ?_ _ _ _)).trans (laneSet_last hv ..)
    · refine beq_false_of_ne (show (0x21 + lane) % 256 ≠ 2 from ?_)
      omega
    · refine beq_false_of_ne (show (0x21 + lane) % 256 ≠ 11 from ?_)
      omega

/-! ### Commands (R342, R345) -/

variable {who : Who}

theorem tallyStart_spec (h : Allowed s who (R.TLY_CMD ch) 0 1) :
    (tlyReserved s ch = true ∨ ¬ ((s.chan ch).running = false ∧ (s.chan ch).armed = false ∧ (s.chan ch).stream = false) →
      TurnedAway who (.tallyStart who ch) s rState) ∧
    (tlyReserved s ch = false → ((s.chan ch).running = false ∧ (s.chan ch).armed = false ∧ (s.chan ch).stream = false) → tlyCtl s ch 2 2 = 0 →
      (scanValid s ch = true → Writes who (.tallyStart who ch) s fun t => (t.chan ch).running = true ∧ (t.chan ch).chunk = 0 ∧
        (t.chan ch).value = 0 ∧ t.rd (R.TLY_DONE ch) 0 = 0 ∧ bitOf (t.rd (R.TLY_STATUS ch) 0) 0 = true) ∧
      (scanValid s ch = false → TurnedAway who (.tallyStart who ch) s rState)) ∧
    (tlyReserved s ch = false → ((s.chan ch).running = false ∧ (s.chan ch).armed = false ∧ (s.chan ch).stream = false) → tlyCtl s ch 2 2 = 2 →
      Writes who (.tallyStart who ch) s fun t => (t.chan ch).stream = true) := by
  have hpass (hown : tlyReserved s ch = false) (hidle : (s.chan ch).running = false ∧ (s.chan ch).armed = false ∧ (s.chan ch).stream = false) :
      ¬ (tlyReserved s ch = true ∨ ((s.chan ch).running || (s.chan ch).armed || (s.chan ch).stream) = true) := by
    simp [hown, hidle]
  refine ⟨fun hbusy => turnedAway_of_guard rfl h (if_pos ?_), fun hown hidle hmode => ⟨fun hvalid => ?_, fun hvalid => ?_⟩, fun hown hidle hmode => ?_⟩
  · simp only [Bool.or_eq_true]
    rcases hbusy with hown | hnot
    · exact .inl hown
    · refine .inr ?_
      simp only [← Bool.not_eq_true] at hnot
      tauto
  · obtain ⟨hchan, hdone, hbusy⟩ := scanStart_spec (s := s) (ch := ch)
    have heq : tallyStart s ch = done (scanStart s ch) := by
      rw [tallyStart, if_neg (hpass hown hidle), hmode]
      exact if_pos hvalid
    refine writes_of_guard rfl h heq ?_
    show ((scanStart s ch).chan ch).running = true ∧ ((scanStart s ch).chan ch).chunk = 0 ∧ ((scanStart s ch).chan ch).value = 0 ∧ _
    rw [hchan]
    exact ⟨rfl, rfl, rfl, hdone, hbusy⟩
  · have heq : tallyStart s ch = (s, rState) := by
      rw [tallyStart, if_neg (hpass hown hidle), hmode]
      exact if_neg (by simp [hvalid])
    exact turnedAway_of_guard rfl h heq
  · have heq : tallyStart s ch = done (tlyBusy (s.modChan ch fun c => { c with stream := true }) ch) := by
      rw [tallyStart, if_neg (hpass hown hidle), hmode]
      rfl
    refine writes_of_guard rfl h heq ?_
    exact congrArg TallyCh.stream (chan_modChan_same s ch fun c => { c with stream := true })

theorem tallyStop_writes (h : Allowed s who (R.TLY_CMD ch) 0 2) (hown : tlyReserved s ch = false) : Writes who (.tallyStop who ch) s fun t =>
    t.chan ch = { s.chan ch with armed := false, stream := false, stopReq := (s.chan ch).running } :=
  writes_of_guard rfl h (if_neg (by simp [hown])) (chan_modChan_same s ch fun c => { c with armed := false, stream := false, stopReq := c.running })

theorem tallyClear_writes (h : Allowed s who (R.TLY_CMD ch) 0 3) (hown : tlyReserved s ch = false) : Writes who (.tallyClearLanes who ch) s fun t =>
    t.chan ch = { s.chan ch with started := [] } :=
  writes_of_guard rfl h (if_neg (by simp [hown])) (chan_modChan_same s ch fun c => { c with started := [] })

theorem scanFinish_spec (hrun : (s.chan ch).running = true) (hall : tlyLen s ch ≤ (s.chan ch).chunk * tlyChunk s ch) (hclean : (s.chan ch).poisoned = false) :
    (tlyCtl s ch 6 1 = 1 → s.rd (R.TLY_EXPECT ch) 0 ≠ (s.chan ch).value → scanFinish s ch = scanEnd s ch 2) ∧
    (tlyCtl s ch 6 1 = 0 ∨ s.rd (R.TLY_EXPECT ch) 0 = (s.chan ch).value → scanFinish s ch = scanEnd s ch 1) := by
  have hpass : ¬ ((s.chan ch).running = false ∨ (s.chan ch).chunk * tlyChunk s ch < tlyLen s ch) := by
    rw [hrun]
    simp
    omega
  refine ⟨fun hcmp hne => ?_, fun hsame => ?_⟩
  · rw [scanFinish, if_neg hpass, if_neg (by simp [hclean]), if_pos ⟨hcmp, hne⟩]
  · rw [scanFinish, if_neg hpass, if_neg (by simp [hclean]), if_neg]
    rintro ⟨hcmp, hne⟩
    rcases hsame with h0 | heq
    · omega
    · exact hne heq

theorem period_spec (harmed : (s.chan ch).armed = true) (hdue : (s.chan ch).dueNs ≤ s.now) :
    ((s.chan ch).running = false → Does (.tallyPeriod ch) s fun t => (t.chan ch).running = true ∧ (t.chan ch).value = 0 ∧
      (t.chan ch).dueNs = (s.chan ch).dueNs + (1000000 * tlyPeriod s ch : Nat)) ∧
    ((s.chan ch).running = true → Does (.tallyPeriod ch) s fun t => bitOf (t.rd (R.TLY_STATUS ch) 0) 6 = true ∧
      t.chan ch = { s.chan ch with dueNs := (s.chan ch).dueNs + (1000000 * tlyPeriod s ch : Nat) }) := by
  have hpass : ¬ ((s.chan ch).armed = false ∨ s.now < (s.chan ch).dueNs) := by
    rw [harmed]
    simp
    omega
  have hchan : (s.modChan ch fun c => { c with dueNs := c.dueNs + (1000000 * tlyPeriod s ch : Nat) }).chan ch =
    { s.chan ch with dueNs := (s.chan ch).dueNs + (1000000 * tlyPeriod s ch : Nat) } := chan_modChan_same ..
  refine ⟨fun hidle => ⟨_, congrArg Host.Outcome.next ((if_neg hpass).trans (if_neg (by simp [hidle]))), ?_⟩,
    fun hrun => ⟨_, congrArg Host.Outcome.next ((if_neg hpass).trans (if_pos hrun)), ?_⟩⟩
  · beta_reduce
    rw [scanStart_spec.1, hchan]
    exact ⟨rfl, rfl, rfl⟩
  · beta_reduce
    rw [(keeps_record ..).chan_eq rfl, chan_tlyStatus, hchan, (keeps_record ..).tly (ch := ch) rfl rfl]
    exact ⟨bit6_tlyStatus, rfl⟩

theorem tlyLane_spec {lane v : Nat} (hlane : lane < 8) (hv : v < 2 ^ 32) (h : Allowed s who { R.TLY_LANE ch lane with acc := .wo } 0 v) :
    ((s.chan ch).stream = false ∨ tlyCtl s ch 8 3 < lane → TurnedAway who (.tlyLane who ch lane v) s rState) ∧
    ((s.chan ch).stream = true → lane ≤ tlyCtl s ch 8 3 →
      (lane ∉ (s.chan ch).started → Writes who (.tlyLane who ch lane v) s fun t => lane ∈ (t.chan ch).started ∧ bits (t.rd (R.TLY_LANE ch lane) 0) 0 32 = v) ∧
      (lane ∈ (s.chan ch).started → laneStep s ch lane v = 1 → Writes who (.tlyLane who ch lane v) s fun t =>
        bits (t.rd (R.TLY_LANE ch lane) 0) 0 32 = v ∧ t.rd (R.TLY_MISMATCHES ch) 0 = s.rd (R.TLY_MISMATCHES ch) 0) ∧
      (lane ∈ (s.chan ch).started → 1 < laneStep s ch lane v → laneStep s ch lane v < 2 ^ 31 → Writes who (.tlyLane who ch lane v) s fun t =>
        bits (t.rd (R.TLY_LANE ch lane) 0) 0 32 = v ∧ Counted s t (R.TLY_MISMATCHES ch) 0 1) ∧
      (lane ∈ (s.chan ch).started → laneStep s ch lane v = 0 ∨ 2 ^ 31 ≤ laneStep s ch lane v → Writes who (.tlyLane who ch lane v) s fun t =>
        Counted s t (R.TLY_MISMATCHES ch) 0 1)) := by
  have hexec : exec (.tlyLane who ch lane v) s = .next (s.guard who { R.TLY_LANE ch lane with acc := .wo } 0 v fun s => laneInput s ch lane v) := by
    show Host.Outcome.next (s.guard who { R.TLY_LANE ch lane with acc := .wo } 0 (v % 2 ^ 32) fun s => laneInput s ch lane (v % 2 ^ 32)) = _
    rw [Nat.mod_eq_of_lt hv]
  have hdone (hstream : (s.chan ch).stream = true) (hin : lane ≤ tlyCtl s ch 8 3) : laneInput s ch lane v = done (streamValue s ch lane v) :=
    if_neg (by rw [hstream]; simp; omega)
  refine ⟨fun hoff => turnedAway_of_guard hexec h (if_pos hoff), fun hstream hin => ⟨fun hnew => ?_, fun hold hstep => ?_, fun hold h1 h31 => ?_, fun hold hback => ?_⟩⟩
  · exact writes_of_guard hexec h (hdone hstream hin) (streamValue_first hv hnew)
  · exact writes_of_guard hexec h (hdone hstream hin) (streamValue_next hlane hv hold hstep)
  · obtain ⟨hcount, hlast⟩ := streamValue_broken hlane hv hold (by omega)
    exact writes_of_guard hexec h (hdone hstream hin) ⟨hlast h1 h31, hcount⟩
  · exact writes_of_guard hexec h (hdone hstream hin) (streamValue_broken hlane hv hold (by omega)).1

end

/-- Settles O52: Tally's channels start, fold, end, stop and take the values of their lanes as stated. -/
theorem tallyScans : Obligations.TallyScans := by
  intro s who ch hch
  refine ⟨fun h => tallyStart_spec h, fun h hown => tallyStop_writes h hown, fun h hown => tallyClear_writes h hown,
    fun hidle => ⟨fun ecc => ⟨_, congrArg Host.Outcome.next (if_pos (.inl hidle)), rfl⟩, ⟨_, congrArg Host.Outcome.next (if_pos (.inl hidle)), rfl⟩⟩,
    fun hrun hmore ecc => ⟨⟨_, congrArg Host.Outcome.next (if_pos (.inr hmore)), rfl⟩, fun hstop => ⟨_, congrArg Host.Outcome.next (chunkRead_stopped hrun hmore hstop), ?_⟩,
      fun rs hstop hnear hrs hdown hhold => ⟨_, rfl, chunkRead_folds hrun hmore hstop hnear hrs hdown hhold⟩⟩,
    fun hrun hall hclean => ⟨fun hcmp hne => ⟨_, congrArg Host.Outcome.next ((scanFinish_spec hrun hall hclean).1 hcmp hne), ?_⟩,
      fun hsame => ⟨_, congrArg Host.Outcome.next ((scanFinish_spec hrun hall hclean).2 hsame), ?_⟩⟩,
    fun hidle => ⟨_, congrArg Host.Outcome.next (if_pos hidle), rfl⟩, fun harmed hdue => period_spec harmed hdue,
    fun lane v hlane hv h => tlyLane_spec hlane hv h⟩
  · obtain ⟨hrunning, hcode, hresult, -⟩ := scanDone_spec (s := chunkFree s ch) (ch := ch) (code := 5) (by decide)
    rw [chunkFree_chan] at hresult
    exact ⟨hrunning, hcode, hresult⟩
  · obtain ⟨hrunning, hcode, hresult, hsame⟩ := scanDone_spec (s := s) (ch := ch) (code := 2) (by decide)
    obtain ⟨hcount, hbit, hchan, hend⟩ := mismatched_spec (scanDone s ch 2) ch 0xF010 [(1, ch), (1, 2), (2, 0), (8, (s.chan ch).value)]
    beta_reduce
    rw [scanEnd_mismatch, hchan, rd_mismatched (r := R.TLY_RESULT ch) rfl rfl rfl]
    rw [Counted, hsame] at hcount
    exact ⟨⟨hrunning, hend.trans hcode, hresult⟩, hcount, hbit⟩
  · obtain ⟨hrunning, hcode, hresult, hsame⟩ := scanDone_spec (s := s) (ch := ch) (code := 1) (by decide)
    beta_reduce
    rw [scanEnd_quiet (by decide) (by decide)]
    exact ⟨⟨hrunning, hcode, hresult⟩, hsame⟩

end Sys2Proof.Machine
end

section
/-! The Ledger's acceptance, stores, flash pages, erases, clears and overrides (R331 to R337). -/

namespace Sys2Proof.Machine

open Sys2Proof

/-! ### What presenting a record leaves of the Ledger (R331, R332) -/

section
variable {s t : State}

/-- The stores of the Ledger: all of it but the acceptance queue and the rate limits. -/
def LedgerUnit.stores (l : LedgerUnit) : LedgerUnit := { l with queue := [], lostPend := 0, buckets := [] }

@[simp] theorem rd_modLedger (f : LedgerUnit → LedgerUnit) (r : Reg) (i : Nat) : (s.modLedger f).rd r i = s.rd r i := rfl

theorem ldgEnqueue_stores (r : List Byte) : (ldgEnqueue s r).ledger.stores = s.ledger.stores := by
  unfold ldgEnqueue
  split <;> rfl

theorem ldgAccept_stores (code : Nat) (r : List Byte) (tokens : Nat) : (ldgAccept s code r tokens).ledger.stores = s.ledger.stores := by
  unfold ldgAccept
  dsimp only
  refine (ldgEnqueue_stores (s := ite _ _ _) r).trans ?_
  split
  · rfl
  · exact ldgEnqueue_stores _

theorem ldgSuppress_stores (code tokens : Nat) : (ldgSuppress s code tokens).ledger.stores = s.ledger.stores := by
  unfold ldgSuppress
  dsimp only
  split <;> rfl

theorem ldgPresent_stores (code : Nat) (r : List Byte) : (ldgPresent s code r).ledger.stores = s.ledger.stores := by
  unfold ldgPresent
  dsimp only
  split
  · exact ldgEnqueue_stores r
  · split
    · exact ldgAccept_stores ..
    · exact ldgSuppress_stores ..

theorem record_stores (code source : Nat) (fs : List (Nat × Nat)) : (s.record code source fs).ledger.stores = s.ledger.stores := ldgPresent_stores ..

/-- Where the stores are the same, so is each of their parts. -/
theorem stores_parts {l m : LedgerUnit} (h : l.stores = m.stores) : l.buffer = m.buffer ∧ l.sectors = m.sectors ∧ l.skipped = m.skipped ∧
    l.erasing = m.erasing ∧ l.clearing = m.clearing ∧ l.erases = m.erases :=
  ⟨congrArg (·.buffer) h, congrArg (·.sectors) h, congrArg (·.skipped) h, congrArg (·.erasing) h, congrArg (·.clearing) h, congrArg (·.erases) h⟩

theorem ldgCounts_ledger (s : State) : (ldgCounts s).ledger = s.ledger := rfl

/-- With nothing lost no summary waits. -/
theorem ldgLost_idle (h : s.ledger.lostPend = 0) (hb : s.ledger.bufDropPend = 0 ∨ 256 ≤ s.ledger.buffer.length) : ldgLost s = s := by
  simp only [ldgLost, h, ne_eq, not_true_eq_false, false_and, if_false]
  refine if_neg ?_
  rintro ⟨hne, hroom, -⟩
  rcases hb with hb | hb
  · exact hne hb
  · omega

/-! ### A record arrives (R331, R332) -/

theorem ldgEnqueue_room {r : List Byte} (h : s.ledger.queue.length < 256) : (ldgEnqueue s r).ledger.queue = s.ledger.queue ++ [r] ∧ (ldgEnqueue s r).od = s.od := by
  rw [ldgEnqueue, if_pos h]
  exact ⟨rfl, rfl⟩

theorem ldgEnqueue_full {r : List Byte} (h : 256 ≤ s.ledger.queue.length) : (ldgEnqueue s r).ledger.queue = s.ledger.queue ∧
    Counted s (ldgEnqueue s r) R.LDG_LOST 0 1 ∧ (ldgEnqueue s r).ledger.lostPend = s.ledger.lostPend + 1 := by
  rw [ldgEnqueue, if_neg (Nat.not_lt.2 h)]
  exact ⟨rfl, rd_bumpSat_same .., rfl⟩

/-- A record within its code's rate joins the queue; one past it is suppressed. -/
theorem ldgPresent_eq {code : Nat} (r : List Byte) (hcode : code < 0xF001 ∨ 0xF004 < code) (hcount : (mapGet {} s.ledger.buckets code).count = 0) :
    (1000000000 ≤ bucketNow s code → ldgPresent s code r = ldgBucket (ldgEnqueue s r) code { tokens := bucketNow s code - 1000000000, lastNs := s.now }) ∧
    (bucketNow s code < 1000000000 → ldgPresent s code r = ldgBucket ((s.bumpSat R.LDG_SUPPRESSED 0 1).bump R.LDG_SUPP_PEND 0 1) code
      { tokens := bucketNow s code, lastNs := s.now, count := 1, firstNs := s.now }) := by
  have hlimited : ¬ (0xF001 ≤ code ∧ code ≤ 0xF004) := by omega
  refine ⟨fun h => ?_, fun h => ?_⟩
  · rw [ldgPresent, if_neg hlimited, if_pos h, ldgAccept]
    rw [if_pos hcount]
  · rw [ldgPresent, if_neg hlimited, if_neg (Nat.not_le.2 h), ldgSuppress]
    rw [hcount, if_pos rfl, if_pos rfl]

theorem ldgBucket_get (code : Nat) (b : Bucket) : mapGet {} (ldgBucket s code b).ledger.buckets code = b := mapGet_mapPut_same ..

/-! ### The queue drained (R331, R334, R336) -/

/-- The state with the oldest of the queue stored. -/
def drainedOne (s : State) (r : List Byte) (rest : List (List Byte)) : State := ldgStore (s.modLedger fun l => { l with queue := rest }) r

theorem drainedOne_spec (r : List Byte) (rest : List (List Byte)) : (drainedOne s r rest).ledger.queue = rest ∧ (drainedOne s r rest).ledger.drained = s.ledger.drained + 1 ∧
    (drainedOne s r rest).ledger.volFirst = (volWrite s.ledger r).volFirst ∧ (drainedOne s r rest).ledger.volLast = (volWrite s.ledger r).volLast ∧
    (drainedOne s r rest).ledger.lostPend = s.ledger.lostPend ∧
    (s.ledger.buffer.length < 256 → (drainedOne s r rest).ledger.buffer = s.ledger.buffer ++ [(s.ledger.drained, r)] ∧ (drainedOne s r rest).ledger.bufDropPend = s.ledger.bufDropPend) ∧
    (256 ≤ s.ledger.buffer.length → (drainedOne s r rest).ledger.buffer = s.ledger.buffer ∧ Counted s (drainedOne s r rest) R.LDG_FLASH_DROP 0 1) := by
  have hvol (l : LedgerUnit) : volWrite { l with queue := rest } r = { volWrite l r with queue := rest } := by
    unfold volWrite
    split
    · rfl
    · split <;> rfl
  have hrest (l : LedgerUnit) : (volWrite l r).buffer = l.buffer ∧ (volWrite l r).drained = l.drained ∧ (volWrite l r).lostPend = l.lostPend ∧
      (volWrite l r).bufDropPend = l.bufDropPend := by
    unfold volWrite
    split
    · exact ⟨rfl, rfl, rfl, rfl⟩
    · split <;> exact ⟨rfl, rfl, rfl, rfl⟩
  obtain ⟨hbuf, hdrained, hlost, hdrop⟩ := hrest s.ledger
  have hledger : (s.modLedger fun l => { l with queue := rest }).ledger = { s.ledger with queue := rest } := rfl
  rw [drainedOne, ldgStore]
  rw [hledger, hvol]
  dsimp only
  rw [hbuf, hdrained]
  split
  case isTrue hroom =>
    exact ⟨rfl, rfl, rfl, rfl, hlost, fun _ => ⟨rfl, hdrop⟩, fun h => absurd hroom (Nat.not_lt.2 h)⟩
  case isFalse hroom =>
    exact ⟨rfl, rfl, rfl, rfl, hlost, fun h => absurd h hroom, fun _ => ⟨rfl, rd_bumpSat_same ..⟩⟩

theorem queueDrain_stored {r : List Byte} {rest : List (List Byte)} (hq : s.ledger.queue = r :: rest) (hlost : s.ledger.lostPend = 0) (hdrop : s.ledger.bufDropPend = 0) :
    exec .ledgerQueueDrain s = .next (ldgCounts (drainedOne s r rest)) := by
  obtain ⟨-, -, -, -, hpend, hroom, hfull⟩ := drainedOne_spec (s := s) r rest
  have hexec : exec .ledgerQueueDrain s = .next (ldgCounts (ldgLost (drainedOne s r rest))) := by
    show execLedgerQueueDrain s = _
    rw [execLedgerQueueDrain, hq]
    rfl
  rw [hexec, ldgLost_idle (hpend.trans hlost)]
  by_cases h : s.ledger.buffer.length < 256
  · exact .inl ((hroom h).2.trans hdrop)
  · rw [(hfull (Nat.not_lt.1 h)).1]
    exact .inr (Nat.not_lt.1 h)

theorem rd_ldgCounts_drop : (ldgCounts s).rd R.LDG_FLASH_DROP 0 = s.rd R.LDG_FLASH_DROP 0 := by
  unfold ldgCounts
  dsimp only
  rw [rd_wr_ne _ _ (by decide), rd_wr_ne _ _ (by decide), rd_wr_ne _ _ (by decide), rd_wr_ne _ _ (by decide), rd_wr_ne _ _ (by decide)]

/-! ### A page programmed (R335, R336) -/

/-- The target sector is one of the 32. -/
theorem ldgTarget_spec {sec : Nat} (h : ldgTarget s = some sec) : sec < 32 ∧ ldgRoom s sec = true := by
  unfold ldgTarget at h
  cases hfirst : (List.range 8).find? (ldgRoom s) with
  | some k =>
    rw [hfirst] at h
    cases h
    exact ⟨by have := List.mem_range.1 (List.mem_of_find?_eq_some hfirst); omega, List.find?_some hfirst⟩
  | none =>
    rw [hfirst] at h
    have hmem := List.mem_of_mem_take (List.mem_of_find?_eq_some h)
    obtain ⟨j, -, rfl⟩ := List.mem_map.1 (List.mem_of_mem_filter hmem)
    exact ⟨by omega, List.find?_some h⟩

/-- The sectors of the last area after the current one are others. -/
theorem mem_ldgLastOrder_drop {sec k : Nat} (hsec : 8 ≤ sec ∧ sec < 32) (hcur : s.ledger.curLast = sec - 8) (hskip : sec ∉ s.ledger.skipped)
    (hk : k ∈ (ldgLastOrder s).drop 1) : k ≠ sec := by
  have horder : ldgLastOrder s = sec :: (((List.range 23).map fun j => 8 + (s.ledger.curLast + (j + 1)) % 24).filter fun k => !s.ledger.skipped.contains k) := by
    rw [ldgLastOrder, List.range_succ_eq_map, List.map_cons, List.map_map, List.filter_cons_of_pos]
    · have hfirst : 8 + (s.ledger.curLast + 0) % 24 = sec := by omega
      rw [hfirst]
      rfl
    · have hfirst : 8 + (s.ledger.curLast + 0) % 24 = sec := by omega
      rw [hfirst]
      simpa using hskip
  rw [horder, List.drop_one, List.tail_cons] at hk
  obtain ⟨j, hj, rfl⟩ := List.mem_map.1 (List.mem_of_mem_filter hk)
  have := List.mem_range.1 hj
  omega

/-- The state with a sector's records set. -/
def putInto (s : State) (sec : Nat) (new : List (List Byte)) : State :=
  s.modLedger fun l => { l with sectors := mapSet [] l.sectors sec new, curLast := if sec < 8 then l.curLast else sec - 8 }

/-- Records put into a sector with a header, and the erase that may begin then. -/
theorem ldgPut_cases {sec : Nat} (rs : List (List Byte)) (hhead : ldgSector s sec ≠ []) : ldgPut s sec rs = putInto s sec (ldgSector s sec ++ rs) ∨
    (8 ≤ sec ∧ ∃ nxt ∈ (ldgLastOrder (putInto s sec (ldgSector s sec ++ rs))).drop 1,
      ldgPut s sec rs = ldgErase (putInto s sec (ldgSector s sec ++ rs)) nxt) := by
  have hput : (s.modLedger fun l => { l with sectors := mapSet [] l.sectors sec (ldgSector s sec ++ rs), curLast := if sec < 8 then l.curLast else sec - 8 }) =
    putInto s sec (ldgSector s sec ++ rs) := rfl
  unfold ldgPut
  dsimp only
  rw [if_neg hhead, hput]
  split
  case isFalse => exact .inl rfl
  case isTrue h =>
    cases hdrop : (ldgLastOrder (putInto s sec (ldgSector s sec ++ rs))).drop 1 with
    | nil => exact .inl rfl
    | cons nxt rest => exact .inr ⟨h.1, nxt, List.mem_cons_self, rfl⟩

/-- Records put into a sector stand after those it has. -/
theorem ldgPut_spec {sec : Nat} (rs : List (List Byte)) (hsec : sec < 32) (hroom : ldgRoom s sec = true) (hhead : ldgSector s sec ≠ []) :
    mapGet [] (ldgPut s sec rs).ledger.sectors sec = ldgSector s sec ++ rs ∧ (ldgPut s sec rs).ledger.buffer = s.ledger.buffer ∧
    (ldgPut s sec rs).ledger.lostPend = s.ledger.lostPend ∧ (ldgPut s sec rs).ledger.bufDropPend = s.ledger.bufDropPend := by
  have hskip : sec ∉ s.ledger.skipped := by
    simp only [ldgRoom, Bool.and_eq_true, Bool.not_eq_true', List.contains_eq_mem, decide_eq_false_iff_not] at hroom
    exact hroom.1.1
  rcases ldgPut_cases rs hhead with heq | ⟨h8, nxt, hnxt, heq⟩
  · rw [heq]
    exact ⟨mapGet_mapSet_same .., rfl, rfl, rfl⟩
  · rw [heq]
    refine ⟨?_, rfl, rfl, rfl⟩
    show mapGet [] (mapSet [] (mapSet [] s.ledger.sectors sec (ldgSector s sec ++ rs)) nxt []) sec = _
    rw [mapGet_mapSet_other, mapGet_mapSet_same]
    exact (mem_ldgLastOrder_drop (s := putInto s sec (ldgSector s sec ++ rs)) ⟨h8, hsec⟩ (if_neg (Nat.not_lt.2 h8)) hskip hnxt).symm

/-- A page programmed at the target sector. -/
theorem ldgProgram_spec {sec : Nat} (hclear : s.ledger.clearing = []) (herase : s.ledger.erasing = none) (htarget : ldgTarget s = some sec) (hhead : ldgSector s sec ≠ [])
    (hbuf : s.ledger.buffer ≠ []) {k : Nat} (hk : min (min 8 s.ledger.buffer.length) (8 - max 1 (ldgSector s sec).length % 8) = k) :
    (s.ledger.lostPend = 0 → s.ledger.bufDropPend = 0 →
      mapGet [] (ldgProgram s 8 true).ledger.sectors sec = ldgSector s sec ++ (s.ledger.buffer.take k).map (·.2) ∧
      (ldgProgram s 8 true).ledger.buffer = s.ledger.buffer.drop k) ∧
    (ldgProgram s 8 false).ledger.buffer = s.ledger.buffer ∧ sec ∈ (ldgProgram s 8 false).ledger.skipped ∧
      mapGet [] (ldgProgram s 8 false).ledger.sectors sec = ldgSector s sec := by
  obtain ⟨hsec, hroom⟩ := ldgTarget_spec htarget
  obtain ⟨hsector, hbuffer, hlost, hdrop⟩ := ldgPut_spec ((s.ledger.buffer.take k).map (·.2)) hsec hroom hhead
  have hrun (ok : Bool) : ¬ (s.ledger.clearing ≠ [] ∨ s.ledger.buffer = []) ∧ ¬ (s.ledger.erasing ≠ none ∧ s.ledger.suspended = false ∧ s.ledger.buffer.length < 96) := by
    simp [hclear, herase, hbuf]
  refine ⟨fun h0 hb => ?_, ?_⟩
  · unfold ldgProgram
    dsimp only
    rw [if_neg (hrun true).1, if_neg (hrun true).2, htarget]
    dsimp only
    rw [if_pos rfl, hk, ldgCounts_ledger, ldgLost_idle]
    · exact ⟨hsector, congrArg (List.drop k) hbuffer⟩
    · exact hlost.trans h0
    · exact .inl (hdrop.trans hb)
  · unfold ldgProgram
    dsimp only
    rw [if_neg (hrun false).1, if_neg (hrun false).2, htarget]
    dsimp only
    rw [if_neg Bool.false_ne_true]
    obtain ⟨h1, h2, h3, -⟩ := stores_parts (record_stores (s := s.modLedger fun u => { u with skipped := u.skipped ++ [sec] }) 0xF005 uFcc
      [(2, sec), (4, 32 * (ldgSector s sec).length)])
    rw [h1, h2, h3]
    exact ⟨rfl, List.mem_append_right _ (List.mem_singleton.2 rfl), rfl⟩

theorem programs_page {sec : Nat} (hclear : s.ledger.clearing = []) (herase : s.ledger.erasing = none) (htarget : ldgTarget s = some sec) (hhead : ldgSector s sec ≠ []) :
    (8 ≤ s.ledger.buffer.length → s.ledger.lostPend = 0 → s.ledger.bufDropPend = 0 → Does (.flashProgram true) s fun t =>
      (mapGet [] t.ledger.sectors sec).take (ldgSector s sec).length = ldgSector s sec ∧
        (mapGet [] t.ledger.sectors sec).drop (ldgSector s sec).length = (s.ledger.buffer.take (8 - max 1 (ldgSector s sec).length % 8)).map (·.2) ∧
        t.ledger.buffer = s.ledger.buffer.drop (8 - max 1 (ldgSector s sec).length % 8)) ∧
    (8 ≤ s.ledger.buffer.length → Does (.flashProgram false) s fun t => t.ledger.buffer = s.ledger.buffer ∧ sec ∈ t.ledger.skipped ∧
      mapGet [] t.ledger.sectors sec = ldgSector s sec) ∧
    (s.ledger.buffer ≠ [] → ldgOldest s + (1000000 * s.rd R.LDG_FLUSH_MS 0 : Nat) ≤ s.now → s.ledger.buffer.length ≤ 8 - max 1 (ldgSector s sec).length % 8 →
      s.ledger.lostPend = 0 → s.ledger.bufDropPend = 0 → Does (.ldgFlushExpiry true) s fun t => t.ledger.buffer = [] ∧
        (mapGet [] t.ledger.sectors sec).drop (ldgSector s sec).length = s.ledger.buffer.map (·.2)) := by
  have hne (h8 : 8 ≤ s.ledger.buffer.length) : s.ledger.buffer ≠ [] := by
    rintro h
    simp [h] at h8
  refine ⟨fun h8 h0 hb => ?_, fun h8 => ?_, fun hbuf hdue hfit h0 hb => ?_⟩
  · obtain ⟨hsector, hbuffer⟩ := (ldgProgram_spec hclear herase htarget hhead (hne h8) rfl).1 h0 hb
    have hk : min (min 8 s.ledger.buffer.length) (8 - max 1 (ldgSector s sec).length % 8) = 8 - max 1 (ldgSector s sec).length % 8 := by omega
    rw [hk] at hsector hbuffer
    refine ⟨_, congrArg Host.Outcome.next (if_pos (.inl h8)), ?_, ?_, hbuffer⟩
    · rw [hsector, List.take_left]
    · rw [hsector, List.drop_left]
  · exact ⟨_, congrArg Host.Outcome.next (if_pos (.inl h8)), (ldgProgram_spec hclear herase htarget hhead (hne h8) rfl).2⟩
  · obtain ⟨hsector, hbuffer⟩ := (ldgProgram_spec hclear herase htarget hhead hbuf rfl).1 h0 hb
    have hk : min (min 8 s.ledger.buffer.length) (8 - max 1 (ldgSector s sec).length % 8) = s.ledger.buffer.length := by omega
    rw [hk, List.take_length] at hsector
    rw [hk, List.drop_length] at hbuffer
    have hflush : ldgFlush 64 s true = ldgProgram s 8 true := by
      rw [ldgFlush, if_neg hbuf, ldgFlush, if_pos hbuffer]
    refine ⟨_, congrArg Host.Outcome.next ((if_neg (by omega)).trans ((if_pos rfl).trans hflush)), hbuffer, ?_⟩
    rw [hsector, List.drop_left]

/-- With no record waiting a flush does nothing. -/
theorem flushExpiry_idle (h : s.ledger.buffer = [] ∨ s.now < ldgOldest s + (1000000 * s.rd R.LDG_FLUSH_MS 0 : Nat)) (ok : Bool) :
    exec (.ldgFlushExpiry ok) s = .next s := by
  show execLdgFlushExpiry ok s = _
  unfold execLdgFlushExpiry
  by_cases hsoon : s.now < ldgOldest s + (1000000 * s.rd R.LDG_FLUSH_MS 0 : Nat)
  · rw [if_pos hsoon]
  · have hbuf : s.ledger.buffer = [] := h.resolve_right hsoon
    rw [if_neg hsoon]
    cases ok with
    | true => rw [if_pos rfl, ldgFlush, if_pos hbuf]
    | false => rw [if_neg Bool.false_ne_true, ldgProgram, if_pos (.inr hbuf)]

/-! ### Erases (R336, R337) -/

/-- The state with a sector's header alone in it. -/
def headed (s : State) (sec : Nat) : State := s.modLedger fun l => { l with sectors := mapSet [] l.sectors sec [ldgHeader s sec] }

theorem headed_sector (s : State) (sec : Nat) : mapGet [] (headed s sec).ledger.sectors sec = [ldgHeader s sec] := by
  rw [headed, State.modLedger, State.setLedger_ledger, mapGet_mapSet_same]

theorem ldgErased_spec (sec : Nat) (ok : Bool) : (ldgErased s sec ok).ledger.erasing = s.ledger.erasing ∧ (ldgErased s sec ok).ledger.clearing = s.ledger.clearing ∧
    (ok = false → sec ∈ (ldgErased s sec ok).ledger.skipped) ∧
    (ok = true → mapGet 0 (ldgErased s sec ok).ledger.erases sec = mapGet 0 s.ledger.erases sec + 1 ∧ ∃ h, mapGet [] (ldgErased s sec ok).ledger.sectors sec = [h]) := by
  cases ok with
  | true =>
    rw [ldgErased, if_pos rfl]
    dsimp only
    exact ⟨rfl, rfl, nofun, fun _ => ⟨mapGet_mapSet_same 0 s.ledger.erases sec (mapGet 0 s.ledger.erases sec + 1), _, headed_sector ..⟩⟩
  | false =>
    rw [ldgErased, if_neg Bool.false_ne_true]
    obtain ⟨-, -, h3, h4, h5, -⟩ := stores_parts (record_stores (s := s.modLedger fun l => { l with skipped := l.skipped ++ [sec] }) 0xF005 uFcc [(2, sec), (4, 0)])
    rw [h3, h4, h5]
    exact ⟨rfl, rfl, fun _ => List.mem_append_right _ (List.mem_singleton.2 rfl), nofun⟩

theorem eraseDone_last {sec : Nat} (herase : s.ledger.erasing = some sec) (hlast : s.ledger.clearing.filter (· != sec) = []) (ok : Bool) :
    Does (.flashEraseDone sec ok) s fun t => t.ledger.erasing = none ∧ t.ledger.clearing = [] ∧ (ok = false → sec ∈ t.ledger.skipped) ∧
      (ok = true → mapGet 0 t.ledger.erases sec = mapGet 0 s.ledger.erases sec + 1 ∧ ∃ h, mapGet [] t.ledger.sectors sec = [h]) := by
  obtain ⟨herasing, hclearing, hskip, hdone⟩ := ldgErased_spec (s := s.modLedger fun l =>
    { l with erasing := none, suspended := false, clearing := l.clearing.filter (· != sec) }) sec ok
  have hclear := hclearing.trans hlast
  have hexec : exec (.flashEraseDone sec ok) s = .next (ldgCounts (ldgErased (s.modLedger fun l =>
      { l with erasing := none, suspended := false, clearing := l.clearing.filter (· != sec) }) sec ok)) := by
    show execFlashEraseDone sec ok s = _
    unfold execFlashEraseDone
    rw [if_pos herase]
    dsimp only
    rw [hclear]
  exact ⟨_, hexec, herasing, hclear, hskip, hdone⟩

/-! ### Clears and overrides (R332, R337) -/

variable {who : Who}

theorem ldgClear_clears {v : Nat} {p : Path} (h : s.ledger.clearing = []) : ∃ t r, ldgClear s v p = done t ∧
    (bitOf v 0 = true → t.ledger.volFirst = [r] ∧ t.ledger.volLast = []) ∧
    (bitOf v 1 = true → t.ledger.sectors = [] ∧ t.ledger.clearing = List.range 32 ∧ t.ledger.erasing = some 0 ∧ t.ledger.buffer.map (·.2) = [r]) ∧
    t.ledger.queue = s.ledger.queue := by
  have hvol (l : LedgerUnit) (r : List Byte) : (volWrite l r).queue = l.queue := by
    unfold volWrite
    split
    · rfl
    · split <;> rfl
  have hmiss (u : State) (b : Bool) : (ldgCounts (if b then u.bumpSat R.LDG_FLASH_DROP 0 1 else u)).ledger = u.ledger := by cases b <;> rfl
  unfold ldgClear
  rw [if_neg (not_not.2 h)]
  refine ⟨_, recBytes s 0xF003 uFcc (evFields [(1, v), (4, (if bitOf v 0 then s.ledger.volFirst.length + s.ledger.volLast.length else 0) +
      (if bitOf v 1 then (s.ledger.sectors.map fun e => e.2.length - 1).foldl (· + ·) 0 + s.ledger.buffer.length else 0)), (1, pathCode p)]), rfl, ?_⟩
  dsimp only
  rw [hmiss]
  cases hper : bitOf v 1 with
  | true =>
    cases hv : bitOf v 0 with
    | true => exact ⟨fun _ => ⟨rfl, rfl⟩, fun _ => ⟨rfl, rfl, rfl, rfl⟩, rfl⟩
    | false => exact ⟨nofun, fun _ => ⟨rfl, rfl, rfl, rfl⟩, hvol ..⟩
  | false =>
    rw [if_neg Bool.false_ne_true, if_neg Bool.false_ne_true]
    cases hv : bitOf v 0 with
    | true =>
      rw [if_pos rfl, if_pos rfl]
      refine ⟨fun _ => ?_, nofun, ?_⟩
      · split <;> exact ⟨rfl, rfl⟩
      · split <;> rfl
    | false =>
      rw [if_neg Bool.false_ne_true, if_neg Bool.false_ne_true]
      refine ⟨nofun, nofun, ?_⟩
      split <;> exact hvol ..

theorem ldgOvr_spec {k v : Nat} (h : Allowed s who R.LDG_OVR k v) :
    (v = 0 → Writes who (.ldgOvr who k v) s fun t => t.rd R.LDG_OVR k = 0) ∧
    (v ≠ 0 → bits v 8 8 = 0 ∨ bits v 0 8 = 0 → TurnedAway who (.ldgOvr who k v) s rRange) ∧
    (v ≠ 0 → bits v 8 8 ≠ 0 → bits v 0 8 ≠ 0 →
      ((∃ j < 64, j ≠ k ∧ s.rd R.LDG_OVR j ≠ 0 ∧ bits (s.rd R.LDG_OVR j) 16 16 = bits v 16 16) → TurnedAway who (.ldgOvr who k v) s rState) ∧
      ((∀ j < 64, j ≠ k → s.rd R.LDG_OVR j = 0 ∨ bits (s.rd R.LDG_OVR j) 16 16 ≠ bits v 16 16) →
        Writes who (.ldgOvr who k v) s fun t => t.rd R.LDG_OVR k = v)) := by
  have hany : ((List.range 64).any fun j => j != k && s.rd R.LDG_OVR j != 0 && bits (s.rd R.LDG_OVR j) 16 16 == bits v 16 16) = true ↔
      ∃ j < 64, j ≠ k ∧ s.rd R.LDG_OVR j ≠ 0 ∧ bits (s.rd R.LDG_OVR j) 16 16 = bits v 16 16 := by
    simp [List.any_eq_true, and_assoc]
  refine ⟨fun h0 => ?_, fun h0 hbits => turnedAway_of_guard rfl h ((if_neg h0).trans (if_pos hbits)), fun h0 hrate hburst => ⟨fun hdup => ?_, fun hfree => ?_⟩⟩
  · refine writes_of_guard rfl h (if_pos h0) ?_
    rw [rd_emit, rd_wr_same, Nat.zero_mod]
  · exact turnedAway_of_guard rfl h ((if_neg h0).trans ((if_neg (by tauto)).trans (if_pos (hany.2 hdup))))
  · have hnot := mt hany.1 (by
      rintro ⟨j, hj, hne, hset, heq⟩
      rcases hfree j hj hne with h1 | h1
      · exact hset h1
      · exact h1 heq)
    refine writes_of_guard rfl h ((if_neg h0).trans ((if_neg (by tauto)).trans (if_neg hnot))) ?_
    rw [rd_emit, rd_wr_same]
    exact Nat.mod_eq_of_lt h.lt

end

/-- Settles O51: what the Ledger takes, stores, programs, erases, clears and overrides. -/
theorem ledgerStores : Obligations.LedgerStores := by
  intro s who
  refine ⟨fun e hcode hcount => ⟨fun hin hroom => ?_, fun hin hfull => ?_, fun hpast => ?_⟩,
    fun hlost hdrop => ⟨fun hq => ⟨_, ?_, rfl⟩, fun r rest hq => ⟨?_, fun hroom => ?_, fun hfull => ?_⟩⟩,
    fun h8 hsus ok => ⟨_, congrArg Host.Outcome.next (if_neg (by rw [hsus]; simp; omega)), rfl⟩, fun h ok => ⟨_, flushExpiry_idle h ok, rfl⟩,
    fun sec hclear herase htarget hhead => programs_page hclear herase htarget hhead,
    fun sec ok => ⟨fun hnot => ⟨_, if_neg hnot, rfl⟩, fun herase hlast => eraseDone_last herase hlast ok⟩,
    fun v h => ⟨fun hbusy => turnedAway_of_guard rfl h (if_pos hbusy), fun hclear => ?_⟩, fun k v h => ldgOvr_spec h⟩
  · refine ⟨_, congrArg Host.Outcome.next ((ldgPresent_eq _ hcode hcount).1 hin), (ldgEnqueue_room hroom).1, (ldgEnqueue_room hroom).2, ?_⟩
    rw [ldgBucket_get]
  · exact ⟨_, congrArg Host.Outcome.next ((ldgPresent_eq _ hcode hcount).1 hin), ldgEnqueue_full hfull⟩
  · refine ⟨_, congrArg Host.Outcome.next ((ldgPresent_eq _ hcode hcount).2 hpast), rfl, ?_⟩
    rw [Counted, ldgBucket, rd_modLedger, State.bump, rd_wr_ne _ _ (by decide), rd_bumpSat_same]
  · show execLedgerQueueDrain s = _
    rw [execLedgerQueueDrain, hq]
    exact congrArg Host.Outcome.next (ldgLost_idle hlost (.inl hdrop))
  · obtain ⟨h1, h2, h3, h4, -⟩ := drainedOne_spec (s := s) r rest
    exact ⟨_, queueDrain_stored hq hlost hdrop, h1, h2, h3, h4⟩
  · obtain ⟨-, -, -, -, -, h6, -⟩ := drainedOne_spec (s := s) r rest
    exact ⟨_, queueDrain_stored hq hlost hdrop, (h6 hroom).1⟩
  · obtain ⟨-, -, -, -, -, -, h7⟩ := drainedOne_spec (s := s) r rest
    exact ⟨_, queueDrain_stored hq hlost hdrop, (h7 hfull).1, rd_ldgCounts_drop.trans (h7 hfull).2⟩
  · obtain ⟨t, r, heq, hvol, hper, hqueue⟩ := ldgClear_clears (v := v) (p := who.path) hclear
    exact writes_of_guard rfl h heq ⟨r, hvol, hper, hqueue⟩

end Sys2Proof.Machine
end

section
/-! Disabling and resetting queues and functions; the PCIe link, AER, invalidations and PERST# (R176, R179, R180, R192 to R194, R197,
R297, R298). -/

namespace Sys2Proof.Machine

open Sys2Proof

/-! ### What leaves every queue's context and the assignment of queues (R180, R181) -/

section
variable {s t u : State}

/-- Queue contexts, MSI-X tables and the assignment of queues stay. -/
structure CtxKept (s t : State) : Prop where
  queues : t.host.queues = s.host.queues
  table  : t.host.msixTable = s.host.msixTable
  qbase  : ∀ f, t.qbase f = s.qbase f
  qcount : ∀ f, t.qcount f = s.qcount f

theorem CtxKept.refl (s : State) : CtxKept s s := ⟨rfl, rfl, fun _ => rfl, fun _ => rfl⟩

theorem CtxKept.trans (h : CtxKept s t) (h' : CtxKept t u) : CtxKept s u :=
  ⟨h'.queues.trans h.queues, h'.table.trans h.table, fun f => (h'.qbase f).trans (h.qbase f), fun f => (h'.qcount f).trans (h.qcount f)⟩

theorem CtxKept.of_keeps {T : List Nat} (h : Keeps T s t) (h12 : T.contains 12 = false) (hfn : (T.contains 0x5001 || T.contains 31) = false) : CtxKept s t :=
  ⟨by rw [h.host_eq h12], by rw [h.host_eq h12], fun f => h.rd R.HOST_FN_QBASE f hfn, fun f => h.rd R.HOST_FN_QCOUNT f hfn⟩

theorem CtxKept.queue (h : CtxKept s t) (g : Nat) : t.queue g = s.queue g := by rw [State.queue, State.queue, h.queues]

theorem CtxKept.each {α : Type} {l : List α} {f : State → α → State} (hf : ∀ v x, CtxKept v (f v x)) : CtxKept s (s.each l f) := by
  induction l generalizing s with
  | nil => exact .refl s
  | cons x rest ih => exact (hf s x).trans ih

theorem modMover_ctx (m : Nat) (f : Mover → Mover) : CtxKept s (modMover s m f) := by
  unfold modMover
  split <;> exact ⟨rfl, rfl, fun _ => rfl, fun _ => rfl⟩

theorem moverFail_ctx (m status reason result : Nat) : CtxKept s (moverFail s m status reason result) :=
  (CtxKept.of_keeps (endLoad_keeps Sub.rfl (Keeps.refl _ s)) rfl rfl).trans (modMover_ctx ..)

theorem modRst_ctx (f : ResetUnit → ResetUnit) : CtxKept s (s.modRst f) := ⟨rfl, rfl, fun _ => rfl, fun _ => rfl⟩

theorem failRid_ctx (rid status reason : Nat) : CtxKept s (failRid s rid status reason) := by
  unfold failRid
  split
  · exact (modRst_ctx _).trans (moverFail_ctx ..)
  · exact modRst_ctx _

theorem endRid_ctx (rid : Nat) : CtxKept s (endRid s rid) := by
  unfold endRid
  split
  · exact .refl s
  · dsimp only
    split
    · exact modRst_ctx _
    · exact (modRst_ctx _).trans (modMover_ctx ..)

theorem injectDenied_ctx (i : Inject) : CtxKept s (injectDenied s i) := by
  unfold injectDenied
  dsimp only
  have hrec : CtxKept s (s.record 0x5020 (targetUnit i.offset) [(2, uInject), (8, i.offset)]) := .of_keeps (keeps_record ..) rfl rfl
  have hseal (c : Prop) [Decidable c] (v : State) : CtxKept v (if c then doNotSeal v i.spart vPlanErr else v) := by
    split
    · exact .of_keeps (doNotSeal_keeps Sub.rfl (Keeps.refl _ v)) rfl rfl
    · exact .refl v
  split
  · exact (hrec.trans (hseal ..)).trans (moverFail_ctx ..)
  · exact hrec.trans (hseal ..)

theorem noteOut_ctx (i : Inject) (p : Packet) : CtxKept s (noteOut s i p) := by
  unfold noteOut
  split
  · exact modRst_ctx _
  · exact .refl s

/-- The paths of requests keep every context. -/
def ctxRel : ReqRel where
  rel := CtxKept
  ok := fun _ => True
  refl := .refl
  trans := .trans
  keeps := fun h h12 _ hfn _ => .of_keeps h h12 hfn
  out := fun _ _ hh hod _ => ⟨by rw [hh], by rw [hh], fun f => congrArg (fun m => mapGet (regDflt R.HOST_FN_QBASE f) m (odKey R.HOST_FN_QBASE f)) hod,
    fun f => congrArg (fun m => mapGet (regDflt R.HOST_FN_QCOUNT f) m (odKey R.HOST_FN_QCOUNT f)) hod⟩
  retarget := fun _ _ _ _ => modRst_ctx _
  failRid := fun _ => failRid_ctx
  endRid := fun _ => endRid_ctx
  note := fun _ i p _ => noteOut_ctx i p
  denied := fun _ i _ => injectDenied_ctx i

theorem abandon_ctx (m : Nat) : CtxKept s (abandon s m) := by
  unfold abandon
  have hreads (v : State) : CtxKept v (serveReads v) := (serveReads_along (C := ctxRel) fun _ _ => trivial).holds
  exact CtxKept.trans ((modRst_ctx _).trans ((CtxKept.of_keeps (modRouter_keeps Sub.rfl (Keeps.refl _ _)) rfl rfl).trans
    (CtxKept.of_keeps (modMsys_keeps Sub.rfl (Keeps.refl _ _)) rfl rfl))) (hreads _)

theorem runEnd_ctx (p state status reason : Nat) : CtxKept s (runEnd s p state status reason) := by
  unfold runEnd
  dsimp only
  have hmain (f : Part → Part) : CtxKept s (((stopBlocks s p).wr R.CMP_PLAN_STATE p state).modPart p f) :=
    .of_keeps (T := [5, 6, 0x3000]) (modPart_keeps (.of rfl Sub.rfl) (wr_keeps (.of rfl Sub.rfl) (stopBlocks_keeps (.of rfl Sub.rfl) (Keeps.refl _ s)))) rfl rfl
  split
  · exact (hmain _).trans (modMover_ctx ..)
  · exact hmain _

theorem runStop_ctx (p status : Nat) : CtxKept s (runStop s p status) := by
  unfold runStop
  dsimp only
  split
  · exact .refl s
  · split
    · exact .of_keeps (modPart_keeps Sub.rfl (Keeps.refl _ s)) rfl rfl
    · unfold runWithdraw
      dsimp only
      refine CtxKept.trans ?_ (runEnd_ctx ..)
      split
      · exact .of_keeps (withdrawUp_keeps (.of rfl Sub.rfl) (modPart_keeps (T := [6, 9, 16, 20, 0x4110, 0x4140, 0x7002]) (.of rfl Sub.rfl) (Keeps.refl _ s))) rfl rfl
      · exact .refl s

theorem disableRun_ctx (m : Nat) : CtxKept s (disableRun s m) := by
  unfold disableRun
  dsimp only
  split
  · exact .refl s
  · split
    · exact runStop_ctx ..
    · exact modMover_ctx ..

end

/-! ### What only settles queues (R192 to R194) -/

section
variable {bad : QState → Prop} {s t u : State}

/-- No queue comes into a state of a kind that it was not in, contexts and assignments stay, and a vector's word stays or is that of a
masked vector. -/
structure Settles (bad : QState → Prop) (s t : State) : Prop where
  state  : ∀ g, bad (t.queue g).state → bad (s.queue g).state
  keys   : ∀ g, (mapFind s.host.queues g).isSome = true → (mapFind t.host.queues g).isSome = true
  qbase  : ∀ f, t.qbase f = s.qbase f
  qcount : ∀ f, t.qcount f = s.qcount f
  words  : ∀ f v, t.msixWord f v = s.msixWord f v ∨ t.msixWord f v = 2 ^ 96

theorem Settles.of_ctx (h : CtxKept s t) : Settles bad s t :=
  ⟨fun g => by rw [h.queue g]; exact id, fun g => by rw [h.queues]; exact id, h.qbase, h.qcount, fun f v => .inl (by rw [State.msixWord, State.msixWord, h.table])⟩

theorem Settles.refl (bad : QState → Prop) (s : State) : Settles bad s s := .of_ctx (.refl s)

theorem Settles.trans (h : Settles bad s t) (h' : Settles bad t u) : Settles bad s u where
  state g hg := h.state g (h'.state g hg)
  keys g hg := h'.keys g (h.keys g hg)
  qbase f := (h'.qbase f).trans (h.qbase f)
  qcount f := (h'.qcount f).trans (h.qcount f)
  words f v := by
    rcases h'.words f v with h1 | h1
    · rw [h1]
      exact h.words f v
    · exact .inr h1

theorem Settles.each {α : Type} {l : List α} {f : State → α → State} (hf : ∀ v x, Settles bad v (f v x)) : Settles bad s (s.each l f) := by
  induction l generalizing s with
  | nil => exact .refl bad s
  | cons x rest ih => exact (hf s x).trans ih

theorem modQueue_settles {g : Nat} {f : QCtx → QCtx} (h : bad (f (s.queue g)).state → bad (s.queue g).state) : Settles bad s (modQueue s g f) where
  state k hk := by
    by_cases hkg : k = g
    · subst hkg
      rw [queue_modQueue_same] at hk
      exact h hk
    · rwa [queue_modQueue_other _ _ hkg] at hk
  keys k hk := by
    by_cases hkg : k = g
    · subst hkg
      exact congrArg Option.isSome (mapFind_mapPut_same ..)
    · exact (congrArg Option.isSome (mapFind_mapPut_other _ _ hkg)).trans hk
  qbase _ := rfl
  qcount _ := rfl
  words _ _ := .inl rfl

theorem msix_ctx (f v : Nat) : CtxKept s (msix s f v) := by
  unfold msix
  split <;> exact ⟨rfl, rfl, fun _ => rfl, fun _ => rfl⟩

theorem record_ctx (code source : Nat) (fs : List (Nat × Nat)) : CtxKept s (s.record code source fs) := .of_keeps (keeps_record ..) rfl rfl

theorem signal_settles (f g : Nat) : Settles bad s (signal s f g) := by
  unfold signal
  dsimp only
  split_ifs
  · exact .of_ctx (msix_ctx ..)
  · exact (modQueue_settles fun h => h).trans (.of_ctx (msix_ctx ..))
  · exact modQueue_settles fun h => h

theorem queueDone_settles (hbad : ¬ bad .disabled) (f g mode : Nat) : Settles bad s (queueDone s f g mode) :=
  (modQueue_settles fun h => absurd h hbad).trans (.of_ctx ((record_ctx ..).trans (msix_ctx ..)))

theorem drained_settles (hbad : ¬ bad .disabled) (f g : Nat) : Settles bad s (drained s f g) := by
  unfold drained
  split
  · exact queueDone_settles hbad ..
  · exact .refl bad s

/-- A command's completion settles its queue at most. -/
theorem complete_settles (hbad : ¬ bad .disabled) (m : Nat) : Settles bad s (complete s m) := by
  have hcount (v : State) (f : Nat) : CtxKept v (v.bumpSat R.HOST_FN_CMDS f 1) :=
    ⟨rfl, rfl, fun _ => rd_bumpSat_ne (by decide), fun _ => rd_bumpSat_ne (by decide)⟩
  have hinvs (v : State) : CtxKept v (invsDone v) := ⟨rfl, rfl, fun _ => rfl, fun _ => rfl⟩
  have hsig (v : State) (c : Prop) [Decidable c] (f g : Nat) (h : Settles bad s v) : Settles bad s (if c then signal v f g else v) := by
    split
    · exact h.trans (signal_settles ..)
    · exact h
  have hhost (v : State) (f : HostIf → HostIf) (hf : ∀ h, (f h).queues = h.queues ∧ (f h).msixTable = h.msixTable) (h : Settles bad s v) :
      Settles bad s (v.modHost f) := h.trans (.of_ctx ⟨(hf _).1, (hf _).2, fun _ => rfl, fun _ => rfl⟩)
  unfold complete
  split
  · exact .refl bad s
  · split
    · exact .refl bad s
    · dsimp only
      refine Settles.trans ?_ (.of_ctx (hinvs _))
      refine Settles.trans ?_ (drained_settles hbad ..)
      refine hsig _ _ _ _ ?_
      refine Settles.trans ?_ (.of_ctx (hcount ..))
      refine Settles.trans ?_ (modQueue_settles fun h => h)
      refine hhost _ _ (fun _ => ⟨rfl, rfl⟩) ?_
      split
      · exact .of_ctx (.of_keeps (recordL_keeps (T := [16, 0x7002]) Sub.rfl (Keeps.refl _ s)) rfl rfl)
      · exact .refl bad s

theorem forceCmd_settles (hbad : ¬ bad .disabled) (m : Nat) : Settles bad s (forceCmd s m) := by
  unfold forceCmd
  dsimp only
  refine Settles.trans (.of_ctx ?_) (complete_settles hbad m)
  split
  · exact .refl s
  · split
    · split
      · exact (modMover_ctx ..).trans (runStop_ctx ..)
      · exact modMover_ctx ..
    · exact (abandon_ctx m).trans (moverFail_ctx ..)

/-! ### Queues disabled (R192, R193) -/

/-- A queue in neither of the states in which it works. -/
def Works (q : QState) : Prop := q = .enabled ∨ q = .draining

theorem forcedDisable_settles (f g : Nat) : Settles Works s (forcedDisable s f g) := by
  unfold forcedDisable
  dsimp only
  split
  · refine Settles.trans (Settles.trans (Settles.trans (modQueue_settles fun h => ?_) (.each fun _ _ => forceCmd_settles (by simp [Works]) _)) (modQueue_settles fun h => ?_))
      (queueDone_settles (by simp [Works]) ..)
    · simp [Works] at h
    · simp [Works, zeroCtx] at h
  · exact .refl _ s

theorem normalDisable_settles (f g : Nat) : Settles (· = .enabled) s (normalDisable s f g) := by
  unfold normalDisable
  split
  · exact ((modQueue_settles fun h => absurd h (by simp)).trans (.of_ctx (.each fun _ _ => disableRun_ctx _))).trans (drained_settles (by simp) ..)
  · exact .refl _ s

theorem queue_queueDone (f g mode : Nat) : (queueDone s f g mode).queue g = { s.queue g with state := .disabled, disabledCmds := 0 } := by
  unfold queueDone
  dsimp only
  rw [((record_ctx ..).trans (msix_ctx ..)).queue, queue_modQueue_same]

theorem queue_forcedDisable {f g : Nat} (h : Works (s.queue g).state) : ((forcedDisable s f g).queue g).state = .disabled ∧
    ((forcedDisable s f g).queue g).sqBase = 0 ∧ ((forcedDisable s f g).queue g).inflight = 0 := by
  unfold forcedDisable
  dsimp only
  have hworks : (s.queue g).state = .enabled ∨ (s.queue g).state = .draining := h
  rw [if_pos hworks, queue_queueDone, queue_modQueue_same]
  exact ⟨rfl, rfl, rfl⟩

/-- A queue's state while it drains: Draining while a command of it is under way. -/
theorem queue_normalDisable {f g : Nat} (h : (s.queue g).state = .enabled) :
    ((s.queue g).inflight ≠ 0 → ((normalDisable s f g).queue g).state = .draining) ∧
    ((s.queue g).inflight = 0 → ((normalDisable s f g).queue g).state = .disabled ∧ ((normalDisable s f g).queue g).sqBase = (s.queue g).sqBase) := by
  have hq : (((modQueue s g fun q => { q with state := .draining }).each (queueCmds s g) disableRun).queue g) = { s.queue g with state := .draining } :=
    ((CtxKept.each fun _ _ => disableRun_ctx _).queue g).trans (queue_modQueue_same ..)
  unfold normalDisable
  rw [if_pos h]
  unfold drained
  rw [hq]
  refine ⟨fun hbusy => ?_, fun hidle => ?_⟩
  · rw [if_neg (fun hh => hbusy hh.2), hq]
  · rw [if_pos ⟨rfl, hidle⟩, queue_queueDone, hq]
    exact ⟨rfl, rfl⟩

theorem not_works_forcedDisable (f g : Nat) : ¬ Works ((forcedDisable s f g).queue g).state := by
  by_cases h : Works (s.queue g).state
  · rw [(queue_forcedDisable h).1]
    simp [Works]
  · exact fun h' => h ((forcedDisable_settles f g).state g h')

theorem not_enabled_normalDisable (f g : Nat) : ((normalDisable s f g).queue g).state ≠ .enabled := by
  by_cases h : (s.queue g).state = .enabled
  · by_cases hidle : (s.queue g).inflight = 0
    · rw [((queue_normalDisable h).2 hidle).1]
      decide
    · rw [(queue_normalDisable h).1 hidle]
      decide
  · exact fun h' => h ((normalDisable_settles f g).state g h')

/-- What is done to each of a list of queues is done to every one of them. -/
theorem each_settled {f : State → Nat → State} (hf : ∀ v x, Settles bad v (f v x)) (hdone : ∀ v x, ¬ bad ((f v x).queue x).state) {l : List Nat} {g : Nat}
    (hg : g ∈ l) : ¬ bad ((s.each l f).queue g).state := by
  induction l generalizing s with
  | nil => cases hg
  | cons x rest ih =>
    rcases List.mem_cons.1 hg with rfl | hrest
    · exact fun h => hdone s g ((Settles.each hf).state g h)
    · exact ih hrest

theorem disableAll_normal (f : Nat) {g : Nat} (hg : g ∈ funcQueues s f) : ((disableAll s f false).queue g).state ≠ .enabled :=
  each_settled (bad := (· = .enabled)) (f := fun t g => normalDisable t f g) (fun _ _ => normalDisable_settles ..) (fun _ _ => not_enabled_normalDisable _ _) hg

theorem disableAll_forced (f : Nat) {g : Nat} (hg : g ∈ funcQueues s f) : ¬ Works ((disableAll s f true).queue g).state :=
  each_settled (f := fun t g => forcedDisable t f g) (fun _ _ => forcedDisable_settles ..) (fun _ _ => not_works_forcedDisable _ _) hg

theorem disableAll_settles (f : Nat) : Settles Works s (disableAll s f true) := .each fun _ _ => forcedDisable_settles ..

/-! ### Functions reset (R194) -/

theorem mem_funcQueues {f g : Nat} : g ∈ funcQueues s f ↔ (mapFind s.host.queues g).isSome = true ∧ s.qbase f ≤ g ∧ g < s.qbase f + s.qcount f := by
  have hkeys (l : Map QCtx) : g ∈ l.map (·.1) ↔ (mapFind l g).isSome = true := by
    induction l with
    | nil => simp [mapFind]
    | cons e rest ih =>
      obtain ⟨k, q⟩ := e
      simp only [List.map_cons, List.mem_cons, mapFind]
      by_cases hk : k = g
      · simp [hk]
      · simp [hk, ih, Ne.symm hk]
  simp [funcQueues, hkeys]

theorem Settles.funcQueues (h : Settles bad s t) {f g : Nat} (hg : g ∈ funcQueues s f) : g ∈ funcQueues t f := by
  obtain ⟨hkey, hlo, hhi⟩ := mem_funcQueues.1 hg
  refine mem_funcQueues.2 ⟨h.keys g hkey, ?_, ?_⟩
  · rwa [h.qbase]
  · rwa [h.qbase, h.qcount]

/-- The tables of a function gone with its reset. -/
def tablesGone (s : State) (f : Nat) : State := s.modHost fun h =>
  { h with
    msixTable := h.msixTable.filter fun e => e.1 / 2048 != f, pba := h.pba.filter fun e => e.1 != f,
    atsOn := h.atsOn.filter (· != f), atsCache := h.atsCache.filter fun e => e.1 != f, d3hot := h.d3hot.filter (· != f)
    mboxes := h.mboxes.map fun e =>
      if e.1 / 16 = f then (e.1, if e.2.state = 1 then { e.2 with toIdle := true } else { e.2 with state := 0 }) else e }

theorem msixWord_tablesGone (f k v : Nat) :
    (tablesGone s f).msixWord k v = if (k * 2048 + v) / 2048 ≠ f then s.msixWord k v else 2 ^ 96 := by
  show mapGet (2 ^ 96) (s.host.msixTable.filter fun e => e.1 / 2048 != f) (k * 2048 + v) = _
  rw [mapGet_eq_find]
  by_cases h : (k * 2048 + v) / 2048 = f
  · rw [if_neg (not_not.2 h)]
    cases hfind : mapFind (s.host.msixTable.filter fun e => e.1 / 2048 != f) (k * 2048 + v) with
    | none => rfl
    | some w =>
      have hkept := (List.mem_filter.1 (mapFind_mem hfind)).2
      simp [h] at hkept
  · rw [if_pos h, mapFind_filter _ _ _ fun _ => by simp [h], State.msixWord, mapGet_eq_find]

theorem tablesGone_settles (f : Nat) : Settles bad s (tablesGone s f) where
  state _ h := h
  keys _ h := h
  qbase _ := rfl
  qcount _ := rfl
  words k v := by
    rw [msixWord_tablesGone]
    split
    · exact .inl rfl
    · exact .inr rfl

theorem resetOne_after (cause f : Nat) : CtxKept (tablesGone (disableAll s f true) f) (resetOne s cause f) :=
  (CtxKept.each fun _ _ => runStop_ctx ..).trans ((record_ctx ..).trans (msix_ctx ..))

theorem resetOne_settles (cause f : Nat) : Settles Works s (resetOne s cause f) :=
  ((disableAll_settles f).trans (tablesGone_settles f)).trans (.of_ctx (resetOne_after cause f))

/-- What a function's reset leaves: none of its queues works, and its vectors are masked. -/
structure FuncGone (s : State) (f : Nat) (t : State) : Prop where
  queues : ∀ g ∈ funcQueues s f, ¬ Works (t.queue g).state
  words  : ∀ v < 2048, t.msixWord f v = 2 ^ 96

theorem resetOne_gone (cause f : Nat) : FuncGone s f (resetOne s cause f) where
  queues g hg := by
    rw [(resetOne_after cause f).queue]
    exact disableAll_forced f hg
  words v hv := by
    rw [State.msixWord, (resetOne_after cause f).table, ← State.msixWord, msixWord_tablesGone, if_neg (by omega)]

theorem FuncGone.settles {f : Nat} (h : FuncGone s f t) (h' : Settles Works t u) : FuncGone s f u where
  queues g hg hw := h.queues g hg (h'.state g hw)
  words v hv := by
    rcases h'.words f v with h1 | h1
    · rw [h1, h.words v hv]
    · exact h1

theorem each_reset (cause : Nat) {l : List Nat} {f : Nat} (hf : f ∈ l) : FuncGone s f (s.each l fun t g => resetOne t cause g) := by
  induction l generalizing s with
  | nil => cases hf
  | cons x rest ih =>
    by_cases hx : f = x
    · subst hx
      exact (resetOne_gone cause f).settles (.each fun _ _ => resetOne_settles ..)
    · obtain ⟨hqueues, hwords⟩ := ih (s := resetOne s cause x) ((List.mem_cons.1 hf).resolve_left hx)
      exact ⟨fun g hg => hqueues g ((resetOne_settles cause x).funcQueues hg), hwords⟩

theorem present_zero : s.present 0 = true := by simp [State.present]

theorem mem_allFuncs {f : Nat} (h : s.present f = true) : f ∈ allFuncs s := by
  refine List.mem_filter.2 ⟨List.mem_range.2 ?_, h⟩
  rw [State.present, Bool.and_eq_true, decide_eq_true_eq, decide_eq_true_eq] at h
  exact h.2

/-- A reset of a function, or of the physical one, resets the function. -/
theorem funcReset_gone (cause : Nat) {f g : Nat} (h : s.present f = true) (hg : g = f ∨ g = 0) : FuncGone s f (funcReset s cause g) := by
  have hp : s.present g = true := by
    rcases hg with rfl | rfl
    · exact h
    · exact present_zero
  rw [funcReset, if_neg (by simp [hp])]
  refine each_reset cause ?_
  split
  · exact mem_allFuncs h
  · rcases hg with rfl | h0
    · exact List.mem_singleton.2 rfl
    · exact absurd h0 ‹_›

/-! ### One value written to an entry of each of a list of instances -/

/-- The state of a function after another's was written (places of a table count modulo 65536). -/
theorem fnState_wr (i j : Nat) {v : Nat} (hv : v < 256) : (s.wr R.HOST_FN_STATE i v).rd R.HOST_FN_STATE j = v ∨
    (odKey R.HOST_FN_STATE j ≠ odKey R.HOST_FN_STATE i ∧ (s.wr R.HOST_FN_STATE i v).rd R.HOST_FN_STATE j = s.rd R.HOST_FN_STATE j) := by
  by_cases h : odKey R.HOST_FN_STATE j = odKey R.HOST_FN_STATE i
  · left
    have hd (k : Nat) : regDflt R.HOST_FN_STATE k = 0 := by
      unfold regDflt
      split <;> rfl
    rw [State.rd, State.wr, h, hd, hd]
    exact (mapGet_mapSet_same ..).trans (Nat.mod_eq_of_lt hv)
  · exact .inr ⟨h, rd_wr_other s v h⟩

theorem fnState_each {v : Nat} (hv : v < 256) {l : List Nat} {f : Nat} (hf : f ∈ l ∨ s.rd R.HOST_FN_STATE f = v) :
    (s.each l fun t k => t.wr R.HOST_FN_STATE k v).rd R.HOST_FN_STATE f = v := by
  induction l generalizing s with
  | nil => exact hf.resolve_left (by simp)
  | cons x rest ih =>
    refine ih (s := s.wr R.HOST_FN_STATE x v) ?_
    rcases fnState_wr (s := s) x f hv with h | ⟨hne, h⟩
    · exact .inr h
    · rcases hf with hmem | hrd
      · exact .inl ((List.mem_cons.1 hmem).resolve_left fun e => hne (by rw [e]))
      · exact .inr (h.trans hrd)

theorem each_fnState_ctx (v : Nat) (l : List Nat) : CtxKept s (s.each l fun t k => t.wr R.HOST_FN_STATE k v) :=
  .each fun _ _ => ⟨rfl, rfl, fun _ => rd_wr_ne _ _ (by decide), fun _ => rd_wr_ne _ _ (by decide)⟩

theorem each_fnState_numVf (v : Nat) (l : List Nat) : (s.each l fun t k => t.wr R.HOST_FN_STATE k v).rd R.HOST_NUM_VF 0 = s.rd R.HOST_NUM_VF 0 := by
  induction l generalizing s with
  | nil => rfl
  | cons x rest ih => exact (ih (s := s.wr R.HOST_FN_STATE x v)).trans (rd_wr_ne _ _ (by decide))

theorem mem_virtuals {f n : Nat} (h0 : 1 ≤ f) (hn : f ≤ n) : f ∈ (List.range n).map (· + 1) :=
  List.mem_map.2 ⟨f - 1, List.mem_range.2 (by omega), by omega⟩

/-! ### The assignment of queues (R180) -/

@[simp] theorem rd_modHost (f : HostIf → HostIf) (r : Reg) (i : Nat) : (s.modHost f).rd r i = s.rd r i := rfl

theorem assign_done {f base count : Nat} (h : assignOk s f base count = true) : ∃ t, assign s f base count = done t ∧ t.qbase f = base ∧ t.qcount f = count := by
  refine ⟨_, if_pos h, ?_, ?_⟩
  · have hb : base < 2 ^ 32 := by
      simp only [assignOk, Bool.and_eq_true, decide_eq_true_eq] at h
      omega
    rw [State.qbase, qFree, rd_wr_ne _ _ (by decide), rd_modHost, rd_wr_ne _ _ (by decide), rd_wr_same]
    exact Nat.mod_eq_of_lt hb
  · have hc : count < 2 ^ 16 := by
      simp only [assignOk, Bool.and_eq_true, decide_eq_true_eq] at h
      obtain ⟨⟨⟨hcount, -⟩, -⟩, -⟩ := h
      split at hcount <;> omega
    rw [State.qcount, qFree, rd_wr_ne _ _ (by decide), rd_modHost, rd_wr_same]
    exact Nat.mod_eq_of_lt hc

theorem assign_denied {f base count : Nat} (h : assignOk s f base count = false) : assign s f base count = (s, rState) := if_neg (by simp [h])

/-! ### PERST# (R297, R298) -/

theorem unitUp_perst (h : s.host.perst = true) : s.unitUp uEndpoint = false := by
  have hmain : onMain uEndpoint = true := by decide
  have hup : s.broughtUp uEndpoint = false := by
    show (_ && !s.host.perst) = false
    rw [h, Bool.not_true, Bool.and_false]
  rw [State.unitUp, hmain, hup, Bool.not_true, Bool.false_or, Bool.and_false, Bool.false_and]

theorem perstLow_perst : (perstLow s).host.perst = true := by
  unfold perstLow
  dsimp only
  split
  · assumption
  · split <;> rfl

theorem domExit_endpoint_perst : (domExit s uEndpoint none).host.perst = s.host.perst := by
  have hrec (v : State) (code source : Nat) (fs : List (Nat × Nat)) : (v.record code source fs).host = v.host := record_host ..
  unfold domExit
  dsimp only
  split
  · rfl
  · split
    · split
      · rw [hrec]
        rfl
      · rfl
    · show (if _ then _ else _ : State).host.perst = _
      split <;> rfl

end

section
variable {s t : State} {f : Nat}

/-- The words of a function's reset as the obligation has them. -/
theorem resets (h : FuncGone s f t) : ((∀ g ∈ funcQueues s f, (t.queue g).state ≠ .enabled) ∧ ∀ g ∈ funcQueues s f, (t.queue g).state ≠ .draining) ∧
    ∀ v < 2048, t.msixWord f v = 2 ^ 96 :=
  ⟨⟨fun g hg hen => h.queues g hg (.inl hen), fun g hg hdr => h.queues g hg (.inr hdr)⟩, h.words⟩

theorem vfClear_resets (hp : s.present f = true) : Does .vfEnableClear s fun t => (((∀ g ∈ funcQueues s f, (t.queue g).state ≠ .enabled) ∧
    ∀ g ∈ funcQueues s f, (t.queue g).state ≠ .draining) ∧ ∀ v < 2048, t.msixWord f v = 2 ^ 96) ∧ t.rd R.HOST_NUM_VF 0 = 0 ∧
    (f ≠ 0 → t.rd R.HOST_FN_STATE f = 0) := by
  refine ⟨_, rfl, resets ((funcReset_gone 4 hp (.inr rfl)).settles (.trans (.of_ctx (each_fnState_ctx 0 ((List.range (s.rd R.HOST_NUM_VF 0)).map (· + 1)))) (.of_ctx ?_))),
    ?_, fun hf => ?_⟩
  · exact ⟨rfl, rfl, fun _ => rd_wr_ne _ _ (by decide), fun _ => rd_wr_ne _ _ (by decide)⟩
  · rw [rd_wr_same, Nat.zero_mod]
  · rw [State.present, Bool.and_eq_true, decide_eq_true_eq, decide_eq_true_eq] at hp
    rw [rd_wr_ne _ _ (by decide)]
    exact fnState_each (by decide) (.inl (mem_virtuals (Nat.pos_of_ne_zero hf) hp.1))

theorem vfSet_spec {n : Nat} (hup : s.unitUp uEndpoint = true) (hn : n ≤ 1023) : Does (.vfEnableSet n) s fun t =>
    t.rd R.HOST_NUM_VF 0 = n ∧ ∀ k, 1 ≤ k → k ≤ n → t.rd R.HOST_FN_STATE k = 1 := by
  refine ⟨_, if_pos hup, ?_, fun k hk hkn => ?_⟩
  · rw [each_fnState_numVf, rd_wr_same, Nat.min_eq_left hn]
    exact Nat.mod_eq_of_lt (show n < 2 ^ 16 by omega)
  · rw [Nat.min_eq_left hn]
    exact fnState_each (by decide) (.inl (mem_virtuals hk hkn))

theorem invalidation_spec (f page : Nat) : Does (.atsInvalidation f page) s fun t =>
    (∀ e ∈ t.host.atsCache, ¬ (e.1 = f ∧ (page = 2 ^ 52 - 1 ∨ e.2 = page))) ∧
      (usesPage s f page = false → s.host.invs = [] → t.outbox = s.outbox ++ [.atsDone f page]) := by
  refine ⟨_, rfl, fun e he => ?_, fun huse hinvs => ?_⟩
  · have hkept := (List.mem_filter.1 (show e ∈ s.host.atsCache.filter fun e => !(e.1 == f && (page == 2 ^ 52 - 1 || e.2 == page)) from he)).2
    rintro ⟨h1, h2⟩
    simp [h1] at hkept
    exact h2.elim hkept.1 hkept.2
  · have hout : (s.host.invs ++ [(f, page)]).filter (fun i => !usesPage s i.1 i.2) = [(f, page)] := by simp [hinvs, huse]
    show s.outbox ++ ((s.host.invs ++ [(f, page)]).filter fun i => !usesPage s i.1 i.2).map (fun i => Out.atsDone i.1 i.2) = _
    rw [hout]
    rfl

end

/-- Settles O38: disabling and resetting queues and functions, and what the PCIe link brings. -/
theorem functionsAndLink : Obligations.FunctionsAndLink := by
  refine ⟨fun s who f => ⟨fun j g hg => ⟨fun hen => ⟨fun hbusy => ?_, fun hidle _ => ?_⟩, fun hw => ?_⟩, fun h => ?_, fun h => ?_, fun hp => ⟨fun h => ?_, ?_, ?_, ?_⟩,
      fun v => ⟨fun h => ⟨fun hok => ?_, fun hno => ?_⟩, fun h => ⟨fun hok => ?_, fun hno => ?_⟩⟩⟩,
    fun s f n => ⟨fun speed width flit hs hw hup hperst => ?_, ?_, fun page => ?_, fun hup hn => ?_, fun hperst => ?_, fun hperst => ?_⟩⟩
  · have hexec : exec (.normalDisable f j) s = .next (normalDisable s f g) := by
      show execNormalDisable f j s = _
      rw [execNormalDisable, hg]
    exact ⟨_, hexec, (queue_normalDisable hen).1 hbusy⟩
  · have hexec : exec (.normalDisable f j) s = .next (normalDisable s f g) := by
      show execNormalDisable f j s = _
      rw [execNormalDisable, hg]
    exact ⟨_, hexec, (queue_normalDisable hen).2 hidle⟩
  · have hexec : exec (.forcedDisable f j) s = .next (forcedDisable s f g) := by
      show execForcedDisable f j s = _
      rw [execForcedDisable, hg]
    exact ⟨_, hexec, queue_forcedDisable hw⟩
  · exact writes_of_guard rfl h rfl fun g hg => disableAll_normal f hg
  · exact writes_of_guard rfl h rfl ⟨fun g hg hen => disableAll_forced f hg (.inl hen), fun g hg hdr => disableAll_forced f hg (.inr hdr)⟩
  · exact writes_of_guard rfl h rfl (resets ((funcReset_gone 2 hp (.inl rfl)).settles (.of_ctx ⟨rfl, rfl, fun _ => rfl, fun _ => rfl⟩)))
  · exact ⟨_, rfl, resets (funcReset_gone 1 hp (.inl rfl))⟩
  · exact ⟨_, rfl, resets (funcReset_gone 3 hp (.inr rfl))⟩
  · exact vfClear_resets hp
  · obtain ⟨t, ht, hbase, hcount⟩ := assign_done hok
    exact writes_of_guard rfl h ht ⟨hbase, hcount⟩
  · exact turnedAway_of_guard rfl h (assign_denied hno)
  · obtain ⟨t, ht, hbase, hcount⟩ := assign_done hok
    exact writes_of_guard rfl h ht ⟨hcount, hbase⟩
  · exact turnedAway_of_guard rfl h (assign_denied hno)
  · refine ⟨_, if_pos ⟨hup, hperst⟩, ?_, ?_, ?_⟩
    · rw [rd_record _ _ _ _ _ _ (by decide), rd_wr_ne _ _ (by decide), rd_wr_ne _ _ (by decide), rd_wr_same]
      exact Nat.mod_eq_of_lt hs
    · rw [rd_record _ _ _ _ _ _ (by decide), rd_wr_ne _ _ (by decide), rd_wr_same]
      exact Nat.mod_eq_of_lt hw
    · rw [rd_record _ _ _ _ _ _ (by decide), rd_wr_same]
      cases flit <;> rfl
  · exact ⟨_, rfl, (keeps_record ..).outbox_eq rfl, SameRecords.record_ledger (s := s.emit (.aerReport f n)) (t := s) ⟨rfl, rfl, rfl, fun _ _ _ => rfl⟩ ..⟩
  · exact invalidation_spec f page
  · exact vfSet_spec hup hn
  · exact ⟨_, rfl, perstLow_perst, unitUp_perst perstLow_perst⟩
  · exact ⟨_, congrArg Host.Outcome.next (if_pos hperst), domExit_endpoint_perst⟩

end Sys2Proof.Machine
end

section
/-! Requests to domains by generation and their replies (R317 to R319): the gatekeeper's answers, what the pieces of a host command
leave, and what a reply or a status reply does to its command. -/

namespace Sys2Proof.Machine

open Sys2Proof

/-! ### Where a packet goes next -/

/-- The places that the next hop of a packet reads. -/
def hopPlaces : List Nat := [0x4000, 0x4100, 0x4102, 0x4103]

/-- None of a list of changes reaches the next hop of a packet. -/
def HopFree (T : List Nat) : Prop := ∀ p ∈ hopPlaces, (T.contains p || T.contains 31) = false

section
variable {T : List Nat} {s t : State} (h : Keeps T s t) (hT : HopFree T)
include h hT

theorem Keeps.dimPort_eq (v dst : Nat) : dimPort t v dst = dimPort s v dst := by
  simp only [dimPort, h.rd R.FAB_RT_DIM _ (hT 0x4102 (by decide))]

theorem Keeps.detourOf_eq (v dst port : Nat) : detourOf t v dst port = detourOf s v dst port := by
  simp only [detourOf, h.rd R.FAB_DETOUR _ (hT 0x4103 (by decide))]

theorem Keeps.portUp_eq (port : Nat) : t.portUp port = s.portUp port := by
  rw [State.portUp, State.portUp, h.rd R.FAB_PORT_STATE _ (hT 0x4000 (by decide))]

end

/-! ### The gatekeeper of a domain (R317) -/

section
variable {s : State} {r : GkReq}

theorem statusReply_way (s : State) (requester rid unit : Nat) (st : StatusBits) :
    Keeps [9, 16, 20, 0x4110, 0x4140, 0x7002] s (statusReply s requester rid unit st) := by
  unfold statusReply
  exact .ite (emit_keeps (.of rfl Sub.rfl) (Keeps.refl _ s)) ((forward_way (by show (4 : Nat) ≠ 1; decide)).mono (.of rfl Sub.rfl))

theorem statusReply_own {requester : Nat} (h : requester = s.me) (rid unit : Nat) (st : StatusBits) :
    statusReply s requester rid unit st = s.emit (.statusReply requester rid unit (s.genOf unit) st) := if_pos h

/-- A status reply to another chip joins the end of VC4's queue of the next hop's port. -/
theorem statusReply_queued {requester d : Nat} (hne : requester ≠ s.me) (hd : dimPort s s.injVer requester = d) (hport : d < 6)
    (hdet : detourOf s s.injVer requester d = none) (hup : s.portUp d = true) (hops : 1 ≤ s.rd R.FAB_HOP_LIMIT 0) (rid unit : Nat) (st : StatusBits) :
    ∃ q : QPacket, ((statusReply s requester rid unit st).port d).queue 4 = (s.port d).queue 4 ++ [q] ∧ q.pkt.dst = requester ∧ q.pkt.kind = 9 ∧
      q.pkt.rid = rid ∧ q.pkt.tgen = s.genOf unit ∧ q.pkt.data = statusBytes unit (s.genOf unit) st := by
  have hfw : statusReply s requester rid unit st = _ := (if_neg hne).trans (forward_queued hd hport hdet hops hup)
  rw [hfw]
  exact ⟨_, queueAt_txq s d rfl, rfl, rfl, rfl, rfl, rfl⟩

theorem gatekeep_answer {unit tgen requester rid : Nat} {posted b : Bool} (h : gateAct s unit posted tgen = .answer b) :
    (gatekeep s unit posted tgen requester rid).1 =
      statusReply (s.bumpSat R.RST_GK_ANSWERS unit 1) requester rid unit { status := 2, inReset := b } := by
  rw [gatekeep, h]

theorem gatekeep_way (s : State) (unit : Nat) (posted : Bool) (tgen requester rid : Nat) :
    Keeps [9, 16, 20, 0x2020, 0x4110, 0x4140, 0x7002] s (gatekeep s unit posted tgen requester rid).1 := by
  unfold gatekeep
  split
  · exact Keeps.refl _ s
  · exact bumpSat_keeps (.of rfl Sub.rfl) (Keeps.refl _ s)
  · exact (bumpSat_keeps (.of rfl Sub.rfl) (Keeps.refl _ s)).trans ((statusReply_way ..).mono (.of rfl Sub.rfl))

theorem gatekeep_drop {unit tgen requester rid : Nat} {posted : Bool} (h : gateAct s unit posted tgen = .drop) :
    (gatekeep s unit posted tgen requester rid).1 = s.bumpSat R.RST_GK_DROP unit 1 := by
  rw [gatekeep, h]

theorem gatekeep_pass {unit tgen requester rid : Nat} {posted : Bool} (h : gateAct s unit posted tgen = .pass) :
    (gatekeep s unit posted tgen requester rid).1 = s := by
  rw [gatekeep, h]

theorem gateAct_answer {unit tgen : Nat} {posted : Bool}
    (h : (s.inReset unit = true ∧ posted = false) ∨ (s.inReset unit = false ∧ tgen % 16 ≠ s.genOf unit)) :
    gateAct s unit posted tgen = .answer (s.inReset unit) := by
  rcases h with ⟨hr, hp⟩ | ⟨hr, hg⟩
  · simp [gateAct, hr, hp]
  · simp [gateAct, hr, hg]

theorem gateAct_drop {unit : Nat} (h : s.inReset unit = true) (tgen : Nat) : gateAct s unit true tgen = .drop := by simp [gateAct, h]

theorem gateAct_pass {unit tgen : Nat} (h : s.inReset unit = false) (hg : tgen % 16 = s.genOf unit) (posted : Bool) :
    gateAct s unit posted tgen = .pass := by simp [gateAct, h, hg]

theorem answers_way (s : State) (unit : Nat) : Keeps [0x2020] s (s.bumpSat R.RST_GK_ANSWERS unit 1) := bumpSat_keeps Sub.rfl (Keeps.refl _ s)

theorem genOf_answers (s : State) (unit : Nat) : (s.bumpSat R.RST_GK_ANSWERS unit 1).genOf unit = s.genOf unit := rd_bumpSat_ne (by decide)

end

/-! ### What a request leaves of a command and of host memory (R318) -/

/-- Host memory, what is known of other chips and the outcome a command has stay. -/
structure Steady (m : Nat) (s t : State) : Prop where
  mem : t.host.mem = s.host.mem
  done : ∀ v, (s.mover m).outcome = some v → (t.mover m).outcome = some v
  remote : t.rst.remote = s.rst.remote
  chip : t.me = s.me

section
variable {m : Nat} {s t u : State}

theorem Steady.refl (m : Nat) (s : State) : Steady m s s := ⟨rfl, fun _ h => h, rfl, rfl⟩

theorem Steady.trans (h : Steady m s t) (h' : Steady m t u) : Steady m s u :=
  ⟨h'.mem.trans h.mem, fun v hv => h'.done v (h.done v hv), h'.remote.trans h.remote, h'.chip.trans h.chip⟩

theorem Steady.of_keeps {T : List Nat} (h : Keeps T s t) (h12 : T.contains 12 = false) (h14 : T.contains 14 = false) (hme : t.me = s.me) :
    Steady m s t := ⟨by rw [h.host_eq h12], fun v hv => by rw [State.mover, h.host_eq h12]; exact hv, by rw [h.rst_eq h14], hme⟩

theorem Keeps.chip_eq {T : List Nat} (h : Keeps T s t) (h11 : T.contains 11 = false) : t.me = s.me := by rw [State.me, State.me, h.router_eq h11]

/-- A change of a command that leaves the outcome it has. -/
theorem modMover_steady {n : Nat} {f : Mover → Mover} (hf : ∀ x v, x.outcome = some v → (f x).outcome = some v) : Steady m s (modMover s n f) := by
  unfold modMover
  split
  · exact .refl m s
  next x hx =>
    refine ⟨rfl, fun v hv => ?_, rfl, rfl⟩
    by_cases hn : m = n
    · rw [hn] at hv ⊢
      rw [mover_of_find hx] at hv
      show (mapGet {} (mapPut s.host.movers n (f x)) n).outcome = _
      rw [mapGet_mapPut_same]
      exact hf x v hv
    · show (mapGet {} (mapPut s.host.movers n (f x)) m).outcome = _
      rw [mapGet_mapPut_other _ _ _ hn]
      exact hv

theorem moverDone_steady (n status reason result : Nat) : Steady m s (moverDone s n status reason result) :=
  modMover_steady fun x v hx => by rw [hx, Option.isSome_some, if_pos rfl, hx]

theorem endLoad_way (s : State) (m status reason : Nat) : Keeps [2, 3, 6, 0x3000, 0x3001] s (endLoad s m status reason) :=
  endLoad_keeps Sub.rfl (Keeps.refl _ s)

theorem moverFail_steady (n status reason result : Nat) : Steady m s (moverFail s n status reason result) :=
  (Steady.of_keeps (endLoad_way ..) rfl rfl (Keeps.chip_eq (endLoad_way ..) rfl)).trans (moverDone_steady ..)

theorem modRst_steady {f : ResetUnit → ResetUnit} (hf : (f s.rst).remote = s.rst.remote) : Steady m s (s.modRst f) := ⟨rfl, fun _ h => h, hf, rfl⟩

theorem failRid_steady (rid status reason : Nat) : Steady m s (failRid s rid status reason) := by
  unfold failRid
  split
  · exact (modRst_steady rfl).trans (moverFail_steady ..)
  · exact modRst_steady rfl

theorem endRid_steady (rid : Nat) : Steady m s (endRid s rid) := by
  unfold endRid
  split
  · exact .refl m s
  · dsimp only
    split
    · exact modRst_steady rfl
    · exact (modRst_steady rfl).trans (modMover_steady fun _ _ h => h)

theorem noteOut_steady (i : Inject) (p : Packet) : Steady m s (noteOut s i p) := by
  unfold noteOut
  split
  · exact modRst_steady rfl
  · exact .refl m s

theorem injectDenied_steady (i : Inject) : Steady m s (injectDenied s i) := by
  unfold injectDenied
  dsimp only
  have hrec : Steady m s (s.record 0x5020 (targetUnit i.offset) [(2, uInject), (8, i.offset)]) := .of_keeps (keeps_record ..) rfl rfl (Keeps.chip_eq (keeps_record ..) rfl)
  have hs2 (c : Prop) [Decidable c] (v : State) : Steady m v (if c then doNotSeal v i.spart vPlanErr else v) := by
    split
    · exact .of_keeps (doNotSeal_keeps Sub.rfl (Keeps.refl _ v)) rfl rfl (Keeps.chip_eq (doNotSeal_keeps Sub.rfl (Keeps.refl _ v)) rfl)
    · exact .refl m v
  split
  · exact (hrec.trans (hs2 ..)).trans (moverFail_steady ..)
  · exact hrec.trans (hs2 ..)

/-- Requests leave host memory and the outcome that a command has. -/
def steadyRel (m : Nat) : ReqRel where
  rel := Steady m
  ok := fun _ => True
  refl := .refl m
  trans := .trans
  keeps := fun h h12 h14 _ hme => .of_keeps h h12 h14 hme
  out := fun _ hr hh _ hme => ⟨by rw [hh], fun v hv => by rw [State.mover, hh]; exact hv, hr, hme⟩
  retarget := fun _ _ _ _ => modRst_steady rfl
  failRid := fun _ => failRid_steady
  endRid := fun _ => endRid_steady
  note := fun _ i p _ => noteOut_steady i p
  denied := fun _ i _ => injectDenied_steady i

theorem serveReads_steady (s : State) : Steady m s (serveReads s) := (serveReads_along (C := steadyRel m) fun _ _ => True.intro).holds

theorem inject_steady (i : Inject) : Steady m s (inject s i) := (inject_along (C := steadyRel m) True.intro).holds

end

/-! ### The pieces of a command (R185, R186) -/

/-- A command that goes on: started, without an outcome, waiting for nothing, and not held by the power cap. -/
structure Goes (s : State) (m : Nat) : Prop where
  started : (s.mover m).started = true
  undone : (s.mover m).outcome = none
  free : cmdWaits s m = false
  cap : s.power.holdUnplanned = false

section
variable {s t u : State} {m n fuel : Nat} {ecc : List EccHit}

theorem Goes.not_stopped (h : Goes s m) :
    ¬ ((s.mover m).started = false ∨ (s.mover m).outcome.isSome = true ∨ cmdWaits s m = true ∨ s.power.holdUnplanned = true) := by
  simp [h.started, h.undone, h.free, h.cap]

/-- A piece that is there is put where it belongs, and the command goes on after it. -/
theorem runPieces_put (h : Goes s m) (hlen : (s.mover m).next < (s.mover m).cmd.len) (hgot : (s.mover m).got = true)
    (hput : putPiece s m (s.mover m) = (t, true)) : runPieces (fuel + 1) s m ecc = runPieces fuel t m [] := by
  rw [runPieces, if_neg h.not_stopped, if_neg (Nat.not_le.2 hlen), if_pos hgot]
  simp only [if_true, hput]

/-- A piece is read and put where it belongs, and the command goes on after it. -/
theorem runPieces_take (h : Goes s m) (hlen : (s.mover m).next < (s.mover m).cmd.len) (hgot : (s.mover m).got = false)
    (htake : takePiece s m (s.mover m) (pieceLen s (s.mover m)) ecc = (u, true)) (hput : putPiece u m (u.mover m) = (t, true)) :
    runPieces (fuel + 1) s m ecc = runPieces fuel t m [] := by
  rw [runPieces, if_neg h.not_stopped, if_neg (Nat.not_le.2 hlen)]
  simp only [hgot, Bool.false_eq_true, if_false, htake, if_true, hput]

/-- A command that has moved all its data is done. -/
theorem runPieces_moved (h : Goes s m) (hlen : (s.mover m).cmd.len ≤ (s.mover m).next) :
    runPieces (fuel + 1) s m ecc = moved s m (s.mover m) := by
  rw [runPieces, if_neg h.not_stopped, if_pos hlen]

theorem moved_ok {x : Mover} (hop : x.cmd.opcode ≠ 0x10) (hbad : x.bad = none) : moved s m x = moverDone s m 0 0 x.cmd.len := by
  rw [moved, if_neg hop, hbad]

end

section
variable {s t u : State} {m n N : Nat} {c : Cmd} {ecc : List EccHit}

theorem modMover_find {x : Mover} (h : mapFind s.host.movers m = some x) (f : Mover → Mover) :
    modMover s m f = s.modHost fun g => { g with movers := mapPut g.movers m (f x) } := by
  rw [modMover, h]

/-- A change of a command that is there. -/
theorem mover_modMover {x : Mover} (h : mapFind s.host.movers m = some x) (f : Mover → Mover) : (modMover s m f).mover m = f x := by
  rw [modMover_find h]
  exact mapGet_mapPut_same ..

theorem modMover_absent (h : mapFind s.host.movers m = none) (f : Mover → Mover) : modMover s m f = s := by
  rw [modMover, h]

/-- A command's registers are the same and it is at an offset or past it. -/
structure PastOf (c : Cmd) (N m : Nat) (s : State) : Prop where
  cmd : (s.mover m).cmd = c
  next : N ≤ (s.mover m).next

theorem PastOf.modMover {f : Mover → Mover} (h : PastOf c N m s) (hcmd : ∀ x, (f x).cmd = x.cmd) (hnext : ∀ x, x.next ≤ (f x).next) :
    PastOf c N m (modMover s m f) := by
  cases hx : mapFind s.host.movers m with
  | none => rwa [modMover_absent hx]
  | some x =>
    have hxs := mover_of_find hx
    exact ⟨by rw [mover_modMover hx, hcmd, ← hxs]; exact h.cmd, by rw [mover_modMover hx]; exact (hxs ▸ h.next).trans (hnext x)⟩

theorem PastOf.of_host (h : PastOf c N m s) (ht : t.host.movers = s.host.movers) : PastOf c N m t := by
  have : t.mover m = s.mover m := by rw [State.mover, State.mover, ht]
  exact ⟨this ▸ h.cmd, this ▸ h.next⟩

theorem modMover_mem (s : State) (m : Nat) (f : Mover → Mover) : (modMover s m f).host.mem = s.host.mem := by
  unfold modMover
  split <;> rfl

theorem readRuns_host (s : State) (unit : Nat) (rs : List (Nat × Nat)) (ecc : List EccHit) : (readRuns s unit rs ecc).1.host = s.host :=
  (readRuns_keeps Sub.rfl (Keeps.refl _ s)).fst.host_eq rfl

theorem denyCmd_steady (n : Nat) (x : Mover) (a : Nat) : Steady m s (denyCmd s n x a) :=
  have hrec : Keeps [16, 0x7002] s (s.recordL 0x5020 (targetUnit (gaOff a)) [(2, uFunc x.func), (8, gaOff a)] (some (x.cmd.layer, x.cmd.operator))) :=
    recordL_keeps Sub.rfl (Keeps.refl _ s)
  (Steady.of_keeps hrec rfl rfl (hrec.chip_eq rfl)).trans (moverFail_steady ..)

theorem PastOf.nextPiece (h : PastOf c N m s) (n : Nat) : PastOf c N m (nextPiece s m n) := by
  unfold Machine.nextPiece
  exact h.modMover (fun _ => rfl) fun x => Nat.le_add_right x.next n

/-- The reading of a piece leaves host memory, and the command where it is. -/
theorem takePiece_past (h : PastOf c N m s) (hop : c.opcode = 2) (n : Nat) (ecc : List EccHit) :
    (takePiece s m (s.mover m) n ecc).1.host.mem = s.host.mem ∧
      ((takePiece s m (s.mover m) n ecc).2 = true → PastOf c N m (takePiece s m (s.mover m) n ecc).1) := by
  have hsrc : srcOf (s.mover m).cmd = some c.devAddr := by rw [h.cmd, srcOf, if_pos (.inl hop)]
  rw [takePiece, hsrc]
  dsimp only
  split
  · exact ⟨((modRst_steady (m := m) (s := s) rfl).trans (inject_steady _)).mem, nofun⟩
  · split
    · exact ⟨(denyCmd_steady (m := m) ..).mem, nofun⟩
    · split
      · exact ⟨(moverFail_steady (m := m) ..).mem, nofun⟩
      · split
        · exact ⟨rfl, nofun⟩
        next rs _ _ _ _ =>
          have hread := readRuns_host s (uFunc (s.mover m).func) rs ecc
          refine ⟨(modMover_mem ..).trans (congrArg HostIf.mem hread), fun _ => ?_⟩
          exact (h.of_host (congrArg HostIf.movers hread)).modMover (fun _ => rfl) fun x => Nat.le_refl _

/-- Host memory with bytes written. -/
def hostWrite (s : State) (a : Nat) (bs : List Byte) : State := s.modHost fun h => { h with mem := memWrite h.mem a bs }

/-- A piece of a READ is written to host memory. -/
theorem putPiece_read {x : Mover} (hop : x.cmd.opcode = 2) : putPiece s m x =
    (nextPiece (hostWrite s (x.cmd.hostAddr + x.next) (runBytes x.runs)) m (runBytes x.runs).length, true) := by
  have hdst : dstOf x.cmd = none := by rw [dstOf, hop]; rfl
  rw [putPiece, hdst]
  exact if_pos hop

/-- Host memory below an address stays, in canonical form. -/
structure BelowKept (a : Nat) (s t : State) : Prop where
  wf : Memory.wf s.host.mem → Memory.wf t.host.mem
  get : ∀ b < a, mapGet 0 t.host.mem b = mapGet 0 s.host.mem b

theorem BelowKept.of_mem {a : Nat} (h : t.host.mem = s.host.mem) : BelowKept a s t := by
  constructor
  · rw [h]
    exact id
  · intro b _
    rw [h]

theorem BelowKept.trans {a : Nat} (h : BelowKept a s t) (h' : BelowKept a t u) : BelowKept a s u :=
  ⟨fun hs => h'.wf (h.wf hs), fun b hb => (h'.get b hb).trans (h.get b hb)⟩

/-- What is read below that address is what was read. -/
theorem memRead_below {a b n : Nat} (h : BelowKept a s t) (hwf : Memory.wf s.host.mem) (hb : b + n ≤ a) :
    memRead t.host.mem b n = memRead s.host.mem b n := by
  refine List.ext_getElem? fun j => ?_
  by_cases hj : j < n
  · rw [memRead, memRead, mapSlice_get 0 b n j ((mapWf_iff 0 _).1 (h.wf hwf)).1 hj, mapSlice_get 0 b n j ((mapWf_iff 0 _).1 hwf).1 hj,
      h.get _ (by omega)]
  · rw [List.getElem?_eq_none (by simpa [memRead] using hj), List.getElem?_eq_none (by simpa [memRead] using hj)]

/-- The pieces of a READ from an offset of it on leave host memory below their place. -/
theorem runPieces_below {fuel : Nat} (h : PastOf c N m s) (hop : c.opcode = 2) : BelowKept (c.hostAddr + N) s (runPieces fuel s m ecc) := by
  induction fuel generalizing s ecc with
  | zero => exact .of_mem rfl
  | succ k ih =>
    rw [runPieces]
    dsimp only
    split
    · exact .of_mem rfl
    split
    · unfold moved
      split
      · exact .of_mem rfl
      · split
        · exact .of_mem (moverDone_steady (m := m) ..).mem
        · exact .of_mem (moverDone_steady (m := m) ..).mem
    · have htake : (if (s.mover m).got = true then (s, true) else takePiece s m (s.mover m) (pieceLen s (s.mover m)) ecc).1.host.mem = s.host.mem ∧
          ((if (s.mover m).got = true then (s, true) else takePiece s m (s.mover m) (pieceLen s (s.mover m)) ecc).2 = true →
            PastOf c N m (if (s.mover m).got = true then (s, true) else takePiece s m (s.mover m) (pieceLen s (s.mover m)) ecc).1) := by
        split
        · exact ⟨rfl, fun _ => h⟩
        · exact takePiece_past h hop ..
      revert htake
      generalize (if (s.mover m).got = true then (s, true) else takePiece s m (s.mover m) (pieceLen s (s.mover m)) ecc) = y
      obtain ⟨v, b⟩ := y
      rintro ⟨hmem, hpast⟩
      refine (BelowKept.of_mem hmem).trans ?_
      cases b with
      | false => exact .of_mem rfl
      | true =>
        have hv := hpast rfl
        rw [if_pos rfl, putPiece_read (hv.cmd ▸ hop), if_pos rfl]
        have hput {l : Nat} {bs : List Byte} : BelowKept (c.hostAddr + N) v (nextPiece (hostWrite v ((v.mover m).cmd.hostAddr + (v.mover m).next) bs) m l) := by
          refine .trans (t := hostWrite v ((v.mover m).cmd.hostAddr + (v.mover m).next) bs)
            ⟨fun hw => memWrite_wf _ _ hw, fun b hb => mapGet_mapSplice_out 0 _ _ _ _ (.inl ?_)⟩ (.of_mem (modMover_mem ..))
          rw [hv.cmd]
          exact hb.trans_le (Nat.add_le_add_left hv.next _)
        refine hput.trans (ih (PastOf.nextPiece (PastOf.of_host hv ?_) _))
        rfl

end

/-! ### A command that goes on (R186) -/

section
variable {s t : State} {m : Nat} {x : Mover}

theorem modMover_way (s : State) (m : Nat) (f : Mover → Mover) : Keeps [12] s (modMover s m f) := modMover_keeps Sub.rfl (Keeps.refl _ s)

theorem Goes.of_same (h : Goes s m) (hst : (t.mover m).started = (s.mover m).started) (ho : (t.mover m).outcome = (s.mover m).outcome)
    (hrst : t.rst.outstanding = s.rst.outstanding) (hheld : t.msys.held = s.msys.held) (hcap : t.power.holdUnplanned = s.power.holdUnplanned) :
    Goes t m := by
  refine ⟨hst.trans h.started, ho.trans h.undone, ?_, hcap.trans h.cap⟩
  rw [cmdWaits, hrst, hheld]
  exact h.free

theorem Goes.modMover {f : Mover → Mover} (h : Goes s m) (hst : ∀ y, (f y).started = y.started) (ho : ∀ y, (f y).outcome = y.outcome) :
    Goes (modMover s m f) m := by
  cases hx : mapFind s.host.movers m with
  | none => rwa [modMover_absent hx]
  | some y =>
    have hmv := mover_of_find hx
    refine h.of_same ?_ ?_ ?_ ?_ ?_
    · rw [mover_modMover hx, hst, hmv]
    · rw [mover_modMover hx, ho, hmv]
    · rw [(modMover_way ..).rst_eq rfl]
    · rw [(modMover_way ..).msys_eq rfl]
    · rw [(modMover_way ..).power_eq rfl]

theorem Goes.nextPiece (h : Goes s m) (n : Nat) : Goes (nextPiece s m n) m := h.modMover (fun _ => rfl) fun _ => rfl

theorem mover_nextPiece (h : mapFind s.host.movers m = some x) (n : Nat) :
    (nextPiece s m n).mover m = { x with next := x.next + n, got := false, runs := [] } := mover_modMover h _

theorem find_modMover (h : mapFind s.host.movers m = some x) (f : Mover → Mover) : mapFind (modMover s m f).host.movers m = some (f x) := by
  rw [modMover_find h]
  exact mapFind_mapPut_same ..

/-- The last piece ends a data command that met no uncorrected error. -/
theorem runPieces_last {n fuel : Nat} {ecc : List EccHit} (hg : Goes s m) (hx : mapFind s.host.movers m = some x) (hop : x.cmd.opcode ≠ 0x10)
    (hbad : x.bad = none) (hlen : x.next + n = x.cmd.len) :
    runPieces (fuel + 1) (nextPiece s m n) m ecc = moverDone (nextPiece s m n) m 0 0 x.cmd.len := by
  rw [runPieces_moved (hg.nextPiece n) (by rw [mover_nextPiece hx]; exact hlen.ge), mover_nextPiece hx]
  exact moved_ok hop hbad

theorem outcome_last {n : Nat} (hx : mapFind s.host.movers m = some x) (ho : x.outcome = none) (status reason result : Nat) :
    ((moverDone (nextPiece s m n) m status reason result).mover m).outcome = some (status, reason, result) :=
  moverDone_outcome (find_modMover hx _) ho ..

/-- A READ's piece that is there lands in host memory, where the pieces after it leave it, and the last one ends the READ. -/
theorem runPieces_lands {fuel : Nat} {ecc : List EccHit} (hg : Goes s m) (hx : mapFind s.host.movers m = some x) (hop : x.cmd.opcode = 2)
    (hgot : x.got = true) (hlt : x.next < x.cmd.len) (hwf : Memory.wf s.host.mem) :
    memRead (runPieces (fuel + 2) s m ecc).host.mem (x.cmd.hostAddr + x.next) (runBytes x.runs).length = runBytes x.runs ∧
      (x.next + (runBytes x.runs).length = x.cmd.len → x.bad = none →
        ((runPieces (fuel + 2) s m ecc).mover m).outcome = some (0, 0, x.cmd.len)) := by
  have hmv : s.mover m = x := mover_of_find hx
  have hput := putPiece_read (s := s) (m := m) (x := s.mover m) (by rw [hmv]; exact hop)
  rw [runPieces_put hg (by rw [hmv]; exact hlt) (by rw [hmv]; exact hgot) hput, hmv]
  have hg' : Goes (hostWrite s (x.cmd.hostAddr + x.next) (runBytes x.runs)) m :=
    hg.of_same rfl rfl rfl rfl rfl
  constructor
  · have hmem : (nextPiece (hostWrite s (x.cmd.hostAddr + x.next) (runBytes x.runs)) m
        (runBytes x.runs).length).host.mem = memWrite s.host.mem (x.cmd.hostAddr + x.next) (runBytes x.runs) := modMover_mem ..
    have hpast : PastOf x.cmd (x.next + (runBytes x.runs).length) m (nextPiece (hostWrite s (x.cmd.hostAddr + x.next) (runBytes x.runs)) m (runBytes x.runs).length) := by
      constructor
      · rw [mover_nextPiece (s := hostWrite s (x.cmd.hostAddr + x.next) (runBytes x.runs)) hx]
      · rw [mover_nextPiece (s := hostWrite s (x.cmd.hostAddr + x.next) (runBytes x.runs)) hx]
    have hkept := runPieces_below (fuel := fuel + 1) (ecc := []) hpast hop
    exact (memRead_below hkept (by rw [hmem]; exact memWrite_wf _ _ hwf) (by omega)).trans ((congrArg (memRead · _ _) hmem).trans (memRead_memWrite _ _ hwf))
  · intro hlen hbad
    rw [runPieces_last hg' hx (by rw [hop]; decide) hbad hlen]
    exact outcome_last (s := hostWrite s (x.cmd.hostAddr + x.next) (runBytes x.runs)) hx (hmv ▸ hg.undone) ..

end

/-! ### Replies (R186, R318) -/

section
variable {s t : State} {m n rid : Nat} {x : Mover} {o : OutReq} {data : List Byte}

theorem mover_single (h : s.host.movers = [(m, x)]) : mapFind s.host.movers m = some x := by
  rw [h, mapFind, if_pos rfl]

/-- The one command fetched is the only one that goes on. -/
theorem movingCmds_single (h : s.host.movers = [(m, x)]) (hst : x.started = true) (ho : x.outcome = none) (hop : x.cmd.opcode = 2) :
    movingCmds s = [m] := by
  simp [movingCmds, h, hst, ho, hop]

/-- The command that a piece has come for. -/
def withPiece (x : Mover) (bs : List Byte) : Mover := { x with got := true, runs := [(bs, false)], bad := none }

/-- The state in which a piece of the one command fetched has come. -/
def pieceHere (s : State) (m : Nat) (x : Mover) (bs : List Byte) : State := s.modHost fun g => { g with movers := [(m, withPiece x bs)] }

theorem mapPut_single {α : Type} (k : Nat) (v w : α) : mapPut [(k, v)] k w = [(k, w)] := by simp [mapPut, mapDel, mapIns]

theorem havePiece_single (h : s.host.movers = [(m, x)]) (hbad : x.bad = none) (bs : List Byte) :
    havePiece s m [(bs, false)] = pieceHere s m x bs := by
  have hput : mapPut s.host.movers m (withPiece x bs) = [(m, withPiece x bs)] := by rw [h, mapPut_single]
  rw [havePiece, modMover_find (mover_single h), hbad, pieceHere, ← hput]
  rfl

/-- A reply with the next packet of a READ puts its bytes in host memory and, with the last of them, ends it. -/
theorem takeReply_lands (h : s.host.movers = [(m, x)]) (hst : x.started = true) (ho : x.outcome = none) (hop : x.cmd.opcode = 2)
    (hlt : x.next < x.cmd.len) (hbad : x.bad = none) (hwf : Memory.wf s.host.mem) (hfree : cmdWaits s m = false) (hcap : s.power.holdUnplanned = false)
    (hpiece : pieceLen s x = n) :
    memRead (takeReply s m data false).host.mem (x.cmd.hostAddr + x.next) n = sliceZ data 0 n ∧
      (x.next + n = x.cmd.len → ((takeReply s m data false).mover m).outcome = some (0, 0, x.cmd.len)) := by
  have hrun : takeReply s m data false = runCmd (pieceHere s m x (sliceZ data 0 n)) m [] := by
    rw [takeReply, mover_of_find (mover_single h), hpiece, havePiece_single h hbad, resumeCmds,
      movingCmds_single (x := withPiece x (sliceZ data 0 n)) rfl hst ho hop]
    rfl
  have hbytes : runBytes (withPiece x (sliceZ data 0 n)).runs = sliceZ data 0 n := by simp [runBytes, withPiece]
  have hlen : (sliceZ data 0 n).length = n := by simp [sliceZ]
  have hmv : (pieceHere s m x (sliceZ data 0 n)).mover m = withPiece x (sliceZ data 0 n) := mover_of_find (mover_single rfl)
  have hgo : Goes ((pieceHere s m x (sliceZ data 0 n)).modHost fun g => { g with cause := some (x.cmd.layer, x.cmd.operator) }) m :=
    ⟨(congrArg Mover.started hmv).trans hst, (congrArg Mover.outcome hmv).trans ho, hfree, hcap⟩
  obtain ⟨hland, hdone⟩ := runPieces_lands (fuel := x.cmd.len / 3584 + 1) (ecc := []) hgo (x := withPiece x (sliceZ data 0 n))
    (mover_single rfl) hop rfl hlt hwf
  rw [hbytes, hlen] at hland hdone
  rw [hrun, runCmd, hmv]
  exact ⟨hland, fun hl => hdone hl rfl⟩

theorem dropLate_spec (s : State) (unit gen chip : Nat) : Counted s (dropLate s unit gen chip) R.RST_LATE 0 1 ∧
    (dropLate s unit gen chip).mem = s.mem ∧ (dropLate s unit gen chip).rst.outstanding = s.rst.outstanding ∧ (dropLate s unit gen chip).host = s.host ∧
    (dropLate s unit gen chip).rst.remote = s.rst.remote ∧ (dropLate s unit gen chip).me = s.me := by
  have hway : Keeps [14, 16, 0x2021, 0x7002] s (dropLate s unit gen chip) := dropLate_keeps Sub.rfl (Keeps.refl _ s)
  have hrec : Keeps [16, 0x7002] (s.bumpSat R.RST_LATE 0 1) ((s.bumpSat R.RST_LATE 0 1).record 0xC011 uFcc [(2, unit), (1, gen), (4, chip)]) := keeps_record ..
  refine ⟨?_, hway.mem rfl, ?_, hway.host_eq rfl, ?_, hway.chip_eq rfl⟩
  · unfold Counted dropLate
    dsimp only
    split
    · rw [rd_bumpSat_same]
    · show State.rd (State.record _ _ _ _) _ _ = _
      rw [rd_record _ _ _ _ _ _ (by decide), rd_bumpSat_same]
  · unfold dropLate
    dsimp only
    split
    · rfl
    · show (State.record _ _ _ _).rst.outstanding = _
      exact congrArg ResetUnit.outstanding (hrec.rst_eq rfl)
  · unfold dropLate
    dsimp only
    split
    · rfl
    · show (State.record _ _ _ _).rst.remote = _
      exact congrArg ResetUnit.remote (hrec.rst_eq rfl)

/-- Nothing waits to be read: only the reads themselves are looked at. -/
theorem serveReads_none (h : s.router.reads = []) : serveReads s = s.modRouter fun r => { r with reads := [] } := by
  rw [serveReads, h]
  rfl

end

/-! ### Status replies (R318) -/

section
variable {s t u : State} {m rid chip unit gen : Nat}

/-- The generation noted is the one then known. -/
theorem knownGen_noteGen (h : chip ≠ s.me) : (noteGen s chip unit gen).knownGen chip unit = some (gen % 16) := by
  have hme : (noteGen s chip unit gen).me = s.me := (noteGen_keeps (T := [14, 0x2021]) Sub.rfl (Keeps.refl _ s)).chip_eq rfl
  have hremote : (noteGen s chip unit gen).rst.remote = ((s.rst.remote.filter fun e => e.1 != remoteKey chip unit) ++
      [(remoteKey chip unit, gen % 16)]).drop ((s.rst.remote.filter fun e => e.1 != remoteKey chip unit).length - 4095) := by
    rw [noteGen, if_neg h]
    dsimp only
    rw [(wr_keeps (T := [0x2021]) Sub.rfl (Keeps.refl _ _)).rst_eq rfl, State.modRst, State.setRst_rst]
  have hold : ∀ e ∈ (s.rst.remote.filter fun e => e.1 != remoteKey chip unit), (e.1 == remoteKey chip unit) = false := by
    intro e he
    simpa using (List.mem_filter.1 he).2
  rw [State.knownGen, if_neg (hme ▸ h), hremote, List.drop_append_of_le_length (Nat.sub_le ..), List.find?_append,
    List.find?_eq_none.2 fun e he => by rw [hold e (List.mem_of_mem_drop he)]; decide]
  simp

theorem knownGen_of (hr : t.rst.remote = s.rst.remote) (hme : t.me = s.me) (h : chip ≠ s.me) : t.knownGen chip unit = s.knownGen chip unit := by
  rw [State.knownGen, State.knownGen, if_neg (hme ▸ h), if_neg h, hr]

/-- The end of a request ends its command with the status. -/
theorem failRid_outcome {x : Mover} {status : Nat} (hr : ridMover s rid = some m) (hx : mapFind s.host.movers m = some x) (ho : x.outcome = none) :
    ((failRid s rid status 0).mover m).outcome = some (status, 0, 0) := by
  rw [failRid, hr]
  refine moverDone_outcome (x := x) ?_ ho ..
  rw [(endLoad_way ..).host_eq rfl]
  exact hx

/-- The host interface, the requests outstanding and what is known of other chips stay. -/
structure HandedOver (s t : State) : Prop where
  host : t.host = s.host
  rst : t.rst = s.rst
  chip : t.me = s.me

theorem HandedOver.of_keeps {T : List Nat} (h : Keeps T s t) (h12 : T.contains 12 = false) (h14 : T.contains 14 = false) (hme : t.me = s.me) :
    HandedOver s t := ⟨h.host_eq h12, h.rst_eq h14, hme⟩

theorem HandedOver.trans (h : HandedOver s t) (h' : HandedOver t u) : HandedOver s u :=
  ⟨h'.host.trans h.host, h'.rst.trans h.rst, h'.chip.trans h.chip⟩

theorem HandedOver.from (h : HandedOver t u) (hh : t.host = s.host) (hr : t.rst = s.rst) (hc : t.me = s.me) : HandedOver s u :=
  ⟨h.host.trans hh, h.rst.trans hr, h.chip.trans hc⟩

/-- A packet that names its own destination departs. -/
theorem depart_handed (p : Packet) : HandedOver s (depart s { pkt := p }) := by
  have hdep : depart s { pkt := p } = if mapHas s.router.src (ctxKey p.dst p.vc) = false ∧ 16384 ≤ s.router.src.length then
      s.modRouter fun r => { r with noCtx := r.noCtx ++ [{ pkt := p }] } else windowSend s { pkt := p } := by
    rw [depart]
    dsimp only [retarget]
    rw [if_neg (by decide), if_pos rfl]
  rw [hdep]
  split
  · exact ⟨rfl, rfl, rfl⟩
  · exact .of_keeps (windowSend_keeps Sub.rfl (Keeps.refl _ s)) rfl rfl (windowSend_me ..)

theorem shaperDecide_handed {f : Nat} {p : Packet} (h : (mapGet {} s.router.shapers f).queue = [{ pkt := p }]) : HandedOver s (shaperDecide s f) := by
  have hrefill : HandedOver s (shpRefill s f) := .of_keeps (shpRefill_keeps Sub.rfl (Keeps.refl _ s)) rfl rfl (shpRefill_me s f)
  rw [shaperDecide, h]
  dsimp only
  refine hrefill.trans ?_
  split
  · exact ⟨rfl, rfl, rfl⟩
  · refine HandedOver.trans ?_ (depart_handed p)
    split
    · exact ⟨rfl, rfl, rfl⟩
    · exact ⟨rfl, rfl, rfl⟩

theorem handOver_handed (p : Packet) : HandedOver s (handOver s { pkt := p }) := by
  unfold handOver
  split
  · unfold shape
    dsimp only
    split
    next hq =>
      refine (shaperDecide_handed (p := p) ?_).from rfl rfl rfl
      show (mapGet {} (mapPut s.router.shapers p.func _) p.func).queue = _
      rw [mapGet_mapPut_same, hq]
      rfl
    · exact ⟨rfl, rfl, rfl⟩
  · exact depart_handed p

end

theorem gatekeeper_spec (s : State) (r : GkReq) :
    Does (.gatekeeperRequest r) s fun t => t.mem = s.mem ∧ t.parts = s.parts ∧ t.host = s.host ∧
      (s.inReset r.unit = true → r.posted = true → Counted s t R.RST_GK_DROP r.unit 1 ∧ t.outbox = s.outbox ∧ t.ports = s.ports) ∧
      ((s.inReset r.unit = true ∧ r.posted = false) ∨ (s.inReset r.unit = false ∧ r.tgen % 16 ≠ s.genOf r.unit) →
        Counted s t R.RST_GK_ANSWERS r.unit 1 ∧
        (r.requester = s.me → t.outbox = s.outbox ++
          [.statusReply r.requester r.rid r.unit (s.genOf r.unit) { status := 2, inReset := s.inReset r.unit }]) ∧
        (r.requester ≠ s.me → ∀ d, dimPort s s.injVer r.requester = d → d < 6 →
          detourOf s s.injVer r.requester d = none → s.portUp d = true → 1 ≤ s.rd R.FAB_HOP_LIMIT 0 →
          ∃ q : QPacket, (t.port d).queue 4 = (s.port d).queue 4 ++ [q] ∧ q.pkt.dst = r.requester ∧ q.pkt.kind = 9 ∧
            q.pkt.rid = r.rid ∧ q.pkt.tgen = s.genOf r.unit ∧
            q.pkt.data = statusBytes r.unit (s.genOf r.unit) { status := 2, inReset := s.inReset r.unit })) ∧
      (s.inReset r.unit = false → r.tgen % 16 = s.genOf r.unit → t = s) := by
  have hway := gatekeep_way s r.unit r.posted r.tgen r.requester r.rid
  refine ⟨_, rfl, hway.mem rfl, hway.parts rfl, hway.host_eq rfl, fun hdown hposted => ?_, fun hans => ?_, fun hup hgen => ?_⟩
  · rw [gatekeep_drop (by rw [hposted]; exact gateAct_drop hdown _)]
    exact ⟨rd_bumpSat_same .., rfl, rfl⟩
  · rw [gatekeep_answer (gateAct_answer hans)]
    have hbump := answers_way s r.unit
    have hgen := genOf_answers s r.unit
    refine ⟨?_, fun hme => ?_, fun hne d hd hport hdet hup hops => ?_⟩
    · rw [Counted, (statusReply_way ..).rd R.RST_GK_ANSWERS r.unit rfl, rd_bumpSat_same]
    · rw [statusReply_own (s := s.bumpSat R.RST_GK_ANSWERS r.unit 1) hme, hgen]
      rfl
    · have hfree : HopFree [0x2020] := by unfold HopFree; decide
      have hver : (s.bumpSat R.RST_GK_ANSWERS r.unit 1).injVer = s.injVer := rd_bumpSat_ne (by decide)
      have hqueued := statusReply_queued (s := s.bumpSat R.RST_GK_ANSWERS r.unit 1) hne
        (by rw [hbump.dimPort_eq hfree, hver, hd]) hport (by rw [hbump.detourOf_eq hfree, hver, hdet])
        (by rw [hbump.portUp_eq hfree, hup]) (by rw [hbump.rd R.FAB_HOP_LIMIT 0 rfl]; exact hops)
        r.rid r.unit { status := 2, inReset := s.inReset r.unit }
      rw [hgen] at hqueued
      exact hqueued
  · exact gatekeep_pass (gateAct_pass hup hgen _)

/-- The reply of a request outstanding, as its command takes it. -/
theorem replyReceive_taken {s : State} {requester rid chip unit gen : Nat} {data : List Byte} {bad : Bool} {o : OutReq}
    (hme : requester = s.me) (ho : mapFind s.rst.outstanding rid = some o) (hgen : o.tgen % 16 = gen) :
    exec (.replyReceive requester rid chip unit gen data bad) s = .next (serveReads (match o.mover with
      | some m => takeReply (s.modRst fun r => { r with outstanding := mapDel r.outstanding rid }) m data bad
      | none => s.modRst fun r => { r with outstanding := mapDel r.outstanding rid })) := by
  show execReplyReceive requester rid chip unit gen data bad s = _
  rw [execReplyReceive, if_neg (not_not.2 hme), ho]
  exact if_neg (not_not.2 hgen)

theorem replyReceive_late {s : State} {requester rid chip unit gen : Nat} {data : List Byte} {bad : Bool}
    (hme : requester = s.me) (h : ∀ o, mapFind s.rst.outstanding rid = some o → o.tgen % 16 ≠ gen) :
    exec (.replyReceive requester rid chip unit gen data bad) s = .next (dropLate s unit gen chip) := by
  show execReplyReceive requester rid chip unit gen data bad s = _
  rw [execReplyReceive, if_neg (not_not.2 hme)]
  cases ho : mapFind s.rst.outstanding rid with
  | none => rfl
  | some o => exact if_pos (h o ho)

theorem replyReceive_spec (s : State) (requester rid chip unit gen : Nat) (data : List Byte) (bad : Bool) :
    Does (.replyReceive requester rid chip unit gen data bad) s fun t =>
      (requester ≠ s.me → t = s) ∧
      (requester = s.me → (∀ o, mapFind s.rst.outstanding rid = some o → o.tgen % 16 ≠ gen) →
        Counted s t R.RST_LATE 0 1 ∧ t.mem = s.mem ∧ t.rst.outstanding = s.rst.outstanding ∧ t.host = s.host) ∧
      (∀ o, requester = s.me → mapFind s.rst.outstanding rid = some o → o.tgen % 16 = gen → s.router.reads = [] →
        (o.mover = none → mapFind t.rst.outstanding rid = none ∧ t.mem = s.mem ∧ t.rd R.RST_LATE 0 = s.rd R.RST_LATE 0) ∧
        ∀ m x, o.mover = some m → s.host.movers = [(m, x)] → s.rst.outstanding = [(rid, o)] → s.msys.held = [] →
          x.started = true → x.outcome = none → x.cmd.opcode = 2 → x.next < x.cmd.len →
          s.isLocal x.cmd.part (x.cmd.devAddr + x.next) = false → s.isLocal x.cmd.part x.cmd.devAddr = false →
          s.power.holdUnplanned = false → x.bad = none → bad = false → Wf s →
          let n := min 3584 (x.cmd.len - x.next)
          memRead t.host.mem (x.cmd.hostAddr + x.next) n = sliceZ data 0 n ∧
            (x.next + n = x.cmd.len → (t.mover m).outcome = some (0, 0, x.cmd.len))) := by
  by_cases hme : requester = s.me
  · cases ho : mapFind s.rst.outstanding rid with
    | none =>
      obtain ⟨hcount, hmem, hout, hhost, -⟩ := dropLate_spec s unit gen chip
      exact ⟨_, replyReceive_late hme (fun o h => by rw [ho] at h; exact absurd h nofun), fun hne => absurd hme hne,
        fun _ _ => ⟨hcount, hmem, hout, hhost⟩, fun o _ h => absurd h nofun⟩
    | some o =>
      by_cases hgen : o.tgen % 16 = gen
      · refine ⟨_, replyReceive_taken hme ho hgen, fun hne => absurd hme hne, fun _ h => absurd hgen (h o rfl), fun o' _ ho' _ hreads => ?_⟩
        obtain rfl := Option.some.inj ho'
        refine ⟨fun hnone => ?_, fun m x hm hmovers hout hheld hst hopen hop hlt _ hfar hcap hbad hgood hwf => ?_⟩
        · rw [hnone]
          dsimp only
          rw [serveReads_none (s := s.modRst fun r => { r with outstanding := mapDel r.outstanding rid }) hreads]
          exact ⟨mapFind_mapDel_same .., rfl, rfl⟩
        · rw [hm]
          have hpiece : pieceLen (s.modRst fun r => { r with outstanding := mapDel r.outstanding rid }) x = min 3584 (x.cmd.len - x.next) := by
            have hnear : nearAddr (s.modRst fun r => { r with outstanding := mapDel r.outstanding rid }) x.cmd (srcOf x.cmd) = false := by
              rw [nearAddr, srcOf, if_pos (.inl hop)]
              exact hfar
            rw [pieceLen, if_neg (by rw [hop]; exact fun h => absurd h.1 (by decide)), hnear]
            rfl
          have hfree : cmdWaits (s.modRst fun r => { r with outstanding := mapDel r.outstanding rid }) m = false := by
            rw [cmdWaits]
            show ((mapDel s.rst.outstanding rid).any _ || s.msys.held.any _) = false
            rw [hout, hheld]
            simp [mapDel]
          obtain ⟨hland, hdone⟩ := takeReply_lands (s := s.modRst fun r => { r with outstanding := mapDel r.outstanding rid }) (data := data)
            hmovers hst hopen hop hlt hbad hwf.hostMem hfree hcap hpiece
          have hserve := serveReads_steady (m := m) (takeReply (s.modRst fun r => { r with outstanding := mapDel r.outstanding rid }) m data false)
          rw [hgood]
          exact ⟨(congrArg (memRead · _ _) hserve.mem).trans hland, fun hl => hserve.done _ (hdone hl)⟩
      · obtain ⟨hcount, hmem, hout, hhost, -⟩ := dropLate_spec s unit gen chip
        exact ⟨_, replyReceive_late hme (fun o' h => by rw [ho] at h; exact Option.some.inj h ▸ hgen), fun hne => absurd hme hne,
          fun _ _ => ⟨hcount, hmem, hout, hhost⟩, fun o' _ h hg => absurd (Option.some.inj h ▸ hg) hgen⟩
  · exact ⟨s, if_pos hme, fun _ => rfl, fun h => absurd h hme, fun o h => absurd h hme⟩

theorem noteGen_way (s : State) (chip unit gen : Nat) : Keeps [14, 0x2021] s (noteGen s chip unit gen) := noteGen_keeps Sub.rfl (Keeps.refl _ s)

/-- The generation noted of another chip's domain: the table of what is known, and its length. -/
theorem noteGen_eq {s : State} {chip : Nat} (h : chip ≠ s.me) (unit gen : Nat) :
    ∃ l : List (Nat × Nat), noteGen s chip unit gen = (s.modRst fun r => { r with remote := l }).wr R.RST_GEN_CACHE 0 l.length := ⟨_, if_neg h⟩

theorem rd_noteGen (s : State) (chip unit gen : Nat) : (noteGen s chip unit gen).rd R.RST_LATE 0 = s.rd R.RST_LATE 0 := by
  by_cases h : chip = s.me
  · rw [noteGen, if_pos h]
  · obtain ⟨l, hl⟩ := noteGen_eq h unit gen
    rw [hl]
    exact rd_wr_ne _ _ (by decide)

theorem noteGen_outstanding (s : State) (chip unit gen : Nat) : (noteGen s chip unit gen).rst.outstanding = s.rst.outstanding := by
  by_cases h : chip = s.me
  · rw [noteGen, if_pos h]
  · obtain ⟨l, hl⟩ := noteGen_eq h unit gen
    rw [hl, (wr_keeps (T := [0x2021]) Sub.rfl (Keeps.refl _ _)).rst_eq rfl]
    rfl

theorem mapFind_of_has {α : Type} {l : Map α} {k : Nat} (h : mapHas l k = true) : ∃ v, mapFind l k = some v := by
  induction l with
  | nil => simp [mapHas] at h
  | cons e rest ih =>
    obtain ⟨j, v⟩ := e
    by_cases hj : j = k
    · exact ⟨v, if_pos hj⟩
    · obtain ⟨w, hw⟩ := ih (by simpa [mapHas, hj] using h)
      exact ⟨w, (if_neg hj).trans hw⟩

/-- A status reply for a request outstanding, that does not send it again. -/
theorem statusReply_ends {s u : State} {m rid status : Nat} {o : OutReq} (ho : mapFind s.rst.outstanding rid = some o) (hm : o.mover = some m)
    (hhas : mapHas s.host.movers m = true) (hopen : (s.mover m).outcome = none) (hu : u.rst.outstanding = s.rst.outstanding) (hh : u.host = s.host) :
    ((serveReads (failRid u rid status 0)).mover m).outcome = some (status, 0, 0) := by
  obtain ⟨x, hx⟩ := mapFind_of_has hhas
  rw [mover_of_find hx] at hopen
  refine (serveReads_steady _).done _ (failRid_outcome (x := x) ?_ (by rw [hh]; exact hx) hopen)
  rw [ridMover, hu, ho]
  exact hm

/-- The request sent again with the generation learnt (R318). -/
def sentAgain (o : OutReq) (gen : Nat) : OutReq := { o with tgen := gen, resent := true, pkt := { o.pkt with tgen := gen } }

/-- The state in which a request is sent again. -/
def sendingAgain (s : State) (chip unit gen rid : Nat) (o : OutReq) : State :=
  (noteGen s chip unit gen).modRst fun r => { r with outstanding := mapPut r.outstanding rid (sentAgain o gen) }

section
variable {s : State} {requester rid chip unit gen : Nat} {st : StatusBits} {o : OutReq}

theorem statusReply_failed (hme : requester = s.me) (ho : mapFind s.rst.outstanding rid = some o) (hst : st.status ≠ 2) :
    exec (.statusReply requester rid chip unit gen st) s = .next (serveReads (failRid s rid st.status 0)) := by
  show execStatusReply requester rid chip unit gen st s = _
  rw [execStatusReply, if_neg (not_not.2 hme), ho]
  exact if_pos hst

theorem statusReply_refused (hme : requester = s.me) (ho : mapFind s.rst.outstanding rid = some o) (hst : st.status = 2)
    (h : o.resent = true ∨ st.inReset = true ∨ (s.knownGen chip unit).isSome = true) :
    exec (.statusReply requester rid chip unit gen st) s = .next (serveReads (failRid (noteGen s chip unit gen) rid 2 0)) := by
  show execStatusReply requester rid chip unit gen st s = _
  rw [execStatusReply, if_neg (not_not.2 hme), ho]
  dsimp only
  rw [if_neg (not_not.2 hst), if_neg]
  rintro ⟨hk, hr, hs⟩
  simp [hk, hr, hs] at h

theorem statusReply_again (hme : requester = s.me) (ho : mapFind s.rst.outstanding rid = some o) (hst : st.status = 2) (hs : o.resent = false)
    (hr : st.inReset = false) (hk : s.knownGen chip unit = none) :
    exec (.statusReply requester rid chip unit gen st) s =
      .next (handOver (sendingAgain s chip unit gen rid o) { pkt := { o.pkt with tgen := gen } }) := by
  show execStatusReply requester rid chip unit gen st s = _
  rw [execStatusReply, if_neg (not_not.2 hme), ho]
  dsimp only
  rw [if_neg (not_not.2 hst), if_pos ⟨by rw [hk]; rfl, hr, hs⟩]
  rfl

theorem statusReply_late (hme : requester = s.me) (ho : mapFind s.rst.outstanding rid = none) :
    exec (.statusReply requester rid chip unit gen st) s = .next (dropLate (noteGen s chip unit gen) unit gen chip) := by
  show execStatusReply requester rid chip unit gen st s = _
  rw [execStatusReply, if_neg (not_not.2 hme), ho]

end

theorem statusReply_spec (s : State) (requester rid chip unit gen : Nat) (st : StatusBits) :
    Does (.statusReply requester rid chip unit gen st) s fun t =>
      (requester ≠ s.me → t = s) ∧
      (requester = s.me → mapFind s.rst.outstanding rid = none → Counted s t R.RST_LATE 0 1 ∧ t.mem = s.mem ∧
        (chip ≠ s.me → t.knownGen chip unit = some (gen % 16))) ∧
      ∀ o m, requester = s.me → mapFind s.rst.outstanding rid = some o → o.mover = some m → mapHas s.host.movers m = true →
        (s.mover m).outcome = none →
        (st.status ≠ 2 → (t.mover m).outcome = some (st.status, 0, 0)) ∧
        (st.status = 2 → o.resent = true ∨ st.inReset = true ∨ (s.knownGen chip unit).isSome = true →
          (t.mover m).outcome = some (2, 0, 0) ∧ (chip ≠ s.me → t.knownGen chip unit = some (gen % 16))) ∧
        (st.status = 2 → o.resent = false → st.inReset = false → s.knownGen chip unit = none →
          (t.mover m).outcome = none ∧ t.knownGen chip unit = some (gen % 16) ∧
            mapFind t.rst.outstanding rid = some { o with tgen := gen, resent := true, pkt := { o.pkt with tgen := gen } }) := by
  have hchip : (noteGen s chip unit gen).me = s.me := (noteGen_way ..).chip_eq rfl
  by_cases hme : requester = s.me
  case neg => exact ⟨s, if_pos hme, fun _ => rfl, fun h => absurd h hme, fun o m h => absurd h hme⟩
  cases ho : mapFind s.rst.outstanding rid with
  | none =>
    obtain ⟨hcount, hmem, -, -, hremote, hd⟩ := dropLate_spec (noteGen s chip unit gen) unit gen chip
    refine ⟨_, statusReply_late hme ho, fun h => absurd hme h, fun _ _ => ⟨?_, hmem.trans ((noteGen_way ..).mem rfl), fun hne => ?_⟩,
      fun o m _ h => absurd h nofun⟩
    · rw [Counted, ← rd_noteGen s chip unit gen]
      exact hcount
    · rw [knownGen_of hremote hd (hchip ▸ hne), knownGen_noteGen hne]
  | some o =>
    by_cases hst : st.status = 2
    case neg =>
      refine ⟨_, statusReply_failed hme ho hst, fun h => absurd hme h, fun _ h => absurd h nofun, fun o' m _ ho' hm hhas hopen => ?_⟩
      obtain rfl := Option.some.inj ho'
      exact ⟨fun _ => statusReply_ends ho hm hhas hopen rfl rfl, fun h => absurd h hst, fun h => absurd h hst⟩
    by_cases hagain : o.resent = true ∨ st.inReset = true ∨ (s.knownGen chip unit).isSome = true
    · refine ⟨_, statusReply_refused hme ho hst hagain, fun h => absurd hme h, fun _ h => absurd h nofun, fun o' m _ ho' hm hhas hopen => ?_⟩
      obtain rfl := Option.some.inj ho'
      refine ⟨fun h => absurd hst h, fun _ _ => ⟨statusReply_ends ho hm hhas hopen (noteGen_outstanding ..) ((noteGen_way ..).host_eq rfl), fun hne => ?_⟩,
        fun _ hs hr hk => ?_⟩
      · have hsteady : Steady m (noteGen s chip unit gen) _ := (failRid_steady rid 2 0).trans (serveReads_steady _)
        rw [knownGen_of hsteady.remote hsteady.chip (hchip ▸ hne), knownGen_noteGen hne]
      · simp [hs, hr, hk] at hagain
    · obtain ⟨hs, hr, hk⟩ : o.resent = false ∧ st.inReset = false ∧ s.knownGen chip unit = none := by simpa using hagain
      have hhand := handOver_handed (s := sendingAgain s chip unit gen rid o) { o.pkt with tgen := gen }
      refine ⟨_, statusReply_again hme ho hst hs hr hk, fun h => absurd hme h, fun _ h => absurd h nofun, fun o' m _ ho' hm hhas hopen => ?_⟩
      obtain rfl := Option.some.inj ho'
      refine ⟨fun h => absurd hst h, fun _ h => absurd h hagain, fun _ _ _ _ => ⟨?_, ?_, ?_⟩⟩
      · have hhost : (sendingAgain s chip unit gen rid o).host = s.host := (noteGen_way ..).host_eq rfl
        rw [State.mover, hhand.host, hhost]
        exact hopen
      · have hne : chip ≠ s.me := by
          rintro rfl
          simp [State.knownGen] at hk
        rw [knownGen_of (congrArg ResetUnit.remote hhand.rst) hhand.chip (s := sendingAgain s chip unit gen rid o)]
        · exact knownGen_noteGen hne
        · show chip ≠ (noteGen s chip unit gen).me
          rw [hchip]
          exact hne
      · rw [hhand.rst]
        exact mapFind_mapPut_same ..

/-- Settles O39: requests to domains by generation, and the replies that end or send them again. -/
theorem requestsAndReplies : Obligations.RequestsAndReplies := by
  intro s
  refine ⟨fun r => ?_, fun requester rid chip unit gen data bad => ?_, fun requester rid chip unit gen st => ?_⟩
  · exact gatekeeper_spec s r
  · exact replyReceive_spec s requester rid chip unit gen data bad
  · exact statusReply_spec s requester rid chip unit gen st

end Sys2Proof.Machine
end

section
/-! The data commands of the host (R185, R186): a plan load that takes its image page by page, from a host memory whose table lists an
address twice. -/

namespace Sys2Proof.Machine

open Sys2Proof

/-! ### A page of an image (R64) -/

/-- The state in which a page of an image from host memory has come and is staged, in a partition without plan slices. -/
def pageStaged (s : State) (m : Nat) (x : Mover) (n : Nat) : State :=
  nextPiece ((havePiece s m [(memRead s.host.mem (x.cmd.hostAddr + x.next) n, false)]).modPart x.cmd.part fun q =>
    { q with staged := q.staged ++ memRead s.host.mem (x.cmd.hostAddr + x.next) n }) m n

section
variable {s : State} {m p : Nat} {x : Mover}

/-- A command that loads an image from host memory into a partition without plan slices. -/
structure Loads (s : State) (m p : Nat) (x : Mover) : Prop where
  goes : Goes s m
  found : mapFind s.host.movers m = some x
  opcode : x.cmd.opcode = 0x10
  fromHost : bitOf x.cmd.arg0 0 = false
  got : x.got = false
  part : x.cmd.part = p
  slices : s.slicesUp p 1 = []

theorem srcOf_load (hop : x.cmd.opcode = 0x10) (hbit : bitOf x.cmd.arg0 0 = false) : srcOf x.cmd = none := by
  rw [srcOf, hop, hbit]
  rfl

theorem dstOf_load (hop : x.cmd.opcode = 0x10) : dstOf x.cmd = none := by
  rw [dstOf, hop]
  rfl

theorem pieceLen_load (hop : x.cmd.opcode = 0x10) (hbit : bitOf x.cmd.arg0 0 = false) :
    pieceLen s x = min pageBytes (x.cmd.len - x.next) := by
  rw [pieceLen, srcOf_load hop hbit, if_pos ⟨hop, rfl⟩]

theorem stageRange_none (h : s.slicesUp p 1 = []) (o n : Nat) : s.stageRange p o n = [] := by
  rw [State.stageRange, h]
  simp

theorem stageRuns_none (h : s.slicesUp p 1 = []) (unit off : Nat) (l : List (List Byte × Bool)) : stageRuns s unit p off l = s := by
  induction l generalizing off with
  | nil => rfl
  | cons r rest ih => rw [stageRuns, stageRange_none h, writeRange, ih]

theorem stagePiece_none {n : Nat} (h : s.slicesUp x.cmd.part 1 = []) : stagePiece s m x n =
    (s.modPart x.cmd.part fun q => { q with staged := q.staged ++ runBytes x.runs }, true) := by
  rw [stagePiece, stageRange_none h, stageRuns_none h]
  rfl

theorem Keeps.slicesUp_eq {T : List Nat} {t : State} (h : Keeps T s t) (hs : (T.contains 0x3400 || T.contains 31) = false)
    (hh : (T.contains 0x3411 || T.contains 31) = false) (p use : Nat) : t.slicesUp p use = s.slicesUp p use := by
  simp only [State.slicesUp, State.slicesAll, h.rd R.MEM_SLICE_PART _ hs, h.rd R.MEM_SLICE_USE _ hs, h.rd R.MEM_HBM_STATE _ hh]

theorem havePiece_way (s : State) (m : Nat) (l : List (List Byte × Bool)) : Keeps [12] s (havePiece s m l) := modMover_way ..

/-- A page of an image moves from host memory to the partition's stage. -/
theorem runPieces_page (h : Loads s m p x) (hlt : x.next < x.cmd.len) (fuel : Nat) (ecc : List EccHit) :
    runPieces (fuel + 1) s m ecc = runPieces fuel (pageStaged s m x (min pageBytes (x.cmd.len - x.next))) m [] := by
  have hmv := mover_of_find h.found
  have htake : takePiece s m (s.mover m) (pieceLen s (s.mover m)) ecc =
      (havePiece s m [(memRead s.host.mem (x.cmd.hostAddr + x.next) (min pageBytes (x.cmd.len - x.next)), false)], true) := by
    rw [hmv, takePiece, srcOf_load h.opcode h.fromHost, pieceLen_load h.opcode h.fromHost]
  refine runPieces_take h.goes (by rw [hmv]; exact hlt) (by rw [hmv]; exact h.got) htake ?_
  have hhave := havePiece_way s m [(memRead s.host.mem (x.cmd.hostAddr + x.next) (min pageBytes (x.cmd.len - x.next)), false)]
  have hgot : (havePiece s m [(memRead s.host.mem (x.cmd.hostAddr + x.next) (min pageBytes (x.cmd.len - x.next)), false)]).mover m = _ :=
    mover_modMover h.found _
  have hbytes : (runBytes [(memRead s.host.mem (x.cmd.hostAddr + x.next) (min pageBytes (x.cmd.len - x.next)), false)]) =
      memRead s.host.mem (x.cmd.hostAddr + x.next) (min pageBytes (x.cmd.len - x.next)) := by simp [runBytes]
  rw [hgot, putPiece, dstOf_load h.opcode]
  dsimp only
  rw [if_neg (by rw [h.opcode]; decide), stagePiece_none (by rw [hhave.slicesUp_eq rfl rfl, h.part, h.slices]), if_pos rfl, hbytes,
    show (memRead s.host.mem (x.cmd.hostAddr + x.next) (min pageBytes (x.cmd.len - x.next))).length = min pageBytes (x.cmd.len - x.next) from
      length_mapSlice ..]
  rfl

/-- The command after a page of its image. -/
def afterPage (x : Mover) (n : Nat) : Mover :=
  { x with
    next := x.next + n, got := false, runs := [], bad := match x.bad with
      | some o => some o
      | none => none }

/-- The partition's stage and the command after a page, which goes on. -/
theorem pageStaged_spec (h : Loads s m p x) (n : Nat) :
    Loads (pageStaged s m x n) m p (afterPage x n) ∧ (pageStaged s m x n).host.mem = s.host.mem ∧
      ((pageStaged s m x n).part p).staged = (s.part p).staged ++ memRead s.host.mem (x.cmd.hostAddr + x.next) n := by
  have hfound : mapFind (havePiece s m [(memRead s.host.mem (x.cmd.hostAddr + x.next) n, false)]).host.movers m = some _ :=
    find_modMover h.found _
  have hgoes : Goes (havePiece s m [(memRead s.host.mem (x.cmd.hostAddr + x.next) n, false)]) m :=
    h.goes.modMover (fun _ => rfl) fun _ => rfl
  have hway : Keeps [6, 12] s (pageStaged s m x n) :=
    modMover_keeps (.of rfl Sub.rfl) (modPart_keeps (.of rfl Sub.rfl) ((havePiece_way ..).mono (.of rfl Sub.rfl)))
  refine ⟨⟨Goes.nextPiece (Goes.of_same (t := State.modPart _ _ _) hgoes rfl rfl rfl rfl rfl) n, find_modMover (s := State.modPart _ _ _) hfound _, h.opcode, h.fromHost, rfl, h.part, ?_⟩, ?_, ?_⟩
  · rw [hway.slicesUp_eq rfl rfl, h.slices]
  · exact (modMover_mem ..).trans (modMover_mem ..)
  · rw [pageStaged, nextPiece, (modMover_way ..).part_eq rfl, h.part, part_modPart_same, (havePiece_way ..).part_eq rfl]

end

/-! ### A table that lists an address twice -/

/-- A run of values past the first key of a table reads only defaults. -/
theorem mapRun_past {α : Type} {d : α} {e : Nat × α} {r : Map α} {k : Nat} (h : e.1 < k) (n : Nat) : mapRun d (e :: r) k n = List.replicate n d := by
  induction n generalizing k with
  | zero => rfl
  | succ n ih => rw [mapRun, if_neg (by omega), ih (by omega), List.replicate_succ]

/-- A host memory whose table lists address 0 twice and then address 65,536. -/
def twiceListed : List Host.Cell := [(0, 1), (0, 1), (65536, 1)]

theorem memRead_twice (n : Nat) : memRead twiceListed 0 (n + 1) = 1 :: List.replicate n 0 :=
  congrArg (List.cons 1) (mapRun_past (e := (0, 1)) (Nat.zero_lt_one) n)

theorem memRead_second : memRead twiceListed 65536 1 = [1] := by decide

/-- The whole image ends in another byte than its two pages. -/
theorem memRead_pages : memRead twiceListed 0 65536 ++ memRead twiceListed 65536 1 ≠ memRead twiceListed 0 65537 := by
  intro h
  have hlast := congrArg List.getLast? h
  rw [memRead_second, List.getLast?_concat, memRead_twice 65536, List.getLast?_cons, List.getLast?_replicate, if_neg (by decide)] at hlast
  exact absurd (Option.some.inj hlast) (by decide)

/-! ### The load refuted -/

/-- A PLAN_LOAD of 65,537 bytes of that memory, of a partition that its function owns. -/
def twoPages : Mover := { ({} : Mover) with cmd := { ({} : Cmd) with opcode := 0x10, len := 65537 } }

def loadingState : State :=
  { ({} : State) with
    od := [(odKey R.RST_STAGE 0, 8), (odKey R.RST_DOM_STATE uEndpoint, 0), (odKey R.CMP_PART_OWNER 0, 0)]
    rst := { ({} : ResetUnit) with pwrEn := true, pwrGood := true, inReset := false, rrs := false }
    host := { ({} : HostIf) with movers := [(0, twoPages)], mem := twiceListed } }

theorem loadingState_may : mayBegin loadingState 0 0x10 = true := by decide +kernel

theorem loadingState_owns : loadingState.owns 0 0 = true := by decide +kernel

theorem loadingState_empty : loadingState.pstate 0 = psEmpty := by decide +kernel

theorem loadingState_slices : loadingState.slicesUp 0 1 = [] := by decide +kernel

/-- The state in which the load has begun. -/
def loadingBegun : State :=
  ((begin_ loadingState 0).modPart 0 fun q => { q with staged := [], stagedBy := some 0 }).wr R.CMP_PLAN_STATE 0 psLoading

theorem translate_off (s : State) (m : Nat) (c : Cmd) (fn : Nat) (f : State → State) : translate s m c fn .off f = f s := by
  rw [translate, ite_self]

theorem planLoad_begun : planLoad loadingState 0 .off = runCmd loadingBegun 0 [] := by
  rw [planLoad, beginWith_may loadingState_may]
  have hmv : loadingState.mover 0 = twoPages := rfl
  have howns : (begin_ loadingState 0).owns 0 0 = true := (owns_begin ..).trans loadingState_owns
  have hempty : (begin_ loadingState 0).pstate 0 = psEmpty := ((begin_way ..).pstate_eq rfl 0).trans loadingState_empty
  rw [hmv]
  show (if (begin_ loadingState 0).owns 0 0 = false then _ else if (begin_ loadingState 0).pstate 0 ≠ psEmpty then _ else _) = _
  rw [if_neg (by rw [howns]; decide), if_neg (not_not.2 hempty)]
  exact translate_off ..

/-- The command as it moves its pages. -/
def pagesMover : Mover := { twoPages with started := true, deadline := (loadingBegun.mover 0).deadline }

/-- The state in which the load moves its pages. -/
def pagesMove : State := loadingBegun.modHost fun h => { h with cause := some (pagesMover.cmd.layer, pagesMover.cmd.operator) }

theorem loadingBegun_way : Keeps [6, 12, 0x3000] (begin_ loadingState 0) loadingBegun :=
  wr_keeps (.of rfl Sub.rfl) (modPart_keeps (.of rfl Sub.rfl) (Keeps.refl _ _))

theorem loadingBegun_found : mapFind loadingBegun.host.movers 0 = some pagesMover := by decide +kernel

theorem loadingBegun_waits : cmdWaits loadingBegun 0 = false := by decide +kernel

theorem loadingBegun_slices : loadingBegun.slicesUp 0 1 = [] := by
  rw [loadingBegun_way.slicesUp_eq rfl rfl, (begin_way ..).slicesUp_eq rfl rfl, loadingState_slices]

theorem pagesMove_way : Keeps [12] loadingBegun pagesMove := modHost_keeps (fun _ h => h) Sub.rfl (Keeps.refl _ _)

theorem pagesMove_found : mapFind pagesMove.host.movers 0 = some pagesMover := loadingBegun_found

theorem pagesMove_goes : Goes pagesMove 0 := by
  have hmv : pagesMove.mover 0 = pagesMover := mover_of_find pagesMove_found
  refine ⟨congrArg Mover.started hmv, congrArg Mover.outcome hmv, ?_, ?_⟩
  · rw [cmdWaits, pagesMove_way.rst_eq rfl, pagesMove_way.msys_eq rfl]
    exact loadingBegun_waits
  · rw [pagesMove_way.power_eq rfl, loadingBegun_way.power_eq rfl, (begin_way ..).power_eq rfl]
    rfl

theorem pagesMove_loads : Loads pagesMove 0 0 pagesMover :=
  ⟨pagesMove_goes, pagesMove_found, rfl, rfl, rfl, rfl, by rw [pagesMove_way.slicesUp_eq rfl rfl, loadingBegun_slices]⟩

theorem pagesMove_mem : pagesMove.host.mem = twiceListed := rfl

theorem pagesMove_staged : (pagesMove.part 0).staged = [] := by
  rw [pagesMove_way.part_eq rfl, loadingBegun, (wr_keeps (T := [0x3000]) Sub.rfl (Keeps.refl _ _)).part_eq rfl, part_modPart_same]

/-- The two pages as they are staged. -/
theorem staged_twoPages : ((runPieces 21 pagesMove 0 []).part 0).staged = memRead twiceListed 0 65536 ++ memRead twiceListed 65536 1 := by
  obtain ⟨hfirst, hmem, hstaged⟩ := pageStaged_spec pagesMove_loads 65536
  obtain ⟨hsecond, -, hboth⟩ := pageStaged_spec hfirst 1
  rw [runPieces_page pagesMove_loads (by decide)]
  show ((runPieces 20 (pageStaged pagesMove 0 pagesMover 65536) 0 []).part 0).staged = _
  rw [runPieces_page hfirst (by decide)]
  show ((runPieces 19 (pageStaged (pageStaged pagesMove 0 pagesMover 65536) 0 (afterPage pagesMover 65536) 1) 0 []).part 0).staged = _
  have hdone : (pageStaged (pageStaged pagesMove 0 pagesMover 65536) 0 (afterPage pagesMover 65536) 1).mover 0 =
      afterPage (afterPage pagesMover 65536) 1 := mover_of_find hsecond.found
  rw [runPieces_moved hsecond.goes (by rw [hdone]; decide), hdone, moved, if_pos hsecond.opcode, hboth, hstaged, hmem, pagesMove_mem,
    pagesMove_staged, List.nil_append]
  rfl

/-- The whole image, as one read of host memory gives it. -/
theorem wholeImage : memRead loadingState.host.mem (loadingState.mover 0).cmd.hostAddr (loadingState.mover 0).cmd.len = memRead twiceListed 0 65537 := rfl

theorem part_asCmd (s : State) (c : Cmd) (f : State → State) (p : Nat) :
    (asCmd s c f).part p = (f (s.modHost fun h => { h with cause := some (c.layer, c.operator) })).part p :=
  (modHost_keeps (fun _ h => h) Sub.rfl (Keeps.refl [12] _)).part_eq rfl p

theorem runCmd_pages : (runCmd loadingBegun 0 []).part 0 = (runPieces 21 pagesMove 0 []).part 0 := by
  have hmv : loadingBegun.mover 0 = pagesMover := mover_of_find loadingBegun_found
  have hfuel : pagesMover.cmd.len / 3584 + 3 = 21 := by decide
  rw [runCmd, hmv, hfuel, part_asCmd, ← pagesMove]

/-- Refutes O37: a load takes its image from host memory page by page (R64, R118). Where the table of host memory lists an address
twice, which only a state that is not well formed has, its pages are not the bytes that one read of the whole gives, and the clause of the
load, unlike that of READ, does not ask for a well-formed state. -/
theorem not_dataCommands : ¬ Obligations.DataCommands := by
  intro h
  obtain ⟨-, -, hload, -⟩ := h loadingState 0
  obtain ⟨t, ht, -, hstaged, -⟩ := (hload loadingState_may).2 loadingState_owns loadingState_empty (by decide) rfl rfl rfl rfl rfl (by decide)
    fun k hk => by
      have hk' : k ∈ ([] : List Nat) := loadingState_slices ▸ hk
      exact absurd hk' (List.not_mem_nil)
  have hrun : exec (.planLoad 0 .off) loadingState = .next (planLoad loadingState 0 .off) := rfl
  obtain rfl := Host.Outcome.next.inj (hrun.symm.trans ht)
  rw [planLoad_begun, wholeImage] at hstaged
  have hpart : (loadingState.mover 0).cmd.part = 0 := rfl
  rw [hpart, runCmd_pages] at hstaged
  exact memRead_pages (staged_twoPages.symm.trans hstaged)

end Sys2Proof.Machine
end

section
/-! The movers' COPY and COLL (R82, R171, R172): what a transfer takes from its source, what starts a collective, and the chunks that come
before it and after. -/

namespace Sys2Proof.Machine

open Sys2Proof

/-! ### Bytes read in runs (R96, R185) -/

section
variable {s : State}

/-- The pieces of a range give back the bytes from its start on. -/
theorem flatten_pieces {unit : Nat} (hu : 0 < unit) (bs : List Byte) {base fuel off n : Nat} (hf : n = 0 ∨ off % unit + n ≤ fuel * unit)
    (hb : base ≤ off) (hn : bs.length = off - base + n) :
    ((pieces fuel unit off n).map fun c => (bs.drop (c.1 - base)).take c.2).flatten = bs.drop (off - base) := by
  induction fuel generalizing off n with
  | zero => simp [pieces, show n = 0 by omega] at hn ⊢; omega
  | succ m ih =>
    by_cases h0 : n = 0
    · rw [pieces, if_pos h0]
      simp
      omega
    · have hlt := Nat.mod_lt off hu
      have hmul : (m + 1) * unit = m * unit + unit := Nat.succ_mul m unit
      have hrest : n - min n (unit - off % unit) = 0 ∨ (off + min n (unit - off % unit)) % unit + (n - min n (unit - off % unit)) ≤ m * unit := by
        by_cases hk : n ≤ unit - off % unit
        · exact .inl (by omega)
        · have hz : (off + (unit - off % unit)) % unit = 0 := by
            have := Nat.div_add_mod off unit
            have hoff : off + (unit - off % unit) = unit * (off / unit + 1) := by rw [Nat.mul_add]; omega
            rw [hoff, Nat.mul_mod_right]
          rw [Nat.min_eq_right (by omega), hz]
          omega
      rw [pieces, if_neg h0]
      simp only [List.map_cons, List.flatten_cons]
      rw [ih hrest (by omega) (by omega), show off + min n (unit - off % unit) - base = (off - base) + min n (unit - off % unit) by omega,
        ← List.drop_drop, List.take_append_drop]

/-- The runs of a chip range hold its bytes. -/
theorem runBytes_poisonRuns (a : Nat) (ecc : List EccHit) (bs : List Byte) : runBytes (poisonRuns s a ecc bs) = bs := by
  unfold poisonRuns
  dsimp only
  split
  · simp [runBytes]
  · rw [runBytes, List.map_map]
    refine (flatten_pieces (by decide) bs (.inr ?_) (Nat.le_refl a) (by omega)).trans (by simp)
    have := Nat.mod_lt a (show 0 < 8 by decide)
    omega

theorem runBytes_append (l l' : List (List Byte × Bool)) : runBytes (l ++ l') = runBytes l ++ runBytes l' := by simp [runBytes]

/-- The runs of a request hold the bytes of its ranges. -/
theorem runBytes_readRuns (unit : Nat) (rs : List (Nat × Nat)) (ecc : List EccHit) (s : State) :
    runBytes (readRuns s unit rs ecc).2 = (rs.map fun c => s.read c.1 c.2).flatten := by
  induction rs generalizing s ecc with
  | nil => rfl
  | cons c rest ih =>
    rw [readRuns]
    simp only [runBytes_append, runBytes_poisonRuns, ih, List.map_cons, List.flatten_cons]
    have hread (a n : Nat) (l : List EccHit) : (chipRead s unit c.1 c.2 l).1.read a n = s.read a n := by
      rw [State.read, State.read, (chipRead_keeps Sub.rfl (Keeps.refl _ s)).fst.mem rfl]
    simp only [hread]
    rfl

end

/-! ### COPY (R82) -/

section
variable {s : State} {i : Issue} {ch : Nat} {w : MovSlot}

theorem viewFree_copy : ViewFree [5, 6, 8, 9, 13, 16, 20, 0x3021, 0x3410, 0x3411, 0x4110, 0x4140, 0x6202, 0x7002, 0x8200, 0x9000, 0x9001, 0x9010] := by
  unfold ViewFree
  decide

/-- The state in which a slot of a mover reads its source: taken, its descriptor read and its start traced. -/
def moverBegun (s : State) (i : Issue) (con bit desc : Nat) : State :=
  traceRec (readDesc (takenState s i con) i desc).1 i.block bit (uMover i.block) desc i.seq false

theorem moverBegun_way (s : State) (i : Issue) (con bit desc : Nat) :
    Keeps [5, 6, 8, 9, 13, 16, 20, 0x3021, 0x3410, 0x3411, 0x4110, 0x4140, 0x6202, 0x7002, 0x8200, 0x9000, 0x9001, 0x9010] s (moverBegun s i con bit desc) :=
  traceRec_keeps (.of rfl Sub.rfl) (((takenState_keeps s i con).mono (.of rfl Sub.rfl)).trans (Keeps.mono (readDesc_way ..) (.of rfl Sub.rfl)))

/-- The transfer that a local COPY leaves in its channel. -/
def copyTransfer (s : State) (i : Issue) (w : MovSlot) (runs : List (List Byte × Bool)) (bad : Bool) : Transfer :=
  let d := s.desc i.block (mDesc w)
  { counter := mCtr w, toBlock := copyTo s i.block d.addrB (if mLines w = 0 then d.len else 128 * mLines w), dst := d.addrB,
    runs := runs.map fun c => (c.1, bad || c.2), desc := mDesc w, seq := i.seq }

theorem runBytes_marked (runs : List (List Byte × Bool)) (bad : Bool) : runBytes (runs.map fun c => (c.1, bad || c.2)) = runBytes runs := by
  simp [runBytes, Function.comp_def]

theorem planRuns_range {unit b a n : Nat} {rs : List (Nat × Nat)} {t : State} (h : t.planRange b a n = some rs) (ecc : List EccHit) :
    planRuns t unit b a n ecc = readRuns t unit rs ecc := by
  rw [planRuns, h]

/-- A local COPY leaves one transfer more in its channel, with the bytes of its source. -/
theorem copy_transfer {rs : List (Nat × Nat)} (htaken : Taken s i (conMover ch))
    (hrs : s.planRange i.block (s.desc i.block (mDesc w)).addrA
      (if mLines w = 0 then (s.desc i.block (mDesc w)).len else 128 * mLines w) = some rs)
    (hlocal : s.isLocal (s.partOf i.block) (s.desc i.block (mDesc w)).addrB = true) :
    Does (.copy i ch w []) s fun t => t.mem = s.mem ∧ ∃ x : Transfer,
      mapGet [] (t.block i.block).movers ch = mapGet [] (s.block i.block).movers ch ++ [x] ∧ x.dst = (s.desc i.block (mDesc w)).addrB ∧
        x.counter = mCtr w ∧ runBytes x.runs = (rs.map fun c => s.read c.1 c.2).flatten := by
  have hexec : exec (.copy i ch w []) s = .next (copy (takenState s i (conMover ch)) i ch w []) := by
    show execCopy i ch w [] s = _
    rw [execCopy, issueSlot, show (accept s i (conMover ch)).2 = true from htaken, accept_of_taken htaken]
    rfl
  have hbegun := moverBegun_way s i (conMover ch) 4 (mDesc w)
  have hdesc : (readDesc (takenState s i (conMover ch)) i (mDesc w)).2.1 = s.desc i.block (mDesc w) :=
    (readDesc_desc ..).trans (takenState_desc ..)
  have htk := takenState_keeps s i (conMover ch)
  have hfree : ViewFree [5, 16, 0x3021, 0x7002] := by
    unfold ViewFree
    decide
  have hloc : (takenState s i (conMover ch)).isLocal ((takenState s i (conMover ch)).partOf i.block) (s.desc i.block (mDesc w)).addrB = true := by
    rw [htk.partOf_eq rfl, State.isLocal, htk.rank_eq hfree]
    exact hlocal
  have hrange : (moverBegun s i (conMover ch) 4 (mDesc w)).planRange i.block (s.desc i.block (mDesc w)).addrA
      (if mLines w = 0 then (s.desc i.block (mDesc w)).len else 128 * mLines w) = some rs := by
    rw [hbegun.planRange_eq viewFree_copy, hrs]
  have hread : Keeps [6, 8, 9, 13, 16, 20, 0x3410, 0x3411, 0x4110, 0x4140, 0x6202, 0x7002, 0x9000, 0x9001, 0x9010]
      (moverBegun s i (conMover ch) 4 (mDesc w)) (readRuns (moverBegun s i (conMover ch) 4 (mDesc w)) (uMover i.block) rs []).1 :=
    (readRuns_keeps Sub.rfl (Keeps.refl _ _)).fst
  have heq : copy (takenState s i (conMover ch)) i ch w [] =
      (readRuns (moverBegun s i (conMover ch) 4 (mDesc w)) (uMover i.block) rs []).1.modBlock i.block (fun k =>
        { k with movers := mapPut k.movers ch (mapGet [] k.movers ch ++
          [copyTransfer (takenState s i (conMover ch)) i w (readRuns (moverBegun s i (conMover ch) 4 (mDesc w)) (uMover i.block) rs []).2
            (readDesc (takenState s i (conMover ch)) i (mDesc w)).2.2]) }) := by
    rw [← planRuns_range hrange, copyTransfer, takenState_desc]
    unfold copy
    dsimp only
    rw [hdesc, if_pos hloc]
    rfl
  refine ⟨_, hexec, ?_,
    copyTransfer (takenState s i (conMover ch)) i w (readRuns (moverBegun s i (conMover ch) 4 (mDesc w)) (uMover i.block) rs []).2
      (readDesc (takenState s i (conMover ch)) i (mDesc w)).2.2, ?_, ?_, rfl, ?_⟩
  · rw [heq]
    exact (hread.mem rfl).trans (hbegun.mem rfl)
  · obtain ⟨l, hl⟩ := traceRec_block (readDesc (takenState s i (conMover ch)) i (mDesc w)).1 i.block 4 (uMover i.block) (mDesc w) i.seq false
    have hmovers : ((moverBegun s i (conMover ch) 4 (mDesc w)).block i.block).movers = (s.block i.block).movers := by
      rw [moverBegun, hl]
      show ((readDesc _ _ _).1.block i.block).movers = _
      rw [(readDesc_way ..).block rfl, takenState_block]
      rfl
    rw [heq, block_modBlock_same, hread.block rfl, hmovers]
    exact mapGet_mapPut_same ..
  · rw [copyTransfer, takenState_desc]
  · refine (runBytes_marked ..).trans ?_
    rw [runBytes_readRuns]
    simp only [State.read, hbegun.mem rfl]

end

/-! ### Planned packets of a collective (R151, R169) -/

section
variable {s t u : State}

theorem deliverPkt_router {p : Packet} (hvc : p.vc = 1) (ecc : List EccHit) : (deliverPkt s p ecc).router = s.router := by
  have h0 : p.vc ≠ 0 := by omega
  rw [deliverPkt, if_neg h0]
  split
  · exact (ejectCast_keeps Sub.rfl (Keeps.refl _ s)).router_eq rfl
  split
  · exact (ejectPlanned_keeps Sub.rfl (Keeps.refl _ s)).router_eq rfl
  rw [if_neg (by omega), if_neg (by omega), if_neg (by omega)]
  rfl

theorem castRoute_router {q : QPacket} (hvc : q.pkt.vc = 1) (ecc : List EccHit) : (castRoute s q ecc).router = s.router := by
  have hcopy (c : Prop) [Decidable c] (v : State) (port : Nat) (p : Packet) : (if c then castCopy v port p else v).router = v.router := by
    split
    · exact (castCopy_keeps Sub.rfl (Keeps.refl _ v)).router_eq rfl
    · rfl
  unfold castRoute
  dsimp only
  split
  · exact forward_keep_router ..
  · rw [hcopy, hcopy, hcopy, (releasePkt_keeps Sub.rfl (Keeps.refl _ _)).router_eq rfl]
    exact deliverPkt_router hvc ecc

/-- A planned packet that asks nothing leaves the router's tables. -/
theorem inject_router {i : Inject} (hvc : i.vc = 1) (hk : i.kind ≠ 1) : (inject s i).router = s.router := by
  have hnote (v : State) (p : Packet) : (noteOut v i p).router = v.router := by
    unfold noteOut
    split <;> rfl
  unfold inject
  split
  · rfl
  split
  · exact (injectDenied_keeps Sub.rfl (Keeps.refl _ s)).router_eq rfl
  next dst _ =>
    dsimp only
    have hp (d g : Nat) : (packetOf s i d g).vc = 1 := hvc
    split
    · exact castRoute_router (q := { pkt := _ }) (hp ..) _
    split
    · rw [if_neg (by omega), deliverPkt_router (hp ..), hnote]
    rw [if_neg (by omega), if_neg (by simp [windowed, hp]), forward_keep_router, hnote]

/-- A collective goes on with the block and the counter that COLL gave it. -/
structure CollGoes (p k b ctr : Nat) (s : State) : Prop where
  started : (s.coll p k).started = true
  block : (s.coll p k).block = b
  counter : (s.coll p k).counter = ctr

variable {p k b ctr : Nat}

theorem CollGoes.of_router (h : CollGoes p k b ctr s) (ht : t.router = s.router) : CollGoes p k b ctr t := by
  have hc : t.coll p k = s.coll p k := by rw [State.coll, State.coll, ht]
  exact ⟨hc ▸ h.started, hc ▸ h.block, hc ▸ h.counter⟩

/-- The collective that a table lists for an entry is of that entry. -/
theorem coll_names (s : State) (p k : Nat) : (s.coll p k).part = p ∧ (s.coll p k).entry = k := by
  unfold State.coll
  cases h : s.router.colls.find? fun c => c.part == p && c.entry == k with
  | none => exact ⟨rfl, rfl⟩
  | some c => simpa using List.find?_some h

/-- A collective changed, where the change leaves its partition and its entry. -/
theorem coll_modColl {f : CollOp → CollOp} (hp : (f (s.coll p k)).part = p) (hk : (f (s.coll p k)).entry = k) :
    (modColl s p k f).coll p k = f (s.coll p k) := by
  rw [State.coll]
  show ((List.find? _ (_ ++ [f (s.coll p k)])).getD _) = _
  rw [List.find?_append, List.find?_eq_none.2]
  · simp [hp, hk]
  · intro c hc
    simpa [not_or, imp_iff_not_or] using (List.mem_filter.1 hc).2

theorem CollGoes.modColl {f : CollOp → CollOp} (h : CollGoes p k b ctr s) (hp : ∀ c, (f c).part = c.part) (hk : ∀ c, (f c).entry = c.entry)
    (hs : ∀ c, (f c).started = c.started) (hb : ∀ c, (f c).block = c.block) (hc : ∀ c, (f c).counter = c.counter) : CollGoes p k b ctr (modColl s p k f) := by
  obtain ⟨hpart, hentry⟩ := coll_names s p k
  have heq := coll_modColl (s := s) (f := f) ((hp _).trans hpart) ((hk _).trans hentry)
  exact ⟨by rw [heq, hs, h.started], by rw [heq, hb, h.block], by rw [heq, hc, h.counter]⟩

theorem CollGoes.arrived (h : CollGoes p k b ctr s) (f : List CollIn → List CollIn) :
    CollGoes p k b ctr (Machine.modColl s p k fun c => { c with arrived := f c.arrived }) :=
  h.modColl (fun _ => rfl) (fun _ => rfl) (fun _ => rfl) (fun _ => rfl) fun _ => rfl

theorem CollGoes.each {α : Type} {l : List α} {f : State → α → State} (h : CollGoes p k b ctr s)
    (hf : ∀ v x, CollGoes p k b ctr v → CollGoes p k b ctr (f v x)) : CollGoes p k b ctr (s.each l f) := by
  induction l generalizing s with
  | nil => exact h
  | cons x rest ih => exact ih (hf s x h)

theorem CollGoes.foldl {α : Type} {l : List α} {f : State → α → State} (h : CollGoes p k b ctr s)
    (hf : ∀ v x, CollGoes p k b ctr v → CollGoes p k b ctr (f v x)) : CollGoes p k b ctr (l.foldl f s) := by
  induction l generalizing s with
  | nil => exact h
  | cons x rest ih => exact ih (hf s x h)

theorem CollGoes.inject {i : Inject} (h : CollGoes p k b ctr s) (hvc : i.vc = 1) (hk : i.kind ≠ 1) : CollGoes p k b ctr (inject s i) :=
  h.of_router (inject_router hvc hk)

/-! ### What a collective does of itself (R171, R172) -/

theorem CollGoes.collSend (h : CollGoes p k b ctr s) (q e target chunk : Nat) (data : List Byte) (bad : Bool) :
    CollGoes p k b ctr (collSend s q e target chunk data bad) :=
  h.foldl fun _ _ hv => hv.inject rfl (by show (4 : Nat) ≠ 1; decide)

theorem CollGoes.collKeep (h : CollGoes p k b ctr s) (chunk : Nat) (data : List Byte) (bad : Bool) : CollGoes p k b ctr (collKeep s p k chunk data bad) :=
  h.modColl (fun _ => rfl) (fun _ => rfl) (fun _ => rfl) (fun _ => rfl) fun _ => rfl

theorem CollGoes.collFinish (h : CollGoes p k b ctr s) (chunk : Nat) (data : List Byte) (bad : Bool) : CollGoes p k b ctr (collFinish s p k chunk data bad) := by
  unfold Machine.collFinish
  refine CollGoes.each ?_ fun v x hv => hv.collSend ..
  split
  · exact h.collKeep ..
  · exact h

theorem CollGoes.treeStep (h : CollGoes p k b ctr s) (chunk : Nat) : CollGoes p k b ctr (treeStep s p k chunk) := by
  unfold Machine.treeStep
  dsimp only
  split
  · exact (h.arrived fun l => l.filter fun a => a.chunk != chunk).collFinish ..
  · exact h

theorem CollGoes.ringStep (h : CollGoes p k b ctr s) (chunk : Nat) (acc : List Byte) (bad : Bool) : CollGoes p k b ctr (ringStep s p k chunk acc bad) := by
  unfold Machine.ringStep
  dsimp only
  split
  · exact h.collFinish ..
  · exact h.collSend ..

theorem CollGoes.collTake (h : CollGoes p k b ctr s) (a : CollIn) : CollGoes p k b ctr (collTake s p k a) := by
  unfold Machine.collTake
  dsimp only
  split
  · exact h.collKeep ..
  split
  · split
    · exact (h.arrived (· ++ [a])).treeStep _
    · exact h.collKeep ..
  split
  · exact h.collKeep ..
  · exact h.ringStep ..

theorem CollGoes.collBegin (h : CollGoes p k b ctr s) : CollGoes p k b ctr (collBegin s p k) := by
  unfold Machine.collBegin
  dsimp only
  split
  · exact h.collFinish ..
  split
  · split
    · exact h.each fun v x hv => hv.treeStep x
    · exact h.each fun v x hv => hv.collSend ..
  · exact h.collSend ..

theorem CollGoes.collCast (h : CollGoes p k b ctr s) (e : Sched) (l : List (List Byte × Bool)) (dst : Nat) : CollGoes p k b ctr (collCast s p k e l dst) :=
  h.foldl fun _ _ hv => hv.inject rfl (by show (5 : Nat) ≠ 1; decide)

end

/-! ### COLL and its chunks (R82, R171) -/

section
variable {s : State} {i : Issue} {ch : Nat} {w : MovSlot}

theorem coll_goes (s : State) (i : Issue) (w : MovSlot) (ecc : List EccHit) : CollGoes (s.partOf i.block) (mDesc w) i.block (mCtr w) (coll s i w ecc) := by
  unfold coll
  dsimp only
  have hstart (v : State) (q : Nat) (own : List (List Byte × Bool)) : CollGoes (s.partOf i.block) (mDesc w) i.block (mCtr w)
      (modColl v (s.partOf i.block) (mDesc w) fun _ =>
        { part := s.partOf i.block, entry := mDesc w, started := true, block := i.block, counter := mCtr w, seq := q, own := own }) := by
    have heq := coll_modColl (s := v) (p := s.partOf i.block) (k := mDesc w) (f := fun _ =>
      { part := s.partOf i.block, entry := mDesc w, started := true, block := i.block, counter := mCtr w, seq := q, own := own }) rfl rfl
    exact ⟨by rw [heq], by rw [heq], by rw [heq]⟩
  split
  · exact (hstart ..).collCast ..
  · exact (hstart ..).collBegin.each fun v a hv => hv.collTake a

theorem coll_starts (htaken : Taken s i (conMover ch)) (ecc : List EccHit) : Does (.coll i ch w ecc) s fun t =>
    (t.coll (s.partOf i.block) (mDesc w)).started = true ∧ (t.coll (s.partOf i.block) (mDesc w)).block = i.block ∧
      (t.coll (s.partOf i.block) (mDesc w)).counter = mCtr w := by
  have hexec : exec (.coll i ch w ecc) s = .next (coll (takenState s i (conMover ch)) i w ecc) := by
    show execColl i ch w ecc s = _
    rw [execColl, issueSlot, show (accept s i (conMover ch)).2 = true from htaken, accept_of_taken htaken]
    rfl
  have hgoes := coll_goes (takenState s i (conMover ch)) i w ecc
  rw [(takenState_keeps s i (conMover ch)).partOf_eq rfl] at hgoes
  exact ⟨_, hexec, hgoes.started, hgoes.block, hgoes.counter⟩

end

/-- Settles O33: a local COPY's transfer, the start of a collective, and the chunks that come before and after it. -/
theorem copiesAndCollectives : Obligations.CopiesAndCollectives := by
  intro s i ch w htaken
  refine ⟨fun rs hrs hlocal _ => copy_transfer htaken hrs hlocal, fun ecc => coll_starts htaken ecc, fun part entry chunk member data bad =>
    ⟨fun hno => ?_, fun hyes hkind => ?_⟩⟩
  · obtain ⟨hpart, hentry⟩ := coll_names s part entry
    refine ⟨_, congrArg Host.Outcome.next (if_neg (by rw [hno]; decide)), ?_, rfl⟩
    rw [coll_modColl hpart hentry]
  · obtain ⟨hpart, hentry⟩ := coll_names s part entry
    have htake (a : CollIn) : collTake s part entry a = collKeep s part entry a.chunk a.data a.poison := if_pos hkind
    refine ⟨_, congrArg Host.Outcome.next ((if_pos hyes).trans (htake _)), ?_, rfl⟩
    rw [collKeep, coll_modColl hpart hentry]
    exact mapGet_mapPut_same ..

end Sys2Proof.Machine
end

section
/-! Packets on their way through a chip: the drops by their causes, the next hop, and how a packet of a unit leaves (R150, R151, R163). -/

namespace Sys2Proof.Machine

open Sys2Proof

/-! ### Drops (R163) -/

section
variable {s : State} {unit cause : Nat} {p : Packet} {q : QPacket} {r : Reg}

theorem od_doNotSeal (s : State) (p : Nat) (f : Verdict → Verdict) : (doNotSeal s p f).od = s.od := by
  unfold doNotSeal
  split <;> rfl

theorem od_each {α : Type} {l : List α} {f : State → α → State} (hf : ∀ v x, (f v x).od = v.od) (s : State) : (s.each l f).od = s.od := by
  induction l generalizing s with
  | nil => rfl
  | cons x rest ih => exact (ih (f s x)).trans (hf s x)

/-- A drop is counted by its cause. -/
theorem counted_dropPkt (hr : dropReg cause = r) (hrec : ([16, 0x7002].contains (regPlace r) || [16, 0x7002].contains 31) = false) :
    Counted s (dropPkt s unit cause p) r 0 1 := by
  have hdrop : ((s.bumpSat r 0 1).record 0x6040 unit [(1, cause), (1, p.vc), (4, p.src), (4, p.dst)]).rd r 0 = _ :=
    (rd_record _ _ _ _ r 0 hrec).trans (rd_bumpSat_same ..)
  unfold Counted dropPkt dropAs
  rw [hr]
  dsimp only
  split
  · rw [State.rd, od_each fun v x => od_doNotSeal ..]
    exact hdrop
  · exact hdrop

theorem dropPkt_mem : (dropPkt s unit cause p).mem = s.mem := (dropPkt_keeps Sub.rfl (Keeps.refl _ s)).mem rfl

theorem releasePkt_way (s : State) (q : QPacket) : Keeps [9] s (releasePkt s q) := releasePkt_keeps Sub.rfl (Keeps.refl _ s)

/-- A packet dropped as it leaves its input buffer. -/
theorem dropped_spec (hr : dropReg cause = r) (hrec : ([16, 0x7002].contains (regPlace r) || [16, 0x7002].contains 31) = false)
    (hfree : ([9].contains (regPlace r) || [9].contains 31) = false) :
    Counted s (dropPkt (releasePkt s q) unit cause p) r 0 1 ∧ (dropPkt (releasePkt s q) unit cause p).mem = s.mem := by
  refine ⟨?_, dropPkt_mem.trans ((releasePkt_way ..).mem rfl)⟩
  rw [Counted, ← (releasePkt_way s q).rd r 0 hfree]
  exact counted_dropPkt hr hrec

/-! ### The next hop (R163) -/

/-- A packet whose next port is Up joins the end of that port's queue, by a detour where the table has one. -/
theorem forward_out {d : Nat} (hd : dimPort s q.pkt.epoch q.pkt.dst = d) (hport : d < 6) (hops : q.pkt.hops + 1 ≤ s.rd R.FAB_HOP_LIMIT 0)
    (hup : s.portUp ((detourOf s q.pkt.epoch q.pkt.dst d).getD d) = true) : forward s q true = queueAt s ((detourOf s q.pkt.epoch q.pkt.dst d).getD d)
      { q with pkt := { q.pkt with
        hops := q.pkt.hops + 1, detour := q.pkt.detour || (detourOf s q.pkt.epoch q.pkt.dst d).isSome } } := by
  unfold forward
  dsimp only
  rw [hd, if_neg (by omega), if_neg (by simp only [b2n]; exact Nat.not_lt.2 hops), putOn, if_pos hup]
  rfl

theorem forward_lost {d : Nat} (hd : dimPort s q.pkt.epoch q.pkt.dst = d) (hport : 6 ≤ d) :
    forward s q true = dropPkt (releasePkt s q) (inUnit q.inPort) 4 q.pkt := by
  unfold forward
  dsimp only
  rw [hd, if_pos hport]

theorem forward_far {d : Nat} (hd : dimPort s q.pkt.epoch q.pkt.dst = d) (hport : d < 6) (hops : s.rd R.FAB_HOP_LIMIT 0 < q.pkt.hops + 1) :
    forward s q true = dropPkt (releasePkt s q) (inUnit q.inPort) 2 q.pkt := by
  unfold forward
  dsimp only
  rw [hd, if_neg (by omega), if_pos (by simp only [b2n]; exact hops)]

end

section
variable {s : State} {port : Nat} {p : Packet} {a : Arrival} {i : Inject}

theorem route_bad (h : wellFormed p a.tags = false) : exec (.packetRoute port p a) s =
    .next (dropPkt (releasePkt s { pkt := p, inPort := port, cls := classOf p }) (inUnit port) 5 p) := congrArg Host.Outcome.next (if_pos h)

theorem route_old (hok : wellFormed p a.tags = true) (h : tooOld s p = true) : exec (.packetRoute port p a) s =
    .next (dropPkt (releasePkt s { pkt := p, inPort := port, cls := classOf p }) (inUnit port) 1 p) :=
  congrArg Host.Outcome.next ((if_neg (by rw [hok]; decide)).trans (if_pos h))

theorem route_stale (hok : wellFormed p a.tags = true) (hnew : tooOld s p = false) (hloc : p.loc = false) (h : s.verState p.epoch = 0) :
    exec (.packetRoute port p a) s = .next (dropPkt (releasePkt s { pkt := p, inPort := port, cls := classOf p }) (inUnit port) 3 p) :=
  congrArg Host.Outcome.next ((if_neg (by rw [hok]; decide)).trans ((if_neg (by rw [hnew]; decide)).trans
    ((if_neg (by rw [hloc]; decide)).trans (if_pos h))))

theorem route_onward (hok : wellFormed p a.tags = true) (hnew : tooOld s p = false) (hloc : p.loc = false) (hver : s.verState p.epoch ≠ 0)
    (hkind : p.kind ≠ 5) (hdst : p.dst ≠ s.me) :
    exec (.packetRoute port p a) s = .next (forward s { pkt := p, inPort := port, cls := classOf p } true) :=
  congrArg Host.Outcome.next ((if_neg (by rw [hok]; decide)).trans ((if_neg (by rw [hnew]; decide)).trans ((if_neg (by rw [hloc]; decide)).trans
    ((if_neg hver).trans ((if_neg hkind).trans (if_neg hdst))))))

/-! ### Injection (R151, R162) -/

theorem inject_refused (h : vcAllows i.vc i.kind = false) : inject s i = s := if_pos h

theorem inject_denied (h : vcAllows i.vc i.kind = true) (hrel : i.fabric = false) (hmap : s.chipOf s.injVer i.dtag i.target = none)
    (hvc : i.vc ≠ 1) (hm : i.mover = none) : inject s i = s.record 0x5020 (targetUnit i.offset) [(2, uInject), (8, i.offset)] := by
  rw [inject, if_neg (by rw [h]; decide), hrel, hmap]
  dsimp only
  rw [if_neg (by decide)]
  show injectDenied s i = _
  rw [injectDenied, hm]
  exact if_neg hvc

/-- A planned write for another chip goes its way. -/
theorem inject_planned {dst : Nat} (h : vcAllows i.vc i.kind = true)
    (hto : (if i.fabric then some i.target else s.chipOf s.injVer i.dtag i.target) = some dst) (hdst : dst ≠ s.me) (hvc : i.vc = 1) (hkind : i.kind = 0) :
    inject s i = forward s { pkt := packetOf s i dst i.tgen } true := by
  have hrid : needsRid i = false := by simp [needsRid, hvc]
  have hnote (p : Packet) : noteOut s i p = s := by rw [noteOut, hrid]; rfl
  have hw (g : Nat) : windowed (packetOf s i dst g) = false := by
    show windowed { packetOf s i dst g with vc := i.vc } = false
    simp [windowed, hvc]
  rw [inject, if_neg (by rw [h]; decide), hto]
  dsimp only
  rw [if_neg (by omega), if_neg hdst, if_neg (by omega), hrid, if_neg (show ¬ (false = true) by decide), if_neg (by rw [hw]; decide), hnote]

end

/-- Settles O28: the drops of a packet on its way by their causes, its next hop, and how a packet of a unit leaves. -/
theorem packetsAreRouted : Obligations.PacketsAreRouted := by
  refine ⟨fun s port p a hport => ⟨fun hbad => ?_, fun hok hold => ?_, fun hok hnew hloc => ⟨fun hret => ?_, fun hver hkind hdst => ⟨fun hd => ?_,
      fun hd hops => ?_, fun hd hops hup => ?_⟩⟩⟩,
    fun s i hm => ⟨fun hno => ?_, fun hyes => ⟨fun hrel hmap hvc => ?_, fun dst hto hdst hvc hkind d hd hport hdet hup hops => ?_⟩⟩⟩
  · exact ⟨_, route_bad hbad, dropped_spec rfl rfl rfl⟩
  · exact ⟨_, route_old hok hold, dropped_spec rfl rfl rfl⟩
  · exact ⟨_, route_stale hok hnew hloc hret, (dropped_spec rfl rfl rfl).1⟩
  · exact ⟨_, (route_onward hok hnew hloc hver hkind hdst).trans (congrArg _ (forward_lost rfl hd)), (dropped_spec rfl rfl rfl).1⟩
  · exact ⟨_, (route_onward hok hnew hloc hver hkind hdst).trans (congrArg _ (forward_far rfl hd hops)), (dropped_spec rfl rfl rfl).1⟩
  · exact ⟨_, (route_onward hok hnew hloc hver hkind hdst).trans (congrArg _ (forward_out rfl hd hops hup)), queueAt_txq _ _ rfl, rfl, rfl⟩
  · exact ⟨s, congrArg Host.Outcome.next (inject_refused hno), rfl⟩
  · exact ⟨_, congrArg Host.Outcome.next (inject_denied hyes hrel hmap hvc hm), rfl, (keeps_record ..).ports_eq rfl⟩
  · have hsent := (inject_planned hyes hto hdst hvc hkind).trans (forward_queued (q := { pkt := packetOf s i dst i.tgen }) hd hport hdet hops hup)
    exact ⟨_, congrArg Host.Outcome.next hsent, _, queueAt_txq s d hvc, rfl, rfl, rfl, rfl, rfl, rfl, rfl⟩

end Sys2Proof.Machine
end

section
/-! Packets for this chip: what the FCC takes, and the windows of sources, in which a packet is taken once (R150, R152, R157, R158). -/

namespace Sys2Proof.Machine

open Sys2Proof

/-! ### Receive contexts through what a packet does (R157) -/

/-- The receive contexts are the ones there were. -/
structure SameRcv (s t : State) : Prop where
  rcv : t.router.rcv = s.router.rcv

section
variable {s t u : State}

theorem SameRcv.refl (s : State) : SameRcv s s := ⟨rfl⟩

theorem SameRcv.trans (h : SameRcv s t) (h' : SameRcv t u) : SameRcv s u := ⟨h'.rcv.trans h.rcv⟩

theorem SameRcv.of_keeps {T : List Nat} (h : Keeps T s t) (h11 : T.contains 11 = false) : SameRcv s t := ⟨by rw [h.router_eq h11]⟩

theorem SameRcv.ite {c : Prop} [Decidable c] {a b : State} (ha : SameRcv s a) (hb : SameRcv s b) : SameRcv s (if c then a else b) := by
  split <;> assumption

theorem failRid_rcv (rid status reason : Nat) : SameRcv s (failRid s rid status reason) := .of_keeps (failRid_keeps Sub.rfl (Keeps.refl _ s)) rfl

theorem forward_rcv (q : QPacket) (hop : Bool) : SameRcv s (forward s q hop) := ⟨by rw [forward_keep_router]⟩

theorem modSrc_rcv (k : Nat) (f : SrcCtx → SrcCtx) : SameRcv s (modSrc s k f) := ⟨rfl⟩

theorem windowSend_rcv (w : Waiting) : SameRcv s (windowSend s w) := by
  unfold windowSend
  dsimp only
  generalize (if mapHas s.router.src (ctxKey w.pkt.dst w.pkt.vc) then mapGet {} s.router.src (ctxKey w.pkt.dst w.pkt.vc)
    else { incarn := s.nowMs, createdMs := s.nowMs, lastNs := s.now }) = c
  exact .ite ((modSrc_rcv ..).trans (forward_rcv ..)) (modSrc_rcv ..)

theorem depart_rcv (w : Waiting) : SameRcv s (depart s w) := by
  unfold depart
  refine .ite (forward_rcv ..) ?_
  split
  · exact failRid_rcv ..
  next dst _ =>
    dsimp only
    have hs1 (c : Prop) [Decidable c] (f : ResetUnit → ResetUnit) : SameRcv s (if c then s else s.modRst f) := .ite (.refl s) ⟨rfl⟩
    exact .ite ((hs1 ..).trans ⟨rfl⟩) ((hs1 ..).trans (windowSend_rcv _))

theorem shpRefill_rcv (f : Nat) : SameRcv s (shpRefill s f) := by
  unfold shpRefill
  exact .ite ⟨rfl⟩ ⟨rfl⟩

theorem shaperDecide_rcv (f : Nat) : SameRcv s (shaperDecide s f) := by
  unfold shaperDecide
  split
  · exact .refl s
  · refine .ite ((shpRefill_rcv f).trans ⟨rfl⟩) ((shpRefill_rcv f).trans (.trans ?_ (depart_rcv _)))
    refine .trans (t := if s.rd R.FAB_SHP_RATE f = 0xFFFFFFFF then shpRefill s f else (shpRefill s f).wrI R.FAB_SHP_LEVEL f _)
      (.ite (.refl _) ⟨rfl⟩) ⟨rfl⟩

theorem shape_rcv (w : Waiting) : SameRcv s (shape s w) := by
  unfold shape
  exact .ite (.trans (t := s.modRouter _) ⟨rfl⟩ (shaperDecide_rcv _)) ⟨rfl⟩

theorem handOver_rcv (w : Waiting) : SameRcv s (handOver s w) := .ite (shape_rcv w) (depart_rcv w)

theorem sendReply_rcv (p : Packet) (gen : Nat) (data : List Byte) (bad : Bool) : SameRcv s (sendReply s p gen data bad) :=
  .ite ⟨rfl⟩ (handOver_rcv _)

theorem ejectRead_rcv (p : Packet) (ecc : List EccHit) : SameRcv s (ejectRead s p ecc) := by
  have hgate (u g c r : Nat) : SameRcv s (gatekeep s u false g c r).1 := .of_keeps (gatekeep_keeps Sub.rfl (Keeps.refl _ s)) rfl
  unfold ejectRead
  dsimp only
  refine .ite (hgate ..) ?_
  split
  · exact (hgate ..).trans (.of_keeps (replyDenied_keeps Sub.rfl (Keeps.refl _ _)) rfl)
  · exact .ite ((hgate ..).trans (.of_keeps (memRequest_keeps Sub.rfl (Keeps.refl _ _)) rfl))
      (((hgate ..).trans (.of_keeps (readRange_keeps Sub.rfl (Keeps.refl _ _)) rfl)).trans (sendReply_rcv ..))

/-- A windowed packet's delivery leaves the receive contexts. -/
theorem deliverPkt_rcv {p : Packet} (hw : windowed p = true) (hk : p.kind ≠ 5) (ecc : List EccHit) : SameRcv s (deliverPkt s p ecc) := by
  have hvc : p.vc = 2 ∨ p.vc = 3 := by simp [windowed] at hw; tauto
  rw [deliverPkt, if_neg (by omega), if_neg hk, if_neg (by omega)]
  exact .ite (.of_keeps (ejectWrite_keeps Sub.rfl (Keeps.refl _ s)) rfl) (.ite (ejectRead_rcv ..) (by rw [if_neg (by omega)]; exact ⟨rfl⟩))

end

/-! ### The FCC's packets (R150, R152) -/

section
variable {s : State} {p : Packet} {ecc : List EccHit}

theorem eject_unwindowed (hvc : p.vc ≠ 2) (hvc' : p.vc ≠ 3) : eject s p ecc = deliverPkt s p ecc := if_neg (by simp [windowed, hvc, hvc'])

theorem eject_vc0 (hvc : p.vc = 0) : eject s p ecc = fccTake s p := (eject_unwindowed (by omega) (by omega)).trans (if_pos hvc)

/-- A VC0 packet whose tag fails. -/
theorem fccTake_failed (h : vc0Ok s p = false) :
    Counted s (fccTake s p) R.FAB_DROP_AUTH 0 1 ∧ (fccTake s p).outbox = s.outbox ∧ (fccTake s p).mem = s.mem := by
  have hdrop : Counted s ((dropPkt s uFcc 8 p).record 0x6047 uFcc [(4, p.src), (1, p.kind)]) R.FAB_DROP_AUTH 0 1 := by
    rw [Counted, rd_record _ _ _ _ _ _ rfl]
    exact counted_dropPkt rfl rfl
  have hway : Keeps [6, 16, 0x4140, 0x7002] s ((dropPkt s uFcc 8 p).record 0x6047 uFcc [(4, p.src), (1, p.kind)]) :=
    record_keeps (.of rfl Sub.rfl) (dropPkt_keeps (.of rfl Sub.rfl) (Keeps.refl _ s))
  have hfcc : fccTake s p = _ := if_pos h
  rw [hfcc]
  split
  · refine ⟨?_, hway.outbox_eq rfl, hway.mem rfl⟩
    rw [Counted, rd_bumpSat_ne (by decide)]
    exact hdrop
  · exact ⟨hdrop, hway.outbox_eq rfl, hway.mem rfl⟩

theorem fccTake_clover (h : vc0Ok s p = true) (hk : p.kind = 7) (hknown : clvKnown p.data = true) : fccTake s p = s.emit (.packet p) := by
  rw [fccTake, if_neg (by rw [h]; decide), if_neg (by rw [hknown]; simp), if_neg (by omega)]

/-- A VC4 packet that no unit of the chip takes. -/
theorem deliverPkt_emit (hvc : p.vc = 4) (hk : p.kind = 6 ∨ p.kind = 8 ∨ p.kind = 9) : deliverPkt s p ecc = s.emit (.packet p) := by
  rw [deliverPkt, if_neg (by omega), if_neg (by omega), if_neg (by omega), if_neg (by omega), if_neg (by omega), if_neg (by omega)]

end

/-! ### Windowed packets (R157, R158) -/

section
variable {s : State} {p : Packet} {ecc : List EccHit} {c : RcvCtx}

theorem rcv_modRcv (k : Nat) (f : RcvCtx → RcvCtx) : mapGet {} (modRcv s k f).router.rcv k = f (mapGet {} s.router.rcv k) := mapGet_mapPut_same ..

/-- A packet of the context's own incarnation is taken by its window. -/
theorem eject_window (hw : windowed p = true) (hc : mapFind s.router.rcv (ctxKey p.src p.vc) = some c) (hi : c.incarn = p.incarn)
    (hlt : p.incarn < 65536) : eject s p ecc = windowTake s (ctxKey p.src p.vc) c p ecc := by
  rw [eject, if_pos hw, windowReceive]
  simp only [hc]
  rw [if_pos (by rw [hi]; omega)]

/-- The packet that a window expects moves its context on by one. -/
theorem windowTake_expected (hw : windowed p = true) (hk : p.kind ≠ 5) (he : p.eseq = c.expected) (habove : c.above = []) (hlt : c.expected < 65536)
    (hroom : 0 < s.window p.vc) (k : Nat) :
    (mapGet {} (windowTake s k c p ecc).router.rcv k).expected = (c.expected + 1) % 65536 ∧
      (mapGet {} (windowTake s k c p ecc).router.rcv k).sinceAck = c.sinceAck + 1 := by
  have hd : (p.eseq + (65536 - c.expected)) % 65536 = 0 := by omega
  have hnext (fuel e : Nat) : advance fuel e [] = (e, []) := by cases fuel <;> rfl
  have htake : windowTake s k c p ecc = deliverPkt (modRcv s k fun _ =>
      { c with expected := (c.expected + 1) % 65536, above := [], sinceAck := c.sinceAck + 1, lastNs := s.now }) p ecc := by
    unfold windowTake
    dsimp only
    rw [hd, if_pos ⟨hroom, by rw [habove]; rfl⟩, if_pos rfl, habove, hnext]
  rw [htake, (deliverPkt_rcv hw hk ecc).rcv, rcv_modRcv]
  exact ⟨rfl, rfl⟩

/-- A packet received before is counted, and changes no memory. -/
theorem windowTake_duplicate (h : c.above.contains p.eseq = true) (k : Nat) :
    Counted s (windowTake s k c p ecc) R.FAB_E2E_DUP 0 1 ∧ (windowTake s k c p ecc).mem = s.mem ∧ (windowTake s k c p ecc).outbox = s.outbox ∧
      (mapGet {} (windowTake s k c p ecc).router.rcv k).expected = c.expected := by
  have htake : windowTake s k c p ecc = modRcv (s.bumpSat R.FAB_E2E_DUP 0 1) k fun _ =>
      { c with sinceAck := max c.sinceAck 1, lastNs := s.now } := by
    unfold windowTake
    dsimp only
    rw [if_neg (fun hn => by rw [h] at hn; exact absurd hn.2 (by decide))]
  rw [htake]
  refine ⟨?_, rfl, rfl, ?_⟩
  · rw [Counted, modRcv, ctxCount, rd_wr_ne _ _ (by decide)]
    exact rd_bumpSat_same ..
  · rw [rcv_modRcv]

theorem eject_new (hw : windowed p = true) (hc : mapFind s.router.rcv (ctxKey p.src p.vc) = none) :
    eject s p ecc = if p.syn = false then resync s p else if 16384 ≤ s.router.rcv.length then s
      else windowTake s (ctxKey p.src p.vc) { incarn := p.incarn, lastNs := s.now } p ecc := by
  rw [eject, if_pos hw, windowReceive]
  simp only [hc]

theorem leField_ackBytes_cum (vc cum map_ : Nat) (r : Bool) : leField (ackBytes vc cum map_ r) 1 2 = cum % 65536 := by
  have hfield : ((ackBytes vc cum map_ r).drop 1).take 2 = leBytes 2 cum := by
    rw [ackBytes, List.append_assoc, List.append_assoc, List.drop_left' (length_leBytes ..), List.take_left' (length_leBytes ..)]
  rw [leField, hfield, leVal_leBytes]
  norm_num

theorem leField_ackBytes_resync (vc cum map_ : Nat) (r : Bool) : leField (ackBytes vc cum map_ r) 11 1 = b2n r := by
  have hfield : ((ackBytes vc cum map_ r).drop 11).take 1 = leBytes 1 (b2n r) := by
    rw [ackBytes, List.drop_left' (by simp)]
    exact List.take_of_length_le (length_leBytes ..).le
  rw [leField, hfield, leVal_leBytes]
  cases r <;> rfl

/-- An acknowledgement joins the end of VC4's queue of the next hop's port. -/
theorem sendAck_queued {peer vc d : Nat} {r : Bool} (hd : dimPort s s.injVer peer = d) (hport : d < 6) (hdet : detourOf s s.injVer peer d = none)
    (hup : s.portUp d = true) (hops : 1 ≤ s.rd R.FAB_HOP_LIMIT 0) :
    ∃ q : QPacket, ((sendAck s peer vc c r).port d).queue 4 = (s.port d).queue 4 ++ [q] ∧ q.pkt.dst = peer ∧ q.pkt.kind = 3 ∧
      q.pkt.incarn = c.incarn ∧ leField q.pkt.data 1 2 = (c.expected + 65535) % 65536 ∧ leField q.pkt.data 11 1 = b2n r := by
  have hsent : sendAck s peer vc c r = _ := forward_queued hd hport hdet hops hup
  rw [hsent]
  exact ⟨_, queueAt_txq s d rfl, rfl, rfl, rfl, (leField_ackBytes_cum ..).trans (Nat.mod_mod ..), leField_ackBytes_resync ..⟩

theorem sendAck_way (s : State) (peer vc : Nat) (c : RcvCtx) (r : Bool) : Keeps wayPlaces s (sendAck s peer vc c r) :=
  forward_way (by show (4 : Nat) ≠ 1; decide)

end

/-- Settles O29: what the FCC takes or drops of VC0, and how a window takes a packet once. -/
theorem packetsAreTakenOnce : Obligations.PacketsAreTakenOnce := by
  intro s p ecc
  refine ⟨fun hvc hbad => ?_, fun hvc hok hk hknown => ?_, fun hvc hk => ?_, fun hw hk c hc hi hlt => ⟨fun he habove hexp hroom => ?_, fun hdup => ?_⟩,
    fun hw hc => ⟨fun hsyn => ?_, fun hsyn hfull => ?_⟩⟩
  · exact ⟨_, congrArg Host.Outcome.next (eject_vc0 hvc), fccTake_failed hbad⟩
  · exact ⟨_, congrArg Host.Outcome.next (eject_vc0 hvc), fccTake_clover hok hk hknown⟩
  · exact ⟨_, congrArg Host.Outcome.next (eject_unwindowed (by omega) (by omega)), deliverPkt_emit hvc hk⟩
  · exact ⟨_, congrArg Host.Outcome.next (eject_window hw hc hi hlt), windowTake_expected hw hk he habove hexp hroom _⟩
  · exact ⟨_, congrArg Host.Outcome.next (eject_window hw hc hi hlt), windowTake_duplicate hdup _⟩
  · have hway := sendAck_way (s.bumpSat R.FAB_E2E_RESYNC 0 1) p.src p.vc { incarn := p.incarn } true
    refine ⟨_, congrArg Host.Outcome.next ((eject_new hw hc).trans (if_pos hsyn)), ?_, hway.mem rfl, hway.router_eq rfl, fun d hd hport hdet hup hops => ?_⟩
    · rw [Counted, resync, hway.rd R.FAB_E2E_RESYNC 0 rfl]
      exact rd_bumpSat_same ..
    · have hbump : Keeps [0x4120] s (s.bumpSat R.FAB_E2E_RESYNC 0 1) := bumpSat_keeps Sub.rfl (Keeps.refl _ s)
      have hfree : HopFree [0x4120] := by
        unfold HopFree
        decide
      have hver : (s.bumpSat R.FAB_E2E_RESYNC 0 1).injVer = s.injVer := rd_bumpSat_ne (by decide)
      obtain ⟨q, hq, hdst, hkind, hin, -, hflag⟩ := sendAck_queued (s := s.bumpSat R.FAB_E2E_RESYNC 0 1) (vc := p.vc) (c := { incarn := p.incarn }) (r := true)
        (by rw [hbump.dimPort_eq hfree, hver, hd]) hport (by rw [hbump.detourOf_eq hfree, hver, hdet]) (by rw [hbump.portUp_eq hfree, hup])
        (by rw [hbump.rd R.FAB_HOP_LIMIT 0 rfl]; exact hops)
      exact ⟨q, hq, hdst, hkind, hin, hflag⟩
  · exact ⟨s, congrArg Host.Outcome.next ((eject_new hw hc).trans ((if_neg (by rw [hsyn]; decide)).trans (if_pos hfull))), rfl⟩

end Sys2Proof.Machine
end

section
/-! End-to-end windows: packets sent again and given up, acknowledgements and incarnations, and contexts that are idle (R157, R158). -/

namespace Sys2Proof.Machine

open Sys2Proof

/-! ### A packet sent once more (R157, R161) -/

section
variable {s : State} {p : Packet}

theorem depart_again (s : State) (p : Packet) : depart s { pkt := p, again := true } = forward s { pkt := stamp s p } true := if_pos rfl

/-- The source contexts and the host interface stay. -/
structure SameSrc (s t : State) : Prop where
  src : t.router.src = s.router.src
  host : t.host = s.host

theorem SameSrc.trans {t u : State} (h : SameSrc s t) (h' : SameSrc t u) : SameSrc s u := ⟨h'.src.trans h.src, h'.host.trans h.host⟩

theorem SameSrc.ite {c : Prop} [Decidable c] {a b : State} (ha : SameSrc s a) (hb : SameSrc s b) : SameSrc s (if c then a else b) := by
  split <;> assumption

theorem shpRefill_src (s : State) (f : Nat) : SameSrc s (shpRefill s f) := by
  unfold shpRefill
  exact .ite ⟨rfl, rfl⟩ ⟨rfl, rfl⟩

theorem departAgain_src (s : State) (p : Packet) : SameSrc s (depart s { pkt := p, again := true }) := by
  rw [depart_again]
  exact ⟨by rw [forward_keep_router], (forward_keep ..).host_eq rfl⟩

theorem shaperDecide_src {f : Nat} (h : (mapGet {} s.router.shapers f).queue = [{ pkt := p, again := true }]) : SameSrc s (shaperDecide s f) := by
  rw [shaperDecide, h]
  dsimp only
  refine (shpRefill_src s f).trans (.ite ⟨rfl, rfl⟩ (.trans ?_ (departAgain_src _ p)))
  exact .trans (t := if s.rd R.FAB_SHP_RATE f = 0xFFFFFFFF then shpRefill s f else (shpRefill s f).wrI R.FAB_SHP_LEVEL f _)
    (.ite ⟨rfl, rfl⟩ ⟨rfl, rfl⟩) ⟨rfl, rfl⟩

/-- A packet sent again leaves the source contexts. -/
theorem sendAgain_src (s : State) (p : Packet) : SameSrc s (sendAgain s p) := by
  unfold sendAgain handOver
  split
  · unfold shape
    dsimp only
    split
    next hq =>
      have hhead : (mapGet {} (mapPut s.router.shapers p.func
          { mapGet {} s.router.shapers p.func with queue := (mapGet {} s.router.shapers p.func).queue ++ [{ pkt := p, again := true }] }) p.func).queue =
          [{ pkt := p, again := true }] := by
        rw [mapGet_mapPut_same, hq]
        rfl
      have hdecide := shaperDecide_src (s := s.modRouter fun r =>
        { r with
          shapers := mapPut r.shapers p.func
            { mapGet {} r.shapers p.func with queue := (mapGet {} r.shapers p.func).queue ++ [{ pkt := p, again := true }] } }) hhead
      exact ⟨hdecide.src, hdecide.host⟩
    · exact ⟨rfl, rfl⟩
  · exact departAgain_src s p

theorem each_sendAgain_src (l : List Unacked) (s : State) : SameSrc s (s.each l fun t e => sendAgain t e.pkt) := by
  induction l generalizing s with
  | nil => exact ⟨rfl, rfl⟩
  | cons e rest ih => exact (sendAgain_src s e.pkt).trans (ih _)

end

/-! ### Source contexts (R157, R158) -/

section
variable {s : State} {k : Nat} {c : SrcCtx}

theorem src_modSrc (s : State) (k : Nat) (f : SrcCtx → SrcCtx) : mapGet {} (modSrc s k f).router.src k = f (mapGet {} s.router.src k) :=
  mapGet_mapPut_same ..

theorem src_of_find (h : mapFind s.router.src k = some c) : mapGet {} s.router.src k = c := by
  rw [mapGet_eq_find, h]
  rfl

/-- A context where no packet waits for room is not filled. -/
theorem windowFill_none (h : (mapGet {} s.router.src k).waiting = []) (fuel : Nat) : windowFill fuel s k = s := by
  cases fuel with
  | zero => rfl
  | succ n =>
    unfold windowFill
    dsimp only
    rw [h]

theorem serveReads_src (h : s.router.reads = []) : (serveReads s).router.src = s.router.src := by
  rw [serveReads_none h]
  rfl

/-- No command is fetched, so none goes on. -/
theorem resumeCmds_none (h : s.host.movers = []) : resumeCmds s = s := by
  rw [resumeCmds, movingCmds, h]
  rfl

/-- With no request outstanding an acknowledged write is nobody's. -/
theorem endRid_none (h : s.rst.outstanding = []) (rid : Nat) : endRid s rid = s := by
  rw [endRid, h]
  rfl

theorem each_endRid_none (h : s.rst.outstanding = []) (l : List Unacked) :
    (s.each l fun t e => if e.pkt.vc = 2 ∧ e.pkt.kind = 0 then endRid t e.pkt.rid else t) = s := by
  induction l with
  | nil => rfl
  | cons e rest ih =>
    have hone : (if e.pkt.vc = 2 ∧ e.pkt.kind = 0 then endRid s e.pkt.rid else s) = s := by rw [endRid_none h, ite_self]
    exact (congrArg (fun t => State.each t rest _) hone).trans ih

end

/-! ### What ends a wait (R157, R158) -/

section
variable {s : State} {peer vc eseq cum map_ incarn : Nat} {c : SrcCtx} {e : Unacked}

theorem retransmit_early (hc : mapFind s.router.src (ctxKey peer vc) = some c) (he : c.pending.find? (fun x => x.eseq == eseq) = some e)
    (h : s.now < e.sentNs + (1000 * s.rd R.FAB_E2E_RTO_US 0 : Nat)) : exec (.e2eRetransmit peer vc eseq) s = .next s := by
  show execE2eRetransmit peer vc eseq s = _
  simp only [execE2eRetransmit, src_of_find hc, he]
  exact if_pos h

theorem retransmit_again (hc : mapFind s.router.src (ctxKey peer vc) = some c) (he : c.pending.find? (fun x => x.eseq == eseq) = some e)
    (h : e.sentNs + (1000 * s.rd R.FAB_E2E_RTO_US 0 : Nat) ≤ s.now) (htries : e.tries < s.rd R.FAB_E2E_RETRIES 0) :
    Does (.e2eRetransmit peer vc eseq) s fun t => (mapGet {} t.router.src (ctxKey peer vc)).pending = c.pending.map fun x =>
      if x.eseq = eseq then { e with pkt := { e.pkt with syn := !c.acked }, tries := e.tries + 1, sentNs := s.now } else x := by
  have hexec : exec (.e2eRetransmit peer vc eseq) s = .next (sendAgain (modSrc s (ctxKey peer vc) fun c' =>
      { c' with pending := c'.pending.map fun x => if x.eseq = eseq then
        { e with pkt := { e.pkt with syn := !c.acked }, tries := e.tries + 1, sentNs := s.now } else x, lastNs := s.now }) { e.pkt with syn := !c.acked }) := by
    show execE2eRetransmit peer vc eseq s = _
    simp only [execE2eRetransmit, src_of_find hc, he]
    rw [if_neg (by omega), if_neg (by omega)]
  refine ⟨_, hexec, ?_⟩
  beta_reduce
  rw [(sendAgain_src ..).src, src_modSrc, src_of_find hc]

/-- The state in which a packet given up is no longer pending. -/
def givenUp (s : State) (peer vc : Nat) (e : Unacked) : State :=
  ((modSrc s (ctxKey peer vc) fun c => { c with pending := c.pending.filter fun x => x.eseq != e.eseq }).bumpSat R.FAB_E2E_EXPIRED 0 1).record
    0x6044 uFcc [(4, peer), (2, e.eseq), (1, vc)]

theorem retransmit_expired (hc : mapFind s.router.src (ctxKey peer vc) = some c) (he : c.pending.find? (fun x => x.eseq == eseq) = some e)
    (h : e.sentNs + (1000 * s.rd R.FAB_E2E_RTO_US 0 : Nat) ≤ s.now) (htries : s.rd R.FAB_E2E_RETRIES 0 ≤ e.tries) (hwait : c.waiting = [])
    (hreads : s.router.reads = []) : Does (.e2eRetransmit peer vc eseq) s fun t =>
      (mapGet {} t.router.src (ctxKey peer vc)).pending = c.pending.filter (fun x => x.eseq != eseq) ∧ Counted s t R.FAB_E2E_EXPIRED 0 1 := by
  have hexec : exec (.e2eRetransmit peer vc eseq) s = .next (serveReads (windowGiveUp s peer vc e)) := by
    show execE2eRetransmit peer vc eseq s = _
    simp only [execE2eRetransmit, src_of_find hc, he]
    rw [if_neg (by omega), if_pos htries]
  have heq : e.eseq = eseq := by simpa using List.find?_some he
  have hfail : ∃ u, Keeps [2, 3, 6, 12, 14, 0x3000, 0x3001] (givenUp s peer vc e) u ∧ windowGiveUp s peer vc e = windowFill 1025 u (ctxKey peer vc) := by
    refine ⟨_, ?_, rfl⟩
    exact .ite (failRid_keeps (.of rfl Sub.rfl) (Keeps.refl _ _)) (Keeps.refl _ _)
  obtain ⟨u, hu, hgive⟩ := hfail
  have hrouter : u.router = (modSrc s (ctxKey peer vc) fun c => { c with pending := c.pending.filter fun x => x.eseq != e.eseq }).router :=
    (hu.router_eq rfl).trans ((keeps_record ..).router_eq rfl)
  have hctx : mapGet {} u.router.src (ctxKey peer vc) = { c with pending := c.pending.filter fun x => x.eseq != eseq } := by
    rw [hrouter, src_modSrc, src_of_find hc, heq]
  have hstay : windowGiveUp s peer vc e = u := hgive.trans (windowFill_none (by rw [hctx]; exact hwait) _)
  have hr : u.router.reads = [] := by rw [hrouter]; exact hreads
  refine ⟨_, hexec, ?_, ?_⟩
  · rw [hstay, serveReads_src hr, hctx]
  · rw [hstay, serveReads_none hr, Counted]
    show u.rd R.FAB_E2E_EXPIRED 0 = _
    rw [hu.rd R.FAB_E2E_EXPIRED 0 rfl, givenUp, rd_record _ _ _ _ _ _ rfl, rd_bumpSat_same, modSrc, ctxCount, rd_wr_ne _ _ (by decide)]
    rfl

end

/-! ### Acknowledgements and incarnations (R157, R158) -/

section
variable {s : State} {peer vc eseq cum map_ incarn : Nat} {c : SrcCtx}

/-- An acknowledgement of the context's incarnation, where nothing waits and no request is outstanding. -/
theorem windowAck_frees (hc : mapFind s.router.src (ctxKey peer vc) = some c) (hwait : c.waiting = []) (hout : s.rst.outstanding = []) (hi : incarn = c.incarn) :
    windowAck s peer vc cum map_ incarn = modSrc s (ctxKey peer vc) fun _ =>
      { c with acked := true, pending := c.pending.filter fun e => !ackedBy cum map_ e.eseq, lastNs := s.now } := by
  unfold windowAck
  simp only [hc]
  have hnone := each_endRid_none (s := modSrc s (ctxKey peer vc) fun _ =>
    { c with acked := true, pending := c.pending.filter fun e => !ackedBy cum map_ e.eseq, lastNs := s.now }) hout
  rw [if_neg (by rw [hi]; exact not_not.2 rfl), hnone]
  exact windowFill_none (by rw [src_modSrc]; exact hwait) _

theorem windowAck_other (hc : mapFind s.router.src (ctxKey peer vc) = some c) (hi : incarn ≠ c.incarn) : windowAck s peer vc cum map_ incarn = s := by
  unfold windowAck
  simp only [hc]
  exact if_pos (Ne.symm hi)

/-- The packets of a context renumbered under a new incarnation. -/
def renumbered (s : State) (c : SrcCtx) : List Unacked :=
  (List.range c.pending.length).zip c.pending |>.map fun e =>
    { e.2 with eseq := e.1, pkt := stamp s { e.2.pkt with eseq := e.1, incarn := s.nowMs, syn := true }, sentNs := s.now }

theorem length_renumbered (s : State) (c : SrcCtx) : (renumbered s c).length = c.pending.length := by simp [renumbered]

theorem windowResync_renews (hc : mapFind s.router.src (ctxKey peer vc) = some c) (hi : incarn = c.incarn) (hms : c.createdMs ≠ s.nowMs) :
    windowResync s peer vc incarn = (modSrc (s.record 0x6045 uFcc [(4, peer), (2, c.incarn), (2, s.nowMs)]) (ctxKey peer vc) fun _ =>
      { c with
        incarn := s.nowMs, acked := false, next := c.pending.length, pending := renumbered s c, createdMs := s.nowMs, lastNs := s.now }).each
        (renumbered s c) fun t e => sendAgain t e.pkt := by
  unfold windowResync
  simp only [hc]
  exact if_neg (by rw [hi]; simpa using hms)

theorem exec_ack (hm : s.host.movers = []) (bits : Word64) (h : (windowAck s peer vc cum bits.toNat incarn).host = s.host) :
    exec (.windowAcknowledgement peer vc cum bits false incarn) s = .next (windowAck s peer vc cum bits.toNat incarn) :=
  congrArg Host.Outcome.next (resumeCmds_none (by rw [← hm]; exact congrArg HostIf.movers h))

theorem windowResync_spec (hc : mapFind s.router.src (ctxKey peer vc) = some c) (hi : incarn = c.incarn) (hms : c.createdMs ≠ s.nowMs) :
    mapGet {} (windowResync s peer vc incarn).router.src (ctxKey peer vc) =
      { c with
        incarn := s.nowMs, acked := false, next := c.pending.length, pending := renumbered s c, createdMs := s.nowMs, lastNs := s.now } ∧
      (windowResync s peer vc incarn).host = s.host := by
  rw [windowResync_renews hc hi hms, (each_sendAgain_src ..).src, (each_sendAgain_src ..).host, src_modSrc]
  exact ⟨rfl, (keeps_record ..).host_eq rfl⟩

/-- The acknowledgement that waits is sent, once. -/
theorem ackSend_spec {c : RcvCtx} (hc : mapFind s.router.rcv (ctxKey peer vc) = some c) (h : c.sinceAck ≠ 0) :
    Does (.e2eAckSend peer vc) s fun t => (mapGet {} t.router.rcv (ctxKey peer vc)).sinceAck = 0 ∧
      (mapGet {} t.router.rcv (ctxKey peer vc)).expected = c.expected ∧
      ∀ d, dimPort s s.injVer peer = d → d < 6 → detourOf s s.injVer peer d = none → s.portUp d = true → 1 ≤ s.rd R.FAB_HOP_LIMIT 0 →
        ∃ q : QPacket, (t.port d).queue 4 = (s.port d).queue 4 ++ [q] ∧ q.pkt.dst = peer ∧ q.pkt.kind = 3 ∧
          leField q.pkt.data 1 2 = (c.expected + 65535) % 65536 := by
  have hexec : exec (.e2eAckSend peer vc) s = .next (sendAck (modRcv s (ctxKey peer vc) fun _ => { c with sinceAck := 0 }) peer vc c false) := by
    show execE2eAckSend peer vc s = _
    simp only [execE2eAckSend, hc]
    exact if_neg h
  have hmod : Keeps [11, 0x4120] s (modRcv s (ctxKey peer vc) fun _ => { c with sinceAck := 0 }) := modRcv_keeps Sub.rfl (Keeps.refl _ s)
  have hfree : HopFree [11, 0x4120] := by
    unfold HopFree
    decide
  have hver : (modRcv s (ctxKey peer vc) fun _ => { c with sinceAck := 0 }).injVer = s.injVer := hmod.rd R.FAB_EPOCH_INJ 0 rfl
  refine ⟨_, hexec, ?_⟩
  beta_reduce
  rw [(sendAck_way ..).router_eq rfl, rcv_modRcv]
  refine ⟨rfl, rfl, fun d hd hport hdet hup hops => ?_⟩
  obtain ⟨q, hq, hdst, hkind, -, hcum, -⟩ := sendAck_queued (s := modRcv s (ctxKey peer vc) fun _ => { c with sinceAck := 0 }) (vc := vc) (c := c) (r := false)
    (by rw [hmod.dimPort_eq hfree, hver, hd]) hport (by rw [hmod.detourOf_eq hfree, hver, hdet]) (by rw [hmod.portUp_eq hfree, hup])
    (by rw [hmod.rd R.FAB_HOP_LIMIT 0 rfl]; exact hops)
  exact ⟨q, hq, hdst, hkind, hcum⟩

/-- An idle source context is forgotten. -/
theorem evict_source (hc : mapFind s.router.src (ctxKey peer vc) = some c) (hp : c.pending = []) (hw : c.waiting = []) (hno : s.router.noCtx = [])
    (hlast : c.lastNs + (1000000 * s.rd R.FAB_PKT_LIFE_MS 0 : Nat) ≤ s.now) : Does (.contextEvict true peer vc) s fun t =>
      mapFind t.router.src (ctxKey peer vc) = none ∧ t.router.rcv = s.router.rcv := by
  have hexec : exec (.contextEvict true peer vc) s =
      .next (contextFreed (ctxCount (s.modRouter fun r => { r with src := mapDel r.src (ctxKey peer vc) }))) := by
    show execContextEvict true peer vc s = _
    simp only [execContextEvict, hc, if_true]
    exact if_pos ⟨hp, hw, hlast⟩
  have hfreed : contextFreed (ctxCount (s.modRouter fun r => { r with src := mapDel r.src (ctxKey peer vc) })) =
      ctxCount (s.modRouter fun r => { r with src := mapDel r.src (ctxKey peer vc) }) := by
    unfold contextFreed
    rw [show (ctxCount (s.modRouter fun r => { r with src := mapDel r.src (ctxKey peer vc) })).router.noCtx = [] from hno]
  exact ⟨_, hexec.trans (congrArg _ hfreed), mapFind_mapDel_same .., rfl⟩

/-- An idle receive context is forgotten. -/
theorem evict_receiver {c : RcvCtx} (hc : mapFind s.router.rcv (ctxKey peer vc) = some c)
    (hlast : c.lastNs + (2000000 * s.rd R.FAB_PKT_LIFE_MS 0 + 10000000 : Nat) ≤ s.now) : Does (.contextEvict false peer vc) s fun t =>
      mapFind t.router.rcv (ctxKey peer vc) = none ∧ t.router.src = s.router.src := by
  have hexec : exec (.contextEvict false peer vc) s = .next (ctxCount (s.modRouter fun r => { r with rcv := mapDel r.rcv (ctxKey peer vc) })) := by
    show execContextEvict false peer vc s = _
    simp only [execContextEvict, hc, Bool.false_eq_true, if_false]
    exact if_pos (by omega)
  exact ⟨_, hexec, mapFind_mapDel_same .., rfl⟩

end

/-- Settles O30: packets sent again, given up, acknowledged or renumbered, and contexts that end. -/
theorem endToEndWindows : Obligations.EndToEndWindows := by
  intro s peer vc _
  refine ⟨fun c eseq e hc he => ⟨fun h => ⟨s, retransmit_early hc he h, rfl⟩, fun h => ⟨fun htries _ _ => retransmit_again hc he h htries,
      fun htries hwait hreads => retransmit_expired hc he h htries hwait hreads⟩⟩,
    fun c cum bits incarn hc hwait hm hout => ⟨fun hi => ?_, fun hi => ?_, fun hi hms => ?_⟩,
    fun c hc hsince => ?_, fun c hc hpend hwait hno hlast _ => ?_, fun c hc hlast _ => ?_⟩
  · have hfree := windowAck_frees (cum := cum) (map_ := bits.toNat) hc hwait hout hi
    refine ⟨_, exec_ack hm bits (by rw [hfree]; rfl), ?_⟩
    beta_reduce
    rw [hfree, src_modSrc]
    exact ⟨rfl, rfl⟩
  · have hother := windowAck_other (cum := cum) (map_ := bits.toNat) hc hi
    exact ⟨_, exec_ack hm bits (by rw [hother]), by rw [hother]⟩
  · obtain ⟨hctx, hstays⟩ := windowResync_spec hc hi hms
    refine ⟨_, congrArg Host.Outcome.next (resumeCmds_none (s := windowResync s peer vc incarn) (by rw [hstays]; exact hm)), ?_⟩
    beta_reduce
    rw [hctx]
    exact ⟨rfl, rfl, length_renumbered s c, rfl⟩
  · exact ackSend_spec hc hsince
  · exact evict_source hc hpend hwait hno hlast
  · exact evict_receiver hc hlast

end Sys2Proof.Machine
end

section
/-! Sending on a link: the flits that a slot puts on it, the rewind and the NULL that carries an acknowledgement (R123 to R126, R133,
R153). -/

namespace Sys2Proof.Machine

open Sys2Proof

/-! ### A flit put on the link (R123, R124) -/

section
variable {s t : State} {port type seq ack : Nat} {payload : Payload}

/-- A flit that carries an acknowledgement and the CRC of its bytes. -/
structure SentFlit (s t : State) (port type seq ack : Nat) (payload : Payload) (f : Flit) : Prop where
  outbox : t.outbox = s.outbox ++ [.flit port f]
  type : f.type = type
  seq : f.seq = seq
  ack : f.ack = ack
  ackv : f.ackv = true
  crc : f.crc = flitCrc f
  payload : f.payload = payload

theorem noteDeparture_way (s : State) (port : Nat) (bs : List Byte) : Keeps [4] s (noteDeparture s port bs) := noteDeparture_keeps Sub.rfl (Keeps.refl _ s)

/-- The state in which the port's next credits are returned and nothing waits to be acknowledged. -/
def returning (s : State) (port : Nat) : State :=
  s.modPort port fun o =>
    { o with owed := mapSet 0 o.owed (creditTurn o).1 (mapGet 0 o.owed (creditTurn o).1 - (creditTurn o).2), unackedRx := 0 }

theorem sendFlit_eq (s : State) (port type seq ack : Nat) (payload : Payload) : ∃ u f, Keeps [4] (returning s port) u ∧
    sendFlit s port type seq ack payload = u.emit (.flit port f) ∧ f.type = type ∧ f.seq = seq ∧ f.ack = ack ∧ f.ackv = true ∧
      f.crc = flitCrc f ∧ f.payload = payloadNow (returning s port) port payload := by
  unfold sendFlit
  dsimp only
  refine ⟨_, _, ?_, rfl, rfl, rfl, rfl, rfl, rfl, rfl⟩
  split
  · exact noteDeparture_way ..
  · exact Keeps.refl _ _

theorem sendFlit_sent (s : State) (port type seq ack : Nat) (payload : Payload) :
    ∃ f, SentFlit s (sendFlit s port type seq ack payload) port type seq ack (payloadNow (returning s port) port payload) f := by
  obtain ⟨u, f, hu, heq, htype, hseq, hack, hackv, hcrc, hp⟩ := sendFlit_eq s port type seq ack payload
  refine ⟨f, ?_, htype, hseq, hack, hackv, hcrc, hp⟩
  rw [heq]
  exact congrArg (· ++ [Out.flit port f]) (hu.outbox_eq rfl)

theorem sendFlit_port (s : State) (port type seq ack : Nat) (payload : Payload) :
    (sendFlit s port type seq ack payload).port port = (returning s port).port port := by
  obtain ⟨u, f, hu, heq, -⟩ := sendFlit_eq s port type seq ack payload
  rw [heq]
  exact hu.port_eq rfl port

theorem returning_port (s : State) (port : Nat) : ∃ l, (returning s port).port port = { s.port port with owed := l, unackedRx := 0 } :=
  ⟨_, port_modPort_same ..⟩

theorem sendFlit_way (s : State) (port type seq ack : Nat) (payload : Payload) : Keeps [4, 9, 20] s (sendFlit s port type seq ack payload) :=
  sendFlit_keeps Sub.rfl (Keeps.refl _ s)

/-- What a port sends of a payload that is no CREDIT_SYNC depends on the time alone. -/
theorem payloadNow_eq (h : ∀ l, payload ≠ .ctl (.creditSync l)) (ht : t.time = s.time) : payloadNow t port payload = payloadNow s port payload := by
  have hnow : t.now16 = s.now16 := by rw [State.now16, State.now16, State.now, State.now, ht]
  have hstamp (bs : List Byte) : stampOut t port bs = stampOut s port bs := by
    rw [stampOut, stampOut, State.txStamp, State.txStamp, hnow]
  cases payload with
  | empty => rfl
  | data bs => exact congrArg Payload.data (hstamp bs)
  | ctl c =>
    cases c with
    | creditSync l => exact absurd rfl (h l)
    | _ => rfl

theorem payloadNow_ctl {c : LinkCtl} (h : ∀ l, c ≠ .creditSync l) : payloadNow s port (.ctl c) = .ctl c := by
  cases c with
  | creditSync l => exact absurd rfl (h l)
  | _ => rfl

/-- The state in which a sequenced flit is kept for retry. -/
def retained (s : State) (port : Nat) (r : Sent) : State :=
  s.modPort port fun o =>
    { o with txNext := (o.txNext + 1) % 4096, retry := o.retry ++ [r], timerNs := if o.retry = [] then s.now else o.timerNs }

end

/-! ### Link control (R123, R133) -/

section
variable {s : State} {port : Nat} {c : LinkCtl}

/-- Link control leaves in a sequenced flit, which is kept. -/
theorem sendCtl_sent (hgo : ∀ m, c ≠ .spareGo m) (hsync : ∀ l, c ≠ .creditSync l) :
    (∃ f, SentFlit s (sendCtl s port c) port 3 (s.port port).txNext (lastAccepted (s.port port)) (.ctl c) f) ∧
      ((sendCtl s port c).port port).ctlq = (s.port port).ctlq ∧ ((sendCtl s port c).port port).slot = (s.port port).slot ∧
      ((sendCtl s port c).port port).txNext = ((s.port port).txNext + 1) % 4096 ∧
      ((sendCtl s port c).port port).retry.length = (s.port port).retry.length + 1 := by
  have hctl : sendCtl s port c = sendSeq s port 3 (.ctl c) none none := by
    cases c with
    | spareGo m => exact absurd rfl (hgo m)
    | _ => rfl
  obtain ⟨r, hseq⟩ : ∃ r, sendSeq s port 3 (.ctl c) none none =
      sendFlit (retained s port r) port 3 (s.port port).txNext (lastAccepted (s.port port)) (.ctl c) := ⟨_, rfl⟩
  obtain ⟨f, hf⟩ := sendFlit_sent (retained s port r) port 3 (s.port port).txNext (lastAccepted (s.port port)) (.ctl c)
  obtain ⟨l, hret⟩ := returning_port (retained s port r) port
  have hport : (sendCtl s port c).port port = { (retained s port r).port port with owed := l, unackedRx := 0 } := by
    rw [hctl, hseq, sendFlit_port, hret]
  have hkept : (retained s port r).port port = _ := port_modPort_same ..
  rw [payloadNow_ctl hsync] at hf
  rw [hport, hkept, hctl, hseq]
  exact ⟨⟨f, hf.outbox, hf.type, hf.seq, hf.ack, hf.ackv, hf.crc, hf.payload⟩, rfl, rfl, rfl, List.length_append ..⟩

end

/-! ### A transmit slot (R153) -/

section
variable {s t : State} {port : Nat}

/-- The port's own marks of a slot aside, a change that leaves a port's link and the fabric's tables for its slots. -/
structure SlotReady (port : Nat) (s t : State) : Prop where
  way : Keeps [9, 0x4110] s t
  port : ∃ l, t.port port = { s.port port with pauseLeft := l }

theorem SlotReady.refl (port : Nat) (s : State) : SlotReady port s s := ⟨Keeps.refl _ s, (s.port port).pauseLeft, rfl⟩

theorem SlotReady.trans {u : State} (h : SlotReady port s t) (h' : SlotReady port t u) : SlotReady port s u := by
  obtain ⟨l, hl⟩ := h.port
  obtain ⟨l', hl'⟩ := h'.port
  exact ⟨h.way.trans h'.way, l', by rw [hl', hl]⟩

theorem pauseTick_ready (s : State) (port vc : Nat) : SlotReady port s (pauseTick s port vc) := by
  refine ⟨pauseTick_keeps Sub.rfl (Keeps.refl _ s), ?_⟩
  unfold pauseTick
  split
  · exact ⟨(s.port port).pauseLeft, rfl⟩
  · exact ⟨_, port_modPort_same ..⟩

theorem countWaits_way (s : State) (port : Nat) : Keeps [0x4110] s (countWaits s port) := countWaits_keeps Sub.rfl (Keeps.refl _ s)

/-- The state of an Up port in which its slot is served. -/
def slotServed (s : State) (port : Nat) : State := countWaits (pauseTick (pauseTick s port 2) port 3) port

theorem slotServed_ready (s : State) (port : Nat) : SlotReady port s (slotServed s port) :=
  ((pauseTick_ready s port 2).trans (pauseTick_ready _ port 3)).trans
    ⟨(countWaits_way ..).mono (.of rfl Sub.rfl), _, (countWaits_way ..).port_eq rfl port⟩

theorem narrowWidth_eq {T : List Nat} (h : Keeps T s t) (hT : (T.contains 0x4000 || T.contains 31) = false) : narrowWidth t port = narrowWidth s port := by
  rw [narrowWidth, narrowWidth, h.rd R.FAB_PORT_WIDTH_TX port hT]

theorem slotOwner_eq {T : List Nat} (h : Keeps T s t) (hT : (T.contains 0x4112 || T.contains 31) = false) (hslot : (t.port port).slot = (s.port port).slot) :
    slotOwner t port = slotOwner s port := by
  have hres (p : Nat) : t.vc1Res port p = s.vc1Res port p := h.rd R.FAB_VC1_RES _ hT
  simp only [slotOwner, calendar, hres, hslot]

theorem SlotReady.free (h : SlotReady port s t) : silent (t.port port) = silent (s.port port) ∧ narrowWidth t port = narrowWidth s port ∧
    slotOwner t port = slotOwner s port := by
  obtain ⟨l, hl⟩ := h.port
  refine ⟨by rw [hl]; rfl, narrowWidth_eq h.way rfl, slotOwner_eq h.way rfl (by rw [hl])⟩

/-- The marks that a slot leaves in its port. -/
theorem markSlot_port (u : State) (vc : Nat) : ∃ a b, (markSlot (u.modPort port fun o => { o with slot := (o.slot + 1) % 1024 }) port vc).port port =
    { u.port port with slot := ((u.port port).slot + 1) % 1024, vc0Used := a, vc4Used := b } := by
  refine ⟨((vc == 0) :: (u.port port).vc0Used).take 1024, ((vc == 4) :: (u.port port).vc4Used).take 1024, ?_⟩
  rw [markSlot, port_modPort_same, port_modPort_same]

theorem txSlot_up (hup : s.portUp port = true) : txSlot s port =
    markSlot ((upSlot (slotServed s port) port).1.modPort port fun o => { o with slot := (o.slot + 1) % 1024 }) port (upSlot (slotServed s port) port).2 := by
  unfold txSlot
  exact if_neg (by rw [hup]; decide)

/-- A slot that no reservation takes, of a port that sends. -/
theorem upSlot_free (hs : silent (s.port port) = false) (hn : narrowWidth s port = false) (ho : slotOwner s port = none) :
    upSlot s port = freeSlot s port := by
  unfold upSlot
  dsimp only
  rw [if_neg (by rw [hs]; decide), if_neg (by rw [hn]; decide), ho]

theorem upSlot_silent (hs : silent (s.port port) = true) : upSlot s port = (s, 7) := if_pos hs

/-- An unreserved slot of an Up port that sends, in the state in which the slot is served. -/
theorem txSlot_free (hup : s.portUp port = true) (hs : silent (s.port port) = false) (hn : narrowWidth s port = false) (ho : slotOwner s port = none) :
    txSlot s port = markSlot ((freeSlot (slotServed s port) port).1.modPort port fun o => { o with slot := (o.slot + 1) % 1024 }) port
      (freeSlot (slotServed s port) port).2 := by
  obtain ⟨hs', hn', ho'⟩ := (slotServed_ready s port).free
  rw [txSlot_up hup, upSlot_free (hs'.trans hs) (hn'.trans hn) (ho'.trans ho)]

theorem outbox_modPort (u : State) (port : Nat) (f : Port → Port) : (u.modPort port f).outbox = u.outbox := rfl

theorem markSlot_outbox (u : State) (port vc : Nat) (f : Port → Port) : (markSlot (u.modPort port f) port vc).outbox = u.outbox := rfl

theorem rd_markSlot (u : State) (port vc : Nat) (f : Port → Port) (r : Reg) (i : Nat) : (markSlot (u.modPort port f) port vc).rd r i = u.rd r i := rfl

theorem time_returning (u : State) (r : Reg) (i n port : Nat) : (returning (u.bumpSat r i n) port).time = u.time := rfl

theorem freeSlot_ctl {u : State} {c : LinkCtl} {rest : List LinkCtl} (hr : (u.port port).resend = 0) (hlen : (u.port port).retry.length < 2048)
    (hq : (u.port port).ctlq = c :: rest) : freeSlot u port = (sendCtl (u.modPort port fun o => { o with ctlq := rest }) port c, 7) := by
  unfold freeSlot
  dsimp only
  rw [if_neg (by omega), if_neg (by omega), hq]

/-- Link control goes first in an unreserved slot (R123, R153). -/
theorem txSlot_ctl {c : LinkCtl} {rest : List LinkCtl} (hup : s.portUp port = true) (hs : silent (s.port port) = false)
    (hn : narrowWidth s port = false) (ho : slotOwner s port = none) (hr : (s.port port).resend = 0) (hlen : (s.port port).retry.length < 2048)
    (hq : (s.port port).ctlq = c :: rest) (hgo : ∀ m, c ≠ .spareGo m) (hsync : ∀ l, c ≠ .creditSync l) :
    ((txSlot s port).port port).slot = ((s.port port).slot + 1) % 1024 ∧ ((txSlot s port).port port).ctlq = rest ∧
      ((txSlot s port).port port).txNext = ((s.port port).txNext + 1) % 4096 ∧
      ((txSlot s port).port port).retry.length = (s.port port).retry.length + 1 ∧
      ∃ f, SentFlit s (txSlot s port) port 3 (s.port port).txNext (lastAccepted (s.port port)) (.ctl c) f := by
  obtain ⟨l, hl⟩ := (slotServed_ready s port).port
  have hfree := freeSlot_ctl (u := slotServed s port) (port := port) (c := c) (rest := rest) (by rw [hl]; exact hr) (by rw [hl]; exact hlen) (by rw [hl]; exact hq)
  have hpop : ((slotServed s port).modPort port fun o => { o with ctlq := rest }).port port = _ := port_modPort_same ..
  obtain ⟨⟨f, hf⟩, hctlq, hslot, hnext, hretry⟩ := sendCtl_sent (s := (slotServed s port).modPort port fun o => { o with ctlq := rest }) (port := port) hgo hsync
  rw [hpop, hl] at hf hctlq hslot hnext hretry
  obtain ⟨a, b, hmark⟩ := markSlot_port (port := port) (sendCtl ((slotServed s port).modPort port fun o => { o with ctlq := rest }) port c) 7
  have hout : ((slotServed s port).modPort port fun o => { o with ctlq := rest }).outbox = s.outbox :=
    (outbox_modPort ..).trans ((slotServed_ready s port).way.outbox_eq rfl)
  rw [txSlot_free hup hs hn ho, hfree, hmark]
  refine ⟨by rw [hslot], hctlq, hnext, hretry, f, ?_, hf.type, hf.seq, hf.ack, hf.ackv, hf.crc, hf.payload⟩
  rw [markSlot_outbox, hf.outbox, hout]

/-- From `s` to `t` the kept flit `f` was sent again with its own number, and counted (R125). -/
structure Replayed (s t : State) (port : Nat) (f : Sent) : Prop where
  resend : (t.port port).resend = (s.port port).resend - 1
  retry : (t.port port).retry = (s.port port).retry
  count : Counted s t R.FAB_REPLAYED port 1
  sent : ∃ g, SentFlit s t port f.flit.type f.flit.seq (lastAccepted (s.port port)) (payloadNow s port f.flit.payload) g

theorem Replayed.of_ready {u v : State} {f : Sent} (h : Replayed u v port f) (hu : SlotReady port s u)
    (hsync : ∀ l, f.flit.payload ≠ .ctl (.creditSync l)) : Replayed s v port f := by
  obtain ⟨l, hl⟩ := hu.port
  have hres : (u.port port).resend = (s.port port).resend := by rw [hl]
  have hret : (u.port port).retry = (s.port port).retry := by rw [hl]
  have hlast : lastAccepted (u.port port) = lastAccepted (s.port port) := by rw [hl]; rfl
  have hcount : v.rd R.FAB_REPLAYED port = _ := h.count
  obtain ⟨g, hg⟩ := h.sent
  refine ⟨h.resend.trans (by rw [hres]), h.retry.trans hret, ?_, g, ?_, hg.type, hg.seq, ?_, hg.ackv, hg.crc, ?_⟩
  · rw [Counted, hcount, hu.way.rd R.FAB_REPLAYED port rfl]
  · rw [hg.outbox, hu.way.outbox_eq rfl]
  · rw [hg.ack, hlast]
  · rw [hg.payload, payloadNow_eq hsync (hu.way.time_eq rfl)]

theorem Replayed.marked {v : State} {f : Sent} (h : Replayed s v port f) (vc : Nat) :
    Replayed s (markSlot (v.modPort port fun o => { o with slot := (o.slot + 1) % 1024 }) port vc) port f := by
  obtain ⟨a, b, hmark⟩ := markSlot_port (port := port) v vc
  obtain ⟨g, hg⟩ := h.sent
  refine ⟨by rw [hmark]; exact h.resend, by rw [hmark]; exact h.retry, (rd_markSlot ..).trans h.count, g, ?_, hg.type, hg.seq, hg.ack, hg.ackv, hg.crc, hg.payload⟩
  exact (markSlot_outbox ..).trans hg.outbox

/-- The next kept flit sent again, and counted. -/
theorem freeSlot_replay {u : State} {f : Sent} {rest : List Sent} (hr : (u.port port).resend ≠ 0)
    (hq : (u.port port).retry.drop ((u.port port).retry.length - (u.port port).resend) = f :: rest) (hsync : ∀ l, f.flit.payload ≠ .ctl (.creditSync l)) :
    Replayed u (freeSlot u port).1 port f := by
  have hslot : (freeSlot u port).1 = (sendFlit (u.bumpSat R.FAB_REPLAYED port 1) port f.flit.type f.flit.seq (lastAccepted (u.port port))
      f.flit.payload).modPort port fun o => { o with resend := o.resend - 1 } := by
    unfold freeSlot replayNext
    dsimp only
    rw [if_pos hr, hq]
  obtain ⟨g, hg⟩ := sendFlit_sent (u.bumpSat R.FAB_REPLAYED port 1) port f.flit.type f.flit.seq (lastAccepted (u.port port)) f.flit.payload
  obtain ⟨l, hret⟩ := returning_port (u.bumpSat R.FAB_REPLAYED port 1) port
  rw [payloadNow_eq hsync (time_returning ..)] at hg
  rw [hslot]
  refine ⟨?_, ?_, ?_, g, hg.outbox, hg.type, hg.seq, hg.ack, hg.ackv, hg.crc, hg.payload⟩
  · rw [port_modPort_same, sendFlit_port, hret]
    rfl
  · rw [port_modPort_same, sendFlit_port, hret]
    rfl
  · have hway := sendFlit_way (u.bumpSat R.FAB_REPLAYED port 1) port f.flit.type f.flit.seq (lastAccepted (u.port port)) f.flit.payload
    exact (hway.rd R.FAB_REPLAYED port rfl).trans (rd_bumpSat_same ..)

/-- A slot under a rewind sends the next kept flit again, and counts it (R125). -/
theorem txSlot_replay {f : Sent} {rest : List Sent} (hup : s.portUp port = true) (hs : silent (s.port port) = false)
    (hn : narrowWidth s port = false) (ho : slotOwner s port = none) (hr : (s.port port).resend ≠ 0)
    (hq : (s.port port).retry.drop ((s.port port).retry.length - (s.port port).resend) = f :: rest) (hsync : ∀ l, f.flit.payload ≠ .ctl (.creditSync l)) :
    Replayed s (txSlot s port) port f := by
  obtain ⟨l, hl⟩ := (slotServed_ready s port).port
  have hfree : Replayed (slotServed s port) (freeSlot (slotServed s port) port).1 port f :=
    freeSlot_replay (rest := rest) (by rw [hl]; exact hr) (by rw [hl]; exact hq) hsync
  rw [txSlot_free hup hs hn ho]
  exact (hfree.of_ready (slotServed_ready s port) hsync).marked _

/-- A slot of a port that is not Up and holds no packets passes. -/
theorem txSlot_down (hup : s.portUp port = false) (hd : (s.port port).downNs = none) :
    ((txSlot s port).port port).slot = ((s.port port).slot + 1) % 1024 ∧ (txSlot s port).outbox = s.outbox := by
  have hdown : downSlot s port = s := by
    unfold downSlot
    split
    · exact if_neg (by rw [hd]; simp)
    · rfl
  have hslot : txSlot s port = markSlot (s.modPort port fun o => { o with slot := (o.slot + 1) % 1024 }) port 7 := by
    unfold txSlot
    dsimp only
    rw [if_pos hup, hdown]
  obtain ⟨a, b, hmark⟩ := markSlot_port (port := port) s 7
  rw [hslot, hmark]
  exact ⟨rfl, rfl⟩

/-- A slot of a direction that is silent sends nothing. -/
theorem txSlot_silent (hup : s.portUp port = true) (hs : silent (s.port port) = true) : (txSlot s port).outbox = s.outbox := by
  rw [txSlot_up hup, upSlot_silent ((slotServed_ready s port).free.1.trans hs)]
  exact (markSlot_outbox ..).trans ((slotServed_ready s port).way.outbox_eq rfl)

end

/-- Settles O23: what a transmit slot and a NULL put on the link. -/
theorem linkSends : Obligations.LinkSends := by
  intro s port _
  refine ⟨fun ⟨hup, hs, hn, ho⟩ hr hlen c rest hq hgo hsync => ?_, fun ⟨hup, hs, hn, ho⟩ f rest hr hq hsync => ?_, fun hup hd => ⟨_, rfl, txSlot_down hup hd⟩,
    fun hup hs _ => ⟨_, rfl, txSlot_silent hup hs⟩, fun hup hack => ⟨fun hs => ?_, fun hs => ?_⟩⟩
  · obtain ⟨hslot, hctlq, hnext, hretry, f, hf⟩ := txSlot_ctl hup hs hn ho hr hlen hq hgo hsync
    exact ⟨_, rfl, hslot, hctlq, hnext, hretry, f, hf.outbox, hf.ack, hf.ackv, hf.crc, hf.type, hf.seq, hf.payload⟩
  · obtain ⟨hresend, hretry, hcount, g, hg⟩ := txSlot_replay hup hs hn ho hr hq hsync
    exact ⟨_, rfl, hresend, hretry, hcount, g, hg.outbox, hg.ack, hg.ackv, hg.crc, hg.type, hg.seq, hg.payload⟩
  · obtain ⟨f, hf⟩ := sendFlit_sent s port 0 0 (lastAccepted (s.port port)) .empty
    obtain ⟨l, hret⟩ := returning_port s port
    refine ⟨_, congrArg Host.Outcome.next (if_pos ⟨hup, hack, hs⟩), ?_, f, hf.outbox, hf.ack, hf.ackv, hf.crc, hf.type, hf.payload⟩
    rw [sendFlit_port, hret]
  · exact ⟨s, congrArg Host.Outcome.next (if_neg fun h => absurd (hs.symm.trans h.2.2) (by decide)), rfl⟩

end Sys2Proof.Machine
end

section
/-! HELLO and what a port enters Up with (R127, R129, R130, R134, R155). -/

namespace Sys2Proof.Machine

open Sys2Proof

section
variable {s t u : State} {port : Nat}

/-! ### What training settles of the lanes (R132, R134) -/

/-- The entry of a port's width in a direction. -/
theorem noteWidth_way (s : State) (port : Nat) (tx : Bool) (w : Nat) :
    Keeps [13, 16, 0x7002, 0x9000, 0x9001] (s.wr (if tx then R.FAB_PORT_WIDTH_TX else R.FAB_PORT_WIDTH_RX) port w) (noteWidth s port tx w) := by
  unfold noteWidth
  refine .ite (penOnce_keeps (.of rfl Sub.rfl) (record_keeps (.of rfl Sub.rfl) (Keeps.refl _ _))) (.ite (penUnfix_keeps Sub.rfl (Keeps.refl _ _)) (Keeps.refl _ _))

/-- A port's receive width noted. -/
theorem noteWidth_rx (s : State) (port w : Nat) : (noteWidth s port false w).rd R.FAB_PORT_WIDTH_RX port = w % 256 :=
  ((noteWidth_way s port false w).rd R.FAB_PORT_WIDTH_RX port rfl).trans (rd_wr_same ..)

/-- Every lane that is not Out and passes is among the lanes that a training settles. -/
theorem trainLanes_rx (s : State) (port : Nat) (pass : List Nat) : ∃ l : List Nat,
    ((List.range (nLanes port)).filter fun k => pass.contains k && s.lane port k != lOut).length ≤ l.length ∧
    ((s.port port).outClr = [] → l = (List.range (nLanes port)).filter fun k => pass.contains k && s.lane port k != lOut) ∧
    (trainLanes s port pass).rd R.FAB_PORT_WIDTH_RX port =
      (if fullWidth port ≤ l.length then fullWidth port else if redWidth port ≤ l.length then redWidth port else 0) % 256 := by
  refine ⟨_, ?_, fun h => ?_, noteWidth_rx ..⟩
  · refine (List.monotone_filter_right (List.range (nLanes port)) fun k hk => ?_).length_le
    simp only [Bool.and_eq_true, bne_iff_ne] at hk
    simpa [hk.2] using hk.1
  · refine List.filter_congr fun k _ => ?_
    simp [h, bne]

/-- The receive lanes Out that the partner's new module has returned hold no other entry. -/
theorem relitLanes_way (s : State) (port : Nat) (relit pass : List Nat) : Keeps [13, 16, 0x4010, 0x7002, 0x9000, 0x9001] s (relitLanes s port relit pass) :=
  relitLanes_keeps Sub.rfl (Keeps.refl _ s)

/-! ### The transmit lanes that a HELLO gives (R129, R132) -/

/-- The states of the transmit lanes, with those that this chip's new module has returned Ready. -/
def givenLanes (s : State) (port : Nat) (given : List Nat) : List Nat :=
  (List.range given.length).map fun l => if (s.port port).relit.contains l ∧ getAt lIdle given l = lOut then lReady else getAt lIdle given l

theorem getAt_map_range {α : Type} (d : α) (f : Nat → α) (n k : Nat) : getAt d ((List.range n).map f) k = if k < n then f k else d := by
  rw [getAt_eq_getElem]
  split
  next h => simp [h]
  next h => simp [h]

/-- A lane is given as Active exactly where the HELLO says so. -/
theorem givenLanes_active (s : State) (port : Nat) (given : List Nat) (k : Nat) :
    getAt lIdle (givenLanes s port given) k = lActive ↔ getAt lIdle given k = lActive := by
  rw [givenLanes, getAt_map_range]
  split
  next hk =>
    split
    next h => rw [h.2]; decide
    next => rfl
  next hk =>
    rw [getAt_eq_getElem, List.getElem?_eq_none (by omega)]
    rfl

/-- The places of a list that hold a value are as many as its entries that are that value. -/
theorem length_places (d a : Nat) (l : List Nat) : ((List.range l.length).filter fun k => getAt d l k == a).length = (l.filter fun x => x == a).length := by
  have hmap : l = (List.range l.length).map (getAt d l) := List.ext_getElem (by simp) fun k h _ => by simp [getAt_eq_getElem, h]
  conv_rhs => rw [hmap, List.filter_map, List.length_map]
  rfl

theorem length_givenActive (s : State) (port : Nat) (given : List Nat) :
    ((List.range (givenLanes s port given).length).filter fun l => getAt lIdle (givenLanes s port given) l == lActive).length =
      (given.filter fun st => st == lActive).length := by
  rw [← length_places lIdle lActive given]
  have hlen : (givenLanes s port given).length = given.length := by simp [givenLanes]
  rw [hlen]
  refine congrArg List.length (List.filter_congr fun k _ => ?_)
  rw [Bool.eq_iff_iff, beq_iff_eq, beq_iff_eq]
  exact givenLanes_active ..

/-- A value that no entry of a key has is not what the table gives. -/
theorem mapGet_ne {α : Type} {d v : α} {l : Map α} {k : Nat} (hd : d ≠ v) (h : ∀ e ∈ l, e.1 = k → e.2 ≠ v) : mapGet d l k ≠ v := by
  induction l with
  | nil => exact hd
  | cons e l ih =>
    obtain ⟨k', w⟩ := e
    rw [mapGet]
    split
    next hk => exact h _ List.mem_cons_self hk
    next => exact ih fun e he => h e (List.mem_cons_of_mem _ he)

/-- A wavelength that its laser took is not one that the port sends on. -/
def NoLostWave (s : State) (port : Nat) : Prop := ∀ e ∈ (s.port port).txCause, mapGet lIdle (s.port port).txLanes e.1 ≠ lActive

/-- The transmit lanes settled, and their width. -/
theorem setTxLanes_spec (s : State) (port : Nat) (given : List Nat) :
    (setTxLanes s port given).rd R.FAB_PORT_WIDTH_TX port = (given.filter fun st => st == lActive).length % 256 ∧
      ((∀ e ∈ (s.port port).txCause, getAt lIdle given e.1 ≠ lActive) → NoLostWave (setTxLanes s port given) port) ∧
      (∀ r i, r.index * 256 + r.sub % 256 ≠ R.FAB_PORT_WIDTH_TX.index * 256 + R.FAB_PORT_WIDTH_TX.sub % 256 → regPlace r = 0x4000 →
        (setTxLanes s port given).rd r i = s.rd r i) := by
  have hway := noteWidth_way (s.modPort port fun o => { o with
      txLanes := (List.range (givenLanes s port given).length).map fun l => (l, getAt lIdle (givenLanes s port given) l),
      txRoles := (List.range ((List.range (givenLanes s port given).length).filter fun l => getAt lIdle (givenLanes s port given) l == lActive).length).map fun k =>
        (getAt 0 ((List.range (givenLanes s port given).length).filter fun l => getAt lIdle (givenLanes s port given) l == lActive) k, k) }) port true
    ((List.range (givenLanes s port given).length).filter fun l => getAt lIdle (givenLanes s port given) l == lActive).length
  refine ⟨?_, fun h e he => ?_, fun r i hr hp => ?_⟩
  · refine (hway.rd R.FAB_PORT_WIDTH_TX port rfl).trans ((rd_wr_same ..).trans ?_)
    rw [length_givenActive]
    rfl
  · have hport : (setTxLanes s port given).port port = _ := (hway.port_eq rfl port).trans ((port_wr ..).trans (port_modPort_same ..))
    rw [hport] at he ⊢
    refine mapGet_ne (by decide) fun x hx hk => ?_
    obtain ⟨l, _, rfl⟩ := List.mem_map.1 hx
    exact fun hact => h e he ((givenLanes_active s port given e.1).1 (hk ▸ hact))
  · refine (hway.rd r i (by rw [hp]; rfl)).trans (rd_wr_ne _ _ hr)

/-! ### What a port keeps while it enters Up -/

/-- From `s` to `t` the port's transmit lanes stay, and what trains it. -/
structure SameWaves (port : Nat) (s t : State) : Prop where
  lanes : (t.port port).txLanes = (s.port port).txLanes
  cause : (t.port port).txCause = (s.port port).txCause
  train : (t.port port).train = (s.port port).train

theorem SameWaves.refl (port : Nat) (s : State) : SameWaves port s s := ⟨rfl, rfl, rfl⟩

theorem SameWaves.trans (h : SameWaves port s t) (h' : SameWaves port t u) : SameWaves port s u :=
  ⟨h'.lanes.trans h.lanes, h'.cause.trans h.cause, h'.train.trans h.train⟩

theorem SameWaves.of_keeps {T : List Nat} (h : Keeps T s t) (hT : T.contains 9 = false) : SameWaves port s t := by
  have hport := h.port_eq hT port
  exact ⟨by rw [hport], by rw [hport], by rw [hport]⟩

theorem SameWaves.ite {c : Prop} [Decidable c] (h : SameWaves port s t) (h' : SameWaves port s u) : SameWaves port s (if c then t else u) := by
  split <;> assumption

theorem SameWaves.each {α : Type} {f : State → α → State} (hf : ∀ v x, SameWaves port v (f v x)) (l : List α) : SameWaves port s (s.each l f) := by
  induction l generalizing s with
  | nil => exact .refl port s
  | cons x l ih => exact (hf s x).trans ih

theorem SameWaves.noLost (h : SameWaves port s t) (hs : NoLostWave s port) : NoLostWave t port := by
  intro e he
  rw [h.cause] at he
  rw [h.lanes]
  exact hs e he

/-- A change of a port that leaves its lanes and training. -/
theorem SameWaves.modPort (s : State) (p : Nat) {f : Port → Port} (hl : ∀ o, (f o).txLanes = o.txLanes) (hc : ∀ o, (f o).txCause = o.txCause)
    (ht : ∀ o, (f o).train = o.train) : SameWaves port s (s.modPort p f) := by
  by_cases hp : port = p
  · subst hp
    exact ⟨by rw [port_modPort_same, hl], by rw [port_modPort_same, hc], by rw [port_modPort_same, ht]⟩
  · have h : (s.modPort p f).port port = s.port port := port_modPort_other _ _ hp
    exact ⟨by rw [h], by rw [h], by rw [h]⟩

theorem ctlSend_waves (s : State) (p : Nat) (c : LinkCtl) : SameWaves port s (ctlSend s p c) := .modPort s p (fun _ => rfl) (fun _ => rfl) fun _ => rfl

theorem tellDepth_waves (s : State) : SameWaves port s (tellDepth s) := .each (fun v _ => ctlSend_waves v _ _) _

theorem clockLoop_waves (s : State) (p d : Nat) : SameWaves port s (clockLoop s p d) :=
  .of_keeps (T := [16, 0x4020, 0x7002]) (clockLoop_keeps Sub.rfl (Keeps.refl _ s)) rfl

theorem depthRx_waves (s : State) (p d : Nat) : SameWaves port s (depthRx s p d) := by
  have hdepth : SameWaves port s (s.modPort p fun o => { o with clockDepth := d }) := .modPort s p (fun _ => rfl) (fun _ => rfl) fun _ => rfl
  refine .ite hdepth (.ite (hdepth.trans (clockLoop_waves ..)) (.ite hdepth (hdepth.trans (.trans ?_ (tellDepth_waves _)))))
  exact .of_keeps (wr_keeps Sub.rfl (Keeps.refl _ _)) rfl

theorem followPort_waves (s : State) (p : Nat) : SameWaves port s (followPort s p) := by
  have hfollow : SameWaves port s (s.modRouter fun r => { r with clkPort := some p }) := ⟨rfl, rfl, rfl⟩
  refine .ite (hfollow.trans (clockLoop_waves ..)) (hfollow.trans (.trans ?_ (tellDepth_waves _)))
  exact .of_keeps (T := [0x4020]) (wr_keeps Sub.rfl (wr_keeps Sub.rfl (Keeps.refl _ _))) rfl

theorem switchClock_waves (s : State) (p q : Nat) : SameWaves port s (switchClock s p q) :=
  .trans (.ite (.refl port s) (.of_keeps (keeps_record ..) rfl)) (followPort_waves _ _)

theorem clockBack_waves (s : State) (p : Nat) : SameWaves port s (clockBack s p) :=
  .ite (.ite (.refl port s) (switchClock_waves ..)) (.ite (switchClock_waves ..) (.refl port s))

theorem resumeRetry_waves (s : State) (p n : Nat) : SameWaves port s (resumeRetry s p n) := by
  refine .trans ?_ (.modPort _ p (fun _ => rfl) (fun _ => rfl) fun _ => rfl)
  exact .ite (.refl port s) (.modPort s p (fun _ => rfl) (fun _ => rfl) fun _ => rfl)

theorem giveBack_waves (s : State) (p c n : Nat) : SameWaves port s (giveBack s p c n) :=
  .ite (.refl port s) (.modPort s p (fun _ => rfl) (fun _ => rfl) fun _ => rfl)

theorem dropPkt_waves (s : State) (k c : Nat) (p : Packet) : SameWaves port s (dropPkt s k c p) := .of_keeps (dropPkt_keeps Sub.rfl (Keeps.refl _ s)) rfl

theorem dropPartials_waves (s : State) (p : Nat) : SameWaves port s (dropPartials s p) := by
  have hfresh (v : State) : SameWaves port v (v.modPort p fun o => { o with
      rx := [], cur := [], retry := [], resend := 0, rewinds := 0, txNext := 0, txOldest := 0, rxExpected := 0 }) :=
    .modPort v p (fun _ => rfl) (fun _ => rfl) fun _ => rfl
  refine .trans ?_ (hfresh _)
  refine .trans ?_ (.of_keeps (dropExchange_keeps Sub.rfl (Keeps.refl _ _)) rfl)
  refine .trans ?_ (.each (fun v x => giveBack_waves v _ _ _) _)
  exact .trans (.each (fun v x => dropPkt_waves v _ _ _) _) (.each (fun v x => dropPkt_waves v _ _ _) _)

/-- Where no lost wavelength is sent on, none leaves. -/
theorem wavesDue_none (h : NoLostWave s port) : wavesDue s port = s := by
  have hall : ∀ l : List (Nat × Nat), (∀ e ∈ l, mapGet lIdle (s.port port).txLanes e.1 ≠ lActive) →
      (s.each l fun t e => if t.portUp port = true ∧ mapGet lIdle (t.port port).txLanes e.1 = lActive then waveDue t port e.1 e.2 else t) = s := by
    intro l hl
    induction l with
    | nil => rfl
    | cons e l ih =>
      rw [State.each, if_neg fun hup => hl e List.mem_cons_self hup.2]
      exact ih fun x hx => hl x (List.mem_cons_of_mem _ hx)
  exact hall _ h

/-! ### Entering Up (R129, R155) -/

/-- The entries of the channels of a list written. -/
theorem rd_each_vc (r : Reg) (f : Nat → Nat) {c : Nat} (hc : c < 8) (l : List Nat) (hl : ∀ v ∈ l, v < 8) (s : State) :
    (s.each l fun t v => t.wr r (vcKey port v) (f v)).rd r (vcKey port c) = if c ∈ l then f c % 2 ^ regBits r else s.rd r (vcKey port c) := by
  induction l generalizing s with
  | nil => rfl
  | cons v l ih =>
    rw [State.each, ih fun w hw => hl w (List.mem_cons_of_mem _ hw)]
    by_cases hcl : c ∈ l
    · rw [if_pos hcl, if_pos (List.mem_cons_of_mem _ hcl)]
    · rw [if_neg hcl]
      by_cases hv : c = v
      · rw [if_pos (hv ▸ List.mem_cons_self), hv, rd_wr_same]
      · rw [if_neg (by simp [hv, hcl]), rd_wr_vc _ (hl v List.mem_cons_self) hc hv]

/-- The credits of a port just Up: the whole buffer of each class. -/
theorem fullCredits_full (s : State) {c : Nat} (hc : c ∈ crClasses) : (fullCredits s port).rd R.FAB_VC_CREDIT (vcKey port c) = crSize c := by
  have hlow : ∀ c ∈ crClasses, c < 8 := by decide
  have hlt : crSize c < 2 ^ 16 := crSize_lt c
  unfold fullCredits
  rw [rd_modPort, rd_each_vc _ _ (hlow c hc) _ hlow, if_pos hc]
  exact Nat.mod_eq_of_lt hlt

theorem foldl_held_credit (k : Nat) (l : List Nat) (s : State) :
    (l.foldl (fun t v => t.wr R.FAB_VC_HELD (vcKey port v) 0) s).rd R.FAB_VC_CREDIT k = s.rd R.FAB_VC_CREDIT k := by
  induction l generalizing s with
  | nil => rfl
  | cons v l ih => rw [List.foldl_cons, ih, rd_wr_ne _ _ (by decide)]

theorem foldl_held_way (l : List Nat) (s : State) : Keeps [0x4110] s (l.foldl (fun t v => t.wr R.FAB_VC_HELD (vcKey port v) 0) s) := by
  induction l generalizing s with
  | nil => exact Keeps.refl _ s
  | cons v l ih => exact (wr_keeps (T := [0x4110]) Sub.rfl (Keeps.refl _ s)).trans (ih _)

/-- What a port is once it has entered Up, the record of it made. -/
structure Up (port : Nat) (s t : State) : Prop where
  state : t.rd R.FAB_PORT_STATE port = 2
  tx : t.rd R.FAB_PORT_WIDTH_TX port = s.rd R.FAB_PORT_WIDTH_TX port
  partner : t.rd R.FAB_PORT_PARTNER port = s.rd R.FAB_PORT_PARTNER port
  lat : t.rd R.FAB_PORT_LAT port = s.rd R.FAB_PORT_LAT port
  train : (t.port port).train = none
  credit : ∀ c ∈ crClasses, t.rd R.FAB_VC_CREDIT (vcKey port c) = crSize c

theorem Up.keep {T : List Nat} (h : Up port s t) (ht : Keeps T t u) (h40 : (T.contains 0x4000 || T.contains 31) = false)
    (h41 : (T.contains 0x4110 || T.contains 31) = false) (hport : SameWaves port t u) : Up port s u where
  state := (ht.rd R.FAB_PORT_STATE port h40).trans h.state
  tx := (ht.rd R.FAB_PORT_WIDTH_TX port h40).trans h.tx
  partner := (ht.rd R.FAB_PORT_PARTNER port h40).trans h.partner
  lat := (ht.rd R.FAB_PORT_LAT port h40).trans h.lat
  train := hport.train.trans h.train
  credit c hc := (ht.rd R.FAB_VC_CREDIT (vcKey port c) h41).trans (h.credit c hc)

/-- A port's state as it enters Up, before its neighbour's clock is heard and its lost wavelengths leave. -/
def enteredUp (s : State) (port : Nat) (h : Hello) : State :=
  let full := (s.port port).train != some .width
  let s1 := fullCredits ((s.wr R.FAB_PORT_STATE port 2).wr R.FAB_PORT_CAUSE port 0) port
  let moved (q : QPacket) : QPacket := if q.pkt.vc = 1 then { q with displaced := q.pkt.len + 1 } else q
  let s2 := s1.modPort port fun o =>
    { o with
      train := none, attempts := 0, partner := some h, downNs := none, holdDone := false, naked := false, relit := [],
      outClr := if full then [] else o.outClr, pendingMoves := if full then [] else o.pendingMoves,
      cur := o.cur.map (fun e => (e.1, { e.2 with q := moved e.2.q })), txq := o.txq.map (fun e => (e.1, e.2.map moved)) }
  (List.range 7).foldl (fun t v => t.wr R.FAB_VC_HELD (vcKey port v) 0) s2

/-- The record of a port's entering Up. -/
def upFields (s : State) (port : Nat) : List (Nat × Nat) :=
  [(1, s.rd R.FAB_PORT_WIDTH_RX port), (1, s.rd R.FAB_PORT_WIDTH_TX port), (4, s.rd R.FAB_PORT_PARTNER port), (4, s.rd R.FAB_PORT_LAT port)]

theorem enterUp_eq (s : State) (port : Nat) (h : Hello) : enterUp s port h =
    wavesDue (clockBack (depthRx (clvPortUp ((enteredUp s port h).record 0x6001 (uPort port) (upFields (enteredUp s port h) port)) port) port h.depth) port)
      port := rfl

theorem enteredUp_up (s : State) (port : Nat) (h : Hello) : Up port s (enteredUp s port h) ∧ (NoLostWave s port → NoLostWave (enteredUp s port h) port) := by
  have hcredits : Keeps [9, 0x4110] ((s.wr R.FAB_PORT_STATE port 2).wr R.FAB_PORT_CAUSE port 0)
      (fullCredits ((s.wr R.FAB_PORT_STATE port 2).wr R.FAB_PORT_CAUSE port 0) port) := fullCredits_keeps Sub.rfl (Keeps.refl _ _)
  have hrd (v : State) (f : Port → Port) (r : Reg) (i : Nat) (hr : regPlace r = 0x4000) :
      ((List.range 7).foldl (fun t v => t.wr R.FAB_VC_HELD (vcKey port v) 0) (v.modPort port f)).rd r i = v.rd r i :=
    (foldl_held_way ..).rd r i (by rw [hr]; rfl)
  refine ⟨⟨?_, ?_, ?_, ?_, ?_, fun c hc => ?_⟩, fun hn => ?_⟩
  · rw [enteredUp, hrd _ _ _ _ rfl, hcredits.rd R.FAB_PORT_STATE port rfl, rd_wr_ne _ _ (by decide), rd_wr_same]
    rfl
  · rw [enteredUp, hrd _ _ _ _ rfl, hcredits.rd R.FAB_PORT_WIDTH_TX port rfl, rd_wr_ne _ _ (by decide), rd_wr_ne _ _ (by decide)]
  · rw [enteredUp, hrd _ _ _ _ rfl, hcredits.rd R.FAB_PORT_PARTNER port rfl, rd_wr_ne _ _ (by decide), rd_wr_ne _ _ (by decide)]
  · rw [enteredUp, hrd _ _ _ _ rfl, hcredits.rd R.FAB_PORT_LAT port rfl, rd_wr_ne _ _ (by decide), rd_wr_ne _ _ (by decide)]
  · rw [enteredUp, (foldl_held_way ..).port_eq rfl, port_modPort_same]
  · rw [enteredUp, foldl_held_credit, rd_modPort, fullCredits_full _ hc]
  · have hport : (fullCredits ((s.wr R.FAB_PORT_STATE port 2).wr R.FAB_PORT_CAUSE port 0) port).port port = { s.port port with sent := [], freed := [], owed := [], rxFlits := 0 } := by
      rw [fullCredits, port_modPort_same, (each_keeps (T := [0x4110]) (fun v x h => wr_keeps Sub.rfl h) (Keeps.refl _ _)).port_eq rfl, port_wr, port_wr]
    intro e
    rw [enteredUp, (foldl_held_way ..).port_eq rfl, port_modPort_same, hport]
    exact hn e

/-- The rest of entering Up leaves the port's entries and credits. -/
theorem Up.told {v : State} (hup : Up port s v) (hn : NoLostWave v port) (d : Nat) :
    Up port s (wavesDue (clockBack (depthRx (clvPortUp v port) port d) port) port) := by
  have hclv : Keeps [13, 17] v (clvPortUp v port) := clvPortUp_keeps Sub.rfl (Keeps.refl _ v)
  have hdepth : Keeps [9, 16, 0x4020, 0x7002] (clvPortUp v port) (depthRx (clvPortUp v port) port d) := depthRx_keeps Sub.rfl (Keeps.refl _ _)
  have hclock : Keeps [9, 11, 16, 0x4020, 0x7002] (depthRx (clvPortUp v port) port d) (clockBack (depthRx (clvPortUp v port) port d) port) :=
    clockBack_keeps Sub.rfl (Keeps.refl _ _)
  have hwaves : SameWaves port v (clockBack (depthRx (clvPortUp v port) port d) port) :=
    (SameWaves.of_keeps hclv rfl).trans ((depthRx_waves ..).trans (clockBack_waves ..))
  rw [wavesDue_none (hwaves.noLost hn)]
  exact ((hup.keep hclv rfl rfl (.of_keeps hclv rfl)).keep hdepth rfl rfl (depthRx_waves ..)).keep hclock rfl rfl (clockBack_waves ..)

/-- A port that enters Up with no lost wavelength among its Active lanes is Up with full credit. -/
theorem enterUp_up (h : Hello) (hn : NoLostWave s port) : Up port s (enterUp s port h) := by
  obtain ⟨hup, hlost⟩ := enteredUp_up s port h
  have hrec : Keeps [16, 0x7002] (enteredUp s port h) ((enteredUp s port h).record 0x6001 (uPort port) (upFields (enteredUp s port h) port)) := keeps_record ..
  rw [enterUp_eq]
  exact (hup.keep hrec rfl rfl (.of_keeps hrec rfl)).told ((SameWaves.of_keeps hrec rfl).noLost (hlost hn)) h.depth

/-! ### The partner's HELLO (R127, R129, R130) -/

/-- The partner and the latency that a HELLO gives, noted. -/
def heard (s : State) (port lat : Nat) (h : Hello) : State :=
  (s.wr R.FAB_PORT_PARTNER port (h.chip + h.port * 2 ^ 17)).wr R.FAB_PORT_LAT port lat

/-- The lanes of both directions as a HELLO leaves them. -/
def lanesGiven (s : State) (port lat : Nat) (h : Hello) (pass : List Nat) : State :=
  setTxLanes (relitLanes (heard s port lat h) port h.relit pass) port h.lanes

section
variable {lat : Nat} {h : Hello} {pass : List Nat}

theorem relit_port (k : Nat) : (relitLanes (heard s port lat h) port h.relit pass).port k = s.port k := (relitLanes_way ..).port_eq rfl k

/-- What a HELLO's lanes leave of the port's entries. -/
theorem lanesGiven_spec (hchip : h.chip < 2 ^ 17) (hp : h.port < 8) (hlat : lat < 2 ^ 32) (hlen : (h.lanes.filter fun st => st == lActive).length < 256) :
    (lanesGiven s port lat h pass).rd R.FAB_PORT_WIDTH_RX port = s.rd R.FAB_PORT_WIDTH_RX port ∧
      (lanesGiven s port lat h pass).rd R.FAB_PORT_WIDTH_TX port = (h.lanes.filter fun st => st == lActive).length ∧
      (lanesGiven s port lat h pass).rd R.FAB_PORT_PARTNER port = h.chip + h.port * 2 ^ 17 ∧
      (lanesGiven s port lat h pass).rd R.FAB_PORT_LAT port = lat ∧
      ((∀ e ∈ (s.port port).txCause, getAt lIdle h.lanes e.1 ≠ lActive) → NoLostWave (lanesGiven s port lat h pass) port) := by
  obtain ⟨htx, hlost, hother⟩ := setTxLanes_spec (relitLanes (heard s port lat h) port h.relit pass) port h.lanes
  rw [relit_port] at hlost
  have hrelit := relitLanes_way (heard s port lat h) port h.relit pass
  refine ⟨?_, htx.trans (Nat.mod_eq_of_lt hlen), ?_, ?_, hlost⟩
  · rw [lanesGiven, hother _ _ (by decide) rfl, hrelit.rd R.FAB_PORT_WIDTH_RX port rfl, heard, rd_wr_ne _ _ (by decide), rd_wr_ne _ _ (by decide)]
  · rw [lanesGiven, hother _ _ (by decide) rfl, hrelit.rd R.FAB_PORT_PARTNER port rfl, heard, rd_wr_ne _ _ (by decide), rd_wr_same]
    exact Nat.mod_eq_of_lt (by show _ < 2 ^ 32; omega)
  · rw [lanesGiven, hother _ _ (by decide) rfl, hrelit.rd R.FAB_PORT_LAT port rfl, heard, rd_wr_same]
    exact Nat.mod_eq_of_lt hlat

/-- The retry state resumed, or discarded, leaves the port's entries and lanes. -/
theorem retrySettled (s : State) (port n : Nat) (c : Bool) : Keeps [4, 6, 9, 16, 0x4140, 0x7002] s (if c then resumeRetry s port n else dropPartials s port) ∧
    SameWaves port s (if c then resumeRetry s port n else dropPartials s port) :=
  ⟨.ite (resumeRetry_keeps (.of rfl Sub.rfl) (Keeps.refl _ s)) (dropPartials_keeps Sub.rfl (Keeps.refl _ s)), .ite (resumeRetry_waves ..) (dropPartials_waves ..)⟩

/-- A HELLO is heard while the port trains and its codewords are aligned. -/
theorem helloRx_heard (hst : s.rd R.FAB_PORT_STATE port = 1) (hfec : (s.port port).fecUp = true) : ∃ same : Bool, helloRx s port h lat pass =
    if (if isOptical port then 1150 else 150) < lat then goDown (heard s port lat h) port 4
    else if s.rd R.FAB_PORT_EXPECT port ≠ 0xFFFFFFFF ∧ s.rd R.FAB_PORT_EXPECT port % 2 ^ 20 ≠ h.chip + h.port * 2 ^ 17 then
      goDown ((heard s port lat h).record 0x6004 (uPort port) [(4, h.chip), (1, h.port)]) port 3
    else if (lanesGiven s port lat h pass).rd R.FAB_PORT_WIDTH_RX port < redWidth port ∨ (lanesGiven s port lat h pass).rd R.FAB_PORT_WIDTH_TX port < redWidth port then
      goDown (lanesGiven s port lat h pass) port 1
    else enterUp (if same then resumeRetry (lanesGiven s port lat h pass) port h.expected else dropPartials (lanesGiven s port lat h pass) port) port h :=
  ⟨_, if_neg (by simp [hst, hfec])⟩

/-- A HELLO that serves takes the port Up. -/
theorem helloRx_up {same : Bool} (hchip : h.chip < 2 ^ 17) (hp : h.port < 8) (hlat : lat < 2 ^ 32)
    (hlen : (h.lanes.filter fun st => st == lActive).length < 256) (hcause : ∀ e ∈ (s.port port).txCause, getAt lIdle h.lanes e.1 ≠ lActive) {t : State}
    (ht : t = enterUp (if same then resumeRetry (lanesGiven s port lat h pass) port h.expected else dropPartials (lanesGiven s port lat h pass) port) port h) :
    t.rd R.FAB_PORT_STATE port = 2 ∧ t.rd R.FAB_PORT_WIDTH_TX port = (h.lanes.filter fun st => st == lActive).length ∧
      t.rd R.FAB_PORT_PARTNER port = h.chip + h.port * 2 ^ 17 ∧ t.rd R.FAB_PORT_LAT port = lat ∧ (t.port port).train = none ∧
      ∀ c ∈ crClasses, t.rd R.FAB_VC_CREDIT (vcKey port c) = crSize c := by
  obtain ⟨_, htx, hpartner, hl, hlost⟩ := lanesGiven_spec (s := s) (port := port) (pass := pass) hchip hp hlat hlen
  obtain ⟨hway, hwaves⟩ := retrySettled (lanesGiven s port lat h pass) port h.expected same
  obtain ⟨hst, htx', hpartner', hlat', htrain, hcredit⟩ := enterUp_up h (hwaves.noLost (hlost hcause))
  rw [hway.rd R.FAB_PORT_WIDTH_TX port rfl, htx] at htx'
  rw [hway.rd R.FAB_PORT_PARTNER port rfl, hpartner] at hpartner'
  rw [hway.rd R.FAB_PORT_LAT port rfl, hl] at hlat'
  subst ht
  exact ⟨hst, htx', hpartner', hlat', htrain, hcredit⟩

/-- A port that goes Down, by its cause. -/
theorem goDown_by (u : State) (hport : port < 6) {cause : Nat} (hc : cause < 256) :
    (goDown u port cause).rd R.FAB_PORT_STATE port = 3 ∧ (goDown u port cause).rd R.FAB_PORT_CAUSE port = cause := by
  obtain ⟨h3, hcause, _⟩ := goDown_spec (s := u) hport cause
  exact ⟨h3, hcause.trans (Nat.mod_eq_of_lt hc)⟩

end

/-! ### Codewords align, and a width is reduced (R129, R134) -/

/-- The HELLO that a port sends. -/
theorem sendHello_spec (s : State) (port : Nat) : ((sendHello s port).port port).fecUp = true ∧ ∃ f m, (sendHello s port).outbox = s.outbox ++ [.flit port f] ∧
    f.type = 3 ∧ f.seq = 0 ∧ f.payload = .ctl (.hello m) ∧ f.ack = ((s.port port).rxExpected + 4095) % 4096 ∧ f.ackv = true ∧ f.crc = flitCrc f ∧
    m.chip = s.me ∧ m.port = port ∧ m.expected = (s.port port).rxExpected := by
  refine ⟨?_, _, _, rfl, rfl, rfl, rfl, rfl, rfl, rfl, rfl, rfl, rfl⟩
  have h : (s.modPort port fun o => { o with fecUp := true, helloSent := true }).port port = _ := port_modPort_same ..
  exact congrArg Port.fecUp h

/-- Codewords that align in a training settle its lanes and send HELLO. -/
theorem fecAligned_training (hst : s.rd R.FAB_PORT_STATE port = 1) (pass : List Nat) : fecAligned s port true pass =
    sendHello (if (s.port port).train = some .width then s else trainLanes s port pass) port := by
  unfold fecAligned
  rw [hst]
  exact if_neg (by decide)

/-- The lanes settled before HELLO leave the port and the chip's number. -/
theorem settled_way (s : State) (port : Nat) (pass : List Nat) : Keeps [13, 16, 0x4000, 0x4010, 0x7002, 0x9000, 0x9001, 0x9010] s
    (if (s.port port).train = some .width then s else trainLanes s port pass) := .ite (Keeps.refl _ s) (trainLanes_keeps Sub.rfl (Keeps.refl _ s))

theorem sendHello_rx (s : State) (port : Nat) : (sendHello s port).rd R.FAB_PORT_WIDTH_RX port = s.rd R.FAB_PORT_WIDTH_RX port := rfl

/-- The receive lanes that fail in a training leave the port's state. -/
theorem lost_way (l : List Nat) (s : State) : Keeps [13, 16, 0x4010, 0x7002, 0x9000, 0x9001, 0x9010] s (s.each l fun t k => laneOut (laneFaulty t port k 5) port k) :=
  each_keeps (fun _ _ h => laneOut_keeps Sub.rfl (laneFaulty_keeps (.of rfl Sub.rfl) h)) (Keeps.refl _ s)

theorem widths_byte (port : Nat) : fullWidth port < 256 ∧ redWidth port < 256 ∧ redWidth port ≤ fullWidth port := by
  unfold fullWidth redWidth
  split <;> decide

/-- A receive direction at its reduced width. -/
theorem widthReduce_spec (hport : port < 6) (hst : s.rd R.FAB_PORT_STATE port = 1) (htrain : (s.port port).train = some .width) (pass : List Nat) :
    (redWidth port ≤ ((List.range (nLanes port)).filter fun l => pass.contains l && s.lane port l != lOut).length →
      (widthReduce s port false pass).rd R.FAB_PORT_WIDTH_RX port = redWidth port ∧ (widthReduce s port false pass).rd R.FAB_PORT_STATE port = 1) ∧
    (((List.range (nLanes port)).filter fun l => pass.contains l && s.lane port l != lOut).length < redWidth port →
      (widthReduce s port false pass).rd R.FAB_PORT_STATE port = 3 ∧ (widthReduce s port false pass).rd R.FAB_PORT_CAUSE port = 1) := by
  have hlost := lost_way (port := port) ((List.range (nLanes port)).filter fun l => !pass.contains l && s.lane port l != lOut) s
  unfold widthReduce
  dsimp only
  rw [if_neg (by simp [hst, htrain]), if_neg Bool.false_ne_true]
  refine ⟨fun h => ?_, fun h => ?_⟩
  · rw [if_neg (by omega)]
    refine ⟨(noteWidth_rx ..).trans (Nat.mod_eq_of_lt (widths_byte port).2.1), ?_⟩
    have hset (u : State) (w : Nat) (ls : List Nat) : Keeps [0x4010] u (setLanes u port w ls) := setLanes_keeps Sub.rfl (Keeps.refl _ u)
    rw [(noteWidth_way ..).rd R.FAB_PORT_STATE port rfl, rd_wr_ne _ _ (by decide), (hset ..).rd R.FAB_PORT_STATE port rfl, hlost.rd R.FAB_PORT_STATE port rfl, hst]
  · rw [if_pos h]
    exact goDown_by _ hport (by decide)

end

/-- Settles O21: what a port's HELLO says, and whether the partner's takes the port Up or Down. -/
theorem helloBringsUp : Obligations.HelloBringsUp := by
  intro s port lat h pass hport hchip hp hlat hst limit who want sound given
  have hbyte := widths_byte port
  refine ⟨⟨_, congrArg Host.Outcome.next (fecAligned_training hst pass), ?_⟩, fun hfec => ?_, fun htrain => ?_⟩
  · have hway := settled_way s port pass
    obtain ⟨hup, f, m, hout, htype, hseq, hpay, hack, hackv, hcrc, hme, hmport, hexp⟩ :=
      sendHello_spec (if (s.port port).train = some .width then s else trainLanes s port pass) port
    obtain ⟨l, hlen, hclr, hrx⟩ := trainLanes_rx s port pass
    rw [hway.port_eq rfl] at hack hexp
    rw [hway.chip_eq rfl] at hme
    refine ⟨hup, ⟨f, m, by rw [hout, List.getLast?_concat], htype, hseq, hpay, hack, hackv, hcrc, hme, hmport, hexp⟩, fun htrain hfull => ?_,
      fun htrain hout hred hfull => ?_⟩
    · rw [sendHello_rx, if_neg htrain, hrx, if_pos (hfull.trans hlen), Nat.mod_eq_of_lt hbyte.1]
    · rw [hclr hout] at hrx
      rw [sendHello_rx, if_neg htrain, hrx, if_neg (not_le.2 hfull), if_pos hred, Nat.mod_eq_of_lt hbyte.2.1]
  · obtain ⟨same, heq⟩ := helloRx_heard (h := h) (lat := lat) (pass := pass) hst hfec
    refine ⟨fun hl => ?_, fun hl hw hwho => ?_, fun hl hw => ⟨fun hrx hgiven hlen hcause => ?_, fun hgiven => ?_⟩⟩
    · rw [if_pos hl] at heq
      exact ⟨_, congrArg Host.Outcome.next heq, goDown_by _ hport (by decide)⟩
    · rw [if_neg (by omega), if_pos ⟨hw, hwho⟩] at heq
      exact ⟨_, congrArg Host.Outcome.next heq, goDown_by _ hport (by decide)⟩
    · have hlanes : nLanes port < 256 := by
        unfold nLanes
        split <;> decide
      have hlen : given < 256 := by omega
      obtain ⟨hwrx, hwtx, _⟩ := lanesGiven_spec (s := s) (port := port) (pass := pass) hchip hp hlat hlen
      rw [if_neg (by omega), if_neg (by tauto), if_neg (by rw [hwrx, hwtx]; omega)] at heq
      exact ⟨_, congrArg Host.Outcome.next heq, helloRx_up hchip hp hlat hlen hcause rfl⟩
    · have hlen : given < 256 := by omega
      obtain ⟨_, hwtx, _⟩ := lanesGiven_spec (s := s) (port := port) (pass := pass) hchip hp hlat hlen
      rw [if_neg (by omega), if_neg (by tauto), if_pos (.inr (by rw [hwtx]; exact hgiven))] at heq
      exact ⟨_, congrArg Host.Outcome.next heq, goDown_by _ hport (by decide)⟩
  · obtain ⟨hup, hdown⟩ := widthReduce_spec hport hst htrain pass
    exact ⟨fun h => ⟨_, rfl, hup h⟩, fun h => ⟨_, rfl, hdown h⟩⟩

end Sys2Proof.Machine
end

section
/-! The clock between chips and the life of a laser module (R137, R138, R140 to R144). -/

namespace Sys2Proof.Machine

open Sys2Proof

section
variable {T : List Nat} {s t : State}

theorem Keeps.laser_eq (h : Keeps T s t) (hT : T.contains 10 = false) (m : Nat) : t.laser m = s.laser m := by
  have hl : t.lasers = s.lasers := (h.at 10 hT (by decide)).symm
  rw [State.laser, State.laser, hl]

theorem Keeps.rdB_eq (h : Keeps T s t) (hT : T.contains 1 = false) (r : Reg) (i : Nat) : t.rdB r i = s.rdB r i := by
  have hb : t.odBytes = s.odBytes := (h.at 1 hT (by decide)).symm
  rw [State.rdB, State.rdB, hb]

/-- A change that reaches nothing that an event's record is made of. -/
theorem SameRecords.of_keeps (h : Keeps T s t) (hT : (T.contains 4 || T.contains 16 || T.contains 12) = false)
    (hr : ∀ r ∈ ledgerReads, (T.contains (regPlace r) || T.contains 31) = false) : SameRecords t s := by
  simp only [Bool.or_eq_false_iff] at hT
  obtain ⟨⟨h4, h16⟩, h12⟩ := hT
  exact ⟨h.time_eq h4, h.ledger_eq h16, by rw [h.host_eq h12], fun r hm i => h.rd r i (hr r hm)⟩

/-! ### The clock between chips (R137, R138) -/

theorem tellDepth_way (s : State) : Keeps [9] s (tellDepth s) := tellDepth_keeps Sub.rfl (Keeps.refl _ s)

/-- A port followed whose clock is no loop. -/
theorem followPort_spec {port : Nat} (hd : (s.port port).clockDepth < 253) : (followPort s port).router.clkPort = some port ∧
    (followPort s port).rd R.FAB_CLK_STATE 0 = 3 ∧ (followPort s port).rd R.FAB_CLK_DEPTH 0 = (s.port port).clockDepth + 1 ∧
    (followPort s port).rd R.FAB_CLK_UP 0 = s.rd R.FAB_CLK_UP 0 := by
  unfold followPort
  dsimp only
  rw [if_neg (by omega)]
  refine ⟨?_, ?_, ?_, ?_⟩
  · rw [(tellDepth_way _).router_eq rfl]
    rfl
  · rw [(tellDepth_way _).rd R.FAB_CLK_STATE 0 rfl, rd_wr_ne _ _ (by decide), rd_wr_same]
    rfl
  · rw [(tellDepth_way _).rd R.FAB_CLK_DEPTH 0 rfl, rd_wr_same]
    exact Nat.mod_eq_of_lt (by show _ < 256; omega)
  · rw [(tellDepth_way _).rd R.FAB_CLK_UP 0 rfl, rd_wr_ne _ _ (by decide), rd_wr_ne _ _ (by decide)]
    rfl

/-- The root takes its own reference. -/
theorem clkUp_root (s : State) : ∃ t, clkUp s 7 = done t ∧ t.rd R.FAB_CLK_UP 0 = 7 ∧ t.rd R.FAB_CLK_STATE 0 = 2 ∧ t.rd R.FAB_CLK_DEPTH 0 = 0 ∧
    t.router.clkPort = none := by
  unfold clkUp
  refine ⟨_, if_pos rfl, ?_, ?_, ?_, ?_⟩
  · rw [(tellDepth_way _).rd R.FAB_CLK_UP 0 rfl, rd_wr_ne _ _ (by decide), rd_wr_ne _ _ (by decide)]
    exact (rd_wr_same (s := s) R.FAB_CLK_UP 0 7).trans rfl
  · rw [(tellDepth_way _).rd R.FAB_CLK_STATE 0 rfl, rd_wr_ne _ _ (by decide), rd_wr_same]
    rfl
  · rw [(tellDepth_way _).rd R.FAB_CLK_DEPTH 0 rfl, rd_wr_same]
    rfl
  · rw [(tellDepth_way _).router_eq rfl]
    rfl

/-- A port named for the clock is followed. -/
theorem clkUp_port {port : Nat} (hne : port ≠ 7) (hlt : port < 256) (hd : (s.port port).clockDepth < 253) : ∃ t, clkUp s port = done t ∧
    t.rd R.FAB_CLK_UP 0 = port ∧ t.router.clkPort = some port ∧ t.rd R.FAB_CLK_STATE 0 = 3 ∧ t.rd R.FAB_CLK_DEPTH 0 = (s.port port).clockDepth + 1 := by
  obtain ⟨hclk, hst, hdepth, hup⟩ := followPort_spec (s := s.wr R.FAB_CLK_UP 0 port) (port := port) hd
  refine ⟨_, if_neg hne, hup.trans ?_, hclk, hst, hdepth⟩
  rw [rd_wr_same]
  exact Nat.mod_eq_of_lt hlt

theorem execClockUpstreamLoss_eq {old : Nat} {left : Bool} (hold : s.router.clkPort = some old) (h : left = false ∨ s.portUp old = false) :
    execClockUpstreamLoss left s = .next (upstreamLoss s) := by
  unfold execClockUpstreamLoss
  rw [hold]
  exact congrArg Host.Outcome.next (if_neg (by rintro ⟨h1, h2⟩; simp_all))

/-- The clock followed is lost, and an Up alternate is there. -/
theorem upstreamLoss_alt {old : Nat} (hold : s.router.clkPort = some old) (hlt : s.rd R.FAB_CLK_ALT 0 < 6) (hne : s.rd R.FAB_CLK_ALT 0 ≠ old)
    (hup : s.portUp (s.rd R.FAB_CLK_ALT 0) = true) (hd : (s.port (s.rd R.FAB_CLK_ALT 0)).clockDepth < 253) :
    (upstreamLoss s).router.clkPort = some (s.rd R.FAB_CLK_ALT 0) ∧ (upstreamLoss s).rd R.FAB_CLK_STATE 0 = 3 ∧
      (upstreamLoss s).rd R.FAB_CLK_DEPTH 0 = (s.port (s.rd R.FAB_CLK_ALT 0)).clockDepth + 1 := by
  have heq : upstreamLoss s = followPort (s.record 0x6031 (uPort (s.rd R.FAB_CLK_ALT 0)) [(1, old), (1, s.rd R.FAB_CLK_ALT 0)]) (s.rd R.FAB_CLK_ALT 0) := by
    unfold upstreamLoss switchClock
    rw [hold]
    dsimp only
    rw [if_pos ⟨hlt, hne, hup⟩, if_neg fun h => hne h.symm]
  have hport := (keeps_record s 0x6031 (uPort (s.rd R.FAB_CLK_ALT 0)) [(1, old), (1, s.rd R.FAB_CLK_ALT 0)]).port_eq rfl (s.rd R.FAB_CLK_ALT 0)
  obtain ⟨hclk, hst, hdepth, _⟩ := followPort_spec (port := s.rd R.FAB_CLK_ALT 0) (by rw [hport]; exact hd)
  rw [hport] at hdepth
  rw [heq]
  exact ⟨hclk, hst, hdepth⟩

/-- The clock followed is lost, and no alternate is named. -/
theorem upstreamLoss_none {old : Nat} (hold : s.router.clkPort = some old) (halt : 6 ≤ s.rd R.FAB_CLK_ALT 0) :
    (upstreamLoss s).rd R.FAB_CLK_STATE 0 = 1 ∧ Logged s (upstreamLoss s) 0x6030 (uPort old) [(1, old)] := by
  have heq : upstreamLoss s = holdover s old := by
    unfold upstreamLoss
    rw [hold]
    exact if_neg fun h => by omega
  rw [heq, holdover]
  refine ⟨?_, (sameRecords_wr _ _ _ (by decide)).record_ledger ..⟩
  rw [rd_record _ _ _ _ _ _ (by decide), rd_wr_same]
  rfl

/-! ### A module identified, or refused (R141, R142) -/

section
variable {m : Nat}

/-- The reason by which a module is refused: 0 where it is not. -/
def refusal (i : ModuleInfo) : Nat :=
  if i.pagesOk = false then 1 else if i.lasersOk = false then 2 else 3

/-- A module refused. -/
theorem moduleRefuse_spec (s : State) (m reason : Nat) (i : ModuleInfo) : (moduleRefuse s m reason i).rd R.FAB_LSR_STATE m = lsRefused ∧
    Logged s (moduleRefuse s m reason i) 0xD003 (uLaser m) [(1, reason)] := by
  have hnames : Keeps [1, 0x4400] s ((moduleNames s m i).wr R.FAB_LSR_STATE m lsRefused) :=
    wr_keeps (.of rfl Sub.rfl) (moduleNames_keeps Sub.rfl (Keeps.refl _ s))
  have hlog : Logged s (((moduleNames s m i).wr R.FAB_LSR_STATE m lsRefused).record 0xD003 (uLaser m) [(1, reason)]) 0xD003 (uLaser m) [(1, reason)] :=
    (SameRecords.of_keeps hnames rfl (by decide)).record_ledger ..
  have hst : (((moduleNames s m i).wr R.FAB_LSR_STATE m lsRefused).record 0xD003 (uLaser m) [(1, reason)]).rd R.FAB_LSR_STATE m = lsRefused := by
    rw [rd_record _ _ _ _ _ _ (by decide), rd_wr_same]
    rfl
  unfold moduleRefuse
  dsimp only
  split
  · exact ⟨(rd_wr_ne _ _ (by decide)).trans hst, hlog⟩
  · exact ⟨hst, hlog⟩

theorem identified_refused {i : ModuleInfo} (hst : s.rd R.FAB_LSR_STATE m = lsIdentifying)
    (h : i.pagesOk = false ∨ i.lasersOk = false ∨ (isBlank i.record = false ∧ isValid i.record = false)) : identified s m i = moduleRefuse s m (refusal i) i := by
  unfold identified refusal
  rw [if_neg (not_not.2 hst)]
  by_cases hp : i.pagesOk = false
  · rw [if_pos hp, if_pos hp]
  · by_cases hl : i.lasersOk = false
    · rw [if_neg hp, if_pos hl, if_neg hp, if_pos hl]
    · rw [if_neg hp, if_neg hl, if_pos (by tauto), if_neg hp, if_neg hl]

/-- What a module's record says, kept for it, and the module's names as its page has them. -/
def moduleKept (s : State) (m : Nat) (i : ModuleInfo) : State :=
  (if (s.laser m).lastSerial = chars16 i.serial then s else newModule s m).modLaser m fun l =>
    { l with
      record := i.record, blank := false, lasingS := 0, writtenH := leField i.record 6 4, lastSerial := chars16 i.serial, removedLasing := false }

/-- A module Ready with the rated life and hours of its record. -/
def moduleReady (s : State) (m : Nat) (i : ModuleInfo) : State :=
  (((moduleNames (moduleKept s m i) m i).wr R.FAB_LSR_RATED_H m (leField i.record 2 4)).wr R.FAB_LSR_HOURS m (leField i.record 6 4)).wr R.FAB_LSR_STATE m
    lsReady

theorem identified_valid {i : ModuleInfo} (hst : s.rd R.FAB_LSR_STATE m = lsIdentifying) (hp : i.pagesOk = true) (hl : i.lasersOk = true)
    (hb : isBlank i.record = false) (hv : isValid i.record = true) : identified s m i =
      ((moduleReady s m i).each (List.range 9) fun t w => t.wr R.FAB_LSR_BIAS_RATIO (16 * m + w) 1000).recordB 0xD001 (uLaser m)
        (sliceZ (chars16 i.serial) 0 16 ++ leBytes 4 (leField i.record 2 4) ++ leBytes 4 (leField i.record 6 4)) := by
  unfold identified
  rw [if_neg (not_not.2 hst), if_neg (by simp [hp]), if_neg (by simp [hl]), if_neg (by simp [hv]), hb]
  rfl

theorem leField_lt (bs : List Byte) (o n : Nat) : leField bs o n < 256 ^ n :=
  Nat.lt_of_lt_of_le (leVal_lt _) (Nat.pow_le_pow_right (by decide) (List.length_take_le ..))

theorem moduleReady_spec (s : State) (m : Nat) (i : ModuleInfo) : (moduleReady s m i).rd R.FAB_LSR_STATE m = lsReady ∧
    (moduleReady s m i).rd R.FAB_LSR_RATED_H m = leField i.record 2 4 ∧ (moduleReady s m i).rd R.FAB_LSR_HOURS m = leField i.record 6 4 ∧
    ((moduleReady s m i).laser m).record = i.record ∧ (moduleReady s m i).rdB R.FAB_LSR_SERIAL m = i.serial.take 16 := by
  refine ⟨?_, ?_, ?_, ?_, rdB_wrB_same ..⟩
  · rw [moduleReady, rd_wr_same]
    rfl
  · rw [moduleReady, rd_wr_ne _ _ (by decide), rd_wr_ne _ _ (by decide), rd_wr_same]
    exact Nat.mod_eq_of_lt (leField_lt ..)
  · rw [moduleReady, rd_wr_ne _ _ (by decide), rd_wr_same]
    exact Nat.mod_eq_of_lt (leField_lt ..)
  · have hlaser : (moduleReady s m i).laser m = (moduleKept s m i).laser m := rfl
    rw [hlaser, moduleKept, laser_modLaser_same]

theorem identified_ready {i : ModuleInfo} (hst : s.rd R.FAB_LSR_STATE m = lsIdentifying) (hp : i.pagesOk = true) (hl : i.lasersOk = true)
    (hb : isBlank i.record = false) (hv : isValid i.record = true) : (identified s m i).rd R.FAB_LSR_STATE m = lsReady ∧
      (identified s m i).rd R.FAB_LSR_RATED_H m = leField i.record 2 4 ∧ (identified s m i).rd R.FAB_LSR_HOURS m = leField i.record 6 4 ∧
      ((identified s m i).laser m).record = i.record ∧ (identified s m i).rdB R.FAB_LSR_SERIAL m = i.serial.take 16 := by
  obtain ⟨hready, hrated, hhours, hrec, hserial⟩ := moduleReady_spec s m i
  have hway : Keeps [16, 0x4401, 0x7002] (moduleReady s m i) (identified s m i) := by
    rw [identified_valid hst hp hl hb hv]
    exact recordB_keeps (.of rfl Sub.rfl) (each_keeps (fun _ _ h => wr_keeps (.of rfl Sub.rfl) h) (Keeps.refl _ _))
  exact ⟨(hway.rd R.FAB_LSR_STATE m rfl).trans hready, (hway.rd R.FAB_LSR_RATED_H m rfl).trans hrated, (hway.rd R.FAB_LSR_HOURS m rfl).trans hhours,
    (congrArg Laser.record (hway.laser_eq rfl m)).trans hrec, (hway.rdB_eq rfl R.FAB_LSR_SERIAL m).trans hserial⟩

/-! ### A module removed, and a laser that fails (R142, R144) -/

theorem goDown_way (s : State) (port cause : Nat) : Keeps [4, 6, 9, 16, 0x4000, 0x4110, 0x4140, 0x5804, 0x7002] s (goDown s port cause) :=
  goDown_keeps Sub.rfl (Keeps.refl _ s)

/-- A module gone from its port. -/
def moduleGone (s : State) (m : Nat) : State :=
  ((s.recordB 0xD002 (uLaser m) (sliceZ (s.rdB R.FAB_LSR_SERIAL m) 0 16 ++ leBytes 1 (s.rd R.FAB_LSR_STATE m))).wr R.FAB_LSR_STATE m lsAbsent).modLaser m
    fun l => { l with record := [], blank := false, removedLasing := s.rd R.FAB_LSR_STATE m == lsLasing }

theorem moduleGone_spec (s : State) (m : Nat) : (moduleGone s m).rd R.FAB_LSR_STATE m = lsAbsent ∧ ((moduleGone s m).laser m).record = [] := by
  refine ⟨(rd_wr_same ..).trans rfl, ?_⟩
  rw [moduleGone, laser_modLaser_same]

theorem execModuleRemove_eq (h : s.rd R.FAB_LSR_STATE m ≠ lsAbsent) : execModuleRemove m s = .next
    (if s.rd R.FAB_LSR_STATE m = lsLasing ∧ (s.rd R.FAB_PORT_STATE (portOf m) = 1 ∨ s.rd R.FAB_PORT_STATE (portOf m) = 2) then
      goDown (moduleGone s m) (portOf m) 5 else moduleGone s m) := if_neg h

/-- A module removed, and the port of one that was lasing. -/
theorem moduleRemove_spec (hm : m < 2) (h : s.rd R.FAB_LSR_STATE m ≠ lsAbsent) : Does (.moduleRemove m) s fun t =>
    t.rd R.FAB_LSR_STATE m = lsAbsent ∧ (t.laser m).record = [] ∧
      (s.rd R.FAB_LSR_STATE m = lsLasing → s.rd R.FAB_PORT_STATE (portOf m) = 1 ∨ s.rd R.FAB_PORT_STATE (portOf m) = 2 →
        t.rd R.FAB_PORT_STATE (portOf m) = 3 ∧ t.rd R.FAB_PORT_CAUSE (portOf m) = 5) := by
  obtain ⟨hst, hrec⟩ := moduleGone_spec s m
  refine ⟨_, execModuleRemove_eq h, ?_⟩
  split
  next hup =>
    have hway := goDown_way (moduleGone s m) (portOf m) 5
    exact ⟨(hway.rd R.FAB_LSR_STATE m rfl).trans hst, (congrArg Laser.record (hway.laser_eq rfl m)).trans hrec,
      fun _ _ => goDown_by _ (by unfold portOf; omega) (by decide)⟩
  next hup => exact ⟨hst, hrec, fun h1 h2 => absurd ⟨h1, h2⟩ hup⟩

theorem waveFaulty_way (s : State) (m w cause : Nat) :
    Keeps [4, 6, 9, 11, 13, 16, 0x4000, 0x4001, 0x4110, 0x4140, 0x4400, 0x5804, 0x7002, 0x9000, 0x9001, 0x9010] s (waveFaulty s m w cause) :=
  waveFaulty_keeps Sub.rfl (Keeps.refl _ s)

/-- A wavelength whose laser failed is among the lost ones of its module. -/
theorem waveLost_mem (s : State) (m w : Nat) : w ∈ ((waveLost s m w).laser m).lostWaves := by
  have hlost : w ∈ ((waveFaulty (s.modLaser m fun l => { l with lostWaves := addNew l.lostWaves w }) m w 4).laser m).lostWaves := by
    rw [(waveFaulty_way ..).laser_eq rfl, laser_modLaser_same]
    exact mem_addNew ..
  have hfault (u : State) (hu : w ∈ (u.laser m).lostWaves) : w ∈ ((if (u.wr R.FAB_LSR_STATE m lsFault).rd R.FAB_PORT_STATE (portOf m) = 1 ∨
      (u.wr R.FAB_LSR_STATE m lsFault).rd R.FAB_PORT_STATE (portOf m) = 2 then goDown (u.wr R.FAB_LSR_STATE m lsFault) (portOf m) 5
      else u.wr R.FAB_LSR_STATE m lsFault).laser m).lostWaves := by
    split
    · rw [(goDown_way ..).laser_eq rfl]
      exact hu
    · exact hu
  unfold waveLost
  dsimp only
  split
  · exact hfault _ hlost
  · exact hlost

/-! ### The monitors (R143) -/

/-- From `s` to `t` the readings of bias and power stay, and a module's time of lasing. -/
structure SameReading (m : Nat) (s t : State) : Prop where
  bias : ∀ k, t.rd R.FAB_LSR_BIAS k = s.rd R.FAB_LSR_BIAS k
  power : ∀ k, t.rd R.FAB_LSR_POWER k = s.rd R.FAB_LSR_POWER k
  lasing : (t.laser m).lasingS = (s.laser m).lasingS

theorem SameReading.refl (m : Nat) (s : State) : SameReading m s s := ⟨fun _ => rfl, fun _ => rfl, rfl⟩

theorem SameReading.trans {u : State} (h : SameReading m s t) (h' : SameReading m t u) : SameReading m s u :=
  ⟨fun k => (h'.bias k).trans (h.bias k), fun k => (h'.power k).trans (h.power k), h'.lasing.trans h.lasing⟩

theorem SameReading.of_keeps (h : Keeps T s t) (h10 : T.contains 10 = false) (hT : (T.contains 0x4401 || T.contains 31) = false) : SameReading m s t :=
  ⟨fun k => h.rd R.FAB_LSR_BIAS k hT, fun k => h.rd R.FAB_LSR_POWER k hT, congrArg Laser.lasingS (h.laser_eq h10 m)⟩

theorem SameReading.modLaser (s : State) (m : Nat) {f : Laser → Laser} (hf : ∀ l, (f l).lasingS = l.lasingS) : SameReading m s (s.modLaser m f) :=
  ⟨fun _ => rfl, fun _ => rfl, by rw [laser_modLaser_same, hf]⟩

theorem SameReading.ite {u : State} {c : Prop} [Decidable c] (h : SameReading m s t) (h' : SameReading m s u) : SameReading m s (if c then t else u) := by
  split <;> assumption

theorem advise_way (s : State) (m bit : Nat) : Keeps [13, 16, 0x4400, 0x7002, 0x9000, 0x9001] s (advise s m bit) := advise_keeps Sub.rfl (Keeps.refl _ s)

/-- A wavelength's ratio read leaves its bias and power. -/
theorem ratioRead_reading (s : State) (m : Nat) (x : LaserSample) : SameReading m s (ratioRead s m x) := by
  have hratio : SameReading m s (s.wr R.FAB_LSR_BIAS_RATIO (16 * m + x.wave) (biasRatio (s.laser m) x)) :=
    ⟨fun _ => rd_wr_ne _ _ (by decide), fun _ => rd_wr_ne _ _ (by decide), rfl⟩
  have hadvise (u : State) (fs : List (Nat × Nat)) : SameReading m u ((advise u m 1).record 0xD010 (uLaser m) fs) :=
    .trans (.of_keeps (advise_way u m 1) rfl rfl) (.of_keeps (keeps_record ..) rfl rfl)
  have hfaulty (u : State) : SameReading m u (waveFaulty u m x.wave 3) := .of_keeps (waveFaulty_way ..) rfl rfl
  have hadvised : SameReading m s (if biasRatio (s.laser m) x < s.rd R.FAB_LSR_ADV_RATIO 0 then
        (s.wr R.FAB_LSR_BIAS_RATIO (16 * m + x.wave) (biasRatio (s.laser m) x)).modLaser m fun l => { l with advised := l.advised.filter (· != x.wave) }
      else if (s.laser m).advised.contains x.wave then s.wr R.FAB_LSR_BIAS_RATIO (16 * m + x.wave) (biasRatio (s.laser m) x)
      else ((advise (s.wr R.FAB_LSR_BIAS_RATIO (16 * m + x.wave) (biasRatio (s.laser m) x)) m 1).record 0xD010 (uLaser m)
        [(1, x.wave), (2, biasRatio (s.laser m) x)]).modLaser m fun l => { l with advised := addNew l.advised x.wave }) :=
    .ite (hratio.trans (.modLaser _ m fun _ => rfl)) (.ite hratio (hratio.trans ((hadvise ..).trans (.modLaser _ m fun _ => rfl))))
  exact .ite (hadvised.trans (hfaulty _)) hadvised

/-- A wavelength's reading stands in its entries. -/
theorem waveRead_spec (s : State) (m : Nat) (second : Bool) {x : LaserSample} (hlow : x.low = none) :
    (waveRead s m second x).rd R.FAB_LSR_BIAS (16 * m + x.wave) = 10 * x.bias % 2 ^ regBits R.FAB_LSR_BIAS ∧
      (waveRead s m second x).rd R.FAB_LSR_POWER (16 * m + x.wave) = x.power % 2 ^ regBits R.FAB_LSR_POWER ∧
      ((waveRead s m second x).laser m).lasingS = (s.laser m).lasingS := by
  have heq : waveRead s m second x =
      (if second then ratioRead ((s.wr R.FAB_LSR_BIAS (16 * m + x.wave) (10 * x.bias)).wr R.FAB_LSR_POWER (16 * m + x.wave) x.power) m x
      else (s.wr R.FAB_LSR_BIAS (16 * m + x.wave) (10 * x.bias)).wr R.FAB_LSR_POWER (16 * m + x.wave) x.power) := by
    unfold waveRead
    rw [hlow]
  have hsame : SameReading m ((s.wr R.FAB_LSR_BIAS (16 * m + x.wave) (10 * x.bias)).wr R.FAB_LSR_POWER (16 * m + x.wave) x.power) (waveRead s m second x) := by
    rw [heq]
    exact .ite (ratioRead_reading ..) (.refl m _)
  refine ⟨(hsame.bias _).trans ?_, (hsame.power _).trans (rd_wr_same ..), hsame.lasing⟩
  rw [rd_wr_ne _ _ (by decide), rd_wr_same]

/-- A second of lasing counts. -/
theorem lasingSecond_lasing (s : State) (m : Nat) : ((lasingSecond s m).laser m).lasingS = (s.laser m).lasingS + 1 := by
  have hadd : ((s.modLaser m fun l => { l with lasingS := (s.laser m).lasingS + 1 }).laser m).lasingS = (s.laser m).lasingS + 1 := by rw [laser_modLaser_same]
  have hadvise (u : State) (b : Nat) : Keeps [13, 16, 0x4400, 0x7002, 0x9000, 0x9001] u (advise u m b) := advise_way u m b
  have hhours (u : State) (c : Prop) [Decidable c] (v : Nat) : Keeps [13, 16, 0x4400, 0x7002, 0x9000, 0x9001] u (if c then u.wr R.FAB_LSR_HOURS m v else u) :=
    .ite (wr_keeps (.of rfl Sub.rfl) (Keeps.refl _ u)) (Keeps.refl _ u)
  have hlife (u : State) (c : Prop) [Decidable c] (fs : List (Nat × Nat)) :
      Keeps [13, 16, 0x4400, 0x7002, 0x9000, 0x9001] u (if c then (advise u m 0).record 0xD011 (uLaser m) fs else u) :=
    .ite (record_keeps (.of rfl Sub.rfl) (advise_way u m 0)) (Keeps.refl _ u)
  have hspare (u : State) (c : Prop) [Decidable c] : Keeps [13, 16, 0x4400, 0x7002, 0x9000, 0x9001] u (if c then advise u m 2 else u) :=
    .ite (advise_way u m 2) (Keeps.refl _ u)
  refine Eq.trans (congrArg Laser.lasingS ?_) hadd
  exact ((hhours ..).trans ((hlife ..).trans (hspare ..))).laser_eq rfl m

theorem laserMonitorRead_spec (hst : s.rd R.FAB_LSR_STATE m = lsLasing) {x : LaserSample} (hlow : x.low = none) (second : Bool) :
    Does (.laserMonitorRead m ⟨second, [x]⟩) s fun t =>
      t.rd R.FAB_LSR_BIAS (16 * m + x.wave) = 10 * x.bias % 2 ^ regBits R.FAB_LSR_BIAS ∧
        t.rd R.FAB_LSR_POWER (16 * m + x.wave) = x.power % 2 ^ regBits R.FAB_LSR_POWER ∧
        (t.laser m).lasingS = (s.laser m).lasingS + b2n second := by
  obtain ⟨hbias, hpower, hlasing⟩ := waveRead_spec (if second then lasingSecond s m else s) m second hlow
  refine ⟨_, congrArg Host.Outcome.next (if_pos hst), hbias, hpower, hlasing.trans ?_⟩
  cases second
  · rfl
  · exact lasingSecond_lasing s m

/-! ### What is written to a module (R141) -/

theorem laser_written (s : State) (m : Nat) (f : Laser → Laser) (o : Out) : ((s.modLaser m f).emit o).laser m = f (s.laser m) := laser_modLaser_same ..

/-- The hours of a module written to it. -/
theorem hoursWrite_spec (h : (s.laser m).record ≠ []) : ((hoursWrite s m).laser m).record = recordWith (s.laser m) (s.rd R.FAB_LSR_HOURS m) ∧
    (hoursWrite s m).outbox = s.outbox ++ [.moduleWrite m (recordWith (s.laser m) (s.rd R.FAB_LSR_HOURS m))] := by
  have heq : hoursWrite s m = (s.modLaser m fun l => { l with record := recordWith (s.laser m) (s.rd R.FAB_LSR_HOURS m), writtenH := s.rd R.FAB_LSR_HOURS m }).emit
      (.moduleWrite m (recordWith (s.laser m) (s.rd R.FAB_LSR_HOURS m))) := if_neg h
  rw [heq]
  exact ⟨by rw [laser_written], rfl⟩

/-- A record with its beginning-of-life values and CHECK. -/
def bolRecord (l : Laser) (bias : List Nat) : List Byte :=
  let b := l.record.take 10 ++ ((List.range 9).map fun w => leBytes 2 (getAt 0 bias w)).flatten
  b ++ leBytes 4 (crc32c b)

theorem execBolWrite_eq (hb : (s.laser m).blank = true) (hst : s.rd R.FAB_LSR_STATE m = lsLasing) (hs : 3600 ≤ (s.laser m).lasingS) (bias : List Nat) :
    execBolWrite m bias s = .next ((s.modLaser m fun l => { l with record := bolRecord (s.laser m) bias, blank := false }).emit
      (.moduleWrite m (bolRecord (s.laser m) bias))) := if_neg (by simp [hb, hst]; omega)

/-- A piece of pieces of one length, whatever stands behind them. -/
theorem piece_flatten {α : Type} {n : Nat} {l : List (List α)} (hl : ∀ x ∈ l, x.length = n) (rest : List α) {i : Nat} (hi : i < l.length) :
    ((l.flatten ++ rest).drop (n * i)).take n = l[i] := by
  induction l generalizing i with
  | nil => exact absurd hi (by simp)
  | cons x l ih =>
    have hx : x.length = n := hl x List.mem_cons_self
    cases i with
    | zero => simp [hx]
    | succ i =>
      have hdrop : n * (i + 1) = x.length + n * i := by rw [hx, Nat.mul_succ, Nat.add_comm]
      rw [List.flatten_cons, List.append_assoc, hdrop, List.drop_length_add_append, List.getElem_cons_succ]
      exact ih (fun y hy => hl y (List.mem_cons_of_mem _ hy)) _

/-- A wavelength's place in the values of beginning of life. -/
theorem bolOf_bolRecord {l : Laser} (hlen : l.record.length = 32) (bias : List Nat) {w : Nat} (hw : w < 9) :
    leVal (((bolRecord l bias).drop (10 + 2 * w)).take 2) = getAt 0 bias w % 65536 := by
  have h10 : (l.record.take 10).length = 10 := by simp [hlen]
  have hpiece : ((bolRecord l bias).drop (10 + 2 * w)).take 2 = leBytes 2 (getAt 0 bias w) := by
    rw [bolRecord, List.append_assoc, List.drop_append, h10, List.drop_eq_nil_of_le (by omega), List.nil_append, Nat.add_sub_cancel_left]
    refine (piece_flatten (l := (List.range 9).map fun w => leBytes 2 (getAt 0 bias w)) (fun x hx => ?_) _ (i := w) (by simpa using hw)).trans (by simp)
    obtain ⟨k, _, rfl⟩ := List.mem_map.1 hx
    exact length_leBytes ..
  rw [hpiece, leVal_leBytes]
  rfl

end

end

/-- Settles O26: the clock between chips, and a laser module from its insertion to its removal. -/
theorem clockAndLasers : Obligations.ClockAndLasers := by
  refine ⟨fun s who port => ⟨fun h => ?_, fun h hne hd => ?_, fun old hold left hleft => ⟨fun hlt hne hup hd => ?_, fun halt => ?_⟩, fun hst => ?_⟩,
    fun s m hm => ⟨fun hst => ?_, fun i hst => ⟨fun h => ?_, fun hp hl hb hv => ⟨_, rfl, identified_ready hst hp hl hb hv⟩⟩, moduleRemove_spec hm,
      fun hst => ⟨fun x second _ hlow _ _ => laserMonitorRead_spec hst hlow second, fun wave flags => ?_, fun h => ?_, fun bias hb hs hlen => ?_⟩⟩⟩
  · obtain ⟨t, ht, hp⟩ := clkUp_root s
    exact writes_of_guard rfl h ht hp
  · obtain ⟨t, ht, hp⟩ := clkUp_port hne h.lt hd
    exact writes_of_guard rfl h ht hp
  · exact ⟨_, (execClockUpstreamLoss_eq hold hleft).trans rfl, upstreamLoss_alt hold hlt hne hup hd⟩
  · exact ⟨_, (execClockUpstreamLoss_eq hold hleft).trans rfl, upstreamLoss_none hold halt⟩
  · exact ⟨_, congrArg Host.Outcome.next (if_pos hst), (rd_wr_same ..).trans (by split <;> rfl)⟩
  · exact ⟨_, congrArg Host.Outcome.next (if_pos hst), (rd_wr_same ..).trans rfl⟩
  · exact ⟨_, congrArg Host.Outcome.next (identified_refused hst h), moduleRefuse_spec ..⟩
  · refine ⟨_, congrArg Host.Outcome.next (if_pos hst), waveLost_mem ..⟩
  · exact ⟨_, congrArg Host.Outcome.next (if_pos hst), hoursWrite_spec h⟩
  · refine ⟨_, execBolWrite_eq hb hst hs bias, ?_, fun w hw => ?_⟩
    · rw [laser_written]
    · rw [laser_written]
      exact bolOf_bolRecord hlen bias hw

end Sys2Proof.Machine
end

section
/-! PORSTn held low (R299). -/

namespace Sys2Proof.Machine

open Sys2Proof

/-- A state in which PORSTn has been low for 3 s and the entry RST_HELD, a boolean, holds 2. -/
def heldOdd : State :=
  { ({} : State) with
    od := [(odKey R.RST_HELD 0, 2)]
    rst := { porstLow := true }
    time := { uptime := 1500000000 } }

/-- Refutes O49, by its clause on a PORSTn that has been held for long: it says that nothing more happens where RST_HELD is not 0, while the
model looks for the value 1, and the statement is about every state. Of a state whose RST_HELD is 2, which no reset and no command
leaves, the model notes the hold again and RST_HELD is 1. For the values 0 and 1 of a boolean the two conditions are the same. -/
theorem not_chipResets : ¬ Obligations.ChipResets := by
  intro h
  obtain ⟨-, hheld, -⟩ := h heldOdd ⟨.operator, .t1s, 0⟩
  refine not_does (test := fun t => t.rd R.RST_HELD 0 == 1) ?_ (fun t ht hp => ?_) ((hheld rfl).1 (.inl (by decide +kernel)))
  · decide +kernel
  · subst hp
    exact absurd ht (by decide +kernel)

end Sys2Proof.Machine
end

section
/-! Power, the stages of bring-up and the image service (R301 to R308, R405 to R407). -/

namespace Sys2Proof.Machine

open Sys2Proof

section
variable {s t u : State}

/-! ### The strap (R301, R302) -/

/-- From `s` to `t` something was recorded: nothing else of the reset unit, of the stage or of the Ledger's stores changed. -/
structure Noted (s t : State) : Prop where
  rst : t.rst = s.rst
  stage : t.rd R.RST_STAGE 0 = s.rd R.RST_STAGE 0
  power : bitOf (s.rd R.RST_CAUSE 0) 0 = true → bitOf (t.rd R.RST_CAUSE 0) 0 = true
  stores : t.ledger.stores = s.ledger.stores

theorem Noted.refl (s : State) : Noted s s := ⟨rfl, rfl, id, rfl⟩

theorem Noted.trans (h : Noted s t) (h' : Noted t u) : Noted s u :=
  ⟨h'.rst.trans h.rst, h'.stage.trans h.stage, fun hp => h'.power (h.power hp), h'.stores.trans h.stores⟩

theorem Noted.ite {c : Prop} [Decidable c] (h : Noted s t) (h' : Noted s u) : Noted s (if c then t else u) := by
  split <;> assumption

theorem record_noted (s : State) (code source : Nat) (fs : List (Nat × Nat)) : Noted s (s.record code source fs) where
  rst := (keeps_record ..).rst_eq rfl
  stage := rd_record _ _ _ _ _ _ (by decide)
  power h := by rw [rd_record _ _ _ _ _ _ (by decide)]; exact h
  stores := record_stores ..

theorem bit_or (a b : Nat) (h : bitOf a 0 = true) : bitOf ((a ||| b) % 2 ^ 32) 0 = true := by
  have hodd : a % 2 = 1 := by simpa [bitOf] using h
  have hor : (a ||| b) % 2 = 1 := by
    rw [Nat.or_mod_two_eq_one]
    exact .inl hodd
  have hmod : (a ||| b) % 2 ^ 32 % 2 = 1 := by omega
  simpa [bitOf] using hmod

theorem causeBits_noted (s : State) (b : Nat) : Noted s (causeBits s b) where
  rst := rfl
  stage := rd_wr_ne _ _ (by decide)
  power h := by
    rw [causeBits, rd_wr_same]
    exact bit_or _ _ h
  stores := rfl

theorem bkp7_noted (s : State) : Noted s (bkp7 s) where
  rst := rfl
  stage := rd_wr_ne _ _ (by decide)
  power h := by
    rw [bkp7, rd_wr_ne _ _ (by decide)]
    exact h
  stores := rfl

/-- The strap's code, its position and the boot mode, before anything of it is recorded. -/
def strapRead (s : State) (adc : Nat) : State :=
  (((s.wr R.RST_STRAP_ADC 0 adc).wr R.RST_STRAP_CODE 0 (strapCode adc)).wr R.CLV_STW_POS 0 (if strapCode adc = 0xFF then 3 else strapCode adc / 4)).modRst
    fun r => { r with mode := strapMode (strapCode adc), lastCode := some (strapCode adc) }

theorem readStrap_noted (s : State) (adc : Nat) : Noted (strapRead s adc) (readStrap s adc) := by
  have hfault : Noted (strapRead s adc) (if strapCode adc = 0xFF then (causeBits (strapRead s adc) 128).record 0xC030 uFcc [(2, adc)] else strapRead s adc) :=
    .ite ((causeBits_noted ..).trans (record_noted ..)) (.refl _)
  unfold readStrap
  dsimp only
  split
  · exact (hfault.trans (.ite (.refl _) (record_noted ..))).trans (bkp7_noted _)
  · exact hfault.trans (bkp7_noted _)

/-- What a reading of the strap sets and leaves. -/
structure Strapped (adc : Nat) (s t : State) : Prop where
  rst : t.rst = { s.rst with mode := strapMode (strapCode adc), lastCode := some (strapCode adc) }
  stage : t.rd R.RST_STAGE 0 = s.rd R.RST_STAGE 0
  power : bitOf (s.rd R.RST_CAUSE 0) 0 = true → bitOf (t.rd R.RST_CAUSE 0) 0 = true
  stores : t.ledger.stores = s.ledger.stores

theorem readStrap_strapped (s : State) (adc : Nat) : Strapped adc s (readStrap s adc) := by
  obtain ⟨hrst, hstage, hpower, hstores⟩ := readStrap_noted s adc
  have hrd (r : Reg) (hr : r = R.RST_STAGE ∨ r = R.RST_CAUSE) : (strapRead s adc).rd r 0 = s.rd r 0 := by
    obtain rfl | rfl := hr
    · exact (rd_wr_ne _ _ (by decide)).trans ((rd_wr_ne _ _ (by decide)).trans (rd_wr_ne _ _ (by decide)))
    · exact (rd_wr_ne _ _ (by decide)).trans ((rd_wr_ne _ _ (by decide)).trans (rd_wr_ne _ _ (by decide)))
  exact ⟨hrst, hstage.trans (hrd _ (.inl rfl)), fun h => hpower (by rw [hrd _ (.inr rfl)]; exact h), hstores⟩

theorem readStrap_way (s : State) (adc : Nat) : Keeps [14, 16, 0x2000, 0x2002, 0x2010, 0x6210, 0x7002] s (readStrap s adc) := readStrap_keeps Sub.rfl (Keeps.refl _ s)

/-! ### Power comes and goes (R405 to R407) -/

/-- An entry that a loss of power takes has its default. -/
theorem rd_filtered {q : Nat × Nat → Bool} {r : Reg} {i : Nat} (hod : t.od = s.od.filter q) (h : ∀ v, q (odKey r i, v) = false) : t.rd r i = regDflt r i := by
  rw [State.rd, hod, mapGet_eq_find, mapFind_none]
  · rfl
  · intro e he hk
    obtain ⟨k, v⟩ := e
    subst hk
    exact absurd (List.mem_filter.1 he).2 (by rw [h]; decide)

theorem unpowered_stage (s : State) : (unpowered s).rd R.RST_STAGE 0 = 1 ∧ (unpowered s).rd R.RST_CAUSE 0 = 1 := by
  have hcounts (v : State) : Keeps [0x7002] v (ldgCounts v) := ldgCounts_keeps Sub.rfl (Keeps.refl _ v)
  have hkey : (odKey R.RST_STAGE 0 / 16777216 == 0x1120) = false ∧ (odKey R.RST_CAUSE 0 / 16777216 == 0x1120) = false := by decide
  unfold unpowered
  dsimp only
  exact ⟨((hcounts _).rd R.RST_STAGE 0 rfl).trans (rd_filtered rfl fun _ => by simp only [hkey.1, Bool.false_and]),
    ((hcounts _).rd R.RST_CAUSE 0 rfl).trans (rd_filtered rfl fun _ => by simp only [hkey.2, Bool.false_and])⟩

/-- What the loss of standby power leaves. -/
theorem unpowered_spec (s : State) : (unpowered s).rst.standby = false ∧ (unpowered s).mem = [] ∧ (unpowered s).blocks = [] ∧ (unpowered s).ledger.volFirst = [] ∧
    (unpowered s).ledger.sectors = s.ledger.sectors ∧ (unpowered s).obs.lifeCopies = s.obs.lifeCopies ∧ (unpowered s).rst.imgA = s.rst.imgA ∧
    (unpowered s).rst.imgB = s.rst.imgB ∧ (unpowered s).outbox = s.outbox := ⟨rfl, rfl, rfl, rfl, rfl, rfl, rfl, rfl, rfl⟩

/-- The island with power, before it reads the strap. -/
def islandOn (s : State) : State :=
  let s1 := (unpowered s).modRst fun r => { r with standby := true }
  s1.wr R.LDG_FLASH_ERASE_MAX 0 (eraseMax s1)

theorem powerOn_spec (s : State) (adc : Nat) : (powerOn s adc).rst.standby = true ∧ (powerOn s adc).rd R.RST_STAGE 0 = 1 ∧
    bitOf ((powerOn s adc).rd R.RST_CAUSE 0) 0 = true ∧ (powerOn s adc).rst.mode = strapMode (strapCode adc) ∧ (powerOn s adc).mem = [] ∧
    (powerOn s adc).blocks = [] ∧ (powerOn s adc).ledger.sectors = s.ledger.sectors ∧ (powerOn s adc).obs.lifeCopies = s.obs.lifeCopies ∧
    (powerOn s adc).rst.imgA = s.rst.imgA ∧ (powerOn s adc).rst.imgB = s.rst.imgB ∧ (powerOn s adc).outbox = s.outbox := by
  obtain ⟨-, hmem, hblocks, -, hsec, hlife, ha, hb, hout⟩ := unpowered_spec s
  obtain ⟨hstage, hcause⟩ := unpowered_stage s
  obtain ⟨hrst, hst, hpower, hstores⟩ := readStrap_strapped (islandOn s) adc
  have hway := readStrap_way (islandOn s) adc
  have hon : powerOn s adc = readStrap (islandOn s) adc := rfl
  have hstage' : (islandOn s).rd R.RST_STAGE 0 = (unpowered s).rd R.RST_STAGE 0 := rd_wr_ne _ _ (by decide)
  have hcause' : (islandOn s).rd R.RST_CAUSE 0 = (unpowered s).rd R.RST_CAUSE 0 := rd_wr_ne _ _ (by decide)
  rw [hon]
  refine ⟨by rw [hrst]; rfl, hst.trans (hstage'.trans hstage), hpower ?_, by rw [hrst], (hway.mem rfl).trans hmem, (hway.blocks rfl).trans hblocks,
    (congrArg (·.sectors) hstores).trans hsec, (congrArg (·.lifeCopies) (hway.obs_eq rfl)).trans hlife, by rw [hrst]; exact ha, by rw [hrst]; exact hb,
    (hway.outbox_eq rfl).trans hout⟩
  rw [hcause', hcause]
  rfl

theorem lasersOff_way (s : State) : Keeps [0x4400] s (lasersOff s) := lasersOff_keeps Sub.rfl (Keeps.refl _ s)

/-- What the loss of the main rails clears, and what it leaves of the reset unit and of self refresh. -/
theorem clearMain_spec (s : State) : (clearMain s).blocks = [] ∧ (clearMain s).parts = [] ∧ (clearMain s).rst.pwrGood = s.rst.pwrGood ∧
    (clearMain s).msys.selfRefresh = s.msys.selfRefresh := ⟨rfl, rfl, rfl, rfl⟩

theorem modRst_other (v : State) (f : ResetUnit → ResetUnit) : (v.modRst f).rst = f v.rst ∧ (v.modRst f).blocks = v.blocks ∧ (v.modRst f).parts = v.parts ∧
    (v.modRst f).msys = v.msys := ⟨rfl, rfl, rfl, rfl⟩

/-- What the main rails fed is gone. -/
theorem railsDown_spec (s : State) : (railsDown s).rst.pwrEn = false ∧ (railsDown s).rst.pwrGood = s.rst.pwrGood ∧ (railsDown s).blocks = [] ∧ (railsDown s).parts = [] ∧
    (railsDown s).mgmt = s.mgmt ∧ (railsDown s).msys.selfRefresh = s.msys.selfRefresh := by
  have hway := lasersOff_way (clearMain s)
  obtain ⟨hblocks, hparts, hgood, hself⟩ := clearMain_spec s
  obtain ⟨hrst, hb, hp, hm⟩ := modRst_other (lasersOff (clearMain s)) fun r => { r with pwrEn := false }
  have hmain : Keeps [1, 4, 5, 6, 7, 8, 9, 11, 12, 13, 14, 15, 16, 19, 31] s (railsDown s) := railsDown_keeps Sub.rfl (Keeps.refl _ s)
  have hgood' : (lasersOff (clearMain s)).rst.pwrGood = s.rst.pwrGood := by rw [hway.rst_eq rfl, hgood]
  refine ⟨congrArg (·.pwrEn) hrst, (congrArg (·.pwrGood) hrst).trans hgood', hb.trans ((hway.blocks rfl).trans hblocks), hp.trans ((hway.parts rfl).trans hparts),
    hmain.mgmt_eq rfl, ?_⟩
  rw [railsDown, hm, hway.msys_eq rfl, hself]

/-- PWR_GOOD falls while the rails are on. -/
theorem pwrGoodFall_on (hen : s.rst.pwrEn = true) (hgood : s.rst.pwrGood = true) : Does .pwrGoodFall s fun t =>
    t.rst.pwrEn = false ∧ t.rst.pwrGood = false ∧ t.blocks = [] ∧ t.parts = [] ∧ t.mgmt = s.mgmt := by
  obtain ⟨hen', hgood', hblocks, hparts, hmgmt, _⟩ := railsDown_spec (s.modRst fun r => { r with pwrGood := false })
  exact ⟨_, congrArg Host.Outcome.next (if_pos ⟨hen, hgood⟩), hen', hgood', hblocks, hparts, hmgmt⟩

theorem pwrGoodFall_off (h : s.rst.pwrEn = false ∨ s.rst.pwrGood = false) : Does .pwrGoodFall s fun t => t = s.setRst { s.rst with pwrGood := false } :=
  ⟨_, congrArg Host.Outcome.next (if_neg (by rintro ⟨h1, h2⟩; simp_all)), rfl⟩

theorem toStage3_spec (h : s.rst.pwrGood = true) : (toStage3 s).rd R.RST_STAGE 0 = 3 ∧ (toStage3 s).rst.pwrGood = true := by
  rw [toStage3, if_pos h]
  exact ⟨(rd_wr_same (s := s) R.RST_STAGE 0 3).trans rfl, h⟩

theorem pwrGoodRise_spec (s : State) : Does .pwrGoodRise s fun t => t.rst.pwrGood = true ∧
    (s.rst.pwrEn = true → s.rst.stage2Done = true → t.rd R.RST_STAGE 0 = 3) ∧ (s.rst.stage2Done = false → t.od = s.od) := by
  obtain ⟨hst, hgood⟩ := toStage3_spec (s := s.modRst fun r => { r with pwrGood := true }) rfl
  refine ⟨_, rfl, ?_⟩
  split
  next h => exact ⟨hgood, fun _ _ => hst, fun h2 => absurd (h2.symm.trans h.2) (by decide)⟩
  next h => exact ⟨rfl, fun h1 h2 => absurd ⟨h1, h2⟩ h, fun _ => rfl⟩

theorem recovery_stage (v : State) (rom : Bool) : (recovery v rom).rd R.RST_STAGE 0 = 9 := (rd_wr_same (s := v) R.RST_STAGE 0 9).trans rfl

/-- The rails that do not come up are recorded, and bring-up that waits for them ends in recovery boot. -/
theorem pwrTimeout_late (hen : s.rst.pwrEn = true) (hgood : s.rst.pwrGood = false) (hms : s.rst.pwrEnMs + 100 ≤ s.uptimeMs) :
    (pwrTimeout s).rst.pwrEn = false ∧ Logged s (pwrTimeout s) 0xC004 uFcc [(1, 3), (2, uFcc), (1, 1)] ∧
      (s.rst.stage2Done = true → (pwrTimeout s).rd R.RST_STAGE 0 = 9) := by
  have hrec : ((s.modRst fun r => { r with pwrEn := false }).record 0xC004 uFcc [(1, 3), (2, uFcc), (1, 1)]).ledger =
      (s.record 0xC004 uFcc [(1, 3), (2, uFcc), (1, 1)]).ledger :=
    SameRecords.record_ledger (s := s.modRst fun r => { r with pwrEn := false }) (t := s) ⟨rfl, rfl, rfl, fun _ _ _ => rfl⟩ ..
  have hrst : ((s.modRst fun r => { r with pwrEn := false }).record 0xC004 uFcc [(1, 3), (2, uFcc), (1, 1)]).rst = { s.rst with pwrEn := false } :=
    (keeps_record ..).rst_eq rfl
  unfold pwrTimeout
  dsimp only
  rw [if_neg (by simp [hen, hgood]; omega)]
  split
  next h =>
    refine ⟨?_, hrec, fun _ => recovery_stage ..⟩
    exact congrArg (·.pwrEn) hrst
  next h => exact ⟨congrArg (·.pwrEn) hrst, hrec, fun h2 => absurd h2 h⟩

theorem pwrGoodTimeout_none (h : s.rst.pwrEn = false ∨ s.rst.pwrGood = true ∨ s.uptimeMs < s.rst.pwrEnMs + 100) : Does .pwrGoodTimeout s fun t => t = s :=
  ⟨_, congrArg Host.Outcome.next (if_pos h), rfl⟩

/-- With every plan gone the rails go down, the stacks in self refresh. -/
theorem orderlyShutdown_empty (h : ∀ p < 128, s.pstate p = psEmpty) : Does .orderlyShutdown s fun t =>
    t.rst.pwrEn = false ∧ t.msys.selfRefresh = true ∧ t.blocks = [] := by
  have hnone : ((List.range 128).any fun p => s.pstate p != psEmpty) = false :=
    List.any_eq_false.2 fun p hp => by simp [h p (List.mem_range.1 hp)]
  obtain ⟨hen, _, hblocks, _, _, hself⟩ := railsDown_spec (s.modMsys fun m => { m with selfRefresh := true })
  exact ⟨_, congrArg Host.Outcome.next (if_neg (by rw [hnone]; decide)), hen, hself, hblocks⟩

theorem orderlyShutdown_kept (h : ∃ p < 128, s.pstate p ≠ psEmpty) : Does .orderlyShutdown s fun t => t = s := by
  obtain ⟨p, hp, hne⟩ := h
  exact ⟨_, congrArg Host.Outcome.next (if_pos (List.any_eq_true.2 ⟨p, List.mem_range.2 hp, by simpa using hne⟩)), rfl⟩

/-! ### The image service (R307) -/

theorem modImg_slot (s : State) (f : ImageSlot → ImageSlot) : imgSlot (modImg s f) = f (imgSlot s) := by
  have hslot : (modImg s f).rd R.RST_IMG_SLOT 0 = s.rd R.RST_IMG_SLOT 0 := rfl
  have hrst : (modImg s f).rst = if s.rd R.RST_IMG_SLOT 0 = 0 then { s.rst with imgA := f s.rst.imgA } else { s.rst with imgB := f s.rst.imgB } := rfl
  unfold imgSlot
  rw [hslot, hrst]
  split <;> rfl

/-- A change of another entry leaves the image slot. -/
theorem imgSlot_wr {r : Reg} (i v : Nat) (hr : R.RST_IMG_SLOT.index * 256 + R.RST_IMG_SLOT.sub % 256 ≠ r.index * 256 + r.sub % 256) : imgSlot (s.wr r i v) = imgSlot s := by
  have hrst : (s.wr r i v).rst = s.rst := rfl
  rw [imgSlot, imgSlot, rd_wr_ne _ _ hr, hrst]

section
variable {who : Who}

theorem imgErase_spec (h : Allowed s who R.RST_IMG_CMD 0 1) : (imgBusy s = true → TurnedAway who (.imgErase who) s rState) ∧
    (imgBusy s = false → Writes who (.imgErase who) s fun t => t.rd R.RST_IMG_STATE 0 = 1 ∧ t.rst = s.rst) := by
  refine ⟨fun hb => turnedAway_of_guard rfl h (if_pos hb), fun hb => ?_⟩
  have hdone : (s.wr R.RST_IMG_STATE 0 1).rd R.RST_IMG_STATE 0 = 1 ∧ (s.wr R.RST_IMG_STATE 0 1).rst = s.rst := ⟨(rd_wr_same ..).trans rfl, rfl⟩
  exact writes_of_guard rfl h (if_neg (by rw [hb]; decide)) hdone

theorem imgCheck_spec (h : Allowed s who R.RST_IMG_CMD 0 2) : (imgBusy s = true → TurnedAway who (.imgCheck who) s rState) ∧
    (imgBusy s = false → Writes who (.imgCheck who) s fun t => t.rd R.RST_IMG_STATE 0 = 3 ∧ (imgSlot t).erased = false) := by
  refine ⟨fun hb => turnedAway_of_guard rfl h (if_pos hb), fun hb => ?_⟩
  have hdone (v : State) (hv : v = (modImg s fun i => { i with erased := false }).wr R.RST_IMG_STATE 0 3) : v.rd R.RST_IMG_STATE 0 = 3 ∧ (imgSlot v).erased = false := by
    rw [hv]
    refine ⟨(rd_wr_same ..).trans rfl, ?_⟩
    rw [imgSlot_wr _ _ (by decide), modImg_slot]
  have hchecking := hdone _ rfl
  exact writes_of_guard rfl h (if_neg (by rw [hb]; decide)) hchecking

/-- Bytes taken into an erased slot. -/
def imgDone (s : State) (bytes : List Byte) : State :=
  ((modImg s fun i => { i with bytes := mapSplice 0xFF i.bytes (s.rd R.RST_IMG_OFFSET 0) bytes }).wr R.RST_IMG_OFFSET 0
    (s.rd R.RST_IMG_OFFSET 0 + bytes.length)).wr R.RST_IMG_STATE 0 2

theorem imgDone_spec {bytes : List Byte} (ho : s.rd R.RST_IMG_OFFSET 0 + bytes.length ≤ 8388608) :
    (imgDone s bytes).rd R.RST_IMG_OFFSET 0 = s.rd R.RST_IMG_OFFSET 0 + bytes.length ∧ (imgDone s bytes).rd R.RST_IMG_STATE 0 = 2 ∧
      (imgSlot (imgDone s bytes)).bytes = mapSplice 0xFF (imgSlot s).bytes (s.rd R.RST_IMG_OFFSET 0) bytes := by
  unfold imgDone
  refine ⟨?_, (rd_wr_same ..).trans rfl, ?_⟩
  · rw [rd_wr_ne _ _ (by decide), rd_wr_same]
    exact Nat.mod_eq_of_lt (by show _ < 2 ^ 32; omega)
  · rw [imgSlot_wr _ _ (by decide), imgSlot_wr _ _ (by decide), modImg_slot]

theorem imgData_spec (h : Allowed s who R.RST_IMG_DATA 0 0) {bytes : List Byte} (hlen : bytes.length ≤ 1016) :
    (imgBusy s = false → (imgSlot s).erased = true → s.rd R.RST_IMG_OFFSET 0 + bytes.length ≤ 8388608 → Writes who (.rstImgData who bytes) s fun t =>
      t.rd R.RST_IMG_OFFSET 0 = s.rd R.RST_IMG_OFFSET 0 + bytes.length ∧ t.rd R.RST_IMG_STATE 0 = 2 ∧
        (imgSlot t).bytes = mapSplice 0xFF (imgSlot s).bytes (s.rd R.RST_IMG_OFFSET 0) bytes) ∧
    (imgBusy s = true ∨ (imgSlot s).erased = false ∨ 8388608 < s.rd R.RST_IMG_OFFSET 0 + bytes.length → TurnedAway who (.rstImgData who bytes) s rState) := by
  refine ⟨fun hb he ho => ?_, fun hno => turnedAway_of_guard rfl h ((if_neg (by omega)).trans (if_pos hno))⟩
  obtain ⟨hoff, hst, hbytes⟩ := imgDone_spec (s := s) (bytes := bytes) ho
  exact writes_of_guard rfl h ((if_neg (by omega)).trans (if_neg (by rw [hb, he]; simp; omega))) ⟨hoff, hst, hbytes⟩

theorem imgEraseDone_spec (s : State) : (s.rd R.RST_IMG_STATE 0 = 1 → Does .imgEraseDone s fun t => t.rd R.RST_IMG_STATE 0 = 0 ∧ imgSlot t = { erased := true }) ∧
    (s.rd R.RST_IMG_STATE 0 ≠ 1 → Does .imgEraseDone s fun t => t = s) := by
  refine ⟨fun h => ⟨_, congrArg Host.Outcome.next (if_pos h), (rd_wr_same ..).trans rfl, ?_⟩, fun h => ⟨_, congrArg Host.Outcome.next (if_neg h), rfl⟩⟩
  rw [imgSlot_wr _ _ (by decide), modImg_slot]

/-- A slot with the outcome of its check. -/
def imgNoted (s : State) (c : BootCheck) : State :=
  (modImg s fun i => { i with passed := decide (bootFail c = 0), version := c.version }).wr R.RST_IMG_STATE 0 (if bootFail c = 0 then 4 else 5)

theorem imgNoted_spec (s : State) (c : BootCheck) : (imgNoted s c).rd R.RST_IMG_STATE 0 = (if bootFail c = 0 then 4 else 5) ∧
    (imgSlot (imgNoted s c)).passed = decide (bootFail c = 0) := by
  refine ⟨(rd_wr_same ..).trans (by split <;> rfl), ?_⟩
  rw [imgNoted, imgSlot_wr _ _ (by decide), modImg_slot]

theorem imgChecked_eq (c : BootCheck) (h : s.rd R.RST_IMG_STATE 0 = 3) : imgChecked s c =
    if bootFail c = 0 then imgNoted s c else (imgNoted s c).record 0xC005 uFcc [(1, s.rd R.RST_IMG_SLOT 0), (1, bootFail c)] := if_neg (not_not.2 h)

theorem imgCheckDone_spec (s : State) (c : BootCheck) : (s.rd R.RST_IMG_STATE 0 = 3 → Does (.imgCheckDone c) s fun t =>
      t.rd R.RST_IMG_STATE 0 = (if bootFail c = 0 then 4 else 5) ∧ (imgSlot t).passed = decide (bootFail c = 0)) ∧
    (s.rd R.RST_IMG_STATE 0 ≠ 3 → Does (.imgCheckDone c) s fun t => t = s) := by
  refine ⟨fun h => ⟨_, congrArg Host.Outcome.next (imgChecked_eq c h), ?_⟩, fun h => ⟨_, congrArg Host.Outcome.next (if_pos h), rfl⟩⟩
  obtain ⟨hst, hslot⟩ := imgNoted_spec s c
  have hway : Keeps [16, 0x7002] (imgNoted s c)
      (if bootFail c = 0 then imgNoted s c else (imgNoted s c).record 0xC005 uFcc [(1, s.rd R.RST_IMG_SLOT 0), (1, bootFail c)]) :=
    .ite (Keeps.refl _ _) (keeps_record ..)
  refine ⟨(hway.rd R.RST_IMG_STATE 0 rfl).trans hst, ?_⟩
  rw [← hslot, imgSlot, imgSlot, hway.rd R.RST_IMG_SLOT 0 rfl, hway.rst_eq rfl]

end

end

end Sys2Proof.Machine
end

section
/-! The stages of bring-up (R304 to R308). -/

namespace Sys2Proof.Machine

open Sys2Proof

section
variable {s t u : State}

/-! ### The FCC's image starts (R306) -/

/-- From `s` to `t` the boot mode, the rails, the cause of the reset and the slot that runs stay. -/
structure Boots (s t : State) : Prop where
  mode : t.rst.mode = s.rst.mode
  en : t.rst.pwrEn = s.rst.pwrEn
  good : t.rst.pwrGood = s.rst.pwrGood
  cause : t.rd R.RST_CAUSE 0 = s.rd R.RST_CAUSE 0
  slot : t.rd R.ID_FW_SLOT 0 = s.rd R.ID_FW_SLOT 0

theorem Boots.refl (s : State) : Boots s s := ⟨rfl, rfl, rfl, rfl, rfl⟩

theorem Boots.trans (h : Boots s t) (h' : Boots t u) : Boots s u :=
  ⟨h'.mode.trans h.mode, h'.en.trans h.en, h'.good.trans h.good, h'.cause.trans h.cause, h'.slot.trans h.slot⟩

theorem Boots.ite {c : Prop} [Decidable c] (h : Boots s t) (h' : Boots s u) : Boots s (if c then t else u) := by
  split <;> assumption

theorem Boots.of_keeps {T : List Nat} (h : Keeps T s t) (h14 : T.contains 14 = false) (hc : (T.contains 0x2000 || T.contains 31) = false)
    (hs : (T.contains (regPlace R.ID_FW_SLOT) || T.contains 31) = false) : Boots s t := by
  have hrst := h.rst_eq h14
  exact ⟨by rw [hrst], by rw [hrst], by rw [hrst], h.rd R.RST_CAUSE 0 hc, h.rd R.ID_FW_SLOT 0 hs⟩

theorem Boots.modRst (s : State) {f : ResetUnit → ResetUnit} (hm : (f s.rst).mode = s.rst.mode) (he : (f s.rst).pwrEn = s.rst.pwrEn)
    (hg : (f s.rst).pwrGood = s.rst.pwrGood) : Boots s (s.modRst f) := ⟨hm, he, hg, rfl, rfl⟩

theorem Boots.record (s : State) (code source : Nat) (fs : List (Nat × Nat)) : Boots s (s.record code source fs) := .of_keeps (keeps_record ..) rfl rfl rfl

theorem Boots.bump (s : State) {r : Reg} (i n : Nat) (hc : R.RST_CAUSE.index * 256 + R.RST_CAUSE.sub % 256 ≠ r.index * 256 + r.sub % 256)
    (hs : R.ID_FW_SLOT.index * 256 + R.ID_FW_SLOT.sub % 256 ≠ r.index * 256 + r.sub % 256) : Boots s (s.bumpSat r i n) :=
  ⟨rfl, rfl, rfl, rd_wr_ne _ _ hc, rd_wr_ne _ _ hs⟩

theorem fccStart_boots (s : State) (heard : Bool) : Boots s (fccStart s heard) := by
  have hstart : Boots s ((stewardStart (clvChannel s (s.rd R.CLV_TALLY_CH 0)) heard).wr R.CLV_TRAY_ID 0 Config.trayId) :=
    .of_keeps (T := [13, 17, 0x6210, 0x7100]) (wr_keeps (.of rfl Sub.rfl) (stewardStart_keeps (.of rfl Sub.rfl) (clvChannel_keeps (.of rfl Sub.rfl) (Keeps.refl _ s)))) rfl rfl rfl
  exact .ite (hstart.trans (.modRst _ rfl rfl rfl)) hstart

/-- Entries of the life record put back leave every other entry. -/
theorem foldl_put_other {k : Nat} {l : Map Nat} (hl : ∀ e ∈ l, e.1 ≠ k) (d : Nat) (m : Map Nat) :
    mapGet d (l.foldl (fun m e => mapPut m e.1 e.2) m) k = mapGet d m k := by
  induction l generalizing m with
  | nil => rfl
  | cons e l ih =>
    rw [List.foldl_cons, ih fun x hx => hl x (List.mem_cons_of_mem _ hx)]
    exact mapGet_mapPut_other _ _ _ (hl e List.mem_cons_self).symm

theorem lifeResume_rd (s : State) {r : Reg} {i : Nat} (hr : odKey r i / 16777216 < 0x9010) : (lifeResume s).rd r i = s.rd r i := by
  have hput : (lifeResume s).rd r i = (s.odClear fun idx sub _ => decide (0x9010 ≤ idx) && homeOf idx sub == .flash).rd r i := by
    refine foldl_put_other (fun e he hk => ?_) _ _
    have hlow := (List.mem_filter.1 he).2
    rw [hk, decide_eq_false (by omega), Bool.false_and] at hlow
    exact absurd hlow (by decide)
  rw [hput, rd_odClear]
  rw [decide_eq_false (by omega), Bool.false_and]

theorem lifeResume_boots (s : State) : Boots s (lifeResume s) := ⟨rfl, rfl, rfl, lifeResume_rd s (by decide), lifeResume_rd s (by decide)⟩

theorem fccBoot_boots (s : State) (e : StageEnd) : Boots s (fccBoot s e) := by
  have hsectors (v : State) : Boots v (v.each e.badSectors sectorAgain) :=
    .of_keeps (T := [16, 0x7002]) (each_keeps (fun _ _ h => sectorAgain_keeps Sub.rfl h) (Keeps.refl _ v)) rfl rfl rfl
  have hcounts (v : State) : Boots v (ldgCounts v) := .of_keeps (ldgCounts_keeps Sub.rfl (Keeps.refl _ v)) rfl rfl rfl
  have hrefill (v : State) : Boots v (ldgRefill v) := .of_keeps (ldgRefill_keeps Sub.rfl (Keeps.refl _ v)) rfl rfl rfl
  have hlife (v : State) (c : Prop) [Decidable c] : Boots v (if c then ldgCounts (v.bumpSat R.LIFE_POWER_ONS 0 1) else (ldgRefill v).bumpSat R.LIFE_RESETS 0 1) :=
    .ite ((Boots.bump _ _ _ (by decide) (by decide)).trans (hcounts _)) ((hrefill v).trans (.bump _ _ _ (by decide) (by decide)))
  have htrips (v : State) (c : Prop) [Decidable c] : Boots v (if c then v.bumpSat R.LIFE_TRIPS 0 1 else v) := .ite (.bump _ _ _ (by decide) (by decide)) (.refl v)
  have hstage1 (v : State) (c : Prop) [Decidable c] (fs : List (Nat × Nat)) :
      Boots v (if c then (v.modRst fun r => { r with stage1Bad := false }).record 0xC004 uFcc fs else v) :=
    .ite ((Boots.modRst v rfl rfl rfl).trans (.record ..)) (.refl v)
  have hopen (v : State) (c : Prop) [Decidable c] (fs : List (Nat × Nat)) : Boots v (if c then v.record 0xE005 uFcc fs else v) := .ite (.record ..) (.refl v)
  exact (fccStart_boots s e.stewardHeard).trans ((hsectors _).trans ((lifeResume_boots _).trans ((hlife ..).trans ((htrips ..).trans ((hstage1 ..).trans (hopen ..))))))

/-! ### The end of a stage (R304 to R308) -/

/-- Whether a stage is under way whose end the chip takes. -/
def StageRuns (s : State) : Prop :=
  s.rst.standby = true ∧ s.rst.inReset = false ∧ s.rst.stage2Done = false ∧ s.rd R.RST_STAGE 0 < 8 ∧
    (s.rd R.RST_STAGE 0 < 3 ∨ (s.rst.pwrEn = true ∧ s.rst.pwrGood = true))

theorem stageEnd_idle {e : StageEnd} (h : ¬ StageRuns s) : stageEnd s e = s := by
  refine if_pos ?_
  unfold StageRuns at h
  simp only [not_and_or, not_lt, not_or] at h
  simpa [not_and_or] using h

/-- The state with the time that a stage took. -/
def stageTimed (s : State) (e : StageEnd) : State := s.wr R.RST_STAGE_MS (s.rd R.RST_STAGE 0) e.durationMs

theorem stageTimed_rd (s : State) (e : StageEnd) {r : Reg} {i : Nat}
    (hr : r.index * 256 + r.sub % 256 ≠ R.RST_STAGE_MS.index * 256 + R.RST_STAGE_MS.sub % 256) : (stageTimed s e).rd r i = s.rd r i := rd_wr_ne _ _ hr

theorem stageEnd_runs {e : StageEnd} (h : StageRuns s) : ∃ f : Nat → State, stageEnd s e = f (s.rd R.RST_STAGE 0) ∧ f 1 = stage1End (stageTimed s e) e ∧
    f 2 = stage2End (stageTimed s e) e ∧
    f 3 = (if e.ok then (((stageTimed s e).modMsys fun m => { m with selfRefresh := false }).each (List.range 8) fun t n => t.wr R.MEM_HBM_STATE n 2).wr R.RST_STAGE 0 4
      else recovery (stageTimed s e) false) ∧ f 4 = stage4End (stageTimed s e) e ∧ f 5 = (stageTimed s e).wr R.RST_STAGE 0 6 ∧
    f 6 = stage6End (stageTimed s e) e ∧ f 7 = stage7End (stageTimed s e) e := by
  obtain ⟨h1, h2, h3, h4, h5⟩ := h
  refine ⟨fun k => match k with
    | 1 => stage1End (stageTimed s e) e
    | 2 => stage2End (stageTimed s e) e
    | 3 =>
      if e.ok then
        (((stageTimed s e).modMsys fun m => { m with selfRefresh := false }).each (List.range 8) fun t n => t.wr R.MEM_HBM_STATE n 2).wr
          R.RST_STAGE 0 4
      else recovery (stageTimed s e) false
    | 4 => stage4End (stageTimed s e) e
    | 5 => (stageTimed s e).wr R.RST_STAGE 0 6
    | 6 => stage6End (stageTimed s e) e
    | _ => stage7End (stageTimed s e) e, ?_, rfl, rfl, rfl, rfl, rfl, rfl, rfl⟩
  unfold stageEnd
  dsimp only
  rw [if_neg]
  · rfl
  · rintro (h | h | h | h | ⟨h, h'⟩)
    · simp_all
    · simp_all
    · simp_all
    · omega
    · rcases h5 with h5 | ⟨h5, h6⟩
      · omega
      · simp_all

theorem stage1End_ok {e : StageEnd} (hok : e.ok = true) : (stage1End s e).rd R.RST_STAGE 0 = 2 ∧ (stage1End s e).rst.pwrEn = true ∧
    (stage1End s e).rst.mode = strapMode (strapCode e.strapAdc) := by
  obtain ⟨hrst, hstage, _⟩ := readStrap_strapped (((s.each e.badLists dropList).wr R.RST_STAGE 0 2).modRst fun r => { r with pwrEn := true, pwrEnMs := s.uptimeMs }) e.strapAdc
  rw [stage1End, if_pos hok]
  refine ⟨hstage.trans ?_, by rw [hrst]; rfl, by rw [hrst]⟩
  exact (rd_wr_same (s := s.each e.badLists dropList) R.RST_STAGE 0 2).trans rfl

theorem stage1End_bad {e : StageEnd} (hok : e.ok = false) : (stage1End s e).rd R.RST_STAGE 0 = s.rd R.RST_STAGE 0 ∧ (stage1End s e).rst.stage1Bad = true := by
  rw [stage1End, if_neg (by rw [hok]; decide)]
  exact ⟨rfl, rfl⟩

/-- The checks of the slots recorded. -/
def slotsNoted (s : State) (e : StageEnd) : State :=
  let s1 := if bootFail e.slotA = 0 then s else s.record 0xC005 uFcc [(1, 0), (1, bootFail e.slotA)]
  if bootFail e.slotA = 0 ∨ bootFail e.slotB = 0 then s1 else s1.record 0xC005 uFcc [(1, 1), (1, bootFail e.slotB)]

theorem slotsNoted_boots (s : State) (e : StageEnd) : Boots s (slotsNoted s e) := by
  have hone : Boots s (if bootFail e.slotA = 0 then s else s.record 0xC005 uFcc [(1, 0), (1, bootFail e.slotA)]) := .ite (.refl s) (.record ..)
  exact .ite hone (hone.trans (.record ..))

theorem stage2End_rom {e : StageEnd} (ha : bootFail e.slotA ≠ 0) (hb : bootFail e.slotB ≠ 0) : (stage2End s e).rd R.RST_STAGE 0 = 9 ∧ (stage2End s e).rst.romRecovery = true := by
  have heq : stage2End s e = recovery (slotsNoted s e) true := if_pos ⟨ha, hb⟩
  rw [heq]
  exact ⟨recovery_stage .., rfl⟩

/-- The image of the first good slot runs, and stage 3 begins. -/
theorem stage2End_image {e : StageEnd} (h : bootFail e.slotA = 0 ∨ bootFail e.slotB = 0) (hok : e.ok = true) (hmode : s.rst.mode ≠ .recovery)
    (hen : s.rst.pwrEn = true) (hgood : s.rst.pwrGood = true) (hcause : bitOf (s.rd R.RST_CAUSE 0) 6 = false) :
    (stage2End s e).rd R.RST_STAGE 0 = 3 ∧ (stage2End s e).rd R.ID_FW_SLOT 0 = if bootFail e.slotA = 0 then 0 else 1 := by
  let v := ((slotsNoted s e).wr R.ID_FW_SLOT 0 (if bootFail e.slotA = 0 then 0 else 1)).wr R.ID_FW_VER 0
    (if bootFail e.slotA = 0 then e.slotA.version else e.slotB.version)
  obtain ⟨hm1, he1, hg1, hc1, _⟩ := slotsNoted_boots s e
  obtain ⟨hm2, he2, hg2, hc2, hs2⟩ := fccBoot_boots v e
  have hslot : v.rd R.ID_FW_SLOT 0 = if bootFail e.slotA = 0 then 0 else 1 :=
    (rd_wr_ne _ _ (by decide)).trans ((rd_wr_same ..).trans (by split <;> rfl))
  have hcausev : v.rd R.RST_CAUSE 0 = s.rd R.RST_CAUSE 0 := (rd_wr_ne _ _ (by decide)).trans ((rd_wr_ne _ _ (by decide)).trans hc1)
  have hmode' : (fccBoot v e).rst.mode ≠ .recovery := by rw [hm2]; exact fun h => hmode (hm1.symm.trans h)
  have hen' : (fccBoot v e).rst.pwrEn = true := he2.trans (he1.trans hen)
  have hgood' : (fccBoot v e).rst.pwrGood = true := hg2.trans (hg1.trans hgood)
  have hcause' : bitOf ((fccBoot v e).rd R.RST_CAUSE 0) 6 = false := by rw [hc2, hcausev]; exact hcause
  have heq : stage2End s e = toStage3 ((fccBoot v e).modRst fun r => { r with stage2Done := true }) := by
    refine (if_neg ?_).trans (if_neg ?_)
    · rintro ⟨h1, h2⟩
      exact h.elim h1 h2
    · rintro (h1 | h1 | h1 | h1)
      · exact absurd (hok.symm.trans h1) (by decide)
      · exact hmode' h1
      · exact absurd (hen'.symm.trans h1) (by decide)
      · exact absurd (hcause'.symm.trans h1) (by decide)
  have hthree : Keeps [14, 0x2000] ((fccBoot v e).modRst fun r => { r with stage2Done := true }) (toStage3 ((fccBoot v e).modRst fun r => { r with stage2Done := true })) :=
    toStage3_keeps Sub.rfl (Keeps.refl _ _)
  rw [heq]
  exact ⟨(toStage3_spec (s := (fccBoot v e).modRst fun r => { r with stage2Done := true }) hgood').1, (hthree.rd R.ID_FW_SLOT 0 rfl).trans (hs2.trans hslot)⟩

theorem wr_memory (s : State) (r : Reg) (i v : Nat) : (s.wr r i v).mem = s.mem ∧ (s.wr r i v).poison = s.poison := ⟨rfl, rfl⟩

theorem zeroed_memory (s : State) : ((s.setMem []).setPoison []).mem = [] ∧ ((s.setMem []).setPoison []).poison = [] := ⟨rfl, rfl⟩

/-- The stacks trained or failed, and the rows repaired. -/
def stacksNoted (s : State) (e : StageEnd) : State :=
  let bad (n : Nat) : Bool := e.stackFail.any fun f => f.1 == n
  let s1 := s.each (List.range 8) fun t n => t.wr R.MEM_HBM_STATE n (b2n (bad n))
  let s2 := s1.each e.stackFail fun t f => t.record 0x5015 (uHbm f.1) [(1, f.2.1), (1, f.2.2)]
  s2.each (s.msys.repairs.filter fun r => !bad r.1) fun t r => t.record 0x5013 (uHbm r.1) [(4, r.2)]

/-- All memory is zeroed, and the ports train. -/
theorem stage4End_spec (s : State) (e : StageEnd) : (stage4End s e).rd R.RST_STAGE 0 = 5 ∧ (stage4End s e).mem = [] ∧ (stage4End s e).poison = [] := by
  have hports (v : State) : Keeps [4, 6, 9, 11, 13, 16, 0x4000, 0x4001, 0x4110, 0x4140, 0x4400, 0x5804, 0x7002, 0x9000, 0x9001, 0x9010] v
      (v.each (List.range 6) leaveOff) := each_keeps (fun _ _ h => leaveOff_keeps Sub.rfl h) (Keeps.refl _ v)
  have heq : stage4End s e = ((((stacksNoted s e).setMem []).setPoison []).wr R.RST_STAGE 0 5).each (List.range 6) leaveOff := rfl
  obtain ⟨hmem, hpoison⟩ := zeroed_memory (stacksNoted s e)
  obtain ⟨hm, hp⟩ := wr_memory (((stacksNoted s e).setMem []).setPoison []) R.RST_STAGE 0 5
  rw [heq]
  exact ⟨((hports _).rd R.RST_STAGE 0 rfl).trans (rd_wr_same ..), ((hports _).mem rfl).trans (hm.trans hmem), ((hports _).poison_eq rfl).trans (hp.trans hpoison)⟩

theorem stage6End_stage (s : State) (e : StageEnd) : (stage6End s e).rd R.RST_STAGE 0 = 7 := (rd_wr_same ..).trans rfl

/-- The chip is Ready, and a member again unless it is in manufacturing test. -/
theorem stage7End_spec (s : State) (e : StageEnd) : (stage7End s e).rd R.RST_STAGE 0 = 8 ∧ (stage7End s e).rst.rrs = !e.ok ∧
    (s.rd R.CLV_STATE 0 = 2 → s.rst.mode ≠ .manufacturing → (stage7End s e).rd R.CLV_STATE 0 = 0) := by
  let s1 := (s.wr R.RST_STAGE 0 8).modRst fun r => { r with rrs := !e.ok }
  let s2 := if e.ok then s1.wr R.HOST_FN_STATE 0 (b2n (!s1.host.perst)) else s1.record 0xC004 uFcc [(1, 7), (2, e.unit), (1, 1)]
  let s3 := if s2.rd R.CLV_STATE 0 = 2 ∧ s2.rst.mode ≠ .manufacturing then s2.wr R.CLV_STATE 0 0 else s2
  have hstage : s1.rd R.RST_STAGE 0 = 8 := (rd_wr_same (s := s) R.RST_STAGE 0 8).trans rfl
  have hmember : s1.rd R.CLV_STATE 0 = s.rd R.CLV_STATE 0 :=
    Eq.trans (b := (s.wr R.RST_STAGE 0 8).rd R.CLV_STATE 0) rfl (rd_wr_ne s _ (by decide))
  have h2 : Keeps [16, 0x5001, 0x7002] s1 s2 := .ite (wr_keeps (.of rfl Sub.rfl) (Keeps.refl _ _)) (record_keeps (.of rfl Sub.rfl) (Keeps.refl _ _))
  have h3 : Keeps [0x6202] s2 s3 := .ite (wr_keeps Sub.rfl (Keeps.refl _ _)) (Keeps.refl _ _)
  have h4 : Keeps [16, 0x6103, 0x7002] s3 (stage7End s e) :=
    record_keeps (.of rfl Sub.rfl) (.ite (each_keeps (fun _ _ h => wr_keeps (.of rfl Sub.rfl) h) (Keeps.refl _ _)) (Keeps.refl _ _))
  refine ⟨?_, ?_, fun hfenced hmode => ?_⟩
  · rw [h4.rd R.RST_STAGE 0 rfl, h3.rd R.RST_STAGE 0 rfl, h2.rd R.RST_STAGE 0 rfl, hstage]
  · rw [h4.rst_eq rfl, h3.rst_eq rfl, h2.rst_eq rfl]
    rfl
  · have hcond : s2.rd R.CLV_STATE 0 = 2 ∧ s2.rst.mode ≠ .manufacturing :=
      ⟨(h2.rd R.CLV_STATE 0 rfl).trans (hmember.trans hfenced), by rw [h2.rst_eq rfl]; exact hmode⟩
    have heq : s3 = s2.wr R.CLV_STATE 0 0 := if_pos hcond
    rw [h4.rd R.CLV_STATE 0 rfl, heq, rd_wr_same]
    rfl

/-- Each stage that passes leads to the next. -/
theorem stageEnd_next {e : StageEnd} (h : StageRuns s) :
    (s.rd R.RST_STAGE 0 = 1 → e.ok = true → (stageEnd s e).rd R.RST_STAGE 0 = 2 ∧ (stageEnd s e).rst.pwrEn = true ∧
      (stageEnd s e).rst.mode = strapMode (strapCode e.strapAdc)) ∧
    (s.rd R.RST_STAGE 0 = 1 → e.ok = false → (stageEnd s e).rd R.RST_STAGE 0 = 1 ∧ (stageEnd s e).rst.stage1Bad = true) ∧
    (s.rd R.RST_STAGE 0 = 2 → bootFail e.slotA ≠ 0 → bootFail e.slotB ≠ 0 → (stageEnd s e).rd R.RST_STAGE 0 = 9 ∧ (stageEnd s e).rst.romRecovery = true) ∧
    (s.rd R.RST_STAGE 0 = 2 → bootFail e.slotA = 0 ∨ bootFail e.slotB = 0 → e.ok = true → s.rst.mode ≠ .recovery → s.rst.pwrEn = true → s.rst.pwrGood = true →
      bitOf (s.rd R.RST_CAUSE 0) 6 = false → (stageEnd s e).rd R.RST_STAGE 0 = 3 ∧ (stageEnd s e).rd R.ID_FW_SLOT 0 = if bootFail e.slotA = 0 then 0 else 1) ∧
    (s.rd R.RST_STAGE 0 = 3 → (stageEnd s e).rd R.RST_STAGE 0 = if e.ok then 4 else 9) ∧
    (s.rd R.RST_STAGE 0 = 4 → (stageEnd s e).rd R.RST_STAGE 0 = 5 ∧ (stageEnd s e).mem = [] ∧ (stageEnd s e).poison = []) ∧
    (s.rd R.RST_STAGE 0 = 5 → (stageEnd s e).rd R.RST_STAGE 0 = 6) ∧
    (s.rd R.RST_STAGE 0 = 6 → (stageEnd s e).rd R.RST_STAGE 0 = 7) ∧
    (s.rd R.RST_STAGE 0 = 7 → (stageEnd s e).rd R.RST_STAGE 0 = 8 ∧ (stageEnd s e).rst.rrs = !e.ok ∧
      (s.rd R.CLV_STATE 0 = 2 → s.rst.mode ≠ .manufacturing → (stageEnd s e).rd R.CLV_STATE 0 = 0)) := by
  obtain ⟨f, hf, f1, f2, f3, f4, f5, f6, f7⟩ := stageEnd_runs (e := e) h
  have hrst : (stageTimed s e).rst = s.rst := rfl
  refine ⟨fun hk hok => ?_, fun hk hok => ?_, fun hk ha hb => ?_, fun hk hab hok hmode hen hgood hcause => ?_, fun hk => ?_, fun hk => ?_, fun hk => ?_,
    fun hk => ?_, fun hk => ?_⟩
  · rw [hf, hk, f1]
    exact stage1End_ok hok
  · rw [hf, hk, f1]
    obtain ⟨hst, hbad⟩ := stage1End_bad (s := stageTimed s e) hok
    exact ⟨hst.trans ((stageTimed_rd s e (by decide)).trans hk), hbad⟩
  · rw [hf, hk, f2]
    exact stage2End_rom ha hb
  · rw [hf, hk, f2]
    exact stage2End_image hab hok hmode hen hgood (by rw [stageTimed_rd s e (by decide)]; exact hcause)
  · rw [hf, hk, f3]
    cases e.ok
    · exact recovery_stage ..
    · exact (rd_wr_same ..).trans rfl
  · rw [hf, hk, f4]
    exact stage4End_spec ..
  · rw [hf, hk, f5]
    exact (rd_wr_same ..).trans rfl
  · rw [hf, hk, f6]
    exact stage6End_stage ..
  · rw [hf, hk, f7]
    obtain ⟨hst, hrrs, hmember⟩ := stage7End_spec (stageTimed s e) e
    exact ⟨hst, hrrs, fun hc hm => hmember ((stageTimed_rd s e (by decide)).trans hc) hm⟩

end

end Sys2Proof.Machine
end

section
/-! The safety clamps and the power cap (R312 to R314). -/

namespace Sys2Proof.Machine

open Sys2Proof

section
variable {s t : State}

/-! ### Clamps (R312, R314) -/

/-- A cause that clamps already is only no longer clearing. -/
theorem clamp_again {cause : Nat} (h : s.power.clamps.contains cause = true) : clamp s cause =
    s.modPower fun w => { w with clearing := w.clearing.filter fun c => c != cause } := if_pos h

/-- A clamp begun: one more cause, counted and recorded. -/
theorem clamp_begun {cause : Nat} (h : s.power.clamps.contains cause = false) : (clamp s cause).power.clamps = s.power.clamps ++ [cause] ∧
    Counted s (clamp s cause) R.PWR_CLAMPS 0 1 ∧ Logged s (clamp s cause) 0xC020 uFcc [(1, cause), (4, s.rd R.PWR_CCLK_KHZ 0)] ∧ (clamp s cause).mem = s.mem := by
  let v := (s.modPower fun w => { w with clamps := w.clamps ++ [cause] }).bumpSat R.PWR_CLAMPS 0 1
  have heq : clamp s cause = v.record 0xC020 uFcc [(1, cause), (4, s.rd R.PWR_CCLK_KHZ 0)] := if_neg (by rw [h]; decide)
  have hrec : Keeps [16, 0x7002] v (clamp s cause) := by rw [heq]; exact keeps_record ..
  have hpower : v.power = { s.power with clamps := s.power.clamps ++ [cause] } := rfl
  have hv : Keeps [15, 0x2101] s v := bumpSat_keeps (.of rfl Sub.rfl) (setPower_keeps (.of rfl Sub.rfl) (Keeps.refl _ s))
  refine ⟨by rw [hrec.power_eq rfl, hpower], ?_, ?_, (hrec.mem rfl).trans (hv.mem rfl)⟩
  · rw [Counted, hrec.rd R.PWR_CLAMPS 0 rfl]
    exact rd_bumpSat_same ..
  · rw [Logged, heq]
    exact (SameRecords.of_keeps hv rfl (by decide)).record_ledger ..

theorem policyClamp_new {cause : Nat} (h : s.power.clamps.contains cause = false) :
    Does (.policyClamp cause false) s (fun t => t.power.clamps = s.power.clamps ++ [cause] ∧ Counted s t R.PWR_CLAMPS 0 1 ∧
      Logged s t 0xC020 uFcc [(1, cause), (4, s.rd R.PWR_CCLK_KHZ 0)] ∧ t.mem = s.mem) ∧
    Does (.policyClamp cause true) s fun t => t = s :=
  ⟨⟨_, rfl, clamp_begun h⟩, ⟨_, congrArg Host.Outcome.next ((if_pos rfl).trans (if_neg (by rw [h]; decide))), rfl⟩⟩

theorem policyClamp_held {cause : Nat} (h : s.power.clamps.contains cause = true) :
    Does (.policyClamp cause true) s (fun t => t.power.clamps = s.power.clamps ∧ cause ∈ t.power.clearing ∧ t.od = s.od) ∧
    Does (.policyClamp cause false) s (fun t => t.power.clamps = s.power.clamps ∧ cause ∉ t.power.clearing ∧ t.od = s.od) := by
  refine ⟨⟨_, congrArg Host.Outcome.next (if_pos h), rfl, mem_addNew .., rfl⟩, ⟨_, congrArg Host.Outcome.next (clamp_again h), rfl, ?_, rfl⟩⟩
  exact fun hmem => by simpa using (List.mem_filter.1 hmem).2

/-- A stretch past 200 ns clamps until the next step. -/
theorem droopStretch_spec (ns win : Nat) : (win ≤ 200 → Does (.droopStretch ns win) s fun t => Counted s t R.PWR_STRETCH_NS 0 ns ∧ t.power = s.power ∧ t.ledger = s.ledger) ∧
    (200 < win → Does (.droopStretch ns win) s fun t => Counted s t R.PWR_STRETCH_NS 0 ns ∧ 3 ∈ t.power.clamps ∧ 3 ∈ t.power.clearing) := by
  refine ⟨fun h => ⟨_, congrArg Host.Outcome.next (if_pos h), rd_bumpSat_same .., rfl, rfl⟩,
    fun h => ⟨_, congrArg Host.Outcome.next (if_neg (by omega)), ?_, ?_, mem_addNew ..⟩⟩
  · have hcount : (s.bumpSat R.PWR_STRETCH_NS 0 ns).rd R.PWR_STRETCH_NS 0 = min (s.rd R.PWR_STRETCH_NS 0 + ns) (2 ^ regBits R.PWR_STRETCH_NS - 1) := rd_bumpSat_same ..
    have hclamp (v : State) : (clamp v 3).rd R.PWR_STRETCH_NS 0 = v.rd R.PWR_STRETCH_NS 0 := by
      unfold clamp
      split
      · rfl
      · rw [rd_record _ _ _ _ _ _ (by decide), rd_bumpSat_ne (by decide)]
        rfl
    exact (hclamp _).trans ((rd_record _ _ _ _ _ _ (by decide)).trans hcount)
  · have hclamp (v : State) : 3 ∈ (clamp v 3).power.clamps := by
      by_cases hc : v.power.clamps.contains 3 = true
      · rw [clamp_again hc]
        exact List.contains_iff_mem.1 hc
      · rw [(clamp_begun (Bool.not_eq_true _ ▸ hc)).1]
        exact List.mem_append_right _ (List.mem_singleton.2 rfl)
    exact hclamp _

/-! ### The cap (R313) -/

/-- The hold of unplanned work by the average and the cap, before what waited goes on. -/
def capNoted (s : State) : State :=
  s.modPower fun w => { w with
    holdUnplanned := decide (s.rd R.PWR_CAP_W 0 < s.rd R.PWR_NOW_W 0)
    overNs := if decide (s.rd R.PWR_CAP_W 0 < s.rd R.PWR_NOW_W 0) && !w.holdUnplanned then s.now else w.overNs }

theorem capHold_over (h : s.rd R.PWR_CAP_W 0 < s.rd R.PWR_NOW_W 0) : capHold s = capNoted s := by
  unfold capHold
  exact if_pos (decide_eq_true h)

theorem capHold_under (h : ¬ s.rd R.PWR_CAP_W 0 < s.rd R.PWR_NOW_W 0) : capHold s =
    resumeCmds (((capNoted s).modPower fun w => { w with held := [] }).each (capNoted s).power.held memRequest) := by
  unfold capHold
  exact if_neg (by rw [decide_eq_false h]; decide)

/-- What goes on when the hold ends leaves the clamps, the hold and the readings of power. -/
theorem released_way (l : List MemReq) (s : State) : Keeps [2, 3, 5, 6, 8, 9, 11, 12, 13, 14, 16, 19, 20, 0x2020, 0x2021, 0x3000, 0x3001, 0x3010, 0x3011, 0x3021,
    0x3403, 0x3410, 0x3411, 0x4110, 0x4120, 0x4130, 0x4140, 0x6101, 0x6102, 0x6202, 0x7002, 0x8100, 0x9000, 0x9001, 0x9010] s (resumeCmds (s.each l memRequest)) :=
  resumeCmds_keeps Sub.rfl (each_keeps (fun _ _ h => memRequest_keeps (.of rfl Sub.rfl) h) (Keeps.refl _ s))

/-- What the cap's hold sets, whatever waited. -/
theorem capHold_spec (s : State) : (capHold s).power.holdUnplanned = decide (s.rd R.PWR_CAP_W 0 < s.rd R.PWR_NOW_W 0) ∧ (capHold s).power.clamps = s.power.clamps ∧
    (∀ r i, r.index = 0x2100 ∨ r.index = 0x2101 → (capHold s).rd r i = s.rd r i) := by
  by_cases h : s.rd R.PWR_CAP_W 0 < s.rd R.PWR_NOW_W 0
  · rw [capHold_over h]
    exact ⟨rfl, rfl, fun _ _ _ => rfl⟩
  · have hway := released_way (capNoted s).power.held ((capNoted s).modPower fun w => { w with held := [] })
    rw [capHold_under h]
    refine ⟨by rw [hway.power_eq rfl]; rfl, by rw [hway.power_eq rfl]; rfl, fun r i hr => (hway.rd r i ?_).trans rfl⟩
    have hplace : regPlace r = r.index := by
      unfold regPlace
      rcases hr with hr | hr <;> rw [hr] <;> decide
    rw [hplace]
    rcases hr with hr | hr <;> rw [hr] <;> decide

/-- An average noted with the largest. -/
def averaged (s : State) (w : Nat) : State := (s.wr R.PWR_NOW_W 0 w).raise R.PWR_MAX_W 0 w

theorem averaged_spec {w : Nat} (hw : w < 65536) : (averaged s w).rd R.PWR_NOW_W 0 = w ∧ (averaged s w).rd R.PWR_MAX_W 0 = max (s.rd R.PWR_MAX_W 0) w % 2 ^ 16 ∧
    (averaged s w).rd R.PWR_CAP_W 0 = s.rd R.PWR_CAP_W 0 := by
  refine ⟨?_, ?_, ?_⟩
  · rw [averaged, rd_raise_ne (by decide), rd_wr_same]
    exact Nat.mod_eq_of_lt hw
  · have hmin : min w (2 ^ regBits R.PWR_MAX_W - 1) = w := Nat.min_eq_left (by show w ≤ 65535; omega)
    rw [averaged, State.raise, rd_wr_same, hmin, rd_wr_ne _ _ (by decide)]
    rfl
  · rw [averaged, rd_raise_ne (by decide), rd_wr_ne _ _ (by decide)]

theorem powerCapHold_spec {w : Nat} (hw : w < 65536) : Does (.powerCapHold w) s fun t => t.rd R.PWR_NOW_W 0 = w ∧
    t.rd R.PWR_MAX_W 0 = max (s.rd R.PWR_MAX_W 0) w % 2 ^ 16 ∧ t.power.holdUnplanned = decide (s.rd R.PWR_CAP_W 0 < w) ∧ t.power.clamps = s.power.clamps ∧
      (s.rd R.PWR_CAP_W 0 < w → t.mem = s.mem ∧ t.power.held = s.power.held) := by
  obtain ⟨hnow, hmax, hcap⟩ := averaged_spec (s := s) hw
  obtain ⟨hhold, hclamps, hrd⟩ := capHold_spec (averaged s w)
  refine ⟨capHold (averaged s w), rfl, (hrd _ _ (.inr rfl)).trans hnow, (hrd _ _ (.inr rfl)).trans hmax, by rw [hhold, hnow, hcap], hclamps, fun h => ?_⟩
  rw [capHold_over (by rw [hnow, hcap]; exact h)]
  exact ⟨rfl, rfl⟩

theorem powerCapHold_over {w : Nat} (hover : s.rd R.PWR_CAP_W 0 < w) (hw : w < 65536) (hhold : s.power.holdUnplanned = false) :
    Does (.powerCapHold w) s fun t => t.power.overNs = s.now := by
  obtain ⟨hnow, _, hcap⟩ := averaged_spec (s := s) hw
  have hlt : (averaged s w).rd R.PWR_CAP_W 0 < (averaged s w).rd R.PWR_NOW_W 0 := by rw [hnow, hcap]; exact hover
  have hnoted : (capNoted (averaged s w)).power.overNs = s.now := if_pos (by rw [decide_eq_true hlt, Bool.true_and, Bool.not_eq_true']; exact hhold)
  refine ⟨capHold (averaged s w), rfl, ?_⟩
  rw [capHold_over hlt]
  exact hnoted

theorem pwrCapW_spec {who : Who} {v : Nat} (h : Allowed s who R.PWR_CAP_W 0 v) : Writes who (.pwrCapW who v) s fun t => t.rd R.PWR_CAP_W 0 = v ∧
    t.power.holdUnplanned = decide (v < s.rd R.PWR_NOW_W 0) ∧ t.rd R.PWR_CCLK_KHZ 0 = s.rd R.PWR_CCLK_KHZ 0 := by
  obtain ⟨hhold, _, hrd⟩ := capHold_spec (s.wr R.PWR_CAP_W 0 v)
  have hcap : (s.wr R.PWR_CAP_W 0 v).rd R.PWR_CAP_W 0 = v := (rd_wr_same ..).trans (Nat.mod_eq_of_lt h.lt)
  have hdone : (capHold (s.wr R.PWR_CAP_W 0 v)).rd R.PWR_CAP_W 0 = v ∧ (capHold (s.wr R.PWR_CAP_W 0 v)).power.holdUnplanned = decide (v < s.rd R.PWR_NOW_W 0) ∧
      (capHold (s.wr R.PWR_CAP_W 0 v)).rd R.PWR_CCLK_KHZ 0 = s.rd R.PWR_CCLK_KHZ 0 := by
    refine ⟨(hrd _ _ (.inr rfl)).trans hcap, ?_, (hrd _ _ (.inl rfl)).trans (rd_wr_ne _ _ (by decide))⟩
    rw [hhold, hcap, rd_wr_ne _ _ (by decide)]
  exact writes_of_guard rfl h rfl hdone

theorem powerCapOvershoot_spec (s : State) : (s.power.holdUnplanned = true → s.power.overNs + (1000000 * s.rd R.PWR_OVER_MS 0 : Nat) ≤ s.now →
      Does .powerCapOvershoot s fun t => Logged s t 0xC021 uFcc [(2, s.rd R.PWR_NOW_W 0), (2, s.rd R.PWR_CAP_W 0)] ∧ t.power = s.power) ∧
    (s.power.holdUnplanned = false ∨ s.now < s.power.overNs + (1000000 * s.rd R.PWR_OVER_MS 0 : Nat) → Does .powerCapOvershoot s fun t => t = s) := by
  refine ⟨fun hh ht => ⟨_, congrArg Host.Outcome.next (if_pos ⟨hh, ht⟩), rfl, (keeps_record ..).power_eq rfl⟩,
    fun h => ⟨_, congrArg Host.Outcome.next (if_neg ?_), rfl⟩⟩
  rintro ⟨h1, h2⟩
  rcases h with h | h
  · exact absurd (h1.symm.trans h) (by decide)
  · omega

end

/-- Settles O50: power, the stages of bring-up, the image service, the clamps and the cap. -/
theorem powerAndBringUp : Obligations.PowerAndBringUp := by
  refine ⟨fun s who => ⟨fun adc _ => ⟨_, rfl, powerOn_spec s adc⟩, ?_, pwrGoodFall_on, pwrGoodFall_off, pwrGoodRise_spec s,
    fun hen hgood hms => ⟨_, rfl, pwrTimeout_late hen hgood hms⟩, pwrGoodTimeout_none, orderlyShutdown_empty, orderlyShutdown_kept, fun e => ⟨fun h => ?_, fun h => ?_⟩,
    imgErase_spec, imgCheck_spec, fun h bytes hlen => imgData_spec h hlen, (imgEraseDone_spec s).1, (imgEraseDone_spec s).2, imgCheckDone_spec s⟩,
    fun s who => ⟨fun cause => policyClamp_new, fun cause => policyClamp_held, droopStretch_spec, fun w => powerCapHold_spec, fun v => pwrCapW_spec,
      fun w => powerCapHold_over, (powerCapOvershoot_spec s).1, (powerCapOvershoot_spec s).2⟩⟩
  · obtain ⟨h1, h2, h3, h4, h5, h6, _⟩ := unpowered_spec s
    exact ⟨_, rfl, h1, h2, h3, h4, h5, h6⟩
  · exact ⟨_, congrArg Host.Outcome.next (stageEnd_idle h), rfl⟩
  · obtain ⟨h1, h1', h2, h2', h3, h4, h5, h6, h7⟩ := stageEnd_next (e := e) h
    exact ⟨fun hk hok _ => ⟨_, rfl, h1 hk hok⟩, fun hk hok => ⟨_, rfl, h1' hk hok⟩, fun hk ha hb => ⟨_, rfl, h2 hk ha hb⟩,
      fun hk hab hok hm hen hgood hc => ⟨_, rfl, h2' hk hab hok hm hen hgood hc⟩, fun hk => ⟨_, rfl, h3 hk⟩, fun hk => ⟨_, rfl, h4 hk⟩,
      fun hk => ⟨_, rfl, h5 hk⟩, fun hk => ⟨_, rfl, h6 hk⟩, fun hk => ⟨_, rfl, h7 hk⟩⟩

end Sys2Proof.Machine
end

section
/-! Sessions of the tray bus (R365 to R368). -/

namespace Sys2Proof.Machine

open Sys2Proof

section
variable {s t : State} {f : Frame}

/-! ### A frame dropped, counted or answered (R366) -/

/-- A malformed frame is counted, and touches no session. -/
theorem rxDrop_spec (s : State) (f : Frame) : Counted s (rxDrop s f) R.MGT_RX_DROP 0 1 ∧ (rxDrop s f).mgmt = s.mgmt ∧ (rxDrop s f).outbox = s.outbox := by
  have hrec : Keeps [16, 0x7002] (s.bumpSat R.MGT_RX_DROP 0 1) (rxDrop s f) := keeps_record ..
  exact ⟨(hrec.rd R.MGT_RX_DROP 0 rfl).trans (rd_bumpSat_same ..), hrec.mgmt_eq rfl, hrec.outbox_eq rfl⟩

theorem authFail_spec (s : State) (f : Frame) : Counted s (authFail s f) R.MGT_AUTH_FAIL 0 1 ∧ (authFail s f).mgmt = s.mgmt ∧ (authFail s f).outbox = s.outbox := by
  have hrec : Keeps [16, 0x7002] (s.bumpSat R.MGT_AUTH_FAIL 0 1) (authFail s f) := keeps_record ..
  exact ⟨(hrec.rd R.MGT_AUTH_FAIL 0 rfl).trans (rd_bumpSat_same ..), hrec.mgmt_eq rfl, hrec.outbox_eq rfl⟩

theorem sendFrame_way (s : State) (c : Bool) (key : Option (List Byte)) (f : Frame) : Keeps [20, 0x6210] s (sendFrame s c key f) := sendFrame_keeps Sub.rfl (Keeps.refl _ s)

theorem openAck_way (s : State) (f : Frame) (key : Option (List Byte)) (n : Nat) (p : List Byte) : Keeps [20, 0x6210] s (openAck s f key n p) :=
  openAck_keeps Sub.rfl (Keeps.refl _ s)

/-! ### OPEN and CLOSE (R367) -/

theorem odapOpen_malformed (ht : takes s f = true) (h : frameOk f 1 = false ∨ f.payload.length ≠ 16) : odapOpen s f = rxDrop s f := by
  unfold odapOpen
  rw [if_neg (by rw [ht]; decide)]
  exact if_pos h

/-- A well formed OPEN, by the key of its role. -/
theorem odapOpen_formed (ht : takes s f = true) (h : frameOk f 1 = true) (hlen : f.payload.length = 16) :
    (roleKey s f.role = none → odapOpen s f = refuseOpen s f none) ∧
    (∀ key, roleKey s f.role = some key → odapOpen s f =
      if f.tag ≠ frameTag key f then authFail s f else if s.serves (roleOf f.role) = false then refuseOpen s f (some key) else openNew s f key) := by
  have hok : ¬ (frameOk f tOpen = false ∨ f.payload.length ≠ 16) := by
    rintro (h' | h')
    · exact absurd (h.symm.trans h') (by decide)
    · exact h' hlen
  refine ⟨fun hk => ?_, fun key hk => ?_⟩
  · unfold odapOpen
    rw [if_neg (by rw [ht]; decide), if_neg hok, hk]
  · unfold odapOpen
    rw [if_neg (by rw [ht]; decide), if_neg hok, hk]

theorem mine_none (h : ∀ x ∈ s.mgmt.sessions, x.peer ≠ f.srcMac) : (s.mgmt.sessions.filter fun x => x.peer == f.srcMac) = [] :=
  List.filter_eq_nil_iff.2 fun x hx => by simpa using h x hx

/-- An accepted OPEN of a peer that has no session. -/
theorem openNew_first (key : List Byte) (h : ∀ x ∈ s.mgmt.sessions, x.peer ≠ f.srcMac) : (freePeers s = [] → openNew s f key = refuseOpen s f (some key)) ∧
    (freePeers s ≠ [] → ∃ p, openNew s f key = openAt s f key p 0) := by
  refine ⟨fun hfree => ?_, fun hfree => ?_⟩
  · unfold openNew
    rw [mine_none h, hfree]
    rfl
  · obtain ⟨p, rest, hp⟩ := List.exists_cons_of_ne_nil hfree
    refine ⟨p, ?_⟩
    unfold openNew
    rw [mine_none h, hp]
    rfl

/-- A session opened. -/
theorem openAt_spec (s : State) (f : Frame) (key : List Byte) (p n : Nat) : Counted s (openAt s f key p n) R.MGT_OPENS 0 1 ∧
    (openAt s f key p n).rst.openCount = s.rst.openCount + 1 ∧
    ∃ x, (openAt s f key p n).mgmt.sessions = s.mgmt.sessions ++ [x] ∧ x.peer = f.srcMac ∧ x.role = f.role ∧ x.number = n ∧ x.l = 0 := by
  have heq : ∃ (x : Session) (r : ResetUnit) (fs : List (Nat × Nat)) (ack : List Byte), openAt s f key p n =
      openAck ((((s.setMgmt { s.mgmt with sessions := s.mgmt.sessions ++ [x] }).setRst r).bumpSat R.MGT_OPENS 0 1).record 0xE001 uFcc fs) f (some key) n ack ∧
      r.openCount = s.rst.openCount + 1 ∧ x.peer = f.srcMac ∧ x.role = f.role ∧ x.number = n ∧ x.l = 0 := ⟨_, _, _, _, rfl, rfl, rfl, rfl, rfl, rfl⟩
  obtain ⟨x, r, fs, ack, heq, hr, hx⟩ := heq
  have hway (v : State) : Keeps [16, 20, 0x6210, 0x7002] v (openAck (v.record 0xE001 uFcc fs) f (some key) n ack) :=
    openAck_keeps (.of rfl Sub.rfl) (record_keeps (.of rfl Sub.rfl) (Keeps.refl _ v))
  have hopen (v : State) : (((v.setMgmt { v.mgmt with sessions := v.mgmt.sessions ++ [x] }).setRst r).bumpSat R.MGT_OPENS 0 1).rst = r ∧
      (((v.setMgmt { v.mgmt with sessions := v.mgmt.sessions ++ [x] }).setRst r).bumpSat R.MGT_OPENS 0 1).mgmt.sessions = v.mgmt.sessions ++ [x] := ⟨rfl, rfl⟩
  obtain ⟨hrst, hses⟩ := hopen s
  rw [heq]
  refine ⟨?_, ?_, x, ?_, hx⟩
  · rw [Counted, (hway _).rd R.MGT_OPENS 0 rfl]
    exact rd_bumpSat_same ..
  · rw [(hway _).rst_eq rfl, hrst, hr]
  · rw [(hway _).mgmt_eq rfl, hses]

theorem findSession_some {p n : Nat} {c : Bool} {x : Session} (h : findSession s p n c = some x) :
    x ∈ s.mgmt.sessions ∧ x.peer = p ∧ x.number = n ∧ x.steward = c := by
  have hp := List.find?_some h
  simp only [Bool.and_eq_true, beq_iff_eq] at hp
  exact ⟨List.mem_of_find?_eq_some h, hp.1.1, hp.1.2, hp.2⟩

/-- A CLOSE of a session takes it off the list. -/
theorem odapClose_spec (ht : takes s f = true) (h : frameOk f 3 = true) :
    (findSession s f.srcMac f.session (forSteward s f) = none → odapClose s f = authFail s f) ∧
    (∀ x, findSession s f.srcMac f.session (forSteward s f) = some x → f.tag = frameTag x.key f → (odapClose s f).mgmt.sessions =
      s.mgmt.sessions.filter fun y => !(y.peer == f.srcMac && y.number == f.session)) := by
  have hok : ¬ frameOk f tClose = false := fun h' => absurd (h.symm.trans h') (by decide)
  refine ⟨fun hn => ?_, fun x hx htag => ?_⟩
  · unfold odapClose
    rw [if_neg (by rw [ht]; decide), if_neg hok, hn]
  · obtain ⟨_, hpeer, hnum, _⟩ := findSession_some hx
    have heq : odapClose s f = sessionEnded (dropSession (sendFrame s x.steward (some x.key)
        { newFrame s f.srcMac tCloseAck [] with role := f.role, session := f.session, seq := f.seq }) x) x seClose := by
      unfold odapClose
      rw [if_neg (by rw [ht]; decide), if_neg hok, hx]
      exact if_neg (not_not.2 htag)
    have hended (v : State) : Keeps [16, 0x7002] v (sessionEnded v x seClose) := sessionEnded_keeps Sub.rfl (Keeps.refl _ v)
    have hdrop (v : State) (hv : v.mgmt = s.mgmt) : (dropSession v x).mgmt.sessions = s.mgmt.sessions.filter fun y => !(y.peer == x.peer && y.number == x.number) := by
      rw [← hv]
      rfl
    rw [heq, (hended _).mgmt_eq rfl, hdrop _ ((sendFrame_way ..).mgmt_eq rfl), hpeer, hnum]

/-- A session that has been idle for too long ends. -/
theorem sessionIdle_spec {slot : Nat} {x : Session} (h : (s.mgmt.sessions.find? fun y => y.peerNo * 8 + y.number == slot) = some x) :
    (¬ (x.running = none ∧ x.lastNs + (1000000000 * s.rd R.MGT_SESS_IDLE_S 0 : Nat) ≤ s.now) → sessionIdle s slot = s) ∧
    (x.running = none ∧ x.lastNs + (1000000000 * s.rd R.MGT_SESS_IDLE_S 0 : Nat) ≤ s.now → (sessionIdle s slot).outbox = s.outbox ∧
      (sessionIdle s slot).mgmt.sessions = s.mgmt.sessions.filter fun y => !(y.peer == x.peer && y.number == x.number)) := by
  have hended (v : State) : Keeps [16, 0x7002] v (sessionEnded v x seIdle) := sessionEnded_keeps Sub.rfl (Keeps.refl _ v)
  refine ⟨fun hnot => ?_, fun ⟨hrun, htime⟩ => ?_⟩
  · unfold sessionIdle
    rw [h]
    refine if_pos ?_
    by_cases hr : x.running = none
    · exact .inr (by by_contra hlt; exact hnot ⟨hr, by omega⟩)
    · exact .inl (Option.isSome_iff_ne_none.2 hr)
  · have heq : sessionIdle s slot = sessionEnded (dropSession s x) x seIdle := by
      unfold sessionIdle
      rw [h]
      refine if_neg ?_
      rintro (h' | h')
      · rw [hrun] at h'
        exact absurd h' (by decide)
      · omega
    rw [heq, (hended _).outbox_eq rfl, (hended _).mgmt_eq rfl]
    exact ⟨rfl, rfl⟩

end

end Sys2Proof.Machine
end

section
/-! Requests of a session, each run once (R368). -/

namespace Sys2Proof.Machine

open Sys2Proof

section
variable {s t : State} {f : Frame} {x : Session}

/-! ### Sessions changed -/

/-- A change of a session that leaves what it is found by. -/
def SameName (g : Session → Session) : Prop := ∀ y, (g y).peer = y.peer ∧ (g y).number = y.number ∧ (g y).steward = y.steward

/-- What a change of one session makes of each. -/
def changed (x : Session) (g : Session → Session) (y : Session) : Session := if y.peer = x.peer ∧ y.number = x.number then g y else y

theorem SameName.changed {g : Session → Session} (h : SameName g) (x : Session) : SameName (changed x g) := by
  intro y
  unfold Machine.changed
  split
  · exact h y
  · exact ⟨rfl, rfl, rfl⟩

theorem modSession_sessions (s : State) (x : Session) (g : Session → Session) : (modSession s x g).mgmt.sessions = s.mgmt.sessions.map (changed x g) := rfl

/-- A session changed is found as before. -/
theorem findSession_modSession {g : Session → Session} (h : SameName g) (p n : Nat) (c : Bool) :
    findSession (modSession s x g) p n c = (findSession s p n c).map (changed x g) := by
  have hcomp : ((fun y : Session => y.peer == p && y.number == n && y.steward == c) ∘ changed x g) = fun y : Session => y.peer == p && y.number == n && y.steward == c := by
    funext y
    obtain ⟨h1, h2, h3⟩ := h.changed x y
    simp only [Function.comp_apply, h1, h2, h3]
  rw [findSession, modSession_sessions, List.find?_map, hcomp]
  rfl

theorem findSession_of_mgmt (h : t.mgmt = s.mgmt) (p n : Nat) (c : Bool) : findSession t p n c = findSession s p n c := by
  rw [findSession, findSession, h]

/-- No other session has the peer and the number of one. -/
def Sole (s : State) (x : Session) : Prop := ∀ y ∈ s.mgmt.sessions, y.peer = x.peer → y.number = x.number → y = x

/-- A session that is alone with its name is the first found by it. -/
theorem find_sole (hx : x ∈ s.mgmt.sessions) (hone : Sole s x) : (s.mgmt.sessions.find? fun y => y.peer == x.peer && y.number == x.number) = some x := by
  have hsome : (s.mgmt.sessions.find? fun y => y.peer == x.peer && y.number == x.number).isSome = true :=
    List.find?_isSome.2 ⟨x, hx, by simp⟩
  obtain ⟨y, hy⟩ := Option.isSome_iff_exists.1 hsome
  have hname := List.find?_some hy
  simp only [Bool.and_eq_true, beq_iff_eq] at hname
  rw [hy, hone y (List.mem_of_find?_eq_some hy) hname.1 hname.2]

theorem changed_self (g : Session → Session) : changed x g x = g x := if_pos ⟨rfl, rfl⟩

/-- A session changed stays alone with its name. -/
theorem Sole.modSession {g : Session → Session} (hone : Sole s x) (hg : SameName g) : Sole (modSession s x g) (g x) := by
  intro y hy hp hn
  rw [modSession_sessions] at hy
  obtain ⟨z, hz, rfl⟩ := List.mem_map.1 hy
  obtain ⟨hzp, hzn, _⟩ := hg.changed x z
  obtain ⟨hxp, hxn, _⟩ := hg x
  rw [hone z hz (hzp.symm.trans (hp.trans hxp)) (hzn.symm.trans (hn.trans hxn)), changed_self]

theorem mem_modSession {g : Session → Session} (hx : x ∈ s.mgmt.sessions) : g x ∈ (modSession s x g).mgmt.sessions := by
  rw [modSession_sessions]
  exact List.mem_map.2 ⟨x, hx, changed_self g⟩

/-! ### Responses (R368) -/

/-- The response that a session gets. -/
def Responds (x : Session) (seq : Nat) (payload : List Byte) (g : Frame) : Prop :=
  g.payload = payload ∧ g.type = 0x11 ∧ g.session = x.number ∧ g.seq = seq ∧ g.dstMac = x.peer

/-- A station's response is one frame. -/
theorem sendResponse_emit (s : State) (hx : x.steward = false) (seq : Nat) (payload : List Byte) :
    ∃ g, sendResponse s x seq payload = s.emit (.frame g) ∧ Responds x seq payload g := by
  unfold sendResponse sendFrame
  rw [hx, if_neg Bool.false_ne_true]
  exact ⟨_, rfl, rfl, rfl, rfl, rfl, rfl⟩

/-- A session's last request, finished with its response. -/
def finished (seq : Nat) (payload : List Byte) (y : Session) : Session := { y with cached := payload, l := seq, reqCrc := y.running, running := none }

theorem finished_name (seq : Nat) (payload : List Byte) : SameName (finished seq payload) := fun _ => ⟨rfl, rfl, rfl⟩

/-- A request finished: one response, which its session caches. -/
theorem finish_spec (hx : x ∈ s.mgmt.sessions) (hone : Sole s x) (hst : x.steward = false) (hend : x.ending = false) (seq : Nat) (payload : List Byte) :
    ∃ g, finish s x.peer x.number seq payload = (modSession s x (finished seq payload)).emit (.frame g) ∧ Responds x seq payload g := by
  obtain ⟨g, hg, hresp⟩ := sendResponse_emit (modSession s x (finished seq payload)) hst seq payload
  refine ⟨g, ?_, hresp⟩
  unfold finish
  rw [find_sole hx hone]
  exact (if_neg (by rw [hend]; decide)).trans hg

/-- A response and the session that holds it. -/
theorem finish_ran (hx : x ∈ s.mgmt.sessions) (hone : Sole s x) (hst : x.steward = false) (hend : x.ending = false)
    (hfind : findSession s x.peer x.number false = some x) (seq : Nat) (payload : List Byte) :
    (∃ g, (finish s x.peer x.number seq payload).outbox = s.outbox ++ [.frame g] ∧ Responds x seq payload g) ∧
      findSession (finish s x.peer x.number seq payload) x.peer x.number false = some (finished seq payload x) := by
  obtain ⟨g, hg, hresp⟩ := finish_spec hx hone hst hend seq payload
  have hout (v : State) : (v.emit (.frame g)).outbox = v.outbox ++ [.frame g] := rfl
  refine ⟨⟨g, by rw [hg, hout]; rfl, hresp⟩, ?_⟩
  have hsame := findSession_of_mgmt (s := modSession s x (finished seq payload)) (t := (modSession s x (finished seq payload)).emit (.frame g)) rfl x.peer x.number false
  rw [hg, hsame, findSession_modSession (finished_name seq payload), hfind, Option.map_some, changed_self]

/-! ### A request by its SEQ (R368) -/

/-- The time of a session's last request. -/
def touched (now : Int) (y : Session) : Session := { y with lastNs := now }

theorem touched_name (now : Int) : SameName (touched now) := fun _ => ⟨rfl, rfl, rfl⟩

/-- A request under way. -/
def running (crc : Nat) (y : Session) : Session := { y with running := some crc }

theorem running_name (crc : Nat) : SameName (running crc) := fun _ => ⟨rfl, rfl, rfl⟩

theorem request_of (ht : takes s f = true) (h : frameOk f 0x10 = true) (hst : forSteward s f = false) :
    (findSession s f.srcMac f.session false = none → request s f = authFail s f) ∧
    (∀ x, findSession s f.srcMac f.session false = some x → f.tag = frameTag x.key f → request s f = requestSeq s x f) := by
  have hok : ¬ frameOk f tRequest = false := fun h' => absurd (h.symm.trans h') (by decide)
  refine ⟨fun hn => ?_, fun x hx htag => ?_⟩
  · unfold request
    rw [if_neg (by rw [ht]; decide), if_neg hok, hst, hn]
  · unfold request
    rw [if_neg (by rw [ht]; decide), if_neg hok, hst, hx]
    exact if_pos htag

/-- The last request repeated is answered from the cache. -/
theorem requestSeq_again (hseq : f.seq = x.l) (hcrc : x.reqCrc = some (crc32c f.payload)) :
    requestSeq s x f = sendResponse ((modSession s x (touched s.now)).bumpSat R.MGT_REPEATS 0 1) x f.seq x.cached := by
  have hnext : decide (f.seq = (x.l + 1) % 2 ^ 32) = false := decide_eq_false (by omega)
  have hold : (f.seq == x.l && x.reqCrc == some (crc32c f.payload)) = true := by simp [hseq, hcrc]
  unfold requestSeq
  dsimp only
  rw [hnext, hold]
  split
  · exact (if_neg (by simp)).trans (if_pos rfl)
  · exact (if_neg (by decide)).trans (if_pos rfl)

/-- A request that still runs is not run again. -/
theorem requestSeq_running (hseq : f.seq = (x.l + 1) % 2 ^ 32) (hrun : x.running = some (crc32c f.payload)) : requestSeq s x f = modSession s x (touched s.now) := by
  unfold requestSeq
  dsimp only
  rw [hrun]
  exact if_pos ⟨decide_eq_true hseq, rfl⟩

/-- A request out of sequence. -/
theorem requestSeq_error (hrun : x.running = none) (hold : f.seq ≠ x.l) (hnext : f.seq ≠ (x.l + 1) % 2 ^ 32) :
    requestSeq s x f = seqError (modSession s x (touched s.now)) x f := by
  unfold requestSeq
  dsimp only
  rw [hrun, decide_eq_false hnext]
  exact (if_neg (by decide)).trans (if_neg (by simp [hold]))

/-- The next request is run. -/
theorem requestSeq_next (hrun : x.running = none) (hseq : f.seq = (x.l + 1) % 2 ^ 32) : requestSeq s x f = requestRun (modSession s x (touched s.now)) x f := by
  unfold requestSeq
  dsimp only
  rw [hrun, decide_eq_true hseq]
  exact if_pos rfl

/-- A request in the state in which it runs. -/
def begun (s : State) (x : Session) (f : Frame) : State := modSession (modSession s x (touched s.now)) x (running (crc32c f.payload))

theorem requestRun_malformed (hst : x.steward = false) (hpos : f.dstPos ≠ 0xFE) :
    requestRun (modSession s x (touched s.now)) x f = finish (begun s x f) x.peer x.number f.seq (oneResult true rMalformed) := by
  unfold requestRun
  dsimp only
  rw [hst, if_neg Bool.false_ne_true, if_neg hpos]
  rfl

theorem requestRun_here (hst : x.steward = false) (hpos : f.dstPos = 0xFE) (hfab : bitOf f.flags 1 = false) :
    requestRun (modSession s x (touched s.now)) x f = finish (runRequest (begun s x f) { role := roleOf x.role, path := .t1s, func := 0 } true (bitOf f.flags 2) f.payload).1
      x.peer x.number f.seq (runRequest (begun s x f) { role := roleOf x.role, path := .t1s, func := 0 } true (bitOf f.flags 2) f.payload).2 := by
  unfold requestRun
  dsimp only
  rw [hst, if_neg Bool.false_ne_true, if_pos hpos]
  unfold runHere
  rw [hfab, if_neg Bool.false_ne_true]
  rfl

/-! ### A request of one read (R360) -/

/-- What is answered of the values read fits, or there is none. -/
theorem readAnswer_room (s : State) (z : State × List Byte × Nat) (n : Nat) {room : Nat} (hr : 7 ≤ room) :
    7 + (if z.2.2 ≠ rOk then (s, { reason := z.2.2 }) else if room < 7 + z.2.1.length then (s, { reason := rTooLarge })
      else (z.1, ({ reason := rOk, count := n, value := z.2.1 } : OpRes))).2.value.length ≤ room := by
  split
  · exact hr
  · split
    · exact hr
    next h => exact not_lt.1 h

theorem runRead_room (s : State) (w : Who) (be : Bool) (r : Reg) (inst : Nat) {room : Nat} (hr : 7 ≤ room) : 7 + (runRead s w be r inst room).2.value.length ≤ room := by
  unfold runRead
  dsimp only
  by_cases h : decide (inst < 0xFE00) = false ∧ r.acc = .rc
  · rw [if_pos h]
    exact hr
  · rw [if_neg h]
    exact readAnswer_room _ _ _ hr

/-- An operation that reads. -/
theorem runOp_read (s : State) (w : Who) (be : Bool) {o : Op} (ho : o.op = 1) : 7 + (runOp s w be o 1024).2.value.length ≤ 1024 ∧
    Keeps [4, 11, 21, 31] s (runOp s w be o 1024).1 := by
  have hnone (reason : Nat) : 7 + ({ reason := reason } : OpRes).value.length ≤ 1024 := (by decide : 7 ≤ 1024)
  unfold runOp
  by_cases hbad : (o.op ≠ 1 ∧ o.op ≠ 2) ∨ (o.op = 1 ∧ o.value ≠ [])
  · rw [if_pos hbad]
    exact ⟨hnone _, Keeps.refl _ s⟩
  · rw [if_neg hbad]
    cases opReg o with
    | none => exact ⟨hnone _, Keeps.refl _ s⟩
    | some r =>
      dsimp only
      by_cases hres : 0xFF00 ≤ o.inst ∧ o.inst < 0xFFFF
      · rw [if_pos hres]
        exact ⟨hnone _, Keeps.refl _ s⟩
      · rw [if_neg hres, if_pos ho]
        exact ⟨runRead_room _ _ _ _ _ (by decide), runRead_keeps Sub.rfl (Keeps.refl _ s)⟩

/-- A request of one read, and its response. -/
theorem runRequest_read (s : State) (w : Who) (be stop : Bool) {o : Op} {bs : List Byte} (hops : opsOf be 64 bs = some [o]) (ho : o.op = 1) :
    runRequest s w be stop bs = ((runOp s w be o 1024).1, resBytes be (runOp s w be o 1024).2) := by
  have hfit : addRes be [] (runOp s w be o 1024).2 = resBytes be (runOp s w be o 1024).2 := by
    have h := (runOp_read s w be ho).1
    exact (if_pos (by simpa using h)).trans (List.nil_append _)
  unfold runRequest
  rw [hops]
  show runOps s w be stop [o] false [] = _
  unfold runOps
  rw [Bool.false_and, if_neg Bool.false_ne_true, List.length_nil, Nat.sub_zero]
  exact congrArg (Prod.mk _) hfit

/-! ### What a request leaves (R368) -/

/-- A session is found by its peer and number, and no other has them. -/
structure Here (s : State) (x : Session) : Prop where
  mem : x ∈ s.mgmt.sessions
  sole : Sole s x
  station : x.steward = false
  found : findSession s x.peer x.number false = some x

theorem Here.changed {g : Session → Session} (h : Here s x) (hg : SameName g) : Here (modSession s x g) (g x) := by
  obtain ⟨hp, hn, hs⟩ := hg x
  refine ⟨mem_modSession h.mem, h.sole.modSession hg, hs.trans h.station, ?_⟩
  rw [hp, hn, findSession_modSession hg, h.found, Option.map_some, changed_self]

theorem Here.of_mgmt (h : Here s x) (ht : t.mgmt = s.mgmt) : Here t x := by
  obtain ⟨hmem, hsole, hst, hfound⟩ := h
  refine ⟨by rw [ht]; exact hmem, ?_, hst, (findSession_of_mgmt ht ..).trans hfound⟩
  unfold Sole
  rw [ht]
  exact hsole

/-- The session while its request runs. -/
theorem Here.begun (h : Here s x) (f : Frame) : Here (begun s x f) (running (crc32c f.payload) (touched s.now x)) := by
  have h1 := h.changed (touched_name s.now)
  exact h1.changed (running_name (crc32c f.payload))

/-- A request run: one response, which its session holds. -/
theorem Here.ran (h : Here s x) (hend : x.ending = false) {u : State} (hm : u.mgmt = (Machine.begun s x f).mgmt) (ho : u.outbox = s.outbox) (payload : List Byte) :
    (∃ g, (finish u x.peer x.number f.seq payload).outbox = s.outbox ++ [.frame g] ∧ Responds x f.seq payload g) ∧
      ∃ y, findSession (finish u x.peer x.number f.seq payload) x.peer x.number false = some y ∧ y.l = f.seq ∧ y.cached = payload ∧ y.running = none := by
  have hu := (h.begun f).of_mgmt hm
  obtain ⟨⟨g, hout, hresp⟩, hfind⟩ := finish_ran hu.mem hu.sole hu.station hend hu.found f.seq payload
  exact ⟨⟨g, hout.trans (by rw [ho]), hresp⟩, _, hfind, rfl, rfl, rfl⟩

/-- The cached response sent again, and counted. -/
theorem again_spec (hst : x.steward = false) (s : State) (seq : Nat) :
    (∃ g, (sendResponse ((modSession s x (touched s.now)).bumpSat R.MGT_REPEATS 0 1) x seq x.cached).outbox = s.outbox ++ [.frame g] ∧ Responds x seq x.cached g) ∧
      Counted s (sendResponse ((modSession s x (touched s.now)).bumpSat R.MGT_REPEATS 0 1) x seq x.cached) R.MGT_REPEATS 0 1 := by
  obtain ⟨g, hg, hresp⟩ := sendResponse_emit ((modSession s x (touched s.now)).bumpSat R.MGT_REPEATS 0 1) hst seq x.cached
  rw [hg]
  exact ⟨⟨g, rfl, hresp⟩, rd_bumpSat_same (s := modSession s x (touched s.now)) ..⟩

/-- A request out of sequence answered, and counted. -/
theorem seqError_spec (hst : x.steward = false) (s : State) (f : Frame) :
    (∃ g, (seqError (modSession s x (touched s.now)) x f).outbox = s.outbox ++ [.frame g] ∧ Responds x f.seq (oneResult true rSequence) g) ∧
      Counted s (seqError (modSession s x (touched s.now)) x f) R.MGT_SEQ_ERR 0 1 := by
  let v := ((modSession s x (touched s.now)).bumpSat R.MGT_SEQ_ERR 0 1).record 0xE004 uFcc [(1, x.number), (4, f.seq), (4, x.l)]
  have hrec : Keeps [16, 0x7002] ((modSession s x (touched s.now)).bumpSat R.MGT_SEQ_ERR 0 1) v := keeps_record ..
  obtain ⟨g, hg, hresp⟩ := sendResponse_emit v hst f.seq (oneResult true rSequence)
  have heq : seqError (modSession s x (touched s.now)) x f = v.emit (.frame g) := hg
  have hout : (v.emit (.frame g)).outbox = v.outbox ++ [.frame g] := rfl
  rw [heq, Counted, rd_emit, hrec.rd R.MGT_SEQ_ERR 0 rfl]
  refine ⟨⟨g, by rw [hout, hrec.outbox_eq rfl]; rfl, hresp⟩, rd_bumpSat_same (s := modSession s x (touched s.now)) ..⟩

end

/-- Settles O53: frames that no session takes, the opening and the end of sessions, and their requests, each run once. -/
theorem odapSessions : Obligations.OdapSessions := by
  intro s f counted
  refine ⟨fun ht c hc => ?_, fun ht => ⟨fun h => ?_, fun h => ?_, fun h => ?_, fun h hlen => ⟨fun hk => ?_, fun key hk htag => ?_, fun key hk htag hserve hpeer =>
    ⟨fun hfree => ?_, fun hfree => ?_⟩⟩, fun h => ⟨fun hn => ?_, fun x hx htag => ?_⟩, fun h hst => ⟨fun hn => ?_, fun x hx htag hone => ?_⟩⟩, fun slot x hx => ?_⟩
  · have hnone : odapOpen s f = s ∧ odapClose s f = s ∧ request s f = s := ⟨if_pos ht, if_pos ht, if_pos ht⟩
    obtain ⟨h1, h2, h3⟩ := hnone
    rcases List.mem_cons.1 hc with rfl | hc
    · exact ⟨_, rfl, h1⟩
    · rcases List.mem_cons.1 hc with rfl | hc
      · exact ⟨_, rfl, h2⟩
      · obtain rfl := List.mem_singleton.1 hc
        exact ⟨_, rfl, h3⟩
  · exact ⟨_, congrArg Host.Outcome.next (odapOpen_malformed ht h), rxDrop_spec s f⟩
  · have hdrop : odapClose s f = rxDrop s f := (if_neg (by rw [ht]; decide)).trans (if_pos h)
    exact ⟨_, congrArg Host.Outcome.next hdrop, rxDrop_spec s f⟩
  · have hdrop : request s f = rxDrop s f := (if_neg (by rw [ht]; decide)).trans (if_pos h)
    exact ⟨_, congrArg Host.Outcome.next hdrop, rxDrop_spec s f⟩
  · exact ⟨_, congrArg Host.Outcome.next ((odapOpen_formed ht h hlen).1 hk), (openAck_way ..).mgmt_eq rfl⟩
  · exact ⟨_, congrArg Host.Outcome.next (((odapOpen_formed ht h hlen).2 key hk).trans (if_pos htag)), authFail_spec s f⟩
  · have hopen := ((odapOpen_formed ht h hlen).2 key hk).trans ((if_neg (not_not.2 htag)).trans (if_neg (by rw [hserve]; decide)))
    exact ⟨_, congrArg Host.Outcome.next (hopen.trans ((openNew_first key hpeer).1 hfree)), (openAck_way ..).mgmt_eq rfl⟩
  · have hopen := ((odapOpen_formed ht h hlen).2 key hk).trans ((if_neg (not_not.2 htag)).trans (if_neg (by rw [hserve]; decide)))
    obtain ⟨p, hp⟩ := (openNew_first key hpeer).2 hfree
    exact ⟨_, congrArg Host.Outcome.next (hopen.trans hp), openAt_spec ..⟩
  · exact ⟨_, congrArg Host.Outcome.next ((odapClose_spec ht h).1 hn), authFail_spec s f⟩
  · exact ⟨_, rfl, (odapClose_spec ht h).2 x hx htag⟩
  · exact ⟨_, congrArg Host.Outcome.next ((request_of ht h hst).1 hn), authFail_spec s f⟩
  · obtain ⟨hmem, hpeer, hnum, hstation⟩ := findSession_some hx
    have hhere : Here s x := ⟨hmem, hone, hstation, by rw [hpeer, hnum]; exact hx⟩
    have hreq : request s f = requestSeq s x f := (request_of ht h hst).2 x hx htag
    refine ⟨fun hseq hcrc => ?_, fun hseq hrun => ?_, fun hrun hold hnext => ?_, fun hrun hseq hend => ⟨fun hpos => ?_, fun o hpos hfab hops ho => ?_⟩⟩
    · obtain ⟨hans, hcount⟩ := again_spec hstation s f.seq
      exact ⟨_, congrArg Host.Outcome.next (hreq.trans (requestSeq_again hseq hcrc)), hans, hcount⟩
    · refine ⟨_, congrArg Host.Outcome.next (hreq.trans (requestSeq_running hseq hrun)), rfl, fun y hy => ?_⟩
      exact Option.some.inj (hy.symm.trans (hhere.changed (touched_name s.now)).found)
    · obtain ⟨hans, hcount⟩ := seqError_spec hstation s f
      exact ⟨_, congrArg Host.Outcome.next (hreq.trans (requestSeq_error hrun hold hnext)), hans, hcount⟩
    · obtain ⟨hans, hran⟩ := hhere.ran (f := f) hend rfl rfl (oneResult true rMalformed)
      exact ⟨_, congrArg Host.Outcome.next (hreq.trans ((requestSeq_next hrun hseq).trans (requestRun_malformed hstation hpos))), hans, hran⟩
    · obtain ⟨_, hway⟩ := runOp_read (begun s x f) { role := roleOf x.role, path := .t1s, func := 0 } true ho
      obtain ⟨hans, hran⟩ := hhere.ran (f := f) hend (hway.mgmt_eq rfl) (hway.outbox_eq rfl)
        (resBytes true (runOp (begun s x f) { role := roleOf x.role, path := .t1s, func := 0 } true o 1024).2)
      have hrunning := requestRun_here (s := s) (f := f) hstation hpos hfab
      rw [runRequest_read _ _ _ _ hops ho] at hrunning
      exact ⟨_, congrArg Host.Outcome.next (hreq.trans ((requestSeq_next hrun hseq).trans hrunning)), hans, hran⟩
  · obtain ⟨hno, hdue⟩ := sessionIdle_spec hx
    exact ⟨fun h => ⟨_, rfl, hno h⟩, fun h => ⟨_, rfl, hdue h⟩⟩

end Sys2Proof.Machine
end

section
/-! Management over VC0 with more requests than are outstanding at a time (R373). -/

namespace Sys2Proof.Machine

open Sys2Proof

/-- A request of mailbox 0 that the FCC forwards to chip 5. -/
def boxFrame (k : Nat) : Frame :=
  { srcMac := 0, dstMac := 0, ver := 1, type := tRequest, flags := 0, role := 1, srole := 0, session := 0, sseq := 0, dstPos := 0xFE, seq := k, tray := 0,
    len := 8, payload := List.replicate 8 0, tag := [] }

def boxForward (k : Nat) : Forward := { key := k, target := 5, frame := boxFrame k, asker := .mbox k }

/-- A chip with 17 requests on their way, 16 of them outstanding for 3 ms. -/
def fullForwards : State :=
  { ({} : State) with
    od := [(odKey R.RST_STAGE 0, 8)]
    rst := { standby := true, pwrEn := true, pwrGood := true }
    time := { ns := 3000000 }
    mgmt := { forwards := (List.range 17).map boxForward, fwdSeq := 17 } }

/-- Refutes O54, by its clause on a request over VC0 that is not answered in time: it says that the requests on their way are then those
before without the one that timed out, while the seventeenth, which now comes within the 16 outstanding, is sent and its timer starts
(R373), so its entry is another. With at most 16 requests on their way nothing else is sent, and the clause holds of the list. -/
theorem not_managementPaths : ¬ Obligations.ManagementPaths := by
  intro h
  obtain ⟨-, -, hvc0⟩ := h
  obtain ⟨-, -, -, hdone, -⟩ := hvc0 fullForwards { dtag := 0, part := 0xFF, srole := 0, sseq := 0, sender := 5, tray := 0 } (boxFrame 0) (by decide +kernel)
    (by decide +kernel) rfl
  obtain ⟨-, -, -, htimeout⟩ := hdone (boxForward 0) 0 (by decide +kernel) rfl
  refine not_does (test := fun t => t.mgmt.forwards.any fun w => w.sentNs == 3000000) ?_ (fun t ht hp => ?_) (htimeout (by decide +kernel))
  · decide +kernel
  · obtain ⟨-, -, hforwards⟩ := hp
    rw [hforwards] at ht
    exact absurd ht (by decide +kernel)

end Sys2Proof.Machine
end
